-- ==== Sys2Proof/Word.lean ====
section
/-! DEFINITION. The word types of the YC64 model: bytes, byte strings and the sparse table that holds every array of
units of the part as plain data. -/

namespace Sys2Proof

/-- One byte. -/
abbrev Byte := BitVec 8

/-- A byte string, the byte at the lowest address first (00 R5). -/
abbrev Bytes := List Byte

/-- One FP32 value by its bits (00 R6). -/
abbrev F32 := BitVec 32

/-- A sparse table: keys strictly rising, no entry equal to the table's default value. An absent key reads as the
default. Memory is a `Tbl Byte` with default 0. -/
abbrev Tbl (α : Type) := List (Nat × α)

end Sys2Proof
end

