-- ==== Sys2Proof/Syntax.lean ====
section
/-! DEFINITION. The commands of the YC64: one constructor per row of spec/opcode_table.json, with the operands the model
gives each row (the table gives none, log 12), and the operand types. An operand carries what an agent outside the
state decides: a packet, a register access, a sensor reading, the outcome of a check. -/

namespace Sys2Proof

/-- What starts a main reset (18 R400): the RESET_N pin, or a CHIP_RESET delay or thermal trip that has come due. -/
inductive ResetCause where
  | pin | due
  deriving DecidableEq, Repr

/-- The supply rails of 21 Table 21.5. -/
inductive Rail where
  | rgn (n : Fin 16) | stack | spine | net | tier | ctl | aon | g7 | serdes
  deriving DecidableEq, Repr

/-- The reference clocks of 21 Table 21.8, the crystal apart. -/
inductive RefClk where
  | sys | net (n : Fin 4) | tier (n : Fin 4) | svc
  deriving DecidableEq, Repr

/-- The dies whose loss 02 Table 2.5 escalates at chip level. -/
inductive DieName where
  | net (n : Fin 4) | tier (n : Fin 4) | ctl (n : Fin 2)
  deriving DecidableEq, Repr

/-- The wake comparators of 18 R410. -/
inductive WakeSource where
  | time | temp | supply | pin
  deriving DecidableEq, Repr

/-- How an expander's link trained (05 R110, R111): rate code of TIER_STATUS, width in lanes, device capacity in GiB, and
whether the device lies within Table 5.1. -/
structure TierTrain where
  rate : Nat
  width : Nat
  capGiB : Nat
  supported : Bool
  deriving DecidableEq, Repr

/-- What the NVM answers at SFDP (18 R390, R391). -/
structure NvmInfo where
  sfdp : Bool
  sizeBytes : Nat
  erase64K : Bool
  octal : Bool
  deriving DecidableEq, Repr

/-- What a boot meets outside the state (18 Table 18.6): the hold conditions of 21 R458 (the rails in mV, of which one that is not listed lies
within Table 21.5; sensors in units of 0.25 °C), the
ROM self-checks, the NVM, failed AVSBus attempts of each region (21 R455), the 48 GDDR7 devices (their density in Gb, none
when absent or failing training, 04 R81), the units that self-test fails (16 R364), the links, and whether
the seal of a saved state verifies (R411). -/
structure BootEnv where
  rails : List (Rail × Nat)
  sysRefclk : Bool
  sensors : List Int
  rom0Ok : Bool
  rom1Ok : Bool
  nvm : NvmInfo
  avsFails : List Nat
  devices : List (Option Nat)
  badCells : List (Fin 128 × Fin 17)
  badRegions : List (Fin 16)
  tiers : List (Option TierTrain)
  ethUp : List Bool
  sealOk : Bool
  deriving DecidableEq, Repr

/-- A Jexus header (11 Table 11.1). `rsv` holds the reserved bits in order, which must be zero. -/
structure JxHdr where
  version : BitVec 4
  opcode : BitVec 8
  enc : Bool
  auth : Bool
  ceEcho : Bool
  src : BitVec 24
  dst : BitVec 24
  tenant : BitVec 12
  payloadLen : BitVec 14
  msgId : BitVec 32
  msgLen : BitVec 25
  pktIndex : BitVec 11
  windowId : BitVec 14
  windowGen : BitVec 16
  offset : BitVec 48
  immediate : BitVec 32
  msgTime : BitVec 64
  epoch : BitVec 32
  rsv : Nat
  deriving DecidableEq, Repr

/-- A Jexus packet as it arrives at a port: destination IP address and UDP port, source IP address (IPv4 as ::ffff:a.b.c.d), the ECN CE mark, header, payload
and the 16-byte tag when one follows. -/
structure RxFrame where
  port : Fin 8
  dstAddr : BitVec 128
  dstPort : BitVec 16
  srcAddr : BitVec 128
  ce : Bool
  hdr : JxHdr
  payload : Bytes
  tag : Option (BitVec 128)
  deriving DecidableEq, Repr

/-- Frames that are no Jexus packet (11 R240). -/
inductive FrameKind where
  | fragmentOrOptions | badChecksum | arp | neighbourDiscovery | ptp | other
  deriving DecidableEq, Repr

/-- A tensor of a node (03 R56). -/
structure TensorId where
  slot : Fin 262144
  layer : Fin 256
  kind : Fin 4
  deriving DecidableEq, Repr

/-- A page of a tensor (03 R57): head group and page index. -/
structure PageId where
  ten : TensorId
  group : Fin 64
  page : Fin 1048576
  deriving DecidableEq, Repr

/-- What the line code of the fast tier found in one transfer (04 R93): nothing, or a line that it corrected or could not, by cache address. -/
inductive LineOutcome where
  | clean | corrected (line : BitVec 44) | uncorrectable (line : BitVec 44)
  deriving DecidableEq, Repr

/-- A transfer whose link CRC failed (04 R83): its channel, and whether it is the repeat of the transfer that failed last. -/
structure CrcFail where
  ch : Fin 192
  again : Bool
  deriving DecidableEq, Repr

/-- A packet that has the node read a window (11 R248, R249), and what the line code finds in the lines read (04 R93). -/
structure ReadPkt where
  frame : RxFrame
  lines : LineOutcome
  deriving DecidableEq, Repr

/-- A message of the PTP exchange (11 R271): its domain number, and whether it is a Sync. -/
structure PtpMsg where
  domain : BitVec 8
  sync : Bool
  deriving DecidableEq, Repr

/-- A DMA channel that has moved all of its run (13 R301), and what the line code found in the lines it read (04 R93). -/
structure RunEnd where
  ch : Fin 320
  lines : LineOutcome
  deriving DecidableEq, Repr

/-- How an atom ended (04 R104): whole, with what its own reads met (R93) and whether a scratch error was corrected (02 Table 2.5), or not. -/
inductive AtomOutcome where
  | closed (read : LineOutcome) (scratchCorrected : Bool) | scratchError | aborted
  deriving DecidableEq, Repr

/-- Which lines of a page a read met an error in: its own (of a delta page the coded ones), its base page's (10 R229), or those of the level-3 node
that holds its leaf (03 R58). -/
inductive ReadPart where
  | page | base | node
  deriving DecidableEq, Repr

/-- What a page read met on its way, for the page of kind `k` (04 R93, R105, 05 R126; stack SRAM, 02 Table 2.5). -/
inductive ReadOutcome where
  | clean | corrected (k : Fin 4) (part : ReadPart) | uncorrectable (k : Fin 4) (part : ReadPart) | abandonedMismatch
  | poison (k : Fin 4) | timeout (k : Fin 4) | stackCorrected | controlLost
  deriving DecidableEq, Repr

/-- What goes wrong in a cell while it computes a tile (06 R151): by how much a group sum that the adder produced, a product of significands (B16), the
pairwise tree of the cell's `n`-th group (B16) or a multiply-add of a scale or curve unit lies off. -/
inductive CellFault where
  | groupSum (off : Int) | significand (off : Int) | tree (n : Nat) (off : Int) | mulAdd (off : Int)
  deriving DecidableEq, Repr

/-- A fault of a physical cell of the block in the score pass or the value pass of a tile (06 R151, R152). -/
structure TileFault where
  cell : Fin 17
  value : Bool
  what : CellFault
  deriving DecidableEq, Repr

/-- What a migration met (05 R122, R126; 04 R93): nothing, poison or a time-out at a port, a line of the fast tier that its code corrected or could
not. -/
inductive MigOutcome where
  | done | poison (port : Fin 4) | timeout (port : Fin 4) | fastCorrected (line : BitVec 44) | fastError (line : BitVec 44)
  deriving DecidableEq, Repr

/-- Who starts a DMA channel (13 R299): a START write of firmware, or an instance's DMA_START action. -/
inductive DmaStart where
  | write (c : Fin 320) | action (inst : Nat)
  deriving DecidableEq, Repr

/-- The early ends of a DMA run (13 Table 13.5), with the line (of a deep line, port · 2^41 + device address), or whether it is the destination's access that
met the error; `dieAbort` is the channel's die asking for it during recovery. -/
inductive DmaError where
  | lineUncorrectable (line : BitVec 44) | poison (dst : Bool) (line : BitVec 43) | timeout (dst : Bool) | stackUncorrectable (dst : Bool) | fenced | dieAbort
  deriving DecidableEq, Repr

/-- Who holds a link key (17 R374): the fabric, or a key slot. -/
inductive KeyHolder where
  | fabric | slot (s : Fin 1024)
  deriving DecidableEq, Repr

/-- Where a DATUM_SUBMIT comes from (15 R339): a Jexus message, or the latched firmware command. -/
inductive SubmitSource where
  | message (f : RxFrame) | window
  deriving DecidableEq, Repr

/-- Who writes a catchment register (19 R420): firmware (a core), or a host through BAR0 with its Requester ID. -/
inductive Writer where
  | firmware | host (rid : BitVec 16)
  deriving DecidableEq, Repr

/-- What ends a service claim at the link (20 R435). -/
inductive SvcReset where
  | functionLevel | hot | linkDown
  deriving DecidableEq, Repr

/-- An access to a register: firmware's own, or a TLP to the service function (20 R433): who makes it, whether it addresses
configuration space in place of BAR0, byte offset, length in bytes, whether every byte enable is set, and the data of a write. -/
structure Tlp where
  who : Writer
  config : Bool
  offset : Nat
  len : Nat
  allEnables : Bool
  data : Bytes
  deriving DecidableEq, Repr

/-- The write part of an I2C transaction (R447): the 7-bit address the controller sends, and the bytes it writes. -/
structure I2cWrite where
  addr : BitVec 7
  data : Bytes
  deriving DecidableEq, Repr

/-- The commands: one constructor per row of spec/opcode_table.json, in its order. -/
inductive Instr where
  /-- POWER_ON_RESET (R400). -/
  | powerOnReset
  /-- AON_RESET_RELEASE (R457). -/
  | aonResetRelease (straps : BitVec 2)
  /-- MAIN_RESET (R400). -/
  | mainReset (cause : ResetCause)
  /-- RESET_RELEASE (R399). -/
  | resetRelease (env : BootEnv)
  /-- THERMAL_TRIP (R463). -/
  | thermalTrip (sensor : Nat) (temp : Nat)
  /-- RAIL_FAULT (R456). -/
  | railFault (rail : Rail) (mv : Nat)
  /-- AVS_TRANSACTION (R455). -/
  | avsTransaction (r : Fin 16) (code : BitVec 10) (failures : Nat)
  /-- REFCLK_STOP (R460). -/
  | refclkStop (clk : RefClk)
  /-- XTAL_STOP (R460). -/
  | xtalStop
  /-- PLL_LOCK_LOSS (R38). -/
  | pllLockLoss (r : Fin 16)
  /-- SPINE_STATION_FAULT (R36). -/
  | spineStationFault (st : Fin 6) (parity : Bool)
  /-- DIE_LOSS (R38). -/
  | dieLoss (die : DieName)
  /-- SLEEP (R407). -/
  | sleep
  /-- SLEEP_QUIESCED (R407). -/
  | sleepQuiesced
  /-- SLEEP_REQ_ASSERT (R407). -/
  | sleepReqAssert
  /-- WAKE_COMPARATOR_FIRE (R410). -/
  | wakeComparatorFire (which : WakeSource) (sample : Int)
  /-- THERMAL_SAMPLE (R44): the readings of the region die's 8 sensors (R462). -/
  | thermalSample (r : Fin 16) (readings : Vector (BitVec 10) 8)
  /-- SIDE_LINK_COMPARE (R46). -/
  | sideLinkCompare (pair : Fin 15) (mvLow mvHigh : Nat)
  /-- SKEW_CLAMP_APPLY (R47). -/
  | skewClampApply (r : Fin 16)
  /-- SUPPLY_SKEW_TIMEOUT (R46). -/
  | supplySkewTimeout (pair : Fin 15)
  /-- CLAMP_RELEASE_STEP (R48). -/
  | clampReleaseStep (r : Fin 16)
  /-- DVFS_POINT_CHANGE (R43). -/
  | dvfsPointChange (r : Fin 16) (point : Fin 35)
  /-- SUPPLY_RAMP_END (R43). -/
  | supplyRampEnd (r : Fin 16)
  /-- POWER_MEASURE (R51). -/
  | powerMeasure (watts : Nat)
  /-- QUIET_GATE (R405). -/
  | quietGate (r : Fin 16)
  /-- QUIET_UNGATE (R405). -/
  | quietUngate (r : Fin 16)
  /-- G7_RETRACK (R82). -/
  | g7Retrack (ch : Fin 192)
  /-- REFPB_DUE (R85). -/
  | refpbDue (ch : Fin 192) (bankReads : Bool)
  /-- DEVICE_TEMP_READ (R86). -/
  | deviceTempRead (dev : Fin 48) (celsius : Int)
  /-- LINK_CRC_FAIL (R83). -/
  | linkCrcFail (x : CrcFail)
  /-- CHANNEL_RETRAIN_DONE (R83). -/
  | channelRetrainDone (ch : Fin 192) (ok : Bool)
  /-- SCRUB_PASS (R102). -/
  | scrubPass (r : Fin 16)
  /-- UNIT_MODE_COMPUTE (R96). -/
  | unitModeCompute (r : Fin 16)
  /-- UNIT_MODE_NORMAL (R96). -/
  | unitModeNormal (r : Fin 16)
  /-- APPEND_TAIL (R100). -/
  | appendTail (ch : Fin 192)
  /-- REQUANT (R139). -/
  | requant (ch : Fin 192)
  /-- REENCODE (R101). -/
  | reencode (ch : Fin 192)
  /-- COMPACT (R212). -/
  | compact (ch : Fin 192)
  /-- DELTA_DECODE (R222). -/
  | deltaDecode (ch : Fin 192)
  /-- SCRUB (R100). -/
  | scrub (ch : Fin 192)
  /-- ATOM_START (R107). -/
  | atomStart (ch : Fin 192) (readsWaiting : Bool)
  /-- ATOM_END (R99). -/
  | atomEnd (ch : Fin 192) (outcome : AtomOutcome) (lcWaiting : Bool)
  /-- JOURNAL_REDO (R105). -/
  | journalRedo (ch : Fin 192) (index : Nat) (scratchOk : Bool)
  /-- LEAF_UPDATE (R62). -/
  | leafUpdate (job : Nat)
  /-- OLD_FRAME_FREE (R62). -/
  | oldFrameFree (frame : Nat)
  /-- SHADOW_CHECK (R75). -/
  | shadowCheck (r : Fin 16) (badShadow : List (Fin 16384))
  /-- SEQ_OPEN (R55). -/
  | seqOpen (inst : Nat)
  /-- TENSOR_REG (R56). -/
  | tensorReg (inst : Nat)
  /-- SET_FINGERPRINT (R72). -/
  | setFingerprint (inst : Nat)
  /-- SEQ_RELEASE (R77). -/
  | seqRelease (inst : Nat)
  /-- SEQ_FREE (R78). -/
  | seqFree (slot : Fin 262144)
  /-- DIR_SEARCH (R69). -/
  | dirSearch (inst : Nat)
  /-- MIGRATE (R118). -/
  | migrate (inst : Nat)
  /-- MIGRATION_END (R118). -/
  | migrationEnd (ten : TensorId) (outcome : MigOutcome)
  /-- TIER_HINT (R124). -/
  | tierHint (inst : Nat)
  /-- REWRITE_REQUANT (R139). -/
  | rewriteRequant (inst : Nat)
  /-- REWRITE_DELTA (R221). -/
  | rewriteDelta (inst : Nat)
  /-- DELTA_PAGE_CONVERT (R222). -/
  | deltaPageConvert (ten : TensorId)
  /-- AUTO_DEMOTE (R124). -/
  | autoDemote (r : Fin 16)
  /-- BACKING_DROP (R123). -/
  | backingDrop
  /-- STAGING_WRITEBACK (R112). -/
  | stagingWriteback (page : PageId)
  /-- STRIPE_COPY (R67). -/
  | stripeCopy (page : PageId)
  /-- TIER_EVENT_POLL (R126). -/
  | tierEventPoll (port : Fin 4) (corrected : Nat)
  /-- CXL_TIMEOUT (R126). -/
  | cxlTimeout (port : Fin 4)
  /-- TIER_LINK_LOSS (R127). -/
  | tierLinkLoss (port : Fin 4)
  /-- PERST_RETRY (R128). -/
  | perstRetry (port : Fin 4)
  /-- TIER_LINK_TRAINED (R129). -/
  | tierLinkTrained (port : Fin 4) (train : TierTrain)
  /-- QUERY (R181). -/
  | query (inst : Nat)
  /-- CONFIRM (R182). -/
  | confirm (req : Nat)
  /-- CONFIRM_ARRIVAL (R184). -/
  | confirmArrival (req : Nat) (r : Fin 16)
  /-- CONTEXT_ALLOCATE (R311). -/
  | contextAllocate (req : Nat) (r : Fin 16)
  /-- PAGE_READ (R117). -/
  | pageRead (req : Nat) (r : Fin 16) (lane : Fin 8) (outcome : ReadOutcome)
  /-- TILE_CHECK (R152). -/
  | tileCheck (req : Nat) (r : Fin 16) (lane : Fin 8) (faults : List TileFault)
  /-- REGION_FOLD (R186). -/
  | regionFold (req : Nat) (r : Fin 16)
  /-- NET_FOLD_EMIT (R186). -/
  | netFoldEmit (req : Nat)
  /-- PREEMPT (R315). -/
  | preempt (req : Nat) (r : Fin 16) (block : Fin 8)
  /-- CONTEXT_RESUME (R316). -/
  | contextResume (r : Fin 16) (block : Fin 8)
  /-- APPEND (R206). -/
  | append (inst : Nat)
  /-- APPEND_FILL_STEP (R207). -/
  | appendFillStep (app : Nat)
  /-- APPEND_HELD_RELEASE (R182). -/
  | appendHeldRelease (app : Nat)
  /-- COMMIT (R210). -/
  | commit (f : RxFrame)
  /-- ROLLBACK (R215). -/
  | rollback (f : RxFrame)
  /-- SHIFT (R217). -/
  | shift (f : RxFrame)
  /-- COMPACTION_START (R212). -/
  | compactionStart (slot : Fin 262144)
  /-- COMMIT_FINAL_STEP (R212). -/
  | commitFinalStep (slot : Fin 262144)
  /-- SHIFT_COMPLETE (R217). -/
  | shiftComplete (slot : Fin 262144)
  /-- JX_WRITE (R246). -/
  | jxWrite (f : RxFrame)
  /-- JX_WRITE_IMM (R247). -/
  | jxWriteImm (f : RxFrame)
  /-- JX_READ (R248). -/
  | jxRead (x : ReadPkt)
  /-- JX_CAS (R249). -/
  | jxCas (x : ReadPkt)
  /-- JX_RESPONSE_RECEIVE (R254). -/
  | jxResponseReceive (f : RxFrame)
  /-- JX_ACK_RECEIVE (R260). -/
  | jxAckReceive (f : RxFrame)
  /-- JX_NAK_RECEIVE (R264). -/
  | jxNakReceive (f : RxFrame)
  /-- NON_JEXUS_FRAME (R240). -/
  | nonJexusFrame (port : Fin 8) (kind : FrameKind)
  /-- PTP_MESSAGE (R271). -/
  | ptpMessage (die : Fin 4) (msg : PtpMsg) (offset : Int)
  /-- PTP_LOCKED (R272). -/
  | ptpLocked (die : Fin 4)
  /-- PTP_HOLDOVER (R271). -/
  | ptpHoldover (die : Fin 4)
  /-- PTP_UNLOCK (R271). -/
  | ptpUnlock (die : Fin 4) (errorNs : Nat)
  /-- ETH_LINK_CHANGE (R245). -/
  | ethLinkChange (port : Fin 8) (up : Bool)
  /-- ACK_COALESCE_EXPIRE (R260). -/
  | ackCoalesceExpire (endpoint : BitVec 24)
  /-- JX_RETRANSMIT_TIMER (R261). -/
  | jxRetransmitTimer (msgId : BitVec 32) (pkt : Nat)
  /-- JX_MSG_EXPIRE (R261). -/
  | jxMsgExpire (msgId : BitVec 32)
  /-- JX_NAK_BACKOFF_EXPIRE (R265). -/
  | jxNakBackoffExpire (msgId : BitVec 32)
  /-- TRACKER_EXPIRE (R256). -/
  | trackerExpire (src : BitVec 24) (msgId : BitVec 32)
  /-- FILTER_EXPIRE (R258). -/
  | filterExpire (src : BitVec 24) (msgId : BitVec 32)
  /-- PATH_COOL_EXPIRE (R245). -/
  | pathCoolExpire (path : Fin 64)
  /-- CONG_WINDOW_GROW (R262). -/
  | congWindowGrow (endpoint : BitVec 24)
  /-- JX_SEND_RESUME (R262). -/
  | jxSendResume (die : Fin 4)
  /-- SLUICE_POST (R282). -/
  | sluicePost (entry : Fin 32768)
  /-- SLUICE_CANCEL (R288). -/
  | sluiceCancel (entry : Fin 32768)
  /-- SLUICE_REARM (R288). -/
  | sluiceRearm (entry : Fin 32768)
  /-- INSTANCE_START (R283). -/
  | instanceStart (die : Fin 4)
  /-- SLUICE_ENTRY_FREE (R288). -/
  | sluiceEntryFree (entry : Fin 32768)
  /-- COMBINE (R195). -/
  | combine (inst : Nat)
  /-- COMBINE_TIMEOUT (R196). -/
  | combineTimeout (entry : Fin 32768) (parity : Fin 2)
  /-- FORWARD (R286). -/
  | forward (inst : Nat)
  /-- SIGNAL (R279). -/
  | signal (inst : Nat)
  /-- PROGRAM_INSTALL (R174). -/
  | programInstall (inst : Nat)
  /-- PROGRAM_REMOVE (R175). -/
  | programRemove (inst : Nat)
  /-- PROGRAM_SLOT_FREE (R176). -/
  | programSlotFree (slot : Fin 256)
  /-- WINDOW_OPEN (R290). -/
  | windowOpen (inst : Nat)
  /-- WINDOW_REVOKE (R266). -/
  | windowRevoke (inst : Nat)
  /-- WINDOW_FREE (R266). -/
  | windowFree (id : Fin 16384)
  /-- DMA_START (R299). -/
  | dmaStart (src : DmaStart)
  /-- DMA_ABORT (R305). -/
  | dmaAbort (c : Fin 320) (written : Nat)
  /-- DMA_PACE_TICK (R300). -/
  | dmaPaceTick (c : Fin 320)
  /-- DMA_RUN_COMPLETE (R301). -/
  | dmaRunComplete (x : RunEnd)
  /-- DMA_RUN_ERROR (R304). -/
  | dmaRunError (c : Fin 320) (err : DmaError) (written : Nat)
  /-- TIMER_COMPARATOR_FIRE (R303). -/
  | timerComparatorFire (n : Fin 32)
  /-- TRAFFIC_WEIR_COMMIT (R314). -/
  | trafficWeirCommit (rid : BitVec 16) (p : Fin 64) (word0 : BitVec 32)
  /-- TRAFFIC_METER_COMMIT (R317). -/
  | trafficMeterCommit (rid : BitVec 16) (slot : Fin 1024) (word0 : BitVec 32)
  /-- TRAFFIC_EQ_COMMIT (R314). -/
  | trafficEqCommit (rid : BitVec 16) (q : Fin 1024) (word0 : BitVec 32)
  /-- EGRESS_TRANSMIT (R320). -/
  | egressTransmit (port : Fin 8)
  /-- QUEUE_SAMPLE (R323). -/
  | queueSample (die : Fin 4)
  /-- TENANT_ADMIT (R370). -/
  | tenantAdmit
  /-- TENANT_REMOVE (R385). -/
  | tenantRemove
  /-- TENANT_RETIRE (R385). -/
  | tenantRetire (slot : Fin 1024)
  /-- TENANT_ZEROISE (R386). -/
  | tenantZeroise (slot : Fin 1024)
  /-- KEY_INSTALL (R376). -/
  | keyInstall
  /-- KEY_ACTIVATE (R376). -/
  | keyActivate (holder : KeyHolder)
  /-- KEY_PREVIOUS_DROP (R375). -/
  | keyPreviousDrop (holder : KeyHolder)
  /-- KEY_AGE (R375). -/
  | keyAge (slot : Fin 1024)
  /-- ATTEST (R383). -/
  | attest (readBack : Bool)
  /-- ATTEST_BASES (R384). -/
  | attestBases
  /-- BASE_LIST_DISCARD (R384). -/
  | baseListDiscard (tenant : BitVec 12)
  /-- HSS_TREE_BUILD (R381). -/
  | hssTreeBuild (tree : Fin 32768)
  /-- SVN_COMMIT (R380). -/
  | svnCommit
  /-- SEALED_SCRUB (R387). -/
  | sealedScrub (r : Fin 16) (ok : Bool)
  /-- DATUM_PROPOSE (R332). -/
  | datumPropose (comp : BitVec 32)
  /-- DATUM_PREPARE (R335). -/
  | datumPrepare (f : RxFrame)
  /-- DATUM_ACCEPT (R335). -/
  | datumAccept (f : RxFrame)
  /-- DATUM_COMMIT (R336). -/
  | datumCommit (f : RxFrame)
  /-- DATUM_SUBMIT (R339). -/
  | datumSubmit (src : SubmitSource)
  /-- DATUM_RESPONSE (R332). -/
  | datumResponse (f : RxFrame)
  /-- DATUM_ROUND_TIMEOUT (R332). -/
  | datumRoundTimeout (comp : BitVec 32)
  /-- DATUM_BACKOFF_EXPIRE (R332). -/
  | datumBackoffExpire (comp : BitVec 32)
  /-- STEP_MARKER (R338). -/
  | stepMarker (f : RxFrame)
  /-- MAP_READ (R340). -/
  | mapRead (f : RxFrame)
  /-- MAP_FETCH_RESPONSE (R340). -/
  | mapFetchResponse (f : RxFrame)
  /-- MAP_NOTICE (R351). -/
  | mapNotice (f : RxFrame)
  /-- PROBE_TIMER (R347). -/
  | probeTimer
  /-- PROBE (R347). -/
  | probe (f : RxFrame)
  /-- PROBE_MISS (R347). -/
  | probeMiss (node : BitVec 12)
  /-- WITHDRAW (R348). -/
  | withdraw (f : RxFrame)
  /-- LOAD_OPEN (R356). -/
  | loadOpen (f : RxFrame)
  /-- LOAD_DATA (R357). -/
  | loadData (f : RxFrame)
  /-- LOAD_DONE (R361). -/
  | loadDone (f : RxFrame)
  /-- LOAD_RESPONSE (R361). -/
  | loadResponse (f : RxFrame)
  /-- NODE_DRAIN (R366). -/
  | nodeDrain
  /-- HEARTBEAT_MISS (R402). -/
  | heartbeatMiss
  /-- CTL_STANDBY_LOST (R403). -/
  | ctlStandbyLost
  /-- CAUSE_EN_WRITE (R416). -/
  | causeEnWrite (who : Writer) (src : Fin 163) (value : BitVec 32)
  /-- CATCH_CTRL_WRITE (R420). -/
  | catchCtrlWrite (who : Writer) (value : BitVec 32)
  /-- CATCH_SRC_CFG_WRITE (R417). -/
  | catchSrcCfgWrite (who : Writer) (src : Fin 163) (value : BitVec 32)
  /-- CATCH_TGT_CLAIM (R418). -/
  | catchTgtClaim (who : Writer) (t : Fin 9)
  /-- CATCH_TGT_COMPLETE (R419). -/
  | catchTgtComplete (who : Writer) (t : Fin 9) (id : BitVec 8)
  /-- CATCH_OFFER_TIMEOUT (R417). -/
  | catchOfferTimeout (t : Fin 9)
  /-- BARRIER_ARM (R423). -/
  | barrierArm (b : Fin 64) (mask : BitVec 32)
  /-- BARRIER_ARRIVE (R423). -/
  | barrierArrive (b : Fin 64) (part : Fin 32)
  /-- BARRIER_RELEASE (R423). -/
  | barrierRelease (b : Fin 64)
  /-- CHIP_CLAIM_OWN (R434). -/
  | chipClaimOwn (rid : BitVec 16)
  /-- CHIP_CLAIM_RELEASE (R435). -/
  | chipClaimRelease (rid : BitVec 16)
  /-- SVC_LINK_RESET (R435). -/
  | svcLinkReset (kind : SvcReset)
  /-- I2C_TRANSACTION (R447). -/
  | i2cTransaction (written : I2cWrite) (readLen : Nat)
  /-- NVM_READ (R441). -/
  | nvmRead
  /-- NVM_WRITE (R444). -/
  | nvmWrite
  /-- CHIP_RESET (R441). -/
  | chipReset
  /-- DATUM_READ (R340). -/
  | datumRead
  /-- SEQ_READ (R441). -/
  | seqRead
  /-- PLACE_READ (R115). -/
  | placeRead
  /-- SAT_READ (R140). -/
  | satRead
  /-- SAT_CLEAR (R140). -/
  | satClear
  /-- WINDOW_READ (R251). -/
  | windowRead
  /-- SLUICE_READ (R441). -/
  | sluiceRead
  /-- ACTION (R445). -/
  | action
  /-- FW_SLUICE (R278). -/
  | fwSluice
  /-- RC_READ (R8). -/
  | rcRead (t : Tlp)
  /-- REGISTER_WRITE (R8). -/
  | registerWrite (t : Tlp)
  /-- JTAG_TAP_RESET (R464). -/
  | jtagTapReset
  /-- IDCODE (R464). -/
  | idcode
  /-- SAMPLE_PRELOAD (R464). -/
  | samplePreload
  /-- EXTEST (R465). -/
  | extest
  /-- EXTEST_PULSE (R465). -/
  | extestPulse
  /-- EXTEST_TRAIN (R465). -/
  | extestTrain
  /-- HIGHZ (R465). -/
  | highz
  /-- CLAMP (R465). -/
  | clamp
  /-- BYPASS (R464). -/
  | bypass
  /-- IMMEDIATE_COMMAND_COMPLETE (R442). -/
  | immediateCommandComplete
  /-- PROGRAM_INSTALL_COMPLETE (R174). -/
  | programInstallComplete (tenant : BitVec 12)
  /-- ROM_HOLD_END (R458). -/
  | romHoldEnd (env : BootEnv)
  deriving DecidableEq, Repr

end Sys2Proof
end

