-- ==== Sys2Proof/Machine/Bits.lean ====
section
/-! DEFINITION. Bit fields, byte orders and byte strings: the conventions of 00_scope.md (R5, R7) and the CRC-32 of the
image header (18 Table 18.2). -/

namespace Sys2Proof.Machine

/-- Field [hi:lo] of the number `v`. -/
def bits (v hi lo : Nat) : Nat := (v / 2 ^ lo) % 2 ^ (hi + 1 - lo)

/-- Bit `i` of the number `v`. -/
def bitAt (v i : Nat) : Bool := (v / 2 ^ i) % 2 == 1

/-- The number with bit `i` set to `b`. -/
def setBit (v i : Nat) (b : Bool) : Nat :=
  if bitAt v i = b then v else if b then v + 2 ^ i else v - 2 ^ i

/-- A Bool as bit `i` of a word. -/
def bitOf (b : Bool) (i : Nat) : Nat := if b then 2 ^ i else 0

/-- The little-endian value of a byte string (R5). -/
def leNat : Bytes → Nat
  | [] => 0
  | b :: bs => b.toNat + 256 * leNat bs

/-- The `n` little-endian bytes of `v` (R5). -/
def leBytes : Nat → Nat → Bytes
  | 0, _ => []
  | n + 1, v => BitVec.ofNat 8 v :: leBytes n (v / 256)

/-- The `n` big-endian bytes of `v` (R5, Jexus headers). -/
def beBytes (n v : Nat) : Bytes := (leBytes n v).reverse

/-- The big-endian value of a byte string. -/
def beNat (bs : Bytes) : Nat := leNat bs.reverse

/-- The byte at offset `i`, zero past the end. -/
def byteAt (b : Bytes) (i : Nat) : Byte := (b[i]?).getD 0

/-- `n` bytes of `b` from offset `off`, zero past the end. -/
def slice (b : Bytes) (off n : Nat) : Bytes :=
  let part := (b.drop off).take n
  part ++ List.replicate (n - part.length) 0

/-- The little-endian field of `n` bytes at offset `off`. -/
def rd (b : Bytes) (off n : Nat) : Nat := leNat (slice b off n)

/-- `b` with the bytes `v` written at offset `off`, its length kept. -/
def put (b : Bytes) (off : Nat) (v : Bytes) : Bytes :=
  b.take off ++ v.take (b.length - off) ++ b.drop (off + v.length)

/-- Every one of the `n` bytes from `off` is zero: a reserved span holds zero (R7). -/
def zeroAt (b : Bytes) (off n : Nat) : Bool := (slice b off n).all (· == 0)

/-- `b` padded with zero bytes, or cut, to `n` bytes. -/
def padTo (n : Nat) (b : Bytes) : Bytes := slice b 0 n

/-- Split a byte string into words of `k` bytes, little-endian, `n` of them. -/
def words (k n : Nat) (b : Bytes) : List Nat := (List.range n).map fun i => rd b (i * k) k

/-- One step of the reflected CRC-32. -/
def crcBit (c : Nat) : Nat := if c % 2 = 1 then (c / 2) ^^^ 0xEDB88320 else c / 2

/-- One byte into the reflected CRC-32. -/
def crcByte (c : Nat) (b : Byte) : Nat :=
  crcBit (crcBit (crcBit (crcBit (crcBit (crcBit (crcBit (crcBit (c ^^^ b.toNat))))))))

/-- CRC-32 of IEEE 802.3 (18 Table 18.2). -/
def crc32 (bs : Bytes) : Nat := (bs.foldl crcByte 0xFFFFFFFF) ^^^ 0xFFFFFFFF

/-- The two's-complement reading of an `n`-bit number. -/
def signed (n v : Nat) : Int := if v % 2 ^ n < 2 ^ (n - 1) then (v % 2 ^ n : Nat) else (v % 2 ^ n : Nat) - (2 ^ n : Nat)

/-- The `n`-bit two's-complement number of an integer. -/
def unsigned (n : Nat) (i : Int) : Nat := (i % (2 ^ n : Nat)).toNat

/-- A saturating count of `n` bits (R9). -/
def satInc (n v : Nat) : Nat := if v + 1 < 2 ^ n then v + 1 else 2 ^ n - 1

/-- A wrapping count of `n` bits (R437). -/
def wrapInc (n v : Nat) : Nat := (v + 1) % 2 ^ n

/-- The quotient of `a` by `b`, rounded up. -/
def divUp (a b : Nat) : Nat := a / b + (if a % b = 0 then 0 else 1)

/-- The smallest multiple of `m` at or above `v`. -/
def alignUp (m v : Nat) : Nat := divUp v m * m

/-- The least number at least `lo` and below `lo + n` that `p` accepts. -/
def findFrom (lo : Nat) : Nat → (Nat → Bool) → Option Nat
  | 0, _ => none
  | n + 1, p => if p lo then some lo else findFrom (lo + 1) n p

end Sys2Proof.Machine
end

