-- ==== Sys2Proof/Machine/StateCache.lean ====
section
/-! DEFINITION. The state of the cache space: memories and the storage in use, the sequence directory, sequence and append
records, placement, translation, the GDDR7 channels and channel units, and firmware's work on pages. -/

namespace Sys2Proof.Machine

/-- The memories. `fast` is keyed by cache address (region · 2^40 + fast-tier offset), `deep` by port · 2^41 + device address,
`stack` by region · 2^28 + offset, `nvm` by NVM offset. A byte nothing has written reads as 0 (log 4). -/
structure Mems where
  fast : Tbl Byte := []
  deep : Tbl Byte := []
  stack : Tbl Byte := []
  nvm : Tbl Byte := []
  deriving DecidableEq, Repr

/-- What a unit of storage is used for; `old` names the page that left it (03 R66; 05 R112, R114, R116; 10 R228, R235; 11 R290; 17 R387). A page is named by slot,
tensor index (layer · 4 + kind) and page index. -/
inductive StoreUse where
  | page (slot ten idx : Nat)
  | node (slot : Nat)
  | coded (slot ten idx : Nat)
  | window (id : Nat)
  | old (slot ten idx : Nat)
  | reserved (slot : Nat)
  | baseHeld (entry : Nat)
  | scrub
  | fenced
  deriving DecidableEq, Repr

/-- A unit of storage in use: its size in bytes, its use, and the tenant that a later scrub serves (17 R387). -/
structure Store where
  size : Nat
  use : StoreUse
  tenant : Nat
  deriving DecidableEq, Repr

/-- The CAM part of a directory entry, or its shadow copy (03 R68, R75). -/
structure Cam where
  valid : Bool := false
  tenant : Nat := 0
  tag : Nat := 0
  fp : Nat := 0
  deriving DecidableEq, Repr

/-- STATE of a sequence (03 Table 3.4). -/
inductive SeqSt where
  | free | loading | active | shifting | releasing
  deriving DecidableEq, Repr

/-- STATE of a tensor (05 Table 5.2). -/
inductive TenSt where
  | absent | fast | deep | migrating | rewriting
  deriving DecidableEq, Repr

/-- A deep page-table entry (05 Table 5.3). -/
structure DeepEnt where
  valid : Bool := false
  dirty : Bool := false
  port : Nat := 0
  dpa : Nat := 0
  deriving DecidableEq, Repr

/-- The tensor-head parameters of one head (06 R135): FP32 scale and zero point. -/
structure HeadParam where
  s : F32
  z : Nat
  deriving DecidableEq, Repr

/-- A placement entry (05 Table 5.2) with what firmware keeps beside it: the tensor-head parameters and the deep page table. -/
structure Ten where
  st : TenSt := .absent
  toDeep : Bool := false
  hint : Nat := 0
  backed : Bool := false
  lastQuery : Nat := 0
  deepTable : Nat := 0
  params : List HeadParam := []
  deep : Tbl DeepEnt := []
  deriving DecidableEq, Repr

/-- The append record (09 Table 9.4). -/
structure AppendRec where
  fill : Tbl Nat := []
  rotOffset : Nat := 0
  commitPending : Bool := false
  takeover : Bool := false
  copied : Bool := false
  deriving DecidableEq, Repr

/-- A directory entry with its sequence record (03 Table 3.4), append record (09 Table 9.4), clip counters (06 R140, R141) and
placement array (05 R115). `lost` marks a sequence treated as lost on this node (03 R75, 05 R127). -/
structure Seq where
  cam : Cam := {}
  shadow : Cam := {}
  desc : Bytes := []
  tag : Nat := 0
  tenant : Nat := 0
  st : SeqSt := .free
  pgen : Nat := 0
  committed : Nat := 0
  tail : Nat := 0
  inFlight : Nat := 0
  root : Nat := 0
  fp : Nat := 0
  openTime : Nat := 0
  app : AppendRec := {}
  sat : Tbl Nat := []
  drift : List Nat := []
  ten : Tbl Ten := []
  place : Nat := 0
  lost : Bool := false
  deriving DecidableEq, Repr

/-- A cached translation (03 R60): unit 0-15 a region's TLB, 16 + 8 r + b a block's, each by slot and sequence-virtual page number with the
leaf; 144 + r the cache of region r's walker, by slot and the address of a level-1 or level-2 entry with the entry. -/
structure TlbEnt where
  unit : Nat
  slot : Nat
  vpn : Nat
  leaf : Nat
  deriving DecidableEq, Repr

/-- A frame that R62 or R118 keeps until the requests that could read it have completed: the store's key, whether it is deep,
the first request number that cannot read it, and whether its tenant was sealed when it was given up (17 R387). -/
structure OldFrame where
  key : Nat
  deep : Bool
  before : Nat
  sealed_ : Bool := false
  deriving DecidableEq, Repr

/-- A locator entry of a coded page (10 Table 10.6), with the coded length for its deep copy. -/
structure Loc where
  inFast : Bool
  units : Nat
  first : Nat
  codedLen : Nat
  deriving DecidableEq, Repr

/-- A base-reference entry (10 R234): the base page's sequence, tensor and flat index, with the pages of one head group there. -/
structure BaseRef where
  slot : Nat
  ten : Nat
  idx : Nat
  pages : Nat
  frame : Nat
  digest : BitVec 256
  refs : Nat
  deriving DecidableEq, Repr

/-- Whose work a channel-unit command is: an append, a REWRITE of a tensor, a compaction or a shift of a slot, a scrub. -/
inductive UnitJob where
  | append (id : Nat) | rewrite (key : Nat) | compact (slot : Nat) | shift (slot : Nat) | scrub
  deriving DecidableEq, Repr

/-- A channel-unit command (04 Table 4.7), with the page it works on, the staged payload and positions of APPEND_TAIL, the
accepted tail indices of COMPACT with the neighbouring pages that hold them (index, page, scale page), the frames' cache addresses (old, new, those of
the scale page that goes with it, and DELTA_DECODE's base page), and whose work it is. -/
structure UnitCmd where
  op : Nat
  norm : Bool := false
  rotary : Bool := false
  tenant : Nat := 0
  slot : Nat := 0
  src : Nat := 0
  dst : Nat := 0
  lines : Nat := 0
  pos : Nat := 0
  program : Nat := 0
  srcFmt : Nat := 0
  dstFmt : Nat := 0
  group : Nat := 0
  headsM1 : Nat := 0
  dim : Nat := 0
  base : Nat := 0
  tag : Nat := 0
  layer : Nat := 0
  kind : Nat := 0
  idx : Nat := 0
  staged : Bytes := []
  poss : List Nat := []
  accepted : List Nat := []
  near : List (Nat × Bytes × Bytes) := []
  name : Nat := 0
  newName : Nat := 0
  baseName : Nat := 0
  pair : Option (Nat × Nat) := none
  job : UnitJob
  deriving DecidableEq, Repr

/-- A command a unit is carrying out: the chunks (cache address, 2 KiB) it has still to write, and the elements it clipped. -/
structure UnitRun where
  cmd : UnitCmd
  todo : List (Nat × Bytes)
  clipped : Nat := 0
  deriving DecidableEq, Repr

/-- A SCRUB under way (04 R100, R102): the next 2 KiB data chunk of the channel's line-coded shares to read, and the time from which its next atom
may start (at most 1 % of the channel's time). -/
structure ScrubRun where
  cmd : UnitCmd
  at_ : Nat := 0
  after : Nat := 0
  deriving DecidableEq, Repr

/-- The running atom of a unit (04 R99, R104): its journal entry, its chunks, its start, whose work it is and for which sequence. A SCRUB atom's chunks
are those it reads. -/
structure Atom where
  entry : Nat
  chunks : List (Nat × Bytes)
  start : Nat
  job : UnitJob
  slot : Option Nat := none
  deriving DecidableEq, Repr

/-- State of a journal entry (04 R104). -/
inductive JournalSt where
  | open_ | closed | abandoned
  deriving DecidableEq, Repr

/-- A journal entry (04 R104) with the scratch copy of the chunks it names, and the sequence whose pages they are. -/
structure Journal where
  st : JournalSt
  chunks : List (Nat × Bytes)
  slot : Option Nat := none
  deriving DecidableEq, Repr

/-- Who reads the fast tier: a lane of a request in a region, a DMA channel, a READ or CAS message, a migration (by its key), firmware copying a page, or a
load that serves a partner. -/
inductive Reader where
  | lane (req rgn lane : Nat) | dma (c : Nat) | message (src id : Nat) | mig (key : Nat) | page (slot ten idx : Nat) | load (src tag : Nat)
  deriving DecidableEq, Repr

/-- A held read (04 R105): whose it is, the chunk it waits for, whether a code that does not match has been reported, and whether the redo failed, so that
the read is to end. -/
structure HeldRead where
  who : Reader
  addr : Nat
  reported : Bool := false
  failed : Bool := false
  deriving DecidableEq, Repr

/-- One GDDR7 channel with its controller and channel unit (04 R82-R107). `bank` is the next of the 16 banks in the refresh cycle (R84), `refNext` the
time from which the next REFpb may issue (R84's tRREFD), `bankReads` whether the bank of the last REFpb that fell due has reads queued (R85), `scrub`
the SCRUB under way, at its own priority (02 R37), `lastTag` and `lastStatus` the last completion record (R98), `codeLines` the code lines the
controller holds, by channel offset, the latest first (R94). -/
structure Chan where
  debt : Nat := 0
  bank : Nat := 0
  refNext : Nat := 0
  bankReads : Bool := false
  half : Bool := false
  halfDue : Option Bool := none
  crc : Nat := 0
  retraining : Bool := false
  retrainFails : Nat := 0
  lost : Bool := false
  retrackDue : Bool := false
  lastRetrack : Nat := 0
  issued : List UnitCmd := []
  queue : List UnitCmd := []
  run : Option UnitRun := none
  scrub : Option ScrubRun := none
  atom : Option Atom := none
  yielded : Bool := false
  journal : Tbl Journal := []
  nextEntry : Nat := 0
  lastTag : Nat := 0
  lastStatus : Nat := 0
  codeLines : List Nat := []
  held : List HeldRead := []
  deriving DecidableEq, Repr

/-- A leaf change that firmware has to make (03 R62): the page, its new leaf, its old store, and the second page of a YQ streamed
pair that changes in the same step (06 R139). -/
structure LeafJob where
  slot : Nat
  ten : Nat
  idx : Nat
  leaf : Nat
  oldKey : Option Nat
  pair : Option (Nat × Nat × Option Nat) := none
  job : UnitJob
  deriving DecidableEq, Repr

/-- A migration in progress (05 R118): the instance to complete, and the storage a promotion has reserved, by page index. -/
structure Mig where
  inst : Option Nat
  reserved : List (Nat × Nat)
  deriving DecidableEq, Repr

/-- The forms of REWRITE (03 Table 3.8): requantise, delta encode, delta decode. -/
inductive RwMode where
  | requant | deltaEnc | deltaDec
  deriving DecidableEq, Repr

/-- A REWRITE in progress (06 R139, 10 R222): the pages still to convert, the page at a unit, the base sequence, the program. -/
structure Rewrite where
  mode : RwMode
  inst : Nat
  todo : List Nat
  atUnit : Bool := false
  base : Nat := 0
  program : Nat := 0
  status : Nat := 0
  deriving DecidableEq, Repr

/-- An append (09 R206, R207): its instance, sequence, header fields, payload and positions, how many channel-unit commands are
outstanding, whether one failed, whether it is held under 08 R182, and the regions that stage its payload or hold its frames. -/
structure Append where
  inst : Nat
  slot : Nat
  first : Nat
  n : Nat
  layer0 : Nat
  nLayers : Nat
  program : Nat
  poss : List Nat
  data : Bytes
  left : Nat := 0
  failed : Nat := 0
  held : Bool := false
  issued : Bool := false
  rgns : List Nat := []
  deriving DecidableEq, Repr

/-- Where a forwarded operation stands with the partner (09 R213). -/
inductive FwdSt where
  | notNeeded | waiting | okay | refused (status : Nat) | single
  deriving DecidableEq, Repr

/-- An admitted commit, rollback or shift that has not been answered (09 R209-R217): its body, who sent it and from which die, whether
that was the primary, where the partner stands, whether this copy has finished its part, and how many page conversions remain. -/
structure CtlOp where
  op : Nat
  slot : Nat
  body : Bytes
  src : Nat
  msgId : Nat
  port : Nat
  addr : BitVec 128 := 0
  epoch : Nat := 0
  partner : Bool := false
  fwd : FwdSt := .notNeeded
  fwdMsg : Nat := 0
  compacting : Bool := false
  started : Bool := false
  left : Nat := 0
  localDone : Bool := false
  failed : Bool := false
  before : Nat := 0
  reserved : List (Nat × Nat × Nat) := []
  deriving DecidableEq, Repr

/-- An append whose message has reached the directory region and which waits its turn (09 R204): its instance and action, the sequence, and its
place in the order of arrival, in one numbering with the waiting commits, rollbacks and shifts. -/
structure AppWait where
  inst : Nat
  act : Nat
  slot : Nat
  order : Nat
  deriving DecidableEq, Repr

/-- The storage in use: fast frames by cache address, deep storage by port · 2^41 + address, how many deep-held pages use a name and
their size (05 R114), old frames, coded pages (10 Table 10.6) by region · 2^18 + entry, base references by region · 2^13 + entry. -/
structure Stores where
  fast : Tbl Store := []
  deep : Tbl Store := []
  deepNames : Tbl (Nat × Nat) := []
  old : List OldFrame := []
  loc : Tbl Loc := []
  baseRef : Tbl BaseRef := []
  deriving DecidableEq, Repr

/-- Firmware's work in progress, and the number the next piece takes. -/
structure Work where
  leafJobs : Tbl LeafJob := []
  migs : Tbl Mig := []
  rewrites : Tbl Rewrite := []
  appends : Tbl Append := []
  ctlOps : Tbl CtlOp := []
  waits : List AppWait := []
  next : Nat := 0
  scrubDue : Tbl Nat := []
  shadowNext : Nat := 0
  shadowAt : Nat := 0
  deriving DecidableEq, Repr

end Sys2Proof.Machine
end

