-- ==== Sys2Proof/Machine/StateChip.lean ====
section
/-! DEFINITION. The state of the Benchmark domain, the pins, boot and configuration, the service function, the catchment,
the log rings, the barriers, the regions' clocks, the tier ports and the control dies. -/

namespace Sys2Proof.Machine

/-- A timer comparator (13 R302). -/
structure Tmr where
  compare : Nat := 0
  ctrl : BitVec 32 := 0
  deriving DecidableEq, Repr

/-- The Benchmark domain (18 R409, R410; 13 R302; 21 R457, R460). It keeps its state at a main reset. `slew` is the correction in ns that
the PTP servo has still to make to fabric time. -/
structure Bmk where
  time : Nat := 0
  frac : Nat := 0
  counting : Bool := false
  slew : Int := 0
  wakeTime : Nat := 0
  wakeCtrl : BitVec 32 := 0
  wakeCause : BitVec 32 := 0x10
  tmr : Tbl Tmr := []
  xtalInternal : Bool := false
  i2cAddr : BitVec 2 := 0
  deriving DecidableEq, Repr

/-- The power states: the resets of 18 Table 18.7 and the states of Table 18.8. `running` is ROM, boot, serving, quiet. -/
inductive PwrMode where
  | aonReset | mainReset | running | bmkOnly
  deriving DecidableEq, Repr

/-- SLEEP under 18 R407: none accepted, accepted and quiescing since a time with the window's TAG, completed at a time, and
SLEEP_REQ_N driven low since. -/
inductive SleepState where
  | none | quiescing (since tag : Nat) | asleep (since : Nat)
  deriving DecidableEq, Repr

/-- An output's level: high impedance, low or high (18 Table 18.9). -/
inductive PinOut where
  | hiZ | low | high
  deriving DecidableEq, Repr

/-- What brings a main reset that is due (18 R400): CHIP_RESET or thermal trip. -/
inductive DueCause where
  | soft | thermal
  deriving DecidableEq, Repr

/-- Pins, reference clocks and the power state (18 R404, R407, R412; 21 Tables 21.3, 21.8). -/
structure Pwr where
  resetN : Bool := false
  aonResetN : Bool := false
  mode : PwrMode := .aonReset
  sleepReq : PinOut := .hiZ
  g7Rst : PinOut := .hiZ
  perst : Tbl PinOut := []
  sysClk : Bool := true
  netClk : BitVec 4 := 0xF
  tierClk : BitVec 4 := 0xF
  svcClk : Bool := true
  romHold : Bool := false
  extestHold : Bool := false
  sleep : SleepState := .none
  wakeBoot : Bool := false
  resetDue : Option (Nat × DueCause) := none
  deriving DecidableEq, Repr

/-- The configuration in force, as the records of 18 Table 18.4 give it. -/
structure Img where
  nodeId : Nat
  endpoint : Nat
  tray : Nat
  ports : List Nat
  jxPort : Nat
  pathCount : Nat
  fabricAuth : Bool
  dscpLc : Nat
  dscpBe : Nat
  ptpDomain : Nat
  g7Rate : Nat
  density : Nat
  trefi : Nat
  trrefd : Nat
  ranges : List (List Nat)
  dvfsMv5 : List Nat
  dvfsInit : List Nat
  powerCap : Nat
  quietIdle : Nat
  fastLow : Nat
  loadPartition : Nat
  loadRate : Nat
  weir : Option Bytes
  egress : Option Bytes
  admits : List Bytes
  fabricKey : Option Bytes
  deriving DecidableEq, Repr

/-- The latched firmware command (20 R440): opcode, request, TAG, and the answer formed for it (status and response), which
IMMEDIATE_COMMAND_COMPLETE publishes (R442). -/
structure Latched where
  opcode : Nat
  req : Bytes
  tag : Nat
  answer : Option (Nat × Bytes) := none
  deriving DecidableEq, Repr

/-- A deferred command that has been accepted and has not ended (20 R442). `obj` names what it waits for: the key slot of
TENANT_REMOVE, the composition of DATUM_SUBMIT, the instance of ACTION. -/
structure Deferred where
  opcode : Nat
  tag : Nat
  obj : Nat
  deriving DecidableEq, Repr

/-- Boot status, image identity and the firmware command window (18 R398, 20 CFG registers, R440-R443). -/
structure Cfg where
  phase : Nat := 0
  slot : Nat := 0
  ctlPrimary : Nat := 0
  warm : Bool := false
  quad : Bool := false
  causeA : Nat := 0
  causeB : Nat := 0
  standbyOk : Bool := false
  trainReached : Bool := false
  img : Option Img := none
  runFwSvn : Nat := 0
  runCfgSvn : Nat := 0
  fwDigest : BitVec 256 := 0
  cfgDigest : BitVec 256 := 0
  opcode : Nat := 0
  busy : Bool := false
  done : Bool := false
  deferred : Bool := false
  goRefused : Nat := 0
  reqLen : Nat := 0
  tag : Nat := 0
  status : Nat := 0
  respLen : Nat := 0
  doneTag : Nat := 0
  ringHead : Nat := 0
  reqBuf : Tbl Byte := []
  respBuf : Tbl Byte := []
  latched : Option Latched := none
  outstanding : List Deferred := []
  ring : Tbl Bytes := []
  deriving DecidableEq, Repr

/-- How the last access to the service function completed (20 R433, R434): the model's own observation. -/
inductive SvcAnswer where
  | none | data (bs : Bytes) | written | discarded | unsupported | completerAbort | noDecode
  deriving DecidableEq, Repr

/-- The service function (20 R432-R435, R447). `hi` and `i2cHi` hold the high words latched at reads of low words (R10, R447), by the offset of
the high word; `bar` is the base that configuration software has written. -/
structure Svc where
  owned : Bool := false
  ownerRid : BitVec 16 := 0
  foreign : Nat := 0
  bad : Nat := 0
  mse : Bool := false
  bme : Bool := false
  d3hot : Bool := false
  linkUp : Bool := true
  bar : Nat := 0
  hi : Tbl Nat := []
  i2cHi : Tbl Nat := []
  answer : SvcAnswer := .none
  i2cAnswer : Bytes := []
  i2cNack : Bool := false
  deriving DecidableEq, Repr

/-- The state of a catchment source (19 Table 19.3). -/
inductive SrcState where
  | idle | pending | active | activePending
  deriving DecidableEq, Repr

/-- CATCH_SRC_CFG of one source (19 R417). -/
structure SrcCfg where
  cores : BitVec 8 := 0xFF
  pin : Bool := false
  prio : Nat := 8
  st : SrcState := .idle
  last : Nat := 8
  deriving DecidableEq, Repr

/-- The offer a target holds (19 R417): the source and when the offer was made. -/
structure Offer where
  src : Nat
  since : Nat
  deriving DecidableEq, Repr

/-- The catchment (19 R413-R421). `cause` holds CAUSE by source ID, `dis` the bits of CAUSE_EN that are cleared (reset: none). -/
structure Catchment where
  cause : Tbl Nat := []
  dis : Tbl Nat := []
  globalEn : Bool := false
  tgtEn : BitVec 9 := 0
  src : Tbl SrcCfg := []
  offer : Tbl Offer := []
  stack : Tbl (List (Nat × Nat)) := []
  deriving DecidableEq, Repr

/-- The log rings (19 R427, R428). Ring numbers: n CELL of RGN_n, 16 + n BLOCK, 32 + n REGION, 48 + n NET_n, 52 + n TIER_n,
56 CHIP. `limits` holds the time of the last record under each rate limit (11 R264, R267; 12 R280). -/
structure Logs where
  rings : Tbl (Tbl Bytes) := []
  seq : Tbl Nat := []
  limits : Tbl Nat := []
  deriving DecidableEq, Repr

/-- The state of a barrier unit (19 R422). -/
inductive BarSt where
  | idle | armed | done | broken
  deriving DecidableEq, Repr

/-- CHIP_BARRIER of one unit (19 R422). -/
structure Barrier where
  mask : BitVec 32 := 0
  arrived : BitVec 32 := 0
  st : BarSt := .idle
  gen : BitVec 16 := 0
  deriving DecidableEq, Repr

/-- A supply ramp in progress (02 R43, 21 R456): from and to values in mV, its start, and the point to apply at its end. -/
structure Ramp where
  fromMv : Nat
  toMv : Nat
  start : Nat
  thenPoint : Option Nat
  deriving DecidableEq, Repr

/-- One region's clock, supply and unit-mode state (20 RGN_CLOCK_STATUS, 02 R43-R51, 04 R96, 18 R405). `scratch` is the stack SRAM that the
channel units hold, in MiB (04 R96). `lim` holds the
highest DVFS point that each cause of CLAMP_CAUSE allows, by its code (1 throttle 85 … 6 power cap). `sens` holds the last readings of the
region die's 8 sensors (21 R462), `regMv` the value in mV at which the regulator stands while VDD_SET reads its reset value (21 R455, R456), `rampEnd`
when the last ramp ended or ends (21 Table 21.5), `busyAt` when the region last was at work (18 R405). -/
structure Rgn where
  point : Nat := 0
  target : Nat := 0
  cap85 : Bool := false
  cap95 : Bool := false
  lim : Tbl Nat := []
  gated : Bool := false
  fenced : Bool := false
  searchHotter : Bool := false
  temp : Nat := 0
  vddSet : Nat := 0
  ramp : Option Ramp := none
  unitMode : Bool := false
  modeAck : Bool := false
  scratch : Nat := 0
  lastRaise : Nat := 0
  sens : List Nat := []
  regMv : Nat := 720
  rampEnd : Nat := 0
  busyAt : Nat := 0
  deriving DecidableEq, Repr

/-- One pair of neighbouring regions (02 R46): which quantities are beyond their limit, whether the temperature action has been logged, the
successive supply samples beyond the limit, when the supply clamp began and last stepped, and the last supplies measured in mV. -/
structure Pair where
  ratioOn : Bool := false
  supplyOn : Bool := false
  tempOn : Bool := false
  tempLogged : Bool := false
  samples : Nat := 0
  clampAt : Option Nat := none
  stepAt : Option Nat := none
  mvLow : Nat := 0
  mvHigh : Nat := 0
  deriving DecidableEq, Repr

/-- One block's fault state (06 R153): RGN_BLK_CELLS and RGN_BLK_RESIDUE_RETRY; and `next`, the place (0-15) whose cell takes the next tile in the
round robin of 06 R132. -/
structure Blk where
  cells : BitVec 17 := 0
  spare : Bool := false
  fenced : Bool := false
  retry : Nat := 0
  next : Nat := 0
  deriving DecidableEq, Repr

/-- The package's power cap (02 R51) and, in units of 0.25 °C, the last reading of each sensor of the dies that are no region (21 R462), by its
number: 128 + 2 · (die code − 16) + 0 or 1. -/
structure PwrCap where
  overCap : Bool := false
  belowSince : Option Nat := none
  sensor : Tbl Nat := []
  deriving DecidableEq, Repr

/-- One tier port (20 TIER_STATUS, 05 R126-R129). `timeouts` holds the times of recent time-outs, `fails` the failed training
attempts, `retryAt` the PERST_N timer. -/
structure Tier where
  inService : Bool := false
  fenced : Bool := false
  rate : Nat := 0
  width : Nat := 0
  capUsed : Nat := 0
  capDevice : Nat := 0
  timeouts : List Nat := []
  fails : Nat := 0
  retryAt : Option Nat := none
  perstHighAt : Option Nat := none
  dieLost : Bool := false
  unsupported : Bool := false
  deriving DecidableEq, Repr

/-- STATE of CHIP_NODE_STATUS (20 R438). -/
inductive NodeSt where
  | booting | joining | serving | draining | drained
  deriving DecidableEq, Repr

/-- CHIP_NODE_STATUS (20 R438): `blocked` lists, for each composition with a blocked pair, the lowest of them (16 R366). -/
structure NodeStatus where
  st : NodeSt := .booting
  blocked : Tbl Nat := []
  deriving DecidableEq, Repr

/-- The control dies and the dies whose loss is fatal (18 R401-R403, 02 R36, R38). `fatal` holds the reason of CHIP_FATAL. -/
structure Ctl where
  primaryFenced : Bool := false
  standbyLost : Bool := false
  missed : Nat := 0
  missAt : Nat := 0
  spineDead : BitVec 6 := 0
  netLost : BitVec 4 := 0
  fatal : Option Nat := none
  withdrawn : Bool := false
  deriving DecidableEq, Repr

/-- The instruction in the JTAG instruction register (21 R464). -/
inductive JtagIr where
  | idcode | samplePreload | extest | extestPulse | extestTrain | highz | clamp | bypass
  deriving DecidableEq, Repr

/-- The JTAG port: the loaded instruction and whether it is in effect on the balls (21 R465). -/
structure Jtag where
  ir : JtagIr := .idcode
  inEffect : Bool := false
  deriving DecidableEq, Repr

/-- The fuses (00 R1, 17 R372, R380). -/
structure Fuses where
  grade : Nat := 44
  fwSvn : Nat := 0
  cfgSvn : Nat := 0
  ownerKey : Tbl Nat := []
  ownerRevoked : BitVec 4 := 0
  deriving DecidableEq, Repr

end Sys2Proof.Machine
end

