-- ==== Sys2Proof/Config.lean ====
section
/-! DEFINITION. What the manual fixes outside its own text or leaves open: free values, and the published standards
that 00_scope.md leaves to their own documents. Every constant here is opaque: it has no body, so nothing can be proved
about a value of it. -/

namespace Sys2Proof.Config

/-- Free values: the value numbered `n` (State.free counts them). Random generator outputs of R253 and R368, the
back-off of R332. DESIGN CHOICE, safe, log 7. -/
opaque freeBits (w : Nat) (n : Nat) : BitVec w

/-- R253: the generation that descriptor `id` takes from the random generator at reset number `reset`. Safe, log 10. -/
opaque windowGen (reset id : Nat) : BitVec 16

/-- SHA-256 (FIPS 180). Safe, log 5. -/
opaque sha256 (m : Bytes) : BitVec 256

/-- HMAC-SHA-256 (R268, R377). Safe, log 5. -/
opaque hmacSha256 (key : BitVec 256) (m : Bytes) : BitVec 256

/-- AES-256-GCM: the ciphertext (R268, R373, R377, R408). Safe, log 5. -/
opaque gcmSeal (key : BitVec 256) (nonce ad pt : Bytes) : Bytes

/-- AES-256-GCM: the plaintext of a ciphertext. Safe, log 5. -/
opaque gcmOpen (key : BitVec 256) (nonce ad ct : Bytes) : Bytes

/-- AES-256-GCM (and GMAC, with the empty text): the tag. Safe, log 5. -/
opaque gcmTag (key : BitVec 256) (nonce ad ct : Bytes) : BitVec 128

/-- AES-256-XTS of one 64-byte line (R378). Safe, log 5. -/
opaque xtsEnc (k1 k2 : BitVec 256) (tweak : BitVec 128) (line : Bytes) : Bytes

/-- The inverse of `xtsEnc` (R378). Safe, log 5. -/
opaque xtsDec (k1 k2 : BitVec 256) (tweak : BitVec 128) (line : Bytes) : Bytes

/-- ML-KEM-1024 decapsulation under this device's key (R373). Safe, log 5. -/
opaque kemDecap (ct : Bytes) : BitVec 256

/-- HSS/LMS verification of RFC 8554 (R380): public key, signed bytes, signature. Safe, log 5. -/
opaque hssVerify (pub msg sig : Bytes) : Bool

/-- The device's HSS signature with one-time key `g` (R381), 3,284 bytes. Safe, log 5. -/
opaque hssSign (g : Nat) (msg : Bytes) : Bytes

/-- The identifier I of the device's top tree (Table 17.7). -/
opaque hssI : BitVec 128

/-- The fused DEVICE_ID (R372). -/
opaque deviceId : BitVec 128

/-- SHA-256 of the Molenad public key held in the boot ROM (R380). -/
opaque romKeyDigest : BitVec 256

/-- R464: Molenad's JEP106 identity in IDCODE [11:1], which the BSDL file states. -/
opaque jep106 : BitVec 11

/-- R372: the keys derived from DEVICE_SECRET match the device certificate held in NVM. -/
opaque certMatches (cert : Bytes) : Bool

/-- R408: the AES-256-GCM key that seals the saved state, derived from DEVICE_SECRET. -/
opaque sealKey : BitVec 256

/-- R149: what the silicon's 256-segment cubic gives for 2^f, in units of 2^-64, by f in units of 2^-149. Safe, log 6. -/
opaque exp2Cubic (f : Nat) : Nat

/-- R151: element `i` of the `n`-th row set that a fault which no check finds leaves wrong. Safe, log 83. -/
opaque wrongBits (n i : Nat) : BitVec 32

/-- 08 R196: what the 25-bit COUNT of a combined record holds of a sum that does not fit. Safe, log 55. -/
opaque countOver (n : Nat) : BitVec 25

/-- How fast the PTP servo slews fabric time, in ns per tick of 10 ns (18 R409 gives no rate), by the correction left (log 71). -/
opaque slewNs (left : Int) : Nat

/-- R161: log2 within 1 ulp. Safe, log 6. -/
opaque log2Raw (x : F32) : F32

/-- R101: cos of position times frequency, within 1 ulp. Safe, log 6. -/
opaque cosRaw (pos : Int) (freq : F32) : F32

/-- R101: sin of position times frequency, within 1 ulp. Safe, log 6. -/
opaque sinRaw (pos : Int) (freq : F32) : F32

/-- R101, R139, R148: what a channel unit stores for a value that its numeric steps made infinite or NaN. Safe, log 42. -/
opaque overflowElem (fmt : Nat) (v : F32) : BitVec 16

/-- R93: the two check bytes of a line; the generator polynomial is not given. Safe, log 8. -/
opaque lineCode (line : Bytes) (qTag : Nat) : BitVec 16

/-- What the line code finds in the `n`-th read that firmware makes for itself (04 R93): nothing, or a line by cache address, corrected or not (log 92). -/
opaque lineFound (n : Nat) : Option (BitVec 44 × Bool)

/-- Where in the system range of region `r` the journals of its channel units lie, and the 64 bytes of an entry: 04 R104 gives neither (log 93). -/
opaque journalPlace (r : Nat) : Nat
opaque journalEntry (st : Nat) (chunks : List Nat) : Bytes

/-- The stack-SRAM offset at which the payload of the command with TAG `tag` is staged (04 Table 4.7; log 94). -/
opaque stagedOffset (tag : Nat) : BitVec 28

end Sys2Proof.Config
end

