-- ==== Sys2Proof/Machine/Fp.lean ====
section
/-! DEFINITION. The floating-point arithmetic of 06 R133: exact values, rounding to nearest with ties to even, FP32
operations and the narrow formats of Table 6.2. A NaN result is the quiet NaN 0x7FC0_0000 (log 15). -/

namespace Sys2Proof.Machine

/-- An extended value: NaN, an infinity, or the exact finite value ±m·2^e (06 R133, R148). -/
inductive Ext where
  | nan
  | inf (neg : Bool)
  | fin (neg : Bool) (m : Nat) (e : Int)
  deriving DecidableEq, Repr

/-- m·2^e times 2^(e - q) as a natural number, for e at or above q; division with remainder below is in `roundNat`. -/
def shl (m : Nat) (k : Int) : Nat := m * 2 ^ k.toNat

/-- Round m·2^e (plus a part below it when `sticky`) to a multiple of 2^q, to nearest with ties to even: the multiple. -/
def roundAt (m : Nat) (e q : Int) (sticky : Bool) : Nat :=
  if q ≤ e then shl m (e - q)
  else
    let k := (q - e).toNat
    let t := m / 2 ^ k
    let r := m % 2 ^ k
    let half := 2 ^ (k - 1)
    if r < half then t
    else if half < r ∨ sticky = true then t + 1
    else if t % 2 = 1 then t + 1 else t

/-- The exponent of the last place of m·2^e at precision `p` and least exponent `emin`. -/
def quantum (p : Nat) (emin : Int) (m : Nat) (e : Int) : Int :=
  max (e + (Nat.log2 m : Nat) - ((p : Int) - 1)) emin

/-- The bits of an FP32 value m·2^q with m below 2^25 and q at least -149. -/
def pack32 (neg : Bool) (m : Nat) (q : Int) : F32 :=
  let m' := if m = 2 ^ 24 then 2 ^ 23 else m
  let q' := if m = 2 ^ 24 then q + 1 else q
  let sgn := if neg then 2 ^ 31 else 0
  if m' < 2 ^ 23 then BitVec.ofNat 32 (sgn + m')
  else if 105 ≤ q' then BitVec.ofNat 32 (sgn + 255 * 2 ^ 23)
  else BitVec.ofNat 32 (sgn + (q' + 150).toNat * 2 ^ 23 + (m' - 2 ^ 23))

/-- The quiet NaN of the model (log 15). -/
def nan32 : F32 := 0x7FC00000

/-- An exact value rounded once to FP32 (06 R133: overflow gives an infinity, subnormals are kept). -/
def toF32s (neg : Bool) (m : Nat) (e : Int) (sticky : Bool) : F32 :=
  if m = 0 then pack32 neg 0 (-149)
  else
    let q := quantum 24 (-149) m e
    pack32 neg (roundAt m e q sticky) q

/-- An extended value rounded once to FP32. -/
def toF32 : Ext → F32
  | .nan => nan32
  | .inf neg => if neg then 0xFF800000 else 0x7F800000
  | .fin neg m e => toF32s neg m e false

/-- The value of FP32 bits. -/
def ofF32 (x : F32) : Ext :=
  let n := x.toNat
  let neg := decide (2 ^ 31 ≤ n)
  let ex : Nat := n / 2 ^ 23 % 256
  let fr : Nat := n % 2 ^ 23
  if ex = 255 then (if fr = 0 then .inf neg else .nan)
  else if ex = 0 then .fin neg fr (-149)
  else .fin neg (fr + 2 ^ 23) ((ex : Int) - 150)

/-- Signed mantissa. -/
def sgn (neg : Bool) (m : Nat) : Int := if neg then -(m : Int) else m

/-- The exact sum of two finite values; an exact zero is +0 unless both are negative zeros or negative. -/
def addFin (n1 : Bool) (m1 : Nat) (e1 : Int) (n2 : Bool) (m2 : Nat) (e2 : Int) : Ext :=
  let e := min e1 e2
  let v := sgn n1 (shl m1 (e1 - e)) + sgn n2 (shl m2 (e2 - e))
  if v = 0 then .fin (n1 && n2) 0 e else .fin (decide (v < 0)) v.natAbs e

/-- Exact sum. -/
def addExt : Ext → Ext → Ext
  | .nan, _ => .nan
  | _, .nan => .nan
  | .inf a, .inf b => if a = b then .inf a else .nan
  | .inf a, _ => .inf a
  | _, .inf b => .inf b
  | .fin n1 m1 e1, .fin n2 m2 e2 => addFin n1 m1 e1 n2 m2 e2

/-- Exact product. -/
def mulExt : Ext → Ext → Ext
  | .nan, _ => .nan
  | _, .nan => .nan
  | .inf a, .inf b => .inf (a != b)
  | .inf a, .fin n m _ => if m = 0 then .nan else .inf (a != n)
  | .fin n m _, .inf b => if m = 0 then .nan else .inf (n != b)
  | .fin n1 m1 e1, .fin n2 m2 e2 => .fin (n1 != n2) (m1 * m2) (e1 + e2)

/-- The negation. -/
def negExt : Ext → Ext
  | .nan => .nan
  | .inf a => .inf (!a)
  | .fin n m e => .fin (!n) m e

/-- FP32 addition. -/
def fadd (a b : F32) : F32 := toF32 (addExt (ofF32 a) (ofF32 b))
/-- FP32 subtraction. -/
def fsub (a b : F32) : F32 := toF32 (addExt (ofF32 a) (negExt (ofF32 b)))
/-- FP32 multiplication. -/
def fmul (a b : F32) : F32 := toF32 (mulExt (ofF32 a) (ofF32 b))
/-- Fused multiply-add a·b + c, rounded once. -/
def ffma (a b c : F32) : F32 := toF32 (addExt (mulExt (ofF32 a) (ofF32 b)) (ofF32 c))
/-- FP32 negation. -/
def fneg (a : F32) : F32 := a ^^^ 0x80000000

/-- FP32 division of extended values, rounded once. -/
def divExt : Ext → Ext → F32
  | .nan, _ => nan32
  | _, .nan => nan32
  | .inf _, .inf _ => nan32
  | .inf a, .fin n _ _ => toF32 (.inf (a != n))
  | .fin n _ _, .inf b => toF32 (.fin (n != b) 0 0)
  | .fin n1 m1 e1, .fin n2 m2 e2 =>
    if m2 = 0 then (if m1 = 0 then nan32 else toF32 (.inf (n1 != n2)))
    else
      let num := m1 * 2 ^ 64
      toF32s (n1 != n2) (num / m2) (e1 - e2 - 64) (decide (num % m2 ≠ 0))

/-- FP32 division. -/
def fdiv (a b : F32) : F32 := divExt (ofF32 a) (ofF32 b)

/-- Integer square root by bits: the largest t below 2^n with t·t at most `v`. -/
def isqrtBits : Nat → Nat → Nat → Nat
  | 0, _, t => t
  | n + 1, v, t => if (t + 2 ^ n) * (t + 2 ^ n) ≤ v then isqrtBits n v (t + 2 ^ n) else isqrtBits n v t

/-- The correctly rounded reciprocal square root of an FP32 value (04 R101). -/
def frsqrt (x : F32) : F32 :=
  match ofF32 x with
  | .nan => nan32
  | .inf neg => if neg then nan32 else 0
  | .fin neg m e =>
    if m = 0 then (if neg then 0xFF800000 else 0x7F800000)
    else if neg then nan32
    else
      let m' := if e % 2 = 0 then m else 2 * m
      let e' := if e % 2 = 0 then e else e - 1
      let v := 2 ^ 104 / m'
      let t := isqrtBits 53 v 0
      toF32s false t (-(e' / 2) - 52) (decide (t * t * m' ≠ 2 ^ 104))

/-- The order of two extended values as exact numbers: a < b. NaN compares false. -/
def ltExt : Ext → Ext → Bool
  | .nan, _ => false
  | _, .nan => false
  | .inf a, .inf b => a && !b
  | .inf a, .fin _ _ _ => a
  | .fin _ _ _, .inf b => !b
  | .fin n1 m1 e1, .fin n2 m2 e2 =>
    let e := min e1 e2
    decide (sgn n1 (shl m1 (e1 - e)) < sgn n2 (shl m2 (e2 - e)))

/-- FP32 a < b. -/
def flt (a b : F32) : Bool := ltExt (ofF32 a) (ofF32 b)

/-- FP32 bits are a NaN. -/
def isNan32 (x : F32) : Bool := ofF32 x == .nan

/-- FP32 bits are an infinity. -/
def isInf32 (x : F32) : Bool := x == 0x7F800000 || x == 0xFF800000

/-- FP32 bits are a finite value. -/
def isFin32 (x : F32) : Bool := !isNan32 x && !isInf32 x

/-- FP32 equality to zero of either sign. -/
def isZero32 (x : F32) : Bool := x == 0 || x == 0x80000000

/-- The larger of two FP32 values; NaN when either is. -/
def fmax (a b : F32) : F32 := if isNan32 a || isNan32 b then nan32 else if flt a b then b else a

/-- The smaller of two FP32 values; NaN when either is. -/
def fmin (a b : F32) : F32 := if isNan32 a || isNan32 b then nan32 else if flt b a then b else a

/-- |x|. -/
def fabs (x : F32) : F32 := x &&& 0x7FFFFFFF

/-- An integer as FP32, rounded. -/
def intToF32 (i : Int) : F32 := toF32s (decide (i < 0)) i.natAbs 0 false

/-! ## Results with their overflows (06 R148) -/

/-- A value with the overflows met on the way (ACC_OVERFLOW, 06 R148). -/
structure Acc where
  v : F32
  ovf : Nat := 0
  deriving DecidableEq, Repr

/-- One rounding's overflow: finite operands gave an infinity. -/
def ovfOf (ins : List F32) (out : F32) : Nat := if isInf32 out && ins.all isFin32 then 1 else 0

/-- Round an exact value, noting an overflow. -/
def accRound (x : Ext) : Acc :=
  match x with
  | .fin n m e => ⟨toF32 (.fin n m e), if isInf32 (toF32 (.fin n m e)) then 1 else 0⟩
  | x => ⟨toF32 x, 0⟩

/-- Sum, product and fused multiply-add that carry the overflows of their operands and note their own. -/
def accAdd (a b : Acc) : Acc := ⟨fadd a.v b.v, a.ovf + b.ovf + ovfOf [a.v, b.v] (fadd a.v b.v)⟩
def accMul (a b : Acc) : Acc := ⟨fmul a.v b.v, a.ovf + b.ovf + ovfOf [a.v, b.v] (fmul a.v b.v)⟩
def accFma (a b c : Acc) : Acc := ⟨ffma a.v b.v c.v, a.ovf + b.ovf + c.ovf + ovfOf [a.v, b.v, c.v] (ffma a.v b.v c.v)⟩

/-! ## Narrow formats (06 Table 6.2) -/

/-- A floating-point format: precision in bits, exponent of the least place, exponent bits' bias, mantissa bits, the largest
finite value's bits, whether it has infinities, the bits of its NaN. -/
structure NarrowFmt where
  prec : Nat
  emin : Int
  man : Nat
  width : Nat
  maxBits : Nat
  infBits : Option Nat
  nanBits : Option Nat

def fmtBf16 : NarrowFmt := ⟨8, -133, 7, 16, 0x7F7F, some 0x7F80, some 0x7FC0⟩
def fmtFp16 : NarrowFmt := ⟨11, -24, 10, 16, 0x7BFF, some 0x7C00, some 0x7E00⟩
def fmtE4m3 : NarrowFmt := ⟨4, -9, 3, 8, 0x7E, none, some 0x7F⟩
def fmtE5m2 : NarrowFmt := ⟨3, -16, 2, 8, 0x7B, some 0x7C, some 0x7E⟩
def fmtE2m1 : NarrowFmt := ⟨2, -1, 1, 4, 0x7, none, none⟩

/-- The bits, without sign, of m·2^q at a format's precision. -/
def packNarrow (f : NarrowFmt) (m : Nat) (q : Int) : Nat :=
  let m' := if m = 2 ^ f.prec then 2 ^ f.man else m
  let q' := if m = 2 ^ f.prec then q + 1 else q
  if m' < 2 ^ f.man then m' else (q' - f.emin + 1).toNat * 2 ^ f.man + (m' - 2 ^ f.man)

/-- What a conversion gives: the bits, a flag value carried beside the lane when the format lacks it (06 R133), and whether
saturation changed the value. -/
structure Narrowed where
  bits : Nat
  flag : Option Ext := none
  clipped : Bool := false
  deriving DecidableEq, Repr

/-- Convert a value to a narrow format (06 R133): nearest-even, a finite value beyond the largest saturates. -/
def toNarrow (f : NarrowFmt) (x : Ext) : Narrowed :=
  let sb := fun (neg : Bool) => if neg then 2 ^ (f.width - 1) else 0
  match x with
  | .nan =>
    match f.nanBits with
    | some b => { bits := b }
    | none => { bits := 0, flag := some .nan }
  | .inf neg =>
    match f.infBits with
    | some b => { bits := b + sb neg }
    | none => { bits := 0, flag := some (.inf neg) }
  | .fin neg m e =>
    if m = 0 then { bits := sb neg }
    else
      let q := quantum f.prec f.emin m e
      let b := packNarrow f (roundAt m e q false) q
      if f.maxBits < b then { bits := f.maxBits + sb neg, clipped := true } else { bits := b + sb neg }

/-- The value of a narrow format's bits. -/
def ofNarrow (f : NarrowFmt) (b : Nat) : Ext :=
  let neg := decide (2 ^ (f.width - 1) ≤ b % 2 ^ f.width)
  let a := b % 2 ^ (f.width - 1)
  let ex : Nat := a / 2 ^ f.man
  let fr : Nat := a % 2 ^ f.man
  if a ≤ f.maxBits then
    (if ex = 0 then .fin neg fr f.emin else .fin neg (fr + 2 ^ f.man) (f.emin + (ex : Int) - 1))
  else if some a = f.infBits then .inf neg
  else .nan

/-- The E8M0 value (06 Table 6.2). -/
def ofE8m0 (b : Nat) : Ext := if b % 256 = 255 then .nan else .fin false 1 (((b % 256 : Nat) : Int) - 127)

/-- A value rounded to the nearest integer, ties to even; none for a NaN or an infinity. -/
def roundInt (x : Ext) : Option Int :=
  match x with
  | .fin neg m e => some (sgn neg (roundAt m e 0 false))
  | _ => none

/-- The integer part (floor) of a value; none for a NaN or an infinity. -/
def floorExt (x : Ext) : Option Int :=
  match x with
  | .fin neg m e => some (if 0 ≤ e then sgn neg (shl m e) else (sgn neg m) / (2 ^ (-e).toNat : Nat))
  | _ => none

/-- The smallest value of a format not less than |x| for a finite x, as bits, and none beyond the largest. -/
def ceilNarrow (f : NarrowFmt) (m : Nat) (e : Int) : Option Nat :=
  if m = 0 then some 0
  else
    let q := quantum f.prec f.emin m e
    let t := if q ≤ e then shl m (e - q)
      else (m + 2 ^ (q - e).toNat - 1) / 2 ^ (q - e).toNat
    let b := packNarrow f t q
    if f.maxBits < b then none else some b

/-- floor(log2 |x|) of a non-zero finite value. -/
def floorLog2 (m : Nat) (e : Int) : Int := (Nat.log2 m : Nat) + e

/-- ⌊2^(2^-i) · 2^64⌋ for i = 1 … 40: the factors of 2^f by the bits of f (06 R149). -/
def exp2Roots : List Nat :=
  [26087635650665564424, 21936999301089678046, 20116317054877281741, 19263451207323153961, 18850675170876015534,
   18647615946650685158, 18546908069882975960, 18496758270674070881, 18471734244850835105, 18459234930309000272,
   18452988445124272033, 18449865995240371898, 18448304968436414829, 18447524504564044945, 18447134285009651015,
   18446939178327825412, 18446841625760745902, 18446792849670663276, 18446768461673986097, 18446756267687738521,
   18446750170697637485, 18446747122203342655, 18446745597956384161, 18446744835832952145, 18446744454771247944,
   18446744264240398796, 18446744168974974960, 18446744121342263226, 18446744097525907405, 18446744085617729507,
   18446744079663640560, 18446744076686596088, 18446744075198073851, 18446744074453812733, 18446744074081682174,
   18446744073895616895, 18446744073802584255, 18446744073756067935, 18446744073732809775, 18446744073721180695]

/-- Bounds of 2^f in units of 2^-64 for f = F / 2^40, F below 2^40: the product of the factors of the bits of F, rounded down and up. -/
def exp2Bounds (F : Nat) : Nat × Nat :=
  exp2Roots.zipIdx.foldl (fun b e =>
    if F / 2 ^ (39 - e.2) % 2 = 1 then (b.1 * e.1 / 2 ^ 64, b.2 * (e.1 + 1) / 2 ^ 64 + 1) else b) (2 ^ 64, 2 ^ 64)

/-- 2^f for f = m / 2^k in (0, 1), in units of 2^-64 (06 R149): what the silicon's cubic gives, which is open but within half a unit of the
last FP32 place of 2^f, so that the rounded result is within 1 ulp (log 6). -/
def exp2Frac (m k : Nat) : Nat :=
  let b := exp2Bounds (m * 2 ^ 40 / 2 ^ k)
  max (b.2 + b.2 / 2 ^ 40 + 1 - 2 ^ 40) (min (b.1 + 2 ^ 40) (Config.exp2Cubic (m * 2 ^ (149 - k))))

/-- 2^x in FP32 (06 R149): x = n + f, 2^f from the cubic, scaled by 2^n exactly and rounded once; exact for an integer x. -/
def exp2F (x : F32) : F32 :=
  match ofF32 x with
  | .nan => nan32
  | .inf neg => if neg then 0 else 0x7F800000
  | .fin neg m e =>
    if ltExt (.fin neg m e) (.fin true 150 0) then 0
    else if !ltExt (.fin neg m e) (.fin false 128 0) then 0x7F800000
    else if 0 ≤ e then toF32s false 1 (sgn neg (shl m e)) false
    else
      let k := (-e).toNat
      let f := (sgn neg m % (2 ^ k : Nat)).toNat
      let n := sgn neg m / (2 ^ k : Nat)
      if f = 0 then toF32s false 1 n false else toF32s false (exp2Frac f k) (n - 64) false

end Sys2Proof.Machine
end

