-- ==== Sys2Proof/Machine/Operands.lean ====
section
/-! DEFINITION. What the operands of commands spell: the format descriptor (03 Table 3.1, R55-R57), the stored formats (06
Table 6.3), the page layout (06 Table 6.4, R136-R138) and the channel-unit command (04 Table 4.7). -/

namespace Sys2Proof.Machine

/-! ## The format descriptor (03 Table 3.1) -/

abbrev dVersion (d : Bytes) : Nat := bits (rd d 0 1) 3 0
abbrev dPageCode (d : Bytes) : Nat := bits (rd d 0 1) 5 4
abbrev dLayout (d : Bytes) : Nat := bits (rd d 0 1) 7 6
abbrev dLayers (d : Bytes) : Nat := rd d 1 1 + 1
abbrev dKvHeads (d : Bytes) : Nat := bits (rd d 2 1) 5 0 + 1
abbrev dQHeads (d : Bytes) : Nat := rd d 3 1 + 1
abbrev dDimK (d : Bytes) : Nat := bits (rd d 4 1) 5 0
abbrev dDimV (d : Bytes) : Nat := bits (rd d 5 1) 5 0
abbrev dDimR (d : Bytes) : Nat := bits (rd d 6 1) 3 0
abbrev dHeadsPerPage (d : Bytes) : Nat := bits (rd d 7 1) 5 0 + 1
abbrev dTokLog2 (d : Bytes) : Nat := bits (rd d 8 1) 3 0
abbrev dKFmt (d : Bytes) : Nat := bits (rd d 9 1) 4 0
abbrev dVFmt (d : Bytes) : Nat := bits (rd d 10 1) 4 0
abbrev dGroup (d : Bytes) : Nat := bits (rd d 11 1) 1 0
abbrev dStreamed (d : Bytes) : Bool := bitAt (rd d 11 1) 2
abbrev dMaxTokens (d : Bytes) : Nat := bits (rd d 12 4) 24 0
abbrev dLineCode (d : Bytes) : Bool := bitAt (rd d 16 1) 0
abbrev dProtected (d : Bytes) : Bool := bitAt (rd d 16 1) 1
abbrev dDeltaOk (d : Bytes) : Bool := bitAt (rd d 16 1) 2
abbrev dStripeFull (d : Bytes) : Bool := bitAt (rd d 16 1) 3
abbrev dFallbackEn (d : Bytes) : Bool := bitAt (rd d 16 1) 4
abbrev dFallbackState (d : Bytes) : Nat := bits (rd d 17 1) 5 0

/-- The latent layout (03 Table 3.1, LAYOUT 1). -/
def dLatent (d : Bytes) : Bool := dLayout d == 1

/-- The page size in bytes. -/
def dPageSize (d : Bytes) : Nat := 16384 * 4 ^ dPageCode d

/-- T, the tokens of a page. -/
def dTokens (d : Bytes) : Nat := 2 ^ dTokLog2 d

/-- G, the head groups of a tensor. -/
def dGroups (d : Bytes) : Nat := dKvHeads d / dHeadsPerPage d

/-! ## Stored formats (06 Table 6.3) -/

/-- A YQ format. -/
def fmtYq (f : Nat) : Bool := f == 0x0D || f == 0x0E

/-- An MX format. -/
def fmtMx (f : Nat) : Bool := decide (0x09 ≤ f) && decide (f ≤ 0x0C)

/-- A format with tensor-head parameters (R135). -/
def fmtHead (f : Nat) : Bool := decide (0x03 ≤ f) && decide (f ≤ 0x08)

/-- A format with a zero point. -/
def fmtZp (f : Nat) : Bool := f == 0x06 || f == 0x08

/-- Element bits of a stored format. -/
def fmtBits (f : Nat) : Nat :=
  if f = 0x01 ∨ f = 0x02 then 16
  else if f = 0x07 ∨ f = 0x08 ∨ f = 0x0B ∨ f = 0x0E then 4
  else 8

/-- The group length r of a format under GROUP code `g`. -/
def fmtGroup (f g : Nat) : Nat := if fmtYq f then 32 * 2 ^ g else 32

/-! ## Kinds and dimensions -/

/-- Either data kind is a YQ format. -/
def dAnyYq (d : Bytes) : Bool := fmtYq (dKFmt d) || fmtYq (dVFmt d)

/-- K, the number of kinds (03, section on tensors). -/
def dKinds (d : Bytes) : Nat :=
  if dLatent d then (if dStreamed d then 2 else 1) else (if dStreamed d then 4 else 2)

/-- The data kind that scale kind `k` belongs to. -/
def scaleOf (d : Bytes) (k : Nat) : Option Nat :=
  if dStreamed d then
    (if dLatent d then (if k = 1 then some 0 else none) else if k = 2 then some 0 else if k = 3 then some 1 else none)
  else none

/-- The stored format of data kind `k`. -/
def dFmt (d : Bytes) (k : Nat) : Nat := if k = 0 then dKFmt d else dVFmt d

/-- A void scale kind: its data kind is not YQ (03, section on tensors). -/
def dVoid (d : Bytes) (k : Nat) : Bool :=
  match scaleOf d k with
  | none => false
  | some j => !fmtYq (dFmt d j)

/-- D, the elements of one token and head of data kind `k` (R136). -/
def dDim (d : Bytes) (k : Nat) : Nat :=
  if dLatent d then (dDimK d + dDimR d) * 16 else if k = 0 then dDimK d * 16 else dDimV d * 16

/-! ## The page layout (06 R136, R137) -/

/-- Bytes of the element area of data kind `k`. -/
def elemArea (d : Bytes) (k : Nat) : Nat := dHeadsPerPage d * dTokens d * dDim d k * fmtBits (dFmt d k) / 8

/-- The page holds a group-scale area: MX formats, and YQ with inline scales. -/
def hasScales (d : Bytes) (k : Nat) : Bool := fmtMx (dFmt d k) || (fmtYq (dFmt d k) && !dStreamed d)

/-- r of data kind `k`. -/
def dR (d : Bytes) (k : Nat) : Nat := fmtGroup (dFmt d k) (dGroup d)

/-- Bytes of the group-scale area. -/
def scaleArea (d : Bytes) (k : Nat) : Nat :=
  if hasScales d k then dHeadsPerPage d * dTokens d * dDim d k / dR d k else 0

/-- Offset of the second-level area. -/
def s2Base (d : Bytes) (k : Nat) : Nat := alignUp 64 (elemArea d k + scaleArea d k)

/-- The page holds second-level scales: YQ with inline scales. -/
def hasS2 (d : Bytes) (k : Nat) : Bool := fmtYq (dFmt d k) && !dStreamed d

/-- Bytes a data page uses. -/
def pageUsed (d : Bytes) (k : Nat) : Nat :=
  if hasS2 d k then s2Base d k + alignUp 64 (dHeadsPerPage d * 4) else elemArea d k + scaleArea d k

/-- Bytes a page of scale kind `k` uses (R137). -/
def scalePageUsed (d : Bytes) (k : Nat) : Nat :=
  match scaleOf d k with
  | none => 0
  | some j => dHeadsPerPage d * dTokens d * (dDim d j / dR d j) * 2

/-- Bytes of the areas of a page of any kind. -/
def areaBytes (d : Bytes) (k : Nat) : Nat := if (scaleOf d k).isSome then scalePageUsed d k else pageUsed d k

/-- Byte offset, in the element area, of element `i` of token `t` of head `h`, for formats of at least 8 bits; 4-bit elements
share a byte, the even one low (R133). -/
def elemOff (d : Bytes) (k h t i : Nat) : Nat :=
  (h * dTokens d + t) * dDim d k * fmtBits (dFmt d k) / 8 + i * fmtBits (dFmt d k) / 8

/-- Byte offset of group scale γ of token `t` of head `h` (R136). -/
def scaleOff (d : Bytes) (k h t γ : Nat) : Nat :=
  elemArea d k + (h * dTokens d + t) * dDim d k / dR d k + γ

/-- Byte offset of S2 of head `h` (R136). -/
def s2Off (d : Bytes) (k h : Nat) : Nat := s2Base d k + 4 * h

/-- Byte offset of streamed group scale γ in the scale page (R137). -/
def streamOff (d : Bytes) (j h t γ : Nat) : Nat := (h * dTokens d + t) * (dDim d j / dR d j) * 2 + 2 * γ

/-- The descriptor has a page layout (R138). -/
def hasLayout (d : Bytes) : Bool :=
  (List.range (if dLatent d then 1 else 2)).all fun k =>
    (!(fmtYq (dFmt d k) || fmtMx (dFmt d k)) || dDim d k % dR d k == 0) &&
      decide (pageUsed d k ≤ dPageSize d) &&
      (!(dStreamed d && fmtYq (dFmt d k)) ||
        decide (dHeadsPerPage d * dTokens d * (dDim d k / dR d k) * 2 ≤ dPageSize d))

/-! ## Sequence-virtual geometry (03 R57, R58) -/

/-- n_pages. -/
def dPages (d : Bytes) : Nat := (dMaxTokens d + dTokens d - 1) / dTokens d

/-- The span of one tensor. -/
def dSpan (d : Bytes) : Nat := dGroups d * dPages d * dPageSize d

/-- The sequence-virtual address of page index `idx` = g·n_pages + p of tensor (l, k). -/
def svAddr (d : Bytes) (l k idx : Nat) : Nat := (l * dKinds d + k) * dSpan d + idx * dPageSize d

/-- The page index of page `p` of head group `g`. -/
def pageIdx (d : Bytes) (g p : Nat) : Nat := g * dPages d + p

/-- Index bits of the three levels (03 Table 3.2). -/
def walkIdx (d : Bytes) (sv : Nat) : Nat × Nat × Nat :=
  let off := 14 + 2 * dPageCode d
  (sv / 2 ^ (off + 18), sv / 2 ^ (off + 9) % 512, sv / 2 ^ off % 512)

/-- The descriptor checks of R55, in their order: true when the descriptor is refused with ST_MALFORMED. -/
def descBad (d : Bytes) : Bool :=
  let legalFmt := fun f => decide (1 ≤ f) && decide (f ≤ 0x0E)
  d.length != 64 || dVersion d != 1 || dPageCode d == 3 || decide (2 ≤ dLayout d) ||
  decide (dDimK d < 2) || decide (36 < dDimK d) || decide (dDimV d < 2) || decide (36 < dDimV d) ||
  (if dLatent d then dDimV d != dDimK d || decide (8 < dDimR d) else dDimR d != 0) ||
  decide (dTokLog2 d < 4) || decide (12 < dTokLog2 d) ||
  !legalFmt (dKFmt d) || (if dLatent d then dVFmt d != 0 else !legalFmt (dVFmt d)) ||
  dGroup d == 3 || dMaxTokens d == 0 || decide (16777216 < dMaxTokens d) ||
  -- reserved bits and bytes (R7)
  bits (rd d 2 1) 7 6 != 0 || bits (rd d 4 1) 7 6 != 0 || bits (rd d 5 1) 7 6 != 0 || bits (rd d 6 1) 7 4 != 0 ||
  bits (rd d 7 1) 7 6 != 0 || bits (rd d 8 1) 7 4 != 0 || bits (rd d 9 1) 7 5 != 0 || bits (rd d 10 1) 7 5 != 0 ||
  bits (rd d 11 1) 7 3 != 0 || bits (rd d 12 4) 31 25 != 0 || bits (rd d 16 1) 7 5 != 0 || bits (rd d 17 1) 7 6 != 0 ||
  !zeroAt d 18 46 ||
  -- relations
  decide (dKvHeads d % dHeadsPerPage d ≠ 0) ||
  (!dLatent d && decide (dQHeads d % dKvHeads d ≠ 0)) ||
  (dLatent d && (dKvHeads d != 1 || decide (576 < (dDimK d + dDimR d) * 16))) ||
  (!dStreamed d && dPageCode d == 2 && dAnyYq d) ||
  (dStreamed d && !dAnyYq d) ||
  (dGroup d != 0 && !dAnyYq d) ||
  (dProtected d && dDeltaOk d) ||
  !hasLayout d ||
  decide (2 ^ 40 < dLayers d * dKinds d * dSpan d)

/-- The home region of page `p` of head group `g` of layer `l` (03 R65). -/
def homeRegion (slot l g p : Nat) : Nat := (p + g + l + slot % 16) % 16

/-- The home channel (03 R67). -/
def homeChannel (slot l g p : Nat) : Nat := (p + g + l + slot % 16) / 16 % 12

end Sys2Proof.Machine
end

