-- ==== Sys2Proof/Machine/Programs.lean ====
section
/-! DEFINITION. The Rilmet program image (07 R156-R166): its fields, its validation (R157, R159), and the pattern machine
(R167-R171). -/

namespace Sys2Proof.Machine

/-! ## Fields of the header (07 Table 7.1) -/

abbrev pLayout (p : Bytes) : Nat := bits (rd p 0 1) 5 4
abbrev pStages (p : Bytes) : Nat := rd p 1 1
abbrev pCurves (p : Bytes) : Nat := bits (rd p 2 1) 3 0
abbrev pPosTables (p : Bytes) : Nat := bits (rd p 2 1) 6 4
abbrev pStates (p : Bytes) : Nat := rd p 3 1
abbrev pLen (p : Bytes) : Nat := rd p 4 4
abbrev pKvHeads (p : Bytes) : Nat := rd p 8 1 + 1
abbrev pQHeads (p : Bytes) : Nat := rd p 9 1 + 1
abbrev pDimK (p : Bytes) : Nat := rd p 10 1
abbrev pDimV (p : Bytes) : Nat := rd p 11 1
abbrev pDimR (p : Bytes) : Nat := rd p 12 1
abbrev pQueryDim (p : Bytes) : Nat := rd p 13 1
abbrev pCurveOff (p : Bytes) : Nat := rd p 14 2 * 64
abbrev pPosOff (p : Bytes) : Nat := rd p 16 2 * 64
abbrev pPatternOff (p : Bytes) : Nat := rd p 18 2 * 64
abbrev pFormatOff (p : Bytes) : Nat := rd p 20 2 * 64
abbrev pGainOff (p : Bytes) : Nat := rd p 22 2 * 64
abbrev pHeadOff (p : Bytes) : Nat := rd p 24 2 * 64
abbrev pNorm (p : Bytes) : Bool := bitAt (rd p 26 1) 0
abbrev pRot (p : Bytes) : Bool := bitAt (rd p 26 1) 1
abbrev pGainPerHead (p : Bytes) : Bool := bitAt (rd p 26 1) 2
abbrev pHeadPresent (p : Bytes) : Bool := bitAt (rd p 26 1) 3
abbrev pRotTable (p : Bytes) : Nat := bits (rd p 26 1) 5 4
abbrev pRotStart (p : Bytes) : Nat := rd p 27 1
abbrev pRotCount (p : Bytes) : Nat := rd p 28 1

/-- A 32-bit FP32 field at byte `o`. -/
def f32At (b : Bytes) (o : Nat) : F32 := BitVec.ofNat 32 (rd b o 4)

/-- ε of R101. -/
def pEps (p : Bytes) : F32 := f32At p 32

/-- Element gain `i` of key/value head `h` (R164). -/
def pGain (p : Bytes) (h i : Nat) : F32 :=
  f32At p (pGainOff p + (if pGainPerHead p then h * 4 * (pDimK p * 16) else 0) + 4 * i)

/-- The head-vector entry of query head `h` (R166). -/
def pHeadVec (p : Bytes) (h : Nat) : F32 := f32At p (pHeadOff p + 4 * h)

/-! ## Tables -/

/-- Offset of position table `j` (R163). -/
def posBase (p : Bytes) (j : Nat) : Nat := pPosOff p + j * 2112
def posCount (p : Bytes) (j : Nat) : Nat := rd p (posBase p j) 2
def posSplit (p : Bytes) (j : Nat) : Bool := bitAt (rd p (posBase p j + 2) 1) 0
def posFreq (p : Bytes) (j i : Nat) : F32 := f32At p (posBase p j + 16 + 4 * i)

/-- The pairs of a rotary range (R163): elements (a, b) of pair `i`. -/
def rotPair (split : Bool) (start count i : Nat) : Nat × Nat :=
  if split then (16 * start + i, 16 * start + count * 8 + i) else (16 * start + 2 * i, 16 * start + 2 * i + 1)

/-- Format-table entry `k` (R165): FMT, GROUP, CLIP_THRESHOLD, S, Z, S2. -/
def fmtBase (p : Bytes) (k : Nat) : Nat := pFormatOff p + 640 * k
def ftFmt (p : Bytes) (k : Nat) : Nat := rd p (fmtBase p k) 1
def ftGroup (p : Bytes) (k : Nat) : Nat := rd p (fmtBase p k + 1) 1
def ftClip (p : Bytes) (k : Nat) : Nat := rd p (fmtBase p k + 4) 4
def ftS (p : Bytes) (k h : Nat) : F32 := f32At p (fmtBase p k + 16 + 4 * h)
def ftZ (p : Bytes) (k h : Nat) : Nat := rd p (fmtBase p k + 272 + h) 1
def ftS2 (p : Bytes) (k h : Nat) : F32 := f32At p (fmtBase p k + 336 + 4 * h)

/-- The 32 bytes of stage descriptor `i`. -/
def stageAt (p : Bytes) (i : Nat) : Bytes := slice p (64 + 32 * i) 32
def sgOp (d : Bytes) : Nat := rd d 0 1
def sgFlag (d : Bytes) : Bool := bitAt (rd d 1 1) 0
def sgB (d : Bytes) (i : Nat) : Nat := rd d i 1

/-- The stage descriptors in order. -/
def stages (p : Bytes) : List Bytes := (List.range (pStages p)).map (stageAt p)

/-- One curve evaluation (06 R150) of curve table `j`, with the overflows on the way (R148). -/
def curveEval (p : Bytes) (j : Nat) (x : Acc) : Acc :=
  let base := pCurveOff p + j * 4160
  let t := accMul (accAdd x ⟨fneg (f32At p base), 0⟩) ⟨f32At p (base + 4), 0⟩
  if isNan32 x.v then ⟨nan32, x.ovf⟩
  else
    let (seg, u) : Nat × F32 :=
      match floorExt (ofF32 t.v) with
      | none => if t.v == 0x7F800000 then (255, 0x3F800000) else (0, 0)
      | some n =>
        if n < 0 then (0, 0)
        else if 255 < n then (255, 0x3F800000)
        else (n.toNat, fmin (fsub t.v (intToF32 n)) 0x3F800000)
    let c := fun (i : Nat) => (⟨f32At p (base + 16 + 16 * seg + 4 * i), 0⟩ : Acc)
    let u := (⟨u, 0⟩ : Acc)
    accFma (accFma (accFma ⟨(c 3).v, t.ovf⟩ u (c 2)) u (c 1)) u (c 0)

/-! ## The pattern machine (07 Table 7.8) -/

def patAt (p : Bytes) (i : Nat) : Bytes := slice p (pPatternOff p + 16 * i) 16
def patOp (d : Bytes) : Nat := bits (rd d 0 1) 3 0
def patMask (d : Bytes) : Nat := bits (rd d 0 1) 7 4
def patStart (d : Bytes) : Nat := bits (rd d 1 1) 3 0
def patEnd (d : Bytes) : Nat := bits (rd d 1 1) 7 4
def patNext (d : Bytes) : Nat := rd d 2 1
def patBlk (d : Bytes) : Nat := bits (rd d 3 1) 3 0
def patMap (d : Bytes) : Nat := bits (rd d 3 1) 6 4
def patStartOff (d : Bytes) : Int := signed 32 (rd d 4 4)
def patEndOff (d : Bytes) : Int := signed 32 (rd d 8 4)
def patWidth (d : Bytes) : Nat := rd d 12 4

/-- Following NEXT from state `s` comes to state `goal` within `n` steps (07 R157). -/
def patReaches (p : Bytes) (goal : Nat) : Nat → Nat → Bool
  | 0, _ => false
  | n + 1, s => patOp (patAt p s) != 0 && (patNext (patAt p s) == goal || patReaches p goal n (patNext (patAt p s)))

/-- The first failed check of a list: the object, its index and the byte offset of the offending field (19 Table 19.8). -/
def firstBad : List (Bool × Nat × Nat × Nat) → Option (Nat × Nat × Nat)
  | [] => none
  | (bad, o, i, off) :: rest => if bad then some (o, i, off) else firstBad rest

/-- One check per field of an array of `n` fields, `stride` bytes apart (07 R157: the first offending field is named; log 43). -/
def eachBad (obj idx base stride n : Nat) (bad : Nat → Bool) : List (Bool × Nat × Nat × Nat) :=
  (List.range n).map fun i => (bad i, obj, idx, base + stride * i)

/-- Reserved bytes that must be zero. -/
def zeroBytes (p : Bytes) (obj idx base n : Nat) : List (Bool × Nat × Nat × Nat) :=
  eachBad obj idx base 1 n fun i => byteAt p (base + i) != 0

/-- The width, in units of 16, of the stored row of kind 0, and of the value row. -/
def pRowK (p : Bytes) : Nat := if pLayout p = 1 then pDimK p + pDimR p else pDimK p
def pRowV (p : Bytes) : Nat := if pLayout p = 1 then pDimK p + pDimR p else pDimV p

/-- head_dim_v in units of 16 (R159). -/
def pOutDim (p : Bytes) : Nat := if pLayout p = 1 then pDimK p else pDimV p

/-- The checks of the header. -/
def badHeader (p : Bytes) : List (Bool × Nat × Nat × Nat) :=
  let h := fun (b : Bool) (off : Nat) => (b, 0, 0xFF, off)
  [ h (bits (rd p 0 1) 3 0 != 1 || decide (1 < pLayout p) || bits (rd p 0 1) 7 6 != 0) 0,
    h (decide (pStages p < 1) || decide (24 < pStages p)) 1,
    h (decide (8 < pCurves p) || decide (4 < pPosTables p) || bitAt (rd p 2 1) 7) 2,
    h (decide (pStates p < 1) || decide (64 < pStates p)) 3,
    h (pLen p % 64 != 0 || decide (196608 < pLen p) || decide (pLen p < 64 + 32 * pStages p)) 4,
    h (decide (64 < pKvHeads p)) 8,
    h (decide (pDimK p < 2) || decide (36 < pDimK p)) 10,
    h (decide (pDimV p < 2) || decide (36 < pDimV p) || (pLayout p == 1 && pDimV p != pDimK p)) 11,
    h (decide (8 < pDimR p) || (pLayout p == 0 && pDimR p != 0)) 12,
    h (decide (pQueryDim p < 2) || decide (36 < pQueryDim p)) 13,
    h ((pCurves p != 0) && (pCurveOff p == 0)) 14,
    h ((pPosTables p != 0) && (pPosOff p == 0)) 16,
    h (pPatternOff p == 0) 18,
    h (pFormatOff p == 0) 20,
    h (pNorm p && (pGainOff p == 0)) 22,
    h (pHeadPresent p && (pHeadOff p == 0)) 24,
    h (bits (rd p 26 1) 7 6 != 0 || (pRot p && decide (pPosTables p ≤ pRotTable p))) 26,
    h (decide (63 < pRotStart p) || (pRot p && decide (pRowK p < pRotStart p + pRotCount p))) 27,
    h (decide (63 < pRotCount p) || (pRot p && decide (posCount p (pRotTable p) < pRotCount p * 8))) 28,
    h (!zeroAt p 29 1) 29, h (!zeroAt p 30 1) 30, h (!zeroAt p 31 1) 31,
    h (pNorm p && (!isFin32 (pEps p) || !flt 0 (pEps p))) 32 ] ++ zeroBytes p 0 0xFF 36 28

/-- The bytes of a descriptor that its OP uses beyond bytes 0 and 1 (07 Table 7.3). -/
def stageUses (op : Nat) : List Nat :=
  match op with
  | 0x01 => [2] | 0x02 => [2, 3] | 0x03 => [2, 3, 4] | 0x04 => [2, 3, 4, 5]
  | 0x05 => [4, 5, 6, 7] | 0x06 => [4, 5, 6, 7]
  | 0x07 => [2, 8, 9, 10, 11, 12, 13, 14, 15]
  | 0x08 => [] | 0x09 => [2, 3] | 0x0A => [2, 3, 4] | 0x0B => [2] | _ => []

/-- The kinds that LOAD stages name. -/
def loadedKinds (p : Bytes) : List Nat := ((stages p).filter fun d => sgOp d == 1).map (sgB · 2)

/-- The checks of one stage descriptor. -/
def badStage (p : Bytes) (i : Nat) : List (Bool × Nat × Nat × Nat) :=
  let d := stageAt p i
  let op := sgOp d
  let off := 64 + 32 * i
  let b := fun (c : Bool) (o : Nat) => (c, 1, i, off + o)
  let kindBad := fun (k : Nat) => decide (1 < k) || (pLayout p == 1 && k != 0)
  let before := (List.range i).map (stageAt p)
  let flagOps := [0x04, 0x05, 0x06, 0x08, 0x0B]
  [ b (decide (op < 1) || decide (0x0B < op)) 0,
    b (if flagOps.contains op then decide (1 < rd d 1 1) else rd d 1 1 != 0) 1,
    b (op == 0x01 && kindBad (sgB d 2)) 2,
    b (op == 0x01 && before.any fun e => sgOp e == 1 && sgB e 2 == sgB d 2) 2,
    b ((op == 0x03 || op == 0x08) && before.any fun e => sgOp e == op) 0,
    b (op == 0x02 && sgB d 2 == 0 && before.any fun e => sgOp e == 2 && sgB e 2 == 0) 0,
    b (op == 0x02 && decide (1 < sgB d 2)) 2,
    b (op == 0x02 && decide (4 < sgB d 3)) 3,
    b (op == 0x03 && decide (pPosTables p ≤ sgB d 2)) 2,
    b (op == 0x03 && decide (pQueryDim p < sgB d 3 + sgB d 4)) 3,
    b (op == 0x03 && decide (posCount p (sgB d 2) < sgB d 4 * 8)) 4,
    b (op == 0x04 && (kindBad (sgB d 2) || !(loadedKinds p).contains (sgB d 2))) 2,
    b (op == 0x04 && decide (pQueryDim p < sgB d 3 + sgB d 5)) 3,
    b (op == 0x04 && decide ((if sgB d 2 = 0 then pRowK p else pRowV p) < sgB d 4 + sgB d 5)) 4,
    b ((op == 0x05 || op == 0x06) && sgFlag d && !pHeadPresent p) 1,
    b (op == 0x07 && decide (pCurves p ≤ sgB d 2)) 2,
    b (op == 0x09 && decide (1 < sgB d 2)) 2,
    b (op == 0x09 && sgB d 2 == 1 && decide (pCurves p ≤ sgB d 3)) 3,
    b (op == 0x0A && (kindBad (sgB d 2) || !(loadedKinds p).contains (sgB d 2))) 2,
    b (op == 0x0A && decide ((if sgB d 2 = 0 then pRowK p else pRowV p) < sgB d 3 + sgB d 4)) 3,
    b (op == 0x0B && decide (1 < sgB d 2)) 2 ] ++
  eachBad 1 i (off + 2) 1 30 fun j => !(stageUses op).contains (j + 2) && byteAt d (j + 2) != 0

/-- The phase of 07 R159 after a stage, from the phase before: 0 setup, 1 after the first SCORE_DOT, 2 after EXPMAX, 3 after the
DEQUANT of the value pass, 4 after a VALUE_ACC, 5 after EMIT; none when the stage may not stand there. -/
def stagePhase (ph : Nat) (d : Bytes) : Option Nat :=
  match sgOp d, ph with
  | 0x01, 0 => some 0
  | 0x02, 0 => if sgB d 2 = 0 then some 0 else none
  | 0x03, 0 => some 0
  | 0x04, 0 => if sgFlag d then none else some 1
  | 0x04, 1 => if sgFlag d then some 1 else none
  | 0x05, 1 => some 1
  | 0x06, 1 => some 1
  | 0x07, 1 => some 1
  | 0x08, 1 => some 1
  | 0x09, 1 => some 2
  | 0x02, 2 => if sgB d 2 = 1 then some 3 else none
  | 0x0A, 3 => some 4
  | 0x0A, 4 => some 4
  | 0x0B, 4 => some 5
  | _, _ => none

/-- The index of the first stage that breaks the order of R159, if any. -/
def orderBad (ph i : Nat) : List Bytes → Option Nat
  | [] => if ph = 5 then none else some (i - 1)
  | d :: ds =>
    match stagePhase ph d with
    | none => some i
    | some ph => orderBad ph (i + 1) ds

/-- How many stages have OP `op`. -/
def countOp (p : Bytes) (op : Nat) : Nat := (stages p).countP fun d => sgOp d == op

/-- The checks of the stage order beyond the phases (R159). -/
def badOrder (p : Bytes) : List (Bool × Nat × Nat × Nat) :=
  let last := pStages p - 1
  let b := fun (c : Bool) => (c, 1, last, 64 + 32 * last)
  let named := fun k => (stages p).any fun d => (sgOp d == 4 || sgOp d == 0xA) && sgB d 2 == k
  let sigmoid := (stages p).any fun d => sgOp d == 9 && sgB d 2 == 1
  let emitNorm := (stages p).any fun d => sgOp d == 0xB && sgFlag d
  [ (match orderBad 0 0 (stages p) with
     | some i => (true, 1, i, 64 + 32 * i)
     | none => (false, 1, 0, 0)),
    b (((stages p).countP fun d => sgOp d == 2 && sgB d 2 == 0) != 1),
    b (decide (1 < countOp p 3) || decide (1 < countOp p 8)),
    b ((loadedKinds p).any fun k => decide (1 < (loadedKinds p).countP (· == k)) || !named k),
    b (((stages p).foldl (fun acc d => if sgOp d = 0xA then acc + sgB d 4 else acc) 0) != pOutDim p),
    b (sigmoid && emitNorm) ]

/-- The checks of curve table `j` (R162). -/
def badCurve (p : Bytes) (j : Nat) : List (Bool × Nat × Nat × Nat) :=
  let base := pCurveOff p + j * 4160
  [ (!isFin32 (f32At p base), 2, j, base),
    (!isFin32 (f32At p (base + 4)) || !flt 0 (f32At p (base + 4)), 2, j, base + 4) ] ++ zeroBytes p 2 j (base + 8) 8 ++
  eachBad 2 j (base + 16) 4 1024 fun i => !isFin32 (f32At p (base + 16 + 4 * i))

/-- The checks of position table `j` (R163). -/
def badPos (p : Bytes) (j : Nat) : List (Bool × Nat × Nat × Nat) :=
  let base := posBase p j
  [ (decide (posCount p j < 1) || decide (512 < posCount p j), 3, j, base),
    (decide (1 < rd p (base + 2) 1), 3, j, base + 2) ] ++ zeroBytes p 3 j (base + 3) 13 ++
  eachBad 3 j (base + 16) 4 (min 512 (posCount p j)) fun i => !isFin32 (posFreq p j i)

/-- The checks of pattern state `i` (R157, Table 7.8). -/
def badState (p : Bytes) (i : Nat) : List (Bool × Nat × Nat × Nat) :=
  let d := patAt p i
  let base := pPatternOff p + 16 * i
  let b := fun (c : Bool) (o : Nat) => (c, 4, i, base + o)
  let span := patOp d != 0
  [ b (decide (2 < patOp d) || decide (2 < patMask d)) 0,
    b (patMask d != 0 && (countOp p 8 == 0 || !span)) 0,
    b (if span then decide (11 < patStart d) || decide (11 < patEnd d) else rd d 1 1 != 0) 1,
    b (decide (63 < patNext d) || (span && decide (pStates p ≤ patNext d))) 2,
    b (if patOp d = 2 then decide (patBlk d < 4) || decide (12 < patBlk d) || decide (6 < patMap d) ||
        patMap d % 2 != 0 || bitAt (rd d 3 1) 7 else rd d 3 1 != 0) 3,
    b (!span && !zeroAt d 4 4) 4,
    b (!span && !zeroAt d 8 4) 8,
    b (if patMask d = 2 then decide (patWidth d < 1) || decide (16777216 < patWidth d) else patWidth d != 0) 12 ]

/-- The pattern machine has no cycle (R157). -/
def badCycle (p : Bytes) : List (Bool × Nat × Nat × Nat) :=
  (List.range (pStates p)).map fun i => (patReaches p i 64 i, 4, i, pPatternOff p + 16 * i + 2)

/-- The checks of format-table entry `k` (R165). -/
def badFormat (p : Bytes) (k : Nat) : List (Bool × Nat × Nat × Nat) :=
  let base := fmtBase p k
  let b := fun (c : Bool) (o : Nat) => (c, 5, 0xFF, base + o)
  let f := ftFmt p k
  let used := fun (h : Nat) => decide (h < pKvHeads p)
  if pLayout p = 1 ∧ k = 1 then zeroBytes p 5 0xFF base 640
  else
  [ b (decide (f < 1) || decide (0x0E < f)) 0,
    b (decide (2 < ftGroup p k) || (!fmtYq f && ftGroup p k != 0)) 1 ] ++ zeroBytes p 5 0xFF (base + 2) 2 ++
  zeroBytes p 5 0xFF (base + 8) 8 ++
  eachBad 5 0xFF (base + 16) 4 64 (fun h =>
    !(if used h && fmtHead f then isFin32 (ftS p k h) && flt 0 (ftS p k h) else used h || ftS p k h == 0)) ++
  eachBad 5 0xFF (base + 272) 1 64 (fun h => !(if used h then !(f == 8 && decide (15 < ftZ p k h)) else ftZ p k h == 0)) ++
  eachBad 5 0xFF (base + 336) 4 64 (fun h =>
    !(if used h && fmtYq f then isFin32 (ftS2 p k h) && flt 0 (ftS2 p k h) else used h || ftS2 p k h == 0)) ++
  zeroBytes p 5 0xFF (base + 592) 48

/-- The tables of an image (R156): the header field that places each, its start and its length. -/
def imageTables (p : Bytes) : List (Nat × Nat × Nat) :=
  (List.range (pCurves p)).map (fun j => (14, pCurveOff p + j * 4160, 4112)) ++
  (List.range (pPosTables p)).map (fun j => (16, posBase p j, 16 + 4 * posCount p j)) ++
  [(18, pPatternOff p, 16 * pStates p), (20, pFormatOff p, 1280)] ++
  (if pGainOff p = 0 then [] else [(22, pGainOff p, 64 * pDimK p * (if pGainPerHead p then pKvHeads p else 1))]) ++
  (if pHeadOff p = 0 then [] else [(24, pHeadOff p, 1024)])

/-- Two spans are disjoint. -/
def spansApart (a b : Nat × Nat) : Bool := decide (a.1 + a.2 ≤ b.1) || decide (b.1 + b.2 ≤ a.1)

/-- The placing of tables (R156): within IMAGE_LEN, and apart from the header, the stage table and the tables before. -/
def badPlaces (p : Bytes) (before : List (Nat × Nat)) : List (Nat × Nat × Nat) → List (Bool × Nat × Nat × Nat)
  | [] => []
  | (o, x) :: rest => (decide (pLen p < x.1 + x.2) || before.any (fun y => !spansApart x y), 8, 0xFF, o) ::
      badPlaces p (x :: before) rest

/-- The checks of the gain vectors, the head vector and the placing of tables (R156, R164, R166). -/
def badRest (p : Bytes) : List (Bool × Nat × Nat × Nat) :=
  let gains := 16 * pDimK p * (if pGainPerHead p then pKvHeads p else 1)
  (if pGainOff p = 0 then [] else eachBad 6 0xFF (pGainOff p) 4 gains fun i => !isFin32 (f32At p (pGainOff p + 4 * i))) ++
  (if pHeadOff p = 0 then [] else eachBad 7 0xFF (pHeadOff p) 4 256 fun i => !isFin32 (f32At p (pHeadOff p + 4 * i))) ++
  badPlaces p [(0, 64), (64, 32 * pStages p)] (imageTables p)

/-- PROGRAM_INSTALL's validation (R157): the first offending object in the order of Table 19.8's OBJECT codes (log 43), or none for a valid
image. -/
def programBad (p : Bytes) : Option (Nat × Nat × Nat) :=
  match firstBad (badHeader p) with
  | some x => some x
  | none =>
    firstBad ((List.range (pStages p)).flatMap (badStage p) ++ badOrder p ++
      (List.range (pCurves p)).flatMap (badCurve p) ++ (List.range (pPosTables p)).flatMap (badPos p) ++
      (List.range (pStates p)).flatMap (badState p) ++ badCycle p ++ badFormat p 0 ++ badFormat p 1 ++ badRest p)

/-- The shape check of R172 against a format descriptor: true when it fails. -/
def shapeBad (p d : Bytes) : Bool :=
  pLayout p != dLayout d || pKvHeads p != dKvHeads d || pQHeads p != dQHeads d ||
  pDimK p != dDimK d || pDimV p != dDimV d || pDimR p != dDimR d ||
  ftFmt p 0 != dKFmt d || (!dLatent d && ftFmt p 1 != dVFmt d) ||
  ftGroup p 0 != (if fmtYq (dKFmt d) then dGroup d else 0) ||
  (!dLatent d && ftGroup p 1 != (if fmtYq (dVFmt d) then dGroup d else 0))

/-- The mode of the DEQUANT stage of a pass. -/
def dequantMode (p : Bytes) (pass : Nat) : Nat :=
  (((stages p).find? fun d => sgOp d == 2 && sgB d 2 == pass).map (sgB · 3)).getD 4

/-- Table 6.6: mode `m` is permitted for stored format `f` (06 R143). -/
def modeOk (f m : Nat) : Bool :=
  m == 4 ||
  (if f = 5 ∨ f = 6 ∨ f = 0xD ∨ f = 0xC then m == 0
   else if f = 7 ∨ f = 8 ∨ f = 0xE then m == 0 || m == 1
   else if f = 3 ∨ f = 4 ∨ f = 9 ∨ f = 0xA then m == 2
   else if f = 0xB then m == 2 || m == 3
   else false)

/-- The modes of a program's two passes suit a sequence (06 R143; in the latent layout both passes take K_FMT). -/
def modesOk (p d : Bytes) : Bool :=
  modeOk (dKFmt d) (dequantMode p 0) && modeOk (if dLatent d then dKFmt d else dVFmt d) (dequantMode p 1)

/-! ## Running the pattern machine (07 R167-R171) -/

/-- What a request fixes for its pattern: C, E, NQ, the parameters, the parents and whether it carries them. -/
structure PatCtx where
  c : Nat
  e : Nat
  nq : Nat
  params : List Nat
  parents : Option Nat
  lo : Nat
  hi : Nat
  deriving DecidableEq, Repr

/-- q0 = E - NQ (R167). -/
def q0 (x : PatCtx) : Int := (x.e : Int) - (x.nq : Int)

/-- PARENT entry `i`. -/
def parentAt (v i : Nat) : Nat := bits v (4 * i + 3) (4 * i)

/-- depth(i) (R167). A parent vector in which a parent does not stand below its child is given no outcome: it is accepted, and the walk up ends
after `fuel` ancestors (DESIGN CHOICE, log 99). -/
def depthOf (v : Nat) : Nat → Nat → Nat
  | 0, _ => 0
  | fuel + 1, i => if parentAt v i = 0xF then 0 else depthOf v fuel (parentAt v i) + 1

/-- `j` is `i` or an ancestor of `i`. -/
def isAncestor (v j : Nat) : Nat → Nat → Bool
  | 0, _ => false
  | fuel + 1, i => if j = i then true else if parentAt v i = 0xF then false else isAncestor v j fuel (parentAt v i)

/-- The position q_i of query token `i` (R167). -/
def qPos (x : PatCtx) (i : Nat) : Int :=
  match x.parents with
  | none => q0 x + i
  | some v => q0 x + depthOf v 16 i

/-- k_pos of storage position `k` (R167). -/
def kPos (x : PatCtx) (k : Nat) : Int :=
  match x.parents with
  | none => k
  | some v => if (k : Int) < q0 x then k else q0 x + depthOf v 16 ((k : Int) - q0 x).toNat

/-- A span that a state yields: [a, b) and the state, with the blocks it selects. -/
structure Span where
  a : Nat
  b : Nat
  mask : Nat
  width : Nat
  blk : Option (Nat × Nat)
  deriving DecidableEq, Repr

/-- The base that a code names (Table 7.8). -/
def patBase (x : PatCtx) (code : Nat) : Int :=
  match code with
  | 0 => 0
  | 1 => x.c
  | 2 => x.e
  | 3 => q0 x
  | n => ((x.params[n - 4]?).getD 0 : Nat)

/-- Clip to [0, E). -/
def clipTo (e : Nat) (v : Int) : Nat := if v < 0 then 0 else min e v.toNat

/-- The span of one state (R169). -/
def spanOf (x : PatCtx) (d : Bytes) : Span :=
  let m := fun i => (x.params[i]?).getD 0
  { a := clipTo x.e (patBase x (patStart d) + patStartOff d)
    b := clipTo x.e (patBase x (patEnd d) + patEndOff d)
    mask := patMask d
    width := patWidth d
    blk := if patOp d = 2 then some (patBlk d, m (patMap d) + m (patMap d + 1) * 2 ^ 32) else none }

/-- The spans from state `i`. -/
def runPattern (p : Bytes) (x : PatCtx) : Nat → Nat → List Span
  | 0, _ => []
  | fuel + 1, i =>
    let d := patAt p i
    if patOp d = 0 then [] else spanOf x d :: runPattern p x fuel (patNext d)

/-- A span yields token `k` (R169). -/
def yields (sp : Span) (k : Nat) : Bool :=
  decide (sp.a ≤ k) && decide (k < sp.b) &&
    (match sp.blk with
     | none => true
     | some (lg, map) => decide ((k - sp.a) / 2 ^ lg < 64) && bitAt map ((k - sp.a) / 2 ^ lg))

/-- The request reads token `k`: some span yields it within its range (R169, 08 R182). -/
def readsToken (x : PatCtx) (sps : List Span) (k : Nat) : Bool :=
  decide (x.lo ≤ k) && decide (k < x.hi) && sps.any (yields · k)

/-- Token `k` is visible to query token `i` by one span (R170). -/
def spanShows (x : PatCtx) (i k : Nat) (sp : Span) : Bool :=
  yields sp k &&
    (match sp.mask with
     | 0 => true
     | 1 => decide (kPos x k ≤ qPos x i)
     | _ => decide (qPos x i - (sp.width : Int) < kPos x k) && decide (kPos x k ≤ qPos x i))

/-- Token `k`, which the request reads, is visible to query token `i` (R170, R171). `hasMask` and `tree` say whether the program has
a MASK stage and whether it has TREE set. -/
def visible (x : PatCtx) (sps : List Span) (hasMask tree : Bool) (i k : Nat) : Bool :=
  if tree && decide (q0 x ≤ (k : Int)) then
    let j := ((k : Int) - q0 x).toNat
    match x.parents with
    | some v => isAncestor v j 17 i
    | none => decide (j ≤ i)
  else if hasMask then sps.any (spanShows x i k)
  else true

/-- The program's MASK stage: present, and with TREE set. -/
def maskOf (p : Bytes) : Bool × Bool :=
  match (stages p).find? fun d => sgOp d == 8 with
  | none => (false, false)
  | some d => (true, sgFlag d)

end Sys2Proof.Machine
end

