-- ==== Sys2Proof/Machine/Attention.lean ====
section
/-! DEFINITION. The arithmetic of a tile (06 R142-R150, 07 R160, R161) and of merging partials (08 R188-R190). -/

namespace Sys2Proof.Machine

/-! ## Stored elements -/

/-- The bits of element `i` of token `t` of head `h` of a data page of kind `k` (06 R133, R136). -/
def elemAt (d : Bytes) (k : Nat) (page : Bytes) (h t i : Nat) : Nat :=
  let f := dFmt d k
  let b := (h * dTokens d + t) * dDim d k + i
  match fmtBits f with
  | 16 => rd page (2 * b) 2
  | 8 => rd page b 1
  | _ => if b % 2 = 0 then rd page (b / 2) 1 % 16 else rd page (b / 2) 1 / 16

/-- An integer as an exact value. -/
def extInt (i : Int) : Ext := .fin (decide (i < 0)) i.natAbs 0

/-- The exact value of a stored element in its lane (06 R134, R144), with zero point `z`. -/
def laneVal (f z b : Nat) : Ext :=
  match f with
  | 0x01 => ofNarrow fmtBf16 b
  | 0x02 => ofNarrow fmtFp16 b
  | 0x03 => ofNarrow fmtE4m3 b
  | 0x04 => ofNarrow fmtE5m2 b
  | 0x05 => extInt (signed 8 b)
  | 0x06 => extInt ((b : Int) - z)
  | 0x07 => extInt (signed 4 b)
  | 0x08 => extInt ((b : Int) - z)
  | 0x09 => ofNarrow fmtE4m3 b
  | 0x0A => ofNarrow fmtE5m2 b
  | 0x0B => ofNarrow fmtE2m1 b
  | 0x0C => extInt (signed 8 b)
  | 0x0D => extInt (signed 8 b)
  | _ => extInt (signed 4 b)

/-- What a lane reads of one tensor page: the descriptor, the kind, the page, its scale page, and the tensor-head parameters of
each head of the page. -/
structure PageView where
  d : Bytes
  k : Nat
  page : Bytes
  scales : Bytes
  params : List HeadParam
  group : Nat

/-- The tensor-head parameters of head `h` of the page. -/
def viewParam (v : PageView) (h : Nat) : HeadParam := (v.params[v.group * dHeadsPerPage v.d + h]?).getD ⟨0x3F800000, 0⟩

/-- The group scale c of group γ of token `t` of head `h` (06 R146), with the overflow of its product. -/
def groupScaleAcc (v : PageView) (h t γ : Nat) : Acc :=
  let f := dFmt v.d v.k
  if fmtYq f then
    (if dStreamed v.d then ⟨toF32 (ofNarrow fmtFp16 (rd v.scales (streamOff v.d v.k h t γ) 2)), 0⟩
     else accMul ⟨f32At v.page (s2Off v.d v.k h), 0⟩ ⟨toF32 (ofNarrow fmtE4m3 (rd v.page (scaleOff v.d v.k h t γ) 1)), 0⟩)
  else if fmtMx f then
    (let e := ofE8m0 (rd v.page (scaleOff v.d v.k h t γ) 1)
     if f = 0x0C then ⟨toF32 (mulExt e (.fin false 1 (-6))), 0⟩ else ⟨toF32 e, 0⟩)
  else if fmtHead f then ⟨(viewParam v h).s, 0⟩
  else ⟨0x3F800000, 0⟩

/-- The group scale c of group γ of token `t` of head `h` (06 R146). -/
def groupScale (v : PageView) (h t γ : Nat) : F32 := (groupScaleAcc v h t γ).v

/-- The lane value of element `i` of token `t` of head `h`. -/
def viewElem (v : PageView) (h t i : Nat) : Ext :=
  laneVal (dFmt v.d v.k) (viewParam v h).z (elemAt v.d v.k v.page h t i)

/-! ## Operand conversion (06 Table 6.7) -/

/-- The largest magnitude of a list, an infinity among it; NaN left out (06 R139, R145). -/
def groupMax (l : List F32) : F32 := l.foldl (fun a x => if !isNan32 x && flt a (fabs x) then fabs x else a) 0

/-- The largest magnitude of the finite values of a list: a of R145 for probabilities. -/
def maxAbs (l : List F32) : F32 := l.foldl (fun a x => if isFin32 x && flt a (fabs x) then fabs x else a) 0

/-- An exact integer, a quotient rounded to nearest and clamped to ±q; a NaN or an infinity is carried as itself. -/
def clampInt (q : Nat) (x : F32) : Ext :=
  match roundInt (ofF32 x) with
  | some i => extInt (max (-(q : Int)) (min q i))
  | none => ofF32 x

/-- The quotient of R145. A finite operand whose quotient is infinite (σ rounded to zero) counts as a finite value beyond the largest, as
R139 says of the same quotient, and ±Qmax is what the clamp leaves of it. DEDUCED, log 40. -/
def operandQuot (top x σ : F32) : F32 :=
  let r := fdiv x σ
  if isFin32 x && isInf32 r then (if flt r 0 then fneg top else top) else r

/-- The value a narrow format keeps of `x`, or the flag the lane carries. -/
def viaNarrow (f : NarrowFmt) (x : Ext) : Ext :=
  let r := toNarrow f x
  match r.flag with
  | some e => e
  | none => ofNarrow f r.bits

/-- Convert a group of operand values in a mode (06 Table 6.7) with the group's magnitude `a` (R145): the operand scale σ and the lane values.
B16 has σ = 1.0 and rounds to BF16. -/
def convertGroup (mode : Nat) (a : F32) (qs : List F32) : F32 × List Ext :=
  if mode = 4 then (0x3F800000, qs.map fun q => viaNarrow fmtBf16 (ofF32 q))
  else if a = 0 then (0x3F800000, qs.map fun q => if isFin32 q then extInt 0 else ofF32 q)
  else
    match mode with
    | 0 => let σ := fdiv a 0x42FE0000; (σ, qs.map fun q => clampInt 127 (operandQuot 0x42FE0000 q σ))
    | 1 => let σ := fdiv a 0x40E00000; (σ, qs.map fun q => clampInt 7 (operandQuot 0x40E00000 q σ))
    | 2 => let σ := fdiv a 0x43E00000; (σ, qs.map fun q => viaNarrow fmtE4m3 (ofF32 (operandQuot 0x43E00000 q σ)))
    | _ => let σ := fdiv a 0x40C00000; (σ, qs.map fun q => viaNarrow fmtE2m1 (ofF32 (operandQuot 0x40C00000 q σ)))

/-- A query row: the element bits, the element format (0 BF16, 1 E4M3, 2 E5M2), its scale, and the FP32 row after ROTARY when the
program has one. -/
structure QRow where
  elems : List Nat
  fmt : Nat
  scale : F32
  rotated : Option (List F32)
  deriving DecidableEq, Repr

/-- The exact value of a query element before its scale. -/
def qRaw (q : QRow) (i : Nat) : Ext :=
  let b := (q.elems[i]?).getD 0
  match q.fmt with
  | 0 => ofNarrow fmtBf16 b
  | 1 => ofNarrow fmtE4m3 b
  | _ => ofNarrow fmtE5m2 b

/-- The query value q of R145: the BF16 element, or the FP8 element times its scale, rounded to FP32. -/
def qVal (q : QRow) (i : Nat) : F32 :=
  match q.rotated with
  | some l => (l[i]?).getD 0
  | none => if q.fmt = 0 then toF32 (qRaw q i) else toF32 (mulExt (qRaw q i) (ofF32 q.scale))

/-- Table 6.7 passes the elements of a query in a mode: an E4M3 query in F8, every query that was not rotated in B16. -/
def queryPasses (mode : Nat) (q : QRow) : Bool := q.rotated.isNone && (decide (mode = 4) || decide (mode = 2) && decide (q.fmt = 1))

/-- Convert the query elements `is` as one group (06 R145), `a` being max |q| over the whole group: σ 1.0 and every element 0 when it is 0, unchanged
where Table 6.7 passes them, else by `convertGroup`. -/
def convertQuery (mode : Nat) (q : QRow) (is : List Nat) : F32 × List Ext :=
  let qs := is.map (qVal q)
  let a := groupMax qs
  if queryPasses mode q then
    if a = 0 then (0x3F800000, is.map fun _ => extInt 0)
    else (if q.fmt = 0 then 0x3F800000 else q.scale, is.map (qRaw q))
  else convertGroup mode a qs

/-- One rotated pair (04 R101): cos and sin within 1 ulp of the exact product position times frequency (log 6). -/
def rotateAccs (pos : Int) (f a b : F32) : Acc × Acc :=
  let c := (⟨Config.cosRaw pos f, 0⟩ : Acc)
  let sn := (⟨Config.sinRaw pos f, 0⟩ : Acc)
  let bs := accMul ⟨b, 0⟩ sn
  (accFma ⟨a, 0⟩ c ⟨fneg bs.v, bs.ovf⟩, accFma ⟨a, 0⟩ sn (accMul ⟨b, 0⟩ c))

/-- The values of a rotated pair. -/
def rotateVals (pos : Int) (f a b : F32) : F32 × F32 := ((rotateAccs pos f a b).1.v, (rotateAccs pos f a b).2.v)

/-- A row with the rotary range of `start` and `count` rotated at position `pos` by position table `j` (04 R101, 07 R163). Elements below `low`
are not rotated. -/
def rotateRow (p : Bytes) (j start count low : Nat) (pos : Int) (row : List F32) : List F32 :=
  (List.range (count * 8)).foldl (fun r i =>
    let (ia, ib) := rotPair (posSplit p j) start count i
    let (a, b) := rotateVals pos (posFreq p j i) ((r[ia]?).getD 0) ((r[ib]?).getD 0)
    if ia < low ∨ ib < low then r else (r.set ia a).set ib b) row

/-- The overflows of a row's rotation (06 R148); the pairs share no element. -/
def rotateOvf (p : Bytes) (j start count : Nat) (pos : Int) (row : List F32) : Nat :=
  (List.range (count * 8)).foldl (fun n i =>
    let (ia, ib) := rotPair (posSplit p j) start count i
    let x := rotateAccs pos (posFreq p j i) ((row[ia]?).getD 0) ((row[ib]?).getD 0)
    n + x.1.ovf + x.2.ovf) 0

/-- The first element that rotary encoding acts on at append (07 R164): the key, or the rotary part of a latent row. -/
def rotLow (p : Bytes) : Nat := if pLayout p = 1 then pDimK p * 16 else 0

/-- The ROTARY stage on a query row at position `pos` (07 R161): every element becomes an FP32 value; unchanged without the stage. -/
def rotateQuery (p : Bytes) (pos : Int) (q : QRow) : QRow :=
  match (stages p).find? fun d => sgOp d == 3 with
  | none => q
  | some d =>
    { q with rotated := some (rotateRow p (sgB d 2) (sgB d 3) (sgB d 4) 0 pos ((List.range q.elems.length).map (qVal q))) }

/-- The overflows of a query row's own FP32 results (R148): the FP8 elements times their scale, where the program needs those products, and the
rotation. The conversion is made once per request (R145). -/
def queryOvf (p : Bytes) (pos : Int) (q : QRow) : Nat :=
  let is := List.range q.elems.length
  let prod := if q.fmt = 0 then 0 else is.countP fun i => isFin32 (toF32 (qRaw q i)) && isFin32 q.scale && isInf32 (qVal q i)
  match (stages p).find? fun d => sgOp d == 3 with
  | none => if queryPasses (dequantMode p 0) q then 0 else prod
  | some d => prod + rotateOvf p (sgB d 2) (sgB d 3) (sgB d 4) pos (is.map (qVal q))

/-! ## Group sums (06 R146) -/

/-- The exact sum of exact products (06 R146, R148): NaN from a NaN or both infinities. -/
def exactSum (l : List Ext) : Ext := l.foldl addExt (.fin false 0 0)

/-- One level of the pairwise tree. -/
def treeLevel : List Acc → List Acc
  | a :: b :: rest => accAdd a b :: treeLevel rest
  | l => l

/-- The fixed pairwise tree of B16 mode. -/
def treeSum : Nat → List Acc → Acc
  | 0, l => (l.head?).getD ⟨0, 0⟩
  | n + 1, l => match l with
    | [] => ⟨0, 0⟩
    | [x] => x
    | l => treeSum n (treeLevel l)

/-- The group sum G: an exact sum rounded once, or in B16 mode the rounded products in the pairwise tree (06 R146). Each rounding that
overflows counts (R148; DEDUCED, log 41). -/
def groupSum (mode : Nat) (products : List Ext) : Acc :=
  if mode = 4 then treeSum 8 (products.map accRound) else accRound (exactSum products)

/-! ## The check of a tile (06 R151) -/

/-- A residue modulo 127. -/
def residue (x : Int) : Nat := (x % 127).toNat

/-- The narrow path: the residue of a group sum, from the residues of its operands. -/
def narrowSum (l : List (Int × Int)) : Nat := residue ((l.map fun p => ((residue p.1 * residue p.2 : Nat) : Int)).sum)

/-- The group sum that the adder produced agrees with the narrow path. -/
def sumPasses (l : List (Int × Int)) (produced : Int) : Bool := residue produced == narrowSum l

/-- The check finds a fault in a pass of mode `mode`. A residue finds every fault whose residue is not 0 (`sumPasses_off`): of the group sum in I8, I4,
F8 and F4 modes, of the significand products in B16 mode, of a multiply-add. In B16 mode the duplicate tree recomputes one group in 16; which one the
rotation begins with is not given, and the model takes the cell's groups whose number is a multiple of 16. DESIGN CHOICE, log 83. -/
def faultFound (mode : Nat) (x : CellFault) : Bool :=
  match x with
  | .groupSum d => decide (mode ≠ 4) && residue d != 0
  | .significand d => decide (mode = 4) && residue d != 0
  | .tree n d => decide (mode = 4) && n % 16 == 0 && d != 0
  | .mulAdd d => residue d != 0

/-- The fault is one of the pass's mode. -/
def faultReal (mode : Nat) (x : CellFault) : Bool :=
  match x with
  | .groupSum d => decide (mode ≠ 4) && d != 0
  | .significand d => decide (mode = 4) && d != 0
  | .tree _ d => decide (mode = 4) && d != 0
  | .mulAdd d => d != 0

/-! ## Scores -/

/-- Reduction group length of a kind for the score pass: r for YQ and MX, 32 for other formats (06 R145). -/
def redGroup (d : Bytes) (k : Nat) : Nat := if fmtYq (dFmt d k) || fmtMx (dFmt d k) then dR d k else 32

/-- Scale group of element `e` of a row: the group of YQ and MX formats; the single scale of others (06 R147). -/
def scaleGroup (d : Bytes) (k e : Nat) : Nat := if fmtYq (dFmt d k) || fmtMx (dFmt d k) then e / dR d k else 0

/-- One SCORE_DOT (06 R146, 07 Table 7.4) of a query row with token `t` of head `h`. -/
def scoreDot (mode : Nat) (q : QRow) (v : PageView) (h t qStart kStart n : Nat) (init : Acc) : Acc :=
  let r := redGroup v.d v.k
  let k0 := kStart * 16
  let k1 := k0 + n * 16
  (List.range (dDim v.d v.k / r + 1)).foldl (fun acc γ =>
    let covered := (List.range r).map fun j => γ * r + j
    let mine := covered.filter fun e => decide (k0 ≤ e) && decide (e < k1)
    if mine.isEmpty then acc
    else
      let (σ, xs) := convertQuery mode q (mine.map fun e => e - k0 + qStart * 16)
      let base := (mine.head?).getD 0
      let products := covered.map fun e =>
        if decide (k0 ≤ e) && decide (e < k1) then mulExt ((xs[e - base]?).getD (.fin false 0 0)) (viewElem v h t e)
        else .fin false 0 0
      accFma (groupSum mode products) (accMul ⟨σ, 0⟩ (groupScaleAcc v h t (scaleGroup v.d v.k (γ * r)))) acc) init

/-- The constant F of SCALE and BIAS (07 Table 7.4). -/
def stageFactor (p sg : Bytes) (head : Nat) : Acc :=
  if sgFlag sg then accMul ⟨f32At sg 4, 0⟩ ⟨pHeadVec p head, 0⟩ else ⟨f32At sg 4, 0⟩

/-- One score stage for one row and token. `views` gives the page view of a kind. -/
def scoreStage (p : Bytes) (mode : Nat) (views : Nat → PageView) (q : QRow) (head kvh t : Nat) (delta : Int)
    (acc : Acc) (sg : Bytes) : Acc :=
  match sgOp sg with
  | 0x04 => scoreDot mode q (views (sgB sg 2)) kvh t (sgB sg 3) (sgB sg 4) (sgB sg 5)
      (if sgFlag sg then acc else ⟨0, acc.ovf⟩)
  | 0x05 => accMul acc (stageFactor p sg head)
  | 0x06 => accFma (stageFactor p sg head) ⟨intToF32 delta, 0⟩ acc
  | 0x07 => accMul (curveEval p (sgB sg 2) (accMul ⟨f32At sg 8, 0⟩ acc)) ⟨f32At sg 12, 0⟩
  | _ => acc

/-- The score of one row and token: the score stages in order (07 R159, R160). -/
def scoreOf (p : Bytes) (views : Nat → PageView) (q : QRow) (head kvh t : Nat) (delta : Int) : Acc :=
  ((stages p).filter fun d => decide (4 ≤ sgOp d) && decide (sgOp d ≤ 7)).foldl
    (scoreStage p (dequantMode p 0) views q head kvh t delta) ⟨0, 0⟩

/-! ## Partials -/

/-- A partial (08 R188): m, l, the output vector, the token count and the flags DEGRADED and PROVISIONAL_INCLUDED. -/
structure Partial where
  m : F32
  l : F32
  o : List F32
  count : Nat
  degraded : Bool := false
  provisional : Bool := false
  deriving DecidableEq, Repr

/-- The empty partial of width `n`. -/
def emptyPartial (n : Nat) : Partial := { m := 0xFF800000, l := 0, o := List.replicate n 0, count := 0 }

/-- The fold of 08 R188: partial `b` into `a`. -/
def foldPartial (a b : Partial) : Partial :=
  if b.count = 0 then { a with degraded := a.degraded || b.degraded, provisional := a.provisional || b.provisional }
  else if a.count = 0 then { b with degraded := a.degraded || b.degraded, provisional := a.provisional || b.provisional }
  else
    let m := fmax a.m b.m
    let ea := if m == 0xFF800000 then 0x3F800000 else exp2F (fsub a.m m)
    let eb := if m == 0xFF800000 then 0x3F800000 else exp2F (fsub b.m m)
    { m := m
      l := ffma b.l eb (fmul a.l ea)
      o := List.zipWith (fun x y => ffma y eb (fmul x ea)) a.o b.o
      count := a.count + b.count
      degraded := a.degraded || b.degraded
      provisional := a.provisional || b.provisional }

/-- The overflows of a difference of two scores (06 R148). -/
def subOvf (x m : F32) : Nat := ovfOf [x, m] (fsub x m)

/-- The overflows of a fold's differences, l and o (06 R148). -/
def foldOvf (a b : Partial) : Nat :=
  if a.count = 0 ∨ b.count = 0 then 0
  else
    let m := fmax a.m b.m
    (if m == 0xFF800000 then 0 else subOvf a.m m + subOvf b.m m) +
    let ea := (⟨if m == 0xFF800000 then 0x3F800000 else exp2F (fsub a.m m), 0⟩ : Acc)
    let eb := (⟨if m == 0xFF800000 then 0x3F800000 else exp2F (fsub b.m m), 0⟩ : Acc)
    let one := fun (x y : F32) => (accFma ⟨y, 0⟩ eb (accMul ⟨x, 0⟩ ea)).ovf
    (one a.l b.l + (List.zipWith one a.o b.o).foldl (· + ·) 0)

/-- The counters a tile adds to its context (07 Table 7.4): SCORE_CLAMPED, SCORE_NAN, ACC_OVERFLOW. -/
structure TileCounts where
  clamped : Nat := 0
  nan : Nat := 0
  ovf : Nat := 0
  deriving DecidableEq, Repr

/-- The EXPMAX stage. -/
def expmaxStage (p : Bytes) : Bytes := ((stages p).find? fun d => sgOp d == 9).getD []

/-- EXPMAX over the visible tokens of a tile (07 Table 7.4): m_t and the probabilities, each with its overflows (R148); `scores` lists the visible
tokens' scores. -/
def expmax (p : Bytes) (scores : List F32) : F32 × List Acc :=
  let e := expmaxStage p
  if sgB e 2 = 1 then (0, scores.map fun x => if isNan32 x then ⟨nan32, 0⟩ else curveEval p (sgB e 3) ⟨x, 0⟩)
  else
    let cl := scores.map fun x => if x == 0x7F800000 then (0x7F7FFFFF : F32) else x
    let m := cl.foldl (fun m x => if isNan32 x then m else if flt m x then x else m) 0xFF800000
    (m, cl.map fun x =>
      if isNan32 x then ⟨nan32, 0⟩ else if m == 0xFF800000 then ⟨0, 0⟩ else ⟨exp2F (fsub x m), subOvf x m⟩)

/-- The output elements of one VALUE_ACC over elements `e0 … e0 + n - 1` (06 R147): per scale group γ the p′ of the tokens that take part
are converted once; an output is the group sum over the tile's token positions, times σ_p. `probs` gives, for each token position, the
probability or none where the token takes no part. -/
def valueStage (mode : Nat) (v : PageView) (h t0 : Nat) (probs : List (Option F32)) (e0 n : Nat) : List Acc :=
  let es := (List.range n).map (e0 + ·)
  let γs := ((List.range (scaleGroup v.d v.k (e0 + n) + 1)).filter fun γ => es.any fun e => scaleGroup v.d v.k e == γ)
  γs.flatMap fun γ =>
    let pp := probs.mapIdx fun i x => x.map fun y => accMul ⟨y, 0⟩ (groupScaleAcc v h (t0 + i) γ)
    let ovf := pp.foldl (fun a x => a + ((x.map (·.ovf)).getD 0)) 0
    let ps := (pp.filterMap id).map (·.v)
    let (σ, xs) := convertGroup mode (maxAbs ps) ps
    let ranks := (List.range pp.length).map fun i => ((pp.take i).filterMap id).length
    (es.filter fun e => scaleGroup v.d v.k e == γ).mapIdx fun j e =>
      let products := pp.mapIdx fun i x =>
        match x with
        | none => Ext.fin false 0 0
        | some _ => mulExt ((xs[(ranks[i]?).getD 0]?).getD (.fin false 0 0)) (viewElem v h (t0 + i) e)
      let r := accMul (groupSum mode products) ⟨σ, 0⟩
      ⟨r.v, r.ovf + (if j = 0 then ovf else 0)⟩

/-- The tile of one row (06 R132, R146, R147; 07 R161): tokens t0 … t0 + n - 1 of the page. `reads` and `shows` say which tokens
LOAD read and which the row sees; `delta` is k_pos - q_i. -/
def tileRow (p : Bytes) (views : Nat → PageView) (q : QRow) (head kvh t0 n : Nat) (reads shows : Nat → Bool)
    (delta : Nat → Int) : Partial × TileCounts :=
  let toks := List.range n
  let scored := toks.map fun i =>
    if reads (t0 + i) then some (scoreOf p views q head kvh (t0 + i) (delta (t0 + i))) else none
  let ovf1 := scored.foldl (fun a x => a + ((x.map (·.ovf)).getD 0)) 0
  let vis := toks.filterMap fun i =>
    match (scored[i]?).getD none with
    | some a => if shows (t0 + i) then some (i, a.v) else none
    | none => none
  let (m, es) := expmax p (vis.map (·.2))
  let ps := es.map (·.v)
  let outs := (stages p).filter fun d => sgOp d == 0xA
  let width := outs.foldl (fun a d => a + sgB d 4 * 16) 0
  if vis.isEmpty then (emptyPartial width, { ovf := ovf1 })
  else
    let probs := toks.map fun i =>
      match vis.findIdx? fun x => x.1 == i with
      | some j => ps[j]?
      | none => none
    let l := ps.foldl (fun a x => accAdd a ⟨x, 0⟩) ⟨0, 0⟩
    let mode := dequantMode p 1
    let os := outs.flatMap fun sg => valueStage mode (views (sgB sg 2)) kvh t0 probs (sgB sg 3 * 16) (sgB sg 4 * 16)
    let soft := sgB (expmaxStage p) 2 = 0
    ({ m := m, l := l.v, o := os.map (·.v), count := vis.length },
     { clamped := if soft then (vis.countP fun x => x.2 == 0x7F800000) else 0
       nan := vis.countP fun x => isNan32 x.2
       ovf := ovf1 + es.foldl (fun a x => a + x.ovf) 0 + l.ovf + os.foldl (fun a x => a + x.ovf) 0 })

/-! ## EMIT and the partial record (07 Table 7.4, 08 Table 8.4) -/

/-- log2 in FP32 within 1 ulp (07 R161): exact for powers of two, the silicon's elsewhere (log 6). -/
def log2F (x : F32) : F32 :=
  match ofF32 x with
  | .fin false m e => if m = 2 ^ Nat.log2 m then intToF32 ((Nat.log2 m : Nat) + e)
      else if m = 0 then 0xFF800000 else Config.log2Raw x
  | .fin true 0 _ => 0xFF800000
  | .inf false => 0x7F800000
  | _ => nan32

/-- The bytes of an output element: FP32, or BF16 where a finite value that overflows saturates (07 Table 7.4). -/
def outElem (fp32 : Bool) (x : F32) : Bytes :=
  if fp32 then leBytes 4 x.toNat else leBytes 2 (toNarrow fmtBf16 (ofF32 x)).bits

/-- COUNT of a record: 25 bits; what the field holds of a combiner's larger sum is not given (08 R196), and is free (log 55). -/
def countField (n : Nat) : Nat := if n < 2 ^ 25 then n else (Config.countOver n).toNat

/-- The partial record of one row (08 Table 8.4) as EMIT or a combiner forms it. -/
def recordOf (fp32 norm : Bool) (pgen i h : Nat) (a : Partial) : Bytes :=
  let zero := isZero32 a.l
  let empty := a.count = 0
  let m := if norm then (if empty ∨ zero = true then 0xFF800000 else fadd a.m (log2F a.l)) else a.m
  let l := if norm then (if empty then 0 else 0x3F800000) else a.l
  let o := if norm then (a.o.map fun x => if zero then 0 else fdiv x a.l) else a.o
  let flags := countField a.count + bitOf (decide (a.count = 0)) 25 + bitOf a.degraded 26 + bitOf a.provisional 27 +
    bitOf norm 28 + bitOf fp32 29
  leBytes 4 m.toNat ++ leBytes 4 l.toNat ++ leBytes 4 flags ++ leBytes 2 pgen ++ leBytes 1 i ++ leBytes 1 h ++
    o.flatMap (outElem fp32)

/-- The size of a record (08 R192) with `n` output elements. -/
def recordSize (fp32 : Bool) (n : Nat) : Nat := 16 + n * (if fp32 then 4 else 2)

/-- A partial read from a record with FP32 or BF16 output (08 R196: BF16 is widened exactly). A record with EMPTY 1 counts as empty whatever its COUNT.
DESIGN CHOICE, log 84. -/
def partialOf (fp32 : Bool) (n : Nat) (b : Bytes) : Partial :=
  let f := rd b 8 4
  { m := f32At b 0
    l := f32At b 4
    o := (List.range n).map fun j => if fp32 then f32At b (16 + 4 * j) else toF32 (ofNarrow fmtBf16 (rd b (16 + 2 * j) 2))
    count := if bitAt f 25 then 0 else bits f 24 0
    degraded := bitAt f 26
    provisional := bitAt f 27 }

/-- The EMIT stage: FP32 output, NORMALISED. -/
def emitOf (p : Bytes) : Bool × Bool :=
  match (stages p).find? fun d => sgOp d == 0xB with
  | none => (false, false)
  | some d => (sgB d 2 == 0, sgFlag d)

end Sys2Proof.Machine
end

