-- ==== Sys2Proof/Machine/StateReq.lean ====
section
/-! DEFINITION. The state of programs, requests, contexts and partial results. -/

namespace Sys2Proof.Machine

/-- State of a program slot (07 Table 7.9). -/
inductive ProgSt where
  | free | installed | draining
  deriving DecidableEq, Repr

/-- A program slot (07 R173). -/
structure Prog where
  st : ProgSt := .free
  tenant : Nat := 0
  gen : Nat := 0
  uses : Nat := 0
  digest : BitVec 256 := 0
  image : Bytes := []
  deriving DecidableEq, Repr

/-- A program install in progress (07 R174): the instance, the slot and the validated image. -/
structure Install where
  inst : Nat
  slot : Nat
  image : Bytes
  deriving DecidableEq, Repr

/-- The tuple that confirmation fixes and run-ahead predicts (08 R184). -/
structure Tuple where
  e : Nat
  c : Nat
  tail : Bool
  pgen : Nat
  deriving DecidableEq, Repr

/-- The pages of one (head group, page) pair in a lane's page buffer: the bytes of kinds 0-3, plain. -/
structure PageBuf where
  idx : Nat
  kinds : List Bytes
  deriving DecidableEq, Repr

/-- Where a lane stands: no context yet, running on a block, held, pre-empted, or finished. -/
inductive LaneSt where
  | waiting | running | saved | done
  deriving DecidableEq, Repr

/-- A pair whose read has begun (05 R117; 14 R310): its pages as the first line read found them, and the bytes still to read by channel. -/
structure PartRead where
  pages : List (Nat × Bytes)
  left : Tbl Nat
  deriving DecidableEq, Repr

/-- A lane of a request in a region (08 R185): its block, the pairs still to read, the next pair as far as it has been read and charged (14 R310),
the page buffer, whether its block is working on that page (06 R132), the tiles of that page still to fold (token offset, row set), the
cell that computes the first of them (06 R132) and whether it has been recomputed, the row partials so far (the accumulator memory and its
staging in stack SRAM, 06 Table 6.1; log 60), the context's counters, and when it was pre-empted. -/
structure Lane where
  st : LaneSt := .waiting
  block : Nat := 0
  pairs : List Nat := []
  part : Option PartRead := none
  buf : Option PageBuf := none
  begun : Bool := false
  tiles : List (Nat × Nat) := []
  cell : Option Nat := none
  retried : Bool := false
  rows : Tbl Partial := []
  counts : TileCounts := {}
  savedAt : Nat := 0
  deriving DecidableEq, Repr

/-- A request's part in one region: whether the confirmation has arrived, the blocks in service at confirmation and the pairs read here (08 R185; the
prediction's until then), whether confirmation keeps the run-ahead work, the bytes that work has read (08 R199), its lanes, and the
folded partial it sent. -/
structure ReqRgn where
  confirmed : Bool := false
  blocks : List Nat := []
  pairs : List Nat := []
  keep : Bool := false
  ahead : Nat := 0
  lanes : Tbl Lane := []
  sent : Option (Tbl Partial) := none
  deriving DecidableEq, Repr

/-- Where a request stands: checked and waiting for confirmation (held by a compaction or not), confirmed, or ended by a refusal or
an error whose completion is written. -/
inductive ReqSt where
  | checked | held | confirmed
  deriving DecidableEq, Repr

/-- An attention request (08). `tenant` and `tag` name its sequence, which check 4 looks up again at confirmation, and `freed` tells that the entry
found in `slot` has been freed since (03 R77; log 104). `rot` is the ROT_OFFSET its rows are rotated with (09 R205); `order` tells which was
confirmed last; `held` is when a lane of it last took a context, and `waited` that its waiting time has been accounted (14 R322). -/
structure Req where
  inst : Nat
  entry : Nat
  die : Nat
  tenant : Nat
  tag : Nat
  slot : Nat
  layer : Nat
  program : Nat
  stepTag : Nat
  nq : Nat
  rows : List QRow
  parents : Option Nat
  incTail : Bool
  lo : Nat
  hi : Nat
  rot : Nat := 0
  params : List Nat
  arrival : Nat
  deadline : Option Nat
  lc : Bool
  partn : Nat
  st : ReqSt := .checked
  tuple : Option Tuple := none
  predicted : Option Tuple := none
  discarded : Bool := false
  fallback : Bool := false
  bytesLeft : Nat := 0
  order : Nat := 0
  confirmedAt : Nat := 0
  held : Nat := 0
  waited : Bool := false
  freed : Bool := false
  rgns : Tbl ReqRgn := []
  deriving DecidableEq, Repr

end Sys2Proof.Machine
end

