-- ==== Sys2Proof/Machine/StateNet.lean ====
section
/-! DEFINITION. The state of the network dies: ports and PTP, outgoing messages and queues, duplicate filters and trackers,
windows, sluice entries, enables and instances (chapters 11, 12, 14). -/

namespace Sys2Proof.Machine

/-- Whose message it is: who is told when it is acknowledged, answered, refused or abandoned. -/
inductive Purpose where
  | quiet
  | record (entry : Nat)
  | result (entry : Nat)
  | forward (inst slot : Nat)
  | ctlForward (slot : Nat)
  | prepare (comp ballot node : Nat)
  | accept (comp ballot node : Nat)
  | commitTo (comp node : Nat)
  | probe (node seq : Nat)
  | mapRead (comp : Nat)
  | loadOpen (key : Nat)
  | loadData (key : Nat)
  | loadDone (key : Nat)
  deriving DecidableEq, Repr

/-- An unacknowledged packet: its attempt, when it was last sent, and on which path. -/
structure Flight where
  att : Nat
  at_ : Nat
  path : Nat
  deriving DecidableEq, Repr

/-- An outgoing message that waits for an acknowledgement or a response (11 R244, R261, R262): `unsent` lists packets never sent,
`flight` the unacknowledged ones, `resend` those of them that wait for the end of a back-off, `backoff` its end and its length in µs. -/
structure OutMsg where
  op : Nat
  dst : Nat
  addr : Option (BitVec 128) := none
  tenant : Nat := 0
  window : Nat := 0
  gen : Nat := 0
  offset : Nat := 0
  imm : Nat := 0
  epoch : Nat := 0
  data : Bytes := []
  time : Option Nat := none
  part : Option (Nat × Bool) := none
  notBefore : Nat := 0
  unsent : List Nat := []
  flight : Tbl Flight := []
  backoff : Option (Nat × Nat) := none
  resend : List Nat := []
  internal : Bool := false
  purpose : Purpose := .quiet
  deriving DecidableEq, Repr

/-- A packet built for sending (11 R239): its destination address, path, UDP ports, IPv6 flow label (none for IPv4), DSCP and ECN, DF
(for IPv4), whether the UDP checksum is computed, header, payload and tag. -/
structure Pkt where
  addr : BitVec 128
  path : Nat
  srcPort : BitVec 16 := 0xC000
  dstPort : BitVec 16 := 27256
  flow : Option (BitVec 20) := none
  dscp : BitVec 6 := 0
  ecn : BitVec 2 := 2
  df : Bool := false
  checksum : Bool := true
  hdr : JxHdr
  payload : Bytes
  tag : Option (BitVec 128)
  deriving DecidableEq, Repr

/-- A packet in a queue: when it joined, and whether it is a retransmission. -/
structure QPkt where
  pkt : Pkt
  since : Nat
  again : Bool
  deriving DecidableEq, Repr

/-- TRAFFIC_EQ of one egress queue and its packets (14 R319-R321), head first. -/
structure EgressQ where
  quantumM1 : Nat := 31
  burst : Nat := 64
  credit : Nat := 0
  pkts : List QPkt := []
  deriving DecidableEq, Repr

/-- A port's position in its rounds (14 R320): the partition last served in the round of each class (64 at its start), and the queue it visits. -/
structure PortRound where
  lastLc : Nat := 64
  lastBe : Nat := 64
  visit : Option Nat := none
  deriving DecidableEq, Repr

/-- State of a filter entry (11 R258). -/
inductive FiltSt where
  | open_ | complete | refused (status info : Nat)
  deriving DecidableEq, Repr

/-- A duplicate-filter entry (11 R258), keyed by endpoint · 2^32 + MSG_ID, with the message's tenant and the saved response. -/
structure Filt where
  st : FiltSt := .open_
  tenant : Nat := 0
  time : Nat
  taken : Nat
  resp : Option (Nat × Bytes) := none
  deriving DecidableEq, Repr

/-- A reassembly tracker (11 R256), keyed as the filter; `data` holds the payload of a message that is not windowed. -/
structure Tracker where
  op : Nat
  tenant : Nat
  window : Nat
  gen : Nat
  offset : Nat
  len : Nat
  imm : Nat
  time : Nat
  opened : Nat
  bits : List Nat := []
  count : Nat := 0
  yellow : Bool := false
  data : Bytes := []
  deriving DecidableEq, Repr

/-- Acknowledgements that wait to be sent to one endpoint (11 R260). -/
structure AckBuf where
  addr : BitVec 128
  path : Nat
  entries : List (Nat × Nat × Nat × Bool)
  ce : Bool
  since : Nat
  deriving DecidableEq, Repr

/-- The window W towards one endpoint (11 R262). -/
structure Cong where
  w : Nat := 4194304
  halved : Option Nat := none
  grown : Nat := 0
  deriving DecidableEq, Repr

/-- A path's time-outs in succession and the end of its cooling (11 R245). -/
structure PathSt where
  misses : Nat := 0
  cool : Option Nat := none
  deriving DecidableEq, Repr

/-- STATE of NET_PTP_STATUS (11 R271). -/
inductive PtpSt where
  | unlocked | locked | holdover
  deriving DecidableEq, Repr

/-- The PTP clock of a network die (11 R271). -/
structure Ptp where
  st : PtpSt := .unlocked
  offset : Int := 0
  lastSync : Nat := 0
  deriving DecidableEq, Repr

/-- The Jexus engines of the node. `control` holds the control queue of each port, `eq` the egress queues by number, `tx` the packet
each port sent last, `locked` that fabric time has once been LOCKED (R272), `stepped` that the servo has stepped it since the reset (18 R409). -/
structure Jx where
  portUp : BitVec 8 := 0
  ptp : Tbl Ptp := []
  locked : Bool := false
  stepped : Bool := false
  nextMsg : Tbl Nat := []
  out : Tbl OutMsg := []
  control : Tbl (List QPkt) := []
  eq : Tbl EgressQ := []
  round : Tbl PortRound := []
  tx : Tbl Pkt := []
  filter : Tbl Filt := []
  tracker : Tbl Tracker := []
  ack : Tbl AckBuf := []
  cong : Tbl Cong := []
  path : Tbl PathSt := []
  deriving DecidableEq, Repr

/-- STATE of a window descriptor (11 R251). -/
inductive WinSt where
  | free | active | draining
  deriving DecidableEq, Repr

/-- A window descriptor (11 Table 11.3) with its 64 KiB backing frames. `bumps` counts the times it has returned to FREE (R253);
`drainAt` is when DRAINING began, `reads` the delivered immediates whose actions have not read the bytes (R266), `revokers` the
instances that wait for FREE. -/
structure Window where
  st : WinSt := .free
  kind : Nat := 0
  tenant : Nat := 0
  bumps : Nat := 0
  length : Nat := 0
  frames : List Nat := []
  drainAt : Nat := 0
  reads : Nat := 0
  revokers : List Nat := []
  deriving DecidableEq, Repr

/-- State of a sluice entry (12 R288). -/
inductive EntrySt where
  | free | armed | draining
  deriving DecidableEq, Repr

/-- An open step of a combiner (08 R194, R195): its tag, the contributions filed by number, when the first was accepted, the message that opened it,
and the class of its work. -/
structure CombineStep where
  step : Nat
  slots : Tbl Bytes
  opened : Nat
  msgId : Nat
  lc : Bool
  deriving DecidableEq, Repr

/-- A sluice entry (12 R274-R288): state, posted bytes, uses left (0 with `limited` unset means no limit), the last SEQNO, the COMBINE
counters of SLUICE_READ, the open steps by parity (08 R194), and the tuple of the last request it confirmed (08 R184). -/
structure Entry where
  st : EntrySt := .free
  bytes : Bytes := []
  limited : Bool := false
  left : Nat := 0
  seqno : Nat := 0
  cMalformed : Nat := 0
  cGen : Nat := 0
  cDup : Nat := 0
  cTimeout : Nat := 0
  cStale : Nat := 0
  steps : Tbl CombineStep := []
  cancelMsgs : List Nat := []
  last : Option Tuple := none
  deriving DecidableEq, Repr

/-- The message that enabled an instance (12 R280): MSG_ID, source, window, generation, offset, length, DATUM_EPOCH, MSG_TIME,
source address. -/
structure EnMsg where
  id : Nat
  src : Nat
  window : Nat
  gen : Nat
  offset : Nat
  len : Nat
  epoch : Nat
  time : Nat
  addr : BitVec 128
  deriving DecidableEq, Repr

/-- An accepted enable (12 R283): entry, argument, message, acceptance time, and whether a meter demoted it (14 R318). -/
structure Enable where
  entry : Nat
  arg : Nat
  msg : Option EnMsg
  at_ : Nat
  lc : Bool
  deriving DecidableEq, Repr

/-- How an action of an instance stands: not started, started, under way, or ended with status, flags and RESULT. -/
inductive ActSt where
  | waiting | started | busy | done (status : Nat) (rep single : Bool) (result : Nat)
  deriving DecidableEq, Repr

/-- An instance (12 R283, R284; 20 R445). Entry 0x7FFF marks an ACTION of the firmware window, with its TAG. `bytes` is the chain as
posted. `dirResult` keeps a DIR_SEARCH result for the command ring. `fail` is the slot and status of the action that ends the instance (R284);
`confirmed` lists the sequences of its confirmed requests, whose IN_FLIGHT falls with the record (08 R182). -/
structure Inst where
  entry : Nat
  die : Nat
  tenant : Nat
  part : Nat
  lc : Bool
  priv : Nat
  arg : Nat
  msg : Option EnMsg
  at_ : Nat
  bytes : Bytes
  acts : List ActSt
  fwTag : Option Nat := none
  dirResult : Bytes := []
  reads : Bool := false
  fwdIds : List Nat := []
  fail : Option (Nat × Nat) := none
  confirmed : List Nat := []
  deriving DecidableEq, Repr

/-- A sluice command that has been delivered (12 R278): its entry, code and REARM count, and the message. -/
structure SluCmd where
  entry : Nat
  code : Nat
  count : Nat
  msg : EnMsg
  deriving DecidableEq, Repr

/-- The sluice of the node. -/
structure Sluice where
  entry : Tbl Entry := []
  queue : Tbl (List Enable) := []
  cmds : List SluCmd := []
  inst : Tbl Inst := []
  nextInst : Nat := 0
  win : Tbl Window := []
  deriving DecidableEq, Repr

/-- TRAFFIC_WEIR of a partition (14 R309), with the words held for the next commit (R314). -/
structure Weir where
  en : Bool := false
  borrow : Bool := false
  ctxLimit : Nat := 32
  beWeight : Nat := 1
  queueLimit : Nat := 4096
  rate : Nat := 8000000
  burst : Nat := 65536
  held : Tbl Nat := []
  deriving DecidableEq, Repr

/-- TRAFFIC_METER of a tenant slot (14 R317). -/
structure Meter where
  en : Bool := false
  cir : Nat := 0
  pir : Nat := 0
  cbs : Nat := 0
  pbs : Nat := 0
  held : Tbl Nat := []
  deriving DecidableEq, Repr

/-- A die's part of a meter (14 R317, R318): buckets in 1/4000 byte, and when they were last refilled. -/
structure MeterBucket where
  tp : Nat
  tc : Nat
  at_ : Nat
  deriving DecidableEq, Repr

/-- A weir read bucket of one region and partition (14 R310), in 1/16000 byte. -/
structure ReadBucket where
  tokens : Nat
  at_ : Nat
  deriving DecidableEq, Repr

/-- Traffic control (chapter 14): weirs, partition masks, meters, buckets, and the sample rings; `drr` and `drrAt` are the deficits (server · 64 +
partition) and the partition being visited (by server, plus 1) of the deficit round robins of best-effort contexts: servers 0-15 the
regions, 16 + 8 r + b the blocks (R311; 02 R37). -/
structure Traffic where
  weir : Tbl Weir := []
  mask : Tbl Nat := []
  meter : Tbl Meter := []
  bucket : Tbl MeterBucket := []
  read : Tbl ReadBucket := []
  drr : Tbl Nat := []
  drrAt : Tbl Nat := []
  sampleSeq : Tbl Nat := []
  samples : Tbl (Tbl Byte) := []
  deriving DecidableEq, Repr

end Sys2Proof.Machine
end

