-- ==== Sys2Proof/Machine/StateDatum.lean ====
section
/-! DEFINITION. The state of Datum and of recovery: maps, agreement, probes, loads and the node's drain (chapters 15, 16). -/

namespace Sys2Proof.Machine

/-- A pair record (15 Table 15.2, Table 15.3). -/
structure PairRec where
  a : Nat
  b : Nat
  st : Nat
  deriving DecidableEq, Repr

/-- A member record (15 Table 15.3). -/
structure Member where
  isNode : Bool
  admin : Bool
  node : Nat
  tray : Nat
  addrs : List (BitVec 128)
  deriving DecidableEq, Repr

/-- A placement record (15 R326). -/
structure Place where
  tag : Nat
  lo : Nat
  hi : Nat
  pair : Nat
  staged : Bool
  primB : Bool
  gen : Nat
  deriving DecidableEq, Repr

/-- The map of a composition at one epoch (15 R324): members by endpoint, placements in ascending (SEQ_TAG, RANGE_START). -/
structure DMap where
  epoch : Nat
  tenant : Nat
  clock : Nat
  pairs : Tbl PairRec := []
  members : Tbl Member := []
  places : List Place := []
  deriving DecidableEq, Repr

/-- A fetch of a map under way (15 R340): whom it asks, at which address, the cursor, the epoch and the records so far. `named` says that the
committed change that began it lists this node as serving (R337). -/
structure Fetch where
  src : Nat
  addr : BitVec 128
  cursor : Nat := 0
  epoch : Nat := 0
  recs : Bytes := []
  named : Bool := false
  deriving DecidableEq, Repr

/-- A composition the node holds or fetches (15 R331, R335-R338). `window` says that the transition window is open, and `prev` is map E - 1
while it is (none after CREATE); `lastChange` the change that was applied last; `voting` that a change naming the node as serving has
committed since reset (R337). -/
structure Comp where
  map : Option DMap := none
  window : Bool := false
  prev : Option DMap := none
  fetch : Option Fetch := none
  lastStep : Nat := 0
  promise : Nat := 0
  acc : Option (Nat × Bytes) := none
  lastChange : Bytes := []
  voting : Bool := false
  deriving DecidableEq, Repr

/-- Where a proposal stands (15 R332). -/
inductive ProposePhase where
  | prepare | accept | backoff (until_ : Nat)
  deriving DecidableEq, Repr

/-- Who is told of a proposal's end: nobody, the firmware window's TAG, or the message that carried DATUM_SUBMIT. -/
inductive Proposer where
  | node | window (tag : Nat) | message (src msgId port : Nat) (addr : BitVec 128)
  deriving DecidableEq, Repr

/-- A proposal under way (15 R332): the change, the round, the change carried in the accept phase, promises and accepts. `from_` is the
state its pair had when the node proposed a pair state (16 Table 16.4). -/
structure Proposal where
  change : Bytes
  who : Proposer
  from_ : Option Nat := none
  round : Nat := 1
  phase : ProposePhase := .prepare
  since : Nat := 0
  carried : Bytes := []
  promises : List Nat := []
  accepts : List Nat := []
  best : Nat × Bytes := (0, [])
  deriving DecidableEq, Repr

/-- What the node knows of a partner it probes (16 R347): the outstanding probe's sequence number and time, misses in succession,
whether the outstanding one has been counted as missed, and suspicion. -/
structure ProbeSt where
  seq : Nat := 0
  sentAt : Nat := 0
  open_ : Bool := false
  missed : Bool := false
  misses : Nat := 0
  suspect : Bool := false
  deriving DecidableEq, Repr

/-- Where a load stands at the loading node (16 R356-R363). -/
inductive LoadInSt where
  | waitPrimary | opening | copying | copied | finishing
  deriving DecidableEq, Repr

/-- A load at the loading node L: of a sequence, for one of L's pairs, from a node of pair `srcPair`. `reload` marks a load under R361,
`staged` one under R363, for the STAGED record whose range starts at `lo`. `held` keeps records ahead of their predecessors, and
`heard` the time of the last record or answer. -/
structure LoadIn where
  comp : Nat
  tag : Nat
  tenant : Nat
  pair : Nat
  lo : Nat := 0
  srcNode : Nat
  srcPair : Nat
  st : LoadInSt := .opening
  slot : Option Nat := none
  next : Nat := 0
  held : Tbl Bytes := []
  reload : Bool := false
  staged : Bool := false
  moved : Bool := false
  retryAt : Option Nat := none
  heard : Nat := 0
  deriving DecidableEq, Repr

/-- A load at the serving node S: the loading node's endpoint, the slot, the next record number; `finish` holds the LOAD_DONE message
that is answered once the relays are acknowledged, and `stopped` says that S has applied NORMAL and relays no more (16 R365). -/
structure LoadOut where
  comp : Nat
  dst : Nat
  slot : Nat
  next : Nat := 0
  finish : Option (Nat × Nat × BitVec 128) := none
  stopped : Bool := false
  deriving DecidableEq, Repr

/-- Datum and recovery. Compositions by ID; proposals by composition, the first of each list under way; loads at L by LOAD_ID, loads at S by
endpoint · 2^32 + LOAD_ID; `loadDoneSent` lists the composition and serving node of each LOAD_DONE with LOAD_ID 0 sent, `markerPairs` the pairs
(composition, pair) whose loading node has sent one (16 R365); `released` the slots that R330 releases once idle; `loadPaid` the time to which
LOAD_RATE is used up (16 R360). -/
structure Datum where
  comp : Tbl Comp := []
  prop : Tbl (List Proposal) := []
  probe : Tbl ProbeSt := []
  loadIn : Tbl LoadIn := []
  nextLoad : Nat := 1
  loadOut : Tbl LoadOut := []
  loadDoneSent : List (Nat × Nat) := []
  released : List Nat := []
  markerPairs : List (Nat × Nat) := []
  loadPaid : Nat := 0
  deriving DecidableEq, Repr

end Sys2Proof.Machine
end

