-- ==== Sys2Proof/Machine/StateSec.lean ====
section
/-! DEFINITION. The state of key slots, the fabric key and the signatures (chapter 17). -/

namespace Sys2Proof.Machine

/-- STATE of a key slot (17 R368). -/
inductive SlotSt where
  | empty | active | retiring | zeroising
  deriving DecidableEq, Repr

/-- A link key (17 R374, R376): the key, its activation time and its lifetime in ns. -/
structure LinkKey where
  key : BitVec 256
  activate : Nat
  lifetime : Nat
  deriving DecidableEq, Repr

/-- The link keys one holder keeps (17 R375): previous with the time it is dropped at, current, pending. -/
structure LinkKeys where
  previous : Option (LinkKey × Nat) := none
  current : Option LinkKey := none
  pending : Option LinkKey := none
  deriving DecidableEq, Repr

/-- A key slot (17 R368). -/
structure KeySlot where
  tenant : Nat := 0
  st : SlotSt := .empty
  prot : Bool := false
  sealed_ : Bool := false
  priv : Nat := 0
  sluiceBase : Nat := 0
  sluiceCount : Nat := 0
  memKey1 : BitVec 256 := 0
  memKey2 : BitVec 256 := 0
  memGen : Nat := 0
  keys : LinkKeys := {}
  sealCtr : Nat := 0
  retireAt : Option Nat := none
  keyAge : Bool := false
  deriving DecidableEq, Repr

/-- A captured base list (17 R384): the signature index, its 48-byte entries, and when it was captured. -/
structure BaseList where
  sig : Nat
  entries : List Bytes
  at_ : Nat
  deriving DecidableEq, Repr

/-- The security engine (17 R372, R374, R381, R382): the fabric key, the certificate check, the reservation (next key, limit and the
newest record's SEQ), the bottom trees built, the ATTEST token bucket in ns of refill, and the captured base lists by tenant. -/
structure Sec where
  fabric : LinkKeys := {}
  certMismatch : Bool := false
  sigNext : Nat := 0
  sigLimit : Nat := 0
  sigSeq : Nat := 0
  trees : List Nat := []
  tokens : Nat := 64000000000
  tokensAt : Nat := 0
  lists : Tbl BaseList := []
  deriving DecidableEq, Repr

/-- A latched DMA run (13 R294, R299): descriptor, funnel, pace period and start. -/
structure DmaRun where
  desc : Bytes
  funnel : Bool
  pace : Nat
  start : Nat
  line : Nat := 0
  deriving DecidableEq, Repr

/-- A DMA channel (13 R292-R305): descriptor registers, DMA_CTRL fields, DMA_STATUS, DMA_BYTES, DMA_PACE and the run. -/
structure DmaCh where
  desc : Bytes := List.replicate 64 0
  funnelEn : Bool := false
  startSrc : Nat := 0
  startArg : Nat := 0
  intEn : Bool := false
  pending : Bool := false
  done : Bool := false
  error : Bool := false
  lastStatus : Nat := 0
  cause : Nat := 0
  startLost : Nat := 0
  overrun : Nat := 0
  bytes : Nat := 0
  pace : Nat := 0
  run : Option DmaRun := none
  deriving DecidableEq, Repr

/-- What SLEEP saves in the system ranges (18 R408): the state that the sealed parts hold, the regions that saved a slice, and the number of the
first part's nonce among the free values. -/
structure Saved where
  dir : Tbl Seq
  prog : Tbl Prog
  key : Tbl KeySlot
  fabric : LinkKeys
  weir : Tbl Weir
  mask : Tbl Nat
  meter : Tbl Meter
  eq : Tbl (Nat × Nat)
  sto : Stores
  fwDigest : BitVec 256
  cfgDigest : BitVec 256
  regions : List Nat
  nonce : Nat
  deriving DecidableEq, Repr

/-- The parts of a saved state (R408): part r is the directory slice of region r, part 16 what the control die saves. -/
def savedParts (v : Saved) : List Nat := v.regions ++ [16]

/-- The bytes of a part. R408 lists what it holds and gives no layout: free (log 81). -/
opaque savedLayout (v : Saved) (part : Nat) : Bytes

/-- Where a part stands in its system range (R408 names no offset): free (log 81). -/
opaque savedOffset (part : Nat) : Nat

/-- The cache address of a part, in the 64 MiB system range of its region, the control die's in that of RGN_0. -/
def savedAddr (part : Nat) : Nat := (if part = 16 then 0 else part) * 2 ^ 40 + savedOffset part % 0x4000000

/-- The nonce of a part, fresh for each (R408). -/
def savedNonce (v : Saved) (part : Nat) : Bytes := leBytes 12 (Config.freeBits 96 (v.nonce + part)).toNat

/-- A part as it stands in memory (R408): the nonce in clear, then the text and the tag of AES-256-GCM under the key derived from DEVICE_SECRET. -/
def sealedPart (v : Saved) (part : Nat) : Bytes :=
  let n := savedNonce v part
  let c := Config.gcmSeal Config.sealKey n [] (savedLayout v part)
  n ++ c ++ leBytes 16 (Config.gcmTag Config.sealKey n [] c).toNat

end Sys2Proof.Machine
end

