-- ==== Sys2Proof/Machine/State.lean ====
section
/-! DEFINITION. The whole state of one YC64 as plain data, the reasons a step can stop, and the state right after reset. -/

namespace Sys2Proof.Machine

/-- What stops the machine. -/
inductive Fault where
  /-- 21 R461: a rail lies beyond its absolute maximum, where 'no behaviour in this manual is promised'. Raised by RAIL_FAULT
  alone. Safe: the model stops where the part may do anything. -/
  | beyondAbsoluteMaximum (rail : Rail)
  deriving DecidableEq, Repr

/-- What refuses a command. -/
inductive Refusal where
  /-- The command has no meaning in the model yet. Raised by Dispatch.lean alone. Safe. -/
  | notModelled (mnemonic : String)
  deriving DecidableEq, Repr

/-- The state of the YC64. Each field is one group of INVENTORY.md. -/
structure State where
  bmk : Bmk := {}
  pwr : Pwr := {}
  cfg : Cfg := {}
  svc : Svc := {}
  catchment : Catchment := {}
  log : Logs := {}
  cnt : Tbl Nat := []
  barrier : Tbl Barrier := []
  rgn : Tbl Rgn := []
  pair : Tbl Pair := []
  blk : Tbl Blk := []
  cap : PwrCap := {}
  tier : Tbl Tier := []
  node : NodeStatus := {}
  ctl : Ctl := {}
  jtag : Jtag := {}
  fuse : Fuses := {}
  mem : Mems := {}
  sto : Stores := {}
  dir : Tbl Seq := []
  tlb : List TlbEnt := []
  chan : Tbl Chan := []
  work : Work := {}
  prog : Tbl Prog := []
  installs : Tbl Install := []
  req : Tbl Req := []
  nextReq : Nat := 0
  readLog : Tbl (List (Nat × Nat)) := []
  key : Tbl KeySlot := []
  jx : Jx := {}
  slu : Sluice := {}
  traffic : Traffic := {}
  datum : Datum := {}
  sec : Sec := {}
  dma : Tbl DmaCh := []
  saved : Option Saved := none
  free : Nat := 0
  resets : Nat := 0
  pending : List Instr := []
  deriving DecidableEq, Repr

/-- The state right after power-on reset: AON_RESET_N and RESET_N low, every register at its reset value, memory empty. -/
def State.reset : State := {}

end Sys2Proof.Machine
end

