-- ==== Sys2Proof/Machine/Flags.lean ====
section
/-! DEFINITION. Status codes (00 Table 0.4), severities (R13), the leaf cause bits of 19 Table 19.2 with the severity of
each (the chapters' tables and R466), and which bits are defined. -/

namespace Sys2Proof.Machine

/-- ST_OK (00 Table 0.4), and the other codes of that table below. -/
def stOk : Nat := 0x00
def stRetry : Nat := 0x01
def stNoTracker : Nat := 0x02
def stWindowRevoked : Nat := 0x03
def stBadGen : Nat := 0x04
def stStateConflict : Nat := 0x05
def stEpochStale : Nat := 0x06
def stRedirect : Nat := 0x07
def stTenantRevoked : Nat := 0x08
def stUnknownRequest : Nat := 0x09
def stMalformed : Nat := 0x0A
def stOverRate : Nat := 0x0B
def stAccess : Nat := 0x0C
def stNoPage : Nat := 0x0D
def stDeadline : Nat := 0x0E
def stInternal : Nat := 0x0F

/-- A leaf cause bit: source ID and bit of 19 Table 19.2, and the severity of its records (0 corrected, 1 contained,
2 fenced, 3 fatal, 19 Table 19.7). -/
structure Leaf where
  src : Nat
  bit : Nat
  sev : Nat
  deriving DecidableEq, Repr

/-! The leaf bits of 19 Table 19.2, by region `r`, network die `n`, tier die `t`, spine station `s`. The suffixes R, N, T and C
of names that stand in several registers say which. -/

def leafResidueRetry (r : Nat) : Leaf := ⟨1 + 8 * r, 0, 0⟩
def leafCellFenced (r : Nat) : Leaf := ⟨1 + 8 * r, 1, 2⟩
def leafBlockFenced (r : Nat) : Leaf := ⟨2 + 8 * r, 0, 2⟩
def leafOperandModeInvalid (r : Nat) : Leaf := ⟨2 + 8 * r, 1, 1⟩
def leafProgramShapeMismatch (r : Nat) : Leaf := ⟨2 + 8 * r, 2, 1⟩
def leafPreemptNoRoom (r : Nat) : Leaf := ⟨2 + 8 * r, 3, 0⟩
def leafLineCorrected (r : Nat) : Leaf := ⟨3 + 8 * r, 0, 0⟩
def leafLineUncorrectable (r : Nat) : Leaf := ⟨3 + 8 * r, 1, 1⟩
def leafUnitWriteMismatch (r : Nat) : Leaf := ⟨3 + 8 * r, 2, 0⟩
def leafUnitRedoFailed (r : Nat) : Leaf := ⟨3 + 8 * r, 3, 1⟩
def leafStackCorrected (r : Nat) : Leaf := ⟨3 + 8 * r, 4, 0⟩
def leafStackUncorrectable (r : Nat) : Leaf := ⟨3 + 8 * r, 5, 1⟩
def leafLinkCrcRetry (r : Nat) : Leaf := ⟨3 + 8 * r, 6, 0⟩
def leafLinkRetrain (r : Nat) : Leaf := ⟨3 + 8 * r, 7, 0⟩
def leafG7ChannelLost (r : Nat) : Leaf := ⟨3 + 8 * r, 8, 2⟩
def leafG7DeviceMismatch (r : Nat) : Leaf := ⟨3 + 8 * r, 9, 2⟩
def leafG7RateClamped (r : Nat) : Leaf := ⟨3 + 8 * r, 10, 0⟩
def leafG7Refresh2x (r : Nat) : Leaf := ⟨3 + 8 * r, 11, 0⟩
def leafDeltaCorrupt (r : Nat) : Leaf := ⟨3 + 8 * r, 12, 1⟩
def leafUnitRefreshYield (r : Nat) : Leaf := ⟨4 + 8 * r, 0, 0⟩
def leafApertureMode (r : Nat) : Leaf := ⟨4 + 8 * r, 1, 1⟩
def leafUnitQueueOverrun (r : Nat) : Leaf := ⟨4 + 8 * r, 2, 1⟩
def leafCalibrationDrift (r : Nat) : Leaf := ⟨4 + 8 * r, 3, 0⟩
def leafThrottle85 (r : Nat) : Leaf := ⟨5 + 8 * r, 0, 0⟩
def leafThrottle95 (r : Nat) : Leaf := ⟨5 + 8 * r, 1, 0⟩
def leafSkewRatio (r : Nat) : Leaf := ⟨5 + 8 * r, 2, 0⟩
def leafSkewSupply (r : Nat) : Leaf := ⟨5 + 8 * r, 3, 0⟩
def leafSkewTemp (r : Nat) : Leaf := ⟨5 + 8 * r, 4, 0⟩
def leafDirThrottle (r : Nat) : Leaf := ⟨5 + 8 * r, 5, 0⟩
def leafSupplyFault (r : Nat) : Leaf := ⟨5 + 8 * r, 6, 2⟩
def leafRegionFenced (r : Nat) : Leaf := ⟨5 + 8 * r, 7, 2⟩
def leafDirRepaired (r : Nat) : Leaf := ⟨6 + 8 * r, 0, 0⟩
def leafDirEntryLost (r : Nat) : Leaf := ⟨6 + 8 * r, 1, 1⟩
def leafDirFull (r : Nat) : Leaf := ⟨6 + 8 * r, 2, 1⟩
def leafFrameExhausted (r : Nat) : Leaf := ⟨6 + 8 * r, 3, 1⟩
def leafWalkMalformed (r : Nat) : Leaf := ⟨6 + 8 * r, 4, 1⟩
def leafStateRefusedR (r : Nat) : Leaf := ⟨6 + 8 * r, 5, 0⟩
def leafFastPinnedFull (r : Nat) : Leaf := ⟨6 + 8 * r, 6, 1⟩
def leafPromoteBlocked (r : Nat) : Leaf := ⟨6 + 8 * r, 7, 1⟩
def leafDeepFull (r : Nat) : Leaf := ⟨6 + 8 * r, 8, 1⟩
def leafDmaDoneR (r : Nat) : Leaf := ⟨7 + 8 * r, 0, 0⟩
def leafDmaErrorR (r : Nat) : Leaf := ⟨7 + 8 * r, 1, 1⟩
def leafLinkDownA (n : Nat) : Leaf := ⟨129 + 4 * n, 0, 0⟩
def leafLinkDownB (n : Nat) : Leaf := ⟨129 + 4 * n, 1, 0⟩
def leafPtpUnlocked (n : Nat) : Leaf := ⟨129 + 4 * n, 2, 0⟩
def leafJxNoRoute (n : Nat) : Leaf := ⟨130 + 4 * n, 0, 1⟩
def leafJxViolation (n : Nat) : Leaf := ⟨130 + 4 * n, 1, 0⟩
def leafSluiceMismatch (n : Nat) : Leaf := ⟨130 + 4 * n, 2, 1⟩
def leafResultUndelivered (n : Nat) : Leaf := ⟨130 + 4 * n, 3, 1⟩
def leafStateRefusedN (n : Nat) : Leaf := ⟨130 + 4 * n, 4, 0⟩
def leafDmaDoneN (n : Nat) : Leaf := ⟨131 + 4 * n, 0, 0⟩
def leafDmaErrorN (n : Nat) : Leaf := ⟨131 + 4 * n, 1, 1⟩
def leafTierLinkDegraded (t : Nat) : Leaf := ⟨145 + 2 * t, 0, 0⟩
def leafTierCapClamped (t : Nat) : Leaf := ⟨145 + 2 * t, 1, 0⟩
def leafTierCorrected (t : Nat) : Leaf := ⟨145 + 2 * t, 2, 0⟩
def leafTierPoison (t : Nat) : Leaf := ⟨145 + 2 * t, 3, 1⟩
def leafTierTimeout (t : Nat) : Leaf := ⟨145 + 2 * t, 4, 1⟩
def leafTierFenced (t : Nat) : Leaf := ⟨145 + 2 * t, 5, 2⟩
def leafTierDeviceUnsupported (t : Nat) : Leaf := ⟨145 + 2 * t, 6, 2⟩
def leafTierRestored (t : Nat) : Leaf := ⟨145 + 2 * t, 7, 0⟩
def leafDmaDoneT (t : Nat) : Leaf := ⟨146 + 2 * t, 0, 0⟩
def leafDmaErrorT (t : Nat) : Leaf := ⟨146 + 2 * t, 1, 1⟩
def leafSpineLinkFault (s : Nat) : Leaf := ⟨153 + s, 0, 3⟩
def leafSpineParityFault (s : Nat) : Leaf := ⟨153 + s, 1, 3⟩
def leafChipFatal : Leaf := ⟨159, 0, 3⟩
def leafCtlTakeover : Leaf := ⟨159, 1, 2⟩
def leafCtlStandbyLost : Leaf := ⟨159, 2, 2⟩
def leafPowerCapped : Leaf := ⟨159, 3, 0⟩
def leafTrafficOvercommit : Leaf := ⟨159, 4, 0⟩
def leafTrafficSetInvalid : Leaf := ⟨159, 5, 1⟩
def leafConfigAdmitFailed : Leaf := ⟨159, 6, 1⟩
def leafWakeStateDiscarded : Leaf := ⟨159, 7, 0⟩
def leafStateRefusedC : Leaf := ⟨159, 8, 0⟩
def leafProgramInvalid : Leaf := ⟨159, 9, 1⟩
def leafDeviceCertMismatch : Leaf := ⟨160, 0, 1⟩
def leafFabricKeyExpired : Leaf := ⟨160, 1, 1⟩
def leafKeyUnwrapFail : Leaf := ⟨160, 2, 1⟩
def leafSigStateFault : Leaf := ⟨160, 3, 1⟩
def leafSigExhausted : Leaf := ⟨160, 4, 1⟩
def leafDatumStoreFull : Leaf := ⟨161, 0, 1⟩
def leafDatumDoublePlace : Leaf := ⟨161, 1, 1⟩
def leafSelfExcluded : Leaf := ⟨161, 2, 0⟩
def leafCatchStackFault : Leaf := ⟨162, 0, 1⟩
def leafBarrierStray : Leaf := ⟨162, 1, 1⟩
def leafBarrierBroken : Leaf := ⟨162, 2, 1⟩
def leafBarrierBusy : Leaf := ⟨162, 3, 1⟩

/-- How many bits, from bit 0, the leaf register of source `id` defines (19 Table 19.2). -/
def leafWidth (id : Nat) : Nat :=
  if id = 0 ∨ 162 < id then 0
  else if id ≤ 128 then
    match (id - 1) % 8 with
    | 0 => 2 | 1 => 4 | 2 => 13 | 3 => 4 | 4 => 8 | 5 => 9 | 6 => 2 | _ => 0
  else if id ≤ 144 then
    match (id - 129) % 4 with
    | 0 => 3 | 1 => 5 | 2 => 2 | _ => 0
  else if id ≤ 152 then (if (id - 145) % 2 = 0 then 8 else 2)
  else if id ≤ 158 then 2
  else match id with
    | 159 => 10 | 160 => 5 | 161 => 3 | 162 => 4 | _ => 0

/-- The ring of a cause of source `id` (19 R427), in the numbering of `Logs`. -/
def ringOf (id : Nat) : Nat :=
  if id ≤ 128 then
    match (id - 1) % 8 with
    | 0 => (id - 1) / 8
    | 1 => 16 + (id - 1) / 8
    | _ => 32 + (id - 1) / 8
  else if id ≤ 144 then 48 + (id - 129) / 4
  else if id ≤ 152 then 52 + (id - 145) / 2
  else 56

/-- LEVEL of the records of a ring (19 R429). -/
def ringLevel (ring : Nat) : Nat := if ring < 16 then 0 else if ring < 32 then 1 else if ring < 48 then 2 else 3

end Sys2Proof.Machine
end

