-- ==== Sys2Proof/Machine/Tbl.lean ====
section
/-! DEFINITION. The sparse tables of the model: lookup, update and the canonical form. A table with a default (a register
file, memory) never lists an entry equal to the default; a table without one lists what exists. -/

namespace Sys2Proof.Machine

/-- The entry of key `k`, if it is listed. -/
def tlook {α : Type} (t : Tbl α) (k : Nat) : Option α :=
  match t with
  | [] => none
  | (k', v) :: rest => if k' = k then some v else if k < k' then none else tlook rest k

/-- The entry of key `k` of a table whose unlisted entries read as `d`. -/
def tget {α : Type} (d : α) (t : Tbl α) (k : Nat) : α := (tlook t k).getD d

/-- `t` with key `k` listed with `v`, keys kept rising. -/
def tput {α : Type} (t : Tbl α) (k : Nat) (v : α) : Tbl α :=
  match t with
  | [] => [(k, v)]
  | (k', v') :: rest =>
    if k < k' then (k, v) :: (k', v') :: rest
    else if k = k' then (k, v) :: rest
    else (k', v') :: tput rest k v

/-- `t` without key `k`. -/
def tdel {α : Type} (t : Tbl α) (k : Nat) : Tbl α :=
  match t with
  | [] => []
  | (k', v') :: rest => if k' = k then rest else if k < k' then (k', v') :: rest else (k', v') :: tdel rest k

/-- `t` with entry `k` equal to `v`, where unlisted entries read as `d`. -/
def tset {α : Type} [DecidableEq α] (d : α) (t : Tbl α) (k : Nat) (v : α) : Tbl α :=
  if v = d then tdel t k else tput t k v

/-- Apply `f` to the entry of key `k` if it is listed. -/
def tmod {α : Type} (t : Tbl α) (k : Nat) (f : α → α) : Tbl α :=
  match tlook t k with
  | none => t
  | some v => tput t k (f v)

/-- The listed entries for which `p` holds. -/
def tfilter {α : Type} (t : Tbl α) (p : Nat → α → Bool) : Tbl α := t.filter fun e => p e.1 e.2

/-- Some listed entry satisfies `p`. -/
def tany {α : Type} (t : Tbl α) (p : Nat → α → Bool) : Bool := t.any fun e => p e.1 e.2

/-- How many listed entries satisfy `p`. -/
def tcount {α : Type} (t : Tbl α) (p : Nat → α → Bool) : Nat := t.countP fun e => p e.1 e.2

/-- The first listed entry, in key order, that satisfies `p`. -/
def tfind {α : Type} (t : Tbl α) (p : Nat → α → Bool) : Option (Nat × α) := t.find? fun e => p e.1 e.2

/-- Change every listed entry. -/
def tmap {α : Type} (t : Tbl α) (f : Nat → α → α) : Tbl α := t.map fun e => (e.1, f e.1 e.2)

/-- The keys of `t` rise strictly from `lo`. -/
def tsortedFrom {α : Type} (lo : Nat) : Tbl α → Bool
  | [] => true
  | (k, _) :: rest => decide (lo ≤ k) && tsortedFrom (k + 1) rest

/-- The canonical form: keys strictly rising and no listed entry equal to the default `d`. -/
def twf {α : Type} [DecidableEq α] (d : α) (t : Tbl α) : Bool :=
  tsortedFrom 0 t && t.all fun e => decide (e.2 ≠ d)

/-- The least key from `lo` on, among `n`, that `t` does not list. -/
def tfree {α : Type} (t : Tbl α) (lo n : Nat) : Option Nat :=
  match n with
  | 0 => none
  | n + 1 => if (tlook t lo).isNone then some lo else tfree t (lo + 1) n

/-- Insert `x` before the first element with a greater key. -/
def insertBy {α : Type} (key : α → Nat) (x : α) : List α → List α
  | [] => [x]
  | y :: ys => if key x < key y then x :: y :: ys else y :: insertBy key x ys

/-- Stable insertion sort by rising key. -/
def sortBy {α : Type} (key : α → Nat) (l : List α) : List α := l.foldl (fun acc x => insertBy key x acc) []

/-- `n` bytes of a byte memory from address `a` (an unlisted byte reads as 0, log 4). -/
def memRead (m : Tbl Byte) (a n : Nat) : Bytes := (List.range n).map fun i => tget 0 m (a + i)

/-- Write the bytes `bs` from address `a`. -/
def memWrite (m : Tbl Byte) (a : Nat) : Bytes → Tbl Byte
  | [] => m
  | b :: bs => memWrite (tset 0 m a b) (a + 1) bs

/-- Zero the span of `n` bytes from address `a`. -/
def memZero (m : Tbl Byte) (a n : Nat) : Tbl Byte := m.filter fun e => decide (e.1 < a) || decide (a + n ≤ e.1)

/-- The bytes of `m` in [a, a + n), as a table. -/
def memSpan (m : Tbl Byte) (a n : Nat) : Tbl Byte := m.filter fun e => decide (a ≤ e.1) && decide (e.1 < a + n)

/-- The canonical form of a memory: addresses strictly rising, and no entry equal to the 0 that an unlisted byte reads as. -/
def Memory.wf (m : Tbl Byte) : Bool := twf 0 m

/-- Copy `n` bytes from address `src` of `m0` to address `dst` of `m`. -/
def memCopy (m0 : Tbl Byte) (src : Nat) (m : Tbl Byte) (dst n : Nat) : Tbl Byte :=
  (memSpan m0 src n).foldl (fun acc e => tput acc (e.1 - src + dst) e.2) (memZero m dst n)

end Sys2Proof.Machine
end

