-- ==== Sys2Proof/Machine/Ops.lean ====
section
/-! DEFINITION. Operations every family shares: fabric time, counters, free values, the catchment's offers and firing, the log
rings and the raising of a cause bit. -/

namespace Sys2Proof.Machine

/-- Fabric time in ns (18 R409). -/
def now (s : State) : Nat := s.bmk.time

/-- The node is awake: main reset is over and it is not in Benchmark-only. -/
def awake (s : State) : Bool := s.pwr.mode == .running

/-! ## The spine (02 R31-R36). A die is named by its code of 19 Table 19.8: regions 0-15, network 16-19, tier 20-23, spine 24-29,
control 30-31. -/

/-- The station a die attaches to (02 Table 2.2); a station is its own. -/
def stationOf (die : Nat) : Nat :=
  ([0, 0, 0, 1, 1, 2, 2, 2, 3, 3, 3, 4, 4, 5, 5, 5, 0, 2, 3, 5, 1, 1, 4, 4, 0, 1, 2, 3, 4, 5, 1, 4][die]?).getD 0

/-- The stations of the fixed path from station `a` to station `b` (R33): along the row to the column of `b`, then along the column. -/
def spinePath (a b : Nat) : List Nat :=
  let lo := min (a % 3) (b % 3)
  let hi := max (a % 3) (b % 3)
  ((List.range 3).filter fun c => decide (lo ≤ c) && decide (c ≤ hi)).map (fun c => a / 3 * 3 + c) ++ (if a / 3 = b / 3 then [] else [b])

/-- Every station of the path from die `a` to die `b` works (R36: no other station routes around a failed one). -/
def dieReaches (s : State) (a b : Nat) : Bool := (spinePath (stationOf a) (stationOf b)).all fun x => !s.ctl.spineDead.getLsbD x

/-- Die `d` can be reached from the primary control die, which holds the service port and the I2C target. -/
def dieReachable (s : State) (d : Nat) : Bool := d == 30 + s.cfg.ctlPrimary || dieReaches s (30 + s.cfg.ctlPrimary) d

/-- PHASE of CFG_BOOT_STATUS is READY (18 R398). -/
def ready (s : State) : Bool := s.pwr.mode == .running && s.cfg.phase == 6

/-! ## Counters (20 R437), each keyed by its BAR0 offset -/

/-- The offset of counter `i` of CHIP_CNT. -/
def chipCntOff (i : Nat) : Nat := 0x400 + 4 * i
/-- The offset of counter `i` of RGN_CNT of region `r` (20 Table 20.5). -/
def rgnCntOff (r i : Nat) : Nat := 0x1000400 + r * 0x100000 + 4 * i
/-- The offset of counter `i` of NET_CNT of network die `n`. -/
def netCntOff (n i : Nat) : Nat := 0x400400 + n * 0x40000 + 4 * i
/-- The offset of counter `o` (its byte offset) of NET_PORT_CNT of port `p`. -/
def portCntOff (p o : Nat) : Nat := 0x400300 + (p / 2) * 0x40000 + (p % 2) * 0x40 + o
/-- The offset of NET_PORT_STATUS of port `p`. -/
def portStatusOff (p : Nat) : Nat := 0x400000 + (p / 2) * 0x40000 + (p % 2) * 8
/-- The offset of DEADLINE_FALLBACK of partition `p` on network die `n`. -/
def fallbackOff (n p : Nat) : Nat := 0x400800 + n * 0x40000 + 4 * p
/-- The offset of counter `i` of TIER_CNT of tier die `t`. -/
def tierCntOff (t i : Nat) : Nat := 0x500400 + t * 0x40000 + 4 * i
/-- The offset of the counter at byte `o` of SEC_TENANT_CNT of key slot `k`. -/
def tenantCntOff (k o : Nat) : Nat := 0x89000 + k * 0x40 + o

/-- The value of a counter. -/
def counter (s : State) (off : Nat) : Nat := tget 0 s.cnt off

/-- Add `n` to the wrapping counter of `w` bits at `off` (20 R437). -/
def countN (w off n : Nat) (s : State) : State :=
  { s with cnt := tset 0 s.cnt off ((tget 0 s.cnt off + n) % 2 ^ w) }

/-- Count one occurrence on the 32-bit wrapping counter at `off`. -/
def count (off : Nat) (s : State) : State := countN 32 off 1 s

/-! ## Free values -/

/-- The number of the next free value, and the state that has used it (log 7). -/
def takeFree (s : State) : Nat × State := (s.free, { s with free := s.free + 1 })

/-! ## The catchment (19 R413-R420) -/

/-- CAUSE of source `id`. -/
def causeWord (s : State) (id : Nat) : Nat := tget 0 s.catchment.cause id

/-- CAUSE_EN of source `id`: the defined bits that have not been cleared (19 R414: reset 1). -/
def causeEnWord (s : State) (id : Nat) : Nat := (2 ^ leafWidth id - 1) &&& ((2 ^ 32 - 1) ^^^ tget 0 s.catchment.dis id)

/-- The configuration of source `id`. -/
def srcCfg (c : Catchment) (id : Nat) : SrcCfg := tget {} c.src id

/-- The stack of target `t`, top first. -/
def tgtStack (c : Catchment) (t : Nat) : List (Nat × Nat) := tget [] c.stack t

/-- The source's configuration names target `t` (19 R417). -/
def namesTarget (g : SrcCfg) (t : Nat) : Bool := if t = 8 then g.pin else g.cores.getLsbD t

/-- Target `t` may take source `id`, apart from the offer it holds (19 R417, the first three conditions). -/
def eligible (c : Catchment) (id t : Nat) : Bool :=
  let g := srcCfg c id
  c.tgtEn.getLsbD t && namesTarget g t &&
    (match tgtStack c t with
     | [] => true
     | (_, p) :: _ => decide (p < g.prio))

/-- Target `t` holds no offer of equal or higher priority than source `id` (19 R417, the fourth condition). -/
def offerRoom (c : Catchment) (id t : Nat) : Bool :=
  match tlook c.offer t with
  | none => true
  | some o => decide ((srcCfg c o.src).prio < (srcCfg c id).prio)

/-- The targets in the order of 19 R417: ascending after `last`, wrapping from 8 to 0. -/
def targetsAfter (last : Nat) : List Nat := (List.range 9).map fun i => (last + 1 + i) % 9

/-- The target that holds the offer of source `id`. -/
def offeredTo (c : Catchment) (id : Nat) : Option Nat := (tfind c.offer fun _ o => o.src == id).map (·.1)

/-- Offer source `id` to the first target after `last` that may take it; a displaced offer is withdrawn. -/
def offerOne (at_ last : Nat) (c : Catchment) (id : Nat) : Catchment :=
  match (targetsAfter last).find? fun t => eligible c id t && offerRoom c id t with
  | none => c
  | some t => { c with offer := tput c.offer t ⟨id, at_⟩ }

/-- The pending sources in the order of 19 R417: descending PRIORITY, ascending source ID. -/
def pendingSrcs (c : Catchment) : List Nat :=
  (sortBy (fun e : Nat × SrcCfg => (15 - e.2.prio) * 1024 + e.1) (c.src.filter fun e => e.2.st == .pending)).map (·.1)

/-- Withdraw every offer that may no longer stand (19 R417, R420). -/
def withdrawOffers (c : Catchment) : Catchment :=
  if c.globalEn then
    { c with offer := tfilter c.offer fun t o => (srcCfg c o.src).st == .pending && eligible c o.src t }
  else { c with offer := [] }

/-- Bring the offers up to date (19 R417, R420): withdraw those that may not stand, then offer every pending source that is
not offered. -/
def settleOffers (at_ : Nat) (c : Catchment) : Catchment :=
  let c := withdrawOffers c
  if c.globalEn then
    (pendingSrcs c).foldl (fun c id =>
      if (offeredTo c id).isSome then c else offerOne at_ (srcCfg c id).last c id) c
  else c

/-- `settleOffers` on the whole state. -/
def settle (s : State) : State := { s with catchment := settleOffers (now s) s.catchment }

/-- The state of a source after it fires (19 Table 19.3). -/
def srcFires : SrcState → SrcState
  | .idle => .pending
  | .pending => .pending
  | .active => .activePending
  | .activePending => .activePending

/-- Set the state of source `id`. -/
def setSrc (id : Nat) (g : SrcCfg) (c : Catchment) : Catchment := { c with src := tset {} c.src id g }

/-- Source `id` fires (19 R416), and the offers are brought up to date. -/
def fireSource (id : Nat) (s : State) : State :=
  let g := srcCfg s.catchment id
  settle { s with catchment := setSrc id { g with st := srcFires g.st } s.catchment }

/-! ## Log rings (19 R427-R431) -/

/-- The detail of a record: fields (offset, bytes, value). -/
abbrev Detail := List (Nat × Nat × Nat)

/-- The fields that 19 Table 19.8 names for a record of `kind` in `ring`, as (offset, bytes). -/
def detailFields (ring kind : Nat) : List (Nat × Nat) :=
  if kind = 1 then [(16, 1), (17, 1), (18, 1), (20, 4), (24, 1), (25, 1), (28, 4), (32, 4), (36, 2)]
  else if ring < 16 then [(16, 1), (17, 1), (18, 1), (19, 1), (20, 4), (24, 4), (28, 1)]
  else if ring < 32 then [(16, 1), (17, 1), (18, 1), (20, 4), (24, 8), (32, 2), (34, 1), (36, 4)]
  else if ring < 48 then [(16, 1), (17, 1), (18, 1), (20, 4), (24, 8), (32, 2), (34, 1), (36, 4)]
  else [(16, 1), (17, 1), (18, 1), (20, 1), (24, 4), (28, 4), (32, 4)]

/-- The DIE code of a source (19 Table 19.8): regions 0-15, network 16-19, tier 20-23, spine 24-29, control 30-31. -/
def dieCode (s : State) (src : Nat) : Nat :=
  if src ≤ 128 then (src - 1) / 8
  else if src ≤ 144 then 16 + (src - 129) / 4
  else if src ≤ 152 then 20 + (src - 145) / 2
  else if src ≤ 158 then 24 + (src - 153)
  else 30 + s.cfg.ctlPrimary

/-- The 64 bytes of a record (19 Tables 19.7, 19.8): a named field that does not apply holds all ones. -/
def recordBytes (time seq ring sev kind src bit event : Nat) (d : Detail) : Bytes :=
  let head := leBytes 8 time ++ leBytes 4 seq ++
    leBytes 1 (ringLevel ring + 4 * sev + 16 * kind) ++ leBytes 1 src ++ leBytes 1 bit ++ leBytes 1 event
  let blank := head ++ List.replicate 48 0
  let ones := (detailFields ring kind).foldl (fun b f => put b f.1 (leBytes f.2 (2 ^ (8 * f.2) - 1))) blank
  d.foldl (fun b f => put b f.1 (leBytes f.2.1 f.2.2)) ones

/-- The SEQ after `n` (19 R428): wraps from 0xFFFF_FFFF to 1. -/
def nextSeq (n : Nat) : Nat := if n < 2 ^ 32 - 1 then n + 1 else 1

/-- Write one record to `ring` (19 R428). -/
def logRecord (ring sev kind src bit event : Nat) (d : Detail) (s : State) : State :=
  let q := nextSeq (tget 0 s.log.seq ring)
  let rec_ := recordBytes (now s) q ring sev kind src bit event d
  { s with log := { s.log with
      rings := tput s.log.rings ring (tput (tget [] s.log.rings ring) (q % 256) rec_)
      seq := tset 0 s.log.seq ring q } }

/-- The SEQ of the newest record of `ring`: CAUSED_BY of a record above it (19 R431). -/
def logSeq (s : State) (ring : Nat) : Nat := tget 0 s.log.seq ring

/-- The record's own DIE field, where the ring has one (19 Table 19.8). -/
def dieField (s : State) (src : Nat) : Detail := if ringOf src < 48 then [] else [(16, 1, dieCode s src)]

/-- Set a cause bit (19 R414), without firing. -/
def setCause (l : Leaf) (s : State) : State :=
  { s with catchment := { s.catchment with cause := tset 0 s.catchment.cause l.src (causeWord s l.src ||| 2 ^ l.bit) } }

/-- Clear a cause bit whose condition has ended. -/
def dropCause (l : Leaf) (s : State) : State :=
  { s with catchment := { s.catchment with
      cause := tset 0 s.catchment.cause l.src (causeWord s l.src &&& (2 ^ 32 - 1 - 2 ^ l.bit)) } }

/-- A cause occurs: its bit is set, and its source fires when the bit is enabled (19 R414, R416). -/
def setAndFire (l : Leaf) (s : State) : State :=
  let s := setCause l s
  if bitAt (causeEnWord s l.src) l.bit then fireSource l.src s else s

/-- A cause occurs and is logged (19 R427, R429): the record first, then the bit and the source. -/
def raise (l : Leaf) (d : Detail) (s : State) : State :=
  setAndFire l (logRecord (ringOf l.src) l.sev 0 l.src l.bit 0 (dieField s l.src ++ d) s)

/-- A cause that is also a count (19 R415). -/
def raiseCount (l : Leaf) (off : Nat) (d : Detail) (s : State) : State := count off (raise l d s)

/-- An event that is no error report (KIND 2, 19 R429), with the leaf bit it also sets. -/
def logEvent (ring event : Nat) (l : Option Leaf) (d : Detail) (s : State) : State :=
  match l with
  | none => logRecord ring 0 2 0 0 event d s
  | some l => setAndFire l (logRecord ring 0 2 l.src l.bit event d s)

/-- Ring numbers by name. -/
def ringRegion (r : Nat) : Nat := 32 + r
def ringNet (n : Nat) : Nat := 48 + n
def ringTier (t : Nat) : Nat := 52 + t
def ringChip : Nat := 56

/-- What a STATE_REFUSED record of 03 R76 carries (19 Table 19.8, KIND 1). -/
structure RefusedObj where
  object : Nat
  found : Nat
  command : Nat
  id : Nat
  layer : Option Nat := none
  kind : Option Nat := none
  endpoint : Option Nat := none
  msgId : Option Nat := none
  tenant : Option Nat := none

/-- An optional field of a record. -/
def optField (off n : Nat) : Option Nat → Detail
  | none => []
  | some v => [(off, n, v)]

/-- Log a refusal that a state table asks for (03 R76): a KIND 1 record in the ring of the die that refused, the cause bit, and
STATE_REFUSED of the tenant's key slot when it has one. -/
def stateRefused (l : Leaf) (slot : Option Nat) (o : RefusedObj) (s : State) : State :=
  let d : Detail := [(16, 1, o.object), (17, 1, o.found), (18, 1, o.command), (20, 4, o.id)] ++
    optField 24 1 o.layer ++ optField 25 1 o.kind ++ optField 28 4 o.endpoint ++ optField 32 4 o.msgId ++
    optField 36 2 o.tenant
  let s := setAndFire l (logRecord (ringOf l.src) 0 1 l.src l.bit 0 d s)
  match slot with
  | none => s
  | some k => count (tenantCntOff k 0) s

/-! ## Regions -/

/-- Region `r`'s clock and fence record. -/
def rgnOf (s : State) (r : Nat) : Rgn := tget {} s.rgn r

/-- Write it. -/
def setRgn (r : Nat) (g : Rgn) (s : State) : State := { s with rgn := tput s.rgn r g }

/-- Note that a region is at work at this time (18 R405). -/
def markBusy (r : Nat) (s : State) : State := setRgn r { rgnOf s r with busyAt := now s } s

/-! ## Pins that follow the state -/

/-- INT_N (19 R417, R421; 18 Table 18.9): low while target 8 holds an offer, and in BOOT_FAILED and FATAL; released otherwise. -/
def intN (s : State) : PinOut :=
  if s.pwr.mode ≠ .running then .hiZ
  else if s.cfg.phase = 8 ∨ s.cfg.phase = 9 then .low
  else if (tlook s.catchment.offer 8).isSome then .low
  else .hiZ

/-- The nanoseconds by which a slewing clock corrects itself in one tick of 10 ns: a free value (log 71), never past the correction that
is left and never turning time back. -/
def slewStep (left : Int) : Nat := Config.slewNs left % (min 10 left.natAbs + 1)

/-- One tick of the awake clock, with the PTP servo's slew (18 R409). -/
def slewTick (b : Bmk) : Bmk :=
  if b.slew = 0 then { b with time := (b.time + 10) % 2 ^ 64 }
  else
    let d := slewStep b.slew
    if 0 < b.slew then { b with time := (b.time + 10 + d) % 2 ^ 64, slew := b.slew - d }
    else { b with time := (b.time + 10 - d) % 2 ^ 64, slew := b.slew + d }

/-- One tick of the time base, taken by `step` on an empty queue (log 1): 10 ns while a main domain runs or is in reset with the
Benchmark domain counting; one BCLK period of 30,517.578125 ns in Benchmark-only (18 R409). -/
def tick (s : State) : State :=
  if s.bmk.counting then
    if s.pwr.mode = .bmkOnly then
      let f := s.bmk.frac + 3906250
      { s with bmk := { s.bmk with time := (s.bmk.time + f / 128) % 2 ^ 64, frac := f % 128 } }
    else { s with bmk := slewTick s.bmk }
  else s

end Sys2Proof.Machine
end

