-- ==== Sys2Proof/Machine/Net.lean ====
section
/-! DEFINITION. Sending over Jexus (11 R237-R245, R260-R262, R268-R272; 17 R374, R375): the endpoint table, link keys, packets,
queues and messages in flight. -/

namespace Sys2Proof.Machine

/-! ## The node and its peers -/

/-- The node's endpoint ID (20 CHIP_NODE). -/
def myEndpoint (s : State) : Nat := (s.cfg.img.map (·.endpoint)).getD 0

/-- The node ID. -/
def myNode (s : State) : Nat := (s.cfg.img.map (·.nodeId)).getD 0

/-- PATH_COUNT (R245). -/
def pathCount (s : State) : Nat := max 1 ((s.cfg.img.map (·.pathCount)).getD 64)

/-- FABRIC_AUTH (R270). -/
def fabricAuth (s : State) : Bool := (s.cfg.img.map (·.fabricAuth)).getD true

/-- The maps the node holds, in ascending composition ID. -/
def maps (s : State) : List (Nat × DMap) := s.datum.comp.filterMap fun e => e.2.map.map fun m => (e.1, m)

/-- The addresses of an endpoint in the endpoint table (R238). -/
def endpointAddrs (s : State) (ep : Nat) : Option (List (BitVec 128)) :=
  (maps s).findSome? fun e => (tlook e.2.members ep).map (·.addrs)

/-- SRC_ENDPOINT is a node in the endpoint table (14 R317). -/
def isNodeEndpoint (s : State) (ep : Nat) : Bool :=
  (maps s).any fun e => match tlook e.2.members ep with | some m => m.isNode | none => false

/-- The endpoint of node `n` in a map. -/
def nodeEndpoint (m : DMap) (n : Nat) : Option Nat := (tfind m.members fun _ x => x.isNode && x.node == n).map (·.1)

/-- The key slot in which a tenant is resident (17 R368). -/
def slotOfTenant (s : State) (t : Nat) : Option (Nat × KeySlot) := tfind s.key fun _ k => k.st != .empty && k.tenant == t

/-- The number of a tenant's key slot, for its counters. -/
def slotNo (s : State) (t : Nat) : Option Nat := (slotOfTenant s t).map (·.1)

/-- Count on the counter at byte `o` of the tenant's SEC_TENANT_CNT. -/
def countTenant (t o : Nat) (s : State) : State :=
  match slotNo s t with
  | none => s
  | some k => count (tenantCntOff k o) s

/-- The tenant is protected. -/
def isProtected (s : State) (t : Nat) : Bool := ((slotOfTenant s t).map (·.2.prot)).getD false

/-- The tenant is sealed. -/
def isSealed (s : State) (t : Nat) : Bool := ((slotOfTenant s t).map (·.2.sealed_)).getD false

/-! ## Keys -/

/-- The held key whose ACTIVATE_TIME is the latest not later than `t` (17 R374). -/
def chooseKey (k : LinkKeys) (t : Nat) : Option LinkKey :=
  ([k.previous.map (·.1), k.current, k.pending].filterMap id).foldl
    (fun best x => if t < x.activate then best
      else match best with
        | none => some x
        | some b => if b.activate ≤ x.activate then some x else some b) none

/-- The key has expired at time `t` (17 R375). -/
def keyExpired (k : LinkKey) (t : Nat) : Bool := k.lifetime != 0 && decide (k.activate + k.lifetime ≤ t)

/-- The period key of R268. -/
def periodKey (k : BitVec 256) (t : Nat) : BitVec 256 :=
  Config.hmacSha256 k ([0x4A, 0x58, 0x50, 0x4B] ++ leBytes 8 (t / 2 ^ 49))

/-- The opcodes of tenant class (11 Table 11.2). -/
def tenantOp (op : Nat) : Bool := [0x01, 0x02, 0x03, 0x04, 0x23, 0x83, 0x84, 0xA3].contains op

/-- The opcodes of responses (11 Table 11.2, 15 Table 15.4, 16 Table 16.1); the other opcodes with 0x80 set are reserved. -/
def isResponse (op : Nat) : Bool :=
  op == 0x83 || op == 0x84 || (decide (0xA0 ≤ op) && decide (op ≤ 0xA3)) || (decide (0xA5 ≤ op) && decide (op ≤ 0xA9)) || op == 0xAB

/-- A status as the node takes one it receives: a code above 0x0F is ST_INTERNAL (00 R12). -/
def statusIn (st : Nat) : Nat := if 15 < st then stInternal else st

/-- The key that applies to a packet of the class and tenant at MSG_TIME `t`. -/
def packetKey (s : State) (op tenant t : Nat) : Option LinkKey :=
  if tenantOp op then ((slotOfTenant s tenant).map (·.2.keys)).bind (chooseKey · t) else chooseKey s.sec.fabric t

/-- A packet of this class and tenant carries ENC, or AUTH. -/
def packetEnc (s : State) (op tenant : Nat) : Bool := tenantOp op && isProtected s tenant
def packetAuth (s : State) (op : Nat) : Bool := !tenantOp op && fabricAuth s

/-! ## Packets -/

/-- The 64 header bytes as sent (Table 11.1), reserved bits zero. -/
def hdrBytes (h : JxHdr) : Bytes :=
  beBytes 1 (h.version.toNat * 16) ++ beBytes 1 h.opcode.toNat ++
  beBytes 1 (bitOf h.enc 7 + bitOf h.auth 6 + bitOf h.ceEcho 5) ++ [0] ++
  beBytes 3 h.src.toNat ++ [0] ++ beBytes 3 h.dst.toNat ++ [0] ++ beBytes 2 h.tenant.toNat ++
  beBytes 2 h.payloadLen.toNat ++ beBytes 4 h.msgId.toNat ++ beBytes 4 h.msgLen.toNat ++ beBytes 2 h.pktIndex.toNat ++
  beBytes 2 h.windowId.toNat ++ beBytes 2 h.windowGen.toNat ++ beBytes 6 h.offset.toNat ++ beBytes 4 h.immediate.toNat ++
  beBytes 8 h.msgTime.toNat ++ beBytes 4 h.epoch.toNat ++ List.replicate 12 0

/-- The 96-bit nonce of R268. -/
def nonceOf (h : JxHdr) : Bytes :=
  beBytes 12 (h.src.toNat * 2 ^ 72 + h.msgId.toNat * 2 ^ 40 + h.pktIndex.toNat * 2 ^ 29 + bits h.msgTime.toNat 48 20)

/-- An IPv4 address, held as ::ffff:a.b.c.d. -/
def isV4 (a : BitVec 128) : Bool := a.toNat / 2 ^ 32 == 0xFFFF

/-- The UDP source port of a path, which is the IPv6 flow label too (R239). -/
def pathPort (s : State) (path : Nat) : Nat := 0xC000 ||| (path * 256) ||| (myEndpoint s % 256)

/-- The DSCP of a packet (R239): by its partition class; a packet of no partition class (fabric class, ACK, NAK) goes as latency-critical
(DESIGN CHOICE, log 72). -/
def dscpOf (s : State) (part : Option (Nat × Bool)) : Nat :=
  match s.cfg.img, part with
  | some i, some (_, false) => i.dscpBe
  | some i, _ => i.dscpLc
  | none, some (_, false) => 0
  | none, _ => 46

/-- The IP and UDP headers of a packet (R239). -/
def dressPkt (s : State) (part : Option (Nat × Bool)) (p : Pkt) : Pkt :=
  { p with
    srcPort := BitVec.ofNat 16 (pathPort s p.path)
    dstPort := BitVec.ofNat 16 ((s.cfg.img.map (·.jxPort)).getD 27256)
    flow := if isV4 p.addr then none else some (BitVec.ofNat 20 (pathPort s p.path))
    dscp := BitVec.ofNat 6 (dscpOf s part)
    ecn := 2
    df := isV4 p.addr
    checksum := true }

/-- A packet sealed or tagged as R268 and R270 ask. -/
def sealPkt (s : State) (addr : BitVec 128) (path : Nat) (h : JxHdr) (payload : Bytes) : Pkt :=
  let op := h.opcode.toNat
  let t := h.msgTime.toNat
  let enc := packetEnc s op h.tenant.toNat
  let auth := packetAuth s op
  let h := { h with enc := enc, auth := auth }
  match packetKey s op h.tenant.toNat t with
  | none => { addr := addr, path := path, hdr := h, payload := payload, tag := none }
  | some k =>
    let pk := periodKey k.key t
    if enc then
      let ct := Config.gcmSeal pk (nonceOf h) (hdrBytes h) payload
      { addr := addr, path := path, hdr := h, payload := ct, tag := some (Config.gcmTag pk (nonceOf h) (hdrBytes h) ct) }
    else if auth then
      { addr := addr, path := path, hdr := h, payload := payload, tag := some (Config.gcmTag pk (nonceOf h) (hdrBytes h) []) }
    else { addr := addr, path := path, hdr := h, payload := payload, tag := none }

/-- Sizes are header, payload and tag (14 R317). -/
def pktSize (p : Pkt) : Nat := 64 + p.payload.length + (if p.tag.isSome then 16 else 0)

/-- The header of a packet. -/
def mkHdr (s : State) (op dst tenant msgId len idx plen window gen offset imm time epoch : Nat) : JxHdr :=
  { version := 1
    opcode := BitVec.ofNat 8 op
    enc := false
    auth := false
    ceEcho := false
    src := BitVec.ofNat 24 (myEndpoint s)
    dst := BitVec.ofNat 24 dst
    tenant := BitVec.ofNat 12 tenant
    payloadLen := BitVec.ofNat 14 plen
    msgId := BitVec.ofNat 32 msgId
    msgLen := BitVec.ofNat 25 len
    pktIndex := BitVec.ofNat 11 idx
    windowId := BitVec.ofNat 14 window
    windowGen := BitVec.ofNat 16 gen
    offset := BitVec.ofNat 48 offset
    immediate := BitVec.ofNat 32 imm
    msgTime := BitVec.ofNat 64 time
    epoch := BitVec.ofNat 32 epoch
    rsv := 0 }

/-! ## Ports, paths and queues -/

/-- The ports with link up. -/
def portsUp (s : State) : List Nat := (List.range 8).filter fun p => s.jx.portUp.getLsbD p

/-- The port of a path (R245): path mod n of the ports with link up. -/
def portOfPath (s : State) (path : Nat) : Option Nat :=
  let up := portsUp s
  up[path % up.length]?

/-- A path that is cooling is skipped for the next in ascending order (R245). -/
def usePath (s : State) (path : Nat) : Nat :=
  let n := pathCount s
  let cooled := fun p => match (tget {} s.jx.path p).cool with | some t => decide (now s < t) | none => false
  match (List.range n).find? fun i => !cooled ((path + i) % n) with
  | some i => (path + i) % n
  | none => path % n

/-- The path of packet `i` of a message on attempt `a` (R245). -/
def pathFor (s : State) (msgId i a : Nat) : Nat := usePath s ((msgId % 64 + i + a) % pathCount s)

/-- The egress queue of a port, partition and class (14 R319). -/
def eqNo (port part : Nat) (lc : Bool) : Nat := 128 * port + 2 * part + (if lc then 1 else 0)

/-- Queue `q`. -/
def eqOf (s : State) (q : Nat) : EgressQ := tget {} s.jx.eq q

/-- Put a packet in an egress queue: a retransmission goes ahead of the new packets (14 R319). -/
def joinEq (q : Nat) (p : QPkt) (s : State) : State :=
  let e := eqOf s q
  let pkts := if p.again then e.pkts.takeWhile (·.again) ++ [p] ++ e.pkts.dropWhile (·.again) else e.pkts ++ [p]
  { s with jx := { s.jx with eq := tput s.jx.eq q { e with pkts := pkts } } }

/-- Put a packet in a port's control queue. -/
def joinControl (port : Nat) (p : QPkt) (s : State) : State :=
  { s with jx := { s.jx with control := tset [] s.jx.control port (tget [] s.jx.control port ++ [p]) } }

/-- Queue a packet for sending, with its IP and UDP headers. `part` names the partition and class, none for the control queue. The node sends nothing before fabric
time is first LOCKED (R272), in BOOT_FAILED or FATAL (18 R397, R399), or with no link up. -/
def queuePkt (p : Pkt) (part : Option (Nat × Bool)) (again : Bool) (s : State) : State :=
  if !s.jx.locked || !awake s || s.cfg.phase == 8 || s.cfg.phase == 9 then s
  else match portOfPath s p.path with
    | none => s
    | some port =>
      let q : QPkt := ⟨dressPkt s part p, now s, again⟩
      match part with
      | none => joinControl port q s
      | some (n, lc) => joinEq (eqNo port n lc) q s

/-! ## Messages -/

/-- The packets of a message of `len` bytes (R243). -/
def pktCount (len : Nat) : Nat := max 1 (divUp len 8192)

/-- A fresh MSG_ID of a die (R244, R254): bits [1:0] name the die. -/
def takeMsgId (die : Nat) (s : State) : Nat × State :=
  let n := tget 0 s.jx.nextMsg die
  (n * 4 + die, { s with jx := { s.jx with nextMsg := tset 0 s.jx.nextMsg die ((n + 1) % 2 ^ 30) } })

/-- The address number (path mod N) of a list (R239). -/
def addrFor (addrs : List (BitVec 128)) (path : Nat) : BitVec 128 := (addrs[path % addrs.length]?).getD 0

/-- The addresses a message goes to. -/
def msgAddrs (s : State) (m : OutMsg) : List (BitVec 128) :=
  match endpointAddrs s m.dst with
  | some l => l
  | none => match m.addr with | some a => [a] | none => []

/-- Send packet `idx` of message `id` on attempt `a`; the first packet that leaves stamps MSG_TIME (R244). -/
def transmit (id idx a : Nat) (s : State) : State :=
  match tlook s.jx.out id with
  | none => s
  | some m =>
    let path := pathFor s id idx a
    let payload := (m.data.drop (8192 * idx)).take 8192
    let h := mkHdr s m.op m.dst m.tenant id m.data.length idx payload.length m.window m.gen m.offset m.imm
      ((m.time).getD (now s)) m.epoch
    let s := queuePkt (sealPkt s (addrFor (msgAddrs s m) path) path h payload) m.part (decide (a ≠ 0)) s
    let m := { m with time := some (m.time.getD (now s)), flight := tput m.flight idx ⟨a, now s, path⟩ }
    { s with jx := { s.jx with out := tput s.jx.out id m } }

/-- Payload bytes of packet `idx` of a message of `len` bytes. -/
def pktBytes (len idx : Nat) : Nat := min 8192 (len - 8192 * idx)

/-- The unacknowledged bytes sent to an endpoint (R262). -/
def unacked (s : State) (ep : Nat) : Nat :=
  s.jx.out.foldl (fun acc e => if e.2.dst = ep then e.2.flight.foldl (fun a f => a + pktBytes e.2.data.length f.1) acc else acc) 0

/-- The window W towards an endpoint. -/
def congOf (s : State) (ep : Nat) : Cong := tget {} s.jx.cong ep

/-- A packet of the message may still be sent: not later than MSG_TIME + 900 µs (R244). -/
def mayStillSend (m : OutMsg) (s : State) : Bool := decide (now s ≤ m.time.getD (now s) + 900000)

/-- Send the packets of message `id` that W admits; the others wait for JX_SEND_RESUME. -/
def pumpPkts (id : Nat) : List Nat → State → State
  | [], s => s
  | i :: rest, s =>
    match tlook s.jx.out id with
    | none => s
    | some m =>
      if mayStillSend m s = true ∧ unacked s m.dst + pktBytes m.data.length i ≤ (congOf s m.dst).w then
        let s := { s with jx := { s.jx with out := tput s.jx.out id { m with unsent := m.unsent.filter (· != i) } } }
        pumpPkts id rest (transmit id i 0 s)
      else s

/-- Messages of a die in flight (R262). -/
def inFlightOf (s : State) (die : Nat) : Nat := tcount s.jx.out fun id m => id % 4 == die && m.time.isSome

/-- Start message `id`, or go on with it, when its die has fewer than 4,096 in flight and its time has come: the packets that W admits leave. -/
def startMsg (id : Nat) (s : State) : State :=
  match tlook s.jx.out id with
  | none => s
  | some m =>
    if m.time.isNone && (decide (4096 ≤ inFlightOf s (id % 4)) || decide (now s < m.notBefore)) then s
    else pumpPkts id m.unsent s

/-- The die keeps its 4,096 messages in flight (R262): an action that needs a further one waits. -/
def sendFull (s : State) (die : Nat) : Bool := decide (4096 ≤ inFlightOf s die)

/-- What a send answers: the message's ID, or the status its action completes with. -/
inductive SendRes where
  | sent (id : Nat) | refused (status : Nat)
  deriving DecidableEq, Repr

/-- The keys allow a packet of this class now (17 R375): none when there is no key to hold to. -/
def keyFault (s : State) (op tenant : Nat) : Bool :=
  (packetEnc s op tenant || packetAuth s op) &&
    (match packetKey s op tenant (now s) with
     | none => true
     | some k => keyExpired k (now s))

/-- The state after a send that the keys refuse: an expired fabric key sets FABRIC_KEY_EXPIRED (17 R375). -/
def keyRefused (op : Nat) (s : State) : State := if tenantOp op then s else raise leafFabricKeyExpired [] s

/-- Send a message that is acknowledged or answered, from network die `die` (R244, R261). An endpoint absent from the table is refused
with ST_INTERNAL and JX_NO_ROUTE (R238), unless the message names an address. -/
def sendMsg (die : Nat) (m : OutMsg) (s : State) : SendRes × State :=
  if (msgAddrs s m).isEmpty then (.refused stInternal, raise (leafJxNoRoute die) [(28, 4, m.dst)] s)
  else if keyFault s m.op m.tenant then (.refused stTenantRevoked, keyRefused m.op s)
  else
    let (id, s) := takeMsgId die s
    let m := { m with unsent := List.range (pktCount m.data.length) }
    let s := { s with jx := { s.jx with out := tput s.jx.out id m } }
    (.sent id, startMsg id s)

/-- Send a message that nothing answers, once: a response, a notice (R248, R260). `src` is the address to use when the table names none. -/
def sendOnce (die op dst tenant imm epoch : Nat) (src : Option (BitVec 128)) (part : Option (Nat × Bool)) (data : Bytes)
    (s : State) : State :=
  let addrs := match endpointAddrs s dst with
    | some l => l
    | none => match src with | some a => [a] | none => []
  if addrs.isEmpty then s
  else if keyFault s op tenant then keyRefused op s
  else
    let (id, s) := takeMsgId die s
    (List.range (pktCount data.length)).foldl (fun s i =>
      let path := pathFor s id i 0
      let payload := (data.drop (8192 * i)).take 8192
      let h := mkHdr s op dst tenant id data.length i payload.length 0 0 0 imm (now s) epoch
      queuePkt (sealPkt s (addrFor addrs path) path h payload) part false s) s

/-- Send a notice on every port with link up, once (16 R348). -/
def sendAllPorts (die op dst : Nat) (data : Bytes) (s : State) : State :=
  match endpointAddrs s dst with
  | none => s
  | some addrs =>
    if keyFault s op 0 then keyRefused op s
    else
      let (id, s) := takeMsgId die s
      (portsUp s).foldl (fun s port =>
        let h := mkHdr s op dst 0 id data.length 0 data.length 0 0 0 0 (now s) 0
        let p := sealPkt s (addrFor addrs port) port h data
        joinControl port ⟨dressPkt s none p, now s, false⟩ s) s

/-- An ACK or NAK back to where a packet came from (R260, R264): to its source address, on its path. -/
def sendBack (op dst path : Nat) (addr : BitVec 128) (ce : Bool) (data : Bytes) (s : State) : State :=
  if keyFault s op 0 then keyRefused op s
  else
    let h := { mkHdr s op dst 0 0 data.length 0 data.length 0 0 0 0 (now s) 0 with ceEcho := ce }
    queuePkt (sealPkt s addr (usePath s path) h data) none false s

/-- The partition and class of a packet that no instance sends and that is not of fabric class: the lowest partition of the tenant's
mask, best-effort (log 19). -/
def tenantQueue (s : State) (tenant : Nat) : Option (Nat × Bool) :=
  match slotNo s tenant with
  | none => some (0, false)
  | some k => some ((findFrom 0 64 fun p => bitAt (tget 0 s.traffic.mask k) p).getD 0, false)

/-- The network die that sends what the control die asks for (log 20). -/
def ctlDie : Nat := 0

end Sys2Proof.Machine
end

