-- ==== Sys2Proof/Machine/Store.lean ====
section
/-! DEFINITION. The storage beneath the cache space: the ranges and the interleave function (04 R87-R94), the allocators (03
R66, R67; 05 R114, R116), the traverse walk over table nodes in memory (03 R58-R62) and reading and writing pages. -/

namespace Sys2Proof.Machine

/-! ## Ranges and interleave -/

/-- The four range fields of a region (04 Table 4.3), zero before CONFIGURE. -/
def rangesOf (s : State) (r : Nat) : Nat × Nat × Nat × Nat :=
  match s.cfg.img with
  | none => (0, 0, 0, 0)
  | some g =>
    let f := fun (i : Nat) => ((g.ranges[r]?).getD [])[i]?.getD 0
    (f 0, f 1, f 2, f 3)

/-- LOCAL_TOP of a region. -/
def localTop (s : State) (r : Nat) : Nat := (rangesOf s r).2.2.2

/-- STRIPED_TOP of a region. -/
def stripedTop (s : State) (r : Nat) : Nat := (rangesOf s r).2.1

/-- The channel and channel offset of a fast-tier offset (04 R89, R90). -/
def interleave (striped o : Nat) : Nat × Nat :=
  if o < striped then
    let c := o / 2048
    (c % 12, c / 12 * 2048 + o % 2048)
  else
    let j := (o - striped) / 2 ^ 18
    (j % 12, striped / 12 + j / 12 * 2 ^ 18 + o % 2 ^ 18)

/-- The channel (of 192) of cache address `a`. -/
def chanOf (s : State) (a : Nat) : Nat :=
  let r := a / 2 ^ 40
  r * 12 + (interleave (stripedTop s r) (a % 2 ^ 40)).1

/-- The device address of a channel offset (04 Table 4.4): byte, column, bank group, bank, row. -/
def deviceAddress (q : Nat) : Nat × Nat × Nat × Nat × Nat :=
  (bits q 4 0, bits q 10 5, bits q 12 11 ^^^ bits q 16 15, bits q 14 13 ^^^ bits q 18 17, bits q 30 15)

/-- The channel offset of the code line and the byte in it that hold the code of the line at `q`, in a coded share [qb, qt)
(04 R94). -/
def codeLine (qb qt q : Nat) : Nat × Nat := (qt - (qt - qb) / 32 + (q - qb) / 2048 * 64, bits q 10 6 * 2)

/-- A fast-tier offset lies in a line-coded range (04 R87). -/
def isCoded (s : State) (r o : Nat) : Bool :=
  let (a, b, c, _) := rangesOf s r
  decide (o < a) || (decide (b ≤ o) && decide (o < c))

/-- A fast-tier offset is channel-local (04 R87). -/
def isLocal (s : State) (r o : Nat) : Bool := decide (stripedTop s r ≤ o) && decide (o < localTop s r)

/-- The spans of a range that hold data, not code lines: for a striped range the first end; for a local coded range the first
channel offset above the data (04 R94). -/
def localDataEnd (s : State) (r : Nat) (coded : Bool) : Nat :=
  let (_, b, c, t) := rangesOf s r
  if coded then b / 12 + (c - b) / 12 - (c - b) / 12 / 32 else t / 12

/-! ## Allocation -/

/-- No store of `t` overlaps [a, a + n). -/
def spanFree (t : Tbl Store) (a n : Nat) : Bool :=
  !t.any fun e => decide (e.1 < a + n) && decide (a < e.1 + e.2.size)

/-- The cache address of channel offset `q` of channel `ch` (0-11) of region `r`: the inverse of `interleave` (04 R89, R90). -/
def chanAddr (s : State) (r ch q : Nat) : Nat :=
  let st := stripedTop s r
  r * 2 ^ 40 +
    (if q < st / 12 then (q / 2048 * 12 + ch) * 2048 + q % 2048
     else st + ((q - st / 12) / 2 ^ 18 * 12 + ch) * 2 ^ 18 + (q - st / 12) % 2 ^ 18)

/-- The line-coded shares [qb, qt) of a channel of region `r` (04 R87, R94): striped, then channel-local. -/
def codedShares (s : State) (r : Nat) : List (Nat × Nat) :=
  let (a, b, c, _) := rangesOf s r
  [(0, a / 12), (b / 12, b / 12 + (c - b) / 12)]

/-- The 2 KiB data chunks of a coded share: the top 1/32 holds code lines (04 R94). -/
def shareChunks (x : Nat × Nat) : Nat := ((x.2 - x.1) - (x.2 - x.1) / 32) / 2048

/-- The order of 05 R114: the span overlaps a name that a deep-held page keeps. -/
def nameUsed (s : State) (a n : Nat) : Bool :=
  s.sto.deepNames.any fun e => decide (e.1 < a + n) && decide (a < e.1 + e.2.2)

/-- The lowest free frame of `size` bytes among the channel-local frames of channel `ch` of region `r`, line-coded or plain as
asked; `aliased` admits names of deep-held pages. -/
def freeLocal (s : State) (r ch size : Nat) (coded aliased : Bool) : Option Nat :=
  match s.cfg.img with
  | none => none
  | some _ =>
  let (_, b, c, t) := rangesOf s r
  let lo := if coded then b else c
  let hi := if coded then c else t
  let per := 2 ^ 18 / size
  let j0 := (lo - b) / 2 ^ 18
  let at_ := fun i => (b + (((j0 / 12) * 12 + i / per * 12 + ch) * 2 ^ 18)) + i % per * size
  let good := fun i =>
    let o := at_ i
    decide (lo ≤ o) && decide (o + size ≤ hi) &&
      decide ((interleave b o).2 + size ≤ localDataEnd s r coded) &&
      spanFree s.sto.fast (r * 2 ^ 40 + o) size && (aliased || !nameUsed s (r * 2 ^ 40 + o) size)
  (findFrom 0 ((hi - lo) / 2 ^ 18 / 12 * per + per) good).map fun i => r * 2 ^ 40 + at_ i

/-- The lowest free striped span of `size` bytes of region `r`. -/
def freeStriped (s : State) (r size : Nat) (coded aliased : Bool) : Option Nat :=
  match s.cfg.img with
  | none => none
  | some _ =>
  let (a, b, _, _) := rangesOf s r
  let lo := if coded then 64 * 2 ^ 20 else alignUp size a
  let hi := if coded then a - a / 32 else b
  let good := fun i =>
    let o := lo + i * size
    decide (o + size ≤ hi) && spanFree s.sto.fast (r * 2 ^ 40 + o) size &&
      (aliased || !nameUsed s (r * 2 ^ 40 + o) size)
  (findFrom 0 ((hi - lo) / size + 1) good).map fun i => r * 2 ^ 40 + lo + i * size

/-- Region `r` is fenced. -/
def rgnFenced (s : State) (r : Nat) : Bool := (tget {} s.rgn r).fenced

/-- Record a unit of fast storage as in use. -/
def useFast (a size tenant : Nat) (u : StoreUse) (s : State) : State :=
  { s with sto := { s.sto with fast := tput s.sto.fast a ⟨size, u, tenant⟩ } }

/-- Record a unit of deep storage as in use. -/
def useDeep (a size tenant : Nat) (u : StoreUse) (s : State) : State :=
  { s with sto := { s.sto with deep := tput s.sto.deep a ⟨size, u, tenant⟩ } }

/-- What an allocation of a page frame found: the address, and whether the home region, the home channel and an unheld name were
left (03 R66, R67; 05 R114). -/
structure FrameFound where
  addr : Nat
  displaced : Bool
  chanDisplaced : Bool
  aliased : Bool

/-- Take `n` bytes at `a` that `good` allows: FRAME_ALIASED counts a span under a deep-held name (05 R114). -/
def noteAliased (a n : Nat) (s : State) : State := if nameUsed s a n then count (rgnCntOff (a / 2 ^ 40) 3) s else s

/-- A channel-local frame in region `r`: the home channel first, then the others in ascending order (03 R67), names under no live
page before names of deep-held pages (05 R114). The spec does not say which order wins where both leave a choice: the model tries unheld
names in every channel of the region before held names in the home channel (DESIGN CHOICE, log 56). -/
def findLocalIn (s : State) (r home size : Nat) (coded : Bool) : Option (Nat × Bool × Bool) :=
  let chans := (List.range 12).map fun i => (home + i) % 12
  match chans.findSome? fun ch => (freeLocal s r ch size coded false).map fun a => (a, decide (ch ≠ home)) with
  | some (a, d) => some (a, d, false)
  | none =>
    match chans.findSome? fun ch => (freeLocal s r ch size coded true).map fun a => (a, decide (ch ≠ home)) with
    | some (a, d) => some (a, d, true)
    | none => none

/-- The frame for a page: its home region, then the next regions in ascending order, wrapping, skipping fenced ones (03 R66). -/
def findPageFrame (s : State) (slot l g p size : Nat) (coded : Bool) : Option FrameFound :=
  let hr := homeRegion slot l g p
  let hc := homeChannel slot l g p
  ((List.range 16).map fun i => (hr + i) % 16).findSome? fun r =>
    if rgnFenced s r then none
    else (findLocalIn s r hc size coded).map fun (a, cd, al) => ⟨a, decide (r ≠ hr), cd, al⟩

/-- Take a page frame and count its displacement (03 R66, R67; 05 R114). The displacement counters are kept by the region that
gives the frame (CHANNEL_DISPLACED, FRAME_ALIASED) and by the page's home region (PAGE_DISPLACED). -/
def takePageFrame (f : FrameFound) (home size tenant : Nat) (u : StoreUse) (s : State) : State :=
  let r := f.addr / 2 ^ 40
  let s := useFast f.addr size tenant u s
  let s := if f.displaced then count (rgnCntOff home 1) s else s
  let s := if f.chanDisplaced then count (rgnCntOff r 23) s else s
  if f.aliased then count (rgnCntOff r 3) s else s

/-- A 4 KiB unit of the striped line-coded range of region `r` for a table node, placement array or deep table (03 R64). -/
def findUnit (s : State) (r : Nat) : Option Nat :=
  match freeStriped s r 4096 true false with
  | some a => some a
  | none => freeStriped s r 4096 true true

/-- Take the `size` bytes at `a` for the tables of sequence `slot`; they are zero when taken. -/
def takeZeroed (a size slot tenant : Nat) (s : State) : State :=
  let s := noteAliased a size s
  { useFast a size tenant (.node slot) s with mem := { s.mem with fast := memZero s.mem.fast a size } }

/-- Take `n` 4 KiB units in region `r` for sequence `slot`: their addresses, or none when the range has too few. The units are
zero when taken. -/
def takeUnits (r slot tenant n : Nat) (s : State) : Option (List Nat × State) :=
  (List.range n).foldl (fun acc _ =>
    match acc with
    | none => none
    | some (as, s) => (findUnit s r).map fun a => (as ++ [a], takeZeroed a 4096 slot tenant s)) (some ([], s))

/-- Take `n` consecutive 4 KiB units in region `r` for sequence `slot`, zero when taken: their address, or none. -/
def takeSpan (r slot tenant n : Nat) (s : State) : Option (Nat × State) :=
  let found := match freeStriped s r (n * 4096) true false with
    | some a => some a
    | none => freeStriped s r (n * 4096) true true
  found.map fun a => (a, takeZeroed a (n * 4096) slot tenant s)

/-- A sealed tenant's freed storage goes to the scrub list (17 R387); other storage is free at once. `sealed_` says which. -/
def releaseFast (sealed_ : Bool) (a : Nat) (s : State) : State :=
  match tlook s.sto.fast a with
  | none => s
  | some st =>
    if sealed_ then { s with sto := { s.sto with fast := tput s.sto.fast a { st with use := .scrub } } }
    else { s with sto := { s.sto with fast := tdel s.sto.fast a } }

/-- As `releaseFast`, for deep storage. -/
def releaseDeep (sealed_ : Bool) (a : Nat) (s : State) : State :=
  match tlook s.sto.deep a with
  | none => s
  | some st =>
    if sealed_ then { s with sto := { s.sto with deep := tput s.sto.deep a { st with use := .scrub } } }
    else { s with sto := { s.sto with deep := tdel s.sto.deep a } }

/-- Deep storage of `size` bytes on `port`, aligned to its size (05 R116). -/
def freeDeepOn (s : State) (port size : Nat) : Option Nat :=
  let t := tget {} s.tier port
  if t.inService = true then
    (findFrom 0 (t.capUsed * 2 ^ 30 / size) fun i => spanFree s.sto.deep (port * 2 ^ 41 + i * size) size).map
      fun i => port * 2 ^ 41 + i * size
  else none

/-- Deep storage for a page named in region `r`: TIER_(r mod 4), then the next ports in ascending order (05 R116); whether it was
displaced. -/
def findDeep (s : State) (r size : Nat) : Option (Nat × Bool) :=
  ((List.range 4).map fun i => (r + i) % 4).findSome? fun p =>
    (freeDeepOn s p size).map fun a => (a, decide (p ≠ r % 4))

/-! ## Sequences and translation -/

/-- The sequence record of `slot`. -/
def seqOf (s : State) (slot : Nat) : Seq := tget {} s.dir slot

/-- Write the entry of `slot`. -/
def setSeq (slot : Nat) (q : Seq) (s : State) : State := { s with dir := tset {} s.dir slot q }

/-- Stop a shift at its next atom boundary (03 Table 3.7): its commands at the channel units go. -/
def stopUnitJob (j : UnitJob) (s : State) : State :=
  let chan := tmap s.chan fun _ c =>
    { c with issued := c.issued.filter (fun u => u.job != j), queue := c.queue.filter (fun u => u.job != j)
             run := c.run.map fun r => if r.cmd.job = j then { r with todo := [] } else r }
  { s with chan := chan }

/-- A sequence enters RELEASING (03 Table 3.7): a load of it is abandoned, loads it serves end (16 R362). -/
def releaseSeq (slot : Nat) (s : State) : State :=
  let q := seqOf s slot
  let s := { s with datum := { s.datum with
    loadIn := s.datum.loadIn.filter (fun e => e.2.slot != some slot)
    loadOut := s.datum.loadOut.filter (fun e => e.2.slot != slot) } }
  let s := if q.st = .shifting then stopUnitJob (.shift slot) s else s
  setSeq slot { seqOf s slot with st := .releasing } s

/-- Release the sequences whose ranges have left this node's pairs, once idle and under no load (15 R330). -/
def sweepMoved (s : State) : State :=
  let ready := s.datum.released.filter fun k => (seqOf s k).inFlight == 0 && !tany s.datum.loadOut (fun _ l => l.slot == k)
  let s := { s with datum := { s.datum with released := s.datum.released.filter fun k => !ready.contains k } }
  ready.foldl (fun s k => if (seqOf s k).st = .free ∨ (seqOf s k).st = .releasing then s else releaseSeq k s) s

/-- One more command in progress on a sequence (03 Table 3.4). -/
def enterSeq (slot : Nat) (s : State) : State := setSeq slot { seqOf s slot with inFlight := (seqOf s slot).inFlight + 1 } s

/-- One command less; a sequence that waits for it is released (15 R330). -/
def leaveSeq (slot : Nat) (s : State) : State :=
  sweepMoved (setSeq slot { seqOf s slot with inFlight := (seqOf s slot).inFlight - 1 } s)

/-- The region whose slice holds `slot` (03 R52). -/
def dirRegion (slot : Nat) : Nat := slot / 16384

/-- The placement entry of tensor `ti` (layer · 4 + kind) of a sequence. -/
def tenOf (q : Seq) (ti : Nat) : Ten := tget {} q.ten ti

/-- Write a placement entry. -/
def setTen (slot ti : Nat) (t : Ten) (s : State) : State :=
  let q := seqOf s slot
  setSeq slot { q with ten := tset {} q.ten ti t } s

/-- The number of a tensor on the node. -/
def tenKey (slot ti : Nat) : Nat := slot * 1024 + ti

/-- An 8-byte table entry in the fast tier. -/
def entryAt (s : State) (a : Nat) : Nat := leNat (memRead s.mem.fast a 8)

/-- Write an 8-byte table entry. -/
def setEntry (a v : Nat) (s : State) : State := { s with mem := { s.mem with fast := memWrite s.mem.fast a (leBytes 8 v) } }

/-- The next node's address in a level-1 or level-2 entry (03 Table 3.3). -/
def nodeAddr (e : Nat) : Nat := bits e 43 12 * 4096

/-- A plain leaf entry that names the place an entry points to. -/
def mkBeyond (e : Nat) : Nat := bits e 43 14 * 2 ^ 14 + 1

/-- What a walk finds (03 R58, R61). -/
inductive Walk where
  | invalid
  | leaf (entry : Nat)
  deriving DecidableEq, Repr

/-- A node's address is no fast-tier memory (04 R88). -/
def nodeBeyond (s : State) (a : Nat) : Bool := s.cfg.img.isSome && decide (localTop s (a / 2 ^ 40) ≤ a % 2 ^ 40)

/-- Walk the three levels of a sequence's tables (03 R58), reading an entry at an address with `get`. An entry that points to no fast-tier
memory ends the walk as itself: a leaf that is malformed (04 R88, 03 R61). -/
def walkBy (s : State) (get : Nat → Nat) (slot sv : Nat) : Walk :=
  let q := seqOf s slot
  let (i1, i2, i3) := walkIdx q.desc sv
  let e1 := get (q.root + 8 * i1)
  if !bitAt e1 0 then .invalid
  else if nodeBeyond s (nodeAddr e1) then .leaf (mkBeyond e1)
  else
    let e2 := get (nodeAddr e1 + 8 * i2)
    if !bitAt e2 0 then .invalid
    else if nodeBeyond s (nodeAddr e2) then .leaf (mkBeyond e2)
    else
      let e3 := entryAt s (nodeAddr e2 + 8 * i3)
      if bitAt e3 0 then .leaf e3 else .invalid

/-- Walk the tables in memory. -/
def walk (s : State) (slot sv : Nat) : Walk := walkBy s (entryAt s) slot sv

/-- The leaf entry of page `idx` of tensor `ti`. -/
def leafOf (s : State) (slot ti idx : Nat) : Walk := walk s slot (svAddr (seqOf s slot).desc (ti / 4) (ti % 4) idx)

/-- The frame address of a leaf entry (03 Table 3.3). -/
def leafFrame (e : Nat) : Nat := bits e 43 14 * 2 ^ 14

/-- LOCAL and DELTA of a leaf entry. -/
def leafLocal (e : Nat) : Bool := bitAt e 1
def leafDelta (e : Nat) : Bool := bitAt e 2

/-- A leaf entry with VALID set. -/
def mkLeaf (frame : Nat) (local_ delta : Bool) : Nat := frame + 1 + bitOf local_ 1 + bitOf delta 2

/-- Fill the missing nodes on the way to the leaf of `sv` and return its address: none when no unit is free (03 R64). -/
def leafSlot (slot sv : Nat) (s : State) : Option (Nat × State) :=
  let q := seqOf s slot
  let r := dirRegion slot
  let (i1, i2, i3) := walkIdx q.desc sv
  let a1 := q.root + 8 * i1
  let step1 : Option State :=
    if bitAt (entryAt s a1) 0 then some s
    else match takeUnits r slot q.tenant 1 s with
      | some ([n], s) => some (setEntry a1 (n + 1) s)
      | _ => none
  match step1 with
  | none => none
  | some s =>
    let a2 := nodeAddr (entryAt s a1) + 8 * i2
    let step2 : Option State :=
      if bitAt (entryAt s a2) 0 then some s
      else match takeUnits r slot q.tenant 1 s with
        | some ([n], s) => some (setEntry a2 (n + 1) s)
        | _ => none
    match step2 with
    | none => none
    | some s => some (nodeAddr (entryAt s a2) + 8 * i3, s)

/-- Write the leaf of a page whose nodes exist, or make them; none when a node cannot be had. -/
def setLeaf (slot ti idx leaf : Nat) (s : State) : Option State :=
  (leafSlot slot (svAddr (seqOf s slot).desc (ti / 4) (ti % 4) idx) s).map fun (a, s) => setEntry a leaf s

/-- Invalidate one page of a slot in every TLB (03 R62). -/
def tlbDropPage (slot vpn : Nat) (s : State) : State :=
  { s with tlb := s.tlb.filter fun e => !(decide (e.unit < 144) && e.slot == slot && e.vpn == vpn) }

/-- Invalidate every entry of a slot (03 R63). -/
def tlbDropSlot (slot : Nat) (s : State) : State := { s with tlb := s.tlb.filter fun e => e.slot != slot }

/-- The sequence-virtual page number that tags a TLB entry (03 R60). -/
def vpnOf (d : Bytes) (ti idx : Nat) : Nat := svAddr d (ti / 4) (ti % 4) idx / dPageSize d

/-- Put a translation at the front of a TLB of `sets` sets and `ways` ways; the least recently used entry of the set goes (03 R60;
the set index is the low bits of the page number, log 16). -/
def tlbFill (unit sets ways slot vpn leaf : Nat) (t : List TlbEnt) : List TlbEnt :=
  let mine := fun (e : TlbEnt) => e.unit == unit && e.vpn % sets == vpn % sets
  let old := t.filter fun e => mine e && !(e.slot == slot && e.vpn == vpn)
  let keep := old.take (ways - 1)
  ⟨unit, slot, vpn, leaf⟩ :: (keep ++ t.filter fun e => !mine e)

/-- The unit number of a region's walker among the translation caches: 256 entries of level-1 and level-2 tables, by their address (03 R60;
the least recently used entry goes, log 16). -/
def walkerUnit (region : Nat) : Nat := 144 + region

/-- A table entry as the region's walker reads it: from its cache, else from memory. -/
def walkerGet (s : State) (region slot a : Nat) : Nat :=
  match s.tlb.find? fun e => e.unit == walkerUnit region && e.slot == slot && e.vpn == a with
  | some e => e.leaf
  | none => entryAt s a

/-- The walker keeps the level-1 and level-2 entries of a walk that are VALID. -/
def walkerFill (region slot sv : Nat) (s : State) : State :=
  let q := seqOf s slot
  let (i1, i2, _) := walkIdx q.desc sv
  let a1 := q.root + 8 * i1
  let e1 := walkerGet s region slot a1
  let a2 := nodeAddr e1 + 8 * i2
  let e2 := walkerGet s region slot a2
  if bitAt e1 0 then
    let t := tlbFill (walkerUnit region) 1 256 slot a1 e1 s.tlb
    { s with tlb := if bitAt e2 0 then tlbFill (walkerUnit region) 1 256 slot a2 e2 t else t }
  else s

/-- A walk by the region's walker, which keeps the level-1 and level-2 entries it read (03 R60). -/
def walkIn (region slot sv : Nat) (s : State) : Walk × State :=
  (walkBy s (walkerGet s region slot) slot sv, walkerFill region slot sv s)

/-- A translation through the TLB of block `block` of the node, the region's TLB, then the walk; the filled TLBs (03 R60). -/
def translate (slot vpn sv region block : Nat) (s : State) : Walk × State :=
  let hit := fun u => s.tlb.find? fun e => e.unit == u && e.slot == slot && e.vpn == vpn
  match hit (16 + block) with
  | some e => (.leaf e.leaf, { s with tlb := tlbFill (16 + block) 256 4 slot vpn e.leaf s.tlb })
  | none =>
    match hit region with
    | some e =>
      let t := tlbFill (16 + block) 256 4 slot vpn e.leaf (tlbFill region 2048 8 slot vpn e.leaf s.tlb)
      (.leaf e.leaf, { s with tlb := t })
    | none =>
      match walkIn region slot sv s with
      | (.invalid, s) => (.invalid, s)
      | (.leaf e, s) =>
        let t := tlbFill (16 + block) 256 4 slot vpn e (tlbFill region 2048 8 slot vpn e s.tlb)
        (.leaf e, { s with tlb := t })

/-! ## Pages -/

/-- The pages, in ascending order, that tokens [0, n) of every head group touch. -/
def pagesBelow (d : Bytes) (n : Nat) : List Nat :=
  (List.range (dGroups d)).flatMap fun g =>
    (List.range ((n + dTokens d - 1) / dTokens d)).map fun p => pageIdx d g p

/-- The pages of a tensor that have a leaf: those that hold tokens below C + 64 (03 R57: a page gets its frame with its first
token). -/
def livePages (s : State) (slot ti : Nat) : List (Nat × Nat) :=
  let q := seqOf s slot
  (pagesBelow q.desc (min (dMaxTokens q.desc) (q.committed + 64))).filterMap fun idx =>
    match leafOf s slot ti idx with
    | .leaf e => some (idx, e)
    | .invalid => none

/-- The page is full and wholly below `n` tokens. -/
def pageBelow (d : Bytes) (idx n : Nat) : Bool := decide ((idx % dPages d + 1) * dTokens d ≤ n)

/-- The tensors a sequence has registered: their indices. -/
def tensOf (q : Seq) : List Nat := (q.ten.filter fun e => e.2.st != .absent).map (·.1)

/-- The bytes of a plain page at fast-tier name `a`. -/
def fastPage (s : State) (a size : Nat) : Bytes := memRead s.mem.fast a size

/-- Write bytes at a fast-tier name. -/
def writeFast (a : Nat) (bs : Bytes) (s : State) : State := { s with mem := { s.mem with fast := memWrite s.mem.fast a bs } }

/-- Write bytes to deep storage. -/
def writeDeep (a : Nat) (bs : Bytes) (s : State) : State := { s with mem := { s.mem with deep := memWrite s.mem.deep a bs } }

/-- Set DIRTY on a page whose deep copy is VALID (05 R119). -/
def dirtyPage (slot ti idx : Nat) (s : State) : State :=
  let t := tenOf (seqOf s slot) ti
  let e := tget {} t.deep idx
  if e.valid then setTen slot ti { t with deep := tset {} t.deep idx { e with dirty := true } } s else s

/-- The weir of partition `p` (14 R309). -/
def weirOf (s : State) (p : Nat) : Weir := tget {} s.traffic.weir p

/-! ## Weir read buckets (14 R310), in 1/16000 byte -/

/-- The depth of a region's bucket. -/
def readDepth (w : Weir) : Nat := w.burst * 1024 * 1000

/-- The bucket of region `r` and partition `p`, refilled to now: full when it has not been used. -/
def readTokens (s : State) (r p : Nat) : Nat :=
  let w := weirOf s p
  match tlook s.traffic.read (r * 64 + p) with
  | none => readDepth w
  | some b => min (readDepth w) (b.tokens + (now s - b.at_) * w.rate)

/-- The bucket of a region and partition after a read. -/
def setTokens (r p v : Nat) (s : State) : State :=
  { s with traffic := { s.traffic with read := tput s.traffic.read (r * 64 + p) ⟨v, now s⟩ } }

end Sys2Proof.Machine
end

