-- ==== Sys2Proof/Machine/Crypt.lean ====
section
/-! DEFINITION. Memory encryption (17 R378): what the region's memory port does to the pages and windows of protected tenants, and
window memory (12 R290). -/

namespace Sys2Proof.Machine

/-- The tweak of the line at cache address `a` (17 Table 17.5). -/
def tweakOf (k : KeySlot) (a : Nat) : BitVec 128 :=
  BitVec.ofNat 128 (bits a 43 6 + k.memGen * 2 ^ 38 + k.tenant * 2 ^ 54)

/-- Split a byte string in lines of 64 bytes. -/
def linesOf (bs : Bytes) : List Bytes := (List.range (divUp bs.length 64)).map fun i => (bs.drop (64 * i)).take 64

/-- The key slot whose keys encrypt a tenant's memory: none for a tenant that is not protected. -/
def memKeys (s : State) (tenant : Nat) : Option KeySlot :=
  match slotOfTenant s tenant with
  | some (_, k) => if k.prot then some k else none
  | none => none

/-- Stored bytes of whole lines named from `name`, as the port delivers them. -/
def plainOf (s : State) (tenant name : Nat) (stored : Bytes) : Bytes :=
  match memKeys s tenant with
  | none => stored
  | some k => (linesOf stored).zipIdx.flatMap fun e =>
      padTo 64 (Config.xtsDec k.memKey1 k.memKey2 (tweakOf k (name + 64 * e.2)) e.1)

/-- The bytes the port stores for whole lines named from `name`. -/
def storedOf (s : State) (tenant name : Nat) (plain : Bytes) : Bytes :=
  match memKeys s tenant with
  | none => plain
  | some k => (linesOf plain).zipIdx.flatMap fun e =>
      padTo 64 (Config.xtsEnc k.memKey1 k.memKey2 (tweakOf k (name + 64 * e.2)) e.1)

/-- Read `n` bytes at fast-tier address `a` for a tenant. -/
def readFast (s : State) (tenant a n : Nat) : Bytes :=
  match memKeys s tenant with
  | none => memRead s.mem.fast a n
  | some _ =>
    let lo := a / 64 * 64
    let hi := alignUp 64 (a + n)
    slice (plainOf s tenant lo (memRead s.mem.fast lo (hi - lo))) (a - lo) n

/-- Write bytes at fast-tier address `a` for a tenant: partial lines are merged (11 R246). -/
def writeFastFor (tenant a : Nat) (bs : Bytes) (s : State) : State :=
  match memKeys s tenant with
  | none => writeFast a bs s
  | some _ =>
    let lo := a / 64 * 64
    let hi := alignUp 64 (a + bs.length)
    let old := plainOf s tenant lo (memRead s.mem.fast lo (hi - lo))
    writeFast lo (storedOf s tenant lo (put old (a - lo) bs)) s

/-! ## Windows -/

/-- Descriptor `id`. -/
def winOf (s : State) (id : Nat) : Window := tget {} s.slu.win id

/-- Write descriptor `id`. -/
def setWin (id : Nat) (w : Window) (s : State) : State := { s with slu := { s.slu with win := tset {} s.slu.win id w } }

/-- GEN of a descriptor (11 R253): the generation drawn at the last reset, plus 1 for each return to FREE. -/
def winGen (s : State) (id : Nat) : Nat := ((Config.windowGen s.resets id).toNat + (winOf s id).bumps) % 65536

/-- The segments of window bytes [off, off + n) as (cache address, bytes). -/
def winSegs (w : Window) : Nat → Nat → Nat → List (Nat × Nat)
  | 0, _, _ => []
  | fuel + 1, off, n =>
    if n = 0 then []
    else
      let k := min n (65536 - off % 65536)
      match w.frames[off / 65536]? with
      | none => []
      | some f => (f + off % 65536, k) :: winSegs w fuel (off + k) (n - k)

/-- Read window bytes. -/
def winRead (s : State) (id off n : Nat) : Bytes :=
  let w := winOf s id
  padTo n ((winSegs w (n / 65536 + 2) off n).flatMap fun e => readFast s w.tenant e.1 e.2)

/-- Place bytes in a window. -/
def winWrite (id off : Nat) (bs : Bytes) (s : State) : State :=
  let w := winOf s id
  ((winSegs w (bs.length / 65536 + 2) off bs.length).foldl
    (fun (acc : State × Bytes) e => (writeFastFor w.tenant e.1 (acc.2.take e.2) acc.1, acc.2.drop e.2)) (s, bs)).1

/-- A free 64 KiB frame in region `r`, an unheld name first. -/
def findWinFrame (s : State) (r : Nat) : Option Nat :=
  match freeStriped s r 65536 true false with
  | some a => some a
  | none => freeStriped s r 65536 true true

/-- Take `n` 64 KiB frames in region `r`: none when it has too few. -/
def takeWinFrames (r id tenant n : Nat) (s : State) : Option (List Nat × State) :=
  (List.range n).foldl (fun acc _ =>
    match acc with
    | none => none
    | some (as, s) => (findWinFrame s r).map fun a => (as ++ [a], useFast a 65536 tenant (.window id) (noteAliased a 65536 s))) (some ([], s))

/-- Backing for a window of `len` bytes: the lowest-numbered region in service with enough free frames (12 R290). -/
def takeBacking (id tenant len : Nat) (s : State) : Option (List Nat × State) :=
  (List.range 16).findSome? fun r => if rgnFenced s r then none else takeWinFrames r id tenant (divUp len 65536) s

/-- Open the lowest-numbered FREE descriptor (12 R290), its bytes zero: the ID, or none with no descriptor or memory. -/
def openWindow (kind tenant len : Nat) (s : State) : Option (Nat × State) :=
  match findFrom 0 16384 fun i => (winOf s i).st == .free with
  | none => none
  | some id =>
    match takeBacking id tenant len s with
    | none => none
    | some (frames, s) =>
      let s := setWin id { winOf s id with st := .active, kind := kind, tenant := tenant, length := len, frames := frames } s
      some (id, frames.foldl (fun s f => writeFastFor tenant f (List.replicate 65536 0) s) s)

/-! ## Line codes (04 R93, R94, R103) -/

/-- The line code of the line at cache address `a`. Whoever writes a line of a coded range writes its code from the same data (R93, R103; 05 R120; 13
R297), so the code is this function of the line and not a second copy of state (log 8). -/
def lineCodeOf (s : State) (a : Nat) : BitVec 16 :=
  Config.lineCode (memRead s.mem.fast (a / 64 * 64) 64) ((interleave (stripedTop s (a / 2 ^ 40)) (a % 2 ^ 40)).2 / 64)

/-- The byte of a code line that lies at cache address `a` (R94): none where no code line lies. -/
def codeByte (s : State) (a : Nat) : Option Byte :=
  let r := a / 2 ^ 40
  let x := interleave (stripedTop s r) (a % 2 ^ 40)
  match (codedShares s r).find? fun y => decide (y.2 - (y.2 - y.1) / 32 ≤ x.2) && decide (x.2 < y.2) with
  | none => none
  | some y =>
    let n := x.2 - (y.2 - (y.2 - y.1) / 32)
    let code := lineCodeOf s (chanAddr s r x.1 (y.1 + n / 64 * 2048 + n % 64 / 2 * 64))
    some (BitVec.ofNat 8 (code.toNat / 2 ^ (8 * (n % 2))))

/-! ## Pages -/

/-- A plain page of a sequence in the fast tier, as the port delivers it: `name` is its frame. -/
def pageFast (s : State) (tenant name size : Nat) : Bytes := readFast s tenant name size

/-- A page whose deep copy is at `d`, under its name. -/
def pageDeep (s : State) (tenant name d size : Nat) : Bytes := plainOf s tenant name (memRead s.mem.deep d size)

end Sys2Proof.Machine
end

