-- ==== Sys2Proof/Machine/DeltaCode.lean ====
section
/-! DEFINITION. The coded form of delta pages (10 R223-R227, R232, R233) and reading a page in plain form from the tier and form that
holds it (05 R113, R117; 10 R230). -/

namespace Sys2Proof.Machine

/-! ## Code tables (10 R225). Symbols: 0 is Z, 1 is C0, j + 1 is Cj. -/

/-- Code-word length by rank of pattern `p` (Table 10.3). -/
def patternLens (p : Nat) : List Nat :=
  match p with
  | 0 => [1, 2, 3, 4, 5, 6, 7, 8, 9, 9]
  | 1 => [1, 3, 3, 4, 4, 5, 5, 5, 6, 6]
  | 2 => [2, 2, 3, 3, 4, 4, 5, 5, 5, 5]
  | _ => [3, 3, 3, 3, 3, 3, 4, 4, 4, 4]

/-- Symbol by rank of ordering `o` (Table 10.4). -/
def ordering (o : Nat) : List Nat :=
  match o with
  | 0 => [0, 1, 2, 3, 4, 5, 6, 7, 8, 9]
  | 1 => [1, 0, 2, 3, 4, 5, 6, 7, 8, 9]
  | 2 => [2, 3, 1, 4, 0, 5, 6, 7, 8, 9]
  | _ => [4, 5, 3, 6, 2, 7, 1, 8, 0, 9]

/-- A code word: symbol, length, bits as a number. -/
structure Word where
  sym : Nat
  len : Nat
  word : Nat
  deriving DecidableEq, Repr

/-- Assign words in order of length: each is the previous word plus one, shifted left by the increase in length. -/
def assign : Option (Nat × Nat) → List (Nat × Nat) → List Word
  | _, [] => []
  | none, (sym, len) :: rest => ⟨sym, len, 0⟩ :: assign (some (len, 0)) rest
  | some (l, w), (sym, len) :: rest =>
    let w' := (w + 1) * 2 ^ (len - l)
    ⟨sym, len, w'⟩ :: assign (some (len, w')) rest

/-- The canonical code of lengths by rank and an ordering. -/
def canonical (lens order : List Nat) : List Word := assign none (sortBy (·.2) (List.zip order lens))

/-- Code table `t`. -/
def codeTable (t : Nat) : List Word := canonical (patternLens (t / 4)) (ordering (t % 4))

/-- Lengths 1 or more that make a complete prefix code: the Kraft sum is exactly 1. -/
def completeCode (lens : List Nat) : Bool :=
  lens.all (fun l => decide (0 < l)) && (lens.foldl (fun a l => a + 2 ^ (16 - l)) 0 == 2 ^ 16)

/-! ## Coding a chunk (10 R224, R226) -/

/-- A symbol with its extra bits: their number and value. -/
structure Sym where
  sym : Nat
  n : Nat
  v : Nat
  deriving DecidableEq, Repr

/-- The symbols of a run of `n` zero bytes: Z symbols of 257 from the front, then the rest. -/
def zeroSyms : Nat → Nat → List Sym
  | 0, _ => []
  | fuel + 1, n =>
    if n = 0 then []
    else if n = 1 then [⟨1, 0, 0⟩]
    else let k := min n 257; ⟨0, 8, k - 2⟩ :: zeroSyms fuel (n - k)

/-- The symbol of a non-zero byte. -/
def byteSym (v : Nat) : Sym := let j := Nat.log2 v + 1; ⟨j + 1, j - 1, v - 2 ^ (j - 1)⟩

/-- The symbols of a chunk; `run` zero bytes are waiting. -/
def chunkSyms (run : Nat) : Bytes → List Sym
  | [] => zeroSyms (run + 1) run
  | b :: bs => if b = 0 then chunkSyms (run + 1) bs else zeroSyms (run + 1) run ++ byteSym b.toNat :: chunkSyms 0 bs

/-- The word of a symbol. -/
def wordFor (t : List Word) (sym : Nat) : Word := (t.find? fun w => w.sym == sym).getD ⟨sym, 0, 0⟩

/-- `n` bits of `v`, most significant first. -/
def msbBits (n v : Nat) : List Bool := (List.range n).map fun i => bitAt v (n - 1 - i)

/-- The bits of symbols under a table. -/
def symBits (t : List Word) (l : List Sym) : List Bool :=
  l.flatMap fun x => let w := wordFor t x.sym; msbBits w.len w.word ++ msbBits x.n x.v

/-- How many bits symbols take under a table. -/
def symCost (t : List Word) (l : List Sym) : Nat := l.foldl (fun a x => a + (wordFor t x.sym).len + x.n) 0

/-- The table that gives the fewest bits, the lowest among equals. -/
def bestTable (l : List Sym) : Nat :=
  ((List.range 16).foldl (fun (best : Nat × Nat) t =>
    let c := symCost (codeTable t) l
    if c < best.2 then (t, c) else best) (0, symCost (codeTable 0) l)).1

/-- Bits to bytes, bit 7 first. -/
def packBits : Nat → List Bool → Bytes
  | 0, _ => []
  | fuel + 1, l =>
    if l.isEmpty then []
    else BitVec.ofNat 8 ((List.range 8).foldl (fun a i => a * 2 + (if (l[i]?).getD false then 1 else 0)) 0) :: packBits fuel (l.drop 8)

/-- One coded chunk: its directory entry and bytes. -/
def codeChunk (delta : Bytes) : Nat × Bytes :=
  if delta.all (· == 0) then (bitOf true 5, [])
  else
    let syms := chunkSyms 0 delta
    let t := bestTable syms
    let bytes := packBits 2048 (symBits (codeTable t) syms)
    let bytes := padTo (alignUp 8 bytes.length) bytes
    if 2048 ≤ bytes.length then (bitOf true 4 + 2048 * 64, delta) else (t + bytes.length * 64, bytes)

/-- USED_LEN of a page of kind `k` (R223). -/
def usedLen (d : Bytes) (k : Nat) : Nat := alignUp 2048 (areaBytes d k)

/-- The byte-wise XOR of two byte strings over `n` bytes. -/
def xorBytes (n : Nat) (a b : Bytes) : Bytes := (List.range n).map fun i => byteAt a i ^^^ byteAt b i

/-- The coded page (R226, R227). -/
def encodePage (page base : Bytes) (used baseRef : Nat) : Bytes :=
  let n := used / 2048
  let delta := xorBytes used page base
  let chunks := (List.range n).map fun i => codeChunk (slice delta (2048 * i) 2048)
  let dir := padTo (alignUp 64 (4 * n)) (chunks.flatMap fun c => leBytes 4 c.1)
  let body := chunks.flatMap (·.2)
  let len := 64 + dir.length + body.length
  let digest := beBytes 32 (Config.sha256 (base.take used)).toNat
  leBytes 1 1 ++ [0] ++ leBytes 2 n ++ leBytes 4 used ++ leBytes 4 baseRef ++ leBytes 4 len ++ digest ++ List.replicate 16 0 ++
    dir ++ body

/-! ## Decoding (10 R224, R232, R233) -/

/-- The bits of bytes, bit 7 first. -/
def bitsOf (b : Bytes) : List Bool := b.flatMap fun x => msbBits 8 x.toNat

/-- Take one code word off a bit string. -/
def takeWord (t : List Word) (l : List Bool) : Option (Nat × List Bool) :=
  t.findSome? fun w => if l.take w.len == msbBits w.len w.word && decide (w.len ≤ l.length) then some (w.sym, l.drop w.len) else none

/-- The number that bits spell, most significant first. -/
def bitsNat (l : List Bool) : Nat := l.foldl (fun a b => a * 2 + (if b then 1 else 0)) 0

/-- Decode a chunk: `left` bytes are still to come; the rest of the bits must be zero. -/
def decodeBits (t : List Word) : Nat → Nat → List Bool → Option Bytes
  | 0, _, _ => none
  | fuel + 1, left, l =>
    if left = 0 then (if l.all (!·) then some [] else none)
    else match takeWord t l with
      | none => none
      | some (sym, l) =>
        let n := if sym = 0 then 8 else sym - 2
        if l.length < n then none
        else
          let v := bitsNat (l.take n)
          let out : Bytes := if sym = 0 then List.replicate (v + 2) 0 else if sym = 1 then [0]
            else [BitVec.ofNat 8 (2 ^ (sym - 2) + v)]
          if left < out.length then none
          else (decodeBits t fuel (left - out.length) (l.drop n)).map (out ++ ·)

/-- Decode the chunks of a coded page in turn, from offset `off`. -/
def decodeChunks (coded : Bytes) (compat : Option (List Word)) : Nat → Nat → Nat → Option Bytes
  | 0, _, _ => some []
  | n + 1, i, off =>
    let e := rd coded (64 + 4 * i) 4
    let len := bits e 17 6
    let raw := bitAt e 4
    let zero := bitAt e 5
    if bits e 31 18 != 0 || decide (2048 < len) || len % 8 != 0 || (zero && len != 0) || (raw && len != 2048) ||
        (compat.isSome && bits e 5 0 != 0) then none
    else
      let body := slice coded off len
      let t := match compat with | some t => t | none => codeTable (bits e 3 0)
      let chunk := if zero then some (List.replicate 2048 (0 : Byte)) else if raw then some body
        else decodeBits t 2049 2048 (bitsOf body)
      match chunk with
      | none => none
      | some c => (decodeChunks coded compat n (i + 1) (off + len)).map (c ++ ·)

/-- Decode a coded page against its base: none is DELTA_CORRUPT (R232). -/
def decodePage (coded base : Bytes) : Option Bytes :=
  let n := rd coded 2 2
  let used := rd coded 4 4
  let compat := bitAt (rd coded 0 1) 4
  let lens := (List.range 10).map fun r => bits (rd coded 48 5) (4 * r + 3) (4 * r)
  if bits (rd coded 0 1) 3 0 != 1 || bits (rd coded 0 1) 7 5 != 0 || rd coded 1 1 != 0 || decide (128 < n) || decide (n < 1) ||
      used != 2048 * n || !zeroAt coded 53 11 || (!compat && !zeroAt coded 48 5) || (compat && !completeCode lens) ||
      slice coded 16 32 != beBytes 32 (Config.sha256 (base.take used)).toNat then none
  else
    let t := if compat then some (canonical lens (ordering 0)) else none
    (decodeChunks coded t n 0 (64 + alignUp 64 (4 * n))).map fun delta => xorBytes used delta base

/-! ## Reading a page in plain form -/

/-- What a read of a page gives. -/
inductive PageGet where
  | noPage | malformed | corrupt | ok (page : Bytes)
  deriving DecidableEq, Repr

/-- The deep page-table entry of a page. -/
def deepEnt (t : Ten) (idx : Nat) : DeepEnt := tget {} t.deep idx

/-- The address of a deep copy in the deep memory. -/
def deepAddr (e : DeepEnt) : Nat := e.port * 2 ^ 41 + e.dpa

/-- The page is read from its deep copy (05 R117). -/
def readsDeep (t : Ten) (idx : Nat) : Bool :=
  let e := deepEnt t idx
  match t.st with
  | .deep => e.valid
  | .migrating => !t.toDeep && e.valid && !e.dirty
  | _ => false

/-- A delta name's locator entry: region · 2^18 + entry (10 R228). -/
def locKey (name : Nat) : Nat := name / 2 ^ 40 * 2 ^ 18 + (name % 2 ^ 40 - 2 ^ 39) / 2 ^ 18

/-- The delta name of a locator entry. -/
def deltaName (key : Nat) : Nat := key / 2 ^ 18 * 2 ^ 40 + 2 ^ 39 + key % 2 ^ 18 * 2 ^ 18

/-- The base-reference key of a BASE_REF field: region · 2^13 + entry. -/
def baseKey (ref : Nat) : Nat := ref % 2 ^ 17

/-- A leaf is malformed (03 R61, 04 R88). -/
def leafMalformed (s : State) (d : Bytes) (e : Nat) : Bool :=
  let a := leafFrame e
  let r := a / 2 ^ 40
  let o := a % 2 ^ 40
  if leafDelta e then decide (o < 2 ^ 39)
  else a % dPageSize d != 0 || leafLocal e != isLocal s r o || decide (localTop s r ≤ o)

/-- The coded bytes of a delta page, from the tier that holds it. -/
def codedBytes (s : State) (t : Ten) (idx name : Nat) : Bytes :=
  match tlook s.sto.loc (locKey name) with
  | none => []
  | some l => if readsDeep t idx then memRead s.mem.deep (deepAddr (deepEnt t idx)) l.codedLen
      else memRead s.mem.fast l.first l.codedLen

/-- A page of a sequence in plain form under leaf entry `e` (05 R117, 10 R230). -/
def pageUnder (s : State) (slot ti idx e : Nat) : PageGet :=
  let q := seqOf s slot
  let t := tenOf q ti
  let size := dPageSize q.desc
  let name := leafFrame e
  if t.st = .absent then .noPage
  else if leafMalformed s q.desc e then .malformed
  else if leafDelta e then
    let coded := codedBytes s t idx name
    match tlook s.sto.baseRef (baseKey (rd coded 8 4)) with
    | none => .corrupt
    | some b =>
      match decodePage coded (memRead s.mem.fast b.frame size) with
      | none => .corrupt
      | some p => .ok (padTo size p)
  else if readsDeep t idx then .ok (pageDeep s q.tenant name (deepAddr (deepEnt t idx)) size)
  else .ok (pageFast s q.tenant name size)

/-- A page of a sequence in plain form. -/
def getPage (s : State) (slot ti idx : Nat) : PageGet :=
  match leafOf s slot ti idx with
  | .invalid => .noPage
  | .leaf e => pageUnder s slot ti idx e

/-- A page's bytes, zero where it cannot be read. -/
def pageOrZero (s : State) (slot ti idx : Nat) : Bytes :=
  match getPage s slot ti idx with
  | .ok p => p
  | _ => List.replicate (dPageSize (seqOf s slot).desc) 0

end Sys2Proof.Machine
end

