-- ==== Sys2Proof/Machine/Entries.lean ====
section
/-! DEFINITION. Sluice entries, instances and completion records (12 R274-R288; 20 R443, R445): what every action and sluice command
shares. -/

namespace Sys2Proof.Machine

/-! ## Entry fields (12 Tables 12.2, 12.3) -/

abbrev eNActions (b : Bytes) : Nat := bits (rd b 1 1) 3 0
abbrev eEnable (b : Bytes) : Nat := bits (rd b 2 1) 2 0
abbrev eUses (b : Bytes) : Nat := rd b 4 2
abbrev ePart (b : Bytes) : Nat := bits (rd b 6 1) 5 0
abbrev eClass (b : Bytes) : Bool := bitAt (rd b 6 1) 7
abbrev eEnWindow (b : Bytes) : Nat := bits (rd b 8 2) 13 0
abbrev eEnGen (b : Bytes) : Nat := rd b 10 2
abbrev eSource (b : Bytes) : Nat := bits (rd b 12 2) 14 0
abbrev eRingLog2 (b : Bytes) : Nat := bits (rd b 14 1) 3 0
abbrev eCEndpoint (b : Bytes) : Nat := rd b 16 3
abbrev eCWindow (b : Bytes) : Nat := bits (rd b 20 2) 13 0
abbrev eCGen (b : Bytes) : Nat := rd b 22 2
abbrev eCOffset (b : Bytes) : Nat := rd b 24 6
abbrev eTenant (b : Bytes) : Nat := bits (rd b 32 2) 11 0
abbrev ePriv (b : Bytes) : Nat := rd b 34 1

/-- Action slot `k`: OP, WITH_PREV and PARAMS. -/
abbrev aOp (b : Bytes) (k : Nat) : Nat := rd b (64 + 120 * k) 1
abbrev aWith (b : Bytes) (k : Nat) : Bool := bitAt (rd b (65 + 120 * k) 1) 0
def aParams (b : Bytes) (k : Nat) : Bytes := slice b (72 + 120 * k) 112

/-- The privilege bit an action needs (Table 12.5), 0 for none. -/
def opPriv (op : Nat) : Nat :=
  if op = 3 ∨ op = 4 ∨ op = 5 then 1
  else if op = 0xB ∨ op = 0xC ∨ op = 0xD then 2
  else if op = 0xE ∨ op = 0xF then 4
  else if op = 0x10 ∨ op = 0x11 then 8
  else if op = 0x12 then 0x80
  else 0

/-- The privileges a chain and its enable kind need (Tables 12.4, 12.5). -/
def chainPriv (b : Bytes) : Nat :=
  (List.range (eNActions b)).foldl (fun p k => p ||| opPriv (aOp b k)) (if eEnable b = 3 ∨ eEnable b = 4 then 0x80 else 0)

/-- The privileges a tenant holds now; firmware (tenant 0) holds all. -/
def tenantPriv (s : State) (t : Nat) : Nat :=
  if t = 0 then 0x8F else ((slotOfTenant s t).map (·.2.priv)).getD 0

/-! ## Entries and instances -/

/-- Entry `x`. -/
def entryOf (s : State) (x : Nat) : Entry := tget {} s.slu.entry x

/-- Write entry `x`. -/
def setEntryRec (x : Nat) (e : Entry) (s : State) : State := { s with slu := { s.slu with entry := tset {} s.slu.entry x e } }

/-- Instance `i`. -/
def instOf (s : State) (i : Nat) : Option Inst := tlook s.slu.inst i

/-- Write instance `i`. -/
def setInst (i : Nat) (x : Inst) (s : State) : State := { s with slu := { s.slu with inst := tput s.slu.inst i x } }

/-- Instances of entry `x` that run or wait; an ACTION of the firmware window belongs to no entry (20 R445). -/
def instancesOf (s : State) (x : Nat) : Nat :=
  tcount s.slu.inst (fun _ i => i.entry == x && i.fwTag.isNone) + (s.slu.queue.flatMap (·.2)).countP fun q => q.entry == x

/-- Record a state refusal of a network die (03 R76): `object` 2 entry or 3 window. -/
def refuseN (die tenant object found command id : Nat) (msg : Option EnMsg) (s : State) : State :=
  stateRefused (leafStateRefusedN die) (slotNo s tenant)
    { object := object, found := found, command := command, id := id,
      endpoint := msg.map (·.src), msgId := msg.map (·.id), tenant := some tenant } s

/-- Whom a record names (19 Table 19.8): the sender and MSG_ID of the message that a command came in. -/
abbrev Who := Option (Nat × Nat)

/-- The sender and MSG_ID of an enabling message. -/
def whoOf (m : Option EnMsg) : Who := m.map fun e => (e.src, e.id)

/-- The sender and MSG_ID behind instance `i`. -/
def instWho (s : State) (i : Nat) : Who := whoOf ((instOf s i).bind (·.msg))

/-- Record a state refusal of region `r`: `object` 0 sequence or 1 tensor. -/
def refuseR (r tenant object found command id : Nat) (tensor : Option (Nat × Nat)) (s : State) (who : Who := none) : State :=
  stateRefused (leafStateRefusedR r) (slotNo s tenant)
    { object := object, found := found, command := command, id := id,
      layer := tensor.map (·.1), kind := tensor.map (·.2), endpoint := who.map (·.1), msgId := who.map (·.2), tenant := some tenant } s

/-- Record a state refusal of the control die: `object` 4 key slot, 5 program slot or 6 composition. -/
def refuseC (tenant object found command id : Nat) (s : State) (who : Who := none) : State :=
  stateRefused leafStateRefusedC (slotNo s tenant)
    { object := object, found := found, command := command, id := id, endpoint := who.map (·.1), msgId := who.map (·.2), tenant := some tenant } s

/-- The code of an entry's state in Table 12.8's order. -/
def entryCode : EntrySt → Nat
  | .free => 0 | .armed => 1 | .draining => 2

/-! ## Completion records (12 R287) -/

/-- The 64 bytes of a completion record (Table 12.7). -/
def recBytes (status op action : Nat) (command rep single : Bool) (entry arg seqno enId result time : Nat) : Bytes :=
  leBytes 1 status ++ leBytes 1 op ++
  leBytes 1 (action + bitOf command 3 + bitOf rep 4 + bitOf single 5) ++ [0] ++
  leBytes 2 entry ++ [0, 0] ++ leBytes 4 arg ++ leBytes 4 seqno ++ leBytes 4 enId ++ leBytes 4 result ++
  leBytes 8 time ++ List.replicate 32 0

/-- Count a record that is lost (12 R287). -/
def complLost (x : Nat) (s : State) : State := count (netCntOff (x % 4) 16) s

/-- Send a record to a destination. -/
def sendRec (x tenant : Nat) (dest : Bytes) (part : Nat × Bool) (offset : Nat) (data : Bytes) (s : State) : State :=
  let m : OutMsg :=
    { op := 1, dst := eCEndpoint dest, tenant := tenant, window := eCWindow dest, gen := eCGen dest,
      offset := offset, data := data, part := some part, purpose := .record x }
  match sendMsg (x % 4) m s with
  | (.sent _, s) => s
  | (.refused _, s) => complLost x s

/-- The record of an entry that has been posted: the next SEQNO, at its place in the ring. -/
def postedRec (x status op action : Nat) (command rep single : Bool) (arg enId result : Nat) (lc : Bool) (s : State) : State :=
  let e := entryOf s x
  let n := nextSeq e.seqno
  let s := setEntryRec x { e with seqno := n } s
  sendRec x (eTenant e.bytes) e.bytes (ePart e.bytes, lc) (eCOffset e.bytes + n % 2 ^ eRingLog2 e.bytes * 64)
    (recBytes status op action command rep single x arg n enId result (now s)) s

/-- The SLUICE window of the tenant whose range holds entry `x`, with the tenant and the offset of the staging slot (12 R277). -/
def stagingOf (s : State) (x : Nat) : Option (Nat × Nat × Nat) :=
  match tfind s.key fun _ k => k.st != .empty && decide (k.sluiceBase ≤ x) && decide (x < k.sluiceBase + k.sluiceCount) with
  | none => none
  | some (_, k) =>
    (tfind s.slu.win fun _ w => w.st != .free && w.kind == 3 && w.tenant == k.tenant).map fun e =>
      (e.1, k.tenant, (x - k.sluiceBase) * 1024)

/-- The bytes of the staging slot of entry `x`. -/
def stagedBytes (s : State) (x : Nat) : Bytes :=
  match stagingOf s x with
  | none => List.replicate 1024 0
  | some (w, _, off) => winRead s w off 1024

/-- The record of a FREE entry goes to the staged destination with SEQNO 0 (12 R287). -/
def stagedRec (x tenant status : Nat) (staged : Bytes) (arg enId : Nat) (s : State) : State :=
  sendRec x tenant staged (ePart staged, eClass staged) (eCOffset staged)
    (recBytes status 0 0 true false false x arg 0 enId 0 (now s)) s

/-- Write one record to the command ring (20 R443). -/
def ringWrite (status opcode tag : Nat) (result : Bytes) (s : State) : State :=
  let n := nextSeq s.cfg.ringHead
  let r := leBytes 1 status ++ leBytes 1 opcode ++ [0, 0] ++ leBytes 4 tag ++ leBytes 4 n ++ [0, 0, 0, 0] ++ padTo 112 result
  { s with cfg := { s.cfg with ringHead := n, ring := tput s.cfg.ring (n % 16) r } }

/-- A deferred command ends (20 R442): its ring record is written and OUTSTANDING falls. -/
def deferredEnd (opcode obj status : Nat) (result : Bytes) (s : State) : State :=
  match s.cfg.outstanding.find? fun d => d.opcode == opcode && d.obj == obj with
  | none => s
  | some d =>
    let s := { s with cfg := { s.cfg with outstanding := s.cfg.outstanding.erase d } }
    ringWrite status opcode d.tag result s

/-! ## Enables (12 R280, R283) -/

/-- The entry's tenant. -/
def entryTenant (e : Entry) : Nat := eTenant e.bytes

/-- Take one use; the last one drains the entry (Table 12.8). -/
def takeUse (e : Entry) : Entry :=
  if e.limited then
    if e.left ≤ 1 then { e with left := 0, st := .draining } else { e with left := e.left - 1 }
  else e

/-- The chain consumes the enabling message (12 R281): QUERY, APPEND or COMBINE in slot 0. -/
def consumes (b : Bytes) : Bool := aOp b 0 == 1 || aOp b 0 == 2 || aOp b 0 == 3

/-- Accept an enable of entry `x` (12 R280 row 4, R283): a use is taken and the enable waits for an instance record, or the enable
queue is full and the use is returned. -/
def acceptEnable (x arg : Nat) (msg : Option EnMsg) (lc : Bool) (s : State) : State :=
  let e := entryOf s x
  let die := x % 4
  let waiting := tget [] s.slu.queue die
  let running := tcount s.slu.inst fun _ i => i.die == die
  if 4096 + 8192 ≤ waiting.length + running then
    count (netCntOff die 15) (postedRec x stRetry 0 0 false false false arg ((msg.map (·.id)).getD 0) 0 lc s)
  else
    let s := setEntryRec x (takeUse e) s
    let s := match msg with
      | some m => if consumes e.bytes then setWin m.window { winOf s m.window with reads := (winOf s m.window).reads + 1 } s else s
      | none => s
    let q : Enable := ⟨x, arg, msg, now s, lc⟩
    { s with slu := { s.slu with queue := tset [] s.slu.queue die (waiting ++ [q]) } }

/-- An event other than an immediate starts an instance of an ARMED entry; it is counted SLUICE_UNMATCHED in other states (Table 12.8).
A chain that needs a privilege the tenant no longer has is refused under row 3 of R280. -/
def eventEnable (x arg : Nat) (s : State) : State :=
  let e := entryOf s x
  match e.st with
  | .armed =>
    if chainPriv e.bytes &&& tenantPriv s (entryTenant e) ≠ chainPriv e.bytes then
      postedRec x stAccess 0 0 false false false arg 0 0 (eClass e.bytes) s
    else acceptEnable x arg none (eClass e.bytes) s
  | _ => count (netCntOff (x % 4) 14) s

/-- The entries of enable kind `k` whose SOURCE is `src`, in ascending order. A FREE entry keeps the header it was last posted with, so that Table
12.8's FREE cell of these events is met (DEDUCED, log 53). -/
def entriesOn (s : State) (k src : Nat) : List Nat :=
  (s.slu.entry.filter fun e => eEnable e.2.bytes == k && eSource e.2.bytes == src).map (·.1)

/-- A timer comparator or DMA channel enables its entries (12 Table 12.4). -/
def eventAll (k src : Nat) (s : State) : State := (entriesOn s k src).foldl (fun s x => eventEnable x 0 s) s

/-! ## Instances (12 R284) -/

/-- How the action before a slot stands: completed with ST_OK (or there is none), starting in this step, or neither. -/
inductive PrevAct where
  | okay | starts | other
  deriving DecidableEq, Repr

/-- Start each waiting action whose turn it is (R284): the one before it has completed with ST_OK, or its WITH_PREV is 1 and the one before it
starts now. -/
def startNext (b : Bytes) : Nat → PrevAct → List ActSt → List ActSt
  | _, _, [] => []
  | k, prev, a :: rest =>
    match a with
    | .waiting =>
      if prev = .okay ∨ (prev = .starts ∧ aWith b k = true) then .started :: startNext b (k + 1) .starts rest
      else a :: startNext b (k + 1) .other rest
    | .done st _ _ _ => a :: startNext b (k + 1) (if st = stOk then .okay else .other) rest
    | _ => a :: startNext b (k + 1) .other rest

/-- The actions of slots `i` and `k` start together (R284): every slot above the lower one has WITH_PREV. -/
def together (b : Bytes) (i k : Nat) : Bool :=
  (List.range (max i k)).all fun j => decide (j < min i k) || aWith b (j + 1)

/-- The slot and status that the record carries once action `k` has ended too (R284): the first failure, or the lower slot of two that started
together. -/
def noteFail (b : Bytes) (first : Option (Nat × Nat)) (k status : Nat) : Option (Nat × Nat) :=
  if status = stOk then first
  else match first with
    | none => some (k, status)
    | some (i, st) => if k < i ∧ together b k i = true then some (k, status) else some (i, st)

/-- Some action is started or under way. -/
def anyRunning (l : List ActSt) : Bool :=
  l.any fun a => match a with
    | .started => true
    | .busy => true
    | _ => false

/-- REPEAT and SINGLE_COPY of an instance: those of any action that has ended (DEDUCED, log 54). -/
def instFlags (l : List ActSt) : Bool × Bool :=
  l.foldl (fun acc a => match a with
    | .done _ r g _ => (acc.1 || r, acc.2 || g)
    | _ => acc) (false, false)

/-- RESULT of the action in slot `k` (Table 12.7). -/
def actResult (l : List ActSt) (k : Nat) : Nat :=
  match l[k]? with
  | some (.done _ _ _ v) => v
  | _ => 0

/-- The immediate's action has read, or will never read, the window's bytes (11 R266). -/
def doneReading (i : Nat) (s : State) : State :=
  match instOf s i with
  | none => s
  | some x =>
    if x.reads then
      let s := setInst i { x with reads := false } s
      match x.msg with
      | none => s
      | some m =>
        let w := winOf s m.window
        setWin m.window { w with reads := w.reads - 1 } s
    else s

/-- Remove an instance without a record (12 R285). The requests it confirmed leave IN_FLIGHT here, where the record is written (08 R182). -/
def dropInst (i : Nat) (s : State) : State :=
  match instOf s i with
  | none => s
  | some x =>
    let s := x.confirmed.foldl (fun s slot => leaveSeq slot s) (doneReading i s)
    { s with slu := { s.slu with inst := tdel s.slu.inst i } }

/-- The offset of byte `o` of TRAFFIC_TENANT_ACCT of key slot `k`. -/
def acctOff (k o : Nat) : Nat := 0x208000 + k * 0x100 + o

/-- Add to a field of a tenant's accounting block of `w` bits. -/
def acct (tenant w o n : Nat) (s : State) : State :=
  match slotNo s tenant with
  | none => s
  | some k => countN w (acctOff k o) n s

/-- An instance ends with a status at action `k` (12 R284, R287): its record is written, but for a COMBINE chain (R285), and an instance that ends
with ST_OK enables the entries that name its entry as predecessor. A query instance that ends so is counted for its tenant (14 Table 14.4). -/
def endInst (i k status : Nat) (s : State) : State :=
  match instOf s i with
  | none => s
  | some x =>
    let (rep, single) := instFlags x.acts
    let result := actResult x.acts k
    let s := dropInst i s
    match x.fwTag with
    | some _ =>
      let r := recBytes status (aOp x.bytes k) k false rep single 0x7FFF x.arg 0 0 result (now s)
      deferredEnd 0x40 i status (r ++ x.dirResult) s
    | none =>
      let s := if status = stOk ∧ x.acts.zipIdx.any (fun e => aOp x.bytes e.2 == 1) = true then acct x.tenant 32 0x18 1 s else s
      let s := if aOp x.bytes 0 = 3 then s
        else postedRec x.entry status (aOp x.bytes k) k false rep single x.arg ((x.msg.map (·.id)).getD 0) result x.lc s
      if status = stOk then
        (entriesOn s 2 x.entry).foldl (fun s y =>
          if entryTenant (entryOf s y) = x.tenant then eventEnable y x.arg s else s) s
      else s

/-- Bring an instance forward after an action ended. -/
def advanceInst (i : Nat) (s : State) : State :=
  match instOf s i with
  | none => s
  | some x =>
    match x.fail with
    | some (k, st) => if anyRunning x.acts then s else endInst i k st s
    | none =>
      let acts := startNext x.bytes 0 .okay x.acts
      if anyRunning acts then setInst i { x with acts := acts } s
      else endInst i (x.acts.length - 1) stOk s

/-- Action `k` of instance `i` ends. -/
def actDone (i k status : Nat) (rep single : Bool) (result : Nat) (s : State) : State :=
  match instOf s i with
  | none => s
  | some x =>
    advanceInst i (setInst i
      { x with acts := x.acts.set k (.done status rep single result), fail := noteFail x.bytes x.fail k status } s)

/-- Action `k` of instance `i` ends with a status and nothing else. -/
def actEnd (i k status : Nat) (s : State) : State := actDone i k status false false 0 s

/-- Action `k` of instance `i` is under way. -/
def actBusy (i k : Nat) (s : State) : State :=
  match instOf s i with
  | none => s
  | some x => setInst i { x with acts := x.acts.set k .busy } s

/-- The first started action of instance `i` whose OP is `op`: its slot and parameters. -/
def startedAct (s : State) (i op : Nat) : Option (Inst × Nat × Bytes) :=
  match instOf s i with
  | none => none
  | some x =>
    match x.acts.zipIdx.find? fun e => e.1 == .started && aOp x.bytes e.2 == op with
    | none => none
    | some (_, k) => some (x, k, aParams x.bytes k)

/-- The slot at which an action of instance `i` with OP `op` is under way. -/
def busyAct (s : State) (i op : Nat) : Option (Inst × Nat × Bytes) :=
  match instOf s i with
  | none => none
  | some x =>
    match x.acts.zipIdx.find? fun e => e.1 == .busy && aOp x.bytes e.2 == op with
    | none => none
    | some (_, k) => some (x, k, aParams x.bytes k)

/-- End the action with OP `op` that instance `i` has under way. -/
def endBusy (i op status : Nat) (rep single : Bool) (result : Nat) (s : State) : State :=
  match busyAct s i op with
  | none => s
  | some (_, k, _) => actDone i k status rep single result s

/-- A new instance number with its record. -/
def newInst (x : Inst) (s : State) : Nat × State :=
  let n := s.slu.nextInst
  (n, { s with slu := { s.slu with nextInst := n + 1, inst := tput s.slu.inst n x } })

/-! ## Draining -/

/-- Entry `x` accepts no further enables (12 R288). -/
def drainEntry (x : Nat) (s : State) : State :=
  let e := entryOf s x
  if e.st = .armed then setEntryRec x { e with st := .draining } s else s

/-- The descriptor has returned to FREE (12 Table 12.9): every entry enabled from it drains, counted SLUICE_WINDOW_GONE. -/
def windowGone (id gen : Nat) (s : State) : State :=
  (s.slu.entry.filter fun e => e.2.st == .armed && eEnable e.2.bytes == 0 && eEnWindow e.2.bytes == id &&
      eEnGen e.2.bytes == gen).foldl
    (fun s e => count (netCntOff (e.1 % 4) 17) (drainEntry e.1 s)) s

/-- The window whose bytes an action has still to read when it starts (11 R266): the message's for a FORWARD, the tenant's PROGRAM window for a
PROGRAM_INSTALL. `reads` tells that the message is already counted as one the chain consumes. -/
def actReads (s : State) (msg : Option EnMsg) (reads : Bool) (tenant id op : Nat) : Bool :=
  (op == 4 && !reads && (match msg with
    | none => false
    | some m => m.window == id && m.gen == winGen s id)) ||
  (op == 0xE && (winOf s id).kind == 2 && (winOf s id).tenant == tenant)

/-- A delivered enable that still waits for its instance has an action that will read the window. -/
def enableReads (s : State) (id : Nat) (q : Enable) : Bool :=
  let b := (entryOf s q.entry).bytes
  (List.range (eNActions b)).any fun k => actReads s q.msg (q.msg.isSome && consumes b) (eTenant b) id (aOp b k)

/-- IN_FLIGHT of a window (11 R266): open trackers that name it, delivered sluice commands whose staging slot lies in it, and delivered immediates
whose actions (slot 0, a FORWARD or a PROGRAM_INSTALL) have not read it, whether their instance runs or still waits to start. -/
def winInFlight (s : State) (id : Nat) : Nat :=
  (winOf s id).reads + (tcount s.jx.tracker fun _ t => t.window == id && t.gen == winGen s id && (t.op == 1 || t.op == 2)) +
    (s.slu.cmds.countP fun c => (stagingOf s c.entry).any fun w => w.1 == id) +
    ((s.slu.queue.flatMap (·.2)).countP (enableReads s id)) +
    tcount s.slu.inst fun _ x =>
      x.acts.zipIdx.any fun a => (a.1 == .waiting || a.1 == .started) && actReads s x.msg x.reads x.tenant id (aOp x.bytes a.2)

/-- DRAINING begins (11 R266). -/
def startDrainWin (id : Nat) (s : State) : State :=
  let w := winOf s id
  if w.st = .active then setWin id { w with st := .draining, drainAt := now s } s else s

end Sys2Proof.Machine
end

