-- ==== Sys2Proof/Machine/Maps.lean ====
section
/-! DEFINITION. Maps and changes (15 R324-R334, R340): reading and writing change records, validating and applying a change, who
holds what, and the epoch check (R341, R342). -/

namespace Sys2Proof.Machine

/-! ## Records (15 Table 15.3) -/

/-- Split a change body in records: none when a LEN is 0 or runs past the end. -/
def splitRecs : Nat → Bytes → Option (List Bytes)
  | 0, b => if b.isEmpty then some [] else none
  | fuel + 1, b =>
    if b.isEmpty then some []
    else
      let n := rd b 1 1 * 16
      if n = 0 ∨ b.length < n then none
      else (splitRecs fuel (b.drop n)).map fun rs => b.take n :: rs

/-- A header record (KIND 1). -/
def recHeader (m : DMap) (win : Bool) (last : Nat) : Bytes :=
  [1, 2] ++ leBytes 2 m.tenant ++ leBytes 3 m.clock ++ [0] ++ leBytes 4 m.epoch ++ leBytes 4 (bitOf win 0) ++ leBytes 8 last ++
    List.replicate 8 0

/-- A pair record (KIND 2). -/
def recPair (n : Nat) (p : PairRec) : Bytes :=
  [2, 1] ++ leBytes 2 n ++ leBytes 2 p.a ++ leBytes 2 p.b ++ leBytes 1 p.st ++ List.replicate 7 0

/-- A member record (KIND 5). -/
def recMember (ep : Nat) (m : Member) : Bytes :=
  [5] ++ leBytes 1 (1 + m.addrs.length) ++ leBytes 1 (bitOf m.isNode 0 + bitOf m.admin 1) ++ leBytes 1 m.addrs.length ++
    leBytes 3 ep ++ [0] ++ leBytes 2 m.node ++ leBytes 2 m.tray ++ List.replicate 4 0 ++
    m.addrs.flatMap fun a => leBytes 16 a.toNat

/-- A placement record (KIND 7). -/
def recPlace (p : Place) : Bytes :=
  [7, 2] ++ leBytes 2 (p.pair + bitOf p.staged 14 + bitOf p.primB 15) ++ leBytes 2 p.gen ++ [0, 0] ++ leBytes 8 p.tag ++
    leBytes 4 p.lo ++ leBytes 4 p.hi ++ List.replicate 8 0

/-- A PAIR_STATE record (KIND 4). -/
def recPairState (pair st : Nat) : Bytes := [4, 1] ++ leBytes 2 pair ++ [0, 0, 0, 0] ++ leBytes 1 st ++ List.replicate 7 0

/-- A SET_PRIMARY record (KIND 9). -/
def recSetPrimary (p : Place) : Bytes := [9] ++ (recPlace p).drop 1

/-- The placement a KIND 7-10 record spells. -/
def placeOf (r : Bytes) : Place :=
  { tag := rd r 8 8, lo := rd r 16 4, hi := rd r 20 4, pair := bits (rd r 2 2) 8 0
    staged := bitAt (rd r 2 2) 14, primB := bitAt (rd r 2 2) 15, gen := rd r 4 2 }

/-- The member a KIND 5 record spells: endpoint and record. -/
def memberOf (r : Bytes) : Nat × Member :=
  (rd r 4 3, { isNode := bitAt (rd r 2 1) 0, admin := bitAt (rd r 2 1) 1, node := bits (rd r 8 2) 11 0, tray := bits (rd r 10 2) 11 0
               addrs := (List.range (rd r 3 1)).map fun i => BitVec.ofNat 128 (rd r (16 + 16 * i) 16) })

/-- A record of MAP_RESP breaks Table 15.3 (R7, R340): the header and the pair record hold fields that a change leaves 0. -/
def mapRecBad (bad : Bytes → Bool) (r : Bytes) : Bool :=
  match rd r 0 1 with
  | 1 => rd r 1 1 != 2 || decide (4096 ≤ rd r 2 2) || !zeroAt r 7 1 || decide (1 < rd r 12 1) || !zeroAt r 13 3 || !zeroAt r 24 8
  | 2 => decide (5 < rd r 8 1) || bad (put r 8 [0])
  | _ => bad r

/-- A record breaks Table 15.3: its LEN, a range or a reserved byte (R7). -/
def recBad (r : Bytes) : Bool :=
  let len := rd r 1 1
  match rd r 0 1 with
  | 1 => len != 2 || decide (4096 ≤ rd r 2 2) || !zeroAt r 7 25
  | 2 => len != 1 || decide (512 ≤ rd r 2 2) || decide (4096 ≤ rd r 4 2) || decide (4096 ≤ rd r 6 2) || !zeroAt r 8 8
  | 3 => len != 1 || decide (512 ≤ rd r 2 2) || !zeroAt r 4 12
  | 4 => len != 1 || decide (512 ≤ rd r 2 2) || !zeroAt r 4 4 || decide (5 < rd r 8 1) || !zeroAt r 9 1 ||
      decide (4096 ≤ rd r 10 2) || !zeroAt r 12 4 || (rd r 8 1 != 3 && rd r 8 1 != 4 && rd r 10 2 != 0)
  | 5 => decide (rd r 3 1 < 1) || decide (8 < rd r 3 1) || len != 1 + rd r 3 1 || decide (3 < rd r 2 1) || !zeroAt r 7 1 ||
      decide (4096 ≤ rd r 8 2) || decide (4096 ≤ rd r 10 2) || !zeroAt r 12 4 ||
      (!bitAt (rd r 2 1) 0 && (rd r 8 2 != 0 || rd r 10 2 != 0))
  | 6 => len != 1 || !zeroAt r 2 2 || !zeroAt r 7 9
  | 7 | 8 | 9 | 10 => len != 2 || bits (rd r 2 2) 13 9 != 0 || !zeroAt r 6 2 || decide (0x1FFFFFF < rd r 16 4) ||
      decide (0x1FFFFFF < rd r 20 4) || !zeroAt r 24 8 || rd r 16 4 % 4096 != 0 ||
      (rd r 20 4 % 4096 != 0 && rd r 20 4 != 0x1FFFFFF) || decide (rd r 20 4 ≤ rd r 16 4) ||
      (rd r 0 1 == 8 && bitAt (rd r 2 2) 14)
  | 11 => len != 1 || !zeroAt r 2 2 || !zeroAt r 7 9
  | 12 => len != 1 || !zeroAt r 2 14
  | _ => true

/-! ## Applying records (15 R329, R333) -/

/-- The transitions Table 15.2 permits. -/
def pairMay (a b : Nat) : Bool :=
  match a with
  | 0 => b == 1 || b == 2
  | 1 => b == 4 || b == 5
  | 2 => b == 3 || b == 5
  | 3 => b == 0 || b == 2
  | 4 => b == 0 || b == 1
  | _ => false

/-- Same sequence and range. -/
def sameRange (p q : Place) : Bool := p.tag == q.tag && p.lo == q.lo && p.hi == q.hi

/-- Order of placements: (SEQ_TAG, RANGE_START), holding records before staged ones. -/
def placeKey (p : Place) : Nat := (p.tag * 2 ^ 25 + p.lo) * 2 + (if p.staged then 1 else 0)

/-- A map under change: the map, whether CREATE has been met, whether DISSOLVE has, the sequences moved and the pairs removed. -/
structure Draft where
  m : DMap
  created : Bool := false
  dissolved : Bool := false
  moved : List Nat := []
  removed : List Nat := []
  deriving DecidableEq, Repr

/-- The record that SET_PRIMARY or UNPLACE names by its sequence and range (Table 15.3): the holding record or, with STAGED 1, a staged one, of
which PAIR chooses where there are several (DEDUCED, log 86). -/
def placeNamed (m : DMap) (pl : Place) : Option Place :=
  let named := m.places.filter fun q => sameRange q pl && q.staged == pl.staged
  match named with
  | [p] => some p
  | l => l.find? fun q => q.pair == pl.pair

/-- Apply one record: none when it is invalid. `base0` says that the base epoch is 0. -/
def applyRec (base0 : Bool) (d : Draft) (r : Bytes) : Option Draft :=
  let m := d.m
  if recBad r then none
  else
    let pair := bits (rd r 2 2) 8 0
    let pl := placeOf r
    match rd r 0 1 with
    | 1 => if base0 && !d.created then
        some { d with created := true, m := { m with tenant := rd r 2 2, clock := rd r 4 3 } } else none
    | 2 => if (tlook m.pairs pair).isSome then none
        else some { d with m := { m with pairs := tput m.pairs pair ⟨rd r 4 2, rd r 6 2, 0⟩ } }
    | 3 => if (tlook m.pairs pair).isNone then none
        else some { d with m := { m with pairs := tdel m.pairs pair }, removed := pair :: d.removed }
    | 4 =>
      match tlook m.pairs pair with
      | none => none
      | some p =>
        let st := rd r 8 1
        let n := rd r 10 2
        if pairMay p.st st then
          let p := { p with st := st }
          let p := if n = 0 then p else if st = 3 then { p with a := n } else { p with b := n }
          some { d with m := { m with pairs := tput m.pairs pair p } }
        else none
    | 5 =>
      let (ep, x) := memberOf r
      if (tlook m.members ep).isSome then none
      else some { d with m := { m with members := tput m.members ep x } }
    | 6 => if (tlook m.members (rd r 4 3)).isNone then none else some { d with m := { m with members := tdel m.members (rd r 4 3) } }
    | 7 =>
      let others := m.places.filter fun q => q.tag == pl.tag
      if others.any (fun q => sameRange q pl && q.staged == pl.staged && (!pl.staged || q.pair == pl.pair)) then none
      else if others.any (fun q => q.gen != pl.gen) then none
      else some { d with m := { m with places := insertBy placeKey pl m.places } }
    | 8 =>
      if d.moved.contains pl.tag || !m.places.any (fun q => sameRange q pl && !q.staged) then none
      else
        let kept := m.places.filter fun q => !(sameRange q pl && q.staged && q.pair == pl.pair)
        let upd := kept.map fun q =>
          let q := if sameRange q pl && !q.staged then { q with pair := pl.pair, primB := pl.primB } else q
          if q.tag = pl.tag then { q with gen := (q.gen + 1) % 65536 } else q
        some { d with m := { m with places := upd }, moved := pl.tag :: d.moved }
    | 9 =>
      match placeNamed m pl with
      | none => none
      | some p => some { d with m := { m with places := m.places.map fun q => if q = p then { q with primB := pl.primB } else q } }
    | 10 =>
      match placeNamed m pl with
      | none => none
      | some p => some { d with m := { m with places := m.places.filter fun q => q != p } }
    | 11 => some { d with m := { m with clock := rd r 4 3 } }
    | _ => some { d with dissolved := true }

/-- Apply the records in order. -/
def applyRecs (base0 : Bool) : Draft → List Bytes → Option Draft
  | d, [] => some d
  | d, r :: rs => match applyRec base0 d r with
    | none => none
    | some d => applyRecs base0 d rs

/-- The member record of node `n`. -/
def memberOfNode (m : DMap) (n : Nat) : Option Member := (tfind m.members fun _ x => x.isNode && x.node == n).map (·.2)

/-- Some two holding records of one sequence overlap. -/
def rangesMeet : List Place → Bool
  | [] => false
  | p :: ps => (ps.any fun q => q.tag == p.tag && decide (q.lo < p.hi) && decide (p.lo < q.hi)) || rangesMeet ps

/-- The finished map meets R326, R333, Table 15.1 and Table 15.2's node members. -/
def mapOk (m : DMap) : Bool :=
  decide (m.pairs.length ≤ 512) && decide (m.members.length ≤ 4096) && decide (m.places.length ≤ 65536) &&
  (m.pairs.all fun e =>
    match memberOfNode m e.2.a, memberOfNode m e.2.b with
    | some x, some y => x.tray != y.tray
    | _, _ => false) &&
  (match tlook m.members m.clock with | some x => !x.isNode | none => false) &&
  (m.places.all fun p => (tlook m.pairs p.pair).isSome &&
    (!p.staged || m.places.any fun q => sameRange q p && !q.staged)) &&
  !rangesMeet (m.places.filter fun p => !p.staged)

/-- The change removes a pair that still holds a range it held before (R333), whether or not it adds a pair of that number again. -/
def leavesRange (old : DMap) (d : Draft) : Bool :=
  d.m.places.any fun p => d.removed.contains p.pair && old.places.any fun q => sameRange q p && q.pair == p.pair && q.staged == p.staged

/-- The result of a change on map E (none: no map, base epoch 0): invalid (none), or the new map (none: dissolved). -/
def changeResult (old : Option DMap) (change : Bytes) : Option (Option DMap) :=
  let base0 := old.isNone
  let m0 := old.getD { epoch := 0, tenant := 0, clock := 0 }
  if 8176 < change.length ∨ m0.epoch = 0xFFFFFFFF then none
  else match splitRecs 512 change with
    | none => none
    | some rs =>
      match applyRecs base0 { m := m0 } rs with
      | none => none
      | some d =>
        if (base0 && !d.created) || !mapOk d.m || leavesRange m0 d then none
        else if d.dissolved then some none
        else some (some { d.m with epoch := m0.epoch + 1 })

/-! ## Who serves -/

/-- The nodes of a pair that serve (Table 15.2). -/
def serving (p : PairRec) : List Nat :=
  match p.st with
  | 0 => [p.a, p.b] | 1 => [p.a] | 2 => [p.b] | 3 => [p.b] | 4 => [p.a] | _ => []

/-- The voter of a pair (Table 15.2). -/
def voterOf (p : PairRec) : Option Nat :=
  match p.st with
  | 0 => some p.a | 1 => some p.a | 2 => some p.b | 3 => some p.b | 4 => some p.a | _ => none

/-- The loading node of a pair (Table 15.2). -/
def loading (p : PairRec) : Option Nat :=
  match p.st with
  | 3 => some p.a | 4 => some p.b | _ => none

/-- The other node of a pair. -/
def otherNode (p : PairRec) (n : Nat) : Nat := if p.a = n then p.b else p.a

/-- The node is one of the pair's. -/
def inPair (p : PairRec) (n : Nat) : Bool := p.a == n || p.b == n

/-- The effective primary of a placement (Table 15.2). -/
def primaryOf (m : DMap) (p : Place) : Option Nat :=
  match tlook m.pairs p.pair with
  | none => none
  | some q => if q.st = 0 then some (if p.primB then q.b else q.a) else (serving q).head?

/-- The holding records of a sequence. -/
def holdsOf (m : DMap) (tag : Nat) : List Place := m.places.filter fun p => p.tag == tag && !p.staged

/-- The node holds a placement record's tokens (R334). -/
def nodeHolds (m : DMap) (n : Nat) (p : Place) : Bool :=
  !p.staged && (match tlook m.pairs p.pair with | some q => (serving q).contains n | none => false)

/-- The pair of a record is LOST. -/
def isLost (m : DMap) (p : Place) : Bool := match tlook m.pairs p.pair with | some q => q.st == 5 | none => false

/-- The compositions whose map places the sequence, lowest ID first. -/
def placing (s : State) (tenant tag : Nat) : List (Nat × DMap) :=
  (maps s).filter fun e => e.2.tenant == tenant && e.2.places.any fun p => p.tag == tag

/-- The record of a sequence that holds token `t`. -/
def placeAt (m : DMap) (tag t : Nat) : Option Place := (holdsOf m tag).find? fun p => decide (p.lo ≤ t) && decide (t < p.hi)

/-- The effective primary that the map names for token `t` of a sequence: none where no map places it. -/
def primaryAt (s : State) (tenant tag t : Nat) : Option Nat :=
  match placing s tenant tag with
  | [] => none
  | (_, m) :: _ => (placeAt m tag t).bind (primaryOf m)

/-- The pair of token `t` of a sequence is degraded, or no map places it. -/
def degradedAt (s : State) (tenant tag t : Nat) : Bool :=
  match placing s tenant tag with
  | [] => true
  | (_, m) :: _ =>
    match (placeAt m tag t).bind fun p => tlook m.pairs p.pair with
    | some q => q.st != 0
    | none => true

/-- The partner of this node at token `t` of a sequence. -/
def partnerAt (s : State) (tenant tag t : Nat) : Option Nat :=
  match placing s tenant tag with
  | [] => none
  | (_, m) :: _ => ((placeAt m tag t).bind fun p => tlook m.pairs p.pair).map fun q => otherNode q (myNode s)

/-- The endpoint of a node in the maps held. -/
def endpointOfNode (s : State) (n : Nat) : Option Nat := (maps s).findSome? fun e => nodeEndpoint e.2 n

/-- The node whose endpoint is `ep` in the maps held. -/
def nodeOfEndpoint (s : State) (ep : Nat) : Option Nat :=
  (maps s).findSome? fun e => match tlook e.2.members ep with
    | some x => if x.isNode then some x.node else none
    | none => none

/-! ## Fetching a map (15 R340) -/

/-- Composition `c`. -/
def compOf (s : State) (c : Nat) : Comp := tget {} s.datum.comp c

/-- Write composition `c`; an entry with nothing in it is removed. -/
def setComp (c : Nat) (x : Comp) (s : State) : State := { s with datum := { s.datum with comp := tset {} s.datum.comp c x } }

/-- Ask for the records from `cursor` on. A MAP_READ that cannot be sent fails the fetch: the node returns to what it held. -/
def askMap (c : Nat) (f : Fetch) (s : State) : State :=
  let m : OutMsg :=
    { op := 0x22, dst := f.src, addr := some f.addr, data := leBytes 4 c ++ leBytes 4 f.epoch ++ leBytes 4 f.cursor
      purpose := .mapRead c }
  match sendMsg ctlDie m s with
  | (.sent _, s) => s
  | (.refused _, s) => setComp c { compOf s c with fetch := none } s

/-- Start to fetch the map of composition `c` from the sender `src` at `addr`; a fetch under way goes on. -/
def startFetch (c src : Nat) (addr : BitVec 128) (s : State) : State :=
  let x := compOf s c
  if x.fetch.isSome then s
  else
    let f : Fetch := { src := src, addr := addr }
    askMap c f (setComp c { x with fetch := some f } s)

/-- A composition is BEHIND while its map is fetched. -/
def behind (x : Comp) : Bool := x.fetch.isSome

/-! ## The epoch check (15 R341, R342) -/

/-- The tokens from `cur` up to `hi` all lie in records of the list, which is in rising order. -/
def covers (cur hi : Nat) : List Place → Bool
  | [] => decide (hi ≤ cur)
  | p :: ps => if hi ≤ cur then true else if p.lo ≤ cur ∧ cur < p.hi then covers p.hi hi ps else covers cur hi ps

/-- The REDIRECT payload (15 Table 15.7) for the records of a sequence that meet [lo, hi). -/
def redirectBytes (c : Nat) (m : DMap) (tenant tag lo hi entry arg msgId : Nat) : Bytes :=
  let rs := ((holdsOf m tag).filter fun p => decide (p.lo < hi) && decide (lo < p.hi)).take 4
  let holder := fun (p : Place) =>
    let q := (tlook m.pairs p.pair).getD ⟨0, 0, 5⟩
    let prim := (primaryOf m p).bind (nodeEndpoint m)
    let other := ((serving q).find? fun n => some n != primaryOf m p).bind (nodeEndpoint m)
    leBytes 4 p.lo ++ leBytes 4 p.hi ++ leBytes 2 p.pair ++ leBytes 2 p.gen ++ leBytes 1 q.st ++ [0, 0, 0] ++
      leBytes 3 (prim.getD 0) ++ [0] ++ leBytes 3 (other.getD 0) ++ List.replicate 9 0
  leBytes 4 c ++ leBytes 4 m.epoch ++ leBytes 8 tag ++ leBytes 2 tenant ++ leBytes 2 entry ++ leBytes 4 arg ++ leBytes 4 msgId ++
    leBytes 1 rs.length ++ [0, 0, 0] ++ rs.flatMap holder

/-- What a refused request was: the entry (0x7FFF for a commit control message) and argument, with the message. -/
structure Routed where
  entry : Nat
  arg : Nat
  msg : EnMsg

/-- Refuse with ST_REDIRECT and send the notice (R342). -/
def redirect (c : Nat) (m : DMap) (tenant tag lo hi : Nat) (q : Routed) (s : State) : State :=
  sendOnce ctlDie 0x24 q.msg.src 0 0 m.epoch (some q.msg.addr) none (redirectBytes c m tenant tag lo hi q.entry q.arg q.msg.id)
    (countTenant tenant 0x0C s)

/-- The end of a sequence that the node does not hold, as its placement records give it (R341 row 5). -/
def placedEnd (s : State) (tenant tag : Nat) : Nat :=
  match placing s tenant tag with
  | [] => 0
  | (_, m) :: _ => (holdsOf m tag).foldl (fun a p => max a p.hi) 0

/-- The epoch check of R341 (15 Table 15.6): the status of the refusal, or none. `last` is the end of the sequence. -/
def epochCheck (tenant tag lo hi last : Nat) (q : Routed) (s : State) : Option Nat × State :=
  let e := q.msg.epoch
  let ps := placing s tenant tag
  let s := if 1 < ps.length then raise leafDatumDoublePlace [] s else s
  match ps with
  | [] => if e = 0 then (none, s) else (some stEpochStale, countTenant tenant 0x08 s)
  | (c, m) :: _ =>
    let x := compOf s c
    let stale := (some stEpochStale, countTenant tenant 0x08 s)
    if e = 0 then stale
    else if behind x || decide (m.epoch < e) then
      (some stRetry, startFetch c q.msg.src q.msg.addr (countTenant tenant 0x10 s))
    else if e + 1 < m.epoch ∨ (e + 1 = m.epoch ∧ x.window = false) then stale
    else
      let top := min hi last
      let good := (holdsOf m tag).filter fun p => nodeHolds m (myNode s) p || isLost m p
      if decide (lo < top) && !covers lo top good then (some stRedirect, redirect c m tenant tag lo hi q s)
      else
        let gen := fun (d : DMap) => ((d.places.find? fun p => p.tag == tag).map (·.gen)).getD 0
        let moved := match x.prev with | some d => decide (e + 1 = m.epoch) && gen d != gen m | none => false
        if moved then (some stRedirect, redirect c m tenant tag lo hi q s)
        else if (holdsOf m tag).any (fun p => isLost m p && decide (p.lo < top) && decide (lo < p.hi)) then (some stNoPage, s)
        else (none, s)

end Sys2Proof.Machine
end

