-- ==== Sys2Proof/Machine/Free.lean ====
section
/-! DEFINITION. Giving storage back: frames, deep copies, coded pages and base references (03 R62, R78; 05 R112, R114; 10 R228, R234,
R235; 17 R387), sequences found by tag (03 R53), and a drained node's withdrawal (16 R348, R366). -/

namespace Sys2Proof.Machine

/-! ## Frames -/

/-- The base-reference entry that holds a frame (10 R235). -/
def holderOf (s : State) (frame : Nat) : Option Nat := (tfind s.sto.baseRef fun _ b => b.frame == frame && decide (0 < b.refs)).map (·.1)

/-- The page has its own fast-tier frame at its name. -/
def hasFrame (s : State) (slot ti idx name : Nat) : Bool :=
  match tlook s.sto.fast name with
  | some st => st.use == .page slot ti idx
  | none => false

/-- Change the use of a unit of fast storage. -/
def reuseFast (a : Nat) (u : StoreUse) (s : State) : State :=
  { s with sto := { s.sto with fast := tmod s.sto.fast a fun st => { st with use := u } } }

/-- Give back a frame: a held base frame stays (10 R235), and one of a sealed tenant is scrubbed first. -/
def giveFrame (sealed_ : Bool) (a : Nat) (s : State) : State :=
  match holderOf s a with
  | some k => reuseFast a (.baseHeld k) s
  | none => releaseFast sealed_ a s

/-- A frame that its page no longer uses is given back at once. -/
def dropFrame (a : Nat) (s : State) : State :=
  match tlook s.sto.fast a with
  | some st => giveFrame (isSealed s st.tenant) a s
  | none => s

/-- The use of storage that a page has left and started requests may still read. -/
def oldUse : StoreUse → StoreUse
  | .page sl t i => .old sl t i
  | .coded sl t i => .old sl t i
  | u => u

/-- A frame that requests already started may still read (03 R62 step 3, 05 R118): it waits for them. -/
def retireFrame (a : Nat) (s : State) : State :=
  match tlook s.sto.fast a, holderOf s a with
  | some _, some k => reuseFast a (.baseHeld k) s
  | some st, none =>
    let s := reuseFast a (oldUse st.use) s
    { s with sto := { s.sto with old := s.sto.old ++ [⟨a, false, s.nextReq, isSealed s st.tenant⟩] } }
  | none, _ => s

/-- Deep storage is given back. -/
def dropDeep (a : Nat) (s : State) : State :=
  match tlook s.sto.deep a with
  | some st => releaseDeep (isSealed s st.tenant) a s
  | none => s

/-- Deep storage that requests already started may still read. -/
def retireDeep (a : Nat) (s : State) : State :=
  match tlook s.sto.deep a with
  | some st =>
    { s with sto := { s.sto with deep := tput s.sto.deep a { st with use := oldUse st.use }, old := s.sto.old ++ [⟨a, true, s.nextReq, isSealed s st.tenant⟩] } }
  | none => s

/-- A deep-held page of `size` bytes takes the name `a`; `nameOff` undoes it (05 R114). Delta names alias nothing. -/
def nameOn (a size : Nat) (s : State) : State :=
  if a % 2 ^ 40 < 2 ^ 39 then
    let n := (tget (0, 0) s.sto.deepNames a).1 + 1
    { s with sto := { s.sto with deepNames := tput s.sto.deepNames a (n, size) } }
  else s
def nameOff (a : Nat) (s : State) : State :=
  if a % 2 ^ 40 < 2 ^ 39 then
    let e := tget (0, 0) s.sto.deepNames a
    { s with sto := { s.sto with deepNames := if e.1 ≤ 1 then tdel s.sto.deepNames a else tput s.sto.deepNames a (e.1 - 1, e.2) } }
  else s

/-- The base page's own leaf still names the frame that its entry holds (10 R235). -/
def leafNames (s : State) (b : BaseRef) : Bool :=
  match leafOf s b.slot b.ten b.idx with
  | .leaf e => !leafDelta e && leafFrame e == b.frame
  | .invalid => false

/-- A delta page drops its reference (10 R235): at 0 the entry is freed, and its frame with it when no live leaf names it; a frame that the base
page's leaf names is the page's again. -/
def dropRef (key : Nat) (s : State) : State :=
  match tlook s.sto.baseRef key with
  | none => s
  | some b =>
    if 1 < b.refs then { s with sto := { s.sto with baseRef := tput s.sto.baseRef key { b with refs := b.refs - 1 } } }
    else
      let s := { s with sto := { s.sto with baseRef := tdel s.sto.baseRef key } }
      match tlook s.sto.fast b.frame with
      | some st =>
        if st.use = .baseHeld key then
          if leafNames s b then nameOff b.frame (reuseFast b.frame (.page b.slot b.ten b.idx) s)
          else releaseFast (isSealed s st.tenant) b.frame s
        else s
      | none => s

/-- A coded page's locator entry and units are given back, and its base reference dropped. -/
def dropCoded (slot ti idx name : Nat) (s : State) : State :=
  let t := tenOf (seqOf s slot) ti
  let coded := codedBytes s t idx name
  let s := dropRef (baseKey (rd coded 8 4)) s
  match tlook s.sto.loc (locKey name) with
  | none => s
  | some l =>
    let s := if l.inFast then dropFrame l.first s else s
    { s with sto := { s.sto with loc := tdel s.sto.loc (locKey name) } }

/-- All storage of one page with leaf `e` is given back (03 R78). -/
def dropPage (slot ti idx e : Nat) (s : State) : State :=
  let name := leafFrame e
  let d := deepEnt (tenOf (seqOf s slot) ti) idx
  let s := if leafDelta e then dropCoded slot ti idx name s
    else if hasFrame s slot ti idx name then dropFrame name s
    else nameOff name s
  if d.valid then dropDeep (deepAddr d) s else s

/-- Every unit of storage of a sequence that is not a page (table nodes, reserved frames). -/
def dropUnits (slot : Nat) (s : State) : State :=
  let mine := (s.sto.fast.filter fun e => e.2.use == .node slot || e.2.use == .reserved slot).map (·.1)
  mine.foldl (fun s a => dropFrame a s) s

/-- The storage of a sequence is given back (03 R78). -/
def dropStorage (slot : Nat) (s : State) : State :=
  let s := (tensOf (seqOf s slot)).foldl (fun s ti =>
    (livePages s slot ti).foldl (fun s p => dropPage slot ti p.1 p.2 s) s) s
  let rest := (s.sto.fast.filter fun e => match e.2.use with
    | .page sl _ _ => sl == slot
    | .coded sl _ _ => sl == slot
    | _ => false).map (·.1)
  dropUnits slot (rest.foldl (fun s a => dropFrame a s) s)

/-! ## Sequences -/

/-- The code of a sequence state (03 Table 3.4). -/
def seqCode : SeqSt → Nat
  | .free => 0 | .loading => 1 | .active => 2 | .shifting => 3 | .releasing => 4

/-- The code of a tensor state (05 Table 5.2). -/
def tenCode : TenSt → Nat
  | .absent => 0 | .fast => 1 | .deep => 2 | .migrating => 3 | .rewriting => 4

/-! ## Tables in the fast tier that State holds in its own fields -/

/-- The placement entry (05 Table 5.2). -/
def placeEntry (t : Ten) : Bytes :=
  leBytes 1 (tenCode t.st + bitOf t.toDeep 3 + t.hint % 4 * 16 + bitOf t.backed 6) ++ [0, 0, 0] ++ leBytes 4 t.lastQuery ++ leBytes 8 t.deepTable

/-- The deep page-table entry (05 Table 5.3). -/
def deepEntry (e : DeepEnt) : Bytes := leBytes 8 (bitOf e.valid 0 + bitOf e.dirty 1 + e.port % 4 * 4 + bits e.dpa 40 14 * 2 ^ 14)

/-- The byte of a sequence's placement array at cache address `a` (05 R115): entry l × K + k of 16 bytes. -/
def placeByte (q : Seq) (a : Nat) : Option Byte :=
  if q.place ≤ a ∧ a < q.place + 16 * (dLayers q.desc * dKinds q.desc) then
    let i := (a - q.place) / 16
    some (byteAt (placeEntry (tenOf q (4 * (i / dKinds q.desc) + i % dKinds q.desc))) ((a - q.place) % 16))
  else none

/-- The byte of a tensor's deep page table at cache address `a` (05 R116): entry g × n_pages + p of 8 bytes. -/
def deepByte (d : Bytes) (t : Ten) (a : Nat) : Option Byte :=
  if t.backed = true ∧ t.deepTable ≤ a ∧ a < t.deepTable + 8 * (dGroups d * dPages d) then
    some (byteAt (deepEntry (tget {} t.deep ((a - t.deepTable) / 8))) ((a - t.deepTable) % 8))
  else none

/-- The byte at cache address `a` of a code line, a placement array or a deep page table: a view of what State holds, none elsewhere. -/
def tableByte (s : State) (a : Nat) : Option Byte :=
  match codeByte s a with
  | some b => some b
  | none => s.dir.findSome? fun e =>
    match placeByte e.2 a with
    | some b => some b
    | none => e.2.ten.findSome? fun t => deepByte e.2.desc t.2 a

/-- The slot of a tenant's sequence by its tag (03 R52, R53). -/
def findSeq (s : State) (tenant tag : Nat) : Option Nat :=
  (tfind s.dir fun _ q => q.cam.valid && q.cam.tenant == tenant && q.cam.tag == tag).map (·.1)

/-- A hit whose CAM part differs from the record's TENANT and TAG is a miss and is repaired from the shadow (03 R73): whether it was. -/
def repairHit (slot : Nat) (s : State) : Bool × State :=
  let q := seqOf s slot
  if q.cam.tenant = q.tenant ∧ q.cam.tag = q.tag then (false, s)
  else (true, raiseCount (leafDirRepaired (dirRegion slot)) (rgnCntOff (dirRegion slot) 6) [(20, 4, slot)]
    (setSeq slot { q with cam := q.shadow } s))

/-- A search for one hit with its check (03 R73): a hit that was no match is repaired and the search runs once more; a second one that is none
is a miss. -/
def checkedHit (search : State → Option Nat) (s : State) : Option Nat × State :=
  match search s with
  | none => (none, s)
  | some slot =>
    match repairHit slot s with
    | (false, s) => (some slot, s)
    | (true, s) =>
      match search s with
      | none => (none, s)
      | some slot =>
        match repairHit slot s with
        | (false, s) => (some slot, s)
        | (true, s) => (none, s)

/-- The slot of a tenant's sequence by its tag, as a command uses it: checked (03 R73). -/
def lookSeq (tenant tag : Nat) (s : State) : Option Nat × State := checkedHit (findSeq · tenant tag) s

/-- A state refusal about a sequence (03 R76), in the ring of the region that holds its entry. -/
def refuseSeq (slot tenant op : Nat) (s : State) (who : Who := none) : State :=
  refuseR (dirRegion slot) tenant 0 (seqCode (seqOf s slot).st) op slot none s who

/-- A state refusal about a tensor. -/
def refuseTen (slot tenant ti op : Nat) (s : State) (who : Who := none) : State :=
  refuseR (dirRegion slot) tenant 1 (tenCode (tenOf (seqOf s slot) ti).st) op slot (some (ti / 4, ti % 4)) s who

/-- No request or command still in progress can touch the sequence. -/
def seqIdle (s : State) (slot : Nat) : Bool :=
  let q := seqOf s slot
  q.st == .releasing && q.inFlight == 0

/-! ## A drained node (16 R348, R366) -/

/-- The partners of this node in every map. -/
def partners (s : State) : List Nat :=
  ((maps s).flatMap fun e => (e.2.pairs.filter fun p => inPair p.2 (myNode s)).map fun p => otherNode p.2 (myNode s)).dedup

/-- Some map lists this node as serving. -/
def servesAny (s : State) : Bool := (maps s).any fun e => e.2.pairs.any fun p => (serving p.2).contains (myNode s)

/-- Send WITHDRAW to every partner on every port with link up, once (16 R348). -/
def withdrawAll (reason : Nat) (s : State) : State :=
  (partners s).foldl (fun s n =>
    match endpointOfNode s n with
    | none => s
    | some ep => sendAllPorts ctlDie 0x2D ep (leBytes 2 (myNode s) ++ leBytes 1 reason ++ [0]) s) s

/-- A draining node that serves nothing and holds no sequence is DRAINED (16 R366). -/
def drainCheck (s : State) : State :=
  if s.node.st = .draining ∧ servesAny s = false ∧ s.dir.isEmpty then
    withdrawAll 1 { s with node := { s.node with st := .drained, blocked := [] } }
  else s

end Sys2Proof.Machine
end

