-- ==== Sys2Proof/Machine/Quant.lean ====
section
/-! DEFINITION. Quantisation at append and requantisation (06 R139, R140), and the numeric steps of the channel units (04 R101):
how a token's row becomes bytes of a page. -/

namespace Sys2Proof.Machine

/-- A quantised group: the group scale's bits, the elements' bits, and how many were clipped. -/
structure QGroup where
  scale : Nat := 0
  elems : List Nat
  clipped : Nat := 0

/-- A quotient for a conversion: an overflow of finite operands counts as a finite value beyond the largest (06 R139). -/
def satExt (x : F32) : Ext :=
  match ofF32 x with
  | .inf neg => .fin neg 1 200
  | e => e

/-- An element converted to a narrow float format. -/
def quantFloat (f : NarrowFmt) (x : Ext) : Nat × Nat :=
  let r := toNarrow f x
  (r.bits, if r.clipped then 1 else 0)

/-- An element rounded to an integer, offset by `z` and clamped to [lo, hi], in `w` bits. -/
def quantInt (w : Nat) (lo hi : Int) (z : Int) (x : Ext) : Nat × Nat :=
  match roundInt x with
  | none => (0, 0)
  | some i =>
    let y := i + z
    let c := max lo (min hi y)
    (unsigned w c, if c = y then 0 else 1)

/-- Put elements and their clips together. -/
def qgroup (scale : Nat) (l : List (Nat × Nat)) : QGroup :=
  { scale := scale, elems := l.map (·.1), clipped := (l.map (·.2)).foldl (· + ·) 0 }

/-- Qmax of a YQ format. -/
def qmaxOf (f : Nat) : Nat := if f = 0x0D then 127 else 7

/-- The bits of a YQ integer. -/
def yqBits (f : Nat) : Nat := if f = 0x0D then 8 else 4

/-- An element's bits that stand for no infinity and no NaN, and lie in the stored range of Table 6.3 (06 R148). -/
def storable (f b : Nat) : Bool :=
  match f with
  | 0x05 | 0x0C | 0x0D => b != 0x80
  | 0x07 | 0x0E => b != 8
  | 0x06 | 0x08 => true
  | f => match laneVal f 0 b with | .fin _ _ _ => true | _ => false

/-- One element: what the conversion gives, or a free storable value where the value is infinite or NaN (06 R148; log 42). -/
def quantElem (f : Nat) (conv : F32 → Nat × Nat) (v : F32) : Nat × Nat :=
  if isFin32 v then conv v
  else
    let b := (Config.overflowElem f v).toNat % 2 ^ fmtBits f
    (if storable f b then b else 0, 1)

/-- YQ elements under the group scale value `sg` (06 R139). The rule gives the elements of a scale that rounds to zero for inline scales; the
model takes the same for streamed ones. DESIGN CHOICE, log 52. -/
def yqElems (f : Nat) (sg : F32) (vs : List F32) : List (Nat × Nat) :=
  let q := qmaxOf f
  vs.map <| quantElem f fun v =>
    if isZero32 sg then
      (if isZero32 v then (0, 0) else (unsigned (yqBits f) (if v.getLsbD 31 then -(q : Int) else q), 1))
    else quantInt (yqBits f) (-(q : Int)) q 0 (satExt (fdiv v sg))

/-- Quantise one group (06 R139): format `f`, tensor-head parameters, second-level scale, streamed scales or not. Qmax × S2 is rounded to FP32
before the quotient a / (Qmax × S2). DESIGN CHOICE, log 51. -/
def quantGroup (f : Nat) (hp : HeadParam) (s2 : F32) (streamed : Bool) (vs : List F32) : QGroup :=
  let a := groupMax vs
  let zeros := qgroup 0 (vs.map fun _ => (0, 0))
  match f with
  | 0x01 => qgroup 0 (vs.map (quantElem f fun v => quantFloat fmtBf16 (ofF32 v)))
  | 0x02 => qgroup 0 (vs.map (quantElem f fun v => quantFloat fmtFp16 (ofF32 v)))
  | 0x03 => qgroup 0 (vs.map (quantElem f fun v => quantFloat fmtE4m3 (satExt (fdiv v hp.s))))
  | 0x04 => qgroup 0 (vs.map (quantElem f fun v => quantFloat fmtE5m2 (satExt (fdiv v hp.s))))
  | 0x05 => qgroup 0 (vs.map (quantElem f fun v => quantInt 8 (-127) 127 0 (satExt (fdiv v hp.s))))
  | 0x06 => qgroup 0 (vs.map (quantElem f fun v => quantInt 8 0 255 hp.z (satExt (fdiv v hp.s))))
  | 0x07 => qgroup 0 (vs.map (quantElem f fun v => quantInt 4 (-7) 7 0 (satExt (fdiv v hp.s))))
  | 0x08 => qgroup 0 (vs.map (quantElem f fun v => quantInt 4 0 15 hp.z (satExt (fdiv v hp.s))))
  | 0x0D | 0x0E =>
    if a = 0 then zeros
    else if streamed then
      let q := fdiv a (intToF32 (qmaxOf f))
      let g := match ofF32 q with
        | .fin _ m e => (ceilNarrow fmtFp16 m e).getD 0x7BFF
        | _ => 0x7BFF
      qgroup g (yqElems f (toF32 (ofNarrow fmtFp16 g)) vs)
    else
      let q := fdiv a (fmul (intToF32 (qmaxOf f)) s2)
      let g := match ofF32 q with
        | .fin _ m e => (ceilNarrow fmtE4m3 m e).getD 0x7E
        | _ => 0x7E
      qgroup g (yqElems f (fmul s2 (toF32 (ofNarrow fmtE4m3 g))) vs)
  | _ =>
    if a = 0 then zeros
    else
      let emax : Int := match f with | 0x09 => 8 | 0x0A => 15 | 0x0B => 2 | _ => 0
      let lg : Int := match ofF32 a with | .fin _ m e => floorLog2 m e | _ => 128
      let e := max (-127) (min 127 (lg - emax))
      let div := fun (v : F32) => toF32 (mulExt (ofF32 v) (.fin false 1 (-e)))
      let scale := (e + 127).toNat
      match f with
      | 0x09 => qgroup scale (vs.map (quantElem f fun v => quantFloat fmtE4m3 (satExt (div v))))
      | 0x0A => qgroup scale (vs.map (quantElem f fun v => quantFloat fmtE5m2 (satExt (div v))))
      | 0x0B => qgroup scale (vs.map (quantElem f fun v => quantFloat fmtE2m1 (satExt (div v))))
      | _ => qgroup scale (vs.map (quantElem f fun v => quantInt 8 (-127) 127 0
          (satExt (toF32 (mulExt (ofF32 v) (.fin false 1 (6 - e)))))))

/-- Split a list into groups of `n`. -/
def groupsOf {α : Type} (n : Nat) (l : List α) : List (List α) :=
  (List.range ((l.length + n - 1) / n)).map fun i => (l.drop (i * n)).take n

/-- Write element `i` of token `t` of head `h` into a page (06 R136; 4-bit elements two to a byte, R133). -/
def putElem (d : Bytes) (k h t : Nat) (page : Bytes) (i v : Nat) : Bytes :=
  let b := (h * dTokens d + t) * dDim d k + i
  match fmtBits (dFmt d k) with
  | 16 => put page (2 * b) (leBytes 2 v)
  | 8 => put page b (leBytes 1 v)
  | _ =>
    let old := rd page (b / 2) 1
    put page (b / 2) (leBytes 1 (if b % 2 = 0 then old / 16 * 16 + v % 16 else old % 16 + v % 16 * 16))

/-- A data page and, for streamed scales, its scale page, with the elements clipped so far. -/
structure PagePair where
  page : Bytes
  scales : Bytes
  clipped : Nat := 0

/-- Quantise a row of FP32 values into token `t` of head `h` of a page pair (06 R139, R140). -/
def putRow (d : Bytes) (k h t : Nat) (hp : HeadParam) (row : List F32) (pp : PagePair) : PagePair :=
  let f := dFmt d k
  let n := if fmtYq f || fmtMx f then dR d k else row.length
  let s2 := f32At pp.page (s2Off d k h)
  let gs := (groupsOf n row).map (quantGroup f hp s2 (dStreamed d))
  let page := (gs.flatMap (·.elems)).zipIdx.foldl (fun p e => putElem d k h t p e.2 e.1) pp.page
  let pp := { pp with page := page, clipped := pp.clipped + (gs.map (·.clipped)).foldl (· + ·) 0 }
  if fmtYq f && dStreamed d then
    { pp with scales := gs.zipIdx.foldl (fun b e => put b (streamOff d k h t e.2) (leBytes 2 e.1.scale)) pp.scales }
  else if hasScales d k then
    { pp with page := gs.zipIdx.foldl (fun b e => put b (scaleOff d k h t e.2) (leBytes 1 e.1.scale)) pp.page }
  else pp

/-- The FP32 values a stored row decodes to (06 Table 6.3). -/
def dequantRow (v : PageView) (h t : Nat) : List F32 :=
  (List.range (dDim v.d v.k)).map fun i =>
    toF32 (mulExt (viewElem v h t i) (ofF32 (groupScale v h t (scaleGroup v.d v.k i))))

/-- RMS normalisation of the first `w` elements of a key or latent row (04 R101). -/
def normRow (p : Bytes) (head w : Nat) (row : List F32) : List F32 :=
  let sum := (row.take w).foldl (fun a x => fadd a (fmul x x)) 0
  let r := frsqrt (fadd (fdiv sum (intToF32 w)) (pEps p))
  (row.take w).zipIdx.map (fun e => fmul (fmul e.1 r) (pGain p head e.2)) ++ row.drop w

/-- The tensor-head parameters that the program's format table gives for kind `k` (06 R135). -/
def programParams (p d : Bytes) (k : Nat) : List HeadParam :=
  if fmtHead (dFmt d k) then
    (List.range (dKvHeads d)).map fun h => ⟨ftS p k h, if fmtZp (dFmt d k) then ftZ p k h else 0⟩
  else []

/-- Write the first second-level scales of the heads of head group `g` into a page (06 R139). -/
def initS2 (p d : Bytes) (k g : Nat) (page : Bytes) : Bytes :=
  if hasS2 d k then
    (List.range (dHeadsPerPage d)).foldl (fun b h =>
      put b (s2Off d k h) (leBytes 4 (ftS2 p k (g * dHeadsPerPage d + h)).toNat)) page
  else page

/-- The tensor-head parameters of head `h` of head group `g`. -/
def paramOf (ps : List HeadParam) (d : Bytes) (g h : Nat) : HeadParam := (ps[g * dHeadsPerPage d + h]?).getD ⟨0x3F800000, 0⟩

/-- APPEND_TAIL on one page (04 Table 4.8, R101): the staged BF16 rows, in token then head order, for tokens at page indices
`ts` with rotary positions `poss`. -/
def appendPage (p d : Bytes) (k g : Nat) (ps : List HeadParam) (norm rotary : Bool) (ts : List Nat) (poss : List Int)
    (staged : Bytes) (pp : PagePair) : PagePair :=
  let dim := dDim d k
  let hs := dHeadsPerPage d
  let pp := if ts.contains 0 then { pp with page := initS2 p d k g pp.page } else pp
  ts.zipIdx.foldl (fun pp e =>
    (List.range hs).foldl (fun pp h =>
      let row := (List.range dim).map fun i =>
        toF32 (ofNarrow fmtBf16 (rd staged (((e.2 * hs + h) * dim + i) * 2) 2))
      let row := if norm then normRow p (g * hs + h) (pDimK p * 16) row else row
      let row := if rotary then
          rotateRow p (pRotTable p) (pRotStart p) (pRotCount p) (rotLow p) ((poss[e.2]?).getD 0) row
        else row
      putRow d k h e.1 (paramOf ps d g h) row pp) pp) pp

/-- The second-level scale REQUANT gives a page-head: max |v| over Qmax · 448, rounded towards +∞, or 1.0 (06 R139). -/
def requantS2 (f : Nat) (m : F32) : F32 :=
  if isZero32 m then 0x3F800000
  else
    let q := fdiv m (intToF32 (qmaxOf f * 448))
    -- the quotient rounded to nearest may lie below the exact one: step up when it does
    match ofF32 q, ofF32 m with
    | .fin _ mq eq, .fin _ mm em =>
      if ltExt (.fin false (mq * (qmaxOf f * 448)) eq) (.fin false mm em) then q + 1 else q
    | _, _ => q

/-- REQUANT of one page (06 R139): every token of the page below `n` is decoded and quantised again into the same format. -/
def requantPage (v : PageView) (n : Nat) (pp : PagePair) : PagePair :=
  let d := v.d
  let toks := List.range (min n (dTokens d))
  let pp := if hasS2 d v.k then
      (List.range (dHeadsPerPage d)).foldl (fun pp h =>
        let m := toks.foldl (fun m t => let x := maxAbs (dequantRow v h t); if flt m x then x else m) 0
        { pp with page := put pp.page (s2Off d v.k h) (leBytes 4 (requantS2 (dFmt d v.k) m).toNat) }) pp
    else pp
  (List.range (dHeadsPerPage d)).foldl (fun pp h =>
    toks.foldl (fun pp t => putRow d v.k h t (viewParam v h) (dequantRow v h t) pp) pp) pp

/-- REENCODE of the tokens of a page below `n` (04 R101): every key is rotated by the shift and quantised again with the page's
second-level scales or the tensor-head parameters. -/
def reencodePage (p : Bytes) (v : PageView) (shift : Int) (n : Nat) (pp : PagePair) : PagePair :=
  (List.range (dHeadsPerPage v.d)).foldl (fun pp h =>
    (List.range (min n (dTokens v.d))).foldl (fun pp t =>
      putRow v.d v.k h t (viewParam v h)
        (rotateRow p (pRotTable p) (pRotStart p) (pRotCount p) (rotLow p) shift (dequantRow v h t)) pp) pp) pp

/-- Copy the stored bytes of token `t` of one page pair to token `t'` of another (COMPACT). -/
def copyToken (d : Bytes) (k t : Nat) (src : PagePair) (t' : Nat) (dst : PagePair) : PagePair :=
  (List.range (dHeadsPerPage d)).foldl (fun dst h =>
    let page := (List.range (dDim d k)).foldl (fun b i => putElem d k h t' b i (elemAt d k src.page h t i)) dst.page
    let n := dDim d k / dR d k
    let page := if hasScales d k then
        (List.range n).foldl (fun b γ => put b (scaleOff d k h t' γ) (slice src.page (scaleOff d k h t γ) 1)) page
      else page
    let scales := if fmtYq (dFmt d k) && dStreamed d then
        (List.range n).foldl (fun b γ => put b (streamOff d k h t' γ) (slice src.scales (streamOff d k h t γ) 2)) dst.scales
      else dst.scales
    { dst with page := page, scales := scales }) dst

/-- A staged row holds an infinity or a NaN (04 R101). -/
def bf16Bad (b : Bytes) : Bool :=
  (List.range (b.length / 2)).any fun i => bits (rd b (2 * i) 2) 14 7 == 0xFF

end Sys2Proof.Machine
end

