-- ==== Sys2Proof/Machine/Relay.lean ====
section
/-! DEFINITION. Load records at the serving node (16 R356-R360; 17 R377): what a load copies and relays. -/

namespace Sys2Proof.Machine

/-- A tensor's stored tier for a TENSOR record: 1 when the deep tier serves it. -/
def tierCode (t : Ten) : Nat :=
  match t.st with
  | .deep => 1
  | .migrating => if t.toDeep then 0 else 1
  | _ => 0

/-- The body of a SEQ record (16 Table 16.2). -/
def bodySeq (q : Seq) : Bytes := padTo 64 q.desc ++ leBytes 8 q.fp ++ leBytes 8 q.openTime

/-- The body of a TENSOR record. -/
def bodyTensor (q : Seq) (ti : Nat) : Bytes :=
  let t := tenOf q ti
  let head := leBytes 1 (ti / 4) ++ leBytes 1 (ti % 4 + tierCode t * 4 + t.hint * 16) ++ [0, 0] ++
    leBytes 4 (tget 0 q.sat (ti / 4)) ++ List.replicate 8 0
  let ss := (List.range 64).flatMap fun h => leBytes 4 (((t.params[h]?).map (·.s.toNat)).getD 0)
  let zs := (List.range 64).flatMap fun h => leBytes 1 (((t.params[h]?).map (·.z)).getD 0)
  head ++ ss ++ zs

/-- The body of a STATE record. -/
def bodyState (q : Seq) : Bytes :=
  leBytes 4 q.committed ++ leBytes 1 q.tail ++ [0, 0, 0] ++ leBytes 4 q.app.rotOffset ++ [0, 0, 0, 0] ++
    (List.range 256).flatMap fun l => leBytes 1 (tget 0 q.app.fill l)

/-- Copy the streamed scales of token `t` of every head of scale kind `k` from one page to another. -/
def copyScaleToken (d : Bytes) (k t : Nat) (src : Bytes) (t' : Nat) (dst : Bytes) : Bytes :=
  match scaleOf d k with
  | none => dst
  | some j =>
    (List.range (dHeadsPerPage d)).foldl (fun b h =>
      (List.range (dDim d j / dR d j)).foldl (fun b γ => put b (streamOff d j h t' γ) (slice src (streamOff d j h t γ) 2)) b) dst

/-- Copy the stored bytes of token `t` of a page of any kind to token `t'` of another page of it. -/
def copyAnyToken (d : Bytes) (k t : Nat) (src : Bytes) (t' : Nat) (dst : Bytes) : Bytes :=
  if (scaleOf d k).isSome then copyScaleToken d k t src t' dst
  else (copyToken d k t { page := src, scales := [] } t' { page := dst, scales := [] }).page

/-- Copy the second-level area of a page. -/
def copyS2 (d : Bytes) (k : Nat) (src dst : Bytes) : Bytes :=
  if (scaleOf d k).isNone && hasS2 d k then
    put dst (s2Base d k) (slice src (s2Base d k) (dHeadsPerPage d * 4))
  else dst

/-- The areas of a page with only the tokens [f, f + n) of the page, and the second-level area (16 Table 16.2). -/
def coverPage (d : Bytes) (k f n : Nat) (page : Bytes) : Bytes :=
  let blank : Bytes := List.replicate (areaBytes d k) 0
  (List.range n).foldl (fun b i => copyAnyToken d k (f + i) page (f + i) b) (copyS2 d k page blank)

/-- Write the covered tokens and the second-level area of a record's areas into a page. -/
def mergePage (d : Bytes) (k f n : Nat) (areas page : Bytes) : Bytes :=
  (List.range n).foldl (fun b i => copyAnyToken d k (f + i) areas (f + i) b) (copyS2 d k areas page)

/-- The body of a PAGE record for the tokens [lo, hi) of the sequence that lie in page `idx`. -/
def bodyPage (s : State) (slot ti idx lo hi : Nat) : Bytes :=
  let d := (seqOf s slot).desc
  let p := idx % dPages d
  let a := max lo (p * dTokens d)
  let n := min hi ((p + 1) * dTokens d) - a
  leBytes 1 (ti / 4) ++ leBytes 1 (ti % 4) ++ leBytes 1 (idx / dPages d) ++ [0] ++ leBytes 4 p ++ leBytes 4 a ++ leBytes 2 n ++
    List.replicate 50 0 ++ coverPage d (ti % 4) (a - p * dTokens d) n (pageOrZero s slot ti idx)

/-- A time that never comes. -/
def never : Nat := 2 ^ 80

/-- LOAD_RATE in MB/s, at most 320,000 (R360; 18 Table 18.4). -/
def loadRate (s : State) : Nat := min 320000 ((s.cfg.img.map (·.loadRate)).getD 250000)

/-- LOAD_PARTITION (18 Table 18.4). -/
def loadPartition (s : State) : Nat := (s.cfg.img.map (·.loadPartition)).getD 63

/-- The reads of a load are charged to LOAD_PARTITION's weir in region `r` (R360; 14 R310): the time at which its bucket covers `bytes`, and the
bucket after them. A read that the bucket does not cover yet draws on it ahead of time (log 87). -/
def chargeLoad (r bytes : Nat) (s : State) : Nat × State :=
  let p := loadPartition s
  let w := weirOf s p
  if !w.en then (now s, s)
  else
    let held := readTokens s r p
    let need := alignUp 64 bytes * 16000
    if need ≤ held then (now s, setTokens r p (held - need) s)
    else if w.rate = 0 then (never, s)
    else
      let from_ := max (now s) (((tlook s.traffic.read (r * 64 + p)).map (·.at_)).getD 0)
      let at_ := from_ + divUp (need - held) w.rate
      (at_, { s with traffic := { s.traffic with read := tput s.traffic.read (r * 64 + p) ⟨0, at_⟩ } })

/-- S ends a load (16 R362): a sequence that only waited for it is released (15 R330). -/
def endLoadOut (key : Nat) (s : State) : State := sweepMoved { s with datum := { s.datum with loadOut := tdel s.datum.loadOut key } }

/-- Seal a record's body (17 R377): none when no key serves. -/
def sealBody (tenant : Nat) (hdr : Nat → Bytes) (body : Bytes) (s : State) : Option (Bytes × State) :=
  if !isProtected s tenant then some (hdr body.length ++ body, s)
  else match slotOfTenant s tenant with
    | none => none
    | some (k, ks) =>
      let ctr := max (ks.sealCtr + 1) (now s)
      match chooseKey ks.keys ctr with
      | none => none
      | some lk =>
        if keyExpired lk ctr then none
        else
          let key := Config.hmacSha256 lk.key (beBytes 4 0x4C4F4144)
          let nonce := beBytes 12 (myEndpoint s * 2 ^ 72 + ctr)
          let h := hdr (body.length + 24)
          let ct := Config.gcmSeal key nonce h body
          let out := h ++ leBytes 8 ctr ++ padTo body.length ct ++ leBytes 16 (Config.gcmTag key nonce h ct).toNat
          some (out, { s with key := tput s.key k { ks with sealCtr := ctr } })

/-- Form the next record of a load and send it (16 R357), no earlier than `ready` and than LOAD_RATE allows (R360); a load whose record cannot
be sent ends. -/
def sendLoadRec (key kind : Nat) (body : Bytes) (s : State) (ready : Nat := 0) : State :=
  match tlook s.datum.loadOut key with
  | none => s
  | some l =>
    let q := seqOf s l.slot
    let hdr := fun (n : Nat) => [BitVec.ofNat 8 kind, 0, 0, 0] ++ leBytes 4 (key % 2 ^ 32) ++ leBytes 4 n ++ leBytes 4 l.next
    match sealBody q.tenant hdr body s with
    | none => endLoadOut key s
    | some (r, s) =>
      let data := padTo (16 + alignUp 64 (r.length - 16)) r
      let start := max (max (now s) ready) s.datum.loadPaid
      let paid := if loadRate s = 0 then never else start + divUp (data.length * 1000) (loadRate s)
      let s := { s with datum := { s.datum with loadOut := tput s.datum.loadOut key { l with next := l.next + 1 }, loadPaid := paid } }
      let m : OutMsg :=
        { op := 0x2A, dst := l.dst, data := data, part := some (loadPartition s, false), purpose := .loadData key
          notBefore := if loadRate s = 0 then never else start }
      match sendMsg ctlDie m s with
      | (.sent _, s) => s
      | (.refused _, s) => endLoadOut key s

/-- The loads at S of a sequence that still relay. -/
def loadsOf (s : State) (slot : Nat) : List Nat := (s.datum.loadOut.filter fun e => e.2.slot == slot && !e.2.stopped).map (·.1)

/-- The sequence is under load at this node (16 R356). -/
def underLoad (s : State) (slot : Nat) : Bool := !(loadsOf s slot).isEmpty

/-- Relay one record to every load of a sequence (16 R358). -/
def relay (slot kind : Nat) (body : Bytes) (s : State) : State := (loadsOf s slot).foldl (fun s k => sendLoadRec k kind body s) s

/-- Relay the STATE of a sequence. -/
def relayState (slot : Nat) (s : State) : State := if underLoad s slot then relay slot 4 (bodyState (seqOf s slot)) s else s

/-- Relay a TENSOR record. -/
def relayTensor (slot ti : Nat) (s : State) : State := if underLoad s slot then relay slot 2 (bodyTensor (seqOf s slot) ti) s else s

/-- Relay the tokens [lo, hi) of the pages of a tensor that hold them, in every head group. -/
def relayTokens (slot ti lo hi : Nat) (s : State) : State :=
  if underLoad s slot && decide (lo < hi) then
    let d := (seqOf s slot).desc
    (List.range (dGroups d)).foldl (fun s g =>
      (List.range ((hi - 1) / dTokens d - lo / dTokens d + 1)).foldl (fun s j =>
        let idx := pageIdx d g (lo / dTokens d + j)
        relay slot 3 (bodyPage s slot ti idx lo hi) s) s) s
  else s

/-- The tensors that hold pages: registered and not void. -/
def dataTens (q : Seq) : List Nat := (tensOf q).filter fun ti => !dVoid q.desc (ti % 4)

/-- Relay whole pages: every page of a tensor that touches tokens [lo, hi), with its tokens below `hi`. -/
def relayPages (slot lo hi : Nat) (s : State) : State :=
  if underLoad s slot && decide (lo < hi) then
    let q := seqOf s slot
    let t := dTokens q.desc
    (dataTens q).foldl (fun s ti => relayTokens slot ti (lo / t * t) hi s) s
  else s

/-- The ranges that a load to node `dstNode` copies: the ranges of the pairs that hold both nodes, and those that a STAGED record gives to
a pair of the loading node (16 R356, R363). -/
def loadRanges (s : State) (tenant tag dstNode : Nat) : List (Nat × Nat) :=
  (placing s tenant tag).flatMap fun (_, m) =>
    (m.places.filter fun p => p.tag == tag).filterMap fun p =>
      match tlook m.pairs p.pair with
      | none => none
      | some q => if inPair q dstNode && (p.staged || inPair q (myNode s)) then some (p.lo, p.hi) else none

/-- The pages (tensor, index) that a load of sequence `slot` to node `dstNode` copies: those that hold a token of its ranges (16 R358). -/
def copyPages (s : State) (slot dstNode : Nat) : List (Nat × Nat) :=
  let q := seqOf s slot
  let top := q.committed + q.tail
  let ranges := loadRanges s q.tenant q.tag dstNode
  let t := dTokens q.desc
  (dataTens q).flatMap fun ti =>
    (pagesBelow q.desc top).filterMap fun idx =>
      let lo := idx % dPages q.desc * t
      if ranges.any (fun r => decide (r.1 < min top (lo + t)) && decide (lo < r.2)) then some (ti, idx) else none

/-- Read a page for a load and send its copy record (16 R358, R360). -/
def copyPage (key slot ti idx top : Nat) (s : State) : State :=
  let body := bodyPage s slot ti idx 0 top
  match chargeLoad (dirRegion slot) (body.length - 64) s with
  | (ready, s) => sendLoadRec key 3 body s ready

/-- Form every copy record of a load (16 R358): SEQ, TENSORs, STATE, the pages of the ranges and END. -/
def copyAll (key dstNode : Nat) (s : State) : State :=
  match tlook s.datum.loadOut key with
  | none => s
  | some l =>
    let q := seqOf s l.slot
    let top := q.committed + q.tail
    let s := sendLoadRec key 1 (bodySeq q) s
    let s := (tensOf q).foldl (fun s ti => sendLoadRec key 2 (bodyTensor q ti) s) s
    let s := sendLoadRec key 4 (bodyState q) s
    let pages := copyPages s l.slot dstNode
    let s := pages.foldl (fun s e => copyPage key l.slot e.1 e.2 top s) s
    sendLoadRec key 5 (leBytes 8 pages.length) s

end Sys2Proof.Machine
end

