-- ==== Sys2Proof/Machine/ApplyMap.lean ====
section
/-! DEFINITION. What a node does when it applies a map (15 R329-R331, R336; 16 R349, R350, R356, R361-R365): generations, takeover,
excluded sequences, loads, and forwards that the partner no longer owes. -/

namespace Sys2Proof.Machine

/-! ## Loads at the loading node -/

/-- The loads a map asks of this node in composition `c`, once for each (16 R363, R364): one for each STAGED record of its pairs, from the
effective primary of the range, and one for each sequence of a pair it is loading, from the node that serves. -/
def wantedLoads (c : Nat) (s : State) (m : DMap) : List LoadIn :=
  (m.places.filterMap fun p =>
    match tlook m.pairs p.pair with
    | none => none
    | some q =>
      if p.staged then
        (if (serving q).contains (myNode s) || loading q == some (myNode s) then
          (m.places.find? fun h => sameRange h p && !h.staged).bind fun h => (primaryOf m h).map fun n =>
            { comp := c, tag := p.tag, tenant := m.tenant, pair := p.pair, lo := p.lo, srcNode := n, srcPair := h.pair, staged := true }
        else none)
      else if loading q = some (myNode s) then
        ((serving q).head?).map fun n => { comp := c, tag := p.tag, tenant := m.tenant, pair := p.pair, srcNode := n, srcPair := p.pair }
      else none).dedup

/-- The two are the same load, whatever node it asks and however far it is. -/
def sameLoad (a b : LoadIn) : Bool :=
  a.comp == b.comp && a.tag == b.tag && a.pair == b.pair && a.staged == b.staged && a.lo == b.lo

/-- Loads at L that are not copied yet (16 R356: at most 64). -/
def openCount (s : State) : Nat := tcount s.datum.loadIn fun _ l => l.st == .opening || l.st == .copying

/-- Send LOAD_OPEN of load `id` (16 Table 16.1). A load that cannot be sent waits for the next probe timer. -/
def sendLoadOpen (id : Nat) (s : State) : State :=
  match tlook s.datum.loadIn id with
  | none => s
  | some l =>
    match (compOf s l.comp).map with
    | none => s
    | some m =>
      let msg : OutMsg :=
        { op := 0x29, dst := (nodeEndpoint m l.srcNode).getD 0, epoch := m.epoch, purpose := .loadOpen id
          data := leBytes 4 l.comp ++ leBytes 4 id ++ leBytes 8 l.tag ++ leBytes 2 l.tenant ++ List.replicate 6 0 }
      match sendMsg ctlDie msg s with
      | (.sent _, s) => { s with datum := { s.datum with loadIn := tput s.datum.loadIn id { l with st := .opening, retryAt := none } } }
      | (.refused _, s) => { s with datum := { s.datum with loadIn := tput s.datum.loadIn id { l with st := .opening, retryAt := some (now s) } } }

/-- A new load (16 R356): its LOAD_ID is the next one. -/
def newLoad (l : LoadIn) (s : State) : State :=
  let id := s.datum.nextLoad
  let s := { s with datum := { s.datum with
    nextLoad := if id + 1 < 2 ^ 32 then id + 1 else 1
    loadIn := tput s.datum.loadIn id l } }
  if l.st = .waitPrimary then s
  else if 64 < openCount s then { s with datum := { s.datum with loadIn := tput s.datum.loadIn id { l with retryAt := some (now s) } } }
  else sendLoadOpen id s

/-- Open the loads a composition asks for that are not open, up to 64 (16 R356, R363, R364). -/
def openLoads (c : Nat) (s : State) : State :=
  match (compOf s c).map with
  | none => s
  | some m =>
    (wantedLoads c s m).foldl (fun s w =>
      if tany s.datum.loadIn (fun _ l => sameLoad l w) || decide (64 ≤ openCount s) then s else newLoad w s) s

/-- End a load at L and release its partial copy (16 R362), unless another load still fills it or the node serves it. The entry is
invalidated when it is freed (03 R78). -/
def dropLoad (id : Nat) (s : State) : State :=
  match tlook s.datum.loadIn id with
  | none => s
  | some l =>
    let s := { s with datum := { s.datum with loadIn := tdel s.datum.loadIn id } }
    match l.slot with
    | none => s
    | some slot =>
      if (seqOf s slot).st = .loading ∧ tany s.datum.loadIn (fun _ x => x.slot == some slot) = false then releaseSeq slot s else s

/-- A load's partial copy is released and a new load is opened, from node `n` (R362, Table 16.4). -/
def restartFrom (id n : Nat) (s : State) : State :=
  match tlook s.datum.loadIn id with
  | none => s
  | some l => newLoad { l with srcNode := n, st := .opening, slot := none, next := 0, held := [], retryAt := none, heard := now s } (dropLoad id s)

/-- Send LOAD_DONE (16 Table 16.1) to a node. -/
def sendLoadDone (c node id : Nat) (s : State) : State :=
  match (compOf s c).map with
  | none => s
  | some m =>
    let msg : OutMsg :=
      { op := 0x2B, dst := (nodeEndpoint m node).getD 0, epoch := m.epoch, purpose := .loadDone id
        data := leBytes 4 c ++ leBytes 4 id ++ List.replicate 8 0 }
    (sendMsg ctlDie msg s).2

/-- Every sequence that this node's rejoining pairs load from one node has been copied: LOAD_DONE with LOAD_ID 0 goes to that node. The message
names no pair, so the pairs that one node serves are done together (16 R365; log 88). -/
def rejoinDone (c : Nat) (s : State) : State :=
  match (compOf s c).map with
  | none => s
  | some m =>
    let mine := m.pairs.filter fun e => loading e.2 == some (myNode s)
    let want := (wantedLoads c s m).filter fun w => !w.staged
    let from_ := ((mine.filterMap fun e => (serving e.2).head?).dedup).filter fun n =>
      !s.datum.loadDoneSent.contains (c, n) &&
        (want.filter fun w => w.srcNode == n).all fun w => tany s.datum.loadIn fun _ l => sameLoad l w && l.st == .copied
    from_.foldl (fun s n =>
      sendLoadDone c n 0 { s with datum := { s.datum with loadDoneSent := (c, n) :: s.datum.loadDoneSent } }) s

/-- Forget the LOAD_DONEs of rejoins of composition `c` that the new map has ended (16 R365). -/
def settleDone (c : Nat) (m : Option DMap) (s : State) : State :=
  let still := fun (n : Nat) => match m with
    | none => false
    | some m => m.pairs.any fun e => loading e.2 == some (myNode s) && (serving e.2).head? == some n
  { s with datum := { s.datum with loadDoneSent := s.datum.loadDoneSent.filter fun e => e.1 != c || still e.2 } }

/-- A copied load is admitted (16 R365): the sequence becomes ACTIVE. -/
def admitLoad (id : Nat) (l : LoadIn) (s : State) : State :=
  let s := { s with datum := { s.datum with loadIn := tdel s.datum.loadIn id } }
  match l.slot with
  | none => s
  | some slot => if (seqOf s slot).st = .loading then setSeq slot { seqOf s slot with st := .active } s else s

/-- A node of the pair that serves a load still serves, or another that L can ask in its place (16 R362, R363): none when no node of that pair
serves. -/
def loadSource (m : DMap) (l : LoadIn) : Option Nat :=
  (tlook m.pairs l.srcPair).bind fun q => if (serving q).contains l.srcNode then some l.srcNode else (serving q).head?

/-- A load whose serving node has failed starts again from the other node of its pair, and ends where there is none (16 R362). -/
def settleSource (m : DMap) (id : Nat) (l : LoadIn) (s : State) : State :=
  match loadSource m l with
  | none => dropLoad id s
  | some n => if n = l.srcNode ∨ l.st = .finishing then s else restartFrom id n s

/-- A load under a STAGED record (16 R363): UNPLACE ends it, and the MOVE that names its pair has L send LOAD_DONE once it is copied. -/
def settleStaged (m : DMap) (id : Nat) (l : LoadIn) (s : State) : State :=
  let mine := m.places.filter fun p => p.tag == l.tag && p.pair == l.pair && p.lo == l.lo
  if mine.any (·.staged) then settleSource m id l s
  else if mine.isEmpty then dropLoad id s
  else if l.st = .copied ∧ l.moved = false then
    sendLoadDone l.comp l.srcNode id { s with datum := { s.datum with loadIn := tput s.datum.loadIn id { l with moved := true } } }
  else settleSource m id { l with moved := true }
    { s with datum := { s.datum with loadIn := tput s.datum.loadIn id { l with moved := true } } }

/-- What the new map makes of a load at L (16 R361-R365). -/
def settleLoadIn (c : Nat) (m : Option DMap) (id : Nat) (s : State) : State :=
  match tlook s.datum.loadIn id, m with
  | none, _ => s
  | some _, none => dropLoad id s
  | some l, some m =>
    if l.comp ≠ c then s
    else if l.staged then settleStaged m id l s
    else
      let me := myNode s
      let held := m.places.filter fun p => p.tag == l.tag && p.pair == l.pair && !p.staged
      match held, tlook m.pairs l.pair with
      | [], _ => dropLoad id s
      | _, none => dropLoad id s
      | _, some q =>
        if !inPair q me then dropLoad id s
        else if l.reload then
          (if q.st ≠ 0 then dropLoad id s
           else if l.st = .waitPrimary ∧ (held.all fun p => primaryOf m p != some me) then sendLoadOpen id s
           else s)
        else if loading q = some me then settleSource m id l s
        else if q.st = 0 then
          (if l.st = .copied then admitLoad id l s
           else { s with datum := { s.datum with loadIn := tput s.datum.loadIn id { l with reload := true } } })
        else dropLoad id s

/-! ## Loads at the serving node -/

/-- Relays of a load that are not acknowledged. -/
def relaysOut (s : State) (key : Nat) : Bool := tany s.jx.out fun _ m => m.purpose == .loadData key

/-- A load that has stopped relaying ends when its relays are acknowledged. -/
def settleStopped (key : Nat) (s : State) : State :=
  match tlook s.datum.loadOut key with
  | some l => if l.stopped && l.finish.isNone && !relaysOut s key then endLoadOut key s else s
  | none => s

/-- What the new map makes of a load at S (16 R362, R363, R365). -/
def settleLoadOut (c : Nat) (old m : Option DMap) (key : Nat) (s : State) : State :=
  match tlook s.datum.loadOut key, m with
  | none, _ => s
  | some _, none => endLoadOut key s
  | some l, some m =>
    if l.comp ≠ c then s
    else
      match tlook m.members l.dst with
      | none => endLoadOut key s
      | some x =>
        let tag := (seqOf s l.slot).tag
        let pairsOf := fun (d : DMap) => (d.places.filter (·.tag == tag)).filterMap fun p => (tlook d.pairs p.pair).map fun q => (p, q)
        let was := ((old.map pairsOf).getD []).any fun e => !e.1.staged && loading e.2 == some x.node
        let nowLoads := (pairsOf m).any fun e =>
          loading e.2 == some x.node || (e.1.staged && (serving e.2).contains x.node)
        let nowServes := (pairsOf m).any fun e => !e.1.staged && (serving e.2).contains x.node
        if nowLoads then s
        else if nowServes then
          (if was then settleStopped key { s with datum := { s.datum with loadOut := tput s.datum.loadOut key { l with stopped := true } } }
           else s)
        else endLoadOut key s

/-! ## Sequences -/

/-- Write the generation the map gives into every sequence record it places (15 R329). -/
def mapGens (m : DMap) (s : State) : State :=
  let gen := fun (tag : Nat) => (m.places.find? fun p => p.tag == tag).map (·.gen)
  let dir := tmap s.dir fun _ q =>
    if q.tenant = m.tenant ∧ q.st ≠ .free then { q with pgen := (gen q.tag).getD q.pgen } else q
  { s with dir := dir }

/-- Takeover of one sequence (09 R214; 16 Table 16.4): its tail is discarded in one step. -/
def takeover (slot : Nat) (s : State) : State :=
  let q := seqOf s slot
  if q.app.takeover || (q.tail == 0 && q.app.fill.isEmpty) then s
  else countTenant q.tenant 0x2C (setSeq slot { q with tail := 0, app := { q.app with fill := [], takeover := true } } s)

/-- The sequences whose effective primary the change has made this node, on a pair that it made degraded (16 R349). -/
def takeovers (old m : DMap) (s : State) : State :=
  let me := myNode s
  let tags := (m.places.filter fun p => !p.staged && primaryOf m p == some me &&
    (match tlook m.pairs p.pair, tlook old.pairs p.pair with
     | some q, some q0 => q.st != 0 && q0.st == 0 &&
        !((old.places.find? fun o => sameRange o p && !o.staged).bind (primaryOf old) == some me)
     | _, _ => false)).map (·.tag)
  tags.dedup.foldl (fun s tag => match findSeq s m.tenant tag with | some slot => takeover slot s | none => s) s

/-- The node is outside the serving nodes of a pair, also where a rejoin already loads it or another node has its place: it releases what it
holds only through that pair (16 R350). What a load of its own fills is no copy of that kind. -/
def excluded (old : Option DMap) (m : DMap) (s : State) : State :=
  let me := myNode s
  let served := fun (d : DMap) (pair : Nat) => match tlook d.pairs pair with
    | some q => (serving q).contains me
    | none => false
  let left := (old.map fun d => (d.pairs.filter fun e => (serving e.2).contains me && !served m e.1).map (·.1)).getD []
  let out := (m.pairs.filter fun e => inPair e.2 me && !(serving e.2).contains me).map (·.1)
  let mineNow := fun (p : Place) => match tlook m.pairs p.pair with
    | some q => (serving q).contains me || (p.staged && inPair q me)
    | none => false
  let tagsOf := fun (d : DMap) (pair : Nat) => (d.places.filter fun p => p.pair == pair && !p.staged).map (·.tag)
  (left ++ out).dedup.foldl (fun s pair =>
    let other := fun (tag : Nat) => m.places.any fun p => p.tag == tag && p.pair != pair && mineNow p
    let tags := ((((old.map fun d => tagsOf d pair).getD []) ++ tagsOf m pair).dedup).filter fun tag => !other tag
    let slots := tags.filterMap fun tag => (findSeq s m.tenant tag).filter fun k =>
      (seqOf s k).st != .releasing && !tany s.datum.loadIn fun _ l => l.slot == some k
    let s := slots.foldl (fun s k => releaseSeq k s) s
    if left.contains pair || (old.isNone && !slots.isEmpty) then raiseCount leafSelfExcluded (chipCntOff 4) [] s else s) s

/-- The token an enabling append message starts at (09 Table 9.2). -/
def fwdToken (s : State) (x : Inst) : Nat :=
  match x.msg with
  | none => 0
  | some m => bits (rd (winRead s m.window m.offset 4) 0 4) 24 0

/-- The sequence a forwarding instance appends to: its tag stands in the APPEND of slot 0 (12 R281). -/
def fwdTag (x : Inst) : Nat := rd (aParams x.bytes 0) 0 8

/-- Forwards that a partner marked failed no longer owes (09 R214, 12 R286): FORWARD completes with SINGLE_COPY, a commit, rollback or
shift goes on alone. -/
def settleForwards (s : State) : State :=
  let fwd := s.slu.inst.filterMap fun e =>
    if degradedAt s e.2.tenant (fwdTag e.2) (fwdToken s e.2) then
      (e.2.acts.zipIdx.find? fun a => a.1 == .busy && aOp e.2.bytes a.2 == 4).map fun a => (e.1, a.2)
    else none
  let s := fwd.foldl (fun s e =>
    let s := { s with jx := { s.jx with out := tfilter s.jx.out fun _ m => m.purpose != .forward e.1 e.2 } }
    actDone e.1 e.2 stOk false true 0 s) s
  let ops := tmap s.work.ctlOps fun _ o =>
    if o.fwd = .waiting ∧ degradedAt s (seqOf s o.slot).tenant (seqOf s o.slot).tag (seqOf s o.slot).committed then
      { o with fwd := .single } else o
  let s := { s with work := { s.work with ctlOps := ops } }
  { s with jx := { s.jx with out := tfilter s.jx.out fun _ m =>
      match m.purpose with
      | .ctlForward slot => !(tany s.work.ctlOps fun _ o => o.slot == slot && o.fwd == .single)
      | _ => true } }

/-! ## Installing a map -/

/-- A sequence that the map places on this node's pairs again is not released for R330. -/
def noteBack (m : DMap) (s : State) : State :=
  let mine := fun (k : Nat) => (seqOf s k).tenant == m.tenant && m.places.any fun r => r.tag == (seqOf s k).tag &&
    (match tlook m.pairs r.pair with | some q => inPair q (myNode s) | none => false)
  { s with datum := { s.datum with released := s.datum.released.filter fun k => !mine k } }

/-- Put a map into force: `old` is the map before, `new` the one after (none: the composition is left). -/
def installMap (c : Nat) (old new : Option DMap) (s : State) : State :=
  let s := match new with
    | some m => noteBack m (mapGens m s)
    | none => s
  let s := match old, new with
    | some o, some m => takeovers o m s
    | _, _ => s
  let s := match new with
    | some m => excluded old m s
    | none => s
  let s := ((s.datum.loadIn.filter fun e => e.2.comp == c).map (·.1)).foldl (fun s id => settleLoadIn c new id s) s
  let s := ((s.datum.loadOut.filter fun e => e.2.comp == c).map (·.1)).foldl (fun s k => settleLoadOut c old new k s) s
  let s := settleDone c new (settleForwards s)
  let s := if s.node.st = .joining ∧ servesAny s = true then { s with node := { s.node with st := .serving } } else s
  drainCheck (rejoinDone c (openLoads c s))

/-- The node leaves composition `c` (15 R336). -/
def leaveComp (c : Nat) (s : State) : State :=
  let old := (compOf s c).map
  installMap c old none (setComp c {} { s with node := { s.node with blocked := tdel s.node.blocked c } })

/-- The node can store the map in place of that of `c` (15 Table 15.1, R336). -/
def canStore (c : Nat) (m : DMap) (s : State) : Bool :=
  let others := (maps s).filter fun e => e.1 != c
  decide (others.length + 1 ≤ 256) &&
  decide (((others.flatMap fun e => e.2.members.map (·.1)) ++ m.members.map (·.1)).dedup.length ≤ 16384) &&
  decide ((others.map fun e => e.2.places.length).foldl (· + ·) 0 + m.places.length ≤ 524288)

/-- A change's own records list this node as serving (15 R337). -/
def changeNamesMe (change : Bytes) (m : DMap) (s : State) : Bool :=
  match splitRecs 512 change with
  | none => false
  | some rs => rs.any fun r => (rd r 0 1 == 2 || rd r 0 1 == 4) &&
      (match tlook m.pairs (bits (rd r 2 2) 8 0) with | some q => (serving q).contains (myNode s) | none => false)

/-- Note the sequences whose ranges have left this node's pairs from map `p` to map `m` (15 R330). -/
def noteGone (p m : DMap) (s : State) : State :=
  let mine := fun (d : DMap) (tag : Nat) => d.places.any fun r => r.tag == tag &&
    (match tlook d.pairs r.pair with | some q => inPair q (myNode s) | none => false)
  let gone := ((p.places.filter fun r => mine p r.tag && !mine m r.tag).map (·.tag)).dedup
  let slots := gone.filterMap fun tag => findSeq s m.tenant tag
  { s with datum := { s.datum with released := (s.datum.released ++ slots).dedup } }

/-- The window closes (15 R331): map E - 1 is forgotten, and the sequences whose ranges have left this node's pairs are noted (R330). -/
def closeWindow (c : Nat) (s : State) : State :=
  let x := compOf s c
  let s := match x.map, x.prev with
    | some m, some p => noteGone p m s
    | _, _ => s
  setComp c { x with window := false, prev := none } s

/-- Apply a committed change to composition `c` (15 R336): false where the result cannot be stored. A window that is still open closes, and that
of the new epoch opens (R331). -/
def applyChange (c : Nat) (change : Bytes) (s : State) : Bool × State :=
  let x := compOf s c
  match changeResult x.map change with
  | none => (true, s)
  | some none => (true, leaveComp c s)
  | some (some m) =>
    if (memberOfNode m (myNode s)).isNone then (true, leaveComp c s)
    else if !canStore c m s then (false, leaveComp c (raise leafDatumStoreFull [] s))
    else
      let y : Comp :=
        { x with map := some m, window := true, prev := x.map, fetch := none, promise := 0, acc := none, lastChange := change
                 voting := x.voting || changeNamesMe change m s }
      (true, sweepMoved (installMap c x.map (some m) (setComp c y (if x.window then closeWindow c s else s))))

/-- Install a fetched map with its window closed (15 R340; 16 R351): kept if it names this node. A commit that began the fetch and names the node as
serving lets it vote (R337). -/
def installFetched (c : Nat) (m : DMap) (last : Nat) (s : State) : State :=
  let x := compOf s c
  if (memberOfNode m (myNode s)).isNone then leaveComp c s
  else if !canStore c m s then leaveComp c (raise leafDatumStoreFull [] s)
  else
    let named := (x.fetch.map (·.named)).getD false && m.pairs.any fun e => (serving e.2).contains (myNode s)
    let y : Comp :=
      { x with map := some m, window := false, prev := none, fetch := none, promise := 0, acc := none, lastStep := last, lastChange := []
               voting := x.voting || named }
    let s := match x.prev.or x.map with
      | some p => noteGone p m s
      | none => s
    sweepMoved (installMap c x.map (some m) (setComp c y s))

end Sys2Proof.Machine
end

