-- ==== Sys2Proof/Machine/Agree.lean ====
section
/-! DEFINITION. Agreement (15 R332-R337, R351-R353): a voter's answers, the rounds of a proposer and the end of a proposal. -/

namespace Sys2Proof.Machine

/-- The response body of R339. -/
def respBody (status : Nat) (rep win : Bool) (epoch ballot acc : Nat) : Bytes :=
  leBytes 1 status ++ leBytes 1 (bitOf rep 0 + bitOf win 1) ++ [0, 0] ++ leBytes 4 epoch ++ leBytes 4 ballot ++ leBytes 4 acc

/-- The agreement body of R339. -/
def agreeBody (c base ballot len : Nat) : Bytes := leBytes 4 c ++ leBytes 4 base ++ leBytes 4 ballot ++ leBytes 2 len ++ [0, 0]

/-- E of a composition, 0 when the node holds no map of it. -/
def epochOf (x : Comp) : Nat := (x.map.map (·.epoch)).getD 0

/-- The code of a composition's state (20 DATUM_COMP). -/
def compCode (x : Comp) : Nat := if behind x then 3 else if x.map.isNone then 0 else if x.window then 2 else 1

/-- What an agreement message meets before its ballot is looked at (15 Table 15.5, R337): a status, and whether the node fetches. -/
def agreeGate (x : Comp) (base : Nat) (vote : Bool) : Option Nat × Bool :=
  if behind x then (some stRetry, false)
  else if x.map.isNone then (some stNoPage, false)
  else if epochOf x < base then (some stRetry, true)
  else if vote && !x.voting then (some stRetry, false)
  else if base < epochOf x then (some stEpochStale, false)
  else (none, false)

/-- PREPARE at a voter (15 Table 15.5, R335): status, promised ballot, accepted ballot and change. -/
def voterPrepare (c ballot : Nat) (s : State) : (Nat × Nat × Nat × Bytes) × State :=
  let x := compOf s c
  if ballot < x.promise then ((stStateConflict, x.promise, 0, []), s)
  else
    let a := x.acc.getD (0, [])
    ((stOk, ballot, a.1, a.2), setComp c { x with promise := ballot } s)

/-- ACCEPT at a voter (15 Table 15.5, R335). -/
def voterAccept (c ballot : Nat) (change : Bytes) (s : State) : (Nat × Nat) × State :=
  let x := compOf s c
  if ballot < x.promise then ((stStateConflict, x.promise), s)
  else ((stOk, ballot), setComp c { x with promise := ballot, acc := some (ballot, change) } s)

/-! ## Proposals -/

/-- The proposals of a composition, the one under way first. -/
def propsOf (s : State) (c : Nat) : List Proposal := tget [] s.datum.prop c

/-- Write them. -/
def setProps (c : Nat) (l : List Proposal) (s : State) : State :=
  { s with datum := { s.datum with prop := tset [] s.datum.prop c l } }

/-- Change the proposal under way. -/
def setHead (c : Nat) (p : Proposal) (s : State) : State :=
  match propsOf s c with
  | _ :: rest => setProps c (p :: rest) s
  | [] => s

/-- A change of one PAIR_STATE record: its pair and state. -/
def pairChange (change : Bytes) : Option (Nat × Nat) :=
  if change.length = 16 ∧ rd change 0 1 = 4 then some (bits (rd change 2 2) 8 0, rd change 8 1) else none

/-- The state that the map gives the pair of a pair-state change. -/
def pairNow (x : Comp) (change : Bytes) : Option Nat :=
  (pairChange change).bind fun e => (x.map.bind fun m => tlook m.pairs e.1).map (·.st)

/-- The states that Table 15.2's path leads to after state `st`, before the pair is NORMAL and fails again (16 Table 16.4). -/
def laterStates (st : Nat) : List Nat :=
  match st with
  | 1 => [4, 5] | 2 => [3, 5] | 3 => [0] | 4 => [0] | _ => []

/-- The end condition of "Propose a pair state" (16 Table 16.4): the map shows the state of the node's own proposal, or a later one, and not the
state it was proposed from. -/
def pairShown (x : Comp) (p : Proposal) : Bool :=
  match pairChange p.change, pairNow x p.change with
  | some (_, st), some st' => p.who == .node && some st' != p.from_ && (st' == st || (laterStates st).contains st')
  | _, _ => false

/-- A proposal that waits its turn: its round is 0 until DATUM_PROPOSE starts it (R332). -/
def waitingProposal (c : Nat) (change : Bytes) (who : Proposer) (s : State) : Proposal :=
  { change := change, who := who, from_ := pairNow (compOf s c) change, round := 0 }

/-- A new proposal waits its turn (R332). A change the node already waits to propose is not added twice. -/
def addProposal (c : Nat) (change : Bytes) (who : Proposer) (s : State) : State :=
  let l := propsOf s c
  if who = .node ∧ l.any (fun p => p.who == .node && p.change == change) then s
  else setProps c (l ++ [waitingProposal c change who s]) s

/-- A proposal of the node's own that is its next change: it goes before those that wait (16 R353). -/
def addNext (c : Nat) (change : Bytes) (s : State) : State :=
  let new := waitingProposal c change .node s
  let same := fun (p : Proposal) => p.who == .node && p.change == change
  match propsOf s c with
  | [] => setProps c [new] s
  | p :: rest =>
    if same p then s
    else if p.round = 0 then setProps c (new :: p :: rest.filter fun x => !same x) s
    else setProps c (p :: new :: rest.filter fun x => !same x) s

/-- Keep the response of a message in its filter entry, for duplicates (11 R258). -/
def saveResp (src msgId op : Nat) (data : Bytes) (s : State) : State :=
  { s with jx := { s.jx with filter := tmod s.jx.filter (src * 2 ^ 32 + msgId) fun f => { f with resp := some (op, data) } } }

/-- A proposal ends: whoever asked is told (R332, R339; 20 Table 20.3). -/
def finishProposal (c status : Nat) (s : State) : State :=
  match propsOf s c with
  | [] => s
  | p :: rest =>
    let s := setProps c rest s
    let x := compOf s c
    let body := respBody status false x.window (epochOf x) x.promise 0
    match p.who with
    | .node => s
    | .window tag =>
      match s.cfg.outstanding.find? fun d => d.opcode == 0x20 && d.obj == c && d.tag == tag with
      | none => s
      | some d => ringWrite status 0x20 tag body { s with cfg := { s.cfg with outstanding := s.cfg.outstanding.erase d } }
    | .message src msgId port addr =>
      sendOnce port 0xA8 src 0 msgId (epochOf x) (some addr) none body (saveResp src msgId 0xA8 body s)

/-- The voters of a map, each once (15 Table 15.2). -/
def voters (m : DMap) : List Nat := (m.pairs.filterMap fun e => voterOf e.2).dedup

/-- How many pairs vote through the listed nodes. -/
def votes (m : DMap) (l : List Nat) : Nat := m.pairs.countP fun e => match voterOf e.2 with | some v => l.contains v | none => false

/-- Q (R332). -/
def quorum (m : DMap) : Nat := m.pairs.length / 2 + 1

/-- The ballot of a round (R332). -/
def ballotOf (s : State) (round : Nat) : Nat := round * 4096 + myNode s

/-- An agreement message of this node to node `n`. -/
def sendAgree (op c base ballot n : Nat) (ep : Option Nat) (addr : Option (BitVec 128)) (change : Bytes) (p : Purpose) (s : State) : State :=
  match ep with
  | none => s
  | some ep =>
    let m : OutMsg :=
      { op := op, dst := ep, addr := addr, epoch := base, data := agreeBody c base ballot change.length ++ change, purpose := p }
    if n = myNode s then s else (sendMsg ctlDie m s).2

/-- The node member records of a map. -/
def nodeMembers (m : DMap) : List (Nat × Member) := m.members.filter fun e => e.2.isNode

/-- The nodes that a change's REJOIN records name with NEW_NODE, or leave in place, as loading nodes (16 R351). -/
def rejoinNodes (change : Bytes) (m : DMap) : List Nat :=
  ((splitRecs 512 change).getD []).filterMap fun r =>
    if rd r 0 1 = 4 ∧ (rd r 8 1 = 3 ∨ rd r 8 1 = 4) then (tlook m.pairs (bits (rd r 2 2) 8 0)).bind loading else none

/-- Send MAP_NOTICE after a committed change (16 R351). -/
def mapNotices (c : Nat) (change : Bytes) (m : DMap) (s : State) : State :=
  let eps := (m.members.filter fun e => !e.2.isNode).map (·.1) ++ (rejoinNodes change m).filterMap (nodeEndpoint m)
  eps.dedup.foldl (fun s ep =>
    if ep = myEndpoint s then s
    else sendOnce ctlDie 0x2C ep 0 0 m.epoch ((tlook m.members ep).bind fun x => x.addrs.head?) none
      (leBytes 4 c ++ leBytes 4 m.epoch) s) s

/-- A CREATE that names this node makes a map it cannot store, beyond its 256 compositions among others (01 R20): it is refused before anything is
sent. -/
def createFull (c : Nat) (new : Option DMap) (s : State) : Bool :=
  match new with
  | some m => (memberOfNode m (myNode s)).isSome && !canStore c m s
  | none => false

/-- A quorum has accepted `c`'s carried change: it is committed, applied here and sent to every node member of both maps (R332). -/
def commitChange (c : Nat) (p : Proposal) (s : State) : State :=
  let old := (compOf s c).map
  let base := (old.map (·.epoch)).getD 0
  let new := (changeResult old p.carried).getD none
  let b := ballotOf s p.round
  if old.isNone && createFull c new s then finishProposal c stStateConflict (raise leafDatumStoreFull [] s)
  else
  let from_ := fun (m : Option DMap) => (m.map nodeMembers).getD []
  let targets := (from_ old ++ (from_ new).filter fun e => !(from_ old).any fun o => o.1 == e.1)
  let s := targets.foldl (fun s e => sendAgree 0x27 c base b e.2.node (some e.1) e.2.addrs.head? p.carried (.commitTo c e.2.node) s) s
  let (_, s) := applyChange c p.carried s
  let s := match new with
    | some m => mapNotices c p.carried m s
    | none => s
  if p.carried = p.change then finishProposal c stOk s else setHead c { p with round := 0 } s

/-- Advance the proposal under way when a quorum has accepted. -/
def checkAccepts (c : Nat) (s : State) : State :=
  match propsOf s c with
  | [] => s
  | p :: _ =>
    match (compOf s c).map with
    | none => if p.phase = .accept then commitChange c p s else s
    | some m => if p.phase = .accept ∧ quorum m ≤ votes m p.accepts then commitChange c p s else s

/-- Enter the accept phase when a quorum has promised: the change of the highest accepted ballot is carried, else the node's own. -/
def checkPromises (c : Nat) (s : State) : State :=
  match propsOf s c with
  | [] => s
  | p :: _ =>
    let m := (compOf s c).map
    let enough := match m with
      | none => true
      | some m => decide (quorum m ≤ votes m p.promises)
    if p.phase = .prepare ∧ enough = true then
      let carried := if p.best.1 = 0 then p.change else p.best.2
      let b := ballotOf s p.round
      let p := { p with phase := .accept, since := now s, carried := carried, accepts := [] }
      let s := setHead c p s
      match m with
      | none => checkAccepts c s
      | some m =>
        let me := myNode s
        let s := (voters m).foldl (fun s n => sendAgree 0x26 c m.epoch b n (nodeEndpoint m n) none carried (.accept c b n) s) s
        if (voters m).contains me && (agreeGate (compOf s c) m.epoch true).1.isNone then
          let (r, s) := voterAccept c b carried s
          checkAccepts c (if r.1 = stOk then setHead c { p with accepts := [me] } s else s)
        else s
    else s

/-- Start a round of the proposal under way (R332): a pair state that the map shows ends it without action (16 R354), and a change that is invalid
against map E is refused. CREATE has no pairs to vote at epoch 0, so its proposer alone agrees it (DEDUCED, log 34). -/
def startRound (c round : Nat) (s : State) : State :=
  match propsOf s c with
  | [] => s
  | p :: _ =>
    let x := compOf s c
    if behind x then s
    else if pairShown x p then finishProposal c stOk s
    else if (changeResult x.map p.change).isNone then finishProposal c stMalformed s
    else
      let b := ballotOf s round
      let p := { p with round := round, phase := .prepare, since := now s, promises := [], accepts := [], best := (0, []) }
      let s := setHead c p s
      match x.map with
      | none => checkPromises c s
      | some m =>
        let me := myNode s
        let s := (voters m).foldl (fun s n => sendAgree 0x25 c m.epoch b n (nodeEndpoint m n) none [] (.prepare c b n) s) s
        if (voters m).contains me && (agreeGate x m.epoch true).1.isNone then
          let (r, s) := voterPrepare c b s
          let p := if r.1 = stOk then { p with promises := [me], best := if p.best.1 < r.2.2.1 then r.2.2 else p.best } else p
          checkPromises c (setHead c p s)
        else s

/-- DATUM_PROPOSE (R332): the first waiting proposal of the composition starts its rounds. -/
def execDatumPropose (comp : BitVec 32) (s : State) : Host.Outcome State Fault Refusal :=
  .next (match propsOf s comp.toNat with
    | p :: _ => if awake s && p.round == 0 then startRound comp.toNat 1 s else s
    | [] => s)

/-- DATUM_ROUND_TIMEOUT (R332): 2 ms without a quorum; the node backs off for a random 100 to 400 µs, a free value. -/
def execDatumRoundTimeout (comp : BitVec 32) (s : State) : Host.Outcome State Fault Refusal :=
  .next (match propsOf s comp.toNat with
    | p :: _ =>
      if p.round ≠ 0 ∧ (p.phase = .prepare ∨ p.phase = .accept) ∧ p.since + 2000000 ≤ now s then
        let (n, s) := takeFree s
        setHead comp.toNat { p with phase := .backoff (now s + 100000 + (Config.freeBits 64 n).toNat % 300001) } s
      else s
    | [] => s)

/-- DATUM_BACKOFF_EXPIRE (R332): the next round starts; after eight rounds the proposal ends with ST_RETRY and DATUM_NO_QUORUM. -/
def execDatumBackoffExpire (comp : BitVec 32) (s : State) : Host.Outcome State Fault Refusal :=
  .next (match propsOf s comp.toNat with
    | p :: _ =>
      match p.phase with
      | .backoff t =>
        if p.round ≠ 0 ∧ t ≤ now s then
          (if p.round < 8 then startRound comp.toNat (p.round + 1) s
           else finishProposal comp.toNat stRetry (count (chipCntOff 0) s))
        else s
      | _ => s
    | [] => s)

/-- A change of the composition has committed without this node's proposal: the proposal under way starts again from the new epoch, and ends
with ST_OK where that change was its own. -/
def overtaken (c : Nat) (change : Bytes) (s : State) : State :=
  match propsOf s c with
  | [] => s
  | p :: _ =>
    if p.change = change then finishProposal c stOk s
    else if p.round = 0 then s
    else setHead c { p with round := 0 } s

/-! ## Proposals that a failure brings (16 R349, R353) -/

/-- The PAIR_STATE change that leaves node `n` of a pair serving alone. -/
def singleChange (pair : Nat) (p : PairRec) (n : Nat) : Bytes := recPairState pair (if p.a = n then 1 else 2)

/-- The loads that node `n` takes from this node end: it has failed (16 R362). -/
def endLoadsTo (n : Nat) (s : State) : State :=
  match endpointOfNode s n with
  | none => s
  | some ep => ((s.datum.loadOut.filter fun e => e.2.dst == ep).map (·.1)).foldl (fun s k => endLoadOut k s) s

/-- A partner is suspect (R349): the changes that this node proposes; a load it takes from this node has ended (16 R362). -/
def suspectPartner (n : Nat) (s : State) : State :=
  let me := myNode s
  let s := endLoadsTo n s
  let s := { s with datum := { s.datum with probe := tput s.datum.probe n { tget {} s.datum.probe n with suspect := true } } }
  (maps s).foldl (fun s e => e.2.pairs.foldl (fun s q =>
    if inPair q.2 me && inPair q.2 n && n != me then
      if q.2.st = 0 then addProposal e.1 (singleChange q.1 q.2 me) .node s
      else if loading q.2 = some me then
        addProposal e.1 (recPairState q.1 5) .node (addProposal e.1 (singleChange q.1 q.2 n) .node s)
      else s
    else s) s) s

/-- DATUM_COMMIT was answered with ST_STATE_CONFLICT by node `n` (R353). -/
def storeFull (c n : Nat) (s : State) : State :=
  match (compOf s c).map with
  | none => s
  | some m => m.pairs.foldl (fun s q =>
      if inPair q.2 n && (q.2.st == 0 || (serving q.2).contains n || loading q.2 == some n) then
        addNext c (singleChange q.1 q.2 (otherNode q.2 n)) s
      else s) s

end Sys2Proof.Machine
end

