-- ==== Sys2Proof/Machine/DmaEnd.lean ====
section
/-! DEFINITION. DMA descriptors and channels (13 R292-R295), and the ends of a run other than with ST_OK (13 R299, R304, R305), which a fence or the
loss of a line also brings. -/

namespace Sys2Proof.Machine

/-! ## The descriptor (13 Table 13.2) -/

abbrev dmSrcKind (d : Bytes) : Nat := bits (rd d 1 1) 1 0
abbrev dmDstKind (d : Bytes) : Nat := bits (rd d 1 1) 3 2
abbrev dmSrcLen (d : Bytes) : Nat := rd d 4 4
abbrev dmSrcAddr (d : Bytes) : Nat := bits (rd d 8 8) 43 0
abbrev dmSrcStride (d : Bytes) : Int := signed 48 (rd d 16 6)
abbrev dmSrcLines (d : Bytes) : Nat := rd d 24 3
abbrev dmDstLen (d : Bytes) : Nat := rd d 28 4
abbrev dmDstAddr (d : Bytes) : Nat := bits (rd d 32 8) 43 0
abbrev dmDstStride (d : Bytes) : Int := signed 48 (rd d 40 6)
abbrev dmDstLines (d : Bytes) : Nat := rd d 48 3
abbrev dmTag (d : Bytes) : Nat := rd d 56 8

/-- One side of a run: kind, address of line 0, line length, stride and lines. -/
structure DmaSide where
  kind : Nat
  addr : Nat
  len : Nat
  stride : Int
  lines : Nat

/-- The two sides of a descriptor. -/
def srcSide (d : Bytes) : DmaSide := ⟨dmSrcKind d, dmSrcAddr d, dmSrcLen d, dmSrcStride d, dmSrcLines d⟩
def dstSide (d : Bytes) : DmaSide := ⟨dmDstKind d, dmDstAddr d, dmDstLen d, dmDstStride d, dmDstLines d⟩

/-- A side's region, when its kind is FAST or STACK, and its port, when DEEP. -/
def sideRegion (x : DmaSide) : Option Nat := if x.kind = 1 then none else some (bits x.addr 43 40)
def sidePort (x : DmaSide) : Option Nat := if x.kind = 1 then some (bits x.addr 42 41) else none

/-! ## Channels -/

/-- Channel `c`. -/
def dmaOf (s : State) (c : Nat) : DmaCh := tget {} s.dma c

/-- Write channel `c`. -/
def setDma (c : Nat) (x : DmaCh) (s : State) : State := { s with dma := tset {} s.dma c x }

/-- The leaf bits of the channel's die, and its ring's caused-by code (13 Table 13.1). -/
def dmaDoneLeaf (c : Nat) : Leaf :=
  if c < 256 then leafDmaDoneR (c / 16) else if c < 288 then leafDmaDoneN ((c - 256) / 8) else leafDmaDoneT ((c - 288) / 8)
def dmaErrorLeaf (c : Nat) : Leaf :=
  if c < 256 then leafDmaErrorR (c / 16) else if c < 288 then leafDmaErrorN ((c - 256) / 8) else leafDmaErrorT ((c - 288) / 8)

/-- What a DMA record names (R304; 19 Table 19.8). -/
def dmaDetail (c cause status : Nat) (d : Bytes) (n : Nat) : Detail :=
  [(18, 1, status), (40, 2, c), (42, 1, cause), (48, 8, dmTag d), (56, 8, n)] ++ (if c < 256 then [] else [(17, 1, c % 8)])

/-- The CAUSED_BY fields of a DMA record: in a region's ring the SEQ alone, elsewhere the ring too (19 Table 19.8). -/
def dmaCausedBy (c ring seq : Nat) : Detail :=
  if c < 256 then [(36, 4, seq)] else [(20, 1, ring), (24, 4, seq)]

/-! ## Early ends -/

/-- A run ends otherwise than with ST_OK: ERROR, the status and the cause; PENDING clears (R299). -/
def dmaFail (c status cause : Nat) (s : State) : State :=
  setDma c { dmaOf s c with run := none, pending := false, error := true, lastStatus := status, cause := cause } s

/-- A run ends where it stands with DMA_MEM_ERROR (R304): its record names the ring and SEQ of the memory's own. -/
def dmaMemFail (c ring seq : Nat) (s : State) : State :=
  let x := dmaOf s c
  match x.run with
  | none => s
  | some r =>
    let l := dmaErrorLeaf c
    let d := dmaCausedBy c ring seq ++ dmaDetail c 6 stInternal r.desc x.bytes
    let s := dmaFail c stInternal 6 s
    if x.intEn then raise l d s else logRecord (ringOf l.src) l.sev 0 l.src l.bit 0 (dieField s l.src ++ d) s

/-- A run ends where it stands with DMA_ABORTED (R305). -/
def dmaAbortFail (c : Nat) (s : State) : State :=
  let x := dmaOf s c
  match x.run with
  | none => s
  | some r =>
    let l := dmaErrorLeaf c
    logEvent (ringOf l.src) 0 (if x.intEn then some l else none) (dieField s l.src ++ dmaDetail c 7 stInternal r.desc x.bytes) (dmaFail c stInternal 7 s)

/-- The runs with a side that `f` picks end with DMA_MEM_ERROR (Table 13.5): its region or port is fenced. -/
def endRuns (f : DmaSide → Bool) (ring : Nat) (s : State) : State :=
  let seq := logSeq s ring
  (s.dma.filter fun e => match e.2.run with
    | some r => f (srcSide r.desc) || f (dstSide r.desc)
    | none => false).foldl (fun s e => dmaMemFail e.1 ring seq s) s

/-- Every run ends with DMA_ABORTED: the channels' dies ask for it as the node stops (Table 13.5). -/
def abortRuns (s : State) : State := s.dma.foldl (fun s e => dmaAbortFail e.1 s) s

end Sys2Proof.Machine
end

