-- ==== Sys2Proof/Machine/Lost.lean ====
section
/-! DEFINITION. Losses: a sequence lost on this node (16 R361, R467), a request that ends (08), and the node's withdrawal on a fatal error
(02 R38, 16 R348, 19 R421). -/

namespace Sys2Proof.Machine

/-! ## Sequences -/

/-- The SET_PRIMARY change that gives a partner the ranges of a sequence whose effective primary is this node (16 R361). -/
def setPrimaryChange (m : DMap) (tag me : Nat) : Bytes :=
  (holdsOf m tag).flatMap fun p =>
    match tlook m.pairs p.pair with
    | some q => if inPair q me && q.st == 0 && primaryOf m p == some me then recSetPrimary { p with primB := !p.primB } else []
    | none => []

/-- The loads by which a lost sequence is reloaded (16 R361): one from the partner of each NORMAL pair of this node that holds a range of it, in the
composition that places it. A pair for which this node is the effective primary of a range waits for SET_PRIMARY. -/
def reloads (s : State) (tenant tag : Nat) : List LoadIn :=
  match placing s tenant tag with
  | [] => []
  | (c, m) :: _ =>
    (((holdsOf m tag).map (·.pair)).dedup).filterMap fun pair =>
      (tlook m.pairs pair).bind fun q =>
        if inPair q (myNode s) && q.st == 0 then
          let mine := (holdsOf m tag).any fun p => p.pair == pair && primaryOf m p == some (myNode s)
          some { comp := c, tag := tag, tenant := tenant, pair := pair, srcNode := otherNode q (myNode s), srcPair := pair
                 st := if mine then .waitPrimary else .opening, reload := true }
        else none

/-- A sequence is lost on this node (16 R361, R467): its entry is invalidated and released; a partial copy is loaded again; a NORMAL pair's
partner is asked for it, after SET_PRIMARY where this node is the effective primary. One that is already being released is only invalidated
(03 R75). -/
def seqLost (slot : Nat) (s : State) : State :=
  let q := seqOf s slot
  if q.st = .free ∨ q.lost = true then s
  else
    let s := raise (leafDirEntryLost (dirRegion slot)) [(20, 4, slot), (32, 2, q.tenant)] s
    if q.st = .releasing then
      setSeq slot { q with cam := { q.cam with valid := false }, shadow := { q.shadow with valid := false }, lost := true } s
    else
    let ls := s.datum.loadIn.filter fun e => e.2.slot == some slot
    let s := releaseSeq slot (setSeq slot
      { q with cam := { q.cam with valid := false }, shadow := { q.shadow with valid := false }, lost := true } s)
    let s := ls.foldl (fun s e => newLoad { e.2 with st := .opening, slot := none, next := 0, held := [], retryAt := none } s) s
    let again := (reloads s q.tenant q.tag).filter fun l => !tany s.datum.loadIn fun _ x => sameLoad x l
    let s := again.foldl (fun s l => newLoad l s) s
    match again, placing s q.tenant q.tag with
    | l :: _, (_, m) :: _ =>
      let change := setPrimaryChange m q.tag (myNode s)
      if change.isEmpty then s else addProposal l.comp change .node s
    | _, _ => s

/-- The sequences with a page named in region `r`, or whose directory entry lies there. -/
def seqsIn (s : State) (r : Nat) : List Nat :=
  (s.dir.filter fun e => dirRegion e.1 == r ||
    (tensOf e.2).any fun ti => (livePages s e.1 ti).any fun p => leafFrame p.2 / 2 ^ 40 == r).map (·.1)

/-- The sequences with a delta page that uses base-reference entry `key` (10 R236). -/
def refUsers (s : State) (key : Nat) : List Nat :=
  (s.dir.filter fun e => (tensOf e.2).any fun ti => (livePages s e.1 ti).any fun p =>
    leafDelta p.2 && baseKey (rd (codedBytes s (tenOf e.2 ti) p.1 (leafFrame p.2)) 8 4) == key).map (·.1)

/-- A held base frame is unreadable (10 R236): every sequence that uses it is lost. -/
def baseLost (key : Nat) (s : State) : State := (refUsers s key).foldl (fun s k => seqLost k s) s

/-! ## Lines (04 R93) -/

/-- The sequence and tensor index whose storage holds a fast-tier address; a table node and a reservation have no tensor, and name layer 255, all
ones in a record. -/
def ownerOf (s : State) (a : Nat) : Option (Nat × Nat) :=
  (s.sto.fast.find? fun e => decide (e.1 ≤ a) && decide (a < e.1 + e.2.size)).bind fun e =>
    match e.2.use with
    | .page sl t _ => some (sl, t)
    | .coded sl t _ => some (sl, t)
    | .old sl t _ => some (sl, t)
    | .reserved sl => some (sl, 1020)
    | .node sl => some (sl, 1020)
    | _ => none

/-- The base-reference entry whose held frame holds a fast-tier address (10 R234). -/
def baseAt (s : State) (a : Nat) : Option Nat :=
  (s.sto.fast.find? fun e => decide (e.1 ≤ a) && decide (a < e.1 + e.2.size)).bind fun e =>
    (s.sto.baseRef.find? fun b => b.2.frame == e.1).map (·.1)

/-- The detail fields of a REGION-ring record about a line (19 Table 19.8). -/
def lineDetail (s : State) (a : Nat) : Detail :=
  [(16, 1, chanOf s a % 12), (24, 8, a)] ++ match ownerOf s a with
    | none => []
    | some (sl, ti) => [(20, 4, sl), (32, 2, (seqOf s sl).tenant), (34, 1, ti / 4)]

/-- LINE_CORRECTED: its region counts and logs the line (R93). -/
def lineCorrected (a : Nat) (s : State) : State :=
  raiseCount (leafLineCorrected (a / 2 ^ 40)) (rgnCntOff (a / 2 ^ 40) 7) (lineDetail s a) s

/-- LINE_UNCORRECTABLE: the line is logged (R93, R102). -/
def lineBad (a : Nat) (s : State) : State := raise (leafLineUncorrectable (a / 2 ^ 40)) (lineDetail s a) s

/-- A line of a held base page is lost with every user of its entry (10 R236). -/
def baseLineLost (a : Nat) (s : State) : State :=
  match baseAt s a with
  | some k => baseLost k s
  | none => s

/-- A read met an uncorrectable line: it is logged, and what the line belongs to is lost on this node: its sequence, and every user of a base page
held there (R93; 10 R236). -/
def lineLost (a : Nat) (s : State) : State :=
  let own := ownerOf s a
  let s := baseLineLost a (lineBad a s)
  match own with
  | some (sl, _) => seqLost sl s
  | none => s

/-- The line of a fast-tier address lies in a line-coded range: a plain range has no code (R87, R93). -/
def codedAt (s : State) (a : Nat) : Bool := isCoded s (a / 2 ^ 40) (a % 2 ^ 40)

/-- What the lines of a transfer met that a code can find. -/
def lineMet (s : State) (o : LineOutcome) : LineOutcome :=
  match o with
  | .clean => .clean
  | .corrected a => if codedAt s a.toNat then o else .clean
  | .uncorrectable a => if codedAt s a.toNat then o else .clean

/-! ## Requests -/

/-- A use of a program ends. -/
def endProgUse (slot : Nat) (s : State) : State :=
  let p := tget {} s.prog slot
  { s with prog := tset {} s.prog slot { p with uses := p.uses - 1 } }

/-- A confirmed request has ended: IN_FLIGHT of its sequence falls when the instance's record is written (08 R182), at once when none will be. -/
def leaveByRecord (inst slot : Nat) (s : State) : State :=
  match instOf s inst with
  | none => leaveSeq slot s
  | some x => setInst inst { x with confirmed := x.confirmed ++ [slot] } s

/-- A request leaves the node: its program use ends, its IN_FLIGHT falls with the completion record, and its action ends with a status. -/
def endReq (n status : Nat) (s : State) : State :=
  match tlook s.req n with
  | none => s
  | some r =>
    let s := { s with req := tdel s.req n }
    let s := if r.st = .confirmed then leaveByRecord r.inst r.slot s else s
    endBusy r.inst 1 status false false 0 (endProgUse r.program s)

/-- Requests end with a status. -/
def endReqs (status : Nat) (l : List Nat) (s : State) : State := l.foldl (fun s n => endReq n status s) s

/-! ## Channels and their journals (04 R104) -/

/-- Channel `ch`. -/
def chanSt (s : State) (ch : Nat) : Chan := tget {} s.chan ch

/-- Write it. -/
def setChan (ch : Nat) (c : Chan) (s : State) : State := { s with chan := tput s.chan ch c }

/-- The address of entry `i` of the journal of channel unit `ch`: 256 entries of 64 B in the system range of its region, at a place that the spec does not
give (log 93). -/
def journalAddr (ch i : Nat) : Nat := ch / 12 * 2 ^ 40 + ((Config.journalPlace (ch / 12) % 4085 + ch % 12) * 256 + i) * 64

/-- The 64 bytes of a journal entry (log 93). -/
def journalBytes (j : Journal) : Bytes :=
  padTo 64 (Config.journalEntry (match j.st with | .open_ => 0 | .closed => 1 | .abandoned => 2) (j.chunks.map (·.1)))

/-- A unit writes entry `i` of its journal (R104). -/
def setJournal (ch i : Nat) (j : Journal) (s : State) : State :=
  writeFast (journalAddr ch i) (journalBytes j) (setChan ch { chanSt s ch with journal := tput (chanSt s ch).journal i j } s)

/-- The running atom of a unit ends, its entry in state `st`; an atom that wrote nothing keeps no scratch copy. -/
def endAtom (ch : Nat) (st : JournalSt) (wrote : Bool) (s : State) : State :=
  match (chanSt s ch).atom with
  | none => s
  | some a =>
    setJournal ch a.entry { st := st, chunks := if wrote then a.chunks else a.chunks.map fun c => (c.1, []), slot := a.slot }
      (setChan ch { chanSt s ch with atom := none } s)

/-! ## The node -/

/-- Drop the work in progress of the node; an atom that runs leaves its entry ABANDONED (04 R104), and a run of a DMA channel is aborted (13 R304). -/
def dropWork (s : State) : State :=
  let s := abortRuns (s.chan.foldl (fun s e => endAtom e.1 .abandoned true s) s)
  { s with
    req := []
    installs := []
    work := { leafJobs := [], migs := [], rewrites := [], appends := [], ctlOps := [], next := s.work.next }
    chan := tmap s.chan fun _ c => { c with issued := [], queue := [], run := none, scrub := none, held := [] }
    slu := { s.slu with inst := [], queue := [] }
    jx := { s.jx with out := [], control := [], eq := tmap s.jx.eq (fun _ e => { e with pkts := [] }), tracker := [], ack := [] }
    datum := { s.datum with prop := [], loadIn := [], loadOut := [], probe := [] } }

/-- The node stops with a fatal error: the CHIP_FATAL record is written before WITHDRAW (19 R421), which `tell` says is sent; the phase is FATAL until
the next main reset, so that neither a SLEEP nor a held ROM goes on, and the node status DRAINED (20 R438). `ring` and `seq` name the lower record (19
R431). -/
def fatalStop (tell : Bool) (reason : Nat) (lower : Detail) (s : State) : State :=
  if s.ctl.fatal.isSome then s
  else
    let s := raise leafChipFatal ([(40, 1, reason)] ++ lower) s
    let s := dropWork { s with ctl := { s.ctl with fatal := some reason, withdrawn := true } }
    let s := if tell then withdrawAll 0 s else s
    settle { s with
      cfg := { s.cfg with phase := 9 }
      pwr := { s.pwr with sleep := .none, romHold := false }
      node := { s.node with st := .drained, blocked := [] } }

/-- The node withdraws from the fabric (02 R38). -/
def chipFatal (reason ring seq : Nat) (s : State) : State := fatalStop true reason [(20, 1, ring), (24, 4, seq)] s

end Sys2Proof.Machine
end

