-- ==== Sys2Proof/Machine/Barriers.lean ====
section
/-! DEFINITION. The barrier units (19 R422-R426). Only firmware arms, arrives and releases. -/

namespace Sys2Proof.Machine

/-- Barrier `b`. -/
def barrierOf (s : State) (b : Nat) : Barrier := tget {} s.barrier b

/-- Set barrier `b`. -/
def setBarrier (b : Nat) (u : Barrier) (s : State) : State := { s with barrier := tset {} s.barrier b u }

/-- BARRIER_ARM (R423): ARM with a non-zero mask arms an IDLE unit; any other state ignores it with BARRIER_BUSY. -/
def execBarrierArm (b : Fin 64) (mask : BitVec 32) (s : State) : Host.Outcome State Fault Refusal :=
  .next (if mask = 0 then s
    else match (barrierOf s b).st with
      | .idle => setBarrier b { barrierOf s b with mask := mask, arrived := 0, st := .armed } s
      | _ => raise leafBarrierBusy [] s)

/-- An armed unit after participant `p` arrives: DONE, with GEN + 1, when ARRIVED equals MASK (19 Table 19.5). -/
def barrierArrived (u : Barrier) (p : Nat) : Barrier :=
  let a := u.arrived ||| (1 <<< p)
  if a = u.mask then { u with arrived := a, st := .done, gen := u.gen + 1 } else { u with arrived := a }

/-- BARRIER_ARRIVE (R423). -/
def execBarrierArrive (b : Fin 64) (part : Fin 32) (s : State) : Host.Outcome State Fault Refusal :=
  let u := barrierOf s b
  .next (if u.st = .idle then raise leafBarrierStray [] s
    else if u.mask.getLsbD part = false then raise leafBarrierStray [] s
    else if u.st = .armed then setBarrier b (barrierArrived u part) s
    else s)

/-- BARRIER_RELEASE (R423): an ARMED unit breaks; a DONE or BROKEN one becomes IDLE and keeps GEN. -/
def execBarrierRelease (b : Fin 64) (s : State) : Host.Outcome State Fault Refusal :=
  let u := barrierOf s b
  .next (match u.st with
    | .idle => s
    | .armed => raise leafBarrierBroken [] (setBarrier b { u with st := .broken } s)
    | .done => setBarrier b { u with mask := 0, arrived := 0, st := .idle } s
    | .broken => setBarrier b { u with mask := 0, arrived := 0, st := .idle } s)

/-- Participant `p` is fenced or its die is lost (19 Table 19.5): every armed unit that waits for it breaks. -/
def barrierFenced (p : Nat) (s : State) : State :=
  (s.barrier.filter fun e => e.2.st == .armed && e.2.mask.getLsbD p && !e.2.arrived.getLsbD p).foldl
    (fun s e => raise leafBarrierBroken [] (setBarrier e.1 { e.2 with st := .broken } s)) s

end Sys2Proof.Machine
end

