-- ==== Sys2Proof/Machine/Directory.lean ====
section
/-! DEFINITION. The sequence directory's commands (03 R52-R79): opening, registering, searching, releasing and freeing. -/

namespace Sys2Proof.Machine

/-- How many entries of a region's slice are in use. -/
def sliceUsed (s : State) (r : Nat) : Nat := tcount s.dir fun k _ => dirRegion k == r

/-- The slot SEQ_OPEN takes (R54): the slice with the most free entries, the lowest region among equals, its lowest free entry. -/
def allocSlot (s : State) : Option Nat :=
  let best := (List.range 16).foldl (fun (b : Option (Nat × Nat)) r =>
    if rgnFenced s r then b
    else
      let u := sliceUsed s r
      match b with
      | none => some (r, u)
      | some (_, v) => if u < v then some (r, u) else b) none
  match best with
  | none => none
  | some (r, _) => findFrom (r * 16384) 16384 fun k => (tlook s.dir k).isNone

/-- No slot is free (R54): with no entry RELEASING, DIR_FULL of the lowest region in service. -/
def dirFull (s : State) : State :=
  if tany s.dir (fun _ q => q.st == .releasing) then s
  else match (List.range 16).find? fun r => !rgnFenced s r with
    | none => s
    | some r => raise (leafDirFull r) [] s

/-- The placement generation of a sequence in the maps held (08 R197). -/
def mapGen (s : State) (tenant tag : Nat) : Nat :=
  match placing s tenant tag with
  | [] => 0
  | (_, m) :: _ => ((m.places.find? fun p => p.tag == tag).map (·.gen)).getD 0

/-- FRAME_EXHAUSTED in region `r` (R64, R66). The manual does not say in which region a command raises it: the directory region of its sequence, but for
APPEND and a rewrite the home region of the page that found no frame (DESIGN CHOICE, log 59). -/
def frameExhausted (r : Nat) (s : State) : State := raise (leafFrameExhausted r) [] s

/-- Units of a placement array (05 R115). -/
def placeUnits (d : Bytes) : Nat := divUp (dLayers d * dKinds d * 16) 4096

/-- Make the entry of a sequence in `slot` (R54, R64, R68): none when its units cannot be had. -/
def makeSeq (slot tenant tag fp openTime : Nat) (st : SeqSt) (d : Bytes) (s : State) : Option State :=
  match takeSpan (dirRegion slot) slot tenant 1 s with
  | none => none
  | some (root, s1) => (takeSpan (dirRegion slot) slot tenant (placeUnits d) s1).map fun (place, s) =>
    let cam : Cam := { valid := true, tenant := tenant, tag := tag, fp := fp }
    setSeq slot
      { cam := cam, shadow := cam, desc := d, tag := tag, tenant := tenant, st := st, pgen := mapGen s tenant tag, root := root
        fp := fp, openTime := openTime, place := place } s

/-- A tag that this node is loading, or that a map places on a pair this node loads (16 R359). -/
def loadingTag (s : State) (tenant tag : Nat) : Bool :=
  tany s.datum.loadIn (fun _ l => l.tenant == tenant && l.tag == tag) ||
  (maps s).any fun e => e.2.tenant == tenant && e.2.places.any fun p =>
    p.tag == tag && (match tlook e.2.pairs p.pair with | some q => loading q == some (myNode s) | none => false)

/-- SEQ_OPEN in the order of R55: the status, RESULT and the state. -/
def seqOpenDo (tenant tag fp : Nat) (d : Bytes) (s : State) (who : Who := none) : Nat × Nat × State :=
  match lookSeq tenant tag s with
  | (some slot, s) => (stStateConflict, 0, refuseSeq slot tenant 6 s who)
  | (none, s) =>
    if loadingTag s tenant tag then (stStateConflict, 0, refuseR 0 tenant 0 1 6 0x3FFFF none s who)
    else if dProtected d != isProtected s tenant then (stAccess, 0, s)
    else if descBad d then (stMalformed, 0, s)
    else match allocSlot s with
      | none => (stRetry, 0, dirFull s)
      | some slot =>
        match makeSeq slot tenant tag fp (now s) .active d s with
        | none => (stRetry, 0, frameExhausted (dirRegion slot) s)
        | some s => (stOk, slot, s)

/-- SEQ_OPEN (R55). -/
def execSeqOpen (inst : Nat) (s : State) : Host.Outcome State Fault Refusal :=
  .next (match startedAct s inst 6 with
    | none => s
    | some (x, k, p) =>
      let (st, r, s) := seqOpenDo x.tenant (rd p 0 8) (rd p 8 8) (slice p 16 64) s (whoOf x.msg)
      actDone inst k st false false r s)

/-- Units of a deep page table (05 R116). -/
def deepUnits (d : Bytes) : Nat := divUp (dGroups d * dPages d * 8) 4096

/-- Give a tensor its deep page table (05 R115, R116): none when its units cannot be had. -/
def backTensor (slot ti : Nat) (s : State) : Option State :=
  let t := tenOf (seqOf s slot) ti
  if t.backed then some s
  else (takeSpan (dirRegion slot) slot (seqOf s slot).tenant (deepUnits (seqOf s slot).desc) s).map fun (a, s) =>
    setTen slot ti { tenOf (seqOf s slot) ti with backed := true, deepTable := a } s

/-- Register a tensor in the tier named (Table 3.8): none when a deep page table cannot be had. -/
def regTensor (slot ti : Nat) (deep : Bool) (s : State) : Option State :=
  let s := setTen slot ti { st := if deep then .deep else .fast } s
  if deep then backTensor slot ti s else some s

/-- A layer, kind or void scale kind that R56 refuses. -/
def tensorBad (d : Bytes) (l k : Nat) : Bool := decide (dLayers d ≤ l) || decide (dKinds d ≤ k) || dVoid d k

/-- TENSOR_REG (R56, Tables 3.7, 3.8). -/
def tensorRegDo (tenant tag l k : Nat) (deep : Bool) (s : State) (who : Who := none) : Nat × State :=
  match lookSeq tenant tag s with
  | (none, s) => (stNoPage, s)
  | (some slot, s) =>
    let q := seqOf s slot
    let ti := 4 * l + k
    if q.st ≠ .active then (stStateConflict, refuseSeq slot tenant 7 s who)
    else if tensorBad q.desc l k then (stMalformed, s)
    else if (tenOf q ti).st ≠ .absent then (stStateConflict, refuseTen slot tenant ti 7 s who)
    else match regTensor slot ti deep s with
      | none => (stRetry, frameExhausted (dirRegion slot) s)
      | some s => (stOk, relayTensor slot ti s)

/-- TENSOR_REG (R56). -/
def execTensorReg (inst : Nat) (s : State) : Host.Outcome State Fault Refusal :=
  .next (match startedAct s inst 7 with
    | none => s
    | some (x, k, p) =>
      let (st, s) := tensorRegDo x.tenant (rd p 0 8) (rd p 8 1) (bits (rd p 9 1) 1 0) (bitAt (rd p 9 1) 2) s (whoOf x.msg)
      actEnd inst k st s)

/-- SET_FINGERPRINT (R72, Table 3.7): the shadow and the CAM part change, and the record's copy. -/
def setFingerprintDo (tenant tag fp : Nat) (s : State) (who : Who := none) : Nat × State :=
  match lookSeq tenant tag s with
  | (none, s) => (stNoPage, s)
  | (some slot, s) =>
    let q := seqOf s slot
    if q.st ≠ .active then (stStateConflict, refuseSeq slot tenant 8 s who)
    else (stOk, setSeq slot { q with cam := { q.cam with fp := fp }, shadow := { q.cam with fp := fp }, fp := fp } s)

/-- SET_FINGERPRINT (R72). -/
def execSetFingerprint (inst : Nat) (s : State) : Host.Outcome State Fault Refusal :=
  .next (match startedAct s inst 8 with
    | none => s
    | some (x, k, p) =>
      let (st, s) := setFingerprintDo x.tenant (rd p 0 8) (rd p 8 8) s
      actEnd inst k st s)

/-- SEQ_RELEASE (R77, Table 3.7). -/
def seqReleaseDo (tenant tag : Nat) (s : State) : Nat × State :=
  match lookSeq tenant tag s with
  | (none, s) => (stNoPage, s)
  | (some slot, s) => if (seqOf s slot).st = .releasing then (stOk, s) else (stOk, releaseSeq slot s)

/-- SEQ_RELEASE (R77). -/
def execSeqRelease (inst : Nat) (s : State) : Host.Outcome State Fault Refusal :=
  .next (match startedAct s inst 9 with
    | none => s
    | some (x, k, p) =>
      let (st, s) := seqReleaseDo x.tenant (rd p 0 8) s
      actEnd inst k st s)

/-- RELEASING → FREE (R63, R78): the TLBs are invalidated, the storage freed and the entry cleared; a request not yet confirmed has lost it (R77). -/
def freeSeq (slot : Nat) (s : State) : State :=
  let s := dropStorage slot (tlbDropSlot slot s)
  let s := { s with
    work := { s.work with leafJobs := tfilter s.work.leafJobs fun _ j => j.slot != slot }
    req := tmap s.req fun _ q => if q.slot = slot then { q with freed := true } else q }
  drainCheck (setSeq slot {} s)

/-- SEQ_FREE (R78): once IN_FLIGHT is 0. -/
def execSeqFree (slot : Fin 262144) (s : State) : Host.Outcome State Fault Refusal :=
  .next (if seqIdle s slot then freeSeq slot s else s)

/-- An entry matches a search (R69). -/
def searchHit (tenant : Nat) (fpKind : Bool) (value mask : Nat) (q : Seq) : Bool :=
  q.cam.valid && q.st == .active && q.cam.tenant == tenant &&
    (if fpKind then (q.cam.fp &&& mask) == (value &&& mask) else q.cam.tag == value)

/-- The matching slots above the cursor (R69). -/
def searchHits (s : State) (tenant : Nat) (fpKind : Bool) (value mask cursor : Nat) : List Nat :=
  (s.dir.filter fun e => searchHit tenant fpKind value mask e.2 && (cursor == 0xFFFFF || decide (cursor < e.1))).map (·.1)

/-- The result record of a search (Table 3.5) that found `hit`; `more` says that another entry above it matches. -/
def searchResult (s : State) (hit : Option Nat) (more : Bool) : Bytes :=
  match hit with
  | none => leBytes 1 stNoPage ++ [0, 0, 0] ++ leBytes 4 0x3FFFF ++ leBytes 16 0 ++ leBytes 8 (now s)
  | some slot =>
    let q := seqOf s slot
    leBytes 1 stOk ++ leBytes 1 (bitOf more 0) ++ [0, 0] ++ leBytes 4 slot ++ leBytes 8 q.cam.tag ++ leBytes 8 q.cam.fp ++
      leBytes 8 (now s)

/-- DIR_SEARCH's search, its hit checked (R69, R70, R73). -/
def dirSearchDo (tenant : Nat) (fpKind : Bool) (value mask cursor : Nat) (s : State) : Bytes × State :=
  let (hit, s) := checkedHit (fun s => (searchHits s tenant fpKind value mask cursor).head?) s
  (searchResult s hit (decide (1 < (searchHits s tenant fpKind value mask cursor).length)), s)

/-- DIR_SEARCH (R69, R70; 20 R445: a search of the firmware window goes to the command ring). It waits while its die has all its messages in flight
(11 R262). -/
def execDirSearch (inst : Nat) (s : State) : Host.Outcome State Fault Refusal :=
  .next (match startedAct s inst 0xA with
    | none => s
    | some (x, k, p) =>
      if x.fwTag.isNone = true ∧ sendFull s x.die = true then s else
      let (r, s) := dirSearchDo x.tenant (bitAt (rd p 0 1) 0) (rd p 8 8) (rd p 16 8) (bits (rd p 4 4) 19 0) s
      match x.fwTag with
      | some _ => actEnd inst k stOk (setInst inst { x with dirResult := r } s)
      | none =>
        let m : OutMsg :=
          { op := 1, dst := rd p 24 3, tenant := x.tenant, window := bits (rd p 28 2) 13 0, gen := rd p 30 2, offset := rd p 32 6
            data := r, part := some (x.part, x.lc) }
        match sendMsg x.die m s with
        | (.sent _, s) => actEnd inst k stOk s
        | (.refused st, s) => actEnd inst k st s)

/-- OLD_FRAME_FREE (R62 step 3, 05 R118): the old frame is freed once every request that could read it has ended. -/
def execOldFrameFree (frame : Nat) (s : State) : Host.Outcome State Fault Refusal :=
  .next (match s.sto.old.find? fun o => o.key == frame with
    | none => s
    | some o =>
      if tany s.req (fun n _ => decide (n < o.before)) then s
      else
        let s := { s with sto := { s.sto with old := s.sto.old.filter (· != o) } }
        if o.deep then releaseDeep o.sealed_ o.key s else giveFrame o.sealed_ o.key s)

end Sys2Proof.Machine
end

