-- ==== Sys2Proof/Machine/Reads.lean ====
section
/-! DEFINITION. Reads of the fast tier (02 R37; 04 R83, R93, R94, R99, R105): the chunks and channels they touch, what holds them, and what the line code
finds in them. -/

namespace Sys2Proof.Machine

/-- The 2 KiB chunks of a span (address, bytes). -/
def spanChunks (x : Nat × Nat) : List Nat := (List.range (divUp (x.1 % 2048 + x.2) 2048)).map fun i => x.1 / 2048 * 2048 + 2048 * i

/-- The chunks of some spans. -/
def chunksOf (l : List (Nat × Nat)) : List Nat := l.flatMap spanChunks

/-- The channels of some chunks. -/
def chansOf (s : State) (chunks : List Nat) : List Nat := (chunks.map (chanOf s)).dedup

/-- A channel lets no read through: it is retraining (R83), lost, or held by an atom (R99). -/
def chanHeld (s : State) (ch : Nat) : Bool := let c := chanSt s ch; c.retraining || c.lost || c.atom.isSome

/-- The first of the chunks that an abandoned journal entry names (R105). -/
def abandonedIn (s : State) (chunks : List Nat) : Option Nat :=
  chunks.find? fun a => tany (chanSt s (chanOf s a)).journal fun _ j => j.st == .abandoned && j.chunks.any fun c => c.1 == a

/-- The code line of a chunk joins those the channel's controller holds, the 64 most recently used (R94). -/
def touchCode (a : Nat) (s : State) : State :=
  if codedAt s a then
    let r := a / 2 ^ 40
    let x := interleave (stripedTop s r) (a % 2 ^ 40)
    match (codedShares s r).find? fun y => decide (y.1 ≤ x.2) && decide (x.2 < y.2) with
    | none => s
    | some y =>
      let q := (codeLine y.1 y.2 x.2).1
      let c := chanSt s (r * 12 + x.1)
      setChan (r * 12 + x.1) { c with codeLines := (q :: c.codeLines.erase q).take 64 } s
  else s

/-- The code lines of some chunks. -/
def touchCodes (l : List Nat) (s : State) : State := l.foldl (fun s a => touchCode a s) s

/-- A read waits for the redo of an abandoned entry (R105): it is recorded with the chunk, and a code that does not match is reported once. -/
def holdRead (who : Reader) (a : Nat) (mismatch : Bool) (s : State) : State :=
  let ch := chanOf s a
  let c := chanSt s ch
  let me := fun (h : HeldRead) => h.who == who && h.addr == a
  let told := (c.held.find? me).any (·.reported)
  let s := setChan ch { c with held := c.held.filter (fun h => !me h) ++ [{ who := who, addr := a, reported := told || mismatch }] } s
  if mismatch && !told then raiseCount (leafUnitWriteMismatch (ch / 12)) (rgnCntOff (ch / 12) 11) (lineDetail s a) s else s

/-- The redo of an entry that a reader was held for has failed: the read ends (R105). -/
def redoFailed (s : State) (who : Reader) : Bool := s.chan.any fun e => e.2.held.any fun h => h.who == who && h.failed

/-- A reader's held reads are forgotten. -/
def dropHeld (who : Reader) (s : State) : State :=
  { s with chan := tmap s.chan fun _ c => { c with held := c.held.filter fun h => h.who != who } }

/-- The line that an outcome names. -/
def lineAt : LineOutcome → Option Nat
  | .clean => none
  | .corrected a => some a.toNat
  | .uncorrectable a => some a.toNat

/-- How a read of the fast tier goes on: it waits, its redo has failed, its bytes are there, or it met a line beyond correction. -/
inductive ReadEnd where
  | waits | failed | clean | bad (a : Nat)
  deriving DecidableEq, Repr

/-- A reader reads some chunks, of which the outcome `o` says what the line code finds (R93): a chunk that an abandoned entry names holds the read,
with a code that does not match reported (R105); a corrected line is counted, one beyond correction is for the reader to report. -/
def readChunks (who : Reader) (chunks : List Nat) (o : LineOutcome) (s : State) : ReadEnd × State :=
  if redoFailed s who then (.failed, dropHeld who s)
  else if (chansOf s chunks).any (chanHeld s) then (.waits, s)
  else
    let hit := fun (a : Nat) => chunks.contains (a / 2048 * 2048)
    match abandonedIn s chunks with
    | some a => (.waits, holdRead who a (match lineAt (lineMet s o) with | some x => x / 2048 * 2048 == a | none => false) s)
    | none =>
      let s := touchCodes chunks s
      match lineMet s o with
      | .clean => (.clean, s)
      | .corrected a => (.clean, if hit a.toNat then lineCorrected a.toNat s else s)
      | .uncorrectable a => if hit a.toNat then (.bad a.toNat, s) else (.clean, s)

/-- What the line code finds in a read that firmware makes for itself: a free value (log 92). -/
def freeLine (n : Nat) : LineOutcome :=
  match Config.lineFound n with
  | none => .clean
  | some (a, true) => .corrected a
  | some (a, false) => .uncorrectable a

/-- Firmware reads some chunks of the fast tier. -/
def readFree (who : Reader) (chunks : List Nat) (s : State) : ReadEnd × State :=
  let (n, s) := takeFree s
  readChunks who chunks (freeLine n) s

/-- The spans of the fast tier that hold a page under leaf `e`, (address, bytes): its own, and of a delta page the base's. -/
def ownSpan (s : State) (slot ti idx e : Nat) : Option (Nat × Nat) :=
  if readsDeep (tenOf (seqOf s slot) ti) idx then none
  else if leafDelta e then (tlook s.sto.loc (locKey (leafFrame e))).map fun l => (l.first, l.units * 4096)
  else some (leafFrame e, dPageSize (seqOf s slot).desc)
def baseSpan (s : State) (slot ti idx e : Nat) : Option (Nat × Nat) :=
  if leafDelta e then
    (tlook s.sto.baseRef (baseKey (rd (codedBytes s (tenOf (seqOf s slot) ti) idx (leafFrame e)) 8 4))).map fun b =>
      (b.frame, dPageSize (seqOf s slot).desc)
  else none

/-- The chunks of the fast tier that hold a page's own bytes. -/
def ownChunks (s : State) (slot ti idx e : Nat) : List Nat := chunksOf (ownSpan s slot ti idx e).toList

/-- The chunks of the fast tier that a read of a page touches. -/
def pageChunks (s : State) (slot ti idx e : Nat) : List Nat :=
  chunksOf ((ownSpan s slot ti idx e).toList ++ (baseSpan s slot ti idx e).toList)

end Sys2Proof.Machine
end

