-- ==== Sys2Proof/Machine/Pages.lean ====
section
/-! DEFINITION. Giving pages frames and changing their leaves (03 R57, R62, R66, R67; 04 R100; 05 R112, R119), and issuing commands to the
channel units (04 R97, R98). -/

namespace Sys2Proof.Machine

/-- The layer and page of a page index. -/
def homeOf (d : Bytes) (slot ti idx : Nat) : Nat := homeRegion slot (ti / 4) (idx / dPages d) (idx % dPages d)

/-- The scale page that goes with a YQ data page of a streamed sequence: its tensor index. -/
def scaleTen (d : Bytes) (ti : Nat) : Option Nat :=
  let k := ti % 4
  if dStreamed d && (scaleOf d k).isNone && fmtYq (dFmt d k) then some (ti / 4 * 4 + k + (if dLatent d then 1 else 2)) else none

/-- The data tensor whose scales a tensor of a streamed sequence holds. -/
def dataTen (d : Bytes) (ti : Nat) : Option Nat :=
  ((List.range 4).map fun k => ti / 4 * 4 + k).find? fun x => scaleTen d x == some ti

/-- The frame of a page: none without a leaf. -/
def frameOf (s : State) (slot ti idx : Nat) : Option Nat :=
  match leafOf s slot ti idx with
  | .leaf e => some (leafFrame e)
  | .invalid => none

/-- The frame for a page. A scale page goes to the channel of its data page, whose unit writes both (04 R92), where that channel has a free frame; other
pages, and a scale page that finds none there, go where 03 R66 and R67 say (log 65). -/
def frameForPage (s : State) (slot ti idx : Nat) : Option FrameFound :=
  let d := (seqOf s slot).desc
  let size := dPageSize d
  let other := findPageFrame s slot (ti / 4) (idx / dPages d) (idx % dPages d) size (dLineCode d)
  match (dataTen d ti).bind fun x => frameOf s slot x idx with
  | none => other
  | some name =>
    let r := name / 2 ^ 40
    let ch := chanOf s name % 12
    let at_ := fun (aliased : Bool) => (freeLocal s r ch size (dLineCode d) aliased).map fun a =>
      (⟨a, decide (r ≠ homeOf d slot ti idx), decide (ch ≠ homeChannel slot (ti / 4) (idx / dPages d) (idx % dPages d)), aliased⟩ : FrameFound)
    if rgnFenced s r || !isLocal s r (name % 2 ^ 40) then other
    else match at_ false, at_ true with
      | some f, _ => some f
      | none, some f => some f
      | none, none => other

/-- Give a page its channel-local frame when its first token comes (05 R112): none when no frame or table node can be had. -/
def givePage (slot ti idx : Nat) (s : State) : Option State :=
  let q := seqOf s slot
  let d := q.desc
  match frameForPage s slot ti idx with
  | none => none
  | some f =>
    let s := takePageFrame f (homeOf d slot ti idx) (dPageSize d) q.tenant (.page slot ti idx) s
    setLeaf slot ti idx (mkLeaf f.addr true false) s

/-- Give each of the pages a frame that has none: none when one cannot be had, and then nothing changes. -/
def givePages (slot : Nat) : List (Nat × Nat) → State → Option State
  | [], s => some s
  | (ti, idx) :: rest, s =>
    match leafOf s slot ti idx with
    | .leaf _ => givePages slot rest s
    | .invalid => match givePage slot ti idx s with
      | none => none
      | some s => givePages slot rest s

/-- A new frame in the channel of the frame at `name` (04 R100): its address and whether its name is that of a deep-held page. -/
def sameChannel (s : State) (name : Nat) (d : Bytes) : Option (Nat × Bool) :=
  let r := name / 2 ^ 40
  let ch := chanOf s name % 12
  match freeLocal s r ch (dPageSize d) (dLineCode d) false with
  | some a => some (a, false)
  | none => (freeLocal s r ch (dPageSize d) (dLineCode d) true).map fun a => (a, true)

/-- Reserve such a frame for sequence `slot`. -/
def reserveFrame (slot name : Nat) (s : State) : Option (Nat × State) :=
  let q := seqOf s slot
  (sameChannel s name q.desc).map fun (a, aliased) =>
    let s := useFast a (dPageSize q.desc) q.tenant (.reserved slot) s
    (a, if aliased then count (rgnCntOff (a / 2 ^ 40) 3) s else s)

/-- Drop reserved frames. -/
def dropReserved (l : List Nat) (s : State) : State :=
  l.foldl (fun s a => match tlook s.sto.fast a with
    | some st => (match st.use with
      | .reserved _ => { s with sto := { s.sto with fast := tdel s.sto.fast a } }
      | _ => s)
    | none => s) s

/-- Write a page's new leaf, invalidate its translations, and keep the old frame until the requests that may read it end (R62). -/
def changeLeaf (slot ti idx leaf : Nat) (s : State) : State :=
  let q := seqOf s slot
  match leafOf s slot ti idx with
  | .invalid => s
  | .leaf old =>
    let oldName := leafFrame old
    let coded := codedBytes s (tenOf q ti) idx oldName
    let s := (setLeaf slot ti idx leaf s).getD s
    let s := tlbDropPage slot (vpnOf q.desc ti idx) s
    let s := dirtyPage slot ti idx s
    let s := if leafDelta leaf then s else reuseFast (leafFrame leaf) (.page slot ti idx) s
    if leafDelta old then
      let s := dropRef (baseKey (rd coded 8 4)) s
      match tlook s.sto.loc (locKey oldName) with
      | none => s
      | some l =>
        let s := if l.inFast then retireFrame l.first s else s
        { s with sto := { s.sto with loc := tdel s.sto.loc (locKey oldName) } }
    else if hasFrame s slot ti idx oldName && oldName != leafFrame leaf then retireFrame oldName s
    else s

/-- How the copy of a striped page back to a channel-local frame ends: with the page there, without a frame, or at a line beyond correction. -/
inductive CopyBack where
  | done | noFrame | bad (a : Nat)
  deriving DecidableEq, Repr

/-- Copy a striped page back to a channel-local frame (R67), counted RESTRIPE_LOCAL; its lines are checked (04 R93). No channel unit writes striped
chunks, so the read is not held, and a wait for an atom's end passes within the command. The spec names no region for the count; the model takes the
page's home region (DESIGN CHOICE, log 58). -/
def unstripe (slot ti idx : Nat) (s : State) : CopyBack × State :=
  let q := seqOf s slot
  let d := q.desc
  match leafOf s slot ti idx with
  | .invalid => (.done, s)
  | .leaf e =>
    if leafLocal e || leafDelta e then (.done, s)
    else
      match frameForPage s slot ti idx with
      | none => (.noFrame, s)
      | some f =>
        match readFree (.page slot ti idx) (spanChunks (leafFrame e, dPageSize d)) s with
        | (.bad a, s) => (.bad a, s)
        | (_, s) =>
          let plain := pageFast s q.tenant (leafFrame e) (dPageSize d)
          let s := takePageFrame f (homeOf d slot ti idx) (dPageSize d) q.tenant (.page slot ti idx) s
          let s := writeFastFor q.tenant f.addr plain s
          (.done, count (rgnCntOff (homeOf d slot ti idx) 2) (changeLeaf slot ti idx (mkLeaf f.addr true false) s))

/-! ## Commands to the channel units -/

/-- A command to the unit of a page's channel, with the fields of 04 Table 4.7. `name` is the source frame, `new` the destination; APPEND_TAIL's SRC is
the stack-SRAM offset of its staged payload, which the spec leaves to firmware (log 94). -/
def mkCmd (s : State) (op slot ti idx name new program : Nat) (job : UnitJob) : UnitCmd :=
  let q := seqOf s slot
  let d := q.desc
  let q1 := (interleave (stripedTop s (name / 2 ^ 40)) (name % 2 ^ 40)).2
  let q2 := (interleave (stripedTop s (new / 2 ^ 40)) (new % 2 ^ 40)).2
  { op := op, tenant := q.tenant, slot := slot, src := if op = 1 then (Config.stagedOffset s.work.next).toNat else q1, dst := q2, lines := dPageSize d / 64, program := program
    srcFmt := dFmt d (ti % 4), dstFmt := dFmt d (ti % 4), group := dGroup d, headsM1 := dHeadsPerPage d - 1
    dim := dDim d (ti % 4) / 16, tag := s.work.next, layer := ti / 4, kind := ti % 4, idx := idx, name := name, newName := new
    job := job }

/-- Issue a command through the aperture of channel `ch` (04 R97). -/
def issueUnit (ch : Nat) (c : UnitCmd) (s : State) : State :=
  let x := tget {} s.chan ch
  markBusy (ch / 12)
    { s with chan := tput s.chan ch { x with issued := x.issued ++ [c] }, work := { s.work with next := s.work.next + 1 } }

/-- The commands a unit holds. -/
def unitCmds (c : Chan) : List UnitCmd := c.issued ++ c.queue ++ (c.run.map (·.cmd)).toList ++ (c.scrub.map (·.cmd)).toList

/-- A unit holds a command of a job, or its atom still runs. -/
def jobAtUnit (s : State) (j : UnitJob) : Bool :=
  s.chan.any fun e => (unitCmds e.2).any (·.job == j) || (match e.2.atom with | some a => a.job == j | none => false)

/-- Copy back a page and the scale page that is rewritten with it (R67; 06 R139). -/
def unstripePair (slot ti idx : Nat) (s : State) : CopyBack × State :=
  match unstripe slot ti idx s with
  | (.done, s) => (match scaleTen (seqOf s slot).desc ti with
    | none => (.done, s)
    | some sc => unstripe slot sc idx s)
  | x => x

/-- Reserve new frames for a page, and for its scale page when `pair` asks it. -/
def reservePair (slot ti idx : Nat) (pair : Bool) (s : State) : Option (Nat × Option (Nat × Nat) × State) :=
  match frameOf s slot ti idx with
  | none => none
  | some name =>
    match reserveFrame slot name s with
    | none => none
    | some (new, s) =>
      match (if pair then scaleTen (seqOf s slot).desc ti else none) with
      | none => some (new, none, s)
      | some sc =>
        match frameOf s slot sc idx with
        | none => some (new, none, s)
        | some sn =>
          match reserveFrame slot name s with
          | none => none
          | some (sNew, s) => some (new, some (sn, sNew), s)

/-- A unit has written a page's new frame: firmware has its leaf to change (R62). -/
def addLeafJob (c : UnitCmd) (s : State) : State :=
  let ti := c.layer * 4 + c.kind
  let j : LeafJob :=
    { slot := c.slot, ten := ti, idx := c.idx, leaf := mkLeaf c.newName true false, oldKey := none, job := c.job
      pair := c.pair.bind fun p => (scaleTen (seqOf s c.slot).desc ti).map fun sc => (sc, mkLeaf p.2 true false, none) }
  { s with work := { s.work with leafJobs := tput s.work.leafJobs s.work.next j, next := s.work.next + 1 } }

/-- The base-reference frame of a coded page. -/
def codedBase (s : State) (t : Ten) (idx name : Nat) : Option BaseRef :=
  tlook s.sto.baseRef (baseKey (rd (codedBytes s t idx name) 8 4))

/-- The frame in whose channel a delta page decodes (10 R222): none where its coded form or its base is not known. -/
def decodeHome (s : State) (slot ti idx e : Nat) : Option (Nat × BaseRef) :=
  match tlook s.sto.loc (locKey (leafFrame e)), codedBase s (tenOf (seqOf s slot) ti) idx (leafFrame e) with
  | some l, some b => some (if l.inFast then l.first else b.frame, b)
  | _, _ => none

/-- Issue DELTA_DECODE of a delta page into frame `new` (10 R222). -/
def issueDecodeInto (new slot ti idx e : Nat) (b : BaseRef) (job : UnitJob) (s : State) : State :=
  let c := { mkCmd s 5 slot ti idx (leafFrame e) new 0 job with
    base := (interleave (stripedTop s (b.frame / 2 ^ 40)) (b.frame % 2 ^ 40)).2, baseName := b.frame }
  issueUnit (chanOf s b.frame) c s

/-- Issue DELTA_DECODE of a delta page into a new frame of its units' channel (10 R222): none when no frame can be had. -/
def issueDecode (slot ti idx e : Nat) (job : UnitJob) (s : State) : Option State :=
  match decodeHome s slot ti idx e with
  | none => none
  | some (home, b) => (reserveFrame slot home s).map fun (new, s) => issueDecodeInto new slot ti idx e b job s

end Sys2Proof.Machine
end

