-- ==== Sys2Proof/Machine/Work.lean ====
section
/-! DEFINITION. REWRITE (06 R139, 10 R219-R222), the leaf changes of firmware (03 R62) and what the end of a channel-unit command brings. -/

namespace Sys2Proof.Machine

/-- The code of a program slot's state in 07 Table 7.9's order. -/
def progCode : ProgSt → Nat
  | .free => 0 | .installed => 1 | .draining => 2

/-- Program slot `k`. -/
def progOf (s : State) (k : Nat) : Prog := tget {} s.prog k

/-- A command names a program by slot and generation (07 R175, Table 7.9): the refusal, or none. -/
def progCheck (tenant slot gen op : Nat) (s : State) (who : Who := none) : Option Nat × State :=
  let p := progOf s slot
  let conflict := (some stStateConflict, refuseC tenant 5 (progCode p.st) op slot s who)
  if p.st = .free then conflict
  else if p.tenant ≠ tenant then (some stAccess, s)
  else if p.st = .installed ∧ p.gen = gen then (none, s)
  else conflict

/-- A use of a program begins (07 Table 7.9). -/
def startProgUse (slot : Nat) (s : State) : State :=
  { s with prog := tput s.prog slot { progOf s slot with uses := (progOf s slot).uses + 1 } }

/-- Add clipped elements to a layer's counter (06 R140) and raise CALIBRATION_DRIFT at the threshold (R141). -/
def addClipped (slot layer n threshold : Nat) (s : State) : State :=
  if n = 0 then s
  else
    let q := seqOf s slot
    let old := tget 0 q.sat layer
    let new := min (old + n) (2 ^ 32 - 1)
    let fires := threshold != 0 && decide (old < threshold) && decide (threshold ≤ new) && !q.drift.contains layer
    let s := setSeq slot { q with sat := tset 0 q.sat layer new, drift := if fires then layer :: q.drift else q.drift } s
    if fires then
      let r := dirRegion slot
      countTenant q.tenant 0x04 (logEvent (ringRegion r) 1 (some (leafCalibrationDrift r))
        [(20, 4, slot), (32, 2, q.tenant), (34, 1, layer), (44, 4, new)] s)
    else s

/-! ## REWRITE -/

/-- A REWRITE ends (03 R79): the tensor is FAST again and the action completes. -/
def rewriteEnd (key status : Nat) (s : State) : State :=
  match tlook s.work.rewrites key with
  | none => s
  | some r =>
    let slot := key / 1024
    let ti := key % 1024
    let s := { s with work := { s.work with rewrites := tdel s.work.rewrites key } }
    let s := if (tenOf (seqOf s slot) ti).st = .rewriting then setTen slot ti { tenOf (seqOf s slot) ti with st := .fast } s else s
    let s := if r.mode = .requant then endProgUse r.program s else s
    endBusy r.inst 0xD status false false 0 (leaveSeq slot s)

/-- Note what is left of a REWRITE. -/
def setRewrite (key : Nat) (r : Rewrite) (s : State) : State :=
  { s with work := { s.work with rewrites := tput s.work.rewrites key r } }

/-- The page cannot have its new frame (04 R100). -/
def rewriteStuck (key idx : Nat) (s : State) : State :=
  rewriteEnd key stRetry (frameExhausted (homeOf (seqOf s (key / 1024)).desc (key / 1024) (key % 1024) idx) s)

/-- The scale page that is rewritten with a page, where it is a delta page: its tensor and leaf. It is decoded first (10 R222). -/
def deltaScale (s : State) (slot ti idx : Nat) : Option (Nat × Nat) :=
  (scaleTen (seqOf s slot).desc ti).bind fun sc => match leafOf s slot sc idx with
    | .leaf e => if leafDelta e then some (sc, e) else none
    | .invalid => none

/-- Issue the next page of a REWRITE to its unit, or end it (06 R139, 10 R222); a delta action stops here when its sequence is RELEASING. Pages of an
encode wait for DELTA_PAGE_CONVERT, but for those of compatibility form, which are decoded first (10 R233). -/
def rewriteGo (key : Nat) : List Nat → State → State
  | [], s => rewriteEnd key stOk s
  | idx :: rest, s =>
    match tlook s.work.rewrites key with
    | none => s
    | some r =>
      let slot := key / 1024
      let ti := key % 1024
      let q := seqOf s slot
      let here := { r with todo := idx :: rest, atUnit := true }
      if r.mode ≠ .requant ∧ q.st = .releasing then rewriteEnd key stOk s
      else match leafOf s slot ti idx with
      | .invalid => rewriteGo key rest s
      | .leaf e =>
        if leafDelta e then
          let compat := bitAt (rd (codedBytes s (tenOf q ti) idx (leafFrame e)) 0 1) 4
          if r.mode = .deltaEnc ∧ compat = false then setRewrite key { here with atUnit := false } s
          else match issueDecode slot ti idx e (.rewrite key) s with
            | none => rewriteStuck key idx s
            | some s =>
              let s := if r.mode = .requant then countTenant q.tenant 0x20 s else s
              setRewrite key here s
        else
          match r.mode with
          | .deltaEnc => setRewrite key { here with atUnit := false } s
          | .deltaDec => rewriteGo key rest s
          | .requant =>
            match deltaScale s slot ti idx with
            | some (sc, se) => (match issueDecode slot sc idx se (.rewrite key) s with
              | none => rewriteStuck key idx s
              | some s => setRewrite key here (countTenant q.tenant 0x20 s))
            | none =>
              match unstripePair slot ti idx s with
              | (.noFrame, s) => rewriteStuck key idx s
              | (.bad a, s) => lineLost a (rewriteEnd key stInternal s)
              | (.done, s) =>
                match reservePair slot ti idx true s with
                | none => rewriteStuck key idx s
                | some (new, pair, s) =>
                  let name := (frameOf s slot ti idx).getD 0
                  let c := { mkCmd s 2 slot ti idx name new r.program (.rewrite key) with pair := pair }
                  setRewrite key here (issueUnit (chanOf s name) c s)

/-- The pages a REWRITE covers: those that hold T tokens all below the committed watermark when it starts (03 Table 3.8). -/
def rewritePages (s : State) (slot ti : Nat) : List Nat :=
  let q := seqOf s slot
  ((livePages s slot ti).filter fun p => pageBelow q.desc p.1 q.committed).map (·.1)

/-- A REWRITE's answer by the tensor's state (03 Table 3.8): none when it is accepted. -/
def rewriteState (slot ti tenant : Nat) (s : State) (who : Who := none) : Option Nat × State :=
  match (tenOf (seqOf s slot) ti).st with
  | .absent => (some stNoPage, s)
  | .fast => (none, s)
  | _ => (some stStateConflict, refuseTen slot tenant ti 0xD s who)

/-- Accept a REWRITE. -/
def rewriteStart (slot ti inst k : Nat) (r : Rewrite) (s : State) : State :=
  let key := tenKey slot ti
  let s := setTen slot ti { tenOf (seqOf s slot) ti with st := .rewriting } (enterSeq slot s)
  let s := if r.mode = .requant then startProgUse r.program s else s
  let todo := rewritePages s slot ti
  rewriteGo key todo (actBusy inst k (setRewrite key { r with todo := todo } s))

/-- REWRITE in REQUANT mode (06 R139; 03 Tables 3.7, 3.8; 16 R359): the refusal, or the accepted state. -/
def requantDo (x : Inst) (inst k : Nat) (p : Bytes) (s : State) : State :=
  match lookSeq x.tenant (rd p 8 8) s with
  | (none, s) => actEnd inst k stNoPage s
  | (some slot, s) =>
    let q := seqOf s slot
    let ti := rd p 16 1 * 4 + bits (rd p 17 1) 1 0
    let prog := rd p 2 1
    if q.st ≠ .active then actEnd inst k stStateConflict (refuseSeq slot x.tenant 0xD s (whoOf x.msg))
    else if underLoad s slot then actEnd inst k stRetry (countTenant x.tenant 0x30 s)
    else if 2 ≤ ti % 4 ∨ (scaleOf q.desc (ti % 4)).isSome = true then actEnd inst k stMalformed s
    else
      match rewriteState slot ti x.tenant s (whoOf x.msg) with
      | (some st, s) => actEnd inst k st s
      | (none, s) =>
        match progCheck x.tenant prog (rd p 4 2) 0xD s (whoOf x.msg) with
        | (some st, s) => actEnd inst k st s
        | (none, s) =>
          if ftFmt (progOf s prog).image (ti % 4) ≠ dFmt q.desc (ti % 4) then actEnd inst k stMalformed s
          else rewriteStart slot ti inst k { mode := .requant, inst := inst, todo := [], program := prog } s

/-- REWRITE_REQUANT (R139). -/
def execRewriteRequant (inst : Nat) (s : State) : Host.Outcome State Fault Refusal :=
  .next (match startedAct s inst 0xD with
    | none => s
    | some (x, k, p) => if bitAt (rd p 0 1) 0 then s else requantDo x inst k p s)

/-- The descriptors agree under R219: bytes 0-11 and LINE_CODE. -/
def descAgree (a b : Bytes) : Bool := a.take 12 == b.take 12 && dLineCode a == dLineCode b

/-- The checks of R221 on the base of an encode: the refusal, or the base's slot. -/
def baseCheck (x : Inst) (d : Bytes) (tag : Nat) (s : State) : Sum Nat Nat × State :=
  match lookSeq x.tenant tag s with
  | (none, s) => (.inl (if dDeltaOk d then stNoPage else stAccess), s)
  | (some b, s) =>
    let q := seqOf s b
    if !dDeltaOk d || dProtected q.desc then (.inl stAccess, s)
    else if !descAgree d q.desc then (.inl stMalformed, s)
    else if q.st ≠ .active then (.inl stStateConflict, refuseSeq b x.tenant 0xD s (whoOf x.msg))
    else (.inr b, s)

/-- REWRITE in DELTA mode (R221, R222). -/
def rewriteDeltaDo (x : Inst) (inst k : Nat) (p : Bytes) (s : State) : State :=
  match lookSeq x.tenant (rd p 8 8) s with
  | (none, s) => actEnd inst k stNoPage s
  | (some slot, s) =>
    let q := seqOf s slot
    let ti := rd p 24 1 * 4 + bits (rd p 25 1) 1 0
    let decode := bitAt (rd p 25 1) 2
    let base := if decode then (if dDeltaOk q.desc then (.inr 0, s) else (.inl stAccess, s)) else baseCheck x q.desc (rd p 16 8) s
    match base with
    | (.inl st, s) => actEnd inst k st s
    | (.inr b, s) =>
      if q.st ≠ .active then actEnd inst k stStateConflict (refuseSeq slot x.tenant 0xD s (whoOf x.msg))
      else
        match rewriteState slot ti x.tenant s (whoOf x.msg) with
        | (some st, s) => actEnd inst k st s
        | (none, s) =>
          rewriteStart slot ti inst k { mode := if decode then .deltaDec else .deltaEnc, inst := inst, todo := [], base := b } s

/-- REWRITE_DELTA (R221). -/
def execRewriteDelta (inst : Nat) (s : State) : Host.Outcome State Fault Refusal :=
  .next (match startedAct s inst 0xD with
    | none => s
    | some (x, k, p) => if bitAt (rd p 0 1) 0 then rewriteDeltaDo x inst k p s else s)

/-! ## Delta encoding of one page (10 R219, R222, R226, R228, R234) -/

/-- `n` consecutive free 4 KiB units inside one granule of a channel-local range, in region `r` and channel `ch` (10 R228); `aliased` admits names
of deep-held pages. -/
def freeUnitsBy (s : State) (r ch n : Nat) (coded aliased : Bool) : Option Nat :=
  let (_, b, c, t) := rangesOf s r
  let lo := if coded then b else c
  let hi := if coded then c else t
  let j0 := (lo - b) / 2 ^ 18
  let per := 65 - n
  let at_ := fun i => b + (((j0 / 12) * 12 + i / per * 12 + ch) * 2 ^ 18) + i % per * 4096
  let good := fun i =>
    let o := at_ i
    decide (lo ≤ o) && decide (o + n * 4096 ≤ hi) && decide ((interleave b o).2 + n * 4096 ≤ localDataEnd s r coded) &&
      spanFree s.sto.fast (r * 2 ^ 40 + o) (n * 4096) && (aliased || !nameUsed s (r * 2 ^ 40 + o) (n * 4096))
  (findFrom 0 ((hi - lo) / 2 ^ 18 / 12 * per + per) good).map fun i => r * 2 ^ 40 + at_ i

/-- The units for a coded page: names under no deep-held page first (05 R114). -/
def freeUnits (s : State) (r ch n : Nat) (coded : Bool) : Option Nat :=
  match freeUnitsBy s r ch n coded false with
  | some a => some a
  | none => freeUnitsBy s r ch n coded true

/-- The base-reference entry a conversion takes: an entry of this base page whose frame it still is, or a free one (10 R234). -/
def baseEntry (s : State) (b ti idx frame : Nat) : Option Nat :=
  let r := frame / 2 ^ 40
  match tfind s.sto.baseRef fun _ e => e.slot == b && e.ten == ti && e.idx == idx && e.frame == frame with
  | some (k, e) => if e.refs < 65535 then some k else none
  | none => tfree s.sto.baseRef (r * 8192) 8192

/-- The index, in a sequence of descriptor `db`, of the page (g, p) that index `idx` names under `d`: none where that sequence is too short. -/
def sameIdx (d db : Bytes) (idx : Nat) : Option Nat :=
  if idx % dPages d < dPages db then some (pageIdx db (idx / dPages d) (idx % dPages d)) else none

/-- The base page's index and name where R219 lets the page be coded against it now. -/
def baseName (s : State) (slot b ti idx : Nat) : Option (Nat × Nat) :=
  let q := seqOf s slot
  let qb := seqOf s b
  match sameIdx q.desc qb.desc idx with
  | none => none
  | some bi =>
    match leafOf s b ti bi with
    | .invalid => none
    | .leaf e =>
      if qb.tenant == q.tenant && q.st == .active && qb.st == .active && !dProtected qb.desc && descAgree q.desc qb.desc &&
          pageBelow qb.desc bi qb.committed && pageBelow q.desc idx q.committed && !leafDelta e && leafLocal e &&
          (tenOf qb ti).st == .fast then some (bi, leafFrame e) else none

/-- What firmware reads to convert a page: the page and the base page that R219 allows it now. -/
def encodeChunks (s : State) (slot b ti idx : Nat) : List Nat :=
  match leafOf s slot ti idx, baseName s slot b ti idx with
  | .leaf e, some (_, frame) => pageChunks s slot ti idx e ++ spanChunks (frame, dPageSize (seqOf s slot).desc)
  | _, _ => []

/-- A base frame is no fast-tier memory (04 R88). -/
def baseBeyond (s : State) (slot b ti idx : Nat) : Bool :=
  match baseName s slot b ti idx with
  | some (_, frame) => nodeBeyond s frame
  | none => false

/-- Convert one page to delta form, or leave it plain and count why. -/
def encodeOne (slot b ti idx : Nat) (s : State) : State :=
  let q := seqOf s slot
  let d := q.desc
  match baseName s slot b ti idx, getPage s slot ti idx with
  | some (bi, frame), .ok page =>
    let r := frame / 2 ^ 40
    match baseEntry s b ti bi frame with
    | none => count (rgnCntOff r 18) s
    | some key =>
      let used := usedLen d (ti % 4)
      let base := memRead s.mem.fast frame (dPageSize d)
      let coded := encodePage page base used key
      let n := divUp coded.length 4096
      if dPageSize d / 4096 ≤ n then countTenant q.tenant 0x1C s
      else
        match tfree s.sto.loc (r * 2 ^ 18) (2 ^ 18), freeUnits s r (chanOf s frame % 12) n (dLineCode d) with
        | some i, some a =>
          let e := (tlook s.sto.baseRef key).getD
            { slot := b, ten := ti, idx := bi, pages := dPages (seqOf s b).desc, frame := frame, digest := Config.sha256 (base.take used), refs := 0 }
          let s := writeFast a coded (useFast a (n * 4096) q.tenant (.coded slot ti idx) (noteAliased a (n * 4096) s))
          let s := { s with sto := { s.sto with
            loc := tput s.sto.loc i { inFast := true, units := n, first := a, codedLen := coded.length }
            baseRef := tput s.sto.baseRef key { e with refs := e.refs + 1 } } }
          countTenant q.tenant 0x14 (changeLeaf slot ti idx (mkLeaf (deltaName i) true true) s)
        | _, _ => count (rgnCntOff r 17) s
  | _, _ => countTenant q.tenant 0x18 s

/-- Count pages of an encode that stay plain, DELTA_SKIPPED (R219, R222). -/
def skipPages (tenant n : Nat) (s : State) : State := (List.range n).foldl (fun s _ => countTenant tenant 0x18 s) s

/-- DELTA_PAGE_CONVERT (R222): the next page of an encode on a steward core. The action ends early where the base has left ACTIVE, the remaining
pages skipped, or where the sequence is RELEASING. -/
def execDeltaPageConvert (ten : TensorId) (s : State) : Host.Outcome State Fault Refusal :=
  let ti := ten.layer.val * 4 + ten.kind.val
  let key := tenKey ten.slot.val ti
  .next (match tlook s.work.rewrites key with
    | none => s
    | some r =>
      if r.mode ≠ .deltaEnc ∨ r.atUnit = true then s
      else if (seqOf s ten.slot.val).st = .releasing then rewriteEnd key stOk s
      else if (seqOf s r.base).st ≠ .active then
        rewriteEnd key stOk (skipPages (seqOf s ten.slot.val).tenant r.todo.length s)
      else
        match r.todo with
        | [] => rewriteEnd key stOk s
        | idx :: rest =>
          let slot := ten.slot.val
          match leafOf s slot ti idx with
          | .invalid => rewriteGo key rest s
          | .leaf e =>
            if leafDelta e then rewriteGo key rest s
            else if baseBeyond s slot r.base ti idx then
              rewriteEnd key stInternal (raise (leafWalkMalformed (dirRegion slot)) [(18, 1, stInternal), (20, 4, slot), (32, 2, (seqOf s slot).tenant), (34, 1, ti / 4)] s)
            else match readFree (.page slot ti idx) (encodeChunks s slot r.base ti idx) s with
              | (.waits, s) => s
              | (.bad a, s) => lineLost a (rewriteEnd key stInternal s)
              | (_, s) => rewriteGo key rest (encodeOne slot r.base ti idx s))

/-! ## Leaf changes -/

/-- The commit or shift under way on a slot, with its key; a shift whose own part is done only waits for its partner. -/
def ctlOn (s : State) (slot : Nat) : Option (Nat × CtlOp) :=
  tfind s.work.ctlOps fun _ o => o.slot == slot && o.started && !(o.op == 2 && o.localDone)

/-- Change the operation under way on a slot. -/
def modCtl (slot : Nat) (f : CtlOp → CtlOp) (s : State) : State :=
  match ctlOn s slot with
  | none => s
  | some (k, o) => { s with work := { s.work with ctlOps := tput s.work.ctlOps k (f o) } }

/-- Take a reserved frame of a page from the operation's list. -/
def takeReservedOf (slot ti idx : Nat) (s : State) : Option Nat × State :=
  match ctlOn s slot with
  | none => (none, s)
  | some (_, o) =>
    match o.reserved.find? fun r => r.1 == ti && r.2.1 == idx with
    | none => (none, s)
    | some r => (some r.2.2, modCtl slot (fun o => { o with reserved := o.reserved.erase r }) s)

/-- Issue REENCODE of a plain page of a shift into its reserved frame (09 R217). -/
def issueReencode (slot ti idx name program : Nat) (delta : Nat) (s : State) : State :=
  let (new, s) := takeReservedOf slot ti idx s
  let sc := scaleTen (seqOf s slot).desc ti
  let (pair, s) : Option (Nat × Nat) × State := match sc with
    | none => (none, s)
    | some sc =>
      let (sn, s) := takeReservedOf slot sc idx s
      (match sn, frameOf s slot sc idx with | some n, some f => some (f, n) | _, _ => none, s)
  match new with
  | none => modCtl slot (fun o => { o with failed := true, left := o.left - 1 }) s
  | some new =>
    let c := { mkCmd s 3 slot ti idx name new program (.shift slot) with pos := delta, pair := pair }
    issueUnit (chanOf s name) c s

/-- Issue the decode of a delta page of a shift into its reserved frame, counted DELTA_DECODED (10 R222). -/
def shiftDecode (slot ti idx e : Nat) (s : State) : State :=
  match decodeHome s slot ti idx e, takeReservedOf slot ti idx s with
  | some (_, b), (some new, s) => countTenant (seqOf s slot).tenant 0x20 (issueDecodeInto new slot ti idx e b (.shift slot) s)
  | _, (_, s) => modCtl slot (fun x => { x with failed := true, left := x.left - 1 }) s

/-- The next step of a page of a shift: a delta page, its own or its scale page, is decoded first (10 R222); then the page is re-encoded (09 R217). -/
def shiftPage (slot ti idx program delta : Nat) (s : State) : State :=
  match leafOf s slot ti idx with
  | .invalid => modCtl slot (fun x => { x with left := x.left - 1 }) s
  | .leaf l =>
    if leafDelta l then shiftDecode slot ti idx l s
    else match deltaScale s slot ti idx with
      | some (sc, se) => shiftDecode slot sc idx se s
      | none => issueReencode slot ti idx (leafFrame l) program delta s

/-- What follows a leaf change, by whose work it was. -/
def afterLeaf (j : LeafJob) (wasDelta : Bool) (s : State) : State :=
  match j.job with
  | .rewrite key =>
    match tlook s.work.rewrites key with
    | none => s
    | some r =>
      if wasDelta && r.mode != .deltaDec then rewriteGo key r.todo s
      else rewriteGo key (r.todo.erase j.idx) s
  | .compact slot => modCtl slot (fun o => { o with left := o.left - 1 }) s
  | .shift slot =>
    match ctlOn s slot with
    | none => s
    | some (_, o) =>
      if wasDelta then
        let (n, s) := takeFree s
        shiftPage slot ((dataTen (seqOf s slot).desc j.ten).getD j.ten) j.idx (Config.freeBits 8 n).toNat (rd o.body 20 4) s
      else modCtl slot (fun o => { o with left := o.left - 1 }) s
  | _ => s

/-- A leaf of a compaction waits until every COMPACT of it has ended (09 R212 steps 3, 4): a page may be the source of another's. -/
def leafWaits (j : LeafJob) (s : State) : Bool :=
  match j.job with
  | .compact _ => jobAtUnit s j.job
  | _ => false

/-- A compaction one of whose commands failed changes no leaf (09 R212 step 3): the page's new frames are given back. -/
def leafDropped (j : LeafJob) (s : State) : Bool :=
  match j.job with
  | .compact slot => (match ctlOn s slot with | some (_, o) => o.failed | none => true)
  | _ => false

/-- LEAF_UPDATE (R62): firmware writes the new leaf, and that of a scale page with it, and invalidates both everywhere. -/
def execLeafUpdate (job : Nat) (s : State) : Host.Outcome State Fault Refusal :=
  .next (match tlook s.work.leafJobs job with
    | none => s
    | some j =>
      if leafWaits j s then s
      else if leafDropped j s then
        afterLeaf j false (dropReserved ([leafFrame j.leaf] ++ (j.pair.map fun p => leafFrame p.2.1).toList)
          { s with work := { s.work with leafJobs := tdel s.work.leafJobs job } })
      else
      let wasDelta := match leafOf s j.slot j.ten j.idx with | .leaf e => leafDelta e | .invalid => false
      let s := { s with work := { s.work with leafJobs := tdel s.work.leafJobs job } }
      let s := changeLeaf j.slot j.ten j.idx j.leaf s
      let s := match j.pair with
        | some (sc, leaf, _) => changeLeaf j.slot sc j.idx leaf s
        | none => s
      afterLeaf j wasDelta s)

/-! ## The end of a channel-unit command -/

/-- A command ends without a new page: its issuer gets the status (04 R98). -/
def jobFail (c : UnitCmd) (status : Nat) (s : State) : State :=
  let s := dropReserved ((if c.op = 1 ∨ c.op = 6 then [] else [c.newName]) ++ (c.pair.map (·.2)).toList) s
  match c.job with
  | .append id => { s with work := { s.work with appends := tmod s.work.appends id fun a =>
      { a with left := a.left - 1, failed := if a.failed = 0 then status else a.failed } } }
  | .rewrite key => rewriteEnd key status s
  | .compact slot => modCtl slot (fun o => { o with failed := true, left := o.left - 1 }) s
  | .shift slot => modCtl slot (fun o => { o with failed := true, left := o.left - 1 }) s
  | .scrub => s

/-- A command of a shift stopped by SEQ_RELEASE ends at its atom boundary (03 Table 3.7): its new frame is given back, and the shift has not failed (03
R78). -/
def jobStop (c : UnitCmd) (s : State) : State :=
  let s := dropReserved ([c.newName] ++ (c.pair.map (·.2)).toList) s
  match c.job with
  | .shift slot => modCtl slot (fun o => { o with left := o.left - 1 }) s
  | _ => s

/-- A command ends with its page written. -/
def jobDone (c : UnitCmd) (s : State) : State :=
  match c.job with
  | .append id => { s with work := { s.work with appends := tmod s.work.appends id fun a => { a with left := a.left - 1 } } }
  | .scrub => s
  | _ => addLeafJob c s

end Sys2Proof.Machine
end

