-- ==== Sys2Proof/Machine/Fence.lean ====
section
/-! DEFINITION. Fencing blocks and regions (02 R38, Table 2.5; 10 R236). -/

namespace Sys2Proof.Machine

/-- Every command of a unit ends with a status; the unit is idle, and the entry of an atom that ran is ABANDONED (04 R104). -/
def failUnit (ch status : Nat) (s : State) : State :=
  let c := chanSt s ch
  let s := endAtom ch .abandoned true s
  let s := setChan ch { chanSt s ch with issued := [], queue := [], run := none, scrub := none, held := [] } s
  (unitCmds c).foldl (fun s u => jobFail u status s) s

/-- The requests with work in region `r` whose partial has not left it (08 R187): pages to read there, read or not. -/
def reqsIn (s : State) (r : Nat) : List Nat :=
  (s.req.filter fun e => match tlook e.2.rgns r with
    | some x => x.sent.isNone && !x.pairs.isEmpty
    | none => false).map (·.1)

/-- The requests that hold a context on a block; one that is saved is not on it (08 R187). -/
def reqsOn (s : State) (r b : Nat) : List Nat :=
  (s.req.filter fun e => match tlook e.2.rgns r with
    | some x => x.lanes.any fun l => l.2.block == b && l.2.st == .running
    | none => false).map (·.1)

/-- An append with a part in region `r` fails when the region is fenced, though its commands there may have completed (09 R207). -/
def failAppends (r : Nat) (s : State) : State :=
  let mark := fun (a : Append) => if a.rgns.contains r && a.failed == 0 then { a with failed := stInternal } else a
  { s with work := { s.work with appends := tmap s.work.appends fun _ a => mark a } }

/-- A region is fenced (Table 2.5; 19 Table 19.5): its pages are lost on this node, and the DMA runs with a side there end (13 R304); a second fenced
region is fatal. -/
def fenceRegion (r causedBy : Nat) (s : State) : State :=
  if rgnFenced s r || !awake s then s
  else
    let second := (List.range 16).any fun x => rgnFenced s x
    let s := setRgn r { rgnOf s r with fenced := true } s
    let s := barrierFenced r (raise (leafRegionFenced r) [(36, 4, causedBy)] s)
    let s := endRuns (fun x => sideRegion x == some r) (ringRegion r) s
    if second then chipFatal 1 (r + 2 * 32) (logSeq s (ringRegion r)) s
    else
      let s := failAppends r ((List.range 12).foldl (fun s i => failUnit (r * 12 + i) stInternal s) s)
      let s := endReqs stInternal (reqsIn s r) s
      let lost := seqsIn s r
      let refs := (s.sto.baseRef.filter fun e => e.2.frame / 2 ^ 40 == r).map (·.1)
      let s := refs.foldl (fun s k => baseLost k s) s
      lost.foldl (fun s k => seqLost k s) s

/-- The number of a block on the node. -/
def blkKey (r b : Nat) : Nat := r * 8 + b

/-- Block `b` of region `r`. -/
def blkOf (s : State) (r b : Nat) : Blk := tget {} s.blk (blkKey r b)

/-- Write it. -/
def setBlk (r b : Nat) (x : Blk) (s : State) : State := { s with blk := tset {} s.blk (blkKey r b) x }

/-- The blocks of a region in service, in ascending order. -/
def blocksUp (s : State) (r : Nat) : List Nat := (List.range 8).filter fun b => !(blkOf s r b).fenced

/-- A block is fenced (Table 2.5): the requests with contexts on it end with ST_INTERNAL; with fewer than 6 blocks the region is fenced. -/
def fenceBlock (r b causedBy : Nat) (s : State) : State :=
  if (blkOf s r b).fenced then s
  else
    let s := setBlk r b { blkOf s r b with fenced := true } s
    let s := raise (leafBlockFenced r) [(16, 1, b), (36, 4, causedBy)] s
    let s := endReqs stInternal (reqsOn s r b) s
    if (blocksUp s r).length < 6 then fenceRegion r (logSeq s (16 + r)) s else s

end Sys2Proof.Machine
end

