-- ==== Sys2Proof/Machine/Units.lean ====
section
/-! DEFINITION. The GDDR7 channels and channel units (04 R82-R107): retracking, refresh, link errors, scrubbing, unit commands, atoms and
journals. -/

namespace Sys2Proof.Machine

/-! ## The aperture (R97, R98) -/

/-- The cache address at which unit `u` of region `r` takes commands (R97). -/
def apertureAddr (r u : Nat) : Nat := r * 2 ^ 40 + 0xFFFFFF0000 + u * 0x1000

/-- The 64 bytes of a command as its issuer writes them at CMD (Table 4.7). -/
def cmdBytes (u : UnitCmd) : Bytes :=
  leBytes 1 u.op ++ leBytes 1 (bitOf u.norm 0 + bitOf u.rotary 1) ++ leBytes 2 u.tenant ++ leBytes 4 u.slot ++ leBytes 4 u.src ++
    leBytes 4 u.dst ++ leBytes 4 u.lines ++ leBytes 4 (u.pos % 2 ^ 25) ++ leBytes 1 u.program ++ leBytes 1 u.srcFmt ++ leBytes 1 u.dstFmt ++
    leBytes 1 u.group ++ leBytes 1 u.headsM1 ++ leBytes 1 u.dim ++ List.replicate 2 0 ++ leBytes 4 u.base ++ List.replicate 4 0 ++
    leBytes 8 u.tag ++ List.replicate 16 0

/-- The fields of Table 4.7 as a unit reads them from 64 bytes, beside what the issuer staged for the command `u` in stack SRAM. -/
def cmdRead (b : Bytes) (u : UnitCmd) : UnitCmd :=
  { u with
    op := bits (rd b 0 1) 3 0, norm := bitAt (rd b 1 1) 0, rotary := bitAt (rd b 1 1) 1, tenant := bits (rd b 2 2) 11 0
    slot := bits (rd b 4 4) 17 0, src := bits (rd b 8 4) 30 0, dst := bits (rd b 12 4) 30 0, lines := bits (rd b 16 4) 19 0
    pos := bits (rd b 20 4) 24 0, program := rd b 24 1, srcFmt := bits (rd b 25 1) 4 0, dstFmt := bits (rd b 26 1) 4 0
    group := bits (rd b 27 1) 1 0, headsM1 := bits (rd b 28 1) 5 0, dim := bits (rd b 29 1) 5 0, base := bits (rd b 32 4) 30 0
    tag := rd b 40 8 }

/-- STATUS of a unit (Table 4.6). TAG has 64 bits and STATUS[63:32] shows 32 of them; the table does not say which, and the model shows the low ones
(DESIGN CHOICE, log 95). -/
def unitStatusWord (c : Chan) : Nat :=
  bits c.queue.length 4 0 + bitOf c.atom.isSome 5 + bitOf (tany c.journal fun _ j => j.st == .abandoned) 6 + c.lastTag % 2 ^ 32 * 2 ^ 32

/-- JOURNAL_HEAD of a unit (Table 4.6): the oldest open entry, in the order entries are taken. The table does not say what it reads with no entry open;
the model gives the entry that the next atom takes (DESIGN CHOICE, log 96). -/
def journalHead (c : Chan) : Nat :=
  ((List.range 256).map fun i => (c.nextEntry + i) % 256).find? (fun i => (tlook c.journal i).any fun j => j.st == .open_) |>.getD c.nextEntry

/-- The 16-byte completion record of a unit's last command: TAG and a status (R98). The record gives no places for them; the model puts TAG in
bytes 0-7 and the status in byte 8 (DESIGN CHOICE, log 63). -/
def unitRecord (c : Chan) : Bytes := leBytes 8 c.lastTag ++ leBytes 1 c.lastStatus ++ List.replicate 7 0

/-! ## Compute mode (R96) -/

/-- Some unit of the region has a command queued or running. -/
def unitsBusy (s : State) (r : Nat) : Bool :=
  (List.range 12).any fun i => let c := chanSt s (r * 12 + i); !c.queue.isEmpty || c.run.isSome || c.scrub.isSome

/-- A region that leaves compute mode clears MODE_ACK and has its scratch back once no unit has a command. -/
def drainMode (r : Nat) (s : State) : State :=
  let g := rgnOf s r
  if g.unitMode || unitsBusy s r then s else setRgn r { g with modeAck := false, scratch := 0 } s

/-- MODE of a region is set: at 1 the units take 1 MiB of stack SRAM each. -/
def setMode (r : Nat) (on : Bool) (s : State) : State :=
  if on then setRgn r { rgnOf s r with unitMode := true, modeAck := true, scratch := 12 } s
  else drainMode r (setRgn r { rgnOf s r with unitMode := false } s)

/-! ## Commands into a unit's queue -/

/-- A command ends with a completion record to its issuer (R98). -/
def cmdEnd (ch : Nat) (u : UnitCmd) (status : Nat) (s : State) : State :=
  let s := setChan ch { chanSt s ch with lastTag := u.tag, lastStatus := status } s
  drainMode (ch / 12) (if status = stOk then jobDone u s else jobFail u status s)

/-- A command of a stopped shift ends (03 R78): its completion record says ST_OK. -/
def cmdStop (ch : Nat) (u : UnitCmd) (s : State) : State :=
  let s := setChan ch { chanSt s ch with lastTag := u.tag, lastStatus := stOk } s
  drainMode (ch / 12) (jobStop u s)

/-- A frame the command names is no fast-tier memory (R88). -/
def cmdBeyond (s : State) (u : UnitCmd) : Bool :=
  u.op != 6 && ((if u.op = 5 then nodeBeyond s u.baseName else nodeBeyond s u.name) || (u.op != 1 && nodeBeyond s u.newName) ||
    (match u.pair with
     | some p => nodeBeyond s p.1 || nodeBeyond s p.2
     | none => false))

/-- The fields of a REGION-ring record about a command of channel unit `ch` (19 Table 19.8). -/
def unitDetail (ch : Nat) (u : UnitCmd) : Detail := [(16, 1, ch % 12), (17, 1, ch % 12), (20, 4, u.slot), (32, 2, u.tenant), (34, 1, u.layer)]

/-- The next issued command with OP `op` reaches the aperture (R97, R98): it is enqueued, or discarded with its cause. A command that arrives while
MODE is 0 and the units still drain is discarded as one that finds MODE_ACK 0 (DESIGN CHOICE, log 64). -/
def unitTake (ch op : Nat) (s : State) : State :=
  let c := chanSt s ch
  let r := ch / 12
  match c.issued.find? fun u => u.op == op with
  | none => s
  | some u =>
    let s := setChan ch { c with issued := c.issued.erase u } s
    let g := rgnOf s r
    if c.lost || g.fenced then jobFail u stInternal s
    else if !g.modeAck || !g.unitMode then
      jobFail u stStateConflict (raise (leafApertureMode r) ((18, 1, stStateConflict) :: unitDetail ch u) s)
    else if 16 ≤ c.queue.length then
      jobFail u stStateConflict (raise (leafUnitQueueOverrun r) ((18, 1, stStateConflict) :: unitDetail ch u) s)
    else setChan ch { chanSt s ch with queue := c.queue ++ [cmdRead (cmdBytes u) u] } s

/-- APPEND_TAIL (R100): the append engine's next command reaches its unit. -/
def execAppendTail (ch : Fin 192) (s : State) : Host.Outcome State Fault Refusal := .next (unitTake ch 1 s)
/-- REQUANT (06 R139). -/
def execRequant (ch : Fin 192) (s : State) : Host.Outcome State Fault Refusal := .next (unitTake ch 2 s)
/-- REENCODE (R101). -/
def execReencode (ch : Fin 192) (s : State) : Host.Outcome State Fault Refusal := .next (unitTake ch 3 s)
/-- COMPACT (09 R212). -/
def execCompact (ch : Fin 192) (s : State) : Host.Outcome State Fault Refusal := .next (unitTake ch 4 s)
/-- DELTA_DECODE (10 R222). -/
def execDeltaDecode (ch : Fin 192) (s : State) : Host.Outcome State Fault Refusal := .next (unitTake ch 5 s)
/-- SCRUB (R100). -/
def execScrub (ch : Fin 192) (s : State) : Host.Outcome State Fault Refusal := .next (unitTake ch 6 s)

/-! ## What a command writes -/

/-- The page pair at two frames, plain. -/
def pairAt (s : State) (tenant size name : Nat) (scale : Option Nat) : PagePair :=
  { page := pageFast s tenant name size, scales := match scale with | some a => pageFast s tenant a size | none => [] }

/-- The view of a plain page pair. -/
def viewOf (q : Seq) (ti idx : Nat) (pp : PagePair) : PageView :=
  { d := q.desc, k := ti % 4, page := pp.page, scales := pp.scales, params := (tenOf q ti).params, group := idx / dPages q.desc }

/-- A 2 KiB chunk of a page, stored under its tenant's keys. -/
def storedChunks (s : State) (tenant name : Nat) (page : Bytes) (is : List Nat) : List (Nat × Bytes) :=
  is.map fun i => (name + 2048 * i, storedOf s tenant (name + 2048 * i) (slice page (2048 * i) 2048))

/-- Every chunk of a page. -/
def allChunks (s : State) (tenant name : Nat) (page : Bytes) : List (Nat × Bytes) :=
  storedChunks s tenant name page (List.range (page.length / 2048))

/-- The chunks of a page that a write in place changes, at least one. -/
def changedChunks (s : State) (tenant name : Nat) (old new : Bytes) : List (Nat × Bytes) :=
  let is := (List.range (new.length / 2048)).filter fun i => slice old (2048 * i) 2048 != slice new (2048 * i) 2048
  storedChunks s tenant name new (if is.isEmpty then [0] else is)

/-- Record the tensor-head parameters at a tensor's first APPEND_TAIL (06 R135). -/
def recordParams (slot ti program : Nat) (s : State) : State :=
  let q := seqOf s slot
  let t := tenOf q ti
  let ps := programParams (progOf s program).image q.desc (ti % 4)
  if t.params.isEmpty && !ps.isEmpty then relayTensor slot ti (setTen slot ti { t with params := ps } s) else s

/-- COMPACT of one page (09 R212): tokens below C, then the accepted tokens of the tail. The spec does not say how the unit reaches an accepted
token in a page of another channel, which it cannot address (R92); in the model firmware stages those pages with the command (DESIGN CHOICE, log 65). -/
def compactPage (s : State) (u : UnitCmd) (pp : PagePair) : PagePair :=
  let q := seqOf s u.slot
  let d := q.desc
  let t := dTokens d
  let p := u.idx % dPages d
  u.accepted.zipIdx.foldl (fun dst e =>
    let to_ := q.committed + e.2
    let from_ := q.committed + e.1
    if to_ / t = p then
      let srcIdx := u.idx - p + from_ / t
      let src := if from_ / t = p then pp else (u.near.find? fun e => e.1 == srcIdx).elim pp fun e => { page := e.2.1, scales := e.2.2 }
      copyToken d u.kind (from_ % t) src (to_ % t) dst
    else dst) pp

/-- What a command does to its page (R100, R101; 06 R139; 10 R222): the page pair and clips, or the status it ends with. -/
def unitCompute (s : State) (u : UnitCmd) : Sum Nat PagePair :=
  let q := seqOf s u.slot
  let d := q.desc
  let ti := u.layer * 4 + u.kind
  let p := (progOf s u.program).image
  let pp := pairAt s u.tenant (dPageSize d) u.name (u.pair.map (·.1))
  let v := viewOf q ti u.idx pp
  let top := q.committed + q.tail - u.idx % dPages d * dTokens d
  let toks := List.range (min top (dTokens d))
  let heads := List.range (dHeadsPerPage d)
  let badSource := heads.any fun h => toks.any fun t => (dequantRow v h t).any fun x => !isFin32 x
  match u.op with
  | 1 => if bf16Bad u.staged then .inl stMalformed
      else .inr (appendPage p d u.kind (u.idx / dPages d) (tenOf q ti).params u.norm u.rotary u.accepted
        (u.poss.map (signed 64)) u.staged pp)
  | 2 => if badSource || ftFmt p u.kind != dFmt d u.kind then .inl stMalformed else .inr (requantPage v top pp)
  | 3 => if badSource then .inl stMalformed else .inr (reencodePage p v (signed 25 u.pos) top pp)
  | 4 => .inr (compactPage s u pp)
  | 5 =>
    let t := tenOf q ti
    match leafOf s u.slot ti u.idx with
    | .leaf e =>
      match codedBase s t u.idx (leafFrame e) with
      | some _ =>
        match decodePage (codedBytes s t u.idx (leafFrame e)) (memRead s.mem.fast u.baseName (dPageSize d)) with
        | some page => .inr { page := padTo (dPageSize d) page, scales := [] }
        | none => .inl stInternal
      | none => .inl stInternal
    | .invalid => .inl stInternal
  | _ => .inr { page := [], scales := [] }

/-- The chunks a computed page pair writes: in place for APPEND_TAIL, into the new frames otherwise. -/
def unitChunks (s : State) (u : UnitCmd) (pp : PagePair) : List (Nat × Bytes) :=
  let size := dPageSize (seqOf s u.slot).desc
  match u.op with
  | 1 =>
    let old := pairAt s u.tenant size u.name (u.pair.map (·.1))
    changedChunks s u.tenant u.name old.page pp.page ++
      (match u.pair with | some p => changedChunks s u.tenant p.1 old.scales pp.scales | none => [])
  | 6 => []
  | _ => allChunks s u.tenant u.newName pp.page ++
      (match u.pair with | some p => allChunks s u.tenant p.2 pp.scales | none => [])

/-! ## Atoms (R99, R107) -/

/-- tREFIpb in units of 1/32 ns (R84, R86). -/
def trefipb (s : State) (c : Chan) : Nat :=
  let t := (s.cfg.img.map (·.trefi)).getD 1900
  if c.half then t else 2 * t

/-- t_atom in units of 1/32 ns (R99). -/
def tAtom (s : State) (c : Chan) : Nat := min (1600 * 32) (27 * trefipb s c)

/-- A of R107. -/
def atomDebt (s : State) (c : Chan) : Nat := (tAtom s c + trefipb s c - 1) / trefipb s c

/-- The trained rate of a channel in GB/s: the image's, clamped to the fused grade (02 R3). -/
def chanRate (s : State) : Nat := min s.fuse.grade ((s.cfg.img.map (·.g7Rate)).getD s.fuse.grade)

/-- The chunks an atom holds (R99): whole transfers within t_atom, at least one, at most 16. -/
def atomChunks (s : State) (c : Chan) (coded : Bool) : Nat :=
  max 1 (min 16 (chanRate s * tAtom s c / ((if coded then 4224 else 4096) * 32)))

/-- The data chunks [i, i + n) of a channel's line-coded shares, striped before channel-local, by cache address (R102). -/
def scrubChunks (s : State) (ch i n : Nat) : List Nat :=
  let all := codedShares s (ch / 12)
  (List.range n).filterMap fun k =>
    let j := i + k
    match all with
    | [x, y] =>
      if j < shareChunks x then some (chanAddr s (ch / 12) (ch % 12) (x.1 + 2048 * j))
      else if j - shareChunks x < shareChunks y then some (chanAddr s (ch / 12) (ch % 12) (y.1 + 2048 * (j - shareChunks x)))
      else none
    | _ => none

/-- The chunks a channel's line-coded shares have. -/
def scrubEnd (s : State) (ch : Nat) : Nat := ((codedShares s (ch / 12)).map shareChunks).sum

/-- An atom starts on chunks: its journal entry is OPEN before it writes (R104), and their code lines are fetched (R94). -/
def openAtom (ch : Nat) (job : UnitJob) (chunks : List (Nat × Bytes)) (s : State) : State :=
  let s := touchCodes (chunks.map (·.1)) s
  let c := chanSt s ch
  let slot := if job = .scrub then none else c.run.map (·.cmd.slot)
  let s := setJournal ch c.nextEntry { st := .open_, chunks := chunks, slot := slot } s
  setChan ch { chanSt s ch with
    atom := some { entry := c.nextEntry, chunks := chunks, start := now s, job := job, slot := slot }
    nextEntry := (c.nextEntry + 1) % 256
    yielded := false } s

/-- Start the next atom of the command under way. -/
def startAtom (ch : Nat) (s : State) : State :=
  let c := chanSt s ch
  match c.run with
  | none => s
  | some r =>
    let n := atomChunks s c (match r.todo.head? with | some x => codedAt s x.1 | none => false)
    openAtom ch r.cmd.job (r.todo.take n) (setChan ch { c with run := some { r with todo := r.todo.drop n } } s)

/-- Start the next atom of the SCRUB under way: it reads chunks of the line-coded shares, and writes none of their data anew: its journal entry names
them and keeps no copy (log 66). Its next atom waits until scrubbing has taken at most 1 % of the channel's time (R102). -/
def startScrub (ch : Nat) (s : State) : State :=
  let c := chanSt s ch
  match c.scrub with
  | none => s
  | some r =>
    let n := atomChunks s c true
    openAtom ch .scrub ((scrubChunks s ch r.at_ n).map fun a => (a, []))
      (setChan ch { c with scrub := some { r with at_ := r.at_ + n, after := now s + 100 * tAtom s c / 32 } } s)

/-- The command under way has written everything: clips are counted and its issuer is told (R98; 06 R140). What a shift wrote for a sequence that has
been released since is dropped (03 Table 3.7). -/
def finishRun (ch : Nat) (s : State) : State :=
  let c := chanSt s ch
  match c.run with
  | none => s
  | some r =>
    let u := r.cmd
    let s := setChan ch { c with run := none } s
    let s := if u.op = 1 ∨ u.op = 2 ∨ u.op = 3 then
        addClipped u.slot u.layer r.clipped (ftClip (progOf s u.program).image u.kind) s else s
    let s := if u.op = 1 then
        let s := dirtyPage u.slot (u.layer * 4 + u.kind) u.idx s
        (match scaleTen (seqOf s u.slot).desc (u.layer * 4 + u.kind) with | some sc => dirtyPage u.slot sc u.idx s | none => s)
      else s
    if u.job = .shift u.slot ∧ (seqOf s u.slot).st = .releasing then cmdStop ch u s else cmdEnd ch u stOk s

/-- Begin the next command of the queue: what it writes is computed once. A SCRUB goes beside it, at its own priority (02 R37). A page that does not
decode loses its sequence (10 R232). -/
def beginCmd (ch : Nat) (u : UnitCmd) (rest : List UnitCmd) (s : State) : State :=
  let s := setChan ch { chanSt s ch with queue := rest } s
  if u.op = 6 then setChan ch { chanSt s ch with scrub := some { cmd := u } } s
  else if cmdBeyond s u then
    cmdEnd ch u stInternal (raise (leafWalkMalformed (ch / 12)) ((18, 1, stInternal) :: unitDetail ch u) s)
  else
    let s := if u.op = 1 then recordParams u.slot (u.layer * 4 + u.kind) u.program s else s
    match unitCompute s u with
    | .inl st =>
      if u.op = 5 then
        seqLost u.slot (cmdEnd ch u st (raise (leafDeltaCorrupt (ch / 12)) [(16, 1, ch % 12), (17, 1, ch % 12), (20, 4, u.slot)] s))
      else cmdEnd ch u st s
    | .inr pp => setChan ch { chanSt s ch with run := some { cmd := u, todo := unitChunks s u pp, clipped := pp.clipped } } s

/-! ## Refresh (R84, R85, R107) -/

/-- tRREFD in ns. -/
def trrefd (s : State) : Nat := (s.cfg.img.map (·.trrefd)).getD 30

/-- The owed REFpb that stay owed: those that let the command that yielded go on, whose next atom starts first (R85, R107), or, while their bank has reads
queued, as many as keep the debt below 8 (R85). -/
def owedFloor (s : State) (c : Chan) : Nat := if c.yielded then 32 - atomDebt s c else if c.bankReads then 7 else 0

/-- Owed REFpb are issued at tRREFD spacing up to now, through the 16 banks in turn (R84, R107). -/
def payDown (s : State) (c : Chan) : Chan :=
  if c.atom.isSome ∨ now s < c.refNext then c
  else
    let n := min (c.debt - owedFloor s c) ((now s - c.refNext) / trrefd s + 1)
    { c with debt := c.debt - n, bank := (c.bank + n) % 16, refNext := c.refNext + n * trrefd s }

/-- The channel's owed REFpb are issued up to now. -/
def payChan (ch : Nat) (s : State) : State := setChan ch (payDown s (chanSt s ch)) s

/-- One REFpb more is owed; the debt never exceeds 32 (R85): an order of commands that would take it further is none the controller can meet. -/
def oweOne (c : Chan) : Chan := { c with debt := min 32 (c.debt + 1) }

/-- The unit may start an atom: its channel is free, its journal has nothing to redo, and the refresh debt leaves room (R85, R107). -/
def atomMayStart (s : State) (c : Chan) : Bool :=
  c.atom.isNone && !c.retraining && !c.lost && decide (c.debt + atomDebt s c ≤ 32) && !tany c.journal (fun _ j => j.st == .abandoned)

/-- ATOM_START (R107): in a gated region the work waits (18 R405); with reads waiting that go first (02 R37: latency-critical ones; before a SCRUB's
atom any read or migration) nothing starts; else the command under way, or the next of the queue, starts an atom, or a SCRUB where no other
command waits. A command that has nothing to write ends. -/
def execAtomStart (ch : Fin 192) (readsWaiting : Bool) (s : State) : Host.Outcome State Fault Refusal :=
  .next (
    if !awake s then s
    else
      let s := payChan ch s
      if readsWaiting || (rgnOf s (ch / 12)).gated || !atomMayStart s (chanSt s ch) then s
      else
        let s := match (chanSt s ch).run, (chanSt s ch).queue with
          | none, u :: rest => beginCmd ch u rest s
          | _, _ => s
        match (chanSt s ch).run, (chanSt s ch).scrub with
        | some r, _ => if r.todo.isEmpty then finishRun ch s else startAtom ch s
        | none, some r =>
          if !(chanSt s ch).queue.isEmpty || decide (now s < r.after) then s
          else if scrubEnd s ch ≤ r.at_ then cmdEnd ch r.cmd stOk (setChan ch { chanSt s ch with scrub := none } s)
          else startScrub ch s
        | none, none => s)

/-- Write stored chunks into the fast tier. -/
def writeChunks (l : List (Nat × Bytes)) (s : State) : State := l.foldl (fun s c => writeFast c.1 c.2 s) s

/-- tREFI of a channel changes (R86): G7_REFRESH_2X is set, or cleared when no channel of its region keeps the halved interval. -/
def setHalved (ch : Nat) (want : Bool) (s : State) : State :=
  let s := setChan ch { chanSt s ch with half := want, halfDue := none } s
  if want then raise (leafG7Refresh2x (ch / 12)) [(16, 1, ch % 12)] s
  else if (List.range 12).any fun i => (chanSt s (ch / 12 * 12 + i)).half then s
  else dropCause (leafG7Refresh2x (ch / 12)) s

/-- What waited for the atom's end takes effect: a retrack (R82) and a change of the refresh interval (R86). Owed REFpb may issue from now (R107). -/
def afterAtom (ch : Nat) (s : State) : State :=
  let c := chanSt s ch
  let s := setChan ch { c with
    atom := none
    refNext := max c.refNext (now s)
    lastRetrack := if c.retrackDue then now s else c.lastRetrack
    retrackDue := false } s
  match c.halfDue with
  | some v => setHalved ch v s
  | none => s

/-- The running atom ends abandoned (R104); `wrote` says whether its new data is in scratch. -/
def abandonAtom (ch : Nat) (wrote : Bool) (s : State) : State :=
  if (chanSt s ch).atom.isNone then s else afterAtom ch (endAtom ch .abandoned wrote s)

/-- The running atom ends: its chunks are written and its entry CLOSED (R104). -/
def closeAtom (ch : Nat) (s : State) : State :=
  match (chanSt s ch).atom with
  | none => s
  | some a => afterAtom ch (endAtom ch .closed true (if a.job = .scrub then s else writeChunks a.chunks s))

/-- A scrub's atom ends (R102): a corrected line is counted and rewritten, an uncorrectable one logged and not rewritten. -/
def scrubEnds (ch : Nat) (read : LineOutcome) (s : State) : State :=
  let s := closeAtom ch s
  match lineMet s read with
  | .clean => s
  | .corrected a => lineCorrected a.toNat s
  | .uncorrectable a => lineBad a.toNat s

/-- The command under way goes on after an atom (R107): it ends, waits for latency-critical reads, starts its next atom, or yields. -/
def nextAtom (ch : Nat) (lcWaiting : Bool) (s : State) : State :=
  let c := chanSt s ch
  match c.run with
  | none => s
  | some r =>
    if r.todo.isEmpty then finishRun ch s
    else if lcWaiting then s
    else if c.debt + atomDebt s c ≤ 32 then startAtom ch s
    else raiseCount (leafUnitRefreshYield (ch / 12)) (rgnCntOff (ch / 12) 10) (unitDetail ch r.cmd)
      (setChan ch { c with yielded := true } s)

/-- An atom of a command ends with what its reads met (R93): a corrected line is counted; with an uncorrectable one nothing is written and the entry is
ABANDONED (R104), the command ends and the page is lost. -/
def atomEnds (ch : Nat) (read : LineOutcome) (lcWaiting : Bool) (s : State) : State :=
  match lineMet s read with
  | .clean => nextAtom ch lcWaiting (closeAtom ch s)
  | .corrected a => nextAtom ch lcWaiting (closeAtom ch (lineCorrected a.toNat s))
  | .uncorrectable a =>
    let s := abandonAtom ch false s
    lineLost a.toNat (match (chanSt s ch).run with
      | some r => cmdEnd ch r.cmd stInternal (setChan ch { chanSt s ch with run := none } s)
      | none => s)

/-- ATOM_END (R99, R104, R107). `lcWaiting` says that latency-critical reads wait at the end; a scratch error is corrected, or abandons the atom (02
Table 2.5). -/
def execAtomEnd (ch : Fin 192) (outcome : AtomOutcome) (lcWaiting : Bool) (s : State) : Host.Outcome State Fault Refusal :=
  let at_ : Detail := [(16, 1, ch % 12), (17, 1, ch % 12)]
  .next (match (chanSt s ch).atom, awake s with
    | none, _ => s
    | _, false => s
    | some a, true =>
      match outcome with
      | .aborted => abandonAtom ch true s
      | .scratchError => raise (leafStackUncorrectable (ch / 12)) at_ (abandonAtom ch true s)
      | .closed read fixed =>
        let s := if fixed then raise (leafStackCorrected (ch / 12)) at_ s else s
        if a.job = .scrub then scrubEnds ch read s else atomEnds ch read lcWaiting s)

/-! ## Controllers -/

/-- G7_RETRACK (R82): every 10 ms; one that falls due during an atom waits for its end. -/
def execG7Retrack (ch : Fin 192) (s : State) : Host.Outcome State Fault Refusal :=
  .next (
    let c := chanSt s ch
    if !awake s || c.lost || decide (now s < c.lastRetrack + 10000000) then s
    else if c.atom.isSome then setChan ch { c with retrackDue := true } s
    else setChan ch { c with lastRetrack := now s } s)

/-- REFPB_DUE (R85, R107): one REFpb falls due. It is owed while an atom holds the channel, while its bank has reads queued and the debt is below 8,
or where the unit's next atom may start first; otherwise it is issued in the order of the banks, once those owed before it have been and tRREFD
has passed (R84). -/
def execRefpbDue (ch : Fin 192) (bankReads : Bool) (s : State) : Host.Outcome State Fault Refusal :=
  .next (
    let c := chanSt s ch
    if !awake s || c.lost then s
    else if c.atom.isSome then setChan ch (oweOne c) s
    else
      let c := payDown s c
      let c := if c.bankReads then { c with refNext := max c.refNext (now s) } else c
      setChan ch (payDown s { oweOne c with bankReads := bankReads }) s)

/-- DEVICE_TEMP_READ (R86): a device above 85 °C halves tREFI of its four channels until 82 °C or less, at once or when the atom ends. -/
def execDeviceTempRead (dev : Fin 48) (celsius : Int) (s : State) : Host.Outcome State Fault Refusal :=
  .next (if !awake s then s
    else (List.range 4).foldl (fun s i =>
      let ch := dev.val * 4 + i
      let c := chanSt s ch
      let cur := c.halfDue.getD c.half
      let want := if 85 < celsius then true else if celsius ≤ 82 then false else cur
      if want = cur then s
      else if c.atom.isSome then setChan ch { c with halfDue := if want = c.half then none else some want } s
      else setHalved ch want s) s)

/-- LINK_CRC_FAIL (R83): a transfer fails for the first time, or, when `again` says so, the repeat of the transfer that failed last; it is repeated. The
fourth failure of one transfer retrains the channel, and an atom that runs is abandoned. -/
def execLinkCrcFail (x : CrcFail) (s : State) : Host.Outcome State Fault Refusal :=
  .next (
    let c := chanSt s x.ch
    let r := x.ch.val / 12
    let n := if x.again then c.crc + 1 else 1
    if !awake s || c.lost || c.retraining then s
    else if n < 4 then
      raiseCount (leafLinkCrcRetry r) (rgnCntOff r 8) [(16, 1, x.ch.val % 12)] (setChan x.ch { c with crc := n } s)
    else
      raiseCount (leafLinkRetrain r) (rgnCntOff r 9) [(16, 1, x.ch.val % 12)]
        (abandonAtom x.ch true (setChan x.ch { c with crc := 0, retraining := true } s)))

/-- CHANNEL_RETRAIN_DONE (R83): a second failure in succession loses the channel, and the region is fenced. -/
def execChannelRetrainDone (ch : Fin 192) (ok : Bool) (s : State) : Host.Outcome State Fault Refusal :=
  .next (
    let c := chanSt s ch
    let r := ch.val / 12
    if !awake s || !c.retraining then s
    else if ok then setChan ch { c with retraining := false, retrainFails := 0 } s
    else if c.retrainFails + 1 < 2 then
      raiseCount (leafLinkRetrain r) (rgnCntOff r 9) [(16, 1, ch.val % 12)] (setChan ch { c with retrainFails := c.retrainFails + 1 } s)
    else
      let s := setChan ch { c with retraining := false, retrainFails := 0, lost := true } s
      let s := raise (leafG7ChannelLost r) [(16, 1, ch.val % 12)] s
      fenceRegion r (logSeq s (ringRegion r)) s)

/-- SCRUB_PASS (R102): once every 8 hours SCRUB is issued to each unit of the region. -/
def execScrubPass (r : Fin 16) (s : State) : Host.Outcome State Fault Refusal :=
  .next (if !awake s || rgnFenced s r || decide (now s < tget 0 s.work.scrubDue r) then s
    else
      let s := { s with work := { s.work with scrubDue := tput s.work.scrubDue r (now s + 28800000000000) } }
      (List.range 12).foldl (fun s i =>
        issueUnit (r.val * 12 + i) { op := 6, tag := s.work.next, job := .scrub } s) s)

/-- UNIT_MODE_COMPUTE (R96): MODE is set to 1 and the units take their scratch. -/
def execUnitModeCompute (r : Fin 16) (s : State) : Host.Outcome State Fault Refusal :=
  .next (if !awake s then s else setMode r true s)

/-- UNIT_MODE_NORMAL (R96): MODE is set to 0; MODE_ACK is cleared and the scratch returned once the commands already queued are finished. -/
def execUnitModeNormal (r : Fin 16) (s : State) : Host.Outcome State Fault Refusal :=
  .next (if !awake s then s else setMode r false s)

end Sys2Proof.Machine
end

