-- ==== Sys2Proof/Machine/Appends.lean ====
section
/-! DEFINITION. Appends, commits, rollbacks and shifts (chapter 09): admission, application, forwarding to the partner and answers. -/

namespace Sys2Proof.Machine

/-! ## What admission waits for (R204) -/

/-- An operation of the sequence is between its admission and its step: later ones wait. -/
def slotBlocked (s : State) (slot : Nat) : Bool :=
  tany s.work.ctlOps fun _ o => o.slot == slot && o.started && o.op != 2 && !o.compacting

/-- A waiting append's action is still under way. -/
def waitAlive (s : State) (w : AppWait) : Bool :=
  match startedAct s w.inst 2 with
  | some (_, k, _) => k == w.act
  | none => false

/-- An append of the sequence that arrived before place `order` still waits (R204). -/
def appendAhead (s : State) (slot order : Nat) : Bool :=
  s.work.waits.any fun w => w.slot == slot && decide (w.order < order) && waitAlive s w

/-- A commit, rollback or shift of the sequence that arrived before place `order` still waits (R204). -/
def ctlAhead (s : State) (slot order : Nat) : Bool := tany s.work.ctlOps fun k o => o.slot == slot && !o.started && decide (k < order)

/-- The place of an append in the order of arrival: that of its wait, or behind everything that has arrived. -/
def appendOrder (s : State) (inst k : Nat) : Nat :=
  match s.work.waits.find? fun w => w.inst == inst && w.act == k with
  | some w => w.order
  | none => s.work.next

/-- An append must wait: an operation that arrived before it is not yet admitted, or is between its admission and its step (R204). -/
def appendMustWait (s : State) (slot order : Nat) : Bool := slotBlocked s slot || ctlAhead s slot order || appendAhead s slot order

/-- An append takes its place in the order of arrival. -/
def joinWaits (inst k slot : Nat) (s : State) : State :=
  if s.work.waits.any fun w => w.inst == inst && w.act == k then s
  else { s with work := { s.work with
    waits := (s.work.waits.filter (waitAlive s)) ++ [{ inst := inst, act := k, slot := slot, order := s.work.next }], next := s.work.next + 1 } }

/-- An append has its turn. -/
def leaveWaits (inst k : Nat) (s : State) : State :=
  { s with work := { s.work with waits := s.work.waits.filter fun w => !(w.inst == inst && w.act == k) } }

/-- Appends of the sequence between admission and their step. -/
def appendsOn (s : State) (slot : Nat) : Bool := tany s.work.appends fun _ a => a.slot == slot

/-- The tenant's key slot is in service (08 Table 8.3, check 2). -/
def keySlotUp (s : State) (tenant : Nat) : Bool :=
  match slotOfTenant s tenant with
  | some (_, k) => k.st == .active && (match k.retireAt with | some t => decide (now s < t) | none => true)
  | none => false

/-! ## Append messages (R202, R203) -/

/-- FIRST_POS, N, LAYER0, layer count and POS_EXPLICIT of an append header (Table 9.2). -/
abbrev hFirst (b : Bytes) : Nat := bits (rd b 0 4) 24 0
abbrev hN (b : Bytes) : Nat := bits (rd b 4 1) 5 0 + 1
abbrev hLayer0 (b : Bytes) : Nat := rd b 5 1
abbrev hLayers (b : Bytes) : Nat := rd b 6 1 + 1
abbrev hExplicit (b : Bytes) : Bool := bitAt (rd b 7 1) 0

/-- The data kinds of a sequence. -/
def dataKinds (d : Bytes) : List Nat := if dLatent d then [0] else [0, 1]

/-- Bytes of the position array. -/
def posBytes (b : Bytes) : Nat := if hExplicit b then alignUp 64 (4 * hN b) else 0

/-- Bytes of one data block. -/
def blockBytes (d : Bytes) (n k : Nat) : Nat := alignUp 64 (n * dKvHeads d * dDim d k * 2)

/-- Bytes of one layer's blocks. -/
def layerBytes (d : Bytes) (n : Nat) : Nat := (dataKinds d).foldl (fun a k => a + blockBytes d n k) 0

/-- The length R203 gives an append message. -/
def appendLen (d b : Bytes) : Nat := 64 + posBytes b + hLayers b * layerBytes d (hN b)

/-- k_pos of token `i` of the message. -/
def appendPos (b : Bytes) (i : Nat) : Nat := if hExplicit b then rd b (64 + 4 * i) 4 else hFirst b + i

/-- Row 1 of Table 9.3 for a message of a sequence with descriptor `d` (none: not found); `p` are the action's parameters. -/
def appendMalformed (p : Bytes) (d : Option Bytes) (offset len : Nat) (b : Bytes) : Bool :=
  let base := rd p 12 6
  let stride := rd p 20 4
  decide (offset < base) || (offset - base) % stride != 0 || decide (bits (rd p 18 1) 5 0 < (offset - base) / stride) ||
  decide (stride < len) || decide (len < 64) ||
  bits (rd b 0 4) 31 25 != 0 || bits (rd b 4 1) 7 6 != 0 || bits (rd b 7 1) 7 1 != 0 || !zeroAt b 8 56 ||
  (hExplicit b && (List.range (hN b)).any fun i => decide (2 ^ 24 ≤ appendPos b i)) ||
  (match d with
   | none => false
   | some d => len != appendLen d b || decide (dLayers d < hLayer0 b + hLayers b) || decide (dMaxTokens d < hFirst b + hN b))

/-- The layers a message names. -/
def namedLayers (b : Bytes) : List Nat := (List.range (hLayers b)).map (hLayer0 b + ·)

/-- The tensors an append writes: its data kinds, and the scale kind of each streamed YQ kind. -/
def appendTens (d : Bytes) (l : Nat) : List Nat :=
  (dataKinds d).flatMap fun k => (l * 4 + k) :: (scaleTen d (l * 4 + k)).toList

/-- The pages that tokens [a, b) of a tensor lie in, in every head group. -/
def spanPages (d : Bytes) (a b : Nat) : List Nat :=
  if a < b then
    (List.range (dGroups d)).flatMap fun g =>
      (List.range ((b - 1) / dTokens d - a / dTokens d + 1)).map fun i => pageIdx d g (a / dTokens d + i)
  else []

/-- FILL of a layer. -/
def fillOf (q : Seq) (l : Nat) : Nat := tget 0 q.app.fill l

/-- The staged rows of one page, in token then head order (04 Table 4.8), for message tokens `is`. -/
def stagedRows (d b : Bytes) (l k g : Nat) (is : List Nat) : Bytes :=
  let off := 64 + posBytes b + (l - hLayer0 b) * layerBytes d (hN b) +
    (((dataKinds d).filter (fun j => decide (j < k))).foldl (fun a j => a + blockBytes d (hN b) j) 0)
  let row := dDim d k * 2
  is.flatMap fun i => slice b (off + (i * dKvHeads d + g * dHeadsPerPage d) * row) (dHeadsPerPage d * row)

/-- Issue the APPEND_TAIL commands of an append (R207 step 3). -/
def issueAppend (id : Nat) (s : State) : State :=
  match tlook s.work.appends id with
  | none => s
  | some a =>
    let q := seqOf s a.slot
    let d := q.desc
    let t := dTokens d
    let img := (progOf s a.program).image
    let cmds := (List.range a.nLayers).flatMap fun dl => (dataKinds d).flatMap fun k =>
      (spanPages d a.first (a.first + a.n)).map fun idx => (a.layer0 + dl, k, idx)
    let s := cmds.foldl (fun s e =>
      let (l, k, idx) := e
      let ti := l * 4 + k
      let p := idx % dPages d
      let is := (List.range a.n).filter fun i => (a.first + i) / t == p
      let name := (frameOf s a.slot ti idx).getD 0
      let rot := signed 32 q.app.rotOffset
      let c := { mkCmd s 1 a.slot ti idx name name a.program (.append id) with
        norm := k == 0 && pNorm img
        rotary := k == 0 && pRot img
        pos := a.first + is.headD 0
        staged := stagedRows d a.data l k (idx / dPages d) is
        accepted := is.map fun i => (a.first + i) % t
        poss := is.map fun i => unsigned 64 (((a.poss[i]?).getD 0 : Nat) + rot)
        pair := (scaleTen d ti).bind fun sc => (frameOf s a.slot sc idx).map fun f => (f, f) }
      issueUnit (chanOf s name) c s) s
    { s with work := { s.work with appends := tput s.work.appends id { a with left := cmds.length, issued := true, held := false } } }

/-- A confirmed request of the sequence reads below an E above `first` (08 R182). -/
def readersAbove (s : State) (slot first : Nat) : Bool :=
  tany s.req fun _ r => r.slot == slot && r.st == .confirmed && (match r.tuple with | some t => decide (first < t.e) | none => false)

/-- Rows 5 to 13 of Table 9.3 for a sequence that exists, and acceptance (R206, R207). A shortage of frames is raised in the home region of
LAYER0's first page (log 59). -/
def appendAdmit (x : Inst) (inst k : Nat) (p b : Bytes) (slot : Nat) (s : State) : State :=
  let q := seqOf s slot
  let d := q.desc
  let partner := bitAt (rd p 9 1) 0
  let prog := rd p 8 1
  let first := hFirst b
  let n := hN b
  let layers := namedLayers b
  if !(q.st == .active || (q.st == .loading && partner)) then actEnd inst k stStateConflict (refuseSeq slot x.tenant 2 s (whoOf x.msg))
  else if layers.any fun l => (appendTens d l).any fun ti => (tenOf q ti).st == .absent then actEnd inst k stNoPage s
  else
    match progCheck x.tenant prog (rd p 10 2) 2 s (whoOf x.msg) with
    | (some st, s) => actEnd inst k st s
    | (none, s) =>
      if shapeBad (progOf s prog).image d then actEnd inst k stMalformed s
      else if q.app.commitPending then actEnd inst k stRetry s
      else if layers.all fun l => decide (first + n ≤ q.committed + fillOf q l) then
        actDone inst k stOk true false 0 (countTenant x.tenant 0x34 s)
      else if q.app.takeover && first != q.committed then actEnd inst k stUnknownRequest s
      else if (layers.any fun l => first != q.committed + fillOf q l) || decide (q.committed + 64 < first + n) then
        actEnd inst k stStateConflict (refuseSeq slot x.tenant 2 s (whoOf x.msg))
      else if bf16Bad (b.drop (64 + posBytes b)) then actEnd inst k stMalformed s
      else
        let pages := layers.flatMap fun l => (appendTens d l).flatMap fun ti => (spanPages d first (first + n)).map fun idx => (ti, idx)
        match givePages slot pages s with
        | none => actEnd inst k stRetry (frameExhausted (homeRegion slot (hLayer0 b) 0 (first / dTokens d)) s)
        | some s =>
          let id := s.work.next
          let held := readersAbove s slot first
          let a : Append :=
            { inst := inst, slot := slot, first := first, n := n, layer0 := hLayer0 b, nLayers := hLayers b, program := prog
              poss := (List.range n).map (appendPos b), data := b, held := held
              rgns := (pages.flatMap fun e => [homeOf d slot e.1 e.2, (frameOf s slot e.1 e.2).getD 0 / 2 ^ 40]).dedup }
          let s := { s with work := { s.work with next := id + 1, appends := tput s.work.appends id a } }
          let s := actBusy inst k (startProgUse prog (enterSeq slot s))
          if held then count (rgnCntOff (dirRegion slot) 13) s else issueAppend id s

/-- The appended message's bytes: the node reads the slot once (R203). -/
def enabledBytes (s : State) (m : EnMsg) : Bytes := winRead s m.window m.offset m.len

/-- What the epoch check needs of an instance's message. -/
def routedOf (x : Inst) (m : EnMsg) : Routed := { entry := x.entry, arg := x.arg, msg := m }

/-- Table 9.3 in order for an append that has its turn: `tag` and `slot` name its sequence. -/
def appendDo (inst : Nat) (x : Inst) (k : Nat) (p : Bytes) (m : EnMsg) (slot : Option Nat) (s : State) : State :=
  let tag := rd p 0 8
  let b := enabledBytes s m
  let d := slot.map fun q => (seqOf s q).desc
  let s := doneReading inst s
  if appendMalformed p d m.offset m.len b then actEnd inst k stMalformed s
  else if !keySlotUp s x.tenant then actEnd inst k stTenantRevoked s
  else
    match epochCheck x.tenant tag (hFirst b) (hFirst b + hN b) ((d.map dMaxTokens).getD (placedEnd s x.tenant tag)) (routedOf x m) s with
    | (some st, s) => actEnd inst k st s
    | (none, s) =>
      let partner := bitAt (rd p 9 1) 0
      let prim := primaryAt s x.tenant tag (hFirst b)
      if !partner && prim.isSome && prim != some (myNode s) then
        (match placing s x.tenant tag with
         | (c, dm) :: _ => actEnd inst k stRedirect
             (redirect c dm x.tenant tag (hFirst b) (hFirst b + hN b) (routedOf x m) s)
         | [] => s)
      else if partner && (prim.isNone || nodeOfEndpoint s m.src != prim) then actEnd inst k stAccess s
      else match slot with
        | none => actEnd inst k stNoPage s
        | some slot => appendAdmit x inst k p b slot s

/-- APPEND_HELD_RELEASE (08 R182): the requests that read above the append's first position have completed. -/
def execAppendHeldRelease (app : Nat) (s : State) : Host.Outcome State Fault Refusal :=
  .next (match tlook s.work.appends app with
    | none => s
    | some a => if a.held && !readersAbove s a.slot a.first then issueAppend app s else s)

/-! ## Commit control messages (R209) -/

/-- Body fields of Table 9.5. -/
abbrev cOp (b : Bytes) : Nat := bits (rd b 0 1) 1 0
abbrev cTenant (b : Bytes) : Nat := bits (rd b 2 2) 11 0
abbrev cBaseC (b : Bytes) : Nat := bits (rd b 4 4) 24 0
abbrev cTag (b : Bytes) : Nat := rd b 8 8
abbrev cMask (b : Bytes) : Nat := rd b 16 8
abbrev cFrom (b : Bytes) : Nat := bits (rd b 16 4) 24 0
abbrev cDelta (b : Bytes) : Nat := rd b 20 4
abbrev cAccepted (b : Bytes) : Nat := bits (rd b 24 1) 6 0
abbrev cBaseRot (b : Bytes) : Nat := rd b 24 4
abbrev cReqId (b : Bytes) : Nat := rd b 28 4

/-- A body that breaks Table 9.5. -/
def ctlMalformed (b : Bytes) : Bool :=
  b.length != 32 || cOp b == 3 || bits (rd b 0 1) 7 2 != 0 || !zeroAt b 1 1 || bits (rd b 2 2) 15 12 != 0 || bits (rd b 4 4) 31 25 != 0 ||
  (cOp b == 2 && (bits (rd b 16 4) 31 25 != 0 || cDelta b == 0)) ||
  (cOp b != 2 && (!zeroAt b 25 3 || bits (rd b 24 1) 7 7 != 0 || decide (64 < cAccepted b))) ||
  (cOp b == 1 && cMask b != 0)

/-- Answer a commit control message (Table 9.6). -/
def ctlAnswer (o : CtlOp) (status : Nat) (rep single compacted : Bool) (s : State) : State :=
  let q := seqOf s o.slot
  let r := leBytes 1 status ++ leBytes 1 (bitOf rep 0 + bitOf single 1 + bitOf compacted 2) ++ [0, 0] ++ leBytes 4 q.committed ++
    leBytes 4 q.app.rotOffset ++ leBytes 4 (cReqId o.body)
  sendOnce o.port 0xA3 o.src (cTenant o.body) o.msgId 0 (some o.addr) (tenantQueue s (cTenant o.body)) r (saveResp o.src o.msgId 0xA3 r s)

/-- The number of set bits. -/
def popcount (v : Nat) : Nat := (List.range 64).countP fun i => bitAt v i

/-- The accepted tail indices, ascending. -/
def acceptedList (b : Bytes) : List Nat := (List.range 64).filter fun i => bitAt (cMask b) i

/-- The checks of R210 on a commit: the answer with REPEAT, or none when it is accepted. -/
def commitCheck (q : Seq) (b : Bytes) : Option (Nat × Bool) :=
  let a := cAccepted b
  let base := cBaseC b
  if popcount (cMask b) ≠ a then some (stMalformed, false)
  else if a ≠ 0 ∧ q.committed = base + a ∧ q.tail = 0 then some (stOk, true)
  else if a = 0 ∧ q.committed = base ∧ q.tail = 0 then some (stOk, false)
  else if q.committed ≠ base then some (stStateConflict, false)
  else if q.app.commitPending then some (stRetry, false)
  else if q.app.takeover = true ∧ a ≠ 0 then some (stUnknownRequest, false)
  else if (acceptedList b).any (fun i => decide (q.tail ≤ i) || (List.range (dLayers q.desc)).any fun l => decide (fillOf q l ≤ i)) then
    some (stStateConflict, false)
  else none

/-- The checks of R215 on a rollback. -/
def rollbackCheck (q : Seq) (b : Bytes) : Option (Nat × Bool) :=
  if q.committed ≠ cBaseC b then some (stStateConflict, false)
  else if q.app.commitPending then some (stRetry, false)
  else if q.tail ≤ cAccepted b then some (stOk, true)
  else none

/-- The key and latent tensors of a sequence that are registered. -/
def keyTens (q : Seq) : List Nat := (tensOf q).filter fun ti => ti % 4 == 0

/-- The FAST tensors of a list are REWRITING while channel units re-encode or compact them (03 R78). A tensor that is DEEP, MIGRATING or already REWRITING
keeps its state (log 91). -/
def beginRewriting (slot : Nat) (l : List Nat) (s : State) : State :=
  l.foldl (fun s ti => let t := tenOf (seqOf s slot) ti; if t.st = .fast then setTen slot ti { t with st := .rewriting } s else s) s

/-- They are FAST again; one that a REWRITE holds stays. -/
def endRewriting (slot : Nat) (l : List Nat) (s : State) : State :=
  l.foldl (fun s ti =>
    let t := tenOf (seqOf s slot) ti
    if t.st = .rewriting ∧ (tlook s.work.rewrites (tenKey slot ti)).isNone = true then setTen slot ti { t with st := .fast } s else s) s

/-- The checks of R217 on a shift; one that meets a commit with compaction is refused with ST_RETRY (R212 step 1). -/
def shiftCheck (q : Seq) (b : Bytes) : Option (Nat × Bool) :=
  if q.app.rotOffset = (cBaseRot b + cDelta b) % 2 ^ 32 ∧ q.st = .active then some (stOk, true)
  else if q.app.rotOffset ≠ cBaseRot b ∨ q.committed ≠ cBaseC b then some (stStateConflict, false)
  else if cFrom b % dTokens q.desc ≠ 0 ∨ q.committed < cFrom b then some (stMalformed, false)
  else if q.app.commitPending = true then some (stRetry, false)
  else if q.st ≠ .active ∨ q.tail ≠ 0 then some (stStateConflict, false)
  else if (keyTens q).any fun ti => (tenOf q ti).st != .fast then some (stStateConflict, false)
  else none

/-- The partner to which this node forwards operations on a sequence (R213): none for a copy that acts alone or is the partner, and none while
the sequence is under load (16 R359). -/
def forwardTo (s : State) (o : CtlOp) : Option Nat :=
  let q := seqOf s o.slot
  if o.partner || degradedAt s q.tenant q.tag q.committed || underLoad s o.slot then none
  else partnerAt s q.tenant q.tag q.committed

/-- This copy answers for the sequence alone (R213): an answer ST_OK carries SINGLE_COPY 1, also where the operation had already taken effect. -/
def actsAlone (s : State) (o : CtlOp) : Bool := !o.partner && (forwardTo s o).isNone

/-- Send the operation to the partner (R213). -/
def forwardCtl (k : Nat) (s : State) : State :=
  match tlook s.work.ctlOps k with
  | none => s
  | some o =>
    match forwardTo s o with
    | none => s
    | some n =>
      let m : OutMsg :=
        { op := 0x23, dst := (endpointOfNode s n).getD 0, tenant := cTenant o.body, epoch := o.epoch, data := o.body
          part := tenantQueue s (cTenant o.body), purpose := .ctlForward o.slot }
      match sendMsg (dirRegion o.slot % 4) m s with
      | (.sent id, s) => { s with work := { s.work with ctlOps := tput s.work.ctlOps k { o with fwd := .waiting, fwdMsg := id } } }
      | (.refused st, s) => { s with work := { s.work with ctlOps := tput s.work.ctlOps k { o with fwd := .refused st } } }

/-- Held confirmations of the sequence go on (R212). -/
def releaseHeld (slot : Nat) (s : State) : State :=
  { s with req := tmap s.req fun _ r => if r.slot = slot ∧ r.st = .held then { r with st := .checked } else r }

/-- The operation took effect on one copy only (R213, R214). -/
def ctlSingle (o : CtlOp) : Bool :=
  !o.partner && (match o.fwd with | .okay => false | .waiting => false | _ => true)

/-- Remove an operation that has been answered. -/
def ctlGone (k : Nat) (o : CtlOp) (s : State) : State :=
  leaveSeq o.slot { s with work := { s.work with ctlOps := tdel s.work.ctlOps k } }

/-- The step of a commit (R211, R212 step 5): the watermark rises and the tail is cleared; it is relayed and answered. -/
def commitStep (k : Nat) (o : CtlOp) (s : State) : State :=
  let q := seqOf s o.slot
  let old := q.committed
  let s := setSeq o.slot
    { q with committed := old + cAccepted o.body, tail := 0, app := { q.app with fill := [], commitPending := false } } s
  let s := if o.compacting then endRewriting o.slot (tensOf q) s else s
  let s := if o.compacting then relayPages o.slot old (old + cAccepted o.body) (releaseHeld o.slot s) else s
  let s := relayState o.slot s
  let s := if o.fwd = .single then countTenant q.tenant 0x28 s else s
  ctlAnswer o stOk false (ctlSingle o) o.compacting (ctlGone k o s)

/-- A commit with compaction that cannot go on: nothing has changed (R212 step 3). -/
def commitAbort (k : Nat) (o : CtlOp) (status : Nat) (s : State) : State :=
  let q := seqOf s o.slot
  let s := dropReserved (o.reserved.map (·.2.2)) s
  let s := if o.compacting then
      releaseHeld o.slot (endRewriting o.slot (tensOf q) (setSeq o.slot { q with app := { q.app with commitPending := false } } s)) else s
  ctlAnswer o status false false false (ctlGone k o s)

/-- The step of a rollback (R215). -/
def rollbackStep (o : CtlOp) (s : State) : State :=
  let q := seqOf s o.slot
  let keep := cAccepted o.body
  let fill := (q.app.fill.map fun e => (e.1, min e.2 keep)).filter fun e => e.2 != 0
  relayState o.slot (setSeq o.slot { q with tail := fill.foldl (fun m e => max m e.2) 0, app := { q.app with fill := fill } } s)

/-- The pages a shift re-encodes: of each key or latent tensor, from FROM / T to the page that holds C - 1 (R217). -/
def shiftPages (q : Seq) (b : Bytes) : List (Nat × Nat) :=
  (keyTens q).flatMap fun ti => (spanPages q.desc (cFrom b) q.committed).map fun idx => (ti, idx)

/-- Reserve a frame in the channel of `home` for page (ti, idx). -/
def reserveFor (slot home ti idx : Nat) (acc : List (Nat × Nat × Nat)) (s : State) : Option (List (Nat × Nat × Nat) × State) :=
  (reserveFrame slot home s).map fun (a, s) => (acc ++ [(ti, idx, a)], s)

/-- Reserve the frame that a delta page decodes into (10 R222). -/
def reserveDecode (slot ti idx e : Nat) (acc : List (Nat × Nat × Nat)) (s : State) : Option (List (Nat × Nat × Nat) × State) :=
  (decodeHome s slot ti idx e).bind fun h => reserveFor slot h.1 ti idx acc s

/-- Reserve what one page of a shift needs: for a delta page, its own or its scale page, the frame that it decodes into (10 R222), the frame of its new
form, and that of its scale page's. -/
def reserveShiftPage (slot ti idx e : Nat) (acc : List (Nat × Nat × Nat)) (s : State) : Option (List (Nat × Nat × Nat) × State) :=
  let home := if leafDelta e then (decodeHome s slot ti idx e).map (·.1) else some (leafFrame e)
  home.bind fun home =>
    (if leafDelta e then reserveDecode slot ti idx e acc s else some (acc, s)).bind fun (acc, s) =>
    (reserveFor slot home ti idx acc s).bind fun (acc, s) =>
    match scaleTen (seqOf s slot).desc ti with
    | none => some (acc, s)
    | some sc =>
      (match deltaScale s slot ti idx with
        | some (_, se) => reserveDecode slot sc idx se acc s
        | none => some (acc, s)).bind fun (acc, s) => reserveFor slot home sc idx acc s

/-- Reserve every frame that the pages of a shift need (R217). -/
def reserveShift (slot : Nat) : List (Nat × Nat) → List (Nat × Nat × Nat) → State → Option (List (Nat × Nat × Nat) × State)
  | [], acc, s => some (acc, s)
  | (ti, idx) :: rest, acc, s =>
    match leafOf s slot ti idx with
    | .invalid => reserveShift slot rest acc s
    | .leaf e => match reserveShiftPage slot ti idx e acc s with
      | none => none
      | some (acc, s) => reserveShift slot rest acc s

/-- Start the pages of a shift (R217). -/
def startShift (o : CtlOp) (program : Nat) (s : State) : State :=
  (shiftPages (seqOf s o.slot) o.body).foldl (fun s e => shiftPage o.slot e.1 e.2 program (cDelta o.body) s) s

/-- Copy the striped key pages of a shift, and the scale pages rewritten with them, back to channel-local frames (03 R67). -/
def unstripeAll (slot : Nat) : List (Nat × Nat) → State → CopyBack × State
  | [], s => (.done, s)
  | (ti, idx) :: rest, s => match unstripePair slot ti idx s with
    | (.done, s) => unstripeAll slot rest s
    | x => x

/-- Accept a shift (R217): every new frame is reserved, or it is answered ST_RETRY with FRAME_EXHAUSTED. The program whose position table
REENCODE uses is a free value: Table 9.5 names none (log 35). -/
def shiftAccept (k : Nat) (o : CtlOp) (s0 : State) : State :=
  let q := seqOf s0 o.slot
  let pages := shiftPages q o.body
  let gone := fun (s : State) => { s with work := { s.work with ctlOps := tdel s.work.ctlOps k } }
  let fail := ctlAnswer o stRetry false false false (frameExhausted (dirRegion o.slot) (gone s0))
  match unstripeAll o.slot pages s0 with
  | (.noFrame, _) => fail
  | (.bad a, s) => lineLost a (ctlAnswer o stInternal false false false (gone s))
  | (.done, s) =>
    match reserveShift o.slot pages [] s with
    | none => fail
    | some (res, s) =>
      let s := enterSeq o.slot s
      let s := beginRewriting o.slot (keyTens q) (setSeq o.slot { seqOf s o.slot with st := .shifting } s)
      let o := { o with started := true, left := pages.length, reserved := res }
      let s := forwardCtl k { s with work := { s.work with ctlOps := tput s.work.ctlOps k o } }
      let (n, s) := takeFree s
      startShift o (Config.freeBits 8 n).toNat s

/-- Admit an operation (R204, R209-R217): rows 5 and later of Table 9.3 and the operation's own checks. -/
def ctlAdmit (k : Nat) (o : CtlOp) (s : State) : State :=
  let q := seqOf s o.slot
  let b := o.body
  let gone := { s with work := { s.work with ctlOps := tdel s.work.ctlOps k } }
  let refuse := fun (st : Nat) (rep : Bool) =>
    ctlAnswer o st rep (st == stOk && actsAlone s o) false (if st = stStateConflict then refuseSeq o.slot (cTenant b) 0x23 gone (some (o.src, o.msgId)) else gone)
  let start := fun (o : CtlOp) =>
    forwardCtl k (enterSeq o.slot { s with work := { s.work with ctlOps := tput s.work.ctlOps k { o with started := true } } })
  let open_ := q.st == .active || (q.st == .loading && o.partner)
  match o.op with
  | 0 =>
    if !open_ then refuse stStateConflict false
    else match commitCheck q b with
      | some (st, rep) => refuse st rep
      | none =>
        if cMask b = 2 ^ cAccepted b - 1 then
          let s := start o
          (match tlook s.work.ctlOps k with
           | some o => if o.fwd = .notNeeded then commitStep k o s else s
           | none => s)
        else
          let s := start { o with compacting := true, before := s.nextReq }
          setSeq o.slot { seqOf s o.slot with app := { (seqOf s o.slot).app with commitPending := true } } s
  | 1 =>
    if !open_ then refuse stStateConflict false
    else match rollbackCheck q b with
      | some (st, rep) => refuse st rep
      | none =>
        let s := rollbackStep o (start { o with localDone := true })
        (match tlook s.work.ctlOps k with
         | some o => if o.fwd = .notNeeded then ctlAnswer o stOk false (ctlSingle o) false (ctlGone k o s) else s
         | none => s)
  | _ =>
    if underLoad s o.slot then ctlAnswer o stRetry false false false (countTenant (cTenant b) 0x30 gone)
    else match shiftCheck q b with
      | some (st, rep) => refuse st rep
      | none => shiftAccept k o s

/-- Admit the operations that waited for a sequence, in order of arrival, until one holds the sequence. -/
def admitNext (slot : Nat) (s : State) : State :=
  ((s.work.ctlOps.filter fun e => e.2.slot == slot && !e.2.started).map (·.1)).foldl (fun s k =>
    match tlook s.work.ctlOps k with
    | some o => if slotBlocked s slot || appendsOn s slot || appendAhead s slot k then s else ctlAdmit k o s
    | none => s) s

/-- APPEND (R206): it is admitted in its turn (R204), or waits; what waited behind it goes on. -/
def execAppend (inst : Nat) (s : State) : Host.Outcome State Fault Refusal :=
  .next (match startedAct s inst 2 with
    | none => s
    | some (x, k, p) =>
      match x.msg with
      | none => s
      | some m =>
        match lookSeq x.tenant (rd p 0 8) s with
        | (none, s) => appendDo inst x k p m none (leaveWaits inst k s)
        | (some slot, s) =>
          if appendMustWait s slot (appendOrder s inst k) then joinWaits inst k slot s
          else admitNext slot (appendDo inst x k p m (some slot) (leaveWaits inst k s)))

/-- A commit control message has passed rows 2 to 4 of Table 9.3: it is admitted, or waits its turn (R204). -/
def ctlEnqueue (o : CtlOp) (s : State) : State :=
  let k := s.work.next
  admitNext o.slot { s with work := { s.work with next := k + 1, ctlOps := tput s.work.ctlOps k o } }

/-- A commit control message with body `b` from `msg` by die `die` (R209). -/
def ctlArrive (b : Bytes) (die : Nat) (m : EnMsg) (s : State) : State :=
  let o : CtlOp := { op := cOp b, slot := 0x40000, body := b, src := m.src, msgId := m.id, port := die, addr := m.addr, epoch := m.epoch }
  let answer := fun (st : Nat) (s : State) => ctlAnswer o st false false false s
  if ctlMalformed b then answer stMalformed s
  else if !keySlotUp s (cTenant b) then answer stTenantRevoked s
  else
    let (slot, s) := lookSeq (cTenant b) (cTag b) s
    let q := seqOf s (slot.getD 0x40000)
    let c := if slot.isSome then q.committed else cBaseC b
    let top := if slot.isSome then dMaxTokens q.desc else placedEnd s (cTenant b) (cTag b)
    match epochCheck (cTenant b) (cTag b) c (c + 1) top { entry := 0x7FFF, arg := 0, msg := m } s with
    | (some st, s) => answer st s
    | (none, s) =>
      let prim := primaryAt s (cTenant b) (cTag b) c
      let partner := prim.isSome && nodeOfEndpoint s m.src == prim
      if prim.isSome && !partner && prim != some (myNode s) then
        (match placing s (cTenant b) (cTag b) with
         | (comp, d) :: _ => answer stRedirect
             (redirect comp d (cTenant b) (cTag b) c (c + 1) { entry := 0x7FFF, arg := 0, msg := m } s)
         | [] => answer stRedirect s)
      else match slot with
        | none => answer stNoPage s
        | some slot => ctlEnqueue { o with slot := slot, partner := partner && prim != some (myNode s) } s

/-! ## The steps that finish an operation -/

/-- APPEND_FILL_STEP (R207 step 4): every command has completed; FILL and TAIL are recomputed and TAKEOVER cleared in one step; with a
failure nothing advances. -/
def execAppendFillStep (app : Nat) (s : State) : Host.Outcome State Fault Refusal :=
  .next (match tlook s.work.appends app with
    | none => s
    | some a =>
      if !a.issued || a.left != 0 then s
      else
        let s := { s with work := { s.work with appends := tdel s.work.appends app } }
        let q := seqOf s a.slot
        let s := if a.failed ≠ 0 ∨ q.st = .free then s
          else
            let layers := (List.range a.nLayers).map (a.layer0 + ·)
            let fill := layers.foldl (fun f l => tset 0 f l (a.first + a.n - q.committed)) q.app.fill
            let s := setSeq a.slot { q with tail := fill.foldl (fun m e => max m e.2) 0, app := { q.app with fill := fill, takeover := false } } s
            let tens := layers.flatMap (appendTens q.desc)
            relayState a.slot (tens.foldl (fun s ti => relayTokens a.slot ti a.first (a.first + a.n) s) s)
        let s := endBusy a.inst 2 (if a.failed = 0 then stOk else stInternal) false false 0 (endProgUse a.program (leaveSeq a.slot s))
        admitNext a.slot s)

/-- The other pages that hold an accepted token which a compaction puts into page `idx`, as firmware stages them in stack SRAM for the page's unit, which
addresses only its own channel (04 R92; log 65): index, page and scale page. -/
def nearPages (s : State) (slot ti idx : Nat) (accepted : List Nat) : List (Nat × Bytes × Bytes) :=
  let q := seqOf s slot
  let t := dTokens q.desc
  let p := idx % dPages q.desc
  let from_ := accepted.zipIdx.filterMap fun e =>
    if (q.committed + e.2) / t = p ∧ (q.committed + e.1) / t ≠ p then some (idx - p + (q.committed + e.1) / t) else none
  from_.dedup.map fun i =>
    let pp := pairAt s q.tenant (dPageSize q.desc) ((frameOf s slot ti i).getD 0) ((scaleTen q.desc ti).bind fun sc => frameOf s slot sc i)
    (i, pp.page, pp.scales)

/-- The new frames of operation `o`'s compaction, and one COMPACT for each page that holds a tail position (R212 step 3); none where a frame cannot be
had. -/
def compactReserve (slot : Nat) (o : CtlOp) (s : State) : Option (List UnitCmd × State) :=
  let q := seqOf s slot
  let pages := (dataTens q).filter (fun ti => (scaleOf q.desc (ti % 4)).isNone) |>.flatMap fun ti =>
    (spanPages q.desc q.committed (q.committed + q.tail)).filterMap fun idx => (frameOf s slot ti idx).map fun f => (ti, idx, f)
  pages.foldl (fun (acc : Option (List UnitCmd × State)) e =>
    acc.bind fun (l, s) => (reservePair slot e.1 e.2.1 true s).map fun (new, pair, s) =>
      (l ++ [{ mkCmd s 4 slot e.1 e.2.1 e.2.2 new 0 (.compact slot) with
        pair := pair, accepted := acceptedList o.body, pos := q.committed, near := nearPages s slot e.1 e.2.1 (acceptedList o.body) }], s)) (some ([], s))

/-- A neighbouring page that a compaction takes tokens from is no fast-tier memory (04 R88). -/
def nearBeyond (s : State) (slot : Nat) (cmds : List UnitCmd) : Bool :=
  cmds.any fun c => c.near.any fun e => nodeBeyond s ((frameOf s slot (c.layer * 4 + c.kind) e.1).getD 0)

/-- COMPACTION_START (R212 steps 2, 3): once the requests confirmed above C have completed, the new frames are reserved and one COMPACT is
issued for each page that holds a tail position. -/
def execCompactionStart (slot : Fin 262144) (s : State) : Host.Outcome State Fault Refusal :=
  .next (match tfind s.work.ctlOps fun _ o => o.slot == slot.val && o.compacting && o.started && !o.localDone with
    | none => s
    | some (k, o) =>
      let q := seqOf s slot
      if tany s.req (fun n r => decide (n < o.before) && r.slot == slot.val &&
          (match r.tuple with | some t => decide (q.committed < t.e) | none => false)) then s
      else
        match compactReserve slot o s with
        | none => commitAbort k o stRetry (frameExhausted (dirRegion slot) s)
        | some (cmds, s') =>
          if nearBeyond s slot cmds then
            commitAbort k o stInternal (raise (leafWalkMalformed (dirRegion slot)) [(18, 1, stInternal), (20, 4, slot.val), (32, 2, q.tenant)] s)
          else
            let s := beginRewriting slot (dataTens q)
              { s' with work := { s'.work with ctlOps := tput s'.work.ctlOps k { o with localDone := true, left := cmds.length } } }
            cmds.foldl (fun s c => issueUnit (chanOf s c.name) c s) s)

/-- COMMIT_FINAL_STEP (R212 step 5, R213, R214): the partner has answered or is marked failed, and this copy's own part is done. A rollback
whose partner is marked failed is answered here too. -/
def execCommitFinalStep (slot : Fin 262144) (s : State) : Host.Outcome State Fault Refusal :=
  .next (match tfind s.work.ctlOps fun _ o => o.slot == slot.val && o.started && o.op != 2 && o.fwd != .waiting &&
      (o.op == 1 || !o.compacting || (o.localDone && o.left == 0)) with
    | none => s
    | some (k, o) =>
      let s := match o.fwd with
        | .refused st =>
          if o.op = 1 then ctlAnswer o st false false false (ctlGone k o s) else commitAbort k o st s
        | _ =>
          if o.op = 1 then ctlAnswer o stOk false (ctlSingle o) false (ctlGone k o s)
          else if o.failed then commitAbort k o stInternal s
          else commitStep k o s
      admitNext slot s)

/-- A shift whose own part is done and whose partner has answered, or is marked failed, is answered (R213, R214, R218). -/
def shiftAnswer (slot k : Nat) (o : CtlOp) (s : State) : State :=
  if o.failed then ctlAnswer o (if o.fwd = .okay then stOk else stInternal) false (o.fwd == .okay) false (ctlGone k o s)
  else admitNext slot (ctlAnswer o stOk false (ctlSingle o) false (ctlGone k o s))

/-- The step that ends a shift on this copy (R217, R218): ROT_OFFSET changes and the sequence is ACTIVE again, or a copy that failed is lost. A shift that
SEQ_RELEASE stopped has not failed (03 R78). -/
def shiftStep (slot : Nat) (o : CtlOp) (s : State) : State :=
  let q := seqOf s slot
  let s := endRewriting slot (tensOf q) (dropReserved (o.reserved.map (·.2.2)) s)
  if o.failed then seqLost slot s
  else if q.st = .shifting then
    setSeq slot { seqOf s slot with st := .active, app := { q.app with rotOffset := (q.app.rotOffset + cDelta o.body) % 2 ^ 32 } } s
  else s

/-- SHIFT_COMPLETE (R217, R218): all pages are done, and no unit works on them (03 R78): the shift ends on this copy in one step, and is answered once the
partner has answered. -/
def execShiftComplete (slot : Fin 262144) (s : State) : Host.Outcome State Fault Refusal :=
  .next (match tfind s.work.ctlOps fun _ o => o.slot == slot.val && o.started && o.op == 2 && (!o.localDone || o.fwd != .waiting) with
    | none => s
    | some (k, o) =>
      let q := seqOf s slot
      if o.localDone then shiftAnswer slot k o s
      else if (o.left != 0 && q.st == .shifting) || jobAtUnit s (.shift slot) then s
      else
        let o := { o with failed := o.failed || q.lost }
        let s := shiftStep slot o s
        let o := { o with localDone := true, reserved := [] }
        let s := { s with work := { s.work with ctlOps := tput s.work.ctlOps k o } }
        if o.fwd = .waiting then s else shiftAnswer slot k o s)

end Sys2Proof.Machine
end

