-- ==== Sys2Proof/Machine/Tiers.lean ====
section
/-! DEFINITION. The deep tier (05 R110-R130): migration, hints, the automatic policy, staging frames, expander errors and the tier ports; and
the firmware work on the fast tier that goes with it (03 R67, R75). -/

namespace Sys2Proof.Machine

/-! ## Migration -/

/-- Tensor index of a `TensorId`. -/
def tenIdx (t : TensorId) : Nat := t.layer.val * 4 + t.kind.val

/-- Page index of a `PageId` in its sequence, when the sequence has such a page. -/
def pageOf (s : State) (p : PageId) : Option (Nat × Nat × Nat) :=
  let slot := p.ten.slot.val
  let d := (seqOf s slot).desc
  if p.group.val < dGroups d ∧ p.page.val < dPages d then some (slot, tenIdx p.ten, pageIdx d p.group.val p.page.val) else none

/-- The pages of a tensor that hold a deep copy, with their leaves. -/
def backedPages (s : State) (slot ti : Nat) : List (Nat × Nat) :=
  (livePages s slot ti).filter fun p => (deepEnt (tenOf (seqOf s slot) ti) p.1).valid

/-- Reserve what a promotion of one page needs: the frame under its name, or units for a coded page (R120; 10 R229). The frame of a base
page that stayed held needs no reservation (10 R235), nor one that is the page's own again; the page's own frame that started reads still
hold is taken back, since the promotion writes the same bytes. What a promotion meets under a name that no live page holds but that is not free (a
window, table unit, scrub list or other reservation) is not given: the model blocks it (DESIGN CHOICE, log 57). -/
def reservePage (slot ti idx e : Nat) (s : State) : Option (Nat × State) :=
  let q := seqOf s slot
  let d := q.desc
  let name := leafFrame e
  if leafDelta e then
    match tlook s.sto.loc (locKey name), codedBase s (tenOf q ti) idx name with
    | some l, some b =>
      (freeUnits s (b.frame / 2 ^ 40) (chanOf s b.frame % 12) l.units (dLineCode d)).map fun a =>
        (a, useFast a (l.units * 4096) q.tenant (.reserved slot) (noteAliased a (l.units * 4096) s))
    | _, _ => none
  else
    match tlook s.sto.fast name with
    | some st => match st.use with
      | .baseHeld k => match tlook s.sto.baseRef k with
        | some b => if b.slot = slot ∧ b.ten = ti ∧ b.idx = idx then some (name, s) else none
        | none => none
      | .page sl t i => if sl = slot ∧ t = ti ∧ i = idx then some (name, s) else none
      | .old sl t i =>
        if sl = slot ∧ t = ti ∧ i = idx then
          some (name, reuseFast name (.reserved slot)
            { s with sto := { s.sto with old := s.sto.old.filter fun o => o.deep || o.key != name } })
        else none
      | _ => none
    | none => if spanFree s.sto.fast name (dPageSize d) then some (name, useFast name (dPageSize d) q.tenant (.reserved slot) s) else none

/-- Reserve the storage of a whole promotion (R120): none when a frame is held by a live page or no units are free. -/
def reservePromotion (slot ti : Nat) : List (Nat × Nat) → List (Nat × Nat) → State → Option (List (Nat × Nat) × State)
  | [], got, s => some (got, s)
  | (idx, e) :: rest, got, s =>
    match reservePage slot ti idx e s with
    | none => none
    | some (a, s) => reservePromotion slot ti rest (got ++ [(idx, a)]) s

/-- Begin to move a tensor (Table 3.8): the instance is busy until the migration ends. -/
def startMig (slot ti : Nat) (deep : Bool) (inst : Option Nat) (reserved : List (Nat × Nat)) (s : State) : State :=
  let s := enterSeq slot s
  let s := setTen slot ti { tenOf (seqOf s slot) ti with st := .migrating, toDeep := deep } s
  { s with work := { s.work with migs := tput s.work.migs (tenKey slot ti) ⟨inst, reserved⟩ } }

/-- MIGRATE (Tables 3.7, 3.8; R118, R120): the refusal or immediate end, or the migration started. -/
def migrateDo (tenant tag l k : Nat) (deep : Bool) (inst : Nat) (s : State) : Option Nat × State :=
  match lookSeq tenant tag s with
  | (none, s) => (some stNoPage, s)
  | (some slot, s) =>
    let q := seqOf s slot
    let ti := 4 * l + k
    let t := tenOf q ti
    let conflict := (some stStateConflict, refuseTen slot tenant ti 0xB s (instWho s inst))
    if q.st ≠ .active then (some stStateConflict, refuseSeq slot tenant 0xB s (instWho s inst))
    else match t.st with
      | .absent => (some stNoPage, s)
      | .migrating => conflict
      | .rewriting => conflict
      | .fast =>
        if deep then
          match backTensor slot ti s with
          | none => (some stRetry, frameExhausted (dirRegion slot) s)
          | some s => (none, startMig slot ti true (some inst) [] s)
        else (some stOk, s)
      | .deep =>
        if deep then (some stOk, s)
        else match reservePromotion slot ti (backedPages s slot ti) [] s with
          | none => (some stRetry, raise (leafPromoteBlocked (dirRegion slot)) [(20, 4, slot), (32, 2, tenant), (34, 1, l)] s)
          | some (got, s) => (none, startMig slot ti false (some inst) got s)

/-- MIGRATE (R118). -/
def execMigrate (inst : Nat) (s : State) : Host.Outcome State Fault Refusal :=
  .next (match startedAct s inst 0xB with
    | none => s
    | some (x, k, p) =>
      match migrateDo x.tenant (rd p 0 8) (rd p 8 1) (bits (rd p 9 1) 1 0) (bitAt (rd p 9 1) 2) inst s with
      | (some st, s) => actEnd inst k st s
      | (none, s) => actBusy inst k s)

/-- Write a full committed page to deep storage (R112, R116, R119): none when no port has room. -/
def copyDown (slot ti idx e : Nat) (s : State) : Option State :=
  let q := seqOf s slot
  let t := tenOf q ti
  let size := dPageSize q.desc
  let name := leafFrame e
  let old := deepEnt t idx
  let place : Option (Nat × Bool × State) :=
    if old.valid then some (deepAddr old, false, s)
    else (findDeep s (name / 2 ^ 40) size).map fun (a, moved) => (a, moved, useDeep a size q.tenant (.page slot ti idx) s)
  place.map fun (a, moved, s) =>
    let s := if moved then count (rgnCntOff (name / 2 ^ 40) 4) s else s
    let bytes := if leafDelta e then codedBytes s t idx name else memRead s.mem.fast name size
    let s := writeDeep a bytes s
    setTen slot ti { tenOf (seqOf s slot) ti with
      deep := tset {} t.deep idx { valid := true, dirty := false, port := a / 2 ^ 41, dpa := a % 2 ^ 41 } } s

/-- The fast storage of a page that the deep tier now holds: it waits for the reads that started before, and the name stays (R114, R118). -/
def giveUpFast (slot ti idx e : Nat) (s : State) : State :=
  let name := leafFrame e
  if leafDelta e then
    match tlook s.sto.loc (locKey name) with
    | none => s
    | some l =>
      if l.inFast then
        retireFrame l.first { s with sto := { s.sto with loc := tput s.sto.loc (locKey name) { l with inFast := false } } }
      else s
  else if hasFrame s slot ti idx name then nameOn name (dPageSize (seqOf s slot).desc) (retireFrame name s)
  else s

/-- A page that a demotion copies: full, below the committed watermark, and not clean in the deep tier (R119). -/
def needsCopy (q : Seq) (ti idx : Nat) : Bool :=
  let e := deepEnt (tenOf q ti) idx
  pageBelow q.desc idx q.committed && (!e.valid || e.dirty)

/-- A migration ends: STATE is written in one write and the command completes (R118). -/
def migFinish (slot ti : Nat) (st : TenSt) (status : Nat) (s : State) : State :=
  let key := tenKey slot ti
  let inst := (tlook s.work.migs key).bind (·.inst)
  let s := { s with work := { s.work with migs := tdel s.work.migs key } }
  let s := leaveSeq slot (setTen slot ti { tenOf (seqOf s slot) ti with st := st, toDeep := false } s)
  match inst with
  | some i => endBusy i 0xB status false false 0 s
  | none => s

/-- Drop the deep copy of one page of a tensor that the fast tier serves (R123, R127). -/
def dropBacking (slot ti idx : Nat) (s : State) : State :=
  let t := tenOf (seqOf s slot) ti
  let d := deepEnt t idx
  let name := (frameOf s slot ti idx).getD 0
  let s := dropDeep (deepAddr d) (setTen slot ti { t with deep := tdel t.deep idx } s)
  count (rgnCntOff (name / 2 ^ 40) 5) s

/-! ## Ports -/

/-- Port `p`. -/
def tierOf (s : State) (p : Nat) : Tier := tget {} s.tier p

/-- Write it. -/
def setTier (p : Nat) (t : Tier) (s : State) : State := { s with tier := tput s.tier p t }

/-- Drive PERST_N of port `p`. -/
def drivePerst (p : Nat) (v : PinOut) (s : State) : State := { s with pwr := { s.pwr with perst := tput s.pwr.perst p v } }

/-- The sequences with a deep copy on the port that a DEEP tensor or the source of a promotion needs (R127). -/
def needPort (s : State) (p : Nat) : List Nat :=
  (s.dir.filter fun e => e.2.ten.any fun t =>
    (t.2.st == .deep || (t.2.st == .migrating && !t.2.toDeep)) && t.2.deep.any fun d => d.2.valid && d.2.port == p).map (·.1)

/-- The demotions that write to the port: a page's deep storage lies there, or is to lie there (R116). -/
def writesPort (s : State) (p : Nat) : List (Nat × Nat) :=
  (s.work.migs.map fun m => (m.1 / 1024, m.1 % 1024)).filter fun (slot, ti) =>
    let t := tenOf (seqOf s slot) ti
    t.toDeep && ((t.deep.any fun d => d.2.valid && d.2.port == p) ||
      (livePages s slot ti).any fun g => needsCopy (seqOf s slot) ti g.1 && leafFrame g.2 / 2 ^ 40 % 4 == p)

/-- The fast-held pages with a copy on the port. -/
def copiesOn (s : State) (p : Nat) : List (Nat × Nat × Nat) :=
  s.dir.flatMap fun e => e.2.ten.flatMap fun t => if t.2.st == .fast || t.2.st == .rewriting then
    (t.2.deep.filter fun d => d.2.valid && d.2.port == p).map fun d => (e.1, t.1, d.1) else []

/-- The promotions that read the port: a page's deep copy lies there (R127). -/
def readsPort (s : State) (p : Nat) : List ((Nat × Nat) × List Nat) :=
  (s.work.migs.map fun m => ((m.1 / 1024, m.1 % 1024), m.2.reserved.map (·.2))).filter fun e =>
    let t := tenOf (seqOf s e.1.1) e.1.2
    !t.toDeep && t.deep.any fun d => d.2.valid && d.2.port == p

/-- A port is fenced (R126-R128): its requests end with ST_INTERNAL, and so do the promotions that read it and the DMA runs with a side there (13 R304); what
needs it is lost, other copies on it are dropped, and PERST_N goes low for at least 100 ms. -/
def fencePort (p : Nat) (s : State) : State :=
  if (tierOf s p).inService then
    let s := setTier p { tierOf s p with inService := false, fenced := true, rate := 0, width := 0, timeouts := [], fails := 0
                                         perstHighAt := none, retryAt := some (now s + 100000000) } s
    let s := raise (leafTierFenced p) [] (drivePerst p .low s)
    let s := endRuns (fun x => sidePort x == some p) (ringTier p) s
    let lost := needPort s p
    let s := endReqs stInternal ((s.req.filter fun e => lost.contains e.2.slot).map (·.1)) s
    let s := (writesPort s p).foldl (fun s e => migFinish e.1 e.2 .fast stInternal s) s
    let s := (readsPort s p).foldl (fun s e => migFinish e.1.1 e.1.2 .deep stInternal (dropReserved e.2 s)) s
    let s := (copiesOn s p).foldl (fun s e => dropBacking e.1 e.2.1 e.2.2 s) s
    lost.foldl (fun s k => seqLost k s) s
  else s

/-- A CXL.mem request is not completed within 20 µs (R126): counted, and a third time-out within 1 ms fences the port. -/
def tierTimeout (p : Nat) (s : State) : State :=
  let t := tierOf s p
  if t.inService then
    let s := raiseCount (leafTierTimeout p) (tierCntOff p 2) [] s
    let recent := (t.timeouts.filter fun x => decide (now s < x + 1000000)) ++ [now s]
    let s := setTier p { tierOf s p with timeouts := recent } s
    if 3 ≤ recent.length then fencePort p s else s
  else s

/-! ## Hints and the automatic policy -/

/-- TIER_HINT (R124, Table 3.8): HINT is set and the tensor does not move. -/
def tierHintDo (tenant tag l k hint : Nat) (s : State) (who : Who := none) : Nat × State :=
  match lookSeq tenant tag s with
  | (none, s) => (stNoPage, s)
  | (some slot, s) =>
    let q := seqOf s slot
    let ti := 4 * l + k
    if q.st ≠ .active then (stStateConflict, refuseSeq slot tenant 0xC s who)
    else match (tenOf q ti).st with
      | .absent => (stNoPage, s)
      | _ => (stOk, relayTensor slot ti (setTen slot ti { tenOf q ti with hint := hint } s))

/-- TIER_HINT (R124). -/
def execTierHint (inst : Nat) (s : State) : Host.Outcome State Fault Refusal :=
  .next (match startedAct s inst 0xC with
    | none => s
    | some (x, k, p) =>
      let (st, s) := tierHintDo x.tenant (rd p 0 8) (rd p 8 1) (bits (rd p 9 1) 1 0) (bits (rd p 9 1) 5 4) s (whoOf x.msg)
      actEnd inst k st s)

/-- Bytes of the channel-local ranges of region `r`. -/
def localBytes (s : State) (r : Nat) : Nat := localTop s r - stripedTop s r

/-- Free bytes of the channel-local frames of region `r`: what holds data, less the stores in use. -/
def localFree (s : State) (r : Nat) : Nat :=
  let (_, b, c, t) := rangesOf s r
  let used := s.sto.fast.foldl (fun a e =>
    if e.1 / 2 ^ 40 = r ∧ isLocal s r (e.1 % 2 ^ 40) = true then a + e.2.size else a) 0
  (c - b) / 32 * 31 + (t - c) - used

/-- Bytes in region `r` that a demotion of a tensor gives back. -/
def tensorFrees (s : State) (slot ti r : Nat) : Nat :=
  let q := seqOf s slot
  ((livePages s slot ti).filter fun p => pageBelow q.desc p.1 q.committed && !leafDelta p.2 && leafLocal p.2 &&
    leafFrame p.2 / 2 ^ 40 == r).length * dPageSize q.desc

/-- The tensors of active sequences that are FAST, under one hint, by rising LAST_QUERY. -/
def fastTensors (s : State) (hint : Nat) : List (Nat × Nat) :=
  let all := s.dir.flatMap fun e => if e.2.st == .active then
      (e.2.ten.filter fun t => t.2.st == .fast && t.2.hint == hint).map fun t => ((e.1, t.1), t.2.lastQuery) else []
  (sortBy (·.2) all).map (·.1)

/-- Log MIGRATE_AUTO and start the demotion of one tensor: none when its deep page table cannot be had. -/
def autoOne (slot ti : Nat) (s : State) : Option State :=
  (backTensor slot ti s).map fun s =>
    let r := dirRegion slot
    let s := count (rgnCntOff r 22) (logEvent (ringRegion r) 2 none
      [(20, 4, slot), (32, 2, (seqOf s slot).tenant), (34, 1, ti / 4), (40, 1, ti % 4)] s)
    startMig slot ti true none [] s

/-- Demote the tensors of the list until region `r` is to have `want` bytes free: what it will have, and the state. A tensor whose demotion gives the region
nothing back, or that cannot have its deep page table, is passed over: R124's order does not say (DESIGN CHOICE, log 98). -/
def autoList (r want : Nat) : List (Nat × Nat) → Nat → State → Nat × State
  | [], have_, s => (have_, s)
  | (slot, ti) :: rest, have_, s =>
    let n := tensorFrees s slot ti r
    if want ≤ have_ then (have_, s)
    else if n = 0 then autoList r want rest have_ s
    else match autoOne slot ti s with
      | none => autoList r want rest have_ s
      | some s => autoList r want rest (have_ + n) s

/-- Bytes of region `r` that the demotions on their way are to give back (R124). -/
def goingDown (s : State) (r : Nat) : Nat :=
  s.work.migs.foldl (fun a m =>
    if (tenOf (seqOf s (m.1 / 1024)) (m.1 % 1024)).toDeep then a + tensorFrees s (m.1 / 1024) (m.1 % 1024) r else a) 0

/-- A FAST tensor under one of the hints would give region `r` something back. -/
def anyFrees (s : State) (r : Nat) (hints : List Nat) : Bool :=
  hints.any fun h => (fastTensors s h).any fun t => decide (0 < tensorFrees s t.1 t.2 r)

/-- AUTO_DEMOTE (R124): below FAST_LOW, whole tensors are demoted until 8 % is free, counting what those already on their way are to give back (log 98);
with only PIN_FAST tensors left it sets FAST_PINNED_FULL. -/
def execAutoDemote (r : Fin 16) (s : State) : Host.Outcome State Fault Refusal :=
  .next (
    let low := (s.cfg.img.map (·.fastLow)).getD 4
    if ready s = false ∨ (rgnOf s r.val).fenced = true ∨ localBytes s r.val * low ≤ 100 * localFree s r.val then s
    else
      let want := localBytes s r.val * 8 / 100
      match autoList r.val want (fastTensors s 2 ++ fastTensors s 0) (localFree s r.val + goingDown s r.val) s with
      | (got, s') =>
        if got < want ∧ anyFrees s' r.val [1] = true ∧ anyFrees s' r.val [0, 2] = false then
          raise (leafFastPinnedFull r.val) [] s'
        else s')

/-- Free bytes and size of deep storage on a port. -/
def deepFree (s : State) (port : Nat) : Nat × Nat :=
  let size := (tget {} s.tier port).capUsed * 2 ^ 30
  let used := s.sto.deep.foldl (fun a e => if e.1 / 2 ^ 41 = port then a + e.2.size else a) 0
  (size - used, size)

/-- A port in service has less than `pct` per cent of its deep storage free. -/
def deepBelow (s : State) (port pct : Nat) : Bool :=
  let (free, size) := deepFree s port
  decide (100 * free < pct * size)

/-- A tensor with no deep copy left has its page table freed (R123). -/
def unback (slot ti : Nat) (s : State) : State :=
  let t := tenOf (seqOf s slot) ti
  if t.backed && t.deep.isEmpty then
    dropFrame t.deepTable (setTen slot ti { t with backed := false, deepTable := 0 } s)
  else s

/-- The FAST tensors that have deep copies, least recent LAST_QUERY first (R123). -/
def fastBacked (s : State) : List (Nat × Nat) :=
  (sortBy (fun (e : (Nat × Nat) × Nat) => e.2) (s.dir.flatMap fun e =>
    (e.2.ten.filter fun t => t.2.st == .fast && t.2.backed).map fun t => ((e.1, t.1), t.2.lastQuery))).map (·.1)

/-- Drop a tensor's clean deep copies, each while its own port has less than 4 % free: R123's 'until 4 % is free' does not say whether on each port or over
all (DESIGN CHOICE, log 97). -/
def dropClean (slot ti : Nat) (s : State) : State :=
  let clean := (tenOf (seqOf s slot) ti).deep.filter fun e => e.2.valid && !e.2.dirty
  if clean.isEmpty then s
  else unback slot ti (clean.foldl (fun s e => if deepBelow s e.2.port 4 then dropBacking slot ti e.1 s else s) s)

/-- BACKING_DROP (R123): with every port in service below 2 % free, clean deep copies of FAST tensors are dropped, least recent LAST_QUERY
first, until their port has 4 % free. -/
def execBackingDrop (s : State) : Host.Outcome State Fault Refusal :=
  .next (
    let up := (List.range 4).filter fun p => (tget {} s.tier p).inService
    if up.isEmpty ∨ ready s = false ∨ (up.all fun p => deepBelow s p 2) = false then s
    else (fastBacked s).foldl (fun s t => dropClean t.1 t.2 s) s)

/-! ## Ports: events and links -/

/-- TIER_EVENT_POLL (R126): each corrected error of the event log is counted. -/
def execTierEventPoll (port : Fin 4) (corrected : Nat) (s : State) : Host.Outcome State Fault Refusal :=
  .next (if (tierOf s port.val).inService then
      (List.range corrected).foldl (fun s _ => raiseCount (leafTierCorrected port.val) (tierCntOff port.val 0) [] s) s
    else s)

/-- CXL_TIMEOUT (R126). A page read that times out reports it through PAGE_READ. -/
def execCxlTimeout (port : Fin 4) (s : State) : Host.Outcome State Fault Refusal := .next (tierTimeout port.val s)

/-- TIER_LINK_LOSS (R127). -/
def execTierLinkLoss (port : Fin 4) (s : State) : Host.Outcome State Fault Refusal := .next (fencePort port.val s)

/-- PERST_RETRY (R128): PERST_N rises when its time has come; a port not in L0 1 s after that is put in reset again, for at least 100 ms and
until 10 s after the rise before. -/
def execPerstRetry (port : Fin 4) (s : State) : Host.Outcome State Fault Refusal :=
  let p := port.val
  let t := tierOf s p
  .next (match t.retryAt with
    | none => s
    | some at_ =>
      if now s < at_ ∨ awake s = false ∨ t.inService = true ∨ t.dieLost = true then s
      else match t.perstHighAt with
        | none =>
          if s.pwr.tierClk.getLsbD p = false then s
          else setTier p { t with perstHighAt := some (now s), retryAt := some (now s + 1000000000) } (drivePerst p .high s)
        | some t0 =>
          setTier p { t with perstHighAt := none, fails := t.fails + 1, retryAt := some (max (now s + 100000000) (t0 + 10000000000)) }
            (drivePerst p .low s))

/-- Everything on a port is gone (R129): its deep copies, whose table entries are cleared, what is left of old ones, and its storage, but for what is held
for scrubbing (17 R387). -/
def emptyPort (p : Nat) (s : State) : State :=
  { s with
    sto := { s.sto with
      deep := tfilter s.sto.deep fun a x => decide (a / 2 ^ 41 ≠ p) || x.use == .scrub || x.use == .fenced
      old := s.sto.old.filter fun o => !(o.deep && decide (o.key / 2 ^ 41 = p)) }
    dir := tmap s.dir fun _ q => { q with ten := tmap q.ten fun _ t => { t with deep := tfilter t.deep fun _ d => d.port != p } } }

/-- A port's link trains and its device is identified (R110, R111, R126, R129): a device outside Table 5.1 keeps the port out of service;
another enters service empty, TIER_RESTORED when the port was fenced. -/
def tierTrained (p : Nat) (g : TierTrain) (s : State) : State :=
  let t := tierOf s p
  if !g.supported then
    raise (leafTierDeviceUnsupported p) []
      (setTier p { t with rate := g.rate, width := g.width, unsupported := true, retryAt := none
                          capDevice := min g.capGiB 4095 } s)
  else
    let s := emptyPort p s
    let s := setTier p { t with inService := true, fenced := false, unsupported := false, rate := g.rate, width := g.width
                                capUsed := min g.capGiB 2048, capDevice := min g.capGiB 4095, timeouts := [], fails := 0
                                retryAt := none } s
    let s := if g.rate ≠ 4 ∨ g.width ≠ 8 then raise (leafTierLinkDegraded p) [] s else s
    let s := if 2048 < g.capGiB then raise (leafTierCapClamped p) [] s else s
    if t.fenced then raiseCount (leafTierRestored p) (tierCntOff p 3) [] s else s

/-- The link may come to L0 (R128): PERST_N rose less than 1 s ago. -/
def trainsInTime (s : State) (t : Tier) : Bool :=
  match t.perstHighAt with
  | none => false
  | some t0 => decide (now s < t0 + 1000000000)

/-- TIER_LINK_TRAINED (R129): with PERST_N high since less than 1 s and the port out of service. A port fenced for an unsupported device stays out
until the next reset (02 R38). -/
def execTierLinkTrained (port : Fin 4) (train : TierTrain) (s : State) : Host.Outcome State Fault Refusal :=
  let t := tierOf s port.val
  .next (if awake s = true ∧ t.inService = false ∧ t.dieLost = false ∧ t.unsupported = false ∧ trainsInTime s t = true ∧
      s.pwr.tierClk.getLsbD port.val = true ∧ tget .hiZ s.pwr.perst port.val = .high then
    tierTrained port.val train s else s)

/-! ## Shadow check -/

/-- One entry against its shadow (R75): an uncorrectable shadow line loses the sequence, another mismatch is repaired. -/
def shadowOne (bad : List (Fin 16384)) (slot : Nat) (s : State) : State :=
  let q := seqOf s slot
  let r := dirRegion slot
  if bad.any fun b => b.val == slot % 16384 then seqLost slot s
  else if q.cam = q.shadow then s
  else raiseCount (leafDirRepaired r) (rgnCntOff r 6) [(20, 4, slot)] (setSeq slot { q with cam := q.shadow } s)

/-- SHADOW_CHECK (R75): the slices in turn, one every 1 ms. -/
def execShadowCheck (r : Fin 16) (badShadow : List (Fin 16384)) (s : State) : Host.Outcome State Fault Refusal :=
  .next (if awake s = true ∧ s.work.shadowNext = r.val ∧ s.work.shadowAt ≤ now s then
      let mine := (s.dir.filter fun e => dirRegion e.1 == r.val).map (·.1)
      let s := mine.foldl (fun s slot => shadowOne badShadow slot s) s
      { s with work := { s.work with shadowNext := (r.val + 1) % 16, shadowAt := now s + 1000000 } }
    else s)

end Sys2Proof.Machine
end

