-- ==== Sys2Proof/Machine/Query.lean ====
section
/-! DEFINITION. Attention requests up to confirmation (08 R177-R184, R199, R200; 14 R312, R322): the checks, what a request reads, the
deadline, run-ahead and the lanes of each region. -/

namespace Sys2Proof.Machine

/-! ## Fields of the QUERY parameters (08 Table 8.1) and the prefix (Table 8.2) -/

abbrev qTag (p : Bytes) : Nat := rd p 0 8
abbrev qProg (p : Bytes) : Nat := rd p 8 1
abbrev qFmt (p : Bytes) : Nat := bits (rd p 9 1) 1 0
abbrev qTail (p : Bytes) : Bool := bitAt (rd p 9 1) 2
abbrev qPrefix (p : Bytes) : Bool := bitAt (rd p 9 1) 3
abbrev qGen (p : Bytes) : Nat := rd p 10 2
abbrev qLo (p : Bytes) : Nat := bits (rd p 12 4) 24 0
abbrev qHi (p : Bytes) : Nat := bits (rd p 16 4) 24 0
abbrev qBudget (p : Bytes) : Nat := rd p 20 4
abbrev qBase (p : Bytes) : Nat := bits (rd p 24 8) 47 0
abbrev qStride (p : Bytes) : Nat := rd p 32 4
abbrev qParam (p : Bytes) (i : Nat) : Nat := rd p (36 + 4 * i) 4
abbrev qResEp (p : Bytes) : Nat := bits (rd p 68 4) 23 0
abbrev qResWin (p : Bytes) : Nat := bits (rd p 72 2) 13 0
abbrev qResGen (p : Bytes) : Nat := rd p 74 2
abbrev qResOff (p : Bytes) : Nat := rd p 76 6
abbrev qResSluice (p : Bytes) : Nat := bits (rd p 82 2) 14 0
abbrev qResStride (p : Bytes) : Nat := rd p 84 4

/-- Bytes of an element of the query format. -/
def qElem (fmt : Nat) : Nat := if fmt = 0 then 2 else 1

/-- The query-area length of `nq` query tokens of `qh` heads and `w` elements (R179). -/
def queryArea (fmt nq qh w : Nat) : Nat :=
  let e := nq * qh * w * qElem fmt
  if fmt = 0 then e else alignUp 64 e + 4 * (nq * qh)

/-- The prefix of a query message, when it has one. -/
def prefixOf (p b : Bytes) : Option Bytes := if qPrefix p then some (b.take 64) else none

/-- A prefix with a reserved bit set, or a parent that Table 8.2 requires to be 0 (R7). -/
def prefixBad (x : Bytes) : Bool :=
  let nq := bits (rd x 0 1) 3 0 + 1
  decide (x.length < 64) || bits (rd x 0 1) 7 6 != 0 || !zeroAt x 1 7 || !zeroAt x 24 40 ||
  (if bitAt (rd x 0 1) 4 then rd x 8 8 / 2 ^ (4 * nq) != 0 else rd x 8 8 != 0)

/-- NQ of a message (R179): none when its length fits none. -/
def nqOf (p b : Bytes) (qh w : Nat) : Option Nat :=
  match prefixOf p b with
  | some x =>
    let nq := bits (rd x 0 1) 3 0 + 1
    if prefixBad x = false ∧ b.length = 64 + queryArea (qFmt p) nq qh w then some nq else none
  | none => (List.range 16).map (· + 1) |>.find? fun nq => queryArea (qFmt p) nq qh w == b.length

/-- The layer that a message's offset gives (R178): none at any other offset, or above `layers`. -/
def layerOf (p : Bytes) (m : EnMsg) (layers : Nat) : Option Nat :=
  if m.offset < qBase p ∨ qStride p < m.len ∨ qStride p = 0 ∨ (m.offset - qBase p) % qStride p ≠ 0 then none
  else
    let l := (m.offset - qBase p) / qStride p
    if l < layers then some l else none

/-- The rows of a query message (R145, R179): row i · QH + h. -/
def rowsOf (p area : Bytes) (nq qh w : Nat) : List QRow :=
  let fmt := qFmt p
  let sc := alignUp 64 (nq * qh * w * qElem fmt)
  (List.range (nq * qh)).map fun r =>
    { elems := (List.range w).map fun i => rd area ((r * w + i) * qElem fmt) (qElem fmt)
      fmt := fmt
      scale := if fmt = 0 then 0x3F800000 else f32At area (sc + 4 * r)
      rotated := none }

/-- Some element or scale of a row is infinite or NaN (R181 check 7). -/
def rowBad (q : QRow) : Bool :=
  !isFin32 q.scale || (List.range q.elems.length).any fun i => match qRaw q i with
    | .fin _ _ _ => false
    | _ => true

/-! ## What a request reads (07 R169; 08 R182, R185) -/

/-- The kinds a program reads of a sequence: its LOAD kinds and the scale kind of each loaded YQ kind (R181 check 5). -/
def readKinds (img d : Bytes) : List Nat :=
  let ks := loadedKinds img
  ks ++ (if dStreamed d then ks.filterMap fun k => if fmtYq (dFmt d k) then some (k + (if dLatent d then 1 else 2)) else none else [])

/-- The pattern's context under a tuple. -/
def patCtx (r : Req) (t : Tuple) : PatCtx :=
  { c := t.c, e := t.e, nq := r.nq, params := r.params, parents := r.parents, lo := r.lo, hi := r.hi }

/-- The spans of a request under a tuple, by its pattern or its fallback (R168, R200). -/
def spansOf (img d : Bytes) (r : Req) (t : Tuple) (fallback : Bool) : List Span :=
  runPattern img (patCtx r t) 64 (if fallback then dFallbackState d else 0)

/-- The tokens of page `pg`, by place in the page, that a request reads. -/
def pageReads (d : Bytes) (x : PatCtx) (sps : List Span) (pg : Nat) : List Nat :=
  (List.range (dTokens d)).filter fun t => readsToken x sps (pg * dTokens d + t)

/-- The page pairs (head group, page) that a request reads, in rank order (R185). -/
def reqPairs (img d : Bytes) (r : Req) (t : Tuple) : List Nat :=
  let x := patCtx r t
  let sps := spansOf img d r t r.fallback
  (pagesBelow d t.e).filter fun idx => !(pageReads d x sps (idx % dPages d)).isEmpty

/-- The region in which a pair is read: that of the frame of its first loaded kind, else its home region. -/
def pairRegion (s : State) (img : Bytes) (slot layer idx : Nat) : Nat :=
  let d := (seqOf s slot).desc
  let ti := layer * 4 + (loadedKinds img).headD 0
  match frameOf s slot ti idx with
  | some f => f / 2 ^ 40
  | none => homeOf d slot ti idx

/-- The byte spans that LOAD reads of a page of kind `k`: the tokens' elements, group scales and second-level scales, or the lines of a
streamed scale tensor (07 LOAD; 06 R136, R137). -/
def loadSpans (d : Bytes) (k : Nat) (toks : List Nat) : List (Nat × Nat) :=
  (List.range (dHeadsPerPage d)).flatMap fun h =>
    match scaleOf d k with
    | some j => toks.map fun t => (streamOff d j h t 0, dDim d j / dR d j * 2)
    | none =>
      (toks.map fun t => (elemOff d k h t 0, dDim d k * fmtBits (dFmt d k) / 8)) ++
      (if hasScales d k then toks.map fun t => (scaleOff d k h t 0, dDim d k / dR d k) else []) ++
      (if hasS2 d k then [(s2Off d k h, 4)] else [])

/-- The lines that LOAD reads of a page of kind `k`. -/
def loadLines (d : Bytes) (k : Nat) (toks : List Nat) : List Nat :=
  let sp := loadSpans d k toks
  (List.range (dPageSize d / 64)).filter fun l => sp.any fun x => decide (x.1 < 64 * (l + 1)) && decide (64 * l < x.1 + x.2)

/-- Their bytes. -/
def loadBytes (d : Bytes) (k : Nat) (toks : List Nat) : Nat := 64 * (loadLines d k toks).length

/-- Bytes of the lines that a request reads (R199, b). -/
def reqBytes (img d : Bytes) (r : Req) (t : Tuple) : Nat :=
  let x := patCtx r t
  let sps := spansOf img d r t r.fallback
  (reqPairs img d r t).foldl (fun a idx =>
    (readKinds img d).foldl (fun a k => a + loadBytes d k (pageReads d x sps (idx % dPages d))) a) 0

/-! ## Accounting (14 Table 14.4) -/

/-- Contexts a partition may hold in a block. -/
def ctxLimit (s : State) (p : Nat) : Nat := if (weirOf s p).en then (weirOf s p).ctxLimit else 32

/-! ## Lanes (R184, R185) -/

/-- The pairs of a request's list that are read in region `r` now. -/
def pairsIn (s : State) (q : Req) (r : Nat) (all : List Nat) : List Nat :=
  all.filter fun idx => pairRegion s (progOf s q.program).image q.slot q.layer idx == r

/-- The lanes of a region's pairs over its blocks: the pair of rank k belongs to lane k mod L. -/
def layLanes (pairs blocks : List Nat) : Tbl Lane :=
  blocks.zipIdx.map fun b =>
    let ps := (pairs.zipIdx.filter fun e => e.2 % blocks.length == b.2).map (·.1)
    (b.2, { st := if ps.isEmpty then .done else .waiting, block := b.1, pairs := ps })

/-- The regions in service. -/
def regionsUp (s : State) : List Nat := (List.range 16).filter fun r => !rgnFenced s r

/-- Start run-ahead under the entry's last tuple (R184). -/
def startRunAhead (s : State) (q : Req) : Req :=
  match q.predicted with
  | none => q
  | some t =>
    let all := reqPairs (progOf s q.program).image (seqOf s q.slot).desc q t
    { q with rgns := (regionsUp s).map fun r =>
        let ps := pairsIn s q r all
        (r, { blocks := blocksUp s r, pairs := ps, lanes := layLanes ps (blocksUp s r) }) }

/-- Write request `n`. -/
def setReq (n : Nat) (q : Req) (s : State) : State := { s with req := tput s.req n q }

/-! ## QUERY -/

/-- The refusal of a request before it has a record: its action ends. -/
abbrev queryRefused (inst k status : Nat) (s : State) : State := actEnd inst k status s

/-- Check 5 (R181): every tensor the LOAD stages name is registered. -/
def tensorsOk (q : Seq) (img : Bytes) (layer : Nat) : Bool :=
  (readKinds img q.desc).all fun k => (tenOf q (4 * layer + k)).st != .absent

/-- The fields of a BLOCK-ring record about a refused request (19 Table 19.8): no block holds a context of it yet. -/
def refusedDetail (slot layer tenant : Nat) (s : State) : Detail :=
  [(18, 1, stMalformed), (20, 4, slot), (24, 8, (seqOf s slot).tag), (32, 2, tenant), (34, 1, layer)]

/-- A program does not fit its sequence (07 R172). R172 names neither the region nor the block that checks: the record stands in the region of the
sequence's directory entry and names no block. DESIGN CHOICE, log 82. -/
def shapeMismatch (slot layer tenant : Nat) (s : State) : State :=
  raise (leafProgramShapeMismatch (dirRegion slot)) (refusedDetail slot layer tenant s) s

/-- The length of a message of a program in service fits no NQ (R179): the query row width of the request is not QUERY_DIM (07 R172; log 62). -/
def rowWidthBad (p b img : Bytes) (nq : Option Nat) : Bool :=
  nq.isNone && !img.isEmpty && (match prefixOf p b with
    | some x => !prefixBad x
    | none => true)

/-- Check 6 (R181): program slot and generation, shape, operand modes; the refusal, or none. OPERAND_MODE_INVALID is raised where
PROGRAM_SHAPE_MISMATCH is (log 82). -/
def programGate (tenant slot layer prog gen : Nat) (s : State) (who : Who := none) : Option Nat × State :=
  match progCheck tenant prog gen 1 s who with
  | (some st, s) => (some st, s)
  | (none, s) =>
    let d := (seqOf s slot).desc
    let img := (progOf s prog).image
    let r := dirRegion slot
    if shapeBad img d then (some stMalformed, shapeMismatch slot layer tenant s)
    else if !modesOk img d then (some stMalformed, raise (leafOperandModeInvalid r) (refusedDetail slot layer tenant s) s)
    else (none, s)

/-- Check 8 (R171): a parent vector asks for a TREE program, the tail, and TAIL at or above NQ. -/
def treeGate (tenant slot : Nat) (img : Bytes) (parents : Option Nat) (incTail : Bool) (nq : Nat) (s : State) (who : Who := none) : Option Nat × State :=
  match parents with
  | none => (none, s)
  | some _ =>
    if !(maskOf img).2 then (some stMalformed, s)
    else if !incTail || decide ((seqOf s slot).tail < nq) then (some stStateConflict, refuseSeq slot tenant 1 s who)
    else (none, s)

/-- The deadline of a latency-critical request (R199). -/
def deadlineOf (p b : Bytes) (m : EnMsg) : Option Nat :=
  let abs_ := match prefixOf p b with
    | some x => rd x 16 8
    | none => 0
  if abs_ ≠ 0 then some abs_ else if qBudget p ≠ 0 then some (m.time + qBudget p) else none

/-- INCLUDE_TAIL and the parents of a message. -/
def tailOf (p b : Bytes) : Bool :=
  match prefixOf p b with
  | some x => bitAt (rd x 0 1) 5
  | none => qTail p
def parentsOf (p b : Bytes) : Option Nat :=
  match prefixOf p b with
  | some x => if bitAt (rd x 0 1) 4 then some (rd x 8 8) else none
  | none => none

/-- The request that a checked message makes. -/
def newReq (x : Inst) (inst slot layer nq rot : Nat) (p b : Bytes) (m : EnMsg) (rows : List QRow) (last : Option Tuple) : Req :=
  { inst := inst, entry := x.entry, die := x.die, tenant := x.tenant, tag := qTag p, slot := slot, layer := layer, program := qProg p, stepTag := x.arg, nq := nq
    rows := rows, parents := parentsOf p b, incTail := tailOf p b, lo := qLo p
    hi := if qHi p = 0x1FFFFFF then 2 ^ 25 else qHi p, rot := rot
    params := (List.range 8).map (qParam p), arrival := x.at_
    deadline := if x.lc then deadlineOf p b m else none, lc := x.lc, partn := x.part, predicted := last }

/-- Checks 1 to 8 of Table 8.3 in order, then the request waits for its confirmation and runs ahead. Check 1 stands before the sequence is known to
exist: for one that is absent it takes 256 layers and the program image's query heads (DESIGN CHOICE, log 100). -/
def queryDo (x : Inst) (inst k : Nat) (p : Bytes) (m : EnMsg) (s : State) : State :=
  let b := enabledBytes s m
  let tag := qTag p
  let (found, s) := lookSeq x.tenant tag s
  let d := match found with
    | some slot => (seqOf s slot).desc
    | none => []
  let img := (progOf s (qProg p)).image
  let qh := match found with
    | some _ => dQHeads d
    | none => pQHeads img
  let w := pQueryDim img * 16
  let layers := match found with
    | some _ => dLayers d
    | none => 256
  let layer := layerOf p m layers
  let nq := nqOf p b qh w
  let area := if qPrefix p then b.drop 64 else b
  let s := doneReading inst s
  let size := recordSize (emitOf img).1 (pOutDim img * 16)
  -- check 1; a program slot without an image is left to check 6
  if layer.isNone || (!img.isEmpty && (match nq with
      | none => true
      | some n => decide (qResStride p < n * qh * size))) then
    queryRefused inst k stMalformed (match found with
      | some slot => if rowWidthBad p b img nq then shapeMismatch slot (layer.getD 0xFF) x.tenant s else s
      | none => s)
  else if !keySlotUp s x.tenant then queryRefused inst k stTenantRevoked s
  else
    match epochCheck x.tenant tag (qLo p) (if qHi p = 0x1FFFFFF then 2 ^ 25 else qHi p)
        (match found with | some _ => dMaxTokens d | none => placedEnd s x.tenant tag) (routedOf x m) s with
    | (some st, s) => queryRefused inst k st s
    | (none, s) =>
      match found with
      | none => queryRefused inst k stNoPage s
      | some slot =>
        let q := seqOf s slot
        let l := layer.getD 0
        if q.st ≠ .active then queryRefused inst k stStateConflict (refuseSeq slot x.tenant 1 s (whoOf x.msg))
        else if !tensorsOk q img l then queryRefused inst k stNoPage s
        else
          match programGate x.tenant slot l (qProg p) (qGen p) s (whoOf x.msg) with
          | (some st, s) => queryRefused inst k st s
          | (none, s) =>
            let n := nq.getD 1
            let rows := rowsOf p area n qh w
            if rows.any rowBad then queryRefused inst k stMalformed s
            else
              match treeGate x.tenant slot img (parentsOf p b) (tailOf p b) n s (whoOf x.msg) with
              | (some st, s) => queryRefused inst k st s
              | (none, s) =>
                let r := newReq x inst slot l n q.app.rotOffset p b m rows (entryOf s x.entry).last
                let s := startProgUse (qProg p) (actBusy inst k s)
                setReq s.nextReq (startRunAhead s r) { s with nextReq := s.nextReq + 1 }

/-- QUERY (R181, R184). -/
def execQuery (inst : Nat) (s : State) : Host.Outcome State Fault Refusal :=
  .next (match startedAct s inst 1 with
    | none => s
    | some (x, k, p) =>
      match x.msg with
      | none => s
      | some m => queryDo x inst k p m s)

/-! ## CONFIRM -/

/-- A confirmed request waits for contexts in some region (R183): the spec does not say when it leaves its die's queue. Here it stays until its
confirmation has reached every region and every lane there has had a context, also where kept run-ahead holds them all (DESIGN CHOICE,
log 103). -/
def reqWaits (q : Req) : Bool :=
  q.st == .confirmed && q.rgns.any fun r => (!r.2.confirmed) || r.2.lanes.any fun l => l.2.st == .waiting

/-- A request ends before its confirmation: its run-ahead is discarded and counted once (R184). -/
def reqRefused (n status : Nat) (q : Req) (s : State) : State :=
  endReq n status (if q.predicted.isSome then count (netCntOff q.die 18) s else s)

/-- rho × 100 in MB/s (R199): the bytes the partition read in the last 100 µs, at most its limit. -/
def rho100 (s : State) (p : Nat) : Nat :=
  let limit := (if (weirOf s p).en then (weirOf s p).rate else 8000000) * 100
  let got := (tget [] s.readLog p).foldl (fun a e => if now s < e.1 + 100000 then a + e.2 else a) 0
  if got = 0 then limit else min limit got

/-- Bytes that latency-critical requests of the partition confirmed earlier have still to read (R199, a). -/
def bytesAhead (s : State) (p : Nat) : Nat :=
  s.req.foldl (fun a e => if e.2.st = .confirmed ∧ e.2.lc = true ∧ e.2.partn = p then a + e.2.bytesLeft else a) 0

/-- t_pred ≤ D (R199, R200). -/
def meets (s : State) (q : Req) (b : Nat) : Bool :=
  match q.deadline with
  | none => true
  | some dl =>
    let fixed := q.arrival + 5400
    decide (fixed ≤ dl) && decide ((bytesAhead s q.partn + b) * 100000 ≤ (dl - fixed) * rho100 s q.partn)

/-- Set LAST_QUERY of the tensors read (05 Table 5.2). -/
def touchTensors (q : Req) (img : Bytes) (s : State) : State :=
  (readKinds img (seqOf s q.slot).desc).foldl (fun s k =>
    let ti := 4 * q.layer + k
    setTen q.slot ti { tenOf (seqOf s q.slot) ti with lastQuery := bits (now s) 51 20 } s) s

/-- What confirmation fixes for a region (R185): the blocks in service and the pairs read there; and whether the region's run-ahead work is kept
(R184): same tuple, same pattern and offset, and the same blocks and pairs as it was laid over (log 61). -/
def confirmRgn (s : State) (q : Req) (same : Bool) (all : List Nat) (r : Nat) : ReqRgn :=
  let x := (tlook q.rgns r).getD {}
  let ps := pairsIn s q r all
  { x with
    keep := same && !x.lanes.isEmpty && x.blocks == blocksUp s r && x.pairs == ps
    blocks := blocksUp s r, pairs := ps }

/-- Every region that has pages for a confirmed request holds its lane contexts (14 R322): the confirmation fixes the regions and their pages
(08 R185), and a region whose run-ahead is not kept lays its lanes when the confirmation arrives. -/
def contextsHeld (q : Req) : Bool :=
  q.tuple.isSome && q.rgns.all fun r =>
    r.2.pairs.isEmpty || ((r.2.confirmed || r.2.keep) && r.2.lanes.all fun l => l.2.st != .waiting)

/-- The wait of a request whose contexts are all held (14 R322): added up once, to the moment the last of them was. A request with no pages waits
until its confirmation (DESIGN CHOICE, log 106). -/
def noteWait (n : Nat) (s : State) : State :=
  match tlook s.req n with
  | none => s
  | some q =>
    if q.waited || !contextsHeld q then s
    else
      let tenant := q.tenant
      let w := (if q.rgns.all fun r => r.2.pairs.isEmpty then q.confirmedAt else q.held) - q.arrival
      let bin := if w < 1000 then 0 else min 15 (Nat.log2 (w / 1000) + 1)
      acct tenant 32 (0x40 + 4 * bin) 1 (acct tenant 64 0 w (setReq n { q with waited := true } s))

/-- The confirmation of a request that passes every check (R182): IN_FLIGHT rises, the entry keeps the tuple, and the confirmation goes to
every region in service. A request on its fallback is counted, for its die and partition and for its tenant (R200; 14 Table 14.4). -/
def confirmReq (n : Nat) (q : Req) (t : Tuple) (b : Nat) (s : State) : State :=
  let img := (progOf s q.program).image
  let x := seqOf s q.slot
  let miss := q.predicted.isSome && q.predicted != some t
  let s := if miss then count (netCntOff q.die 18) s else s
  let s := if q.fallback then acct x.tenant 32 0x20 1 (count (fallbackOff q.die q.partn) s) else s
  let all := reqPairs img x.desc q t
  let same := q.predicted == some t && !q.fallback && q.rot == x.app.rotOffset
  let rgns := (regionsUp s).map fun r => (r, confirmRgn s q same all r)
  let read := rgns.foldl (fun a r => if r.2.keep then a + r.2.ahead else a) 0
  let q := { q with st := .confirmed, tuple := some t, discarded := miss, rgns := rgns, rot := x.app.rotOffset, bytesLeft := b - read
                    order := s.nextReq, confirmedAt := now s }
  let s := setReq n q { s with nextReq := s.nextReq + 1 }
  let s := setEntryRec q.entry { entryOf s q.entry with last := some t } s
  noteWait n (touchTensors q img (enterSeq q.slot s))

/-- The queue limits (14 R312, 08 R183), then the confirmation. -/
def confirmQueue (n : Nat) (q : Req) (t : Tuple) (b tenant : Nat) (s : State) : State :=
  let mine := fun (x : Req) => x.die == q.die && reqWaits x
  let inPart := tcount s.req fun _ x => mine x && x.partn == q.partn
  let w := weirOf s q.partn
  if (if w.en then w.queueLimit else 4096) ≤ inPart then reqRefused n stOverRate q (acct tenant 32 0x24 1 s)
  else if 4096 ≤ tcount s.req (fun _ x => mine x) then reqRefused n stRetry q s
  else confirmReq n q t b s

/-- CONFIRM (R182, R199, R200): the step at the directory region. A request with the tail is held while a compaction of its sequence runs
(09 R212). The sequence is looked up again by its tag under the issuer's tenant (03 R53, R77): where that entry is gone, or another stands in its
place, ST_NO_PAGE (DEDUCED, log 104). A fallback whose state the program lacks does not fit the sequence (07 R172). -/
def confirmDo (n : Nat) (q : Req) (s : State) : State :=
  let tenant := q.tenant
  let (found, s) := lookSeq tenant q.tag s
  let x := seqOf s q.slot
  let img := (progOf s q.program).image
  if q.freed = true ∨ found ≠ some q.slot then reqRefused n stNoPage q s
  else if x.st ≠ .active then reqRefused n stStateConflict q (refuseSeq q.slot tenant 1 s (instWho s q.inst))
  else if x.app.commitPending = true ∧ q.incTail = true then
    if q.st = .held then s else count (rgnCntOff (dirRegion q.slot) 14) (setReq n { q with st := .held } s)
  else
    match treeGate tenant q.slot img q.parents q.incTail q.nq s (instWho s q.inst) with
    | (some st, s) => reqRefused n st q s
    | (none, s) =>
      let t : Tuple :=
        { e := if q.incTail then x.committed + x.tail else x.committed, c := x.committed, tail := q.incTail, pgen := x.pgen }
      let b := reqBytes img x.desc { q with fallback := false } t
      if meets s q b then confirmQueue n { q with fallback := false } t b tenant s
      else if dFallbackEn x.desc then
        if pStates img ≤ dFallbackState x.desc then reqRefused n stMalformed q (shapeMismatch q.slot q.layer tenant s) else
        let q := { q with fallback := true }
        confirmQueue n q t (reqBytes img x.desc q t) tenant s
      else reqRefused n stDeadline q (count (netCntOff q.die 19) s)

/-- CONFIRM (R182). -/
def execConfirm (req : Nat) (s : State) : Host.Outcome State Fault Refusal :=
  .next (match tlook s.req req with
    | none => s
    | some q => if q.st = .confirmed then s else confirmDo req q s)

/-- A lane that starts again from its first page keeps the context it holds (R184). -/
def restartLane (old : Tbl Lane) (i : Nat) (l : Lane) : Lane :=
  match tlook old i with
  | some o => if o.st = .running ∧ l.st = .waiting then { l with st := .running, block := o.block } else l
  | none => l

/-- An earlier confirmation from the same network die in the same class is still on its way to the region (02 R33): this one cannot pass it. -/
def confirmBlocked (s : State) (q : Req) (r : Nat) : Bool :=
  s.req.any fun e => e.2.st == .confirmed && e.2.die == q.die && e.2.lc == q.lc && decide (e.2.order < q.order) &&
    (match tlook e.2.rgns r with
     | some x => !x.confirmed
     | none => false)

/-- CONFIRM_ARRIVAL (R184): kept run-ahead goes on; otherwise the region's lanes start again from their first pages. Confirmations of one die and
class arrive in the order they were sent (02 R33). -/
def execConfirmArrival (req : Nat) (r : Fin 16) (s : State) : Host.Outcome State Fault Refusal :=
  .next (match tlook s.req req with
    | none => s
    | some q =>
      match q.tuple, tlook q.rgns r.val with
      | some _, some x =>
        if x.confirmed || confirmBlocked s q r.val then s
        else
          let lanes := if x.keep then x.lanes else tmap (layLanes x.pairs x.blocks) (restartLane x.lanes)
          noteWait req (setReq req { q with rgns := tput q.rgns r.val { x with confirmed := true, lanes := lanes } } s)
      | _, _ => s)

end Sys2Proof.Machine
end

