-- ==== Sys2Proof/Machine/Blocks.lean ====
section
/-! DEFINITION. Attention requests in the regions (02 R37; 06 R132, R152, R153; 08 R185-R192; 14 R308, R310, R311, R315, R316): contexts, page
reads, tiles, folds and the result. -/

namespace Sys2Proof.Machine

/-! ## Contexts (14 R311) -/

/-- A lane of a request in a region: the request's number, the request, the lane's number, the lane. -/
abbrev LaneAt : Type := Nat × Req × Nat × Lane

/-- The lanes in region `r` that `f` picks, in the order their requests arrived (R37). -/
def lanesWhere (s : State) (r : Nat) (f : Req → Lane → Bool) : List LaneAt :=
  sortBy (·.2.1.arrival) (s.req.flatMap fun e => match tlook e.2.rgns r with
    | none => []
    | some x => (x.lanes.filter fun l => f e.2 l.2).map fun l => (e.1, e.2, l.1, l.2))

/-- The lanes that hold a context on block `b` of region `r`. -/
def ctxOn (s : State) (r b : Nat) : List LaneAt := lanesWhere s r fun _ l => l.st == .running && l.block == b

/-- Block `b` has a free context and partition `p` is below its limit there. -/
def ctxRoom (s : State) (r b p : Nat) : Bool :=
  let held := ctxOn s r b
  !(blkOf s r b).fenced && decide (held.length < 32) && decide ((held.countP fun e => e.2.1.partn == p) < ctxLimit s p)

/-- The block for a waiting or resumed lane: its own when it has room, else the lowest in service that has. -/
def roomFor (s : State) (r home p : Nat) : Option Nat :=
  if ctxRoom s r home p then some home
  else if (blkOf s r home).fenced then (blocksUp s r).find? fun b => ctxRoom s r b p
  else none

/-! ### Deficit round robin (R311), one server for the contexts of each block, and one for the pages it works on -/

/-- The server of a block's contexts, and that of its pages. -/
def ctxServer (r b : Nat) : Nat := blkKey r b
def pageServer (r b : Nat) : Nat := 128 + blkKey r b

/-- A partition's quantum in a round: BE_WEIGHT × 64 KiB of page bytes. -/
def ctxQuantum (s : State) (p : Nat) : Nat := max 1 (weirOf s p).beWeight * 65536

/-- A waiting partition in the round of a server: how often the round must come to it before its deficit covers what it would start, its place
in the round after the partition served last, its cost and its deficit. -/
structure Turn where
  part : Nat
  visits : Nat
  pos : Nat
  cost : Nat
  credit : Nat

/-- The turns of the waiting partitions `heads` (partition, cost) of server `x`. -/
def turns (s : State) (x : Nat) (heads : List (Nat × Nat)) : List Turn :=
  let last := tget 0 s.traffic.drrAt x
  heads.map fun h =>
    let d := tget 0 s.traffic.drr (x * 64 + h.1)
    { part := h.1, visits := if last = h.1 + 1 ∧ h.2 ≤ d then 0 else max 1 (divUp (h.2 - d) (ctxQuantum s h.1))
      pos := (h.1 + 64 - last) % 64, cost := h.2, credit := d }

/-- The turn that comes first. -/
def firstTurn (l : List Turn) : Option Turn :=
  l.foldl (fun best t => match best with
    | none => some t
    | some b => if t.visits * 64 + t.pos < b.visits * 64 + b.pos then some t else best) none

/-- The deficits once turn `w` has been served: every waiting partition has the quanta of the visits made on the way; others have none. -/
def serveTurn (x : Nat) (l : List Turn) (w : Turn) (s : State) : State :=
  let gained := fun (t : Turn) => if w.visits = 0 then 0 else if t.pos ≤ w.pos then w.visits else w.visits - 1
  let rest := s.traffic.drr.filter fun e => e.1 / 64 != x
  let drr := l.foldl (fun d t =>
    let v := t.credit + gained t * ctxQuantum s t.part
    tset 0 d (x * 64 + t.part) (if t.part = w.part then v - t.cost else v)) rest
  { s with traffic := { s.traffic with drr := drr, drrAt := tset 0 s.traffic.drrAt x (w.part + 1) } }

/-- Partition `p` is served next by server `x` among the waiting partitions: the deficits after it, or none when another comes first. -/
def drrTurn (x p : Nat) (heads : List (Nat × Nat)) (s : State) : Option State :=
  let l := turns s x heads
  match firstTurn l with
  | none => none
  | some w => if w.part = p then some (serveTurn x l w s) else none

/-- The lane served next among the candidates `l`, in arrival order within its partition: the deficits after it, or none when the lane is not
the next. -/
def laneTurn (x n i : Nat) (l : List LaneAt) (cost : LaneAt → Nat) (s : State) : Option State :=
  let head := fun (p : Nat) => l.find? fun e => e.2.1.partn == p
  match l.find? fun e => e.1 == n && e.2.2.1 == i with
  | none => none
  | some e =>
    match head e.2.1.partn with
    | none => none
    | some h =>
      if h.1 = n ∧ h.2.2.1 = i then
        drrTurn x e.2.1.partn ((l.map (·.2.1.partn)).dedup.filterMap fun p => (head p).map fun h => (p, cost h)) s
      else none

/-- The page bytes that a lane has still to read. -/
def laneCost (s : State) (e : LaneAt) : Nat :=
  let d := (seqOf s e.2.1.slot).desc
  e.2.2.2.pairs.length * (readKinds (progOf s e.2.1.program).image d).length * dPageSize d

/-- The latency-critical lanes that wait for a context of block `b` that their partition may take, in arrival order. -/
def lcWaiting (s : State) (r b : Nat) : List LaneAt :=
  (lanesWhere s r fun q l => q.lc && l.st == .waiting && l.block == b).filter fun e =>
    decide ((ctxOn s r b).countP (fun c => c.2.1.partn == e.2.1.partn) < ctxLimit s e.2.1.partn)

/-- The best-effort lanes that block `b` could start or resume now: those that wait for it, and those saved in the region (R316). -/
def beWaiting (s : State) (r b : Nat) : List LaneAt :=
  (lanesWhere s r fun q l => !q.lc && ((l.st == .waiting && l.block == b) || l.st == .saved)).filter fun e => ctxRoom s r b e.2.1.partn

/-- Lane `i` of request `n` is the next to have a context of block `b` (R37, R308): a latency-critical one when none that arrived earlier waits, a
best-effort one when no latency-critical one waits and its partition is served next. -/
def ctxTurn (r b n i : Nat) (lc : Bool) (s : State) : Option State :=
  match lc, lcWaiting s r b with
  | true, e :: _ => if e.1 = n ∧ e.2.2.1 = i then some s else none
  | false, [] => laneTurn (ctxServer r b) n i (beWaiting s r b) (laneCost s) s
  | _, _ => none

/-- Change lane `i` of request `n` in region `r`. -/
def modLane (n r i : Nat) (f : Lane → Lane) (s : State) : State :=
  match tlook s.req n with
  | none => s
  | some q => setReq n { q with rgns := tmod q.rgns r fun x => { x with lanes := tmod x.lanes i f } } s

/-- Lane `i` takes a context of block `b`. -/
def takeContext (n r i b : Nat) (s : State) : State :=
  let s := modLane n r i (fun l => { l with st := .running, block := b }) s
  match tlook s.req n with
  | none => s
  | some q => setReq n { q with held := now s } s

/-- Give a context to each waiting lane whose block has room and whose turn it is. A lane whose block has been fenced goes to the lowest block that
has room. -/
def giveContexts (n r : Nat) (q : Req) (s : State) : State :=
  match tlook q.rgns r with
  | none => s
  | some x => x.lanes.foldl (fun s l =>
      if l.2.st = .waiting then
        match roomFor s r l.2.block q.partn with
        | none => s
        | some b =>
          let s' := modLane n r l.1 (fun l => { l with block := b }) s
          (match ctxTurn r b n l.1 q.lc s' with
           | some s => takeContext n r l.1 b s
           | none => s)
      else s) s

/-- CONTEXT_ALLOCATE (R308, R311): in class order, best-effort partitions in their round. In a gated region the work waits (18 R405). -/
def execContextAllocate (req : Nat) (r : Fin 16) (s : State) : Host.Outcome State Fault Refusal :=
  .next (match tlook s.req req with
    | none => s
    | some q => if (rgnOf s r.val).gated then s else markBusy r.val (noteWait req (giveContexts req r.val q s)))

/-! ## Weir read buckets (14 R310), in 1/16000 byte -/

/-- Bytes of whole lines that the bucket covers now. -/
def tokenLines (s : State) (r p : Nat) : Nat := readTokens s r p / (64 * 16000) * 64

/-- A line read of the partition is eligible by its bucket: EN is 0 or it holds 64 B. -/
def readEligible (s : State) (r p : Nat) : Bool := !(weirOf s p).en || decide (64 ≤ tokenLines s r p)

/-- What is left on each channel once `own` bytes with tokens have been read, in the order of the channels, and on a channel that `free` picks the lines
without tokens too. -/
def takeLines (own : Nat) (free : Nat → Bool) : Tbl Nat → Tbl Nat
  | [] => []
  | (ch, n) :: rest => (ch, if free ch then 0 else n - own) :: takeLines (own - n) free rest

/-- The lines of a pair still to read, by channel, that the partition may read in region `r` now (R310): as many as the bucket covers; a best-effort
partition with BORROW reads the others without tokens on each channel where no other read is eligible. What is left, and the bucket after it. -/
def grantRead (r p : Nat) (lc : Bool) (others : Nat → Bool) (left : Tbl Nat) (s : State) : Tbl Nat × State :=
  if !(weirOf s p).en then (left.map fun e => (e.1, 0), s)
  else
    let own := min (left.map (·.2)).sum (tokenLines s r p)
    (takeLines own (fun ch => (weirOf s p).borrow && !lc && !others ch) left, setTokens r p (readTokens s r p - own * 16000) s)

/-! ## Page reads -/

/-- Rows of head group `g` (R179): the row indices whose key/value head lies in it. -/
def groupRows (d : Bytes) (nq g : Nat) : List Nat :=
  let qh := dQHeads d
  let per := if dLatent d then qh else qh / dKvHeads d
  (List.range (nq * qh)).filter fun r => r % qh / per / dHeadsPerPage d == g

/-- Tokens of a tile (06 R132). -/
def tileTokens (d : Bytes) : Nat := min 32 (dTokens d)

/-- The tiles of a page: token offset and row set, those that hold a token read, in ascending token order (06 R132). -/
def tilesOf (d : Bytes) (nq g : Nat) (reads : List Nat) : List (Nat × Nat) :=
  let n := tileTokens d
  let sets := divUp (groupRows d nq g).length 128
  (List.range (dTokens d / n)).flatMap fun i =>
    if reads.any fun t => decide (i * n ≤ t) && decide (t < (i + 1) * n) then (List.range sets).map fun j => (i * n, j) else []

/-- The tuple a lane works under: the confirmed one once it has arrived, else the prediction. -/
def laneTuple (q : Req) (x : ReqRgn) : Option Tuple := if x.confirmed then q.tuple else q.predicted

/-- Translate the pages of a pair: kinds with their leaves. -/
def walkKinds (slot layer idx r block : Nat) : List Nat → State → List (Nat × Walk) × State
  | [], s => ([], s)
  | k :: ks, s =>
    let d := (seqOf s slot).desc
    let ti := 4 * layer + k
    let (w, s) := translate slot (vpnOf d ti idx) (svAddr d layer k idx) r block s
    let (rest, s) := walkKinds slot layer idx r block ks s
    ((k, w) :: rest, s)

/-- The tables' leaf entry of a page: its address (03 R58). -/
def leafAddr (s : State) (slot sv : Nat) : Nat :=
  let q := seqOf s slot
  let (i1, i2, i3) := walkIdx q.desc sv
  nodeAddr (entryAt s (nodeAddr (entryAt s (q.root + 8 * i1)) + 8 * i2)) + 8 * i3

/-- The tier port from which a page is read. -/
def readPort (s : State) (slot ti idx : Nat) : Option Nat :=
  let t := tenOf (seqOf s slot) ti
  if readsDeep t idx then some (deepEnt t idx).port else none

/-- The chunks of the fast tier that a pair's pages lie in, under the leaves found (kind, leaf). -/
def pairChunks (s : State) (slot layer idx : Nat) (leaves : List (Nat × Nat)) : List Nat :=
  leaves.flatMap fun k => pageChunks s slot (4 * layer + k.1) idx k.2

/-- The channels that a pair is read through; tier port p counts as channel 192 + p. -/
def pairChans (s : State) (slot layer idx : Nat) (leaves : List (Nat × Nat)) : List Nat :=
  chansOf s (pairChunks s slot layer idx leaves) ++
    (leaves.filterMap fun k => (readPort s slot (4 * layer + k.1) idx).map (192 + ·)).dedup

/-- The leaves of a pair as the tables in memory hold them. -/
def pairLeaves (s : State) (slot layer idx : Nat) (ks : List Nat) : List (Nat × Nat) :=
  ks.filterMap fun k => match leafOf s slot (4 * layer + k) idx with
    | .leaf e => some (k, e)
    | .invalid => none

/-- A lane's next read is waiting: it runs, and its buffer is empty. -/
def laneReads (l : Lane) : Bool := l.st == .running && l.buf.isNone && !l.pairs.isEmpty

/-- Another lane than lane `i` of request `n` in region `r` has a read waiting on one of the channels, eligible by its bucket, of the class asked. -/
def rivalRead (s : State) (n r i : Nat) (chans : List Nat) (lcOnly : Bool) : Bool :=
  (List.range 16).any fun g => (lanesWhere s g fun q l => laneReads l && (q.lc || !lcOnly)).any fun e =>
    !(g == r && e.1 == n && e.2.2.1 == i) && readEligible s g e.2.1.partn &&
      (match e.2.2.2.pairs with
       | [] => false
       | idx :: _ =>
         (pairChans s e.2.1.slot e.2.1.layer idx
           (pairLeaves s e.2.1.slot e.2.1.layer idx (readKinds (progOf s e.2.1.program).image (seqOf s e.2.1.slot).desc))).any chans.contains)

/-- The unit of a channel has an atom that may start, of a command other than SCRUB (02 R37). -/
def atomWaits (s : State) (ch : Nat) : Bool :=
  let c := chanSt s ch
  ((c.run.any fun x => !x.todo.isEmpty) || c.queue.any fun u => u.op != 6) && atomMayStart s c && !(rgnOf s (ch / 12)).gated

/-- A delta page is read through the unit of its units' channel, or of its base's when the deep tier holds it, in atoms of their own (10 R230): the
unit must be in compute mode and able to start one. The model has those atoms start and end within the read (log 67). -/
def unitReady (s : State) (slot ti idx e : Nat) : Bool :=
  match (match ownSpan s slot ti idx e with
    | some x => some x
    | none => baseSpan s slot ti idx e) with
  | none => true
  | some x =>
    let ch := chanOf s x.1
    (rgnOf s (ch / 12)).modeAck && atomMayStart s (chanSt s ch)

/-- Bytes of pages that the lanes on a block hold in its page buffer. -/
def buffered (s : State) (r b : Nat) : Nat :=
  (ctxOn s r b).foldl (fun a e => match e.2.2.2.buf with
    | none => a
    | some p => a + (p.kinds.map List.length).sum) 0

/-- The channels that a lane's next read takes: those with bytes left of a read that has begun (14 R310), else all of the pair's. -/
def readChans (s : State) (q : Req) (l : Lane) (idx : Nat) (leaves : List (Nat × Nat)) : List Nat :=
  match l.part with
  | some p => (p.left.filter fun e => e.2 != 0).map (·.1)
  | none => pairChans s q.slot q.layer idx leaves

/-- What makes a lane's read wait (02 R37): a channel that is retraining, lost or held by an atom, or a delta page whose unit cannot start; for a
best-effort read a latency-critical read or an atom that goes first; a page buffer without room (06 R131). -/
def readWaits (s : State) (n r i : Nat) (q : Req) (l : Lane) (idx : Nat) (leaves : List (Nat × Nat)) : Bool :=
  let chans := readChans s q l idx leaves
  let held := buffered s r l.block
  (chans.any fun ch => decide (ch < 192) && chanHeld s ch) ||
    (leaves.any fun k => leafDelta k.2 && !unitReady s q.slot (4 * q.layer + k.1) idx k.2) ||
    (!q.lc && (rivalRead s n r i chans true || chans.any fun ch => decide (ch < 192) && atomWaits s ch)) ||
    (held != 0 && decide (524288 < held + leaves.length * dPageSize (seqOf s q.slot).desc))

/-- What a page read found, in the order it matters. -/
inductive PairGet where
  | end_ (status : Nat) (lost : Bool) | pages (l : List (Nat × Bytes))

/-- Read the pages of a pair under their leaves (05 R117, 10 R230-R232, 03 R61). -/
def readPair (s : State) (slot layer idx : Nat) : List (Nat × Walk) → PairGet
  | [] => .pages []
  | (k, w) :: rest =>
    match w with
    | .invalid => .end_ stNoPage false
    | .leaf e =>
      match pageUnder s slot (4 * layer + k) idx e with
      | .noPage => .end_ stNoPage false
      | .malformed => .end_ stInternal false
      | .corrupt => .end_ stInternal true
      | .ok b => match readPair s slot layer idx rest with
        | .pages l => .pages ((k, b) :: l)
        | o => o

/-- Add a page's bytes to the partition's read log (R199), dropping what is older than 100 µs. -/
def noteRead (p n : Nat) (s : State) : State :=
  let l := (tget [] s.readLog p).filter fun e => decide (now s < e.1 + 100000)
  { s with readLog := tput s.readLog p (l ++ [(now s, n)]) }

/-- Bytes read are charged (R310; 14 Table 14.4), and lower what the request has still to read when its work is kept (08 R199). -/
def chargeRead (n r : Nat) (bytes : Nat) (s : State) : State :=
  match tlook s.req n with
  | none => s
  | some q =>
    match tlook q.rgns r with
    | none => s
    | some x =>
      let s := noteRead q.partn bytes (acct q.tenant 64 0x10 bytes s)
      let left := if x.confirmed || x.keep then q.bytesLeft - bytes else q.bytesLeft
      let x := if q.st = .confirmed then x else { x with ahead := x.ahead + bytes }
      setReq n { q with bytesLeft := left, rgns := tput q.rgns r x } s

/-- The channel of line `l` of a page; tier port p counts as channel 192 + p, and a delta page is read through the unit of its units' channel (10 R230). -/
def lineChan (s : State) (slot ti idx e l : Nat) : Nat :=
  match readPort s slot ti idx with
  | some p => 192 + p
  | none => match ownSpan s slot ti idx e with
    | some x => chanOf s (if leafDelta e then x.1 else x.1 + 64 * l)
    | none => 0

/-- The bytes of a pair that a read takes, by channel, in whole lines. -/
def pairLines (s : State) (q : Req) (t : Tuple) (idx : Nat) (leaves : List (Nat × Nat)) : Tbl Nat :=
  let d := (seqOf s q.slot).desc
  let reads := pageReads d (patCtx q t) (spansOf (progOf s q.program).image d q t q.fallback) (idx % dPages d)
  leaves.foldl (fun acc k => (loadLines d k.1 reads).foldl (fun acc l =>
    let ch := lineChan s q.slot (4 * q.layer + k.1) idx k.2 l
    tput acc ch (tget 0 acc ch + 64)) acc) []

/-- Fetch a translation ahead (03 R60): it fills only the two TLBs, and an entry that is invalid or malformed has no effect. -/
def prefetch (slot vpn sv region block : Nat) (s : State) : State :=
  let hit := fun u => (s.tlb.find? fun e => e.unit == u && e.slot == slot && e.vpn == vpn).map (·.leaf)
  if (hit (16 + block)).isSome then s
  else
    let leaf := match hit region with
      | some e => some e
      | none =>
        match walkBy s (walkerGet s region slot) slot sv with
        | .leaf e => if leafMalformed s (seqOf s slot).desc e then none else some e
        | .invalid => none
    match leaf with
    | none => s
    | some e => { s with tlb := tlbFill (16 + block) 256 4 slot vpn e (tlbFill region 2048 8 slot vpn e s.tlb) }

/-- The translations of the page pair that a lane reads next are fetched ahead in every loaded kind while its buffer is full: the spec says that
Traverse fetches ahead of the pages a request's pattern predicts, and not how far or when (DESIGN CHOICE, log 105). -/
def prefetchNext (q : Req) (r : Nat) (l : Lane) (s : State) : State :=
  match l.pairs.drop 1 with
  | [] => s
  | idx :: _ =>
    let d := (seqOf s q.slot).desc
    (readKinds (progOf s q.program).image d).foldl (fun s k =>
      prefetch q.slot (vpnOf d (4 * q.layer + k) idx) (svAddr d q.layer k idx) r (blkKey r l.block) s) s

/-- As many of the pair's bytes are read as the weir grants; with the last of them its tiles wait in the lane's buffer. The pages are those of the first
line read (05 R117). -/
def fillBuffer (n r i idx : Nat) (q : Req) (t : Tuple) (l : Lane) (leaves : List (Nat × Nat)) (pages : List (Nat × Bytes)) (s : State) : State :=
  let d := (seqOf s q.slot).desc
  let reads := pageReads d (patCtx q t) (spansOf (progOf s q.program).image d q t q.fallback) (idx % dPages d)
  let part := l.part.getD ⟨pages, pairLines s q t idx leaves⟩
  let need := (part.left.map (·.2)).sum
  let (left, s) := grantRead r q.partn q.lc (fun ch => rivalRead s n r i [ch] false) part.left s
  let rest := (left.map (·.2)).sum
  let s := chargeRead n r (need - rest) s
  if rest ≠ 0 then (if rest = need then s else modLane n r i (fun l => { l with part := some { part with left := left } }) s)
  else
    let kinds := (List.range 4).map fun k => ((part.pages.find? fun e => e.1 == k).map (·.2)).getD []
    prefetchNext q r l <| modLane n r i (fun l => { l with
      buf := some ⟨idx, kinds⟩, part := none, tiles := tilesOf d q.nq (idx / dPages d) reads, begun := false, cell := none, retried := false }) s

/-- A sequence's page is lost on this node (04 R93): the request ends, and the sequence is reloaded. -/
def loseRead (n slot : Nat) (s : State) : State := seqLost slot (endReq n stInternal s)

/-- A walk's failure ends the request once confirmed (03 R61); run-ahead only stops the page's work (R184). -/
def readFailed (n r slot layer status : Nat) (lost confirmed : Bool) (s : State) : State :=
  if status = stNoPage then
    if confirmed then endReq n stNoPage (count (rgnCntOff r 0) s) else s
  else
    let tenant := (seqOf s slot).tenant
    if lost then
      loseRead n slot (raise (leafDeltaCorrupt r) [(20, 4, slot), (32, 2, tenant), (34, 1, layer)] s)
    else endReq n stInternal (raise (leafWalkMalformed r) [(18, 1, stInternal), (20, 4, slot), (32, 2, tenant), (34, 1, layer)] s)

/-- The address of the lines that a read outcome names: none where the pair has none such, or they carry no code. -/
def partAddr (s : State) (slot layer idx : Nat) (leaves : List (Nat × Nat)) (k : Nat) (part : ReadPart) : Option Nat :=
  let ti := 4 * layer + k
  ((leaves.find? fun e => e.1 == k).bind fun e => match part with
    | .page => (ownSpan s slot ti idx e.2).map (·.1)
    | .base => (baseSpan s slot ti idx e.2).map (·.1)
    | .node => some (leafAddr s slot (svAddr (seqOf s slot).desc layer k idx))).filter fun a => codedAt s a

/-- What a read met (04 R93; 05 R126; 02 Table 2.5): a corrected error is counted and the read goes on; another one ends the request, and this is the
state after it; the error in control state also fences the region, which its record carries (19 R466). An outcome that the pair's storage cannot have
counts as clean. -/
def readMet (n r : Nat) (q : Req) (idx : Nat) (leaves : List (Nat × Nat)) (outcome : ReadOutcome) (s : State) : Bool × State :=
  match outcome with
  | .corrected k part => match partAddr s q.slot q.layer idx leaves k.val part with
    | some a => (true, lineCorrected a s)
    | none => (true, s)
  | .uncorrectable k part => match partAddr s q.slot q.layer idx leaves k.val part with
    | some a => (false, loseRead n q.slot (lineLost a s))
    | none => (true, s)
  | .poison k => match readPort s q.slot (4 * q.layer + k.val) idx with
    | some p => (false, loseRead n q.slot (raiseCount (leafTierPoison p) (tierCntOff p 1) [] s))
    | none => (true, s)
  | .timeout k => match readPort s q.slot (4 * q.layer + k.val) idx with
    | some p => (false, endReq n stInternal (tierTimeout p s))
    | none => (true, s)
  | .stackCorrected => (true, raise (leafStackCorrected r) [] s)
  | .controlLost =>
    let s := raise { leafStackUncorrectable r with sev := 2 } [] s
    (false, fenceRegion r (logSeq s (ringRegion r)) s)
  | .clean => (true, s)
  | .abandonedMismatch => (true, s)

/-- PAGE_READ (05 R117; 04 R93, R105; 05 R126): a running lane reads its next pair in every loaded kind, once its channels serve it (02 R37). -/
def pageReadDo (n r i : Nat) (q : Req) (x : ReqRgn) (l : Lane) (t : Tuple) (idx : Nat) (outcome : ReadOutcome) (s : State) : State :=
  let ks := readKinds (progOf s q.program).image (seqOf s q.slot).desc
  let (ws, s') := walkKinds q.slot q.layer idx r (blkKey r l.block) ks s
  match readPair s' q.slot q.layer idx ws with
  | .end_ st lost => readFailed n r q.slot q.layer st lost x.confirmed s'
  | .pages pages =>
    let leaves := ws.filterMap fun e => match e.2 with
      | .leaf e' => some (e.1, e')
      | .invalid => none
    if readWaits s n r i q l idx leaves then s
    else
      let chunks := pairChunks s' q.slot q.layer idx leaves
      match abandonedIn s' chunks with
      | some a => holdRead (.lane n r i) a (outcome == .abandonedMismatch) s'
      | none =>
        match readMet n r q idx leaves outcome s' with
        | (false, s) => s
        | (true, s) => fillBuffer n r i idx q t l leaves pages (touchCodes chunks s)

/-- A request as a region's lanes work on it: a fallback is known there with the confirmation (08 R200). -/
def reqAs (q : Req) (x : ReqRgn) : Req := { q with fallback := q.fallback && x.confirmed }

/-- PAGE_READ (05 R117). In a gated region the read waits (18 R405). -/
def execPageRead (req : Nat) (r : Fin 16) (lane : Fin 8) (outcome : ReadOutcome) (s : State) : Host.Outcome State Fault Refusal :=
  .next (match tlook s.req req with
    | none => s
    | some q =>
      match tlook q.rgns r.val with
      | none => s
      | some x =>
        match tlook x.lanes lane.val, laneTuple q x with
        | some l, some t =>
          match l.pairs with
          | idx :: _ =>
            if laneReads l = true ∧ (rgnOf s r.val).gated = false then pageReadDo req r.val lane.val (reqAs q x) x l t idx outcome s else s
          | [] => s
        | _, _ => s)

/-! ## Tiles (06 R132, R152) -/

/-- The partial and counts of one row of a tile: the query row rotated at its position with the request's ROT_OFFSET, where the program has
ROTARY (07 R160, R161; 09 R205). -/
def rowTile (s : State) (q : Req) (t : Tuple) (b : PageBuf) (t0 row : Nat) : Partial × TileCounts :=
  let img := (progOf s q.program).image
  let seq := seqOf s q.slot
  let d := seq.desc
  let g := b.idx / dPages d
  let base := b.idx % dPages d * dTokens d
  let x := patCtx q t
  let sps := spansOf img d q t q.fallback
  let (hasMask, tree) := maskOf img
  let i := row / dQHeads d
  let h := row % dQHeads d
  let kvh := if dLatent d then 0 else h / (dQHeads d / dKvHeads d) - g * dHeadsPerPage d
  let scales := fun (k : Nat) => (b.kinds[k + (if dLatent d then 1 else 2)]?).getD []
  let view := fun (k : Nat) =>
    ({ d := d, k := k, page := (b.kinds[k]?).getD [], scales := scales k, params := (tenOf seq (4 * q.layer + k)).params
       group := g } : PageView)
  let qr := rotateQuery img (qPos x i + signed 32 q.rot) ((q.rows[row]?).getD { elems := [], fmt := 0, scale := 0x3F800000, rotated := none })
  tileRow img view qr h kvh t0 (tileTokens d)
    (fun k => readsToken x sps (base + k)) (fun k => visible x sps hasMask tree i (base + k)) (fun k => kPos x (base + k) - qPos x i)

/-- A row's partial after a fault that no check found (06 R151): the values it left are free. -/
def wrongPartial (n row : Nat) (p : Partial) : Partial :=
  { p with m := Config.wrongBits n (row * 2 ^ 16), l := Config.wrongBits n (row * 2 ^ 16 + 1)
           o := (List.range p.o.length).map fun i => Config.wrongBits n (row * 2 ^ 16 + 2 + i) }

/-- The overflows of a row's own conversion and rotation, at its first tile of a lane (06 R145, R148). -/
def firstOvf (s : State) (q : Req) (t : Tuple) (row : Nat) (l : Lane) : Nat :=
  if (tlook l.rows row).isSome then 0
  else match q.rows[row]? with
    | none => 0
    | some x => queryOvf (progOf s q.program).image (qPos (patCtx q t) (row / dQHeads (seqOf s q.slot).desc) + signed 32 q.rot) x

/-- Fold a tile of a row set into the lane's accumulators (06 R132). `wrong` numbers the free values of a fault that no check found. -/
def foldTile (s : State) (q : Req) (t : Tuple) (b : PageBuf) (tile : Nat × Nat) (wrong : Option Nat) (l : Lane) : Lane :=
  let d := (seqOf s q.slot).desc
  let rows := ((groupRows d q.nq (b.idx / dPages d)).drop (128 * tile.2)).take 128
  rows.foldl (fun l row =>
    let (p, c) := rowTile s q t b tile.1 row
    let p := match wrong with
      | none => p
      | some n => wrongPartial n row p
    let old := (tlook l.rows row).getD (emptyPartial p.o.length)
    { l with
      rows := tput l.rows row (foldPartial old p)
      counts := { clamped := l.counts.clamped + c.clamped, nan := l.counts.nan + c.nan
                  ovf := l.counts.ovf + firstOvf s q t row l + c.ovf + foldOvf old p } }) l

/-- After a tile: the next one, the next page, or the end of the lane, whose context is free. -/
def afterTile (l : Lane) : Lane :=
  match l.tiles with
  | _ :: t :: ts => { l with tiles := t :: ts, retried := false, cell := none }
  | _ =>
    let ps := l.pairs.drop 1
    { l with tiles := [], buf := none, pairs := ps, begun := false, retried := false, cell := none
             st := if ps.isEmpty then .done else .running }

/-- Count a retry of a cell (R152, R153); the count saturates (R9). `d` holds the fields of the tile (19 Table 19.8). -/
def cellRetry (r b c : Nat) (d : Detail) (s : State) : State :=
  let x := blkOf s r b
  raise (leafResidueRetry r) ([(16, 1, b), (17, 1, c)] ++ d) (setBlk r b { x with retry := satInc 32 x.retry } s)

/-- A cell is fenced (R152). `d` holds the fields of the tile, none at self-test. -/
def cellFence (r b c : Nat) (d : Detail) (s : State) : State :=
  let x := blkOf s r b
  raise (leafCellFenced r) ([(16, 1, b), (17, 1, c)] ++ d) (setBlk r b { x with cells := x.cells ||| (1#17 <<< c) } s)

/-- Cells of a block are fenced (R152): the spare takes the place of a lower one when it is free and sound; with no spare for it, or with two of them,
the block is fenced. The idle spare serves no place (R153). -/
def cellsFail (r b : Nat) (cells : List Nat) (d : Nat → Detail) (s : State) : State :=
  let x := blkOf s r b
  let places := cells.filter (· != 16)
  let free := !x.spare && !x.cells.getLsbD 16 && !cells.contains 16
  let s := cells.foldl (fun s c => cellFence r b c (d c) s) s
  if places.isEmpty then (if x.spare then fenceBlock r b (logSeq s r) s else s)
  else
    let s := if free then setBlk r b { blkOf s r b with spare := true } s else s
    if free && decide (places.length = 1) then s else fenceBlock r b (logSeq s r) s

/-- The cell that serves place `p` of a block: the spare in the place of a fenced one (R152). -/
def cellAt (x : Blk) (p : Nat) : Nat := if x.cells.getLsbD p then 16 else p

/-- A block works on one page at a time (R132): lane `i` of request `n` may go on with its page, or begin it when no other page is under way:
latency-critical ones first in arrival order, best-effort ones in the round of their partitions (02 R37). -/
def pageTurn (r n i : Nat) (q : Req) (l : Lane) (s : State) : Option State :=
  if l.begun then some s
  else
    let full := (ctxOn s r l.block).filter fun e => e.2.2.2.buf.isSome
    if full.any fun e => e.2.2.2.begun then none
    else
      let lcs := full.filter fun e => e.2.1.lc
      if q.lc then (lcs.head?).bind fun e => if e.1 = n ∧ e.2.2.1 = i then some s else none
      else if !lcs.isEmpty then none
      else laneTurn (pageServer r l.block) n i full (fun e => match e.2.2.2.buf with
        | none => 0
        | some b => (b.kinds.map List.length).sum) s

/-- The cell that computes a lane's first tile: the next place of the block's round robin, once (R132). -/
def giveCell (r n i : Nat) (l : Lane) (s : State) : Nat × State :=
  match l.cell with
  | some c => (c, s)
  | none =>
    let x := blkOf s r l.block
    let c := cellAt x x.next
    (c, modLane n r i (fun l => { l with begun := true, cell := some c }) (setBlk r l.block { x with next := (x.next + 1) % 16 } s))

/-- The check finds a fault of cell `c` (R151). -/
def cellFails (img : Bytes) (faults : List TileFault) (c : Nat) : Bool :=
  faults.any fun f => f.cell.val == c && faultFound (dequantMode img (bitOf f.value 0)) f.what

/-- The cells of a block whose checks fail with the tile of cell `c`, in ascending order: none where that tile passes. -/
def failedCells (img : Bytes) (c : Nat) (faults : List TileFault) : List Nat :=
  if cellFails img faults c then (List.range 17).filter (cellFails img faults) else []

/-- A fault of cell `c` that the check does not find leaves the tile wrong. -/
def tileWrong (img : Bytes) (c : Nat) (faults : List TileFault) : Bool :=
  faults.any fun f => f.cell.val == c && faultReal (dequantMode img (bitOf f.value 0)) f.what

/-- The fields of a CELL-ring record about a tile (19 Table 19.8): MODE and PASS of the fault of cell `c`, the tile's first token, SLOT and LAYER. -/
def tileDetail (s : State) (q : Req) (b : PageBuf) (tile : Nat × Nat) (faults : List TileFault) (c : Nat) : Detail :=
  let img := (progOf s q.program).image
  let d := (seqOf s q.slot).desc
  let pass := ((faults.find? fun f => f.cell.val == c && faultFound (dequantMode img (bitOf f.value 0)) f.what).map fun f => bitOf f.value 0).getD 0
  [(18, 1, dequantMode img pass), (19, 1, pass), (20, 4, b.idx % dPages d * dTokens d + tile.1), (24, 4, q.slot), (28, 1, q.layer)]

/-- A tile whose check has passed reaches the accumulator (R152); the values that an unfound fault left in it are free. -/
def tileDone (n r i : Nat) (q : Req) (t : Tuple) (b : PageBuf) (tile : Nat × Nat) (wrong : Bool) (s : State) : State :=
  if wrong then
    match takeFree s with
    | (k, s) => modLane n r i (fun l => afterTile (foldTile s q t b tile (some k) l)) s
  else modLane n r i (fun l => afterTile (foldTile s q t b tile none l)) s

/-- TILE_CHECK for a lane with a page in its buffer (R151, R152): a first failure is recomputed; a second fences the cell, and the tile is
recomputed on the spare, whose result waits for its own check, unless the block is fenced. -/
def tileCheckDo (n r i : Nat) (q : Req) (l : Lane) (t : Tuple) (b : PageBuf) (tile : Nat × Nat) (faults : List TileFault) (s : State) : State :=
  match pageTurn r n i q l s with
  | none => s
  | some s =>
    let (c, s) := giveCell r n i l s
    let img := (progOf s q.program).image
    let cells := failedCells img c faults
    let d := tileDetail s q b tile faults
    if cells.isEmpty then tileDone n r i q t b tile (tileWrong img c faults) s
    else if !l.retried then
      modLane n r i (fun l => { l with retried := true }) (cells.foldl (fun s c => cellRetry r l.block c (d c) s) s)
    else modLane n r i (fun l => { l with retried := false, cell := some 16 }) (cellsFail r l.block cells d s)

/-- TILE_CHECK (R152). -/
def execTileCheck (req : Nat) (r : Fin 16) (lane : Fin 8) (faults : List TileFault) (s : State) : Host.Outcome State Fault Refusal :=
  .next (match tlook s.req req with
    | none => s
    | some q =>
      match tlook q.rgns r.val with
      | none => s
      | some x =>
        match tlook x.lanes lane.val, laneTuple q x with
        | some l, some t =>
          match l.buf, l.tiles with
          | some b, tile :: _ => if l.st = .running ∧ (rgnOf s r.val).gated = false then tileCheckDo req r.val lane.val (reqAs q x) l t b tile faults s else s
          | some _, [] => modLane req r.val lane.val afterTile s
          | none, _ => s
        | _, _ => s)

/-! ## Folds and the result (R186, R190-R192) -/

/-- Fold the rows of `b` into those of `a` (R188). -/
def foldRows (a b : Tbl Partial) : Tbl Partial :=
  b.foldl (fun acc e => tput acc e.1 (match tlook acc e.1 with
    | some p => foldPartial p e.2
    | none => e.2)) a

/-- The overflows of folding the rows of `b` into those of `a` (06 R148). -/
def foldRowsOvf (a b : Tbl Partial) : Nat :=
  b.foldl (fun n e => n + (match tlook a e.1 with
    | some p => foldOvf p e.2
    | none => 0)) 0

/-- REGION_FOLD (R186): with every lane done and the confirmation arrived, the lane partials are folded in lane order, and the contexts' counters
are added to the region's, with the overflows of these folds (06 R148, log 41). -/
def execRegionFold (req : Nat) (r : Fin 16) (s : State) : Host.Outcome State Fault Refusal :=
  .next (match tlook s.req req with
    | none => s
    | some q =>
      match tlook q.rgns r.val with
      | none => s
      | some x =>
        if x.sent.isSome = true ∨ x.confirmed = false ∨ (x.lanes.any fun l => l.2.st != .done) = true then s
        else
          let (rows, ovf) := x.lanes.foldl (fun acc l => (foldRows acc.1 l.2.rows, acc.2 + foldRowsOvf acc.1 l.2.rows)) ([], 0)
          let sum := fun (f : TileCounts → Nat) => x.lanes.foldl (fun a l => a + f l.2.counts) 0
          let s := countN 32 (rgnCntOff r.val 19) (sum (·.clamped)) s
          let s := countN 32 (rgnCntOff r.val 20) (sum (·.nan)) s
          let s := countN 32 (rgnCntOff r.val 21) (sum (·.ovf) + ovf) s
          setReq req { q with rgns := tput q.rgns r.val { x with sent := some rows } } s)

/-- The records of a request in row order (R190, R191). -/
def resultBytes (s : State) (q : Req) (t : Tuple) (rows : Tbl Partial) : Bytes :=
  let img := (progOf s q.program).image
  let qh := dQHeads (seqOf s q.slot).desc
  let (fp32, norm) := emitOf img
  (List.range (q.nq * qh)).flatMap fun r =>
    let p := (tlook rows r).getD (emptyPartial (pOutDim img * 16))
    recordOf fp32 norm t.pgen (r / qh) (r % qh) { p with degraded := q.fallback, provisional := decide (t.c < t.e) }

/-- The result is handed to the Jexus engine, and the instance completes (R191). -/
def emitResult (n : Nat) (q : Req) (t : Tuple) (rows : Tbl Partial) (s : State) : State :=
  match busyAct s q.inst 1 with
  | none => endReq n stOk s
  | some (x, _, p) =>
    let m : OutMsg :=
      { op := 2, dst := qResEp p, tenant := x.tenant, window := qResWin p, gen := qResGen p
        offset := qResOff p + q.layer * qResStride p, imm := qResSluice p * 2 ^ 17 + q.stepTag % 2 ^ 17
        data := resultBytes s q t rows, part := some (x.part, x.lc), purpose := .result q.entry }
    let late := match q.deadline with
      | some dl => decide (dl < now s)
      | none => false
    let s := if late then count (netCntOff q.die 20) s else s
    match sendMsg q.die m s with
    | (.sent _, s) => endReq n stOk s
    | (.refused st, s) => endReq n st s

/-- NET_FOLD_EMIT (R186): with the partial of every region in service, they are folded in region order, a region that was fenced before it sent one
skipped, and EMIT forms the records. It waits while its die has all its messages in flight (11 R262). -/
def execNetFoldEmit (req : Nat) (s : State) : Host.Outcome State Fault Refusal :=
  .next (match tlook s.req req with
    | none => s
    | some q =>
      match q.tuple with
      | none => s
      | some t =>
        let parts := q.rgns.filter fun r => !rgnFenced s r.1 || r.2.sent.isSome
        if q.st ≠ .confirmed ∨ (parts.any fun r => r.2.sent.isNone) = true ∨ sendFull s q.die = true then s
        else emitResult req q t (parts.foldl (fun acc r => foldRows acc (r.2.sent.getD [])) []) s)

/-! ## Pre-emption (14 R315, R316) -/

/-- Bytes of a saved context: accumulators, m, l and count of each row. -/
def savedBytes (s : State) (q : Req) : Nat :=
  let d := (seqOf s q.slot).desc
  (groupRows d q.nq 0).length * (pOutDim (progOf s q.program).image * 16 * 4 + 12)

/-- Bytes in use of a region's pre-emption area. -/
def savedUse (s : State) (r : Nat) : Nat :=
  s.req.foldl (fun a e => match tlook e.2.rgns r with
    | none => a
    | some x => a + (x.lanes.countP fun l => l.2.st == .saved) * savedBytes s e.2) 0

/-- The victim of a block: the best-effort context whose request was confirmed last. -/
def victimOf (s : State) (r b : Nat) : Option LaneAt :=
  (ctxOn s r b).foldl (fun best e =>
    if e.2.1.lc then best
    else match best with
      | none => some e
      | some v => if v.2.1.order < e.2.1.order then some e else best) none

/-- The latency-critical lane that is to have the victim's context: the first that waits (R308) whose partition stays within its limit once the victim has left
(R311). -/
def preemptor (s : State) (r b : Nat) (victim : LaneAt) : Option LaneAt :=
  (lanesWhere s r fun q l => q.lc && l.st == .waiting && l.block == b).find? fun e =>
    decide ((ctxOn s r b).countP (fun c => c.2.1.partn == e.2.1.partn) < ctxLimit s e.2.1.partn + (if victim.2.1.partn = e.2.1.partn then 1 else 0))

/-- PREEMPT (R315): a latency-critical request, the first that waits (R308), waits for a context of a block whose 32 contexts are all held. The victim
is saved at a page boundary and its context given; with the pre-emption area full, PREEMPT_NO_ROOM. -/
def execPreempt (req : Nat) (r : Fin 16) (block : Fin 8) (s : State) : Host.Outcome State Fault Refusal :=
  .next (match tlook s.req req with
    | none => s
    | some q =>
      match tlook q.rgns r.val, victimOf s r.val block.val with
      | some x, some (vn, vq, vi, vl) =>
        let held := ctxOn s r.val block.val
        match x.lanes.find? fun l => l.2.st == .waiting && l.2.block == block.val with
        | none => s
        | some (i, _) =>
          if ((preemptor s r.val block.val (vn, vq, vi, vl)).map fun e => (e.1, e.2.2.1)) ≠ some (req, i) ∨ held.length < 32 ∨ vl.buf.isSome = true ∨ vl.part.isSome = true ∨
              (rgnOf s r.val).gated = true then s
          else if 4194304 < savedUse s r.val + savedBytes s vq then
            raiseCount (leafPreemptNoRoom r.val) (rgnCntOff r.val 16) [(16, 1, block.val), (20, 4, vq.slot)] s
          else
            let s := modLane vn r.val vi (fun l => { l with st := .saved, savedAt := now s }) s
            let s := acct vq.tenant 32 0x1C 1 s
            noteWait req (takeContext req r.val i block.val s)
      | _, _ => s)

/-- CONTEXT_RESUME (R316): a free context and no latency-critical request waiting for one; the saved lane that the round of R311 comes to next. In a
gated region it waits (18 R405). -/
def execContextResume (r : Fin 16) (block : Fin 8) (s : State) : Host.Outcome State Fault Refusal :=
  .next (
    if (rgnOf s r.val).gated then s
    else
      let saved := (beWaiting s r.val block.val).filter fun e => e.2.2.2.st == .saved
      match saved.findSome? fun e => (ctxTurn r.val block.val e.1 e.2.2.1 false s).map fun s' => (e, s') with
      | none => s
      | some ((n, q, i, l), s) =>
        let s := acct q.tenant 64 8 (now s - l.savedAt) s
        modLane n r.val i (fun l => { l with st := .running, block := block.val }) s)

end Sys2Proof.Machine
end

