-- ==== Sys2Proof/Machine/Posting.lean ====
section
/-! DEFINITION. Sluice commands and instances (12 R277-R289): posting and its checks, cancelling, re-arming, instances, the delivery of immediates,
and the combiner (08 R194-R196). -/

namespace Sys2Proof.Machine

/-! ## Checks of a staging slot (12 R281, R282) -/

/-- A 48-bit offset in an 8-byte field that is no multiple of `n`, or with bits above 47 set. -/
def offBad (p : Bytes) (o n : Nat) : Bool := rd p (o + 6) 2 != 0 || rd p o 6 % n != 0

/-- QUERY parameters break 08 Table 8.1. -/
def queryParamBad (p : Bytes) : Bool :=
  qFmt p == 3 || bits (rd p 9 1) 7 4 != 0 || bits (rd p 12 4) 31 25 != 0 || bits (rd p 16 4) 31 25 != 0 || offBad p 24 64 ||
  qStride p % 64 != 0 || rd p 71 1 != 0 || bits (rd p 72 2) 15 14 != 0 || bitAt (rd p 82 2) 15 || qResStride p % 16 != 0 || !zeroAt p 88 24

/-- APPEND parameters break 09 Table 9.1. -/
def appendParamBad (p : Bytes) : Bool :=
  bits (rd p 9 1) 7 1 != 0 || rd p 12 6 % 64 != 0 || bits (rd p 18 1) 7 6 != 0 || rd p 19 1 != 0 || rd p 20 4 % 64 != 0 ||
  decide (rd p 20 4 < 192) || !zeroAt p 24 88

/-! COMBINE parameters (08 Table 8.6). -/
abbrev kN (p : Bytes) : Nat := rd p 0 1 + 1
abbrev kRecords (p : Bytes) : Nat := bits (rd p 2 2) 11 0 + 1
abbrev kDim (p : Bytes) : Nat := bits (rd p 4 1) 5 0 * 16
abbrev kInFp32 (p : Bytes) : Bool := bitAt (rd p 5 1) 0
abbrev kOutFp32 (p : Bytes) : Bool := bitAt (rd p 5 1) 1
abbrev kOutNorm (p : Bytes) : Bool := bitAt (rd p 5 1) 2
abbrev kGen (p : Bytes) : Nat := rd p 6 2
abbrev kBase (p : Bytes) : Nat := rd p 8 6
abbrev kStride (p : Bytes) : Nat := rd p 16 4
abbrev kTimeout (p : Bytes) : Nat := rd p 20 4

/-- Bytes of a contribution. -/
def contribLen (p : Bytes) : Nat := kRecords p * recordSize (kInFp32 p) (kDim p)

/-- COMBINE parameters break 08 Table 8.6. -/
def combineParamBad (p : Bytes) : Bool :=
  rd p 1 1 != 0 || bits (rd p 2 2) 15 12 != 0 || bits (rd p 4 1) 7 6 != 0 || decide (kDim p < 32) || decide (576 < kDim p) ||
  bits (rd p 5 1) 7 3 != 0 || offBad p 8 64 || kStride p % 64 != 0 || decide (kStride p < contribLen p) ||
  decide (kTimeout p < 10000) || decide (10000000 < kTimeout p) || rd p 27 1 != 0 || bits (rd p 28 2) 15 14 != 0 ||
  bitAt (rd p 38 2) 15 || !zeroAt p 40 72

/-- The parameters of an action break the table that Table 12.5 names, or a reserved byte is not zero. -/
def paramBad (op : Nat) (p : Bytes) : Bool :=
  match op with
  | 0x01 => queryParamBad p
  | 0x02 => appendParamBad p
  | 0x03 => combineParamBad p
  | 0x04 => rd p 3 1 != 0 || bits (rd p 4 2) 15 14 != 0 || !zeroAt p 14 2 || !zeroAt p 22 2 || bitAt (rd p 24 2) 15 ||
      bits (rd p 26 2) 15 14 != 0 || !zeroAt p 30 82
  | 0x05 => rd p 3 1 != 0 || bits (rd p 4 2) 15 14 != 0 || !zeroAt p 14 2 || bitAt (rd p 16 2) 15 || !zeroAt p 18 94
  | 0x06 => !zeroAt p 80 32
  | 0x07 => bits (rd p 9 1) 7 3 != 0 || !zeroAt p 10 102
  | 0x08 => !zeroAt p 16 96
  | 0x09 => !zeroAt p 8 104
  | 0x0A => bits (rd p 0 1) 7 1 != 0 || !zeroAt p 1 3 || bits (rd p 4 4) 31 20 != 0 || rd p 27 1 != 0 ||
      bits (rd p 28 2) 15 14 != 0 || rd p 32 6 % 32 != 0 || !zeroAt p 38 74
  | 0x0B => bits (rd p 9 1) 7 3 != 0 || !zeroAt p 10 102
  | 0x0C => bits (rd p 9 1) 3 2 != 0 || bits (rd p 9 1) 7 6 != 0 || bits (rd p 9 1) 5 4 == 3 || !zeroAt p 10 102
  | 0x0D => bits (rd p 0 1) 7 1 != 0 ||
      (if bitAt (rd p 0 1) 0 then !zeroAt p 1 7 || bits (rd p 25 1) 7 3 != 0 || (bitAt (rd p 25 1) 2 && !zeroAt p 16 8) || !zeroAt p 26 86
       else rd p 1 1 != 0 || rd p 3 1 != 0 || !zeroAt p 6 2 || bits (rd p 17 1) 7 2 != 0 || !zeroAt p 18 94)
  | 0x0E => !zeroAt p 0 112
  | 0x0F => rd p 1 1 != 0 || !zeroAt p 4 108
  | 0x10 => decide (5 < rd p 0 1) || !zeroAt p 1 7 || rd p 8 6 % 65536 != 0 || rd p 8 6 == 0 || decide (268435456 < rd p 8 6) || !zeroAt p 14 98
  | 0x11 => bits (rd p 0 2) 15 14 != 0 || !zeroAt p 4 108
  | 0x12 => decide (319 < rd p 0 2) || !zeroAt p 2 110
  | _ => true

/-- The window kind that a consuming action needs (R281). -/
def kindFor (op : Nat) : Option Nat := if op = 1 then some 0 else if op = 2 then some 1 else if op = 3 then some 4 else none

/-- The chain breaks R281, its rule on the kind of ENABLE_WINDOW apart. -/
def chainBad (b : Bytes) : Bool :=
  aWith b 0 || (List.range (eNActions b)).any fun k =>
    let op := aOp b k
    (if op = 1 ∨ op = 2 ∨ op = 3 then k != 0 || eEnable b != 0 else false) ||
    (if op = 4 then k != 1 || !aWith b 1 || aOp b 0 != 2 || bitAt (rd (aParams b 0) 9 1) 0 else false)

/-- An action slot breaks Table 12.3 or its parameter table. -/
def slotBad (b : Bytes) (k : Nat) : Bool :=
  bits (rd b (65 + 120 * k) 1) 7 1 != 0 || !zeroAt b (66 + 120 * k) 6 || paramBad (aOp b k) (aParams b k)

/-- Check 1 of R282 on the staged bytes `b` of a tenant with partition mask `mask`. -/
def stagedBad (mask : Nat) (b : Bytes) : Bool :=
  let n := eNActions b
  rd b 0 1 != 1 || bits (rd b 1 1) 7 4 != 0 || n == 0 || decide (8 < n) || bits (rd b 2 1) 7 3 != 0 || decide (4 < eEnable b) ||
  rd b 3 1 != 0 || (eEnable b == 1 && eUses b != 1) || bitAt (rd b 6 1) 6 || !bitAt mask (ePart b) || rd b 7 1 != 0 ||
  bits (rd b 8 2) 15 14 != 0 || bitAt (rd b 12 2) 15 || (eEnable b == 3 && decide (31 < eSource b)) ||
  (eEnable b == 4 && decide (319 < eSource b)) || bits (rd b 14 1) 7 4 != 0 || decide (12 < eRingLog2 b) || rd b 15 1 != 0 ||
  rd b 19 1 != 0 || bits (rd b 20 2) 15 14 != 0 || eCOffset b % 64 != 0 || !zeroAt b 30 2 || bits (rd b 32 2) 15 12 != 0 ||
  !zeroAt b 35 29 || (List.range n).any (slotBad b) || !zeroAt b (64 + 120 * n) (960 - 120 * n) || chainBad b

/-- The partitions a tenant's entries may name; firmware's entries may name any. -/
def maskOfTenant (s : State) (t : Nat) : Nat :=
  if t = 0 then 2 ^ 64 - 1
  else match slotNo s t with
    | some k => tget 0 s.traffic.mask k
    | none => 0

/-- Checks 1 to 5 of R282: the status of the first that fails. -/
def postCheck (s : State) (tenant : Nat) (b : Bytes) : Option Nat :=
  let w := winOf s (eEnWindow b)
  if stagedBad (maskOfTenant s tenant) b then some stMalformed
  else if chainPriv b &&& tenantPriv s tenant ≠ chainPriv b then some stAccess
  else if eEnable b ≠ 0 then none
  else if w.st ≠ .free ∧ w.tenant ≠ tenant then some stAccess
  else if w.st ≠ .active ∨ winGen s (eEnWindow b) ≠ eEnGen b then some stStateConflict
  else match kindFor (aOp b 0) with
    | some k => if w.kind = k then none else some stMalformed
    | none => none

/-- The staged bytes with TENANT and PRIV as the YC64 writes them. -/
def withOwner (s : State) (tenant : Nat) (b : Bytes) : Bytes := put b 32 (leBytes 2 tenant ++ leBytes 1 (tenantPriv s tenant))

/-- What a sluice command answers: status and REPEAT, whether its record waits until the entry is FREE. -/
structure SluAns where
  status : Nat
  rep : Bool := false
  wait : Bool := false

/-- The refusal of a command by the entry's state, logged under R76. -/
def sluConflict (x tenant code : Nat) (msg : Option EnMsg) (s : State) : SluAns × State :=
  ({ status := stStateConflict }, refuseN (x % 4) tenant 2 (entryCode (entryOf s x).st) (0x40 + code) x msg s)

/-- POST of the bytes `b` to entry `x` of a tenant (R282, Table 12.8). -/
def postDo (x tenant : Nat) (b : Bytes) (msg : Option EnMsg) (s : State) : SluAns × State :=
  match postCheck s tenant b with
  | some st => if st = stStateConflict then sluConflict x tenant 1 msg s else ({ status := st }, s)
  | none =>
    let e := entryOf s x
    match e.st with
    | .draining => sluConflict x tenant 1 msg s
    | .armed =>
      if put b 32 [0, 0, 0] = put e.bytes 32 [0, 0, 0] then ({ status := stOk, rep := true }, s) else sluConflict x tenant 1 msg s
    | .free =>
      ({ status := stOk }, setEntryRec x
        { e with st := .armed, bytes := withOwner s tenant b, limited := eUses b != 0, left := eUses b, seqno := 0, last := none } s)

/-- Close a combiner step (08 R196, R289): it forwards nothing more, and its record carries a status and the step tag. -/
def closeStep (x parity status : Nat) (s : State) : State :=
  let e := entryOf s x
  match tlook e.steps parity with
  | none => s
  | some st =>
    let s := setEntryRec x { e with steps := tdel e.steps parity } s
    postedRec x status 3 0 false false false st.step st.msgId 0 st.lc s

/-- CANCEL or RETIRING (R289): the entry drains, and every open step closes with ST_RETRY. -/
def cancelEntry (x : Nat) (s : State) : State := closeStep x 1 stRetry (closeStep x 0 stRetry (drainEntry x s))

/-- CANCEL (Table 12.8). -/
def cancelDo (x : Nat) (s : State) : SluAns × State :=
  match (entryOf s x).st with
  | .free => ({ status := stOk }, s)
  | .armed => ({ status := stOk, wait := true }, cancelEntry x s)
  | .draining => ({ status := stOk, wait := true }, s)

/-- REARM (Table 12.8). -/
def rearmDo (x tenant n : Nat) (msg : Option EnMsg) (s : State) : SluAns × State :=
  let e := entryOf s x
  match e.st with
  | .armed => ({ status := stOk }, if e.limited then setEntryRec x { e with left := min 65535 (e.left + n) } s else s)
  | _ => sluConflict x tenant 3 msg s

/-- The record of a command that came as a message: to the staged destination when the entry is FREE, else its next record. -/
def sluRecord (x tenant : Nat) (a : SluAns) (msgId : Nat) (s : State) : State :=
  let e := entryOf s x
  if a.wait then setEntryRec x { e with cancelMsgs := e.cancelMsgs ++ [msgId] } s
  else if e.st = .free then stagedRec x tenant a.status (stagedBytes s x) 0 msgId s
  else postedRec x a.status 0 0 true a.rep false 0 msgId 0 (eClass e.bytes) s

/-- An ON_POST entry that has been posted starts its one instance (R282). -/
def onPost (x : Nat) (posted : Bool) (s : State) : State :=
  if posted && eEnable (entryOf s x).bytes == 1 then acceptEnable x 0 none (eClass (entryOf s x).bytes) s else s

/-- The first delivered command of entry `x`, when it has code `code`. -/
def nextCmd (s : State) (x code : Nat) : Option SluCmd :=
  match s.slu.cmds.find? fun c => c.entry == x with
  | some c => if c.code = code then some c else none
  | none => none

/-- Take a delivered command off the list. -/
def dropCmd (c : SluCmd) (s : State) : State := { s with slu := { s.slu with cmds := s.slu.cmds.erase c } }

/-- The tenant of the range that holds entry `x`. -/
def rangeTenant (s : State) (x : Nat) : Nat := ((stagingOf s x).map (·.2.1)).getD 0

/-- SLUICE_POST (R282). -/
def execSluicePost (entry : Fin 32768) (s : State) : Host.Outcome State Fault Refusal :=
  let x := entry.val
  .next (match nextCmd s x 1 with
    | none => s
    | some c =>
      let t := rangeTenant s x
      let free := (entryOf s x).st == .free
      match postDo x t (stagedBytes s x) (some c.msg) (dropCmd c s) with
      | (a, s) => onPost x (free && a.status == stOk) (sluRecord x t a c.msg.id s))

/-- SLUICE_CANCEL (R288). -/
def execSluiceCancel (entry : Fin 32768) (s : State) : Host.Outcome State Fault Refusal :=
  let x := entry.val
  .next (match nextCmd s x 2 with
    | none => s
    | some c => match cancelDo x (dropCmd c s) with
      | (a, s) => sluRecord x (rangeTenant s x) a c.msg.id s)

/-- SLUICE_REARM (R288). -/
def execSluiceRearm (entry : Fin 32768) (s : State) : Host.Outcome State Fault Refusal :=
  let x := entry.val
  .next (match nextCmd s x 3 with
    | none => s
    | some c => match rearmDo x (rangeTenant s x) c.count (some c.msg) (dropCmd c s) with
      | (a, s) => sluRecord x (rangeTenant s x) a c.msg.id s)

/-- INSTANCE_START (R283): the oldest enable of a die takes an instance record. One whose message was yellow runs as best-effort and is counted
(14 Table 14.2). -/
def execInstanceStart (die : Fin 4) (s : State) : Host.Outcome State Fault Refusal :=
  .next (match tget [] s.slu.queue die.val with
    | [] => s
    | q :: rest =>
      if 8192 ≤ tcount s.slu.inst (fun _ i => i.die == die.val) then s
      else
        let e := entryOf s q.entry
        let b := e.bytes
        let s := if eClass b && !q.lc then acct (eTenant b) 32 0x28 1 s else s
        let x : Inst :=
          { entry := q.entry, die := die.val, tenant := eTenant b, part := ePart b, lc := q.lc, priv := ePriv b, arg := q.arg
            msg := q.msg, at_ := q.at_, bytes := b
            acts := startNext b 0 .okay (List.replicate (eNActions b) .waiting), reads := q.msg.isSome && consumes b }
        (newInst x { s with slu := { s.slu with queue := tset [] s.slu.queue die.val rest } }).2)

/-- SLUICE_ENTRY_FREE (R288): a DRAINING entry on which nothing runs, waits or is open; the records of its CANCELs are written. The entry keeps
the bytes it was posted with, by which Table 12.8's events find it while it is FREE (log 53). -/
def execSluiceEntryFree (entry : Fin 32768) (s : State) : Host.Outcome State Fault Refusal :=
  let x := entry.val
  .next (
    let e := entryOf s x
    if e.st ≠ .draining ∨ instancesOf s x ≠ 0 ∨ e.steps.isEmpty = false then s
    else
      let s := e.cancelMsgs.foldl (fun s m => postedRec x stOk 0 0 true false false 0 m 0 (eClass e.bytes) s) s
      setEntryRec x { bytes := e.bytes, cMalformed := e.cMalformed, cGen := e.cGen, cDup := e.cDup, cTimeout := e.cTimeout, cStale := e.cStale } s)

/-! ## Delivery of an immediate (11 R247; 12 R278, R280) -/

/-- A record under a limit: it may be written when `ns` has passed since the last one of its key. -/
def limited (key ns : Nat) (s : State) : Bool × State :=
  let fresh := match tlook s.log.limits key with
    | none => true
    | some t => decide (t + ns ≤ now s)
  if fresh then (true, { s with log := { s.log with limits := tput s.log.limits key (now s) } }) else (false, s)

/-- A command to a SLUICE window is delivered: outside the tenant's range it is discarded; a reserved code is answered at once; else it waits for its
turn. -/
def deliverCmd (tenant imm : Nat) (m : EnMsg) (s : State) : State :=
  let x := bits imm 31 17
  let code := bits imm 16 14
  let mine := match slotOfTenant s tenant with
    | some (_, k) => decide (k.sluiceBase ≤ x) && decide (x < k.sluiceBase + k.sluiceCount)
    | none => false
  if !mine then count (netCntOff (x % 4) 14) s
  else if code = 0 ∨ 3 < code ∨ (code ≠ 3 ∧ bits imm 13 0 ≠ 0) ∨ (code = 3 ∧ bits imm 13 0 = 0) then
    sluRecord x tenant { status := stMalformed } m.id s
  else { s with slu := { s.slu with cmds := s.slu.cmds ++ [⟨x, code, bits imm 13 0, m⟩] } }

/-- An immediate that is not a sluice command takes the first row of R280 that applies. -/
def deliverEnable (tenant imm : Nat) (yellow : Bool) (m : EnMsg) (s : State) : State :=
  let x := bits imm 31 17
  let arg := bits imm 16 0
  let e := entryOf s x
  let b := e.bytes
  if e.st = .free ∨ eEnable b ≠ 0 ∨ eTenant b ≠ tenant ∨ eEnWindow b ≠ m.window ∨ eEnGen b ≠ m.gen then
    match limited (3 * 2 ^ 48 + x % 4 * 2 ^ 24 + m.src) 100000000 (count (netCntOff (x % 4) 14) s) with
    | (true, s) => raise (leafSluiceMismatch (x % 4)) [(28, 4, m.src), (32, 4, m.id)] s
    | (false, s) => s
  else if e.st = .draining ∨ (e.limited = true ∧ e.left = 0) then
    postedRec x stStateConflict 0 0 false false false arg m.id 0 (eClass b)
      (refuseN (x % 4) tenant 2 (entryCode e.st) (aOp b 0) x (some m) s)
  else if chainPriv b &&& tenantPriv s tenant ≠ chainPriv b then
    postedRec x stAccess 0 0 false false false arg m.id 0 (eClass b) s
  else
    acceptEnable x arg (some m) (eClass b && !yellow) s

/-- The immediate of a WRITE_IMM is delivered (11 R247). -/
def deliverImm (tenant imm : Nat) (yellow : Bool) (m : EnMsg) (s : State) : State :=
  if (winOf s m.window).kind = 3 then deliverCmd tenant imm m s else deliverEnable tenant imm yellow m s

/-! ## The combiner (08 R194-R196) -/

/-- QH as the records of a contribution give it: the first record of query token 1, or all of them. Table 8.6 does not hold QH, by which a
record's position gives its QUERY_TOKEN and QUERY_HEAD (DEDUCED, log 102). -/
def contribQh (p b : Bytes) : Nat :=
  let size := recordSize (kInFp32 p) (kDim p)
  (findFrom 1 (kRecords p - 1) fun j => bits (rd b (j * size + 14) 1) 3 0 != 0).getD (kRecords p)

/-- A record's QUERY_TOKEN and QUERY_HEAD differ from its position. -/
def contribPlaces (p b : Bytes) : Bool :=
  let size := recordSize (kInFp32 p) (kDim p)
  let qh := contribQh p b
  (List.range (kRecords p)).any fun j =>
    bits (rd b (j * size + 14) 1) 3 0 != j / qh || rd b (j * size + 15) 1 != j % qh

/-- Some record's PLACEMENT_GEN differs from EXPECTED_GEN. -/
def contribGen (p b : Bytes) : Bool :=
  let size := recordSize (kInFp32 p) (kDim p)
  (List.range (kRecords p)).any fun j => rd b (j * size + 12) 2 != kGen p

/-- The combined records of a full step (R196). -/
def combined (p : Bytes) (slots : Tbl Bytes) : Bytes :=
  let size := recordSize (kInFp32 p) (kDim p)
  let qh := contribQh p ((slots.head?.map (·.2)).getD [])
  (List.range (kRecords p)).flatMap fun j =>
    let ps := slots.map fun e => partialOf (kInFp32 p) (kDim p) (slice e.2 (j * size) size)
    recordOf (kOutFp32 p) (kOutNorm p) (kGen p) (j / qh) (j % qh) (ps.foldl foldPartial (emptyPartial (kDim p)))

/-- A step of entry `x` whose slots are all filled: its result is sent and it closes (R196). -/
def finishStep (x parity : Nat) (p : Bytes) (s : State) : State :=
  let e := entryOf s x
  match tlook e.steps parity with
  | none => s
  | some st =>
    if st.slots.length < kN p then s
    else
      let m : OutMsg :=
        { op := 2, dst := bits (rd p 24 4) 23 0, tenant := entryTenant e, window := bits (rd p 28 2) 13 0, gen := rd p 30 2
          offset := rd p 32 6, imm := bits (rd p 38 2) 14 0 * 2 ^ 17 + st.step, data := combined p st.slots
          part := some (ePart e.bytes, st.lc), purpose := .result x }
      match sendMsg (x % 4) m s with
      | (.sent _, s) => closeStep x parity stOk s
      | (.refused status, s) => closeStep x parity status s

/-- The slot of its step that a contribution's place names. -/
def contribSlot (p : Bytes) (m : EnMsg) (arg : Nat) : Option Nat :=
  let place := m.offset - kBase p
  let first := arg % 2 * kN p
  let k := place / kStride p - first
  if m.offset < kBase p ∨ place % kStride p ≠ 0 ∨ place / kStride p < first ∨ kN p ≤ k then none else some k

/-- The contribution fills the last open slot of its step, so its step's result is sent. -/
def fillsStep (p b : Bytes) (m : EnMsg) (x arg : Nat) (s : State) : Bool :=
  m.len == contribLen p && !contribPlaces p b && !contribGen p b &&
  match contribSlot p m arg, tlook (entryOf s x).steps (arg % 2) with
  | none, _ => false
  | some _, none => kN p == 1
  | some k, some st => st.step == arg && (tlook st.slots k).isNone && st.slots.length + 1 == kN p

/-- File or discard a contribution (R194, R195). One whose place is no slot of its step's parity is discarded and counted COMBINE_MALFORMED: the
spec gives it no outcome (DESIGN CHOICE, log 101). -/
def fileContrib (x : Nat) (p b : Bytes) (m : EnMsg) (arg : Nat) (lc : Bool) (s : State) : State :=
  let e := entryOf s x
  let parity := arg % 2
  match contribSlot p m arg with
  | none => setEntryRec x { e with cMalformed := satInc 32 e.cMalformed } s
  | some k =>
  if m.len ≠ contribLen p ∨ contribPlaces p b = true then setEntryRec x { e with cMalformed := satInc 32 e.cMalformed } s
  else if contribGen p b then setEntryRec x { e with cGen := satInc 32 e.cGen } s
  else
    match tlook e.steps parity with
    | none =>
      let st : CombineStep := { step := arg, slots := [(k, b)], opened := now s, msgId := m.id, lc := lc }
      finishStep x parity p (setEntryRec x { e with steps := tput e.steps parity st } s)
    | some st =>
      if st.step ≠ arg then setEntryRec x { e with cStale := satInc 32 e.cStale } s
      else if (tlook st.slots k).isSome then setEntryRec x { e with cDup := satInc 32 e.cDup } s
      else finishStep x parity p (setEntryRec x { e with steps := tput e.steps parity { st with slots := tput st.slots k b, msgId := m.id } } s)

/-- COMBINE (R195): the instance's contribution is filed or discarded. One that fills its step waits while the die has all its messages in flight
(11 R262). -/
def execCombine (inst : Nat) (s : State) : Host.Outcome State Fault Refusal :=
  .next (match startedAct s inst 3 with
    | none => s
    | some (x, k, p) =>
      match x.msg with
      | none => s
      | some m =>
        let b := enabledBytes s m
        if fillsStep p b m x.entry x.arg s = true ∧ sendFull s (x.entry % 4) = true then s
        else actEnd inst k stOk (fileContrib x.entry p b m x.arg x.lc (doneReading inst s)))

/-- COMBINE_TIMEOUT (R196): nothing is forwarded, and the record carries ST_RETRY. -/
def execCombineTimeout (entry : Fin 32768) (parity : Fin 2) (s : State) : Host.Outcome State Fault Refusal :=
  let x := entry.val
  .next (
    let e := entryOf s x
    match tlook e.steps parity.val with
    | none => s
    | some st =>
      if now s < st.opened + kTimeout (aParams e.bytes 0) then s
      else closeStep x parity.val stRetry (setEntryRec x { e with cTimeout := satInc 32 e.cTimeout } s))

end Sys2Proof.Machine
end

