-- ==== Sys2Proof/Machine/Ack.lean ====
section
/-! DEFINITION. Acknowledgements and refusals of packets (11 R260, R264, R265). -/

namespace Sys2Proof.Machine

/-- The owner die of a message (11 R254). -/
def ownerDie (h : JxHdr) : Nat := h.msgId.toNat % 4

/-- The key of a message of another endpoint in the filters and trackers. -/
def msgKey (src id : Nat) : Nat := src * 2 ^ 32 + id

/-- A unicast IP address, IPv4 as ::ffff:a.b.c.d. -/
def unicastAddr (a : BitVec 128) : Bool :=
  let n := a.toNat
  if n / 2 ^ 32 = 0xFFFF then n % 2 ^ 32 != 0 && decide (n % 2 ^ 32 / 2 ^ 28 < 14)
  else n != 0 && n / 2 ^ 120 != 0xFF

/-- The path of the answer to a packet (R260). -/
def answerPath (s : State) (h : JxHdr) : Nat := (h.msgId.toNat % 64 + h.pktIndex.toNat) % pathCount s

/-- An ACK entry (Table 11.7): MSG_ID, first packet, COUNT_M1, DONE. -/
def ackEntry (e : Nat × Nat × Nat × Bool) : Bytes := leBytes 8 (e.1 + e.2.1 * 2 ^ 32 + e.2.2.1 * 2 ^ 43 + bitOf e.2.2.2 54)

/-- Send the acknowledgements that wait for an endpoint. -/
def flushAck (ep : Nat) (s : State) : State :=
  match tlook s.jx.ack ep with
  | none => s
  | some b => sendBack 0x10 ep b.path b.addr b.ce (b.entries.flatMap ackEntry) { s with jx := { s.jx with ack := tdel s.jx.ack ep } }

/-- Join one packet to the entries: a run of one message grows. -/
def joinRun (l : List (Nat × Nat × Nat × Bool)) (id i : Nat) (done : Bool) : List (Nat × Nat × Nat × Bool) :=
  match l.getLast? with
  | some (id', f, c, false) => if id' = id ∧ f + c + 1 = i then l.dropLast ++ [(id, f, c + 1, done)] else l ++ [(id, i, 0, done)]
  | _ => l ++ [(id, i, 0, done)]

/-- Acknowledge a packet (R260): its entry joins those of its endpoint, and 128 entries are sent at once. -/
def ackPacket (f : RxFrame) (done : Bool) (s : State) : State :=
  let ep := f.hdr.src.toNat
  let b : AckBuf := (tlook s.jx.ack ep).getD
    { addr := f.srcAddr, path := answerPath s f.hdr, entries := [], ce := false, since := now s }
  let b := { b with entries := joinRun b.entries f.hdr.msgId.toNat f.hdr.pktIndex.toNat done, ce := b.ce || f.ce }
  let s := { s with jx := { s.jx with ack := tput s.jx.ack ep b } }
  if 128 ≤ b.entries.length then flushAck ep s else s

/-- ACK_COALESCE_EXPIRE (R260): entries have waited 2 µs. -/
def execAckCoalesceExpire (endpoint : BitVec 24) (s : State) : Host.Outcome State Fault Refusal :=
  .next (match tlook s.jx.ack endpoint.toNat with
    | none => s
    | some b => if awake s = true ∧ b.since + 2000 ≤ now s then flushAck endpoint.toNat s else s)

/-- The NAK body (Table 11.8). -/
def nakBytes (h : JxHdr) (status info : Nat) : Bytes :=
  leBytes 1 status ++ leBytes 1 h.opcode.toNat ++ leBytes 2 h.pktIndex.toNat ++ leBytes 4 h.msgId.toNat ++ leBytes 4 info ++ [0, 0, 0, 0]

/-- A NAK may answer this packet (R264): no response, ACK or NAK, and a valid return address. -/
def nakable (f : RxFrame) : Bool :=
  !isResponse f.hdr.opcode.toNat && f.hdr.opcode != 0x10 && f.hdr.opcode != 0x11 && f.hdr.version == 1 && unicastAddr f.srcAddr

/-- Refuse a packet with a NAK (R264): one with ST_MALFORMED per source endpoint per 10 µs. -/
def sendNak (f : RxFrame) (status info : Nat) (s : State) : State :=
  if !nakable f then s
  else
    let ep := f.hdr.src.toNat
    let go := fun (s : State) => sendBack 0x11 ep (answerPath s f.hdr) f.srcAddr false (nakBytes f.hdr status info) s
    if status = stMalformed then
      match limited (2 * 2 ^ 48 + ep) 10000 s with
      | (true, s) => go s
      | (false, s) => count (netCntOff (ownerDie f.hdr) 11) s
    else go s

/-- A suggested back-off, which the manual does not give: a free value (log 36). -/
def freeInfo (s : State) : Nat × State :=
  let (n, s) := takeFree s
  ((Config.freeBits 32 n).toNat, s)

/-- Refuse a packet with a status that suggests a back-off. -/
def sendNakFree (f : RxFrame) (status : Nat) (s : State) : State :=
  let (info, s) := freeInfo s
  sendNak f status info s

end Sys2Proof.Machine
end

