-- ==== Sys2Proof/Machine/Drain.lean ====
section
/-! DEFINITION. The memory that a DMA side names (13 R294) and the count DRAIN of a key slot: the work that can still use its keys (17 R386). -/

namespace Sys2Proof.Machine

/-! ## Sides -/

/-- The unit that an address names (region or tier port), its offset there, and the bytes of the unit that may be used (Table 13.3); 0
bytes when the region or port is out of service. -/
def sideUnit (s : State) (x : DmaSide) : Nat × Nat × Nat :=
  match x.kind with
  | 0 => (bits x.addr 43 40, bits x.addr 39 0, if rgnFenced s (bits x.addr 43 40) then 0 else localTop s (bits x.addr 43 40))
  | 1 => (bits x.addr 42 41, bits x.addr 40 0,
      if (tierOf s (bits x.addr 42 41)).inService && !bitAt x.addr 43 then (tierOf s (bits x.addr 42 41)).capUsed * 2 ^ 30 else 0)
  | _ => (bits x.addr 43 40, bits x.addr 39 0, if rgnFenced s (bits x.addr 43 40) then 0 else 192 * 2 ^ 20)

/-- The lowest and highest byte of lines 0 and LINES − 1, as offsets in the unit. -/
def sideExtent (s : State) (x : DmaSide) : Int × Int :=
  let o : Int := ((sideUnit s x).2.1 : Nat)
  let e := o + ((x.lines - 1 : Nat) : Int) * x.stride
  (min o e, max o e + (x.len : Nat) - 1)

/-! ## DRAIN (17 R386) -/

/-- A side of a run lies on storage of a tenant. -/
def sideMeets (s : State) (tenant : Nat) (x : DmaSide) : Bool :=
  let (u, _, _) := sideUnit s x
  let (lo, hi) := sideExtent s x
  let meets := fun (t : Tbl Store) (base : Nat) => t.any fun e =>
    e.2.tenant == tenant && decide (((e.1 : Nat) : Int) ≤ (base : Int) + hi) && decide ((base : Int) + lo < ((e.1 + e.2.size : Nat) : Int))
  match x.kind with
  | 0 => meets s.sto.fast (u * 2 ^ 40)
  | 1 => meets s.sto.deep (u * 2 ^ 41)
  | _ => false

/-- Contexts of a request that a block or the pre-emption area holds. -/
def heldContexts (q : Req) : Nat := q.rgns.foldl (fun a r => a + r.2.lanes.countP fun l => l.2.st == .running || l.2.st == .saved) 0

/-- DRAIN of key slot `k`. -/
def drainCount (s : State) (k : Nat) : Nat :=
  let t := (tget {} s.key k).tenant
  let mine := fun (slot : Nat) => (seqOf s slot).tenant == t
  (tcount s.slu.inst fun _ x => x.tenant == t) +
  ((s.slu.queue.flatMap (·.2)).countP fun q => entryTenant (entryOf s q.entry) == t) +
  (s.req.foldl (fun a e => if mine e.2.slot && e.2.st == .confirmed then a + 1 + heldContexts e.2 else a) 0) +
  (tcount s.jx.tracker fun _ x => x.tenant == t) +
  (tcount s.jx.filter fun _ x => x.tenant == t && x.st == .open_) +
  (tcount s.jx.out fun _ m => m.tenant == t) +
  (s.chan.foldl (fun a e => a + (unitCmds e.2).countP fun c => c.tenant == t) 0) +
  (tcount s.dma fun _ c => match c.run with
    | some r => sideMeets s t (srcSide r.desc) || sideMeets s t (dstSide r.desc)
    | none => false) +
  (tcount s.work.migs fun key _ => mine (key / 1024)) +
  (s.slu.win.foldl (fun a e => if e.2.st ≠ .free ∧ e.2.tenant = t then a + winInFlight s e.1 else a) 0)

end Sys2Proof.Machine
end

