-- ==== Sys2Proof/Machine/Receive.lean ====
section
/-! DEFINITION. Receiving a packet (11 R240-R243, R254-R259, R267-R272; 14 R317, R318; 17 R375, R385): the checks of Table 11.5 in order, and what
the duplicate filter and the trackers take. -/

namespace Sys2Proof.Machine

/-! ## Check 2: the header -/

/-- The opcodes that Tables 11.2, 15.4 and 16.1 define. -/
def opDefined (op : Nat) : Bool :=
  (decide (1 ≤ op) && decide (op ≤ 4)) || op == 0x10 || op == 0x11 || (decide (0x20 ≤ op) && decide (op ≤ 0x2D)) ||
  op == 0x83 || op == 0x84 || (decide (0xA0 ≤ op) && decide (op ≤ 0xA3)) || (decide (0xA5 ≤ op) && decide (op ≤ 0xA9)) || op == 0xAB

/-- Windowed opcodes (Table 11.2). -/
def windowedOp (op : Nat) : Bool := decide (1 ≤ op) && decide (op ≤ 4)

/-- Opcodes whose messages may have several packets: WRITE, WRITE_IMM, READ_RESP and LOAD_DATA. -/
def multiOp (op : Nat) : Bool := op == 1 || op == 2 || op == 0x83 || op == 0x2A

/-- Opcodes that take a duplicate-filter entry (Tables 11.2, 15.4, 16.1). -/
def filteredOp (op : Nat) : Bool :=
  [0x01, 0x02, 0x04, 0x23, 0x21, 0x25, 0x26, 0x27, 0x28, 0x29, 0x2A, 0x2B].contains op

/-- A filtered opcode whose message is answered by a response, not by an ACK. -/
def savedOp (op : Nat) : Bool := filteredOp op && op != 1 && op != 2 && op != 0x2A

/-- The least payload that holds the fields of a control message. -/
def minPayload (op : Nat) : Nat :=
  match op with
  | 0x20 => 6 | 0x21 => 16 | 0x22 => 12 | 0x25 => 16 | 0x26 => 16 | 0x27 => 16 | 0x28 => 16 | 0x29 => 18 | 0x2B => 8
  | 0x2C => 8 | 0x2D => 3 | 0x84 => 8 | 0xA0 => 8 | 0xA2 => 16 | 0xA3 => 16 | 0xA5 => 16 | 0xA6 => 16 | 0xA7 => 16 | 0xA8 => 16
  | 0xA9 => 8 | 0xAB => 1 | 0x11 => 16 | 0x04 => 16 | _ => 0

/-- The header breaks R241, R242 or R7. -/
def headerBad (h : JxHdr) : Bool :=
  let op := h.opcode.toNat
  h.version != 1 || !opDefined op || (h.enc && h.auth) || h.rsv != 0 || (!tenantOp op && h.tenant != 0) ||
  (!windowedOp op && (h.windowId != 0 || h.windowGen != 0 || h.offset != 0)) ||
  ((op == 0x10 || op == 0x11) && h.msgId != 0) || (op != 0x10 && h.ceEcho) ||
  (op != 2 && !isResponse op && h.immediate != 0)

/-- The lengths break R241 or R243. -/
def lengthsBad (f : RxFrame) : Bool :=
  let h := f.hdr
  let op := h.opcode.toNat
  let plen := h.payloadLen.toNat
  let len := h.msgLen.toNat
  let i := h.pktIndex.toNat
  f.payload.length != plen || f.tag.isSome != (h.enc || h.auth) || decide (8192 < plen) || decide (16777216 < len) ||
  (if op = 3 then plen != 0 || len == 0 || i != 0
   else if multiOp op then
     decide (pktCount len ≤ i) || plen != pktBytes len i || (op != 2 && len == 0) ||
       (op == 0x2A && (decide (len < 64) || decide (1048576 < len)))
   else i != 0 || plen != len || decide (plen < minPayload op) || (op == 4 && plen != 16) || (op == 0x84 && plen != 8) ||
     (op == 0x10 && (plen % 8 != 0 || plen == 0 || decide (1024 < plen))))

/-- INFO of check 2: 1 for the header, 2 for the lengths, none where it passes. -/
def check2 (f : RxFrame) : Option Nat := if headerBad f.hdr then some 1 else if lengthsBad f then some 2 else none

/-! ## Checks 5 to 8 -/

/-- The die that makes the checks (R254): the die of the arrival port for an ACK or NAK, the die that sent the request for a response. -/
def checkDie (f : RxFrame) : Nat :=
  let op := f.hdr.opcode.toNat
  if op = 0x10 ∨ op = 0x11 then f.port.val / 2
  else if isResponse op then f.hdr.immediate.toNat % 4
  else ownerDie f.hdr

/-- What a message of `src` already holds at its owner die. -/
def filtOf (s : State) (h : JxHdr) : Option Filt := tlook s.jx.filter (msgKey h.src.toNat h.msgId.toNat)
def trackOf (s : State) (h : JxHdr) : Option Tracker := tlook s.jx.tracker (msgKey h.src.toNat h.msgId.toNat)

/-- The key slot is in service for this packet (17 Table 17.3, R385, R386). -/
def slotServes (s : State) (h : JxHdr) : Bool :=
  match slotOfTenant s h.tenant.toNat with
  | none => false
  | some (i, k) =>
    let before := fun (t : Nat) =>
      (match filtOf s h with | some e => decide (e.taken < t) | none => false) ||
      (match trackOf s h with | some e => decide (e.opened < t) | none => false)
    match k.st with
    | .active => (match k.retireAt with | some t => decide (now s < t) || (decide (0 < drainCount s i) && before t) | none => true)
    | .retiring => decide (0 < drainCount s i) && (match k.retireAt with | some t => before t | none => false)
    | _ => false

/-- The key that applies to the packet at its MSG_TIME has expired (17 R375). -/
def expiredFor (s : State) (h : JxHdr) : Bool :=
  let op := h.opcode.toNat
  (packetEnc s op h.tenant.toNat || packetAuth s op) &&
    (match packetKey s op h.tenant.toNat h.msgTime.toNat with
     | some k => keyExpired k h.msgTime.toNat
     | none => false)

/-- ENC and AUTH are what check 6 asks. -/
def check6 (s : State) (h : JxHdr) : Bool :=
  let op := h.opcode.toNat
  if tenantOp op then h.enc == isProtected s h.tenant.toNat && !h.auth else h.auth == fabricAuth s && !h.enc

/-- The payload in clear, or none where the tag does not verify (R268-R270). -/
def openPkt (s : State) (f : RxFrame) : Option Bytes :=
  let h := f.hdr
  let t := h.msgTime.toNat
  if !h.enc && !h.auth then some f.payload
  else match packetKey s h.opcode.toNat h.tenant.toNat t with
    | none => none
    | some k =>
      let pk := periodKey k.key t
      let body := if h.enc then f.payload else []
      if f.tag = some (Config.gcmTag pk (nonceOf h) (hdrBytes h) body) then
        (if h.enc then some (padTo f.payload.length (Config.gcmOpen pk (nonceOf h) (hdrBytes h) body)) else some f.payload)
      else none

/-- The colour of a packet (14 R318). -/
inductive Colour where
  | green | yellow | red (info : Nat)
  deriving DecidableEq, Repr

/-- Bytes of a packet as the meter and the port counters take them (14 R317). -/
def frameSize (f : RxFrame) : Nat := 64 + f.payload.length + (if f.tag.isSome then 16 else 0)

/-- Each die's quarter of a meter, refilled up to now (14 R317, R318). A bucket no commit has filled is full. -/
def refilled (m : Meter) (b : Option MeterBucket) (t : Nat) : MeterBucket :=
  let tp := m.pbs * 1024000
  let tc := m.cbs * 1024000
  match b with
  | none => ⟨tp, tc, t⟩
  | some b => ⟨min tp (b.tp + m.pir * (t - b.at_)), min tc (b.tc + m.cir * (t - b.at_)), t⟩

/-- Check 8: the meter colours a packet of the tenant (14 R317, R318). -/
def meterPkt (f : RxFrame) (die : Nat) (s : State) : Colour × State :=
  match slotNo s f.hdr.tenant.toNat with
  | none => (.green, s)
  | some k =>
    let m := tget {} s.traffic.meter k
    if !m.en || isNodeEndpoint s f.hdr.src.toNat then (.green, s)
    else
      let b := refilled m (tlook s.traffic.bucket (k * 4 + die)) (now s)
      let n := frameSize f * 4000
      let keep := fun (b : MeterBucket) => { s with traffic := { s.traffic with bucket := tput s.traffic.bucket (k * 4 + die) b } }
      if b.tp < n then
        (.red ((n - b.tp + (m.pir * 1000 - 1)) / (m.pir * 1000)), acct f.hdr.tenant.toNat 32 0x2C 1 (keep b))
      else if b.tc < n then (.yellow, acct f.hdr.tenant.toNat 32 0x30 1 (keep { b with tp := b.tp - n }))
      else (.green, keep { b with tp := b.tp - n, tc := b.tc - n })

/-! ## Violations and refusals -/

/-- A violation's record in the log ring (R267), at most one per source and check per 100 ms. -/
def violate (f : RxFrame) (die check info : Nat) (s : State) (status : Option Nat := none) : State :=
  match limited (2 ^ 48 + f.hdr.src.toNat * 256 + check) 100000000 s with
  | (true, s) => raise (leafJxViolation die)
      (optField 18 1 status ++ [(17, 1, f.port.val), (28, 4, f.hdr.src.toNat), (32, 4, f.hdr.msgId.toNat), (40, 1, check), (44, 4, info)]) s
  | (false, s) => s

/-- Write a filter entry. -/
def setFilt (h : JxHdr) (e : Filt) (s : State) : State :=
  { s with jx := { s.jx with filter := tput s.jx.filter (msgKey h.src.toNat h.msgId.toNat) e } }

/-- Write a tracker. -/
def setTrack (h : JxHdr) (t : Tracker) (s : State) : State :=
  { s with jx := { s.jx with tracker := tput s.jx.tracker (msgKey h.src.toNat h.msgId.toNat) t } }

/-- Free a tracker. -/
def dropTrack (h : JxHdr) (s : State) : State :=
  { s with jx := { s.jx with tracker := tdel s.jx.tracker (msgKey h.src.toNat h.msgId.toNat) } }

/-- Refuse a packet of a message for good: an OPEN filter entry keeps the NAK (R258). -/
def refusePkt (f : RxFrame) (status info : Nat) (s : State) : State :=
  let s := match filtOf s f.hdr with
    | some e => if filteredOp f.hdr.opcode.toNat ∧ e.st = .open_ then setFilt f.hdr { e with st := .refused status info } s else s
    | none => s
  sendNak f status info s

/-- The message fails inside the node (R259): its entry and tracker are freed and the node answers with a status, ST_INTERNAL unless its chapter
gives another. -/
def failMsg (f : RxFrame) (status : Nat) (s : State) : State :=
  (if status = stRetry then sendNakFree f status else sendNak f status 0)
    (dropTrack f.hdr { s with jx := { s.jx with filter := tdel s.jx.filter (msgKey f.hdr.src.toNat f.hdr.msgId.toNat) } })

/-! ## Checks 9 to 17 -/

/-- A retransmission or duplicate found its message's entry (check 9, R258): answered, or none when it goes on to check 10. -/
def answerDup (f : RxFrame) (die : Nat) (s : State) : Option State :=
  if !filteredOp f.hdr.opcode.toNat then none
  else match filtOf s f.hdr with
    | none => none
    | some e =>
      let s1 := count (netCntOff die 5) s
      match e.st with
      | .refused st info => some (sendNak f st info s1)
      | .complete =>
        match e.resp with
        | some (op, data) =>
          let tenant := f.hdr.tenant.toNat
          let part := if tenantOp op then tenantQueue s tenant else none
          some (sendOnce die op f.hdr.src.toNat tenant f.hdr.msgId.toNat 0 (some f.srcAddr) part data s1)
        | none => if savedOp f.hdr.opcode.toNat then some s1 else some (ackPacket f true s1)
      | .open_ =>
        match trackOf s f.hdr with
        | some t => if t.bits.contains f.hdr.pktIndex.toNat then some (ackPacket f false s1) else none
        | none => none

/-- The packet's header agrees with its tracker (check 10). -/
def agreesWith (h : JxHdr) (t : Tracker) : Bool :=
  t.op == h.opcode.toNat && t.tenant == h.tenant.toNat && t.window == h.windowId.toNat && t.gen == h.windowGen.toNat &&
  t.offset == h.offset.toNat && t.len == h.msgLen.toNat && t.imm == h.immediate.toNat && t.time == h.msgTime.toNat

/-- The operation is permitted by Table 11.4. -/
def kindPermits (kind op : Nat) : Bool :=
  if op = 1 ∨ op = 2 then decide (kind ≤ 5) else if op = 3 then kind == 2 || kind == 3 || kind == 5 else kind == 5

/-- Checks 11 to 15 of a windowed packet: the status and INFO of the first that fails, with its number. -/
def checkWindow (s : State) (h : JxHdr) : Option (Nat × Nat × Nat) :=
  let op := h.opcode.toNat
  let id := h.windowId.toNat
  let w := winOf s id
  if !windowedOp op then none
  else if h.windowGen.toNat ≠ winGen s id then some (11, stBadGen, 0)
  else if !(w.st == .active || (w.st == .draining && (trackOf s h).isSome)) then some (12, stWindowRevoked, 0)
  else if h.tenant.toNat ≠ w.tenant then some (13, stAccess, 0)
  else if !kindPermits w.kind op || decide (w.length < h.offset.toNat + h.msgLen.toNat) then some (14, stAccess, 0)
  else if w.kind = 2 ∧ (op = 1 ∨ op = 2) ∧ (tlook s.installs w.tenant).isSome then some (14, stStateConflict, 0)
  else if op = 4 ∧ h.offset.toNat % 8 ≠ 0 then some (15, stMalformed, 5)
  else none

/-- Filter entries and trackers of a die. -/
def filtsOf (s : State) (die : Nat) : Nat := tcount s.jx.filter fun k _ => k % 4 == die
def tracksOf (s : State) (die : Nat) : Nat := tcount s.jx.tracker fun k _ => k % 4 == die

/-- Checks 16 and 17: take an entry and a tracker where the message needs one. True: the packet is admitted. -/
def takeEntries (f : RxFrame) (die : Nat) (s : State) : Bool × State :=
  let h := f.hdr
  let op := h.opcode.toNat
  if filteredOp op && (filtOf s h).isNone && decide (32768 ≤ filtsOf s die) then
    (false, sendNakFree f stRetry (count (netCntOff die 6) s))
  else
    let s := if filteredOp op && (filtOf s h).isNone then setFilt h { tenant := h.tenant.toNat, time := h.msgTime.toNat, taken := now s } s else s
    if filteredOp op && decide (1 < pktCount h.msgLen.toNat) && (trackOf s h).isNone then
      if 2048 ≤ tracksOf s die then (false, sendNakFree f stNoTracker s)
      else
        let t : Tracker :=
          { op := op, tenant := h.tenant.toNat, window := h.windowId.toNat, gen := h.windowGen.toNat, offset := h.offset.toNat
            len := h.msgLen.toNat, imm := h.immediate.toNat, time := h.msgTime.toNat, opened := now s }
        (true, setTrack h t s)
    else (true, s)

/-- An admitted packet: its payload in clear, the die that made the checks, and whether its meter coloured it yellow. -/
structure Admitted where
  payload : Bytes
  die : Nat
  yellow : Bool
  deriving DecidableEq, Repr

/-- Checks 9 to 17 on a packet that opened and passed its meter. -/
def checkMessage (f : RxFrame) (die : Nat) (payload : Bytes) (yellow : Bool) (s : State) : Option Admitted × State :=
  match answerDup f die s with
  | some s => (none, s)
  | none =>
    let agree := match trackOf s f.hdr with
      | some t => !filteredOp f.hdr.opcode.toNat || agreesWith f.hdr t
      | none => true
    if !agree then (none, refusePkt f stMalformed 4 (violate f die 10 4 (count (netCntOff die 1) s) (some stMalformed)))
    else match checkWindow s f.hdr with
      | some (check, st, info) =>
        let s := if check = 15 then violate f die 15 info (count (netCntOff die 1) s) (some st) else s
        (none, if st = stStateConflict then sendNak f st info s else refusePkt f st info s)
      | none =>
        match takeEntries f die s with
        | (true, s) => (some ⟨payload, die, yellow⟩, s)
        | (false, s) => (none, s)

/-- The status with which a DRAINED node refuses tenant work: a free one (log 44), but not ST_UNKNOWN_REQUEST (16 R355). -/
def drainedStatus (n : Nat) : Nat :=
  let k := 1 + (Config.freeBits 4 n).toNat % 14
  if k < 9 then k else k + 1

/-- Checks 5 to 17. -/
def checkTenant (f : RxFrame) (die : Nat) (s : State) : Option Admitted × State :=
  let h := f.hdr
  let op := h.opcode.toNat
  if tenantOp op && s.pwr.sleep != .none then (none, sendNakFree f stRetry s)
  else if tenantOp op && s.node.st == .drained then
    match takeFree s with
    | (n, s) => (none, sendNakFree f (drainedStatus n) s)
  else if tenantOp op && !slotServes s h then (none, sendNak f stTenantRevoked 0 s)
  else if expiredFor s h then
    (none, if tenantOp op then sendNak f stTenantRevoked 0 (countTenant h.tenant.toNat 0x24 s) else raise leafFabricKeyExpired [] s)
  else if !check6 s h then (none, sendNak f stAccess 0 (violate f die 6 0 (count (netCntOff die 1) s) (some stAccess)))
  else match openPkt s f with
    | none => (none, violate f die 7 0 (count (netCntOff die 4) s))
    | some payload =>
      if !tenantOp op then checkMessage f die payload false s
      else match meterPkt f die s with
        | (.green, s) => checkMessage f die payload false s
        | (.yellow, s) => checkMessage f die payload true s
        | (.red info, s) => (none, sendNak f stOverRate info s)

/-- The receive checks of Table 11.5 in order (R255). -/
def checkPkt (f : RxFrame) (s : State) : Option Admitted × State :=
  let die := checkDie f
  let t := f.hdr.msgTime.toNat
  if f.hdr.dst.toNat ≠ myEndpoint s then (none, count (netCntOff die 0) s)
  else match check2 f with
    | some info => (none, sendNak f stMalformed info (violate f die 2 info (count (netCntOff die 1) s) (some stMalformed)))
    | none =>
      if t + 1010000 < now s then (none, count (netCntOff die 2) s)
      else if now s + 10000 < t then (none, sendNak f stMalformed 3 (violate f die 4 3 (count (netCntOff die 3) s) (some stMalformed)))
      else checkTenant f die s

/-- The port of a node that has gone fatal, over which its WITHDRAW still leaves (16 R348). -/
def portTells (s : State) (port : Nat) : Bool :=
  awake s && s.cfg.phase == 9 && s.jx.portUp.getLsbD port && !s.ctl.netLost.getLsbD (port / 2)

/-- The port carries Jexus packets: link up, the node awake and its engines neither reset nor stopped. -/
def portServes (s : State) (port : Nat) : Bool :=
  awake s && s.cfg.phase != 8 && s.cfg.phase != 9 && s.jx.portUp.getLsbD port && !s.ctl.netLost.getLsbD (port / 2)

/-- The datagram is for this node (R240): its destination is one of the eight port addresses of the image, on whatever port it came in, and its
UDP port is JEXUS_PORT. -/
def forMe (f : RxFrame) (s : State) : Bool :=
  match s.cfg.img with
  | none => false
  | some i => i.ports.contains f.dstAddr.toNat && f.dstPort.toNat == i.jxPort

/-- A datagram arrives (R240): one that is not for this node is dropped and counted NET_NON_JEXUS. A Jexus packet arrives (R254, R272; 20 R437): it is
counted at its port and checked; before fabric time is first LOCKED it is dropped. -/
def receive (f : RxFrame) (s : State) : Option Admitted × State :=
  if !portServes s f.port.val then (none, s)
  else if !forMe f s then (none, count (portCntOff f.port.val 0x20) s)
  else
    let s := countN 64 (portCntOff f.port.val 0x08) (frameSize f) (countN 64 (portCntOff f.port.val 0x00) 1 s)
    if !s.jx.locked then (none, count (netCntOff (f.port.val / 2) 13) s) else checkPkt f s

/-- The message a packet belongs to, as the sluice and Datum take it (12 R280). -/
def frameMsg (f : RxFrame) : EnMsg :=
  { id := f.hdr.msgId.toNat, src := f.hdr.src.toNat, window := f.hdr.windowId.toNat, gen := f.hdr.windowGen.toNat
    offset := f.hdr.offset.toNat, len := f.hdr.msgLen.toNat, epoch := f.hdr.epoch.toNat, time := f.hdr.msgTime.toNat, addr := f.srcAddr }

/-- The filter entry of the message is COMPLETE, with no saved response yet. -/
def filtComplete (h : JxHdr) (s : State) : State :=
  match filtOf s h with
  | some e => setFilt h { e with st := .complete } s
  | none => s

/-- A control message has been admitted: it is processed once (R258). -/
def takeControl (f : RxFrame) (ops : List Nat) (s : State) : Option Admitted × State :=
  if !ops.contains f.hdr.opcode.toNat then (none, s)
  else match receive f s with
    | (some a, s) => (some a, if savedOp f.hdr.opcode.toNat then filtComplete f.hdr s else s)
    | (none, s) => (none, s)

/-- Answer a request with a response under a fresh MSG_ID (R244), saved where its opcode asks (R258). -/
def respond (f : RxFrame) (die : Nat) (epoch : Nat) (data : Bytes) (s : State) : State :=
  let op := f.hdr.opcode.toNat
  let s := if savedOp op then saveResp f.hdr.src.toNat f.hdr.msgId.toNat (op + 0x80) data s else s
  let part := if tenantOp op then tenantQueue s f.hdr.tenant.toNat else none
  sendOnce die (op + 0x80) f.hdr.src.toNat f.hdr.tenant.toNat f.hdr.msgId.toNat epoch (some f.srcAddr) part data s

end Sys2Proof.Machine
end

