-- ==== Sys2Proof/Machine/Ending.lean ====
section
/-! DEFINITION. How a message the node sent ends (11 R261, R264, R265): what an acknowledgement, a refusal or its abandonment brings to
whoever sent it. -/

namespace Sys2Proof.Machine

/-- Take a message out of flight. -/
def dropOut (id : Nat) (s : State) : State := { s with jx := { s.jx with out := tdel s.jx.out id } }

/-- A result that does not arrive (08 R191): RESULT_UNDELIVERED with the entry and step tag. -/
def resultLost (x id : Nat) (m : OutMsg) (s : State) : State :=
  raise (leafResultUndelivered (id % 4)) [(28, 4, m.dst), (32, 4, id), (40, 4, x), (44, 4, m.imm % 2 ^ 17)] s

/-- The partner has answered or refused a forwarded commit, rollback or shift (09 R213): a rollback is answered at once. -/
def ctlForwarded (slot id : Nat) (fwd : FwdSt) (s : State) : State :=
  match tfind s.work.ctlOps fun _ o => o.slot == slot && o.fwd == .waiting && o.fwdMsg == id with
  | none => s
  | some (k, o) =>
    let o := { o with fwd := fwd }
    if o.op = 1 then
      let st := match fwd with
        | .refused st => st
        | _ => stOk
      admitNext slot (ctlAnswer o st false (st == stOk && ctlSingle o) false (ctlGone k o s))
    else { s with work := { s.work with ctlOps := tput s.work.ctlOps k o } }

/-- A forwarded operation whose message was abandoned is sent again, until the partner is marked failed (09 R214). -/
def ctlRetry (slot id : Nat) (s : State) : State :=
  match tfind s.work.ctlOps fun _ o => o.slot == slot && o.fwd == .waiting && o.fwdMsg == id with
  | none => s
  | some (k, o) =>
    match forwardTo s o with
    | some _ => forwardCtl k s
    | none => ctlForwarded slot id .single s

/-- FORWARD sends its payload again as a new message (12 R286). -/
def forwardAgain (inst slot : Nat) (m : OutMsg) (s : State) : State :=
  match instOf s inst with
  | none => s
  | some x =>
    let m := { m with time := none, flight := [], backoff := none, resend := [], internal := false }
    match sendMsg x.die m s with
    | (.sent id, s) => setInst inst { x with fwdIds := x.fwdIds ++ [id] } s
    | (.refused st, s) => actDone inst slot st false false 0 s

/-- A fetch of a map fails (15 R340): the node returns to what it held. -/
def fetchFails (c : Nat) (s : State) : State := setComp c { compOf s c with fetch := none } s

/-- A LOAD_OPEN got no answer, or ST_RETRY: it is asked again at the next probe timer (log 33). -/
def loadOpenAgain (id : Nat) (s : State) : State :=
  match tlook s.datum.loadIn id with
  | none => s
  | some l => { s with datum := { s.datum with loadIn := tput s.datum.loadIn id { l with st := .opening, retryAt := some (now s) } } }

/-- A LOAD_DONE that got no answer is sent again at the next probe timer. -/
def loadDoneAgain (m : OutMsg) (id : Nat) (s : State) : State :=
  if id = 0 then
    { s with datum := { s.datum with
        loadDoneSent := s.datum.loadDoneSent.filter fun e => !(e.1 == rd m.data 0 4 && endpointOfNode s e.2 == some m.dst) } }
  else match tlook s.datum.loadIn id with
    | none => s
    | some l => { s with datum := { s.datum with loadIn := tput s.datum.loadIn id { l with st := .copied, retryAt := some (now s) } } }

/-- S answers LOAD_DONE of one load once its relays are acknowledged (16 R361, R363): the load ends. -/
def finishLoadOut (key : Nat) (s : State) : State :=
  match tlook s.datum.loadOut key with
  | none => s
  | some l =>
    match l.finish with
    | none => settleStopped key s
    | some (src, msgId, addr) =>
      if relaysOut s key then s
      else
        let body := leBytes 16 stOk
        sendOnce (msgId % 4) 0xAB src 0 msgId 0 (some addr) none body (saveResp src msgId 0xAB body (endLoadOut key s))

/-- A message is complete at its receiver (11 R260). -/
def msgAcked (id : Nat) (s : State) : State :=
  match tlook s.jx.out id with
  | none => s
  | some m =>
    let s := dropOut id s
    match m.purpose with
    | .loadData key => finishLoadOut key s
    | _ => s

/-- A message is refused by a NAK that is not retried (11 R264). -/
def msgRefused (id status : Nat) (s : State) : State :=
  match tlook s.jx.out id with
  | none => s
  | some m =>
    let s := dropOut id s
    match m.purpose with
    | .record x => complLost x s
    | .result x => resultLost x id m s
    | .forward inst slot => actDone inst slot status false false 0 s
    | .ctlForward slot => ctlForwarded slot id (.refused status) s
    | .mapRead c => fetchFails c s
    | .loadOpen key => loadOpenAgain key s
    | .loadData key => endLoadOut key s
    | .loadDone key => loadDoneAgain m key s
    | .quiet => s
    | .prepare _ _ _ => s
    | .accept _ _ _ => s
    | .commitTo _ _ => s
    | .probe _ _ => s

/-- A message is abandoned (11 R261). -/
def msgAbandoned (id : Nat) (s : State) : State :=
  match tlook s.jx.out id with
  | none => s
  | some m =>
    let s := dropOut id s
    match m.purpose with
    | .record x => complLost x s
    | .result x => resultLost x id m s
    | .forward inst slot => forwardAgain inst slot m s
    | .ctlForward slot => ctlRetry slot id s
    | .mapRead c => fetchFails c s
    | .loadOpen key => loadOpenAgain key s
    | .loadData key => endLoadOut key s
    | .loadDone key => loadDoneAgain m key s
    | .quiet => s
    | .prepare _ _ _ => s
    | .accept _ _ _ => s
    | .commitTo _ _ => s
    | .probe _ _ => s

end Sys2Proof.Machine
end

