-- ==== Sys2Proof/Machine/Sending.lean ====
section
/-! DEFINITION. A message in flight (11 R245, R260-R265): acknowledgements, refusals, retransmission, back-off, abandonment, the window W; the age
limits of trackers and filter entries (R256, R258). -/

namespace Sys2Proof.Machine

/-- Write a message in flight. -/
def setOut (id : Nat) (m : OutMsg) (s : State) : State := { s with jx := { s.jx with out := tput s.jx.out id m } }

/-- Halve W towards an endpoint, at most once per 50 µs, down to 64 KiB (R262). -/
def halveCong (ep : Nat) (s : State) : State :=
  let c := congOf s ep
  let may := match c.halved with
    | none => true
    | some t => decide (t + 50000 ≤ now s)
  if may then
    { s with jx := { s.jx with cong := tput s.jx.cong ep { w := max 65536 (c.w / 2), halved := some (now s), grown := now s } } }
  else s

/-- CONG_WINDOW_GROW (R262): 64 KiB per 100 µs, back to 4 MiB. -/
def execCongWindowGrow (endpoint : BitVec 24) (s : State) : Host.Outcome State Fault Refusal :=
  .next (
    let ep := endpoint.toNat
    let c := congOf s ep
    if awake s = true ∧ c.w < 4194304 ∧ c.grown + 100000 ≤ now s then
      let c := { c with w := min 4194304 (c.w + 65536), grown := now s }
      { s with jx := { s.jx with cong := tset {} s.jx.cong ep (if c.w = 4194304 then {} else c) } }
    else s)

/-! ## Paths (R245) -/

/-- The state of a path. -/
def pathSt (s : State) (p : Nat) : PathSt := tget {} s.jx.path p

/-- Write a path's state. -/
def setPath (p : Nat) (x : PathSt) (s : State) : State := { s with jx := { s.jx with path := tset {} s.jx.path p x } }

/-- A packet on a path timed out: the second in succession has the path skipped for 10 ms. -/
def pathMiss (die p : Nat) (s : State) : State :=
  let x := pathSt s p
  if 1 ≤ x.misses then count (netCntOff die 10) (setPath p { misses := 0, cool := some (now s + 10000000) } s)
  else setPath p { x with misses := x.misses + 1 } s

/-- A packet on a path was acknowledged: its time-outs are no longer in succession. -/
def pathGood (p : Nat) (s : State) : State := setPath p { pathSt s p with misses := 0 } s

/-- PATH_COOL_EXPIRE (R245). -/
def execPathCoolExpire (path : Fin 64) (s : State) : Host.Outcome State Fault Refusal :=
  .next (match (pathSt s path.val).cool with
    | some t => if t ≤ now s then setPath path.val { pathSt s path.val with cool := none } s else s
    | none => s)

/-! ## Acknowledgements -/

/-- The packet is no longer unacknowledged: its timer stops. -/
def packetDone (id idx : Nat) (s : State) : State :=
  match tlook s.jx.out id with
  | none => s
  | some m =>
    match tlook m.flight idx with
    | none => s
    | some f => pathGood f.path (setOut id { m with flight := tdel m.flight idx, resend := m.resend.filter (· != idx) } s)

/-- A message that ACKs answer. -/
def ackable (op : Nat) : Bool := op == 1 || op == 2 || op == 0x2A

/-- One ACK entry from endpoint `src` (Table 11.7): the timers of its packets stop, and a message that is complete ends. -/
def ackOne (src v : Nat) (s : State) : State :=
  let id := bits v 31 0
  let first := bits v 42 32
  let n := bits v 53 43 + 1
  match tlook s.jx.out id with
  | none => count (netCntOff (id % 4) 12) s
  | some m =>
    if m.dst ≠ src ∨ ackable m.op = false then count (netCntOff (id % 4) 12) s
    else
      let s := (List.range n).foldl (fun s j => packetDone id (first + j) s) s
      match tlook s.jx.out id with
      | none => s
      | some m => if bitAt v 54 || (m.flight.isEmpty && m.unsent.isEmpty) then msgAcked id s else s

/-- An ACK body with a reserved bit of Table 11.7 set is malformed (00 R7). -/
def ackBad (b : Bytes) : Bool := (words 8 (b.length / 8) b).any fun v => decide (2 ^ 55 ≤ v)

/-- A NAK body with a reserved bit of Table 11.8 set is malformed (00 R7). -/
def nakBad (b : Bytes) : Bool := decide (2 ^ 11 ≤ rd b 2 2) || rd b 12 4 != 0

/-- The control packet is malformed: no NAK answers an ACK or NAK (R264), so it is dropped as a violation of check 2 (R255, R267). -/
def controlBad (f : RxFrame) (die : Nat) (s : State) : State := violate f die 2 1 (count (netCntOff die 1) s)

/-- JX_ACK_RECEIVE (R260). -/
def execJxAckReceive (f : RxFrame) (s : State) : Host.Outcome State Fault Refusal :=
  .next (match takeControl f [0x10] s with
    | (none, s) => s
    | (some a, s) =>
      let src := f.hdr.src.toNat
      if ackBad a.payload then controlBad f a.die s
      else
        let s := if f.hdr.ceEcho then halveCong src s else s
        (words 8 (a.payload.length / 8) a.payload).foldl (fun s v => ackOne src v s) s)

/-! ## Refusals (Table 11.9) -/

/-- The back-off in µs before a resend (R265). -/
def backoffUs (prev : Option (Nat × Nat)) (info : Nat) : Nat :=
  match prev with
  | none => max 20 info
  | some (_, p) => max info (min (2 * p) 160)

/-- The message waits out a back-off and then resends the packets `idxs`. -/
def backOff (id : Nat) (idxs : List Nat) (info : Nat) (s : State) : State :=
  match tlook s.jx.out id with
  | none => s
  | some m =>
    let w := backoffUs m.backoff info
    setOut id { m with backoff := some (now s + w * 1000, w), resend := (m.resend ++ idxs).dedup } s

/-- Every packet that has been sent is owed again: the receiver holds nothing of the message (R259). -/
def allSent (m : OutMsg) (t : Nat) : Tbl Flight :=
  (List.range (pktCount m.data.length)).foldl (fun fl i =>
    if m.unsent.contains i || (tlook fl i).isSome then fl else tput fl i ⟨0, t, 0⟩) m.flight

/-- A NAK names a message in flight (R264, Table 11.9). -/
def nakOne (id : Nat) (m : OutMsg) (status pkt info : Nat) (f : RxFrame) (s : State) : State :=
  if status = stRetry ∨ status = stOverRate then
    backOff id [pkt] info (if status = stOverRate then halveCong m.dst s else s)
  else if status = stNoTracker then backOff id (m.flight.map (·.1)) info s
  else if status = stInternal ∧ m.internal = false then
    let fl := allSent m (now s)
    backOff id (fl.map (·.1)) info (setOut id { m with internal := true, flight := fl } s)
  else
    let s := if status = stMalformed then
        logEvent (ringNet (id % 4)) 3 none
          [(16, 1, 16 + id % 4), (17, 1, f.port.val), (28, 4, f.hdr.src.toNat), (32, 4, id), (40, 1, m.op), (44, 4, info)] s
      else s
    msgRefused id status s

/-- JX_NAK_RECEIVE (R264). -/
def execJxNakReceive (f : RxFrame) (s : State) : Host.Outcome State Fault Refusal :=
  .next (match takeControl f [0x11] s with
    | (none, s) => s
    | (some a, s) =>
      let b := a.payload
      let id := rd b 4 4
      let unknown := count (netCntOff (id % 4) 12) s
      if nakBad b then controlBad f a.die s
      else match tlook s.jx.out id with
      | none => unknown
      | some m =>
        let pkt := bits (rd b 2 2) 10 0
        if m.dst ≠ f.hdr.src.toNat ∨ m.op ≠ rd b 1 1 ∨ (tlook m.flight pkt).isNone then unknown
        else nakOne id m (statusIn (rd b 0 1)) pkt (rd b 8 4) f s)

/-! ## Timers -/

/-- Send a packet again (R244, R261), not later than MSG_TIME + 900 µs. -/
def sendAgain (id idx : Nat) (s : State) : State :=
  match tlook s.jx.out id with
  | none => s
  | some m =>
    match tlook m.flight idx, m.time with
    | some f, some t =>
      if t + 900000 < now s then s else count (netCntOff (id % 4) 8) (transmit id idx (f.att + 1) s)
    | _, _ => s

/-- JX_RETRANSMIT_TIMER (R250, R261, R262): 200 µs without an answer. -/
def execJxRetransmitTimer (msgId : BitVec 32) (pkt : Nat) (s : State) : Host.Outcome State Fault Refusal :=
  .next (
    let id := msgId.toNat
    match tlook s.jx.out id with
    | none => s
    | some m =>
      match tlook m.flight pkt with
      | none => s
      | some f =>
        if awake s = false ∨ m.resend.contains pkt = true ∨ now s < f.at_ + 200000 ∨ now s > (m.time.getD 0) + 900000 then s
        else sendAgain id pkt (halveCong m.dst (pathMiss (id % 4) f.path s)))

/-- JX_MSG_EXPIRE (R261): the message is abandoned 900 µs after its MSG_TIME. -/
def execJxMsgExpire (msgId : BitVec 32) (s : State) : Host.Outcome State Fault Refusal :=
  .next (
    let id := msgId.toNat
    match tlook s.jx.out id with
    | none => s
    | some m =>
      match m.time with
      | none => s
      | some t => if awake s = true ∧ t + 900000 ≤ now s then msgAbandoned id (count (netCntOff (id % 4) 9) s) else s)

/-- JX_NAK_BACKOFF_EXPIRE (R265): the packets that waited are resent. -/
def execJxNakBackoffExpire (msgId : BitVec 32) (s : State) : Host.Outcome State Fault Refusal :=
  .next (
    let id := msgId.toNat
    match tlook s.jx.out id with
    | none => s
    | some m =>
      match m.backoff with
      | none => s
      | some (t, _) =>
        if awake s = false ∨ now s < t then s
        else m.resend.foldl (fun s i => sendAgain id i s) (setOut id { m with resend := [] } s))

/-- Go on with a message that waits: one that has sent no packet and whose key has expired meanwhile is refused (17 R375). -/
def resumeMsg (id : Nat) (s : State) : State :=
  match tlook s.jx.out id with
  | none => s
  | some m =>
    if m.time.isNone && keyFault s m.op m.tenant then msgRefused id stTenantRevoked (keyRefused m.op s)
    else startMsg id s

/-- JX_SEND_RESUME (R262): the messages of a die that wait for a place in flight or for room in W go on, in order. -/
def execJxSendResume (die : Fin 4) (s : State) : Host.Outcome State Fault Refusal :=
  .next (
    if awake s then
      ((s.jx.out.filter fun e => e.1 % 4 == die.val && !e.2.unsent.isEmpty).map (·.1)).foldl (fun s id => resumeMsg id s) s
    else s)

/-- TRACKER_EXPIRE (R256): a tracker whose message has not completed 1,010 µs after its MSG_TIME. -/
def execTrackerExpire (src : BitVec 24) (msgId : BitVec 32) (s : State) : Host.Outcome State Fault Refusal :=
  .next (
    let key := msgKey src.toNat msgId.toNat
    match tlook s.jx.tracker key with
    | none => s
    | some t =>
      if awake s = true ∧ t.time + 1010000 < now s then
        count (netCntOff (msgId.toNat % 4) 7) { s with jx := { s.jx with tracker := tdel s.jx.tracker key } }
      else s)

/-- FILTER_EXPIRE (R258): an entry is freed when now exceeds MSG_TIME + 1,010 µs. -/
def execFilterExpire (src : BitVec 24) (msgId : BitVec 32) (s : State) : Host.Outcome State Fault Refusal :=
  .next (
    let key := msgKey src.toNat msgId.toNat
    match tlook s.jx.filter key with
    | none => s
    | some e =>
      if awake s = true ∧ e.time + 1010000 < now s then { s with jx := { s.jx with filter := tdel s.jx.filter key } } else s)

end Sys2Proof.Machine
end

