-- ==== Sys2Proof/Machine/Datum.lean ====
section
/-! DEFINITION. The messages of Datum (15 R335-R340) and the probes of recovery (16 R347-R349, R351). -/

namespace Sys2Proof.Machine

/-! ## What a message meets -/

/-- Log the refusal of a STEP_MARKER or agreement message (15 Table 15.5, 03 R76). -/
def refuseDatum (c op : Nat) (m : Option EnMsg) (s : State) : State :=
  let x := compOf s c
  let tenant := x.map.map (·.tenant)
  stateRefused leafStateRefusedC (tenant.bind (slotNo s))
    { object := 6, found := compCode x, command := op, id := c, endpoint := m.map (·.src), msgId := m.map (·.id), tenant := tenant } s

/-- The endpoint is a node member of the composition's map. -/
def fromNodeMember (x : Comp) (src : Nat) : Bool :=
  match x.map.bind fun m => tlook m.members src with
  | some y => y.isNode
  | none => false

/-- Send the answer to an agreement message or marker, with the promised ballot (R339); a refusal is logged. -/
def answerDatum (f : RxFrame) (die c status : Nat) (rep : Bool) (acc : Nat) (more : Bytes) (s : State) : State :=
  let s := if status = stOk then s else refuseDatum c f.hdr.opcode.toNat (some (frameMsg f)) s
  let x := compOf s c
  respond f die (epochOf x) (respBody status rep x.window (epochOf x) x.promise acc ++ more) s

/-! The agreement body of a payload (R339). -/
abbrev gComp (b : Bytes) : Nat := rd b 0 4
abbrev gBase (b : Bytes) : Nat := rd b 4 4
abbrev gBallot (b : Bytes) : Nat := rd b 8 4
abbrev gLen (b : Bytes) : Nat := rd b 12 2
abbrev gChange (b : Bytes) : Bytes := b.drop 16

/-- The agreement body is whole. -/
def agreeBad (b : Bytes) : Bool := gLen b + 16 != b.length || rd b 14 2 != 0

/-- Fetch the map from the sender of a message (R340). -/
def fetchFrom (f : RxFrame) (c : Nat) (s : State) : State := startFetch c f.hdr.src.toNat f.srcAddr s

/-- What an agreement message meets before its ballot or change is looked at (R339, Table 15.5, R337). -/
def agreeMeets (f : RxFrame) (b : Bytes) (vote : Bool) (s : State) : Option Nat × State :=
  let x := compOf s (gComp b)
  if agreeBad b then (some stMalformed, s)
  else if behind x then (some stRetry, s)
  else if x.map.isNone then (some stNoPage, s)
  else if !fromNodeMember x f.hdr.src.toNat then (some stAccess, s)
  else match agreeGate x (gBase b) vote with
    | (some st, fetch) => (some st, if fetch then fetchFrom f (gComp b) s else s)
    | (none, _) => (none, s)

/-- DATUM_PREPARE (R335, Table 15.5). -/
def execDatumPrepare (f : RxFrame) (s : State) : Host.Outcome State Fault Refusal :=
  .next (match takeControl f [0x25] s with
    | (none, s) => s
    | (some a, s) =>
      let b := a.payload
      let c := gComp b
      match agreeMeets f b true s with
      | (some st, s) => answerDatum f a.die c st false 0 [] s
      | (none, s) =>
        match voterPrepare c (gBallot b) s with
        | ((st, _, acc, change), s) => answerDatum f a.die c st false acc change s)

/-- DATUM_ACCEPT (R335, Table 15.5): every node finds the same changes invalid (R333). -/
def execDatumAccept (f : RxFrame) (s : State) : Host.Outcome State Fault Refusal :=
  .next (match takeControl f [0x26] s with
    | (none, s) => s
    | (some a, s) =>
      let b := a.payload
      let c := gComp b
      match agreeMeets f b true s with
      | (some st, s) => answerDatum f a.die c st false 0 [] s
      | (none, s) =>
        if (changeResult (compOf s c).map (gChange b)).isNone then answerDatum f a.die c stMalformed false 0 [] s
        else match voterAccept c (gBallot b) (gChange b) s with
        | ((st, _), s) => answerDatum f a.die c st false 0 [] s)

/-- A change other than CREATE that names this node as a pair node (Table 15.5). -/
def namesPairNode (s : State) (change : Bytes) : Bool :=
  match splitRecs 512 change with
  | none => false
  | some rs => !(rs.any fun r => rd r 0 1 == 1) && rs.any fun r =>
      (rd r 0 1 == 2 && (bits (rd r 4 2) 11 0 == myNode s || bits (rd r 6 2) 11 0 == myNode s)) ||
      (rd r 0 1 == 4 && bits (rd r 10 2) 11 0 == myNode s && myNode s != 0)

/-- The change opens a composition. -/
def isCreate (change : Bytes) : Bool := match splitRecs 512 change with
  | some (r :: _) => rd r 0 1 == 1
  | _ => false

/-- A record of the change gives this node as a node member, or as a node of a pair it adds. -/
def namesMember (s : State) (change : Bytes) : Bool :=
  ((splitRecs 512 change).getD []).any fun r =>
    (rd r 0 1 == 5 && bitAt (rd r 2 1) 0 && bits (rd r 8 2) 11 0 == myNode s) ||
      (rd r 0 1 == 2 && (bits (rd r 4 2) 11 0 == myNode s || bits (rd r 6 2) 11 0 == myNode s))

/-- The change adds a pair of which this node is one, and which serves at once (R337; Table 15.2). -/
def addsServing (s : State) (change : Bytes) : Bool :=
  ((splitRecs 512 change).getD []).any fun r =>
    rd r 0 1 == 2 && (bits (rd r 4 2) 11 0 == myNode s || bits (rd r 6 2) 11 0 == myNode s)

/-- Fetch the map that a committed change names this node in. -/
def fetchNamed (f : RxFrame) (c : Nat) (change : Bytes) (s : State) : State :=
  let s := fetchFrom f c s
  let x := compOf s c
  setComp c { x with fetch := x.fetch.map fun g => { g with named := g.named || addsServing s change } } s

/-- A COMMIT at a node that holds no map of the composition (Table 15.5): an invalid CREATE that names the node is ST_MALFORMED (R15, R333). -/
def commitAbsent (f : RxFrame) (c base : Nat) (change : Bytes) (s : State) : Nat × State :=
  match changeResult none change with
  | some (some m) =>
    if base = 0 ∧ (memberOfNode m (myNode s)).isSome then
      match applyChange c change s with
      | (ok, s) => (if ok then stOk else stStateConflict, s)
    else (stNoPage, s)
  | _ =>
    if base = 0 ∧ isCreate change = true ∧ namesMember s change = true then (stMalformed, s)
    else if namesPairNode s change then (stRetry, fetchNamed f c change s) else (stNoPage, s)

/-- A COMMIT at a node that holds a map (Table 15.5, R336). -/
def commitHeld (f : RxFrame) (c base : Nat) (change : Bytes) (s : State) : Nat × Bool × State :=
  let x := compOf s c
  let e := epochOf x
  if base + 1 = e ∧ x.lastChange = change ∧ change ≠ [] then (stOk, true, s)
  else if base < e then (stEpochStale, false, s)
  else if e < base then (stRetry, false, fetchFrom f c s)
  else if (changeResult x.map change).isNone then (stMalformed, false, s)
  else match applyChange c change s with
    | (ok, s) => (if ok then stOk else stStateConflict, false, overtaken c change s)

/-- DATUM_COMMIT (R336, Table 15.5). -/
def execDatumCommit (f : RxFrame) (s : State) : Host.Outcome State Fault Refusal :=
  .next (match takeControl f [0x27] s with
    | (none, s) => s
    | (some a, s) =>
      let b := a.payload
      let c := gComp b
      let x := compOf s c
      if agreeBad b then answerDatum f a.die c stMalformed false 0 [] s
      else if behind x then answerDatum f a.die c stRetry false 0 [] s
      else if x.map.isNone then
        match commitAbsent f c (gBase b) (gChange b) s with
        | (st, s) => answerDatum f a.die c st false 0 [] s
      else if !fromNodeMember x f.hdr.src.toNat then answerDatum f a.die c stAccess false 0 [] s
      else match commitHeld f c (gBase b) (gChange b) s with
        | (st, rep, s) => answerDatum f a.die c st rep 0 [] s)

/-- The source may submit a change (R339). -/
def maySubmit (x : Comp) (src : Nat) : Bool :=
  match x.map.bind fun m => tlook m.members src with
  | some y => y.isNode || y.admin
  | none => false

/-- What a DATUM_SUBMIT with body `b` meets before its change is proposed (Table 15.5, R333), from a sender that `may` submit: a status, and
whether the node fetches. -/
def submitGate (x : Comp) (b : Bytes) (may : Bool) : Option Nat × Bool :=
  if agreeBad b || gBallot b != 0 then (some stMalformed, false)
  else if behind x then (some stRetry, false)
  else if x.map.isNone then (some stNoPage, false)
  else if !may then (some stAccess, false)
  else if gBase b = 0xFFFFFFFF ∨ gBase b = 0 ∧ isCreate (gChange b) = false then (some stMalformed, false)
  else agreeGate x (gBase b) false

/-- A DATUM_SUBMIT message (R339, Table 15.5): its response waits for the change. -/
def submitMsg (f : RxFrame) (a : Admitted) (s : State) : State :=
  let b := a.payload
  let c := gComp b
  let x := compOf s c
  match submitGate x b (maySubmit x f.hdr.src.toNat) with
  | (some st, fetch) => answerDatum f a.die c st false 0 [] (if fetch then fetchFrom f c s else s)
  | (none, _) => addProposal c (gChange b) (.message f.hdr.src.toNat f.hdr.msgId.toNat a.die f.srcAddr) s

/-! ## Responses to this node's requests -/

/-- The request that a response answers (11 R254): it is taken out of flight; a response that answers none is counted. -/
def takeAnswer (f : RxFrame) (ops : List Nat) (s : State) : Option (Admitted × Nat × OutMsg) × State :=
  match takeControl f ops s with
  | (none, s) => (none, s)
  | (some a, s) =>
    let id := f.hdr.immediate.toNat
    match tlook s.jx.out id with
    | none => (none, count (netCntOff (id % 4) 12) s)
    | some m =>
      if m.op + 0x80 = f.hdr.opcode.toNat ∧ m.dst = f.hdr.src.toNat then (some (a, id, m), dropOut id (packetDone id 0 s))
      else (none, count (netCntOff (id % 4) 12) s)

/-- A response that shows an epoch above the node's own has it fetch the map (R340). -/
def noteEpoch (f : RxFrame) (c e : Nat) (s : State) : State :=
  let x := compOf s c
  if x.map.isSome && decide (epochOf x < e) then fetchFrom f c s else s

/-- A promise, or its refusal, for the round under way (R332). -/
def onPromise (c b n : Nat) (body : Bytes) (s : State) : State :=
  match propsOf s c with
  | [] => s
  | p :: _ =>
    if p.phase = .prepare ∧ p.round ≠ 0 ∧ b = ballotOf s p.round ∧ rd body 0 1 = stOk then
      let acc := rd body 12 4
      let best := if p.best.1 < acc then (acc, body.drop 16) else p.best
      checkPromises c (setHead c { p with promises := if p.promises.contains n then p.promises else n :: p.promises, best := best } s)
    else s

/-- An accept, or its refusal, for the round under way. -/
def onAccept (c b n : Nat) (body : Bytes) (s : State) : State :=
  match propsOf s c with
  | [] => s
  | p :: _ =>
    if p.phase = .accept ∧ p.round ≠ 0 ∧ b = ballotOf s p.round ∧ rd body 0 1 = stOk then
      checkAccepts c (setHead c { p with accepts := if p.accepts.contains n then p.accepts else n :: p.accepts } s)
    else s

/-- DATUM_RESPONSE (R332, R353): a promise, accept or commit response. -/
def execDatumResponse (f : RxFrame) (s : State) : Host.Outcome State Fault Refusal :=
  .next (match takeAnswer f [0xA5, 0xA6, 0xA7] s with
    | (none, s) => s
    | (some (a, _, m), s) =>
      let b := a.payload
      match m.purpose with
      | .prepare c ballot n => onPromise c ballot n b (noteEpoch f c (rd b 4 4) s)
      | .accept c ballot n => onAccept c ballot n b (noteEpoch f c (rd b 4 4) s)
      | .commitTo c n =>
        let s := if rd b 0 1 = stStateConflict then storeFull c n s else s
        noteEpoch f c (rd b 4 4) s
      | _ => s)

/-! ## Step markers (R338) -/

/-- The pairs that this node serves. -/
def servedPairs (m : DMap) (s : State) : Tbl PairRec := tfilter m.pairs fun _ q => (serving q).contains (myNode s)

/-- What a draining node does at a marker (16 R366): it proposes to leave each pair whose partner serves; the lowest other pair blocks it in this
composition (20 R438). -/
def drainMarker (c : Nat) (m : DMap) (s : State) : State :=
  if s.node.st = .draining then
    let mine := servedPairs m s
    let s := (mine.filter fun e => e.2.st == 0).foldl (fun s e =>
      addProposal c (singleChange e.1 e.2 (otherNode e.2 (myNode s))) .node s) s
    let blocked := match tfind mine fun _ q => q.st != 0 with
      | some e => tput s.node.blocked c e.1
      | none => tdel s.node.blocked c
    { s with node := { s.node with blocked := blocked } }
  else s

/-- The pairs to be admitted at a marker (16 R365): S proposes NORMAL for each that is still in REJOIN. -/
def admitMarker (c : Nat) (m : DMap) (s : State) : State :=
  let mine := s.datum.markerPairs.filter fun e => e.1 == c
  let still := mine.filter fun e => match tlook m.pairs e.2 with
    | some q => (loading q).isSome && (serving q).contains (myNode s)
    | none => false
  let s := { s with datum := { s.datum with markerPairs := (s.datum.markerPairs.filter fun e => e.1 != c) ++ still } }
  still.foldl (fun s e => addProposal c (recPairState e.2 0) .node s) s

/-- Loads under R361 that have been copied: LOAD_DONE goes at the marker. -/
def reloadMarker (c : Nat) (s : State) : State :=
  (s.datum.loadIn.filter fun e => e.2.comp == c && e.2.reload && e.2.st == .copied).foldl (fun s e =>
    sendLoadDone c e.2.srcNode e.1
      { s with datum := { s.datum with loadIn := tput s.datum.loadIn e.1 { e.2 with st := .finishing } } }) s

/-- An accepted STEP_MARKER: LAST_STEP, the window, and what waits for the step boundary. -/
def markerAccepted (c step : Nat) (closes : Bool) (s : State) : State :=
  let s := setComp c { compOf s c with lastStep := step } s
  let s := if closes then closeWindow c s else s
  match (compOf s c).map with
  | none => s
  | some m => drainMarker c m (admitMarker c m (reloadMarker c (sweepMoved s)))

/-- STEP_MARKER (R338, Table 15.5). -/
def execStepMarker (f : RxFrame) (s : State) : Host.Outcome State Fault Refusal :=
  .next (match takeControl f [0x21] s with
    | (none, s) => s
    | (some a, s) =>
      let b := a.payload
      let c := rd b 0 4
      let x := compOf s c
      let e := f.hdr.epoch.toNat
      let no := fun (st : Nat) (s : State) => answerDatum f a.die c st false 0 [] s
      match x.map with
      | none => no (if behind x then stRetry else stNoPage) s
      | some m =>
        if behind x then no stRetry s
        else if m.clock ≠ f.hdr.src.toNat then no stAccess s
        else if rd b 4 4 ≠ 0 ∨ b.length ≠ 16 then no stMalformed s
        else if m.epoch < e then no stRetry (fetchFrom f c s)
        else if e = m.epoch then no stOk (markerAccepted c (rd b 8 8) true s)
        else if e + 1 = m.epoch ∧ x.window = true then no stOk (markerAccepted c (rd b 8 8) false s)
        else no stEpochStale s)

/-! ## Reading maps (R340) -/

/-- The records of a map in the order of MAP_RESP. -/
def mapRecords (x : Comp) (m : DMap) : List Bytes :=
  recHeader m x.window x.lastStep :: (m.pairs.map (fun e => recPair e.1 e.2) ++ m.members.map (fun e => recMember e.1 e.2) ++
    m.places.map recPlace)

/-- The records that fit in `n` bytes. -/
def takeRecs (n : Nat) : List Bytes → List Bytes
  | [] => []
  | r :: rs => if r.length ≤ n then r :: takeRecs (n - r.length) rs else []

/-- MAP_RESP for a composition from a cursor. -/
def mapPage (x : Comp) (m : DMap) (expect cursor : Nat) : Bytes :=
  if expect ≠ 0 ∧ expect ≠ m.epoch then respBody stEpochStale false x.window m.epoch 0 0
  else
    let all := mapRecords x m
    let page := takeRecs 8176 (all.drop cursor)
    let next := if cursor + page.length < all.length then cursor + page.length else 0xFFFFFFFF
    respBody stOk false x.window m.epoch next 0 ++ page.flatten

/-- MAP_READ (R340): an EXPECT_EPOCH above the node's own shows it that it is behind. -/
def execMapRead (f : RxFrame) (s : State) : Host.Outcome State Fault Refusal :=
  .next (match takeControl f [0x22] s with
    | (none, s) => s
    | (some a, s) =>
      let b := a.payload
      let c := rd b 0 4
      let x := compOf s c
      let no := fun (st : Nat) => respond f a.die (epochOf x) (respBody st false x.window (epochOf x) 0 0) s
      if behind x then no stRetry
      else match x.map with
        | none => no stNoPage
        | some m =>
          if (tlook m.members f.hdr.src.toNat).isNone then no stAccess
          else noteEpoch f c (rd b 4 4) (respond f a.die m.epoch (mapPage x m (rd b 4 4) (rd b 8 4)) s))

/-- A map from its records, with LAST_STEP: none where a record breaks Table 15.3 (R7). -/
def mapOfRecs : List Bytes → Option (DMap × Nat)
  | [] => none
  | h :: rs =>
    if rd h 0 1 ≠ 1 ∨ (h :: rs).any (mapRecBad recBad) = true ∨ (rs.all fun r => [2, 5, 7].contains (rd r 0 1)) = false then none
    else
      let m0 : DMap := { epoch := rd h 8 4, tenant := bits (rd h 2 2) 11 0, clock := rd h 4 3 }
      let m := rs.foldl (fun (m : DMap) r =>
        match rd r 0 1 with
        | 2 => { m with pairs := tput m.pairs (bits (rd r 2 2) 8 0) ⟨bits (rd r 4 2) 11 0, bits (rd r 6 2) 11 0, bits (rd r 8 1) 2 0⟩ }
        | 5 => { m with members := tput m.members (memberOf r).1 (memberOf r).2 }
        | 7 => { m with places := insertBy placeKey (placeOf r) m.places }
        | _ => m) m0
      some (m, rd h 16 8)

/-- Proposals of a composition start again from the map just installed (R332). -/
def restartProps (c : Nat) (s : State) : State :=
  match propsOf s c with
  | [] => s
  | p :: _ => setHead c { p with round := 0, phase := .prepare } s

/-- A page of the map that the node fetches has arrived (R340). -/
def onMapPage (c : Nat) (b : Bytes) (s : State) : State :=
  let x := compOf s c
  match x.fetch with
  | none => s
  | some g =>
    let st := statusIn (rd b 0 1)
    if st = stEpochStale then
      let g := { g with cursor := 0, epoch := rd b 4 4, recs := [] }
      askMap c g (setComp c { x with fetch := some g } s)
    else if st ≠ stOk then fetchFails c s
    else
      let recs := g.recs ++ b.drop 16
      if rd b 8 4 = 0xFFFFFFFF then
        match (splitRecs 1048576 recs).bind mapOfRecs with
        | none => fetchFails c s
        | some (m, last) => restartProps c (installFetched c m last s)
      else
        let g := { g with cursor := rd b 8 4, epoch := rd b 4 4, recs := recs }
        askMap c g (setComp c { x with fetch := some g } s)

/-- MAP_FETCH_RESPONSE (R340). -/
def execMapFetchResponse (f : RxFrame) (s : State) : Host.Outcome State Fault Refusal :=
  .next (match takeAnswer f [0xA2] s with
    | (none, s) => s
    | (some (a, _, m), s) =>
      match m.purpose with
      | .mapRead c => onMapPage c a.payload s
      | _ => s)

/-- MAP_NOTICE (16 R351): a composition the node does not hold, or holds at a lower epoch, is fetched from the sender. -/
def execMapNotice (f : RxFrame) (s : State) : Host.Outcome State Fault Refusal :=
  .next (match takeControl f [0x2C] s with
    | (none, s) => s
    | (some a, s) =>
      let c := rd a.payload 0 4
      let x := compOf s c
      if x.map.isNone || decide (epochOf x < rd a.payload 4 4) then fetchFrom f c s else s)

/-! ## Probes (16 R347-R349) -/

/-- What the node knows of a partner. -/
def probeOf (s : State) (n : Nat) : ProbeSt := tget {} s.datum.probe n

/-- Write it. -/
def setProbe (n : Nat) (p : ProbeSt) (s : State) : State := { s with datum := { s.datum with probe := tset {} s.datum.probe n p } }

/-- The partners this node probes: the other nodes of the NORMAL and REJOIN pairs it serves in (R347). -/
def probed (s : State) : List Nat :=
  ((maps s).flatMap fun e => (e.2.pairs.filter fun p => (p.2.st == 0 || p.2.st == 3 || p.2.st == 4) && (serving p.2).contains (myNode s)).map
    fun p => otherNode p.2 (myNode s)).dedup

/-- The outstanding probe of a partner has gone unanswered for 100 µs (R347): the third miss in succession makes it suspect. -/
def probeMissed (n : Nat) (s : State) : State :=
  let p := probeOf s n
  if p.open_ = true ∧ p.missed = false ∧ p.sentAt + 100000 ≤ now s then
    let p := { p with missed := true, misses := p.misses + 1 }
    let s := setProbe n p s
    if p.misses = 3 then suspectPartner n (count (chipCntOff 1) s) else s
  else s

/-- PROBE_MISS (R347). -/
def execProbeMiss (node : BitVec 12) (s : State) : Host.Outcome State Fault Refusal :=
  .next (if awake s then probeMissed node.toNat s else s)

/-- Send a probe to a partner. -/
def sendProbe (n : Nat) (s : State) : State :=
  match endpointOfNode s n with
  | none => s
  | some ep =>
    let p := probeOf s n
    let seq := (p.seq + 1) % 2 ^ 32
    let s := setProbe n { p with seq := seq, sentAt := now s, open_ := true, missed := false } s
    (sendMsg ctlDie
      { op := 0x20, dst := ep, data := leBytes 4 seq ++ leBytes 2 (myNode s) ++ [0, 0], purpose := .probe n seq } s).2

/-- NODE_STATE of PROBE_RESP (Table 16.1). -/
def nodeState (s : State) : Nat := match s.node.st with
  | .serving => 0
  | .draining => 1
  | .drained => 1
  | _ => 2

/-- PROBE (R347). -/
def execProbe (f : RxFrame) (s : State) : Host.Outcome State Fault Refusal :=
  .next (match takeControl f [0x20] s with
    | (none, s) => s
    | (some a, s) =>
      let seq := rd a.payload 0 4
      respond f a.die 0 (leBytes 1 stOk ++ leBytes 1 (nodeState s) ++ [0, 0] ++ leBytes 4 seq ++ List.replicate 8 0) s)

/-- PROBE_RESP (R347): it ends the run of misses; the outstanding probe is answered. One with a reserved field or NODE_STATE 3 is no answer
(00 R7). -/
def onProbeResp (n : Nat) (b : Bytes) (s : State) : State :=
  let p := probeOf s n
  if 2 < rd b 1 1 ∨ zeroAt b 2 2 = false ∨ zeroAt b 8 8 = false then s
  else setProbe n { p with misses := 0, suspect := false, open_ := if rd b 4 4 = p.seq then false else p.open_ } s

/-- WITHDRAW (R348): a partner that withdraws is suspect at once. -/
def execWithdraw (f : RxFrame) (s : State) : Host.Outcome State Fault Refusal :=
  .next (match takeControl f [0x2D] s with
    | (none, s) => s
    | (some a, s) =>
      let n := bits (rd a.payload 0 2) 11 0
      if (partners s).contains n && endpointOfNode s n == some f.hdr.src.toNat then suspectPartner n s else s)

/-- A load with a record that waits for a predecessor longer than a message can take (11 R261): S has ended it, and it starts again (R362;
log 89). -/
def loadBroken (s : State) (l : LoadIn) : Bool := !l.held.isEmpty && decide (l.heard + 1010000 ≤ now s)

/-- Loads and LOAD_DONEs that wait are asked again, and a broken load starts again (log 33). -/
def retryLoads (s : State) : State :=
  let s := (s.datum.loadIn.filter fun e => loadBroken s e.2).foldl (fun s e => restartFrom e.1 e.2.srcNode s) s
  let due := s.datum.loadIn.filter fun e => match e.2.retryAt with | some t => decide (t ≤ now s) | none => false
  let s := due.foldl (fun s e =>
    if e.2.st = .opening then sendLoadOpen e.1 s
    else if e.2.st = .copied ∧ e.2.staged = true ∧ e.2.moved = true then
      sendLoadDone e.2.comp e.2.srcNode e.1
        { s with datum := { s.datum with loadIn := tput s.datum.loadIn e.1 { e.2 with retryAt := none } } }
    else s) s
  (s.datum.comp.map (·.1)).foldl (fun s c => rejoinDone c (openLoads c s)) s

/-- PROBE_TIMER (R347): every 100 µs a probe goes to each partner. -/
def execProbeTimer (s : State) : Host.Outcome State Fault Refusal :=
  .next (
    if !awake s || !s.jx.locked then s
    else
      let due := (probed s).filter fun n => (probeOf s n).seq == 0 || decide ((probeOf s n).sentAt + 100000 ≤ now s)
      retryLoads (due.foldl (fun s n => sendProbe n (probeMissed n s)) s))

end Sys2Proof.Machine
end

