-- ==== Sys2Proof/Machine/Loads.lean ====
section
/-! DEFINITION. Loads from a partner (16 R356-R365; 17 R377): LOAD_OPEN and LOAD_DONE at the serving node, load records at the loading node, and
the placing of a packet's bytes that LOAD_DATA shares with WRITE (11 R246, R256, R260). -/

namespace Sys2Proof.Machine

/-! ## Placing a packet (11 R246, R256) -/

/-- The message of this packet is complete: its tracker is freed and its filter entry is COMPLETE. The final ACK follows what `deliver` does. -/
def completeMsg (f : RxFrame) (deliver : State → State) (s : State) : State :=
  ackPacket f true (deliver (filtComplete f.hdr (dropTrack f.hdr s)))

/-- Note an admitted packet in its tracker: whether the message is now complete, with its colour and collected bytes. -/
def notePacket (f : RxFrame) (a : Admitted) (keep : Bool) (s : State) : Option (Bool × Bytes) × State :=
  match trackOf s f.hdr with
  | none => (some (a.yellow, a.payload), s)
  | some t =>
    let i := f.hdr.pktIndex.toNat
    let data := if keep then put (if t.data.isEmpty then List.replicate t.len 0 else t.data) (8192 * i) a.payload else []
    let t := { t with bits := i :: t.bits, count := t.count + a.payload.length, yellow := t.yellow || a.yellow, data := data }
    if t.count = t.len then (some (t.yellow, t.data), s) else (none, setTrack f.hdr t s)

/-! ## The serving node -/

/-- The key of a load at S. -/
def loadKey (ep id : Nat) : Nat := ep * 2 ^ 32 + id

/-- Row 2 of Table 16.6: the sender may load the sequence from this node: it is the other node of a pair for which this node holds a range, loading
or NORMAL, or a node of a pair that a STAGED record of such a range names. -/
def mayLoad (s : State) (m : DMap) (tag src : Nat) : Bool :=
  match tlook m.members src with
  | none => false
  | some x => x.isNode && x.node != myNode s && m.places.any fun p => p.tag == tag && nodeHolds m (myNode s) p &&
      ((match tlook m.pairs p.pair with
        | some q => inPair q x.node && (loading q == some x.node || q.st == 0)
        | none => false) ||
       m.places.any fun r => r.staged && sameRange r p && (match tlook m.pairs r.pair with | some q => inPair q x.node | none => false))

/-- The map that a message's DATUM_EPOCH names, of those the node holds (15 R331): none where it holds no such map. -/
def mapNamed (x : Comp) (e : Nat) : Option DMap :=
  match x.map with
  | none => none
  | some m => if e = m.epoch then some m else if x.window ∧ e + 1 = m.epoch then x.prev else none

/-- Loads that S still copies: some LOAD_DATA of theirs is not acknowledged (log 33). -/
def serveCount (s : State) : Nat := tcount s.datum.loadOut fun k _ => relaysOut s k

/-- The answer to LOAD_OPEN (Table 16.6), with the sequence's slot where the load opens. A map that the node holds no longer or not yet has the
sender ask again (log 88). -/
def loadAnswer (s : State) (c e tag tenant src : Nat) : Nat × Option Nat :=
  match mapNamed (compOf s c) e with
  | none => (if (compOf s c).map.isNone then stNoPage else stRetry, none)
  | some m =>
    match (if m.tenant = tenant then findSeq s tenant tag else none) with
    | none => (stNoPage, none)
    | some slot =>
      let q := seqOf s slot
      if !((holdsOf m tag).any fun p => nodeHolds m (myNode s) p) || !(q.st == .active || q.st == .shifting) then (stNoPage, none)
      else if !mayLoad s m tag src then (stAccess, none)
      else if 64 ≤ serveCount s ∨ q.st = .shifting ∨ q.app.commitPending = true then (stRetry, none)
      else (stOk, some slot)

/-- Form and send a load's copy records. A delta page that does not decode is reported, and its sequence is lost on this node, which ends the load (10
R232; R362). -/
def serveLoad (key slot dstNode : Nat) (s : State) : State :=
  match (copyPages s slot dstNode).find? fun e => match getPage s slot e.1 e.2 with
    | .corrupt => true
    | _ => false with
  | some (ti, _) =>
    seqLost slot (raise (leafDeltaCorrupt (dirRegion slot)) [(20, 4, slot), (32, 2, (seqOf s slot).tenant), (34, 1, ti / 4)] s)
  | none => copyAll key dstNode s

/-- The chunks of the fast tier that the copy of a sequence reads. -/
def copyChunks (s : State) (slot dstNode : Nat) : List Nat :=
  ((copyPages s slot dstNode).flatMap fun e => match leafOf s slot e.1 e.2 with
    | .leaf l => pageChunks s slot e.1 e.2 l
    | .invalid => []).dedup

/-- LOAD_OPEN (R356). The pages are read as any (04 R93, R105): while a read is held the message is still to be taken. -/
def execLoadOpen (f : RxFrame) (s0 : State) : Host.Outcome State Fault Refusal :=
  .next (match takeControl f [0x29] s0 with
    | (none, s) => s
    | (some a, s) =>
      let b := a.payload
      let c := rd b 0 4
      let id := rd b 4 4
      let src := f.hdr.src.toNat
      let s := noteEpoch f c f.hdr.epoch.toNat s
      let (_, s) := lookSeq (bits (rd b 16 2) 11 0) (rd b 8 8) s
      let answer := fun (st : Nat) (s : State) => respond f a.die 0 (leBytes 1 st ++ [0, 0, 0] ++ leBytes 4 id ++ List.replicate 8 0) s
      match loadAnswer s c f.hdr.epoch.toNat (rd b 8 8) (bits (rd b 16 2) 11 0) src with
      | (st, none) => answer st s
      | (st, some slot) =>
        let node := (nodeOfEndpoint s src).getD 0
        let chunks := copyChunks s slot node
        match readFree (.load src id) chunks s with
        | (.waits, _) => (readFree (.load src id) chunks s0).2
        | (.failed, s) => answer stInternal s
        | (.bad x, s) => answer stInternal (lineLost x s)
        | (.clean, s) =>
          let l : LoadOut := { comp := c, dst := src, slot := slot }
          let s := answer st s
          serveLoad (loadKey src id) slot node { s with datum := { s.datum with loadOut := tput s.datum.loadOut (loadKey src id) l } })

/-- The pairs of a map that node `n` loads from this node. -/
def rejoinPairs (m : DMap) (n : Nat) (s : State) : List Nat :=
  (m.pairs.filter fun e => loading e.2 == some n && (serving e.2).contains (myNode s)).map (·.1)

/-- Every sequence that this node holds for the pairs is under load to the endpoint. -/
def allLoaded (m : DMap) (pairs : List Nat) (src : Nat) (s : State) : Bool :=
  ((m.places.filter fun p => !p.staged && pairs.contains p.pair).filterMap fun p => findSeq s m.tenant p.tag).all fun k =>
    (seqOf s k).st == .releasing || tany s.datum.loadOut fun _ l => l.dst == src && l.slot == k

/-- LOAD_DONE with LOAD_ID 0 (R365): the pairs that S and the sender share in REJOIN are admitted at the next marker. Where S has ended one of the
loads (R362) it answers ST_STATE_CONFLICT, and none is admitted (log 89). -/
def rejoined (c src : Nat) (s : State) : Nat × State :=
  match (compOf s c).map with
  | none => (stOk, s)
  | some m =>
    match tlook m.members src with
    | none => (stOk, s)
    | some x =>
      let ready := rejoinPairs m x.node s
      if allLoaded m ready src s then
        (stOk, { s with datum := { s.datum with markerPairs := (s.datum.markerPairs ++ ready.map fun n => (c, n)).dedup } })
      else (stStateConflict, s)

/-- LOAD_DONE (R361, R363, R365): it is answered once every relay is acknowledged. A load that S has ended is answered ST_STATE_CONFLICT, so that L
starts it again (R362; log 89). -/
def execLoadDone (f : RxFrame) (s : State) : Host.Outcome State Fault Refusal :=
  .next (match takeControl f [0x2B] s with
    | (none, s) => s
    | (some a, s) =>
      let b := a.payload
      let c := rd b 0 4
      let id := rd b 4 4
      let src := f.hdr.src.toNat
      let s := noteEpoch f c f.hdr.epoch.toNat s
      let answer := fun (st : Nat) (s : State) => respond f a.die 0 (leBytes 16 st) s
      if !fromNodeMember (compOf s c) src then answer stAccess s
      else if id = 0 then (match rejoined c src s with | (st, s) => answer st s)
      else match tlook s.datum.loadOut (loadKey src id) with
        | none => answer stStateConflict s
        | some l =>
          finishLoadOut (loadKey src id) { s with datum := { s.datum with
            loadOut := tput s.datum.loadOut (loadKey src id)
              { l with finish := some (src, f.hdr.msgId.toNat, f.srcAddr) } } })

/-! ## The loading node -/

/-- A load's partial copy is released and a new load is opened (R362, Table 16.4). -/
def restartLoad (id : Nat) (s : State) : State :=
  match tlook s.datum.loadIn id with
  | none => s
  | some l => restartFrom id l.srcNode s

/-- Open a record's body (17 R377): none when it does not verify or its key has expired. -/
def openBody (src tenant : Nat) (hdr body : Bytes) (s : State) : Option Bytes :=
  if !isProtected s tenant then some body
  else match slotOfTenant s tenant with
    | none => none
    | some (_, ks) =>
      let ctr := rd body 0 8
      match chooseKey ks.keys ctr with
      | none => none
      | some lk =>
        let key := Config.hmacSha256 lk.key (beBytes 4 0x4C4F4144)
        let nonce := beBytes 12 (src * 2 ^ 72 + ctr)
        let n := body.length - 24
        let ct := slice body 8 n
        if body.length < 24 ∨ keyExpired lk ctr = true ∨ rd body (8 + n) 16 ≠ (Config.gcmTag key nonce hdr ct).toNat then none
        else some (padTo n (Config.gcmOpen key nonce hdr ct))

/-- What applying a record leaves: the status it is refused with, ST_OK when it is applied, and the state. -/
abbrev Applied : Type := Nat × State

/-- A record's body has a non-zero reserved byte or bit (Table 16.2, 00 R7). -/
def recordRsv (kind : Nat) (b : Bytes) : Bool :=
  match kind with
  | 1 => !zeroAt b 80 (b.length - 80)
  | 2 => bitAt (rd b 1 1) 3 || bits (rd b 1 1) 7 6 != 0 || !zeroAt b 2 2 || !zeroAt b 8 8 || !zeroAt b 336 (b.length - 336)
  | 3 => bits (rd b 2 1) 7 6 != 0 || !zeroAt b 3 1 || !zeroAt b 14 50
  | 4 => !zeroAt b 5 3 || !zeroAt b 12 4 || !zeroAt b 272 (b.length - 272)
  | 5 => !zeroAt b 8 (b.length - 8)
  | _ => true

/-- Apply a SEQ record (Table 16.2): a slot in state LOADING. A descriptor that R55 refuses is refused here too (00 R7). A sequence that another
range keeps at this node takes the load in its entry (log 90). Without a slot or a table unit the record is refused with ST_RETRY (03 R54, R64), and so
while the entry of a copy that was released still waits to be freed (03 R78; log 69). -/
def applySeqRec (id : Nat) (l : LoadIn) (b : Bytes) (s : State) : Applied :=
  let at_ := fun (slot : Nat) (s : State) =>
    { s with datum := { s.datum with loadIn := tput s.datum.loadIn id { l with st := .copying, slot := some slot } } }
  if descBad (slice b 0 64) then (stMalformed, s) else
  match findSeq s l.tenant l.tag with
  | some slot =>
    if (seqOf s slot).st = .releasing then (stRetry, s)
    else if (seqOf s slot).desc = slice b 0 64 then (stOk, at_ slot s) else (stInternal, s)
  | none =>
  match allocSlot s with
  | none => (stRetry, dirFull s)
  | some slot =>
    match makeSeq slot l.tenant l.tag (rd b 64 8) (rd b 72 8) .loading (slice b 0 64) s with
    | none => (stRetry, frameExhausted (dirRegion slot) s)
    | some s => (stOk, at_ slot s)

/-- Apply a TENSOR record. A layer or kind that R56 refuses is refused here too. Without units for a deep page table it is refused with ST_RETRY
(03 R64). -/
def applyTensorRec (slot : Nat) (b : Bytes) (s : State) : Applied :=
  let ti := 4 * rd b 0 1 + bits (rd b 1 1) 1 0
  if tensorBad (seqOf s slot).desc (rd b 0 1) (bits (rd b 1 1) 1 0) ∨ 2 < bits (rd b 1 1) 5 4 then (stMalformed, s) else
  match (if (tenOf (seqOf s slot) ti).st = .absent then regTensor slot ti (bitAt (rd b 1 1) 2) s else some s) with
  | none => (stRetry, frameExhausted (dirRegion slot) s)
  | some s =>
    let t := tenOf (seqOf s slot) ti
    let params := (List.range 64).map fun h => ({ s := BitVec.ofNat 32 (rd b (16 + 4 * h) 4), z := rd b (272 + h) 1 } : HeadParam)
    let blank := params.all fun x => x.s == 0 && x.z == 0
    let s := setTen slot ti { t with hint := bits (rd b 1 1) 5 4, params := if blank then [] else params } s
    let q := seqOf s slot
    (stOk, setSeq slot { q with sat := tset 0 q.sat (rd b 0 1) (rd b 4 4) } s)

/-- Write the covered tokens of a PAGE record into its page, and take a full page of a DEEP tensor to the deep tier (05 R112). -/
def writePageRec (slot ti idx first n : Nat) (areas : Bytes) (s : State) : State :=
  let q := seqOf s slot
  let d := q.desc
  let lo := idx % dPages d * dTokens d
  match leafOf s slot ti idx with
  | .invalid => s
  | .leaf e =>
    let name := leafFrame e
    let t := tenOf q ti
    let page := mergePage d (ti % 4) (first - lo) n areas (pageOrZero s slot ti idx)
    if readsDeep t idx then writeDeep (deepAddr (deepEnt t idx)) (storedOf s q.tenant name page) s
    else
      let s := writeFastFor q.tenant name page s
      if t.st = .deep ∧ first + n = lo + dTokens d then
        match copyDown slot ti idx e s with
        | none => s
        | some s => giveUpFast slot ti idx e s
      else s

/-- Apply a PAGE record: its bytes go into the page's frame, which is allocated where the page has none. One of a tensor that is not registered, or of
tokens outside the page, is refused. Without a frame or table unit it is refused with ST_RETRY (03 R64, R66). -/
def applyPageRec (slot : Nat) (b : Bytes) (s : State) : Applied :=
  let d := (seqOf s slot).desc
  let ti := 4 * rd b 0 1 + rd b 1 1
  let p := rd b 4 4
  let idx := pageIdx d (bits (rd b 2 1) 5 0) p
  let first := rd b 8 4
  let n := rd b 12 2
  if tensorBad d (rd b 0 1) (rd b 1 1) then (stMalformed, s)
  else if (tenOf (seqOf s slot) ti).st = .absent ∨ dGroups d ≤ bits (rd b 2 1) 5 0 ∨ dPages d ≤ p ∨ first < p * dTokens d ∨ (p + 1) * dTokens d < first + n then (stInternal, s)
  else
    match (match leafOf s slot ti idx with
      | .invalid => givePage slot ti idx s
      | .leaf _ => some s) with
    | none => (stRetry, frameExhausted (dirRegion slot) s)
    | some s => (stOk, writePageRec slot ti idx first n (b.drop 64) s)

/-- Apply a STATE record in one step (09 R204). In an entry that the node serves for another range it only raises C (log 90). -/
def applyStateRec (slot : Nat) (b : Bytes) (s : State) : State :=
  let q := seqOf s slot
  if q.st ≠ .loading ∧ rd b 0 4 ≤ q.committed then s else
  let fill := (List.range 256).foldl (fun t l => tset 0 t l (rd b (16 + l) 1)) ([] : Tbl Nat)
  setSeq slot { q with committed := rd b 0 4, tail := rd b 4 1, app := { q.app with fill := fill, rotOffset := rd b 8 4 } } s

/-- Apply END (R361, R363, R365): the load is copied. -/
def applyEnd (id : Nat) (l : LoadIn) (slot : Nat) (s : State) : State :=
  let s := { s with datum := { s.datum with loadIn := tput s.datum.loadIn id { l with st := .copied } } }
  if l.staged then
    let q := seqOf s slot
    let s := setSeq slot { q with app := { q.app with copied := true } } s
    if l.moved then sendLoadDone l.comp l.srcNode id s else s
  else if l.reload then s
  else openLoads l.comp (rejoinDone l.comp s)

/-- Apply the record that is next in number order; one with a reserved field that is not 0 is refused with ST_MALFORMED (00 R7). -/
def applyRecord (id kind : Nat) (b : Bytes) (s : State) : Applied :=
  match tlook s.datum.loadIn id with
  | none => (stInternal, s)
  | some l =>
    if recordRsv kind b then (stMalformed, s)
    else match kind, l.slot with
      | 1, none => applySeqRec id l b s
      | 2, some slot => applyTensorRec slot b s
      | 3, some slot => applyPageRec slot b s
      | 4, some slot => (stOk, applyStateRec slot b s)
      | 5, some slot => (stOk, applyEnd id l slot s)
      | _, _ => (stInternal, s)

/-- Apply the held records of a load as long as the next is there (R357), up to one that is refused. One that does not verify is counted
LOAD_AUTH_FAIL (17 R377). A record refused with ST_RETRY is the next still, and is not held: the sender resends its message. -/
def applyHeld (src id : Nat) : Nat → State → Applied
  | 0, s => (stOk, s)
  | n + 1, s =>
    match tlook s.datum.loadIn id with
    | none => (stOk, s)
    | some l =>
      match tlook l.held l.next with
      | none => (stOk, s)
      | some r =>
        let rest := tdel l.held l.next
        let at_ := fun (k : Nat) => { s with datum := { s.datum with loadIn := tput s.datum.loadIn id { l with held := rest, next := k } } }
        match openBody src l.tenant (r.take 16) (r.drop 16) s with
        | none => (stInternal, count (chipCntOff 3) (at_ l.next))
        | some b =>
          let (st, s) := applyRecord id (rd r 0 1) b (at_ (l.next + 1))
          if st = stOk then applyHeld src id n s
          else (st, { s with datum := { s.datum with loadIn := tput s.datum.loadIn id { l with held := rest } } })

/-- The records of a LOAD_DATA message, each with its header and its body of BODY_LEN bytes. -/
def splitLoad : Nat → Bytes → Option (List Bytes)
  | 0, b => if b.isEmpty then some [] else none
  | n + 1, b =>
    if b.isEmpty then some []
    else
      let len := rd b 8 4
      let size := 16 + alignUp 64 len
      if b.length < 16 + len then none else (splitLoad n (b.drop size)).map (b.take (16 + len) :: ·)

/-- Take the records of one message into their loads (R357): the status of the first that is refused, with the loads that are to start again. A load
whose record met a shortage that may pass keeps its place (03 R64). -/
def takeRecords (src : Nat) (rs : List Bytes) (s : State) : Nat × List Nat × State :=
  rs.foldl (fun acc r =>
    let (ok, bad, s) := acc
    let id := rd r 4 4
    match tlook s.datum.loadIn id with
    | none => (if ok = stOk then stInternal else ok, bad, s)
    | some l =>
      if l.st = .waitPrimary ∨ endpointOfNode s l.srcNode ≠ some src then (if ok = stOk then stInternal else ok, bad, s)
      else if !zeroAt r 1 3 then (if ok = stOk then stMalformed else ok, (bad ++ [id]).dedup, s)
      else
        let n := rd r 12 4
        let l' := { l with held := tput l.held n r, heard := if l.held.isEmpty ∨ n = l.next then now s else l.heard }
        let s := if n < l.next then s else { s with datum := { s.datum with loadIn := tput s.datum.loadIn id l' } }
        let (st, s) := applyHeld src id (l.held.length + 1) s
        if st = stOk then (ok, bad, s)
        else
          (if ok = stOk then st else ok, if st = stRetry then bad else (bad ++ [id]).dedup, s)) (stOk, [], s)

/-- LOAD_DATA (R357, R362): a refused record ends the load at both nodes, but for a shortage that may pass (03 R64); the message is answered with the
record's status (00 R7; 11 R259; log 37). -/
def execLoadData (f : RxFrame) (s : State) : Host.Outcome State Fault Refusal :=
  .next (match takeControl f [0x2A] s with
    | (none, s) => s
    | (some a, s) =>
      match notePacket f a true s with
      | (none, s) => ackPacket f false s
      | (some (_, data), s) =>
        match splitLoad 16384 data with
        | none => failMsg f stInternal s
        | some rs =>
          let (st, bad, s) := takeRecords f.hdr.src.toNat rs s
          if st = stOk then completeMsg f id s else failMsg f st (bad.foldl (fun s i => restartLoad i s) s))

/-- A load whose LOAD_OPEN was answered (R356, R363, R467). -/
def onLoadOpened (id st : Nat) (s : State) : State :=
  match tlook s.datum.loadIn id with
  | none => s
  | some l =>
    let put_ := fun (l : LoadIn) => { s with datum := { s.datum with loadIn := tput s.datum.loadIn id l } }
    if st = stOk then (if l.st = .opening then put_ { l with st := .copying } else s)
    else if st = stNoPage ∧ l.staged = false then rejoinDone l.comp (put_ { l with st := .copied })
    else
      let other := (((compOf s l.comp).map.bind fun m => tlook m.pairs l.srcPair).bind fun q =>
        (serving q).find? fun n => n != l.srcNode && n != myNode s).getD l.srcNode
      put_ { l with st := .opening, srcNode := if l.staged then other else l.srcNode, retryAt := some (now s) }

/-- S has answered LOAD_DONE of a load with ST_OK (R361, R363): the sequence becomes ACTIVE. -/
def onLoadFinished (id : Nat) (s : State) : State :=
  match tlook s.datum.loadIn id with
  | none => s
  | some l => admitLoad id l s

/-- S has ended the loads that LOAD_DONE names (R362): they start again. LOAD_ID 0 names those of the pairs that the node serves. -/
def onLoadEnded (m : OutMsg) (id : Nat) (s : State) : State :=
  let s := loadDoneAgain m id s
  if id ≠ 0 then restartLoad id s
  else ((s.datum.loadIn.filter fun e => e.2.comp == rd m.data 0 4 && !e.2.reload && !e.2.staged && endpointOfNode s e.2.srcNode == some m.dst).map
    (·.1)).foldl (fun s i => restartLoad i s) s

/-- LOAD_RESPONSE (R356, R361). -/
def execLoadResponse (f : RxFrame) (s : State) : Host.Outcome State Fault Refusal :=
  .next (match takeAnswer f [0xA9, 0xAB] s with
    | (none, s) => s
    | (some (a, _, m), s) =>
      let st := statusIn (rd a.payload 0 1)
      match m.purpose with
      | .loadOpen id => onLoadOpened id st s
      | .loadDone id => if st = stStateConflict then onLoadEnded m id s else if st ≠ stOk then loadDoneAgain m id s else if id = 0 then s else onLoadFinished id s
      | _ => s)

end Sys2Proof.Machine
end

