-- ==== Sys2Proof/Machine/Arrive.lean ====
section
/-! DEFINITION. Requests that arrive (11 R246-R250): WRITE, WRITE_IMM, READ, CAS, the commit control messages (09 R209) and the responses that no other
row takes. -/

namespace Sys2Proof.Machine

/-- The backing of a window can be reached: no frame lies in a fenced region (log 38). -/
def backed (s : State) (id : Nat) : Bool := (winOf s id).frames.all fun a => !rgnFenced s (a / 2 ^ 40)

/-- A record arrives in RETURN_WINDOW of RETURN_GEN (12 R286): the FORWARD that used the record's ENABLE_MSG_ID completes with its status. -/
def forwardRecord (f : RxFrame) (s : State) : State :=
  let w := f.hdr.windowId.toNat
  let rec_ := winRead s w f.hdr.offset.toNat 64
  let hit := s.slu.inst.findSome? fun e =>
    (e.2.acts.zipIdx.find? fun a => a.1 == .busy && aOp e.2.bytes a.2 == 4 &&
      (let p := aParams e.2.bytes a.2
       rd p 0 3 == f.hdr.src.toNat && bits (rd p 26 2) 13 0 == w && rd p 28 2 == f.hdr.windowGen.toNat &&
         e.2.tenant == f.hdr.tenant.toNat && e.2.fwdIds.contains (rd rec_ 16 4))).map fun a => (e.1, a.2)
  match hit with
  | none => s
  | some (i, k) =>
    let s := { s with jx := { s.jx with out := tfilter s.jx.out fun _ m => m.purpose != .forward i k } }
    actDone i k (statusIn (rd rec_ 0 1)) false false 0 s

/-- A WRITE or WRITE_IMM packet is placed (11 R246, R256); a complete message delivers its immediate (R247) and is acknowledged. -/
def placeWrite (f : RxFrame) (a : Admitted) (s : State) : State :=
  let h := f.hdr
  if !backed s h.windowId.toNat then failMsg f stInternal s
  else
    let s := winWrite h.windowId.toNat (h.offset.toNat + 8192 * h.pktIndex.toNat) a.payload s
    match notePacket f a false s with
    | (none, s) => ackPacket f false s
    | (some (yellow, _), s) =>
      completeMsg f (fun s =>
        if h.opcode.toNat = 2 then deliverImm h.tenant.toNat h.immediate.toNat yellow (frameMsg f) s
        else if h.msgLen.toNat = 64 ∧ (winOf s h.windowId.toNat).kind = 5 then forwardRecord f s else s) s

/-- A REDIRECT reaches the node (15 Table 15.4): it is not answered, and an epoch above the node's own has it fetch the map (R340). -/
def redirected (f : RxFrame) (s : State) : State :=
  match receive f s with
  | (some a, s) => noteEpoch f (rd a.payload 0 4) (rd a.payload 4 4) s
  | (none, s) => s

/-- JX_WRITE (11 R246). A packet whose opcode no table defines, and a REDIRECT, take the checks here. -/
def execJxWrite (f : RxFrame) (s : State) : Host.Outcome State Fault Refusal :=
  .next (
    let op := f.hdr.opcode.toNat
    if op = 1 then
      match receive f s with
      | (some a, s) => placeWrite f a s
      | (none, s) => s
    else if op = 0x24 then redirected f s
    else if opDefined op = false then (receive f s).2
    else s)

/-- JX_WRITE_IMM (11 R247). -/
def execJxWriteImm (f : RxFrame) (s : State) : Host.Outcome State Fault Refusal :=
  .next (
    if f.hdr.opcode.toNat = 2 then
      match receive f s with
      | (some a, s) => placeWrite f a s
      | (none, s) => s
    else s)

/-- The chunks of window bytes [off, off + n). -/
def winChunks (s : State) (id off n : Nat) : List Nat := (chunksOf (winSegs (winOf s id) (n / 65536 + 2) off n)).dedup

/-- A message reads `n` bytes of its window, as any read of the fast tier (04 R83, R93, R99, R105): with the bytes there it goes on as `f`; a line beyond
correction, or a failed redo, fails it (11 R259); one that must wait is still to be taken, from the state before (log 107). -/
def readWindow (x : ReadPkt) (n : Nat) (before s : State) (f : State → State) : State :=
  let who := Reader.message x.frame.hdr.src.toNat x.frame.hdr.msgId.toNat
  let w := x.frame.hdr.windowId.toNat
  let chunks := winChunks s w x.frame.hdr.offset.toNat n
  if !backed s w then failMsg x.frame stInternal s
  else match readChunks who chunks x.lines s with
    | (.waits, _) => (readChunks who chunks x.lines before).2
    | (.failed, s) => failMsg x.frame stInternal s
    | (.bad a, s) => failMsg x.frame stInternal (lineLost a s)
    | (.clean, s) => f s

/-- JX_READ (11 R248): served afresh at each arrival. -/
def execJxRead (x : ReadPkt) (s : State) : Host.Outcome State Fault Refusal :=
  .next (match takeControl x.frame [0x03] s with
    | (none, s) => s
    | (some a, s') =>
      let h := x.frame.hdr
      let n := h.msgLen.toNat
      readWindow x n s s' fun s => respond x.frame a.die 0 (winRead s h.windowId.toNat h.offset.toNat n) s)

/-- JX_CAS (11 R249): SWAP is written when the 8 bytes equal COMPARE; the response carries the bytes read. -/
def execJxCas (x : ReadPkt) (s : State) : Host.Outcome State Fault Refusal :=
  .next (match takeControl x.frame [0x04] s with
    | (none, s) => s
    | (some a, s') =>
      let w := x.frame.hdr.windowId.toNat
      let off := x.frame.hdr.offset.toNat
      readWindow x 8 s s' fun s =>
        let old := winRead s w off 8
        respond x.frame a.die 0 old (if old = slice a.payload 0 8 then winWrite w off (slice a.payload 8 8) s else s))

/-- A commit control message (09 R209): a body whose TENANT differs from the header's is malformed (11 R250), as a reserved OP is. -/
def commitControl (f : RxFrame) (s : State) : State :=
  match takeControl f [0x23] s with
  | (none, s) => s
  | (some a, s) =>
    let b := if cTenant a.payload = f.hdr.tenant.toNat then a.payload else
      put (put (padTo 32 a.payload) 0 [3]) 2 (leBytes 2 f.hdr.tenant.toNat)
    ctlArrive b a.die (frameMsg f) s

/-- The plain text of a commit control message names OP `op`; a body that cannot be read is COMMIT's. -/
def namesOp (s : State) (f : RxFrame) (op : Nat) : Bool :=
  match openPkt s f with
  | some b => bits (rd b 0 1) 1 0 == op || (op == 0 && bits (rd b 0 1) 1 0 == 3)
  | none => op == 0

/-- COMMIT (09 R210). -/
def execCommit (f : RxFrame) (s : State) : Host.Outcome State Fault Refusal :=
  .next (if namesOp s f 0 then commitControl f s else s)

/-- ROLLBACK (09 R215). -/
def execRollback (f : RxFrame) (s : State) : Host.Outcome State Fault Refusal :=
  .next (if namesOp s f 1 then commitControl f s else s)

/-- SHIFT (09 R217). -/
def execShift (f : RxFrame) (s : State) : Host.Outcome State Fault Refusal :=
  .next (if namesOp s f 2 then commitControl f s else s)

/-- A COMMIT_RESP has a non-zero reserved bit (09 Table 9.6, 00 R7). -/
def commitRespBad (b : Bytes) : Bool := bits (rd b 1 1) 7 3 != 0 || !zeroAt b 2 2 || bits (rd b 4 4) 31 25 != 0

/-- JX_RESPONSE_RECEIVE (11 R254): COMMIT_RESP and PROBE_RESP complete the node's requests; a response to a request that the node never makes is
counted. -/
def execJxResponseReceive (f : RxFrame) (s : State) : Host.Outcome State Fault Refusal :=
  .next (match takeAnswer f [0x83, 0x84, 0xA0, 0xA1, 0xA3, 0xA8] s with
    | (none, s) => s
    | (some (a, id, m), s) =>
      let st := if commitRespBad a.payload then stMalformed else statusIn (rd a.payload 0 1)
      match m.purpose with
      | .probe n _ => onProbeResp n a.payload s
      | .ctlForward slot => ctlForwarded slot id (if st = stOk then .okay else .refused st) s
      | _ => s)

end Sys2Proof.Machine
end

