-- ==== Sys2Proof/Machine/Chains.lean ====
section
/-! DEFINITION. The actions of a chain that are not about a sequence (12 R279, R286, R290, R291; 07 R174-R176; 11 R266): FORWARD, SIGNAL, programs
and windows. -/

namespace Sys2Proof.Machine

/-! ## Forwarding -/

/-- The message a FORWARD sends (R286). -/
def forwardMsg (x : Inst) (inst k : Nat) (p : Bytes) (m : EnMsg) (s : State) : OutMsg :=
  { op := 2, dst := rd p 0 3, tenant := x.tenant, window := bits (rd p 4 2) 13 0, gen := rd p 6 2
    offset := (rd p 16 6 + m.offset + (2 ^ 48 - rd p 8 6)) % 2 ^ 48
    imm := bits (rd p 24 2) 14 0 * 2 ^ 17 + x.arg % 2 ^ 17, epoch := m.epoch, data := winRead s m.window m.offset m.len
    part := some (x.part, x.lc), purpose := .forward inst k }

/-- A load of the enabling append's sequence has stopped and its relays are still out (16 R360): the forward waits for them. -/
def relaysPend (s : State) (x : Inst) : Bool :=
  match findSeq s x.tenant (fwdTag x) with
  | none => false
  | some slot => tany s.datum.loadOut fun _ l => l.slot == slot && l.stopped

/-- The pair is degraded, or the sequence is under load, so no partner is owed the append (R286; 09 R213; 16 R358). -/
def forwardAlone (s : State) (x : Inst) : Bool :=
  degradedAt s x.tenant (fwdTag x) (fwdToken s x) ||
  (match findSeq s x.tenant (fwdTag x) with
   | none => false
   | some slot => underLoad s slot)

/-- FORWARD (R286). It waits while its die has all its messages in flight (11 R262). -/
def execForward (inst : Nat) (s : State) : Host.Outcome State Fault Refusal :=
  .next (match startedAct s inst 4 with
    | none => s
    | some (x, k, p) =>
      match x.msg with
      | none => s
      | some m =>
        if relaysPend s x then s
        else if sendFull s x.die = true ∧ forwardAlone s x = false then s
        else if forwardAlone s x then actDone inst k stOk false true 0 s
        else
          match sendMsg x.die (forwardMsg x inst k p m s) s with
          | (.refused st, s) => actEnd inst k st s
          | (.sent id, s) =>
            match instOf s inst with
            | none => s
            | some x => setInst inst { x with acts := x.acts.set k .busy, fwdIds := x.fwdIds ++ [id] } s)

/-- SIGNAL (Table 12.5): a WRITE_IMM of MSG_LEN 0; it completes when the message is handed to Jexus, and waits while its die has all its
messages in flight (11 R262). -/
def execSignal (inst : Nat) (s : State) : Host.Outcome State Fault Refusal :=
  .next (match startedAct s inst 5 with
    | none => s
    | some (x, k, p) =>
      let m : OutMsg :=
        { op := 2, dst := rd p 0 3, tenant := x.tenant, window := bits (rd p 4 2) 13 0, gen := rd p 6 2, offset := rd p 8 6
          imm := bits (rd p 16 2) 14 0 * 2 ^ 17 + x.arg % 2 ^ 17, part := some (x.part, x.lc) }
      if sendFull s x.die then s else
      match sendMsg x.die m s with
      | (.sent _, s) => actEnd inst k stOk s
      | (.refused st, s) => actEnd inst k st s)

/-! ## Programs -/

/-- The image staged in a tenant's program window. -/
def stagedImage (s : State) (tenant : Nat) : Bytes :=
  match tfind s.slu.win fun _ w => w.st != .free && w.kind == 2 && w.tenant == tenant with
  | none => []
  | some (id, _) =>
    let head := winRead s id 0 64
    winRead s id 0 (min 196608 (max 64 (rd head 4 4)))

/-- The lowest FREE slot that no install under way has taken (R174). -/
def freeProg (s : State) : Option Nat :=
  findFrom 0 256 fun i => (progOf s i).st == .free && !tany s.installs fun _ x => x.slot == i

/-- PROGRAM_INSTALL (R174): the install is accepted, its image validated and its slot taken. An install of the same tenant waits for the one under way. -/
def execProgramInstall (inst : Nat) (s : State) : Host.Outcome State Fault Refusal :=
  .next (match startedAct s inst 0x0E with
    | none => s
    | some (x, k, _) =>
      if (tlook s.installs x.tenant).isSome then s
      else
        let img := stagedImage s x.tenant
        match programBad img with
        | some (o, i, off) =>
          actEnd inst k stMalformed (raise leafProgramInvalid [(40, 1, o), (41, 1, i), (44, 4, off)] s)
        | none =>
          match freeProg s with
          | none => actEnd inst k stStateConflict s
          | some slot => actBusy inst k { s with installs := tput s.installs x.tenant ⟨inst, slot, img⟩ })

/-- The tenant's key slot is in service, or the tenant is firmware. -/
def tenantLive (s : State) (t : Nat) : Bool :=
  t == 0 || (match slotOfTenant s t with
    | some (_, k) => k.st == .active
    | none => false)

/-- PROGRAM_INSTALL_COMPLETE (R174): the image and its digest are in the slot, which is INSTALLED, or DRAINING when its tenant is being
removed (17 R385). -/
def execProgramInstallComplete (tenant : BitVec 12) (s : State) : Host.Outcome State Fault Refusal :=
  .next (match tlook s.installs tenant.toNat with
    | none => s
    | some i =>
      let p : Prog :=
        { st := if tenantLive s tenant.toNat then .installed else .draining, tenant := tenant.toNat, gen := (progOf s i.slot).gen, uses := 0, digest := Config.sha256 i.image, image := i.image }
      let s := { s with prog := tput s.prog i.slot p, installs := tdel s.installs tenant.toNat }
      endBusy i.inst 0x0E stOk false false (i.slot + p.gen * 65536) s)

/-- PROGRAM_REMOVE of a slot and generation by a tenant (Table 7.9). -/
def programRemoveDo (tenant slot gen : Nat) (s : State) (who : Who := none) : Nat × State :=
  let p := progOf s slot
  if p.st = .free then (stStateConflict, refuseC tenant 5 0 0x0F slot s who)
  else if p.tenant ≠ tenant then (stAccess, s)
  else if p.gen ≠ gen then (stStateConflict, refuseC tenant 5 (progCode p.st) 0x0F slot s who)
  else (stOk, { s with prog := tput s.prog slot { p with st := .draining } })

/-- PROGRAM_REMOVE (R175). -/
def execProgramRemove (inst : Nat) (s : State) : Host.Outcome State Fault Refusal :=
  .next (match startedAct s inst 0x0F with
    | none => s
    | some (x, k, p) =>
      match programRemoveDo x.tenant (rd p 0 1) (rd p 2 2) s (whoOf x.msg) with
      | (st, s) => actEnd inst k st s)

/-- PROGRAM_SLOT_FREE (R176). -/
def execProgramSlotFree (slot : Fin 256) (s : State) : Host.Outcome State Fault Refusal :=
  .next (
    let p := progOf s slot.val
    if p.st = .draining ∧ p.uses = 0 then { s with prog := tset {} s.prog slot.val { gen := (p.gen + 1) % 65536 } } else s)

/-! ## Windows -/

/-- A window of this kind is the tenant's own business, or firmware's (R290). -/
def mayWindow (x : Inst) (kind owner : Nat) : Bool :=
  if kind = 2 ∨ kind = 3 then bitAt x.priv 7 else owner == x.tenant

/-- WINDOW_OPEN (R290). -/
def execWindowOpen (inst : Nat) (s : State) : Host.Outcome State Fault Refusal :=
  .next (match startedAct s inst 0x10 with
    | none => s
    | some (x, k, p) =>
      let kind := bits (rd p 0 1) 3 0
      if !mayWindow x kind x.tenant then actEnd inst k stAccess s
      else match openWindow kind x.tenant (rd p 8 6) s with
        | none => actEnd inst k stRetry (count (netCntOff x.die 22) s)
        | some (id, s) => actDone inst k stOk false false (id + winGen s id * 65536) s)

/-- The code of a window's state (Table 11.3). -/
def winCode : WinSt → Nat
  | .free => 0 | .active => 1 | .draining => 2

/-- WINDOW_REVOKE (R266, Table 12.9): the record is written when the descriptor becomes FREE. -/
def execWindowRevoke (inst : Nat) (s : State) : Host.Outcome State Fault Refusal :=
  .next (match startedAct s inst 0x11 with
    | none => s
    | some (x, k, p) =>
      let id := bits (rd p 0 2) 13 0
      let gen := rd p 2 2
      let w := winOf s id
      if w.st ≠ .free ∧ mayWindow x w.kind w.tenant = false then actEnd inst k stAccess s
      else if gen = winGen s id then
        if w.st = .free then actEnd inst k stStateConflict (refuseN x.die x.tenant 3 0 0x11 id x.msg s)
        else
          let s := startDrainWin id s
          setWin id { winOf s id with revokers := (winOf s id).revokers ++ [inst] } (actBusy inst k s)
      else if w.st = .free ∧ (gen + 1) % 65536 = winGen s id then actDone inst k stOk true false 0 s
      else actEnd inst k stBadGen s)

/-- WINDOW_FREE (R266): nothing holds the window any more; its memory is given back, GEN rises and the entries it enabled drain. -/
def freeWindow (id : Nat) (s : State) : State :=
  let w := winOf s id
  let gen := winGen s id
  let sealed_ := isSealed s w.tenant
  let s := w.frames.foldl (fun s a => releaseFast sealed_ a s) s
  let s := setWin id { w with st := .free, bumps := (w.bumps + 1) % 65536, frames := [], drainAt := 0, reads := 0, revokers := [] } s
  w.revokers.foldl (fun s i => endBusy i 0x11 stOk false false 0 s) (windowGone id gen s)

/-- WINDOW_FREE (R266). -/
def execWindowFree (id : Fin 16384) (s : State) : Host.Outcome State Fault Refusal :=
  .next (if (winOf s id.val).st = .draining ∧ winInFlight s id.val = 0 then freeWindow id.val s else s)

end Sys2Proof.Machine
end

