-- ==== Sys2Proof/Machine/Migrate.lean ====
section
/-! DEFINITION. The ends of migrations and firmware's copies of pages (03 R67; 05 R112, R118-R122), at the migration level of 02 R37. -/

namespace Sys2Proof.Machine

/-! ## Access to the channels -/

/-- A move at the migration level waits on a channel: a block read or an atom goes first (02 R37). Tier port p counts as channel 192 + p. -/
def rankWaits (s : State) (chans : List Nat) : Bool :=
  rivalRead s s.nextReq 16 0 chans false || chans.any fun ch => decide (ch < 192) && atomWaits s ch

/-- A leaf names a frame that is no fast-tier memory (04 R88). -/
def leafBeyond (s : State) (e : Nat) : Bool := !leafDelta e && nodeBeyond s (leafFrame e)

/-- WALK_MALFORMED of a tensor (04 R88). -/
def tenMalformed (slot ti : Nat) (s : State) : State :=
  raise (leafWalkMalformed (dirRegion slot)) [(18, 1, stInternal), (20, 4, slot), (32, 2, (seqOf s slot).tenant), (34, 1, ti / 4)] s

/-! ## The end of a migration -/

/-- Copy the pages of a demotion in ascending order: false when no port has room for one (R122). -/
def copyAllDown (slot ti : Nat) : List (Nat × Nat) → State → Bool × State
  | [], s => (true, s)
  | (idx, e) :: rest, s =>
    if needsCopy (seqOf s slot) ti idx then
      match copyDown slot ti idx e s with
      | none => (false, s)
      | some s => copyAllDown slot ti rest s
    else copyAllDown slot ti rest s

/-- Copy a promoted page into its reserved storage (R120; 10 R229). -/
def copyUp (slot ti : Nat) (r : Nat × Nat) (s : State) : State :=
  let (idx, a) := r
  let q := seqOf s slot
  let d := deepEnt (tenOf q ti) idx
  match leafOf s slot ti idx with
  | .invalid => s
  | .leaf e =>
    let name := leafFrame e
    if !d.valid then s
    else if leafDelta e then
      match tlook s.sto.loc (locKey name) with
      | none => s
      | some l =>
        let s := writeFast a (memRead s.mem.deep (deepAddr d) l.codedLen) (reuseFast a (.coded slot ti idx) s)
        { s with sto := { s.sto with loc := tput s.sto.loc (locKey name) { l with inFast := true, first := a } } }
    else
      nameOff name (writeFast a (memRead s.mem.deep (deepAddr d) (dPageSize q.desc)) (reuseFast a (.page slot ti idx) s))

/-- The pages that a demotion copies, with their leaves. -/
def copiedPages (s : State) (slot ti : Nat) : List (Nat × Nat) := (livePages s slot ti).filter fun p => needsCopy (seqOf s slot) ti p.1

/-- The chunks of the fast tier that a migration reads, or writes. -/
def migChunks (s : State) (slot ti : Nat) (m : Mig) : List Nat :=
  if (tenOf (seqOf s slot) ti).toDeep then (copiedPages s slot ti).flatMap fun p => ownChunks s slot ti p.1 p.2
  else m.reserved.flatMap fun r => spanChunks (r.2, dPageSize (seqOf s slot).desc)

/-- What ends a migration early at a port is reported (R126). -/
def migError (outcome : MigOutcome) (s : State) : State :=
  match outcome with
  | .poison p => raiseCount (leafTierPoison p) (tierCntOff p 1) [] s
  | .timeout p => tierTimeout p s
  | _ => s

/-- What the line code found, of a migration's outcome. -/
def migLines : MigOutcome → LineOutcome
  | .fastCorrected a => .corrected a
  | .fastError a => .uncorrectable a
  | _ => .clean

/-- A demotion ends with every page copied, or with DEEP_FULL (R122). -/
def demoteDone (slot ti : Nat) (s : State) : State :=
  if (copiedPages s slot ti).any fun p => leafBeyond s p.2 then migFinish slot ti .fast stInternal (tenMalformed slot ti s)
  else match copyAllDown slot ti (livePages s slot ti) s with
    | (false, s) =>
      migFinish slot ti .fast stRetry
        (raise (leafDeepFull (dirRegion slot)) [(20, 4, slot), (32, 2, (seqOf s slot).tenant), (34, 1, ti / 4)] s)
    | (true, s) =>
      let s := (backedPages s slot ti).foldl (fun s p => giveUpFast slot ti p.1 p.2 s) s
      migFinish slot ti .deep stOk s

/-- A migration that a tier or fast-tier error ends (R122): a demotion leaves the tensor FAST, its sequence lost with the line of a page (04 R93); a
promotion's sequence is lost under R127. -/
def migFail (slot ti : Nat) (m : Mig) (lost : Bool) (s : State) : State :=
  if (tlook s.work.migs (tenKey slot ti)).isNone then s
  else if (tenOf (seqOf s slot) ti).toDeep then
    let s := migFinish slot ti .fast stInternal s
    if lost then seqLost slot s else s
  else seqLost slot (migFinish slot ti .deep stInternal (dropReserved (m.reserved.map (·.2)) s))

/-- A migration ends with every page moved (R118). -/
def migDone (slot ti : Nat) (m : Mig) (s : State) : State :=
  if (tenOf (seqOf s slot) ti).toDeep then demoteDone slot ti s
  else migFinish slot ti .fast stOk (m.reserved.foldl (fun s r => copyUp slot ti r s) s)

/-- MIGRATION_END (R118): once block reads and atoms leave its channels to it (02 R37). Its reads are held and checked as any (04 R93, R105). -/
def execMigrationEnd (ten : TensorId) (outcome : MigOutcome) (s : State) : Host.Outcome State Fault Refusal :=
  let slot := ten.slot.val
  let ti := tenIdx ten
  .next (match tlook s.work.migs (tenKey slot ti) with
    | none => s
    | some m =>
      match outcome with
      | .poison _ => migFail slot ti m false (migError outcome s)
      | .timeout _ => migFail slot ti m false (migError outcome s)
      | _ =>
        let chunks := migChunks s slot ti m
        if rankWaits s (chansOf s chunks) || (chansOf s chunks).any (chanHeld s) then s
        else match readChunks (.mig (tenKey slot ti)) (if (tenOf (seqOf s slot) ti).toDeep then chunks else []) (migLines outcome) s with
          | (.waits, s) => s
          | (.failed, s) => migFail slot ti m true s
          | (.bad a, s) => migFail slot ti m true (baseLineLost a (lineBad a s))
          | (.clean, s) => migDone slot ti m s)

/-! ## Copies by firmware -/

/-- Firmware reads a page of its own accord: the state after it, and whether it has the bytes. A line beyond correction loses the page (04 R93); a frame
beyond the fast tier is reported (04 R88). -/
def copyRead (slot ti idx e : Nat) (s : State) : Bool × State :=
  if leafBeyond s e then (false, tenMalformed slot ti s)
  else match readFree (.page slot ti idx) (ownChunks s slot ti idx e) s with
    | (.clean, s) => (true, s)
    | (.bad a, s) => (false, lineLost a s)
    | (_, s) => (false, s)

/-- STAGING_WRITEBACK (R112): a full committed page of a DEEP tensor goes to the deep tier and its staging frame is released. With no room
on any port it stays in its staging frame. -/
def execStagingWriteback (page : PageId) (s : State) : Host.Outcome State Fault Refusal :=
  .next (match pageOf s page with
    | none => s
    | some (slot, ti, idx) =>
      let q := seqOf s slot
      match leafOf s slot ti idx with
      | .invalid => s
      | .leaf e =>
        if (tenOf q ti).st = .deep ∧ pageBelow q.desc idx q.committed = true ∧ (deepEnt (tenOf q ti) idx).valid = false then
          match copyRead slot ti idx e s with
          | (false, s) => s
          | (true, s) => (match copyDown slot ti idx e s with
            | none => s
            | some s => giveUpFast slot ti idx e s)
        else s)

/-- A striped frame for a page: its home region first, then the next in ascending order (R66, R67). -/
def findStriped (s : State) (home size : Nat) (coded : Bool) : Option (Nat × Nat × Bool) :=
  ((List.range 16).map fun i => (home + i) % 16).findSome? fun r =>
    if rgnFenced s r then none
    else match freeStriped s r size coded false with
      | some a => some (a, r, false)
      | none => (freeStriped s r size coded true).map fun a => (a, r, true)

/-- STRIPE_COPY (R67): with STRIPE_FULL, a full committed channel-local page is copied to a striped frame and its leaf changed (R62). -/
def execStripeCopy (page : PageId) (s : State) : Host.Outcome State Fault Refusal :=
  .next (match pageOf s page with
    | none => s
    | some (slot, ti, idx) =>
      let q := seqOf s slot
      let d := q.desc
      let home := homeOf d slot ti idx
      match leafOf s slot ti idx, findStriped s home (dPageSize d) (dLineCode d) with
      | .leaf e, some (a, r, aliased) =>
        if dStripeFull d = true ∧ q.st = .active ∧ (tenOf q ti).st = .fast ∧ leafLocal e = true ∧ leafDelta e = false ∧
            pageBelow d idx q.committed = true then
          match copyRead slot ti idx e s with
          | (false, s) => s
          | (true, s) =>
            let plain := pageFast s q.tenant (leafFrame e) (dPageSize d)
            let s := useFast a (dPageSize d) q.tenant (.page slot ti idx) s
            let s := if r ≠ home then count (rgnCntOff home 1) s else s
            let s := if aliased then count (rgnCntOff r 3) s else s
            changeLeaf slot ti idx (mkLeaf a false false) (writeFastFor q.tenant a plain s)
        else s
      | _, _ => s)

end Sys2Proof.Machine
end

