-- ==== Sys2Proof/Machine/Dma.lean ====
section
/-! DEFINITION. DMA channels and timer comparators (13 R292-R306). -/

namespace Sys2Proof.Machine

/-- The first failed check of Table 13.4, as DMA_STATUS.CAUSE. A length or a count of 0 fails check 2. -/
def dmaCheck (s : State) (d : Bytes) (funnel : Bool) (pace : Nat) : Option Nat :=
  let a := srcSide d
  let b := dstSide d
  let ua := sideUnit s a
  let ub := sideUnit s b
  let ea := sideExtent s a
  let eb := sideExtent s b
  let aligned := fun (x : DmaSide) => x.addr % 64 == 0 && x.len % 64 == 0 && x.stride % 64 == 0
  if rd d 0 1 != 1 || bits (rd d 1 1) 7 4 != 0 || !zeroAt d 2 2 || bits (rd d 8 8) 63 44 != 0 || !zeroAt d 22 2 || rd d 27 1 != 0 ||
      bits (rd d 32 8) 63 44 != 0 || !zeroAt d 46 2 || rd d 51 1 != 0 || !zeroAt d 52 4 || a.kind == 3 || b.kind == 3 then some 1
  else if a.len * a.lines ≠ b.len * b.lines ∨ a.len * a.lines = 0 then some 2
  else if ea.1 < 0 ∨ eb.1 < 0 ∨ ((ua.2.2 : Nat) : Int) ≤ ea.2 ∨ ((ub.2.2 : Nat) : Int) ≤ eb.2 then some 3
  else if (b.lines ≠ 1 ∧ b.stride.natAbs < b.len) ∨
      (a.kind = b.kind ∧ ua.1 = ub.1 ∧ ea.1 ≤ eb.2 ∧ eb.1 ≤ ea.2) then some 4
  else if funnel = false ∧ (aligned a && aligned b) = false then some 5
  else if pace ≠ 0 ∧ pace < 100 then some 8
  else none

/-! ## Moving bytes -/

/-- The key in its memory of the first byte of line `k` of a side. -/
def lineKey (x : DmaSide) (k : Nat) : Nat :=
  let a := ((x.addr : Int) + (k : Int) * x.stride).toNat
  match x.kind with
  | 0 => a
  | 1 => a % 2 ^ 43
  | _ => a / 2 ^ 40 * 2 ^ 28 + a % 2 ^ 28

/-- Stored bytes of a side's memory: DMA works on the stored ciphertext (17 R378), and in the fast tier finds the code lines (04 R94), the placement
arrays (05 R115) and the deep page tables (05 R116) where they lie. -/
def sideRead (s : State) (kind a n : Nat) : Bytes :=
  match kind with
  | 0 => (memRead s.mem.fast a n).zipIdx.map fun e => (tableByte s (a + e.2)).getD e.1
  | 1 => memRead s.mem.deep a n
  | _ => memRead s.mem.stack a n

/-- Write stored bytes of a side's memory. -/
def sideWrite (kind a : Nat) (bs : Bytes) (s : State) : State :=
  match kind with
  | 0 => { s with mem := { s.mem with fast := memWrite s.mem.fast a bs } }
  | 1 => { s with mem := { s.mem with deep := memWrite s.mem.deep a bs } }
  | _ => { s with mem := { s.mem with stack := memWrite s.mem.stack a bs } }

/-- Stream bytes [o, o + n): the source lines in order. -/
def streamRead (s : State) (x : DmaSide) (o n : Nat) : Bytes :=
  let lines := (List.range ((o + n - 1) / x.len - o / x.len + 1)).flatMap fun i =>
    sideRead s x.kind (lineKey x (o / x.len + i)) x.len
  (lines.drop (o % x.len)).take n

/-- Write stream bytes [o, o + n) into the destination lines. -/
def streamWrite (x : DmaSide) (o : Nat) (bs : Bytes) (s : State) : State :=
  let n := bs.length
  (List.range ((o + n - 1) / x.len - o / x.len + 1)).foldl (fun s i =>
    let k := o / x.len + i
    let lo := max o (k * x.len)
    let hi := min (o + n) ((k + 1) * x.len)
    sideWrite x.kind (lineKey x k + (lo - k * x.len)) ((bs.drop (lo - o)).take (hi - lo)) s) s

/-- The lines of a side that hold stream bytes [o, o + n) meet the bytes [a, a + k) of its memory. -/
def streamMeets (x : DmaSide) (o n a k : Nat) : Bool :=
  (List.range ((o + n - 1) / x.len - o / x.len + 1)).any fun i =>
    let b := lineKey x (o / x.len + i)
    decide (b < a + k) && decide (a < b + x.len)

/-- The 64-byte lines of a side's first and last bytes that it covers only in part: the funnel accesses them narrowly (R297). -/
def narrowLines (a n : Nat) : List (Nat × Nat) :=
  (if a % 64 = 0 then [] else [(a / 64 * 64, 64)]) ++ (if (a + n) % 64 = 0 then [] else [((a + n) / 64 * 64, 64)])

/-- The spans of the fast tier (address, bytes) of a side's lines that hold stream bytes [o, o + n). -/
def sideSpans (x : DmaSide) (o n : Nat) : List (Nat × Nat) :=
  if x.kind ≠ 0 ∨ n = 0 then [] else (List.range ((o + n - 1) / x.len - o / x.len + 1)).map fun i => (lineKey x (o / x.len + i), x.len)

/-- The spans of the fast tier that a run reads for stream bytes [o, o + n): its source, and at a line-coded destination the lines that its funnel writes
narrowly, which are merged (R297). -/
def runSpans (s : State) (r : DmaRun) (o n : Nat) : List (Nat × Nat) :=
  sideSpans (srcSide r.desc) o n ++
    (if r.funnel then ((sideSpans (dstSide r.desc) o n).flatMap fun x => narrowLines x.1 x.2).filter fun x => codedAt s x.1 else [])

/-- The channels of the fast tier that a run takes for stream bytes [o, o + n). -/
def runChans (s : State) (r : DmaRun) (o n : Nat) : List Nat :=
  chansOf s (chunksOf (sideSpans (srcSide r.desc) o n ++ sideSpans (dstSide r.desc) o n))

/-- The stream of a run. -/
def runLen (r : DmaRun) : Nat := dmDstLen r.desc * dmDstLines r.desc

/-- What the line code found in the lines that a run reads (R298; 04 R93). -/
def runMet (s : State) (r : DmaRun) (o n : Nat) (x : LineOutcome) : LineOutcome :=
  let hit := fun (a : Nat) => (runSpans s r o n).any fun y => decide (a / 64 * 64 < y.1 + y.2) && decide (y.1 < a / 64 * 64 + 64)
  match lineMet s x with
  | .clean => .clean
  | .corrected a => if hit a.toNat then .corrected a else .clean
  | .uncorrectable a => if hit a.toNat then .uncorrectable a else .clean

/-- The ring of the die that has fenced a side's region or port; none while both serve. -/
def sideOut (s : State) (x : DmaSide) : Option Nat :=
  match sideRegion x, sidePort x with
  | some r, _ => if rgnFenced s r then some (ringRegion r) else none
  | _, some p => if (tierOf s p).fenced then some (ringTier p) else none
  | _, _ => none

/-- The first side of a run that is fenced: the run moves no further byte, and ends with DMA_RUN_ERROR (R304). -/
def runOut (s : State) (r : DmaRun) : Option Nat :=
  match sideOut s (srcSide r.desc) with
  | some ring => some ring
  | none => sideOut s (dstSide r.desc)

/-- A run of channel `c` reads stream bytes [o, o + n), of which `x` says what the line code finds: while a side is fenced (R304), its channels are held (04
R83, R99), or block reads and atoms go first on them (R296; 02 R37), it waits; a read of a chunk under redo is held (R298). -/
def runRead (c : Nat) (r : DmaRun) (o n : Nat) (x : LineOutcome) (s : State) : ReadEnd × State :=
  let chans := runChans s r o n
  if (runOut s r).isSome || rankWaits s chans || chans.any (chanHeld s) then (.waits, s)
  else readChunks (.dma c) (chunksOf (runSpans s r o n)).dedup (runMet s r o n x) s

/-- Stream bytes [o, o + n) of a run cannot move now. -/
def runWaits (s : State) (c : Nat) (r : DmaRun) (o n : Nat) : Bool := (runRead c r o n .clean s).1 != .clean

/-! ## Channels -/

/-- Move the stream of channel `c` up to byte `n`. -/
def dmaMove (c n : Nat) (s : State) : State :=
  let x := dmaOf s c
  match x.run with
  | none => s
  | some r =>
    if n ≤ x.bytes then s
    else
      let bs := streamRead s (srcSide r.desc) x.bytes (n - x.bytes)
      setDma c { x with bytes := n } (streamWrite (dstSide r.desc) x.bytes bs s)

/-- A channel starts from its registers as they stand (R294, R295). -/
def dmaBegin (c : Nat) (s : State) : State :=
  let x := dmaOf s c
  let s := if c < 256 then markBusy (c / 16) s else s
  let s := setDma c { x with bytes := 0, cause := 0, run := some { desc := padTo 64 x.desc, funnel := x.funnelEn, pace := x.pace, start := now s } } s
  match dmaCheck s (padTo 64 x.desc) x.funnelEn x.pace with
  | none => s
  | some cause =>
    let s := dmaFail c stMalformed cause s
    if x.intEn then raise (dmaErrorLeaf c) (dmaDetail c cause stMalformed x.desc 0) s else s

/-- The channel's region is clock-gated: a start waits for the ungating (18 R405). -/
def dmaGated (s : State) (c : Nat) : Bool := decide (c < 256) && (rgnOf s (c / 16)).gated

/-- A start event (R299). -/
def dmaEvent (c : Nat) (s : State) : State :=
  let x := dmaOf s c
  if x.run.isNone && !x.pending && !dmaGated s c then dmaBegin c s
  else if x.pending then setDma c { x with startLost := satInc 8 x.startLost } s
  else setDma c { x with pending := true } s

/-- The channels whose START_SRC and START_ARG name an event, in ascending order. -/
def dmaOn (s : State) (src arg : Nat) : List Nat :=
  (s.dma.filter fun e => e.2.startSrc == src && e.2.startArg == arg).map (·.1)

/-- Every channel that an event names starts. -/
def dmaStarts (src arg : Nat) (s : State) : State := (dmaOn s src arg).foldl (fun s c => dmaEvent c s) s

/-- DMA_START (R299): a START write of firmware, or the action of a chain, which completes when its start event has been taken. -/
def execDmaStart (src : DmaStart) (s : State) : Host.Outcome State Fault Refusal :=
  .next (match src with
    | .write c => if awake s then dmaEvent c.val s else s
    | .action inst =>
      match startedAct s inst 0x12 with
      | none => s
      | some (_, k, p) => actEnd inst k stOk (dmaEvent (bits (rd p 0 2) 8 0) s))

/-- Stream bytes written when a run ends early: at least those written so far, at most those of the lines begun, of a paced run the line whose tick has come
too, whole 64-byte lines on the main path; none more where the bytes could not move. -/
def dmaReached (s : State) (c : Nat) (x : DmaCh) (r : DmaRun) (written : Nat) : Nat :=
  let begun := if r.start + r.line * r.pace ≤ now s then r.line + 1 else r.line
  let top := if r.pace = 0 then runLen r else min (runLen r) (begun * dmDstLen r.desc)
  let n := max x.bytes (if r.funnel then min top written else min top written / 64 * 64)
  if n ≠ x.bytes ∧ runWaits s c r x.bytes (n - x.bytes) = true then x.bytes else n

/-- A busy channel ends with DMA_ABORTED (R305); PENDING clears. -/
def dmaAbortAt (c written : Nat) (s : State) : State :=
  let x := dmaOf s c
  match x.run with
  | none => setDma c { x with pending := false } s
  | some r => dmaAbortFail c (dmaMove c (dmaReached s c x r written) s)

/-- DMA_ABORT (R305). -/
def execDmaAbort (c : Fin 320) (written : Nat) (s : State) : Host.Outcome State Fault Refusal :=
  .next (if awake s then dmaAbortAt c.val written s else s)

/-- DMA_PACE_TICK (R300): the tick time of the next destination line has come; the line is moved, and a tick that was passed is counted. -/
def execDmaPaceTick (c : Fin 320) (s : State) : Host.Outcome State Fault Refusal :=
  .next (
    let x := dmaOf s c.val
    match x.run with
    | none => s
    | some r =>
      let due := r.start + r.line * r.pace
      if r.pace = 0 ∨ dmDstLines r.desc ≤ r.line ∨ now s < due then s
      else match runRead c.val r (r.line * dmDstLen r.desc) (dmDstLen r.desc) .clean s with
        | (.clean, s) =>
          let x := { x with
            run := some { r with line := r.line + 1 }
            overrun := if r.line ≠ 0 ∧ due + 10 ≤ now s then satInc 8 x.overrun else x.overrun }
          dmaMove c.val ((r.line + 1) * dmDstLen r.desc) (setDma c.val x s)
        | (_, s) => s)

/-- The run's last byte is written and visible (R301). -/
def dmaDone (c : Nat) (s : State) : State :=
  let x := dmaOf s c
  let pend := x.pending
  let tag := match x.run with
    | some r => r.desc
    | none => x.desc
  let s := setDma c { x with run := none, pending := false, done := true, lastStatus := stOk, cause := 0 } s
  let s := if pend then dmaBegin c s else s
  let s := eventAll 4 c (dmaStarts 2 c s)
  if x.intEn then raise (dmaDoneLeaf c) (dmaDetail c 0 stOk tag x.bytes) s else s

/-- A run ends with DMA_MEM_ERROR (R304): its record names the ring and SEQ of the memory's own. -/
def dmaMemEnd (c ring seq written : Nat) (s : State) : State :=
  let x := dmaOf s c
  match x.run with
  | none => s
  | some r => dmaMemFail c ring seq (dmaMove c (dmaReached s c x r written) s)

/-- A run met an uncorrectable line: it is reported, the run ends, and what the line belongs to is lost (04 R93, R304; 10 R236). -/
def dmaLineLost (c a written : Nat) (s : State) : State :=
  let ring := ringRegion (a / 2 ^ 40)
  let s1 := lineBad a s
  let own := ownerOf s a
  let s2 := baseLineLost a (dmaMemEnd c ring (logSeq s1 ring) written s1)
  match own with
  | some (sl, _) => seqLost sl s2
  | none => s2

/-- The sequence whose deep storage holds a deep line. -/
def deepOwner (s : State) (a : Nat) : Option Nat :=
  (s.sto.deep.find? fun e => decide (e.1 ≤ a) && decide (a < e.1 + e.2.size)).bind fun e => match e.2.use with
    | .page sl _ _ => some sl
    | .coded sl _ _ => some sl
    | .old sl _ _ => some sl
    | _ => none

/-- A read of a run returned poison (05 Table 5.4): it is reported, the run ends, and the sequence that the line belongs to is lost on this node. -/
def dmaPoison (c a written : Nat) (s : State) : State :=
  let p := a / 2 ^ 41
  let s1 := raiseCount (leafTierPoison p) (tierCntOff p 1) [] s
  let s2 := dmaMemEnd c (ringTier p) (logSeq s1 (ringTier p)) written s1
  match deepOwner s a with
  | some sl => seqLost sl s2
  | none => s2

/-- A deep line lies in the lines of a side. -/
def onPort (x : DmaSide) (a : Nat) : Bool :=
  x.kind == 1 && (List.range x.lines).any fun i => decide (lineKey x i < a / 64 * 64 + 64) && decide (a / 64 * 64 < lineKey x i + x.len)

/-- DMA_RUN_COMPLETE (R301). -/
def execDmaRunComplete (e : RunEnd) (s : State) : Host.Outcome State Fault Refusal :=
  .next (match (dmaOf s e.ch.val).run with
    | none => s
    | some r =>
      let x := dmaOf s e.ch.val
      if r.pace ≠ 0 ∧ r.line < dmDstLines r.desc then s
      else match runRead e.ch.val r x.bytes (runLen r - x.bytes) e.lines s with
        | (.clean, s) => dmaDone e.ch.val (dmaMove e.ch.val (runLen r) s)
        | (.bad a, s) => dmaLineLost e.ch.val a x.bytes s
        | (_, s) => s)

/-- The side of a run that an error names. -/
def runSide (r : DmaRun) (dst : Bool) : DmaSide := if dst then dstSide r.desc else srcSide r.desc

/-- The error that ends a run, reported by the memory's own die (Table 13.5), with the ring of its record; none when the run cannot meet it. -/
def dmaMemError (r : DmaRun) (err : DmaError) (s : State) : Option (Nat × State) :=
  match err with
  | .lineUncorrectable _ => none
  | .stackUncorrectable dst =>
    let x := runSide r dst
    if x.kind = 2 then some (ringRegion (bits x.addr 43 40), raise (leafStackUncorrectable (bits x.addr 43 40)) [] s) else none
  | .poison _ _ => none
  | .timeout dst => (sidePort (runSide r dst)).map fun p => (ringTier p, tierTimeout p s)
  | .fenced => (runOut s r).map fun ring => (ring, s)
  | .dieAbort => none

/-- DMA_RUN_ERROR (R304, Table 13.5). -/
def execDmaRunError (c : Fin 320) (err : DmaError) (written : Nat) (s : State) : Host.Outcome State Fault Refusal :=
  .next (match (dmaOf s c.val).run with
    | none => s
    | some r =>
      match err with
      | .dieAbort => dmaAbortAt c.val written s
      | .lineUncorrectable a =>
        let x := dmaOf s c.val
        (match runRead c.val r x.bytes (runLen r - x.bytes) (.uncorrectable a) s with
          | (.bad a, s) => dmaLineLost c.val a written s
          | (.waits, s) => s
          | _ => s)
      | .poison dst a => if onPort (runSide r dst) a.toNat then dmaPoison c.val a.toNat written s else s
      | err => match dmaMemError r err s with
        | none => s
        | some (ring, s) => dmaMemEnd c.val ring (logSeq s ring) written s)

/-! ## Timer comparators (R302, R303) -/

/-- Comparator `n`. -/
def tmrOf (s : State) (n : Nat) : Tmr := tget {} s.bmk.tmr n

/-- Write comparator `n`. -/
def setTmr (n : Nat) (x : Tmr) (s : State) : State := { s with bmk := { s.bmk with tmr := tset {} s.bmk.tmr n x } }

/-- TIMER_COMPARATOR_FIRE (R303): an armed comparator whose time has come fires once, re-arms past the present time or disarms, and starts
the channels and entries set on it. In Benchmark-only comparators fire nothing; a main reset, in which fabric time counts on, keeps none from firing. -/
def execTimerComparatorFire (n : Fin 32) (s : State) : Host.Outcome State Fault Refusal :=
  .next (
    let x := tmrOf s n.val
    if s.bmk.counting = false ∨ s.pwr.mode = .bmkOnly ∨ x.ctrl.getLsbD 0 = false ∨ now s < x.compare then s
    else
      let period := bits x.ctrl.toNat 31 4 * 10
      if x.ctrl.getLsbD 1 ∧ period ≠ 0 then
        let k := (now s - x.compare) / period + 1
        let s := setTmr n.val { compare := (x.compare + k * period) % 2 ^ 64, ctrl := x.ctrl ||| 4#32 } s
        let s := if awake s = true ∧ 1 < k then count (chipCntOff 2) s else s
        eventAll 3 n.val (dmaStarts 1 n.val s)
      else
        let s := setTmr n.val { x with ctrl := (x.ctrl ||| 4#32) &&& 0xFFFFFFFE#32 } s
        eventAll 3 n.val (dmaStarts 1 n.val s))

end Sys2Proof.Machine
end

