-- ==== Sys2Proof/Machine/Firmware.lean ====
section
/-! DEFINITION. The firmware command window (20 R440-R443): the latched command, its first checks, its answer, and acceptance as a deferred
command. -/

namespace Sys2Proof.Machine

/-- The latched command, when its opcode is `op` and no answer has been formed. -/
def fwCmd (s : State) (op : Nat) : Option Latched :=
  match s.cfg.latched with
  | some c => if c.opcode = op ∧ c.answer = none ∧ awake s = true then some c else none
  | none => none

/-- An opcode of Table 20.3. -/
def fwDefined (op : Nat) : Bool :=
  [0x01, 0x02, 0x03, 0x04, 0x10, 0x11, 0x12, 0x13, 0x14, 0x20, 0x21, 0x22, 0x23, 0x30, 0x31, 0x32, 0x33, 0x34, 0x35, 0x40, 0x41].contains op

/-- REQ_LEN is the length Table 20.3 gives. -/
def fwLenOk (op : Nat) (b : Bytes) : Bool :=
  let n := b.length
  match op with
  | 0x01 => n == 8
  | 0x02 => decide (8 ≤ n) && n == 64 + rd b 4 4
  | 0x10 => n == (if bitAt (rd b 2 1) 0 then 1692 else 64)
  | 0x11 => n == 8
  | 0x12 => n == 1692
  | 0x13 => n == 40
  | 0x14 => n == 8
  | 0x20 => decide (16 ≤ n) && n == 16 + rd b 12 2
  | 0x21 => n == 12
  | 0x30 => n == 16
  | 0x31 => n == 24
  | 0x32 => n == 16
  | 0x33 => n == 24
  | 0x34 => n == 8
  | 0x35 => n == 8
  | 0x40 => n == 128
  | 0x41 => n == 1088
  | _ => n == 0

/-- A reserved byte of the request is not zero (R7, R443), for the commands whose own chapter does not check it. -/
def fwReserved (op : Nat) (b : Bytes) : Bool :=
  match op with
  | 0x02 => !zeroAt b 8 56
  | 0x11 => bits (rd b 0 2) 15 12 != 0 || !zeroAt b 2 6
  | 0x13 => bits (rd b 0 2) 15 12 != 0 || !zeroAt b 2 6
  | 0x30 => bits (rd b 0 2) 15 12 != 0 || !zeroAt b 2 6
  | 0x31 => bits (rd b 0 2) 15 12 != 0 || !zeroAt b 2 6 || !zeroAt b 18 6
  | 0x32 => bits (rd b 0 2) 15 12 != 0 || !zeroAt b 2 6
  | 0x33 => bits (rd b 0 2) 15 12 != 0 || !zeroAt b 2 6 || bits (rd b 17 1) 7 1 != 0 || !zeroAt b 18 6
  | 0x34 => bits (rd b 0 2) 15 14 != 0 || !zeroAt b 2 6
  | 0x35 => bitAt (rd b 0 2) 15 || !zeroAt b 2 6
  | 0x40 => bits (rd b 0 2) 15 12 != 0 || !zeroAt b 2 6
  | 0x41 => bitAt (rd b 0 2) 15 || bits (rd b 2 1) 7 3 != 0 || rd b 3 1 != 0 || !zeroAt b 6 58
  | _ => false

/-- The first outcomes of R441: the status that ends the command, or none when it is carried out. -/
def fwGate (s : State) (op : Nat) (b : Bytes) : Option Nat :=
  let always := op == 1 || op == 2 || op == 3
  if s.cfg.phase = 8 ∧ always = false then some stStateConflict
  else if s.cfg.phase < 6 ∧ always = false then some stRetry
  else if fwDefined op = false ∨ fwLenOk op b = false ∨ fwReserved op b = true then some stMalformed
  else none

/-- Form the answer of the latched command; IMMEDIATE_COMMAND_COMPLETE publishes it. -/
def answerFw (status : Nat) (resp : Bytes) (s : State) : State :=
  { s with cfg := { s.cfg with latched := s.cfg.latched.map fun c => { c with answer := some (status, resp) } } }

/-- Carry out the latched command of opcode `op`: its first checks (R441), then `run`. -/
def fwRun (op : Nat) (run : Latched → State → State) (s : State) : State :=
  match fwCmd s op with
  | none => s
  | some c =>
    match fwGate s op c.req with
    | some st => answerFw st [] s
    | none => run c s

/-- Accept the latched command as deferred (R442): the window is free at once. With 16 outstanding it completes with ST_RETRY, and `none` is
answered. -/
def acceptDeferred (c : Latched) (obj : Nat) (s : State) : Option State :=
  if 16 ≤ s.cfg.outstanding.length then none
  else
    some { s with cfg := { s.cfg with
      status := stOk, respLen := 0, doneTag := c.tag, done := true, busy := false, deferred := true, latched := none
      outstanding := s.cfg.outstanding ++ [⟨c.opcode, c.tag, obj⟩] } }

/-- Publish the answer (R442): the response, then STATUS, RESP_LEN, DONE_TAG and DONE in one cycle, and BUSY clears. -/
def publishFw (c : Latched) (status : Nat) (resp : Bytes) (s : State) : State :=
  { s with cfg := { s.cfg with
    respBuf := memWrite [] 0 resp, status := status, respLen := resp.length, doneTag := c.tag, done := true, busy := false, latched := none } }

/-- IMMEDIATE_COMMAND_COMPLETE (R442). A reserved opcode has no command of its own: its refusal is formed here. -/
def execImmediateCommandComplete (s : State) : Host.Outcome State Fault Refusal :=
  .next (match s.cfg.latched with
    | none => s
    | some c =>
      if awake s = false then s
      else match c.answer with
        | some (status, resp) => publishFw c status resp s
        | none =>
          if fwDefined c.opcode then s
          else publishFw c ((fwGate s c.opcode c.req).getD stMalformed) [] s)

end Sys2Proof.Machine
end

