-- ==== Sys2Proof/Machine/Gate.lean ====
section
/-! DEFINITION. Who may reach BAR0 (20 R432-R436): the decode, the claim and the refusals of the service function. -/

namespace Sys2Proof.Machine

/-- Record how the access completed. -/
def svcAnswer (a : SvcAnswer) (s : State) : State := { s with svc := { s.svc with answer := a } }

/-- Count a refused access in CHIP_SVC_BAD.COUNT (20 R433); the count saturates (R9). -/
def svcBad (s : State) : State := { s with svc := { s.svc with bad := satInc 16 s.svc.bad } }

/-- Count an access refused to a foreign Requester ID in CHIP_CLAIM.FOREIGN (20 R434). -/
def svcForeign (s : State) : State := { s with svc := { s.svc with foreign := satInc 8 s.svc.foreign } }

/-- The function decodes BAR0 (20 R433): it is up, Memory Space Enable is 1 and it is not in D3hot. -/
def svcDecodes (s : State) : Bool := s.pwr.mode == .running && s.svc.linkUp && s.svc.mse && !s.svc.d3hot

/-- An offset of the CHIP, BMK or CFG block (20 Table 20.2). -/
def earlyBlock (off : Nat) : Bool := decide (off < 0x10000) || (decide (0x20000 ≤ off) && decide (off < 0x80000))

/-- BAR0 offset `off` is decoded in the present phase (20 R436): only CHIP, BMK and CFG until PHASE first reaches TRAIN and in
BOOT_FAILED. -/
def offsetDecoded (off : Nat) (s : State) : Bool := earlyBlock off || (s.cfg.trainReached && s.cfg.phase != 8)

/-- The die that holds the registers at BAR0 offset `off`, by its code (20 Table 20.2); none for the control dies' own blocks. -/
def dieOfOff (off : Nat) : Option Nat :=
  if 0x400000 ≤ off ∧ off < 0x500000 then some (16 + (off - 0x400000) / 0x40000)
  else if 0x500000 ≤ off ∧ off < 0x600000 then some (20 + (off - 0x500000) / 0x40000)
  else if 0x1000000 ≤ off ∧ off < 0x2000000 then some ((off - 0x1000000) / 0x100000)
  else if 0x2000000 ≤ off ∧ off < 0x2006000 then some (24 + (off - 0x2000000) / 0x1000)
  else none

/-- The registers at `off` lie on a die that the spine still reaches (02 R36). -/
def offsetReachable (off : Nat) (s : State) : Bool := match dieOfOff off with
  | none => true
  | some d => dieReachable s d

/-- The claim check of 20 R434 for an access at `off`: may it proceed, and the state after the refusal's count. `word` says that the access is a
read of one register, as the exception for CHIP_IDENTITY and CHIP_CLAIM asks. -/
def svcClaimGate (rid : BitVec 16) (write : Bool) (off : Nat) (s : State) (word : Bool := true) : Bool × State :=
  if !svcDecodes s then (false, svcAnswer .noDecode s)
  else if s.svc.owned && s.svc.ownerRid != rid then
    if !write && word && (off / 4 == 0 || off / 4 == 4) then (true, s)
    else (false, svcAnswer (if write then .discarded else .completerAbort) (svcForeign s))
  else if !s.svc.owned && write && off / 4 != 4 then (false, svcAnswer .discarded (svcBad s))
  else (true, s)

/-- Carry out a register write of the writer `who` at `off`: firmware reaches the register while the node runs; a host's write
passes the gate of the service function first. A write to a die that cannot be reached changes nothing (02 R36). -/
def writerGate (who : Writer) (off : Nat) (s : State) (act : State → State) : State :=
  match who with
  | .firmware => if awake s && offsetReachable off s then act s else s
  | .host rid =>
    match svcClaimGate rid true off s with
    | (false, s) => s
    | (true, s) => if offsetDecoded off s && offsetReachable off s then svcAnswer .written (act s) else svcAnswer .written s

end Sys2Proof.Machine
end

