-- ==== Sys2Proof/Machine/Settings.lean ====
section
/-! DEFINITION. The setting registers of traffic control (14 R309, R313, R314, R317, R319). -/

namespace Sys2Proof.Machine

/-- The offset of TRAFFIC_WEIR of partition `p`; of TRAFFIC_METER of key slot `k`; of TRAFFIC_EQ of queue `q`. -/
def weirOff (p : Nat) : Nat := 0x201000 + p * 16
def meterOff (k : Nat) : Nat := 0x204000 + k * 16
def eqOff (q : Nat) : Nat := 0x250000 + q * 8

/-- The words of TRAFFIC_WEIR as committed. -/
def weirWord (w : Weir) (i : Nat) : Nat :=
  match i with
  | 0 => bitOf w.en 0 + bitOf w.borrow 1 + w.ctxLimit * 4 + w.beWeight * 256 + w.queueLimit * 65536
  | 1 => w.rate
  | 2 => w.burst
  | _ => 0

/-- The weir that four words spell, with no words held; none when a field lies outside its range (R309). -/
def weirOfWords (w0 w1 w2 : Nat) : Option Weir :=
  let w : Weir :=
    { en := bitAt w0 0, borrow := bitAt w0 1, ctxLimit := bits w0 7 2, beWeight := bits w0 15 8, queueLimit := bits w0 28 16
      rate := w1, burst := bits w2 19 0 }
  if 1 ≤ w.ctxLimit ∧ w.ctxLimit ≤ 32 ∧ 1 ≤ w.beWeight ∧ 1 ≤ w.queueLimit ∧ w.queueLimit ≤ 4096 ∧
      1 ≤ w.rate ∧ w.rate ≤ 8450000 ∧ 16 ≤ w.burst then some w else none

/-- The words of TRAFFIC_METER as committed. -/
def meterWord (m : Meter) (i : Nat) : Nat :=
  match i with
  | 0 => bitOf m.en 0
  | 1 => m.cir
  | 2 => m.pir
  | _ => m.cbs + m.pbs * 2 ^ 14

/-- The meter that the words spell; none when EN is 1 and a rate or burst lies outside its range (R314, R317). -/
def meterOfWords (w0 w1 w2 w3 : Nat) : Option Meter :=
  let m : Meter := { en := bitAt w0 0, cir := w1, pir := w2, cbs := bits w3 13 0, pbs := bits w3 27 14 }
  if m.en = false ∨ (1 ≤ m.cir ∧ m.cir ≤ m.pir ∧ m.pir ≤ 400000 ∧ 36 ≤ m.cbs ∧ m.cbs ≤ m.pbs) then some m else none

/-- The words of TRAFFIC_EQ. -/
def eqWord (e : EgressQ) (i : Nat) : Nat := if i = 0 then e.quantumM1 + e.burst * 256 else e.credit % 2 ^ 24

/-- Quantum and burst of TRAFFIC_EQ's word 0: none outside their ranges (R319). -/
def eqOfWord (w0 : Nat) : Option (Nat × Nat) :=
  let b := bits w0 19 8
  if 9 ≤ b ∧ (bits w0 7 0 + 1) * 256 ≤ b * 1024 then some (bits w0 7 0, b) else none

/-- The configured weirs promise more than the node has (R313). -/
def overcommitted (s : State) : Bool :=
  let on := s.traffic.weir.filter fun e => e.2.en
  decide (8000000 < on.foldl (fun a e => a + e.2.rate) 0) || decide (32 < on.foldl (fun a e => a + e.2.ctxLimit) 0)

/-- Put a weir into force (R314): the partition's read buckets, filled at the old rate up to now, are reduced to the new depth. Those of a regulator
that was off are full when it comes on (DESIGN CHOICE, log 68). -/
def putWeir (p : Nat) (w : Weir) (s : State) : State :=
  let read := (List.range 16).foldl (fun t r =>
    if (weirOf s p).en then tput t (r * 64 + p) ⟨min (readTokens s r p) (readDepth w), now s⟩ else tdel t (r * 64 + p)) s.traffic.read
  { s with traffic := { s.traffic with weir := tset {} s.traffic.weir p w, read := read } }

/-- A field outside its range (R314): the commit is ignored in whole, and TRAFFIC_SET_INVALID is set. -/
def setInvalid (s : State) : State := raise leafTrafficSetInvalid [] s

/-- The commit of a weir setting (R314). -/
def commitWeir (p w0 : Nat) (s : State) : State :=
  let old := weirOf s p
  let word := fun i => tget (weirWord old i) old.held i
  let s := putWeir p { old with held := [] } s
  match weirOfWords w0 (word 1) (word 2) with
  | none => setInvalid s
  | some w =>
    let before := overcommitted s
    let s := putWeir p w s
    if overcommitted s && !before then raise leafTrafficOvercommit [] s else s

/-- A host's write of word 0 of a setting register passes the service function first. -/
def settingWrite (rid : BitVec 16) (off : Nat) (act : State → State) (s : State) : State := writerGate (.host rid) off s act

/-- TRAFFIC_WEIR_COMMIT (R314). -/
def execTrafficWeirCommit (rid : BitVec 16) (p : Fin 64) (word0 : BitVec 32) (s : State) : Host.Outcome State Fault Refusal :=
  .next (settingWrite rid (weirOff p.val) (commitWeir p.val word0.toNat) s)

/-- Meter `k`. -/
def meterOf (s : State) (k : Nat) : Meter := tget {} s.traffic.meter k

/-- Put a meter into force (R314, R317): its buckets are filled when EN rises, else reduced to the new depth. -/
def putMeter (k : Nat) (m : Meter) (s : State) : State :=
  let fill := m.en && !(meterOf s k).en
  let bucket := (List.range 4).foldl (fun t d =>
    if fill then tput t (k * 4 + d) ⟨m.pbs * 1024000, m.cbs * 1024000, now s⟩
    else if (meterOf s k).en then
      let b := refilled (meterOf s k) (tlook t (k * 4 + d)) (now s)
      tput t (k * 4 + d) { b with tp := min b.tp (m.pbs * 1024000), tc := min b.tc (m.cbs * 1024000) }
    else t) s.traffic.bucket
  { s with traffic := { s.traffic with meter := tset {} s.traffic.meter k m, bucket := bucket } }

/-- The commit of a meter setting (R314, R317). -/
def commitMeter (k w0 : Nat) (s : State) : State :=
  let old := meterOf s k
  let word := fun i => tget (meterWord old i) old.held i
  let s := { s with traffic := { s.traffic with meter := tset {} s.traffic.meter k { old with held := [] } } }
  match meterOfWords w0 (word 1) (word 2) (word 3) with
  | none => setInvalid s
  | some m => putMeter k m s

/-- TRAFFIC_METER_COMMIT (R317). -/
def execTrafficMeterCommit (rid : BitVec 16) (slot : Fin 1024) (word0 : BitVec 32) (s : State) : Host.Outcome State Fault Refusal :=
  .next (settingWrite rid (meterOff slot.val) (commitMeter slot.val word0.toNat) s)

/-- The commit of an egress queue's quantum and burst (R314, R319): a credit above the new burst is reduced to it. -/
def commitEq (q w0 : Nat) (s : State) : State :=
  match eqOfWord w0 with
  | none => setInvalid s
  | some (quantum, burst) =>
    let e := eqOf s q
    let e := { e with quantumM1 := quantum, burst := burst, credit := min e.credit (burst * 1024) }
    { s with jx := { s.jx with eq := tset {} s.jx.eq q e } }

/-- TRAFFIC_EQ_COMMIT (R314). -/
def execTrafficEqCommit (rid : BitVec 16) (q : Fin 1024) (word0 : BitVec 32) (s : State) : Host.Outcome State Fault Refusal :=
  .next (settingWrite rid (eqOff q.val) (commitEq q.val word0.toNat) s)

end Sys2Proof.Machine
end

