-- ==== Sys2Proof/Machine/Tenants.lean ====
section
/-! DEFINITION. Key slots (17 R368-R376, R385-R388): admission, link keys, removal, zeroisation and the sealed scrub. -/

namespace Sys2Proof.Machine

/-- Key slot `k`. -/
def keyOf (s : State) (k : Nat) : KeySlot := tget {} s.key k

/-- Write key slot `k`. -/
def setKey (k : Nat) (x : KeySlot) (s : State) : State := { s with key := tset {} s.key k x }

/-- The code of a key slot's state (SEC_SLOT). -/
def slotCode : SlotSt → Nat
  | .empty => 0 | .active => 1 | .retiring => 2 | .zeroising => 3

/-- Hours as ns. -/
def hoursNs (h : Nat) : Nat := h * 3600000000000

/-- Unwrap a KEY_BLOB whose command starts with the 64 bytes `ad` (R373): the key, or none when the tag does not verify. -/
def unwrapKey (ad blob : Bytes) : Option (BitVec 256) :=
  let k := Config.kemDecap (slice blob 0 1568)
  let nonce := slice blob 1568 12
  let ct := slice blob 1580 32
  if leNat (slice blob 1612 16) = (Config.gcmTag k nonce ad ct).toNat then
    some (BitVec.ofNat 256 (leNat (padTo 32 (Config.gcmOpen k nonce ad ct))))
  else none

/-- The key in a blob, or the refusal (R372, R373): ST_ACCESS, with KEY_UNWRAP_FAIL where the blob itself fails. -/
def blobKey (ad blob : Bytes) (s : State) : Option (BitVec 256) × State :=
  if s.sec.certMismatch then (none, s)
  else match unwrapKey ad blob with
    | some k => (some k, s)
    | none => (none, raise leafKeyUnwrapFail [] s)

/-! ## TENANT_ADMIT (R370) -/

/-- Row 1: a field breaks Table 17.2 or R7. -/
def admitBad (b : Bytes) : Bool :=
  let prot := bitAt (rd b 2 1) 0
  bits (rd b 0 2) 15 12 != 0 || rd b 0 2 == 0 || bits (rd b 2 1) 7 2 != 0 || bits (rd b 3 1) 7 4 != 0 || bitAt (rd b 4 2) 15 ||
  rd b 6 2 == 0 || decide (31744 < rd b 4 2 + rd b 6 2) || rd b 8 8 == 0 ||
  (!prot && (rd b 16 8 != 0 || rd b 24 2 != 0)) || !zeroAt b 26 38 ||
  (if prot then b.length != 1692 else b.length != 64 && !(b.length == 1692 && zeroAt b 64 1628))

/-- The resident slot whose range meets [base, base + n). -/
def rangeMeets (s : State) (base n : Nat) : Option (Nat × KeySlot) :=
  tfind s.key fun _ k => k.st != .empty && decide (k.sluiceBase < base + n) && decide (base < k.sluiceBase + k.sluiceCount)

/-- The lowest EMPTY slot. -/
def emptySlot (s : State) : Option Nat := findFrom 0 1024 fun k => (keyOf s k).st == .empty

/-- Zero the counters of a tenant's key slot: its accounting block and its SEC_TENANT_CNT (14 R322; 20 R437). -/
def zeroCounters (k : Nat) (s : State) : State :=
  { s with cnt := s.cnt.filter fun e =>
      !(decide (acctOff k 0 ≤ e.1) && decide (e.1 < acctOff k 0 + 0x100)) &&
      !(decide (tenantCntOff k 0 ≤ e.1) && decide (e.1 < tenantCntOff k 0 + 0x40)) }

/-- Fill key slot `k` for the tenant of the admission `b` (Table 17.1): the memory keys are drawn, MEM_GEN rises. -/
def fillSlot (k : Nat) (b : Bytes) (link : Option (BitVec 256)) (s : State) : State :=
  let (n1, s) := takeFree s
  let (n2, s) := takeFree s
  let x : KeySlot :=
    { tenant := rd b 0 2, st := .active, prot := bitAt (rd b 2 1) 0, sealed_ := bitAt (rd b 2 1) 1, priv := bits (rd b 3 1) 3 0
      sluiceBase := rd b 4 2, sluiceCount := rd b 6 2, memKey1 := Config.freeBits 256 n1, memKey2 := Config.freeBits 256 n2
      memGen := ((keyOf s k).memGen + 1) % 65536
      keys := { current := link.map fun key => ⟨key, rd b 16 8, hoursNs (rd b 24 2)⟩ } }
  setKey k x s

/-- The SLUICE and PROGRAM windows of a tenant: both, or none (R370). -/
def openTenantWindows (tenant count : Nat) (s : State) : Option (Nat × Nat × State) :=
  match openWindow 3 tenant (count * 1024) s with
  | none => none
  | some (w, s) =>
    match openWindow 2 tenant 196608 s with
    | none => none
    | some (p, s) => some (w, p, s)

/-- The admission of rows 4 to 6 and the acts after them: `link` is the unwrapped key. -/
def admitInto (b : Bytes) (link : Option (BitVec 256)) (s : State) : Nat × Bytes × State :=
  match emptySlot s with
  | none => (stAccess, [], s)
  | some k =>
    match openTenantWindows (rd b 0 2) (rd b 6 2) (fillSlot k b link s) with
    | none => (stRetry, [], count (netCntOff 0 22) s)
    | some (w, p, s) =>
      let s := zeroCounters k { s with traffic := { s.traffic with mask := tset 0 s.traffic.mask k (rd b 8 8) } }
      (stOk, leBytes 2 k ++ leBytes 2 (keyOf s k).memGen ++ leBytes 2 w ++ leBytes 2 (winGen s w) ++ leBytes 2 p ++ leBytes 2 (winGen s p), s)

/-- A refusal by a key slot's state, logged under R76. -/
def refuseSlot (tenant k op : Nat) (s : State) : State := refuseC tenant 4 (slotCode (keyOf s k).st) op k s

/-- TENANT_ADMIT of the bytes `b` (R370): status, response and state. -/
def admitDo (b : Bytes) (s : State) : Nat × Bytes × State :=
  let tenant := rd b 0 2
  if admitBad b then (stMalformed, [], s)
  else match slotOfTenant s tenant with
    | some (k, _) => (stStateConflict, [], refuseSlot tenant k 0x90 s)
    | none =>
      match rangeMeets s (rd b 4 2) (rd b 6 2) with
      | some (k, _) => (stStateConflict, [], refuseSlot tenant k 0x90 s)
      | none =>
        if (emptySlot s).isNone then (stAccess, [], s)
        else if bitAt (rd b 2 1) 0 then
          match blobKey (slice b 0 64) (b.drop 64) s with
          | (none, s) => (stAccess, [], s)
          | (some key, s) => admitInto b (some key) s
        else admitInto b none s

/-- TENANT_ADMIT (R370). -/
def execTenantAdmit (s : State) : Host.Outcome State Fault Refusal :=
  .next (fwRun 0x10 (fun c s => match admitDo c.req s with
    | (st, resp, s) => answerFw st resp s) s)

/-! ## KEY_INSTALL (R374-R376) -/

/-- The link keys of a holder. -/
def keysOf (s : State) (h : KeyHolder) : LinkKeys :=
  match h with
  | .fabric => s.sec.fabric
  | .slot k => (keyOf s k.val).keys

/-- Write them. -/
def setKeys (h : KeyHolder) (x : LinkKeys) (s : State) : State :=
  match h with
  | .fabric => { s with sec := { s.sec with fabric := x } }
  | .slot k => setKey k.val { keyOf s k.val with keys := x } s

/-- Row 1 of R376: the fields break R374 or R7. -/
def keyInstallBad (b : Bytes) : Bool :=
  bits (rd b 0 2) 15 12 != 0 || !zeroAt b 2 6 || !zeroAt b 18 46 || b.length != 1692

/-- Row 3 of R376. -/
def keyTooSoon (s : State) (x : LinkKeys) (t : Nat) : Bool :=
  x.pending.isSome || decide (t ≤ now s + 1000000) || (match x.current with
    | some c => decide (t ≤ c.activate)
    | none => false)

/-- The key of an install becomes pending. -/
def keyPending (h : KeyHolder) (b : Bytes) (key : BitVec 256) (s : State) : State :=
  setKeys h { keysOf s h with pending := some ⟨key, rd b 8 8, hoursNs (rd b 16 2)⟩ } s

/-- Rows 3 and 4 of R376 for holder `h`, and the install. -/
def installInto (h : KeyHolder) (tenant k : Nat) (b : Bytes) (s : State) : Nat × State :=
  if keyTooSoon s (keysOf s h) (rd b 8 8) then (stStateConflict, refuseSlot tenant k 0x92 s)
  else match blobKey (slice b 0 64) (b.drop 64) s with
    | (none, s) => (stAccess, s)
    | (some key, s) => (stOk, keyPending h b key s)

/-- KEY_INSTALL of the bytes `b` (R376). -/
def keyInstallDo (b : Bytes) (s : State) : Nat × State :=
  let tenant := rd b 0 2
  if keyInstallBad b then (stMalformed, s)
  else if tenant = 0 then installInto .fabric 0 1024 b s
  else match slotOfTenant s tenant with
    | none => (stTenantRevoked, s)
    | some (k, x) =>
      if x.st ≠ .active then (stStateConflict, refuseSlot tenant k 0x92 s)
      else installInto (.slot (Fin.ofNat 1024 k)) tenant k b s

/-- KEY_INSTALL (R376). -/
def execKeyInstall (s : State) : Host.Outcome State Fault Refusal :=
  .next (fwRun 0x12 (fun c s => match keyInstallDo c.req s with
    | (st, s) => answerFw st [] s) s)

/-- KEY_ACTIVATE (R376): the pending key's ACTIVATE_TIME has come. It becomes current, and the current key previous until 1,020 µs later. -/
def execKeyActivate (holder : KeyHolder) (s : State) : Host.Outcome State Fault Refusal :=
  .next (
    let x := keysOf s holder
    match x.pending with
    | none => s
    | some p =>
      if awake s = false ∨ now s < p.activate then s
      else
        let s := setKeys holder
          { previous := x.current.map fun c => (c, p.activate + 1020000), current := some p, pending := none } s
        match holder with
        | .fabric => s
        | .slot k => setKey k.val { keyOf s k.val with keyAge := false } s)

/-- KEY_PREVIOUS_DROP (R375). -/
def execKeyPreviousDrop (holder : KeyHolder) (s : State) : Host.Outcome State Fault Refusal :=
  .next (
    let x := keysOf s holder
    match x.previous with
    | none => s
    | some (_, t) => if awake s = false ∨ now s < t then s else setKeys holder { x with previous := none } s)

/-- KEY_AGE (R375): the current key has used five sixths of a non-zero LIFETIME. -/
def execKeyAge (slot : Fin 1024) (s : State) : Host.Outcome State Fault Refusal :=
  .next (
    let x := keyOf s slot.val
    match x.keys.current with
    | none => s
    | some c =>
      if awake s = true ∧ c.lifetime ≠ 0 ∧ c.activate * 6 + c.lifetime * 5 ≤ now s * 6 then setKey slot.val { x with keyAge := true } s
      else s)

/-! ## Removal (R385, R386) -/

/-- TENANT_REMOVE of a tenant (Table 17.3): the refusal, or the slot whose EMPTY ends the command. -/
def removeDo (tenant : Nat) (s : State) : Sum Nat (Nat × State) :=
  match slotOfTenant s tenant with
  | none => .inl stTenantRevoked
  | some (k, x) =>
    if x.st = .active ∧ x.retireAt = none then .inr (k, setKey k { x with retireAt := some (now s + 5000) } s)
    else .inr (k, s)

/-- TENANT_REMOVE (R385). -/
def execTenantRemove (s : State) : Host.Outcome State Fault Refusal :=
  .next (fwRun 0x11 (fun c s =>
    match removeDo (rd c.req 0 2) s with
    | .inl st => answerFw st [] s
    | .inr (k, s') =>
      match acceptDeferred c k s' with
      | none => answerFw stRetry [] s
      | some s => s) s)

/-- The acts at T_R, in the order of R385. -/
def retireActs (tenant : Nat) (s : State) : State :=
  let entries := (s.slu.entry.filter fun e => e.2.st != .free && entryTenant e.2 == tenant).map (·.1)
  let s := entries.foldl (fun s x => cancelEntry x s) s
  let wins := (s.slu.win.filter fun e => e.2.st == .active && e.2.tenant == tenant).map (·.1)
  let s := wins.foldl (fun s w => startDrainWin w s) s
  let s : State := { s with prog := tmap s.prog fun _ (p : Prog) => if p.st = .installed ∧ p.tenant = tenant then { p with st := .draining } else p }
  let seqs := (s.dir.filter fun e => e.2.tenant == tenant && e.2.st != .releasing).map (·.1)
  seqs.foldl (fun s k => releaseSeq k s) s

/-- TENANT_RETIRE (R385): fabric time has reached T_R. -/
def execTenantRetire (slot : Fin 1024) (s : State) : Host.Outcome State Fault Refusal :=
  .next (
    let x := keyOf s slot.val
    match x.retireAt with
    | none => s
    | some t =>
      if x.st ≠ .active ∨ awake s = false ∨ now s < t then s
      else retireActs x.tenant (setKey slot.val { x with st := .retiring } s))

/-- Every sequence, program slot and window of a tenant is FREE. -/
def objectsFree (s : State) (tenant : Nat) : Bool :=
  !(s.dir.any fun e => e.2.tenant == tenant && e.2.st != .free) &&
  !(s.prog.any fun e => e.2.st != .free && e.2.tenant == tenant) &&
  !(s.slu.win.any fun e => e.2.st != .free && e.2.tenant == tenant) &&
  (tlook s.installs tenant).isNone

/-- The TENANT_REMOVEs that wait for slot `k` end (R386): one ring record each. -/
def endRemoves (k : Nat) : List Deferred → State → State
  | [], s => s
  | d :: rest, s => endRemoves k rest (if d.opcode = 0x11 ∧ d.obj = k then deferredEnd 0x11 k stOk (leBytes 2 k) s else s)

/-- TENANT_ZEROISE (R386): once DRAIN is 0 and every object is FREE, the slot enters ZEROISING with its keys zeroed; the zeroisation verified, it
becomes EMPTY and TENANT_REMOVE completes. -/
def execTenantZeroise (slot : Fin 1024) (s : State) : Host.Outcome State Fault Refusal :=
  let k := slot.val
  .next (
    let x := keyOf s k
    match x.st with
    | .retiring =>
      if awake s = true ∧ drainCount s k = 0 ∧ objectsFree s x.tenant = true then
        let s := setKey k { x with st := .zeroising, memKey1 := 0, memKey2 := 0, keys := {}, sealCtr := 0, keyAge := false } s
        putMeter k { meterOf s k with en := false } { s with traffic := { s.traffic with mask := tdel s.traffic.mask k } }
      else s
    | .zeroising => endRemoves k s.cfg.outstanding (setKey k { memGen := x.memGen } s)
    | _ => s)

/-! ## The sealed scrub (R387) -/

/-- The first frame in the scrub list of region `r`. -/
def scrubFrame (s : State) (r : Nat) : Option (Nat × Store) :=
  tfind s.sto.fast fun a st => st.use == .scrub && a / 2 ^ 40 == r

/-- The first unit of deep storage that waits for region `r`'s scrub engine, on the port that region prefers (05 R116). -/
def scrubUnit (s : State) (r : Nat) : Option (Nat × Store) :=
  tfind s.sto.deep fun a st => st.use == .scrub && a / 2 ^ 41 == r % 4 && (tierOf s (a / 2 ^ 41)).inService

/-- SEALED_SCRUB (R387): the next frame or unit of the list is zeroed and returns to the allocator. `ok` false: the write to the port failed, the
port is fenced (05 R126), and the unit never returns to the allocator. -/
def execSealedScrub (r : Fin 16) (ok : Bool) (s : State) : Host.Outcome State Fault Refusal :=
  .next (
    if awake s = false ∨ rgnFenced s r.val = true then s
    else match scrubFrame s r.val with
      | some (a, st) =>
        { s with mem := { s.mem with fast := memZero s.mem.fast a st.size }, sto := { s.sto with fast := tdel s.sto.fast a } }
      | none =>
        match scrubUnit s r.val with
        | none => s
        | some (a, st) =>
          if ok then
            { s with mem := { s.mem with deep := memZero s.mem.deep a st.size }, sto := { s.sto with deep := tdel s.sto.deep a } }
          else fencePort (a / 2 ^ 41) { s with sto := { s.sto with deep := tput s.sto.deep a { st with use := .fenced } } })

end Sys2Proof.Machine
end

