-- ==== Sys2Proof/Machine/Attest.lean ====
section
/-! DEFINITION. The NVM, the signature reservations and the attestation report (17 R380-R384; 18 R390, R398; 20 R444). -/

namespace Sys2Proof.Machine

/-! ## NVM (18 Table 18.1) -/

/-- `n` bytes of the NVM. -/
def nvmRead (s : State) (o n : Nat) : Bytes := memRead s.mem.nvm o n

/-- Program bytes of the NVM. -/
def nvmProgram (o : Nat) (bs : Bytes) (s : State) : State := { s with mem := { s.mem with nvm := memWrite s.mem.nvm o bs } }

/-- Erase the 64 KiB sector at `o`. -/
def nvmErase (o : Nat) (s : State) : State := nvmProgram o (List.replicate 65536 0xFF) s

/-- Bytes of the signature-state area and the certificate. -/
def sigArea : Nat := 0x4000000
def certArea : Nat := 0x4400000

/-- NVM_READ (20 Table 20.3): LENGTH bytes from OFFSET, within the map of Table 18.1. -/
def execNvmRead (s : State) : Host.Outcome State Fault Refusal :=
  .next (fwRun 0x01 (fun c s =>
    let o := rd c.req 0 4
    let n := rd c.req 4 4
    if n = 0 ∨ 65536 < n ∨ 2 ^ 27 < o + n then answerFw stMalformed [] s else answerFw stOk (nvmRead s o n) s) s)

/-- A write of `n` bytes at `o` touches the `size` bytes at `base`. -/
def writeMeets (o n base size : Nat) : Bool := decide (n ≠ 0) && decide (o < base + size) && decide (base < o + n)

/-- The status of an NVM_WRITE of `n` bytes at `o` (20 R444): 18 R398 first, then its fields, then that it lies within one slot. -/
def nvmWriteStatus (s : State) (o n : Nat) : Nat :=
  if writeMeets o n sigArea 0x410000 then stAccess
  else if s.cfg.phase ≠ 8 ∧ writeMeets o n (s.cfg.slot * 0x2000000) 0x2000000 = true then stStateConflict
  else if o % 256 ≠ 0 ∨ n % 256 ≠ 0 ∨ n < 256 ∨ 32768 < n ∨ o / 0x2000000 ≠ (o + n - 1) / 0x2000000 ∨ 1 < o / 0x2000000 then stMalformed
  else stOk

/-- The 64 KiB sectors whose first byte a write of `n` bytes at `o` writes. -/
def sectorsFrom (o n : Nat) : List Nat := (List.range (n / 65536 + 2)).filterMap fun i =>
  let a := alignUp 65536 o + i * 65536
  if a < o + n then some a else none

/-- NVM_WRITE (20 R444): each sector whose first byte is written is erased, then the data is programmed. -/
def execNvmWrite (s : State) : Host.Outcome State Fault Refusal :=
  .next (fwRun 0x02 (fun c s =>
    let o := rd c.req 0 4
    let n := rd c.req 4 4
    let st := nvmWriteStatus s o n
    if st ≠ stOk then answerFw st [] s
    else answerFw stOk [] (nvmProgram o (c.req.drop 64) ((sectorsFrom o n).foldl (fun s a => nvmErase a s) s))) s)

/-! ## Signatures (17 R381, R382) -/

/-- The records of the signature-state area whose CRC is valid: (slot, SEQ, RESERVED_END), by rising slot. -/
def sigRecords (s : State) : List (Nat × Nat × Nat) :=
  let slots := ((s.mem.nvm.filter fun e => decide (sigArea ≤ e.1) && decide (e.1 < certArea)).map fun e => (e.1 - sigArea) / 64).dedup
  slots.filterMap fun k =>
    let r := nvmRead s (sigArea + 64 * k) 64
    if rd r 60 4 = crc32 (slice r 0 60) then some (k, rd r 0 4, rd r 4 4) else none

/-- The current record: the one with the highest SEQ. -/
def sigCurrent (s : State) : Option (Nat × Nat × Nat) :=
  (sigRecords s).foldl (fun b r => match b with
    | none => some r
    | some c => if c.2.1 < r.2.1 then some r else some c) none

/-- At boot: next and limit are the RESERVED_END of the current record (R382). -/
def sigBoot (s : State) : State :=
  match sigCurrent s with
  | none => { s with sec := { s.sec with sigNext := 0, sigLimit := 0, sigSeq := 0, trees := [] } }
  | some (_, q, e) => { s with sec := { s.sec with sigNext := e, sigLimit := e, sigSeq := q, trees := [] } }

/-- The place of the record that follows the current one. -/
def sigNextAt (s : State) : Nat := match sigCurrent s with
  | none => 0
  | some (k, _, _) => (k + 1) % 65536

/-- Append the record (SEQ + 1, limit + 1,024) after the current one (R382). -/
def sigAppend (s : State) : State :=
  let k := sigNextAt s
  let q := s.sec.sigSeq + 1
  let e := s.sec.sigLimit + 1024
  let body := padTo 60 (leBytes 4 q ++ leBytes 4 e)
  nvmProgram (sigArea + 64 * k) (body ++ leBytes 4 (crc32 body)) s

/-- The record at place `k` has been read back: when it is the first of its sector, the sector before is erased (R382). -/
def sigErase (k : Nat) (s : State) : State := if k % 1024 = 0 then nvmErase (sigArea + (k / 1024 + 63) % 64 * 65536) s else s

/-- A key for a signature (R382): the refusal, or none when a reserved key stands. `readBack` tells whether a record that is appended reads back. -/
def reserveKey (readBack : Bool) (s : State) : Option Nat × State :=
  if s.sec.sigNext ≠ s.sec.sigLimit then (none, s)
  else if 2 ^ 30 < s.sec.sigLimit + 1024 then (some stInternal, raise leafSigExhausted [] s)
  else
    let k := sigNextAt s
    let s := sigAppend s
    if readBack then
      let s := sigErase k s
      (none, { s with sec := { s.sec with sigSeq := s.sec.sigSeq + 1, sigLimit := s.sec.sigLimit + 1024 } })
    else (some stRetry, raise leafSigStateFault [] s)

/-- HSS_TREE_BUILD (R381): the tree of the current index, or the next one when the current is half used. -/
def execHssTreeBuild (tree : Fin 32768) (s : State) : Host.Outcome State Fault Refusal :=
  .next (
    let cur := s.sec.sigNext / 32768
    if awake s = false ∨ s.cfg.phase < 4 ∨ s.cfg.phase = 8 ∨ s.cfg.phase = 9 ∨ s.sec.trees.contains tree.val = true then s
    else if tree.val = cur ∨ (tree.val = cur + 1 ∧ 16384 ≤ s.sec.sigNext % 32768) then
      { s with sec := { s.sec with trees := insertBy id tree.val s.sec.trees } }
    else s)

/-! ## The report (R383, R384) -/

/-- The base-reference entries that a tenant's delta pages use, by rising number. -/
def baseRefsOf (s : State) (tenant : Nat) : List Nat :=
  let all := s.dir.flatMap fun e =>
    if e.2.tenant = tenant then
      (tensOf e.2).flatMap fun ti => (livePages s e.1 ti).filterMap fun p =>
        if leafDelta p.2 then
          some (baseKey (rd (codedBytes s (tenOf e.2 ti) p.1 (leafFrame p.2)) 8 4))
        else none
    else []
  let t : Tbl Unit := all.foldl (fun t k => tput t k ()) []
  t.map (·.1)

/-- One 48-byte entry of the base list (R384); the page stands in the base sequence's own geometry. -/
def baseEntryBytes (s : State) (key : Nat) : Option Bytes :=
  (tlook s.sto.baseRef key).map fun b =>
    leBytes 4 key ++ leBytes 4 b.slot ++ leBytes 1 (b.ten / 4) ++ leBytes 1 (b.ten % 4) ++ leBytes 1 (b.idx / b.pages) ++ [0] ++
    leBytes 4 (b.idx % b.pages) ++ beBytes 32 b.digest.toNat

/-- The base list of a tenant. -/
def baseList (s : State) (tenant : Nat) : List Bytes := (baseRefsOf s tenant).filterMap (baseEntryBytes s)

/-- A program entry of the report. -/
def progEntry (slot : Nat) (p : Prog) : Bytes :=
  leBytes 1 slot ++ leBytes 1 (progCode p.st) ++ leBytes 2 p.gen ++ leBytes 4 (rd p.image 4 4) ++ beBytes 32 p.digest.toNat

/-- Bytes 0 to 319 + 40 · PROG_COUNT of the report of slot `k` (Table 17.7). -/
def reportBody (s : State) (k : Nat) (nonce : Bytes) (bases : List Bytes) : Bytes :=
  let x := keyOf s k
  let progs := s.prog.filter fun e => e.2.st != .free && e.2.tenant == x.tenant
  let n := progs.length
  let print_ := match x.prot, x.keys.current with
    | true, some c => slice (beBytes 32 (Config.sha256 (leBytes 2 x.tenant ++ leBytes 8 c.activate ++ leBytes 32 c.key.toNat)).toNat) 0 16
    | _, _ => List.replicate 16 0
  let act := match x.keys.current with
    | some c => c.activate
    | none => 0
  [1, 0, 0, 0] ++ leBytes 4 (320 + 40 * n + 3284) ++ leBytes 16 Config.deviceId.toNat ++ leBytes 2 (myNode s) ++
  leBytes 3 (myEndpoint s) ++ leBytes 1 0xB0 ++ leBytes 1 s.fuse.grade ++ [0] ++ beBytes 32 s.cfg.fwDigest.toNat ++
  beBytes 32 s.cfg.cfgDigest.toNat ++ leBytes 4 s.fuse.fwSvn ++ leBytes 4 s.fuse.cfgSvn ++ leBytes 16 Config.hssI.toNat ++
  padTo 32 nonce ++ leBytes 8 (now s) ++ leBytes 2 x.tenant ++
  leBytes 1 (bitOf x.prot 0 + bitOf x.sealed_ 1 + x.priv * 4) ++ [0] ++ leBytes 2 k ++ leBytes 2 x.memGen ++ print_ ++
  leBytes 8 act ++ leBytes 8 (tget 0 s.traffic.mask k) ++ leBytes 2 x.sluiceBase ++ leBytes 2 x.sluiceCount ++
  leBytes 4 s.sec.sigNext ++ leBytes 4 bases.length ++ beBytes 32 (Config.sha256 bases.flatten).toNat ++ leBytes 2 n ++
  List.replicate 74 0 ++ progs.flatMap fun e => progEntry e.1 e.2

/-- Tokens of the ATTEST bucket in ns of refill, at the present time (R382). -/
def attestTokens (s : State) : Nat := min 64000000000 (s.sec.tokens + (now s - s.sec.tokensAt))

/-- ATTEST of slot `k`: the report is formed and signed with the next key, its base list captured. -/
def attestSign (k : Nat) (nonce : Bytes) (s : State) : Bytes × State :=
  let bases := baseList s (keyOf s k).tenant
  let body := reportBody s k nonce bases
  let g := s.sec.sigNext
  let list : BaseList := { sig := g, entries := bases, at_ := now s }
  (body ++ padTo 3284 (Config.hssSign g body),
   { s with sec := { s.sec with
       sigNext := g + 1, tokens := attestTokens s - 1000000000, tokensAt := now s
       lists := tput s.sec.lists (keyOf s k).tenant list } })

/-- ATTEST (R383): the slot's state, the certificate, the rate, the tree and the reservation are checked in this order. After the last of the 2³⁰ keys no
tree is needed, and the reservation refuses (R382). -/
def execAttest (readBack : Bool) (s : State) : Host.Outcome State Fault Refusal :=
  .next (fwRun 0x13 (fun c s =>
    match slotOfTenant s (rd c.req 0 2) with
    | none => answerFw stTenantRevoked [] s
    | some (k, x) =>
      if x.st ≠ .active then answerFw stTenantRevoked [] s
      else if s.sec.certMismatch then answerFw stAccess [] s
      else if attestTokens s < 1000000000 then answerFw stOverRate [] s
      else if s.sec.sigNext < 2 ^ 30 ∧ s.sec.trees.contains (s.sec.sigNext / 32768) = false then answerFw stRetry [] s
      else match reserveKey readBack s with
        | (some st, s) => answerFw st [] s
        | (none, s) =>
          match attestSign k (slice c.req 8 32) s with
          | (report, s) => answerFw stOk report s) s)

/-- A captured list is kept for 10 s (R384). -/
def listKept (s : State) (l : BaseList) : Bool := decide (now s < l.at_ + 10000000000)

/-- ATTEST_BASES (R384): up to 170 entries from the cursor. -/
def execAttestBases (s : State) : Host.Outcome State Fault Refusal :=
  .next (fwRun 0x14 (fun c s =>
    let sig := rd c.req 0 4
    let cur := rd c.req 4 4
    match tfind s.sec.lists fun _ l => l.sig == sig && listKept s l with
    | none => answerFw stStateConflict [] s
    | some (tenant, l) =>
      match slotOfTenant s tenant with
      | none => answerFw stTenantRevoked [] s
      | some (_, x) =>
        if x.st ≠ .active then answerFw stTenantRevoked [] s
        else
          let part := (l.entries.drop cur).take 170
          let next := if cur + part.length < l.entries.length then cur + part.length else 2 ^ 32 - 1
          answerFw stOk (leBytes 4 next ++ leBytes 4 part.length ++ List.replicate 8 0 ++ part.flatten) s) s)

/-- BASE_LIST_DISCARD (R384): 10 s after the report. -/
def execBaseListDiscard (tenant : BitVec 12) (s : State) : Host.Outcome State Fault Refusal :=
  .next (match tlook s.sec.lists tenant.toNat with
    | none => s
    | some l => if listKept s l then s else { s with sec := { s.sec with lists := tdel s.sec.lists tenant.toNat } })

/-- SVN_COMMIT (R380): the fuses are blown up to the running image's versions (64-bit thermometers). -/
def execSvnCommit (s : State) : Host.Outcome State Fault Refusal :=
  .next (fwRun 0x04 (fun _ s =>
    let f := max s.fuse.fwSvn (min 64 s.cfg.runFwSvn)
    let g := max s.fuse.cfgSvn (min 64 s.cfg.runCfgSvn)
    answerFw stOk (leBytes 4 f ++ leBytes 4 g) { s with fuse := { s.fuse with fwSvn := f, cfgSvn := g } }) s)

end Sys2Proof.Machine
end

