-- ==== Sys2Proof/Machine/Clocks.lean ====
section
/-! DEFINITION. Region clocks: DVFS, throttling, the limits between neighbours, the power cap and the quiet state (02 R42-R51, 03 R74, 18 R405). A
frequency is counted in 25 MHz steps, point k being 26 + k of them. -/

namespace Sys2Proof.Machine

/-! ## Points and supplies -/

/-- The frequency of point `k` in 25 MHz steps (R45, 20 RGN_CLOCK_STATUS). -/
def freqOf (k : Nat) : Nat := 26 + k

/-- Two points lie within 2:1 (Table 2.7). -/
def ratioOk (a b : Nat) : Bool := decide (freqOf a ≤ 2 * freqOf b) && decide (freqOf b ≤ 2 * freqOf a)

/-- The highest point within 2:1 of point `k`. -/
def ratioTop (k : Nat) : Nat := 26 + 2 * k

/-- The supply of point `k` in mV, from the configuration image; 720 mV without one (21 R455). -/
def pointMv (s : State) (k : Nat) : Nat := match s.cfg.img with
  | some i => (i.dvfsMv5[k]?).getD 144 * 5
  | none => 720

/-- The tracking value of a region's supply in mV (21 R456): a ramp moves 1 mV every 100 ns. While VDD_SET is 0, no voltage has been commanded
since the last reset, and the regulator stands where it stood: at 720 mV when it came up without any command (02 R45; 21 R455). -/
def trackMv (g : Rgn) (t : Nat) : Nat := match g.ramp with
  | none => if g.vddSet = 0 then g.regMv else g.vddSet * 5
  | some r =>
    let d := (t - r.start) / 100
    if r.fromMv ≤ r.toMv then min r.toMv (r.fromMv + d) else max r.toMv (r.fromMv - d)

/-- Set a region's supply to `mv`; at the end of the ramp the point becomes `k` when one is given (R43). -/
def rampTo (t mv : Nat) (k : Option Nat) (g : Rgn) : Rgn :=
  let v := trackMv g t
  if v = mv then { g with vddSet := mv / 5, ramp := none, point := k.getD g.point }
  else { g with vddSet := mv / 5, ramp := some ⟨v, mv, t, k⟩, rampEnd := t + 100 * (max v mv - min v mv) }

/-- A region's record after a main reset (18 R400; 21 R456): every register at its reset value, the regulator at the value it was set to, still on
its way there when a ramp was in progress. -/
def resetRgn (g : Rgn) : Rgn :=
  { regMv := if g.vddSet = 0 then g.regMv else g.vddSet * 5
    ramp := g.ramp.map fun x => { x with thenPoint := none }, rampEnd := g.rampEnd }

/-- Change a region's point (R43): down, the clock first and the supply after; up, the supply first and the clock after. -/
def movePoint (r k : Nat) (s : State) : State :=
  let g := rgnOf s r
  let mv := pointMv s k
  let t := now s
  if k ≤ g.point ∨ mv ≤ trackMv g t then setRgn r (rampTo t mv none { g with point := k }) s
  else setRgn r (rampTo t mv (some k) g) s

/-- The point a region has or is on its way up to. -/
def goalPoint (s : State) (r : Nat) : Nat :=
  let g := rgnOf s r
  match g.ramp with
  | some x => x.thenPoint.getD g.point
  | none => g.point

/-- The highest point that the throttle allows (R44): 1.0 GHz at 85 °C, 0.65 GHz at 95 °C. -/
def throttleTop (g : Rgn) : Nat := min (if g.cap85 then 14 else 34) (if g.cap95 then 0 else 34)

/-- The point that DVFS and the throttle allow. -/
def unclamped (g : Rgn) : Nat := min g.target (throttleTop g)

/-- The highest point that the throttle and the limits in force allow. -/
def limitTop (g : Rgn) : Nat := g.lim.foldl (fun m e => min m e.2) (throttleTop g)

/-- The highest point that DVFS, the throttle and the limits in force allow. -/
def allowed (g : Rgn) : Nat := min g.target (limitTop g)

/-- A limit of cause `c` on a region, the lowest of those set. -/
def putLim (c k : Nat) (g : Rgn) : Rgn := { g with lim := tput g.lim c (min k ((tlook g.lim c).getD k)) }

/-- CLAMP_CAUSE (20 R446): the cause of the lowest limit, of equal ones the lowest code; 0 at the target. -/
def clampCause (g : Rgn) : Nat :=
  if g.point = g.target then 0
  else (g.lim.foldl (fun b e => if e.2 < b.2 then e else b) (0, g.target)).1

/-- The directory search step (03 R74): 0 full, 1 half, 2 quarter, 3 eighth. -/
def searchStep (g : Rgn) : Nat :=
  min 3 ((if g.cap95 then 2 else if g.cap85 then 1 else 0) + (if g.searchHotter then 1 else 0))

/-- Write a region's record; a change of its search step sets DIR_THROTTLE (03 R74). -/
def setRgnSearch (r : Nat) (g : Rgn) (s : State) : State :=
  let before := searchStep (rgnOf s r)
  let s := setRgn r g s
  if searchStep g = before then s else raise (leafDirThrottle r) [] s

/-! ## Neighbours (R46-R49) -/

/-- Pair `n`: regions n and n + 1. -/
def pairOf (s : State) (n : Nat) : Pair := tget {} s.pair n

/-- Write pair `n`. -/
def setPair (n : Nat) (p : Pair) (s : State) : State := { s with pair := tset {} s.pair n p }

/-- A region that R46 applies to (R49): neither fenced nor gated. -/
def inForce (s : State) (r : Nat) : Bool := decide (r < 16) && !(rgnOf s r).fenced && !(rgnOf s r).gated

/-- Both regions of pair `n` are in force. -/
def pairInForce (s : State) (n : Nat) : Bool := inForce s n && inForce s (n + 1)

/-- The neighbours of region `r` in force, each with the number of the pair. -/
def neighbours (s : State) (r : Nat) : List (Nat × Nat) :=
  ((if r = 0 then [] else [(r - 1, r - 1)]) ++ [(r + 1, r)]).filter fun e => inForce s e.1

/-- The clamps of a pass: by region · 8 + cause code, the highest point and the pair that asks for it. -/
abbrev Clamps := Tbl (Nat × Nat)

/-- A region's point under the clamps found so far. -/
def clampedPoint (s : State) (c : Clamps) (r : Nat) : Nat :=
  [3, 4, 5].foldl (fun m k => match tlook c (r * 8 + k) with
    | some b => min m b.1
    | none => m) (goalPoint s r)

/-- The clamps that pair `n` asks for (Table 2.7): the faster region to the slower one's point, or to twice its frequency. -/
def clampPair (s : State) (n : Nat) (c : Clamps) : Clamps :=
  if pairInForce s n then
    let a := clampedPoint s c n
    let b := clampedPoint s c (n + 1)
    let fast := if b < a then n else n + 1
    let hi := max a b
    let lo := min a b
    let c := if (pairOf s n).tempOn && decide (lo < hi) then tput c (fast * 8 + 5) (lo, n) else c
    if ratioTop lo < hi then tput c (fast * 8 + 3) (ratioTop lo, n) else c
  else c

/-- The faster region of pair `n`; of two equally fast ones that with the higher measured supply. DESIGN CHOICE for equal clocks, log 78. -/
def fasterOf (s : State) (n : Nat) : Nat :=
  let a := goalPoint s n
  let b := goalPoint s (n + 1)
  if b < a ∨ (a = b ∧ (pairOf s n).mvHigh < (pairOf s n).mvLow) then n else n + 1

/-- The supply difference of pair `n` at its last comparison, in mV. -/
def supplyDiff (p : Pair) : Nat := max p.mvLow p.mvHigh - min p.mvLow p.mvHigh

/-- A supply step of pair `n` is due: beyond the limit, and 20 µs after the last step. -/
def supplyStepDue (s : State) (n : Nat) : Bool :=
  let p := pairOf s n
  pairInForce s n && p.supplyOn && decide (150 < supplyDiff p) &&
    (match p.stepAt with
     | none => true
     | some t => decide (t + 20000 ≤ now s))

/-- The clamps that the supply differences ask for: the faster region one point lower. -/
def supplyClamps (s : State) : Clamps :=
  (List.range 15).foldl (fun c n =>
    let f := fasterOf s n
    if supplyStepDue s n && decide (0 < goalPoint s f) then tput c (f * 8 + 4) (goalPoint s f - 1, n) else c) []

/-- Every clamp along the chain (R47). -/
def clampsOf (s : State) : Clamps :=
  (List.range 16).foldl (fun c _ => (List.range 15).foldl (fun c n => clampPair s n c) c) (supplyClamps s)

/-- The value of a quantity of region `r` of pair `n`, in MHz, mV or units of 0.25 °C (19 Table 19.8). -/
def skewValue (s : State) (n q r : Nat) : Nat :=
  match q with
  | 0 => freqOf (rgnOf s r).point * 25
  | 1 => if r = n then (pairOf s n).mvLow else (pairOf s n).mvHigh
  | _ => (rgnOf s r).temp

/-- The leaf bit of a quantity, in the lower region of the pair. -/
def skewLeaf (n q : Nat) : Leaf := if q = 0 then leafSkewRatio n else if q = 1 then leafSkewSupply n else leafSkewTemp n

/-- One REGION_SKEW record (R46; 19 R429). It holds the values at the moment its action begins, just before the region is lowered and while
regions nearer to the start of the pass are not yet lowered. DESIGN CHOICE, log 47. -/
def skewRecord (n q : Nat) (s : State) : State :=
  let l := skewLeaf n q
  logRecord (ringRegion n) l.sev 0 l.src l.bit 0
    [(40, 1, n + 1), (41, 1, q), (44, 4, skewValue s n q n), (48, 4, skewValue s n q (n + 1))] s

/-- The quantity of a cause code. -/
def quantityOf (code : Nat) : Nat := if code = 3 then 0 else if code = 4 then 1 else 2

/-- Mark that the supply step or the temperature action of pair `n` has been taken. -/
def markAction (n q : Nat) (s : State) : State :=
  let p := pairOf s n
  if q = 1 then setPair n { p with stepAt := some (now s) } s
  else if q = 2 then setPair n { p with tempLogged := true } s
  else s

/-- Lower one region under its clamps, with the record of the clamp that gives the lowest clock. -/
def applyClamp (c : Clamps) (s : State) (r : Nat) : State :=
  let mine := [3, 4, 5].filterMap fun k => (tlook c (r * 8 + k)).map fun b => (k, b)
  match mine with
  | [] => s
  | m :: rest =>
    let best := rest.foldl (fun b e => if e.2.1 < b.2.1 then e else b) m
    let s := markAction best.2.2 (quantityOf best.1) (skewRecord best.2.2 (quantityOf best.1) s)
    let s := setRgn r (mine.foldl (fun g e => putLim e.1 e.2.1 g) (rgnOf s r)) s
    movePoint r (min best.2.1 (goalPoint s r)) s

/-- The regions by distance from `r0`, farthest first (R47). -/
def farthestFirst (r0 : Nat) : List Nat :=
  sortBy (fun r => 16 - (max r r0 - min r r0)) (List.range 16)

/-- The search-step action of the temperature limit: the hotter region of pair `n` searches one step slower; where no clock changes it is the
action that is logged. -/
def searchAction (s : State) (n : Nat) : State :=
  let p := pairOf s n
  if p.tempOn && pairInForce s n then
    let hot := if (rgnOf s n).temp < (rgnOf s (n + 1)).temp then n + 1 else n
    let s := setRgnSearch hot { rgnOf s hot with searchHotter := true } s
    if p.tempLogged then s else markAction n 2 (skewRecord n 2 s)
  else s

/-- A clamp pass that a change of region `r0` starts (R46, R47). -/
def clampPass (r0 : Nat) (s : State) : State :=
  let s := (farthestFirst r0).foldl (applyClamp (clampsOf s)) s
  (List.range 15).foldl searchAction s

/-- SKEW_CLAMP_APPLY (R47). -/
def execSkewClampApply (r : Fin 16) (s : State) : Host.Outcome State Fault Refusal :=
  .next (if awake s then clampPass r.val s else s)

/-- DVFS_POINT_CHANGE (R43): the target changes, and the point follows within the limits. -/
def execDvfsPointChange (r : Fin 16) (point : Fin 35) (s : State) : Host.Outcome State Fault Refusal :=
  .next (
    let g := { rgnOf s r.val with target := point.val }
    if awake s = false ∨ g.fenced = true then s
    else
      let s := setRgn r.val g s
      if g.gated then s else clampPass r.val (movePoint r.val (allowed g) s))


/-! ## Temperature (R44) -/

/-- The highest of a die's readings (21 R462); a die without one reads 0. -/
def highest (l : List Nat) : Nat := l.foldl max 0

/-- The junction temperature of a die that is no region (R462): the higher of its 2 sensors' last readings. -/
def dieTemp (s : State) (die : Nat) : Nat :=
  highest [tget 0 s.cap.sensor (128 + 2 * (die - 16)), tget 0 s.cap.sensor (129 + 2 * (die - 16))]

/-- The package's junction temperature (R462): the highest over all dies. -/
def packageTemp (s : State) : Nat :=
  highest ((List.range 16).map (fun r => (rgnOf s r).temp) ++ (List.range 16).map fun i => dieTemp s (16 + i))

/-- A die's sensor has been read (R462): sensors 8 r to 8 r + 7 are those of region r, the others those of `PwrCap.sensor`. -/
def noteSensor (n t : Nat) (s : State) : State :=
  if 160 ≤ n then s
  else if n < 128 then
    let g := rgnOf s (n / 8)
    let l := (g.sens ++ List.replicate (8 - g.sens.length) 0).set (n % 8) t
    setRgn (n / 8) { g with sens := l } s
  else { s with cap := { s.cap with sensor := tset 0 s.cap.sensor n t } }

/-- The throttle steps of a region after a sample, in 0.25 °C: each is released 3 °C below its step. -/
def throttled (g : Rgn) (t : Nat) : Rgn :=
  { g with
    temp := t
    cap95 := decide (380 ≤ t) || (g.cap95 && decide (368 < t))
    cap85 := decide (340 ≤ t) || (g.cap85 && decide (328 < t)) }

/-- The throttle step in force: 2 at 95 °C, 1 at 85 °C. -/
def throttleLevel (g : Rgn) : Nat := if g.cap95 then 2 else if g.cap85 then 1 else 0

/-- The hardware cap: 1.0 GHz or 0.65 GHz. The supply is left as it is. -/
def capPoint (g : Rgn) : Rgn :=
  let g := if g.cap85 then putLim 1 14 g else g
  let g := if g.cap95 then putLim 2 0 g else g
  { g with point := min g.point (throttleTop g) }

/-- Compare the temperatures of pair `n` (Table 2.7): beyond 30 °C sets SKEW_TEMP, 25 °C or less releases it. A region not yet sampled since
reset counts with the reset value of TEMP, 0 °C. DESIGN CHOICE, log 46. -/
def compareTemp (n : Nat) (s : State) : State :=
  if pairInForce s n then
    let p := pairOf s n
    let a := (rgnOf s n).temp
    let b := (rgnOf s (n + 1)).temp
    let d := max a b - min a b
    if 120 < d ∧ p.tempOn = false then setAndFire (leafSkewTemp n) (setPair n { p with tempOn := true, tempLogged := false } s)
    else if d ≤ 100 ∧ p.tempOn = true then setPair n { p with tempOn := false, tempLogged := false } s
    else s
  else s

/-- The search step of the temperature limit ends with the limit's release. -/
def releaseSearch (r : Nat) (s : State) : State :=
  let g := rgnOf s r
  let still := (neighbours s r).any fun e => (pairOf s e.2).tempOn && decide ((rgnOf s e.1).temp ≤ g.temp)
  if g.searchHotter && !still then setRgnSearch r { g with searchHotter := false } s else s

/-- THERMAL_SAMPLE (R44): every region is throttled on its own temperature, the highest of its 8 readings (R462), a gated or fenced one too; the
comparison with the neighbours leaves those out (R49). -/
def execThermalSample (r : Fin 16) (readings : Vector (BitVec 10) 8) (s : State) : Host.Outcome State Fault Refusal :=
  .next (
    let g := rgnOf s r.val
    if awake s = false then s
    else
      let l := readings.toList.map (·.toNat)
      let g' := { throttled g (highest l) with sens := l }
      let s := setRgnSearch r.val (capPoint g') s
      let s := if throttleLevel g < throttleLevel g' then
          raise (if throttleLevel g' = 2 then leafThrottle95 r.val else leafThrottle85 r.val) [] s
        else s
      let s := compareTemp r.val (if r.val = 0 then s else compareTemp (r.val - 1) s)
      [r.val - 1, r.val, r.val + 1].foldl (fun s x => releaseSearch x s) s)

/-! ## The side link (R46) -/

/-- SIDE_LINK_COMPARE (R46): the ratio, and the supply difference of four successive samples. -/
def execSideLinkCompare (pair : Fin 15) (mvLow mvHigh : Nat) (s : State) : Host.Outcome State Fault Refusal :=
  .next (
    let n := pair.val
    if awake s = false ∨ pairInForce s n = false then s
    else
      let p := pairOf s n
      let beyond := !ratioOk (rgnOf s n).point (rgnOf s (n + 1)).point
      let q : Pair := { p with ratioOn := beyond, mvLow := mvLow, mvHigh := mvHigh }
      let d := supplyDiff q
      let q : Pair :=
        if 150 < d then { q with samples := min 4 (p.samples + 1) }
        else if d ≤ 120 then { q with samples := 0, supplyOn := false, clampAt := none, stepAt := none }
        else { q with samples := 0 }
      let starts := q.samples == 4 && !q.supplyOn
      let q : Pair := if starts then { q with supplyOn := true, clampAt := some (now s) } else q
      let s := setPair n q s
      let s := if beyond && !p.ratioOn then setAndFire (leafSkewRatio n) s else s
      if starts then setAndFire (leafSkewSupply n) s else s)

/-- A region is fenced for its supply: SUPPLY_FAULT, then REGION_FENCED caused by it. -/
def supplyFault (r : Nat) (s : State) : State :=
  if (rgnOf s r).fenced ∨ awake s = false then s
  else
    let s := raise (leafSupplyFault r) [] s
    fenceRegion r (logSeq s (ringRegion r)) s

/-- SUPPLY_SKEW_TIMEOUT (R46): beyond the limit after 1 ms, or with the faster region at 0.65 GHz, the region whose measured supply is farther
from its set voltage is fenced; of two equally far ones the lower. DESIGN CHOICE for equal distances, log 48. -/
def execSupplySkewTimeout (pair : Fin 15) (s : State) : Host.Outcome State Fault Refusal :=
  .next (
    let n := pair.val
    let p := pairOf s n
    let late := match p.clampAt with
      | some t => decide (t + 1000000 ≤ now s)
      | none => false
    if awake s = false ∨ pairInForce s n = false ∨ p.supplyOn = false ∨ supplyDiff p ≤ 150 ∨
        (late = false ∧ (rgnOf s (fasterOf s n)).point ≠ 0) then s
    else
      let off := fun (mv r : Nat) => let v := (rgnOf s r).vddSet * 5; max mv v - min mv v
      supplyFault (if off p.mvLow n < off p.mvHigh (n + 1) then n + 1 else n) s)

/-! ## Release (R48) -/

/-- The limit of a cause may rise: the cause's own release condition holds (Table 2.7, R44, R51). -/
def liftable (s : State) (r code : Nat) : Bool :=
  let g := rgnOf s r
  match code with
  | 1 => !g.cap85
  | 2 => !g.cap95
  | 3 => (neighbours s r).all fun e => ratioOk (unclamped g) (rgnOf s e.1).point
  | 4 => (neighbours s r).all fun e => !(pairOf s e.2).supplyOn
  | 5 => (neighbours s r).all fun e => !(pairOf s e.2).tempOn
  | _ => !s.cap.overCap

/-- The supply of point `k` of region `r` lies within 150 mV of the supply of neighbour `nb` (Table 2.7). -/
def supplyFits (s : State) (k nb : Nat) : Bool :=
  let a := pointMv s k
  let b := trackMv (rgnOf s nb) (now s)
  decide (max a b - min a b ≤ 150)

/-- Region `r` may take point `k` beside its neighbours (R46, R48): ratio, supply (the difference last measured, and that of the step's own
supply) and temperature. -/
def stepFits (s : State) (r k : Nat) : Bool :=
  (neighbours s r).all fun e =>
    let nb := (rgnOf s e.1).point
    ratioOk k nb && decide (supplyDiff (pairOf s e.2) ≤ 150) && supplyFits s k e.1 && (!(pairOf s e.2).tempOn || decide (k ≤ nb))

/-- A throttle step is in force (R44): 1 at 85 °C, 2 at 95 °C. -/
def throttleOn (g : Rgn) (code : Nat) : Bool := (code == 1 && g.cap85) || (code == 2 && g.cap95)

/-- The limits of a region raised to `k`; none is left at the target but those of a throttle step in force. -/
def liftLims (k : Nat) (g : Rgn) : Rgn :=
  { g with lim := tfilter (tmap g.lim fun c b => if throttleOn g c then b else max b k) fun c b =>
      throttleOn g c || decide (b < g.target) }

/-- CLAMP_RELEASE_STEP (R48): one 25 MHz step, at most every 1 ms. -/
def execClampReleaseStep (r : Fin 16) (s : State) : Host.Outcome State Fault Refusal :=
  .next (
    let g := rgnOf s r.val
    let k := g.point + 1
    if awake s = false ∨ inForce s r.val = false ∨ goalPoint s r.val ≠ g.point ∨ unclamped g < k ∨ now s < g.lastRaise + 1000000 ∨
        (g.lim.all fun e => decide (k ≤ e.2) || liftable s r.val e.1) = false ∨ stepFits s r.val k = false then s
    else movePoint r.val k (setRgn r.val { liftLims k g with lastRaise := now s } s))

/-! ## Package power (R51) -/

/-- One region one step lower under the power cap; a gated one is left alone (18 R405). -/
def capStep (s : State) (r : Nat) : State :=
  let k := goalPoint s r
  if inForce s r ∧ 0 < k then movePoint r (k - 1) (setRgn r (putLim 6 (k - 1) (rgnOf s r)) s) else s

/-- POWER_MEASURE (R51): every measurement above the cap lowers the regions and sets POWER_CAPPED. Every region changes with the step, and the
clamp pass after it starts at region 0. DESIGN CHOICE for that start, log 49. -/
def execPowerMeasure (watts : Nat) (s : State) : Host.Outcome State Fault Refusal :=
  .next (
    let cap := (s.cfg.img.map (·.powerCap)).getD 1150
    if awake s = false then s
    else if cap < watts then
      let s := { s with cap := { s.cap with overCap := true, belowSince := none } }
      raise leafPowerCapped [] (clampPass 0 ((List.range 16).foldl capStep s))
    else if s.cap.overCap = true ∧ 100 * watts ≤ 95 * cap then
      let since := s.cap.belowSince.getD (now s)
      if since + 10000000 ≤ now s then { s with cap := { s.cap with overCap := false, belowSince := none } }
      else { s with cap := { s.cap with belowSince := some since } }
    else { s with cap := { s.cap with belowSince := none } })

/-! ## The quiet state (18 R405) -/

/-- A lane of some request holds a context of the region; or waits for one. -/
def regionLanes (s : State) (r : Nat) (p : LaneSt → Bool) : Bool :=
  s.req.any fun e => match tlook e.2.rgns r with
    | some x => x.lanes.any fun l => p l.2.st
    | none => false

/-- The region's DMA channels (13 Table 13.1). -/
def regionDma (r : Nat) : List Nat := (List.range 16).map fun i => 16 * r + i

/-- Nothing of the region is at work: no context, no channel-unit command, no DMA run or start that waits. -/
def regionIdle (s : State) (r : Nat) : Bool :=
  !regionLanes s r (fun x => x == .running || x == .saved || x == .waiting) &&
  (List.range 12).all (fun i => (unitCmds (chanSt s (12 * r + i))).isEmpty) &&
  (regionDma r).all fun c => (dmaOf s c).run.isNone && !(dmaOf s c).pending

/-- One tick of the time base (log 1); a region that is at work has been so up to the new time (R405). -/
def idleTick (s : State) : State :=
  let s := tick s
  (List.range 16).foldl (fun s r => if regionIdle s r then s else markBusy r s) s

/-- QUIET_GATE (R405): a region that has been idle for QUIET_IDLE µs is clock-gated and runs on at 0.65 GHz. -/
def execQuietGate (r : Fin 16) (s : State) : Host.Outcome State Fault Refusal :=
  .next (
    let idle := (s.cfg.img.map (·.quietIdle)).getD 500
    if ready s = false ∨ inForce s r.val = false ∨ idle = 0 ∨ regionIdle s r.val = false ∨
        now s < (rgnOf s r.val).busyAt + 1000 * idle then s
    else
      let s := movePoint r.val 0 s
      setRgn r.val { rgnOf s r.val with gated := true } s)

/-- Work waits in a gated region. -/
def workWaits (s : State) (r : Nat) : Bool :=
  regionLanes s r (fun x => x == .waiting) ||
  (List.range 12).any (fun i => !(unitCmds (chanSt s (12 * r + i))).isEmpty) ||
  (regionDma r).any fun c => (dmaOf s c).pending

/-- The lowest point within 2:1 of point `k`. -/
def ratioFloor (k : Nat) : Nat := divUp (freqOf k) 2 - 26

/-- The highest point that the throttle, the limits in force and both neighbours (ratio, and a temperature limit in force) allow region `r`. -/
def ungateTop (s : State) (r : Nat) (g : Rgn) : Nat :=
  (neighbours s r).foldl (fun m e =>
    let nb := (rgnOf s e.1).point
    min m (if (pairOf s e.2).tempOn then min nb (ratioTop nb) else ratioTop nb)) (limitTop g)

/-- The point for an ungated region (R49): from the lowest one within 2:1 of both neighbours up to `ungateTop`, the highest not above the target
whose supply lies within 150 mV of both neighbours' supplies, else the lowest above it. -/
def ungatePoint (s : State) (r : Nat) (g : Rgn) : Nat :=
  let near := neighbours s r
  let top := ungateTop s r g
  let low := min top (near.foldl (fun m e => max m (ratioFloor (rgnOf s e.1).point)) 0)
  let want := max low (min top g.target)
  let fits := (List.range 35).filter fun k => decide (low ≤ k) && decide (k ≤ top) && near.all fun e => supplyFits s k e.1
  match (fits.filter fun k => decide (k ≤ want)).getLast?, fits.head? with
  | some k, _ => k
  | none, some k => k
  | none, none => want

/-- A region with the limits that its neighbours set on it as it is ungated (R49). -/
def ungateLims (s : State) (r : Nat) (g : Rgn) : Rgn :=
  (neighbours s r).foldl (fun g e =>
    let nb := (rgnOf s e.1).point
    let g := if ratioTop nb < g.target then putLim 3 (ratioTop nb) g else g
    if (pairOf s e.2).tempOn && decide (nb < g.target) then putLim 5 nb g else g) g

/-- The starts that waited for the ungating begin. -/
def startWaiting (s : State) (c : Nat) : State :=
  let x := dmaOf s c
  if x.pending && x.run.isNone then dmaBegin c (setDma c { x with pending := false } s) else s

/-- Ungate a region (R49, R405): at a point within its limits and those of both neighbours, whose limits are kept with it. Where that point needs a
higher supply, the supply is raised first (R43) and the region stays gated until the ramp ends; QUIET_WAKE counts when the ungating completes, and the
work that waited goes on. -/
def ungateRgn (r : Nat) (s : State) : State :=
  let g := ungateLims s r (rgnOf s r)
  let k := ungatePoint s r g
  let mv := pointMv s k
  if trackMv g (now s) < mv then setRgn r (rampTo (now s) mv (some k) g) s
  else
    let s := count (rgnCntOff r 15) (setRgn r (rampTo (now s) mv none { g with gated := false, point := k }) s)
    (regionDma r).foldl startWaiting (clampPass r s)

/-- QUIET_UNGATE (R405, R49): work that waits in a gated region ungates it. -/
def execQuietUngate (r : Fin 16) (s : State) : Host.Outcome State Fault Refusal :=
  .next (
    let g := rgnOf s r.val
    let rising := (g.ramp.bind (·.thenPoint)).isSome
    if awake s = false ∨ g.fenced = true ∨ g.gated = false ∨ rising = true ∨ workWaits s r.val = false then s
    else ungateRgn r.val s)

/-- SUPPLY_RAMP_END (R43): the supply has reached its set value; the point that waited for it comes into force, and in a gated region the ungating
that waited for it goes on (R49). -/
def execSupplyRampEnd (r : Fin 16) (s : State) : Host.Outcome State Fault Refusal :=
  .next (
    let g := rgnOf s r.val
    match g.ramp with
    | none => s
    | some x =>
      if awake s = false ∨ now s < x.start + 100 * (max x.fromMv x.toMv - min x.fromMv x.toMv) then s
      else if g.gated && !g.fenced && x.thenPoint.isSome then ungateRgn r.val (setRgn r.val { g with ramp := none } s)
      else
        let k : Nat := match x.thenPoint with
          | some k => max g.point (min k (allowed g))
          | none => g.point
        setRgn r.val { g with ramp := none, point := k } s)

end Sys2Proof.Machine
end

