-- ==== Sys2Proof/Machine/Catch.lean ====
section
/-! DEFINITION. The catchment's commands (19 R413-R421): enables, targets, sources, claims and completions. -/

namespace Sys2Proof.Machine

/-- BAR0 offset of CAUSE of source `id` (19 Table 19.1). -/
def causeOff (id : Nat) : Nat :=
  if id ≤ 128 then 0x1001000 + (id - 1) / 8 * 0x100000 + (id - 1) % 8 * 0x10
  else if id ≤ 144 then 0x400100 + (id - 129) / 4 * 0x40000 + (id - 129) % 4 * 0x10
  else if id ≤ 152 then 0x500100 + (id - 145) / 2 * 0x40000 + (id - 145) % 2 * 0x10
  else if id ≤ 158 then 0x2000100 + (id - 153) * 0x1000
  else 0x200 + (id - 159) * 0x10

/-- The bits of CAUSE that are set and newly enabled by writing `v` to CAUSE_EN of source `id`. -/
def newlyEnabled (s : State) (id v : Nat) : Nat :=
  causeWord s id &&& (v &&& ((2 ^ 32 - 1) ^^^ causeEnWord s id))

/-- Write CAUSE_EN of source `id` (19 R414, R416). -/
def writeCauseEn (id v : Nat) (s : State) : State :=
  let mask := 2 ^ leafWidth id - 1
  let v := v &&& mask
  let fires := newlyEnabled s id v != 0
  let s := { s with catchment := { s.catchment with dis := tset 0 s.catchment.dis id (mask ^^^ v) } }
  if fires then fireSource id s else s

/-- CAUSE_EN_WRITE (R416): an enable bit that goes from 0 to 1 while its cause bit is set fires the source. -/
def execCauseEnWrite (who : Writer) (src : Fin 163) (value : BitVec 32) (s : State) : Host.Outcome State Fault Refusal :=
  .next (writerGate who (causeOff src + 4) s (writeCauseEn src value.toNat))

/-- CATCH_CTRL after a write of `v` by `who` (19 R420): a host writes only TGT_EN bit 8. -/
def catchCtrlAfter (who : Writer) (v : BitVec 32) (c : Catchment) : Catchment :=
  match who with
  | .firmware => { c with globalEn := v.getLsbD 0, tgtEn := (v >>> 8).setWidth 9 }
  | .host _ => { c with tgtEn := (c.tgtEn &&& 0xFF) ||| (((v >>> 8).setWidth 9) &&& 0x100) }

/-- CATCH_CTRL_WRITE (R420): offers are suspended, resumed or withdrawn. -/
def execCatchCtrlWrite (who : Writer) (value : BitVec 32) (s : State) : Host.Outcome State Fault Refusal :=
  .next (writerGate who 0x10000 s fun s => settle { s with catchment := catchCtrlAfter who value s.catchment })

/-- CATCH_SRC_CFG of one source after a write of `v` by `who` (19 R417, R420): a host writes only PIN. -/
def srcCfgAfter (who : Writer) (v : BitVec 32) (g : SrcCfg) : SrcCfg :=
  match who with
  | .firmware => { g with cores := v.setWidth 8, pin := v.getLsbD 8, prio := ((v >>> 12).setWidth 4).toNat }
  | .host _ => { g with pin := v.getLsbD 8 }

/-- CATCH_SRC_CFG_WRITE (R417): the offer is withdrawn and made again when its target no longer stands. -/
def execCatchSrcCfgWrite (who : Writer) (src : Fin 163) (value : BitVec 32) (s : State) : Host.Outcome State Fault Refusal :=
  .next (writerGate who (0x11000 + 4 * src) s fun s =>
    if src.val = 0 then s
    else settle { s with catchment := setSrc src (srcCfgAfter who value (srcCfg s.catchment src)) s.catchment })

/-- A claim by target `t` (19 R418): the offered source becomes ACTIVE, its ID and priority are pushed, LAST is the target. -/
def claimTarget (t : Nat) (s : State) : State :=
  match tlook s.catchment.offer t with
  | none => s
  | some o =>
    let g := srcCfg s.catchment o.src
    let c := setSrc o.src { g with st := .active, last := t } s.catchment
    settle { s with catchment := { c with
      offer := tdel c.offer t
      stack := tset [] c.stack t ((o.src, g.prio) :: tgtStack c t) } }

/-- The source a read of CATCH_TGT_CLAIM of target `t` returns. -/
def offeredSource (t : Nat) (s : State) : Nat :=
  match tlook s.catchment.offer t with
  | none => 0
  | some o => o.src

/-- CATCH_TGT_CLAIM (R418): a core claims at its own register, the tray controller at target 8's; a BAR0 read of targets 0-7
returns 0 and claims nothing (R420). -/
def execCatchTgtClaim (who : Writer) (t : Fin 9) (s : State) : Host.Outcome State Fault Refusal :=
  .next (match who with
    | .firmware => if awake s && t.val != 8 then claimTarget t s else s
    | .host rid =>
      match svcClaimGate rid false (0x10100 + t * 0x10) s with
      | (false, s) => s
      | (true, s) =>
        if t.val = 8 && offsetDecoded 0x10180 s then
          svcAnswer (.data (leBytes 4 (offeredSource 8 s))) (claimTarget 8 s)
        else svcAnswer (.data (leBytes 4 0)) s)

/-- The state of a source after its target completes it (19 Table 19.3). -/
def srcCompletes : SrcState → SrcState
  | .active => .idle
  | .activePending => .pending
  | x => x

/-- A completion by target `t` (19 R419): the top of the stack is popped, or the write is refused with CATCH_STACK_FAULT. -/
def completeTarget (t id : Nat) (s : State) : State :=
  match tgtStack s.catchment t with
  | (src, _) :: rest =>
    if src = id then
      let g := srcCfg s.catchment src
      let c := setSrc src { g with st := srcCompletes g.st } s.catchment
      settle { s with catchment := { c with stack := tset [] c.stack t rest } }
    else raise leafCatchStackFault [(40, 1, t), (41, 1, id), (42, 1, src)] s
  | [] => raise leafCatchStackFault [(40, 1, t), (41, 1, id), (42, 1, 0)] s

/-- CATCH_TGT_COMPLETE (R419). -/
def execCatchTgtComplete (who : Writer) (t : Fin 9) (id : BitVec 8) (s : State) : Host.Outcome State Fault Refusal :=
  .next (match who with
    | .firmware => if awake s && t.val != 8 then completeTarget t id.toNat s else s
    | .host _ => writerGate who (0x10104 + t * 0x10) s fun s => if t.val = 8 then completeTarget 8 id.toNat s else s)

/-- CATCH_OFFER_TIMEOUT (R417): an offer not claimed within 10 µs moves to the next eligible target. -/
def execCatchOfferTimeout (t : Fin 9) (s : State) : Host.Outcome State Fault Refusal :=
  .next (match tlook s.catchment.offer t with
    | none => s
    | some o =>
      if o.since + 10000 ≤ now s then
        let c := offerOne (now s) t { s.catchment with offer := tdel s.catchment.offer t } o.src
        settle { s with catchment := c }
      else s)

/-- At a takeover (19 R421): sources ACTIVE on the fenced die's cores return to PENDING, and those cores' stacks and TGT_EN bits
are cleared. `die` is the fenced control die. -/
def catchTakeover (die : Nat) (s : State) : State :=
  let mine := fun t => decide (4 * die ≤ t) && decide (t < 4 * die + 4)
  let held := (s.catchment.stack.filter fun e => mine e.1).flatMap fun e => e.2.map (·.1)
  let c := held.foldl (fun c id => setSrc id { srcCfg c id with st := .pending } c) s.catchment
  let keep : BitVec 9 := if die = 0 then 0x1F0 else 0x10F
  settle { s with catchment := { c with
    stack := tfilter c.stack (fun t _ => !mine t)
    tgtEn := c.tgtEn &&& keep } }

end Sys2Proof.Machine
end

