-- ==== Sys2Proof/Machine/FwReads.lean ====
section
/-! DEFINITION. Firmware commands that read the node's tables, run an action, serve firmware's own entries, submit a change, drain the node and
ask for a reset (20 Table 20.3). -/

namespace Sys2Proof.Machine

/-! ## Reads -/

/-- The sequence record (03 Table 3.4). -/
def seqRecord (q : Seq) : Bytes :=
  padTo 64 q.desc ++ leBytes 8 q.tag ++ leBytes 2 (q.tenant + seqCode q.st * 2 ^ 12) ++ leBytes 2 q.pgen ++ leBytes 4 q.committed ++
  leBytes 1 q.tail ++ [0] ++ leBytes 2 q.inFlight ++ leBytes 4 0 ++ leBytes 8 q.root ++ leBytes 8 q.fp ++ leBytes 8 q.openTime ++ leBytes 16 0

/-- The append record (09 Table 9.4). -/
def appRecord (a : AppendRec) : Bytes :=
  (List.range 256).map (fun l => BitVec.ofNat 8 (tget 0 a.fill l)) ++ leBytes 4 a.rotOffset ++
  leBytes 1 (bitOf a.commitPending 0 + bitOf a.takeover 1 + bitOf a.copied 2) ++ leBytes 11 0

/-- The window descriptor (11 Table 11.3). -/
def winEntry (s : State) (id : Nat) : Bytes :=
  let w := winOf s id
  leBytes 1 (winCode w.st + w.kind * 4) ++ [0] ++ leBytes 2 (winGen s id) ++ leBytes 2 w.tenant ++ leBytes 2 (winInFlight s id) ++
  leBytes 8 w.length ++ leBytes 16 0

/-- SLUICE_READ's response (Table 20.3). -/
def sluiceView (s : State) (x : Nat) : Bytes :=
  let e := entryOf s x
  leBytes 1 (entryCode e.st) ++ [0, 0, 0] ++ leBytes 4 e.left ++
  leBytes 4 (tcount s.slu.inst fun _ i => i.entry == x && i.fwTag.isNone) ++ leBytes 4 0 ++
  leBytes 4 e.cMalformed ++ leBytes 4 e.cGen ++ leBytes 4 e.cDup ++ leBytes 4 e.cTimeout ++ leBytes 4 e.cStale ++ leBytes 28 0 ++
  padTo 1024 (if e.st = .free then [] else e.bytes)

/-- Answer a command about the sequence that its request names, or ST_NO_PAGE (R443, 03 R53). -/
def onSeq (b : Bytes) (f : Nat → State → Nat × Bytes × State) (s : State) : State :=
  match lookSeq (bits (rd b 0 2) 11 0) (rd b 8 8) s with
  | (none, s) => answerFw stNoPage [] s
  | (some slot, s) => match f slot s with
    | (st, r, s) => answerFw st r s

/-- SEQ_READ (R441, Table 20.3). -/
def execSeqRead (s : State) : Host.Outcome State Fault Refusal :=
  .next (fwRun 0x30 (fun c s => onSeq c.req (fun k s => (stOk, seqRecord (seqOf s k) ++ appRecord (seqOf s k).app, s)) s) s)

/-- The placement entry of a layer and kind; a tensor that is not registered reads as STATE 0 (R443). -/
def placeView (s : State) (slot layer kind : Nat) : Bytes :=
  if kind < 4 then placeEntry (tenOf (seqOf s slot) (4 * layer + kind)) else placeEntry {}

/-- PLACE_READ (05 R115). -/
def execPlaceRead (s : State) : Host.Outcome State Fault Refusal :=
  .next (fwRun 0x31 (fun c s => onSeq c.req (fun k s => (stOk, placeView s k (rd c.req 16 1) (rd c.req 17 1), s)) s) s)

/-- SAT_READ (06 R140). -/
def execSatRead (s : State) : Host.Outcome State Fault Refusal :=
  .next (fwRun 0x32 (fun c s => onSeq c.req (fun k s =>
    (stOk, (List.range 256).flatMap fun l => leBytes 4 (tget 0 (seqOf s k).sat l), s)) s) s)

/-- Clear the clip counter of a layer, or of all, and let CALIBRATION_DRIFT occur again (06 R140, R141). -/
def satClear (slot layer : Nat) (all : Bool) (s : State) : State :=
  let q := seqOf s slot
  setSeq slot (if all then { q with sat := [], drift := [] } else { q with sat := tdel q.sat layer, drift := q.drift.filter (· != layer) }) s

/-- SAT_CLEAR (06 R140). -/
def execSatClear (s : State) : Host.Outcome State Fault Refusal :=
  .next (fwRun 0x33 (fun c s => onSeq c.req (fun k s => (stOk, [], satClear k (rd c.req 16 1) (bitAt (rd c.req 17 1) 0) s)) s) s)

/-- WINDOW_READ (11 R251). -/
def execWindowRead (s : State) : Host.Outcome State Fault Refusal :=
  .next (fwRun 0x34 (fun c s => answerFw stOk (winEntry s (bits (rd c.req 0 2) 13 0)) s) s)

/-- SLUICE_READ (Table 20.3). -/
def execSluiceRead (s : State) : Host.Outcome State Fault Refusal :=
  .next (fwRun 0x35 (fun c s => answerFw stOk (sluiceView s (bits (rd c.req 0 2) 14 0)) s) s)

/-- The MAP_RESP payload of DATUM_READ (15 R340). -/
def datumPage (s : State) (c expect cursor : Nat) : Bytes :=
  let x := compOf s c
  if behind x then respBody stRetry false x.window (epochOf x) 0 0
  else match x.map with
    | none => respBody stNoPage false false 0 0 0
    | some m => mapPage x m expect cursor

/-- DATUM_READ (15 R340): the command's STATUS is the one in the payload. -/
def execDatumRead (s : State) : Host.Outcome State Fault Refusal :=
  .next (fwRun 0x21 (fun c s =>
    let r := datumPage s (rd c.req 0 4) (rd c.req 4 4) (rd c.req 8 4)
    answerFw (rd r 0 1) r s) s)

/-! ## ACTION and FW_SLUICE -/

/-- The entry bytes that hold the one action slot of ACTION. -/
def actionBytes (slot : Bytes) : Bytes := padTo 1024 ([1, 1] ++ List.replicate 62 0 ++ slot)

/-- The privileges of an ACTION (R445): the tenant's together with FIRMWARE. -/
def actionPriv (s : State) (tenant : Nat) : Nat := tenantPriv s tenant ||| 0x80

/-- The refusal of an ACTION before it is accepted. -/
def actionRefusal (s : State) (tenant : Nat) (b : Bytes) : Option Nat :=
  let op := aOp b 0
  if op < 6 ∨ 0x11 < op ∨ slotBad b 0 = true then some stMalformed
  else if tenantLive s tenant = false then some stTenantRevoked
  else if opPriv op &&& actionPriv s tenant ≠ opPriv op then some stAccess
  else none

/-- The instance of an ACTION (R445): best-effort, in the lowest partition of the tenant's mask, on the die of entry 0x7FFF. -/
def actionInst (s : State) (tenant tag : Nat) (b : Bytes) : Inst :=
  { entry := 0x7FFF, die := 3, tenant := tenant, part := (findFrom 0 64 fun p => bitAt (maskOfTenant s tenant) p).getD 0, lc := false
    priv := actionPriv s tenant, arg := 0, msg := none, at_ := now s, bytes := b, acts := [.started], fwTag := some tag }

/-- The slot of an ACTION as it runs: a DIR_SEARCH's DEST fields (12 Table 12.6) are ignored, as if they were 0. -/
def actionSlot (slot : Bytes) : Bytes :=
  if rd slot 0 1 = 0x0A then
    put (put (put slot 32 (List.replicate 3 0)) 36 (List.replicate 4 0)) 40 (List.replicate 6 0)
  else slot

/-- ACTION (R445): accepted as deferred; its end is one record of the command ring. -/
def execAction (s : State) : Host.Outcome State Fault Refusal :=
  .next (fwRun 0x40 (fun c s =>
    let tenant := bits (rd c.req 0 2) 11 0
    let b := actionBytes (actionSlot (slice c.req 8 120))
    match actionRefusal s tenant b with
    | some st => answerFw st [] s
    | none =>
      match acceptDeferred c s.slu.nextInst s with
      | none => answerFw stRetry [] s
      | some s => (newInst (actionInst s tenant c.tag b) s).2) s)

/-- The record of a command of FW_SLUICE (Table 12.7), and its number taken. It takes no number of a FREE entry (12 R287), nor of a tenant's. -/
def fwSluRecord (x : Nat) (a : SluAns) (s : State) : Bytes × State :=
  let e := entryOf s x
  let mine := decide (31744 ≤ x) && e.st != .free
  let n := if mine then nextSeq e.seqno else 0
  (recBytes a.status 0 0 true a.rep false x 0 n 0 0 (now s), if mine then setEntryRec x { e with seqno := n } s else s)

/-- The command of FW_SLUICE on an entry of firmware's range (12 R278, R282, Table 12.8). -/
def fwSluDo (x code n : Nat) (b : Bytes) (s : State) : SluAns × State :=
  if x < 31744 ∨ code = 0 ∨ 3 < code ∨ (code ≠ 3 ∧ n ≠ 0) ∨ (code = 3 ∧ (n = 0 ∨ 16383 < n)) then ({ status := stMalformed }, s)
  else if code = 1 then postDo x 0 b none s
  else if code = 2 then cancelDo x s
  else rearmDo x 0 n none s

/-- FW_SLUICE (12 R278): the record is the response. -/
def execFwSluice (s : State) : Host.Outcome State Fault Refusal :=
  .next (fwRun 0x41 (fun c s =>
    let x := bits (rd c.req 0 2) 14 0
    let code := bits (rd c.req 2 1) 2 0
    let free := (entryOf s x).st == .free
    match fwSluDo x code (rd c.req 4 2) (slice c.req 64 1024) s with
    | (a, s) =>
      let r := fwSluRecord x a s
      answerFw a.status r.1 (onPost x (code == 1 && free && a.status == stOk) r.2)) s)

/-! ## Datum and the node -/

/-- The firmware command DATUM_SUBMIT (Table 20.3): a deferred command that ends with the change. -/
def submitWindow (s : State) : State :=
  fwRun 0x20 (fun c s =>
    match (submitGate (compOf s (gComp c.req)) c.req true).1 with
    | some st => answerFw st [] (refuseDatum (gComp c.req) 0x20 none s)
    | none =>
      match acceptDeferred c (gComp c.req) s with
      | none => answerFw stRetry [] s
      | some s => addProposal (gComp c.req) (gChange c.req) (.window c.tag) s) s

/-- DATUM_SUBMIT (15 R339). -/
def execDatumSubmit (src : SubmitSource) (s : State) : Host.Outcome State Fault Refusal :=
  .next (match src with
    | .window => submitWindow s
    | .message f => match takeControl f [0x28] s with
      | (none, s) => s
      | (some a, s) => submitMsg f a s)

/-- BLOCKED clears, to be found again at the next marker (16 R366). -/
def unblock (s : State) : State := { s with node := { s.node with blocked := [] } }

/-- The drain begins (16 R366; 20 R438). -/
def drainNode (s : State) : State :=
  match s.node.st with
  | .serving => drainCheck { s with node := { s.node with st := .draining } }
  | .joining => { s with node := { s.node with st := .drained } }
  | .draining => drainCheck (unblock s)
  | _ => s

/-- NODE_DRAIN (16 R366). -/
def execNodeDrain (s : State) : Host.Outcome State Fault Refusal :=
  .next (fwRun 0x22 (fun _ s => answerFw stOk [] (drainNode s)) s)

/-- CHIP_RESET (R441): a main reset falls due 100 µs later, and BUSY stays 1. -/
def execChipReset (s : State) : Host.Outcome State Fault Refusal :=
  .next (fwRun 3 (fun _ s =>
    match s.pwr.resetDue with
    | some _ => s
    | none => { s with pwr := { s.pwr with resetDue := some (now s + 100000, .soft) } }) s)

end Sys2Proof.Machine
end

