-- ==== Sys2Proof/Machine/Ports.lean ====
section
/-! DEFINITION. The network ports (11 R240, R245, R271, R272; 14 R319-R323): frames that are no Jexus packet, PTP, link changes, egress scheduling
and queue sampling. -/

namespace Sys2Proof.Machine

/-- NON_JEXUS_FRAME (11 R240): ARP, neighbour discovery and PTP are handled by the network die; the others are dropped and counted. -/
def execNonJexusFrame (port : Fin 8) (kind : FrameKind) (s : State) : Host.Outcome State Fault Refusal :=
  .next (
    if !portServes s port.val then s
    else match kind with
      | .fragmentOrOptions => count (portCntOff port.val 0x20) s
      | .other => count (portCntOff port.val 0x20) s
      | .badChecksum => count (portCntOff port.val 0x24) s
      | .arp => s
      | .neighbourDiscovery => s
      | .ptp => s)

/-! ## PTP (11 R271, R272) -/

/-- The clock of a network die. -/
def ptpOf (s : State) (d : Nat) : Ptp := tget {} s.jx.ptp d

/-- Write it. -/
def setPtp (d : Nat) (p : Ptp) (s : State) : State := { s with jx := { s.jx with ptp := tset {} s.jx.ptp d p } }

/-- The die runs: awake, not lost. -/
def netDieUp (s : State) (d : Nat) : Bool := awake s && !s.ctl.netLost.getLsbD d && s.cfg.phase != 8 && s.cfg.phase != 9

/-- The servo corrects fabric time by the offset from the master: after a reset it steps it once, when it is more than 1 µs off, and then
slews (18 R409), a little at each tick. -/
def stepTime (offset : Int) (s : State) : State :=
  if s.jx.stepped || s.jx.locked || decide (offset.natAbs ≤ 1000) then { s with bmk := { s.bmk with slew := -offset } }
  else
    { s with
      bmk := { s.bmk with time := (((s.bmk.time : Nat) : Int) - offset).toNat % 2 ^ 64, slew := 0 }
      jx := { s.jx with stepped := true } }

/-- PTP_DOMAIN, the domain number of the clock (R271). -/
def ptpDomain (s : State) : Nat := (s.cfg.img.map (·.ptpDomain)).getD 0

/-- The state of a die's clock at an offset (R271): LOCKED below 1 µs, UNLOCKED above 5 µs; between the two the clock is neither, and runs
on as in HOLDOVER (DESIGN CHOICE, log 71). -/
def ptpAt (offset : Int) : PtpSt :=
  if offset.natAbs < 1000 then .locked else if 5000 < offset.natAbs then .unlocked else .holdover

/-- The state after a message: PTP_LOCKED alone ends UNLOCKED, and HOLDOVER needs a Sync. -/
def ptpNext (p : Ptp) (sync : Bool) (offset : Int) : PtpSt :=
  match p.st with
  | .unlocked => .unlocked
  | .holdover => if sync then ptpAt offset else .holdover
  | .locked => ptpAt offset

/-- PTP_MESSAGE (11 R271): in the configured domain, the servo takes the offset from the master that a message of the exchange gives and fabric time
follows it; a Sync ends a holdover. A clock that becomes UNLOCKED sets PTP_UNLOCKED. -/
def execPtpMessage (die : Fin 4) (msg : PtpMsg) (offset : Int) (s : State) : Host.Outcome State Fault Refusal :=
  .next (
    if !netDieUp s die.val || msg.domain.toNat != ptpDomain s then s
    else
      let p := ptpOf s die.val
      let st := ptpNext p msg.sync offset
      let s := if st = .unlocked ∧ p.st ≠ .unlocked then raise (leafPtpUnlocked die.val) [] s else s
      let s := stepTime offset s
      setPtp die.val { p with offset := offset, lastSync := if msg.sync then now s else p.lastSync, st := st } s)

/-- PTP_LOCKED (11 R271, R272; 18 Table 18.6): the servo's offset is below 1 µs. When fabric time first locks, the node may send, boot ends and PHASE
becomes READY with the node JOINING. -/
def execPtpLocked (die : Fin 4) (s : State) : Host.Outcome State Fault Refusal :=
  .next (
    let p := ptpOf s die.val
    if !netDieUp s die.val || decide (1000 ≤ p.offset.natAbs) then s
    else
      let s := setPtp die.val { p with st := .locked, lastSync := now s } s
      let s := if s.jx.locked then s else { s with jx := { s.jx with locked := true } }
      if s.cfg.phase = 5 then
        { s with cfg := { s.cfg with phase := 6 }, node := { s.node with st := .joining } }
      else s)

/-- PTP_HOLDOVER (11 R271): 1 s without Sync. -/
def execPtpHoldover (die : Fin 4) (s : State) : Host.Outcome State Fault Refusal :=
  .next (
    let p := ptpOf s die.val
    if netDieUp s die.val = true ∧ p.st = .locked ∧ p.lastSync + 1000000000 ≤ now s then
      count (netCntOff die.val 21) (setPtp die.val { p with st := .holdover } s)
    else s)

/-- PTP_UNLOCK (11 R271): the estimated error exceeds 5 µs. -/
def execPtpUnlock (die : Fin 4) (errorNs : Nat) (s : State) : Host.Outcome State Fault Refusal :=
  .next (
    let p := ptpOf s die.val
    if netDieUp s die.val = true ∧ p.st ≠ .unlocked ∧ 5000 < errorNs then
      raise (leafPtpUnlocked die.val) [] (setPtp die.val { p with st := .unlocked } s)
    else s)

/-- The link of port `p` goes up or down (02 Table 2.5, 11 R245; 20 NET_PORT_STATUS); a link-down event is counted and reported. -/
def ethLink (p : Nat) (up : Bool) (s : State) : State :=
  if s.jx.portUp.getLsbD p = up then s
  else
    let s := { s with jx := { s.jx with portUp := s.jx.portUp ^^^ (1#8 <<< p) } }
    if up then s
    else
      let l := if p % 2 = 0 then leafLinkDownA (p / 2) else leafLinkDownB (p / 2)
      countN 16 (portStatusOff p) 1 (raise l [(17, 1, p)] s)

/-- ETH_LINK_CHANGE (11 R245): a link needs its die and its reference clock (21 R460). -/
def execEthLinkChange (port : Fin 8) (up : Bool) (s : State) : Host.Outcome State Fault Refusal :=
  .next (if !awake s || s.ctl.netLost.getLsbD (port.val / 2) || (up && !s.pwr.netClk.getLsbD (port.val / 2)) then s
    else ethLink port.val up s)

/-! ## Egress (14 R319-R321) -/

/-- Class of an egress queue: latency-critical. -/
def eqLc (q : Nat) : Bool := q % 2 == 1

/-- Write an egress queue. -/
def setEq (q : Nat) (e : EgressQ) (s : State) : State := { s with jx := { s.jx with eq := tset {} s.jx.eq q e } }

/-- Write a port's round. -/
def setRound (port : Nat) (r : PortRound) (s : State) : State := { s with jx := { s.jx with round := tset {} s.jx.round port r } }

/-- The active queues of a class on a port, by partition. -/
def activeEq (s : State) (port : Nat) (lc : Bool) : List Nat :=
  (List.range 64).filter fun p => !(eqOf s (eqNo port p lc)).pkts.isEmpty

/-- A packet leaves a port (20 NET_PORT_CNT). -/
def portSends (port : Nat) (p : Pkt) (s : State) : State :=
  countN 64 (portCntOff port 0x18) (pktSize p)
    (countN 64 (portCntOff port 0x10) 1 { s with jx := { s.jx with tx := tput s.jx.tx port p } })

/-- QUANTUM and BURST of a queue in bytes. -/
def eqQuantum (e : EgressQ) : Nat := (e.quantumM1 + 1) * 256
def eqBurst (e : EgressQ) : Nat := e.burst * 1024

/-- The end of a round of a class (R321): every idle queue of the class gains its quantum, up to BURST. -/
def endRound (port : Nat) (lc : Bool) (s : State) : State :=
  let r := tget {} s.jx.round port
  let s := setRound port (if lc then { r with lastLc := 64 } else { r with lastBe := 64 }) s
  (List.range 64).foldl (fun s p =>
    let q := eqNo port p lc
    let e := eqOf s q
    if e.pkts.isEmpty then setEq q { e with credit := min (e.credit + eqQuantum e) (eqBurst e) } s else s) s

/-- The visit of a queue ends; with no active queue of a higher partition its class's round ends too. -/
def endVisit (port q : Nat) (s : State) : State :=
  let lc := eqLc q
  let p := q % 128 / 2
  let r := tget {} s.jx.round port
  let r := { r with visit := none }
  let s := setRound port (if lc then { r with lastLc := p } else { r with lastBe := p }) s
  if (activeEq s port lc).any fun x => decide (p < x) then s else endRound port lc s

/-- Send the head of the queue in visit while its credit allows (R320), and go on with the visit or end it. False: the credit does not allow it. -/
def visitSend (port q : Nat) (s : State) : Bool × State :=
  let e := eqOf s q
  match e.pkts with
  | [] => (false, endVisit port q s)
  | h :: rest =>
    if pktSize h.pkt ≤ e.credit then
      let e := { e with credit := e.credit - pktSize h.pkt, pkts := rest }
      let s := portSends port h.pkt (setEq q e s)
      let stop := match rest with
        | [] => true
        | n :: _ => decide (e.credit < pktSize n.pkt)
      let stop := stop || (!eqLc q && !(activeEq s port true).isEmpty)
      (true, if stop then endVisit port q s else s)
    else (false, endVisit port q s)

/-- Visit queues until one sends a packet. -/
def serveQueues (port : Nat) : Nat → State → State
  | 0, s => s
  | n + 1, s =>
    let lcActive := activeEq s port true
    let beActive := activeEq s port false
    let lc := !lcActive.isEmpty
    let active := if lc then lcActive else beActive
    match active with
    | [] => s
    | first :: _ =>
      let r := tget {} s.jx.round port
      let last := if lc then r.lastLc else r.lastBe
      let p := if last = 64 then first else (active.find? fun x => decide (last < x)).getD first
      let q := eqNo port p lc
      let e := eqOf s q
      let s := setEq q { e with credit := min (e.credit + eqQuantum e) (eqBurst e) } s
      let s := setRound port { tget {} s.jx.round port with visit := some q } s
      match visitSend port q s with
      | (true, s) => s
      | (false, s) => serveQueues port n s

/-- EGRESS_TRANSMIT (14 R320): the port sends its next packet. In FATAL only the WITHDRAW of its control queue leaves (16 R348). -/
def execEgressTransmit (port : Fin 8) (s : State) : Host.Outcome State Fault Refusal :=
  .next (
    let p := port.val
    if portTells s p then
      match (tget [] s.jx.control p).find? fun h => h.pkt.hdr.opcode == 0x2D with
      | none => s
      | some h => portSends p h.pkt { s with jx := { s.jx with control := tset [] s.jx.control p ((tget [] s.jx.control p).erase h) } }
    else if !portServes s p then s
    else
      let control := fun (s : State) =>
        match tget [] s.jx.control p with
        | h :: rest => portSends p h.pkt { s with jx := { s.jx with control := tset [] s.jx.control p rest } }
        | [] => serveQueues p 4096 s
      match (tget {} s.jx.round p).visit with
      | none => control s
      | some q =>
        match visitSend p q s with
        | (true, s) => s
        | (false, s) => control s)

/-! ## Queue sampling (14 R323) -/

/-- One sample: DEPTH and HEAD_AGE. -/
def sampleBytes (depth age : Nat) : Bytes := leBytes 4 depth ++ leBytes 4 (min age (2 ^ 32 - 1))

/-- The sample of an egress queue. -/
def sampleEq (s : State) (q : Nat) : Bytes :=
  let e := eqOf s q
  sampleBytes (e.pkts.foldl (fun a p => a + pktSize p.pkt) 0) (match e.pkts with | [] => 0 | h :: _ => now s - h.since)

/-- The sample of a die's confirmed-request queue for one partition and class. -/
def sampleReq (s : State) (die p : Nat) (lc : Bool) : Bytes :=
  let l := s.req.filter fun e => e.2.die == die && e.2.partn == p && e.2.lc == lc && reqWaits e.2
  let head := l.foldl (fun (b : Option (Nat × Nat)) e => match b with
    | none => some (e.2.order, e.2.confirmedAt)
    | some x => if e.2.order < x.1 then some (e.2.order, e.2.confirmedAt) else b) none
  sampleBytes l.length (match head with | some x => now s - x.2 | none => 0)

/-- The sample of a die's sluice enable queue. -/
def sampleSluice (s : State) (die : Nat) : Bytes :=
  let l := tget [] s.slu.queue die
  sampleBytes l.length (match l with | [] => 0 | e :: _ => now s - e.at_)

/-- The pieces of a sample frame (Table 14.5) with their offsets. -/
def framePieces (s : State) (die seq : Nat) : List (Nat × Bytes) :=
  [(0x000, leBytes 8 (now s / 10000 * 10000)), (0x008, leBytes 4 seq)] ++
  (List.range 256).map (fun i => (0x040 + 8 * i, sampleEq s (256 * die + i))) ++
  (List.range 128).map (fun j => (0x840 + 8 * j, sampleReq s die (j / 2) (j % 2 == 1))) ++ [(0xC40, sampleSluice s die)]

/-- QUEUE_SAMPLE (14 R323): one frame for each multiple of 10,000 ns, taken within 100 ns of it, at SEQ mod 64. -/
def execQueueSample (die : Fin 4) (s : State) : Host.Outcome State Fault Refusal :=
  .next (
    let d := die.val
    let seq := tget 0 s.traffic.sampleSeq d
    let place := fun (q : Nat) => d * 64 + q % 64
    let last := leNat (memRead (tget [] s.traffic.samples (place seq)) 0 8)
    if awake s = false ∨ 100 < now s % 10000 ∨ s.ctl.netLost.getLsbD d = true ∨ (seq ≠ 0 ∧ now s / 10000 * 10000 = last) then s
    else
      let n := nextSeq seq
      let frame := (framePieces s d n).foldl (fun m p => memWrite m p.1 p.2) ([] : Tbl Byte)
      { s with traffic := { s.traffic with
          samples := tset [] s.traffic.samples (place n) frame, sampleSeq := tset 0 s.traffic.sampleSeq d n } })

end Sys2Proof.Machine
end

