-- ==== Sys2Proof/Machine/Faults.lean ====
section
/-! DEFINITION. Faults of rails, clocks and dies, and the control dies' takeover (02 R36, R38; 18 R402, R403; 21 R455, R456, R460, R463). -/

namespace Sys2Proof.Machine

/-- No lower record: CAUSED_BY holds all ones (19 R430). -/
def noCause : Nat := 2 ^ 32 - 1

/-! ## The control dies (18 R401-R403) -/

/-- The steward cores of control die `d` leave the barriers (19 Table 19.5). -/
def coresLost (d : Nat) (s : State) : State := [0, 1, 2, 3].foldl (fun s i => barrierFenced (16 + 4 * d + i) s) s

/-- Every command in the window and every deferred command is answered ST_INTERNAL (R402; 20 R442); a CHIP_RESET is withdrawn. -/
def failCommands (s : State) : State :=
  let s := match s.cfg.latched with
    | none => s
    | some c => publishFw c stInternal [] s
  let s := s.cfg.outstanding.foldl (fun s d => ringWrite stInternal d.opcode d.tag [] s) s
  let due := match s.pwr.resetDue with
    | some (t, .thermal) => some (t, DueCause.thermal)
    | _ => none
  let sleep := match s.pwr.sleep with
    | .quiescing _ _ => SleepState.none
    | x => x
  { s with cfg := { s.cfg with outstanding := [] }, pwr := { s.pwr with resetDue := due, sleep := sleep } }

/-- The standby takes over (R402), or with no standby both control dies are lost (02 R38). -/
def ctlTakeover (s : State) : State :=
  let d := s.cfg.ctlPrimary
  let had := s.cfg.standbyOk
  let s := coresLost d { s with ctl := { s.ctl with primaryFenced := true, missed := 0 } }
  if had then
    let s : State := { s with
      cfg := { s.cfg with ctlPrimary := 1 - d, standbyOk := false }
      sec := { s.sec with sigNext := s.sec.sigLimit, trees := [] }
      work := { s.work with shadowNext := 0 } }
    failCommands (raise leafCtlTakeover [] (catchTakeover d s))
  else fatalStop true 4 [] (catchTakeover d s)

/-- HEARTBEAT_MISS (R402): heartbeats are 10 µs apart; the fifth miss in succession makes the standby take over. -/
def execHeartbeatMiss (s : State) : Host.Outcome State Fault Refusal :=
  .next (
    if awake s = false ∨ s.cfg.standbyOk = false ∨ (s.ctl.missed ≠ 0 ∧ now s < s.ctl.missAt + 10000) then s
    else
      let n := if now s < s.ctl.missAt + 20000 then s.ctl.missed + 1 else 1
      let s := { s with ctl := { s.ctl with missed := n, missAt := now s } }
      if 5 ≤ n then ctlTakeover s else s)

/-- The standby fails or is fenced (R403). -/
def standbyLoss (s : State) : State :=
  let d := 1 - s.cfg.ctlPrimary
  let s : State := { s with cfg := { s.cfg with standbyOk := false }, ctl := { s.ctl with standbyLost := true, missed := 0 } }
  raise leafCtlStandbyLost [] (catchTakeover d (coresLost d s))

/-- CTL_STANDBY_LOST (R403). -/
def execCtlStandbyLost (s : State) : Host.Outcome State Fault Refusal :=
  .next (if awake s = true ∧ s.cfg.standbyOk = true then standbyLoss s else s)

/-! ## Dies (02 R36, R38) -/

/-- A network die is lost: its ports carry nothing more, and the node stops. -/
def netLoss (n : Nat) (s : State) : State :=
  let mask : BitVec 8 := 3#8 <<< (2 * n)
  let s : State := { s with
    ctl := { s.ctl with netLost := s.ctl.netLost ||| (1#4 <<< n) }
    jx := { s.jx with portUp := s.jx.portUp &&& ~~~mask } }
  fatalStop true 3 [] (barrierFenced (24 + n) s)

/-- A tier die is lost: its port is fenced, in service or not, and does not return; its PERST_N is left undriven (05 R126, R128). -/
def tierLoss (p : Nat) (s : State) : State :=
  let t := tierOf s p
  let s := if t.inService then fencePort p s
    else if t.fenced then s
    else raise (leafTierFenced p) [] (setTier p { t with fenced := true } s)
  barrierFenced (28 + p)
    (drivePerst p .hiZ (setTier p { tierOf s p with dieLost := true, retryAt := none, perstHighAt := none } s))

/-- DIE_LOSS (02 Table 2.5). -/
def execDieLoss (die : DieName) (s : State) : Host.Outcome State Fault Refusal :=
  .next (
    if awake s = false then s
    else match die with
      | .net n => if s.ctl.netLost.getLsbD n.val then s else netLoss n.val s
      | .tier n => if (tierOf s n.val).dieLost then s else tierLoss n.val s
      | .ctl n =>
        if n.val = s.cfg.ctlPrimary then ctlTakeover s
        else if s.cfg.standbyOk then standbyLoss s
        else s)

/-- SPINE_STATION_FAULT (02 R36): its record in the CHIP ring causes CHIP_FATAL (19 R431). -/
def execSpineStationFault (st : Fin 6) (parity : Bool) (s : State) : Host.Outcome State Fault Refusal :=
  .next (
    if awake s = false ∨ s.ctl.spineDead.getLsbD st.val = true then s
    else
      let s : State := { s with ctl := { s.ctl with spineDead := s.ctl.spineDead ||| (1#6 <<< st.val) } }
      let s := raise (if parity then leafSpineParityFault st.val else leafSpineLinkFault st.val) [] s
      chipFatal 2 (30 + s.cfg.ctlPrimary + 3 * 32) (logSeq s ringChip) s)

/-- PLL_LOCK_LOSS (02 Table 2.5). -/
def execPllLockLoss (r : Fin 16) (s : State) : Host.Outcome State Fault Refusal := .next (fenceRegion r.val noCause s)

/-! ## Rails (21 R455, R456, R461) -/

/-- The absolute maximum of a rail in mV (21 Table 21.5). -/
def railMax : Rail → Nat
  | .rgn _ => 1050 | .stack => 1000 | .spine => 1000 | .net => 1000 | .tier => 1000 | .ctl => 1000 | .aon => 2200 | .g7 => 1500
  | .serdes => 1150

/-- The operating range of a rail in mV (21 Table 21.5, in whole mV). -/
def railRange : Rail → Nat × Nat
  | .rgn _ => (600, 900) | .aon => (1710, 1890) | .g7 => (1164, 1236) | .serdes => (873, 927) | _ => (728, 773)

/-- A rail lies outside the range of its row. -/
def railOut (rail : Rail) (mv : Nat) : Bool := decide (mv < (railRange rail).1) || decide ((railRange rail).2 < mv)

/-- How far a region's supply lies from its tracking value (21 R456). -/
def railOff (s : State) (n mv : Nat) : Nat :=
  let v := trackMv (rgnOf s n) (now s)
  max mv v - min mv v

/-- A rail operates within Table 21.5 (21 R454): a region's rail also within 15 mV of its tracking value from 5 µs after each ramp ends. -/
def railOperates (s : State) (rail : Rail) (mv : Nat) : Bool :=
  !railOut rail mv && match rail with
    | .rgn n => decide (now s < (rgnOf s n.val).rampEnd + 5000) || decide (railOff s n.val mv ≤ 15)
    | _ => true

/-- A rail's value is a fault when it lasts more than 10 µs (21 R456, Table 21.6): for a region's rail also more than 50 mV from its tracking value;
VDD_AON has an action only below 1.62 V. -/
def railBad (s : State) (rail : Rail) (mv : Nat) : Bool :=
  match rail with
  | .rgn n => railOut rail mv || decide (50 < railOff s n.val mv)
  | .aon => decide (mv < 1620)
  | _ => railOut rail mv

/-- Power-on reset (18 R400): everything but the NVM and the fuses; the expanders keep their own memory. -/
def powerOn (s : State) : State :=
  { State.reset with
    mem := { nvm := s.mem.nvm, deep := s.mem.deep }
    fuse := s.fuse
    free := s.free
    resets := s.resets + 1
    pending := s.pending }

/-- A rail fault's action (21 Table 21.6). -/
def railFault (rail : Rail) (s : State) : State :=
  match rail with
  | .rgn n => supplyFault n.val s
  | .stack => (List.range 16).foldl (fun s r => fenceRegion r noCause s) s
  | .g7 => (List.range 16).foldl (fun s r => fenceRegion r noCause s) s
  | .spine => fatalStop true 2 [] { s with ctl := { s.ctl with spineDead := 0x3F } }
  | .net => [3, 2, 1, 0].foldl (fun s n => netLoss n s) s
  | .serdes => [3, 2, 1, 0].foldl (fun s n => netLoss n s) s
  | .ctl => fatalStop true 4 [] (catchTakeover 1 (catchTakeover 0 (coresLost 1 (coresLost 0
      { s with cfg := { s.cfg with standbyOk := false }, ctl := { s.ctl with primaryFenced := true, standbyLost := true } }))))
  | .tier => [0, 1, 2, 3].foldl (fun s p => fencePort p s) s
  | .aon => powerOn s

/-- RAIL_FAULT (21 R456): beyond the absolute maximum no behaviour is promised (R461). While the ROM is held at step 1, a rail outside its range only
keeps it there (R458; log 79); VDD_AON acts always. -/
def execRailFault (rail : Rail) (mv : Nat) (s : State) : Host.Outcome State Fault Refusal :=
  if railMax rail < mv then .fault (.beyondAbsoluteMaximum rail)
  else .next (if railBad s rail mv && (awake s && !s.pwr.romHold || rail == .aon) then railFault rail s else s)

/-- The bus AVS_k that carries a region's rail, and the rail's address on it (21 R455). -/
def avsAddr (r : Nat) : Nat × Nat := (r / 4, r % 4)

/-- The region whose rail stands at an address of a bus. -/
def avsRegion (a : Nat × Nat) : Nat := 4 * a.1 + a.2

/-- AVS_TRANSACTION (21 R455): a new set voltage for the rail at its address on its bus, or after a fourth failure a fenced region. A point that waits
for its supply (02 R43) goes on waiting when the new voltage is enough for it. -/
def execAvsTransaction (r : Fin 16) (code : BitVec 10) (failures : Nat) (s : State) : Host.Outcome State Fault Refusal :=
  .next (
    let n := avsRegion (avsAddr r.val)
    let g := rgnOf s n
    let mv := code.toNat * 5
    if awake s = false ∨ g.fenced = true then s
    else if 4 ≤ failures then supplyFault n s
    else if code.toNat < 120 ∨ 180 < code.toNat then s
    else setRgn n (rampTo (now s) mv ((g.ramp.bind (·.thenPoint)).filter fun k => decide (pointMv s k ≤ mv)) g) s)

/-! ## Reference clocks (21 R460) -/

/-- The claim and the configuration space of the service function end (20 R435). -/
def claimEnds (s : State) : State :=
  { s with svc := { s.svc with owned := false, ownerRid := 0, mse := false, bme := false, d3hot := false, bar := 0 } }

/-- The node serves, as R460 and R464 ask: neither held in the ROM (R458), asleep, BOOT_FAILED nor FATAL. -/
def nodeServes (s : State) : Bool := awake s && !s.pwr.romHold && decide (s.cfg.phase < 7)

/-- A reference clock stands still. -/
def clockOff (clk : RefClk) (p : Pwr) : Pwr :=
  match clk with
  | .sys => { p with sysClk := false }
  | .net n => { p with netClk := p.netClk &&& ~~~(1#4 <<< n.val) }
  | .tier n => { p with tierClk := p.tierClk &&& ~~~(1#4 <<< n.val) }
  | .svc => { p with svcClk := false }

/-- REFCLK_STOP (21 Table 21.8): the effects are those of a stop while the node serves (R460); else the clock is only absent, which holds a ROM at
step 1 (R458). The service port's link goes down with its clock in every phase (20 R435). -/
def execRefclkStop (clk : RefClk) (s : State) : Host.Outcome State Fault Refusal :=
  .next (
    let s' := { s with pwr := clockOff clk s.pwr }
    if awake s = false then s
    else if nodeServes s = false ∧ clk ≠ .svc then s'
    else match clk with
      | .sys => if s.pwr.sysClk then fatalStop false 1 [] s' else s
      | .net n => ethLink (2 * n.val + 1) false (ethLink (2 * n.val) false s')
      | .tier n => fencePort n.val s'
      | .svc => claimEnds { s' with svc := { s'.svc with linkUp := false } })

/-- XTAL_STOP (21 Table 21.8). -/
def execXtalStop (s : State) : Host.Outcome State Fault Refusal :=
  .next (if s.bmk.counting then { s with bmk := { s.bmk with xtalInternal := true } } else s)

/-! ## Thermal trip (21 R463) -/

/-- THERMAL_TRIP (R463): a die's sensor reads (R462); at 115.0 °C (units of 0.25 °C) CHIP_FATAL with REASON 5, and a main reset within 50 µs. -/
def execThermalTrip (sensor temp : Nat) (s : State) : Host.Outcome State Fault Refusal :=
  .next (
    if awake s = false then s
    else if temp < 460 then noteSensor sensor temp s
    else
      let s := fatalStop true 5 [] (noteSensor sensor temp s)
      { s with pwr := { s.pwr with resetDue := some (now s + 50000, .thermal) } })

end Sys2Proof.Machine
end

