-- ==== Sys2Proof/Machine/Boot.lean ====
section
/-! DEFINITION. The image check and the boot (18 R390-R399, R411; 17 R380; 02 R42; 04 R81, R87; 16 R364). -/

namespace Sys2Proof.Machine

/-! ## Sections (Tables 18.2, 18.3) -/

/-- NVM offset of a slot. -/
def slotBase (slot : Nat) : Nat := slot * 0x2000000

/-- The 64-byte header of a slot. -/
def imgHeader (s : State) (slot : Nat) : Bytes := nvmRead s (slotBase slot) 64

/-- Offset in the slot and length of section `k` (0 firmware, 1 configuration). -/
def secOff (h : Bytes) (k : Nat) : Nat := rd h (12 + 8 * k) 4
def secLen (h : Bytes) (k : Nat) : Nat := rd h (16 + 8 * k) 4

/-- The first 128 bytes of a section. -/
def secHead (s : State) (slot : Nat) (h : Bytes) (k : Nat) : Bytes := nvmRead s (slotBase slot + secOff h k) 128

/-- A section's header agrees with the image header (Table 18.3); its reserved bytes are zero (R7). -/
def secHeadOk (s : State) (slot : Nat) (h : Bytes) (k : Nat) : Bool :=
  let x := secHead s slot h k
  rd x 0 4 == k + 1 && secLen h k == 128 + rd x 8 4 + rd x 12 4 && zeroAt x 76 52

/-- Check 1 of Table 18.5. -/
def headerOk (s : State) (slot : Nat) : Bool :=
  let h := imgHeader s slot
  rd h 0 4 == 0x58535943 && rd h 4 1 == 1 && zeroAt h 5 3 && zeroAt h 32 32 && rd h 28 4 == crc32 (slice h 0 28) &&
  decide (rd h 8 4 ≤ 33554432) && secOff h 0 % 4096 == 0 && secOff h 1 % 4096 == 0 && secOff h 0 != 0 && secOff h 1 != 0 &&
  decide (secOff h 0 + secLen h 0 ≤ rd h 8 4) && decide (secOff h 1 + secLen h 1 ≤ rd h 8 4) &&
  (decide (secOff h 0 + secLen h 0 ≤ secOff h 1) || decide (secOff h 1 + secLen h 1 ≤ secOff h 0)) &&
  secHeadOk s slot h 0 && secHeadOk s slot h 1

/-- The signed bytes of a section: bytes 0 to 127 + BODY_LEN (R392). -/
def secSigned (s : State) (slot k : Nat) : Bytes :=
  let h := imgHeader s slot
  nvmRead s (slotBase slot + secOff h k) (128 + rd (secHead s slot h k) 8 4)

/-- The signature of a section. -/
def secSig (s : State) (slot k : Nat) : Bytes :=
  let h := imgHeader s slot
  let x := secHead s slot h k
  nvmRead s (slotBase slot + secOff h k + 128 + rd x 8 4) (rd x 12 4)

/-- The public key carried in a section. -/
def secKey (s : State) (slot k : Nat) : Bytes := slice (secHead s slot (imgHeader s slot) k) 16 60

/-- The security version of a section. -/
def secSvn (s : State) (slot k : Nat) : Nat := rd (secHead s slot (imgHeader s slot) k) 4 4

/-- The digest of a section (R380, R392). -/
def secDigest (s : State) (slot k : Nat) : BitVec 256 := Config.sha256 (secSigned s slot k)

/-- The key of a section is trusted: the ROM's Molenad key, or an owner key that is not revoked (17 Table 17.6). -/
def keyTrusted (s : State) (slot k : Nat) : Bool :=
  let d := Config.sha256 (secKey s slot k)
  if k = 0 then d == Config.romKeyDigest
  else [0, 1, 2, 3].any fun i => tlook s.fuse.ownerKey i == some d.toNat && !s.fuse.ownerRevoked.getLsbD i

/-- The height of an LMS tree by its type code: LMS_SHA256_M32_H5 to H25. The codes and layouts of keys and signatures are RFC 8554's. PRESUMED, log 85. -/
def lmsHeight (code : Nat) : Option Nat := if 5 ≤ code ∧ code ≤ 9 then some (5 * (code - 4)) else none

/-- The chains of an LM-OTS signature by its type code: LMOTS_SHA256_N32_W1 to W8. -/
def otsChains (code : Nat) : Option Nat := [none, some 265, some 133, some 67, some 34][code]?.getD none

/-- The length of the LMS signature at the start of `b`, when its types are listed (RFC 8554: q, LM-OTS type, C, the chains, LMS type, path). -/
def lmsSigLen (b : Bytes) : Option Nat :=
  (otsChains (beNat (slice b 4 4))).bind fun p =>
    let n := 40 + 32 * p
    (lmsHeight (beNat (slice b n 4))).map fun h => n + 4 + 32 * h

/-- An LMS public key's types are listed. -/
def lmsKeyOk (b : Bytes) : Bool := (lmsHeight (beNat (slice b 0 4))).isSome && (otsChains (beNat (slice b 4 4))).isSome

/-- Every level of a signature has listed types: `n` signed public keys, each after its LMS signature, then the message's signature. -/
def hssLevelsOk : Nat → Bytes → Bool
  | 0, b => (lmsSigLen b).isSome
  | n + 1, b => match lmsSigLen b with
    | none => false
    | some k => lmsKeyOk (b.drop k) && hssLevelsOk n (b.drop (k + 56))

/-- The types that the part verifies (17 R380): L from 1 to 4, and the listed LMS and LM-OTS types at every level. -/
def hssTypesOk (pub sig : Bytes) : Bool :=
  let l := beNat (slice pub 0 4)
  decide (1 ≤ l) && decide (l ≤ 4) && lmsKeyOk (pub.drop 4) && beNat (slice sig 0 4) + 1 == l && hssLevelsOk (l - 1) (sig.drop 4)

/-- A section's signature verifies (17 R380, Table 17.6). -/
def secVerifies (s : State) (slot k : Nat) : Bool :=
  keyTrusted s slot k && hssTypesOk (secKey s slot k) (secSig s slot k) &&
  Config.hssVerify (secKey s slot k) (secSigned s slot k) (secSig s slot k)

/-! ## Configuration records (R393, Table 18.4) -/

/-- The records of a configuration body: ID and value. `n` bounds their number. -/
def parseRecs : Nat → Bytes → Option (List (Nat × Bytes))
  | 0, b => if b.isEmpty then some [] else none
  | n + 1, b =>
    if b.isEmpty then some []
    else
      let len := rd b 2 2
      let room := 4 + alignUp 8 len
      if b.length < room ∨ zeroAt b (4 + len) (room - 4 - len) = false then none
      else (parseRecs n (b.drop room)).map fun rest => (rd b 0 2, slice b 4 len) :: rest

/-- LEN is the record's size; an ADMIT holds a KEY_BLOB exactly when its PROTECTED bit is set (17 Table 17.2). -/
def recLenOk (id : Nat) (v : Bytes) : Bool :=
  let n := v.length
  match id with
  | 1 => n == 8 | 2 => n == 128 | 3 => n == 7 | 4 => n == 6 | 5 => n == 512 | 6 => n == 86 | 7 => n == 4 | 8 => n == 8
  | 9 => n == 1024 | 10 => n == 4096 | 11 => n == (if bitAt (rd v 2 1) 0 then 1692 else 64) | 12 => n == 1692 | _ => false

/-- The fields of a weir in a WEIR record lie in their ranges (14 R309). -/
def weirRecOk (b : Bytes) : Bool :=
  (weirOfWords (rd b 0 4) (rd b 4 4) (rd b 8 4)).isSome && bits (rd b 0 4) 31 29 == 0 && bits (rd b 8 4) 31 20 == 0 && rd b 12 4 == 0

/-- The fields of a record lie in their ranges and its reserved bits are zero. What ADMIT and FABRIC_KEY hold is judged at R395. -/
def recFieldsOk (id : Nat) (v : Bytes) : Bool :=
  match id with
  | 1 => bits (rd v 0 2) 15 12 == 0 && rd v 5 1 == 0 && bits (rd v 6 2) 15 12 == 0
  | 3 => decide (1 ≤ rd v 2 1) && decide (rd v 2 1 ≤ 64) && bits (rd v 3 1) 7 1 == 0 && bits (rd v 4 1) 7 6 == 0 && bits (rd v 5 1) 7 6 == 0
  | 4 => [36, 40, 44].contains (rd v 0 1) && [16, 24, 32, 48, 64].contains (rd v 1 1) && decide (950 ≤ rd v 2 2) && decide (rd v 2 2 ≤ 3900) &&
    decide (10 ≤ rd v 4 2) && decide (rd v 4 2 ≤ 200) && decide (48 * rd v 4 2 ≤ rd v 2 2)
  | 6 => (List.range 16).all fun r => decide (rd v (70 + r) 1 ≤ 34)
  | 7 => decide (rd v 0 2 ≤ 1150)
  | 8 => decide (rd v 1 1 ≤ 63) && zeroAt v 2 2 && decide (rd v 4 4 ≤ 320000)
  | 9 => (List.range 64).all fun p => weirRecOk (slice v (16 * p) 16)
  | 10 => (List.range 1024).all fun q => (eqOfWord (rd v (4 * q) 4)).isSome && bits (rd v (4 * q) 4) 31 20 == 0
  | _ => true

/-- The value of the record `id`. -/
def recOf (l : List (Nat × Bytes)) (id : Nat) : Option Bytes := (l.find? fun r => r.1 == id).map (·.2)

/-- FABRIC_AUTH of the records (default 1). -/
def authOf (l : List (Nat × Bytes)) : Bool := match recOf l 3 with
  | some v => bitAt (rd v 3 1) 0
  | none => true

/-- Check 4 of Table 18.5 (R393). -/
def recsOk (l : List (Nat × Bytes)) : Bool :=
  (l.all fun r => recLenOk r.1 r.2 && recFieldsOk r.1 r.2) &&
  ((List.range 13).all fun id => id == 11 || decide ((l.countP fun r => r.1 == id) ≤ 1)) &&
  ([1, 2, 4, 5, 6].all fun id => (recOf l id).isSome) &&
  (!authOf l || (recOf l 12).isSome)

/-- Check 5 of Table 18.5: the voltage table (02 R42), in 5 mV units. -/
def dvfsOk (v : List Nat) : Bool :=
  (v.all fun x => decide (120 ≤ x) && decide (x ≤ 180)) &&
  (List.range 35).all fun i => (List.range 35).all fun j =>
    decide (j < i) || (decide (v.getD i 0 ≤ v.getD j 0) &&
      (decide (2 * freqOf i < freqOf j) || decide (v.getD j 0 ≤ v.getD i 0 + 30)))

/-- Fast-tier bytes of a region at a density in Gb (04 Table 4.2). -/
def regionCapacity (density : Nat) : Nat := 3 * density * 2 ^ 27

/-- Check 6 of Table 18.5: the four range fields of one region (04 Table 4.3). -/
def rangeOk (density : Nat) (f : List Nat) : Bool :=
  let coded := f.getD 0 0
  let striped := f.getD 1 0
  let localCoded := f.getD 2 0
  let top := f.getD 3 0
  decide (0x4000000 + coded / 32 ≤ coded) && coded % 0x180000 == 0 && striped % 0x180000 == 0 && decide (coded ≤ striped) &&
  decide (striped ≤ localCoded) && (localCoded - striped) % 0x300000 == 0 && decide (localCoded ≤ top) && (top - localCoded) % 0x300000 == 0 &&
  decide (top ≤ regionCapacity density)

/-- The configuration that a body's records give, with the defaults of Table 18.4. -/
def imgOf (l : List (Nat × Bytes)) : Img :=
  let v := fun id => (recOf l id).getD []
  let jx := (recOf l 3).getD [0x78, 0x6A, 64, 1, 46, 0, 0]
  let pw := (recOf l 7).getD (leBytes 2 1150 ++ leBytes 2 500)
  let ti := (recOf l 8).getD ([4, 63, 0, 0] ++ leBytes 4 250000)
  { nodeId := bits (rd (v 1) 0 2) 11 0, endpoint := rd (v 1) 2 3, tray := bits (rd (v 1) 6 2) 11 0
    ports := (List.range 8).map fun p => beNat (slice (v 2) (16 * p) 16)
    jxPort := rd jx 0 2, pathCount := rd jx 2 1, fabricAuth := bitAt (rd jx 3 1) 0, dscpLc := rd jx 4 1, dscpBe := rd jx 5 1, ptpDomain := rd jx 6 1
    g7Rate := rd (v 4) 0 1, density := rd (v 4) 1 1, trefi := rd (v 4) 2 2, trrefd := rd (v 4) 4 2
    ranges := (List.range 16).map fun r => (List.range 4).map fun k => rd (v 5) (32 * r + 8 * k) 8
    dvfsMv5 := words 2 35 (v 6), dvfsInit := (List.range 16).map fun r => rd (v 6) (70 + r) 1
    powerCap := rd pw 0 2, quietIdle := rd pw 2 2, fastLow := rd ti 0 1, loadPartition := rd ti 1 1, loadRate := rd ti 4 4
    weir := recOf l 9, egress := recOf l 10, admits := (l.filter fun r => r.1 == 11).map (·.2), fabricKey := recOf l 12 }

/-- The records of a slot's configuration section. -/
def slotRecs (s : State) (slot : Nat) : Option (List (Nat × Bytes)) :=
  let b := (secSigned s slot 1).drop 128
  parseRecs (b.length + 1) b

/-- A slot is checked (Table 18.5): the cause code of its first failure, or 8 and its records. -/
def slotCheck (s : State) (slot : Nat) : Nat × List (Nat × Bytes) :=
  if !headerOk s slot then (2, [])
  else if !(secVerifies s slot 0 && secVerifies s slot 1) then (3, [])
  else if secSvn s slot 0 < s.fuse.fwSvn ∨ secSvn s slot 1 < s.fuse.cfgSvn then (4, [])
  else match slotRecs s slot with
    | none => (5, [])
    | some l =>
      if !recsOk l then (5, [])
      else
        let i := imgOf l
        if !dvfsOk i.dvfsMv5 then (6, [])
        else if !(i.ranges.all fun f => rangeOk i.density f) then (7, [])
        else (8, l)

/-! ## Boot, step by step (Table 18.6) -/

/-- Go on with the boot unless a chip-level condition has stopped it (R399). -/
def onward (s : State) (f : State → State) : State := if s.ctl.fatal.isSome || s.cfg.phase == 8 then s else f s

/-- Step 1: every region is commanded to 0.720 V, with its clock at 0.65 GHz (02 R45; 21 R455); the ROM self-checks choose the primary (R401). What a
region has met while the ROM was held stays with it: a fence until the next reset (02 R38), the throttle (02 R44). -/
def bootStart (e : BootEnv) (s : State) : State :=
  let s := (List.range 16).foldl (fun s r => setRgn r (rampTo (now s) 720 none (rgnOf s r)) s) s
  let s := (List.range 16).foldl (fun s r => if 4 ≤ e.avsFails.getD r 0 then supplyFault r s else s) s
  onward s fun s =>
    if !e.rom0Ok && !e.rom1Ok then
      fatalStop true 4 [] { s with ctl := { s.ctl with primaryFenced := true, standbyLost := true } }
    else
      let s : State := { s with cfg := { s.cfg with ctlPrimary := if e.rom0Ok then 0 else 1 } }
      if e.rom0Ok && e.rom1Ok then s
      else raise leafCtlStandbyLost [] { s with ctl := { s.ctl with standbyLost := true } }

/-- BOOT_FAILED (R397; 20 R438). -/
def bootFailed (s : State) : State :=
  settle { s with cfg := { s.cfg with phase := 8 }, node := { st := .drained } }

/-- The slot is in use: its configuration, versions and digests come into force (R380; 20 CFG_SVN). -/
def useSlot (slot : Nat) (l : List (Nat × Bytes)) (s : State) : State :=
  { s with cfg := { s.cfg with
      slot := slot, img := some (imgOf l), runFwSvn := secSvn s slot 0, runCfgSvn := secSvn s slot 1
      fwDigest := secDigest s slot 0, cfgDigest := secDigest s slot 1 } }

/-- Write the cause code of a slot. -/
def slotCause (slot c : Nat) (s : State) : State :=
  if slot = 0 then { s with cfg := { s.cfg with causeA := c } } else { s with cfg := { s.cfg with causeB := c } }

/-- Steps 2 to 5: the NVM (R391), BOOT_NEXT, and the slots in their order (R396). -/
def bootSlots (e : BootEnv) (s : State) : State :=
  let s : State := { s with cfg := { s.cfg with quad := !e.nvm.octal } }
  if !e.nvm.sfdp || decide (e.nvm.sizeBytes < 0x4410000) || !e.nvm.erase64K then bootFailed (slotCause 0 1 (slotCause 1 1 s))
  else
    let a := if s.bmk.wakeCtrl.getLsbD 28 then 1 else 0
    let s : State := { s with bmk := { s.bmk with wakeCtrl := s.bmk.wakeCtrl &&& 0xEFFFFFFF#32 } }
    match slotCheck s a with
    | (8, l) => useSlot a l (slotCause a 8 s)
    | (c, _) =>
      let s := slotCause a c s
      match slotCheck s (1 - a) with
      | (8, l) => useSlot (1 - a) l (slotCause (1 - a) 8 s)
      | (c, _) => bootFailed (slotCause (1 - a) c s)

/-- Step 5: the certificate (17 R372). -/
def bootCert (s : State) : State :=
  if Config.certMatches (nvmRead s certArea 65536) then s
  else raise leafDeviceCertMismatch [] { s with sec := { s.sec with certMismatch := true } }

/-- Step 6: the image's first DVFS point of every region is applied (R43: supply and clock in their order), below the throttle (R44). -/
def bootPoints (s : State) : State :=
  (List.range 16).foldl (fun s r =>
    let g := { rgnOf s r with target := (s.cfg.img.bind fun i => i.dvfsInit[r]?).getD 0 }
    if g.fenced then s else movePoint r (allowed g) (setRgn r g s)) s

/-- Steps 5 and 6: the signature reservation (17 R382), the certificate, GLOBAL_EN (19 CATCH_CTRL), the DVFS points, the standby. -/
def bootConfigure (e : BootEnv) (s : State) : State :=
  let s := bootPoints (bootCert (sigBoot s))
  settle { s with
    catchment := { s.catchment with globalEn := true }
    cfg := { s.cfg with trainReached := true, standbyOk := e.rom0Ok && e.rom1Ok } }

/-- Step 7: the GDDR7 devices (04 R81; 00 R3). -/
def bootTrain (e : BootEnv) (s : State) : State :=
  let rate := (s.cfg.img.map (·.g7Rate)).getD 36
  let density := (s.cfg.img.map (·.density)).getD 16
  let s := if s.fuse.grade < rate then
      (List.range 16).foldl (fun s r => if (rgnOf s r).fenced then s else raise (leafG7RateClamped r) [] s) s
    else s
  (List.range 16).foldl (fun s r =>
    if (rgnOf s r).fenced ∨ ([0, 1, 2].all fun d => e.devices.getD (3 * r + d) none == some density) = true then s
    else
      let s := raise (leafG7DeviceMismatch r) [] s
      fenceRegion r (logSeq s (ringRegion r)) s) s

/-- Self-test fences a cell: the block's spare takes over, or with the spare in use the block is fenced (02 Table 2.5). -/
def bootCell (s : State) (c : Fin 128 × Fin 17) : State :=
  let r := c.1.val / 8
  let b := c.1.val % 8
  let x := blkOf s r b
  if (rgnOf s r).fenced ∨ x.fenced = true ∨ x.cells.getLsbD c.2.val = true then s
  else cellsFail r b [c.2.val] (fun _ => []) s

/-- Step 8: self-test (16 R364), and compute mode in every region in service (04 R96). -/
def bootSelftest (e : BootEnv) (s : State) : State :=
  let s := e.badCells.foldl bootCell s
  let s := e.badRegions.foldl (fun s r => fenceRegion r.val noCause s) s
  (List.range 16).foldl (fun s r =>
    if (rgnOf s r).fenced then s else setMode r true s) s

/-- Step 9 at a tier port (05 R128): PERST_N goes low, and with TIER_REFCLK stable high again for the link to train; the waits of 100 µs and 100 ms lie
within the boot's one step (log 74). Without TIER_REFCLK it stays low until the retry. -/
def bootTier (p : Nat) (t : Option TierTrain) (s : State) : State :=
  let s := drivePerst p .low s
  if s.pwr.tierClk.getLsbD p = false then setTier p { tierOf s p with retryAt := some (now s) } s
  else
    let s := drivePerst p .high s
    match t with
    | some t => tierTrained p t s
    | none => setTier p { tierOf s p with perstHighAt := some (now s), retryAt := some (now s + 1000000000) } s

/-- Step 9: the Ethernet ports and the tier ports come up (05 R110, R128). -/
def bootLinks (e : BootEnv) (s : State) : State :=
  let s := (List.range 8).foldl (fun s p => if e.ethUp.getD p false then ethLink p true s else s) s
  (List.range 4).foldl (fun s p => bootTier p (e.tiers.getD p none) s) s

/-- The WEIR and EGRESS records (R394). -/
def bootTraffic (i : Img) (s : State) : State :=
  let s := match i.weir with
    | none => s
    | some b => (List.range 64).foldl (fun s p =>
        match weirOfWords (rd b (16 * p) 4) (rd b (16 * p + 4) 4) (rd b (16 * p + 8) 4) with
        | some w => putWeir p w s
        | none => s) s
  let s := if overcommitted s then raise leafTrafficOvercommit [] s else s
  match i.egress with
  | none => s
  | some b => (List.range 1024).foldl (fun s q => commitEq q (rd b (4 * q) 4) s) s

/-- A record that its own rule refuses (R395): its index and status are logged. -/
def admitFailed (index status : Nat) (s : State) : State :=
  raise leafConfigAdmitFailed [(18, 1, status), (40, 2, index)] s

/-- FABRIC_KEY at boot (R395): R376 without its rule 3, the key current at once. -/
def fabricBoot (b : Bytes) (s : State) : Nat × State :=
  if keyInstallBad b || rd b 0 2 != 0 then (stMalformed, s)
  else match blobKey (slice b 0 64) (b.drop 64) s with
    | (none, s) => (stAccess, s)
    | (some key, s) => (stOk, { s with sec := { s.sec with fabric := { current := some ⟨key, rd b 8 8, hoursNs (rd b 16 2)⟩ } } })

/-- ADMIT records in image order, then FABRIC_KEY (R395). -/
def bootAdmits (i : Img) (s : State) : State :=
  let s := (i.admits.foldl (fun (n, s) b => match admitDo b s with
    | (st, _, s) => (n + 1, if st = stOk then s else admitFailed n st s)) (0, s)).2
  match i.fabricKey with
  | none => s
  | some b => match fabricBoot b s with
    | (st, s) => if st = stOk then s else admitFailed i.admits.length st s

/-! ## Wake (R408, R411) -/

/-- The seal verifies (R408, R411): every part stands in the fast tier as it was sealed. What the GDDR7 devices lost in self-refresh is the operand's. -/
def sealVerifies (e : BootEnv) (s : State) (v : Saved) : Bool :=
  e.sealOk && (savedParts v).all fun p => memRead s.mem.fast (savedAddr p) (sealedPart v p).length == sealedPart v p

/-- The saved state may be restored (R411). -/
def restorable (e : BootEnv) (s : State) (v : Saved) : Bool :=
  v.fwDigest == s.cfg.fwDigest && v.cfgDigest == s.cfg.cfgDigest && sealVerifies e s v && v.regions.all fun r => !(rgnOf s r).fenced

/-- The storage in use that a wake restores: windows return FREE, and no request is left that could read an old frame. -/
def savedStores (v : Stores) : Stores :=
  { v with
    fast := tfilter v.fast fun _ e => match e.use with
      | .window _ => false
      | _ => true
    old := v.old.map fun o => { o with before := 0 } }

/-- Open the SLUICE and PROGRAM windows of a restored tenant afresh (R411). -/
def reopen (s : State) (k : Nat) : State :=
  let x := keyOf s k
  if x.st = .empty then s
  else match openTenantWindows x.tenant x.sluiceCount s with
    | some (_, _, s) => s
    | none => count (netCntOff 0 22) s

/-- Put the saved state back (R411). A deep copy on a port that has not trained is lost with its port (05 R127). -/
def restore (v : Saved) (s : State) : State :=
  let deep := tfilter v.sto.deep fun a _ => (tierOf s (a / 2 ^ 41)).inService
  let s : State := { s with
    dir := v.dir, prog := v.prog, key := v.key, sto := { savedStores v.sto with deep := deep }
    sec := { s.sec with fabric := v.fabric }
    traffic := { s.traffic with weir := v.weir, mask := v.mask, meter := v.meter }
    jx := { s.jx with eq := v.eq.map fun e => (e.1, { quantumM1 := e.2.1, burst := e.2.2 }) }
    cfg := { s.cfg with warm := true } }
  let s := if overcommitted s then raise leafTrafficOvercommit [] s else s
  let s := (v.key.map (·.1)).foldl reopen s
  let out := (List.range 4).filter fun p => !(tierOf s p).inService
  out.foldl (fun s p =>
    let lost := needPort s p
    let s := (copiesOn s p).foldl (fun s e => dropBacking e.1 e.2.1 e.2.2 s) s
    lost.foldl (fun s k => seqLost k s) s) s

/-- Step 9, after the links: the saved state at a wake that allows it, else the image's records. -/
def bootApply (e : BootEnv) (wake : Bool) (s : State) : State :=
  match s.cfg.img with
  | none => s
  | some i =>
    let image := fun (s : State) => bootAdmits i (bootTraffic i s)
    let fin := fun (s : State) => { s with
      saved := none, cfg := { s.cfg with phase := 5 }, pwr := { s.pwr with g7Rst := .high, wakeBoot := false } }
    if wake then
      match s.saved with
      | some v =>
        if restorable e s v then fin (restore v s)
        else fin (image (raise leafWakeStateDiscarded [] { s with mem := { s.mem with fast := [] } }))
      | none => fin (image s)
    else fin (image s)

/-- Boot from step 1 to PHASE LINKS (Table 18.6). PTP_LOCKED makes it READY. -/
def boot (e : BootEnv) (s : State) : State :=
  let wake := s.pwr.wakeBoot
  let s := bootStart e { s with pwr := { s.pwr with romHold := false }, cfg := { s.cfg with phase := 0 } }
  let s := onward s (bootSlots e)
  let s := onward s (bootConfigure e)
  let s := onward s (bootTrain e)
  let s := onward s (bootSelftest e)
  let s := onward s (bootLinks e)
  onward s (bootApply e wake)

end Sys2Proof.Machine
end

