-- ==== Sys2Proof/Machine/Reset.lean ====
section
/-! DEFINITION. Resets, sleep and wake, and the JTAG port (18 R399, R400, R406-R412; 21 R451, R457-R459, R464, R465). -/

namespace Sys2Proof.Machine

/-! ## Outputs (18 R412, Table 18.9; 21 R452) -/

/-- The output groups of Table 18.9, and the outputs that it does not list. -/
inductive OutGroup where
  | intN | sleepReqN | g7RstN | gddr7 | perstN (port : Nat) | transmitters | nvmCs | i2c | tdo
  | avsClk (k : Nat) | avsMdata (k : Nat) | nvmSck | nvmDq
  deriving DecidableEq, Repr

/-- How an output stands: high impedance, at a level, electrically idle, released, or driven as the engine it belongs to works it (TDO in the TAP's
shift states). -/
inductive OutState where
  | hiZ | low | high | idle | released | driven
  deriving DecidableEq, Repr

/-- An output held at a level of State. -/
def outAt : PinOut → OutState
  | .hiZ => .hiZ
  | .low => .low
  | .high => .high

/-- Each output in each column of Table 18.9, and while the node runs; an output that the table does not list is high impedance in every column (21
R452). With RESET_N low after a wake comparator has fired, the RESET_N column holds (`.mainReset`), with G7_RST_N driven high. -/
def outputs (s : State) (g : OutGroup) : OutState :=
  match s.pwr.mode, g with
  | .aonReset, .i2c => .released
  | .aonReset, _ => .hiZ
  | .mainReset, .i2c => .released
  | .mainReset, .g7RstN => outAt s.pwr.g7Rst
  | .mainReset, .transmitters => .idle
  | .mainReset, .tdo => .driven
  | .mainReset, _ => .hiZ
  | .bmkOnly, .i2c => .released
  | .bmkOnly, .g7RstN => .high
  | .bmkOnly, .sleepReqN => outAt s.pwr.sleepReq
  | .bmkOnly, _ => .hiZ
  | .running, .sleepReqN => outAt s.pwr.sleepReq
  | .running, .g7RstN => outAt s.pwr.g7Rst
  | .running, .perstN p => outAt (tget .hiZ s.pwr.perst p)
  | .running, .intN => outAt (intN s)
  | .running, _ => .driven

/-! ## Resets (18 Table 18.7) -/

/-- POWER_ON_RESET (R400). -/
def execPowerOnReset (s : State) : Host.Outcome State Fault Refusal := .next (powerOn s)

/-- AON_RESET_RELEASE (21 R457): the Benchmark domain starts counting and the straps are sampled (21 R451). -/
def execAonResetRelease (straps : BitVec 2) (s : State) : Host.Outcome State Fault Refusal :=
  .next (if s.pwr.mode = .aonReset then
      { s with
        pwr := { s.pwr with aonResetN := true, mode := .mainReset }
        bmk := { s.bmk with counting := true, i2cAddr := straps } }
    else s)

/-- What a main reset leaves (R400): the Benchmark domain, the fuses, the NVM, the TAP, the expanders' own memory and the regulators' set values. -/
def clearMain (s : State) : State :=
  { bmk := s.bmk
    rgn := tmap s.rgn fun _ g => resetRgn g
    pwr := { resetN := s.pwr.resetN, aonResetN := true, mode := .mainReset, sysClk := s.pwr.sysClk, netClk := s.pwr.netClk
             tierClk := s.pwr.tierClk, svcClk := s.pwr.svcClk }
    jtag := s.jtag
    fuse := s.fuse
    mem := { nvm := s.mem.nvm, deep := s.mem.deep }
    free := s.free
    resets := s.resets + 1
    pending := s.pending }

/-- Record the cause of a reset in BMK_WAKE_CAUSE. -/
def wakeCause (bit : Nat) (s : State) : State :=
  { s with bmk := { s.bmk with wakeCause := s.bmk.wakeCause ||| BitVec.ofNat 32 (2 ^ bit) } }

/-- A wake (18 Table 18.7): as a main reset, with the fast tier and the saved state kept; the Benchmark domain holds G7_RST_N high. The board has removed
the supplies, so that the regulators come up without any command (21 R455, R459; log 80). -/
def wake (s : State) : State :=
  let kept := clearMain s
  { kept with
    rgn := []
    mem := { kept.mem with fast := s.mem.fast }
    saved := s.saved
    pwr := { kept.pwr with wakeBoot := true, g7Rst := .high } }

/-- RESET_N goes low. In Benchmark-only it is the board's preparation of a wake (21 R459), which begins once a comparator has fired. -/
def resetPin (s : State) : State :=
  match s.pwr.mode with
  | .aonReset => s
  | .bmkOnly =>
    let s : State := { s with pwr := { s.pwr with resetN := false } }
    if s.pwr.wakeBoot then wake s else s
  | .mainReset =>
    if s.pwr.resetN then wakeCause 5 (clearMain { s with pwr := { s.pwr with resetN := false } }) else s
  | .running => wakeCause 5 (clearMain { s with pwr := { s.pwr with resetN := false } })

/-- A CHIP_RESET delay or a thermal trip comes due. -/
def resetDue (s : State) : State :=
  match s.pwr.resetDue with
  | some (t, c) =>
    if awake s = true ∧ t ≤ now s then wakeCause (if c = .soft then 6 else 7) (clearMain s) else s
  | none => s

/-- MAIN_RESET (R400). -/
def execMainReset (cause : ResetCause) (s : State) : Host.Outcome State Fault Refusal :=
  .next (match cause with
    | .pin => resetPin s
    | .due => resetDue s)

/-- What holds the ROM at step 1 (21 R458) is over. -/
def holdOver (e : BootEnv) (s : State) : Bool :=
  (e.rails.all fun x => railOperates s x.1 x.2) && e.sysRefclk && e.sensors.all fun t => decide (0 ≤ t) && decide (t < 400)

/-- Step 1 begins: the outputs leave their reset states, and the boot goes on unless the ROM is held. -/
def startRom (e : BootEnv) (s : State) : State :=
  let s : State := { s with pwr := { s.pwr with
    resetN := true, mode := .running, sleepReq := .hiZ, sysClk := e.sysRefclk, netClk := 0xF, tierClk := 0xF, svcClk := true
    romHold := true, extestHold := false } }
  if holdOver e s then boot e s else s

/-- RESET_RELEASE (R399): RESET_N rises, or after a reset that did not lower it the boot begins. With a JTAG instruction in effect the node stays in
reset (21 R465); with SLEEP_REQ_N still low it is a main reset, not a wake (21 R459). -/
def execResetRelease (env : BootEnv) (s : State) : Host.Outcome State Fault Refusal :=
  .next (match s.pwr.mode with
    | .mainReset =>
      if s.jtag.inEffect then { s with pwr := { s.pwr with resetN := true, extestHold := true } } else startRom env s
    | .bmkOnly =>
      if s.pwr.wakeBoot then startRom env (wake s) else startRom env (wakeCause 5 (clearMain s))
    | _ => s)

/-- ROM_HOLD_END (21 R458). -/
def execRomHoldEnd (env : BootEnv) (s : State) : Host.Outcome State Fault Refusal :=
  .next (if awake s = true ∧ s.pwr.romHold = true ∧ holdOver env s = true then boot env { s with pwr := { s.pwr with sysClk := true } } else s)

/-! ## Sleep (18 R406-R408) -/

/-- A condition of R406 fails. -/
def sleepRefused (s : State) : Bool :=
  servesAny s ||
  (s.key.any fun e => e.2.st == .retiring || e.2.st == .zeroising) ||
  (s.dir.any fun e => e.2.st == .loading || e.2.st == .shifting || e.2.st == .releasing ||
    e.2.ten.any fun t => t.2.st == .migrating || t.2.st == .rewriting) ||
  s.bmk.wakeCtrl &&& 0xF == 0

/-- SLEEP (R406, R407): an accepted one makes the node quiesce. -/
def execSleep (s : State) : Host.Outcome State Fault Refusal :=
  .next (fwRun 0x23 (fun c s =>
    if sleepRefused s then answerFw stStateConflict [] s
    else match acceptDeferred c 0 s with
      | none => answerFw stRetry [] s
      | some s => match s.pwr.sleep with
        | .none => { s with pwr := { s.pwr with sleep := .quiescing (now s) c.tag } }
        | _ => s) s)

/-- Nothing is left at work (R407 step 2). -/
def quiesced (s : State) : Bool :=
  s.slu.inst.isEmpty && (s.slu.queue.all fun e => e.2.isEmpty) && s.slu.cmds.isEmpty && s.req.isEmpty && s.jx.tracker.isEmpty && s.jx.out.isEmpty &&
  (s.chan.all fun e => (unitCmds e.2).isEmpty && e.2.atom.isNone && e.2.journal.all fun j => j.2.st == .closed) &&
  s.dma.all fun e => e.2.run.isNone && !e.2.pending

/-- The state that SLEEP saves (R408), each part with a fresh nonce. -/
def savedOf (s : State) : Saved :=
  { dir := s.dir, prog := s.prog, key := s.key, fabric := s.sec.fabric
    weir := tmap s.traffic.weir fun _ (w : Weir) => { w with held := [] }
    mask := s.traffic.mask
    meter := tmap s.traffic.meter fun _ (m : Meter) => { m with held := [] }
    eq := s.jx.eq.map fun e => (e.1, e.2.quantumM1, e.2.burst)
    sto := s.sto, fwDigest := s.cfg.fwDigest, cfgDigest := s.cfg.cfgDigest
    regions := (List.range 16).filter fun r => !(rgnOf s r).fenced
    nonce := s.free }

/-- The state is saved: every part is written, sealed, in its region's system range (R408). -/
def saveState (s : State) : State :=
  let v := savedOf s
  (savedParts v).foldl (fun s p => writeFast (savedAddr p) (sealedPart v p) s) { s with saved := some v, free := s.free + 17 }

/-- Every SLEEP that waits ends with a status. -/
def endSleeps (status : Nat) : List Deferred → State → State
  | [], s => s
  | d :: rest, s => endSleeps status rest (if d.opcode = 0x23 then deferredEnd 0x23 0 status [] s else s)

/-- SLEEP_QUIESCED (R407 steps 2 to 5): within 10 ms of the acceptance with nothing left at work, the state is saved and PHASE becomes SLEEPING; once the
10 ms have passed, SLEEP ends with ST_RETRY. -/
def execSleepQuiesced (s : State) : Host.Outcome State Fault Refusal :=
  .next (match s.pwr.sleep with
    | .quiescing since _ =>
      if awake s = false then s
      else if decide (now s ≤ since + 10000000) && quiesced s then
        let s := saveState s
        let s := { s with cfg := { s.cfg with phase := 7 }
                          pwr := { s.pwr with g7Rst := .high, sleep := .asleep (now s) } }
        endSleeps stOk s.cfg.outstanding s
      else if since + 10000000 ≤ now s then
        endSleeps stRetry s.cfg.outstanding { s with pwr := { s.pwr with sleep := .none } }
      else s
    | _ => s)

/-! ## Benchmark-only (18 R407, R410) -/

/-- A wake comparator fires: its bit is set and SLEEP_REQ_N is released. With RESET_N already low the node is in reset from then on. -/
def wakeFires (bit : Nat) (s : State) : State :=
  let s := wakeCause bit s
  let s : State := { s with pwr := { s.pwr with sleepReq := .hiZ, wakeBoot := true } }
  if s.pwr.resetN then s else wake s

/-- The TIME comparator holds: enabled, and fabric time at or above BMK_WAKE_TIME. -/
def timeHolds (s : State) : Bool := s.bmk.wakeCtrl.getLsbD 0 && decide (s.bmk.wakeTime ≤ now s)

/-- SLEEP_REQ_ASSERT (R407 step 6): 1 ms after SLEEP completes; a TIME comparator that already holds fires at once (R410). -/
def execSleepReqAssert (s : State) : Host.Outcome State Fault Refusal :=
  .next (match s.pwr.sleep with
    | .asleep since =>
      if awake s = false ∨ now s < since + 1000000 then s
      else
        let s := settle { s with pwr := { s.pwr with sleepReq := .low, mode := .bmkOnly, perst := [], romHold := false, resetDue := none } }
        if timeHolds s then wakeFires 0 s else s
    | _ => s)

/-- The bit and the condition of a comparator (R410; a SUPPLY_THRESH above 1,800 mV fires only with SUPPLY_DIR 1, 21 R461). `sample` is the sensor in
°C, SUPPLY_SENSE in mV, or how many successive BCLK ticks WAKE_N has been low. -/
def wakeHolds (s : State) (which : WakeSource) (sample : Int) : Nat × Bool :=
  let c := s.bmk.wakeCtrl
  match which with
  | .time => (0, timeHolds s)
  | .temp =>
    let t : Int := bits c.toNat 15 8
    (1, c.getLsbD 1 && (if c.getLsbD 4 then decide (sample < t) else decide (t < sample)))
  | .supply =>
    let t : Int := bits c.toNat 27 16
    (2, c.getLsbD 2 && (if c.getLsbD 5 then decide (sample < t) else decide (t ≤ 1800) && decide (t < sample)))
  | .pin => (3, c.getLsbD 3 && decide (4 ≤ sample))

/-- WAKE_COMPARATOR_FIRE (R410). -/
def execWakeComparatorFire (which : WakeSource) (sample : Int) (s : State) : Host.Outcome State Fault Refusal :=
  .next (
    let h := wakeHolds s which sample
    if s.pwr.mode = .bmkOnly ∧ h.2 = true then wakeFires h.1 s else s)

/-! ## JTAG (21 R464, R465) -/

/-- The TAP works (R464): not in Benchmark-only, nor while AON_RESET_N is low. -/
def tapWorks (s : State) : Bool := s.pwr.aonResetN && s.pwr.mode != .bmkOnly && s.pwr.mode != .aonReset

/-- Load an instruction. Leaving the instruction that held the node in reset starts step 1 of Table 18.6 (R465). -/
def loadIr (ir : JtagIr) (effect : Bool) (s : State) : State :=
  if tapWorks s then
    let s := { s with jtag := { ir := ir, inEffect := effect } }
    if s.pwr.extestHold && !effect then { s with pwr := { s.pwr with mode := .running, romHold := true, extestHold := false } } else s
  else s

/-- An instruction that takes effect only while RESET_N is low, and else acts as BYPASS (R465); loaded again while it holds the node in reset, it goes
on holding it. -/
def loadDrive (ir : JtagIr) (s : State) : State :=
  if s.pwr.extestHold && s.jtag.ir == ir then s
  else if s.pwr.resetN then loadIr .bypass false s else loadIr ir true s

/-- JTAG_TAP_RESET (R464): TRST_N low or Test-Logic-Reset loads IDCODE. -/
def execJtagTapReset (s : State) : Host.Outcome State Fault Refusal := .next (loadIr .idcode false s)

/-- IDCODE (R464). -/
def execIdcode (s : State) : Host.Outcome State Fault Refusal := .next (loadIr .idcode false s)

/-- SAMPLE/PRELOAD (R464). -/
def execSamplePreload (s : State) : Host.Outcome State Fault Refusal := .next (loadIr .samplePreload false s)

/-- EXTEST (R465). -/
def execExtest (s : State) : Host.Outcome State Fault Refusal := .next (loadDrive .extest s)

/-- EXTEST_PULSE (R465). -/
def execExtestPulse (s : State) : Host.Outcome State Fault Refusal := .next (loadDrive .extestPulse s)

/-- EXTEST_TRAIN (R465). -/
def execExtestTrain (s : State) : Host.Outcome State Fault Refusal := .next (loadDrive .extestTrain s)

/-- HIGHZ (R465). -/
def execHighz (s : State) : Host.Outcome State Fault Refusal := .next (loadDrive .highz s)

/-- CLAMP (R465). -/
def execClamp (s : State) : Host.Outcome State Fault Refusal := .next (loadDrive .clamp s)

/-- BYPASS (R464). -/
def execBypass (s : State) : Host.Outcome State Fault Refusal := .next (loadIr .bypass false s)

/-- What the data register of the loaded instruction captures (Table 21.10): the 32-bit identity, the bypass bit, or none where it is the boundary
scan register, whose cells the manual does not list. -/
def jtagCapture (s : State) : Option (Nat × Nat) :=
  match s.jtag.ir with
  | .idcode => some (32, 1 + 2 * Config.jep106.toNat + 0x6440 * 2 ^ 12 + 0xB * 2 ^ 28)
  | .bypass => some (1, 0)
  | .highz => some (1, 0)
  | .clamp => some (1, 0)
  | _ => none

end Sys2Proof.Machine
end

