-- ==== Sys2Proof/Machine/Regs.lean ====
section
/-! DEFINITION. The register map (20 Tables 20.1-20.5 and the registers of the other chapters): what each 32-bit word of BAR0 reads. -/

namespace Sys2Proof.Machine

/-- The low (`i` = 0) or high word of a 64-bit value. -/
def half (v i : Nat) : Nat := if i = 0 then v % 2 ^ 32 else v / 2 ^ 32 % 2 ^ 32

/-! ## Leaf and group registers (19 R413, R414) -/

/-- The bits of CAUSE of a source that are set and enabled. -/
def liveBits (s : State) (id : Nat) : Nat := causeWord s id &&& causeEnWord s id

/-- A group register over the `n` sources from `id`. -/
def groupWord (s : State) (id n : Nat) : Nat :=
  (List.range n).foldl (fun w k => w + bitOf (liveBits s (id + k) != 0) k) 0

/-- Word `o` of `n` leaf registers, the first of source `id`. -/
def leafWord (s : State) (id n o : Nat) : Nat :=
  if n ≤ o / 16 then 0
  else match o % 16 with
    | 0 => causeWord s (id + o / 16)
    | 4 => causeEnWord s (id + o / 16)
    | _ => 0

/-- CHIP_INT_SUMMARY (19 R413). -/
def intSummary (s : State) : Nat :=
  (List.range 16).foldl (fun w n => w + bitOf (groupWord s (1 + 8 * n) 7 != 0) n) 0 +
  (List.range 4).foldl (fun w n => w + bitOf (groupWord s (129 + 4 * n) 3 != 0) (16 + n)) 0 +
  (List.range 4).foldl (fun w n => w + bitOf (groupWord s (145 + 2 * n) 2 != 0) (20 + n)) 0 +
  (List.range 6).foldl (fun w n => w + bitOf (groupWord s (153 + n) 1 != 0) (24 + n)) 0 +
  bitOf (groupWord s 159 4 != 0) 30

/-- Word `o` of log ring `ring` (19 R428). -/
def ringWord (s : State) (ring o : Nat) : Nat :=
  match tlook (tget [] s.log.rings ring) (o / 64) with
  | some r => rd r (o % 64) 4
  | none => 0

/-! ## CHIP, CATCH, BMK -/

/-- CHIP_NODE. -/
def chipNode (s : State) : Nat := match s.cfg.img with
  | some i => i.nodeId + i.tray * 2 ^ 12 + i.endpoint * 2 ^ 32
  | none => 0

/-- The code of STATE of CHIP_NODE_STATUS (20 R438). -/
def nodeCode : NodeSt → Nat
  | .booting => 0 | .joining => 1 | .serving => 2 | .draining => 3 | .drained => 4

/-- CHIP_NODE_STATUS (R438): the lowest blocked pair in the lowest composition ID. -/
def nodeStatus (s : State) : Nat :=
  match s.node.blocked with
  | [] => nodeCode s.node.st
  | (c, p) :: _ => nodeCode s.node.st + bitOf true 3 + p * 16 + c * 2 ^ 32

/-- The code of a barrier's state (19 CHIP_BARRIER). -/
def barCode : BarSt → Nat
  | .idle => 0 | .armed => 1 | .done => 2 | .broken => 3

/-- Word `i` of CHIP_BARRIER. -/
def barrierWord (b : Barrier) (i : Nat) : Nat :=
  match i with
  | 0 => b.mask.toNat
  | 1 => b.arrived.toNat
  | 2 => barCode b.st + b.gen.toNat * 65536
  | _ => 0

/-- CHIP_CLAIM (20 R434, R435). -/
def claimWord (s : State) : Nat := bitOf s.svc.owned 0 + s.svc.foreign * 256 + s.svc.ownerRid.toNat * 65536

/-- A word of the CHIP block. -/
def chipWord (s : State) (o : Nat) : Nat :=
  if o = 0x0 then 0x6440 + 0xB0 * 2 ^ 16 + s.fuse.grade * 2 ^ 24
  else if o = 0x8 ∨ o = 0xC then half (chipNode s) (o - 0x8)
  else if o = 0x10 then claimWord s
  else if o = 0x14 then s.svc.bad
  else if o = 0x18 ∨ o = 0x1C then half (nodeStatus s) (o - 0x18)
  else if o = 0x100 then intSummary s
  else if 0x200 ≤ o ∧ o < 0x240 then leafWord s 159 4 (o - 0x200)
  else if o = 0x280 then groupWord s 159 4
  else if o = 0x300 then logSeq s ringChip
  else if 0x400 ≤ o ∧ o < 0x414 then counter s o
  else if 0x2000 ≤ o ∧ o < 0x2400 then barrierWord (tget {} s.barrier ((o - 0x2000) / 16)) ((o - 0x2000) % 16 / 4)
  else if 0xC000 ≤ o then ringWord s ringChip (o - 0xC000)
  else 0

/-- The code of a source's state (19 CATCH_SRC_CFG). -/
def srcCode : SrcState → Nat
  | .idle => 0 | .pending => 1 | .active => 2 | .activePending => 3

/-- CATCH_SRC_CFG of a source. -/
def srcWord (g : SrcCfg) : Nat := g.cores.toNat + bitOf g.pin 8 + g.prio * 2 ^ 12 + srcCode g.st * 2 ^ 16 + g.last * 2 ^ 20

/-- CATCH_TGT_STACK. -/
def stackWord (l : List (Nat × Nat)) : Nat := match l with
  | [] => 0
  | (id, p) :: _ => l.length + id * 256 + p * 65536

/-- A word of the CATCH block; a claim is another matter (19 R420). -/
def catchWord (s : State) (o : Nat) : Nat :=
  if o = 0 then bitOf s.catchment.globalEn 0 + s.catchment.tgtEn.toNat * 256
  else if 0x100 ≤ o ∧ o < 0x190 ∧ o % 16 = 8 then stackWord (tgtStack s.catchment ((o - 0x100) / 16))
  else if o = 0x180 then offeredSource 8 s
  else if 0x1004 ≤ o ∧ o ≤ 0x1288 then srcWord (srcCfg s.catchment ((o - 0x1000) / 4))
  else 0

/-- A word of the BMK block. -/
def bmkWord (s : State) (o : Nat) : Nat :=
  if o = 0 ∨ o = 4 then half s.bmk.time o
  else if o = 8 ∨ o = 0xC then half s.bmk.wakeTime (o - 8)
  else if o = 0x10 then s.bmk.wakeCtrl.toNat
  else if o = 0x18 then s.bmk.wakeCause.toNat
  else if 0x100 ≤ o ∧ o < 0x300 then
    let x := tmrOf s ((o - 0x100) / 16)
    match o % 16 with
    | 0 => half x.compare 0
    | 4 => half x.compare 1
    | 8 => x.ctrl.toNat
    | _ => 0
  else 0

/-! ## CFG, SEC, DATUM -/

/-- CFG_BOOT_STATUS (18). -/
def bootStatus (s : State) : Nat :=
  s.cfg.phase + s.cfg.slot * 16 + s.cfg.ctlPrimary * 32 + bitOf s.cfg.warm 6 + bitOf s.cfg.quad 7 + s.cfg.causeA * 256 +
  s.cfg.causeB * 4096 + bitOf s.cfg.standbyOk 16

/-- CFG_CMD_CTRL (20 R440). -/
def cmdCtrl (s : State) : Nat :=
  s.cfg.opcode + bitOf s.cfg.busy 9 + bitOf s.cfg.done 10 + bitOf s.cfg.deferred 11 + s.cfg.goRefused * 2 ^ 16 +
  s.cfg.outstanding.length * 2 ^ 24

/-- A word of the CFG block. -/
def cfgWord (s : State) (o : Nat) : Nat :=
  if o = 0 then bootStatus s
  else if o = 0x10 then s.cfg.runFwSvn
  else if o = 0x14 then s.cfg.runCfgSvn
  else if o = 0x18 then s.fuse.fwSvn
  else if o = 0x1C then s.fuse.cfgSvn
  else if 0x100 ≤ o ∧ o < 0x120 then rd (beBytes 32 s.cfg.fwDigest.toNat) (o - 0x100) 4
  else if 0x120 ≤ o ∧ o < 0x140 then rd (beBytes 32 s.cfg.cfgDigest.toNat) (o - 0x120) 4
  else if o = 0x1000 then cmdCtrl s
  else if o = 0x1004 then s.cfg.reqLen
  else if o = 0x1008 then s.cfg.tag
  else if o = 0x100C then s.cfg.status + s.cfg.respLen * 256
  else if o = 0x1010 then s.cfg.doneTag
  else if o = 0x1014 then s.cfg.ringHead
  else if 0x2000 ≤ o ∧ o < 0x2800 then
    match tlook s.cfg.ring ((o - 0x2000) / 128) with
    | some r => rd r ((o - 0x2000) % 128) 4
    | none => 0
  else if 0x10000 ≤ o ∧ o < 0x20000 then leNat (memRead s.cfg.reqBuf (o - 0x10000) 4)
  else if 0x20000 ≤ o ∧ o < 0x30000 then leNat (memRead s.cfg.respBuf (o - 0x20000) 4)
  else 0

/-- SEC_SLOT (17 R368). -/
def slotWord (s : State) (k : Nat) : Nat :=
  let x := keyOf s k
  slotCode x.st + bitOf x.prot 2 + bitOf x.sealed_ 3 + x.tenant * 16 + x.priv * 2 ^ 16 + bitOf x.keys.pending.isSome 20 + bitOf x.keyAge 21 +
  x.memGen * 2 ^ 32 + (if x.st = .empty then 0 else min 0xFFFF (drainCount s k)) * 2 ^ 48

/-- A word of the SEC block. -/
def secWord (s : State) (o : Nat) : Nat :=
  if o < 0x10 then rd (leBytes 16 Config.deviceId.toNat) o 4
  else if 0x1000 ≤ o ∧ o < 0x5000 ∧ o % 16 < 8 then half (slotWord s ((o - 0x1000) / 16)) (o % 16)
  else if 0x9000 ≤ o ∧ o < 0x19000 then counter s (0x80000 + o)
  else 0

/-- Word `i` of DATUM_COMP of composition `id`. -/
def compWord (id : Nat) (x : Comp) (i : Nat) : Nat :=
  match i with
  | 0 => id
  | 1 => epochOf x
  | 2 => match x.map with
    | some m => compCode x + m.tenant * 16 + m.pairs.length * 2 ^ 16
    | none => compCode x
  | 3 => match x.map with
    | some m => m.pairs.countP fun p => p.2.st != 0
    | none => 0
  | 4 => half x.lastStep 0
  | 5 => half x.lastStep 1
  | _ => 0

/-- A word of the DATUM block: the compositions held, by rising ID. -/
def datumWord (s : State) (o : Nat) : Nat :=
  if 0x1000 ≤ o ∧ o < 0x3000 then
    match (s.datum.comp.filter fun e => e.2.map.isSome || behind e.2)[(o - 0x1000) / 32]? with
    | some e => compWord e.1 e.2 ((o - 0x1000) % 32 / 4)
    | none => 0
  else 0

/-! ## TRAFFIC -/

/-- A 64-bit counter's word at `off`, the counter being keyed by its low word. -/
def counter64 (s : State) (off : Nat) : Nat := if off % 8 = 0 then half (counter s off) 0 else half (counter s (off - 4)) 1

/-- A word of the TRAFFIC block. A word held for the next commit reads as written (R8, 14 R314). -/
def trafficWord (s : State) (off : Nat) : Nat :=
  let o := off - 0x200000
  if 0x1000 ≤ o ∧ o < 0x1400 then
    let w := weirOf s ((o - 0x1000) / 16)
    tget (weirWord w (o % 16 / 4)) w.held (o % 16 / 4)
  else if 0x2000 ≤ o ∧ o < 0x4000 then half (tget 0 s.traffic.mask ((o - 0x2000) / 8)) (o % 8)
  else if 0x4000 ≤ o ∧ o < 0x8000 then
    let m := meterOf s ((o - 0x4000) / 16)
    tget (meterWord m (o % 16 / 4)) m.held (o % 16 / 4)
  else if 0x8000 ≤ o ∧ o < 0x48000 then
    if o % 0x100 < 0x18 then counter64 s off else if o % 0x100 < 0x80 then counter s off else 0
  else if 0x50000 ≤ o ∧ o < 0x52000 then eqWord (eqOf s ((o - 0x50000) / 8)) (o % 8 / 4)
  else if 0x80000 ≤ o ∧ o < 0x180000 then
    let n := (o - 0x80000) / 0x40000
    let f := (o - 0x80000) % 0x40000
    leNat (memRead (tget [] s.traffic.samples (n * 64 + f / 0x1000)) (f % 0x1000) 4)
  else 0

/-! ## DMA, NET, TIER, RGN, SPINE -/

/-- The channel and the offset in its register block of a DMA register (13 Table 13.1). -/
def dmaAt (off : Nat) : Option (Nat × Nat) :=
  if 0x400000 ≤ off ∧ off < 0x600000 then
    let o := off % 0x40000
    let die := (off - 0x400000) / 0x40000
    if 0x1000 ≤ o ∧ o < 0x1400 then some (256 + 8 * die + (o - 0x1000) / 128, o % 128) else none
  else if 0x1000000 ≤ off ∧ off < 0x2000000 then
    let o := off % 0x100000
    if 0xA000 ≤ o ∧ o < 0xA800 then some (16 * ((off - 0x1000000) / 0x100000) + (o - 0xA000) / 128, o % 128) else none
  else none

/-- A word of a channel's registers (13 R294, R298). -/
def dmaWord (x : DmaCh) (o : Nat) : Nat :=
  if o < 0x40 then rd x.desc o 4
  else match o with
    | 0x40 => bitOf x.funnelEn 2 + x.startSrc * 8 + x.startArg * 32 + bitOf x.intEn 14
    | 0x44 => bitOf x.run.isSome 0 + bitOf x.pending 1 + bitOf x.done 2 + bitOf x.error 3 + x.lastStatus * 16 + x.cause * 2 ^ 12 +
        x.startLost * 2 ^ 16 + x.overrun * 2 ^ 24
    | 0x48 => half x.bytes 0
    | 0x4C => half x.bytes 1
    | 0x50 => x.pace
    | _ => 0

/-- The code of a PTP state. -/
def ptpCode : PtpSt → Nat
  | .unlocked => 0 | .locked => 1 | .holdover => 2

/-- An integer saturated to 32 signed bits. -/
def sat32 (v : Int) : Int := max (-(2 ^ 31)) (min (2 ^ 31 - 1) v)

/-- NET_PTP_STATUS. -/
def ptpStatus (p : Ptp) : Nat := ptpCode p.st + unsigned 32 (sat32 p.offset) * 2 ^ 32

/-- A word of NET_n at `off`, offset `o` in the block. -/
def netWord (s : State) (n o off : Nat) : Nat :=
  if o = 0 ∨ o = 8 then bitOf (s.jx.portUp.getLsbD (2 * n + o / 8)) 0 + counter s off * 65536
  else if o = 0x10 ∨ o = 0x14 then half (ptpStatus (tget {} s.jx.ptp n)) (o - 0x10)
  else if 0x100 ≤ o ∧ o < 0x130 then leafWord s (129 + 4 * n) 3 (o - 0x100)
  else if o = 0x180 then groupWord s (129 + 4 * n) 3
  else if o = 0x200 then logSeq s (ringNet n)
  else if 0x300 ≤ o ∧ o < 0x380 then if o % 0x40 < 0x20 then counter64 s off else if o % 0x40 < 0x28 then counter s off else 0
  else if (0x400 ≤ o ∧ o < 0x45C) ∨ (0x800 ≤ o ∧ o < 0x900) then counter s off
  else if 0x2000 ≤ o ∧ o < 0x6000 then ringWord s (ringNet n) (o - 0x2000)
  else 0

/-- TIER_STATUS. -/
def tierStatus (t : Tier) : Nat :=
  bitOf t.inService 0 + bitOf (t.fenced || t.unsupported) 1 + t.rate * 4 + t.width * 32 + t.capUsed * 2 ^ 32 + t.capDevice * 2 ^ 48

/-- A word of TIER_n. -/
def tierWord (s : State) (n o off : Nat) : Nat :=
  if o = 0 ∨ o = 4 then half (tierStatus (tierOf s n)) o
  else if 0x100 ≤ o ∧ o < 0x120 then leafWord s (145 + 2 * n) 2 (o - 0x100)
  else if o = 0x180 then groupWord s (145 + 2 * n) 2
  else if o = 0x200 then logSeq s (ringTier n)
  else if 0x400 ≤ o ∧ o < 0x410 then counter s off
  else if 0x2000 ≤ o ∧ o < 0x6000 then ringWord s (ringTier n) (o - 0x2000)
  else 0

/-- RGN_CLOCK_STATUS (20 R446). -/
def clockStatus (g : Rgn) : Nat :=
  g.point + g.target * 2 ^ 8 + clampCause g * 2 ^ 16 + bitOf g.gated 19 + bitOf g.fenced 20 + searchStep g * 2 ^ 21 + g.temp * 2 ^ 32 +
  g.vddSet * 2 ^ 42

/-- RGN_UNIT_MODE (04 Table 4.5): MODE_ACK clears once the units' commands are finished. -/
def unitModeWord (s : State) (r : Nat) : Nat :=
  let g := rgnOf s r
  let busy := fun (u : Nat) => let c := chanSt s (12 * r + u); !c.queue.isEmpty || c.run.isSome || c.scrub.isSome
  bitOf g.unitMode 0 + bitOf (g.modeAck && (g.unitMode || unitsBusy s r)) 1 +
  (List.range 12).foldl (fun w u => w + bitOf (busy u) (2 + u)) 0

/-- RGN_BLK_CELLS (06 R153). -/
def cellsWord (x : Blk) : Nat := x.cells.toNat + bitOf x.spare 17 + bitOf x.fenced 18

/-- A word of RGN_n. -/
def rgnWord (s : State) (n o off : Nat) : Nat :=
  if o = 0 ∨ o = 4 then half (clockStatus (rgnOf s n)) o
  else if 0x400 ≤ o ∧ o < 0x460 then counter s off
  else if 0x1000 ≤ o ∧ o < 0x1070 then leafWord s (1 + 8 * n) 7 (o - 0x1000)
  else if o = 0x1080 then groupWord s (1 + 8 * n) 7
  else if o = 0x1100 then logSeq s n
  else if o = 0x1104 then logSeq s (16 + n)
  else if o = 0x1108 then logSeq s (32 + n)
  else if o = 0x8000 then unitModeWord s n
  else if 0x9000 ≤ o ∧ o < 0x9020 then cellsWord (blkOf s n ((o - 0x9000) / 4))
  else if 0x9020 ≤ o ∧ o < 0x9040 then (blkOf s n ((o - 0x9020) / 4)).retry
  else if 0xC000 ≤ o ∧ o < 0x10000 then ringWord s n (o - 0xC000)
  else if 0x10000 ≤ o ∧ o < 0x14000 then ringWord s (16 + n) (o - 0x10000)
  else if 0x14000 ≤ o ∧ o < 0x18000 then ringWord s (32 + n) (o - 0x14000)
  else 0

/-- A word of SPINE_s. -/
def spineWord (s : State) (n o : Nat) : Nat :=
  if 0x100 ≤ o ∧ o < 0x110 then leafWord s (153 + n) 1 (o - 0x100)
  else if o = 0x180 then groupWord s (153 + n) 1
  else 0

/-- The word at BAR0 offset `off`, a multiple of 4 (20 Table 20.2): a reserved or unassigned offset reads as zero (R433). -/
def regWord (s : State) (off : Nat) : Nat :=
  match dmaAt off with
  | some (c, o) => dmaWord (dmaOf s c) o
  | none =>
    if off < 0x10000 then chipWord s off
    else if off < 0x20000 then catchWord s (off - 0x10000)
    else if off < 0x40000 then bmkWord s (off - 0x20000)
    else if off < 0x80000 then cfgWord s (off - 0x40000)
    else if off < 0x100000 then secWord s (off - 0x80000)
    else if off < 0x200000 then datumWord s (off - 0x100000)
    else if off < 0x400000 then trafficWord s off
    else if off < 0x500000 then netWord s ((off - 0x400000) / 0x40000) (off % 0x40000) off
    else if off < 0x600000 then tierWord s ((off - 0x500000) / 0x40000) (off % 0x40000) off
    else if off < 0x1000000 then 0
    else if off < 0x2000000 then rgnWord s ((off - 0x1000000) / 0x100000) (off % 0x100000) off
    else if off < 0x2006000 then spineWord s ((off - 0x2000000) / 0x1000) (off % 0x1000)
    else 0

/-- `off` is the low word of a 64-bit register (R10). -/
def lowWord (off : Nat) : Bool :=
  match dmaAt off with
  | some (_, o) => o == 0x48
  | none =>
    off == 0x8 || off == 0x18 || off == 0x20000 || off == 0x20008 ||
    (decide (0x20100 ≤ off) && decide (off < 0x20300) && off % 16 == 0) ||
    (decide (0x81000 ≤ off) && decide (off < 0x85000) && off % 16 == 0) ||
    (decide (0x202000 ≤ off) && decide (off < 0x204000) && off % 8 == 0) ||
    (decide (0x208000 ≤ off) && decide (off < 0x248000) && decide (off % 0x100 < 0x18) && off % 8 == 0) ||
    (decide (0x250000 ≤ off) && decide (off < 0x252000) && off % 8 == 0) ||
    (decide (0x400000 ≤ off) && decide (off < 0x500000) && (off % 0x40000 == 0x10 ||
      (decide (0x300 ≤ off % 0x40000) && decide (off % 0x40000 < 0x380) && decide (off % 0x40 < 0x20) && off % 8 == 0))) ||
    (decide (0x500000 ≤ off) && decide (off < 0x600000) && off % 0x40000 == 0) ||
    (decide (0x1000000 ≤ off) && decide (off < 0x2000000) && off % 0x100000 == 0)

end Sys2Proof.Machine
end

