-- ==== Sys2Proof/Machine/Access.lean ====
section
/-! DEFINITION. Register accesses (00 R8-R10; 20 R432-R436, R440, R447): reads and writes of firmware, of the owner and of other hosts through BAR0,
configuration space, the claim and the I2C target. -/

namespace Sys2Proof.Machine

/-! ## The claim (20 R434, R435) -/

/-- A write of CHIP_CLAIM by the host `rid`, past the gate: W1S OWNED, and RELEASE by the owner. -/
def claimWrite (rid : BitVec 16) (v : Nat) (s : State) : State :=
  if s.svc.owned then
    if bitAt v 1 ∧ s.svc.ownerRid = rid then { s with svc := { s.svc with owned := false, ownerRid := 0 } } else s
  else if bitAt v 0 then { s with svc := { s.svc with owned := true, ownerRid := rid } }
  else s

/-- A host's register write at `off`. -/
def hostWrite (rid : BitVec 16) (off : Nat) (act : State → State) (s : State) : State := writerGate (.host rid) off s act

/-- CHIP_CLAIM_OWN (R434). -/
def execChipClaimOwn (rid : BitVec 16) (s : State) : Host.Outcome State Fault Refusal := .next (hostWrite rid 0x10 (claimWrite rid 1) s)

/-- CHIP_CLAIM_RELEASE (R435). -/
def execChipClaimRelease (rid : BitVec 16) (s : State) : Host.Outcome State Fault Refusal := .next (hostWrite rid 0x10 (claimWrite rid 2) s)

/-- SVC_LINK_RESET (R435): a Function Level Reset, a Hot Reset or a link that goes down ends the claim and resets configuration space. -/
def execSvcLinkReset (kind : SvcReset) (s : State) : Host.Outcome State Fault Refusal :=
  let _ := kind
  .next (if awake s then claimEnds s else s)

/-! ## Configuration space (20 Table 20.1; 13 of the assumption log) -/

/-- A word of configuration space that Table 20.1 gives: the capabilities it lists stand at the addresses of log 13. -/
def cfgSpaceWord (s : State) (off : Nat) : Option Nat :=
  match off with
  | 0x00 => some (0x64401F4D)
  | 0x04 => some (bitOf s.svc.mse 1 + bitOf s.svc.bme 2 + bitOf true 20)
  | 0x08 => some 0x088000B0
  | 0x0C => some 0
  | 0x10 => some (s.svc.bar % 2 ^ 32 + 4)
  | 0x14 => some (s.svc.bar / 2 ^ 32 % 2 ^ 32)
  | 0x18 => some 0
  | 0x1C => some 0
  | 0x20 => some 0
  | 0x24 => some 0
  | 0x2C => some (0x64401F4D)
  | 0x30 => some 0
  | 0x34 => some 0x40
  | 0x3C => some 0
  | 0x40 => some 0x00035001
  | 0x44 => some (if s.svc.d3hot then 3 else 0)
  | 0x50 => some 0x00020010
  | 0x100 => some 0x14020001
  | 0x140 => some 0x00010003
  | 0x144 => some (Config.deviceId.toNat % 2 ^ 32)
  | 0x148 => some (Config.deviceId.toNat / 2 ^ 32 % 2 ^ 32)
  | _ => none

/-- The bits that R432 gives of a capability word whose other bits it leaves open, and their value: Max Payload Size 128 B in the device
capabilities, one lane at up to 32 GT/s in the link capabilities, the five speeds in the link capabilities 2 (places PRESUMED, log 13). -/
def cfgSpacePart (off : Nat) : Nat × Nat :=
  match off with
  | 0x54 => (0x7, 0)
  | 0x5C => (0x3FF, 0x15)
  | 0x7C => (0xFE, 0x3E)
  | _ => (0, 0)

/-- A write of a word of configuration space. -/
def cfgSpaceWrite (off v : Nat) (s : State) : State :=
  match off with
  | 0x04 => { s with svc := { s.svc with mse := bitAt v 1, bme := bitAt v 2 } }
  | 0x10 => { s with svc := { s.svc with bar := s.svc.bar / 2 ^ 32 * 2 ^ 32 + v / 2 ^ 26 % 2 ^ 6 * 2 ^ 26 } }
  | 0x14 => { s with svc := { s.svc with bar := s.svc.bar % 2 ^ 32 + v % 2 ^ 32 * 2 ^ 32 } }
  | 0x44 => { s with svc := { s.svc with d3hot := if v % 4 = 3 then true else if v % 4 = 0 then false else s.svc.d3hot } }
  | _ => s

/-- The service function answers configuration requests. -/
def svcUp (s : State) : Bool := awake s && s.svc.linkUp

/-- A configuration read: the bits whose value the manual does not give are a free value. -/
def cfgRead (off : Nat) (s : State) : State :=
  if !svcUp s then svcAnswer .noDecode s
  else match cfgSpaceWord s (off / 4 * 4) with
    | some v => svcAnswer (.data (leBytes 4 v)) s
    | none => match takeFree s with
      | (n, s) =>
        let (mask, v) := cfgSpacePart (off / 4 * 4)
        svcAnswer (.data (leBytes 4 (v ||| ((Config.freeBits 32 n).toNat &&& (2 ^ 32 - 1 - mask))))) s

/-- A configuration write of `data` at `off`, the bytes not written keeping their value. -/
def cfgWriteAt (off : Nat) (data : Bytes) (s : State) : State :=
  if !svcUp s then svcAnswer .noDecode s
  else
    let w := off / 4 * 4
    svcAnswer .written (cfgSpaceWrite w (leNat (put (leBytes 4 ((cfgSpaceWord s w).getD 0)) (off % 4) data)) s)

/-! ## Reads -/

/-- What a read of the word at `off` clears (R8: RC). -/
def clearRc (off : Nat) (s : State) : State :=
  if off = 0x10 then { s with svc := { s.svc with foreign := 0 } }
  else if off = 0x14 then { s with svc := { s.svc with bad := 0 } }
  else if off = 0x41000 then { s with cfg := { s.cfg with goRefused := 0 } }
  else match dmaAt off with
    | some (c, 0x44) => setDma c { dmaOf s c with startLost := 0, overrun := 0 } s
    | some _ => s
    | none =>
      let o := off % 0x100000
      let b := (o - 0x9020) / 4
      let r := (off - 0x1000000) / 0x100000
      if 0x1000000 ≤ off ∧ off < 0x2000000 ∧ 0x9020 ≤ o ∧ o < 0x9040 then setBlk r b { blkOf s r b with retry := 0 } s else s

/-- The word a BAR0 read returns: the latched high word of a 64-bit register whose low word has been read (R10). -/
def readWord (s : State) (off : Nat) : Nat := (tlook s.svc.hi off).getD (regWord s off)

/-- The read of the low word of a 64-bit register latches its high word (R10). -/
def latchHi (off : Nat) (s : State) : State :=
  if lowWord off then { s with svc := { s.svc with hi := tput s.svc.hi (off + 4) (regWord s (off + 4)) } } else s

/-- A served read of one register. What a read of a die that cannot be reached returns (02 R36) is a free value (log 50). -/
def serveRead (off : Nat) (s : State) : State :=
  if !offsetDecoded off s then svcAnswer (.data (leBytes 4 0)) s
  else if !offsetReachable off s then
    match takeFree s with
    | (n, s) => svcAnswer (.data (leBytes 4 (Config.freeBits 32 n).toNat)) s
  else
    let v := readWord s off
    let s := svcAnswer (.data (leBytes 4 v)) (clearRc off (latchHi off s))
    if off = 0x10180 then claimTarget 8 s else s

/-- A TLP lies wholly in the buffer at `base`: 4 to 128 bytes, aligned to 4 (R433). -/
def inBuffer (base off len : Nat) : Bool :=
  decide (base ≤ off) && decide (off + len ≤ base + 0x10000) && decide (4 ≤ len) && decide (len ≤ 128) && off % 4 == 0

/-- A 32-bit access, naturally aligned (R10). -/
def isWord (t : Tlp) : Bool := t.len == 4 && t.offset % 4 == 0 && t.allEnables

/-- A BAR0 read (R433, R434, R436). -/
def barRead (rid : BitVec 16) (t : Tlp) (s : State) : State :=
  if 2 ^ 26 ≤ t.offset then svcAnswer .noDecode s
  else match svcClaimGate rid false t.offset s (isWord t) with
    | (false, s) => s
    | (true, s) =>
      if inBuffer 0x60000 t.offset t.len then svcAnswer (.data (memRead s.cfg.respBuf (t.offset - 0x60000) t.len)) s
      else if isWord t then serveRead t.offset s
      else svcAnswer .unsupported (svcBad s)

/-- RC_READ (R8): a register read; an RC field returns its value and clears. -/
def execRcRead (t : Tlp) (s : State) : Host.Outcome State Fault Refusal :=
  .next (match t.who with
    | .firmware => if awake s && isWord t && !t.config && offsetReachable t.offset s then clearRc t.offset s else s
    | .host rid => if t.config then cfgRead t.offset s else barRead rid t s)

/-! ## Writes -/

/-- The source whose CAUSE or CAUSE_EN lies at `off`, and whether it is CAUSE_EN (19 Table 19.1). -/
def leafAt (off : Nat) : Option (Nat × Bool) :=
  let pick := fun (id n o : Nat) =>
    if o / 16 < n ∧ (o % 16 = 0 ∨ o % 16 = 4) then some (id + o / 16, o % 16 == 4) else none
  if 0x200 ≤ off ∧ off < 0x240 then pick 159 4 (off - 0x200)
  else if 0x400000 ≤ off ∧ off < 0x500000 ∧ 0x100 ≤ off % 0x40000 then pick (129 + 4 * ((off - 0x400000) / 0x40000)) 3 (off % 0x40000 - 0x100)
  else if 0x500000 ≤ off ∧ off < 0x600000 ∧ 0x100 ≤ off % 0x40000 then pick (145 + 2 * ((off - 0x500000) / 0x40000)) 2 (off % 0x40000 - 0x100)
  else if 0x1000000 ≤ off ∧ off < 0x2000000 ∧ 0x1000 ≤ off % 0x100000 then pick (1 + 8 * ((off - 0x1000000) / 0x100000)) 7 (off % 0x100000 - 0x1000)
  else if 0x2000000 ≤ off ∧ off < 0x2006000 ∧ 0x100 ≤ off % 0x1000 then pick (153 + (off - 0x2000000) / 0x1000) 1 (off % 0x1000 - 0x100)
  else none

/-- W1C of CAUSE (19 R414). TRAFFIC_OVERCOMMIT stays set while it holds (14 R313). -/
def clearCause (id v : Nat) (s : State) : State :=
  let keep := if id = 159 ∧ overcommitted s = true then 2 ^ 4 else 0
  let w := causeWord s id
  let left := w &&& ((2 ^ 32 - 1) ^^^ v) ||| (w &&& keep)
  { s with catchment := { s.catchment with cause := tset 0 s.catchment.cause id left } }

/-- Word `i` of a 64-bit value replaced. -/
def setHalf (x i v : Nat) : Nat := if i = 0 then x / 2 ^ 32 * 2 ^ 32 + v else x % 2 ^ 32 + v * 2 ^ 32

/-- A write in the catchment (19 R417-R420). -/
def catchWrite (who : Writer) (o v : Nat) (s : State) : State :=
  let w := BitVec.ofNat 32 v
  let fw := who == .firmware
  if o = 0 then settle { s with catchment := catchCtrlAfter who w s.catchment }
  else if 0x104 ≤ o ∧ o ≤ 0x184 ∧ o % 16 = 4 then
    let t := (o - 0x104) / 16
    if fw == (t != 8) then completeTarget t (v % 256) s else s
  else if 0x1004 ≤ o ∧ o ≤ 0x1288 then
    let id := (o - 0x1000) / 4
    settle { s with catchment := setSrc id (srcCfgAfter who w (srcCfg s.catchment id)) s.catchment }
  else s

/-- A write in the BMK block; the timer comparators are firmware's (13 R293). -/
def bmkWrite (who : Writer) (o v : Nat) (s : State) : State :=
  if o = 8 ∨ o = 0xC then { s with bmk := { s.bmk with wakeTime := setHalf s.bmk.wakeTime (o - 8) v } }
  else if o = 0x10 then { s with bmk := { s.bmk with wakeCtrl := BitVec.ofNat 32 v &&& 0x1FFFFF3F#32 } }
  else if o = 0x18 then { s with bmk := { s.bmk with wakeCause := s.bmk.wakeCause &&& ~~~(BitVec.ofNat 32 v) } }
  else if who = .firmware ∧ 0x100 ≤ o ∧ o < 0x300 then
    let n := (o - 0x100) / 16
    let x := tmrOf s n
    match o % 16 with
    | 0 => setTmr n { x with compare := setHalf x.compare 0 v } s
    | 4 => setTmr n { x with compare := setHalf x.compare 1 v } s
    | 8 =>
      let w := BitVec.ofNat 32 v
      setTmr n { x with ctrl := (w &&& 0xFFFFFFF3#32) ||| (x.ctrl &&& ~~~w &&& 4#32) } s
    | _ => s
  else s

/-- A write of CFG_CMD_CTRL (20 R440). -/
def cmdWrite (v : Nat) (s : State) : State :=
  let g := s.cfg
  if bitAt v 8 then
    if g.busy then { s with cfg := { g with goRefused := satInc 8 g.goRefused } }
    else { s with cfg := { g with
      opcode := v % 256, busy := true, done := false, deferred := false, status := 0, respLen := 0, respBuf := []
      latched := some { opcode := v % 256, req := memRead g.reqBuf 0 g.reqLen, tag := g.tag } } }
  else if g.busy then svcBad s
  else { s with cfg := { g with opcode := v % 256, done := g.done && !bitAt v 10 } }

/-- A write to the command window's LEN or TAG (20 R440): discarded and counted while BUSY. -/
def windowWrite (f : Cfg → Cfg) (s : State) : State := if s.cfg.busy then svcBad s else { s with cfg := f s.cfg }

/-- A write in the CFG block. -/
def cfgBlockWrite (o v : Nat) (s : State) : State :=
  if o = 0x1000 then cmdWrite v s
  else if o = 0x1004 then windowWrite (fun g => { g with reqLen := v % 2 ^ 17 }) s
  else if o = 0x1008 then windowWrite (fun g => { g with tag := v }) s
  else s

/-- The bits of a held word that are fields of TRAFFIC_WEIR (14 R309); reserved bits read as zero (00 R8). -/
def weirFields (i v : Nat) : Nat := if i = 2 then v % 2 ^ 20 else if i = 3 then 0 else v

/-- The bits of a held word that are fields of TRAFFIC_METER (14 R317). -/
def meterFields (i v : Nat) : Nat := if i = 3 then v % 2 ^ 28 else v

/-- A write of a setting register (14 R314): word 0 commits, the others are held. -/
def settingWord (off v : Nat) (s : State) : State :=
  let o := off - 0x200000
  if 0x1000 ≤ o ∧ o < 0x1400 then
    let p := (o - 0x1000) / 16
    let w := weirOf s p
    if o % 16 = 0 then commitWeir p v s
    else { s with traffic := { s.traffic with
      weir := tset {} s.traffic.weir p { w with held := tput w.held (o % 16 / 4) (weirFields (o % 16 / 4) v) } } }
  else if 0x4000 ≤ o ∧ o < 0x8000 then
    let k := (o - 0x4000) / 16
    let m := meterOf s k
    if o % 16 = 0 then commitMeter k v s
    else { s with traffic := { s.traffic with
      meter := tset {} s.traffic.meter k { m with held := tput m.held (o % 16 / 4) (meterFields (o % 16 / 4) v) } } }
  else if 0x50000 ≤ o ∧ o < 0x52000 ∧ o % 8 = 0 then commitEq ((o - 0x50000) / 8) v s
  else s

/-- A busy channel is aborted; what it has written by then is open between what stands and the lines begun (13 R305). -/
def dmaAbortNow (c : Nat) (s : State) : State :=
  match takeFree s with
  | (n, s) => dmaAbortAt c (Config.freeBits 43 n).toNat s

/-- Firmware's write of a channel register (13 R293-R299). ABORT acts before START. -/
def dmaWrite (c o v : Nat) (s : State) : State :=
  let x := dmaOf s c
  if o < 0x40 then setDma c { x with desc := put x.desc o (leBytes 4 v) } s
  else match o with
    | 0x40 =>
      let s := setDma c { x with funnelEn := bitAt v 2, startSrc := bits v 4 3, startArg := bits v 13 5, intEn := bitAt v 14 } s
      let s := if bitAt v 1 then dmaAbortNow c s else s
      if bitAt v 0 then dmaEvent c s else s
    | 0x44 => setDma c { x with done := x.done && !bitAt v 2, error := x.error && !bitAt v 3 } s
    | 0x50 => setDma c { x with pace := v } s
    | _ => s

/-- Firmware's write of RGN_UNIT_MODE (04 R96). -/
def modeWrite (r v : Nat) (s : State) : State := setMode r (bitAt v 0) s

/-- The effect of writing `v` to the word at `off` (R8). RO, RC and reserved words ignore it; the registers that only firmware writes ignore a
host. -/
def writeWord (who : Writer) (off v : Nat) (s : State) : State :=
  let fw := who == .firmware
  match dmaAt off with
  | some (c, o) => if fw then dmaWrite c o v s else s
  | none => match leafAt off with
    | some (id, true) => writeCauseEn id v s
    | some (id, false) => clearCause id v s
    | none =>
      if off = 0x10 then (match who with
        | .host rid => claimWrite rid v s
        | .firmware => s)
      else if 0x10000 ≤ off ∧ off < 0x20000 then catchWrite who (off - 0x10000) v s
      else if 0x20000 ≤ off ∧ off < 0x40000 then bmkWrite who (off - 0x20000) v s
      else if 0x40000 ≤ off ∧ off < 0x80000 then cfgBlockWrite (off - 0x40000) v s
      else if 0x200000 ≤ off ∧ off < 0x400000 then settingWord off v s
      else if fw && decide (0x1000000 ≤ off) && decide (off < 0x2000000) && off % 0x100000 == 0x8000 then
        modeWrite ((off - 0x1000000) / 0x100000) v s
      else s

/-- A write TLP to the request buffer (R433, R440). -/
def bufferWrite (o : Nat) (data : Bytes) (s : State) : State :=
  if s.cfg.busy then svcAnswer .discarded (svcBad s)
  else svcAnswer .written { s with cfg := { s.cfg with reqBuf := memWrite s.cfg.reqBuf o data } }

/-- A BAR0 write (R433, R434, R436, R440). -/
def barWrite (rid : BitVec 16) (t : Tlp) (s : State) : State :=
  if 2 ^ 26 ≤ t.offset then svcAnswer .noDecode s
  else match svcClaimGate rid true t.offset s with
    | (false, s) => s
    | (true, s) =>
      if inBuffer 0x50000 t.offset t.len && t.allEnables then bufferWrite (t.offset - 0x50000) (padTo t.len t.data) s
      else if isWord t then
        svcAnswer .written (if offsetDecoded t.offset s && offsetReachable t.offset s then writeWord (.host rid) t.offset (rd t.data 0 4) s else s)
      else svcAnswer .discarded (svcBad s)

/-- REGISTER_WRITE (R8). -/
def execRegisterWrite (t : Tlp) (s : State) : Host.Outcome State Fault Refusal :=
  .next (match t.who with
    | .firmware => if awake s && isWord t && !t.config && offsetReachable t.offset s then writeWord .firmware t.offset (rd t.data 0 4) s else s
    | .host rid => if t.config then cfgWriteAt t.offset (padTo t.len t.data) s else barWrite rid t s)

/-! ## Telemetry over I2C (20 R447) -/

/-- A register that I2C reads while the node is awake; in Benchmark-only, only the BMK block. -/
def i2cReadable (s : State) (off : Nat) : Bool :=
  let bmk := decide (0x20000 ≤ off) && decide (off < 0x40000)
  let net := off % 0x40000
  if s.pwr.mode = .bmkOnly then bmk
  else
    bmk || decide (off < 0x10000) || off == 0x40000 || (decide (0x40010 ≤ off) && decide (off < 0x40020)) ||
    (decide (0x89000 ≤ off) && decide (off < 0x99000)) ||
    (decide (0x400000 ≤ off) && decide (off < 0x500000) &&
      (net == 0 || net == 8 || net == 0x10 || net == 0x14 || (decide (0x300 ≤ net) && decide (net < 0x380)) ||
       (decide (0x400 ≤ net) && decide (net < 0x45C)) || (decide (0x800 ≤ net) && decide (net < 0x900)))) ||
    (decide (0x500000 ≤ off) && decide (off < 0x600000) && (net == 0 || net == 4 || (decide (0x400 ≤ net) && decide (net < 0x410)))) ||
    (decide (0x1000000 ≤ off) && decide (off < 0x2000000) &&
      (off % 0x100000 == 0 || off % 0x100000 == 4 || (decide (0x400 ≤ off % 0x100000) && decide (off % 0x100000 < 0x460))))

/-- One word of an I2C read, with the latch that I2C keeps apart. -/
def i2cWord (off : Nat) (s : State) : Nat × State :=
  if i2cReadable s off && !offsetReachable off s then
    match takeFree s with
    | (n, s) => ((Config.freeBits 32 n).toNat, s)
  else if i2cReadable s off then
    let v := (tlook s.svc.i2cHi off).getD (regWord s off)
    (v, if lowWord off then { s with svc := { s.svc with i2cHi := tput s.svc.i2cHi (off + 4) (regWord s (off + 4)) } } else s)
  else (2 ^ 32 - 1, s)

/-- `n` words from `off` on. -/
def i2cWords : Nat → Nat → State → Bytes × State
  | 0, _, s => ([], s)
  | n + 1, off, s =>
    let w := i2cWord off s
    let r := i2cWords n (off + 4) w.2
    (leBytes 4 w.1 ++ r.1, r.2)

/-- The 7-bit address of the I2C target: 0x58 plus the strap balls (R447). -/
def i2cAddress (s : State) : BitVec 7 := 0x58 + s.bmk.i2cAddr.setWidth 7

/-- How the target answers on I2C: whether it NACKed a byte that was written, and the bytes that were read. -/
def i2cEnd (nack : Bool) (answer : Bytes) (s : State) : State := { s with svc := { s.svc with i2cNack := nack, i2cAnswer := answer } }

/-- I2C_TRANSACTION (R447): a 4-byte offset is written to the target's address and bytes are read; a fifth byte is NACKed and changes
nothing. Another address is not the target's: it does not acknowledge, and gives no byte. -/
def execI2cTransaction (written : I2cWrite) (readLen : Nat) (s : State) : Host.Outcome State Fault Refusal :=
  .next (
    let off := rd written.data 0 4
    if s.pwr.mode ≠ .running ∧ s.pwr.mode ≠ .bmkOnly then s
    else if written.addr ≠ i2cAddress s then i2cEnd true [] s
    else if written.data.length < 4 ∨ off % 4 ≠ 0 then i2cEnd (decide (4 < written.data.length)) (List.replicate readLen 0xFF) s
    else
      let r := i2cWords ((readLen + 3) / 4) off s
      i2cEnd (decide (4 < written.data.length)) (r.1.take readLen) r.2)

end Sys2Proof.Machine
end

