-- ==== Sys2Proof/Machine/Redo.lean ====
section
/-! DEFINITION. The redo of interrupted channel-unit writes (04 R105). -/

namespace Sys2Proof.Machine

/-- A chunk's page is lost on this node: its sequence, or the users of a held base page (R105; 10 R236). -/
def chunkLost (a : Nat) (s : State) : State :=
  let own := ownerOf s a
  let s := baseLineLost a s
  match own with
  | some (k, _) => seqLost k s
  | none => s

/-- The chunks of an entry that are still those of the sequence that wrote them: storage that has gone to another since is not written again. -/
def ownedChunks (s : State) (j : Journal) : List (Nat × Bytes) :=
  j.chunks.filter fun x => j.slot.isNone || (ownerOf s x.1).map (·.1) == j.slot

/-- A held read whose redo failed ends with ST_INTERNAL (R105): a request, a DMA run (13 R304) or a migration at once; a message, a load or a copy of
firmware's when it is next taken. -/
def endHeld (ring seq : Nat) (h : HeldRead) (s : State) : State :=
  match h.who with
  | .lane n _ _ => endReq n stInternal s
  | .dma c => dmaMemFail c ring seq s
  | .mig key => (match tlook s.work.migs key with
    | some m => migFail (key / 1024) (key % 1024) m true s
    | none => s)
  | _ => let ch := chanOf s h.addr; setChan ch { chanSt s ch with held := (chanSt s ch).held ++ [{ h with failed := true }] } s

/-- The scratch copy of an entry cannot be read (R105): UNIT_REDO_FAILED; the command ends, the chunks' pages are lost, and the held reads end. -/
def redoLost (ch : Nat) (chunks : List Nat) (held : List HeldRead) (s : State) : State :=
  let own := match chunks.head?.bind (ownerOf s) with
    | none => []
    | some (sl, ti) => [(20, 4, sl), (32, 2, (seqOf s sl).tenant), (34, 1, ti / 4)]
  let s := raise (leafUnitRedoFailed (ch / 12)) ([(16, 1, ch % 12), (17, 1, ch % 12)] ++ own) s
  let seq := logSeq s (ringRegion (ch / 12))
  let s := match (chanSt s ch).run with
    | some r => cmdEnd ch r.cmd stInternal (setChan ch { chanSt s ch with run := none } s)
    | none => s
  let s := held.foldl (fun s h => endHeld (ringRegion (ch / 12)) seq h s) s
  chunks.foldl (fun s a => chunkLost a s) s

/-- JOURNAL_REDO (R105): firmware writes the entry again from scratch and closes it; with the scratch unreadable, the page is lost. The
reads held for the entry are issued again, or end. -/
def execJournalRedo (ch : Fin 192) (index : Nat) (scratchOk : Bool) (s : State) : Host.Outcome State Fault Refusal :=
  .next (
    match tlook (chanSt s ch).journal index with
    | none => s
    | some j =>
      if j.st ≠ .abandoned ∨ awake s = false then s
      else
        let mine := fun (h : HeldRead) => j.chunks.any fun x => x.1 == h.addr
        let held := (chanSt s ch).held.filter mine
        let s := setJournal ch index { j with st := .closed } s
        let s := setChan ch { chanSt s ch with held := (chanSt s ch).held.filter fun h => !mine h } s
        if scratchOk then writeChunks (ownedChunks s j) s else redoLost ch ((ownedChunks s j).map (·.1)) held s)

end Sys2Proof.Machine
end

