-- ==== Sys2Proof/Machine/Dispatch.lean ====
section
/-! DEFINITION. One arm per command of spec/opcode_table.json: each calls that command's own meaning. -/

namespace Sys2Proof.Machine

def exec (i : Instr) (s : State) : Host.Outcome State Fault Refusal :=
  match i with
  | .powerOnReset => Sys2Proof.Machine.execPowerOnReset s
  | .aonResetRelease straps => Sys2Proof.Machine.execAonResetRelease straps s
  | .mainReset cause => Sys2Proof.Machine.execMainReset cause s
  | .resetRelease env => Sys2Proof.Machine.execResetRelease env s
  | .thermalTrip sensor temp => Sys2Proof.Machine.execThermalTrip sensor temp s
  | .railFault rail mv => Sys2Proof.Machine.execRailFault rail mv s
  | .avsTransaction r code failures => Sys2Proof.Machine.execAvsTransaction r code failures s
  | .refclkStop clk => Sys2Proof.Machine.execRefclkStop clk s
  | .xtalStop => Sys2Proof.Machine.execXtalStop s
  | .pllLockLoss r => Sys2Proof.Machine.execPllLockLoss r s
  | .spineStationFault st parity => Sys2Proof.Machine.execSpineStationFault st parity s
  | .dieLoss die => Sys2Proof.Machine.execDieLoss die s
  | .sleep => Sys2Proof.Machine.execSleep s
  | .sleepQuiesced => Sys2Proof.Machine.execSleepQuiesced s
  | .sleepReqAssert => Sys2Proof.Machine.execSleepReqAssert s
  | .wakeComparatorFire which sample => Sys2Proof.Machine.execWakeComparatorFire which sample s
  | .thermalSample r temp => Sys2Proof.Machine.execThermalSample r temp s
  | .sideLinkCompare pair mvLow mvHigh => Sys2Proof.Machine.execSideLinkCompare pair mvLow mvHigh s
  | .skewClampApply r => Sys2Proof.Machine.execSkewClampApply r s
  | .supplySkewTimeout pair => Sys2Proof.Machine.execSupplySkewTimeout pair s
  | .clampReleaseStep r => Sys2Proof.Machine.execClampReleaseStep r s
  | .dvfsPointChange r point => Sys2Proof.Machine.execDvfsPointChange r point s
  | .supplyRampEnd r => Sys2Proof.Machine.execSupplyRampEnd r s
  | .powerMeasure watts => Sys2Proof.Machine.execPowerMeasure watts s
  | .quietGate r => Sys2Proof.Machine.execQuietGate r s
  | .quietUngate r => Sys2Proof.Machine.execQuietUngate r s
  | .g7Retrack ch => Sys2Proof.Machine.execG7Retrack ch s
  | .refpbDue ch bankReads => Sys2Proof.Machine.execRefpbDue ch bankReads s
  | .deviceTempRead dev celsius => Sys2Proof.Machine.execDeviceTempRead dev celsius s
  | .linkCrcFail x => Sys2Proof.Machine.execLinkCrcFail x s
  | .channelRetrainDone ch ok => Sys2Proof.Machine.execChannelRetrainDone ch ok s
  | .scrubPass r => Sys2Proof.Machine.execScrubPass r s
  | .unitModeCompute r => Sys2Proof.Machine.execUnitModeCompute r s
  | .unitModeNormal r => Sys2Proof.Machine.execUnitModeNormal r s
  | .appendTail ch => Sys2Proof.Machine.execAppendTail ch s
  | .requant ch => Sys2Proof.Machine.execRequant ch s
  | .reencode ch => Sys2Proof.Machine.execReencode ch s
  | .compact ch => Sys2Proof.Machine.execCompact ch s
  | .deltaDecode ch => Sys2Proof.Machine.execDeltaDecode ch s
  | .scrub ch => Sys2Proof.Machine.execScrub ch s
  | .atomStart ch readsWaiting => Sys2Proof.Machine.execAtomStart ch readsWaiting s
  | .atomEnd ch outcome lcWaiting => Sys2Proof.Machine.execAtomEnd ch outcome lcWaiting s
  | .journalRedo ch index scratchOk => Sys2Proof.Machine.execJournalRedo ch index scratchOk s
  | .leafUpdate job => Sys2Proof.Machine.execLeafUpdate job s
  | .oldFrameFree frame => Sys2Proof.Machine.execOldFrameFree frame s
  | .shadowCheck r badShadow => Sys2Proof.Machine.execShadowCheck r badShadow s
  | .seqOpen inst => Sys2Proof.Machine.execSeqOpen inst s
  | .tensorReg inst => Sys2Proof.Machine.execTensorReg inst s
  | .setFingerprint inst => Sys2Proof.Machine.execSetFingerprint inst s
  | .seqRelease inst => Sys2Proof.Machine.execSeqRelease inst s
  | .seqFree slot => Sys2Proof.Machine.execSeqFree slot s
  | .dirSearch inst => Sys2Proof.Machine.execDirSearch inst s
  | .migrate inst => Sys2Proof.Machine.execMigrate inst s
  | .migrationEnd ten outcome => Sys2Proof.Machine.execMigrationEnd ten outcome s
  | .tierHint inst => Sys2Proof.Machine.execTierHint inst s
  | .rewriteRequant inst => Sys2Proof.Machine.execRewriteRequant inst s
  | .rewriteDelta inst => Sys2Proof.Machine.execRewriteDelta inst s
  | .deltaPageConvert ten => Sys2Proof.Machine.execDeltaPageConvert ten s
  | .autoDemote r => Sys2Proof.Machine.execAutoDemote r s
  | .backingDrop => Sys2Proof.Machine.execBackingDrop s
  | .stagingWriteback page => Sys2Proof.Machine.execStagingWriteback page s
  | .stripeCopy page => Sys2Proof.Machine.execStripeCopy page s
  | .tierEventPoll port corrected => Sys2Proof.Machine.execTierEventPoll port corrected s
  | .cxlTimeout port => Sys2Proof.Machine.execCxlTimeout port s
  | .tierLinkLoss port => Sys2Proof.Machine.execTierLinkLoss port s
  | .perstRetry port => Sys2Proof.Machine.execPerstRetry port s
  | .tierLinkTrained port train => Sys2Proof.Machine.execTierLinkTrained port train s
  | .query inst => Sys2Proof.Machine.execQuery inst s
  | .confirm req => Sys2Proof.Machine.execConfirm req s
  | .confirmArrival req r => Sys2Proof.Machine.execConfirmArrival req r s
  | .contextAllocate req r => Sys2Proof.Machine.execContextAllocate req r s
  | .pageRead req r lane outcome => Sys2Proof.Machine.execPageRead req r lane outcome s
  | .tileCheck req r lane outcome => Sys2Proof.Machine.execTileCheck req r lane outcome s
  | .regionFold req r => Sys2Proof.Machine.execRegionFold req r s
  | .netFoldEmit req => Sys2Proof.Machine.execNetFoldEmit req s
  | .preempt req r block => Sys2Proof.Machine.execPreempt req r block s
  | .contextResume r block => Sys2Proof.Machine.execContextResume r block s
  | .append inst => Sys2Proof.Machine.execAppend inst s
  | .appendFillStep app => Sys2Proof.Machine.execAppendFillStep app s
  | .appendHeldRelease app => Sys2Proof.Machine.execAppendHeldRelease app s
  | .commit f => Sys2Proof.Machine.execCommit f s
  | .rollback f => Sys2Proof.Machine.execRollback f s
  | .shift f => Sys2Proof.Machine.execShift f s
  | .compactionStart slot => Sys2Proof.Machine.execCompactionStart slot s
  | .commitFinalStep slot => Sys2Proof.Machine.execCommitFinalStep slot s
  | .shiftComplete slot => Sys2Proof.Machine.execShiftComplete slot s
  | .jxWrite f => Sys2Proof.Machine.execJxWrite f s
  | .jxWriteImm f => Sys2Proof.Machine.execJxWriteImm f s
  | .jxRead x => Sys2Proof.Machine.execJxRead x s
  | .jxCas x => Sys2Proof.Machine.execJxCas x s
  | .jxResponseReceive f => Sys2Proof.Machine.execJxResponseReceive f s
  | .jxAckReceive f => Sys2Proof.Machine.execJxAckReceive f s
  | .jxNakReceive f => Sys2Proof.Machine.execJxNakReceive f s
  | .nonJexusFrame port kind => Sys2Proof.Machine.execNonJexusFrame port kind s
  | .ptpMessage die msg offset => Sys2Proof.Machine.execPtpMessage die msg offset s
  | .ptpLocked die => Sys2Proof.Machine.execPtpLocked die s
  | .ptpHoldover die => Sys2Proof.Machine.execPtpHoldover die s
  | .ptpUnlock die errorNs => Sys2Proof.Machine.execPtpUnlock die errorNs s
  | .ethLinkChange port up => Sys2Proof.Machine.execEthLinkChange port up s
  | .ackCoalesceExpire endpoint => Sys2Proof.Machine.execAckCoalesceExpire endpoint s
  | .jxRetransmitTimer msgId pkt => Sys2Proof.Machine.execJxRetransmitTimer msgId pkt s
  | .jxMsgExpire msgId => Sys2Proof.Machine.execJxMsgExpire msgId s
  | .jxNakBackoffExpire msgId => Sys2Proof.Machine.execJxNakBackoffExpire msgId s
  | .trackerExpire src msgId => Sys2Proof.Machine.execTrackerExpire src msgId s
  | .filterExpire src msgId => Sys2Proof.Machine.execFilterExpire src msgId s
  | .pathCoolExpire path => Sys2Proof.Machine.execPathCoolExpire path s
  | .congWindowGrow endpoint => Sys2Proof.Machine.execCongWindowGrow endpoint s
  | .jxSendResume die => Sys2Proof.Machine.execJxSendResume die s
  | .sluicePost entry => Sys2Proof.Machine.execSluicePost entry s
  | .sluiceCancel entry => Sys2Proof.Machine.execSluiceCancel entry s
  | .sluiceRearm entry => Sys2Proof.Machine.execSluiceRearm entry s
  | .instanceStart die => Sys2Proof.Machine.execInstanceStart die s
  | .sluiceEntryFree entry => Sys2Proof.Machine.execSluiceEntryFree entry s
  | .combine inst => Sys2Proof.Machine.execCombine inst s
  | .combineTimeout entry parity => Sys2Proof.Machine.execCombineTimeout entry parity s
  | .forward inst => Sys2Proof.Machine.execForward inst s
  | .signal inst => Sys2Proof.Machine.execSignal inst s
  | .programInstall inst => Sys2Proof.Machine.execProgramInstall inst s
  | .programRemove inst => Sys2Proof.Machine.execProgramRemove inst s
  | .programSlotFree slot => Sys2Proof.Machine.execProgramSlotFree slot s
  | .windowOpen inst => Sys2Proof.Machine.execWindowOpen inst s
  | .windowRevoke inst => Sys2Proof.Machine.execWindowRevoke inst s
  | .windowFree id => Sys2Proof.Machine.execWindowFree id s
  | .dmaStart src => Sys2Proof.Machine.execDmaStart src s
  | .dmaAbort c written => Sys2Proof.Machine.execDmaAbort c written s
  | .dmaPaceTick c => Sys2Proof.Machine.execDmaPaceTick c s
  | .dmaRunComplete x => Sys2Proof.Machine.execDmaRunComplete x s
  | .dmaRunError c err written => Sys2Proof.Machine.execDmaRunError c err written s
  | .timerComparatorFire n => Sys2Proof.Machine.execTimerComparatorFire n s
  | .trafficWeirCommit rid p word0 => Sys2Proof.Machine.execTrafficWeirCommit rid p word0 s
  | .trafficMeterCommit rid slot word0 => Sys2Proof.Machine.execTrafficMeterCommit rid slot word0 s
  | .trafficEqCommit rid q word0 => Sys2Proof.Machine.execTrafficEqCommit rid q word0 s
  | .egressTransmit port => Sys2Proof.Machine.execEgressTransmit port s
  | .queueSample die => Sys2Proof.Machine.execQueueSample die s
  | .tenantAdmit => Sys2Proof.Machine.execTenantAdmit s
  | .tenantRemove => Sys2Proof.Machine.execTenantRemove s
  | .tenantRetire slot => Sys2Proof.Machine.execTenantRetire slot s
  | .tenantZeroise slot => Sys2Proof.Machine.execTenantZeroise slot s
  | .keyInstall => Sys2Proof.Machine.execKeyInstall s
  | .keyActivate holder => Sys2Proof.Machine.execKeyActivate holder s
  | .keyPreviousDrop holder => Sys2Proof.Machine.execKeyPreviousDrop holder s
  | .keyAge slot => Sys2Proof.Machine.execKeyAge slot s
  | .attest readBack => Sys2Proof.Machine.execAttest readBack s
  | .attestBases => Sys2Proof.Machine.execAttestBases s
  | .baseListDiscard tenant => Sys2Proof.Machine.execBaseListDiscard tenant s
  | .hssTreeBuild tree => Sys2Proof.Machine.execHssTreeBuild tree s
  | .svnCommit => Sys2Proof.Machine.execSvnCommit s
  | .sealedScrub r ok => Sys2Proof.Machine.execSealedScrub r ok s
  | .datumPropose comp => Sys2Proof.Machine.execDatumPropose comp s
  | .datumPrepare f => Sys2Proof.Machine.execDatumPrepare f s
  | .datumAccept f => Sys2Proof.Machine.execDatumAccept f s
  | .datumCommit f => Sys2Proof.Machine.execDatumCommit f s
  | .datumSubmit src => Sys2Proof.Machine.execDatumSubmit src s
  | .datumResponse f => Sys2Proof.Machine.execDatumResponse f s
  | .datumRoundTimeout comp => Sys2Proof.Machine.execDatumRoundTimeout comp s
  | .datumBackoffExpire comp => Sys2Proof.Machine.execDatumBackoffExpire comp s
  | .stepMarker f => Sys2Proof.Machine.execStepMarker f s
  | .mapRead f => Sys2Proof.Machine.execMapRead f s
  | .mapFetchResponse f => Sys2Proof.Machine.execMapFetchResponse f s
  | .mapNotice f => Sys2Proof.Machine.execMapNotice f s
  | .probeTimer => Sys2Proof.Machine.execProbeTimer s
  | .probe f => Sys2Proof.Machine.execProbe f s
  | .probeMiss node => Sys2Proof.Machine.execProbeMiss node s
  | .withdraw f => Sys2Proof.Machine.execWithdraw f s
  | .loadOpen f => Sys2Proof.Machine.execLoadOpen f s
  | .loadData f => Sys2Proof.Machine.execLoadData f s
  | .loadDone f => Sys2Proof.Machine.execLoadDone f s
  | .loadResponse f => Sys2Proof.Machine.execLoadResponse f s
  | .nodeDrain => Sys2Proof.Machine.execNodeDrain s
  | .heartbeatMiss => Sys2Proof.Machine.execHeartbeatMiss s
  | .ctlStandbyLost => Sys2Proof.Machine.execCtlStandbyLost s
  | .causeEnWrite who src value => Sys2Proof.Machine.execCauseEnWrite who src value s
  | .catchCtrlWrite who value => Sys2Proof.Machine.execCatchCtrlWrite who value s
  | .catchSrcCfgWrite who src value => Sys2Proof.Machine.execCatchSrcCfgWrite who src value s
  | .catchTgtClaim who t => Sys2Proof.Machine.execCatchTgtClaim who t s
  | .catchTgtComplete who t id => Sys2Proof.Machine.execCatchTgtComplete who t id s
  | .catchOfferTimeout t => Sys2Proof.Machine.execCatchOfferTimeout t s
  | .barrierArm b mask => Sys2Proof.Machine.execBarrierArm b mask s
  | .barrierArrive b part => Sys2Proof.Machine.execBarrierArrive b part s
  | .barrierRelease b => Sys2Proof.Machine.execBarrierRelease b s
  | .chipClaimOwn rid => Sys2Proof.Machine.execChipClaimOwn rid s
  | .chipClaimRelease rid => Sys2Proof.Machine.execChipClaimRelease rid s
  | .svcLinkReset kind => Sys2Proof.Machine.execSvcLinkReset kind s
  | .i2cTransaction written readLen => Sys2Proof.Machine.execI2cTransaction written readLen s
  | .nvmRead => Sys2Proof.Machine.execNvmRead s
  | .nvmWrite => Sys2Proof.Machine.execNvmWrite s
  | .chipReset => Sys2Proof.Machine.execChipReset s
  | .datumRead => Sys2Proof.Machine.execDatumRead s
  | .seqRead => Sys2Proof.Machine.execSeqRead s
  | .placeRead => Sys2Proof.Machine.execPlaceRead s
  | .satRead => Sys2Proof.Machine.execSatRead s
  | .satClear => Sys2Proof.Machine.execSatClear s
  | .windowRead => Sys2Proof.Machine.execWindowRead s
  | .sluiceRead => Sys2Proof.Machine.execSluiceRead s
  | .action => Sys2Proof.Machine.execAction s
  | .fwSluice => Sys2Proof.Machine.execFwSluice s
  | .rcRead t => Sys2Proof.Machine.execRcRead t s
  | .registerWrite t => Sys2Proof.Machine.execRegisterWrite t s
  | .jtagTapReset => Sys2Proof.Machine.execJtagTapReset s
  | .idcode => Sys2Proof.Machine.execIdcode s
  | .samplePreload => Sys2Proof.Machine.execSamplePreload s
  | .extest => Sys2Proof.Machine.execExtest s
  | .extestPulse => Sys2Proof.Machine.execExtestPulse s
  | .extestTrain => Sys2Proof.Machine.execExtestTrain s
  | .highz => Sys2Proof.Machine.execHighz s
  | .clamp => Sys2Proof.Machine.execClamp s
  | .bypass => Sys2Proof.Machine.execBypass s
  | .immediateCommandComplete => Sys2Proof.Machine.execImmediateCommandComplete s
  | .programInstallComplete tenant => Sys2Proof.Machine.execProgramInstallComplete tenant s
  | .romHoldEnd env => Sys2Proof.Machine.execRomHoldEnd env s

end Sys2Proof.Machine
end

