-- ==== Sys2Proof/Safety.lean ====
section
/-! DEFINITION. What a sound state of the block is, in the terms the statements use: predicates that every command keeps. -/

namespace Sys2Proof.Machine

/-- The four memories are in their canonical form (log 4). -/
def memOk (s : State) : Bool :=
  Memory.wf s.mem.fast && Memory.wf s.mem.deep && Memory.wf s.mem.stack && Memory.wf s.mem.nvm

/-- A target's stack nests strictly (19 R418): priorities fall from the top down, and none exceeds 15. -/
def nested : List (Nat × Nat) → Bool
  | [] => true
  | [a] => decide (a.2 ≤ 15)
  | a :: b :: rest => decide (a.2 ≤ 15) && decide (b.2 < a.2) && nested (b :: rest)

/-- The catchment is sound (19 R417, R418): priorities lie in 0-15, every offer stands at a target that may take it, and
every stack nests strictly. -/
def catchOk (c : Catchment) : Bool :=
  c.src.all (fun e => decide (e.2.prio ≤ 15)) && c.offer.all (fun e => eligible c e.2.src e.1) && c.stack.all (fun e => nested e.2)

/-- Every record of every ring stands in one of the ring's 256 slots and has 64 bytes (19 R428). -/
def ringsOk (g : Logs) : Bool := g.rings.all fun e => e.2.all fun r => decide (r.1 < 256) && decide (r.2.length = 64)

/-- OWNER_RID is 0 while the service function is unclaimed (20 R435). -/
def claimOk (v : Svc) : Bool := v.owned || v.ownerRid == 0

/-- The pins agree with the power state (18 Tables 18.7, 18.8; 21 R457, R465): AON_RESET_N is low, and the Benchmark domain stopped,
exactly in power-on reset; RESET_N is high while the main domains run; a JTAG instruction holds the node only in main reset with RESET_N
high. -/
def pinsOk (s : State) : Bool :=
  (match s.pwr.mode with
    | .aonReset => !s.pwr.aonResetN && !s.bmk.counting
    | .mainReset => s.pwr.aonResetN && s.bmk.counting
    | .running => s.pwr.aonResetN && s.bmk.counting && s.pwr.resetN
    | .bmkOnly => s.pwr.aonResetN && s.bmk.counting) &&
  (!s.pwr.extestHold || (s.pwr.mode == .mainReset && s.pwr.resetN))

/-- Byte `x` of the fast tier lies in no journal entry of an atom that runs, which its unit marks when the atom ends (04 R104). -/
def offJournals (s : State) (x : Nat) : Bool :=
  s.chan.all fun e => match e.2.atom with
    | none => true
    | some a => decide (x < journalAddr e.1 a.entry) || decide (journalAddr e.1 a.entry + 64 ≤ x)

/-- A state is sound. -/
def sound (s : State) : Bool := memOk s && catchOk s.catchment && ringsOk s.log && claimOk s.svc && pinsOk s

/-- From `a` to `b` no fuse is unblown (00 R1, 17 R380): the grade and the owner keys stay, the committed versions never fall. -/
def fusesKept (a b : Fuses) : Prop :=
  b.grade = a.grade ∧ b.ownerKey = a.ownerKey ∧ b.ownerRevoked = a.ownerRevoked ∧ a.fwSvn ≤ b.fwSvn ∧ a.cfgSvn ≤ b.cfgSvn


/-! ## What a command may change -/

/-- The parts of the state, one for each field of `State`. -/
inductive Part where
  | bmk | pwr | cfg | svc | catchment | log | cnt | barrier | rgn | pair | blk | cap | tier | node | ctl | jtag
  | fuse | mem | sto | dir | tlb | chan | work | prog | installs | req | nextReq | readLog | key | jx | slu | traffic
  | datum | sec | dma | saved | free | resets | pending
  deriving DecidableEq, Repr

/-- Part `p` of `t` is that of `s`. -/
def samePart (p : Part) (s t : State) : Prop :=
  match p with
  | .bmk => t.bmk = s.bmk
  | .pwr => t.pwr = s.pwr
  | .cfg => t.cfg = s.cfg
  | .svc => t.svc = s.svc
  | .catchment => t.catchment = s.catchment
  | .log => t.log = s.log
  | .cnt => t.cnt = s.cnt
  | .barrier => t.barrier = s.barrier
  | .rgn => t.rgn = s.rgn
  | .pair => t.pair = s.pair
  | .blk => t.blk = s.blk
  | .cap => t.cap = s.cap
  | .tier => t.tier = s.tier
  | .node => t.node = s.node
  | .ctl => t.ctl = s.ctl
  | .jtag => t.jtag = s.jtag
  | .fuse => t.fuse = s.fuse
  | .mem => t.mem = s.mem
  | .sto => t.sto = s.sto
  | .dir => t.dir = s.dir
  | .tlb => t.tlb = s.tlb
  | .chan => t.chan = s.chan
  | .work => t.work = s.work
  | .prog => t.prog = s.prog
  | .installs => t.installs = s.installs
  | .req => t.req = s.req
  | .nextReq => t.nextReq = s.nextReq
  | .readLog => t.readLog = s.readLog
  | .key => t.key = s.key
  | .jx => t.jx = s.jx
  | .slu => t.slu = s.slu
  | .traffic => t.traffic = s.traffic
  | .datum => t.datum = s.datum
  | .sec => t.sec = s.sec
  | .dma => t.dma = s.dma
  | .saved => t.saved = s.saved
  | .free => t.free = s.free
  | .resets => t.resets = s.resets
  | .pending => t.pending = s.pending

/-- The parts that a command may change. -/
def touches (c : Instr) : List Part :=
  match c with
  | .powerOnReset => [.bmk, .pwr, .cfg, .svc, .catchment, .log, .cnt, .barrier, .rgn, .pair, .blk, .cap, .tier, .node,
      .ctl, .jtag, .mem, .sto, .dir, .tlb, .chan, .work, .prog, .installs, .req, .nextReq, .readLog, .key, .jx, .slu,
      .traffic, .datum, .sec, .dma, .saved, .resets]
  | .aonResetRelease _ => [.bmk, .pwr]
  | .mainReset _ => [.bmk, .pwr, .cfg, .svc, .catchment, .log, .cnt, .barrier, .rgn, .pair, .blk, .cap, .tier, .node,
      .ctl, .mem, .sto, .dir, .tlb, .chan, .work, .prog, .installs, .req, .nextReq, .readLog, .key, .jx, .slu, .traffic,
      .datum, .sec, .dma, .saved, .resets]
  | .resetRelease _ => [.bmk, .pwr, .cfg, .svc, .catchment, .log, .cnt, .barrier, .rgn, .pair, .blk, .cap, .tier, .node,
      .ctl, .mem, .sto, .dir, .tlb, .chan, .work, .prog, .installs, .req, .nextReq, .readLog, .key, .jx, .slu, .traffic,
      .datum, .sec, .dma, .saved, .free, .resets]
  | .thermalTrip _ _ => [.pwr, .cfg, .catchment, .log, .rgn, .cap, .node, .ctl, .mem, .chan, .work, .installs, .req,
      .jx, .slu, .datum, .dma]
  | .railFault _ _ => [.bmk, .pwr, .cfg, .svc, .catchment, .log, .cnt, .barrier, .rgn, .pair, .blk, .cap, .tier, .node,
      .ctl, .jtag, .mem, .sto, .dir, .tlb, .chan, .work, .prog, .installs, .req, .nextReq, .readLog, .key, .jx, .slu,
      .traffic, .datum, .sec, .dma, .saved, .resets]
  | .avsTransaction _ _ _ => [.pwr, .cfg, .catchment, .log, .cnt, .barrier, .rgn, .node, .ctl, .mem, .sto, .dir, .chan,
      .work, .prog, .installs, .req, .jx, .slu, .datum, .dma]
  | .refclkStop _ => [.pwr, .cfg, .svc, .catchment, .log, .cnt, .tier, .node, .ctl, .mem, .sto, .dir, .chan, .work,
      .prog, .installs, .req, .jx, .slu, .datum, .dma]
  | .xtalStop => [.bmk]
  | .pllLockLoss _ => [.pwr, .cfg, .catchment, .log, .cnt, .barrier, .rgn, .node, .ctl, .mem, .sto, .dir, .chan, .work,
      .prog, .installs, .req, .jx, .slu, .datum, .dma]
  | .spineStationFault _ _ => [.pwr, .cfg, .catchment, .log, .node, .ctl, .mem, .chan, .work, .installs, .req, .jx,
      .slu, .datum, .dma]
  | .dieLoss _ => [.pwr, .cfg, .catchment, .log, .cnt, .barrier, .tier, .node, .ctl, .mem, .sto, .dir, .chan, .work,
      .prog, .installs, .req, .jx, .slu, .datum, .sec, .dma]
  | .sleep => [.pwr, .cfg]
  | .sleepQuiesced => [.pwr, .cfg, .mem, .saved, .free]
  | .sleepReqAssert => [.bmk, .pwr, .cfg, .svc, .catchment, .log, .cnt, .barrier, .rgn, .pair, .blk, .cap, .tier, .node,
      .ctl, .mem, .sto, .dir, .tlb, .chan, .work, .prog, .installs, .req, .nextReq, .readLog, .key, .jx, .slu, .traffic,
      .datum, .sec, .dma, .saved, .resets]
  | .wakeComparatorFire _ _ => [.bmk, .pwr, .cfg, .svc, .catchment, .log, .cnt, .barrier, .rgn, .pair, .blk, .cap,
      .tier, .node, .ctl, .mem, .sto, .dir, .tlb, .chan, .work, .prog, .installs, .req, .nextReq, .readLog, .key, .jx,
      .slu, .traffic, .datum, .sec, .dma, .saved, .resets]
  | .thermalSample _ _ => [.catchment, .log, .rgn, .pair]
  | .sideLinkCompare _ _ _ => [.catchment, .pair]
  | .skewClampApply _ => [.catchment, .log, .rgn, .pair]
  | .supplySkewTimeout _ => [.pwr, .cfg, .catchment, .log, .cnt, .barrier, .rgn, .node, .ctl, .mem, .sto, .dir, .chan,
      .work, .prog, .installs, .req, .jx, .slu, .datum, .dma]
  | .clampReleaseStep _ => [.rgn]
  | .dvfsPointChange _ _ => [.catchment, .log, .rgn, .pair]
  | .supplyRampEnd _ => [.catchment, .log, .cnt, .rgn, .pair, .dma]
  | .powerMeasure _ => [.catchment, .log, .rgn, .pair, .cap]
  | .quietGate _ => [.rgn]
  | .quietUngate _ => [.catchment, .log, .cnt, .rgn, .pair, .dma]
  | .g7Retrack _ => [.chan]
  | .refpbDue _ _ => [.chan]
  | .deviceTempRead _ _ => [.catchment, .log, .chan]
  | .linkCrcFail _ => [.catchment, .log, .cnt, .mem, .chan]
  | .channelRetrainDone _ _ => [.pwr, .cfg, .catchment, .log, .cnt, .barrier, .rgn, .node, .ctl, .mem, .sto, .dir,
      .chan, .work, .prog, .installs, .req, .jx, .slu, .datum, .dma]
  | .scrubPass _ => [.rgn, .chan, .work]
  | .unitModeCompute _ => [.rgn]
  | .unitModeNormal _ => [.rgn]
  | .appendTail _ => [.cfg, .catchment, .log, .cnt, .sto, .dir, .chan, .work, .prog, .jx, .slu, .datum]
  | .requant _ => [.cfg, .catchment, .log, .cnt, .sto, .dir, .chan, .work, .prog, .jx, .slu, .datum]
  | .reencode _ => [.cfg, .catchment, .log, .cnt, .sto, .dir, .chan, .work, .prog, .jx, .slu, .datum]
  | .compact _ => [.cfg, .catchment, .log, .cnt, .sto, .dir, .chan, .work, .prog, .jx, .slu, .datum]
  | .deltaDecode _ => [.cfg, .catchment, .log, .cnt, .sto, .dir, .chan, .work, .prog, .jx, .slu, .datum]
  | .scrub _ => [.cfg, .catchment, .log, .cnt, .sto, .dir, .chan, .work, .prog, .jx, .slu, .datum]
  | .atomStart _ _ => [.cfg, .catchment, .log, .cnt, .rgn, .mem, .sto, .dir, .chan, .work, .prog, .key, .jx, .slu,
      .datum]
  | .atomEnd _ _ _ => [.cfg, .catchment, .log, .cnt, .rgn, .mem, .sto, .dir, .chan, .work, .prog, .jx, .slu, .datum]
  | .journalRedo _ _ _ => [.cfg, .catchment, .log, .cnt, .rgn, .mem, .sto, .dir, .chan, .work, .prog, .req, .jx, .slu,
      .datum, .dma]
  | .leafUpdate _ => [.cfg, .catchment, .log, .cnt, .rgn, .mem, .sto, .dir, .tlb, .chan, .work, .prog, .jx, .slu,
      .datum, .free]
  | .oldFrameFree _ => [.sto]
  | .shadowCheck _ _ => [.catchment, .log, .cnt, .dir, .chan, .work, .jx, .datum]
  | .seqOpen _ => [.cfg, .catchment, .log, .cnt, .mem, .sto, .dir, .chan, .jx, .slu, .datum]
  | .tensorReg _ => [.cfg, .catchment, .log, .cnt, .mem, .sto, .dir, .chan, .key, .jx, .slu, .datum]
  | .setFingerprint _ => [.cfg, .catchment, .log, .cnt, .dir, .chan, .jx, .slu, .datum]
  | .seqRelease _ => [.cfg, .catchment, .log, .cnt, .dir, .chan, .jx, .slu, .datum]
  | .seqFree _ => [.catchment, .log, .node, .sto, .dir, .tlb, .work, .req, .jx]
  | .dirSearch _ => [.cfg, .catchment, .log, .cnt, .dir, .chan, .jx, .slu, .datum]
  | .migrate _ => [.cfg, .catchment, .log, .cnt, .mem, .sto, .dir, .chan, .work, .jx, .slu, .datum]
  | .migrationEnd _ _ => [.pwr, .cfg, .catchment, .log, .cnt, .tier, .mem, .sto, .dir, .chan, .work, .prog, .req, .jx,
      .slu, .datum, .dma]
  | .tierHint _ => [.cfg, .catchment, .log, .cnt, .dir, .chan, .key, .jx, .slu, .datum]
  | .rewriteRequant _ => [.cfg, .catchment, .log, .cnt, .rgn, .mem, .sto, .dir, .tlb, .chan, .work, .prog, .jx, .slu,
      .datum, .free]
  | .rewriteDelta _ => [.cfg, .catchment, .log, .cnt, .rgn, .mem, .sto, .dir, .tlb, .chan, .work, .prog, .jx, .slu,
      .datum, .free]
  | .deltaPageConvert _ => [.cfg, .catchment, .log, .cnt, .rgn, .mem, .sto, .dir, .tlb, .chan, .work, .prog, .jx, .slu,
      .datum, .free]
  | .autoDemote _ => [.catchment, .log, .cnt, .mem, .sto, .dir, .work]
  | .backingDrop => [.cnt, .sto, .dir]
  | .stagingWriteback _ => [.catchment, .log, .cnt, .mem, .sto, .dir, .chan, .jx, .datum, .free]
  | .stripeCopy _ => [.catchment, .log, .cnt, .mem, .sto, .dir, .tlb, .chan, .jx, .datum, .free]
  | .tierEventPoll _ _ => [.catchment, .log, .cnt]
  | .cxlTimeout _ => [.pwr, .cfg, .catchment, .log, .cnt, .tier, .sto, .dir, .chan, .work, .prog, .req, .jx, .slu,
      .datum, .dma]
  | .tierLinkLoss _ => [.pwr, .cfg, .catchment, .log, .cnt, .tier, .sto, .dir, .chan, .work, .prog, .req, .jx, .slu,
      .datum, .dma]
  | .perstRetry _ => [.pwr, .tier]
  | .tierLinkTrained _ _ => [.catchment, .log, .cnt, .tier, .sto, .dir]
  | .query _ => [.cfg, .catchment, .log, .cnt, .dir, .chan, .prog, .req, .nextReq, .jx, .slu, .datum]
  | .confirm _ => [.cfg, .catchment, .log, .cnt, .dir, .chan, .prog, .req, .nextReq, .jx, .slu, .datum]
  | .confirmArrival _ _ => [.cnt, .req]
  | .contextAllocate _ _ => [.cnt, .rgn, .req, .traffic]
  | .pageRead _ _ _ _ => [.pwr, .cfg, .catchment, .log, .cnt, .barrier, .rgn, .tier, .node, .ctl, .mem, .sto, .dir,
      .tlb, .chan, .work, .prog, .installs, .req, .readLog, .jx, .slu, .traffic, .datum, .dma]
  | .tileCheck _ _ _ _ => [.pwr, .cfg, .catchment, .log, .cnt, .barrier, .rgn, .blk, .node, .ctl, .mem, .sto, .dir,
      .chan, .work, .prog, .installs, .req, .jx, .slu, .traffic, .datum, .dma, .free]
  | .regionFold _ _ => [.cnt, .req]
  | .netFoldEmit _ => [.cfg, .catchment, .log, .cnt, .dir, .chan, .prog, .req, .jx, .slu, .datum]
  | .preempt _ _ _ => [.catchment, .log, .cnt, .req]
  | .contextResume _ _ => [.cnt, .req, .traffic]
  | .append _ => [.cfg, .catchment, .log, .cnt, .rgn, .mem, .sto, .dir, .tlb, .chan, .work, .prog, .req, .key, .jx,
      .slu, .datum, .free]
  | .appendFillStep _ => [.cfg, .catchment, .log, .cnt, .rgn, .mem, .sto, .dir, .tlb, .chan, .work, .prog, .req, .key,
      .jx, .slu, .datum, .free]
  | .appendHeldRelease _ => [.rgn, .chan, .work]
  | .commit _ => [.catchment, .log, .cnt, .rgn, .mem, .sto, .dir, .tlb, .chan, .work, .req, .key, .jx, .traffic, .datum,
      .free]
  | .rollback _ => [.catchment, .log, .cnt, .rgn, .mem, .sto, .dir, .tlb, .chan, .work, .req, .key, .jx, .traffic,
      .datum, .free]
  | .shift _ => [.catchment, .log, .cnt, .rgn, .mem, .sto, .dir, .tlb, .chan, .work, .req, .key, .jx, .traffic, .datum,
      .free]
  | .compactionStart _ => [.catchment, .log, .cnt, .rgn, .sto, .dir, .chan, .work, .req, .jx, .datum]
  | .commitFinalStep _ => [.catchment, .log, .cnt, .rgn, .mem, .sto, .dir, .tlb, .chan, .work, .req, .key, .jx, .datum,
      .free]
  | .shiftComplete _ => [.catchment, .log, .cnt, .rgn, .mem, .sto, .dir, .tlb, .chan, .work, .req, .key, .jx, .datum,
      .free]
  | .jxWrite _ => [.cfg, .catchment, .log, .cnt, .mem, .dir, .chan, .jx, .slu, .traffic, .datum, .free]
  | .jxWriteImm _ => [.cfg, .catchment, .log, .cnt, .mem, .dir, .chan, .jx, .slu, .traffic, .datum, .free]
  | .jxRead _ => [.catchment, .log, .cnt, .dir, .chan, .jx, .traffic, .datum, .free]
  | .jxCas _ => [.catchment, .log, .cnt, .mem, .dir, .chan, .jx, .traffic, .datum, .free]
  | .jxResponseReceive _ => [.catchment, .log, .cnt, .rgn, .mem, .sto, .dir, .tlb, .chan, .work, .req, .key, .jx,
      .traffic, .datum, .free]
  | .jxAckReceive _ => [.catchment, .log, .cnt, .dir, .chan, .jx, .traffic, .datum, .free]
  | .jxNakReceive _ => [.cfg, .catchment, .log, .cnt, .rgn, .mem, .sto, .dir, .tlb, .chan, .work, .req, .key, .jx, .slu,
      .traffic, .datum, .free]
  | .nonJexusFrame _ _ => [.cnt]
  | .ptpMessage _ _ _ => [.bmk, .catchment, .log, .jx]
  | .ptpLocked _ => [.cfg, .node, .jx]
  | .ptpHoldover _ => [.cnt, .jx]
  | .ptpUnlock _ _ => [.catchment, .log, .jx]
  | .ethLinkChange _ _ => [.catchment, .log, .cnt, .jx]
  | .ackCoalesceExpire _ => [.catchment, .log, .jx]
  | .jxRetransmitTimer _ _ => [.cnt, .jx]
  | .jxMsgExpire _ => [.cfg, .catchment, .log, .cnt, .rgn, .mem, .sto, .dir, .tlb, .chan, .work, .req, .key, .jx, .slu,
      .datum, .free]
  | .jxNakBackoffExpire _ => [.cnt, .jx]
  | .trackerExpire _ _ => [.cnt, .jx]
  | .filterExpire _ _ => [.jx]
  | .pathCoolExpire _ => [.jx]
  | .congWindowGrow _ => [.jx]
  | .jxSendResume _ => [.cfg, .catchment, .log, .cnt, .rgn, .mem, .sto, .dir, .tlb, .chan, .work, .req, .key, .jx, .slu,
      .datum, .free]
  | .sluicePost _ => [.catchment, .log, .cnt, .jx, .slu]
  | .sluiceCancel _ => [.catchment, .log, .cnt, .jx, .slu]
  | .sluiceRearm _ => [.catchment, .log, .cnt, .jx, .slu]
  | .instanceStart _ => [.cnt, .slu]
  | .sluiceEntryFree _ => [.catchment, .log, .cnt, .jx, .slu]
  | .combine _ => [.cfg, .catchment, .log, .cnt, .dir, .chan, .jx, .slu, .datum]
  | .combineTimeout _ _ => [.catchment, .log, .cnt, .jx, .slu]
  | .forward _ => [.cfg, .catchment, .log, .cnt, .dir, .chan, .jx, .slu, .datum]
  | .signal _ => [.cfg, .catchment, .log, .cnt, .dir, .chan, .jx, .slu, .datum]
  | .programInstall _ => [.cfg, .catchment, .log, .cnt, .dir, .chan, .installs, .jx, .slu, .datum]
  | .programRemove _ => [.cfg, .catchment, .log, .cnt, .dir, .chan, .prog, .jx, .slu, .datum]
  | .programSlotFree _ => [.prog]
  | .windowOpen _ => [.cfg, .catchment, .log, .cnt, .mem, .sto, .dir, .chan, .jx, .slu, .datum]
  | .windowRevoke _ => [.cfg, .catchment, .log, .cnt, .dir, .chan, .jx, .slu, .datum]
  | .windowFree _ => [.cfg, .catchment, .log, .cnt, .sto, .dir, .chan, .jx, .slu, .datum]
  | .dmaStart _ => [.cfg, .catchment, .log, .cnt, .rgn, .dir, .chan, .jx, .slu, .datum, .dma]
  | .dmaAbort _ _ => [.catchment, .log, .mem, .dma]
  | .dmaPaceTick _ => [.catchment, .log, .cnt, .mem, .chan, .dma]
  | .dmaRunComplete _ => [.catchment, .log, .cnt, .rgn, .mem, .dir, .chan, .jx, .slu, .datum, .dma]
  | .dmaRunError _ _ _ => [.pwr, .cfg, .catchment, .log, .cnt, .tier, .mem, .sto, .dir, .chan, .work, .prog, .req, .jx,
      .slu, .datum, .dma]
  | .timerComparatorFire _ => [.bmk, .catchment, .log, .cnt, .rgn, .jx, .slu, .dma]
  | .trafficWeirCommit _ _ _ => [.svc, .catchment, .log, .traffic]
  | .trafficMeterCommit _ _ _ => [.svc, .catchment, .log, .traffic]
  | .trafficEqCommit _ _ _ => [.svc, .catchment, .log, .jx]
  | .egressTransmit _ => [.cnt, .jx]
  | .queueSample _ => [.traffic]
  | .tenantAdmit => [.cfg, .catchment, .log, .cnt, .mem, .sto, .key, .slu, .traffic, .free]
  | .tenantRemove => [.cfg, .key]
  | .tenantRetire _ => [.catchment, .log, .cnt, .dir, .chan, .prog, .key, .jx, .slu, .datum]
  | .tenantZeroise _ => [.cfg, .key, .traffic]
  | .keyInstall => [.cfg, .catchment, .log, .cnt, .key, .sec]
  | .keyActivate _ => [.key, .sec]
  | .keyPreviousDrop _ => [.key, .sec]
  | .keyAge _ => [.key]
  | .attest _ => [.cfg, .catchment, .log, .mem, .sec]
  | .attestBases => [.cfg]
  | .baseListDiscard _ => [.sec]
  | .hssTreeBuild _ => [.sec]
  | .svnCommit => [.cfg, .fuse]
  | .sealedScrub _ _ => [.pwr, .cfg, .catchment, .log, .cnt, .tier, .mem, .sto, .dir, .chan, .work, .prog, .req, .jx,
      .slu, .datum, .dma]
  | .datumPropose _ => [.cfg, .catchment, .log, .cnt, .node, .dir, .chan, .work, .jx, .slu, .datum]
  | .datumPrepare _ => [.catchment, .log, .cnt, .jx, .traffic, .datum, .free]
  | .datumAccept _ => [.catchment, .log, .cnt, .jx, .traffic, .datum, .free]
  | .datumCommit _ => [.cfg, .catchment, .log, .cnt, .node, .dir, .chan, .work, .jx, .slu, .traffic, .datum, .free]
  | .datumSubmit _ => [.cfg, .catchment, .log, .cnt, .jx, .traffic, .datum, .free]
  | .datumResponse _ => [.cfg, .catchment, .log, .cnt, .node, .dir, .chan, .work, .jx, .slu, .traffic, .datum, .free]
  | .datumRoundTimeout _ => [.datum, .free]
  | .datumBackoffExpire _ => [.cfg, .catchment, .log, .cnt, .node, .dir, .chan, .work, .jx, .slu, .datum]
  | .stepMarker _ => [.catchment, .log, .cnt, .node, .dir, .chan, .jx, .traffic, .datum, .free]
  | .mapRead _ => [.catchment, .log, .cnt, .jx, .traffic, .datum, .free]
  | .mapFetchResponse _ => [.cfg, .catchment, .log, .cnt, .node, .dir, .chan, .work, .jx, .slu, .traffic, .datum, .free]
  | .mapNotice _ => [.catchment, .log, .cnt, .jx, .traffic, .datum, .free]
  | .probeTimer => [.catchment, .log, .cnt, .dir, .chan, .jx, .datum]
  | .probe _ => [.catchment, .log, .cnt, .jx, .traffic, .free]
  | .probeMiss _ => [.cnt, .dir, .chan, .datum]
  | .withdraw _ => [.catchment, .log, .cnt, .dir, .chan, .jx, .traffic, .datum, .free]
  | .loadOpen _ => [.catchment, .log, .cnt, .dir, .chan, .key, .jx, .traffic, .datum, .free]
  | .loadData _ => [.catchment, .log, .cnt, .mem, .sto, .dir, .chan, .jx, .traffic, .datum, .free]
  | .loadDone _ => [.catchment, .log, .cnt, .dir, .chan, .jx, .traffic, .datum, .free]
  | .loadResponse _ => [.catchment, .log, .cnt, .dir, .chan, .jx, .traffic, .datum, .free]
  | .nodeDrain => [.cfg, .catchment, .log, .node, .jx]
  | .heartbeatMiss => [.pwr, .cfg, .catchment, .log, .barrier, .node, .ctl, .mem, .chan, .work, .installs, .req, .jx,
      .slu, .datum, .sec, .dma]
  | .ctlStandbyLost => [.cfg, .catchment, .log, .barrier, .ctl]
  | .causeEnWrite _ _ _ => [.svc, .catchment]
  | .catchCtrlWrite _ _ => [.svc, .catchment]
  | .catchSrcCfgWrite _ _ _ => [.svc, .catchment]
  | .catchTgtClaim _ _ => [.svc, .catchment]
  | .catchTgtComplete _ _ _ => [.svc, .catchment, .log]
  | .catchOfferTimeout _ => [.catchment]
  | .barrierArm _ _ => [.catchment, .log, .barrier]
  | .barrierArrive _ _ => [.catchment, .log, .barrier]
  | .barrierRelease _ => [.catchment, .log, .barrier]
  | .chipClaimOwn _ => [.svc]
  | .chipClaimRelease _ => [.svc]
  | .svcLinkReset _ => [.svc]
  | .i2cTransaction _ _ => [.svc, .free]
  | .nvmRead => [.cfg]
  | .nvmWrite => [.cfg, .mem]
  | .chipReset => [.pwr, .cfg]
  | .datumRead => [.cfg]
  | .seqRead => [.cfg, .catchment, .log, .cnt, .dir]
  | .placeRead => [.cfg, .catchment, .log, .cnt, .dir]
  | .satRead => [.cfg, .catchment, .log, .cnt, .dir]
  | .satClear => [.cfg, .catchment, .log, .cnt, .dir]
  | .windowRead => [.cfg]
  | .sluiceRead => [.cfg]
  | .action => [.cfg, .slu]
  | .fwSluice => [.cfg, .catchment, .log, .cnt, .jx, .slu]
  | .rcRead _ => [.cfg, .svc, .catchment, .blk, .dma, .free]
  | .registerWrite _ => [.bmk, .cfg, .svc, .catchment, .log, .rgn, .mem, .jx, .traffic, .dma, .free]
  | .jtagTapReset => [.pwr, .jtag]
  | .idcode => [.pwr, .jtag]
  | .samplePreload => [.pwr, .jtag]
  | .extest => [.pwr, .jtag]
  | .extestPulse => [.pwr, .jtag]
  | .extestTrain => [.pwr, .jtag]
  | .highz => [.pwr, .jtag]
  | .clamp => [.pwr, .jtag]
  | .bypass => [.pwr, .jtag]
  | .immediateCommandComplete => [.cfg]
  | .programInstallComplete _ => [.cfg, .catchment, .log, .cnt, .dir, .chan, .prog, .installs, .jx, .slu, .datum]
  | .romHoldEnd _ => [.bmk, .pwr, .cfg, .catchment, .log, .cnt, .barrier, .rgn, .blk, .tier, .node, .ctl, .mem, .sto,
      .dir, .chan, .work, .prog, .installs, .req, .key, .jx, .slu, .traffic, .datum, .sec, .dma, .saved, .free]

/-- `t` differs from `s` at most in the parts of `m`. -/
structure Frame (m : List Part) (s t : State) : Prop where
  same : ∀ p, p ∉ m → samePart p s t

end Sys2Proof.Machine
end

