-- ==== Sys2Proof/Certificates/Slice0/Obligations.lean ====
section
/-! DEFINITION. The statements for the provers. -/

open Sys2Proof Sys2Proof.Machine

/-! ## The whole block -/

/-- The state right after power-on reset is sound (derived; the values are those the spec gives for reset). -/
def Obligations.SoundAtReset : Prop := sound State.reset = true

/-- What reset leaves (18 R398, R400, R409; 19 R414, R417, R422, R428; 20 R434, R437, R440): AON_RESET_N low, PHASE ROM, fabric time 0, no
cause set and every cause enabled, GLOBAL_EN 0, every source IDLE at its reset configuration, no offer, no claim, every ring empty, every counter 0,
every barrier IDLE, the service function unclaimed, the command window idle, JTAG at IDCODE and no command waiting. -/
def Obligations.ResetValues : Prop :=
  State.reset.pwr.mode = .aonReset ∧ State.reset.cfg.phase = 0 ∧ now State.reset = 0 ∧
  (∀ i, causeWord State.reset i = 0 ∧ causeEnWord State.reset i = 2 ^ leafWidth i - 1) ∧
  State.reset.catchment.globalEn = false ∧ State.reset.catchment.tgtEn = 0 ∧
  (∀ i, srcCfg State.reset.catchment i = { cores := 0xFF, pin := false, prio := 8, st := .idle, last := 8 }) ∧
  (∀ t, tlook State.reset.catchment.offer t = none ∧ tgtStack State.reset.catchment t = []) ∧
  (∀ g, tlook State.reset.log.rings g = none ∧ logSeq State.reset g = 0) ∧
  (∀ o, counter State.reset o = 0) ∧
  (∀ b, barrierOf State.reset b = { mask := 0, arrived := 0, st := .idle, gen := 0 }) ∧
  State.reset.svc.owned = false ∧ State.reset.svc.ownerRid = 0 ∧ State.reset.svc.foreign = 0 ∧ State.reset.svc.bad = 0 ∧
  State.reset.cfg.busy = false ∧ State.reset.cfg.done = false ∧ State.reset.cfg.status = 0 ∧ State.reset.cfg.respLen = 0 ∧
  State.reset.jtag = { ir := .idcode, inEffect := false } ∧ State.reset.pending = []

/-- Every step keeps a sound state sound: the memories canonical, priorities in 0-15, every offer at a target that may take it, every stack strictly
nested (19 R418), every ring's records in its 256 slots with 64 bytes each (19 R428), OWNER_RID 0 while unclaimed (20 R435), and the pins agreeing
with the power state (18 Tables 18.7, 18.8). -/
def Obligations.SoundKeptByEveryStep : Prop := ∀ s t : State, sound s = true → step s = .next t → sound t = true

/-- No step unblows a fuse (00 R1, 17 R380, R381): the grade and the owner keys stay, the committed security versions never fall. -/
def Obligations.FusesNeverFall : Prop := ∀ s t : State, step s = .next t → fusesKept s.fuse t.fuse

/-- The frame of every command: what `touches` does not list for it, it leaves as it was; no command touches the queue, and SVN_COMMIT alone touches
the fuses. -/
def Obligations.EveryCommandTouchesOnlyItsParts : Prop :=
  (∀ (c : Instr) (s t : State), exec c s = .next t → Frame (touches c) s t) ∧
  (∀ c, Part.pending ∉ touches c) ∧
  (∀ c, Part.fuse ∈ touches c → c = .svnCommit)

/-- Every command answers a next state, but for a rail beyond its absolute maximum, after which the manual promises no behaviour (21 R461). -/
def Obligations.OnlyRuinStopsTheBlock : Prop :=
  ∀ (c : Instr) (s : State), (∃ t, exec c s = .next t) ∨
    ∃ rail mv, c = .railFault rail mv ∧ railMax rail < mv ∧ exec c s = .fault (.beyondAbsoluteMaximum rail)

/-- A step takes the command at the front of the queue and runs it on the queue's rest. -/
def Obligations.StepRunsTheFrontCommand : Prop :=
  ∀ (c : Instr) (rest : List Instr) (s : State), s.pending = c :: rest → step s = exec c { s with pending := rest }

/-- On an empty queue a step lets one tick of fabric time pass (the model's choice, log 1): 10 ns, or one BCLK period in Benchmark-only (18 R409); nothing
while the Benchmark domain is in reset. While the PTP servo slews, a tick corrects time by what it owes or less, and time never turns back (log 71). Each
region at work has been so up to the new time (18 R405); nothing else changes. -/
def Obligations.EmptyQueueTicks : Prop :=
  ∀ s : State, s.pending = [] → ∃ b g, step s = .next { s with bmk := b, rgn := g } ∧
    (∀ r, r < 16 → tget {} g r = if regionIdle s r then rgnOf s r else { rgnOf s r with busyAt := b.time }) ∧
    (s.bmk.counting = false → b = s.bmk) ∧
    (s.bmk.counting = true → s.pwr.mode ≠ .bmkOnly → s.bmk.slew = 0 → b = { s.bmk with time := (s.bmk.time + 10) % 2 ^ 64 }) ∧
    (s.bmk.counting = true → s.pwr.mode ≠ .bmkOnly → ∃ d : Int, -10 ≤ d ∧ d ≤ 10 ∧ b.slew = s.bmk.slew - d ∧ b.slew.natAbs ≤ s.bmk.slew.natAbs ∧
      b = { s.bmk with time := ((s.bmk.time : Int) + 10 + d).toNat % 2 ^ 64, slew := s.bmk.slew - d }) ∧
    (s.bmk.counting = true → s.pwr.mode = .bmkOnly →
      b = { s.bmk with time := (s.bmk.time + (s.bmk.frac + 3906250) / 128) % 2 ^ 64, frac := (s.bmk.frac + 3906250) % 128 })

/-! ## The catchment, the log and the barriers -/

/-- A cause that occurs (19 R414, R416, R427, R428): its bit is set whatever its enable holds, one record with the next SEQ is written to its die's
ring, the source fires exactly when the bit is enabled, and nothing but the catchment and the log changes. -/
def Obligations.CauseIsSetLoggedAndFires : Prop :=
  ∀ (l : Leaf) (d : Detail) (s : State),
    causeWord (raise l d s) l.src = causeWord s l.src ||| 2 ^ l.bit ∧
    logSeq (raise l d s) (ringOf l.src) = nextSeq (logSeq s (ringOf l.src)) ∧
    (∀ g, g ≠ ringOf l.src → logSeq (raise l d s) g = logSeq s g ∧ tlook (raise l d s).log.rings g = tlook s.log.rings g) ∧
    (bitAt (causeEnWord s l.src) l.bit = true → (srcCfg (raise l d s).catchment l.src).st = srcFires (srcCfg s.catchment l.src).st) ∧
    (bitAt (causeEnWord s l.src) l.bit = false → (raise l d s).catchment.src = s.catchment.src ∧
      (raise l d s).catchment.offer = s.catchment.offer) ∧
    (raise l d s).catchment.stack = s.catchment.stack ∧
    raise l d s = { s with catchment := (raise l d s).catchment, log := (raise l d s).log }

/-- A claim (19 R418). A core's read of its CATCH_TGT_CLAIM, and the tray controller's read of target 8's, returns the offered source, makes it
ACTIVE, pushes its ID and priority and sets its LAST; with no offer it returns 0 and changes nothing else. Through BAR0 a claim at targets 0-7 reads 0
and claims nothing (19 R420). Nesting limits a stack to 16 entries. -/
def Obligations.ClaimPushesTheOfferedSource : Prop :=
  (∀ (t : Fin 9) (s : State), awake s = true → t.val ≠ 8 → tlook s.catchment.offer t = none →
    exec (.catchTgtClaim .firmware t) s = .next s) ∧
  (∀ (t : Fin 9) (s : State) (o : Offer), awake s = true → t.val ≠ 8 → tlook s.catchment.offer t = some o →
    ∃ u, exec (.catchTgtClaim .firmware t) s = .next u ∧
      srcCfg u.catchment o.src = { srcCfg s.catchment o.src with st := .active, last := t } ∧
      tgtStack u.catchment t = (o.src, (srcCfg s.catchment o.src).prio) :: tgtStack s.catchment t ∧
      u = { s with catchment := u.catchment }) ∧
  (∀ (rid : BitVec 16) (s : State), svcClaimGate rid false 0x10180 s = (true, s) → offsetDecoded 0x10180 s = true →
    tlook s.catchment.offer 8 = none → exec (.catchTgtClaim (.host rid) 8) s = .next (svcAnswer (.data [0, 0, 0, 0]) s)) ∧
  (∀ (rid : BitVec 16) (s : State) (o : Offer), svcClaimGate rid false 0x10180 s = (true, s) → offsetDecoded 0x10180 s = true →
    tlook s.catchment.offer 8 = some o → ∃ u, exec (.catchTgtClaim (.host rid) 8) s = .next u ∧
      u.svc.answer = .data (leBytes 4 o.src) ∧
      srcCfg u.catchment o.src = { srcCfg s.catchment o.src with st := .active, last := 8 } ∧
      tgtStack u.catchment 8 = (o.src, (srcCfg s.catchment o.src).prio) :: tgtStack s.catchment 8 ∧
      u = { s with catchment := u.catchment, svc := { s.svc with answer := u.svc.answer } }) ∧
  (∀ (rid : BitVec 16) (t : Fin 9) (s : State), t.val ≠ 8 → svcClaimGate rid false (0x10100 + t * 0x10) s = (true, s) →
    exec (.catchTgtClaim (.host rid) t) s = .next (svcAnswer (.data [0, 0, 0, 0]) s)) ∧
  (∀ (s : State) (t : Nat), sound s = true → (tgtStack s.catchment t).length ≤ 16)

/-- A completion (19 R419, R420, Table 19.3). Naming the source on top of the stack pops it: an ACTIVE source becomes IDLE, an ACTIVE_PENDING one
PENDING and is offered again. Any other write leaves the stack as it is and raises CATCH_STACK_FAULT with a record that names the target, the
written ID and the top ID. Cores complete at their own targets; the tray controller, past the claim check, at target 8 alone. -/
def Obligations.CompletionPopsOnlyTheTop : Prop :=
  (∀ (t : Fin 9) (id : BitVec 8) (s : State), awake s = true → t.val ≠ 8 →
    exec (.catchTgtComplete .firmware t id) s = .next (completeTarget t id.toNat s)) ∧
  (∀ (rid : BitVec 16) (t : Fin 9) (id : BitVec 8) (s : State),
    svcClaimGate rid true (0x10104 + t * 0x10) s = (true, s) → offsetDecoded (0x10104 + t * 0x10) s = true →
    exec (.catchTgtComplete (.host rid) t id) s =
      .next (svcAnswer .written (if t.val = 8 then completeTarget 8 id.toNat s else s))) ∧
  (∀ (t id p : Nat) (rest : List (Nat × Nat)) (s : State), tgtStack s.catchment t = (id, p) :: rest →
    completeTarget t id s = settle { s with catchment :=
      { setSrc id { srcCfg s.catchment id with st := srcCompletes (srcCfg s.catchment id).st } s.catchment with
        stack := tset [] s.catchment.stack t rest } }) ∧
  (∀ (t id : Nat) (top : Nat × Nat) (s : State), (tgtStack s.catchment t).head? = some top → top.1 ≠ id →
    completeTarget t id s = raise leafCatchStackFault [(40, 1, t), (41, 1, id), (42, 1, top.1)] s ∧
    (completeTarget t id s).catchment.stack = s.catchment.stack) ∧
  (∀ (t id : Nat) (s : State), tgtStack s.catchment t = [] →
    completeTarget t id s = raise leafCatchStackFault [(40, 1, t), (41, 1, id), (42, 1, 0)] s ∧
    (completeTarget t id s).catchment.stack = s.catchment.stack)

/-- Writes of the catchment's configuration (19 R414, R416, R417, R420), while the node runs. Firmware writes CATCH_CTRL and CATCH_SRC_CFG whole; a
host past the claim check writes only TGT_EN bit 8 and PIN. GLOBAL_EN 0 withdraws every offer. CAUSE_EN takes the defined bits, and the source
fires exactly when an enable bit goes from 0 to 1 over a set cause. An offer not claimed for 10 µs moves on to the next eligible target; before that it
stays. -/
def Obligations.OffersFollowTheConfiguration : Prop :=
  (∀ (v : BitVec 32) (s : State), awake s = true → ∃ u, exec (.catchCtrlWrite .firmware v) s = .next u ∧
    u.catchment.globalEn = v.getLsbD 0 ∧ u.catchment.tgtEn = (v >>> 8).setWidth 9 ∧ u.catchment.src = s.catchment.src ∧
    u.catchment.stack = s.catchment.stack ∧ u.catchment.cause = s.catchment.cause ∧ (v.getLsbD 0 = false → u.catchment.offer = [])) ∧
  (∀ (rid : BitVec 16) (v : BitVec 32) (s : State), svcClaimGate rid true 0x10000 s = (true, s) → offsetDecoded 0x10000 s = true →
    ∃ u, exec (.catchCtrlWrite (.host rid) v) s = .next u ∧ u.svc.answer = .written ∧ u.catchment.globalEn = s.catchment.globalEn ∧
      u.catchment.tgtEn = (s.catchment.tgtEn &&& 0xFF) ||| ((v >>> 8).setWidth 9 &&& 0x100) ∧ u.catchment.src = s.catchment.src) ∧
  (∀ (src : Fin 163) (v : BitVec 32) (s : State), awake s = true → src.val ≠ 0 →
    exec (.catchSrcCfgWrite .firmware src v) s = .next (settle { s with catchment := (setSrc src
      { srcCfg s.catchment src with cores := v.setWidth 8, pin := v.getLsbD 8, prio := ((v >>> 12).setWidth 4).toNat } s.catchment) })) ∧
  (∀ (rid : BitVec 16) (src : Fin 163) (v : BitVec 32) (s : State), src.val ≠ 0 →
    svcClaimGate rid true (0x11000 + 4 * src) s = (true, s) → offsetDecoded (0x11000 + 4 * src) s = true →
    exec (.catchSrcCfgWrite (.host rid) src v) s = .next (svcAnswer .written (settle { s with catchment := (setSrc src
      { srcCfg s.catchment src with pin := v.getLsbD 8 } s.catchment) }))) ∧
  (∀ (src : Fin 163) (v : BitVec 32) (s : State), awake s = true → offsetReachable (causeOff src + 4) s = true →
    ∃ u, exec (.causeEnWrite .firmware src v) s = .next u ∧
    u.catchment.dis = tset 0 s.catchment.dis src ((2 ^ leafWidth src - 1) ^^^ (v.toNat &&& (2 ^ leafWidth src - 1))) ∧
    u.catchment.cause = s.catchment.cause ∧
    (newlyEnabled s src (v.toNat &&& (2 ^ leafWidth src - 1)) = 0 → u.catchment.src = s.catchment.src) ∧
    (newlyEnabled s src (v.toNat &&& (2 ^ leafWidth src - 1)) ≠ 0 →
      u.catchment.src = tset {} s.catchment.src src
        { srcCfg s.catchment src with st := srcFires (srcCfg s.catchment src).st })) ∧
  (∀ (t : Fin 9) (s : State), exec (.catchOfferTimeout t) s = .next (
    match tlook s.catchment.offer t with
    | none => s
    | some o => if o.since + 10000 ≤ now s then settle { s with catchment := (offerOne (now s) t
        { s.catchment with offer := tdel s.catchment.offer t } o.src) } else s))

/-- A barrier answers each operation as 19 R423, Table 19.5, gives for its state, the other units apart; a participant may stand in several, and its fencing
breaks every armed unit that waits for it, with BARRIER_BROKEN. -/
def Obligations.BarrierAnswersByState : Prop :=
  (∀ (b : Fin 64) (mask : BitVec 32) (s : State),
    exec (.barrierArm b mask) s = .next (
      if mask = 0 then s
      else if (barrierOf s b).st = .idle then setBarrier b { mask := mask, arrived := 0, st := .armed, gen := (barrierOf s b).gen } s
      else raise leafBarrierBusy [] s)) ∧
  (∀ (b : Fin 64) (p : Fin 32) (s : State), let u := barrierOf s b
    exec (.barrierArrive b p) s = .next (
      if u.st = .idle ∨ u.mask.getLsbD p = false then raise leafBarrierStray [] s
      else if u.st ≠ .armed then s
      else if u.arrived ||| (1 <<< p.val) = u.mask then
        setBarrier b { u with arrived := u.mask, st := .done, gen := u.gen + 1 } s
      else setBarrier b { u with arrived := u.arrived ||| (1 <<< p.val) } s)) ∧
  (∀ (b : Fin 64) (s : State), let u := barrierOf s b
    exec (.barrierRelease b) s = .next (
      if u.st = .idle then s
      else if u.st = .armed then raise leafBarrierBroken [] (setBarrier b { u with st := .broken } s)
      else setBarrier b { mask := 0, arrived := 0, st := .idle, gen := u.gen } s)) ∧
  (∀ (b c : Nat) (u : Barrier) (s : State), twf {} s.barrier = true → barrierOf (setBarrier b u s) c = if c = b then u else barrierOf s c) ∧
  (∀ (p c : Nat) (s : State), twf {} s.barrier = true → barrierOf (barrierFenced p s) c =
    let u := barrierOf s c
    if u.st = .armed ∧ u.mask.getLsbD p = true ∧ u.arrived.getLsbD p = false then { u with st := .broken } else u) ∧
  (∀ (p : Nat) (s : State), let waits := fun (u : Barrier) => u.st = .armed ∧ u.mask.getLsbD p = true ∧ u.arrived.getLsbD p = false
    ((∀ e ∈ s.barrier, ¬ waits e.2) → barrierFenced p s = s) ∧
    ((∃ e ∈ s.barrier, waits e.2) →
      (causeWord (barrierFenced p s) leafBarrierBroken.src).testBit leafBarrierBroken.bit = true))

/-! ## The service function and the registers -/

/-- The claim (20 R434, R435), for a function that decodes BAR0. While unclaimed, a write of OWNED makes its writer the owner; while claimed, the owner's
write of OWNED changes nothing and another's is refused, discarded and counted in FOREIGN alone; the owner's RELEASE ends the claim, and so do a
Function Level Reset, a Hot Reset and a link that goes down: OWNED and OWNER_RID then read 0. -/
def Obligations.ClaimIsOwnedReleasedAndEnded : Prop :=
  (∀ (rid : BitVec 16) (s : State), svcDecodes s = true → s.svc.owned = false →
    exec (.chipClaimOwn rid) s = .next { s with svc := { s.svc with owned := true, ownerRid := rid, answer := .written } }) ∧
  (∀ (rid : BitVec 16) (s : State), svcDecodes s = true → s.svc.owned = true → s.svc.ownerRid = rid →
    exec (.chipClaimOwn rid) s = .next (svcAnswer .written s)) ∧
  (∀ (rid : BitVec 16) (s : State), svcDecodes s = true → s.svc.owned = true → s.svc.ownerRid = rid →
    exec (.chipClaimRelease rid) s = .next { s with svc := { s.svc with owned := false, ownerRid := 0, answer := .written } }) ∧
  (∀ (rid : BitVec 16) (s : State), svcDecodes s = true → s.svc.owned = true → s.svc.ownerRid ≠ rid → ∀ c,
    (c = .chipClaimOwn rid ∨ c = .chipClaimRelease rid) →
    exec c s = .next { s with svc := { s.svc with foreign := satInc 8 s.svc.foreign, answer := .discarded } }) ∧
  (∀ (rid : BitVec 16) (s : State), svcDecodes s = true → s.svc.owned = false →
    exec (.chipClaimRelease rid) s = .next (svcAnswer .written s)) ∧
  (∀ (rid : BitVec 16) (s : State), svcDecodes s = false → ∀ c, (c = .chipClaimOwn rid ∨ c = .chipClaimRelease rid) →
    exec c s = .next (svcAnswer .noDecode s)) ∧
  (∀ (k : SvcReset) (s : State), awake s = true → ∃ t, exec (.svcLinkReset k) s = .next t ∧
    t.svc.owned = false ∧ t.svc.ownerRid = 0 ∧ t.svc.mse = false ∧ t.svc.foreign = s.svc.foreign ∧ t = { s with svc := t.svc })

/-- Register accesses through BAR0 (00 R8, R10; 02 R36; 20 R433, R434). Past the claim check, a 32-bit aligned read of a decoded register of a die that the
spine reaches returns its word and clears the fields that clear on reading: FOREIGN, CHIP_SVC_BAD.COUNT, GO_REFUSED, RGN_BLK_RESIDUE_RETRY and the counts of a
DMA channel. A malformed access is refused and counted. A write while the function is unclaimed, other than to CHIP_CLAIM, is discarded and counted; an access
from another Requester ID is refused and counted in FOREIGN. A write of an owner or of firmware acts as its register's fields say; on a die that a station of
the path no longer serves, it changes nothing. What a read of such a die returns is free (log 50). -/
def Obligations.RegisterAccessesPassTheGate : Prop :=
  (∀ (rid : BitVec 16) (t : Tlp) (s : State), t.who = .host rid → t.config = false → t.offset < 2 ^ 26 → t.offset ≠ 0x10180 →
    svcClaimGate rid false t.offset s = (true, s) → inBuffer 0x60000 t.offset t.len = false → isWord t = true → offsetDecoded t.offset s = true →
    offsetReachable t.offset s = true →
    exec (.rcRead t) s = .next (svcAnswer (.data (leBytes 4 (readWord s t.offset))) (clearRc t.offset (latchHi t.offset s)))) ∧
  (∀ s, clearRc 0x10 s = { s with svc := { s.svc with foreign := 0 } } ∧ clearRc 0x14 s = { s with svc := { s.svc with bad := 0 } } ∧
    clearRc 0x41000 s = { s with cfg := { s.cfg with goRefused := 0 } }) ∧
  (∀ (rid : BitVec 16) (t : Tlp) (s : State), t.who = .host rid → t.config = false → t.offset < 2 ^ 26 →
    svcClaimGate rid false t.offset s false = (true, s) → inBuffer 0x60000 t.offset t.len = false → isWord t = false →
    exec (.rcRead t) s = .next { s with svc := { s.svc with bad := satInc 16 s.svc.bad, answer := .unsupported } }) ∧
  (∀ (rid : BitVec 16) (t : Tlp) (s : State), t.who = .host rid → t.config = false → t.offset < 2 ^ 26 →
    isWord t = false ∨ (t.offset / 4 ≠ 0 ∧ t.offset / 4 ≠ 4) → svcDecodes s = true → s.svc.owned = true → s.svc.ownerRid ≠ rid →
    exec (.rcRead t) s = .next { s with svc := { s.svc with foreign := satInc 8 s.svc.foreign, answer := .completerAbort } } ∧
    exec (.registerWrite t) s = .next { s with svc := { s.svc with foreign := satInc 8 s.svc.foreign, answer := .discarded } }) ∧
  (∀ (rid : BitVec 16) (t : Tlp) (s : State), t.who = .host rid → t.config = false → t.offset < 2 ^ 26 → t.offset / 4 ≠ 4 →
    svcDecodes s = true → s.svc.owned = false →
    exec (.registerWrite t) s = .next { s with svc := { s.svc with bad := satInc 16 s.svc.bad, answer := .discarded } }) ∧
  (∀ (rid : BitVec 16) (t : Tlp) (s : State), t.who = .host rid → t.config = false → t.offset < 2 ^ 26 →
    svcClaimGate rid true t.offset s = (true, s) → (inBuffer 0x50000 t.offset t.len && t.allEnables) = false → isWord t = true →
    offsetDecoded t.offset s = true → exec (.registerWrite t) s =
      .next (svcAnswer .written (if offsetReachable t.offset s then writeWord (.host rid) t.offset (rd t.data 0 4) s else s))) ∧
  (∀ (t : Tlp) (s : State), t.who = .firmware → t.config = false → awake s = true → isWord t = true →
    (offsetReachable t.offset s = true →
      exec (.registerWrite t) s = .next (writeWord .firmware t.offset (rd t.data 0 4) s) ∧ exec (.rcRead t) s = .next (clearRc t.offset s)) ∧
    (offsetReachable t.offset s = false → exec (.registerWrite t) s = .next s ∧ exec (.rcRead t) s = .next s)) ∧
  (∀ (off d : Nat) (s : State), dieOfOff off = some d → d < 30 → (s.ctl.spineDead = 0 → offsetReachable off s = true) ∧
    (s.ctl.spineDead.getLsbD (stationOf d) = true → offsetReachable off s = false)) ∧
  (∀ (w : Writer) (off id v : Nat) (s : State), dmaAt off = none → leafAt off = some (id, false) → id ≠ 159 →
    writeWord w off v s = { s with catchment := { s.catchment with
      cause := tset 0 s.catchment.cause id (causeWord s id &&& ((2 ^ 32 - 1) ^^^ v)) } })

/-- The firmware command window (20 R440). A GO write that finds BUSY 0 latches OPCODE, the request of REQ_LEN bytes and TAG, sets BUSY, clears DONE,
DEFERRED, STATUS and RESP_LEN and zero-fills the response buffer; one that finds BUSY 1 changes nothing and is counted in GO_REFUSED. While BUSY is
1, writes to the request buffer, to OPCODE, LEN and TAG are discarded and counted in CHIP_SVC_BAD.COUNT. -/
def Obligations.GoLatchesTheCommand : Prop :=
  (∀ (rid : BitVec 16) (t : Tlp) (s : State), t.who = .host rid → t.config = false → t.offset = 0x41000 → isWord t = true →
    svcClaimGate rid true 0x41000 s = (true, s) → bitAt (rd t.data 0 4) 8 = true → s.cfg.busy = false →
    exec (.registerWrite t) s = .next { s with
      svc := { s.svc with answer := .written }
      cfg := { s.cfg with
        opcode := rd t.data 0 4 % 256, busy := true, done := false, deferred := false, status := 0, respLen := 0, respBuf := []
        latched := some { opcode := rd t.data 0 4 % 256, req := memRead s.cfg.reqBuf 0 s.cfg.reqLen, tag := s.cfg.tag, answer := none } } }) ∧
  (∀ (rid : BitVec 16) (t : Tlp) (s : State), t.who = .host rid → t.config = false → t.offset = 0x41000 → isWord t = true →
    svcClaimGate rid true 0x41000 s = (true, s) → bitAt (rd t.data 0 4) 8 = true → s.cfg.busy = true →
    exec (.registerWrite t) s = .next { s with
      svc := { s.svc with answer := .written }, cfg := { s.cfg with goRefused := satInc 8 s.cfg.goRefused } }) ∧
  (∀ (rid : BitVec 16) (t : Tlp) (s : State), t.who = .host rid → t.config = false → isWord t = true →
    (t.offset = 0x41000 ∧ bitAt (rd t.data 0 4) 8 = false ∨ t.offset = 0x41004 ∨ t.offset = 0x41008) →
    svcClaimGate rid true t.offset s = (true, s) → s.cfg.busy = true →
    exec (.registerWrite t) s = .next { s with svc := { s.svc with bad := satInc 16 s.svc.bad, answer := .written } }) ∧
  (∀ (rid : BitVec 16) (t : Tlp) (s : State), t.who = .host rid → t.config = false → t.allEnables = true →
    inBuffer 0x50000 t.offset t.len = true → svcClaimGate rid true t.offset s = (true, s) →
    exec (.registerWrite t) s = .next (if s.cfg.busy then
        { s with svc := { s.svc with bad := satInc 16 s.svc.bad, answer := .discarded } }
      else { s with
        svc := { s.svc with answer := .written }
        cfg := { s.cfg with reqBuf := memWrite s.cfg.reqBuf (t.offset - 0x50000) (padTo t.len t.data) } }))

/-- How a latched command is admitted and answered (20 R441, R442). BOOT_FAILED answers ST_STATE_CONFLICT and a phase before READY ST_RETRY, but to
NVM_READ, NVM_WRITE and CHIP_RESET; a reserved opcode or another length is ST_MALFORMED. The answer is published whole: response, STATUS, RESP_LEN,
DONE_TAG and DONE, and BUSY clears. A deferred command frees the window with ST_OK, DEFERRED 1 and RESP_LEN 0 and raises OUTSTANDING; with 16
outstanding it is not accepted. At its end one ring record is written and OUTSTANDING falls. -/
def Obligations.CommandsAreAdmittedAndAnswered : Prop :=
  (∀ (op : Nat) (b : Bytes) (s : State), op ≠ 1 → op ≠ 2 → op ≠ 3 →
    (s.cfg.phase = 8 → fwGate s op b = some stStateConflict) ∧
    (s.cfg.phase < 6 → fwGate s op b = some stRetry) ∧
    (6 ≤ s.cfg.phase → s.cfg.phase ≠ 8 → (fwDefined op = false ∨ fwLenOk op b = false) → fwGate s op b = some stMalformed)) ∧
  (∀ (op st : Nat) (run : Latched → State → State) (c : Latched) (s : State), fwCmd s op = some c → fwGate s op c.req = some st →
    fwRun op run s = answerFw st [] s) ∧
  (∀ (c : Latched) (st : Nat) (resp : Bytes) (s : State), awake s = true → s.cfg.latched = some c → c.answer = some (st, resp) →
    exec .immediateCommandComplete s = .next { s with cfg := { s.cfg with
      respBuf := memWrite [] 0 resp, status := st, respLen := resp.length, doneTag := c.tag, done := true, busy := false, latched := none } }) ∧
  (∀ (c : Latched) (s : State), awake s = true → s.cfg.latched = some c → c.answer = none → fwDefined c.opcode = true →
    exec .immediateCommandComplete s = .next s) ∧
  (∀ (c : Latched) (s : State), awake s = true → s.cfg.latched = some c → c.answer = none → fwDefined c.opcode = false → ready s = true →
    ∃ t, exec .immediateCommandComplete s = .next t ∧ t.cfg.status = stMalformed ∧ t.cfg.respLen = 0 ∧ t.cfg.busy = false ∧ t.cfg.done = true) ∧
  (∀ (c : Latched) (obj : Nat) (s : State),
    (16 ≤ s.cfg.outstanding.length → acceptDeferred c obj s = none) ∧
    (s.cfg.outstanding.length < 16 → acceptDeferred c obj s = some { s with cfg := { s.cfg with
      status := stOk, respLen := 0, doneTag := c.tag, done := true, busy := false, deferred := true, latched := none
      outstanding := s.cfg.outstanding ++ [{ opcode := c.opcode, tag := c.tag, obj := obj }] } })) ∧
  (∀ (op obj st : Nat) (result : Bytes) (d : Deferred) (s : State),
    s.cfg.outstanding.find? (fun x => x.opcode == op && x.obj == obj) = some d →
    (deferredEnd op obj st result s).cfg.outstanding = s.cfg.outstanding.erase d ∧
    (deferredEnd op obj st result s).cfg.ringHead = nextSeq s.cfg.ringHead ∧
    tlook (deferredEnd op obj st result s).cfg.ring (nextSeq s.cfg.ringHead % 16) =
      some (leBytes 1 st ++ leBytes 1 op ++ [0, 0] ++ leBytes 4 d.tag ++ leBytes 4 (nextSeq s.cfg.ringHead) ++ [0, 0, 0, 0] ++ padTo 112 result))

/-- Telemetry over I2C (20 R447): in a running or a sleeping node, a transaction at the target's address with an aligned 4-byte offset reads whole words of
the registers it may reach and all ones elsewhere; a byte written past the offset is NACKed and changes nothing; at another address nothing is acknowledged.
Nothing but the answer and I2C's own latch changes. -/
def Obligations.I2cReadsAndNeverWrites : Prop :=
  (∀ (w : I2cWrite) (n : Nat) (s : State), s.pwr.mode = .running ∨ s.pwr.mode = .bmkOnly → w.addr = i2cAddress s → 4 ≤ w.data.length →
    rd w.data 0 4 % 4 = 0 → ∃ a u, exec (.i2cTransaction { w with data := w.data.take 4 } n) s = .next (i2cEnd false a u) ∧
      exec (.i2cTransaction w n) s = .next (i2cEnd (decide (4 < w.data.length)) a u)) ∧
  (∀ (w : I2cWrite) (s : State), s.pwr.mode = .running ∨ s.pwr.mode = .bmkOnly → w.addr = i2cAddress s → 4 ≤ w.data.length →
    rd w.data 0 4 % 4 = 0 → (i2cReadable s (rd w.data 0 4) = true → offsetReachable (rd w.data 0 4) s = true) →
    ∃ t, exec (.i2cTransaction w 4) s = .next t ∧ t.svc.i2cNack = decide (4 < w.data.length) ∧
      t.svc.i2cAnswer = leBytes 4 (if i2cReadable s (rd w.data 0 4) then (tlook s.svc.i2cHi (rd w.data 0 4)).getD (regWord s (rd w.data 0 4))
        else 2 ^ 32 - 1) ∧
      t = { s with svc := { s.svc with i2cAnswer := t.svc.i2cAnswer, i2cHi := t.svc.i2cHi, i2cNack := t.svc.i2cNack } }) ∧
  (∀ (w : I2cWrite) (n : Nat) (s : State), s.pwr.mode = .running ∨ s.pwr.mode = .bmkOnly → w.addr ≠ 0x58 + s.bmk.i2cAddr.setWidth 7 →
    exec (.i2cTransaction w n) s = .next (i2cEnd true [] s)) ∧
  (∀ (w : I2cWrite) (n : Nat) (s : State), s.pwr.mode = .running ∨ s.pwr.mode = .bmkOnly → w.addr = i2cAddress s →
    w.data.length < 4 ∨ rd w.data 0 4 % 4 ≠ 0 →
    exec (.i2cTransaction w n) s = .next (i2cEnd (decide (4 < w.data.length)) (List.replicate n 0xFF) s)) ∧
  (∀ (w : I2cWrite) (n : Nat) (s : State), s.pwr.mode = .aonReset ∨ s.pwr.mode = .mainReset → exec (.i2cTransaction w n) s = .next s)

/-! ## Resets, boot, sleep and wake, JTAG -/

/-- What each reset clears and keeps (18 R400, Table 18.7; 21 R456, R457, R459). A power-on reset clears everything but the NVM and the fuses (and,
the model's choice, what stands in the expanders' own memory); a main reset keeps the Benchmark domain and the regulators' voltages too and records
its cause: RESET_N, CHIP_RESET or thermal trip. In Benchmark-only RESET_N low is the board's preparation of a wake, which begins once a comparator has
fired. AON_RESET_RELEASE starts the Benchmark domain and samples the straps. CHIP_RESET falls due 100 µs after GO, BUSY staying 1. -/
def Obligations.ResetsClearAndKeep : Prop :=
  (∀ s : State, exec .powerOnReset s = .next { State.reset with
    mem := { nvm := s.mem.nvm, deep := s.mem.deep }, fuse := s.fuse, free := s.free, resets := s.resets + 1, pending := s.pending }) ∧
  (∀ (straps : BitVec 2) (s : State), s.pwr.mode = .aonReset → exec (.aonResetRelease straps) s = .next { s with
    pwr := { s.pwr with aonResetN := true, mode := .mainReset }, bmk := { s.bmk with counting := true, i2cAddr := straps } }) ∧
  (∀ s : State, s.pwr.mode = .running → exec (.mainReset .pin) s = .next {
    bmk := { s.bmk with wakeCause := s.bmk.wakeCause ||| 0x20#32 }
    pwr := { resetN := false, aonResetN := true, mode := .mainReset, sysClk := s.pwr.sysClk, netClk := s.pwr.netClk, tierClk := s.pwr.tierClk
             svcClk := s.pwr.svcClk }
    rgn := tmap s.rgn fun _ g => resetRgn g
    jtag := s.jtag, fuse := s.fuse, mem := { nvm := s.mem.nvm, deep := s.mem.deep }, free := s.free, resets := s.resets + 1, pending := s.pending }) ∧
  (∀ s : State, s.pwr.mode = .bmkOnly → let u : State := { s with pwr := { s.pwr with resetN := false } }
    exec (.mainReset .pin) s = .next (if s.pwr.wakeBoot then wake u else u)) ∧
  (∀ (due : Nat) (c : DueCause) (s : State), s.pwr.mode = .running → s.pwr.resetDue = some (due, c) →
    exec (.mainReset .due) s = .next (if now s < due then s else {
      bmk := { s.bmk with wakeCause := s.bmk.wakeCause ||| (if c = .soft then 0x40#32 else 0x80#32) }
      pwr := { resetN := s.pwr.resetN, aonResetN := true, mode := .mainReset, sysClk := s.pwr.sysClk, netClk := s.pwr.netClk
               tierClk := s.pwr.tierClk, svcClk := s.pwr.svcClk }
      rgn := tmap s.rgn fun _ g => resetRgn g
      jtag := s.jtag, fuse := s.fuse, mem := { nvm := s.mem.nvm, deep := s.mem.deep }, free := s.free, resets := s.resets + 1
      pending := s.pending })) ∧
  (∀ (c : Latched) (s : State), fwCmd s 3 = some c → fwGate s 3 c.req = none → s.pwr.resetDue = none →
    exec .chipReset s = .next { s with pwr := { s.pwr with resetDue := some (now s + 100000, .soft) } })

/-- The release of RESET_N (18 R399, R396, R411; 21 R458, R459, R465). With a JTAG instruction in effect the node stays in reset. Else the ROM starts,
held at step 1 while a rail, SYS_REFCLK or a die sensor holds it; the boot runs when the hold is over. In Benchmark-only a wake keeps the fast tier
and the saved state when a comparator has fired, and is a main reset when none has; its regulators come up anew (log 80). The slots are tried in their
order: BOOT_NEXT's first, the other when it fails a check; both failing, or an NVM that cannot be used, is BOOT_FAILED. -/
def Obligations.RomHoldsThenBoots : Prop :=
  (∀ (e : BootEnv) (s : State), s.pwr.mode = .mainReset → s.jtag.inEffect = true →
    exec (.resetRelease e) s = .next { s with pwr := { s.pwr with resetN := true, extestHold := true } }) ∧
  (∀ (e : BootEnv) (s : State), s.pwr.mode = .mainReset → s.jtag.inEffect = false →
    let rom : State := { s with pwr := { s.pwr with
      resetN := true, mode := .running, sleepReq := .hiZ, sysClk := e.sysRefclk, netClk := 0xF, tierClk := 0xF, svcClk := true, romHold := true
      extestHold := false } }
    exec (.resetRelease e) s = .next (if holdOver e rom then boot e rom else rom)) ∧
  (∀ (e : BootEnv) (s : State), s.pwr.mode = .bmkOnly →
    exec (.resetRelease e) s = .next (startRom e (if s.pwr.wakeBoot then wake s else wakeCause 5 (clearMain s)))) ∧
  (∀ s : State, (wake s).mem.fast = s.mem.fast ∧ (wake s).saved = s.saved ∧ (wake s).bmk = s.bmk ∧ (wake s).rgn = [] ∧ (clearMain s).mem.fast = [] ∧
    (clearMain s).saved = none) ∧
  (∀ (e : BootEnv) (s : State), awake s = true → s.pwr.romHold = true → holdOver e s = true →
    exec (.romHoldEnd e) s = .next (boot e { s with pwr := { s.pwr with sysClk := true } })) ∧
  (∀ (e : BootEnv) (s : State), holdOver e s = false → exec (.romHoldEnd e) s = .next s) ∧
  (∀ (e : BootEnv) (s : State), e.nvm.sfdp = false → (bootSlots e s).cfg.phase = 8 ∧ (bootSlots e s).cfg.causeA = 1 ∧
    (bootSlots e s).cfg.causeB = 1) ∧
  (∀ (e : BootEnv) (s : State) (l : List (Nat × Bytes)), e.nvm.sfdp = true → e.nvm.erase64K = true → 0x4410000 ≤ e.nvm.sizeBytes →
    let a := if s.bmk.wakeCtrl.getLsbD 28 then 1 else 0
    (slotCheck s a = (8, l) → (bootSlots e s).cfg.slot = a ∧ (bootSlots e s).cfg.img = some (imgOf l) ∧
      (bootSlots e s).bmk.wakeCtrl.getLsbD 28 = false ∧ (bootSlots e s).cfg.phase = s.cfg.phase) ∧
    ((slotCheck s a).1 ≠ 8 → slotCheck s (1 - a) = (8, l) → (bootSlots e s).cfg.slot = 1 - a ∧ (bootSlots e s).cfg.img = some (imgOf l) ∧
      (bootSlots e s).cfg.phase = s.cfg.phase) ∧
    ((slotCheck s a).1 ≠ 8 → (slotCheck s (1 - a)).1 ≠ 8 → (bootSlots e s).cfg.phase = 8 ∧ (bootSlots e s).cfg.causeA = (slotCheck s 0).1 ∧
      (bootSlots e s).cfg.causeB = (slotCheck s 1).1))

/-- SLEEP and the wake (18 R406, R407, R408, R410). SLEEP is refused with ST_STATE_CONFLICT where a condition of R406 fails; accepted, it frees the window and the
node quiesces. When within 10 ms nothing is left at work, the state is saved, every part written sealed with a fresh nonce, PHASE becomes SLEEPING, G7_RST_N
is driven high and SLEEP ends with ST_OK; after the 10 ms it ends with ST_RETRY. SLEEP_REQ_N falls 1 ms after it completed, and a TIME comparator that holds
then fires at once. A comparator acts only in Benchmark-only: it sets its bit of BMK_WAKE_CAUSE and releases SLEEP_REQ_N; with RESET_N already low the wake
begins. The layout of the saved parts and their offsets are free (log 81). -/
def Obligations.SleepSavesAndComparatorsWake : Prop :=
  (∀ s : State, sleepRefused s = true ↔ (∃ e ∈ maps s, ∃ p ∈ e.2.pairs, myNode s ∈ serving p.2) ∨
    (∃ e ∈ s.key, e.2.st = .retiring ∨ e.2.st = .zeroising) ∨
    (∃ e ∈ s.dir, e.2.st = .loading ∨ e.2.st = .shifting ∨ e.2.st = .releasing ∨ ∃ t ∈ e.2.ten, t.2.st = .migrating ∨ t.2.st = .rewriting) ∨
    s.bmk.wakeCtrl &&& 0xF = 0) ∧
  (∀ (c : Latched) (s : State), fwCmd s 0x23 = some c → fwGate s 0x23 c.req = none → sleepRefused s = true →
    exec .sleep s = .next (answerFw stStateConflict [] s)) ∧
  (∀ (c : Latched) (s : State), fwCmd s 0x23 = some c → fwGate s 0x23 c.req = none → sleepRefused s = false → s.cfg.outstanding.length < 16 →
    s.pwr.sleep = .none → ∃ t, exec .sleep s = .next t ∧ t.pwr.sleep = .quiescing (now s) c.tag ∧ t.cfg.deferred = true ∧ t.cfg.busy = false ∧
      t.cfg.status = stOk ∧ t.cfg.outstanding = s.cfg.outstanding ++ [{ opcode := c.opcode, tag := c.tag, obj := 0 }]) ∧
  (∀ (since tag : Nat) (s : State), awake s = true → s.pwr.sleep = .quiescing since tag → now s ≤ since + 10000000 → quiesced s = true →
    ∃ t, exec .sleepQuiesced s = .next t ∧ t.saved = some (savedOf s) ∧ t.cfg.phase = 7 ∧ t.pwr.g7Rst = .high ∧ t.pwr.sleep = .asleep (now s) ∧
      t.mem = { s.mem with fast :=
        (savedParts (savedOf s)).foldl (fun m p => memWrite m (savedAddr p) (sealedPart (savedOf s) p)) s.mem.fast } ∧
      (s.cfg.outstanding = [⟨0x23, tag, 0⟩] → t.cfg.outstanding = [] ∧ tlook t.cfg.ring (nextSeq s.cfg.ringHead % 16) =
        some (leBytes 1 stOk ++ leBytes 1 0x23 ++ [0, 0] ++ leBytes 4 tag ++ leBytes 4 (nextSeq s.cfg.ringHead) ++ [0, 0, 0, 0] ++ padTo 112 []))) ∧
  (∀ (since tag : Nat) (s : State), awake s = true → s.pwr.sleep = .quiescing since tag →
    (quiesced s = false → now s < since + 10000000 → exec .sleepQuiesced s = .next s) ∧
    ((quiesced s = false ∧ since + 10000000 ≤ now s) ∨ since + 10000000 < now s →
      ∃ t, exec .sleepQuiesced s = .next t ∧ t.pwr.sleep = .none ∧ t.saved = s.saved ∧ t.cfg.phase = s.cfg.phase ∧ t.mem = s.mem ∧
      (s.cfg.outstanding = [⟨0x23, tag, 0⟩] → t.cfg.outstanding = [] ∧ tlook t.cfg.ring (nextSeq s.cfg.ringHead % 16) =
        some (leBytes 1 stRetry ++ leBytes 1 0x23 ++ [0, 0] ++ leBytes 4 tag ++ leBytes 4 (nextSeq s.cfg.ringHead) ++ [0, 0, 0, 0] ++ padTo 112 [])))) ∧
  (∀ (since : Nat) (s : State), awake s = true → s.pwr.sleep = .asleep since →
    (now s < since + 1000000 → exec .sleepReqAssert s = .next s) ∧
    (since + 1000000 ≤ now s →
      let u := settle { s with pwr := { s.pwr with sleepReq := .low, mode := .bmkOnly, perst := [], romHold := false, resetDue := none } }
      exec .sleepReqAssert s = .next (if timeHolds s then wakeFires 0 u else u) ∧ intN u = .hiZ)) ∧
  (∀ (w : WakeSource) (x : Int) (s : State), s.pwr.mode = .bmkOnly → (wakeHolds s w x).2 = true →
    exec (.wakeComparatorFire w x) s = .next (wakeFires (wakeHolds s w x).1 s)) ∧
  (∀ (bit : Nat) (s : State), let u : State := { s with
      bmk := { s.bmk with wakeCause := s.bmk.wakeCause ||| BitVec.ofNat 32 (2 ^ bit) }
      pwr := { s.pwr with sleepReq := .hiZ, wakeBoot := true } }
    wakeFires bit s = if s.pwr.resetN then u else wake u) ∧
  (∀ (w : WakeSource) (x : Int) (s : State), s.pwr.mode ≠ .bmkOnly ∨ (wakeHolds s w x).2 = false → exec (.wakeComparatorFire w x) s = .next s)

/-- The JTAG instructions (21 R464, R465), while the TAP works. IDCODE, SAMPLE/PRELOAD and BYPASS load themselves, and a TAP reset loads IDCODE.
EXTEST, EXTEST_PULSE, EXTEST_TRAIN, HIGHZ and CLAMP take effect only while RESET_N is low, and else act as BYPASS. When the node is held in reset,
another instruction lets the ROM start. In Benchmark-only and in power-on reset the TAP is unavailable. -/
def Obligations.JtagLoadsAndHolds : Prop :=
  (∀ (c : Instr) (ir : JtagIr) (s : State), tapWorks s = true →
    ((c, ir) = (.jtagTapReset, .idcode) ∨ (c, ir) = (.idcode, .idcode) ∨ (c, ir) = (.samplePreload, .samplePreload) ∨ (c, ir) = (.bypass, .bypass)) →
    exec c s = .next (if s.pwr.extestHold then
      { s with jtag := { ir := ir, inEffect := false }, pwr := { s.pwr with mode := .running, romHold := true, extestHold := false } }
      else { s with jtag := { ir := ir, inEffect := false } })) ∧
  (∀ (c : Instr) (ir : JtagIr) (s : State), tapWorks s = true → s.pwr.extestHold = false →
    ((c, ir) = (.extest, .extest) ∨ (c, ir) = (.extestPulse, .extestPulse) ∨ (c, ir) = (.extestTrain, .extestTrain) ∨ (c, ir) = (.highz, .highz) ∨
      (c, ir) = (.clamp, .clamp)) →
    exec c s = .next (if s.pwr.resetN then { s with jtag := { ir := .bypass, inEffect := false } }
      else { s with jtag := { ir := ir, inEffect := true } })) ∧
  (∀ (c : Instr) (s : State), tapWorks s = false → s.pwr.extestHold = false → c ∈ [Instr.jtagTapReset, .idcode, .samplePreload, .extest, .extestPulse,
    .extestTrain, .highz, .clamp, .bypass] → exec c s = .next s)

/-! ## Clocks, supplies and temperature -/

/-- The throttle (02 R44): at 85.0 °C the clock is capped at 1.0 GHz (point 14) and at 95.0 °C at 0.65 GHz (point 0), each cap released 3 °C below its
step; crossing a step upwards sets THROTTLE_85 or THROTTLE_95. A region's temperature is the highest of its 8 readings (21 R462). The hardware acts on the
clock alone, in every region, a gated or fenced one too. -/
def Obligations.ThrottleFollowsTheTemperature : Prop :=
  (∀ (g : Rgn) (t : Nat),
    (throttled g t).temp = t ∧
    ((throttled g t).cap85 = true ↔ 340 ≤ t ∨ g.cap85 = true ∧ 328 < t) ∧
    ((throttled g t).cap95 = true ↔ 380 ≤ t ∨ g.cap95 = true ∧ 368 < t)) ∧
  freqOf 14 * 25 = 1000 ∧ freqOf 0 * 25 = 650 ∧
  (∀ g : Rgn, (g.cap85 = true → (capPoint g).point ≤ 14) ∧ (g.cap95 = true → (capPoint g).point = 0) ∧ (capPoint g).point ≤ g.point ∧
    (g.cap85 = false → g.cap95 = false → g.point ≤ 34 → capPoint g = g) ∧
    (capPoint g).vddSet = g.vddSet ∧ (capPoint g).ramp = g.ramp) ∧
  (∀ (r : Fin 16) (v : Vector (BitVec 10) 8) (s : State), awake s = true →
    let g := rgnOf s r
    let h := throttled g (highest (v.toList.map (·.toNat)))
    ∃ t, exec (.thermalSample r v) s = .next t ∧
      (∀ x ∈ v.toList, x.toNat ≤ (rgnOf t r).temp) ∧ (∃ x ∈ v.toList, x.toNat = (rgnOf t r).temp) ∧ (rgnOf t r).sens = v.toList.map (·.toNat) ∧
      (rgnOf t r).cap85 = h.cap85 ∧ (rgnOf t r).cap95 = h.cap95 ∧ (rgnOf t r).vddSet = g.vddSet ∧
      (rgnOf t r).point = (capPoint h).point ∧
      (∀ x, x ≠ r.val → (rgnOf t x).point = (rgnOf s x).point ∧ (rgnOf t x).temp = (rgnOf s x).temp) ∧
      (throttleLevel g < throttleLevel h → throttleLevel h = 1 → (causeWord t (leafThrottle85 r).src).testBit (leafThrottle85 r).bit = true) ∧
      (throttleLevel g < throttleLevel h → throttleLevel h = 2 → (causeWord t (leafThrottle95 r).src).testBit (leafThrottle95 r).bit = true)) ∧
  (∀ (r : Fin 16) (v : Vector (BitVec 10) 8) (s : State), awake s = false → exec (.thermalSample r v) s = .next s)

/-- The side link's comparison and what follows (02 R46, Table 2.7), for a pair in force. The ratio beyond 2:1 sets SKEW_RATIO; the fourth successive sample
beyond 150 mV sets SKEW_SUPPLY and starts the clamp, which 120 mV or less releases. Beyond the limit after 1 ms, or with the faster region at 0.65 GHz, the
region farther from its set voltage is fenced with SUPPLY_FAULT. The lower region at equal distances is the model's choice (log 48). -/
def Obligations.SideLinkFindsSkew : Prop :=
  (∀ (pair : Fin 15) (a b : Nat) (s : State), awake s = true → pairInForce s pair = true →
    let p := pairOf s pair
    let d := max a b - min a b
    ∃ (q : Pair) (t : State), exec (.sideLinkCompare pair a b) s = .next t ∧ t.pair = tset {} s.pair pair q ∧
      q.ratioOn = !ratioOk (rgnOf s pair).point (rgnOf s (pair + 1)).point ∧ q.mvLow = a ∧ q.mvHigh = b ∧
      q.samples = (if 150 < d then min 4 (p.samples + 1) else 0) ∧
      (d ≤ 120 → q.supplyOn = false ∧ q.clampAt = none) ∧ (120 < d → q.supplyOn = (p.supplyOn || q.samples == 4)) ∧
      (q.ratioOn = true → p.ratioOn = false → (causeWord t (leafSkewRatio pair).src).testBit (leafSkewRatio pair).bit = true) ∧
      (q.samples = 4 → p.supplyOn = false → q.clampAt = some (now s) ∧
        (causeWord t (leafSkewSupply pair).src).testBit (leafSkewSupply pair).bit = true)) ∧
  (∀ (pair : Fin 15) (a b : Nat) (s : State), awake s = false ∨ pairInForce s pair = false → exec (.sideLinkCompare pair a b) s = .next s) ∧
  (∀ (a b : Nat), ratioOk a b = true ↔ 26 + a ≤ 2 * (26 + b) ∧ 26 + b ≤ 2 * (26 + a)) ∧
  (∀ (pair : Fin 15) (s : State), let p := pairOf s pair
    awake s = true → pairInForce s pair = true → p.supplyOn = true → 150 < supplyDiff p →
    ((∃ t0, p.clampAt = some t0 ∧ t0 + 1000000 ≤ now s) ∨ (rgnOf s (fasterOf s pair)).point = 0) →
    exec (.supplySkewTimeout pair) s = .next (
      let off := fun (mv r : Nat) => max mv ((rgnOf s r).vddSet * 5) - min mv ((rgnOf s r).vddSet * 5)
      supplyFault (if off p.mvLow pair < off p.mvHigh (pair + 1) then pair + 1 else pair) s)) ∧
  (∀ (r : Nat) (s : State), awake s = true → (rgnOf s r).fenced = false →
    supplyFault r s = fenceRegion r (logSeq (raise (leafSupplyFault r) [] s) (ringRegion r)) (raise (leafSupplyFault r) [] s))

/-- A region's point (02 R43; 21 R455, R456). Downwards the clock changes at once and the supply after it; upwards the supply ramps first and the clock
waits for its end. The supply moves 1 mV every 100 ns. DVFS_POINT_CHANGE sets the target, moves the point within the limits and starts a clamp pass;
a gated region keeps its clock. SUPPLY_RAMP_END brings the point that waited into force, not before the ramp's time. -/
def Obligations.PointsMoveClockAndSupply : Prop :=
  (∀ (r k : Nat) (s : State), k ≤ (rgnOf s r).point →
    (rgnOf (movePoint r k s) r).point = k ∧ (rgnOf (movePoint r k s) r).vddSet = pointMv s k / 5) ∧
  (∀ (r k : Nat) (s : State), (rgnOf s r).point < k → trackMv (rgnOf s r) (now s) < pointMv s k →
    (rgnOf (movePoint r k s) r).point = (rgnOf s r).point ∧
    (rgnOf (movePoint r k s) r).ramp = some { fromMv := trackMv (rgnOf s r) (now s), toMv := pointMv s k, start := now s, thenPoint := some k } ∧
    (rgnOf (movePoint r k s) r).vddSet = pointMv s k / 5) ∧
  (∀ (r k x : Nat) (s : State), x ≠ r → rgnOf (movePoint r k s) x = rgnOf s x) ∧
  (∀ (g : Rgn) (u : Ramp) (t : Nat), g.ramp = some u → u.start ≤ t →
    trackMv g t = if u.fromMv ≤ u.toMv then min u.toMv (u.fromMv + (t - u.start) / 100) else max u.toMv (u.fromMv - (t - u.start) / 100)) ∧
  (∀ (r : Fin 16) (k : Fin 35) (s : State), awake s = true → (rgnOf s r).fenced = false →
    let g := { rgnOf s r with target := k.val }
    exec (.dvfsPointChange r k) s = .next (if g.gated then setRgn r g s else clampPass r (movePoint r (allowed g) (setRgn r g s)))) ∧
  (∀ (r : Fin 16) (k : Fin 35) (s : State), awake s = false ∨ (rgnOf s r).fenced = true → exec (.dvfsPointChange r k) s = .next s) ∧
  (∀ (r : Fin 16) (u : Ramp) (s : State), awake s = true → (rgnOf s r).ramp = some u →
    (now s < u.start + 100 * (max u.fromMv u.toMv - min u.fromMv u.toMv) → exec (.supplyRampEnd r) s = .next s) ∧
    (u.start + 100 * (max u.fromMv u.toMv - min u.fromMv u.toMv) ≤ now s → (rgnOf s r).gated = true → (rgnOf s r).fenced = false →
      u.thenPoint ≠ none → exec (.supplyRampEnd r) s = .next (ungateRgn r (setRgn r { rgnOf s r with ramp := none } s))) ∧
    (u.start + 100 * (max u.fromMv u.toMv - min u.fromMv u.toMv) ≤ now s →
      (rgnOf s r).gated = false ∨ (rgnOf s r).fenced = true ∨ u.thenPoint = none → ∃ t, exec (.supplyRampEnd r) s = .next t ∧ (rgnOf t r).ramp = none ∧
      (u.thenPoint = none → (rgnOf t r).point = (rgnOf s r).point) ∧
      (∀ k, u.thenPoint = some k → (rgnOf t r).point = max (rgnOf s r).point (min k (allowed (rgnOf s r)))) ∧
      (∀ x, x ≠ r.val → rgnOf t x = rgnOf s x))) ∧
  (∀ (r : Fin 16) (code : BitVec 10) (n : Nat) (s : State), awake s = true → (rgnOf s r).fenced = false →
    exec (.avsTransaction r code n) s = .next (
      if 4 ≤ n then supplyFault r s
      else if 120 ≤ code.toNat ∧ code.toNat ≤ 180 then setRgn r (rampTo (now s) (code.toNat * 5)
        (((rgnOf s r).ramp.bind (·.thenPoint)).filter fun k => decide (pointMv s k ≤ code.toNat * 5)) (rgnOf s r)) s
      else s))

/-- The clamp pass and its release (02 R46, R47, R48). SKEW_CLAMP_APPLY computes every clamp along the chain before it applies any, and lowers the
regions farthest first from the one that started the pass. A release raises a region's point by one 25 MHz step, at most every 1 ms, and only where
its limits may lift and its neighbours allow it. -/
def Obligations.ClampsApplyFarthestFirst : Prop :=
  (∀ (r : Fin 16) (s : State), awake s = true →
    exec (.skewClampApply r) s = .next ((List.range 15).foldl searchAction ((farthestFirst r).foldl (applyClamp (clampsOf s)) s))) ∧
  (∀ r : Fin 16, (farthestFirst r).Perm (List.range 16) ∧
    (farthestFirst r).Pairwise fun x y => max y r.val - min y r.val ≤ max x r.val - min x r.val) ∧
  (∀ (r : Fin 16) (s : State), awake s = true → inForce s r = true → goalPoint s r = (rgnOf s r).point →
    (rgnOf s r).point < unclamped (rgnOf s r) → (rgnOf s r).lastRaise + 1000000 ≤ now s →
    ((rgnOf s r).lim.all fun e => decide ((rgnOf s r).point + 1 ≤ e.2) || liftable s r e.1) = true → stepFits s r ((rgnOf s r).point + 1) = true →
    exec (.clampReleaseStep r) s = .next (movePoint r ((rgnOf s r).point + 1)
      (setRgn r { liftLims ((rgnOf s r).point + 1) (rgnOf s r) with lastRaise := now s } s))) ∧
  (∀ (r : Fin 16) (s : State), awake s = false ∨ inForce s r = false ∨ unclamped (rgnOf s r) ≤ (rgnOf s r).point ∨
    now s < (rgnOf s r).lastRaise + 1000000 ∨ stepFits s r ((rgnOf s r).point + 1) = false → exec (.clampReleaseStep r) s = .next s)

/-- The package power cap and the quiet state (02 R49, R51; 18 R405). At every measurement above the cap each region in force goes one step down, with
a clamp pass, and POWER_CAPPED is set; 10 ms at 95 % of the cap or less end it. A region idle for QUIET_IDLE µs is gated at 0.65 GHz; work that waits
in it ungates it at a point within its neighbours' limits and its throttle's, once its supply has ramped there, counts QUIET_WAKE and starts the DMA
that waited. That the pass starts at region 0 is the model's choice (log 49). -/
def Obligations.PowerCapAndQuietState : Prop :=
  (∀ (w : Nat) (s : State), awake s = true → (s.cfg.img.map (·.powerCap)).getD 1150 < w →
    ∃ t, exec (.powerMeasure w) s = .next t ∧ t.cap = { s.cap with overCap := true, belowSince := none } ∧
      (causeWord t leafPowerCapped.src).testBit leafPowerCapped.bit = true ∧
      t.rgn = (clampPass 0 ((List.range 16).foldl capStep { s with cap := { s.cap with overCap := true, belowSince := none } })).rgn) ∧
  (∀ (w : Nat) (s : State), awake s = true → w ≤ (s.cfg.img.map (·.powerCap)).getD 1150 →
    exec (.powerMeasure w) s = .next { s with cap :=
      if s.cap.overCap = true ∧ 100 * w ≤ 95 * (s.cfg.img.map (·.powerCap)).getD 1150 then
        (if s.cap.belowSince.getD (now s) + 10000000 ≤ now s then { s.cap with overCap := false, belowSince := none }
         else { s.cap with belowSince := some (s.cap.belowSince.getD (now s)) })
      else { s.cap with belowSince := none } }) ∧
  (∀ (r : Nat) (s : State), inForce s r = true → 0 < goalPoint s r → ∃ g, capStep s r = movePoint r (goalPoint s r - 1) (setRgn r g s) ∧
    tlook g.lim 6 = some (min (goalPoint s r - 1) ((tlook (rgnOf s r).lim 6).getD (goalPoint s r - 1)))) ∧
  (∀ (r : Fin 16) (s : State), ready s = true → inForce s r = true → (s.cfg.img.map (·.quietIdle)).getD 500 ≠ 0 → regionIdle s r = true →
    (rgnOf s r).busyAt + 1000 * (s.cfg.img.map (·.quietIdle)).getD 500 ≤ now s →
    ∃ t, exec (.quietGate r) s = .next t ∧ (rgnOf t r).gated = true ∧ (rgnOf t r).point = 0 ∧ (∀ x, x ≠ r.val → rgnOf t x = rgnOf s x)) ∧
  (∀ (r : Fin 16) (s : State), ready s = false ∨ inForce s r = false ∨ (s.cfg.img.map (·.quietIdle)).getD 500 = 0 ∨ regionIdle s r = false ∨
    now s < (rgnOf s r).busyAt + 1000 * (s.cfg.img.map (·.quietIdle)).getD 500 → exec (.quietGate r) s = .next s) ∧
  (∀ (r : Fin 16) (s : State), awake s = true → (rgnOf s r).fenced = false → (rgnOf s r).gated = true →
    (rgnOf s r).ramp.bind (·.thenPoint) = none → workWaits s r = true → exec (.quietUngate r) s = .next (ungateRgn r s)) ∧
  (∀ (r : Nat) (s : State), let g := ungateLims s r (rgnOf s r); let k := ungatePoint s r g
    (trackMv g (now s) < pointMv s k → ungateRgn r s = setRgn r (rampTo (now s) (pointMv s k) (some k) g) s) ∧
    (pointMv s k ≤ trackMv g (now s) → ungateRgn r s = (regionDma r).foldl startWaiting (clampPass r (count (rgnCntOff r 15)
      (setRgn r (rampTo (now s) (pointMv s k) none { g with gated := false, point := k }) s)))) ∧
    k ≤ throttleTop (rgnOf s r) ∧
    (∀ e ∈ neighbours s r, k ≤ ratioTop (rgnOf s e.1).point ∧ ((pairOf s e.2).tempOn = true → k ≤ (rgnOf s e.1).point)) ∧
    ((∀ e ∈ neighbours s r, ratioFloor (rgnOf s e.1).point ≤ ungateTop s r g) → ∀ e ∈ neighbours s r, ratioFloor (rgnOf s e.1).point ≤ k)) ∧
  (∀ (r : Fin 16) (s : State), (rgnOf s r).gated = false ∨ workWaits s r = false → exec (.quietUngate r) s = .next s)

/-! ## Faults -/

/-- A fatal error (02 R38; 19 R421; 20 R438): the first alone is taken. It sets CHIP_FATAL, keeps its REASON, drops every request and the work in
progress, withdraws the node, sets PHASE to FATAL and NODE_STATE to DRAINED, ending a SLEEP and the ROM's hold; an atom that runs leaves its journal entry
ABANDONED (04 R104) and a DMA run is aborted; pages, directory and the rest of the memories stay as they are. A thermal trip falls due within 50 µs. -/
def Obligations.FatalErrorStopsTheNode : Prop :=
  (∀ (tell : Bool) (reason : Nat) (lower : Detail) (s : State), s.ctl.fatal = none →
    let t := fatalStop tell reason lower s
    t.ctl.fatal = some reason ∧ t.ctl.withdrawn = true ∧ t.cfg.phase = 9 ∧ t.node.st = .drained ∧ t.node.blocked = [] ∧
    t.pwr = { s.pwr with sleep := .none, romHold := false } ∧ t.req = [] ∧ t.installs = [] ∧ t.slu.inst = [] ∧ t.slu.queue = [] ∧
    t.datum.prop = [] ∧ t.datum.loadIn = [] ∧
    (causeWord t leafChipFatal.src).testBit leafChipFatal.bit = true ∧ t.mem = { s.mem with fast := t.mem.fast } ∧ t.dir = s.dir ∧ t.sto = s.sto ∧
    (Memory.wf s.mem.fast = true → ∀ x, offJournals s x = true → tget 0 t.mem.fast x = tget 0 s.mem.fast x) ∧
    (∀ ch, (chanSt t ch).atom = none) ∧ (∀ c, (dmaOf t c).run = none)) ∧
  (∀ (tell : Bool) (reason : Nat) (lower : Detail) (s : State), s.ctl.fatal ≠ none → fatalStop tell reason lower s = s) ∧
  (∀ (sensor temp : Nat) (s : State), awake s = true → 460 ≤ temp → ∃ t, exec (.thermalTrip sensor temp) s = .next t ∧
    t.pwr.resetDue = some (now s + 50000, .thermal) ∧ t.ctl.fatal = some (s.ctl.fatal.getD 5) ∧
    (Memory.wf s.mem.fast = true → ∀ x, offJournals s x = true → tget 0 t.mem.fast x = tget 0 s.mem.fast x)) ∧
  (∀ (sensor temp : Nat) (s : State), awake s = true → temp < 460 → exec (.thermalTrip sensor temp) s = .next (noteSensor sensor temp s)) ∧
  (∀ (sensor temp : Nat) (s : State), awake s = false → exec (.thermalTrip sensor temp) s = .next s) ∧
  (∀ (st : Fin 6) (parity : Bool) (s : State), awake s = true → s.ctl.spineDead.getLsbD st = false →
    ∃ t, exec (.spineStationFault st parity) s = .next t ∧ t.ctl.fatal = some (s.ctl.fatal.getD 2) ∧
      t.ctl.spineDead = s.ctl.spineDead ||| (1#6 <<< st.val) ∧
      (let l := if parity then leafSpineParityFault st.val else leafSpineLinkFault st.val
       (causeWord t l.src).testBit l.bit = true)) ∧
  (∀ (st : Fin 6) (parity : Bool) (s : State), awake s = false ∨ s.ctl.spineDead.getLsbD st = true →
    exec (.spineStationFault st parity) s = .next s)

/-- A region is fenced once (02 R38, Table 2.5): REGION_FENCED is set, its units fail and its requests end; a second fenced region is a fatal error
with REASON 1. PLL_LOCK_LOSS fences its region. A rail out of its range acts by 21 Table 21.6: a region's rail fences it, VDD_STACK and VDD_G7 all
regions, VDD_SPINE stops the node with REASON 2, VDD_NET and VDD_SERDES with REASON 3, VDD_CTL with REASON 4, VDD_TIER fences the ports, and VDD_AON below
1.62 V is a power-on reset that keeps the NVM and the fuses; in range it does nothing. While the ROM is held, the other rails only hold it there (log 79). -/
def Obligations.RegionsAreFencedOnce : Prop :=
  (∀ (r c : Nat) (s : State), awake s = true → rgnFenced s r = false →
    let b := barrierFenced r (raise (leafRegionFenced r) [(36, 4, c)] (setRgn r { rgnOf s r with fenced := true } s))
    let t := fenceRegion r c s
    let e := endRuns (fun x => sideRegion x == some r) (ringRegion r) b
    (rgnOf t r).fenced = true ∧ (∀ x, x ≠ r → rgnOf t x = rgnOf s x) ∧ t.barrier = b.barrier ∧ t.mem = { s.mem with fast := t.mem.fast } ∧
    (Memory.wf s.mem.fast = true → ∀ x, offJournals s x = true → tget 0 t.mem.fast x = tget 0 s.mem.fast x) ∧
    ((∃ x, x < 16 ∧ rgnFenced s x = true) → t = chipFatal 1 (r + 64) (logSeq e (ringRegion r)) e ∧ t.ctl.fatal = some (s.ctl.fatal.getD 1)) ∧
    ((∀ x, x < 16 → rgnFenced s x = false) → t.ctl = s.ctl ∧ t.pwr = s.pwr)) ∧
  (∀ (r c : Nat) (s : State), awake s = false ∨ rgnFenced s r = true → fenceRegion r c s = s) ∧
  (∀ (r : Fin 16) (s : State), exec (.pllLockLoss r) s = .next (fenceRegion r noCause s)) ∧
  (∀ (rail : Rail) (mv : Nat) (s : State), mv ≤ railMax rail → railBad s rail mv = true →
    (awake s = true ∧ s.pwr.romHold = false) ∨ rail = .aon → exec (.railFault rail mv) s = .next (
      match rail with
      | .rgn n => supplyFault n s
      | .stack | .g7 => (List.range 16).foldl (fun s r => fenceRegion r noCause s) s
      | .spine => fatalStop true 2 [] { s with ctl := { s.ctl with spineDead := 0x3F } }
      | .net | .serdes => netLoss 0 (netLoss 1 (netLoss 2 (netLoss 3 s)))
      | .ctl => fatalStop true 4 [] (catchTakeover 1 (catchTakeover 0 (coresLost 1 (coresLost 0
          { s with cfg := { s.cfg with standbyOk := false }, ctl := { s.ctl with primaryFenced := true, standbyLost := true } }))))
      | .tier => fencePort 3 (fencePort 2 (fencePort 1 (fencePort 0 s)))
      | .aon => { State.reset with
          mem := { nvm := s.mem.nvm, deep := s.mem.deep }, fuse := s.fuse, free := s.free, resets := s.resets + 1, pending := s.pending })) ∧
  (∀ (rail : Rail) (mv : Nat) (s : State), mv ≤ railMax rail → railBad s rail mv = false ∨ ((awake s = false ∨ s.pwr.romHold = true) ∧ rail ≠ .aon) →
    exec (.railFault rail mv) s = .next s) ∧
  (∀ (s : State) (rail : Rail) (mv : Nat), (∀ n, rail ≠ .rgn n) → rail ≠ .aon →
    (railBad s rail mv = true ↔ mv < (railRange rail).1 ∨ (railRange rail).2 < mv)) ∧
  (∀ (s : State) (n : Fin 16) (mv : Nat), let v := trackMv (rgnOf s n) (now s)
    (railBad s (.rgn n) mv = true ↔ mv < (railRange (.rgn n)).1 ∨ (railRange (.rgn n)).2 < mv ∨ 50 < max mv v - min mv v)) ∧
  (∀ (s : State) (mv : Nat), railBad s .aon mv = true ↔ mv < 1620)

/-- Lost dies and clocks (02 Table 2.5; 21 Table 21.8). A network die takes its ports down and stops the node with REASON 3; a tier die fences its
port for good and leaves its PERST_N undriven; a reference clock that stops acts on what it drives, and in a node that does not serve is only absent;
the crystal's stop leaves fabric time on the internal oscillator. -/
def Obligations.LostDiesAndClocks : Prop :=
  (∀ (n : Fin 4) (s : State), awake s = true → s.ctl.netLost.getLsbD n = false → ∃ t, exec (.dieLoss (.net n)) s = .next t ∧
    t.ctl.fatal = some (s.ctl.fatal.getD 3) ∧ t.ctl.netLost = s.ctl.netLost ||| (1#4 <<< n.val) ∧
    t.jx.portUp = s.jx.portUp &&& ~~~(3#8 <<< (2 * n.val))) ∧
  (∀ (p : Fin 4) (s : State), awake s = true → (tierOf s p).dieLost = false → ∃ t, exec (.dieLoss (.tier p)) s = .next t ∧
    (tierOf t p).dieLost = true ∧ (tierOf t p).fenced = true ∧ (tierOf t p).retryAt = none ∧ tget .hiZ t.pwr.perst p = .hiZ ∧
    ∀ x, x ≠ p.val → tierOf t x = tierOf (fencePort p s) x) ∧
  (∀ (n : Fin 2) (s : State), awake s = true → exec (.dieLoss (.ctl n)) s = .next (
    if n.val = s.cfg.ctlPrimary then ctlTakeover s else if s.cfg.standbyOk then standbyLoss s else s)) ∧
  (∀ (d : DieName) (s : State), awake s = false → exec (.dieLoss d) s = .next s) ∧
  (∀ s : State, awake s = true → nodeServes s = true → s.pwr.sysClk = true → ∃ t, exec (.refclkStop .sys) s = .next t ∧
    t.pwr.sysClk = false ∧ t.ctl.fatal = some (s.ctl.fatal.getD 1)) ∧
  (∀ (n : Fin 4) (s : State), nodeServes s = true → exec (.refclkStop (.net n)) s = .next (
    ethLink (2 * n.val + 1) false (ethLink (2 * n.val) false { s with pwr := { s.pwr with netClk := s.pwr.netClk &&& ~~~(1#4 <<< n.val) } }))) ∧
  (∀ (n : Fin 4) (s : State), nodeServes s = true → exec (.refclkStop (.tier n)) s = .next (
    fencePort n { s with pwr := { s.pwr with tierClk := s.pwr.tierClk &&& ~~~(1#4 <<< n.val) } })) ∧
  (∀ s : State, awake s = true → exec (.refclkStop .svc) s = .next { s with
    pwr := { s.pwr with svcClk := false }
    svc := { s.svc with owned := false, ownerRid := 0, mse := false, bme := false, d3hot := false, bar := 0, linkUp := false } }) ∧
  (∀ (c : RefClk) (s : State), awake s = true → nodeServes s = false → c ≠ .svc → exec (.refclkStop c) s = .next { s with pwr := clockOff c s.pwr }) ∧
  (∀ s : State, nodeServes s = true → s.pwr.sysClk = false → exec (.refclkStop .sys) s = .next s) ∧
  (∀ (c : RefClk) (s : State), awake s = false → exec (.refclkStop c) s = .next s) ∧
  (∀ s : State, exec .xtalStop s = .next (if s.bmk.counting then { s with bmk := { s.bmk with xtalInternal := true } } else s))

/-- The control dies (18 R401, R402, R403; 19 R422). The fifth heartbeat missed in succession makes the standby the primary: CTL_TAKEOVER is set, every deferred
command is answered and no standby is left. A standby that is lost sets CTL_STANDBY_LOST. With neither die the node stops with REASON 4. -/
def Obligations.TheStandbyTakesOver : Prop :=
  (∀ s : State, s.cfg.standbyOk = true → let t := ctlTakeover s
    t.cfg.ctlPrimary = 1 - s.cfg.ctlPrimary ∧ t.cfg.standbyOk = false ∧ t.cfg.outstanding = [] ∧ t.cfg.latched = none ∧ t.ctl.primaryFenced = true ∧
    t.sec.trees = [] ∧ (causeWord t leafCtlTakeover.src).testBit leafCtlTakeover.bit = true ∧
    (∀ tm, s.pwr.resetDue = some (tm, .soft) → t.pwr.resetDue = none)) ∧
  (∀ s : State, s.cfg.standbyOk = false → s.ctl.fatal = none → (ctlTakeover s).ctl.fatal = some 4) ∧
  (∀ s : State, awake s = true → s.cfg.standbyOk = true → s.ctl.missed = 0 ∨ s.ctl.missAt + 10000 ≤ now s →
    let n := if now s < s.ctl.missAt + 20000 then s.ctl.missed + 1 else 1
    let u : State := { s with ctl := { s.ctl with missed := n, missAt := now s } }
    exec .heartbeatMiss s = .next (if 5 ≤ n then ctlTakeover u else u)) ∧
  (∀ s : State, awake s = false ∨ s.cfg.standbyOk = false → exec .heartbeatMiss s = .next s ∧ exec .ctlStandbyLost s = .next s) ∧
  (∀ s : State, awake s = true → s.cfg.standbyOk = true → ∃ t, exec .ctlStandbyLost s = .next t ∧
    t.cfg.standbyOk = false ∧ t.cfg.ctlPrimary = s.cfg.ctlPrimary ∧ t.ctl.standbyLost = true ∧ t.ctl.missed = 0 ∧
    (causeWord t leafCtlStandbyLost.src).testBit leafCtlStandbyLost.bit = true ∧ t.req = s.req)

/-! ## Channels and channel units -/

/-- A channel's upkeep (04 R82-R86). Retracking is due every 10 ms and waits for a running atom; a refresh waits for an atom or for its
bank's reads while fewer than 8 are owed, and never more than 32 are; owed ones issue through the 16 banks in turn, at tRREFD spacing, down to those that
let a command that yielded go on, or that reads hold; above 85 °C a
device's channels halve tREFI until 82 °C; the fourth failure of one transfer retrains the channel; the second failed retraining loses it and fences its
region. -/
def Obligations.ChannelsAreKept : Prop :=
  (∀ (ch : Fin 192) (s : State), awake s = true → (chanSt s ch).lost = false →
    exec (.g7Retrack ch) s = .next (
      if now s < (chanSt s ch).lastRetrack + 10000000 then s
      else if (chanSt s ch).atom.isSome then setChan ch { chanSt s ch with retrackDue := true } s
      else setChan ch { chanSt s ch with lastRetrack := now s } s)) ∧
  (∀ (ch : Fin 192) (bankReads : Bool) (s : State), awake s = true → (chanSt s ch).lost = false → ∃ t, exec (.refpbDue ch bankReads) s = .next t ∧
    ((chanSt s ch).atom.isSome = true → chanSt t ch = { chanSt s ch with debt := min 32 ((chanSt s ch).debt + 1) }) ∧
    ((chanSt s ch).atom = none → let c := payDown s (chanSt s ch)
      chanSt t ch = payDown s { c with
        debt := min 32 (c.debt + 1), bankReads := bankReads, refNext := if c.bankReads then max c.refNext (now s) else c.refNext } ∧
      (bankReads = true → c.yielded = false → c.debt < 7 → (chanSt t ch).debt = c.debt + 1 ∧ (chanSt t ch).bank = c.bank)) ∧
    (chanSt t ch).atom = (chanSt s ch).atom ∧ (chanSt t ch).journal = (chanSt s ch).journal ∧ ∀ x, x ≠ ch.val → chanSt t x = chanSt s x) ∧
  (∀ (c : Chan) (s : State), (c.atom.isSome = true ∨ now s < c.refNext → payDown s c = c) ∧
    (c.atom = none → c.refNext ≤ now s → ∃ n, n ≤ c.debt - owedFloor s c ∧ (n ≠ 0 → c.refNext + (n - 1) * trrefd s ≤ now s) ∧
      (0 < trrefd s → n = c.debt - owedFloor s c ∨ now s < c.refNext + n * trrefd s) ∧
      payDown s c = { c with debt := c.debt - n, bank := (c.bank + n) % 16, refNext := c.refNext + n * trrefd s })) ∧
  (∀ (c : Chan) (s : State), owedFloor s c = if c.yielded then 32 - atomDebt s c else if c.bankReads then 7 else 0) ∧
  (∀ (dev : Fin 48) (celsius : Int) (s : State), awake s = true → ∃ t, exec (.deviceTempRead dev celsius) s = .next t ∧
    ∀ i, i < 4 → let c := chanSt s (dev * 4 + i)
      let want := if 85 < celsius then true else if celsius ≤ 82 then false else c.halfDue.getD c.half
      (chanSt t (dev * 4 + i)).halfDue.getD (chanSt t (dev * 4 + i)).half = want ∧
      (c.atom.isSome → (chanSt t (dev * 4 + i)).half = c.half)) ∧
  (∀ (ch : Fin 192) (again : Bool) (s : State), awake s = true → (chanSt s ch).lost = false → (chanSt s ch).retraining = false →
    let n := if again then (chanSt s ch).crc + 1 else 1
    ∃ t, exec (.linkCrcFail ⟨ch, again⟩) s = .next t ∧
    (n < 4 → (chanSt t ch).crc = n ∧ (chanSt t ch).retraining = false ∧
      (causeWord t (leafLinkCrcRetry (ch / 12)).src).testBit (leafLinkCrcRetry (ch / 12)).bit = true) ∧
    (4 ≤ n → (chanSt t ch).crc = 0 ∧ (chanSt t ch).retraining = true ∧ (chanSt t ch).atom = none ∧
      (causeWord t (leafLinkRetrain (ch / 12)).src).testBit (leafLinkRetrain (ch / 12)).bit = true)) ∧
  (∀ (ch : Fin 192) (s : State), awake s = true → (chanSt s ch).retraining = true →
    exec (.channelRetrainDone ch true) s = .next (setChan ch { chanSt s ch with retraining := false, retrainFails := 0 } s) ∧
    ((chanSt s ch).retrainFails = 0 → ∃ t, exec (.channelRetrainDone ch false) s = .next t ∧
      chanSt t ch = { chanSt s ch with retrainFails := 1 }) ∧
    (1 ≤ (chanSt s ch).retrainFails → exec (.channelRetrainDone ch false) s = .next (
      let u := raise (leafG7ChannelLost (ch / 12)) [(16, 1, ch.val % 12)]
        (setChan ch { chanSt s ch with retraining := false, retrainFails := 0, lost := true } s)
      fenceRegion (ch / 12) (logSeq u (ringRegion (ch / 12))) u))) ∧
  (∀ (ch : Fin 192) (s : State), awake s = false → ∀ c, (c = .g7Retrack ch ∨ (∃ b, c = .linkCrcFail ⟨ch, b⟩) ∨ (∃ b, c = .refpbDue ch b) ∨
    ∃ b, c = .channelRetrainDone ch b) → exec c s = .next s)

/-- A command reaches its unit (04 R96, R97, R98, R102). With MODE and MODE_ACK 1 it is enqueued behind at most 15 others; otherwise it is discarded, its issuer
told, with APERTURE_MODE or UNIT_QUEUE_OVERRUN set. On a lost channel or in a fenced region it ends with ST_INTERNAL. SCRUB_PASS issues SCRUB to the twelve
units of its region, once in 8 hours. MODE 1 takes 12 MiB of the region's stack SRAM as scratch; MODE 0 clears MODE_ACK and returns it when nothing is queued or
running. That a command which meets MODE 0 with MODE_ACK 1 is discarded is the model's choice (log 64). -/
def Obligations.UnitsTakeCommandsInCompute : Prop :=
  (∀ (c : Instr) (op : Nat) (ch : Fin 192) (s : State),
    ((c, op) = (.appendTail ch, 1) ∨ (c, op) = (.requant ch, 2) ∨ (c, op) = (.reencode ch, 3) ∨ (c, op) = (.compact ch, 4) ∨
      (c, op) = (.deltaDecode ch, 5) ∨ (c, op) = (.scrub ch, 6)) →
    (∀ u, (chanSt s ch).issued.find? (fun u => u.op == op) = some u →
      let v := setChan ch { chanSt s ch with issued := (chanSt s ch).issued.erase u } s
      let g := rgnOf s (ch / 12)
      ((chanSt s ch).lost = true ∨ g.fenced = true → exec c s = .next (jobFail u stInternal v)) ∧
      ((chanSt s ch).lost = false → g.fenced = false → g.unitMode = false ∨ g.modeAck = false →
        exec c s = .next (jobFail u stStateConflict (raise (leafApertureMode (ch / 12)) ((18, 1, stStateConflict) :: unitDetail ch u) v))) ∧
      ((chanSt s ch).lost = false → g.fenced = false → g.unitMode = true → g.modeAck = true →
        (16 ≤ (chanSt s ch).queue.length →
          exec c s = .next (jobFail u stStateConflict (raise (leafUnitQueueOverrun (ch / 12)) ((18, 1, stStateConflict) :: unitDetail ch u) v))) ∧
        ((chanSt s ch).queue.length < 16 → ∃ t, exec c s = .next t ∧ (chanSt t ch).queue = (chanSt s ch).queue ++ [cmdRead (cmdBytes u) u] ∧
          (chanSt t ch).issued = (chanSt s ch).issued.erase u ∧ t.work = s.work ∧ t.mem = s.mem ∧ t.log = s.log))) ∧
    ((chanSt s ch).issued.find? (fun u => u.op == op) = none → exec c s = .next s)) ∧
  (∀ (r : Fin 16) (s : State), awake s = true → rgnFenced s r = false → tget 0 s.work.scrubDue r ≤ now s →
    ∃ t, exec (.scrubPass r) s = .next t ∧ tget 0 t.work.scrubDue r = now s + 28800000000000 ∧
      ∀ i, i < 12 → ∃ u, u.op = 6 ∧ (chanSt t (r * 12 + i)).issued = (chanSt s (r * 12 + i)).issued ++ [u]) ∧
  (∀ (r : Fin 16) (s : State), awake s = false ∨ rgnFenced s r = true ∨ now s < tget 0 s.work.scrubDue r → exec (.scrubPass r) s = .next s) ∧
  (∀ (r : Fin 16) (s : State), awake s = true → ∃ t, exec (.unitModeCompute r) s = .next t ∧
    rgnOf t r = { rgnOf s r with unitMode := true, modeAck := true, scratch := 12 } ∧ ∀ x, x ≠ r.val → rgnOf t x = rgnOf s x) ∧
  (∀ (r : Fin 16) (s : State), awake s = true → ∃ t, exec (.unitModeNormal r) s = .next t ∧ (rgnOf t r).unitMode = false ∧
    ((rgnOf t r).modeAck = true ↔ (rgnOf s r).modeAck = true ∧ unitsBusy s r = true) ∧
    (unitsBusy s r = false → (rgnOf t r).scratch = 0) ∧ ∀ x, x ≠ r.val → rgnOf t x = rgnOf s x)

/-- Atoms (04 R93, R99, R102, R104, R105, R107; 02 R37; 18 R405). Owed REFpb first issue as far as time allows. A unit then starts an atom only where its
channel is free, no read that goes first waits, its journal has nothing to redo and the refresh debt plus A stays within 32; the entry is OPEN in the journal
before a byte is written. A closed atom writes its chunks and its entry; one whose reads met an uncorrectable line, or that is aborted, writes no chunk and
leaves its entry ABANDONED, until firmware writes an aborted one's chunks again; a SCRUB's writes none. Where a journal stands and its entries' layout are free
(log 93); that a SCRUB's entry keeps no data is the model's (log 66). -/
def Obligations.AtomsAreJournalled : Prop :=
  (∀ (ch : Fin 192) (r : UnitRun) (s : State), awake s = true → (rgnOf s (ch / 12)).gated = false →
    atomMayStart (payChan ch s) (payDown s (chanSt s ch)) = true →
    (chanSt s ch).run = some r → r.todo ≠ [] → ∃ t n, exec (.atomStart ch false) s = .next t ∧ 1 ≤ n ∧ n ≤ 16 ∧
      let i := (chanSt s ch).nextEntry
      let sl := if r.cmd.job = .scrub then none else some r.cmd.slot
      t.mem = (writeFast (journalAddr ch i) (journalBytes { st := .open_, chunks := r.todo.take n, slot := sl }) s).mem ∧
      (chanSt t ch).atom = some { entry := i, chunks := r.todo.take n, start := now s, job := r.cmd.job, slot := sl } ∧
      tlook (chanSt t ch).journal i = some { st := .open_, chunks := r.todo.take n, slot := sl } ∧
      (chanSt t ch).run = some { r with todo := r.todo.drop n } ∧ (chanSt t ch).nextEntry = ((chanSt s ch).nextEntry + 1) % 256) ∧
  (∀ (ch : Fin 192) (readsWaiting : Bool) (s : State), awake s = true → readsWaiting = true ∨ (rgnOf s (ch / 12)).gated = true ∨
    atomMayStart (payChan ch s) (payDown s (chanSt s ch)) = false → exec (.atomStart ch readsWaiting) s = .next (payChan ch s)) ∧
  (∀ (ch : Fin 192) (readsWaiting : Bool) (s : State), awake s = false → exec (.atomStart ch readsWaiting) s = .next s) ∧
  (∀ (c : Chan) (s : State), atomMayStart s c = true ↔ c.atom = none ∧ c.retraining = false ∧ c.lost = false ∧ c.debt + atomDebt s c ≤ 32 ∧
    tany c.journal (fun _ j => j.st == .abandoned) = false) ∧
  (∀ (ch : Fin 192) (a : Atom) (lc : Bool) (s : State), awake s = true → (chanSt s ch).atom = some a →
    let wrote := fun (st : JournalSt) (l : List (Nat × Bytes)) (u : State) =>
      (writeFast (journalAddr ch a.entry) (journalBytes { st := st, chunks := l, slot := a.slot }) u).mem
    (∃ t, exec (.atomEnd ch .aborted lc) s = .next t ∧ t.mem = wrote .abandoned a.chunks s ∧ (chanSt t ch).atom = none ∧
      tlook (chanSt t ch).journal a.entry = some { st := .abandoned, chunks := a.chunks, slot := a.slot } ∧ (chanSt t ch).run = (chanSt s ch).run) ∧
    (∃ t, exec (.atomEnd ch .scratchError lc) s = .next t ∧ t.mem = wrote .abandoned a.chunks s ∧ (chanSt t ch).atom = none ∧
      tlook (chanSt t ch).journal a.entry = some { st := .abandoned, chunks := a.chunks, slot := a.slot } ∧
      (causeWord t (leafStackUncorrectable (ch / 12)).src).testBit (leafStackUncorrectable (ch / 12)).bit = true) ∧
    (∀ (read : LineOutcome) (fixed : Bool), ∃ t, exec (.atomEnd ch (.closed read fixed) lc) s = .next t ∧
      (a.job = .scrub → t.mem = wrote .closed a.chunks s) ∧
      (a.job ≠ .scrub → (∃ l, lineMet s read = .uncorrectable l) → t.mem = wrote .abandoned (a.chunks.map fun c => (c.1, [])) s ∧
        (chanSt t ch).atom = none) ∧
      (a.job ≠ .scrub → (∀ l, lineMet s read ≠ .uncorrectable l) → Memory.wf s.mem.fast = true → ∀ x,
        x < journalAddr ch (chanSt s ch).nextEntry ∨ journalAddr ch (chanSt s ch).nextEntry + 64 ≤ x →
        tget 0 t.mem.fast x = tget 0 (wrote .closed a.chunks (writeChunks a.chunks s)).fast x) ∧
      (a.job = .scrub ∨ ((chanSt s ch).run = none ∧ ∀ l, lineMet s read ≠ .uncorrectable l) → (chanSt t ch).atom = none ∧
        tlook (chanSt t ch).journal a.entry = some { st := .closed, chunks := a.chunks, slot := a.slot }))) ∧
  (∀ (ch : Fin 192) (index : Nat) (j : Journal) (s : State), awake s = true → tlook (chanSt s ch).journal index = some j → j.st = .abandoned →
    let mine := fun (h : HeldRead) => j.chunks.any fun x => x.1 == h.addr
    let v := setJournal ch index { j with st := .closed } s
    let u := setChan ch { chanSt v ch with held := (chanSt v ch).held.filter fun h => !mine h } v
    exec (.journalRedo ch index true) s = .next (writeChunks (ownedChunks u j) u) ∧
    exec (.journalRedo ch index false) s = .next (redoLost ch ((ownedChunks u j).map (·.1)) ((chanSt s ch).held.filter mine) u) ∧
    tlook (chanSt u ch).journal index = some { j with st := .closed } ∧ (chanSt u ch).run = (chanSt s ch).run) ∧
  (∀ (ch : Fin 192) (index : Nat) (ok : Bool) (s : State), awake s = false → exec (.journalRedo ch index ok) s = .next s) ∧
  (∀ (ch : Fin 192) (index : Nat) (ok : Bool) (s : State),
    (∀ j, tlook (chanSt s ch).journal index = some j → j.st ≠ .abandoned) → exec (.journalRedo ch index ok) s = .next s)

/-! ## The directory -/

/-- The directory's commands answer in the order the manual gives (03 R54, R55, R56, R72, R77, Tables 3.7, 3.8). SEQ_OPEN of a held or loading tag is
ST_STATE_CONFLICT, of the wrong protection ST_ACCESS, of a bad descriptor ST_MALFORMED, without room ST_RETRY; else the entry is ACTIVE and RESULT is its slot.
TENSOR_REG registers an ABSENT tensor of an ACTIVE sequence; SET_FINGERPRINT changes both fingerprints; SEQ_RELEASE makes the sequence RELEASING. The region of
FRAME_EXHAUSTED is the model's (log 59). -/
def Obligations.DirectoryCommandsAnswer : Prop :=
  (∀ (inst k : Nat) (x : Inst) (p : Bytes) (s : State), startedAct s inst 6 = some (x, k, p) →
    let tag := rd p 0 8
    let d := slice p 16 64
    (∀ slot v, lookSeq x.tenant tag s = (some slot, v) →
      exec (.seqOpen inst) s = .next (actEnd inst k stStateConflict (refuseSeq slot x.tenant 6 v (whoOf x.msg)))) ∧
    (∀ v, lookSeq x.tenant tag s = (none, v) →
      (loadingTag v x.tenant tag = true →
        exec (.seqOpen inst) s = .next (actEnd inst k stStateConflict (refuseR 0 x.tenant 0 1 6 0x3FFFF none v (whoOf x.msg)))) ∧
      (loadingTag v x.tenant tag = false →
        (dProtected d ≠ isProtected v x.tenant → exec (.seqOpen inst) s = .next (actEnd inst k stAccess v)) ∧
        (dProtected d = isProtected v x.tenant → descBad d = true → exec (.seqOpen inst) s = .next (actEnd inst k stMalformed v)) ∧
        (dProtected d = isProtected v x.tenant → descBad d = false →
          (allocSlot v = none → exec (.seqOpen inst) s = .next (actEnd inst k stRetry (dirFull v))) ∧
          (∀ slot, allocSlot v = some slot → makeSeq slot x.tenant tag (rd p 8 8) (now v) .active d v = none →
            exec (.seqOpen inst) s = .next (actEnd inst k stRetry (frameExhausted (dirRegion slot) v))) ∧
          (∀ slot u, allocSlot v = some slot → makeSeq slot x.tenant tag (rd p 8 8) (now v) .active d v = some u →
            exec (.seqOpen inst) s = .next (actDone inst k stOk false false slot u)))))) ∧
  (∀ (slot tenant tag fp t : Nat) (d : Bytes) (s u : State), makeSeq slot tenant tag fp t .active d s = some u →
    (seqOf u slot).st = .active ∧ (seqOf u slot).tenant = tenant ∧ (seqOf u slot).tag = tag ∧ (seqOf u slot).desc = d ∧ (seqOf u slot).fp = fp ∧
    (seqOf u slot).openTime = t ∧ (seqOf u slot).committed = 0 ∧ (seqOf u slot).tail = 0 ∧ (seqOf u slot).inFlight = 0 ∧
    (seqOf u slot).cam = { valid := true, tenant := tenant, tag := tag, fp := fp } ∧ (seqOf u slot).shadow = (seqOf u slot).cam ∧
    ∀ x, x ≠ slot → seqOf u x = seqOf s x) ∧
  (∀ (s : State) (slot : Nat), allocSlot s = some slot → tlook s.dir slot = none ∧ rgnFenced s (dirRegion slot) = false) ∧
  (∀ (inst k : Nat) (x : Inst) (p : Bytes) (s : State), startedAct s inst 7 = some (x, k, p) →
    let l := rd p 8 1
    let kd := bits (rd p 9 1) 1 0
    (∀ u, lookSeq x.tenant (rd p 0 8) s = (none, u) → exec (.tensorReg inst) s = .next (actEnd inst k stNoPage u)) ∧
    (∀ slot u, lookSeq x.tenant (rd p 0 8) s = (some slot, u) →
      ((seqOf u slot).st ≠ .active → exec (.tensorReg inst) s = .next (actEnd inst k stStateConflict (refuseSeq slot x.tenant 7 u (whoOf x.msg)))) ∧
      ((seqOf u slot).st = .active → tensorBad (seqOf u slot).desc l kd = true → exec (.tensorReg inst) s = .next (actEnd inst k stMalformed u)) ∧
      ((seqOf u slot).st = .active → tensorBad (seqOf u slot).desc l kd = false → (tenOf (seqOf u slot) (4 * l + kd)).st ≠ .absent →
        exec (.tensorReg inst) s = .next (actEnd inst k stStateConflict (refuseTen slot x.tenant (4 * l + kd) 7 u (whoOf x.msg)))) ∧
      ((seqOf u slot).st = .active → tensorBad (seqOf u slot).desc l kd = false → (tenOf (seqOf u slot) (4 * l + kd)).st = .absent →
        (bitAt (rd p 9 1) 2 = false →
          exec (.tensorReg inst) s = .next (actEnd inst k stOk (relayTensor slot (4 * l + kd) (setTen slot (4 * l + kd) { st := .fast } u)))) ∧
        (bitAt (rd p 9 1) 2 = true → let w := setTen slot (4 * l + kd) { st := .deep } u
          (∀ v, backTensor slot (4 * l + kd) w = some v → exec (.tensorReg inst) s = .next (actEnd inst k stOk (relayTensor slot (4 * l + kd) v))) ∧
          (backTensor slot (4 * l + kd) w = none →
            exec (.tensorReg inst) s = .next (actEnd inst k stRetry (frameExhausted (dirRegion slot) u))))))) ∧
  (∀ (inst k slot : Nat) (x : Inst) (p : Bytes) (s u : State), startedAct s inst 8 = some (x, k, p) → lookSeq x.tenant (rd p 0 8) s = (some slot, u) →
    (seqOf u slot).st = .active → exec (.setFingerprint inst) s = .next (actEnd inst k stOk (setSeq slot { seqOf u slot with
      cam := { (seqOf u slot).cam with fp := rd p 8 8 }, shadow := { (seqOf u slot).cam with fp := rd p 8 8 }, fp := rd p 8 8 } u))) ∧
  (∀ (inst k slot : Nat) (x : Inst) (p : Bytes) (s u : State), startedAct s inst 9 = some (x, k, p) → lookSeq x.tenant (rd p 0 8) s = (some slot, u) →
    exec (.seqRelease inst) s = .next (actEnd inst k stOk (if (seqOf u slot).st = .releasing then u else releaseSeq slot u))) ∧
  (∀ (slot : Nat) (s : State), (seqOf (releaseSeq slot s) slot).st = .releasing ∧ ∀ x, x ≠ slot → seqOf (releaseSeq slot s) x = seqOf s x) ∧
  (∀ (inst : Nat) (s : State), (startedAct s inst 6 = none → exec (.seqOpen inst) s = .next s) ∧
    (startedAct s inst 7 = none → exec (.tensorReg inst) s = .next s) ∧ (startedAct s inst 8 = none → exec (.setFingerprint inst) s = .next s) ∧
    (startedAct s inst 9 = none → exec (.seqRelease inst) s = .next s))

/-- Search, freeing and the shadow check (03 R62, R63, R69, R73, R75, R78). A search answers the lowest matching ACTIVE slot above the cursor. A hit of any
search, by tag too, whose CAM part differs from its record is no match: it is repaired from the shadow with DIR_REPAIRED and the search runs again. A
RELEASING sequence with nothing in flight is FREE; an old frame is freed once no request that began before it is left. The shadow check visits the slices in
turn every 1 ms. -/
def Obligations.SearchFreeAndShadow : Prop :=
  (∀ (inst k : Nat) (x : Inst) (p : Bytes) (s : State), startedAct s inst 0xA = some (x, k, p) →
    let u := dirSearchDo x.tenant (bitAt (rd p 0 1) 0) (rd p 8 8) (rd p 16 8) (bits (rd p 4 4) 19 0) s
    (x.fwTag.isSome = true → exec (.dirSearch inst) s = .next (actEnd inst k stOk (setInst inst { x with dirResult := u.1 } u.2))) ∧
    (x.fwTag = none → sendFull s x.die = true → exec (.dirSearch inst) s = .next s) ∧
    (x.fwTag = none → sendFull s x.die = false → ∃ r v, exec (.dirSearch inst) s = .next (actEnd inst k (match r with | .sent _ => stOk | .refused st => st) v) ∧
      (let m : OutMsg := { op := 1, dst := rd p 24 3, tenant := x.tenant, window := bits (rd p 28 2) 13 0, gen := rd p 30 2
                           offset := rd p 32 6, data := u.1, part := some (x.part, x.lc) }
       sendMsg x.die m u.2) = (r, v))) ∧
  (∀ (tenant value mask cursor : Nat) (fpKind : Bool) (s : State), searchHits s tenant fpKind value mask cursor = [] →
    dirSearchDo tenant fpKind value mask cursor s = (leBytes 1 stNoPage ++ [0, 0, 0] ++ leBytes 4 0x3FFFF ++ leBytes 16 0 ++ leBytes 8 (now s), s)) ∧
  (∀ (tenant value mask cursor slot : Nat) (rest : List Nat) (fpKind : Bool) (s : State), searchHits s tenant fpKind value mask cursor = slot :: rest →
    ((seqOf s slot).cam.tenant = (seqOf s slot).tenant → (seqOf s slot).cam.tag = (seqOf s slot).tag →
      dirSearchDo tenant fpKind value mask cursor s = (leBytes 1 stOk ++ leBytes 1 (if rest = [] then 0 else 1) ++ [0, 0] ++ leBytes 4 slot ++
        leBytes 8 (seqOf s slot).cam.tag ++ leBytes 8 (seqOf s slot).cam.fp ++ leBytes 8 (now s), s)) ∧
    ((seqOf s slot).cam.tenant ≠ (seqOf s slot).tenant ∨ (seqOf s slot).cam.tag ≠ (seqOf s slot).tag →
      (causeWord (dirSearchDo tenant fpKind value mask cursor s).2 (leafDirRepaired (dirRegion slot)).src).testBit
        (leafDirRepaired (dirRegion slot)).bit = true ∧
      ((seqOf s slot).shadow ≠ {} → (seqOf (dirSearchDo tenant fpKind value mask cursor s).2 slot).cam = (seqOf s slot).shadow))) ∧
  (∀ (tenant tag : Nat) (s : State), findSeq s tenant tag = none → lookSeq tenant tag s = (none, s)) ∧
  (∀ (tenant tag slot : Nat) (s : State), findSeq s tenant tag = some slot →
    ((seqOf s slot).cam.tenant = (seqOf s slot).tenant → (seqOf s slot).cam.tag = (seqOf s slot).tag → lookSeq tenant tag s = (some slot, s)) ∧
    ((seqOf s slot).cam.tenant ≠ (seqOf s slot).tenant ∨ (seqOf s slot).cam.tag ≠ (seqOf s slot).tag → ∃ r t, lookSeq tenant tag s = (r, t) ∧
      (causeWord t (leafDirRepaired (dirRegion slot)).src).testBit (leafDirRepaired (dirRegion slot)).bit = true)) ∧
  (∀ (s : State) (tenant value mask cursor slot : Nat) (fpKind : Bool), slot ∈ searchHits s tenant fpKind value mask cursor →
    cursor = 0xFFFFF ∨ cursor < slot) ∧
  (∀ (slot : Fin 262144) (s : State), exec (.seqFree slot) s = .next (
    if (seqOf s slot).st = .releasing ∧ (seqOf s slot).inFlight = 0 then
      let u := dropStorage slot (tlbDropSlot slot s)
      drainCheck (setSeq slot {} { u with
        work := { u.work with leafJobs := tfilter u.work.leafJobs fun _ j => j.slot != slot }
        req := tmap u.req fun _ q => if q.slot = slot then { q with freed := true } else q }) else s)) ∧
  (∀ (frame : Nat) (o : OldFrame) (s : State), s.sto.old.find? (fun o => o.key == frame) = some o →
    exec (.oldFrameFree frame) s = .next (
      if tany s.req (fun n _ => decide (n < o.before)) = true then s
      else
        let u := { s with sto := { s.sto with old := s.sto.old.filter (· != o) } }
        if o.deep then releaseDeep o.sealed_ o.key u else giveFrame o.sealed_ o.key u)) ∧
  (∀ (r : Fin 16) (bad : List (Fin 16384)) (s : State), awake s = true → s.work.shadowNext = r.val → s.work.shadowAt ≤ now s →
    ∃ t, exec (.shadowCheck r bad) s = .next t ∧ t.work.shadowNext = (r + 1) % 16 ∧ t.work.shadowAt = now s + 1000000) ∧
  (∀ (r : Fin 16) (bad : List (Fin 16384)) (s : State), awake s = false ∨ s.work.shadowNext ≠ r.val ∨ now s < s.work.shadowAt →
    exec (.shadowCheck r bad) s = .next s) ∧
  (∀ (bad : List (Fin 16384)) (slot : Nat) (s : State), (∀ b ∈ bad, b.val ≠ slot % 16384) →
    ((seqOf s slot).cam = (seqOf s slot).shadow → shadowOne bad slot s = s) ∧
    ((seqOf s slot).cam ≠ (seqOf s slot).shadow → (seqOf s slot).shadow ≠ {} →
      (seqOf (shadowOne bad slot s) slot).cam = (seqOf s slot).shadow))

/-- Moves between the tiers (05 R112, R114, R118, R119, R120, R122, R124; 03 Table 3.8). MIGRATE of a tensor already in its tier is ST_OK at once, of
one that moves or is rewritten ST_STATE_CONFLICT, without room ST_RETRY; started, the tensor is MIGRATING until MIGRATION_END makes it DEEP or FAST in
one write, or FAST again where a demotion fails. It waits behind block reads and atoms (02 R37) and for the redo of a chunk it reads (04 R105).
TIER_HINT moves nothing. Poison, a time-out or an uncorrectable line (04 R93) ends a migration with ST_INTERNAL; a corrected line does not. The region
of FRAME_EXHAUSTED and what blocks a promotion beside a live page are the model's (logs 57, 59). -/
def Obligations.TensorsMoveBetweenTiers : Prop :=
  (∀ (inst k : Nat) (x : Inst) (p : Bytes) (s : State), startedAct s inst 0xB = some (x, k, p) →
    let l := rd p 8 1
    let ti := 4 * l + bits (rd p 9 1) 1 0
    let deep := bitAt (rd p 9 1) 2
    (∀ v, lookSeq x.tenant (rd p 0 8) s = (none, v) → exec (.migrate inst) s = .next (actEnd inst k stNoPage v)) ∧
    (∀ slot v, lookSeq x.tenant (rd p 0 8) s = (some slot, v) →
      ((seqOf v slot).st ≠ .active → exec (.migrate inst) s = .next (actEnd inst k stStateConflict (refuseSeq slot x.tenant 0xB v (instWho v inst)))) ∧
      ((seqOf v slot).st = .active →
        ((tenOf (seqOf v slot) ti).st = .absent → exec (.migrate inst) s = .next (actEnd inst k stNoPage v)) ∧
        ((tenOf (seqOf v slot) ti).st = .migrating ∨ (tenOf (seqOf v slot) ti).st = .rewriting →
          exec (.migrate inst) s = .next (actEnd inst k stStateConflict (refuseTen slot x.tenant ti 0xB v (instWho v inst)))) ∧
        ((tenOf (seqOf v slot) ti).st = (if deep then .deep else .fast) → exec (.migrate inst) s = .next (actEnd inst k stOk v)) ∧
        ((tenOf (seqOf v slot) ti).st = .fast → deep = true →
          (backTensor slot ti v = none → exec (.migrate inst) s = .next (actEnd inst k stRetry (frameExhausted (dirRegion slot) v))) ∧
          (∀ u, backTensor slot ti v = some u → exec (.migrate inst) s = .next (actBusy inst k (startMig slot ti true (some inst) [] u)))) ∧
        ((tenOf (seqOf v slot) ti).st = .deep → deep = false →
          (reservePromotion slot ti (backedPages v slot ti) [] v = none → exec (.migrate inst) s = .next (actEnd inst k stRetry
            (raise (leafPromoteBlocked (dirRegion slot)) [(20, 4, slot), (32, 2, x.tenant), (34, 1, l)] v))) ∧
          (∀ got u, reservePromotion slot ti (backedPages v slot ti) [] v = some (got, u) →
            exec (.migrate inst) s = .next (actBusy inst k (startMig slot ti false (some inst) got u))))))) ∧
  (∀ (slot ti : Nat) (deep : Bool) (inst : Option Nat) (got : List (Nat × Nat)) (s : State), let t := startMig slot ti deep inst got s
    (tenOf (seqOf t slot) ti).st = .migrating ∧ (tenOf (seqOf t slot) ti).toDeep = deep ∧ (seqOf t slot).inFlight = (seqOf s slot).inFlight + 1 ∧
    tlook t.work.migs (tenKey slot ti) = some { inst := inst, reserved := got } ∧ t.mem = s.mem) ∧
  (∀ (ten : TensorId) (o : MigOutcome) (m : Mig) (s : State), let slot := ten.slot.val; let ti := tenIdx ten
    let chunks := migChunks s slot ti m
    let down := (tenOf (seqOf s slot) ti).toDeep
    tlook s.work.migs (tenKey slot ti) = some m →
    (∀ p, exec (.migrationEnd ten (.poison p)) s = .next (migFail slot ti m false (migError (.poison p) s)) ∧
      exec (.migrationEnd ten (.timeout p)) s = .next (migFail slot ti m false (migError (.timeout p) s))) ∧
    ((∀ p, o ≠ .poison p ∧ o ≠ .timeout p) →
      (rankWaits s (chansOf s chunks) = true ∨ (chansOf s chunks).any (chanHeld s) = true → exec (.migrationEnd ten o) s = .next s) ∧
      (rankWaits s (chansOf s chunks) = false → (chansOf s chunks).any (chanHeld s) = false → ∀ got u,
        readChunks (.mig (tenKey slot ti)) (if down then chunks else []) (migLines o) s = (got, u) →
        (got = .waits → exec (.migrationEnd ten o) s = .next u) ∧
        (got = .failed → exec (.migrationEnd ten o) s = .next (migFail slot ti m true u)) ∧
        (∀ a, got = .bad a → exec (.migrationEnd ten o) s = .next (migFail slot ti m true (baseLineLost a (lineBad a u)))) ∧
        (got = .clean → down = false → exec (.migrationEnd ten o) s = .next (migFinish slot ti .fast stOk
          (m.reserved.foldl (fun s r => copyUp slot ti r s) u))) ∧
        (got = .clean → down = true → ((copiedPages u slot ti).any fun p => leafBeyond u p.2) = true →
          exec (.migrationEnd ten o) s = .next (migFinish slot ti .fast stInternal (tenMalformed slot ti u))) ∧
        (got = .clean → down = true → ((copiedPages u slot ti).any fun p => leafBeyond u p.2) = false →
          (∀ v, copyAllDown slot ti (livePages u slot ti) u = (true, v) → exec (.migrationEnd ten o) s = .next (migFinish slot ti .deep stOk
            ((backedPages v slot ti).foldl (fun s p => giveUpFast slot ti p.1 p.2 s) v))) ∧
          (∀ v, copyAllDown slot ti (livePages u slot ti) u = (false, v) → ∃ w,
            exec (.migrationEnd ten o) s = .next (migFinish slot ti .fast stRetry w) ∧
            (causeWord w (leafDeepFull (dirRegion slot)).src).testBit (leafDeepFull (dirRegion slot)).bit = true))))) ∧
  (∀ (who : Reader) (chunks : List Nat) (o : LineOutcome) (s : State), redoFailed s who = false → (chansOf s chunks).any (chanHeld s) = false →
    abandonedIn s chunks = none → (∀ a, lineMet s o ≠ .uncorrectable a) → ∃ u, readChunks who chunks o s = (.clean, u) ∧
      u.mem = s.mem ∧ u.dir = s.dir ∧ u.sto = s.sto ∧ u.work = s.work) ∧
  (∀ (slot ti : Nat) (m : Mig) (lost : Bool) (s : State),
    (tlook s.work.migs (tenKey slot ti) = none → migFail slot ti m lost s = s) ∧
    (tlook s.work.migs (tenKey slot ti) ≠ none → (tenOf (seqOf s slot) ti).toDeep = true →
      migFail slot ti m lost s = if lost then seqLost slot (migFinish slot ti .fast stInternal s) else migFinish slot ti .fast stInternal s) ∧
    (tlook s.work.migs (tenKey slot ti) ≠ none → (tenOf (seqOf s slot) ti).toDeep = false →
      migFail slot ti m lost s = seqLost slot (migFinish slot ti .deep stInternal (dropReserved (m.reserved.map (·.2)) s)))) ∧
  (∀ (p : Fin 4) (s : State), migError (.poison p) s = raiseCount (leafTierPoison p) (tierCntOff p 1) [] s ∧ migError (.timeout p) s = tierTimeout p s) ∧
  (∀ (ten : TensorId) (o : MigOutcome) (s : State), tlook s.work.migs (tenKey ten.slot (tenIdx ten)) = none →
    exec (.migrationEnd ten o) s = .next s) ∧
  (∀ (inst k slot : Nat) (x : Inst) (p : Bytes) (s u : State), startedAct s inst 0xC = some (x, k, p) → lookSeq x.tenant (rd p 0 8) s = (some slot, u) →
    (seqOf u slot).st = .active →
    let ti := 4 * rd p 8 1 + bits (rd p 9 1) 1 0
    (tenOf (seqOf u slot) ti).st ≠ .absent →
    exec (.tierHint inst) s = .next (actEnd inst k stOk (relayTensor slot ti
      (setTen slot ti { tenOf (seqOf u slot) ti with hint := bits (rd p 9 1) 5 4 } u)))) ∧
  (∀ (inst : Nat) (s : State), (startedAct s inst 0xB = none → exec (.migrate inst) s = .next s) ∧
    (startedAct s inst 0xC = none → exec (.tierHint inst) s = .next s))

/-- The tier policy (05 R112, R123, R124; 03 R67). Below FAST_LOW a region's FAST tensors are demoted until 8 % is free, and with PIN_FAST tensors
alone left FAST_PINNED_FULL is set. A page that firmware moves is read as any, its lines corrected or lost (04 R93). With every port below 2 % free,
clean deep copies are dropped until 4 %. A full committed page of a DEEP tensor moves from its staging frame. A full channel-local page with
STRIPE_FULL moves to a striped frame. The order among free names is the model's choice (logs 9, 56). -/
def Obligations.TierPolicyActs : Prop :=
  (∀ (r : Fin 16) (s : State), let have_ := localFree s r + goingDown s r
    let mine := localFree s r
    let low := (s.cfg.img.map (·.fastLow)).getD 4
    let want := localBytes s r * 8 / 100
    let u := autoList r want (fastTensors s 2 ++ fastTensors s 0) have_ s
    (ready s = false ∨ (rgnOf s r).fenced = true ∨ localBytes s r * low ≤ 100 * mine → exec (.autoDemote r) s = .next s) ∧
    (ready s = true → (rgnOf s r).fenced = false → 100 * mine < localBytes s r * low →
      (want ≤ u.1 ∨ anyFrees u.2 r [1] = false ∨ anyFrees u.2 r [0, 2] = true → exec (.autoDemote r) s = .next u.2) ∧
      (u.1 < want → anyFrees u.2 r [1] = true → anyFrees u.2 r [0, 2] = false →
        exec (.autoDemote r) s = .next (raise (leafFastPinnedFull r) [] u.2)))) ∧
  (∀ (r want have_ : Nat) (l : List (Nat × Nat)) (s : State), want ≤ have_ → autoList r want l have_ s = (have_, s)) ∧
  (∀ (r want have_ slot ti : Nat) (l : List (Nat × Nat)) (s : State), have_ < want →
    (tensorFrees s slot ti r = 0 ∨ autoOne slot ti s = none → autoList r want ((slot, ti) :: l) have_ s = autoList r want l have_ s) ∧
    (∀ u, tensorFrees s slot ti r ≠ 0 → autoOne slot ti s = some u →
      autoList r want ((slot, ti) :: l) have_ s = autoList r want l (have_ + tensorFrees s slot ti r) u)) ∧
  (∀ (slot ti : Nat) (s u : State), autoOne slot ti s = some u → (tenOf (seqOf u slot) ti).st = .migrating ∧ (tenOf (seqOf u slot) ti).toDeep = true ∧
    logSeq u (ringRegion (dirRegion slot)) = nextSeq (logSeq s (ringRegion (dirRegion slot))) ∧ u.catchment = s.catchment) ∧
  (∀ s : State, (∀ p, p < 4 → (tierOf s p).inService = false) ∨ ready s = false ∨
    (∃ p, p < 4 ∧ (tierOf s p).inService = true ∧ deepBelow s p 2 = false) → exec .backingDrop s = .next s) ∧
  (∀ s : State, ready s = true → (∃ p, p < 4 ∧ (tierOf s p).inService = true) →
    (∀ p, p < 4 → (tierOf s p).inService = true → deepBelow s p 2 = true) →
    exec .backingDrop s = .next ((fastBacked s).foldl (fun s t => dropClean t.1 t.2 s) s) ∧
    ((fastBacked s).foldl (fun s t => dropClean t.1 t.2 s) s).mem = s.mem ∧
    ((fastBacked s).foldl (fun s t => dropClean t.1 t.2 s) s).work = s.work) ∧
  (∀ (s : State) (slot ti : Nat), (slot, ti) ∈ fastBacked s ↔ ∃ q t, (slot, q) ∈ s.dir ∧ (ti, t) ∈ q.ten ∧ t.st = .fast ∧ t.backed = true) ∧
  (∀ (slot ti idx : Nat) (d : DeepEnt) (s : State), (tenOf (seqOf s slot) ti).deep = [(idx, d)] →
    (d.valid = false ∨ d.dirty = true → dropClean slot ti s = s) ∧
    (d.valid = true → d.dirty = false → deepBelow s d.port 4 = true → (tenOf (seqOf s slot) ti).st = .fast →
      (tenOf (seqOf s slot) ti).backed = true → let t := dropClean slot ti s
      (tenOf (seqOf t slot) ti).deep = [] ∧ (tenOf (seqOf t slot) ti).backed = false ∧
      (tenOf (seqOf t slot) ti).st = .fast)) ∧
  (∀ (page : PageId) (slot ti idx e : Nat) (s : State), pageOf s page = some (slot, ti, idx) → leafOf s slot ti idx = .leaf e →
    (tenOf (seqOf s slot) ti).st = .deep → pageBelow (seqOf s slot).desc idx (seqOf s slot).committed = true →
    (deepEnt (tenOf (seqOf s slot) ti) idx).valid = false → let name := leafFrame e
    (∀ v, copyRead slot ti idx e s = (false, v) → exec (.stagingWriteback page) s = .next v) ∧
    (∀ v, copyRead slot ti idx e s = (true, v) →
      (findDeep v (name / 2 ^ 40) (dPageSize (seqOf s slot).desc) = none → exec (.stagingWriteback page) s = .next v) ∧
      (∀ a moved, findDeep v (name / 2 ^ 40) (dPageSize (seqOf s slot).desc) = some (a, moved) → ∃ u,
        exec (.stagingWriteback page) s = .next (giveUpFast slot ti idx e u) ∧
        deepEnt (tenOf (seqOf u slot) ti) idx = { valid := true, dirty := false, port := a / 2 ^ 41, dpa := a % 2 ^ 41 } ∧
        u.mem.fast = s.mem.fast ∧ leafOf u slot ti idx = .leaf e ∧
        (leafDelta e = false → u.mem = (writeDeep a (memRead s.mem.fast name (dPageSize (seqOf s slot).desc)) s).mem)))) ∧
  (∀ (slot ti idx e : Nat) (s v : State), copyRead slot ti idx e s = (true, v) →
    leafBeyond s e = false ∧ v.mem = s.mem ∧ v.dir = s.dir ∧ v.sto = s.sto ∧ v.work = s.work) ∧
  (∀ (page : PageId) (slot ti idx : Nat) (s : State), pageOf s page = some (slot, ti, idx) →
    (tenOf (seqOf s slot) ti).st ≠ .deep ∨ (deepEnt (tenOf (seqOf s slot) ti) idx).valid = true → exec (.stagingWriteback page) s = .next s) ∧
  (∀ (page : PageId) (slot ti idx e a r : Nat) (aliased : Bool) (s : State), pageOf s page = some (slot, ti, idx) →
    let q := seqOf s slot
    leafOf s slot ti idx = .leaf e → findStriped s (homeOf q.desc slot ti idx) (dPageSize q.desc) (dLineCode q.desc) = some (a, r, aliased) →
    dStripeFull q.desc = true → q.st = .active → (tenOf q ti).st = .fast → leafLocal e = true → leafDelta e = false →
    pageBelow q.desc idx q.committed = true →
    (∀ v, copyRead slot ti idx e s = (false, v) → exec (.stripeCopy page) s = .next v) ∧
    (∀ v, copyRead slot ti idx e s = (true, v) →
    let took := useFast a (dPageSize q.desc) q.tenant (.page slot ti idx) v
    let moved := if r ≠ homeOf q.desc slot ti idx then count (rgnCntOff (homeOf q.desc slot ti idx) 1) took else took
    let u := if aliased then count (rgnCntOff r 3) moved else moved
    exec (.stripeCopy page) s = .next (changeLeaf slot ti idx (mkLeaf a false false)
      (writeFastFor q.tenant a (pageFast v q.tenant (leafFrame e) (dPageSize q.desc)) u)))) ∧
  (∀ (page : PageId) (slot ti idx : Nat) (s : State), pageOf s page = some (slot, ti, idx) →
    findStriped s (homeOf (seqOf s slot).desc slot ti idx) (dPageSize (seqOf s slot).desc) (dLineCode (seqOf s slot).desc) = none →
    exec (.stripeCopy page) s = .next s) ∧
  (∀ (page : PageId) (slot ti idx : Nat) (s : State), pageOf s page = some (slot, ti, idx) →
    dStripeFull (seqOf s slot).desc = false ∨ (seqOf s slot).st ≠ .active ∨ (tenOf (seqOf s slot) ti).st ≠ .fast →
    exec (.stripeCopy page) s = .next s) ∧
  (∀ (page : PageId) (s : State), pageOf s page = none → exec (.stagingWriteback page) s = .next s ∧ exec (.stripeCopy page) s = .next s)

/-- REWRITE and leaf changes (03 R62, R79, Tables 3.7, 3.8; 06 R139; 10 R219, R221, R222). A REWRITE of an ACTIVE sequence's FAST tensor starts and makes it
REWRITING; refusals come in the order given. An encode converts its pages one at a time and ends when none is left. LEAF_UPDATE writes the new leaf, and its
scale page's with it, and drops its job; it waits while another COMPACT may read the page (09 R212), and gives the frames back where that compaction failed.
What a failed COMPACT leaves is the model's (log 77). -/
def Obligations.RewritesAndLeaves : Prop :=
  (∀ (inst k slot : Nat) (x : Inst) (p : Bytes) (s : State), startedAct s inst 0xD = some (x, k, p) → bitAt (rd p 0 1) 0 = false →
    ∀ v, lookSeq x.tenant (rd p 8 8) s = (some slot, v) →
    let ti := rd p 16 1 * 4 + bits (rd p 17 1) 1 0
    ((seqOf v slot).st ≠ .active → exec (.rewriteRequant inst) s = .next (actEnd inst k stStateConflict (refuseSeq slot x.tenant 0xD v (whoOf x.msg)))) ∧
    ((seqOf v slot).st = .active → underLoad v slot = true → exec (.rewriteRequant inst) s = .next (actEnd inst k stRetry (countTenant x.tenant 0x30 v))) ∧
    ((seqOf v slot).st = .active → underLoad v slot = false → 2 ≤ ti % 4 ∨ (scaleOf (seqOf v slot).desc (ti % 4)).isSome = true →
      exec (.rewriteRequant inst) s = .next (actEnd inst k stMalformed v)) ∧
    ((seqOf v slot).st = .active → underLoad v slot = false → ti % 4 < 2 → (scaleOf (seqOf v slot).desc (ti % 4)).isSome = false →
      ((tenOf (seqOf v slot) ti).st = .absent → exec (.rewriteRequant inst) s = .next (actEnd inst k stNoPage v)) ∧
      ((tenOf (seqOf v slot) ti).st ≠ .absent → (tenOf (seqOf v slot) ti).st ≠ .fast →
        exec (.rewriteRequant inst) s = .next (actEnd inst k stStateConflict (refuseTen slot x.tenant ti 0xD v (whoOf x.msg)))) ∧
      (∀ st u, (tenOf (seqOf v slot) ti).st = .fast → progCheck x.tenant (rd p 2 1) (rd p 4 2) 0xD v (whoOf x.msg) = (some st, u) →
        exec (.rewriteRequant inst) s = .next (actEnd inst k st u)) ∧
      (∀ u, (tenOf (seqOf v slot) ti).st = .fast → progCheck x.tenant (rd p 2 1) (rd p 4 2) 0xD v (whoOf x.msg) = (none, u) →
        exec (.rewriteRequant inst) s = .next (if ftFmt (progOf u (rd p 2 1)).image (ti % 4) ≠ dFmt (seqOf v slot).desc (ti % 4) then
          actEnd inst k stMalformed u else rewriteStart slot ti inst k { mode := .requant, inst := inst, todo := [], program := rd p 2 1 } u)))) ∧
  (∀ (inst k slot b : Nat) (x : Inst) (p : Bytes) (s : State), startedAct s inst 0xD = some (x, k, p) → bitAt (rd p 0 1) 0 = true →
    ∀ w, lookSeq x.tenant (rd p 8 8) s = (some slot, w) →
    let ti := rd p 24 1 * 4 + bits (rd p 25 1) 1 0
    let d := (seqOf w slot).desc
    (bitAt (rd p 25 1) 2 = true → dDeltaOk d = true → (seqOf w slot).st = .active → (tenOf (seqOf w slot) ti).st = .fast →
      exec (.rewriteDelta inst) s = .next (rewriteStart slot ti inst k { mode := .deltaDec, inst := inst, todo := [], base := 0 } w)) ∧
    (bitAt (rd p 25 1) 2 = false → ∀ v, lookSeq x.tenant (rd p 16 8) w = (some b, v) →
      (dDeltaOk d = false ∨ dProtected (seqOf v b).desc = true → exec (.rewriteDelta inst) s = .next (actEnd inst k stAccess v)) ∧
      (dDeltaOk d = true → dProtected (seqOf v b).desc = false → descAgree d (seqOf v b).desc = false →
        exec (.rewriteDelta inst) s = .next (actEnd inst k stMalformed v)) ∧
      (dDeltaOk d = true → dProtected (seqOf v b).desc = false → descAgree d (seqOf v b).desc = true → (seqOf v b).st = .active →
        (seqOf w slot).st = .active → (tenOf (seqOf v slot) ti).st = .fast →
        exec (.rewriteDelta inst) s = .next (rewriteStart slot ti inst k { mode := .deltaEnc, inst := inst, todo := [], base := b } v)))) ∧
  (∀ (ten : TensorId) (r : Rewrite) (s : State), let ti := ten.layer.val * 4 + ten.kind.val
    tlook s.work.rewrites (tenKey ten.slot ti) = some r →
    (r.mode ≠ .deltaEnc ∨ r.atUnit = true → exec (.deltaPageConvert ten) s = .next s) ∧
    (r.mode = .deltaEnc → r.atUnit = false → (seqOf s ten.slot).st = .releasing ∨ r.todo = [] →
      exec (.deltaPageConvert ten) s = .next (rewriteEnd (tenKey ten.slot ti) stOk s)) ∧
    (r.mode = .deltaEnc → r.atUnit = false → (seqOf s r.base).st ≠ .active → (seqOf s ten.slot).st ≠ .releasing →
      exec (.deltaPageConvert ten) s = .next (rewriteEnd (tenKey ten.slot ti) stOk (skipPages (seqOf s ten.slot).tenant r.todo.length s))) ∧
    (∀ idx rest e, r.mode = .deltaEnc → r.atUnit = false → (seqOf s r.base).st = .active → (seqOf s ten.slot).st ≠ .releasing →
      r.todo = idx :: rest → leafOf s ten.slot ti idx = .leaf e → leafDelta e = false →
      (baseBeyond s ten.slot r.base ti idx = true → ∃ u, exec (.deltaPageConvert ten) s = .next (rewriteEnd (tenKey ten.slot ti) stInternal u) ∧
        (causeWord u (leafWalkMalformed (dirRegion ten.slot)).src).testBit (leafWalkMalformed (dirRegion ten.slot)).bit = true) ∧
      (baseBeyond s ten.slot r.base ti idx = false → ∀ got u,
        readFree (.page ten.slot ti idx) (encodeChunks s ten.slot r.base ti idx) s = (got, u) →
        (got = .waits → exec (.deltaPageConvert ten) s = .next u) ∧
        (∀ a, got = .bad a → exec (.deltaPageConvert ten) s = .next (lineLost a (rewriteEnd (tenKey ten.slot ti) stInternal u))) ∧
        (got = .clean → exec (.deltaPageConvert ten) s = .next
          (rewriteGo (tenKey ten.slot ti) rest (encodeOne ten.slot r.base ti idx u)))))) ∧
  (∀ (job : Nat) (j : LeafJob) (s : State), tlook s.work.leafJobs job = some j →
    let u : State := { s with work := { s.work with leafJobs := tdel s.work.leafJobs job } }
    let wasDelta := match leafOf s j.slot j.ten j.idx with | .leaf e => leafDelta e | .invalid => false
    (leafWaits j s = true → exec (.leafUpdate job) s = .next s) ∧
    (leafWaits j s = false → leafDropped j s = true → exec (.leafUpdate job) s = .next
      (afterLeaf j false (dropReserved ([leafFrame j.leaf] ++ (j.pair.map fun p => leafFrame p.2.1).toList) u))) ∧
    (leafWaits j s = false → leafDropped j s = false → j.pair = none →
      exec (.leafUpdate job) s = .next (afterLeaf j wasDelta (changeLeaf j.slot j.ten j.idx j.leaf u))) ∧
    (∀ sc leaf old, leafWaits j s = false → leafDropped j s = false → j.pair = some (sc, leaf, old) → exec (.leafUpdate job) s = .next
      (afterLeaf j wasDelta (changeLeaf j.slot sc j.idx leaf (changeLeaf j.slot j.ten j.idx j.leaf u))))) ∧
  (∀ (job : Nat) (s : State), tlook s.work.leafJobs job = none → exec (.leafUpdate job) s = .next s) ∧
  (∀ (inst : Nat) (s : State), startedAct s inst 0xD = none → exec (.rewriteRequant inst) s = .next s ∧ exec (.rewriteDelta inst) s = .next s)

/-- The tier ports (02 R38; 05 R110, R126, R127, R128, R129). Corrected errors are counted; a third time-out within 1 ms or a lost link fences the
port: out of service, PERST_N low, TIER_FENCED set. After 100 ms PERST_N rises, its reference clock running; a port not in L0 1 s later is put in
reset again, and rises again 10 s after the rise before at the earliest. A supported device that trains in time puts the port in service with at most
2,048 GiB, nothing left in use there but what waits to be scrubbed (17 R387), an unsupported one keeps it out until the next reset. -/
def Obligations.TierPortsFenceAndReturn : Prop :=
  (∀ (p : Fin 4) (n : Nat) (s : State), ∃ t, exec (.tierEventPoll p n) s = .next t ∧ t.tier = s.tier ∧
    ((tierOf s p).inService = false → t = s) ∧
    ((tierOf s p).inService = true → 0 < n → (causeWord t (leafTierCorrected p).src).testBit (leafTierCorrected p).bit = true)) ∧
  (∀ (p : Nat) (s : State), (tierOf s p).inService = true →
    let recent := ((tierOf s p).timeouts.filter fun x => decide (now s < x + 1000000)) ++ [now s]
    let u := setTier p { tierOf s p with timeouts := recent } (raiseCount (leafTierTimeout p) (tierCntOff p 2) [] s)
    tierTimeout p s = if 3 ≤ recent.length then fencePort p u else u) ∧
  (∀ (p : Fin 4) (s : State), exec (.cxlTimeout p) s = .next (if (tierOf s p).inService then tierTimeout p s else s)) ∧
  (∀ (p : Fin 4) (s : State), exec (.tierLinkLoss p) s = .next (if (tierOf s p).inService then fencePort p s else s)) ∧
  (∀ (p : Nat) (s : State), (tierOf s p).inService = true → let t := fencePort p s
    (tierOf t p).inService = false ∧ (tierOf t p).fenced = true ∧ (tierOf t p).retryAt = some (now s + 100000000) ∧ tget .hiZ t.pwr.perst p = .low ∧
    (∀ x, x ≠ p → tierOf t x = tierOf s x) ∧ t.mem = s.mem) ∧
  (∀ (p : Fin 4) (at_ : Nat) (s : State), awake s = true → (tierOf s p).inService = false → (tierOf s p).dieLost = false →
    (tierOf s p).retryAt = some at_ →
    (now s < at_ → exec (.perstRetry p) s = .next s) ∧
    ((tierOf s p).perstHighAt = none → s.pwr.tierClk.getLsbD p = false → exec (.perstRetry p) s = .next s) ∧
    (at_ ≤ now s → (tierOf s p).perstHighAt = none → s.pwr.tierClk.getLsbD p = true → ∃ t, exec (.perstRetry p) s = .next t ∧
      tget .hiZ t.pwr.perst p = .high ∧ (tierOf t p).perstHighAt = some (now s) ∧ (tierOf t p).retryAt = some (now s + 1000000000)) ∧
    (∀ t0, at_ ≤ now s → (tierOf s p).perstHighAt = some t0 → ∃ t, exec (.perstRetry p) s = .next t ∧ tget .hiZ t.pwr.perst p = .low ∧
      (tierOf t p).perstHighAt = none ∧ (tierOf t p).fails = (tierOf s p).fails + 1 ∧
      (tierOf t p).retryAt = some (max (now s + 100000000) (t0 + 10000000000)))) ∧
  (∀ (p : Fin 4) (g : TierTrain) (t0 : Nat) (s : State), awake s = true → (tierOf s p).inService = false → (tierOf s p).dieLost = false →
    (tierOf s p).unsupported = false → (tierOf s p).perstHighAt = some t0 → now s < t0 + 1000000000 →
    s.pwr.tierClk.getLsbD p = true → tget .hiZ s.pwr.perst p = .high → ∃ t, exec (.tierLinkTrained p g) s = .next t ∧
      (g.supported = false → (tierOf t p).inService = false ∧ (tierOf t p).unsupported = true ∧
        (causeWord t (leafTierDeviceUnsupported p).src).testBit (leafTierDeviceUnsupported p).bit = true) ∧
      (g.supported = true → (tierOf t p).inService = true ∧ (tierOf t p).fenced = false ∧ (tierOf t p).capUsed = min g.capGiB 2048 ∧
        (∀ a e, a / 2 ^ 41 = p.val → tlook t.sto.deep a = some e → e.use = .scrub ∨ e.use = .fenced) ∧
        (g.rate ≠ 4 ∨ g.width ≠ 8 → (causeWord t (leafTierLinkDegraded p).src).testBit (leafTierLinkDegraded p).bit = true) ∧
        (2048 < g.capGiB → (causeWord t (leafTierCapClamped p).src).testBit (leafTierCapClamped p).bit = true) ∧
        ((tierOf s p).fenced = true → (causeWord t (leafTierRestored p).src).testBit (leafTierRestored p).bit = true))) ∧
  (∀ (p : Fin 4) (g : TierTrain) (s : State), awake s = false ∨ (tierOf s p).inService = true ∨ (tierOf s p).dieLost = true ∨
    (tierOf s p).unsupported = true ∨ s.pwr.tierClk.getLsbD p = false ∨ (∀ t0, (tierOf s p).perstHighAt = some t0 → t0 + 1000000000 ≤ now s) ∨
    tget .hiZ s.pwr.perst p ≠ .high → exec (.tierLinkTrained p g) s = .next s)

/-! ## Attention requests -/

/-- Queries to their confirmation (08 R178, R181, R182, R184, R199, R200, Table 8.3; 14 R312). A query is refused by the first check that fails, in the table's
order, or becomes a request with the next number. CONFIRM looks the sequence up again (03 R53, R77: ST_NO_PAGE where it is gone, log 104). Of an ACTIVE one
it takes the tuple (C, E) of that moment, E = C + TAIL with the tail;
it holds a request with the tail while a compaction runs, and one that cannot meet its deadline runs its fallback or is refused. CONFIRM_ARRIVAL confirms a
region once, behind no earlier confirmation of its die and class (02 R33), keeping the work of a right prediction. Which run-ahead work counts as that of a
right prediction is the model's (log 61). -/
def Obligations.QueriesAreCheckedAndConfirmed : Prop :=
  (∀ (inst k : Nat) (x : Inst) (p : Bytes) (m : EnMsg) (s : State), startedAct s inst 1 = some (x, k, p) → x.msg = some m →
    let b := enabledBytes s m
    let looked := lookSeq x.tenant (qTag p) s
    let found := looked.1
    let u := doneReading inst looked.2
    let img := (progOf looked.2 (qProg p)).image
    let qh := match found with | some slot => dQHeads (seqOf looked.2 slot).desc | none => pQHeads img
    let layer := layerOf p m (match found with | some slot => dLayers (seqOf looked.2 slot).desc | none => 256)
    let nq := nqOf p b qh (pQueryDim img * 16)
    let hi := if qHi p = 0x1FFFFFF then 2 ^ 25 else qHi p
    let epoch := epochCheck x.tenant (qTag p) (qLo p) hi
      (match found with | some slot => dMaxTokens (seqOf looked.2 slot).desc | none => placedEnd u x.tenant (qTag p)) (routedOf x m) u
    let misfit := match found with | some slot => (if rowWidthBad p b img nq then shapeMismatch slot (layer.getD 0xFF) x.tenant u else u) | none => u
    (layer = none → exec (.query inst) s = .next (actEnd inst k stMalformed misfit)) ∧
    (∀ l, layer = some l → img ≠ [] → nq = none → exec (.query inst) s = .next (actEnd inst k stMalformed misfit)) ∧
    (∀ l n, layer = some l → img ≠ [] → nq = some n → qResStride p < n * qh * recordSize (emitOf img).1 (pOutDim img * 16) →
      exec (.query inst) s = .next (actEnd inst k stMalformed misfit)) ∧
    (∀ l n, layer = some l → nq = some n → n * qh * recordSize (emitOf img).1 (pOutDim img * 16) ≤ qResStride p →
      (keySlotUp u x.tenant = false → exec (.query inst) s = .next (actEnd inst k stTenantRevoked u)) ∧
      (keySlotUp u x.tenant = true →
        (∀ st v, epoch = (some st, v) → exec (.query inst) s = .next (actEnd inst k st v)) ∧
        (∀ v, epoch = (none, v) →
          (found = none → exec (.query inst) s = .next (actEnd inst k stNoPage v)) ∧
          (∀ slot, found = some slot →
            ((seqOf v slot).st ≠ .active → exec (.query inst) s = .next (actEnd inst k stStateConflict (refuseSeq slot x.tenant 1 v (whoOf x.msg)))) ∧
            ((seqOf v slot).st = .active → tensorsOk (seqOf v slot) img l = false → exec (.query inst) s = .next (actEnd inst k stNoPage v)) ∧
            ((seqOf v slot).st = .active → tensorsOk (seqOf v slot) img l = true →
              let gate := programGate x.tenant slot l (qProg p) (qGen p) v (whoOf x.msg)
              (∀ st, gate.1 = some st → exec (.query inst) s = .next (actEnd inst k st gate.2)) ∧
              (gate.1 = none → let w := gate.2
                let bad := (rowsOf p (if qPrefix p then b.drop 64 else b) n qh (pQueryDim img * 16)).any rowBad
                let tree := treeGate x.tenant slot img (parentsOf p b) (tailOf p b) n w (whoOf x.msg)
                (bad = true → exec (.query inst) s = .next (actEnd inst k stMalformed w)) ∧
                (∀ st, bad = false → tree.1 = some st → exec (.query inst) s = .next (actEnd inst k st tree.2)) ∧
                (bad = false → tree.1 = none → ∃ r z, exec (.query inst) s = .next
                  (setReq z.nextReq r { z with nextReq := z.nextReq + 1 }) ∧ z = startProgUse (qProg p) (actBusy inst k tree.2) ∧
                  r.slot = slot ∧ r.tenant = x.tenant ∧ r.tag = qTag p ∧ r.layer = l ∧ r.nq = n ∧ r.program = qProg p ∧ r.st = .checked ∧
                  r.tuple = none ∧ r.freed = false ∧ r.hi = hi)))))))) ∧
  (∀ (n : Nat) (q : Req) (z s : State), tlook z.req n = some q → q.st ≠ .confirmed →
    (q.freed = true ∨ (lookSeq q.tenant q.tag z).1 ≠ some q.slot →
      exec (.confirm n) z = .next (reqRefused n stNoPage q (lookSeq q.tenant q.tag z).2)) ∧
    (q.freed = false → lookSeq q.tenant q.tag z = (some q.slot, s) →
    let x := seqOf s q.slot
    (x.st ≠ .active → exec (.confirm n) z = .next (reqRefused n stStateConflict q (refuseSeq q.slot q.tenant 1 s (instWho s q.inst)))) ∧
    (x.st = .active → x.app.commitPending = true → q.incTail = true → ∃ t, exec (.confirm n) z = .next t ∧ ∃ r, tlook t.req n = some r ∧ r.st = .held ∧
      t.dir = s.dir) ∧
    (x.st = .active → x.app.commitPending = false ∨ q.incTail = false → q.parents = none → q.deadline = none →
      let e := { e := if q.incTail then x.committed + x.tail else x.committed, c := x.committed, tail := q.incTail, pgen := x.pgen }
      exec (.confirm n) z = .next (confirmQueue n { q with fallback := false } e
        (reqBytes (progOf s q.program).image x.desc { q with fallback := false } e) q.tenant s)) ∧
    (∀ u, x.st = .active → x.app.commitPending = false ∨ q.incTail = false →
      treeGate q.tenant q.slot (progOf s q.program).image q.parents q.incTail q.nq s (instWho s q.inst) = (none, u) →
      let img := (progOf s q.program).image
      let e := { e := if q.incTail then x.committed + x.tail else x.committed, c := x.committed, tail := q.incTail, pgen := x.pgen }
      let b := reqBytes img x.desc { q with fallback := false } e
      let late := { q with fallback := true }
      (meets u q b = true → exec (.confirm n) z = .next (confirmQueue n { q with fallback := false } e b q.tenant u)) ∧
      (meets u q b = false → dFallbackEn x.desc = false → exec (.confirm n) z = .next (reqRefused n stDeadline q (count (netCntOff q.die 19) u))) ∧
      (meets u q b = false → dFallbackEn x.desc = true →
        (pStates img ≤ dFallbackState x.desc → exec (.confirm n) z = .next (reqRefused n stMalformed q (shapeMismatch q.slot q.layer q.tenant u))) ∧
        (dFallbackState x.desc < pStates img →
          exec (.confirm n) z = .next (confirmQueue n late e (reqBytes img x.desc late e) q.tenant u)))) ∧
    (∀ st u, x.st = .active → x.app.commitPending = false ∨ q.incTail = false →
      treeGate q.tenant q.slot (progOf s q.program).image q.parents q.incTail q.nq s (instWho s q.inst) = (some st, u) →
      exec (.confirm n) z = .next (reqRefused n st q u)))) ∧
  (∀ (n b tenant : Nat) (q : Req) (e : Tuple) (s : State),
    let mine := fun (x : Req) => x.die == q.die && reqWaits x
    (tcount s.req (fun _ x => mine x && x.partn == q.partn) < (if (weirOf s q.partn).en then (weirOf s q.partn).queueLimit else 4096) →
      tcount s.req (fun _ x => mine x) < 4096 → confirmQueue n q e b tenant s = confirmReq n q e b s) ∧
    ((if (weirOf s q.partn).en then (weirOf s q.partn).queueLimit else 4096) ≤ tcount s.req (fun _ x => mine x && x.partn == q.partn) →
      confirmQueue n q e b tenant s = reqRefused n stOverRate q (acct tenant 32 0x24 1 s))) ∧
  (∀ (n b : Nat) (q : Req) (e : Tuple) (s : State), ∃ r, tlook (confirmReq n q e b s).req n = some r ∧ r.st = .confirmed ∧ r.tuple = some e ∧
    r.bytesLeft ≤ b ∧ (q.predicted ≠ some e ∨ q.fallback = true → r.bytesLeft = b) ∧ r.confirmedAt = now s ∧ r.order = s.nextReq) ∧
  (∀ (n : Nat) (r : Fin 16) (q : Req) (x : ReqRgn) (e : Tuple) (s : State), tlook s.req n = some q → q.tuple = some e → tlook q.rgns r = some x →
    (x.confirmed = true ∨ confirmBlocked s q r = true → exec (.confirmArrival n r) s = .next s) ∧
    (x.confirmed = false → confirmBlocked s q r = false → exec (.confirmArrival n r) s = .next (noteWait n (setReq n { q with
      rgns := tput q.rgns r { x with
        confirmed := true
        lanes := if x.keep then x.lanes else tmap (layLanes x.pairs x.blocks) (restartLane x.lanes) } } s)))) ∧
  (∀ (s : State) (q : Req) (r : Nat), confirmBlocked s q r = true ↔ ∃ e ∈ s.req, e.2.st = .confirmed ∧ e.2.die = q.die ∧ e.2.lc = q.lc ∧
    e.2.order < q.order ∧ ∃ x, tlook e.2.rgns r = some x ∧ x.confirmed = false)

/-- Contexts, pages and tiles (02 R37; 06 R132, R152, R153; 08 R185; 14 R308, R310, R311, R315, R316; 18 R405). A waiting lane takes a context of its
block, latency-critical ones in arrival order and best-effort ones after them in the round of their partitions; a lane reads its next pair once its
buffer is empty; the tiles of one page at a time go to the block's cells in turn; a tile whose check finds a fault (06 R151) is computed again, and
after a second failure its cell is fenced: the spare takes its place, and its result is checked too, or with no spare the block is fenced. A fault
that no check finds leaves free values. A latency-critical request may take the context of the best-effort request confirmed last. The lines of a pair
are read as the weir grants them, channel by channel (14 R310); the translations of the next pair are fetched ahead (03 R60, log 105). That the read
atoms of a delta page lie within one read is the model's (log 67). -/
def Obligations.LanesReadAndCompute : Prop :=
  (∀ (n : Nat) (r : Fin 16) (q : Req) (s : State), tlook s.req n = some q →
    ((rgnOf s r).gated = true → exec (.contextAllocate n r) s = .next s) ∧
    ((rgnOf s r).gated = false → exec (.contextAllocate n r) s = .next (markBusy r (noteWait n (giveContexts n r q s))))) ∧
  (∀ (n r i : Nat) (q : Req) (x : ReqRgn) (l : Lane) (s : State), tlook q.rgns r = some x → x.lanes = [(i, l)] →
    (l.st ≠ .waiting ∨ roomFor s r l.block q.partn = none → giveContexts n r q s = s) ∧
    (∀ b, l.st = .waiting → roomFor s r l.block q.partn = some b → let u := modLane n r i (fun l => { l with block := b }) s
      (ctxTurn r b n i q.lc u = none → giveContexts n r q s = s) ∧
      (∀ v, ctxTurn r b n i q.lc u = some v → giveContexts n r q s = takeContext n r i b v))) ∧
  (∀ (n r i b : Nat) (q : Req) (x : ReqRgn) (l : Lane) (s : State), tlook s.req n = some q → tlook q.rgns r = some x → tlook x.lanes i = some l →
    ∃ q' x' l', tlook (takeContext n r i b s).req n = some q' ∧ tlook q'.rgns r = some x' ∧ tlook x'.lanes i = some l' ∧
      l' = { l with st := .running, block := b } ∧ q'.held = now s) ∧
  (∀ (r b n i : Nat) (s : State),
    (lcWaiting s r b = [] → ctxTurn r b n i true s = none) ∧
    (∀ e rest, lcWaiting s r b = e :: rest →
      (e.1 = n ∧ e.2.2.1 = i → ctxTurn r b n i true s = some s) ∧ (¬ (e.1 = n ∧ e.2.2.1 = i) → ctxTurn r b n i true s = none) ∧
      ctxTurn r b n i false s = none) ∧
    (lcWaiting s r b = [] → ctxTurn r b n i false s = laneTurn (ctxServer r b) n i (beWaiting s r b) (laneCost s) s)) ∧
  (∀ (s : State) (r b p : Nat), ctxRoom s r b p = true ↔ (blkOf s r b).fenced = false ∧ (ctxOn s r b).length < 32 ∧
    ((ctxOn s r b).countP fun e => e.2.1.partn == p) < ctxLimit s p) ∧
  (∀ (n : Nat) (r : Fin 16) (i : Fin 8) (q : Req) (x : ReqRgn) (l : Lane) (e : Tuple) (s : State),
    tlook s.req n = some q → tlook q.rgns r = some x → tlook x.lanes i = some l → laneTuple q x = some e →
    (∀ idx rest o, l.pairs = idx :: rest → laneReads l = true → (rgnOf s r).gated = false →
      exec (.pageRead n r i o) s = .next (pageReadDo n r i (reqAs q x) x l e idx o s)) ∧
    (∀ o, laneReads l = false ∨ (rgnOf s r).gated = true → exec (.pageRead n r i o) s = .next s) ∧
    (∀ b tile rest o, l.buf = some b → l.tiles = tile :: rest →
      (l.st ≠ .running ∨ (rgnOf s r).gated = true ∨ pageTurn r n i (reqAs q x) l s = none → exec (.tileCheck n r i o) s = .next s) ∧
      (∀ u c v, l.st = .running → (rgnOf s r).gated = false → pageTurn r n i (reqAs q x) l s = some u → giveCell r n i l u = (c, v) →
        let img := (progOf v q.program).image
        let det := tileDetail v (reqAs q x) b tile o
        (failedCells img c o = [] → tileWrong img c o = false →
          exec (.tileCheck n r i o) s = .next (modLane n r i (fun l => afterTile (foldTile v (reqAs q x) e b tile none l)) v)) ∧
        (failedCells img c o = [] → tileWrong img c o = true → exec (.tileCheck n r i o) s = .next
          (modLane n r i (fun l => afterTile (foldTile (takeFree v).2 (reqAs q x) e b tile (some (takeFree v).1) l)) (takeFree v).2)) ∧
        (failedCells img c o ≠ [] → l.retried = false → exec (.tileCheck n r i o) s = .next
          (modLane n r i (fun l => { l with retried := true }) ((failedCells img c o).foldl (fun s c => cellRetry r l.block c (det c) s) v))) ∧
        (failedCells img c o ≠ [] → l.retried = true → exec (.tileCheck n r i o) s = .next
          (modLane n r i (fun l => { l with retried := false, cell := some 16 }) (cellsFail r l.block (failedCells img c o) det v))))) ∧
    (∀ b o, l.buf = some b → l.tiles = [] → exec (.tileCheck n r i o) s = .next (modLane n r i afterTile s))) ∧
  (∀ (n r i idx : Nat) (q : Req) (x : ReqRgn) (l : Lane) (t : Tuple) (o : ReadOutcome) (s v : State) (ws : List (Nat × Walk)),
    walkKinds q.slot q.layer idx r (blkKey r l.block) (readKinds (progOf s q.program).image (seqOf s q.slot).desc) s = (ws, v) →
    let leaves := ws.filterMap fun e => match e.2 with
      | .leaf e' => some (e.1, e')
      | .invalid => none
    let chunks := pairChunks v q.slot q.layer idx leaves
    (∀ st lost, readPair v q.slot q.layer idx ws = .end_ st lost →
      pageReadDo n r i q x l t idx o s = readFailed n r q.slot q.layer st lost x.confirmed v) ∧
    (∀ pages, readPair v q.slot q.layer idx ws = .pages pages → readWaits s n r i q l idx leaves = false →
      (∀ a, abandonedIn v chunks = some a → pageReadDo n r i q x l t idx o s = holdRead (.lane n r i) a (o == .abandonedMismatch) v) ∧
      (∀ u, abandonedIn v chunks = none → readMet n r q idx leaves o v = (false, u) → pageReadDo n r i q x l t idx o s = u) ∧
      (∀ u, abandonedIn v chunks = none → readMet n r q idx leaves o v = (true, u) → pageReadDo n r i q x l t idx o s =
        fillBuffer n r i idx q t l leaves pages (touchCodes chunks u))) ∧
    (∀ pages, readPair v q.slot q.layer idx ws = .pages pages → readWaits s n r i q l idx leaves = true → pageReadDo n r i q x l t idx o s = s)) ∧
  (∀ (n r i idx : Nat) (q : Req) (t : Tuple) (l : Lane) (leaves : List (Nat × Nat)) (pages : List (Nat × Bytes)) (left : Tbl Nat) (s u : State),
    let d := (seqOf s q.slot).desc
    let part := l.part.getD ⟨pages, pairLines s q t idx leaves⟩
    let need := (part.left.map (·.2)).sum
    let rest := (left.map (·.2)).sum
    let v := chargeRead n r (need - rest) u
    let reads := pageReads d (patCtx q t) (spansOf (progOf s q.program).image d q t q.fallback) (idx % dPages d)
    grantRead r q.partn q.lc (fun ch => rivalRead s n r i [ch] false) part.left s = (left, u) →
    (rest ≠ 0 → rest = need → fillBuffer n r i idx q t l leaves pages s = v) ∧
    (rest ≠ 0 → rest ≠ need →
      fillBuffer n r i idx q t l leaves pages s = modLane n r i (fun l => { l with part := some { part with left := left } }) v) ∧
    (rest = 0 → fillBuffer n r i idx q t l leaves pages s = prefetchNext q r l (modLane n r i (fun l => { l with
      buf := some ⟨idx, (List.range 4).map fun k => ((part.pages.find? fun e => e.1 == k).map (·.2)).getD []⟩, part := none
      tiles := tilesOf d q.nq (idx / dPages d) reads, begun := false, cell := none, retried := false }) v))) ∧
  (∀ (n r : Nat) (b : Nat) (others : Nat → Bool) (lc : Bool) (left : Tbl Nat) (s : State),
    (((weirOf s n).en = false) → ∀ e ∈ (grantRead r n lc others left s).1, e.2 = 0) ∧
    ((weirOf s n).en = true → (weirOf s n).borrow = false ∨ lc = true → (left.map (·.2)).sum = b →
      (((grantRead r n lc others left s).1.map (·.2)).sum = b - min b (tokenLines s r n)))) ∧
  (∀ (img : Bytes) (c : Nat) (o : List TileFault), (∀ f ∈ o, f.cell.val ≠ c) → failedCells img c o = [] ∧ tileWrong img c o = false) ∧
  (∀ (img : Bytes) (c x : Nat) (o : List TileFault), x ∈ failedCells img c o ↔ x < 17 ∧ cellFails img o c = true ∧ cellFails img o x = true) ∧
  (∀ (q : Req) (r : Nat) (l : Lane) (s : State), ∃ b, prefetchNext q r l s = { s with tlb := b }) ∧
  (∀ (r n i : Nat) (l : Lane) (s : State), (∀ c, l.cell = some c → giveCell r n i l s = (c, s)) ∧
    (l.cell = none → (giveCell r n i l s).1 = cellAt (blkOf s r l.block) (blkOf s r l.block).next)) ∧
  (∀ (r b c : Nat) (d : Nat → Detail) (s : State), c < 16 → let v := cellFence r b c (d c) s
    let w := setBlk r b { blkOf v r b with spare := true } v
    ((blkOf s r b).spare = false → (blkOf s r b).cells.getLsbD 16 = false → cellsFail r b [c] d s = w) ∧
    ((blkOf s r b).spare = true ∨ (blkOf s r b).cells.getLsbD 16 = true → cellsFail r b [c] d s = fenceBlock r b (logSeq v r) v)) ∧
  (∀ (r b c : Nat) (d : Detail) (s : State), (causeWord (cellFence r b c d s) (leafCellFenced r).src).testBit (leafCellFenced r).bit = true) ∧
  (∀ (l : Lane), (∀ a t ts, l.tiles = a :: t :: ts → (afterTile l).tiles = t :: ts ∧ (afterTile l).buf = l.buf) ∧
    (∀ a, l.tiles = [a] → (afterTile l).buf = none ∧ (afterTile l).pairs = l.pairs.drop 1 ∧ ((l.pairs.drop 1 = []) → (afterTile l).st = .done))) ∧
  (∀ (n vn vi i : Nat) (r : Fin 16) (block : Fin 8) (q vq : Req) (vl l : Lane) (x : ReqRgn) (s : State), tlook s.req n = some q →
    tlook q.rgns r = some x → victimOf s r block = some (vn, vq, vi, vl) →
    x.lanes.find? (fun l => l.2.st == .waiting && l.2.block == block.val) = some (i, l) →
    let first := (preemptor s r block (vn, vq, vi, vl)).map fun e => (e.1, e.2.2.1)
    (first = some (n, i) → 32 ≤ (ctxOn s r block).length → vl.buf = none → vl.part = none → (rgnOf s r).gated = false →
      (savedUse s r + savedBytes s vq ≤ 4194304 → exec (.preempt n r block) s = .next (noteWait n (takeContext n r i block
        (acct vq.tenant 32 0x1C 1 (modLane vn r vi (fun l => { l with st := .saved, savedAt := now s }) s))))) ∧
      (4194304 < savedUse s r + savedBytes s vq → exec (.preempt n r block) s = .next
        (raiseCount (leafPreemptNoRoom r) (rgnCntOff r 16) [(16, 1, block.val), (20, 4, vq.slot)] s))) ∧
    (first ≠ some (n, i) ∨ (ctxOn s r block).length < 32 ∨ vl.buf ≠ none ∨ vl.part ≠ none ∨ (rgnOf s r).gated = true →
      exec (.preempt n r block) s = .next s)) ∧
  (∀ (r : Fin 16) (block : Fin 8) (n i : Nat) (q : Req) (l : Lane) (s u : State), (rgnOf s r).gated = false →
    ((beWaiting s r block).filter fun e => e.2.2.2.st == .saved).findSome?
      (fun e => (ctxTurn r block e.1 e.2.2.1 false s).map fun s' => (e, s')) = some ((n, q, i, l), u) →
    exec (.contextResume r block) s = .next (modLane n r i (fun l => { l with st := .running, block := block.val })
      (acct q.tenant 64 8 (now u - l.savedAt) u))) ∧
  (∀ (r : Fin 16) (block : Fin 8) (s : State), (rgnOf s r).gated = true ∨ lcWaiting s r block ≠ [] → exec (.contextResume r block) s = .next s)

/-- Folds and the result (08 R186, R190, R191). A region folds its lanes in lane order once all are done and it is confirmed, and sends its partial
once. With the partials of every region in service, and those that a region sent before it was fenced, the network die folds them in region order and
hands the result to the Jexus engine. -/
def Obligations.PartialsAreFolded : Prop :=
  (∀ (n : Nat) (r : Fin 16) (q : Req) (x : ReqRgn) (s : State), tlook s.req n = some q → tlook q.rgns r = some x →
    (x.sent = none → x.confirmed = true → (∀ l ∈ x.lanes, l.2.st = .done) → ∃ t q', exec (.regionFold n r) s = .next t ∧ tlook t.req n = some q' ∧
      tlook q'.rgns r = some { x with sent := some (x.lanes.foldl (fun acc l => foldRows acc l.2.rows) []) } ∧
      t.mem = s.mem ∧ t.dir = s.dir) ∧
    (x.sent ≠ none ∨ x.confirmed = false ∨ (∃ l ∈ x.lanes, l.2.st ≠ .done) → exec (.regionFold n r) s = .next s)) ∧
  (∀ (n : Nat) (q : Req) (e : Tuple) (s : State), tlook s.req n = some q → q.tuple = some e → q.st = .confirmed →
    let parts := q.rgns.filter fun r => !rgnFenced s r.1 || r.2.sent.isSome
    ((∀ r ∈ parts, r.2.sent ≠ none) → sendFull s q.die = false →
      exec (.netFoldEmit n) s = .next (emitResult n q e (parts.foldl (fun acc r => foldRows acc (r.2.sent.getD [])) []) s)) ∧
    ((∃ r ∈ parts, r.2.sent = none) ∨ sendFull s q.die = true → exec (.netFoldEmit n) s = .next s)) ∧
  (∀ (n : Nat) (q : Req) (e : Tuple) (rows : Tbl Partial) (s : State), busyAct s q.inst 1 = none → emitResult n q e rows s = endReq n stOk s) ∧
  (∀ (a : Tbl Partial) (r : Nat) (p : Partial), tlook a r = none → foldRows a [(r, p)] = tput a r p) ∧
  (∀ (n : Nat) (r : Fin 16) (s : State), tlook s.req n = none → exec (.regionFold n r) s = .next s ∧ exec (.netFoldEmit n) s = .next s ∧
    exec (.confirm n) s = .next s ∧ exec (.confirmArrival n r) s = .next s ∧ exec (.contextAllocate n r) s = .next s)

/-! ## Appends, commits and shifts -/

/-- Appends (09 R204, R206, R207, Table 9.3). An append waits for what arrived before it at its sequence, and is then admitted: a malformed message is
ST_MALFORMED, a tenant without a key slot ST_TENANT_REVOKED, an absent sequence ST_NO_PAGE; one already in the tail is ST_OK with REPEAT; one not at C
+ FILL ST_STATE_CONFLICT; without frames ST_RETRY; else it is accepted, held behind readers or issued at once. When every command has completed, FILL
and TAIL advance in one step; nothing advances after a failure, or where a region that holds part of it has been fenced. The order of arrival and the
region of FRAME_EXHAUSTED are the model's (logs 59, 76). -/
def Obligations.AppendsAdvanceTheTail : Prop :=
  (∀ (inst k : Nat) (x : Inst) (p : Bytes) (m : EnMsg) (s u : State), startedAct s inst 2 = some (x, k, p) → x.msg = some m →
    (lookSeq x.tenant (rd p 0 8) s = (none, u) → exec (.append inst) s = .next (appendDo inst x k p m none (leaveWaits inst k u))) ∧
    (∀ slot, lookSeq x.tenant (rd p 0 8) s = (some slot, u) →
      (appendMustWait u slot (appendOrder u inst k) = true → exec (.append inst) s = .next (joinWaits inst k slot u)) ∧
      (appendMustWait u slot (appendOrder u inst k) = false →
        exec (.append inst) s = .next (admitNext slot (appendDo inst x k p m (some slot) (leaveWaits inst k u)))))) ∧
  (∀ (inst k slot : Nat) (s : State), (s.work.waits.any fun w => w.inst == inst && w.act == k) = false →
    { inst := inst, act := k, slot := slot, order := s.work.next } ∈ (joinWaits inst k slot s).work.waits ∧
    appendOrder (joinWaits inst k slot s) inst k = s.work.next ∧ (joinWaits inst k slot s).work.next = s.work.next + 1) ∧
  (∀ (inst k : Nat) (x : Inst) (p : Bytes) (m : EnMsg) (slot : Option Nat) (s : State),
    let b := enabledBytes s m
    let d := slot.map fun q => (seqOf s q).desc
    let u := doneReading inst s
    let last := (d.map dMaxTokens).getD (placedEnd u x.tenant (rd p 0 8))
    (appendMalformed p d m.offset m.len b = true → appendDo inst x k p m slot s = actEnd inst k stMalformed u) ∧
    (appendMalformed p d m.offset m.len b = false → keySlotUp u x.tenant = false → appendDo inst x k p m slot s = actEnd inst k stTenantRevoked u) ∧
    (appendMalformed p d m.offset m.len b = false → keySlotUp u x.tenant = true →
      (∀ st v, epochCheck x.tenant (rd p 0 8) (hFirst b) (hFirst b + hN b) last (routedOf x m) u = (some st, v) →
        appendDo inst x k p m slot s = actEnd inst k st v) ∧
      (∀ v, epochCheck x.tenant (rd p 0 8) (hFirst b) (hFirst b + hN b) last (routedOf x m) u = (none, v) →
        bitAt (rd p 9 1) 0 = false → primaryAt v x.tenant (rd p 0 8) (hFirst b) = none ∨
          primaryAt v x.tenant (rd p 0 8) (hFirst b) = some (myNode v) →
        (slot = none → appendDo inst x k p m slot s = actEnd inst k stNoPage v) ∧
        (∀ q, slot = some q → appendDo inst x k p m slot s = appendAdmit x inst k p b q v)) ∧
      (∀ v, epochCheck x.tenant (rd p 0 8) (hFirst b) (hFirst b + hN b) last (routedOf x m) u = (none, v) → bitAt (rd p 9 1) 0 = true →
        primaryAt v x.tenant (rd p 0 8) (hFirst b) = none → appendDo inst x k p m slot s = actEnd inst k stAccess v))) ∧
  (∀ (inst k slot : Nat) (x : Inst) (p b : Bytes) (s : State),
    ((seqOf s slot).st ≠ .active → (seqOf s slot).st ≠ .loading →
      appendAdmit x inst k p b slot s = actEnd inst k stStateConflict (refuseSeq slot x.tenant 2 s (whoOf x.msg))) ∧
    ((seqOf s slot).st = .active → ∀ l ∈ namedLayers b, ∀ ti ∈ appendTens (seqOf s slot).desc l, (tenOf (seqOf s slot) ti).st = .absent →
      appendAdmit x inst k p b slot s = actEnd inst k stNoPage s)) ∧
  (∀ (inst k slot : Nat) (x : Inst) (p b : Bytes) (s u : State), (seqOf s slot).st = .active →
    (∀ l ∈ namedLayers b, ∀ ti ∈ appendTens (seqOf s slot).desc l, (tenOf (seqOf s slot) ti).st ≠ .absent) →
    progCheck x.tenant (rd p 8 1) (rd p 10 2) 2 s (whoOf x.msg) = (none, u) → shapeBad (progOf u (rd p 8 1)).image (seqOf s slot).desc = false →
    let q := seqOf s slot
    (q.app.commitPending = true → appendAdmit x inst k p b slot s = actEnd inst k stRetry u) ∧
    (q.app.commitPending = false →
      ((∀ l ∈ namedLayers b, hFirst b + hN b ≤ q.committed + fillOf q l) →
        appendAdmit x inst k p b slot s = actDone inst k stOk true false 0 (countTenant x.tenant 0x34 u)) ∧
      (∀ l ∈ namedLayers b, q.committed + fillOf q l < hFirst b + hN b →
        (q.app.takeover = true → hFirst b ≠ q.committed → appendAdmit x inst k p b slot s = actEnd inst k stUnknownRequest u) ∧
        (q.app.takeover = false → hFirst b ≠ q.committed + fillOf q l ∨ q.committed + 64 < hFirst b + hN b →
          appendAdmit x inst k p b slot s = actEnd inst k stStateConflict (refuseSeq slot x.tenant 2 u (whoOf x.msg))) ∧
        (q.app.takeover = false ∨ hFirst b = q.committed → (∀ y ∈ namedLayers b, hFirst b = q.committed + fillOf q y) →
          hFirst b + hN b ≤ q.committed + 64 → bf16Bad (b.drop (64 + posBytes b)) = false →
          let pages := (namedLayers b).flatMap fun l => (appendTens q.desc l).flatMap fun ti =>
            (spanPages q.desc (hFirst b) (hFirst b + hN b)).map fun idx => (ti, idx)
          (givePages slot pages u = none → appendAdmit x inst k p b slot s =
            actEnd inst k stRetry (frameExhausted (homeRegion slot (hLayer0 b) 0 (hFirst b / dTokens q.desc)) u)) ∧
          (∀ v, givePages slot pages u = some v →
            let held := readersAbove v slot (hFirst b)
            let a : Append :=
              { inst := inst, slot := slot, first := hFirst b, n := hN b, layer0 := hLayer0 b, nLayers := hLayers b, program := rd p 8 1
                poss := (List.range (hN b)).map (appendPos b), data := b, held := held
                rgns := (pages.flatMap fun e => [homeOf q.desc slot e.1 e.2, (frameOf v slot e.1 e.2).getD 0 / 2 ^ 40]).dedup }
            let w := actBusy inst k (startProgUse (rd p 8 1) (enterSeq slot
              { v with work := { v.work with next := v.work.next + 1, appends := tput v.work.appends v.work.next a } }))
            (held = true → appendAdmit x inst k p b slot s = count (rgnCntOff (dirRegion slot) 13) w) ∧
            (held = false → appendAdmit x inst k p b slot s = issueAppend v.work.next w)))))) ∧
  (∀ (app : Nat) (a : Append) (s : State), tlook s.work.appends app = some a →
    (a.issued = false ∨ a.left ≠ 0 → exec (.appendFillStep app) s = .next s) ∧
    (a.issued = true → a.left = 0 → ∃ u, exec (.appendFillStep app) s = .next (admitNext a.slot (endBusy a.inst 2
        (if a.failed = 0 then stOk else stInternal) false false 0 (endProgUse a.program (leaveSeq a.slot u)))) ∧
      u.work.appends = tdel s.work.appends app ∧
      (a.failed ≠ 0 → u.dir = s.dir) ∧
      (a.failed = 0 → (seqOf s a.slot).st ≠ .free → (seqOf u a.slot).app.takeover = false ∧ (seqOf u a.slot).committed = (seqOf s a.slot).committed ∧
        (seqOf u a.slot).tail = (seqOf u a.slot).app.fill.foldl (fun m e => max m e.2) 0 ∧
        ((seqOf s a.slot).committed < a.first + a.n → ∀ dl, dl < a.nLayers →
          fillOf (seqOf u a.slot) (a.layer0 + dl) = a.first + a.n - (seqOf s a.slot).committed)))) ∧
  (∀ (r app : Nat) (a : Append) (s : State), tlook s.work.appends app = some a → a.failed = 0 → ∃ b, tlook (failAppends r s).work.appends app = some b ∧
    b.failed = if a.rgns.contains r then stInternal else 0) ∧
  (∀ (app : Nat) (a : Append) (s : State), tlook s.work.appends app = some a →
    (a.held = false ∨ readersAbove s a.slot a.first = true → exec (.appendHeldRelease app) s = .next s) ∧
    (a.held = true → readersAbove s a.slot a.first = false → exec (.appendHeldRelease app) s = .next (issueAppend app s))) ∧
  (∀ (app : Nat) (a : Append) (s : State), tlook s.work.appends app = some a → let t := issueAppend app s
    let d := (seqOf s a.slot).desc
    let left := a.nLayers * ((dataKinds d).length * (spanPages d a.first (a.first + a.n)).length)
    tlook t.work.appends app = some { a with issued := true, held := false, left := left } ∧ t.work.next = s.work.next + left ∧ t.dir = s.dir ∧
    t.mem = s.mem) ∧
  (∀ (app : Nat) (s : State), tlook s.work.appends app = none → exec (.appendFillStep app) s = .next s ∧ exec (.appendHeldRelease app) s = .next s)

/-- Commits, rollbacks and shifts (09 R209-R217, Tables 9.5, 9.6). The message is admitted under the rows of Table 9.3; a commit of accepted tokens
moves C up by their number and clears the tail in one step; a rollback cuts each FILL to the tokens kept; a shift adds DELTA to ROT_OFFSET and makes
the sequence ACTIVE again when its pages are done on this copy, whatever the partner does; it is answered once the partner has answered. The tensors
that a compaction or a shift works on are REWRITING meanwhile (03 R76, log 91). Each waits for what arrived before it at its sequence; compaction
waits for the requests confirmed above C, and without frames ends ST_RETRY with nothing changed. The order of arrival, the region of FRAME_EXHAUSTED
and what a failed COMPACT leaves are the model's (logs 59, 76, 77). -/
def Obligations.CommitsMoveTheWatermark : Prop :=
  (∀ (c : Instr) (op : Nat) (f : RxFrame) (s : State), ((c, op) = (.commit f, 0) ∨ (c, op) = (.rollback f, 1) ∨ (c, op) = (.shift f, 2)) →
    (namesOp s f op = false → exec c s = .next s) ∧
    (∀ a u, namesOp s f op = true → takeControl f [0x23] s = (some a, u) → cTenant a.payload = f.hdr.tenant.toNat →
      exec c s = .next (ctlArrive a.payload a.die (frameMsg f) u)) ∧
    (∀ u, namesOp s f op = true → takeControl f [0x23] s = (none, u) → exec c s = .next u)) ∧
  (∀ (b : Bytes) (die : Nat) (m : EnMsg) (s : State),
    let o : CtlOp := { op := cOp b, slot := 0x40000, body := b, src := m.src, msgId := m.id, port := die, addr := m.addr, epoch := m.epoch }
    let routed : Routed := { entry := 0x7FFF, arg := 0, msg := m }
    (ctlMalformed b = true → ctlArrive b die m s = ctlAnswer o stMalformed false false false s) ∧
    (ctlMalformed b = false → keySlotUp s (cTenant b) = false → ctlArrive b die m s = ctlAnswer o stTenantRevoked false false false s) ∧
    (∀ slot u v, ctlMalformed b = false → keySlotUp s (cTenant b) = true → lookSeq (cTenant b) (cTag b) s = (some slot, u) →
      let n := (seqOf u slot).committed
      epochCheck (cTenant b) (cTag b) n (n + 1) (dMaxTokens (seqOf u slot).desc) routed u = (none, v) →
      primaryAt v (cTenant b) (cTag b) n = none ∨ primaryAt v (cTenant b) (cTag b) n = some (myNode v) →
      ctlArrive b die m s = ctlEnqueue { o with slot := slot } v)) ∧
  (∀ (o : CtlOp) (s : State), let k := s.work.next
    let w : State := { s with work := { s.work with next := k + 1, ctlOps := tput s.work.ctlOps k o } }
    (slotBlocked w o.slot = true ∨ appendsOn w o.slot = true → ctlEnqueue o s = w) ∧
    (slotBlocked w o.slot = false → appendsOn w o.slot = false → appendAhead w o.slot k = false →
      (w.work.ctlOps.filter fun e => e.2.slot == o.slot && !e.2.started) = [(k, o)] → ctlEnqueue o s = ctlAdmit k o w)) ∧
  (∀ (k : Nat) (o : CtlOp) (s : State), (seqOf s o.slot).st = .active →
    let q := seqOf s o.slot
    let gone : State := { s with work := { s.work with ctlOps := tdel s.work.ctlOps k } }
    let start := fun (o : CtlOp) =>
      forwardCtl k (enterSeq o.slot { s with work := { s.work with ctlOps := tput s.work.ctlOps k { o with started := true } } })
    (∀ st rep, (o.op = 0 ∧ commitCheck q o.body = some (st, rep)) ∨ (o.op = 1 ∧ rollbackCheck q o.body = some (st, rep)) ∨
        (o.op = 2 ∧ underLoad s o.slot = false ∧ shiftCheck q o.body = some (st, rep)) →
      ctlAdmit k o s = ctlAnswer o st rep (st == stOk && actsAlone s o) false
        (if st = stStateConflict then refuseSeq o.slot (cTenant o.body) 0x23 gone (some (o.src, o.msgId)) else gone)) ∧
    (o.op = 0 → commitCheck q o.body = none → cMask o.body = 2 ^ cAccepted o.body - 1 → ∀ x, tlook (start o).work.ctlOps k = some x →
      (x.fwd = .notNeeded → ctlAdmit k o s = commitStep k x (start o)) ∧ (x.fwd ≠ .notNeeded → ctlAdmit k o s = start o)) ∧
    (o.op = 0 → commitCheck q o.body = none → cMask o.body ≠ 2 ^ cAccepted o.body - 1 →
      let u := start { o with compacting := true, before := s.nextReq }
      ctlAdmit k o s = setSeq o.slot { seqOf u o.slot with app := { (seqOf u o.slot).app with commitPending := true } } u) ∧
    (o.op = 1 → rollbackCheck q o.body = none → let u := rollbackStep o (start { o with localDone := true })
      ∀ x, tlook u.work.ctlOps k = some x →
        (x.fwd = .notNeeded → ctlAdmit k o s = ctlAnswer x stOk false (ctlSingle x) false (ctlGone k x u)) ∧
        (x.fwd ≠ .notNeeded → ctlAdmit k o s = u)) ∧
    (o.op = 2 → underLoad s o.slot = false → shiftCheck q o.body = none → let pages := shiftPages q o.body
      (∀ u, unstripeAll o.slot pages s = (.noFrame, u) ∨ (unstripeAll o.slot pages s = (.done, u) ∧ reserveShift o.slot pages [] u = none) →
        ctlAdmit k o s = ctlAnswer o stRetry false false false (frameExhausted (dirRegion o.slot) gone)) ∧
      (∀ a u, unstripeAll o.slot pages s = (.bad a, u) → ctlAdmit k o s =
        lineLost a (ctlAnswer o stInternal false false false { u with work := { u.work with ctlOps := tdel u.work.ctlOps k } })) ∧
      (∀ res u w, unstripeAll o.slot pages s = (.done, w) → reserveShift o.slot pages [] w = some (res, u) → ∃ p, let v := enterSeq o.slot u
        let y : CtlOp := { o with started := true, left := pages.length, reserved := res }
        let z := beginRewriting o.slot (keyTens q) (setSeq o.slot { seqOf v o.slot with st := .shifting } v)
        ctlAdmit k o s = startShift y p
          (takeFree (forwardCtl k { z with work := { z.work with ctlOps := tput z.work.ctlOps k y } })).2))) ∧
  (∀ (o : CtlOp) (s : State), (seqOf s o.slot).st ≠ .free → twf 0 (seqOf s o.slot).app.fill = true → ∃ u, rollbackStep o s = relayState o.slot u ∧
    u = setSeq o.slot (seqOf u o.slot) s ∧ (seqOf u o.slot).committed = (seqOf s o.slot).committed ∧
    ∀ l, fillOf (seqOf u o.slot) l = min (fillOf (seqOf s o.slot) l) (cAccepted o.body)) ∧
  (∀ (q : Seq) (b : Bytes),
    (popcount (cMask b) ≠ cAccepted b → commitCheck q b = some (stMalformed, false)) ∧
    (popcount (cMask b) = cAccepted b → cAccepted b ≠ 0 → q.committed = cBaseC b + cAccepted b → q.tail = 0 → commitCheck q b = some (stOk, true)) ∧
    (popcount (cMask b) = cAccepted b → q.committed ≠ cBaseC b → q.tail ≠ 0 → commitCheck q b = some (stStateConflict, false)) ∧
    (popcount (cMask b) = cAccepted b → cAccepted b ≠ 0 → q.committed = cBaseC b → q.app.commitPending = false → q.app.takeover = false →
      (∀ i ∈ acceptedList b, i < q.tail ∧ ∀ l, l < dLayers q.desc → i < fillOf q l) → commitCheck q b = none) ∧
    (q.committed = cBaseC b → q.app.commitPending = false → cAccepted b < q.tail → rollbackCheck q b = none) ∧
    (q.app.rotOffset = cBaseRot b → q.app.rotOffset ≠ (cBaseRot b + cDelta b) % 2 ^ 32 → q.committed = cBaseC b → cFrom b % dTokens q.desc = 0 →
      cFrom b ≤ q.committed → q.app.commitPending = false → q.st = .active → q.tail = 0 → (∀ ti ∈ keyTens q, (tenOf q ti).st = .fast) →
      shiftCheck q b = none) ∧
    (q.committed ≠ cBaseC b → rollbackCheck q b = some (stStateConflict, false)) ∧
    (q.committed = cBaseC b → q.app.commitPending = false → q.tail ≤ cAccepted b → rollbackCheck q b = some (stOk, true)) ∧
    (q.app.rotOffset = (cBaseRot b + cDelta b) % 2 ^ 32 → q.st = .active → shiftCheck q b = some (stOk, true)) ∧
    (q.app.rotOffset = cBaseRot b → q.app.rotOffset ≠ (cBaseRot b + cDelta b) % 2 ^ 32 → q.committed = cBaseC b → cFrom b % dTokens q.desc = 0 →
      cFrom b ≤ q.committed → q.app.commitPending = true → shiftCheck q b = some (stRetry, false))) ∧
  (∀ (k : Nat) (o : CtlOp) (s : State), (seqOf s o.slot).st ≠ .free → ∃ u, (seqOf u o.slot).committed = (seqOf s o.slot).committed + cAccepted o.body ∧
    (seqOf u o.slot).tail = 0 ∧ (seqOf u o.slot).app.fill = [] ∧ (seqOf u o.slot).app.commitPending = false ∧
    (o.compacting = false → o.fwd ≠ .single → u = setSeq o.slot (seqOf u o.slot) s ∧
      commitStep k o s = ctlAnswer o stOk false (ctlSingle o) false (ctlGone k o (relayState o.slot u)))) ∧
  (∀ (slot : Fin 262144) (s : State), tfind s.work.ctlOps (fun _ o => o.slot == slot.val && o.compacting && o.started && !o.localDone) = none →
    exec (.compactionStart slot) s = .next s) ∧
  (∀ (slot : Fin 262144) (k n : Nat) (o : CtlOp) (r : Req) (e : Tuple) (s : State),
    tfind s.work.ctlOps (fun _ o => o.slot == slot.val && o.compacting && o.started && !o.localDone) = some (k, o) → (n, r) ∈ s.req → n < o.before →
    r.slot = slot.val → r.tuple = some e → (seqOf s slot).committed < e.e → exec (.compactionStart slot) s = .next s) ∧
  (∀ (slot : Fin 262144) (k : Nat) (o : CtlOp) (s : State),
    tfind s.work.ctlOps (fun _ o => o.slot == slot.val && o.compacting && o.started && !o.localDone) = some (k, o) →
    (∀ n r e, (n, r) ∈ s.req → n < o.before → r.slot = slot.val → r.tuple = some e → e.e ≤ (seqOf s slot).committed) →
    (compactReserve slot o s = none →
      exec (.compactionStart slot) s = .next (commitAbort k o stRetry (frameExhausted (dirRegion slot) s))) ∧
    (∀ cmds u, compactReserve slot o s = some (cmds, u) → (∀ c ∈ cmds, c.op = 4 ∧ c.job = .compact slot ∧ c.accepted = acceptedList o.body) ∧
      (nearBeyond s slot cmds = true → ∃ v, exec (.compactionStart slot) s = .next (commitAbort k o stInternal v) ∧
        (causeWord v (leafWalkMalformed (dirRegion slot)).src).testBit (leafWalkMalformed (dirRegion slot)).bit = true) ∧
      (nearBeyond s slot cmds = false →
        ∃ t, exec (.compactionStart slot) s = .next t ∧ tlook t.work.ctlOps k = some { o with localDone := true, left := cmds.length } ∧
          t.work.next = u.work.next + cmds.length ∧ t.dir = (beginRewriting slot (dataTens (seqOf s slot)) u).dir ∧ t.mem = u.mem))) ∧
  (∀ (slot : Nat) (l : List Nat) (s : State), (seqOf s slot).st ≠ .free →
    (∀ x, x ≠ slot → seqOf (beginRewriting slot l s) x = seqOf s x) ∧
    (∀ ti, (tenOf (seqOf s slot) ti).st = .fast → ti ∈ l → (tenOf (seqOf (beginRewriting slot l s) slot) ti).st = .rewriting) ∧
    (∀ ti, (tenOf (seqOf s slot) ti).st ≠ .fast → (tenOf (seqOf (beginRewriting slot l s) slot) ti).st = (tenOf (seqOf s slot) ti).st) ∧
    (∀ ti, tlook s.work.rewrites (tenKey slot ti) = none → (tenOf (seqOf s slot) ti).st = .rewriting → ti ∈ l →
      (tenOf (seqOf (endRewriting slot l s) slot) ti).st = .fast) ∧
    (∀ ti, (tlook s.work.rewrites (tenKey slot ti)).isSome = true ∨ (tenOf (seqOf s slot) ti).st ≠ .rewriting →
      (tenOf (seqOf (endRewriting slot l s) slot) ti).st = (tenOf (seqOf s slot) ti).st)) ∧
  (∀ (slot : Fin 262144) (k : Nat) (o : CtlOp) (s : State),
    tfind s.work.ctlOps (fun _ o => o.slot == slot.val && o.compacting && o.started && !o.localDone) = some (k, o) →
    s.req = [] → (seqOf s slot).tail = 0 → ∃ t, exec (.compactionStart slot) s = .next t ∧
      tlook t.work.ctlOps k = some { o with localDone := true, left := 0 } ∧
      t.dir = (beginRewriting slot (dataTens (seqOf s slot)) s).dir ∧ t.mem = s.mem) ∧
  (∀ (slot : Fin 262144) (k : Nat) (o : CtlOp) (s : State), tfind s.work.ctlOps (fun _ o => o.slot == slot.val && o.started && o.op != 2 &&
      o.fwd != .waiting && (o.op == 1 || !o.compacting || (o.localDone && o.left == 0))) = some (k, o) →
    ((o.fwd = .okay ∨ o.fwd = .single ∨ o.fwd = .notNeeded) → o.op = 0 → o.failed = false →
      exec (.commitFinalStep slot) s = .next (admitNext slot (commitStep k o s))) ∧
    ((o.fwd = .okay ∨ o.fwd = .single ∨ o.fwd = .notNeeded) → o.op = 0 → o.failed = true →
      exec (.commitFinalStep slot) s = .next (admitNext slot (commitAbort k o stInternal s))) ∧
    ((o.fwd = .okay ∨ o.fwd = .single ∨ o.fwd = .notNeeded) → o.op = 1 →
      exec (.commitFinalStep slot) s = .next (admitNext slot (ctlAnswer o stOk false (ctlSingle o) false (ctlGone k o s)))) ∧
    (∀ st, o.fwd = .refused st → o.op = 0 → exec (.commitFinalStep slot) s = .next (admitNext slot (commitAbort k o st s)))) ∧
  (∀ (slot : Fin 262144) (k : Nat) (o : CtlOp) (s : State),
    tfind s.work.ctlOps (fun _ o => o.slot == slot.val && o.started && o.op == 2 && (!o.localDone || o.fwd != .waiting)) = some (k, o) →
    (o.localDone = true → exec (.shiftComplete slot) s = .next (shiftAnswer slot k o s)) ∧
    (o.localDone = false → (o.left ≠ 0 ∧ (seqOf s slot).st = .shifting) ∨ jobAtUnit s (.shift slot) = true → exec (.shiftComplete slot) s = .next s) ∧
    (o.localDone = false → o.left = 0 ∨ (seqOf s slot).st ≠ .shifting → jobAtUnit s (.shift slot) = false →
      let u := shiftStep slot { o with failed := o.failed || (seqOf s slot).lost } s
      let y : CtlOp := { o with failed := o.failed || (seqOf s slot).lost, localDone := true, reserved := [] }
      let v : State := { u with work := { u.work with ctlOps := tput u.work.ctlOps k y } }
      (o.fwd = .waiting → exec (.shiftComplete slot) s = .next v) ∧
      (o.fwd ≠ .waiting → exec (.shiftComplete slot) s = .next (shiftAnswer slot k y v)))) ∧
  (∀ (slot k : Nat) (o : CtlOp) (s : State),
    (o.failed = false → shiftAnswer slot k o s = admitNext slot (ctlAnswer o stOk false (ctlSingle o) false (ctlGone k o s))) ∧
    (o.failed = true → o.fwd = .okay → shiftAnswer slot k o s = ctlAnswer o stOk false true false (ctlGone k o s)) ∧
    (o.failed = true → o.fwd ≠ .okay → shiftAnswer slot k o s = ctlAnswer o stInternal false false false (ctlGone k o s))) ∧
  (∀ (slot : Nat) (o : CtlOp) (s : State), let u := shiftStep slot o s
    (o.failed = false → (seqOf s slot).st = .shifting → (seqOf u slot).st = .active ∧
      (seqOf u slot).app.rotOffset = ((seqOf s slot).app.rotOffset + cDelta o.body) % 2 ^ 32 ∧ (seqOf u slot).committed = (seqOf s slot).committed) ∧
    (o.failed = false → (seqOf s slot).st ≠ .shifting → (seqOf s slot).st ≠ .free → (seqOf u slot).st = (seqOf s slot).st ∧
      (seqOf u slot).app = (seqOf s slot).app))

/-! ## Jexus -/

/-- Packets that arrive (11 R246-R249, R254, R255, R272, Table 11.5). A packet on a port that carries none changes nothing; one for
another address or UDP port is counted and dropped (11 R240); before fabric time is locked it
is counted and dropped; then the checks come in order: another endpoint's, an ill-formed, an old and a future packet are refused with their counts. An
admitted WRITE is placed and acknowledged, a READ is answered with the window's bytes, and a CAS writes SWAP exactly when the bytes equal
COMPARE; a line that cannot be corrected (04 R93) fails the message, and one whose channel is retraining, held by an atom or waiting for a redo (04 R83, R99,
R105) makes it wait. -/
def Obligations.PacketsAreCheckedThenServed : Prop :=
  (∀ (f : RxFrame) (a : Admitted) (s u : State), takeControl f [0x04] s = (some a, u) → f.hdr.offset.toNat % 8 = 0 ∧ f.hdr.msgLen.toNat = 16) ∧
  (∀ (f : RxFrame) (s : State), portServes s f.port = false → receive f s = (none, s)) ∧
  (∀ (f : RxFrame) (s : State), portServes s f.port = true → forMe f s = false → receive f s = (none, count (portCntOff f.port.val 0x20) s)) ∧
  (∀ (f : RxFrame) (s : State), forMe f s = true ↔
    ∃ i, s.cfg.img = some i ∧ f.dstAddr.toNat ∈ i.ports ∧ f.dstPort.toNat = i.jxPort) ∧
  (∀ (f : RxFrame) (s : State), portServes s f.port = true → forMe f s = true → s.jx.locked = false → ∃ t, receive f s = (none, count (netCntOff (f.port.val / 2) 13) t) ∧
    t.jx = s.jx ∧ t.mem = s.mem) ∧
  (∀ (f : RxFrame) (s : State), let d := checkDie f
    (f.hdr.dst.toNat ≠ myEndpoint s → checkPkt f s = (none, count (netCntOff d 0) s)) ∧
    (∀ info, f.hdr.dst.toNat = myEndpoint s → check2 f = some info →
      checkPkt f s = (none, sendNak f stMalformed info (violate f d 2 info (count (netCntOff d 1) s) (some stMalformed)))) ∧
    (f.hdr.dst.toNat = myEndpoint s → check2 f = none → f.hdr.msgTime.toNat + 1010000 < now s → checkPkt f s = (none, count (netCntOff d 2) s)) ∧
    (f.hdr.dst.toNat = myEndpoint s → check2 f = none → now s + 10000 < f.hdr.msgTime.toNat →
      checkPkt f s = (none, sendNak f stMalformed 3 (violate f d 4 3 (count (netCntOff d 3) s) (some stMalformed)))) ∧
    (f.hdr.dst.toNat = myEndpoint s → check2 f = none → now s ≤ f.hdr.msgTime.toNat + 1010000 → f.hdr.msgTime.toNat ≤ now s + 10000 →
      checkPkt f s = checkTenant f d s)) ∧
  (∀ (c : Instr) (op : Nat) (f : RxFrame) (s u : State), (c, op) = (.jxWrite f, 1) ∨ (c, op) = (.jxWriteImm f, 2) → f.hdr.opcode.toNat = op →
    (receive f s = (none, u) → exec c s = .next u) ∧
    (∀ a, receive f s = (some a, u) → backed u f.hdr.windowId.toNat = false → exec c s = .next (failMsg f stInternal u)) ∧
    (∀ a, receive f s = (some a, u) → backed u f.hdr.windowId.toNat = true →
      let w := winWrite f.hdr.windowId.toNat (f.hdr.offset.toNat + 8192 * f.hdr.pktIndex.toNat) a.payload u
      (∀ v, notePacket f a false w = (none, v) → exec c s = .next (ackPacket f false v)) ∧
      (∀ y z v, notePacket f a false w = (some (y, z), v) → op = 2 → exec c s = .next (completeMsg f
        (deliverImm f.hdr.tenant.toNat f.hdr.immediate.toNat y (frameMsg f)) v)) ∧
      (∀ y z v, notePacket f a false w = (some (y, z), v) → op = 1 → (winOf v f.hdr.windowId.toNat).kind ≠ 5 ∨ f.hdr.msgLen.toNat ≠ 64 →
        ∃ g, exec c s = .next (completeMsg f g v) ∧ ∀ x : State, (winOf x f.hdr.windowId.toNat).kind ≠ 5 ∨ f.hdr.msgLen.toNat ≠ 64 → g x = x))) ∧
  (∀ (f : RxFrame) (o : LineOutcome) (a : Admitted) (s u : State), takeControl f [0x03] s = (some a, u) →
    let w := f.hdr.windowId.toNat
    let n := f.hdr.msgLen.toNat
    let who := Reader.message f.hdr.src.toNat f.hdr.msgId.toNat
    let chunks := winChunks u w f.hdr.offset.toNat n
    (backed u w = false → exec (.jxRead ⟨f, o⟩) s = .next (failMsg f stInternal u)) ∧
    (∀ got v, backed u w = true → readChunks who chunks o u = (got, v) →
      (got = .clean → exec (.jxRead ⟨f, o⟩) s = .next (respond f a.die 0 (winRead v w f.hdr.offset.toNat n) v)) ∧
      (got = .waits → exec (.jxRead ⟨f, o⟩) s = .next (readChunks who chunks o s).2) ∧
      (got = .failed → exec (.jxRead ⟨f, o⟩) s = .next (failMsg f stInternal v)) ∧
      (∀ b, got = .bad b → exec (.jxRead ⟨f, o⟩) s = .next (failMsg f stInternal (lineLost b v))))) ∧
  (∀ (f : RxFrame) (o : LineOutcome) (a : Admitted) (s u : State), takeControl f [0x04] s = (some a, u) →
    let w := f.hdr.windowId.toNat
    let who := Reader.message f.hdr.src.toNat f.hdr.msgId.toNat
    let chunks := winChunks u w f.hdr.offset.toNat 8
    (backed u w = false → exec (.jxCas ⟨f, o⟩) s = .next (failMsg f stInternal u)) ∧
    (∀ got v, backed u w = true → readChunks who chunks o u = (got, v) → let old := winRead v w f.hdr.offset.toNat 8
      (got = .clean → exec (.jxCas ⟨f, o⟩) s = .next (respond f a.die 0 old
        (if old = slice a.payload 0 8 then winWrite w f.hdr.offset.toNat (slice a.payload 8 8) v else v))) ∧
      (got = .waits → exec (.jxCas ⟨f, o⟩) s = .next (readChunks who chunks o s).2) ∧
      (got = .failed → exec (.jxCas ⟨f, o⟩) s = .next (failMsg f stInternal v)) ∧
      (∀ b, got = .bad b → exec (.jxCas ⟨f, o⟩) s = .next (failMsg f stInternal (lineLost b v))))) ∧
  (∀ (who : Reader) (chunks : List Nat) (o : LineOutcome) (s : State),
    (redoFailed s who = true → readChunks who chunks o s = (.failed, dropHeld who s)) ∧
    (redoFailed s who = false → (chansOf s chunks).any (chanHeld s) = true → readChunks who chunks o s = (.waits, s)) ∧
    (redoFailed s who = false → (chansOf s chunks).any (chanHeld s) = false → (∃ a, abandonedIn s chunks = some a) →
      ∃ v, readChunks who chunks o s = (.waits, v) ∧ v.mem = s.mem ∧ v.jx = s.jx) ∧
    (redoFailed s who = false → (chansOf s chunks).any (chanHeld s) = false → abandonedIn s chunks = none →
      ((∀ a, lineMet s o ≠ .uncorrectable a) → ∃ v, readChunks who chunks o s = (.clean, v) ∧ v.mem = s.mem ∧ v.jx = s.jx) ∧
      (∀ a, lineMet s o = .uncorrectable a → chunks.contains (a.toNat / 2048 * 2048) = true →
        ∃ v, readChunks who chunks o s = (.bad a.toNat, v) ∧ v.mem = s.mem ∧ v.jx = s.jx))) ∧
  (∀ (c : Instr) (op : Nat) (f : RxFrame) (o : LineOutcome) (s u : State), (c, op) = (.jxRead ⟨f, o⟩, 3) ∨ (c, op) = (.jxCas ⟨f, o⟩, 4) →
    takeControl f [op] s = (none, u) → exec c s = .next u)

/-- Acknowledgements, refusals and the timers of messages (11 R244, R245, R250, R256, R258, R260, R261, R262, R264, R265). An ACK ends its packets'
timers, an unknown one is counted; a NAK that suggests a back-off delays the packet, another ends the message; a packet unanswered for 200 µs is sent
again, a message is abandoned after 900 µs, one that has sent nothing is refused once its key has expired (17 R375), a tracker or filter entry freed
after 1,010 µs, a path skipped for 10 ms comes back, and W grows by 64 KiB per 100 µs to 4 MiB. -/
def Obligations.MessagesAreAnsweredOrAbandoned : Prop :=
  (∀ (f : RxFrame) (a : Admitted) (s u : State), takeControl f [0x10] s = (some a, u) →
    (ackBad a.payload = true → exec (.jxAckReceive f) s = .next (controlBad f a.die u)) ∧
    (ackBad a.payload = false → exec (.jxAckReceive f) s = .next ((words 8 (a.payload.length / 8) a.payload).foldl
      (fun s v => ackOne f.hdr.src.toNat v s) (if f.hdr.ceEcho then halveCong f.hdr.src.toNat u else u)))) ∧
  (∀ (c : Instr) (op : Nat) (f : RxFrame) (s u : State), (c, op) = (.jxAckReceive f, 0x10) ∨ (c, op) = (.jxNakReceive f, 0x11) →
    takeControl f [op] s = (none, u) → exec c s = .next u) ∧
  (∀ (src v : Nat) (s : State), tlook s.jx.out (bits v 31 0) = none → ackOne src v s = count (netCntOff (bits v 31 0 % 4) 12) s) ∧
  (∀ (src v : Nat) (m : OutMsg) (s : State), let id := bits v 31 0
    let u := (List.range (bits v 53 43 + 1)).foldl (fun s j => packetDone id (bits v 42 32 + j) s) s
    tlook s.jx.out id = some m →
    (m.dst ≠ src ∨ ackable m.op = false → ackOne src v s = count (netCntOff (id % 4) 12) s) ∧
    (∀ y, m.dst = src → ackable m.op = true → tlook u.jx.out id = some y →
      (bitAt v 54 = true ∨ (y.flight = [] ∧ y.unsent = []) → ackOne src v s = msgAcked id u) ∧
      (bitAt v 54 = false → y.flight ≠ [] ∨ y.unsent ≠ [] → ackOne src v s = u))) ∧
  (∀ (id idx : Nat) (m : OutMsg) (f : Flight) (s : State), tlook s.jx.out id = some m → tlook m.flight idx = some f →
    packetDone id idx s = pathGood f.path (setOut id { m with flight := tdel m.flight idx, resend := m.resend.filter (· != idx) } s)) ∧
  (∀ (id : Nat) (m : OutMsg) (s : State), tlook s.jx.out id = some m →
    (∀ key, m.purpose = .loadData key → msgAcked id s = finishLoadOut key (dropOut id s)) ∧
    ((∀ key, m.purpose ≠ .loadData key) → msgAcked id s = dropOut id s)) ∧
  (∀ (f : RxFrame) (a : Admitted) (s u : State), takeControl f [0x11] s = (some a, u) →
    let id := rd a.payload 4 4
    let pkt := bits (rd a.payload 2 2) 10 0
    (nakBad a.payload = true → exec (.jxNakReceive f) s = .next (controlBad f a.die u)) ∧
    (nakBad a.payload = false → tlook u.jx.out id = none → exec (.jxNakReceive f) s = .next (count (netCntOff (id % 4) 12) u)) ∧
    (∀ m, nakBad a.payload = false → tlook u.jx.out id = some m → m.dst = f.hdr.src.toNat → m.op = rd a.payload 1 1 →
      (tlook m.flight pkt).isSome = true →
      exec (.jxNakReceive f) s = .next (nakOne id m (statusIn (rd a.payload 0 1)) pkt (rd a.payload 8 4) f u))) ∧
  (∀ st : Nat, (st ≤ 15 → statusIn st = st) ∧ (15 < st → statusIn st = stInternal)) ∧
  (∀ (id pkt info : Nat) (m : OutMsg) (f : RxFrame) (s : State), tlook s.jx.out id = some m →
    (∃ t, nakOne id m stRetry pkt info f s = t ∧ ∃ m', tlook t.jx.out id = some m' ∧
      m'.backoff = some (now s + backoffUs m.backoff info * 1000, backoffUs m.backoff info) ∧ pkt ∈ m'.resend) ∧
    (nakOne id m stAccess pkt info f s = msgRefused id stAccess s)) ∧
  (∀ (prev : Option (Nat × Nat)) (info : Nat), info ≤ backoffUs prev info ∧ (prev = none → 20 ≤ backoffUs prev info)) ∧
  (∀ (f : RxFrame) (a : Admitted) (id : Nat) (m : OutMsg) (s u : State),
    takeAnswer f [0x83, 0x84, 0xA0, 0xA1, 0xA3, 0xA8] s = (some (a, id, m), u) →
    (∀ n x, m.purpose = .probe n x → exec (.jxResponseReceive f) s = .next (onProbeResp n a.payload u)) ∧
    (∀ slot, m.purpose = .ctlForward slot → let st := if commitRespBad a.payload then stMalformed else statusIn (rd a.payload 0 1)
      exec (.jxResponseReceive f) s = .next (ctlForwarded slot id (if st = stOk then .okay else .refused st) u)) ∧
    ((∀ n x, m.purpose ≠ .probe n x) → (∀ slot, m.purpose ≠ .ctlForward slot) → exec (.jxResponseReceive f) s = .next u)) ∧
  (∀ (f : RxFrame) (s u : State), takeAnswer f [0x83, 0x84, 0xA0, 0xA1, 0xA3, 0xA8] s = (none, u) → exec (.jxResponseReceive f) s = .next u) ∧
  (∀ (slot id k : Nat) (fwd : FwdSt) (o : CtlOp) (s : State),
    tfind s.work.ctlOps (fun _ o => o.slot == slot && o.fwd == .waiting && o.fwdMsg == id) = some (k, o) →
    (o.op ≠ 1 → ctlForwarded slot id fwd s = { s with work := { s.work with ctlOps := tput s.work.ctlOps k { o with fwd := fwd } } }) ∧
    (o.op = 1 → fwd = .okay → ctlForwarded slot id fwd s =
      admitNext slot (ctlAnswer { o with fwd := .okay } stOk false false false (ctlGone k { o with fwd := .okay } s)))) ∧
  (∀ (n : Nat) (b : Bytes) (s : State), 2 < rd b 1 1 ∨ zeroAt b 2 2 = false ∨ zeroAt b 8 8 = false → onProbeResp n b s = s) ∧
  (∀ (n : Nat) (b : Bytes) (s : State), twf {} s.datum.probe = true → rd b 1 1 ≤ 2 → zeroAt b 2 2 = true → zeroAt b 8 8 = true →
    let t := onProbeResp n b s
    (probeOf t n).misses = 0 ∧ (probeOf t n).suspect = false ∧ (rd b 4 4 = (probeOf s n).seq → (probeOf t n).open_ = false)) ∧
  (∀ (ep : BitVec 24) (s : State), tlook s.jx.ack ep.toNat = none → exec (.ackCoalesceExpire ep) s = .next s) ∧
  (∀ (ep : BitVec 24) (b : AckBuf) (s : State), tlook s.jx.ack ep.toNat = some b →
    (awake s = true → b.since + 2000 ≤ now s → exec (.ackCoalesceExpire ep) s = .next (flushAck ep.toNat s)) ∧
    (awake s = false ∨ now s < b.since + 2000 → exec (.ackCoalesceExpire ep) s = .next s)) ∧
  (∀ (ep : Nat) (b : AckBuf) (s : State), tlook s.jx.ack ep = some b → flushAck ep s = sendBack 0x10 ep b.path b.addr b.ce
    (b.entries.flatMap ackEntry) { s with jx := { s.jx with ack := tdel s.jx.ack ep } }) ∧
  (∀ (id : BitVec 32) (pkt : Nat) (m : OutMsg) (f : Flight) (s : State), tlook s.jx.out id.toNat = some m → tlook m.flight pkt = some f →
    awake s = true → m.resend.contains pkt = false → now s ≤ m.time.getD 0 + 900000 →
    (now s < f.at_ + 200000 → exec (.jxRetransmitTimer id pkt) s = .next s) ∧
    (f.at_ + 200000 ≤ now s →
      exec (.jxRetransmitTimer id pkt) s = .next (sendAgain id.toNat pkt (halveCong m.dst (pathMiss (id.toNat % 4) f.path s))))) ∧
  (∀ (id idx t : Nat) (m : OutMsg) (f : Flight) (s : State), tlook s.jx.out id = some m → tlook m.flight idx = some f → m.time = some t →
    now s ≤ t + 900000 → let u := transmit id idx (f.att + 1) s
    sendAgain id idx s = count (netCntOff (id % 4) 8) u ∧
    ∃ p, tlook u.jx.out id = some { m with flight := tput m.flight idx { att := f.att + 1, at_ := now s, path := p } }) ∧
  (∀ (id : BitVec 32) (m : OutMsg) (t : Nat) (s : State), tlook s.jx.out id.toNat = some m → m.time = some t → awake s = true →
    (t + 900000 ≤ now s → exec (.jxMsgExpire id) s = .next (msgAbandoned id.toNat (count (netCntOff (id.toNat % 4) 9) s))) ∧
    (now s < t + 900000 → exec (.jxMsgExpire id) s = .next s)) ∧
  (∀ (id : Nat) (m : OutMsg) (s : State), tlook s.jx.out id = some m → let u := dropOut id s
    (m.purpose = .quiet ∨ (∃ a b c, m.purpose = .prepare a b c) ∨ (∃ a b c, m.purpose = .accept a b c) ∨ (∃ a b, m.purpose = .commitTo a b) ∨
      (∃ a b, m.purpose = .probe a b) → msgAbandoned id s = u) ∧
    (∀ x, m.purpose = .record x → msgAbandoned id s = complLost x u) ∧ (∀ x, m.purpose = .result x → msgAbandoned id s = resultLost x id m u) ∧
    (∀ i k, m.purpose = .forward i k → msgAbandoned id s = forwardAgain i k m u) ∧
    (∀ slot, m.purpose = .ctlForward slot → msgAbandoned id s = ctlRetry slot id u) ∧
    (∀ c, m.purpose = .mapRead c → msgAbandoned id s = fetchFails c u)) ∧
  (∀ (id : BitVec 32) (m : OutMsg) (t w : Nat) (s : State), tlook s.jx.out id.toNat = some m → m.backoff = some (t, w) → awake s = true →
    (now s < t → exec (.jxNakBackoffExpire id) s = .next s) ∧
    (t ≤ now s → exec (.jxNakBackoffExpire id) s = .next
      (m.resend.foldl (fun s i => sendAgain id.toNat i s) (setOut id.toNat { m with resend := [] } s)))) ∧
  (∀ (d : Fin 4) (s : State), awake s = true → exec (.jxSendResume d) s = .next
    (((s.jx.out.filter fun e => e.1 % 4 == d.val && !e.2.unsent.isEmpty).map (·.1)).foldl (fun s id => resumeMsg id s) s)) ∧
  (∀ (id : Nat) (m : OutMsg) (s : State), tlook s.jx.out id = some m →
    (m.time = none → keyFault s m.op m.tenant = true → resumeMsg id s = msgRefused id stTenantRevoked (keyRefused m.op s)) ∧
    (m.time.isSome = true ∨ keyFault s m.op m.tenant = false → resumeMsg id s = startMsg id s) ∧
    (m.time = none → 4096 ≤ inFlightOf s (id % 4) ∨ now s < m.notBefore → startMsg id s = s) ∧
    (m.time.isSome = true ∨ (inFlightOf s (id % 4) < 4096 ∧ m.notBefore ≤ now s) → startMsg id s = pumpPkts id m.unsent s) ∧
    (∀ i rest, mayStillSend m s = true → unacked s m.dst + pktBytes m.data.length i ≤ (congOf s m.dst).w → pumpPkts id (i :: rest) s =
      pumpPkts id rest (transmit id i 0 { s with jx := { s.jx with out := tput s.jx.out id { m with unsent := m.unsent.filter (· != i) } } })) ∧
    (∀ i rest, mayStillSend m s = false ∨ (congOf s m.dst).w < unacked s m.dst + pktBytes m.data.length i → pumpPkts id (i :: rest) s = s)) ∧
  (∀ (src : BitVec 24) (id : BitVec 32) (t : Tracker) (s : State), tlook s.jx.tracker (msgKey src.toNat id.toNat) = some t → awake s = true →
    (t.time + 1010000 < now s → exec (.trackerExpire src id) s = .next (count (netCntOff (id.toNat % 4) 7)
      { s with jx := { s.jx with tracker := tdel s.jx.tracker (msgKey src.toNat id.toNat) } })) ∧
    (now s ≤ t.time + 1010000 → exec (.trackerExpire src id) s = .next s)) ∧
  (∀ (src : BitVec 24) (id : BitVec 32) (e : Filt) (s : State), tlook s.jx.filter (msgKey src.toNat id.toNat) = some e → awake s = true →
    (e.time + 1010000 < now s → exec (.filterExpire src id) s = .next
      { s with jx := { s.jx with filter := tdel s.jx.filter (msgKey src.toNat id.toNat) } }) ∧
    (now s ≤ e.time + 1010000 → exec (.filterExpire src id) s = .next s)) ∧
  (∀ (p : Fin 64) (t : Nat) (s : State), (pathSt s p).cool = some t →
    (t ≤ now s → exec (.pathCoolExpire p) s = .next (setPath p { pathSt s p with cool := none } s)) ∧
    (now s < t → exec (.pathCoolExpire p) s = .next s)) ∧
  (∀ (ep : BitVec 24) (s : State), awake s = true → (congOf s ep.toNat).w < 4194304 → (congOf s ep.toNat).grown + 100000 ≤ now s →
    ∃ t, exec (.congWindowGrow ep) s = .next t ∧ ((congOf s ep.toNat).w + 65536 < 4194304 →
      (congOf t ep.toNat).w = (congOf s ep.toNat).w + 65536 ∧ (congOf t ep.toNat).grown = now s)) ∧
  (∀ (ep : BitVec 24) (s : State), awake s = false ∨ 4194304 ≤ (congOf s ep.toNat).w ∨ now s < (congOf s ep.toNat).grown + 100000 →
    exec (.congWindowGrow ep) s = .next s)

/-- Ports and clocks (02 Table 2.5; 11 R240, R245, R271, R272; 18 Table 18.6; 21 R460). A frame that is no Jexus packet is dropped and counted unless the die
handles it; a link that goes down is counted and sets LINK_DOWN; the servo's first step, LOCKED below 1 µs, holdover after 1 s without Sync, and UNLOCKED beyond
5 µs. The first lock lets the node send and, in phase 5, makes PHASE READY with the node JOINING. The state between 1 and 5 µs is the model's choice (log 71).
-/
def Obligations.PortsAndPtp : Prop :=
  (∀ (p : Fin 8) (k : FrameKind) (s : State), portServes s p = true → exec (.nonJexusFrame p k) s = .next (
    if k = .fragmentOrOptions ∨ k = .other then count (portCntOff p 0x20) s else if k = .badChecksum then count (portCntOff p 0x24) s else s)) ∧
  (∀ (p : Fin 8) (k : FrameKind) (s : State), portServes s p = false → exec (.nonJexusFrame p k) s = .next s) ∧
  (∀ (p : Fin 8) (s : State), awake s = true → s.ctl.netLost.getLsbD (p.val / 2) = false → s.pwr.netClk.getLsbD (p.val / 2) = true →
    ∃ t, exec (.ethLinkChange p true) s = .next t ∧ t.jx.portUp.getLsbD p = true ∧ ∀ x, x ≠ p.val → t.jx.portUp.getLsbD x = s.jx.portUp.getLsbD x) ∧
  (∀ (p : Fin 8) (s : State), awake s = true → s.ctl.netLost.getLsbD (p.val / 2) = false →
    ∃ t, exec (.ethLinkChange p false) s = .next t ∧ t.jx.portUp.getLsbD p = false ∧ (s.jx.portUp.getLsbD p = false → t = s) ∧
      (s.jx.portUp.getLsbD p = true → let l := if p.val % 2 = 0 then leafLinkDownA (p.val / 2) else leafLinkDownB (p.val / 2)
        (causeWord t l.src).testBit l.bit = true)) ∧
  (∀ (d : Fin 4) (domain : BitVec 8) (sync : Bool) (offset : Int) (s : State), netDieUp s d = false ∨ domain.toNat ≠ ptpDomain s →
    exec (.ptpMessage d ⟨domain, sync⟩ offset) s = .next s) ∧
  (∀ (d : Fin 4) (domain : BitVec 8) (sync : Bool) (offset : Int) (s : State), netDieUp s d = true → domain.toNat = ptpDomain s →
    ∃ t, exec (.ptpMessage d ⟨domain, sync⟩ offset) s = .next t ∧
    ((s.jx.stepped = true ∨ s.jx.locked = true ∨ offset.natAbs ≤ 1000) → t.bmk = { s.bmk with slew := -offset }) ∧
    (s.jx.stepped = false → s.jx.locked = false → 1000 < offset.natAbs →
      t.bmk = { s.bmk with time := ((s.bmk.time : Int) - offset).toNat % 2 ^ 64, slew := 0 } ∧ t.jx.stepped = true) ∧
    (offset ≠ 0 → (ptpOf t d).offset = offset ∧ (ptpOf t d).st = ptpNext (ptpOf s d) sync offset)) ∧
  (∀ (p : Ptp) (sync : Bool) (offset : Int),
    (p.st = .unlocked ∨ (p.st = .holdover ∧ sync = false) → ptpNext p sync offset = p.st) ∧
    (p.st = .locked ∨ (p.st = .holdover ∧ sync = true) → (offset.natAbs < 1000 → ptpNext p sync offset = .locked) ∧
      (1000 ≤ offset.natAbs → offset.natAbs ≤ 5000 → ptpNext p sync offset = .holdover) ∧
      (5000 < offset.natAbs → ptpNext p sync offset = .unlocked))) ∧
  (∀ (d : Fin 4) (s : State), netDieUp s d = true → (ptpOf s d).offset.natAbs < 1000 → ∃ t, exec (.ptpLocked d) s = .next t ∧
    (ptpOf t d).st = .locked ∧ (ptpOf t d).lastSync = now s ∧ t.jx.locked = true ∧
    (s.cfg.phase = 5 → t.cfg.phase = 6 ∧ t.node.st = .joining) ∧ (s.cfg.phase ≠ 5 → t.cfg = s.cfg ∧ t.node = s.node)) ∧
  (∀ (d : Fin 4) (s : State), netDieUp s d = true → (ptpOf s d).st = .locked → (ptpOf s d).lastSync + 1000000000 ≤ now s →
    ∃ t, exec (.ptpHoldover d) s = .next t ∧ (ptpOf t d).st = .holdover) ∧
  (∀ (d : Fin 4) (s : State), netDieUp s d = false ∨ (ptpOf s d).st ≠ .locked ∨ now s < (ptpOf s d).lastSync + 1000000000 →
    exec (.ptpHoldover d) s = .next s) ∧
  (∀ (d : Fin 4) (e : Nat) (s : State), netDieUp s d = true → (ptpOf s d).st ≠ .unlocked → 5000 < e → ∃ t, exec (.ptpUnlock d e) s = .next t ∧
    (twf {} s.jx.ptp = true → (ptpOf t d).st = .unlocked) ∧ (causeWord t (leafPtpUnlocked d).src).testBit (leafPtpUnlocked d).bit = true) ∧
  (∀ (d : Fin 4) (e : Nat) (s : State), netDieUp s d = false ∨ (ptpOf s d).st = .unlocked ∨ e ≤ 5000 → exec (.ptpUnlock d e) s = .next s) ∧
  (∀ (d : Fin 4) (s : State), netDieUp s d = false ∨ 1000 ≤ (ptpOf s d).offset.natAbs → exec (.ptpLocked d) s = .next s)

/-- Traffic (14 R309, R313, R314, R317-R321, R323). A commit puts its setting into force when every field is in range, and otherwise changes no setting in force
and sets TRAFFIC_SET_INVALID. A port sends its control packets first, and a queue in visit while its credit allows it; in FATAL only a WITHDRAW leaves (16 R348). A
sample frame is taken once for each multiple of 10 µs, within 100 ns of it. -/
def Obligations.TrafficIsMeteredAndScheduled : Prop :=
  (∀ (rid : BitVec 16) (p : Fin 64) (w : BitVec 32) (s : State), svcClaimGate rid true (weirOff p) s = (true, s) → offsetDecoded (weirOff p) s = true →
    exec (.trafficWeirCommit rid p w) s = .next (svcAnswer .written (commitWeir p w.toNat s))) ∧
  (∀ (rid : BitVec 16) (k : Fin 1024) (w : BitVec 32) (s : State), svcClaimGate rid true (meterOff k) s = (true, s) →
    offsetDecoded (meterOff k) s = true → exec (.trafficMeterCommit rid k w) s = .next (svcAnswer .written (commitMeter k w.toNat s))) ∧
  (∀ (rid : BitVec 16) (q : Fin 1024) (w : BitVec 32) (s : State), svcClaimGate rid true (eqOff q) s = (true, s) → offsetDecoded (eqOff q) s = true →
    exec (.trafficEqCommit rid q w) s = .next (svcAnswer .written (commitEq q w.toNat s))) ∧
  (∀ (p w0 : Nat) (s : State),
    let word := fun i => tget (weirWord (weirOf s p) i) (weirOf s p).held i
    (weirOfWords w0 (word 1) (word 2) = none →
      (causeWord (commitWeir p w0 s) leafTrafficSetInvalid.src).testBit leafTrafficSetInvalid.bit = true ∧
      (twf {} s.traffic.weir = true → weirOf (commitWeir p w0 s) p = { weirOf s p with held := [] })) ∧
    (∀ w, weirOfWords w0 (word 1) (word 2) = some w → twf {} s.traffic.weir = true → weirOf (commitWeir p w0 s) p = w ∧ w.held = [] ∧
      1 ≤ w.ctxLimit ∧ w.ctxLimit ≤ 32 ∧ 1 ≤ w.queueLimit ∧ w.queueLimit ≤ 4096 ∧ 1 ≤ w.rate ∧ w.rate ≤ 8450000)) ∧
  (∀ (q w0 : Nat) (s : State),
    (eqOfWord w0 = none → (causeWord (commitEq q w0 s) leafTrafficSetInvalid.src).testBit leafTrafficSetInvalid.bit = true ∧
      (commitEq q w0 s).jx = s.jx) ∧
    (∀ m b, eqOfWord w0 = some (m, b) → 9 ≤ b ∧ (m + 1) * 256 ≤ b * 1024 ∧ (twf {} s.jx.eq = true →
      (eqOf (commitEq q w0 s) q).quantumM1 = m ∧ (eqOf (commitEq q w0 s) q).burst = b ∧ (eqOf (commitEq q w0 s) q).credit ≤ b * 1024))) ∧
  (∀ (w0 w1 w2 w3 : Nat) (m : Meter), meterOfWords w0 w1 w2 w3 = some m → m.en = true → 1 ≤ m.cir ∧ m.cir ≤ m.pir ∧ m.pir ≤ 400000 ∧ 36 ≤ m.cbs ∧
    m.cbs ≤ m.pbs) ∧
  (∀ (p : Fin 8) (s : State), portServes s p = false → portTells s p = false → exec (.egressTransmit p) s = .next s) ∧
  (∀ (p : Fin 8) (s : State), portTells s p = true → let l := (tget [] s.jx.control p).find? fun h => h.pkt.hdr.opcode == 0x2D
    (l = none → exec (.egressTransmit p) s = .next s) ∧
    (∀ h, l = some h → ∃ t, exec (.egressTransmit p) s = .next t ∧ tlook t.jx.tx p = some h.pkt ∧ t.jx.eq = s.jx.eq)) ∧
  (∀ (p : Fin 8) (h : QPkt) (rest : List QPkt) (s : State), portServes s p = true → (tget {} s.jx.round p).visit = none →
    tget [] s.jx.control p = h :: rest → ∃ t, exec (.egressTransmit p) s = .next t ∧ tlook t.jx.tx p = some h.pkt ∧ t.jx.eq = s.jx.eq ∧
      (rest ≠ [] → tget [] t.jx.control p = rest)) ∧
  (∀ (p : Fin 8) (q : Nat) (h : QPkt) (rest : List QPkt) (s : State), portServes s p = true → (tget {} s.jx.round p).visit = some q →
    (eqOf s q).pkts = h :: rest → pktSize h.pkt ≤ (eqOf s q).credit → ∃ t, exec (.egressTransmit p) s = .next t ∧ tlook t.jx.tx p = some h.pkt) ∧
  (∀ (d : Fin 4) (s : State), awake s = true → now s % 10000 ≤ 100 → s.ctl.netLost.getLsbD d = false → tget 0 s.traffic.sampleSeq d = 0 →
    ∃ t, exec (.queueSample d) s = .next t ∧ tget 0 t.traffic.sampleSeq d = 1 ∧ t.jx = s.jx) ∧
  (∀ (d : Fin 4) (s : State), awake s = true → now s % 10000 ≤ 100 → s.ctl.netLost.getLsbD d = false → let q := tget 0 s.traffic.sampleSeq d
    let last := leNat (memRead (tget [] s.traffic.samples (d * 64 + q % 64)) 0 8)
    (q ≠ 0 → now s / 10000 * 10000 = last → exec (.queueSample d) s = .next s) ∧
    (q = 0 ∨ now s / 10000 * 10000 ≠ last → exec (.queueSample d) s = .next { s with traffic := { s.traffic with
      samples := tset [] s.traffic.samples (d * 64 + nextSeq q % 64) ((framePieces s d (nextSeq q)).foldl (fun m p => memWrite m p.1 p.2) ([] : Tbl Byte))
      sampleSeq := tset 0 s.traffic.sampleSeq d (nextSeq q) } })) ∧
  (∀ (d : Fin 4) (s : State), awake s = false ∨ 100 < now s % 10000 ∨ s.ctl.netLost.getLsbD d = true → exec (.queueSample d) s = .next s)

/-! ## Sluice, programs, windows and DMA -/

/-- Sluice commands (12 R282, R287, R288, Table 12.8). POST arms a FREE entry whose staged bytes pass the checks, writing TENANT and PRIV itself,
answers a repeat with REPEAT, refuses malformed bytes with ST_MALFORMED and a draining or otherwise armed entry with ST_STATE_CONFLICT; CANCEL drains
an armed entry; REARM adds uses up to 65,535. A command is answered by a record, and one that is not the entry's first delivered command changes
nothing. A DRAINING entry becomes FREE when nothing of it runs, waits or is open. -/
def Obligations.SluiceCommandsAreAnswered : Prop :=
  (∀ (c : Instr) (code : Nat) (x : Fin 32768) (s : State), (c, code) ∈ [(Instr.sluicePost x, 1), (.sluiceCancel x, 2), (.sluiceRearm x, 3)] →
    nextCmd s x code = none → exec c s = .next s) ∧
  (∀ (x : Fin 32768) (c : SluCmd) (s : State), nextCmd s x 1 = some c →
    let u := dropCmd c s
    let t := rangeTenant s x
    let b := stagedBytes s x
    let e := entryOf u x
    (∀ st, postCheck u t b = some st → st ≠ stStateConflict → st ≠ stOk →
      exec (.sluicePost x) s = .next (sluRecord x t { status := st } c.msg.id u)) ∧
    (stagedBad (maskOfTenant u t) b = true → postCheck u t b = some stMalformed) ∧
    (postCheck u t b = none → e.st = .free → exec (.sluicePost x) s = .next (onPost x true (sluRecord x t { status := stOk } c.msg.id
      (setEntryRec x { e with st := .armed, bytes := withOwner u t b, limited := eUses b != 0, left := eUses b, seqno := 0, last := none } u)))) ∧
    (postCheck u t b = none → e.st = .armed → put b 32 [0, 0, 0] = put e.bytes 32 [0, 0, 0] →
      exec (.sluicePost x) s = .next (sluRecord x t { status := stOk, rep := true } c.msg.id u)) ∧
    (postCheck u t b = none → e.st = .draining ∨ (e.st = .armed ∧ put b 32 [0, 0, 0] ≠ put e.bytes 32 [0, 0, 0]) →
      exec (.sluicePost x) s = .next (sluRecord x t { status := stStateConflict } c.msg.id (refuseN (x % 4) t 2 (entryCode e.st) 0x41 x (some c.msg) u)))) ∧
  (∀ (x : Fin 32768) (c : SluCmd) (s : State), nextCmd s x 2 = some c →
    let u := dropCmd c s
    let answer := fun (w : Bool) (v : State) => Host.Outcome.next (sluRecord x (rangeTenant v x) { status := stOk, wait := w } c.msg.id v)
    ((entryOf u x).st = .free → exec (.sluiceCancel x) s = answer false u) ∧
    ((entryOf u x).st = .draining → exec (.sluiceCancel x) s = answer true u) ∧
    ((entryOf u x).st = .armed → exec (.sluiceCancel x) s = answer true
      (closeStep x 1 stRetry (closeStep x 0 stRetry (setEntryRec x { entryOf u x with st := .draining } u))))) ∧
  (∀ (x : Fin 32768) (c : SluCmd) (s : State), nextCmd s x 3 = some c →
    let u := dropCmd c s
    let e := entryOf u x
    let answer := fun (st : Nat) (v : State) => Host.Outcome.next (sluRecord x (rangeTenant v x) { status := st } c.msg.id v)
    (e.st = .armed → exec (.sluiceRearm x) s = answer stOk
      (if e.limited then setEntryRec x { e with left := min 65535 (e.left + c.count) } u else u)) ∧
    (e.st ≠ .armed → exec (.sluiceRearm x) s = answer stStateConflict
      (refuseN (x % 4) (rangeTenant s x) 2 (entryCode e.st) 0x43 x (some c.msg) u))) ∧
  (∀ (x : Fin 32768) (s : State), (entryOf s x).st ≠ .draining ∨ instancesOf s x ≠ 0 ∨ (entryOf s x).steps.isEmpty = false →
    exec (.sluiceEntryFree x) s = .next s) ∧
  (∀ (x : Fin 32768) (s : State), (entryOf s x).st = .draining → instancesOf s x = 0 → (entryOf s x).steps = [] →
    ∃ t, exec (.sluiceEntryFree x) s = .next t ∧ (twf {} s.slu.entry = true → (entryOf s x).cancelMsgs = [] →
      (entryOf t x).st = .free ∧ (entryOf t x).bytes = (entryOf s x).bytes ∧ (entryOf t x).left = 0 ∧ (entryOf t x).cDup = (entryOf s x).cDup))

/-- Instances, contributions and forwarded writes (08 R194-R196; 12 R283, R286; Table 12.5). The oldest enable of a die takes an instance record while
one of its 8,192 is free. A contribution of a wrong shape, another PLACEMENT_GEN or another step and a second one of a slot are discarded and counted;
a step that timed out is closed with ST_RETRY. FORWARD sends the bytes written, and ends ST_OK with SINGLE_COPY where no partner is owed the append;
SIGNAL sends an empty WRITE_IMM. An action that sends waits while its die has 4,096 messages in flight (11 R262). A place that is no slot of its step is the
model's malformed (log 101). -/
def Obligations.InstancesCombineAndForward : Prop :=
  (∀ (d : Fin 4) (s : State), tget [] s.slu.queue d = [] ∨ 8192 ≤ tcount s.slu.inst (fun _ i => i.die == d.val) →
    exec (.instanceStart d) s = .next s) ∧
  (∀ (d : Fin 4) (q : Enable) (rest : List Enable) (s : State), tget [] s.slu.queue d = q :: rest → tcount s.slu.inst (fun _ i => i.die == d.val) < 8192 →
    ∃ t x, exec (.instanceStart d) s = .next t ∧ instOf t s.slu.nextInst = some x ∧ x.entry = q.entry ∧ x.die = d ∧ x.arg = q.arg ∧
      x.bytes = (entryOf s q.entry).bytes ∧ x.acts = startNext x.bytes 0 .okay (List.replicate (eNActions x.bytes) .waiting) ∧
      t.slu.nextInst = s.slu.nextInst + 1 ∧ (rest ≠ [] → tget [] t.slu.queue d = rest)) ∧
  (∀ (i : Nat) (x : Inst) (k : Nat) (p : Bytes) (m : EnMsg) (s : State), startedAct s i 3 = some (x, k, p) → x.msg = some m →
    (fillsStep p (enabledBytes s m) m x.entry x.arg s = false ∨ sendFull s (x.entry % 4) = false →
      exec (.combine i) s = .next (actEnd i k stOk (fileContrib x.entry p (enabledBytes s m) m x.arg x.lc (doneReading i s)))) ∧
    (fillsStep p (enabledBytes s m) m x.entry x.arg s = true → sendFull s (x.entry % 4) = true → exec (.combine i) s = .next s)) ∧
  (∀ (x : Nat) (p b : Bytes) (m : EnMsg) (arg : Nat) (lc : Bool) (s : State),
    (m.offset < kBase p ∨ m.len ≠ contribLen p ∨ contribPlaces p b = true ∨ contribSlot p m arg = none →
      fileContrib x p b m arg lc s = setEntryRec x { entryOf s x with cMalformed := satInc 32 (entryOf s x).cMalformed } s) ∧
    (kBase p ≤ m.offset → m.len = contribLen p → contribPlaces p b = false →
      let place := m.offset - kBase p
      let slot := place / kStride p - arg % 2 * kN p
      place % kStride p = 0 → arg % 2 * kN p ≤ place / kStride p → slot < kN p →
      (contribGen p b = true → fileContrib x p b m arg lc s = setEntryRec x { entryOf s x with cGen := satInc 32 (entryOf s x).cGen } s) ∧
      (∀ st, contribGen p b = false → tlook (entryOf s x).steps (arg % 2) = some st → st.step ≠ arg →
        fileContrib x p b m arg lc s = setEntryRec x { entryOf s x with cStale := satInc 32 (entryOf s x).cStale } s) ∧
      (∀ st, contribGen p b = false → tlook (entryOf s x).steps (arg % 2) = some st → st.step = arg → (tlook st.slots slot).isSome = true →
        fileContrib x p b m arg lc s = setEntryRec x { entryOf s x with cDup := satInc 32 (entryOf s x).cDup } s) ∧
      (contribGen p b = false → tlook (entryOf s x).steps (arg % 2) = none → fileContrib x p b m arg lc s = finishStep x (arg % 2) p
        (setEntryRec x { entryOf s x with steps := tput (entryOf s x).steps (arg % 2) ⟨arg, [(slot, b)], now s, m.id, lc⟩ } s)) ∧
      (∀ st, contribGen p b = false → tlook (entryOf s x).steps (arg % 2) = some st → st.step = arg → tlook st.slots slot = none →
        fileContrib x p b m arg lc s = finishStep x (arg % 2) p (setEntryRec x { entryOf s x with
          steps := tput (entryOf s x).steps (arg % 2) { st with slots := tput st.slots slot b, msgId := m.id } } s)))) ∧
  (∀ (x parity : Nat) (p : Bytes) (st : CombineStep) (s : State), tlook (entryOf s x).steps parity = some st →
    (st.slots.length < kN p → finishStep x parity p s = s) ∧
    (kN p ≤ st.slots.length → ∃ m : OutMsg, m.op = 2 ∧ m.data = combined p st.slots ∧ m.dst = bits (rd p 24 4) 23 0 ∧ m.offset = rd p 32 6 ∧
      (∀ id u, sendMsg (x % 4) m s = (.sent id, u) → finishStep x parity p s = closeStep x parity stOk u) ∧
      (∀ status u, sendMsg (x % 4) m s = (.refused status, u) → finishStep x parity p s = closeStep x parity status u)) ∧
    (∀ status, closeStep x parity status s = postedRec x status 3 0 false false false st.step st.msgId 0 st.lc
      (setEntryRec x { entryOf s x with steps := tdel (entryOf s x).steps parity } s))) ∧
  (∀ (x : Fin 32768) (b : Fin 2) (s : State), tlook (entryOf s x).steps b = none → exec (.combineTimeout x b) s = .next s) ∧
  (∀ (x : Fin 32768) (b : Fin 2) (st : CombineStep) (s : State), tlook (entryOf s x).steps b = some st →
    (now s < st.opened + kTimeout (aParams (entryOf s x).bytes 0) → exec (.combineTimeout x b) s = .next s) ∧
    (st.opened + kTimeout (aParams (entryOf s x).bytes 0) ≤ now s → exec (.combineTimeout x b) s = .next
      (closeStep x b stRetry (setEntryRec x { entryOf s x with cTimeout := satInc 32 (entryOf s x).cTimeout } s)))) ∧
  (∀ (i : Nat) (x : Inst) (k : Nat) (p : Bytes) (m : EnMsg) (s : State), startedAct s i 4 = some (x, k, p) → x.msg = some m →
    (relaysPend s x = true ∨ (sendFull s x.die = true ∧ forwardAlone s x = false) → exec (.forward i) s = .next s) ∧
    (relaysPend s x = false → forwardAlone s x = true → exec (.forward i) s = .next (actDone i k stOk false true 0 s)) ∧
    (∀ st u, relaysPend s x = false → sendFull s x.die = false → forwardAlone s x = false → sendMsg x.die (forwardMsg x i k p m s) s = (.refused st, u) → exec (.forward i) s = .next (actEnd i k st u)) ∧
    (∀ id u y, relaysPend s x = false → sendFull s x.die = false → forwardAlone s x = false →
      sendMsg x.die (forwardMsg x i k p m s) s = (.sent id, u) → instOf u i = some y →
      exec (.forward i) s = .next (setInst i { y with acts := y.acts.set k .busy, fwdIds := y.fwdIds ++ [id] } u)) ∧
    (forwardMsg x i k p m s).data = winRead s m.window m.offset m.len ∧ (forwardMsg x i k p m s).op = 2) ∧
  (∀ (i : Nat) (x : Inst) (k : Nat) (p : Bytes) (s : State), startedAct s i 5 = some (x, k, p) →
    ∃ m : OutMsg, m.op = 2 ∧ m.data = [] ∧ m.dst = rd p 0 3 ∧ m.tenant = x.tenant ∧ m.offset = rd p 8 6 ∧ m.imm % 2 ^ 17 = x.arg % 2 ^ 17 ∧
      (sendFull s x.die = true → exec (.signal i) s = .next s) ∧
      (∀ id u, sendFull s x.die = false → sendMsg x.die m s = (.sent id, u) → exec (.signal i) s = .next (actEnd i k stOk u)) ∧
      (∀ st u, sendFull s x.die = false → sendMsg x.die m s = (.refused st, u) → exec (.signal i) s = .next (actEnd i k st u)))

/-- Programs and windows (07 R174-R176; 11 R266; 12 R290, Table 12.9). An image that fails a check of 07 is refused ST_MALFORMED with PROGRAM_INVALID; with
no FREE slot an install is refused; at its end the slot holds the image and its SHA-256. REMOVE is refused by state, tenant or generation, or drains the slot, which
becomes FREE with a new generation once unused. A window opens at a FREE descriptor or answers ST_RETRY; a revoke of the present generation drains it, of the one
before answers REPEAT, of another ST_BAD_GEN. -/
def Obligations.ProgramsAndWindowsComeAndGo : Prop :=
  (∀ (i : Nat) (x : Inst) (k : Nat) (p : Bytes) (s : State), startedAct s i 0x0E = some (x, k, p) → tlook s.installs x.tenant = none →
    let img := stagedImage s x.tenant
    (∀ o j off, programBad img = some (o, j, off) → exec (.programInstall i) s = .next (actEnd i k stMalformed
      (raise leafProgramInvalid [(40, 1, o), (41, 1, j), (44, 4, off)] s))) ∧
    (programBad img = none → freeProg s = none → exec (.programInstall i) s = .next (actEnd i k stStateConflict s)) ∧
    (∀ slot, programBad img = none → freeProg s = some slot → exec (.programInstall i) s = .next (actBusy i k
      { s with installs := tput s.installs x.tenant ⟨i, slot, img⟩ }))) ∧
  (∀ (t : BitVec 12) (n : Install) (s : State), tlook s.installs t.toNat = some n → ∃ u v, exec (.programInstallComplete t) s = .next
      (endBusy n.inst 0x0E stOk false false v u) ∧ (progOf u n.slot).st = (if tenantLive s t.toNat then .installed else .draining) ∧
    (progOf u n.slot).tenant = t.toNat ∧ (progOf u n.slot).image = n.image ∧ (progOf u n.slot).digest = Config.sha256 n.image ∧
    v = n.slot + (progOf u n.slot).gen * 65536 ∧ (progOf u n.slot).gen = (progOf s n.slot).gen) ∧
  (∀ (t : BitVec 12) (s : State), tlook s.installs t.toNat = none → exec (.programInstallComplete t) s = .next s) ∧
  (∀ (i : Nat) (x : Inst) (k : Nat) (p : Bytes) (s : State), startedAct s i 0x0F = some (x, k, p) →
    let g := progOf s (rd p 0 1)
    (g.st = .free → exec (.programRemove i) s = .next (actEnd i k stStateConflict (refuseC x.tenant 5 0 0x0F (rd p 0 1) s (whoOf x.msg)))) ∧
    (g.st ≠ .free → g.tenant ≠ x.tenant → exec (.programRemove i) s = .next (actEnd i k stAccess s)) ∧
    (g.st ≠ .free → g.tenant = x.tenant → g.gen ≠ rd p 2 2 →
      exec (.programRemove i) s = .next (actEnd i k stStateConflict (refuseC x.tenant 5 (progCode g.st) 0x0F (rd p 0 1) s (whoOf x.msg)))) ∧
    (g.st ≠ .free → g.tenant = x.tenant → g.gen = rd p 2 2 →
      exec (.programRemove i) s = .next (actEnd i k stOk { s with prog := tput s.prog (rd p 0 1) { g with st := .draining } }))) ∧
  (∀ (k : Fin 256) (s : State), ∃ t, exec (.programSlotFree k) s = .next t ∧
    ((progOf s k).st ≠ .draining ∨ (progOf s k).uses ≠ 0 → t = s) ∧
    ((progOf s k).st = .draining → (progOf s k).uses = 0 → twf {} s.prog = true →
      (progOf t k).st = .free ∧ (progOf t k).image = ({} : Prog).image ∧ (progOf t k).gen = ((progOf s k).gen + 1) % 65536)) ∧
  (∀ (k : Fin 256) (s : State), (progOf s k).st = .draining → (progOf s k).uses = 0 → twf {} s.prog = true → ∃ t,
    exec (.programSlotFree k) s = .next t ∧ progOf t k = { gen := ((progOf s k).gen + 1) % 65536 } ∧
    ∀ j, j ≠ k.val → progOf t j = progOf s j) ∧
  (∀ (i : Nat) (x : Inst) (k : Nat) (p : Bytes) (s : State), startedAct s i 0x10 = some (x, k, p) →
    let kind := bits (rd p 0 1) 3 0
    (mayWindow x kind x.tenant = false → exec (.windowOpen i) s = .next (actEnd i k stAccess s)) ∧
    (mayWindow x kind x.tenant = true → openWindow kind x.tenant (rd p 8 6) s = none →
      exec (.windowOpen i) s = .next (actEnd i k stRetry (count (netCntOff x.die 22) s))) ∧
    (∀ id u, mayWindow x kind x.tenant = true → openWindow kind x.tenant (rd p 8 6) s = some (id, u) →
      exec (.windowOpen i) s = .next (actDone i k stOk false false (id + winGen u id * 65536) u))) ∧
  (∀ (i : Nat) (x : Inst) (k : Nat) (p : Bytes) (s : State), startedAct s i 0x11 = some (x, k, p) →
    let id := bits (rd p 0 2) 13 0
    let w := winOf s id
    (w.st ≠ .free → mayWindow x w.kind w.tenant = false → exec (.windowRevoke i) s = .next (actEnd i k stAccess s)) ∧
    (w.st = .free → rd p 2 2 = winGen s id →
      exec (.windowRevoke i) s = .next (actEnd i k stStateConflict (refuseN x.die x.tenant 3 0 0x11 id x.msg s))) ∧
    (w.st ≠ .free → mayWindow x w.kind w.tenant = true → rd p 2 2 = winGen s id → let u := startDrainWin id s
      exec (.windowRevoke i) s = .next (setWin id { winOf u id with revokers := (winOf u id).revokers ++ [i] } (actBusy i k u))) ∧
    (w.st = .free → rd p 2 2 ≠ winGen s id → (rd p 2 2 + 1) % 65536 = winGen s id →
      exec (.windowRevoke i) s = .next (actDone i k stOk true false 0 s)) ∧
    (w.st = .free ∨ mayWindow x w.kind w.tenant = true → rd p 2 2 ≠ winGen s id → w.st ≠ .free ∨ (rd p 2 2 + 1) % 65536 ≠ winGen s id →
      exec (.windowRevoke i) s = .next (actEnd i k stBadGen s))) ∧
  (∀ (kind tenant len id : Nat) (s u : State), openWindow kind tenant len s = some (id, u) → id < 16384 ∧ (winOf s id).st = .free ∧
    (∀ j, j < id → (winOf s j).st ≠ .free) ∧ (winOf u id).st = .active ∧ (winOf u id).kind = kind ∧ (winOf u id).tenant = tenant ∧
    (winOf u id).length = len ∧ u.dir = s.dir) ∧
  (∀ (id : Fin 16384) (s : State),
    ((winOf s id).st = .draining → winInFlight s id = 0 → exec (.windowFree id) s = .next (freeWindow id s)) ∧
    ((winOf s id).st ≠ .draining ∨ winInFlight s id ≠ 0 → exec (.windowFree id) s = .next s)) ∧
  (∀ (id : Nat) (s : State), let w := winOf s id
    freeWindow id s = w.revokers.foldl (fun s i => endBusy i 0x11 stOk false false 0 s) (windowGone id (winGen s id) (setWin id
      { w with st := .free, bumps := (w.bumps + 1) % 65536, frames := [], drainAt := 0, reads := 0, revokers := [] }
      (w.frames.foldl (fun u a => releaseFast (isSealed s w.tenant) a u) s))))

/-- DMA channels and comparators (13 R294, R295, R299-R305, Tables 13.4, 13.5). A start of an idle channel checks its descriptor and runs it, or ends
it with ST_MALFORMED and the cause; one of a busy channel is kept pending, and a further one counted. Completion reports ST_OK and starts a pending
run; an abort and an error of memory end a run with ST_INTERNAL and its cause, clearing PENDING; an uncorrectable line (04 R93) and poison (05 Table
5.4) end it so too, and so does the fence of a side. A run moves its lines as any read and write of a channel: behind block reads and atoms (02 R37),
not while the channel retrains or an atom holds it, and not a chunk that waits for its redo. A comparator fires once its time has come, also while a
main reset holds the node (R303), and re-arms past the present time. The moment at which a fenced run stops is the model's (log 73). -/
def Obligations.DmaRunsAndComparatorsFire : Prop :=
  (∀ (c : Fin 320) (s : State), exec (.dmaStart (.write c)) s = .next (if awake s then dmaEvent c s else s)) ∧
  (∀ (i : Nat) (x : Inst) (k : Nat) (p : Bytes) (s : State), startedAct s i 0x12 = some (x, k, p) →
    exec (.dmaStart (.action i)) s = .next (actEnd i k stOk (dmaEvent (bits (rd p 0 2) 8 0) s))) ∧
  (∀ (c : Nat) (s : State), let x := dmaOf s c
    (x.run = none → x.pending = false → dmaGated s c = false → dmaCheck s (padTo 64 x.desc) x.funnelEn x.pace = none →
      ∃ t, dmaEvent c s = t ∧ (dmaOf t c).run = some ⟨padTo 64 x.desc, x.funnelEn, x.pace, now s, 0⟩ ∧ (dmaOf t c).bytes = 0 ∧ t.mem = s.mem) ∧
    (∀ cause, x.run = none → x.pending = false → dmaGated s c = false → dmaCheck s (padTo 64 x.desc) x.funnelEn x.pace = some cause →
      let t := dmaEvent c s
      (dmaOf t c).run = none ∧ (dmaOf t c).error = true ∧ (dmaOf t c).lastStatus = stMalformed ∧ (dmaOf t c).cause = cause ∧ t.mem = s.mem ∧
      (x.intEn = true → (causeWord t (dmaErrorLeaf c).src).testBit (dmaErrorLeaf c).bit = true)) ∧
    (x.pending = false → x.run.isSome = true ∨ dmaGated s c = true → dmaEvent c s = setDma c { x with pending := true } s) ∧
    (x.pending = true → dmaEvent c s = setDma c { x with startLost := satInc 8 x.startLost } s)) ∧
  (∀ (c : Fin 320) (n : Nat) (s : State), exec (.dmaAbort c n) s = .next (if awake s then dmaAbortAt c n s else s)) ∧
  (∀ (c n : Nat) (s : State), let t := dmaAbortAt c n s
    ((dmaOf s c).run = none → t = setDma c { dmaOf s c with pending := false } s) ∧
    ((dmaOf s c).run ≠ none → (dmaOf t c).run = none ∧ (dmaOf t c).pending = false ∧ (dmaOf t c).error = true ∧ (dmaOf t c).lastStatus = stInternal ∧
      (dmaOf t c).cause = 7)) ∧
  (∀ (c : Fin 320) (r : DmaRun) (s : State), (dmaOf s c).run = some r →
    (r.pace = 0 ∨ dmDstLines r.desc ≤ r.line ∨ now s < r.start + r.line * r.pace → exec (.dmaPaceTick c) s = .next s) ∧
    (r.pace ≠ 0 → r.line < dmDstLines r.desc → r.start + r.line * r.pace ≤ now s →
      ∀ got u, runRead c r (r.line * dmDstLen r.desc) (dmDstLen r.desc) .clean s = (got, u) →
      (got ≠ .clean → exec (.dmaPaceTick c) s = .next u) ∧
      (got = .clean → ∃ t, exec (.dmaPaceTick c) s = .next t ∧ ((dmaOf t c).run.map (·.line)) = some (r.line + 1) ∧
        (dmaOf t c).bytes = max (dmaOf s c).bytes ((r.line + 1) * dmDstLen r.desc))) ∧
    (r.pace ≠ 0 → r.line < dmDstLines r.desc → ∀ o, exec (.dmaRunComplete ⟨c, o⟩) s = .next s) ∧
    (∀ o got u, r.pace = 0 ∨ dmDstLines r.desc ≤ r.line →
      runRead c r (dmaOf s c).bytes (runLen r - (dmaOf s c).bytes) o s = (got, u) →
      (got = .clean → exec (.dmaRunComplete ⟨c, o⟩) s = .next (dmaDone c (dmaMove c (runLen r) u))) ∧
      (∀ a, got = .bad a → exec (.dmaRunComplete ⟨c, o⟩) s = .next (dmaLineLost c a (dmaOf s c).bytes u)) ∧
      (got = .waits ∨ got = .failed → exec (.dmaRunComplete ⟨c, o⟩) s = .next u)) ∧
    (∀ e n, (∀ a, e ≠ .lineUncorrectable a) → (∀ d a, e ≠ .poison d a) → e ≠ .dieAbort →
      (dmaMemError r e s = none → exec (.dmaRunError c e n) s = .next s) ∧
      (∀ ring u, dmaMemError r e s = some (ring, u) → exec (.dmaRunError c e n) s = .next (dmaMemEnd c ring (logSeq u ring) n u))) ∧
    (∀ d a n, (onPort (runSide r d) a.toNat = true → exec (.dmaRunError c (.poison d a) n) s = .next (dmaPoison c a.toNat n s)) ∧
      (onPort (runSide r d) a.toNat = false → exec (.dmaRunError c (.poison d a) n) s = .next s)) ∧
    (∀ l n got u, runRead c r (dmaOf s c).bytes (runLen r - (dmaOf s c).bytes) (.uncorrectable l) s = (got, u) →
      (∀ a, got = .bad a → exec (.dmaRunError c (.lineUncorrectable l) n) s = .next (dmaLineLost c a n u)) ∧
      ((∀ a, got ≠ .bad a) → exec (.dmaRunError c (.lineUncorrectable l) n) s = .next u)) ∧
    (∀ n, exec (.dmaRunError c .dieAbort n) s = .next (dmaAbortAt c n s))) ∧
  (∀ (c n : Nat) (r : DmaRun) (s : State), (dmaOf s c).run = some r → let x := dmaOf s c
    (n ≤ x.bytes → dmaMove c n s = s) ∧
    (x.bytes < n → dmaMove c n s =
      setDma c { x with bytes := n } (streamWrite (dstSide r.desc) x.bytes (streamRead s (srcSide r.desc) x.bytes (n - x.bytes)) s)) ∧
    (x.pending = false → let u := setDma c { x with run := none, pending := false, done := true, lastStatus := stOk, cause := 0 } s
      (x.intEn = false → dmaDone c s = eventAll 4 c (dmaStarts 2 c u)) ∧
      (x.intEn = true → dmaDone c s = raise (dmaDoneLeaf c) (dmaDetail c 0 stOk r.desc x.bytes) (eventAll 4 c (dmaStarts 2 c u))))) ∧
  (∀ (c ring seq n : Nat) (r : DmaRun) (s : State), (dmaOf s c).run = some r → let t := dmaMemEnd c ring seq n s
    (dmaOf t c).run = none ∧ (dmaOf t c).pending = false ∧ (dmaOf t c).error = true ∧ (dmaOf t c).lastStatus = stInternal ∧ (dmaOf t c).cause = 6) ∧
  (∀ (c a n : Nat) (r : DmaRun) (s : State), (dmaOf s c).run = some r → let t := dmaLineLost c a n s
    (dmaOf t c).run = none ∧ (dmaOf t c).pending = false ∧ (dmaOf t c).error = true ∧ (dmaOf t c).lastStatus = stInternal ∧ (dmaOf t c).cause = 6 ∧
    (causeWord t (leafLineUncorrectable (a / 2 ^ 40)).src).testBit (leafLineUncorrectable (a / 2 ^ 40)).bit = true) ∧
  (∀ (c a n : Nat) (r : DmaRun) (s : State), (dmaOf s c).run = some r → let t := dmaPoison c a n s
    (dmaOf t c).run = none ∧ (dmaOf t c).pending = false ∧ (dmaOf t c).error = true ∧ (dmaOf t c).lastStatus = stInternal ∧ (dmaOf t c).cause = 6 ∧
    (causeWord t (leafTierPoison (a / 2 ^ 41)).src).testBit (leafTierPoison (a / 2 ^ 41)).bit = true) ∧
  (∀ (s : State) (c : Nat) (r : DmaRun) (o n : Nat) (x : LineOutcome), (runOut s r).isSome = true ∨ rankWaits s (runChans s r o n) = true ∨
    (runChans s r o n).any (chanHeld s) = true → runRead c r o n x s = (.waits, s)) ∧
  (∀ (f : DmaSide → Bool) (ring c : Nat) (r : DmaRun) (s : State), (dmaOf s c).run = some r → let t := endRuns f ring s
    (f (srcSide r.desc) = true ∨ f (dstSide r.desc) = true → (dmaOf t c).run = none ∧ (dmaOf t c).error = true ∧
      (dmaOf t c).lastStatus = stInternal ∧ (dmaOf t c).cause = 6 ∧ (dmaOf t c).bytes = (dmaOf s c).bytes) ∧
    t.mem = s.mem) ∧
  (∀ (c : Nat) (s : State), (dmaOf (abortRuns s) c).run = none ∧ (abortRuns s).mem = s.mem) ∧
  (∀ (c : Fin 320) (e : DmaError) (o : LineOutcome) (n : Nat) (s : State), (dmaOf s c).run = none →
    exec (.dmaPaceTick c) s = .next s ∧ exec (.dmaRunComplete ⟨c, o⟩) s = .next s ∧ exec (.dmaRunError c e n) s = .next s) ∧
  (∀ (n : Fin 32) (s : State), let x := tmrOf s n
    let period := bits x.ctrl.toNat 31 4 * 10
    (s.bmk.counting = false ∨ s.pwr.mode = .bmkOnly ∨ x.ctrl.getLsbD 0 = false ∨ now s < x.compare → exec (.timerComparatorFire n) s = .next s) ∧
    (s.bmk.counting = true → s.pwr.mode ≠ .bmkOnly → x.ctrl.getLsbD 0 = true → x.compare ≤ now s → x.ctrl.getLsbD 1 = false ∨ period = 0 →
      exec (.timerComparatorFire n) s = .next (eventAll 3 n (dmaStarts 1 n
        (setTmr n { x with ctrl := (x.ctrl ||| 4#32) &&& 0xFFFFFFFE#32 } s)))) ∧
    (s.bmk.counting = true → s.pwr.mode ≠ .bmkOnly → x.ctrl.getLsbD 0 = true → x.compare ≤ now s → x.ctrl.getLsbD 1 = true → period ≠ 0 →
      let k := (now s - x.compare) / period + 1
      let u := setTmr n { compare := (x.compare + k * period) % 2 ^ 64, ctrl := x.ctrl ||| 4#32 } s
      now s < x.compare + k * period ∧
      exec (.timerComparatorFire n) s = .next (eventAll 3 n (dmaStarts 1 n (if awake s = true ∧ 1 < k then count (chipCntOff 2) u else u)))))

/-! ## Tenants, keys and attestation -/

/-- Key slots (17 R370, R373-R376, R385-R387). TENANT_ADMIT refuses malformed fields, a resident tenant and a range in use, and otherwise fills the lowest EMPTY
slot; KEY_INSTALL makes a key pending, which becomes current at its ACTIVATE_TIME while the key before stays until 1,020 µs later; a current key that has used five
sixths of its LIFETIME is marked. TENANT_REMOVE is deferred; the tenant retires at T_R, is zeroised when nothing of it is left and its slot is then EMPTY.
A sealed frame is zeroed before it returns to the allocator. -/
def Obligations.TenantsComeAndGo : Prop :=
  (∀ (c : Instr) (op : Nat) (s : State), (c, op) ∈ [(Instr.tenantAdmit, 0x10), (.tenantRemove, 0x11), (.keyInstall, 0x12)] → fwCmd s op = none →
    exec c s = .next s) ∧
  (∀ (c : Latched) (s : State), fwCmd s 0x10 = some c → fwGate s 0x10 c.req = none →
    exec .tenantAdmit s = .next (answerFw (admitDo c.req s).1 (admitDo c.req s).2.1 (admitDo c.req s).2.2)) ∧
  (∀ (b : Bytes) (s : State), let t := rd b 0 2
    (admitBad b = true → admitDo b s = (stMalformed, [], s)) ∧
    (∀ k x, admitBad b = false → slotOfTenant s t = some (k, x) → admitDo b s = (stStateConflict, [], refuseSlot t k 0x90 s)) ∧
    (∀ k x, admitBad b = false → slotOfTenant s t = none → rangeMeets s (rd b 4 2) (rd b 6 2) = some (k, x) →
      admitDo b s = (stStateConflict, [], refuseSlot t k 0x90 s)) ∧
    (∀ k, admitBad b = false → slotOfTenant s t = none → rangeMeets s (rd b 4 2) (rd b 6 2) = none → emptySlot s = some k → bitAt (rd b 2 1) 0 = false →
      admitDo b s = admitInto b none s) ∧
    (∀ k key u, admitBad b = false → slotOfTenant s t = none → rangeMeets s (rd b 4 2) (rd b 6 2) = none → emptySlot s = some k →
      bitAt (rd b 2 1) 0 = true → blobKey (slice b 0 64) (b.drop 64) s = (key, u) →
      (key = none → admitDo b s = (stAccess, [], u)) ∧ (∀ v, key = some v → admitDo b s = admitInto b (some v) u))) ∧
  (∀ (b : Bytes) (link : Option (BitVec 256)) (k : Nat) (s : State), emptySlot s = some k →
    let opened := openTenantWindows (rd b 0 2) (rd b 6 2) (fillSlot k b link s)
    (opened = none → (admitInto b link s).1 = stRetry) ∧
    (∀ w p u, opened = some (w, p, u) → (admitInto b link s).1 = stOk ∧
      (admitInto b link s).2.2 = zeroCounters k { u with traffic := { u.traffic with mask := tset 0 u.traffic.mask k (rd b 8 8) } })) ∧
  (∀ (k : Nat) (b : Bytes) (link : Option (BitVec 256)) (s : State), rd b 0 2 ≠ 0 → let x := keyOf (fillSlot k b link s) k
    x.tenant = rd b 0 2 ∧ x.st = .active ∧ x.prot = bitAt (rd b 2 1) 0 ∧ x.sealed_ = bitAt (rd b 2 1) 1 ∧ x.priv = bits (rd b 3 1) 3 0 ∧
    x.sluiceBase = rd b 4 2 ∧ x.sluiceCount = rd b 6 2 ∧ x.memGen = ((keyOf s k).memGen + 1) % 65536 ∧ x.keys.pending = none) ∧
  (∀ (c : Latched) (s : State), fwCmd s 0x12 = some c → fwGate s 0x12 c.req = none →
    exec .keyInstall s = .next (answerFw (keyInstallDo c.req s).1 [] (keyInstallDo c.req s).2)) ∧
  (∀ (h : KeyHolder) (tenant k : Nat) (b : Bytes) (s : State),
    (keyTooSoon s (keysOf s h) (rd b 8 8) = true → installInto h tenant k b s = (stStateConflict, refuseSlot tenant k 0x92 s)) ∧
    (∀ key u, keyTooSoon s (keysOf s h) (rd b 8 8) = false → blobKey (slice b 0 64) (b.drop 64) s = (some key, u) →
      (installInto h tenant k b s).1 = stOk ∧
      (keysOf (installInto h tenant k b s).2 h).pending = some ⟨key, rd b 8 8, hoursNs (rd b 16 2)⟩ ∧
      (keysOf (installInto h tenant k b s).2 h).current = (keysOf u h).current)) ∧
  (∀ (h : KeyHolder) (p : LinkKey) (s : State), (keysOf s h).pending = some p → awake s = true → p.activate ≤ now s →
    ∃ t, exec (.keyActivate h) s = .next t ∧ (keysOf t h).current = some p ∧ (keysOf t h).pending = none ∧
      (keysOf t h).previous = (keysOf s h).current.map fun c => (c, p.activate + 1020000)) ∧
  (∀ (h : KeyHolder) (s : State), (keysOf s h).pending = none ∨ awake s = false ∨ (∀ p, (keysOf s h).pending = some p → now s < p.activate) →
    exec (.keyActivate h) s = .next s) ∧
  (∀ (h : KeyHolder) (c : LinkKey) (e : Nat) (s : State), (keysOf s h).previous = some (c, e) →
    (awake s = false ∨ now s < e → exec (.keyPreviousDrop h) s = .next s) ∧
    (awake s = true → e ≤ now s → exec (.keyPreviousDrop h) s = .next (setKeys h { keysOf s h with previous := none } s))) ∧
  (∀ (k : Fin 1024) (c : LinkKey) (s : State), (keyOf s k).keys.current = some c →
    (awake s = true → c.lifetime ≠ 0 → c.activate * 6 + c.lifetime * 5 ≤ now s * 6 →
      exec (.keyAge k) s = .next (setKey k { keyOf s k with keyAge := true } s)) ∧
    (awake s = false ∨ c.lifetime = 0 ∨ now s * 6 < c.activate * 6 + c.lifetime * 5 → exec (.keyAge k) s = .next s)) ∧
  (∀ (c : Latched) (s : State), fwCmd s 0x11 = some c → fwGate s 0x11 c.req = none → let t := rd c.req 0 2
    (slotOfTenant s t = none → exec .tenantRemove s = .next (answerFw stTenantRevoked [] s)) ∧
    (∀ k x, slotOfTenant s t = some (k, x) → 16 ≤ s.cfg.outstanding.length → exec .tenantRemove s = .next (answerFw stRetry [] s)) ∧
    (∀ k x, slotOfTenant s t = some (k, x) → s.cfg.outstanding.length < 16 → ∃ u, exec .tenantRemove s = .next u ∧ u.cfg.latched = none ∧
      u.cfg.busy = false ∧ u.cfg.deferred = true ∧ u.cfg.outstanding = s.cfg.outstanding ++ [⟨c.opcode, c.tag, k⟩] ∧
      (x.st = .active → x.retireAt = none → (keyOf u k).retireAt = some (now s + 5000)))) ∧
  (∀ (k : Fin 1024) (t : Nat) (s : State), (keyOf s k).retireAt = some t → (keyOf s k).st = .active → awake s = true →
    (now s < t → exec (.tenantRetire k) s = .next s) ∧
    (t ≤ now s → let u := retireActs (keyOf s k).tenant (setKey k { keyOf s k with st := .retiring } s)
      exec (.tenantRetire k) s = .next u ∧ keyOf u k = { keyOf s k with st := .retiring })) ∧
  (∀ (tenant : Nat) (s : State), s.slu = {} → let u : State :=
      { s with prog := tmap s.prog fun _ (p : Prog) => if p.st = .installed ∧ p.tenant = tenant then { p with st := .draining } else p }
    retireActs tenant s = ((s.dir.filter fun e => e.2.tenant == tenant && e.2.st != .releasing).map (·.1)).foldl (fun s k => releaseSeq k s) u) ∧
  (∀ (k : Fin 1024) (s : State), (keyOf s k).st = .retiring → awake s = true → drainCount s k = 0 → objectsFree s (keyOf s k).tenant = true →
    ∃ t, exec (.tenantZeroise k) s = .next t ∧ (keyOf t k).st = .zeroising ∧ (keyOf t k).memKey1 = 0 ∧ (keyOf t k).memKey2 = 0 ∧ (keyOf t k).keys = {}) ∧
  (∀ (k : Fin 1024) (s : State), (keyOf s k).st = .zeroising → exec (.tenantZeroise k) s =
    .next (endRemoves k s.cfg.outstanding (setKey k { memGen := (keyOf s k).memGen } s))) ∧
  (∀ (k : Fin 1024) (s : State), (keyOf s k).st = .empty ∨ (keyOf s k).st = .active ∨
    ((keyOf s k).st = .retiring ∧ (awake s = false ∨ drainCount s k ≠ 0 ∨ objectsFree s (keyOf s k).tenant = false)) →
    exec (.tenantZeroise k) s = .next s) ∧
  (∀ (r : Fin 16) (ok : Bool) (s : State), awake s = false ∨ rgnFenced s r = true → exec (.sealedScrub r ok) s = .next s) ∧
  (∀ (r : Fin 16) (ok : Bool) (a : Nat) (x : Store) (s : State), awake s = true → rgnFenced s r = false → scrubFrame s r = some (a, x) →
    ∃ t, exec (.sealedScrub r ok) s = .next t ∧ t.sto.fast = tdel s.sto.fast a ∧ t.mem.deep = s.mem.deep ∧
      (twf 0 s.mem.fast = true → ∀ b, tget 0 t.mem.fast b = if a ≤ b ∧ b < a + x.size then 0 else tget 0 s.mem.fast b)) ∧
  (∀ (r : Fin 16) (a : Nat) (x : Store) (s : State), awake s = true → rgnFenced s r = false → scrubFrame s r = none → scrubUnit s r = some (a, x) →
    exec (.sealedScrub r false) s = .next (fencePort (a / 2 ^ 41) { s with sto := { s.sto with deep := tput s.sto.deep a { x with use := .fenced } } }) ∧
    ∃ t, exec (.sealedScrub r true) s = .next t ∧ t.sto.deep = tdel s.sto.deep a ∧ t.mem.fast = s.mem.fast)

/-- Attestation, fuses and NVM (17 R380-R384; 18 Table 18.1; 20 R444). ATTEST answers a tenant without an ACTIVE slot ST_TENANT_REVOKED, an empty
bucket ST_OVER_RATE and a missing tree ST_RETRY (ST_INTERNAL after the last of the 2^30 keys), and else a report signed with the next key, which no
later report uses. A base list is read for 10 s. SVN_COMMIT raises the fuses to the running versions. NVM_WRITE erases each sector whose first byte it
writes, and refuses first the signature area, then the slot in use (18 R398), then malformed fields. -/
def Obligations.AttestationSignsOnce : Prop :=
  (∀ (c : Instr) (op : Nat) (s : State),
    (c, op) ∈ [(Instr.nvmRead, 1), (.nvmWrite, 2), (.svnCommit, 4), (.attest true, 0x13), (.attest false, 0x13), (.attestBases, 0x14)] →
    (fwCmd s op = none → exec c s = .next s) ∧
    (∀ l st, fwCmd s op = some l → fwGate s op l.req = some st → exec c s = .next (answerFw st [] s))) ∧
  (∀ (rb : Bool) (c : Latched) (s : State), fwCmd s 0x13 = some c → fwGate s 0x13 c.req = none → let t := rd c.req 0 2
    (slotOfTenant s t = none → exec (.attest rb) s = .next (answerFw stTenantRevoked [] s)) ∧
    (∀ k x, slotOfTenant s t = some (k, x) →
      (x.st ≠ .active → exec (.attest rb) s = .next (answerFw stTenantRevoked [] s)) ∧
      (x.st = .active → s.sec.certMismatch = true → exec (.attest rb) s = .next (answerFw stAccess [] s)) ∧
      (x.st = .active → s.sec.certMismatch = false → attestTokens s < 1000000000 → exec (.attest rb) s = .next (answerFw stOverRate [] s)) ∧
      (x.st = .active → s.sec.certMismatch = false → 1000000000 ≤ attestTokens s → s.sec.sigNext < 2 ^ 30 →
        s.sec.trees.contains (s.sec.sigNext / 32768) = false → exec (.attest rb) s = .next (answerFw stRetry [] s)) ∧
      (x.st = .active → s.sec.certMismatch = false → 1000000000 ≤ attestTokens s →
        2 ^ 30 ≤ s.sec.sigNext ∨ s.sec.trees.contains (s.sec.sigNext / 32768) = true →
        (∀ st u, reserveKey rb s = (some st, u) → exec (.attest rb) s = .next (answerFw st [] u)) ∧
        (∀ u, reserveKey rb s = (none, u) → ∃ v report, attestSign k (slice c.req 8 32) u = (report, v) ∧
          exec (.attest rb) s = .next (answerFw stOk report v) ∧ v.sec.sigNext = u.sec.sigNext + 1)))) ∧
  (∀ (rb : Bool) (s : State),
    (s.sec.sigNext ≠ s.sec.sigLimit → reserveKey rb s = (none, s)) ∧
    (s.sec.sigNext = s.sec.sigLimit → 2 ^ 30 < s.sec.sigLimit + 1024 → reserveKey rb s = (some stInternal, raise leafSigExhausted [] s)) ∧
    (s.sec.sigNext = s.sec.sigLimit → s.sec.sigLimit + 1024 ≤ 2 ^ 30 →
      (reserveKey true s).1 = none ∧ (reserveKey true s).2.sec.sigLimit = s.sec.sigLimit + 1024 ∧ (reserveKey true s).2.sec.sigSeq = s.sec.sigSeq + 1 ∧
      (reserveKey false s).1 = some stRetry ∧ (reserveKey false s).2.sec = s.sec)) ∧
  (∀ (c : Latched) (s : State), fwCmd s 0x14 = some c → fwGate s 0x14 c.req = none → let cur := rd c.req 4 4
    let found := tfind s.sec.lists fun _ l => l.sig == rd c.req 0 4 && listKept s l
    (found = none → exec .attestBases s = .next (answerFw stStateConflict [] s)) ∧
    (∀ t l k x, found = some (t, l) → slotOfTenant s t = some (k, x) → x.st = .active → let part := (l.entries.drop cur).take 170
      exec .attestBases s = .next (answerFw stOk (leBytes 4 (if cur + part.length < l.entries.length then cur + part.length else 2 ^ 32 - 1) ++
        leBytes 4 part.length ++ List.replicate 8 0 ++ part.flatten) s))) ∧
  (∀ (t : BitVec 12) (l : BaseList) (s : State), tlook s.sec.lists t.toNat = some l →
    (now s < l.at_ + 10000000000 → exec (.baseListDiscard t) s = .next s) ∧
    (l.at_ + 10000000000 ≤ now s →
      exec (.baseListDiscard t) s = .next { s with sec := { s.sec with lists := tdel s.sec.lists t.toNat } })) ∧
  (∀ (k : Fin 32768) (s : State), awake s = true → 4 ≤ s.cfg.phase → s.cfg.phase ≠ 8 → s.cfg.phase ≠ 9 → s.sec.trees.contains k.val = false →
    k.val = s.sec.sigNext / 32768 ∨ (k.val = s.sec.sigNext / 32768 + 1 ∧ 16384 ≤ s.sec.sigNext % 32768) →
    exec (.hssTreeBuild k) s = .next { s with sec := { s.sec with trees := insertBy id k.val s.sec.trees } }) ∧
  (∀ (k : Fin 32768) (s : State), ∃ t, exec (.hssTreeBuild k) s = .next t ∧
    (awake s = true → 4 ≤ s.cfg.phase → s.cfg.phase ≠ 8 → s.cfg.phase ≠ 9 → k.val = s.sec.sigNext / 32768 → k.val ∈ t.sec.trees) ∧
    (awake s = false ∨ (k.val ≠ s.sec.sigNext / 32768 ∧ k.val ≠ s.sec.sigNext / 32768 + 1) → t = s)) ∧
  (∀ (c : Latched) (s : State), fwCmd s 4 = some c → fwGate s 4 c.req = none → let f := max s.fuse.fwSvn (min 64 s.cfg.runFwSvn)
    let g := max s.fuse.cfgSvn (min 64 s.cfg.runCfgSvn)
    exec .svnCommit s = .next (answerFw stOk (leBytes 4 f ++ leBytes 4 g) { s with fuse := { s.fuse with fwSvn := f, cfgSvn := g } })) ∧
  (∀ (c : Latched) (s : State), fwCmd s 1 = some c → fwGate s 1 c.req = none → let o := rd c.req 0 4
    let n := rd c.req 4 4
    exec .nvmRead s = .next (if n = 0 ∨ 65536 < n ∨ 2 ^ 27 < o + n then answerFw stMalformed [] s else answerFw stOk (memRead s.mem.nvm o n) s)) ∧
  (∀ (c : Latched) (s : State), fwCmd s 2 = some c → fwGate s 2 c.req = none → let o := rd c.req 0 4
    let n := rd c.req 4 4
    let sigs := 0 < n ∧ o < 0x4410000 ∧ 0x4000000 < o + n
    let booted := 0 < n ∧ s.cfg.phase ≠ 8 ∧ o < (s.cfg.slot + 1) * 0x2000000 ∧ s.cfg.slot * 0x2000000 < o + n
    let malformed := o % 256 ≠ 0 ∨ n % 256 ≠ 0 ∨ n < 256 ∨ 32768 < n ∨ o / 0x2000000 ≠ (o + n - 1) / 0x2000000 ∨ 1 < o / 0x2000000
    (sigs → exec .nvmWrite s = .next (answerFw stAccess [] s)) ∧
    (¬ sigs → booted → exec .nvmWrite s = .next (answerFw stStateConflict [] s)) ∧
    (¬ sigs → ¬ booted → malformed → exec .nvmWrite s = .next (answerFw stMalformed [] s)) ∧
    (¬ sigs → ¬ booted → ¬ malformed → ∃ t,
      exec .nvmWrite s = .next (answerFw stOk [] (nvmProgram o (c.req.drop 64) t)) ∧ t = (sectorsFrom o n).foldl (fun s a => nvmErase a s) s))

/-! ## Datum -/

/-- The messages of agreement (15 R335-R339, Table 15.5). A PREPARE below the promised ballot is refused; another is promised and answered with the
accepted change. An ACCEPT likewise, where its change is valid (15 R333), and its change is kept. Every answer carries the promised ballot. A COMMIT
already applied is answered with REPEAT, one of an old epoch ST_EPOCH_STALE, one of a later epoch ST_RETRY, and another changes the map. A marker is
taken from the composition's clock alone, and its step is kept. -/
def Obligations.VotersKeepTheirPromise : Prop :=
  (∀ (c : Instr) (op : Nat) (f : RxFrame) (s u : State), (c, op) ∈ [(Instr.datumPrepare f, 0x25), (.datumAccept f, 0x26), (.datumCommit f, 0x27),
      (.datumSubmit (.message f), 0x28), (.stepMarker f, 0x21), (.mapRead f, 0x22), (.mapNotice f, 0x2C), (.probe f, 0x20), (.withdraw f, 0x2D),
      (.loadOpen f, 0x29), (.loadDone f, 0x2B), (.loadData f, 0x2A)] →
    takeControl f [op] s = (none, u) → exec c s = .next u) ∧
  (∀ (f : RxFrame) (a : Admitted) (s u : State), takeControl f [0x25] s = (some a, u) → let b := a.payload
    (∀ st v, agreeMeets f b true u = (some st, v) → exec (.datumPrepare f) s = .next (answerDatum f a.die (gComp b) st false 0 [] v)) ∧
    (∀ v, agreeMeets f b true u = (none, v) → let x := compOf v (gComp b)
      (gBallot b < x.promise → exec (.datumPrepare f) s = .next (answerDatum f a.die (gComp b) stStateConflict false 0 [] v)) ∧
      (x.promise ≤ gBallot b → exec (.datumPrepare f) s = .next (answerDatum f a.die (gComp b) stOk false (x.acc.getD (0, [])).1
        (x.acc.getD (0, [])).2 (setComp (gComp b) { x with promise := gBallot b } v))))) ∧
  (∀ (f : RxFrame) (a : Admitted) (s u : State), takeControl f [0x26] s = (some a, u) → let b := a.payload
    (∀ st v, agreeMeets f b true u = (some st, v) → exec (.datumAccept f) s = .next (answerDatum f a.die (gComp b) st false 0 [] v)) ∧
    (∀ v, agreeMeets f b true u = (none, v) → changeResult (compOf v (gComp b)).map (gChange b) = none →
      exec (.datumAccept f) s = .next (answerDatum f a.die (gComp b) stMalformed false 0 [] v)) ∧
    (∀ v, agreeMeets f b true u = (none, v) → changeResult (compOf v (gComp b)).map (gChange b) ≠ none → let x := compOf v (gComp b)
      (gBallot b < x.promise → exec (.datumAccept f) s = .next (answerDatum f a.die (gComp b) stStateConflict false 0 [] v)) ∧
      (x.promise ≤ gBallot b → exec (.datumAccept f) s = .next (answerDatum f a.die (gComp b) stOk false 0 []
        (setComp (gComp b) { x with promise := gBallot b, acc := some (gBallot b, gChange b) } v))))) ∧
  (∀ (x : Comp) (base : Nat) (vote : Bool),
    (behind x = true → agreeGate x base vote = (some stRetry, false)) ∧
    (behind x = false → x.map = none → agreeGate x base vote = (some stNoPage, false)) ∧
    (∀ m, behind x = false → x.map = some m →
      (m.epoch < base → agreeGate x base vote = (some stRetry, true)) ∧
      (base ≤ m.epoch → vote = true → x.voting = false → agreeGate x base vote = (some stRetry, false)) ∧
      (vote = false ∨ x.voting = true →
        (base < m.epoch → agreeGate x base vote = (some stEpochStale, false)) ∧
        (base = m.epoch → agreeGate x base vote = (none, false))))) ∧
  (∀ (f : RxFrame) (a : Admitted) (m : DMap) (s u : State), takeControl f [0x27] s = (some a, u) → let b := a.payload
    let c := gComp b
    (agreeBad b = true → exec (.datumCommit f) s = .next (answerDatum f a.die c stMalformed false 0 [] u)) ∧
    (agreeBad b = false → behind (compOf u c) = true → exec (.datumCommit f) s = .next (answerDatum f a.die c stRetry false 0 [] u)) ∧
    (agreeBad b = false → behind (compOf u c) = false → (compOf u c).map = none →
      exec (.datumCommit f) s = .next (answerDatum f a.die c (commitAbsent f c (gBase b) (gChange b) u).1 false 0 []
        (commitAbsent f c (gBase b) (gChange b) u).2) ∧
      (gBase b = 0 → isCreate (gChange b) = true → namesMember u (gChange b) = true → changeResult none (gChange b) = none →
        commitAbsent f c (gBase b) (gChange b) u = (stMalformed, u))) ∧
    (agreeBad b = false → behind (compOf u c) = false → (compOf u c).map = some m →
      (fromNodeMember (compOf u c) f.hdr.src.toNat = false → exec (.datumCommit f) s = .next (answerDatum f a.die c stAccess false 0 [] u)) ∧
      (fromNodeMember (compOf u c) f.hdr.src.toNat = true →
        (gBase b + 1 = m.epoch → (compOf u c).lastChange = gChange b → gChange b ≠ [] →
          exec (.datumCommit f) s = .next (answerDatum f a.die c stOk true 0 [] u)) ∧
        (gBase b < m.epoch → gBase b + 1 ≠ m.epoch ∨ (compOf u c).lastChange ≠ gChange b →
          exec (.datumCommit f) s = .next (answerDatum f a.die c stEpochStale false 0 [] u)) ∧
        (m.epoch < gBase b → exec (.datumCommit f) s = .next (answerDatum f a.die c stRetry false 0 [] (fetchFrom f c u))) ∧
        (gBase b = m.epoch → changeResult (some m) (gChange b) = none →
          exec (.datumCommit f) s = .next (answerDatum f a.die c stMalformed false 0 [] u)) ∧
        (∀ ok v, gBase b = m.epoch → changeResult (some m) (gChange b) ≠ none → applyChange c (gChange b) u = (ok, v) →
          exec (.datumCommit f) s = .next (answerDatum f a.die c (if ok then stOk else stStateConflict) false 0 [] (overtaken c (gChange b) v)))))) ∧
  (∀ (f : RxFrame) (a : Admitted) (m : DMap) (s u : State), takeControl f [0x21] s = (some a, u) → let b := a.payload
    let c := rd b 0 4
    let e := f.hdr.epoch.toNat
    (compOf u c).map = some m → behind (compOf u c) = false →
    (m.clock ≠ f.hdr.src.toNat → exec (.stepMarker f) s = .next (answerDatum f a.die c stAccess false 0 [] u)) ∧
    (m.clock = f.hdr.src.toNat → rd b 4 4 ≠ 0 ∨ b.length ≠ 16 → exec (.stepMarker f) s = .next (answerDatum f a.die c stMalformed false 0 [] u)) ∧
    (m.clock = f.hdr.src.toNat → rd b 4 4 = 0 → b.length = 16 →
      (m.epoch < e → exec (.stepMarker f) s = .next (answerDatum f a.die c stRetry false 0 [] (fetchFrom f c u))) ∧
      (e = m.epoch → exec (.stepMarker f) s = .next (answerDatum f a.die c stOk false 0 [] (markerAccepted c (rd b 8 8) true u))) ∧
      (e + 1 = m.epoch → (compOf u c).window = true →
        exec (.stepMarker f) s = .next (answerDatum f a.die c stOk false 0 [] (markerAccepted c (rd b 8 8) false u))) ∧
      (e < m.epoch → e + 1 ≠ m.epoch ∨ (compOf u c).window = false →
        exec (.stepMarker f) s = .next (answerDatum f a.die c stEpochStale false 0 [] u)))) ∧
  (∀ (c : Nat) (ch : Bytes) (m : DMap) (s : State), changeResult (compOf s c).map ch = some (some m) → let x := compOf s c
    let y : Comp := { x with
      map := some m, window := true, prev := x.map, fetch := none, promise := 0, acc := none, lastChange := ch, voting := x.voting || changeNamesMe ch m s }
    ((memberOfNode m (myNode s)).isSome = true → canStore c m s = true →
      applyChange c ch s = (true, sweepMoved (installMap c x.map (some m) (setComp c y (if x.window then closeWindow c s else s))))) ∧
    ((memberOfNode m (myNode s)).isSome = true → canStore c m s = false →
      applyChange c ch s = (false, leaveComp c (raise leafDatumStoreFull [] s))) ∧
    (memberOfNode m (myNode s) = none → applyChange c ch s = (true, leaveComp c s))) ∧
  (∀ (c step : Nat) (closes : Bool) (m : DMap) (s : State), let u := setComp c { compOf s c with lastStep := step } s
    let v := if closes then closeWindow c u else u
    (compOf v c).map = some m → markerAccepted c step closes s = drainMarker c m (admitMarker c m (reloadMarker c (sweepMoved v)))) ∧
  (∀ (f : RxFrame) (a : Admitted) (s u : State), takeControl f [0x28] s = (some a, u) → exec (.datumSubmit (.message f)) s = .next (submitMsg f a u)) ∧
  (∀ (f : RxFrame) (a : Admitted) (s : State), let b := a.payload
    let c := gComp b
    let x := compOf s c
    let no := fun (st : Nat) (u : State) => answerDatum f a.die c st false 0 [] u
    (agreeBad b = true ∨ gBallot b ≠ 0 → submitMsg f a s = no stMalformed s) ∧
    (agreeBad b = false → gBallot b = 0 →
      (behind x = true → submitMsg f a s = no stRetry s) ∧
      (behind x = false → x.map = none → submitMsg f a s = no stNoPage s) ∧
      (∀ m, behind x = false → x.map = some m →
        (maySubmit x f.hdr.src.toNat = false → submitMsg f a s = no stAccess s) ∧
        (maySubmit x f.hdr.src.toNat = true → gBase b = 0xFFFFFFFF ∨ (gBase b = 0 ∧ isCreate (gChange b) = false) → submitMsg f a s = no stMalformed s) ∧
        (maySubmit x f.hdr.src.toNat = true → gBase b ≠ 0xFFFFFFFF → gBase b ≠ 0 ∨ isCreate (gChange b) = true →
          (gBase b < m.epoch → submitMsg f a s = no stEpochStale s) ∧
          (m.epoch < gBase b → submitMsg f a s = no stRetry (fetchFrom f c s)) ∧
          (gBase b = m.epoch → submitMsg f a s =
            addProposal c (gChange b) (.message f.hdr.src.toNat f.hdr.msgId.toNat a.die f.srcAddr) s))))) ∧
  (∀ (f : RxFrame) (die c st acc : Nat) (rep : Bool) (more : Bytes) (s : State), let x := compOf s c
    let body := respBody st rep x.window (epochOf x) x.promise acc ++ more
    (st = stOk → answerDatum f die c st rep acc more s = respond f die (epochOf x) body s) ∧
    (∃ v, v.datum = s.datum ∧ answerDatum f die c st rep acc more s = respond f die (epochOf x) body v))

/-- Proposals (15 R332, R339, R353). A waiting proposal starts round 1 while the block is awake; a change invalid against map E ends ST_MALFORMED; a
round without a quorum for 2 ms backs off 100 to 400 µs, after which the next of eight rounds starts or the proposal ends ST_RETRY and is counted.
Promises and accepts of the round's own ballot alone are taken. A pair state that the map already shows, or a later one,
ends its proposal (16 Table 16.4). A submitted change waits its turn behind those before it; a change of a pair's own that must be next goes before those that
wait (16 R353). -/
def Obligations.ProposalsGatherAQuorum : Prop :=
  (∀ (c : BitVec 32) (s : State), propsOf s c.toNat = [] →
    exec (.datumPropose c) s = .next s ∧ exec (.datumRoundTimeout c) s = .next s ∧ exec (.datumBackoffExpire c) s = .next s) ∧
  (∀ (c : BitVec 32) (p : Proposal) (rest : List Proposal) (s : State), propsOf s c.toNat = p :: rest →
    (awake s = true → p.round = 0 → exec (.datumPropose c) s = .next (startRound c.toNat 1 s)) ∧
    (awake s = false ∨ p.round ≠ 0 → exec (.datumPropose c) s = .next s)) ∧
  (∀ (c round : Nat) (p : Proposal) (rest : List Proposal) (s : State), propsOf s c = p :: rest → behind (compOf s c) = false →
    pairShown (compOf s c) p = false → (changeResult (compOf s c).map p.change).isSome = true → let b := ballotOf s round
    let p := { p with round := round, phase := .prepare, since := now s, promises := [], accepts := [], best := (0, []) }
    let w := setHead c p s
    propsOf w c = p :: rest ∧
    ((compOf s c).map = none → startRound c round s = checkPromises c w) ∧
    (∀ m, (compOf s c).map = some m →
      let u := (voters m).foldl (fun s n => sendAgree 0x25 c m.epoch b n (nodeEndpoint m n) none [] (.prepare c b n) s) w
      ((voters m).contains (myNode w) = false ∨ (agreeGate (compOf s c) m.epoch true).1.isSome = true → startRound c round s = u) ∧
      ((voters m).contains (myNode w) = true → (agreeGate (compOf s c) m.epoch true).1 = none →
        (∀ q v, voterPrepare c b u = ((stOk, q), v) → startRound c round s = checkPromises c (setHead c
          { p with promises := [myNode w], best := if 0 < q.2.1 then q.2 else p.best } v)) ∧
        (∀ st q v, st ≠ stOk → voterPrepare c b u = ((st, q), v) → startRound c round s = checkPromises c (setHead c p v))))) ∧
  (∀ (c : Nat) (p : Proposal) (rest : List Proposal) (s : State), propsOf s c = p :: rest →
    (p.phase ≠ .prepare → checkPromises c s = s) ∧
    (∀ m, (compOf s c).map = some m → votes m p.promises < quorum m → checkPromises c s = s) ∧
    ((compOf s c).map = none → p.phase = .prepare → checkPromises c s =
      checkAccepts c (setHead c { p with phase := .accept, since := now s, carried := if p.best.1 = 0 then p.change else p.best.2, accepts := [] } s)) ∧
    (∀ m, (compOf s c).map = some m → p.phase = .prepare → quorum m ≤ votes m p.promises →
      let carried := if p.best.1 = 0 then p.change else p.best.2
      let b := ballotOf s p.round
      let q := { p with phase := .accept, since := now s, carried := carried, accepts := [] }
      let w := setHead c q s
      let u := (voters m).foldl (fun s n => sendAgree 0x26 c m.epoch b n (nodeEndpoint m n) none carried (.accept c b n) s) w
      ((voters m).contains (myNode w) = false ∨ (agreeGate (compOf u c) m.epoch true).1.isSome = true → checkPromises c s = u) ∧
      ((voters m).contains (myNode w) = true → (agreeGate (compOf u c) m.epoch true).1 = none → ∀ r v, voterAccept c b carried u = (r, v) →
        checkPromises c s = checkAccepts c (if r.1 = stOk then setHead c { q with accepts := [myNode w] } v else v)))) ∧
  (∀ (op c base b n ep : Nat) (addr : Option (BitVec 128)) (ch : Bytes) (p : Purpose) (s : State),
    (n = myNode s → sendAgree op c base b n (some ep) addr ch p s = s) ∧ sendAgree op c base b n none addr ch p s = s ∧
    (n ≠ myNode s → ∃ m : OutMsg, m.op = op ∧ m.dst = ep ∧ m.addr = addr ∧ m.epoch = base ∧ m.data = agreeBody c base b ch.length ++ ch ∧
      m.purpose = p ∧ sendAgree op c base b n (some ep) addr ch p s = (sendMsg ctlDie m s).2)) ∧
  (∀ (c round : Nat) (p : Proposal) (rest : List Proposal) (s : State), propsOf s c = p :: rest →
    (behind (compOf s c) = true → startRound c round s = s) ∧
    (behind (compOf s c) = false → pairShown (compOf s c) p = true → startRound c round s = finishProposal c stOk s) ∧
    (behind (compOf s c) = false → pairShown (compOf s c) p = false → changeResult (compOf s c).map p.change = none →
      startRound c round s = finishProposal c stMalformed s)) ∧
  (∀ (c : BitVec 32) (p : Proposal) (rest : List Proposal) (s : State), propsOf s c.toNat = p :: rest → p.round ≠ 0 →
    p.phase = .prepare ∨ p.phase = .accept → p.since + 2000000 ≤ now s →
    ∃ t w, exec (.datumRoundTimeout c) s = .next t ∧ now s + 100000 ≤ w ∧ w ≤ now s + 400000 ∧ propsOf t c.toNat = { p with phase := .backoff w } :: rest) ∧
  (∀ (c : BitVec 32) (p : Proposal) (rest : List Proposal) (s : State), propsOf s c.toNat = p :: rest →
    p.round = 0 ∨ now s < p.since + 2000000 → exec (.datumRoundTimeout c) s = .next s) ∧
  (∀ (c : BitVec 32) (p : Proposal) (rest : List Proposal) (w : Nat) (s : State), propsOf s c.toNat = p :: rest → p.phase = .backoff w → p.round ≠ 0 →
    (now s < w → exec (.datumBackoffExpire c) s = .next s) ∧
    (w ≤ now s → p.round < 8 → exec (.datumBackoffExpire c) s = .next (startRound c.toNat (p.round + 1) s)) ∧
    (w ≤ now s → 8 ≤ p.round → exec (.datumBackoffExpire c) s = .next (finishProposal c.toNat stRetry (count (chipCntOff 0) s)))) ∧
  (∀ (c b n : Nat) (body : Bytes) (p : Proposal) (rest : List Proposal) (s : State), propsOf s c = p :: rest →
    (b ≠ ballotOf s p.round ∨ rd body 0 1 ≠ stOk ∨ p.round = 0 → onPromise c b n body s = s ∧ onAccept c b n body s = s) ∧
    (p.phase ≠ .prepare → onPromise c b n body s = s) ∧ (p.phase ≠ .accept → onAccept c b n body s = s) ∧
    (p.phase = .accept → p.round ≠ 0 → b = ballotOf s p.round → rd body 0 1 = stOk → ∃ l, onAccept c b n body s =
      checkAccepts c (setHead c { p with accepts := l } s) ∧ n ∈ l ∧ (∀ x, x ≠ n → (x ∈ l ↔ x ∈ p.accepts)))) ∧
  (∀ (c b n : Nat) (body : Bytes) (p : Proposal) (rest : List Proposal) (s : State), propsOf s c = p :: rest →
    p.phase = .prepare → p.round ≠ 0 → b = ballotOf s p.round → rd body 0 1 = stOk → ∃ l q, onPromise c b n body s =
      checkPromises c (setHead c { p with promises := l, best := q } s) ∧ n ∈ l ∧ (∀ x, x ≠ n → (x ∈ l ↔ x ∈ p.promises)) ∧
      q = if p.best.1 < rd body 12 4 then (rd body 12 4, body.drop 16) else p.best) ∧
  (∀ (c : Nat) (p : Proposal) (s : State), let old := (compOf s c).map
    let new := (changeResult old p.carried).getD none
    let members := fun (m : Option DMap) => (m.map nodeMembers).getD []
    let targets := members old ++ (members new).filter fun e => !(members old).any fun o => o.1 == e.1
    let u := targets.foldl (fun s e => sendAgree 0x27 c ((old.map (·.epoch)).getD 0) (ballotOf s p.round) e.2.node (some e.1) e.2.addrs.head? p.carried
      (.commitTo c e.2.node) s) s
    let v := (applyChange c p.carried u).2
    (old = none → createFull c new s = true → commitChange c p s = finishProposal c stStateConflict (raise leafDatumStoreFull [] s)) ∧
    (old.isSome = true ∨ createFull c new s = false → ∃ w, (new = none → w = v) ∧ (∀ m, new = some m → w = mapNotices c p.carried m v) ∧
      (p.carried = p.change → commitChange c p s = finishProposal c stOk w) ∧
      (p.carried ≠ p.change → commitChange c p s = setHead c { p with round := 0 } w))) ∧
  (∀ (c : Nat) (p : Proposal) (m : DMap) (rest : List Proposal) (s : State), propsOf s c = p :: rest → (compOf s c).map = some m → p.phase = .accept →
    (votes m p.accepts < quorum m → checkAccepts c s = s) ∧ (quorum m ≤ votes m p.accepts → checkAccepts c s = commitChange c p s) ∧
    m.pairs.length < 2 * quorum m) ∧
  (∀ (f : RxFrame) (a : Admitted) (id : Nat) (m : OutMsg) (s u : State), takeAnswer f [0xA5, 0xA6, 0xA7] s = (some (a, id, m), u) → let b := a.payload
    (∀ c ballot n, m.purpose = .prepare c ballot n → exec (.datumResponse f) s = .next (onPromise c ballot n b (noteEpoch f c (rd b 4 4) u))) ∧
    (∀ c ballot n, m.purpose = .accept c ballot n → exec (.datumResponse f) s = .next (onAccept c ballot n b (noteEpoch f c (rd b 4 4) u))) ∧
    (∀ c n, m.purpose = .commitTo c n → exec (.datumResponse f) s =
      .next (noteEpoch f c (rd b 4 4) (if rd b 0 1 = stStateConflict then storeFull c n u else u)))) ∧
  (∀ (c : Nat) (ch : Bytes) (tag : Nat) (s : State), propsOf (addProposal c ch (.window tag) s) c =
    propsOf s c ++ [{ change := ch, who := .window tag, from_ := pairNow (compOf s c) ch, round := 0 }]) ∧
  (∀ (c : Nat) (ch : Bytes) (p : Proposal) (rest : List Proposal) (s : State), propsOf s c = p :: rest → p.who ≠ .node ∨ p.change ≠ ch →
    let l := propsOf (addNext c ch s) c
    (p.round = 0 → l.head? = some (waitingProposal c ch .node s)) ∧
    (p.round ≠ 0 → l.head? = some p ∧ (l.drop 1).head? = some (waitingProposal c ch .node s))) ∧
  (∀ (c : Latched) (s : State), fwCmd s 0x20 = some c → fwGate s 0x20 c.req = none →
    let gate := (submitGate (compOf s (gComp c.req)) c.req true).1
    (∀ st, gate = some st → exec (.datumSubmit .window) s = .next (answerFw st [] (refuseDatum (gComp c.req) 0x20 none s))) ∧
    (gate = none → 16 ≤ s.cfg.outstanding.length → exec (.datumSubmit .window) s = .next (answerFw stRetry [] s)) ∧
    (∀ u, gate = none → acceptDeferred c (gComp c.req) s = some u →
      exec (.datumSubmit .window) s = .next (addProposal (gComp c.req) (gChange c.req) (.window c.tag) u)))

/-- Maps, probes and loads (15 R340; 16 R347-R351, R356, R357, R361-R365). A member reads the map a page at a time; a notice of a later map, or of one not held,
makes the node fetch it. The third miss in succession makes a partner suspect, a response clears it. A load is opened for a node that may hold the sequence, 64
at a time, and its pages are read as any (04 R93, R105); a record refused ends the load; LOAD_DONE is answered when every relay is acknowledged; an answer of
ST_OK to it makes the loaded sequence ACTIVE. The status of a refused LOAD_DATA message, and the answer to a LOAD_DONE of a load that has ended, are the
model's (logs 37, 89). -/
def Obligations.MapsProbesAndLoads : Prop :=
  (∀ (f : RxFrame) (a : Admitted) (s u : State), takeControl f [0x22] s = (some a, u) → let c := rd a.payload 0 4
    let x := compOf u c
    let refusal := fun (st : Nat) => respond f a.die (epochOf x) (respBody st false x.window (epochOf x) 0 0) u
    (behind x = true → exec (.mapRead f) s = .next (refusal stRetry)) ∧
    (behind x = false → x.map = none → exec (.mapRead f) s = .next (refusal stNoPage)) ∧
    (∀ m, behind x = false → x.map = some m →
      (tlook m.members f.hdr.src.toNat = none → exec (.mapRead f) s = .next (refusal stAccess)) ∧
      (tlook m.members f.hdr.src.toNat ≠ none →
        exec (.mapRead f) s = .next (noteEpoch f c (rd a.payload 4 4)
          (respond f a.die m.epoch (mapPage x m (rd a.payload 4 4) (rd a.payload 8 4)) u))))) ∧
  (∀ (f : RxFrame) (a : Admitted) (s u : State), takeControl f [0x2C] s = (some a, u) → let c := rd a.payload 0 4
    ((compOf u c).map = none ∨ epochOf (compOf u c) < rd a.payload 4 4 → exec (.mapNotice f) s = .next (fetchFrom f c u)) ∧
    ((compOf u c).map.isSome = true → rd a.payload 4 4 ≤ epochOf (compOf u c) → exec (.mapNotice f) s = .next u)) ∧
  (∀ (f : RxFrame) (c : Nat) (s : State), let x := compOf s c
    let g : Fetch := { src := f.hdr.src.toNat, addr := f.srcAddr }
    (x.fetch.isSome = true → fetchFrom f c s = s) ∧
    (x.fetch = none → fetchFrom f c s = askMap c g (setComp c { x with fetch := some g } s))) ∧
  (∀ (c : Nat) (g : Fetch) (s : State), ∃ m : OutMsg, (∀ id u, sendMsg ctlDie m s = (.sent id, u) → askMap c g s = u) ∧
    (∀ st u, sendMsg ctlDie m s = (.refused st, u) → askMap c g s = fetchFails c u) ∧ m.op = 0x22 ∧ m.dst = g.src ∧ m.addr = some g.addr ∧
    m.data = leBytes 4 c ++ leBytes 4 g.epoch ++ leBytes 4 g.cursor ∧ m.purpose = .mapRead c) ∧
  (∀ (f : RxFrame) (a : Admitted) (id : Nat) (m : OutMsg) (s u : State), takeAnswer f [0xA2] s = (some (a, id, m), u) →
    ∀ c, m.purpose = .mapRead c → exec (.mapFetchResponse f) s = .next (onMapPage c a.payload u)) ∧
  (∀ (c : Nat) (b : Bytes) (s : State), ((compOf s c).fetch = none → onMapPage c b s = s) ∧
    ((compOf s c).fetch ≠ none → rd b 0 1 ≠ stOk → rd b 0 1 ≠ stEpochStale → onMapPage c b s = fetchFails c s) ∧
    (∀ g, (compOf s c).fetch = some g → let again := fun (g : Fetch) => askMap c g (setComp c { compOf s c with fetch := some g } s)
      (rd b 0 1 = stEpochStale → onMapPage c b s = again { g with cursor := 0, epoch := rd b 4 4, recs := [] }) ∧
      (rd b 0 1 = stOk → rd b 8 4 ≠ 0xFFFFFFFF →
        onMapPage c b s = again { g with cursor := rd b 8 4, epoch := rd b 4 4, recs := g.recs ++ b.drop 16 }) ∧
      (rd b 0 1 = stOk → rd b 8 4 = 0xFFFFFFFF →
        ((splitRecs 1048576 (g.recs ++ b.drop 16)).bind mapOfRecs = none → onMapPage c b s = fetchFails c s) ∧
        (∀ m last, (splitRecs 1048576 (g.recs ++ b.drop 16)).bind mapOfRecs = some (m, last) →
          onMapPage c b s = restartProps c (installFetched c m last s))))) ∧
  (∀ (c last : Nat) (m : DMap) (s : State), (memberOfNode m (myNode s)).isSome = true → canStore c m s = true → let x := compOf s c
    let named := (x.fetch.map (·.named)).getD false && m.pairs.any fun e => (serving e.2).contains (myNode s)
    let u := match x.prev.or x.map with | some p => noteGone p m s | none => s
    installFetched c m last s = sweepMoved (installMap c x.map (some m) (setComp c { x with
      map := some m, window := false, prev := none, fetch := none, promise := 0, acc := none, lastStep := last, lastChange := []
      voting := x.voting || named } u))) ∧
  (∀ (s : State), awake s = false ∨ s.jx.locked = false → exec .probeTimer s = .next s) ∧
  (∀ (s : State), awake s = true → s.jx.locked = true → exec .probeTimer s = .next (retryLoads
    (((probed s).filter fun n => (probeOf s n).seq == 0 || decide ((probeOf s n).sentAt + 100000 ≤ now s)).foldl (fun s n => sendProbe n (probeMissed n s)) s))) ∧
  (∀ (n ep : Nat) (s : State), endpointOfNode s n = some ep → let q := ((probeOf s n).seq + 1) % 2 ^ 32
    ∃ m : OutMsg, m.op = 0x20 ∧ m.dst = ep ∧ m.purpose = .probe n q ∧ m.data = leBytes 4 q ++ leBytes 2 (myNode s) ++ [0, 0] ∧
      sendProbe n s = (sendMsg ctlDie m (setProbe n { probeOf s n with seq := q, sentAt := now s, open_ := true, missed := false } s)).2) ∧
  (∀ (n : Nat) (s : State), (probeOf (suspectPartner n s) n).suspect = true) ∧
  (∀ (f : RxFrame) (a : Admitted) (s u : State), takeControl f [0x20] s = (some a, u) → exec (.probe f) s = .next (respond f a.die 0
    (leBytes 1 stOk ++ leBytes 1 (nodeState u) ++ [0, 0] ++ leBytes 4 (rd a.payload 0 4) ++ List.replicate 8 0) u)) ∧
  (∀ (n : BitVec 12) (s : State), (awake s = true → exec (.probeMiss n) s = .next (probeMissed n.toNat s)) ∧
    (awake s = false → exec (.probeMiss n) s = .next s)) ∧
  (∀ (n : Nat) (s : State), let p := probeOf s n
    (p.open_ = false ∨ p.missed = true ∨ now s < p.sentAt + 100000 → probeMissed n s = s) ∧
    (p.open_ = true → p.missed = false → p.sentAt + 100000 ≤ now s → ∃ u, (probeOf u n).misses = p.misses + 1 ∧ (probeOf u n).missed = true ∧
      probeMissed n s = if p.misses = 2 then suspectPartner n (count (chipCntOff 1) u) else u)) ∧
  (∀ (f : RxFrame) (a : Admitted) (s u : State), takeControl f [0x2D] s = (some a, u) → let n := bits (rd a.payload 0 2) 11 0
    ((partners u).contains n = true → endpointOfNode u n = some f.hdr.src.toNat → exec (.withdraw f) s = .next (suspectPartner n u)) ∧
    ((partners u).contains n = false ∨ endpointOfNode u n ≠ some f.hdr.src.toNat → exec (.withdraw f) s = .next u)) ∧
  (∀ (f : RxFrame) (a : Admitted) (st : Nat) (s u : State), takeControl f [0x29] s = (some a, u) → let b := a.payload
    let src := f.hdr.src.toNat
    let v := (lookSeq (bits (rd b 16 2) 11 0) (rd b 8 8) (noteEpoch f (rd b 0 4) f.hdr.epoch.toNat u)).2
    let answer := fun (st : Nat) (v : State) => respond f a.die 0 (leBytes 1 st ++ [0, 0, 0] ++ leBytes 4 (rd b 4 4) ++ List.replicate 8 0) v
    let gate := loadAnswer v (rd b 0 4) f.hdr.epoch.toNat (rd b 8 8) (bits (rd b 16 2) 11 0) src
    (gate = (st, none) → exec (.loadOpen f) s = .next (answer st v)) ∧
    (∀ slot got x, gate = (st, some slot) → let node := (nodeOfEndpoint v src).getD 0
      readFree (.load src (rd b 4 4)) (copyChunks v slot node) v = (got, x) →
      (got = .waits → exec (.loadOpen f) s = .next (readFree (.load src (rd b 4 4)) (copyChunks v slot node) s).2) ∧
      (got = .failed → exec (.loadOpen f) s = .next (answer stInternal x)) ∧
      (∀ l, got = .bad l → exec (.loadOpen f) s = .next (answer stInternal (lineLost l x))) ∧
      (got = .clean → let w := answer st x
        exec (.loadOpen f) s = .next (serveLoad (loadKey src (rd b 4 4)) slot node { w with datum := { w.datum with
          loadOut := tput w.datum.loadOut (loadKey src (rd b 4 4)) { comp := rd b 0 4, dst := src, slot := slot } } })))) ∧
  (∀ (key slot node : Nat) (s : State),
    (∀ e ∈ copyPages s slot node, getPage s slot e.1 e.2 ≠ .corrupt) → serveLoad key slot node s = copyAll key node s) ∧
  (∀ (key node : Nat) (l : LoadOut) (s : State), tlook s.datum.loadOut key = some l → let q := seqOf s l.slot
    let a := (tensOf q).foldl (fun s ti => sendLoadRec key 2 (bodyTensor q ti) s) (sendLoadRec key 1 (bodySeq q) s)
    let b := sendLoadRec key 4 (bodyState q) a
    let pages := copyPages b l.slot node
    copyAll key node s = sendLoadRec key 5 (leBytes 8 pages.length)
      (pages.foldl (fun s e => copyPage key l.slot e.1 e.2 (q.committed + q.tail) s) b)) ∧
  (∀ (key slot ti idx top : Nat) (s : State), let body := bodyPage s slot ti idx 0 top
    let r := chargeLoad (dirRegion slot) (body.length - 64) s
    copyPage key slot ti idx top s = sendLoadRec key 3 body r.2 r.1 ∧ r.2.datum = s.datum ∧ (now s ≤ never → now s ≤ r.1)) ∧
  (∀ (key src id : Nat) (addr : BitVec 128) (l : LoadOut) (s : State), tlook s.datum.loadOut key = some l → l.finish = some (src, id, addr) →
    let body := leBytes 16 stOk
    (relaysOut s key = true → finishLoadOut key s = s) ∧
    (relaysOut s key = false → finishLoadOut key s =
      sendOnce (id % 4) 0xAB src 0 id 0 (some addr) none body (saveResp src id 0xAB body (endLoadOut key s)))) ∧
  (∀ (src : Nat) (r : Bytes) (s : State), let id := rd r 4 4
    (tlook s.datum.loadIn id = none → takeRecords src [r] s = (stInternal, [], s)) ∧
    (∀ l, tlook s.datum.loadIn id = some l →
      (l.st = .waitPrimary ∨ endpointOfNode s l.srcNode ≠ some src → takeRecords src [r] s = (stInternal, [], s)) ∧
      (l.st ≠ .waitPrimary → endpointOfNode s l.srcNode = some src →
        (zeroAt r 1 3 = false → takeRecords src [r] s = (stMalformed, [id], s)) ∧
        (∀ v, zeroAt r 1 3 = true → rd r 12 4 < l.next → applyHeld src id (l.held.length + 1) s = (stOk, v) → takeRecords src [r] s = (stOk, [], v)) ∧
        (∀ v, zeroAt r 1 3 = true → l.next ≤ rd r 12 4 → applyHeld src id (l.held.length + 1)
            { s with datum := { s.datum with loadIn := tput s.datum.loadIn id { l with
              held := tput l.held (rd r 12 4) r, heard := if l.held.isEmpty = true ∨ rd r 12 4 = l.next then now s else l.heard } } } = (stOk, v) →
          takeRecords src [r] s = (stOk, [], v))))) ∧
  (∀ (src id n : Nat) (l : LoadIn) (r b : Bytes) (s : State), tlook s.datum.loadIn id = some l →
    let at_ := fun (k : Nat) => { s with datum := { s.datum with
      loadIn := tput s.datum.loadIn id { l with held := tdel l.held l.next, next := k } } }
    (tlook l.held l.next = none → applyHeld src id (n + 1) s = (stOk, s)) ∧
    (tlook l.held l.next = some r → openBody src l.tenant (r.take 16) (r.drop 16) s = none →
      applyHeld src id (n + 1) s = (stInternal, count (chipCntOff 3) (at_ l.next))) ∧
    (∀ u, tlook l.held l.next = some r → openBody src l.tenant (r.take 16) (r.drop 16) s = some b →
      applyRecord id (rd r 0 1) b (at_ (l.next + 1)) = (stOk, u) → applyHeld src id (n + 1) s = applyHeld src id n u)) ∧
  (∀ (id st : Nat) (l : LoadIn) (s : State), tlook s.datum.loadIn id = some l →
    let put_ := fun (l : LoadIn) => { s with datum := { s.datum with loadIn := tput s.datum.loadIn id l } }
    (st = stOk → l.st = .opening → onLoadOpened id st s = put_ { l with st := .copying }) ∧
    (st = stOk → l.st ≠ .opening → onLoadOpened id st s = s) ∧
    (st = stNoPage → l.staged = false → onLoadOpened id st s = rejoinDone l.comp (put_ { l with st := .copied })) ∧
    (st ≠ stOk → l.staged = true → ∃ n, onLoadOpened id st s = put_ { l with st := .opening, srcNode := n, retryAt := some (now s) }) ∧
    (st ≠ stOk → st ≠ stNoPage → l.staged = false →
      onLoadOpened id st s = put_ { l with st := .opening, srcNode := l.srcNode, retryAt := some (now s) })) ∧
  (∀ (c e tag tenant src : Nat) (s : State), mapNamed (compOf s c) e = none →
    loadAnswer s c e tag tenant src = (if (compOf s c).map.isNone then stNoPage else stRetry, none)) ∧
  (∀ (c e tag tenant src slot : Nat) (m : DMap) (s : State), mapNamed (compOf s c) e = some m → m.tenant = tenant → findSeq s tenant tag = some slot →
    ((holdsOf m tag).any fun p => nodeHolds m (myNode s) p) = true →
    ((seqOf s slot).st = .active → mayLoad s m tag src = false → loadAnswer s c e tag tenant src = (stAccess, none)) ∧
    ((seqOf s slot).st = .active → mayLoad s m tag src = true → 64 ≤ serveCount s → loadAnswer s c e tag tenant src = (stRetry, none)) ∧
    ((seqOf s slot).st = .active → mayLoad s m tag src = true → serveCount s < 64 → (seqOf s slot).app.commitPending = false →
      loadAnswer s c e tag tenant src = (stOk, some slot))) ∧
  (∀ (f : RxFrame) (a : Admitted) (s u : State), takeControl f [0x2B] s = (some a, u) → let c := rd a.payload 0 4
    let id := rd a.payload 4 4
    let src := f.hdr.src.toNat
    let v := noteEpoch f c f.hdr.epoch.toNat u
    (fromNodeMember (compOf v c) src = false → exec (.loadDone f) s = .next (respond f a.die 0 (leBytes 16 stAccess) v)) ∧
    (fromNodeMember (compOf v c) src = true → id = 0 → let r := rejoined c src v
      exec (.loadDone f) s = .next (respond f a.die 0 (leBytes 16 r.1) r.2)) ∧
    (fromNodeMember (compOf v c) src = true → id ≠ 0 → tlook v.datum.loadOut (loadKey src id) = none →
      exec (.loadDone f) s = .next (respond f a.die 0 (leBytes 16 stStateConflict) v)) ∧
    (∀ l, fromNodeMember (compOf v c) src = true → id ≠ 0 → tlook v.datum.loadOut (loadKey src id) = some l →
      let l := { l with finish := some (src, f.hdr.msgId.toNat, f.srcAddr) }
      exec (.loadDone f) s = .next (finishLoadOut (loadKey src id)
        { v with datum := { v.datum with loadOut := tput v.datum.loadOut (loadKey src id) l } }))) ∧
  (∀ (f : RxFrame) (a : Admitted) (s u : State), takeControl f [0x2A] s = (some a, u) →
    (∀ v, notePacket f a true u = (none, v) → exec (.loadData f) s = .next (ackPacket f false v)) ∧
    (∀ y d v, notePacket f a true u = (some (y, d), v) →
      (splitLoad 16384 d = none → exec (.loadData f) s = .next (failMsg f stInternal v)) ∧
      (∀ rs, splitLoad 16384 d = some rs →
        (∀ bad w, takeRecords f.hdr.src.toNat rs v = (stOk, bad, w) → exec (.loadData f) s = .next (completeMsg f id w)) ∧
        (∀ st bad w, st ≠ stOk → takeRecords f.hdr.src.toNat rs v = (st, bad, w) →
          exec (.loadData f) s = .next (failMsg f st (bad.foldl (fun s i => restartLoad i s) w)))))) ∧
  (∀ (f : RxFrame) (a : Admitted) (x : Nat) (m : OutMsg) (s u : State), takeAnswer f [0xA9, 0xAB] s = (some (a, x, m), u) → let st := statusIn (rd a.payload 0 1)
    (∀ id, m.purpose = .loadOpen id → exec (.loadResponse f) s = .next (onLoadOpened id st u)) ∧
    (∀ id, m.purpose = .loadDone id →
      exec (.loadResponse f) s = .next (if st = stStateConflict then onLoadEnded m id u else if st ≠ stOk then loadDoneAgain m id u
        else if id = 0 then u else onLoadFinished id u))) ∧
  (∀ (id slot : Nat) (l : LoadIn) (s : State), tlook s.datum.loadIn id = some l → l.slot = some slot → (seqOf s slot).st = .loading →
    (seqOf (onLoadFinished id s) slot).st = .active)

/-- Firmware's reads and requests (03 R53; 05 R115; 06 R140; 11 R251; 15 R340; 16 R366; 20 R441-R445, Table 20.3). A read of a sequence not in the
directory answers ST_NO_PAGE, and else the record; SAT_CLEAR zeroes a layer's clip counter, or all; ACTION is deferred and runs as an instance;
FW_SLUICE acts on firmware's own entries alone; NODE_DRAIN makes a serving node drain; CHIP_RESET makes a reset due 100 µs later and leaves BUSY at 1.
-/
def Obligations.FirmwareReadsAndActs : Prop :=
  (∀ (c : Instr) (op : Nat) (s : State), (c, op) ∈ [(Instr.datumRead, 0x21), (.nodeDrain, 0x22), (.seqRead, 0x30), (.placeRead, 0x31), (.satRead, 0x32),
      (.satClear, 0x33), (.windowRead, 0x34), (.sluiceRead, 0x35), (.action, 0x40), (.fwSluice, 0x41), (.chipReset, 3)] →
    (fwCmd s op = none → exec c s = .next s) ∧
    (∀ l st, fwCmd s op = some l → fwGate s op l.req = some st → exec c s = .next (answerFw st [] s))) ∧
  (∀ (c : Instr) (op : Nat) (l : Latched) (s : State), (c, op) ∈ [(Instr.seqRead, 0x30), (.placeRead, 0x31), (.satRead, 0x32), (.satClear, 0x33)] →
    fwCmd s op = some l → fwGate s op l.req = none → ∀ u, lookSeq (bits (rd l.req 0 2) 11 0) (rd l.req 8 8) s = (none, u) →
    exec c s = .next (answerFw stNoPage [] u)) ∧
  (∀ (l : Latched) (k : Nat) (s u : State), lookSeq (bits (rd l.req 0 2) 11 0) (rd l.req 8 8) s = (some k, u) →
    (fwCmd s 0x30 = some l → fwGate s 0x30 l.req = none →
      exec .seqRead s = .next (answerFw stOk (seqRecord (seqOf u k) ++ appRecord (seqOf u k).app) u)) ∧
    (fwCmd s 0x31 = some l → fwGate s 0x31 l.req = none →
      exec .placeRead s = .next (answerFw stOk (placeView u k (rd l.req 16 1) (rd l.req 17 1)) u)) ∧
    (fwCmd s 0x32 = some l → fwGate s 0x32 l.req = none →
      exec .satRead s = .next (answerFw stOk ((List.range 256).flatMap fun x => leBytes 4 (tget 0 (seqOf u k).sat x)) u)) ∧
    (fwCmd s 0x33 = some l → fwGate s 0x33 l.req = none →
      exec .satClear s = .next (answerFw stOk [] (satClear k (rd l.req 16 1) (bitAt (rd l.req 17 1) 0) u)))) ∧
  (∀ (k x : Nat) (s : State), twf {} s.dir = true → (seqOf (satClear k x true s) k).sat = [] ∧ (seqOf (satClear k x true s) k).drift = [] ∧
    (seqOf (satClear k x false s) k).sat = tdel (seqOf s k).sat x ∧ x ∉ (seqOf (satClear k x false s) k).drift) ∧
  (∀ (l : Latched) (s : State),
    (fwCmd s 0x34 = some l → fwGate s 0x34 l.req = none → exec .windowRead s = .next (answerFw stOk (winEntry s (bits (rd l.req 0 2) 13 0)) s)) ∧
    (fwCmd s 0x35 = some l → fwGate s 0x35 l.req = none → exec .sluiceRead s = .next (answerFw stOk (sluiceView s (bits (rd l.req 0 2) 14 0)) s)) ∧
    (fwCmd s 0x21 = some l → fwGate s 0x21 l.req = none → let r := datumPage s (rd l.req 0 4) (rd l.req 4 4) (rd l.req 8 4)
      exec .datumRead s = .next (answerFw (rd r 0 1) r s)) ∧
    (fwCmd s 0x22 = some l → fwGate s 0x22 l.req = none → exec .nodeDrain s = .next (answerFw stOk [] (drainNode s))) ∧
    (fwCmd s 3 = some l → fwGate s 3 l.req = none → ∃ t, exec .chipReset s = .next t ∧ t.cfg = s.cfg ∧
      (s.pwr.resetDue = none → t.pwr.resetDue = some (now s + 100000, .soft)) ∧ (s.pwr.resetDue ≠ none → t = s))) ∧
  (∀ (s : State), (s.node.st = .joining → (drainNode s).node.st = .drained) ∧ (s.node.st = .drained → drainNode s = s) ∧
    (s.node.st = .serving → drainNode s = drainCheck { s with node := { s.node with st := .draining } })) ∧
  (∀ (l : Latched) (s : State), fwCmd s 0x40 = some l → fwGate s 0x40 l.req = none → let t := bits (rd l.req 0 2) 11 0
    let b := actionBytes (actionSlot (slice l.req 8 120))
    (∀ st, actionRefusal s t b = some st → exec .action s = .next (answerFw st [] s)) ∧
    (actionRefusal s t b = none → 16 ≤ s.cfg.outstanding.length → exec .action s = .next (answerFw stRetry [] s)) ∧
    (actionRefusal s t b = none → s.cfg.outstanding.length < 16 → ∃ u x, exec .action s = .next u ∧ instOf u s.slu.nextInst = some x ∧ x.tenant = t ∧
      x.bytes = b ∧ x.acts = [.started] ∧ x.fwTag = some l.tag ∧ x.lc = false ∧ u.cfg.outstanding = s.cfg.outstanding ++ [⟨l.opcode, l.tag, s.slu.nextInst⟩])) ∧
  (∀ (x code n : Nat) (b : Bytes) (s : State),
    (x < 31744 ∨ code = 0 ∨ 3 < code → (fwSluDo x code n b s).1.status = stMalformed ∧ (fwSluDo x code n b s).2 = s) ∧
    (31744 ≤ x → fwSluDo x 1 0 b s = postDo x 0 b none s ∧ fwSluDo x 2 0 b s = cancelDo x s ∧
      (n ≠ 0 → n ≤ 16383 → fwSluDo x 3 n b s = rearmDo x 0 n none s))) ∧
  (∀ (l : Latched) (s : State), fwCmd s 0x41 = some l → fwGate s 0x41 l.req = none → let x := bits (rd l.req 0 2) 14 0
    let code := bits (rd l.req 2 1) 2 0
    let r := fwSluDo x code (rd l.req 4 2) (slice l.req 64 1024) s
    exec .fwSluice s = .next (answerFw r.1.status (fwSluRecord x r.1 r.2).1
      (onPost x (code == 1 && (entryOf s x).st == .free && r.1.status == stOk) (fwSluRecord x r.1 r.2).2)))

/-! ## Memory -/

/-- What a store leaves (11 R246; 13 R295; 18 R398; 20 R444). Bytes placed in a window change only the lines of 64 bytes that they cover in the frames
behind it, and for an unprotected tenant only themselves; a DMA run changes only its destination lines; NVM_WRITE changes only what it writes and the
sectors whose first byte it writes. -/
def Obligations.StoresReachOnlyTheirBytes : Prop :=
  (∀ (id off : Nat) (bs : Bytes) (s : State), Memory.wf s.mem.fast = true →
    let w := winOf s id
    let segs := winSegs w (bs.length / 65536 + 2) off bs.length
    let t := winWrite id off bs s
    t = { s with mem := { s.mem with fast := t.mem.fast } } ∧
    (∀ x, (∀ e ∈ segs, x < e.1 / 64 * 64 ∨ alignUp 64 (e.1 + e.2) ≤ x) → tget 0 t.mem.fast x = tget 0 s.mem.fast x) ∧
    (memKeys s w.tenant = none → ∀ x, (∀ e ∈ segs, x < e.1 ∨ e.1 + e.2 ≤ x) → tget 0 t.mem.fast x = tget 0 s.mem.fast x)) ∧
  (∀ (c n : Nat) (r : DmaRun) (s : State), memOk s = true → (dmaOf s c).run = some r →
    let d := dstSide r.desc
    let t := dmaMove c n s
    let outside := fun (x : Nat) => ∀ k, x < lineKey d k ∨ lineKey d k + d.len ≤ x
    t.mem.nvm = s.mem.nvm ∧
    (∀ x, d.kind ≠ 0 ∨ outside x → tget 0 t.mem.fast x = tget 0 s.mem.fast x) ∧
    (∀ x, d.kind ≠ 1 ∨ outside x → tget 0 t.mem.deep x = tget 0 s.mem.deep x) ∧
    (∀ x, d.kind = 0 ∨ d.kind = 1 ∨ outside x → tget 0 t.mem.stack x = tget 0 s.mem.stack x)) ∧
  (∀ (c : Latched) (s t : State), Memory.wf s.mem.nvm = true → fwCmd s 2 = some c → exec .nvmWrite s = .next t →
    let o := rd c.req 0 4
    ∀ x, x < o ∨ o + (c.req.length - 64) ≤ x → (∀ a ∈ sectorsFrom o (rd c.req 4 4), x < a ∨ a + 65536 ≤ x) →
      tget 0 t.mem.nvm x = tget 0 s.mem.nvm x)
end

