-- ==== Sys2Proof/Laws/Attention.lean ====
section
/-! SUPPORT. What the check of a tile finds (06 R151). -/

namespace Sys2Proof.Laws

open Sys2Proof.Machine

/-- Two values have one residue exactly when they agree modulo 127. -/
theorem residue_eq_iff (x y : Int) : residue x = residue y ↔ x % 127 = y % 127 := by
  have hx := Int.emod_nonneg x (b := 127) (by decide)
  have hy := Int.emod_nonneg y (b := 127) (by decide)
  unfold residue
  omega

/-- The narrow path gives the residue of the group sum itself (06 R151). -/
theorem narrowSum_eq (l : List (Int × Int)) : narrowSum l = residue (l.map fun p => p.1 * p.2).sum := by
  have cast : ∀ x : Int, ((residue x : Nat) : Int) = x % 127 := fun x =>
    Int.toNat_of_nonneg (Int.emod_nonneg x (by decide))
  refine (residue_eq_iff _ _).2 ?_
  induction l with
  | nil => rfl
  | cons p l ih =>
    simp only [List.map_cons, List.sum_cons, Int.natCast_mul, cast] at ih ⊢
    rw [Int.add_emod, ih, ← Int.mul_emod, ← Int.add_emod]

/-- An adder whose sum lies off by `d` is found exactly when the residue of `d` is not 0. -/
theorem sumPasses_off (l : List (Int × Int)) (d : Int) :
    sumPasses l ((l.map fun p => p.1 * p.2).sum + d) = (residue d == 0) := by
  have h : (residue ((l.map fun p => p.1 * p.2).sum + d) = narrowSum l) ↔ residue d = residue 0 := by
    rw [narrowSum_eq, residue_eq_iff, residue_eq_iff]
    omega
  have z : residue 0 = 0 := rfl
  rw [z] at h
  unfold sumPasses
  by_cases hd : residue d = 0 <;> simp [hd, h]

end Sys2Proof.Laws
end

