-- ==== Sys2Proof/Laws/Frame.lean ====
section
/-! SUPPORT. Frames: what each definition leaves alone, part by part. `Frame m a b` says that `b` is `a` but for the parts in `m`. -/

namespace Sys2Proof.Laws

open Sys2Proof.Machine

/-- Every part of `l` is in `m`. -/
def sub (l m : List Part) : Bool := l.all fun p => m.contains p

theorem sub_trans {k l m : List Part} (h1 : sub k l = true) (h2 : sub l m = true) : sub k m = true := by
  simp only [sub, List.all_eq_true, List.contains_iff_mem] at h1 h2 ⊢
  exact fun p hp => h2 p (h1 p hp)

theorem mem_of_sub {k m : List Part} {p : Part} (h : sub k m = true) (hp : p ∈ k) : p ∈ m := by
  simp only [sub, List.all_eq_true, List.contains_iff_mem] at h
  exact h p hp

theorem samePart_refl (p : Part) (s : State) : samePart p s s := by cases p <;> rfl

theorem Frame.refl (m : List Part) (s : State) : Frame m s s := ⟨fun p _ => samePart_refl p s⟩

theorem Frame.mono {l m : List Part} {s t : State} (h : Frame l s t) (hm : sub l m = true) : Frame m s t :=
  ⟨fun p hp => h.same p fun hl => hp (mem_of_sub hm hl)⟩

/-- `Frame` of the state in a pair, in the tail of a triple, in an option, in an answer. -/
structure FrameP {α : Type} (m : List Part) (a : State) (p : α × State) : Prop where
  snd : Frame m a p.2
structure FrameQ {α β : Type} (m : List Part) (a : State) (p : α × β × State) : Prop where
  snd : Frame m a p.2.2
structure FrameO (m : List Part) (a : State) (o : Option State) : Prop where
  out : ∀ s, o = some s → Frame m a s
structure FrameOP {α : Type} (m : List Part) (a : State) (o : Option (α × State)) : Prop where
  out : ∀ x s, o = some (x, s) → Frame m a s
structure FrameOQ {α β : Type} (m : List Part) (a : State) (o : Option (α × β × State)) : Prop where
  out : ∀ x y s, o = some (x, y, s) → Frame m a s
structure FrameS {α β : Type} (m : List Part) (a : State) (o : α ⊕ β × State) : Prop where
  out : ∀ x s, o = .inr (x, s) → Frame m a s
structure FrameR (m : List Part) (a : State) (o : Host.Outcome State Fault Refusal) : Prop where
  next : ∀ s, o = .next s → Frame m a s

variable {m : List Part} {a b b' s s' : State} {α β : Type}

theorem Frame.out {p : α × State} {x : α} (e : p = (x, s)) (h : FrameP m a p) : Frame m a s := by subst e; exact h.snd
theorem Frame.outQ {β : Type} {p : α × β × State} {x : α} {y : β} (e : p = (x, y, s)) (h : FrameQ m a p) : Frame m a s := by
  subst e; exact h.snd
theorem Frame.outO {o : Option State} (e : o = some s) (h : FrameO m a o) : Frame m a s := h.out _ e
theorem Frame.outOP {o : Option (α × State)} {x : α} (e : o = some (x, s)) (h : FrameOP m a o) : Frame m a s := h.out _ _ e
theorem Frame.outOQ {β : Type} {o : Option (α × β × State)} {x : α} {y : β} (e : o = some (x, y, s)) (h : FrameOQ m a o) : Frame m a s :=
  h.out _ _ _ e
theorem FrameP.mk' {x : α} (h : Frame m a s) : FrameP m a (x, s) := ⟨h⟩
theorem FrameQ.mk' {β : Type} {x : α} {y : β} (h : Frame m a s) : FrameQ m a (x, y, s) := ⟨h⟩
theorem FrameQ.mkP {β : Type} {x : α} {p : β × State} (h : FrameP m a p) : FrameQ m a (x, p) := ⟨h.snd⟩
theorem FrameO.none_ : FrameO m a none := ⟨fun _ h => by cases h⟩
theorem FrameO.mk' (h : Frame m a s) : FrameO m a (some s) := ⟨fun _ e => by cases e; exact h⟩
theorem FrameOP.none_ : FrameOP (α := α) m a none := ⟨fun _ _ h => by cases h⟩
theorem FrameOP.mk' {x : α} (h : Frame m a s) : FrameOP m a (some (x, s)) := ⟨fun _ _ e => by cases e; exact h⟩
theorem FrameOP.mkP {p : α × State} (h : FrameP m a p) : FrameOP m a (some p) := ⟨fun _ _ e => by cases e; exact h.snd⟩
theorem FrameOQ.none_ {β : Type} : FrameOQ (α := α) (β := β) m a none := ⟨fun _ _ _ h => by cases h⟩
theorem FrameOQ.mk' {β : Type} {x : α} {y : β} (h : Frame m a s) : FrameOQ m a (some (x, y, s)) := ⟨fun _ _ _ e => by cases e; exact h⟩
theorem FrameS.inl {β : Type} {x : α} : FrameS (β := β) m a (.inl x) := ⟨fun _ _ e => by cases e⟩
theorem FrameS.mk' {β : Type} {x : β} (h : Frame m a s) : FrameS (α := α) m a (.inr (x, s)) := ⟨fun _ _ e => by cases e; exact h⟩
theorem Frame.outS {β : Type} {o : α ⊕ β × State} {x : β} (e : o = .inr (x, s)) (h : FrameS m a o) : Frame m a s := h.out _ _ e
theorem FrameR.mk' (h : Frame m a s) : FrameR m a (.next s) := ⟨fun _ e => by cases e; exact h⟩
theorem FrameR.fault {f : Fault} : FrameR m a (.fault f) := ⟨fun _ e => by cases e⟩
theorem Frame.getD {o : Option State} (h : FrameO m a o) (hs : Frame m a s) : Frame m a (o.getD s) := by
  cases o with
  | none => exact hs
  | some t => exact h.out _ rfl

theorem Frame.outOPs {o : Option (α × State)} {p : α × State} (e : o = some p) (h : FrameOP m a o) : Frame m a p.2 := h.out _ _ e
theorem Frame.outOQs {o : Option (α × β × State)} {p : α × β × State} (e : o = some p) (h : FrameOQ m a o) : Frame m a p.2.2 :=
  h.out _ _ _ e

theorem frameO_map {γ : Type} {o : Option γ} {f : γ → State} (hf : ∀ x, o = some x → Frame m a (f x)) : FrameO m a (o.map f) := by
  cases o with
  | none => exact FrameO.none_
  | some x => exact FrameO.mk' (hf x rfl)

theorem frameO_bind {γ : Type} {o : Option γ} {f : γ → Option State} (hf : ∀ x, o = some x → FrameO m a (f x)) : FrameO m a (o.bind f) := by
  cases o with
  | none => exact FrameO.none_
  | some x => exact hf x rfl

theorem frameOP_bind {γ : Type} {o : Option γ} {f : γ → Option (α × State)} (hf : ∀ x, o = some x → FrameOP m a (f x)) :
    FrameOP m a (o.bind f) := by
  cases o with
  | none => exact FrameOP.none_
  | some x => exact hf x rfl

theorem frameOP_map {γ : Type} {o : Option γ} {f : γ → α × State} (hf : ∀ x, o = some x → FrameP m a (f x)) : FrameOP m a (o.map f) := by
  cases o with
  | none => exact FrameOP.none_
  | some x => exact FrameOP.mkP (hf x rfl)

theorem frameOQ_map {γ : Type} {o : Option γ} {f : γ → α × β × State} (hf : ∀ x, o = some x → FrameQ m a (f x)) :
    FrameOQ m a (o.map f) := by
  cases o with
  | none => exact FrameOQ.none_
  | some x =>
    refine ⟨fun _ _ _ e => ?_⟩
    have h := hf x rfl
    simp only [Option.map_some, Option.some.injEq] at e
    rw [e] at h
    exact h.snd

theorem frame_foldl {f : State → β → State} {l : List β} (h : Frame m a s) (hf : ∀ s x, Frame m a s → Frame m a (f s x)) :
    Frame m a (l.foldl f s) := by
  induction l generalizing s with
  | nil => exact h
  | cons x xs ih => exact ih (hf _ _ h)

theorem frameP_foldl {f : α × State → β → α × State} {p : α × State} {l : List β} (h : FrameP m a p)
    (hf : ∀ p x, FrameP m a p → FrameP m a (f p x)) : FrameP m a (l.foldl f p) := by
  induction l generalizing p with
  | nil => exact h
  | cons x xs ih => exact ih (hf _ _ h)

theorem frameOP_foldl {f : Option (α × State) → β → Option (α × State)} {o : Option (α × State)} {l : List β} (h : FrameOP m a o)
    (hf : ∀ o x, FrameOP m a o → FrameOP m a (f o x)) : FrameOP m a (l.foldl f o) := by
  induction l generalizing o with
  | nil => exact h
  | cons x xs ih => exact ih (hf _ _ h)

theorem frameO_foldl {f : Option State → β → Option State} {o : Option State} {l : List β} (h : FrameO m a o)
    (hf : ∀ o x, FrameO m a o → FrameO m a (f o x)) : FrameO m a (l.foldl f o) := by
  induction l generalizing o with
  | nil => exact h
  | cons x xs ih => exact ih (hf _ _ h)

theorem frameOP_findSome {f : β → Option (α × State)} {l : List β} (hf : ∀ x, FrameOP m a (f x)) : FrameOP m a (l.findSome? f) := by
  induction l with
  | nil => exact FrameOP.none_
  | cons x xs ih =>
    rw [List.findSome?_cons]
    split
    · next e => rw [← e]; exact hf x
    · exact ih

theorem frame_ite {c : Prop} [Decidable c] (h1 : c → Frame m a s) (h2 : ¬c → Frame m a s') : Frame m a (if c then s else s') := by
  split
  · exact h1 ‹_›
  · exact h2 ‹_›
theorem frameP_ite {c : Prop} [Decidable c] {p q : α × State} (h1 : c → FrameP m a p) (h2 : ¬c → FrameP m a q) :
    FrameP m a (if c then p else q) := by
  split
  · exact h1 ‹_›
  · exact h2 ‹_›
theorem frameQ_ite {c : Prop} [Decidable c] {p q : α × β × State} (h1 : c → FrameQ m a p) (h2 : ¬c → FrameQ m a q) :
    FrameQ m a (if c then p else q) := by
  split
  · exact h1 ‹_›
  · exact h2 ‹_›
theorem frameO_ite {c : Prop} [Decidable c] {p q : Option State} (h1 : c → FrameO m a p) (h2 : ¬c → FrameO m a q) :
    FrameO m a (if c then p else q) := by
  split
  · exact h1 ‹_›
  · exact h2 ‹_›
theorem frameOP_ite {c : Prop} [Decidable c] {p q : Option (α × State)} (h1 : c → FrameOP m a p) (h2 : ¬c → FrameOP m a q) :
    FrameOP m a (if c then p else q) := by
  split
  · exact h1 ‹_›
  · exact h2 ‹_›

theorem frame_foldlSnd {f : α × State → β → α × State} {p : α × State} {l : List β} (h : Frame m a p.2)
    (hf : ∀ p x, Frame m a p.2 → Frame m a (f p x).2) : Frame m a (l.foldl f p).2 := by
  induction l generalizing p with
  | nil => exact h
  | cons x xs ih => exact ih (hf _ _ h)

theorem frameQ_foldl {γ : Type} {f : α × γ × State → β → α × γ × State} {p : α × γ × State} {l : List β} (h : FrameQ m a p)
    (hf : ∀ p x, FrameQ m a p → FrameQ m a (f p x)) : FrameQ m a (l.foldl f p) := by
  induction l generalizing p with
  | nil => exact h
  | cons x xs ih => exact ih (hf _ _ h)

theorem frame_foldlFst {f : State × α → β → State × α} {p : State × α} {l : List β} (h : Frame m a p.1)
    (hf : ∀ p x, Frame m a p.1 → Frame m a (f p x).1) : Frame m a (l.foldl f p).1 := by
  induction l generalizing p with
  | nil => exact h
  | cons x xs ih => exact ih (hf _ _ h)

/-! ## Records as the definitions write them, by the fields they change -/

theorem frame_barrier {x_barrier : Tbl Barrier} (h : Frame m a b) (hm : sub [.barrier] m = true) :
    Frame m a ⟨b.bmk, b.pwr, b.cfg, b.svc, b.catchment, b.log, b.cnt, x_barrier, b.rgn, b.pair, b.blk, b.cap, b.tier, b.node, b.ctl, b.jtag, b.fuse, b.mem, b.sto, b.dir, b.tlb, b.chan, b.work, b.prog, b.installs, b.req, b.nextReq, b.readLog, b.key, b.jx, b.slu, b.traffic, b.datum, b.sec, b.dma, b.saved, b.free, b.resets, b.pending⟩ := by
  refine ⟨fun p hp => ?_⟩
  cases p <;> first | exact h.same _ hp | exact absurd (mem_of_sub hm (by decide)) hp

theorem frame_blk {x_blk : Tbl Blk} (h : Frame m a b) (hm : sub [.blk] m = true) :
    Frame m a ⟨b.bmk, b.pwr, b.cfg, b.svc, b.catchment, b.log, b.cnt, b.barrier, b.rgn, b.pair, x_blk, b.cap, b.tier, b.node, b.ctl, b.jtag, b.fuse, b.mem, b.sto, b.dir, b.tlb, b.chan, b.work, b.prog, b.installs, b.req, b.nextReq, b.readLog, b.key, b.jx, b.slu, b.traffic, b.datum, b.sec, b.dma, b.saved, b.free, b.resets, b.pending⟩ := by
  refine ⟨fun p hp => ?_⟩
  cases p <;> first | exact h.same _ hp | exact absurd (mem_of_sub hm (by decide)) hp

theorem frame_bmk {x_bmk : Bmk} (h : Frame m a b) (hm : sub [.bmk] m = true) :
    Frame m a ⟨x_bmk, b.pwr, b.cfg, b.svc, b.catchment, b.log, b.cnt, b.barrier, b.rgn, b.pair, b.blk, b.cap, b.tier, b.node, b.ctl, b.jtag, b.fuse, b.mem, b.sto, b.dir, b.tlb, b.chan, b.work, b.prog, b.installs, b.req, b.nextReq, b.readLog, b.key, b.jx, b.slu, b.traffic, b.datum, b.sec, b.dma, b.saved, b.free, b.resets, b.pending⟩ := by
  refine ⟨fun p hp => ?_⟩
  cases p <;> first | exact h.same _ hp | exact absurd (mem_of_sub hm (by decide)) hp

theorem frame_cap {x_cap : PwrCap} (h : Frame m a b) (hm : sub [.cap] m = true) :
    Frame m a ⟨b.bmk, b.pwr, b.cfg, b.svc, b.catchment, b.log, b.cnt, b.barrier, b.rgn, b.pair, b.blk, x_cap, b.tier, b.node, b.ctl, b.jtag, b.fuse, b.mem, b.sto, b.dir, b.tlb, b.chan, b.work, b.prog, b.installs, b.req, b.nextReq, b.readLog, b.key, b.jx, b.slu, b.traffic, b.datum, b.sec, b.dma, b.saved, b.free, b.resets, b.pending⟩ := by
  refine ⟨fun p hp => ?_⟩
  cases p <;> first | exact h.same _ hp | exact absurd (mem_of_sub hm (by decide)) hp

theorem frame_catchment {x_catchment : Catchment} (h : Frame m a b) (hm : sub [.catchment] m = true) :
    Frame m a ⟨b.bmk, b.pwr, b.cfg, b.svc, x_catchment, b.log, b.cnt, b.barrier, b.rgn, b.pair, b.blk, b.cap, b.tier, b.node, b.ctl, b.jtag, b.fuse, b.mem, b.sto, b.dir, b.tlb, b.chan, b.work, b.prog, b.installs, b.req, b.nextReq, b.readLog, b.key, b.jx, b.slu, b.traffic, b.datum, b.sec, b.dma, b.saved, b.free, b.resets, b.pending⟩ := by
  refine ⟨fun p hp => ?_⟩
  cases p <;> first | exact h.same _ hp | exact absurd (mem_of_sub hm (by decide)) hp

theorem frame_cfg {x_cfg : Cfg} (h : Frame m a b) (hm : sub [.cfg] m = true) :
    Frame m a ⟨b.bmk, b.pwr, x_cfg, b.svc, b.catchment, b.log, b.cnt, b.barrier, b.rgn, b.pair, b.blk, b.cap, b.tier, b.node, b.ctl, b.jtag, b.fuse, b.mem, b.sto, b.dir, b.tlb, b.chan, b.work, b.prog, b.installs, b.req, b.nextReq, b.readLog, b.key, b.jx, b.slu, b.traffic, b.datum, b.sec, b.dma, b.saved, b.free, b.resets, b.pending⟩ := by
  refine ⟨fun p hp => ?_⟩
  cases p <;> first | exact h.same _ hp | exact absurd (mem_of_sub hm (by decide)) hp

theorem frame_chan {x_chan : Tbl Chan} (h : Frame m a b) (hm : sub [.chan] m = true) :
    Frame m a ⟨b.bmk, b.pwr, b.cfg, b.svc, b.catchment, b.log, b.cnt, b.barrier, b.rgn, b.pair, b.blk, b.cap, b.tier, b.node, b.ctl, b.jtag, b.fuse, b.mem, b.sto, b.dir, b.tlb, x_chan, b.work, b.prog, b.installs, b.req, b.nextReq, b.readLog, b.key, b.jx, b.slu, b.traffic, b.datum, b.sec, b.dma, b.saved, b.free, b.resets, b.pending⟩ := by
  refine ⟨fun p hp => ?_⟩
  cases p <;> first | exact h.same _ hp | exact absurd (mem_of_sub hm (by decide)) hp

theorem frame_cnt {x_cnt : Tbl Nat} (h : Frame m a b) (hm : sub [.cnt] m = true) :
    Frame m a ⟨b.bmk, b.pwr, b.cfg, b.svc, b.catchment, b.log, x_cnt, b.barrier, b.rgn, b.pair, b.blk, b.cap, b.tier, b.node, b.ctl, b.jtag, b.fuse, b.mem, b.sto, b.dir, b.tlb, b.chan, b.work, b.prog, b.installs, b.req, b.nextReq, b.readLog, b.key, b.jx, b.slu, b.traffic, b.datum, b.sec, b.dma, b.saved, b.free, b.resets, b.pending⟩ := by
  refine ⟨fun p hp => ?_⟩
  cases p <;> first | exact h.same _ hp | exact absurd (mem_of_sub hm (by decide)) hp

theorem frame_ctl {x_ctl : Ctl} (h : Frame m a b) (hm : sub [.ctl] m = true) :
    Frame m a ⟨b.bmk, b.pwr, b.cfg, b.svc, b.catchment, b.log, b.cnt, b.barrier, b.rgn, b.pair, b.blk, b.cap, b.tier, b.node, x_ctl, b.jtag, b.fuse, b.mem, b.sto, b.dir, b.tlb, b.chan, b.work, b.prog, b.installs, b.req, b.nextReq, b.readLog, b.key, b.jx, b.slu, b.traffic, b.datum, b.sec, b.dma, b.saved, b.free, b.resets, b.pending⟩ := by
  refine ⟨fun p hp => ?_⟩
  cases p <;> first | exact h.same _ hp | exact absurd (mem_of_sub hm (by decide)) hp

theorem frame_datum {x_datum : Datum} (h : Frame m a b) (hm : sub [.datum] m = true) :
    Frame m a ⟨b.bmk, b.pwr, b.cfg, b.svc, b.catchment, b.log, b.cnt, b.barrier, b.rgn, b.pair, b.blk, b.cap, b.tier, b.node, b.ctl, b.jtag, b.fuse, b.mem, b.sto, b.dir, b.tlb, b.chan, b.work, b.prog, b.installs, b.req, b.nextReq, b.readLog, b.key, b.jx, b.slu, b.traffic, x_datum, b.sec, b.dma, b.saved, b.free, b.resets, b.pending⟩ := by
  refine ⟨fun p hp => ?_⟩
  cases p <;> first | exact h.same _ hp | exact absurd (mem_of_sub hm (by decide)) hp

theorem frame_dir {x_dir : Tbl Seq} (h : Frame m a b) (hm : sub [.dir] m = true) :
    Frame m a ⟨b.bmk, b.pwr, b.cfg, b.svc, b.catchment, b.log, b.cnt, b.barrier, b.rgn, b.pair, b.blk, b.cap, b.tier, b.node, b.ctl, b.jtag, b.fuse, b.mem, b.sto, x_dir, b.tlb, b.chan, b.work, b.prog, b.installs, b.req, b.nextReq, b.readLog, b.key, b.jx, b.slu, b.traffic, b.datum, b.sec, b.dma, b.saved, b.free, b.resets, b.pending⟩ := by
  refine ⟨fun p hp => ?_⟩
  cases p <;> first | exact h.same _ hp | exact absurd (mem_of_sub hm (by decide)) hp

theorem frame_dma {x_dma : Tbl DmaCh} (h : Frame m a b) (hm : sub [.dma] m = true) :
    Frame m a ⟨b.bmk, b.pwr, b.cfg, b.svc, b.catchment, b.log, b.cnt, b.barrier, b.rgn, b.pair, b.blk, b.cap, b.tier, b.node, b.ctl, b.jtag, b.fuse, b.mem, b.sto, b.dir, b.tlb, b.chan, b.work, b.prog, b.installs, b.req, b.nextReq, b.readLog, b.key, b.jx, b.slu, b.traffic, b.datum, b.sec, x_dma, b.saved, b.free, b.resets, b.pending⟩ := by
  refine ⟨fun p hp => ?_⟩
  cases p <;> first | exact h.same _ hp | exact absurd (mem_of_sub hm (by decide)) hp

theorem frame_free {x_free : Nat} (h : Frame m a b) (hm : sub [.free] m = true) :
    Frame m a ⟨b.bmk, b.pwr, b.cfg, b.svc, b.catchment, b.log, b.cnt, b.barrier, b.rgn, b.pair, b.blk, b.cap, b.tier, b.node, b.ctl, b.jtag, b.fuse, b.mem, b.sto, b.dir, b.tlb, b.chan, b.work, b.prog, b.installs, b.req, b.nextReq, b.readLog, b.key, b.jx, b.slu, b.traffic, b.datum, b.sec, b.dma, b.saved, x_free, b.resets, b.pending⟩ := by
  refine ⟨fun p hp => ?_⟩
  cases p <;> first | exact h.same _ hp | exact absurd (mem_of_sub hm (by decide)) hp

theorem frame_fuse {x_fuse : Fuses} (h : Frame m a b) (hm : sub [.fuse] m = true) :
    Frame m a ⟨b.bmk, b.pwr, b.cfg, b.svc, b.catchment, b.log, b.cnt, b.barrier, b.rgn, b.pair, b.blk, b.cap, b.tier, b.node, b.ctl, b.jtag, x_fuse, b.mem, b.sto, b.dir, b.tlb, b.chan, b.work, b.prog, b.installs, b.req, b.nextReq, b.readLog, b.key, b.jx, b.slu, b.traffic, b.datum, b.sec, b.dma, b.saved, b.free, b.resets, b.pending⟩ := by
  refine ⟨fun p hp => ?_⟩
  cases p <;> first | exact h.same _ hp | exact absurd (mem_of_sub hm (by decide)) hp

theorem frame_installs {x_installs : Tbl Install} (h : Frame m a b) (hm : sub [.installs] m = true) :
    Frame m a ⟨b.bmk, b.pwr, b.cfg, b.svc, b.catchment, b.log, b.cnt, b.barrier, b.rgn, b.pair, b.blk, b.cap, b.tier, b.node, b.ctl, b.jtag, b.fuse, b.mem, b.sto, b.dir, b.tlb, b.chan, b.work, b.prog, x_installs, b.req, b.nextReq, b.readLog, b.key, b.jx, b.slu, b.traffic, b.datum, b.sec, b.dma, b.saved, b.free, b.resets, b.pending⟩ := by
  refine ⟨fun p hp => ?_⟩
  cases p <;> first | exact h.same _ hp | exact absurd (mem_of_sub hm (by decide)) hp

theorem frame_jtag {x_jtag : Jtag} (h : Frame m a b) (hm : sub [.jtag] m = true) :
    Frame m a ⟨b.bmk, b.pwr, b.cfg, b.svc, b.catchment, b.log, b.cnt, b.barrier, b.rgn, b.pair, b.blk, b.cap, b.tier, b.node, b.ctl, x_jtag, b.fuse, b.mem, b.sto, b.dir, b.tlb, b.chan, b.work, b.prog, b.installs, b.req, b.nextReq, b.readLog, b.key, b.jx, b.slu, b.traffic, b.datum, b.sec, b.dma, b.saved, b.free, b.resets, b.pending⟩ := by
  refine ⟨fun p hp => ?_⟩
  cases p <;> first | exact h.same _ hp | exact absurd (mem_of_sub hm (by decide)) hp

theorem frame_jx {x_jx : Jx} (h : Frame m a b) (hm : sub [.jx] m = true) :
    Frame m a ⟨b.bmk, b.pwr, b.cfg, b.svc, b.catchment, b.log, b.cnt, b.barrier, b.rgn, b.pair, b.blk, b.cap, b.tier, b.node, b.ctl, b.jtag, b.fuse, b.mem, b.sto, b.dir, b.tlb, b.chan, b.work, b.prog, b.installs, b.req, b.nextReq, b.readLog, b.key, x_jx, b.slu, b.traffic, b.datum, b.sec, b.dma, b.saved, b.free, b.resets, b.pending⟩ := by
  refine ⟨fun p hp => ?_⟩
  cases p <;> first | exact h.same _ hp | exact absurd (mem_of_sub hm (by decide)) hp

theorem frame_key {x_key : Tbl KeySlot} (h : Frame m a b) (hm : sub [.key] m = true) :
    Frame m a ⟨b.bmk, b.pwr, b.cfg, b.svc, b.catchment, b.log, b.cnt, b.barrier, b.rgn, b.pair, b.blk, b.cap, b.tier, b.node, b.ctl, b.jtag, b.fuse, b.mem, b.sto, b.dir, b.tlb, b.chan, b.work, b.prog, b.installs, b.req, b.nextReq, b.readLog, x_key, b.jx, b.slu, b.traffic, b.datum, b.sec, b.dma, b.saved, b.free, b.resets, b.pending⟩ := by
  refine ⟨fun p hp => ?_⟩
  cases p <;> first | exact h.same _ hp | exact absurd (mem_of_sub hm (by decide)) hp

theorem frame_log {x_log : Logs} (h : Frame m a b) (hm : sub [.log] m = true) :
    Frame m a ⟨b.bmk, b.pwr, b.cfg, b.svc, b.catchment, x_log, b.cnt, b.barrier, b.rgn, b.pair, b.blk, b.cap, b.tier, b.node, b.ctl, b.jtag, b.fuse, b.mem, b.sto, b.dir, b.tlb, b.chan, b.work, b.prog, b.installs, b.req, b.nextReq, b.readLog, b.key, b.jx, b.slu, b.traffic, b.datum, b.sec, b.dma, b.saved, b.free, b.resets, b.pending⟩ := by
  refine ⟨fun p hp => ?_⟩
  cases p <;> first | exact h.same _ hp | exact absurd (mem_of_sub hm (by decide)) hp

theorem frame_mem {x_mem : Mems} (h : Frame m a b) (hm : sub [.mem] m = true) :
    Frame m a ⟨b.bmk, b.pwr, b.cfg, b.svc, b.catchment, b.log, b.cnt, b.barrier, b.rgn, b.pair, b.blk, b.cap, b.tier, b.node, b.ctl, b.jtag, b.fuse, x_mem, b.sto, b.dir, b.tlb, b.chan, b.work, b.prog, b.installs, b.req, b.nextReq, b.readLog, b.key, b.jx, b.slu, b.traffic, b.datum, b.sec, b.dma, b.saved, b.free, b.resets, b.pending⟩ := by
  refine ⟨fun p hp => ?_⟩
  cases p <;> first | exact h.same _ hp | exact absurd (mem_of_sub hm (by decide)) hp

theorem frame_nextReq {x_nextReq : Nat} (h : Frame m a b) (hm : sub [.nextReq] m = true) :
    Frame m a ⟨b.bmk, b.pwr, b.cfg, b.svc, b.catchment, b.log, b.cnt, b.barrier, b.rgn, b.pair, b.blk, b.cap, b.tier, b.node, b.ctl, b.jtag, b.fuse, b.mem, b.sto, b.dir, b.tlb, b.chan, b.work, b.prog, b.installs, b.req, x_nextReq, b.readLog, b.key, b.jx, b.slu, b.traffic, b.datum, b.sec, b.dma, b.saved, b.free, b.resets, b.pending⟩ := by
  refine ⟨fun p hp => ?_⟩
  cases p <;> first | exact h.same _ hp | exact absurd (mem_of_sub hm (by decide)) hp

theorem frame_node {x_node : NodeStatus} (h : Frame m a b) (hm : sub [.node] m = true) :
    Frame m a ⟨b.bmk, b.pwr, b.cfg, b.svc, b.catchment, b.log, b.cnt, b.barrier, b.rgn, b.pair, b.blk, b.cap, b.tier, x_node, b.ctl, b.jtag, b.fuse, b.mem, b.sto, b.dir, b.tlb, b.chan, b.work, b.prog, b.installs, b.req, b.nextReq, b.readLog, b.key, b.jx, b.slu, b.traffic, b.datum, b.sec, b.dma, b.saved, b.free, b.resets, b.pending⟩ := by
  refine ⟨fun p hp => ?_⟩
  cases p <;> first | exact h.same _ hp | exact absurd (mem_of_sub hm (by decide)) hp

theorem frame_pair {x_pair : Tbl Pair} (h : Frame m a b) (hm : sub [.pair] m = true) :
    Frame m a ⟨b.bmk, b.pwr, b.cfg, b.svc, b.catchment, b.log, b.cnt, b.barrier, b.rgn, x_pair, b.blk, b.cap, b.tier, b.node, b.ctl, b.jtag, b.fuse, b.mem, b.sto, b.dir, b.tlb, b.chan, b.work, b.prog, b.installs, b.req, b.nextReq, b.readLog, b.key, b.jx, b.slu, b.traffic, b.datum, b.sec, b.dma, b.saved, b.free, b.resets, b.pending⟩ := by
  refine ⟨fun p hp => ?_⟩
  cases p <;> first | exact h.same _ hp | exact absurd (mem_of_sub hm (by decide)) hp

theorem frame_pending {x_pending : List Instr} (h : Frame m a b) (hm : sub [.pending] m = true) :
    Frame m a ⟨b.bmk, b.pwr, b.cfg, b.svc, b.catchment, b.log, b.cnt, b.barrier, b.rgn, b.pair, b.blk, b.cap, b.tier, b.node, b.ctl, b.jtag, b.fuse, b.mem, b.sto, b.dir, b.tlb, b.chan, b.work, b.prog, b.installs, b.req, b.nextReq, b.readLog, b.key, b.jx, b.slu, b.traffic, b.datum, b.sec, b.dma, b.saved, b.free, b.resets, x_pending⟩ := by
  refine ⟨fun p hp => ?_⟩
  cases p <;> first | exact h.same _ hp | exact absurd (mem_of_sub hm (by decide)) hp

theorem frame_prog {x_prog : Tbl Prog} (h : Frame m a b) (hm : sub [.prog] m = true) :
    Frame m a ⟨b.bmk, b.pwr, b.cfg, b.svc, b.catchment, b.log, b.cnt, b.barrier, b.rgn, b.pair, b.blk, b.cap, b.tier, b.node, b.ctl, b.jtag, b.fuse, b.mem, b.sto, b.dir, b.tlb, b.chan, b.work, x_prog, b.installs, b.req, b.nextReq, b.readLog, b.key, b.jx, b.slu, b.traffic, b.datum, b.sec, b.dma, b.saved, b.free, b.resets, b.pending⟩ := by
  refine ⟨fun p hp => ?_⟩
  cases p <;> first | exact h.same _ hp | exact absurd (mem_of_sub hm (by decide)) hp

theorem frame_pwr {x_pwr : Pwr} (h : Frame m a b) (hm : sub [.pwr] m = true) :
    Frame m a ⟨b.bmk, x_pwr, b.cfg, b.svc, b.catchment, b.log, b.cnt, b.barrier, b.rgn, b.pair, b.blk, b.cap, b.tier, b.node, b.ctl, b.jtag, b.fuse, b.mem, b.sto, b.dir, b.tlb, b.chan, b.work, b.prog, b.installs, b.req, b.nextReq, b.readLog, b.key, b.jx, b.slu, b.traffic, b.datum, b.sec, b.dma, b.saved, b.free, b.resets, b.pending⟩ := by
  refine ⟨fun p hp => ?_⟩
  cases p <;> first | exact h.same _ hp | exact absurd (mem_of_sub hm (by decide)) hp

theorem frame_readLog {x_readLog : Tbl (List (Nat × Nat))} (h : Frame m a b) (hm : sub [.readLog] m = true) :
    Frame m a ⟨b.bmk, b.pwr, b.cfg, b.svc, b.catchment, b.log, b.cnt, b.barrier, b.rgn, b.pair, b.blk, b.cap, b.tier, b.node, b.ctl, b.jtag, b.fuse, b.mem, b.sto, b.dir, b.tlb, b.chan, b.work, b.prog, b.installs, b.req, b.nextReq, x_readLog, b.key, b.jx, b.slu, b.traffic, b.datum, b.sec, b.dma, b.saved, b.free, b.resets, b.pending⟩ := by
  refine ⟨fun p hp => ?_⟩
  cases p <;> first | exact h.same _ hp | exact absurd (mem_of_sub hm (by decide)) hp

theorem frame_req {x_req : Tbl Req} (h : Frame m a b) (hm : sub [.req] m = true) :
    Frame m a ⟨b.bmk, b.pwr, b.cfg, b.svc, b.catchment, b.log, b.cnt, b.barrier, b.rgn, b.pair, b.blk, b.cap, b.tier, b.node, b.ctl, b.jtag, b.fuse, b.mem, b.sto, b.dir, b.tlb, b.chan, b.work, b.prog, b.installs, x_req, b.nextReq, b.readLog, b.key, b.jx, b.slu, b.traffic, b.datum, b.sec, b.dma, b.saved, b.free, b.resets, b.pending⟩ := by
  refine ⟨fun p hp => ?_⟩
  cases p <;> first | exact h.same _ hp | exact absurd (mem_of_sub hm (by decide)) hp

theorem frame_rgn {x_rgn : Tbl Rgn} (h : Frame m a b) (hm : sub [.rgn] m = true) :
    Frame m a ⟨b.bmk, b.pwr, b.cfg, b.svc, b.catchment, b.log, b.cnt, b.barrier, x_rgn, b.pair, b.blk, b.cap, b.tier, b.node, b.ctl, b.jtag, b.fuse, b.mem, b.sto, b.dir, b.tlb, b.chan, b.work, b.prog, b.installs, b.req, b.nextReq, b.readLog, b.key, b.jx, b.slu, b.traffic, b.datum, b.sec, b.dma, b.saved, b.free, b.resets, b.pending⟩ := by
  refine ⟨fun p hp => ?_⟩
  cases p <;> first | exact h.same _ hp | exact absurd (mem_of_sub hm (by decide)) hp

theorem frame_sec {x_sec : Sec} (h : Frame m a b) (hm : sub [.sec] m = true) :
    Frame m a ⟨b.bmk, b.pwr, b.cfg, b.svc, b.catchment, b.log, b.cnt, b.barrier, b.rgn, b.pair, b.blk, b.cap, b.tier, b.node, b.ctl, b.jtag, b.fuse, b.mem, b.sto, b.dir, b.tlb, b.chan, b.work, b.prog, b.installs, b.req, b.nextReq, b.readLog, b.key, b.jx, b.slu, b.traffic, b.datum, x_sec, b.dma, b.saved, b.free, b.resets, b.pending⟩ := by
  refine ⟨fun p hp => ?_⟩
  cases p <;> first | exact h.same _ hp | exact absurd (mem_of_sub hm (by decide)) hp

theorem frame_slu {x_slu : Sluice} (h : Frame m a b) (hm : sub [.slu] m = true) :
    Frame m a ⟨b.bmk, b.pwr, b.cfg, b.svc, b.catchment, b.log, b.cnt, b.barrier, b.rgn, b.pair, b.blk, b.cap, b.tier, b.node, b.ctl, b.jtag, b.fuse, b.mem, b.sto, b.dir, b.tlb, b.chan, b.work, b.prog, b.installs, b.req, b.nextReq, b.readLog, b.key, b.jx, x_slu, b.traffic, b.datum, b.sec, b.dma, b.saved, b.free, b.resets, b.pending⟩ := by
  refine ⟨fun p hp => ?_⟩
  cases p <;> first | exact h.same _ hp | exact absurd (mem_of_sub hm (by decide)) hp

theorem frame_sto {x_sto : Stores} (h : Frame m a b) (hm : sub [.sto] m = true) :
    Frame m a ⟨b.bmk, b.pwr, b.cfg, b.svc, b.catchment, b.log, b.cnt, b.barrier, b.rgn, b.pair, b.blk, b.cap, b.tier, b.node, b.ctl, b.jtag, b.fuse, b.mem, x_sto, b.dir, b.tlb, b.chan, b.work, b.prog, b.installs, b.req, b.nextReq, b.readLog, b.key, b.jx, b.slu, b.traffic, b.datum, b.sec, b.dma, b.saved, b.free, b.resets, b.pending⟩ := by
  refine ⟨fun p hp => ?_⟩
  cases p <;> first | exact h.same _ hp | exact absurd (mem_of_sub hm (by decide)) hp

theorem frame_svc {x_svc : Svc} (h : Frame m a b) (hm : sub [.svc] m = true) :
    Frame m a ⟨b.bmk, b.pwr, b.cfg, x_svc, b.catchment, b.log, b.cnt, b.barrier, b.rgn, b.pair, b.blk, b.cap, b.tier, b.node, b.ctl, b.jtag, b.fuse, b.mem, b.sto, b.dir, b.tlb, b.chan, b.work, b.prog, b.installs, b.req, b.nextReq, b.readLog, b.key, b.jx, b.slu, b.traffic, b.datum, b.sec, b.dma, b.saved, b.free, b.resets, b.pending⟩ := by
  refine ⟨fun p hp => ?_⟩
  cases p <;> first | exact h.same _ hp | exact absurd (mem_of_sub hm (by decide)) hp

theorem frame_tier {x_tier : Tbl Tier} (h : Frame m a b) (hm : sub [.tier] m = true) :
    Frame m a ⟨b.bmk, b.pwr, b.cfg, b.svc, b.catchment, b.log, b.cnt, b.barrier, b.rgn, b.pair, b.blk, b.cap, x_tier, b.node, b.ctl, b.jtag, b.fuse, b.mem, b.sto, b.dir, b.tlb, b.chan, b.work, b.prog, b.installs, b.req, b.nextReq, b.readLog, b.key, b.jx, b.slu, b.traffic, b.datum, b.sec, b.dma, b.saved, b.free, b.resets, b.pending⟩ := by
  refine ⟨fun p hp => ?_⟩
  cases p <;> first | exact h.same _ hp | exact absurd (mem_of_sub hm (by decide)) hp

theorem frame_tlb {x_tlb : List TlbEnt} (h : Frame m a b) (hm : sub [.tlb] m = true) :
    Frame m a ⟨b.bmk, b.pwr, b.cfg, b.svc, b.catchment, b.log, b.cnt, b.barrier, b.rgn, b.pair, b.blk, b.cap, b.tier, b.node, b.ctl, b.jtag, b.fuse, b.mem, b.sto, b.dir, x_tlb, b.chan, b.work, b.prog, b.installs, b.req, b.nextReq, b.readLog, b.key, b.jx, b.slu, b.traffic, b.datum, b.sec, b.dma, b.saved, b.free, b.resets, b.pending⟩ := by
  refine ⟨fun p hp => ?_⟩
  cases p <;> first | exact h.same _ hp | exact absurd (mem_of_sub hm (by decide)) hp

theorem frame_traffic {x_traffic : Traffic} (h : Frame m a b) (hm : sub [.traffic] m = true) :
    Frame m a ⟨b.bmk, b.pwr, b.cfg, b.svc, b.catchment, b.log, b.cnt, b.barrier, b.rgn, b.pair, b.blk, b.cap, b.tier, b.node, b.ctl, b.jtag, b.fuse, b.mem, b.sto, b.dir, b.tlb, b.chan, b.work, b.prog, b.installs, b.req, b.nextReq, b.readLog, b.key, b.jx, b.slu, x_traffic, b.datum, b.sec, b.dma, b.saved, b.free, b.resets, b.pending⟩ := by
  refine ⟨fun p hp => ?_⟩
  cases p <;> first | exact h.same _ hp | exact absurd (mem_of_sub hm (by decide)) hp

theorem frame_work {x_work : Work} (h : Frame m a b) (hm : sub [.work] m = true) :
    Frame m a ⟨b.bmk, b.pwr, b.cfg, b.svc, b.catchment, b.log, b.cnt, b.barrier, b.rgn, b.pair, b.blk, b.cap, b.tier, b.node, b.ctl, b.jtag, b.fuse, b.mem, b.sto, b.dir, b.tlb, b.chan, x_work, b.prog, b.installs, b.req, b.nextReq, b.readLog, b.key, b.jx, b.slu, b.traffic, b.datum, b.sec, b.dma, b.saved, b.free, b.resets, b.pending⟩ := by
  refine ⟨fun p hp => ?_⟩
  cases p <;> first | exact h.same _ hp | exact absurd (mem_of_sub hm (by decide)) hp

theorem frame_bmk_cfg {x_bmk : Bmk} {x_cfg : Cfg} (h : Frame m a b) (hm : sub [.bmk, .cfg] m = true) :
    Frame m a ⟨x_bmk, b.pwr, x_cfg, b.svc, b.catchment, b.log, b.cnt, b.barrier, b.rgn, b.pair, b.blk, b.cap, b.tier, b.node, b.ctl, b.jtag, b.fuse, b.mem, b.sto, b.dir, b.tlb, b.chan, b.work, b.prog, b.installs, b.req, b.nextReq, b.readLog, b.key, b.jx, b.slu, b.traffic, b.datum, b.sec, b.dma, b.saved, b.free, b.resets, b.pending⟩ := by
  refine ⟨fun p hp => ?_⟩
  cases p <;> first | exact h.same _ hp | exact absurd (mem_of_sub hm (by decide)) hp

theorem frame_bmk_jx {x_bmk : Bmk} {x_jx : Jx} (h : Frame m a b) (hm : sub [.bmk, .jx] m = true) :
    Frame m a ⟨x_bmk, b.pwr, b.cfg, b.svc, b.catchment, b.log, b.cnt, b.barrier, b.rgn, b.pair, b.blk, b.cap, b.tier, b.node, b.ctl, b.jtag, b.fuse, b.mem, b.sto, b.dir, b.tlb, b.chan, b.work, b.prog, b.installs, b.req, b.nextReq, b.readLog, b.key, x_jx, b.slu, b.traffic, b.datum, b.sec, b.dma, b.saved, b.free, b.resets, b.pending⟩ := by
  refine ⟨fun p hp => ?_⟩
  cases p <;> first | exact h.same _ hp | exact absurd (mem_of_sub hm (by decide)) hp

theorem frame_bmk_pwr {x_bmk : Bmk} {x_pwr : Pwr} (h : Frame m a b) (hm : sub [.bmk, .pwr] m = true) :
    Frame m a ⟨x_bmk, x_pwr, b.cfg, b.svc, b.catchment, b.log, b.cnt, b.barrier, b.rgn, b.pair, b.blk, b.cap, b.tier, b.node, b.ctl, b.jtag, b.fuse, b.mem, b.sto, b.dir, b.tlb, b.chan, b.work, b.prog, b.installs, b.req, b.nextReq, b.readLog, b.key, b.jx, b.slu, b.traffic, b.datum, b.sec, b.dma, b.saved, b.free, b.resets, b.pending⟩ := by
  refine ⟨fun p hp => ?_⟩
  cases p <;> first | exact h.same _ hp | exact absurd (mem_of_sub hm (by decide)) hp

theorem frame_cfg_catchment {x_cfg : Cfg} {x_catchment : Catchment} (h : Frame m a b) (hm : sub [.cfg, .catchment] m = true) :
    Frame m a ⟨b.bmk, b.pwr, x_cfg, b.svc, x_catchment, b.log, b.cnt, b.barrier, b.rgn, b.pair, b.blk, b.cap, b.tier, b.node, b.ctl, b.jtag, b.fuse, b.mem, b.sto, b.dir, b.tlb, b.chan, b.work, b.prog, b.installs, b.req, b.nextReq, b.readLog, b.key, b.jx, b.slu, b.traffic, b.datum, b.sec, b.dma, b.saved, b.free, b.resets, b.pending⟩ := by
  refine ⟨fun p hp => ?_⟩
  cases p <;> first | exact h.same _ hp | exact absurd (mem_of_sub hm (by decide)) hp

theorem frame_cfg_ctl {x_cfg : Cfg} {x_ctl : Ctl} (h : Frame m a b) (hm : sub [.cfg, .ctl] m = true) :
    Frame m a ⟨b.bmk, b.pwr, x_cfg, b.svc, b.catchment, b.log, b.cnt, b.barrier, b.rgn, b.pair, b.blk, b.cap, b.tier, b.node, x_ctl, b.jtag, b.fuse, b.mem, b.sto, b.dir, b.tlb, b.chan, b.work, b.prog, b.installs, b.req, b.nextReq, b.readLog, b.key, b.jx, b.slu, b.traffic, b.datum, b.sec, b.dma, b.saved, b.free, b.resets, b.pending⟩ := by
  refine ⟨fun p hp => ?_⟩
  cases p <;> first | exact h.same _ hp | exact absurd (mem_of_sub hm (by decide)) hp

theorem frame_cfg_node {x_cfg : Cfg} {x_node : NodeStatus} (h : Frame m a b) (hm : sub [.cfg, .node] m = true) :
    Frame m a ⟨b.bmk, b.pwr, x_cfg, b.svc, b.catchment, b.log, b.cnt, b.barrier, b.rgn, b.pair, b.blk, b.cap, b.tier, x_node, b.ctl, b.jtag, b.fuse, b.mem, b.sto, b.dir, b.tlb, b.chan, b.work, b.prog, b.installs, b.req, b.nextReq, b.readLog, b.key, b.jx, b.slu, b.traffic, b.datum, b.sec, b.dma, b.saved, b.free, b.resets, b.pending⟩ := by
  refine ⟨fun p hp => ?_⟩
  cases p <;> first | exact h.same _ hp | exact absurd (mem_of_sub hm (by decide)) hp

theorem frame_chan_work {x_chan : Tbl Chan} {x_work : Work} (h : Frame m a b) (hm : sub [.chan, .work] m = true) :
    Frame m a ⟨b.bmk, b.pwr, b.cfg, b.svc, b.catchment, b.log, b.cnt, b.barrier, b.rgn, b.pair, b.blk, b.cap, b.tier, b.node, b.ctl, b.jtag, b.fuse, b.mem, b.sto, b.dir, b.tlb, x_chan, x_work, b.prog, b.installs, b.req, b.nextReq, b.readLog, b.key, b.jx, b.slu, b.traffic, b.datum, b.sec, b.dma, b.saved, b.free, b.resets, b.pending⟩ := by
  refine ⟨fun p hp => ?_⟩
  cases p <;> first | exact h.same _ hp | exact absurd (mem_of_sub hm (by decide)) hp

theorem frame_ctl_jx {x_ctl : Ctl} {x_jx : Jx} (h : Frame m a b) (hm : sub [.ctl, .jx] m = true) :
    Frame m a ⟨b.bmk, b.pwr, b.cfg, b.svc, b.catchment, b.log, b.cnt, b.barrier, b.rgn, b.pair, b.blk, b.cap, b.tier, b.node, x_ctl, b.jtag, b.fuse, b.mem, b.sto, b.dir, b.tlb, b.chan, b.work, b.prog, b.installs, b.req, b.nextReq, b.readLog, b.key, x_jx, b.slu, b.traffic, b.datum, b.sec, b.dma, b.saved, b.free, b.resets, b.pending⟩ := by
  refine ⟨fun p hp => ?_⟩
  cases p <;> first | exact h.same _ hp | exact absurd (mem_of_sub hm (by decide)) hp

theorem frame_mem_resets {x_mem : Mems} {x_resets : Nat} (h : Frame m a b) (hm : sub [.mem, .resets] m = true) :
    Frame m a ⟨b.bmk, b.pwr, b.cfg, b.svc, b.catchment, b.log, b.cnt, b.barrier, b.rgn, b.pair, b.blk, b.cap, b.tier, b.node, b.ctl, b.jtag, b.fuse, x_mem, b.sto, b.dir, b.tlb, b.chan, b.work, b.prog, b.installs, b.req, b.nextReq, b.readLog, b.key, b.jx, b.slu, b.traffic, b.datum, b.sec, b.dma, b.saved, b.free, x_resets, b.pending⟩ := by
  refine ⟨fun p hp => ?_⟩
  cases p <;> first | exact h.same _ hp | exact absurd (mem_of_sub hm (by decide)) hp

theorem frame_mem_sto {x_mem : Mems} {x_sto : Stores} (h : Frame m a b) (hm : sub [.mem, .sto] m = true) :
    Frame m a ⟨b.bmk, b.pwr, b.cfg, b.svc, b.catchment, b.log, b.cnt, b.barrier, b.rgn, b.pair, b.blk, b.cap, b.tier, b.node, b.ctl, b.jtag, b.fuse, x_mem, x_sto, b.dir, b.tlb, b.chan, b.work, b.prog, b.installs, b.req, b.nextReq, b.readLog, b.key, b.jx, b.slu, b.traffic, b.datum, b.sec, b.dma, b.saved, b.free, b.resets, b.pending⟩ := by
  refine ⟨fun p hp => ?_⟩
  cases p <;> first | exact h.same _ hp | exact absurd (mem_of_sub hm (by decide)) hp

theorem frame_prog_installs {x_prog : Tbl Prog} {x_installs : Tbl Install} (h : Frame m a b) (hm : sub [.prog, .installs] m = true) :
    Frame m a ⟨b.bmk, b.pwr, b.cfg, b.svc, b.catchment, b.log, b.cnt, b.barrier, b.rgn, b.pair, b.blk, b.cap, b.tier, b.node, b.ctl, b.jtag, b.fuse, b.mem, b.sto, b.dir, b.tlb, b.chan, b.work, x_prog, x_installs, b.req, b.nextReq, b.readLog, b.key, b.jx, b.slu, b.traffic, b.datum, b.sec, b.dma, b.saved, b.free, b.resets, b.pending⟩ := by
  refine ⟨fun p hp => ?_⟩
  cases p <;> first | exact h.same _ hp | exact absurd (mem_of_sub hm (by decide)) hp

theorem frame_pwr_cfg {x_pwr : Pwr} {x_cfg : Cfg} (h : Frame m a b) (hm : sub [.pwr, .cfg] m = true) :
    Frame m a ⟨b.bmk, x_pwr, x_cfg, b.svc, b.catchment, b.log, b.cnt, b.barrier, b.rgn, b.pair, b.blk, b.cap, b.tier, b.node, b.ctl, b.jtag, b.fuse, b.mem, b.sto, b.dir, b.tlb, b.chan, b.work, b.prog, b.installs, b.req, b.nextReq, b.readLog, b.key, b.jx, b.slu, b.traffic, b.datum, b.sec, b.dma, b.saved, b.free, b.resets, b.pending⟩ := by
  refine ⟨fun p hp => ?_⟩
  cases p <;> first | exact h.same _ hp | exact absurd (mem_of_sub hm (by decide)) hp

theorem frame_pwr_mem {x_pwr : Pwr} {x_mem : Mems} (h : Frame m a b) (hm : sub [.pwr, .mem] m = true) :
    Frame m a ⟨b.bmk, x_pwr, b.cfg, b.svc, b.catchment, b.log, b.cnt, b.barrier, b.rgn, b.pair, b.blk, b.cap, b.tier, b.node, b.ctl, b.jtag, b.fuse, x_mem, b.sto, b.dir, b.tlb, b.chan, b.work, b.prog, b.installs, b.req, b.nextReq, b.readLog, b.key, b.jx, b.slu, b.traffic, b.datum, b.sec, b.dma, b.saved, b.free, b.resets, b.pending⟩ := by
  refine ⟨fun p hp => ?_⟩
  cases p <;> first | exact h.same _ hp | exact absurd (mem_of_sub hm (by decide)) hp

theorem frame_pwr_svc {x_pwr : Pwr} {x_svc : Svc} (h : Frame m a b) (hm : sub [.pwr, .svc] m = true) :
    Frame m a ⟨b.bmk, x_pwr, b.cfg, x_svc, b.catchment, b.log, b.cnt, b.barrier, b.rgn, b.pair, b.blk, b.cap, b.tier, b.node, b.ctl, b.jtag, b.fuse, b.mem, b.sto, b.dir, b.tlb, b.chan, b.work, b.prog, b.installs, b.req, b.nextReq, b.readLog, b.key, b.jx, b.slu, b.traffic, b.datum, b.sec, b.dma, b.saved, b.free, b.resets, b.pending⟩ := by
  refine ⟨fun p hp => ?_⟩
  cases p <;> first | exact h.same _ hp | exact absurd (mem_of_sub hm (by decide)) hp

theorem frame_cfg_work_sec {x_cfg : Cfg} {x_work : Work} {x_sec : Sec} (h : Frame m a b) (hm : sub [.cfg, .work, .sec] m = true) :
    Frame m a ⟨b.bmk, b.pwr, x_cfg, b.svc, b.catchment, b.log, b.cnt, b.barrier, b.rgn, b.pair, b.blk, b.cap, b.tier, b.node, b.ctl, b.jtag, b.fuse, b.mem, b.sto, b.dir, b.tlb, b.chan, x_work, b.prog, b.installs, b.req, b.nextReq, b.readLog, b.key, b.jx, b.slu, b.traffic, b.datum, x_sec, b.dma, b.saved, b.free, b.resets, b.pending⟩ := by
  refine ⟨fun p hp => ?_⟩
  cases p <;> first | exact h.same _ hp | exact absurd (mem_of_sub hm (by decide)) hp

theorem frame_pwr_cfg_saved {x_pwr : Pwr} {x_cfg : Cfg} {x_saved : Option Saved} (h : Frame m a b) (hm : sub [.pwr, .cfg, .saved] m = true) :
    Frame m a ⟨b.bmk, x_pwr, x_cfg, b.svc, b.catchment, b.log, b.cnt, b.barrier, b.rgn, b.pair, b.blk, b.cap, b.tier, b.node, b.ctl, b.jtag, b.fuse, b.mem, b.sto, b.dir, b.tlb, b.chan, b.work, b.prog, b.installs, b.req, b.nextReq, b.readLog, b.key, b.jx, b.slu, b.traffic, b.datum, b.sec, b.dma, x_saved, b.free, b.resets, b.pending⟩ := by
  refine ⟨fun p hp => ?_⟩
  cases p <;> first | exact h.same _ hp | exact absurd (mem_of_sub hm (by decide)) hp

theorem frame_cfg_sto_dir_prog_key_jx_traffic_sec {x_cfg : Cfg} {x_sto : Stores} {x_dir : Tbl Seq} {x_prog : Tbl Prog} {x_key : Tbl KeySlot} {x_jx : Jx} {x_traffic : Traffic} {x_sec : Sec} (h : Frame m a b) (hm : sub [.cfg, .sto, .dir, .prog, .key, .jx, .traffic, .sec] m = true) :
    Frame m a ⟨b.bmk, b.pwr, x_cfg, b.svc, b.catchment, b.log, b.cnt, b.barrier, b.rgn, b.pair, b.blk, b.cap, b.tier, b.node, b.ctl, b.jtag, b.fuse, b.mem, x_sto, x_dir, b.tlb, b.chan, b.work, x_prog, b.installs, b.req, b.nextReq, b.readLog, x_key, x_jx, b.slu, x_traffic, b.datum, x_sec, b.dma, b.saved, b.free, b.resets, b.pending⟩ := by
  refine ⟨fun p hp => ?_⟩
  cases p <;> first | exact h.same _ hp | exact absurd (mem_of_sub hm (by decide)) hp

theorem frame_chan_work_installs_req_jx_slu_datum_dma {x_chan : Tbl Chan} {x_work : Work} {x_installs : Tbl Install} {x_req : Tbl Req} {x_jx : Jx} {x_slu : Sluice} {x_datum : Datum} {x_dma : Tbl DmaCh} (h : Frame m a b) (hm : sub [.chan, .work, .installs, .req, .jx, .slu, .datum, .dma] m = true) :
    Frame m a ⟨b.bmk, b.pwr, b.cfg, b.svc, b.catchment, b.log, b.cnt, b.barrier, b.rgn, b.pair, b.blk, b.cap, b.tier, b.node, b.ctl, b.jtag, b.fuse, b.mem, b.sto, b.dir, b.tlb, x_chan, x_work, b.prog, x_installs, x_req, b.nextReq, b.readLog, b.key, x_jx, x_slu, b.traffic, x_datum, b.sec, x_dma, b.saved, b.free, b.resets, b.pending⟩ := by
  refine ⟨fun p hp => ?_⟩
  cases p <;> first | exact h.same _ hp | exact absurd (mem_of_sub hm (by decide)) hp

theorem frame_work_jx {x_work : Work} {x_jx : Jx} (h : Frame m a b) (hm : sub [.work, .jx] m = true) :
    Frame m a ⟨b.bmk, b.pwr, b.cfg, b.svc, b.catchment, b.log, b.cnt, b.barrier, b.rgn, b.pair, b.blk, b.cap, b.tier, b.node, b.ctl, b.jtag, b.fuse, b.mem, b.sto, b.dir, b.tlb, b.chan, x_work, b.prog, b.installs, b.req, b.nextReq, b.readLog, b.key, x_jx, b.slu, b.traffic, b.datum, b.sec, b.dma, b.saved, b.free, b.resets, b.pending⟩ := by
  refine ⟨fun p hp => ?_⟩
  cases p <;> first | exact h.same _ hp | exact absurd (mem_of_sub hm (by decide)) hp

theorem frame_cfg_node_jx {x_cfg : Cfg} {x_node : NodeStatus} {x_jx : Jx} (h : Frame m a b) (hm : sub [.cfg, .node, .jx] m = true) :
    Frame m a ⟨b.bmk, b.pwr, x_cfg, b.svc, b.catchment, b.log, b.cnt, b.barrier, b.rgn, b.pair, b.blk, b.cap, b.tier, x_node, b.ctl, b.jtag, b.fuse, b.mem, b.sto, b.dir, b.tlb, b.chan, b.work, b.prog, b.installs, b.req, b.nextReq, b.readLog, b.key, x_jx, b.slu, b.traffic, b.datum, b.sec, b.dma, b.saved, b.free, b.resets, b.pending⟩ := by
  refine ⟨fun p hp => ?_⟩
  cases p <;> first | exact h.same _ hp | exact absurd (mem_of_sub hm (by decide)) hp

theorem frame_pwr_jtag {x_pwr : Pwr} {x_jtag : Jtag} (h : Frame m a b) (hm : sub [.pwr, .jtag] m = true) :
    Frame m a ⟨b.bmk, x_pwr, b.cfg, b.svc, b.catchment, b.log, b.cnt, b.barrier, b.rgn, b.pair, b.blk, b.cap, b.tier, b.node, b.ctl, x_jtag, b.fuse, b.mem, b.sto, b.dir, b.tlb, b.chan, b.work, b.prog, b.installs, b.req, b.nextReq, b.readLog, b.key, b.jx, b.slu, b.traffic, b.datum, b.sec, b.dma, b.saved, b.free, b.resets, b.pending⟩ := by
  refine ⟨fun p hp => ?_⟩
  cases p <;> first | exact h.same _ hp | exact absurd (mem_of_sub hm (by decide)) hp

theorem frame_chan_work_installs_req_jx_slu_datum {x_chan : Tbl Chan} {x_work : Work} {x_installs : Tbl Install} {x_req : Tbl Req} {x_jx : Jx} {x_slu : Sluice} {x_datum : Datum} (h : Frame m a b) (hm : sub [.chan, .work, .installs, .req, .jx, .slu, .datum] m = true) :
    Frame m a ⟨b.bmk, b.pwr, b.cfg, b.svc, b.catchment, b.log, b.cnt, b.barrier, b.rgn, b.pair, b.blk, b.cap, b.tier, b.node, b.ctl, b.jtag, b.fuse, b.mem, b.sto, b.dir, b.tlb, x_chan, x_work, b.prog, x_installs, x_req, b.nextReq, b.readLog, b.key, x_jx, x_slu, b.traffic, x_datum, b.sec, b.dma, b.saved, b.free, b.resets, b.pending⟩ := by
  refine ⟨fun p hp => ?_⟩
  cases p <;> first | exact h.same _ hp | exact absurd (mem_of_sub hm (by decide)) hp

theorem frame_pwr_cfg_node {x_pwr : Pwr} {x_cfg : Cfg} {x_node : NodeStatus} (h : Frame m a b) (hm : sub [.pwr, .cfg, .node] m = true) :
    Frame m a ⟨b.bmk, x_pwr, x_cfg, b.svc, b.catchment, b.log, b.cnt, b.barrier, b.rgn, b.pair, b.blk, b.cap, b.tier, x_node, b.ctl, b.jtag, b.fuse, b.mem, b.sto, b.dir, b.tlb, b.chan, b.work, b.prog, b.installs, b.req, b.nextReq, b.readLog, b.key, b.jx, b.slu, b.traffic, b.datum, b.sec, b.dma, b.saved, b.free, b.resets, b.pending⟩ := by
  refine ⟨fun p hp => ?_⟩
  cases p <;> first | exact h.same _ hp | exact absurd (mem_of_sub hm (by decide)) hp

theorem frame_saved_free {x_saved : Option Saved} {x_free : Nat} (h : Frame m a b) (hm : sub [.saved, .free] m = true) :
    Frame m a ⟨b.bmk, b.pwr, b.cfg, b.svc, b.catchment, b.log, b.cnt, b.barrier, b.rgn, b.pair, b.blk, b.cap, b.tier, b.node, b.ctl, b.jtag, b.fuse, b.mem, b.sto, b.dir, b.tlb, b.chan, b.work, b.prog, b.installs, b.req, b.nextReq, b.readLog, b.key, b.jx, b.slu, b.traffic, b.datum, b.sec, b.dma, x_saved, x_free, b.resets, b.pending⟩ := by
  refine ⟨fun p hp => ?_⟩
  cases p <;> first | exact h.same _ hp | exact absurd (mem_of_sub hm (by decide)) hp

theorem frame_work_req {x_work : Work} {x_req : Tbl Req} (h : Frame m a b) (hm : sub [.work, .req] m = true) :
    Frame m a ⟨b.bmk, b.pwr, b.cfg, b.svc, b.catchment, b.log, b.cnt, b.barrier, b.rgn, b.pair, b.blk, b.cap, b.tier, b.node, b.ctl, b.jtag, b.fuse, b.mem, b.sto, b.dir, b.tlb, b.chan, x_work, b.prog, b.installs, x_req, b.nextReq, b.readLog, b.key, b.jx, b.slu, b.traffic, b.datum, b.sec, b.dma, b.saved, b.free, b.resets, b.pending⟩ := by
  refine ⟨fun p hp => ?_⟩
  cases p <;> first | exact h.same _ hp | exact absurd (mem_of_sub hm (by decide)) hp

theorem frame_sto_dir {x_sto : Stores} {x_dir : Tbl Seq} (h : Frame m a b) (hm : sub [.sto, .dir] m = true) :
    Frame m a ⟨b.bmk, b.pwr, b.cfg, b.svc, b.catchment, b.log, b.cnt, b.barrier, b.rgn, b.pair, b.blk, b.cap, b.tier, b.node, b.ctl, b.jtag, b.fuse, b.mem, x_sto, x_dir, b.tlb, b.chan, b.work, b.prog, b.installs, b.req, b.nextReq, b.readLog, b.key, b.jx, b.slu, b.traffic, b.datum, b.sec, b.dma, b.saved, b.free, b.resets, b.pending⟩ := by
  refine ⟨fun p hp => ?_⟩
  cases p <;> first | exact h.same _ hp | exact absurd (mem_of_sub hm (by decide)) hp

end Sys2Proof.Laws
end

