-- ==== Sys2Proof/Laws/FrameOps.lean ====
section
/-! SUPPORT. Frames of the shared operations, transport state, storage and maps: one lemma per definition, found by walking its own text. -/

namespace Sys2Proof.Laws

open Sys2Proof.Machine

variable {m : List Part} {a s : State}

set_option linter.all false

/-! ## Machine/Ops.lean -/

theorem countN_frame (w : ℕ) (off : ℕ) (n : ℕ) (h : Frame m a s) (hm : sub [.cnt] m = true) : Frame m a (countN w off n s) := by
  unfold countN
  repeat' first
    | with_reducible assumption | fail_if_no_progress ((with_reducible apply frame_cnt (hm := sub_trans rfl hm)))

theorem count_frame (off : ℕ) (h : Frame m a s) (hm : sub [.cnt] m = true) : Frame m a (count off s) := by
  unfold count
  repeat' first
    | with_reducible assumption | with_reducible apply countN_frame

theorem takeFree_frame  (h : Frame m a s) (hm : sub [.free] m = true) : FrameP m a (takeFree s) := by
  unfold takeFree
  repeat' first
    | with_reducible assumption | with_reducible apply FrameP.mk' | fail_if_no_progress ((with_reducible apply frame_free (hm := sub_trans rfl hm)))

theorem settle_frame  (h : Frame m a s) (hm : sub [.catchment] m = true) : Frame m a (settle s) := by
  unfold settle
  repeat' first
    | with_reducible assumption | fail_if_no_progress ((with_reducible apply frame_catchment (hm := sub_trans rfl hm)))

theorem fireSource_frame (id : ℕ) (h : Frame m a s) (hm : sub [.catchment] m = true) : Frame m a (fireSource id s) := by
  unfold fireSource
  repeat' first
    | with_reducible assumption | with_reducible apply settle_frame
    | fail_if_no_progress ((with_reducible apply frame_catchment (hm := sub_trans rfl hm)))

theorem logRecord_frame (ring : ℕ) (sev : ℕ) (kind : ℕ) (src : ℕ) (bit : ℕ) (event : ℕ) (d : Detail) (h : Frame m a s) (hm : sub [.log] m = true) : Frame m a (logRecord ring sev kind src bit event d s) := by
  unfold logRecord
  repeat' first
    | with_reducible assumption | dsimp only [id_eq] | fail_if_no_progress ((with_reducible apply frame_log (hm := sub_trans rfl hm)))

theorem setCause_frame (l : Leaf) (h : Frame m a s) (hm : sub [.catchment] m = true) : Frame m a (setCause l s) := by
  unfold setCause
  repeat' first
    | with_reducible assumption | dsimp only [id_eq] | fail_if_no_progress ((with_reducible apply frame_catchment (hm := sub_trans rfl hm)))

theorem dropCause_frame (l : Leaf) (h : Frame m a s) (hm : sub [.catchment] m = true) : Frame m a (dropCause l s) := by
  unfold dropCause
  repeat' first
    | with_reducible assumption | intro _ | exact sub_trans rfl hm | dsimp only [id_eq]
    | fail_if_no_progress ((with_reducible apply frame_catchment (hm := sub_trans rfl hm)))

theorem setAndFire_frame (l : Leaf) (h : Frame m a s) (hm : sub [.catchment] m = true) : Frame m a (setAndFire l s) := by
  unfold setAndFire
  repeat' first
    | with_reducible assumption | intro _ | with_reducible apply setCause_frame | with_reducible apply fireSource_frame
    | with_reducible apply frame_ite

theorem raise_frame (l : Leaf) (d : Detail) (h : Frame m a s) (hm : sub [.catchment, .log] m = true) : Frame m a (raise l d s) := by
  unfold raise
  repeat' first
    | with_reducible assumption | exact sub_trans rfl hm | with_reducible apply setAndFire_frame | with_reducible apply logRecord_frame

theorem raiseCount_frame (l : Leaf) (off : ℕ) (d : Detail) (h : Frame m a s) (hm : sub [.catchment, .log, .cnt] m = true) : Frame m a (raiseCount l off d s) := by
  unfold raiseCount
  repeat' first
    | with_reducible assumption | exact sub_trans rfl hm | with_reducible apply count_frame | with_reducible apply raise_frame

theorem logEvent_frame (ring : ℕ) (event : ℕ) (l : Option Leaf) (d : Detail) (h : Frame m a s) (hm : sub [.catchment, .log] m = true) : Frame m a (logEvent ring event l d s) := by
  unfold logEvent
  repeat' first
    | with_reducible assumption | exact sub_trans rfl hm | with_reducible apply logRecord_frame | with_reducible apply setAndFire_frame | split

theorem stateRefused_frame (l : Leaf) (slot : Option ℕ) (o : RefusedObj) (h : Frame m a s) (hm : sub [.catchment, .log, .cnt] m = true) : Frame m a (stateRefused l slot o s) := by
  unfold stateRefused
  repeat' first
    | with_reducible assumption | exact sub_trans rfl hm | with_reducible apply setAndFire_frame | with_reducible apply logRecord_frame
    | with_reducible apply count_frame | split

theorem setRgn_frame (r : ℕ) (g : Rgn) (h : Frame m a s) (hm : sub [.rgn] m = true) : Frame m a (setRgn r g s) := by
  unfold setRgn
  repeat' first
    | with_reducible assumption | fail_if_no_progress ((with_reducible apply frame_rgn (hm := sub_trans rfl hm)))

theorem markBusy_frame (r : ℕ) (h : Frame m a s) (hm : sub [.rgn] m = true) : Frame m a (markBusy r s) := by
  unfold markBusy
  repeat' first
    | with_reducible assumption | intro _ | exact sub_trans rfl hm | with_reducible apply setRgn_frame | dsimp only [id_eq]

theorem tick_frame (h : Frame m a s) (hm : sub [.bmk] m = true) : Frame m a (tick s) := by
  unfold tick
  repeat' first
    | with_reducible assumption | intro _ | exact sub_trans rfl hm | with_reducible apply frame_ite | split | dsimp only [id_eq]
    | fail_if_no_progress ((with_reducible apply frame_bmk (hm := sub_trans rfl hm)))

/-! ## Machine/Net.lean -/

theorem countTenant_frame (t : ℕ) (o : ℕ) (h : Frame m a s) (hm : sub [.cnt] m = true) : Frame m a (countTenant t o s) := by
  unfold countTenant
  repeat' first
    | with_reducible assumption | with_reducible apply count_frame | split

theorem joinEq_frame (q : ℕ) (p : QPkt) (h : Frame m a s) (hm : sub [.jx] m = true) : Frame m a (joinEq q p s) := by
  unfold joinEq
  repeat' first
    | with_reducible assumption | split | dsimp only [id_eq] | fail_if_no_progress ((with_reducible apply frame_jx (hm := sub_trans rfl hm)))

theorem joinControl_frame (port : ℕ) (p : QPkt) (h : Frame m a s) (hm : sub [.jx] m = true) : Frame m a (joinControl port p s) := by
  unfold joinControl
  repeat' first
    | with_reducible assumption | dsimp only [id_eq] | fail_if_no_progress ((with_reducible apply frame_jx (hm := sub_trans rfl hm)))

theorem queuePkt_frame (p : Pkt) (part : Option (ℕ × Bool)) (again : Bool) (h : Frame m a s) (hm : sub [.jx] m = true) : Frame m a (queuePkt p part again s) := by
  unfold queuePkt
  repeat' first
    | with_reducible assumption | intro _ | exact sub_trans rfl hm | with_reducible apply joinControl_frame | with_reducible apply joinEq_frame
    | with_reducible apply frame_ite | split | dsimp only [id_eq]

theorem takeMsgId_frame (die : ℕ) (h : Frame m a s) (hm : sub [.jx] m = true) : FrameP m a (takeMsgId die s) := by
  unfold takeMsgId
  repeat' first
    | with_reducible assumption | with_reducible apply FrameP.mk' | dsimp only [id_eq]
    | fail_if_no_progress ((with_reducible apply frame_jx (hm := sub_trans rfl hm)))

theorem transmit_frame (id : ℕ) (idx : ℕ) (a_ : ℕ) (h : Frame m a s) (hm : sub [.jx] m = true) : Frame m a (transmit id idx a_ s) := by
  unfold transmit
  repeat' first
    | with_reducible assumption | intro _ | exact sub_trans rfl hm | with_reducible apply queuePkt_frame | with_reducible apply Frame.getD | split
    | dsimp only [id_eq] | fail_if_no_progress ((with_reducible apply frame_jx (hm := sub_trans rfl hm)))

theorem pumpPkts_frame (id : ℕ) (p1 : List ℕ) (h : Frame m a s) (hm : sub [.jx] m = true) : Frame m a (pumpPkts id p1 s) := by
  induction p1 generalizing s with
  | nil =>
    unfold pumpPkts
    repeat' first
      | with_reducible assumption | intro _ | exact sub_trans rfl hm | with_reducible apply transmit_frame | with_reducible apply frame_ite | split
      | dsimp only [id_eq] | fail_if_no_progress ((with_reducible apply frame_jx (hm := sub_trans rfl hm)))
  | cons _ _ ih =>
    unfold pumpPkts
    repeat' first
      | with_reducible assumption | intro _ | (apply ih) | exact sub_trans rfl hm | with_reducible apply transmit_frame
      | with_reducible apply frame_ite | split | dsimp only [id_eq] | fail_if_no_progress ((with_reducible apply frame_jx (hm := sub_trans rfl hm)))

theorem startMsg_frame (id : ℕ) (h : Frame m a s) (hm : sub [.jx] m = true) : Frame m a (startMsg id s) := by
  unfold startMsg
  repeat' first
    | with_reducible assumption | intro _ | exact sub_trans rfl hm | with_reducible apply pumpPkts_frame | with_reducible apply frame_ite | split
    | dsimp only [id_eq]

theorem keyRefused_frame (op : ℕ) (h : Frame m a s) (hm : sub [.catchment, .log] m = true) : Frame m a (keyRefused op s) := by
  unfold keyRefused
  repeat' first
    | with_reducible assumption | intro _ | with_reducible apply raise_frame | with_reducible apply frame_ite

theorem sendMsg_frame (die : ℕ) (m_ : OutMsg) (h : Frame m a s) (hm : sub [.catchment, .log, .jx] m = true) : FrameP m a (sendMsg die m_ s) := by
  unfold sendMsg
  repeat' first
    | with_reducible assumption | intro _ | exact sub_trans rfl hm | with_reducible apply raise_frame | with_reducible apply keyRefused_frame
    | with_reducible apply takeMsgId_frame | with_reducible apply startMsg_frame | ((with_reducible apply Frame.out); with_reducible assumption)
    | with_reducible apply frameP_ite | split | with_reducible apply FrameP.mk' | dsimp only [id_eq]
    | fail_if_no_progress ((with_reducible apply frame_jx (hm := sub_trans rfl hm)))

theorem sendOnce_frame (die : ℕ) (op : ℕ) (dst : ℕ) (tenant : ℕ) (imm : ℕ) (epoch : ℕ) (src : Option (BitVec 128)) (part : Option (ℕ × Bool)) (data : Bytes) (h : Frame m a s) (hm : sub [.catchment, .log, .jx] m = true) : Frame m a (sendOnce die op dst tenant imm epoch src part data s) := by
  unfold sendOnce
  repeat' first
    | with_reducible assumption | intro _ | exact sub_trans rfl hm | with_reducible apply keyRefused_frame | with_reducible apply queuePkt_frame
    | ((with_reducible apply FrameP.snd); with_reducible apply takeMsgId_frame) | with_reducible apply frame_foldl | with_reducible apply frame_ite

theorem sendAllPorts_frame (die : ℕ) (op : ℕ) (dst : ℕ) (data : Bytes) (h : Frame m a s) (hm : sub [.catchment, .log, .jx] m = true) : Frame m a (sendAllPorts die op dst data s) := by
  unfold sendAllPorts
  repeat' first
    | with_reducible assumption | intro _ | exact sub_trans rfl hm | with_reducible apply keyRefused_frame | with_reducible apply takeMsgId_frame
    | with_reducible apply joinControl_frame | ((with_reducible apply Frame.out); with_reducible assumption) | with_reducible apply frame_foldl
    | with_reducible apply frameP_foldl | with_reducible apply frame_ite | with_reducible apply frameP_ite | split
    | ((with_reducible apply FrameP.snd); with_reducible apply takeMsgId_frame) | with_reducible apply FrameP.mk' | dsimp only [id_eq]

theorem sendBack_frame (op : ℕ) (dst : ℕ) (path : ℕ) (addr : BitVec 128) (ce : Bool) (data : Bytes) (h : Frame m a s) (hm : sub [.catchment, .log, .jx] m = true) : Frame m a (sendBack op dst path addr ce data s) := by
  unfold sendBack
  repeat' first
    | with_reducible assumption | intro _ | exact sub_trans rfl hm | with_reducible apply keyRefused_frame | with_reducible apply queuePkt_frame
    | with_reducible apply frame_ite

/-! ## Machine/Store.lean -/

theorem useFast_frame (a_ : ℕ) (size : ℕ) (tenant : ℕ) (u : StoreUse) (h : Frame m a s) (hm : sub [.sto] m = true) : Frame m a (useFast a_ size tenant u s) := by
  unfold useFast
  repeat' first
    | with_reducible assumption | dsimp only [id_eq] | fail_if_no_progress ((with_reducible apply frame_sto (hm := sub_trans rfl hm)))

theorem useDeep_frame (a_ : ℕ) (size : ℕ) (tenant : ℕ) (u : StoreUse) (h : Frame m a s) (hm : sub [.sto] m = true) : Frame m a (useDeep a_ size tenant u s) := by
  unfold useDeep
  repeat' first
    | with_reducible assumption | dsimp only [id_eq] | fail_if_no_progress ((with_reducible apply frame_sto (hm := sub_trans rfl hm)))

theorem noteAliased_frame (a_ : ℕ) (n : ℕ) (h : Frame m a s) (hm : sub [.cnt] m = true) : Frame m a (noteAliased a_ n s) := by
  unfold noteAliased
  repeat' first
    | with_reducible assumption | intro _ | exact sub_trans rfl hm | with_reducible apply count_frame | with_reducible apply frame_ite | split
    | dsimp only [id_eq]

theorem takePageFrame_frame (f : FrameFound) (home : ℕ) (size : ℕ) (tenant : ℕ) (u : StoreUse) (h : Frame m a s) (hm : sub [.cnt, .sto] m = true) : Frame m a (takePageFrame f home size tenant u s) := by
  unfold takePageFrame
  repeat' first
    | with_reducible assumption | intro _ | exact sub_trans rfl hm | with_reducible apply useFast_frame | with_reducible apply count_frame
    | with_reducible apply frame_ite

theorem takeZeroed_frame (a_ : ℕ) (size : ℕ) (slot : ℕ) (tenant : ℕ) (h : Frame m a s) (hm : sub [.cnt, .mem, .sto] m = true) : Frame m a (takeZeroed a_ size slot tenant s) := by
  unfold takeZeroed
  repeat' first
    | with_reducible assumption | intro _ | exact sub_trans rfl hm | with_reducible apply noteAliased_frame | with_reducible apply useFast_frame
    | dsimp only [id_eq] | fail_if_no_progress ((with_reducible apply frame_mem (hm := sub_trans rfl hm)))

theorem takeUnits_frame (r : ℕ) (slot : ℕ) (tenant : ℕ) (n : ℕ) (h : Frame m a s) (hm : sub [.cnt, .mem, .sto] m = true) : FrameOP m a (takeUnits r slot tenant n s) := by
  unfold takeUnits
  repeat' first
    | with_reducible assumption | intro _ | with_reducible apply takeZeroed_frame | with_reducible apply frameOP_foldl
    | with_reducible exact FrameOP.out ‹FrameOP m a (some (_, _))› _ _ rfl | with_reducible apply frameOP_map | split
    | with_reducible apply FrameOP.mk' | with_reducible apply FrameP.mk'

theorem takeSpan_frame (r : ℕ) (slot : ℕ) (tenant : ℕ) (n : ℕ) (h : Frame m a s) (hm : sub [.cnt, .mem, .sto] m = true) : FrameOP m a (takeSpan r slot tenant n s) := by
  unfold takeSpan
  repeat' first
    | with_reducible assumption | intro _ | with_reducible apply takeZeroed_frame | with_reducible apply frameOP_map | with_reducible apply FrameP.mk'

theorem releaseFast_frame (sealed_ : Bool) (a_ : ℕ) (h : Frame m a s) (hm : sub [.sto] m = true) : Frame m a (releaseFast sealed_ a_ s) := by
  unfold releaseFast
  repeat' first
    | with_reducible assumption | intro _ | with_reducible apply frame_ite | split | dsimp only [id_eq]
    | fail_if_no_progress ((with_reducible apply frame_sto (hm := sub_trans rfl hm)))

theorem releaseDeep_frame (sealed_ : Bool) (a_ : ℕ) (h : Frame m a s) (hm : sub [.sto] m = true) : Frame m a (releaseDeep sealed_ a_ s) := by
  unfold releaseDeep
  repeat' first
    | with_reducible assumption | intro _ | with_reducible apply frame_ite | split | dsimp only [id_eq]
    | fail_if_no_progress ((with_reducible apply frame_sto (hm := sub_trans rfl hm)))

theorem setSeq_frame (slot : ℕ) (q : Machine.Seq) (h : Frame m a s) (hm : sub [.dir] m = true) : Frame m a (setSeq slot q s) := by
  unfold setSeq
  repeat' first
    | with_reducible assumption | fail_if_no_progress ((with_reducible apply frame_dir (hm := sub_trans rfl hm)))

theorem stopUnitJob_frame (j : UnitJob) (h : Frame m a s) (hm : sub [.chan] m = true) : Frame m a (stopUnitJob j s) := by
  unfold stopUnitJob
  repeat' first
    | with_reducible assumption | dsimp only [id_eq] | fail_if_no_progress ((with_reducible apply frame_chan (hm := sub_trans rfl hm)))

theorem releaseSeq_frame (slot : ℕ) (h : Frame m a s) (hm : sub [.dir, .chan, .datum] m = true) : Frame m a (releaseSeq slot s) := by
  unfold releaseSeq
  repeat' first
    | with_reducible assumption | intro _ | exact sub_trans rfl hm | with_reducible apply stopUnitJob_frame | with_reducible apply setSeq_frame
    | with_reducible apply frame_ite | dsimp only [id_eq] | fail_if_no_progress ((with_reducible apply frame_datum (hm := sub_trans rfl hm)))

theorem sweepMoved_frame  (h : Frame m a s) (hm : sub [.dir, .chan, .datum] m = true) : Frame m a (sweepMoved s) := by
  unfold sweepMoved
  repeat' first
    | with_reducible assumption | intro _ | with_reducible apply releaseSeq_frame | with_reducible apply frame_foldl | with_reducible apply frame_ite
    | dsimp only [id_eq] | fail_if_no_progress ((with_reducible apply frame_datum (hm := sub_trans rfl hm)))

theorem enterSeq_frame (slot : ℕ) (h : Frame m a s) (hm : sub [.dir] m = true) : Frame m a (enterSeq slot s) := by
  unfold enterSeq
  repeat' first
    | with_reducible assumption | with_reducible apply setSeq_frame

theorem leaveSeq_frame (slot : ℕ) (h : Frame m a s) (hm : sub [.dir, .chan, .datum] m = true) : Frame m a (leaveSeq slot s) := by
  unfold leaveSeq
  repeat' first
    | with_reducible assumption | intro _ | exact sub_trans rfl hm | with_reducible apply sweepMoved_frame | with_reducible apply setSeq_frame
    | dsimp only [id_eq]

theorem setTen_frame (slot : ℕ) (ti : ℕ) (t : Ten) (h : Frame m a s) (hm : sub [.dir] m = true) : Frame m a (setTen slot ti t s) := by
  unfold setTen
  repeat' first
    | with_reducible assumption | with_reducible apply setSeq_frame

theorem setEntry_frame (a_ : ℕ) (v : ℕ) (h : Frame m a s) (hm : sub [.mem] m = true) : Frame m a (setEntry a_ v s) := by
  unfold setEntry
  repeat' first
    | with_reducible assumption | dsimp only [id_eq] | fail_if_no_progress ((with_reducible apply frame_mem (hm := sub_trans rfl hm)))

theorem leafSlot_frame (slot : ℕ) (sv : ℕ) (h : Frame m a s) (hm : sub [.cnt, .mem, .sto] m = true) : FrameOP m a (leafSlot slot sv s) := by
  unfold leafSlot
  repeat' first
    | with_reducible assumption | intro _ | exact sub_trans rfl hm | with_reducible apply takeUnits_frame | with_reducible apply setEntry_frame
    | ((with_reducible apply Frame.outO); with_reducible assumption) | ((with_reducible apply Frame.outOP); with_reducible assumption)
    | with_reducible apply frameO_ite | split | with_reducible apply FrameO.mk' | with_reducible apply FrameO.none_ | with_reducible apply FrameOP.mk'
    | with_reducible apply FrameOP.none_ | dsimp only [id_eq]

theorem setLeaf_frame (slot : ℕ) (ti : ℕ) (idx : ℕ) (leaf : ℕ) (h : Frame m a s) (hm : sub [.cnt, .mem, .sto] m = true) : FrameO m a (setLeaf slot ti idx leaf s) := by
  unfold setLeaf
  repeat' first
    | with_reducible assumption | intro _ | exact sub_trans rfl hm | with_reducible apply setEntry_frame | with_reducible apply leafSlot_frame
    | ((with_reducible apply Frame.outOP); with_reducible assumption) | with_reducible apply frameO_map

theorem tlbDropPage_frame (slot : ℕ) (vpn : ℕ) (h : Frame m a s) (hm : sub [.tlb] m = true) : Frame m a (tlbDropPage slot vpn s) := by
  unfold tlbDropPage
  repeat' first
    | with_reducible assumption | intro _ | exact sub_trans rfl hm | dsimp only [id_eq]
    | fail_if_no_progress ((with_reducible apply frame_tlb (hm := sub_trans rfl hm)))

theorem tlbDropSlot_frame (slot : ℕ) (h : Frame m a s) (hm : sub [.tlb] m = true) : Frame m a (tlbDropSlot slot s) := by
  unfold tlbDropSlot
  repeat' first
    | with_reducible assumption | fail_if_no_progress ((with_reducible apply frame_tlb (hm := sub_trans rfl hm)))

theorem walkerFill_frame (region : ℕ) (slot : ℕ) (sv : ℕ) (h : Frame m a s) (hm : sub [.tlb] m = true) : Frame m a (walkerFill region slot sv s) := by
  unfold walkerFill
  repeat' first
    | with_reducible assumption | intro _ | exact sub_trans rfl hm | with_reducible apply frame_ite | split | dsimp only [id_eq]
    | fail_if_no_progress ((with_reducible apply frame_tlb (hm := sub_trans rfl hm)))

theorem walkIn_frame (region : ℕ) (slot : ℕ) (sv : ℕ) (h : Frame m a s) (hm : sub [.tlb] m = true) : FrameP m a (walkIn region slot sv s) := by
  unfold walkIn
  repeat' first
    | with_reducible assumption | intro _ | exact sub_trans rfl hm | with_reducible apply walkerFill_frame | with_reducible apply FrameP.mk'
    | dsimp only [id_eq]

theorem translate_frame (slot : ℕ) (vpn : ℕ) (sv : ℕ) (region : ℕ) (block : ℕ) (h : Frame m a s) (hm : sub [.tlb] m = true) : FrameP m a (Machine.translate slot vpn sv region block s) := by
  unfold Machine.translate
  repeat' first
    | with_reducible assumption | intro _ | exact sub_trans rfl hm | with_reducible apply walkIn_frame
    | ((with_reducible apply Frame.out); with_reducible assumption) | split | ((with_reducible apply FrameP.snd); with_reducible apply walkIn_frame)
    | with_reducible apply FrameP.mk' | dsimp only [id_eq] | fail_if_no_progress ((with_reducible apply frame_tlb (hm := sub_trans rfl hm)))

theorem writeFast_frame (a_ : ℕ) (bs : Bytes) (h : Frame m a s) (hm : sub [.mem] m = true) : Frame m a (writeFast a_ bs s) := by
  unfold writeFast
  repeat' first
    | with_reducible assumption | dsimp only [id_eq] | fail_if_no_progress ((with_reducible apply frame_mem (hm := sub_trans rfl hm)))

theorem writeDeep_frame (a_ : ℕ) (bs : Bytes) (h : Frame m a s) (hm : sub [.mem] m = true) : Frame m a (writeDeep a_ bs s) := by
  unfold writeDeep
  repeat' first
    | with_reducible assumption | dsimp only [id_eq] | fail_if_no_progress ((with_reducible apply frame_mem (hm := sub_trans rfl hm)))

theorem dirtyPage_frame (slot : ℕ) (ti : ℕ) (idx : ℕ) (h : Frame m a s) (hm : sub [.dir] m = true) : Frame m a (dirtyPage slot ti idx s) := by
  unfold dirtyPage
  repeat' first
    | with_reducible assumption | intro _ | with_reducible apply setTen_frame | with_reducible apply frame_ite

theorem setTokens_frame (r : ℕ) (p : ℕ) (v : ℕ) (h : Frame m a s) (hm : sub [.traffic] m = true) : Frame m a (setTokens r p v s) := by
  unfold setTokens
  repeat' first
    | with_reducible assumption | intro _ | exact sub_trans rfl hm | dsimp only [id_eq]
    | fail_if_no_progress ((with_reducible apply frame_traffic (hm := sub_trans rfl hm)))

/-! ## Machine/Crypt.lean -/

theorem writeFastFor_frame (tenant : ℕ) (a_ : ℕ) (bs : Bytes) (h : Frame m a s) (hm : sub [.mem] m = true) : Frame m a (writeFastFor tenant a_ bs s) := by
  unfold writeFastFor
  repeat' first
    | with_reducible assumption | with_reducible apply writeFast_frame | split

theorem setWin_frame (id : ℕ) (w : Window) (h : Frame m a s) (hm : sub [.slu] m = true) : Frame m a (setWin id w s) := by
  unfold setWin
  repeat' first
    | with_reducible assumption | dsimp only [id_eq] | fail_if_no_progress ((with_reducible apply frame_slu (hm := sub_trans rfl hm)))

theorem winWrite_frame (id : ℕ) (off : ℕ) (bs : Bytes) (h : Frame m a s) (hm : sub [.mem] m = true) : Frame m a (winWrite id off bs s) := by
  unfold winWrite
  repeat' first
    | with_reducible assumption | intro _ | with_reducible apply writeFastFor_frame | with_reducible apply frame_foldlFst

theorem takeWinFrames_frame (r : ℕ) (id : ℕ) (tenant : ℕ) (n : ℕ) (h : Frame m a s) (hm : sub [.cnt, .sto] m = true) : FrameOP m a (takeWinFrames r id tenant n s) := by
  unfold takeWinFrames
  refine frameOP_foldl (FrameOP.mk' h) fun acc _ hacc => ?_
  split
  · exact FrameOP.none_
  · have h := FrameOP.out hacc _ _ rfl
    exact frameOP_map fun _ _ => FrameP.mk' (useFast_frame _ _ _ _ (noteAliased_frame _ _ h (sub_trans rfl hm)) (sub_trans rfl hm))

theorem takeBacking_frame (id : ℕ) (tenant : ℕ) (len : ℕ) (h : Frame m a s) (hm : sub [.cnt, .sto] m = true) : FrameOP m a (takeBacking id tenant len s) := by
  unfold takeBacking
  repeat' first
    | with_reducible assumption | intro _ | with_reducible apply takeWinFrames_frame | with_reducible apply frameOP_findSome
    | with_reducible apply frameOP_ite | with_reducible apply FrameOP.none_

theorem openWindow_frame (kind : ℕ) (tenant : ℕ) (len : ℕ) (h : Frame m a s) (hm : sub [.cnt, .mem, .sto, .slu] m = true) : FrameOP m a (openWindow kind tenant len s) := by
  unfold openWindow
  repeat' first
    | with_reducible assumption | intro _ | exact sub_trans rfl hm | with_reducible apply takeBacking_frame | with_reducible apply setWin_frame
    | with_reducible apply writeFastFor_frame | with_reducible apply frame_foldl | ((with_reducible apply Frame.outOP); with_reducible assumption)
    | split | with_reducible apply FrameOP.mk' | with_reducible apply FrameOP.none_

/-! ## Machine/Entries.lean -/

theorem setEntryRec_frame (x : ℕ) (e : Entry) (h : Frame m a s) (hm : sub [.slu] m = true) : Frame m a (setEntryRec x e s) := by
  unfold setEntryRec
  repeat' first
    | with_reducible assumption | dsimp only [id_eq] | fail_if_no_progress ((with_reducible apply frame_slu (hm := sub_trans rfl hm)))

theorem setInst_frame (i : ℕ) (x : Inst) (h : Frame m a s) (hm : sub [.slu] m = true) : Frame m a (setInst i x s) := by
  unfold setInst
  repeat' first
    | with_reducible assumption | dsimp only [id_eq] | fail_if_no_progress ((with_reducible apply frame_slu (hm := sub_trans rfl hm)))

theorem refuseN_frame (die : ℕ) (tenant : ℕ) (object : ℕ) (found : ℕ) (command : ℕ) (id : ℕ) (msg : Option EnMsg) (h : Frame m a s) (hm : sub [.catchment, .log, .cnt] m = true) : Frame m a (refuseN die tenant object found command id msg s) := by
  unfold refuseN
  repeat' first
    | with_reducible assumption | with_reducible apply stateRefused_frame

theorem refuseR_frame (r : ℕ) (tenant : ℕ) (object : ℕ) (found : ℕ) (command : ℕ) (id : ℕ) (tensor : Option (ℕ × ℕ)) (who : optParam Who none) (h : Frame m a s) (hm : sub [.catchment, .log, .cnt] m = true) : Frame m a (refuseR r tenant object found command id tensor s who) := by
  unfold refuseR
  repeat' first
    | with_reducible assumption | intro _ | exact sub_trans rfl hm | with_reducible apply stateRefused_frame | with_reducible apply frameO_map
    | with_reducible apply frameOP_map | with_reducible apply frameOQ_map | dsimp only [id_eq]

theorem refuseC_frame (tenant : ℕ) (object : ℕ) (found : ℕ) (command : ℕ) (id : ℕ) (who : optParam Who none) (h : Frame m a s) (hm : sub [.catchment, .log, .cnt] m = true) : Frame m a (refuseC tenant object found command id s who) := by
  unfold refuseC
  repeat' first
    | with_reducible assumption | intro _ | exact sub_trans rfl hm | with_reducible apply stateRefused_frame | with_reducible apply frameO_map
    | with_reducible apply frameOP_map | with_reducible apply frameOQ_map | dsimp only [id_eq]

theorem complLost_frame (x : ℕ) (h : Frame m a s) (hm : sub [.cnt] m = true) : Frame m a (complLost x s) := by
  unfold complLost
  repeat' first
    | with_reducible assumption | with_reducible apply count_frame

theorem sendRec_frame (x : ℕ) (tenant : ℕ) (dest : Bytes) (part : ℕ × Bool) (offset : ℕ) (data : Bytes) (h : Frame m a s) (hm : sub [.catchment, .log, .cnt, .jx] m = true) : Frame m a (sendRec x tenant dest part offset data s) := by
  unfold sendRec
  repeat' first
    | with_reducible assumption | exact sub_trans rfl hm | with_reducible apply sendMsg_frame | with_reducible apply complLost_frame
    | ((with_reducible apply Frame.out); with_reducible assumption) | split | dsimp only [id_eq]

theorem postedRec_frame (x : ℕ) (status : ℕ) (op : ℕ) (action : ℕ) (command : Bool) (rep : Bool) (single : Bool) (arg : ℕ) (enId : ℕ) (result : ℕ) (lc : Bool) (h : Frame m a s) (hm : sub [.catchment, .log, .cnt, .jx, .slu] m = true) : Frame m a (postedRec x status op action command rep single arg enId result lc s) := by
  unfold postedRec
  repeat' first
    | with_reducible assumption | exact sub_trans rfl hm | with_reducible apply setEntryRec_frame | with_reducible apply sendRec_frame

theorem stagedRec_frame (x : ℕ) (tenant : ℕ) (status : ℕ) (staged : Bytes) (arg : ℕ) (enId : ℕ) (h : Frame m a s) (hm : sub [.catchment, .log, .cnt, .jx] m = true) : Frame m a (stagedRec x tenant status staged arg enId s) := by
  unfold stagedRec
  repeat' first
    | with_reducible assumption | with_reducible apply sendRec_frame

theorem ringWrite_frame (status : ℕ) (opcode : ℕ) (tag : ℕ) (result : Bytes) (h : Frame m a s) (hm : sub [.cfg] m = true) : Frame m a (ringWrite status opcode tag result s) := by
  unfold ringWrite
  repeat' first
    | with_reducible assumption | dsimp only [id_eq] | fail_if_no_progress ((with_reducible apply frame_cfg (hm := sub_trans rfl hm)))

theorem deferredEnd_frame (opcode : ℕ) (obj : ℕ) (status : ℕ) (result : Bytes) (h : Frame m a s) (hm : sub [.cfg] m = true) : Frame m a (deferredEnd opcode obj status result s) := by
  unfold deferredEnd
  repeat' first
    | with_reducible assumption | with_reducible apply ringWrite_frame | split | dsimp only [id_eq]
    | fail_if_no_progress ((with_reducible apply frame_cfg (hm := sub_trans rfl hm)))

theorem acceptEnable_frame (x : ℕ) (arg : ℕ) (msg : Option EnMsg) (lc : Bool) (h : Frame m a s) (hm : sub [.catchment, .log, .cnt, .jx, .slu] m = true) : Frame m a (acceptEnable x arg msg lc s) := by
  unfold acceptEnable
  repeat' first
    | with_reducible assumption | intro _ | exact sub_trans rfl hm | with_reducible apply count_frame | with_reducible apply postedRec_frame
    | with_reducible apply setEntryRec_frame | with_reducible apply setWin_frame | with_reducible apply frame_ite | split | dsimp only [id_eq]
    | fail_if_no_progress ((with_reducible apply frame_slu (hm := sub_trans rfl hm)))

theorem eventEnable_frame (x : ℕ) (arg : ℕ) (h : Frame m a s) (hm : sub [.catchment, .log, .cnt, .jx, .slu] m = true) : Frame m a (eventEnable x arg s) := by
  unfold eventEnable
  repeat' first
    | with_reducible assumption | intro _ | exact sub_trans rfl hm | with_reducible apply postedRec_frame | with_reducible apply acceptEnable_frame
    | with_reducible apply count_frame | with_reducible apply frame_ite | split | dsimp only [id_eq]

theorem eventAll_frame (k : ℕ) (src : ℕ) (h : Frame m a s) (hm : sub [.catchment, .log, .cnt, .jx, .slu] m = true) : Frame m a (eventAll k src s) := by
  unfold eventAll
  repeat' first
    | with_reducible assumption | intro _ | with_reducible apply eventEnable_frame | with_reducible apply frame_foldl

theorem doneReading_frame (i : ℕ) (h : Frame m a s) (hm : sub [.slu] m = true) : Frame m a (doneReading i s) := by
  unfold doneReading
  repeat' first
    | with_reducible assumption | intro _ | with_reducible apply setInst_frame | with_reducible apply setWin_frame | with_reducible apply frame_ite
    | split

theorem dropInst_frame (i : ℕ) (h : Frame m a s) (hm : sub [.dir, .chan, .slu, .datum] m = true) : Frame m a (dropInst i s) := by
  unfold dropInst
  repeat' first
    | with_reducible assumption | intro _ | exact sub_trans rfl hm | with_reducible apply leaveSeq_frame | with_reducible apply doneReading_frame
    | with_reducible apply frame_foldl | split | dsimp only [id_eq] | fail_if_no_progress ((with_reducible apply frame_slu (hm := sub_trans rfl hm)))

theorem acct_frame (tenant : ℕ) (w : ℕ) (o : ℕ) (n : ℕ) (h : Frame m a s) (hm : sub [.cnt] m = true) : Frame m a (acct tenant w o n s) := by
  unfold acct
  repeat' first
    | with_reducible assumption | with_reducible apply countN_frame | split

theorem endInst_frame (i : ℕ) (k : ℕ) (status : ℕ) (h : Frame m a s) (hm : sub [.cfg, .catchment, .log, .cnt, .dir, .chan, .jx, .slu, .datum] m = true) : Frame m a (endInst i k status s) := by
  unfold endInst
  repeat' first
    | with_reducible assumption | intro _ | exact sub_trans rfl hm | with_reducible apply dropInst_frame | with_reducible apply deferredEnd_frame
    | with_reducible apply acct_frame | with_reducible apply postedRec_frame | with_reducible apply eventEnable_frame
    | ((with_reducible apply Frame.out); with_reducible assumption) | ((with_reducible apply Frame.outO); with_reducible assumption)
    | ((with_reducible apply Frame.outOP); with_reducible assumption) | ((with_reducible apply Frame.outOQ); with_reducible assumption)
    | with_reducible exact FrameOP.out ‹FrameOP m a (some (_, _))› _ _ rfl | ((with_reducible apply Frame.outOPs); with_reducible assumption)
    | ((with_reducible apply Frame.outOQs); with_reducible assumption) | with_reducible apply Frame.getD | with_reducible apply frame_foldl
    | with_reducible apply frameP_foldl | with_reducible apply frameOP_foldl | with_reducible apply frameO_foldl | with_reducible apply frameO_map
    | with_reducible apply frameOP_map | with_reducible apply frameOQ_map | with_reducible apply frame_ite | with_reducible apply frameP_ite
    | with_reducible apply frameO_ite | with_reducible apply frameOP_ite | split | with_reducible apply FrameP.mk' | with_reducible apply FrameO.mk'
    | with_reducible apply FrameO.none_ | with_reducible apply FrameOP.mk' | with_reducible apply FrameOP.none_ | with_reducible apply FrameOP.mkP
    | with_reducible apply FrameOQ.mk' | with_reducible apply FrameOQ.none_ | dsimp only [id_eq]

theorem advanceInst_frame (i : ℕ) (h : Frame m a s) (hm : sub [.cfg, .catchment, .log, .cnt, .dir, .chan, .jx, .slu, .datum] m = true) : Frame m a (advanceInst i s) := by
  unfold advanceInst
  repeat' first
    | with_reducible assumption | intro _ | exact sub_trans rfl hm | with_reducible apply endInst_frame | with_reducible apply setInst_frame
    | with_reducible apply frame_ite | split | dsimp only [id_eq]

theorem actDone_frame (i : ℕ) (k : ℕ) (status : ℕ) (rep : Bool) (single : Bool) (result : ℕ) (h : Frame m a s) (hm : sub [.cfg, .catchment, .log, .cnt, .dir, .chan, .jx, .slu, .datum] m = true) : Frame m a (actDone i k status rep single result s) := by
  unfold actDone
  repeat' first
    | with_reducible assumption | intro _ | exact sub_trans rfl hm | with_reducible apply advanceInst_frame | with_reducible apply setInst_frame
    | split | dsimp only [id_eq]

theorem actEnd_frame (i : ℕ) (k : ℕ) (status : ℕ) (h : Frame m a s) (hm : sub [.cfg, .catchment, .log, .cnt, .dir, .chan, .jx, .slu, .datum] m = true) : Frame m a (actEnd i k status s) := by
  unfold actEnd
  repeat' first
    | with_reducible assumption | with_reducible apply actDone_frame

theorem actBusy_frame (i : ℕ) (k : ℕ) (h : Frame m a s) (hm : sub [.slu] m = true) : Frame m a (actBusy i k s) := by
  unfold actBusy
  repeat' first
    | with_reducible assumption | with_reducible apply setInst_frame | split

theorem endBusy_frame (i : ℕ) (op : ℕ) (status : ℕ) (rep : Bool) (single : Bool) (result : ℕ) (h : Frame m a s) (hm : sub [.cfg, .catchment, .log, .cnt, .dir, .chan, .jx, .slu, .datum] m = true) : Frame m a (endBusy i op status rep single result s) := by
  unfold endBusy
  repeat' first
    | with_reducible assumption | with_reducible apply actDone_frame | split

theorem newInst_frame (x : Inst) (h : Frame m a s) (hm : sub [.slu] m = true) : FrameP m a (newInst x s) := by
  unfold newInst
  repeat' first
    | with_reducible assumption | with_reducible apply FrameP.mk' | dsimp only [id_eq]
    | fail_if_no_progress ((with_reducible apply frame_slu (hm := sub_trans rfl hm)))

theorem drainEntry_frame (x : ℕ) (h : Frame m a s) (hm : sub [.slu] m = true) : Frame m a (drainEntry x s) := by
  unfold drainEntry
  repeat' first
    | with_reducible assumption | intro _ | with_reducible apply setEntryRec_frame | with_reducible apply frame_ite

theorem windowGone_frame (id : ℕ) (gen : ℕ) (h : Frame m a s) (hm : sub [.cnt, .slu] m = true) : Frame m a (windowGone id gen s) := by
  unfold windowGone
  repeat' first
    | with_reducible assumption | intro _ | exact sub_trans rfl hm | with_reducible apply count_frame | with_reducible apply drainEntry_frame
    | with_reducible apply frame_foldl

theorem startDrainWin_frame (id : ℕ) (h : Frame m a s) (hm : sub [.slu] m = true) : Frame m a (startDrainWin id s) := by
  unfold startDrainWin
  repeat' first
    | with_reducible assumption | intro _ | with_reducible apply setWin_frame | with_reducible apply frame_ite

/-! ## Machine/Maps.lean -/

theorem setComp_frame (c : ℕ) (x : Comp) (h : Frame m a s) (hm : sub [.datum] m = true) : Frame m a (setComp c x s) := by
  unfold setComp
  repeat' first
    | with_reducible assumption | dsimp only [id_eq] | fail_if_no_progress ((with_reducible apply frame_datum (hm := sub_trans rfl hm)))

theorem askMap_frame (c : ℕ) (f : Fetch) (h : Frame m a s) (hm : sub [.catchment, .log, .jx, .datum] m = true) : Frame m a (askMap c f s) := by
  unfold askMap
  repeat' first
    | with_reducible assumption | intro _ | exact sub_trans rfl hm | with_reducible apply sendMsg_frame | with_reducible apply setComp_frame
    | ((with_reducible apply Frame.out); with_reducible assumption) | split | ((with_reducible apply FrameP.snd); with_reducible apply sendMsg_frame)
    | with_reducible apply FrameP.mk' | dsimp only [id_eq]

theorem startFetch_frame (c : ℕ) (src : ℕ) (addr : BitVec 128) (h : Frame m a s) (hm : sub [.catchment, .log, .jx, .datum] m = true) : Frame m a (startFetch c src addr s) := by
  unfold startFetch
  repeat' first
    | with_reducible assumption | intro _ | exact sub_trans rfl hm | with_reducible apply askMap_frame | with_reducible apply setComp_frame
    | with_reducible apply frame_ite

theorem redirect_frame (c : ℕ) (m_ : DMap) (tenant : ℕ) (tag : ℕ) (lo : ℕ) (hi : ℕ) (q : Routed) (h : Frame m a s) (hm : sub [.catchment, .log, .cnt, .jx] m = true) : Frame m a (redirect c m_ tenant tag lo hi q s) := by
  unfold redirect
  repeat' first
    | with_reducible assumption | exact sub_trans rfl hm | with_reducible apply sendOnce_frame | with_reducible apply countTenant_frame

theorem epochCheck_frame (tenant : ℕ) (tag : ℕ) (lo : ℕ) (hi : ℕ) (last : ℕ) (q : Routed) (h : Frame m a s) (hm : sub [.catchment, .log, .cnt, .jx, .datum] m = true) : FrameP m a (epochCheck tenant tag lo hi last q s) := by
  unfold epochCheck
  repeat' first
    | with_reducible assumption | intro _ | exact sub_trans rfl hm | with_reducible apply raise_frame | with_reducible apply countTenant_frame
    | with_reducible apply startFetch_frame | with_reducible apply redirect_frame | with_reducible apply Frame.getD | with_reducible apply frameO_map
    | with_reducible apply frameOP_map | with_reducible apply frameOQ_map | with_reducible apply frame_ite | with_reducible apply frameP_ite | split
    | with_reducible apply FrameP.mk' | dsimp only [id_eq]

/-! ## Machine/Free.lean -/

theorem reuseFast_frame (a_ : ℕ) (u : StoreUse) (h : Frame m a s) (hm : sub [.sto] m = true) : Frame m a (reuseFast a_ u s) := by
  unfold reuseFast
  repeat' first
    | with_reducible assumption | dsimp only [id_eq] | fail_if_no_progress ((with_reducible apply frame_sto (hm := sub_trans rfl hm)))

theorem giveFrame_frame (sealed_ : Bool) (a_ : ℕ) (h : Frame m a s) (hm : sub [.sto] m = true) : Frame m a (giveFrame sealed_ a_ s) := by
  unfold giveFrame
  repeat' first
    | with_reducible assumption | intro _ | exact sub_trans rfl hm | with_reducible apply reuseFast_frame | with_reducible apply releaseFast_frame
    | split | dsimp only [id_eq]

theorem dropFrame_frame (a_ : ℕ) (h : Frame m a s) (hm : sub [.sto] m = true) : Frame m a (dropFrame a_ s) := by
  unfold dropFrame
  repeat' first
    | with_reducible assumption | intro _ | exact sub_trans rfl hm | with_reducible apply giveFrame_frame | split | dsimp only [id_eq]

theorem retireFrame_frame (a_ : ℕ) (h : Frame m a s) (hm : sub [.sto] m = true) : Frame m a (retireFrame a_ s) := by
  unfold retireFrame
  repeat' first
    | with_reducible assumption | intro _ | exact sub_trans rfl hm | with_reducible apply reuseFast_frame | split | dsimp only [id_eq]
    | fail_if_no_progress ((with_reducible apply frame_sto (hm := sub_trans rfl hm)))

theorem dropDeep_frame (a_ : ℕ) (h : Frame m a s) (hm : sub [.sto] m = true) : Frame m a (dropDeep a_ s) := by
  unfold dropDeep
  repeat' first
    | with_reducible assumption | with_reducible apply releaseDeep_frame | split

theorem retireDeep_frame (a_ : ℕ) (h : Frame m a s) (hm : sub [.sto] m = true) : Frame m a (retireDeep a_ s) := by
  unfold retireDeep
  repeat' first
    | with_reducible assumption | intro _ | exact sub_trans rfl hm | split | dsimp only [id_eq]
    | fail_if_no_progress ((with_reducible apply frame_sto (hm := sub_trans rfl hm)))

theorem nameOn_frame (a_ : ℕ) (size : ℕ) (h : Frame m a s) (hm : sub [.sto] m = true) : Frame m a (nameOn a_ size s) := by
  unfold nameOn
  repeat' first
    | with_reducible assumption | intro _ | exact sub_trans rfl hm | with_reducible apply frame_ite | split | dsimp only [id_eq]
    | fail_if_no_progress ((with_reducible apply frame_sto (hm := sub_trans rfl hm)))

theorem nameOff_frame (a_ : ℕ) (h : Frame m a s) (hm : sub [.sto] m = true) : Frame m a (nameOff a_ s) := by
  unfold nameOff
  repeat' first
    | with_reducible assumption | intro _ | exact sub_trans rfl hm | with_reducible apply frame_ite | split | dsimp only [id_eq]
    | fail_if_no_progress ((with_reducible apply frame_sto (hm := sub_trans rfl hm)))

theorem dropRef_frame (key : ℕ) (h : Frame m a s) (hm : sub [.sto] m = true) : Frame m a (dropRef key s) := by
  unfold dropRef
  repeat' first
    | with_reducible assumption | intro _ | exact sub_trans rfl hm | with_reducible apply nameOff_frame | with_reducible apply reuseFast_frame
    | with_reducible apply releaseFast_frame | with_reducible apply frame_ite | split | dsimp only [id_eq]
    | fail_if_no_progress ((with_reducible apply frame_sto (hm := sub_trans rfl hm)))

theorem dropCoded_frame (slot : ℕ) (ti : ℕ) (idx : ℕ) (name : ℕ) (h : Frame m a s) (hm : sub [.sto] m = true) : Frame m a (dropCoded slot ti idx name s) := by
  unfold dropCoded
  repeat' first
    | with_reducible assumption | with_reducible apply dropRef_frame | with_reducible apply dropFrame_frame | split | dsimp only [id_eq]
    | fail_if_no_progress ((with_reducible apply frame_sto (hm := sub_trans rfl hm)))

theorem dropPage_frame (slot : ℕ) (ti : ℕ) (idx : ℕ) (e : ℕ) (h : Frame m a s) (hm : sub [.sto] m = true) : Frame m a (dropPage slot ti idx e s) := by
  unfold dropPage
  repeat' first
    | with_reducible assumption | intro _ | with_reducible apply dropCoded_frame | with_reducible apply dropFrame_frame
    | with_reducible apply nameOff_frame | with_reducible apply dropDeep_frame | with_reducible apply frame_ite

theorem dropUnits_frame (slot : ℕ) (h : Frame m a s) (hm : sub [.sto] m = true) : Frame m a (dropUnits slot s) := by
  unfold dropUnits
  repeat' first
    | with_reducible assumption | intro _ | with_reducible apply dropFrame_frame | with_reducible apply frame_foldl

theorem dropStorage_frame (slot : ℕ) (h : Frame m a s) (hm : sub [.sto] m = true) : Frame m a (dropStorage slot s) := by
  unfold dropStorage
  repeat' first
    | with_reducible assumption | intro _ | with_reducible apply dropPage_frame | with_reducible apply dropUnits_frame
    | with_reducible apply dropFrame_frame | with_reducible apply frame_foldl

theorem repairHit_frame (slot : ℕ) (h : Frame m a s) (hm : sub [.catchment, .log, .cnt, .dir] m = true) : FrameP m a (repairHit slot s) := by
  unfold repairHit
  repeat' first
    | with_reducible assumption | intro _ | exact sub_trans rfl hm | with_reducible apply raiseCount_frame | with_reducible apply setSeq_frame
    | with_reducible apply frameP_ite | with_reducible apply FrameP.mk'

theorem checkedHit_frame (search : State → Option ℕ) (h : Frame m a s) (hm : sub [.catchment, .log, .cnt, .dir] m = true) : FrameP m a (checkedHit search s) := by
  unfold checkedHit
  repeat' first
    | with_reducible assumption | intro _ | exact sub_trans rfl hm | with_reducible apply repairHit_frame
    | ((with_reducible apply Frame.out); with_reducible assumption) | split
    | ((with_reducible apply FrameP.snd); with_reducible apply repairHit_frame) | with_reducible apply FrameP.mk' | dsimp only [id_eq]

theorem lookSeq_frame (tenant : ℕ) (tag : ℕ) (h : Frame m a s) (hm : sub [.catchment, .log, .cnt, .dir] m = true) : FrameP m a (lookSeq tenant tag s) := by
  unfold lookSeq
  repeat' first
    | with_reducible assumption | intro _ | exact sub_trans rfl hm | with_reducible apply checkedHit_frame
    | ((with_reducible apply Frame.out); with_reducible assumption) | ((with_reducible apply FrameP.snd); with_reducible apply checkedHit_frame)
    | with_reducible apply FrameP.mk' | dsimp only [id_eq]

theorem refuseSeq_frame (slot : ℕ) (tenant : ℕ) (op : ℕ) (who : optParam Who none) (h : Frame m a s) (hm : sub [.catchment, .log, .cnt] m = true) : Frame m a (refuseSeq slot tenant op s who) := by
  unfold refuseSeq
  repeat' first
    | with_reducible assumption | intro _ | exact sub_trans rfl hm | with_reducible apply refuseR_frame | dsimp only [id_eq]

theorem refuseTen_frame (slot : ℕ) (tenant : ℕ) (ti : ℕ) (op : ℕ) (who : optParam Who none) (h : Frame m a s) (hm : sub [.catchment, .log, .cnt] m = true) : Frame m a (refuseTen slot tenant ti op s who) := by
  unfold refuseTen
  repeat' first
    | with_reducible assumption | intro _ | exact sub_trans rfl hm | with_reducible apply refuseR_frame | dsimp only [id_eq]

theorem withdrawAll_frame (reason : ℕ) (h : Frame m a s) (hm : sub [.catchment, .log, .jx] m = true) : Frame m a (withdrawAll reason s) := by
  unfold withdrawAll
  repeat' first
    | with_reducible assumption | intro _ | with_reducible apply sendAllPorts_frame | with_reducible apply frame_foldl | split

theorem drainCheck_frame (h : Frame m a s) (hm : sub [.catchment, .log, .node, .jx] m = true) : Frame m a (drainCheck s) := by
  unfold drainCheck
  repeat' first
    | with_reducible assumption | intro _ | exact sub_trans rfl hm | with_reducible apply withdrawAll_frame | with_reducible apply frame_ite | split
    | dsimp only [id_eq] | fail_if_no_progress ((with_reducible apply frame_node (hm := sub_trans rfl hm)))

/-! ## Machine/Relay.lean -/

theorem chargeLoad_frame (r : ℕ) (bytes : ℕ) (h : Frame m a s) (hm : sub [.traffic] m = true) : FrameP m a (chargeLoad r bytes s) := by
  unfold chargeLoad
  repeat' first
    | with_reducible assumption | intro _ | exact sub_trans rfl hm | with_reducible apply setTokens_frame | with_reducible apply Frame.getD
    | with_reducible apply frameO_map | with_reducible apply frameOP_map | with_reducible apply frameOQ_map | with_reducible apply frame_ite
    | with_reducible apply frameP_ite | split | with_reducible apply FrameP.mk' | dsimp only [id_eq]
    | fail_if_no_progress ((with_reducible apply frame_traffic (hm := sub_trans rfl hm)))

theorem endLoadOut_frame (key : ℕ) (h : Frame m a s) (hm : sub [.dir, .chan, .datum] m = true) : Frame m a (endLoadOut key s) := by
  unfold endLoadOut
  repeat' first
    | with_reducible assumption | intro _ | exact sub_trans rfl hm | with_reducible apply sweepMoved_frame | dsimp only [id_eq]
    | fail_if_no_progress ((with_reducible apply frame_datum (hm := sub_trans rfl hm)))

theorem sealBody_frame (tenant : ℕ) (hdr : ℕ → Bytes) (body : Bytes) (h : Frame m a s) (hm : sub [.key] m = true) : FrameOP m a (sealBody tenant hdr body s) := by
  unfold sealBody
  repeat' first
    | with_reducible assumption | intro _ | with_reducible apply frameOP_ite | split | with_reducible apply FrameOP.mk'
    | with_reducible apply FrameOP.none_ | dsimp only [id_eq] | fail_if_no_progress ((with_reducible apply frame_key (hm := sub_trans rfl hm)))

theorem sendLoadRec_frame (key : ℕ) (kind : ℕ) (body : Bytes) (ready : optParam ℕ 0) (h : Frame m a s) (hm : sub [.catchment, .log, .dir, .chan, .key, .jx, .datum] m = true) : Frame m a (sendLoadRec key kind body s ready) := by
  unfold sendLoadRec
  repeat' first
    | with_reducible assumption | intro _ | exact sub_trans rfl hm | with_reducible apply sealBody_frame | with_reducible apply endLoadOut_frame
    | with_reducible apply sendMsg_frame | ((with_reducible apply Frame.out); with_reducible assumption)
    | ((with_reducible apply Frame.outOP); with_reducible assumption) | ((with_reducible apply Frame.outOPs); with_reducible assumption)
    | with_reducible apply frame_ite | with_reducible apply frameP_ite | with_reducible apply frameOP_ite | split
    | ((with_reducible apply FrameP.snd); with_reducible apply sendMsg_frame) | with_reducible apply FrameP.mk' | with_reducible apply FrameOP.mk'
    | with_reducible apply FrameOP.none_ | with_reducible apply FrameOP.mkP | dsimp only [id_eq]
    | fail_if_no_progress ((with_reducible apply frame_datum (hm := sub_trans rfl hm)))

theorem relay_frame (slot : ℕ) (kind : ℕ) (body : Bytes) (h : Frame m a s) (hm : sub [.catchment, .log, .dir, .chan, .key, .jx, .datum] m = true) : Frame m a (relay slot kind body s) := by
  unfold relay
  repeat' first
    | with_reducible assumption | intro _ | with_reducible apply sendLoadRec_frame | with_reducible apply frame_foldl

theorem relayState_frame (slot : ℕ) (h : Frame m a s) (hm : sub [.catchment, .log, .dir, .chan, .key, .jx, .datum] m = true) : Frame m a (relayState slot s) := by
  unfold relayState
  repeat' first
    | with_reducible assumption | intro _ | with_reducible apply relay_frame | with_reducible apply frame_ite

theorem relayTensor_frame (slot : ℕ) (ti : ℕ) (h : Frame m a s) (hm : sub [.catchment, .log, .dir, .chan, .key, .jx, .datum] m = true) : Frame m a (relayTensor slot ti s) := by
  unfold relayTensor
  repeat' first
    | with_reducible assumption | intro _ | with_reducible apply relay_frame | with_reducible apply frame_ite

theorem relayTokens_frame (slot : ℕ) (ti : ℕ) (lo : ℕ) (hi : ℕ) (h : Frame m a s) (hm : sub [.catchment, .log, .dir, .chan, .key, .jx, .datum] m = true) : Frame m a (relayTokens slot ti lo hi s) := by
  unfold relayTokens
  repeat' first
    | with_reducible assumption | intro _ | with_reducible apply relay_frame | with_reducible apply frame_foldl | with_reducible apply frame_ite

theorem relayPages_frame (slot : ℕ) (lo : ℕ) (hi : ℕ) (h : Frame m a s) (hm : sub [.catchment, .log, .dir, .chan, .key, .jx, .datum] m = true) : Frame m a (relayPages slot lo hi s) := by
  unfold relayPages
  repeat' first
    | with_reducible assumption | intro _ | with_reducible apply relayTokens_frame | with_reducible apply frame_foldl | with_reducible apply frame_ite

theorem copyPage_frame (key : ℕ) (slot : ℕ) (ti : ℕ) (idx : ℕ) (top : ℕ) (h : Frame m a s) (hm : sub [.catchment, .log, .dir, .chan, .key, .jx, .traffic, .datum] m = true) : Frame m a (copyPage key slot ti idx top s) := by
  unfold copyPage
  repeat' first
    | with_reducible assumption | intro _ | exact sub_trans rfl hm | with_reducible apply chargeLoad_frame | with_reducible apply sendLoadRec_frame
    | ((with_reducible apply Frame.out); with_reducible assumption) | split
    | ((with_reducible apply FrameP.snd); with_reducible apply chargeLoad_frame) | with_reducible apply FrameP.mk' | dsimp only [id_eq]

theorem copyAll_frame (key : ℕ) (dstNode : ℕ) (h : Frame m a s) (hm : sub [.catchment, .log, .dir, .chan, .key, .jx, .traffic, .datum] m = true) : Frame m a (copyAll key dstNode s) := by
  unfold copyAll
  repeat' first
    | with_reducible assumption | intro _ | exact sub_trans rfl hm | with_reducible apply sendLoadRec_frame | with_reducible apply copyPage_frame
    | with_reducible apply frame_foldl | split | dsimp only [id_eq]

end Sys2Proof.Laws
end

