-- ==== Sys2Proof/Laws/FrameMaps.lean ====
section
/-! SUPPORT. Frames of map changes, agreement, loss, the directory, pages and unit work: one lemma per definition, found by walking its own text. -/

namespace Sys2Proof.Laws

open Sys2Proof.Machine

variable {m : List Part} {a s : State}

set_option linter.all false

/-! ## Machine/ApplyMap.lean -/

theorem sendLoadOpen_frame (id : ℕ) (h : Frame m a s) (hm : sub [.catchment, .log, .jx, .datum] m = true) : Frame m a (sendLoadOpen id s) := by
  unfold sendLoadOpen
  repeat' first
    | with_reducible assumption | exact sub_trans rfl hm | with_reducible apply sendMsg_frame
    | ((with_reducible apply Frame.out); with_reducible assumption) | split | dsimp only [id_eq]
    | fail_if_no_progress ((with_reducible apply frame_datum (hm := sub_trans rfl hm)))

theorem newLoad_frame (l : LoadIn) (h : Frame m a s) (hm : sub [.catchment, .log, .jx, .datum] m = true) : Frame m a (newLoad l s) := by
  unfold newLoad
  repeat' first
    | with_reducible assumption | intro _ | with_reducible apply sendLoadOpen_frame | with_reducible apply frame_ite | split | dsimp only [id_eq]
    | fail_if_no_progress ((with_reducible apply frame_datum (hm := sub_trans rfl hm)))

theorem openLoads_frame (c : ℕ) (h : Frame m a s) (hm : sub [.catchment, .log, .jx, .datum] m = true) : Frame m a (openLoads c s) := by
  unfold openLoads
  repeat' first
    | with_reducible assumption | intro _ | exact sub_trans rfl hm | with_reducible apply newLoad_frame | with_reducible apply frame_foldl
    | with_reducible apply frame_ite | split | dsimp only [id_eq]

theorem dropLoad_frame (id : ℕ) (h : Frame m a s) (hm : sub [.dir, .chan, .datum] m = true) : Frame m a (dropLoad id s) := by
  unfold dropLoad
  repeat' first
    | with_reducible assumption | intro _ | exact sub_trans rfl hm | with_reducible apply releaseSeq_frame | with_reducible apply frame_ite | split
    | dsimp only [id_eq] | fail_if_no_progress ((with_reducible apply frame_datum (hm := sub_trans rfl hm)))

theorem restartFrom_frame (id : ℕ) (n : ℕ) (h : Frame m a s) (hm : sub [.catchment, .log, .dir, .chan, .jx, .datum] m = true) : Frame m a (restartFrom id n s) := by
  unfold restartFrom
  repeat' first
    | with_reducible assumption | intro _ | exact sub_trans rfl hm | with_reducible apply newLoad_frame | with_reducible apply dropLoad_frame | split
    | dsimp only [id_eq]

theorem sendLoadDone_frame (c : ℕ) (node : ℕ) (id : ℕ) (h : Frame m a s) (hm : sub [.catchment, .log, .jx] m = true) : Frame m a (sendLoadDone c node id s) := by
  unfold sendLoadDone
  repeat' first
    | with_reducible assumption | ((with_reducible apply FrameP.snd); with_reducible apply sendMsg_frame) | split

theorem rejoinDone_frame (c : ℕ) (h : Frame m a s) (hm : sub [.catchment, .log, .jx, .datum] m = true) : Frame m a (rejoinDone c s) := by
  unfold rejoinDone
  repeat' first
    | with_reducible assumption | intro _ | exact sub_trans rfl hm | with_reducible apply sendLoadDone_frame | with_reducible apply frame_foldl
    | split | dsimp only [id_eq] | fail_if_no_progress ((with_reducible apply frame_datum (hm := sub_trans rfl hm)))

theorem settleDone_frame (c : ℕ) (m_ : Option DMap) (h : Frame m a s) (hm : sub [.datum] m = true) : Frame m a (settleDone c m_ s) := by
  unfold settleDone
  repeat' first
    | with_reducible assumption | intro _ | exact sub_trans rfl hm | split | dsimp only [id_eq]
    | fail_if_no_progress ((with_reducible apply frame_datum (hm := sub_trans rfl hm)))

theorem admitLoad_frame (id : ℕ) (l : LoadIn) (h : Frame m a s) (hm : sub [.dir, .datum] m = true) : Frame m a (admitLoad id l s) := by
  unfold admitLoad
  repeat' first
    | with_reducible assumption | intro _ | exact sub_trans rfl hm | with_reducible apply setSeq_frame | with_reducible apply frame_ite | split
    | dsimp only [id_eq] | fail_if_no_progress ((with_reducible apply frame_datum (hm := sub_trans rfl hm)))

theorem settleSource_frame (m_ : DMap) (id : ℕ) (l : LoadIn) (h : Frame m a s) (hm : sub [.catchment, .log, .dir, .chan, .jx, .datum] m = true) : Frame m a (settleSource m_ id l s) := by
  unfold settleSource
  repeat' first
    | with_reducible assumption | intro _ | exact sub_trans rfl hm | with_reducible apply dropLoad_frame | with_reducible apply restartFrom_frame
    | with_reducible apply frame_ite | split | dsimp only [id_eq]

theorem settleStaged_frame (m_ : DMap) (id : ℕ) (l : LoadIn) (h : Frame m a s) (hm : sub [.catchment, .log, .dir, .chan, .jx, .datum] m = true) : Frame m a (settleStaged m_ id l s) := by
  unfold settleStaged
  repeat' first
    | with_reducible assumption | intro _ | exact sub_trans rfl hm | with_reducible apply settleSource_frame | with_reducible apply dropLoad_frame
    | with_reducible apply sendLoadDone_frame | with_reducible apply frame_ite | split | dsimp only [id_eq]
    | fail_if_no_progress ((with_reducible apply frame_datum (hm := sub_trans rfl hm)))

theorem settleLoadIn_frame (c : ℕ) (m_ : Option DMap) (id : ℕ) (h : Frame m a s) (hm : sub [.catchment, .log, .dir, .chan, .jx, .datum] m = true) : Frame m a (settleLoadIn c m_ id s) := by
  unfold settleLoadIn
  repeat' first
    | with_reducible assumption | intro _ | exact sub_trans rfl hm | with_reducible apply dropLoad_frame | with_reducible apply settleStaged_frame
    | with_reducible apply sendLoadOpen_frame | with_reducible apply settleSource_frame | with_reducible apply admitLoad_frame
    | with_reducible apply frame_ite | split | dsimp only [id_eq] | fail_if_no_progress ((with_reducible apply frame_datum (hm := sub_trans rfl hm)))

theorem settleStopped_frame (key : ℕ) (h : Frame m a s) (hm : sub [.dir, .chan, .datum] m = true) : Frame m a (settleStopped key s) := by
  unfold settleStopped
  repeat' first
    | with_reducible assumption | intro _ | with_reducible apply endLoadOut_frame | with_reducible apply frame_ite | split

theorem settleLoadOut_frame (c : ℕ) (old : Option DMap) (m_ : Option DMap) (key : ℕ) (h : Frame m a s) (hm : sub [.dir, .chan, .datum] m = true) : Frame m a (settleLoadOut c old m_ key s) := by
  unfold settleLoadOut
  repeat' first
    | with_reducible assumption | intro _ | exact sub_trans rfl hm | with_reducible apply endLoadOut_frame | with_reducible apply settleStopped_frame
    | with_reducible apply Frame.getD | with_reducible apply frameO_map | with_reducible apply frameOP_map | with_reducible apply frameOQ_map
    | with_reducible apply frame_ite | split | dsimp only [id_eq] | fail_if_no_progress ((with_reducible apply frame_datum (hm := sub_trans rfl hm)))

theorem mapGens_frame (m_ : DMap) (h : Frame m a s) (hm : sub [.dir] m = true) : Frame m a (mapGens m_ s) := by
  unfold mapGens
  repeat' first
    | with_reducible assumption | dsimp only [id_eq] | fail_if_no_progress ((with_reducible apply frame_dir (hm := sub_trans rfl hm)))

theorem takeover_frame (slot : ℕ) (h : Frame m a s) (hm : sub [.cnt, .dir] m = true) : Frame m a (takeover slot s) := by
  unfold takeover
  repeat' first
    | with_reducible assumption | intro _ | exact sub_trans rfl hm | with_reducible apply countTenant_frame | with_reducible apply setSeq_frame
    | with_reducible apply frame_ite

theorem takeovers_frame (old : DMap) (m_ : DMap) (h : Frame m a s) (hm : sub [.cnt, .dir] m = true) : Frame m a (takeovers old m_ s) := by
  unfold takeovers
  repeat' first
    | with_reducible assumption | intro _ | with_reducible apply takeover_frame | with_reducible apply frame_foldl | split

theorem excluded_frame (old : Option DMap) (m_ : DMap) (h : Frame m a s) (hm : sub [.catchment, .log, .cnt, .dir, .chan, .datum] m = true) : Frame m a (excluded old m_ s) := by
  unfold excluded
  repeat' first
    | with_reducible assumption | intro _ | exact sub_trans rfl hm | with_reducible apply releaseSeq_frame | with_reducible apply raiseCount_frame
    | with_reducible apply Frame.getD | with_reducible apply frame_foldl | with_reducible apply frameO_map | with_reducible apply frameOP_map
    | with_reducible apply frameOQ_map | with_reducible apply frame_ite | split | dsimp only [id_eq]

theorem settleForwards_frame  (h : Frame m a s) (hm : sub [.cfg, .catchment, .log, .cnt, .dir, .chan, .work, .jx, .slu, .datum] m = true) : Frame m a (settleForwards s) := by
  unfold settleForwards
  repeat' first
    | with_reducible assumption | intro _ | exact sub_trans rfl hm | with_reducible apply actDone_frame | with_reducible apply frame_foldl
    | dsimp only [id_eq] | fail_if_no_progress ((with_reducible apply frame_jx (hm := sub_trans rfl hm)))
    | fail_if_no_progress ((with_reducible apply frame_work_jx (hm := sub_trans rfl hm)))

theorem noteBack_frame (m_ : DMap) (h : Frame m a s) (hm : sub [.datum] m = true) : Frame m a (noteBack m_ s) := by
  unfold noteBack
  repeat' first
    | with_reducible assumption | intro _ | exact sub_trans rfl hm | split | dsimp only [id_eq]
    | fail_if_no_progress ((with_reducible apply frame_datum (hm := sub_trans rfl hm)))

theorem installMap_frame (c : ℕ) (old : Option DMap) (new : Option DMap) (h : Frame m a s) (hm : sub [.cfg, .catchment, .log, .cnt, .node, .dir, .chan, .work, .jx, .slu, .datum] m = true) : Frame m a (installMap c old new s) := by
  unfold installMap
  repeat' first
    | with_reducible assumption | intro _ | exact sub_trans rfl hm | with_reducible apply noteBack_frame | with_reducible apply mapGens_frame
    | with_reducible apply takeovers_frame | with_reducible apply excluded_frame | with_reducible apply settleLoadIn_frame
    | with_reducible apply settleLoadOut_frame | with_reducible apply settleDone_frame | with_reducible apply settleForwards_frame
    | with_reducible apply drainCheck_frame | with_reducible apply rejoinDone_frame | with_reducible apply openLoads_frame
    | with_reducible apply frame_foldl | with_reducible apply frame_ite | split | dsimp only [id_eq]
    | fail_if_no_progress ((with_reducible apply frame_node (hm := sub_trans rfl hm)))

theorem leaveComp_frame (c : ℕ) (h : Frame m a s) (hm : sub [.cfg, .catchment, .log, .cnt, .node, .dir, .chan, .work, .jx, .slu, .datum] m = true) : Frame m a (leaveComp c s) := by
  unfold leaveComp
  repeat' first
    | with_reducible assumption | intro _ | exact sub_trans rfl hm | with_reducible apply installMap_frame | with_reducible apply setComp_frame
    | dsimp only [id_eq] | fail_if_no_progress ((with_reducible apply frame_node (hm := sub_trans rfl hm)))

theorem noteGone_frame (p : DMap) (m_ : DMap) (h : Frame m a s) (hm : sub [.datum] m = true) : Frame m a (noteGone p m_ s) := by
  unfold noteGone
  repeat' first
    | with_reducible assumption | intro _ | exact sub_trans rfl hm | split | dsimp only [id_eq]
    | fail_if_no_progress ((with_reducible apply frame_datum (hm := sub_trans rfl hm)))

theorem closeWindow_frame (c : ℕ) (h : Frame m a s) (hm : sub [.datum] m = true) : Frame m a (closeWindow c s) := by
  unfold closeWindow
  repeat' first
    | with_reducible assumption | intro _ | exact sub_trans rfl hm | with_reducible apply noteGone_frame | with_reducible apply setComp_frame | split
    | dsimp only [id_eq]

theorem applyChange_frame (c : ℕ) (change : Bytes) (h : Frame m a s) (hm : sub [.cfg, .catchment, .log, .cnt, .node, .dir, .chan, .work, .jx, .slu, .datum] m = true) : FrameP m a (applyChange c change s) := by
  unfold applyChange
  repeat' first
    | with_reducible assumption | intro _ | exact sub_trans rfl hm | with_reducible apply leaveComp_frame | with_reducible apply raise_frame
    | with_reducible apply sweepMoved_frame | with_reducible apply installMap_frame | with_reducible apply setComp_frame
    | with_reducible apply closeWindow_frame | with_reducible apply frame_ite | with_reducible apply frameP_ite | split
    | with_reducible apply FrameP.mk' | dsimp only [id_eq]

theorem installFetched_frame (c : ℕ) (m_ : DMap) (last : ℕ) (h : Frame m a s) (hm : sub [.cfg, .catchment, .log, .cnt, .node, .dir, .chan, .work, .jx, .slu, .datum] m = true) : Frame m a (installFetched c m_ last s) := by
  unfold installFetched
  repeat' first
    | with_reducible assumption | intro _ | exact sub_trans rfl hm | with_reducible apply leaveComp_frame | with_reducible apply raise_frame
    | with_reducible apply noteGone_frame | with_reducible apply sweepMoved_frame | with_reducible apply installMap_frame
    | with_reducible apply setComp_frame | with_reducible apply Frame.getD | with_reducible apply frameO_map | with_reducible apply frameOP_map
    | with_reducible apply frameOQ_map | with_reducible apply frame_ite | split | dsimp only [id_eq]

/-! ## Machine/Agree.lean -/

theorem voterPrepare_frame (c : ℕ) (ballot : ℕ) (h : Frame m a s) (hm : sub [.datum] m = true) : FrameP m a (voterPrepare c ballot s) := by
  unfold voterPrepare
  repeat' first
    | with_reducible assumption | intro _ | with_reducible apply setComp_frame | with_reducible apply frameP_ite | with_reducible apply FrameP.mk'

theorem voterAccept_frame (c : ℕ) (ballot : ℕ) (change : Bytes) (h : Frame m a s) (hm : sub [.datum] m = true) : FrameP m a (voterAccept c ballot change s) := by
  unfold voterAccept
  repeat' first
    | with_reducible assumption | intro _ | with_reducible apply setComp_frame | with_reducible apply frameP_ite | with_reducible apply FrameP.mk'

theorem setProps_frame (c : ℕ) (l : List Proposal) (h : Frame m a s) (hm : sub [.datum] m = true) : Frame m a (setProps c l s) := by
  unfold setProps
  repeat' first
    | with_reducible assumption | dsimp only [id_eq] | fail_if_no_progress ((with_reducible apply frame_datum (hm := sub_trans rfl hm)))

theorem setHead_frame (c : ℕ) (p : Proposal) (h : Frame m a s) (hm : sub [.datum] m = true) : Frame m a (setHead c p s) := by
  unfold setHead
  repeat' first
    | with_reducible assumption | with_reducible apply setProps_frame | split

theorem addProposal_frame (c : ℕ) (change : Bytes) (who : Proposer) (h : Frame m a s) (hm : sub [.datum] m = true) : Frame m a (addProposal c change who s) := by
  unfold addProposal
  repeat' first
    | with_reducible assumption | intro _ | exact sub_trans rfl hm | with_reducible apply setProps_frame | with_reducible apply frame_ite | split
    | dsimp only [id_eq]

theorem addNext_frame (c : ℕ) (change : Bytes) (h : Frame m a s) (hm : sub [.datum] m = true) : Frame m a (addNext c change s) := by
  unfold addNext
  repeat' first
    | with_reducible assumption | intro _ | exact sub_trans rfl hm | with_reducible apply setProps_frame | with_reducible apply frame_ite | split
    | dsimp only [id_eq]

theorem saveResp_frame (src : ℕ) (msgId : ℕ) (op : ℕ) (data : Bytes) (h : Frame m a s) (hm : sub [.jx] m = true) : Frame m a (saveResp src msgId op data s) := by
  unfold saveResp
  repeat' first
    | with_reducible assumption | dsimp only [id_eq] | fail_if_no_progress ((with_reducible apply frame_jx (hm := sub_trans rfl hm)))

theorem finishProposal_frame (c : ℕ) (status : ℕ) (h : Frame m a s) (hm : sub [.cfg, .catchment, .log, .jx, .datum] m = true) : Frame m a (finishProposal c status s) := by
  unfold finishProposal
  repeat' first
    | with_reducible assumption | intro _ | exact sub_trans rfl hm | with_reducible apply setProps_frame | with_reducible apply ringWrite_frame
    | with_reducible apply sendOnce_frame | with_reducible apply saveResp_frame | split | dsimp only [id_eq]
    | fail_if_no_progress ((with_reducible apply frame_cfg (hm := sub_trans rfl hm)))

theorem sendAgree_frame (op : ℕ) (c : ℕ) (base : ℕ) (ballot : ℕ) (n : ℕ) (ep : Option ℕ) (addr : Option (BitVec 128)) (change : Bytes) (p : Purpose) (h : Frame m a s) (hm : sub [.catchment, .log, .jx] m = true) : Frame m a (sendAgree op c base ballot n ep addr change p s) := by
  unfold sendAgree
  repeat' first
    | with_reducible assumption | intro _ | ((with_reducible apply FrameP.snd); with_reducible apply sendMsg_frame) | with_reducible apply frame_ite
    | split

theorem mapNotices_frame (c : ℕ) (change : Bytes) (m_ : DMap) (h : Frame m a s) (hm : sub [.catchment, .log, .jx] m = true) : Frame m a (mapNotices c change m_ s) := by
  unfold mapNotices
  repeat' first
    | with_reducible assumption | intro _ | with_reducible apply sendOnce_frame | with_reducible apply frame_foldl | with_reducible apply frame_ite

theorem commitChange_frame (c : ℕ) (p : Proposal) (h : Frame m a s) (hm : sub [.cfg, .catchment, .log, .cnt, .node, .dir, .chan, .work, .jx, .slu, .datum] m = true) : Frame m a (commitChange c p s) := by
  unfold commitChange
  repeat' first
    | with_reducible assumption | intro _ | exact sub_trans rfl hm | with_reducible apply finishProposal_frame | with_reducible apply raise_frame
    | with_reducible apply sendAgree_frame | with_reducible apply applyChange_frame | with_reducible apply mapNotices_frame
    | with_reducible apply setHead_frame | ((with_reducible apply Frame.out); with_reducible assumption) | with_reducible apply Frame.getD
    | with_reducible apply frame_foldl | with_reducible apply frameP_foldl | with_reducible apply frameO_map | with_reducible apply frameOP_map
    | with_reducible apply frameOQ_map | with_reducible apply frame_ite | with_reducible apply frameP_ite | split
    | ((with_reducible apply FrameP.snd); with_reducible apply applyChange_frame) | with_reducible apply FrameP.mk' | dsimp only [id_eq]

theorem checkAccepts_frame (c : ℕ) (h : Frame m a s) (hm : sub [.cfg, .catchment, .log, .cnt, .node, .dir, .chan, .work, .jx, .slu, .datum] m = true) : Frame m a (checkAccepts c s) := by
  unfold checkAccepts
  repeat' first
    | with_reducible assumption | intro _ | with_reducible apply commitChange_frame | with_reducible apply frame_ite | split

theorem checkPromises_frame (c : ℕ) (h : Frame m a s) (hm : sub [.cfg, .catchment, .log, .cnt, .node, .dir, .chan, .work, .jx, .slu, .datum] m = true) : Frame m a (checkPromises c s) := by
  unfold checkPromises
  repeat' first
    | with_reducible assumption | intro _ | exact sub_trans rfl hm | with_reducible apply setHead_frame | with_reducible apply checkAccepts_frame
    | with_reducible apply sendAgree_frame | ((with_reducible apply FrameP.snd); with_reducible apply voterAccept_frame)
    | with_reducible apply frame_foldl | with_reducible apply frame_ite | split

theorem startRound_frame (c : ℕ) (round : ℕ) (h : Frame m a s) (hm : sub [.cfg, .catchment, .log, .cnt, .node, .dir, .chan, .work, .jx, .slu, .datum] m = true) : Frame m a (startRound c round s) := by
  unfold startRound
  repeat' first
    | with_reducible assumption | intro _ | exact sub_trans rfl hm | with_reducible apply finishProposal_frame | with_reducible apply setHead_frame
    | with_reducible apply checkPromises_frame | with_reducible apply sendAgree_frame | with_reducible apply voterPrepare_frame
    | ((with_reducible apply Frame.out); with_reducible assumption) | ((with_reducible apply Frame.outO); with_reducible assumption)
    | ((with_reducible apply Frame.outOP); with_reducible assumption) | ((with_reducible apply Frame.outOQ); with_reducible assumption)
    | with_reducible exact FrameOP.out ‹FrameOP m a (some (_, _))› _ _ rfl | ((with_reducible apply Frame.outOPs); with_reducible assumption)
    | ((with_reducible apply Frame.outOQs); with_reducible assumption) | with_reducible apply frame_foldl | with_reducible apply frameP_foldl
    | with_reducible apply frameOP_foldl | with_reducible apply frameO_foldl | with_reducible apply frame_ite | with_reducible apply frameP_ite
    | with_reducible apply frameO_ite | with_reducible apply frameOP_ite | split
    | ((with_reducible apply FrameP.snd); with_reducible apply voterPrepare_frame) | with_reducible apply FrameP.mk' | with_reducible apply FrameO.mk'
    | with_reducible apply FrameO.none_ | with_reducible apply FrameOP.mk' | with_reducible apply FrameOP.none_ | with_reducible apply FrameOP.mkP
    | with_reducible apply FrameOQ.mk' | with_reducible apply FrameOQ.none_ | dsimp only [id_eq]

theorem execDatumPropose_frame (comp : BitVec 32) (h : Frame m a s) (hm : sub [.cfg, .catchment, .log, .cnt, .node, .dir, .chan, .work, .jx, .slu, .datum] m = true) : FrameR m a (execDatumPropose comp s) := by
  unfold execDatumPropose
  repeat' first
    | with_reducible assumption | with_reducible apply startRound_frame | split | with_reducible apply FrameR.mk'

theorem execDatumRoundTimeout_frame (comp : BitVec 32) (h : Frame m a s) (hm : sub [.datum, .free] m = true) : FrameR m a (execDatumRoundTimeout comp s) := by
  unfold execDatumRoundTimeout
  repeat' first
    | with_reducible assumption | exact sub_trans rfl hm | with_reducible apply takeFree_frame | with_reducible apply setHead_frame
    | ((with_reducible apply Frame.out); with_reducible assumption) | split | with_reducible apply FrameR.mk'

theorem execDatumBackoffExpire_frame (comp : BitVec 32) (h : Frame m a s) (hm : sub [.cfg, .catchment, .log, .cnt, .node, .dir, .chan, .work, .jx, .slu, .datum] m = true) : FrameR m a (execDatumBackoffExpire comp s) := by
  unfold execDatumBackoffExpire
  repeat' first
    | with_reducible assumption | exact sub_trans rfl hm | with_reducible apply startRound_frame | with_reducible apply finishProposal_frame
    | with_reducible apply count_frame | split | with_reducible apply FrameR.mk'

theorem overtaken_frame (c : ℕ) (change : Bytes) (h : Frame m a s) (hm : sub [.cfg, .catchment, .log, .jx, .datum] m = true) : Frame m a (overtaken c change s) := by
  unfold overtaken
  repeat' first
    | with_reducible assumption | intro _ | exact sub_trans rfl hm | with_reducible apply finishProposal_frame | with_reducible apply setHead_frame
    | with_reducible apply frame_ite | split

theorem endLoadsTo_frame (n : ℕ) (h : Frame m a s) (hm : sub [.dir, .chan, .datum] m = true) : Frame m a (endLoadsTo n s) := by
  unfold endLoadsTo
  repeat' first
    | with_reducible assumption | intro _ | exact sub_trans rfl hm | with_reducible apply endLoadOut_frame | with_reducible apply frame_foldl | split
    | dsimp only [id_eq]

theorem suspectPartner_frame (n : ℕ) (h : Frame m a s) (hm : sub [.dir, .chan, .datum] m = true) : Frame m a (suspectPartner n s) := by
  unfold suspectPartner
  repeat' first
    | with_reducible assumption | intro _ | exact sub_trans rfl hm | with_reducible apply endLoadsTo_frame | with_reducible apply addProposal_frame
    | with_reducible apply frame_foldl | with_reducible apply frame_ite | split | dsimp only [id_eq]
    | fail_if_no_progress ((with_reducible apply frame_datum (hm := sub_trans rfl hm)))

theorem storeFull_frame (c : ℕ) (n : ℕ) (h : Frame m a s) (hm : sub [.datum] m = true) : Frame m a (storeFull c n s) := by
  unfold storeFull
  repeat' first
    | with_reducible assumption | intro _ | exact sub_trans rfl hm | with_reducible apply addNext_frame | with_reducible apply frame_foldl
    | with_reducible apply frame_ite | split | dsimp only [id_eq]

/-! ## Machine/DmaEnd.lean -/

theorem setDma_frame (c : ℕ) (x : DmaCh) (h : Frame m a s) (hm : sub [.dma] m = true) : Frame m a (setDma c x s) := by
  unfold setDma
  repeat' first
    | with_reducible assumption | fail_if_no_progress ((with_reducible apply frame_dma (hm := sub_trans rfl hm)))

theorem dmaFail_frame (c : ℕ) (status : ℕ) (cause : ℕ) (h : Frame m a s) (hm : sub [.dma] m = true) : Frame m a (dmaFail c status cause s) := by
  unfold dmaFail
  repeat' first
    | with_reducible assumption | with_reducible apply setDma_frame

theorem dmaMemFail_frame (c : ℕ) (ring : ℕ) (seq : ℕ) (h : Frame m a s) (hm : sub [.catchment, .log, .dma] m = true) : Frame m a (dmaMemFail c ring seq s) := by
  unfold dmaMemFail
  repeat' first
    | with_reducible assumption | intro _ | exact sub_trans rfl hm | with_reducible apply dmaFail_frame | with_reducible apply raise_frame
    | with_reducible apply logRecord_frame | with_reducible apply frame_ite | split | dsimp only [id_eq]

theorem dmaAbortFail_frame (c : ℕ) (h : Frame m a s) (hm : sub [.catchment, .log, .dma] m = true) : Frame m a (dmaAbortFail c s) := by
  unfold dmaAbortFail
  repeat' first
    | with_reducible assumption | intro _ | exact sub_trans rfl hm | with_reducible apply logEvent_frame | with_reducible apply dmaFail_frame
    | with_reducible apply frame_ite | split | dsimp only [id_eq]

theorem endRuns_frame (f : DmaSide → Bool) (ring : ℕ) (h : Frame m a s) (hm : sub [.catchment, .log, .dma] m = true) : Frame m a (endRuns f ring s) := by
  unfold endRuns
  repeat' first
    | with_reducible assumption | intro _ | exact sub_trans rfl hm | with_reducible apply dmaMemFail_frame | with_reducible apply frame_foldl | split
    | dsimp only [id_eq]

theorem abortRuns_frame (h : Frame m a s) (hm : sub [.catchment, .log, .dma] m = true) : Frame m a (abortRuns s) := by
  unfold abortRuns
  repeat' first
    | with_reducible assumption | intro _ | exact sub_trans rfl hm | with_reducible apply dmaAbortFail_frame | with_reducible apply frame_foldl
    | dsimp only [id_eq]

/-! ## Machine/Lost.lean -/

theorem seqLost_frame (slot : ℕ) (h : Frame m a s) (hm : sub [.catchment, .log, .dir, .chan, .jx, .datum] m = true) : Frame m a (seqLost slot s) := by
  unfold seqLost
  repeat' first
    | with_reducible assumption | intro _ | exact sub_trans rfl hm | with_reducible apply raise_frame | with_reducible apply setSeq_frame
    | with_reducible apply releaseSeq_frame | with_reducible apply newLoad_frame | with_reducible apply addProposal_frame
    | with_reducible apply frame_foldl | with_reducible apply frame_ite | split | dsimp only [id_eq]

theorem baseLost_frame (key : ℕ) (h : Frame m a s) (hm : sub [.catchment, .log, .dir, .chan, .jx, .datum] m = true) : Frame m a (baseLost key s) := by
  unfold baseLost
  repeat' first
    | with_reducible assumption | intro _ | with_reducible apply seqLost_frame | with_reducible apply frame_foldl

theorem lineCorrected_frame (a_ : ℕ) (h : Frame m a s) (hm : sub [.catchment, .log, .cnt] m = true) : Frame m a (lineCorrected a_ s) := by
  unfold lineCorrected
  repeat' first
    | with_reducible assumption | intro _ | exact sub_trans rfl hm | with_reducible apply raiseCount_frame | dsimp only [id_eq]

theorem lineBad_frame (a_ : ℕ) (h : Frame m a s) (hm : sub [.catchment, .log] m = true) : Frame m a (lineBad a_ s) := by
  unfold lineBad
  repeat' first
    | with_reducible assumption | intro _ | exact sub_trans rfl hm | with_reducible apply raise_frame | dsimp only [id_eq]

theorem baseLineLost_frame (a_ : ℕ) (h : Frame m a s) (hm : sub [.catchment, .log, .dir, .chan, .jx, .datum] m = true) : Frame m a (baseLineLost a_ s) := by
  unfold baseLineLost
  repeat' first
    | with_reducible assumption | intro _ | exact sub_trans rfl hm | with_reducible apply baseLost_frame | split | dsimp only [id_eq]

theorem lineLost_frame (a_ : ℕ) (h : Frame m a s) (hm : sub [.catchment, .log, .dir, .chan, .jx, .datum] m = true) : Frame m a (lineLost a_ s) := by
  unfold lineLost
  repeat' first
    | with_reducible assumption | intro _ | exact sub_trans rfl hm | with_reducible apply baseLineLost_frame | with_reducible apply lineBad_frame
    | with_reducible apply seqLost_frame | split | dsimp only [id_eq]

theorem endProgUse_frame (slot : ℕ) (h : Frame m a s) (hm : sub [.prog] m = true) : Frame m a (endProgUse slot s) := by
  unfold endProgUse
  repeat' first
    | with_reducible assumption | dsimp only [id_eq] | fail_if_no_progress ((with_reducible apply frame_prog (hm := sub_trans rfl hm)))

theorem leaveByRecord_frame (inst : ℕ) (slot : ℕ) (h : Frame m a s) (hm : sub [.dir, .chan, .slu, .datum] m = true) : Frame m a (leaveByRecord inst slot s) := by
  unfold leaveByRecord
  repeat' first
    | with_reducible assumption | intro _ | exact sub_trans rfl hm | with_reducible apply leaveSeq_frame | with_reducible apply setInst_frame | split
    | dsimp only [id_eq]

theorem endReq_frame (n : ℕ) (status : ℕ) (h : Frame m a s) (hm : sub [.cfg, .catchment, .log, .cnt, .dir, .chan, .prog, .req, .jx, .slu, .datum] m = true) : Frame m a (endReq n status s) := by
  unfold endReq
  repeat' first
    | with_reducible assumption | intro _ | exact sub_trans rfl hm | with_reducible apply leaveByRecord_frame | with_reducible apply endBusy_frame
    | with_reducible apply endProgUse_frame | with_reducible apply frame_ite | split | dsimp only [id_eq]
    | fail_if_no_progress ((with_reducible apply frame_req (hm := sub_trans rfl hm)))

theorem endReqs_frame (status : ℕ) (l : List ℕ) (h : Frame m a s) (hm : sub [.cfg, .catchment, .log, .cnt, .dir, .chan, .prog, .req, .jx, .slu, .datum] m = true) : Frame m a (endReqs status l s) := by
  unfold endReqs
  repeat' first
    | with_reducible assumption | intro _ | with_reducible apply endReq_frame | with_reducible apply frame_foldl

theorem setChan_frame (ch : ℕ) (c : Chan) (h : Frame m a s) (hm : sub [.chan] m = true) : Frame m a (setChan ch c s) := by
  unfold setChan
  repeat' first
    | with_reducible assumption | fail_if_no_progress ((with_reducible apply frame_chan (hm := sub_trans rfl hm)))

theorem setJournal_frame (ch : ℕ) (i : ℕ) (j : Journal) (h : Frame m a s) (hm : sub [.mem, .chan] m = true) : Frame m a (setJournal ch i j s) := by
  unfold setJournal
  repeat' first
    | with_reducible assumption | intro _ | exact sub_trans rfl hm | with_reducible apply writeFast_frame | with_reducible apply setChan_frame
    | dsimp only [id_eq]

theorem endAtom_frame (ch : ℕ) (st : JournalSt) (wrote : Bool) (h : Frame m a s) (hm : sub [.mem, .chan] m = true) : Frame m a (endAtom ch st wrote s) := by
  unfold endAtom
  repeat' first
    | with_reducible assumption | intro _ | exact sub_trans rfl hm | with_reducible apply setJournal_frame | with_reducible apply setChan_frame
    | with_reducible apply frame_ite | split | dsimp only [id_eq]

theorem dropWork_frame (h : Frame m a s) (hm : sub [.catchment, .log, .mem, .chan, .work, .installs, .req, .jx, .slu, .datum, .dma] m = true) : Frame m a (dropWork s) := by
  unfold dropWork
  repeat' first
    | with_reducible assumption | intro _ | exact sub_trans rfl hm | with_reducible apply abortRuns_frame | with_reducible apply endAtom_frame
    | with_reducible apply frame_foldl | dsimp only [id_eq] | fail_if_no_progress ((with_reducible apply frame_chan (hm := sub_trans rfl hm)))
    | fail_if_no_progress ((with_reducible apply frame_datum (hm := sub_trans rfl hm)))
    | fail_if_no_progress ((with_reducible apply frame_installs (hm := sub_trans rfl hm)))
    | fail_if_no_progress ((with_reducible apply frame_jx (hm := sub_trans rfl hm)))
    | fail_if_no_progress ((with_reducible apply frame_req (hm := sub_trans rfl hm)))
    | fail_if_no_progress ((with_reducible apply frame_slu (hm := sub_trans rfl hm)))
    | fail_if_no_progress ((with_reducible apply frame_work (hm := sub_trans rfl hm)))
    | fail_if_no_progress ((with_reducible apply frame_chan_work (hm := sub_trans rfl hm)))
    | fail_if_no_progress ((with_reducible apply frame_work_jx (hm := sub_trans rfl hm)))
    | fail_if_no_progress ((with_reducible apply frame_chan_work_installs_req_jx_slu_datum (hm := sub_trans rfl hm)))
    | fail_if_no_progress ((with_reducible apply frame_work_req (hm := sub_trans rfl hm)))

theorem fatalStop_frame (tell : Bool) (reason : ℕ) (lower : Detail) (h : Frame m a s) (hm : sub [.pwr, .cfg, .catchment, .log, .node, .ctl, .mem, .chan, .work, .installs, .req, .jx, .slu, .datum, .dma] m = true) : Frame m a (fatalStop tell reason lower s) := by
  unfold fatalStop
  repeat' first
    | with_reducible assumption | intro _ | exact sub_trans rfl hm | with_reducible apply raise_frame | with_reducible apply dropWork_frame
    | with_reducible apply withdrawAll_frame | with_reducible apply settle_frame | with_reducible apply frame_ite | split | dsimp only [id_eq]
    | fail_if_no_progress ((with_reducible apply frame_cfg (hm := sub_trans rfl hm)))
    | fail_if_no_progress ((with_reducible apply frame_ctl (hm := sub_trans rfl hm)))
    | fail_if_no_progress ((with_reducible apply frame_node (hm := sub_trans rfl hm)))
    | fail_if_no_progress ((with_reducible apply frame_pwr (hm := sub_trans rfl hm)))
    | fail_if_no_progress ((with_reducible apply frame_cfg_ctl (hm := sub_trans rfl hm)))
    | fail_if_no_progress ((with_reducible apply frame_cfg_node (hm := sub_trans rfl hm)))
    | fail_if_no_progress ((with_reducible apply frame_pwr_cfg (hm := sub_trans rfl hm)))
    | fail_if_no_progress ((with_reducible apply frame_pwr_cfg_node (hm := sub_trans rfl hm)))

theorem chipFatal_frame (reason : ℕ) (ring : ℕ) (seq : ℕ) (h : Frame m a s) (hm : sub [.pwr, .cfg, .catchment, .log, .node, .ctl, .mem, .chan, .work, .installs, .req, .jx, .slu, .datum, .dma] m = true) : Frame m a (chipFatal reason ring seq s) := by
  unfold chipFatal
  repeat' first
    | with_reducible assumption | with_reducible apply fatalStop_frame

/-! ## Machine/Directory.lean -/

theorem dirFull_frame  (h : Frame m a s) (hm : sub [.catchment, .log] m = true) : Frame m a (dirFull s) := by
  unfold dirFull
  repeat' first
    | with_reducible assumption | intro _ | with_reducible apply raise_frame | with_reducible apply frame_ite | split

theorem frameExhausted_frame (r : ℕ) (h : Frame m a s) (hm : sub [.catchment, .log] m = true) : Frame m a (frameExhausted r s) := by
  unfold frameExhausted
  repeat' first
    | with_reducible assumption | with_reducible apply raise_frame

theorem makeSeq_frame (slot : ℕ) (tenant : ℕ) (tag : ℕ) (fp : ℕ) (openTime : ℕ) (st : SeqSt) (d : Bytes) (h : Frame m a s) (hm : sub [.cnt, .mem, .sto, .dir] m = true) : FrameO m a (makeSeq slot tenant tag fp openTime st d s) := by
  unfold makeSeq
  repeat' first
    | with_reducible assumption | intro _ | exact sub_trans rfl hm | with_reducible apply takeSpan_frame | with_reducible apply setSeq_frame
    | ((with_reducible apply Frame.outOP); with_reducible assumption) | with_reducible apply frameO_map | split | with_reducible apply FrameO.none_

theorem seqOpenDo_frame (tenant : ℕ) (tag : ℕ) (fp : ℕ) (d : Bytes) (who : optParam Who none) (h : Frame m a s) (hm : sub [.catchment, .log, .cnt, .mem, .sto, .dir] m = true) : FrameQ m a (seqOpenDo tenant tag fp d s who) := by
  unfold seqOpenDo
  repeat' first
    | with_reducible assumption | intro _ | exact sub_trans rfl hm | with_reducible apply lookSeq_frame | with_reducible apply refuseSeq_frame
    | with_reducible apply refuseR_frame | with_reducible apply dirFull_frame | with_reducible apply makeSeq_frame
    | with_reducible apply frameExhausted_frame | ((with_reducible apply Frame.out); with_reducible assumption)
    | ((with_reducible apply Frame.outO); with_reducible assumption) | with_reducible apply frame_ite | with_reducible apply frameP_ite
    | with_reducible apply frameQ_ite | with_reducible apply frameO_ite | split
    | ((with_reducible apply FrameP.snd); with_reducible apply lookSeq_frame) | with_reducible apply FrameP.mk' | with_reducible apply FrameQ.mk'
    | with_reducible apply FrameQ.mkP | with_reducible apply FrameO.mk' | with_reducible apply FrameO.none_ | dsimp only [id_eq]

theorem execSeqOpen_frame (inst : ℕ) (h : Frame m a s) (hm : sub [.cfg, .catchment, .log, .cnt, .mem, .sto, .dir, .chan, .jx, .slu, .datum] m = true) : FrameR m a (execSeqOpen inst s) := by
  unfold execSeqOpen
  repeat' first
    | with_reducible assumption | intro _ | exact sub_trans rfl hm | with_reducible apply seqOpenDo_frame | with_reducible apply actDone_frame
    | ((with_reducible apply Frame.outQ); with_reducible assumption) | split
    | ((with_reducible apply FrameQ.snd); with_reducible apply seqOpenDo_frame) | with_reducible apply FrameR.mk' | with_reducible apply FrameR.fault
    | with_reducible apply FrameQ.mk' | with_reducible apply FrameQ.mkP | dsimp only [id_eq]

theorem backTensor_frame (slot : ℕ) (ti : ℕ) (h : Frame m a s) (hm : sub [.cnt, .mem, .sto, .dir] m = true) : FrameO m a (backTensor slot ti s) := by
  unfold backTensor
  repeat' first
    | with_reducible assumption | intro _ | exact sub_trans rfl hm | with_reducible apply setTen_frame | with_reducible apply takeSpan_frame
    | ((with_reducible apply Frame.outOP); with_reducible assumption) | with_reducible apply frameO_map | with_reducible apply frameO_ite
    | with_reducible apply FrameO.mk'

theorem regTensor_frame (slot : ℕ) (ti : ℕ) (deep : Bool) (h : Frame m a s) (hm : sub [.cnt, .mem, .sto, .dir] m = true) : FrameO m a (regTensor slot ti deep s) := by
  unfold regTensor
  repeat' first
    | with_reducible assumption | intro _ | exact sub_trans rfl hm | with_reducible apply setTen_frame | with_reducible apply backTensor_frame
    | with_reducible apply frameO_ite | split | with_reducible apply FrameO.mk'

theorem tensorRegDo_frame (tenant : ℕ) (tag : ℕ) (l : ℕ) (k : ℕ) (deep : Bool) (who : optParam Who none) (h : Frame m a s) (hm : sub [.catchment, .log, .cnt, .mem, .sto, .dir, .chan, .key, .jx, .datum] m = true) : FrameP m a (tensorRegDo tenant tag l k deep s who) := by
  unfold tensorRegDo
  repeat' first
    | with_reducible assumption | intro _ | exact sub_trans rfl hm | with_reducible apply lookSeq_frame | with_reducible apply refuseSeq_frame
    | with_reducible apply refuseTen_frame | with_reducible apply regTensor_frame | with_reducible apply frameExhausted_frame
    | with_reducible apply relayTensor_frame | ((with_reducible apply Frame.out); with_reducible assumption)
    | ((with_reducible apply Frame.outO); with_reducible assumption) | with_reducible apply frame_ite | with_reducible apply frameP_ite
    | with_reducible apply frameO_ite | split | ((with_reducible apply FrameP.snd); with_reducible apply lookSeq_frame)
    | with_reducible apply FrameP.mk' | with_reducible apply FrameO.mk' | with_reducible apply FrameO.none_ | dsimp only [id_eq]

theorem execTensorReg_frame (inst : ℕ) (h : Frame m a s) (hm : sub [.cfg, .catchment, .log, .cnt, .mem, .sto, .dir, .chan, .key, .jx, .slu, .datum] m = true) : FrameR m a (execTensorReg inst s) := by
  unfold execTensorReg
  repeat' first
    | with_reducible assumption | intro _ | exact sub_trans rfl hm | with_reducible apply tensorRegDo_frame | with_reducible apply actEnd_frame
    | ((with_reducible apply Frame.out); with_reducible assumption) | split
    | ((with_reducible apply FrameP.snd); with_reducible apply tensorRegDo_frame) | with_reducible apply FrameR.mk'
    | with_reducible apply FrameR.fault | with_reducible apply FrameP.mk' | dsimp only [id_eq]

theorem setFingerprintDo_frame (tenant : ℕ) (tag : ℕ) (fp : ℕ) (who : optParam Who none) (h : Frame m a s) (hm : sub [.catchment, .log, .cnt, .dir] m = true) : FrameP m a (setFingerprintDo tenant tag fp s who) := by
  unfold setFingerprintDo
  repeat' first
    | with_reducible assumption | intro _ | exact sub_trans rfl hm | with_reducible apply lookSeq_frame | with_reducible apply refuseSeq_frame
    | with_reducible apply setSeq_frame | ((with_reducible apply Frame.out); with_reducible assumption) | with_reducible apply frame_ite
    | with_reducible apply frameP_ite | split | ((with_reducible apply FrameP.snd); with_reducible apply lookSeq_frame)
    | with_reducible apply FrameP.mk' | dsimp only [id_eq]

theorem execSetFingerprint_frame (inst : ℕ) (h : Frame m a s) (hm : sub [.cfg, .catchment, .log, .cnt, .dir, .chan, .jx, .slu, .datum] m = true) : FrameR m a (execSetFingerprint inst s) := by
  unfold execSetFingerprint
  repeat' first
    | with_reducible assumption | exact sub_trans rfl hm | with_reducible apply setFingerprintDo_frame | with_reducible apply actEnd_frame
    | ((with_reducible apply Frame.out); with_reducible assumption) | split | with_reducible apply FrameR.mk'

theorem seqReleaseDo_frame (tenant : ℕ) (tag : ℕ) (h : Frame m a s) (hm : sub [.catchment, .log, .cnt, .dir, .chan, .datum] m = true) : FrameP m a (seqReleaseDo tenant tag s) := by
  unfold seqReleaseDo
  repeat' first
    | with_reducible assumption | intro _ | exact sub_trans rfl hm | with_reducible apply lookSeq_frame | with_reducible apply releaseSeq_frame
    | ((with_reducible apply Frame.out); with_reducible assumption) | with_reducible apply frame_ite | with_reducible apply frameP_ite | split
    | ((with_reducible apply FrameP.snd); with_reducible apply lookSeq_frame) | with_reducible apply FrameP.mk' | dsimp only [id_eq]

theorem execSeqRelease_frame (inst : ℕ) (h : Frame m a s) (hm : sub [.cfg, .catchment, .log, .cnt, .dir, .chan, .jx, .slu, .datum] m = true) : FrameR m a (execSeqRelease inst s) := by
  unfold execSeqRelease
  repeat' first
    | with_reducible assumption | exact sub_trans rfl hm | with_reducible apply seqReleaseDo_frame | with_reducible apply actEnd_frame
    | ((with_reducible apply Frame.out); with_reducible assumption) | split | with_reducible apply FrameR.mk'

theorem freeSeq_frame (slot : ℕ) (h : Frame m a s) (hm : sub [.catchment, .log, .node, .sto, .dir, .tlb, .work, .req, .jx] m = true) : Frame m a (freeSeq slot s) := by
  unfold freeSeq
  repeat' first
    | with_reducible assumption | intro _ | exact sub_trans rfl hm | with_reducible apply dropStorage_frame | with_reducible apply tlbDropSlot_frame
    | with_reducible apply drainCheck_frame | with_reducible apply setSeq_frame | with_reducible apply frame_ite | split | dsimp only [id_eq]
    | fail_if_no_progress ((with_reducible apply frame_req (hm := sub_trans rfl hm)))
    | fail_if_no_progress ((with_reducible apply frame_work (hm := sub_trans rfl hm)))
    | fail_if_no_progress ((with_reducible apply frame_work_req (hm := sub_trans rfl hm)))

theorem execSeqFree_frame (slot : Fin 262144) (h : Frame m a s) (hm : sub [.catchment, .log, .node, .sto, .dir, .tlb, .work, .req, .jx] m = true) : FrameR m a (execSeqFree slot s) := by
  unfold execSeqFree
  repeat' first
    | with_reducible assumption | with_reducible apply freeSeq_frame | split | with_reducible apply FrameR.mk'

theorem dirSearchDo_frame (tenant : ℕ) (fpKind : Bool) (value : ℕ) (mask : ℕ) (cursor : ℕ) (h : Frame m a s) (hm : sub [.catchment, .log, .cnt, .dir] m = true) : FrameP m a (dirSearchDo tenant fpKind value mask cursor s) := by
  unfold dirSearchDo
  repeat' first
    | with_reducible assumption | intro _ | exact sub_trans rfl hm | with_reducible apply checkedHit_frame
    | ((with_reducible apply Frame.out); with_reducible assumption) | split
    | ((with_reducible apply FrameP.snd); with_reducible apply checkedHit_frame) | with_reducible apply FrameP.mk' | dsimp only [id_eq]

theorem execDirSearch_frame (inst : ℕ) (h : Frame m a s) (hm : sub [.cfg, .catchment, .log, .cnt, .dir, .chan, .jx, .slu, .datum] m = true) : FrameR m a (execDirSearch inst s) := by
  unfold execDirSearch
  repeat' first
    | with_reducible assumption | intro _ | exact sub_trans rfl hm | with_reducible apply dirSearchDo_frame | with_reducible apply actEnd_frame
    | with_reducible apply setInst_frame | with_reducible apply sendMsg_frame | ((with_reducible apply Frame.out); with_reducible assumption)
    | with_reducible apply frame_ite | with_reducible apply frameP_ite | split
    | ((with_reducible apply FrameP.snd); with_reducible apply sendMsg_frame)
    | ((with_reducible apply FrameP.snd); with_reducible apply dirSearchDo_frame) | with_reducible apply FrameR.mk'
    | with_reducible apply FrameR.fault | with_reducible apply FrameP.mk' | dsimp only [id_eq]

theorem execOldFrameFree_frame (frame : ℕ) (h : Frame m a s) (hm : sub [.sto] m = true) : FrameR m a (execOldFrameFree frame s) := by
  unfold execOldFrameFree
  repeat' first
    | with_reducible assumption | intro _ | exact sub_trans rfl hm | with_reducible apply releaseDeep_frame | with_reducible apply giveFrame_frame
    | with_reducible apply frame_ite | split | with_reducible apply FrameR.mk' | with_reducible apply FrameR.fault | dsimp only [id_eq]
    | fail_if_no_progress ((with_reducible apply frame_sto (hm := sub_trans rfl hm)))

/-! ## Machine/Reads.lean -/

theorem touchCode_frame (a_ : ℕ) (h : Frame m a s) (hm : sub [.chan] m = true) : Frame m a (touchCode a_ s) := by
  unfold touchCode
  repeat' first
    | with_reducible assumption | intro _ | exact sub_trans rfl hm | with_reducible apply setChan_frame | with_reducible apply frame_ite | split
    | dsimp only [id_eq]

theorem touchCodes_frame (l : List ℕ) (h : Frame m a s) (hm : sub [.chan] m = true) : Frame m a (touchCodes l s) := by
  unfold touchCodes
  repeat' first
    | with_reducible assumption | intro _ | exact sub_trans rfl hm | with_reducible apply touchCode_frame | with_reducible apply frame_foldl
    | dsimp only [id_eq]

theorem holdRead_frame (who : Reader) (a_ : ℕ) (mismatch : Bool) (h : Frame m a s) (hm : sub [.catchment, .log, .cnt, .chan] m = true) : Frame m a (holdRead who a_ mismatch s) := by
  unfold holdRead
  repeat' first
    | with_reducible assumption | intro _ | exact sub_trans rfl hm | with_reducible apply setChan_frame | with_reducible apply raiseCount_frame
    | with_reducible apply frame_ite | split | dsimp only [id_eq]

theorem dropHeld_frame (who : Reader) (h : Frame m a s) (hm : sub [.chan] m = true) : Frame m a (dropHeld who s) := by
  unfold dropHeld
  repeat' first
    | with_reducible assumption | intro _ | exact sub_trans rfl hm | dsimp only [id_eq]
    | fail_if_no_progress ((with_reducible apply frame_chan (hm := sub_trans rfl hm)))

theorem readChunks_frame (who : Reader) (chunks : List ℕ) (o : LineOutcome) (h : Frame m a s) (hm : sub [.catchment, .log, .cnt, .chan] m = true) : FrameP m a (readChunks who chunks o s) := by
  unfold readChunks
  repeat' first
    | with_reducible assumption | intro _ | exact sub_trans rfl hm | with_reducible apply dropHeld_frame | with_reducible apply holdRead_frame
    | with_reducible apply touchCodes_frame | with_reducible apply lineCorrected_frame | with_reducible apply frame_ite
    | with_reducible apply frameP_ite | split | with_reducible apply FrameP.mk' | dsimp only [id_eq]

theorem readFree_frame (who : Reader) (chunks : List ℕ) (h : Frame m a s) (hm : sub [.catchment, .log, .cnt, .chan, .free] m = true) : FrameP m a (readFree who chunks s) := by
  unfold readFree
  repeat' first
    | with_reducible assumption | intro _ | exact sub_trans rfl hm | with_reducible apply takeFree_frame | with_reducible apply readChunks_frame
    | ((with_reducible apply Frame.out); with_reducible assumption) | split | ((with_reducible apply FrameP.snd); with_reducible apply takeFree_frame)
    | ((with_reducible apply FrameP.snd); with_reducible apply readChunks_frame) | with_reducible apply FrameP.mk' | dsimp only [id_eq]

/-! ## Machine/Pages.lean -/

theorem givePage_frame (slot : ℕ) (ti : ℕ) (idx : ℕ) (h : Frame m a s) (hm : sub [.cnt, .mem, .sto] m = true) : FrameO m a (givePage slot ti idx s) := by
  unfold givePage
  repeat' first
    | with_reducible assumption | intro _ | exact sub_trans rfl hm | with_reducible apply takePageFrame_frame | with_reducible apply setLeaf_frame
    | ((with_reducible apply Frame.outO); with_reducible assumption) | split | with_reducible apply FrameO.mk' | with_reducible apply FrameO.none_
    | dsimp only [id_eq]

theorem givePages_frame (slot : ℕ) (p1 : List (ℕ × ℕ)) (h : Frame m a s) (hm : sub [.cnt, .mem, .sto] m = true) : FrameO m a (givePages slot p1 s) := by
  induction p1 generalizing s with
  | nil =>
    unfold givePages
    repeat' first
      | with_reducible assumption | with_reducible apply FrameO.mk'
  | cons _ _ ih =>
    unfold givePages
    repeat' first
      | with_reducible assumption | (apply ih) | with_reducible apply givePage_frame | ((with_reducible apply Frame.outO); with_reducible assumption)
      | split | with_reducible apply FrameO.none_

theorem reserveFrame_frame (slot : ℕ) (name : ℕ) (h : Frame m a s) (hm : sub [.cnt, .sto] m = true) : FrameOP m a (reserveFrame slot name s) := by
  unfold reserveFrame
  repeat' first
    | with_reducible assumption | intro _ | exact sub_trans rfl hm | with_reducible apply useFast_frame | with_reducible apply count_frame
    | with_reducible apply frameOP_map | split | with_reducible apply FrameP.mk'

theorem dropReserved_frame (l : List ℕ) (h : Frame m a s) (hm : sub [.sto] m = true) : Frame m a (dropReserved l s) := by
  unfold dropReserved
  repeat' first
    | with_reducible assumption | intro _ | with_reducible apply frame_foldl | split | dsimp only [id_eq]
    | fail_if_no_progress ((with_reducible apply frame_sto (hm := sub_trans rfl hm)))

theorem changeLeaf_frame (slot : ℕ) (ti : ℕ) (idx : ℕ) (leaf : ℕ) (h : Frame m a s) (hm : sub [.cnt, .mem, .sto, .dir, .tlb] m = true) : Frame m a (changeLeaf slot ti idx leaf s) := by
  unfold changeLeaf
  repeat' first
    | with_reducible assumption | intro _ | exact sub_trans rfl hm | with_reducible apply setLeaf_frame | with_reducible apply tlbDropPage_frame
    | with_reducible apply dirtyPage_frame | with_reducible apply reuseFast_frame | with_reducible apply dropRef_frame
    | with_reducible apply retireFrame_frame | with_reducible apply Frame.getD | with_reducible apply frame_ite | split | dsimp only [id_eq]
    | fail_if_no_progress ((with_reducible apply frame_sto (hm := sub_trans rfl hm)))

theorem unstripe_frame (slot : ℕ) (ti : ℕ) (idx : ℕ) (h : Frame m a s) (hm : sub [.catchment, .log, .cnt, .mem, .sto, .dir, .tlb, .chan, .free] m = true) : FrameP m a (unstripe slot ti idx s) := by
  unfold unstripe
  repeat' first
    | with_reducible assumption | intro _ | exact sub_trans rfl hm | with_reducible apply readFree_frame | with_reducible apply takePageFrame_frame
    | with_reducible apply writeFastFor_frame | with_reducible apply count_frame | with_reducible apply changeLeaf_frame
    | ((with_reducible apply Frame.out); with_reducible assumption) | with_reducible apply frame_ite | with_reducible apply frameP_ite | split
    | ((with_reducible apply FrameP.snd); with_reducible apply readFree_frame) | with_reducible apply FrameP.mk' | dsimp only [id_eq]

theorem issueUnit_frame (ch : ℕ) (c : UnitCmd) (h : Frame m a s) (hm : sub [.rgn, .chan, .work] m = true) : Frame m a (issueUnit ch c s) := by
  unfold issueUnit
  repeat' first
    | with_reducible assumption | intro _ | exact sub_trans rfl hm | with_reducible apply markBusy_frame | dsimp only [id_eq]
    | fail_if_no_progress ((with_reducible apply frame_chan (hm := sub_trans rfl hm)))
    | fail_if_no_progress ((with_reducible apply frame_work (hm := sub_trans rfl hm)))
    | fail_if_no_progress ((with_reducible apply frame_chan_work (hm := sub_trans rfl hm)))

theorem unstripePair_frame (slot : ℕ) (ti : ℕ) (idx : ℕ) (h : Frame m a s) (hm : sub [.catchment, .log, .cnt, .mem, .sto, .dir, .tlb, .chan, .free] m = true) : FrameP m a (unstripePair slot ti idx s) := by
  unfold unstripePair
  repeat' first
    | with_reducible assumption | intro _ | exact sub_trans rfl hm | with_reducible apply unstripe_frame
    | ((with_reducible apply Frame.out); with_reducible assumption) | split | ((with_reducible apply FrameP.snd); with_reducible apply unstripe_frame)
    | with_reducible apply FrameP.mk' | dsimp only [id_eq]

theorem reservePair_frame (slot : ℕ) (ti : ℕ) (idx : ℕ) (pair : Bool) (h : Frame m a s) (hm : sub [.cnt, .sto] m = true) : FrameOQ m a (reservePair slot ti idx pair s) := by
  unfold reservePair
  repeat' first
    | with_reducible assumption | with_reducible apply reserveFrame_frame | ((with_reducible apply Frame.outOP); with_reducible assumption) | split
    | with_reducible apply FrameOQ.mk' | with_reducible apply FrameOQ.none_

theorem addLeafJob_frame (c : UnitCmd) (h : Frame m a s) (hm : sub [.work] m = true) : Frame m a (addLeafJob c s) := by
  unfold addLeafJob
  repeat' first
    | with_reducible assumption | dsimp only [id_eq] | fail_if_no_progress ((with_reducible apply frame_work (hm := sub_trans rfl hm)))

theorem issueDecodeInto_frame (new : ℕ) (slot : ℕ) (ti : ℕ) (idx : ℕ) (e : ℕ) (b_ : BaseRef) (job : UnitJob) (h : Frame m a s) (hm : sub [.rgn, .chan, .work] m = true) : Frame m a (issueDecodeInto new slot ti idx e b_ job s) := by
  unfold issueDecodeInto
  repeat' first
    | with_reducible assumption | intro _ | exact sub_trans rfl hm | with_reducible apply issueUnit_frame | dsimp only [id_eq]

theorem issueDecode_frame (slot : ℕ) (ti : ℕ) (idx : ℕ) (e : ℕ) (job : UnitJob) (h : Frame m a s) (hm : sub [.cnt, .rgn, .sto, .chan, .work] m = true) : FrameO m a (issueDecode slot ti idx e job s) := by
  unfold issueDecode
  repeat' first
    | with_reducible assumption | intro _ | exact sub_trans rfl hm | with_reducible apply issueDecodeInto_frame
    | with_reducible apply reserveFrame_frame | ((with_reducible apply Frame.outOP); with_reducible assumption)
    | ((with_reducible apply Frame.outOPs); with_reducible assumption) | with_reducible apply frameO_map | with_reducible apply frameOP_map
    | with_reducible apply frameOQ_map | split | with_reducible apply FrameP.mk' | with_reducible apply FrameO.mk' | with_reducible apply FrameO.none_
    | with_reducible apply FrameOP.mk' | with_reducible apply FrameOP.none_ | with_reducible apply FrameOP.mkP | dsimp only [id_eq]

/-! ## Machine/Work.lean -/

theorem progCheck_frame (tenant : ℕ) (slot : ℕ) (gen : ℕ) (op : ℕ) (who : optParam Who none) (h : Frame m a s) (hm : sub [.catchment, .log, .cnt] m = true) : FrameP m a (progCheck tenant slot gen op s who) := by
  unfold progCheck
  repeat' first
    | with_reducible assumption | intro _ | exact sub_trans rfl hm | with_reducible apply refuseC_frame | with_reducible apply frame_ite
    | with_reducible apply frameP_ite | split | with_reducible apply FrameP.mk' | dsimp only [id_eq]

theorem startProgUse_frame (slot : ℕ) (h : Frame m a s) (hm : sub [.prog] m = true) : Frame m a (startProgUse slot s) := by
  unfold startProgUse
  repeat' first
    | with_reducible assumption | dsimp only [id_eq] | fail_if_no_progress ((with_reducible apply frame_prog (hm := sub_trans rfl hm)))

theorem addClipped_frame (slot : ℕ) (layer : ℕ) (n : ℕ) (threshold : ℕ) (h : Frame m a s) (hm : sub [.catchment, .log, .cnt, .dir] m = true) : Frame m a (addClipped slot layer n threshold s) := by
  unfold addClipped
  repeat' first
    | with_reducible assumption | intro _ | exact sub_trans rfl hm | with_reducible apply setSeq_frame | with_reducible apply countTenant_frame
    | with_reducible apply logEvent_frame | with_reducible apply frame_ite

theorem rewriteEnd_frame (key : ℕ) (status : ℕ) (h : Frame m a s) (hm : sub [.cfg, .catchment, .log, .cnt, .dir, .chan, .work, .prog, .jx, .slu, .datum] m = true) : Frame m a (rewriteEnd key status s) := by
  unfold rewriteEnd
  repeat' first
    | with_reducible assumption | intro _ | exact sub_trans rfl hm | with_reducible apply setTen_frame | with_reducible apply endProgUse_frame
    | with_reducible apply endBusy_frame | with_reducible apply leaveSeq_frame | with_reducible apply frame_ite | split | dsimp only [id_eq]
    | fail_if_no_progress ((with_reducible apply frame_work (hm := sub_trans rfl hm)))

theorem setRewrite_frame (key : ℕ) (r : Rewrite) (h : Frame m a s) (hm : sub [.work] m = true) : Frame m a (setRewrite key r s) := by
  unfold setRewrite
  repeat' first
    | with_reducible assumption | dsimp only [id_eq] | fail_if_no_progress ((with_reducible apply frame_work (hm := sub_trans rfl hm)))

theorem rewriteStuck_frame (key : ℕ) (idx : ℕ) (h : Frame m a s) (hm : sub [.cfg, .catchment, .log, .cnt, .dir, .chan, .work, .prog, .jx, .slu, .datum] m = true) : Frame m a (rewriteStuck key idx s) := by
  unfold rewriteStuck
  repeat' first
    | with_reducible assumption | exact sub_trans rfl hm | with_reducible apply rewriteEnd_frame | with_reducible apply frameExhausted_frame

theorem rewriteGo_frame (key : ℕ) (p1 : List ℕ) (h : Frame m a s) (hm : sub [.cfg, .catchment, .log, .cnt, .rgn, .mem, .sto, .dir, .tlb, .chan, .work, .prog, .jx, .slu, .datum, .free] m = true) : Frame m a (rewriteGo key p1 s) := by
  induction p1 generalizing s with
  | nil =>
    unfold rewriteGo
    repeat' first
      | with_reducible assumption | intro _ | exact sub_trans rfl hm | with_reducible apply rewriteEnd_frame | with_reducible apply setRewrite_frame
      | with_reducible apply issueDecode_frame | with_reducible apply rewriteStuck_frame | with_reducible apply countTenant_frame
      | with_reducible apply unstripePair_frame | with_reducible apply lineLost_frame | with_reducible apply reservePair_frame
      | with_reducible apply issueUnit_frame | ((with_reducible apply Frame.out); with_reducible assumption)
      | ((with_reducible apply Frame.outO); with_reducible assumption) | ((with_reducible apply Frame.outOQ); with_reducible assumption)
      | ((with_reducible apply Frame.outOQs); with_reducible assumption) | with_reducible apply Frame.getD | with_reducible apply frame_ite
      | with_reducible apply frameP_ite | with_reducible apply frameO_ite | split
      | ((with_reducible apply FrameP.snd); with_reducible apply unstripePair_frame) | with_reducible apply FrameP.mk'
      | with_reducible apply FrameO.mk' | with_reducible apply FrameO.none_ | with_reducible apply FrameOQ.mk' | with_reducible apply FrameOQ.none_
      | dsimp only [id_eq]
  | cons _ _ ih =>
    unfold rewriteGo
    repeat' first
      | with_reducible assumption | intro _ | (apply ih) | exact sub_trans rfl hm | with_reducible apply rewriteEnd_frame
      | with_reducible apply setRewrite_frame | with_reducible apply issueDecode_frame | with_reducible apply rewriteStuck_frame
      | with_reducible apply countTenant_frame | with_reducible apply unstripePair_frame | with_reducible apply lineLost_frame
      | with_reducible apply reservePair_frame | with_reducible apply issueUnit_frame | ((with_reducible apply Frame.out); with_reducible assumption)
      | ((with_reducible apply Frame.outO); with_reducible assumption) | ((with_reducible apply Frame.outOQ); with_reducible assumption)
      | ((with_reducible apply Frame.outOQs); with_reducible assumption) | with_reducible apply Frame.getD | with_reducible apply frame_ite
      | with_reducible apply frameP_ite | with_reducible apply frameO_ite | split
      | ((with_reducible apply FrameP.snd); with_reducible apply unstripePair_frame) | with_reducible apply FrameP.mk'
      | with_reducible apply FrameO.mk' | with_reducible apply FrameO.none_ | with_reducible apply FrameOQ.mk' | with_reducible apply FrameOQ.none_
      | dsimp only [id_eq]

theorem rewriteState_frame (slot : ℕ) (ti : ℕ) (tenant : ℕ) (who : optParam Who none) (h : Frame m a s) (hm : sub [.catchment, .log, .cnt] m = true) : FrameP m a (rewriteState slot ti tenant s who) := by
  unfold rewriteState
  repeat' first
    | with_reducible assumption | intro _ | exact sub_trans rfl hm | with_reducible apply refuseTen_frame | split | with_reducible apply FrameP.mk'
    | dsimp only [id_eq]

theorem rewriteStart_frame (slot : ℕ) (ti : ℕ) (inst : ℕ) (k : ℕ) (r : Rewrite) (h : Frame m a s) (hm : sub [.cfg, .catchment, .log, .cnt, .rgn, .mem, .sto, .dir, .tlb, .chan, .work, .prog, .jx, .slu, .datum, .free] m = true) : Frame m a (rewriteStart slot ti inst k r s) := by
  unfold rewriteStart
  repeat' first
    | with_reducible assumption | intro _ | exact sub_trans rfl hm | with_reducible apply setTen_frame | with_reducible apply enterSeq_frame
    | with_reducible apply startProgUse_frame | with_reducible apply rewriteGo_frame | with_reducible apply actBusy_frame
    | with_reducible apply setRewrite_frame | with_reducible apply frame_ite

theorem requantDo_frame (x : Inst) (inst : ℕ) (k : ℕ) (p : Bytes) (h : Frame m a s) (hm : sub [.cfg, .catchment, .log, .cnt, .rgn, .mem, .sto, .dir, .tlb, .chan, .work, .prog, .jx, .slu, .datum, .free] m = true) : Frame m a (requantDo x inst k p s) := by
  unfold requantDo
  repeat' first
    | with_reducible assumption | intro _ | exact sub_trans rfl hm | with_reducible apply lookSeq_frame | with_reducible apply actEnd_frame
    | with_reducible apply refuseSeq_frame | with_reducible apply countTenant_frame | with_reducible apply rewriteState_frame
    | with_reducible apply progCheck_frame | with_reducible apply rewriteStart_frame | ((with_reducible apply Frame.out); with_reducible assumption)
    | with_reducible apply frame_ite | with_reducible apply frameP_ite | split
    | ((with_reducible apply FrameP.snd); with_reducible apply lookSeq_frame)
    | ((with_reducible apply FrameP.snd); with_reducible apply rewriteState_frame)
    | ((with_reducible apply FrameP.snd); with_reducible apply progCheck_frame) | with_reducible apply FrameP.mk' | dsimp only [id_eq]

theorem execRewriteRequant_frame (inst : ℕ) (h : Frame m a s) (hm : sub [.cfg, .catchment, .log, .cnt, .rgn, .mem, .sto, .dir, .tlb, .chan, .work, .prog, .jx, .slu, .datum, .free] m = true) : FrameR m a (execRewriteRequant inst s) := by
  unfold execRewriteRequant
  repeat' first
    | with_reducible assumption | with_reducible apply requantDo_frame | split | with_reducible apply FrameR.mk'

theorem baseCheck_frame (x : Inst) (d : Bytes) (tag : ℕ) (h : Frame m a s) (hm : sub [.catchment, .log, .cnt, .dir] m = true) : FrameP m a (baseCheck x d tag s) := by
  unfold baseCheck
  repeat' first
    | with_reducible assumption | intro _ | exact sub_trans rfl hm | with_reducible apply lookSeq_frame | with_reducible apply refuseSeq_frame
    | ((with_reducible apply Frame.out); with_reducible assumption) | with_reducible apply frame_ite | with_reducible apply frameP_ite | split
    | ((with_reducible apply FrameP.snd); with_reducible apply lookSeq_frame) | with_reducible apply FrameP.mk' | dsimp only [id_eq]

theorem rewriteDeltaDo_frame (x : Inst) (inst : ℕ) (k : ℕ) (p : Bytes) (h : Frame m a s) (hm : sub [.cfg, .catchment, .log, .cnt, .rgn, .mem, .sto, .dir, .tlb, .chan, .work, .prog, .jx, .slu, .datum, .free] m = true) : Frame m a (rewriteDeltaDo x inst k p s) := by
  unfold rewriteDeltaDo
  repeat' first
    | with_reducible assumption | intro _ | exact sub_trans rfl hm | with_reducible apply lookSeq_frame | with_reducible apply actEnd_frame
    | with_reducible apply baseCheck_frame | with_reducible apply refuseSeq_frame | with_reducible apply rewriteState_frame
    | with_reducible apply rewriteStart_frame | ((with_reducible apply Frame.out); with_reducible assumption) | with_reducible apply frame_ite
    | with_reducible apply frameP_ite | split | ((with_reducible apply FrameP.snd); with_reducible apply lookSeq_frame)
    | ((with_reducible apply FrameP.snd); with_reducible apply baseCheck_frame)
    | ((with_reducible apply FrameP.snd); with_reducible apply rewriteState_frame) | with_reducible apply FrameP.mk' | dsimp only [id_eq]

theorem execRewriteDelta_frame (inst : ℕ) (h : Frame m a s) (hm : sub [.cfg, .catchment, .log, .cnt, .rgn, .mem, .sto, .dir, .tlb, .chan, .work, .prog, .jx, .slu, .datum, .free] m = true) : FrameR m a (execRewriteDelta inst s) := by
  unfold execRewriteDelta
  repeat' first
    | with_reducible assumption | with_reducible apply rewriteDeltaDo_frame | split | with_reducible apply FrameR.mk'

theorem encodeOne_frame (slot : ℕ) (b_ : ℕ) (ti : ℕ) (idx : ℕ) (h : Frame m a s) (hm : sub [.cnt, .mem, .sto, .dir, .tlb] m = true) : Frame m a (encodeOne slot b_ ti idx s) := by
  unfold encodeOne
  repeat' first
    | with_reducible assumption | intro _ | exact sub_trans rfl hm | with_reducible apply count_frame | with_reducible apply countTenant_frame
    | with_reducible apply writeFast_frame | with_reducible apply useFast_frame | with_reducible apply noteAliased_frame
    | with_reducible apply changeLeaf_frame | with_reducible apply Frame.getD | with_reducible apply frame_ite | split | dsimp only [id_eq]
    | fail_if_no_progress ((with_reducible apply frame_sto (hm := sub_trans rfl hm)))

theorem skipPages_frame (tenant : ℕ) (n : ℕ) (h : Frame m a s) (hm : sub [.cnt] m = true) : Frame m a (skipPages tenant n s) := by
  unfold skipPages
  repeat' first
    | with_reducible assumption | intro _ | exact sub_trans rfl hm | with_reducible apply countTenant_frame | with_reducible apply frame_foldl
    | dsimp only [id_eq]

theorem execDeltaPageConvert_frame (ten : TensorId) (h : Frame m a s) (hm : sub [.cfg, .catchment, .log, .cnt, .rgn, .mem, .sto, .dir, .tlb, .chan, .work, .prog, .jx, .slu, .datum, .free] m = true) : FrameR m a (execDeltaPageConvert ten s) := by
  unfold execDeltaPageConvert
  repeat' first
    | with_reducible assumption | intro _ | exact sub_trans rfl hm | with_reducible apply rewriteEnd_frame | with_reducible apply skipPages_frame
    | with_reducible apply rewriteGo_frame | with_reducible apply raise_frame | with_reducible apply readFree_frame
    | with_reducible apply lineLost_frame | with_reducible apply encodeOne_frame | ((with_reducible apply Frame.out); with_reducible assumption)
    | with_reducible apply frame_ite | with_reducible apply frameP_ite | split
    | ((with_reducible apply FrameP.snd); with_reducible apply readFree_frame) | with_reducible apply FrameR.mk' | with_reducible apply FrameR.fault
    | with_reducible apply FrameP.mk' | dsimp only [id_eq]

theorem modCtl_frame (slot : ℕ) (f : CtlOp → CtlOp) (h : Frame m a s) (hm : sub [.work] m = true) : Frame m a (modCtl slot f s) := by
  unfold modCtl
  repeat' first
    | with_reducible assumption | split | dsimp only [id_eq] | fail_if_no_progress ((with_reducible apply frame_work (hm := sub_trans rfl hm)))

theorem takeReservedOf_frame (slot : ℕ) (ti : ℕ) (idx : ℕ) (h : Frame m a s) (hm : sub [.work] m = true) : FrameP m a (takeReservedOf slot ti idx s) := by
  unfold takeReservedOf
  repeat' first
    | with_reducible assumption | with_reducible apply modCtl_frame | split | with_reducible apply FrameP.mk'

theorem issueReencode_frame (slot : ℕ) (ti : ℕ) (idx : ℕ) (name : ℕ) (program : ℕ) (delta : ℕ) (h : Frame m a s) (hm : sub [.rgn, .chan, .work] m = true) : Frame m a (issueReencode slot ti idx name program delta s) := by
  unfold issueReencode
  repeat' first
    | with_reducible assumption | exact sub_trans rfl hm | with_reducible apply takeReservedOf_frame | with_reducible apply modCtl_frame
    | with_reducible apply issueUnit_frame | ((with_reducible apply Frame.out); with_reducible assumption) | split

theorem shiftDecode_frame (slot : ℕ) (ti : ℕ) (idx : ℕ) (e : ℕ) (h : Frame m a s) (hm : sub [.cnt, .rgn, .chan, .work] m = true) : Frame m a (shiftDecode slot ti idx e s) := by
  unfold shiftDecode
  repeat' first
    | with_reducible assumption | intro _ | exact sub_trans rfl hm | with_reducible apply takeReservedOf_frame
    | with_reducible apply countTenant_frame | with_reducible apply issueDecodeInto_frame | with_reducible apply modCtl_frame
    | ((with_reducible apply Frame.out); with_reducible assumption) | split
    | ((with_reducible apply FrameP.snd); with_reducible apply takeReservedOf_frame) | with_reducible apply FrameP.mk' | dsimp only [id_eq]

theorem shiftPage_frame (slot : ℕ) (ti : ℕ) (idx : ℕ) (program : ℕ) (delta : ℕ) (h : Frame m a s) (hm : sub [.cnt, .rgn, .chan, .work] m = true) : Frame m a (shiftPage slot ti idx program delta s) := by
  unfold shiftPage
  repeat' first
    | with_reducible assumption | intro _ | exact sub_trans rfl hm | with_reducible apply modCtl_frame | with_reducible apply shiftDecode_frame
    | with_reducible apply issueReencode_frame | with_reducible apply frame_ite | split | dsimp only [id_eq]

theorem afterLeaf_frame (j : LeafJob) (wasDelta : Bool) (h : Frame m a s) (hm : sub [.cfg, .catchment, .log, .cnt, .rgn, .mem, .sto, .dir, .tlb, .chan, .work, .prog, .jx, .slu, .datum, .free] m = true) : Frame m a (afterLeaf j wasDelta s) := by
  unfold afterLeaf
  repeat' first
    | with_reducible assumption | intro _ | exact sub_trans rfl hm | with_reducible apply rewriteGo_frame | with_reducible apply modCtl_frame
    | with_reducible apply takeFree_frame | with_reducible apply shiftPage_frame | ((with_reducible apply Frame.out); with_reducible assumption)
    | with_reducible apply Frame.getD | with_reducible apply frame_ite | with_reducible apply frameP_ite | split
    | ((with_reducible apply FrameP.snd); with_reducible apply takeFree_frame) | with_reducible apply FrameP.mk' | dsimp only [id_eq]

theorem execLeafUpdate_frame (job : ℕ) (h : Frame m a s) (hm : sub [.cfg, .catchment, .log, .cnt, .rgn, .mem, .sto, .dir, .tlb, .chan, .work, .prog, .jx, .slu, .datum, .free] m = true) : FrameR m a (execLeafUpdate job s) := by
  unfold execLeafUpdate
  repeat' first
    | with_reducible assumption | intro _ | exact sub_trans rfl hm | with_reducible apply afterLeaf_frame | with_reducible apply dropReserved_frame
    | with_reducible apply changeLeaf_frame | with_reducible apply frameO_map | with_reducible apply frameOP_map | with_reducible apply frameOQ_map
    | with_reducible apply frame_ite | split | with_reducible apply FrameR.mk' | with_reducible apply FrameR.fault | dsimp only [id_eq]
    | fail_if_no_progress ((with_reducible apply frame_work (hm := sub_trans rfl hm)))

theorem jobFail_frame (c : UnitCmd) (status : ℕ) (h : Frame m a s) (hm : sub [.cfg, .catchment, .log, .cnt, .sto, .dir, .chan, .work, .prog, .jx, .slu, .datum] m = true) : Frame m a (jobFail c status s) := by
  unfold jobFail
  repeat' first
    | with_reducible assumption | exact sub_trans rfl hm | with_reducible apply dropReserved_frame | with_reducible apply rewriteEnd_frame
    | with_reducible apply modCtl_frame | split | dsimp only [id_eq]
    | fail_if_no_progress ((with_reducible apply frame_work (hm := sub_trans rfl hm)))

theorem jobStop_frame (c : UnitCmd) (h : Frame m a s) (hm : sub [.sto, .work] m = true) : Frame m a (jobStop c s) := by
  unfold jobStop
  repeat' first
    | with_reducible assumption | intro _ | exact sub_trans rfl hm | with_reducible apply dropReserved_frame | with_reducible apply modCtl_frame
    | with_reducible apply frameO_map | with_reducible apply frameOP_map | with_reducible apply frameOQ_map | split | dsimp only [id_eq]

theorem jobDone_frame (c : UnitCmd) (h : Frame m a s) (hm : sub [.work] m = true) : Frame m a (jobDone c s) := by
  unfold jobDone
  repeat' first
    | with_reducible assumption | with_reducible apply addLeafJob_frame | split | dsimp only [id_eq]
    | fail_if_no_progress ((with_reducible apply frame_work (hm := sub_trans rfl hm)))

/-! ## Machine/Barriers.lean -/

theorem setBarrier_frame (b_ : ℕ) (u : Barrier) (h : Frame m a s) (hm : sub [.barrier] m = true) : Frame m a (setBarrier b_ u s) := by
  unfold setBarrier
  repeat' first
    | with_reducible assumption | fail_if_no_progress ((with_reducible apply frame_barrier (hm := sub_trans rfl hm)))

theorem execBarrierArm_frame (b_ : Fin 64) (mask : BitVec 32) (h : Frame m a s) (hm : sub [.catchment, .log, .barrier] m = true) : FrameR m a (execBarrierArm b_ mask s) := by
  unfold execBarrierArm
  repeat' first
    | with_reducible assumption | exact sub_trans rfl hm | with_reducible apply setBarrier_frame | with_reducible apply raise_frame | split
    | with_reducible apply FrameR.mk'

theorem execBarrierArrive_frame (b_ : Fin 64) (part : Fin 32) (h : Frame m a s) (hm : sub [.catchment, .log, .barrier] m = true) : FrameR m a (execBarrierArrive b_ part s) := by
  unfold execBarrierArrive
  repeat' first
    | with_reducible assumption | intro _ | exact sub_trans rfl hm | with_reducible apply raise_frame | with_reducible apply setBarrier_frame
    | with_reducible apply frame_ite | with_reducible apply FrameR.mk'

theorem execBarrierRelease_frame (b_ : Fin 64) (h : Frame m a s) (hm : sub [.catchment, .log, .barrier] m = true) : FrameR m a (execBarrierRelease b_ s) := by
  unfold execBarrierRelease
  repeat' first
    | with_reducible assumption | exact sub_trans rfl hm | with_reducible apply raise_frame | with_reducible apply setBarrier_frame | split
    | with_reducible apply FrameR.mk'

theorem barrierFenced_frame (p : ℕ) (h : Frame m a s) (hm : sub [.catchment, .log, .barrier] m = true) : Frame m a (barrierFenced p s) := by
  unfold barrierFenced
  repeat' first
    | with_reducible assumption | intro _ | exact sub_trans rfl hm | with_reducible apply raise_frame | with_reducible apply setBarrier_frame
    | with_reducible apply frame_foldl

/-! ## Machine/Fence.lean -/

theorem failUnit_frame (ch : ℕ) (status : ℕ) (h : Frame m a s) (hm : sub [.cfg, .catchment, .log, .cnt, .mem, .sto, .dir, .chan, .work, .prog, .jx, .slu, .datum] m = true) : Frame m a (failUnit ch status s) := by
  unfold failUnit
  repeat' first
    | with_reducible assumption | intro _ | exact sub_trans rfl hm | with_reducible apply endAtom_frame | with_reducible apply setChan_frame
    | with_reducible apply jobFail_frame | with_reducible apply frame_foldl | dsimp only [id_eq]

theorem failAppends_frame (r : ℕ) (h : Frame m a s) (hm : sub [.work] m = true) : Frame m a (failAppends r s) := by
  unfold failAppends
  repeat' first
    | with_reducible assumption | intro _ | exact sub_trans rfl hm | with_reducible apply frame_ite | split | dsimp only [id_eq]
    | fail_if_no_progress ((with_reducible apply frame_work (hm := sub_trans rfl hm)))

theorem fenceRegion_frame (r : ℕ) (causedBy : ℕ) (h : Frame m a s) (hm : sub [.pwr, .cfg, .catchment, .log, .cnt, .barrier, .rgn, .node, .ctl, .mem, .sto, .dir, .chan, .work, .prog, .installs, .req, .jx, .slu, .datum, .dma] m = true) : Frame m a (fenceRegion r causedBy s) := by
  unfold fenceRegion
  repeat' first
    | with_reducible assumption | intro _ | exact sub_trans rfl hm | with_reducible apply setRgn_frame | with_reducible apply barrierFenced_frame
    | with_reducible apply raise_frame | with_reducible apply endRuns_frame | with_reducible apply chipFatal_frame
    | with_reducible apply failAppends_frame | with_reducible apply failUnit_frame | with_reducible apply endReqs_frame
    | with_reducible apply baseLost_frame | with_reducible apply seqLost_frame | with_reducible apply frame_foldl | with_reducible apply frame_ite
    | split | dsimp only [id_eq]

theorem setBlk_frame (r : ℕ) (b_ : ℕ) (x : Blk) (h : Frame m a s) (hm : sub [.blk] m = true) : Frame m a (setBlk r b_ x s) := by
  unfold setBlk
  repeat' first
    | with_reducible assumption | fail_if_no_progress ((with_reducible apply frame_blk (hm := sub_trans rfl hm)))

theorem fenceBlock_frame (r : ℕ) (b_ : ℕ) (causedBy : ℕ) (h : Frame m a s) (hm : sub [.pwr, .cfg, .catchment, .log, .cnt, .barrier, .rgn, .blk, .node, .ctl, .mem, .sto, .dir, .chan, .work, .prog, .installs, .req, .jx, .slu, .datum, .dma] m = true) : Frame m a (fenceBlock r b_ causedBy s) := by
  unfold fenceBlock
  repeat' first
    | with_reducible assumption | intro _ | exact sub_trans rfl hm | with_reducible apply setBlk_frame | with_reducible apply raise_frame
    | with_reducible apply endReqs_frame | with_reducible apply fenceRegion_frame | with_reducible apply frame_ite

end Sys2Proof.Laws
end

