-- ==== Sys2Proof/Laws/FrameCache.lean ====
section
/-! SUPPORT. Frames of the tiers, the channel units, appends, queries and the blocks: one lemma per definition, found by walking its own text. -/

namespace Sys2Proof.Laws

open Sys2Proof.Machine

variable {m : List Part} {a s : State}

set_option linter.all false

/-! ## Machine/Tiers.lean -/

theorem reservePage_frame (slot : ℕ) (ti : ℕ) (idx : ℕ) (e : ℕ) (h : Frame m a s) (hm : sub [.cnt, .sto] m = true) : FrameOP m a (reservePage slot ti idx e s) := by
  unfold reservePage
  repeat' first
    | with_reducible assumption | intro _ | exact sub_trans rfl hm | with_reducible apply useFast_frame | with_reducible apply noteAliased_frame
    | with_reducible apply reuseFast_frame | with_reducible apply frameO_map | with_reducible apply frameOP_map | with_reducible apply frameOQ_map
    | with_reducible apply frame_ite | with_reducible apply frameOP_ite | split | with_reducible apply FrameP.mk' | with_reducible apply FrameOP.mk'
    | with_reducible apply FrameOP.none_ | with_reducible apply FrameOP.mkP | dsimp only [id_eq]
    | fail_if_no_progress ((with_reducible apply frame_sto (hm := sub_trans rfl hm)))

theorem reservePromotion_frame (slot : ℕ) (ti : ℕ) (p2 : List (ℕ × ℕ)) (p3 : List (ℕ × ℕ)) (h : Frame m a s) (hm : sub [.cnt, .sto] m = true) : FrameOP m a (reservePromotion slot ti p2 p3 s) := by
  induction p2 generalizing s p3 with
  | nil =>
    unfold reservePromotion
    repeat' first
      | with_reducible assumption | with_reducible apply FrameOP.mk'
  | cons _ _ ih =>
    unfold reservePromotion
    repeat' first
      | with_reducible assumption | (apply ih) | with_reducible apply reservePage_frame
      | ((with_reducible apply Frame.outOP); with_reducible assumption) | split | with_reducible apply FrameOP.none_

theorem startMig_frame (slot : ℕ) (ti : ℕ) (deep : Bool) (inst : Option ℕ) (reserved : List (ℕ × ℕ)) (h : Frame m a s) (hm : sub [.dir, .work] m = true) : Frame m a (startMig slot ti deep inst reserved s) := by
  unfold startMig
  repeat' first
    | with_reducible assumption | exact sub_trans rfl hm | with_reducible apply enterSeq_frame | with_reducible apply setTen_frame
    | dsimp only [id_eq] | fail_if_no_progress ((with_reducible apply frame_work (hm := sub_trans rfl hm)))

theorem migrateDo_frame (tenant : ℕ) (tag : ℕ) (l : ℕ) (k : ℕ) (deep : Bool) (inst : ℕ) (h : Frame m a s) (hm : sub [.catchment, .log, .cnt, .mem, .sto, .dir, .work] m = true) : FrameP m a (migrateDo tenant tag l k deep inst s) := by
  unfold migrateDo
  repeat' first
    | with_reducible assumption | intro _ | exact sub_trans rfl hm | with_reducible apply lookSeq_frame | with_reducible apply refuseTen_frame
    | with_reducible apply refuseSeq_frame | with_reducible apply backTensor_frame | with_reducible apply frameExhausted_frame
    | with_reducible apply startMig_frame | with_reducible apply reservePromotion_frame | with_reducible apply raise_frame
    | ((with_reducible apply Frame.out); with_reducible assumption) | ((with_reducible apply Frame.outO); with_reducible assumption)
    | ((with_reducible apply Frame.outOP); with_reducible assumption) | ((with_reducible apply Frame.outOPs); with_reducible assumption)
    | with_reducible apply frame_ite | with_reducible apply frameP_ite | with_reducible apply frameO_ite | with_reducible apply frameOP_ite | split
    | ((with_reducible apply FrameP.snd); with_reducible apply lookSeq_frame) | with_reducible apply FrameP.mk' | with_reducible apply FrameO.mk'
    | with_reducible apply FrameO.none_ | with_reducible apply FrameOP.mk' | with_reducible apply FrameOP.none_ | with_reducible apply FrameOP.mkP
    | dsimp only [id_eq]

theorem execMigrate_frame (inst : ℕ) (h : Frame m a s) (hm : sub [.cfg, .catchment, .log, .cnt, .mem, .sto, .dir, .chan, .work, .jx, .slu, .datum] m = true) : FrameR m a (execMigrate inst s) := by
  unfold execMigrate
  repeat' first
    | with_reducible assumption | exact sub_trans rfl hm | with_reducible apply migrateDo_frame | with_reducible apply actEnd_frame
    | with_reducible apply actBusy_frame | ((with_reducible apply Frame.out); with_reducible assumption) | split | with_reducible apply FrameR.mk'

theorem copyDown_frame (slot : ℕ) (ti : ℕ) (idx : ℕ) (e : ℕ) (h : Frame m a s) (hm : sub [.cnt, .mem, .sto, .dir] m = true) : FrameO m a (copyDown slot ti idx e s) := by
  unfold copyDown
  repeat' first
    | with_reducible assumption | intro _ | exact sub_trans rfl hm | with_reducible apply useDeep_frame | with_reducible apply count_frame
    | with_reducible apply writeDeep_frame | with_reducible apply setTen_frame | ((with_reducible apply Frame.outOQ); with_reducible assumption)
    | with_reducible apply frameO_map | with_reducible apply frameOQ_map | with_reducible apply frame_ite | split | with_reducible apply FrameOQ.mk'
    | with_reducible apply FrameQ.mk'

theorem giveUpFast_frame (slot : ℕ) (ti : ℕ) (idx : ℕ) (e : ℕ) (h : Frame m a s) (hm : sub [.sto] m = true) : Frame m a (giveUpFast slot ti idx e s) := by
  unfold giveUpFast
  repeat' first
    | with_reducible assumption | intro _ | exact sub_trans rfl hm | with_reducible apply retireFrame_frame | with_reducible apply nameOn_frame
    | with_reducible apply frame_ite | split | dsimp only [id_eq] | fail_if_no_progress ((with_reducible apply frame_sto (hm := sub_trans rfl hm)))

theorem migFinish_frame (slot : ℕ) (ti : ℕ) (st : TenSt) (status : ℕ) (h : Frame m a s) (hm : sub [.cfg, .catchment, .log, .cnt, .dir, .chan, .work, .jx, .slu, .datum] m = true) : Frame m a (migFinish slot ti st status s) := by
  unfold migFinish
  repeat' first
    | with_reducible assumption | exact sub_trans rfl hm | with_reducible apply leaveSeq_frame | with_reducible apply setTen_frame
    | with_reducible apply endBusy_frame | split | dsimp only [id_eq]
    | fail_if_no_progress ((with_reducible apply frame_work (hm := sub_trans rfl hm)))

theorem dropBacking_frame (slot : ℕ) (ti : ℕ) (idx : ℕ) (h : Frame m a s) (hm : sub [.cnt, .sto, .dir] m = true) : Frame m a (dropBacking slot ti idx s) := by
  unfold dropBacking
  repeat' first
    | with_reducible assumption | exact sub_trans rfl hm | with_reducible apply dropDeep_frame | with_reducible apply setTen_frame
    | with_reducible apply count_frame

theorem setTier_frame (p : ℕ) (t : Tier) (h : Frame m a s) (hm : sub [.tier] m = true) : Frame m a (setTier p t s) := by
  unfold setTier
  repeat' first
    | with_reducible assumption | fail_if_no_progress ((with_reducible apply frame_tier (hm := sub_trans rfl hm)))

theorem drivePerst_frame (p : ℕ) (v : PinOut) (h : Frame m a s) (hm : sub [.pwr] m = true) : Frame m a (drivePerst p v s) := by
  unfold drivePerst
  repeat' first
    | with_reducible assumption | dsimp only [id_eq] | fail_if_no_progress ((with_reducible apply frame_pwr (hm := sub_trans rfl hm)))

theorem fencePort_frame (p : ℕ) (h : Frame m a s) (hm : sub [.pwr, .cfg, .catchment, .log, .cnt, .tier, .sto, .dir, .chan, .work, .prog, .req, .jx, .slu, .datum, .dma] m = true) : Frame m a (fencePort p s) := by
  unfold fencePort
  repeat' first
    | with_reducible assumption | intro _ | exact sub_trans rfl hm | with_reducible apply setTier_frame | with_reducible apply raise_frame
    | with_reducible apply drivePerst_frame | with_reducible apply endRuns_frame | with_reducible apply endReqs_frame
    | with_reducible apply migFinish_frame | with_reducible apply dropReserved_frame | with_reducible apply dropBacking_frame
    | with_reducible apply seqLost_frame | with_reducible apply frame_foldl | with_reducible apply frame_ite | split | dsimp only [id_eq]

theorem tierTimeout_frame (p : ℕ) (h : Frame m a s) (hm : sub [.pwr, .cfg, .catchment, .log, .cnt, .tier, .sto, .dir, .chan, .work, .prog, .req, .jx, .slu, .datum, .dma] m = true) : Frame m a (tierTimeout p s) := by
  unfold tierTimeout
  repeat' first
    | with_reducible assumption | intro _ | exact sub_trans rfl hm | with_reducible apply raiseCount_frame | with_reducible apply setTier_frame
    | with_reducible apply fencePort_frame | with_reducible apply frame_ite

theorem tierHintDo_frame (tenant : ℕ) (tag : ℕ) (l : ℕ) (k : ℕ) (hint : ℕ) (who : optParam Who none) (h : Frame m a s) (hm : sub [.catchment, .log, .cnt, .dir, .chan, .key, .jx, .datum] m = true) : FrameP m a (tierHintDo tenant tag l k hint s who) := by
  unfold tierHintDo
  repeat' first
    | with_reducible assumption | intro _ | exact sub_trans rfl hm | with_reducible apply lookSeq_frame | with_reducible apply refuseSeq_frame
    | with_reducible apply relayTensor_frame | with_reducible apply setTen_frame | ((with_reducible apply Frame.out); with_reducible assumption)
    | with_reducible apply frame_ite | with_reducible apply frameP_ite | split
    | ((with_reducible apply FrameP.snd); with_reducible apply lookSeq_frame) | with_reducible apply FrameP.mk' | dsimp only [id_eq]

theorem execTierHint_frame (inst : ℕ) (h : Frame m a s) (hm : sub [.cfg, .catchment, .log, .cnt, .dir, .chan, .key, .jx, .slu, .datum] m = true) : FrameR m a (execTierHint inst s) := by
  unfold execTierHint
  repeat' first
    | with_reducible assumption | intro _ | exact sub_trans rfl hm | with_reducible apply tierHintDo_frame | with_reducible apply actEnd_frame
    | ((with_reducible apply Frame.out); with_reducible assumption) | split
    | ((with_reducible apply FrameP.snd); with_reducible apply tierHintDo_frame) | with_reducible apply FrameR.mk' | with_reducible apply FrameR.fault
    | with_reducible apply FrameP.mk' | dsimp only [id_eq]

theorem autoOne_frame (slot : ℕ) (ti : ℕ) (h : Frame m a s) (hm : sub [.catchment, .log, .cnt, .mem, .sto, .dir, .work] m = true) : FrameO m a (autoOne slot ti s) := by
  unfold autoOne
  repeat' first
    | with_reducible assumption | intro _ | exact sub_trans rfl hm | with_reducible apply count_frame | with_reducible apply logEvent_frame
    | with_reducible apply startMig_frame | with_reducible apply backTensor_frame | ((with_reducible apply Frame.outO); with_reducible assumption)
    | with_reducible apply frameO_map | with_reducible apply frameOP_map | with_reducible apply frameOQ_map | with_reducible apply FrameO.mk'
    | with_reducible apply FrameO.none_ | dsimp only [id_eq]

theorem autoList_frame (r : ℕ) (want : ℕ) (p2 : List (ℕ × ℕ)) (p3 : ℕ) (h : Frame m a s) (hm : sub [.catchment, .log, .cnt, .mem, .sto, .dir, .work] m = true) : FrameP m a (autoList r want p2 p3 s) := by
  induction p2 generalizing s p3 with
  | nil =>
    unfold autoList
    repeat' first
      | with_reducible assumption | intro _ | exact sub_trans rfl hm | with_reducible apply autoOne_frame
      | ((with_reducible apply Frame.outO); with_reducible assumption) | with_reducible apply frame_ite | with_reducible apply frameP_ite
      | with_reducible apply frameO_ite | split | with_reducible apply FrameP.mk' | with_reducible apply FrameO.mk'
      | with_reducible apply FrameO.none_ | dsimp only [id_eq]
  | cons _ _ ih =>
    unfold autoList
    repeat' first
      | with_reducible assumption | intro _ | (apply ih) | exact sub_trans rfl hm | with_reducible apply autoOne_frame
      | ((with_reducible apply Frame.out); with_reducible assumption) | ((with_reducible apply Frame.outO); with_reducible assumption)
      | with_reducible apply frame_ite | with_reducible apply frameP_ite | with_reducible apply frameO_ite | split | with_reducible apply FrameP.mk'
      | with_reducible apply FrameO.mk' | with_reducible apply FrameO.none_ | dsimp only [id_eq]

theorem execAutoDemote_frame (r : Fin 16) (h : Frame m a s) (hm : sub [.catchment, .log, .cnt, .mem, .sto, .dir, .work] m = true) : FrameR m a (execAutoDemote r s) := by
  unfold execAutoDemote
  repeat' first
    | with_reducible assumption | intro _ | exact sub_trans rfl hm | with_reducible apply autoList_frame | with_reducible apply raise_frame
    | ((with_reducible apply Frame.out); with_reducible assumption) | with_reducible apply Frame.getD | with_reducible apply frameO_map
    | with_reducible apply frameOP_map | with_reducible apply frameOQ_map | with_reducible apply frame_ite | with_reducible apply frameP_ite | split
    | ((with_reducible apply FrameP.snd); with_reducible apply autoList_frame) | with_reducible apply FrameR.mk' | with_reducible apply FrameR.fault
    | with_reducible apply FrameP.mk' | dsimp only [id_eq]

theorem unback_frame (slot : ℕ) (ti : ℕ) (h : Frame m a s) (hm : sub [.sto, .dir] m = true) : Frame m a (unback slot ti s) := by
  unfold unback
  repeat' first
    | with_reducible assumption | intro _ | exact sub_trans rfl hm | with_reducible apply dropFrame_frame | with_reducible apply setTen_frame
    | with_reducible apply frame_ite

theorem dropClean_frame (slot : ℕ) (ti : ℕ) (h : Frame m a s) (hm : sub [.cnt, .sto, .dir] m = true) : Frame m a (dropClean slot ti s) := by
  unfold dropClean
  repeat' first
    | with_reducible assumption | intro _ | exact sub_trans rfl hm | with_reducible apply unback_frame | with_reducible apply dropBacking_frame
    | with_reducible apply frame_foldl | with_reducible apply frame_ite | split | dsimp only [id_eq]

theorem execBackingDrop_frame (h : Frame m a s) (hm : sub [.cnt, .sto, .dir] m = true) : FrameR m a (execBackingDrop s) := by
  unfold execBackingDrop
  repeat' first
    | with_reducible assumption | intro _ | exact sub_trans rfl hm | with_reducible apply dropClean_frame | with_reducible apply frame_foldl
    | with_reducible apply frame_ite | split | with_reducible apply FrameR.mk' | with_reducible apply FrameR.fault | dsimp only [id_eq]

theorem execTierEventPoll_frame (port : Fin 4) (corrected : ℕ) (h : Frame m a s) (hm : sub [.catchment, .log, .cnt] m = true) : FrameR m a (execTierEventPoll port corrected s) := by
  unfold execTierEventPoll
  repeat' first
    | with_reducible assumption | intro _ | with_reducible apply raiseCount_frame | with_reducible apply frame_foldl | split
    | with_reducible apply FrameR.mk'

theorem execCxlTimeout_frame (port : Fin 4) (h : Frame m a s) (hm : sub [.pwr, .cfg, .catchment, .log, .cnt, .tier, .sto, .dir, .chan, .work, .prog, .req, .jx, .slu, .datum, .dma] m = true) : FrameR m a (execCxlTimeout port s) := by
  unfold execCxlTimeout
  repeat' first
    | with_reducible assumption | with_reducible apply tierTimeout_frame | with_reducible apply FrameR.mk'

theorem execTierLinkLoss_frame (port : Fin 4) (h : Frame m a s) (hm : sub [.pwr, .cfg, .catchment, .log, .cnt, .tier, .sto, .dir, .chan, .work, .prog, .req, .jx, .slu, .datum, .dma] m = true) : FrameR m a (execTierLinkLoss port s) := by
  unfold execTierLinkLoss
  repeat' first
    | with_reducible assumption | with_reducible apply fencePort_frame | with_reducible apply FrameR.mk'

theorem execPerstRetry_frame (port : Fin 4) (h : Frame m a s) (hm : sub [.pwr, .tier] m = true) : FrameR m a (execPerstRetry port s) := by
  unfold execPerstRetry
  repeat' first
    | with_reducible assumption | intro _ | exact sub_trans rfl hm | with_reducible apply setTier_frame | with_reducible apply drivePerst_frame
    | with_reducible apply frame_ite | split | with_reducible apply FrameR.mk' | with_reducible apply FrameR.fault | dsimp only [id_eq]

theorem emptyPort_frame (p : ℕ) (h : Frame m a s) (hm : sub [.sto, .dir] m = true) : Frame m a (emptyPort p s) := by
  unfold emptyPort
  repeat' first
    | with_reducible assumption | intro _ | exact sub_trans rfl hm | dsimp only [id_eq]
    | fail_if_no_progress ((with_reducible apply frame_dir (hm := sub_trans rfl hm)))
    | fail_if_no_progress ((with_reducible apply frame_sto (hm := sub_trans rfl hm)))
    | fail_if_no_progress ((with_reducible apply frame_sto_dir (hm := sub_trans rfl hm)))

theorem tierTrained_frame (p : ℕ) (g : TierTrain) (h : Frame m a s) (hm : sub [.catchment, .log, .cnt, .tier, .sto, .dir] m = true) : Frame m a (tierTrained p g s) := by
  unfold tierTrained
  repeat' first
    | with_reducible assumption | intro _ | exact sub_trans rfl hm | with_reducible apply raise_frame | with_reducible apply setTier_frame
    | with_reducible apply emptyPort_frame | with_reducible apply raiseCount_frame | with_reducible apply frame_ite | split | dsimp only [id_eq]

theorem execTierLinkTrained_frame (port : Fin 4) (train : TierTrain) (h : Frame m a s) (hm : sub [.catchment, .log, .cnt, .tier, .sto, .dir] m = true) : FrameR m a (execTierLinkTrained port train s) := by
  unfold execTierLinkTrained
  repeat' first
    | with_reducible assumption | intro _ | exact sub_trans rfl hm | with_reducible apply tierTrained_frame | with_reducible apply frame_ite | split
    | with_reducible apply FrameR.mk' | with_reducible apply FrameR.fault | dsimp only [id_eq]

theorem shadowOne_frame (bad : List (Fin 16384)) (slot : ℕ) (h : Frame m a s) (hm : sub [.catchment, .log, .cnt, .dir, .chan, .jx, .datum] m = true) : Frame m a (shadowOne bad slot s) := by
  unfold shadowOne
  repeat' first
    | with_reducible assumption | intro _ | exact sub_trans rfl hm | with_reducible apply seqLost_frame | with_reducible apply raiseCount_frame
    | with_reducible apply setSeq_frame | with_reducible apply frame_ite

theorem execShadowCheck_frame (r : Fin 16) (badShadow : List (Fin 16384)) (h : Frame m a s) (hm : sub [.catchment, .log, .cnt, .dir, .chan, .work, .jx, .datum] m = true) : FrameR m a (execShadowCheck r badShadow s) := by
  unfold execShadowCheck
  repeat' first
    | with_reducible assumption | intro _ | exact sub_trans rfl hm | with_reducible apply shadowOne_frame | with_reducible apply frame_foldl | split
    | with_reducible apply FrameR.mk' | dsimp only [id_eq] | fail_if_no_progress ((with_reducible apply frame_work (hm := sub_trans rfl hm)))

/-! ## Machine/Units.lean -/

theorem drainMode_frame (r : ℕ) (h : Frame m a s) (hm : sub [.rgn] m = true) : Frame m a (drainMode r s) := by
  unfold drainMode
  repeat' first
    | with_reducible assumption | intro _ | exact sub_trans rfl hm | with_reducible apply setRgn_frame | with_reducible apply frame_ite | split
    | dsimp only [id_eq]

theorem setMode_frame (r : ℕ) (on : Bool) (h : Frame m a s) (hm : sub [.rgn] m = true) : Frame m a (setMode r on s) := by
  unfold setMode
  repeat' first
    | with_reducible assumption | intro _ | exact sub_trans rfl hm | with_reducible apply setRgn_frame | with_reducible apply drainMode_frame
    | with_reducible apply frame_ite | split | dsimp only [id_eq]

theorem cmdEnd_frame (ch : ℕ) (u : UnitCmd) (status : ℕ) (h : Frame m a s) (hm : sub [.cfg, .catchment, .log, .cnt, .rgn, .sto, .dir, .chan, .work, .prog, .jx, .slu, .datum] m = true) : Frame m a (cmdEnd ch u status s) := by
  unfold cmdEnd
  repeat' first
    | with_reducible assumption | intro _ | exact sub_trans rfl hm | with_reducible apply setChan_frame | with_reducible apply drainMode_frame
    | with_reducible apply jobDone_frame | with_reducible apply jobFail_frame | with_reducible apply frame_ite | split | dsimp only [id_eq]

theorem cmdStop_frame (ch : ℕ) (u : UnitCmd) (h : Frame m a s) (hm : sub [.rgn, .sto, .chan, .work] m = true) : Frame m a (cmdStop ch u s) := by
  unfold cmdStop
  repeat' first
    | with_reducible assumption | intro _ | exact sub_trans rfl hm | with_reducible apply setChan_frame | with_reducible apply drainMode_frame
    | with_reducible apply jobStop_frame | dsimp only [id_eq]

theorem unitTake_frame (ch : ℕ) (op : ℕ) (h : Frame m a s) (hm : sub [.cfg, .catchment, .log, .cnt, .sto, .dir, .chan, .work, .prog, .jx, .slu, .datum] m = true) : Frame m a (unitTake ch op s) := by
  unfold unitTake
  repeat' first
    | with_reducible assumption | intro _ | exact sub_trans rfl hm | with_reducible apply setChan_frame | with_reducible apply jobFail_frame
    | with_reducible apply raise_frame | with_reducible apply frame_ite | split | dsimp only [id_eq]

theorem execAppendTail_frame (ch : Fin 192) (h : Frame m a s) (hm : sub [.cfg, .catchment, .log, .cnt, .sto, .dir, .chan, .work, .prog, .jx, .slu, .datum] m = true) : FrameR m a (execAppendTail ch s) := by
  unfold execAppendTail
  repeat' first
    | with_reducible assumption | with_reducible apply unitTake_frame | with_reducible apply FrameR.mk'

theorem execRequant_frame (ch : Fin 192) (h : Frame m a s) (hm : sub [.cfg, .catchment, .log, .cnt, .sto, .dir, .chan, .work, .prog, .jx, .slu, .datum] m = true) : FrameR m a (execRequant ch s) := by
  unfold execRequant
  repeat' first
    | with_reducible assumption | with_reducible apply unitTake_frame | with_reducible apply FrameR.mk'

theorem execReencode_frame (ch : Fin 192) (h : Frame m a s) (hm : sub [.cfg, .catchment, .log, .cnt, .sto, .dir, .chan, .work, .prog, .jx, .slu, .datum] m = true) : FrameR m a (execReencode ch s) := by
  unfold execReencode
  repeat' first
    | with_reducible assumption | with_reducible apply unitTake_frame | with_reducible apply FrameR.mk'

theorem execCompact_frame (ch : Fin 192) (h : Frame m a s) (hm : sub [.cfg, .catchment, .log, .cnt, .sto, .dir, .chan, .work, .prog, .jx, .slu, .datum] m = true) : FrameR m a (execCompact ch s) := by
  unfold execCompact
  repeat' first
    | with_reducible assumption | with_reducible apply unitTake_frame | with_reducible apply FrameR.mk'

theorem execDeltaDecode_frame (ch : Fin 192) (h : Frame m a s) (hm : sub [.cfg, .catchment, .log, .cnt, .sto, .dir, .chan, .work, .prog, .jx, .slu, .datum] m = true) : FrameR m a (execDeltaDecode ch s) := by
  unfold execDeltaDecode
  repeat' first
    | with_reducible assumption | with_reducible apply unitTake_frame | with_reducible apply FrameR.mk'

theorem execScrub_frame (ch : Fin 192) (h : Frame m a s) (hm : sub [.cfg, .catchment, .log, .cnt, .sto, .dir, .chan, .work, .prog, .jx, .slu, .datum] m = true) : FrameR m a (execScrub ch s) := by
  unfold execScrub
  repeat' first
    | with_reducible assumption | with_reducible apply unitTake_frame | with_reducible apply FrameR.mk'

theorem recordParams_frame (slot : ℕ) (ti : ℕ) (program : ℕ) (h : Frame m a s) (hm : sub [.catchment, .log, .dir, .chan, .key, .jx, .datum] m = true) : Frame m a (recordParams slot ti program s) := by
  unfold recordParams
  repeat' first
    | with_reducible assumption | intro _ | exact sub_trans rfl hm | with_reducible apply relayTensor_frame | with_reducible apply setTen_frame
    | with_reducible apply frame_ite

theorem openAtom_frame (ch : ℕ) (job : UnitJob) (chunks : List (ℕ × Bytes)) (h : Frame m a s) (hm : sub [.mem, .chan] m = true) : Frame m a (openAtom ch job chunks s) := by
  unfold openAtom
  repeat' first
    | with_reducible assumption | intro _ | exact sub_trans rfl hm | with_reducible apply touchCodes_frame | with_reducible apply setJournal_frame
    | with_reducible apply setChan_frame | with_reducible apply frameO_map | with_reducible apply frameOP_map | with_reducible apply frameOQ_map
    | with_reducible apply frame_ite | split | dsimp only [id_eq]

theorem startAtom_frame (ch : ℕ) (h : Frame m a s) (hm : sub [.mem, .chan] m = true) : Frame m a (startAtom ch s) := by
  unfold startAtom
  repeat' first
    | with_reducible assumption | intro _ | exact sub_trans rfl hm | with_reducible apply openAtom_frame | with_reducible apply setChan_frame | split
    | dsimp only [id_eq]

theorem startScrub_frame (ch : ℕ) (h : Frame m a s) (hm : sub [.mem, .chan] m = true) : Frame m a (startScrub ch s) := by
  unfold startScrub
  repeat' first
    | with_reducible assumption | intro _ | exact sub_trans rfl hm | with_reducible apply openAtom_frame | with_reducible apply setChan_frame | split
    | dsimp only [id_eq]

theorem finishRun_frame (ch : ℕ) (h : Frame m a s) (hm : sub [.cfg, .catchment, .log, .cnt, .rgn, .sto, .dir, .chan, .work, .prog, .jx, .slu, .datum] m = true) : Frame m a (finishRun ch s) := by
  unfold finishRun
  repeat' first
    | with_reducible assumption | intro _ | exact sub_trans rfl hm | with_reducible apply setChan_frame | with_reducible apply addClipped_frame
    | with_reducible apply dirtyPage_frame | with_reducible apply cmdStop_frame | with_reducible apply cmdEnd_frame | with_reducible apply frame_ite
    | split | dsimp only [id_eq]

theorem beginCmd_frame (ch : ℕ) (u : UnitCmd) (rest : List UnitCmd) (h : Frame m a s) (hm : sub [.cfg, .catchment, .log, .cnt, .rgn, .sto, .dir, .chan, .work, .prog, .key, .jx, .slu, .datum] m = true) : Frame m a (beginCmd ch u rest s) := by
  unfold beginCmd
  repeat' first
    | with_reducible assumption | intro _ | exact sub_trans rfl hm | with_reducible apply setChan_frame | with_reducible apply cmdEnd_frame
    | with_reducible apply raise_frame | with_reducible apply recordParams_frame | with_reducible apply seqLost_frame | with_reducible apply frame_ite
    | split | dsimp only [id_eq]

theorem payChan_frame (ch : ℕ) (h : Frame m a s) (hm : sub [.chan] m = true) : Frame m a (payChan ch s) := by
  unfold payChan
  repeat' first
    | with_reducible assumption | intro _ | exact sub_trans rfl hm | with_reducible apply setChan_frame | dsimp only [id_eq]

theorem execAtomStart_frame (ch : Fin 192) (readsWaiting : Bool) (h : Frame m a s) (hm : sub [.cfg, .catchment, .log, .cnt, .rgn, .mem, .sto, .dir, .chan, .work, .prog, .key, .jx, .slu, .datum] m = true) : FrameR m a (execAtomStart ch readsWaiting s) := by
  unfold execAtomStart
  repeat' first
    | with_reducible assumption | intro _ | exact sub_trans rfl hm | with_reducible apply payChan_frame | with_reducible apply beginCmd_frame
    | with_reducible apply finishRun_frame | with_reducible apply startAtom_frame | with_reducible apply cmdEnd_frame
    | with_reducible apply setChan_frame | with_reducible apply startScrub_frame | with_reducible apply frame_ite | split
    | with_reducible apply FrameR.mk' | with_reducible apply FrameR.fault | dsimp only [id_eq]

theorem writeChunks_frame (l : List (ℕ × Bytes)) (h : Frame m a s) (hm : sub [.mem] m = true) : Frame m a (writeChunks l s) := by
  unfold writeChunks
  repeat' first
    | with_reducible assumption | intro _ | with_reducible apply writeFast_frame | with_reducible apply frame_foldl

theorem setHalved_frame (ch : ℕ) (want : Bool) (h : Frame m a s) (hm : sub [.catchment, .log, .chan] m = true) : Frame m a (setHalved ch want s) := by
  unfold setHalved
  repeat' first
    | with_reducible assumption | intro _ | exact sub_trans rfl hm | with_reducible apply setChan_frame | with_reducible apply raise_frame
    | with_reducible apply dropCause_frame | with_reducible apply frame_ite | split | dsimp only [id_eq]

theorem afterAtom_frame (ch : ℕ) (h : Frame m a s) (hm : sub [.catchment, .log, .chan] m = true) : Frame m a (afterAtom ch s) := by
  unfold afterAtom
  repeat' first
    | with_reducible assumption | intro _ | exact sub_trans rfl hm | with_reducible apply setChan_frame | with_reducible apply setHalved_frame
    | with_reducible apply frame_ite | split | dsimp only [id_eq]

theorem abandonAtom_frame (ch : ℕ) (wrote : Bool) (h : Frame m a s) (hm : sub [.catchment, .log, .mem, .chan] m = true) : Frame m a (abandonAtom ch wrote s) := by
  unfold abandonAtom
  repeat' first
    | with_reducible assumption | intro _ | exact sub_trans rfl hm | with_reducible apply afterAtom_frame | with_reducible apply endAtom_frame
    | with_reducible apply frame_ite | split | dsimp only [id_eq]

theorem closeAtom_frame (ch : ℕ) (h : Frame m a s) (hm : sub [.catchment, .log, .mem, .chan] m = true) : Frame m a (closeAtom ch s) := by
  unfold closeAtom
  repeat' first
    | with_reducible assumption | intro _ | exact sub_trans rfl hm | with_reducible apply afterAtom_frame | with_reducible apply endAtom_frame
    | with_reducible apply writeChunks_frame | with_reducible apply frame_ite | split | dsimp only [id_eq]

theorem scrubEnds_frame (ch : ℕ) (read : LineOutcome) (h : Frame m a s) (hm : sub [.catchment, .log, .cnt, .mem, .chan] m = true) : Frame m a (scrubEnds ch read s) := by
  unfold scrubEnds
  repeat' first
    | with_reducible assumption | intro _ | exact sub_trans rfl hm | with_reducible apply closeAtom_frame | with_reducible apply lineCorrected_frame
    | with_reducible apply lineBad_frame | split | dsimp only [id_eq]

theorem nextAtom_frame (ch : ℕ) (lcWaiting : Bool) (h : Frame m a s) (hm : sub [.cfg, .catchment, .log, .cnt, .rgn, .mem, .sto, .dir, .chan, .work, .prog, .jx, .slu, .datum] m = true) : Frame m a (nextAtom ch lcWaiting s) := by
  unfold nextAtom
  repeat' first
    | with_reducible assumption | intro _ | exact sub_trans rfl hm | with_reducible apply finishRun_frame | with_reducible apply startAtom_frame
    | with_reducible apply raiseCount_frame | with_reducible apply setChan_frame | with_reducible apply frame_ite | split | dsimp only [id_eq]

theorem atomEnds_frame (ch : ℕ) (read : LineOutcome) (lcWaiting : Bool) (h : Frame m a s) (hm : sub [.cfg, .catchment, .log, .cnt, .rgn, .mem, .sto, .dir, .chan, .work, .prog, .jx, .slu, .datum] m = true) : Frame m a (atomEnds ch read lcWaiting s) := by
  unfold atomEnds
  repeat' first
    | with_reducible assumption | intro _ | exact sub_trans rfl hm | with_reducible apply nextAtom_frame | with_reducible apply closeAtom_frame
    | with_reducible apply lineCorrected_frame | with_reducible apply abandonAtom_frame | with_reducible apply lineLost_frame
    | with_reducible apply cmdEnd_frame | with_reducible apply setChan_frame | split | dsimp only [id_eq]

theorem execAtomEnd_frame (ch : Fin 192) (outcome : AtomOutcome) (lcWaiting : Bool) (h : Frame m a s) (hm : sub [.cfg, .catchment, .log, .cnt, .rgn, .mem, .sto, .dir, .chan, .work, .prog, .jx, .slu, .datum] m = true) : FrameR m a (execAtomEnd ch outcome lcWaiting s) := by
  unfold execAtomEnd
  repeat' first
    | with_reducible assumption | intro _ | exact sub_trans rfl hm | with_reducible apply abandonAtom_frame | with_reducible apply raise_frame
    | with_reducible apply scrubEnds_frame | with_reducible apply atomEnds_frame | with_reducible apply frame_ite | split
    | with_reducible apply FrameR.mk' | with_reducible apply FrameR.fault | dsimp only [id_eq]

theorem execG7Retrack_frame (ch : Fin 192) (h : Frame m a s) (hm : sub [.chan] m = true) : FrameR m a (execG7Retrack ch s) := by
  unfold execG7Retrack
  repeat' first
    | with_reducible assumption | intro _ | with_reducible apply setChan_frame | with_reducible apply frame_ite | with_reducible apply FrameR.mk'

theorem execRefpbDue_frame (ch : Fin 192) (bankReads : Bool) (h : Frame m a s) (hm : sub [.chan] m = true) : FrameR m a (execRefpbDue ch bankReads s) := by
  unfold execRefpbDue
  repeat' first
    | with_reducible assumption | intro _ | exact sub_trans rfl hm | with_reducible apply setChan_frame | with_reducible apply frame_ite | split
    | with_reducible apply FrameR.mk' | with_reducible apply FrameR.fault | dsimp only [id_eq]

theorem execDeviceTempRead_frame (dev : Fin 48) (celsius : Int) (h : Frame m a s) (hm : sub [.catchment, .log, .chan] m = true) : FrameR m a (execDeviceTempRead dev celsius s) := by
  unfold execDeviceTempRead
  repeat' first
    | with_reducible assumption | intro _ | exact sub_trans rfl hm | with_reducible apply setChan_frame | with_reducible apply setHalved_frame
    | with_reducible apply Frame.getD | with_reducible apply frame_foldl | with_reducible apply frame_ite | split | with_reducible apply FrameR.mk'
    | with_reducible apply FrameR.fault | dsimp only [id_eq]

theorem execLinkCrcFail_frame (x : CrcFail) (h : Frame m a s) (hm : sub [.catchment, .log, .cnt, .mem, .chan] m = true) : FrameR m a (execLinkCrcFail x s) := by
  unfold execLinkCrcFail
  repeat' first
    | with_reducible assumption | intro _ | exact sub_trans rfl hm | with_reducible apply raiseCount_frame | with_reducible apply setChan_frame
    | with_reducible apply abandonAtom_frame | with_reducible apply frame_ite | split | with_reducible apply FrameR.mk'
    | with_reducible apply FrameR.fault | dsimp only [id_eq]

theorem execChannelRetrainDone_frame (ch : Fin 192) (ok : Bool) (h : Frame m a s) (hm : sub [.pwr, .cfg, .catchment, .log, .cnt, .barrier, .rgn, .node, .ctl, .mem, .sto, .dir, .chan, .work, .prog, .installs, .req, .jx, .slu, .datum, .dma] m = true) : FrameR m a (execChannelRetrainDone ch ok s) := by
  unfold execChannelRetrainDone
  repeat' first
    | with_reducible assumption | intro _ | exact sub_trans rfl hm | with_reducible apply setChan_frame | with_reducible apply raiseCount_frame
    | with_reducible apply raise_frame | with_reducible apply fenceRegion_frame | with_reducible apply frame_ite | split
    | with_reducible apply FrameR.mk'

theorem execScrubPass_frame (r : Fin 16) (h : Frame m a s) (hm : sub [.rgn, .chan, .work] m = true) : FrameR m a (execScrubPass r s) := by
  unfold execScrubPass
  repeat' first
    | with_reducible assumption | intro _ | with_reducible apply issueUnit_frame | with_reducible apply frame_foldl | split
    | with_reducible apply FrameR.mk' | dsimp only [id_eq] | fail_if_no_progress ((with_reducible apply frame_work (hm := sub_trans rfl hm)))

theorem execUnitModeCompute_frame (r : Fin 16) (h : Frame m a s) (hm : sub [.rgn] m = true) : FrameR m a (execUnitModeCompute r s) := by
  unfold execUnitModeCompute
  repeat' first
    | with_reducible assumption | intro _ | exact sub_trans rfl hm | with_reducible apply setMode_frame | with_reducible apply frame_ite | split
    | with_reducible apply FrameR.mk' | with_reducible apply FrameR.fault | dsimp only [id_eq]

theorem execUnitModeNormal_frame (r : Fin 16) (h : Frame m a s) (hm : sub [.rgn] m = true) : FrameR m a (execUnitModeNormal r s) := by
  unfold execUnitModeNormal
  repeat' first
    | with_reducible assumption | intro _ | exact sub_trans rfl hm | with_reducible apply setMode_frame | with_reducible apply frame_ite | split
    | with_reducible apply FrameR.mk' | with_reducible apply FrameR.fault | dsimp only [id_eq]

/-! ## Machine/Appends.lean -/

theorem joinWaits_frame (inst : ℕ) (k : ℕ) (slot : ℕ) (h : Frame m a s) (hm : sub [.work] m = true) : Frame m a (joinWaits inst k slot s) := by
  unfold joinWaits
  repeat' first
    | with_reducible assumption | intro _ | exact sub_trans rfl hm | with_reducible apply frame_ite | split | dsimp only [id_eq]
    | fail_if_no_progress ((with_reducible apply frame_work (hm := sub_trans rfl hm)))

theorem leaveWaits_frame (inst : ℕ) (k : ℕ) (h : Frame m a s) (hm : sub [.work] m = true) : Frame m a (leaveWaits inst k s) := by
  unfold leaveWaits
  repeat' first
    | with_reducible assumption | intro _ | exact sub_trans rfl hm | dsimp only [id_eq]
    | fail_if_no_progress ((with_reducible apply frame_work (hm := sub_trans rfl hm)))

theorem issueAppend_frame (id : ℕ) (h : Frame m a s) (hm : sub [.rgn, .chan, .work] m = true) : Frame m a (issueAppend id s) := by
  unfold issueAppend
  repeat' first
    | with_reducible assumption | intro _ | with_reducible apply issueUnit_frame | with_reducible apply frame_foldl | split | dsimp only [id_eq]
    | fail_if_no_progress ((with_reducible apply frame_work (hm := sub_trans rfl hm)))

theorem appendAdmit_frame (x : Inst) (inst : ℕ) (k : ℕ) (p : Bytes) (b_ : Bytes) (slot : ℕ) (h : Frame m a s) (hm : sub [.cfg, .catchment, .log, .cnt, .rgn, .mem, .sto, .dir, .chan, .work, .prog, .jx, .slu, .datum] m = true) : Frame m a (appendAdmit x inst k p b_ slot s) := by
  unfold appendAdmit
  repeat' first
    | with_reducible assumption | intro _ | exact sub_trans rfl hm | with_reducible apply actEnd_frame | with_reducible apply refuseSeq_frame
    | with_reducible apply progCheck_frame | with_reducible apply actDone_frame | with_reducible apply countTenant_frame
    | with_reducible apply givePages_frame | with_reducible apply frameExhausted_frame | with_reducible apply actBusy_frame
    | with_reducible apply startProgUse_frame | with_reducible apply enterSeq_frame | with_reducible apply count_frame
    | with_reducible apply issueAppend_frame | ((with_reducible apply Frame.out); with_reducible assumption)
    | ((with_reducible apply Frame.outO); with_reducible assumption) | with_reducible apply Frame.getD | with_reducible apply frame_ite
    | with_reducible apply frameP_ite | with_reducible apply frameO_ite | split
    | ((with_reducible apply FrameP.snd); with_reducible apply progCheck_frame) | with_reducible apply FrameP.mk' | with_reducible apply FrameO.mk'
    | with_reducible apply FrameO.none_ | dsimp only [id_eq] | fail_if_no_progress ((with_reducible apply frame_work (hm := sub_trans rfl hm)))

theorem appendDo_frame (inst : ℕ) (x : Inst) (k : ℕ) (p : Bytes) (m_ : EnMsg) (slot : Option ℕ) (h : Frame m a s) (hm : sub [.cfg, .catchment, .log, .cnt, .rgn, .mem, .sto, .dir, .chan, .work, .prog, .jx, .slu, .datum] m = true) : Frame m a (appendDo inst x k p m_ slot s) := by
  unfold appendDo
  repeat' first
    | with_reducible assumption | intro _ | exact sub_trans rfl hm | with_reducible apply doneReading_frame | with_reducible apply actEnd_frame
    | with_reducible apply epochCheck_frame | with_reducible apply redirect_frame | with_reducible apply appendAdmit_frame
    | ((with_reducible apply Frame.out); with_reducible assumption) | with_reducible apply Frame.getD | with_reducible apply frameO_map
    | with_reducible apply frameOP_map | with_reducible apply frameOQ_map | with_reducible apply frame_ite | with_reducible apply frameP_ite | split
    | ((with_reducible apply FrameP.snd); with_reducible apply epochCheck_frame) | with_reducible apply FrameP.mk' | dsimp only [id_eq]

theorem execAppendHeldRelease_frame (app : ℕ) (h : Frame m a s) (hm : sub [.rgn, .chan, .work] m = true) : FrameR m a (execAppendHeldRelease app s) := by
  unfold execAppendHeldRelease
  repeat' first
    | with_reducible assumption | with_reducible apply issueAppend_frame | split | with_reducible apply FrameR.mk'

theorem ctlAnswer_frame (o : CtlOp) (status : ℕ) (rep : Bool) (single : Bool) (compacted : Bool) (h : Frame m a s) (hm : sub [.catchment, .log, .jx] m = true) : Frame m a (ctlAnswer o status rep single compacted s) := by
  unfold ctlAnswer
  repeat' first
    | with_reducible assumption | exact sub_trans rfl hm | with_reducible apply sendOnce_frame | with_reducible apply saveResp_frame

theorem beginRewriting_frame (slot : ℕ) (l : List ℕ) (h : Frame m a s) (hm : sub [.dir] m = true) : Frame m a (beginRewriting slot l s) := by
  unfold beginRewriting
  repeat' first
    | with_reducible assumption | intro _ | exact sub_trans rfl hm | with_reducible apply setTen_frame | with_reducible apply frame_foldl
    | with_reducible apply frame_ite | split | dsimp only [id_eq]

theorem endRewriting_frame (slot : ℕ) (l : List ℕ) (h : Frame m a s) (hm : sub [.dir] m = true) : Frame m a (endRewriting slot l s) := by
  unfold endRewriting
  repeat' first
    | with_reducible assumption | intro _ | exact sub_trans rfl hm | with_reducible apply setTen_frame | with_reducible apply frame_foldl
    | with_reducible apply frame_ite | split | dsimp only [id_eq]

theorem forwardCtl_frame (k : ℕ) (h : Frame m a s) (hm : sub [.catchment, .log, .work, .jx] m = true) : Frame m a (forwardCtl k s) := by
  unfold forwardCtl
  repeat' first
    | with_reducible assumption | exact sub_trans rfl hm | with_reducible apply sendMsg_frame
    | ((with_reducible apply Frame.out); with_reducible assumption) | split | dsimp only [id_eq]
    | fail_if_no_progress ((with_reducible apply frame_work (hm := sub_trans rfl hm)))

theorem releaseHeld_frame (slot : ℕ) (h : Frame m a s) (hm : sub [.req] m = true) : Frame m a (releaseHeld slot s) := by
  unfold releaseHeld
  repeat' first
    | with_reducible assumption | fail_if_no_progress ((with_reducible apply frame_req (hm := sub_trans rfl hm)))

theorem ctlGone_frame (k : ℕ) (o : CtlOp) (h : Frame m a s) (hm : sub [.dir, .chan, .work, .datum] m = true) : Frame m a (ctlGone k o s) := by
  unfold ctlGone
  repeat' first
    | with_reducible assumption | exact sub_trans rfl hm | with_reducible apply leaveSeq_frame | dsimp only [id_eq]
    | fail_if_no_progress ((with_reducible apply frame_work (hm := sub_trans rfl hm)))

theorem commitStep_frame (k : ℕ) (o : CtlOp) (h : Frame m a s) (hm : sub [.catchment, .log, .cnt, .dir, .chan, .work, .req, .key, .jx, .datum] m = true) : Frame m a (commitStep k o s) := by
  unfold commitStep
  repeat' first
    | with_reducible assumption | intro _ | exact sub_trans rfl hm | with_reducible apply setSeq_frame | with_reducible apply endRewriting_frame
    | with_reducible apply relayPages_frame | with_reducible apply releaseHeld_frame | with_reducible apply relayState_frame
    | with_reducible apply countTenant_frame | with_reducible apply ctlAnswer_frame | with_reducible apply ctlGone_frame
    | with_reducible apply frame_ite | split | dsimp only [id_eq]

theorem commitAbort_frame (k : ℕ) (o : CtlOp) (status : ℕ) (h : Frame m a s) (hm : sub [.catchment, .log, .sto, .dir, .chan, .work, .req, .jx, .datum] m = true) : Frame m a (commitAbort k o status s) := by
  unfold commitAbort
  repeat' first
    | with_reducible assumption | intro _ | exact sub_trans rfl hm | with_reducible apply dropReserved_frame | with_reducible apply releaseHeld_frame
    | with_reducible apply endRewriting_frame | with_reducible apply setSeq_frame | with_reducible apply ctlAnswer_frame
    | with_reducible apply ctlGone_frame | with_reducible apply frame_ite | split | dsimp only [id_eq]

theorem rollbackStep_frame (o : CtlOp) (h : Frame m a s) (hm : sub [.catchment, .log, .dir, .chan, .key, .jx, .datum] m = true) : Frame m a (rollbackStep o s) := by
  unfold rollbackStep
  repeat' first
    | with_reducible assumption | exact sub_trans rfl hm | with_reducible apply relayState_frame | with_reducible apply setSeq_frame

theorem reserveFor_frame (slot : ℕ) (home : ℕ) (ti : ℕ) (idx : ℕ) (acc : List (ℕ × ℕ × ℕ)) (h : Frame m a s) (hm : sub [.cnt, .sto] m = true) : FrameOP m a (reserveFor slot home ti idx acc s) := by
  unfold reserveFor
  repeat' first
    | with_reducible assumption | intro _ | exact sub_trans rfl hm | with_reducible apply reserveFrame_frame
    | ((with_reducible apply Frame.outOP); with_reducible assumption) | ((with_reducible apply Frame.outOPs); with_reducible assumption)
    | with_reducible apply frameO_map | with_reducible apply frameOP_map | with_reducible apply frameOQ_map | split | with_reducible apply FrameP.mk'
    | with_reducible apply FrameOP.mk' | with_reducible apply FrameOP.none_ | with_reducible apply FrameOP.mkP | dsimp only [id_eq]

theorem reserveDecode_frame (slot : ℕ) (ti : ℕ) (idx : ℕ) (e : ℕ) (acc : List (ℕ × ℕ × ℕ)) (h : Frame m a s) (hm : sub [.cnt, .sto] m = true) : FrameOP m a (reserveDecode slot ti idx e acc s) := by
  unfold reserveDecode
  repeat' first
    | with_reducible assumption | intro _ | exact sub_trans rfl hm | with_reducible apply reserveFor_frame
    | ((with_reducible apply Frame.outOP); with_reducible assumption) | ((with_reducible apply Frame.outOPs); with_reducible assumption)
    | with_reducible apply frameO_bind | with_reducible apply frameOP_bind | with_reducible apply FrameP.mk' | with_reducible apply FrameOP.mk'
    | with_reducible apply FrameOP.none_ | with_reducible apply FrameOP.mkP | dsimp only [id_eq]

theorem reserveShiftPage_frame (slot : ℕ) (ti : ℕ) (idx : ℕ) (e : ℕ) (acc : List (ℕ × ℕ × ℕ)) (h : Frame m a s) (hm : sub [.cnt, .sto] m = true) : FrameOP m a (reserveShiftPage slot ti idx e acc s) := by
  unfold reserveShiftPage
  repeat' first
    | with_reducible assumption | intro _ | exact sub_trans rfl hm | with_reducible apply reserveDecode_frame | with_reducible apply reserveFor_frame
    | ((with_reducible apply Frame.outOP); with_reducible assumption) | ((with_reducible apply Frame.outOPs); with_reducible assumption)
    | with_reducible apply frameO_map | with_reducible apply frameOP_map | with_reducible apply frameOQ_map | with_reducible apply frameO_bind
    | with_reducible apply frameOP_bind | with_reducible apply frame_ite | with_reducible apply frameOP_ite | split | with_reducible apply FrameP.mk'
    | with_reducible apply FrameOP.mk' | with_reducible apply FrameOP.none_ | with_reducible apply FrameOP.mkP | dsimp only [id_eq]

theorem reserveShift_frame (slot : ℕ) (p1 : List (ℕ × ℕ)) (p2 : List (ℕ × ℕ × ℕ)) (h : Frame m a s) (hm : sub [.cnt, .sto] m = true) : FrameOP m a (reserveShift slot p1 p2 s) := by
  induction p1 generalizing s p2 with
  | nil =>
    unfold reserveShift
    repeat' first
      | with_reducible assumption | intro _ | exact sub_trans rfl hm | with_reducible apply reserveShiftPage_frame
      | ((with_reducible apply Frame.outOP); with_reducible assumption) | ((with_reducible apply Frame.outOPs); with_reducible assumption) | split
      | with_reducible apply FrameP.mk' | with_reducible apply FrameOP.mk' | with_reducible apply FrameOP.none_ | with_reducible apply FrameOP.mkP
      | dsimp only [id_eq]
  | cons _ _ ih =>
    unfold reserveShift
    repeat' first
      | with_reducible assumption | intro _ | (apply ih) | exact sub_trans rfl hm | with_reducible apply reserveShiftPage_frame
      | ((with_reducible apply Frame.outOP); with_reducible assumption) | ((with_reducible apply Frame.outOPs); with_reducible assumption) | split
      | with_reducible apply FrameP.mk' | with_reducible apply FrameOP.mk' | with_reducible apply FrameOP.none_ | with_reducible apply FrameOP.mkP
      | dsimp only [id_eq]

theorem startShift_frame (o : CtlOp) (program : ℕ) (h : Frame m a s) (hm : sub [.cnt, .rgn, .chan, .work] m = true) : Frame m a (startShift o program s) := by
  unfold startShift
  repeat' first
    | with_reducible assumption | intro _ | exact sub_trans rfl hm | with_reducible apply shiftPage_frame | with_reducible apply frame_foldl
    | dsimp only [id_eq]

theorem unstripeAll_frame (slot : ℕ) (p1 : List (ℕ × ℕ)) (h : Frame m a s) (hm : sub [.catchment, .log, .cnt, .mem, .sto, .dir, .tlb, .chan, .free] m = true) : FrameP m a (unstripeAll slot p1 s) := by
  induction p1 generalizing s with
  | nil =>
    unfold unstripeAll
    repeat' first
      | with_reducible assumption | intro _ | exact sub_trans rfl hm | with_reducible apply unstripePair_frame
      | ((with_reducible apply Frame.out); with_reducible assumption) | split
      | ((with_reducible apply FrameP.snd); with_reducible apply unstripePair_frame) | with_reducible apply FrameP.mk' | dsimp only [id_eq]
  | cons _ _ ih =>
    unfold unstripeAll
    repeat' first
      | with_reducible assumption | intro _ | (apply ih) | exact sub_trans rfl hm | with_reducible apply unstripePair_frame
      | ((with_reducible apply Frame.out); with_reducible assumption) | split
      | ((with_reducible apply FrameP.snd); with_reducible apply unstripePair_frame) | with_reducible apply FrameP.mk' | dsimp only [id_eq]

theorem shiftAccept_frame (k : ℕ) (o : CtlOp) (h : Frame m a s) (hm : sub [.catchment, .log, .cnt, .rgn, .mem, .sto, .dir, .tlb, .chan, .work, .jx, .datum, .free] m = true) : Frame m a (shiftAccept k o s) := by
  unfold shiftAccept
  repeat' first
    | with_reducible assumption | intro _ | exact sub_trans rfl hm | with_reducible apply ctlAnswer_frame | with_reducible apply frameExhausted_frame
    | with_reducible apply unstripeAll_frame | with_reducible apply lineLost_frame | with_reducible apply reserveShift_frame
    | with_reducible apply enterSeq_frame | with_reducible apply beginRewriting_frame | with_reducible apply setSeq_frame
    | with_reducible apply forwardCtl_frame | with_reducible apply takeFree_frame | with_reducible apply startShift_frame
    | ((with_reducible apply Frame.out); with_reducible assumption) | ((with_reducible apply Frame.outOP); with_reducible assumption)
    | ((with_reducible apply Frame.outOPs); with_reducible assumption) | split
    | ((with_reducible apply FrameP.snd); with_reducible apply unstripeAll_frame)
    | ((with_reducible apply FrameP.snd); with_reducible apply takeFree_frame) | with_reducible apply FrameP.mk' | with_reducible apply FrameOP.mk'
    | with_reducible apply FrameOP.none_ | with_reducible apply FrameOP.mkP | dsimp only [id_eq]
    | fail_if_no_progress ((with_reducible apply frame_work (hm := sub_trans rfl hm)))

theorem ctlAdmit_frame (k : ℕ) (o : CtlOp) (h : Frame m a s) (hm : sub [.catchment, .log, .cnt, .rgn, .mem, .sto, .dir, .tlb, .chan, .work, .req, .key, .jx, .datum, .free] m = true) : Frame m a (ctlAdmit k o s) := by
  unfold ctlAdmit
  repeat' first
    | with_reducible assumption | intro _ | exact sub_trans rfl hm | with_reducible apply ctlAnswer_frame | with_reducible apply refuseSeq_frame
    | with_reducible apply forwardCtl_frame | with_reducible apply enterSeq_frame | with_reducible apply commitStep_frame
    | with_reducible apply setSeq_frame | with_reducible apply rollbackStep_frame | with_reducible apply ctlGone_frame
    | with_reducible apply countTenant_frame | with_reducible apply shiftAccept_frame | with_reducible apply frame_ite | split | dsimp only [id_eq]
    | fail_if_no_progress ((with_reducible apply frame_work (hm := sub_trans rfl hm)))

theorem admitNext_frame (slot : ℕ) (h : Frame m a s) (hm : sub [.catchment, .log, .cnt, .rgn, .mem, .sto, .dir, .tlb, .chan, .work, .req, .key, .jx, .datum, .free] m = true) : Frame m a (admitNext slot s) := by
  unfold admitNext
  repeat' first
    | with_reducible assumption | intro _ | exact sub_trans rfl hm | with_reducible apply ctlAdmit_frame | with_reducible apply frame_foldl
    | with_reducible apply frame_ite | split | dsimp only [id_eq]

theorem execAppend_frame (inst : ℕ) (h : Frame m a s) (hm : sub [.cfg, .catchment, .log, .cnt, .rgn, .mem, .sto, .dir, .tlb, .chan, .work, .prog, .req, .key, .jx, .slu, .datum, .free] m = true) : FrameR m a (execAppend inst s) := by
  unfold execAppend
  repeat' first
    | with_reducible assumption | intro _ | exact sub_trans rfl hm | with_reducible apply lookSeq_frame | with_reducible apply appendDo_frame
    | with_reducible apply leaveWaits_frame | with_reducible apply joinWaits_frame | with_reducible apply admitNext_frame
    | ((with_reducible apply Frame.out); with_reducible assumption) | with_reducible apply frame_ite | with_reducible apply frameP_ite | split
    | ((with_reducible apply FrameP.snd); with_reducible apply lookSeq_frame) | with_reducible apply FrameR.mk' | with_reducible apply FrameR.fault
    | with_reducible apply FrameP.mk' | dsimp only [id_eq]

theorem ctlEnqueue_frame (o : CtlOp) (h : Frame m a s) (hm : sub [.catchment, .log, .cnt, .rgn, .mem, .sto, .dir, .tlb, .chan, .work, .req, .key, .jx, .datum, .free] m = true) : Frame m a (ctlEnqueue o s) := by
  unfold ctlEnqueue
  repeat' first
    | with_reducible assumption | with_reducible apply admitNext_frame | dsimp only [id_eq]
    | fail_if_no_progress ((with_reducible apply frame_work (hm := sub_trans rfl hm)))

theorem ctlArrive_frame (b_ : Bytes) (die : ℕ) (m_ : EnMsg) (h : Frame m a s) (hm : sub [.catchment, .log, .cnt, .rgn, .mem, .sto, .dir, .tlb, .chan, .work, .req, .key, .jx, .datum, .free] m = true) : Frame m a (ctlArrive b_ die m_ s) := by
  unfold ctlArrive
  repeat' first
    | with_reducible assumption | intro _ | exact sub_trans rfl hm | with_reducible apply ctlAnswer_frame | with_reducible apply lookSeq_frame
    | with_reducible apply epochCheck_frame | with_reducible apply redirect_frame | with_reducible apply ctlEnqueue_frame
    | ((with_reducible apply Frame.out); with_reducible assumption) | with_reducible apply Frame.getD | with_reducible apply frame_ite
    | with_reducible apply frameP_ite | split | ((with_reducible apply FrameP.snd); with_reducible apply epochCheck_frame)
    | ((with_reducible apply FrameP.snd); with_reducible apply lookSeq_frame) | with_reducible apply FrameP.mk' | dsimp only [id_eq]

theorem execAppendFillStep_frame (app : ℕ) (h : Frame m a s) (hm : sub [.cfg, .catchment, .log, .cnt, .rgn, .mem, .sto, .dir, .tlb, .chan, .work, .prog, .req, .key, .jx, .slu, .datum, .free] m = true) : FrameR m a (execAppendFillStep app s) := by
  unfold execAppendFillStep
  repeat' first
    | with_reducible assumption | intro _ | exact sub_trans rfl hm | with_reducible apply setSeq_frame | with_reducible apply relayState_frame
    | with_reducible apply relayTokens_frame | with_reducible apply endBusy_frame | with_reducible apply endProgUse_frame
    | with_reducible apply leaveSeq_frame | with_reducible apply admitNext_frame | with_reducible apply frame_foldl | with_reducible apply frame_ite
    | split | with_reducible apply FrameR.mk' | dsimp only [id_eq] | fail_if_no_progress ((with_reducible apply frame_work (hm := sub_trans rfl hm)))

theorem compactReserve_frame (slot : ℕ) (o : CtlOp) (h : Frame m a s) (hm : sub [.cnt, .sto] m = true) : FrameOP m a (compactReserve slot o s) := by
  unfold compactReserve
  repeat' first
    | with_reducible assumption | intro _ | exact sub_trans rfl hm | with_reducible apply reservePair_frame
    | ((with_reducible apply Frame.out); with_reducible assumption) | ((with_reducible apply Frame.outO); with_reducible assumption)
    | ((with_reducible apply Frame.outOP); with_reducible assumption) | ((with_reducible apply Frame.outOQ); with_reducible assumption)
    | with_reducible exact FrameOP.out ‹FrameOP m a (some (_, _))› _ _ rfl | ((with_reducible apply Frame.outOPs); with_reducible assumption)
    | ((with_reducible apply Frame.outOQs); with_reducible assumption) | with_reducible apply frame_foldl | with_reducible apply frameP_foldl
    | with_reducible apply frameOP_foldl | with_reducible apply frameO_foldl | with_reducible apply frameO_map | with_reducible apply frameOP_map
    | with_reducible apply frameOQ_map | with_reducible apply frameO_bind | with_reducible apply frameOP_bind | split
    | with_reducible apply FrameP.mk' | with_reducible apply FrameO.mk' | with_reducible apply FrameO.none_ | with_reducible apply FrameOP.mk'
    | with_reducible apply FrameOP.none_ | with_reducible apply FrameOP.mkP | with_reducible apply FrameOQ.mk' | with_reducible apply FrameOQ.none_
    | dsimp only [id_eq]

theorem execCompactionStart_frame (slot : Fin 262144) (h : Frame m a s) (hm : sub [.catchment, .log, .cnt, .rgn, .sto, .dir, .chan, .work, .req, .jx, .datum] m = true) : FrameR m a (execCompactionStart slot s) := by
  unfold execCompactionStart
  repeat' first
    | with_reducible assumption | intro _ | exact sub_trans rfl hm | with_reducible apply compactReserve_frame
    | with_reducible apply commitAbort_frame | with_reducible apply frameExhausted_frame | with_reducible apply raise_frame
    | with_reducible apply beginRewriting_frame | with_reducible apply issueUnit_frame
    | ((with_reducible apply Frame.outOP); with_reducible assumption) | with_reducible exact FrameOP.out ‹FrameOP m a (some (_, _))› _ _ rfl
    | ((with_reducible apply Frame.outOPs); with_reducible assumption) | with_reducible apply frame_foldl | with_reducible apply frameOP_foldl
    | with_reducible apply frame_ite | with_reducible apply frameOP_ite | split | with_reducible apply FrameR.mk' | with_reducible apply FrameR.fault
    | with_reducible apply FrameP.mk' | with_reducible apply FrameOP.mk' | with_reducible apply FrameOP.none_ | with_reducible apply FrameOP.mkP
    | dsimp only [id_eq] | fail_if_no_progress ((with_reducible apply frame_work (hm := sub_trans rfl hm)))

theorem execCommitFinalStep_frame (slot : Fin 262144) (h : Frame m a s) (hm : sub [.catchment, .log, .cnt, .rgn, .mem, .sto, .dir, .tlb, .chan, .work, .req, .key, .jx, .datum, .free] m = true) : FrameR m a (execCommitFinalStep slot s) := by
  unfold execCommitFinalStep
  repeat' first
    | with_reducible assumption | exact sub_trans rfl hm | with_reducible apply ctlAnswer_frame | with_reducible apply ctlGone_frame
    | with_reducible apply commitAbort_frame | with_reducible apply commitStep_frame | with_reducible apply admitNext_frame | split
    | with_reducible apply FrameR.mk'

theorem shiftAnswer_frame (slot : ℕ) (k : ℕ) (o : CtlOp) (h : Frame m a s) (hm : sub [.catchment, .log, .cnt, .rgn, .mem, .sto, .dir, .tlb, .chan, .work, .req, .key, .jx, .datum, .free] m = true) : Frame m a (shiftAnswer slot k o s) := by
  unfold shiftAnswer
  repeat' first
    | with_reducible assumption | intro _ | exact sub_trans rfl hm | with_reducible apply ctlAnswer_frame | with_reducible apply ctlGone_frame
    | with_reducible apply admitNext_frame | with_reducible apply frame_ite | split | dsimp only [id_eq]

theorem shiftStep_frame (slot : ℕ) (o : CtlOp) (h : Frame m a s) (hm : sub [.catchment, .log, .sto, .dir, .chan, .jx, .datum] m = true) : Frame m a (shiftStep slot o s) := by
  unfold shiftStep
  repeat' first
    | with_reducible assumption | intro _ | exact sub_trans rfl hm | with_reducible apply endRewriting_frame | with_reducible apply dropReserved_frame
    | with_reducible apply seqLost_frame | with_reducible apply setSeq_frame | with_reducible apply frame_ite | split | dsimp only [id_eq]

theorem execShiftComplete_frame (slot : Fin 262144) (h : Frame m a s) (hm : sub [.catchment, .log, .cnt, .rgn, .mem, .sto, .dir, .tlb, .chan, .work, .req, .key, .jx, .datum, .free] m = true) : FrameR m a (execShiftComplete slot s) := by
  unfold execShiftComplete
  repeat' first
    | with_reducible assumption | intro _ | exact sub_trans rfl hm | with_reducible apply shiftAnswer_frame | with_reducible apply shiftStep_frame
    | with_reducible apply frame_ite | split | with_reducible apply FrameR.mk' | with_reducible apply FrameR.fault | dsimp only [id_eq]
    | fail_if_no_progress ((with_reducible apply frame_work (hm := sub_trans rfl hm)))

/-! ## Machine/Query.lean -/

theorem setReq_frame (n : ℕ) (q : Req) (h : Frame m a s) (hm : sub [.req] m = true) : Frame m a (setReq n q s) := by
  unfold setReq
  repeat' first
    | with_reducible assumption | fail_if_no_progress ((with_reducible apply frame_req (hm := sub_trans rfl hm)))

theorem queryRefused_frame (inst : ℕ) (k : ℕ) (status : ℕ) (h : Frame m a s) (hm : sub [.cfg, .catchment, .log, .cnt, .dir, .chan, .jx, .slu, .datum] m = true) : Frame m a (queryRefused inst k status s) := by
  unfold queryRefused
  repeat' first
    | with_reducible assumption | with_reducible apply actEnd_frame

theorem shapeMismatch_frame (slot : ℕ) (layer : ℕ) (tenant : ℕ) (h : Frame m a s) (hm : sub [.catchment, .log] m = true) : Frame m a (shapeMismatch slot layer tenant s) := by
  unfold shapeMismatch
  repeat' first
    | with_reducible assumption | intro _ | exact sub_trans rfl hm | with_reducible apply raise_frame | dsimp only [id_eq]

theorem programGate_frame (tenant : ℕ) (slot : ℕ) (layer : ℕ) (prog : ℕ) (gen : ℕ) (who : optParam Who none) (h : Frame m a s) (hm : sub [.catchment, .log, .cnt] m = true) : FrameP m a (programGate tenant slot layer prog gen s who) := by
  unfold programGate
  repeat' first
    | with_reducible assumption | intro _ | exact sub_trans rfl hm | with_reducible apply progCheck_frame | with_reducible apply shapeMismatch_frame
    | with_reducible apply raise_frame | ((with_reducible apply Frame.out); with_reducible assumption) | with_reducible apply frame_ite
    | with_reducible apply frameP_ite | split | ((with_reducible apply FrameP.snd); with_reducible apply progCheck_frame)
    | with_reducible apply FrameP.mk' | dsimp only [id_eq]

theorem treeGate_frame (tenant : ℕ) (slot : ℕ) (img : Bytes) (parents : Option ℕ) (incTail : Bool) (nq : ℕ) (who : optParam Who none) (h : Frame m a s) (hm : sub [.catchment, .log, .cnt] m = true) : FrameP m a (treeGate tenant slot img parents incTail nq s who) := by
  unfold treeGate
  repeat' first
    | with_reducible assumption | intro _ | exact sub_trans rfl hm | with_reducible apply refuseSeq_frame | with_reducible apply frame_ite
    | with_reducible apply frameP_ite | split | with_reducible apply FrameP.mk' | dsimp only [id_eq]

theorem queryDo_frame (x : Inst) (inst : ℕ) (k : ℕ) (p : Bytes) (m_ : EnMsg) (h : Frame m a s) (hm : sub [.cfg, .catchment, .log, .cnt, .dir, .chan, .prog, .req, .nextReq, .jx, .slu, .datum] m = true) : Frame m a (queryDo x inst k p m_ s) := by
  unfold queryDo
  repeat' first
    | with_reducible assumption | intro _ | exact sub_trans rfl hm | with_reducible apply lookSeq_frame | with_reducible apply doneReading_frame
    | with_reducible apply queryRefused_frame | with_reducible apply shapeMismatch_frame | with_reducible apply epochCheck_frame
    | with_reducible apply refuseSeq_frame | with_reducible apply programGate_frame | with_reducible apply treeGate_frame
    | with_reducible apply startProgUse_frame | with_reducible apply actBusy_frame | with_reducible apply setReq_frame
    | ((with_reducible apply Frame.out); with_reducible assumption) | with_reducible apply Frame.getD | with_reducible apply frame_ite
    | with_reducible apply frameP_ite | split | ((with_reducible apply FrameP.snd); with_reducible apply epochCheck_frame)
    | ((with_reducible apply FrameP.snd); with_reducible apply lookSeq_frame)
    | ((with_reducible apply FrameP.snd); with_reducible apply programGate_frame)
    | ((with_reducible apply FrameP.snd); with_reducible apply treeGate_frame) | with_reducible apply FrameP.mk' | dsimp only [id_eq]
    | fail_if_no_progress ((with_reducible apply frame_nextReq (hm := sub_trans rfl hm)))

theorem execQuery_frame (inst : ℕ) (h : Frame m a s) (hm : sub [.cfg, .catchment, .log, .cnt, .dir, .chan, .prog, .req, .nextReq, .jx, .slu, .datum] m = true) : FrameR m a (execQuery inst s) := by
  unfold execQuery
  repeat' first
    | with_reducible assumption | with_reducible apply queryDo_frame | split | with_reducible apply FrameR.mk'

theorem reqRefused_frame (n : ℕ) (status : ℕ) (q : Req) (h : Frame m a s) (hm : sub [.cfg, .catchment, .log, .cnt, .dir, .chan, .prog, .req, .jx, .slu, .datum] m = true) : Frame m a (reqRefused n status q s) := by
  unfold reqRefused
  repeat' first
    | with_reducible assumption | intro _ | exact sub_trans rfl hm | with_reducible apply endReq_frame | with_reducible apply count_frame
    | with_reducible apply frame_ite

theorem touchTensors_frame (q : Req) (img : Bytes) (h : Frame m a s) (hm : sub [.dir] m = true) : Frame m a (touchTensors q img s) := by
  unfold touchTensors
  repeat' first
    | with_reducible assumption | intro _ | with_reducible apply setTen_frame | with_reducible apply frame_foldl

theorem noteWait_frame (n : ℕ) (h : Frame m a s) (hm : sub [.cnt, .req] m = true) : Frame m a (noteWait n s) := by
  unfold noteWait
  repeat' first
    | with_reducible assumption | intro _ | exact sub_trans rfl hm | with_reducible apply acct_frame | with_reducible apply setReq_frame
    | with_reducible apply frame_ite | split | dsimp only [id_eq]

theorem confirmReq_frame (n : ℕ) (q : Req) (t : Tuple) (b_ : ℕ) (h : Frame m a s) (hm : sub [.cnt, .dir, .req, .nextReq, .slu] m = true) : Frame m a (confirmReq n q t b_ s) := by
  unfold confirmReq
  repeat' first
    | with_reducible assumption | intro _ | exact sub_trans rfl hm | with_reducible apply count_frame | with_reducible apply acct_frame
    | with_reducible apply setReq_frame | with_reducible apply setEntryRec_frame | with_reducible apply noteWait_frame
    | with_reducible apply touchTensors_frame | with_reducible apply enterSeq_frame | ((with_reducible apply Frame.out); with_reducible assumption)
    | ((with_reducible apply Frame.outO); with_reducible assumption) | ((with_reducible apply Frame.outOP); with_reducible assumption)
    | ((with_reducible apply Frame.outOQ); with_reducible assumption) | with_reducible exact FrameOP.out ‹FrameOP m a (some (_, _))› _ _ rfl
    | ((with_reducible apply Frame.outOPs); with_reducible assumption) | ((with_reducible apply Frame.outOQs); with_reducible assumption)
    | with_reducible apply frame_foldl | with_reducible apply frameP_foldl | with_reducible apply frameOP_foldl | with_reducible apply frameO_foldl
    | with_reducible apply frame_ite | with_reducible apply frameP_ite | with_reducible apply frameO_ite | with_reducible apply frameOP_ite | split
    | with_reducible apply FrameP.mk' | with_reducible apply FrameO.mk' | with_reducible apply FrameO.none_ | with_reducible apply FrameOP.mk'
    | with_reducible apply FrameOP.none_ | with_reducible apply FrameOP.mkP | with_reducible apply FrameOQ.mk' | with_reducible apply FrameOQ.none_
    | dsimp only [id_eq] | fail_if_no_progress ((with_reducible apply frame_nextReq (hm := sub_trans rfl hm)))

theorem confirmQueue_frame (n : ℕ) (q : Req) (t : Tuple) (b_ : ℕ) (tenant : ℕ) (h : Frame m a s) (hm : sub [.cfg, .catchment, .log, .cnt, .dir, .chan, .prog, .req, .nextReq, .jx, .slu, .datum] m = true) : Frame m a (confirmQueue n q t b_ tenant s) := by
  unfold confirmQueue
  repeat' first
    | with_reducible assumption | intro _ | exact sub_trans rfl hm | with_reducible apply reqRefused_frame | with_reducible apply acct_frame
    | with_reducible apply confirmReq_frame | with_reducible apply frame_ite

theorem confirmDo_frame (n : ℕ) (q : Req) (h : Frame m a s) (hm : sub [.cfg, .catchment, .log, .cnt, .dir, .chan, .prog, .req, .nextReq, .jx, .slu, .datum] m = true) : Frame m a (confirmDo n q s) := by
  unfold confirmDo
  repeat' first
    | with_reducible assumption | intro _ | exact sub_trans rfl hm | with_reducible apply lookSeq_frame | with_reducible apply reqRefused_frame
    | with_reducible apply refuseSeq_frame | with_reducible apply count_frame | with_reducible apply setReq_frame
    | with_reducible apply treeGate_frame | with_reducible apply confirmQueue_frame | with_reducible apply shapeMismatch_frame
    | ((with_reducible apply Frame.out); with_reducible assumption) | with_reducible apply frame_ite | with_reducible apply frameP_ite | split
    | ((with_reducible apply FrameP.snd); with_reducible apply lookSeq_frame)
    | ((with_reducible apply FrameP.snd); with_reducible apply treeGate_frame) | with_reducible apply FrameP.mk' | dsimp only [id_eq]

theorem execConfirm_frame (req : ℕ) (h : Frame m a s) (hm : sub [.cfg, .catchment, .log, .cnt, .dir, .chan, .prog, .req, .nextReq, .jx, .slu, .datum] m = true) : FrameR m a (execConfirm req s) := by
  unfold execConfirm
  repeat' first
    | with_reducible assumption | with_reducible apply confirmDo_frame | split | with_reducible apply FrameR.mk'

theorem execConfirmArrival_frame (req : ℕ) (r : Fin 16) (h : Frame m a s) (hm : sub [.cnt, .req] m = true) : FrameR m a (execConfirmArrival req r s) := by
  unfold execConfirmArrival
  repeat' first
    | with_reducible assumption | intro _ | exact sub_trans rfl hm | with_reducible apply noteWait_frame | with_reducible apply setReq_frame
    | with_reducible apply frame_ite | split | with_reducible apply FrameR.mk' | with_reducible apply FrameR.fault | dsimp only [id_eq]

/-! ## Machine/Blocks.lean -/

theorem serveTurn_frame (x : ℕ) (l : List Turn) (w : Turn) (h : Frame m a s) (hm : sub [.traffic] m = true) : Frame m a (serveTurn x l w s) := by
  unfold serveTurn
  repeat' first
    | with_reducible assumption | intro _ | exact sub_trans rfl hm | with_reducible apply frame_foldl | with_reducible apply frame_ite | split
    | dsimp only [id_eq] | fail_if_no_progress ((with_reducible apply frame_traffic (hm := sub_trans rfl hm)))

theorem drrTurn_frame (x : ℕ) (p : ℕ) (heads : List (ℕ × ℕ)) (h : Frame m a s) (hm : sub [.traffic] m = true) : FrameO m a (drrTurn x p heads s) := by
  unfold drrTurn
  repeat' first
    | with_reducible assumption | intro _ | exact sub_trans rfl hm | with_reducible apply serveTurn_frame | with_reducible apply frame_ite
    | with_reducible apply frameO_ite | split | with_reducible apply FrameO.mk' | with_reducible apply FrameO.none_ | dsimp only [id_eq]

theorem laneTurn_frame (x : ℕ) (n : ℕ) (i : ℕ) (l : List LaneAt) (cost : LaneAt → ℕ) (h : Frame m a s) (hm : sub [.traffic] m = true) : FrameO m a (laneTurn x n i l cost s) := by
  unfold laneTurn
  repeat' first
    | with_reducible assumption | intro _ | exact sub_trans rfl hm | with_reducible apply drrTurn_frame
    | ((with_reducible apply Frame.outO); with_reducible assumption) | with_reducible apply frameO_map | with_reducible apply frameOP_map
    | with_reducible apply frameOQ_map | with_reducible apply frame_ite | with_reducible apply frameO_ite | split | with_reducible apply FrameO.mk'
    | with_reducible apply FrameO.none_ | dsimp only [id_eq]

theorem ctxTurn_frame (r : ℕ) (b_ : ℕ) (n : ℕ) (i : ℕ) (lc : Bool) (h : Frame m a s) (hm : sub [.traffic] m = true) : FrameO m a (ctxTurn r b_ n i lc s) := by
  unfold ctxTurn
  repeat' first
    | with_reducible assumption | intro _ | exact sub_trans rfl hm | with_reducible apply laneTurn_frame
    | ((with_reducible apply Frame.outO); with_reducible assumption) | with_reducible apply frame_ite | with_reducible apply frameO_ite | split
    | with_reducible apply FrameO.mk' | with_reducible apply FrameO.none_ | dsimp only [id_eq]

theorem modLane_frame (n : ℕ) (r : ℕ) (i : ℕ) (f : Lane → Lane) (h : Frame m a s) (hm : sub [.req] m = true) : Frame m a (modLane n r i f s) := by
  unfold modLane
  repeat' first
    | with_reducible assumption | with_reducible apply setReq_frame | split

theorem takeContext_frame (n : ℕ) (r : ℕ) (i : ℕ) (b_ : ℕ) (h : Frame m a s) (hm : sub [.req] m = true) : Frame m a (takeContext n r i b_ s) := by
  unfold takeContext
  repeat' first
    | with_reducible assumption | intro _ | exact sub_trans rfl hm | with_reducible apply modLane_frame | with_reducible apply setReq_frame | split
    | dsimp only [id_eq]

theorem giveContexts_frame (n : ℕ) (r : ℕ) (q : Req) (h : Frame m a s) (hm : sub [.req, .traffic] m = true) : Frame m a (giveContexts n r q s) := by
  unfold giveContexts
  repeat' first
    | with_reducible assumption | intro _ | exact sub_trans rfl hm | with_reducible apply modLane_frame | with_reducible apply ctxTurn_frame
    | with_reducible apply takeContext_frame | ((with_reducible apply Frame.outO); with_reducible assumption) | with_reducible apply frame_foldl
    | with_reducible apply frameO_foldl | with_reducible apply frame_ite | with_reducible apply frameO_ite | split | with_reducible apply FrameO.mk'
    | with_reducible apply FrameO.none_ | dsimp only [id_eq]

theorem execContextAllocate_frame (req : ℕ) (r : Fin 16) (h : Frame m a s) (hm : sub [.cnt, .rgn, .req, .traffic] m = true) : FrameR m a (execContextAllocate req r s) := by
  unfold execContextAllocate
  repeat' first
    | with_reducible assumption | intro _ | exact sub_trans rfl hm | with_reducible apply markBusy_frame | with_reducible apply noteWait_frame
    | with_reducible apply giveContexts_frame | with_reducible apply frame_ite | split | with_reducible apply FrameR.mk'
    | with_reducible apply FrameR.fault | dsimp only [id_eq]

theorem grantRead_frame (r : ℕ) (p : ℕ) (lc : Bool) (others : ℕ → Bool) (left : Tbl ℕ) (h : Frame m a s) (hm : sub [.traffic] m = true) : FrameP m a (grantRead r p lc others left s) := by
  unfold grantRead
  repeat' first
    | with_reducible assumption | intro _ | exact sub_trans rfl hm | with_reducible apply setTokens_frame | with_reducible apply frame_ite
    | with_reducible apply frameP_ite | split | with_reducible apply FrameP.mk' | dsimp only [id_eq]

theorem walkKinds_frame (slot : ℕ) (layer : ℕ) (idx : ℕ) (r : ℕ) (block : ℕ) (p5 : List ℕ) (h : Frame m a s) (hm : sub [.tlb] m = true) : FrameP m a (walkKinds slot layer idx r block p5 s) := by
  induction p5 generalizing s with
  | nil =>
    unfold walkKinds
    repeat' first
      | with_reducible assumption | with_reducible apply FrameP.mk'
  | cons _ _ ih =>
    unfold walkKinds
    repeat' first
      | with_reducible assumption | ((with_reducible apply FrameP.snd); apply ih)
      | ((with_reducible apply FrameP.snd); with_reducible apply translate_frame) | with_reducible apply FrameP.mk'

theorem noteRead_frame (p : ℕ) (n : ℕ) (h : Frame m a s) (hm : sub [.readLog] m = true) : Frame m a (noteRead p n s) := by
  unfold noteRead
  repeat' first
    | with_reducible assumption | dsimp only [id_eq] | fail_if_no_progress ((with_reducible apply frame_readLog (hm := sub_trans rfl hm)))

theorem chargeRead_frame (n : ℕ) (r : ℕ) (bytes : ℕ) (h : Frame m a s) (hm : sub [.cnt, .req, .readLog] m = true) : Frame m a (chargeRead n r bytes s) := by
  unfold chargeRead
  repeat' first
    | with_reducible assumption | intro _ | exact sub_trans rfl hm | with_reducible apply noteRead_frame | with_reducible apply acct_frame
    | with_reducible apply setReq_frame | with_reducible apply frame_ite | split | dsimp only [id_eq]

theorem prefetch_frame (slot : ℕ) (vpn : ℕ) (sv : ℕ) (region : ℕ) (block : ℕ) (h : Frame m a s) (hm : sub [.tlb] m = true) : Frame m a (prefetch slot vpn sv region block s) := by
  unfold prefetch
  repeat' first
    | with_reducible assumption | intro _ | exact sub_trans rfl hm | with_reducible apply frameO_map | with_reducible apply frameOP_map
    | with_reducible apply frameOQ_map | with_reducible apply frame_ite | split | dsimp only [id_eq]
    | fail_if_no_progress ((with_reducible apply frame_tlb (hm := sub_trans rfl hm)))

theorem prefetchNext_frame (q : Req) (r : ℕ) (l : Lane) (h : Frame m a s) (hm : sub [.tlb] m = true) : Frame m a (prefetchNext q r l s) := by
  unfold prefetchNext
  repeat' first
    | with_reducible assumption | intro _ | exact sub_trans rfl hm | with_reducible apply prefetch_frame | with_reducible apply frame_foldl | split
    | dsimp only [id_eq]

theorem fillBuffer_frame (n : ℕ) (r : ℕ) (i : ℕ) (idx : ℕ) (q : Req) (t : Tuple) (l : Lane) (leaves : List (ℕ × ℕ)) (pages : List (ℕ × Bytes)) (h : Frame m a s) (hm : sub [.cnt, .tlb, .req, .readLog, .traffic] m = true) : Frame m a (fillBuffer n r i idx q t l leaves pages s) := by
  unfold fillBuffer
  repeat' first
    | with_reducible assumption | intro _ | exact sub_trans rfl hm | with_reducible apply grantRead_frame | with_reducible apply chargeRead_frame
    | with_reducible apply modLane_frame | with_reducible apply prefetchNext_frame | ((with_reducible apply Frame.out); with_reducible assumption)
    | with_reducible apply Frame.getD | with_reducible apply frameO_map | with_reducible apply frameOP_map | with_reducible apply frameOQ_map
    | with_reducible apply frame_ite | with_reducible apply frameP_ite | split
    | ((with_reducible apply FrameP.snd); with_reducible apply grantRead_frame) | with_reducible apply FrameP.mk' | dsimp only [id_eq]

theorem loseRead_frame (n : ℕ) (slot : ℕ) (h : Frame m a s) (hm : sub [.cfg, .catchment, .log, .cnt, .dir, .chan, .prog, .req, .jx, .slu, .datum] m = true) : Frame m a (loseRead n slot s) := by
  unfold loseRead
  repeat' first
    | with_reducible assumption | exact sub_trans rfl hm | with_reducible apply seqLost_frame | with_reducible apply endReq_frame

theorem readFailed_frame (n : ℕ) (r : ℕ) (slot : ℕ) (layer : ℕ) (status : ℕ) (lost : Bool) (confirmed : Bool) (h : Frame m a s) (hm : sub [.cfg, .catchment, .log, .cnt, .dir, .chan, .prog, .req, .jx, .slu, .datum] m = true) : Frame m a (readFailed n r slot layer status lost confirmed s) := by
  unfold readFailed
  repeat' first
    | with_reducible assumption | intro _ | exact sub_trans rfl hm | with_reducible apply endReq_frame | with_reducible apply count_frame
    | with_reducible apply loseRead_frame | with_reducible apply raise_frame | with_reducible apply frame_ite | split | dsimp only [id_eq]

theorem readMet_frame (n : ℕ) (r : ℕ) (q : Req) (idx : ℕ) (leaves : List (ℕ × ℕ)) (outcome : ReadOutcome) (h : Frame m a s) (hm : sub [.pwr, .cfg, .catchment, .log, .cnt, .barrier, .rgn, .tier, .node, .ctl, .mem, .sto, .dir, .chan, .work, .prog, .installs, .req, .jx, .slu, .datum, .dma] m = true) : FrameP m a (readMet n r q idx leaves outcome s) := by
  unfold readMet
  repeat' first
    | with_reducible assumption | intro _ | exact sub_trans rfl hm | with_reducible apply lineCorrected_frame | with_reducible apply loseRead_frame
    | with_reducible apply lineLost_frame | with_reducible apply raiseCount_frame | with_reducible apply endReq_frame
    | with_reducible apply tierTimeout_frame | with_reducible apply raise_frame | with_reducible apply fenceRegion_frame | split
    | with_reducible apply FrameP.mk' | dsimp only [id_eq]

theorem pageReadDo_frame (n : ℕ) (r : ℕ) (i : ℕ) (q : Req) (x : ReqRgn) (l : Lane) (t : Tuple) (idx : ℕ) (outcome : ReadOutcome) (h : Frame m a s) (hm : sub [.pwr, .cfg, .catchment, .log, .cnt, .barrier, .rgn, .tier, .node, .ctl, .mem, .sto, .dir, .tlb, .chan, .work, .prog, .installs, .req, .readLog, .jx, .slu, .traffic, .datum, .dma] m = true) : Frame m a (pageReadDo n r i q x l t idx outcome s) := by
  unfold pageReadDo
  repeat' first
    | with_reducible assumption | intro _ | exact sub_trans rfl hm | with_reducible apply walkKinds_frame | with_reducible apply readFailed_frame
    | with_reducible apply holdRead_frame | with_reducible apply readMet_frame | with_reducible apply fillBuffer_frame
    | with_reducible apply touchCodes_frame | ((with_reducible apply Frame.out); with_reducible assumption) | with_reducible apply frame_ite
    | with_reducible apply frameP_ite | split | ((with_reducible apply FrameP.snd); with_reducible apply walkKinds_frame)
    | ((with_reducible apply FrameP.snd); with_reducible apply readMet_frame) | with_reducible apply FrameP.mk' | dsimp only [id_eq]

theorem execPageRead_frame (req : ℕ) (r : Fin 16) (lane : Fin 8) (outcome : ReadOutcome) (h : Frame m a s) (hm : sub [.pwr, .cfg, .catchment, .log, .cnt, .barrier, .rgn, .tier, .node, .ctl, .mem, .sto, .dir, .tlb, .chan, .work, .prog, .installs, .req, .readLog, .jx, .slu, .traffic, .datum, .dma] m = true) : FrameR m a (execPageRead req r lane outcome s) := by
  unfold execPageRead
  repeat' first
    | with_reducible assumption | intro _ | exact sub_trans rfl hm | with_reducible apply pageReadDo_frame | with_reducible apply frame_ite | split
    | with_reducible apply FrameR.mk' | with_reducible apply FrameR.fault | dsimp only [id_eq]

theorem cellRetry_frame (r : ℕ) (b_ : ℕ) (c : ℕ) (d : Detail) (h : Frame m a s) (hm : sub [.catchment, .log, .blk] m = true) : Frame m a (cellRetry r b_ c d s) := by
  unfold cellRetry
  repeat' first
    | with_reducible assumption | intro _ | exact sub_trans rfl hm | with_reducible apply raise_frame | with_reducible apply setBlk_frame
    | dsimp only [id_eq]

theorem cellFence_frame (r : ℕ) (b_ : ℕ) (c : ℕ) (d : Detail) (h : Frame m a s) (hm : sub [.catchment, .log, .blk] m = true) : Frame m a (cellFence r b_ c d s) := by
  unfold cellFence
  repeat' first
    | with_reducible assumption | intro _ | exact sub_trans rfl hm | with_reducible apply raise_frame | with_reducible apply setBlk_frame
    | dsimp only [id_eq]

theorem cellsFail_frame (r : ℕ) (b_ : ℕ) (cells : List ℕ) (d : ℕ → Detail) (h : Frame m a s) (hm : sub [.pwr, .cfg, .catchment, .log, .cnt, .barrier, .rgn, .blk, .node, .ctl, .mem, .sto, .dir, .chan, .work, .prog, .installs, .req, .jx, .slu, .datum, .dma] m = true) : Frame m a (cellsFail r b_ cells d s) := by
  unfold cellsFail
  repeat' first
    | with_reducible assumption | intro _ | exact sub_trans rfl hm | with_reducible apply cellFence_frame | with_reducible apply fenceBlock_frame
    | with_reducible apply setBlk_frame | with_reducible apply frame_foldl | with_reducible apply frame_ite | split | dsimp only [id_eq]

theorem pageTurn_frame (r : ℕ) (n : ℕ) (i : ℕ) (q : Req) (l : Lane) (h : Frame m a s) (hm : sub [.traffic] m = true) : FrameO m a (pageTurn r n i q l s) := by
  unfold pageTurn
  repeat' first
    | with_reducible assumption | intro _ | exact sub_trans rfl hm | with_reducible apply laneTurn_frame
    | ((with_reducible apply Frame.outO); with_reducible assumption) | with_reducible apply frameO_bind | with_reducible apply frameOP_bind
    | with_reducible apply frame_ite | with_reducible apply frameO_ite | split | with_reducible apply FrameO.mk' | with_reducible apply FrameO.none_
    | dsimp only [id_eq]

theorem giveCell_frame (r : ℕ) (n : ℕ) (i : ℕ) (l : Lane) (h : Frame m a s) (hm : sub [.blk, .req] m = true) : FrameP m a (giveCell r n i l s) := by
  unfold giveCell
  repeat' first
    | with_reducible assumption | intro _ | exact sub_trans rfl hm | with_reducible apply modLane_frame | with_reducible apply setBlk_frame | split
    | with_reducible apply FrameP.mk' | dsimp only [id_eq]

theorem tileDone_frame (n : ℕ) (r : ℕ) (i : ℕ) (q : Req) (t : Tuple) (b_ : PageBuf) (tile : ℕ × ℕ) (wrong : Bool) (h : Frame m a s) (hm : sub [.req, .free] m = true) : Frame m a (tileDone n r i q t b_ tile wrong s) := by
  unfold tileDone
  repeat' first
    | with_reducible assumption | intro _ | exact sub_trans rfl hm | with_reducible apply takeFree_frame | with_reducible apply modLane_frame
    | ((with_reducible apply Frame.out); with_reducible assumption) | with_reducible apply frame_ite | with_reducible apply frameP_ite | split
    | ((with_reducible apply FrameP.snd); with_reducible apply takeFree_frame) | with_reducible apply FrameP.mk' | dsimp only [id_eq]

theorem tileCheckDo_frame (n : ℕ) (r : ℕ) (i : ℕ) (q : Req) (l : Lane) (t : Tuple) (b_ : PageBuf) (tile : ℕ × ℕ) (faults : List TileFault) (h : Frame m a s) (hm : sub [.pwr, .cfg, .catchment, .log, .cnt, .barrier, .rgn, .blk, .node, .ctl, .mem, .sto, .dir, .chan, .work, .prog, .installs, .req, .jx, .slu, .traffic, .datum, .dma, .free] m = true) : Frame m a (tileCheckDo n r i q l t b_ tile faults s) := by
  unfold tileCheckDo
  repeat' first
    | with_reducible assumption | intro _ | exact sub_trans rfl hm | with_reducible apply pageTurn_frame | with_reducible apply giveCell_frame
    | with_reducible apply tileDone_frame | with_reducible apply modLane_frame | with_reducible apply cellRetry_frame
    | with_reducible apply cellsFail_frame | ((with_reducible apply Frame.out); with_reducible assumption)
    | ((with_reducible apply Frame.outO); with_reducible assumption) | with_reducible apply frame_foldl | with_reducible apply frameP_foldl
    | with_reducible apply frameO_foldl | with_reducible apply frame_ite | with_reducible apply frameP_ite | with_reducible apply frameO_ite | split
    | ((with_reducible apply FrameP.snd); with_reducible apply giveCell_frame) | with_reducible apply FrameP.mk' | with_reducible apply FrameO.mk'
    | with_reducible apply FrameO.none_ | dsimp only [id_eq]

theorem execTileCheck_frame (req : ℕ) (r : Fin 16) (lane : Fin 8) (faults : List TileFault) (h : Frame m a s) (hm : sub [.pwr, .cfg, .catchment, .log, .cnt, .barrier, .rgn, .blk, .node, .ctl, .mem, .sto, .dir, .chan, .work, .prog, .installs, .req, .jx, .slu, .traffic, .datum, .dma, .free] m = true) : FrameR m a (execTileCheck req r lane faults s) := by
  unfold execTileCheck
  repeat' first
    | with_reducible assumption | intro _ | exact sub_trans rfl hm | with_reducible apply tileCheckDo_frame | with_reducible apply modLane_frame
    | with_reducible apply frame_ite | split | with_reducible apply FrameR.mk' | with_reducible apply FrameR.fault | dsimp only [id_eq]

theorem execRegionFold_frame (req : ℕ) (r : Fin 16) (h : Frame m a s) (hm : sub [.cnt, .req] m = true) : FrameR m a (execRegionFold req r s) := by
  unfold execRegionFold
  repeat' first
    | with_reducible assumption | intro _ | exact sub_trans rfl hm | with_reducible apply countN_frame | with_reducible apply setReq_frame
    | ((with_reducible apply Frame.out); with_reducible assumption) | ((with_reducible apply Frame.outO); with_reducible assumption)
    | ((with_reducible apply Frame.outOP); with_reducible assumption) | ((with_reducible apply Frame.outOQ); with_reducible assumption)
    | with_reducible exact FrameOP.out ‹FrameOP m a (some (_, _))› _ _ rfl | ((with_reducible apply Frame.outOPs); with_reducible assumption)
    | ((with_reducible apply Frame.outOQs); with_reducible assumption) | with_reducible apply frame_foldl | with_reducible apply frameP_foldl
    | with_reducible apply frameOP_foldl | with_reducible apply frameO_foldl | with_reducible apply frame_ite | with_reducible apply frameP_ite
    | with_reducible apply frameO_ite | with_reducible apply frameOP_ite | split | with_reducible apply FrameR.mk' | with_reducible apply FrameR.fault
    | with_reducible apply FrameP.mk' | with_reducible apply FrameO.mk' | with_reducible apply FrameO.none_ | with_reducible apply FrameOP.mk'
    | with_reducible apply FrameOP.none_ | with_reducible apply FrameOP.mkP | with_reducible apply FrameOQ.mk' | with_reducible apply FrameOQ.none_
    | dsimp only [id_eq]

theorem emitResult_frame (n : ℕ) (q : Req) (t : Tuple) (rows : Tbl Partial) (h : Frame m a s) (hm : sub [.cfg, .catchment, .log, .cnt, .dir, .chan, .prog, .req, .jx, .slu, .datum] m = true) : Frame m a (emitResult n q t rows s) := by
  unfold emitResult
  repeat' first
    | with_reducible assumption | intro _ | exact sub_trans rfl hm | with_reducible apply endReq_frame | with_reducible apply count_frame
    | with_reducible apply sendMsg_frame | ((with_reducible apply Frame.out); with_reducible assumption) | with_reducible apply frame_ite
    | with_reducible apply frameP_ite | split | ((with_reducible apply FrameP.snd); with_reducible apply sendMsg_frame)
    | with_reducible apply FrameP.mk' | dsimp only [id_eq]

theorem execNetFoldEmit_frame (req : ℕ) (h : Frame m a s) (hm : sub [.cfg, .catchment, .log, .cnt, .dir, .chan, .prog, .req, .jx, .slu, .datum] m = true) : FrameR m a (execNetFoldEmit req s) := by
  unfold execNetFoldEmit
  repeat' first
    | with_reducible assumption | intro _ | exact sub_trans rfl hm | with_reducible apply emitResult_frame
    | ((with_reducible apply Frame.out); with_reducible assumption) | ((with_reducible apply Frame.outO); with_reducible assumption)
    | ((with_reducible apply Frame.outOP); with_reducible assumption) | ((with_reducible apply Frame.outOQ); with_reducible assumption)
    | with_reducible exact FrameOP.out ‹FrameOP m a (some (_, _))› _ _ rfl | ((with_reducible apply Frame.outOPs); with_reducible assumption)
    | ((with_reducible apply Frame.outOQs); with_reducible assumption) | with_reducible apply Frame.getD | with_reducible apply frame_foldl
    | with_reducible apply frameP_foldl | with_reducible apply frameOP_foldl | with_reducible apply frameO_foldl | with_reducible apply frame_ite
    | with_reducible apply frameP_ite | with_reducible apply frameO_ite | with_reducible apply frameOP_ite | split | with_reducible apply FrameR.mk'
    | with_reducible apply FrameR.fault | with_reducible apply FrameP.mk' | with_reducible apply FrameO.mk' | with_reducible apply FrameO.none_
    | with_reducible apply FrameOP.mk' | with_reducible apply FrameOP.none_ | with_reducible apply FrameOP.mkP | with_reducible apply FrameOQ.mk'
    | with_reducible apply FrameOQ.none_ | dsimp only [id_eq]

theorem execPreempt_frame (req : ℕ) (r : Fin 16) (block : Fin 8) (h : Frame m a s) (hm : sub [.catchment, .log, .cnt, .req] m = true) : FrameR m a (execPreempt req r block s) := by
  unfold execPreempt
  repeat' first
    | with_reducible assumption | intro _ | exact sub_trans rfl hm | with_reducible apply raiseCount_frame | with_reducible apply modLane_frame
    | with_reducible apply acct_frame | with_reducible apply noteWait_frame | with_reducible apply takeContext_frame | with_reducible apply frameO_map
    | with_reducible apply frameOP_map | with_reducible apply frameOQ_map | with_reducible apply frame_ite | split | with_reducible apply FrameR.mk'
    | with_reducible apply FrameR.fault | dsimp only [id_eq]

theorem execContextResume_frame (r : Fin 16) (block : Fin 8) (h : Frame m a s) (hm : sub [.cnt, .req, .traffic] m = true) : FrameR m a (execContextResume r block s) := by
  unfold execContextResume
  refine FrameR.mk' (frame_ite (fun _ => h) fun _ => ?_)
  dsimp only
  split
  · exact h
  · next heq =>
    refine modLane_frame _ _ _ _ (hm := sub_trans rfl hm) (acct_frame _ _ _ _ (hm := sub_trans rfl hm) (Frame.outOP heq ?_))
    exact frameOP_findSome fun _ => frameOP_map fun _ e => FrameP.mk' (Frame.outO e (ctxTurn_frame _ _ _ _ _ h (sub_trans rfl hm)))

/-! ## Machine/Migrate.lean -/

theorem tenMalformed_frame (slot : ℕ) (ti : ℕ) (h : Frame m a s) (hm : sub [.catchment, .log] m = true) : Frame m a (tenMalformed slot ti s) := by
  unfold tenMalformed
  repeat' first
    | with_reducible assumption | intro _ | exact sub_trans rfl hm | with_reducible apply raise_frame | dsimp only [id_eq]

theorem copyAllDown_frame (slot : ℕ) (ti : ℕ) (p2 : List (ℕ × ℕ)) (h : Frame m a s) (hm : sub [.cnt, .mem, .sto, .dir] m = true) : FrameP m a (copyAllDown slot ti p2 s) := by
  induction p2 generalizing s with
  | nil =>
    unfold copyAllDown
    repeat' first
      | with_reducible assumption | with_reducible apply FrameP.mk'
  | cons _ _ ih =>
    unfold copyAllDown
    repeat' first
      | with_reducible assumption | intro _ | (apply ih) | with_reducible apply copyDown_frame
      | ((with_reducible apply Frame.outO); with_reducible assumption) | with_reducible apply frameP_ite | split | with_reducible apply FrameP.mk'

theorem copyUp_frame (slot : ℕ) (ti : ℕ) (r : ℕ × ℕ) (h : Frame m a s) (hm : sub [.mem, .sto] m = true) : Frame m a (copyUp slot ti r s) := by
  unfold copyUp
  repeat' first
    | with_reducible assumption | intro _ | exact sub_trans rfl hm | with_reducible apply writeFast_frame | with_reducible apply reuseFast_frame
    | with_reducible apply nameOff_frame | with_reducible apply frame_ite | split | dsimp only [id_eq]
    | fail_if_no_progress ((with_reducible apply frame_sto (hm := sub_trans rfl hm)))

theorem migError_frame (outcome : MigOutcome) (h : Frame m a s) (hm : sub [.pwr, .cfg, .catchment, .log, .cnt, .tier, .sto, .dir, .chan, .work, .prog, .req, .jx, .slu, .datum, .dma] m = true) : Frame m a (migError outcome s) := by
  unfold migError
  repeat' first
    | with_reducible assumption | intro _ | exact sub_trans rfl hm | with_reducible apply raiseCount_frame | with_reducible apply tierTimeout_frame
    | split | dsimp only [id_eq]

theorem demoteDone_frame (slot : ℕ) (ti : ℕ) (h : Frame m a s) (hm : sub [.cfg, .catchment, .log, .cnt, .mem, .sto, .dir, .chan, .work, .jx, .slu, .datum] m = true) : Frame m a (demoteDone slot ti s) := by
  unfold demoteDone
  repeat' first
    | with_reducible assumption | intro _ | exact sub_trans rfl hm | with_reducible apply migFinish_frame | with_reducible apply tenMalformed_frame
    | with_reducible apply copyAllDown_frame | with_reducible apply raise_frame | with_reducible apply giveUpFast_frame
    | ((with_reducible apply Frame.out); with_reducible assumption) | with_reducible apply frame_foldl | with_reducible apply frameP_foldl
    | with_reducible apply frame_ite | with_reducible apply frameP_ite | split
    | ((with_reducible apply FrameP.snd); with_reducible apply copyAllDown_frame) | with_reducible apply FrameP.mk' | dsimp only [id_eq]

theorem migFail_frame (slot : ℕ) (ti : ℕ) (m_ : Mig) (lost : Bool) (h : Frame m a s) (hm : sub [.cfg, .catchment, .log, .cnt, .sto, .dir, .chan, .work, .jx, .slu, .datum] m = true) : Frame m a (migFail slot ti m_ lost s) := by
  unfold migFail
  repeat' first
    | with_reducible assumption | intro _ | exact sub_trans rfl hm | with_reducible apply migFinish_frame | with_reducible apply seqLost_frame
    | with_reducible apply dropReserved_frame | with_reducible apply frame_ite | split | dsimp only [id_eq]

theorem migDone_frame (slot : ℕ) (ti : ℕ) (m_ : Mig) (h : Frame m a s) (hm : sub [.cfg, .catchment, .log, .cnt, .mem, .sto, .dir, .chan, .work, .jx, .slu, .datum] m = true) : Frame m a (migDone slot ti m_ s) := by
  unfold migDone
  repeat' first
    | with_reducible assumption | intro _ | exact sub_trans rfl hm | with_reducible apply demoteDone_frame | with_reducible apply migFinish_frame
    | with_reducible apply copyUp_frame | with_reducible apply frame_foldl | with_reducible apply frame_ite | split | dsimp only [id_eq]

theorem execMigrationEnd_frame (ten : TensorId) (outcome : MigOutcome) (h : Frame m a s) (hm : sub [.pwr, .cfg, .catchment, .log, .cnt, .tier, .mem, .sto, .dir, .chan, .work, .prog, .req, .jx, .slu, .datum, .dma] m = true) : FrameR m a (execMigrationEnd ten outcome s) := by
  unfold execMigrationEnd
  repeat' first
    | with_reducible assumption | intro _ | exact sub_trans rfl hm | with_reducible apply migFail_frame | with_reducible apply migError_frame
    | with_reducible apply readChunks_frame | with_reducible apply baseLineLost_frame | with_reducible apply lineBad_frame
    | with_reducible apply migDone_frame | ((with_reducible apply Frame.out); with_reducible assumption) | with_reducible apply frame_ite
    | with_reducible apply frameP_ite | split | ((with_reducible apply FrameP.snd); with_reducible apply readChunks_frame)
    | with_reducible apply FrameR.mk' | with_reducible apply FrameR.fault | with_reducible apply FrameP.mk' | dsimp only [id_eq]

theorem copyRead_frame (slot : ℕ) (ti : ℕ) (idx : ℕ) (e : ℕ) (h : Frame m a s) (hm : sub [.catchment, .log, .cnt, .dir, .chan, .jx, .datum, .free] m = true) : FrameP m a (copyRead slot ti idx e s) := by
  unfold copyRead
  repeat' first
    | with_reducible assumption | intro _ | exact sub_trans rfl hm | with_reducible apply tenMalformed_frame | with_reducible apply readFree_frame
    | with_reducible apply lineLost_frame | ((with_reducible apply Frame.out); with_reducible assumption) | with_reducible apply frame_ite
    | with_reducible apply frameP_ite | split | ((with_reducible apply FrameP.snd); with_reducible apply readFree_frame)
    | with_reducible apply FrameP.mk' | dsimp only [id_eq]

theorem execStagingWriteback_frame (page : PageId) (h : Frame m a s) (hm : sub [.catchment, .log, .cnt, .mem, .sto, .dir, .chan, .jx, .datum, .free] m = true) : FrameR m a (execStagingWriteback page s) := by
  unfold execStagingWriteback
  repeat' first
    | with_reducible assumption | intro _ | exact sub_trans rfl hm | with_reducible apply copyRead_frame | with_reducible apply copyDown_frame
    | with_reducible apply giveUpFast_frame | ((with_reducible apply Frame.out); with_reducible assumption)
    | ((with_reducible apply Frame.outO); with_reducible assumption) | with_reducible apply frame_ite | with_reducible apply frameP_ite
    | with_reducible apply frameO_ite | split | ((with_reducible apply FrameP.snd); with_reducible apply copyRead_frame)
    | with_reducible apply FrameR.mk' | with_reducible apply FrameR.fault | with_reducible apply FrameP.mk' | with_reducible apply FrameO.mk'
    | with_reducible apply FrameO.none_ | dsimp only [id_eq]

theorem execStripeCopy_frame (page : PageId) (h : Frame m a s) (hm : sub [.catchment, .log, .cnt, .mem, .sto, .dir, .tlb, .chan, .jx, .datum, .free] m = true) : FrameR m a (execStripeCopy page s) := by
  unfold execStripeCopy
  repeat' first
    | with_reducible assumption | intro _ | exact sub_trans rfl hm | with_reducible apply copyRead_frame | with_reducible apply useFast_frame
    | with_reducible apply count_frame | with_reducible apply changeLeaf_frame | with_reducible apply writeFastFor_frame
    | ((with_reducible apply Frame.out); with_reducible assumption) | with_reducible apply frame_ite | with_reducible apply frameP_ite | split
    | ((with_reducible apply FrameP.snd); with_reducible apply copyRead_frame) | with_reducible apply FrameR.mk' | with_reducible apply FrameR.fault
    | with_reducible apply FrameP.mk' | dsimp only [id_eq]

end Sys2Proof.Laws
end

