-- ==== Sys2Proof/Laws/FrameJexus.lean ====
section
/-! SUPPORT. Frames of posting, acknowledgement, receipt, the ends of messages and sending: one lemma per definition, found by walking its own text. -/

namespace Sys2Proof.Laws

open Sys2Proof.Machine

variable {m : List Part} {a s : State}

set_option linter.all false

/-! ## Machine/Posting.lean -/

theorem sluConflict_frame (x : ℕ) (tenant : ℕ) (code : ℕ) (msg : Option EnMsg) (h : Frame m a s) (hm : sub [.catchment, .log, .cnt] m = true) : FrameP m a (sluConflict x tenant code msg s) := by
  unfold sluConflict
  repeat' first
    | with_reducible assumption | with_reducible apply refuseN_frame | with_reducible apply FrameP.mk'

theorem postDo_frame (x : ℕ) (tenant : ℕ) (b_ : Bytes) (msg : Option EnMsg) (h : Frame m a s) (hm : sub [.catchment, .log, .cnt, .slu] m = true) : FrameP m a (postDo x tenant b_ msg s) := by
  unfold postDo
  repeat' first
    | with_reducible assumption | intro _ | exact sub_trans rfl hm | with_reducible apply sluConflict_frame | with_reducible apply setEntryRec_frame
    | ((with_reducible apply FrameP.snd); with_reducible apply sluConflict_frame) | with_reducible apply frameP_ite | split
    | with_reducible apply FrameP.mk'

theorem closeStep_frame (x : ℕ) (parity : ℕ) (status : ℕ) (h : Frame m a s) (hm : sub [.catchment, .log, .cnt, .jx, .slu] m = true) : Frame m a (closeStep x parity status s) := by
  unfold closeStep
  repeat' first
    | with_reducible assumption | exact sub_trans rfl hm | with_reducible apply setEntryRec_frame | with_reducible apply postedRec_frame | split
    | dsimp only [id_eq]

theorem cancelEntry_frame (x : ℕ) (h : Frame m a s) (hm : sub [.catchment, .log, .cnt, .jx, .slu] m = true) : Frame m a (cancelEntry x s) := by
  unfold cancelEntry
  repeat' first
    | with_reducible assumption | exact sub_trans rfl hm | with_reducible apply closeStep_frame | with_reducible apply drainEntry_frame

theorem cancelDo_frame (x : ℕ) (h : Frame m a s) (hm : sub [.catchment, .log, .cnt, .jx, .slu] m = true) : FrameP m a (cancelDo x s) := by
  unfold cancelDo
  repeat' first
    | with_reducible assumption | with_reducible apply cancelEntry_frame | split | with_reducible apply FrameP.mk'

theorem rearmDo_frame (x : ℕ) (tenant : ℕ) (n : ℕ) (msg : Option EnMsg) (h : Frame m a s) (hm : sub [.catchment, .log, .cnt, .slu] m = true) : FrameP m a (rearmDo x tenant n msg s) := by
  unfold rearmDo
  repeat' first
    | with_reducible assumption | intro _ | exact sub_trans rfl hm | with_reducible apply setEntryRec_frame
    | ((with_reducible apply FrameP.snd); with_reducible apply sluConflict_frame) | with_reducible apply frame_ite | split
    | with_reducible apply FrameP.mk'

theorem sluRecord_frame (x : ℕ) (tenant : ℕ) (a_ : SluAns) (msgId : ℕ) (h : Frame m a s) (hm : sub [.catchment, .log, .cnt, .jx, .slu] m = true) : Frame m a (sluRecord x tenant a_ msgId s) := by
  unfold sluRecord
  repeat' first
    | with_reducible assumption | intro _ | exact sub_trans rfl hm | with_reducible apply setEntryRec_frame | with_reducible apply stagedRec_frame
    | with_reducible apply postedRec_frame | with_reducible apply frame_ite

theorem onPost_frame (x : ℕ) (posted : Bool) (h : Frame m a s) (hm : sub [.catchment, .log, .cnt, .jx, .slu] m = true) : Frame m a (onPost x posted s) := by
  unfold onPost
  repeat' first
    | with_reducible assumption | intro _ | with_reducible apply acceptEnable_frame | with_reducible apply frame_ite

theorem dropCmd_frame (c : SluCmd) (h : Frame m a s) (hm : sub [.slu] m = true) : Frame m a (dropCmd c s) := by
  unfold dropCmd
  repeat' first
    | with_reducible assumption | dsimp only [id_eq] | fail_if_no_progress ((with_reducible apply frame_slu (hm := sub_trans rfl hm)))

theorem execSluicePost_frame (entry : Fin 32768) (h : Frame m a s) (hm : sub [.catchment, .log, .cnt, .jx, .slu] m = true) : FrameR m a (execSluicePost entry s) := by
  unfold execSluicePost
  repeat' first
    | with_reducible assumption | exact sub_trans rfl hm | with_reducible apply dropCmd_frame | with_reducible apply onPost_frame
    | with_reducible apply sluRecord_frame | ((with_reducible apply FrameP.snd); with_reducible apply postDo_frame) | split
    | with_reducible apply FrameR.mk'

theorem execSluiceCancel_frame (entry : Fin 32768) (h : Frame m a s) (hm : sub [.catchment, .log, .cnt, .jx, .slu] m = true) : FrameR m a (execSluiceCancel entry s) := by
  unfold execSluiceCancel
  repeat' first
    | with_reducible assumption | exact sub_trans rfl hm | with_reducible apply dropCmd_frame | with_reducible apply sluRecord_frame
    | ((with_reducible apply FrameP.snd); with_reducible apply cancelDo_frame) | split | with_reducible apply FrameR.mk'

theorem execSluiceRearm_frame (entry : Fin 32768) (h : Frame m a s) (hm : sub [.catchment, .log, .cnt, .jx, .slu] m = true) : FrameR m a (execSluiceRearm entry s) := by
  unfold execSluiceRearm
  repeat' first
    | with_reducible assumption | exact sub_trans rfl hm | with_reducible apply dropCmd_frame | with_reducible apply sluRecord_frame
    | ((with_reducible apply FrameP.snd); with_reducible apply rearmDo_frame) | split | with_reducible apply FrameR.mk'

theorem execInstanceStart_frame (die : Fin 4) (h : Frame m a s) (hm : sub [.cnt, .slu] m = true) : FrameR m a (execInstanceStart die s) := by
  unfold execInstanceStart
  repeat' first
    | with_reducible assumption | intro _ | exact sub_trans rfl hm | with_reducible apply acct_frame | with_reducible apply newInst_frame
    | ((with_reducible apply Frame.out); with_reducible assumption) | with_reducible apply frame_ite | with_reducible apply frameP_ite | split
    | ((with_reducible apply FrameP.snd); with_reducible apply newInst_frame) | with_reducible apply FrameR.mk' | with_reducible apply FrameR.fault
    | with_reducible apply FrameP.mk' | dsimp only [id_eq] | fail_if_no_progress ((with_reducible apply frame_slu (hm := sub_trans rfl hm)))

theorem execSluiceEntryFree_frame (entry : Fin 32768) (h : Frame m a s) (hm : sub [.catchment, .log, .cnt, .jx, .slu] m = true) : FrameR m a (execSluiceEntryFree entry s) := by
  unfold execSluiceEntryFree
  repeat' first
    | with_reducible assumption | intro _ | exact sub_trans rfl hm | with_reducible apply postedRec_frame | with_reducible apply setEntryRec_frame
    | with_reducible apply frame_foldl | with_reducible apply frame_ite | split | with_reducible apply FrameR.mk' | with_reducible apply FrameR.fault
    | dsimp only [id_eq]

theorem limited_frame (key : ℕ) (ns : ℕ) (h : Frame m a s) (hm : sub [.log] m = true) : FrameP m a (limited key ns s) := by
  unfold limited
  repeat' first
    | with_reducible assumption | intro _ | with_reducible apply frameP_ite | with_reducible apply FrameP.mk' | dsimp only [id_eq]
    | fail_if_no_progress ((with_reducible apply frame_log (hm := sub_trans rfl hm)))

theorem deliverCmd_frame (tenant : ℕ) (imm : ℕ) (m_ : EnMsg) (h : Frame m a s) (hm : sub [.catchment, .log, .cnt, .jx, .slu] m = true) : Frame m a (deliverCmd tenant imm m_ s) := by
  unfold deliverCmd
  repeat' first
    | with_reducible assumption | intro _ | exact sub_trans rfl hm | with_reducible apply count_frame | with_reducible apply sluRecord_frame
    | with_reducible apply frame_ite | dsimp only [id_eq] | fail_if_no_progress ((with_reducible apply frame_slu (hm := sub_trans rfl hm)))

theorem deliverEnable_frame (tenant : ℕ) (imm : ℕ) (yellow : Bool) (m_ : EnMsg) (h : Frame m a s) (hm : sub [.catchment, .log, .cnt, .jx, .slu] m = true) : Frame m a (deliverEnable tenant imm yellow m_ s) := by
  unfold deliverEnable
  repeat' first
    | with_reducible assumption | intro _ | exact sub_trans rfl hm | with_reducible apply limited_frame | with_reducible apply count_frame
    | with_reducible apply raise_frame | with_reducible apply postedRec_frame | with_reducible apply refuseN_frame
    | with_reducible apply acceptEnable_frame | ((with_reducible apply Frame.out); with_reducible assumption) | with_reducible apply frame_ite
    | with_reducible apply frameP_ite | split | ((with_reducible apply FrameP.snd); with_reducible apply limited_frame)
    | with_reducible apply FrameP.mk' | dsimp only [id_eq]

theorem deliverImm_frame (tenant : ℕ) (imm : ℕ) (yellow : Bool) (m_ : EnMsg) (h : Frame m a s) (hm : sub [.catchment, .log, .cnt, .jx, .slu] m = true) : Frame m a (deliverImm tenant imm yellow m_ s) := by
  unfold deliverImm
  repeat' first
    | with_reducible assumption | intro _ | with_reducible apply deliverCmd_frame | with_reducible apply deliverEnable_frame
    | with_reducible apply frame_ite

theorem finishStep_frame (x : ℕ) (parity : ℕ) (p : Bytes) (h : Frame m a s) (hm : sub [.catchment, .log, .cnt, .jx, .slu] m = true) : Frame m a (finishStep x parity p s) := by
  unfold finishStep
  repeat' first
    | with_reducible assumption | intro _ | exact sub_trans rfl hm | with_reducible apply sendMsg_frame | with_reducible apply closeStep_frame
    | ((with_reducible apply Frame.out); with_reducible assumption) | with_reducible apply frame_ite | split | dsimp only [id_eq]

theorem fileContrib_frame (x : ℕ) (p : Bytes) (b_ : Bytes) (m_ : EnMsg) (arg : ℕ) (lc : Bool) (h : Frame m a s) (hm : sub [.catchment, .log, .cnt, .jx, .slu] m = true) : Frame m a (fileContrib x p b_ m_ arg lc s) := by
  unfold fileContrib
  repeat' first
    | with_reducible assumption | intro _ | exact sub_trans rfl hm | with_reducible apply setEntryRec_frame | with_reducible apply finishStep_frame
    | with_reducible apply frame_ite | split | dsimp only [id_eq]

theorem execCombine_frame (inst : ℕ) (h : Frame m a s) (hm : sub [.cfg, .catchment, .log, .cnt, .dir, .chan, .jx, .slu, .datum] m = true) : FrameR m a (execCombine inst s) := by
  unfold execCombine
  repeat' first
    | with_reducible assumption | intro _ | exact sub_trans rfl hm | with_reducible apply actEnd_frame | with_reducible apply fileContrib_frame
    | with_reducible apply doneReading_frame | with_reducible apply frame_ite | split | with_reducible apply FrameR.mk'
    | with_reducible apply FrameR.fault | dsimp only [id_eq]

theorem execCombineTimeout_frame (entry : Fin 32768) (parity : Fin 2) (h : Frame m a s) (hm : sub [.catchment, .log, .cnt, .jx, .slu] m = true) : FrameR m a (execCombineTimeout entry parity s) := by
  unfold execCombineTimeout
  repeat' first
    | with_reducible assumption | intro _ | exact sub_trans rfl hm | with_reducible apply closeStep_frame | with_reducible apply setEntryRec_frame
    | with_reducible apply frame_ite | split | with_reducible apply FrameR.mk' | with_reducible apply FrameR.fault | dsimp only [id_eq]

/-! ## Machine/Ack.lean -/

theorem flushAck_frame (ep : ℕ) (h : Frame m a s) (hm : sub [.catchment, .log, .jx] m = true) : Frame m a (flushAck ep s) := by
  unfold flushAck
  repeat' first
    | with_reducible assumption | with_reducible apply sendBack_frame | split | dsimp only [id_eq]
    | fail_if_no_progress ((with_reducible apply frame_jx (hm := sub_trans rfl hm)))

theorem ackPacket_frame (f : RxFrame) (done : Bool) (h : Frame m a s) (hm : sub [.catchment, .log, .jx] m = true) : Frame m a (ackPacket f done s) := by
  unfold ackPacket
  repeat' first
    | with_reducible assumption | intro _ | with_reducible apply flushAck_frame | with_reducible apply frame_ite | dsimp only [id_eq]
    | fail_if_no_progress ((with_reducible apply frame_jx (hm := sub_trans rfl hm)))

theorem execAckCoalesceExpire_frame (endpoint : BitVec 24) (h : Frame m a s) (hm : sub [.catchment, .log, .jx] m = true) : FrameR m a (execAckCoalesceExpire endpoint s) := by
  unfold execAckCoalesceExpire
  repeat' first
    | with_reducible assumption | with_reducible apply flushAck_frame | split | with_reducible apply FrameR.mk'

theorem sendNak_frame (f : RxFrame) (status : ℕ) (info : ℕ) (h : Frame m a s) (hm : sub [.catchment, .log, .cnt, .jx] m = true) : Frame m a (sendNak f status info s) := by
  unfold sendNak
  repeat' first
    | with_reducible assumption | intro _ | exact sub_trans rfl hm | with_reducible apply sendBack_frame | with_reducible apply limited_frame
    | with_reducible apply count_frame | ((with_reducible apply Frame.out); with_reducible assumption) | with_reducible apply frame_ite | split

theorem freeInfo_frame  (h : Frame m a s) (hm : sub [.free] m = true) : FrameP m a (freeInfo s) := by
  unfold freeInfo
  repeat' first
    | with_reducible assumption | with_reducible apply takeFree_frame | ((with_reducible apply Frame.out); with_reducible assumption) | split
    | with_reducible apply FrameP.mk'

theorem sendNakFree_frame (f : RxFrame) (status : ℕ) (h : Frame m a s) (hm : sub [.catchment, .log, .cnt, .jx, .free] m = true) : Frame m a (sendNakFree f status s) := by
  unfold sendNakFree
  repeat' first
    | with_reducible assumption | exact sub_trans rfl hm | with_reducible apply sendNak_frame
    | ((with_reducible apply FrameP.snd); with_reducible apply freeInfo_frame)

/-! ## Machine/Receive.lean -/

theorem meterPkt_frame (f : RxFrame) (die : ℕ) (h : Frame m a s) (hm : sub [.cnt, .traffic] m = true) : FrameP m a (meterPkt f die s) := by
  unfold meterPkt
  repeat' first
    | with_reducible assumption | intro _ | exact sub_trans rfl hm | with_reducible apply acct_frame | with_reducible apply frameP_ite | split
    | with_reducible apply FrameP.mk' | dsimp only [id_eq] | fail_if_no_progress ((with_reducible apply frame_traffic (hm := sub_trans rfl hm)))

theorem violate_frame (f : RxFrame) (die : ℕ) (check : ℕ) (info : ℕ) (status : optParam (Option ℕ) none) (h : Frame m a s) (hm : sub [.catchment, .log] m = true) : Frame m a (violate f die check info s status) := by
  unfold violate
  repeat' first
    | with_reducible assumption | intro _ | exact sub_trans rfl hm | with_reducible apply limited_frame | with_reducible apply raise_frame
    | ((with_reducible apply Frame.out); with_reducible assumption) | split | ((with_reducible apply FrameP.snd); with_reducible apply limited_frame)
    | with_reducible apply FrameP.mk' | dsimp only [id_eq]

theorem setFilt_frame (p0 : JxHdr) (e : Filt) (h : Frame m a s) (hm : sub [.jx] m = true) : Frame m a (setFilt p0 e s) := by
  unfold setFilt
  repeat' first
    | with_reducible assumption | dsimp only [id_eq] | fail_if_no_progress ((with_reducible apply frame_jx (hm := sub_trans rfl hm)))

theorem setTrack_frame (p0 : JxHdr) (t : Tracker) (h : Frame m a s) (hm : sub [.jx] m = true) : Frame m a (setTrack p0 t s) := by
  unfold setTrack
  repeat' first
    | with_reducible assumption | dsimp only [id_eq] | fail_if_no_progress ((with_reducible apply frame_jx (hm := sub_trans rfl hm)))

theorem dropTrack_frame (p0 : JxHdr) (h : Frame m a s) (hm : sub [.jx] m = true) : Frame m a (dropTrack p0 s) := by
  unfold dropTrack
  repeat' first
    | with_reducible assumption | dsimp only [id_eq] | fail_if_no_progress ((with_reducible apply frame_jx (hm := sub_trans rfl hm)))

theorem refusePkt_frame (f : RxFrame) (status : ℕ) (info : ℕ) (h : Frame m a s) (hm : sub [.catchment, .log, .cnt, .jx] m = true) : Frame m a (refusePkt f status info s) := by
  unfold refusePkt
  repeat' first
    | with_reducible assumption | intro _ | exact sub_trans rfl hm | with_reducible apply setFilt_frame | with_reducible apply sendNak_frame
    | with_reducible apply frame_ite | split

theorem failMsg_frame (f : RxFrame) (status : ℕ) (h : Frame m a s) (hm : sub [.catchment, .log, .cnt, .jx, .free] m = true) : Frame m a (failMsg f status s) := by
  unfold failMsg
  repeat' first
    | with_reducible assumption | intro _ | exact sub_trans rfl hm | with_reducible apply sendNakFree_frame | with_reducible apply sendNak_frame
    | with_reducible apply dropTrack_frame | with_reducible apply frame_ite | split | dsimp only [id_eq]
    | fail_if_no_progress ((with_reducible apply frame_jx (hm := sub_trans rfl hm)))

theorem answerDup_frame (f : RxFrame) (die : ℕ) (h : Frame m a s) (hm : sub [.catchment, .log, .cnt, .jx] m = true) : FrameO m a (answerDup f die s) := by
  unfold answerDup
  repeat' first
    | with_reducible assumption | intro _ | exact sub_trans rfl hm | with_reducible apply count_frame | with_reducible apply sendNak_frame
    | with_reducible apply sendOnce_frame | with_reducible apply ackPacket_frame | with_reducible apply frameO_ite | split
    | with_reducible apply FrameO.mk' | with_reducible apply FrameO.none_

theorem takeEntries_frame (f : RxFrame) (die : ℕ) (h : Frame m a s) (hm : sub [.catchment, .log, .cnt, .jx, .free] m = true) : FrameP m a (takeEntries f die s) := by
  unfold takeEntries
  repeat' first
    | with_reducible assumption | intro _ | exact sub_trans rfl hm | with_reducible apply sendNakFree_frame | with_reducible apply count_frame
    | with_reducible apply setFilt_frame | with_reducible apply setTrack_frame | with_reducible apply frameP_ite | split
    | with_reducible apply FrameP.mk'

theorem checkMessage_frame (f : RxFrame) (die : ℕ) (payload : Bytes) (yellow : Bool) (h : Frame m a s) (hm : sub [.catchment, .log, .cnt, .jx, .free] m = true) : FrameP m a (checkMessage f die payload yellow s) := by
  unfold checkMessage
  repeat' first
    | with_reducible assumption | intro _ | exact sub_trans rfl hm | with_reducible apply answerDup_frame | with_reducible apply refusePkt_frame
    | with_reducible apply violate_frame | with_reducible apply count_frame | with_reducible apply sendNak_frame
    | with_reducible apply takeEntries_frame | ((with_reducible apply Frame.out); with_reducible assumption)
    | ((with_reducible apply Frame.outO); with_reducible assumption) | with_reducible apply frame_ite | with_reducible apply frameP_ite
    | with_reducible apply frameO_ite | split | ((with_reducible apply FrameP.snd); with_reducible apply takeEntries_frame)
    | with_reducible apply FrameP.mk' | with_reducible apply FrameO.mk' | with_reducible apply FrameO.none_ | dsimp only [id_eq]

theorem checkTenant_frame (f : RxFrame) (die : ℕ) (h : Frame m a s) (hm : sub [.catchment, .log, .cnt, .jx, .traffic, .free] m = true) : FrameP m a (checkTenant f die s) := by
  unfold checkTenant
  repeat' first
    | with_reducible assumption | intro _ | exact sub_trans rfl hm | with_reducible apply sendNakFree_frame | with_reducible apply takeFree_frame
    | with_reducible apply sendNak_frame | with_reducible apply countTenant_frame | with_reducible apply raise_frame
    | with_reducible apply violate_frame | with_reducible apply count_frame | with_reducible apply checkMessage_frame
    | with_reducible apply meterPkt_frame | ((with_reducible apply Frame.out); with_reducible assumption) | with_reducible apply frame_ite
    | with_reducible apply frameP_ite | split | ((with_reducible apply FrameP.snd); with_reducible apply takeFree_frame)
    | ((with_reducible apply FrameP.snd); with_reducible apply checkMessage_frame)
    | ((with_reducible apply FrameP.snd); with_reducible apply meterPkt_frame) | with_reducible apply FrameP.mk' | dsimp only [id_eq]

theorem checkPkt_frame (f : RxFrame) (h : Frame m a s) (hm : sub [.catchment, .log, .cnt, .jx, .traffic, .free] m = true) : FrameP m a (checkPkt f s) := by
  unfold checkPkt
  repeat' first
    | with_reducible assumption | intro _ | exact sub_trans rfl hm | with_reducible apply count_frame | with_reducible apply sendNak_frame
    | with_reducible apply violate_frame | with_reducible apply checkTenant_frame | ((with_reducible apply Frame.out); with_reducible assumption)
    | with_reducible apply frame_ite | with_reducible apply frameP_ite | split
    | ((with_reducible apply FrameP.snd); with_reducible apply checkTenant_frame) | with_reducible apply FrameP.mk' | dsimp only [id_eq]

theorem receive_frame (f : RxFrame) (h : Frame m a s) (hm : sub [.catchment, .log, .cnt, .jx, .traffic, .free] m = true) : FrameP m a (receive f s) := by
  unfold receive
  repeat' first
    | with_reducible assumption | intro _ | exact sub_trans rfl hm | with_reducible apply count_frame | with_reducible apply countN_frame
    | with_reducible apply checkPkt_frame | ((with_reducible apply Frame.out); with_reducible assumption) | with_reducible apply frame_ite
    | with_reducible apply frameP_ite | split | ((with_reducible apply FrameP.snd); with_reducible apply checkPkt_frame)
    | with_reducible apply FrameP.mk' | dsimp only [id_eq]

theorem filtComplete_frame (p0 : JxHdr) (h : Frame m a s) (hm : sub [.jx] m = true) : Frame m a (filtComplete p0 s) := by
  unfold filtComplete
  repeat' first
    | with_reducible assumption | with_reducible apply setFilt_frame | split

theorem takeControl_frame (f : RxFrame) (ops : List ℕ) (h : Frame m a s) (hm : sub [.catchment, .log, .cnt, .jx, .traffic, .free] m = true) : FrameP m a (takeControl f ops s) := by
  unfold takeControl
  repeat' first
    | with_reducible assumption | intro _ | exact sub_trans rfl hm | with_reducible apply receive_frame | with_reducible apply filtComplete_frame
    | ((with_reducible apply Frame.out); with_reducible assumption) | with_reducible apply frameP_ite | split | with_reducible apply FrameP.mk'

theorem respond_frame (f : RxFrame) (die : ℕ) (epoch : ℕ) (data : Bytes) (h : Frame m a s) (hm : sub [.catchment, .log, .jx] m = true) : Frame m a (respond f die epoch data s) := by
  unfold respond
  repeat' first
    | with_reducible assumption | intro _ | exact sub_trans rfl hm | with_reducible apply saveResp_frame | with_reducible apply sendOnce_frame
    | with_reducible apply frame_ite

/-! ## Machine/Ending.lean -/

theorem dropOut_frame (id : ℕ) (h : Frame m a s) (hm : sub [.jx] m = true) : Frame m a (dropOut id s) := by
  unfold dropOut
  repeat' first
    | with_reducible assumption | dsimp only [id_eq] | fail_if_no_progress ((with_reducible apply frame_jx (hm := sub_trans rfl hm)))

theorem resultLost_frame (x : ℕ) (id : ℕ) (m_ : OutMsg) (h : Frame m a s) (hm : sub [.catchment, .log] m = true) : Frame m a (resultLost x id m_ s) := by
  unfold resultLost
  repeat' first
    | with_reducible assumption | with_reducible apply raise_frame

theorem ctlForwarded_frame (slot : ℕ) (id : ℕ) (fwd : FwdSt) (h : Frame m a s) (hm : sub [.catchment, .log, .cnt, .rgn, .mem, .sto, .dir, .tlb, .chan, .work, .req, .key, .jx, .datum, .free] m = true) : Frame m a (ctlForwarded slot id fwd s) := by
  unfold ctlForwarded
  repeat' first
    | with_reducible assumption | intro _ | exact sub_trans rfl hm | with_reducible apply admitNext_frame | with_reducible apply ctlAnswer_frame
    | with_reducible apply ctlGone_frame | with_reducible apply frame_ite | split | dsimp only [id_eq]
    | fail_if_no_progress ((with_reducible apply frame_work (hm := sub_trans rfl hm)))

theorem ctlRetry_frame (slot : ℕ) (id : ℕ) (h : Frame m a s) (hm : sub [.catchment, .log, .cnt, .rgn, .mem, .sto, .dir, .tlb, .chan, .work, .req, .key, .jx, .datum, .free] m = true) : Frame m a (ctlRetry slot id s) := by
  unfold ctlRetry
  repeat' first
    | with_reducible assumption | exact sub_trans rfl hm | with_reducible apply forwardCtl_frame | with_reducible apply ctlForwarded_frame | split

theorem forwardAgain_frame (inst : ℕ) (slot : ℕ) (m_ : OutMsg) (h : Frame m a s) (hm : sub [.cfg, .catchment, .log, .cnt, .dir, .chan, .jx, .slu, .datum] m = true) : Frame m a (forwardAgain inst slot m_ s) := by
  unfold forwardAgain
  repeat' first
    | with_reducible assumption | exact sub_trans rfl hm | with_reducible apply sendMsg_frame | with_reducible apply setInst_frame
    | with_reducible apply actDone_frame | ((with_reducible apply Frame.out); with_reducible assumption) | split | dsimp only [id_eq]

theorem fetchFails_frame (c : ℕ) (h : Frame m a s) (hm : sub [.datum] m = true) : Frame m a (fetchFails c s) := by
  unfold fetchFails
  repeat' first
    | with_reducible assumption | with_reducible apply setComp_frame

theorem loadOpenAgain_frame (id : ℕ) (h : Frame m a s) (hm : sub [.datum] m = true) : Frame m a (loadOpenAgain id s) := by
  unfold loadOpenAgain
  repeat' first
    | with_reducible assumption | split | dsimp only [id_eq] | fail_if_no_progress ((with_reducible apply frame_datum (hm := sub_trans rfl hm)))

theorem loadDoneAgain_frame (m_ : OutMsg) (id : ℕ) (h : Frame m a s) (hm : sub [.datum] m = true) : Frame m a (loadDoneAgain m_ id s) := by
  unfold loadDoneAgain
  repeat' first
    | with_reducible assumption | intro _ | exact sub_trans rfl hm | with_reducible apply frame_ite | split | dsimp only [id_eq]
    | fail_if_no_progress ((with_reducible apply frame_datum (hm := sub_trans rfl hm)))

theorem finishLoadOut_frame (key : ℕ) (h : Frame m a s) (hm : sub [.catchment, .log, .dir, .chan, .jx, .datum] m = true) : Frame m a (finishLoadOut key s) := by
  unfold finishLoadOut
  repeat' first
    | with_reducible assumption | intro _ | exact sub_trans rfl hm | with_reducible apply settleStopped_frame | with_reducible apply sendOnce_frame
    | with_reducible apply saveResp_frame | with_reducible apply endLoadOut_frame | with_reducible apply frame_ite | split

theorem msgAcked_frame (id : ℕ) (h : Frame m a s) (hm : sub [.catchment, .log, .dir, .chan, .jx, .datum] m = true) : Frame m a (msgAcked id s) := by
  unfold msgAcked
  repeat' first
    | with_reducible assumption | exact sub_trans rfl hm | with_reducible apply dropOut_frame | with_reducible apply finishLoadOut_frame | split

theorem msgRefused_frame (id : ℕ) (status : ℕ) (h : Frame m a s) (hm : sub [.cfg, .catchment, .log, .cnt, .rgn, .mem, .sto, .dir, .tlb, .chan, .work, .req, .key, .jx, .slu, .datum, .free] m = true) : Frame m a (msgRefused id status s) := by
  unfold msgRefused
  repeat' first
    | with_reducible assumption | exact sub_trans rfl hm | with_reducible apply dropOut_frame | with_reducible apply complLost_frame
    | with_reducible apply resultLost_frame | with_reducible apply actDone_frame | with_reducible apply ctlForwarded_frame
    | with_reducible apply fetchFails_frame | with_reducible apply loadOpenAgain_frame | with_reducible apply endLoadOut_frame
    | with_reducible apply loadDoneAgain_frame | split

theorem msgAbandoned_frame (id : ℕ) (h : Frame m a s) (hm : sub [.cfg, .catchment, .log, .cnt, .rgn, .mem, .sto, .dir, .tlb, .chan, .work, .req, .key, .jx, .slu, .datum, .free] m = true) : Frame m a (msgAbandoned id s) := by
  unfold msgAbandoned
  repeat' first
    | with_reducible assumption | exact sub_trans rfl hm | with_reducible apply dropOut_frame | with_reducible apply complLost_frame
    | with_reducible apply resultLost_frame | with_reducible apply forwardAgain_frame | with_reducible apply ctlRetry_frame
    | with_reducible apply fetchFails_frame | with_reducible apply loadOpenAgain_frame | with_reducible apply endLoadOut_frame
    | with_reducible apply loadDoneAgain_frame | split

/-! ## Machine/Sending.lean -/

theorem setOut_frame (id : ℕ) (m_ : OutMsg) (h : Frame m a s) (hm : sub [.jx] m = true) : Frame m a (setOut id m_ s) := by
  unfold setOut
  repeat' first
    | with_reducible assumption | dsimp only [id_eq] | fail_if_no_progress ((with_reducible apply frame_jx (hm := sub_trans rfl hm)))

theorem halveCong_frame (ep : ℕ) (h : Frame m a s) (hm : sub [.jx] m = true) : Frame m a (halveCong ep s) := by
  unfold halveCong
  repeat' first
    | with_reducible assumption | intro _ | with_reducible apply frame_ite | dsimp only [id_eq]
    | fail_if_no_progress ((with_reducible apply frame_jx (hm := sub_trans rfl hm)))

theorem execCongWindowGrow_frame (endpoint : BitVec 24) (h : Frame m a s) (hm : sub [.jx] m = true) : FrameR m a (execCongWindowGrow endpoint s) := by
  unfold execCongWindowGrow
  repeat' first
    | with_reducible assumption | intro _ | with_reducible apply frame_ite | split | with_reducible apply FrameR.mk' | dsimp only [id_eq]
    | fail_if_no_progress ((with_reducible apply frame_jx (hm := sub_trans rfl hm)))

theorem setPath_frame (p : ℕ) (x : PathSt) (h : Frame m a s) (hm : sub [.jx] m = true) : Frame m a (setPath p x s) := by
  unfold setPath
  repeat' first
    | with_reducible assumption | dsimp only [id_eq] | fail_if_no_progress ((with_reducible apply frame_jx (hm := sub_trans rfl hm)))

theorem pathMiss_frame (die : ℕ) (p : ℕ) (h : Frame m a s) (hm : sub [.cnt, .jx] m = true) : Frame m a (pathMiss die p s) := by
  unfold pathMiss
  repeat' first
    | with_reducible assumption | intro _ | exact sub_trans rfl hm | with_reducible apply count_frame | with_reducible apply setPath_frame
    | with_reducible apply frame_ite

theorem pathGood_frame (p : ℕ) (h : Frame m a s) (hm : sub [.jx] m = true) : Frame m a (pathGood p s) := by
  unfold pathGood
  repeat' first
    | with_reducible assumption | with_reducible apply setPath_frame

theorem execPathCoolExpire_frame (path : Fin 64) (h : Frame m a s) (hm : sub [.jx] m = true) : FrameR m a (execPathCoolExpire path s) := by
  unfold execPathCoolExpire
  repeat' first
    | with_reducible assumption | with_reducible apply setPath_frame | split | with_reducible apply FrameR.mk'

theorem packetDone_frame (id : ℕ) (idx : ℕ) (h : Frame m a s) (hm : sub [.jx] m = true) : Frame m a (packetDone id idx s) := by
  unfold packetDone
  repeat' first
    | with_reducible assumption | with_reducible apply pathGood_frame | with_reducible apply setOut_frame | split

theorem ackOne_frame (src : ℕ) (v : ℕ) (h : Frame m a s) (hm : sub [.catchment, .log, .cnt, .dir, .chan, .jx, .datum] m = true) : Frame m a (ackOne src v s) := by
  unfold ackOne
  repeat' first
    | with_reducible assumption | intro _ | exact sub_trans rfl hm | with_reducible apply count_frame | with_reducible apply packetDone_frame
    | with_reducible apply msgAcked_frame | with_reducible apply frame_foldl | with_reducible apply frame_ite | split | dsimp only [id_eq]

theorem controlBad_frame (f : RxFrame) (die : ℕ) (h : Frame m a s) (hm : sub [.catchment, .log, .cnt] m = true) : Frame m a (controlBad f die s) := by
  unfold controlBad
  repeat' first
    | with_reducible assumption | intro _ | exact sub_trans rfl hm | with_reducible apply violate_frame | with_reducible apply count_frame
    | dsimp only [id_eq]

theorem execJxAckReceive_frame (f : RxFrame) (h : Frame m a s) (hm : sub [.catchment, .log, .cnt, .dir, .chan, .jx, .traffic, .datum, .free] m = true) : FrameR m a (execJxAckReceive f s) := by
  unfold execJxAckReceive
  repeat' first
    | with_reducible assumption | intro _ | exact sub_trans rfl hm | with_reducible apply takeControl_frame | with_reducible apply controlBad_frame
    | with_reducible apply halveCong_frame | with_reducible apply ackOne_frame | ((with_reducible apply Frame.out); with_reducible assumption)
    | with_reducible apply frame_foldl | with_reducible apply frameP_foldl | with_reducible apply frame_ite | with_reducible apply frameP_ite | split
    | ((with_reducible apply FrameP.snd); with_reducible apply takeControl_frame) | with_reducible apply FrameR.mk'
    | with_reducible apply FrameR.fault | with_reducible apply FrameP.mk' | dsimp only [id_eq]

theorem backOff_frame (id : ℕ) (idxs : List ℕ) (info : ℕ) (h : Frame m a s) (hm : sub [.jx] m = true) : Frame m a (backOff id idxs info s) := by
  unfold backOff
  repeat' first
    | with_reducible assumption | with_reducible apply setOut_frame | split

theorem nakOne_frame (id : ℕ) (m_ : OutMsg) (status : ℕ) (pkt : ℕ) (info : ℕ) (f : RxFrame) (h : Frame m a s) (hm : sub [.cfg, .catchment, .log, .cnt, .rgn, .mem, .sto, .dir, .tlb, .chan, .work, .req, .key, .jx, .slu, .datum, .free] m = true) : Frame m a (nakOne id m_ status pkt info f s) := by
  unfold nakOne
  repeat' first
    | with_reducible assumption | intro _ | exact sub_trans rfl hm | with_reducible apply backOff_frame | with_reducible apply halveCong_frame
    | with_reducible apply setOut_frame | with_reducible apply logEvent_frame | with_reducible apply msgRefused_frame | with_reducible apply frame_ite

theorem execJxNakReceive_frame (f : RxFrame) (h : Frame m a s) (hm : sub [.cfg, .catchment, .log, .cnt, .rgn, .mem, .sto, .dir, .tlb, .chan, .work, .req, .key, .jx, .slu, .traffic, .datum, .free] m = true) : FrameR m a (execJxNakReceive f s) := by
  unfold execJxNakReceive
  repeat' first
    | with_reducible assumption | intro _ | exact sub_trans rfl hm | with_reducible apply takeControl_frame | with_reducible apply count_frame
    | with_reducible apply controlBad_frame | with_reducible apply nakOne_frame | ((with_reducible apply Frame.out); with_reducible assumption)
    | with_reducible apply frame_ite | with_reducible apply frameP_ite | split
    | ((with_reducible apply FrameP.snd); with_reducible apply takeControl_frame) | with_reducible apply FrameR.mk'
    | with_reducible apply FrameR.fault | with_reducible apply FrameP.mk' | dsimp only [id_eq]

theorem sendAgain_frame (id : ℕ) (idx : ℕ) (h : Frame m a s) (hm : sub [.cnt, .jx] m = true) : Frame m a (sendAgain id idx s) := by
  unfold sendAgain
  repeat' first
    | with_reducible assumption | intro _ | exact sub_trans rfl hm | with_reducible apply count_frame | with_reducible apply transmit_frame
    | with_reducible apply frame_ite | split

theorem execJxRetransmitTimer_frame (msgId : BitVec 32) (pkt : ℕ) (h : Frame m a s) (hm : sub [.cnt, .jx] m = true) : FrameR m a (execJxRetransmitTimer msgId pkt s) := by
  unfold execJxRetransmitTimer
  repeat' first
    | with_reducible assumption | intro _ | exact sub_trans rfl hm | with_reducible apply sendAgain_frame | with_reducible apply halveCong_frame
    | with_reducible apply pathMiss_frame | with_reducible apply frame_ite | split | with_reducible apply FrameR.mk' | dsimp only [id_eq]

theorem execJxMsgExpire_frame (msgId : BitVec 32) (h : Frame m a s) (hm : sub [.cfg, .catchment, .log, .cnt, .rgn, .mem, .sto, .dir, .tlb, .chan, .work, .req, .key, .jx, .slu, .datum, .free] m = true) : FrameR m a (execJxMsgExpire msgId s) := by
  unfold execJxMsgExpire
  repeat' first
    | with_reducible assumption | intro _ | exact sub_trans rfl hm | with_reducible apply msgAbandoned_frame | with_reducible apply count_frame
    | with_reducible apply frame_ite | split | with_reducible apply FrameR.mk' | dsimp only [id_eq]

theorem execJxNakBackoffExpire_frame (msgId : BitVec 32) (h : Frame m a s) (hm : sub [.cnt, .jx] m = true) : FrameR m a (execJxNakBackoffExpire msgId s) := by
  unfold execJxNakBackoffExpire
  repeat' first
    | with_reducible assumption | intro _ | exact sub_trans rfl hm | with_reducible apply sendAgain_frame | with_reducible apply setOut_frame
    | with_reducible apply frame_foldl | with_reducible apply frame_ite | split | with_reducible apply FrameR.mk' | dsimp only [id_eq]

theorem resumeMsg_frame (id : ℕ) (h : Frame m a s) (hm : sub [.cfg, .catchment, .log, .cnt, .rgn, .mem, .sto, .dir, .tlb, .chan, .work, .req, .key, .jx, .slu, .datum, .free] m = true) : Frame m a (resumeMsg id s) := by
  unfold resumeMsg
  repeat' first
    | with_reducible assumption | intro _ | exact sub_trans rfl hm | with_reducible apply msgRefused_frame | with_reducible apply keyRefused_frame
    | with_reducible apply startMsg_frame | with_reducible apply frame_ite | split | dsimp only [id_eq]

theorem execJxSendResume_frame (die : Fin 4) (h : Frame m a s) (hm : sub [.cfg, .catchment, .log, .cnt, .rgn, .mem, .sto, .dir, .tlb, .chan, .work, .req, .key, .jx, .slu, .datum, .free] m = true) : FrameR m a (execJxSendResume die s) := by
  unfold execJxSendResume
  repeat' first
    | with_reducible assumption | intro _ | exact sub_trans rfl hm | with_reducible apply resumeMsg_frame | with_reducible apply frame_foldl
    | with_reducible apply frame_ite | split | with_reducible apply FrameR.mk' | with_reducible apply FrameR.fault | dsimp only [id_eq]

theorem execTrackerExpire_frame (src : BitVec 24) (msgId : BitVec 32) (h : Frame m a s) (hm : sub [.cnt, .jx] m = true) : FrameR m a (execTrackerExpire src msgId s) := by
  unfold execTrackerExpire
  repeat' first
    | with_reducible assumption | intro _ | exact sub_trans rfl hm | with_reducible apply count_frame | with_reducible apply frame_ite | split
    | with_reducible apply FrameR.mk' | dsimp only [id_eq] | fail_if_no_progress ((with_reducible apply frame_jx (hm := sub_trans rfl hm)))

theorem execFilterExpire_frame (src : BitVec 24) (msgId : BitVec 32) (h : Frame m a s) (hm : sub [.jx] m = true) : FrameR m a (execFilterExpire src msgId s) := by
  unfold execFilterExpire
  repeat' first
    | with_reducible assumption | intro _ | with_reducible apply frame_ite | split | with_reducible apply FrameR.mk' | dsimp only [id_eq]
    | fail_if_no_progress ((with_reducible apply frame_jx (hm := sub_trans rfl hm)))

end Sys2Proof.Laws
end

