-- ==== Sys2Proof/Laws/FrameDatum.lean ====
section
/-! SUPPORT. Frames of compositions, loads, arrivals and chains: one lemma per definition, found by walking its own text. -/

namespace Sys2Proof.Laws

open Sys2Proof.Machine

variable {m : List Part} {a s : State}

set_option linter.all false

/-! ## Machine/Datum.lean -/

theorem refuseDatum_frame (c : ℕ) (op : ℕ) (m_ : Option EnMsg) (h : Frame m a s) (hm : sub [.catchment, .log, .cnt] m = true) : Frame m a (refuseDatum c op m_ s) := by
  unfold refuseDatum
  repeat' first
    | with_reducible assumption | intro _ | exact sub_trans rfl hm | with_reducible apply stateRefused_frame | with_reducible apply frameO_map
    | with_reducible apply frameOP_map | with_reducible apply frameOQ_map | with_reducible apply frameO_bind | with_reducible apply frameOP_bind
    | dsimp only [id_eq]

theorem answerDatum_frame (f : RxFrame) (die : ℕ) (c : ℕ) (status : ℕ) (rep : Bool) (acc : ℕ) (more : Bytes) (h : Frame m a s) (hm : sub [.catchment, .log, .cnt, .jx] m = true) : Frame m a (answerDatum f die c status rep acc more s) := by
  unfold answerDatum
  repeat' first
    | with_reducible assumption | intro _ | exact sub_trans rfl hm | with_reducible apply refuseDatum_frame | with_reducible apply respond_frame
    | with_reducible apply frame_ite | split | dsimp only [id_eq]

theorem fetchFrom_frame (f : RxFrame) (c : ℕ) (h : Frame m a s) (hm : sub [.catchment, .log, .jx, .datum] m = true) : Frame m a (fetchFrom f c s) := by
  unfold fetchFrom
  repeat' first
    | with_reducible assumption | with_reducible apply startFetch_frame

theorem agreeMeets_frame (f : RxFrame) (b_ : Bytes) (vote : Bool) (h : Frame m a s) (hm : sub [.catchment, .log, .jx, .datum] m = true) : FrameP m a (agreeMeets f b_ vote s) := by
  unfold agreeMeets
  repeat' first
    | with_reducible assumption | intro _ | with_reducible apply fetchFrom_frame | with_reducible apply frameP_ite | split
    | with_reducible apply FrameP.mk'

theorem execDatumPrepare_frame (f : RxFrame) (h : Frame m a s) (hm : sub [.catchment, .log, .cnt, .jx, .traffic, .datum, .free] m = true) : FrameR m a (execDatumPrepare f s) := by
  unfold execDatumPrepare
  repeat' first
    | with_reducible assumption | intro _ | exact sub_trans rfl hm | with_reducible apply takeControl_frame | with_reducible apply agreeMeets_frame
    | with_reducible apply answerDatum_frame | with_reducible apply voterPrepare_frame | ((with_reducible apply Frame.out); with_reducible assumption)
    | split | ((with_reducible apply FrameP.snd); with_reducible apply agreeMeets_frame)
    | ((with_reducible apply FrameP.snd); with_reducible apply takeControl_frame)
    | ((with_reducible apply FrameP.snd); with_reducible apply voterPrepare_frame) | with_reducible apply FrameR.mk'
    | with_reducible apply FrameR.fault | with_reducible apply FrameP.mk' | dsimp only [id_eq]

theorem execDatumAccept_frame (f : RxFrame) (h : Frame m a s) (hm : sub [.catchment, .log, .cnt, .jx, .traffic, .datum, .free] m = true) : FrameR m a (execDatumAccept f s) := by
  unfold execDatumAccept
  repeat' first
    | with_reducible assumption | intro _ | exact sub_trans rfl hm | with_reducible apply takeControl_frame | with_reducible apply agreeMeets_frame
    | with_reducible apply answerDatum_frame | with_reducible apply voterAccept_frame | ((with_reducible apply Frame.out); with_reducible assumption)
    | with_reducible apply frame_ite | with_reducible apply frameP_ite | split
    | ((with_reducible apply FrameP.snd); with_reducible apply voterAccept_frame)
    | ((with_reducible apply FrameP.snd); with_reducible apply agreeMeets_frame)
    | ((with_reducible apply FrameP.snd); with_reducible apply takeControl_frame) | with_reducible apply FrameR.mk'
    | with_reducible apply FrameR.fault | with_reducible apply FrameP.mk' | dsimp only [id_eq]

theorem fetchNamed_frame (f : RxFrame) (c : ℕ) (change : Bytes) (h : Frame m a s) (hm : sub [.catchment, .log, .jx, .datum] m = true) : Frame m a (fetchNamed f c change s) := by
  unfold fetchNamed
  repeat' first
    | with_reducible assumption | intro _ | exact sub_trans rfl hm | with_reducible apply fetchFrom_frame | with_reducible apply setComp_frame
    | with_reducible apply frameO_map | with_reducible apply frameOP_map | with_reducible apply frameOQ_map | dsimp only [id_eq]

theorem commitAbsent_frame (f : RxFrame) (c : ℕ) (base : ℕ) (change : Bytes) (h : Frame m a s) (hm : sub [.cfg, .catchment, .log, .cnt, .node, .dir, .chan, .work, .jx, .slu, .datum] m = true) : FrameP m a (commitAbsent f c base change s) := by
  unfold commitAbsent
  repeat' first
    | with_reducible assumption | intro _ | exact sub_trans rfl hm | with_reducible apply applyChange_frame | with_reducible apply fetchNamed_frame
    | ((with_reducible apply Frame.out); with_reducible assumption) | with_reducible apply frame_ite | with_reducible apply frameP_ite | split
    | ((with_reducible apply FrameP.snd); with_reducible apply applyChange_frame) | with_reducible apply FrameP.mk' | dsimp only [id_eq]

theorem commitHeld_frame (f : RxFrame) (c : ℕ) (base : ℕ) (change : Bytes) (h : Frame m a s) (hm : sub [.cfg, .catchment, .log, .cnt, .node, .dir, .chan, .work, .jx, .slu, .datum] m = true) : FrameQ m a (commitHeld f c base change s) := by
  unfold commitHeld
  repeat' first
    | with_reducible assumption | intro _ | exact sub_trans rfl hm | with_reducible apply fetchFrom_frame | with_reducible apply applyChange_frame
    | with_reducible apply overtaken_frame | ((with_reducible apply Frame.out); with_reducible assumption) | with_reducible apply frameQ_ite | split
    | with_reducible apply FrameQ.mk'

theorem execDatumCommit_frame (f : RxFrame) (h : Frame m a s) (hm : sub [.cfg, .catchment, .log, .cnt, .node, .dir, .chan, .work, .jx, .slu, .traffic, .datum, .free] m = true) : FrameR m a (execDatumCommit f s) := by
  unfold execDatumCommit
  repeat' first
    | with_reducible assumption | intro _ | exact sub_trans rfl hm | with_reducible apply takeControl_frame | with_reducible apply answerDatum_frame
    | with_reducible apply commitAbsent_frame | with_reducible apply commitHeld_frame | ((with_reducible apply Frame.out); with_reducible assumption)
    | ((with_reducible apply Frame.outQ); with_reducible assumption) | with_reducible apply frame_ite | with_reducible apply frameP_ite
    | with_reducible apply frameQ_ite | split | ((with_reducible apply FrameP.snd); with_reducible apply commitAbsent_frame)
    | ((with_reducible apply FrameQ.snd); with_reducible apply commitHeld_frame)
    | ((with_reducible apply FrameP.snd); with_reducible apply takeControl_frame) | with_reducible apply FrameR.mk'
    | with_reducible apply FrameR.fault | with_reducible apply FrameP.mk' | with_reducible apply FrameQ.mk' | with_reducible apply FrameQ.mkP
    | dsimp only [id_eq]

theorem submitMsg_frame (f : RxFrame) (a_ : Admitted) (h : Frame m a s) (hm : sub [.catchment, .log, .cnt, .jx, .datum] m = true) : Frame m a (submitMsg f a_ s) := by
  unfold submitMsg
  repeat' first
    | with_reducible assumption | intro _ | exact sub_trans rfl hm | with_reducible apply answerDatum_frame | with_reducible apply fetchFrom_frame
    | with_reducible apply addProposal_frame | with_reducible apply frame_ite | split | dsimp only [id_eq]

theorem takeAnswer_frame (f : RxFrame) (ops : List ℕ) (h : Frame m a s) (hm : sub [.catchment, .log, .cnt, .jx, .traffic, .free] m = true) : FrameP m a (takeAnswer f ops s) := by
  unfold takeAnswer
  repeat' first
    | with_reducible assumption | exact sub_trans rfl hm | with_reducible apply takeControl_frame | with_reducible apply count_frame
    | with_reducible apply dropOut_frame | with_reducible apply packetDone_frame | ((with_reducible apply Frame.out); with_reducible assumption)
    | split | with_reducible apply FrameP.mk'

theorem noteEpoch_frame (f : RxFrame) (c : ℕ) (e : ℕ) (h : Frame m a s) (hm : sub [.catchment, .log, .jx, .datum] m = true) : Frame m a (noteEpoch f c e s) := by
  unfold noteEpoch
  repeat' first
    | with_reducible assumption | intro _ | with_reducible apply fetchFrom_frame | with_reducible apply frame_ite

theorem onPromise_frame (c : ℕ) (b_ : ℕ) (n : ℕ) (body : Bytes) (h : Frame m a s) (hm : sub [.cfg, .catchment, .log, .cnt, .node, .dir, .chan, .work, .jx, .slu, .datum] m = true) : Frame m a (onPromise c b_ n body s) := by
  unfold onPromise
  repeat' first
    | with_reducible assumption | intro _ | exact sub_trans rfl hm | with_reducible apply checkPromises_frame | with_reducible apply setHead_frame
    | with_reducible apply frame_ite | split

theorem onAccept_frame (c : ℕ) (b_ : ℕ) (n : ℕ) (body : Bytes) (h : Frame m a s) (hm : sub [.cfg, .catchment, .log, .cnt, .node, .dir, .chan, .work, .jx, .slu, .datum] m = true) : Frame m a (onAccept c b_ n body s) := by
  unfold onAccept
  repeat' first
    | with_reducible assumption | intro _ | exact sub_trans rfl hm | with_reducible apply checkAccepts_frame | with_reducible apply setHead_frame
    | with_reducible apply frame_ite | split

theorem execDatumResponse_frame (f : RxFrame) (h : Frame m a s) (hm : sub [.cfg, .catchment, .log, .cnt, .node, .dir, .chan, .work, .jx, .slu, .traffic, .datum, .free] m = true) : FrameR m a (execDatumResponse f s) := by
  unfold execDatumResponse
  repeat' first
    | with_reducible assumption | intro _ | exact sub_trans rfl hm | with_reducible apply takeAnswer_frame | with_reducible apply onPromise_frame
    | with_reducible apply noteEpoch_frame | with_reducible apply onAccept_frame | with_reducible apply storeFull_frame
    | ((with_reducible apply Frame.out); with_reducible assumption) | with_reducible apply frame_ite | split | with_reducible apply FrameR.mk'

theorem drainMarker_frame (c : ℕ) (m_ : DMap) (h : Frame m a s) (hm : sub [.node, .datum] m = true) : Frame m a (drainMarker c m_ s) := by
  unfold drainMarker
  repeat' first
    | with_reducible assumption | intro _ | exact sub_trans rfl hm | with_reducible apply addProposal_frame | with_reducible apply frame_foldl
    | with_reducible apply frame_ite | split | dsimp only [id_eq] | fail_if_no_progress ((with_reducible apply frame_node (hm := sub_trans rfl hm)))

theorem admitMarker_frame (c : ℕ) (m_ : DMap) (h : Frame m a s) (hm : sub [.datum] m = true) : Frame m a (admitMarker c m_ s) := by
  unfold admitMarker
  repeat' first
    | with_reducible assumption | intro _ | with_reducible apply addProposal_frame | with_reducible apply frame_foldl | dsimp only [id_eq]
    | fail_if_no_progress ((with_reducible apply frame_datum (hm := sub_trans rfl hm)))

theorem reloadMarker_frame (c : ℕ) (h : Frame m a s) (hm : sub [.catchment, .log, .jx, .datum] m = true) : Frame m a (reloadMarker c s) := by
  unfold reloadMarker
  repeat' first
    | with_reducible assumption | intro _ | exact sub_trans rfl hm | with_reducible apply sendLoadDone_frame | with_reducible apply frame_foldl
    | dsimp only [id_eq] | fail_if_no_progress ((with_reducible apply frame_datum (hm := sub_trans rfl hm)))

theorem markerAccepted_frame (c : ℕ) (step : ℕ) (closes : Bool) (h : Frame m a s) (hm : sub [.catchment, .log, .node, .dir, .chan, .jx, .datum] m = true) : Frame m a (markerAccepted c step closes s) := by
  unfold markerAccepted
  repeat' first
    | with_reducible assumption | exact sub_trans rfl hm | with_reducible apply setComp_frame | with_reducible apply closeWindow_frame
    | with_reducible apply drainMarker_frame | with_reducible apply admitMarker_frame | with_reducible apply reloadMarker_frame
    | with_reducible apply sweepMoved_frame | split | dsimp only [id_eq]

theorem execStepMarker_frame (f : RxFrame) (h : Frame m a s) (hm : sub [.catchment, .log, .cnt, .node, .dir, .chan, .jx, .traffic, .datum, .free] m = true) : FrameR m a (execStepMarker f s) := by
  unfold execStepMarker
  repeat' first
    | with_reducible assumption | intro _ | exact sub_trans rfl hm | with_reducible apply takeControl_frame | with_reducible apply answerDatum_frame
    | with_reducible apply fetchFrom_frame | with_reducible apply markerAccepted_frame | ((with_reducible apply Frame.out); with_reducible assumption)
    | with_reducible apply frame_ite | with_reducible apply frameP_ite | split
    | ((with_reducible apply FrameP.snd); with_reducible apply takeControl_frame) | with_reducible apply FrameR.mk'
    | with_reducible apply FrameR.fault | with_reducible apply FrameP.mk' | dsimp only [id_eq]

theorem execMapRead_frame (f : RxFrame) (h : Frame m a s) (hm : sub [.catchment, .log, .cnt, .jx, .traffic, .datum, .free] m = true) : FrameR m a (execMapRead f s) := by
  unfold execMapRead
  repeat' first
    | with_reducible assumption | intro _ | exact sub_trans rfl hm | with_reducible apply takeControl_frame | with_reducible apply respond_frame
    | with_reducible apply noteEpoch_frame | ((with_reducible apply Frame.out); with_reducible assumption) | with_reducible apply frame_ite
    | with_reducible apply frameP_ite | split | ((with_reducible apply FrameP.snd); with_reducible apply takeControl_frame)
    | with_reducible apply FrameR.mk' | with_reducible apply FrameR.fault | with_reducible apply FrameP.mk' | dsimp only [id_eq]

theorem restartProps_frame (c : ℕ) (h : Frame m a s) (hm : sub [.datum] m = true) : Frame m a (restartProps c s) := by
  unfold restartProps
  repeat' first
    | with_reducible assumption | with_reducible apply setHead_frame | split

theorem onMapPage_frame (c : ℕ) (b_ : Bytes) (h : Frame m a s) (hm : sub [.cfg, .catchment, .log, .cnt, .node, .dir, .chan, .work, .jx, .slu, .datum] m = true) : Frame m a (onMapPage c b_ s) := by
  unfold onMapPage
  repeat' first
    | with_reducible assumption | intro _ | exact sub_trans rfl hm | with_reducible apply askMap_frame | with_reducible apply setComp_frame
    | with_reducible apply fetchFails_frame | with_reducible apply restartProps_frame | with_reducible apply installFetched_frame
    | with_reducible apply frameO_bind | with_reducible apply frameOP_bind | with_reducible apply frame_ite | split | dsimp only [id_eq]

theorem execMapFetchResponse_frame (f : RxFrame) (h : Frame m a s) (hm : sub [.cfg, .catchment, .log, .cnt, .node, .dir, .chan, .work, .jx, .slu, .traffic, .datum, .free] m = true) : FrameR m a (execMapFetchResponse f s) := by
  unfold execMapFetchResponse
  repeat' first
    | with_reducible assumption | exact sub_trans rfl hm | with_reducible apply takeAnswer_frame | with_reducible apply onMapPage_frame
    | ((with_reducible apply Frame.out); with_reducible assumption) | split | with_reducible apply FrameR.mk'

theorem execMapNotice_frame (f : RxFrame) (h : Frame m a s) (hm : sub [.catchment, .log, .cnt, .jx, .traffic, .datum, .free] m = true) : FrameR m a (execMapNotice f s) := by
  unfold execMapNotice
  repeat' first
    | with_reducible assumption | intro _ | exact sub_trans rfl hm | with_reducible apply takeControl_frame | with_reducible apply fetchFrom_frame
    | ((with_reducible apply Frame.out); with_reducible assumption) | with_reducible apply frame_ite | split | with_reducible apply FrameR.mk'

theorem setProbe_frame (n : ℕ) (p : ProbeSt) (h : Frame m a s) (hm : sub [.datum] m = true) : Frame m a (setProbe n p s) := by
  unfold setProbe
  repeat' first
    | with_reducible assumption | dsimp only [id_eq] | fail_if_no_progress ((with_reducible apply frame_datum (hm := sub_trans rfl hm)))

theorem probeMissed_frame (n : ℕ) (h : Frame m a s) (hm : sub [.cnt, .dir, .chan, .datum] m = true) : Frame m a (probeMissed n s) := by
  unfold probeMissed
  repeat' first
    | with_reducible assumption | intro _ | exact sub_trans rfl hm | with_reducible apply setProbe_frame | with_reducible apply suspectPartner_frame
    | with_reducible apply count_frame | with_reducible apply frame_ite

theorem execProbeMiss_frame (node : BitVec 12) (h : Frame m a s) (hm : sub [.cnt, .dir, .chan, .datum] m = true) : FrameR m a (execProbeMiss node s) := by
  unfold execProbeMiss
  repeat' first
    | with_reducible assumption | with_reducible apply probeMissed_frame | split | with_reducible apply FrameR.mk'

theorem sendProbe_frame (n : ℕ) (h : Frame m a s) (hm : sub [.catchment, .log, .jx, .datum] m = true) : Frame m a (sendProbe n s) := by
  unfold sendProbe
  repeat' first
    | with_reducible assumption | exact sub_trans rfl hm | with_reducible apply setProbe_frame
    | ((with_reducible apply FrameP.snd); with_reducible apply sendMsg_frame) | split

theorem execProbe_frame (f : RxFrame) (h : Frame m a s) (hm : sub [.catchment, .log, .cnt, .jx, .traffic, .free] m = true) : FrameR m a (execProbe f s) := by
  unfold execProbe
  repeat' first
    | with_reducible assumption | exact sub_trans rfl hm | with_reducible apply takeControl_frame | with_reducible apply respond_frame
    | ((with_reducible apply Frame.out); with_reducible assumption) | split | with_reducible apply FrameR.mk'

theorem onProbeResp_frame (n : ℕ) (b_ : Bytes) (h : Frame m a s) (hm : sub [.datum] m = true) : Frame m a (onProbeResp n b_ s) := by
  unfold onProbeResp
  repeat' first
    | with_reducible assumption | intro _ | exact sub_trans rfl hm | with_reducible apply setProbe_frame | with_reducible apply frame_ite | split
    | dsimp only [id_eq]

theorem execWithdraw_frame (f : RxFrame) (h : Frame m a s) (hm : sub [.catchment, .log, .cnt, .dir, .chan, .jx, .traffic, .datum, .free] m = true) : FrameR m a (execWithdraw f s) := by
  unfold execWithdraw
  repeat' first
    | with_reducible assumption | intro _ | exact sub_trans rfl hm | with_reducible apply takeControl_frame
    | with_reducible apply suspectPartner_frame | ((with_reducible apply Frame.out); with_reducible assumption) | with_reducible apply frame_ite
    | split | with_reducible apply FrameR.mk'

theorem retryLoads_frame (h : Frame m a s) (hm : sub [.catchment, .log, .dir, .chan, .jx, .datum] m = true) : Frame m a (retryLoads s) := by
  unfold retryLoads
  repeat' first
    | with_reducible assumption | intro _ | exact sub_trans rfl hm | with_reducible apply restartFrom_frame | with_reducible apply sendLoadOpen_frame
    | with_reducible apply sendLoadDone_frame | with_reducible apply rejoinDone_frame | with_reducible apply openLoads_frame
    | with_reducible apply frame_foldl | with_reducible apply frame_ite | split | dsimp only [id_eq]
    | fail_if_no_progress ((with_reducible apply frame_datum (hm := sub_trans rfl hm)))

theorem execProbeTimer_frame  (h : Frame m a s) (hm : sub [.catchment, .log, .cnt, .dir, .chan, .jx, .datum] m = true) : FrameR m a (execProbeTimer s) := by
  unfold execProbeTimer
  repeat' first
    | with_reducible assumption | intro _ | exact sub_trans rfl hm | with_reducible apply retryLoads_frame | with_reducible apply sendProbe_frame
    | with_reducible apply probeMissed_frame | with_reducible apply frame_foldl | split | with_reducible apply FrameR.mk'

/-! ## Machine/Loads.lean -/

theorem completeMsg_frame (f : RxFrame) (deliver : State → State) (hdeliver : ∀ y0, Frame m a y0 → Frame m a (deliver y0)) (h : Frame m a s) (hm : sub [.catchment, .log, .jx] m = true) : Frame m a (completeMsg f deliver s) := by
  unfold completeMsg
  repeat' first
    | with_reducible assumption | exact sub_trans rfl hm | apply hdeliver | with_reducible apply ackPacket_frame
    | with_reducible apply filtComplete_frame | with_reducible apply dropTrack_frame

theorem notePacket_frame (f : RxFrame) (a_ : Admitted) (keep : Bool) (h : Frame m a s) (hm : sub [.jx] m = true) : FrameP m a (notePacket f a_ keep s) := by
  unfold notePacket
  repeat' first
    | with_reducible assumption | intro _ | with_reducible apply setTrack_frame | with_reducible apply frameP_ite | split
    | with_reducible apply FrameP.mk'

theorem serveLoad_frame (key : ℕ) (slot : ℕ) (dstNode : ℕ) (h : Frame m a s) (hm : sub [.catchment, .log, .dir, .chan, .key, .jx, .traffic, .datum] m = true) : Frame m a (serveLoad key slot dstNode s) := by
  unfold serveLoad
  repeat' first
    | with_reducible assumption | intro _ | exact sub_trans rfl hm | with_reducible apply seqLost_frame | with_reducible apply raise_frame
    | with_reducible apply copyAll_frame | split | dsimp only [id_eq]

theorem execLoadOpen_frame (f : RxFrame) (h : Frame m a s) (hm : sub [.catchment, .log, .cnt, .dir, .chan, .key, .jx, .traffic, .datum, .free] m = true) : FrameR m a (execLoadOpen f s) := by
  unfold execLoadOpen
  repeat' first
    | with_reducible assumption | intro _ | exact sub_trans rfl hm | with_reducible apply takeControl_frame | with_reducible apply noteEpoch_frame
    | with_reducible apply lookSeq_frame | with_reducible apply respond_frame | with_reducible apply readFree_frame
    | with_reducible apply lineLost_frame | with_reducible apply serveLoad_frame | ((with_reducible apply Frame.out); with_reducible assumption)
    | with_reducible apply Frame.getD | split | ((with_reducible apply FrameP.snd); with_reducible apply readFree_frame)
    | ((with_reducible apply FrameP.snd); with_reducible apply lookSeq_frame)
    | ((with_reducible apply FrameP.snd); with_reducible apply takeControl_frame) | with_reducible apply FrameR.mk'
    | with_reducible apply FrameR.fault | with_reducible apply FrameP.mk' | dsimp only [id_eq]
    | fail_if_no_progress ((with_reducible apply frame_datum (hm := sub_trans rfl hm)))

theorem rejoined_frame (c : ℕ) (src : ℕ) (h : Frame m a s) (hm : sub [.datum] m = true) : FrameP m a (rejoined c src s) := by
  unfold rejoined
  repeat' first
    | with_reducible assumption | intro _ | exact sub_trans rfl hm | with_reducible apply frame_ite | with_reducible apply frameP_ite | split
    | with_reducible apply FrameP.mk' | dsimp only [id_eq] | fail_if_no_progress ((with_reducible apply frame_datum (hm := sub_trans rfl hm)))

theorem execLoadDone_frame (f : RxFrame) (h : Frame m a s) (hm : sub [.catchment, .log, .cnt, .dir, .chan, .jx, .traffic, .datum, .free] m = true) : FrameR m a (execLoadDone f s) := by
  unfold execLoadDone
  repeat' first
    | with_reducible assumption | intro _ | exact sub_trans rfl hm | with_reducible apply takeControl_frame | with_reducible apply noteEpoch_frame
    | with_reducible apply respond_frame | with_reducible apply rejoined_frame | with_reducible apply finishLoadOut_frame
    | ((with_reducible apply Frame.out); with_reducible assumption) | with_reducible apply frame_ite | with_reducible apply frameP_ite | split
    | ((with_reducible apply FrameP.snd); with_reducible apply rejoined_frame)
    | ((with_reducible apply FrameP.snd); with_reducible apply takeControl_frame) | with_reducible apply FrameR.mk'
    | with_reducible apply FrameR.fault | with_reducible apply FrameP.mk' | dsimp only [id_eq]
    | fail_if_no_progress ((with_reducible apply frame_datum (hm := sub_trans rfl hm)))

theorem restartLoad_frame (id : ℕ) (h : Frame m a s) (hm : sub [.catchment, .log, .dir, .chan, .jx, .datum] m = true) : Frame m a (restartLoad id s) := by
  unfold restartLoad
  repeat' first
    | with_reducible assumption | intro _ | exact sub_trans rfl hm | with_reducible apply restartFrom_frame | split | dsimp only [id_eq]

theorem applySeqRec_frame (id : ℕ) (l : LoadIn) (b_ : Bytes) (h : Frame m a s) (hm : sub [.catchment, .log, .cnt, .mem, .sto, .dir, .datum] m = true) : FrameP m a (applySeqRec id l b_ s) := by
  unfold applySeqRec
  repeat' first
    | with_reducible assumption | intro _ | exact sub_trans rfl hm | with_reducible apply dirFull_frame | with_reducible apply makeSeq_frame
    | with_reducible apply frameExhausted_frame | ((with_reducible apply Frame.outO); with_reducible assumption) | with_reducible apply frame_ite
    | with_reducible apply frameP_ite | with_reducible apply frameO_ite | split | with_reducible apply FrameP.mk' | with_reducible apply FrameO.mk'
    | with_reducible apply FrameO.none_ | dsimp only [id_eq] | fail_if_no_progress ((with_reducible apply frame_datum (hm := sub_trans rfl hm)))

theorem applyTensorRec_frame (slot : ℕ) (b_ : Bytes) (h : Frame m a s) (hm : sub [.catchment, .log, .cnt, .mem, .sto, .dir] m = true) : FrameP m a (applyTensorRec slot b_ s) := by
  unfold applyTensorRec
  repeat' first
    | with_reducible assumption | intro _ | exact sub_trans rfl hm | with_reducible apply regTensor_frame | with_reducible apply frameExhausted_frame
    | with_reducible apply setTen_frame | with_reducible apply setSeq_frame | ((with_reducible apply Frame.outO); with_reducible assumption)
    | with_reducible apply frame_ite | with_reducible apply frameP_ite | with_reducible apply frameO_ite | split | with_reducible apply FrameP.mk'
    | with_reducible apply FrameO.mk' | with_reducible apply FrameO.none_ | dsimp only [id_eq]

theorem writePageRec_frame (slot : ℕ) (ti : ℕ) (idx : ℕ) (first : ℕ) (n : ℕ) (areas : Bytes) (h : Frame m a s) (hm : sub [.cnt, .mem, .sto, .dir] m = true) : Frame m a (writePageRec slot ti idx first n areas s) := by
  unfold writePageRec
  repeat' first
    | with_reducible assumption | intro _ | exact sub_trans rfl hm | with_reducible apply writeDeep_frame | with_reducible apply writeFastFor_frame
    | with_reducible apply copyDown_frame | with_reducible apply giveUpFast_frame | ((with_reducible apply Frame.outO); with_reducible assumption)
    | with_reducible apply frame_ite | with_reducible apply frameO_ite | split | with_reducible apply FrameO.mk' | with_reducible apply FrameO.none_
    | dsimp only [id_eq]

theorem applyPageRec_frame (slot : ℕ) (b_ : Bytes) (h : Frame m a s) (hm : sub [.catchment, .log, .cnt, .mem, .sto, .dir] m = true) : FrameP m a (applyPageRec slot b_ s) := by
  unfold applyPageRec
  repeat' first
    | with_reducible assumption | intro _ | exact sub_trans rfl hm | with_reducible apply givePage_frame | with_reducible apply frameExhausted_frame
    | with_reducible apply writePageRec_frame | ((with_reducible apply Frame.outO); with_reducible assumption) | with_reducible apply frame_ite
    | with_reducible apply frameP_ite | with_reducible apply frameO_ite | split | with_reducible apply FrameP.mk' | with_reducible apply FrameO.mk'
    | with_reducible apply FrameO.none_ | dsimp only [id_eq]

theorem applyStateRec_frame (slot : ℕ) (b_ : Bytes) (h : Frame m a s) (hm : sub [.dir] m = true) : Frame m a (applyStateRec slot b_ s) := by
  unfold applyStateRec
  repeat' first
    | with_reducible assumption | intro _ | exact sub_trans rfl hm | with_reducible apply setSeq_frame | with_reducible apply frame_foldl
    | with_reducible apply frame_ite | split | dsimp only [id_eq]

theorem applyEnd_frame (id : ℕ) (l : LoadIn) (slot : ℕ) (h : Frame m a s) (hm : sub [.catchment, .log, .dir, .jx, .datum] m = true) : Frame m a (applyEnd id l slot s) := by
  unfold applyEnd
  repeat' first
    | with_reducible assumption | intro _ | exact sub_trans rfl hm | with_reducible apply setSeq_frame | with_reducible apply sendLoadDone_frame
    | with_reducible apply openLoads_frame | with_reducible apply rejoinDone_frame | with_reducible apply frame_ite | dsimp only [id_eq]
    | fail_if_no_progress ((with_reducible apply frame_datum (hm := sub_trans rfl hm)))

theorem applyRecord_frame (id : ℕ) (kind : ℕ) (b_ : Bytes) (h : Frame m a s) (hm : sub [.catchment, .log, .cnt, .mem, .sto, .dir, .jx, .datum] m = true) : FrameP m a (applyRecord id kind b_ s) := by
  unfold applyRecord
  repeat' first
    | with_reducible assumption | intro _ | exact sub_trans rfl hm | with_reducible apply applySeqRec_frame
    | with_reducible apply applyTensorRec_frame | with_reducible apply applyPageRec_frame | with_reducible apply applyStateRec_frame
    | with_reducible apply applyEnd_frame | ((with_reducible apply Frame.out); with_reducible assumption) | with_reducible apply frame_ite
    | with_reducible apply frameP_ite | split | ((with_reducible apply FrameP.snd); with_reducible apply applyTensorRec_frame)
    | ((with_reducible apply FrameP.snd); with_reducible apply applySeqRec_frame)
    | ((with_reducible apply FrameP.snd); with_reducible apply applyPageRec_frame) | with_reducible apply FrameP.mk' | dsimp only [id_eq]

theorem applyHeld_frame (src : ℕ) (id : ℕ) (p2 : ℕ) (h : Frame m a s) (hm : sub [.catchment, .log, .cnt, .mem, .sto, .dir, .jx, .datum] m = true) : FrameP m a (applyHeld src id p2 s) := by
  induction p2 generalizing s with
  | zero =>
    unfold applyHeld
    repeat' first
      | with_reducible assumption | intro _ | exact sub_trans rfl hm | with_reducible apply count_frame | with_reducible apply applyRecord_frame
      | ((with_reducible apply Frame.out); with_reducible assumption) | with_reducible apply frame_ite | with_reducible apply frameP_ite | split
      | ((with_reducible apply FrameP.snd); with_reducible apply applyRecord_frame) | with_reducible apply FrameP.mk' | dsimp only [id_eq]
      | fail_if_no_progress ((with_reducible apply frame_datum (hm := sub_trans rfl hm)))
  | succ _ ih =>
    unfold applyHeld
    repeat' first
      | with_reducible assumption | intro _ | (apply ih) | exact sub_trans rfl hm | with_reducible apply count_frame
      | with_reducible apply applyRecord_frame | ((with_reducible apply Frame.out); with_reducible assumption) | with_reducible apply frame_ite
      | with_reducible apply frameP_ite | split | ((with_reducible apply FrameP.snd); with_reducible apply applyRecord_frame)
      | with_reducible apply FrameP.mk' | dsimp only [id_eq] | fail_if_no_progress ((with_reducible apply frame_datum (hm := sub_trans rfl hm)))

theorem takeRecords_frame (src : ℕ) (rs : List Bytes) (h : Frame m a s) (hm : sub [.catchment, .log, .cnt, .mem, .sto, .dir, .jx, .datum] m = true) : FrameQ m a (takeRecords src rs s) := by
  unfold takeRecords
  refine frameQ_foldl (FrameQ.mk' h) ?_
  intro p r hp
  obtain ⟨ok, bad, s⟩ := p
  have h := hp.snd
  dsimp only at h ⊢
  repeat' first
    | with_reducible assumption | intro _ | exact sub_trans rfl hm | with_reducible apply applyHeld_frame | with_reducible apply count_frame
    | ((with_reducible apply FrameP.snd); with_reducible apply applyHeld_frame)
    | ((with_reducible apply Frame.outO); with_reducible assumption) | with_reducible apply frame_ite | with_reducible apply frameQ_ite | split
    | with_reducible apply FrameQ.mk' | fail_if_no_progress ((with_reducible apply frame_datum (hm := sub_trans rfl hm)))

theorem execLoadData_frame (f : RxFrame) (h : Frame m a s) (hm : sub [.catchment, .log, .cnt, .mem, .sto, .dir, .chan, .jx, .traffic, .datum, .free] m = true) : FrameR m a (execLoadData f s) := by
  unfold execLoadData
  repeat' first
    | with_reducible assumption | intro _ | exact sub_trans rfl hm | with_reducible apply takeControl_frame | with_reducible apply notePacket_frame
    | with_reducible apply ackPacket_frame | with_reducible apply failMsg_frame | with_reducible apply takeRecords_frame
    | with_reducible apply completeMsg_frame | with_reducible apply restartLoad_frame | ((with_reducible apply Frame.out); with_reducible assumption)
    | ((with_reducible apply Frame.outQ); with_reducible assumption) | with_reducible apply frame_foldl | with_reducible apply frameP_foldl
    | with_reducible apply frame_ite | with_reducible apply frameP_ite | with_reducible apply frameQ_ite | split
    | ((with_reducible apply FrameP.snd); with_reducible apply notePacket_frame)
    | ((with_reducible apply FrameP.snd); with_reducible apply takeControl_frame)
    | ((with_reducible apply FrameQ.snd); with_reducible apply takeRecords_frame) | with_reducible apply FrameR.mk'
    | with_reducible apply FrameR.fault | with_reducible apply FrameP.mk' | with_reducible apply FrameQ.mk' | with_reducible apply FrameQ.mkP
    | dsimp only [id_eq]

theorem onLoadOpened_frame (id : ℕ) (st : ℕ) (h : Frame m a s) (hm : sub [.catchment, .log, .jx, .datum] m = true) : Frame m a (onLoadOpened id st s) := by
  unfold onLoadOpened
  repeat' first
    | with_reducible assumption | intro _ | exact sub_trans rfl hm | with_reducible apply rejoinDone_frame | with_reducible apply Frame.getD
    | with_reducible apply frameO_bind | with_reducible apply frameOP_bind | with_reducible apply frame_ite | split | dsimp only [id_eq]
    | fail_if_no_progress ((with_reducible apply frame_datum (hm := sub_trans rfl hm)))

theorem onLoadFinished_frame (id : ℕ) (h : Frame m a s) (hm : sub [.dir, .datum] m = true) : Frame m a (onLoadFinished id s) := by
  unfold onLoadFinished
  repeat' first
    | with_reducible assumption | intro _ | exact sub_trans rfl hm | with_reducible apply admitLoad_frame | split | dsimp only [id_eq]

theorem onLoadEnded_frame (m_ : OutMsg) (id : ℕ) (h : Frame m a s) (hm : sub [.catchment, .log, .dir, .chan, .jx, .datum] m = true) : Frame m a (onLoadEnded m_ id s) := by
  unfold onLoadEnded
  repeat' first
    | with_reducible assumption | intro _ | exact sub_trans rfl hm | with_reducible apply loadDoneAgain_frame | with_reducible apply restartLoad_frame
    | with_reducible apply frame_foldl | with_reducible apply frame_ite | split | dsimp only [id_eq]

theorem execLoadResponse_frame (f : RxFrame) (h : Frame m a s) (hm : sub [.catchment, .log, .cnt, .dir, .chan, .jx, .traffic, .datum, .free] m = true) : FrameR m a (execLoadResponse f s) := by
  unfold execLoadResponse
  repeat' first
    | with_reducible assumption | intro _ | exact sub_trans rfl hm | with_reducible apply takeAnswer_frame | with_reducible apply onLoadOpened_frame
    | with_reducible apply onLoadEnded_frame | with_reducible apply loadDoneAgain_frame | with_reducible apply onLoadFinished_frame
    | ((with_reducible apply Frame.out); with_reducible assumption) | with_reducible apply frame_ite | with_reducible apply frameP_ite | split
    | ((with_reducible apply FrameP.snd); with_reducible apply takeAnswer_frame) | with_reducible apply FrameR.mk' | with_reducible apply FrameR.fault
    | with_reducible apply FrameP.mk' | dsimp only [id_eq]

/-! ## Machine/Arrive.lean -/

theorem forwardRecord_frame (f : RxFrame) (h : Frame m a s) (hm : sub [.cfg, .catchment, .log, .cnt, .dir, .chan, .jx, .slu, .datum] m = true) : Frame m a (forwardRecord f s) := by
  unfold forwardRecord
  repeat' first
    | with_reducible assumption | intro _ | exact sub_trans rfl hm | with_reducible apply actDone_frame | with_reducible apply frameO_map
    | with_reducible apply frameOP_map | with_reducible apply frameOQ_map | with_reducible apply frameOP_findSome | split | dsimp only [id_eq]
    | fail_if_no_progress ((with_reducible apply frame_jx (hm := sub_trans rfl hm)))

theorem placeWrite_frame (f : RxFrame) (a_ : Admitted) (h : Frame m a s) (hm : sub [.cfg, .catchment, .log, .cnt, .mem, .dir, .chan, .jx, .slu, .datum, .free] m = true) : Frame m a (placeWrite f a_ s) := by
  unfold placeWrite
  repeat' first
    | with_reducible assumption | intro _ | exact sub_trans rfl hm | with_reducible apply failMsg_frame | with_reducible apply winWrite_frame
    | with_reducible apply notePacket_frame | with_reducible apply ackPacket_frame | with_reducible apply completeMsg_frame
    | with_reducible apply deliverImm_frame | with_reducible apply forwardRecord_frame | ((with_reducible apply Frame.out); with_reducible assumption)
    | with_reducible apply frame_ite | with_reducible apply frameP_ite | split
    | ((with_reducible apply FrameP.snd); with_reducible apply notePacket_frame) | with_reducible apply FrameP.mk' | dsimp only [id_eq]

theorem redirected_frame (f : RxFrame) (h : Frame m a s) (hm : sub [.catchment, .log, .cnt, .jx, .traffic, .datum, .free] m = true) : Frame m a (redirected f s) := by
  unfold redirected
  repeat' first
    | with_reducible assumption | intro _ | exact sub_trans rfl hm | with_reducible apply receive_frame | with_reducible apply noteEpoch_frame
    | ((with_reducible apply Frame.out); with_reducible assumption) | split | ((with_reducible apply FrameP.snd); with_reducible apply receive_frame)
    | with_reducible apply FrameP.mk' | dsimp only [id_eq]

theorem execJxWrite_frame (f : RxFrame) (h : Frame m a s) (hm : sub [.cfg, .catchment, .log, .cnt, .mem, .dir, .chan, .jx, .slu, .traffic, .datum, .free] m = true) : FrameR m a (execJxWrite f s) := by
  unfold execJxWrite
  repeat' first
    | with_reducible assumption | intro _ | exact sub_trans rfl hm | with_reducible apply receive_frame | with_reducible apply placeWrite_frame
    | with_reducible apply redirected_frame | ((with_reducible apply Frame.out); with_reducible assumption) | with_reducible apply frame_ite
    | with_reducible apply frameP_ite | split | ((with_reducible apply FrameP.snd); with_reducible apply receive_frame)
    | with_reducible apply FrameR.mk' | with_reducible apply FrameR.fault | with_reducible apply FrameP.mk' | dsimp only [id_eq]

theorem execJxWriteImm_frame (f : RxFrame) (h : Frame m a s) (hm : sub [.cfg, .catchment, .log, .cnt, .mem, .dir, .chan, .jx, .slu, .traffic, .datum, .free] m = true) : FrameR m a (execJxWriteImm f s) := by
  unfold execJxWriteImm
  repeat' first
    | with_reducible assumption | exact sub_trans rfl hm | with_reducible apply receive_frame | with_reducible apply placeWrite_frame
    | ((with_reducible apply Frame.out); with_reducible assumption) | split | with_reducible apply FrameR.mk'

theorem readWindow_frame (x : ReadPkt) (n : ℕ) (f : State → State) (hf : ∀ y0, Frame m a y0 → Frame m a (f y0)) {s' : State} (h0 : Frame m a s') (h : Frame m a s) (hm : sub [.catchment, .log, .cnt, .dir, .chan, .jx, .datum, .free] m = true) : Frame m a (readWindow x n s' s f) := by
  unfold readWindow
  repeat' first
    | with_reducible assumption | intro _ | exact sub_trans rfl hm | with_reducible apply failMsg_frame | with_reducible apply readChunks_frame
    | with_reducible apply lineLost_frame | with_reducible apply hf | ((with_reducible apply Frame.out); with_reducible assumption)
    | with_reducible apply frame_ite | with_reducible apply frameP_ite | split
    | ((with_reducible apply FrameP.snd); with_reducible apply readChunks_frame) | with_reducible apply FrameP.mk' | dsimp only [id_eq]

theorem execJxRead_frame (x : ReadPkt) (h : Frame m a s) (hm : sub [.catchment, .log, .cnt, .dir, .chan, .jx, .traffic, .datum, .free] m = true) : FrameR m a (execJxRead x s) := by
  unfold execJxRead
  repeat' first
    | with_reducible assumption | intro _ | exact sub_trans rfl hm | with_reducible apply takeControl_frame | with_reducible apply readWindow_frame
    | with_reducible apply respond_frame | ((with_reducible apply Frame.out); with_reducible assumption) | split
    | ((with_reducible apply FrameP.snd); with_reducible apply takeControl_frame) | with_reducible apply FrameR.mk'
    | with_reducible apply FrameR.fault | with_reducible apply FrameP.mk' | dsimp only [id_eq]

theorem execJxCas_frame (x : ReadPkt) (h : Frame m a s) (hm : sub [.catchment, .log, .cnt, .mem, .dir, .chan, .jx, .traffic, .datum, .free] m = true) : FrameR m a (execJxCas x s) := by
  unfold execJxCas
  repeat' first
    | with_reducible assumption | intro _ | exact sub_trans rfl hm | with_reducible apply takeControl_frame | with_reducible apply readWindow_frame
    | with_reducible apply respond_frame | with_reducible apply winWrite_frame | ((with_reducible apply Frame.out); with_reducible assumption)
    | with_reducible apply frame_ite | with_reducible apply frameP_ite | split
    | ((with_reducible apply FrameP.snd); with_reducible apply takeControl_frame) | with_reducible apply FrameR.mk'
    | with_reducible apply FrameR.fault | with_reducible apply FrameP.mk' | dsimp only [id_eq]

theorem commitControl_frame (f : RxFrame) (h : Frame m a s) (hm : sub [.catchment, .log, .cnt, .rgn, .mem, .sto, .dir, .tlb, .chan, .work, .req, .key, .jx, .traffic, .datum, .free] m = true) : Frame m a (commitControl f s) := by
  unfold commitControl
  repeat' first
    | with_reducible assumption | exact sub_trans rfl hm | with_reducible apply takeControl_frame | with_reducible apply ctlArrive_frame
    | ((with_reducible apply Frame.out); with_reducible assumption) | split

theorem execCommit_frame (f : RxFrame) (h : Frame m a s) (hm : sub [.catchment, .log, .cnt, .rgn, .mem, .sto, .dir, .tlb, .chan, .work, .req, .key, .jx, .traffic, .datum, .free] m = true) : FrameR m a (execCommit f s) := by
  unfold execCommit
  repeat' first
    | with_reducible assumption | with_reducible apply commitControl_frame | split | with_reducible apply FrameR.mk'

theorem execRollback_frame (f : RxFrame) (h : Frame m a s) (hm : sub [.catchment, .log, .cnt, .rgn, .mem, .sto, .dir, .tlb, .chan, .work, .req, .key, .jx, .traffic, .datum, .free] m = true) : FrameR m a (execRollback f s) := by
  unfold execRollback
  repeat' first
    | with_reducible assumption | with_reducible apply commitControl_frame | split | with_reducible apply FrameR.mk'

theorem execShift_frame (f : RxFrame) (h : Frame m a s) (hm : sub [.catchment, .log, .cnt, .rgn, .mem, .sto, .dir, .tlb, .chan, .work, .req, .key, .jx, .traffic, .datum, .free] m = true) : FrameR m a (execShift f s) := by
  unfold execShift
  repeat' first
    | with_reducible assumption | with_reducible apply commitControl_frame | split | with_reducible apply FrameR.mk'

theorem execJxResponseReceive_frame (f : RxFrame) (h : Frame m a s) (hm : sub [.catchment, .log, .cnt, .rgn, .mem, .sto, .dir, .tlb, .chan, .work, .req, .key, .jx, .traffic, .datum, .free] m = true) : FrameR m a (execJxResponseReceive f s) := by
  unfold execJxResponseReceive
  repeat' first
    | with_reducible assumption | intro _ | exact sub_trans rfl hm | with_reducible apply takeAnswer_frame | with_reducible apply onProbeResp_frame
    | with_reducible apply ctlForwarded_frame | ((with_reducible apply Frame.out); with_reducible assumption) | with_reducible apply frame_ite
    | with_reducible apply frameP_ite | split | ((with_reducible apply FrameP.snd); with_reducible apply takeAnswer_frame)
    | with_reducible apply FrameR.mk' | with_reducible apply FrameR.fault | with_reducible apply FrameP.mk' | dsimp only [id_eq]

/-! ## Machine/Chains.lean -/

theorem execForward_frame (inst : ℕ) (h : Frame m a s) (hm : sub [.cfg, .catchment, .log, .cnt, .dir, .chan, .jx, .slu, .datum] m = true) : FrameR m a (execForward inst s) := by
  unfold execForward
  repeat' first
    | with_reducible assumption | intro _ | exact sub_trans rfl hm | with_reducible apply actDone_frame | with_reducible apply sendMsg_frame
    | with_reducible apply actEnd_frame | with_reducible apply setInst_frame | ((with_reducible apply Frame.out); with_reducible assumption)
    | with_reducible apply frame_ite | with_reducible apply frameP_ite | split
    | ((with_reducible apply FrameP.snd); with_reducible apply sendMsg_frame) | with_reducible apply FrameR.mk' | with_reducible apply FrameR.fault
    | with_reducible apply FrameP.mk' | dsimp only [id_eq]

theorem execSignal_frame (inst : ℕ) (h : Frame m a s) (hm : sub [.cfg, .catchment, .log, .cnt, .dir, .chan, .jx, .slu, .datum] m = true) : FrameR m a (execSignal inst s) := by
  unfold execSignal
  repeat' first
    | with_reducible assumption | intro _ | exact sub_trans rfl hm | with_reducible apply sendMsg_frame | with_reducible apply actEnd_frame
    | ((with_reducible apply Frame.out); with_reducible assumption) | with_reducible apply frame_ite | with_reducible apply frameP_ite | split
    | ((with_reducible apply FrameP.snd); with_reducible apply sendMsg_frame) | with_reducible apply FrameR.mk' | with_reducible apply FrameR.fault
    | with_reducible apply FrameP.mk' | dsimp only [id_eq]

theorem execProgramInstall_frame (inst : ℕ) (h : Frame m a s) (hm : sub [.cfg, .catchment, .log, .cnt, .dir, .chan, .installs, .jx, .slu, .datum] m = true) : FrameR m a (execProgramInstall inst s) := by
  unfold execProgramInstall
  repeat' first
    | with_reducible assumption | exact sub_trans rfl hm | with_reducible apply actEnd_frame | with_reducible apply raise_frame
    | with_reducible apply actBusy_frame | split | with_reducible apply FrameR.mk' | dsimp only [id_eq]
    | fail_if_no_progress ((with_reducible apply frame_installs (hm := sub_trans rfl hm)))

theorem execProgramInstallComplete_frame (tenant : BitVec 12) (h : Frame m a s) (hm : sub [.cfg, .catchment, .log, .cnt, .dir, .chan, .prog, .installs, .jx, .slu, .datum] m = true) : FrameR m a (execProgramInstallComplete tenant s) := by
  unfold execProgramInstallComplete
  repeat' first
    | with_reducible assumption | exact sub_trans rfl hm | with_reducible apply endBusy_frame | split | with_reducible apply FrameR.mk'
    | fail_if_no_progress ((with_reducible apply frame_prog_installs (hm := sub_trans rfl hm)))

theorem programRemoveDo_frame (tenant : ℕ) (slot : ℕ) (gen : ℕ) (who : optParam Who none) (h : Frame m a s) (hm : sub [.catchment, .log, .cnt, .prog] m = true) : FrameP m a (programRemoveDo tenant slot gen s who) := by
  unfold programRemoveDo
  repeat' first
    | with_reducible assumption | intro _ | exact sub_trans rfl hm | with_reducible apply refuseC_frame | with_reducible apply frame_ite
    | with_reducible apply frameP_ite | split | with_reducible apply FrameP.mk' | dsimp only [id_eq]
    | fail_if_no_progress ((with_reducible apply frame_prog (hm := sub_trans rfl hm)))

theorem execProgramRemove_frame (inst : ℕ) (h : Frame m a s) (hm : sub [.cfg, .catchment, .log, .cnt, .dir, .chan, .prog, .jx, .slu, .datum] m = true) : FrameR m a (execProgramRemove inst s) := by
  unfold execProgramRemove
  repeat' first
    | with_reducible assumption | intro _ | exact sub_trans rfl hm | with_reducible apply programRemoveDo_frame | with_reducible apply actEnd_frame
    | ((with_reducible apply Frame.out); with_reducible assumption) | split
    | ((with_reducible apply FrameP.snd); with_reducible apply programRemoveDo_frame) | with_reducible apply FrameR.mk'
    | with_reducible apply FrameR.fault | with_reducible apply FrameP.mk' | dsimp only [id_eq]

theorem execProgramSlotFree_frame (slot : Fin 256) (h : Frame m a s) (hm : sub [.prog] m = true) : FrameR m a (execProgramSlotFree slot s) := by
  unfold execProgramSlotFree
  repeat' first
    | with_reducible assumption | intro _ | with_reducible apply frame_ite | with_reducible apply FrameR.mk'
    | fail_if_no_progress ((with_reducible apply frame_prog (hm := sub_trans rfl hm)))

theorem execWindowOpen_frame (inst : ℕ) (h : Frame m a s) (hm : sub [.cfg, .catchment, .log, .cnt, .mem, .sto, .dir, .chan, .jx, .slu, .datum] m = true) : FrameR m a (execWindowOpen inst s) := by
  unfold execWindowOpen
  repeat' first
    | with_reducible assumption | intro _ | exact sub_trans rfl hm | with_reducible apply actEnd_frame | with_reducible apply openWindow_frame
    | with_reducible apply count_frame | with_reducible apply actDone_frame | ((with_reducible apply Frame.outOP); with_reducible assumption)
    | with_reducible apply frame_ite | split | with_reducible apply FrameR.mk'

theorem execWindowRevoke_frame (inst : ℕ) (h : Frame m a s) (hm : sub [.cfg, .catchment, .log, .cnt, .dir, .chan, .jx, .slu, .datum] m = true) : FrameR m a (execWindowRevoke inst s) := by
  unfold execWindowRevoke
  repeat' first
    | with_reducible assumption | intro _ | exact sub_trans rfl hm | with_reducible apply actEnd_frame | with_reducible apply refuseN_frame
    | with_reducible apply startDrainWin_frame | with_reducible apply setWin_frame | with_reducible apply actBusy_frame
    | with_reducible apply actDone_frame | with_reducible apply frame_ite | split | with_reducible apply FrameR.mk'

theorem freeWindow_frame (id : ℕ) (h : Frame m a s) (hm : sub [.cfg, .catchment, .log, .cnt, .sto, .dir, .chan, .jx, .slu, .datum] m = true) : Frame m a (freeWindow id s) := by
  unfold freeWindow
  repeat' first
    | with_reducible assumption | intro _ | exact sub_trans rfl hm | with_reducible apply releaseFast_frame | with_reducible apply setWin_frame
    | with_reducible apply endBusy_frame | with_reducible apply windowGone_frame | with_reducible apply frame_foldl

theorem execWindowFree_frame (id : Fin 16384) (h : Frame m a s) (hm : sub [.cfg, .catchment, .log, .cnt, .sto, .dir, .chan, .jx, .slu, .datum] m = true) : FrameR m a (execWindowFree id s) := by
  unfold execWindowFree
  repeat' first
    | with_reducible assumption | with_reducible apply freeWindow_frame | split | with_reducible apply FrameR.mk'

end Sys2Proof.Laws
end

