-- ==== Sys2Proof/Laws/FrameChip.lean ====
section
/-! SUPPORT. Frames of DMA, firmware commands, settings, tenants, attestation, clocks, the catchment and the ports: one lemma per definition, found by walking its own text. -/

namespace Sys2Proof.Laws

open Sys2Proof.Machine

variable {m : List Part} {a s : State}

set_option linter.all false

/-! ## Machine/Dma.lean -/

theorem sideWrite_frame (kind : ℕ) (a_ : ℕ) (bs : Bytes) (h : Frame m a s) (hm : sub [.mem] m = true) : Frame m a (sideWrite kind a_ bs s) := by
  unfold sideWrite
  repeat' first
    | with_reducible assumption | split | dsimp only [id_eq] | fail_if_no_progress ((with_reducible apply frame_mem (hm := sub_trans rfl hm)))

theorem streamWrite_frame (x : DmaSide) (o : ℕ) (bs : Bytes) (h : Frame m a s) (hm : sub [.mem] m = true) : Frame m a (streamWrite x o bs s) := by
  unfold streamWrite
  repeat' first
    | with_reducible assumption | intro _ | with_reducible apply sideWrite_frame | with_reducible apply frame_foldl

theorem runRead_frame (c : ℕ) (r : DmaRun) (o : ℕ) (n : ℕ) (x : LineOutcome) (h : Frame m a s) (hm : sub [.catchment, .log, .cnt, .chan] m = true) : FrameP m a (runRead c r o n x s) := by
  unfold runRead
  repeat' first
    | with_reducible assumption | intro _ | exact sub_trans rfl hm | with_reducible apply readChunks_frame
    | ((with_reducible apply Frame.out); with_reducible assumption) | with_reducible apply frame_ite | with_reducible apply frameP_ite | split
    | ((with_reducible apply FrameP.snd); with_reducible apply readChunks_frame) | with_reducible apply FrameP.mk' | dsimp only [id_eq]

theorem dmaMove_frame (c : ℕ) (n : ℕ) (h : Frame m a s) (hm : sub [.mem, .dma] m = true) : Frame m a (dmaMove c n s) := by
  unfold dmaMove
  repeat' first
    | with_reducible assumption | intro _ | exact sub_trans rfl hm | with_reducible apply setDma_frame | with_reducible apply streamWrite_frame
    | with_reducible apply frame_ite | split | dsimp only [id_eq]

theorem dmaBegin_frame (c : ℕ) (h : Frame m a s) (hm : sub [.catchment, .log, .rgn, .dma] m = true) : Frame m a (dmaBegin c s) := by
  unfold dmaBegin
  repeat' first
    | with_reducible assumption | intro _ | exact sub_trans rfl hm | with_reducible apply markBusy_frame | with_reducible apply setDma_frame
    | with_reducible apply dmaFail_frame | with_reducible apply raise_frame | with_reducible apply frame_ite | split | dsimp only [id_eq]

theorem dmaEvent_frame (c : ℕ) (h : Frame m a s) (hm : sub [.catchment, .log, .rgn, .dma] m = true) : Frame m a (dmaEvent c s) := by
  unfold dmaEvent
  repeat' first
    | with_reducible assumption | intro _ | exact sub_trans rfl hm | with_reducible apply dmaBegin_frame | with_reducible apply setDma_frame
    | with_reducible apply frame_ite

theorem dmaStarts_frame (src : ℕ) (arg : ℕ) (h : Frame m a s) (hm : sub [.catchment, .log, .rgn, .dma] m = true) : Frame m a (dmaStarts src arg s) := by
  unfold dmaStarts
  repeat' first
    | with_reducible assumption | intro _ | with_reducible apply dmaEvent_frame | with_reducible apply frame_foldl

theorem execDmaStart_frame (src : DmaStart) (h : Frame m a s) (hm : sub [.cfg, .catchment, .log, .cnt, .rgn, .dir, .chan, .jx, .slu, .datum, .dma] m = true) : FrameR m a (execDmaStart src s) := by
  unfold execDmaStart
  repeat' first
    | with_reducible assumption | exact sub_trans rfl hm | with_reducible apply dmaEvent_frame | with_reducible apply actEnd_frame | split
    | with_reducible apply FrameR.mk'

theorem dmaAbortAt_frame (c : ℕ) (written : ℕ) (h : Frame m a s) (hm : sub [.catchment, .log, .mem, .dma] m = true) : Frame m a (dmaAbortAt c written s) := by
  unfold dmaAbortAt
  repeat' first
    | with_reducible assumption | intro _ | exact sub_trans rfl hm | with_reducible apply setDma_frame | with_reducible apply dmaAbortFail_frame
    | with_reducible apply dmaMove_frame | split | dsimp only [id_eq]

theorem execDmaAbort_frame (c : Fin 320) (written : ℕ) (h : Frame m a s) (hm : sub [.catchment, .log, .mem, .dma] m = true) : FrameR m a (execDmaAbort c written s) := by
  unfold execDmaAbort
  repeat' first
    | with_reducible assumption | with_reducible apply dmaAbortAt_frame | split | with_reducible apply FrameR.mk'

theorem execDmaPaceTick_frame (c : Fin 320) (h : Frame m a s) (hm : sub [.catchment, .log, .cnt, .mem, .chan, .dma] m = true) : FrameR m a (execDmaPaceTick c s) := by
  unfold execDmaPaceTick
  repeat' first
    | with_reducible assumption | intro _ | exact sub_trans rfl hm | with_reducible apply runRead_frame | with_reducible apply dmaMove_frame
    | with_reducible apply setDma_frame | ((with_reducible apply Frame.out); with_reducible assumption) | with_reducible apply frame_ite
    | with_reducible apply frameP_ite | split | ((with_reducible apply FrameP.snd); with_reducible apply runRead_frame)
    | with_reducible apply FrameR.mk' | with_reducible apply FrameR.fault | with_reducible apply FrameP.mk' | dsimp only [id_eq]

theorem dmaDone_frame (c : ℕ) (h : Frame m a s) (hm : sub [.catchment, .log, .cnt, .rgn, .jx, .slu, .dma] m = true) : Frame m a (dmaDone c s) := by
  unfold dmaDone
  repeat' first
    | with_reducible assumption | intro _ | exact sub_trans rfl hm | with_reducible apply setDma_frame | with_reducible apply dmaBegin_frame
    | with_reducible apply eventAll_frame | with_reducible apply dmaStarts_frame | with_reducible apply raise_frame | with_reducible apply frame_ite

theorem dmaMemEnd_frame (c : ℕ) (ring : ℕ) (seq : ℕ) (written : ℕ) (h : Frame m a s) (hm : sub [.catchment, .log, .mem, .dma] m = true) : Frame m a (dmaMemEnd c ring seq written s) := by
  unfold dmaMemEnd
  repeat' first
    | with_reducible assumption | intro _ | exact sub_trans rfl hm | with_reducible apply dmaMemFail_frame | with_reducible apply dmaMove_frame
    | split | dsimp only [id_eq]

theorem dmaLineLost_frame (c : ℕ) (a_ : ℕ) (written : ℕ) (h : Frame m a s) (hm : sub [.catchment, .log, .mem, .dir, .chan, .jx, .datum, .dma] m = true) : Frame m a (dmaLineLost c a_ written s) := by
  unfold dmaLineLost
  repeat' first
    | with_reducible assumption | intro _ | exact sub_trans rfl hm | with_reducible apply lineBad_frame | with_reducible apply baseLineLost_frame
    | with_reducible apply dmaMemEnd_frame | with_reducible apply seqLost_frame | split | dsimp only [id_eq]

theorem dmaPoison_frame (c : ℕ) (a_ : ℕ) (written : ℕ) (h : Frame m a s) (hm : sub [.catchment, .log, .cnt, .mem, .dir, .chan, .jx, .datum, .dma] m = true) : Frame m a (dmaPoison c a_ written s) := by
  unfold dmaPoison
  repeat' first
    | with_reducible assumption | intro _ | exact sub_trans rfl hm | with_reducible apply raiseCount_frame | with_reducible apply dmaMemEnd_frame
    | with_reducible apply seqLost_frame | split | dsimp only [id_eq]

theorem execDmaRunComplete_frame (e : RunEnd) (h : Frame m a s) (hm : sub [.catchment, .log, .cnt, .rgn, .mem, .dir, .chan, .jx, .slu, .datum, .dma] m = true) : FrameR m a (execDmaRunComplete e s) := by
  unfold execDmaRunComplete
  repeat' first
    | with_reducible assumption | intro _ | exact sub_trans rfl hm | with_reducible apply runRead_frame | with_reducible apply dmaDone_frame
    | with_reducible apply dmaMove_frame | with_reducible apply dmaLineLost_frame | ((with_reducible apply Frame.out); with_reducible assumption)
    | with_reducible apply frame_ite | with_reducible apply frameP_ite | split
    | ((with_reducible apply FrameP.snd); with_reducible apply runRead_frame) | with_reducible apply FrameR.mk' | with_reducible apply FrameR.fault
    | with_reducible apply FrameP.mk' | dsimp only [id_eq]

theorem dmaMemError_frame (r : DmaRun) (err : DmaError) (h : Frame m a s) (hm : sub [.pwr, .cfg, .catchment, .log, .cnt, .tier, .sto, .dir, .chan, .work, .prog, .req, .jx, .slu, .datum, .dma] m = true) : FrameOP m a (dmaMemError r err s) := by
  unfold dmaMemError
  repeat' first
    | with_reducible assumption | intro _ | exact sub_trans rfl hm | with_reducible apply raise_frame | with_reducible apply tierTimeout_frame
    | with_reducible apply frameO_map | with_reducible apply frameOP_map | with_reducible apply frameOQ_map | with_reducible apply frame_ite
    | with_reducible apply frameOP_ite | split | with_reducible apply FrameP.mk' | with_reducible apply FrameOP.mk'
    | with_reducible apply FrameOP.none_ | with_reducible apply FrameOP.mkP | dsimp only [id_eq]

theorem execDmaRunError_frame (c : Fin 320) (err : DmaError) (written : ℕ) (h : Frame m a s) (hm : sub [.pwr, .cfg, .catchment, .log, .cnt, .tier, .mem, .sto, .dir, .chan, .work, .prog, .req, .jx, .slu, .datum, .dma] m = true) : FrameR m a (execDmaRunError c err written s) := by
  unfold execDmaRunError
  repeat' first
    | with_reducible assumption | intro _ | exact sub_trans rfl hm | with_reducible apply dmaAbortAt_frame | with_reducible apply runRead_frame
    | with_reducible apply dmaLineLost_frame | with_reducible apply dmaPoison_frame | with_reducible apply dmaMemError_frame
    | with_reducible apply dmaMemEnd_frame | ((with_reducible apply Frame.out); with_reducible assumption)
    | ((with_reducible apply Frame.outOP); with_reducible assumption) | ((with_reducible apply Frame.outOPs); with_reducible assumption)
    | with_reducible apply frame_ite | with_reducible apply frameP_ite | with_reducible apply frameOP_ite | split
    | ((with_reducible apply FrameP.snd); with_reducible apply runRead_frame) | with_reducible apply FrameR.mk' | with_reducible apply FrameR.fault
    | with_reducible apply FrameP.mk' | with_reducible apply FrameOP.mk' | with_reducible apply FrameOP.none_ | with_reducible apply FrameOP.mkP
    | dsimp only [id_eq]

theorem setTmr_frame (n : ℕ) (x : Tmr) (h : Frame m a s) (hm : sub [.bmk] m = true) : Frame m a (setTmr n x s) := by
  unfold setTmr
  repeat' first
    | with_reducible assumption | dsimp only [id_eq] | fail_if_no_progress ((with_reducible apply frame_bmk (hm := sub_trans rfl hm)))

theorem execTimerComparatorFire_frame (n : Fin 32) (h : Frame m a s) (hm : sub [.bmk, .catchment, .log, .cnt, .rgn, .jx, .slu, .dma] m = true) : FrameR m a (execTimerComparatorFire n s) := by
  unfold execTimerComparatorFire
  repeat' first
    | with_reducible assumption | intro _ | exact sub_trans rfl hm | with_reducible apply setTmr_frame | with_reducible apply count_frame
    | with_reducible apply eventAll_frame | with_reducible apply dmaStarts_frame | with_reducible apply frame_ite | split
    | with_reducible apply FrameR.mk' | with_reducible apply FrameR.fault | dsimp only [id_eq]

/-! ## Machine/Redo.lean -/

theorem chunkLost_frame (a_ : ℕ) (h : Frame m a s) (hm : sub [.catchment, .log, .dir, .chan, .jx, .datum] m = true) : Frame m a (chunkLost a_ s) := by
  unfold chunkLost
  repeat' first
    | with_reducible assumption | intro _ | exact sub_trans rfl hm | with_reducible apply baseLineLost_frame | with_reducible apply seqLost_frame
    | split | dsimp only [id_eq]

theorem endHeld_frame (ring : ℕ) (seq : ℕ) (h_ : HeldRead) (h : Frame m a s) (hm : sub [.cfg, .catchment, .log, .cnt, .sto, .dir, .chan, .work, .prog, .req, .jx, .slu, .datum, .dma] m = true) : Frame m a (endHeld ring seq h_ s) := by
  unfold endHeld
  repeat' first
    | with_reducible assumption | intro _ | exact sub_trans rfl hm | with_reducible apply endReq_frame | with_reducible apply dmaMemFail_frame
    | with_reducible apply migFail_frame | with_reducible apply setChan_frame | split | dsimp only [id_eq]

theorem redoLost_frame (ch : ℕ) (chunks : List ℕ) (held : List HeldRead) (h : Frame m a s) (hm : sub [.cfg, .catchment, .log, .cnt, .rgn, .sto, .dir, .chan, .work, .prog, .req, .jx, .slu, .datum, .dma] m = true) : Frame m a (redoLost ch chunks held s) := by
  unfold redoLost
  repeat' first
    | with_reducible assumption | intro _ | exact sub_trans rfl hm | with_reducible apply raise_frame | with_reducible apply cmdEnd_frame
    | with_reducible apply setChan_frame | with_reducible apply endHeld_frame | with_reducible apply chunkLost_frame
    | with_reducible apply frame_foldl | with_reducible apply frameO_bind | with_reducible apply frameOP_bind | split | dsimp only [id_eq]

theorem execJournalRedo_frame (ch : Fin 192) (index : ℕ) (scratchOk : Bool) (h : Frame m a s) (hm : sub [.cfg, .catchment, .log, .cnt, .rgn, .mem, .sto, .dir, .chan, .work, .prog, .req, .jx, .slu, .datum, .dma] m = true) : FrameR m a (execJournalRedo ch index scratchOk s) := by
  unfold execJournalRedo
  repeat' first
    | with_reducible assumption | intro _ | exact sub_trans rfl hm | with_reducible apply setJournal_frame | with_reducible apply setChan_frame
    | with_reducible apply writeChunks_frame | with_reducible apply redoLost_frame | with_reducible apply frame_ite | split
    | with_reducible apply FrameR.mk' | with_reducible apply FrameR.fault | dsimp only [id_eq]

/-! ## Machine/Firmware.lean -/

theorem answerFw_frame (status : ℕ) (resp : Bytes) (h : Frame m a s) (hm : sub [.cfg] m = true) : Frame m a (answerFw status resp s) := by
  unfold answerFw
  repeat' first
    | with_reducible assumption | dsimp only [id_eq] | fail_if_no_progress ((with_reducible apply frame_cfg (hm := sub_trans rfl hm)))

theorem fwRun_frame (op : ℕ) (run : Latched → State → State) (hrun : ∀ y0 y1, Frame m a y1 → Frame m a (run y0 y1)) (h : Frame m a s) (hm : sub [.cfg] m = true) : Frame m a (fwRun op run s) := by
  unfold fwRun
  repeat' first
    | with_reducible assumption | apply hrun | with_reducible apply answerFw_frame | split

theorem acceptDeferred_frame (c : Latched) (obj : ℕ) (h : Frame m a s) (hm : sub [.cfg] m = true) : FrameO m a (acceptDeferred c obj s) := by
  unfold acceptDeferred
  repeat' first
    | with_reducible assumption | intro _ | with_reducible apply frameO_ite | with_reducible apply FrameO.mk' | with_reducible apply FrameO.none_
    | dsimp only [id_eq] | fail_if_no_progress ((with_reducible apply frame_cfg (hm := sub_trans rfl hm)))

theorem publishFw_frame (c : Latched) (status : ℕ) (resp : Bytes) (h : Frame m a s) (hm : sub [.cfg] m = true) : Frame m a (publishFw c status resp s) := by
  unfold publishFw
  repeat' first
    | with_reducible assumption | dsimp only [id_eq] | fail_if_no_progress ((with_reducible apply frame_cfg (hm := sub_trans rfl hm)))

theorem execImmediateCommandComplete_frame  (h : Frame m a s) (hm : sub [.cfg] m = true) : FrameR m a (execImmediateCommandComplete s) := by
  unfold execImmediateCommandComplete
  repeat' first
    | with_reducible assumption | with_reducible apply publishFw_frame | split | with_reducible apply FrameR.mk'

/-! ## Machine/Gate.lean -/

theorem svcAnswer_frame (a_ : SvcAnswer) (h : Frame m a s) (hm : sub [.svc] m = true) : Frame m a (svcAnswer a_ s) := by
  unfold svcAnswer
  repeat' first
    | with_reducible assumption | dsimp only [id_eq] | fail_if_no_progress ((with_reducible apply frame_svc (hm := sub_trans rfl hm)))

theorem svcBad_frame  (h : Frame m a s) (hm : sub [.svc] m = true) : Frame m a (svcBad s) := by
  unfold svcBad
  repeat' first
    | with_reducible assumption | dsimp only [id_eq] | fail_if_no_progress ((with_reducible apply frame_svc (hm := sub_trans rfl hm)))

theorem svcForeign_frame  (h : Frame m a s) (hm : sub [.svc] m = true) : Frame m a (svcForeign s) := by
  unfold svcForeign
  repeat' first
    | with_reducible assumption | dsimp only [id_eq] | fail_if_no_progress ((with_reducible apply frame_svc (hm := sub_trans rfl hm)))

theorem svcClaimGate_frame (rid : BitVec 16) (write : Bool) (off : ℕ) (word : optParam Bool true) (h : Frame m a s) (hm : sub [.svc] m = true) : FrameP m a (svcClaimGate rid write off s word) := by
  unfold svcClaimGate
  repeat' first
    | with_reducible assumption | intro _ | exact sub_trans rfl hm | with_reducible apply svcAnswer_frame | with_reducible apply svcForeign_frame
    | with_reducible apply svcBad_frame | with_reducible apply frame_ite | with_reducible apply frameP_ite | split | with_reducible apply FrameP.mk'
    | dsimp only [id_eq]

theorem writerGate_frame (who : Writer) (off : ℕ) (act : State → State) (hact : ∀ y0, Frame m a y0 → Frame m a (act y0)) (h : Frame m a s) (hm : sub [.svc] m = true) : Frame m a (writerGate who off s act) := by
  unfold writerGate
  repeat' first
    | with_reducible assumption | intro _ | exact sub_trans rfl hm | with_reducible apply svcClaimGate_frame | with_reducible apply svcAnswer_frame
    | with_reducible apply hact | ((with_reducible apply Frame.out); with_reducible assumption) | with_reducible apply frame_ite
    | with_reducible apply frameP_ite | split | ((with_reducible apply FrameP.snd); with_reducible apply svcClaimGate_frame)
    | with_reducible apply FrameP.mk' | dsimp only [id_eq]

/-! ## Machine/Settings.lean -/

theorem putWeir_frame (p : ℕ) (w : Weir) (h : Frame m a s) (hm : sub [.traffic] m = true) : Frame m a (putWeir p w s) := by
  unfold putWeir
  repeat' first
    | with_reducible assumption | intro _ | exact sub_trans rfl hm | with_reducible apply frame_foldl | with_reducible apply frame_ite | split
    | dsimp only [id_eq] | fail_if_no_progress ((with_reducible apply frame_traffic (hm := sub_trans rfl hm)))

theorem setInvalid_frame  (h : Frame m a s) (hm : sub [.catchment, .log] m = true) : Frame m a (setInvalid s) := by
  unfold setInvalid
  repeat' first
    | with_reducible assumption | with_reducible apply raise_frame

theorem commitWeir_frame (p : ℕ) (w0 : ℕ) (h : Frame m a s) (hm : sub [.catchment, .log, .traffic] m = true) : Frame m a (commitWeir p w0 s) := by
  unfold commitWeir
  repeat' first
    | with_reducible assumption | intro _ | exact sub_trans rfl hm | with_reducible apply putWeir_frame | with_reducible apply setInvalid_frame
    | with_reducible apply raise_frame | with_reducible apply frame_ite | split | dsimp only [id_eq]

theorem settingWrite_frame (rid : BitVec 16) (off : ℕ) (act : State → State) (hact : ∀ y0, Frame m a y0 → Frame m a (act y0)) (h : Frame m a s) (hm : sub [.svc] m = true) : Frame m a (settingWrite rid off act s) := by
  unfold settingWrite
  repeat' first
    | with_reducible assumption | with_reducible apply writerGate_frame

theorem execTrafficWeirCommit_frame (rid : BitVec 16) (p : Fin 64) (word0 : BitVec 32) (h : Frame m a s) (hm : sub [.svc, .catchment, .log, .traffic] m = true) : FrameR m a (execTrafficWeirCommit rid p word0 s) := by
  unfold execTrafficWeirCommit
  repeat' first
    | with_reducible assumption | intro _ | exact sub_trans rfl hm | with_reducible apply settingWrite_frame | with_reducible apply commitWeir_frame
    | with_reducible apply FrameR.mk'

theorem putMeter_frame (k : ℕ) (m_ : Meter) (h : Frame m a s) (hm : sub [.traffic] m = true) : Frame m a (putMeter k m_ s) := by
  unfold putMeter
  repeat' first
    | with_reducible assumption | intro _ | exact sub_trans rfl hm | with_reducible apply frame_foldl | with_reducible apply frame_ite | split
    | dsimp only [id_eq] | fail_if_no_progress ((with_reducible apply frame_traffic (hm := sub_trans rfl hm)))

theorem commitMeter_frame (k : ℕ) (w0 : ℕ) (h : Frame m a s) (hm : sub [.catchment, .log, .traffic] m = true) : Frame m a (commitMeter k w0 s) := by
  unfold commitMeter
  repeat' first
    | with_reducible assumption | exact sub_trans rfl hm | with_reducible apply setInvalid_frame | with_reducible apply putMeter_frame | split
    | dsimp only [id_eq] | fail_if_no_progress ((with_reducible apply frame_traffic (hm := sub_trans rfl hm)))

theorem execTrafficMeterCommit_frame (rid : BitVec 16) (slot : Fin 1024) (word0 : BitVec 32) (h : Frame m a s) (hm : sub [.svc, .catchment, .log, .traffic] m = true) : FrameR m a (execTrafficMeterCommit rid slot word0 s) := by
  unfold execTrafficMeterCommit
  repeat' first
    | with_reducible assumption | intro _ | exact sub_trans rfl hm | with_reducible apply settingWrite_frame | with_reducible apply commitMeter_frame
    | with_reducible apply FrameR.mk'

theorem commitEq_frame (q : ℕ) (w0 : ℕ) (h : Frame m a s) (hm : sub [.catchment, .log, .jx] m = true) : Frame m a (commitEq q w0 s) := by
  unfold commitEq
  repeat' first
    | with_reducible assumption | exact sub_trans rfl hm | with_reducible apply setInvalid_frame | split | dsimp only [id_eq]
    | fail_if_no_progress ((with_reducible apply frame_jx (hm := sub_trans rfl hm)))

theorem execTrafficEqCommit_frame (rid : BitVec 16) (q : Fin 1024) (word0 : BitVec 32) (h : Frame m a s) (hm : sub [.svc, .catchment, .log, .jx] m = true) : FrameR m a (execTrafficEqCommit rid q word0 s) := by
  unfold execTrafficEqCommit
  repeat' first
    | with_reducible assumption | intro _ | exact sub_trans rfl hm | with_reducible apply settingWrite_frame | with_reducible apply commitEq_frame
    | with_reducible apply FrameR.mk'

/-! ## Machine/Tenants.lean -/

theorem setKey_frame (k : ℕ) (x : KeySlot) (h : Frame m a s) (hm : sub [.key] m = true) : Frame m a (setKey k x s) := by
  unfold setKey
  repeat' first
    | with_reducible assumption | fail_if_no_progress ((with_reducible apply frame_key (hm := sub_trans rfl hm)))

theorem blobKey_frame (ad : Bytes) (blob : Bytes) (h : Frame m a s) (hm : sub [.catchment, .log] m = true) : FrameP m a (blobKey ad blob s) := by
  unfold blobKey
  repeat' first
    | with_reducible assumption | intro _ | with_reducible apply raise_frame | with_reducible apply frameP_ite | split
    | with_reducible apply FrameP.mk'

theorem zeroCounters_frame (k : ℕ) (h : Frame m a s) (hm : sub [.cnt] m = true) : Frame m a (zeroCounters k s) := by
  unfold zeroCounters
  repeat' first
    | with_reducible assumption | fail_if_no_progress ((with_reducible apply frame_cnt (hm := sub_trans rfl hm)))

theorem fillSlot_frame (k : ℕ) (b_ : Bytes) (link : Option (BitVec 256)) (h : Frame m a s) (hm : sub [.key, .free] m = true) : Frame m a (fillSlot k b_ link s) := by
  unfold fillSlot
  repeat' first
    | with_reducible assumption | exact sub_trans rfl hm | with_reducible apply setKey_frame
    | ((with_reducible apply FrameP.snd); with_reducible apply takeFree_frame)

theorem openTenantWindows_frame (tenant : ℕ) (count : ℕ) (h : Frame m a s) (hm : sub [.cnt, .mem, .sto, .slu] m = true) : FrameOQ m a (openTenantWindows tenant count s) := by
  unfold openTenantWindows
  repeat' first
    | with_reducible assumption | with_reducible apply openWindow_frame | ((with_reducible apply Frame.outOP); with_reducible assumption) | split
    | with_reducible apply FrameOQ.mk' | with_reducible apply FrameOQ.none_

theorem admitInto_frame (b_ : Bytes) (link : Option (BitVec 256)) (h : Frame m a s) (hm : sub [.cnt, .mem, .sto, .key, .slu, .traffic, .free] m = true) : FrameQ m a (admitInto b_ link s) := by
  unfold admitInto
  repeat' first
    | with_reducible assumption | exact sub_trans rfl hm | with_reducible apply openTenantWindows_frame | with_reducible apply fillSlot_frame
    | with_reducible apply count_frame | with_reducible apply zeroCounters_frame | ((with_reducible apply Frame.outOQ); with_reducible assumption)
    | split | with_reducible apply FrameQ.mk' | dsimp only [id_eq]
    | fail_if_no_progress ((with_reducible apply frame_traffic (hm := sub_trans rfl hm)))

theorem refuseSlot_frame (tenant : ℕ) (k : ℕ) (op : ℕ) (h : Frame m a s) (hm : sub [.catchment, .log, .cnt] m = true) : Frame m a (refuseSlot tenant k op s) := by
  unfold refuseSlot
  repeat' first
    | with_reducible assumption | intro _ | exact sub_trans rfl hm | with_reducible apply refuseC_frame | dsimp only [id_eq]

theorem admitDo_frame (b_ : Bytes) (h : Frame m a s) (hm : sub [.catchment, .log, .cnt, .mem, .sto, .key, .slu, .traffic, .free] m = true) : FrameQ m a (admitDo b_ s) := by
  unfold admitDo
  repeat' first
    | with_reducible assumption | intro _ | exact sub_trans rfl hm | with_reducible apply refuseSlot_frame | with_reducible apply blobKey_frame
    | with_reducible apply admitInto_frame | ((with_reducible apply Frame.out); with_reducible assumption) | with_reducible apply frameQ_ite | split
    | with_reducible apply FrameQ.mk'

theorem execTenantAdmit_frame  (h : Frame m a s) (hm : sub [.cfg, .catchment, .log, .cnt, .mem, .sto, .key, .slu, .traffic, .free] m = true) : FrameR m a (execTenantAdmit s) := by
  unfold execTenantAdmit
  repeat' first
    | with_reducible assumption | intro _ | exact sub_trans rfl hm | with_reducible apply fwRun_frame | with_reducible apply answerFw_frame
    | ((with_reducible apply FrameQ.snd); with_reducible apply admitDo_frame) | with_reducible apply FrameR.mk'

theorem setKeys_frame (p0 : KeyHolder) (x : LinkKeys) (h : Frame m a s) (hm : sub [.key, .sec] m = true) : Frame m a (setKeys p0 x s) := by
  unfold setKeys
  repeat' first
    | with_reducible assumption | exact sub_trans rfl hm | with_reducible apply setKey_frame | split | dsimp only [id_eq]
    | fail_if_no_progress ((with_reducible apply frame_sec (hm := sub_trans rfl hm)))

theorem keyPending_frame (p0 : KeyHolder) (b_ : Bytes) (key : BitVec 256) (h : Frame m a s) (hm : sub [.key, .sec] m = true) : Frame m a (keyPending p0 b_ key s) := by
  unfold keyPending
  repeat' first
    | with_reducible assumption | with_reducible apply setKeys_frame

theorem installInto_frame (p0 : KeyHolder) (tenant : ℕ) (k : ℕ) (b_ : Bytes) (h : Frame m a s) (hm : sub [.catchment, .log, .cnt, .key, .sec] m = true) : FrameP m a (installInto p0 tenant k b_ s) := by
  unfold installInto
  repeat' first
    | with_reducible assumption | intro _ | exact sub_trans rfl hm | with_reducible apply refuseSlot_frame | with_reducible apply blobKey_frame
    | with_reducible apply keyPending_frame | ((with_reducible apply Frame.out); with_reducible assumption) | with_reducible apply frameP_ite | split
    | with_reducible apply FrameP.mk'

theorem keyInstallDo_frame (b_ : Bytes) (h : Frame m a s) (hm : sub [.catchment, .log, .cnt, .key, .sec] m = true) : FrameP m a (keyInstallDo b_ s) := by
  unfold keyInstallDo
  repeat' first
    | with_reducible assumption | intro _ | exact sub_trans rfl hm | with_reducible apply installInto_frame | with_reducible apply refuseSlot_frame
    | with_reducible apply frameP_ite | split | with_reducible apply FrameP.mk'

theorem execKeyInstall_frame  (h : Frame m a s) (hm : sub [.cfg, .catchment, .log, .cnt, .key, .sec] m = true) : FrameR m a (execKeyInstall s) := by
  unfold execKeyInstall
  repeat' first
    | with_reducible assumption | intro _ | exact sub_trans rfl hm | with_reducible apply fwRun_frame | with_reducible apply answerFw_frame
    | ((with_reducible apply FrameP.snd); with_reducible apply keyInstallDo_frame) | with_reducible apply FrameR.mk'

theorem execKeyActivate_frame (holder : KeyHolder) (h : Frame m a s) (hm : sub [.key, .sec] m = true) : FrameR m a (execKeyActivate holder s) := by
  unfold execKeyActivate
  repeat' first
    | with_reducible assumption | intro _ | exact sub_trans rfl hm | with_reducible apply setKeys_frame | with_reducible apply setKey_frame
    | with_reducible apply frame_ite | split | with_reducible apply FrameR.mk' | dsimp only [id_eq]

theorem execKeyPreviousDrop_frame (holder : KeyHolder) (h : Frame m a s) (hm : sub [.key, .sec] m = true) : FrameR m a (execKeyPreviousDrop holder s) := by
  unfold execKeyPreviousDrop
  repeat' first
    | with_reducible assumption | intro _ | with_reducible apply setKeys_frame | with_reducible apply frame_ite | split
    | with_reducible apply FrameR.mk' | dsimp only [id_eq]

theorem execKeyAge_frame (slot : Fin 1024) (h : Frame m a s) (hm : sub [.key] m = true) : FrameR m a (execKeyAge slot s) := by
  unfold execKeyAge
  repeat' first
    | with_reducible assumption | intro _ | with_reducible apply setKey_frame | with_reducible apply frame_ite | split
    | with_reducible apply FrameR.mk' | dsimp only [id_eq]

theorem removeDo_frame (tenant : ℕ) (h : Frame m a s) (hm : sub [.key] m = true) : FrameS m a (removeDo tenant s) := by
  unfold removeDo
  repeat' first
    | with_reducible assumption | with_reducible apply setKey_frame | split | with_reducible apply FrameS.mk' | with_reducible apply FrameS.inl

theorem execTenantRemove_frame  (h : Frame m a s) (hm : sub [.cfg, .key] m = true) : FrameR m a (execTenantRemove s) := by
  unfold execTenantRemove
  repeat' first
    | with_reducible assumption | intro _ | exact sub_trans rfl hm | with_reducible apply fwRun_frame | with_reducible apply removeDo_frame
    | with_reducible apply answerFw_frame | with_reducible apply acceptDeferred_frame | ((with_reducible apply Frame.outS); with_reducible assumption)
    | ((with_reducible apply Frame.outO); with_reducible assumption) | split | with_reducible apply FrameR.mk'

theorem retireActs_frame (tenant : ℕ) (h : Frame m a s) (hm : sub [.catchment, .log, .cnt, .dir, .chan, .prog, .jx, .slu, .datum] m = true) : Frame m a (retireActs tenant s) := by
  unfold retireActs
  repeat' first
    | with_reducible assumption | intro _ | exact sub_trans rfl hm | with_reducible apply cancelEntry_frame | with_reducible apply startDrainWin_frame
    | with_reducible apply releaseSeq_frame | with_reducible apply frame_foldl
    | fail_if_no_progress ((with_reducible apply frame_prog (hm := sub_trans rfl hm)))

theorem execTenantRetire_frame (slot : Fin 1024) (h : Frame m a s) (hm : sub [.catchment, .log, .cnt, .dir, .chan, .prog, .key, .jx, .slu, .datum] m = true) : FrameR m a (execTenantRetire slot s) := by
  unfold execTenantRetire
  repeat' first
    | with_reducible assumption | intro _ | exact sub_trans rfl hm | with_reducible apply retireActs_frame | with_reducible apply setKey_frame
    | with_reducible apply frame_ite | split | with_reducible apply FrameR.mk' | dsimp only [id_eq]

theorem endRemoves_frame (k : ℕ) (p1 : List Deferred) (h : Frame m a s) (hm : sub [.cfg] m = true) : Frame m a (endRemoves k p1 s) := by
  induction p1 generalizing s with
  | nil =>
    unfold endRemoves
    repeat' first
      | with_reducible assumption
  | cons _ _ ih =>
    unfold endRemoves
    repeat' first
      | with_reducible assumption | intro _ | (apply ih) | with_reducible apply deferredEnd_frame | with_reducible apply frame_ite

theorem execTenantZeroise_frame (slot : Fin 1024) (h : Frame m a s) (hm : sub [.cfg, .key, .traffic] m = true) : FrameR m a (execTenantZeroise slot s) := by
  unfold execTenantZeroise
  repeat' first
    | with_reducible assumption | intro _ | exact sub_trans rfl hm | with_reducible apply setKey_frame | with_reducible apply putMeter_frame
    | with_reducible apply endRemoves_frame | with_reducible apply frame_ite | split | with_reducible apply FrameR.mk' | dsimp only [id_eq]
    | fail_if_no_progress ((with_reducible apply frame_traffic (hm := sub_trans rfl hm)))

theorem execSealedScrub_frame (r : Fin 16) (ok : Bool) (h : Frame m a s) (hm : sub [.pwr, .cfg, .catchment, .log, .cnt, .tier, .mem, .sto, .dir, .chan, .work, .prog, .req, .jx, .slu, .datum, .dma] m = true) : FrameR m a (execSealedScrub r ok s) := by
  unfold execSealedScrub
  repeat' first
    | with_reducible assumption | intro _ | exact sub_trans rfl hm | with_reducible apply fencePort_frame | with_reducible apply frame_ite | split
    | with_reducible apply FrameR.mk' | with_reducible apply FrameR.fault | dsimp only [id_eq]
    | fail_if_no_progress ((with_reducible apply frame_mem (hm := sub_trans rfl hm)))
    | fail_if_no_progress ((with_reducible apply frame_sto (hm := sub_trans rfl hm)))
    | fail_if_no_progress ((with_reducible apply frame_mem_sto (hm := sub_trans rfl hm)))

/-! ## Machine/Attest.lean -/

theorem nvmProgram_frame (o : ℕ) (bs : Bytes) (h : Frame m a s) (hm : sub [.mem] m = true) : Frame m a (nvmProgram o bs s) := by
  unfold nvmProgram
  repeat' first
    | with_reducible assumption | dsimp only [id_eq] | fail_if_no_progress ((with_reducible apply frame_mem (hm := sub_trans rfl hm)))

theorem nvmErase_frame (o : ℕ) (h : Frame m a s) (hm : sub [.mem] m = true) : Frame m a (nvmErase o s) := by
  unfold nvmErase
  repeat' first
    | with_reducible assumption | with_reducible apply nvmProgram_frame

theorem execNvmRead_frame  (h : Frame m a s) (hm : sub [.cfg] m = true) : FrameR m a (execNvmRead s) := by
  unfold execNvmRead
  repeat' first
    | with_reducible assumption | intro _ | with_reducible apply fwRun_frame | with_reducible apply answerFw_frame | with_reducible apply frame_ite
    | with_reducible apply FrameR.mk'

theorem execNvmWrite_frame (h : Frame m a s) (hm : sub [.cfg, .mem] m = true) : FrameR m a (execNvmWrite s) := by
  unfold execNvmWrite
  repeat' first
    | with_reducible assumption | intro _ | exact sub_trans rfl hm | with_reducible apply fwRun_frame | with_reducible apply answerFw_frame
    | with_reducible apply nvmProgram_frame | with_reducible apply nvmErase_frame | with_reducible apply frame_foldl | with_reducible apply frame_ite
    | split | with_reducible apply FrameR.mk' | with_reducible apply FrameR.fault | dsimp only [id_eq]

theorem sigBoot_frame  (h : Frame m a s) (hm : sub [.sec] m = true) : Frame m a (sigBoot s) := by
  unfold sigBoot
  repeat' first
    | with_reducible assumption | split | dsimp only [id_eq] | fail_if_no_progress ((with_reducible apply frame_sec (hm := sub_trans rfl hm)))

theorem sigAppend_frame (h : Frame m a s) (hm : sub [.mem] m = true) : Frame m a (sigAppend s) := by
  unfold sigAppend
  repeat' first
    | with_reducible assumption | intro _ | exact sub_trans rfl hm | with_reducible apply nvmProgram_frame | dsimp only [id_eq]

theorem sigErase_frame (k : ℕ) (h : Frame m a s) (hm : sub [.mem] m = true) : Frame m a (sigErase k s) := by
  unfold sigErase
  repeat' first
    | with_reducible assumption | intro _ | exact sub_trans rfl hm | with_reducible apply nvmErase_frame | with_reducible apply frame_ite | split
    | dsimp only [id_eq]

theorem reserveKey_frame (readBack : Bool) (h : Frame m a s) (hm : sub [.catchment, .log, .mem, .sec] m = true) : FrameP m a (reserveKey readBack s) := by
  unfold reserveKey
  repeat' first
    | with_reducible assumption | intro _ | exact sub_trans rfl hm | with_reducible apply raise_frame | with_reducible apply sigAppend_frame
    | with_reducible apply sigErase_frame | with_reducible apply frame_ite | with_reducible apply frameP_ite | split | with_reducible apply FrameP.mk'
    | dsimp only [id_eq] | fail_if_no_progress ((with_reducible apply frame_sec (hm := sub_trans rfl hm)))

theorem execHssTreeBuild_frame (tree : Fin 32768) (h : Frame m a s) (hm : sub [.sec] m = true) : FrameR m a (execHssTreeBuild tree s) := by
  unfold execHssTreeBuild
  repeat' first
    | with_reducible assumption | intro _ | with_reducible apply frame_ite | split | with_reducible apply FrameR.mk' | dsimp only [id_eq]
    | fail_if_no_progress ((with_reducible apply frame_sec (hm := sub_trans rfl hm)))

theorem attestSign_frame (k : ℕ) (nonce : Bytes) (h : Frame m a s) (hm : sub [.sec] m = true) : FrameP m a (attestSign k nonce s) := by
  unfold attestSign
  repeat' first
    | with_reducible assumption | with_reducible apply FrameP.mk' | dsimp only [id_eq]
    | fail_if_no_progress ((with_reducible apply frame_sec (hm := sub_trans rfl hm)))

theorem execAttest_frame (readBack : Bool) (h : Frame m a s) (hm : sub [.cfg, .catchment, .log, .mem, .sec] m = true) : FrameR m a (execAttest readBack s) := by
  unfold execAttest
  repeat' first
    | with_reducible assumption | intro _ | exact sub_trans rfl hm | with_reducible apply fwRun_frame | with_reducible apply answerFw_frame
    | with_reducible apply reserveKey_frame | with_reducible apply attestSign_frame | ((with_reducible apply Frame.out); with_reducible assumption)
    | with_reducible apply frame_ite | with_reducible apply frameP_ite | split
    | ((with_reducible apply FrameP.snd); with_reducible apply reserveKey_frame)
    | ((with_reducible apply FrameP.snd); with_reducible apply attestSign_frame) | with_reducible apply FrameR.mk' | with_reducible apply FrameR.fault
    | with_reducible apply FrameP.mk' | dsimp only [id_eq]

theorem execAttestBases_frame  (h : Frame m a s) (hm : sub [.cfg] m = true) : FrameR m a (execAttestBases s) := by
  unfold execAttestBases
  repeat' first
    | with_reducible assumption | intro _ | with_reducible apply fwRun_frame | with_reducible apply answerFw_frame | with_reducible apply frame_ite
    | split | with_reducible apply FrameR.mk' | dsimp only [id_eq]

theorem execBaseListDiscard_frame (tenant : BitVec 12) (h : Frame m a s) (hm : sub [.sec] m = true) : FrameR m a (execBaseListDiscard tenant s) := by
  unfold execBaseListDiscard
  repeat' first
    | with_reducible assumption | split | with_reducible apply FrameR.mk' | dsimp only [id_eq]
    | fail_if_no_progress ((with_reducible apply frame_sec (hm := sub_trans rfl hm)))

theorem execSvnCommit_frame  (h : Frame m a s) (hm : sub [.cfg, .fuse] m = true) : FrameR m a (execSvnCommit s) := by
  unfold execSvnCommit
  repeat' first
    | with_reducible assumption | intro _ | exact sub_trans rfl hm | with_reducible apply fwRun_frame | with_reducible apply answerFw_frame
    | with_reducible apply FrameR.mk' | dsimp only [id_eq] | fail_if_no_progress ((with_reducible apply frame_fuse (hm := sub_trans rfl hm)))

/-! ## Machine/Clocks.lean -/

theorem movePoint_frame (r : ℕ) (k : ℕ) (h : Frame m a s) (hm : sub [.rgn] m = true) : Frame m a (movePoint r k s) := by
  unfold movePoint
  repeat' first
    | with_reducible assumption | intro _ | with_reducible apply setRgn_frame | with_reducible apply frame_ite

theorem setRgnSearch_frame (r : ℕ) (g : Rgn) (h : Frame m a s) (hm : sub [.catchment, .log, .rgn] m = true) : Frame m a (setRgnSearch r g s) := by
  unfold setRgnSearch
  repeat' first
    | with_reducible assumption | intro _ | exact sub_trans rfl hm | with_reducible apply setRgn_frame | with_reducible apply raise_frame
    | with_reducible apply frame_ite

theorem setPair_frame (n : ℕ) (p : Pair) (h : Frame m a s) (hm : sub [.pair] m = true) : Frame m a (setPair n p s) := by
  unfold setPair
  repeat' first
    | with_reducible assumption | fail_if_no_progress ((with_reducible apply frame_pair (hm := sub_trans rfl hm)))

theorem skewRecord_frame (n : ℕ) (q : ℕ) (h : Frame m a s) (hm : sub [.log] m = true) : Frame m a (skewRecord n q s) := by
  unfold skewRecord
  repeat' first
    | with_reducible assumption | with_reducible apply logRecord_frame

theorem markAction_frame (n : ℕ) (q : ℕ) (h : Frame m a s) (hm : sub [.pair] m = true) : Frame m a (markAction n q s) := by
  unfold markAction
  repeat' first
    | with_reducible assumption | intro _ | with_reducible apply setPair_frame | with_reducible apply frame_ite

theorem applyClamp_frame (c : Clamps) (r : ℕ) (h : Frame m a s) (hm : sub [.log, .rgn, .pair] m = true) : Frame m a (applyClamp c s r) := by
  unfold applyClamp
  repeat' first
    | with_reducible assumption | exact sub_trans rfl hm | with_reducible apply markAction_frame | with_reducible apply skewRecord_frame
    | with_reducible apply setRgn_frame | with_reducible apply movePoint_frame | split | dsimp only [id_eq]

theorem searchAction_frame (n : ℕ) (h : Frame m a s) (hm : sub [.catchment, .log, .rgn, .pair] m = true) : Frame m a (searchAction s n) := by
  unfold searchAction
  repeat' first
    | with_reducible assumption | intro _ | exact sub_trans rfl hm | with_reducible apply setRgnSearch_frame | with_reducible apply markAction_frame
    | with_reducible apply skewRecord_frame | with_reducible apply frame_ite

theorem clampPass_frame (r0 : ℕ) (h : Frame m a s) (hm : sub [.catchment, .log, .rgn, .pair] m = true) : Frame m a (clampPass r0 s) := by
  unfold clampPass
  repeat' first
    | with_reducible assumption | intro _ | exact sub_trans rfl hm | with_reducible apply applyClamp_frame | with_reducible apply searchAction_frame
    | with_reducible apply frame_foldl

theorem execSkewClampApply_frame (r : Fin 16) (h : Frame m a s) (hm : sub [.catchment, .log, .rgn, .pair] m = true) : FrameR m a (execSkewClampApply r s) := by
  unfold execSkewClampApply
  repeat' first
    | with_reducible assumption | with_reducible apply clampPass_frame | split | with_reducible apply FrameR.mk'

theorem execDvfsPointChange_frame (r : Fin 16) (point : Fin 35) (h : Frame m a s) (hm : sub [.catchment, .log, .rgn, .pair] m = true) : FrameR m a (execDvfsPointChange r point s) := by
  unfold execDvfsPointChange
  repeat' first
    | with_reducible assumption | intro _ | exact sub_trans rfl hm | with_reducible apply setRgn_frame | with_reducible apply clampPass_frame
    | with_reducible apply movePoint_frame | with_reducible apply frame_ite | with_reducible apply FrameR.mk'

theorem noteSensor_frame (n : ℕ) (t : ℕ) (h : Frame m a s) (hm : sub [.rgn, .cap] m = true) : Frame m a (noteSensor n t s) := by
  unfold noteSensor
  repeat' first
    | with_reducible assumption | intro _ | exact sub_trans rfl hm | with_reducible apply setRgn_frame | with_reducible apply frame_ite | split
    | dsimp only [id_eq] | fail_if_no_progress ((with_reducible apply frame_cap (hm := sub_trans rfl hm)))

theorem compareTemp_frame (n : ℕ) (h : Frame m a s) (hm : sub [.catchment, .pair] m = true) : Frame m a (compareTemp n s) := by
  unfold compareTemp
  repeat' first
    | with_reducible assumption | intro _ | exact sub_trans rfl hm | with_reducible apply setAndFire_frame | with_reducible apply setPair_frame
    | with_reducible apply frame_ite

theorem releaseSearch_frame (r : ℕ) (h : Frame m a s) (hm : sub [.catchment, .log, .rgn] m = true) : Frame m a (releaseSearch r s) := by
  unfold releaseSearch
  repeat' first
    | with_reducible assumption | intro _ | with_reducible apply setRgnSearch_frame | with_reducible apply frame_ite

theorem execThermalSample_frame (r : Fin 16) (readings : Vector (BitVec 10) 8) (h : Frame m a s) (hm : sub [.catchment, .log, .rgn, .pair] m = true) : FrameR m a (execThermalSample r readings s) := by
  unfold execThermalSample
  repeat' first
    | with_reducible assumption | intro _ | exact sub_trans rfl hm | with_reducible apply setRgnSearch_frame | with_reducible apply raise_frame
    | with_reducible apply compareTemp_frame | with_reducible apply releaseSearch_frame | with_reducible apply frame_foldl
    | with_reducible apply frame_ite | split | with_reducible apply FrameR.mk' | with_reducible apply FrameR.fault | dsimp only [id_eq]

theorem execSideLinkCompare_frame (pair : Fin 15) (mvLow : ℕ) (mvHigh : ℕ) (h : Frame m a s) (hm : sub [.catchment, .pair] m = true) : FrameR m a (execSideLinkCompare pair mvLow mvHigh s) := by
  unfold execSideLinkCompare
  repeat' first
    | with_reducible assumption | intro _ | exact sub_trans rfl hm | with_reducible apply setPair_frame | with_reducible apply setAndFire_frame
    | with_reducible apply frame_ite | with_reducible apply FrameR.mk'

theorem supplyFault_frame (r : ℕ) (h : Frame m a s) (hm : sub [.pwr, .cfg, .catchment, .log, .cnt, .barrier, .rgn, .node, .ctl, .mem, .sto, .dir, .chan, .work, .prog, .installs, .req, .jx, .slu, .datum, .dma] m = true) : Frame m a (supplyFault r s) := by
  unfold supplyFault
  repeat' first
    | with_reducible assumption | intro _ | exact sub_trans rfl hm | with_reducible apply raise_frame | with_reducible apply fenceRegion_frame
    | with_reducible apply frame_ite

theorem execSupplySkewTimeout_frame (pair : Fin 15) (h : Frame m a s) (hm : sub [.pwr, .cfg, .catchment, .log, .cnt, .barrier, .rgn, .node, .ctl, .mem, .sto, .dir, .chan, .work, .prog, .installs, .req, .jx, .slu, .datum, .dma] m = true) : FrameR m a (execSupplySkewTimeout pair s) := by
  unfold execSupplySkewTimeout
  repeat' first
    | with_reducible assumption | intro _ | with_reducible apply supplyFault_frame | with_reducible apply frame_ite | with_reducible apply FrameR.mk'

theorem execClampReleaseStep_frame (r : Fin 16) (h : Frame m a s) (hm : sub [.rgn] m = true) : FrameR m a (execClampReleaseStep r s) := by
  unfold execClampReleaseStep
  repeat' first
    | with_reducible assumption | intro _ | with_reducible apply movePoint_frame | with_reducible apply setRgn_frame | with_reducible apply frame_ite
    | with_reducible apply FrameR.mk'

theorem capStep_frame (r : ℕ) (h : Frame m a s) (hm : sub [.rgn] m = true) : Frame m a (capStep s r) := by
  unfold capStep
  repeat' first
    | with_reducible assumption | intro _ | with_reducible apply movePoint_frame | with_reducible apply setRgn_frame | with_reducible apply frame_ite

theorem execPowerMeasure_frame (watts : ℕ) (h : Frame m a s) (hm : sub [.catchment, .log, .rgn, .pair, .cap] m = true) : FrameR m a (execPowerMeasure watts s) := by
  unfold execPowerMeasure
  repeat' first
    | with_reducible assumption | intro _ | exact sub_trans rfl hm | with_reducible apply raise_frame | with_reducible apply clampPass_frame
    | with_reducible apply capStep_frame | with_reducible apply Frame.getD | with_reducible apply frame_foldl | with_reducible apply frameO_map
    | with_reducible apply frameOP_map | with_reducible apply frameOQ_map | with_reducible apply frame_ite | split | with_reducible apply FrameR.mk'
    | with_reducible apply FrameR.fault | dsimp only [id_eq] | fail_if_no_progress ((with_reducible apply frame_cap (hm := sub_trans rfl hm)))

theorem idleTick_frame (h : Frame m a s) (hm : sub [.bmk, .rgn] m = true) : Frame m a (idleTick s) := by
  unfold idleTick
  repeat' first
    | with_reducible assumption | intro _ | exact sub_trans rfl hm | with_reducible apply tick_frame | with_reducible apply markBusy_frame
    | with_reducible apply frame_foldl | with_reducible apply frame_ite | split | dsimp only [id_eq]

theorem execQuietGate_frame (r : Fin 16) (h : Frame m a s) (hm : sub [.rgn] m = true) : FrameR m a (execQuietGate r s) := by
  unfold execQuietGate
  repeat' first
    | with_reducible assumption | intro _ | exact sub_trans rfl hm | with_reducible apply movePoint_frame | with_reducible apply setRgn_frame
    | with_reducible apply Frame.getD | with_reducible apply frameO_map | with_reducible apply frameOP_map | with_reducible apply frameOQ_map
    | with_reducible apply frame_ite | split | with_reducible apply FrameR.mk' | with_reducible apply FrameR.fault | dsimp only [id_eq]

theorem startWaiting_frame (c : ℕ) (h : Frame m a s) (hm : sub [.catchment, .log, .rgn, .dma] m = true) : Frame m a (startWaiting s c) := by
  unfold startWaiting
  repeat' first
    | with_reducible assumption | intro _ | exact sub_trans rfl hm | with_reducible apply dmaBegin_frame | with_reducible apply setDma_frame
    | with_reducible apply frame_ite

theorem ungateRgn_frame (r : ℕ) (h : Frame m a s) (hm : sub [.catchment, .log, .cnt, .rgn, .pair, .dma] m = true) : Frame m a (ungateRgn r s) := by
  unfold ungateRgn
  repeat' first
    | with_reducible assumption | intro _ | exact sub_trans rfl hm | with_reducible apply setRgn_frame | with_reducible apply count_frame
    | with_reducible apply startWaiting_frame | with_reducible apply clampPass_frame | with_reducible apply frame_foldl
    | with_reducible apply frame_ite | split | dsimp only [id_eq]

theorem execQuietUngate_frame (r : Fin 16) (h : Frame m a s) (hm : sub [.catchment, .log, .cnt, .rgn, .pair, .dma] m = true) : FrameR m a (execQuietUngate r s) := by
  unfold execQuietUngate
  repeat' first
    | with_reducible assumption | intro _ | exact sub_trans rfl hm | with_reducible apply ungateRgn_frame | with_reducible apply frameO_bind
    | with_reducible apply frameOP_bind | with_reducible apply frame_ite | split | with_reducible apply FrameR.mk' | with_reducible apply FrameR.fault
    | dsimp only [id_eq]

theorem execSupplyRampEnd_frame (r : Fin 16) (h : Frame m a s) (hm : sub [.catchment, .log, .cnt, .rgn, .pair, .dma] m = true) : FrameR m a (execSupplyRampEnd r s) := by
  unfold execSupplyRampEnd
  repeat' first
    | with_reducible assumption | intro _ | exact sub_trans rfl hm | with_reducible apply ungateRgn_frame | with_reducible apply setRgn_frame
    | with_reducible apply frame_ite | split | with_reducible apply FrameR.mk' | with_reducible apply FrameR.fault | dsimp only [id_eq]

/-! ## Machine/Catch.lean -/

theorem writeCauseEn_frame (id : ℕ) (v : ℕ) (h : Frame m a s) (hm : sub [.catchment] m = true) : Frame m a (writeCauseEn id v s) := by
  unfold writeCauseEn
  repeat' first
    | with_reducible assumption | intro _ | with_reducible apply fireSource_frame | with_reducible apply frame_ite | dsimp only [id_eq]
    | fail_if_no_progress ((with_reducible apply frame_catchment (hm := sub_trans rfl hm)))

theorem execCauseEnWrite_frame (who : Writer) (src : Fin 163) (value : BitVec 32) (h : Frame m a s) (hm : sub [.svc, .catchment] m = true) : FrameR m a (execCauseEnWrite who src value s) := by
  unfold execCauseEnWrite
  repeat' first
    | with_reducible assumption | intro _ | exact sub_trans rfl hm | with_reducible apply writerGate_frame | with_reducible apply writeCauseEn_frame
    | with_reducible apply FrameR.mk'

theorem execCatchCtrlWrite_frame (who : Writer) (value : BitVec 32) (h : Frame m a s) (hm : sub [.svc, .catchment] m = true) : FrameR m a (execCatchCtrlWrite who value s) := by
  unfold execCatchCtrlWrite
  repeat' first
    | with_reducible assumption | intro _ | exact sub_trans rfl hm | with_reducible apply writerGate_frame | with_reducible apply settle_frame
    | with_reducible apply FrameR.mk' | fail_if_no_progress ((with_reducible apply frame_catchment (hm := sub_trans rfl hm)))

theorem execCatchSrcCfgWrite_frame (who : Writer) (src : Fin 163) (value : BitVec 32) (h : Frame m a s) (hm : sub [.svc, .catchment] m = true) : FrameR m a (execCatchSrcCfgWrite who src value s) := by
  unfold execCatchSrcCfgWrite
  repeat' first
    | with_reducible assumption | intro _ | exact sub_trans rfl hm | with_reducible apply writerGate_frame | with_reducible apply settle_frame | split
    | with_reducible apply FrameR.mk' | fail_if_no_progress ((with_reducible apply frame_catchment (hm := sub_trans rfl hm)))

theorem claimTarget_frame (t : ℕ) (h : Frame m a s) (hm : sub [.catchment] m = true) : Frame m a (claimTarget t s) := by
  unfold claimTarget
  repeat' first
    | with_reducible assumption | with_reducible apply settle_frame | split
    | fail_if_no_progress ((with_reducible apply frame_catchment (hm := sub_trans rfl hm)))

theorem execCatchTgtClaim_frame (who : Writer) (t : Fin 9) (h : Frame m a s) (hm : sub [.svc, .catchment] m = true) : FrameR m a (execCatchTgtClaim who t s) := by
  unfold execCatchTgtClaim
  repeat' first
    | with_reducible assumption | exact sub_trans rfl hm | with_reducible apply claimTarget_frame | with_reducible apply svcClaimGate_frame
    | with_reducible apply svcAnswer_frame | ((with_reducible apply Frame.out); with_reducible assumption) | split | with_reducible apply FrameR.mk'

theorem completeTarget_frame (t : ℕ) (id : ℕ) (h : Frame m a s) (hm : sub [.catchment, .log] m = true) : Frame m a (completeTarget t id s) := by
  unfold completeTarget
  repeat' first
    | with_reducible assumption | intro _ | exact sub_trans rfl hm | with_reducible apply settle_frame | with_reducible apply raise_frame
    | with_reducible apply frame_ite | split | fail_if_no_progress ((with_reducible apply frame_catchment (hm := sub_trans rfl hm)))

theorem execCatchTgtComplete_frame (who : Writer) (t : Fin 9) (id : BitVec 8) (h : Frame m a s) (hm : sub [.svc, .catchment, .log] m = true) : FrameR m a (execCatchTgtComplete who t id s) := by
  unfold execCatchTgtComplete
  repeat' first
    | with_reducible assumption | intro _ | exact sub_trans rfl hm | with_reducible apply completeTarget_frame | with_reducible apply writerGate_frame
    | split | with_reducible apply FrameR.mk'

theorem execCatchOfferTimeout_frame (t : Fin 9) (h : Frame m a s) (hm : sub [.catchment] m = true) : FrameR m a (execCatchOfferTimeout t s) := by
  unfold execCatchOfferTimeout
  repeat' first
    | with_reducible assumption | with_reducible apply settle_frame | split | with_reducible apply FrameR.mk' | dsimp only [id_eq]
    | fail_if_no_progress ((with_reducible apply frame_catchment (hm := sub_trans rfl hm)))

theorem catchTakeover_frame (die : ℕ) (h : Frame m a s) (hm : sub [.catchment] m = true) : Frame m a (catchTakeover die s) := by
  unfold catchTakeover
  repeat' first
    | with_reducible assumption | with_reducible apply settle_frame | split | dsimp only [id_eq]
    | fail_if_no_progress ((with_reducible apply frame_catchment (hm := sub_trans rfl hm)))

/-! ## Machine/Ports.lean -/

theorem execNonJexusFrame_frame (port : Fin 8) (kind : FrameKind) (h : Frame m a s) (hm : sub [.cnt] m = true) : FrameR m a (execNonJexusFrame port kind s) := by
  unfold execNonJexusFrame
  repeat' first
    | with_reducible assumption | with_reducible apply count_frame | split | with_reducible apply FrameR.mk'

theorem setPtp_frame (d : ℕ) (p : Ptp) (h : Frame m a s) (hm : sub [.jx] m = true) : Frame m a (setPtp d p s) := by
  unfold setPtp
  repeat' first
    | with_reducible assumption | dsimp only [id_eq] | fail_if_no_progress ((with_reducible apply frame_jx (hm := sub_trans rfl hm)))

theorem stepTime_frame (offset : Int) (h : Frame m a s) (hm : sub [.bmk, .jx] m = true) : Frame m a (stepTime offset s) := by
  unfold stepTime
  repeat' first
    | with_reducible assumption | intro _ | exact sub_trans rfl hm | with_reducible apply frame_ite | split | dsimp only [id_eq]
    | fail_if_no_progress ((with_reducible apply frame_bmk (hm := sub_trans rfl hm)))
    | fail_if_no_progress ((with_reducible apply frame_jx (hm := sub_trans rfl hm)))
    | fail_if_no_progress ((with_reducible apply frame_bmk_jx (hm := sub_trans rfl hm)))

theorem execPtpMessage_frame (die : Fin 4) (msg : PtpMsg) (offset : Int) (h : Frame m a s) (hm : sub [.bmk, .catchment, .log, .jx] m = true) : FrameR m a (execPtpMessage die msg offset s) := by
  unfold execPtpMessage
  repeat' first
    | with_reducible assumption | intro _ | exact sub_trans rfl hm | with_reducible apply raise_frame | with_reducible apply stepTime_frame
    | with_reducible apply setPtp_frame | with_reducible apply frame_ite | split | with_reducible apply FrameR.mk' | with_reducible apply FrameR.fault
    | dsimp only [id_eq]

theorem execPtpLocked_frame (die : Fin 4) (h : Frame m a s) (hm : sub [.cfg, .node, .jx] m = true) : FrameR m a (execPtpLocked die s) := by
  unfold execPtpLocked
  repeat' first
    | with_reducible assumption | intro _ | exact sub_trans rfl hm | with_reducible apply setPtp_frame | with_reducible apply frame_ite | split
    | with_reducible apply FrameR.mk' | dsimp only [id_eq] | fail_if_no_progress ((with_reducible apply frame_cfg_node (hm := sub_trans rfl hm)))
    | fail_if_no_progress ((with_reducible apply frame_jx (hm := sub_trans rfl hm)))
    | fail_if_no_progress ((with_reducible apply frame_cfg_node_jx (hm := sub_trans rfl hm)))

theorem execPtpHoldover_frame (die : Fin 4) (h : Frame m a s) (hm : sub [.cnt, .jx] m = true) : FrameR m a (execPtpHoldover die s) := by
  unfold execPtpHoldover
  repeat' first
    | with_reducible assumption | intro _ | exact sub_trans rfl hm | with_reducible apply count_frame | with_reducible apply setPtp_frame
    | with_reducible apply frame_ite | with_reducible apply FrameR.mk'

theorem execPtpUnlock_frame (die : Fin 4) (errorNs : ℕ) (h : Frame m a s) (hm : sub [.catchment, .log, .jx] m = true) : FrameR m a (execPtpUnlock die errorNs s) := by
  unfold execPtpUnlock
  repeat' first
    | with_reducible assumption | intro _ | exact sub_trans rfl hm | with_reducible apply raise_frame | with_reducible apply setPtp_frame
    | with_reducible apply frame_ite | with_reducible apply FrameR.mk'

theorem ethLink_frame (p : ℕ) (up : Bool) (h : Frame m a s) (hm : sub [.catchment, .log, .cnt, .jx] m = true) : Frame m a (ethLink p up s) := by
  unfold ethLink
  repeat' first
    | with_reducible assumption | intro _ | exact sub_trans rfl hm | with_reducible apply countN_frame | with_reducible apply raise_frame
    | with_reducible apply frame_ite | dsimp only [id_eq] | fail_if_no_progress ((with_reducible apply frame_jx (hm := sub_trans rfl hm)))

theorem execEthLinkChange_frame (port : Fin 8) (up : Bool) (h : Frame m a s) (hm : sub [.catchment, .log, .cnt, .jx] m = true) : FrameR m a (execEthLinkChange port up s) := by
  unfold execEthLinkChange
  repeat' first
    | with_reducible assumption | with_reducible apply ethLink_frame | split | with_reducible apply FrameR.mk'

theorem setEq_frame (q : ℕ) (e : EgressQ) (h : Frame m a s) (hm : sub [.jx] m = true) : Frame m a (setEq q e s) := by
  unfold setEq
  repeat' first
    | with_reducible assumption | dsimp only [id_eq] | fail_if_no_progress ((with_reducible apply frame_jx (hm := sub_trans rfl hm)))

theorem setRound_frame (port : ℕ) (r : PortRound) (h : Frame m a s) (hm : sub [.jx] m = true) : Frame m a (setRound port r s) := by
  unfold setRound
  repeat' first
    | with_reducible assumption | dsimp only [id_eq] | fail_if_no_progress ((with_reducible apply frame_jx (hm := sub_trans rfl hm)))

theorem portSends_frame (port : ℕ) (p : Pkt) (h : Frame m a s) (hm : sub [.cnt, .jx] m = true) : Frame m a (portSends port p s) := by
  unfold portSends
  repeat' first
    | with_reducible assumption | exact sub_trans rfl hm | with_reducible apply countN_frame | dsimp only [id_eq]
    | fail_if_no_progress ((with_reducible apply frame_jx (hm := sub_trans rfl hm)))

theorem endRound_frame (port : ℕ) (lc : Bool) (h : Frame m a s) (hm : sub [.jx] m = true) : Frame m a (endRound port lc s) := by
  unfold endRound
  repeat' first
    | with_reducible assumption | intro _ | with_reducible apply setRound_frame | with_reducible apply setEq_frame | with_reducible apply frame_foldl
    | with_reducible apply frame_ite

theorem endVisit_frame (port : ℕ) (q : ℕ) (h : Frame m a s) (hm : sub [.jx] m = true) : Frame m a (endVisit port q s) := by
  unfold endVisit
  repeat' first
    | with_reducible assumption | intro _ | with_reducible apply setRound_frame | with_reducible apply endRound_frame | with_reducible apply frame_ite

theorem visitSend_frame (port : ℕ) (q : ℕ) (h : Frame m a s) (hm : sub [.cnt, .jx] m = true) : FrameP m a (visitSend port q s) := by
  unfold visitSend
  repeat' first
    | with_reducible assumption | intro _ | exact sub_trans rfl hm | with_reducible apply endVisit_frame | with_reducible apply portSends_frame
    | with_reducible apply setEq_frame | with_reducible apply frame_ite | split | with_reducible apply FrameP.mk'

theorem serveQueues_frame (port : ℕ) (p1 : ℕ) (h : Frame m a s) (hm : sub [.cnt, .jx] m = true) : Frame m a (serveQueues port p1 s) := by
  induction p1 generalizing s with
  | zero =>
    unfold serveQueues
    repeat' first
      | with_reducible assumption
  | succ _ ih =>
    unfold serveQueues
    repeat' first
      | with_reducible assumption | (apply ih) | exact sub_trans rfl hm | with_reducible apply setEq_frame | with_reducible apply setRound_frame
      | with_reducible apply visitSend_frame | ((with_reducible apply Frame.out); with_reducible assumption) | split | dsimp only [id_eq]

theorem execEgressTransmit_frame (port : Fin 8) (h : Frame m a s) (hm : sub [.cnt, .jx] m = true) : FrameR m a (execEgressTransmit port s) := by
  unfold execEgressTransmit
  repeat' first
    | with_reducible assumption | intro _ | exact sub_trans rfl hm | with_reducible apply portSends_frame | with_reducible apply serveQueues_frame
    | with_reducible apply visitSend_frame | ((with_reducible apply Frame.out); with_reducible assumption) | with_reducible apply frame_ite
    | with_reducible apply frameP_ite | split | ((with_reducible apply FrameP.snd); with_reducible apply visitSend_frame)
    | with_reducible apply FrameR.mk' | with_reducible apply FrameR.fault | with_reducible apply FrameP.mk' | dsimp only [id_eq]
    | fail_if_no_progress ((with_reducible apply frame_jx (hm := sub_trans rfl hm)))

theorem execQueueSample_frame (die : Fin 4) (h : Frame m a s) (hm : sub [.traffic] m = true) : FrameR m a (execQueueSample die s) := by
  unfold execQueueSample
  repeat' first
    | with_reducible assumption | intro _ | exact sub_trans rfl hm | with_reducible apply frame_foldl | with_reducible apply frame_ite | split
    | with_reducible apply FrameR.mk' | with_reducible apply FrameR.fault | dsimp only [id_eq]
    | fail_if_no_progress ((with_reducible apply frame_traffic (hm := sub_trans rfl hm)))

end Sys2Proof.Laws
end

