-- ==== Sys2Proof/Laws/FrameBoot.lean ====
section
/-! SUPPORT. Frames of faults, boot, resets, firmware reads and register accesses: one lemma per definition, found by walking its own text. -/

namespace Sys2Proof.Laws

open Sys2Proof.Machine

variable {m : List Part} {a s : State}

set_option linter.all false

/-! ## Machine/Faults.lean -/

theorem coresLost_frame (d : ℕ) (h : Frame m a s) (hm : sub [.catchment, .log, .barrier] m = true) : Frame m a (coresLost d s) := by
  unfold coresLost
  repeat' first
    | with_reducible assumption | intro _ | with_reducible apply barrierFenced_frame | with_reducible apply frame_foldl

theorem failCommands_frame  (h : Frame m a s) (hm : sub [.pwr, .cfg] m = true) : Frame m a (failCommands s) := by
  unfold failCommands
  repeat' first
    | with_reducible assumption | intro _ | exact sub_trans rfl hm | with_reducible apply publishFw_frame | with_reducible apply ringWrite_frame
    | with_reducible apply frame_foldl | split | dsimp only [id_eq]
    | fail_if_no_progress ((with_reducible apply frame_pwr_cfg (hm := sub_trans rfl hm)))

theorem ctlTakeover_frame (h : Frame m a s) (hm : sub [.pwr, .cfg, .catchment, .log, .barrier, .node, .ctl, .mem, .chan, .work, .installs, .req, .jx, .slu, .datum, .sec, .dma] m = true) : Frame m a (ctlTakeover s) := by
  unfold ctlTakeover
  repeat' first
    | with_reducible assumption | intro _ | exact sub_trans rfl hm | with_reducible apply coresLost_frame | with_reducible apply failCommands_frame
    | with_reducible apply raise_frame | with_reducible apply catchTakeover_frame | with_reducible apply fatalStop_frame
    | with_reducible apply frame_ite | split | dsimp only [id_eq] | fail_if_no_progress ((with_reducible apply frame_cfg (hm := sub_trans rfl hm)))
    | fail_if_no_progress ((with_reducible apply frame_ctl (hm := sub_trans rfl hm)))
    | fail_if_no_progress ((with_reducible apply frame_sec (hm := sub_trans rfl hm)))
    | fail_if_no_progress ((with_reducible apply frame_work (hm := sub_trans rfl hm)))
    | fail_if_no_progress ((with_reducible apply frame_cfg_ctl (hm := sub_trans rfl hm)))
    | fail_if_no_progress ((with_reducible apply frame_cfg_work_sec (hm := sub_trans rfl hm)))

theorem execHeartbeatMiss_frame  (h : Frame m a s) (hm : sub [.pwr, .cfg, .catchment, .log, .barrier, .node, .ctl, .mem, .chan, .work, .installs, .req, .jx, .slu, .datum, .sec, .dma] m = true) : FrameR m a (execHeartbeatMiss s) := by
  unfold execHeartbeatMiss
  repeat' first
    | with_reducible assumption | intro _ | with_reducible apply ctlTakeover_frame | with_reducible apply frame_ite | split
    | with_reducible apply FrameR.mk' | dsimp only [id_eq] | fail_if_no_progress ((with_reducible apply frame_ctl (hm := sub_trans rfl hm)))

theorem standbyLoss_frame  (h : Frame m a s) (hm : sub [.cfg, .catchment, .log, .barrier, .ctl] m = true) : Frame m a (standbyLoss s) := by
  unfold standbyLoss
  repeat' first
    | with_reducible assumption | exact sub_trans rfl hm | with_reducible apply raise_frame | with_reducible apply catchTakeover_frame
    | with_reducible apply coresLost_frame | dsimp only [id_eq] | fail_if_no_progress ((with_reducible apply frame_cfg_ctl (hm := sub_trans rfl hm)))

theorem execCtlStandbyLost_frame  (h : Frame m a s) (hm : sub [.cfg, .catchment, .log, .barrier, .ctl] m = true) : FrameR m a (execCtlStandbyLost s) := by
  unfold execCtlStandbyLost
  repeat' first
    | with_reducible assumption | with_reducible apply standbyLoss_frame | split | with_reducible apply FrameR.mk'

theorem netLoss_frame (n : ℕ) (h : Frame m a s) (hm : sub [.pwr, .cfg, .catchment, .log, .barrier, .node, .ctl, .mem, .chan, .work, .installs, .req, .jx, .slu, .datum, .dma] m = true) : Frame m a (netLoss n s) := by
  unfold netLoss
  repeat' first
    | with_reducible assumption | exact sub_trans rfl hm | with_reducible apply fatalStop_frame | with_reducible apply barrierFenced_frame
    | dsimp only [id_eq] | fail_if_no_progress ((with_reducible apply frame_ctl_jx (hm := sub_trans rfl hm)))

theorem tierLoss_frame (p : ℕ) (h : Frame m a s) (hm : sub [.pwr, .cfg, .catchment, .log, .cnt, .barrier, .tier, .sto, .dir, .chan, .work, .prog, .req, .jx, .slu, .datum, .dma] m = true) : Frame m a (tierLoss p s) := by
  unfold tierLoss
  repeat' first
    | with_reducible assumption | intro _ | exact sub_trans rfl hm | with_reducible apply fencePort_frame | with_reducible apply raise_frame
    | with_reducible apply setTier_frame | with_reducible apply barrierFenced_frame | with_reducible apply drivePerst_frame
    | with_reducible apply frame_ite | split | dsimp only [id_eq]

theorem execDieLoss_frame (die : DieName) (h : Frame m a s) (hm : sub [.pwr, .cfg, .catchment, .log, .cnt, .barrier, .tier, .node, .ctl, .mem, .sto, .dir, .chan, .work, .prog, .installs, .req, .jx, .slu, .datum, .sec, .dma] m = true) : FrameR m a (execDieLoss die s) := by
  unfold execDieLoss
  repeat' first
    | with_reducible assumption | exact sub_trans rfl hm | with_reducible apply netLoss_frame | with_reducible apply tierLoss_frame
    | with_reducible apply ctlTakeover_frame | with_reducible apply standbyLoss_frame | split | with_reducible apply FrameR.mk'

theorem execSpineStationFault_frame (st : Fin 6) (parity : Bool) (h : Frame m a s) (hm : sub [.pwr, .cfg, .catchment, .log, .node, .ctl, .mem, .chan, .work, .installs, .req, .jx, .slu, .datum, .dma] m = true) : FrameR m a (execSpineStationFault st parity s) := by
  unfold execSpineStationFault
  repeat' first
    | with_reducible assumption | exact sub_trans rfl hm | with_reducible apply raise_frame | with_reducible apply chipFatal_frame | split
    | with_reducible apply FrameR.mk' | dsimp only [id_eq] | fail_if_no_progress ((with_reducible apply frame_ctl (hm := sub_trans rfl hm)))

theorem execPllLockLoss_frame (r : Fin 16) (h : Frame m a s) (hm : sub [.pwr, .cfg, .catchment, .log, .cnt, .barrier, .rgn, .node, .ctl, .mem, .sto, .dir, .chan, .work, .prog, .installs, .req, .jx, .slu, .datum, .dma] m = true) : FrameR m a (execPllLockLoss r s) := by
  unfold execPllLockLoss
  repeat' first
    | with_reducible assumption | with_reducible apply fenceRegion_frame | with_reducible apply FrameR.mk'

theorem powerOn_frame  (h : Frame m a s) (hm : sub [.bmk, .pwr, .cfg, .svc, .catchment, .log, .cnt, .barrier, .rgn, .pair, .blk, .cap, .tier, .node, .ctl, .jtag, .mem, .sto, .dir, .tlb, .chan, .work, .prog, .installs, .req, .nextReq, .readLog, .key, .jx, .slu, .traffic, .datum, .sec, .dma, .saved, .resets] m = true) : Frame m a (powerOn s) := by
  unfold powerOn
  refine ⟨fun p hp => ?_⟩
  cases p <;> first | exact h.same _ hp | exact absurd (mem_of_sub hm (by decide)) hp

theorem railFault_frame (rail : Rail) (h : Frame m a s) (hm : sub [.bmk, .pwr, .cfg, .svc, .catchment, .log, .cnt, .barrier, .rgn, .pair, .blk, .cap, .tier, .node, .ctl, .jtag, .mem, .sto, .dir, .tlb, .chan, .work, .prog, .installs, .req, .nextReq, .readLog, .key, .jx, .slu, .traffic, .datum, .sec, .dma, .saved, .resets] m = true) : Frame m a (railFault rail s) := by
  unfold railFault
  repeat' first
    | with_reducible assumption | intro _ | exact sub_trans rfl hm | with_reducible apply supplyFault_frame | with_reducible apply fenceRegion_frame
    | with_reducible apply fatalStop_frame | with_reducible apply netLoss_frame | with_reducible apply catchTakeover_frame
    | with_reducible apply coresLost_frame | with_reducible apply fencePort_frame | with_reducible apply powerOn_frame
    | with_reducible apply frame_foldl | split | dsimp only [id_eq] | fail_if_no_progress ((with_reducible apply frame_cfg (hm := sub_trans rfl hm)))
    | fail_if_no_progress ((with_reducible apply frame_ctl (hm := sub_trans rfl hm)))
    | fail_if_no_progress ((with_reducible apply frame_cfg_ctl (hm := sub_trans rfl hm)))

theorem execRailFault_frame (rail : Rail) (mv : ℕ) (h : Frame m a s) (hm : sub [.bmk, .pwr, .cfg, .svc, .catchment, .log, .cnt, .barrier, .rgn, .pair, .blk, .cap, .tier, .node, .ctl, .jtag, .mem, .sto, .dir, .tlb, .chan, .work, .prog, .installs, .req, .nextReq, .readLog, .key, .jx, .slu, .traffic, .datum, .sec, .dma, .saved, .resets] m = true) : FrameR m a (execRailFault rail mv s) := by
  unfold execRailFault
  repeat' first
    | with_reducible assumption | intro _ | exact sub_trans rfl hm | with_reducible apply railFault_frame | with_reducible apply frame_ite | split
    | with_reducible apply FrameR.mk' | with_reducible apply FrameR.fault | dsimp only [id_eq]

theorem execAvsTransaction_frame (r : Fin 16) (code : BitVec 10) (failures : ℕ) (h : Frame m a s) (hm : sub [.pwr, .cfg, .catchment, .log, .cnt, .barrier, .rgn, .node, .ctl, .mem, .sto, .dir, .chan, .work, .prog, .installs, .req, .jx, .slu, .datum, .dma] m = true) : FrameR m a (execAvsTransaction r code failures s) := by
  unfold execAvsTransaction
  repeat' first
    | with_reducible assumption | intro _ | exact sub_trans rfl hm | with_reducible apply supplyFault_frame | with_reducible apply setRgn_frame
    | with_reducible apply frameO_bind | with_reducible apply frameOP_bind | with_reducible apply frame_ite | split | with_reducible apply FrameR.mk'
    | with_reducible apply FrameR.fault | dsimp only [id_eq]

theorem claimEnds_frame  (h : Frame m a s) (hm : sub [.svc] m = true) : Frame m a (claimEnds s) := by
  unfold claimEnds
  repeat' first
    | with_reducible assumption | dsimp only [id_eq] | fail_if_no_progress ((with_reducible apply frame_svc (hm := sub_trans rfl hm)))

theorem execRefclkStop_frame (clk : RefClk) (h : Frame m a s) (hm : sub [.pwr, .cfg, .svc, .catchment, .log, .cnt, .tier, .node, .ctl, .mem, .sto, .dir, .chan, .work, .prog, .installs, .req, .jx, .slu, .datum, .dma] m = true) : FrameR m a (execRefclkStop clk s) := by
  unfold execRefclkStop
  repeat' first
    | with_reducible assumption | intro _ | exact sub_trans rfl hm | with_reducible apply fatalStop_frame | with_reducible apply ethLink_frame
    | with_reducible apply fencePort_frame | with_reducible apply claimEnds_frame | with_reducible apply frame_ite | split
    | with_reducible apply FrameR.mk' | with_reducible apply FrameR.fault | dsimp only [id_eq]
    | fail_if_no_progress ((with_reducible apply frame_pwr (hm := sub_trans rfl hm)))
    | fail_if_no_progress ((with_reducible apply frame_svc (hm := sub_trans rfl hm)))
    | fail_if_no_progress ((with_reducible apply frame_pwr_svc (hm := sub_trans rfl hm)))

theorem execXtalStop_frame  (h : Frame m a s) (hm : sub [.bmk] m = true) : FrameR m a (execXtalStop s) := by
  unfold execXtalStop
  repeat' first
    | with_reducible assumption | split | with_reducible apply FrameR.mk' | dsimp only [id_eq]
    | fail_if_no_progress ((with_reducible apply frame_bmk (hm := sub_trans rfl hm)))

theorem execThermalTrip_frame (sensor : ℕ) (temp : ℕ) (h : Frame m a s) (hm : sub [.pwr, .cfg, .catchment, .log, .rgn, .cap, .node, .ctl, .mem, .chan, .work, .installs, .req, .jx, .slu, .datum, .dma] m = true) : FrameR m a (execThermalTrip sensor temp s) := by
  unfold execThermalTrip
  repeat' first
    | with_reducible assumption | intro _ | exact sub_trans rfl hm | with_reducible apply noteSensor_frame | with_reducible apply fatalStop_frame
    | with_reducible apply frame_ite | split | with_reducible apply FrameR.mk' | with_reducible apply FrameR.fault | dsimp only [id_eq]
    | fail_if_no_progress ((with_reducible apply frame_pwr (hm := sub_trans rfl hm)))

/-! ## Machine/Boot.lean -/

theorem onward_frame (f : State → State) (hf : ∀ y0, Frame m a y0 → Frame m a (f y0)) (h : Frame m a s) : Frame m a (onward s f) := by
  unfold onward
  repeat' first
    | with_reducible assumption | intro _ | apply hf | with_reducible apply frame_ite

theorem bootStart_frame (e : BootEnv) (h : Frame m a s) (hm : sub [.pwr, .cfg, .catchment, .log, .cnt, .barrier, .rgn, .node, .ctl, .mem, .sto, .dir, .chan, .work, .prog, .installs, .req, .jx, .slu, .datum, .dma] m = true) : Frame m a (bootStart e s) := by
  unfold bootStart
  repeat' first
    | with_reducible assumption | intro _ | exact sub_trans rfl hm | with_reducible apply setRgn_frame | with_reducible apply supplyFault_frame
    | with_reducible apply onward_frame | with_reducible apply fatalStop_frame | with_reducible apply raise_frame | with_reducible apply frame_foldl
    | with_reducible apply frame_ite | split | dsimp only [id_eq] | fail_if_no_progress ((with_reducible apply frame_cfg (hm := sub_trans rfl hm)))
    | fail_if_no_progress ((with_reducible apply frame_ctl (hm := sub_trans rfl hm)))
    | fail_if_no_progress ((with_reducible apply frame_cfg_ctl (hm := sub_trans rfl hm)))

theorem bootFailed_frame  (h : Frame m a s) (hm : sub [.cfg, .catchment, .node] m = true) : Frame m a (bootFailed s) := by
  unfold bootFailed
  repeat' first
    | with_reducible assumption | exact sub_trans rfl hm | with_reducible apply settle_frame | dsimp only [id_eq]
    | fail_if_no_progress ((with_reducible apply frame_cfg_node (hm := sub_trans rfl hm)))

theorem useSlot_frame (slot : ℕ) (l : List (ℕ × Bytes)) (h : Frame m a s) (hm : sub [.cfg] m = true) : Frame m a (useSlot slot l s) := by
  unfold useSlot
  repeat' first
    | with_reducible assumption | dsimp only [id_eq] | fail_if_no_progress ((with_reducible apply frame_cfg (hm := sub_trans rfl hm)))

theorem slotCause_frame (slot : ℕ) (c : ℕ) (h : Frame m a s) (hm : sub [.cfg] m = true) : Frame m a (slotCause slot c s) := by
  unfold slotCause
  repeat' first
    | with_reducible assumption | intro _ | with_reducible apply frame_ite | dsimp only [id_eq]
    | fail_if_no_progress ((with_reducible apply frame_cfg (hm := sub_trans rfl hm)))

theorem bootSlots_frame (e : BootEnv) (h : Frame m a s) (hm : sub [.bmk, .cfg, .catchment, .node] m = true) : Frame m a (bootSlots e s) := by
  unfold bootSlots
  repeat' first
    | with_reducible assumption | intro _ | exact sub_trans rfl hm | with_reducible apply bootFailed_frame | with_reducible apply slotCause_frame
    | with_reducible apply useSlot_frame | with_reducible apply frame_ite | split | dsimp only [id_eq]
    | fail_if_no_progress ((with_reducible apply frame_bmk (hm := sub_trans rfl hm)))
    | fail_if_no_progress ((with_reducible apply frame_cfg (hm := sub_trans rfl hm)))
    | fail_if_no_progress ((with_reducible apply frame_bmk_cfg (hm := sub_trans rfl hm)))

theorem bootCert_frame  (h : Frame m a s) (hm : sub [.catchment, .log, .sec] m = true) : Frame m a (bootCert s) := by
  unfold bootCert
  repeat' first
    | with_reducible assumption | intro _ | exact sub_trans rfl hm | with_reducible apply raise_frame | with_reducible apply frame_ite
    | dsimp only [id_eq] | fail_if_no_progress ((with_reducible apply frame_sec (hm := sub_trans rfl hm)))

theorem bootPoints_frame (h : Frame m a s) (hm : sub [.rgn] m = true) : Frame m a (bootPoints s) := by
  unfold bootPoints
  repeat' first
    | with_reducible assumption | intro _ | exact sub_trans rfl hm | with_reducible apply movePoint_frame | with_reducible apply setRgn_frame
    | with_reducible apply Frame.getD | with_reducible apply frame_foldl | with_reducible apply frameO_bind | with_reducible apply frameOP_bind
    | with_reducible apply frame_ite | split | dsimp only [id_eq]

theorem bootConfigure_frame (e : BootEnv) (h : Frame m a s) (hm : sub [.cfg, .catchment, .log, .rgn, .sec] m = true) : Frame m a (bootConfigure e s) := by
  unfold bootConfigure
  repeat' first
    | with_reducible assumption | exact sub_trans rfl hm | with_reducible apply bootPoints_frame | with_reducible apply bootCert_frame
    | with_reducible apply sigBoot_frame | with_reducible apply settle_frame | dsimp only [id_eq]
    | fail_if_no_progress ((with_reducible apply frame_cfg_catchment (hm := sub_trans rfl hm)))

theorem bootTrain_frame (e : BootEnv) (h : Frame m a s) (hm : sub [.pwr, .cfg, .catchment, .log, .cnt, .barrier, .rgn, .node, .ctl, .mem, .sto, .dir, .chan, .work, .prog, .installs, .req, .jx, .slu, .datum, .dma] m = true) : Frame m a (bootTrain e s) := by
  unfold bootTrain
  repeat' first
    | with_reducible assumption | intro _ | exact sub_trans rfl hm | with_reducible apply raise_frame | with_reducible apply fenceRegion_frame
    | with_reducible apply frame_foldl | with_reducible apply frame_ite

theorem bootCell_frame (c : Fin 128 × Fin 17) (h : Frame m a s) (hm : sub [.pwr, .cfg, .catchment, .log, .cnt, .barrier, .rgn, .blk, .node, .ctl, .mem, .sto, .dir, .chan, .work, .prog, .installs, .req, .jx, .slu, .datum, .dma] m = true) : Frame m a (bootCell s c) := by
  unfold bootCell
  repeat' first
    | with_reducible assumption | intro _ | exact sub_trans rfl hm | with_reducible apply cellsFail_frame | with_reducible apply frame_ite | split
    | dsimp only [id_eq]

theorem bootSelftest_frame (e : BootEnv) (h : Frame m a s) (hm : sub [.pwr, .cfg, .catchment, .log, .cnt, .barrier, .rgn, .blk, .node, .ctl, .mem, .sto, .dir, .chan, .work, .prog, .installs, .req, .jx, .slu, .datum, .dma] m = true) : Frame m a (bootSelftest e s) := by
  unfold bootSelftest
  repeat' first
    | with_reducible assumption | intro _ | exact sub_trans rfl hm | with_reducible apply bootCell_frame | with_reducible apply fenceRegion_frame
    | with_reducible apply setMode_frame | with_reducible apply frame_foldl | with_reducible apply frame_ite | split | dsimp only [id_eq]

theorem bootTier_frame (p : ℕ) (t : Option TierTrain) (h : Frame m a s) (hm : sub [.pwr, .catchment, .log, .cnt, .tier, .sto, .dir] m = true) : Frame m a (bootTier p t s) := by
  unfold bootTier
  repeat' first
    | with_reducible assumption | intro _ | exact sub_trans rfl hm | with_reducible apply drivePerst_frame | with_reducible apply setTier_frame
    | with_reducible apply tierTrained_frame | with_reducible apply frame_ite | split | dsimp only [id_eq]

theorem bootLinks_frame (e : BootEnv) (h : Frame m a s) (hm : sub [.pwr, .catchment, .log, .cnt, .tier, .sto, .dir, .jx] m = true) : Frame m a (bootLinks e s) := by
  unfold bootLinks
  repeat' first
    | with_reducible assumption | intro _ | exact sub_trans rfl hm | with_reducible apply ethLink_frame | with_reducible apply bootTier_frame
    | with_reducible apply frame_foldl | with_reducible apply frame_ite | split | dsimp only [id_eq]

theorem bootTraffic_frame (i : Img) (h : Frame m a s) (hm : sub [.catchment, .log, .jx, .traffic] m = true) : Frame m a (bootTraffic i s) := by
  unfold bootTraffic
  repeat' first
    | with_reducible assumption | intro _ | exact sub_trans rfl hm | with_reducible apply putWeir_frame | with_reducible apply raise_frame
    | with_reducible apply commitEq_frame | with_reducible apply frame_foldl | with_reducible apply frame_ite | split

theorem admitFailed_frame (index : ℕ) (status : ℕ) (h : Frame m a s) (hm : sub [.catchment, .log] m = true) : Frame m a (admitFailed index status s) := by
  unfold admitFailed
  repeat' first
    | with_reducible assumption | with_reducible apply raise_frame

theorem fabricBoot_frame (b_ : Bytes) (h : Frame m a s) (hm : sub [.catchment, .log, .sec] m = true) : FrameP m a (fabricBoot b_ s) := by
  unfold fabricBoot
  repeat' first
    | with_reducible assumption | intro _ | exact sub_trans rfl hm | with_reducible apply blobKey_frame
    | ((with_reducible apply Frame.out); with_reducible assumption) | with_reducible apply frameP_ite | split | with_reducible apply FrameP.mk'
    | dsimp only [id_eq] | fail_if_no_progress ((with_reducible apply frame_sec (hm := sub_trans rfl hm)))

theorem bootAdmits_frame (i : Img) (h : Frame m a s) (hm : sub [.catchment, .log, .cnt, .mem, .sto, .key, .slu, .traffic, .sec, .free] m = true) : Frame m a (bootAdmits i s) := by
  unfold bootAdmits
  repeat' first
    | with_reducible assumption | intro _ | exact sub_trans rfl hm | with_reducible apply admitFailed_frame
    | ((with_reducible apply FrameQ.snd); with_reducible apply admitDo_frame)
    | ((with_reducible apply FrameP.snd); with_reducible apply fabricBoot_frame) | with_reducible apply frame_foldlSnd
    | with_reducible apply frame_ite | split

theorem reopen_frame (k : ℕ) (h : Frame m a s) (hm : sub [.cnt, .mem, .sto, .slu] m = true) : Frame m a (reopen s k) := by
  unfold reopen
  repeat' first
    | with_reducible assumption | intro _ | exact sub_trans rfl hm | with_reducible apply openTenantWindows_frame | with_reducible apply count_frame
    | ((with_reducible apply Frame.outOQ); with_reducible assumption) | with_reducible apply frame_ite | split

theorem restore_frame (v : Saved) (h : Frame m a s) (hm : sub [.cfg, .catchment, .log, .cnt, .mem, .sto, .dir, .chan, .prog, .key, .jx, .slu, .traffic, .datum, .sec] m = true) : Frame m a (restore v s) := by
  unfold restore
  repeat' first
    | with_reducible assumption | intro _ | exact sub_trans rfl hm | with_reducible apply raise_frame | with_reducible apply reopen_frame
    | with_reducible apply dropBacking_frame | with_reducible apply seqLost_frame | with_reducible apply frame_foldl | with_reducible apply frame_ite
    | split | dsimp only [id_eq] | fail_if_no_progress ((with_reducible apply frame_cfg (hm := sub_trans rfl hm)))
    | fail_if_no_progress ((with_reducible apply frame_dir (hm := sub_trans rfl hm)))
    | fail_if_no_progress ((with_reducible apply frame_jx (hm := sub_trans rfl hm)))
    | fail_if_no_progress ((with_reducible apply frame_key (hm := sub_trans rfl hm)))
    | fail_if_no_progress ((with_reducible apply frame_prog (hm := sub_trans rfl hm)))
    | fail_if_no_progress ((with_reducible apply frame_sec (hm := sub_trans rfl hm)))
    | fail_if_no_progress ((with_reducible apply frame_sto (hm := sub_trans rfl hm)))
    | fail_if_no_progress ((with_reducible apply frame_traffic (hm := sub_trans rfl hm)))
    | fail_if_no_progress ((with_reducible apply frame_cfg_sto_dir_prog_key_jx_traffic_sec (hm := sub_trans rfl hm)))

theorem bootApply_frame (e : BootEnv) (wake : Bool) (h : Frame m a s) (hm : sub [.pwr, .cfg, .catchment, .log, .cnt, .mem, .sto, .dir, .chan, .prog, .key, .jx, .slu, .traffic, .datum, .sec, .saved, .free] m = true) : Frame m a (bootApply e wake s) := by
  unfold bootApply
  repeat' first
    | with_reducible assumption | intro _ | exact sub_trans rfl hm | with_reducible apply bootAdmits_frame | with_reducible apply bootTraffic_frame
    | with_reducible apply restore_frame | with_reducible apply raise_frame | with_reducible apply frame_ite | split | dsimp only [id_eq]
    | fail_if_no_progress ((with_reducible apply frame_mem (hm := sub_trans rfl hm)))
    | fail_if_no_progress ((with_reducible apply frame_pwr_cfg_saved (hm := sub_trans rfl hm)))

theorem boot_frame (e : BootEnv) (h : Frame m a s) (hm : sub [.bmk, .pwr, .cfg, .catchment, .log, .cnt, .barrier, .rgn, .blk, .tier, .node, .ctl, .mem, .sto, .dir, .chan, .work, .prog, .installs, .req, .key, .jx, .slu, .traffic, .datum, .sec, .dma, .saved, .free] m = true) : Frame m a (boot e s) := by
  unfold boot
  repeat' first
    | with_reducible assumption | intro _ | exact sub_trans rfl hm | with_reducible apply bootStart_frame | with_reducible apply onward_frame
    | with_reducible apply bootSlots_frame | with_reducible apply bootConfigure_frame | with_reducible apply bootTrain_frame
    | with_reducible apply bootSelftest_frame | with_reducible apply bootLinks_frame | with_reducible apply bootApply_frame | dsimp only [id_eq]
    | fail_if_no_progress ((with_reducible apply frame_pwr_cfg (hm := sub_trans rfl hm)))

/-! ## Machine/Reset.lean -/

theorem execPowerOnReset_frame  (h : Frame m a s) (hm : sub [.bmk, .pwr, .cfg, .svc, .catchment, .log, .cnt, .barrier, .rgn, .pair, .blk, .cap, .tier, .node, .ctl, .jtag, .mem, .sto, .dir, .tlb, .chan, .work, .prog, .installs, .req, .nextReq, .readLog, .key, .jx, .slu, .traffic, .datum, .sec, .dma, .saved, .resets] m = true) : FrameR m a (execPowerOnReset s) := by
  unfold execPowerOnReset
  repeat' first
    | with_reducible assumption | with_reducible apply powerOn_frame | with_reducible apply FrameR.mk'

theorem execAonResetRelease_frame (straps : BitVec 2) (h : Frame m a s) (hm : sub [.bmk, .pwr] m = true) : FrameR m a (execAonResetRelease straps s) := by
  unfold execAonResetRelease
  repeat' first
    | with_reducible assumption | split | with_reducible apply FrameR.mk' | dsimp only [id_eq]
    | fail_if_no_progress ((with_reducible apply frame_bmk_pwr (hm := sub_trans rfl hm)))

theorem clearMain_frame (h : Frame m a s) (hm : sub [.pwr, .cfg, .svc, .catchment, .log, .cnt, .barrier, .rgn, .pair, .blk, .cap, .tier, .node, .ctl, .mem, .sto, .dir, .tlb, .chan, .work, .prog, .installs, .req, .nextReq, .readLog, .key, .jx, .slu, .traffic, .datum, .sec, .dma, .saved, .resets] m = true) : Frame m a (clearMain s) := by
  unfold clearMain
  refine ⟨fun p hp => ?_⟩
  cases p <;> first | exact h.same _ hp | exact absurd (mem_of_sub hm (by decide)) hp

theorem wakeCause_frame (bit : ℕ) (h : Frame m a s) (hm : sub [.bmk] m = true) : Frame m a (wakeCause bit s) := by
  unfold wakeCause
  repeat' first
    | with_reducible assumption | dsimp only [id_eq] | fail_if_no_progress ((with_reducible apply frame_bmk (hm := sub_trans rfl hm)))

theorem wake_frame (h : Frame m a s) (hm : sub [.pwr, .cfg, .svc, .catchment, .log, .cnt, .barrier, .rgn, .pair, .blk, .cap, .tier, .node, .ctl, .mem, .sto, .dir, .tlb, .chan, .work, .prog, .installs, .req, .nextReq, .readLog, .key, .jx, .slu, .traffic, .datum, .sec, .dma, .saved, .resets] m = true) : Frame m a (wake s) := by
  unfold wake
  refine ⟨fun p hp => ?_⟩
  cases p <;> first | exact (clearMain_frame h (sub_trans rfl hm)).same _ hp | exact absurd (mem_of_sub hm (by decide)) hp

theorem resetPin_frame (h : Frame m a s) (hm : sub [.bmk, .pwr, .cfg, .svc, .catchment, .log, .cnt, .barrier, .rgn, .pair, .blk, .cap, .tier, .node, .ctl, .mem, .sto, .dir, .tlb, .chan, .work, .prog, .installs, .req, .nextReq, .readLog, .key, .jx, .slu, .traffic, .datum, .sec, .dma, .saved, .resets] m = true) : Frame m a (resetPin s) := by
  unfold resetPin
  repeat' first
    | with_reducible assumption | intro _ | exact sub_trans rfl hm | with_reducible apply wake_frame | with_reducible apply wakeCause_frame
    | with_reducible apply clearMain_frame | with_reducible apply frame_ite | split | dsimp only [id_eq]
    | fail_if_no_progress ((with_reducible apply frame_pwr (hm := sub_trans rfl hm)))

theorem resetDue_frame  (h : Frame m a s) (hm : sub [.bmk, .pwr, .cfg, .svc, .catchment, .log, .cnt, .barrier, .rgn, .pair, .blk, .cap, .tier, .node, .ctl, .mem, .sto, .dir, .tlb, .chan, .work, .prog, .installs, .req, .nextReq, .readLog, .key, .jx, .slu, .traffic, .datum, .sec, .dma, .saved, .resets] m = true) : Frame m a (resetDue s) := by
  unfold resetDue
  repeat' first
    | with_reducible assumption | intro _ | exact sub_trans rfl hm | with_reducible apply wakeCause_frame | with_reducible apply clearMain_frame
    | with_reducible apply frame_ite | split

theorem execMainReset_frame (cause : ResetCause) (h : Frame m a s) (hm : sub [.bmk, .pwr, .cfg, .svc, .catchment, .log, .cnt, .barrier, .rgn, .pair, .blk, .cap, .tier, .node, .ctl, .mem, .sto, .dir, .tlb, .chan, .work, .prog, .installs, .req, .nextReq, .readLog, .key, .jx, .slu, .traffic, .datum, .sec, .dma, .saved, .resets] m = true) : FrameR m a (execMainReset cause s) := by
  unfold execMainReset
  repeat' first
    | with_reducible assumption | with_reducible apply resetPin_frame | with_reducible apply resetDue_frame | split | with_reducible apply FrameR.mk'

theorem startRom_frame (e : BootEnv) (h : Frame m a s) (hm : sub [.bmk, .pwr, .cfg, .catchment, .log, .cnt, .barrier, .rgn, .blk, .tier, .node, .ctl, .mem, .sto, .dir, .chan, .work, .prog, .installs, .req, .key, .jx, .slu, .traffic, .datum, .sec, .dma, .saved, .free] m = true) : Frame m a (startRom e s) := by
  unfold startRom
  repeat' first
    | with_reducible assumption | intro _ | exact sub_trans rfl hm | with_reducible apply boot_frame | with_reducible apply frame_ite | split
    | dsimp only [id_eq] | fail_if_no_progress ((with_reducible apply frame_pwr (hm := sub_trans rfl hm)))

theorem execResetRelease_frame (env : BootEnv) (h : Frame m a s) (hm : sub [.bmk, .pwr, .cfg, .svc, .catchment, .log, .cnt, .barrier, .rgn, .pair, .blk, .cap, .tier, .node, .ctl, .mem, .sto, .dir, .tlb, .chan, .work, .prog, .installs, .req, .nextReq, .readLog, .key, .jx, .slu, .traffic, .datum, .sec, .dma, .saved, .free, .resets] m = true) : FrameR m a (execResetRelease env s) := by
  unfold execResetRelease
  repeat' first
    | with_reducible assumption | exact sub_trans rfl hm | with_reducible apply startRom_frame | with_reducible apply wake_frame
    | with_reducible apply wakeCause_frame | with_reducible apply clearMain_frame | split | with_reducible apply FrameR.mk' | dsimp only [id_eq]
    | fail_if_no_progress ((with_reducible apply frame_pwr (hm := sub_trans rfl hm)))

theorem execRomHoldEnd_frame (env : BootEnv) (h : Frame m a s) (hm : sub [.bmk, .pwr, .cfg, .catchment, .log, .cnt, .barrier, .rgn, .blk, .tier, .node, .ctl, .mem, .sto, .dir, .chan, .work, .prog, .installs, .req, .key, .jx, .slu, .traffic, .datum, .sec, .dma, .saved, .free] m = true) : FrameR m a (execRomHoldEnd env s) := by
  unfold execRomHoldEnd
  repeat' first
    | with_reducible assumption | intro _ | exact sub_trans rfl hm | with_reducible apply boot_frame | with_reducible apply frame_ite | split
    | with_reducible apply FrameR.mk' | with_reducible apply FrameR.fault | dsimp only [id_eq]
    | fail_if_no_progress ((with_reducible apply frame_pwr (hm := sub_trans rfl hm)))

theorem execSleep_frame  (h : Frame m a s) (hm : sub [.pwr, .cfg] m = true) : FrameR m a (execSleep s) := by
  unfold execSleep
  repeat' first
    | with_reducible assumption | intro _ | exact sub_trans rfl hm | with_reducible apply fwRun_frame | with_reducible apply answerFw_frame
    | with_reducible apply acceptDeferred_frame | ((with_reducible apply Frame.outO); with_reducible assumption) | with_reducible apply frame_ite
    | split | with_reducible apply FrameR.mk' | dsimp only [id_eq] | fail_if_no_progress ((with_reducible apply frame_pwr (hm := sub_trans rfl hm)))

theorem saveState_frame (h : Frame m a s) (hm : sub [.mem, .saved, .free] m = true) : Frame m a (saveState s) := by
  unfold saveState
  repeat' first
    | with_reducible assumption | intro _ | exact sub_trans rfl hm | with_reducible apply writeFast_frame | with_reducible apply frame_foldl
    | dsimp only [id_eq] | fail_if_no_progress ((with_reducible apply frame_free (hm := sub_trans rfl hm)))
    | fail_if_no_progress ((with_reducible apply frame_saved_free (hm := sub_trans rfl hm)))

theorem endSleeps_frame (status : ℕ) (p1 : List Deferred) (h : Frame m a s) (hm : sub [.cfg] m = true) : Frame m a (endSleeps status p1 s) := by
  induction p1 generalizing s with
  | nil =>
    unfold endSleeps
    repeat' first
      | with_reducible assumption
  | cons _ _ ih =>
    unfold endSleeps
    repeat' first
      | with_reducible assumption | intro _ | (apply ih) | with_reducible apply deferredEnd_frame | with_reducible apply frame_ite

theorem execSleepQuiesced_frame (h : Frame m a s) (hm : sub [.pwr, .cfg, .mem, .saved, .free] m = true) : FrameR m a (execSleepQuiesced s) := by
  unfold execSleepQuiesced
  repeat' first
    | with_reducible assumption | intro _ | exact sub_trans rfl hm | with_reducible apply saveState_frame | with_reducible apply endSleeps_frame
    | with_reducible apply frame_ite | split | with_reducible apply FrameR.mk' | with_reducible apply FrameR.fault | dsimp only [id_eq]
    | fail_if_no_progress ((with_reducible apply frame_cfg (hm := sub_trans rfl hm)))
    | fail_if_no_progress ((with_reducible apply frame_pwr (hm := sub_trans rfl hm)))
    | fail_if_no_progress ((with_reducible apply frame_pwr_cfg (hm := sub_trans rfl hm)))

theorem wakeFires_frame (bit : ℕ) (h : Frame m a s) (hm : sub [.bmk, .pwr, .cfg, .svc, .catchment, .log, .cnt, .barrier, .rgn, .pair, .blk, .cap, .tier, .node, .ctl, .mem, .sto, .dir, .tlb, .chan, .work, .prog, .installs, .req, .nextReq, .readLog, .key, .jx, .slu, .traffic, .datum, .sec, .dma, .saved, .resets] m = true) : Frame m a (wakeFires bit s) := by
  unfold wakeFires
  repeat' first
    | with_reducible assumption | intro _ | exact sub_trans rfl hm | with_reducible apply wakeCause_frame | with_reducible apply wake_frame
    | with_reducible apply frame_ite | split | dsimp only [id_eq] | fail_if_no_progress ((with_reducible apply frame_pwr (hm := sub_trans rfl hm)))

theorem execSleepReqAssert_frame  (h : Frame m a s) (hm : sub [.bmk, .pwr, .cfg, .svc, .catchment, .log, .cnt, .barrier, .rgn, .pair, .blk, .cap, .tier, .node, .ctl, .mem, .sto, .dir, .tlb, .chan, .work, .prog, .installs, .req, .nextReq, .readLog, .key, .jx, .slu, .traffic, .datum, .sec, .dma, .saved, .resets] m = true) : FrameR m a (execSleepReqAssert s) := by
  unfold execSleepReqAssert
  repeat' first
    | with_reducible assumption | intro _ | exact sub_trans rfl hm | with_reducible apply settle_frame | with_reducible apply wakeFires_frame
    | with_reducible apply frame_ite | split | with_reducible apply FrameR.mk' | dsimp only [id_eq]
    | fail_if_no_progress ((with_reducible apply frame_pwr (hm := sub_trans rfl hm)))

theorem execWakeComparatorFire_frame (which : WakeSource) (sample : Int) (h : Frame m a s) (hm : sub [.bmk, .pwr, .cfg, .svc, .catchment, .log, .cnt, .barrier, .rgn, .pair, .blk, .cap, .tier, .node, .ctl, .mem, .sto, .dir, .tlb, .chan, .work, .prog, .installs, .req, .nextReq, .readLog, .key, .jx, .slu, .traffic, .datum, .sec, .dma, .saved, .resets] m = true) : FrameR m a (execWakeComparatorFire which sample s) := by
  unfold execWakeComparatorFire
  repeat' first
    | with_reducible assumption | intro _ | with_reducible apply wakeFires_frame | with_reducible apply frame_ite | with_reducible apply FrameR.mk'

theorem loadIr_frame (ir : JtagIr) (effect : Bool) (h : Frame m a s) (hm : sub [.pwr, .jtag] m = true) : Frame m a (loadIr ir effect s) := by
  unfold loadIr
  repeat' first
    | with_reducible assumption | intro _ | with_reducible apply frame_ite | dsimp only [id_eq]
    | fail_if_no_progress ((with_reducible apply frame_jtag (hm := sub_trans rfl hm)))
    | fail_if_no_progress ((with_reducible apply frame_pwr_jtag (hm := sub_trans rfl hm)))

theorem loadDrive_frame (ir : JtagIr) (h : Frame m a s) (hm : sub [.pwr, .jtag] m = true) : Frame m a (loadDrive ir s) := by
  unfold loadDrive
  repeat' first
    | with_reducible assumption | intro _ | with_reducible apply loadIr_frame | with_reducible apply frame_ite

theorem execJtagTapReset_frame  (h : Frame m a s) (hm : sub [.pwr, .jtag] m = true) : FrameR m a (execJtagTapReset s) := by
  unfold execJtagTapReset
  repeat' first
    | with_reducible assumption | with_reducible apply loadIr_frame | with_reducible apply FrameR.mk'

theorem execIdcode_frame  (h : Frame m a s) (hm : sub [.pwr, .jtag] m = true) : FrameR m a (execIdcode s) := by
  unfold execIdcode
  repeat' first
    | with_reducible assumption | with_reducible apply loadIr_frame | with_reducible apply FrameR.mk'

theorem execSamplePreload_frame  (h : Frame m a s) (hm : sub [.pwr, .jtag] m = true) : FrameR m a (execSamplePreload s) := by
  unfold execSamplePreload
  repeat' first
    | with_reducible assumption | with_reducible apply loadIr_frame | with_reducible apply FrameR.mk'

theorem execExtest_frame  (h : Frame m a s) (hm : sub [.pwr, .jtag] m = true) : FrameR m a (execExtest s) := by
  unfold execExtest
  repeat' first
    | with_reducible assumption | with_reducible apply loadDrive_frame | with_reducible apply FrameR.mk'

theorem execExtestPulse_frame  (h : Frame m a s) (hm : sub [.pwr, .jtag] m = true) : FrameR m a (execExtestPulse s) := by
  unfold execExtestPulse
  repeat' first
    | with_reducible assumption | with_reducible apply loadDrive_frame | with_reducible apply FrameR.mk'

theorem execExtestTrain_frame  (h : Frame m a s) (hm : sub [.pwr, .jtag] m = true) : FrameR m a (execExtestTrain s) := by
  unfold execExtestTrain
  repeat' first
    | with_reducible assumption | with_reducible apply loadDrive_frame | with_reducible apply FrameR.mk'

theorem execHighz_frame  (h : Frame m a s) (hm : sub [.pwr, .jtag] m = true) : FrameR m a (execHighz s) := by
  unfold execHighz
  repeat' first
    | with_reducible assumption | with_reducible apply loadDrive_frame | with_reducible apply FrameR.mk'

theorem execClamp_frame  (h : Frame m a s) (hm : sub [.pwr, .jtag] m = true) : FrameR m a (execClamp s) := by
  unfold execClamp
  repeat' first
    | with_reducible assumption | with_reducible apply loadDrive_frame | with_reducible apply FrameR.mk'

theorem execBypass_frame  (h : Frame m a s) (hm : sub [.pwr, .jtag] m = true) : FrameR m a (execBypass s) := by
  unfold execBypass
  repeat' first
    | with_reducible assumption | with_reducible apply loadIr_frame | with_reducible apply FrameR.mk'

/-! ## Machine/FwReads.lean -/

theorem onSeq_frame (b_ : Bytes) (f : ℕ → State → ℕ × Bytes × State) (hf : ∀ y0 y1, Frame m a y1 → FrameQ m a (f y0 y1)) (h : Frame m a s) (hm : sub [.cfg, .catchment, .log, .cnt, .dir] m = true) : Frame m a (onSeq b_ f s) := by
  unfold onSeq
  repeat' first
    | with_reducible assumption | exact sub_trans rfl hm | with_reducible apply lookSeq_frame | with_reducible apply answerFw_frame | ((with_reducible apply FrameQ.snd); apply hf)
    | ((with_reducible apply Frame.out); with_reducible assumption) | split

theorem execSeqRead_frame (h : Frame m a s) (hm : sub [.cfg, .catchment, .log, .cnt, .dir] m = true) : FrameR m a (execSeqRead s) := by
  unfold execSeqRead
  exact FrameR.mk' (fwRun_frame _ _ (fun _ _ h => onSeq_frame _ _ (fun _ _ h => FrameQ.mk' h) h (sub_trans rfl hm)) h (sub_trans rfl hm))

theorem execPlaceRead_frame (h : Frame m a s) (hm : sub [.cfg, .catchment, .log, .cnt, .dir] m = true) : FrameR m a (execPlaceRead s) := by
  unfold execPlaceRead
  exact FrameR.mk' (fwRun_frame _ _ (fun _ _ h => onSeq_frame _ _ (fun _ _ h => FrameQ.mk' h) h (sub_trans rfl hm)) h (sub_trans rfl hm))

theorem execSatRead_frame (h : Frame m a s) (hm : sub [.cfg, .catchment, .log, .cnt, .dir] m = true) : FrameR m a (execSatRead s) := by
  unfold execSatRead
  exact FrameR.mk' (fwRun_frame _ _ (fun _ _ h => onSeq_frame _ _ (fun _ _ h => FrameQ.mk' h) h (sub_trans rfl hm)) h (sub_trans rfl hm))

theorem satClear_frame (slot : ℕ) (layer : ℕ) (all : Bool) (h : Frame m a s) (hm : sub [.dir] m = true) : Frame m a (satClear slot layer all s) := by
  unfold satClear
  repeat' first
    | with_reducible assumption | with_reducible apply setSeq_frame

theorem execSatClear_frame (h : Frame m a s) (hm : sub [.cfg, .catchment, .log, .cnt, .dir] m = true) : FrameR m a (execSatClear s) := by
  unfold execSatClear
  exact FrameR.mk' (fwRun_frame _ _ (fun _ _ h => onSeq_frame _ _ (fun _ _ h => FrameQ.mk' (satClear_frame _ _ _ h (sub_trans rfl hm))) h (sub_trans rfl hm)) h (sub_trans rfl hm))

theorem execWindowRead_frame  (h : Frame m a s) (hm : sub [.cfg] m = true) : FrameR m a (execWindowRead s) := by
  unfold execWindowRead
  repeat' first
    | with_reducible assumption | intro _ | with_reducible apply fwRun_frame | with_reducible apply answerFw_frame | with_reducible apply FrameR.mk'

theorem execSluiceRead_frame  (h : Frame m a s) (hm : sub [.cfg] m = true) : FrameR m a (execSluiceRead s) := by
  unfold execSluiceRead
  repeat' first
    | with_reducible assumption | intro _ | with_reducible apply fwRun_frame | with_reducible apply answerFw_frame | with_reducible apply FrameR.mk'

theorem execDatumRead_frame  (h : Frame m a s) (hm : sub [.cfg] m = true) : FrameR m a (execDatumRead s) := by
  unfold execDatumRead
  repeat' first
    | with_reducible assumption | intro _ | with_reducible apply fwRun_frame | with_reducible apply answerFw_frame | with_reducible apply FrameR.mk'

theorem execAction_frame (h : Frame m a s) (hm : sub [.cfg, .slu] m = true) : FrameR m a (execAction s) := by
  unfold execAction
  repeat' first
    | with_reducible assumption | intro _ | exact sub_trans rfl hm | with_reducible apply fwRun_frame | with_reducible apply answerFw_frame
    | with_reducible apply acceptDeferred_frame | with_reducible apply newInst_frame | ((with_reducible apply Frame.out); with_reducible assumption)
    | ((with_reducible apply Frame.outO); with_reducible assumption) | split | ((with_reducible apply FrameP.snd); with_reducible apply newInst_frame)
    | with_reducible apply FrameR.mk' | with_reducible apply FrameR.fault | with_reducible apply FrameP.mk' | with_reducible apply FrameO.mk'
    | with_reducible apply FrameO.none_ | dsimp only [id_eq]

theorem fwSluRecord_frame (x : ℕ) (a_ : SluAns) (h : Frame m a s) (hm : sub [.slu] m = true) : FrameP m a (fwSluRecord x a_ s) := by
  unfold fwSluRecord
  repeat' first
    | with_reducible assumption | intro _ | exact sub_trans rfl hm | with_reducible apply setEntryRec_frame | with_reducible apply frame_ite
    | with_reducible apply frameP_ite | split | with_reducible apply FrameP.mk' | dsimp only [id_eq]

theorem fwSluDo_frame (x : ℕ) (code : ℕ) (n : ℕ) (b_ : Bytes) (h : Frame m a s) (hm : sub [.catchment, .log, .cnt, .jx, .slu] m = true) : FrameP m a (fwSluDo x code n b_ s) := by
  unfold fwSluDo
  repeat' first
    | with_reducible assumption | intro _ | exact sub_trans rfl hm | with_reducible apply postDo_frame | with_reducible apply cancelDo_frame
    | with_reducible apply rearmDo_frame | with_reducible apply frameP_ite | with_reducible apply FrameP.mk'

theorem execFwSluice_frame  (h : Frame m a s) (hm : sub [.cfg, .catchment, .log, .cnt, .jx, .slu] m = true) : FrameR m a (execFwSluice s) := by
  unfold execFwSluice
  repeat' first
    | with_reducible assumption | intro _ | exact sub_trans rfl hm | with_reducible apply fwRun_frame | with_reducible apply answerFw_frame
    | with_reducible apply onPost_frame | ((with_reducible apply FrameP.snd); with_reducible apply fwSluDo_frame)
    | ((with_reducible apply FrameP.snd); with_reducible apply fwSluRecord_frame) | with_reducible apply FrameR.mk'

theorem submitWindow_frame (h : Frame m a s) (hm : sub [.cfg, .catchment, .log, .cnt, .datum] m = true) : Frame m a (submitWindow s) := by
  unfold submitWindow
  repeat' first
    | with_reducible assumption | intro _ | exact sub_trans rfl hm | with_reducible apply fwRun_frame | with_reducible apply answerFw_frame
    | with_reducible apply refuseDatum_frame | with_reducible apply acceptDeferred_frame | with_reducible apply addProposal_frame
    | ((with_reducible apply Frame.outO); with_reducible assumption) | split | with_reducible apply FrameO.mk' | with_reducible apply FrameO.none_
    | dsimp only [id_eq]

theorem execDatumSubmit_frame (src : SubmitSource) (h : Frame m a s) (hm : sub [.cfg, .catchment, .log, .cnt, .jx, .traffic, .datum, .free] m = true) : FrameR m a (execDatumSubmit src s) := by
  unfold execDatumSubmit
  repeat' first
    | with_reducible assumption | exact sub_trans rfl hm | with_reducible apply submitWindow_frame | with_reducible apply takeControl_frame
    | with_reducible apply submitMsg_frame | ((with_reducible apply Frame.out); with_reducible assumption) | split | with_reducible apply FrameR.mk'

theorem unblock_frame (h : Frame m a s) (hm : sub [.node] m = true) : Frame m a (unblock s) := by
  unfold unblock
  repeat' first
    | with_reducible assumption | intro _ | exact sub_trans rfl hm | dsimp only [id_eq]
    | fail_if_no_progress ((with_reducible apply frame_node (hm := sub_trans rfl hm)))

theorem drainNode_frame  (h : Frame m a s) (hm : sub [.catchment, .log, .node, .jx] m = true) : Frame m a (drainNode s) := by
  unfold drainNode
  repeat' first
    | with_reducible assumption | exact sub_trans rfl hm | with_reducible apply drainCheck_frame | with_reducible apply unblock_frame | split
    | dsimp only [id_eq] | fail_if_no_progress ((with_reducible apply frame_node (hm := sub_trans rfl hm)))

theorem execNodeDrain_frame  (h : Frame m a s) (hm : sub [.cfg, .catchment, .log, .node, .jx] m = true) : FrameR m a (execNodeDrain s) := by
  unfold execNodeDrain
  repeat' first
    | with_reducible assumption | intro _ | exact sub_trans rfl hm | with_reducible apply fwRun_frame | with_reducible apply answerFw_frame
    | with_reducible apply drainNode_frame | with_reducible apply FrameR.mk'

theorem execChipReset_frame  (h : Frame m a s) (hm : sub [.pwr, .cfg] m = true) : FrameR m a (execChipReset s) := by
  unfold execChipReset
  repeat' first
    | with_reducible assumption | intro _ | exact sub_trans rfl hm | with_reducible apply fwRun_frame | split | with_reducible apply FrameR.mk'
    | dsimp only [id_eq] | fail_if_no_progress ((with_reducible apply frame_pwr (hm := sub_trans rfl hm)))

/-! ## Machine/Access.lean -/

theorem claimWrite_frame (rid : BitVec 16) (v : ℕ) (h : Frame m a s) (hm : sub [.svc] m = true) : Frame m a (claimWrite rid v s) := by
  unfold claimWrite
  repeat' first
    | with_reducible assumption | intro _ | with_reducible apply frame_ite | dsimp only [id_eq]
    | fail_if_no_progress ((with_reducible apply frame_svc (hm := sub_trans rfl hm)))

theorem hostWrite_frame (rid : BitVec 16) (off : ℕ) (act : State → State) (hact : ∀ y0, Frame m a y0 → Frame m a (act y0)) (h : Frame m a s) (hm : sub [.svc] m = true) : Frame m a (hostWrite rid off act s) := by
  unfold hostWrite
  repeat' first
    | with_reducible assumption | with_reducible apply writerGate_frame

theorem execChipClaimOwn_frame (rid : BitVec 16) (h : Frame m a s) (hm : sub [.svc] m = true) : FrameR m a (execChipClaimOwn rid s) := by
  unfold execChipClaimOwn
  repeat' first
    | with_reducible assumption | intro _ | with_reducible apply hostWrite_frame | with_reducible apply claimWrite_frame
    | with_reducible apply FrameR.mk'

theorem execChipClaimRelease_frame (rid : BitVec 16) (h : Frame m a s) (hm : sub [.svc] m = true) : FrameR m a (execChipClaimRelease rid s) := by
  unfold execChipClaimRelease
  repeat' first
    | with_reducible assumption | intro _ | with_reducible apply hostWrite_frame | with_reducible apply claimWrite_frame
    | with_reducible apply FrameR.mk'

theorem execSvcLinkReset_frame (kind : SvcReset) (h : Frame m a s) (hm : sub [.svc] m = true) : FrameR m a (execSvcLinkReset kind s) := by
  unfold execSvcLinkReset
  repeat' first
    | with_reducible assumption | with_reducible apply claimEnds_frame | split | with_reducible apply FrameR.mk'

theorem cfgSpaceWrite_frame (off : ℕ) (v : ℕ) (h : Frame m a s) (hm : sub [.svc] m = true) : Frame m a (cfgSpaceWrite off v s) := by
  unfold cfgSpaceWrite
  repeat' first
    | with_reducible assumption | split | dsimp only [id_eq] | fail_if_no_progress ((with_reducible apply frame_svc (hm := sub_trans rfl hm)))

theorem cfgRead_frame (off : ℕ) (h : Frame m a s) (hm : sub [.svc, .free] m = true) : Frame m a (cfgRead off s) := by
  unfold cfgRead
  repeat' first
    | with_reducible assumption | intro _ | exact sub_trans rfl hm | with_reducible apply svcAnswer_frame | with_reducible apply takeFree_frame
    | ((with_reducible apply Frame.out); with_reducible assumption) | with_reducible apply frame_ite | with_reducible apply frameP_ite | split
    | ((with_reducible apply FrameP.snd); with_reducible apply takeFree_frame) | with_reducible apply FrameP.mk' | dsimp only [id_eq]

theorem cfgWriteAt_frame (off : ℕ) (data : Bytes) (h : Frame m a s) (hm : sub [.svc] m = true) : Frame m a (cfgWriteAt off data s) := by
  unfold cfgWriteAt
  repeat' first
    | with_reducible assumption | intro _ | with_reducible apply svcAnswer_frame | with_reducible apply cfgSpaceWrite_frame
    | with_reducible apply frame_ite

theorem clearRc_frame (off : ℕ) (h : Frame m a s) (hm : sub [.cfg, .svc, .blk, .dma] m = true) : Frame m a (clearRc off s) := by
  unfold clearRc
  repeat' first
    | with_reducible assumption | intro _ | exact sub_trans rfl hm | with_reducible apply setDma_frame | with_reducible apply setBlk_frame
    | with_reducible apply frame_ite | split | dsimp only [id_eq] | fail_if_no_progress ((with_reducible apply frame_cfg (hm := sub_trans rfl hm)))
    | fail_if_no_progress ((with_reducible apply frame_svc (hm := sub_trans rfl hm)))

theorem latchHi_frame (off : ℕ) (h : Frame m a s) (hm : sub [.svc] m = true) : Frame m a (latchHi off s) := by
  unfold latchHi
  repeat' first
    | with_reducible assumption | intro _ | with_reducible apply frame_ite | dsimp only [id_eq]
    | fail_if_no_progress ((with_reducible apply frame_svc (hm := sub_trans rfl hm)))

theorem serveRead_frame (off : ℕ) (h : Frame m a s) (hm : sub [.cfg, .svc, .catchment, .blk, .dma, .free] m = true) : Frame m a (serveRead off s) := by
  unfold serveRead
  repeat' first
    | with_reducible assumption | intro _ | exact sub_trans rfl hm | with_reducible apply svcAnswer_frame | with_reducible apply takeFree_frame
    | with_reducible apply clearRc_frame | with_reducible apply latchHi_frame | with_reducible apply claimTarget_frame
    | ((with_reducible apply Frame.out); with_reducible assumption) | with_reducible apply frame_ite | with_reducible apply frameP_ite | split
    | ((with_reducible apply FrameP.snd); with_reducible apply takeFree_frame) | with_reducible apply FrameP.mk' | dsimp only [id_eq]

theorem barRead_frame (rid : BitVec 16) (t : Tlp) (h : Frame m a s) (hm : sub [.cfg, .svc, .catchment, .blk, .dma, .free] m = true) : Frame m a (barRead rid t s) := by
  unfold barRead
  repeat' first
    | with_reducible assumption | intro _ | exact sub_trans rfl hm | with_reducible apply svcAnswer_frame | with_reducible apply svcClaimGate_frame
    | with_reducible apply serveRead_frame | with_reducible apply svcBad_frame | ((with_reducible apply Frame.out); with_reducible assumption)
    | with_reducible apply frame_ite | with_reducible apply frameP_ite | split
    | ((with_reducible apply FrameP.snd); with_reducible apply svcClaimGate_frame) | with_reducible apply FrameP.mk' | dsimp only [id_eq]

theorem execRcRead_frame (t : Tlp) (h : Frame m a s) (hm : sub [.cfg, .svc, .catchment, .blk, .dma, .free] m = true) : FrameR m a (execRcRead t s) := by
  unfold execRcRead
  repeat' first
    | with_reducible assumption | intro _ | exact sub_trans rfl hm | with_reducible apply clearRc_frame | with_reducible apply cfgRead_frame
    | with_reducible apply barRead_frame | with_reducible apply frame_ite | split | with_reducible apply FrameR.mk'
    | with_reducible apply FrameR.fault | dsimp only [id_eq]

theorem clearCause_frame (id : ℕ) (v : ℕ) (h : Frame m a s) (hm : sub [.catchment] m = true) : Frame m a (clearCause id v s) := by
  unfold clearCause
  repeat' first
    | with_reducible assumption | split | dsimp only [id_eq] | fail_if_no_progress ((with_reducible apply frame_catchment (hm := sub_trans rfl hm)))

theorem catchWrite_frame (who : Writer) (o : ℕ) (v : ℕ) (h : Frame m a s) (hm : sub [.catchment, .log] m = true) : Frame m a (catchWrite who o v s) := by
  unfold catchWrite
  repeat' first
    | with_reducible assumption | intro _ | exact sub_trans rfl hm | with_reducible apply settle_frame | with_reducible apply completeTarget_frame
    | with_reducible apply frame_ite | fail_if_no_progress ((with_reducible apply frame_catchment (hm := sub_trans rfl hm)))

theorem bmkWrite_frame (who : Writer) (o : ℕ) (v : ℕ) (h : Frame m a s) (hm : sub [.bmk] m = true) : Frame m a (bmkWrite who o v s) := by
  unfold bmkWrite
  repeat' first
    | with_reducible assumption | intro _ | with_reducible apply setTmr_frame | with_reducible apply frame_ite | split | dsimp only [id_eq]
    | fail_if_no_progress ((with_reducible apply frame_bmk (hm := sub_trans rfl hm)))

theorem cmdWrite_frame (v : ℕ) (h : Frame m a s) (hm : sub [.cfg, .svc] m = true) : Frame m a (cmdWrite v s) := by
  unfold cmdWrite
  repeat' first
    | with_reducible assumption | intro _ | exact sub_trans rfl hm | with_reducible apply svcBad_frame | with_reducible apply frame_ite
    | fail_if_no_progress ((with_reducible apply frame_cfg (hm := sub_trans rfl hm)))

theorem windowWrite_frame (f : Cfg → Cfg) (h : Frame m a s) (hm : sub [.cfg, .svc] m = true) : Frame m a (windowWrite f s) := by
  unfold windowWrite
  repeat' first
    | with_reducible assumption | intro _ | exact sub_trans rfl hm | with_reducible apply svcBad_frame | with_reducible apply frame_ite
    | fail_if_no_progress ((with_reducible apply frame_cfg (hm := sub_trans rfl hm)))

theorem cfgBlockWrite_frame (o : ℕ) (v : ℕ) (h : Frame m a s) (hm : sub [.cfg, .svc] m = true) : Frame m a (cfgBlockWrite o v s) := by
  unfold cfgBlockWrite
  repeat' first
    | with_reducible assumption | intro _ | with_reducible apply cmdWrite_frame | with_reducible apply windowWrite_frame
    | with_reducible apply frame_ite

theorem settingWord_frame (off : ℕ) (v : ℕ) (h : Frame m a s) (hm : sub [.catchment, .log, .jx, .traffic] m = true) : Frame m a (settingWord off v s) := by
  unfold settingWord
  repeat' first
    | with_reducible assumption | intro _ | exact sub_trans rfl hm | with_reducible apply commitWeir_frame | with_reducible apply commitMeter_frame
    | with_reducible apply commitEq_frame | with_reducible apply frame_ite | split | dsimp only [id_eq]
    | fail_if_no_progress ((with_reducible apply frame_traffic (hm := sub_trans rfl hm)))

theorem dmaAbortNow_frame (c : ℕ) (h : Frame m a s) (hm : sub [.catchment, .log, .mem, .dma, .free] m = true) : Frame m a (dmaAbortNow c s) := by
  unfold dmaAbortNow
  repeat' first
    | with_reducible assumption | exact sub_trans rfl hm | with_reducible apply dmaAbortAt_frame
    | ((with_reducible apply FrameP.snd); with_reducible apply takeFree_frame)

theorem dmaWrite_frame (c : ℕ) (o : ℕ) (v : ℕ) (h : Frame m a s) (hm : sub [.catchment, .log, .rgn, .mem, .dma, .free] m = true) : Frame m a (dmaWrite c o v s) := by
  unfold dmaWrite
  repeat' first
    | with_reducible assumption | intro _ | exact sub_trans rfl hm | with_reducible apply setDma_frame | with_reducible apply dmaAbortNow_frame
    | with_reducible apply dmaEvent_frame | with_reducible apply frame_ite | split

theorem modeWrite_frame (r : ℕ) (v : ℕ) (h : Frame m a s) (hm : sub [.rgn] m = true) : Frame m a (modeWrite r v s) := by
  unfold modeWrite
  repeat' first
    | with_reducible assumption | intro _ | exact sub_trans rfl hm | with_reducible apply setMode_frame | dsimp only [id_eq]

theorem writeWord_frame (who : Writer) (off : ℕ) (v : ℕ) (h : Frame m a s) (hm : sub [.bmk, .cfg, .svc, .catchment, .log, .rgn, .mem, .jx, .traffic, .dma, .free] m = true) : Frame m a (writeWord who off v s) := by
  unfold writeWord
  repeat' first
    | with_reducible assumption | intro _ | exact sub_trans rfl hm | with_reducible apply dmaWrite_frame | with_reducible apply writeCauseEn_frame
    | with_reducible apply clearCause_frame | with_reducible apply claimWrite_frame | with_reducible apply catchWrite_frame
    | with_reducible apply bmkWrite_frame | with_reducible apply cfgBlockWrite_frame | with_reducible apply settingWord_frame
    | with_reducible apply modeWrite_frame | with_reducible apply frame_ite | split

theorem bufferWrite_frame (o : ℕ) (data : Bytes) (h : Frame m a s) (hm : sub [.cfg, .svc] m = true) : Frame m a (bufferWrite o data s) := by
  unfold bufferWrite
  repeat' first
    | with_reducible assumption | intro _ | exact sub_trans rfl hm | with_reducible apply svcAnswer_frame | with_reducible apply svcBad_frame
    | with_reducible apply frame_ite | dsimp only [id_eq] | fail_if_no_progress ((with_reducible apply frame_cfg (hm := sub_trans rfl hm)))

theorem barWrite_frame (rid : BitVec 16) (t : Tlp) (h : Frame m a s) (hm : sub [.bmk, .cfg, .svc, .catchment, .log, .rgn, .mem, .jx, .traffic, .dma, .free] m = true) : Frame m a (barWrite rid t s) := by
  unfold barWrite
  repeat' first
    | with_reducible assumption | intro _ | exact sub_trans rfl hm | with_reducible apply svcAnswer_frame | with_reducible apply svcClaimGate_frame
    | with_reducible apply bufferWrite_frame | with_reducible apply writeWord_frame | with_reducible apply svcBad_frame
    | ((with_reducible apply Frame.out); with_reducible assumption) | with_reducible apply frame_ite | with_reducible apply frameP_ite | split
    | ((with_reducible apply FrameP.snd); with_reducible apply svcClaimGate_frame) | with_reducible apply FrameP.mk' | dsimp only [id_eq]

theorem execRegisterWrite_frame (t : Tlp) (h : Frame m a s) (hm : sub [.bmk, .cfg, .svc, .catchment, .log, .rgn, .mem, .jx, .traffic, .dma, .free] m = true) : FrameR m a (execRegisterWrite t s) := by
  unfold execRegisterWrite
  repeat' first
    | with_reducible assumption | intro _ | exact sub_trans rfl hm | with_reducible apply writeWord_frame | with_reducible apply cfgWriteAt_frame
    | with_reducible apply barWrite_frame | with_reducible apply frame_ite | split | with_reducible apply FrameR.mk'
    | with_reducible apply FrameR.fault | dsimp only [id_eq]

theorem i2cWord_frame (off : ℕ) (h : Frame m a s) (hm : sub [.svc, .free] m = true) : FrameP m a (i2cWord off s) := by
  unfold i2cWord
  repeat' first
    | with_reducible assumption | intro _ | exact sub_trans rfl hm | with_reducible apply takeFree_frame
    | ((with_reducible apply Frame.out); with_reducible assumption) | with_reducible apply Frame.getD | with_reducible apply frame_ite
    | with_reducible apply frameP_ite | split | ((with_reducible apply FrameP.snd); with_reducible apply takeFree_frame)
    | with_reducible apply FrameP.mk' | dsimp only [id_eq] | fail_if_no_progress ((with_reducible apply frame_svc (hm := sub_trans rfl hm)))

theorem i2cWords_frame (p0 : ℕ) (p1 : ℕ) (h : Frame m a s) (hm : sub [.svc, .free] m = true) : FrameP m a (i2cWords p0 p1 s) := by
  induction p0 generalizing s p1 with
  | zero =>
    unfold i2cWords
    repeat' first
      | with_reducible assumption | with_reducible apply FrameP.mk'
  | succ _ ih =>
    unfold i2cWords
    repeat' first
      | with_reducible assumption | ((with_reducible apply FrameP.snd); apply ih)
      | ((with_reducible apply FrameP.snd); with_reducible apply i2cWord_frame) | with_reducible apply FrameP.mk'

theorem i2cEnd_frame (nack : Bool) (answer : Bytes) (h : Frame m a s) (hm : sub [.svc] m = true) : Frame m a (i2cEnd nack answer s) := by
  unfold i2cEnd
  repeat' first
    | with_reducible assumption | intro _ | exact sub_trans rfl hm | dsimp only [id_eq]
    | fail_if_no_progress ((with_reducible apply frame_svc (hm := sub_trans rfl hm)))

theorem execI2cTransaction_frame (written : I2cWrite) (readLen : ℕ) (h : Frame m a s) (hm : sub [.svc, .free] m = true) : FrameR m a (execI2cTransaction written readLen s) := by
  unfold execI2cTransaction
  repeat' first
    | with_reducible assumption | intro _ | exact sub_trans rfl hm | with_reducible apply i2cEnd_frame | with_reducible apply i2cWords_frame
    | ((with_reducible apply Frame.out); with_reducible assumption) | with_reducible apply frame_ite | with_reducible apply frameP_ite | split
    | ((with_reducible apply FrameP.snd); with_reducible apply i2cWords_frame) | with_reducible apply FrameR.mk' | with_reducible apply FrameR.fault
    | with_reducible apply FrameP.mk' | dsimp only [id_eq]

end Sys2Proof.Laws
end

