-- ==== Sys2Proof/Laws/State.lean ====
section
/-! SUPPORT. What each operation that writes one group of the state leaves alone: one lemma per operation and field, true by
unfolding. Generated from the definitions' own text. -/

namespace Sys2Proof.Laws

open Sys2Proof.Machine

/-! ### `setProps` changes `datum` alone -/

@[simp] theorem setProps_bmk (c : Nat) (l : List Proposal) (s : State) : (setProps c l s).bmk = s.bmk := rfl
@[simp] theorem setProps_pwr (c : Nat) (l : List Proposal) (s : State) : (setProps c l s).pwr = s.pwr := rfl
@[simp] theorem setProps_cfg (c : Nat) (l : List Proposal) (s : State) : (setProps c l s).cfg = s.cfg := rfl
@[simp] theorem setProps_svc (c : Nat) (l : List Proposal) (s : State) : (setProps c l s).svc = s.svc := rfl
@[simp] theorem setProps_catchment (c : Nat) (l : List Proposal) (s : State) : (setProps c l s).catchment = s.catchment := rfl
@[simp] theorem setProps_log (c : Nat) (l : List Proposal) (s : State) : (setProps c l s).log = s.log := rfl
@[simp] theorem setProps_cnt (c : Nat) (l : List Proposal) (s : State) : (setProps c l s).cnt = s.cnt := rfl
@[simp] theorem setProps_barrier (c : Nat) (l : List Proposal) (s : State) : (setProps c l s).barrier = s.barrier := rfl
@[simp] theorem setProps_rgn (c : Nat) (l : List Proposal) (s : State) : (setProps c l s).rgn = s.rgn := rfl
@[simp] theorem setProps_pair (c : Nat) (l : List Proposal) (s : State) : (setProps c l s).pair = s.pair := rfl
@[simp] theorem setProps_blk (c : Nat) (l : List Proposal) (s : State) : (setProps c l s).blk = s.blk := rfl
@[simp] theorem setProps_cap (c : Nat) (l : List Proposal) (s : State) : (setProps c l s).cap = s.cap := rfl
@[simp] theorem setProps_tier (c : Nat) (l : List Proposal) (s : State) : (setProps c l s).tier = s.tier := rfl
@[simp] theorem setProps_node (c : Nat) (l : List Proposal) (s : State) : (setProps c l s).node = s.node := rfl
@[simp] theorem setProps_ctl (c : Nat) (l : List Proposal) (s : State) : (setProps c l s).ctl = s.ctl := rfl
@[simp] theorem setProps_jtag (c : Nat) (l : List Proposal) (s : State) : (setProps c l s).jtag = s.jtag := rfl
@[simp] theorem setProps_fuse (c : Nat) (l : List Proposal) (s : State) : (setProps c l s).fuse = s.fuse := rfl
@[simp] theorem setProps_mem (c : Nat) (l : List Proposal) (s : State) : (setProps c l s).mem = s.mem := rfl
@[simp] theorem setProps_sto (c : Nat) (l : List Proposal) (s : State) : (setProps c l s).sto = s.sto := rfl
@[simp] theorem setProps_dir (c : Nat) (l : List Proposal) (s : State) : (setProps c l s).dir = s.dir := rfl
@[simp] theorem setProps_tlb (c : Nat) (l : List Proposal) (s : State) : (setProps c l s).tlb = s.tlb := rfl
@[simp] theorem setProps_chan (c : Nat) (l : List Proposal) (s : State) : (setProps c l s).chan = s.chan := rfl
@[simp] theorem setProps_work (c : Nat) (l : List Proposal) (s : State) : (setProps c l s).work = s.work := rfl
@[simp] theorem setProps_prog (c : Nat) (l : List Proposal) (s : State) : (setProps c l s).prog = s.prog := rfl
@[simp] theorem setProps_installs (c : Nat) (l : List Proposal) (s : State) : (setProps c l s).installs = s.installs := rfl
@[simp] theorem setProps_req (c : Nat) (l : List Proposal) (s : State) : (setProps c l s).req = s.req := rfl
@[simp] theorem setProps_nextReq (c : Nat) (l : List Proposal) (s : State) : (setProps c l s).nextReq = s.nextReq := rfl
@[simp] theorem setProps_readLog (c : Nat) (l : List Proposal) (s : State) : (setProps c l s).readLog = s.readLog := rfl
@[simp] theorem setProps_key (c : Nat) (l : List Proposal) (s : State) : (setProps c l s).key = s.key := rfl
@[simp] theorem setProps_jx (c : Nat) (l : List Proposal) (s : State) : (setProps c l s).jx = s.jx := rfl
@[simp] theorem setProps_slu (c : Nat) (l : List Proposal) (s : State) : (setProps c l s).slu = s.slu := rfl
@[simp] theorem setProps_traffic (c : Nat) (l : List Proposal) (s : State) : (setProps c l s).traffic = s.traffic := rfl
@[simp] theorem setProps_sec (c : Nat) (l : List Proposal) (s : State) : (setProps c l s).sec = s.sec := rfl
@[simp] theorem setProps_dma (c : Nat) (l : List Proposal) (s : State) : (setProps c l s).dma = s.dma := rfl
@[simp] theorem setProps_saved (c : Nat) (l : List Proposal) (s : State) : (setProps c l s).saved = s.saved := rfl
@[simp] theorem setProps_free (c : Nat) (l : List Proposal) (s : State) : (setProps c l s).free = s.free := rfl
@[simp] theorem setProps_resets (c : Nat) (l : List Proposal) (s : State) : (setProps c l s).resets = s.resets := rfl
@[simp] theorem setProps_pending (c : Nat) (l : List Proposal) (s : State) : (setProps c l s).pending = s.pending := rfl

/-! ### `setBarrier` changes `barrier` alone -/

@[simp] theorem setBarrier_bmk (b : Nat) (u : Barrier) (s : State) : (setBarrier b u s).bmk = s.bmk := rfl
@[simp] theorem setBarrier_pwr (b : Nat) (u : Barrier) (s : State) : (setBarrier b u s).pwr = s.pwr := rfl
@[simp] theorem setBarrier_cfg (b : Nat) (u : Barrier) (s : State) : (setBarrier b u s).cfg = s.cfg := rfl
@[simp] theorem setBarrier_svc (b : Nat) (u : Barrier) (s : State) : (setBarrier b u s).svc = s.svc := rfl
@[simp] theorem setBarrier_catchment (b : Nat) (u : Barrier) (s : State) : (setBarrier b u s).catchment = s.catchment := rfl
@[simp] theorem setBarrier_log (b : Nat) (u : Barrier) (s : State) : (setBarrier b u s).log = s.log := rfl
@[simp] theorem setBarrier_cnt (b : Nat) (u : Barrier) (s : State) : (setBarrier b u s).cnt = s.cnt := rfl
@[simp] theorem setBarrier_rgn (b : Nat) (u : Barrier) (s : State) : (setBarrier b u s).rgn = s.rgn := rfl
@[simp] theorem setBarrier_pair (b : Nat) (u : Barrier) (s : State) : (setBarrier b u s).pair = s.pair := rfl
@[simp] theorem setBarrier_blk (b : Nat) (u : Barrier) (s : State) : (setBarrier b u s).blk = s.blk := rfl
@[simp] theorem setBarrier_cap (b : Nat) (u : Barrier) (s : State) : (setBarrier b u s).cap = s.cap := rfl
@[simp] theorem setBarrier_tier (b : Nat) (u : Barrier) (s : State) : (setBarrier b u s).tier = s.tier := rfl
@[simp] theorem setBarrier_node (b : Nat) (u : Barrier) (s : State) : (setBarrier b u s).node = s.node := rfl
@[simp] theorem setBarrier_ctl (b : Nat) (u : Barrier) (s : State) : (setBarrier b u s).ctl = s.ctl := rfl
@[simp] theorem setBarrier_jtag (b : Nat) (u : Barrier) (s : State) : (setBarrier b u s).jtag = s.jtag := rfl
@[simp] theorem setBarrier_fuse (b : Nat) (u : Barrier) (s : State) : (setBarrier b u s).fuse = s.fuse := rfl
@[simp] theorem setBarrier_mem (b : Nat) (u : Barrier) (s : State) : (setBarrier b u s).mem = s.mem := rfl
@[simp] theorem setBarrier_sto (b : Nat) (u : Barrier) (s : State) : (setBarrier b u s).sto = s.sto := rfl
@[simp] theorem setBarrier_dir (b : Nat) (u : Barrier) (s : State) : (setBarrier b u s).dir = s.dir := rfl
@[simp] theorem setBarrier_tlb (b : Nat) (u : Barrier) (s : State) : (setBarrier b u s).tlb = s.tlb := rfl
@[simp] theorem setBarrier_chan (b : Nat) (u : Barrier) (s : State) : (setBarrier b u s).chan = s.chan := rfl
@[simp] theorem setBarrier_work (b : Nat) (u : Barrier) (s : State) : (setBarrier b u s).work = s.work := rfl
@[simp] theorem setBarrier_prog (b : Nat) (u : Barrier) (s : State) : (setBarrier b u s).prog = s.prog := rfl
@[simp] theorem setBarrier_installs (b : Nat) (u : Barrier) (s : State) : (setBarrier b u s).installs = s.installs := rfl
@[simp] theorem setBarrier_req (b : Nat) (u : Barrier) (s : State) : (setBarrier b u s).req = s.req := rfl
@[simp] theorem setBarrier_nextReq (b : Nat) (u : Barrier) (s : State) : (setBarrier b u s).nextReq = s.nextReq := rfl
@[simp] theorem setBarrier_readLog (b : Nat) (u : Barrier) (s : State) : (setBarrier b u s).readLog = s.readLog := rfl
@[simp] theorem setBarrier_key (b : Nat) (u : Barrier) (s : State) : (setBarrier b u s).key = s.key := rfl
@[simp] theorem setBarrier_jx (b : Nat) (u : Barrier) (s : State) : (setBarrier b u s).jx = s.jx := rfl
@[simp] theorem setBarrier_slu (b : Nat) (u : Barrier) (s : State) : (setBarrier b u s).slu = s.slu := rfl
@[simp] theorem setBarrier_traffic (b : Nat) (u : Barrier) (s : State) : (setBarrier b u s).traffic = s.traffic := rfl
@[simp] theorem setBarrier_datum (b : Nat) (u : Barrier) (s : State) : (setBarrier b u s).datum = s.datum := rfl
@[simp] theorem setBarrier_sec (b : Nat) (u : Barrier) (s : State) : (setBarrier b u s).sec = s.sec := rfl
@[simp] theorem setBarrier_dma (b : Nat) (u : Barrier) (s : State) : (setBarrier b u s).dma = s.dma := rfl
@[simp] theorem setBarrier_saved (b : Nat) (u : Barrier) (s : State) : (setBarrier b u s).saved = s.saved := rfl
@[simp] theorem setBarrier_free (b : Nat) (u : Barrier) (s : State) : (setBarrier b u s).free = s.free := rfl
@[simp] theorem setBarrier_resets (b : Nat) (u : Barrier) (s : State) : (setBarrier b u s).resets = s.resets := rfl
@[simp] theorem setBarrier_pending (b : Nat) (u : Barrier) (s : State) : (setBarrier b u s).pending = s.pending := rfl

/-! ### `setTokens` changes `traffic` alone -/

@[simp] theorem setTokens_bmk (r p v : Nat) (s : State) : (setTokens r p v s).bmk = s.bmk := rfl
@[simp] theorem setTokens_pwr (r p v : Nat) (s : State) : (setTokens r p v s).pwr = s.pwr := rfl
@[simp] theorem setTokens_cfg (r p v : Nat) (s : State) : (setTokens r p v s).cfg = s.cfg := rfl
@[simp] theorem setTokens_svc (r p v : Nat) (s : State) : (setTokens r p v s).svc = s.svc := rfl
@[simp] theorem setTokens_catchment (r p v : Nat) (s : State) : (setTokens r p v s).catchment = s.catchment := rfl
@[simp] theorem setTokens_log (r p v : Nat) (s : State) : (setTokens r p v s).log = s.log := rfl
@[simp] theorem setTokens_cnt (r p v : Nat) (s : State) : (setTokens r p v s).cnt = s.cnt := rfl
@[simp] theorem setTokens_barrier (r p v : Nat) (s : State) : (setTokens r p v s).barrier = s.barrier := rfl
@[simp] theorem setTokens_rgn (r p v : Nat) (s : State) : (setTokens r p v s).rgn = s.rgn := rfl
@[simp] theorem setTokens_pair (r p v : Nat) (s : State) : (setTokens r p v s).pair = s.pair := rfl
@[simp] theorem setTokens_blk (r p v : Nat) (s : State) : (setTokens r p v s).blk = s.blk := rfl
@[simp] theorem setTokens_cap (r p v : Nat) (s : State) : (setTokens r p v s).cap = s.cap := rfl
@[simp] theorem setTokens_tier (r p v : Nat) (s : State) : (setTokens r p v s).tier = s.tier := rfl
@[simp] theorem setTokens_node (r p v : Nat) (s : State) : (setTokens r p v s).node = s.node := rfl
@[simp] theorem setTokens_ctl (r p v : Nat) (s : State) : (setTokens r p v s).ctl = s.ctl := rfl
@[simp] theorem setTokens_jtag (r p v : Nat) (s : State) : (setTokens r p v s).jtag = s.jtag := rfl
@[simp] theorem setTokens_fuse (r p v : Nat) (s : State) : (setTokens r p v s).fuse = s.fuse := rfl
@[simp] theorem setTokens_mem (r p v : Nat) (s : State) : (setTokens r p v s).mem = s.mem := rfl
@[simp] theorem setTokens_sto (r p v : Nat) (s : State) : (setTokens r p v s).sto = s.sto := rfl
@[simp] theorem setTokens_dir (r p v : Nat) (s : State) : (setTokens r p v s).dir = s.dir := rfl
@[simp] theorem setTokens_tlb (r p v : Nat) (s : State) : (setTokens r p v s).tlb = s.tlb := rfl
@[simp] theorem setTokens_chan (r p v : Nat) (s : State) : (setTokens r p v s).chan = s.chan := rfl
@[simp] theorem setTokens_work (r p v : Nat) (s : State) : (setTokens r p v s).work = s.work := rfl
@[simp] theorem setTokens_prog (r p v : Nat) (s : State) : (setTokens r p v s).prog = s.prog := rfl
@[simp] theorem setTokens_installs (r p v : Nat) (s : State) : (setTokens r p v s).installs = s.installs := rfl
@[simp] theorem setTokens_req (r p v : Nat) (s : State) : (setTokens r p v s).req = s.req := rfl
@[simp] theorem setTokens_nextReq (r p v : Nat) (s : State) : (setTokens r p v s).nextReq = s.nextReq := rfl
@[simp] theorem setTokens_readLog (r p v : Nat) (s : State) : (setTokens r p v s).readLog = s.readLog := rfl
@[simp] theorem setTokens_key (r p v : Nat) (s : State) : (setTokens r p v s).key = s.key := rfl
@[simp] theorem setTokens_slu (r p v : Nat) (s : State) : (setTokens r p v s).slu = s.slu := rfl
@[simp] theorem setTokens_datum (r p v : Nat) (s : State) : (setTokens r p v s).datum = s.datum := rfl
@[simp] theorem setTokens_sec (r p v : Nat) (s : State) : (setTokens r p v s).sec = s.sec := rfl
@[simp] theorem setTokens_dma (r p v : Nat) (s : State) : (setTokens r p v s).dma = s.dma := rfl
@[simp] theorem setTokens_saved (r p v : Nat) (s : State) : (setTokens r p v s).saved = s.saved := rfl
@[simp] theorem setTokens_free (r p v : Nat) (s : State) : (setTokens r p v s).free = s.free := rfl
@[simp] theorem setTokens_resets (r p v : Nat) (s : State) : (setTokens r p v s).resets = s.resets := rfl
@[simp] theorem setTokens_pending (r p v : Nat) (s : State) : (setTokens r p v s).pending = s.pending := rfl
@[simp] theorem setTokens_jx (r p v : Nat) (s : State) : (setTokens r p v s).jx = s.jx := rfl

/-! ### `serveTurn` changes `traffic` alone -/

@[simp] theorem serveTurn_bmk (x : Nat) (l : List Turn) (w : Turn) (s : State) : (serveTurn x l w s).bmk = s.bmk := rfl
@[simp] theorem serveTurn_pwr (x : Nat) (l : List Turn) (w : Turn) (s : State) : (serveTurn x l w s).pwr = s.pwr := rfl
@[simp] theorem serveTurn_cfg (x : Nat) (l : List Turn) (w : Turn) (s : State) : (serveTurn x l w s).cfg = s.cfg := rfl
@[simp] theorem serveTurn_svc (x : Nat) (l : List Turn) (w : Turn) (s : State) : (serveTurn x l w s).svc = s.svc := rfl
@[simp] theorem serveTurn_catchment (x : Nat) (l : List Turn) (w : Turn) (s : State) : (serveTurn x l w s).catchment = s.catchment := rfl
@[simp] theorem serveTurn_log (x : Nat) (l : List Turn) (w : Turn) (s : State) : (serveTurn x l w s).log = s.log := rfl
@[simp] theorem serveTurn_cnt (x : Nat) (l : List Turn) (w : Turn) (s : State) : (serveTurn x l w s).cnt = s.cnt := rfl
@[simp] theorem serveTurn_barrier (x : Nat) (l : List Turn) (w : Turn) (s : State) : (serveTurn x l w s).barrier = s.barrier := rfl
@[simp] theorem serveTurn_rgn (x : Nat) (l : List Turn) (w : Turn) (s : State) : (serveTurn x l w s).rgn = s.rgn := rfl
@[simp] theorem serveTurn_pair (x : Nat) (l : List Turn) (w : Turn) (s : State) : (serveTurn x l w s).pair = s.pair := rfl
@[simp] theorem serveTurn_blk (x : Nat) (l : List Turn) (w : Turn) (s : State) : (serveTurn x l w s).blk = s.blk := rfl
@[simp] theorem serveTurn_cap (x : Nat) (l : List Turn) (w : Turn) (s : State) : (serveTurn x l w s).cap = s.cap := rfl
@[simp] theorem serveTurn_tier (x : Nat) (l : List Turn) (w : Turn) (s : State) : (serveTurn x l w s).tier = s.tier := rfl
@[simp] theorem serveTurn_node (x : Nat) (l : List Turn) (w : Turn) (s : State) : (serveTurn x l w s).node = s.node := rfl
@[simp] theorem serveTurn_ctl (x : Nat) (l : List Turn) (w : Turn) (s : State) : (serveTurn x l w s).ctl = s.ctl := rfl
@[simp] theorem serveTurn_jtag (x : Nat) (l : List Turn) (w : Turn) (s : State) : (serveTurn x l w s).jtag = s.jtag := rfl
@[simp] theorem serveTurn_fuse (x : Nat) (l : List Turn) (w : Turn) (s : State) : (serveTurn x l w s).fuse = s.fuse := rfl
@[simp] theorem serveTurn_mem (x : Nat) (l : List Turn) (w : Turn) (s : State) : (serveTurn x l w s).mem = s.mem := rfl
@[simp] theorem serveTurn_sto (x : Nat) (l : List Turn) (w : Turn) (s : State) : (serveTurn x l w s).sto = s.sto := rfl
@[simp] theorem serveTurn_dir (x : Nat) (l : List Turn) (w : Turn) (s : State) : (serveTurn x l w s).dir = s.dir := rfl
@[simp] theorem serveTurn_tlb (x : Nat) (l : List Turn) (w : Turn) (s : State) : (serveTurn x l w s).tlb = s.tlb := rfl
@[simp] theorem serveTurn_chan (x : Nat) (l : List Turn) (w : Turn) (s : State) : (serveTurn x l w s).chan = s.chan := rfl
@[simp] theorem serveTurn_work (x : Nat) (l : List Turn) (w : Turn) (s : State) : (serveTurn x l w s).work = s.work := rfl
@[simp] theorem serveTurn_prog (x : Nat) (l : List Turn) (w : Turn) (s : State) : (serveTurn x l w s).prog = s.prog := rfl
@[simp] theorem serveTurn_installs (x : Nat) (l : List Turn) (w : Turn) (s : State) : (serveTurn x l w s).installs = s.installs := rfl
@[simp] theorem serveTurn_req (x : Nat) (l : List Turn) (w : Turn) (s : State) : (serveTurn x l w s).req = s.req := rfl
@[simp] theorem serveTurn_nextReq (x : Nat) (l : List Turn) (w : Turn) (s : State) : (serveTurn x l w s).nextReq = s.nextReq := rfl
@[simp] theorem serveTurn_readLog (x : Nat) (l : List Turn) (w : Turn) (s : State) : (serveTurn x l w s).readLog = s.readLog := rfl
@[simp] theorem serveTurn_key (x : Nat) (l : List Turn) (w : Turn) (s : State) : (serveTurn x l w s).key = s.key := rfl
@[simp] theorem serveTurn_slu (x : Nat) (l : List Turn) (w : Turn) (s : State) : (serveTurn x l w s).slu = s.slu := rfl
@[simp] theorem serveTurn_datum (x : Nat) (l : List Turn) (w : Turn) (s : State) : (serveTurn x l w s).datum = s.datum := rfl
@[simp] theorem serveTurn_sec (x : Nat) (l : List Turn) (w : Turn) (s : State) : (serveTurn x l w s).sec = s.sec := rfl
@[simp] theorem serveTurn_dma (x : Nat) (l : List Turn) (w : Turn) (s : State) : (serveTurn x l w s).dma = s.dma := rfl
@[simp] theorem serveTurn_saved (x : Nat) (l : List Turn) (w : Turn) (s : State) : (serveTurn x l w s).saved = s.saved := rfl
@[simp] theorem serveTurn_free (x : Nat) (l : List Turn) (w : Turn) (s : State) : (serveTurn x l w s).free = s.free := rfl
@[simp] theorem serveTurn_resets (x : Nat) (l : List Turn) (w : Turn) (s : State) : (serveTurn x l w s).resets = s.resets := rfl
@[simp] theorem serveTurn_pending (x : Nat) (l : List Turn) (w : Turn) (s : State) : (serveTurn x l w s).pending = s.pending := rfl
@[simp] theorem serveTurn_jx (x : Nat) (l : List Turn) (w : Turn) (s : State) : (serveTurn x l w s).jx = s.jx := rfl

/-! ### `putWeir` changes `traffic` alone -/

@[simp] theorem putWeir_bmk (p : Nat) (w : Weir) (s : State) : (putWeir p w s).bmk = s.bmk := rfl
@[simp] theorem putWeir_pwr (p : Nat) (w : Weir) (s : State) : (putWeir p w s).pwr = s.pwr := rfl
@[simp] theorem putWeir_cfg (p : Nat) (w : Weir) (s : State) : (putWeir p w s).cfg = s.cfg := rfl
@[simp] theorem putWeir_svc (p : Nat) (w : Weir) (s : State) : (putWeir p w s).svc = s.svc := rfl
@[simp] theorem putWeir_catchment (p : Nat) (w : Weir) (s : State) : (putWeir p w s).catchment = s.catchment := rfl
@[simp] theorem putWeir_log (p : Nat) (w : Weir) (s : State) : (putWeir p w s).log = s.log := rfl
@[simp] theorem putWeir_cnt (p : Nat) (w : Weir) (s : State) : (putWeir p w s).cnt = s.cnt := rfl
@[simp] theorem putWeir_barrier (p : Nat) (w : Weir) (s : State) : (putWeir p w s).barrier = s.barrier := rfl
@[simp] theorem putWeir_rgn (p : Nat) (w : Weir) (s : State) : (putWeir p w s).rgn = s.rgn := rfl
@[simp] theorem putWeir_pair (p : Nat) (w : Weir) (s : State) : (putWeir p w s).pair = s.pair := rfl
@[simp] theorem putWeir_blk (p : Nat) (w : Weir) (s : State) : (putWeir p w s).blk = s.blk := rfl
@[simp] theorem putWeir_cap (p : Nat) (w : Weir) (s : State) : (putWeir p w s).cap = s.cap := rfl
@[simp] theorem putWeir_tier (p : Nat) (w : Weir) (s : State) : (putWeir p w s).tier = s.tier := rfl
@[simp] theorem putWeir_node (p : Nat) (w : Weir) (s : State) : (putWeir p w s).node = s.node := rfl
@[simp] theorem putWeir_ctl (p : Nat) (w : Weir) (s : State) : (putWeir p w s).ctl = s.ctl := rfl
@[simp] theorem putWeir_jtag (p : Nat) (w : Weir) (s : State) : (putWeir p w s).jtag = s.jtag := rfl
@[simp] theorem putWeir_fuse (p : Nat) (w : Weir) (s : State) : (putWeir p w s).fuse = s.fuse := rfl
@[simp] theorem putWeir_mem (p : Nat) (w : Weir) (s : State) : (putWeir p w s).mem = s.mem := rfl
@[simp] theorem putWeir_sto (p : Nat) (w : Weir) (s : State) : (putWeir p w s).sto = s.sto := rfl
@[simp] theorem putWeir_dir (p : Nat) (w : Weir) (s : State) : (putWeir p w s).dir = s.dir := rfl
@[simp] theorem putWeir_tlb (p : Nat) (w : Weir) (s : State) : (putWeir p w s).tlb = s.tlb := rfl
@[simp] theorem putWeir_chan (p : Nat) (w : Weir) (s : State) : (putWeir p w s).chan = s.chan := rfl
@[simp] theorem putWeir_work (p : Nat) (w : Weir) (s : State) : (putWeir p w s).work = s.work := rfl
@[simp] theorem putWeir_prog (p : Nat) (w : Weir) (s : State) : (putWeir p w s).prog = s.prog := rfl
@[simp] theorem putWeir_installs (p : Nat) (w : Weir) (s : State) : (putWeir p w s).installs = s.installs := rfl
@[simp] theorem putWeir_req (p : Nat) (w : Weir) (s : State) : (putWeir p w s).req = s.req := rfl
@[simp] theorem putWeir_nextReq (p : Nat) (w : Weir) (s : State) : (putWeir p w s).nextReq = s.nextReq := rfl
@[simp] theorem putWeir_readLog (p : Nat) (w : Weir) (s : State) : (putWeir p w s).readLog = s.readLog := rfl
@[simp] theorem putWeir_key (p : Nat) (w : Weir) (s : State) : (putWeir p w s).key = s.key := rfl
@[simp] theorem putWeir_slu (p : Nat) (w : Weir) (s : State) : (putWeir p w s).slu = s.slu := rfl
@[simp] theorem putWeir_datum (p : Nat) (w : Weir) (s : State) : (putWeir p w s).datum = s.datum := rfl
@[simp] theorem putWeir_sec (p : Nat) (w : Weir) (s : State) : (putWeir p w s).sec = s.sec := rfl
@[simp] theorem putWeir_dma (p : Nat) (w : Weir) (s : State) : (putWeir p w s).dma = s.dma := rfl
@[simp] theorem putWeir_saved (p : Nat) (w : Weir) (s : State) : (putWeir p w s).saved = s.saved := rfl
@[simp] theorem putWeir_free (p : Nat) (w : Weir) (s : State) : (putWeir p w s).free = s.free := rfl
@[simp] theorem putWeir_resets (p : Nat) (w : Weir) (s : State) : (putWeir p w s).resets = s.resets := rfl
@[simp] theorem putWeir_pending (p : Nat) (w : Weir) (s : State) : (putWeir p w s).pending = s.pending := rfl
@[simp] theorem putWeir_jx (p : Nat) (w : Weir) (s : State) : (putWeir p w s).jx = s.jx := rfl

/-! ### `putMeter` changes `traffic` alone -/

@[simp] theorem putMeter_bmk (k : Nat) (m : Meter) (s : State) : (putMeter k m s).bmk = s.bmk := rfl
@[simp] theorem putMeter_pwr (k : Nat) (m : Meter) (s : State) : (putMeter k m s).pwr = s.pwr := rfl
@[simp] theorem putMeter_cfg (k : Nat) (m : Meter) (s : State) : (putMeter k m s).cfg = s.cfg := rfl
@[simp] theorem putMeter_svc (k : Nat) (m : Meter) (s : State) : (putMeter k m s).svc = s.svc := rfl
@[simp] theorem putMeter_catchment (k : Nat) (m : Meter) (s : State) : (putMeter k m s).catchment = s.catchment := rfl
@[simp] theorem putMeter_log (k : Nat) (m : Meter) (s : State) : (putMeter k m s).log = s.log := rfl
@[simp] theorem putMeter_cnt (k : Nat) (m : Meter) (s : State) : (putMeter k m s).cnt = s.cnt := rfl
@[simp] theorem putMeter_barrier (k : Nat) (m : Meter) (s : State) : (putMeter k m s).barrier = s.barrier := rfl
@[simp] theorem putMeter_rgn (k : Nat) (m : Meter) (s : State) : (putMeter k m s).rgn = s.rgn := rfl
@[simp] theorem putMeter_pair (k : Nat) (m : Meter) (s : State) : (putMeter k m s).pair = s.pair := rfl
@[simp] theorem putMeter_blk (k : Nat) (m : Meter) (s : State) : (putMeter k m s).blk = s.blk := rfl
@[simp] theorem putMeter_cap (k : Nat) (m : Meter) (s : State) : (putMeter k m s).cap = s.cap := rfl
@[simp] theorem putMeter_tier (k : Nat) (m : Meter) (s : State) : (putMeter k m s).tier = s.tier := rfl
@[simp] theorem putMeter_node (k : Nat) (m : Meter) (s : State) : (putMeter k m s).node = s.node := rfl
@[simp] theorem putMeter_ctl (k : Nat) (m : Meter) (s : State) : (putMeter k m s).ctl = s.ctl := rfl
@[simp] theorem putMeter_jtag (k : Nat) (m : Meter) (s : State) : (putMeter k m s).jtag = s.jtag := rfl
@[simp] theorem putMeter_fuse (k : Nat) (m : Meter) (s : State) : (putMeter k m s).fuse = s.fuse := rfl
@[simp] theorem putMeter_mem (k : Nat) (m : Meter) (s : State) : (putMeter k m s).mem = s.mem := rfl
@[simp] theorem putMeter_sto (k : Nat) (m : Meter) (s : State) : (putMeter k m s).sto = s.sto := rfl
@[simp] theorem putMeter_dir (k : Nat) (m : Meter) (s : State) : (putMeter k m s).dir = s.dir := rfl
@[simp] theorem putMeter_tlb (k : Nat) (m : Meter) (s : State) : (putMeter k m s).tlb = s.tlb := rfl
@[simp] theorem putMeter_chan (k : Nat) (m : Meter) (s : State) : (putMeter k m s).chan = s.chan := rfl
@[simp] theorem putMeter_work (k : Nat) (m : Meter) (s : State) : (putMeter k m s).work = s.work := rfl
@[simp] theorem putMeter_prog (k : Nat) (m : Meter) (s : State) : (putMeter k m s).prog = s.prog := rfl
@[simp] theorem putMeter_installs (k : Nat) (m : Meter) (s : State) : (putMeter k m s).installs = s.installs := rfl
@[simp] theorem putMeter_req (k : Nat) (m : Meter) (s : State) : (putMeter k m s).req = s.req := rfl
@[simp] theorem putMeter_nextReq (k : Nat) (m : Meter) (s : State) : (putMeter k m s).nextReq = s.nextReq := rfl
@[simp] theorem putMeter_readLog (k : Nat) (m : Meter) (s : State) : (putMeter k m s).readLog = s.readLog := rfl
@[simp] theorem putMeter_key (k : Nat) (m : Meter) (s : State) : (putMeter k m s).key = s.key := rfl
@[simp] theorem putMeter_slu (k : Nat) (m : Meter) (s : State) : (putMeter k m s).slu = s.slu := rfl
@[simp] theorem putMeter_datum (k : Nat) (m : Meter) (s : State) : (putMeter k m s).datum = s.datum := rfl
@[simp] theorem putMeter_sec (k : Nat) (m : Meter) (s : State) : (putMeter k m s).sec = s.sec := rfl
@[simp] theorem putMeter_dma (k : Nat) (m : Meter) (s : State) : (putMeter k m s).dma = s.dma := rfl
@[simp] theorem putMeter_saved (k : Nat) (m : Meter) (s : State) : (putMeter k m s).saved = s.saved := rfl
@[simp] theorem putMeter_free (k : Nat) (m : Meter) (s : State) : (putMeter k m s).free = s.free := rfl
@[simp] theorem putMeter_resets (k : Nat) (m : Meter) (s : State) : (putMeter k m s).resets = s.resets := rfl
@[simp] theorem putMeter_pending (k : Nat) (m : Meter) (s : State) : (putMeter k m s).pending = s.pending := rfl
@[simp] theorem putMeter_jx (k : Nat) (m : Meter) (s : State) : (putMeter k m s).jx = s.jx := rfl

/-! ### `leaveWaits` changes `work` alone -/

@[simp] theorem leaveWaits_bmk (inst k : Nat) (s : State) : (leaveWaits inst k s).bmk = s.bmk := rfl
@[simp] theorem leaveWaits_pwr (inst k : Nat) (s : State) : (leaveWaits inst k s).pwr = s.pwr := rfl
@[simp] theorem leaveWaits_cfg (inst k : Nat) (s : State) : (leaveWaits inst k s).cfg = s.cfg := rfl
@[simp] theorem leaveWaits_svc (inst k : Nat) (s : State) : (leaveWaits inst k s).svc = s.svc := rfl
@[simp] theorem leaveWaits_catchment (inst k : Nat) (s : State) : (leaveWaits inst k s).catchment = s.catchment := rfl
@[simp] theorem leaveWaits_log (inst k : Nat) (s : State) : (leaveWaits inst k s).log = s.log := rfl
@[simp] theorem leaveWaits_cnt (inst k : Nat) (s : State) : (leaveWaits inst k s).cnt = s.cnt := rfl
@[simp] theorem leaveWaits_barrier (inst k : Nat) (s : State) : (leaveWaits inst k s).barrier = s.barrier := rfl
@[simp] theorem leaveWaits_rgn (inst k : Nat) (s : State) : (leaveWaits inst k s).rgn = s.rgn := rfl
@[simp] theorem leaveWaits_pair (inst k : Nat) (s : State) : (leaveWaits inst k s).pair = s.pair := rfl
@[simp] theorem leaveWaits_blk (inst k : Nat) (s : State) : (leaveWaits inst k s).blk = s.blk := rfl
@[simp] theorem leaveWaits_cap (inst k : Nat) (s : State) : (leaveWaits inst k s).cap = s.cap := rfl
@[simp] theorem leaveWaits_tier (inst k : Nat) (s : State) : (leaveWaits inst k s).tier = s.tier := rfl
@[simp] theorem leaveWaits_node (inst k : Nat) (s : State) : (leaveWaits inst k s).node = s.node := rfl
@[simp] theorem leaveWaits_ctl (inst k : Nat) (s : State) : (leaveWaits inst k s).ctl = s.ctl := rfl
@[simp] theorem leaveWaits_jtag (inst k : Nat) (s : State) : (leaveWaits inst k s).jtag = s.jtag := rfl
@[simp] theorem leaveWaits_fuse (inst k : Nat) (s : State) : (leaveWaits inst k s).fuse = s.fuse := rfl
@[simp] theorem leaveWaits_mem (inst k : Nat) (s : State) : (leaveWaits inst k s).mem = s.mem := rfl
@[simp] theorem leaveWaits_sto (inst k : Nat) (s : State) : (leaveWaits inst k s).sto = s.sto := rfl
@[simp] theorem leaveWaits_dir (inst k : Nat) (s : State) : (leaveWaits inst k s).dir = s.dir := rfl
@[simp] theorem leaveWaits_tlb (inst k : Nat) (s : State) : (leaveWaits inst k s).tlb = s.tlb := rfl
@[simp] theorem leaveWaits_chan (inst k : Nat) (s : State) : (leaveWaits inst k s).chan = s.chan := rfl
@[simp] theorem leaveWaits_prog (inst k : Nat) (s : State) : (leaveWaits inst k s).prog = s.prog := rfl
@[simp] theorem leaveWaits_installs (inst k : Nat) (s : State) : (leaveWaits inst k s).installs = s.installs := rfl
@[simp] theorem leaveWaits_req (inst k : Nat) (s : State) : (leaveWaits inst k s).req = s.req := rfl
@[simp] theorem leaveWaits_nextReq (inst k : Nat) (s : State) : (leaveWaits inst k s).nextReq = s.nextReq := rfl
@[simp] theorem leaveWaits_readLog (inst k : Nat) (s : State) : (leaveWaits inst k s).readLog = s.readLog := rfl
@[simp] theorem leaveWaits_key (inst k : Nat) (s : State) : (leaveWaits inst k s).key = s.key := rfl
@[simp] theorem leaveWaits_slu (inst k : Nat) (s : State) : (leaveWaits inst k s).slu = s.slu := rfl
@[simp] theorem leaveWaits_traffic (inst k : Nat) (s : State) : (leaveWaits inst k s).traffic = s.traffic := rfl
@[simp] theorem leaveWaits_datum (inst k : Nat) (s : State) : (leaveWaits inst k s).datum = s.datum := rfl
@[simp] theorem leaveWaits_sec (inst k : Nat) (s : State) : (leaveWaits inst k s).sec = s.sec := rfl
@[simp] theorem leaveWaits_dma (inst k : Nat) (s : State) : (leaveWaits inst k s).dma = s.dma := rfl
@[simp] theorem leaveWaits_saved (inst k : Nat) (s : State) : (leaveWaits inst k s).saved = s.saved := rfl
@[simp] theorem leaveWaits_free (inst k : Nat) (s : State) : (leaveWaits inst k s).free = s.free := rfl
@[simp] theorem leaveWaits_resets (inst k : Nat) (s : State) : (leaveWaits inst k s).resets = s.resets := rfl
@[simp] theorem leaveWaits_pending (inst k : Nat) (s : State) : (leaveWaits inst k s).pending = s.pending := rfl
@[simp] theorem leaveWaits_jx (inst k : Nat) (s : State) : (leaveWaits inst k s).jx = s.jx := rfl

/-! ### `setPair` changes `pair` alone -/

@[simp] theorem setPair_bmk (n : Nat) (p : Pair) (s : State) : (setPair n p s).bmk = s.bmk := rfl
@[simp] theorem setPair_pwr (n : Nat) (p : Pair) (s : State) : (setPair n p s).pwr = s.pwr := rfl
@[simp] theorem setPair_cfg (n : Nat) (p : Pair) (s : State) : (setPair n p s).cfg = s.cfg := rfl
@[simp] theorem setPair_svc (n : Nat) (p : Pair) (s : State) : (setPair n p s).svc = s.svc := rfl
@[simp] theorem setPair_catchment (n : Nat) (p : Pair) (s : State) : (setPair n p s).catchment = s.catchment := rfl
@[simp] theorem setPair_log (n : Nat) (p : Pair) (s : State) : (setPair n p s).log = s.log := rfl
@[simp] theorem setPair_cnt (n : Nat) (p : Pair) (s : State) : (setPair n p s).cnt = s.cnt := rfl
@[simp] theorem setPair_barrier (n : Nat) (p : Pair) (s : State) : (setPair n p s).barrier = s.barrier := rfl
@[simp] theorem setPair_rgn (n : Nat) (p : Pair) (s : State) : (setPair n p s).rgn = s.rgn := rfl
@[simp] theorem setPair_blk (n : Nat) (p : Pair) (s : State) : (setPair n p s).blk = s.blk := rfl
@[simp] theorem setPair_cap (n : Nat) (p : Pair) (s : State) : (setPair n p s).cap = s.cap := rfl
@[simp] theorem setPair_tier (n : Nat) (p : Pair) (s : State) : (setPair n p s).tier = s.tier := rfl
@[simp] theorem setPair_node (n : Nat) (p : Pair) (s : State) : (setPair n p s).node = s.node := rfl
@[simp] theorem setPair_ctl (n : Nat) (p : Pair) (s : State) : (setPair n p s).ctl = s.ctl := rfl
@[simp] theorem setPair_jtag (n : Nat) (p : Pair) (s : State) : (setPair n p s).jtag = s.jtag := rfl
@[simp] theorem setPair_fuse (n : Nat) (p : Pair) (s : State) : (setPair n p s).fuse = s.fuse := rfl
@[simp] theorem setPair_mem (n : Nat) (p : Pair) (s : State) : (setPair n p s).mem = s.mem := rfl
@[simp] theorem setPair_sto (n : Nat) (p : Pair) (s : State) : (setPair n p s).sto = s.sto := rfl
@[simp] theorem setPair_dir (n : Nat) (p : Pair) (s : State) : (setPair n p s).dir = s.dir := rfl
@[simp] theorem setPair_tlb (n : Nat) (p : Pair) (s : State) : (setPair n p s).tlb = s.tlb := rfl
@[simp] theorem setPair_chan (n : Nat) (p : Pair) (s : State) : (setPair n p s).chan = s.chan := rfl
@[simp] theorem setPair_work (n : Nat) (p : Pair) (s : State) : (setPair n p s).work = s.work := rfl
@[simp] theorem setPair_prog (n : Nat) (p : Pair) (s : State) : (setPair n p s).prog = s.prog := rfl
@[simp] theorem setPair_installs (n : Nat) (p : Pair) (s : State) : (setPair n p s).installs = s.installs := rfl
@[simp] theorem setPair_req (n : Nat) (p : Pair) (s : State) : (setPair n p s).req = s.req := rfl
@[simp] theorem setPair_nextReq (n : Nat) (p : Pair) (s : State) : (setPair n p s).nextReq = s.nextReq := rfl
@[simp] theorem setPair_readLog (n : Nat) (p : Pair) (s : State) : (setPair n p s).readLog = s.readLog := rfl
@[simp] theorem setPair_key (n : Nat) (p : Pair) (s : State) : (setPair n p s).key = s.key := rfl
@[simp] theorem setPair_jx (n : Nat) (p : Pair) (s : State) : (setPair n p s).jx = s.jx := rfl
@[simp] theorem setPair_slu (n : Nat) (p : Pair) (s : State) : (setPair n p s).slu = s.slu := rfl
@[simp] theorem setPair_traffic (n : Nat) (p : Pair) (s : State) : (setPair n p s).traffic = s.traffic := rfl
@[simp] theorem setPair_datum (n : Nat) (p : Pair) (s : State) : (setPair n p s).datum = s.datum := rfl
@[simp] theorem setPair_sec (n : Nat) (p : Pair) (s : State) : (setPair n p s).sec = s.sec := rfl
@[simp] theorem setPair_dma (n : Nat) (p : Pair) (s : State) : (setPair n p s).dma = s.dma := rfl
@[simp] theorem setPair_saved (n : Nat) (p : Pair) (s : State) : (setPair n p s).saved = s.saved := rfl
@[simp] theorem setPair_free (n : Nat) (p : Pair) (s : State) : (setPair n p s).free = s.free := rfl
@[simp] theorem setPair_resets (n : Nat) (p : Pair) (s : State) : (setPair n p s).resets = s.resets := rfl
@[simp] theorem setPair_pending (n : Nat) (p : Pair) (s : State) : (setPair n p s).pending = s.pending := rfl

/-! ### `setWin` changes `slu` alone -/

@[simp] theorem setWin_bmk (id : Nat) (w : Window) (s : State) : (setWin id w s).bmk = s.bmk := rfl
@[simp] theorem setWin_pwr (id : Nat) (w : Window) (s : State) : (setWin id w s).pwr = s.pwr := rfl
@[simp] theorem setWin_cfg (id : Nat) (w : Window) (s : State) : (setWin id w s).cfg = s.cfg := rfl
@[simp] theorem setWin_svc (id : Nat) (w : Window) (s : State) : (setWin id w s).svc = s.svc := rfl
@[simp] theorem setWin_catchment (id : Nat) (w : Window) (s : State) : (setWin id w s).catchment = s.catchment := rfl
@[simp] theorem setWin_log (id : Nat) (w : Window) (s : State) : (setWin id w s).log = s.log := rfl
@[simp] theorem setWin_cnt (id : Nat) (w : Window) (s : State) : (setWin id w s).cnt = s.cnt := rfl
@[simp] theorem setWin_barrier (id : Nat) (w : Window) (s : State) : (setWin id w s).barrier = s.barrier := rfl
@[simp] theorem setWin_rgn (id : Nat) (w : Window) (s : State) : (setWin id w s).rgn = s.rgn := rfl
@[simp] theorem setWin_pair (id : Nat) (w : Window) (s : State) : (setWin id w s).pair = s.pair := rfl
@[simp] theorem setWin_blk (id : Nat) (w : Window) (s : State) : (setWin id w s).blk = s.blk := rfl
@[simp] theorem setWin_cap (id : Nat) (w : Window) (s : State) : (setWin id w s).cap = s.cap := rfl
@[simp] theorem setWin_tier (id : Nat) (w : Window) (s : State) : (setWin id w s).tier = s.tier := rfl
@[simp] theorem setWin_node (id : Nat) (w : Window) (s : State) : (setWin id w s).node = s.node := rfl
@[simp] theorem setWin_ctl (id : Nat) (w : Window) (s : State) : (setWin id w s).ctl = s.ctl := rfl
@[simp] theorem setWin_jtag (id : Nat) (w : Window) (s : State) : (setWin id w s).jtag = s.jtag := rfl
@[simp] theorem setWin_fuse (id : Nat) (w : Window) (s : State) : (setWin id w s).fuse = s.fuse := rfl
@[simp] theorem setWin_mem (id : Nat) (w : Window) (s : State) : (setWin id w s).mem = s.mem := rfl
@[simp] theorem setWin_sto (id : Nat) (w : Window) (s : State) : (setWin id w s).sto = s.sto := rfl
@[simp] theorem setWin_dir (id : Nat) (w : Window) (s : State) : (setWin id w s).dir = s.dir := rfl
@[simp] theorem setWin_tlb (id : Nat) (w : Window) (s : State) : (setWin id w s).tlb = s.tlb := rfl
@[simp] theorem setWin_chan (id : Nat) (w : Window) (s : State) : (setWin id w s).chan = s.chan := rfl
@[simp] theorem setWin_work (id : Nat) (w : Window) (s : State) : (setWin id w s).work = s.work := rfl
@[simp] theorem setWin_prog (id : Nat) (w : Window) (s : State) : (setWin id w s).prog = s.prog := rfl
@[simp] theorem setWin_installs (id : Nat) (w : Window) (s : State) : (setWin id w s).installs = s.installs := rfl
@[simp] theorem setWin_req (id : Nat) (w : Window) (s : State) : (setWin id w s).req = s.req := rfl
@[simp] theorem setWin_nextReq (id : Nat) (w : Window) (s : State) : (setWin id w s).nextReq = s.nextReq := rfl
@[simp] theorem setWin_readLog (id : Nat) (w : Window) (s : State) : (setWin id w s).readLog = s.readLog := rfl
@[simp] theorem setWin_key (id : Nat) (w : Window) (s : State) : (setWin id w s).key = s.key := rfl
@[simp] theorem setWin_jx (id : Nat) (w : Window) (s : State) : (setWin id w s).jx = s.jx := rfl
@[simp] theorem setWin_traffic (id : Nat) (w : Window) (s : State) : (setWin id w s).traffic = s.traffic := rfl
@[simp] theorem setWin_datum (id : Nat) (w : Window) (s : State) : (setWin id w s).datum = s.datum := rfl
@[simp] theorem setWin_sec (id : Nat) (w : Window) (s : State) : (setWin id w s).sec = s.sec := rfl
@[simp] theorem setWin_dma (id : Nat) (w : Window) (s : State) : (setWin id w s).dma = s.dma := rfl
@[simp] theorem setWin_saved (id : Nat) (w : Window) (s : State) : (setWin id w s).saved = s.saved := rfl
@[simp] theorem setWin_free (id : Nat) (w : Window) (s : State) : (setWin id w s).free = s.free := rfl
@[simp] theorem setWin_resets (id : Nat) (w : Window) (s : State) : (setWin id w s).resets = s.resets := rfl
@[simp] theorem setWin_pending (id : Nat) (w : Window) (s : State) : (setWin id w s).pending = s.pending := rfl

/-! ### `setProbe` changes `datum` alone -/

@[simp] theorem setProbe_bmk (n : Nat) (p : ProbeSt) (s : State) : (setProbe n p s).bmk = s.bmk := rfl
@[simp] theorem setProbe_pwr (n : Nat) (p : ProbeSt) (s : State) : (setProbe n p s).pwr = s.pwr := rfl
@[simp] theorem setProbe_cfg (n : Nat) (p : ProbeSt) (s : State) : (setProbe n p s).cfg = s.cfg := rfl
@[simp] theorem setProbe_svc (n : Nat) (p : ProbeSt) (s : State) : (setProbe n p s).svc = s.svc := rfl
@[simp] theorem setProbe_catchment (n : Nat) (p : ProbeSt) (s : State) : (setProbe n p s).catchment = s.catchment := rfl
@[simp] theorem setProbe_log (n : Nat) (p : ProbeSt) (s : State) : (setProbe n p s).log = s.log := rfl
@[simp] theorem setProbe_cnt (n : Nat) (p : ProbeSt) (s : State) : (setProbe n p s).cnt = s.cnt := rfl
@[simp] theorem setProbe_barrier (n : Nat) (p : ProbeSt) (s : State) : (setProbe n p s).barrier = s.barrier := rfl
@[simp] theorem setProbe_rgn (n : Nat) (p : ProbeSt) (s : State) : (setProbe n p s).rgn = s.rgn := rfl
@[simp] theorem setProbe_pair (n : Nat) (p : ProbeSt) (s : State) : (setProbe n p s).pair = s.pair := rfl
@[simp] theorem setProbe_blk (n : Nat) (p : ProbeSt) (s : State) : (setProbe n p s).blk = s.blk := rfl
@[simp] theorem setProbe_cap (n : Nat) (p : ProbeSt) (s : State) : (setProbe n p s).cap = s.cap := rfl
@[simp] theorem setProbe_tier (n : Nat) (p : ProbeSt) (s : State) : (setProbe n p s).tier = s.tier := rfl
@[simp] theorem setProbe_node (n : Nat) (p : ProbeSt) (s : State) : (setProbe n p s).node = s.node := rfl
@[simp] theorem setProbe_ctl (n : Nat) (p : ProbeSt) (s : State) : (setProbe n p s).ctl = s.ctl := rfl
@[simp] theorem setProbe_jtag (n : Nat) (p : ProbeSt) (s : State) : (setProbe n p s).jtag = s.jtag := rfl
@[simp] theorem setProbe_fuse (n : Nat) (p : ProbeSt) (s : State) : (setProbe n p s).fuse = s.fuse := rfl
@[simp] theorem setProbe_mem (n : Nat) (p : ProbeSt) (s : State) : (setProbe n p s).mem = s.mem := rfl
@[simp] theorem setProbe_sto (n : Nat) (p : ProbeSt) (s : State) : (setProbe n p s).sto = s.sto := rfl
@[simp] theorem setProbe_dir (n : Nat) (p : ProbeSt) (s : State) : (setProbe n p s).dir = s.dir := rfl
@[simp] theorem setProbe_tlb (n : Nat) (p : ProbeSt) (s : State) : (setProbe n p s).tlb = s.tlb := rfl
@[simp] theorem setProbe_chan (n : Nat) (p : ProbeSt) (s : State) : (setProbe n p s).chan = s.chan := rfl
@[simp] theorem setProbe_work (n : Nat) (p : ProbeSt) (s : State) : (setProbe n p s).work = s.work := rfl
@[simp] theorem setProbe_prog (n : Nat) (p : ProbeSt) (s : State) : (setProbe n p s).prog = s.prog := rfl
@[simp] theorem setProbe_installs (n : Nat) (p : ProbeSt) (s : State) : (setProbe n p s).installs = s.installs := rfl
@[simp] theorem setProbe_req (n : Nat) (p : ProbeSt) (s : State) : (setProbe n p s).req = s.req := rfl
@[simp] theorem setProbe_nextReq (n : Nat) (p : ProbeSt) (s : State) : (setProbe n p s).nextReq = s.nextReq := rfl
@[simp] theorem setProbe_readLog (n : Nat) (p : ProbeSt) (s : State) : (setProbe n p s).readLog = s.readLog := rfl
@[simp] theorem setProbe_key (n : Nat) (p : ProbeSt) (s : State) : (setProbe n p s).key = s.key := rfl
@[simp] theorem setProbe_jx (n : Nat) (p : ProbeSt) (s : State) : (setProbe n p s).jx = s.jx := rfl
@[simp] theorem setProbe_slu (n : Nat) (p : ProbeSt) (s : State) : (setProbe n p s).slu = s.slu := rfl
@[simp] theorem setProbe_traffic (n : Nat) (p : ProbeSt) (s : State) : (setProbe n p s).traffic = s.traffic := rfl
@[simp] theorem setProbe_sec (n : Nat) (p : ProbeSt) (s : State) : (setProbe n p s).sec = s.sec := rfl
@[simp] theorem setProbe_dma (n : Nat) (p : ProbeSt) (s : State) : (setProbe n p s).dma = s.dma := rfl
@[simp] theorem setProbe_saved (n : Nat) (p : ProbeSt) (s : State) : (setProbe n p s).saved = s.saved := rfl
@[simp] theorem setProbe_free (n : Nat) (p : ProbeSt) (s : State) : (setProbe n p s).free = s.free := rfl
@[simp] theorem setProbe_resets (n : Nat) (p : ProbeSt) (s : State) : (setProbe n p s).resets = s.resets := rfl
@[simp] theorem setProbe_pending (n : Nat) (p : ProbeSt) (s : State) : (setProbe n p s).pending = s.pending := rfl

/-! ### `setDma` changes `dma` alone -/

@[simp] theorem setDma_bmk (c : Nat) (x : DmaCh) (s : State) : (setDma c x s).bmk = s.bmk := rfl
@[simp] theorem setDma_pwr (c : Nat) (x : DmaCh) (s : State) : (setDma c x s).pwr = s.pwr := rfl
@[simp] theorem setDma_cfg (c : Nat) (x : DmaCh) (s : State) : (setDma c x s).cfg = s.cfg := rfl
@[simp] theorem setDma_svc (c : Nat) (x : DmaCh) (s : State) : (setDma c x s).svc = s.svc := rfl
@[simp] theorem setDma_catchment (c : Nat) (x : DmaCh) (s : State) : (setDma c x s).catchment = s.catchment := rfl
@[simp] theorem setDma_log (c : Nat) (x : DmaCh) (s : State) : (setDma c x s).log = s.log := rfl
@[simp] theorem setDma_cnt (c : Nat) (x : DmaCh) (s : State) : (setDma c x s).cnt = s.cnt := rfl
@[simp] theorem setDma_barrier (c : Nat) (x : DmaCh) (s : State) : (setDma c x s).barrier = s.barrier := rfl
@[simp] theorem setDma_rgn (c : Nat) (x : DmaCh) (s : State) : (setDma c x s).rgn = s.rgn := rfl
@[simp] theorem setDma_pair (c : Nat) (x : DmaCh) (s : State) : (setDma c x s).pair = s.pair := rfl
@[simp] theorem setDma_blk (c : Nat) (x : DmaCh) (s : State) : (setDma c x s).blk = s.blk := rfl
@[simp] theorem setDma_cap (c : Nat) (x : DmaCh) (s : State) : (setDma c x s).cap = s.cap := rfl
@[simp] theorem setDma_tier (c : Nat) (x : DmaCh) (s : State) : (setDma c x s).tier = s.tier := rfl
@[simp] theorem setDma_node (c : Nat) (x : DmaCh) (s : State) : (setDma c x s).node = s.node := rfl
@[simp] theorem setDma_ctl (c : Nat) (x : DmaCh) (s : State) : (setDma c x s).ctl = s.ctl := rfl
@[simp] theorem setDma_jtag (c : Nat) (x : DmaCh) (s : State) : (setDma c x s).jtag = s.jtag := rfl
@[simp] theorem setDma_fuse (c : Nat) (x : DmaCh) (s : State) : (setDma c x s).fuse = s.fuse := rfl
@[simp] theorem setDma_mem (c : Nat) (x : DmaCh) (s : State) : (setDma c x s).mem = s.mem := rfl
@[simp] theorem setDma_sto (c : Nat) (x : DmaCh) (s : State) : (setDma c x s).sto = s.sto := rfl
@[simp] theorem setDma_dir (c : Nat) (x : DmaCh) (s : State) : (setDma c x s).dir = s.dir := rfl
@[simp] theorem setDma_tlb (c : Nat) (x : DmaCh) (s : State) : (setDma c x s).tlb = s.tlb := rfl
@[simp] theorem setDma_chan (c : Nat) (x : DmaCh) (s : State) : (setDma c x s).chan = s.chan := rfl
@[simp] theorem setDma_work (c : Nat) (x : DmaCh) (s : State) : (setDma c x s).work = s.work := rfl
@[simp] theorem setDma_prog (c : Nat) (x : DmaCh) (s : State) : (setDma c x s).prog = s.prog := rfl
@[simp] theorem setDma_installs (c : Nat) (x : DmaCh) (s : State) : (setDma c x s).installs = s.installs := rfl
@[simp] theorem setDma_req (c : Nat) (x : DmaCh) (s : State) : (setDma c x s).req = s.req := rfl
@[simp] theorem setDma_nextReq (c : Nat) (x : DmaCh) (s : State) : (setDma c x s).nextReq = s.nextReq := rfl
@[simp] theorem setDma_readLog (c : Nat) (x : DmaCh) (s : State) : (setDma c x s).readLog = s.readLog := rfl
@[simp] theorem setDma_key (c : Nat) (x : DmaCh) (s : State) : (setDma c x s).key = s.key := rfl
@[simp] theorem setDma_jx (c : Nat) (x : DmaCh) (s : State) : (setDma c x s).jx = s.jx := rfl
@[simp] theorem setDma_slu (c : Nat) (x : DmaCh) (s : State) : (setDma c x s).slu = s.slu := rfl
@[simp] theorem setDma_traffic (c : Nat) (x : DmaCh) (s : State) : (setDma c x s).traffic = s.traffic := rfl
@[simp] theorem setDma_datum (c : Nat) (x : DmaCh) (s : State) : (setDma c x s).datum = s.datum := rfl
@[simp] theorem setDma_sec (c : Nat) (x : DmaCh) (s : State) : (setDma c x s).sec = s.sec := rfl
@[simp] theorem setDma_saved (c : Nat) (x : DmaCh) (s : State) : (setDma c x s).saved = s.saved := rfl
@[simp] theorem setDma_free (c : Nat) (x : DmaCh) (s : State) : (setDma c x s).free = s.free := rfl
@[simp] theorem setDma_resets (c : Nat) (x : DmaCh) (s : State) : (setDma c x s).resets = s.resets := rfl
@[simp] theorem setDma_pending (c : Nat) (x : DmaCh) (s : State) : (setDma c x s).pending = s.pending := rfl

/-! ### `setTmr` changes `bmk` alone -/

@[simp] theorem setTmr_pwr (n : Nat) (x : Tmr) (s : State) : (setTmr n x s).pwr = s.pwr := rfl
@[simp] theorem setTmr_cfg (n : Nat) (x : Tmr) (s : State) : (setTmr n x s).cfg = s.cfg := rfl
@[simp] theorem setTmr_svc (n : Nat) (x : Tmr) (s : State) : (setTmr n x s).svc = s.svc := rfl
@[simp] theorem setTmr_catchment (n : Nat) (x : Tmr) (s : State) : (setTmr n x s).catchment = s.catchment := rfl
@[simp] theorem setTmr_log (n : Nat) (x : Tmr) (s : State) : (setTmr n x s).log = s.log := rfl
@[simp] theorem setTmr_cnt (n : Nat) (x : Tmr) (s : State) : (setTmr n x s).cnt = s.cnt := rfl
@[simp] theorem setTmr_barrier (n : Nat) (x : Tmr) (s : State) : (setTmr n x s).barrier = s.barrier := rfl
@[simp] theorem setTmr_rgn (n : Nat) (x : Tmr) (s : State) : (setTmr n x s).rgn = s.rgn := rfl
@[simp] theorem setTmr_pair (n : Nat) (x : Tmr) (s : State) : (setTmr n x s).pair = s.pair := rfl
@[simp] theorem setTmr_blk (n : Nat) (x : Tmr) (s : State) : (setTmr n x s).blk = s.blk := rfl
@[simp] theorem setTmr_cap (n : Nat) (x : Tmr) (s : State) : (setTmr n x s).cap = s.cap := rfl
@[simp] theorem setTmr_tier (n : Nat) (x : Tmr) (s : State) : (setTmr n x s).tier = s.tier := rfl
@[simp] theorem setTmr_node (n : Nat) (x : Tmr) (s : State) : (setTmr n x s).node = s.node := rfl
@[simp] theorem setTmr_ctl (n : Nat) (x : Tmr) (s : State) : (setTmr n x s).ctl = s.ctl := rfl
@[simp] theorem setTmr_jtag (n : Nat) (x : Tmr) (s : State) : (setTmr n x s).jtag = s.jtag := rfl
@[simp] theorem setTmr_fuse (n : Nat) (x : Tmr) (s : State) : (setTmr n x s).fuse = s.fuse := rfl
@[simp] theorem setTmr_mem (n : Nat) (x : Tmr) (s : State) : (setTmr n x s).mem = s.mem := rfl
@[simp] theorem setTmr_sto (n : Nat) (x : Tmr) (s : State) : (setTmr n x s).sto = s.sto := rfl
@[simp] theorem setTmr_dir (n : Nat) (x : Tmr) (s : State) : (setTmr n x s).dir = s.dir := rfl
@[simp] theorem setTmr_tlb (n : Nat) (x : Tmr) (s : State) : (setTmr n x s).tlb = s.tlb := rfl
@[simp] theorem setTmr_chan (n : Nat) (x : Tmr) (s : State) : (setTmr n x s).chan = s.chan := rfl
@[simp] theorem setTmr_work (n : Nat) (x : Tmr) (s : State) : (setTmr n x s).work = s.work := rfl
@[simp] theorem setTmr_prog (n : Nat) (x : Tmr) (s : State) : (setTmr n x s).prog = s.prog := rfl
@[simp] theorem setTmr_installs (n : Nat) (x : Tmr) (s : State) : (setTmr n x s).installs = s.installs := rfl
@[simp] theorem setTmr_req (n : Nat) (x : Tmr) (s : State) : (setTmr n x s).req = s.req := rfl
@[simp] theorem setTmr_nextReq (n : Nat) (x : Tmr) (s : State) : (setTmr n x s).nextReq = s.nextReq := rfl
@[simp] theorem setTmr_readLog (n : Nat) (x : Tmr) (s : State) : (setTmr n x s).readLog = s.readLog := rfl
@[simp] theorem setTmr_key (n : Nat) (x : Tmr) (s : State) : (setTmr n x s).key = s.key := rfl
@[simp] theorem setTmr_jx (n : Nat) (x : Tmr) (s : State) : (setTmr n x s).jx = s.jx := rfl
@[simp] theorem setTmr_slu (n : Nat) (x : Tmr) (s : State) : (setTmr n x s).slu = s.slu := rfl
@[simp] theorem setTmr_traffic (n : Nat) (x : Tmr) (s : State) : (setTmr n x s).traffic = s.traffic := rfl
@[simp] theorem setTmr_datum (n : Nat) (x : Tmr) (s : State) : (setTmr n x s).datum = s.datum := rfl
@[simp] theorem setTmr_sec (n : Nat) (x : Tmr) (s : State) : (setTmr n x s).sec = s.sec := rfl
@[simp] theorem setTmr_dma (n : Nat) (x : Tmr) (s : State) : (setTmr n x s).dma = s.dma := rfl
@[simp] theorem setTmr_saved (n : Nat) (x : Tmr) (s : State) : (setTmr n x s).saved = s.saved := rfl
@[simp] theorem setTmr_free (n : Nat) (x : Tmr) (s : State) : (setTmr n x s).free = s.free := rfl
@[simp] theorem setTmr_resets (n : Nat) (x : Tmr) (s : State) : (setTmr n x s).resets = s.resets := rfl
@[simp] theorem setTmr_pending (n : Nat) (x : Tmr) (s : State) : (setTmr n x s).pending = s.pending := rfl

/-! ### `dropOut` changes `jx` alone -/

@[simp] theorem dropOut_bmk (id : Nat) (s : State) : (dropOut id s).bmk = s.bmk := rfl
@[simp] theorem dropOut_pwr (id : Nat) (s : State) : (dropOut id s).pwr = s.pwr := rfl
@[simp] theorem dropOut_cfg (id : Nat) (s : State) : (dropOut id s).cfg = s.cfg := rfl
@[simp] theorem dropOut_svc (id : Nat) (s : State) : (dropOut id s).svc = s.svc := rfl
@[simp] theorem dropOut_catchment (id : Nat) (s : State) : (dropOut id s).catchment = s.catchment := rfl
@[simp] theorem dropOut_log (id : Nat) (s : State) : (dropOut id s).log = s.log := rfl
@[simp] theorem dropOut_cnt (id : Nat) (s : State) : (dropOut id s).cnt = s.cnt := rfl
@[simp] theorem dropOut_barrier (id : Nat) (s : State) : (dropOut id s).barrier = s.barrier := rfl
@[simp] theorem dropOut_rgn (id : Nat) (s : State) : (dropOut id s).rgn = s.rgn := rfl
@[simp] theorem dropOut_pair (id : Nat) (s : State) : (dropOut id s).pair = s.pair := rfl
@[simp] theorem dropOut_blk (id : Nat) (s : State) : (dropOut id s).blk = s.blk := rfl
@[simp] theorem dropOut_cap (id : Nat) (s : State) : (dropOut id s).cap = s.cap := rfl
@[simp] theorem dropOut_tier (id : Nat) (s : State) : (dropOut id s).tier = s.tier := rfl
@[simp] theorem dropOut_node (id : Nat) (s : State) : (dropOut id s).node = s.node := rfl
@[simp] theorem dropOut_ctl (id : Nat) (s : State) : (dropOut id s).ctl = s.ctl := rfl
@[simp] theorem dropOut_jtag (id : Nat) (s : State) : (dropOut id s).jtag = s.jtag := rfl
@[simp] theorem dropOut_fuse (id : Nat) (s : State) : (dropOut id s).fuse = s.fuse := rfl
@[simp] theorem dropOut_mem (id : Nat) (s : State) : (dropOut id s).mem = s.mem := rfl
@[simp] theorem dropOut_sto (id : Nat) (s : State) : (dropOut id s).sto = s.sto := rfl
@[simp] theorem dropOut_dir (id : Nat) (s : State) : (dropOut id s).dir = s.dir := rfl
@[simp] theorem dropOut_tlb (id : Nat) (s : State) : (dropOut id s).tlb = s.tlb := rfl
@[simp] theorem dropOut_chan (id : Nat) (s : State) : (dropOut id s).chan = s.chan := rfl
@[simp] theorem dropOut_work (id : Nat) (s : State) : (dropOut id s).work = s.work := rfl
@[simp] theorem dropOut_prog (id : Nat) (s : State) : (dropOut id s).prog = s.prog := rfl
@[simp] theorem dropOut_installs (id : Nat) (s : State) : (dropOut id s).installs = s.installs := rfl
@[simp] theorem dropOut_req (id : Nat) (s : State) : (dropOut id s).req = s.req := rfl
@[simp] theorem dropOut_nextReq (id : Nat) (s : State) : (dropOut id s).nextReq = s.nextReq := rfl
@[simp] theorem dropOut_readLog (id : Nat) (s : State) : (dropOut id s).readLog = s.readLog := rfl
@[simp] theorem dropOut_key (id : Nat) (s : State) : (dropOut id s).key = s.key := rfl
@[simp] theorem dropOut_slu (id : Nat) (s : State) : (dropOut id s).slu = s.slu := rfl
@[simp] theorem dropOut_traffic (id : Nat) (s : State) : (dropOut id s).traffic = s.traffic := rfl
@[simp] theorem dropOut_datum (id : Nat) (s : State) : (dropOut id s).datum = s.datum := rfl
@[simp] theorem dropOut_sec (id : Nat) (s : State) : (dropOut id s).sec = s.sec := rfl
@[simp] theorem dropOut_dma (id : Nat) (s : State) : (dropOut id s).dma = s.dma := rfl
@[simp] theorem dropOut_saved (id : Nat) (s : State) : (dropOut id s).saved = s.saved := rfl
@[simp] theorem dropOut_free (id : Nat) (s : State) : (dropOut id s).free = s.free := rfl
@[simp] theorem dropOut_resets (id : Nat) (s : State) : (dropOut id s).resets = s.resets := rfl
@[simp] theorem dropOut_pending (id : Nat) (s : State) : (dropOut id s).pending = s.pending := rfl

/-! ### `setEntryRec` changes `slu` alone -/

@[simp] theorem setEntryRec_bmk (x : Nat) (e : Entry) (s : State) : (setEntryRec x e s).bmk = s.bmk := rfl
@[simp] theorem setEntryRec_pwr (x : Nat) (e : Entry) (s : State) : (setEntryRec x e s).pwr = s.pwr := rfl
@[simp] theorem setEntryRec_cfg (x : Nat) (e : Entry) (s : State) : (setEntryRec x e s).cfg = s.cfg := rfl
@[simp] theorem setEntryRec_svc (x : Nat) (e : Entry) (s : State) : (setEntryRec x e s).svc = s.svc := rfl
@[simp] theorem setEntryRec_catchment (x : Nat) (e : Entry) (s : State) : (setEntryRec x e s).catchment = s.catchment := rfl
@[simp] theorem setEntryRec_log (x : Nat) (e : Entry) (s : State) : (setEntryRec x e s).log = s.log := rfl
@[simp] theorem setEntryRec_cnt (x : Nat) (e : Entry) (s : State) : (setEntryRec x e s).cnt = s.cnt := rfl
@[simp] theorem setEntryRec_barrier (x : Nat) (e : Entry) (s : State) : (setEntryRec x e s).barrier = s.barrier := rfl
@[simp] theorem setEntryRec_rgn (x : Nat) (e : Entry) (s : State) : (setEntryRec x e s).rgn = s.rgn := rfl
@[simp] theorem setEntryRec_pair (x : Nat) (e : Entry) (s : State) : (setEntryRec x e s).pair = s.pair := rfl
@[simp] theorem setEntryRec_blk (x : Nat) (e : Entry) (s : State) : (setEntryRec x e s).blk = s.blk := rfl
@[simp] theorem setEntryRec_cap (x : Nat) (e : Entry) (s : State) : (setEntryRec x e s).cap = s.cap := rfl
@[simp] theorem setEntryRec_tier (x : Nat) (e : Entry) (s : State) : (setEntryRec x e s).tier = s.tier := rfl
@[simp] theorem setEntryRec_node (x : Nat) (e : Entry) (s : State) : (setEntryRec x e s).node = s.node := rfl
@[simp] theorem setEntryRec_ctl (x : Nat) (e : Entry) (s : State) : (setEntryRec x e s).ctl = s.ctl := rfl
@[simp] theorem setEntryRec_jtag (x : Nat) (e : Entry) (s : State) : (setEntryRec x e s).jtag = s.jtag := rfl
@[simp] theorem setEntryRec_fuse (x : Nat) (e : Entry) (s : State) : (setEntryRec x e s).fuse = s.fuse := rfl
@[simp] theorem setEntryRec_mem (x : Nat) (e : Entry) (s : State) : (setEntryRec x e s).mem = s.mem := rfl
@[simp] theorem setEntryRec_sto (x : Nat) (e : Entry) (s : State) : (setEntryRec x e s).sto = s.sto := rfl
@[simp] theorem setEntryRec_dir (x : Nat) (e : Entry) (s : State) : (setEntryRec x e s).dir = s.dir := rfl
@[simp] theorem setEntryRec_tlb (x : Nat) (e : Entry) (s : State) : (setEntryRec x e s).tlb = s.tlb := rfl
@[simp] theorem setEntryRec_chan (x : Nat) (e : Entry) (s : State) : (setEntryRec x e s).chan = s.chan := rfl
@[simp] theorem setEntryRec_work (x : Nat) (e : Entry) (s : State) : (setEntryRec x e s).work = s.work := rfl
@[simp] theorem setEntryRec_prog (x : Nat) (e : Entry) (s : State) : (setEntryRec x e s).prog = s.prog := rfl
@[simp] theorem setEntryRec_installs (x : Nat) (e : Entry) (s : State) : (setEntryRec x e s).installs = s.installs := rfl
@[simp] theorem setEntryRec_req (x : Nat) (e : Entry) (s : State) : (setEntryRec x e s).req = s.req := rfl
@[simp] theorem setEntryRec_nextReq (x : Nat) (e : Entry) (s : State) : (setEntryRec x e s).nextReq = s.nextReq := rfl
@[simp] theorem setEntryRec_readLog (x : Nat) (e : Entry) (s : State) : (setEntryRec x e s).readLog = s.readLog := rfl
@[simp] theorem setEntryRec_key (x : Nat) (e : Entry) (s : State) : (setEntryRec x e s).key = s.key := rfl
@[simp] theorem setEntryRec_jx (x : Nat) (e : Entry) (s : State) : (setEntryRec x e s).jx = s.jx := rfl
@[simp] theorem setEntryRec_traffic (x : Nat) (e : Entry) (s : State) : (setEntryRec x e s).traffic = s.traffic := rfl
@[simp] theorem setEntryRec_datum (x : Nat) (e : Entry) (s : State) : (setEntryRec x e s).datum = s.datum := rfl
@[simp] theorem setEntryRec_sec (x : Nat) (e : Entry) (s : State) : (setEntryRec x e s).sec = s.sec := rfl
@[simp] theorem setEntryRec_dma (x : Nat) (e : Entry) (s : State) : (setEntryRec x e s).dma = s.dma := rfl
@[simp] theorem setEntryRec_saved (x : Nat) (e : Entry) (s : State) : (setEntryRec x e s).saved = s.saved := rfl
@[simp] theorem setEntryRec_free (x : Nat) (e : Entry) (s : State) : (setEntryRec x e s).free = s.free := rfl
@[simp] theorem setEntryRec_resets (x : Nat) (e : Entry) (s : State) : (setEntryRec x e s).resets = s.resets := rfl
@[simp] theorem setEntryRec_pending (x : Nat) (e : Entry) (s : State) : (setEntryRec x e s).pending = s.pending := rfl

/-! ### `setInst` changes `slu` alone -/

@[simp] theorem setInst_bmk (i : Nat) (x : Inst) (s : State) : (setInst i x s).bmk = s.bmk := rfl
@[simp] theorem setInst_pwr (i : Nat) (x : Inst) (s : State) : (setInst i x s).pwr = s.pwr := rfl
@[simp] theorem setInst_cfg (i : Nat) (x : Inst) (s : State) : (setInst i x s).cfg = s.cfg := rfl
@[simp] theorem setInst_svc (i : Nat) (x : Inst) (s : State) : (setInst i x s).svc = s.svc := rfl
@[simp] theorem setInst_catchment (i : Nat) (x : Inst) (s : State) : (setInst i x s).catchment = s.catchment := rfl
@[simp] theorem setInst_log (i : Nat) (x : Inst) (s : State) : (setInst i x s).log = s.log := rfl
@[simp] theorem setInst_cnt (i : Nat) (x : Inst) (s : State) : (setInst i x s).cnt = s.cnt := rfl
@[simp] theorem setInst_barrier (i : Nat) (x : Inst) (s : State) : (setInst i x s).barrier = s.barrier := rfl
@[simp] theorem setInst_rgn (i : Nat) (x : Inst) (s : State) : (setInst i x s).rgn = s.rgn := rfl
@[simp] theorem setInst_pair (i : Nat) (x : Inst) (s : State) : (setInst i x s).pair = s.pair := rfl
@[simp] theorem setInst_blk (i : Nat) (x : Inst) (s : State) : (setInst i x s).blk = s.blk := rfl
@[simp] theorem setInst_cap (i : Nat) (x : Inst) (s : State) : (setInst i x s).cap = s.cap := rfl
@[simp] theorem setInst_tier (i : Nat) (x : Inst) (s : State) : (setInst i x s).tier = s.tier := rfl
@[simp] theorem setInst_node (i : Nat) (x : Inst) (s : State) : (setInst i x s).node = s.node := rfl
@[simp] theorem setInst_ctl (i : Nat) (x : Inst) (s : State) : (setInst i x s).ctl = s.ctl := rfl
@[simp] theorem setInst_jtag (i : Nat) (x : Inst) (s : State) : (setInst i x s).jtag = s.jtag := rfl
@[simp] theorem setInst_fuse (i : Nat) (x : Inst) (s : State) : (setInst i x s).fuse = s.fuse := rfl
@[simp] theorem setInst_mem (i : Nat) (x : Inst) (s : State) : (setInst i x s).mem = s.mem := rfl
@[simp] theorem setInst_sto (i : Nat) (x : Inst) (s : State) : (setInst i x s).sto = s.sto := rfl
@[simp] theorem setInst_dir (i : Nat) (x : Inst) (s : State) : (setInst i x s).dir = s.dir := rfl
@[simp] theorem setInst_tlb (i : Nat) (x : Inst) (s : State) : (setInst i x s).tlb = s.tlb := rfl
@[simp] theorem setInst_chan (i : Nat) (x : Inst) (s : State) : (setInst i x s).chan = s.chan := rfl
@[simp] theorem setInst_work (i : Nat) (x : Inst) (s : State) : (setInst i x s).work = s.work := rfl
@[simp] theorem setInst_prog (i : Nat) (x : Inst) (s : State) : (setInst i x s).prog = s.prog := rfl
@[simp] theorem setInst_installs (i : Nat) (x : Inst) (s : State) : (setInst i x s).installs = s.installs := rfl
@[simp] theorem setInst_req (i : Nat) (x : Inst) (s : State) : (setInst i x s).req = s.req := rfl
@[simp] theorem setInst_nextReq (i : Nat) (x : Inst) (s : State) : (setInst i x s).nextReq = s.nextReq := rfl
@[simp] theorem setInst_readLog (i : Nat) (x : Inst) (s : State) : (setInst i x s).readLog = s.readLog := rfl
@[simp] theorem setInst_key (i : Nat) (x : Inst) (s : State) : (setInst i x s).key = s.key := rfl
@[simp] theorem setInst_jx (i : Nat) (x : Inst) (s : State) : (setInst i x s).jx = s.jx := rfl
@[simp] theorem setInst_traffic (i : Nat) (x : Inst) (s : State) : (setInst i x s).traffic = s.traffic := rfl
@[simp] theorem setInst_datum (i : Nat) (x : Inst) (s : State) : (setInst i x s).datum = s.datum := rfl
@[simp] theorem setInst_sec (i : Nat) (x : Inst) (s : State) : (setInst i x s).sec = s.sec := rfl
@[simp] theorem setInst_dma (i : Nat) (x : Inst) (s : State) : (setInst i x s).dma = s.dma := rfl
@[simp] theorem setInst_saved (i : Nat) (x : Inst) (s : State) : (setInst i x s).saved = s.saved := rfl
@[simp] theorem setInst_free (i : Nat) (x : Inst) (s : State) : (setInst i x s).free = s.free := rfl
@[simp] theorem setInst_resets (i : Nat) (x : Inst) (s : State) : (setInst i x s).resets = s.resets := rfl
@[simp] theorem setInst_pending (i : Nat) (x : Inst) (s : State) : (setInst i x s).pending = s.pending := rfl

/-! ### `setRgn` changes `rgn` alone -/

@[simp] theorem setRgn_bmk (r : Nat) (g : Rgn) (s : State) : (setRgn r g s).bmk = s.bmk := rfl
@[simp] theorem setRgn_pwr (r : Nat) (g : Rgn) (s : State) : (setRgn r g s).pwr = s.pwr := rfl
@[simp] theorem setRgn_cfg (r : Nat) (g : Rgn) (s : State) : (setRgn r g s).cfg = s.cfg := rfl
@[simp] theorem setRgn_svc (r : Nat) (g : Rgn) (s : State) : (setRgn r g s).svc = s.svc := rfl
@[simp] theorem setRgn_catchment (r : Nat) (g : Rgn) (s : State) : (setRgn r g s).catchment = s.catchment := rfl
@[simp] theorem setRgn_log (r : Nat) (g : Rgn) (s : State) : (setRgn r g s).log = s.log := rfl
@[simp] theorem setRgn_cnt (r : Nat) (g : Rgn) (s : State) : (setRgn r g s).cnt = s.cnt := rfl
@[simp] theorem setRgn_barrier (r : Nat) (g : Rgn) (s : State) : (setRgn r g s).barrier = s.barrier := rfl
@[simp] theorem setRgn_pair (r : Nat) (g : Rgn) (s : State) : (setRgn r g s).pair = s.pair := rfl
@[simp] theorem setRgn_blk (r : Nat) (g : Rgn) (s : State) : (setRgn r g s).blk = s.blk := rfl
@[simp] theorem setRgn_cap (r : Nat) (g : Rgn) (s : State) : (setRgn r g s).cap = s.cap := rfl
@[simp] theorem setRgn_tier (r : Nat) (g : Rgn) (s : State) : (setRgn r g s).tier = s.tier := rfl
@[simp] theorem setRgn_node (r : Nat) (g : Rgn) (s : State) : (setRgn r g s).node = s.node := rfl
@[simp] theorem setRgn_ctl (r : Nat) (g : Rgn) (s : State) : (setRgn r g s).ctl = s.ctl := rfl
@[simp] theorem setRgn_jtag (r : Nat) (g : Rgn) (s : State) : (setRgn r g s).jtag = s.jtag := rfl
@[simp] theorem setRgn_fuse (r : Nat) (g : Rgn) (s : State) : (setRgn r g s).fuse = s.fuse := rfl
@[simp] theorem setRgn_mem (r : Nat) (g : Rgn) (s : State) : (setRgn r g s).mem = s.mem := rfl
@[simp] theorem setRgn_sto (r : Nat) (g : Rgn) (s : State) : (setRgn r g s).sto = s.sto := rfl
@[simp] theorem setRgn_dir (r : Nat) (g : Rgn) (s : State) : (setRgn r g s).dir = s.dir := rfl
@[simp] theorem setRgn_tlb (r : Nat) (g : Rgn) (s : State) : (setRgn r g s).tlb = s.tlb := rfl
@[simp] theorem setRgn_chan (r : Nat) (g : Rgn) (s : State) : (setRgn r g s).chan = s.chan := rfl
@[simp] theorem setRgn_work (r : Nat) (g : Rgn) (s : State) : (setRgn r g s).work = s.work := rfl
@[simp] theorem setRgn_prog (r : Nat) (g : Rgn) (s : State) : (setRgn r g s).prog = s.prog := rfl
@[simp] theorem setRgn_installs (r : Nat) (g : Rgn) (s : State) : (setRgn r g s).installs = s.installs := rfl
@[simp] theorem setRgn_req (r : Nat) (g : Rgn) (s : State) : (setRgn r g s).req = s.req := rfl
@[simp] theorem setRgn_nextReq (r : Nat) (g : Rgn) (s : State) : (setRgn r g s).nextReq = s.nextReq := rfl
@[simp] theorem setRgn_readLog (r : Nat) (g : Rgn) (s : State) : (setRgn r g s).readLog = s.readLog := rfl
@[simp] theorem setRgn_key (r : Nat) (g : Rgn) (s : State) : (setRgn r g s).key = s.key := rfl
@[simp] theorem setRgn_jx (r : Nat) (g : Rgn) (s : State) : (setRgn r g s).jx = s.jx := rfl
@[simp] theorem setRgn_slu (r : Nat) (g : Rgn) (s : State) : (setRgn r g s).slu = s.slu := rfl
@[simp] theorem setRgn_traffic (r : Nat) (g : Rgn) (s : State) : (setRgn r g s).traffic = s.traffic := rfl
@[simp] theorem setRgn_datum (r : Nat) (g : Rgn) (s : State) : (setRgn r g s).datum = s.datum := rfl
@[simp] theorem setRgn_sec (r : Nat) (g : Rgn) (s : State) : (setRgn r g s).sec = s.sec := rfl
@[simp] theorem setRgn_dma (r : Nat) (g : Rgn) (s : State) : (setRgn r g s).dma = s.dma := rfl
@[simp] theorem setRgn_saved (r : Nat) (g : Rgn) (s : State) : (setRgn r g s).saved = s.saved := rfl
@[simp] theorem setRgn_free (r : Nat) (g : Rgn) (s : State) : (setRgn r g s).free = s.free := rfl
@[simp] theorem setRgn_resets (r : Nat) (g : Rgn) (s : State) : (setRgn r g s).resets = s.resets := rfl
@[simp] theorem setRgn_pending (r : Nat) (g : Rgn) (s : State) : (setRgn r g s).pending = s.pending := rfl

/-! ### `setChan` changes `chan` alone -/

@[simp] theorem setChan_bmk (ch : Nat) (c : Chan) (s : State) : (setChan ch c s).bmk = s.bmk := rfl
@[simp] theorem setChan_pwr (ch : Nat) (c : Chan) (s : State) : (setChan ch c s).pwr = s.pwr := rfl
@[simp] theorem setChan_cfg (ch : Nat) (c : Chan) (s : State) : (setChan ch c s).cfg = s.cfg := rfl
@[simp] theorem setChan_svc (ch : Nat) (c : Chan) (s : State) : (setChan ch c s).svc = s.svc := rfl
@[simp] theorem setChan_catchment (ch : Nat) (c : Chan) (s : State) : (setChan ch c s).catchment = s.catchment := rfl
@[simp] theorem setChan_log (ch : Nat) (c : Chan) (s : State) : (setChan ch c s).log = s.log := rfl
@[simp] theorem setChan_cnt (ch : Nat) (c : Chan) (s : State) : (setChan ch c s).cnt = s.cnt := rfl
@[simp] theorem setChan_barrier (ch : Nat) (c : Chan) (s : State) : (setChan ch c s).barrier = s.barrier := rfl
@[simp] theorem setChan_rgn (ch : Nat) (c : Chan) (s : State) : (setChan ch c s).rgn = s.rgn := rfl
@[simp] theorem setChan_pair (ch : Nat) (c : Chan) (s : State) : (setChan ch c s).pair = s.pair := rfl
@[simp] theorem setChan_blk (ch : Nat) (c : Chan) (s : State) : (setChan ch c s).blk = s.blk := rfl
@[simp] theorem setChan_cap (ch : Nat) (c : Chan) (s : State) : (setChan ch c s).cap = s.cap := rfl
@[simp] theorem setChan_tier (ch : Nat) (c : Chan) (s : State) : (setChan ch c s).tier = s.tier := rfl
@[simp] theorem setChan_node (ch : Nat) (c : Chan) (s : State) : (setChan ch c s).node = s.node := rfl
@[simp] theorem setChan_ctl (ch : Nat) (c : Chan) (s : State) : (setChan ch c s).ctl = s.ctl := rfl
@[simp] theorem setChan_jtag (ch : Nat) (c : Chan) (s : State) : (setChan ch c s).jtag = s.jtag := rfl
@[simp] theorem setChan_fuse (ch : Nat) (c : Chan) (s : State) : (setChan ch c s).fuse = s.fuse := rfl
@[simp] theorem setChan_mem (ch : Nat) (c : Chan) (s : State) : (setChan ch c s).mem = s.mem := rfl
@[simp] theorem setChan_sto (ch : Nat) (c : Chan) (s : State) : (setChan ch c s).sto = s.sto := rfl
@[simp] theorem setChan_dir (ch : Nat) (c : Chan) (s : State) : (setChan ch c s).dir = s.dir := rfl
@[simp] theorem setChan_tlb (ch : Nat) (c : Chan) (s : State) : (setChan ch c s).tlb = s.tlb := rfl
@[simp] theorem setChan_work (ch : Nat) (c : Chan) (s : State) : (setChan ch c s).work = s.work := rfl
@[simp] theorem setChan_prog (ch : Nat) (c : Chan) (s : State) : (setChan ch c s).prog = s.prog := rfl
@[simp] theorem setChan_installs (ch : Nat) (c : Chan) (s : State) : (setChan ch c s).installs = s.installs := rfl
@[simp] theorem setChan_req (ch : Nat) (c : Chan) (s : State) : (setChan ch c s).req = s.req := rfl
@[simp] theorem setChan_nextReq (ch : Nat) (c : Chan) (s : State) : (setChan ch c s).nextReq = s.nextReq := rfl
@[simp] theorem setChan_readLog (ch : Nat) (c : Chan) (s : State) : (setChan ch c s).readLog = s.readLog := rfl
@[simp] theorem setChan_key (ch : Nat) (c : Chan) (s : State) : (setChan ch c s).key = s.key := rfl
@[simp] theorem setChan_jx (ch : Nat) (c : Chan) (s : State) : (setChan ch c s).jx = s.jx := rfl
@[simp] theorem setChan_slu (ch : Nat) (c : Chan) (s : State) : (setChan ch c s).slu = s.slu := rfl
@[simp] theorem setChan_traffic (ch : Nat) (c : Chan) (s : State) : (setChan ch c s).traffic = s.traffic := rfl
@[simp] theorem setChan_datum (ch : Nat) (c : Chan) (s : State) : (setChan ch c s).datum = s.datum := rfl
@[simp] theorem setChan_sec (ch : Nat) (c : Chan) (s : State) : (setChan ch c s).sec = s.sec := rfl
@[simp] theorem setChan_dma (ch : Nat) (c : Chan) (s : State) : (setChan ch c s).dma = s.dma := rfl
@[simp] theorem setChan_saved (ch : Nat) (c : Chan) (s : State) : (setChan ch c s).saved = s.saved := rfl
@[simp] theorem setChan_free (ch : Nat) (c : Chan) (s : State) : (setChan ch c s).free = s.free := rfl
@[simp] theorem setChan_resets (ch : Nat) (c : Chan) (s : State) : (setChan ch c s).resets = s.resets := rfl
@[simp] theorem setChan_pending (ch : Nat) (c : Chan) (s : State) : (setChan ch c s).pending = s.pending := rfl

/-! ### `setBlk` changes `blk` alone -/

@[simp] theorem setBlk_bmk (r b : Nat) (x : Blk) (s : State) : (setBlk r b x s).bmk = s.bmk := rfl
@[simp] theorem setBlk_pwr (r b : Nat) (x : Blk) (s : State) : (setBlk r b x s).pwr = s.pwr := rfl
@[simp] theorem setBlk_cfg (r b : Nat) (x : Blk) (s : State) : (setBlk r b x s).cfg = s.cfg := rfl
@[simp] theorem setBlk_svc (r b : Nat) (x : Blk) (s : State) : (setBlk r b x s).svc = s.svc := rfl
@[simp] theorem setBlk_catchment (r b : Nat) (x : Blk) (s : State) : (setBlk r b x s).catchment = s.catchment := rfl
@[simp] theorem setBlk_log (r b : Nat) (x : Blk) (s : State) : (setBlk r b x s).log = s.log := rfl
@[simp] theorem setBlk_cnt (r b : Nat) (x : Blk) (s : State) : (setBlk r b x s).cnt = s.cnt := rfl
@[simp] theorem setBlk_barrier (r b : Nat) (x : Blk) (s : State) : (setBlk r b x s).barrier = s.barrier := rfl
@[simp] theorem setBlk_rgn (r b : Nat) (x : Blk) (s : State) : (setBlk r b x s).rgn = s.rgn := rfl
@[simp] theorem setBlk_pair (r b : Nat) (x : Blk) (s : State) : (setBlk r b x s).pair = s.pair := rfl
@[simp] theorem setBlk_cap (r b : Nat) (x : Blk) (s : State) : (setBlk r b x s).cap = s.cap := rfl
@[simp] theorem setBlk_tier (r b : Nat) (x : Blk) (s : State) : (setBlk r b x s).tier = s.tier := rfl
@[simp] theorem setBlk_node (r b : Nat) (x : Blk) (s : State) : (setBlk r b x s).node = s.node := rfl
@[simp] theorem setBlk_ctl (r b : Nat) (x : Blk) (s : State) : (setBlk r b x s).ctl = s.ctl := rfl
@[simp] theorem setBlk_jtag (r b : Nat) (x : Blk) (s : State) : (setBlk r b x s).jtag = s.jtag := rfl
@[simp] theorem setBlk_fuse (r b : Nat) (x : Blk) (s : State) : (setBlk r b x s).fuse = s.fuse := rfl
@[simp] theorem setBlk_mem (r b : Nat) (x : Blk) (s : State) : (setBlk r b x s).mem = s.mem := rfl
@[simp] theorem setBlk_sto (r b : Nat) (x : Blk) (s : State) : (setBlk r b x s).sto = s.sto := rfl
@[simp] theorem setBlk_dir (r b : Nat) (x : Blk) (s : State) : (setBlk r b x s).dir = s.dir := rfl
@[simp] theorem setBlk_tlb (r b : Nat) (x : Blk) (s : State) : (setBlk r b x s).tlb = s.tlb := rfl
@[simp] theorem setBlk_chan (r b : Nat) (x : Blk) (s : State) : (setBlk r b x s).chan = s.chan := rfl
@[simp] theorem setBlk_work (r b : Nat) (x : Blk) (s : State) : (setBlk r b x s).work = s.work := rfl
@[simp] theorem setBlk_prog (r b : Nat) (x : Blk) (s : State) : (setBlk r b x s).prog = s.prog := rfl
@[simp] theorem setBlk_installs (r b : Nat) (x : Blk) (s : State) : (setBlk r b x s).installs = s.installs := rfl
@[simp] theorem setBlk_req (r b : Nat) (x : Blk) (s : State) : (setBlk r b x s).req = s.req := rfl
@[simp] theorem setBlk_nextReq (r b : Nat) (x : Blk) (s : State) : (setBlk r b x s).nextReq = s.nextReq := rfl
@[simp] theorem setBlk_readLog (r b : Nat) (x : Blk) (s : State) : (setBlk r b x s).readLog = s.readLog := rfl
@[simp] theorem setBlk_key (r b : Nat) (x : Blk) (s : State) : (setBlk r b x s).key = s.key := rfl
@[simp] theorem setBlk_jx (r b : Nat) (x : Blk) (s : State) : (setBlk r b x s).jx = s.jx := rfl
@[simp] theorem setBlk_slu (r b : Nat) (x : Blk) (s : State) : (setBlk r b x s).slu = s.slu := rfl
@[simp] theorem setBlk_traffic (r b : Nat) (x : Blk) (s : State) : (setBlk r b x s).traffic = s.traffic := rfl
@[simp] theorem setBlk_datum (r b : Nat) (x : Blk) (s : State) : (setBlk r b x s).datum = s.datum := rfl
@[simp] theorem setBlk_sec (r b : Nat) (x : Blk) (s : State) : (setBlk r b x s).sec = s.sec := rfl
@[simp] theorem setBlk_dma (r b : Nat) (x : Blk) (s : State) : (setBlk r b x s).dma = s.dma := rfl
@[simp] theorem setBlk_saved (r b : Nat) (x : Blk) (s : State) : (setBlk r b x s).saved = s.saved := rfl
@[simp] theorem setBlk_free (r b : Nat) (x : Blk) (s : State) : (setBlk r b x s).free = s.free := rfl
@[simp] theorem setBlk_resets (r b : Nat) (x : Blk) (s : State) : (setBlk r b x s).resets = s.resets := rfl
@[simp] theorem setBlk_pending (r b : Nat) (x : Blk) (s : State) : (setBlk r b x s).pending = s.pending := rfl

/-! ### `answerFw` changes `cfg` alone -/

@[simp] theorem answerFw_bmk (status : Nat) (resp : Bytes) (s : State) : (answerFw status resp s).bmk = s.bmk := rfl
@[simp] theorem answerFw_pwr (status : Nat) (resp : Bytes) (s : State) : (answerFw status resp s).pwr = s.pwr := rfl
@[simp] theorem answerFw_svc (status : Nat) (resp : Bytes) (s : State) : (answerFw status resp s).svc = s.svc := rfl
@[simp] theorem answerFw_catchment (status : Nat) (resp : Bytes) (s : State) : (answerFw status resp s).catchment = s.catchment := rfl
@[simp] theorem answerFw_log (status : Nat) (resp : Bytes) (s : State) : (answerFw status resp s).log = s.log := rfl
@[simp] theorem answerFw_cnt (status : Nat) (resp : Bytes) (s : State) : (answerFw status resp s).cnt = s.cnt := rfl
@[simp] theorem answerFw_barrier (status : Nat) (resp : Bytes) (s : State) : (answerFw status resp s).barrier = s.barrier := rfl
@[simp] theorem answerFw_rgn (status : Nat) (resp : Bytes) (s : State) : (answerFw status resp s).rgn = s.rgn := rfl
@[simp] theorem answerFw_pair (status : Nat) (resp : Bytes) (s : State) : (answerFw status resp s).pair = s.pair := rfl
@[simp] theorem answerFw_blk (status : Nat) (resp : Bytes) (s : State) : (answerFw status resp s).blk = s.blk := rfl
@[simp] theorem answerFw_cap (status : Nat) (resp : Bytes) (s : State) : (answerFw status resp s).cap = s.cap := rfl
@[simp] theorem answerFw_tier (status : Nat) (resp : Bytes) (s : State) : (answerFw status resp s).tier = s.tier := rfl
@[simp] theorem answerFw_node (status : Nat) (resp : Bytes) (s : State) : (answerFw status resp s).node = s.node := rfl
@[simp] theorem answerFw_ctl (status : Nat) (resp : Bytes) (s : State) : (answerFw status resp s).ctl = s.ctl := rfl
@[simp] theorem answerFw_jtag (status : Nat) (resp : Bytes) (s : State) : (answerFw status resp s).jtag = s.jtag := rfl
@[simp] theorem answerFw_fuse (status : Nat) (resp : Bytes) (s : State) : (answerFw status resp s).fuse = s.fuse := rfl
@[simp] theorem answerFw_mem (status : Nat) (resp : Bytes) (s : State) : (answerFw status resp s).mem = s.mem := rfl
@[simp] theorem answerFw_sto (status : Nat) (resp : Bytes) (s : State) : (answerFw status resp s).sto = s.sto := rfl
@[simp] theorem answerFw_dir (status : Nat) (resp : Bytes) (s : State) : (answerFw status resp s).dir = s.dir := rfl
@[simp] theorem answerFw_tlb (status : Nat) (resp : Bytes) (s : State) : (answerFw status resp s).tlb = s.tlb := rfl
@[simp] theorem answerFw_chan (status : Nat) (resp : Bytes) (s : State) : (answerFw status resp s).chan = s.chan := rfl
@[simp] theorem answerFw_work (status : Nat) (resp : Bytes) (s : State) : (answerFw status resp s).work = s.work := rfl
@[simp] theorem answerFw_prog (status : Nat) (resp : Bytes) (s : State) : (answerFw status resp s).prog = s.prog := rfl
@[simp] theorem answerFw_installs (status : Nat) (resp : Bytes) (s : State) : (answerFw status resp s).installs = s.installs := rfl
@[simp] theorem answerFw_req (status : Nat) (resp : Bytes) (s : State) : (answerFw status resp s).req = s.req := rfl
@[simp] theorem answerFw_nextReq (status : Nat) (resp : Bytes) (s : State) : (answerFw status resp s).nextReq = s.nextReq := rfl
@[simp] theorem answerFw_readLog (status : Nat) (resp : Bytes) (s : State) : (answerFw status resp s).readLog = s.readLog := rfl
@[simp] theorem answerFw_key (status : Nat) (resp : Bytes) (s : State) : (answerFw status resp s).key = s.key := rfl
@[simp] theorem answerFw_jx (status : Nat) (resp : Bytes) (s : State) : (answerFw status resp s).jx = s.jx := rfl
@[simp] theorem answerFw_slu (status : Nat) (resp : Bytes) (s : State) : (answerFw status resp s).slu = s.slu := rfl
@[simp] theorem answerFw_traffic (status : Nat) (resp : Bytes) (s : State) : (answerFw status resp s).traffic = s.traffic := rfl
@[simp] theorem answerFw_datum (status : Nat) (resp : Bytes) (s : State) : (answerFw status resp s).datum = s.datum := rfl
@[simp] theorem answerFw_sec (status : Nat) (resp : Bytes) (s : State) : (answerFw status resp s).sec = s.sec := rfl
@[simp] theorem answerFw_dma (status : Nat) (resp : Bytes) (s : State) : (answerFw status resp s).dma = s.dma := rfl
@[simp] theorem answerFw_saved (status : Nat) (resp : Bytes) (s : State) : (answerFw status resp s).saved = s.saved := rfl
@[simp] theorem answerFw_free (status : Nat) (resp : Bytes) (s : State) : (answerFw status resp s).free = s.free := rfl
@[simp] theorem answerFw_resets (status : Nat) (resp : Bytes) (s : State) : (answerFw status resp s).resets = s.resets := rfl
@[simp] theorem answerFw_pending (status : Nat) (resp : Bytes) (s : State) : (answerFw status resp s).pending = s.pending := rfl

/-! ### `svcAnswer` changes `svc` alone -/

@[simp] theorem svcAnswer_bmk (a : SvcAnswer) (s : State) : (svcAnswer a s).bmk = s.bmk := rfl
@[simp] theorem svcAnswer_pwr (a : SvcAnswer) (s : State) : (svcAnswer a s).pwr = s.pwr := rfl
@[simp] theorem svcAnswer_cfg (a : SvcAnswer) (s : State) : (svcAnswer a s).cfg = s.cfg := rfl
@[simp] theorem svcAnswer_catchment (a : SvcAnswer) (s : State) : (svcAnswer a s).catchment = s.catchment := rfl
@[simp] theorem svcAnswer_log (a : SvcAnswer) (s : State) : (svcAnswer a s).log = s.log := rfl
@[simp] theorem svcAnswer_cnt (a : SvcAnswer) (s : State) : (svcAnswer a s).cnt = s.cnt := rfl
@[simp] theorem svcAnswer_barrier (a : SvcAnswer) (s : State) : (svcAnswer a s).barrier = s.barrier := rfl
@[simp] theorem svcAnswer_rgn (a : SvcAnswer) (s : State) : (svcAnswer a s).rgn = s.rgn := rfl
@[simp] theorem svcAnswer_pair (a : SvcAnswer) (s : State) : (svcAnswer a s).pair = s.pair := rfl
@[simp] theorem svcAnswer_blk (a : SvcAnswer) (s : State) : (svcAnswer a s).blk = s.blk := rfl
@[simp] theorem svcAnswer_cap (a : SvcAnswer) (s : State) : (svcAnswer a s).cap = s.cap := rfl
@[simp] theorem svcAnswer_tier (a : SvcAnswer) (s : State) : (svcAnswer a s).tier = s.tier := rfl
@[simp] theorem svcAnswer_node (a : SvcAnswer) (s : State) : (svcAnswer a s).node = s.node := rfl
@[simp] theorem svcAnswer_ctl (a : SvcAnswer) (s : State) : (svcAnswer a s).ctl = s.ctl := rfl
@[simp] theorem svcAnswer_jtag (a : SvcAnswer) (s : State) : (svcAnswer a s).jtag = s.jtag := rfl
@[simp] theorem svcAnswer_fuse (a : SvcAnswer) (s : State) : (svcAnswer a s).fuse = s.fuse := rfl
@[simp] theorem svcAnswer_mem (a : SvcAnswer) (s : State) : (svcAnswer a s).mem = s.mem := rfl
@[simp] theorem svcAnswer_sto (a : SvcAnswer) (s : State) : (svcAnswer a s).sto = s.sto := rfl
@[simp] theorem svcAnswer_dir (a : SvcAnswer) (s : State) : (svcAnswer a s).dir = s.dir := rfl
@[simp] theorem svcAnswer_tlb (a : SvcAnswer) (s : State) : (svcAnswer a s).tlb = s.tlb := rfl
@[simp] theorem svcAnswer_chan (a : SvcAnswer) (s : State) : (svcAnswer a s).chan = s.chan := rfl
@[simp] theorem svcAnswer_work (a : SvcAnswer) (s : State) : (svcAnswer a s).work = s.work := rfl
@[simp] theorem svcAnswer_prog (a : SvcAnswer) (s : State) : (svcAnswer a s).prog = s.prog := rfl
@[simp] theorem svcAnswer_installs (a : SvcAnswer) (s : State) : (svcAnswer a s).installs = s.installs := rfl
@[simp] theorem svcAnswer_req (a : SvcAnswer) (s : State) : (svcAnswer a s).req = s.req := rfl
@[simp] theorem svcAnswer_nextReq (a : SvcAnswer) (s : State) : (svcAnswer a s).nextReq = s.nextReq := rfl
@[simp] theorem svcAnswer_readLog (a : SvcAnswer) (s : State) : (svcAnswer a s).readLog = s.readLog := rfl
@[simp] theorem svcAnswer_key (a : SvcAnswer) (s : State) : (svcAnswer a s).key = s.key := rfl
@[simp] theorem svcAnswer_jx (a : SvcAnswer) (s : State) : (svcAnswer a s).jx = s.jx := rfl
@[simp] theorem svcAnswer_slu (a : SvcAnswer) (s : State) : (svcAnswer a s).slu = s.slu := rfl
@[simp] theorem svcAnswer_traffic (a : SvcAnswer) (s : State) : (svcAnswer a s).traffic = s.traffic := rfl
@[simp] theorem svcAnswer_datum (a : SvcAnswer) (s : State) : (svcAnswer a s).datum = s.datum := rfl
@[simp] theorem svcAnswer_sec (a : SvcAnswer) (s : State) : (svcAnswer a s).sec = s.sec := rfl
@[simp] theorem svcAnswer_dma (a : SvcAnswer) (s : State) : (svcAnswer a s).dma = s.dma := rfl
@[simp] theorem svcAnswer_saved (a : SvcAnswer) (s : State) : (svcAnswer a s).saved = s.saved := rfl
@[simp] theorem svcAnswer_free (a : SvcAnswer) (s : State) : (svcAnswer a s).free = s.free := rfl
@[simp] theorem svcAnswer_resets (a : SvcAnswer) (s : State) : (svcAnswer a s).resets = s.resets := rfl
@[simp] theorem svcAnswer_pending (a : SvcAnswer) (s : State) : (svcAnswer a s).pending = s.pending := rfl

/-! ### `svcBad` changes `svc` alone -/

@[simp] theorem svcBad_bmk (s : State) : (svcBad s).bmk = s.bmk := rfl
@[simp] theorem svcBad_pwr (s : State) : (svcBad s).pwr = s.pwr := rfl
@[simp] theorem svcBad_cfg (s : State) : (svcBad s).cfg = s.cfg := rfl
@[simp] theorem svcBad_catchment (s : State) : (svcBad s).catchment = s.catchment := rfl
@[simp] theorem svcBad_log (s : State) : (svcBad s).log = s.log := rfl
@[simp] theorem svcBad_cnt (s : State) : (svcBad s).cnt = s.cnt := rfl
@[simp] theorem svcBad_barrier (s : State) : (svcBad s).barrier = s.barrier := rfl
@[simp] theorem svcBad_rgn (s : State) : (svcBad s).rgn = s.rgn := rfl
@[simp] theorem svcBad_pair (s : State) : (svcBad s).pair = s.pair := rfl
@[simp] theorem svcBad_blk (s : State) : (svcBad s).blk = s.blk := rfl
@[simp] theorem svcBad_cap (s : State) : (svcBad s).cap = s.cap := rfl
@[simp] theorem svcBad_tier (s : State) : (svcBad s).tier = s.tier := rfl
@[simp] theorem svcBad_node (s : State) : (svcBad s).node = s.node := rfl
@[simp] theorem svcBad_ctl (s : State) : (svcBad s).ctl = s.ctl := rfl
@[simp] theorem svcBad_jtag (s : State) : (svcBad s).jtag = s.jtag := rfl
@[simp] theorem svcBad_fuse (s : State) : (svcBad s).fuse = s.fuse := rfl
@[simp] theorem svcBad_mem (s : State) : (svcBad s).mem = s.mem := rfl
@[simp] theorem svcBad_sto (s : State) : (svcBad s).sto = s.sto := rfl
@[simp] theorem svcBad_dir (s : State) : (svcBad s).dir = s.dir := rfl
@[simp] theorem svcBad_tlb (s : State) : (svcBad s).tlb = s.tlb := rfl
@[simp] theorem svcBad_chan (s : State) : (svcBad s).chan = s.chan := rfl
@[simp] theorem svcBad_work (s : State) : (svcBad s).work = s.work := rfl
@[simp] theorem svcBad_prog (s : State) : (svcBad s).prog = s.prog := rfl
@[simp] theorem svcBad_installs (s : State) : (svcBad s).installs = s.installs := rfl
@[simp] theorem svcBad_req (s : State) : (svcBad s).req = s.req := rfl
@[simp] theorem svcBad_nextReq (s : State) : (svcBad s).nextReq = s.nextReq := rfl
@[simp] theorem svcBad_readLog (s : State) : (svcBad s).readLog = s.readLog := rfl
@[simp] theorem svcBad_key (s : State) : (svcBad s).key = s.key := rfl
@[simp] theorem svcBad_jx (s : State) : (svcBad s).jx = s.jx := rfl
@[simp] theorem svcBad_slu (s : State) : (svcBad s).slu = s.slu := rfl
@[simp] theorem svcBad_traffic (s : State) : (svcBad s).traffic = s.traffic := rfl
@[simp] theorem svcBad_datum (s : State) : (svcBad s).datum = s.datum := rfl
@[simp] theorem svcBad_sec (s : State) : (svcBad s).sec = s.sec := rfl
@[simp] theorem svcBad_dma (s : State) : (svcBad s).dma = s.dma := rfl
@[simp] theorem svcBad_saved (s : State) : (svcBad s).saved = s.saved := rfl
@[simp] theorem svcBad_free (s : State) : (svcBad s).free = s.free := rfl
@[simp] theorem svcBad_resets (s : State) : (svcBad s).resets = s.resets := rfl
@[simp] theorem svcBad_pending (s : State) : (svcBad s).pending = s.pending := rfl

/-! ### `svcForeign` changes `svc` alone -/

@[simp] theorem svcForeign_bmk (s : State) : (svcForeign s).bmk = s.bmk := rfl
@[simp] theorem svcForeign_pwr (s : State) : (svcForeign s).pwr = s.pwr := rfl
@[simp] theorem svcForeign_cfg (s : State) : (svcForeign s).cfg = s.cfg := rfl
@[simp] theorem svcForeign_catchment (s : State) : (svcForeign s).catchment = s.catchment := rfl
@[simp] theorem svcForeign_log (s : State) : (svcForeign s).log = s.log := rfl
@[simp] theorem svcForeign_cnt (s : State) : (svcForeign s).cnt = s.cnt := rfl
@[simp] theorem svcForeign_barrier (s : State) : (svcForeign s).barrier = s.barrier := rfl
@[simp] theorem svcForeign_rgn (s : State) : (svcForeign s).rgn = s.rgn := rfl
@[simp] theorem svcForeign_pair (s : State) : (svcForeign s).pair = s.pair := rfl
@[simp] theorem svcForeign_blk (s : State) : (svcForeign s).blk = s.blk := rfl
@[simp] theorem svcForeign_cap (s : State) : (svcForeign s).cap = s.cap := rfl
@[simp] theorem svcForeign_tier (s : State) : (svcForeign s).tier = s.tier := rfl
@[simp] theorem svcForeign_node (s : State) : (svcForeign s).node = s.node := rfl
@[simp] theorem svcForeign_ctl (s : State) : (svcForeign s).ctl = s.ctl := rfl
@[simp] theorem svcForeign_jtag (s : State) : (svcForeign s).jtag = s.jtag := rfl
@[simp] theorem svcForeign_fuse (s : State) : (svcForeign s).fuse = s.fuse := rfl
@[simp] theorem svcForeign_mem (s : State) : (svcForeign s).mem = s.mem := rfl
@[simp] theorem svcForeign_sto (s : State) : (svcForeign s).sto = s.sto := rfl
@[simp] theorem svcForeign_dir (s : State) : (svcForeign s).dir = s.dir := rfl
@[simp] theorem svcForeign_tlb (s : State) : (svcForeign s).tlb = s.tlb := rfl
@[simp] theorem svcForeign_chan (s : State) : (svcForeign s).chan = s.chan := rfl
@[simp] theorem svcForeign_work (s : State) : (svcForeign s).work = s.work := rfl
@[simp] theorem svcForeign_prog (s : State) : (svcForeign s).prog = s.prog := rfl
@[simp] theorem svcForeign_installs (s : State) : (svcForeign s).installs = s.installs := rfl
@[simp] theorem svcForeign_req (s : State) : (svcForeign s).req = s.req := rfl
@[simp] theorem svcForeign_nextReq (s : State) : (svcForeign s).nextReq = s.nextReq := rfl
@[simp] theorem svcForeign_readLog (s : State) : (svcForeign s).readLog = s.readLog := rfl
@[simp] theorem svcForeign_key (s : State) : (svcForeign s).key = s.key := rfl
@[simp] theorem svcForeign_jx (s : State) : (svcForeign s).jx = s.jx := rfl
@[simp] theorem svcForeign_slu (s : State) : (svcForeign s).slu = s.slu := rfl
@[simp] theorem svcForeign_traffic (s : State) : (svcForeign s).traffic = s.traffic := rfl
@[simp] theorem svcForeign_datum (s : State) : (svcForeign s).datum = s.datum := rfl
@[simp] theorem svcForeign_sec (s : State) : (svcForeign s).sec = s.sec := rfl
@[simp] theorem svcForeign_dma (s : State) : (svcForeign s).dma = s.dma := rfl
@[simp] theorem svcForeign_saved (s : State) : (svcForeign s).saved = s.saved := rfl
@[simp] theorem svcForeign_free (s : State) : (svcForeign s).free = s.free := rfl
@[simp] theorem svcForeign_resets (s : State) : (svcForeign s).resets = s.resets := rfl
@[simp] theorem svcForeign_pending (s : State) : (svcForeign s).pending = s.pending := rfl

/-! ### `setComp` changes `datum` alone -/

@[simp] theorem setComp_bmk (c : Nat) (x : Comp) (s : State) : (setComp c x s).bmk = s.bmk := rfl
@[simp] theorem setComp_pwr (c : Nat) (x : Comp) (s : State) : (setComp c x s).pwr = s.pwr := rfl
@[simp] theorem setComp_cfg (c : Nat) (x : Comp) (s : State) : (setComp c x s).cfg = s.cfg := rfl
@[simp] theorem setComp_svc (c : Nat) (x : Comp) (s : State) : (setComp c x s).svc = s.svc := rfl
@[simp] theorem setComp_catchment (c : Nat) (x : Comp) (s : State) : (setComp c x s).catchment = s.catchment := rfl
@[simp] theorem setComp_log (c : Nat) (x : Comp) (s : State) : (setComp c x s).log = s.log := rfl
@[simp] theorem setComp_cnt (c : Nat) (x : Comp) (s : State) : (setComp c x s).cnt = s.cnt := rfl
@[simp] theorem setComp_barrier (c : Nat) (x : Comp) (s : State) : (setComp c x s).barrier = s.barrier := rfl
@[simp] theorem setComp_rgn (c : Nat) (x : Comp) (s : State) : (setComp c x s).rgn = s.rgn := rfl
@[simp] theorem setComp_pair (c : Nat) (x : Comp) (s : State) : (setComp c x s).pair = s.pair := rfl
@[simp] theorem setComp_blk (c : Nat) (x : Comp) (s : State) : (setComp c x s).blk = s.blk := rfl
@[simp] theorem setComp_cap (c : Nat) (x : Comp) (s : State) : (setComp c x s).cap = s.cap := rfl
@[simp] theorem setComp_tier (c : Nat) (x : Comp) (s : State) : (setComp c x s).tier = s.tier := rfl
@[simp] theorem setComp_node (c : Nat) (x : Comp) (s : State) : (setComp c x s).node = s.node := rfl
@[simp] theorem setComp_ctl (c : Nat) (x : Comp) (s : State) : (setComp c x s).ctl = s.ctl := rfl
@[simp] theorem setComp_jtag (c : Nat) (x : Comp) (s : State) : (setComp c x s).jtag = s.jtag := rfl
@[simp] theorem setComp_fuse (c : Nat) (x : Comp) (s : State) : (setComp c x s).fuse = s.fuse := rfl
@[simp] theorem setComp_mem (c : Nat) (x : Comp) (s : State) : (setComp c x s).mem = s.mem := rfl
@[simp] theorem setComp_sto (c : Nat) (x : Comp) (s : State) : (setComp c x s).sto = s.sto := rfl
@[simp] theorem setComp_dir (c : Nat) (x : Comp) (s : State) : (setComp c x s).dir = s.dir := rfl
@[simp] theorem setComp_tlb (c : Nat) (x : Comp) (s : State) : (setComp c x s).tlb = s.tlb := rfl
@[simp] theorem setComp_chan (c : Nat) (x : Comp) (s : State) : (setComp c x s).chan = s.chan := rfl
@[simp] theorem setComp_work (c : Nat) (x : Comp) (s : State) : (setComp c x s).work = s.work := rfl
@[simp] theorem setComp_prog (c : Nat) (x : Comp) (s : State) : (setComp c x s).prog = s.prog := rfl
@[simp] theorem setComp_installs (c : Nat) (x : Comp) (s : State) : (setComp c x s).installs = s.installs := rfl
@[simp] theorem setComp_req (c : Nat) (x : Comp) (s : State) : (setComp c x s).req = s.req := rfl
@[simp] theorem setComp_nextReq (c : Nat) (x : Comp) (s : State) : (setComp c x s).nextReq = s.nextReq := rfl
@[simp] theorem setComp_readLog (c : Nat) (x : Comp) (s : State) : (setComp c x s).readLog = s.readLog := rfl
@[simp] theorem setComp_key (c : Nat) (x : Comp) (s : State) : (setComp c x s).key = s.key := rfl
@[simp] theorem setComp_jx (c : Nat) (x : Comp) (s : State) : (setComp c x s).jx = s.jx := rfl
@[simp] theorem setComp_slu (c : Nat) (x : Comp) (s : State) : (setComp c x s).slu = s.slu := rfl
@[simp] theorem setComp_traffic (c : Nat) (x : Comp) (s : State) : (setComp c x s).traffic = s.traffic := rfl
@[simp] theorem setComp_sec (c : Nat) (x : Comp) (s : State) : (setComp c x s).sec = s.sec := rfl
@[simp] theorem setComp_dma (c : Nat) (x : Comp) (s : State) : (setComp c x s).dma = s.dma := rfl
@[simp] theorem setComp_saved (c : Nat) (x : Comp) (s : State) : (setComp c x s).saved = s.saved := rfl
@[simp] theorem setComp_free (c : Nat) (x : Comp) (s : State) : (setComp c x s).free = s.free := rfl
@[simp] theorem setComp_resets (c : Nat) (x : Comp) (s : State) : (setComp c x s).resets = s.resets := rfl
@[simp] theorem setComp_pending (c : Nat) (x : Comp) (s : State) : (setComp c x s).pending = s.pending := rfl

/-! ### `joinControl` changes `jx` alone -/

@[simp] theorem joinControl_bmk (port : Nat) (p : QPkt) (s : State) : (joinControl port p s).bmk = s.bmk := rfl
@[simp] theorem joinControl_pwr (port : Nat) (p : QPkt) (s : State) : (joinControl port p s).pwr = s.pwr := rfl
@[simp] theorem joinControl_cfg (port : Nat) (p : QPkt) (s : State) : (joinControl port p s).cfg = s.cfg := rfl
@[simp] theorem joinControl_svc (port : Nat) (p : QPkt) (s : State) : (joinControl port p s).svc = s.svc := rfl
@[simp] theorem joinControl_catchment (port : Nat) (p : QPkt) (s : State) : (joinControl port p s).catchment = s.catchment := rfl
@[simp] theorem joinControl_log (port : Nat) (p : QPkt) (s : State) : (joinControl port p s).log = s.log := rfl
@[simp] theorem joinControl_cnt (port : Nat) (p : QPkt) (s : State) : (joinControl port p s).cnt = s.cnt := rfl
@[simp] theorem joinControl_barrier (port : Nat) (p : QPkt) (s : State) : (joinControl port p s).barrier = s.barrier := rfl
@[simp] theorem joinControl_rgn (port : Nat) (p : QPkt) (s : State) : (joinControl port p s).rgn = s.rgn := rfl
@[simp] theorem joinControl_pair (port : Nat) (p : QPkt) (s : State) : (joinControl port p s).pair = s.pair := rfl
@[simp] theorem joinControl_blk (port : Nat) (p : QPkt) (s : State) : (joinControl port p s).blk = s.blk := rfl
@[simp] theorem joinControl_cap (port : Nat) (p : QPkt) (s : State) : (joinControl port p s).cap = s.cap := rfl
@[simp] theorem joinControl_tier (port : Nat) (p : QPkt) (s : State) : (joinControl port p s).tier = s.tier := rfl
@[simp] theorem joinControl_node (port : Nat) (p : QPkt) (s : State) : (joinControl port p s).node = s.node := rfl
@[simp] theorem joinControl_ctl (port : Nat) (p : QPkt) (s : State) : (joinControl port p s).ctl = s.ctl := rfl
@[simp] theorem joinControl_jtag (port : Nat) (p : QPkt) (s : State) : (joinControl port p s).jtag = s.jtag := rfl
@[simp] theorem joinControl_fuse (port : Nat) (p : QPkt) (s : State) : (joinControl port p s).fuse = s.fuse := rfl
@[simp] theorem joinControl_mem (port : Nat) (p : QPkt) (s : State) : (joinControl port p s).mem = s.mem := rfl
@[simp] theorem joinControl_sto (port : Nat) (p : QPkt) (s : State) : (joinControl port p s).sto = s.sto := rfl
@[simp] theorem joinControl_dir (port : Nat) (p : QPkt) (s : State) : (joinControl port p s).dir = s.dir := rfl
@[simp] theorem joinControl_tlb (port : Nat) (p : QPkt) (s : State) : (joinControl port p s).tlb = s.tlb := rfl
@[simp] theorem joinControl_chan (port : Nat) (p : QPkt) (s : State) : (joinControl port p s).chan = s.chan := rfl
@[simp] theorem joinControl_work (port : Nat) (p : QPkt) (s : State) : (joinControl port p s).work = s.work := rfl
@[simp] theorem joinControl_prog (port : Nat) (p : QPkt) (s : State) : (joinControl port p s).prog = s.prog := rfl
@[simp] theorem joinControl_installs (port : Nat) (p : QPkt) (s : State) : (joinControl port p s).installs = s.installs := rfl
@[simp] theorem joinControl_req (port : Nat) (p : QPkt) (s : State) : (joinControl port p s).req = s.req := rfl
@[simp] theorem joinControl_nextReq (port : Nat) (p : QPkt) (s : State) : (joinControl port p s).nextReq = s.nextReq := rfl
@[simp] theorem joinControl_readLog (port : Nat) (p : QPkt) (s : State) : (joinControl port p s).readLog = s.readLog := rfl
@[simp] theorem joinControl_key (port : Nat) (p : QPkt) (s : State) : (joinControl port p s).key = s.key := rfl
@[simp] theorem joinControl_slu (port : Nat) (p : QPkt) (s : State) : (joinControl port p s).slu = s.slu := rfl
@[simp] theorem joinControl_traffic (port : Nat) (p : QPkt) (s : State) : (joinControl port p s).traffic = s.traffic := rfl
@[simp] theorem joinControl_datum (port : Nat) (p : QPkt) (s : State) : (joinControl port p s).datum = s.datum := rfl
@[simp] theorem joinControl_sec (port : Nat) (p : QPkt) (s : State) : (joinControl port p s).sec = s.sec := rfl
@[simp] theorem joinControl_dma (port : Nat) (p : QPkt) (s : State) : (joinControl port p s).dma = s.dma := rfl
@[simp] theorem joinControl_saved (port : Nat) (p : QPkt) (s : State) : (joinControl port p s).saved = s.saved := rfl
@[simp] theorem joinControl_free (port : Nat) (p : QPkt) (s : State) : (joinControl port p s).free = s.free := rfl
@[simp] theorem joinControl_resets (port : Nat) (p : QPkt) (s : State) : (joinControl port p s).resets = s.resets := rfl
@[simp] theorem joinControl_pending (port : Nat) (p : QPkt) (s : State) : (joinControl port p s).pending = s.pending := rfl

/-! ### `countN` changes `cnt` alone -/

@[simp] theorem countN_bmk (w off n : Nat) (s : State) : (countN w off n s).bmk = s.bmk := rfl
@[simp] theorem countN_pwr (w off n : Nat) (s : State) : (countN w off n s).pwr = s.pwr := rfl
@[simp] theorem countN_cfg (w off n : Nat) (s : State) : (countN w off n s).cfg = s.cfg := rfl
@[simp] theorem countN_svc (w off n : Nat) (s : State) : (countN w off n s).svc = s.svc := rfl
@[simp] theorem countN_catchment (w off n : Nat) (s : State) : (countN w off n s).catchment = s.catchment := rfl
@[simp] theorem countN_log (w off n : Nat) (s : State) : (countN w off n s).log = s.log := rfl
@[simp] theorem countN_barrier (w off n : Nat) (s : State) : (countN w off n s).barrier = s.barrier := rfl
@[simp] theorem countN_rgn (w off n : Nat) (s : State) : (countN w off n s).rgn = s.rgn := rfl
@[simp] theorem countN_pair (w off n : Nat) (s : State) : (countN w off n s).pair = s.pair := rfl
@[simp] theorem countN_blk (w off n : Nat) (s : State) : (countN w off n s).blk = s.blk := rfl
@[simp] theorem countN_cap (w off n : Nat) (s : State) : (countN w off n s).cap = s.cap := rfl
@[simp] theorem countN_tier (w off n : Nat) (s : State) : (countN w off n s).tier = s.tier := rfl
@[simp] theorem countN_node (w off n : Nat) (s : State) : (countN w off n s).node = s.node := rfl
@[simp] theorem countN_ctl (w off n : Nat) (s : State) : (countN w off n s).ctl = s.ctl := rfl
@[simp] theorem countN_jtag (w off n : Nat) (s : State) : (countN w off n s).jtag = s.jtag := rfl
@[simp] theorem countN_fuse (w off n : Nat) (s : State) : (countN w off n s).fuse = s.fuse := rfl
@[simp] theorem countN_mem (w off n : Nat) (s : State) : (countN w off n s).mem = s.mem := rfl
@[simp] theorem countN_sto (w off n : Nat) (s : State) : (countN w off n s).sto = s.sto := rfl
@[simp] theorem countN_dir (w off n : Nat) (s : State) : (countN w off n s).dir = s.dir := rfl
@[simp] theorem countN_tlb (w off n : Nat) (s : State) : (countN w off n s).tlb = s.tlb := rfl
@[simp] theorem countN_chan (w off n : Nat) (s : State) : (countN w off n s).chan = s.chan := rfl
@[simp] theorem countN_work (w off n : Nat) (s : State) : (countN w off n s).work = s.work := rfl
@[simp] theorem countN_prog (w off n : Nat) (s : State) : (countN w off n s).prog = s.prog := rfl
@[simp] theorem countN_installs (w off n : Nat) (s : State) : (countN w off n s).installs = s.installs := rfl
@[simp] theorem countN_req (w off n : Nat) (s : State) : (countN w off n s).req = s.req := rfl
@[simp] theorem countN_nextReq (w off n : Nat) (s : State) : (countN w off n s).nextReq = s.nextReq := rfl
@[simp] theorem countN_readLog (w off n : Nat) (s : State) : (countN w off n s).readLog = s.readLog := rfl
@[simp] theorem countN_key (w off n : Nat) (s : State) : (countN w off n s).key = s.key := rfl
@[simp] theorem countN_jx (w off n : Nat) (s : State) : (countN w off n s).jx = s.jx := rfl
@[simp] theorem countN_slu (w off n : Nat) (s : State) : (countN w off n s).slu = s.slu := rfl
@[simp] theorem countN_traffic (w off n : Nat) (s : State) : (countN w off n s).traffic = s.traffic := rfl
@[simp] theorem countN_datum (w off n : Nat) (s : State) : (countN w off n s).datum = s.datum := rfl
@[simp] theorem countN_sec (w off n : Nat) (s : State) : (countN w off n s).sec = s.sec := rfl
@[simp] theorem countN_dma (w off n : Nat) (s : State) : (countN w off n s).dma = s.dma := rfl
@[simp] theorem countN_saved (w off n : Nat) (s : State) : (countN w off n s).saved = s.saved := rfl
@[simp] theorem countN_free (w off n : Nat) (s : State) : (countN w off n s).free = s.free := rfl
@[simp] theorem countN_resets (w off n : Nat) (s : State) : (countN w off n s).resets = s.resets := rfl
@[simp] theorem countN_pending (w off n : Nat) (s : State) : (countN w off n s).pending = s.pending := rfl

/-! ### `settle` changes `catchment` alone -/

@[simp] theorem settle_bmk (s : State) : (settle s).bmk = s.bmk := rfl
@[simp] theorem settle_pwr (s : State) : (settle s).pwr = s.pwr := rfl
@[simp] theorem settle_cfg (s : State) : (settle s).cfg = s.cfg := rfl
@[simp] theorem settle_svc (s : State) : (settle s).svc = s.svc := rfl
@[simp] theorem settle_log (s : State) : (settle s).log = s.log := rfl
@[simp] theorem settle_cnt (s : State) : (settle s).cnt = s.cnt := rfl
@[simp] theorem settle_barrier (s : State) : (settle s).barrier = s.barrier := rfl
@[simp] theorem settle_rgn (s : State) : (settle s).rgn = s.rgn := rfl
@[simp] theorem settle_pair (s : State) : (settle s).pair = s.pair := rfl
@[simp] theorem settle_blk (s : State) : (settle s).blk = s.blk := rfl
@[simp] theorem settle_cap (s : State) : (settle s).cap = s.cap := rfl
@[simp] theorem settle_tier (s : State) : (settle s).tier = s.tier := rfl
@[simp] theorem settle_node (s : State) : (settle s).node = s.node := rfl
@[simp] theorem settle_ctl (s : State) : (settle s).ctl = s.ctl := rfl
@[simp] theorem settle_jtag (s : State) : (settle s).jtag = s.jtag := rfl
@[simp] theorem settle_fuse (s : State) : (settle s).fuse = s.fuse := rfl
@[simp] theorem settle_mem (s : State) : (settle s).mem = s.mem := rfl
@[simp] theorem settle_sto (s : State) : (settle s).sto = s.sto := rfl
@[simp] theorem settle_dir (s : State) : (settle s).dir = s.dir := rfl
@[simp] theorem settle_tlb (s : State) : (settle s).tlb = s.tlb := rfl
@[simp] theorem settle_chan (s : State) : (settle s).chan = s.chan := rfl
@[simp] theorem settle_work (s : State) : (settle s).work = s.work := rfl
@[simp] theorem settle_prog (s : State) : (settle s).prog = s.prog := rfl
@[simp] theorem settle_installs (s : State) : (settle s).installs = s.installs := rfl
@[simp] theorem settle_req (s : State) : (settle s).req = s.req := rfl
@[simp] theorem settle_nextReq (s : State) : (settle s).nextReq = s.nextReq := rfl
@[simp] theorem settle_readLog (s : State) : (settle s).readLog = s.readLog := rfl
@[simp] theorem settle_key (s : State) : (settle s).key = s.key := rfl
@[simp] theorem settle_jx (s : State) : (settle s).jx = s.jx := rfl
@[simp] theorem settle_slu (s : State) : (settle s).slu = s.slu := rfl
@[simp] theorem settle_traffic (s : State) : (settle s).traffic = s.traffic := rfl
@[simp] theorem settle_datum (s : State) : (settle s).datum = s.datum := rfl
@[simp] theorem settle_sec (s : State) : (settle s).sec = s.sec := rfl
@[simp] theorem settle_dma (s : State) : (settle s).dma = s.dma := rfl
@[simp] theorem settle_saved (s : State) : (settle s).saved = s.saved := rfl
@[simp] theorem settle_free (s : State) : (settle s).free = s.free := rfl
@[simp] theorem settle_resets (s : State) : (settle s).resets = s.resets := rfl
@[simp] theorem settle_pending (s : State) : (settle s).pending = s.pending := rfl

/-! ### `setCause` changes `catchment` alone -/

@[simp] theorem setCause_bmk (l : Leaf) (s : State) : (setCause l s).bmk = s.bmk := rfl
@[simp] theorem setCause_pwr (l : Leaf) (s : State) : (setCause l s).pwr = s.pwr := rfl
@[simp] theorem setCause_cfg (l : Leaf) (s : State) : (setCause l s).cfg = s.cfg := rfl
@[simp] theorem setCause_svc (l : Leaf) (s : State) : (setCause l s).svc = s.svc := rfl
@[simp] theorem setCause_log (l : Leaf) (s : State) : (setCause l s).log = s.log := rfl
@[simp] theorem setCause_cnt (l : Leaf) (s : State) : (setCause l s).cnt = s.cnt := rfl
@[simp] theorem setCause_barrier (l : Leaf) (s : State) : (setCause l s).barrier = s.barrier := rfl
@[simp] theorem setCause_rgn (l : Leaf) (s : State) : (setCause l s).rgn = s.rgn := rfl
@[simp] theorem setCause_pair (l : Leaf) (s : State) : (setCause l s).pair = s.pair := rfl
@[simp] theorem setCause_blk (l : Leaf) (s : State) : (setCause l s).blk = s.blk := rfl
@[simp] theorem setCause_cap (l : Leaf) (s : State) : (setCause l s).cap = s.cap := rfl
@[simp] theorem setCause_tier (l : Leaf) (s : State) : (setCause l s).tier = s.tier := rfl
@[simp] theorem setCause_node (l : Leaf) (s : State) : (setCause l s).node = s.node := rfl
@[simp] theorem setCause_ctl (l : Leaf) (s : State) : (setCause l s).ctl = s.ctl := rfl
@[simp] theorem setCause_jtag (l : Leaf) (s : State) : (setCause l s).jtag = s.jtag := rfl
@[simp] theorem setCause_fuse (l : Leaf) (s : State) : (setCause l s).fuse = s.fuse := rfl
@[simp] theorem setCause_mem (l : Leaf) (s : State) : (setCause l s).mem = s.mem := rfl
@[simp] theorem setCause_sto (l : Leaf) (s : State) : (setCause l s).sto = s.sto := rfl
@[simp] theorem setCause_dir (l : Leaf) (s : State) : (setCause l s).dir = s.dir := rfl
@[simp] theorem setCause_tlb (l : Leaf) (s : State) : (setCause l s).tlb = s.tlb := rfl
@[simp] theorem setCause_chan (l : Leaf) (s : State) : (setCause l s).chan = s.chan := rfl
@[simp] theorem setCause_work (l : Leaf) (s : State) : (setCause l s).work = s.work := rfl
@[simp] theorem setCause_prog (l : Leaf) (s : State) : (setCause l s).prog = s.prog := rfl
@[simp] theorem setCause_installs (l : Leaf) (s : State) : (setCause l s).installs = s.installs := rfl
@[simp] theorem setCause_req (l : Leaf) (s : State) : (setCause l s).req = s.req := rfl
@[simp] theorem setCause_nextReq (l : Leaf) (s : State) : (setCause l s).nextReq = s.nextReq := rfl
@[simp] theorem setCause_readLog (l : Leaf) (s : State) : (setCause l s).readLog = s.readLog := rfl
@[simp] theorem setCause_key (l : Leaf) (s : State) : (setCause l s).key = s.key := rfl
@[simp] theorem setCause_jx (l : Leaf) (s : State) : (setCause l s).jx = s.jx := rfl
@[simp] theorem setCause_slu (l : Leaf) (s : State) : (setCause l s).slu = s.slu := rfl
@[simp] theorem setCause_traffic (l : Leaf) (s : State) : (setCause l s).traffic = s.traffic := rfl
@[simp] theorem setCause_datum (l : Leaf) (s : State) : (setCause l s).datum = s.datum := rfl
@[simp] theorem setCause_sec (l : Leaf) (s : State) : (setCause l s).sec = s.sec := rfl
@[simp] theorem setCause_dma (l : Leaf) (s : State) : (setCause l s).dma = s.dma := rfl
@[simp] theorem setCause_saved (l : Leaf) (s : State) : (setCause l s).saved = s.saved := rfl
@[simp] theorem setCause_free (l : Leaf) (s : State) : (setCause l s).free = s.free := rfl
@[simp] theorem setCause_resets (l : Leaf) (s : State) : (setCause l s).resets = s.resets := rfl
@[simp] theorem setCause_pending (l : Leaf) (s : State) : (setCause l s).pending = s.pending := rfl

/-! ### `setPtp` changes `jx` alone -/

@[simp] theorem setPtp_bmk (d : Nat) (p : Ptp) (s : State) : (setPtp d p s).bmk = s.bmk := rfl
@[simp] theorem setPtp_pwr (d : Nat) (p : Ptp) (s : State) : (setPtp d p s).pwr = s.pwr := rfl
@[simp] theorem setPtp_cfg (d : Nat) (p : Ptp) (s : State) : (setPtp d p s).cfg = s.cfg := rfl
@[simp] theorem setPtp_svc (d : Nat) (p : Ptp) (s : State) : (setPtp d p s).svc = s.svc := rfl
@[simp] theorem setPtp_catchment (d : Nat) (p : Ptp) (s : State) : (setPtp d p s).catchment = s.catchment := rfl
@[simp] theorem setPtp_log (d : Nat) (p : Ptp) (s : State) : (setPtp d p s).log = s.log := rfl
@[simp] theorem setPtp_cnt (d : Nat) (p : Ptp) (s : State) : (setPtp d p s).cnt = s.cnt := rfl
@[simp] theorem setPtp_barrier (d : Nat) (p : Ptp) (s : State) : (setPtp d p s).barrier = s.barrier := rfl
@[simp] theorem setPtp_rgn (d : Nat) (p : Ptp) (s : State) : (setPtp d p s).rgn = s.rgn := rfl
@[simp] theorem setPtp_pair (d : Nat) (p : Ptp) (s : State) : (setPtp d p s).pair = s.pair := rfl
@[simp] theorem setPtp_blk (d : Nat) (p : Ptp) (s : State) : (setPtp d p s).blk = s.blk := rfl
@[simp] theorem setPtp_cap (d : Nat) (p : Ptp) (s : State) : (setPtp d p s).cap = s.cap := rfl
@[simp] theorem setPtp_tier (d : Nat) (p : Ptp) (s : State) : (setPtp d p s).tier = s.tier := rfl
@[simp] theorem setPtp_node (d : Nat) (p : Ptp) (s : State) : (setPtp d p s).node = s.node := rfl
@[simp] theorem setPtp_ctl (d : Nat) (p : Ptp) (s : State) : (setPtp d p s).ctl = s.ctl := rfl
@[simp] theorem setPtp_jtag (d : Nat) (p : Ptp) (s : State) : (setPtp d p s).jtag = s.jtag := rfl
@[simp] theorem setPtp_fuse (d : Nat) (p : Ptp) (s : State) : (setPtp d p s).fuse = s.fuse := rfl
@[simp] theorem setPtp_mem (d : Nat) (p : Ptp) (s : State) : (setPtp d p s).mem = s.mem := rfl
@[simp] theorem setPtp_sto (d : Nat) (p : Ptp) (s : State) : (setPtp d p s).sto = s.sto := rfl
@[simp] theorem setPtp_dir (d : Nat) (p : Ptp) (s : State) : (setPtp d p s).dir = s.dir := rfl
@[simp] theorem setPtp_tlb (d : Nat) (p : Ptp) (s : State) : (setPtp d p s).tlb = s.tlb := rfl
@[simp] theorem setPtp_chan (d : Nat) (p : Ptp) (s : State) : (setPtp d p s).chan = s.chan := rfl
@[simp] theorem setPtp_work (d : Nat) (p : Ptp) (s : State) : (setPtp d p s).work = s.work := rfl
@[simp] theorem setPtp_prog (d : Nat) (p : Ptp) (s : State) : (setPtp d p s).prog = s.prog := rfl
@[simp] theorem setPtp_installs (d : Nat) (p : Ptp) (s : State) : (setPtp d p s).installs = s.installs := rfl
@[simp] theorem setPtp_req (d : Nat) (p : Ptp) (s : State) : (setPtp d p s).req = s.req := rfl
@[simp] theorem setPtp_nextReq (d : Nat) (p : Ptp) (s : State) : (setPtp d p s).nextReq = s.nextReq := rfl
@[simp] theorem setPtp_readLog (d : Nat) (p : Ptp) (s : State) : (setPtp d p s).readLog = s.readLog := rfl
@[simp] theorem setPtp_key (d : Nat) (p : Ptp) (s : State) : (setPtp d p s).key = s.key := rfl
@[simp] theorem setPtp_slu (d : Nat) (p : Ptp) (s : State) : (setPtp d p s).slu = s.slu := rfl
@[simp] theorem setPtp_traffic (d : Nat) (p : Ptp) (s : State) : (setPtp d p s).traffic = s.traffic := rfl
@[simp] theorem setPtp_datum (d : Nat) (p : Ptp) (s : State) : (setPtp d p s).datum = s.datum := rfl
@[simp] theorem setPtp_sec (d : Nat) (p : Ptp) (s : State) : (setPtp d p s).sec = s.sec := rfl
@[simp] theorem setPtp_dma (d : Nat) (p : Ptp) (s : State) : (setPtp d p s).dma = s.dma := rfl
@[simp] theorem setPtp_saved (d : Nat) (p : Ptp) (s : State) : (setPtp d p s).saved = s.saved := rfl
@[simp] theorem setPtp_free (d : Nat) (p : Ptp) (s : State) : (setPtp d p s).free = s.free := rfl
@[simp] theorem setPtp_resets (d : Nat) (p : Ptp) (s : State) : (setPtp d p s).resets = s.resets := rfl
@[simp] theorem setPtp_pending (d : Nat) (p : Ptp) (s : State) : (setPtp d p s).pending = s.pending := rfl

/-! ### `setEq` changes `jx` alone -/

@[simp] theorem setEq_bmk (q : Nat) (e : EgressQ) (s : State) : (setEq q e s).bmk = s.bmk := rfl
@[simp] theorem setEq_pwr (q : Nat) (e : EgressQ) (s : State) : (setEq q e s).pwr = s.pwr := rfl
@[simp] theorem setEq_cfg (q : Nat) (e : EgressQ) (s : State) : (setEq q e s).cfg = s.cfg := rfl
@[simp] theorem setEq_svc (q : Nat) (e : EgressQ) (s : State) : (setEq q e s).svc = s.svc := rfl
@[simp] theorem setEq_catchment (q : Nat) (e : EgressQ) (s : State) : (setEq q e s).catchment = s.catchment := rfl
@[simp] theorem setEq_log (q : Nat) (e : EgressQ) (s : State) : (setEq q e s).log = s.log := rfl
@[simp] theorem setEq_cnt (q : Nat) (e : EgressQ) (s : State) : (setEq q e s).cnt = s.cnt := rfl
@[simp] theorem setEq_barrier (q : Nat) (e : EgressQ) (s : State) : (setEq q e s).barrier = s.barrier := rfl
@[simp] theorem setEq_rgn (q : Nat) (e : EgressQ) (s : State) : (setEq q e s).rgn = s.rgn := rfl
@[simp] theorem setEq_pair (q : Nat) (e : EgressQ) (s : State) : (setEq q e s).pair = s.pair := rfl
@[simp] theorem setEq_blk (q : Nat) (e : EgressQ) (s : State) : (setEq q e s).blk = s.blk := rfl
@[simp] theorem setEq_cap (q : Nat) (e : EgressQ) (s : State) : (setEq q e s).cap = s.cap := rfl
@[simp] theorem setEq_tier (q : Nat) (e : EgressQ) (s : State) : (setEq q e s).tier = s.tier := rfl
@[simp] theorem setEq_node (q : Nat) (e : EgressQ) (s : State) : (setEq q e s).node = s.node := rfl
@[simp] theorem setEq_ctl (q : Nat) (e : EgressQ) (s : State) : (setEq q e s).ctl = s.ctl := rfl
@[simp] theorem setEq_jtag (q : Nat) (e : EgressQ) (s : State) : (setEq q e s).jtag = s.jtag := rfl
@[simp] theorem setEq_fuse (q : Nat) (e : EgressQ) (s : State) : (setEq q e s).fuse = s.fuse := rfl
@[simp] theorem setEq_mem (q : Nat) (e : EgressQ) (s : State) : (setEq q e s).mem = s.mem := rfl
@[simp] theorem setEq_sto (q : Nat) (e : EgressQ) (s : State) : (setEq q e s).sto = s.sto := rfl
@[simp] theorem setEq_dir (q : Nat) (e : EgressQ) (s : State) : (setEq q e s).dir = s.dir := rfl
@[simp] theorem setEq_tlb (q : Nat) (e : EgressQ) (s : State) : (setEq q e s).tlb = s.tlb := rfl
@[simp] theorem setEq_chan (q : Nat) (e : EgressQ) (s : State) : (setEq q e s).chan = s.chan := rfl
@[simp] theorem setEq_work (q : Nat) (e : EgressQ) (s : State) : (setEq q e s).work = s.work := rfl
@[simp] theorem setEq_prog (q : Nat) (e : EgressQ) (s : State) : (setEq q e s).prog = s.prog := rfl
@[simp] theorem setEq_installs (q : Nat) (e : EgressQ) (s : State) : (setEq q e s).installs = s.installs := rfl
@[simp] theorem setEq_req (q : Nat) (e : EgressQ) (s : State) : (setEq q e s).req = s.req := rfl
@[simp] theorem setEq_nextReq (q : Nat) (e : EgressQ) (s : State) : (setEq q e s).nextReq = s.nextReq := rfl
@[simp] theorem setEq_readLog (q : Nat) (e : EgressQ) (s : State) : (setEq q e s).readLog = s.readLog := rfl
@[simp] theorem setEq_key (q : Nat) (e : EgressQ) (s : State) : (setEq q e s).key = s.key := rfl
@[simp] theorem setEq_slu (q : Nat) (e : EgressQ) (s : State) : (setEq q e s).slu = s.slu := rfl
@[simp] theorem setEq_traffic (q : Nat) (e : EgressQ) (s : State) : (setEq q e s).traffic = s.traffic := rfl
@[simp] theorem setEq_datum (q : Nat) (e : EgressQ) (s : State) : (setEq q e s).datum = s.datum := rfl
@[simp] theorem setEq_sec (q : Nat) (e : EgressQ) (s : State) : (setEq q e s).sec = s.sec := rfl
@[simp] theorem setEq_dma (q : Nat) (e : EgressQ) (s : State) : (setEq q e s).dma = s.dma := rfl
@[simp] theorem setEq_saved (q : Nat) (e : EgressQ) (s : State) : (setEq q e s).saved = s.saved := rfl
@[simp] theorem setEq_free (q : Nat) (e : EgressQ) (s : State) : (setEq q e s).free = s.free := rfl
@[simp] theorem setEq_resets (q : Nat) (e : EgressQ) (s : State) : (setEq q e s).resets = s.resets := rfl
@[simp] theorem setEq_pending (q : Nat) (e : EgressQ) (s : State) : (setEq q e s).pending = s.pending := rfl

/-! ### `setRound` changes `jx` alone -/

@[simp] theorem setRound_bmk (port : Nat) (r : PortRound) (s : State) : (setRound port r s).bmk = s.bmk := rfl
@[simp] theorem setRound_pwr (port : Nat) (r : PortRound) (s : State) : (setRound port r s).pwr = s.pwr := rfl
@[simp] theorem setRound_cfg (port : Nat) (r : PortRound) (s : State) : (setRound port r s).cfg = s.cfg := rfl
@[simp] theorem setRound_svc (port : Nat) (r : PortRound) (s : State) : (setRound port r s).svc = s.svc := rfl
@[simp] theorem setRound_catchment (port : Nat) (r : PortRound) (s : State) : (setRound port r s).catchment = s.catchment := rfl
@[simp] theorem setRound_log (port : Nat) (r : PortRound) (s : State) : (setRound port r s).log = s.log := rfl
@[simp] theorem setRound_cnt (port : Nat) (r : PortRound) (s : State) : (setRound port r s).cnt = s.cnt := rfl
@[simp] theorem setRound_barrier (port : Nat) (r : PortRound) (s : State) : (setRound port r s).barrier = s.barrier := rfl
@[simp] theorem setRound_rgn (port : Nat) (r : PortRound) (s : State) : (setRound port r s).rgn = s.rgn := rfl
@[simp] theorem setRound_pair (port : Nat) (r : PortRound) (s : State) : (setRound port r s).pair = s.pair := rfl
@[simp] theorem setRound_blk (port : Nat) (r : PortRound) (s : State) : (setRound port r s).blk = s.blk := rfl
@[simp] theorem setRound_cap (port : Nat) (r : PortRound) (s : State) : (setRound port r s).cap = s.cap := rfl
@[simp] theorem setRound_tier (port : Nat) (r : PortRound) (s : State) : (setRound port r s).tier = s.tier := rfl
@[simp] theorem setRound_node (port : Nat) (r : PortRound) (s : State) : (setRound port r s).node = s.node := rfl
@[simp] theorem setRound_ctl (port : Nat) (r : PortRound) (s : State) : (setRound port r s).ctl = s.ctl := rfl
@[simp] theorem setRound_jtag (port : Nat) (r : PortRound) (s : State) : (setRound port r s).jtag = s.jtag := rfl
@[simp] theorem setRound_fuse (port : Nat) (r : PortRound) (s : State) : (setRound port r s).fuse = s.fuse := rfl
@[simp] theorem setRound_mem (port : Nat) (r : PortRound) (s : State) : (setRound port r s).mem = s.mem := rfl
@[simp] theorem setRound_sto (port : Nat) (r : PortRound) (s : State) : (setRound port r s).sto = s.sto := rfl
@[simp] theorem setRound_dir (port : Nat) (r : PortRound) (s : State) : (setRound port r s).dir = s.dir := rfl
@[simp] theorem setRound_tlb (port : Nat) (r : PortRound) (s : State) : (setRound port r s).tlb = s.tlb := rfl
@[simp] theorem setRound_chan (port : Nat) (r : PortRound) (s : State) : (setRound port r s).chan = s.chan := rfl
@[simp] theorem setRound_work (port : Nat) (r : PortRound) (s : State) : (setRound port r s).work = s.work := rfl
@[simp] theorem setRound_prog (port : Nat) (r : PortRound) (s : State) : (setRound port r s).prog = s.prog := rfl
@[simp] theorem setRound_installs (port : Nat) (r : PortRound) (s : State) : (setRound port r s).installs = s.installs := rfl
@[simp] theorem setRound_req (port : Nat) (r : PortRound) (s : State) : (setRound port r s).req = s.req := rfl
@[simp] theorem setRound_nextReq (port : Nat) (r : PortRound) (s : State) : (setRound port r s).nextReq = s.nextReq := rfl
@[simp] theorem setRound_readLog (port : Nat) (r : PortRound) (s : State) : (setRound port r s).readLog = s.readLog := rfl
@[simp] theorem setRound_key (port : Nat) (r : PortRound) (s : State) : (setRound port r s).key = s.key := rfl
@[simp] theorem setRound_slu (port : Nat) (r : PortRound) (s : State) : (setRound port r s).slu = s.slu := rfl
@[simp] theorem setRound_traffic (port : Nat) (r : PortRound) (s : State) : (setRound port r s).traffic = s.traffic := rfl
@[simp] theorem setRound_datum (port : Nat) (r : PortRound) (s : State) : (setRound port r s).datum = s.datum := rfl
@[simp] theorem setRound_sec (port : Nat) (r : PortRound) (s : State) : (setRound port r s).sec = s.sec := rfl
@[simp] theorem setRound_dma (port : Nat) (r : PortRound) (s : State) : (setRound port r s).dma = s.dma := rfl
@[simp] theorem setRound_saved (port : Nat) (r : PortRound) (s : State) : (setRound port r s).saved = s.saved := rfl
@[simp] theorem setRound_free (port : Nat) (r : PortRound) (s : State) : (setRound port r s).free = s.free := rfl
@[simp] theorem setRound_resets (port : Nat) (r : PortRound) (s : State) : (setRound port r s).resets = s.resets := rfl
@[simp] theorem setRound_pending (port : Nat) (r : PortRound) (s : State) : (setRound port r s).pending = s.pending := rfl

/-! ### `setReq` changes `req` alone -/

@[simp] theorem setReq_bmk (n : Nat) (q : Req) (s : State) : (setReq n q s).bmk = s.bmk := rfl
@[simp] theorem setReq_pwr (n : Nat) (q : Req) (s : State) : (setReq n q s).pwr = s.pwr := rfl
@[simp] theorem setReq_cfg (n : Nat) (q : Req) (s : State) : (setReq n q s).cfg = s.cfg := rfl
@[simp] theorem setReq_svc (n : Nat) (q : Req) (s : State) : (setReq n q s).svc = s.svc := rfl
@[simp] theorem setReq_catchment (n : Nat) (q : Req) (s : State) : (setReq n q s).catchment = s.catchment := rfl
@[simp] theorem setReq_log (n : Nat) (q : Req) (s : State) : (setReq n q s).log = s.log := rfl
@[simp] theorem setReq_cnt (n : Nat) (q : Req) (s : State) : (setReq n q s).cnt = s.cnt := rfl
@[simp] theorem setReq_barrier (n : Nat) (q : Req) (s : State) : (setReq n q s).barrier = s.barrier := rfl
@[simp] theorem setReq_rgn (n : Nat) (q : Req) (s : State) : (setReq n q s).rgn = s.rgn := rfl
@[simp] theorem setReq_pair (n : Nat) (q : Req) (s : State) : (setReq n q s).pair = s.pair := rfl
@[simp] theorem setReq_blk (n : Nat) (q : Req) (s : State) : (setReq n q s).blk = s.blk := rfl
@[simp] theorem setReq_cap (n : Nat) (q : Req) (s : State) : (setReq n q s).cap = s.cap := rfl
@[simp] theorem setReq_tier (n : Nat) (q : Req) (s : State) : (setReq n q s).tier = s.tier := rfl
@[simp] theorem setReq_node (n : Nat) (q : Req) (s : State) : (setReq n q s).node = s.node := rfl
@[simp] theorem setReq_ctl (n : Nat) (q : Req) (s : State) : (setReq n q s).ctl = s.ctl := rfl
@[simp] theorem setReq_jtag (n : Nat) (q : Req) (s : State) : (setReq n q s).jtag = s.jtag := rfl
@[simp] theorem setReq_fuse (n : Nat) (q : Req) (s : State) : (setReq n q s).fuse = s.fuse := rfl
@[simp] theorem setReq_mem (n : Nat) (q : Req) (s : State) : (setReq n q s).mem = s.mem := rfl
@[simp] theorem setReq_sto (n : Nat) (q : Req) (s : State) : (setReq n q s).sto = s.sto := rfl
@[simp] theorem setReq_dir (n : Nat) (q : Req) (s : State) : (setReq n q s).dir = s.dir := rfl
@[simp] theorem setReq_tlb (n : Nat) (q : Req) (s : State) : (setReq n q s).tlb = s.tlb := rfl
@[simp] theorem setReq_chan (n : Nat) (q : Req) (s : State) : (setReq n q s).chan = s.chan := rfl
@[simp] theorem setReq_work (n : Nat) (q : Req) (s : State) : (setReq n q s).work = s.work := rfl
@[simp] theorem setReq_prog (n : Nat) (q : Req) (s : State) : (setReq n q s).prog = s.prog := rfl
@[simp] theorem setReq_installs (n : Nat) (q : Req) (s : State) : (setReq n q s).installs = s.installs := rfl
@[simp] theorem setReq_nextReq (n : Nat) (q : Req) (s : State) : (setReq n q s).nextReq = s.nextReq := rfl
@[simp] theorem setReq_readLog (n : Nat) (q : Req) (s : State) : (setReq n q s).readLog = s.readLog := rfl
@[simp] theorem setReq_key (n : Nat) (q : Req) (s : State) : (setReq n q s).key = s.key := rfl
@[simp] theorem setReq_jx (n : Nat) (q : Req) (s : State) : (setReq n q s).jx = s.jx := rfl
@[simp] theorem setReq_slu (n : Nat) (q : Req) (s : State) : (setReq n q s).slu = s.slu := rfl
@[simp] theorem setReq_traffic (n : Nat) (q : Req) (s : State) : (setReq n q s).traffic = s.traffic := rfl
@[simp] theorem setReq_datum (n : Nat) (q : Req) (s : State) : (setReq n q s).datum = s.datum := rfl
@[simp] theorem setReq_sec (n : Nat) (q : Req) (s : State) : (setReq n q s).sec = s.sec := rfl
@[simp] theorem setReq_dma (n : Nat) (q : Req) (s : State) : (setReq n q s).dma = s.dma := rfl
@[simp] theorem setReq_saved (n : Nat) (q : Req) (s : State) : (setReq n q s).saved = s.saved := rfl
@[simp] theorem setReq_free (n : Nat) (q : Req) (s : State) : (setReq n q s).free = s.free := rfl
@[simp] theorem setReq_resets (n : Nat) (q : Req) (s : State) : (setReq n q s).resets = s.resets := rfl
@[simp] theorem setReq_pending (n : Nat) (q : Req) (s : State) : (setReq n q s).pending = s.pending := rfl

/-! ### `setFilt` changes `jx` alone -/

@[simp] theorem setFilt_bmk (h : JxHdr) (e : Filt) (s : State) : (setFilt h e s).bmk = s.bmk := rfl
@[simp] theorem setFilt_pwr (h : JxHdr) (e : Filt) (s : State) : (setFilt h e s).pwr = s.pwr := rfl
@[simp] theorem setFilt_cfg (h : JxHdr) (e : Filt) (s : State) : (setFilt h e s).cfg = s.cfg := rfl
@[simp] theorem setFilt_svc (h : JxHdr) (e : Filt) (s : State) : (setFilt h e s).svc = s.svc := rfl
@[simp] theorem setFilt_catchment (h : JxHdr) (e : Filt) (s : State) : (setFilt h e s).catchment = s.catchment := rfl
@[simp] theorem setFilt_log (h : JxHdr) (e : Filt) (s : State) : (setFilt h e s).log = s.log := rfl
@[simp] theorem setFilt_cnt (h : JxHdr) (e : Filt) (s : State) : (setFilt h e s).cnt = s.cnt := rfl
@[simp] theorem setFilt_barrier (h : JxHdr) (e : Filt) (s : State) : (setFilt h e s).barrier = s.barrier := rfl
@[simp] theorem setFilt_rgn (h : JxHdr) (e : Filt) (s : State) : (setFilt h e s).rgn = s.rgn := rfl
@[simp] theorem setFilt_pair (h : JxHdr) (e : Filt) (s : State) : (setFilt h e s).pair = s.pair := rfl
@[simp] theorem setFilt_blk (h : JxHdr) (e : Filt) (s : State) : (setFilt h e s).blk = s.blk := rfl
@[simp] theorem setFilt_cap (h : JxHdr) (e : Filt) (s : State) : (setFilt h e s).cap = s.cap := rfl
@[simp] theorem setFilt_tier (h : JxHdr) (e : Filt) (s : State) : (setFilt h e s).tier = s.tier := rfl
@[simp] theorem setFilt_node (h : JxHdr) (e : Filt) (s : State) : (setFilt h e s).node = s.node := rfl
@[simp] theorem setFilt_ctl (h : JxHdr) (e : Filt) (s : State) : (setFilt h e s).ctl = s.ctl := rfl
@[simp] theorem setFilt_jtag (h : JxHdr) (e : Filt) (s : State) : (setFilt h e s).jtag = s.jtag := rfl
@[simp] theorem setFilt_fuse (h : JxHdr) (e : Filt) (s : State) : (setFilt h e s).fuse = s.fuse := rfl
@[simp] theorem setFilt_mem (h : JxHdr) (e : Filt) (s : State) : (setFilt h e s).mem = s.mem := rfl
@[simp] theorem setFilt_sto (h : JxHdr) (e : Filt) (s : State) : (setFilt h e s).sto = s.sto := rfl
@[simp] theorem setFilt_dir (h : JxHdr) (e : Filt) (s : State) : (setFilt h e s).dir = s.dir := rfl
@[simp] theorem setFilt_tlb (h : JxHdr) (e : Filt) (s : State) : (setFilt h e s).tlb = s.tlb := rfl
@[simp] theorem setFilt_chan (h : JxHdr) (e : Filt) (s : State) : (setFilt h e s).chan = s.chan := rfl
@[simp] theorem setFilt_work (h : JxHdr) (e : Filt) (s : State) : (setFilt h e s).work = s.work := rfl
@[simp] theorem setFilt_prog (h : JxHdr) (e : Filt) (s : State) : (setFilt h e s).prog = s.prog := rfl
@[simp] theorem setFilt_installs (h : JxHdr) (e : Filt) (s : State) : (setFilt h e s).installs = s.installs := rfl
@[simp] theorem setFilt_req (h : JxHdr) (e : Filt) (s : State) : (setFilt h e s).req = s.req := rfl
@[simp] theorem setFilt_nextReq (h : JxHdr) (e : Filt) (s : State) : (setFilt h e s).nextReq = s.nextReq := rfl
@[simp] theorem setFilt_readLog (h : JxHdr) (e : Filt) (s : State) : (setFilt h e s).readLog = s.readLog := rfl
@[simp] theorem setFilt_key (h : JxHdr) (e : Filt) (s : State) : (setFilt h e s).key = s.key := rfl
@[simp] theorem setFilt_slu (h : JxHdr) (e : Filt) (s : State) : (setFilt h e s).slu = s.slu := rfl
@[simp] theorem setFilt_traffic (h : JxHdr) (e : Filt) (s : State) : (setFilt h e s).traffic = s.traffic := rfl
@[simp] theorem setFilt_datum (h : JxHdr) (e : Filt) (s : State) : (setFilt h e s).datum = s.datum := rfl
@[simp] theorem setFilt_sec (h : JxHdr) (e : Filt) (s : State) : (setFilt h e s).sec = s.sec := rfl
@[simp] theorem setFilt_dma (h : JxHdr) (e : Filt) (s : State) : (setFilt h e s).dma = s.dma := rfl
@[simp] theorem setFilt_saved (h : JxHdr) (e : Filt) (s : State) : (setFilt h e s).saved = s.saved := rfl
@[simp] theorem setFilt_free (h : JxHdr) (e : Filt) (s : State) : (setFilt h e s).free = s.free := rfl
@[simp] theorem setFilt_resets (h : JxHdr) (e : Filt) (s : State) : (setFilt h e s).resets = s.resets := rfl
@[simp] theorem setFilt_pending (h : JxHdr) (e : Filt) (s : State) : (setFilt h e s).pending = s.pending := rfl

/-! ### `setTrack` changes `jx` alone -/

@[simp] theorem setTrack_bmk (h : JxHdr) (t : Tracker) (s : State) : (setTrack h t s).bmk = s.bmk := rfl
@[simp] theorem setTrack_pwr (h : JxHdr) (t : Tracker) (s : State) : (setTrack h t s).pwr = s.pwr := rfl
@[simp] theorem setTrack_cfg (h : JxHdr) (t : Tracker) (s : State) : (setTrack h t s).cfg = s.cfg := rfl
@[simp] theorem setTrack_svc (h : JxHdr) (t : Tracker) (s : State) : (setTrack h t s).svc = s.svc := rfl
@[simp] theorem setTrack_catchment (h : JxHdr) (t : Tracker) (s : State) : (setTrack h t s).catchment = s.catchment := rfl
@[simp] theorem setTrack_log (h : JxHdr) (t : Tracker) (s : State) : (setTrack h t s).log = s.log := rfl
@[simp] theorem setTrack_cnt (h : JxHdr) (t : Tracker) (s : State) : (setTrack h t s).cnt = s.cnt := rfl
@[simp] theorem setTrack_barrier (h : JxHdr) (t : Tracker) (s : State) : (setTrack h t s).barrier = s.barrier := rfl
@[simp] theorem setTrack_rgn (h : JxHdr) (t : Tracker) (s : State) : (setTrack h t s).rgn = s.rgn := rfl
@[simp] theorem setTrack_pair (h : JxHdr) (t : Tracker) (s : State) : (setTrack h t s).pair = s.pair := rfl
@[simp] theorem setTrack_blk (h : JxHdr) (t : Tracker) (s : State) : (setTrack h t s).blk = s.blk := rfl
@[simp] theorem setTrack_cap (h : JxHdr) (t : Tracker) (s : State) : (setTrack h t s).cap = s.cap := rfl
@[simp] theorem setTrack_tier (h : JxHdr) (t : Tracker) (s : State) : (setTrack h t s).tier = s.tier := rfl
@[simp] theorem setTrack_node (h : JxHdr) (t : Tracker) (s : State) : (setTrack h t s).node = s.node := rfl
@[simp] theorem setTrack_ctl (h : JxHdr) (t : Tracker) (s : State) : (setTrack h t s).ctl = s.ctl := rfl
@[simp] theorem setTrack_jtag (h : JxHdr) (t : Tracker) (s : State) : (setTrack h t s).jtag = s.jtag := rfl
@[simp] theorem setTrack_fuse (h : JxHdr) (t : Tracker) (s : State) : (setTrack h t s).fuse = s.fuse := rfl
@[simp] theorem setTrack_mem (h : JxHdr) (t : Tracker) (s : State) : (setTrack h t s).mem = s.mem := rfl
@[simp] theorem setTrack_sto (h : JxHdr) (t : Tracker) (s : State) : (setTrack h t s).sto = s.sto := rfl
@[simp] theorem setTrack_dir (h : JxHdr) (t : Tracker) (s : State) : (setTrack h t s).dir = s.dir := rfl
@[simp] theorem setTrack_tlb (h : JxHdr) (t : Tracker) (s : State) : (setTrack h t s).tlb = s.tlb := rfl
@[simp] theorem setTrack_chan (h : JxHdr) (t : Tracker) (s : State) : (setTrack h t s).chan = s.chan := rfl
@[simp] theorem setTrack_work (h : JxHdr) (t : Tracker) (s : State) : (setTrack h t s).work = s.work := rfl
@[simp] theorem setTrack_prog (h : JxHdr) (t : Tracker) (s : State) : (setTrack h t s).prog = s.prog := rfl
@[simp] theorem setTrack_installs (h : JxHdr) (t : Tracker) (s : State) : (setTrack h t s).installs = s.installs := rfl
@[simp] theorem setTrack_req (h : JxHdr) (t : Tracker) (s : State) : (setTrack h t s).req = s.req := rfl
@[simp] theorem setTrack_nextReq (h : JxHdr) (t : Tracker) (s : State) : (setTrack h t s).nextReq = s.nextReq := rfl
@[simp] theorem setTrack_readLog (h : JxHdr) (t : Tracker) (s : State) : (setTrack h t s).readLog = s.readLog := rfl
@[simp] theorem setTrack_key (h : JxHdr) (t : Tracker) (s : State) : (setTrack h t s).key = s.key := rfl
@[simp] theorem setTrack_slu (h : JxHdr) (t : Tracker) (s : State) : (setTrack h t s).slu = s.slu := rfl
@[simp] theorem setTrack_traffic (h : JxHdr) (t : Tracker) (s : State) : (setTrack h t s).traffic = s.traffic := rfl
@[simp] theorem setTrack_datum (h : JxHdr) (t : Tracker) (s : State) : (setTrack h t s).datum = s.datum := rfl
@[simp] theorem setTrack_sec (h : JxHdr) (t : Tracker) (s : State) : (setTrack h t s).sec = s.sec := rfl
@[simp] theorem setTrack_dma (h : JxHdr) (t : Tracker) (s : State) : (setTrack h t s).dma = s.dma := rfl
@[simp] theorem setTrack_saved (h : JxHdr) (t : Tracker) (s : State) : (setTrack h t s).saved = s.saved := rfl
@[simp] theorem setTrack_free (h : JxHdr) (t : Tracker) (s : State) : (setTrack h t s).free = s.free := rfl
@[simp] theorem setTrack_resets (h : JxHdr) (t : Tracker) (s : State) : (setTrack h t s).resets = s.resets := rfl
@[simp] theorem setTrack_pending (h : JxHdr) (t : Tracker) (s : State) : (setTrack h t s).pending = s.pending := rfl

/-! ### `dropTrack` changes `jx` alone -/

@[simp] theorem dropTrack_bmk (h : JxHdr) (s : State) : (dropTrack h s).bmk = s.bmk := rfl
@[simp] theorem dropTrack_pwr (h : JxHdr) (s : State) : (dropTrack h s).pwr = s.pwr := rfl
@[simp] theorem dropTrack_cfg (h : JxHdr) (s : State) : (dropTrack h s).cfg = s.cfg := rfl
@[simp] theorem dropTrack_svc (h : JxHdr) (s : State) : (dropTrack h s).svc = s.svc := rfl
@[simp] theorem dropTrack_catchment (h : JxHdr) (s : State) : (dropTrack h s).catchment = s.catchment := rfl
@[simp] theorem dropTrack_log (h : JxHdr) (s : State) : (dropTrack h s).log = s.log := rfl
@[simp] theorem dropTrack_cnt (h : JxHdr) (s : State) : (dropTrack h s).cnt = s.cnt := rfl
@[simp] theorem dropTrack_barrier (h : JxHdr) (s : State) : (dropTrack h s).barrier = s.barrier := rfl
@[simp] theorem dropTrack_rgn (h : JxHdr) (s : State) : (dropTrack h s).rgn = s.rgn := rfl
@[simp] theorem dropTrack_pair (h : JxHdr) (s : State) : (dropTrack h s).pair = s.pair := rfl
@[simp] theorem dropTrack_blk (h : JxHdr) (s : State) : (dropTrack h s).blk = s.blk := rfl
@[simp] theorem dropTrack_cap (h : JxHdr) (s : State) : (dropTrack h s).cap = s.cap := rfl
@[simp] theorem dropTrack_tier (h : JxHdr) (s : State) : (dropTrack h s).tier = s.tier := rfl
@[simp] theorem dropTrack_node (h : JxHdr) (s : State) : (dropTrack h s).node = s.node := rfl
@[simp] theorem dropTrack_ctl (h : JxHdr) (s : State) : (dropTrack h s).ctl = s.ctl := rfl
@[simp] theorem dropTrack_jtag (h : JxHdr) (s : State) : (dropTrack h s).jtag = s.jtag := rfl
@[simp] theorem dropTrack_fuse (h : JxHdr) (s : State) : (dropTrack h s).fuse = s.fuse := rfl
@[simp] theorem dropTrack_mem (h : JxHdr) (s : State) : (dropTrack h s).mem = s.mem := rfl
@[simp] theorem dropTrack_sto (h : JxHdr) (s : State) : (dropTrack h s).sto = s.sto := rfl
@[simp] theorem dropTrack_dir (h : JxHdr) (s : State) : (dropTrack h s).dir = s.dir := rfl
@[simp] theorem dropTrack_tlb (h : JxHdr) (s : State) : (dropTrack h s).tlb = s.tlb := rfl
@[simp] theorem dropTrack_chan (h : JxHdr) (s : State) : (dropTrack h s).chan = s.chan := rfl
@[simp] theorem dropTrack_work (h : JxHdr) (s : State) : (dropTrack h s).work = s.work := rfl
@[simp] theorem dropTrack_prog (h : JxHdr) (s : State) : (dropTrack h s).prog = s.prog := rfl
@[simp] theorem dropTrack_installs (h : JxHdr) (s : State) : (dropTrack h s).installs = s.installs := rfl
@[simp] theorem dropTrack_req (h : JxHdr) (s : State) : (dropTrack h s).req = s.req := rfl
@[simp] theorem dropTrack_nextReq (h : JxHdr) (s : State) : (dropTrack h s).nextReq = s.nextReq := rfl
@[simp] theorem dropTrack_readLog (h : JxHdr) (s : State) : (dropTrack h s).readLog = s.readLog := rfl
@[simp] theorem dropTrack_key (h : JxHdr) (s : State) : (dropTrack h s).key = s.key := rfl
@[simp] theorem dropTrack_slu (h : JxHdr) (s : State) : (dropTrack h s).slu = s.slu := rfl
@[simp] theorem dropTrack_traffic (h : JxHdr) (s : State) : (dropTrack h s).traffic = s.traffic := rfl
@[simp] theorem dropTrack_datum (h : JxHdr) (s : State) : (dropTrack h s).datum = s.datum := rfl
@[simp] theorem dropTrack_sec (h : JxHdr) (s : State) : (dropTrack h s).sec = s.sec := rfl
@[simp] theorem dropTrack_dma (h : JxHdr) (s : State) : (dropTrack h s).dma = s.dma := rfl
@[simp] theorem dropTrack_saved (h : JxHdr) (s : State) : (dropTrack h s).saved = s.saved := rfl
@[simp] theorem dropTrack_free (h : JxHdr) (s : State) : (dropTrack h s).free = s.free := rfl
@[simp] theorem dropTrack_resets (h : JxHdr) (s : State) : (dropTrack h s).resets = s.resets := rfl
@[simp] theorem dropTrack_pending (h : JxHdr) (s : State) : (dropTrack h s).pending = s.pending := rfl

/-! ### `setOut` changes `jx` alone -/

@[simp] theorem setOut_bmk (id : Nat) (m : OutMsg) (s : State) : (setOut id m s).bmk = s.bmk := rfl
@[simp] theorem setOut_pwr (id : Nat) (m : OutMsg) (s : State) : (setOut id m s).pwr = s.pwr := rfl
@[simp] theorem setOut_cfg (id : Nat) (m : OutMsg) (s : State) : (setOut id m s).cfg = s.cfg := rfl
@[simp] theorem setOut_svc (id : Nat) (m : OutMsg) (s : State) : (setOut id m s).svc = s.svc := rfl
@[simp] theorem setOut_catchment (id : Nat) (m : OutMsg) (s : State) : (setOut id m s).catchment = s.catchment := rfl
@[simp] theorem setOut_log (id : Nat) (m : OutMsg) (s : State) : (setOut id m s).log = s.log := rfl
@[simp] theorem setOut_cnt (id : Nat) (m : OutMsg) (s : State) : (setOut id m s).cnt = s.cnt := rfl
@[simp] theorem setOut_barrier (id : Nat) (m : OutMsg) (s : State) : (setOut id m s).barrier = s.barrier := rfl
@[simp] theorem setOut_rgn (id : Nat) (m : OutMsg) (s : State) : (setOut id m s).rgn = s.rgn := rfl
@[simp] theorem setOut_pair (id : Nat) (m : OutMsg) (s : State) : (setOut id m s).pair = s.pair := rfl
@[simp] theorem setOut_blk (id : Nat) (m : OutMsg) (s : State) : (setOut id m s).blk = s.blk := rfl
@[simp] theorem setOut_cap (id : Nat) (m : OutMsg) (s : State) : (setOut id m s).cap = s.cap := rfl
@[simp] theorem setOut_tier (id : Nat) (m : OutMsg) (s : State) : (setOut id m s).tier = s.tier := rfl
@[simp] theorem setOut_node (id : Nat) (m : OutMsg) (s : State) : (setOut id m s).node = s.node := rfl
@[simp] theorem setOut_ctl (id : Nat) (m : OutMsg) (s : State) : (setOut id m s).ctl = s.ctl := rfl
@[simp] theorem setOut_jtag (id : Nat) (m : OutMsg) (s : State) : (setOut id m s).jtag = s.jtag := rfl
@[simp] theorem setOut_fuse (id : Nat) (m : OutMsg) (s : State) : (setOut id m s).fuse = s.fuse := rfl
@[simp] theorem setOut_mem (id : Nat) (m : OutMsg) (s : State) : (setOut id m s).mem = s.mem := rfl
@[simp] theorem setOut_sto (id : Nat) (m : OutMsg) (s : State) : (setOut id m s).sto = s.sto := rfl
@[simp] theorem setOut_dir (id : Nat) (m : OutMsg) (s : State) : (setOut id m s).dir = s.dir := rfl
@[simp] theorem setOut_tlb (id : Nat) (m : OutMsg) (s : State) : (setOut id m s).tlb = s.tlb := rfl
@[simp] theorem setOut_chan (id : Nat) (m : OutMsg) (s : State) : (setOut id m s).chan = s.chan := rfl
@[simp] theorem setOut_work (id : Nat) (m : OutMsg) (s : State) : (setOut id m s).work = s.work := rfl
@[simp] theorem setOut_prog (id : Nat) (m : OutMsg) (s : State) : (setOut id m s).prog = s.prog := rfl
@[simp] theorem setOut_installs (id : Nat) (m : OutMsg) (s : State) : (setOut id m s).installs = s.installs := rfl
@[simp] theorem setOut_req (id : Nat) (m : OutMsg) (s : State) : (setOut id m s).req = s.req := rfl
@[simp] theorem setOut_nextReq (id : Nat) (m : OutMsg) (s : State) : (setOut id m s).nextReq = s.nextReq := rfl
@[simp] theorem setOut_readLog (id : Nat) (m : OutMsg) (s : State) : (setOut id m s).readLog = s.readLog := rfl
@[simp] theorem setOut_key (id : Nat) (m : OutMsg) (s : State) : (setOut id m s).key = s.key := rfl
@[simp] theorem setOut_slu (id : Nat) (m : OutMsg) (s : State) : (setOut id m s).slu = s.slu := rfl
@[simp] theorem setOut_traffic (id : Nat) (m : OutMsg) (s : State) : (setOut id m s).traffic = s.traffic := rfl
@[simp] theorem setOut_datum (id : Nat) (m : OutMsg) (s : State) : (setOut id m s).datum = s.datum := rfl
@[simp] theorem setOut_sec (id : Nat) (m : OutMsg) (s : State) : (setOut id m s).sec = s.sec := rfl
@[simp] theorem setOut_dma (id : Nat) (m : OutMsg) (s : State) : (setOut id m s).dma = s.dma := rfl
@[simp] theorem setOut_saved (id : Nat) (m : OutMsg) (s : State) : (setOut id m s).saved = s.saved := rfl
@[simp] theorem setOut_free (id : Nat) (m : OutMsg) (s : State) : (setOut id m s).free = s.free := rfl
@[simp] theorem setOut_resets (id : Nat) (m : OutMsg) (s : State) : (setOut id m s).resets = s.resets := rfl
@[simp] theorem setOut_pending (id : Nat) (m : OutMsg) (s : State) : (setOut id m s).pending = s.pending := rfl

/-! ### `setPath` changes `jx` alone -/

@[simp] theorem setPath_bmk (p : Nat) (x : PathSt) (s : State) : (setPath p x s).bmk = s.bmk := rfl
@[simp] theorem setPath_pwr (p : Nat) (x : PathSt) (s : State) : (setPath p x s).pwr = s.pwr := rfl
@[simp] theorem setPath_cfg (p : Nat) (x : PathSt) (s : State) : (setPath p x s).cfg = s.cfg := rfl
@[simp] theorem setPath_svc (p : Nat) (x : PathSt) (s : State) : (setPath p x s).svc = s.svc := rfl
@[simp] theorem setPath_catchment (p : Nat) (x : PathSt) (s : State) : (setPath p x s).catchment = s.catchment := rfl
@[simp] theorem setPath_log (p : Nat) (x : PathSt) (s : State) : (setPath p x s).log = s.log := rfl
@[simp] theorem setPath_cnt (p : Nat) (x : PathSt) (s : State) : (setPath p x s).cnt = s.cnt := rfl
@[simp] theorem setPath_barrier (p : Nat) (x : PathSt) (s : State) : (setPath p x s).barrier = s.barrier := rfl
@[simp] theorem setPath_rgn (p : Nat) (x : PathSt) (s : State) : (setPath p x s).rgn = s.rgn := rfl
@[simp] theorem setPath_pair (p : Nat) (x : PathSt) (s : State) : (setPath p x s).pair = s.pair := rfl
@[simp] theorem setPath_blk (p : Nat) (x : PathSt) (s : State) : (setPath p x s).blk = s.blk := rfl
@[simp] theorem setPath_cap (p : Nat) (x : PathSt) (s : State) : (setPath p x s).cap = s.cap := rfl
@[simp] theorem setPath_tier (p : Nat) (x : PathSt) (s : State) : (setPath p x s).tier = s.tier := rfl
@[simp] theorem setPath_node (p : Nat) (x : PathSt) (s : State) : (setPath p x s).node = s.node := rfl
@[simp] theorem setPath_ctl (p : Nat) (x : PathSt) (s : State) : (setPath p x s).ctl = s.ctl := rfl
@[simp] theorem setPath_jtag (p : Nat) (x : PathSt) (s : State) : (setPath p x s).jtag = s.jtag := rfl
@[simp] theorem setPath_fuse (p : Nat) (x : PathSt) (s : State) : (setPath p x s).fuse = s.fuse := rfl
@[simp] theorem setPath_mem (p : Nat) (x : PathSt) (s : State) : (setPath p x s).mem = s.mem := rfl
@[simp] theorem setPath_sto (p : Nat) (x : PathSt) (s : State) : (setPath p x s).sto = s.sto := rfl
@[simp] theorem setPath_dir (p : Nat) (x : PathSt) (s : State) : (setPath p x s).dir = s.dir := rfl
@[simp] theorem setPath_tlb (p : Nat) (x : PathSt) (s : State) : (setPath p x s).tlb = s.tlb := rfl
@[simp] theorem setPath_chan (p : Nat) (x : PathSt) (s : State) : (setPath p x s).chan = s.chan := rfl
@[simp] theorem setPath_work (p : Nat) (x : PathSt) (s : State) : (setPath p x s).work = s.work := rfl
@[simp] theorem setPath_prog (p : Nat) (x : PathSt) (s : State) : (setPath p x s).prog = s.prog := rfl
@[simp] theorem setPath_installs (p : Nat) (x : PathSt) (s : State) : (setPath p x s).installs = s.installs := rfl
@[simp] theorem setPath_req (p : Nat) (x : PathSt) (s : State) : (setPath p x s).req = s.req := rfl
@[simp] theorem setPath_nextReq (p : Nat) (x : PathSt) (s : State) : (setPath p x s).nextReq = s.nextReq := rfl
@[simp] theorem setPath_readLog (p : Nat) (x : PathSt) (s : State) : (setPath p x s).readLog = s.readLog := rfl
@[simp] theorem setPath_key (p : Nat) (x : PathSt) (s : State) : (setPath p x s).key = s.key := rfl
@[simp] theorem setPath_slu (p : Nat) (x : PathSt) (s : State) : (setPath p x s).slu = s.slu := rfl
@[simp] theorem setPath_traffic (p : Nat) (x : PathSt) (s : State) : (setPath p x s).traffic = s.traffic := rfl
@[simp] theorem setPath_datum (p : Nat) (x : PathSt) (s : State) : (setPath p x s).datum = s.datum := rfl
@[simp] theorem setPath_sec (p : Nat) (x : PathSt) (s : State) : (setPath p x s).sec = s.sec := rfl
@[simp] theorem setPath_dma (p : Nat) (x : PathSt) (s : State) : (setPath p x s).dma = s.dma := rfl
@[simp] theorem setPath_saved (p : Nat) (x : PathSt) (s : State) : (setPath p x s).saved = s.saved := rfl
@[simp] theorem setPath_free (p : Nat) (x : PathSt) (s : State) : (setPath p x s).free = s.free := rfl
@[simp] theorem setPath_resets (p : Nat) (x : PathSt) (s : State) : (setPath p x s).resets = s.resets := rfl
@[simp] theorem setPath_pending (p : Nat) (x : PathSt) (s : State) : (setPath p x s).pending = s.pending := rfl

/-! ### `useFast` changes `sto` alone -/

@[simp] theorem useFast_bmk (a size tenant : Nat) (u : StoreUse) (s : State) : (useFast a size tenant u s).bmk = s.bmk := rfl
@[simp] theorem useFast_pwr (a size tenant : Nat) (u : StoreUse) (s : State) : (useFast a size tenant u s).pwr = s.pwr := rfl
@[simp] theorem useFast_cfg (a size tenant : Nat) (u : StoreUse) (s : State) : (useFast a size tenant u s).cfg = s.cfg := rfl
@[simp] theorem useFast_svc (a size tenant : Nat) (u : StoreUse) (s : State) : (useFast a size tenant u s).svc = s.svc := rfl
@[simp] theorem useFast_catchment (a size tenant : Nat) (u : StoreUse) (s : State) : (useFast a size tenant u s).catchment = s.catchment := rfl
@[simp] theorem useFast_log (a size tenant : Nat) (u : StoreUse) (s : State) : (useFast a size tenant u s).log = s.log := rfl
@[simp] theorem useFast_cnt (a size tenant : Nat) (u : StoreUse) (s : State) : (useFast a size tenant u s).cnt = s.cnt := rfl
@[simp] theorem useFast_barrier (a size tenant : Nat) (u : StoreUse) (s : State) : (useFast a size tenant u s).barrier = s.barrier := rfl
@[simp] theorem useFast_rgn (a size tenant : Nat) (u : StoreUse) (s : State) : (useFast a size tenant u s).rgn = s.rgn := rfl
@[simp] theorem useFast_pair (a size tenant : Nat) (u : StoreUse) (s : State) : (useFast a size tenant u s).pair = s.pair := rfl
@[simp] theorem useFast_blk (a size tenant : Nat) (u : StoreUse) (s : State) : (useFast a size tenant u s).blk = s.blk := rfl
@[simp] theorem useFast_cap (a size tenant : Nat) (u : StoreUse) (s : State) : (useFast a size tenant u s).cap = s.cap := rfl
@[simp] theorem useFast_tier (a size tenant : Nat) (u : StoreUse) (s : State) : (useFast a size tenant u s).tier = s.tier := rfl
@[simp] theorem useFast_node (a size tenant : Nat) (u : StoreUse) (s : State) : (useFast a size tenant u s).node = s.node := rfl
@[simp] theorem useFast_ctl (a size tenant : Nat) (u : StoreUse) (s : State) : (useFast a size tenant u s).ctl = s.ctl := rfl
@[simp] theorem useFast_jtag (a size tenant : Nat) (u : StoreUse) (s : State) : (useFast a size tenant u s).jtag = s.jtag := rfl
@[simp] theorem useFast_fuse (a size tenant : Nat) (u : StoreUse) (s : State) : (useFast a size tenant u s).fuse = s.fuse := rfl
@[simp] theorem useFast_mem (a size tenant : Nat) (u : StoreUse) (s : State) : (useFast a size tenant u s).mem = s.mem := rfl
@[simp] theorem useFast_dir (a size tenant : Nat) (u : StoreUse) (s : State) : (useFast a size tenant u s).dir = s.dir := rfl
@[simp] theorem useFast_tlb (a size tenant : Nat) (u : StoreUse) (s : State) : (useFast a size tenant u s).tlb = s.tlb := rfl
@[simp] theorem useFast_chan (a size tenant : Nat) (u : StoreUse) (s : State) : (useFast a size tenant u s).chan = s.chan := rfl
@[simp] theorem useFast_work (a size tenant : Nat) (u : StoreUse) (s : State) : (useFast a size tenant u s).work = s.work := rfl
@[simp] theorem useFast_prog (a size tenant : Nat) (u : StoreUse) (s : State) : (useFast a size tenant u s).prog = s.prog := rfl
@[simp] theorem useFast_installs (a size tenant : Nat) (u : StoreUse) (s : State) : (useFast a size tenant u s).installs = s.installs := rfl
@[simp] theorem useFast_req (a size tenant : Nat) (u : StoreUse) (s : State) : (useFast a size tenant u s).req = s.req := rfl
@[simp] theorem useFast_nextReq (a size tenant : Nat) (u : StoreUse) (s : State) : (useFast a size tenant u s).nextReq = s.nextReq := rfl
@[simp] theorem useFast_readLog (a size tenant : Nat) (u : StoreUse) (s : State) : (useFast a size tenant u s).readLog = s.readLog := rfl
@[simp] theorem useFast_key (a size tenant : Nat) (u : StoreUse) (s : State) : (useFast a size tenant u s).key = s.key := rfl
@[simp] theorem useFast_jx (a size tenant : Nat) (u : StoreUse) (s : State) : (useFast a size tenant u s).jx = s.jx := rfl
@[simp] theorem useFast_slu (a size tenant : Nat) (u : StoreUse) (s : State) : (useFast a size tenant u s).slu = s.slu := rfl
@[simp] theorem useFast_traffic (a size tenant : Nat) (u : StoreUse) (s : State) : (useFast a size tenant u s).traffic = s.traffic := rfl
@[simp] theorem useFast_datum (a size tenant : Nat) (u : StoreUse) (s : State) : (useFast a size tenant u s).datum = s.datum := rfl
@[simp] theorem useFast_sec (a size tenant : Nat) (u : StoreUse) (s : State) : (useFast a size tenant u s).sec = s.sec := rfl
@[simp] theorem useFast_dma (a size tenant : Nat) (u : StoreUse) (s : State) : (useFast a size tenant u s).dma = s.dma := rfl
@[simp] theorem useFast_saved (a size tenant : Nat) (u : StoreUse) (s : State) : (useFast a size tenant u s).saved = s.saved := rfl
@[simp] theorem useFast_free (a size tenant : Nat) (u : StoreUse) (s : State) : (useFast a size tenant u s).free = s.free := rfl
@[simp] theorem useFast_resets (a size tenant : Nat) (u : StoreUse) (s : State) : (useFast a size tenant u s).resets = s.resets := rfl
@[simp] theorem useFast_pending (a size tenant : Nat) (u : StoreUse) (s : State) : (useFast a size tenant u s).pending = s.pending := rfl

/-! ### `useDeep` changes `sto` alone -/

@[simp] theorem useDeep_bmk (a size tenant : Nat) (u : StoreUse) (s : State) : (useDeep a size tenant u s).bmk = s.bmk := rfl
@[simp] theorem useDeep_pwr (a size tenant : Nat) (u : StoreUse) (s : State) : (useDeep a size tenant u s).pwr = s.pwr := rfl
@[simp] theorem useDeep_cfg (a size tenant : Nat) (u : StoreUse) (s : State) : (useDeep a size tenant u s).cfg = s.cfg := rfl
@[simp] theorem useDeep_svc (a size tenant : Nat) (u : StoreUse) (s : State) : (useDeep a size tenant u s).svc = s.svc := rfl
@[simp] theorem useDeep_catchment (a size tenant : Nat) (u : StoreUse) (s : State) : (useDeep a size tenant u s).catchment = s.catchment := rfl
@[simp] theorem useDeep_log (a size tenant : Nat) (u : StoreUse) (s : State) : (useDeep a size tenant u s).log = s.log := rfl
@[simp] theorem useDeep_cnt (a size tenant : Nat) (u : StoreUse) (s : State) : (useDeep a size tenant u s).cnt = s.cnt := rfl
@[simp] theorem useDeep_barrier (a size tenant : Nat) (u : StoreUse) (s : State) : (useDeep a size tenant u s).barrier = s.barrier := rfl
@[simp] theorem useDeep_rgn (a size tenant : Nat) (u : StoreUse) (s : State) : (useDeep a size tenant u s).rgn = s.rgn := rfl
@[simp] theorem useDeep_pair (a size tenant : Nat) (u : StoreUse) (s : State) : (useDeep a size tenant u s).pair = s.pair := rfl
@[simp] theorem useDeep_blk (a size tenant : Nat) (u : StoreUse) (s : State) : (useDeep a size tenant u s).blk = s.blk := rfl
@[simp] theorem useDeep_cap (a size tenant : Nat) (u : StoreUse) (s : State) : (useDeep a size tenant u s).cap = s.cap := rfl
@[simp] theorem useDeep_tier (a size tenant : Nat) (u : StoreUse) (s : State) : (useDeep a size tenant u s).tier = s.tier := rfl
@[simp] theorem useDeep_node (a size tenant : Nat) (u : StoreUse) (s : State) : (useDeep a size tenant u s).node = s.node := rfl
@[simp] theorem useDeep_ctl (a size tenant : Nat) (u : StoreUse) (s : State) : (useDeep a size tenant u s).ctl = s.ctl := rfl
@[simp] theorem useDeep_jtag (a size tenant : Nat) (u : StoreUse) (s : State) : (useDeep a size tenant u s).jtag = s.jtag := rfl
@[simp] theorem useDeep_fuse (a size tenant : Nat) (u : StoreUse) (s : State) : (useDeep a size tenant u s).fuse = s.fuse := rfl
@[simp] theorem useDeep_mem (a size tenant : Nat) (u : StoreUse) (s : State) : (useDeep a size tenant u s).mem = s.mem := rfl
@[simp] theorem useDeep_dir (a size tenant : Nat) (u : StoreUse) (s : State) : (useDeep a size tenant u s).dir = s.dir := rfl
@[simp] theorem useDeep_tlb (a size tenant : Nat) (u : StoreUse) (s : State) : (useDeep a size tenant u s).tlb = s.tlb := rfl
@[simp] theorem useDeep_chan (a size tenant : Nat) (u : StoreUse) (s : State) : (useDeep a size tenant u s).chan = s.chan := rfl
@[simp] theorem useDeep_work (a size tenant : Nat) (u : StoreUse) (s : State) : (useDeep a size tenant u s).work = s.work := rfl
@[simp] theorem useDeep_prog (a size tenant : Nat) (u : StoreUse) (s : State) : (useDeep a size tenant u s).prog = s.prog := rfl
@[simp] theorem useDeep_installs (a size tenant : Nat) (u : StoreUse) (s : State) : (useDeep a size tenant u s).installs = s.installs := rfl
@[simp] theorem useDeep_req (a size tenant : Nat) (u : StoreUse) (s : State) : (useDeep a size tenant u s).req = s.req := rfl
@[simp] theorem useDeep_nextReq (a size tenant : Nat) (u : StoreUse) (s : State) : (useDeep a size tenant u s).nextReq = s.nextReq := rfl
@[simp] theorem useDeep_readLog (a size tenant : Nat) (u : StoreUse) (s : State) : (useDeep a size tenant u s).readLog = s.readLog := rfl
@[simp] theorem useDeep_key (a size tenant : Nat) (u : StoreUse) (s : State) : (useDeep a size tenant u s).key = s.key := rfl
@[simp] theorem useDeep_jx (a size tenant : Nat) (u : StoreUse) (s : State) : (useDeep a size tenant u s).jx = s.jx := rfl
@[simp] theorem useDeep_slu (a size tenant : Nat) (u : StoreUse) (s : State) : (useDeep a size tenant u s).slu = s.slu := rfl
@[simp] theorem useDeep_traffic (a size tenant : Nat) (u : StoreUse) (s : State) : (useDeep a size tenant u s).traffic = s.traffic := rfl
@[simp] theorem useDeep_datum (a size tenant : Nat) (u : StoreUse) (s : State) : (useDeep a size tenant u s).datum = s.datum := rfl
@[simp] theorem useDeep_sec (a size tenant : Nat) (u : StoreUse) (s : State) : (useDeep a size tenant u s).sec = s.sec := rfl
@[simp] theorem useDeep_dma (a size tenant : Nat) (u : StoreUse) (s : State) : (useDeep a size tenant u s).dma = s.dma := rfl
@[simp] theorem useDeep_saved (a size tenant : Nat) (u : StoreUse) (s : State) : (useDeep a size tenant u s).saved = s.saved := rfl
@[simp] theorem useDeep_free (a size tenant : Nat) (u : StoreUse) (s : State) : (useDeep a size tenant u s).free = s.free := rfl
@[simp] theorem useDeep_resets (a size tenant : Nat) (u : StoreUse) (s : State) : (useDeep a size tenant u s).resets = s.resets := rfl
@[simp] theorem useDeep_pending (a size tenant : Nat) (u : StoreUse) (s : State) : (useDeep a size tenant u s).pending = s.pending := rfl

/-! ### `setSeq` changes `dir` alone -/

@[simp] theorem setSeq_bmk (slot : Nat) (q : Seq) (s : State) : (setSeq slot q s).bmk = s.bmk := rfl
@[simp] theorem setSeq_pwr (slot : Nat) (q : Seq) (s : State) : (setSeq slot q s).pwr = s.pwr := rfl
@[simp] theorem setSeq_cfg (slot : Nat) (q : Seq) (s : State) : (setSeq slot q s).cfg = s.cfg := rfl
@[simp] theorem setSeq_svc (slot : Nat) (q : Seq) (s : State) : (setSeq slot q s).svc = s.svc := rfl
@[simp] theorem setSeq_catchment (slot : Nat) (q : Seq) (s : State) : (setSeq slot q s).catchment = s.catchment := rfl
@[simp] theorem setSeq_log (slot : Nat) (q : Seq) (s : State) : (setSeq slot q s).log = s.log := rfl
@[simp] theorem setSeq_cnt (slot : Nat) (q : Seq) (s : State) : (setSeq slot q s).cnt = s.cnt := rfl
@[simp] theorem setSeq_barrier (slot : Nat) (q : Seq) (s : State) : (setSeq slot q s).barrier = s.barrier := rfl
@[simp] theorem setSeq_rgn (slot : Nat) (q : Seq) (s : State) : (setSeq slot q s).rgn = s.rgn := rfl
@[simp] theorem setSeq_pair (slot : Nat) (q : Seq) (s : State) : (setSeq slot q s).pair = s.pair := rfl
@[simp] theorem setSeq_blk (slot : Nat) (q : Seq) (s : State) : (setSeq slot q s).blk = s.blk := rfl
@[simp] theorem setSeq_cap (slot : Nat) (q : Seq) (s : State) : (setSeq slot q s).cap = s.cap := rfl
@[simp] theorem setSeq_tier (slot : Nat) (q : Seq) (s : State) : (setSeq slot q s).tier = s.tier := rfl
@[simp] theorem setSeq_node (slot : Nat) (q : Seq) (s : State) : (setSeq slot q s).node = s.node := rfl
@[simp] theorem setSeq_ctl (slot : Nat) (q : Seq) (s : State) : (setSeq slot q s).ctl = s.ctl := rfl
@[simp] theorem setSeq_jtag (slot : Nat) (q : Seq) (s : State) : (setSeq slot q s).jtag = s.jtag := rfl
@[simp] theorem setSeq_fuse (slot : Nat) (q : Seq) (s : State) : (setSeq slot q s).fuse = s.fuse := rfl
@[simp] theorem setSeq_mem (slot : Nat) (q : Seq) (s : State) : (setSeq slot q s).mem = s.mem := rfl
@[simp] theorem setSeq_sto (slot : Nat) (q : Seq) (s : State) : (setSeq slot q s).sto = s.sto := rfl
@[simp] theorem setSeq_tlb (slot : Nat) (q : Seq) (s : State) : (setSeq slot q s).tlb = s.tlb := rfl
@[simp] theorem setSeq_chan (slot : Nat) (q : Seq) (s : State) : (setSeq slot q s).chan = s.chan := rfl
@[simp] theorem setSeq_work (slot : Nat) (q : Seq) (s : State) : (setSeq slot q s).work = s.work := rfl
@[simp] theorem setSeq_prog (slot : Nat) (q : Seq) (s : State) : (setSeq slot q s).prog = s.prog := rfl
@[simp] theorem setSeq_installs (slot : Nat) (q : Seq) (s : State) : (setSeq slot q s).installs = s.installs := rfl
@[simp] theorem setSeq_req (slot : Nat) (q : Seq) (s : State) : (setSeq slot q s).req = s.req := rfl
@[simp] theorem setSeq_nextReq (slot : Nat) (q : Seq) (s : State) : (setSeq slot q s).nextReq = s.nextReq := rfl
@[simp] theorem setSeq_readLog (slot : Nat) (q : Seq) (s : State) : (setSeq slot q s).readLog = s.readLog := rfl
@[simp] theorem setSeq_key (slot : Nat) (q : Seq) (s : State) : (setSeq slot q s).key = s.key := rfl
@[simp] theorem setSeq_jx (slot : Nat) (q : Seq) (s : State) : (setSeq slot q s).jx = s.jx := rfl
@[simp] theorem setSeq_slu (slot : Nat) (q : Seq) (s : State) : (setSeq slot q s).slu = s.slu := rfl
@[simp] theorem setSeq_traffic (slot : Nat) (q : Seq) (s : State) : (setSeq slot q s).traffic = s.traffic := rfl
@[simp] theorem setSeq_datum (slot : Nat) (q : Seq) (s : State) : (setSeq slot q s).datum = s.datum := rfl
@[simp] theorem setSeq_sec (slot : Nat) (q : Seq) (s : State) : (setSeq slot q s).sec = s.sec := rfl
@[simp] theorem setSeq_dma (slot : Nat) (q : Seq) (s : State) : (setSeq slot q s).dma = s.dma := rfl
@[simp] theorem setSeq_saved (slot : Nat) (q : Seq) (s : State) : (setSeq slot q s).saved = s.saved := rfl
@[simp] theorem setSeq_free (slot : Nat) (q : Seq) (s : State) : (setSeq slot q s).free = s.free := rfl
@[simp] theorem setSeq_resets (slot : Nat) (q : Seq) (s : State) : (setSeq slot q s).resets = s.resets := rfl
@[simp] theorem setSeq_pending (slot : Nat) (q : Seq) (s : State) : (setSeq slot q s).pending = s.pending := rfl

/-! ### `setEntry` changes `mem` alone -/

@[simp] theorem setEntry_bmk (a v : Nat) (s : State) : (setEntry a v s).bmk = s.bmk := rfl
@[simp] theorem setEntry_pwr (a v : Nat) (s : State) : (setEntry a v s).pwr = s.pwr := rfl
@[simp] theorem setEntry_cfg (a v : Nat) (s : State) : (setEntry a v s).cfg = s.cfg := rfl
@[simp] theorem setEntry_svc (a v : Nat) (s : State) : (setEntry a v s).svc = s.svc := rfl
@[simp] theorem setEntry_catchment (a v : Nat) (s : State) : (setEntry a v s).catchment = s.catchment := rfl
@[simp] theorem setEntry_log (a v : Nat) (s : State) : (setEntry a v s).log = s.log := rfl
@[simp] theorem setEntry_cnt (a v : Nat) (s : State) : (setEntry a v s).cnt = s.cnt := rfl
@[simp] theorem setEntry_barrier (a v : Nat) (s : State) : (setEntry a v s).barrier = s.barrier := rfl
@[simp] theorem setEntry_rgn (a v : Nat) (s : State) : (setEntry a v s).rgn = s.rgn := rfl
@[simp] theorem setEntry_pair (a v : Nat) (s : State) : (setEntry a v s).pair = s.pair := rfl
@[simp] theorem setEntry_blk (a v : Nat) (s : State) : (setEntry a v s).blk = s.blk := rfl
@[simp] theorem setEntry_cap (a v : Nat) (s : State) : (setEntry a v s).cap = s.cap := rfl
@[simp] theorem setEntry_tier (a v : Nat) (s : State) : (setEntry a v s).tier = s.tier := rfl
@[simp] theorem setEntry_node (a v : Nat) (s : State) : (setEntry a v s).node = s.node := rfl
@[simp] theorem setEntry_ctl (a v : Nat) (s : State) : (setEntry a v s).ctl = s.ctl := rfl
@[simp] theorem setEntry_jtag (a v : Nat) (s : State) : (setEntry a v s).jtag = s.jtag := rfl
@[simp] theorem setEntry_fuse (a v : Nat) (s : State) : (setEntry a v s).fuse = s.fuse := rfl
@[simp] theorem setEntry_sto (a v : Nat) (s : State) : (setEntry a v s).sto = s.sto := rfl
@[simp] theorem setEntry_dir (a v : Nat) (s : State) : (setEntry a v s).dir = s.dir := rfl
@[simp] theorem setEntry_tlb (a v : Nat) (s : State) : (setEntry a v s).tlb = s.tlb := rfl
@[simp] theorem setEntry_chan (a v : Nat) (s : State) : (setEntry a v s).chan = s.chan := rfl
@[simp] theorem setEntry_work (a v : Nat) (s : State) : (setEntry a v s).work = s.work := rfl
@[simp] theorem setEntry_prog (a v : Nat) (s : State) : (setEntry a v s).prog = s.prog := rfl
@[simp] theorem setEntry_installs (a v : Nat) (s : State) : (setEntry a v s).installs = s.installs := rfl
@[simp] theorem setEntry_req (a v : Nat) (s : State) : (setEntry a v s).req = s.req := rfl
@[simp] theorem setEntry_nextReq (a v : Nat) (s : State) : (setEntry a v s).nextReq = s.nextReq := rfl
@[simp] theorem setEntry_readLog (a v : Nat) (s : State) : (setEntry a v s).readLog = s.readLog := rfl
@[simp] theorem setEntry_key (a v : Nat) (s : State) : (setEntry a v s).key = s.key := rfl
@[simp] theorem setEntry_jx (a v : Nat) (s : State) : (setEntry a v s).jx = s.jx := rfl
@[simp] theorem setEntry_slu (a v : Nat) (s : State) : (setEntry a v s).slu = s.slu := rfl
@[simp] theorem setEntry_traffic (a v : Nat) (s : State) : (setEntry a v s).traffic = s.traffic := rfl
@[simp] theorem setEntry_datum (a v : Nat) (s : State) : (setEntry a v s).datum = s.datum := rfl
@[simp] theorem setEntry_sec (a v : Nat) (s : State) : (setEntry a v s).sec = s.sec := rfl
@[simp] theorem setEntry_dma (a v : Nat) (s : State) : (setEntry a v s).dma = s.dma := rfl
@[simp] theorem setEntry_saved (a v : Nat) (s : State) : (setEntry a v s).saved = s.saved := rfl
@[simp] theorem setEntry_free (a v : Nat) (s : State) : (setEntry a v s).free = s.free := rfl
@[simp] theorem setEntry_resets (a v : Nat) (s : State) : (setEntry a v s).resets = s.resets := rfl
@[simp] theorem setEntry_pending (a v : Nat) (s : State) : (setEntry a v s).pending = s.pending := rfl

/-! ### `tlbDropPage` changes `tlb` alone -/

@[simp] theorem tlbDropPage_bmk (slot vpn : Nat) (s : State) : (tlbDropPage slot vpn s).bmk = s.bmk := rfl
@[simp] theorem tlbDropPage_pwr (slot vpn : Nat) (s : State) : (tlbDropPage slot vpn s).pwr = s.pwr := rfl
@[simp] theorem tlbDropPage_cfg (slot vpn : Nat) (s : State) : (tlbDropPage slot vpn s).cfg = s.cfg := rfl
@[simp] theorem tlbDropPage_svc (slot vpn : Nat) (s : State) : (tlbDropPage slot vpn s).svc = s.svc := rfl
@[simp] theorem tlbDropPage_catchment (slot vpn : Nat) (s : State) : (tlbDropPage slot vpn s).catchment = s.catchment := rfl
@[simp] theorem tlbDropPage_log (slot vpn : Nat) (s : State) : (tlbDropPage slot vpn s).log = s.log := rfl
@[simp] theorem tlbDropPage_cnt (slot vpn : Nat) (s : State) : (tlbDropPage slot vpn s).cnt = s.cnt := rfl
@[simp] theorem tlbDropPage_barrier (slot vpn : Nat) (s : State) : (tlbDropPage slot vpn s).barrier = s.barrier := rfl
@[simp] theorem tlbDropPage_rgn (slot vpn : Nat) (s : State) : (tlbDropPage slot vpn s).rgn = s.rgn := rfl
@[simp] theorem tlbDropPage_pair (slot vpn : Nat) (s : State) : (tlbDropPage slot vpn s).pair = s.pair := rfl
@[simp] theorem tlbDropPage_blk (slot vpn : Nat) (s : State) : (tlbDropPage slot vpn s).blk = s.blk := rfl
@[simp] theorem tlbDropPage_cap (slot vpn : Nat) (s : State) : (tlbDropPage slot vpn s).cap = s.cap := rfl
@[simp] theorem tlbDropPage_tier (slot vpn : Nat) (s : State) : (tlbDropPage slot vpn s).tier = s.tier := rfl
@[simp] theorem tlbDropPage_node (slot vpn : Nat) (s : State) : (tlbDropPage slot vpn s).node = s.node := rfl
@[simp] theorem tlbDropPage_ctl (slot vpn : Nat) (s : State) : (tlbDropPage slot vpn s).ctl = s.ctl := rfl
@[simp] theorem tlbDropPage_jtag (slot vpn : Nat) (s : State) : (tlbDropPage slot vpn s).jtag = s.jtag := rfl
@[simp] theorem tlbDropPage_fuse (slot vpn : Nat) (s : State) : (tlbDropPage slot vpn s).fuse = s.fuse := rfl
@[simp] theorem tlbDropPage_mem (slot vpn : Nat) (s : State) : (tlbDropPage slot vpn s).mem = s.mem := rfl
@[simp] theorem tlbDropPage_sto (slot vpn : Nat) (s : State) : (tlbDropPage slot vpn s).sto = s.sto := rfl
@[simp] theorem tlbDropPage_dir (slot vpn : Nat) (s : State) : (tlbDropPage slot vpn s).dir = s.dir := rfl
@[simp] theorem tlbDropPage_chan (slot vpn : Nat) (s : State) : (tlbDropPage slot vpn s).chan = s.chan := rfl
@[simp] theorem tlbDropPage_work (slot vpn : Nat) (s : State) : (tlbDropPage slot vpn s).work = s.work := rfl
@[simp] theorem tlbDropPage_prog (slot vpn : Nat) (s : State) : (tlbDropPage slot vpn s).prog = s.prog := rfl
@[simp] theorem tlbDropPage_installs (slot vpn : Nat) (s : State) : (tlbDropPage slot vpn s).installs = s.installs := rfl
@[simp] theorem tlbDropPage_req (slot vpn : Nat) (s : State) : (tlbDropPage slot vpn s).req = s.req := rfl
@[simp] theorem tlbDropPage_nextReq (slot vpn : Nat) (s : State) : (tlbDropPage slot vpn s).nextReq = s.nextReq := rfl
@[simp] theorem tlbDropPage_readLog (slot vpn : Nat) (s : State) : (tlbDropPage slot vpn s).readLog = s.readLog := rfl
@[simp] theorem tlbDropPage_key (slot vpn : Nat) (s : State) : (tlbDropPage slot vpn s).key = s.key := rfl
@[simp] theorem tlbDropPage_jx (slot vpn : Nat) (s : State) : (tlbDropPage slot vpn s).jx = s.jx := rfl
@[simp] theorem tlbDropPage_slu (slot vpn : Nat) (s : State) : (tlbDropPage slot vpn s).slu = s.slu := rfl
@[simp] theorem tlbDropPage_traffic (slot vpn : Nat) (s : State) : (tlbDropPage slot vpn s).traffic = s.traffic := rfl
@[simp] theorem tlbDropPage_datum (slot vpn : Nat) (s : State) : (tlbDropPage slot vpn s).datum = s.datum := rfl
@[simp] theorem tlbDropPage_sec (slot vpn : Nat) (s : State) : (tlbDropPage slot vpn s).sec = s.sec := rfl
@[simp] theorem tlbDropPage_dma (slot vpn : Nat) (s : State) : (tlbDropPage slot vpn s).dma = s.dma := rfl
@[simp] theorem tlbDropPage_saved (slot vpn : Nat) (s : State) : (tlbDropPage slot vpn s).saved = s.saved := rfl
@[simp] theorem tlbDropPage_free (slot vpn : Nat) (s : State) : (tlbDropPage slot vpn s).free = s.free := rfl
@[simp] theorem tlbDropPage_resets (slot vpn : Nat) (s : State) : (tlbDropPage slot vpn s).resets = s.resets := rfl
@[simp] theorem tlbDropPage_pending (slot vpn : Nat) (s : State) : (tlbDropPage slot vpn s).pending = s.pending := rfl

/-! ### `tlbDropSlot` changes `tlb` alone -/

@[simp] theorem tlbDropSlot_bmk (slot : Nat) (s : State) : (tlbDropSlot slot s).bmk = s.bmk := rfl
@[simp] theorem tlbDropSlot_pwr (slot : Nat) (s : State) : (tlbDropSlot slot s).pwr = s.pwr := rfl
@[simp] theorem tlbDropSlot_cfg (slot : Nat) (s : State) : (tlbDropSlot slot s).cfg = s.cfg := rfl
@[simp] theorem tlbDropSlot_svc (slot : Nat) (s : State) : (tlbDropSlot slot s).svc = s.svc := rfl
@[simp] theorem tlbDropSlot_catchment (slot : Nat) (s : State) : (tlbDropSlot slot s).catchment = s.catchment := rfl
@[simp] theorem tlbDropSlot_log (slot : Nat) (s : State) : (tlbDropSlot slot s).log = s.log := rfl
@[simp] theorem tlbDropSlot_cnt (slot : Nat) (s : State) : (tlbDropSlot slot s).cnt = s.cnt := rfl
@[simp] theorem tlbDropSlot_barrier (slot : Nat) (s : State) : (tlbDropSlot slot s).barrier = s.barrier := rfl
@[simp] theorem tlbDropSlot_rgn (slot : Nat) (s : State) : (tlbDropSlot slot s).rgn = s.rgn := rfl
@[simp] theorem tlbDropSlot_pair (slot : Nat) (s : State) : (tlbDropSlot slot s).pair = s.pair := rfl
@[simp] theorem tlbDropSlot_blk (slot : Nat) (s : State) : (tlbDropSlot slot s).blk = s.blk := rfl
@[simp] theorem tlbDropSlot_cap (slot : Nat) (s : State) : (tlbDropSlot slot s).cap = s.cap := rfl
@[simp] theorem tlbDropSlot_tier (slot : Nat) (s : State) : (tlbDropSlot slot s).tier = s.tier := rfl
@[simp] theorem tlbDropSlot_node (slot : Nat) (s : State) : (tlbDropSlot slot s).node = s.node := rfl
@[simp] theorem tlbDropSlot_ctl (slot : Nat) (s : State) : (tlbDropSlot slot s).ctl = s.ctl := rfl
@[simp] theorem tlbDropSlot_jtag (slot : Nat) (s : State) : (tlbDropSlot slot s).jtag = s.jtag := rfl
@[simp] theorem tlbDropSlot_fuse (slot : Nat) (s : State) : (tlbDropSlot slot s).fuse = s.fuse := rfl
@[simp] theorem tlbDropSlot_mem (slot : Nat) (s : State) : (tlbDropSlot slot s).mem = s.mem := rfl
@[simp] theorem tlbDropSlot_sto (slot : Nat) (s : State) : (tlbDropSlot slot s).sto = s.sto := rfl
@[simp] theorem tlbDropSlot_dir (slot : Nat) (s : State) : (tlbDropSlot slot s).dir = s.dir := rfl
@[simp] theorem tlbDropSlot_chan (slot : Nat) (s : State) : (tlbDropSlot slot s).chan = s.chan := rfl
@[simp] theorem tlbDropSlot_work (slot : Nat) (s : State) : (tlbDropSlot slot s).work = s.work := rfl
@[simp] theorem tlbDropSlot_prog (slot : Nat) (s : State) : (tlbDropSlot slot s).prog = s.prog := rfl
@[simp] theorem tlbDropSlot_installs (slot : Nat) (s : State) : (tlbDropSlot slot s).installs = s.installs := rfl
@[simp] theorem tlbDropSlot_req (slot : Nat) (s : State) : (tlbDropSlot slot s).req = s.req := rfl
@[simp] theorem tlbDropSlot_nextReq (slot : Nat) (s : State) : (tlbDropSlot slot s).nextReq = s.nextReq := rfl
@[simp] theorem tlbDropSlot_readLog (slot : Nat) (s : State) : (tlbDropSlot slot s).readLog = s.readLog := rfl
@[simp] theorem tlbDropSlot_key (slot : Nat) (s : State) : (tlbDropSlot slot s).key = s.key := rfl
@[simp] theorem tlbDropSlot_jx (slot : Nat) (s : State) : (tlbDropSlot slot s).jx = s.jx := rfl
@[simp] theorem tlbDropSlot_slu (slot : Nat) (s : State) : (tlbDropSlot slot s).slu = s.slu := rfl
@[simp] theorem tlbDropSlot_traffic (slot : Nat) (s : State) : (tlbDropSlot slot s).traffic = s.traffic := rfl
@[simp] theorem tlbDropSlot_datum (slot : Nat) (s : State) : (tlbDropSlot slot s).datum = s.datum := rfl
@[simp] theorem tlbDropSlot_sec (slot : Nat) (s : State) : (tlbDropSlot slot s).sec = s.sec := rfl
@[simp] theorem tlbDropSlot_dma (slot : Nat) (s : State) : (tlbDropSlot slot s).dma = s.dma := rfl
@[simp] theorem tlbDropSlot_saved (slot : Nat) (s : State) : (tlbDropSlot slot s).saved = s.saved := rfl
@[simp] theorem tlbDropSlot_free (slot : Nat) (s : State) : (tlbDropSlot slot s).free = s.free := rfl
@[simp] theorem tlbDropSlot_resets (slot : Nat) (s : State) : (tlbDropSlot slot s).resets = s.resets := rfl
@[simp] theorem tlbDropSlot_pending (slot : Nat) (s : State) : (tlbDropSlot slot s).pending = s.pending := rfl

/-! ### `writeFast` changes `mem` alone -/

@[simp] theorem writeFast_bmk (a : Nat) (bs : Bytes) (s : State) : (writeFast a bs s).bmk = s.bmk := rfl
@[simp] theorem writeFast_pwr (a : Nat) (bs : Bytes) (s : State) : (writeFast a bs s).pwr = s.pwr := rfl
@[simp] theorem writeFast_cfg (a : Nat) (bs : Bytes) (s : State) : (writeFast a bs s).cfg = s.cfg := rfl
@[simp] theorem writeFast_svc (a : Nat) (bs : Bytes) (s : State) : (writeFast a bs s).svc = s.svc := rfl
@[simp] theorem writeFast_catchment (a : Nat) (bs : Bytes) (s : State) : (writeFast a bs s).catchment = s.catchment := rfl
@[simp] theorem writeFast_log (a : Nat) (bs : Bytes) (s : State) : (writeFast a bs s).log = s.log := rfl
@[simp] theorem writeFast_cnt (a : Nat) (bs : Bytes) (s : State) : (writeFast a bs s).cnt = s.cnt := rfl
@[simp] theorem writeFast_barrier (a : Nat) (bs : Bytes) (s : State) : (writeFast a bs s).barrier = s.barrier := rfl
@[simp] theorem writeFast_rgn (a : Nat) (bs : Bytes) (s : State) : (writeFast a bs s).rgn = s.rgn := rfl
@[simp] theorem writeFast_pair (a : Nat) (bs : Bytes) (s : State) : (writeFast a bs s).pair = s.pair := rfl
@[simp] theorem writeFast_blk (a : Nat) (bs : Bytes) (s : State) : (writeFast a bs s).blk = s.blk := rfl
@[simp] theorem writeFast_cap (a : Nat) (bs : Bytes) (s : State) : (writeFast a bs s).cap = s.cap := rfl
@[simp] theorem writeFast_tier (a : Nat) (bs : Bytes) (s : State) : (writeFast a bs s).tier = s.tier := rfl
@[simp] theorem writeFast_node (a : Nat) (bs : Bytes) (s : State) : (writeFast a bs s).node = s.node := rfl
@[simp] theorem writeFast_ctl (a : Nat) (bs : Bytes) (s : State) : (writeFast a bs s).ctl = s.ctl := rfl
@[simp] theorem writeFast_jtag (a : Nat) (bs : Bytes) (s : State) : (writeFast a bs s).jtag = s.jtag := rfl
@[simp] theorem writeFast_fuse (a : Nat) (bs : Bytes) (s : State) : (writeFast a bs s).fuse = s.fuse := rfl
@[simp] theorem writeFast_sto (a : Nat) (bs : Bytes) (s : State) : (writeFast a bs s).sto = s.sto := rfl
@[simp] theorem writeFast_dir (a : Nat) (bs : Bytes) (s : State) : (writeFast a bs s).dir = s.dir := rfl
@[simp] theorem writeFast_tlb (a : Nat) (bs : Bytes) (s : State) : (writeFast a bs s).tlb = s.tlb := rfl
@[simp] theorem writeFast_chan (a : Nat) (bs : Bytes) (s : State) : (writeFast a bs s).chan = s.chan := rfl
@[simp] theorem writeFast_work (a : Nat) (bs : Bytes) (s : State) : (writeFast a bs s).work = s.work := rfl
@[simp] theorem writeFast_prog (a : Nat) (bs : Bytes) (s : State) : (writeFast a bs s).prog = s.prog := rfl
@[simp] theorem writeFast_installs (a : Nat) (bs : Bytes) (s : State) : (writeFast a bs s).installs = s.installs := rfl
@[simp] theorem writeFast_req (a : Nat) (bs : Bytes) (s : State) : (writeFast a bs s).req = s.req := rfl
@[simp] theorem writeFast_nextReq (a : Nat) (bs : Bytes) (s : State) : (writeFast a bs s).nextReq = s.nextReq := rfl
@[simp] theorem writeFast_readLog (a : Nat) (bs : Bytes) (s : State) : (writeFast a bs s).readLog = s.readLog := rfl
@[simp] theorem writeFast_key (a : Nat) (bs : Bytes) (s : State) : (writeFast a bs s).key = s.key := rfl
@[simp] theorem writeFast_jx (a : Nat) (bs : Bytes) (s : State) : (writeFast a bs s).jx = s.jx := rfl
@[simp] theorem writeFast_slu (a : Nat) (bs : Bytes) (s : State) : (writeFast a bs s).slu = s.slu := rfl
@[simp] theorem writeFast_traffic (a : Nat) (bs : Bytes) (s : State) : (writeFast a bs s).traffic = s.traffic := rfl
@[simp] theorem writeFast_datum (a : Nat) (bs : Bytes) (s : State) : (writeFast a bs s).datum = s.datum := rfl
@[simp] theorem writeFast_sec (a : Nat) (bs : Bytes) (s : State) : (writeFast a bs s).sec = s.sec := rfl
@[simp] theorem writeFast_dma (a : Nat) (bs : Bytes) (s : State) : (writeFast a bs s).dma = s.dma := rfl
@[simp] theorem writeFast_saved (a : Nat) (bs : Bytes) (s : State) : (writeFast a bs s).saved = s.saved := rfl
@[simp] theorem writeFast_free (a : Nat) (bs : Bytes) (s : State) : (writeFast a bs s).free = s.free := rfl
@[simp] theorem writeFast_resets (a : Nat) (bs : Bytes) (s : State) : (writeFast a bs s).resets = s.resets := rfl
@[simp] theorem writeFast_pending (a : Nat) (bs : Bytes) (s : State) : (writeFast a bs s).pending = s.pending := rfl

/-! ### `writeDeep` changes `mem` alone -/

@[simp] theorem writeDeep_bmk (a : Nat) (bs : Bytes) (s : State) : (writeDeep a bs s).bmk = s.bmk := rfl
@[simp] theorem writeDeep_pwr (a : Nat) (bs : Bytes) (s : State) : (writeDeep a bs s).pwr = s.pwr := rfl
@[simp] theorem writeDeep_cfg (a : Nat) (bs : Bytes) (s : State) : (writeDeep a bs s).cfg = s.cfg := rfl
@[simp] theorem writeDeep_svc (a : Nat) (bs : Bytes) (s : State) : (writeDeep a bs s).svc = s.svc := rfl
@[simp] theorem writeDeep_catchment (a : Nat) (bs : Bytes) (s : State) : (writeDeep a bs s).catchment = s.catchment := rfl
@[simp] theorem writeDeep_log (a : Nat) (bs : Bytes) (s : State) : (writeDeep a bs s).log = s.log := rfl
@[simp] theorem writeDeep_cnt (a : Nat) (bs : Bytes) (s : State) : (writeDeep a bs s).cnt = s.cnt := rfl
@[simp] theorem writeDeep_barrier (a : Nat) (bs : Bytes) (s : State) : (writeDeep a bs s).barrier = s.barrier := rfl
@[simp] theorem writeDeep_rgn (a : Nat) (bs : Bytes) (s : State) : (writeDeep a bs s).rgn = s.rgn := rfl
@[simp] theorem writeDeep_pair (a : Nat) (bs : Bytes) (s : State) : (writeDeep a bs s).pair = s.pair := rfl
@[simp] theorem writeDeep_blk (a : Nat) (bs : Bytes) (s : State) : (writeDeep a bs s).blk = s.blk := rfl
@[simp] theorem writeDeep_cap (a : Nat) (bs : Bytes) (s : State) : (writeDeep a bs s).cap = s.cap := rfl
@[simp] theorem writeDeep_tier (a : Nat) (bs : Bytes) (s : State) : (writeDeep a bs s).tier = s.tier := rfl
@[simp] theorem writeDeep_node (a : Nat) (bs : Bytes) (s : State) : (writeDeep a bs s).node = s.node := rfl
@[simp] theorem writeDeep_ctl (a : Nat) (bs : Bytes) (s : State) : (writeDeep a bs s).ctl = s.ctl := rfl
@[simp] theorem writeDeep_jtag (a : Nat) (bs : Bytes) (s : State) : (writeDeep a bs s).jtag = s.jtag := rfl
@[simp] theorem writeDeep_fuse (a : Nat) (bs : Bytes) (s : State) : (writeDeep a bs s).fuse = s.fuse := rfl
@[simp] theorem writeDeep_sto (a : Nat) (bs : Bytes) (s : State) : (writeDeep a bs s).sto = s.sto := rfl
@[simp] theorem writeDeep_dir (a : Nat) (bs : Bytes) (s : State) : (writeDeep a bs s).dir = s.dir := rfl
@[simp] theorem writeDeep_tlb (a : Nat) (bs : Bytes) (s : State) : (writeDeep a bs s).tlb = s.tlb := rfl
@[simp] theorem writeDeep_chan (a : Nat) (bs : Bytes) (s : State) : (writeDeep a bs s).chan = s.chan := rfl
@[simp] theorem writeDeep_work (a : Nat) (bs : Bytes) (s : State) : (writeDeep a bs s).work = s.work := rfl
@[simp] theorem writeDeep_prog (a : Nat) (bs : Bytes) (s : State) : (writeDeep a bs s).prog = s.prog := rfl
@[simp] theorem writeDeep_installs (a : Nat) (bs : Bytes) (s : State) : (writeDeep a bs s).installs = s.installs := rfl
@[simp] theorem writeDeep_req (a : Nat) (bs : Bytes) (s : State) : (writeDeep a bs s).req = s.req := rfl
@[simp] theorem writeDeep_nextReq (a : Nat) (bs : Bytes) (s : State) : (writeDeep a bs s).nextReq = s.nextReq := rfl
@[simp] theorem writeDeep_readLog (a : Nat) (bs : Bytes) (s : State) : (writeDeep a bs s).readLog = s.readLog := rfl
@[simp] theorem writeDeep_key (a : Nat) (bs : Bytes) (s : State) : (writeDeep a bs s).key = s.key := rfl
@[simp] theorem writeDeep_jx (a : Nat) (bs : Bytes) (s : State) : (writeDeep a bs s).jx = s.jx := rfl
@[simp] theorem writeDeep_slu (a : Nat) (bs : Bytes) (s : State) : (writeDeep a bs s).slu = s.slu := rfl
@[simp] theorem writeDeep_traffic (a : Nat) (bs : Bytes) (s : State) : (writeDeep a bs s).traffic = s.traffic := rfl
@[simp] theorem writeDeep_datum (a : Nat) (bs : Bytes) (s : State) : (writeDeep a bs s).datum = s.datum := rfl
@[simp] theorem writeDeep_sec (a : Nat) (bs : Bytes) (s : State) : (writeDeep a bs s).sec = s.sec := rfl
@[simp] theorem writeDeep_dma (a : Nat) (bs : Bytes) (s : State) : (writeDeep a bs s).dma = s.dma := rfl
@[simp] theorem writeDeep_saved (a : Nat) (bs : Bytes) (s : State) : (writeDeep a bs s).saved = s.saved := rfl
@[simp] theorem writeDeep_free (a : Nat) (bs : Bytes) (s : State) : (writeDeep a bs s).free = s.free := rfl
@[simp] theorem writeDeep_resets (a : Nat) (bs : Bytes) (s : State) : (writeDeep a bs s).resets = s.resets := rfl
@[simp] theorem writeDeep_pending (a : Nat) (bs : Bytes) (s : State) : (writeDeep a bs s).pending = s.pending := rfl

/-! ### `setKey` changes `key` alone -/

@[simp] theorem setKey_bmk (k : Nat) (x : KeySlot) (s : State) : (setKey k x s).bmk = s.bmk := rfl
@[simp] theorem setKey_pwr (k : Nat) (x : KeySlot) (s : State) : (setKey k x s).pwr = s.pwr := rfl
@[simp] theorem setKey_cfg (k : Nat) (x : KeySlot) (s : State) : (setKey k x s).cfg = s.cfg := rfl
@[simp] theorem setKey_svc (k : Nat) (x : KeySlot) (s : State) : (setKey k x s).svc = s.svc := rfl
@[simp] theorem setKey_catchment (k : Nat) (x : KeySlot) (s : State) : (setKey k x s).catchment = s.catchment := rfl
@[simp] theorem setKey_log (k : Nat) (x : KeySlot) (s : State) : (setKey k x s).log = s.log := rfl
@[simp] theorem setKey_cnt (k : Nat) (x : KeySlot) (s : State) : (setKey k x s).cnt = s.cnt := rfl
@[simp] theorem setKey_barrier (k : Nat) (x : KeySlot) (s : State) : (setKey k x s).barrier = s.barrier := rfl
@[simp] theorem setKey_rgn (k : Nat) (x : KeySlot) (s : State) : (setKey k x s).rgn = s.rgn := rfl
@[simp] theorem setKey_pair (k : Nat) (x : KeySlot) (s : State) : (setKey k x s).pair = s.pair := rfl
@[simp] theorem setKey_blk (k : Nat) (x : KeySlot) (s : State) : (setKey k x s).blk = s.blk := rfl
@[simp] theorem setKey_cap (k : Nat) (x : KeySlot) (s : State) : (setKey k x s).cap = s.cap := rfl
@[simp] theorem setKey_tier (k : Nat) (x : KeySlot) (s : State) : (setKey k x s).tier = s.tier := rfl
@[simp] theorem setKey_node (k : Nat) (x : KeySlot) (s : State) : (setKey k x s).node = s.node := rfl
@[simp] theorem setKey_ctl (k : Nat) (x : KeySlot) (s : State) : (setKey k x s).ctl = s.ctl := rfl
@[simp] theorem setKey_jtag (k : Nat) (x : KeySlot) (s : State) : (setKey k x s).jtag = s.jtag := rfl
@[simp] theorem setKey_fuse (k : Nat) (x : KeySlot) (s : State) : (setKey k x s).fuse = s.fuse := rfl
@[simp] theorem setKey_mem (k : Nat) (x : KeySlot) (s : State) : (setKey k x s).mem = s.mem := rfl
@[simp] theorem setKey_sto (k : Nat) (x : KeySlot) (s : State) : (setKey k x s).sto = s.sto := rfl
@[simp] theorem setKey_dir (k : Nat) (x : KeySlot) (s : State) : (setKey k x s).dir = s.dir := rfl
@[simp] theorem setKey_tlb (k : Nat) (x : KeySlot) (s : State) : (setKey k x s).tlb = s.tlb := rfl
@[simp] theorem setKey_chan (k : Nat) (x : KeySlot) (s : State) : (setKey k x s).chan = s.chan := rfl
@[simp] theorem setKey_work (k : Nat) (x : KeySlot) (s : State) : (setKey k x s).work = s.work := rfl
@[simp] theorem setKey_prog (k : Nat) (x : KeySlot) (s : State) : (setKey k x s).prog = s.prog := rfl
@[simp] theorem setKey_installs (k : Nat) (x : KeySlot) (s : State) : (setKey k x s).installs = s.installs := rfl
@[simp] theorem setKey_req (k : Nat) (x : KeySlot) (s : State) : (setKey k x s).req = s.req := rfl
@[simp] theorem setKey_nextReq (k : Nat) (x : KeySlot) (s : State) : (setKey k x s).nextReq = s.nextReq := rfl
@[simp] theorem setKey_readLog (k : Nat) (x : KeySlot) (s : State) : (setKey k x s).readLog = s.readLog := rfl
@[simp] theorem setKey_jx (k : Nat) (x : KeySlot) (s : State) : (setKey k x s).jx = s.jx := rfl
@[simp] theorem setKey_slu (k : Nat) (x : KeySlot) (s : State) : (setKey k x s).slu = s.slu := rfl
@[simp] theorem setKey_traffic (k : Nat) (x : KeySlot) (s : State) : (setKey k x s).traffic = s.traffic := rfl
@[simp] theorem setKey_datum (k : Nat) (x : KeySlot) (s : State) : (setKey k x s).datum = s.datum := rfl
@[simp] theorem setKey_sec (k : Nat) (x : KeySlot) (s : State) : (setKey k x s).sec = s.sec := rfl
@[simp] theorem setKey_dma (k : Nat) (x : KeySlot) (s : State) : (setKey k x s).dma = s.dma := rfl
@[simp] theorem setKey_saved (k : Nat) (x : KeySlot) (s : State) : (setKey k x s).saved = s.saved := rfl
@[simp] theorem setKey_free (k : Nat) (x : KeySlot) (s : State) : (setKey k x s).free = s.free := rfl
@[simp] theorem setKey_resets (k : Nat) (x : KeySlot) (s : State) : (setKey k x s).resets = s.resets := rfl
@[simp] theorem setKey_pending (k : Nat) (x : KeySlot) (s : State) : (setKey k x s).pending = s.pending := rfl

/-! ### `setTier` changes `tier` alone -/

@[simp] theorem setTier_bmk (p : Nat) (t : Tier) (s : State) : (setTier p t s).bmk = s.bmk := rfl
@[simp] theorem setTier_pwr (p : Nat) (t : Tier) (s : State) : (setTier p t s).pwr = s.pwr := rfl
@[simp] theorem setTier_cfg (p : Nat) (t : Tier) (s : State) : (setTier p t s).cfg = s.cfg := rfl
@[simp] theorem setTier_svc (p : Nat) (t : Tier) (s : State) : (setTier p t s).svc = s.svc := rfl
@[simp] theorem setTier_catchment (p : Nat) (t : Tier) (s : State) : (setTier p t s).catchment = s.catchment := rfl
@[simp] theorem setTier_log (p : Nat) (t : Tier) (s : State) : (setTier p t s).log = s.log := rfl
@[simp] theorem setTier_cnt (p : Nat) (t : Tier) (s : State) : (setTier p t s).cnt = s.cnt := rfl
@[simp] theorem setTier_barrier (p : Nat) (t : Tier) (s : State) : (setTier p t s).barrier = s.barrier := rfl
@[simp] theorem setTier_rgn (p : Nat) (t : Tier) (s : State) : (setTier p t s).rgn = s.rgn := rfl
@[simp] theorem setTier_pair (p : Nat) (t : Tier) (s : State) : (setTier p t s).pair = s.pair := rfl
@[simp] theorem setTier_blk (p : Nat) (t : Tier) (s : State) : (setTier p t s).blk = s.blk := rfl
@[simp] theorem setTier_cap (p : Nat) (t : Tier) (s : State) : (setTier p t s).cap = s.cap := rfl
@[simp] theorem setTier_node (p : Nat) (t : Tier) (s : State) : (setTier p t s).node = s.node := rfl
@[simp] theorem setTier_ctl (p : Nat) (t : Tier) (s : State) : (setTier p t s).ctl = s.ctl := rfl
@[simp] theorem setTier_jtag (p : Nat) (t : Tier) (s : State) : (setTier p t s).jtag = s.jtag := rfl
@[simp] theorem setTier_fuse (p : Nat) (t : Tier) (s : State) : (setTier p t s).fuse = s.fuse := rfl
@[simp] theorem setTier_mem (p : Nat) (t : Tier) (s : State) : (setTier p t s).mem = s.mem := rfl
@[simp] theorem setTier_sto (p : Nat) (t : Tier) (s : State) : (setTier p t s).sto = s.sto := rfl
@[simp] theorem setTier_dir (p : Nat) (t : Tier) (s : State) : (setTier p t s).dir = s.dir := rfl
@[simp] theorem setTier_tlb (p : Nat) (t : Tier) (s : State) : (setTier p t s).tlb = s.tlb := rfl
@[simp] theorem setTier_chan (p : Nat) (t : Tier) (s : State) : (setTier p t s).chan = s.chan := rfl
@[simp] theorem setTier_work (p : Nat) (t : Tier) (s : State) : (setTier p t s).work = s.work := rfl
@[simp] theorem setTier_prog (p : Nat) (t : Tier) (s : State) : (setTier p t s).prog = s.prog := rfl
@[simp] theorem setTier_installs (p : Nat) (t : Tier) (s : State) : (setTier p t s).installs = s.installs := rfl
@[simp] theorem setTier_req (p : Nat) (t : Tier) (s : State) : (setTier p t s).req = s.req := rfl
@[simp] theorem setTier_nextReq (p : Nat) (t : Tier) (s : State) : (setTier p t s).nextReq = s.nextReq := rfl
@[simp] theorem setTier_readLog (p : Nat) (t : Tier) (s : State) : (setTier p t s).readLog = s.readLog := rfl
@[simp] theorem setTier_key (p : Nat) (t : Tier) (s : State) : (setTier p t s).key = s.key := rfl
@[simp] theorem setTier_jx (p : Nat) (t : Tier) (s : State) : (setTier p t s).jx = s.jx := rfl
@[simp] theorem setTier_slu (p : Nat) (t : Tier) (s : State) : (setTier p t s).slu = s.slu := rfl
@[simp] theorem setTier_traffic (p : Nat) (t : Tier) (s : State) : (setTier p t s).traffic = s.traffic := rfl
@[simp] theorem setTier_datum (p : Nat) (t : Tier) (s : State) : (setTier p t s).datum = s.datum := rfl
@[simp] theorem setTier_sec (p : Nat) (t : Tier) (s : State) : (setTier p t s).sec = s.sec := rfl
@[simp] theorem setTier_dma (p : Nat) (t : Tier) (s : State) : (setTier p t s).dma = s.dma := rfl
@[simp] theorem setTier_saved (p : Nat) (t : Tier) (s : State) : (setTier p t s).saved = s.saved := rfl
@[simp] theorem setTier_free (p : Nat) (t : Tier) (s : State) : (setTier p t s).free = s.free := rfl
@[simp] theorem setTier_resets (p : Nat) (t : Tier) (s : State) : (setTier p t s).resets = s.resets := rfl
@[simp] theorem setTier_pending (p : Nat) (t : Tier) (s : State) : (setTier p t s).pending = s.pending := rfl

/-! ### `drivePerst` changes `pwr` alone -/

@[simp] theorem drivePerst_bmk (p : Nat) (v : PinOut) (s : State) : (drivePerst p v s).bmk = s.bmk := rfl
@[simp] theorem drivePerst_cfg (p : Nat) (v : PinOut) (s : State) : (drivePerst p v s).cfg = s.cfg := rfl
@[simp] theorem drivePerst_svc (p : Nat) (v : PinOut) (s : State) : (drivePerst p v s).svc = s.svc := rfl
@[simp] theorem drivePerst_catchment (p : Nat) (v : PinOut) (s : State) : (drivePerst p v s).catchment = s.catchment := rfl
@[simp] theorem drivePerst_log (p : Nat) (v : PinOut) (s : State) : (drivePerst p v s).log = s.log := rfl
@[simp] theorem drivePerst_cnt (p : Nat) (v : PinOut) (s : State) : (drivePerst p v s).cnt = s.cnt := rfl
@[simp] theorem drivePerst_barrier (p : Nat) (v : PinOut) (s : State) : (drivePerst p v s).barrier = s.barrier := rfl
@[simp] theorem drivePerst_rgn (p : Nat) (v : PinOut) (s : State) : (drivePerst p v s).rgn = s.rgn := rfl
@[simp] theorem drivePerst_pair (p : Nat) (v : PinOut) (s : State) : (drivePerst p v s).pair = s.pair := rfl
@[simp] theorem drivePerst_blk (p : Nat) (v : PinOut) (s : State) : (drivePerst p v s).blk = s.blk := rfl
@[simp] theorem drivePerst_cap (p : Nat) (v : PinOut) (s : State) : (drivePerst p v s).cap = s.cap := rfl
@[simp] theorem drivePerst_tier (p : Nat) (v : PinOut) (s : State) : (drivePerst p v s).tier = s.tier := rfl
@[simp] theorem drivePerst_node (p : Nat) (v : PinOut) (s : State) : (drivePerst p v s).node = s.node := rfl
@[simp] theorem drivePerst_ctl (p : Nat) (v : PinOut) (s : State) : (drivePerst p v s).ctl = s.ctl := rfl
@[simp] theorem drivePerst_jtag (p : Nat) (v : PinOut) (s : State) : (drivePerst p v s).jtag = s.jtag := rfl
@[simp] theorem drivePerst_fuse (p : Nat) (v : PinOut) (s : State) : (drivePerst p v s).fuse = s.fuse := rfl
@[simp] theorem drivePerst_mem (p : Nat) (v : PinOut) (s : State) : (drivePerst p v s).mem = s.mem := rfl
@[simp] theorem drivePerst_sto (p : Nat) (v : PinOut) (s : State) : (drivePerst p v s).sto = s.sto := rfl
@[simp] theorem drivePerst_dir (p : Nat) (v : PinOut) (s : State) : (drivePerst p v s).dir = s.dir := rfl
@[simp] theorem drivePerst_tlb (p : Nat) (v : PinOut) (s : State) : (drivePerst p v s).tlb = s.tlb := rfl
@[simp] theorem drivePerst_chan (p : Nat) (v : PinOut) (s : State) : (drivePerst p v s).chan = s.chan := rfl
@[simp] theorem drivePerst_work (p : Nat) (v : PinOut) (s : State) : (drivePerst p v s).work = s.work := rfl
@[simp] theorem drivePerst_prog (p : Nat) (v : PinOut) (s : State) : (drivePerst p v s).prog = s.prog := rfl
@[simp] theorem drivePerst_installs (p : Nat) (v : PinOut) (s : State) : (drivePerst p v s).installs = s.installs := rfl
@[simp] theorem drivePerst_req (p : Nat) (v : PinOut) (s : State) : (drivePerst p v s).req = s.req := rfl
@[simp] theorem drivePerst_nextReq (p : Nat) (v : PinOut) (s : State) : (drivePerst p v s).nextReq = s.nextReq := rfl
@[simp] theorem drivePerst_readLog (p : Nat) (v : PinOut) (s : State) : (drivePerst p v s).readLog = s.readLog := rfl
@[simp] theorem drivePerst_key (p : Nat) (v : PinOut) (s : State) : (drivePerst p v s).key = s.key := rfl
@[simp] theorem drivePerst_jx (p : Nat) (v : PinOut) (s : State) : (drivePerst p v s).jx = s.jx := rfl
@[simp] theorem drivePerst_slu (p : Nat) (v : PinOut) (s : State) : (drivePerst p v s).slu = s.slu := rfl
@[simp] theorem drivePerst_traffic (p : Nat) (v : PinOut) (s : State) : (drivePerst p v s).traffic = s.traffic := rfl
@[simp] theorem drivePerst_datum (p : Nat) (v : PinOut) (s : State) : (drivePerst p v s).datum = s.datum := rfl
@[simp] theorem drivePerst_sec (p : Nat) (v : PinOut) (s : State) : (drivePerst p v s).sec = s.sec := rfl
@[simp] theorem drivePerst_dma (p : Nat) (v : PinOut) (s : State) : (drivePerst p v s).dma = s.dma := rfl
@[simp] theorem drivePerst_saved (p : Nat) (v : PinOut) (s : State) : (drivePerst p v s).saved = s.saved := rfl
@[simp] theorem drivePerst_free (p : Nat) (v : PinOut) (s : State) : (drivePerst p v s).free = s.free := rfl
@[simp] theorem drivePerst_resets (p : Nat) (v : PinOut) (s : State) : (drivePerst p v s).resets = s.resets := rfl
@[simp] theorem drivePerst_pending (p : Nat) (v : PinOut) (s : State) : (drivePerst p v s).pending = s.pending := rfl

/-! ### `startProgUse` changes `prog` alone -/

@[simp] theorem startProgUse_bmk (slot : Nat) (s : State) : (startProgUse slot s).bmk = s.bmk := rfl
@[simp] theorem startProgUse_pwr (slot : Nat) (s : State) : (startProgUse slot s).pwr = s.pwr := rfl
@[simp] theorem startProgUse_cfg (slot : Nat) (s : State) : (startProgUse slot s).cfg = s.cfg := rfl
@[simp] theorem startProgUse_svc (slot : Nat) (s : State) : (startProgUse slot s).svc = s.svc := rfl
@[simp] theorem startProgUse_catchment (slot : Nat) (s : State) : (startProgUse slot s).catchment = s.catchment := rfl
@[simp] theorem startProgUse_log (slot : Nat) (s : State) : (startProgUse slot s).log = s.log := rfl
@[simp] theorem startProgUse_cnt (slot : Nat) (s : State) : (startProgUse slot s).cnt = s.cnt := rfl
@[simp] theorem startProgUse_barrier (slot : Nat) (s : State) : (startProgUse slot s).barrier = s.barrier := rfl
@[simp] theorem startProgUse_rgn (slot : Nat) (s : State) : (startProgUse slot s).rgn = s.rgn := rfl
@[simp] theorem startProgUse_pair (slot : Nat) (s : State) : (startProgUse slot s).pair = s.pair := rfl
@[simp] theorem startProgUse_blk (slot : Nat) (s : State) : (startProgUse slot s).blk = s.blk := rfl
@[simp] theorem startProgUse_cap (slot : Nat) (s : State) : (startProgUse slot s).cap = s.cap := rfl
@[simp] theorem startProgUse_tier (slot : Nat) (s : State) : (startProgUse slot s).tier = s.tier := rfl
@[simp] theorem startProgUse_node (slot : Nat) (s : State) : (startProgUse slot s).node = s.node := rfl
@[simp] theorem startProgUse_ctl (slot : Nat) (s : State) : (startProgUse slot s).ctl = s.ctl := rfl
@[simp] theorem startProgUse_jtag (slot : Nat) (s : State) : (startProgUse slot s).jtag = s.jtag := rfl
@[simp] theorem startProgUse_fuse (slot : Nat) (s : State) : (startProgUse slot s).fuse = s.fuse := rfl
@[simp] theorem startProgUse_mem (slot : Nat) (s : State) : (startProgUse slot s).mem = s.mem := rfl
@[simp] theorem startProgUse_sto (slot : Nat) (s : State) : (startProgUse slot s).sto = s.sto := rfl
@[simp] theorem startProgUse_dir (slot : Nat) (s : State) : (startProgUse slot s).dir = s.dir := rfl
@[simp] theorem startProgUse_tlb (slot : Nat) (s : State) : (startProgUse slot s).tlb = s.tlb := rfl
@[simp] theorem startProgUse_chan (slot : Nat) (s : State) : (startProgUse slot s).chan = s.chan := rfl
@[simp] theorem startProgUse_work (slot : Nat) (s : State) : (startProgUse slot s).work = s.work := rfl
@[simp] theorem startProgUse_installs (slot : Nat) (s : State) : (startProgUse slot s).installs = s.installs := rfl
@[simp] theorem startProgUse_req (slot : Nat) (s : State) : (startProgUse slot s).req = s.req := rfl
@[simp] theorem startProgUse_nextReq (slot : Nat) (s : State) : (startProgUse slot s).nextReq = s.nextReq := rfl
@[simp] theorem startProgUse_readLog (slot : Nat) (s : State) : (startProgUse slot s).readLog = s.readLog := rfl
@[simp] theorem startProgUse_key (slot : Nat) (s : State) : (startProgUse slot s).key = s.key := rfl
@[simp] theorem startProgUse_jx (slot : Nat) (s : State) : (startProgUse slot s).jx = s.jx := rfl
@[simp] theorem startProgUse_slu (slot : Nat) (s : State) : (startProgUse slot s).slu = s.slu := rfl
@[simp] theorem startProgUse_traffic (slot : Nat) (s : State) : (startProgUse slot s).traffic = s.traffic := rfl
@[simp] theorem startProgUse_datum (slot : Nat) (s : State) : (startProgUse slot s).datum = s.datum := rfl
@[simp] theorem startProgUse_sec (slot : Nat) (s : State) : (startProgUse slot s).sec = s.sec := rfl
@[simp] theorem startProgUse_dma (slot : Nat) (s : State) : (startProgUse slot s).dma = s.dma := rfl
@[simp] theorem startProgUse_saved (slot : Nat) (s : State) : (startProgUse slot s).saved = s.saved := rfl
@[simp] theorem startProgUse_free (slot : Nat) (s : State) : (startProgUse slot s).free = s.free := rfl
@[simp] theorem startProgUse_resets (slot : Nat) (s : State) : (startProgUse slot s).resets = s.resets := rfl
@[simp] theorem startProgUse_pending (slot : Nat) (s : State) : (startProgUse slot s).pending = s.pending := rfl

/-! ### `setRewrite` changes `work` alone -/

@[simp] theorem setRewrite_bmk (key : Nat) (r : Rewrite) (s : State) : (setRewrite key r s).bmk = s.bmk := rfl
@[simp] theorem setRewrite_pwr (key : Nat) (r : Rewrite) (s : State) : (setRewrite key r s).pwr = s.pwr := rfl
@[simp] theorem setRewrite_cfg (key : Nat) (r : Rewrite) (s : State) : (setRewrite key r s).cfg = s.cfg := rfl
@[simp] theorem setRewrite_svc (key : Nat) (r : Rewrite) (s : State) : (setRewrite key r s).svc = s.svc := rfl
@[simp] theorem setRewrite_catchment (key : Nat) (r : Rewrite) (s : State) : (setRewrite key r s).catchment = s.catchment := rfl
@[simp] theorem setRewrite_log (key : Nat) (r : Rewrite) (s : State) : (setRewrite key r s).log = s.log := rfl
@[simp] theorem setRewrite_cnt (key : Nat) (r : Rewrite) (s : State) : (setRewrite key r s).cnt = s.cnt := rfl
@[simp] theorem setRewrite_barrier (key : Nat) (r : Rewrite) (s : State) : (setRewrite key r s).barrier = s.barrier := rfl
@[simp] theorem setRewrite_rgn (key : Nat) (r : Rewrite) (s : State) : (setRewrite key r s).rgn = s.rgn := rfl
@[simp] theorem setRewrite_pair (key : Nat) (r : Rewrite) (s : State) : (setRewrite key r s).pair = s.pair := rfl
@[simp] theorem setRewrite_blk (key : Nat) (r : Rewrite) (s : State) : (setRewrite key r s).blk = s.blk := rfl
@[simp] theorem setRewrite_cap (key : Nat) (r : Rewrite) (s : State) : (setRewrite key r s).cap = s.cap := rfl
@[simp] theorem setRewrite_tier (key : Nat) (r : Rewrite) (s : State) : (setRewrite key r s).tier = s.tier := rfl
@[simp] theorem setRewrite_node (key : Nat) (r : Rewrite) (s : State) : (setRewrite key r s).node = s.node := rfl
@[simp] theorem setRewrite_ctl (key : Nat) (r : Rewrite) (s : State) : (setRewrite key r s).ctl = s.ctl := rfl
@[simp] theorem setRewrite_jtag (key : Nat) (r : Rewrite) (s : State) : (setRewrite key r s).jtag = s.jtag := rfl
@[simp] theorem setRewrite_fuse (key : Nat) (r : Rewrite) (s : State) : (setRewrite key r s).fuse = s.fuse := rfl
@[simp] theorem setRewrite_mem (key : Nat) (r : Rewrite) (s : State) : (setRewrite key r s).mem = s.mem := rfl
@[simp] theorem setRewrite_sto (key : Nat) (r : Rewrite) (s : State) : (setRewrite key r s).sto = s.sto := rfl
@[simp] theorem setRewrite_dir (key : Nat) (r : Rewrite) (s : State) : (setRewrite key r s).dir = s.dir := rfl
@[simp] theorem setRewrite_tlb (key : Nat) (r : Rewrite) (s : State) : (setRewrite key r s).tlb = s.tlb := rfl
@[simp] theorem setRewrite_chan (key : Nat) (r : Rewrite) (s : State) : (setRewrite key r s).chan = s.chan := rfl
@[simp] theorem setRewrite_prog (key : Nat) (r : Rewrite) (s : State) : (setRewrite key r s).prog = s.prog := rfl
@[simp] theorem setRewrite_installs (key : Nat) (r : Rewrite) (s : State) : (setRewrite key r s).installs = s.installs := rfl
@[simp] theorem setRewrite_req (key : Nat) (r : Rewrite) (s : State) : (setRewrite key r s).req = s.req := rfl
@[simp] theorem setRewrite_nextReq (key : Nat) (r : Rewrite) (s : State) : (setRewrite key r s).nextReq = s.nextReq := rfl
@[simp] theorem setRewrite_readLog (key : Nat) (r : Rewrite) (s : State) : (setRewrite key r s).readLog = s.readLog := rfl
@[simp] theorem setRewrite_key (key : Nat) (r : Rewrite) (s : State) : (setRewrite key r s).key = s.key := rfl
@[simp] theorem setRewrite_jx (key : Nat) (r : Rewrite) (s : State) : (setRewrite key r s).jx = s.jx := rfl
@[simp] theorem setRewrite_slu (key : Nat) (r : Rewrite) (s : State) : (setRewrite key r s).slu = s.slu := rfl
@[simp] theorem setRewrite_traffic (key : Nat) (r : Rewrite) (s : State) : (setRewrite key r s).traffic = s.traffic := rfl
@[simp] theorem setRewrite_datum (key : Nat) (r : Rewrite) (s : State) : (setRewrite key r s).datum = s.datum := rfl
@[simp] theorem setRewrite_sec (key : Nat) (r : Rewrite) (s : State) : (setRewrite key r s).sec = s.sec := rfl
@[simp] theorem setRewrite_dma (key : Nat) (r : Rewrite) (s : State) : (setRewrite key r s).dma = s.dma := rfl
@[simp] theorem setRewrite_saved (key : Nat) (r : Rewrite) (s : State) : (setRewrite key r s).saved = s.saved := rfl
@[simp] theorem setRewrite_free (key : Nat) (r : Rewrite) (s : State) : (setRewrite key r s).free = s.free := rfl
@[simp] theorem setRewrite_resets (key : Nat) (r : Rewrite) (s : State) : (setRewrite key r s).resets = s.resets := rfl
@[simp] theorem setRewrite_pending (key : Nat) (r : Rewrite) (s : State) : (setRewrite key r s).pending = s.pending := rfl

end Sys2Proof.Laws
end

