-- ==== Sys2Proof/Laws/Tbl.lean ====
section
/-! SUPPORT. The laws of the sparse tables and of the byte memories: reading after writing, and the canonical form that every operation keeps. -/

namespace Sys2Proof.Laws

open Sys2Proof.Machine

variable {α : Type}

/-! ## Sorted tables -/

theorem tsortedFrom_mono {lo lo' : Nat} {t : Tbl α} (h : tsortedFrom lo t = true) (hl : lo' ≤ lo) : tsortedFrom lo' t = true := by
  cases t with
  | nil => rfl
  | cons e t =>
    simp only [tsortedFrom, Bool.and_eq_true, decide_eq_true_eq] at h ⊢
    exact ⟨by omega, h.2⟩

/-- Every key of a table sorted from `lo` is at least `lo`. -/
theorem le_of_mem_sorted {lo : Nat} {t : Tbl α} (h : tsortedFrom lo t = true) {e : Nat × α} (he : e ∈ t) : lo ≤ e.1 := by
  induction t generalizing lo with
  | nil => cases he
  | cons x t ih =>
    simp only [tsortedFrom, Bool.and_eq_true, decide_eq_true_eq] at h
    rcases List.mem_cons.1 he with rfl | he
    · exact h.1
    · have := ih h.2 he
      omega

theorem tput_sorted {lo k : Nat} {v : α} {t : Tbl α} (h : tsortedFrom lo t = true) (hk : lo ≤ k) : tsortedFrom lo (tput t k v) = true := by
  induction t generalizing lo with
  | nil => simp [tput, tsortedFrom, hk]
  | cons e t ih =>
    obtain ⟨k', v'⟩ := e
    simp only [tsortedFrom, Bool.and_eq_true, decide_eq_true_eq] at h
    unfold tput
    split
    · simp only [tsortedFrom, Bool.and_eq_true, decide_eq_true_eq]
      exact ⟨hk, by omega, h.2⟩
    · split
      · subst_vars
        simp only [tsortedFrom, Bool.and_eq_true, decide_eq_true_eq]
        exact ⟨hk, h.2⟩
      · simp only [tsortedFrom, Bool.and_eq_true, decide_eq_true_eq]
        exact ⟨h.1, ih h.2 (by omega)⟩

theorem filter_sorted {lo : Nat} {t : Tbl α} (p : Nat × α → Bool) (h : tsortedFrom lo t = true) : tsortedFrom lo (t.filter p) = true := by
  induction t generalizing lo with
  | nil => rfl
  | cons e t ih =>
    simp only [tsortedFrom, Bool.and_eq_true, decide_eq_true_eq] at h
    rw [List.filter_cons]
    split
    · simp only [tsortedFrom, Bool.and_eq_true, decide_eq_true_eq]
      exact ⟨h.1, ih h.2⟩
    · exact tsortedFrom_mono (ih h.2) (by omega)

theorem tdel_sorted {lo k : Nat} {t : Tbl α} (h : tsortedFrom lo t = true) : tsortedFrom lo (tdel t k) = true := by
  induction t generalizing lo with
  | nil => rfl
  | cons e t ih =>
    obtain ⟨k', v'⟩ := e
    have h' := h
    simp only [tsortedFrom, Bool.and_eq_true, decide_eq_true_eq] at h
    unfold tdel
    split
    · exact tsortedFrom_mono h.2 (by omega)
    · split
      · exact h'
      · simp only [tsortedFrom, Bool.and_eq_true, decide_eq_true_eq]
        exact ⟨h.1, ih h.2⟩

theorem mem_tput {k : Nat} {v : α} {t : Tbl α} {e : Nat × α} (h : e ∈ tput t k v) : e = (k, v) ∨ e ∈ t := by
  induction t with
  | nil => simpa [tput] using h
  | cons x t ih =>
    unfold tput at h
    split at h
    · simpa using h
    · split at h
      · rcases List.mem_cons.1 h with h | h
        · exact .inl h
        · exact .inr (List.mem_cons_of_mem _ h)
      · rcases List.mem_cons.1 h with h | h
        · exact .inr (h ▸ List.mem_cons_self)
        · rcases ih h with h | h
          · exact .inl h
          · exact .inr (List.mem_cons_of_mem _ h)

theorem mem_tdel {k : Nat} {t : Tbl α} {e : Nat × α} (h : e ∈ tdel t k) : e ∈ t := by
  induction t with
  | nil => simpa [tdel] using h
  | cons x t ih =>
    unfold tdel at h
    split at h
    · exact List.mem_cons_of_mem _ h
    · split at h
      · exact h
      · rcases List.mem_cons.1 h with h | h
        · exact h ▸ List.mem_cons_self
        · exact List.mem_cons_of_mem _ (ih h)

/-! ## Reading after writing -/

@[simp] theorem tlook_tput (t : Tbl α) (k : Nat) (v : α) : tlook (tput t k v) k = some v := by
  induction t with
  | nil => simp [tput, tlook]
  | cons e t ih =>
    unfold tput
    split
    · simp [tlook]
    · split
      · simp [tlook]
      · rename_i h1 h2
        have : e.1 ≠ k := by omega
        simp [tlook, this, h1, ih]

theorem tlook_below {lo k : Nat} {t : Tbl α} (h : tsortedFrom lo t = true) (hk : k < lo) : tlook t k = none := by
  cases t with
  | nil => rfl
  | cons e t =>
    simp only [tsortedFrom, Bool.and_eq_true, decide_eq_true_eq] at h
    have h1 : e.1 ≠ k := by omega
    have h2 : k < e.1 := by omega
    simp [tlook, h1, h2]

/-- A write leaves every other key alone. -/
theorem tlook_tput_ne {t : Tbl α} {k j : Nat} {v : α} (h : j ≠ k) : tlook (tput t k v) j = tlook t j := by
  induction t with
  | nil =>
    have : k ≠ j := fun e => h e.symm
    simp [tput, tlook, this]
  | cons e t ih =>
    have hkj : k ≠ j := fun e => h e.symm
    unfold tput
    split
    · rename_i hlt
      by_cases hj : j < k
      · have h1 : e.1 ≠ j := by omega
        have h2 : j < e.1 := by omega
        simp [tlook, hkj, hj, h1, h2]
      · simp [tlook, hkj, hj]
    · split
      · rename_i hk
        subst hk
        simp [tlook, hkj]
      · simp [tlook, ih]

theorem tlook_tdel {lo : Nat} {t : Tbl α} (h : tsortedFrom lo t = true) (k j : Nat) :
    tlook (tdel t k) j = if j = k then none else tlook t j := by
  induction t generalizing lo with
  | nil => simp [tdel, tlook]
  | cons e t ih =>
    obtain ⟨k', v'⟩ := e
    simp only [tsortedFrom, Bool.and_eq_true, decide_eq_true_eq] at h
    unfold tdel
    split
    · rename_i hk
      subst hk
      split
      · rename_i hj
        subst hj
        exact tlook_below h.2 (by omega)
      · rename_i hj
        have h1 : k' ≠ j := fun e => hj e.symm
        simp only [tlook, if_neg h1]
        split
        · exact tlook_below h.2 (by omega)
        · rfl
    · split
      · rename_i h1 h2
        split
        · rename_i hj
          subst hj
          simp [tlook, h1, h2]
        · rfl
      · rename_i h1 h2
        by_cases hj : j = k
        · subst hj
          simp [tlook, h1, h2, ih h.2]
        · by_cases hkj : k' = j
          · subst hkj
            simp [tlook, hj]
          · simp [tlook, hkj, ih h.2, hj]

@[simp] theorem tget_tput (d : α) (t : Tbl α) (k : Nat) (v : α) : tget d (tput t k v) k = v := by simp [tget]

theorem tget_tput_ne {d : α} {t : Tbl α} {k j : Nat} {v : α} (h : j ≠ k) : tget d (tput t k v) j = tget d t j := by
  simp [tget, tlook_tput_ne h]

/-- A value that is not the default is listed, whatever the table. -/
theorem tset_ne [DecidableEq α] {d v : α} (h : v ≠ d) (t : Tbl α) (k : Nat) : tset d t k v = tput t k v := by simp [tset, h]

theorem tget_tset_self [DecidableEq α] {d v : α} (h : v ≠ d) (t : Tbl α) (k : Nat) : tget d (tset d t k v) k = v := by simp [tset_ne h]

theorem tget_tset_other [DecidableEq α] {d v : α} (h : v ≠ d) (t : Tbl α) {k j : Nat} (hj : j ≠ k) :
    tget d (tset d t k v) j = tget d t j := by rw [tset_ne h, tget_tput_ne hj]


/-- Reading a register file after a write: the value at the key written, the old value elsewhere. -/
theorem tget_tset [DecidableEq α] {lo : Nat} {t : Tbl α} (h : tsortedFrom lo t = true) (d : α) (k j : Nat) (v : α) :
    tget d (tset d t k v) j = if j = k then v else tget d t j := by
  unfold tset
  split
  · rename_i hv
    subst hv
    simp only [tget, tlook_tdel h]
    split <;> simp
  · split
    · rename_i hj
      subst hj
      simp
    · rename_i hj
      exact tget_tput_ne hj

/-! ## The canonical form -/

theorem twf_tset [DecidableEq α] {d : α} {t : Tbl α} (h : twf d t = true) (k : Nat) (v : α) : twf d (tset d t k v) = true := by
  simp only [twf, Bool.and_eq_true, List.all_eq_true, decide_eq_true_eq] at h ⊢
  unfold tset
  split
  · exact ⟨tdel_sorted h.1, fun e he => h.2 e (mem_tdel he)⟩
  · rename_i hv
    refine ⟨tput_sorted h.1 (Nat.zero_le k), fun e he => ?_⟩
    rcases mem_tput he with rfl | he
    · exact hv
    · exact h.2 e he

theorem twf_filter [DecidableEq α] {d : α} {t : Tbl α} (h : twf d t = true) (p : Nat × α → Bool) : twf d (t.filter p) = true := by
  simp only [twf, Bool.and_eq_true, List.all_eq_true, decide_eq_true_eq] at h ⊢
  exact ⟨filter_sorted p h.1, fun e he => h.2 e (List.mem_filter.1 he).1⟩

/-! ## Byte memories -/

theorem memWf_nil : Memory.wf [] = true := rfl

theorem memWf_memWrite {m : Tbl Byte} (h : Memory.wf m = true) (a : Nat) (bs : Bytes) : Memory.wf (memWrite m a bs) = true := by
  induction bs generalizing m a with
  | nil => exact h
  | cons b bs ih => exact ih (twf_tset h a b) (a + 1)

theorem memWf_memZero {m : Tbl Byte} (h : Memory.wf m = true) (a n : Nat) : Memory.wf (memZero m a n) = true := twf_filter h _

theorem memWf_memCopy {m0 m : Tbl Byte} (h0 : Memory.wf m0 = true) (h : Memory.wf m = true) (src dst n : Nat) :
    Memory.wf (memCopy m0 src m dst n) = true := by
  unfold memCopy
  have hs : ∀ e ∈ memSpan m0 src n, e.2 ≠ 0 := by
    intro e he
    have h0' := h0
    simp only [Memory.wf, twf, Bool.and_eq_true, List.all_eq_true, decide_eq_true_eq] at h0'
    exact h0'.2 e (List.mem_filter.1 he).1
  revert hs
  generalize memSpan m0 src n = l
  intro hs
  have hz : Memory.wf (memZero m dst n) = true := memWf_memZero h dst n
  revert hz
  generalize memZero m dst n = acc
  intro hz
  induction l generalizing acc with
  | nil => exact hz
  | cons e l ih =>
    refine ih (fun x hx => hs x (List.mem_cons_of_mem _ hx)) _ ?_
    simp only [Memory.wf, twf, Bool.and_eq_true, List.all_eq_true, decide_eq_true_eq] at hz ⊢
    refine ⟨tput_sorted hz.1 (Nat.zero_le _), fun x hx => ?_⟩
    rcases mem_tput hx with rfl | hx
    · exact hs e List.mem_cons_self
    · exact hz.2 x hx

/-- A write leaves every byte outside it as it was. -/
theorem memWrite_outside {m : Tbl Byte} (h : Memory.wf m = true) (a j : Nat) (bs : Bytes) (hj : j < a ∨ a + bs.length ≤ j) :
    tget 0 (memWrite m a bs) j = tget 0 m j := by
  induction bs generalizing m a with
  | nil => rfl
  | cons b bs ih =>
    have hw := twf_tset h a b
    have hsorted : tsortedFrom 0 m = true := by
      simp only [Memory.wf, twf, Bool.and_eq_true] at h
      exact h.1
    simp only [List.length_cons] at hj
    rw [memWrite, ih hw (a + 1) (by omega), tget_tset hsorted]
    have : j ≠ a := by omega
    simp [this]

/-- A write puts its bytes where it says. -/
theorem memWrite_inside {m : Tbl Byte} (h : Memory.wf m = true) (a i : Nat) (bs : Bytes) (hi : i < bs.length) :
    tget 0 (memWrite m a bs) (a + i) = bs[i] := by
  induction bs generalizing m a i with
  | nil => simp at hi
  | cons b bs ih =>
    have hw := twf_tset h a b
    have hsorted : tsortedFrom 0 m = true := by
      simp only [Memory.wf, twf, Bool.and_eq_true] at h
      exact h.1
    cases i with
    | zero =>
      rw [memWrite, memWrite_outside hw (a + 1) (a + 0) bs (by omega), tget_tset hsorted]
      simp
    | succ i =>
      have hi' : i < bs.length := by simpa using hi
      have := ih hw (a + 1) i hi'
      rw [memWrite, show a + (i + 1) = a + 1 + i by omega, this]
      simp

/-- The bytes of a write, from its first, are what a read there gives. -/
theorem memRead_memWrite {m : Tbl Byte} (h : Memory.wf m = true) (a n : Nat) (bs : Bytes) (hn : n ≤ bs.length) :
    memRead (memWrite m a bs) a n = bs.take n := by
  apply List.ext_getElem
  · simp [memRead, hn]
  · intro i h1 h2
    have hi : i < bs.length := by
      simp only [List.length_take] at h2
      omega
    simp only [memRead, List.getElem_map, List.getElem_range, List.getElem_take]
    exact memWrite_inside h a i bs hi

end Sys2Proof.Laws
end

