-- ==== Sys2Proof/Laws/Ops.lean ====
section
/-! SUPPORT. What the shared operations of Ops.lean do: offers, firing, log records, raising a cause. -/

namespace Sys2Proof.Laws

open Sys2Proof.Machine

/-! ## Offers change nothing of the catchment but the offers -/

theorem withdrawOffers_eq (c : Catchment) : withdrawOffers c = { c with offer := (withdrawOffers c).offer } := by
  unfold withdrawOffers; split <;> rfl

theorem offerOne_eq (a l : Nat) (c : Catchment) (id : Nat) : offerOne a l c id = { c with offer := (offerOne a l c id).offer } := by
  unfold offerOne; split <;> rfl

theorem settleOffers_eq (a : Nat) (c : Catchment) : settleOffers a c = { c with offer := (settleOffers a c).offer } := by
  have h : ∀ (l : List Nat) (c' : Catchment), c' = { c with offer := c'.offer } →
      l.foldl (fun c id => if (offeredTo c id).isSome then c else offerOne a (srcCfg c id).last c id) c' =
        { c with offer := (l.foldl (fun c id => if (offeredTo c id).isSome then c else offerOne a (srcCfg c id).last c id) c').offer } := by
    intro l
    induction l with
    | nil => intro c' h; exact h
    | cons x xs ih =>
      intro c' h
      apply ih
      simp only
      split
      · exact h
      · rw [offerOne_eq]; rw [h]
  unfold settleOffers
  simp only
  split
  · exact h _ _ (withdrawOffers_eq c)
  · exact withdrawOffers_eq c

@[simp] theorem settleOffers_src (a : Nat) (c : Catchment) : (settleOffers a c).src = c.src := by rw [settleOffers_eq]
@[simp] theorem settleOffers_stack (a : Nat) (c : Catchment) : (settleOffers a c).stack = c.stack := by rw [settleOffers_eq]
@[simp] theorem settleOffers_cause (a : Nat) (c : Catchment) : (settleOffers a c).cause = c.cause := by rw [settleOffers_eq]
@[simp] theorem settleOffers_dis (a : Nat) (c : Catchment) : (settleOffers a c).dis = c.dis := by rw [settleOffers_eq]
@[simp] theorem settleOffers_globalEn (a : Nat) (c : Catchment) : (settleOffers a c).globalEn = c.globalEn := by rw [settleOffers_eq]
@[simp] theorem settleOffers_tgtEn (a : Nat) (c : Catchment) : (settleOffers a c).tgtEn = c.tgtEn := by rw [settleOffers_eq]

/-- With GLOBAL_EN 0 no offer stands (19 R420). -/
theorem settleOffers_disabled (a : Nat) (c : Catchment) (h : c.globalEn = false) : (settleOffers a c).offer = [] := by
  simp [settleOffers, withdrawOffers, h]

/-! ## Firing and raising -/

theorem fireSource_eq (id : Nat) (s : State) : fireSource id s = { s with catchment := (fireSource id s).catchment } := rfl

@[simp] theorem fireSource_cause (id : Nat) (s : State) : (fireSource id s).catchment.cause = s.catchment.cause := by
  simp [fireSource, settle, setSrc]
@[simp] theorem fireSource_stack (id : Nat) (s : State) : (fireSource id s).catchment.stack = s.catchment.stack := by
  simp [fireSource, settle, setSrc]
@[simp] theorem fireSource_tgtEn (id : Nat) (s : State) : (fireSource id s).catchment.tgtEn = s.catchment.tgtEn := by
  simp [fireSource, settle, setSrc]
@[simp] theorem fireSource_globalEn (id : Nat) (s : State) : (fireSource id s).catchment.globalEn = s.catchment.globalEn := by
  simp [fireSource, settle, setSrc]

theorem setAndFire_eq (l : Leaf) (s : State) : setAndFire l s = { s with catchment := (setAndFire l s).catchment } := by
  unfold setAndFire; simp only; split <;> rfl

theorem logRecord_eq (ring sev kind src bit event : Nat) (d : Detail) (s : State) :
    logRecord ring sev kind src bit event d s = { s with log := (logRecord ring sev kind src bit event d s).log } := rfl

/-- A cause that occurs changes the catchment and the log alone. -/
theorem raise_eq (l : Leaf) (d : Detail) (s : State) :
    raise l d s = { s with catchment := (raise l d s).catchment, log := (raise l d s).log } := by
  unfold raise; rw [setAndFire_eq]; rfl

theorem setAndFire_cause (l : Leaf) (s : State) :
    (setAndFire l s).catchment.cause = tset 0 s.catchment.cause l.src (causeWord s l.src ||| 2 ^ l.bit) := by
  unfold setAndFire; simp only; split <;> simp [setCause]

theorem or_pow_ne (a b : Nat) : a ||| 2 ^ b ≠ 0 := by
  intro h
  have := congrArg (fun x => x.testBit b) h
  simp [Nat.testBit_or, Nat.testBit_two_pow_self] at this

theorem nextSeq_ne (n : Nat) : nextSeq n ≠ 0 := by unfold nextSeq; split <;> omega

/-- A cause that occurs sets its bit (19 R414). -/
theorem raise_cause (l : Leaf) (d : Detail) (s : State) :
    causeWord (raise l d s) l.src = causeWord s l.src ||| 2 ^ l.bit := by
  unfold raise causeWord; rw [setAndFire_cause]
  exact tget_tset_self (or_pow_ne _ _) _ _

theorem raise_log (l : Leaf) (d : Detail) (s : State) :
    (raise l d s).log = (logRecord (ringOf l.src) l.sev 0 l.src l.bit 0 (dieField s l.src ++ d) s).log := by
  unfold raise; rw [setAndFire_eq]

/-- A cause that occurs adds one record to its die's ring (19 R427, R428). -/
theorem raise_logSeq (l : Leaf) (d : Detail) (s : State) :
    logSeq (raise l d s) (ringOf l.src) = nextSeq (logSeq s (ringOf l.src)) := by
  unfold logSeq; rw [raise_log]; exact tget_tset_self (nextSeq_ne _) _ _

/-- The numbers of a ring that a cause does not write stay. -/
theorem raise_logSeq_other (l : Leaf) (d : Detail) (s : State) (ring : Nat) (h : ring ≠ ringOf l.src) :
    logSeq (raise l d s) ring = logSeq s ring := by
  unfold logSeq; rw [raise_log]; exact tget_tset_other (nextSeq_ne _) _ h

@[simp] theorem raise_stack (l : Leaf) (d : Detail) (s : State) : (raise l d s).catchment.stack = s.catchment.stack := by
  unfold raise setAndFire; simp only; split <;> simp [setCause, logRecord]
@[simp] theorem raise_tgtEn (l : Leaf) (d : Detail) (s : State) : (raise l d s).catchment.tgtEn = s.catchment.tgtEn := by
  unfold raise setAndFire; simp only; split <;> simp [setCause, logRecord]
@[simp] theorem raise_globalEn (l : Leaf) (d : Detail) (s : State) : (raise l d s).catchment.globalEn = s.catchment.globalEn := by
  unfold raise setAndFire; simp only; split <;> simp [setCause, logRecord]

end Sys2Proof.Laws
end

