-- ==== Sys2Proof/Laws/Keep.lean ====
section
/-! SUPPORT. The relation that every command keeps, and the operations that touch what it is about: the memories, the catchment,
the log rings, the claim, the pins, the fuses and the queue. -/

namespace Sys2Proof.Laws

open Sys2Proof.Machine

/-- `b` is a sound state with the queue of `a`, in which no fuse of `a` is unblown. -/
structure Keep (a b : State) : Prop where
  queue : b.pending = a.pending
  fuse : fusesKept a.fuse b.fuse
  mem : memOk b = true
  catchment : catchOk b.catchment = true
  log : ringsOk b.log = true
  svc : claimOk b.svc = true
  pins : pinsOk b = true

/-- `Keep` of the state in a pair, in the tail of a triple, in an option, in an answer. -/
structure KeepP {α : Type} (a : State) (p : α × State) : Prop where
  snd : Keep a p.2
structure KeepQ {α β : Type} (a : State) (p : α × β × State) : Prop where
  snd : Keep a p.2.2
structure KeepO (a : State) (o : Option State) : Prop where
  out : ∀ s, o = some s → Keep a s
structure KeepOP {α : Type} (a : State) (o : Option (α × State)) : Prop where
  out : ∀ x s, o = some (x, s) → Keep a s
structure KeepOQ {α β : Type} (a : State) (o : Option (α × β × State)) : Prop where
  out : ∀ x y s, o = some (x, y, s) → Keep a s
structure KeepS {α β : Type} (a : State) (o : α ⊕ β × State) : Prop where
  out : ∀ x s, o = .inr (x, s) → Keep a s
structure KeepR (a : State) (o : Host.Outcome State Fault Refusal) : Prop where
  next : ∀ s, o = .next s → Keep a s

variable {a b b' s s' : State} {α β : Type}

theorem Keep.out {p : α × State} {x : α} (e : p = (x, s)) (h : KeepP a p) : Keep a s := by subst e; exact h.snd
theorem Keep.outQ {β : Type} {p : α × β × State} {x : α} {y : β} (e : p = (x, y, s)) (h : KeepQ a p) : Keep a s := by
  subst e; exact h.snd
theorem Keep.outO {o : Option State} (e : o = some s) (h : KeepO a o) : Keep a s := h.out _ e
theorem Keep.outOP {o : Option (α × State)} {x : α} (e : o = some (x, s)) (h : KeepOP a o) : Keep a s := h.out _ _ e
theorem Keep.outOQ {β : Type} {o : Option (α × β × State)} {x : α} {y : β} (e : o = some (x, y, s)) (h : KeepOQ a o) : Keep a s :=
  h.out _ _ _ e
theorem KeepP.mk' {x : α} (h : Keep a s) : KeepP a (x, s) := ⟨h⟩
theorem KeepQ.mk' {β : Type} {x : α} {y : β} (h : Keep a s) : KeepQ a (x, y, s) := ⟨h⟩
theorem KeepQ.mkP {β : Type} {x : α} {p : β × State} (h : KeepP a p) : KeepQ a (x, p) := ⟨h.snd⟩
theorem KeepO.none_ : KeepO a none := ⟨fun _ h => by cases h⟩
theorem KeepO.mk' (h : Keep a s) : KeepO a (some s) := ⟨fun _ e => by cases e; exact h⟩
theorem KeepOP.none_ : KeepOP (α := α) a none := ⟨fun _ _ h => by cases h⟩
theorem KeepOP.mk' {x : α} (h : Keep a s) : KeepOP a (some (x, s)) := ⟨fun _ _ e => by cases e; exact h⟩
theorem KeepOP.mkP {p : α × State} (h : KeepP a p) : KeepOP a (some p) := ⟨fun _ _ e => by cases e; exact h.snd⟩
theorem KeepOQ.none_ {β : Type} : KeepOQ (α := α) (β := β) a none := ⟨fun _ _ _ h => by cases h⟩
theorem KeepOQ.mk' {β : Type} {x : α} {y : β} (h : Keep a s) : KeepOQ a (some (x, y, s)) := ⟨fun _ _ _ e => by cases e; exact h⟩
theorem KeepS.inl {β : Type} {x : α} : KeepS (β := β) a (.inl x) := ⟨fun _ _ e => by cases e⟩
theorem KeepS.mk' {β : Type} {x : β} (h : Keep a s) : KeepS (α := α) a (.inr (x, s)) := ⟨fun _ _ e => by cases e; exact h⟩
theorem Keep.outS {β : Type} {o : α ⊕ β × State} {x : β} (e : o = .inr (x, s)) (h : KeepS a o) : Keep a s := h.out _ _ e
theorem KeepR.mk' (h : Keep a s) : KeepR a (.next s) := ⟨fun _ e => by cases e; exact h⟩
theorem KeepR.fault {f : Fault} : KeepR a (.fault f) := ⟨fun _ e => by cases e⟩
theorem Keep.getD {o : Option State} (h : KeepO a o) (hs : Keep a s) : Keep a (o.getD s) := by
  cases o with
  | none => exact hs
  | some t => exact h.out _ rfl

theorem Keep.outOPs {o : Option (α × State)} {p : α × State} (e : o = some p) (h : KeepOP a o) : Keep a p.2 := h.out _ _ e
theorem Keep.outOQs {o : Option (α × β × State)} {p : α × β × State} (e : o = some p) (h : KeepOQ a o) : Keep a p.2.2 :=
  h.out _ _ _ e

theorem keepO_map {γ : Type} {o : Option γ} {f : γ → State} (hf : ∀ x, o = some x → Keep a (f x)) : KeepO a (o.map f) := by
  cases o with
  | none => exact KeepO.none_
  | some x => exact KeepO.mk' (hf x rfl)

theorem keepO_bind {γ : Type} {o : Option γ} {f : γ → Option State} (hf : ∀ x, o = some x → KeepO a (f x)) : KeepO a (o.bind f) := by
  cases o with
  | none => exact KeepO.none_
  | some x => exact hf x rfl

theorem keepOP_bind {γ : Type} {o : Option γ} {f : γ → Option (α × State)} (hf : ∀ x, o = some x → KeepOP a (f x)) :
    KeepOP a (o.bind f) := by
  cases o with
  | none => exact KeepOP.none_
  | some x => exact hf x rfl

theorem keepOP_map {γ : Type} {o : Option γ} {f : γ → α × State} (hf : ∀ x, o = some x → KeepP a (f x)) : KeepOP a (o.map f) := by
  cases o with
  | none => exact KeepOP.none_
  | some x => exact KeepOP.mkP (hf x rfl)

theorem keepOQ_map {γ : Type} {o : Option γ} {f : γ → α × β × State} (hf : ∀ x, o = some x → KeepQ a (f x)) :
    KeepOQ a (o.map f) := by
  cases o with
  | none => exact KeepOQ.none_
  | some x =>
    refine ⟨fun _ _ _ e => ?_⟩
    have h := hf x rfl
    simp only [Option.map_some, Option.some.injEq] at e
    rw [e] at h
    exact h.snd

theorem keep_foldl {f : State → β → State} {l : List β} (h : Keep a s) (hf : ∀ s x, Keep a s → Keep a (f s x)) :
    Keep a (l.foldl f s) := by
  induction l generalizing s with
  | nil => exact h
  | cons x xs ih => exact ih (hf _ _ h)

theorem keepP_foldl {f : α × State → β → α × State} {p : α × State} {l : List β} (h : KeepP a p)
    (hf : ∀ p x, KeepP a p → KeepP a (f p x)) : KeepP a (l.foldl f p) := by
  induction l generalizing p with
  | nil => exact h
  | cons x xs ih => exact ih (hf _ _ h)

theorem keepOP_foldl {f : Option (α × State) → β → Option (α × State)} {o : Option (α × State)} {l : List β} (h : KeepOP a o)
    (hf : ∀ o x, KeepOP a o → KeepOP a (f o x)) : KeepOP a (l.foldl f o) := by
  induction l generalizing o with
  | nil => exact h
  | cons x xs ih => exact ih (hf _ _ h)

theorem keepO_foldl {f : Option State → β → Option State} {o : Option State} {l : List β} (h : KeepO a o)
    (hf : ∀ o x, KeepO a o → KeepO a (f o x)) : KeepO a (l.foldl f o) := by
  induction l generalizing o with
  | nil => exact h
  | cons x xs ih => exact ih (hf _ _ h)

theorem keepOP_findSome {f : β → Option (α × State)} {l : List β} (hf : ∀ x, KeepOP a (f x)) : KeepOP a (l.findSome? f) := by
  induction l with
  | nil => exact KeepOP.none_
  | cons x xs ih =>
    rw [List.findSome?_cons]
    split
    · next e => rw [← e]; exact hf x
    · exact ih

theorem keep_ite {c : Prop} [Decidable c] (h1 : c → Keep a s) (h2 : ¬c → Keep a s') : Keep a (if c then s else s') := by
  split
  · exact h1 ‹_›
  · exact h2 ‹_›
theorem keepP_ite {c : Prop} [Decidable c] {p q : α × State} (h1 : c → KeepP a p) (h2 : ¬c → KeepP a q) :
    KeepP a (if c then p else q) := by
  split
  · exact h1 ‹_›
  · exact h2 ‹_›
theorem keepQ_ite {c : Prop} [Decidable c] {p q : α × β × State} (h1 : c → KeepQ a p) (h2 : ¬c → KeepQ a q) :
    KeepQ a (if c then p else q) := by
  split
  · exact h1 ‹_›
  · exact h2 ‹_›
theorem keepO_ite {c : Prop} [Decidable c] {p q : Option State} (h1 : c → KeepO a p) (h2 : ¬c → KeepO a q) :
    KeepO a (if c then p else q) := by
  split
  · exact h1 ‹_›
  · exact h2 ‹_›
theorem keepOP_ite {c : Prop} [Decidable c] {p q : Option (α × State)} (h1 : c → KeepOP a p) (h2 : ¬c → KeepOP a q) :
    KeepOP a (if c then p else q) := by
  split
  · exact h1 ‹_›
  · exact h2 ‹_›

theorem keep_foldlSnd {f : α × State → β → α × State} {p : α × State} {l : List β} (h : Keep a p.2)
    (hf : ∀ p x, Keep a p.2 → Keep a (f p x).2) : Keep a (l.foldl f p).2 := by
  induction l generalizing p with
  | nil => exact h
  | cons x xs ih => exact ih (hf _ _ h)

theorem keepQ_foldl {γ : Type} {f : α × γ × State → β → α × γ × State} {p : α × γ × State} {l : List β} (h : KeepQ a p)
    (hf : ∀ p x, KeepQ a p → KeepQ a (f p x)) : KeepQ a (l.foldl f p) := by
  induction l generalizing p with
  | nil => exact h
  | cons x xs ih => exact ih (hf _ _ h)

theorem keep_foldlFst {f : State × α → β → State × α} {p : State × α} {l : List β} (h : Keep a p.1)
    (hf : ∀ p x, Keep a p.1 → Keep a (f p x).1) : Keep a (l.foldl f p).1 := by
  induction l generalizing p with
  | nil => exact h
  | cons x xs ih => exact ih (hf _ _ h)

/-- A change of anything that `Keep` is not about. -/
theorem keep_mk (hp : b'.pending = b.pending) (hf : b'.fuse = b.fuse) (hm : b'.mem = b.mem)
    (hc : b'.catchment = b.catchment) (hl : b'.log = b.log) (hs : b'.svc = b.svc) (hw : b'.pwr = b.pwr)
    (hb : b'.bmk.counting = b.bmk.counting) (h : Keep a b) : Keep a b' :=
  ⟨hp.trans h.queue, hf ▸ h.fuse, (show memOk b' = memOk b by simp only [memOk, hm]) ▸ h.mem, hc ▸ h.catchment, hl ▸ h.log, hs ▸ h.svc,
    (show pinsOk b' = pinsOk b by simp only [pinsOk, hw, hb]) ▸ h.pins⟩

/-- A change of the power fields that keeps the power state and its pins. -/
theorem keep_pwr (hp : b'.pending = b.pending) (hf : b'.fuse = b.fuse) (hm : b'.mem = b.mem)
    (hc : b'.catchment = b.catchment) (hl : b'.log = b.log) (hs : b'.svc = b.svc) (h1 : b'.pwr.mode = b.pwr.mode)
    (h2 : b'.pwr.aonResetN = b.pwr.aonResetN) (h3 : b'.pwr.resetN = b.pwr.resetN) (h4 : b'.pwr.extestHold = b.pwr.extestHold)
    (hb : b'.bmk.counting = b.bmk.counting) (h : Keep a b) : Keep a b' :=
  ⟨hp.trans h.queue, hf ▸ h.fuse, (show memOk b' = memOk b by simp only [memOk, hm]) ▸ h.mem, hc ▸ h.catchment, hl ▸ h.log, hs ▸ h.svc,
    (show pinsOk b' = pinsOk b by simp only [pinsOk, h1, h2, h3, h4, hb]) ▸ h.pins⟩

/-- A change of the service function that keeps the claim. -/
theorem keep_svc (hp : b'.pending = b.pending) (hf : b'.fuse = b.fuse) (hm : b'.mem = b.mem)
    (hc : b'.catchment = b.catchment) (hl : b'.log = b.log) (ho : b'.svc.owned = b.svc.owned)
    (hr : b'.svc.ownerRid = b.svc.ownerRid) (hw : b'.pwr = b.pwr) (hb : b'.bmk = b.bmk) (h : Keep a b) : Keep a b' :=
  ⟨hp.trans h.queue, hf ▸ h.fuse, (show memOk b' = memOk b by simp only [memOk, hm]) ▸ h.mem, hc ▸ h.catchment, hl ▸ h.log,
    (show claimOk b'.svc = claimOk b.svc by simp only [claimOk, ho, hr]) ▸ h.svc,
    (show pinsOk b' = pinsOk b by simp only [pinsOk, hw, hb]) ▸ h.pins⟩

/-- A change of the memories that keeps their form. -/
theorem keep_mem (hp : b'.pending = b.pending) (hf : b'.fuse = b.fuse)
    (hc : b'.catchment = b.catchment) (hl : b'.log = b.log) (hs : b'.svc = b.svc) (hw : b'.pwr = b.pwr)
    (hb : b'.bmk = b.bmk) (hm : memOk b = true → memOk b' = true) (h : Keep a b) : Keep a b' :=
  ⟨hp.trans h.queue, hf ▸ h.fuse, hm h.mem, hc ▸ h.catchment, hl ▸ h.log, hs ▸ h.svc,
    (show pinsOk b' = pinsOk b by simp only [pinsOk, hw, hb]) ▸ h.pins⟩

/-- A change of the catchment that keeps it sound. -/
theorem keep_catch (hp : b'.pending = b.pending) (hf : b'.fuse = b.fuse) (hm : b'.mem = b.mem)
    (hl : b'.log = b.log) (hs : b'.svc = b.svc) (hw : b'.pwr = b.pwr) (hb : b'.bmk = b.bmk)
    (hc : catchOk b.catchment = true → catchOk b'.catchment = true) (h : Keep a b) : Keep a b' :=
  ⟨hp.trans h.queue, hf ▸ h.fuse, (show memOk b' = memOk b by simp only [memOk, hm]) ▸ h.mem, hc h.catchment, hl ▸ h.log, hs ▸ h.svc,
    (show pinsOk b' = pinsOk b by simp only [pinsOk, hw, hb]) ▸ h.pins⟩

theorem memOk_iff (s : State) : memOk s = true ↔ Memory.wf s.mem.fast = true ∧ Memory.wf s.mem.deep = true ∧
    Memory.wf s.mem.stack = true ∧ Memory.wf s.mem.nvm = true := by simp [memOk, and_assoc]

/-! ## The catchment -/

theorem catchOk_iff (c : Catchment) : catchOk c = true ↔
    (∀ e ∈ c.src, e.2.prio ≤ 15) ∧ (∀ e ∈ c.offer, eligible c e.2.src e.1 = true) ∧ (∀ e ∈ c.stack, nested e.2 = true) := by
  simp [catchOk, List.all_eq_true, and_assoc]

/-- Eligibility rests on the enables, the configurations and the stacks alone. -/
theorem eligible_congr {c d : Catchment} {id t : Nat} (h1 : d.tgtEn = c.tgtEn) (h2 : (srcCfg d id).prio = (srcCfg c id).prio)
    (h3 : namesTarget (srcCfg d id) t = namesTarget (srcCfg c id) t) (h4 : d.stack = c.stack) : eligible d id t = eligible c id t := by
  simp only [eligible, tgtStack, h1, h2, h3, h4]

theorem eligible_offer (c : Catchment) (o : Tbl Offer) (id t : Nat) : eligible { c with offer := o } id t = eligible c id t := rfl

/-- Every offer stands at a target that may take it. -/
def offersOk (c : Catchment) : Prop := ∀ e ∈ c.offer, eligible c e.2.src e.1 = true

theorem withdrawOffers_ok (c : Catchment) : offersOk (withdrawOffers c) := by
  unfold withdrawOffers
  split
  · intro e he
    simp only [tfilter, List.mem_filter, Bool.and_eq_true] at he
    exact he.2.2
  · intro e he; simp at he

theorem offerOne_ok (x l : Nat) (c : Catchment) (id : Nat) (h : offersOk c) : offersOk (offerOne x l c id) := by
  unfold offerOne
  split
  · exact h
  · rename_i t ht
    intro e he
    have hp := List.find?_some ht
    simp only [Bool.and_eq_true] at hp
    rcases mem_tput he with rfl | he
    · exact hp.1
    · exact h e he

theorem settleOffers_ok (x : Nat) (c : Catchment) : offersOk (settleOffers x c) := by
  have key : ∀ (l : List Nat) (c' : Catchment), offersOk c' →
      offersOk (l.foldl (fun c id => if (offeredTo c id).isSome then c else offerOne x (srcCfg c id).last c id) c') := by
    intro l
    induction l with
    | nil => intro c' h; exact h
    | cons y ys ih =>
      intro c' h
      apply ih
      simp only
      split
      · exact h
      · exact offerOne_ok _ _ _ _ h
  unfold settleOffers
  simp only
  split
  · exact key _ _ (withdrawOffers_ok c)
  · exact withdrawOffers_ok c

/-- Bringing the offers up to date makes the catchment sound, whatever offers stood before. -/
theorem settleOffers_catchOk (x : Nat) (c : Catchment) (h1 : ∀ e ∈ c.src, e.2.prio ≤ 15) (h2 : ∀ e ∈ c.stack, nested e.2 = true) :
    catchOk (settleOffers x c) = true := by
  rw [catchOk_iff]
  exact ⟨by simpa using h1, settleOffers_ok x c, by simpa using h2⟩

theorem keep_settle (hp : b'.pending = b.pending) (hf : b'.fuse = b.fuse) (hm : b'.mem = b.mem)
    (hl : b'.log = b.log) (hs : b'.svc = b.svc) (hw : b'.pwr = b.pwr) (hb : b'.bmk = b.bmk)
    (h1 : (∀ e ∈ b.catchment.src, e.2.prio ≤ 15) → ∀ e ∈ b'.catchment.src, e.2.prio ≤ 15)
    (h2 : (∀ e ∈ b.catchment.stack, nested e.2 = true) → ∀ e ∈ b'.catchment.stack, nested e.2 = true) (h : Keep a b) :
    Keep a (settle b') := by
  have hc := (catchOk_iff _).1 h.catchment
  exact ⟨hp.trans h.queue, hf ▸ h.fuse, (show memOk (settle b') = memOk b by simp only [memOk, settle, hm]) ▸ h.mem,
    settleOffers_catchOk _ _ (h1 hc.1) (h2 hc.2.2), (show (settle b').log = b.log from hl) ▸ h.log,
    (show (settle b').svc = b.svc from hs) ▸ h.svc, (show pinsOk (settle b') = pinsOk b by simp only [pinsOk, settle, hw, hb]) ▸ h.pins⟩

theorem settle_keep (h : Keep a s) : Keep a (settle s) := keep_settle rfl rfl rfl rfl rfl rfl rfl id id h

theorem mem_tset [DecidableEq α] {d v : α} {t : Tbl α} {k : Nat} {e : Nat × α} (h : e ∈ tset d t k v) : e = (k, v) ∨ e ∈ t := by
  unfold tset at h
  split at h
  · exact .inr (mem_tdel h)
  · exact mem_tput h

theorem mem_tlook {t : Tbl α} {k : Nat} {v : α} (h : tlook t k = some v) : (k, v) ∈ t := by
  induction t with
  | nil => simp [tlook] at h
  | cons x xs ih =>
    obtain ⟨k', v'⟩ := x
    unfold tlook at h
    split at h
    · next e => simp only [Option.some.injEq] at h; subst e h; exact List.mem_cons_self
    · split at h
      · simp at h
      · exact List.mem_cons_of_mem _ (ih h)

theorem mem_tget [DecidableEq α] {d : α} {t : Tbl α} {k : Nat} {p : α → Prop} (hd : p d) (h : ∀ e ∈ t, p e.2) : p (tget d t k) := by
  unfold tget
  cases hk : tlook t k with
  | none => exact hd
  | some v => exact h _ (mem_tlook hk)

theorem prio_setSrc {c : Catchment} {id : Nat} {g : SrcCfg} (h : ∀ e ∈ c.src, e.2.prio ≤ 15) (hg : g.prio ≤ 15) :
    ∀ e ∈ (setSrc id g c).src, e.2.prio ≤ 15 := by
  intro e he
  rcases mem_tset he with rfl | he
  · exact hg
  · exact h e he

theorem prio_srcCfg {c : Catchment} (id : Nat) (h : ∀ e ∈ c.src, e.2.prio ≤ 15) : (srcCfg c id).prio ≤ 15 := by
  unfold srcCfg
  exact mem_tget (p := fun g : SrcCfg => g.prio ≤ 15) (by decide) h

theorem fireSource_keep (id : Nat) (h : Keep a s) : Keep a (fireSource id s) := by
  unfold fireSource
  have hc := (catchOk_iff _).1 h.catchment
  exact keep_settle (b := s) rfl rfl rfl rfl rfl rfl rfl (fun h1 => prio_setSrc h1 (prio_srcCfg id h1)) (fun h2 => h2) h

/-- A change of CAUSE or CAUSE_EN alone. -/
theorem keep_cause {c d : Tbl Nat} (h : Keep a s) : Keep a { s with catchment := { s.catchment with cause := c, dis := d } } :=
  keep_catch (b := s) rfl rfl rfl rfl rfl rfl rfl (fun hc => by
    rw [catchOk_iff] at hc ⊢
    exact hc) h

theorem setAndFire_keep (l : Leaf) (h : Keep a s) : Keep a (setAndFire l s) := by
  unfold setAndFire setCause
  simp only
  split
  · exact fireSource_keep _ (keep_cause (d := s.catchment.dis) h)
  · exact keep_cause (d := s.catchment.dis) h

theorem writeCauseEn_keep (id v : Nat) (h : Keep a s) : Keep a (writeCauseEn id v s) := by
  unfold writeCauseEn
  simp only
  split
  · exact fireSource_keep _ (keep_cause (c := s.catchment.cause) h)
  · exact keep_cause (c := s.catchment.cause) h

/-- A stack that takes a source its target is eligible for still nests. -/
theorem nested_push {c : Catchment} {id t : Nat} (hp : (srcCfg c id).prio ≤ 15) (he : eligible c id t = true)
    (hs : ∀ e ∈ c.stack, nested e.2 = true) : nested ((id, (srcCfg c id).prio) :: tgtStack c t) = true := by
  have hn : nested (tgtStack c t) = true := mem_tget (p := fun l => nested l = true) rfl hs
  unfold eligible at he
  simp only [Bool.and_eq_true] at he
  have h2 := he.2
  cases hst : tgtStack c t with
  | nil => simp [nested, hp]
  | cons x xs =>
    rw [hst] at h2 hn
    simp only [nested, Bool.and_eq_true, decide_eq_true_eq]
    exact ⟨⟨hp, of_decide_eq_true h2⟩, hn⟩

theorem nested_tail {x : Nat × Nat} {l : List (Nat × Nat)} (h : nested (x :: l) = true) : nested l = true := by
  cases l with
  | nil => rfl
  | cons y ys =>
    simp only [nested, Bool.and_eq_true] at h
    exact h.2

theorem prio_foldl {st : SrcState} (l : List Nat) {c : Catchment} (h : ∀ e ∈ c.src, e.2.prio ≤ 15) :
    ∀ e ∈ (l.foldl (fun c id => setSrc id { srcCfg c id with st := st } c) c).src, e.2.prio ≤ 15 := by
  induction l generalizing c with
  | nil => exact h
  | cons x xs ih => exact ih (prio_setSrc h (prio_srcCfg _ h))

theorem stack_foldl {st : SrcState} (l : List Nat) (c : Catchment) :
    (l.foldl (fun c id => setSrc id { srcCfg c id with st := st } c) c).stack = c.stack := by
  induction l generalizing c with
  | nil => rfl
  | cons x xs ih => exact (ih _).trans rfl

theorem srcCfgAfter_prio (who : Writer) (v : BitVec 32) {g : SrcCfg} (h : g.prio ≤ 15) : (srcCfgAfter who v g).prio ≤ 15 := by
  unfold srcCfgAfter
  split
  · exact Nat.le_of_lt_succ ((v >>> 12).setWidth 4).isLt
  · exact h

/-- What the pins of a sound state outside power-on reset say. -/
theorem counting_of_pins (h : pinsOk s = true) (hm : s.pwr.mode ≠ .aonReset) : s.bmk.counting = true := by
  unfold pinsOk at h
  cases hs : s.pwr.mode <;> simp_all

/-! ## The log rings -/

theorem put_length (b : Bytes) (o : Nat) (v : Bytes) : (put b o v).length = b.length := by
  unfold put
  simp only [List.length_append, List.length_take, List.length_drop]
  omega

theorem putAll_length {γ : Type} (f : γ → Nat × Bytes) (d : List γ) (b : Bytes) :
    (d.foldl (fun b x => put b (f x).1 (f x).2) b).length = b.length := by
  induction d generalizing b with
  | nil => rfl
  | cons x xs ih => simp [ih, put_length]

theorem leBytes_length (n v : Nat) : (leBytes n v).length = n := by
  induction n generalizing v with
  | zero => rfl
  | succ n ih => simp [leBytes, ih]

/-- Every record has 64 bytes (19 R428). -/
theorem recordBytes_length (time seq ring sev kind src bit event : Nat) (d : Detail) :
    (recordBytes time seq ring sev kind src bit event d).length = 64 := by
  unfold recordBytes
  have h1 := fun b => putAll_length (fun f : Nat × Nat × Nat => (f.1, leBytes f.2.1 f.2.2)) d b
  have h2 := fun b => putAll_length (fun f : Nat × Nat => (f.1, leBytes f.2 (2 ^ (8 * f.2) - 1))) (detailFields ring kind) b
  simp only [h1, h2]
  simp [leBytes_length]

theorem ringsOk_iff (g : Logs) : ringsOk g = true ↔ ∀ e ∈ g.rings, ∀ r ∈ e.2, r.1 < 256 ∧ r.2.length = 64 := by
  simp [ringsOk, List.all_eq_true]

theorem logRecord_keep (ring sev kind src bit event : Nat) (d : Detail) (h : Keep a s) :
    Keep a (logRecord ring sev kind src bit event d s) := by
  refine ⟨h.queue, h.fuse, h.mem, h.catchment, ?_, h.svc, h.pins⟩
  have hl := (ringsOk_iff _).1 h.log
  rw [ringsOk_iff]
  unfold logRecord
  intro e he r hr
  rcases mem_tput he with rfl | he
  · rcases mem_tput hr with rfl | hr
    · exact ⟨Nat.mod_lt _ (by decide), recordBytes_length _ _ _ _ _ _ _ _ _⟩
    · refine mem_tget (d := []) (p := fun t : Tbl Bytes => ∀ r ∈ t, r.1 < 256 ∧ r.2.length = 64) ?_ hl r hr
      intro r h
      cases h
  · exact hl e he r hr

theorem raise_keep (l : Leaf) (d : Detail) (h : Keep a s) : Keep a (raise l d s) := by
  unfold raise
  exact setAndFire_keep _ (logRecord_keep _ _ _ _ _ _ _ h)

/-- A change of the rate limits alone. -/
theorem keep_limits {t : Tbl Nat} (h : Keep a s) : Keep a { s with log := { s.log with limits := t } } :=
  ⟨h.queue, h.fuse, h.mem, h.catchment, h.log, h.svc, h.pins⟩

/-! ## The memories -/

theorem keep_fast {m : Tbl Byte} (h : Keep a s) (hm : Memory.wf s.mem.fast = true → Memory.wf m = true) :
    Keep a { s with mem := { s.mem with fast := m } } := by
  refine keep_mem (b := s) rfl rfl rfl rfl rfl rfl rfl ?_ h
  rw [memOk_iff, memOk_iff]
  exact fun ⟨h1, h2, h3, h4⟩ => ⟨hm h1, h2, h3, h4⟩

theorem keep_deep {m : Tbl Byte} (h : Keep a s) (hm : Memory.wf s.mem.deep = true → Memory.wf m = true) :
    Keep a { s with mem := { s.mem with deep := m } } := by
  refine keep_mem (b := s) rfl rfl rfl rfl rfl rfl rfl ?_ h
  rw [memOk_iff, memOk_iff]
  exact fun ⟨h1, h2, h3, h4⟩ => ⟨h1, hm h2, h3, h4⟩

theorem keep_stack {m : Tbl Byte} (h : Keep a s) (hm : Memory.wf s.mem.stack = true → Memory.wf m = true) :
    Keep a { s with mem := { s.mem with stack := m } } := by
  refine keep_mem (b := s) rfl rfl rfl rfl rfl rfl rfl ?_ h
  rw [memOk_iff, memOk_iff]
  exact fun ⟨h1, h2, h3, h4⟩ => ⟨h1, h2, hm h3, h4⟩

theorem keep_nvm {m : Tbl Byte} (h : Keep a s) (hm : Memory.wf s.mem.nvm = true → Memory.wf m = true) :
    Keep a { s with mem := { s.mem with nvm := m } } := by
  refine keep_mem (b := s) rfl rfl rfl rfl rfl rfl rfl ?_ h
  rw [memOk_iff, memOk_iff]
  exact fun ⟨h1, h2, h3, h4⟩ => ⟨h1, h2, h3, hm h4⟩

theorem setEntry_keep (x v : Nat) (h : Keep a s) : Keep a (setEntry x v s) := keep_fast h fun hm => memWf_memWrite hm _ _
theorem writeFast_keep (x : Nat) (bs : Bytes) (h : Keep a s) : Keep a (writeFast x bs s) := keep_fast h fun hm => memWf_memWrite hm _ _
theorem writeDeep_keep (x : Nat) (bs : Bytes) (h : Keep a s) : Keep a (writeDeep x bs s) := keep_deep h fun hm => memWf_memWrite hm _ _
theorem nvmProgram_keep (o : Nat) (bs : Bytes) (h : Keep a s) : Keep a (nvmProgram o bs s) := keep_nvm h fun hm => memWf_memWrite hm _ _

/-! ## The service function and the fuses -/

theorem svcAnswer_keep (x : SvcAnswer) (h : Keep a s) : Keep a (svcAnswer x s) :=
  keep_svc (b := s) rfl rfl rfl rfl rfl rfl rfl rfl rfl h
theorem svcBad_keep (h : Keep a s) : Keep a (svcBad s) := keep_svc (b := s) rfl rfl rfl rfl rfl rfl rfl rfl rfl h
theorem svcForeign_keep (h : Keep a s) : Keep a (svcForeign s) := keep_svc (b := s) rfl rfl rfl rfl rfl rfl rfl rfl rfl h

/-- The claim taken or ended. -/
theorem keep_claim {v : Svc} (hv : claimOk v = true) (h : Keep a s) : Keep a { s with svc := v } :=
  ⟨h.queue, h.fuse, h.mem, h.catchment, h.log, hv, h.pins⟩

theorem claimEnds_keep (h : Keep a s) : Keep a (claimEnds s) := keep_claim rfl h

theorem claimWrite_keep (rid : BitVec 16) (v : Nat) (h : Keep a s) : Keep a (claimWrite rid v s) := by
  unfold claimWrite
  repeat' split
  all_goals first | exact h | exact keep_claim rfl h

/-- The committed versions raised. -/
theorem keep_fuse {f : Fuses} (hf : fusesKept s.fuse f) (h : Keep a s) : Keep a { s with fuse := f } := by
  refine ⟨h.queue, ?_, h.mem, h.catchment, h.log, h.svc, h.pins⟩
  obtain ⟨h1, h2, h3, h4, h5⟩ := h.fuse
  obtain ⟨g1, g2, g3, g4, g5⟩ := hf
  exact ⟨g1.trans h1, g2.trans h2, g3.trans h3, Nat.le_trans h4 g4, Nat.le_trans h5 g5⟩

/-! ## Records as the commands write them -/

/-- A record that changes nothing `Keep` is about. -/
theorem keep_rec {x_bmk : Bmk} {x_cfg : Cfg} {x_cnt : Tbl Nat} {x_barrier : Tbl Barrier} {x_rgn : Tbl Rgn} {x_pair : Tbl Pair} {x_blk : Tbl Blk} {x_cap : PwrCap} {x_tier : Tbl Tier} {x_node : NodeStatus} {x_ctl : Ctl} {x_jtag : Jtag} {x_sto : Stores} {x_dir : Tbl Seq} {x_tlb : List TlbEnt} {x_chan : Tbl Chan} {x_work : Work} {x_prog : Tbl Prog} {x_installs : Tbl Install} {x_req : Tbl Req} {x_nextReq : Nat} {x_readLog : Tbl (List (Nat × Nat))} {x_key : Tbl KeySlot} {x_jx : Jx} {x_slu : Sluice} {x_traffic : Traffic} {x_datum : Datum} {x_sec : Sec} {x_dma : Tbl DmaCh} {x_saved : Option Saved} {x_free : Nat} {x_resets : Nat}
    (hb : x_bmk.counting = b.bmk.counting) (h : Keep a b) : Keep a ⟨x_bmk, b.pwr, x_cfg, b.svc, b.catchment, b.log, x_cnt, x_barrier, x_rgn, x_pair, x_blk, x_cap, x_tier, x_node, x_ctl, x_jtag, b.fuse, b.mem, x_sto, x_dir, x_tlb, x_chan, x_work, x_prog, x_installs, x_req, x_nextReq, x_readLog, x_key, x_jx, x_slu, x_traffic, x_datum, x_sec, x_dma, x_saved, x_free, x_resets, b.pending⟩ :=
  keep_mk (b := b) rfl rfl rfl rfl rfl rfl rfl hb h

/-- A record that keeps the power state and its pins. -/
theorem keep_recPwr {x_bmk : Bmk} {x_pwr : Pwr} {x_cfg : Cfg} {x_cnt : Tbl Nat} {x_barrier : Tbl Barrier} {x_rgn : Tbl Rgn} {x_pair : Tbl Pair} {x_blk : Tbl Blk} {x_cap : PwrCap} {x_tier : Tbl Tier} {x_node : NodeStatus} {x_ctl : Ctl} {x_jtag : Jtag} {x_sto : Stores} {x_dir : Tbl Seq} {x_tlb : List TlbEnt} {x_chan : Tbl Chan} {x_work : Work} {x_prog : Tbl Prog} {x_installs : Tbl Install} {x_req : Tbl Req} {x_nextReq : Nat} {x_readLog : Tbl (List (Nat × Nat))} {x_key : Tbl KeySlot} {x_jx : Jx} {x_slu : Sluice} {x_traffic : Traffic} {x_datum : Datum} {x_sec : Sec} {x_dma : Tbl DmaCh} {x_saved : Option Saved} {x_free : Nat} {x_resets : Nat}
    (hb : x_bmk.counting = b.bmk.counting) (h1 : x_pwr.mode = b.pwr.mode) (h2 : x_pwr.aonResetN = b.pwr.aonResetN)
    (h3 : x_pwr.resetN = b.pwr.resetN) (h4 : x_pwr.extestHold = b.pwr.extestHold) (h : Keep a b) : Keep a ⟨x_bmk, x_pwr, x_cfg, b.svc, b.catchment, b.log, x_cnt, x_barrier, x_rgn, x_pair, x_blk, x_cap, x_tier, x_node, x_ctl, x_jtag, b.fuse, b.mem, x_sto, x_dir, x_tlb, x_chan, x_work, x_prog, x_installs, x_req, x_nextReq, x_readLog, x_key, x_jx, x_slu, x_traffic, x_datum, x_sec, x_dma, x_saved, x_free, x_resets, b.pending⟩ :=
  keep_pwr (b := b) rfl rfl rfl rfl rfl rfl h1 h2 h3 h4 hb h

/-- A record that keeps the claim. -/
theorem keep_recSvc {x_cfg : Cfg} {x_svc : Svc} {x_cnt : Tbl Nat} {x_barrier : Tbl Barrier} {x_rgn : Tbl Rgn} {x_pair : Tbl Pair} {x_blk : Tbl Blk} {x_cap : PwrCap} {x_tier : Tbl Tier} {x_node : NodeStatus} {x_ctl : Ctl} {x_jtag : Jtag} {x_sto : Stores} {x_dir : Tbl Seq} {x_tlb : List TlbEnt} {x_chan : Tbl Chan} {x_work : Work} {x_prog : Tbl Prog} {x_installs : Tbl Install} {x_req : Tbl Req} {x_nextReq : Nat} {x_readLog : Tbl (List (Nat × Nat))} {x_key : Tbl KeySlot} {x_jx : Jx} {x_slu : Sluice} {x_traffic : Traffic} {x_datum : Datum} {x_sec : Sec} {x_dma : Tbl DmaCh} {x_saved : Option Saved} {x_free : Nat} {x_resets : Nat}
    (h1 : x_svc.owned = b.svc.owned) (h2 : x_svc.ownerRid = b.svc.ownerRid) (h : Keep a b) : Keep a ⟨b.bmk, b.pwr, x_cfg, x_svc, b.catchment, b.log, x_cnt, x_barrier, x_rgn, x_pair, x_blk, x_cap, x_tier, x_node, x_ctl, x_jtag, b.fuse, b.mem, x_sto, x_dir, x_tlb, x_chan, x_work, x_prog, x_installs, x_req, x_nextReq, x_readLog, x_key, x_jx, x_slu, x_traffic, x_datum, x_sec, x_dma, x_saved, x_free, x_resets, b.pending⟩ :=
  keep_svc (b := b) rfl rfl rfl rfl rfl h1 h2 rfl rfl h

/-- A record that keeps the log rings. -/
theorem keep_recLog {x_cfg : Cfg} {x_log : Logs} {x_cnt : Tbl Nat} {x_barrier : Tbl Barrier} {x_rgn : Tbl Rgn} {x_pair : Tbl Pair} {x_blk : Tbl Blk} {x_cap : PwrCap} {x_tier : Tbl Tier} {x_node : NodeStatus} {x_ctl : Ctl} {x_jtag : Jtag} {x_sto : Stores} {x_dir : Tbl Seq} {x_tlb : List TlbEnt} {x_chan : Tbl Chan} {x_work : Work} {x_prog : Tbl Prog} {x_installs : Tbl Install} {x_req : Tbl Req} {x_nextReq : Nat} {x_readLog : Tbl (List (Nat × Nat))} {x_key : Tbl KeySlot} {x_jx : Jx} {x_slu : Sluice} {x_traffic : Traffic} {x_datum : Datum} {x_sec : Sec} {x_dma : Tbl DmaCh} {x_saved : Option Saved} {x_free : Nat} {x_resets : Nat}
    (h1 : x_log.rings = b.log.rings) (h : Keep a b) : Keep a ⟨b.bmk, b.pwr, x_cfg, b.svc, b.catchment, x_log, x_cnt, x_barrier, x_rgn, x_pair, x_blk, x_cap, x_tier, x_node, x_ctl, x_jtag, b.fuse, b.mem, x_sto, x_dir, x_tlb, x_chan, x_work, x_prog, x_installs, x_req, x_nextReq, x_readLog, x_key, x_jx, x_slu, x_traffic, x_datum, x_sec, x_dma, x_saved, x_free, x_resets, b.pending⟩ :=
  ⟨h.queue, h.fuse, h.mem, h.catchment, (show ringsOk x_log = ringsOk b.log by simp only [ringsOk, h1]) ▸ h.log, h.svc, h.pins⟩

/-- A record that keeps the memories' form. -/
theorem keep_recMem {x_cfg : Cfg} {x_cnt : Tbl Nat} {x_barrier : Tbl Barrier} {x_rgn : Tbl Rgn} {x_pair : Tbl Pair} {x_blk : Tbl Blk} {x_cap : PwrCap} {x_tier : Tbl Tier} {x_node : NodeStatus} {x_ctl : Ctl} {x_jtag : Jtag} {x_mem : Mems} {x_sto : Stores} {x_dir : Tbl Seq} {x_tlb : List TlbEnt} {x_chan : Tbl Chan} {x_work : Work} {x_prog : Tbl Prog} {x_installs : Tbl Install} {x_req : Tbl Req} {x_nextReq : Nat} {x_readLog : Tbl (List (Nat × Nat))} {x_key : Tbl KeySlot} {x_jx : Jx} {x_slu : Sluice} {x_traffic : Traffic} {x_datum : Datum} {x_sec : Sec} {x_dma : Tbl DmaCh} {x_saved : Option Saved} {x_free : Nat} {x_resets : Nat}
    (h1 : Memory.wf b.mem.fast = true → Memory.wf x_mem.fast = true) (h2 : Memory.wf b.mem.deep = true → Memory.wf x_mem.deep = true)
    (h3 : Memory.wf b.mem.stack = true → Memory.wf x_mem.stack = true) (h4 : Memory.wf b.mem.nvm = true → Memory.wf x_mem.nvm = true) (h : Keep a b) : Keep a ⟨b.bmk, b.pwr, x_cfg, b.svc, b.catchment, b.log, x_cnt, x_barrier, x_rgn, x_pair, x_blk, x_cap, x_tier, x_node, x_ctl, x_jtag, b.fuse, x_mem, x_sto, x_dir, x_tlb, x_chan, x_work, x_prog, x_installs, x_req, x_nextReq, x_readLog, x_key, x_jx, x_slu, x_traffic, x_datum, x_sec, x_dma, x_saved, x_free, x_resets, b.pending⟩ :=
  keep_mem (b := b) rfl rfl rfl rfl rfl rfl rfl (by rw [memOk_iff, memOk_iff]; exact fun ⟨g1, g2, g3, g4⟩ => ⟨h1 g1, h2 g2, h3 g3, h4 g4⟩) h

end Sys2Proof.Laws
end

