-- ==== Sys2Proof/Laws/KeepOps.lean ====
section
/-! SUPPORT. `Keep` for the shared operations, transport state, storage and maps: one lemma per definition, found by walking its own text. -/

namespace Sys2Proof.Laws

open Sys2Proof.Machine

variable {a s : State}

set_option linter.all false

/-! ## Machine/Ops.lean -/

theorem countN_keep (w : ℕ) (off : ℕ) (n : ℕ) (h : Keep a s) : Keep a (countN w off n s) := by
  unfold countN
  repeat' first
    | with_reducible assumption | fail_if_no_progress ((with_reducible apply keep_rec); rfl)

theorem count_keep (off : ℕ) (h : Keep a s) : Keep a (count off s) := by
  unfold count
  repeat' first
    | with_reducible assumption | with_reducible apply countN_keep

theorem takeFree_keep  (h : Keep a s) : KeepP a (takeFree s) := by
  unfold takeFree
  repeat' first
    | with_reducible assumption | with_reducible apply KeepP.mk' | fail_if_no_progress ((with_reducible apply keep_rec); rfl)

theorem setCause_keep (l : Leaf) (h : Keep a s) : Keep a (setCause l s) := keep_cause (d := s.catchment.dis) h

theorem dropCause_keep (l : Leaf) (h : Keep a s) : Keep a (dropCause l s) := keep_cause (d := s.catchment.dis) h

theorem raiseCount_keep (l : Leaf) (off : ℕ) (d : Detail) (h : Keep a s) : Keep a (raiseCount l off d s) := by
  unfold raiseCount
  repeat' first
    | with_reducible assumption | with_reducible apply count_keep | with_reducible apply raise_keep

theorem logEvent_keep (ring : ℕ) (event : ℕ) (l : Option Leaf) (d : Detail) (h : Keep a s) : Keep a (logEvent ring event l d s) := by
  unfold logEvent
  repeat' first
    | with_reducible assumption | with_reducible apply logRecord_keep | with_reducible apply setAndFire_keep | split

theorem stateRefused_keep (l : Leaf) (slot : Option ℕ) (o : RefusedObj) (h : Keep a s) : Keep a (stateRefused l slot o s) := by
  unfold stateRefused
  repeat' first
    | with_reducible assumption | with_reducible apply setAndFire_keep | with_reducible apply logRecord_keep | with_reducible apply count_keep | split

theorem setRgn_keep (r : ℕ) (g : Rgn) (h : Keep a s) : Keep a (setRgn r g s) := by
  unfold setRgn
  repeat' first
    | with_reducible assumption | fail_if_no_progress ((with_reducible apply keep_rec); rfl)

theorem markBusy_keep (r : ℕ) (h : Keep a s) : Keep a (markBusy r s) := by
  unfold markBusy
  repeat' first
    | with_reducible assumption | intro _ | with_reducible apply setRgn_keep | dsimp only [id_eq]

theorem tick_keep (h : Keep a s) : Keep a (tick s) := by
  unfold tick
  refine keep_ite (fun _ => keep_ite (fun _ => keep_rec rfl h) fun _ => keep_rec ?_ h) fun _ => h
  unfold slewTick
  split
  · rfl
  · dsimp only
    split <;> rfl

/-! ## Machine/Net.lean -/

theorem countTenant_keep (t : ℕ) (o : ℕ) (h : Keep a s) : Keep a (countTenant t o s) := by
  unfold countTenant
  repeat' first
    | with_reducible assumption | with_reducible apply count_keep | split

theorem joinEq_keep (q : ℕ) (p : QPkt) (h : Keep a s) : Keep a (joinEq q p s) := by
  unfold joinEq
  repeat' first
    | with_reducible assumption | split | dsimp only [id_eq] | fail_if_no_progress ((with_reducible apply keep_rec); rfl)

theorem joinControl_keep (port : ℕ) (p : QPkt) (h : Keep a s) : Keep a (joinControl port p s) := by
  unfold joinControl
  repeat' first
    | with_reducible assumption | dsimp only [id_eq] | fail_if_no_progress ((with_reducible apply keep_rec); rfl)

theorem queuePkt_keep (p : Pkt) (part : Option (ℕ × Bool)) (again : Bool) (h : Keep a s) : Keep a (queuePkt p part again s) := by
  unfold queuePkt
  repeat' first
    | with_reducible assumption | intro _ | with_reducible apply joinControl_keep | with_reducible apply joinEq_keep | with_reducible apply keep_ite
    | split | dsimp only [id_eq]

theorem takeMsgId_keep (die : ℕ) (h : Keep a s) : KeepP a (takeMsgId die s) := by
  unfold takeMsgId
  repeat' first
    | with_reducible assumption | with_reducible apply KeepP.mk' | dsimp only [id_eq] | fail_if_no_progress ((with_reducible apply keep_rec); rfl)

theorem transmit_keep (id : ℕ) (idx : ℕ) (a_ : ℕ) (h : Keep a s) : Keep a (transmit id idx a_ s) := by
  unfold transmit
  repeat' first
    | with_reducible assumption | intro _ | with_reducible apply queuePkt_keep | with_reducible apply Keep.getD | split | dsimp only [id_eq]
    | fail_if_no_progress ((with_reducible apply keep_rec); rfl)

theorem pumpPkts_keep (id : ℕ) (p1 : List ℕ) (h : Keep a s) : Keep a (pumpPkts id p1 s) := by
  induction p1 generalizing s with
  | nil =>
    unfold pumpPkts
    repeat' first
      | with_reducible assumption | intro _ | with_reducible apply transmit_keep | with_reducible apply keep_ite | split | dsimp only [id_eq]
      | fail_if_no_progress ((with_reducible apply keep_rec); rfl)
  | cons _ _ ih =>
    unfold pumpPkts
    repeat' first
      | with_reducible assumption | intro _ | (apply ih) | with_reducible apply transmit_keep | with_reducible apply keep_ite | split
      | dsimp only [id_eq] | fail_if_no_progress ((with_reducible apply keep_rec); rfl)

theorem startMsg_keep (id : ℕ) (h : Keep a s) : Keep a (startMsg id s) := by
  unfold startMsg
  repeat' first
    | with_reducible assumption | intro _ | with_reducible apply pumpPkts_keep | with_reducible apply keep_ite | split | dsimp only [id_eq]

theorem keyRefused_keep (op : ℕ) (h : Keep a s) : Keep a (keyRefused op s) := by
  unfold keyRefused
  repeat' first
    | with_reducible assumption | intro _ | with_reducible apply raise_keep | with_reducible apply keep_ite

theorem sendMsg_keep (die : ℕ) (m : OutMsg) (h : Keep a s) : KeepP a (sendMsg die m s) := by
  unfold sendMsg
  repeat' first
    | with_reducible assumption | intro _ | with_reducible apply raise_keep | with_reducible apply keyRefused_keep
    | with_reducible apply takeMsgId_keep | with_reducible apply startMsg_keep | ((with_reducible apply Keep.out); with_reducible assumption)
    | with_reducible apply keepP_ite | split | with_reducible apply KeepP.mk' | dsimp only [id_eq]
    | fail_if_no_progress ((with_reducible apply keep_rec); rfl)

theorem sendOnce_keep (die : ℕ) (op : ℕ) (dst : ℕ) (tenant : ℕ) (imm : ℕ) (epoch : ℕ) (src : Option (BitVec 128)) (part : Option (ℕ × Bool)) (data : Bytes) (h : Keep a s) : Keep a (sendOnce die op dst tenant imm epoch src part data s) := by
  unfold sendOnce
  repeat' first
    | with_reducible assumption | intro _ | with_reducible apply keyRefused_keep | with_reducible apply queuePkt_keep
    | ((with_reducible apply KeepP.snd); with_reducible apply takeMsgId_keep) | with_reducible apply keep_foldl | with_reducible apply keep_ite

theorem sendAllPorts_keep (die : ℕ) (op : ℕ) (dst : ℕ) (data : Bytes) (h : Keep a s) : Keep a (sendAllPorts die op dst data s) := by
  unfold sendAllPorts
  repeat' first
    | with_reducible assumption | intro _ | with_reducible apply keyRefused_keep | with_reducible apply takeMsgId_keep
    | with_reducible apply joinControl_keep | ((with_reducible apply Keep.out); with_reducible assumption) | with_reducible apply keep_foldl
    | with_reducible apply keepP_foldl | with_reducible apply keep_ite | with_reducible apply keepP_ite | split
    | ((with_reducible apply KeepP.snd); with_reducible apply takeMsgId_keep) | with_reducible apply KeepP.mk' | dsimp only [id_eq]

theorem sendBack_keep (op : ℕ) (dst : ℕ) (path : ℕ) (addr : BitVec 128) (ce : Bool) (data : Bytes) (h : Keep a s) : Keep a (sendBack op dst path addr ce data s) := by
  unfold sendBack
  repeat' first
    | with_reducible assumption | intro _ | with_reducible apply keyRefused_keep | with_reducible apply queuePkt_keep | with_reducible apply keep_ite

/-! ## Machine/Store.lean -/

theorem useFast_keep (a_ : ℕ) (size : ℕ) (tenant : ℕ) (u : StoreUse) (h : Keep a s) : Keep a (useFast a_ size tenant u s) := by
  unfold useFast
  repeat' first
    | with_reducible assumption | dsimp only [id_eq] | fail_if_no_progress ((with_reducible apply keep_rec); rfl)

theorem useDeep_keep (a_ : ℕ) (size : ℕ) (tenant : ℕ) (u : StoreUse) (h : Keep a s) : Keep a (useDeep a_ size tenant u s) := by
  unfold useDeep
  repeat' first
    | with_reducible assumption | dsimp only [id_eq] | fail_if_no_progress ((with_reducible apply keep_rec); rfl)

theorem noteAliased_keep (a_ : ℕ) (n : ℕ) (h : Keep a s) : Keep a (noteAliased a_ n s) := by
  unfold noteAliased
  repeat' first
    | with_reducible assumption | intro _ | with_reducible apply count_keep | with_reducible apply keep_ite | split | dsimp only [id_eq]

theorem takePageFrame_keep (f : FrameFound) (home : ℕ) (size : ℕ) (tenant : ℕ) (u : StoreUse) (h : Keep a s) : Keep a (takePageFrame f home size tenant u s) := by
  unfold takePageFrame
  repeat' first
    | with_reducible assumption | intro _ | with_reducible apply useFast_keep | with_reducible apply count_keep | with_reducible apply keep_ite

theorem takeZeroed_keep (a_ : ℕ) (size : ℕ) (slot : ℕ) (tenant : ℕ) (h : Keep a s) : Keep a (takeZeroed a_ size slot tenant s) := by
  unfold takeZeroed
  exact keep_recMem (fun h => memWf_memZero h _ _) (fun h => h) (fun h => h) (fun h => h) (useFast_keep _ _ _ _ (noteAliased_keep _ _ h))

theorem takeUnits_keep (r : ℕ) (slot : ℕ) (tenant : ℕ) (n : ℕ) (h : Keep a s) : KeepOP a (takeUnits r slot tenant n s) := by
  unfold takeUnits
  repeat' first
    | with_reducible assumption | intro _ | with_reducible apply takeZeroed_keep | with_reducible apply keepOP_foldl
    | with_reducible exact KeepOP.out ‹KeepOP a (some (_, _))› _ _ rfl | with_reducible apply keepOP_map | split | with_reducible apply KeepOP.mk'
    | with_reducible apply KeepP.mk'

theorem takeSpan_keep (r : ℕ) (slot : ℕ) (tenant : ℕ) (n : ℕ) (h : Keep a s) : KeepOP a (takeSpan r slot tenant n s) := by
  unfold takeSpan
  repeat' first
    | with_reducible assumption | intro _ | with_reducible apply takeZeroed_keep | with_reducible apply keepOP_map | with_reducible apply KeepP.mk'

theorem releaseFast_keep (sealed_ : Bool) (a_ : ℕ) (h : Keep a s) : Keep a (releaseFast sealed_ a_ s) := by
  unfold releaseFast
  repeat' first
    | with_reducible assumption | intro _ | with_reducible apply keep_ite | split | dsimp only [id_eq]
    | fail_if_no_progress ((with_reducible apply keep_rec); rfl)

theorem releaseDeep_keep (sealed_ : Bool) (a_ : ℕ) (h : Keep a s) : Keep a (releaseDeep sealed_ a_ s) := by
  unfold releaseDeep
  repeat' first
    | with_reducible assumption | intro _ | with_reducible apply keep_ite | split | dsimp only [id_eq]
    | fail_if_no_progress ((with_reducible apply keep_rec); rfl)

theorem setSeq_keep (slot : ℕ) (q : Machine.Seq) (h : Keep a s) : Keep a (setSeq slot q s) := by
  unfold setSeq
  repeat' first
    | with_reducible assumption | fail_if_no_progress ((with_reducible apply keep_rec); rfl)

theorem stopUnitJob_keep (j : UnitJob) (h : Keep a s) : Keep a (stopUnitJob j s) := by
  unfold stopUnitJob
  repeat' first
    | with_reducible assumption | dsimp only [id_eq] | fail_if_no_progress ((with_reducible apply keep_rec); rfl)

theorem releaseSeq_keep (slot : ℕ) (h : Keep a s) : Keep a (releaseSeq slot s) := by
  unfold releaseSeq
  repeat' first
    | with_reducible assumption | intro _ | with_reducible apply stopUnitJob_keep | with_reducible apply setSeq_keep | with_reducible apply keep_ite
    | dsimp only [id_eq] | fail_if_no_progress ((with_reducible apply keep_rec); rfl)

theorem sweepMoved_keep  (h : Keep a s) : Keep a (sweepMoved s) := by
  unfold sweepMoved
  repeat' first
    | with_reducible assumption | intro _ | with_reducible apply releaseSeq_keep | with_reducible apply keep_foldl | with_reducible apply keep_ite
    | dsimp only [id_eq] | fail_if_no_progress ((with_reducible apply keep_rec); rfl)

theorem enterSeq_keep (slot : ℕ) (h : Keep a s) : Keep a (enterSeq slot s) := by
  unfold enterSeq
  repeat' first
    | with_reducible assumption | with_reducible apply setSeq_keep

theorem leaveSeq_keep (slot : ℕ) (h : Keep a s) : Keep a (leaveSeq slot s) := by
  unfold leaveSeq
  repeat' first
    | with_reducible assumption | intro _ | with_reducible apply sweepMoved_keep | with_reducible apply setSeq_keep | dsimp only [id_eq]

theorem setTen_keep (slot : ℕ) (ti : ℕ) (t : Ten) (h : Keep a s) : Keep a (setTen slot ti t s) := by
  unfold setTen
  repeat' first
    | with_reducible assumption | with_reducible apply setSeq_keep

theorem leafSlot_keep (slot : ℕ) (sv : ℕ) (h : Keep a s) : KeepOP a (leafSlot slot sv s) := by
  unfold leafSlot
  repeat' first
    | with_reducible assumption | intro _ | with_reducible apply takeUnits_keep | with_reducible apply setEntry_keep
    | ((with_reducible apply Keep.outO); with_reducible assumption) | ((with_reducible apply Keep.outOP); with_reducible assumption)
    | with_reducible apply keepO_ite | split | with_reducible apply KeepO.mk' | with_reducible apply KeepO.none_ | with_reducible apply KeepOP.mk'
    | with_reducible apply KeepOP.none_ | dsimp only [id_eq]

theorem setLeaf_keep (slot : ℕ) (ti : ℕ) (idx : ℕ) (leaf : ℕ) (h : Keep a s) : KeepO a (setLeaf slot ti idx leaf s) := by
  unfold setLeaf
  repeat' first
    | with_reducible assumption | intro _ | with_reducible apply setEntry_keep | with_reducible apply leafSlot_keep
    | ((with_reducible apply Keep.outOP); with_reducible assumption) | with_reducible apply keepO_map

theorem tlbDropPage_keep (slot : ℕ) (vpn : ℕ) (h : Keep a s) : Keep a (tlbDropPage slot vpn s) := by
  unfold tlbDropPage
  repeat' first
    | with_reducible assumption | intro _ | dsimp only [id_eq] | fail_if_no_progress ((with_reducible apply keep_rec); rfl)

theorem tlbDropSlot_keep (slot : ℕ) (h : Keep a s) : Keep a (tlbDropSlot slot s) := by
  unfold tlbDropSlot
  repeat' first
    | with_reducible assumption | fail_if_no_progress ((with_reducible apply keep_rec); rfl)

theorem walkerFill_keep (region : ℕ) (slot : ℕ) (sv : ℕ) (h : Keep a s) : Keep a (walkerFill region slot sv s) := by
  unfold walkerFill
  repeat' first
    | with_reducible assumption | intro _ | with_reducible apply keep_ite | split | dsimp only [id_eq]
    | fail_if_no_progress ((with_reducible apply keep_rec); rfl)

theorem walkIn_keep (region : ℕ) (slot : ℕ) (sv : ℕ) (h : Keep a s) : KeepP a (walkIn region slot sv s) := by
  unfold walkIn
  repeat' first
    | with_reducible assumption | intro _ | with_reducible apply walkerFill_keep | with_reducible apply KeepP.mk' | dsimp only [id_eq]

theorem translate_keep (slot : ℕ) (vpn : ℕ) (sv : ℕ) (region : ℕ) (block : ℕ) (h : Keep a s) : KeepP a (Machine.translate slot vpn sv region block s) := by
  unfold Machine.translate
  repeat' first
    | with_reducible assumption | intro _ | with_reducible apply walkIn_keep | ((with_reducible apply Keep.out); with_reducible assumption) | split
    | ((with_reducible apply KeepP.snd); with_reducible apply walkIn_keep) | with_reducible apply KeepP.mk' | dsimp only [id_eq]
    | fail_if_no_progress ((with_reducible apply keep_rec); rfl)

theorem dirtyPage_keep (slot : ℕ) (ti : ℕ) (idx : ℕ) (h : Keep a s) : Keep a (dirtyPage slot ti idx s) := by
  unfold dirtyPage
  repeat' first
    | with_reducible assumption | intro _ | with_reducible apply setTen_keep | with_reducible apply keep_ite

theorem setTokens_keep (r : ℕ) (p : ℕ) (v : ℕ) (h : Keep a s) : Keep a (setTokens r p v s) := by
  unfold setTokens
  repeat' first
    | with_reducible assumption | intro _ | dsimp only [id_eq] | fail_if_no_progress ((with_reducible apply keep_rec); rfl)

/-! ## Machine/Crypt.lean -/

theorem writeFastFor_keep (tenant : ℕ) (a_ : ℕ) (bs : Bytes) (h : Keep a s) : Keep a (writeFastFor tenant a_ bs s) := by
  unfold writeFastFor
  repeat' first
    | with_reducible assumption | with_reducible apply writeFast_keep | split

theorem setWin_keep (id : ℕ) (w : Window) (h : Keep a s) : Keep a (setWin id w s) := by
  unfold setWin
  repeat' first
    | with_reducible assumption | dsimp only [id_eq] | fail_if_no_progress ((with_reducible apply keep_rec); rfl)

theorem winWrite_keep (id : ℕ) (off : ℕ) (bs : Bytes) (h : Keep a s) : Keep a (winWrite id off bs s) := by
  unfold winWrite
  repeat' first
    | with_reducible assumption | intro _ | with_reducible apply writeFastFor_keep | with_reducible apply keep_foldlFst

theorem takeWinFrames_keep (r : ℕ) (id : ℕ) (tenant : ℕ) (n : ℕ) (h : Keep a s) : KeepOP a (takeWinFrames r id tenant n s) := by
  unfold takeWinFrames
  refine keepOP_foldl (KeepOP.mk' h) fun acc _ hacc => ?_
  split
  · exact KeepOP.none_
  · have h := KeepOP.out hacc _ _ rfl
    exact keepOP_map fun _ _ => KeepP.mk' (useFast_keep _ _ _ _ (noteAliased_keep _ _ h))

theorem takeBacking_keep (id : ℕ) (tenant : ℕ) (len : ℕ) (h : Keep a s) : KeepOP a (takeBacking id tenant len s) := by
  unfold takeBacking
  repeat' first
    | with_reducible assumption | intro _ | with_reducible apply takeWinFrames_keep | with_reducible apply keepOP_findSome
    | with_reducible apply keepOP_ite | with_reducible apply KeepOP.none_

theorem openWindow_keep (kind : ℕ) (tenant : ℕ) (len : ℕ) (h : Keep a s) : KeepOP a (openWindow kind tenant len s) := by
  unfold openWindow
  repeat' first
    | with_reducible assumption | intro _ | with_reducible apply takeBacking_keep | with_reducible apply setWin_keep
    | with_reducible apply writeFastFor_keep | with_reducible apply keep_foldl | ((with_reducible apply Keep.outOP); with_reducible assumption)
    | split | with_reducible apply KeepOP.mk' | with_reducible apply KeepOP.none_

/-! ## Machine/Entries.lean -/

theorem setEntryRec_keep (x : ℕ) (e : Entry) (h : Keep a s) : Keep a (setEntryRec x e s) := by
  unfold setEntryRec
  repeat' first
    | with_reducible assumption | dsimp only [id_eq] | fail_if_no_progress ((with_reducible apply keep_rec); rfl)

theorem setInst_keep (i : ℕ) (x : Inst) (h : Keep a s) : Keep a (setInst i x s) := by
  unfold setInst
  repeat' first
    | with_reducible assumption | dsimp only [id_eq] | fail_if_no_progress ((with_reducible apply keep_rec); rfl)

theorem refuseN_keep (die : ℕ) (tenant : ℕ) (object : ℕ) (found : ℕ) (command : ℕ) (id : ℕ) (msg : Option EnMsg) (h : Keep a s) : Keep a (refuseN die tenant object found command id msg s) := by
  unfold refuseN
  repeat' first
    | with_reducible assumption | with_reducible apply stateRefused_keep

theorem refuseR_keep (r : ℕ) (tenant : ℕ) (object : ℕ) (found : ℕ) (command : ℕ) (id : ℕ) (tensor : Option (ℕ × ℕ)) (who : optParam Who none) (h : Keep a s) : Keep a (refuseR r tenant object found command id tensor s who) := by
  unfold refuseR
  repeat' first
    | with_reducible assumption | intro _ | with_reducible apply stateRefused_keep | with_reducible apply keepO_map | with_reducible apply keepOP_map
    | with_reducible apply keepOQ_map | dsimp only [id_eq]

theorem refuseC_keep (tenant : ℕ) (object : ℕ) (found : ℕ) (command : ℕ) (id : ℕ) (who : optParam Who none) (h : Keep a s) : Keep a (refuseC tenant object found command id s who) := by
  unfold refuseC
  repeat' first
    | with_reducible assumption | intro _ | with_reducible apply stateRefused_keep | with_reducible apply keepO_map | with_reducible apply keepOP_map
    | with_reducible apply keepOQ_map | dsimp only [id_eq]

theorem complLost_keep (x : ℕ) (h : Keep a s) : Keep a (complLost x s) := by
  unfold complLost
  repeat' first
    | with_reducible assumption | with_reducible apply count_keep

theorem sendRec_keep (x : ℕ) (tenant : ℕ) (dest : Bytes) (part : ℕ × Bool) (offset : ℕ) (data : Bytes) (h : Keep a s) : Keep a (sendRec x tenant dest part offset data s) := by
  unfold sendRec
  repeat' first
    | with_reducible assumption | with_reducible apply sendMsg_keep | with_reducible apply complLost_keep
    | ((with_reducible apply Keep.out); with_reducible assumption) | split | dsimp only [id_eq]

theorem postedRec_keep (x : ℕ) (status : ℕ) (op : ℕ) (action : ℕ) (command : Bool) (rep : Bool) (single : Bool) (arg : ℕ) (enId : ℕ) (result : ℕ) (lc : Bool) (h : Keep a s) : Keep a (postedRec x status op action command rep single arg enId result lc s) := by
  unfold postedRec
  repeat' first
    | with_reducible assumption | with_reducible apply setEntryRec_keep | with_reducible apply sendRec_keep

theorem stagedRec_keep (x : ℕ) (tenant : ℕ) (status : ℕ) (staged : Bytes) (arg : ℕ) (enId : ℕ) (h : Keep a s) : Keep a (stagedRec x tenant status staged arg enId s) := by
  unfold stagedRec
  repeat' first
    | with_reducible assumption | with_reducible apply sendRec_keep

theorem ringWrite_keep (status : ℕ) (opcode : ℕ) (tag : ℕ) (result : Bytes) (h : Keep a s) : Keep a (ringWrite status opcode tag result s) := by
  unfold ringWrite
  repeat' first
    | with_reducible assumption | dsimp only [id_eq] | fail_if_no_progress ((with_reducible apply keep_rec); rfl)

theorem deferredEnd_keep (opcode : ℕ) (obj : ℕ) (status : ℕ) (result : Bytes) (h : Keep a s) : Keep a (deferredEnd opcode obj status result s) := by
  unfold deferredEnd
  repeat' first
    | with_reducible assumption | with_reducible apply ringWrite_keep | split | dsimp only [id_eq]
    | fail_if_no_progress ((with_reducible apply keep_rec); rfl)

theorem acceptEnable_keep (x : ℕ) (arg : ℕ) (msg : Option EnMsg) (lc : Bool) (h : Keep a s) : Keep a (acceptEnable x arg msg lc s) := by
  unfold acceptEnable
  repeat' first
    | with_reducible assumption | intro _ | with_reducible apply count_keep | with_reducible apply postedRec_keep
    | with_reducible apply setEntryRec_keep | with_reducible apply setWin_keep | with_reducible apply keep_ite | split | dsimp only [id_eq]
    | fail_if_no_progress ((with_reducible apply keep_rec); rfl)

theorem eventEnable_keep (x : ℕ) (arg : ℕ) (h : Keep a s) : Keep a (eventEnable x arg s) := by
  unfold eventEnable
  repeat' first
    | with_reducible assumption | intro _ | with_reducible apply postedRec_keep | with_reducible apply acceptEnable_keep
    | with_reducible apply count_keep | with_reducible apply keep_ite | split | dsimp only [id_eq]

theorem eventAll_keep (k : ℕ) (src : ℕ) (h : Keep a s) : Keep a (eventAll k src s) := by
  unfold eventAll
  repeat' first
    | with_reducible assumption | intro _ | with_reducible apply eventEnable_keep | with_reducible apply keep_foldl

theorem doneReading_keep (i : ℕ) (h : Keep a s) : Keep a (doneReading i s) := by
  unfold doneReading
  repeat' first
    | with_reducible assumption | intro _ | with_reducible apply setInst_keep | with_reducible apply setWin_keep | with_reducible apply keep_ite
    | split

theorem dropInst_keep (i : ℕ) (h : Keep a s) : Keep a (dropInst i s) := by
  unfold dropInst
  repeat' first
    | with_reducible assumption | intro _ | with_reducible apply leaveSeq_keep | with_reducible apply doneReading_keep
    | with_reducible apply keep_foldl | split | dsimp only [id_eq] | fail_if_no_progress ((with_reducible apply keep_rec); rfl)

theorem acct_keep (tenant : ℕ) (w : ℕ) (o : ℕ) (n : ℕ) (h : Keep a s) : Keep a (acct tenant w o n s) := by
  unfold acct
  repeat' first
    | with_reducible assumption | with_reducible apply countN_keep | split

theorem endInst_keep (i : ℕ) (k : ℕ) (status : ℕ) (h : Keep a s) : Keep a (endInst i k status s) := by
  unfold endInst
  repeat' first
    | with_reducible assumption | intro _ | with_reducible apply dropInst_keep | with_reducible apply deferredEnd_keep
    | with_reducible apply acct_keep | with_reducible apply postedRec_keep | with_reducible apply eventEnable_keep
    | ((with_reducible apply Keep.out); with_reducible assumption) | ((with_reducible apply Keep.outO); with_reducible assumption)
    | ((with_reducible apply Keep.outOP); with_reducible assumption) | ((with_reducible apply Keep.outOQ); with_reducible assumption)
    | with_reducible exact KeepOP.out ‹KeepOP a (some (_, _))› _ _ rfl | ((with_reducible apply Keep.outOPs); with_reducible assumption)
    | ((with_reducible apply Keep.outOQs); with_reducible assumption) | with_reducible apply Keep.getD | with_reducible apply keep_foldl
    | with_reducible apply keepP_foldl | with_reducible apply keepOP_foldl | with_reducible apply keepO_foldl | with_reducible apply keepO_map
    | with_reducible apply keepOP_map | with_reducible apply keepOQ_map | with_reducible apply keep_ite | with_reducible apply keepP_ite
    | with_reducible apply keepO_ite | with_reducible apply keepOP_ite | split | with_reducible apply KeepP.mk' | with_reducible apply KeepO.mk'
    | with_reducible apply KeepO.none_ | with_reducible apply KeepOP.mk' | with_reducible apply KeepOP.none_ | with_reducible apply KeepOP.mkP
    | with_reducible apply KeepOQ.mk' | with_reducible apply KeepOQ.none_ | dsimp only [id_eq]

theorem advanceInst_keep (i : ℕ) (h : Keep a s) : Keep a (advanceInst i s) := by
  unfold advanceInst
  repeat' first
    | with_reducible assumption | intro _ | with_reducible apply endInst_keep | with_reducible apply setInst_keep | with_reducible apply keep_ite
    | split | dsimp only [id_eq]

theorem actDone_keep (i : ℕ) (k : ℕ) (status : ℕ) (rep : Bool) (single : Bool) (result : ℕ) (h : Keep a s) : Keep a (actDone i k status rep single result s) := by
  unfold actDone
  repeat' first
    | with_reducible assumption | intro _ | with_reducible apply advanceInst_keep | with_reducible apply setInst_keep | split | dsimp only [id_eq]

theorem actEnd_keep (i : ℕ) (k : ℕ) (status : ℕ) (h : Keep a s) : Keep a (actEnd i k status s) := by
  unfold actEnd
  repeat' first
    | with_reducible assumption | with_reducible apply actDone_keep

theorem actBusy_keep (i : ℕ) (k : ℕ) (h : Keep a s) : Keep a (actBusy i k s) := by
  unfold actBusy
  repeat' first
    | with_reducible assumption | with_reducible apply setInst_keep | split

theorem endBusy_keep (i : ℕ) (op : ℕ) (status : ℕ) (rep : Bool) (single : Bool) (result : ℕ) (h : Keep a s) : Keep a (endBusy i op status rep single result s) := by
  unfold endBusy
  repeat' first
    | with_reducible assumption | with_reducible apply actDone_keep | split

theorem newInst_keep (x : Inst) (h : Keep a s) : KeepP a (newInst x s) := by
  unfold newInst
  repeat' first
    | with_reducible assumption | with_reducible apply KeepP.mk' | dsimp only [id_eq] | fail_if_no_progress ((with_reducible apply keep_rec); rfl)

theorem drainEntry_keep (x : ℕ) (h : Keep a s) : Keep a (drainEntry x s) := by
  unfold drainEntry
  repeat' first
    | with_reducible assumption | intro _ | with_reducible apply setEntryRec_keep | with_reducible apply keep_ite

theorem windowGone_keep (id : ℕ) (gen : ℕ) (h : Keep a s) : Keep a (windowGone id gen s) := by
  unfold windowGone
  repeat' first
    | with_reducible assumption | intro _ | with_reducible apply count_keep | with_reducible apply drainEntry_keep | with_reducible apply keep_foldl

theorem startDrainWin_keep (id : ℕ) (h : Keep a s) : Keep a (startDrainWin id s) := by
  unfold startDrainWin
  repeat' first
    | with_reducible assumption | intro _ | with_reducible apply setWin_keep | with_reducible apply keep_ite

/-! ## Machine/Maps.lean -/

theorem setComp_keep (c : ℕ) (x : Comp) (h : Keep a s) : Keep a (setComp c x s) := by
  unfold setComp
  repeat' first
    | with_reducible assumption | dsimp only [id_eq] | fail_if_no_progress ((with_reducible apply keep_rec); rfl)

theorem askMap_keep (c : ℕ) (f : Fetch) (h : Keep a s) : Keep a (askMap c f s) := by
  unfold askMap
  repeat' first
    | with_reducible assumption | intro _ | with_reducible apply sendMsg_keep | with_reducible apply setComp_keep
    | ((with_reducible apply Keep.out); with_reducible assumption) | split | ((with_reducible apply KeepP.snd); with_reducible apply sendMsg_keep)
    | with_reducible apply KeepP.mk' | dsimp only [id_eq]

theorem startFetch_keep (c : ℕ) (src : ℕ) (addr : BitVec 128) (h : Keep a s) : Keep a (startFetch c src addr s) := by
  unfold startFetch
  repeat' first
    | with_reducible assumption | intro _ | with_reducible apply askMap_keep | with_reducible apply setComp_keep | with_reducible apply keep_ite

theorem redirect_keep (c : ℕ) (m : DMap) (tenant : ℕ) (tag : ℕ) (lo : ℕ) (hi : ℕ) (q : Routed) (h : Keep a s) : Keep a (redirect c m tenant tag lo hi q s) := by
  unfold redirect
  repeat' first
    | with_reducible assumption | with_reducible apply sendOnce_keep | with_reducible apply countTenant_keep

theorem epochCheck_keep (tenant : ℕ) (tag : ℕ) (lo : ℕ) (hi : ℕ) (last : ℕ) (q : Routed) (h : Keep a s) : KeepP a (epochCheck tenant tag lo hi last q s) := by
  unfold epochCheck
  repeat' first
    | with_reducible assumption | intro _ | with_reducible apply raise_keep | with_reducible apply countTenant_keep
    | with_reducible apply startFetch_keep | with_reducible apply redirect_keep | with_reducible apply Keep.getD | with_reducible apply keepO_map
    | with_reducible apply keepOP_map | with_reducible apply keepOQ_map | with_reducible apply keep_ite | with_reducible apply keepP_ite | split
    | with_reducible apply KeepP.mk' | dsimp only [id_eq]

/-! ## Machine/Free.lean -/

theorem reuseFast_keep (a_ : ℕ) (u : StoreUse) (h : Keep a s) : Keep a (reuseFast a_ u s) := by
  unfold reuseFast
  repeat' first
    | with_reducible assumption | dsimp only [id_eq] | fail_if_no_progress ((with_reducible apply keep_rec); rfl)

theorem giveFrame_keep (sealed_ : Bool) (a_ : ℕ) (h : Keep a s) : Keep a (giveFrame sealed_ a_ s) := by
  unfold giveFrame
  repeat' first
    | with_reducible assumption | intro _ | with_reducible apply reuseFast_keep | with_reducible apply releaseFast_keep | split | dsimp only [id_eq]

theorem dropFrame_keep (a_ : ℕ) (h : Keep a s) : Keep a (dropFrame a_ s) := by
  unfold dropFrame
  repeat' first
    | with_reducible assumption | intro _ | with_reducible apply giveFrame_keep | split | dsimp only [id_eq]

theorem retireFrame_keep (a_ : ℕ) (h : Keep a s) : Keep a (retireFrame a_ s) := by
  unfold retireFrame
  repeat' first
    | with_reducible assumption | intro _ | with_reducible apply reuseFast_keep | split | dsimp only [id_eq]
    | fail_if_no_progress ((with_reducible apply keep_rec); rfl)

theorem dropDeep_keep (a_ : ℕ) (h : Keep a s) : Keep a (dropDeep a_ s) := by
  unfold dropDeep
  repeat' first
    | with_reducible assumption | with_reducible apply releaseDeep_keep | split

theorem retireDeep_keep (a_ : ℕ) (h : Keep a s) : Keep a (retireDeep a_ s) := by
  unfold retireDeep
  repeat' first
    | with_reducible assumption | intro _ | split | dsimp only [id_eq] | fail_if_no_progress ((with_reducible apply keep_rec); rfl)

theorem nameOn_keep (a_ : ℕ) (size : ℕ) (h : Keep a s) : Keep a (nameOn a_ size s) := by
  unfold nameOn
  repeat' first
    | with_reducible assumption | intro _ | with_reducible apply keep_ite | split | dsimp only [id_eq]
    | fail_if_no_progress ((with_reducible apply keep_rec); rfl)

theorem nameOff_keep (a_ : ℕ) (h : Keep a s) : Keep a (nameOff a_ s) := by
  unfold nameOff
  repeat' first
    | with_reducible assumption | intro _ | with_reducible apply keep_ite | split | dsimp only [id_eq]
    | fail_if_no_progress ((with_reducible apply keep_rec); rfl)

theorem dropRef_keep (key : ℕ) (h : Keep a s) : Keep a (dropRef key s) := by
  unfold dropRef
  repeat' first
    | with_reducible assumption | intro _ | with_reducible apply nameOff_keep | with_reducible apply reuseFast_keep
    | with_reducible apply releaseFast_keep | with_reducible apply keep_ite | split | dsimp only [id_eq]
    | fail_if_no_progress ((with_reducible apply keep_rec); rfl)

theorem dropCoded_keep (slot : ℕ) (ti : ℕ) (idx : ℕ) (name : ℕ) (h : Keep a s) : Keep a (dropCoded slot ti idx name s) := by
  unfold dropCoded
  repeat' first
    | with_reducible assumption | with_reducible apply dropRef_keep | with_reducible apply dropFrame_keep | split | dsimp only [id_eq]
    | fail_if_no_progress ((with_reducible apply keep_rec); rfl)

theorem dropPage_keep (slot : ℕ) (ti : ℕ) (idx : ℕ) (e : ℕ) (h : Keep a s) : Keep a (dropPage slot ti idx e s) := by
  unfold dropPage
  repeat' first
    | with_reducible assumption | intro _ | with_reducible apply dropCoded_keep | with_reducible apply dropFrame_keep
    | with_reducible apply nameOff_keep | with_reducible apply dropDeep_keep | with_reducible apply keep_ite

theorem dropUnits_keep (slot : ℕ) (h : Keep a s) : Keep a (dropUnits slot s) := by
  unfold dropUnits
  repeat' first
    | with_reducible assumption | intro _ | with_reducible apply dropFrame_keep | with_reducible apply keep_foldl

theorem dropStorage_keep (slot : ℕ) (h : Keep a s) : Keep a (dropStorage slot s) := by
  unfold dropStorage
  repeat' first
    | with_reducible assumption | intro _ | with_reducible apply dropPage_keep | with_reducible apply dropUnits_keep
    | with_reducible apply dropFrame_keep | with_reducible apply keep_foldl

theorem repairHit_keep (slot : ℕ) (h : Keep a s) : KeepP a (repairHit slot s) := by
  unfold repairHit
  repeat' first
    | with_reducible assumption | intro _ | with_reducible apply raiseCount_keep | with_reducible apply setSeq_keep | with_reducible apply keepP_ite
    | with_reducible apply KeepP.mk'

theorem checkedHit_keep (search : State → Option ℕ) (h : Keep a s) : KeepP a (checkedHit search s) := by
  unfold checkedHit
  repeat' first
    | with_reducible assumption | intro _ | with_reducible apply repairHit_keep | ((with_reducible apply Keep.out); with_reducible assumption) | split
    | ((with_reducible apply KeepP.snd); with_reducible apply repairHit_keep) | with_reducible apply KeepP.mk' | dsimp only [id_eq]

theorem lookSeq_keep (tenant : ℕ) (tag : ℕ) (h : Keep a s) : KeepP a (lookSeq tenant tag s) := by
  unfold lookSeq
  repeat' first
    | with_reducible assumption | intro _ | with_reducible apply checkedHit_keep | ((with_reducible apply Keep.out); with_reducible assumption)
    | ((with_reducible apply KeepP.snd); with_reducible apply checkedHit_keep) | with_reducible apply KeepP.mk' | dsimp only [id_eq]

theorem refuseSeq_keep (slot : ℕ) (tenant : ℕ) (op : ℕ) (who : optParam Who none) (h : Keep a s) : Keep a (refuseSeq slot tenant op s who) := by
  unfold refuseSeq
  repeat' first
    | with_reducible assumption | intro _ | with_reducible apply refuseR_keep | dsimp only [id_eq]

theorem refuseTen_keep (slot : ℕ) (tenant : ℕ) (ti : ℕ) (op : ℕ) (who : optParam Who none) (h : Keep a s) : Keep a (refuseTen slot tenant ti op s who) := by
  unfold refuseTen
  repeat' first
    | with_reducible assumption | intro _ | with_reducible apply refuseR_keep | dsimp only [id_eq]

theorem withdrawAll_keep (reason : ℕ) (h : Keep a s) : Keep a (withdrawAll reason s) := by
  unfold withdrawAll
  repeat' first
    | with_reducible assumption | intro _ | with_reducible apply sendAllPorts_keep | with_reducible apply keep_foldl | split

theorem drainCheck_keep (h : Keep a s) : Keep a (drainCheck s) := by
  unfold drainCheck
  repeat' first
    | with_reducible assumption | intro _ | with_reducible apply withdrawAll_keep | with_reducible apply keep_ite | split | dsimp only [id_eq]
    | fail_if_no_progress ((with_reducible apply keep_rec); rfl)

/-! ## Machine/Relay.lean -/

theorem chargeLoad_keep (r : ℕ) (bytes : ℕ) (h : Keep a s) : KeepP a (chargeLoad r bytes s) := by
  unfold chargeLoad
  repeat' first
    | with_reducible assumption | intro _ | with_reducible apply setTokens_keep | with_reducible apply Keep.getD | with_reducible apply keepO_map
    | with_reducible apply keepOP_map | with_reducible apply keepOQ_map | with_reducible apply keep_ite | with_reducible apply keepP_ite | split
    | with_reducible apply KeepP.mk' | dsimp only [id_eq] | fail_if_no_progress ((with_reducible apply keep_rec); rfl)

theorem endLoadOut_keep (key : ℕ) (h : Keep a s) : Keep a (endLoadOut key s) := by
  unfold endLoadOut
  repeat' first
    | with_reducible assumption | intro _ | with_reducible apply sweepMoved_keep | dsimp only [id_eq]
    | fail_if_no_progress ((with_reducible apply keep_rec); rfl)

theorem sealBody_keep (tenant : ℕ) (hdr : ℕ → Bytes) (body : Bytes) (h : Keep a s) : KeepOP a (sealBody tenant hdr body s) := by
  unfold sealBody
  repeat' first
    | with_reducible assumption | intro _ | with_reducible apply keepOP_ite | split | with_reducible apply KeepOP.mk'
    | with_reducible apply KeepOP.none_ | dsimp only [id_eq] | fail_if_no_progress ((with_reducible apply keep_rec); rfl)

theorem sendLoadRec_keep (key : ℕ) (kind : ℕ) (body : Bytes) (ready : optParam ℕ 0) (h : Keep a s) : Keep a (sendLoadRec key kind body s ready) := by
  unfold sendLoadRec
  repeat' first
    | with_reducible assumption | intro _ | with_reducible apply sealBody_keep | with_reducible apply endLoadOut_keep
    | with_reducible apply sendMsg_keep | ((with_reducible apply Keep.out); with_reducible assumption)
    | ((with_reducible apply Keep.outOP); with_reducible assumption) | ((with_reducible apply Keep.outOPs); with_reducible assumption)
    | with_reducible apply keep_ite | with_reducible apply keepP_ite | with_reducible apply keepOP_ite | split
    | ((with_reducible apply KeepP.snd); with_reducible apply sendMsg_keep) | with_reducible apply KeepP.mk' | with_reducible apply KeepOP.mk'
    | with_reducible apply KeepOP.none_ | with_reducible apply KeepOP.mkP | dsimp only [id_eq]
    | fail_if_no_progress ((with_reducible apply keep_rec); rfl)

theorem relay_keep (slot : ℕ) (kind : ℕ) (body : Bytes) (h : Keep a s) : Keep a (relay slot kind body s) := by
  unfold relay
  repeat' first
    | with_reducible assumption | intro _ | with_reducible apply sendLoadRec_keep | with_reducible apply keep_foldl

theorem relayState_keep (slot : ℕ) (h : Keep a s) : Keep a (relayState slot s) := by
  unfold relayState
  repeat' first
    | with_reducible assumption | intro _ | with_reducible apply relay_keep | with_reducible apply keep_ite

theorem relayTensor_keep (slot : ℕ) (ti : ℕ) (h : Keep a s) : Keep a (relayTensor slot ti s) := by
  unfold relayTensor
  repeat' first
    | with_reducible assumption | intro _ | with_reducible apply relay_keep | with_reducible apply keep_ite

theorem relayTokens_keep (slot : ℕ) (ti : ℕ) (lo : ℕ) (hi : ℕ) (h : Keep a s) : Keep a (relayTokens slot ti lo hi s) := by
  unfold relayTokens
  repeat' first
    | with_reducible assumption | intro _ | with_reducible apply relay_keep | with_reducible apply keep_foldl | with_reducible apply keep_ite

theorem relayPages_keep (slot : ℕ) (lo : ℕ) (hi : ℕ) (h : Keep a s) : Keep a (relayPages slot lo hi s) := by
  unfold relayPages
  repeat' first
    | with_reducible assumption | intro _ | with_reducible apply relayTokens_keep | with_reducible apply keep_foldl | with_reducible apply keep_ite

theorem copyPage_keep (key : ℕ) (slot : ℕ) (ti : ℕ) (idx : ℕ) (top : ℕ) (h : Keep a s) : Keep a (copyPage key slot ti idx top s) := by
  unfold copyPage
  repeat' first
    | with_reducible assumption | intro _ | with_reducible apply chargeLoad_keep | with_reducible apply sendLoadRec_keep
    | ((with_reducible apply Keep.out); with_reducible assumption) | split | ((with_reducible apply KeepP.snd); with_reducible apply chargeLoad_keep)
    | with_reducible apply KeepP.mk' | dsimp only [id_eq]

theorem copyAll_keep (key : ℕ) (dstNode : ℕ) (h : Keep a s) : Keep a (copyAll key dstNode s) := by
  unfold copyAll
  repeat' first
    | with_reducible assumption | intro _ | with_reducible apply sendLoadRec_keep | with_reducible apply copyPage_keep
    | with_reducible apply keep_foldl | split | dsimp only [id_eq]

end Sys2Proof.Laws
end

