-- ==== Sys2Proof/Laws/KeepMaps.lean ====
section
/-! SUPPORT. `Keep` for map changes, agreement, loss, the directory, pages and unit work: one lemma per definition, found by walking its own text. -/

namespace Sys2Proof.Laws

open Sys2Proof.Machine

variable {a s : State}

set_option linter.all false

/-! ## Machine/ApplyMap.lean -/

theorem sendLoadOpen_keep (id : ℕ) (h : Keep a s) : Keep a (sendLoadOpen id s) := by
  unfold sendLoadOpen
  repeat' first
    | with_reducible assumption | with_reducible apply sendMsg_keep | ((with_reducible apply Keep.out); with_reducible assumption) | split
    | dsimp only [id_eq] | fail_if_no_progress ((with_reducible apply keep_rec); rfl)

theorem newLoad_keep (l : LoadIn) (h : Keep a s) : Keep a (newLoad l s) := by
  unfold newLoad
  repeat' first
    | with_reducible assumption | intro _ | with_reducible apply sendLoadOpen_keep | with_reducible apply keep_ite | split | dsimp only [id_eq]
    | fail_if_no_progress ((with_reducible apply keep_rec); rfl)

theorem openLoads_keep (c : ℕ) (h : Keep a s) : Keep a (openLoads c s) := by
  unfold openLoads
  repeat' first
    | with_reducible assumption | intro _ | with_reducible apply newLoad_keep | with_reducible apply keep_foldl | with_reducible apply keep_ite
    | split | dsimp only [id_eq]

theorem dropLoad_keep (id : ℕ) (h : Keep a s) : Keep a (dropLoad id s) := by
  unfold dropLoad
  repeat' first
    | with_reducible assumption | intro _ | with_reducible apply releaseSeq_keep | with_reducible apply keep_ite | split | dsimp only [id_eq]
    | fail_if_no_progress ((with_reducible apply keep_rec); rfl)

theorem restartFrom_keep (id : ℕ) (n : ℕ) (h : Keep a s) : Keep a (restartFrom id n s) := by
  unfold restartFrom
  repeat' first
    | with_reducible assumption | intro _ | with_reducible apply newLoad_keep | with_reducible apply dropLoad_keep | split | dsimp only [id_eq]

theorem sendLoadDone_keep (c : ℕ) (node : ℕ) (id : ℕ) (h : Keep a s) : Keep a (sendLoadDone c node id s) := by
  unfold sendLoadDone
  repeat' first
    | with_reducible assumption | ((with_reducible apply KeepP.snd); with_reducible apply sendMsg_keep) | split

theorem rejoinDone_keep (c : ℕ) (h : Keep a s) : Keep a (rejoinDone c s) := by
  unfold rejoinDone
  repeat' first
    | with_reducible assumption | intro _ | with_reducible apply sendLoadDone_keep | with_reducible apply keep_foldl | split | dsimp only [id_eq]
    | fail_if_no_progress ((with_reducible apply keep_rec); rfl)

theorem settleDone_keep (c : ℕ) (m_ : Option DMap) (h : Keep a s) : Keep a (settleDone c m_ s) := by
  unfold settleDone
  repeat' first
    | with_reducible assumption | intro _ | split | dsimp only [id_eq] | fail_if_no_progress ((with_reducible apply keep_rec); rfl)

theorem admitLoad_keep (id : ℕ) (l : LoadIn) (h : Keep a s) : Keep a (admitLoad id l s) := by
  unfold admitLoad
  repeat' first
    | with_reducible assumption | intro _ | with_reducible apply setSeq_keep | with_reducible apply keep_ite | split | dsimp only [id_eq]
    | fail_if_no_progress ((with_reducible apply keep_rec); rfl)

theorem settleSource_keep (m_ : DMap) (id : ℕ) (l : LoadIn) (h : Keep a s) : Keep a (settleSource m_ id l s) := by
  unfold settleSource
  repeat' first
    | with_reducible assumption | intro _ | with_reducible apply dropLoad_keep | with_reducible apply restartFrom_keep | with_reducible apply keep_ite
    | split | dsimp only [id_eq]

theorem settleStaged_keep (m_ : DMap) (id : ℕ) (l : LoadIn) (h : Keep a s) : Keep a (settleStaged m_ id l s) := by
  unfold settleStaged
  repeat' first
    | with_reducible assumption | intro _ | with_reducible apply settleSource_keep | with_reducible apply dropLoad_keep
    | with_reducible apply sendLoadDone_keep | with_reducible apply keep_ite | split | dsimp only [id_eq]
    | fail_if_no_progress ((with_reducible apply keep_rec); rfl)

theorem settleLoadIn_keep (c : ℕ) (m_ : Option DMap) (id : ℕ) (h : Keep a s) : Keep a (settleLoadIn c m_ id s) := by
  unfold settleLoadIn
  repeat' first
    | with_reducible assumption | intro _ | with_reducible apply dropLoad_keep | with_reducible apply settleStaged_keep
    | with_reducible apply sendLoadOpen_keep | with_reducible apply settleSource_keep | with_reducible apply admitLoad_keep
    | with_reducible apply keep_ite | split | dsimp only [id_eq] | fail_if_no_progress ((with_reducible apply keep_rec); rfl)

theorem settleStopped_keep (key : ℕ) (h : Keep a s) : Keep a (settleStopped key s) := by
  unfold settleStopped
  repeat' first
    | with_reducible assumption | intro _ | with_reducible apply endLoadOut_keep | with_reducible apply keep_ite | split

theorem settleLoadOut_keep (c : ℕ) (old : Option DMap) (m_ : Option DMap) (key : ℕ) (h : Keep a s) : Keep a (settleLoadOut c old m_ key s) := by
  unfold settleLoadOut
  repeat' first
    | with_reducible assumption | intro _ | with_reducible apply endLoadOut_keep | with_reducible apply settleStopped_keep
    | with_reducible apply Keep.getD | with_reducible apply keepO_map | with_reducible apply keepOP_map | with_reducible apply keepOQ_map
    | with_reducible apply keep_ite | split | dsimp only [id_eq] | fail_if_no_progress ((with_reducible apply keep_rec); rfl)

theorem mapGens_keep (m : DMap) (h : Keep a s) : Keep a (mapGens m s) := by
  unfold mapGens
  repeat' first
    | with_reducible assumption | dsimp only [id_eq] | fail_if_no_progress ((with_reducible apply keep_rec); rfl)

theorem takeover_keep (slot : ℕ) (h : Keep a s) : Keep a (takeover slot s) := by
  unfold takeover
  repeat' first
    | with_reducible assumption | intro _ | with_reducible apply countTenant_keep | with_reducible apply setSeq_keep | with_reducible apply keep_ite

theorem takeovers_keep (old : DMap) (m : DMap) (h : Keep a s) : Keep a (takeovers old m s) := by
  unfold takeovers
  repeat' first
    | with_reducible assumption | intro _ | with_reducible apply takeover_keep | with_reducible apply keep_foldl | split

theorem excluded_keep (old : Option DMap) (m_ : DMap) (h : Keep a s) : Keep a (excluded old m_ s) := by
  unfold excluded
  repeat' first
    | with_reducible assumption | intro _ | with_reducible apply releaseSeq_keep | with_reducible apply raiseCount_keep
    | with_reducible apply Keep.getD | with_reducible apply keep_foldl | with_reducible apply keepO_map | with_reducible apply keepOP_map
    | with_reducible apply keepOQ_map | with_reducible apply keep_ite | split | dsimp only [id_eq]

theorem settleForwards_keep  (h : Keep a s) : Keep a (settleForwards s) := by
  unfold settleForwards
  repeat' first
    | with_reducible assumption | intro _ | with_reducible apply actDone_keep | with_reducible apply keep_foldl | dsimp only [id_eq]
    | fail_if_no_progress ((with_reducible apply keep_rec); rfl)

theorem noteBack_keep (m_ : DMap) (h : Keep a s) : Keep a (noteBack m_ s) := by
  unfold noteBack
  repeat' first
    | with_reducible assumption | intro _ | split | dsimp only [id_eq] | fail_if_no_progress ((with_reducible apply keep_rec); rfl)

theorem installMap_keep (c : ℕ) (old : Option DMap) (new : Option DMap) (h : Keep a s) : Keep a (installMap c old new s) := by
  unfold installMap
  repeat' first
    | with_reducible assumption | intro _ | with_reducible apply noteBack_keep | with_reducible apply mapGens_keep
    | with_reducible apply takeovers_keep | with_reducible apply excluded_keep | with_reducible apply settleLoadIn_keep
    | with_reducible apply settleLoadOut_keep | with_reducible apply settleDone_keep | with_reducible apply settleForwards_keep
    | with_reducible apply drainCheck_keep | with_reducible apply rejoinDone_keep | with_reducible apply openLoads_keep
    | with_reducible apply keep_foldl | with_reducible apply keep_ite | split | dsimp only [id_eq]
    | fail_if_no_progress ((with_reducible apply keep_rec); rfl)

theorem leaveComp_keep (c : ℕ) (h : Keep a s) : Keep a (leaveComp c s) := by
  unfold leaveComp
  repeat' first
    | with_reducible assumption | intro _ | with_reducible apply installMap_keep | with_reducible apply setComp_keep | dsimp only [id_eq]
    | fail_if_no_progress ((with_reducible apply keep_rec); rfl)

theorem noteGone_keep (p : DMap) (m_ : DMap) (h : Keep a s) : Keep a (noteGone p m_ s) := by
  unfold noteGone
  repeat' first
    | with_reducible assumption | intro _ | split | dsimp only [id_eq] | fail_if_no_progress ((with_reducible apply keep_rec); rfl)

theorem closeWindow_keep (c : ℕ) (h : Keep a s) : Keep a (closeWindow c s) := by
  unfold closeWindow
  repeat' first
    | with_reducible assumption | intro _ | with_reducible apply noteGone_keep | with_reducible apply setComp_keep | split | dsimp only [id_eq]

theorem applyChange_keep (c : ℕ) (change : Bytes) (h : Keep a s) : KeepP a (applyChange c change s) := by
  unfold applyChange
  repeat' first
    | with_reducible assumption | intro _ | with_reducible apply leaveComp_keep | with_reducible apply raise_keep
    | with_reducible apply sweepMoved_keep | with_reducible apply installMap_keep | with_reducible apply setComp_keep
    | with_reducible apply closeWindow_keep | with_reducible apply keep_ite | with_reducible apply keepP_ite | split | with_reducible apply KeepP.mk'
    | dsimp only [id_eq]

theorem installFetched_keep (c : ℕ) (m_ : DMap) (last : ℕ) (h : Keep a s) : Keep a (installFetched c m_ last s) := by
  unfold installFetched
  repeat' first
    | with_reducible assumption | intro _ | with_reducible apply leaveComp_keep | with_reducible apply raise_keep | with_reducible apply noteGone_keep
    | with_reducible apply sweepMoved_keep | with_reducible apply installMap_keep | with_reducible apply setComp_keep | with_reducible apply Keep.getD
    | with_reducible apply keepO_map | with_reducible apply keepOP_map | with_reducible apply keepOQ_map | with_reducible apply keep_ite | split
    | dsimp only [id_eq]

/-! ## Machine/Agree.lean -/

theorem voterPrepare_keep (c : ℕ) (ballot : ℕ) (h : Keep a s) : KeepP a (voterPrepare c ballot s) := by
  unfold voterPrepare
  repeat' first
    | with_reducible assumption | intro _ | with_reducible apply setComp_keep | with_reducible apply keepP_ite | with_reducible apply KeepP.mk'

theorem voterAccept_keep (c : ℕ) (ballot : ℕ) (change : Bytes) (h : Keep a s) : KeepP a (voterAccept c ballot change s) := by
  unfold voterAccept
  repeat' first
    | with_reducible assumption | intro _ | with_reducible apply setComp_keep | with_reducible apply keepP_ite | with_reducible apply KeepP.mk'

theorem setProps_keep (c : ℕ) (l : List Proposal) (h : Keep a s) : Keep a (setProps c l s) := by
  unfold setProps
  repeat' first
    | with_reducible assumption | dsimp only [id_eq] | fail_if_no_progress ((with_reducible apply keep_rec); rfl)

theorem setHead_keep (c : ℕ) (p : Proposal) (h : Keep a s) : Keep a (setHead c p s) := by
  unfold setHead
  repeat' first
    | with_reducible assumption | with_reducible apply setProps_keep | split

theorem addProposal_keep (c : ℕ) (change : Bytes) (who : Proposer) (h : Keep a s) : Keep a (addProposal c change who s) := by
  unfold addProposal
  repeat' first
    | with_reducible assumption | intro _ | with_reducible apply setProps_keep | with_reducible apply keep_ite | split | dsimp only [id_eq]

theorem addNext_keep (c : ℕ) (change : Bytes) (h : Keep a s) : Keep a (addNext c change s) := by
  unfold addNext
  repeat' first
    | with_reducible assumption | intro _ | with_reducible apply setProps_keep | with_reducible apply keep_ite | split | dsimp only [id_eq]

theorem saveResp_keep (src : ℕ) (msgId : ℕ) (op : ℕ) (data : Bytes) (h : Keep a s) : Keep a (saveResp src msgId op data s) := by
  unfold saveResp
  repeat' first
    | with_reducible assumption | dsimp only [id_eq] | fail_if_no_progress ((with_reducible apply keep_rec); rfl)

theorem finishProposal_keep (c : ℕ) (status : ℕ) (h : Keep a s) : Keep a (finishProposal c status s) := by
  unfold finishProposal
  repeat' first
    | with_reducible assumption | intro _ | with_reducible apply setProps_keep | with_reducible apply ringWrite_keep
    | with_reducible apply sendOnce_keep | with_reducible apply saveResp_keep | split | dsimp only [id_eq]
    | fail_if_no_progress ((with_reducible apply keep_rec); rfl)

theorem sendAgree_keep (op : ℕ) (c : ℕ) (base : ℕ) (ballot : ℕ) (n : ℕ) (ep : Option ℕ) (addr : Option (BitVec 128)) (change : Bytes) (p : Purpose) (h : Keep a s) : Keep a (sendAgree op c base ballot n ep addr change p s) := by
  unfold sendAgree
  repeat' first
    | with_reducible assumption | intro _ | ((with_reducible apply KeepP.snd); with_reducible apply sendMsg_keep) | with_reducible apply keep_ite
    | split

theorem mapNotices_keep (c : ℕ) (change : Bytes) (m : DMap) (h : Keep a s) : Keep a (mapNotices c change m s) := by
  unfold mapNotices
  repeat' first
    | with_reducible assumption | intro _ | with_reducible apply sendOnce_keep | with_reducible apply keep_foldl | with_reducible apply keep_ite

theorem commitChange_keep (c : ℕ) (p : Proposal) (h : Keep a s) : Keep a (commitChange c p s) := by
  unfold commitChange
  repeat' first
    | with_reducible assumption | intro _ | with_reducible apply finishProposal_keep | with_reducible apply raise_keep
    | with_reducible apply sendAgree_keep | with_reducible apply applyChange_keep | with_reducible apply mapNotices_keep
    | with_reducible apply setHead_keep | ((with_reducible apply Keep.out); with_reducible assumption) | with_reducible apply Keep.getD
    | with_reducible apply keep_foldl | with_reducible apply keepP_foldl | with_reducible apply keepO_map | with_reducible apply keepOP_map
    | with_reducible apply keepOQ_map | with_reducible apply keep_ite | with_reducible apply keepP_ite | split
    | ((with_reducible apply KeepP.snd); with_reducible apply applyChange_keep) | with_reducible apply KeepP.mk' | dsimp only [id_eq]

theorem checkAccepts_keep (c : ℕ) (h : Keep a s) : Keep a (checkAccepts c s) := by
  unfold checkAccepts
  repeat' first
    | with_reducible assumption | intro _ | with_reducible apply commitChange_keep | with_reducible apply keep_ite | split

theorem checkPromises_keep (c : ℕ) (h : Keep a s) : Keep a (checkPromises c s) := by
  unfold checkPromises
  repeat' first
    | with_reducible assumption | intro _ | with_reducible apply setHead_keep | with_reducible apply checkAccepts_keep
    | with_reducible apply sendAgree_keep | ((with_reducible apply KeepP.snd); with_reducible apply voterAccept_keep)
    | with_reducible apply keep_foldl | with_reducible apply keep_ite | split

theorem startRound_keep (c : ℕ) (round : ℕ) (h : Keep a s) : Keep a (startRound c round s) := by
  unfold startRound
  repeat' first
    | with_reducible assumption | intro _ | with_reducible apply finishProposal_keep | with_reducible apply setHead_keep
    | with_reducible apply checkPromises_keep | with_reducible apply sendAgree_keep | with_reducible apply voterPrepare_keep
    | ((with_reducible apply Keep.out); with_reducible assumption) | ((with_reducible apply Keep.outO); with_reducible assumption)
    | ((with_reducible apply Keep.outOP); with_reducible assumption) | ((with_reducible apply Keep.outOQ); with_reducible assumption)
    | with_reducible exact KeepOP.out ‹KeepOP a (some (_, _))› _ _ rfl | ((with_reducible apply Keep.outOPs); with_reducible assumption)
    | ((with_reducible apply Keep.outOQs); with_reducible assumption) | with_reducible apply keep_foldl | with_reducible apply keepP_foldl
    | with_reducible apply keepOP_foldl | with_reducible apply keepO_foldl | with_reducible apply keep_ite | with_reducible apply keepP_ite
    | with_reducible apply keepO_ite | with_reducible apply keepOP_ite | split
    | ((with_reducible apply KeepP.snd); with_reducible apply voterPrepare_keep) | with_reducible apply KeepP.mk' | with_reducible apply KeepO.mk'
    | with_reducible apply KeepO.none_ | with_reducible apply KeepOP.mk' | with_reducible apply KeepOP.none_ | with_reducible apply KeepOP.mkP
    | with_reducible apply KeepOQ.mk' | with_reducible apply KeepOQ.none_ | dsimp only [id_eq]

theorem execDatumPropose_keep (comp : BitVec 32) (h : Keep a s) : KeepR a (execDatumPropose comp s) := by
  unfold execDatumPropose
  repeat' first
    | with_reducible assumption | with_reducible apply startRound_keep | split | with_reducible apply KeepR.mk'

theorem execDatumRoundTimeout_keep (comp : BitVec 32) (h : Keep a s) : KeepR a (execDatumRoundTimeout comp s) := by
  unfold execDatumRoundTimeout
  repeat' first
    | with_reducible assumption | with_reducible apply takeFree_keep | with_reducible apply setHead_keep
    | ((with_reducible apply Keep.out); with_reducible assumption) | split | with_reducible apply KeepR.mk'

theorem execDatumBackoffExpire_keep (comp : BitVec 32) (h : Keep a s) : KeepR a (execDatumBackoffExpire comp s) := by
  unfold execDatumBackoffExpire
  repeat' first
    | with_reducible assumption | with_reducible apply startRound_keep | with_reducible apply finishProposal_keep | with_reducible apply count_keep
    | split | with_reducible apply KeepR.mk'

theorem overtaken_keep (c : ℕ) (change : Bytes) (h : Keep a s) : Keep a (overtaken c change s) := by
  unfold overtaken
  repeat' first
    | with_reducible assumption | intro _ | with_reducible apply finishProposal_keep | with_reducible apply setHead_keep
    | with_reducible apply keep_ite | split

theorem endLoadsTo_keep (n : ℕ) (h : Keep a s) : Keep a (endLoadsTo n s) := by
  unfold endLoadsTo
  repeat' first
    | with_reducible assumption | intro _ | with_reducible apply endLoadOut_keep | with_reducible apply keep_foldl | split | dsimp only [id_eq]

theorem suspectPartner_keep (n : ℕ) (h : Keep a s) : Keep a (suspectPartner n s) := by
  unfold suspectPartner
  repeat' first
    | with_reducible assumption | intro _ | with_reducible apply endLoadsTo_keep | with_reducible apply addProposal_keep
    | with_reducible apply keep_foldl | with_reducible apply keep_ite | split | dsimp only [id_eq]
    | fail_if_no_progress ((with_reducible apply keep_rec); rfl)

theorem storeFull_keep (c : ℕ) (n : ℕ) (h : Keep a s) : Keep a (storeFull c n s) := by
  unfold storeFull
  repeat' first
    | with_reducible assumption | intro _ | with_reducible apply addNext_keep | with_reducible apply keep_foldl | with_reducible apply keep_ite
    | split | dsimp only [id_eq]

/-! ## Machine/DmaEnd.lean -/

theorem setDma_keep (c : ℕ) (x : DmaCh) (h : Keep a s) : Keep a (setDma c x s) := by
  unfold setDma
  repeat' first
    | with_reducible assumption | fail_if_no_progress ((with_reducible apply keep_rec); rfl)

theorem dmaFail_keep (c : ℕ) (status : ℕ) (cause : ℕ) (h : Keep a s) : Keep a (dmaFail c status cause s) := by
  unfold dmaFail
  repeat' first
    | with_reducible assumption | with_reducible apply setDma_keep

theorem dmaMemFail_keep (c : ℕ) (ring : ℕ) (seq : ℕ) (h : Keep a s) : Keep a (dmaMemFail c ring seq s) := by
  unfold dmaMemFail
  repeat' first
    | with_reducible assumption | intro _ | with_reducible apply dmaFail_keep | with_reducible apply raise_keep | with_reducible apply logRecord_keep
    | with_reducible apply keep_ite | split | dsimp only [id_eq]

theorem dmaAbortFail_keep (c : ℕ) (h : Keep a s) : Keep a (dmaAbortFail c s) := by
  unfold dmaAbortFail
  repeat' first
    | with_reducible assumption | intro _ | with_reducible apply logEvent_keep | with_reducible apply dmaFail_keep | with_reducible apply keep_ite
    | split | dsimp only [id_eq]

theorem endRuns_keep (f : DmaSide → Bool) (ring : ℕ) (h : Keep a s) : Keep a (endRuns f ring s) := by
  unfold endRuns
  repeat' first
    | with_reducible assumption | intro _ | with_reducible apply dmaMemFail_keep | with_reducible apply keep_foldl | split | dsimp only [id_eq]

theorem abortRuns_keep (h : Keep a s) : Keep a (abortRuns s) := by
  unfold abortRuns
  repeat' first
    | with_reducible assumption | intro _ | with_reducible apply dmaAbortFail_keep | with_reducible apply keep_foldl | dsimp only [id_eq]

/-! ## Machine/Lost.lean -/

theorem seqLost_keep (slot : ℕ) (h : Keep a s) : Keep a (seqLost slot s) := by
  unfold seqLost
  repeat' first
    | with_reducible assumption | intro _ | with_reducible apply raise_keep | with_reducible apply setSeq_keep | with_reducible apply releaseSeq_keep
    | with_reducible apply newLoad_keep | with_reducible apply addProposal_keep | with_reducible apply keep_foldl | with_reducible apply keep_ite
    | split | dsimp only [id_eq]

theorem baseLost_keep (key : ℕ) (h : Keep a s) : Keep a (baseLost key s) := by
  unfold baseLost
  repeat' first
    | with_reducible assumption | intro _ | with_reducible apply seqLost_keep | with_reducible apply keep_foldl

theorem lineCorrected_keep (a_ : ℕ) (h : Keep a s) : Keep a (lineCorrected a_ s) := by
  unfold lineCorrected
  repeat' first
    | with_reducible assumption | intro _ | with_reducible apply raiseCount_keep | dsimp only [id_eq]

theorem lineBad_keep (a_ : ℕ) (h : Keep a s) : Keep a (lineBad a_ s) := by
  unfold lineBad
  repeat' first
    | with_reducible assumption | intro _ | with_reducible apply raise_keep | dsimp only [id_eq]

theorem baseLineLost_keep (a_ : ℕ) (h : Keep a s) : Keep a (baseLineLost a_ s) := by
  unfold baseLineLost
  repeat' first
    | with_reducible assumption | intro _ | with_reducible apply baseLost_keep | split | dsimp only [id_eq]

theorem lineLost_keep (a_ : ℕ) (h : Keep a s) : Keep a (lineLost a_ s) := by
  unfold lineLost
  repeat' first
    | with_reducible assumption | intro _ | with_reducible apply baseLineLost_keep | with_reducible apply lineBad_keep
    | with_reducible apply seqLost_keep | split | dsimp only [id_eq]

theorem endProgUse_keep (slot : ℕ) (h : Keep a s) : Keep a (endProgUse slot s) := by
  unfold endProgUse
  repeat' first
    | with_reducible assumption | dsimp only [id_eq] | fail_if_no_progress ((with_reducible apply keep_rec); rfl)

theorem leaveByRecord_keep (inst : ℕ) (slot : ℕ) (h : Keep a s) : Keep a (leaveByRecord inst slot s) := by
  unfold leaveByRecord
  repeat' first
    | with_reducible assumption | intro _ | with_reducible apply leaveSeq_keep | with_reducible apply setInst_keep | split | dsimp only [id_eq]

theorem endReq_keep (n : ℕ) (status : ℕ) (h : Keep a s) : Keep a (endReq n status s) := by
  unfold endReq
  repeat' first
    | with_reducible assumption | intro _ | with_reducible apply leaveByRecord_keep | with_reducible apply endBusy_keep
    | with_reducible apply endProgUse_keep | with_reducible apply keep_ite | split | dsimp only [id_eq]
    | fail_if_no_progress ((with_reducible apply keep_rec); rfl)

theorem endReqs_keep (status : ℕ) (l : List ℕ) (h : Keep a s) : Keep a (endReqs status l s) := by
  unfold endReqs
  repeat' first
    | with_reducible assumption | intro _ | with_reducible apply endReq_keep | with_reducible apply keep_foldl

theorem setChan_keep (ch : ℕ) (c : Chan) (h : Keep a s) : Keep a (setChan ch c s) := by
  unfold setChan
  repeat' first
    | with_reducible assumption | fail_if_no_progress ((with_reducible apply keep_rec); rfl)

theorem setJournal_keep (ch : ℕ) (i : ℕ) (j : Journal) (h : Keep a s) : Keep a (setJournal ch i j s) := by
  unfold setJournal
  repeat' first
    | with_reducible assumption | intro _ | with_reducible apply writeFast_keep | with_reducible apply setChan_keep | dsimp only [id_eq]

theorem endAtom_keep (ch : ℕ) (st : JournalSt) (wrote : Bool) (h : Keep a s) : Keep a (endAtom ch st wrote s) := by
  unfold endAtom
  repeat' first
    | with_reducible assumption | intro _ | with_reducible apply setJournal_keep | with_reducible apply setChan_keep | with_reducible apply keep_ite
    | split | dsimp only [id_eq]

theorem dropWork_keep (h : Keep a s) : Keep a (dropWork s) := by
  unfold dropWork
  repeat' first
    | with_reducible assumption | intro _ | with_reducible apply abortRuns_keep | with_reducible apply endAtom_keep | with_reducible apply keep_foldl
    | dsimp only [id_eq] | fail_if_no_progress ((with_reducible apply keep_rec); rfl)

theorem fatalStop_keep (tell : Bool) (reason : ℕ) (lower : Detail) (h : Keep a s) : Keep a (fatalStop tell reason lower s) := by
  unfold fatalStop
  repeat' first
    | with_reducible assumption | intro _ | with_reducible apply raise_keep | with_reducible apply dropWork_keep
    | with_reducible apply withdrawAll_keep | with_reducible apply settle_keep | with_reducible apply keep_ite | split | dsimp only [id_eq]
    | fail_if_no_progress ((with_reducible apply keep_rec); rfl) | fail_if_no_progress ((with_reducible apply keep_recPwr); iterate 5 rfl)

theorem chipFatal_keep (reason : ℕ) (ring : ℕ) (seq : ℕ) (h : Keep a s) : Keep a (chipFatal reason ring seq s) := by
  unfold chipFatal
  repeat' first
    | with_reducible assumption | with_reducible apply fatalStop_keep

/-! ## Machine/Directory.lean -/

theorem dirFull_keep  (h : Keep a s) : Keep a (dirFull s) := by
  unfold dirFull
  repeat' first
    | with_reducible assumption | intro _ | with_reducible apply raise_keep | with_reducible apply keep_ite | split

theorem frameExhausted_keep (r : ℕ) (h : Keep a s) : Keep a (frameExhausted r s) := by
  unfold frameExhausted
  repeat' first
    | with_reducible assumption | with_reducible apply raise_keep

theorem makeSeq_keep (slot : ℕ) (tenant : ℕ) (tag : ℕ) (fp : ℕ) (openTime : ℕ) (st : SeqSt) (d : Bytes) (h : Keep a s) : KeepO a (makeSeq slot tenant tag fp openTime st d s) := by
  unfold makeSeq
  repeat' first
    | with_reducible assumption | intro _ | with_reducible apply takeSpan_keep | with_reducible apply setSeq_keep
    | ((with_reducible apply Keep.outOP); with_reducible assumption) | with_reducible apply keepO_map | split | with_reducible apply KeepO.none_

theorem seqOpenDo_keep (tenant : ℕ) (tag : ℕ) (fp : ℕ) (d : Bytes) (who : optParam Who none) (h : Keep a s) : KeepQ a (seqOpenDo tenant tag fp d s who) := by
  unfold seqOpenDo
  repeat' first
    | with_reducible assumption | intro _ | with_reducible apply lookSeq_keep | with_reducible apply refuseSeq_keep
    | with_reducible apply refuseR_keep | with_reducible apply dirFull_keep | with_reducible apply makeSeq_keep
    | with_reducible apply frameExhausted_keep | ((with_reducible apply Keep.out); with_reducible assumption)
    | ((with_reducible apply Keep.outO); with_reducible assumption) | with_reducible apply keep_ite | with_reducible apply keepP_ite
    | with_reducible apply keepQ_ite | with_reducible apply keepO_ite | split | ((with_reducible apply KeepP.snd); with_reducible apply lookSeq_keep)
    | with_reducible apply KeepP.mk' | with_reducible apply KeepQ.mk' | with_reducible apply KeepQ.mkP | with_reducible apply KeepO.mk'
    | with_reducible apply KeepO.none_ | dsimp only [id_eq]

theorem execSeqOpen_keep (inst : ℕ) (h : Keep a s) : KeepR a (execSeqOpen inst s) := by
  unfold execSeqOpen
  repeat' first
    | with_reducible assumption | intro _ | with_reducible apply seqOpenDo_keep | with_reducible apply actDone_keep
    | ((with_reducible apply Keep.outQ); with_reducible assumption) | split | ((with_reducible apply KeepQ.snd); with_reducible apply seqOpenDo_keep)
    | with_reducible apply KeepR.mk' | with_reducible apply KeepR.fault | with_reducible apply KeepQ.mk' | with_reducible apply KeepQ.mkP
    | dsimp only [id_eq]

theorem backTensor_keep (slot : ℕ) (ti : ℕ) (h : Keep a s) : KeepO a (backTensor slot ti s) := by
  unfold backTensor
  repeat' first
    | with_reducible assumption | intro _ | with_reducible apply setTen_keep | with_reducible apply takeSpan_keep
    | ((with_reducible apply Keep.outOP); with_reducible assumption) | with_reducible apply keepO_map | with_reducible apply keepO_ite
    | with_reducible apply KeepO.mk'

theorem regTensor_keep (slot : ℕ) (ti : ℕ) (deep : Bool) (h : Keep a s) : KeepO a (regTensor slot ti deep s) := by
  unfold regTensor
  repeat' first
    | with_reducible assumption | intro _ | with_reducible apply setTen_keep | with_reducible apply backTensor_keep | with_reducible apply keepO_ite
    | split | with_reducible apply KeepO.mk'

theorem tensorRegDo_keep (tenant : ℕ) (tag : ℕ) (l : ℕ) (k : ℕ) (deep : Bool) (who : optParam Who none) (h : Keep a s) : KeepP a (tensorRegDo tenant tag l k deep s who) := by
  unfold tensorRegDo
  repeat' first
    | with_reducible assumption | intro _ | with_reducible apply lookSeq_keep | with_reducible apply refuseSeq_keep
    | with_reducible apply refuseTen_keep | with_reducible apply regTensor_keep | with_reducible apply frameExhausted_keep
    | with_reducible apply relayTensor_keep | ((with_reducible apply Keep.out); with_reducible assumption)
    | ((with_reducible apply Keep.outO); with_reducible assumption) | with_reducible apply keep_ite | with_reducible apply keepP_ite
    | with_reducible apply keepO_ite | split | ((with_reducible apply KeepP.snd); with_reducible apply lookSeq_keep) | with_reducible apply KeepP.mk'
    | with_reducible apply KeepO.mk' | with_reducible apply KeepO.none_ | dsimp only [id_eq]

theorem execTensorReg_keep (inst : ℕ) (h : Keep a s) : KeepR a (execTensorReg inst s) := by
  unfold execTensorReg
  repeat' first
    | with_reducible assumption | intro _ | with_reducible apply tensorRegDo_keep | with_reducible apply actEnd_keep
    | ((with_reducible apply Keep.out); with_reducible assumption) | split | ((with_reducible apply KeepP.snd); with_reducible apply tensorRegDo_keep)
    | with_reducible apply KeepR.mk' | with_reducible apply KeepR.fault | with_reducible apply KeepP.mk' | dsimp only [id_eq]

theorem setFingerprintDo_keep (tenant : ℕ) (tag : ℕ) (fp : ℕ) (who : optParam Who none) (h : Keep a s) : KeepP a (setFingerprintDo tenant tag fp s who) := by
  unfold setFingerprintDo
  repeat' first
    | with_reducible assumption | intro _ | with_reducible apply lookSeq_keep | with_reducible apply refuseSeq_keep | with_reducible apply setSeq_keep
    | ((with_reducible apply Keep.out); with_reducible assumption) | with_reducible apply keep_ite | with_reducible apply keepP_ite | split
    | ((with_reducible apply KeepP.snd); with_reducible apply lookSeq_keep) | with_reducible apply KeepP.mk' | dsimp only [id_eq]

theorem execSetFingerprint_keep (inst : ℕ) (h : Keep a s) : KeepR a (execSetFingerprint inst s) := by
  unfold execSetFingerprint
  repeat' first
    | with_reducible assumption | with_reducible apply setFingerprintDo_keep | with_reducible apply actEnd_keep
    | ((with_reducible apply Keep.out); with_reducible assumption) | split | with_reducible apply KeepR.mk'

theorem seqReleaseDo_keep (tenant : ℕ) (tag : ℕ) (h : Keep a s) : KeepP a (seqReleaseDo tenant tag s) := by
  unfold seqReleaseDo
  repeat' first
    | with_reducible assumption | intro _ | with_reducible apply lookSeq_keep | with_reducible apply releaseSeq_keep
    | ((with_reducible apply Keep.out); with_reducible assumption) | with_reducible apply keep_ite | with_reducible apply keepP_ite | split
    | ((with_reducible apply KeepP.snd); with_reducible apply lookSeq_keep) | with_reducible apply KeepP.mk' | dsimp only [id_eq]

theorem execSeqRelease_keep (inst : ℕ) (h : Keep a s) : KeepR a (execSeqRelease inst s) := by
  unfold execSeqRelease
  repeat' first
    | with_reducible assumption | with_reducible apply seqReleaseDo_keep | with_reducible apply actEnd_keep
    | ((with_reducible apply Keep.out); with_reducible assumption) | split | with_reducible apply KeepR.mk'

theorem freeSeq_keep (slot : ℕ) (h : Keep a s) : Keep a (freeSeq slot s) := by
  unfold freeSeq
  repeat' first
    | with_reducible assumption | intro _ | with_reducible apply dropStorage_keep | with_reducible apply tlbDropSlot_keep
    | with_reducible apply drainCheck_keep | with_reducible apply setSeq_keep | with_reducible apply keep_ite | split | dsimp only [id_eq]
    | fail_if_no_progress ((with_reducible apply keep_rec); rfl)

theorem execSeqFree_keep (slot : Fin 262144) (h : Keep a s) : KeepR a (execSeqFree slot s) := by
  unfold execSeqFree
  repeat' first
    | with_reducible assumption | with_reducible apply freeSeq_keep | split | with_reducible apply KeepR.mk'

theorem dirSearchDo_keep (tenant : ℕ) (fpKind : Bool) (value : ℕ) (mask : ℕ) (cursor : ℕ) (h : Keep a s) : KeepP a (dirSearchDo tenant fpKind value mask cursor s) := by
  unfold dirSearchDo
  repeat' first
    | with_reducible assumption | intro _ | with_reducible apply checkedHit_keep | ((with_reducible apply Keep.out); with_reducible assumption)
    | split | ((with_reducible apply KeepP.snd); with_reducible apply checkedHit_keep) | with_reducible apply KeepP.mk' | dsimp only [id_eq]

theorem execDirSearch_keep (inst : ℕ) (h : Keep a s) : KeepR a (execDirSearch inst s) := by
  unfold execDirSearch
  repeat' first
    | with_reducible assumption | intro _ | with_reducible apply dirSearchDo_keep | with_reducible apply actEnd_keep
    | with_reducible apply setInst_keep | with_reducible apply sendMsg_keep | ((with_reducible apply Keep.out); with_reducible assumption)
    | with_reducible apply keep_ite | with_reducible apply keepP_ite | split | ((with_reducible apply KeepP.snd); with_reducible apply sendMsg_keep)
    | ((with_reducible apply KeepP.snd); with_reducible apply dirSearchDo_keep) | with_reducible apply KeepR.mk' | with_reducible apply KeepR.fault
    | with_reducible apply KeepP.mk' | dsimp only [id_eq]

theorem execOldFrameFree_keep (frame : ℕ) (h : Keep a s) : KeepR a (execOldFrameFree frame s) := by
  unfold execOldFrameFree
  repeat' first
    | with_reducible assumption | intro _ | with_reducible apply releaseDeep_keep | with_reducible apply giveFrame_keep
    | with_reducible apply keep_ite | split | with_reducible apply KeepR.mk' | with_reducible apply KeepR.fault | dsimp only [id_eq]
    | fail_if_no_progress ((with_reducible apply keep_rec); rfl)

/-! ## Machine/Reads.lean -/

theorem touchCode_keep (a_ : ℕ) (h : Keep a s) : Keep a (touchCode a_ s) := by
  unfold touchCode
  repeat' first
    | with_reducible assumption | intro _ | with_reducible apply setChan_keep | with_reducible apply keep_ite | split | dsimp only [id_eq]

theorem touchCodes_keep (l : List ℕ) (h : Keep a s) : Keep a (touchCodes l s) := by
  unfold touchCodes
  repeat' first
    | with_reducible assumption | intro _ | with_reducible apply touchCode_keep | with_reducible apply keep_foldl | dsimp only [id_eq]

theorem holdRead_keep (who : Reader) (a_ : ℕ) (mismatch : Bool) (h : Keep a s) : Keep a (holdRead who a_ mismatch s) := by
  unfold holdRead
  repeat' first
    | with_reducible assumption | intro _ | with_reducible apply setChan_keep | with_reducible apply raiseCount_keep | with_reducible apply keep_ite
    | split | dsimp only [id_eq]

theorem dropHeld_keep (who : Reader) (h : Keep a s) : Keep a (dropHeld who s) := by
  unfold dropHeld
  repeat' first
    | with_reducible assumption | intro _ | dsimp only [id_eq] | fail_if_no_progress ((with_reducible apply keep_rec); rfl)

theorem readChunks_keep (who : Reader) (chunks : List ℕ) (o : LineOutcome) (h : Keep a s) : KeepP a (readChunks who chunks o s) := by
  unfold readChunks
  repeat' first
    | with_reducible assumption | intro _ | with_reducible apply dropHeld_keep | with_reducible apply holdRead_keep
    | with_reducible apply touchCodes_keep | with_reducible apply lineCorrected_keep | with_reducible apply keep_ite | with_reducible apply keepP_ite
    | split | with_reducible apply KeepP.mk' | dsimp only [id_eq]

theorem readFree_keep (who : Reader) (chunks : List ℕ) (h : Keep a s) : KeepP a (readFree who chunks s) := by
  unfold readFree
  repeat' first
    | with_reducible assumption | intro _ | with_reducible apply takeFree_keep | with_reducible apply readChunks_keep
    | ((with_reducible apply Keep.out); with_reducible assumption) | split | ((with_reducible apply KeepP.snd); with_reducible apply takeFree_keep)
    | ((with_reducible apply KeepP.snd); with_reducible apply readChunks_keep) | with_reducible apply KeepP.mk' | dsimp only [id_eq]

/-! ## Machine/Pages.lean -/

theorem givePage_keep (slot : ℕ) (ti : ℕ) (idx : ℕ) (h : Keep a s) : KeepO a (givePage slot ti idx s) := by
  unfold givePage
  repeat' first
    | with_reducible assumption | intro _ | with_reducible apply takePageFrame_keep | with_reducible apply setLeaf_keep
    | ((with_reducible apply Keep.outO); with_reducible assumption) | split | with_reducible apply KeepO.mk' | with_reducible apply KeepO.none_
    | dsimp only [id_eq]

theorem givePages_keep (slot : ℕ) (p1 : List (ℕ × ℕ)) (h : Keep a s) : KeepO a (givePages slot p1 s) := by
  induction p1 generalizing s with
  | nil =>
    unfold givePages
    repeat' first
      | with_reducible assumption | with_reducible apply KeepO.mk'
  | cons _ _ ih =>
    unfold givePages
    repeat' first
      | with_reducible assumption | (apply ih) | with_reducible apply givePage_keep | ((with_reducible apply Keep.outO); with_reducible assumption)
      | split | with_reducible apply KeepO.none_

theorem reserveFrame_keep (slot : ℕ) (name : ℕ) (h : Keep a s) : KeepOP a (reserveFrame slot name s) := by
  unfold reserveFrame
  repeat' first
    | with_reducible assumption | intro _ | with_reducible apply useFast_keep | with_reducible apply count_keep | with_reducible apply keepOP_map
    | split | with_reducible apply KeepP.mk'

theorem dropReserved_keep (l : List ℕ) (h : Keep a s) : Keep a (dropReserved l s) := by
  unfold dropReserved
  repeat' first
    | with_reducible assumption | intro _ | with_reducible apply keep_foldl | split | dsimp only [id_eq]
    | fail_if_no_progress ((with_reducible apply keep_rec); rfl)

theorem changeLeaf_keep (slot : ℕ) (ti : ℕ) (idx : ℕ) (leaf : ℕ) (h : Keep a s) : Keep a (changeLeaf slot ti idx leaf s) := by
  unfold changeLeaf
  repeat' first
    | with_reducible assumption | intro _ | with_reducible apply setLeaf_keep | with_reducible apply tlbDropPage_keep
    | with_reducible apply dirtyPage_keep | with_reducible apply reuseFast_keep | with_reducible apply dropRef_keep
    | with_reducible apply retireFrame_keep | with_reducible apply Keep.getD | with_reducible apply keep_ite | split | dsimp only [id_eq]
    | fail_if_no_progress ((with_reducible apply keep_rec); rfl)

theorem unstripe_keep (slot : ℕ) (ti : ℕ) (idx : ℕ) (h : Keep a s) : KeepP a (unstripe slot ti idx s) := by
  unfold unstripe
  repeat' first
    | with_reducible assumption | intro _ | with_reducible apply readFree_keep | with_reducible apply takePageFrame_keep
    | with_reducible apply writeFastFor_keep | with_reducible apply count_keep | with_reducible apply changeLeaf_keep
    | ((with_reducible apply Keep.out); with_reducible assumption) | with_reducible apply keep_ite | with_reducible apply keepP_ite | split
    | ((with_reducible apply KeepP.snd); with_reducible apply readFree_keep) | with_reducible apply KeepP.mk' | dsimp only [id_eq]

theorem issueUnit_keep (ch : ℕ) (c : UnitCmd) (h : Keep a s) : Keep a (issueUnit ch c s) := by
  unfold issueUnit
  repeat' first
    | with_reducible assumption | intro _ | with_reducible apply markBusy_keep | dsimp only [id_eq]
    | fail_if_no_progress ((with_reducible apply keep_rec); rfl)

theorem unstripePair_keep (slot : ℕ) (ti : ℕ) (idx : ℕ) (h : Keep a s) : KeepP a (unstripePair slot ti idx s) := by
  unfold unstripePair
  repeat' first
    | with_reducible assumption | intro _ | with_reducible apply unstripe_keep | ((with_reducible apply Keep.out); with_reducible assumption) | split
    | ((with_reducible apply KeepP.snd); with_reducible apply unstripe_keep) | with_reducible apply KeepP.mk' | dsimp only [id_eq]

theorem reservePair_keep (slot : ℕ) (ti : ℕ) (idx : ℕ) (pair : Bool) (h : Keep a s) : KeepOQ a (reservePair slot ti idx pair s) := by
  unfold reservePair
  repeat' first
    | with_reducible assumption | with_reducible apply reserveFrame_keep | ((with_reducible apply Keep.outOP); with_reducible assumption) | split
    | with_reducible apply KeepOQ.mk' | with_reducible apply KeepOQ.none_

theorem addLeafJob_keep (c : UnitCmd) (h : Keep a s) : Keep a (addLeafJob c s) := by
  unfold addLeafJob
  repeat' first
    | with_reducible assumption | dsimp only [id_eq] | fail_if_no_progress ((with_reducible apply keep_rec); rfl)

theorem issueDecodeInto_keep (new : ℕ) (slot : ℕ) (ti : ℕ) (idx : ℕ) (e : ℕ) (b_ : BaseRef) (job : UnitJob) (h : Keep a s) : Keep a (issueDecodeInto new slot ti idx e b_ job s) := by
  unfold issueDecodeInto
  repeat' first
    | with_reducible assumption | intro _ | with_reducible apply issueUnit_keep | dsimp only [id_eq]

theorem issueDecode_keep (slot : ℕ) (ti : ℕ) (idx : ℕ) (e : ℕ) (job : UnitJob) (h : Keep a s) : KeepO a (issueDecode slot ti idx e job s) := by
  unfold issueDecode
  repeat' first
    | with_reducible assumption | intro _ | with_reducible apply issueDecodeInto_keep | with_reducible apply reserveFrame_keep
    | ((with_reducible apply Keep.outOP); with_reducible assumption) | ((with_reducible apply Keep.outOPs); with_reducible assumption)
    | with_reducible apply keepO_map | with_reducible apply keepOP_map | with_reducible apply keepOQ_map | split | with_reducible apply KeepP.mk'
    | with_reducible apply KeepO.mk' | with_reducible apply KeepO.none_ | with_reducible apply KeepOP.mk' | with_reducible apply KeepOP.none_
    | with_reducible apply KeepOP.mkP | dsimp only [id_eq]

/-! ## Machine/Work.lean -/

theorem progCheck_keep (tenant : ℕ) (slot : ℕ) (gen : ℕ) (op : ℕ) (who : optParam Who none) (h : Keep a s) : KeepP a (progCheck tenant slot gen op s who) := by
  unfold progCheck
  repeat' first
    | with_reducible assumption | intro _ | with_reducible apply refuseC_keep | with_reducible apply keep_ite | with_reducible apply keepP_ite | split
    | with_reducible apply KeepP.mk' | dsimp only [id_eq]

theorem startProgUse_keep (slot : ℕ) (h : Keep a s) : Keep a (startProgUse slot s) := by
  unfold startProgUse
  repeat' first
    | with_reducible assumption | dsimp only [id_eq] | fail_if_no_progress ((with_reducible apply keep_rec); rfl)

theorem addClipped_keep (slot : ℕ) (layer : ℕ) (n : ℕ) (threshold : ℕ) (h : Keep a s) : Keep a (addClipped slot layer n threshold s) := by
  unfold addClipped
  repeat' first
    | with_reducible assumption | intro _ | with_reducible apply setSeq_keep | with_reducible apply countTenant_keep
    | with_reducible apply logEvent_keep | with_reducible apply keep_ite

theorem rewriteEnd_keep (key : ℕ) (status : ℕ) (h : Keep a s) : Keep a (rewriteEnd key status s) := by
  unfold rewriteEnd
  repeat' first
    | with_reducible assumption | intro _ | with_reducible apply setTen_keep | with_reducible apply endProgUse_keep
    | with_reducible apply endBusy_keep | with_reducible apply leaveSeq_keep | with_reducible apply keep_ite | split | dsimp only [id_eq]
    | fail_if_no_progress ((with_reducible apply keep_rec); rfl)

theorem setRewrite_keep (key : ℕ) (r : Rewrite) (h : Keep a s) : Keep a (setRewrite key r s) := by
  unfold setRewrite
  repeat' first
    | with_reducible assumption | dsimp only [id_eq] | fail_if_no_progress ((with_reducible apply keep_rec); rfl)

theorem rewriteStuck_keep (key : ℕ) (idx : ℕ) (h : Keep a s) : Keep a (rewriteStuck key idx s) := by
  unfold rewriteStuck
  repeat' first
    | with_reducible assumption | with_reducible apply rewriteEnd_keep | with_reducible apply frameExhausted_keep

theorem rewriteGo_keep (key : ℕ) (p1 : List ℕ) (h : Keep a s) : Keep a (rewriteGo key p1 s) := by
  induction p1 generalizing s with
  | nil =>
    unfold rewriteGo
    repeat' first
      | with_reducible assumption | intro _ | with_reducible apply rewriteEnd_keep | with_reducible apply setRewrite_keep
      | with_reducible apply issueDecode_keep | with_reducible apply rewriteStuck_keep | with_reducible apply countTenant_keep
      | with_reducible apply unstripePair_keep | with_reducible apply lineLost_keep | with_reducible apply reservePair_keep
      | with_reducible apply issueUnit_keep | ((with_reducible apply Keep.out); with_reducible assumption)
      | ((with_reducible apply Keep.outO); with_reducible assumption) | ((with_reducible apply Keep.outOQ); with_reducible assumption)
      | ((with_reducible apply Keep.outOQs); with_reducible assumption) | with_reducible apply Keep.getD | with_reducible apply keep_ite
      | with_reducible apply keepP_ite | with_reducible apply keepO_ite | split
      | ((with_reducible apply KeepP.snd); with_reducible apply unstripePair_keep) | with_reducible apply KeepP.mk' | with_reducible apply KeepO.mk'
      | with_reducible apply KeepO.none_ | with_reducible apply KeepOQ.mk' | with_reducible apply KeepOQ.none_ | dsimp only [id_eq]
  | cons _ _ ih =>
    unfold rewriteGo
    repeat' first
      | with_reducible assumption | intro _ | (apply ih) | with_reducible apply rewriteEnd_keep | with_reducible apply setRewrite_keep
      | with_reducible apply issueDecode_keep | with_reducible apply rewriteStuck_keep | with_reducible apply countTenant_keep
      | with_reducible apply unstripePair_keep | with_reducible apply lineLost_keep | with_reducible apply reservePair_keep
      | with_reducible apply issueUnit_keep | ((with_reducible apply Keep.out); with_reducible assumption)
      | ((with_reducible apply Keep.outO); with_reducible assumption) | ((with_reducible apply Keep.outOQ); with_reducible assumption)
      | ((with_reducible apply Keep.outOQs); with_reducible assumption) | with_reducible apply Keep.getD | with_reducible apply keep_ite
      | with_reducible apply keepP_ite | with_reducible apply keepO_ite | split
      | ((with_reducible apply KeepP.snd); with_reducible apply unstripePair_keep) | with_reducible apply KeepP.mk' | with_reducible apply KeepO.mk'
      | with_reducible apply KeepO.none_ | with_reducible apply KeepOQ.mk' | with_reducible apply KeepOQ.none_ | dsimp only [id_eq]

theorem rewriteState_keep (slot : ℕ) (ti : ℕ) (tenant : ℕ) (who : optParam Who none) (h : Keep a s) : KeepP a (rewriteState slot ti tenant s who) := by
  unfold rewriteState
  repeat' first
    | with_reducible assumption | intro _ | with_reducible apply refuseTen_keep | split | with_reducible apply KeepP.mk' | dsimp only [id_eq]

theorem rewriteStart_keep (slot : ℕ) (ti : ℕ) (inst : ℕ) (k : ℕ) (r : Rewrite) (h : Keep a s) : Keep a (rewriteStart slot ti inst k r s) := by
  unfold rewriteStart
  repeat' first
    | with_reducible assumption | intro _ | with_reducible apply setTen_keep | with_reducible apply enterSeq_keep
    | with_reducible apply startProgUse_keep | with_reducible apply rewriteGo_keep | with_reducible apply actBusy_keep
    | with_reducible apply setRewrite_keep | with_reducible apply keep_ite

theorem requantDo_keep (x : Inst) (inst : ℕ) (k : ℕ) (p : Bytes) (h : Keep a s) : Keep a (requantDo x inst k p s) := by
  unfold requantDo
  repeat' first
    | with_reducible assumption | intro _ | with_reducible apply lookSeq_keep | with_reducible apply actEnd_keep | with_reducible apply refuseSeq_keep
    | with_reducible apply countTenant_keep | with_reducible apply rewriteState_keep | with_reducible apply progCheck_keep
    | with_reducible apply rewriteStart_keep | ((with_reducible apply Keep.out); with_reducible assumption) | with_reducible apply keep_ite
    | with_reducible apply keepP_ite | split | ((with_reducible apply KeepP.snd); with_reducible apply lookSeq_keep)
    | ((with_reducible apply KeepP.snd); with_reducible apply rewriteState_keep)
    | ((with_reducible apply KeepP.snd); with_reducible apply progCheck_keep) | with_reducible apply KeepP.mk' | dsimp only [id_eq]

theorem execRewriteRequant_keep (inst : ℕ) (h : Keep a s) : KeepR a (execRewriteRequant inst s) := by
  unfold execRewriteRequant
  repeat' first
    | with_reducible assumption | with_reducible apply requantDo_keep | split | with_reducible apply KeepR.mk'

theorem baseCheck_keep (x : Inst) (d : Bytes) (tag : ℕ) (h : Keep a s) : KeepP a (baseCheck x d tag s) := by
  unfold baseCheck
  repeat' first
    | with_reducible assumption | intro _ | with_reducible apply lookSeq_keep | with_reducible apply refuseSeq_keep
    | ((with_reducible apply Keep.out); with_reducible assumption) | with_reducible apply keep_ite | with_reducible apply keepP_ite | split
    | ((with_reducible apply KeepP.snd); with_reducible apply lookSeq_keep) | with_reducible apply KeepP.mk' | dsimp only [id_eq]

theorem rewriteDeltaDo_keep (x : Inst) (inst : ℕ) (k : ℕ) (p : Bytes) (h : Keep a s) : Keep a (rewriteDeltaDo x inst k p s) := by
  unfold rewriteDeltaDo
  repeat' first
    | with_reducible assumption | intro _ | with_reducible apply lookSeq_keep | with_reducible apply actEnd_keep | with_reducible apply baseCheck_keep
    | with_reducible apply refuseSeq_keep | with_reducible apply rewriteState_keep | with_reducible apply rewriteStart_keep
    | ((with_reducible apply Keep.out); with_reducible assumption) | with_reducible apply keep_ite | with_reducible apply keepP_ite | split
    | ((with_reducible apply KeepP.snd); with_reducible apply lookSeq_keep) | ((with_reducible apply KeepP.snd); with_reducible apply baseCheck_keep)
    | ((with_reducible apply KeepP.snd); with_reducible apply rewriteState_keep) | with_reducible apply KeepP.mk' | dsimp only [id_eq]

theorem execRewriteDelta_keep (inst : ℕ) (h : Keep a s) : KeepR a (execRewriteDelta inst s) := by
  unfold execRewriteDelta
  repeat' first
    | with_reducible assumption | with_reducible apply rewriteDeltaDo_keep | split | with_reducible apply KeepR.mk'

theorem encodeOne_keep (slot : ℕ) (b_ : ℕ) (ti : ℕ) (idx : ℕ) (h : Keep a s) : Keep a (encodeOne slot b_ ti idx s) := by
  unfold encodeOne
  repeat' first
    | with_reducible assumption | intro _ | with_reducible apply count_keep | with_reducible apply countTenant_keep
    | with_reducible apply writeFast_keep | with_reducible apply useFast_keep | with_reducible apply noteAliased_keep
    | with_reducible apply changeLeaf_keep | with_reducible apply Keep.getD | with_reducible apply keep_ite | split | dsimp only [id_eq]
    | fail_if_no_progress ((with_reducible apply keep_rec); rfl)

theorem skipPages_keep (tenant : ℕ) (n : ℕ) (h : Keep a s) : Keep a (skipPages tenant n s) := by
  unfold skipPages
  repeat' first
    | with_reducible assumption | intro _ | with_reducible apply countTenant_keep | with_reducible apply keep_foldl | dsimp only [id_eq]

theorem execDeltaPageConvert_keep (ten : TensorId) (h : Keep a s) : KeepR a (execDeltaPageConvert ten s) := by
  unfold execDeltaPageConvert
  repeat' first
    | with_reducible assumption | intro _ | with_reducible apply rewriteEnd_keep | with_reducible apply skipPages_keep
    | with_reducible apply rewriteGo_keep | with_reducible apply raise_keep | with_reducible apply readFree_keep | with_reducible apply lineLost_keep
    | with_reducible apply encodeOne_keep | ((with_reducible apply Keep.out); with_reducible assumption) | with_reducible apply keep_ite
    | with_reducible apply keepP_ite | split | ((with_reducible apply KeepP.snd); with_reducible apply readFree_keep) | with_reducible apply KeepR.mk'
    | with_reducible apply KeepR.fault | with_reducible apply KeepP.mk' | dsimp only [id_eq]

theorem modCtl_keep (slot : ℕ) (f : CtlOp → CtlOp) (h : Keep a s) : Keep a (modCtl slot f s) := by
  unfold modCtl
  repeat' first
    | with_reducible assumption | split | dsimp only [id_eq] | fail_if_no_progress ((with_reducible apply keep_rec); rfl)

theorem takeReservedOf_keep (slot : ℕ) (ti : ℕ) (idx : ℕ) (h : Keep a s) : KeepP a (takeReservedOf slot ti idx s) := by
  unfold takeReservedOf
  repeat' first
    | with_reducible assumption | with_reducible apply modCtl_keep | split | with_reducible apply KeepP.mk'

theorem issueReencode_keep (slot : ℕ) (ti : ℕ) (idx : ℕ) (name : ℕ) (program : ℕ) (delta : ℕ) (h : Keep a s) : Keep a (issueReencode slot ti idx name program delta s) := by
  unfold issueReencode
  repeat' first
    | with_reducible assumption | with_reducible apply takeReservedOf_keep | with_reducible apply modCtl_keep | with_reducible apply issueUnit_keep
    | ((with_reducible apply Keep.out); with_reducible assumption) | split

theorem shiftDecode_keep (slot : ℕ) (ti : ℕ) (idx : ℕ) (e : ℕ) (h : Keep a s) : Keep a (shiftDecode slot ti idx e s) := by
  unfold shiftDecode
  repeat' first
    | with_reducible assumption | intro _ | with_reducible apply takeReservedOf_keep | with_reducible apply countTenant_keep
    | with_reducible apply issueDecodeInto_keep | with_reducible apply modCtl_keep | ((with_reducible apply Keep.out); with_reducible assumption)
    | split | ((with_reducible apply KeepP.snd); with_reducible apply takeReservedOf_keep) | with_reducible apply KeepP.mk' | dsimp only [id_eq]

theorem shiftPage_keep (slot : ℕ) (ti : ℕ) (idx : ℕ) (program : ℕ) (delta : ℕ) (h : Keep a s) : Keep a (shiftPage slot ti idx program delta s) := by
  unfold shiftPage
  repeat' first
    | with_reducible assumption | intro _ | with_reducible apply modCtl_keep | with_reducible apply shiftDecode_keep
    | with_reducible apply issueReencode_keep | with_reducible apply keep_ite | split | dsimp only [id_eq]

theorem afterLeaf_keep (j : LeafJob) (wasDelta : Bool) (h : Keep a s) : Keep a (afterLeaf j wasDelta s) := by
  unfold afterLeaf
  repeat' first
    | with_reducible assumption | intro _ | with_reducible apply rewriteGo_keep | with_reducible apply modCtl_keep
    | with_reducible apply takeFree_keep | with_reducible apply shiftPage_keep | ((with_reducible apply Keep.out); with_reducible assumption)
    | with_reducible apply Keep.getD | with_reducible apply keep_ite | with_reducible apply keepP_ite | split
    | ((with_reducible apply KeepP.snd); with_reducible apply takeFree_keep) | with_reducible apply KeepP.mk' | dsimp only [id_eq]

theorem execLeafUpdate_keep (job : ℕ) (h : Keep a s) : KeepR a (execLeafUpdate job s) := by
  unfold execLeafUpdate
  repeat' first
    | with_reducible assumption | intro _ | with_reducible apply afterLeaf_keep | with_reducible apply dropReserved_keep
    | with_reducible apply changeLeaf_keep | with_reducible apply keepO_map | with_reducible apply keepOP_map | with_reducible apply keepOQ_map
    | with_reducible apply keep_ite | split | with_reducible apply KeepR.mk' | with_reducible apply KeepR.fault | dsimp only [id_eq]
    | fail_if_no_progress ((with_reducible apply keep_rec); rfl)

theorem jobFail_keep (c : UnitCmd) (status : ℕ) (h : Keep a s) : Keep a (jobFail c status s) := by
  unfold jobFail
  repeat' first
    | with_reducible assumption | with_reducible apply dropReserved_keep | with_reducible apply rewriteEnd_keep | with_reducible apply modCtl_keep
    | split | dsimp only [id_eq] | fail_if_no_progress ((with_reducible apply keep_rec); rfl)

theorem jobStop_keep (c : UnitCmd) (h : Keep a s) : Keep a (jobStop c s) := by
  unfold jobStop
  repeat' first
    | with_reducible assumption | intro _ | with_reducible apply dropReserved_keep | with_reducible apply modCtl_keep | with_reducible apply keepO_map
    | with_reducible apply keepOP_map | with_reducible apply keepOQ_map | split | dsimp only [id_eq]

theorem jobDone_keep (c : UnitCmd) (h : Keep a s) : Keep a (jobDone c s) := by
  unfold jobDone
  repeat' first
    | with_reducible assumption | with_reducible apply addLeafJob_keep | split | dsimp only [id_eq]
    | fail_if_no_progress ((with_reducible apply keep_rec); rfl)

/-! ## Machine/Barriers.lean -/

theorem setBarrier_keep (b_ : ℕ) (u : Barrier) (h : Keep a s) : Keep a (setBarrier b_ u s) := by
  unfold setBarrier
  repeat' first
    | with_reducible assumption | fail_if_no_progress ((with_reducible apply keep_rec); rfl)

theorem execBarrierArm_keep (b_ : Fin 64) (mask : BitVec 32) (h : Keep a s) : KeepR a (execBarrierArm b_ mask s) := by
  unfold execBarrierArm
  repeat' first
    | with_reducible assumption | with_reducible apply setBarrier_keep | with_reducible apply raise_keep | split | with_reducible apply KeepR.mk'

theorem execBarrierArrive_keep (b_ : Fin 64) (part : Fin 32) (h : Keep a s) : KeepR a (execBarrierArrive b_ part s) := by
  unfold execBarrierArrive
  repeat' first
    | with_reducible assumption | intro _ | with_reducible apply raise_keep | with_reducible apply setBarrier_keep | with_reducible apply keep_ite
    | with_reducible apply KeepR.mk'

theorem execBarrierRelease_keep (b_ : Fin 64) (h : Keep a s) : KeepR a (execBarrierRelease b_ s) := by
  unfold execBarrierRelease
  repeat' first
    | with_reducible assumption | with_reducible apply raise_keep | with_reducible apply setBarrier_keep | split | with_reducible apply KeepR.mk'

theorem barrierFenced_keep (p : ℕ) (h : Keep a s) : Keep a (barrierFenced p s) := by
  unfold barrierFenced
  repeat' first
    | with_reducible assumption | intro _ | with_reducible apply raise_keep | with_reducible apply setBarrier_keep | with_reducible apply keep_foldl

/-! ## Machine/Fence.lean -/

theorem failUnit_keep (ch : ℕ) (status : ℕ) (h : Keep a s) : Keep a (failUnit ch status s) := by
  unfold failUnit
  repeat' first
    | with_reducible assumption | intro _ | with_reducible apply endAtom_keep | with_reducible apply setChan_keep | with_reducible apply jobFail_keep
    | with_reducible apply keep_foldl | dsimp only [id_eq]

theorem failAppends_keep (r : ℕ) (h : Keep a s) : Keep a (failAppends r s) := by
  unfold failAppends
  repeat' first
    | with_reducible assumption | intro _ | with_reducible apply keep_ite | split | dsimp only [id_eq]
    | fail_if_no_progress ((with_reducible apply keep_rec); rfl)

theorem fenceRegion_keep (r : ℕ) (causedBy : ℕ) (h : Keep a s) : Keep a (fenceRegion r causedBy s) := by
  unfold fenceRegion
  repeat' first
    | with_reducible assumption | intro _ | with_reducible apply setRgn_keep | with_reducible apply barrierFenced_keep
    | with_reducible apply raise_keep | with_reducible apply endRuns_keep | with_reducible apply chipFatal_keep
    | with_reducible apply failAppends_keep | with_reducible apply failUnit_keep | with_reducible apply endReqs_keep
    | with_reducible apply baseLost_keep | with_reducible apply seqLost_keep | with_reducible apply keep_foldl | with_reducible apply keep_ite | split
    | dsimp only [id_eq]

theorem setBlk_keep (r : ℕ) (b_ : ℕ) (x : Blk) (h : Keep a s) : Keep a (setBlk r b_ x s) := by
  unfold setBlk
  repeat' first
    | with_reducible assumption | fail_if_no_progress ((with_reducible apply keep_rec); rfl)

theorem fenceBlock_keep (r : ℕ) (b_ : ℕ) (causedBy : ℕ) (h : Keep a s) : Keep a (fenceBlock r b_ causedBy s) := by
  unfold fenceBlock
  repeat' first
    | with_reducible assumption | intro _ | with_reducible apply setBlk_keep | with_reducible apply raise_keep | with_reducible apply endReqs_keep
    | with_reducible apply fenceRegion_keep | with_reducible apply keep_ite

end Sys2Proof.Laws
end

