-- ==== Sys2Proof/Laws/KeepCache.lean ====
section
/-! SUPPORT. `Keep` for the tiers, the channel units, appends, queries and the blocks: one lemma per definition, found by walking its own text. -/

namespace Sys2Proof.Laws

open Sys2Proof.Machine

variable {a s : State}

set_option linter.all false

/-! ## Machine/Tiers.lean -/

theorem reservePage_keep (slot : ℕ) (ti : ℕ) (idx : ℕ) (e : ℕ) (h : Keep a s) : KeepOP a (reservePage slot ti idx e s) := by
  unfold reservePage
  repeat' first
    | with_reducible assumption | intro _ | with_reducible apply useFast_keep | with_reducible apply noteAliased_keep
    | with_reducible apply reuseFast_keep | with_reducible apply keepO_map | with_reducible apply keepOP_map | with_reducible apply keepOQ_map
    | with_reducible apply keep_ite | with_reducible apply keepOP_ite | split | with_reducible apply KeepP.mk' | with_reducible apply KeepOP.mk'
    | with_reducible apply KeepOP.none_ | with_reducible apply KeepOP.mkP | dsimp only [id_eq]
    | fail_if_no_progress ((with_reducible apply keep_rec); rfl)

theorem reservePromotion_keep (slot : ℕ) (ti : ℕ) (p2 : List (ℕ × ℕ)) (p3 : List (ℕ × ℕ)) (h : Keep a s) : KeepOP a (reservePromotion slot ti p2 p3 s) := by
  induction p2 generalizing s p3 with
  | nil =>
    unfold reservePromotion
    repeat' first
      | with_reducible assumption | with_reducible apply KeepOP.mk'
  | cons _ _ ih =>
    unfold reservePromotion
    repeat' first
      | with_reducible assumption | (apply ih) | with_reducible apply reservePage_keep | ((with_reducible apply Keep.outOP); with_reducible assumption)
      | split | with_reducible apply KeepOP.none_

theorem startMig_keep (slot : ℕ) (ti : ℕ) (deep : Bool) (inst : Option ℕ) (reserved : List (ℕ × ℕ)) (h : Keep a s) : Keep a (startMig slot ti deep inst reserved s) := by
  unfold startMig
  repeat' first
    | with_reducible assumption | with_reducible apply enterSeq_keep | with_reducible apply setTen_keep | dsimp only [id_eq]
    | fail_if_no_progress ((with_reducible apply keep_rec); rfl)

theorem migrateDo_keep (tenant : ℕ) (tag : ℕ) (l : ℕ) (k : ℕ) (deep : Bool) (inst : ℕ) (h : Keep a s) : KeepP a (migrateDo tenant tag l k deep inst s) := by
  unfold migrateDo
  repeat' first
    | with_reducible assumption | intro _ | with_reducible apply lookSeq_keep | with_reducible apply refuseTen_keep
    | with_reducible apply refuseSeq_keep | with_reducible apply backTensor_keep | with_reducible apply frameExhausted_keep
    | with_reducible apply startMig_keep | with_reducible apply reservePromotion_keep | with_reducible apply raise_keep
    | ((with_reducible apply Keep.out); with_reducible assumption) | ((with_reducible apply Keep.outO); with_reducible assumption)
    | ((with_reducible apply Keep.outOP); with_reducible assumption) | ((with_reducible apply Keep.outOPs); with_reducible assumption)
    | with_reducible apply keep_ite | with_reducible apply keepP_ite | with_reducible apply keepO_ite | with_reducible apply keepOP_ite | split
    | ((with_reducible apply KeepP.snd); with_reducible apply lookSeq_keep) | with_reducible apply KeepP.mk' | with_reducible apply KeepO.mk'
    | with_reducible apply KeepO.none_ | with_reducible apply KeepOP.mk' | with_reducible apply KeepOP.none_ | with_reducible apply KeepOP.mkP
    | dsimp only [id_eq]

theorem execMigrate_keep (inst : ℕ) (h : Keep a s) : KeepR a (execMigrate inst s) := by
  unfold execMigrate
  repeat' first
    | with_reducible assumption | with_reducible apply migrateDo_keep | with_reducible apply actEnd_keep | with_reducible apply actBusy_keep
    | ((with_reducible apply Keep.out); with_reducible assumption) | split | with_reducible apply KeepR.mk'

theorem copyDown_keep (slot : ℕ) (ti : ℕ) (idx : ℕ) (e : ℕ) (h : Keep a s) : KeepO a (copyDown slot ti idx e s) := by
  unfold copyDown
  repeat' first
    | with_reducible assumption | intro _ | with_reducible apply useDeep_keep | with_reducible apply count_keep | with_reducible apply writeDeep_keep
    | with_reducible apply setTen_keep | ((with_reducible apply Keep.outOQ); with_reducible assumption) | with_reducible apply keepO_map
    | with_reducible apply keepOQ_map | with_reducible apply keep_ite | split | with_reducible apply KeepOQ.mk' | with_reducible apply KeepQ.mk'

theorem giveUpFast_keep (slot : ℕ) (ti : ℕ) (idx : ℕ) (e : ℕ) (h : Keep a s) : Keep a (giveUpFast slot ti idx e s) := by
  unfold giveUpFast
  repeat' first
    | with_reducible assumption | intro _ | with_reducible apply retireFrame_keep | with_reducible apply nameOn_keep | with_reducible apply keep_ite
    | split | dsimp only [id_eq] | fail_if_no_progress ((with_reducible apply keep_rec); rfl)

theorem migFinish_keep (slot : ℕ) (ti : ℕ) (st : TenSt) (status : ℕ) (h : Keep a s) : Keep a (migFinish slot ti st status s) := by
  unfold migFinish
  repeat' first
    | with_reducible assumption | with_reducible apply leaveSeq_keep | with_reducible apply setTen_keep | with_reducible apply endBusy_keep | split
    | dsimp only [id_eq] | fail_if_no_progress ((with_reducible apply keep_rec); rfl)

theorem dropBacking_keep (slot : ℕ) (ti : ℕ) (idx : ℕ) (h : Keep a s) : Keep a (dropBacking slot ti idx s) := by
  unfold dropBacking
  repeat' first
    | with_reducible assumption | with_reducible apply dropDeep_keep | with_reducible apply setTen_keep | with_reducible apply count_keep

theorem setTier_keep (p : ℕ) (t : Tier) (h : Keep a s) : Keep a (setTier p t s) := by
  unfold setTier
  repeat' first
    | with_reducible assumption | fail_if_no_progress ((with_reducible apply keep_rec); rfl)

theorem drivePerst_keep (p : ℕ) (v : PinOut) (h : Keep a s) : Keep a (drivePerst p v s) := by
  unfold drivePerst
  repeat' first
    | with_reducible assumption | dsimp only [id_eq] | fail_if_no_progress ((with_reducible apply keep_recPwr); iterate 5 rfl)

theorem fencePort_keep (p : ℕ) (h : Keep a s) : Keep a (fencePort p s) := by
  unfold fencePort
  repeat' first
    | with_reducible assumption | intro _ | with_reducible apply setTier_keep | with_reducible apply raise_keep | with_reducible apply drivePerst_keep
    | with_reducible apply endRuns_keep | with_reducible apply endReqs_keep | with_reducible apply migFinish_keep
    | with_reducible apply dropReserved_keep | with_reducible apply dropBacking_keep | with_reducible apply seqLost_keep
    | with_reducible apply keep_foldl | with_reducible apply keep_ite | split | dsimp only [id_eq]

theorem tierTimeout_keep (p : ℕ) (h : Keep a s) : Keep a (tierTimeout p s) := by
  unfold tierTimeout
  repeat' first
    | with_reducible assumption | intro _ | with_reducible apply raiseCount_keep | with_reducible apply setTier_keep
    | with_reducible apply fencePort_keep | with_reducible apply keep_ite

theorem tierHintDo_keep (tenant : ℕ) (tag : ℕ) (l : ℕ) (k : ℕ) (hint : ℕ) (who : optParam Who none) (h : Keep a s) : KeepP a (tierHintDo tenant tag l k hint s who) := by
  unfold tierHintDo
  repeat' first
    | with_reducible assumption | intro _ | with_reducible apply lookSeq_keep | with_reducible apply refuseSeq_keep
    | with_reducible apply relayTensor_keep | with_reducible apply setTen_keep | ((with_reducible apply Keep.out); with_reducible assumption)
    | with_reducible apply keep_ite | with_reducible apply keepP_ite | split | ((with_reducible apply KeepP.snd); with_reducible apply lookSeq_keep)
    | with_reducible apply KeepP.mk' | dsimp only [id_eq]

theorem execTierHint_keep (inst : ℕ) (h : Keep a s) : KeepR a (execTierHint inst s) := by
  unfold execTierHint
  repeat' first
    | with_reducible assumption | intro _ | with_reducible apply tierHintDo_keep | with_reducible apply actEnd_keep
    | ((with_reducible apply Keep.out); with_reducible assumption) | split | ((with_reducible apply KeepP.snd); with_reducible apply tierHintDo_keep)
    | with_reducible apply KeepR.mk' | with_reducible apply KeepR.fault | with_reducible apply KeepP.mk' | dsimp only [id_eq]

theorem autoOne_keep (slot : ℕ) (ti : ℕ) (h : Keep a s) : KeepO a (autoOne slot ti s) := by
  unfold autoOne
  repeat' first
    | with_reducible assumption | intro _ | with_reducible apply count_keep | with_reducible apply logEvent_keep | with_reducible apply startMig_keep
    | with_reducible apply backTensor_keep | ((with_reducible apply Keep.outO); with_reducible assumption) | with_reducible apply keepO_map
    | with_reducible apply keepOP_map | with_reducible apply keepOQ_map | with_reducible apply KeepO.mk' | with_reducible apply KeepO.none_
    | dsimp only [id_eq]

theorem autoList_keep (r : ℕ) (want : ℕ) (p2 : List (ℕ × ℕ)) (p3 : ℕ) (h : Keep a s) : KeepP a (autoList r want p2 p3 s) := by
  induction p2 generalizing s p3 with
  | nil =>
    unfold autoList
    repeat' first
      | with_reducible assumption | intro _ | with_reducible apply autoOne_keep | ((with_reducible apply Keep.outO); with_reducible assumption)
      | with_reducible apply keep_ite | with_reducible apply keepP_ite | with_reducible apply keepO_ite | split | with_reducible apply KeepP.mk'
      | with_reducible apply KeepO.mk' | with_reducible apply KeepO.none_ | dsimp only [id_eq]
  | cons _ _ ih =>
    unfold autoList
    repeat' first
      | with_reducible assumption | intro _ | (apply ih) | with_reducible apply autoOne_keep
      | ((with_reducible apply Keep.out); with_reducible assumption) | ((with_reducible apply Keep.outO); with_reducible assumption)
      | with_reducible apply keep_ite | with_reducible apply keepP_ite | with_reducible apply keepO_ite | split | with_reducible apply KeepP.mk'
      | with_reducible apply KeepO.mk' | with_reducible apply KeepO.none_ | dsimp only [id_eq]

theorem execAutoDemote_keep (r : Fin 16) (h : Keep a s) : KeepR a (execAutoDemote r s) := by
  unfold execAutoDemote
  repeat' first
    | with_reducible assumption | intro _ | with_reducible apply autoList_keep | with_reducible apply raise_keep
    | ((with_reducible apply Keep.out); with_reducible assumption) | with_reducible apply Keep.getD | with_reducible apply keepO_map
    | with_reducible apply keepOP_map | with_reducible apply keepOQ_map | with_reducible apply keep_ite | with_reducible apply keepP_ite | split
    | ((with_reducible apply KeepP.snd); with_reducible apply autoList_keep) | with_reducible apply KeepR.mk' | with_reducible apply KeepR.fault
    | with_reducible apply KeepP.mk' | dsimp only [id_eq]

theorem unback_keep (slot : ℕ) (ti : ℕ) (h : Keep a s) : Keep a (unback slot ti s) := by
  unfold unback
  repeat' first
    | with_reducible assumption | intro _ | with_reducible apply dropFrame_keep | with_reducible apply setTen_keep | with_reducible apply keep_ite

theorem dropClean_keep (slot : ℕ) (ti : ℕ) (h : Keep a s) : Keep a (dropClean slot ti s) := by
  unfold dropClean
  repeat' first
    | with_reducible assumption | intro _ | with_reducible apply unback_keep | with_reducible apply dropBacking_keep | with_reducible apply keep_foldl
    | with_reducible apply keep_ite | split | dsimp only [id_eq]

theorem execBackingDrop_keep (h : Keep a s) : KeepR a (execBackingDrop s) := by
  unfold execBackingDrop
  repeat' first
    | with_reducible assumption | intro _ | with_reducible apply dropClean_keep | with_reducible apply keep_foldl | with_reducible apply keep_ite
    | split | with_reducible apply KeepR.mk' | with_reducible apply KeepR.fault | dsimp only [id_eq]

theorem execTierEventPoll_keep (port : Fin 4) (corrected : ℕ) (h : Keep a s) : KeepR a (execTierEventPoll port corrected s) := by
  unfold execTierEventPoll
  repeat' first
    | with_reducible assumption | intro _ | with_reducible apply raiseCount_keep | with_reducible apply keep_foldl | split
    | with_reducible apply KeepR.mk'

theorem execCxlTimeout_keep (port : Fin 4) (h : Keep a s) : KeepR a (execCxlTimeout port s) := by
  unfold execCxlTimeout
  repeat' first
    | with_reducible assumption | with_reducible apply tierTimeout_keep | with_reducible apply KeepR.mk'

theorem execTierLinkLoss_keep (port : Fin 4) (h : Keep a s) : KeepR a (execTierLinkLoss port s) := by
  unfold execTierLinkLoss
  repeat' first
    | with_reducible assumption | with_reducible apply fencePort_keep | with_reducible apply KeepR.mk'

theorem execPerstRetry_keep (port : Fin 4) (h : Keep a s) : KeepR a (execPerstRetry port s) := by
  unfold execPerstRetry
  repeat' first
    | with_reducible assumption | intro _ | with_reducible apply setTier_keep | with_reducible apply drivePerst_keep | with_reducible apply keep_ite
    | split | with_reducible apply KeepR.mk' | with_reducible apply KeepR.fault | dsimp only [id_eq]

theorem emptyPort_keep (p : ℕ) (h : Keep a s) : Keep a (emptyPort p s) := by
  unfold emptyPort
  repeat' first
    | with_reducible assumption | intro _ | dsimp only [id_eq] | fail_if_no_progress ((with_reducible apply keep_rec); rfl)

theorem tierTrained_keep (p : ℕ) (g : TierTrain) (h : Keep a s) : Keep a (tierTrained p g s) := by
  unfold tierTrained
  repeat' first
    | with_reducible assumption | intro _ | with_reducible apply raise_keep | with_reducible apply setTier_keep | with_reducible apply emptyPort_keep
    | with_reducible apply raiseCount_keep | with_reducible apply keep_ite | split | dsimp only [id_eq]

theorem execTierLinkTrained_keep (port : Fin 4) (train : TierTrain) (h : Keep a s) : KeepR a (execTierLinkTrained port train s) := by
  unfold execTierLinkTrained
  repeat' first
    | with_reducible assumption | intro _ | with_reducible apply tierTrained_keep | with_reducible apply keep_ite | split
    | with_reducible apply KeepR.mk' | with_reducible apply KeepR.fault | dsimp only [id_eq]

theorem shadowOne_keep (bad : List (Fin 16384)) (slot : ℕ) (h : Keep a s) : Keep a (shadowOne bad slot s) := by
  unfold shadowOne
  repeat' first
    | with_reducible assumption | intro _ | with_reducible apply seqLost_keep | with_reducible apply raiseCount_keep
    | with_reducible apply setSeq_keep | with_reducible apply keep_ite

theorem execShadowCheck_keep (r : Fin 16) (badShadow : List (Fin 16384)) (h : Keep a s) : KeepR a (execShadowCheck r badShadow s) := by
  unfold execShadowCheck
  repeat' first
    | with_reducible assumption | intro _ | with_reducible apply shadowOne_keep | with_reducible apply keep_foldl | split
    | with_reducible apply KeepR.mk' | dsimp only [id_eq] | fail_if_no_progress ((with_reducible apply keep_rec); rfl)

/-! ## Machine/Units.lean -/

theorem drainMode_keep (r : ℕ) (h : Keep a s) : Keep a (drainMode r s) := by
  unfold drainMode
  repeat' first
    | with_reducible assumption | intro _ | with_reducible apply setRgn_keep | with_reducible apply keep_ite | split | dsimp only [id_eq]

theorem setMode_keep (r : ℕ) (on : Bool) (h : Keep a s) : Keep a (setMode r on s) := by
  unfold setMode
  repeat' first
    | with_reducible assumption | intro _ | with_reducible apply setRgn_keep | with_reducible apply drainMode_keep | with_reducible apply keep_ite
    | split | dsimp only [id_eq]

theorem cmdEnd_keep (ch : ℕ) (u : UnitCmd) (status : ℕ) (h : Keep a s) : Keep a (cmdEnd ch u status s) := by
  unfold cmdEnd
  repeat' first
    | with_reducible assumption | intro _ | with_reducible apply setChan_keep | with_reducible apply drainMode_keep
    | with_reducible apply jobDone_keep | with_reducible apply jobFail_keep | with_reducible apply keep_ite | split | dsimp only [id_eq]

theorem cmdStop_keep (ch : ℕ) (u : UnitCmd) (h : Keep a s) : Keep a (cmdStop ch u s) := by
  unfold cmdStop
  repeat' first
    | with_reducible assumption | intro _ | with_reducible apply setChan_keep | with_reducible apply drainMode_keep
    | with_reducible apply jobStop_keep | dsimp only [id_eq]

theorem unitTake_keep (ch : ℕ) (op : ℕ) (h : Keep a s) : Keep a (unitTake ch op s) := by
  unfold unitTake
  repeat' first
    | with_reducible assumption | intro _ | with_reducible apply setChan_keep | with_reducible apply jobFail_keep | with_reducible apply raise_keep
    | with_reducible apply keep_ite | split | dsimp only [id_eq]

theorem execAppendTail_keep (ch : Fin 192) (h : Keep a s) : KeepR a (execAppendTail ch s) := by
  unfold execAppendTail
  repeat' first
    | with_reducible assumption | with_reducible apply unitTake_keep | with_reducible apply KeepR.mk'

theorem execRequant_keep (ch : Fin 192) (h : Keep a s) : KeepR a (execRequant ch s) := by
  unfold execRequant
  repeat' first
    | with_reducible assumption | with_reducible apply unitTake_keep | with_reducible apply KeepR.mk'

theorem execReencode_keep (ch : Fin 192) (h : Keep a s) : KeepR a (execReencode ch s) := by
  unfold execReencode
  repeat' first
    | with_reducible assumption | with_reducible apply unitTake_keep | with_reducible apply KeepR.mk'

theorem execCompact_keep (ch : Fin 192) (h : Keep a s) : KeepR a (execCompact ch s) := by
  unfold execCompact
  repeat' first
    | with_reducible assumption | with_reducible apply unitTake_keep | with_reducible apply KeepR.mk'

theorem execDeltaDecode_keep (ch : Fin 192) (h : Keep a s) : KeepR a (execDeltaDecode ch s) := by
  unfold execDeltaDecode
  repeat' first
    | with_reducible assumption | with_reducible apply unitTake_keep | with_reducible apply KeepR.mk'

theorem execScrub_keep (ch : Fin 192) (h : Keep a s) : KeepR a (execScrub ch s) := by
  unfold execScrub
  repeat' first
    | with_reducible assumption | with_reducible apply unitTake_keep | with_reducible apply KeepR.mk'

theorem recordParams_keep (slot : ℕ) (ti : ℕ) (program : ℕ) (h : Keep a s) : Keep a (recordParams slot ti program s) := by
  unfold recordParams
  repeat' first
    | with_reducible assumption | intro _ | with_reducible apply relayTensor_keep | with_reducible apply setTen_keep | with_reducible apply keep_ite

theorem openAtom_keep (ch : ℕ) (job : UnitJob) (chunks : List (ℕ × Bytes)) (h : Keep a s) : Keep a (openAtom ch job chunks s) := by
  unfold openAtom
  repeat' first
    | with_reducible assumption | intro _ | with_reducible apply touchCodes_keep | with_reducible apply setJournal_keep
    | with_reducible apply setChan_keep | with_reducible apply keepO_map | with_reducible apply keepOP_map | with_reducible apply keepOQ_map
    | with_reducible apply keep_ite | split | dsimp only [id_eq]

theorem startAtom_keep (ch : ℕ) (h : Keep a s) : Keep a (startAtom ch s) := by
  unfold startAtom
  repeat' first
    | with_reducible assumption | intro _ | with_reducible apply openAtom_keep | with_reducible apply setChan_keep | split | dsimp only [id_eq]

theorem startScrub_keep (ch : ℕ) (h : Keep a s) : Keep a (startScrub ch s) := by
  unfold startScrub
  repeat' first
    | with_reducible assumption | intro _ | with_reducible apply openAtom_keep | with_reducible apply setChan_keep | split | dsimp only [id_eq]

theorem finishRun_keep (ch : ℕ) (h : Keep a s) : Keep a (finishRun ch s) := by
  unfold finishRun
  repeat' first
    | with_reducible assumption | intro _ | with_reducible apply setChan_keep | with_reducible apply addClipped_keep
    | with_reducible apply dirtyPage_keep | with_reducible apply cmdStop_keep | with_reducible apply cmdEnd_keep | with_reducible apply keep_ite
    | split | dsimp only [id_eq]

theorem beginCmd_keep (ch : ℕ) (u : UnitCmd) (rest : List UnitCmd) (h : Keep a s) : Keep a (beginCmd ch u rest s) := by
  unfold beginCmd
  repeat' first
    | with_reducible assumption | intro _ | with_reducible apply setChan_keep | with_reducible apply cmdEnd_keep | with_reducible apply raise_keep
    | with_reducible apply recordParams_keep | with_reducible apply seqLost_keep | with_reducible apply keep_ite | split | dsimp only [id_eq]

theorem payChan_keep (ch : ℕ) (h : Keep a s) : Keep a (payChan ch s) := by
  unfold payChan
  repeat' first
    | with_reducible assumption | intro _ | with_reducible apply setChan_keep | dsimp only [id_eq]

theorem execAtomStart_keep (ch : Fin 192) (readsWaiting : Bool) (h : Keep a s) : KeepR a (execAtomStart ch readsWaiting s) := by
  unfold execAtomStart
  repeat' first
    | with_reducible assumption | intro _ | with_reducible apply payChan_keep | with_reducible apply beginCmd_keep
    | with_reducible apply finishRun_keep | with_reducible apply startAtom_keep | with_reducible apply cmdEnd_keep | with_reducible apply setChan_keep
    | with_reducible apply startScrub_keep | with_reducible apply keep_ite | split | with_reducible apply KeepR.mk' | with_reducible apply KeepR.fault
    | dsimp only [id_eq]

theorem writeChunks_keep (l : List (ℕ × Bytes)) (h : Keep a s) : Keep a (writeChunks l s) := by
  unfold writeChunks
  repeat' first
    | with_reducible assumption | intro _ | with_reducible apply writeFast_keep | with_reducible apply keep_foldl

theorem setHalved_keep (ch : ℕ) (want : Bool) (h : Keep a s) : Keep a (setHalved ch want s) := by
  unfold setHalved
  repeat' first
    | with_reducible assumption | intro _ | with_reducible apply setChan_keep | with_reducible apply raise_keep | with_reducible apply dropCause_keep
    | with_reducible apply keep_ite | split | dsimp only [id_eq]

theorem afterAtom_keep (ch : ℕ) (h : Keep a s) : Keep a (afterAtom ch s) := by
  unfold afterAtom
  repeat' first
    | with_reducible assumption | intro _ | with_reducible apply setChan_keep | with_reducible apply setHalved_keep | with_reducible apply keep_ite
    | split | dsimp only [id_eq]

theorem abandonAtom_keep (ch : ℕ) (wrote : Bool) (h : Keep a s) : Keep a (abandonAtom ch wrote s) := by
  unfold abandonAtom
  repeat' first
    | with_reducible assumption | intro _ | with_reducible apply afterAtom_keep | with_reducible apply endAtom_keep | with_reducible apply keep_ite
    | split | dsimp only [id_eq]

theorem closeAtom_keep (ch : ℕ) (h : Keep a s) : Keep a (closeAtom ch s) := by
  unfold closeAtom
  repeat' first
    | with_reducible assumption | intro _ | with_reducible apply afterAtom_keep | with_reducible apply endAtom_keep
    | with_reducible apply writeChunks_keep | with_reducible apply keep_ite | split | dsimp only [id_eq]

theorem scrubEnds_keep (ch : ℕ) (read : LineOutcome) (h : Keep a s) : Keep a (scrubEnds ch read s) := by
  unfold scrubEnds
  repeat' first
    | with_reducible assumption | intro _ | with_reducible apply closeAtom_keep | with_reducible apply lineCorrected_keep
    | with_reducible apply lineBad_keep | split | dsimp only [id_eq]

theorem nextAtom_keep (ch : ℕ) (lcWaiting : Bool) (h : Keep a s) : Keep a (nextAtom ch lcWaiting s) := by
  unfold nextAtom
  repeat' first
    | with_reducible assumption | intro _ | with_reducible apply finishRun_keep | with_reducible apply startAtom_keep
    | with_reducible apply raiseCount_keep | with_reducible apply setChan_keep | with_reducible apply keep_ite | split | dsimp only [id_eq]

theorem atomEnds_keep (ch : ℕ) (read : LineOutcome) (lcWaiting : Bool) (h : Keep a s) : Keep a (atomEnds ch read lcWaiting s) := by
  unfold atomEnds
  repeat' first
    | with_reducible assumption | intro _ | with_reducible apply nextAtom_keep | with_reducible apply closeAtom_keep
    | with_reducible apply lineCorrected_keep | with_reducible apply abandonAtom_keep | with_reducible apply lineLost_keep
    | with_reducible apply cmdEnd_keep | with_reducible apply setChan_keep | split | dsimp only [id_eq]

theorem execAtomEnd_keep (ch : Fin 192) (outcome : AtomOutcome) (lcWaiting : Bool) (h : Keep a s) : KeepR a (execAtomEnd ch outcome lcWaiting s) := by
  unfold execAtomEnd
  repeat' first
    | with_reducible assumption | intro _ | with_reducible apply abandonAtom_keep | with_reducible apply raise_keep
    | with_reducible apply scrubEnds_keep | with_reducible apply atomEnds_keep | with_reducible apply keep_ite | split
    | with_reducible apply KeepR.mk' | with_reducible apply KeepR.fault | dsimp only [id_eq]

theorem execG7Retrack_keep (ch : Fin 192) (h : Keep a s) : KeepR a (execG7Retrack ch s) := by
  unfold execG7Retrack
  repeat' first
    | with_reducible assumption | intro _ | with_reducible apply setChan_keep | with_reducible apply keep_ite | with_reducible apply KeepR.mk'

theorem execRefpbDue_keep (ch : Fin 192) (bankReads : Bool) (h : Keep a s) : KeepR a (execRefpbDue ch bankReads s) := by
  unfold execRefpbDue
  repeat' first
    | with_reducible assumption | intro _ | with_reducible apply setChan_keep | with_reducible apply keep_ite | split | with_reducible apply KeepR.mk'
    | with_reducible apply KeepR.fault | dsimp only [id_eq]

theorem execDeviceTempRead_keep (dev : Fin 48) (celsius : Int) (h : Keep a s) : KeepR a (execDeviceTempRead dev celsius s) := by
  unfold execDeviceTempRead
  repeat' first
    | with_reducible assumption | intro _ | with_reducible apply setChan_keep | with_reducible apply setHalved_keep | with_reducible apply Keep.getD
    | with_reducible apply keep_foldl | with_reducible apply keep_ite | split | with_reducible apply KeepR.mk' | with_reducible apply KeepR.fault
    | dsimp only [id_eq]

theorem execLinkCrcFail_keep (x : CrcFail) (h : Keep a s) : KeepR a (execLinkCrcFail x s) := by
  unfold execLinkCrcFail
  repeat' first
    | with_reducible assumption | intro _ | with_reducible apply raiseCount_keep | with_reducible apply setChan_keep
    | with_reducible apply abandonAtom_keep | with_reducible apply keep_ite | split | with_reducible apply KeepR.mk'
    | with_reducible apply KeepR.fault | dsimp only [id_eq]

theorem execChannelRetrainDone_keep (ch : Fin 192) (ok : Bool) (h : Keep a s) : KeepR a (execChannelRetrainDone ch ok s) := by
  unfold execChannelRetrainDone
  repeat' first
    | with_reducible assumption | intro _ | with_reducible apply setChan_keep | with_reducible apply raiseCount_keep | with_reducible apply raise_keep
    | with_reducible apply fenceRegion_keep | with_reducible apply keep_ite | split | with_reducible apply KeepR.mk'

theorem execScrubPass_keep (r : Fin 16) (h : Keep a s) : KeepR a (execScrubPass r s) := by
  unfold execScrubPass
  repeat' first
    | with_reducible assumption | intro _ | with_reducible apply issueUnit_keep | with_reducible apply keep_foldl | split
    | with_reducible apply KeepR.mk' | dsimp only [id_eq] | fail_if_no_progress ((with_reducible apply keep_rec); rfl)

theorem execUnitModeCompute_keep (r : Fin 16) (h : Keep a s) : KeepR a (execUnitModeCompute r s) := by
  unfold execUnitModeCompute
  repeat' first
    | with_reducible assumption | intro _ | with_reducible apply setMode_keep | with_reducible apply keep_ite | split | with_reducible apply KeepR.mk'
    | with_reducible apply KeepR.fault | dsimp only [id_eq]

theorem execUnitModeNormal_keep (r : Fin 16) (h : Keep a s) : KeepR a (execUnitModeNormal r s) := by
  unfold execUnitModeNormal
  repeat' first
    | with_reducible assumption | intro _ | with_reducible apply setMode_keep | with_reducible apply keep_ite | split | with_reducible apply KeepR.mk'
    | with_reducible apply KeepR.fault | dsimp only [id_eq]

/-! ## Machine/Appends.lean -/

theorem joinWaits_keep (inst : ℕ) (k : ℕ) (slot : ℕ) (h : Keep a s) : Keep a (joinWaits inst k slot s) := by
  unfold joinWaits
  repeat' first
    | with_reducible assumption | intro _ | with_reducible apply keep_ite | split | dsimp only [id_eq]
    | fail_if_no_progress ((with_reducible apply keep_rec); rfl)

theorem leaveWaits_keep (inst : ℕ) (k : ℕ) (h : Keep a s) : Keep a (leaveWaits inst k s) := by
  unfold leaveWaits
  repeat' first
    | with_reducible assumption | intro _ | dsimp only [id_eq] | fail_if_no_progress ((with_reducible apply keep_rec); rfl)

theorem issueAppend_keep (id : ℕ) (h : Keep a s) : Keep a (issueAppend id s) := by
  unfold issueAppend
  repeat' first
    | with_reducible assumption | intro _ | with_reducible apply issueUnit_keep | with_reducible apply keep_foldl | split | dsimp only [id_eq]
    | fail_if_no_progress ((with_reducible apply keep_rec); rfl)

theorem appendAdmit_keep (x : Inst) (inst : ℕ) (k : ℕ) (p : Bytes) (b_ : Bytes) (slot : ℕ) (h : Keep a s) : Keep a (appendAdmit x inst k p b_ slot s) := by
  unfold appendAdmit
  repeat' first
    | with_reducible assumption | intro _ | with_reducible apply actEnd_keep | with_reducible apply refuseSeq_keep
    | with_reducible apply progCheck_keep | with_reducible apply actDone_keep | with_reducible apply countTenant_keep
    | with_reducible apply givePages_keep | with_reducible apply frameExhausted_keep | with_reducible apply actBusy_keep
    | with_reducible apply startProgUse_keep | with_reducible apply enterSeq_keep | with_reducible apply count_keep
    | with_reducible apply issueAppend_keep | ((with_reducible apply Keep.out); with_reducible assumption)
    | ((with_reducible apply Keep.outO); with_reducible assumption) | with_reducible apply Keep.getD | with_reducible apply keep_ite
    | with_reducible apply keepP_ite | with_reducible apply keepO_ite | split
    | ((with_reducible apply KeepP.snd); with_reducible apply progCheck_keep) | with_reducible apply KeepP.mk' | with_reducible apply KeepO.mk'
    | with_reducible apply KeepO.none_ | dsimp only [id_eq] | fail_if_no_progress ((with_reducible apply keep_rec); rfl)

theorem appendDo_keep (inst : ℕ) (x : Inst) (k : ℕ) (p : Bytes) (m_ : EnMsg) (slot : Option ℕ) (h : Keep a s) : Keep a (appendDo inst x k p m_ slot s) := by
  unfold appendDo
  repeat' first
    | with_reducible assumption | intro _ | with_reducible apply doneReading_keep | with_reducible apply actEnd_keep
    | with_reducible apply epochCheck_keep | with_reducible apply redirect_keep | with_reducible apply appendAdmit_keep
    | ((with_reducible apply Keep.out); with_reducible assumption) | with_reducible apply Keep.getD | with_reducible apply keepO_map
    | with_reducible apply keepOP_map | with_reducible apply keepOQ_map | with_reducible apply keep_ite | with_reducible apply keepP_ite | split
    | ((with_reducible apply KeepP.snd); with_reducible apply epochCheck_keep) | with_reducible apply KeepP.mk' | dsimp only [id_eq]

theorem execAppendHeldRelease_keep (app : ℕ) (h : Keep a s) : KeepR a (execAppendHeldRelease app s) := by
  unfold execAppendHeldRelease
  repeat' first
    | with_reducible assumption | with_reducible apply issueAppend_keep | split | with_reducible apply KeepR.mk'

theorem ctlAnswer_keep (o : CtlOp) (status : ℕ) (rep : Bool) (single : Bool) (compacted : Bool) (h : Keep a s) : Keep a (ctlAnswer o status rep single compacted s) := by
  unfold ctlAnswer
  repeat' first
    | with_reducible assumption | with_reducible apply sendOnce_keep | with_reducible apply saveResp_keep

theorem beginRewriting_keep (slot : ℕ) (l : List ℕ) (h : Keep a s) : Keep a (beginRewriting slot l s) := by
  unfold beginRewriting
  repeat' first
    | with_reducible assumption | intro _ | with_reducible apply setTen_keep | with_reducible apply keep_foldl | with_reducible apply keep_ite | split
    | dsimp only [id_eq]

theorem endRewriting_keep (slot : ℕ) (l : List ℕ) (h : Keep a s) : Keep a (endRewriting slot l s) := by
  unfold endRewriting
  repeat' first
    | with_reducible assumption | intro _ | with_reducible apply setTen_keep | with_reducible apply keep_foldl | with_reducible apply keep_ite | split
    | dsimp only [id_eq]

theorem forwardCtl_keep (k : ℕ) (h : Keep a s) : Keep a (forwardCtl k s) := by
  unfold forwardCtl
  repeat' first
    | with_reducible assumption | with_reducible apply sendMsg_keep | ((with_reducible apply Keep.out); with_reducible assumption) | split
    | dsimp only [id_eq] | fail_if_no_progress ((with_reducible apply keep_rec); rfl)

theorem releaseHeld_keep (slot : ℕ) (h : Keep a s) : Keep a (releaseHeld slot s) := by
  unfold releaseHeld
  repeat' first
    | with_reducible assumption | fail_if_no_progress ((with_reducible apply keep_rec); rfl)

theorem ctlGone_keep (k : ℕ) (o : CtlOp) (h : Keep a s) : Keep a (ctlGone k o s) := by
  unfold ctlGone
  repeat' first
    | with_reducible assumption | with_reducible apply leaveSeq_keep | dsimp only [id_eq] | fail_if_no_progress ((with_reducible apply keep_rec); rfl)

theorem commitStep_keep (k : ℕ) (o : CtlOp) (h : Keep a s) : Keep a (commitStep k o s) := by
  unfold commitStep
  repeat' first
    | with_reducible assumption | intro _ | with_reducible apply setSeq_keep | with_reducible apply endRewriting_keep
    | with_reducible apply relayPages_keep | with_reducible apply releaseHeld_keep | with_reducible apply relayState_keep
    | with_reducible apply countTenant_keep | with_reducible apply ctlAnswer_keep | with_reducible apply ctlGone_keep | with_reducible apply keep_ite
    | split | dsimp only [id_eq]

theorem commitAbort_keep (k : ℕ) (o : CtlOp) (status : ℕ) (h : Keep a s) : Keep a (commitAbort k o status s) := by
  unfold commitAbort
  repeat' first
    | with_reducible assumption | intro _ | with_reducible apply dropReserved_keep | with_reducible apply releaseHeld_keep
    | with_reducible apply endRewriting_keep | with_reducible apply setSeq_keep | with_reducible apply ctlAnswer_keep
    | with_reducible apply ctlGone_keep | with_reducible apply keep_ite | split | dsimp only [id_eq]

theorem rollbackStep_keep (o : CtlOp) (h : Keep a s) : Keep a (rollbackStep o s) := by
  unfold rollbackStep
  repeat' first
    | with_reducible assumption | with_reducible apply relayState_keep | with_reducible apply setSeq_keep

theorem reserveFor_keep (slot : ℕ) (home : ℕ) (ti : ℕ) (idx : ℕ) (acc : List (ℕ × ℕ × ℕ)) (h : Keep a s) : KeepOP a (reserveFor slot home ti idx acc s) := by
  unfold reserveFor
  repeat' first
    | with_reducible assumption | intro _ | with_reducible apply reserveFrame_keep | ((with_reducible apply Keep.outOP); with_reducible assumption)
    | ((with_reducible apply Keep.outOPs); with_reducible assumption) | with_reducible apply keepO_map | with_reducible apply keepOP_map
    | with_reducible apply keepOQ_map | split | with_reducible apply KeepP.mk' | with_reducible apply KeepOP.mk' | with_reducible apply KeepOP.none_
    | with_reducible apply KeepOP.mkP | dsimp only [id_eq]

theorem reserveDecode_keep (slot : ℕ) (ti : ℕ) (idx : ℕ) (e : ℕ) (acc : List (ℕ × ℕ × ℕ)) (h : Keep a s) : KeepOP a (reserveDecode slot ti idx e acc s) := by
  unfold reserveDecode
  repeat' first
    | with_reducible assumption | intro _ | with_reducible apply reserveFor_keep | ((with_reducible apply Keep.outOP); with_reducible assumption)
    | ((with_reducible apply Keep.outOPs); with_reducible assumption) | with_reducible apply keepO_bind | with_reducible apply keepOP_bind
    | with_reducible apply KeepP.mk' | with_reducible apply KeepOP.mk' | with_reducible apply KeepOP.none_ | with_reducible apply KeepOP.mkP
    | dsimp only [id_eq]

theorem reserveShiftPage_keep (slot : ℕ) (ti : ℕ) (idx : ℕ) (e : ℕ) (acc : List (ℕ × ℕ × ℕ)) (h : Keep a s) : KeepOP a (reserveShiftPage slot ti idx e acc s) := by
  unfold reserveShiftPage
  repeat' first
    | with_reducible assumption | intro _ | with_reducible apply reserveDecode_keep | with_reducible apply reserveFor_keep
    | ((with_reducible apply Keep.outOP); with_reducible assumption) | ((with_reducible apply Keep.outOPs); with_reducible assumption)
    | with_reducible apply keepO_map | with_reducible apply keepOP_map | with_reducible apply keepOQ_map | with_reducible apply keepO_bind
    | with_reducible apply keepOP_bind | with_reducible apply keep_ite | with_reducible apply keepOP_ite | split | with_reducible apply KeepP.mk'
    | with_reducible apply KeepOP.mk' | with_reducible apply KeepOP.none_ | with_reducible apply KeepOP.mkP | dsimp only [id_eq]

theorem reserveShift_keep (slot : ℕ) (p1 : List (ℕ × ℕ)) (p2 : List (ℕ × ℕ × ℕ)) (h : Keep a s) : KeepOP a (reserveShift slot p1 p2 s) := by
  induction p1 generalizing s p2 with
  | nil =>
    unfold reserveShift
    repeat' first
      | with_reducible assumption | intro _ | with_reducible apply reserveShiftPage_keep
      | ((with_reducible apply Keep.outOP); with_reducible assumption) | ((with_reducible apply Keep.outOPs); with_reducible assumption) | split
      | with_reducible apply KeepP.mk' | with_reducible apply KeepOP.mk' | with_reducible apply KeepOP.none_ | with_reducible apply KeepOP.mkP
      | dsimp only [id_eq]
  | cons _ _ ih =>
    unfold reserveShift
    repeat' first
      | with_reducible assumption | intro _ | (apply ih) | with_reducible apply reserveShiftPage_keep
      | ((with_reducible apply Keep.outOP); with_reducible assumption) | ((with_reducible apply Keep.outOPs); with_reducible assumption) | split
      | with_reducible apply KeepP.mk' | with_reducible apply KeepOP.mk' | with_reducible apply KeepOP.none_ | with_reducible apply KeepOP.mkP
      | dsimp only [id_eq]

theorem startShift_keep (o : CtlOp) (program : ℕ) (h : Keep a s) : Keep a (startShift o program s) := by
  unfold startShift
  repeat' first
    | with_reducible assumption | intro _ | with_reducible apply shiftPage_keep | with_reducible apply keep_foldl | dsimp only [id_eq]

theorem unstripeAll_keep (slot : ℕ) (p1 : List (ℕ × ℕ)) (h : Keep a s) : KeepP a (unstripeAll slot p1 s) := by
  induction p1 generalizing s with
  | nil =>
    unfold unstripeAll
    repeat' first
      | with_reducible assumption | intro _ | with_reducible apply unstripePair_keep | ((with_reducible apply Keep.out); with_reducible assumption)
      | split | ((with_reducible apply KeepP.snd); with_reducible apply unstripePair_keep) | with_reducible apply KeepP.mk' | dsimp only [id_eq]
  | cons _ _ ih =>
    unfold unstripeAll
    repeat' first
      | with_reducible assumption | intro _ | (apply ih) | with_reducible apply unstripePair_keep
      | ((with_reducible apply Keep.out); with_reducible assumption) | split
      | ((with_reducible apply KeepP.snd); with_reducible apply unstripePair_keep) | with_reducible apply KeepP.mk' | dsimp only [id_eq]

theorem shiftAccept_keep (k : ℕ) (o : CtlOp) (h : Keep a s) : Keep a (shiftAccept k o s) := by
  unfold shiftAccept
  repeat' first
    | with_reducible assumption | intro _ | with_reducible apply ctlAnswer_keep | with_reducible apply frameExhausted_keep
    | with_reducible apply unstripeAll_keep | with_reducible apply lineLost_keep | with_reducible apply reserveShift_keep
    | with_reducible apply enterSeq_keep | with_reducible apply beginRewriting_keep | with_reducible apply setSeq_keep
    | with_reducible apply forwardCtl_keep | with_reducible apply takeFree_keep | with_reducible apply startShift_keep
    | ((with_reducible apply Keep.out); with_reducible assumption) | ((with_reducible apply Keep.outOP); with_reducible assumption)
    | ((with_reducible apply Keep.outOPs); with_reducible assumption) | split
    | ((with_reducible apply KeepP.snd); with_reducible apply unstripeAll_keep)
    | ((with_reducible apply KeepP.snd); with_reducible apply takeFree_keep) | with_reducible apply KeepP.mk' | with_reducible apply KeepOP.mk'
    | with_reducible apply KeepOP.none_ | with_reducible apply KeepOP.mkP | dsimp only [id_eq]
    | fail_if_no_progress ((with_reducible apply keep_rec); rfl)

theorem ctlAdmit_keep (k : ℕ) (o : CtlOp) (h : Keep a s) : Keep a (ctlAdmit k o s) := by
  unfold ctlAdmit
  repeat' first
    | with_reducible assumption | intro _ | with_reducible apply ctlAnswer_keep | with_reducible apply refuseSeq_keep
    | with_reducible apply forwardCtl_keep | with_reducible apply enterSeq_keep | with_reducible apply commitStep_keep
    | with_reducible apply setSeq_keep | with_reducible apply rollbackStep_keep | with_reducible apply ctlGone_keep
    | with_reducible apply countTenant_keep | with_reducible apply shiftAccept_keep | with_reducible apply keep_ite | split | dsimp only [id_eq]
    | fail_if_no_progress ((with_reducible apply keep_rec); rfl)

theorem admitNext_keep (slot : ℕ) (h : Keep a s) : Keep a (admitNext slot s) := by
  unfold admitNext
  repeat' first
    | with_reducible assumption | intro _ | with_reducible apply ctlAdmit_keep | with_reducible apply keep_foldl | with_reducible apply keep_ite
    | split | dsimp only [id_eq]

theorem execAppend_keep (inst : ℕ) (h : Keep a s) : KeepR a (execAppend inst s) := by
  unfold execAppend
  repeat' first
    | with_reducible assumption | intro _ | with_reducible apply lookSeq_keep | with_reducible apply appendDo_keep
    | with_reducible apply leaveWaits_keep | with_reducible apply joinWaits_keep | with_reducible apply admitNext_keep
    | ((with_reducible apply Keep.out); with_reducible assumption) | with_reducible apply keep_ite | with_reducible apply keepP_ite | split
    | ((with_reducible apply KeepP.snd); with_reducible apply lookSeq_keep) | with_reducible apply KeepR.mk' | with_reducible apply KeepR.fault
    | with_reducible apply KeepP.mk' | dsimp only [id_eq]

theorem ctlEnqueue_keep (o : CtlOp) (h : Keep a s) : Keep a (ctlEnqueue o s) := by
  unfold ctlEnqueue
  repeat' first
    | with_reducible assumption | with_reducible apply admitNext_keep | dsimp only [id_eq]
    | fail_if_no_progress ((with_reducible apply keep_rec); rfl)

theorem ctlArrive_keep (b_ : Bytes) (die : ℕ) (m_ : EnMsg) (h : Keep a s) : Keep a (ctlArrive b_ die m_ s) := by
  unfold ctlArrive
  repeat' first
    | with_reducible assumption | intro _ | with_reducible apply ctlAnswer_keep | with_reducible apply lookSeq_keep
    | with_reducible apply epochCheck_keep | with_reducible apply redirect_keep | with_reducible apply ctlEnqueue_keep
    | ((with_reducible apply Keep.out); with_reducible assumption) | with_reducible apply Keep.getD | with_reducible apply keep_ite
    | with_reducible apply keepP_ite | split | ((with_reducible apply KeepP.snd); with_reducible apply epochCheck_keep)
    | ((with_reducible apply KeepP.snd); with_reducible apply lookSeq_keep) | with_reducible apply KeepP.mk' | dsimp only [id_eq]

theorem execAppendFillStep_keep (app : ℕ) (h : Keep a s) : KeepR a (execAppendFillStep app s) := by
  unfold execAppendFillStep
  repeat' first
    | with_reducible assumption | intro _ | with_reducible apply setSeq_keep | with_reducible apply relayState_keep
    | with_reducible apply relayTokens_keep | with_reducible apply endBusy_keep | with_reducible apply endProgUse_keep
    | with_reducible apply leaveSeq_keep | with_reducible apply admitNext_keep | with_reducible apply keep_foldl | with_reducible apply keep_ite
    | split | with_reducible apply KeepR.mk' | dsimp only [id_eq] | fail_if_no_progress ((with_reducible apply keep_rec); rfl)

theorem compactReserve_keep (slot : ℕ) (o : CtlOp) (h : Keep a s) : KeepOP a (compactReserve slot o s) := by
  unfold compactReserve
  repeat' first
    | with_reducible assumption | intro _ | with_reducible apply reservePair_keep | ((with_reducible apply Keep.out); with_reducible assumption)
    | ((with_reducible apply Keep.outO); with_reducible assumption) | ((with_reducible apply Keep.outOP); with_reducible assumption)
    | ((with_reducible apply Keep.outOQ); with_reducible assumption) | with_reducible exact KeepOP.out ‹KeepOP a (some (_, _))› _ _ rfl
    | ((with_reducible apply Keep.outOPs); with_reducible assumption) | ((with_reducible apply Keep.outOQs); with_reducible assumption)
    | with_reducible apply keep_foldl | with_reducible apply keepP_foldl | with_reducible apply keepOP_foldl | with_reducible apply keepO_foldl
    | with_reducible apply keepO_map | with_reducible apply keepOP_map | with_reducible apply keepOQ_map | with_reducible apply keepO_bind
    | with_reducible apply keepOP_bind | split | with_reducible apply KeepP.mk' | with_reducible apply KeepO.mk' | with_reducible apply KeepO.none_
    | with_reducible apply KeepOP.mk' | with_reducible apply KeepOP.none_ | with_reducible apply KeepOP.mkP | with_reducible apply KeepOQ.mk'
    | with_reducible apply KeepOQ.none_ | dsimp only [id_eq]

theorem execCompactionStart_keep (slot : Fin 262144) (h : Keep a s) : KeepR a (execCompactionStart slot s) := by
  unfold execCompactionStart
  repeat' first
    | with_reducible assumption | intro _ | with_reducible apply compactReserve_keep | with_reducible apply commitAbort_keep
    | with_reducible apply frameExhausted_keep | with_reducible apply raise_keep | with_reducible apply beginRewriting_keep
    | with_reducible apply issueUnit_keep | ((with_reducible apply Keep.outOP); with_reducible assumption)
    | with_reducible exact KeepOP.out ‹KeepOP a (some (_, _))› _ _ rfl | ((with_reducible apply Keep.outOPs); with_reducible assumption)
    | with_reducible apply keep_foldl | with_reducible apply keepOP_foldl | with_reducible apply keep_ite | with_reducible apply keepOP_ite | split
    | with_reducible apply KeepR.mk' | with_reducible apply KeepR.fault | with_reducible apply KeepP.mk' | with_reducible apply KeepOP.mk'
    | with_reducible apply KeepOP.none_ | with_reducible apply KeepOP.mkP | dsimp only [id_eq]
    | fail_if_no_progress ((with_reducible apply keep_rec); rfl)

theorem execCommitFinalStep_keep (slot : Fin 262144) (h : Keep a s) : KeepR a (execCommitFinalStep slot s) := by
  unfold execCommitFinalStep
  repeat' first
    | with_reducible assumption | with_reducible apply ctlAnswer_keep | with_reducible apply ctlGone_keep | with_reducible apply commitAbort_keep
    | with_reducible apply commitStep_keep | with_reducible apply admitNext_keep | split | with_reducible apply KeepR.mk'

theorem shiftAnswer_keep (slot : ℕ) (k : ℕ) (o : CtlOp) (h : Keep a s) : Keep a (shiftAnswer slot k o s) := by
  unfold shiftAnswer
  repeat' first
    | with_reducible assumption | intro _ | with_reducible apply ctlAnswer_keep | with_reducible apply ctlGone_keep
    | with_reducible apply admitNext_keep | with_reducible apply keep_ite | split | dsimp only [id_eq]

theorem shiftStep_keep (slot : ℕ) (o : CtlOp) (h : Keep a s) : Keep a (shiftStep slot o s) := by
  unfold shiftStep
  repeat' first
    | with_reducible assumption | intro _ | with_reducible apply endRewriting_keep | with_reducible apply dropReserved_keep
    | with_reducible apply seqLost_keep | with_reducible apply setSeq_keep | with_reducible apply keep_ite | split | dsimp only [id_eq]

theorem execShiftComplete_keep (slot : Fin 262144) (h : Keep a s) : KeepR a (execShiftComplete slot s) := by
  unfold execShiftComplete
  repeat' first
    | with_reducible assumption | intro _ | with_reducible apply shiftAnswer_keep | with_reducible apply shiftStep_keep
    | with_reducible apply keep_ite | split | with_reducible apply KeepR.mk' | with_reducible apply KeepR.fault | dsimp only [id_eq]
    | fail_if_no_progress ((with_reducible apply keep_rec); rfl)

/-! ## Machine/Query.lean -/

theorem setReq_keep (n : ℕ) (q : Req) (h : Keep a s) : Keep a (setReq n q s) := by
  unfold setReq
  repeat' first
    | with_reducible assumption | fail_if_no_progress ((with_reducible apply keep_rec); rfl)

theorem queryRefused_keep (inst : ℕ) (k : ℕ) (status : ℕ) (h : Keep a s) : Keep a (queryRefused inst k status s) := by
  unfold queryRefused
  repeat' first
    | with_reducible assumption | with_reducible apply actEnd_keep

theorem shapeMismatch_keep (slot : ℕ) (layer : ℕ) (tenant : ℕ) (h : Keep a s) : Keep a (shapeMismatch slot layer tenant s) := by
  unfold shapeMismatch
  repeat' first
    | with_reducible assumption | intro _ | with_reducible apply raise_keep | dsimp only [id_eq]

theorem programGate_keep (tenant : ℕ) (slot : ℕ) (layer : ℕ) (prog : ℕ) (gen : ℕ) (who : optParam Who none) (h : Keep a s) : KeepP a (programGate tenant slot layer prog gen s who) := by
  unfold programGate
  repeat' first
    | with_reducible assumption | intro _ | with_reducible apply progCheck_keep | with_reducible apply shapeMismatch_keep
    | with_reducible apply raise_keep | ((with_reducible apply Keep.out); with_reducible assumption) | with_reducible apply keep_ite
    | with_reducible apply keepP_ite | split | ((with_reducible apply KeepP.snd); with_reducible apply progCheck_keep)
    | with_reducible apply KeepP.mk' | dsimp only [id_eq]

theorem treeGate_keep (tenant : ℕ) (slot : ℕ) (img : Bytes) (parents : Option ℕ) (incTail : Bool) (nq : ℕ) (who : optParam Who none) (h : Keep a s) : KeepP a (treeGate tenant slot img parents incTail nq s who) := by
  unfold treeGate
  repeat' first
    | with_reducible assumption | intro _ | with_reducible apply refuseSeq_keep | with_reducible apply keep_ite | with_reducible apply keepP_ite
    | split | with_reducible apply KeepP.mk' | dsimp only [id_eq]

theorem queryDo_keep (x : Inst) (inst : ℕ) (k : ℕ) (p : Bytes) (m_ : EnMsg) (h : Keep a s) : Keep a (queryDo x inst k p m_ s) := by
  unfold queryDo
  repeat' first
    | with_reducible assumption | intro _ | with_reducible apply lookSeq_keep | with_reducible apply doneReading_keep
    | with_reducible apply queryRefused_keep | with_reducible apply shapeMismatch_keep | with_reducible apply epochCheck_keep
    | with_reducible apply refuseSeq_keep | with_reducible apply programGate_keep | with_reducible apply treeGate_keep
    | with_reducible apply startProgUse_keep | with_reducible apply actBusy_keep | with_reducible apply setReq_keep
    | ((with_reducible apply Keep.out); with_reducible assumption) | with_reducible apply Keep.getD | with_reducible apply keep_ite
    | with_reducible apply keepP_ite | split | ((with_reducible apply KeepP.snd); with_reducible apply epochCheck_keep)
    | ((with_reducible apply KeepP.snd); with_reducible apply lookSeq_keep)
    | ((with_reducible apply KeepP.snd); with_reducible apply programGate_keep)
    | ((with_reducible apply KeepP.snd); with_reducible apply treeGate_keep) | with_reducible apply KeepP.mk' | dsimp only [id_eq]
    | fail_if_no_progress ((with_reducible apply keep_rec); rfl)

theorem execQuery_keep (inst : ℕ) (h : Keep a s) : KeepR a (execQuery inst s) := by
  unfold execQuery
  repeat' first
    | with_reducible assumption | with_reducible apply queryDo_keep | split | with_reducible apply KeepR.mk'

theorem reqRefused_keep (n : ℕ) (status : ℕ) (q : Req) (h : Keep a s) : Keep a (reqRefused n status q s) := by
  unfold reqRefused
  repeat' first
    | with_reducible assumption | intro _ | with_reducible apply endReq_keep | with_reducible apply count_keep | with_reducible apply keep_ite

theorem touchTensors_keep (q : Req) (img : Bytes) (h : Keep a s) : Keep a (touchTensors q img s) := by
  unfold touchTensors
  repeat' first
    | with_reducible assumption | intro _ | with_reducible apply setTen_keep | with_reducible apply keep_foldl

theorem noteWait_keep (n : ℕ) (h : Keep a s) : Keep a (noteWait n s) := by
  unfold noteWait
  repeat' first
    | with_reducible assumption | intro _ | with_reducible apply acct_keep | with_reducible apply setReq_keep | with_reducible apply keep_ite | split
    | dsimp only [id_eq]

theorem confirmReq_keep (n : ℕ) (q : Req) (t : Tuple) (b_ : ℕ) (h : Keep a s) : Keep a (confirmReq n q t b_ s) := by
  unfold confirmReq
  repeat' first
    | with_reducible assumption | intro _ | with_reducible apply count_keep | with_reducible apply acct_keep | with_reducible apply setReq_keep
    | with_reducible apply setEntryRec_keep | with_reducible apply noteWait_keep | with_reducible apply touchTensors_keep
    | with_reducible apply enterSeq_keep | ((with_reducible apply Keep.out); with_reducible assumption)
    | ((with_reducible apply Keep.outO); with_reducible assumption) | ((with_reducible apply Keep.outOP); with_reducible assumption)
    | ((with_reducible apply Keep.outOQ); with_reducible assumption) | with_reducible exact KeepOP.out ‹KeepOP a (some (_, _))› _ _ rfl
    | ((with_reducible apply Keep.outOPs); with_reducible assumption) | ((with_reducible apply Keep.outOQs); with_reducible assumption)
    | with_reducible apply keep_foldl | with_reducible apply keepP_foldl | with_reducible apply keepOP_foldl | with_reducible apply keepO_foldl
    | with_reducible apply keep_ite | with_reducible apply keepP_ite | with_reducible apply keepO_ite | with_reducible apply keepOP_ite | split
    | with_reducible apply KeepP.mk' | with_reducible apply KeepO.mk' | with_reducible apply KeepO.none_ | with_reducible apply KeepOP.mk'
    | with_reducible apply KeepOP.none_ | with_reducible apply KeepOP.mkP | with_reducible apply KeepOQ.mk' | with_reducible apply KeepOQ.none_
    | dsimp only [id_eq] | fail_if_no_progress ((with_reducible apply keep_rec); rfl)

theorem confirmQueue_keep (n : ℕ) (q : Req) (t : Tuple) (b_ : ℕ) (tenant : ℕ) (h : Keep a s) : Keep a (confirmQueue n q t b_ tenant s) := by
  unfold confirmQueue
  repeat' first
    | with_reducible assumption | intro _ | with_reducible apply reqRefused_keep | with_reducible apply acct_keep
    | with_reducible apply confirmReq_keep | with_reducible apply keep_ite

theorem confirmDo_keep (n : ℕ) (q : Req) (h : Keep a s) : Keep a (confirmDo n q s) := by
  unfold confirmDo
  repeat' first
    | with_reducible assumption | intro _ | with_reducible apply lookSeq_keep | with_reducible apply reqRefused_keep
    | with_reducible apply refuseSeq_keep | with_reducible apply count_keep | with_reducible apply setReq_keep | with_reducible apply treeGate_keep
    | with_reducible apply confirmQueue_keep | with_reducible apply shapeMismatch_keep | ((with_reducible apply Keep.out); with_reducible assumption)
    | with_reducible apply keep_ite | with_reducible apply keepP_ite | split | ((with_reducible apply KeepP.snd); with_reducible apply lookSeq_keep)
    | ((with_reducible apply KeepP.snd); with_reducible apply treeGate_keep) | with_reducible apply KeepP.mk' | dsimp only [id_eq]

theorem execConfirm_keep (req : ℕ) (h : Keep a s) : KeepR a (execConfirm req s) := by
  unfold execConfirm
  repeat' first
    | with_reducible assumption | with_reducible apply confirmDo_keep | split | with_reducible apply KeepR.mk'

theorem execConfirmArrival_keep (req : ℕ) (r : Fin 16) (h : Keep a s) : KeepR a (execConfirmArrival req r s) := by
  unfold execConfirmArrival
  repeat' first
    | with_reducible assumption | intro _ | with_reducible apply noteWait_keep | with_reducible apply setReq_keep | with_reducible apply keep_ite
    | split | with_reducible apply KeepR.mk' | with_reducible apply KeepR.fault | dsimp only [id_eq]

/-! ## Machine/Blocks.lean -/

theorem serveTurn_keep (x : ℕ) (l : List Turn) (w : Turn) (h : Keep a s) : Keep a (serveTurn x l w s) := by
  unfold serveTurn
  repeat' first
    | with_reducible assumption | intro _ | with_reducible apply keep_foldl | with_reducible apply keep_ite | split | dsimp only [id_eq]
    | fail_if_no_progress ((with_reducible apply keep_rec); rfl)

theorem drrTurn_keep (x : ℕ) (p : ℕ) (heads : List (ℕ × ℕ)) (h : Keep a s) : KeepO a (drrTurn x p heads s) := by
  unfold drrTurn
  repeat' first
    | with_reducible assumption | intro _ | with_reducible apply serveTurn_keep | with_reducible apply keep_ite | with_reducible apply keepO_ite
    | split | with_reducible apply KeepO.mk' | with_reducible apply KeepO.none_ | dsimp only [id_eq]

theorem laneTurn_keep (x : ℕ) (n : ℕ) (i : ℕ) (l : List LaneAt) (cost : LaneAt → ℕ) (h : Keep a s) : KeepO a (laneTurn x n i l cost s) := by
  unfold laneTurn
  repeat' first
    | with_reducible assumption | intro _ | with_reducible apply drrTurn_keep | ((with_reducible apply Keep.outO); with_reducible assumption)
    | with_reducible apply keepO_map | with_reducible apply keepOP_map | with_reducible apply keepOQ_map | with_reducible apply keep_ite
    | with_reducible apply keepO_ite | split | with_reducible apply KeepO.mk' | with_reducible apply KeepO.none_ | dsimp only [id_eq]

theorem ctxTurn_keep (r : ℕ) (b_ : ℕ) (n : ℕ) (i : ℕ) (lc : Bool) (h : Keep a s) : KeepO a (ctxTurn r b_ n i lc s) := by
  unfold ctxTurn
  repeat' first
    | with_reducible assumption | intro _ | with_reducible apply laneTurn_keep | ((with_reducible apply Keep.outO); with_reducible assumption)
    | with_reducible apply keep_ite | with_reducible apply keepO_ite | split | with_reducible apply KeepO.mk' | with_reducible apply KeepO.none_
    | dsimp only [id_eq]

theorem modLane_keep (n : ℕ) (r : ℕ) (i : ℕ) (f : Lane → Lane) (h : Keep a s) : Keep a (modLane n r i f s) := by
  unfold modLane
  repeat' first
    | with_reducible assumption | with_reducible apply setReq_keep | split

theorem takeContext_keep (n : ℕ) (r : ℕ) (i : ℕ) (b_ : ℕ) (h : Keep a s) : Keep a (takeContext n r i b_ s) := by
  unfold takeContext
  repeat' first
    | with_reducible assumption | intro _ | with_reducible apply modLane_keep | with_reducible apply setReq_keep | split | dsimp only [id_eq]

theorem giveContexts_keep (n : ℕ) (r : ℕ) (q : Req) (h : Keep a s) : Keep a (giveContexts n r q s) := by
  unfold giveContexts
  repeat' first
    | with_reducible assumption | intro _ | with_reducible apply modLane_keep | with_reducible apply ctxTurn_keep
    | with_reducible apply takeContext_keep | ((with_reducible apply Keep.outO); with_reducible assumption) | with_reducible apply keep_foldl
    | with_reducible apply keepO_foldl | with_reducible apply keep_ite | with_reducible apply keepO_ite | split | with_reducible apply KeepO.mk'
    | with_reducible apply KeepO.none_ | dsimp only [id_eq]

theorem execContextAllocate_keep (req : ℕ) (r : Fin 16) (h : Keep a s) : KeepR a (execContextAllocate req r s) := by
  unfold execContextAllocate
  repeat' first
    | with_reducible assumption | intro _ | with_reducible apply markBusy_keep | with_reducible apply noteWait_keep
    | with_reducible apply giveContexts_keep | with_reducible apply keep_ite | split | with_reducible apply KeepR.mk'
    | with_reducible apply KeepR.fault | dsimp only [id_eq]

theorem grantRead_keep (r : ℕ) (p : ℕ) (lc : Bool) (others : ℕ → Bool) (left : Tbl ℕ) (h : Keep a s) : KeepP a (grantRead r p lc others left s) := by
  unfold grantRead
  repeat' first
    | with_reducible assumption | intro _ | with_reducible apply setTokens_keep | with_reducible apply keep_ite | with_reducible apply keepP_ite
    | split | with_reducible apply KeepP.mk' | dsimp only [id_eq]

theorem walkKinds_keep (slot : ℕ) (layer : ℕ) (idx : ℕ) (r : ℕ) (block : ℕ) (p5 : List ℕ) (h : Keep a s) : KeepP a (walkKinds slot layer idx r block p5 s) := by
  induction p5 generalizing s with
  | nil =>
    unfold walkKinds
    repeat' first
      | with_reducible assumption | with_reducible apply KeepP.mk'
  | cons _ _ ih =>
    unfold walkKinds
    repeat' first
      | with_reducible assumption | ((with_reducible apply KeepP.snd); apply ih)
      | ((with_reducible apply KeepP.snd); with_reducible apply translate_keep) | with_reducible apply KeepP.mk'

theorem noteRead_keep (p : ℕ) (n : ℕ) (h : Keep a s) : Keep a (noteRead p n s) := by
  unfold noteRead
  repeat' first
    | with_reducible assumption | dsimp only [id_eq] | fail_if_no_progress ((with_reducible apply keep_rec); rfl)

theorem chargeRead_keep (n : ℕ) (r : ℕ) (bytes : ℕ) (h : Keep a s) : Keep a (chargeRead n r bytes s) := by
  unfold chargeRead
  repeat' first
    | with_reducible assumption | intro _ | with_reducible apply noteRead_keep | with_reducible apply acct_keep | with_reducible apply setReq_keep
    | with_reducible apply keep_ite | split | dsimp only [id_eq]

theorem prefetch_keep (slot : ℕ) (vpn : ℕ) (sv : ℕ) (region : ℕ) (block : ℕ) (h : Keep a s) : Keep a (prefetch slot vpn sv region block s) := by
  unfold prefetch
  repeat' first
    | with_reducible assumption | intro _ | with_reducible apply keepO_map | with_reducible apply keepOP_map | with_reducible apply keepOQ_map
    | with_reducible apply keep_ite | split | dsimp only [id_eq] | fail_if_no_progress ((with_reducible apply keep_rec); rfl)

theorem prefetchNext_keep (q : Req) (r : ℕ) (l : Lane) (h : Keep a s) : Keep a (prefetchNext q r l s) := by
  unfold prefetchNext
  repeat' first
    | with_reducible assumption | intro _ | with_reducible apply prefetch_keep | with_reducible apply keep_foldl | split | dsimp only [id_eq]

theorem fillBuffer_keep (n : ℕ) (r : ℕ) (i : ℕ) (idx : ℕ) (q : Req) (t : Tuple) (l : Lane) (leaves : List (ℕ × ℕ)) (pages : List (ℕ × Bytes)) (h : Keep a s) : Keep a (fillBuffer n r i idx q t l leaves pages s) := by
  unfold fillBuffer
  repeat' first
    | with_reducible assumption | intro _ | with_reducible apply grantRead_keep | with_reducible apply chargeRead_keep
    | with_reducible apply modLane_keep | with_reducible apply prefetchNext_keep | ((with_reducible apply Keep.out); with_reducible assumption)
    | with_reducible apply Keep.getD | with_reducible apply keepO_map | with_reducible apply keepOP_map | with_reducible apply keepOQ_map
    | with_reducible apply keep_ite | with_reducible apply keepP_ite | split | ((with_reducible apply KeepP.snd); with_reducible apply grantRead_keep)
    | with_reducible apply KeepP.mk' | dsimp only [id_eq]

theorem loseRead_keep (n : ℕ) (slot : ℕ) (h : Keep a s) : Keep a (loseRead n slot s) := by
  unfold loseRead
  repeat' first
    | with_reducible assumption | with_reducible apply seqLost_keep | with_reducible apply endReq_keep

theorem readFailed_keep (n : ℕ) (r : ℕ) (slot : ℕ) (layer : ℕ) (status : ℕ) (lost : Bool) (confirmed : Bool) (h : Keep a s) : Keep a (readFailed n r slot layer status lost confirmed s) := by
  unfold readFailed
  repeat' first
    | with_reducible assumption | intro _ | with_reducible apply endReq_keep | with_reducible apply count_keep | with_reducible apply loseRead_keep
    | with_reducible apply raise_keep | with_reducible apply keep_ite | split | dsimp only [id_eq]

theorem readMet_keep (n : ℕ) (r : ℕ) (q : Req) (idx : ℕ) (leaves : List (ℕ × ℕ)) (outcome : ReadOutcome) (h : Keep a s) : KeepP a (readMet n r q idx leaves outcome s) := by
  unfold readMet
  repeat' first
    | with_reducible assumption | intro _ | with_reducible apply lineCorrected_keep | with_reducible apply loseRead_keep
    | with_reducible apply lineLost_keep | with_reducible apply raiseCount_keep | with_reducible apply endReq_keep
    | with_reducible apply tierTimeout_keep | with_reducible apply raise_keep | with_reducible apply fenceRegion_keep | split
    | with_reducible apply KeepP.mk' | dsimp only [id_eq]

theorem pageReadDo_keep (n : ℕ) (r : ℕ) (i : ℕ) (q : Req) (x : ReqRgn) (l : Lane) (t : Tuple) (idx : ℕ) (outcome : ReadOutcome) (h : Keep a s) : Keep a (pageReadDo n r i q x l t idx outcome s) := by
  unfold pageReadDo
  repeat' first
    | with_reducible assumption | intro _ | with_reducible apply walkKinds_keep | with_reducible apply readFailed_keep
    | with_reducible apply holdRead_keep | with_reducible apply readMet_keep | with_reducible apply fillBuffer_keep
    | with_reducible apply touchCodes_keep | ((with_reducible apply Keep.out); with_reducible assumption) | with_reducible apply keep_ite
    | with_reducible apply keepP_ite | split | ((with_reducible apply KeepP.snd); with_reducible apply walkKinds_keep)
    | ((with_reducible apply KeepP.snd); with_reducible apply readMet_keep) | with_reducible apply KeepP.mk' | dsimp only [id_eq]

theorem execPageRead_keep (req : ℕ) (r : Fin 16) (lane : Fin 8) (outcome : ReadOutcome) (h : Keep a s) : KeepR a (execPageRead req r lane outcome s) := by
  unfold execPageRead
  repeat' first
    | with_reducible assumption | intro _ | with_reducible apply pageReadDo_keep | with_reducible apply keep_ite | split
    | with_reducible apply KeepR.mk' | with_reducible apply KeepR.fault | dsimp only [id_eq]

theorem cellRetry_keep (r : ℕ) (b_ : ℕ) (c : ℕ) (d : Detail) (h : Keep a s) : Keep a (cellRetry r b_ c d s) := by
  unfold cellRetry
  repeat' first
    | with_reducible assumption | intro _ | with_reducible apply raise_keep | with_reducible apply setBlk_keep | dsimp only [id_eq]

theorem cellFence_keep (r : ℕ) (b_ : ℕ) (c : ℕ) (d : Detail) (h : Keep a s) : Keep a (cellFence r b_ c d s) := by
  unfold cellFence
  repeat' first
    | with_reducible assumption | intro _ | with_reducible apply raise_keep | with_reducible apply setBlk_keep | dsimp only [id_eq]

theorem cellsFail_keep (r : ℕ) (b_ : ℕ) (cells : List ℕ) (d : ℕ → Detail) (h : Keep a s) : Keep a (cellsFail r b_ cells d s) := by
  unfold cellsFail
  repeat' first
    | with_reducible assumption | intro _ | with_reducible apply cellFence_keep | with_reducible apply fenceBlock_keep
    | with_reducible apply setBlk_keep | with_reducible apply keep_foldl | with_reducible apply keep_ite | split | dsimp only [id_eq]

theorem pageTurn_keep (r : ℕ) (n : ℕ) (i : ℕ) (q : Req) (l : Lane) (h : Keep a s) : KeepO a (pageTurn r n i q l s) := by
  unfold pageTurn
  repeat' first
    | with_reducible assumption | intro _ | with_reducible apply laneTurn_keep | ((with_reducible apply Keep.outO); with_reducible assumption)
    | with_reducible apply keepO_bind | with_reducible apply keepOP_bind | with_reducible apply keep_ite | with_reducible apply keepO_ite | split
    | with_reducible apply KeepO.mk' | with_reducible apply KeepO.none_ | dsimp only [id_eq]

theorem giveCell_keep (r : ℕ) (n : ℕ) (i : ℕ) (l : Lane) (h : Keep a s) : KeepP a (giveCell r n i l s) := by
  unfold giveCell
  repeat' first
    | with_reducible assumption | intro _ | with_reducible apply modLane_keep | with_reducible apply setBlk_keep | split
    | with_reducible apply KeepP.mk' | dsimp only [id_eq]

theorem tileDone_keep (n : ℕ) (r : ℕ) (i : ℕ) (q : Req) (t : Tuple) (b_ : PageBuf) (tile : ℕ × ℕ) (wrong : Bool) (h : Keep a s) : Keep a (tileDone n r i q t b_ tile wrong s) := by
  unfold tileDone
  repeat' first
    | with_reducible assumption | intro _ | with_reducible apply takeFree_keep | with_reducible apply modLane_keep
    | ((with_reducible apply Keep.out); with_reducible assumption) | with_reducible apply keep_ite | with_reducible apply keepP_ite | split
    | ((with_reducible apply KeepP.snd); with_reducible apply takeFree_keep) | with_reducible apply KeepP.mk' | dsimp only [id_eq]

theorem tileCheckDo_keep (n : ℕ) (r : ℕ) (i : ℕ) (q : Req) (l : Lane) (t : Tuple) (b_ : PageBuf) (tile : ℕ × ℕ) (faults : List TileFault) (h : Keep a s) : Keep a (tileCheckDo n r i q l t b_ tile faults s) := by
  unfold tileCheckDo
  repeat' first
    | with_reducible assumption | intro _ | with_reducible apply pageTurn_keep | with_reducible apply giveCell_keep
    | with_reducible apply tileDone_keep | with_reducible apply modLane_keep | with_reducible apply cellRetry_keep
    | with_reducible apply cellsFail_keep | ((with_reducible apply Keep.out); with_reducible assumption)
    | ((with_reducible apply Keep.outO); with_reducible assumption) | with_reducible apply keep_foldl | with_reducible apply keepP_foldl
    | with_reducible apply keepO_foldl | with_reducible apply keep_ite | with_reducible apply keepP_ite | with_reducible apply keepO_ite | split
    | ((with_reducible apply KeepP.snd); with_reducible apply giveCell_keep) | with_reducible apply KeepP.mk' | with_reducible apply KeepO.mk'
    | with_reducible apply KeepO.none_ | dsimp only [id_eq]

theorem execTileCheck_keep (req : ℕ) (r : Fin 16) (lane : Fin 8) (faults : List TileFault) (h : Keep a s) : KeepR a (execTileCheck req r lane faults s) := by
  unfold execTileCheck
  repeat' first
    | with_reducible assumption | intro _ | with_reducible apply tileCheckDo_keep | with_reducible apply modLane_keep | with_reducible apply keep_ite
    | split | with_reducible apply KeepR.mk' | with_reducible apply KeepR.fault | dsimp only [id_eq]

theorem execRegionFold_keep (req : ℕ) (r : Fin 16) (h : Keep a s) : KeepR a (execRegionFold req r s) := by
  unfold execRegionFold
  repeat' first
    | with_reducible assumption | intro _ | with_reducible apply countN_keep | with_reducible apply setReq_keep
    | ((with_reducible apply Keep.out); with_reducible assumption) | ((with_reducible apply Keep.outO); with_reducible assumption)
    | ((with_reducible apply Keep.outOP); with_reducible assumption) | ((with_reducible apply Keep.outOQ); with_reducible assumption)
    | with_reducible exact KeepOP.out ‹KeepOP a (some (_, _))› _ _ rfl | ((with_reducible apply Keep.outOPs); with_reducible assumption)
    | ((with_reducible apply Keep.outOQs); with_reducible assumption) | with_reducible apply keep_foldl | with_reducible apply keepP_foldl
    | with_reducible apply keepOP_foldl | with_reducible apply keepO_foldl | with_reducible apply keep_ite | with_reducible apply keepP_ite
    | with_reducible apply keepO_ite | with_reducible apply keepOP_ite | split | with_reducible apply KeepR.mk' | with_reducible apply KeepR.fault
    | with_reducible apply KeepP.mk' | with_reducible apply KeepO.mk' | with_reducible apply KeepO.none_ | with_reducible apply KeepOP.mk'
    | with_reducible apply KeepOP.none_ | with_reducible apply KeepOP.mkP | with_reducible apply KeepOQ.mk' | with_reducible apply KeepOQ.none_
    | dsimp only [id_eq]

theorem emitResult_keep (n : ℕ) (q : Req) (t : Tuple) (rows : Tbl Partial) (h : Keep a s) : Keep a (emitResult n q t rows s) := by
  unfold emitResult
  repeat' first
    | with_reducible assumption | intro _ | with_reducible apply endReq_keep | with_reducible apply count_keep | with_reducible apply sendMsg_keep
    | ((with_reducible apply Keep.out); with_reducible assumption) | with_reducible apply keep_ite | with_reducible apply keepP_ite | split
    | ((with_reducible apply KeepP.snd); with_reducible apply sendMsg_keep) | with_reducible apply KeepP.mk' | dsimp only [id_eq]

theorem execNetFoldEmit_keep (req : ℕ) (h : Keep a s) : KeepR a (execNetFoldEmit req s) := by
  unfold execNetFoldEmit
  repeat' first
    | with_reducible assumption | intro _ | with_reducible apply emitResult_keep | ((with_reducible apply Keep.out); with_reducible assumption)
    | ((with_reducible apply Keep.outO); with_reducible assumption) | ((with_reducible apply Keep.outOP); with_reducible assumption)
    | ((with_reducible apply Keep.outOQ); with_reducible assumption) | with_reducible exact KeepOP.out ‹KeepOP a (some (_, _))› _ _ rfl
    | ((with_reducible apply Keep.outOPs); with_reducible assumption) | ((with_reducible apply Keep.outOQs); with_reducible assumption)
    | with_reducible apply Keep.getD | with_reducible apply keep_foldl | with_reducible apply keepP_foldl | with_reducible apply keepOP_foldl
    | with_reducible apply keepO_foldl | with_reducible apply keep_ite | with_reducible apply keepP_ite | with_reducible apply keepO_ite
    | with_reducible apply keepOP_ite | split | with_reducible apply KeepR.mk' | with_reducible apply KeepR.fault | with_reducible apply KeepP.mk'
    | with_reducible apply KeepO.mk' | with_reducible apply KeepO.none_ | with_reducible apply KeepOP.mk' | with_reducible apply KeepOP.none_
    | with_reducible apply KeepOP.mkP | with_reducible apply KeepOQ.mk' | with_reducible apply KeepOQ.none_ | dsimp only [id_eq]

theorem execPreempt_keep (req : ℕ) (r : Fin 16) (block : Fin 8) (h : Keep a s) : KeepR a (execPreempt req r block s) := by
  unfold execPreempt
  repeat' first
    | with_reducible assumption | intro _ | with_reducible apply raiseCount_keep | with_reducible apply modLane_keep | with_reducible apply acct_keep
    | with_reducible apply noteWait_keep | with_reducible apply takeContext_keep | with_reducible apply keepO_map | with_reducible apply keepOP_map
    | with_reducible apply keepOQ_map | with_reducible apply keep_ite | split | with_reducible apply KeepR.mk' | with_reducible apply KeepR.fault
    | dsimp only [id_eq]

theorem execContextResume_keep (r : Fin 16) (block : Fin 8) (h : Keep a s) : KeepR a (execContextResume r block s) := by
  unfold execContextResume
  refine KeepR.mk' (keep_ite (fun _ => h) fun _ => ?_)
  dsimp only
  split
  · exact h
  · next heq =>
    refine modLane_keep _ _ _ _ (acct_keep _ _ _ _ (Keep.outOP heq ?_))
    exact keepOP_findSome fun _ => keepOP_map fun _ e => KeepP.mk' (Keep.outO e (ctxTurn_keep _ _ _ _ _ h))

/-! ## Machine/Migrate.lean -/

theorem tenMalformed_keep (slot : ℕ) (ti : ℕ) (h : Keep a s) : Keep a (tenMalformed slot ti s) := by
  unfold tenMalformed
  repeat' first
    | with_reducible assumption | intro _ | with_reducible apply raise_keep | dsimp only [id_eq]

theorem copyAllDown_keep (slot : ℕ) (ti : ℕ) (p2 : List (ℕ × ℕ)) (h : Keep a s) : KeepP a (copyAllDown slot ti p2 s) := by
  induction p2 generalizing s with
  | nil =>
    unfold copyAllDown
    repeat' first
      | with_reducible assumption | with_reducible apply KeepP.mk'
  | cons _ _ ih =>
    unfold copyAllDown
    repeat' first
      | with_reducible assumption | intro _ | (apply ih) | with_reducible apply copyDown_keep
      | ((with_reducible apply Keep.outO); with_reducible assumption) | with_reducible apply keepP_ite | split | with_reducible apply KeepP.mk'

theorem copyUp_keep (slot : ℕ) (ti : ℕ) (r : ℕ × ℕ) (h : Keep a s) : Keep a (copyUp slot ti r s) := by
  unfold copyUp
  repeat' first
    | with_reducible assumption | intro _ | with_reducible apply writeFast_keep | with_reducible apply reuseFast_keep
    | with_reducible apply nameOff_keep | with_reducible apply keep_ite | split | dsimp only [id_eq]
    | fail_if_no_progress ((with_reducible apply keep_rec); rfl)

theorem migError_keep (outcome : MigOutcome) (h : Keep a s) : Keep a (migError outcome s) := by
  unfold migError
  repeat' first
    | with_reducible assumption | intro _ | with_reducible apply raiseCount_keep | with_reducible apply tierTimeout_keep | split | dsimp only [id_eq]

theorem demoteDone_keep (slot : ℕ) (ti : ℕ) (h : Keep a s) : Keep a (demoteDone slot ti s) := by
  unfold demoteDone
  repeat' first
    | with_reducible assumption | intro _ | with_reducible apply migFinish_keep | with_reducible apply tenMalformed_keep
    | with_reducible apply copyAllDown_keep | with_reducible apply raise_keep | with_reducible apply giveUpFast_keep
    | ((with_reducible apply Keep.out); with_reducible assumption) | with_reducible apply keep_foldl | with_reducible apply keepP_foldl
    | with_reducible apply keep_ite | with_reducible apply keepP_ite | split
    | ((with_reducible apply KeepP.snd); with_reducible apply copyAllDown_keep) | with_reducible apply KeepP.mk' | dsimp only [id_eq]

theorem migFail_keep (slot : ℕ) (ti : ℕ) (m_ : Mig) (lost : Bool) (h : Keep a s) : Keep a (migFail slot ti m_ lost s) := by
  unfold migFail
  repeat' first
    | with_reducible assumption | intro _ | with_reducible apply migFinish_keep | with_reducible apply seqLost_keep
    | with_reducible apply dropReserved_keep | with_reducible apply keep_ite | split | dsimp only [id_eq]

theorem migDone_keep (slot : ℕ) (ti : ℕ) (m_ : Mig) (h : Keep a s) : Keep a (migDone slot ti m_ s) := by
  unfold migDone
  repeat' first
    | with_reducible assumption | intro _ | with_reducible apply demoteDone_keep | with_reducible apply migFinish_keep
    | with_reducible apply copyUp_keep | with_reducible apply keep_foldl | with_reducible apply keep_ite | split | dsimp only [id_eq]

theorem execMigrationEnd_keep (ten : TensorId) (outcome : MigOutcome) (h : Keep a s) : KeepR a (execMigrationEnd ten outcome s) := by
  unfold execMigrationEnd
  repeat' first
    | with_reducible assumption | intro _ | with_reducible apply migFail_keep | with_reducible apply migError_keep
    | with_reducible apply readChunks_keep | with_reducible apply baseLineLost_keep | with_reducible apply lineBad_keep
    | with_reducible apply migDone_keep | ((with_reducible apply Keep.out); with_reducible assumption) | with_reducible apply keep_ite
    | with_reducible apply keepP_ite | split | ((with_reducible apply KeepP.snd); with_reducible apply readChunks_keep)
    | with_reducible apply KeepR.mk' | with_reducible apply KeepR.fault | with_reducible apply KeepP.mk' | dsimp only [id_eq]

theorem copyRead_keep (slot : ℕ) (ti : ℕ) (idx : ℕ) (e : ℕ) (h : Keep a s) : KeepP a (copyRead slot ti idx e s) := by
  unfold copyRead
  repeat' first
    | with_reducible assumption | intro _ | with_reducible apply tenMalformed_keep | with_reducible apply readFree_keep
    | with_reducible apply lineLost_keep | ((with_reducible apply Keep.out); with_reducible assumption) | with_reducible apply keep_ite
    | with_reducible apply keepP_ite | split | ((with_reducible apply KeepP.snd); with_reducible apply readFree_keep) | with_reducible apply KeepP.mk'
    | dsimp only [id_eq]

theorem execStagingWriteback_keep (page : PageId) (h : Keep a s) : KeepR a (execStagingWriteback page s) := by
  unfold execStagingWriteback
  repeat' first
    | with_reducible assumption | intro _ | with_reducible apply copyRead_keep | with_reducible apply copyDown_keep
    | with_reducible apply giveUpFast_keep | ((with_reducible apply Keep.out); with_reducible assumption)
    | ((with_reducible apply Keep.outO); with_reducible assumption) | with_reducible apply keep_ite | with_reducible apply keepP_ite
    | with_reducible apply keepO_ite | split | ((with_reducible apply KeepP.snd); with_reducible apply copyRead_keep) | with_reducible apply KeepR.mk'
    | with_reducible apply KeepR.fault | with_reducible apply KeepP.mk' | with_reducible apply KeepO.mk' | with_reducible apply KeepO.none_
    | dsimp only [id_eq]

theorem execStripeCopy_keep (page : PageId) (h : Keep a s) : KeepR a (execStripeCopy page s) := by
  unfold execStripeCopy
  repeat' first
    | with_reducible assumption | intro _ | with_reducible apply copyRead_keep | with_reducible apply useFast_keep | with_reducible apply count_keep
    | with_reducible apply changeLeaf_keep | with_reducible apply writeFastFor_keep | ((with_reducible apply Keep.out); with_reducible assumption)
    | with_reducible apply keep_ite | with_reducible apply keepP_ite | split | ((with_reducible apply KeepP.snd); with_reducible apply copyRead_keep)
    | with_reducible apply KeepR.mk' | with_reducible apply KeepR.fault | with_reducible apply KeepP.mk' | dsimp only [id_eq]

end Sys2Proof.Laws
end

