-- ==== Sys2Proof/Laws/KeepJexus.lean ====
section
/-! SUPPORT. `Keep` for posting, acknowledgement, receipt, the ends of messages and sending: one lemma per definition, found by walking its own text. -/

namespace Sys2Proof.Laws

open Sys2Proof.Machine

variable {a s : State}

set_option linter.all false

/-! ## Machine/Posting.lean -/

theorem sluConflict_keep (x : ℕ) (tenant : ℕ) (code : ℕ) (msg : Option EnMsg) (h : Keep a s) : KeepP a (sluConflict x tenant code msg s) := by
  unfold sluConflict
  repeat' first
    | with_reducible assumption | with_reducible apply refuseN_keep | with_reducible apply KeepP.mk'

theorem postDo_keep (x : ℕ) (tenant : ℕ) (b_ : Bytes) (msg : Option EnMsg) (h : Keep a s) : KeepP a (postDo x tenant b_ msg s) := by
  unfold postDo
  repeat' first
    | with_reducible assumption | intro _ | with_reducible apply sluConflict_keep | with_reducible apply setEntryRec_keep
    | ((with_reducible apply KeepP.snd); with_reducible apply sluConflict_keep) | with_reducible apply keepP_ite | split
    | with_reducible apply KeepP.mk'

theorem closeStep_keep (x : ℕ) (parity : ℕ) (status : ℕ) (h : Keep a s) : Keep a (closeStep x parity status s) := by
  unfold closeStep
  repeat' first
    | with_reducible assumption | with_reducible apply setEntryRec_keep | with_reducible apply postedRec_keep | split | dsimp only [id_eq]

theorem cancelEntry_keep (x : ℕ) (h : Keep a s) : Keep a (cancelEntry x s) := by
  unfold cancelEntry
  repeat' first
    | with_reducible assumption | with_reducible apply closeStep_keep | with_reducible apply drainEntry_keep

theorem cancelDo_keep (x : ℕ) (h : Keep a s) : KeepP a (cancelDo x s) := by
  unfold cancelDo
  repeat' first
    | with_reducible assumption | with_reducible apply cancelEntry_keep | split | with_reducible apply KeepP.mk'

theorem rearmDo_keep (x : ℕ) (tenant : ℕ) (n : ℕ) (msg : Option EnMsg) (h : Keep a s) : KeepP a (rearmDo x tenant n msg s) := by
  unfold rearmDo
  repeat' first
    | with_reducible assumption | intro _ | with_reducible apply setEntryRec_keep
    | ((with_reducible apply KeepP.snd); with_reducible apply sluConflict_keep) | with_reducible apply keep_ite | split
    | with_reducible apply KeepP.mk'

theorem sluRecord_keep (x : ℕ) (tenant : ℕ) (a_ : SluAns) (msgId : ℕ) (h : Keep a s) : Keep a (sluRecord x tenant a_ msgId s) := by
  unfold sluRecord
  repeat' first
    | with_reducible assumption | intro _ | with_reducible apply setEntryRec_keep | with_reducible apply stagedRec_keep
    | with_reducible apply postedRec_keep | with_reducible apply keep_ite

theorem onPost_keep (x : ℕ) (posted : Bool) (h : Keep a s) : Keep a (onPost x posted s) := by
  unfold onPost
  repeat' first
    | with_reducible assumption | intro _ | with_reducible apply acceptEnable_keep | with_reducible apply keep_ite

theorem dropCmd_keep (c : SluCmd) (h : Keep a s) : Keep a (dropCmd c s) := by
  unfold dropCmd
  repeat' first
    | with_reducible assumption | dsimp only [id_eq] | fail_if_no_progress ((with_reducible apply keep_rec); rfl)

theorem execSluicePost_keep (entry : Fin 32768) (h : Keep a s) : KeepR a (execSluicePost entry s) := by
  unfold execSluicePost
  repeat' first
    | with_reducible assumption | with_reducible apply dropCmd_keep | with_reducible apply onPost_keep | with_reducible apply sluRecord_keep
    | ((with_reducible apply KeepP.snd); with_reducible apply postDo_keep) | split | with_reducible apply KeepR.mk'

theorem execSluiceCancel_keep (entry : Fin 32768) (h : Keep a s) : KeepR a (execSluiceCancel entry s) := by
  unfold execSluiceCancel
  repeat' first
    | with_reducible assumption | with_reducible apply dropCmd_keep | with_reducible apply sluRecord_keep
    | ((with_reducible apply KeepP.snd); with_reducible apply cancelDo_keep) | split | with_reducible apply KeepR.mk'

theorem execSluiceRearm_keep (entry : Fin 32768) (h : Keep a s) : KeepR a (execSluiceRearm entry s) := by
  unfold execSluiceRearm
  repeat' first
    | with_reducible assumption | with_reducible apply dropCmd_keep | with_reducible apply sluRecord_keep
    | ((with_reducible apply KeepP.snd); with_reducible apply rearmDo_keep) | split | with_reducible apply KeepR.mk'

theorem execInstanceStart_keep (die : Fin 4) (h : Keep a s) : KeepR a (execInstanceStart die s) := by
  unfold execInstanceStart
  repeat' first
    | with_reducible assumption | intro _ | with_reducible apply acct_keep | with_reducible apply newInst_keep
    | ((with_reducible apply Keep.out); with_reducible assumption) | with_reducible apply keep_ite | with_reducible apply keepP_ite | split
    | ((with_reducible apply KeepP.snd); with_reducible apply newInst_keep) | with_reducible apply KeepR.mk' | with_reducible apply KeepR.fault
    | with_reducible apply KeepP.mk' | dsimp only [id_eq] | fail_if_no_progress ((with_reducible apply keep_rec); rfl)

theorem execSluiceEntryFree_keep (entry : Fin 32768) (h : Keep a s) : KeepR a (execSluiceEntryFree entry s) := by
  unfold execSluiceEntryFree
  repeat' first
    | with_reducible assumption | intro _ | with_reducible apply postedRec_keep | with_reducible apply setEntryRec_keep
    | with_reducible apply keep_foldl | with_reducible apply keep_ite | split | with_reducible apply KeepR.mk' | with_reducible apply KeepR.fault
    | dsimp only [id_eq]

theorem limited_keep (key : ℕ) (ns : ℕ) (h : Keep a s) : KeepP a (limited key ns s) := by
  unfold limited
  repeat' first
    | with_reducible assumption | intro _ | with_reducible apply keepP_ite | with_reducible apply KeepP.mk' | dsimp only [id_eq]
    | fail_if_no_progress ((with_reducible apply keep_recLog); rfl)

theorem deliverCmd_keep (tenant : ℕ) (imm : ℕ) (m : EnMsg) (h : Keep a s) : Keep a (deliverCmd tenant imm m s) := by
  unfold deliverCmd
  repeat' first
    | with_reducible assumption | intro _ | with_reducible apply count_keep | with_reducible apply sluRecord_keep | with_reducible apply keep_ite
    | dsimp only [id_eq] | fail_if_no_progress ((with_reducible apply keep_rec); rfl)

theorem deliverEnable_keep (tenant : ℕ) (imm : ℕ) (yellow : Bool) (m_ : EnMsg) (h : Keep a s) : Keep a (deliverEnable tenant imm yellow m_ s) := by
  unfold deliverEnable
  repeat' first
    | with_reducible assumption | intro _ | with_reducible apply limited_keep | with_reducible apply count_keep | with_reducible apply raise_keep
    | with_reducible apply postedRec_keep | with_reducible apply refuseN_keep | with_reducible apply acceptEnable_keep
    | ((with_reducible apply Keep.out); with_reducible assumption) | with_reducible apply keep_ite | with_reducible apply keepP_ite | split
    | ((with_reducible apply KeepP.snd); with_reducible apply limited_keep) | with_reducible apply KeepP.mk' | dsimp only [id_eq]

theorem deliverImm_keep (tenant : ℕ) (imm : ℕ) (yellow : Bool) (m : EnMsg) (h : Keep a s) : Keep a (deliverImm tenant imm yellow m s) := by
  unfold deliverImm
  repeat' first
    | with_reducible assumption | intro _ | with_reducible apply deliverCmd_keep | with_reducible apply deliverEnable_keep
    | with_reducible apply keep_ite

theorem finishStep_keep (x : ℕ) (parity : ℕ) (p : Bytes) (h : Keep a s) : Keep a (finishStep x parity p s) := by
  unfold finishStep
  repeat' first
    | with_reducible assumption | intro _ | with_reducible apply sendMsg_keep | with_reducible apply closeStep_keep
    | ((with_reducible apply Keep.out); with_reducible assumption) | with_reducible apply keep_ite | split | dsimp only [id_eq]

theorem fileContrib_keep (x : ℕ) (p : Bytes) (b_ : Bytes) (m_ : EnMsg) (arg : ℕ) (lc : Bool) (h : Keep a s) : Keep a (fileContrib x p b_ m_ arg lc s) := by
  unfold fileContrib
  repeat' first
    | with_reducible assumption | intro _ | with_reducible apply setEntryRec_keep | with_reducible apply finishStep_keep
    | with_reducible apply keep_ite | split | dsimp only [id_eq]

theorem execCombine_keep (inst : ℕ) (h : Keep a s) : KeepR a (execCombine inst s) := by
  unfold execCombine
  repeat' first
    | with_reducible assumption | intro _ | with_reducible apply actEnd_keep | with_reducible apply fileContrib_keep
    | with_reducible apply doneReading_keep | with_reducible apply keep_ite | split | with_reducible apply KeepR.mk'
    | with_reducible apply KeepR.fault | dsimp only [id_eq]

theorem execCombineTimeout_keep (entry : Fin 32768) (parity : Fin 2) (h : Keep a s) : KeepR a (execCombineTimeout entry parity s) := by
  unfold execCombineTimeout
  repeat' first
    | with_reducible assumption | intro _ | with_reducible apply closeStep_keep | with_reducible apply setEntryRec_keep
    | with_reducible apply keep_ite | split | with_reducible apply KeepR.mk' | with_reducible apply KeepR.fault | dsimp only [id_eq]

/-! ## Machine/Ack.lean -/

theorem flushAck_keep (ep : ℕ) (h : Keep a s) : Keep a (flushAck ep s) := by
  unfold flushAck
  repeat' first
    | with_reducible assumption | with_reducible apply sendBack_keep | split | dsimp only [id_eq]
    | fail_if_no_progress ((with_reducible apply keep_rec); rfl)

theorem ackPacket_keep (f : RxFrame) (done : Bool) (h : Keep a s) : Keep a (ackPacket f done s) := by
  unfold ackPacket
  repeat' first
    | with_reducible assumption | intro _ | with_reducible apply flushAck_keep | with_reducible apply keep_ite | dsimp only [id_eq]
    | fail_if_no_progress ((with_reducible apply keep_rec); rfl)

theorem execAckCoalesceExpire_keep (endpoint : BitVec 24) (h : Keep a s) : KeepR a (execAckCoalesceExpire endpoint s) := by
  unfold execAckCoalesceExpire
  repeat' first
    | with_reducible assumption | with_reducible apply flushAck_keep | split | with_reducible apply KeepR.mk'

theorem sendNak_keep (f : RxFrame) (status : ℕ) (info : ℕ) (h : Keep a s) : Keep a (sendNak f status info s) := by
  unfold sendNak
  repeat' first
    | with_reducible assumption | intro _ | with_reducible apply sendBack_keep | with_reducible apply limited_keep | with_reducible apply count_keep
    | ((with_reducible apply Keep.out); with_reducible assumption) | with_reducible apply keep_ite | split

theorem freeInfo_keep  (h : Keep a s) : KeepP a (freeInfo s) := by
  unfold freeInfo
  repeat' first
    | with_reducible assumption | with_reducible apply takeFree_keep | ((with_reducible apply Keep.out); with_reducible assumption) | split
    | with_reducible apply KeepP.mk'

theorem sendNakFree_keep (f : RxFrame) (status : ℕ) (h : Keep a s) : Keep a (sendNakFree f status s) := by
  unfold sendNakFree
  repeat' first
    | with_reducible assumption | with_reducible apply sendNak_keep | ((with_reducible apply KeepP.snd); with_reducible apply freeInfo_keep)

/-! ## Machine/Receive.lean -/

theorem meterPkt_keep (f : RxFrame) (die : ℕ) (h : Keep a s) : KeepP a (meterPkt f die s) := by
  unfold meterPkt
  repeat' first
    | with_reducible assumption | intro _ | with_reducible apply acct_keep | with_reducible apply keepP_ite | split | with_reducible apply KeepP.mk'
    | dsimp only [id_eq] | fail_if_no_progress ((with_reducible apply keep_rec); rfl)

theorem violate_keep (f : RxFrame) (die : ℕ) (check : ℕ) (info : ℕ) (status : optParam (Option ℕ) none) (h : Keep a s) : Keep a (violate f die check info s status) := by
  unfold violate
  repeat' first
    | with_reducible assumption | intro _ | with_reducible apply limited_keep | with_reducible apply raise_keep
    | ((with_reducible apply Keep.out); with_reducible assumption) | split | ((with_reducible apply KeepP.snd); with_reducible apply limited_keep)
    | with_reducible apply KeepP.mk' | dsimp only [id_eq]

theorem setFilt_keep (p0 : JxHdr) (e : Filt) (h : Keep a s) : Keep a (setFilt p0 e s) := by
  unfold setFilt
  repeat' first
    | with_reducible assumption | dsimp only [id_eq] | fail_if_no_progress ((with_reducible apply keep_rec); rfl)

theorem setTrack_keep (p0 : JxHdr) (t : Tracker) (h : Keep a s) : Keep a (setTrack p0 t s) := by
  unfold setTrack
  repeat' first
    | with_reducible assumption | dsimp only [id_eq] | fail_if_no_progress ((with_reducible apply keep_rec); rfl)

theorem dropTrack_keep (p0 : JxHdr) (h : Keep a s) : Keep a (dropTrack p0 s) := by
  unfold dropTrack
  repeat' first
    | with_reducible assumption | dsimp only [id_eq] | fail_if_no_progress ((with_reducible apply keep_rec); rfl)

theorem refusePkt_keep (f : RxFrame) (status : ℕ) (info : ℕ) (h : Keep a s) : Keep a (refusePkt f status info s) := by
  unfold refusePkt
  repeat' first
    | with_reducible assumption | intro _ | with_reducible apply setFilt_keep | with_reducible apply sendNak_keep | with_reducible apply keep_ite
    | split

theorem failMsg_keep (f : RxFrame) (status : ℕ) (h : Keep a s) : Keep a (failMsg f status s) := by
  unfold failMsg
  repeat' first
    | with_reducible assumption | intro _ | with_reducible apply sendNakFree_keep | with_reducible apply sendNak_keep
    | with_reducible apply dropTrack_keep | with_reducible apply keep_ite | split | dsimp only [id_eq]
    | fail_if_no_progress ((with_reducible apply keep_rec); rfl)

theorem answerDup_keep (f : RxFrame) (die : ℕ) (h : Keep a s) : KeepO a (answerDup f die s) := by
  unfold answerDup
  repeat' first
    | with_reducible assumption | intro _ | with_reducible apply count_keep | with_reducible apply sendNak_keep | with_reducible apply sendOnce_keep
    | with_reducible apply ackPacket_keep | with_reducible apply keepO_ite | split | with_reducible apply KeepO.mk' | with_reducible apply KeepO.none_

theorem takeEntries_keep (f : RxFrame) (die : ℕ) (h : Keep a s) : KeepP a (takeEntries f die s) := by
  unfold takeEntries
  repeat' first
    | with_reducible assumption | intro _ | with_reducible apply sendNakFree_keep | with_reducible apply count_keep
    | with_reducible apply setFilt_keep | with_reducible apply setTrack_keep | with_reducible apply keepP_ite | split | with_reducible apply KeepP.mk'

theorem checkMessage_keep (f : RxFrame) (die : ℕ) (payload : Bytes) (yellow : Bool) (h : Keep a s) : KeepP a (checkMessage f die payload yellow s) := by
  unfold checkMessage
  repeat' first
    | with_reducible assumption | intro _ | with_reducible apply answerDup_keep | with_reducible apply refusePkt_keep
    | with_reducible apply violate_keep | with_reducible apply count_keep | with_reducible apply sendNak_keep | with_reducible apply takeEntries_keep
    | ((with_reducible apply Keep.out); with_reducible assumption) | ((with_reducible apply Keep.outO); with_reducible assumption)
    | with_reducible apply keep_ite | with_reducible apply keepP_ite | with_reducible apply keepO_ite | split
    | ((with_reducible apply KeepP.snd); with_reducible apply takeEntries_keep) | with_reducible apply KeepP.mk' | with_reducible apply KeepO.mk'
    | with_reducible apply KeepO.none_ | dsimp only [id_eq]

theorem checkTenant_keep (f : RxFrame) (die : ℕ) (h : Keep a s) : KeepP a (checkTenant f die s) := by
  unfold checkTenant
  repeat' first
    | with_reducible assumption | intro _ | with_reducible apply sendNakFree_keep | with_reducible apply takeFree_keep
    | with_reducible apply sendNak_keep | with_reducible apply countTenant_keep | with_reducible apply raise_keep | with_reducible apply violate_keep
    | with_reducible apply count_keep | with_reducible apply checkMessage_keep | with_reducible apply meterPkt_keep
    | ((with_reducible apply Keep.out); with_reducible assumption) | with_reducible apply keep_ite | with_reducible apply keepP_ite | split
    | ((with_reducible apply KeepP.snd); with_reducible apply takeFree_keep)
    | ((with_reducible apply KeepP.snd); with_reducible apply checkMessage_keep)
    | ((with_reducible apply KeepP.snd); with_reducible apply meterPkt_keep) | with_reducible apply KeepP.mk' | dsimp only [id_eq]

theorem checkPkt_keep (f : RxFrame) (h : Keep a s) : KeepP a (checkPkt f s) := by
  unfold checkPkt
  repeat' first
    | with_reducible assumption | intro _ | with_reducible apply count_keep | with_reducible apply sendNak_keep | with_reducible apply violate_keep
    | with_reducible apply checkTenant_keep | ((with_reducible apply Keep.out); with_reducible assumption) | with_reducible apply keep_ite
    | with_reducible apply keepP_ite | split | ((with_reducible apply KeepP.snd); with_reducible apply checkTenant_keep)
    | with_reducible apply KeepP.mk' | dsimp only [id_eq]

theorem receive_keep (f : RxFrame) (h : Keep a s) : KeepP a (receive f s) := by
  unfold receive
  repeat' first
    | with_reducible assumption | intro _ | with_reducible apply count_keep | with_reducible apply countN_keep | with_reducible apply checkPkt_keep
    | ((with_reducible apply Keep.out); with_reducible assumption) | with_reducible apply keep_ite | with_reducible apply keepP_ite | split
    | ((with_reducible apply KeepP.snd); with_reducible apply checkPkt_keep) | with_reducible apply KeepP.mk' | dsimp only [id_eq]

theorem filtComplete_keep (p0 : JxHdr) (h : Keep a s) : Keep a (filtComplete p0 s) := by
  unfold filtComplete
  repeat' first
    | with_reducible assumption | with_reducible apply setFilt_keep | split

theorem takeControl_keep (f : RxFrame) (ops : List ℕ) (h : Keep a s) : KeepP a (takeControl f ops s) := by
  unfold takeControl
  repeat' first
    | with_reducible assumption | intro _ | with_reducible apply receive_keep | with_reducible apply filtComplete_keep
    | ((with_reducible apply Keep.out); with_reducible assumption) | with_reducible apply keepP_ite | split | with_reducible apply KeepP.mk'

theorem respond_keep (f : RxFrame) (die : ℕ) (epoch : ℕ) (data : Bytes) (h : Keep a s) : Keep a (respond f die epoch data s) := by
  unfold respond
  repeat' first
    | with_reducible assumption | intro _ | with_reducible apply saveResp_keep | with_reducible apply sendOnce_keep | with_reducible apply keep_ite

/-! ## Machine/Ending.lean -/

theorem dropOut_keep (id : ℕ) (h : Keep a s) : Keep a (dropOut id s) := by
  unfold dropOut
  repeat' first
    | with_reducible assumption | dsimp only [id_eq] | fail_if_no_progress ((with_reducible apply keep_rec); rfl)

theorem resultLost_keep (x : ℕ) (id : ℕ) (m : OutMsg) (h : Keep a s) : Keep a (resultLost x id m s) := by
  unfold resultLost
  repeat' first
    | with_reducible assumption | with_reducible apply raise_keep

theorem ctlForwarded_keep (slot : ℕ) (id : ℕ) (fwd : FwdSt) (h : Keep a s) : Keep a (ctlForwarded slot id fwd s) := by
  unfold ctlForwarded
  repeat' first
    | with_reducible assumption | intro _ | with_reducible apply admitNext_keep | with_reducible apply ctlAnswer_keep
    | with_reducible apply ctlGone_keep | with_reducible apply keep_ite | split | dsimp only [id_eq]
    | fail_if_no_progress ((with_reducible apply keep_rec); rfl)

theorem ctlRetry_keep (slot : ℕ) (id : ℕ) (h : Keep a s) : Keep a (ctlRetry slot id s) := by
  unfold ctlRetry
  repeat' first
    | with_reducible assumption | with_reducible apply forwardCtl_keep | with_reducible apply ctlForwarded_keep | split

theorem forwardAgain_keep (inst : ℕ) (slot : ℕ) (m : OutMsg) (h : Keep a s) : Keep a (forwardAgain inst slot m s) := by
  unfold forwardAgain
  repeat' first
    | with_reducible assumption | with_reducible apply sendMsg_keep | with_reducible apply setInst_keep | with_reducible apply actDone_keep
    | ((with_reducible apply Keep.out); with_reducible assumption) | split | dsimp only [id_eq]

theorem fetchFails_keep (c : ℕ) (h : Keep a s) : Keep a (fetchFails c s) := by
  unfold fetchFails
  repeat' first
    | with_reducible assumption | with_reducible apply setComp_keep

theorem loadOpenAgain_keep (id : ℕ) (h : Keep a s) : Keep a (loadOpenAgain id s) := by
  unfold loadOpenAgain
  repeat' first
    | with_reducible assumption | split | dsimp only [id_eq] | fail_if_no_progress ((with_reducible apply keep_rec); rfl)

theorem loadDoneAgain_keep (m_ : OutMsg) (id : ℕ) (h : Keep a s) : Keep a (loadDoneAgain m_ id s) := by
  unfold loadDoneAgain
  repeat' first
    | with_reducible assumption | intro _ | with_reducible apply keep_ite | split | dsimp only [id_eq]
    | fail_if_no_progress ((with_reducible apply keep_rec); rfl)

theorem finishLoadOut_keep (key : ℕ) (h : Keep a s) : Keep a (finishLoadOut key s) := by
  unfold finishLoadOut
  repeat' first
    | with_reducible assumption | intro _ | with_reducible apply settleStopped_keep | with_reducible apply sendOnce_keep
    | with_reducible apply saveResp_keep | with_reducible apply endLoadOut_keep | with_reducible apply keep_ite | split

theorem msgAcked_keep (id : ℕ) (h : Keep a s) : Keep a (msgAcked id s) := by
  unfold msgAcked
  repeat' first
    | with_reducible assumption | with_reducible apply dropOut_keep | with_reducible apply finishLoadOut_keep | split

theorem msgRefused_keep (id : ℕ) (status : ℕ) (h : Keep a s) : Keep a (msgRefused id status s) := by
  unfold msgRefused
  repeat' first
    | with_reducible assumption | with_reducible apply dropOut_keep | with_reducible apply complLost_keep | with_reducible apply resultLost_keep
    | with_reducible apply actDone_keep | with_reducible apply ctlForwarded_keep | with_reducible apply fetchFails_keep
    | with_reducible apply loadOpenAgain_keep | with_reducible apply endLoadOut_keep | with_reducible apply loadDoneAgain_keep | split

theorem msgAbandoned_keep (id : ℕ) (h : Keep a s) : Keep a (msgAbandoned id s) := by
  unfold msgAbandoned
  repeat' first
    | with_reducible assumption | with_reducible apply dropOut_keep | with_reducible apply complLost_keep | with_reducible apply resultLost_keep
    | with_reducible apply forwardAgain_keep | with_reducible apply ctlRetry_keep | with_reducible apply fetchFails_keep
    | with_reducible apply loadOpenAgain_keep | with_reducible apply endLoadOut_keep | with_reducible apply loadDoneAgain_keep | split

/-! ## Machine/Sending.lean -/

theorem setOut_keep (id : ℕ) (m : OutMsg) (h : Keep a s) : Keep a (setOut id m s) := by
  unfold setOut
  repeat' first
    | with_reducible assumption | dsimp only [id_eq] | fail_if_no_progress ((with_reducible apply keep_rec); rfl)

theorem halveCong_keep (ep : ℕ) (h : Keep a s) : Keep a (halveCong ep s) := by
  unfold halveCong
  repeat' first
    | with_reducible assumption | intro _ | with_reducible apply keep_ite | dsimp only [id_eq]
    | fail_if_no_progress ((with_reducible apply keep_rec); rfl)

theorem execCongWindowGrow_keep (endpoint : BitVec 24) (h : Keep a s) : KeepR a (execCongWindowGrow endpoint s) := by
  unfold execCongWindowGrow
  repeat' first
    | with_reducible assumption | intro _ | with_reducible apply keep_ite | split | with_reducible apply KeepR.mk' | dsimp only [id_eq]
    | fail_if_no_progress ((with_reducible apply keep_rec); rfl)

theorem setPath_keep (p : ℕ) (x : PathSt) (h : Keep a s) : Keep a (setPath p x s) := by
  unfold setPath
  repeat' first
    | with_reducible assumption | dsimp only [id_eq] | fail_if_no_progress ((with_reducible apply keep_rec); rfl)

theorem pathMiss_keep (die : ℕ) (p : ℕ) (h : Keep a s) : Keep a (pathMiss die p s) := by
  unfold pathMiss
  repeat' first
    | with_reducible assumption | intro _ | with_reducible apply count_keep | with_reducible apply setPath_keep | with_reducible apply keep_ite

theorem pathGood_keep (p : ℕ) (h : Keep a s) : Keep a (pathGood p s) := by
  unfold pathGood
  repeat' first
    | with_reducible assumption | with_reducible apply setPath_keep

theorem execPathCoolExpire_keep (path : Fin 64) (h : Keep a s) : KeepR a (execPathCoolExpire path s) := by
  unfold execPathCoolExpire
  repeat' first
    | with_reducible assumption | with_reducible apply setPath_keep | split | with_reducible apply KeepR.mk'

theorem packetDone_keep (id : ℕ) (idx : ℕ) (h : Keep a s) : Keep a (packetDone id idx s) := by
  unfold packetDone
  repeat' first
    | with_reducible assumption | with_reducible apply pathGood_keep | with_reducible apply setOut_keep | split

theorem ackOne_keep (src : ℕ) (v : ℕ) (h : Keep a s) : Keep a (ackOne src v s) := by
  unfold ackOne
  repeat' first
    | with_reducible assumption | intro _ | with_reducible apply count_keep | with_reducible apply packetDone_keep
    | with_reducible apply msgAcked_keep | with_reducible apply keep_foldl | with_reducible apply keep_ite | split | dsimp only [id_eq]

theorem controlBad_keep (f : RxFrame) (die : ℕ) (h : Keep a s) : Keep a (controlBad f die s) := by
  unfold controlBad
  repeat' first
    | with_reducible assumption | intro _ | with_reducible apply violate_keep | with_reducible apply count_keep | dsimp only [id_eq]

theorem execJxAckReceive_keep (f : RxFrame) (h : Keep a s) : KeepR a (execJxAckReceive f s) := by
  unfold execJxAckReceive
  repeat' first
    | with_reducible assumption | intro _ | with_reducible apply takeControl_keep | with_reducible apply controlBad_keep
    | with_reducible apply halveCong_keep | with_reducible apply ackOne_keep | ((with_reducible apply Keep.out); with_reducible assumption)
    | with_reducible apply keep_foldl | with_reducible apply keepP_foldl | with_reducible apply keep_ite | with_reducible apply keepP_ite | split
    | ((with_reducible apply KeepP.snd); with_reducible apply takeControl_keep) | with_reducible apply KeepR.mk' | with_reducible apply KeepR.fault
    | with_reducible apply KeepP.mk' | dsimp only [id_eq]

theorem backOff_keep (id : ℕ) (idxs : List ℕ) (info : ℕ) (h : Keep a s) : Keep a (backOff id idxs info s) := by
  unfold backOff
  repeat' first
    | with_reducible assumption | with_reducible apply setOut_keep | split

theorem nakOne_keep (id : ℕ) (m : OutMsg) (status : ℕ) (pkt : ℕ) (info : ℕ) (f : RxFrame) (h : Keep a s) : Keep a (nakOne id m status pkt info f s) := by
  unfold nakOne
  repeat' first
    | with_reducible assumption | intro _ | with_reducible apply backOff_keep | with_reducible apply halveCong_keep | with_reducible apply setOut_keep
    | with_reducible apply logEvent_keep | with_reducible apply msgRefused_keep | with_reducible apply keep_ite

theorem execJxNakReceive_keep (f : RxFrame) (h : Keep a s) : KeepR a (execJxNakReceive f s) := by
  unfold execJxNakReceive
  repeat' first
    | with_reducible assumption | intro _ | with_reducible apply takeControl_keep | with_reducible apply count_keep
    | with_reducible apply controlBad_keep | with_reducible apply nakOne_keep | ((with_reducible apply Keep.out); with_reducible assumption)
    | with_reducible apply keep_ite | with_reducible apply keepP_ite | split
    | ((with_reducible apply KeepP.snd); with_reducible apply takeControl_keep) | with_reducible apply KeepR.mk' | with_reducible apply KeepR.fault
    | with_reducible apply KeepP.mk' | dsimp only [id_eq]

theorem sendAgain_keep (id : ℕ) (idx : ℕ) (h : Keep a s) : Keep a (sendAgain id idx s) := by
  unfold sendAgain
  repeat' first
    | with_reducible assumption | intro _ | with_reducible apply count_keep | with_reducible apply transmit_keep | with_reducible apply keep_ite
    | split

theorem execJxRetransmitTimer_keep (msgId : BitVec 32) (pkt : ℕ) (h : Keep a s) : KeepR a (execJxRetransmitTimer msgId pkt s) := by
  unfold execJxRetransmitTimer
  repeat' first
    | with_reducible assumption | intro _ | with_reducible apply sendAgain_keep | with_reducible apply halveCong_keep
    | with_reducible apply pathMiss_keep | with_reducible apply keep_ite | split | with_reducible apply KeepR.mk' | dsimp only [id_eq]

theorem execJxMsgExpire_keep (msgId : BitVec 32) (h : Keep a s) : KeepR a (execJxMsgExpire msgId s) := by
  unfold execJxMsgExpire
  repeat' first
    | with_reducible assumption | intro _ | with_reducible apply msgAbandoned_keep | with_reducible apply count_keep | with_reducible apply keep_ite
    | split | with_reducible apply KeepR.mk' | dsimp only [id_eq]

theorem execJxNakBackoffExpire_keep (msgId : BitVec 32) (h : Keep a s) : KeepR a (execJxNakBackoffExpire msgId s) := by
  unfold execJxNakBackoffExpire
  repeat' first
    | with_reducible assumption | intro _ | with_reducible apply sendAgain_keep | with_reducible apply setOut_keep | with_reducible apply keep_foldl
    | with_reducible apply keep_ite | split | with_reducible apply KeepR.mk' | dsimp only [id_eq]

theorem resumeMsg_keep (id : ℕ) (h : Keep a s) : Keep a (resumeMsg id s) := by
  unfold resumeMsg
  repeat' first
    | with_reducible assumption | intro _ | with_reducible apply msgRefused_keep | with_reducible apply keyRefused_keep
    | with_reducible apply startMsg_keep | with_reducible apply keep_ite | split | dsimp only [id_eq]

theorem execJxSendResume_keep (die : Fin 4) (h : Keep a s) : KeepR a (execJxSendResume die s) := by
  unfold execJxSendResume
  repeat' first
    | with_reducible assumption | intro _ | with_reducible apply resumeMsg_keep | with_reducible apply keep_foldl | with_reducible apply keep_ite
    | split | with_reducible apply KeepR.mk' | with_reducible apply KeepR.fault | dsimp only [id_eq]

theorem execTrackerExpire_keep (src : BitVec 24) (msgId : BitVec 32) (h : Keep a s) : KeepR a (execTrackerExpire src msgId s) := by
  unfold execTrackerExpire
  repeat' first
    | with_reducible assumption | intro _ | with_reducible apply count_keep | with_reducible apply keep_ite | split | with_reducible apply KeepR.mk'
    | dsimp only [id_eq] | fail_if_no_progress ((with_reducible apply keep_rec); rfl)

theorem execFilterExpire_keep (src : BitVec 24) (msgId : BitVec 32) (h : Keep a s) : KeepR a (execFilterExpire src msgId s) := by
  unfold execFilterExpire
  repeat' first
    | with_reducible assumption | intro _ | with_reducible apply keep_ite | split | with_reducible apply KeepR.mk' | dsimp only [id_eq]
    | fail_if_no_progress ((with_reducible apply keep_rec); rfl)

end Sys2Proof.Laws
end

