-- ==== Sys2Proof/Laws/KeepDatum.lean ====
section
/-! SUPPORT. `Keep` for compositions, loads, arrivals and chains: one lemma per definition, found by walking its own text. -/

namespace Sys2Proof.Laws

open Sys2Proof.Machine

variable {a s : State}

set_option linter.all false

/-! ## Machine/Datum.lean -/

theorem refuseDatum_keep (c : ℕ) (op : ℕ) (m_ : Option EnMsg) (h : Keep a s) : Keep a (refuseDatum c op m_ s) := by
  unfold refuseDatum
  repeat' first
    | with_reducible assumption | intro _ | with_reducible apply stateRefused_keep | with_reducible apply keepO_map | with_reducible apply keepOP_map
    | with_reducible apply keepOQ_map | with_reducible apply keepO_bind | with_reducible apply keepOP_bind | dsimp only [id_eq]

theorem answerDatum_keep (f : RxFrame) (die : ℕ) (c : ℕ) (status : ℕ) (rep : Bool) (acc : ℕ) (more : Bytes) (h : Keep a s) : Keep a (answerDatum f die c status rep acc more s) := by
  unfold answerDatum
  repeat' first
    | with_reducible assumption | intro _ | with_reducible apply refuseDatum_keep | with_reducible apply respond_keep | with_reducible apply keep_ite
    | split | dsimp only [id_eq]

theorem fetchFrom_keep (f : RxFrame) (c : ℕ) (h : Keep a s) : Keep a (fetchFrom f c s) := by
  unfold fetchFrom
  repeat' first
    | with_reducible assumption | with_reducible apply startFetch_keep

theorem agreeMeets_keep (f : RxFrame) (b_ : Bytes) (vote : Bool) (h : Keep a s) : KeepP a (agreeMeets f b_ vote s) := by
  unfold agreeMeets
  repeat' first
    | with_reducible assumption | intro _ | with_reducible apply fetchFrom_keep | with_reducible apply keepP_ite | split
    | with_reducible apply KeepP.mk'

theorem execDatumPrepare_keep (f : RxFrame) (h : Keep a s) : KeepR a (execDatumPrepare f s) := by
  unfold execDatumPrepare
  repeat' first
    | with_reducible assumption | intro _ | with_reducible apply takeControl_keep | with_reducible apply agreeMeets_keep
    | with_reducible apply answerDatum_keep | with_reducible apply voterPrepare_keep | ((with_reducible apply Keep.out); with_reducible assumption)
    | split | ((with_reducible apply KeepP.snd); with_reducible apply agreeMeets_keep)
    | ((with_reducible apply KeepP.snd); with_reducible apply takeControl_keep)
    | ((with_reducible apply KeepP.snd); with_reducible apply voterPrepare_keep) | with_reducible apply KeepR.mk' | with_reducible apply KeepR.fault
    | with_reducible apply KeepP.mk' | dsimp only [id_eq]

theorem execDatumAccept_keep (f : RxFrame) (h : Keep a s) : KeepR a (execDatumAccept f s) := by
  unfold execDatumAccept
  repeat' first
    | with_reducible assumption | intro _ | with_reducible apply takeControl_keep | with_reducible apply agreeMeets_keep
    | with_reducible apply answerDatum_keep | with_reducible apply voterAccept_keep | ((with_reducible apply Keep.out); with_reducible assumption)
    | with_reducible apply keep_ite | with_reducible apply keepP_ite | split
    | ((with_reducible apply KeepP.snd); with_reducible apply voterAccept_keep)
    | ((with_reducible apply KeepP.snd); with_reducible apply agreeMeets_keep)
    | ((with_reducible apply KeepP.snd); with_reducible apply takeControl_keep) | with_reducible apply KeepR.mk' | with_reducible apply KeepR.fault
    | with_reducible apply KeepP.mk' | dsimp only [id_eq]

theorem fetchNamed_keep (f : RxFrame) (c : ℕ) (change : Bytes) (h : Keep a s) : Keep a (fetchNamed f c change s) := by
  unfold fetchNamed
  repeat' first
    | with_reducible assumption | intro _ | with_reducible apply fetchFrom_keep | with_reducible apply setComp_keep | with_reducible apply keepO_map
    | with_reducible apply keepOP_map | with_reducible apply keepOQ_map | dsimp only [id_eq]

theorem commitAbsent_keep (f : RxFrame) (c : ℕ) (base : ℕ) (change : Bytes) (h : Keep a s) : KeepP a (commitAbsent f c base change s) := by
  unfold commitAbsent
  repeat' first
    | with_reducible assumption | intro _ | with_reducible apply applyChange_keep | with_reducible apply fetchNamed_keep
    | ((with_reducible apply Keep.out); with_reducible assumption) | with_reducible apply keep_ite | with_reducible apply keepP_ite | split
    | ((with_reducible apply KeepP.snd); with_reducible apply applyChange_keep) | with_reducible apply KeepP.mk' | dsimp only [id_eq]

theorem commitHeld_keep (f : RxFrame) (c : ℕ) (base : ℕ) (change : Bytes) (h : Keep a s) : KeepQ a (commitHeld f c base change s) := by
  unfold commitHeld
  repeat' first
    | with_reducible assumption | intro _ | with_reducible apply fetchFrom_keep | with_reducible apply applyChange_keep
    | with_reducible apply overtaken_keep | ((with_reducible apply Keep.out); with_reducible assumption) | with_reducible apply keepQ_ite | split
    | with_reducible apply KeepQ.mk'

theorem execDatumCommit_keep (f : RxFrame) (h : Keep a s) : KeepR a (execDatumCommit f s) := by
  unfold execDatumCommit
  repeat' first
    | with_reducible assumption | intro _ | with_reducible apply takeControl_keep | with_reducible apply answerDatum_keep
    | with_reducible apply commitAbsent_keep | with_reducible apply commitHeld_keep | ((with_reducible apply Keep.out); with_reducible assumption)
    | ((with_reducible apply Keep.outQ); with_reducible assumption) | with_reducible apply keep_ite | with_reducible apply keepP_ite
    | with_reducible apply keepQ_ite | split | ((with_reducible apply KeepP.snd); with_reducible apply commitAbsent_keep)
    | ((with_reducible apply KeepQ.snd); with_reducible apply commitHeld_keep)
    | ((with_reducible apply KeepP.snd); with_reducible apply takeControl_keep) | with_reducible apply KeepR.mk' | with_reducible apply KeepR.fault
    | with_reducible apply KeepP.mk' | with_reducible apply KeepQ.mk' | with_reducible apply KeepQ.mkP | dsimp only [id_eq]

theorem submitMsg_keep (f : RxFrame) (a_ : Admitted) (h : Keep a s) : Keep a (submitMsg f a_ s) := by
  unfold submitMsg
  repeat' first
    | with_reducible assumption | intro _ | with_reducible apply answerDatum_keep | with_reducible apply fetchFrom_keep
    | with_reducible apply addProposal_keep | with_reducible apply keep_ite | split | dsimp only [id_eq]

theorem takeAnswer_keep (f : RxFrame) (ops : List ℕ) (h : Keep a s) : KeepP a (takeAnswer f ops s) := by
  unfold takeAnswer
  repeat' first
    | with_reducible assumption | with_reducible apply takeControl_keep | with_reducible apply count_keep | with_reducible apply dropOut_keep
    | with_reducible apply packetDone_keep | ((with_reducible apply Keep.out); with_reducible assumption) | split | with_reducible apply KeepP.mk'

theorem noteEpoch_keep (f : RxFrame) (c : ℕ) (e : ℕ) (h : Keep a s) : Keep a (noteEpoch f c e s) := by
  unfold noteEpoch
  repeat' first
    | with_reducible assumption | intro _ | with_reducible apply fetchFrom_keep | with_reducible apply keep_ite

theorem onPromise_keep (c : ℕ) (b_ : ℕ) (n : ℕ) (body : Bytes) (h : Keep a s) : Keep a (onPromise c b_ n body s) := by
  unfold onPromise
  repeat' first
    | with_reducible assumption | intro _ | with_reducible apply checkPromises_keep | with_reducible apply setHead_keep
    | with_reducible apply keep_ite | split

theorem onAccept_keep (c : ℕ) (b_ : ℕ) (n : ℕ) (body : Bytes) (h : Keep a s) : Keep a (onAccept c b_ n body s) := by
  unfold onAccept
  repeat' first
    | with_reducible assumption | intro _ | with_reducible apply checkAccepts_keep | with_reducible apply setHead_keep | with_reducible apply keep_ite
    | split

theorem execDatumResponse_keep (f : RxFrame) (h : Keep a s) : KeepR a (execDatumResponse f s) := by
  unfold execDatumResponse
  repeat' first
    | with_reducible assumption | intro _ | with_reducible apply takeAnswer_keep | with_reducible apply onPromise_keep
    | with_reducible apply noteEpoch_keep | with_reducible apply onAccept_keep | with_reducible apply storeFull_keep
    | ((with_reducible apply Keep.out); with_reducible assumption) | with_reducible apply keep_ite | split | with_reducible apply KeepR.mk'

theorem drainMarker_keep (c : ℕ) (m_ : DMap) (h : Keep a s) : Keep a (drainMarker c m_ s) := by
  unfold drainMarker
  repeat' first
    | with_reducible assumption | intro _ | with_reducible apply addProposal_keep | with_reducible apply keep_foldl | with_reducible apply keep_ite
    | split | dsimp only [id_eq] | fail_if_no_progress ((with_reducible apply keep_rec); rfl)

theorem admitMarker_keep (c : ℕ) (m : DMap) (h : Keep a s) : Keep a (admitMarker c m s) := by
  unfold admitMarker
  repeat' first
    | with_reducible assumption | intro _ | with_reducible apply addProposal_keep | with_reducible apply keep_foldl | dsimp only [id_eq]
    | fail_if_no_progress ((with_reducible apply keep_rec); rfl)

theorem reloadMarker_keep (c : ℕ) (h : Keep a s) : Keep a (reloadMarker c s) := by
  unfold reloadMarker
  repeat' first
    | with_reducible assumption | intro _ | with_reducible apply sendLoadDone_keep | with_reducible apply keep_foldl | dsimp only [id_eq]
    | fail_if_no_progress ((with_reducible apply keep_rec); rfl)

theorem markerAccepted_keep (c : ℕ) (step : ℕ) (closes : Bool) (h : Keep a s) : Keep a (markerAccepted c step closes s) := by
  unfold markerAccepted
  repeat' first
    | with_reducible assumption | with_reducible apply setComp_keep | with_reducible apply closeWindow_keep | with_reducible apply drainMarker_keep
    | with_reducible apply admitMarker_keep | with_reducible apply reloadMarker_keep | with_reducible apply sweepMoved_keep | split
    | dsimp only [id_eq]

theorem execStepMarker_keep (f : RxFrame) (h : Keep a s) : KeepR a (execStepMarker f s) := by
  unfold execStepMarker
  repeat' first
    | with_reducible assumption | intro _ | with_reducible apply takeControl_keep | with_reducible apply answerDatum_keep
    | with_reducible apply fetchFrom_keep | with_reducible apply markerAccepted_keep | ((with_reducible apply Keep.out); with_reducible assumption)
    | with_reducible apply keep_ite | with_reducible apply keepP_ite | split
    | ((with_reducible apply KeepP.snd); with_reducible apply takeControl_keep) | with_reducible apply KeepR.mk' | with_reducible apply KeepR.fault
    | with_reducible apply KeepP.mk' | dsimp only [id_eq]

theorem execMapRead_keep (f : RxFrame) (h : Keep a s) : KeepR a (execMapRead f s) := by
  unfold execMapRead
  repeat' first
    | with_reducible assumption | intro _ | with_reducible apply takeControl_keep | with_reducible apply respond_keep
    | with_reducible apply noteEpoch_keep | ((with_reducible apply Keep.out); with_reducible assumption) | with_reducible apply keep_ite
    | with_reducible apply keepP_ite | split | ((with_reducible apply KeepP.snd); with_reducible apply takeControl_keep)
    | with_reducible apply KeepR.mk' | with_reducible apply KeepR.fault | with_reducible apply KeepP.mk' | dsimp only [id_eq]

theorem restartProps_keep (c : ℕ) (h : Keep a s) : Keep a (restartProps c s) := by
  unfold restartProps
  repeat' first
    | with_reducible assumption | with_reducible apply setHead_keep | split

theorem onMapPage_keep (c : ℕ) (b_ : Bytes) (h : Keep a s) : Keep a (onMapPage c b_ s) := by
  unfold onMapPage
  repeat' first
    | with_reducible assumption | intro _ | with_reducible apply askMap_keep | with_reducible apply setComp_keep
    | with_reducible apply fetchFails_keep | with_reducible apply restartProps_keep | with_reducible apply installFetched_keep
    | with_reducible apply keepO_bind | with_reducible apply keepOP_bind | with_reducible apply keep_ite | split | dsimp only [id_eq]

theorem execMapFetchResponse_keep (f : RxFrame) (h : Keep a s) : KeepR a (execMapFetchResponse f s) := by
  unfold execMapFetchResponse
  repeat' first
    | with_reducible assumption | with_reducible apply takeAnswer_keep | with_reducible apply onMapPage_keep
    | ((with_reducible apply Keep.out); with_reducible assumption) | split | with_reducible apply KeepR.mk'

theorem execMapNotice_keep (f : RxFrame) (h : Keep a s) : KeepR a (execMapNotice f s) := by
  unfold execMapNotice
  repeat' first
    | with_reducible assumption | intro _ | with_reducible apply takeControl_keep | with_reducible apply fetchFrom_keep
    | ((with_reducible apply Keep.out); with_reducible assumption) | with_reducible apply keep_ite | split | with_reducible apply KeepR.mk'

theorem setProbe_keep (n : ℕ) (p : ProbeSt) (h : Keep a s) : Keep a (setProbe n p s) := by
  unfold setProbe
  repeat' first
    | with_reducible assumption | dsimp only [id_eq] | fail_if_no_progress ((with_reducible apply keep_rec); rfl)

theorem probeMissed_keep (n : ℕ) (h : Keep a s) : Keep a (probeMissed n s) := by
  unfold probeMissed
  repeat' first
    | with_reducible assumption | intro _ | with_reducible apply setProbe_keep | with_reducible apply suspectPartner_keep
    | with_reducible apply count_keep | with_reducible apply keep_ite

theorem execProbeMiss_keep (node : BitVec 12) (h : Keep a s) : KeepR a (execProbeMiss node s) := by
  unfold execProbeMiss
  repeat' first
    | with_reducible assumption | with_reducible apply probeMissed_keep | split | with_reducible apply KeepR.mk'

theorem sendProbe_keep (n : ℕ) (h : Keep a s) : Keep a (sendProbe n s) := by
  unfold sendProbe
  repeat' first
    | with_reducible assumption | with_reducible apply setProbe_keep | ((with_reducible apply KeepP.snd); with_reducible apply sendMsg_keep) | split

theorem execProbe_keep (f : RxFrame) (h : Keep a s) : KeepR a (execProbe f s) := by
  unfold execProbe
  repeat' first
    | with_reducible assumption | with_reducible apply takeControl_keep | with_reducible apply respond_keep
    | ((with_reducible apply Keep.out); with_reducible assumption) | split | with_reducible apply KeepR.mk'

theorem onProbeResp_keep (n : ℕ) (b_ : Bytes) (h : Keep a s) : Keep a (onProbeResp n b_ s) := by
  unfold onProbeResp
  repeat' first
    | with_reducible assumption | intro _ | with_reducible apply setProbe_keep | with_reducible apply keep_ite | split | dsimp only [id_eq]

theorem execWithdraw_keep (f : RxFrame) (h : Keep a s) : KeepR a (execWithdraw f s) := by
  unfold execWithdraw
  repeat' first
    | with_reducible assumption | intro _ | with_reducible apply takeControl_keep | with_reducible apply suspectPartner_keep
    | ((with_reducible apply Keep.out); with_reducible assumption) | with_reducible apply keep_ite | split | with_reducible apply KeepR.mk'

theorem retryLoads_keep (h : Keep a s) : Keep a (retryLoads s) := by
  unfold retryLoads
  repeat' first
    | with_reducible assumption | intro _ | with_reducible apply restartFrom_keep | with_reducible apply sendLoadOpen_keep
    | with_reducible apply sendLoadDone_keep | with_reducible apply rejoinDone_keep | with_reducible apply openLoads_keep
    | with_reducible apply keep_foldl | with_reducible apply keep_ite | split | dsimp only [id_eq]
    | fail_if_no_progress ((with_reducible apply keep_rec); rfl)

theorem execProbeTimer_keep  (h : Keep a s) : KeepR a (execProbeTimer s) := by
  unfold execProbeTimer
  repeat' first
    | with_reducible assumption | intro _ | with_reducible apply retryLoads_keep | with_reducible apply sendProbe_keep
    | with_reducible apply probeMissed_keep | with_reducible apply keep_foldl | split | with_reducible apply KeepR.mk'

/-! ## Machine/Loads.lean -/

theorem completeMsg_keep (f : RxFrame) (deliver : State → State) (hdeliver : ∀ y0, Keep a y0 → Keep a (deliver y0)) (h : Keep a s) : Keep a (completeMsg f deliver s) := by
  unfold completeMsg
  repeat' first
    | with_reducible assumption | apply hdeliver | with_reducible apply ackPacket_keep | with_reducible apply filtComplete_keep
    | with_reducible apply dropTrack_keep

theorem notePacket_keep (f : RxFrame) (a_ : Admitted) (keep : Bool) (h : Keep a s) : KeepP a (notePacket f a_ keep s) := by
  unfold notePacket
  repeat' first
    | with_reducible assumption | intro _ | with_reducible apply setTrack_keep | with_reducible apply keepP_ite | split
    | with_reducible apply KeepP.mk'

theorem serveLoad_keep (key : ℕ) (slot : ℕ) (dstNode : ℕ) (h : Keep a s) : Keep a (serveLoad key slot dstNode s) := by
  unfold serveLoad
  repeat' first
    | with_reducible assumption | intro _ | with_reducible apply seqLost_keep | with_reducible apply raise_keep | with_reducible apply copyAll_keep
    | split | dsimp only [id_eq]

theorem execLoadOpen_keep (f : RxFrame) (h : Keep a s) : KeepR a (execLoadOpen f s) := by
  unfold execLoadOpen
  repeat' first
    | with_reducible assumption | intro _ | with_reducible apply takeControl_keep | with_reducible apply noteEpoch_keep
    | with_reducible apply lookSeq_keep | with_reducible apply respond_keep | with_reducible apply readFree_keep | with_reducible apply lineLost_keep
    | with_reducible apply serveLoad_keep | ((with_reducible apply Keep.out); with_reducible assumption) | with_reducible apply Keep.getD | split
    | ((with_reducible apply KeepP.snd); with_reducible apply readFree_keep) | ((with_reducible apply KeepP.snd); with_reducible apply lookSeq_keep)
    | ((with_reducible apply KeepP.snd); with_reducible apply takeControl_keep) | with_reducible apply KeepR.mk' | with_reducible apply KeepR.fault
    | with_reducible apply KeepP.mk' | dsimp only [id_eq] | fail_if_no_progress ((with_reducible apply keep_rec); rfl)

theorem rejoined_keep (c : ℕ) (src : ℕ) (h : Keep a s) : KeepP a (rejoined c src s) := by
  unfold rejoined
  repeat' first
    | with_reducible assumption | intro _ | with_reducible apply keep_ite | with_reducible apply keepP_ite | split | with_reducible apply KeepP.mk'
    | dsimp only [id_eq] | fail_if_no_progress ((with_reducible apply keep_rec); rfl)

theorem execLoadDone_keep (f : RxFrame) (h : Keep a s) : KeepR a (execLoadDone f s) := by
  unfold execLoadDone
  repeat' first
    | with_reducible assumption | intro _ | with_reducible apply takeControl_keep | with_reducible apply noteEpoch_keep
    | with_reducible apply respond_keep | with_reducible apply rejoined_keep | with_reducible apply finishLoadOut_keep
    | ((with_reducible apply Keep.out); with_reducible assumption) | with_reducible apply keep_ite | with_reducible apply keepP_ite | split
    | ((with_reducible apply KeepP.snd); with_reducible apply rejoined_keep)
    | ((with_reducible apply KeepP.snd); with_reducible apply takeControl_keep) | with_reducible apply KeepR.mk' | with_reducible apply KeepR.fault
    | with_reducible apply KeepP.mk' | dsimp only [id_eq] | fail_if_no_progress ((with_reducible apply keep_rec); rfl)

theorem restartLoad_keep (id : ℕ) (h : Keep a s) : Keep a (restartLoad id s) := by
  unfold restartLoad
  repeat' first
    | with_reducible assumption | intro _ | with_reducible apply restartFrom_keep | split | dsimp only [id_eq]

theorem applySeqRec_keep (id : ℕ) (l : LoadIn) (b_ : Bytes) (h : Keep a s) : KeepP a (applySeqRec id l b_ s) := by
  unfold applySeqRec
  repeat' first
    | with_reducible assumption | intro _ | with_reducible apply dirFull_keep | with_reducible apply makeSeq_keep
    | with_reducible apply frameExhausted_keep | ((with_reducible apply Keep.outO); with_reducible assumption) | with_reducible apply keep_ite
    | with_reducible apply keepP_ite | with_reducible apply keepO_ite | split | with_reducible apply KeepP.mk' | with_reducible apply KeepO.mk'
    | with_reducible apply KeepO.none_ | dsimp only [id_eq] | fail_if_no_progress ((with_reducible apply keep_rec); rfl)

theorem applyTensorRec_keep (slot : ℕ) (b_ : Bytes) (h : Keep a s) : KeepP a (applyTensorRec slot b_ s) := by
  unfold applyTensorRec
  repeat' first
    | with_reducible assumption | intro _ | with_reducible apply regTensor_keep | with_reducible apply frameExhausted_keep
    | with_reducible apply setTen_keep | with_reducible apply setSeq_keep | ((with_reducible apply Keep.outO); with_reducible assumption)
    | with_reducible apply keep_ite | with_reducible apply keepP_ite | with_reducible apply keepO_ite | split | with_reducible apply KeepP.mk'
    | with_reducible apply KeepO.mk' | with_reducible apply KeepO.none_ | dsimp only [id_eq]

theorem writePageRec_keep (slot : ℕ) (ti : ℕ) (idx : ℕ) (first : ℕ) (n : ℕ) (areas : Bytes) (h : Keep a s) : Keep a (writePageRec slot ti idx first n areas s) := by
  unfold writePageRec
  repeat' first
    | with_reducible assumption | intro _ | with_reducible apply writeDeep_keep | with_reducible apply writeFastFor_keep
    | with_reducible apply copyDown_keep | with_reducible apply giveUpFast_keep | ((with_reducible apply Keep.outO); with_reducible assumption)
    | with_reducible apply keep_ite | with_reducible apply keepO_ite | split | with_reducible apply KeepO.mk' | with_reducible apply KeepO.none_
    | dsimp only [id_eq]

theorem applyPageRec_keep (slot : ℕ) (b_ : Bytes) (h : Keep a s) : KeepP a (applyPageRec slot b_ s) := by
  unfold applyPageRec
  repeat' first
    | with_reducible assumption | intro _ | with_reducible apply givePage_keep | with_reducible apply frameExhausted_keep
    | with_reducible apply writePageRec_keep | ((with_reducible apply Keep.outO); with_reducible assumption) | with_reducible apply keep_ite
    | with_reducible apply keepP_ite | with_reducible apply keepO_ite | split | with_reducible apply KeepP.mk' | with_reducible apply KeepO.mk'
    | with_reducible apply KeepO.none_ | dsimp only [id_eq]

theorem applyStateRec_keep (slot : ℕ) (b_ : Bytes) (h : Keep a s) : Keep a (applyStateRec slot b_ s) := by
  unfold applyStateRec
  repeat' first
    | with_reducible assumption | intro _ | with_reducible apply setSeq_keep | with_reducible apply keep_foldl | with_reducible apply keep_ite | split
    | dsimp only [id_eq]

theorem applyEnd_keep (id : ℕ) (l : LoadIn) (slot : ℕ) (h : Keep a s) : Keep a (applyEnd id l slot s) := by
  unfold applyEnd
  repeat' first
    | with_reducible assumption | intro _ | with_reducible apply setSeq_keep | with_reducible apply sendLoadDone_keep
    | with_reducible apply openLoads_keep | with_reducible apply rejoinDone_keep | with_reducible apply keep_ite | dsimp only [id_eq]
    | fail_if_no_progress ((with_reducible apply keep_rec); rfl)

theorem applyRecord_keep (id : ℕ) (kind : ℕ) (b_ : Bytes) (h : Keep a s) : KeepP a (applyRecord id kind b_ s) := by
  unfold applyRecord
  repeat' first
    | with_reducible assumption | intro _ | with_reducible apply applySeqRec_keep | with_reducible apply applyTensorRec_keep
    | with_reducible apply applyPageRec_keep | with_reducible apply applyStateRec_keep | with_reducible apply applyEnd_keep
    | ((with_reducible apply Keep.out); with_reducible assumption) | with_reducible apply keep_ite | with_reducible apply keepP_ite | split
    | ((with_reducible apply KeepP.snd); with_reducible apply applyTensorRec_keep)
    | ((with_reducible apply KeepP.snd); with_reducible apply applySeqRec_keep)
    | ((with_reducible apply KeepP.snd); with_reducible apply applyPageRec_keep) | with_reducible apply KeepP.mk' | dsimp only [id_eq]

theorem applyHeld_keep (src : ℕ) (id : ℕ) (p2 : ℕ) (h : Keep a s) : KeepP a (applyHeld src id p2 s) := by
  induction p2 generalizing s with
  | zero =>
    unfold applyHeld
    repeat' first
      | with_reducible assumption | intro _ | with_reducible apply count_keep | with_reducible apply applyRecord_keep
      | ((with_reducible apply Keep.out); with_reducible assumption) | with_reducible apply keep_ite | with_reducible apply keepP_ite | split
      | ((with_reducible apply KeepP.snd); with_reducible apply applyRecord_keep) | with_reducible apply KeepP.mk' | dsimp only [id_eq]
      | fail_if_no_progress ((with_reducible apply keep_rec); rfl)
  | succ _ ih =>
    unfold applyHeld
    repeat' first
      | with_reducible assumption | intro _ | (apply ih) | with_reducible apply count_keep | with_reducible apply applyRecord_keep
      | ((with_reducible apply Keep.out); with_reducible assumption) | with_reducible apply keep_ite | with_reducible apply keepP_ite | split
      | ((with_reducible apply KeepP.snd); with_reducible apply applyRecord_keep) | with_reducible apply KeepP.mk' | dsimp only [id_eq]
      | fail_if_no_progress ((with_reducible apply keep_rec); rfl)

theorem takeRecords_keep (src : ℕ) (rs : List Bytes) (h : Keep a s) : KeepQ a (takeRecords src rs s) := by
  unfold takeRecords
  refine keepQ_foldl (KeepQ.mk' h) ?_
  intro p r hp
  obtain ⟨ok, bad, s⟩ := p
  have h := hp.snd
  dsimp only at h ⊢
  repeat' first
    | with_reducible assumption | intro _ | with_reducible apply applyHeld_keep | with_reducible apply count_keep
    | ((with_reducible apply KeepP.snd); with_reducible apply applyHeld_keep)
    | ((with_reducible apply Keep.outO); with_reducible assumption) | with_reducible apply keep_ite | with_reducible apply keepQ_ite | split
    | with_reducible apply KeepQ.mk' | fail_if_no_progress ((with_reducible apply keep_rec); rfl)

theorem execLoadData_keep (f : RxFrame) (h : Keep a s) : KeepR a (execLoadData f s) := by
  unfold execLoadData
  repeat' first
    | with_reducible assumption | intro _ | with_reducible apply takeControl_keep | with_reducible apply notePacket_keep
    | with_reducible apply ackPacket_keep | with_reducible apply failMsg_keep | with_reducible apply takeRecords_keep
    | with_reducible apply completeMsg_keep | with_reducible apply restartLoad_keep | ((with_reducible apply Keep.out); with_reducible assumption)
    | ((with_reducible apply Keep.outQ); with_reducible assumption) | with_reducible apply keep_foldl | with_reducible apply keepP_foldl
    | with_reducible apply keep_ite | with_reducible apply keepP_ite | with_reducible apply keepQ_ite | split
    | ((with_reducible apply KeepP.snd); with_reducible apply notePacket_keep)
    | ((with_reducible apply KeepP.snd); with_reducible apply takeControl_keep)
    | ((with_reducible apply KeepQ.snd); with_reducible apply takeRecords_keep) | with_reducible apply KeepR.mk' | with_reducible apply KeepR.fault
    | with_reducible apply KeepP.mk' | with_reducible apply KeepQ.mk' | with_reducible apply KeepQ.mkP | dsimp only [id_eq]

theorem onLoadOpened_keep (id : ℕ) (st : ℕ) (h : Keep a s) : Keep a (onLoadOpened id st s) := by
  unfold onLoadOpened
  repeat' first
    | with_reducible assumption | intro _ | with_reducible apply rejoinDone_keep | with_reducible apply Keep.getD | with_reducible apply keepO_bind
    | with_reducible apply keepOP_bind | with_reducible apply keep_ite | split | dsimp only [id_eq]
    | fail_if_no_progress ((with_reducible apply keep_rec); rfl)

theorem onLoadFinished_keep (id : ℕ) (h : Keep a s) : Keep a (onLoadFinished id s) := by
  unfold onLoadFinished
  repeat' first
    | with_reducible assumption | intro _ | with_reducible apply admitLoad_keep | split | dsimp only [id_eq]

theorem onLoadEnded_keep (m_ : OutMsg) (id : ℕ) (h : Keep a s) : Keep a (onLoadEnded m_ id s) := by
  unfold onLoadEnded
  repeat' first
    | with_reducible assumption | intro _ | with_reducible apply loadDoneAgain_keep | with_reducible apply restartLoad_keep
    | with_reducible apply keep_foldl | with_reducible apply keep_ite | split | dsimp only [id_eq]

theorem execLoadResponse_keep (f : RxFrame) (h : Keep a s) : KeepR a (execLoadResponse f s) := by
  unfold execLoadResponse
  repeat' first
    | with_reducible assumption | intro _ | with_reducible apply takeAnswer_keep | with_reducible apply onLoadOpened_keep
    | with_reducible apply onLoadEnded_keep | with_reducible apply loadDoneAgain_keep | with_reducible apply onLoadFinished_keep
    | ((with_reducible apply Keep.out); with_reducible assumption) | with_reducible apply keep_ite | with_reducible apply keepP_ite | split
    | ((with_reducible apply KeepP.snd); with_reducible apply takeAnswer_keep) | with_reducible apply KeepR.mk' | with_reducible apply KeepR.fault
    | with_reducible apply KeepP.mk' | dsimp only [id_eq]

/-! ## Machine/Arrive.lean -/

theorem forwardRecord_keep (f : RxFrame) (h : Keep a s) : Keep a (forwardRecord f s) := by
  unfold forwardRecord
  repeat' first
    | with_reducible assumption | intro _ | with_reducible apply actDone_keep | with_reducible apply keepO_map | with_reducible apply keepOP_map
    | with_reducible apply keepOQ_map | with_reducible apply keepOP_findSome | split | dsimp only [id_eq]
    | fail_if_no_progress ((with_reducible apply keep_rec); rfl)

theorem placeWrite_keep (f : RxFrame) (a_ : Admitted) (h : Keep a s) : Keep a (placeWrite f a_ s) := by
  unfold placeWrite
  repeat' first
    | with_reducible assumption | intro _ | with_reducible apply failMsg_keep | with_reducible apply winWrite_keep
    | with_reducible apply notePacket_keep | with_reducible apply ackPacket_keep | with_reducible apply completeMsg_keep
    | with_reducible apply deliverImm_keep | with_reducible apply forwardRecord_keep | ((with_reducible apply Keep.out); with_reducible assumption)
    | with_reducible apply keep_ite | with_reducible apply keepP_ite | split
    | ((with_reducible apply KeepP.snd); with_reducible apply notePacket_keep) | with_reducible apply KeepP.mk' | dsimp only [id_eq]

theorem redirected_keep (f : RxFrame) (h : Keep a s) : Keep a (redirected f s) := by
  unfold redirected
  repeat' first
    | with_reducible assumption | intro _ | with_reducible apply receive_keep | with_reducible apply noteEpoch_keep
    | ((with_reducible apply Keep.out); with_reducible assumption) | split | ((with_reducible apply KeepP.snd); with_reducible apply receive_keep)
    | with_reducible apply KeepP.mk' | dsimp only [id_eq]

theorem execJxWrite_keep (f : RxFrame) (h : Keep a s) : KeepR a (execJxWrite f s) := by
  unfold execJxWrite
  repeat' first
    | with_reducible assumption | intro _ | with_reducible apply receive_keep | with_reducible apply placeWrite_keep
    | with_reducible apply redirected_keep | ((with_reducible apply Keep.out); with_reducible assumption) | with_reducible apply keep_ite
    | with_reducible apply keepP_ite | split | ((with_reducible apply KeepP.snd); with_reducible apply receive_keep) | with_reducible apply KeepR.mk'
    | with_reducible apply KeepR.fault | with_reducible apply KeepP.mk' | dsimp only [id_eq]

theorem execJxWriteImm_keep (f : RxFrame) (h : Keep a s) : KeepR a (execJxWriteImm f s) := by
  unfold execJxWriteImm
  repeat' first
    | with_reducible assumption | with_reducible apply receive_keep | with_reducible apply placeWrite_keep
    | ((with_reducible apply Keep.out); with_reducible assumption) | split | with_reducible apply KeepR.mk'

theorem readWindow_keep (x : ReadPkt) (n : ℕ) (f : State → State) (hf : ∀ y0, Keep a y0 → Keep a (f y0)) {s' : State} (h0 : Keep a s') (h : Keep a s) : Keep a (readWindow x n s' s f) := by
  unfold readWindow
  repeat' first
    | with_reducible assumption | intro _ | with_reducible apply failMsg_keep | with_reducible apply readChunks_keep
    | with_reducible apply lineLost_keep | with_reducible apply hf | ((with_reducible apply Keep.out); with_reducible assumption)
    | with_reducible apply keep_ite | with_reducible apply keepP_ite | split
    | ((with_reducible apply KeepP.snd); with_reducible apply readChunks_keep) | with_reducible apply KeepP.mk' | dsimp only [id_eq]

theorem execJxRead_keep (x : ReadPkt) (h : Keep a s) : KeepR a (execJxRead x s) := by
  unfold execJxRead
  repeat' first
    | with_reducible assumption | intro _ | with_reducible apply takeControl_keep | with_reducible apply readWindow_keep
    | with_reducible apply respond_keep | ((with_reducible apply Keep.out); with_reducible assumption) | split
    | ((with_reducible apply KeepP.snd); with_reducible apply takeControl_keep) | with_reducible apply KeepR.mk' | with_reducible apply KeepR.fault
    | with_reducible apply KeepP.mk' | dsimp only [id_eq]

theorem execJxCas_keep (x : ReadPkt) (h : Keep a s) : KeepR a (execJxCas x s) := by
  unfold execJxCas
  repeat' first
    | with_reducible assumption | intro _ | with_reducible apply takeControl_keep | with_reducible apply readWindow_keep
    | with_reducible apply respond_keep | with_reducible apply winWrite_keep | ((with_reducible apply Keep.out); with_reducible assumption)
    | with_reducible apply keep_ite | with_reducible apply keepP_ite | split
    | ((with_reducible apply KeepP.snd); with_reducible apply takeControl_keep) | with_reducible apply KeepR.mk' | with_reducible apply KeepR.fault
    | with_reducible apply KeepP.mk' | dsimp only [id_eq]

theorem commitControl_keep (f : RxFrame) (h : Keep a s) : Keep a (commitControl f s) := by
  unfold commitControl
  repeat' first
    | with_reducible assumption | with_reducible apply takeControl_keep | with_reducible apply ctlArrive_keep
    | ((with_reducible apply Keep.out); with_reducible assumption) | split

theorem execCommit_keep (f : RxFrame) (h : Keep a s) : KeepR a (execCommit f s) := by
  unfold execCommit
  repeat' first
    | with_reducible assumption | with_reducible apply commitControl_keep | split | with_reducible apply KeepR.mk'

theorem execRollback_keep (f : RxFrame) (h : Keep a s) : KeepR a (execRollback f s) := by
  unfold execRollback
  repeat' first
    | with_reducible assumption | with_reducible apply commitControl_keep | split | with_reducible apply KeepR.mk'

theorem execShift_keep (f : RxFrame) (h : Keep a s) : KeepR a (execShift f s) := by
  unfold execShift
  repeat' first
    | with_reducible assumption | with_reducible apply commitControl_keep | split | with_reducible apply KeepR.mk'

theorem execJxResponseReceive_keep (f : RxFrame) (h : Keep a s) : KeepR a (execJxResponseReceive f s) := by
  unfold execJxResponseReceive
  repeat' first
    | with_reducible assumption | intro _ | with_reducible apply takeAnswer_keep | with_reducible apply onProbeResp_keep
    | with_reducible apply ctlForwarded_keep | ((with_reducible apply Keep.out); with_reducible assumption) | with_reducible apply keep_ite
    | with_reducible apply keepP_ite | split | ((with_reducible apply KeepP.snd); with_reducible apply takeAnswer_keep)
    | with_reducible apply KeepR.mk' | with_reducible apply KeepR.fault | with_reducible apply KeepP.mk' | dsimp only [id_eq]

/-! ## Machine/Chains.lean -/

theorem execForward_keep (inst : ℕ) (h : Keep a s) : KeepR a (execForward inst s) := by
  unfold execForward
  repeat' first
    | with_reducible assumption | intro _ | with_reducible apply actDone_keep | with_reducible apply sendMsg_keep | with_reducible apply actEnd_keep
    | with_reducible apply setInst_keep | ((with_reducible apply Keep.out); with_reducible assumption) | with_reducible apply keep_ite
    | with_reducible apply keepP_ite | split | ((with_reducible apply KeepP.snd); with_reducible apply sendMsg_keep) | with_reducible apply KeepR.mk'
    | with_reducible apply KeepR.fault | with_reducible apply KeepP.mk' | dsimp only [id_eq]

theorem execSignal_keep (inst : ℕ) (h : Keep a s) : KeepR a (execSignal inst s) := by
  unfold execSignal
  repeat' first
    | with_reducible assumption | intro _ | with_reducible apply sendMsg_keep | with_reducible apply actEnd_keep
    | ((with_reducible apply Keep.out); with_reducible assumption) | with_reducible apply keep_ite | with_reducible apply keepP_ite | split
    | ((with_reducible apply KeepP.snd); with_reducible apply sendMsg_keep) | with_reducible apply KeepR.mk' | with_reducible apply KeepR.fault
    | with_reducible apply KeepP.mk' | dsimp only [id_eq]

theorem execProgramInstall_keep (inst : ℕ) (h : Keep a s) : KeepR a (execProgramInstall inst s) := by
  unfold execProgramInstall
  repeat' first
    | with_reducible assumption | with_reducible apply actEnd_keep | with_reducible apply raise_keep | with_reducible apply actBusy_keep | split
    | with_reducible apply KeepR.mk' | dsimp only [id_eq] | fail_if_no_progress ((with_reducible apply keep_rec); rfl)

theorem execProgramInstallComplete_keep (tenant : BitVec 12) (h : Keep a s) : KeepR a (execProgramInstallComplete tenant s) := by
  unfold execProgramInstallComplete
  repeat' first
    | with_reducible assumption | with_reducible apply endBusy_keep | split | with_reducible apply KeepR.mk'
    | fail_if_no_progress ((with_reducible apply keep_rec); rfl)

theorem programRemoveDo_keep (tenant : ℕ) (slot : ℕ) (gen : ℕ) (who : optParam Who none) (h : Keep a s) : KeepP a (programRemoveDo tenant slot gen s who) := by
  unfold programRemoveDo
  repeat' first
    | with_reducible assumption | intro _ | with_reducible apply refuseC_keep | with_reducible apply keep_ite | with_reducible apply keepP_ite | split
    | with_reducible apply KeepP.mk' | dsimp only [id_eq] | fail_if_no_progress ((with_reducible apply keep_rec); rfl)

theorem execProgramRemove_keep (inst : ℕ) (h : Keep a s) : KeepR a (execProgramRemove inst s) := by
  unfold execProgramRemove
  repeat' first
    | with_reducible assumption | intro _ | with_reducible apply programRemoveDo_keep | with_reducible apply actEnd_keep
    | ((with_reducible apply Keep.out); with_reducible assumption) | split
    | ((with_reducible apply KeepP.snd); with_reducible apply programRemoveDo_keep) | with_reducible apply KeepR.mk'
    | with_reducible apply KeepR.fault | with_reducible apply KeepP.mk' | dsimp only [id_eq]

theorem execProgramSlotFree_keep (slot : Fin 256) (h : Keep a s) : KeepR a (execProgramSlotFree slot s) := by
  unfold execProgramSlotFree
  repeat' first
    | with_reducible assumption | intro _ | with_reducible apply keep_ite | with_reducible apply KeepR.mk'
    | fail_if_no_progress ((with_reducible apply keep_rec); rfl)

theorem execWindowOpen_keep (inst : ℕ) (h : Keep a s) : KeepR a (execWindowOpen inst s) := by
  unfold execWindowOpen
  repeat' first
    | with_reducible assumption | intro _ | with_reducible apply actEnd_keep | with_reducible apply openWindow_keep | with_reducible apply count_keep
    | with_reducible apply actDone_keep | ((with_reducible apply Keep.outOP); with_reducible assumption) | with_reducible apply keep_ite | split
    | with_reducible apply KeepR.mk'

theorem execWindowRevoke_keep (inst : ℕ) (h : Keep a s) : KeepR a (execWindowRevoke inst s) := by
  unfold execWindowRevoke
  repeat' first
    | with_reducible assumption | intro _ | with_reducible apply actEnd_keep | with_reducible apply refuseN_keep
    | with_reducible apply startDrainWin_keep | with_reducible apply setWin_keep | with_reducible apply actBusy_keep
    | with_reducible apply actDone_keep | with_reducible apply keep_ite | split | with_reducible apply KeepR.mk'

theorem freeWindow_keep (id : ℕ) (h : Keep a s) : Keep a (freeWindow id s) := by
  unfold freeWindow
  repeat' first
    | with_reducible assumption | intro _ | with_reducible apply releaseFast_keep | with_reducible apply setWin_keep
    | with_reducible apply endBusy_keep | with_reducible apply windowGone_keep | with_reducible apply keep_foldl

theorem execWindowFree_keep (id : Fin 16384) (h : Keep a s) : KeepR a (execWindowFree id s) := by
  unfold execWindowFree
  repeat' first
    | with_reducible assumption | with_reducible apply freeWindow_keep | split | with_reducible apply KeepR.mk'

end Sys2Proof.Laws
end

