-- ==== Sys2Proof/Laws/KeepChip.lean ====
section
/-! SUPPORT. `Keep` for DMA, firmware commands, settings, tenants, attestation, clocks, the catchment and the ports: one lemma per definition, found by walking its own text. -/

namespace Sys2Proof.Laws

open Sys2Proof.Machine

variable {a s : State}

set_option linter.all false

/-! ## Machine/Dma.lean -/

theorem sideWrite_keep (kind : ℕ) (a_ : ℕ) (bs : Bytes) (h : Keep a s) : Keep a (sideWrite kind a_ bs s) := by
  unfold sideWrite
  repeat' first
    | with_reducible assumption | split | dsimp only [id_eq]
    | fail_if_no_progress ((with_reducible apply keep_recMem); iterate 4 (first | exact fun h => h | exact fun h => memWf_memZero h _ _ | exact fun h => memWf_memWrite h _ _))

theorem streamWrite_keep (x : DmaSide) (o : ℕ) (bs : Bytes) (h : Keep a s) : Keep a (streamWrite x o bs s) := by
  unfold streamWrite
  repeat' first
    | with_reducible assumption | intro _ | with_reducible apply sideWrite_keep | with_reducible apply keep_foldl

theorem runRead_keep (c : ℕ) (r : DmaRun) (o : ℕ) (n : ℕ) (x : LineOutcome) (h : Keep a s) : KeepP a (runRead c r o n x s) := by
  unfold runRead
  repeat' first
    | with_reducible assumption | intro _ | with_reducible apply readChunks_keep | ((with_reducible apply Keep.out); with_reducible assumption)
    | with_reducible apply keep_ite | with_reducible apply keepP_ite | split
    | ((with_reducible apply KeepP.snd); with_reducible apply readChunks_keep) | with_reducible apply KeepP.mk' | dsimp only [id_eq]

theorem dmaMove_keep (c : ℕ) (n : ℕ) (h : Keep a s) : Keep a (dmaMove c n s) := by
  unfold dmaMove
  repeat' first
    | with_reducible assumption | intro _ | with_reducible apply setDma_keep | with_reducible apply streamWrite_keep | with_reducible apply keep_ite
    | split | dsimp only [id_eq]

theorem dmaBegin_keep (c : ℕ) (h : Keep a s) : Keep a (dmaBegin c s) := by
  unfold dmaBegin
  repeat' first
    | with_reducible assumption | intro _ | with_reducible apply markBusy_keep | with_reducible apply setDma_keep | with_reducible apply dmaFail_keep
    | with_reducible apply raise_keep | with_reducible apply keep_ite | split | dsimp only [id_eq]

theorem dmaEvent_keep (c : ℕ) (h : Keep a s) : Keep a (dmaEvent c s) := by
  unfold dmaEvent
  repeat' first
    | with_reducible assumption | intro _ | with_reducible apply dmaBegin_keep | with_reducible apply setDma_keep | with_reducible apply keep_ite

theorem dmaStarts_keep (src : ℕ) (arg : ℕ) (h : Keep a s) : Keep a (dmaStarts src arg s) := by
  unfold dmaStarts
  repeat' first
    | with_reducible assumption | intro _ | with_reducible apply dmaEvent_keep | with_reducible apply keep_foldl

theorem execDmaStart_keep (src : DmaStart) (h : Keep a s) : KeepR a (execDmaStart src s) := by
  unfold execDmaStart
  repeat' first
    | with_reducible assumption | with_reducible apply dmaEvent_keep | with_reducible apply actEnd_keep | split | with_reducible apply KeepR.mk'

theorem dmaAbortAt_keep (c : ℕ) (written : ℕ) (h : Keep a s) : Keep a (dmaAbortAt c written s) := by
  unfold dmaAbortAt
  repeat' first
    | with_reducible assumption | intro _ | with_reducible apply setDma_keep | with_reducible apply dmaAbortFail_keep
    | with_reducible apply dmaMove_keep | split | dsimp only [id_eq]

theorem execDmaAbort_keep (c : Fin 320) (written : ℕ) (h : Keep a s) : KeepR a (execDmaAbort c written s) := by
  unfold execDmaAbort
  repeat' first
    | with_reducible assumption | with_reducible apply dmaAbortAt_keep | split | with_reducible apply KeepR.mk'

theorem execDmaPaceTick_keep (c : Fin 320) (h : Keep a s) : KeepR a (execDmaPaceTick c s) := by
  unfold execDmaPaceTick
  repeat' first
    | with_reducible assumption | intro _ | with_reducible apply runRead_keep | with_reducible apply dmaMove_keep | with_reducible apply setDma_keep
    | ((with_reducible apply Keep.out); with_reducible assumption) | with_reducible apply keep_ite | with_reducible apply keepP_ite | split
    | ((with_reducible apply KeepP.snd); with_reducible apply runRead_keep) | with_reducible apply KeepR.mk' | with_reducible apply KeepR.fault
    | with_reducible apply KeepP.mk' | dsimp only [id_eq]

theorem dmaDone_keep (c : ℕ) (h : Keep a s) : Keep a (dmaDone c s) := by
  unfold dmaDone
  repeat' first
    | with_reducible assumption | intro _ | with_reducible apply setDma_keep | with_reducible apply dmaBegin_keep | with_reducible apply eventAll_keep
    | with_reducible apply dmaStarts_keep | with_reducible apply raise_keep | with_reducible apply keep_ite

theorem dmaMemEnd_keep (c : ℕ) (ring : ℕ) (seq : ℕ) (written : ℕ) (h : Keep a s) : Keep a (dmaMemEnd c ring seq written s) := by
  unfold dmaMemEnd
  repeat' first
    | with_reducible assumption | intro _ | with_reducible apply dmaMemFail_keep | with_reducible apply dmaMove_keep | split | dsimp only [id_eq]

theorem dmaLineLost_keep (c : ℕ) (a_ : ℕ) (written : ℕ) (h : Keep a s) : Keep a (dmaLineLost c a_ written s) := by
  unfold dmaLineLost
  repeat' first
    | with_reducible assumption | intro _ | with_reducible apply lineBad_keep | with_reducible apply baseLineLost_keep
    | with_reducible apply dmaMemEnd_keep | with_reducible apply seqLost_keep | split | dsimp only [id_eq]

theorem dmaPoison_keep (c : ℕ) (a_ : ℕ) (written : ℕ) (h : Keep a s) : Keep a (dmaPoison c a_ written s) := by
  unfold dmaPoison
  repeat' first
    | with_reducible assumption | intro _ | with_reducible apply raiseCount_keep | with_reducible apply dmaMemEnd_keep
    | with_reducible apply seqLost_keep | split | dsimp only [id_eq]

theorem execDmaRunComplete_keep (e : RunEnd) (h : Keep a s) : KeepR a (execDmaRunComplete e s) := by
  unfold execDmaRunComplete
  repeat' first
    | with_reducible assumption | intro _ | with_reducible apply runRead_keep | with_reducible apply dmaDone_keep | with_reducible apply dmaMove_keep
    | with_reducible apply dmaLineLost_keep | ((with_reducible apply Keep.out); with_reducible assumption) | with_reducible apply keep_ite
    | with_reducible apply keepP_ite | split | ((with_reducible apply KeepP.snd); with_reducible apply runRead_keep) | with_reducible apply KeepR.mk'
    | with_reducible apply KeepR.fault | with_reducible apply KeepP.mk' | dsimp only [id_eq]

theorem dmaMemError_keep (r : DmaRun) (err : DmaError) (h : Keep a s) : KeepOP a (dmaMemError r err s) := by
  unfold dmaMemError
  repeat' first
    | with_reducible assumption | intro _ | with_reducible apply raise_keep | with_reducible apply tierTimeout_keep | with_reducible apply keepO_map
    | with_reducible apply keepOP_map | with_reducible apply keepOQ_map | with_reducible apply keep_ite | with_reducible apply keepOP_ite | split
    | with_reducible apply KeepP.mk' | with_reducible apply KeepOP.mk' | with_reducible apply KeepOP.none_ | with_reducible apply KeepOP.mkP
    | dsimp only [id_eq]

theorem execDmaRunError_keep (c : Fin 320) (err : DmaError) (written : ℕ) (h : Keep a s) : KeepR a (execDmaRunError c err written s) := by
  unfold execDmaRunError
  repeat' first
    | with_reducible assumption | intro _ | with_reducible apply dmaAbortAt_keep | with_reducible apply runRead_keep
    | with_reducible apply dmaLineLost_keep | with_reducible apply dmaPoison_keep | with_reducible apply dmaMemError_keep
    | with_reducible apply dmaMemEnd_keep | ((with_reducible apply Keep.out); with_reducible assumption)
    | ((with_reducible apply Keep.outOP); with_reducible assumption) | ((with_reducible apply Keep.outOPs); with_reducible assumption)
    | with_reducible apply keep_ite | with_reducible apply keepP_ite | with_reducible apply keepOP_ite | split
    | ((with_reducible apply KeepP.snd); with_reducible apply runRead_keep) | with_reducible apply KeepR.mk' | with_reducible apply KeepR.fault
    | with_reducible apply KeepP.mk' | with_reducible apply KeepOP.mk' | with_reducible apply KeepOP.none_ | with_reducible apply KeepOP.mkP
    | dsimp only [id_eq]

theorem setTmr_keep (n : ℕ) (x : Tmr) (h : Keep a s) : Keep a (setTmr n x s) := by
  unfold setTmr
  repeat' first
    | with_reducible assumption | dsimp only [id_eq] | fail_if_no_progress ((with_reducible apply keep_rec); rfl)

theorem execTimerComparatorFire_keep (n : Fin 32) (h : Keep a s) : KeepR a (execTimerComparatorFire n s) := by
  unfold execTimerComparatorFire
  repeat' first
    | with_reducible assumption | intro _ | with_reducible apply setTmr_keep | with_reducible apply count_keep | with_reducible apply eventAll_keep
    | with_reducible apply dmaStarts_keep | with_reducible apply keep_ite | split | with_reducible apply KeepR.mk' | with_reducible apply KeepR.fault
    | dsimp only [id_eq]

/-! ## Machine/Redo.lean -/

theorem chunkLost_keep (a_ : ℕ) (h : Keep a s) : Keep a (chunkLost a_ s) := by
  unfold chunkLost
  repeat' first
    | with_reducible assumption | intro _ | with_reducible apply baseLineLost_keep | with_reducible apply seqLost_keep | split | dsimp only [id_eq]

theorem endHeld_keep (ring : ℕ) (seq : ℕ) (h_ : HeldRead) (h : Keep a s) : Keep a (endHeld ring seq h_ s) := by
  unfold endHeld
  repeat' first
    | with_reducible assumption | intro _ | with_reducible apply endReq_keep | with_reducible apply dmaMemFail_keep
    | with_reducible apply migFail_keep | with_reducible apply setChan_keep | split | dsimp only [id_eq]

theorem redoLost_keep (ch : ℕ) (chunks : List ℕ) (held : List HeldRead) (h : Keep a s) : Keep a (redoLost ch chunks held s) := by
  unfold redoLost
  repeat' first
    | with_reducible assumption | intro _ | with_reducible apply raise_keep | with_reducible apply cmdEnd_keep | with_reducible apply setChan_keep
    | with_reducible apply endHeld_keep | with_reducible apply chunkLost_keep | with_reducible apply keep_foldl | with_reducible apply keepO_bind
    | with_reducible apply keepOP_bind | split | dsimp only [id_eq]

theorem execJournalRedo_keep (ch : Fin 192) (index : ℕ) (scratchOk : Bool) (h : Keep a s) : KeepR a (execJournalRedo ch index scratchOk s) := by
  unfold execJournalRedo
  repeat' first
    | with_reducible assumption | intro _ | with_reducible apply setJournal_keep | with_reducible apply setChan_keep
    | with_reducible apply writeChunks_keep | with_reducible apply redoLost_keep | with_reducible apply keep_ite | split
    | with_reducible apply KeepR.mk' | with_reducible apply KeepR.fault | dsimp only [id_eq]

/-! ## Machine/Firmware.lean -/

theorem answerFw_keep (status : ℕ) (resp : Bytes) (h : Keep a s) : Keep a (answerFw status resp s) := by
  unfold answerFw
  repeat' first
    | with_reducible assumption | dsimp only [id_eq] | fail_if_no_progress ((with_reducible apply keep_rec); rfl)

theorem fwRun_keep (op : ℕ) (run : Latched → State → State) (hrun : ∀ y0 y1, Keep a y1 → Keep a (run y0 y1)) (h : Keep a s) : Keep a (fwRun op run s) := by
  unfold fwRun
  repeat' first
    | with_reducible assumption | apply hrun | with_reducible apply answerFw_keep | split

theorem acceptDeferred_keep (c : Latched) (obj : ℕ) (h : Keep a s) : KeepO a (acceptDeferred c obj s) := by
  unfold acceptDeferred
  repeat' first
    | with_reducible assumption | intro _ | with_reducible apply keepO_ite | with_reducible apply KeepO.mk' | with_reducible apply KeepO.none_
    | dsimp only [id_eq] | fail_if_no_progress ((with_reducible apply keep_rec); rfl)

theorem publishFw_keep (c : Latched) (status : ℕ) (resp : Bytes) (h : Keep a s) : Keep a (publishFw c status resp s) := by
  unfold publishFw
  repeat' first
    | with_reducible assumption | dsimp only [id_eq] | fail_if_no_progress ((with_reducible apply keep_rec); rfl)

theorem execImmediateCommandComplete_keep  (h : Keep a s) : KeepR a (execImmediateCommandComplete s) := by
  unfold execImmediateCommandComplete
  repeat' first
    | with_reducible assumption | with_reducible apply publishFw_keep | split | with_reducible apply KeepR.mk'

/-! ## Machine/Gate.lean -/

theorem svcClaimGate_keep (rid : BitVec 16) (write : Bool) (off : ℕ) (word : optParam Bool true) (h : Keep a s) : KeepP a (svcClaimGate rid write off s word) := by
  unfold svcClaimGate
  repeat' first
    | with_reducible assumption | intro _ | with_reducible apply svcAnswer_keep | with_reducible apply svcForeign_keep
    | with_reducible apply svcBad_keep | with_reducible apply keep_ite | with_reducible apply keepP_ite | split | with_reducible apply KeepP.mk'
    | dsimp only [id_eq]

theorem writerGate_keep (who : Writer) (off : ℕ) (act : State → State) (hact : ∀ y0, Keep a y0 → Keep a (act y0)) (h : Keep a s) : Keep a (writerGate who off s act) := by
  unfold writerGate
  repeat' first
    | with_reducible assumption | intro _ | with_reducible apply svcClaimGate_keep | with_reducible apply svcAnswer_keep | with_reducible apply hact
    | ((with_reducible apply Keep.out); with_reducible assumption) | with_reducible apply keep_ite | with_reducible apply keepP_ite | split
    | ((with_reducible apply KeepP.snd); with_reducible apply svcClaimGate_keep) | with_reducible apply KeepP.mk' | dsimp only [id_eq]

/-! ## Machine/Settings.lean -/

theorem putWeir_keep (p : ℕ) (w : Weir) (h : Keep a s) : Keep a (putWeir p w s) := by
  unfold putWeir
  repeat' first
    | with_reducible assumption | intro _ | with_reducible apply keep_foldl | with_reducible apply keep_ite | split | dsimp only [id_eq]
    | fail_if_no_progress ((with_reducible apply keep_rec); rfl)

theorem setInvalid_keep  (h : Keep a s) : Keep a (setInvalid s) := by
  unfold setInvalid
  repeat' first
    | with_reducible assumption | with_reducible apply raise_keep

theorem commitWeir_keep (p : ℕ) (w0 : ℕ) (h : Keep a s) : Keep a (commitWeir p w0 s) := by
  unfold commitWeir
  repeat' first
    | with_reducible assumption | intro _ | with_reducible apply putWeir_keep | with_reducible apply setInvalid_keep | with_reducible apply raise_keep
    | with_reducible apply keep_ite | split | dsimp only [id_eq]

theorem settingWrite_keep (rid : BitVec 16) (off : ℕ) (act : State → State) (hact : ∀ y0, Keep a y0 → Keep a (act y0)) (h : Keep a s) : Keep a (settingWrite rid off act s) := by
  unfold settingWrite
  repeat' first
    | with_reducible assumption | with_reducible apply writerGate_keep

theorem execTrafficWeirCommit_keep (rid : BitVec 16) (p : Fin 64) (word0 : BitVec 32) (h : Keep a s) : KeepR a (execTrafficWeirCommit rid p word0 s) := by
  unfold execTrafficWeirCommit
  repeat' first
    | with_reducible assumption | intro _ | with_reducible apply settingWrite_keep | with_reducible apply commitWeir_keep
    | with_reducible apply KeepR.mk'

theorem putMeter_keep (k : ℕ) (m_ : Meter) (h : Keep a s) : Keep a (putMeter k m_ s) := by
  unfold putMeter
  repeat' first
    | with_reducible assumption | intro _ | with_reducible apply keep_foldl | with_reducible apply keep_ite | split | dsimp only [id_eq]
    | fail_if_no_progress ((with_reducible apply keep_rec); rfl)

theorem commitMeter_keep (k : ℕ) (w0 : ℕ) (h : Keep a s) : Keep a (commitMeter k w0 s) := by
  unfold commitMeter
  repeat' first
    | with_reducible assumption | with_reducible apply setInvalid_keep | with_reducible apply putMeter_keep | split | dsimp only [id_eq]
    | fail_if_no_progress ((with_reducible apply keep_rec); rfl)

theorem execTrafficMeterCommit_keep (rid : BitVec 16) (slot : Fin 1024) (word0 : BitVec 32) (h : Keep a s) : KeepR a (execTrafficMeterCommit rid slot word0 s) := by
  unfold execTrafficMeterCommit
  repeat' first
    | with_reducible assumption | intro _ | with_reducible apply settingWrite_keep | with_reducible apply commitMeter_keep
    | with_reducible apply KeepR.mk'

theorem commitEq_keep (q : ℕ) (w0 : ℕ) (h : Keep a s) : Keep a (commitEq q w0 s) := by
  unfold commitEq
  repeat' first
    | with_reducible assumption | with_reducible apply setInvalid_keep | split | dsimp only [id_eq]
    | fail_if_no_progress ((with_reducible apply keep_rec); rfl)

theorem execTrafficEqCommit_keep (rid : BitVec 16) (q : Fin 1024) (word0 : BitVec 32) (h : Keep a s) : KeepR a (execTrafficEqCommit rid q word0 s) := by
  unfold execTrafficEqCommit
  repeat' first
    | with_reducible assumption | intro _ | with_reducible apply settingWrite_keep | with_reducible apply commitEq_keep
    | with_reducible apply KeepR.mk'

/-! ## Machine/Tenants.lean -/

theorem setKey_keep (k : ℕ) (x : KeySlot) (h : Keep a s) : Keep a (setKey k x s) := by
  unfold setKey
  repeat' first
    | with_reducible assumption | fail_if_no_progress ((with_reducible apply keep_rec); rfl)

theorem blobKey_keep (ad : Bytes) (blob : Bytes) (h : Keep a s) : KeepP a (blobKey ad blob s) := by
  unfold blobKey
  repeat' first
    | with_reducible assumption | intro _ | with_reducible apply raise_keep | with_reducible apply keepP_ite | split | with_reducible apply KeepP.mk'

theorem zeroCounters_keep (k : ℕ) (h : Keep a s) : Keep a (zeroCounters k s) := by
  unfold zeroCounters
  repeat' first
    | with_reducible assumption | fail_if_no_progress ((with_reducible apply keep_rec); rfl)

theorem fillSlot_keep (k : ℕ) (b_ : Bytes) (link : Option (BitVec 256)) (h : Keep a s) : Keep a (fillSlot k b_ link s) := by
  unfold fillSlot
  repeat' first
    | with_reducible assumption | with_reducible apply setKey_keep | ((with_reducible apply KeepP.snd); with_reducible apply takeFree_keep)

theorem openTenantWindows_keep (tenant : ℕ) (count : ℕ) (h : Keep a s) : KeepOQ a (openTenantWindows tenant count s) := by
  unfold openTenantWindows
  repeat' first
    | with_reducible assumption | with_reducible apply openWindow_keep | ((with_reducible apply Keep.outOP); with_reducible assumption) | split
    | with_reducible apply KeepOQ.mk' | with_reducible apply KeepOQ.none_

theorem admitInto_keep (b_ : Bytes) (link : Option (BitVec 256)) (h : Keep a s) : KeepQ a (admitInto b_ link s) := by
  unfold admitInto
  repeat' first
    | with_reducible assumption | with_reducible apply openTenantWindows_keep | with_reducible apply fillSlot_keep | with_reducible apply count_keep
    | with_reducible apply zeroCounters_keep | ((with_reducible apply Keep.outOQ); with_reducible assumption) | split | with_reducible apply KeepQ.mk'
    | dsimp only [id_eq] | fail_if_no_progress ((with_reducible apply keep_rec); rfl)

theorem refuseSlot_keep (tenant : ℕ) (k : ℕ) (op : ℕ) (h : Keep a s) : Keep a (refuseSlot tenant k op s) := by
  unfold refuseSlot
  repeat' first
    | with_reducible assumption | intro _ | with_reducible apply refuseC_keep | dsimp only [id_eq]

theorem admitDo_keep (b_ : Bytes) (h : Keep a s) : KeepQ a (admitDo b_ s) := by
  unfold admitDo
  repeat' first
    | with_reducible assumption | intro _ | with_reducible apply refuseSlot_keep | with_reducible apply blobKey_keep
    | with_reducible apply admitInto_keep | ((with_reducible apply Keep.out); with_reducible assumption) | with_reducible apply keepQ_ite | split
    | with_reducible apply KeepQ.mk'

theorem execTenantAdmit_keep  (h : Keep a s) : KeepR a (execTenantAdmit s) := by
  unfold execTenantAdmit
  repeat' first
    | with_reducible assumption | intro _ | with_reducible apply fwRun_keep | with_reducible apply answerFw_keep
    | ((with_reducible apply KeepQ.snd); with_reducible apply admitDo_keep) | with_reducible apply KeepR.mk'

theorem setKeys_keep (p0 : KeyHolder) (x : LinkKeys) (h : Keep a s) : Keep a (setKeys p0 x s) := by
  unfold setKeys
  repeat' first
    | with_reducible assumption | with_reducible apply setKey_keep | split | dsimp only [id_eq]
    | fail_if_no_progress ((with_reducible apply keep_rec); rfl)

theorem keyPending_keep (p0 : KeyHolder) (b_ : Bytes) (key : BitVec 256) (h : Keep a s) : Keep a (keyPending p0 b_ key s) := by
  unfold keyPending
  repeat' first
    | with_reducible assumption | with_reducible apply setKeys_keep

theorem installInto_keep (p0 : KeyHolder) (tenant : ℕ) (k : ℕ) (b_ : Bytes) (h : Keep a s) : KeepP a (installInto p0 tenant k b_ s) := by
  unfold installInto
  repeat' first
    | with_reducible assumption | intro _ | with_reducible apply refuseSlot_keep | with_reducible apply blobKey_keep
    | with_reducible apply keyPending_keep | ((with_reducible apply Keep.out); with_reducible assumption) | with_reducible apply keepP_ite | split
    | with_reducible apply KeepP.mk'

theorem keyInstallDo_keep (b_ : Bytes) (h : Keep a s) : KeepP a (keyInstallDo b_ s) := by
  unfold keyInstallDo
  repeat' first
    | with_reducible assumption | intro _ | with_reducible apply installInto_keep | with_reducible apply refuseSlot_keep
    | with_reducible apply keepP_ite | split | with_reducible apply KeepP.mk'

theorem execKeyInstall_keep  (h : Keep a s) : KeepR a (execKeyInstall s) := by
  unfold execKeyInstall
  repeat' first
    | with_reducible assumption | intro _ | with_reducible apply fwRun_keep | with_reducible apply answerFw_keep
    | ((with_reducible apply KeepP.snd); with_reducible apply keyInstallDo_keep) | with_reducible apply KeepR.mk'

theorem execKeyActivate_keep (holder : KeyHolder) (h : Keep a s) : KeepR a (execKeyActivate holder s) := by
  unfold execKeyActivate
  repeat' first
    | with_reducible assumption | intro _ | with_reducible apply setKeys_keep | with_reducible apply setKey_keep | with_reducible apply keep_ite
    | split | with_reducible apply KeepR.mk' | dsimp only [id_eq]

theorem execKeyPreviousDrop_keep (holder : KeyHolder) (h : Keep a s) : KeepR a (execKeyPreviousDrop holder s) := by
  unfold execKeyPreviousDrop
  repeat' first
    | with_reducible assumption | intro _ | with_reducible apply setKeys_keep | with_reducible apply keep_ite | split | with_reducible apply KeepR.mk'
    | dsimp only [id_eq]

theorem execKeyAge_keep (slot : Fin 1024) (h : Keep a s) : KeepR a (execKeyAge slot s) := by
  unfold execKeyAge
  repeat' first
    | with_reducible assumption | intro _ | with_reducible apply setKey_keep | with_reducible apply keep_ite | split | with_reducible apply KeepR.mk'
    | dsimp only [id_eq]

theorem removeDo_keep (tenant : ℕ) (h : Keep a s) : KeepS a (removeDo tenant s) := by
  unfold removeDo
  repeat' first
    | with_reducible assumption | with_reducible apply setKey_keep | split | with_reducible apply KeepS.mk' | with_reducible apply KeepS.inl

theorem execTenantRemove_keep  (h : Keep a s) : KeepR a (execTenantRemove s) := by
  unfold execTenantRemove
  repeat' first
    | with_reducible assumption | intro _ | with_reducible apply fwRun_keep | with_reducible apply removeDo_keep | with_reducible apply answerFw_keep
    | with_reducible apply acceptDeferred_keep | ((with_reducible apply Keep.outS); with_reducible assumption)
    | ((with_reducible apply Keep.outO); with_reducible assumption) | split | with_reducible apply KeepR.mk'

theorem retireActs_keep (tenant : ℕ) (h : Keep a s) : Keep a (retireActs tenant s) := by
  unfold retireActs
  repeat' first
    | with_reducible assumption | intro _ | with_reducible apply cancelEntry_keep | with_reducible apply startDrainWin_keep
    | with_reducible apply releaseSeq_keep | with_reducible apply keep_foldl | fail_if_no_progress ((with_reducible apply keep_rec); rfl)

theorem execTenantRetire_keep (slot : Fin 1024) (h : Keep a s) : KeepR a (execTenantRetire slot s) := by
  unfold execTenantRetire
  repeat' first
    | with_reducible assumption | intro _ | with_reducible apply retireActs_keep | with_reducible apply setKey_keep | with_reducible apply keep_ite
    | split | with_reducible apply KeepR.mk' | dsimp only [id_eq]

theorem endRemoves_keep (k : ℕ) (p1 : List Deferred) (h : Keep a s) : Keep a (endRemoves k p1 s) := by
  induction p1 generalizing s with
  | nil =>
    unfold endRemoves
    repeat' first
      | with_reducible assumption
  | cons _ _ ih =>
    unfold endRemoves
    repeat' first
      | with_reducible assumption | intro _ | (apply ih) | with_reducible apply deferredEnd_keep | with_reducible apply keep_ite

theorem execTenantZeroise_keep (slot : Fin 1024) (h : Keep a s) : KeepR a (execTenantZeroise slot s) := by
  unfold execTenantZeroise
  repeat' first
    | with_reducible assumption | intro _ | with_reducible apply setKey_keep | with_reducible apply putMeter_keep
    | with_reducible apply endRemoves_keep | with_reducible apply keep_ite | split | with_reducible apply KeepR.mk' | dsimp only [id_eq]
    | fail_if_no_progress ((with_reducible apply keep_rec); rfl)

theorem execSealedScrub_keep (r : Fin 16) (ok : Bool) (h : Keep a s) : KeepR a (execSealedScrub r ok s) := by
  unfold execSealedScrub
  repeat' first
    | with_reducible assumption | intro _ | with_reducible apply fencePort_keep | with_reducible apply keep_ite | split
    | with_reducible apply KeepR.mk' | with_reducible apply KeepR.fault | dsimp only [id_eq]
    | fail_if_no_progress ((with_reducible apply keep_rec); rfl)
    | exact keep_recMem (fun h => memWf_memZero h _ _) (fun h => h) (fun h => h) (fun h => h) h
    | exact keep_recMem (fun h => h) (fun h => memWf_memZero h _ _) (fun h => h) (fun h => h) h

/-! ## Machine/Attest.lean -/

theorem nvmErase_keep (o : ℕ) (h : Keep a s) : Keep a (nvmErase o s) := by
  unfold nvmErase
  repeat' first
    | with_reducible assumption | with_reducible apply nvmProgram_keep

theorem execNvmRead_keep  (h : Keep a s) : KeepR a (execNvmRead s) := by
  unfold execNvmRead
  repeat' first
    | with_reducible assumption | intro _ | with_reducible apply fwRun_keep | with_reducible apply answerFw_keep | with_reducible apply keep_ite
    | with_reducible apply KeepR.mk'

theorem execNvmWrite_keep (h : Keep a s) : KeepR a (execNvmWrite s) := by
  unfold execNvmWrite
  repeat' first
    | with_reducible assumption | intro _ | with_reducible apply fwRun_keep | with_reducible apply answerFw_keep
    | with_reducible apply nvmProgram_keep | with_reducible apply nvmErase_keep | with_reducible apply keep_foldl | with_reducible apply keep_ite
    | split | with_reducible apply KeepR.mk' | with_reducible apply KeepR.fault | dsimp only [id_eq]

theorem sigBoot_keep  (h : Keep a s) : Keep a (sigBoot s) := by
  unfold sigBoot
  repeat' first
    | with_reducible assumption | split | dsimp only [id_eq] | fail_if_no_progress ((with_reducible apply keep_rec); rfl)

theorem sigAppend_keep (h : Keep a s) : Keep a (sigAppend s) := by
  unfold sigAppend
  repeat' first
    | with_reducible assumption | intro _ | with_reducible apply nvmProgram_keep | dsimp only [id_eq]

theorem sigErase_keep (k : ℕ) (h : Keep a s) : Keep a (sigErase k s) := by
  unfold sigErase
  repeat' first
    | with_reducible assumption | intro _ | with_reducible apply nvmErase_keep | with_reducible apply keep_ite | split | dsimp only [id_eq]

theorem reserveKey_keep (readBack : Bool) (h : Keep a s) : KeepP a (reserveKey readBack s) := by
  unfold reserveKey
  repeat' first
    | with_reducible assumption | intro _ | with_reducible apply raise_keep | with_reducible apply sigAppend_keep | with_reducible apply sigErase_keep
    | with_reducible apply keep_ite | with_reducible apply keepP_ite | split | with_reducible apply KeepP.mk' | dsimp only [id_eq]
    | fail_if_no_progress ((with_reducible apply keep_rec); rfl)

theorem execHssTreeBuild_keep (tree : Fin 32768) (h : Keep a s) : KeepR a (execHssTreeBuild tree s) := by
  unfold execHssTreeBuild
  repeat' first
    | with_reducible assumption | intro _ | with_reducible apply keep_ite | split | with_reducible apply KeepR.mk' | dsimp only [id_eq]
    | fail_if_no_progress ((with_reducible apply keep_rec); rfl)

theorem attestSign_keep (k : ℕ) (nonce : Bytes) (h : Keep a s) : KeepP a (attestSign k nonce s) := by
  unfold attestSign
  repeat' first
    | with_reducible assumption | with_reducible apply KeepP.mk' | dsimp only [id_eq] | fail_if_no_progress ((with_reducible apply keep_rec); rfl)

theorem execAttest_keep (readBack : Bool) (h : Keep a s) : KeepR a (execAttest readBack s) := by
  unfold execAttest
  repeat' first
    | with_reducible assumption | intro _ | with_reducible apply fwRun_keep | with_reducible apply answerFw_keep
    | with_reducible apply reserveKey_keep | with_reducible apply attestSign_keep | ((with_reducible apply Keep.out); with_reducible assumption)
    | with_reducible apply keep_ite | with_reducible apply keepP_ite | split
    | ((with_reducible apply KeepP.snd); with_reducible apply reserveKey_keep)
    | ((with_reducible apply KeepP.snd); with_reducible apply attestSign_keep) | with_reducible apply KeepR.mk' | with_reducible apply KeepR.fault
    | with_reducible apply KeepP.mk' | dsimp only [id_eq]

theorem execAttestBases_keep  (h : Keep a s) : KeepR a (execAttestBases s) := by
  unfold execAttestBases
  repeat' first
    | with_reducible assumption | intro _ | with_reducible apply fwRun_keep | with_reducible apply answerFw_keep | with_reducible apply keep_ite
    | split | with_reducible apply KeepR.mk' | dsimp only [id_eq]

theorem execBaseListDiscard_keep (tenant : BitVec 12) (h : Keep a s) : KeepR a (execBaseListDiscard tenant s) := by
  unfold execBaseListDiscard
  repeat' first
    | with_reducible assumption | split | with_reducible apply KeepR.mk' | dsimp only [id_eq]
    | fail_if_no_progress ((with_reducible apply keep_rec); rfl)

theorem execSvnCommit_keep  (h : Keep a s) : KeepR a (execSvnCommit s) := by
  unfold execSvnCommit
  refine KeepR.mk' (fwRun_keep _ _ ?_ h)
  intro c s h
  exact answerFw_keep _ _ (keep_fuse ⟨rfl, rfl, rfl, Nat.le_max_left _ _, Nat.le_max_left _ _⟩ h)

/-! ## Machine/Clocks.lean -/

theorem movePoint_keep (r : ℕ) (k : ℕ) (h : Keep a s) : Keep a (movePoint r k s) := by
  unfold movePoint
  repeat' first
    | with_reducible assumption | intro _ | with_reducible apply setRgn_keep | with_reducible apply keep_ite

theorem setRgnSearch_keep (r : ℕ) (g : Rgn) (h : Keep a s) : Keep a (setRgnSearch r g s) := by
  unfold setRgnSearch
  repeat' first
    | with_reducible assumption | intro _ | with_reducible apply setRgn_keep | with_reducible apply raise_keep | with_reducible apply keep_ite

theorem setPair_keep (n : ℕ) (p : Pair) (h : Keep a s) : Keep a (setPair n p s) := by
  unfold setPair
  repeat' first
    | with_reducible assumption | fail_if_no_progress ((with_reducible apply keep_rec); rfl)

theorem skewRecord_keep (n : ℕ) (q : ℕ) (h : Keep a s) : Keep a (skewRecord n q s) := by
  unfold skewRecord
  repeat' first
    | with_reducible assumption | with_reducible apply logRecord_keep

theorem markAction_keep (n : ℕ) (q : ℕ) (h : Keep a s) : Keep a (markAction n q s) := by
  unfold markAction
  repeat' first
    | with_reducible assumption | intro _ | with_reducible apply setPair_keep | with_reducible apply keep_ite

theorem applyClamp_keep (c : Clamps) (r : ℕ) (h : Keep a s) : Keep a (applyClamp c s r) := by
  unfold applyClamp
  repeat' first
    | with_reducible assumption | with_reducible apply markAction_keep | with_reducible apply skewRecord_keep | with_reducible apply setRgn_keep
    | with_reducible apply movePoint_keep | split | dsimp only [id_eq]

theorem searchAction_keep (n : ℕ) (h : Keep a s) : Keep a (searchAction s n) := by
  unfold searchAction
  repeat' first
    | with_reducible assumption | intro _ | with_reducible apply setRgnSearch_keep | with_reducible apply markAction_keep
    | with_reducible apply skewRecord_keep | with_reducible apply keep_ite

theorem clampPass_keep (r0 : ℕ) (h : Keep a s) : Keep a (clampPass r0 s) := by
  unfold clampPass
  repeat' first
    | with_reducible assumption | intro _ | with_reducible apply applyClamp_keep | with_reducible apply searchAction_keep
    | with_reducible apply keep_foldl

theorem execSkewClampApply_keep (r : Fin 16) (h : Keep a s) : KeepR a (execSkewClampApply r s) := by
  unfold execSkewClampApply
  repeat' first
    | with_reducible assumption | with_reducible apply clampPass_keep | split | with_reducible apply KeepR.mk'

theorem execDvfsPointChange_keep (r : Fin 16) (point : Fin 35) (h : Keep a s) : KeepR a (execDvfsPointChange r point s) := by
  unfold execDvfsPointChange
  repeat' first
    | with_reducible assumption | intro _ | with_reducible apply setRgn_keep | with_reducible apply clampPass_keep
    | with_reducible apply movePoint_keep | with_reducible apply keep_ite | with_reducible apply KeepR.mk'

theorem noteSensor_keep (n : ℕ) (t : ℕ) (h : Keep a s) : Keep a (noteSensor n t s) := by
  unfold noteSensor
  repeat' first
    | with_reducible assumption | intro _ | with_reducible apply setRgn_keep | with_reducible apply keep_ite | split | dsimp only [id_eq]
    | fail_if_no_progress ((with_reducible apply keep_rec); rfl)

theorem compareTemp_keep (n : ℕ) (h : Keep a s) : Keep a (compareTemp n s) := by
  unfold compareTemp
  repeat' first
    | with_reducible assumption | intro _ | with_reducible apply setAndFire_keep | with_reducible apply setPair_keep | with_reducible apply keep_ite

theorem releaseSearch_keep (r : ℕ) (h : Keep a s) : Keep a (releaseSearch r s) := by
  unfold releaseSearch
  repeat' first
    | with_reducible assumption | intro _ | with_reducible apply setRgnSearch_keep | with_reducible apply keep_ite

theorem execThermalSample_keep (r : Fin 16) (readings : Vector (BitVec 10) 8) (h : Keep a s) : KeepR a (execThermalSample r readings s) := by
  unfold execThermalSample
  repeat' first
    | with_reducible assumption | intro _ | with_reducible apply setRgnSearch_keep | with_reducible apply raise_keep
    | with_reducible apply compareTemp_keep | with_reducible apply releaseSearch_keep | with_reducible apply keep_foldl
    | with_reducible apply keep_ite | split | with_reducible apply KeepR.mk' | with_reducible apply KeepR.fault | dsimp only [id_eq]

theorem execSideLinkCompare_keep (pair : Fin 15) (mvLow : ℕ) (mvHigh : ℕ) (h : Keep a s) : KeepR a (execSideLinkCompare pair mvLow mvHigh s) := by
  unfold execSideLinkCompare
  repeat' first
    | with_reducible assumption | intro _ | with_reducible apply setPair_keep | with_reducible apply setAndFire_keep | with_reducible apply keep_ite
    | with_reducible apply KeepR.mk'

theorem supplyFault_keep (r : ℕ) (h : Keep a s) : Keep a (supplyFault r s) := by
  unfold supplyFault
  repeat' first
    | with_reducible assumption | intro _ | with_reducible apply raise_keep | with_reducible apply fenceRegion_keep | with_reducible apply keep_ite

theorem execSupplySkewTimeout_keep (pair : Fin 15) (h : Keep a s) : KeepR a (execSupplySkewTimeout pair s) := by
  unfold execSupplySkewTimeout
  repeat' first
    | with_reducible assumption | intro _ | with_reducible apply supplyFault_keep | with_reducible apply keep_ite | with_reducible apply KeepR.mk'

theorem execClampReleaseStep_keep (r : Fin 16) (h : Keep a s) : KeepR a (execClampReleaseStep r s) := by
  unfold execClampReleaseStep
  repeat' first
    | with_reducible assumption | intro _ | with_reducible apply movePoint_keep | with_reducible apply setRgn_keep | with_reducible apply keep_ite
    | with_reducible apply KeepR.mk'

theorem capStep_keep (r : ℕ) (h : Keep a s) : Keep a (capStep s r) := by
  unfold capStep
  repeat' first
    | with_reducible assumption | intro _ | with_reducible apply movePoint_keep | with_reducible apply setRgn_keep | with_reducible apply keep_ite

theorem execPowerMeasure_keep (watts : ℕ) (h : Keep a s) : KeepR a (execPowerMeasure watts s) := by
  unfold execPowerMeasure
  repeat' first
    | with_reducible assumption | intro _ | with_reducible apply raise_keep | with_reducible apply clampPass_keep | with_reducible apply capStep_keep
    | with_reducible apply Keep.getD | with_reducible apply keep_foldl | with_reducible apply keepO_map | with_reducible apply keepOP_map
    | with_reducible apply keepOQ_map | with_reducible apply keep_ite | split | with_reducible apply KeepR.mk' | with_reducible apply KeepR.fault
    | dsimp only [id_eq] | fail_if_no_progress ((with_reducible apply keep_rec); rfl)

theorem idleTick_keep (h : Keep a s) : Keep a (idleTick s) := by
  unfold idleTick
  repeat' first
    | with_reducible assumption | intro _ | with_reducible apply tick_keep | with_reducible apply markBusy_keep | with_reducible apply keep_foldl
    | with_reducible apply keep_ite | split | dsimp only [id_eq]

theorem execQuietGate_keep (r : Fin 16) (h : Keep a s) : KeepR a (execQuietGate r s) := by
  unfold execQuietGate
  repeat' first
    | with_reducible assumption | intro _ | with_reducible apply movePoint_keep | with_reducible apply setRgn_keep | with_reducible apply Keep.getD
    | with_reducible apply keepO_map | with_reducible apply keepOP_map | with_reducible apply keepOQ_map | with_reducible apply keep_ite | split
    | with_reducible apply KeepR.mk' | with_reducible apply KeepR.fault | dsimp only [id_eq]

theorem startWaiting_keep (c : ℕ) (h : Keep a s) : Keep a (startWaiting s c) := by
  unfold startWaiting
  repeat' first
    | with_reducible assumption | intro _ | with_reducible apply dmaBegin_keep | with_reducible apply setDma_keep | with_reducible apply keep_ite

theorem ungateRgn_keep (r : ℕ) (h : Keep a s) : Keep a (ungateRgn r s) := by
  unfold ungateRgn
  repeat' first
    | with_reducible assumption | intro _ | with_reducible apply setRgn_keep | with_reducible apply count_keep
    | with_reducible apply startWaiting_keep | with_reducible apply clampPass_keep | with_reducible apply keep_foldl | with_reducible apply keep_ite
    | split | dsimp only [id_eq]

theorem execQuietUngate_keep (r : Fin 16) (h : Keep a s) : KeepR a (execQuietUngate r s) := by
  unfold execQuietUngate
  repeat' first
    | with_reducible assumption | intro _ | with_reducible apply ungateRgn_keep | with_reducible apply keepO_bind | with_reducible apply keepOP_bind
    | with_reducible apply keep_ite | split | with_reducible apply KeepR.mk' | with_reducible apply KeepR.fault | dsimp only [id_eq]

theorem execSupplyRampEnd_keep (r : Fin 16) (h : Keep a s) : KeepR a (execSupplyRampEnd r s) := by
  unfold execSupplyRampEnd
  repeat' first
    | with_reducible assumption | intro _ | with_reducible apply ungateRgn_keep | with_reducible apply setRgn_keep | with_reducible apply keep_ite
    | split | with_reducible apply KeepR.mk' | with_reducible apply KeepR.fault | dsimp only [id_eq]

/-! ## Machine/Catch.lean -/

theorem execCauseEnWrite_keep (who : Writer) (src : Fin 163) (value : BitVec 32) (h : Keep a s) : KeepR a (execCauseEnWrite who src value s) := by
  unfold execCauseEnWrite
  repeat' first
    | with_reducible assumption | intro _ | with_reducible apply writerGate_keep | with_reducible apply writeCauseEn_keep
    | with_reducible apply KeepR.mk'

theorem execCatchCtrlWrite_keep (who : Writer) (value : BitVec 32) (h : Keep a s) : KeepR a (execCatchCtrlWrite who value s) := by
  unfold execCatchCtrlWrite
  refine KeepR.mk' (writerGate_keep _ _ _ ?_ h)
  intro s h
  refine keep_settle (b := s) rfl rfl rfl rfl rfl rfl rfl ?_ ?_ h
  · unfold catchCtrlAfter; split <;> exact fun h => h
  · unfold catchCtrlAfter; split <;> exact fun h => h

theorem execCatchSrcCfgWrite_keep (who : Writer) (src : Fin 163) (value : BitVec 32) (h : Keep a s) : KeepR a (execCatchSrcCfgWrite who src value s) := by
  unfold execCatchSrcCfgWrite
  refine KeepR.mk' (writerGate_keep _ _ _ ?_ h)
  intro s h
  exact keep_ite (fun _ => h) (fun _ => keep_settle (b := s) rfl rfl rfl rfl rfl rfl rfl
    (fun h1 => prio_setSrc h1 (srcCfgAfter_prio _ _ (prio_srcCfg _ h1))) (fun h2 => h2) h)

theorem claimTarget_keep (t : ℕ) (h : Keep a s) : Keep a (claimTarget t s) := by
  unfold claimTarget
  split
  · exact h
  · rename_i o ho
    refine keep_settle (b := s) rfl rfl rfl rfl rfl rfl rfl (fun h1 => prio_setSrc h1 (prio_srcCfg _ h1)) ?_ h
    intro h2 e he
    have hc := (catchOk_iff _).1 h.catchment
    have he : e ∈ tset [] s.catchment.stack t ((o.src, (srcCfg s.catchment o.src).prio) :: tgtStack s.catchment t) := he
    rcases mem_tset he with rfl | he
    · exact nested_push (prio_srcCfg _ hc.1) (hc.2.1 _ (mem_tlook ho)) hc.2.2
    · exact h2 e he

theorem execCatchTgtClaim_keep (who : Writer) (t : Fin 9) (h : Keep a s) : KeepR a (execCatchTgtClaim who t s) := by
  unfold execCatchTgtClaim
  repeat' first
    | with_reducible assumption | with_reducible apply claimTarget_keep | with_reducible apply svcClaimGate_keep | with_reducible apply svcAnswer_keep
    | ((with_reducible apply Keep.out); with_reducible assumption) | split | with_reducible apply KeepR.mk'

theorem completeTarget_keep (t : ℕ) (id : ℕ) (h : Keep a s) : Keep a (completeTarget t id s) := by
  unfold completeTarget
  split
  · rename_i src p rest hst
    dsimp only
    refine keep_ite (fun _ => ?_) (fun _ => raise_keep _ _ h)
    refine keep_settle (b := s) rfl rfl rfl rfl rfl rfl rfl (fun h1 => prio_setSrc h1 (prio_srcCfg _ h1)) ?_ h
    intro h2 e he
    have he : e ∈ tset [] s.catchment.stack t rest := he
    have hn : nested (tgtStack s.catchment t) = true := mem_tget (p := fun l => nested l = true) rfl h2
    rw [hst] at hn
    rcases mem_tset he with rfl | he
    · exact nested_tail hn
    · exact h2 e he
  · exact raise_keep _ _ h

theorem execCatchTgtComplete_keep (who : Writer) (t : Fin 9) (id : BitVec 8) (h : Keep a s) : KeepR a (execCatchTgtComplete who t id s) := by
  unfold execCatchTgtComplete
  repeat' first
    | with_reducible assumption | intro _ | with_reducible apply completeTarget_keep | with_reducible apply writerGate_keep | split
    | with_reducible apply KeepR.mk'

theorem execCatchOfferTimeout_keep (t : Fin 9) (h : Keep a s) : KeepR a (execCatchOfferTimeout t s) := by
  unfold execCatchOfferTimeout
  refine KeepR.mk' ?_
  split
  · exact h
  · dsimp only
    refine keep_ite (fun _ => ?_) (fun _ => h)
    refine keep_settle (b := s) rfl rfl rfl rfl rfl rfl rfl ?_ ?_ h
    · intro h1; rw [offerOne_eq]; exact h1
    · intro h2; rw [offerOne_eq]; exact h2

theorem catchTakeover_keep (die : ℕ) (h : Keep a s) : Keep a (catchTakeover die s) := by
  unfold catchTakeover
  refine keep_settle (b := s) rfl rfl rfl rfl rfl rfl rfl ?_ ?_ h
  · intro h1
    exact prio_foldl _ h1
  · intro h2 e he
    exact h2 e (stack_foldl _ _ ▸ (List.mem_filter.1 he).1)

/-! ## Machine/Ports.lean -/

theorem execNonJexusFrame_keep (port : Fin 8) (kind : FrameKind) (h : Keep a s) : KeepR a (execNonJexusFrame port kind s) := by
  unfold execNonJexusFrame
  repeat' first
    | with_reducible assumption | with_reducible apply count_keep | split | with_reducible apply KeepR.mk'

theorem setPtp_keep (d : ℕ) (p : Ptp) (h : Keep a s) : Keep a (setPtp d p s) := by
  unfold setPtp
  repeat' first
    | with_reducible assumption | dsimp only [id_eq] | fail_if_no_progress ((with_reducible apply keep_rec); rfl)

theorem stepTime_keep (offset : Int) (h : Keep a s) : Keep a (stepTime offset s) := by
  unfold stepTime
  repeat' first
    | with_reducible assumption | intro _ | with_reducible apply keep_ite | split | dsimp only [id_eq]
    | fail_if_no_progress ((with_reducible apply keep_rec); rfl)

theorem execPtpMessage_keep (die : Fin 4) (msg : PtpMsg) (offset : Int) (h : Keep a s) : KeepR a (execPtpMessage die msg offset s) := by
  unfold execPtpMessage
  repeat' first
    | with_reducible assumption | intro _ | with_reducible apply raise_keep | with_reducible apply stepTime_keep | with_reducible apply setPtp_keep
    | with_reducible apply keep_ite | split | with_reducible apply KeepR.mk' | with_reducible apply KeepR.fault | dsimp only [id_eq]

theorem execPtpLocked_keep (die : Fin 4) (h : Keep a s) : KeepR a (execPtpLocked die s) := by
  unfold execPtpLocked
  repeat' first
    | with_reducible assumption | intro _ | with_reducible apply setPtp_keep | with_reducible apply keep_ite | split | with_reducible apply KeepR.mk'
    | dsimp only [id_eq] | fail_if_no_progress ((with_reducible apply keep_rec); rfl)

theorem execPtpHoldover_keep (die : Fin 4) (h : Keep a s) : KeepR a (execPtpHoldover die s) := by
  unfold execPtpHoldover
  repeat' first
    | with_reducible assumption | intro _ | with_reducible apply count_keep | with_reducible apply setPtp_keep | with_reducible apply keep_ite
    | with_reducible apply KeepR.mk'

theorem execPtpUnlock_keep (die : Fin 4) (errorNs : ℕ) (h : Keep a s) : KeepR a (execPtpUnlock die errorNs s) := by
  unfold execPtpUnlock
  repeat' first
    | with_reducible assumption | intro _ | with_reducible apply raise_keep | with_reducible apply setPtp_keep | with_reducible apply keep_ite
    | with_reducible apply KeepR.mk'

theorem ethLink_keep (p : ℕ) (up : Bool) (h : Keep a s) : Keep a (ethLink p up s) := by
  unfold ethLink
  repeat' first
    | with_reducible assumption | intro _ | with_reducible apply countN_keep | with_reducible apply raise_keep | with_reducible apply keep_ite
    | dsimp only [id_eq] | fail_if_no_progress ((with_reducible apply keep_rec); rfl)

theorem execEthLinkChange_keep (port : Fin 8) (up : Bool) (h : Keep a s) : KeepR a (execEthLinkChange port up s) := by
  unfold execEthLinkChange
  repeat' first
    | with_reducible assumption | with_reducible apply ethLink_keep | split | with_reducible apply KeepR.mk'

theorem setEq_keep (q : ℕ) (e : EgressQ) (h : Keep a s) : Keep a (setEq q e s) := by
  unfold setEq
  repeat' first
    | with_reducible assumption | dsimp only [id_eq] | fail_if_no_progress ((with_reducible apply keep_rec); rfl)

theorem setRound_keep (port : ℕ) (r : PortRound) (h : Keep a s) : Keep a (setRound port r s) := by
  unfold setRound
  repeat' first
    | with_reducible assumption | dsimp only [id_eq] | fail_if_no_progress ((with_reducible apply keep_rec); rfl)

theorem portSends_keep (port : ℕ) (p : Pkt) (h : Keep a s) : Keep a (portSends port p s) := by
  unfold portSends
  repeat' first
    | with_reducible assumption | with_reducible apply countN_keep | dsimp only [id_eq] | fail_if_no_progress ((with_reducible apply keep_rec); rfl)

theorem endRound_keep (port : ℕ) (lc : Bool) (h : Keep a s) : Keep a (endRound port lc s) := by
  unfold endRound
  repeat' first
    | with_reducible assumption | intro _ | with_reducible apply setRound_keep | with_reducible apply setEq_keep | with_reducible apply keep_foldl
    | with_reducible apply keep_ite

theorem endVisit_keep (port : ℕ) (q : ℕ) (h : Keep a s) : Keep a (endVisit port q s) := by
  unfold endVisit
  repeat' first
    | with_reducible assumption | intro _ | with_reducible apply setRound_keep | with_reducible apply endRound_keep | with_reducible apply keep_ite

theorem visitSend_keep (port : ℕ) (q : ℕ) (h : Keep a s) : KeepP a (visitSend port q s) := by
  unfold visitSend
  repeat' first
    | with_reducible assumption | intro _ | with_reducible apply endVisit_keep | with_reducible apply portSends_keep | with_reducible apply setEq_keep
    | with_reducible apply keep_ite | split | with_reducible apply KeepP.mk'

theorem serveQueues_keep (port : ℕ) (p1 : ℕ) (h : Keep a s) : Keep a (serveQueues port p1 s) := by
  induction p1 generalizing s with
  | zero =>
    unfold serveQueues
    repeat' first
      | with_reducible assumption
  | succ _ ih =>
    unfold serveQueues
    repeat' first
      | with_reducible assumption | (apply ih) | with_reducible apply setEq_keep | with_reducible apply setRound_keep
      | with_reducible apply visitSend_keep | ((with_reducible apply Keep.out); with_reducible assumption) | split | dsimp only [id_eq]

theorem execEgressTransmit_keep (port : Fin 8) (h : Keep a s) : KeepR a (execEgressTransmit port s) := by
  unfold execEgressTransmit
  repeat' first
    | with_reducible assumption | intro _ | with_reducible apply portSends_keep | with_reducible apply serveQueues_keep
    | with_reducible apply visitSend_keep | ((with_reducible apply Keep.out); with_reducible assumption) | with_reducible apply keep_ite
    | with_reducible apply keepP_ite | split | ((with_reducible apply KeepP.snd); with_reducible apply visitSend_keep)
    | with_reducible apply KeepR.mk' | with_reducible apply KeepR.fault | with_reducible apply KeepP.mk' | dsimp only [id_eq]
    | fail_if_no_progress ((with_reducible apply keep_rec); rfl)

theorem execQueueSample_keep (die : Fin 4) (h : Keep a s) : KeepR a (execQueueSample die s) := by
  unfold execQueueSample
  repeat' first
    | with_reducible assumption | intro _ | with_reducible apply keep_foldl | with_reducible apply keep_ite | split | with_reducible apply KeepR.mk'
    | with_reducible apply KeepR.fault | dsimp only [id_eq] | fail_if_no_progress ((with_reducible apply keep_rec); rfl)

end Sys2Proof.Laws
end

