-- ==== Sys2Proof/Laws/KeepBoot.lean ====
section
/-! SUPPORT. `Keep` for faults, boot, resets, firmware reads and register accesses: one lemma per definition, found by walking its own text. -/

namespace Sys2Proof.Laws

open Sys2Proof.Machine

variable {a s : State}

set_option linter.all false

/-! ## Machine/Faults.lean -/

theorem coresLost_keep (d : ℕ) (h : Keep a s) : Keep a (coresLost d s) := by
  unfold coresLost
  repeat' first
    | with_reducible assumption | intro _ | with_reducible apply barrierFenced_keep | with_reducible apply keep_foldl

theorem failCommands_keep  (h : Keep a s) : Keep a (failCommands s) := by
  unfold failCommands
  repeat' first
    | with_reducible assumption | intro _ | with_reducible apply publishFw_keep | with_reducible apply ringWrite_keep
    | with_reducible apply keep_foldl | split | dsimp only [id_eq] | fail_if_no_progress ((with_reducible apply keep_recPwr); iterate 5 rfl)

theorem ctlTakeover_keep (h : Keep a s) : Keep a (ctlTakeover s) := by
  unfold ctlTakeover
  repeat' first
    | with_reducible assumption | intro _ | with_reducible apply coresLost_keep | with_reducible apply failCommands_keep
    | with_reducible apply raise_keep | with_reducible apply catchTakeover_keep | with_reducible apply fatalStop_keep | with_reducible apply keep_ite
    | split | dsimp only [id_eq] | fail_if_no_progress ((with_reducible apply keep_rec); rfl)

theorem execHeartbeatMiss_keep  (h : Keep a s) : KeepR a (execHeartbeatMiss s) := by
  unfold execHeartbeatMiss
  repeat' first
    | with_reducible assumption | intro _ | with_reducible apply ctlTakeover_keep | with_reducible apply keep_ite | split
    | with_reducible apply KeepR.mk' | dsimp only [id_eq] | fail_if_no_progress ((with_reducible apply keep_rec); rfl)

theorem standbyLoss_keep  (h : Keep a s) : Keep a (standbyLoss s) := by
  unfold standbyLoss
  repeat' first
    | with_reducible assumption | with_reducible apply raise_keep | with_reducible apply catchTakeover_keep | with_reducible apply coresLost_keep
    | dsimp only [id_eq] | fail_if_no_progress ((with_reducible apply keep_rec); rfl)

theorem execCtlStandbyLost_keep  (h : Keep a s) : KeepR a (execCtlStandbyLost s) := by
  unfold execCtlStandbyLost
  repeat' first
    | with_reducible assumption | with_reducible apply standbyLoss_keep | split | with_reducible apply KeepR.mk'

theorem netLoss_keep (n : ℕ) (h : Keep a s) : Keep a (netLoss n s) := by
  unfold netLoss
  repeat' first
    | with_reducible assumption | with_reducible apply fatalStop_keep | with_reducible apply barrierFenced_keep | dsimp only [id_eq]
    | fail_if_no_progress ((with_reducible apply keep_rec); rfl)

theorem tierLoss_keep (p : ℕ) (h : Keep a s) : Keep a (tierLoss p s) := by
  unfold tierLoss
  repeat' first
    | with_reducible assumption | intro _ | with_reducible apply fencePort_keep | with_reducible apply raise_keep | with_reducible apply setTier_keep
    | with_reducible apply barrierFenced_keep | with_reducible apply drivePerst_keep | with_reducible apply keep_ite | split | dsimp only [id_eq]

theorem execDieLoss_keep (die : DieName) (h : Keep a s) : KeepR a (execDieLoss die s) := by
  unfold execDieLoss
  repeat' first
    | with_reducible assumption | with_reducible apply netLoss_keep | with_reducible apply tierLoss_keep | with_reducible apply ctlTakeover_keep
    | with_reducible apply standbyLoss_keep | split | with_reducible apply KeepR.mk'

theorem execSpineStationFault_keep (st : Fin 6) (parity : Bool) (h : Keep a s) : KeepR a (execSpineStationFault st parity s) := by
  unfold execSpineStationFault
  repeat' first
    | with_reducible assumption | with_reducible apply raise_keep | with_reducible apply chipFatal_keep | split | with_reducible apply KeepR.mk'
    | dsimp only [id_eq] | fail_if_no_progress ((with_reducible apply keep_rec); rfl)

theorem execPllLockLoss_keep (r : Fin 16) (h : Keep a s) : KeepR a (execPllLockLoss r s) := by
  unfold execPllLockLoss
  repeat' first
    | with_reducible assumption | with_reducible apply fenceRegion_keep | with_reducible apply KeepR.mk'

theorem powerOn_keep  (h : Keep a s) : Keep a (powerOn s) := by
  exact ⟨h.queue, h.fuse, (memOk_iff _).2 ⟨rfl, ((memOk_iff _).1 h.mem).2.1, rfl, ((memOk_iff _).1 h.mem).2.2.2⟩, rfl, rfl, rfl, rfl⟩

theorem railFault_keep (rail : Rail) (h : Keep a s) : Keep a (railFault rail s) := by
  unfold railFault
  repeat' first
    | with_reducible assumption | intro _ | with_reducible apply supplyFault_keep | with_reducible apply fenceRegion_keep
    | with_reducible apply fatalStop_keep | with_reducible apply netLoss_keep | with_reducible apply catchTakeover_keep
    | with_reducible apply coresLost_keep | with_reducible apply fencePort_keep | with_reducible apply powerOn_keep | with_reducible apply keep_foldl
    | split | dsimp only [id_eq] | fail_if_no_progress ((with_reducible apply keep_rec); rfl)

theorem execRailFault_keep (rail : Rail) (mv : ℕ) (h : Keep a s) : KeepR a (execRailFault rail mv s) := by
  unfold execRailFault
  repeat' first
    | with_reducible assumption | intro _ | with_reducible apply railFault_keep | with_reducible apply keep_ite | split
    | with_reducible apply KeepR.mk' | with_reducible apply KeepR.fault | dsimp only [id_eq]

theorem execAvsTransaction_keep (r : Fin 16) (code : BitVec 10) (failures : ℕ) (h : Keep a s) : KeepR a (execAvsTransaction r code failures s) := by
  unfold execAvsTransaction
  repeat' first
    | with_reducible assumption | intro _ | with_reducible apply supplyFault_keep | with_reducible apply setRgn_keep | with_reducible apply keepO_bind
    | with_reducible apply keepOP_bind | with_reducible apply keep_ite | split | with_reducible apply KeepR.mk' | with_reducible apply KeepR.fault
    | dsimp only [id_eq]

theorem execRefclkStop_keep (clk : RefClk) (h : Keep a s) : KeepR a (execRefclkStop clk s) := by
  unfold execRefclkStop
  have h1 : Keep a { s with pwr := clockOff clk s.pwr } := by
    cases clk <;> exact keep_recPwr (b := s) rfl rfl rfl rfl rfl h
  refine KeepR.mk' ?_
  dsimp only
  refine keep_ite (fun _ => h) fun _ => keep_ite (fun _ => h1) fun _ => ?_
  split
  · exact keep_ite (fun _ => fatalStop_keep _ _ _ h1) (fun _ => h)
  · exact ethLink_keep _ _ (ethLink_keep _ _ h1)
  · exact fencePort_keep _ h1
  · exact claimEnds_keep (keep_recSvc (b := { s with pwr := clockOff .svc s.pwr }) rfl rfl h1)

theorem execXtalStop_keep  (h : Keep a s) : KeepR a (execXtalStop s) := by
  unfold execXtalStop
  repeat' first
    | with_reducible assumption | split | with_reducible apply KeepR.mk' | dsimp only [id_eq]
    | fail_if_no_progress ((with_reducible apply keep_rec); rfl)

theorem execThermalTrip_keep (sensor : ℕ) (temp : ℕ) (h : Keep a s) : KeepR a (execThermalTrip sensor temp s) := by
  unfold execThermalTrip
  repeat' first
    | with_reducible assumption | intro _ | with_reducible apply noteSensor_keep | with_reducible apply fatalStop_keep | with_reducible apply keep_ite
    | split | with_reducible apply KeepR.mk' | with_reducible apply KeepR.fault | dsimp only [id_eq]
    | fail_if_no_progress ((with_reducible apply keep_rec); rfl) | fail_if_no_progress ((with_reducible apply keep_recPwr); iterate 5 rfl)

/-! ## Machine/Boot.lean -/

theorem onward_keep (f : State → State) (hf : ∀ y0, Keep a y0 → Keep a (f y0)) (h : Keep a s) : Keep a (onward s f) := by
  unfold onward
  repeat' first
    | with_reducible assumption | intro _ | apply hf | with_reducible apply keep_ite

theorem bootStart_keep (e : BootEnv) (h : Keep a s) : Keep a (bootStart e s) := by
  unfold bootStart
  repeat' first
    | with_reducible assumption | intro _ | with_reducible apply setRgn_keep | with_reducible apply supplyFault_keep
    | with_reducible apply onward_keep | with_reducible apply fatalStop_keep | with_reducible apply raise_keep | with_reducible apply keep_foldl
    | with_reducible apply keep_ite | split | dsimp only [id_eq] | fail_if_no_progress ((with_reducible apply keep_rec); rfl)

theorem bootFailed_keep  (h : Keep a s) : Keep a (bootFailed s) := by
  unfold bootFailed
  repeat' first
    | with_reducible assumption | with_reducible apply settle_keep | dsimp only [id_eq] | fail_if_no_progress ((with_reducible apply keep_rec); rfl)

theorem useSlot_keep (slot : ℕ) (l : List (ℕ × Bytes)) (h : Keep a s) : Keep a (useSlot slot l s) := by
  unfold useSlot
  repeat' first
    | with_reducible assumption | dsimp only [id_eq] | fail_if_no_progress ((with_reducible apply keep_rec); rfl)

theorem slotCause_keep (slot : ℕ) (c : ℕ) (h : Keep a s) : Keep a (slotCause slot c s) := by
  unfold slotCause
  repeat' first
    | with_reducible assumption | intro _ | with_reducible apply keep_ite | dsimp only [id_eq]
    | fail_if_no_progress ((with_reducible apply keep_rec); rfl)

theorem bootSlots_keep (e : BootEnv) (h : Keep a s) : Keep a (bootSlots e s) := by
  unfold bootSlots
  repeat' first
    | with_reducible assumption | intro _ | with_reducible apply bootFailed_keep | with_reducible apply slotCause_keep
    | with_reducible apply useSlot_keep | with_reducible apply keep_ite | split | dsimp only [id_eq]
    | fail_if_no_progress ((with_reducible apply keep_rec); rfl)

theorem bootCert_keep  (h : Keep a s) : Keep a (bootCert s) := by
  unfold bootCert
  repeat' first
    | with_reducible assumption | intro _ | with_reducible apply raise_keep | with_reducible apply keep_ite | dsimp only [id_eq]
    | fail_if_no_progress ((with_reducible apply keep_rec); rfl)

theorem bootPoints_keep (h : Keep a s) : Keep a (bootPoints s) := by
  unfold bootPoints
  repeat' first
    | with_reducible assumption | intro _ | with_reducible apply movePoint_keep | with_reducible apply setRgn_keep | with_reducible apply Keep.getD
    | with_reducible apply keep_foldl | with_reducible apply keepO_bind | with_reducible apply keepOP_bind | with_reducible apply keep_ite | split
    | dsimp only [id_eq]

theorem bootConfigure_keep (e : BootEnv) (h : Keep a s) : Keep a (bootConfigure e s) := by
  unfold bootConfigure
  have h1 := bootPoints_keep (bootCert_keep (sigBoot_keep h))
  generalize bootPoints (bootCert (sigBoot s)) = s1 at h1
  dsimp only
  exact keep_settle (b := s1) rfl rfl rfl rfl rfl rfl rfl (fun h => h) (fun h => h) h1

theorem bootTrain_keep (e : BootEnv) (h : Keep a s) : Keep a (bootTrain e s) := by
  unfold bootTrain
  repeat' first
    | with_reducible assumption | intro _ | with_reducible apply raise_keep | with_reducible apply fenceRegion_keep | with_reducible apply keep_foldl
    | with_reducible apply keep_ite

theorem bootCell_keep (c : Fin 128 × Fin 17) (h : Keep a s) : Keep a (bootCell s c) := by
  unfold bootCell
  repeat' first
    | with_reducible assumption | intro _ | with_reducible apply cellsFail_keep | with_reducible apply keep_ite | split | dsimp only [id_eq]

theorem bootSelftest_keep (e : BootEnv) (h : Keep a s) : Keep a (bootSelftest e s) := by
  unfold bootSelftest
  repeat' first
    | with_reducible assumption | intro _ | with_reducible apply bootCell_keep | with_reducible apply fenceRegion_keep
    | with_reducible apply setMode_keep | with_reducible apply keep_foldl | with_reducible apply keep_ite | split | dsimp only [id_eq]

theorem bootTier_keep (p : ℕ) (t : Option TierTrain) (h : Keep a s) : Keep a (bootTier p t s) := by
  unfold bootTier
  repeat' first
    | with_reducible assumption | intro _ | with_reducible apply drivePerst_keep | with_reducible apply setTier_keep
    | with_reducible apply tierTrained_keep | with_reducible apply keep_ite | split | dsimp only [id_eq]

theorem bootLinks_keep (e : BootEnv) (h : Keep a s) : Keep a (bootLinks e s) := by
  unfold bootLinks
  repeat' first
    | with_reducible assumption | intro _ | with_reducible apply ethLink_keep | with_reducible apply bootTier_keep | with_reducible apply keep_foldl
    | with_reducible apply keep_ite | split | dsimp only [id_eq]

theorem bootTraffic_keep (i : Img) (h : Keep a s) : Keep a (bootTraffic i s) := by
  unfold bootTraffic
  repeat' first
    | with_reducible assumption | intro _ | with_reducible apply putWeir_keep | with_reducible apply raise_keep | with_reducible apply commitEq_keep
    | with_reducible apply keep_foldl | with_reducible apply keep_ite | split

theorem admitFailed_keep (index : ℕ) (status : ℕ) (h : Keep a s) : Keep a (admitFailed index status s) := by
  unfold admitFailed
  repeat' first
    | with_reducible assumption | with_reducible apply raise_keep

theorem fabricBoot_keep (b_ : Bytes) (h : Keep a s) : KeepP a (fabricBoot b_ s) := by
  unfold fabricBoot
  repeat' first
    | with_reducible assumption | intro _ | with_reducible apply blobKey_keep | ((with_reducible apply Keep.out); with_reducible assumption)
    | with_reducible apply keepP_ite | split | with_reducible apply KeepP.mk' | dsimp only [id_eq]
    | fail_if_no_progress ((with_reducible apply keep_rec); rfl)

theorem bootAdmits_keep (i : Img) (h : Keep a s) : Keep a (bootAdmits i s) := by
  unfold bootAdmits
  repeat' first
    | with_reducible assumption | intro _ | with_reducible apply admitFailed_keep
    | ((with_reducible apply KeepQ.snd); with_reducible apply admitDo_keep) | ((with_reducible apply KeepP.snd); with_reducible apply fabricBoot_keep)
    | with_reducible apply keep_foldlSnd | with_reducible apply keep_ite | split

theorem reopen_keep (k : ℕ) (h : Keep a s) : Keep a (reopen s k) := by
  unfold reopen
  repeat' first
    | with_reducible assumption | intro _ | with_reducible apply openTenantWindows_keep | with_reducible apply count_keep
    | ((with_reducible apply Keep.outOQ); with_reducible assumption) | with_reducible apply keep_ite | split

theorem restore_keep (v : Saved) (h : Keep a s) : Keep a (restore v s) := by
  unfold restore
  repeat' first
    | with_reducible assumption | intro _ | with_reducible apply raise_keep | with_reducible apply reopen_keep | with_reducible apply dropBacking_keep
    | with_reducible apply seqLost_keep | with_reducible apply keep_foldl | with_reducible apply keep_ite | split | dsimp only [id_eq]
    | fail_if_no_progress ((with_reducible apply keep_rec); rfl)

theorem bootApply_keep (e : BootEnv) (wake : Bool) (h : Keep a s) : Keep a (bootApply e wake s) := by
  unfold bootApply
  split
  · exact h
  · rename_i i hi
    have fin : ∀ s : State, Keep a s → Keep a { s with
        saved := none, cfg := { s.cfg with phase := 5 }, pwr := { s.pwr with g7Rst := .high, wakeBoot := false } } :=
      fun s h => keep_recPwr (b := s) rfl rfl rfl rfl rfl h
    have image : ∀ s : State, Keep a s → Keep a (bootAdmits i (bootTraffic i s)) := fun s h => bootAdmits_keep _ (bootTraffic_keep _ h)
    refine keep_ite (fun _ => ?_) (fun _ => fin _ (image _ h))
    split
    · exact keep_ite (fun _ => fin _ (restore_keep _ h))
        (fun _ => fin _ (image _ (raise_keep _ _ (keep_fast (s := s) h fun _ => rfl))))
    · exact fin _ (image _ h)

theorem boot_keep (e : BootEnv) (h : Keep a s) : Keep a (boot e s) := by
  unfold boot
  repeat' first
    | with_reducible assumption | intro _ | with_reducible apply bootStart_keep | with_reducible apply onward_keep
    | with_reducible apply bootSlots_keep | with_reducible apply bootConfigure_keep | with_reducible apply bootTrain_keep
    | with_reducible apply bootSelftest_keep | with_reducible apply bootLinks_keep | with_reducible apply bootApply_keep | dsimp only [id_eq]
    | fail_if_no_progress ((with_reducible apply keep_recPwr); iterate 5 rfl)

/-! ## Machine/Reset.lean -/

theorem execPowerOnReset_keep  (h : Keep a s) : KeepR a (execPowerOnReset s) := by
  unfold execPowerOnReset
  repeat' first
    | with_reducible assumption | with_reducible apply powerOn_keep | with_reducible apply KeepR.mk'

theorem execAonResetRelease_keep (straps : BitVec 2) (h : Keep a s) : KeepR a (execAonResetRelease straps s) := by
  unfold execAonResetRelease
  refine KeepR.mk' (keep_ite (fun hm => ?_) (fun _ => h))
  have hp := h.pins
  refine ⟨h.queue, h.fuse, h.mem, h.catchment, h.log, h.svc, ?_⟩
  unfold pinsOk at hp ⊢
  rw [hm] at hp
  simp only [Bool.and_eq_true] at hp
  cases hx : s.pwr.extestHold with
  | false => simp [hx]
  | true => rw [hx] at hp; simp at hp

theorem clearMain_keep {b : State} (hm : s.pwr.mode ≠ .aonReset) (h1 : b.pending = s.pending) (h2 : b.fuse = s.fuse) (h3 : b.mem = s.mem)
    (h4 : b.bmk = s.bmk) (h : Keep a s) : Keep a (clearMain b) := by
  have hw := (memOk_iff _).1 h.mem
  refine ⟨h1.trans h.queue, ?_, (memOk_iff _).2 ⟨rfl, ?_, rfl, ?_⟩, rfl, rfl, rfl, ?_⟩
  · show fusesKept a.fuse b.fuse
    exact h2 ▸ h.fuse
  · show Memory.wf b.mem.deep = true
    exact h3 ▸ hw.2.1
  · show Memory.wf b.mem.nvm = true
    exact h3 ▸ hw.2.2.2
  · show ((true && b.bmk.counting) && true) = true
    rw [h4, counting_of_pins h.pins hm]
    rfl

theorem wakeCause_keep (bit : ℕ) (h : Keep a s) : Keep a (wakeCause bit s) := by
  unfold wakeCause
  repeat' first
    | with_reducible assumption | dsimp only [id_eq] | fail_if_no_progress ((with_reducible apply keep_rec); rfl)

theorem wake_keep (hm : s.pwr.mode ≠ .aonReset) (h : Keep a s) : Keep a (wake s) := by
  unfold wake
  dsimp only
  have h1 := clearMain_keep (s := s) (b := s) hm rfl rfl rfl rfl h
  refine ⟨h1.queue, h1.fuse, ?_, h1.catchment, h1.log, h1.svc, h1.pins⟩
  have hw := (memOk_iff _).1 h.mem
  exact (memOk_iff _).2 ⟨hw.1, hw.2.1, rfl, hw.2.2.2⟩

theorem resetPin_keep (h : Keep a s) : Keep a (resetPin s) := by
  unfold resetPin
  have hp := h.pins
  split
  · exact h
  · rename_i hm
    have hn : s.pwr.mode ≠ .aonReset := by rw [hm]; exact fun e => by cases e
    have h1 : Keep a { s with pwr := { s.pwr with resetN := false } } := by
      refine ⟨h.queue, h.fuse, h.mem, h.catchment, h.log, h.svc, ?_⟩
      unfold pinsOk at hp ⊢
      rw [hm] at hp
      simp_all
    exact keep_ite (fun _ => wake_keep hn h1) (fun _ => h1)
  · rename_i hm
    refine keep_ite (fun _ => wakeCause_keep _ ?_) (fun _ => h)
    exact clearMain_keep (s := s) (by rw [hm]; exact fun e => by cases e) rfl rfl rfl rfl h
  · rename_i hm
    exact wakeCause_keep _ (clearMain_keep (s := s) (by rw [hm]; exact fun e => by cases e) rfl rfl rfl rfl h)

theorem resetDue_keep  (h : Keep a s) : Keep a (resetDue s) := by
  unfold resetDue
  split
  · refine keep_ite (fun hc => ?_) (fun _ => h)
    refine wakeCause_keep _ (clearMain_keep (s := s) ?_ rfl rfl rfl rfl h)
    intro hm
    have := hc.1
    rw [awake, hm] at this
    cases this
  · exact h

theorem execMainReset_keep (cause : ResetCause) (h : Keep a s) : KeepR a (execMainReset cause s) := by
  unfold execMainReset
  repeat' first
    | with_reducible assumption | with_reducible apply resetPin_keep | with_reducible apply resetDue_keep | split | with_reducible apply KeepR.mk'

theorem startRom_keep (e : BootEnv) (hm : s.pwr.mode ≠ .aonReset) (hr : s.pwr.aonResetN = true) (h : Keep a s) : Keep a (startRom e s) := by
  unfold startRom
  have hc := counting_of_pins h.pins hm
  dsimp only
  have h1 : Keep a { s with pwr := { s.pwr with
      resetN := true, mode := .running, sleepReq := .hiZ, sysClk := e.sysRefclk, netClk := 0xF, tierClk := 0xF, svcClk := true
      romHold := true, extestHold := false } } := by
    refine ⟨h.queue, h.fuse, h.mem, h.catchment, h.log, h.svc, ?_⟩
    show ((s.pwr.aonResetN && s.bmk.counting && true) && (!false || _)) = true
    rw [hr, hc]
    rfl
  exact keep_ite (fun _ => boot_keep _ h1) (fun _ => h1)

theorem execResetRelease_keep (env : BootEnv) (h : Keep a s) : KeepR a (execResetRelease env s) := by
  unfold execResetRelease
  have hp := h.pins
  refine KeepR.mk' ?_
  split
  · rename_i hm
    refine keep_ite (fun _ => ?_) (fun _ => ?_)
    · refine ⟨h.queue, h.fuse, h.mem, h.catchment, h.log, h.svc, ?_⟩
      unfold pinsOk at hp ⊢
      rw [hm] at hp
      simp_all
    · refine startRom_keep env (by rw [hm]; exact fun e => by cases e) ?_ h
      unfold pinsOk at hp
      rw [hm] at hp
      simp_all
  · rename_i hm
    have hn : s.pwr.mode ≠ .aonReset := by rw [hm]; exact fun e => by cases e
    refine keep_ite (fun _ => startRom_keep env (fun e => by cases e) rfl (wake_keep hn h)) (fun _ => ?_)
    exact startRom_keep env (fun e => by cases e) rfl (wakeCause_keep _ (clearMain_keep (s := s) hn rfl rfl rfl rfl h))
  · exact h

theorem execRomHoldEnd_keep (env : BootEnv) (h : Keep a s) : KeepR a (execRomHoldEnd env s) := by
  unfold execRomHoldEnd
  repeat' first
    | with_reducible assumption | intro _ | with_reducible apply boot_keep | with_reducible apply keep_ite | split | with_reducible apply KeepR.mk'
    | with_reducible apply KeepR.fault | dsimp only [id_eq] | fail_if_no_progress ((with_reducible apply keep_rec); rfl)
    | fail_if_no_progress ((with_reducible apply keep_recPwr); iterate 5 rfl)

theorem execSleep_keep  (h : Keep a s) : KeepR a (execSleep s) := by
  unfold execSleep
  repeat' first
    | with_reducible assumption | intro _ | with_reducible apply fwRun_keep | with_reducible apply answerFw_keep
    | with_reducible apply acceptDeferred_keep | ((with_reducible apply Keep.outO); with_reducible assumption) | with_reducible apply keep_ite | split
    | with_reducible apply KeepR.mk' | dsimp only [id_eq] | fail_if_no_progress ((with_reducible apply keep_recPwr); iterate 5 rfl)

theorem saveState_keep (h : Keep a s) : Keep a (saveState s) := by
  unfold saveState
  repeat' first
    | with_reducible assumption | intro _ | with_reducible apply writeFast_keep | with_reducible apply keep_foldl | dsimp only [id_eq]
    | fail_if_no_progress ((with_reducible apply keep_rec); rfl)

theorem endSleeps_keep (status : ℕ) (p1 : List Deferred) (h : Keep a s) : Keep a (endSleeps status p1 s) := by
  induction p1 generalizing s with
  | nil =>
    unfold endSleeps
    repeat' first
      | with_reducible assumption
  | cons _ _ ih =>
    unfold endSleeps
    repeat' first
      | with_reducible assumption | intro _ | (apply ih) | with_reducible apply deferredEnd_keep | with_reducible apply keep_ite

theorem execSleepQuiesced_keep (h : Keep a s) : KeepR a (execSleepQuiesced s) := by
  unfold execSleepQuiesced
  repeat' first
    | with_reducible assumption | intro _ | with_reducible apply saveState_keep | with_reducible apply endSleeps_keep | with_reducible apply keep_ite
    | split | with_reducible apply KeepR.mk' | with_reducible apply KeepR.fault | dsimp only [id_eq]
    | fail_if_no_progress ((with_reducible apply keep_rec); rfl) | fail_if_no_progress ((with_reducible apply keep_recPwr); iterate 5 rfl)

theorem wakeFires_keep (bit : ℕ) (hm : s.pwr.mode ≠ .aonReset) (h : Keep a s) : Keep a (wakeFires bit s) := by
  unfold wakeFires
  have h1 : Keep a { wakeCause bit s with pwr := { (wakeCause bit s).pwr with sleepReq := .hiZ, wakeBoot := true } } :=
    keep_recPwr (b := wakeCause bit s) rfl rfl rfl rfl rfl (wakeCause_keep _ h)
  exact keep_ite (fun _ => h1) fun _ => wake_keep hm h1

theorem execSleepReqAssert_keep  (h : Keep a s) : KeepR a (execSleepReqAssert s) := by
  unfold execSleepReqAssert
  have hp := h.pins
  refine KeepR.mk' ?_
  split
  · refine keep_ite (fun _ => h) (fun hc => ?_)
    have hm : s.pwr.mode = .running := by
      by_contra hm
      exact hc (.inl (by cases hx : s.pwr.mode <;> simp_all [awake]))
    have h1 : Keep a { s with pwr := { s.pwr with sleepReq := .low, mode := .bmkOnly, perst := [], romHold := false, resetDue := none } } := by
      refine ⟨h.queue, h.fuse, h.mem, h.catchment, h.log, h.svc, ?_⟩
      unfold pinsOk at hp ⊢
      rw [hm] at hp
      simp_all
    exact keep_ite (fun _ => wakeFires_keep _ (fun e => by cases e) (settle_keep h1)) (fun _ => settle_keep h1)
  · exact h

theorem execWakeComparatorFire_keep (which : WakeSource) (sample : Int) (h : Keep a s) : KeepR a (execWakeComparatorFire which sample s) := by
  unfold execWakeComparatorFire
  exact KeepR.mk' (keep_ite (fun hc => wakeFires_keep _ (by rw [hc.1]; exact fun e => by cases e) h) fun _ => h)

theorem loadIr_keep (ir : JtagIr) (effect : Bool) (h : Keep a s) : Keep a (loadIr ir effect s) := by
  unfold loadIr
  have hp := h.pins
  refine keep_ite (fun _ => ?_) (fun _ => h)
  have h1 : Keep a { s with jtag := { ir := ir, inEffect := effect } } := keep_rec (b := s) rfl h
  refine keep_ite (fun hc => ?_) (fun _ => h1)
  refine ⟨h.queue, h.fuse, h.mem, h.catchment, h.log, h.svc, ?_⟩
  simp only [Bool.and_eq_true] at hc
  unfold pinsOk at hp ⊢
  simp only [hc.1] at hp ⊢
  cases hm : s.pwr.mode <;> simp_all

theorem loadDrive_keep (ir : JtagIr) (h : Keep a s) : Keep a (loadDrive ir s) := by
  unfold loadDrive
  repeat' first
    | with_reducible assumption | intro _ | with_reducible apply loadIr_keep | with_reducible apply keep_ite

theorem execJtagTapReset_keep  (h : Keep a s) : KeepR a (execJtagTapReset s) := by
  unfold execJtagTapReset
  repeat' first
    | with_reducible assumption | with_reducible apply loadIr_keep | with_reducible apply KeepR.mk'

theorem execIdcode_keep  (h : Keep a s) : KeepR a (execIdcode s) := by
  unfold execIdcode
  repeat' first
    | with_reducible assumption | with_reducible apply loadIr_keep | with_reducible apply KeepR.mk'

theorem execSamplePreload_keep  (h : Keep a s) : KeepR a (execSamplePreload s) := by
  unfold execSamplePreload
  repeat' first
    | with_reducible assumption | with_reducible apply loadIr_keep | with_reducible apply KeepR.mk'

theorem execExtest_keep  (h : Keep a s) : KeepR a (execExtest s) := by
  unfold execExtest
  repeat' first
    | with_reducible assumption | with_reducible apply loadDrive_keep | with_reducible apply KeepR.mk'

theorem execExtestPulse_keep  (h : Keep a s) : KeepR a (execExtestPulse s) := by
  unfold execExtestPulse
  repeat' first
    | with_reducible assumption | with_reducible apply loadDrive_keep | with_reducible apply KeepR.mk'

theorem execExtestTrain_keep  (h : Keep a s) : KeepR a (execExtestTrain s) := by
  unfold execExtestTrain
  repeat' first
    | with_reducible assumption | with_reducible apply loadDrive_keep | with_reducible apply KeepR.mk'

theorem execHighz_keep  (h : Keep a s) : KeepR a (execHighz s) := by
  unfold execHighz
  repeat' first
    | with_reducible assumption | with_reducible apply loadDrive_keep | with_reducible apply KeepR.mk'

theorem execClamp_keep  (h : Keep a s) : KeepR a (execClamp s) := by
  unfold execClamp
  repeat' first
    | with_reducible assumption | with_reducible apply loadDrive_keep | with_reducible apply KeepR.mk'

theorem execBypass_keep  (h : Keep a s) : KeepR a (execBypass s) := by
  unfold execBypass
  repeat' first
    | with_reducible assumption | with_reducible apply loadIr_keep | with_reducible apply KeepR.mk'

/-! ## Machine/FwReads.lean -/

theorem onSeq_keep (b_ : Bytes) (f : ℕ → State → ℕ × Bytes × State) (hf : ∀ y0 y1, Keep a y1 → KeepQ a (f y0 y1)) (h : Keep a s) : Keep a (onSeq b_ f s) := by
  unfold onSeq
  repeat' first
    | with_reducible assumption | with_reducible apply lookSeq_keep | with_reducible apply answerFw_keep | ((with_reducible apply KeepQ.snd); apply hf)
    | ((with_reducible apply Keep.out); with_reducible assumption) | split

theorem execSeqRead_keep (h : Keep a s) : KeepR a (execSeqRead s) := by
  unfold execSeqRead
  exact KeepR.mk' (fwRun_keep _ _ (fun _ _ h => onSeq_keep _ _ (fun _ _ h => KeepQ.mk' h) h) h)

theorem execPlaceRead_keep (h : Keep a s) : KeepR a (execPlaceRead s) := by
  unfold execPlaceRead
  exact KeepR.mk' (fwRun_keep _ _ (fun _ _ h => onSeq_keep _ _ (fun _ _ h => KeepQ.mk' h) h) h)

theorem execSatRead_keep (h : Keep a s) : KeepR a (execSatRead s) := by
  unfold execSatRead
  exact KeepR.mk' (fwRun_keep _ _ (fun _ _ h => onSeq_keep _ _ (fun _ _ h => KeepQ.mk' h) h) h)

theorem satClear_keep (slot : ℕ) (layer : ℕ) (all : Bool) (h : Keep a s) : Keep a (satClear slot layer all s) := by
  unfold satClear
  repeat' first
    | with_reducible assumption | with_reducible apply setSeq_keep

theorem execSatClear_keep (h : Keep a s) : KeepR a (execSatClear s) := by
  unfold execSatClear
  exact KeepR.mk' (fwRun_keep _ _ (fun _ _ h => onSeq_keep _ _ (fun _ _ h => KeepQ.mk' (satClear_keep _ _ _ h)) h) h)

theorem execWindowRead_keep  (h : Keep a s) : KeepR a (execWindowRead s) := by
  unfold execWindowRead
  repeat' first
    | with_reducible assumption | intro _ | with_reducible apply fwRun_keep | with_reducible apply answerFw_keep | with_reducible apply KeepR.mk'

theorem execSluiceRead_keep  (h : Keep a s) : KeepR a (execSluiceRead s) := by
  unfold execSluiceRead
  repeat' first
    | with_reducible assumption | intro _ | with_reducible apply fwRun_keep | with_reducible apply answerFw_keep | with_reducible apply KeepR.mk'

theorem execDatumRead_keep  (h : Keep a s) : KeepR a (execDatumRead s) := by
  unfold execDatumRead
  repeat' first
    | with_reducible assumption | intro _ | with_reducible apply fwRun_keep | with_reducible apply answerFw_keep | with_reducible apply KeepR.mk'

theorem execAction_keep (h : Keep a s) : KeepR a (execAction s) := by
  unfold execAction
  repeat' first
    | with_reducible assumption | intro _ | with_reducible apply fwRun_keep | with_reducible apply answerFw_keep
    | with_reducible apply acceptDeferred_keep | with_reducible apply newInst_keep | ((with_reducible apply Keep.out); with_reducible assumption)
    | ((with_reducible apply Keep.outO); with_reducible assumption) | split | ((with_reducible apply KeepP.snd); with_reducible apply newInst_keep)
    | with_reducible apply KeepR.mk' | with_reducible apply KeepR.fault | with_reducible apply KeepP.mk' | with_reducible apply KeepO.mk'
    | with_reducible apply KeepO.none_ | dsimp only [id_eq]

theorem fwSluRecord_keep (x : ℕ) (a_ : SluAns) (h : Keep a s) : KeepP a (fwSluRecord x a_ s) := by
  unfold fwSluRecord
  repeat' first
    | with_reducible assumption | intro _ | with_reducible apply setEntryRec_keep | with_reducible apply keep_ite | with_reducible apply keepP_ite
    | split | with_reducible apply KeepP.mk' | dsimp only [id_eq]

theorem fwSluDo_keep (x : ℕ) (code : ℕ) (n : ℕ) (b_ : Bytes) (h : Keep a s) : KeepP a (fwSluDo x code n b_ s) := by
  unfold fwSluDo
  repeat' first
    | with_reducible assumption | intro _ | with_reducible apply postDo_keep | with_reducible apply cancelDo_keep | with_reducible apply rearmDo_keep
    | with_reducible apply keepP_ite | with_reducible apply KeepP.mk'

theorem execFwSluice_keep  (h : Keep a s) : KeepR a (execFwSluice s) := by
  unfold execFwSluice
  repeat' first
    | with_reducible assumption | intro _ | with_reducible apply fwRun_keep | with_reducible apply answerFw_keep | with_reducible apply onPost_keep
    | ((with_reducible apply KeepP.snd); with_reducible apply fwSluDo_keep)
    | ((with_reducible apply KeepP.snd); with_reducible apply fwSluRecord_keep) | with_reducible apply KeepR.mk'

theorem submitWindow_keep (h : Keep a s) : Keep a (submitWindow s) := by
  unfold submitWindow
  repeat' first
    | with_reducible assumption | intro _ | with_reducible apply fwRun_keep | with_reducible apply answerFw_keep
    | with_reducible apply refuseDatum_keep | with_reducible apply acceptDeferred_keep | with_reducible apply addProposal_keep
    | ((with_reducible apply Keep.outO); with_reducible assumption) | split | with_reducible apply KeepO.mk' | with_reducible apply KeepO.none_
    | dsimp only [id_eq]

theorem execDatumSubmit_keep (src : SubmitSource) (h : Keep a s) : KeepR a (execDatumSubmit src s) := by
  unfold execDatumSubmit
  repeat' first
    | with_reducible assumption | with_reducible apply submitWindow_keep | with_reducible apply takeControl_keep | with_reducible apply submitMsg_keep
    | ((with_reducible apply Keep.out); with_reducible assumption) | split | with_reducible apply KeepR.mk'

theorem unblock_keep (h : Keep a s) : Keep a (unblock s) := by
  unfold unblock
  repeat' first
    | with_reducible assumption | intro _ | dsimp only [id_eq] | fail_if_no_progress ((with_reducible apply keep_rec); rfl)

theorem drainNode_keep  (h : Keep a s) : Keep a (drainNode s) := by
  unfold drainNode
  repeat' first
    | with_reducible assumption | with_reducible apply drainCheck_keep | with_reducible apply unblock_keep | split | dsimp only [id_eq]
    | fail_if_no_progress ((with_reducible apply keep_rec); rfl)

theorem execNodeDrain_keep  (h : Keep a s) : KeepR a (execNodeDrain s) := by
  unfold execNodeDrain
  repeat' first
    | with_reducible assumption | intro _ | with_reducible apply fwRun_keep | with_reducible apply answerFw_keep | with_reducible apply drainNode_keep
    | with_reducible apply KeepR.mk'

theorem execChipReset_keep  (h : Keep a s) : KeepR a (execChipReset s) := by
  unfold execChipReset
  repeat' first
    | with_reducible assumption | intro _ | with_reducible apply fwRun_keep | split | with_reducible apply KeepR.mk' | dsimp only [id_eq]
    | fail_if_no_progress ((with_reducible apply keep_recPwr); iterate 5 rfl)

/-! ## Machine/Access.lean -/

theorem hostWrite_keep (rid : BitVec 16) (off : ℕ) (act : State → State) (hact : ∀ y0, Keep a y0 → Keep a (act y0)) (h : Keep a s) : Keep a (hostWrite rid off act s) := by
  unfold hostWrite
  repeat' first
    | with_reducible assumption | with_reducible apply writerGate_keep

theorem execChipClaimOwn_keep (rid : BitVec 16) (h : Keep a s) : KeepR a (execChipClaimOwn rid s) := by
  unfold execChipClaimOwn
  repeat' first
    | with_reducible assumption | intro _ | with_reducible apply hostWrite_keep | with_reducible apply claimWrite_keep
    | with_reducible apply KeepR.mk'

theorem execChipClaimRelease_keep (rid : BitVec 16) (h : Keep a s) : KeepR a (execChipClaimRelease rid s) := by
  unfold execChipClaimRelease
  repeat' first
    | with_reducible assumption | intro _ | with_reducible apply hostWrite_keep | with_reducible apply claimWrite_keep
    | with_reducible apply KeepR.mk'

theorem execSvcLinkReset_keep (kind : SvcReset) (h : Keep a s) : KeepR a (execSvcLinkReset kind s) := by
  unfold execSvcLinkReset
  repeat' first
    | with_reducible assumption | with_reducible apply claimEnds_keep | split | with_reducible apply KeepR.mk'

theorem cfgSpaceWrite_keep (off : ℕ) (v : ℕ) (h : Keep a s) : Keep a (cfgSpaceWrite off v s) := by
  unfold cfgSpaceWrite
  repeat' first
    | with_reducible assumption | split | dsimp only [id_eq] | fail_if_no_progress ((with_reducible apply keep_recSvc); iterate 2 rfl)

theorem cfgRead_keep (off : ℕ) (h : Keep a s) : Keep a (cfgRead off s) := by
  unfold cfgRead
  repeat' first
    | with_reducible assumption | intro _ | with_reducible apply svcAnswer_keep | with_reducible apply takeFree_keep
    | ((with_reducible apply Keep.out); with_reducible assumption) | with_reducible apply keep_ite | with_reducible apply keepP_ite | split
    | ((with_reducible apply KeepP.snd); with_reducible apply takeFree_keep) | with_reducible apply KeepP.mk' | dsimp only [id_eq]

theorem cfgWriteAt_keep (off : ℕ) (data : Bytes) (h : Keep a s) : Keep a (cfgWriteAt off data s) := by
  unfold cfgWriteAt
  repeat' first
    | with_reducible assumption | intro _ | with_reducible apply svcAnswer_keep | with_reducible apply cfgSpaceWrite_keep
    | with_reducible apply keep_ite

theorem clearRc_keep (off : ℕ) (h : Keep a s) : Keep a (clearRc off s) := by
  unfold clearRc
  repeat' first
    | with_reducible assumption | intro _ | with_reducible apply setDma_keep | with_reducible apply setBlk_keep | with_reducible apply keep_ite
    | split | dsimp only [id_eq] | fail_if_no_progress ((with_reducible apply keep_rec); rfl)
    | fail_if_no_progress ((with_reducible apply keep_recSvc); iterate 2 rfl)

theorem latchHi_keep (off : ℕ) (h : Keep a s) : Keep a (latchHi off s) := by
  unfold latchHi
  repeat' first
    | with_reducible assumption | intro _ | with_reducible apply keep_ite | dsimp only [id_eq]
    | fail_if_no_progress ((with_reducible apply keep_recSvc); iterate 2 rfl)

theorem serveRead_keep (off : ℕ) (h : Keep a s) : Keep a (serveRead off s) := by
  unfold serveRead
  repeat' first
    | with_reducible assumption | intro _ | with_reducible apply svcAnswer_keep | with_reducible apply takeFree_keep
    | with_reducible apply clearRc_keep | with_reducible apply latchHi_keep | with_reducible apply claimTarget_keep
    | ((with_reducible apply Keep.out); with_reducible assumption) | with_reducible apply keep_ite | with_reducible apply keepP_ite | split
    | ((with_reducible apply KeepP.snd); with_reducible apply takeFree_keep) | with_reducible apply KeepP.mk' | dsimp only [id_eq]

theorem barRead_keep (rid : BitVec 16) (t : Tlp) (h : Keep a s) : Keep a (barRead rid t s) := by
  unfold barRead
  repeat' first
    | with_reducible assumption | intro _ | with_reducible apply svcAnswer_keep | with_reducible apply svcClaimGate_keep
    | with_reducible apply serveRead_keep | with_reducible apply svcBad_keep | ((with_reducible apply Keep.out); with_reducible assumption)
    | with_reducible apply keep_ite | with_reducible apply keepP_ite | split
    | ((with_reducible apply KeepP.snd); with_reducible apply svcClaimGate_keep) | with_reducible apply KeepP.mk' | dsimp only [id_eq]

theorem execRcRead_keep (t : Tlp) (h : Keep a s) : KeepR a (execRcRead t s) := by
  unfold execRcRead
  repeat' first
    | with_reducible assumption | intro _ | with_reducible apply clearRc_keep | with_reducible apply cfgRead_keep | with_reducible apply barRead_keep
    | with_reducible apply keep_ite | split | with_reducible apply KeepR.mk' | with_reducible apply KeepR.fault | dsimp only [id_eq]

theorem clearCause_keep (id : ℕ) (v : ℕ) (h : Keep a s) : Keep a (clearCause id v s) := by
  unfold clearCause
  exact keep_cause (d := s.catchment.dis) h

theorem catchWrite_keep (who : Writer) (o : ℕ) (v : ℕ) (h : Keep a s) : Keep a (catchWrite who o v s) := by
  unfold catchWrite
  dsimp only
  refine keep_ite (fun _ => ?_) (fun _ => keep_ite (fun _ => keep_ite (fun _ => completeTarget_keep _ _ h) (fun _ => h)) (fun _ =>
    keep_ite (fun _ => ?_) (fun _ => h)))
  · refine keep_settle (b := s) rfl rfl rfl rfl rfl rfl rfl ?_ ?_ h
    · unfold catchCtrlAfter; split <;> exact fun h => h
    · unfold catchCtrlAfter; split <;> exact fun h => h
  · exact keep_settle (b := s) rfl rfl rfl rfl rfl rfl rfl
      (fun h1 => prio_setSrc h1 (srcCfgAfter_prio _ _ (prio_srcCfg _ h1))) (fun h2 => h2) h

theorem bmkWrite_keep (who : Writer) (o : ℕ) (v : ℕ) (h : Keep a s) : Keep a (bmkWrite who o v s) := by
  unfold bmkWrite
  repeat' first
    | with_reducible assumption | intro _ | with_reducible apply setTmr_keep | with_reducible apply keep_ite | split | dsimp only [id_eq]
    | fail_if_no_progress ((with_reducible apply keep_rec); rfl)

theorem cmdWrite_keep (v : ℕ) (h : Keep a s) : Keep a (cmdWrite v s) := by
  unfold cmdWrite
  repeat' first
    | with_reducible assumption | intro _ | with_reducible apply svcBad_keep | with_reducible apply keep_ite
    | fail_if_no_progress ((with_reducible apply keep_rec); rfl)

theorem windowWrite_keep (f : Cfg → Cfg) (h : Keep a s) : Keep a (windowWrite f s) := by
  unfold windowWrite
  repeat' first
    | with_reducible assumption | intro _ | with_reducible apply svcBad_keep | with_reducible apply keep_ite
    | fail_if_no_progress ((with_reducible apply keep_rec); rfl)

theorem cfgBlockWrite_keep (o : ℕ) (v : ℕ) (h : Keep a s) : Keep a (cfgBlockWrite o v s) := by
  unfold cfgBlockWrite
  repeat' first
    | with_reducible assumption | intro _ | with_reducible apply cmdWrite_keep | with_reducible apply windowWrite_keep | with_reducible apply keep_ite

theorem settingWord_keep (off : ℕ) (v : ℕ) (h : Keep a s) : Keep a (settingWord off v s) := by
  unfold settingWord
  repeat' first
    | with_reducible assumption | intro _ | with_reducible apply commitWeir_keep | with_reducible apply commitMeter_keep
    | with_reducible apply commitEq_keep | with_reducible apply keep_ite | split | dsimp only [id_eq]
    | fail_if_no_progress ((with_reducible apply keep_rec); rfl)

theorem dmaAbortNow_keep (c : ℕ) (h : Keep a s) : Keep a (dmaAbortNow c s) := by
  unfold dmaAbortNow
  repeat' first
    | with_reducible assumption | with_reducible apply dmaAbortAt_keep | ((with_reducible apply KeepP.snd); with_reducible apply takeFree_keep)

theorem dmaWrite_keep (c : ℕ) (o : ℕ) (v : ℕ) (h : Keep a s) : Keep a (dmaWrite c o v s) := by
  unfold dmaWrite
  repeat' first
    | with_reducible assumption | intro _ | with_reducible apply setDma_keep | with_reducible apply dmaAbortNow_keep
    | with_reducible apply dmaEvent_keep | with_reducible apply keep_ite | split

theorem modeWrite_keep (r : ℕ) (v : ℕ) (h : Keep a s) : Keep a (modeWrite r v s) := by
  unfold modeWrite
  repeat' first
    | with_reducible assumption | intro _ | with_reducible apply setMode_keep | dsimp only [id_eq]

theorem writeWord_keep (who : Writer) (off : ℕ) (v : ℕ) (h : Keep a s) : Keep a (writeWord who off v s) := by
  unfold writeWord
  repeat' first
    | with_reducible assumption | intro _ | with_reducible apply dmaWrite_keep | with_reducible apply writeCauseEn_keep
    | with_reducible apply clearCause_keep | with_reducible apply claimWrite_keep | with_reducible apply catchWrite_keep
    | with_reducible apply bmkWrite_keep | with_reducible apply cfgBlockWrite_keep | with_reducible apply settingWord_keep
    | with_reducible apply modeWrite_keep | with_reducible apply keep_ite | split

theorem bufferWrite_keep (o : ℕ) (data : Bytes) (h : Keep a s) : Keep a (bufferWrite o data s) := by
  unfold bufferWrite
  repeat' first
    | with_reducible assumption | intro _ | with_reducible apply svcAnswer_keep | with_reducible apply svcBad_keep | with_reducible apply keep_ite
    | dsimp only [id_eq] | fail_if_no_progress ((with_reducible apply keep_rec); rfl)

theorem barWrite_keep (rid : BitVec 16) (t : Tlp) (h : Keep a s) : Keep a (barWrite rid t s) := by
  unfold barWrite
  repeat' first
    | with_reducible assumption | intro _ | with_reducible apply svcAnswer_keep | with_reducible apply svcClaimGate_keep
    | with_reducible apply bufferWrite_keep | with_reducible apply writeWord_keep | with_reducible apply svcBad_keep
    | ((with_reducible apply Keep.out); with_reducible assumption) | with_reducible apply keep_ite | with_reducible apply keepP_ite | split
    | ((with_reducible apply KeepP.snd); with_reducible apply svcClaimGate_keep) | with_reducible apply KeepP.mk' | dsimp only [id_eq]

theorem execRegisterWrite_keep (t : Tlp) (h : Keep a s) : KeepR a (execRegisterWrite t s) := by
  unfold execRegisterWrite
  repeat' first
    | with_reducible assumption | intro _ | with_reducible apply writeWord_keep | with_reducible apply cfgWriteAt_keep
    | with_reducible apply barWrite_keep | with_reducible apply keep_ite | split | with_reducible apply KeepR.mk' | with_reducible apply KeepR.fault
    | dsimp only [id_eq]

theorem i2cWord_keep (off : ℕ) (h : Keep a s) : KeepP a (i2cWord off s) := by
  unfold i2cWord
  repeat' first
    | with_reducible assumption | intro _ | with_reducible apply takeFree_keep | ((with_reducible apply Keep.out); with_reducible assumption)
    | with_reducible apply Keep.getD | with_reducible apply keep_ite | with_reducible apply keepP_ite | split
    | ((with_reducible apply KeepP.snd); with_reducible apply takeFree_keep) | with_reducible apply KeepP.mk' | dsimp only [id_eq]
    | fail_if_no_progress ((with_reducible apply keep_rec); rfl) | fail_if_no_progress ((with_reducible apply keep_recSvc); iterate 2 rfl)

theorem i2cWords_keep (p0 : ℕ) (p1 : ℕ) (h : Keep a s) : KeepP a (i2cWords p0 p1 s) := by
  induction p0 generalizing s p1 with
  | zero =>
    unfold i2cWords
    repeat' first
      | with_reducible assumption | with_reducible apply KeepP.mk'
  | succ _ ih =>
    unfold i2cWords
    repeat' first
      | with_reducible assumption | ((with_reducible apply KeepP.snd); apply ih) | ((with_reducible apply KeepP.snd); with_reducible apply i2cWord_keep)
      | with_reducible apply KeepP.mk'

theorem i2cEnd_keep (nack : Bool) (answer : Bytes) (h : Keep a s) : Keep a (i2cEnd nack answer s) := by
  unfold i2cEnd
  repeat' first
    | with_reducible assumption | intro _ | dsimp only [id_eq] | fail_if_no_progress ((with_reducible apply keep_rec); rfl)
    | fail_if_no_progress ((with_reducible apply keep_recSvc); iterate 2 rfl)

theorem execI2cTransaction_keep (written : I2cWrite) (readLen : ℕ) (h : Keep a s) : KeepR a (execI2cTransaction written readLen s) := by
  unfold execI2cTransaction
  repeat' first
    | with_reducible assumption | intro _ | with_reducible apply i2cEnd_keep | with_reducible apply i2cWords_keep
    | ((with_reducible apply Keep.out); with_reducible assumption) | with_reducible apply keep_ite | with_reducible apply keepP_ite | split
    | ((with_reducible apply KeepP.snd); with_reducible apply i2cWords_keep) | with_reducible apply KeepR.mk' | with_reducible apply KeepR.fault
    | with_reducible apply KeepP.mk' | dsimp only [id_eq]

end Sys2Proof.Laws
end

