-- ==== Sys2Proof/Laws/KeepStep.lean ====
section
/-! SUPPORT. `Keep` for every command: one lemma per definition, found by walking its own text. -/

namespace Sys2Proof.Laws

open Sys2Proof.Machine

variable {a s : State}

set_option linter.all false

/-! ## Machine/Dispatch.lean -/

theorem exec_keep (i : Instr) (h : Keep a s) : KeepR a (exec i s) := by
  unfold exec
  repeat' first
    | with_reducible assumption | with_reducible apply execPowerOnReset_keep | with_reducible apply execAonResetRelease_keep
    | with_reducible apply execMainReset_keep | with_reducible apply execResetRelease_keep | with_reducible apply execThermalTrip_keep
    | with_reducible apply execRailFault_keep | with_reducible apply execAvsTransaction_keep | with_reducible apply execRefclkStop_keep
    | with_reducible apply execXtalStop_keep | with_reducible apply execPllLockLoss_keep | with_reducible apply execSpineStationFault_keep
    | with_reducible apply execDieLoss_keep | with_reducible apply execSleep_keep | with_reducible apply execSleepQuiesced_keep
    | with_reducible apply execSleepReqAssert_keep | with_reducible apply execWakeComparatorFire_keep | with_reducible apply execThermalSample_keep
    | with_reducible apply execSideLinkCompare_keep | with_reducible apply execSkewClampApply_keep | with_reducible apply execSupplySkewTimeout_keep
    | with_reducible apply execClampReleaseStep_keep | with_reducible apply execDvfsPointChange_keep | with_reducible apply execSupplyRampEnd_keep
    | with_reducible apply execPowerMeasure_keep | with_reducible apply execQuietGate_keep | with_reducible apply execQuietUngate_keep
    | with_reducible apply execG7Retrack_keep | with_reducible apply execRefpbDue_keep | with_reducible apply execDeviceTempRead_keep
    | with_reducible apply execLinkCrcFail_keep | with_reducible apply execChannelRetrainDone_keep | with_reducible apply execScrubPass_keep
    | with_reducible apply execUnitModeCompute_keep | with_reducible apply execUnitModeNormal_keep | with_reducible apply execAppendTail_keep
    | with_reducible apply execRequant_keep | with_reducible apply execReencode_keep | with_reducible apply execCompact_keep
    | with_reducible apply execDeltaDecode_keep | with_reducible apply execScrub_keep | with_reducible apply execAtomStart_keep
    | with_reducible apply execAtomEnd_keep | with_reducible apply execJournalRedo_keep | with_reducible apply execLeafUpdate_keep
    | with_reducible apply execOldFrameFree_keep | with_reducible apply execShadowCheck_keep | with_reducible apply execSeqOpen_keep
    | with_reducible apply execTensorReg_keep | with_reducible apply execSetFingerprint_keep | with_reducible apply execSeqRelease_keep
    | with_reducible apply execSeqFree_keep | with_reducible apply execDirSearch_keep | with_reducible apply execMigrate_keep
    | with_reducible apply execMigrationEnd_keep | with_reducible apply execTierHint_keep | with_reducible apply execRewriteRequant_keep
    | with_reducible apply execRewriteDelta_keep | with_reducible apply execDeltaPageConvert_keep | with_reducible apply execAutoDemote_keep
    | with_reducible apply execBackingDrop_keep | with_reducible apply execStagingWriteback_keep | with_reducible apply execStripeCopy_keep
    | with_reducible apply execTierEventPoll_keep | with_reducible apply execCxlTimeout_keep | with_reducible apply execTierLinkLoss_keep
    | with_reducible apply execPerstRetry_keep | with_reducible apply execTierLinkTrained_keep | with_reducible apply execQuery_keep
    | with_reducible apply execConfirm_keep | with_reducible apply execConfirmArrival_keep | with_reducible apply execContextAllocate_keep
    | with_reducible apply execPageRead_keep | with_reducible apply execTileCheck_keep | with_reducible apply execRegionFold_keep
    | with_reducible apply execNetFoldEmit_keep | with_reducible apply execPreempt_keep | with_reducible apply execContextResume_keep
    | with_reducible apply execAppend_keep | with_reducible apply execAppendFillStep_keep | with_reducible apply execAppendHeldRelease_keep
    | with_reducible apply execCommit_keep | with_reducible apply execRollback_keep | with_reducible apply execShift_keep
    | with_reducible apply execCompactionStart_keep | with_reducible apply execCommitFinalStep_keep | with_reducible apply execShiftComplete_keep
    | with_reducible apply execJxWrite_keep | with_reducible apply execJxWriteImm_keep | with_reducible apply execJxRead_keep
    | with_reducible apply execJxCas_keep | with_reducible apply execJxResponseReceive_keep | with_reducible apply execJxAckReceive_keep
    | with_reducible apply execJxNakReceive_keep | with_reducible apply execNonJexusFrame_keep | with_reducible apply execPtpMessage_keep
    | with_reducible apply execPtpLocked_keep | with_reducible apply execPtpHoldover_keep | with_reducible apply execPtpUnlock_keep
    | with_reducible apply execEthLinkChange_keep | with_reducible apply execAckCoalesceExpire_keep | with_reducible apply execJxRetransmitTimer_keep
    | with_reducible apply execJxMsgExpire_keep | with_reducible apply execJxNakBackoffExpire_keep | with_reducible apply execTrackerExpire_keep
    | with_reducible apply execFilterExpire_keep | with_reducible apply execPathCoolExpire_keep | with_reducible apply execCongWindowGrow_keep
    | with_reducible apply execJxSendResume_keep | with_reducible apply execSluicePost_keep | with_reducible apply execSluiceCancel_keep
    | with_reducible apply execSluiceRearm_keep | with_reducible apply execInstanceStart_keep | with_reducible apply execSluiceEntryFree_keep
    | with_reducible apply execCombine_keep | with_reducible apply execCombineTimeout_keep | with_reducible apply execForward_keep
    | with_reducible apply execSignal_keep | with_reducible apply execProgramInstall_keep | with_reducible apply execProgramRemove_keep
    | with_reducible apply execProgramSlotFree_keep | with_reducible apply execWindowOpen_keep | with_reducible apply execWindowRevoke_keep
    | with_reducible apply execWindowFree_keep | with_reducible apply execDmaStart_keep | with_reducible apply execDmaAbort_keep
    | with_reducible apply execDmaPaceTick_keep | with_reducible apply execDmaRunComplete_keep | with_reducible apply execDmaRunError_keep
    | with_reducible apply execTimerComparatorFire_keep | with_reducible apply execTrafficWeirCommit_keep
    | with_reducible apply execTrafficMeterCommit_keep | with_reducible apply execTrafficEqCommit_keep | with_reducible apply execEgressTransmit_keep
    | with_reducible apply execQueueSample_keep | with_reducible apply execTenantAdmit_keep | with_reducible apply execTenantRemove_keep
    | with_reducible apply execTenantRetire_keep | with_reducible apply execTenantZeroise_keep | with_reducible apply execKeyInstall_keep
    | with_reducible apply execKeyActivate_keep | with_reducible apply execKeyPreviousDrop_keep | with_reducible apply execKeyAge_keep
    | with_reducible apply execAttest_keep | with_reducible apply execAttestBases_keep | with_reducible apply execBaseListDiscard_keep
    | with_reducible apply execHssTreeBuild_keep | with_reducible apply execSvnCommit_keep | with_reducible apply execSealedScrub_keep
    | with_reducible apply execDatumPropose_keep | with_reducible apply execDatumPrepare_keep | with_reducible apply execDatumAccept_keep
    | with_reducible apply execDatumCommit_keep | with_reducible apply execDatumSubmit_keep | with_reducible apply execDatumResponse_keep
    | with_reducible apply execDatumRoundTimeout_keep | with_reducible apply execDatumBackoffExpire_keep | with_reducible apply execStepMarker_keep
    | with_reducible apply execMapRead_keep | with_reducible apply execMapFetchResponse_keep | with_reducible apply execMapNotice_keep
    | with_reducible apply execProbeTimer_keep | with_reducible apply execProbe_keep | with_reducible apply execProbeMiss_keep
    | with_reducible apply execWithdraw_keep | with_reducible apply execLoadOpen_keep | with_reducible apply execLoadData_keep
    | with_reducible apply execLoadDone_keep | with_reducible apply execLoadResponse_keep | with_reducible apply execNodeDrain_keep
    | with_reducible apply execHeartbeatMiss_keep | with_reducible apply execCtlStandbyLost_keep | with_reducible apply execCauseEnWrite_keep
    | with_reducible apply execCatchCtrlWrite_keep | with_reducible apply execCatchSrcCfgWrite_keep | with_reducible apply execCatchTgtClaim_keep
    | with_reducible apply execCatchTgtComplete_keep | with_reducible apply execCatchOfferTimeout_keep | with_reducible apply execBarrierArm_keep
    | with_reducible apply execBarrierArrive_keep | with_reducible apply execBarrierRelease_keep | with_reducible apply execChipClaimOwn_keep
    | with_reducible apply execChipClaimRelease_keep | with_reducible apply execSvcLinkReset_keep | with_reducible apply execI2cTransaction_keep
    | with_reducible apply execNvmRead_keep | with_reducible apply execNvmWrite_keep | with_reducible apply execChipReset_keep
    | with_reducible apply execDatumRead_keep | with_reducible apply execSeqRead_keep | with_reducible apply execPlaceRead_keep
    | with_reducible apply execSatRead_keep | with_reducible apply execSatClear_keep | with_reducible apply execWindowRead_keep
    | with_reducible apply execSluiceRead_keep | with_reducible apply execAction_keep | with_reducible apply execFwSluice_keep
    | with_reducible apply execRcRead_keep | with_reducible apply execRegisterWrite_keep | with_reducible apply execJtagTapReset_keep
    | with_reducible apply execIdcode_keep | with_reducible apply execSamplePreload_keep | with_reducible apply execExtest_keep
    | with_reducible apply execExtestPulse_keep | with_reducible apply execExtestTrain_keep | with_reducible apply execHighz_keep
    | with_reducible apply execClamp_keep | with_reducible apply execBypass_keep | with_reducible apply execImmediateCommandComplete_keep
    | with_reducible apply execProgramInstallComplete_keep | with_reducible apply execRomHoldEnd_keep | split

end Sys2Proof.Laws
end

