-- ==== Sys2Proof/WellFormed.lean ====
section
/-! DEFINITION. Well-formed commands: the operands describe something the part can meet. A packet's payload has the length its header
gives, an access carries the data it says, a boot environment covers every unit. The machine runs any command; these checks say
which ones an agent can send. -/

namespace Sys2Proof

/-- A frame's payload has PAYLOAD_LEN bytes (11 Table 11.1), and a tag follows exactly when ENC or AUTH is set (11 R241). -/
def frameWf (f : RxFrame) : Bool :=
  f.payload.length == f.hdr.payloadLen.toNat && f.tag.isSome == (f.hdr.enc || f.hdr.auth)

/-- A TLP carries LEN bytes of data or none, and LEN is not 0 (20 R433). -/
def tlpWf (t : Tlp) : Bool := (t.data.isEmpty || t.data.length == t.len) && t.len != 0

/-- A link's rate and width are codes of TIER_STATUS (20). -/
def trainWf (t : TierTrain) : Bool := decide (1 ≤ t.rate) && decide (t.rate ≤ 4) && [1, 2, 4, 8].contains t.width

/-- A boot environment names every region, device and port once, and a cell fails once. -/
def envWf (e : BootEnv) : Bool :=
  e.avsFails.length == 16 && e.devices.length == 48 && e.tiers.length == 4 && e.ethUp.length == 8 &&
  (e.tiers.all fun t => match t with
    | none => true
    | some t => trainWf t) &&
  decide e.badCells.Nodup && decide e.badRegions.Nodup && !e.sensors.isEmpty

/-- A line address names a 64-byte line (04 R93). -/
def lineWf (o : LineOutcome) : Bool := match o with
  | .clean => true
  | .corrected l => l.toNat % 64 == 0
  | .uncorrectable l => l.toNat % 64 == 0

/-- The lines that a migration names. -/
def migWf (o : MigOutcome) : Bool := match o with
  | .done => true
  | .poison _ => true
  | .timeout _ => true
  | .fastCorrected l => l.toNat % 64 == 0
  | .fastError l => l.toNat % 64 == 0

/-- The line that ends a DMA run. -/
def dmaErrorWf (e : DmaError) : Bool := match e with
  | .lineUncorrectable l => l.toNat % 64 == 0
  | .poison _ l => l.toNat % 64 == 0
  | .timeout _ => true
  | .stackUncorrectable _ => true
  | .fenced => true
  | .dieAbort => true

/-- The lines that an atom's reads met. -/
def atomWf (o : AtomOutcome) : Bool := match o with
  | .closed read _ => lineWf read
  | .scratchError => true
  | .aborted => true

/-- A submission by message carries a well-formed frame. -/
def submitWf (s : SubmitSource) : Bool := match s with
  | .message f => frameWf f
  | .window => true

/-- The checks of each command's operands. -/
def instrWf (i : Instr) : Bool :=
  match i with
  | .powerOnReset => true
  | .aonResetRelease _ => true
  | .mainReset _ => true
  | .resetRelease env => envWf env
  | .thermalTrip _ _ => true
  | .railFault _ _ => true
  | .avsTransaction _ _ failures => decide (failures ≤ 4)
  | .refclkStop _ => true
  | .xtalStop => true
  | .pllLockLoss _ => true
  | .spineStationFault _ _ => true
  | .dieLoss _ => true
  | .sleep => true
  | .sleepQuiesced => true
  | .sleepReqAssert => true
  | .wakeComparatorFire _ _ => true
  | .thermalSample _ _ => true
  | .sideLinkCompare _ _ _ => true
  | .skewClampApply _ => true
  | .supplySkewTimeout _ => true
  | .clampReleaseStep _ => true
  | .dvfsPointChange _ _ => true
  | .supplyRampEnd _ => true
  | .powerMeasure _ => true
  | .quietGate _ => true
  | .quietUngate _ => true
  | .g7Retrack _ => true
  | .refpbDue _ _ => true
  | .deviceTempRead _ _ => true
  | .linkCrcFail _ => true
  | .channelRetrainDone _ _ => true
  | .scrubPass _ => true
  | .unitModeCompute _ => true
  | .unitModeNormal _ => true
  | .appendTail _ => true
  | .requant _ => true
  | .reencode _ => true
  | .compact _ => true
  | .deltaDecode _ => true
  | .scrub _ => true
  | .atomStart _ _ => true
  | .atomEnd _ outcome _ => atomWf outcome
  | .journalRedo _ _ _ => true
  | .leafUpdate _ => true
  | .oldFrameFree _ => true
  | .shadowCheck _ _ => true
  | .seqOpen _ => true
  | .tensorReg _ => true
  | .setFingerprint _ => true
  | .seqRelease _ => true
  | .seqFree _ => true
  | .dirSearch _ => true
  | .migrate _ => true
  | .migrationEnd _ outcome => migWf outcome
  | .tierHint _ => true
  | .rewriteRequant _ => true
  | .rewriteDelta _ => true
  | .deltaPageConvert _ => true
  | .autoDemote _ => true
  | .backingDrop => true
  | .stagingWriteback _ => true
  | .stripeCopy _ => true
  | .tierEventPoll _ _ => true
  | .cxlTimeout _ => true
  | .tierLinkLoss _ => true
  | .perstRetry _ => true
  | .tierLinkTrained _ train => trainWf train
  | .query _ => true
  | .confirm _ => true
  | .confirmArrival _ _ => true
  | .contextAllocate _ _ => true
  | .pageRead _ _ _ _ => true
  | .tileCheck _ _ _ _ => true
  | .regionFold _ _ => true
  | .netFoldEmit _ => true
  | .preempt _ _ _ => true
  | .contextResume _ _ => true
  | .append _ => true
  | .appendFillStep _ => true
  | .appendHeldRelease _ => true
  | .commit f => frameWf f
  | .rollback f => frameWf f
  | .shift f => frameWf f
  | .compactionStart _ => true
  | .commitFinalStep _ => true
  | .shiftComplete _ => true
  | .jxWrite f => frameWf f
  | .jxWriteImm f => frameWf f
  | .jxRead x => frameWf x.frame && lineWf x.lines
  | .jxCas x => frameWf x.frame && lineWf x.lines
  | .jxResponseReceive f => frameWf f
  | .jxAckReceive f => frameWf f
  | .jxNakReceive f => frameWf f
  | .nonJexusFrame _ _ => true
  | .ptpMessage _ _ _ => true
  | .ptpLocked _ => true
  | .ptpHoldover _ => true
  | .ptpUnlock _ _ => true
  | .ethLinkChange _ _ => true
  | .ackCoalesceExpire _ => true
  | .jxRetransmitTimer _ _ => true
  | .jxMsgExpire _ => true
  | .jxNakBackoffExpire _ => true
  | .trackerExpire _ _ => true
  | .filterExpire _ _ => true
  | .pathCoolExpire _ => true
  | .congWindowGrow _ => true
  | .jxSendResume _ => true
  | .sluicePost _ => true
  | .sluiceCancel _ => true
  | .sluiceRearm _ => true
  | .instanceStart _ => true
  | .sluiceEntryFree _ => true
  | .combine _ => true
  | .combineTimeout _ _ => true
  | .forward _ => true
  | .signal _ => true
  | .programInstall _ => true
  | .programRemove _ => true
  | .programSlotFree _ => true
  | .windowOpen _ => true
  | .windowRevoke _ => true
  | .windowFree _ => true
  | .dmaStart _ => true
  | .dmaAbort _ _ => true
  | .dmaPaceTick _ => true
  | .dmaRunComplete x => lineWf x.lines
  | .dmaRunError _ err _ => dmaErrorWf err
  | .timerComparatorFire _ => true
  | .trafficWeirCommit _ _ _ => true
  | .trafficMeterCommit _ _ _ => true
  | .trafficEqCommit _ _ _ => true
  | .egressTransmit _ => true
  | .queueSample _ => true
  | .tenantAdmit => true
  | .tenantRemove => true
  | .tenantRetire _ => true
  | .tenantZeroise _ => true
  | .keyInstall => true
  | .keyActivate _ => true
  | .keyPreviousDrop _ => true
  | .keyAge _ => true
  | .attest _ => true
  | .attestBases => true
  | .baseListDiscard _ => true
  | .hssTreeBuild _ => true
  | .svnCommit => true
  | .sealedScrub _ _ => true
  | .datumPropose _ => true
  | .datumPrepare f => frameWf f
  | .datumAccept f => frameWf f
  | .datumCommit f => frameWf f
  | .datumSubmit src => submitWf src
  | .datumResponse f => frameWf f
  | .datumRoundTimeout _ => true
  | .datumBackoffExpire _ => true
  | .stepMarker f => frameWf f
  | .mapRead f => frameWf f
  | .mapFetchResponse f => frameWf f
  | .mapNotice f => frameWf f
  | .probeTimer => true
  | .probe f => frameWf f
  | .probeMiss _ => true
  | .withdraw f => frameWf f
  | .loadOpen f => frameWf f
  | .loadData f => frameWf f
  | .loadDone f => frameWf f
  | .loadResponse f => frameWf f
  | .nodeDrain => true
  | .heartbeatMiss => true
  | .ctlStandbyLost => true
  | .causeEnWrite _ _ _ => true
  | .catchCtrlWrite _ _ => true
  | .catchSrcCfgWrite _ _ _ => true
  | .catchTgtClaim _ _ => true
  | .catchTgtComplete _ _ _ => true
  | .catchOfferTimeout _ => true
  | .barrierArm _ _ => true
  | .barrierArrive _ _ => true
  | .barrierRelease _ => true
  | .chipClaimOwn _ => true
  | .chipClaimRelease _ => true
  | .svcLinkReset _ => true
  | .i2cTransaction _ _ => true
  | .nvmRead => true
  | .nvmWrite => true
  | .chipReset => true
  | .datumRead => true
  | .seqRead => true
  | .placeRead => true
  | .satRead => true
  | .satClear => true
  | .windowRead => true
  | .sluiceRead => true
  | .action => true
  | .fwSluice => true
  | .rcRead t => tlpWf t
  | .registerWrite t => tlpWf t
  | .jtagTapReset => true
  | .idcode => true
  | .samplePreload => true
  | .extest => true
  | .extestPulse => true
  | .extestTrain => true
  | .highz => true
  | .clamp => true
  | .bypass => true
  | .immediateCommandComplete => true
  | .programInstallComplete _ => true
  | .romHoldEnd env => envWf env

end Sys2Proof
end

