-- ==== Sys2Proof/Tests/Slice0.lean ====
section
/-! SUPPORT. Tests: states that meet the hypotheses of every obligation, ill-formed commands that the checks refuse, and the spec's worked
examples. Expected values come from the spec's text. -/

set_option linter.all false

namespace Sys2Proof.Tests

-- The tests are elaborated one after another: a kernel evaluation then waits on no thread of its own.
set_option Elab.async false

open Sys2Proof.Machine

def img : Img :=
  { nodeId := 1, endpoint := 1, tray := 0, ports := [1], jxPort := 4791, pathCount := 4, fabricAuth := false, dscpLc := 46, dscpBe := 10, ptpDomain := 0
    g7Rate := 0, density := 16, trefi := 3900, trrefd := 0, ranges := [], dvfsMv5 := List.replicate 35 150, dvfsInit := [], powerCap := 1150
    quietIdle := 500, fastLow := 4, loadPartition := 0, loadRate := 0, weir := none, egress := none, admits := [], fabricKey := none }

/-- A running node in READY at 20 ms, its service function claimed by Requester ID 7, every port up and locked. -/
def up : State :=
  { bmk := { time := 20000000, counting := true }
    pwr := { resetN := true, aonResetN := true, mode := .running }
    cfg := { phase := 6, img := some img, trainReached := true, standbyOk := true }
    svc := { mse := true, owned := true, ownerRid := 7 }
    node := { st := .serving }
    jx := { portUp := 0xFF, locked := true } }

def hdr (op plen len : Nat) : JxHdr :=
  { version := 1, opcode := BitVec.ofNat 8 op, enc := false, auth := false, ceEcho := false, src := 2, dst := 1, tenant := 0
    payloadLen := BitVec.ofNat 14 plen, msgId := 8, msgLen := BitVec.ofNat 25 len, pktIndex := 0, windowId := 0, windowGen := 0, offset := 0
    immediate := 0, msgTime := 20000000, epoch := 0, rsv := 0 }

def pkt (op : Nat) (b : Bytes) : RxFrame :=
  { port := 0, dstAddr := 1, dstPort := 4791, srcAddr := 2, ce := false, hdr := hdr op b.length b.length, payload := b, tag := none }

theorem some_of {α β : Type} {x : Option α × β} (h : x.1.isSome = true) : ∃ a u, x = (some a, u) := by
  obtain ⟨a, u⟩ := x
  cases a with
  | none => cases h
  | some a => exact ⟨a, u, rfl⟩

theorem none_of {α β : Type} {x : Option α × β} (h : x.1.isSome = false) : ∃ u, x = (none, u) := by
  obtain ⟨a, u⟩ := x
  cases a with
  | none => exact ⟨u, rfl⟩
  | some a => cases h

/-- `up` with a firmware command latched. -/
def fw (op : Nat) (req : Bytes) : State :=
  { up with cfg := { up.cfg with busy := true, latched := some { opcode := op, req := req, tag := 9, answer := none } } }

/-- `up` with one latched command and 16 deferred ones that have not ended. -/
def fwFull (op : Nat) (req : Bytes) : State :=
  { fw op req with cfg := { (fw op req).cfg with outstanding := List.replicate 16 { opcode := 0x40, tag := 0, obj := 0 } } }

/-- An instance of entry 0 for tenant 5 whose one action, of opcode `op` and parameters `p`, has been started. -/
def inst1 (op : Nat) (p : Bytes) : Inst :=
  { entry := 0, die := 0, tenant := 5, part := 0, lc := true, priv := 255, arg := 0, msg := none, at_ := 0
    bytes := padTo 1024 ([1, 1] ++ List.replicate 62 0 ++ padTo 120 (leBytes 8 op ++ p)), acts := [.started] }

/-- The message that enabled the instance: 64 bytes at offset 0 of window 3. -/
def msg1 : EnMsg := { id := 8, src := 2, window := 3, gen := 0, offset := 0, len := 64, epoch := 0, time := 20000000, addr := 2 }

/-- `up` with that instance, tenant 5's key slot ACTIVE. -/
def act (op : Nat) (p : Bytes) : State :=
  { up with slu := { inst := [(0, inst1 op p)], nextInst := 1 }, key := [(0, { tenant := 5, st := .active, sluiceCount := 4 })] }

/-- `act` with an enabling message. -/
def actMsg (op : Nat) (p : Bytes) : State :=
  { act op p with slu := { inst := [(0, { inst1 op p with msg := some msg1 })], nextInst := 1 } }

def host (off : Nat) (data : Bytes) : Tlp :=
  { who := .host 7, config := false, offset := off, len := 4, allEnables := true, data := data }

/-- A descriptor (03 Table 3.1): pages of 16 KiB, two layers, one head of 32 elements of format 1, 32 tokens a page, 64 tokens at most; `flags` is byte 16. -/
def desc (flags : Nat) : Bytes := padTo 64 ([1, 1, 0, 0, 2, 2, 0, 0, 5, 1, 1, 0, 64, 0, 0, 0] ++ leBytes 1 flags)

/-- The image of `up` with small fast-tier ranges in every region. -/
def imgR : Img := { img with ranges := List.replicate 16 [0x6000000, 0x6600000, 0x6900000, 0x6C00000] }

/-- A valid program image for that descriptor (07 R156-R166): LOAD 0 and 1, DEQUANT of the first pass, SCORE_DOT, EXPMAX, DEQUANT of the value pass,
VALUE_ACC and EMIT; one pattern state at 320, the format table at 384. -/
def image : Bytes :=
  [padTo 64 ([1, 8, 0, 1] ++ leBytes 4 1664 ++ [0, 0, 2, 2, 0, 2, 0, 0, 0, 0, 5, 0, 6, 0]), padTo 32 [1, 0, 0], padTo 32 [1, 0, 1],
    padTo 32 [2, 0, 0, 4], padTo 32 [4, 0, 0, 0, 0, 2], padTo 32 [9], padTo 32 [2, 0, 1, 4], padTo 32 [0xA, 0, 1, 0, 2], padTo 32 [0xB],
    padTo 64 [], padTo 640 [1], padTo 640 [1]].flatten

/-- Sequence 7 of tenant 5 in slot 0, ACTIVE, its first page full and committed in the channel-local plain frame at 0x6900000; `t` is tensor 0. -/
def seqOne (flags : Nat) (t : Ten) : Seq :=
  { cam := { valid := true, tenant := 5, tag := 7 }, shadow := { valid := true, tenant := 5, tag := 7 }, desc := desc flags, tag := 7, tenant := 5
    st := .active, committed := 32, root := 0x4000000, place := 0x4003000, ten := [(0, t), (1, { st := .fast }), (4, { st := .fast }), (5, { st := .fast })] }

/-- The three table entries of its first page. -/
def walkMem : Tbl Byte :=
  memWrite (memWrite (memWrite [] 0x4000000 (leBytes 8 0x4001001)) 0x4001000 (leBytes 8 0x4002001)) 0x4002000 (leBytes 8 (mkLeaf 0x6900000 true false))

/-- `up` with that sequence and the tables that lead to its first page. -/
def seqUp (flags : Nat) (t : Ten) : State :=
  { up with
    cfg := { up.cfg with img := some imgR }
    dir := [(0, seqOne flags t)]
    mem := { fast := walkMem }
    key := [(0, { tenant := 5, st := .active, sluiceCount := 4 })] }

/-- `s` with window 3 of tenant 5, of one frame. -/
def withWin (kind : Nat) (s : State) : State :=
  { s with slu := { s.slu with win := [(3, { st := .active, kind := kind, tenant := 5, length := 65536, frames := [0x5000000] })] } }

/-- A packet of tenant 5. -/
def pkt5 (op : Nat) (b : Bytes) : RxFrame := { pkt op b with hdr := { hdr op b.length b.length with tenant := 5 } }

/-- A packet of tenant 5 to window 3. -/
def pktW (op len : Nat) (b : Bytes) : RxFrame := { pkt op b with hdr := { hdr op b.length len with tenant := 5, windowId := 3 } }

/-- `up` with window 3. -/
def net (kind : Nat) : State := withWin kind (act 0 [])

/-- `up` with an outgoing message of number 9 to endpoint 2. -/
def outSt (m : OutMsg) : State := { up with jx := { up.jx with out := [(9, { m with dst := 2 })] } }

/-- A response to it. -/
def resp (op : Nat) (b : Bytes) : RxFrame := { pkt op b with hdr := { hdr op b.length b.length with immediate := 9 } }

/-- A started action enabled by `len` bytes in window 3, which begin with `b`, on the sequence of `seqUp`, with a program without stages in slot 0. -/
def seqMsg (op : Nat) (p b : Bytes) (len : Nat) : State :=
  { withWin 0 (seqUp 0 { st := .fast }) with
    slu := { (withWin 0 (seqUp 0 { st := .fast })).slu with inst := [(0, { inst1 op p with msg := some { msg1 with len := len } })], nextInst := 1 }
    mem := { fast := memWrite walkMem 0x5000000 b }
    prog := [(0, { st := .installed, tenant := 5, image := image })] }

/-- Nodes 1 and 2 are pair 0, NORMAL, of composition 9 of tenant 5; they hold sequence 7; requester endpoint 3 keeps the clock. -/
def map1 : DMap :=
  { epoch := 4, tenant := 5, clock := 3, pairs := [(0, { a := 1, b := 2, st := 0 })]
    members := [(1, { isNode := true, admin := true, node := 1, tray := 0, addrs := [1] }), (2, { isNode := true, admin := true, node := 2, tray := 1, addrs := [2] }),
      (3, { isNode := false, admin := true, node := 0, tray := 0, addrs := [3] })]
    places := [{ tag := 7, lo := 0, hi := 0x1FFFFFF, pair := 0, staged := false, primB := false, gen := 0 }] }
def comp1 : Comp := { map := some map1, voting := true }
def withComp (x : Comp) (s : State) : State := { s with datum := { s.datum with comp := [(9, x)] } }

/-- An agreement body of composition 9 (15 R339). -/
def agree (base ballot : Nat) (change : Bytes) : Bytes := leBytes 4 9 ++ leBytes 4 base ++ leBytes 4 ballot ++ leBytes 2 change.length ++ [0, 0] ++ change

/-- `seqUp` with a started action. -/
def seqAct (flags : Nat) (t : Ten) (op : Nat) (p : Bytes) : State := { seqUp flags t with slu := (act op p).slu }

/-! ## Ill-formed commands are refused, well-formed ones accepted -/

def wfF (f : RxFrame) : Bool := instrWf (.jxWrite f)

theorem test_wf_frame : wfF (pkt 0x20 (leBytes 16 0)) = true ∧
    wfF { pkt 0x20 (leBytes 16 0) with payload := leBytes 15 0 } = false ∧
    wfF { pkt 0x20 (leBytes 16 0) with tag := some 0 } = false ∧
    wfF { pkt 0x20 (leBytes 16 0) with hdr := { hdr 0x20 16 16 with enc := true } } = false ∧
    wfF { pkt 0x20 (leBytes 16 0) with hdr := { hdr 0x20 16 16 with auth := true }, tag := some 0 } = true := by decide

theorem test_wf_submit : instrWf (.datumSubmit .window) = true ∧
    instrWf (.datumSubmit (.message { pkt 0x28 [] with payload := [0] })) = false := by decide

theorem test_wf_access : instrWf (.registerWrite (host 0 [1, 0, 0, 0])) = true ∧ instrWf (.rcRead (host 0 [])) = true ∧
    instrWf (.registerWrite (host 0 [1, 0, 0])) = false ∧ instrWf (.rcRead { host 0 [] with len := 0 }) = false := by decide

def env1 : BootEnv :=
  { rails := [], sysRefclk := true, sensors := [250], rom0Ok := true, rom1Ok := true
    nvm := { sfdp := true, sizeBytes := 0x8000000, erase64K := true, octal := true }
    avsFails := List.replicate 16 0, devices := List.replicate 48 (some 16), badCells := [(0, 0), (0, 1)], badRegions := [3], tiers := [none, none, none, none]
    ethUp := List.replicate 8 true, sealOk := true }

theorem test_wf_boot : instrWf (.resetRelease env1) = true ∧ instrWf (.romHoldEnd env1) = true ∧
    instrWf (.resetRelease { env1 with sensors := [] }) = false ∧ instrWf (.resetRelease { env1 with avsFails := [] }) = false ∧
    instrWf (.resetRelease { env1 with devices := [] }) = false ∧ instrWf (.resetRelease { env1 with tiers := [none] }) = false ∧
    instrWf (.romHoldEnd { env1 with ethUp := [] }) = false ∧ instrWf (.romHoldEnd { env1 with badCells := [(0, 0), (0, 0)] }) = false ∧
    instrWf (.romHoldEnd { env1 with badRegions := [3, 3] }) = false := by decide

/-- The lines that operands name lie on 64-byte boundaries (04 R93). -/
theorem test_wf_lines : instrWf (.jxRead ⟨pkt 3 [], .corrected 64⟩) = true ∧ instrWf (.jxRead ⟨pkt 3 [], .corrected 1⟩) = false ∧
    instrWf (.dmaRunComplete ⟨0, .uncorrectable 63⟩) = false ∧ instrWf (.dmaRunError 0 (.lineUncorrectable 96) 0) = false ∧
    instrWf (.dmaRunError 0 (.lineUncorrectable 128) 0) = true ∧ instrWf (.dmaRunError 0 (.poison true 65) 0) = false ∧ instrWf (.migrationEnd ⟨0, 0, 0⟩ (.fastError 8)) = false ∧
    instrWf (.migrationEnd ⟨0, 0, 0⟩ (.fastCorrected 64)) = true ∧ instrWf (.atomEnd 0 (.closed (.corrected 32) false) false) = false := by decide

def train (rate width : Nat) : TierTrain := { rate := rate, width := width, capGiB := 512, supported := true }

theorem test_wf_train : instrWf (.tierLinkTrained 0 (train 4 8)) = true ∧ instrWf (.tierLinkTrained 0 (train 0 8)) = false ∧
    instrWf (.tierLinkTrained 0 (train 5 8)) = false ∧ instrWf (.tierLinkTrained 0 (train 4 3)) = false := by decide

theorem test_wf_avs : instrWf (.avsTransaction 0 0 4) = true ∧ instrWf (.avsTransaction 0 0 5) = false := by decide

/-! ## Worked examples of the spec -/

/-- The example after 03 R67: the pages, the address and the walk of the value element of head 2, layer 7, token 300,000. -/
def descY : Bytes := padTo 64 ([0x11, 31, 3, 31, 8, 8, 0, 0, 8, 1, 1, 0] ++ leBytes 4 524288)
theorem test_page_address : dPages descY = 2048 ∧ dSpan descY = 536870912 ∧ svAddr descY 7 1 (pageIdx descY 2 1171) + 0xE000 = 0x1F493E000 ∧
    walkIdx descY 0x1F493E000 = (0, 250, 147) ∧ homeRegion 0xA5C3 7 2 1171 = 15 ∧ homeChannel 0xA5C3 7 2 1171 = 1 := by decide

/-- The example after 04 R92: channel 1 and channel offset 0x58DA_E000. -/
theorem test_interleave : interleave 0x200580000 0x42A3CE000 = (1, 0x58DAE000) := by decide

/-- The example after 06 R138: YQ8 keys of width 96 with inline scales, 512 tokens. -/
def descQ (log2 : Nat) : Bytes := padTo 64 ([0x11, 0, 0, 0, 6, 6, 0, 0] ++ leBytes 1 log2 ++ [0x0D, 0x0D, 0])
theorem test_page_layout : elemArea (descQ 9) 0 = 49152 ∧ s2Base (descQ 9) 0 = 0xC600 ∧ pageUsed (descQ 9) 0 = 50752 ∧ scaleOff (descQ 9) 0 0 300 2 = 0xC386 ∧
    hasLayout (descQ 9) = true ∧ hasLayout (descQ 10) = false := by decide

/-- Table 7.14: a token tree of three, (0xF, 0, 0). -/
def ctxC : PatCtx := { c := 40000, e := 40003, nq := 3, parents := some 0x00F, params := [], lo := 0, hi := 40003 }
theorem test_tree_mask : (List.range 3).map (fun i => (List.range 3).map fun j => visible ctxC [] true true i (40000 + j)) =
    [[true, false, false], [true, true, false], [true, false, true]] := by decide

/-- The example after Table 7.13: 15.0 × 0.033333335 is 0.5; (0.5 + 8.0) × 16.0 is 136.0; 43.280851 × 0.46211716 is 20.000824. -/
theorem test_curve_steps : fmul 0x41700000 0x3D088889 = 0x3F000000 ∧ fmul (fadd 0x3F000000 0x41000000) 0x41800000 = 0x43080000 ∧
    fmul 0x422D1F97 0x3EEC9A9F = 0x41A001B0 := by decide +kernel

/-- The example after 04 R107: A is 27 at the halved interval, and 14 at the whole one (R107). -/
def fast19 : State := { up with cfg := { up.cfg with img := some { img with trefi := 1900 } } }
theorem test_atom_debt : atomDebt fast19 { half := true } = 27 ∧ atomDebt fast19 {} = 14 := by decide

/-- Conversion (06 R133): to the nearest, ties to even; a value beyond the largest saturates and is clipped; an E4M3 flag value is carried beside the lane. -/
theorem test_narrow : toNarrow fmtBf16 (ofF32 0x3F808000) = { bits := 0x3F80 } ∧ toNarrow fmtBf16 (ofF32 0x3F818000) = { bits := 0x3F82 } ∧
    toNarrow fmtE4m3 (ofF32 0x44000000) = { bits := 0x7E, clipped := true } ∧ (toNarrow fmtE2m1 .nan).flag = some .nan := by decide

/-! ## One command each -/

/-- The next state of an outcome that is one. -/
def after : Host.Outcome State Fault Refusal → State
  | .next t => t
  | _ => State.reset


/-- Table 19.4, steps 2 to 4: source 45, offered to core 2, is claimed, and fires again while active. -/
def offered45 : State :=
  { up with catchment := { globalEn := true, tgtEn := 0xFF, src := [(45, { prio := 12, st := .pending, last := 1 })], offer := [(2, ⟨45, 20000000⟩)] } }
theorem test_claim : (claimTarget 2 offered45).catchment.stack = [(2, [(45, 12)])] ∧ (srcCfg (claimTarget 2 offered45).catchment 45).st = .active ∧
    (srcCfg (raise (leafSkewTemp 5) [] (claimTarget 2 offered45)).catchment 45).st = .activePending := by decide +kernel

/-- Table 19.4, step 7: a completion of a source that is not on top is refused with CATCH_STACK_FAULT. -/
theorem test_complete_refused : let s : State := { up with catchment := { stack := [(2, [(159, 6), (45, 12)])] } }
    (completeTarget 2 45 s).catchment.stack = s.catchment.stack ∧ bitAt (causeWord (completeTarget 2 45 s) 162) 0 = true := by decide +kernel

/-- Table 19.5: the arrival that completes the mask gives DONE and GEN + 1; a participant outside it changes nothing. -/
def armed3 : State := { up with barrier := [(5, { mask := 3, arrived := 1, st := .armed, gen := 0xFFFF })] }
theorem test_barrier : barrierArrived (barrierOf armed3 5) 1 = { mask := 3, arrived := 3, st := .done, gen := 0 } ∧
    barrierOf (after (exec (.barrierArrive 5 2) armed3)) 5 = barrierOf armed3 5 := by decide

/-- DMA (13 R295): 64 bytes from 0x5000000 to 0x5001000 of region 0's fast tier. -/
def dmaLine : State :=
  { up with
    mem := { fast := memWrite [] 0x5000000 (leBytes 64 0x0102) }
    dma := [(0, { run := some { desc := padTo 64 ([1, 0, 0, 0] ++ leBytes 4 64 ++ leBytes 8 0x5000000 ++ leBytes 8 0 ++ leBytes 4 1 ++ leBytes 4 64 ++
      leBytes 8 0x5001000 ++ leBytes 8 0 ++ leBytes 4 1), funnel := false, pace := 0, start := 0 } })] }
theorem test_dma_moves : (dmaMove 0 64 dmaLine).mem.fast = [(0x5000000, 2), (0x5000001, 1), (0x5001000, 2), (0x5001001, 1)] := by decide +kernel

/-- The command at the front of the queue runs first, and the next stays. -/
theorem test_step_takes_the_front : (after (step { up with pending := [.svcLinkReset .hot, .ctlStandbyLost] })).pending = [.ctlStandbyLost] ∧
    (after (step { up with pending := [.svcLinkReset .hot, .ctlStandbyLost] })).svc.mse = false := by decide +kernel

/-! ## Witnesses: states and operands that meet the hypotheses of each statement -/

theorem wit_SoundKeptByEveryStep : sound up = true ∧ (∃ t, step up = .next t) ∧ sound State.reset = true ∧ ∃ t, step State.reset = .next t := by
  and_intros <;> first | decide | exact ⟨_, rfl⟩

theorem wit_FusesNeverFall : ∃ t, step { up with pending := [.xtalStop] } = .next t := ⟨_, rfl⟩

theorem wit_EveryCommandTouchesOnlyItsParts : (∃ t, exec .xtalStop up = .next t) ∧ Part.fuse ∈ touches .svnCommit := ⟨⟨_, rfl⟩, by decide⟩

theorem wit_OnlyRuinStopsTheBlock : railMax .ctl < 5000 ∧ exec (.railFault .ctl 5000) up = .fault (.beyondAbsoluteMaximum .ctl) := ⟨by decide, rfl⟩

theorem wit_StepRunsTheFrontCommand : ({ up with pending := [.xtalStop, .sleep] } : State).pending = .xtalStop :: [.sleep] := rfl

def lowPower : State := { up with pwr := { up.pwr with mode := .bmkOnly, sleepReq := .low } }

theorem wit_EmptyQueueTicks : State.reset.pending = [] ∧ State.reset.bmk.counting = false ∧ up.pending = [] ∧ up.bmk.counting = true ∧
    up.pwr.mode ≠ .bmkOnly ∧ up.bmk.slew = 0 ∧ lowPower.pending = [] ∧ lowPower.bmk.counting = true ∧ lowPower.pwr.mode = .bmkOnly := by decide

theorem wit_CauseIsSetLoggedAndFires : bitAt (causeEnWord up leafChipFatal.src) leafChipFatal.bit = true ∧
    bitAt (causeEnWord { up with catchment := { up.catchment with dis := [(leafChipFatal.src, 2 ^ 32 - 1)] } } leafChipFatal.src) leafChipFatal.bit = false := by
  decide

/-- Source 1, priority 8, offered to core 7 and to the tray controller. -/
def offered : State := { up with catchment := { up.catchment with offer := [(7, { src := 1, since := 0 }), (8, { src := 1, since := 0 })] } }

theorem wit_ClaimPushesTheOfferedSource :
    (awake up = true ∧ tlook up.catchment.offer 7 = none) ∧
    (awake offered = true ∧ tlook offered.catchment.offer 7 = some { src := 1, since := 0 }) ∧
    (svcClaimGate 7 false 0x10180 up = (true, up) ∧ offsetDecoded 0x10180 up = true ∧ tlook up.catchment.offer 8 = none) ∧
    (svcClaimGate 7 false 0x10180 offered = (true, offered) ∧ tlook offered.catchment.offer 8 = some { src := 1, since := 0 }) ∧
    svcClaimGate 7 false (0x10100 + (7 : Fin 9) * 0x10) up = (true, up) ∧ sound up = true := by
  and_intros <;> first | decide | rfl

def stacked : State := { up with catchment := { up.catchment with stack := [(0, [(5, 3), (6, 2)]), (8, [(5, 3)])] } }

theorem wit_CompletionPopsOnlyTheTop :
    awake stacked = true ∧ svcClaimGate 7 true (0x10104 + (8 : Fin 9) * 0x10) up = (true, up) ∧ offsetDecoded (0x10104 + (8 : Fin 9) * 0x10) up = true ∧
    tgtStack stacked.catchment 0 = (5, 3) :: [(6, 2)] ∧ (tgtStack stacked.catchment 0).head? = some (5, 3) ∧ (5 : Nat) ≠ 6 ∧
    tgtStack stacked.catchment 1 = [] := by
  and_intros <;> first | decide | rfl

theorem wit_OffersFollowTheConfiguration :
    awake up = true ∧ svcClaimGate 7 true 0x10000 up = (true, up) ∧ offsetDecoded 0x10000 up = true ∧ (162 : Fin 163).val ≠ 0 ∧
    svcClaimGate 7 true (0x11000 + 4 * (162 : Fin 163)) up = (true, up) ∧ offsetDecoded (0x11000 + 4 * (162 : Fin 163)) up = true ∧
    offsetReachable (causeOff (162 : Fin 163) + 4) up = true ∧ newlyEnabled up 1 0 = 0 ∧
    newlyEnabled { up with catchment := { up.catchment with cause := [(1, 1)], dis := [(1, 1)] } } 1 1 ≠ 0 := by
  and_intros <;> first | decide | rfl

theorem wit_BarrierAnswersByState : twf {} up.barrier = true ∧ (barrierOf up 0).st = .idle ∧
    (let s : State := { up with barrier := [(0, { mask := 3, arrived := 1, st := .armed })] }
     (barrierOf s 0).mask.getLsbD 1 = true ∧ (barrierOf s 0).arrived.getLsbD 1 = false ∧ (barrierOf s 0).st = .armed) := by decide

def unclaimed : State := { up with svc := { up.svc with owned := false, ownerRid := 0 } }

theorem wit_ClaimIsOwnedReleasedAndEnded :
    (svcDecodes unclaimed = true ∧ unclaimed.svc.owned = false) ∧ (svcDecodes up = true ∧ up.svc.owned = true ∧ up.svc.ownerRid = 7) ∧
    (7 : BitVec 16) ≠ 8 ∧ svcDecodes State.reset = false ∧ awake up = true := by decide

/-- Station 0 of the spine's path is dead. -/
def lost0 : State := { up with ctl := { up.ctl with spineDead := 1 } }

theorem wit_RegisterAccessesPassTheGate :
    ((host 0x10 []).who = .host 7 ∧ (host 0x10 []).config = false ∧ svcClaimGate 7 false 0x10 up = (true, up) ∧ inBuffer 0x60000 0x10 4 = false ∧
      isWord (host 0x10 []) = true ∧ offsetDecoded 0x10 up = true ∧ offsetReachable 0x10 up = true) ∧
    isWord { host 0x10 [] with len := 8 } = false ∧
    (0x20 / 4 ≠ 0 ∧ 0x20 / 4 ≠ 4 ∧ svcDecodes up = true ∧ up.svc.owned = true ∧ up.svc.ownerRid ≠ 8) ∧
    (svcDecodes unclaimed = true ∧ unclaimed.svc.owned = false) ∧
    (svcClaimGate 7 true 0x50000 up = (true, up) ∧ (inBuffer 0x50000 0x50000 4 && false) = false ∧ svcClaimGate 7 true 0x41008 up = (true, up) ∧
      isWord (host 0x41008 [1, 0, 0, 0]) = true ∧ offsetDecoded 0x41008 up = true) ∧
    (awake up = true ∧ isWord { host 0x10 [] with who := .firmware } = true ∧ offsetReachable 0x2000100 lost0 = false) ∧
    (dieOfOff 0x2000100 = some 24 ∧ lost0.ctl.spineDead.getLsbD (stationOf 24) = true ∧ up.ctl.spineDead = 0) ∧
    (∃ off id, dmaAt off = none ∧ leafAt off = some (id, false) ∧ id ≠ 159) := by
  and_intros <;> first | decide | rfl | exact ⟨0x2000100, _, by decide, rfl, by decide⟩

theorem wit_GoLatchesTheCommand :
    ((host 0x41000 [3, 1, 0, 0]).offset = 0x41000 ∧ isWord (host 0x41000 [3, 1, 0, 0]) = true ∧ svcClaimGate 7 true 0x41000 up = (true, up) ∧
      bitAt (rd [3, 1, 0, 0] 0 4) 8 = true ∧ up.cfg.busy = false) ∧
    (svcClaimGate 7 true 0x41000 (fw 3 []) = (true, fw 3 []) ∧ (fw 3 []).cfg.busy = true) ∧
    (bitAt (rd [3, 0, 0, 0] 0 4) 8 = false ∧ svcClaimGate 7 true 0x41004 (fw 3 []) = (true, fw 3 []) ∧ isWord (host 0x41004 [1, 0, 0, 0]) = true) ∧
    ((host 0x50000 [1]).allEnables = true ∧ inBuffer 0x50000 0x50000 4 = true ∧ svcClaimGate 7 true 0x50000 up = (true, up)) := by
  and_intros <;> first | decide | rfl

def failed : State := { up with cfg := { up.cfg with phase := 8 } }

theorem wit_CommandsAreAdmittedAndAnswered :
    failed.cfg.phase = 8 ∧ State.reset.cfg.phase < 6 ∧ (6 ≤ up.cfg.phase ∧ up.cfg.phase ≠ 8 ∧ fwDefined 5 = false ∧ fwLenOk 4 [1] = false) ∧
    (∃ c, fwCmd (fw 4 [1]) 4 = some c ∧ fwGate (fw 4 [1]) 4 c.req = some stMalformed) ∧
    (∃ c, awake (fw 4 []) = true ∧ (fw 4 []).cfg.latched = some c ∧ c.answer = none ∧ fwDefined c.opcode = true) ∧
    (∃ c, awake (fw 5 []) = true ∧ (fw 5 []).cfg.latched = some c ∧ c.answer = none ∧ fwDefined c.opcode = false ∧ ready (fw 5 []) = true) ∧
    (∃ c, awake (answerFw stOk [1] (fw 4 [])) = true ∧ (answerFw stOk [1] (fw 4 [])).cfg.latched = some c ∧ c.answer = some (stOk, [1])) ∧
    16 ≤ (fwFull 0x40 []).cfg.outstanding.length ∧ (fw 0x40 []).cfg.outstanding.length < 16 ∧
    (∃ d, (fwFull 0x40 []).cfg.outstanding.find? (fun x => x.opcode == 0x40 && x.obj == 0) = some d) := by
  and_intros <;> first | decide | exact ⟨_, rfl⟩ | exact ⟨_, rfl, by decide⟩ | exact ⟨_, by decide, rfl, by decide⟩

def asleep : State := { up with pwr := { up.pwr with mode := .bmkOnly, sleepReq := .low, sleep := .asleep 0 } }

theorem wit_I2cReadsAndNeverWrites : up.pwr.mode = .running ∧ asleep.pwr.mode = .bmkOnly ∧ 4 ≤ [0x40, 0, 2, 0, 9].length ∧ rd [0x40, 0, 2, 0, 9] 0 4 % 4 = 0 ∧
    (0x58 : BitVec 7) = i2cAddress up ∧ (0x59 : BitVec 7) ≠ 0x58 + up.bmk.i2cAddr.setWidth 7 ∧ rd [1, 0, 0, 0] 0 4 % 4 ≠ 0 ∧
    State.reset.pwr.mode = .aonReset ∧ (i2cReadable up 0x20040 = true → offsetReachable 0x20040 up = true) ∧
    i2cReadable up 0x10 = true ∧ offsetReachable 0x10 up = true ∧ i2cReadable up 0x60000 = false := by decide

def dueSoft : State := { up with pwr := { up.pwr with resetDue := some (20000000, .soft) } }

theorem wit_ResetsClearAndKeep : State.reset.pwr.mode = .aonReset ∧ up.pwr.mode = .running ∧ asleep.pwr.mode = .bmkOnly ∧
    dueSoft.pwr.resetDue = some (20000000, .soft) ∧ ¬ now dueSoft < 20000000 ∧
    (∃ c, fwCmd (fw 3 []) 3 = some c ∧ fwGate (fw 3 []) 3 c.req = none) ∧ (fw 3 []).pwr.resetDue = none := by
  and_intros <;> first | decide | exact ⟨_, rfl, by decide⟩

def env : BootEnv :=
  { rails := [(.ctl, 750)], sysRefclk := true, sensors := [160, 399], rom0Ok := true, rom1Ok := true
    nvm := { sfdp := true, sizeBytes := 0x4410000, erase64K := true, octal := true }
    avsFails := List.replicate 16 0, devices := List.replicate 48 (some 16), badCells := [], badRegions := [], tiers := [none, none, none, none]
    ethUp := List.replicate 8 true, sealOk := true }

def inReset : State := { up with pwr := { aonResetN := true, mode := .mainReset } }

/- The clause in which a slot passes has no concrete witness: a section's signature is checked by an opaque function (log 5). -/
theorem wit_RomHoldsThenBoots :
    (inReset.pwr.mode = .mainReset ∧ inReset.jtag.inEffect = false ∧ ({ inReset with jtag := { ir := .extest, inEffect := true } } : State).jtag.inEffect = true) ∧
    asleep.pwr.mode = .bmkOnly ∧
    (awake up = true ∧ ({ up with pwr := { up.pwr with romHold := true } } : State).pwr.romHold = true ∧ holdOver env up = true) ∧
    holdOver { env with sensors := [400] } up = false ∧ holdOver { env with rails := [(.ctl, 700)] } up = false ∧ ({ env.nvm with sfdp := false } : NvmInfo).sfdp = false ∧
    (env.nvm.sfdp = true ∧ env.nvm.erase64K = true ∧ 0x4410000 ≤ env.nvm.sizeBytes ∧ (slotCheck up 0).1 ≠ 8 ∧ (slotCheck up 1).1 ≠ 8) := by decide

def woken : State := { asleep with bmk := { asleep.bmk with wakeCtrl := 0x01, wakeTime := 20000000 } }
def armed : State := { fw 0x23 [] with bmk := { up.bmk with wakeCtrl := 0x01 } }
def quiescing : State := { up with pwr := { up.pwr with sleep := .quiescing 10000000 9 } }

theorem wit_SleepSavesAndComparatorsWake :
    (∃ c, fwCmd (fw 0x23 []) 0x23 = some c ∧ fwGate (fw 0x23 []) 0x23 c.req = none ∧ sleepRefused (fw 0x23 []) = true) ∧
    (∃ c, fwCmd armed 0x23 = some c ∧ fwGate armed 0x23 c.req = none ∧ sleepRefused armed = false ∧ armed.cfg.outstanding.length < 16 ∧
      armed.pwr.sleep = .none) ∧
    (awake quiescing = true ∧ quiescing.pwr.sleep = .quiescing 10000000 9 ∧ quiesced quiescing = true ∧ now quiescing ≤ 10000000 + 10000000 ∧ 9999999 + 10000000 < now quiescing) ∧
    quiesced { quiescing with slu := { cmds := [{ entry := 0, code := 1, count := 0, msg := msg1 }] } } = false ∧
    (awake { up with pwr := { up.pwr with sleep := .asleep 19000000 } } = true ∧ 19000000 + 1000000 ≤ now up ∧ now up < 19000001 + 1000000 ∧
      timeHolds up = false ∧ timeHolds woken = true) ∧
    (woken.pwr.mode = .bmkOnly ∧ (wakeHolds woken .time 0).2 = true ∧ (wakeHolds asleep .time 0).2 = false) ∧
    (wakeHolds { asleep with bmk := { asleep.bmk with wakeCtrl := 0x08 } } .pin 4).2 = true ∧
    (wakeHolds { asleep with bmk := { asleep.bmk with wakeCtrl := 0x08 } } .pin 3).2 = false ∧
    (wakeHolds { asleep with bmk := { asleep.bmk with wakeCtrl := 0x7090004 } } .supply 1802).2 = false := by
  and_intros <;> first | decide | exact ⟨_, rfl, by decide⟩

theorem wit_JtagLoadsAndHolds : tapWorks up = true ∧ up.pwr.extestHold = false ∧ tapWorks asleep = false ∧ asleep.pwr.extestHold = false ∧
    ((Instr.idcode, JtagIr.idcode) = (.idcode, .idcode)) ∧ ((Instr.highz, JtagIr.highz) = (.highz, .highz)) := by decide

def rgns (f : Rgn → Rgn) : State := { up with rgn := (List.range 16).map fun r => (r, f { target := 34, vddSet := 150 }) }

theorem wit_ThrottleFollowsTheTemperature :
    (throttled {} 340).cap85 = true ∧ (throttled {} 339).cap85 = false ∧ (throttled { cap85 := true } 329).cap85 = true ∧
    (throttled { cap85 := true } 328).cap85 = false ∧ (throttled {} 380).cap95 = true ∧ (throttled { cap95 := true } 368).cap95 = false ∧
    ((awake (rgns id) = true ∧ (rgnOf (rgns id) 0).fenced = false) ∧ throttleLevel (rgnOf (rgns id) 0) < throttleLevel (throttled (rgnOf (rgns id) 0) 340) ∧
      throttleLevel (throttled (rgnOf (rgns id) 0) 340) = 1 ∧ throttleLevel (throttled (rgnOf (rgns id) 0) 380) = 2) ∧
    (rgnOf (rgns fun g => { g with fenced := true }) 0).fenced = true := by decide

def skewed : State := { rgns id with pair := [(0, { supplyOn := true, clampAt := some 19000000, mvLow := 900, mvHigh := 749 })] }

theorem wit_SideLinkFindsSkew :
    (awake skewed = true ∧ pairInForce skewed 0 = true) ∧ pairInForce (rgns fun g => { g with gated := true }) 0 = false ∧
    ratioOk 34 4 = true ∧ ratioOk 34 3 = false ∧
    ((pairOf skewed 0).supplyOn = true ∧ 150 < supplyDiff (pairOf skewed 0) ∧ 19000000 + 1000000 ≤ now skewed) := by decide

theorem wit_PointsMoveClockAndSupply :
    (5 ≤ (rgnOf (rgns fun g => { g with point := 5 }) 0).point) ∧
    ((rgnOf (rgns fun g => { g with vddSet := 144 }) 0).point < 3 ∧
      trackMv (rgnOf (rgns fun g => { g with vddSet := 144 }) 0) (now up) < pointMv (rgns fun g => { g with vddSet := 144 }) 3) ∧
    (let u : Ramp := { fromMv := 720, toMv := 750, start := 19997000, thenPoint := some 3 }
     let s := rgns fun g => { g with ramp := some u }
     (rgnOf s 0).ramp = some u ∧ u.start ≤ now s ∧ awake s = true ∧ u.start + 100 * (max u.fromMv u.toMv - min u.fromMv u.toMv) ≤ now s ∧
     now s < (u.start + 1) + 100 * (max u.fromMv u.toMv - min u.fromMv u.toMv)) ∧
    (awake (rgns id) = true ∧ (rgnOf (rgns id) 0).fenced = false) ∧ awake State.reset = false := by decide

theorem wit_ClampsApplyFarthestFirst :
    (awake (rgns id) = true ∧ inForce (rgns id) 0 = true ∧ goalPoint (rgns id) 0 = (rgnOf (rgns id) 0).point ∧
      (rgnOf (rgns id) 0).point < unclamped (rgnOf (rgns id) 0) ∧ (rgnOf (rgns id) 0).lastRaise + 1000000 ≤ now (rgns id) ∧
      ((rgnOf (rgns id) 0).lim.all fun e => decide ((rgnOf (rgns id) 0).point + 1 ≤ e.2) || liftable (rgns id) 0 e.1) = true ∧
      stepFits (rgns id) 0 ((rgnOf (rgns id) 0).point + 1) = true) ∧
    (let s := rgns fun g => { g with lastRaise := 19000001 }
     now s < (rgnOf s 0).lastRaise + 1000000) := by decide

def idle : State := { rgns (fun g => { g with point := 5 }) with cap := { overCap := true, belowSince := some 10000000 } }

theorem wit_PowerCapAndQuietState :
    (awake idle = true ∧ (idle.cfg.img.map (·.powerCap)).getD 1150 < 1151 ∧ idle.cap.overCap = true ∧ up.cap.overCap = false) ∧
    (1150 ≤ (idle.cfg.img.map (·.powerCap)).getD 1150 ∧ 100 * 1092 ≤ 95 * (idle.cfg.img.map (·.powerCap)).getD 1150 ∧
      ¬ 100 * 1093 ≤ 95 * (idle.cfg.img.map (·.powerCap)).getD 1150 ∧ idle.cap.belowSince.getD (now idle) + 10000000 ≤ now idle) ∧
    (inForce idle 0 = true ∧ 0 < goalPoint idle 0) ∧
    (ready idle = true ∧ (idle.cfg.img.map (·.quietIdle)).getD 500 ≠ 0 ∧ regionIdle idle 0 = true) ∧
    (let s := { rgns (fun g => { g with gated := true }) with dma := [(0, { pending := true })] }
     awake s = true ∧ (rgnOf s 0).fenced = false ∧ (rgnOf s 0).gated = true ∧ workWaits s 0 = true ∧ regionIdle s 0 = false) ∧
    workWaits idle 0 = false := by decide

def fatal : State := { up with ctl := { up.ctl with fatal := some 2, spineDead := 1 } }

theorem wit_FatalErrorStopsTheNode : up.ctl.fatal = none ∧ fatal.ctl.fatal ≠ none ∧ awake up = true ∧ up.ctl.spineDead.getLsbD (5 : Fin 6) = false ∧
    fatal.ctl.spineDead.getLsbD (0 : Fin 6) = true := by decide

theorem wit_RegionsAreFencedOnce :
    (awake (rgns id) = true ∧ rgnFenced (rgns id) 0 = false ∧ ∀ x : Fin 16, rgnFenced (rgns id) x = false) ∧
    (let s : State := { up with rgn := [(15, { fenced := true })] }
     awake s = true ∧ rgnFenced s 0 = false ∧ rgnFenced s 15 = true) ∧
    (774 ≤ railMax .ctl ∧ railBad up .ctl 774 = true ∧ railBad up .ctl 773 = false ∧ railBad up .aon 1619 = true ∧ railBad up .aon 1620 = false ∧
      railBad (rgns id) (.rgn 0) 801 = true ∧ railBad (rgns id) (.rgn 0) 800 = false) := by decide

theorem wit_LostDiesAndClocks : (awake up = true ∧ up.ctl.netLost.getLsbD (3 : Fin 4) = false) ∧ (tierOf up 0).dieLost = false ∧ up.pwr.sysClk = true ∧
    awake State.reset = false := by decide

theorem wit_TheStandbyTakesOver : up.cfg.standbyOk = true ∧ awake up = true ∧ up.ctl.missed = 0 ∧
    ({ up with cfg := { up.cfg with standbyOk := false } } : State).cfg.standbyOk = false ∧ up.ctl.fatal = none ∧
    (let s : State := { up with ctl := { up.ctl with missed := 4, missAt := 19990000 } }
     s.ctl.missAt + 10000 ≤ now s ∧ 5 ≤ (if now s < s.ctl.missAt + 20000 then s.ctl.missed + 1 else 1)) ∧
    (let s : State := { up with pwr := { up.pwr with resetDue := some (20000000, .soft) } }
     s.pwr.resetDue = some (20000000, .soft)) := by decide

def chan (c : Chan) : State := { up with chan := [(0, c)] }

theorem wit_ChannelsAreKept :
    (awake up = true ∧ (chanSt up 0).lost = false ∧ 0 + 10000000 ≤ now up ∧ now up < 10000001 + 10000000) ∧
    ((chanSt (chan { debt := 7 }) 0).debt < 8 ∧ ¬ (chanSt (chan { debt := 8 }) 0).debt < 8 ∧ (chanSt (chan { debt := 8 }) 0).atom = none) ∧
    (now up < ({ refNext := 20000001 } : Chan).refNext ∧ ({ refNext := 20000000 } : Chan).refNext ≤ now up ∧ 0 < trrefd { up with cfg := { up.cfg with
      img := some { img with trrefd := 5 } } }) ∧
    ((chanSt (chan { crc := 2 }) 0).crc + 1 < 4 ∧ 4 ≤ (chanSt (chan { crc := 3 }) 0).crc + 1 ∧ (chanSt (chan { crc := 3 }) 0).retraining = false) ∧
    (chanSt (chan { retraining := true, retrainFails := 1 }) 0).retraining = true ∧
    (chanSt (chan { retraining := true }) 0).retrainFails = 0 ∧ 1 ≤ (chanSt (chan { retraining := true, retrainFails := 1 }) 0).retrainFails ∧
    awake State.reset = false := by decide

def cmd1 : UnitCmd := { op := 1, job := .scrub }
def issued (n : Nat) : State :=
  { chan { issued := [cmd1], queue := List.replicate n cmd1 } with rgn := [(0, { unitMode := true, modeAck := true })] }

theorem wit_UnitsTakeCommandsInCompute :
    ((Instr.appendTail 0, 1) = (.appendTail 0, 1) ∧ (chanSt (issued 15) 0).issued.find? (fun u => u.op == 1) = some cmd1) ∧
    ((chanSt (chan { issued := [cmd1], lost := true }) 0).lost = true) ∧
    ((chanSt (chan { issued := [cmd1] }) 0).lost = false ∧ (rgnOf (chan { issued := [cmd1] }) 0).fenced = false ∧
      (rgnOf (chan { issued := [cmd1] }) 0).unitMode = false) ∧
    ((rgnOf (issued 16) 0).unitMode = true ∧ (rgnOf (issued 16) 0).modeAck = true ∧ 16 ≤ (chanSt (issued 16) 0).queue.length ∧
      (chanSt (issued 15) 0).queue.length < 16) ∧
    (chanSt up 0).issued.find? (fun u => u.op == 1) = none ∧ (awake up = true ∧ rgnFenced up 0 = false ∧ tget 0 up.work.scrubDue 0 ≤ now up) ∧
    now up < tget 0 ({ up with work := { scrubDue := [(0, 20000001)] } } : State).work.scrubDue 0 := by decide

def running : State := chan { run := some { cmd := cmd1, todo := [(0, [1])] } }
def atom3 : Atom := { entry := 3, chunks := [(0, [1])], start := 0, job := .append 0 }
def inAtom : State := { chan { atom := some atom3 } with cfg := { up.cfg with img := some imgR } }

theorem wit_AtomsAreJournalled :
    (awake running = true ∧ (rgnOf running 0).gated = false ∧ atomMayStart (payChan 0 running) (payDown running (chanSt running 0)) = true ∧
      (chanSt running 0).run = some { cmd := cmd1, todo := [(0, [1])] } ∧ ([(0, [1])] : List (Nat × Bytes)) ≠ []) ∧
    (atomMayStart (payChan 0 inAtom) (payDown inAtom (chanSt inAtom 0)) = false ∧ (rgnOf (rgns fun g => { g with gated := true }) 0).gated = true) ∧
    (chanSt inAtom 0).atom.isSome = true ∧ (awake inAtom = true ∧ (chanSt inAtom 0).atom = some atom3 ∧ atom3.job ≠ .scrub ∧
      ({ atom3 with job := .scrub } : Atom).job = .scrub ∧ (chanSt inAtom 0).run = none) ∧
    (lineMet inAtom .clean = .clean ∧ lineMet inAtom (.uncorrectable 0x5000000) = .uncorrectable 0x5000000 ∧ awake State.reset = false) ∧
    (let j : Journal := { st := .abandoned, chunks := [(0, [1])] }
     let s := chan { journal := [(3, j)] }
     awake s = true ∧ tlook (chanSt s 0).journal 3 = some j ∧ j.st = .abandoned ∧ tlook (chanSt s 0).journal 4 = none) := by decide

/-- Parameters of SEQ_OPEN: the tag, the fingerprint and the descriptor. -/
def openP (tag : Nat) (d : Bytes) : Bytes := leBytes 8 tag ++ leBytes 8 1 ++ d
def open7 : State := { up with slu := (act 6 (openP 7 (desc 0))).slu, key := (act 6 []).key, cfg := { up.cfg with img := some imgR } }

theorem wit_DirectoryCommandsAnswer :
    (let s := seqAct 0 { st := .fast } 6 (openP 7 (desc 0))
     ∃ x k p, startedAct s 0 6 = some (x, k, p) ∧ lookSeq x.tenant (rd p 0 8) s = (some 0, s)) ∧
    (∃ x k p, startedAct open7 0 6 = some (x, k, p) ∧ lookSeq x.tenant (rd p 0 8) open7 = (none, open7) ∧ loadingTag open7 x.tenant (rd p 0 8) = false ∧
      dProtected (slice p 16 64) = isProtected open7 x.tenant ∧ descBad (slice p 16 64) = false ∧ allocSlot open7 = some 0 ∧
      (makeSeq 0 x.tenant (rd p 0 8) (rd p 8 8) (now open7) .active (slice p 16 64) open7).isSome = true ∧
      (let s := { open7 with cfg := { open7.cfg with img := none } }
       allocSlot s = some 0 ∧ (makeSeq 0 x.tenant (rd p 0 8) (rd p 8 8) (now s) .active (slice p 16 64) s).isSome = false) ∧
      allocSlot { open7 with rgn := (List.range 16).map fun r => (r, { fenced := true }) } = none) ∧
    dProtected (desc 2) ≠ isProtected up 5 ∧ descBad [] = true ∧
    (let s := seqAct 0 { st := .fast } 7 (leBytes 8 7 ++ [1, 0])
     ∃ x k p, startedAct s 0 7 = some (x, k, p) ∧ lookSeq x.tenant (rd p 0 8) s = (some 0, s) ∧ (seqOf s 0).st = .active ∧
       tensorBad (seqOf s 0).desc (rd p 8 1) (bits (rd p 9 1) 1 0) = false ∧ bitAt (rd p 9 1) 2 = false ∧
       (tenOf (seqOf s 0) (4 * rd p 8 1 + bits (rd p 9 1) 1 0)).st ≠ .absent ∧ (tenOf (seqOf s 0) 2).st = .absent ∧
       lookSeq x.tenant 8 s = (none, s) ∧ tensorBad (seqOf s 0).desc 2 0 = true) ∧
    (let s := seqAct 0 {} 7 (leBytes 8 7 ++ [0, 0])
     ∃ x k p, startedAct s 0 7 = some (x, k, p) ∧ lookSeq x.tenant (rd p 0 8) s = (some 0, s) ∧ (seqOf s 0).st = .active ∧
       tensorBad (seqOf s 0).desc (rd p 8 1) (bits (rd p 9 1) 1 0) = false ∧ (tenOf (seqOf s 0) (4 * rd p 8 1 + bits (rd p 9 1) 1 0)).st = .absent ∧
       bitAt (rd p 9 1) 2 = false) ∧
    (let s := seqAct 0 {} 8 (leBytes 8 7)
     ∃ x k p, startedAct s 0 8 = some (x, k, p) ∧ lookSeq x.tenant (rd p 0 8) s = (some 0, s) ∧ (seqOf s 0).st = .active) ∧
    (let s := seqAct 0 {} 9 (leBytes 8 7)
     ∃ x k p, startedAct s 0 9 = some (x, k, p) ∧ lookSeq x.tenant (rd p 0 8) s = (some 0, s)) ∧
    startedAct up 0 6 = none := by
  and_intros <;> first | decide | exact ⟨_, _, _, rfl, by decide +kernel⟩

def damaged : State := { seqUp 0 {} with dir := [(0, { seqOne 0 {} with tenant := 6, st := .releasing })] }

theorem wit_SearchFreeAndShadow :
    (let s := seqAct 0 {} 0xA (leBytes 1 0)
     ∃ x k p, startedAct s 0 0xA = some (x, k, p) ∧ x.fwTag = none) ∧
    (let s : State := { up with slu := { inst := [(0, { inst1 0xA [] with fwTag := some 1 })] } }
     ∃ x k p, startedAct s 0 0xA = some (x, k, p) ∧ x.fwTag.isSome = true) ∧
    searchHits up 5 false 7 (2 ^ 64 - 1) 0xFFFFF = [] ∧ searchHits (seqUp 0 {}) 5 false 7 (2 ^ 64 - 1) 0xFFFFF = 0 :: [] ∧
    (let q := seqOf (seqUp 0 {}) 0
     q.cam.tenant = q.tenant ∧ q.cam.tag = q.tag ∧ q.shadow ≠ {}) ∧
    ((seqOf damaged 0).cam.tenant ≠ (seqOf damaged 0).tenant ∧ (seqOf damaged 0).shadow ≠ {}) ∧ 0 ∈ searchHits (seqUp 0 {}) 5 false 7 0 0xFFFFF ∧
    (findSeq (seqUp 0 {}) 5 7 = some 0 ∧ findSeq up 5 7 = none ∧ findSeq damaged 5 7 = some 0) ∧
    ({ up with sto := { up.sto with old := [{ key := 3, deep := false, before := 1 }] } } : State).sto.old.find? (fun o => o.key == 3) =
      some { key := 3, deep := false, before := 1 } ∧
    (awake up = true ∧ up.work.shadowNext = (0 : Fin 16).val ∧ up.work.shadowAt ≤ now up) ∧ up.work.shadowNext ≠ (1 : Fin 16).val ∧
    (seqOf damaged 0).cam = (seqOf damaged 0).shadow ∧
    (let s : State := { up with dir := [(0, { seqOne 0 {} with cam := {} })] }
     (seqOf s 0).cam ≠ (seqOf s 0).shadow ∧ (seqOf s 0).shadow ≠ {}) ∧ (∀ b ∈ [(1 : Fin 16384)], b.val ≠ 0 % 16384) := by
  and_intros <;> first | decide +kernel | (intro b hb; simp at hb; subst hb; simp) | exact ⟨_, _, _, rfl, by decide⟩

/-- `s` with an expander of 1 GiB on port 0. -/
def tiered (s : State) : State := { s with tier := [(0, { inService := true, rate := 4, width := 8, capUsed := 1, capDevice := 1 })] }
def backedT : Ten := { st := .deep, backed := true, deep := [(0, { valid := true, port := 0, dpa := 0 })] }

theorem wit_TensorsMoveBetweenTiers :
    (let s := tiered (seqAct 0 { st := .fast } 0xB (leBytes 8 7 ++ [0, 4]))
     ∃ x k p, startedAct s 0 0xB = some (x, k, p) ∧ lookSeq x.tenant (rd p 0 8) s = (some 0, s) ∧ (seqOf s 0).st = .active ∧ bitAt (rd p 9 1) 2 = true ∧
       (tenOf (seqOf s 0) (4 * rd p 8 1 + bits (rd p 9 1) 1 0)).st = .fast ∧ (backTensor 0 0 s).isSome = true ∧
       (backTensor 0 0 { s with cfg := { s.cfg with img := none } }).isSome = false) ∧
    (let s := tiered (seqAct 0 backedT 0xB (leBytes 8 7 ++ [0, 0]))
     ∃ x k p, startedAct s 0 0xB = some (x, k, p) ∧ lookSeq x.tenant (rd p 0 8) s = (some 0, s) ∧ (seqOf s 0).st = .active ∧ bitAt (rd p 9 1) 2 = false ∧
       (tenOf (seqOf s 0) (4 * rd p 8 1 + bits (rd p 9 1) 1 0)).st = .deep ∧ (reservePromotion 0 0 (backedPages s 0 0) [] s).isSome = true) ∧
    (tenOf (seqOf (seqUp 0 { st := .migrating }) 0) 0).st = .migrating ∧ (tenOf (seqOf (seqUp 0 {}) 0) 0).st = .absent ∧
    (seqOf damaged 0).st ≠ .active ∧
    (let s := { tiered (seqUp 0 { st := .migrating, toDeep := true }) with work := { migs := [(0, { inst := none, reserved := [] })] } }
     tlook s.work.migs (tenKey 0 0) = some { inst := none, reserved := [] } ∧ (tenOf (seqOf s 0) 0).toDeep = true ∧
       rankWaits s (chansOf s (migChunks s 0 0 { inst := none, reserved := [] })) = false ∧
       (chansOf s (migChunks s 0 0 { inst := none, reserved := [] })).any (chanHeld s) = false ∧
       redoFailed s (.mig (tenKey 0 0)) = false ∧ abandonedIn s (migChunks s 0 0 { inst := none, reserved := [] }) = none ∧
       lineMet s (migLines .done) = .clean ∧ ((copiedPages s 0 0).any fun p => leafBeyond s p.2) = false ∧
       (∀ p, (.done : MigOutcome) ≠ .poison p ∧ (.done : MigOutcome) ≠ .timeout p) ∧
       (copyAllDown 0 0 (livePages s 0 0) s).1 = true ∧ (copyAllDown 0 0 (livePages s 0 0) { s with tier := [] }).1 = false) ∧
    (tenOf (seqOf (seqUp 0 { st := .migrating }) 0) 0).toDeep = false ∧
    tlook up.work.migs (tenKey 0 0) = none ∧
    (let s := seqAct 0 { st := .fast } 0xC (leBytes 8 7 ++ [0, 0x20])
     ∃ x k p, startedAct s 0 0xC = some (x, k, p) ∧ lookSeq x.tenant (rd p 0 8) s = (some 0, s) ∧ (seqOf s 0).st = .active ∧
       (tenOf (seqOf s 0) (4 * rd p 8 1 + bits (rd p 9 1) 1 0)).st ≠ .absent) := by
  and_intros <;> first | decide +kernel | exact ⟨_, _, _, rfl, by decide +kernel⟩

def page0 : PageId := { ten := { slot := 0, layer := 0, kind := 0 }, group := 0, page := 0 }

/-- Where no range has a line code, the lines that firmware reads for itself are clean, whatever the code would find (log 92). -/
theorem line_plain {s : State} (h : s.cfg.img = none) (o : LineOutcome) : lineMet s o = .clean := by
  cases o <;> simp [lineMet, codedAt, isCoded, rangesOf, h]

theorem read_plain {s : State} {who : Reader} {l : List Nat} (h : s.cfg.img = none) (hf : redoFailed s who = false)
    (hh : (chansOf s l).any (chanHeld s) = false) (ha : abandonedIn s l = none) (o : LineOutcome) : (readChunks who l o s).1 = .clean := by
  have ht : ∀ l : List Nat, touchCodes l s = s := by
    intro l
    induction l with
    | nil => rfl
    | cons a l ih => simpa [touchCodes, touchCode, codedAt, isCoded, rangesOf, h] using ih
  unfold readChunks
  rw [hf, hh, ha]
  simp [ht, line_plain h]

/-- A page whose copy reads it clean: the other outcomes of a line are free values (log 92). -/
def plain (s : State) : State := { s with cfg := {} }
theorem wit_CopyReads : (copyRead 0 0 0 (mkLeaf 0x6900000 true false) (plain (seqUp 0 { st := .deep }))).1 = true := by
  have h := read_plain (s := (takeFree (plain (seqUp 0 { st := .deep }))).2) (who := .page 0 0 0)
    (l := ownChunks (plain (seqUp 0 { st := .deep })) 0 0 0 (mkLeaf 0x6900000 true false)) rfl (by decide +kernel) (by decide +kernel)
    (by decide +kernel) (freeLine 0)
  unfold copyRead
  rw [if_neg (by decide +kernel)]
  generalize hr : readFree _ _ _ = r
  obtain ⟨a, u⟩ := r
  have ha : a = .clean := (congrArg Prod.fst hr).symm.trans h
  subst ha
  rfl

theorem wit_TierPolicyActs :
    ((∀ p, p < 4 → (tierOf up p).inService = false) ∧ ready State.reset = false) ∧ ready up = true ∧
    (let s := { tiered up with sto := { deep := [(0, { size := 2 ^ 30, use := .old 0 0 0, tenant := 0 })] } }
     ready s = true ∧ (tierOf s 0).inService = true ∧ (∀ p, p < 4 → (tierOf s p).inService = true → deepBelow s p 2 = true) ∧ deepBelow s 0 4 = true) ∧
    deepBelow (tiered up) 0 2 = false ∧
    (let s := tiered (seqUp 0 { st := .fast })
     ready s = true ∧ (rgnOf s 0).fenced = false ∧ localBytes s 0 * 4 ≤ 100 * localFree s 0 ∧
       (let u := { s with cfg := { s.cfg with img := some { imgR with fastLow := 101 } } }
        100 * localFree u 0 < localBytes u 0 * 101) ∧
       anyFrees s 0 [1] = false ∧ tensorFrees s 0 0 0 ≠ 0 ∧ (autoOne 0 0 s).isSome = true ∧ (autoOne 0 0 { s with cfg := up.cfg }).isNone = true ∧
       tensorFrees s 0 4 0 = 0) ∧
    (let s := { seqUp 0 {} with dir := [(0, { seqOne 0 {} with ten := [(0, { st := .fast, hint := 1 })] })] }
     anyFrees s 0 [1] = true ∧ anyFrees s 0 [0, 2] = false) ∧
    (let t : Ten := { st := .fast, backed := true, deep := [(0, { valid := true, dirty := false, port := 0, dpa := 0 })] }
     (tenOf (seqOf (seqUp 0 t) 0) 0).deep = [(0, { valid := true, dirty := false, port := 0, dpa := 0 })] ∧ (tenOf (seqOf (seqUp 0 t) 0) 0).st = .fast ∧
       (tenOf (seqOf (seqUp 0 t) 0) 0).backed = true ∧ ({ valid := true, dirty := true, port := 0, dpa := 0 } : DeepEnt).dirty = true) ∧
    ((findDeep (tiered (seqUp 0 { st := .deep })) 0 16384).isSome = true ∧ findDeep (seqUp 0 { st := .deep }) 0 16384 = none) ∧
    (let s := seqUp 0 { st := .deep }
     pageOf s page0 = some (0, 0, 0) ∧ leafOf s 0 0 0 = .leaf (mkLeaf 0x6900000 true false) ∧ (tenOf (seqOf s 0) 0).st = .deep ∧
       pageBelow (seqOf s 0).desc 0 (seqOf s 0).committed = true ∧ (deepEnt (tenOf (seqOf s 0) 0) 0).valid = false ∧
       (copyRead 0 0 0 (mkLeaf 0x8900000 true false) s).1 = false) ∧
    (let s := seqUp 8 { st := .fast }
     pageOf s page0 = some (0, 0, 0) ∧ dStripeFull (seqOf s 0).desc = true ∧ (seqOf s 0).st = .active ∧ (tenOf (seqOf s 0) 0).st = .fast ∧
       leafOf s 0 0 0 = .leaf (mkLeaf 0x6900000 true false) ∧ leafLocal (mkLeaf 0x6900000 true false) = true ∧
       leafDelta (mkLeaf 0x6900000 true false) = false ∧ pageBelow (seqOf s 0).desc 0 (seqOf s 0).committed = true ∧
       (findStriped s (homeOf (seqOf s 0).desc 0 0 0) (dPageSize (seqOf s 0).desc) (dLineCode (seqOf s 0).desc)).isSome = true) ∧
    dStripeFull (seqOf (seqUp 0 {}) 0).desc = false ∧ pageOf (seqUp 0 {}) { page0 with group := 1 } = none := by
  and_intros <;> decide +kernel

def rwP : Bytes := [0, 0, 0, 0, 0, 0, 0, 0] ++ leBytes 8 7 ++ leBytes 8 7
def rwProg (s : State) : State := { s with prog := [(0, { st := .installed, tenant := 5 })] }
def deltaSt (flags : Nat) : State :=
  { seqAct flags { st := .fast } 0xD ([1, 0, 0, 0, 0, 0, 0, 0] ++ leBytes 8 7 ++ leBytes 8 8) with
    dir := [(0, seqOne flags { st := .fast }), (1, { seqOne flags { st := .fast } with cam := { valid := true, tenant := 5, tag := 8 }, tag := 8 })] }

theorem wit_RewritesAndLeaves :
    (let s := rwProg (seqAct 0 { st := .fast } 0xD rwP)
     ∃ x k p, startedAct s 0 0xD = some (x, k, p) ∧ bitAt (rd p 0 1) 0 = false ∧ lookSeq x.tenant (rd p 8 8) s = (some 0, s) ∧ (seqOf s 0).st = .active ∧
       underLoad s 0 = false ∧ (scaleOf (seqOf s 0).desc ((rd p 16 1 * 4 + bits (rd p 17 1) 1 0) % 4)).isSome = false ∧
       (tenOf (seqOf s 0) 4).st = .fast ∧ (progCheck x.tenant (rd p 2 1) (rd p 4 2) 0xD s).1 = none ∧
       (progCheck x.tenant (rd p 2 1) (rd p 4 2) 0xD (seqUp 0 {})).1 = some stStateConflict) ∧
    underLoad { seqUp 0 {} with datum := { loadOut := [(0, { comp := 0, dst := 2, slot := 0 })] } } 0 = true ∧
    (∃ x k p, startedAct (deltaSt 4) 0 0xD = some (x, k, p) ∧ bitAt (rd p 0 1) 0 = true ∧ lookSeq x.tenant (rd p 8 8) (deltaSt 4) = (some 0, deltaSt 4) ∧
      bitAt (rd p 25 1) 2 = false ∧ lookSeq x.tenant (rd p 16 8) (deltaSt 4) = (some 1, deltaSt 4) ∧ dDeltaOk (seqOf (deltaSt 4) 0).desc = true ∧
      dProtected (seqOf (deltaSt 4) 1).desc = false ∧ descAgree (seqOf (deltaSt 4) 0).desc (seqOf (deltaSt 4) 1).desc = true ∧
      (seqOf (deltaSt 4) 1).st = .active ∧ (seqOf (deltaSt 4) 0).st = .active ∧
      (tenOf (seqOf (deltaSt 4) 0) (rd p 24 1 * 4 + bits (rd p 25 1) 1 0)).st = .fast) ∧
    dDeltaOk (seqOf (deltaSt 0) 0).desc = false ∧ descAgree (desc 4) (desc 5) = false ∧
    (let s := seqAct 4 { st := .fast } 0xD ([1, 0, 0, 0, 0, 0, 0, 0] ++ leBytes 8 7 ++ leBytes 8 0 ++ [0, 4])
     ∃ x k p, startedAct s 0 0xD = some (x, k, p) ∧ bitAt (rd p 0 1) 0 = true ∧ lookSeq x.tenant (rd p 8 8) s = (some 0, s) ∧ bitAt (rd p 25 1) 2 = true ∧
       (tenOf (seqOf s 0) (rd p 24 1 * 4 + bits (rd p 25 1) 1 0)).st = .fast) ∧
    ({ mode := .deltaEnc, inst := 0, todo := [0], base := 1, atUnit := true } : Rewrite).atUnit = true ∧
    (let r : Rewrite := { mode := .deltaEnc, inst := 0, todo := [0], base := 1 }
     let s := { deltaSt 4 with work := { rewrites := [(0, r)] } }
     tlook s.work.rewrites (tenKey 0 0) = some r ∧ r.atUnit = false ∧ (seqOf s r.base).st = .active ∧ (seqOf s 0).st ≠ .releasing ∧
       r.todo = 0 :: [] ∧ leafOf s 0 0 0 = .leaf (mkLeaf 0x6900000 true false) ∧ leafDelta (mkLeaf 0x6900000 true false) = false ∧
       (seqOf s 2).st ≠ .active) ∧
    (let j : LeafJob := { slot := 0, ten := 0, idx := 0, leaf := mkLeaf 0x6904000 true false, oldKey := none, job := .scrub }
     tlook ({ seqUp 0 {} with work := { leafJobs := [(0, j)] } } : State).work.leafJobs 0 = some j ∧ j.pair = none ∧ leafWaits j (seqUp 0 {}) = false ∧
       leafDropped j (seqUp 0 {}) = false ∧ leafDropped { j with job := .compact 0 } (seqUp 0 {}) = true ∧
       leafWaits { j with job := .compact 0 } (chan { queue := [{ op := 4, job := .compact 0 }] }) = true ∧
       ({ j with pair := some (2, mkLeaf 0x6908000 true false, none) } : LeafJob).pair = some (2, mkLeaf 0x6908000 true false, none)) ∧
    tlook up.work.leafJobs 0 = none ∧ startedAct up 0 0xD = none := by
  and_intros <;> first | decide +kernel | exact ⟨_, _, _, rfl, by decide +kernel⟩

def fencedPort : Tier := { fenced := true, retryAt := some 20000000 }

theorem wit_TierPortsFenceAndReturn :
    (tierOf up 0).inService = false ∧ (tierOf (tiered up) 0).inService = true ∧
    (let s : State := { up with tier := [(0, fencedPort)] }
     awake s = true ∧ (tierOf s 0).inService = false ∧ (tierOf s 0).dieLost = false ∧ (tierOf s 0).retryAt = some 20000000 ∧ 20000000 ≤ now s ∧
       now s < 20000001 ∧ (tierOf s 0).perstHighAt = none ∧ tget .hiZ s.pwr.perst 0 ≠ .high) ∧
    (let s : State := { up with tier := [(0, { fencedPort with perstHighAt := some 19000001 })], pwr := { up.pwr with perst := [(0, .high)] } }
     awake s = true ∧ (tierOf s 0).inService = false ∧ (tierOf s 0).dieLost = false ∧ (tierOf s 0).unsupported = false ∧
       (tierOf s 0).perstHighAt = some 19000001 ∧ now s < 19000001 + 1000000000 ∧ s.pwr.tierClk.getLsbD (0 : Fin 4) = true ∧
       tget .hiZ s.pwr.perst 0 = .high ∧ (tierOf s 0).fenced = true ∧ ∀ a, a / 2 ^ 41 = (0 : Fin 4).val → tlook s.sto.deep a = none) ∧
    (now { up with bmk := { up.bmk with time := 2000000000 } } = 2000000000 ∧ 1000000000 + 1000000000 ≤ 2000000000) ∧
    ({ up with pwr := { up.pwr with tierClk := 0 } } : State).pwr.tierClk.getLsbD (0 : Fin 4) = false ∧
    ({ fencedPort with unsupported := true } : Tier).unsupported = true := by
  and_intros <;> first | decide | (intro a _; rfl)

/-- Parameters of a QUERY of sequence 7: one layer at stride 64, results 4,096 bytes apart. -/
def queryP : Bytes :=
  leBytes 8 7 ++ [0, 0, 0, 0] ++ leBytes 4 0 ++ leBytes 4 0x1FFFFFF ++ leBytes 4 0 ++ leBytes 8 0 ++ leBytes 4 64 ++ List.replicate 48 0 ++ leBytes 4 4096
def querySt : State := seqMsg 1 queryP [] 64

def req0 : Req :=
  { inst := 0, entry := 0, die := 0, tenant := 5, tag := 7, slot := 0, layer := 0, program := 0, stepTag := 0, nq := 1, rows := [], parents := none, incTail := true, lo := 0
    hi := 64, params := [], arrival := 0, deadline := none, lc := true, partn := 0 }
def tup : Tuple := { e := 32, c := 32, tail := true, pgen := 0 }
def req1 : Req := { req0 with st := .confirmed, tuple := some tup }
def reqSt (q : Req) : State := { seqUp 0 { st := .fast } with req := [(3, q)], nextReq := 4 }

theorem wit_QueriesAreCheckedAndConfirmed :
    (∃ x k p m, startedAct querySt 0 1 = some (x, k, p) ∧ x.msg = some m ∧
      (let b := enabledBytes querySt m
       let u := doneReading 0 querySt
       let img := (progOf querySt (qProg p)).image
       lookSeq x.tenant (qTag p) querySt = (some 0, querySt) ∧ layerOf p m (dLayers (seqOf querySt 0).desc) = some 0 ∧
       nqOf p b (dQHeads (seqOf querySt 0).desc) (pQueryDim img * 16) = some 1 ∧ 1 * 1 * recordSize (emitOf img).1 (pOutDim img * 16) ≤ qResStride p ∧
       keySlotUp u x.tenant = true ∧ (epochCheck x.tenant (qTag p) (qLo p) (2 ^ 25) 64 (routedOf x m) u).1 = none ∧ (seqOf u 0).st = .active ∧
       tensorsOk (seqOf u 0) img 0 = true ∧ (programGate x.tenant 0 0 (qProg p) (qGen p) u (whoOf x.msg)).1 = none ∧
       (rowsOf p b 1 1 (pQueryDim img * 16)).any rowBad = false ∧ (treeGate x.tenant 0 img (parentsOf p b) (tailOf p b) 1 u (whoOf x.msg)).1 = none ∧ img ≠ [] ∧
       layerOf p { m with offset := 1 } 2 = none ∧ nqOf p (b.drop 1) 1 32 = none ∧ keySlotUp up x.tenant = false ∧
       (epochCheck x.tenant (qTag p) 0 64 64 (routedOf x { m with epoch := 1 }) u).1 = some stEpochStale ∧
       lookSeq x.tenant 8 querySt = (none, querySt))) ∧
    (let q : Req := { req0 with deadline := some 0 }
     let e : Tuple := { e := 32, c := 32, tail := true, pgen := 0 }
     meets (reqSt q) q (reqBytes image (desc 0) q e) = false ∧ meets (reqSt req0) req0 0 = true) ∧
    (treeGate 5 0 image none true 1 (reqSt req0)).1 = none ∧
    (tlook (reqSt req0).req 3 = some req0 ∧ req0.st ≠ .confirmed ∧ (seqOf (reqSt req0) 0).st = .active ∧ (seqOf (reqSt req0) 0).app.commitPending = false ∧
      req0.parents = none ∧ req0.deadline = none) ∧
    ((seqOf ({ reqSt req0 with dir := [(0, { seqOne 0 {} with app := { commitPending := true } })] }) 0).app.commitPending = true ∧ req0.incTail = true) ∧
    (seqOf { reqSt req0 with dir := [(0, { seqOne 0 {} with st := .releasing })] } 0).st ≠ .active ∧
    (treeGate 5 0 image (some 0) true 1 (reqSt req0)).1 = some stMalformed ∧
    (let mine := fun (x : Req) => x.die == req0.die && reqWaits x
     let s := reqSt req0
     tcount s.req (fun _ x => mine x && x.partn == req0.partn) < (if (weirOf s req0.partn).en then (weirOf s req0.partn).queueLimit else 4096) ∧
     tcount s.req (fun _ x => mine x) < 4096) ∧
    (let x : ReqRgn := { lanes := [(0, {})], blocks := [0] }
     let q := { req1 with rgns := [(0, x)], predicted := some tup }
     tlook (reqSt q).req 3 = some q ∧ q.tuple = some tup ∧ tlook q.rgns 0 = some x ∧ x.confirmed = false ∧ q.predicted = some tup ∧
       confirmBlocked (reqSt q) q 0 = false ∧ confirmBlocked (reqSt q) { q with order := 1 } 0 = true ∧ ({ x with keep := true } : ReqRgn).keep = true) := by
  and_intros <;> first | decide +kernel | exact ⟨_, _, _, _, rfl, rfl, by decide +kernel⟩

/-- Request 3, best effort or latency critical, with lane 0 of region 0. -/
def laneSt (lc : Bool) (l : Lane) : State := reqSt { req1 with lc := lc, rgns := [(0, { confirmed := true, blocks := [0], lanes := [(0, l)] })] }
def buf0 : PageBuf := { idx := 0, kinds := [] }
def tiling : Lane := { st := .running, pairs := [0], buf := some buf0, tiles := [(0, 0)] }
/-- 32 best-effort contexts on block 0, and latency-critical request 40 that waits. -/
def fullSt : State :=
  { seqUp 0 {} with req := ((List.range 32).map fun i => (i, { req1 with lc := false, partn := 1, order := i, rgns :=
      [(0, { confirmed := true, blocks := [0], lanes := [(0, { st := .running })] })] })) ++
      [(40, { req1 with rgns := [(0, { confirmed := true, blocks := [0], lanes := [(0, {})] })] })] }

theorem wit_LanesReadAndCompute :
    ((rgnOf (laneSt true {}) 0).gated = false ∧ (rgnOf (rgns fun g => { g with gated := true }) 0).gated = true ∧
      ((tlook (laneSt true {}).req 3).map (·.lc)) = some true ∧ ({} : Lane).st = .waiting) ∧
    (roomFor (laneSt true {}) 0 0 0 = some 0 ∧ roomFor fullSt 0 0 0 = none) ∧
    ((ctxTurn 0 0 3 0 true (laneSt true {})).isSome = true ∧ (ctxTurn 0 0 4 0 true (laneSt true {})).isNone = true ∧
      (ctxTurn 0 0 3 0 false (laneSt false {})).isSome = true) ∧
    (lcWaiting (laneSt false {}) 0 0 = [] ∧ (lcWaiting (laneSt true {}) 0 0).map (fun e => (e.1, e.2.2.1)) = [(3, 0)] ∧
      lcWaiting (laneSt true {}) 0 0 ≠ []) ∧
    ctxRoom up 0 0 0 = true ∧ ctxRoom fullSt 0 0 0 = false ∧
    (let l : Lane := { st := .running, pairs := [0] }
     ∃ q x, tlook (laneSt true l).req 3 = some q ∧ tlook q.rgns 0 = some x ∧ tlook x.lanes 0 = some l ∧ laneTuple q x = some tup ∧ l.pairs = 0 :: [] ∧
       laneReads l = true ∧ laneReads tiling = false ∧ x.lanes = [(0, l)]) ∧
    (∃ q x, tlook (laneSt true tiling).req 3 = some q ∧ tlook q.rgns 0 = some x ∧ tlook x.lanes 0 = some tiling ∧ laneTuple q x = some tup ∧
      tiling.buf = some buf0 ∧ tiling.tiles = (0, 0) :: [] ∧ tiling.st = .running ∧ tiling.retried = false ∧ ({ tiling with retried := true } : Lane).retried = true ∧
      (pageTurn 0 3 0 (reqAs q x) tiling (laneSt true tiling)).isSome = true ∧ (pageTurn 0 4 0 (reqAs q x) tiling (laneSt true tiling)).isNone = true ∧
      (giveCell 0 3 0 tiling (laneSt true tiling)).1 = 0 ∧ failedCells image 0 [] = [] ∧ tileWrong image 0 [] = false ∧
      failedCells image 0 [{ cell := 0, value := false, what := .significand 1 }] ≠ [] ∧
      failedCells image 0 [{ cell := 0, value := false, what := .tree 1 1 }] = [] ∧
      tileWrong image 0 [{ cell := 0, value := false, what := .tree 1 1 }] = true) ∧
    ((blkOf up 0 0).spare = false ∧ (blkOf up 0 0).cells.getLsbD 16 = false ∧ (blkOf { up with blk := [(0, { spare := true })] } 0 0).spare = true) ∧
    (∃ q x vq vl, tlook fullSt.req 40 = some q ∧ tlook q.rgns 0 = some x ∧ victimOf fullSt 0 0 = some (31, vq, 0, vl) ∧
      x.lanes.find? (fun l => l.2.st == .waiting && l.2.block == 0) = some (0, {}) ∧ q.lc = true ∧ 32 ≤ (ctxOn fullSt 0 0).length ∧ vl.buf = none ∧
      vl.part = none ∧ (rgnOf fullSt 0).gated = false ∧ (preemptor fullSt 0 0 (31, vq, 0, vl)).map (fun e => (e.1, e.2.2.1)) = some (40, 0) ∧ savedUse fullSt 0 + savedBytes fullSt vq ≤ 4194304) ∧
    (let s := laneSt false { st := .saved, savedAt := 0 }
     (((beWaiting s 0 0).filter fun e => e.2.2.2.st == .saved).findSome?
       fun e => (ctxTurn 0 0 e.1 e.2.2.1 false s).map fun s' => (e, s')).isSome = true) ∧
    (let l : Lane := { st := .running, pairs := [0] }
     let s := laneSt true l
     let w := walkKinds 0 0 0 0 (blkKey 0 0) (readKinds (progOf s 0).image (seqOf s 0).desc) s
     let leaves := w.1.filterMap fun e => match e.2 with
       | .leaf e' => some (e.1, e')
       | .invalid => none
     ∃ q, tlook s.req 3 = some q ∧ (match readPair w.2 0 0 0 w.1 with | .pages _ => true | .end_ _ _ => false) = true ∧
       readWaits s 3 0 0 q l 0 leaves = false ∧ abandonedIn w.2 (pairChunks w.2 0 0 0 leaves) = none ∧ (readMet 3 0 q 0 leaves .clean w.2).1 = true ∧
       (readMet 3 0 q 0 leaves .controlLost w.2).1 = false ∧
       (((grantRead 0 0 true (fun ch => rivalRead s 3 0 0 [ch] false) (pairLines s q tup 0 leaves) s).1.map (·.2)).sum = 0)) := by
  and_intros <;> first | decide +kernel | exact ⟨_, _, rfl, rfl, by decide +kernel⟩ | exact ⟨_, rfl, by decide +kernel⟩ |
    exact ⟨_, _, _, _, rfl, rfl, rfl, by decide +kernel⟩

theorem wit_PartialsAreFolded :
    (let x : ReqRgn := { confirmed := true, lanes := [(0, { st := .done })] }
     let q := { req1 with rgns := [(0, x)] }
     tlook (reqSt q).req 3 = some q ∧ tlook q.rgns 0 = some x ∧ x.sent = none ∧ x.confirmed = true ∧ (∀ l ∈ x.lanes, l.2.st = .done)) ∧
    (let q := { req1 with rgns := [(0, { confirmed := true, sent := some [] })] }
     tlook (reqSt q).req 3 = some q ∧ q.tuple = some tup ∧ q.st = .confirmed ∧ (∀ r ∈ q.rgns.filter fun r => !rgnFenced (reqSt q) r.1, r.2.sent ≠ none)) ∧
    (∃ r ∈ ({ req1 with rgns := [(0, { confirmed := true })] } : Req).rgns, r.2.sent = none) ∧
    (let q := { req1 with rgns := [(0, { confirmed := true, sent := some [] }), (1, {})] }
     let s := { reqSt q with rgn := [(0, { fenced := true }), (1, { fenced := true })] }
     tlook s.req 3 = some q ∧ (q.rgns.filter fun r => !rgnFenced s r.1 || r.2.sent.isSome) = [(0, { confirmed := true, sent := some [] })]) ∧
    busyAct (reqSt req1) 0 1 = none ∧ tlook up.req 3 = none := by decide

/-- One token of layer 0 at position 32. -/
def appendSt : State := seqMsg 2 (leBytes 8 7 ++ [0, 0, 0, 0] ++ leBytes 6 0 ++ [0, 0] ++ leBytes 4 4096) (leBytes 4 32) 192

theorem wit_AppendsAdvanceTheTail :
    (∃ x k p m, startedAct appendSt 0 2 = some (x, k, p) ∧ x.msg = some m ∧
      (let b := enabledBytes appendSt m
       let u := doneReading 0 appendSt
       lookSeq x.tenant (rd p 0 8) appendSt = (some 0, appendSt) ∧ lookSeq x.tenant 8 appendSt = (none, appendSt) ∧
       appendMustWait appendSt 0 (appendOrder appendSt 0 0) = false ∧ appendMalformed p (some (desc 0)) m.offset m.len b = false ∧
       keySlotUp u x.tenant = true ∧ (epochCheck x.tenant (rd p 0 8) (hFirst b) (hFirst b + hN b) 64 (routedOf x m) u).1 = none ∧
       bitAt (rd p 9 1) 0 = false ∧ primaryAt u x.tenant (rd p 0 8) (hFirst b) = none ∧ appendMalformed p (some (desc 0)) m.offset 128 b = true ∧
       (seqOf u 0).st = .active ∧ (∀ l ∈ namedLayers b, ∀ ti ∈ appendTens (seqOf u 0).desc l, (tenOf (seqOf u 0) ti).st ≠ .absent) ∧
       (progCheck x.tenant (rd p 8 1) (rd p 10 2) 2 u).1 = none ∧ shapeBad (progOf u (rd p 8 1)).image (seqOf u 0).desc = false ∧
       (seqOf u 0).app.commitPending = false ∧ (seqOf u 0).app.takeover = false ∧
       (∀ l ∈ namedLayers b, (seqOf u 0).committed + fillOf (seqOf u 0) l < hFirst b + hN b) ∧
       (∀ l ∈ namedLayers b, hFirst b = (seqOf u 0).committed + fillOf (seqOf u 0) l) ∧ hFirst b + hN b ≤ (seqOf u 0).committed + 64 ∧
       bf16Bad (b.drop (64 + posBytes b)) = false ∧
       (givePages 0 ((namedLayers b).flatMap fun l => (appendTens (seqOf u 0).desc l).flatMap fun ti =>
          (spanPages (seqOf u 0).desc (hFirst b) (hFirst b + hN b)).map fun idx => (ti, idx)) u).isSome = true ∧
       (givePages 0 ((namedLayers b).flatMap fun l => (appendTens (seqOf u 0).desc l).flatMap fun ti =>
          (spanPages (seqOf u 0).desc (hFirst b) (hFirst b + hN b)).map fun idx => (ti, idx)) { u with cfg := { u.cfg with img := none } }).isNone = true ∧
       readersAbove u 0 (hFirst b) = false ∧
       (∀ l ∈ namedLayers (leBytes 8 31), hFirst (leBytes 8 31) + hN (leBytes 8 31) ≤ (seqOf u 0).committed + fillOf (seqOf u 0) l) ∧
       (∀ l ∈ namedLayers (leBytes 8 33), (seqOf u 0).committed + fillOf (seqOf u 0) l < hFirst (leBytes 8 33) + hN (leBytes 8 33) ∧
         hFirst (leBytes 8 33) ≠ (seqOf u 0).committed + fillOf (seqOf u 0) l))) ∧
    appendMustWait { up with work := { ctlOps := [(0, { op := 1, slot := 0, body := [], src := 2, msgId := 8, port := 0, started := true })] } } 0 0 = true ∧
    (up.work.waits.any fun w => w.inst == 0 && w.act == 0) = false ∧ bitAt 1 0 = true ∧
    ({ seqOne 0 {} with app := { takeover := true } } : Machine.Seq).app.takeover = true ∧
    (let a : Append := { inst := 0, slot := 0, first := 32, n := 1, layer0 := 0, nLayers := 1, program := 0, poss := [32], data := [], issued := true }
     let s := { seqUp 0 {} with work := { appends := [(0, a)] } }
     tlook s.work.appends 0 = some a ∧ a.issued = true ∧ a.left = 0 ∧ a.failed = 0 ∧ (seqOf s 0).st ≠ .free ∧
       (seqOf { s with dir := [(0, { seqOne 0 {} with app := { takeover := true } })] } 0).app.takeover = true ∧
       ({ a with held := true } : Append).held = true ∧ readersAbove s 0 32 = false) ∧
    readersAbove (reqSt { req1 with tuple := some { tup with e := 33 } }) 0 32 = true := by
  and_intros <;> first | decide +kernel | exact ⟨_, _, _, _, rfl, rfl, by decide +kernel⟩

/-- COMMIT of one token above 32 of sequence 7. -/
def commitBody (op : Nat) : Bytes := [BitVec.ofNat 8 op, 0, 5, 0] ++ leBytes 4 32 ++ leBytes 8 7 ++ leBytes 8 1 ++ [1, 0, 0, 0] ++ leBytes 4 77
def op0 : CtlOp := { op := 0, slot := 0, body := commitBody 0, src := 2, msgId := 8, port := 0, started := true }
def opSt (o : CtlOp) : State := { seqUp 0 {} with work := { ctlOps := [(0, o)] } }
/-- Sequence 7 with one token of tail in its one layer that holds any. -/
def tailSt : State :=
  { seqUp 0 {} with dir := [(0, { seqOne 0 { st := .fast } with tail := 1, app := { fill := [(0, 1), (1, 1)] } })] }
/-- SHIFT by 1 of the pages from 0 of sequence 7, whose tail is empty. -/
def shiftBody : Bytes := [2, 0, 5, 0] ++ leBytes 4 32 ++ leBytes 8 7 ++ leBytes 4 0 ++ leBytes 4 1 ++ leBytes 4 0 ++ leBytes 4 77

theorem wit_CommitsMoveTheWatermark :
    (namesOp (net 0) (pkt5 0x23 (commitBody 0)) 0 = true ∧ namesOp (net 0) (pkt5 0x23 (commitBody 0)) 1 = false) ∧
    (∃ a u, takeControl (pkt5 0x23 (commitBody 0)) [0x23] (net 0) = (some a, u) ∧ cTenant a.payload = (pkt5 0x23 (commitBody 0)).hdr.tenant.toNat) ∧
    (∃ u, takeControl (pkt5 0x23 (commitBody 0)) [0x23] up = (none, u)) ∧
    (ctlMalformed (commitBody 0) = false ∧ ctlMalformed (commitBody 3) = true ∧ keySlotUp up (cTenant (commitBody 0)) = false) ∧
    (popcount (cMask (commitBody 0)) = cAccepted (commitBody 0) ∧ cAccepted (commitBody 0) ≠ 0) ∧
    (let q := { seqOne 0 {} with committed := 33 }
     q.committed = cBaseC (commitBody 0) + cAccepted (commitBody 0) ∧ q.tail = 0) ∧
    ((seqOne 0 {}).committed = cBaseC (commitBody 0) ∧ (seqOne 0 {}).app.commitPending = false ∧ (seqOne 0 {}).tail ≤ cAccepted (commitBody 0)) ∧
    ((seqOne 0 {}).app.rotOffset = (cBaseRot (leBytes 24 0 ++ leBytes 4 (2 ^ 32 - 1)) + cDelta (leBytes 20 0 ++ [1, 0, 0, 0])) % 2 ^ 32) ∧
    ((seqOf (opSt op0) op0.slot).st ≠ .free ∧ op0.compacting = false ∧ op0.fwd ≠ .single) ∧
    (keySlotUp (seqUp 0 {}) (cTenant (commitBody 0)) = true ∧ lookSeq 5 7 (seqUp 0 {}) = (some 0, seqUp 0 {}) ∧
      (epochCheck 5 7 32 33 64 { entry := 0x7FFF, arg := 0, msg := msg1 } (seqUp 0 {})).1 = none ∧ primaryAt (seqUp 0 {}) 5 7 32 = none) ∧
    (let o := { op0 with started := false }
     let w : State := { seqUp 0 {} with work := { next := 1, ctlOps := [(0, o)] } }
     slotBlocked w 0 = false ∧ appendsOn w 0 = false ∧ appendAhead w 0 0 = false ∧
       (w.work.ctlOps.filter fun e => e.2.slot == o.slot && !e.2.started) = [(0, o)] ∧ slotBlocked (opSt op0) 0 = true) ∧
    ((seqOf tailSt 0).st = .active ∧ commitCheck (seqOf tailSt 0) (commitBody 0) = none ∧ cMask (commitBody 0) = 2 ^ cAccepted (commitBody 0) - 1 ∧
      (∀ i ∈ acceptedList (commitBody 0), i < (seqOf tailSt 0).tail ∧ ∀ l, l < dLayers (seqOf tailSt 0).desc → i < fillOf (seqOf tailSt 0) l) ∧
      (tlook (forwardCtl 0 (enterSeq 0 { tailSt with work := { ctlOps := [(0, { op0 with started := true })] } })).work.ctlOps 0).map (·.fwd) =
        some .notNeeded) ∧
    (cMask (put (commitBody 0) 16 [2]) ≠ 2 ^ cAccepted (put (commitBody 0) 16 [2]) - 1 ∧ popcount (cMask (put (commitBody 0) 16 [2])) = 1) ∧
    (rollbackCheck (seqOf tailSt 0) (put (commitBody 1) 24 [0, 0, 0, 0]) = none ∧ twf 0 (seqOf tailSt 0).app.fill = true) ∧
    (shiftCheck (seqOne 0 { st := .fast }) shiftBody = none ∧ underLoad (seqUp 0 {}) 0 = false ∧
      (unstripeAll 0 (shiftPages (seqOne 0 { st := .fast }) shiftBody) (seqUp 0 { st := .fast })).1 = .done) ∧
    (let o := { op0 with compacting := true }
     (compactReserve 0 o (opSt o)).isSome = true ∧ (opSt o).req = []) ∧
    tfind up.work.ctlOps (fun _ o => o.slot == 0 && o.compacting && o.started && !o.localDone) = none ∧
    (let o := { op0 with compacting := true }
     tfind (opSt o).work.ctlOps (fun _ o => o.slot == 0 && o.compacting && o.started && !o.localDone) = some (0, o) ∧ (opSt o).req = [] ∧
       (seqOf (opSt o) 0).tail = 0 ∧ 3 < ({ o with before := 4 } : CtlOp).before ∧ (seqOf (opSt o) 0).committed < ({ tup with e := 33 } : Tuple).e) ∧
    (tfind (opSt op0).work.ctlOps (fun _ o => o.slot == 0 && o.started && o.op != 2 && o.fwd != .waiting &&
        (o.op == 1 || !o.compacting || (o.localDone && o.left == 0))) = some (0, op0) ∧ op0.fwd = .notNeeded ∧ op0.op = 0 ∧ op0.failed = false) ∧
    (let o := { op0 with op := 2 }
     let s := { opSt o with dir := [(0, { seqOne 0 {} with st := .shifting })] }
     tfind s.work.ctlOps (fun _ o => o.slot == 0 && o.started && o.op == 2 && (!o.localDone || o.fwd != .waiting)) = some (0, o) ∧ o.left = 0 ∧
       o.failed = false ∧ (seqOf s 0).st = .shifting ∧ o.localDone = false ∧ jobAtUnit s (.shift 0) = false ∧ o.fwd ≠ .waiting) := by
  and_intros <;> first | decide +kernel | exact ⟨_, _, rfl, by decide +kernel⟩ | exact none_of (by decide +kernel)

theorem test_program_header : firstBad (badHeader image) = none := by decide +kernel
theorem test_program_stages : firstBad ((List.range (pStages image)).flatMap (badStage image)) = none := by decide +kernel
theorem test_program_order : firstBad (badOrder image ++ (List.range (pCurves image)).flatMap (badCurve image) ++
    (List.range (pPosTables image)).flatMap (badPos image) ++ (List.range (pStates image)).flatMap (badState image) ++ badCycle image) = none := by
  decide +kernel
theorem test_program_rest : firstBad (badRest image) = none := by decide +kernel

theorem firstBad_append {a b : List (Bool × Nat × Nat × Nat)} (ha : firstBad a = none) (hb : firstBad b = none) : firstBad (a ++ b) = none := by
  induction a with
  | nil => exact hb
  | cons x a ih =>
    obtain ⟨bad, x⟩ := x
    cases bad <;> simp_all [firstBad]

theorem firstBad_eachBad {o x base st n : Nat} {bad : Nat → Bool} (h : ∀ i < n, bad i = false) : firstBad (eachBad o x base st n bad) = none := by
  have : ∀ l : List Nat, (∀ i ∈ l, bad i = false) → firstBad (l.map fun i => (bad i, o, x, base + st * i)) = none := by
    intro l hl
    induction l with
    | nil => rfl
    | cons i l ih => simp_all [firstBad]
  exact this _ fun i hi => h i (List.mem_range.1 hi)

/-- Where `m` bytes from `off` are zero, every field among them reads as 0. -/
theorem rd_zeros {p rest : Bytes} {off m : Nat} (h : p.drop off = List.replicate m 0 ++ rest) {i n : Nat} (hi : i + n ≤ m) : rd p (off + i) n = 0 := by
  have hz : ∀ k, leNat (List.replicate k 0#8) = 0 := by
    intro k
    induction k with
    | zero => rfl
    | succ k ih => simpa [List.replicate_succ, leNat] using ih
  have hd : p.drop (off + i) = List.replicate (m - i) 0 ++ rest := by
    rw [← List.drop_drop, h, List.drop_append_of_le_length (by simp; omega)]
    simp
  have ht : (p.drop (off + i)).take n = List.replicate n 0 := by
    rw [hd, List.take_append_of_le_length (by simp; omega), List.take_replicate]
    congr 1
    omega
  simpa [rd, slice, ht] using hz n

theorem byteAt_zeros {p rest : Bytes} {off m : Nat} (h : p.drop off = List.replicate m 0 ++ rest) {i : Nat} (hi : i < m) : byteAt p (off + i) = 0 := by
  have := congrArg (fun l => l[i]?) h
  simp only [List.getElem?_drop] at this
  simp [byteAt, this, List.getElem?_append_left, hi]

/-- A format-table entry of format 1 whose other bytes are zero is valid in the separate layout with one key/value head. -/
theorem format_good {p rest : Bytes} {k base : Nat} (hb : fmtBase p k = base) (hl : pLayout p = 0) (hk : pKvHeads p = 1)
    (hf : ftFmt p k = 1) (hz : p.drop (base + 1) = List.replicate 639 0 ++ rest) : firstBad (badFormat p k) = none := by
  have hr : ∀ o n, 1 ≤ o → o + n ≤ 640 → rd p (base + o) n = 0 := fun o n h1 h2 => by
    rw [show base + o = base + 1 + (o - 1) by omega]
    exact rd_zeros hz (by omega)
  have hy : ∀ o, 1 ≤ o → o < 640 → byteAt p (base + o) = 0 := fun o h1 h2 => by
    rw [show base + o = base + 1 + (o - 1) by omega]
    exact byteAt_zeros hz (by omega)
  have hg : ftGroup p k = 0 := by
    unfold ftGroup
    rw [hb]
    exact hr 1 1 (by omega) (by omega)
  have h1 : ∀ o n, 1 ≤ o → o + n ≤ 640 → firstBad (zeroBytes p 5 0xFF (base + o) n) = none := fun o n ho hn =>
    firstBad_eachBad fun i hi => by
      rw [Nat.add_assoc, hy (o + i) (by omega) (by omega)]
      rfl
  unfold badFormat
  simp only [hb, hl, hf, hk, hg]
  rw [if_neg (by omega)]
  refine firstBad_append (firstBad_append (firstBad_append (firstBad_append (firstBad_append (firstBad_append (by rfl)
    (h1 2 2 (by omega) (by omega))) (h1 8 8 (by omega) (by omega))) (firstBad_eachBad fun i hi => ?_)) (firstBad_eachBad fun i hi => ?_))
    (firstBad_eachBad fun i hi => ?_)) (h1 592 48 (by omega) (by omega))
  · have : ftS p k i = 0 := by
      unfold ftS f32At
      rw [hb, Nat.add_assoc, hr (16 + 4 * i) 4 (by omega) (by omega)]
      rfl
    rw [this, show fmtHead 1 = false from rfl]
    simp
  · have : ftZ p k i = 0 := by
      unfold ftZ
      rw [hb, Nat.add_assoc, hr (272 + i) 1 (by omega) (by omega)]
    simp [this]
  · have : ftS2 p k i = 0 := by
      unfold ftS2 f32At
      rw [hb, Nat.add_assoc, hr (336 + 4 * i) 4 (by omega) (by omega)]
      rfl
    rw [this, show fmtYq 1 = false from rfl]
    simp

theorem test_program_format0 : firstBad (badFormat image 0) = none :=
  format_good (base := 384) (rest := padTo 640 [1]) (by decide +kernel) (by decide +kernel) (by decide +kernel) (by decide +kernel) (by decide +kernel)
theorem test_program_format1 : firstBad (badFormat image 1) = none :=
  format_good (base := 1024) (rest := []) (by decide +kernel) (by decide +kernel) (by decide +kernel) (by decide +kernel) (by decide +kernel)

/-- The image of the helper states is a valid program (07 R157). -/
theorem test_program_valid : programBad image = none := by
  unfold programBad
  rw [test_program_header]
  simp only [← List.append_assoc] at *
  exact firstBad_append (firstBad_append (firstBad_append (by simpa only [List.append_assoc] using firstBad_append test_program_stages test_program_order)
    test_program_format0) test_program_format1) test_program_rest

def old (t : BitVec 64) : RxFrame := { pkt 0x20 (leBytes 6 0) with hdr := { hdr 0x20 6 6 with msgTime := t } }

/-- `s` with the packet counted at its port. -/
def counted (f : RxFrame) (s : State) : State :=
  countN 64 (portCntOff f.port.val 0x08) (frameSize f) (countN 64 (portCntOff f.port.val 0x00) 1 s)

/-- What admits a packet of a tenant in clear: every check but that of the window, whose generation is a free value (log 10). -/
def admits (f : RxFrame) (s : State) : Bool :=
  let u := counted f s
  portServes s f.port.val && forMe f s && s.jx.locked && f.hdr.dst.toNat == myEndpoint u && (check2 f).isNone && decide (now u ≤ f.hdr.msgTime.toNat + 1010000) &&
  decide (f.hdr.msgTime.toNat ≤ now u + 10000) && u.pwr.sleep == .none && u.node.st != .drained && slotServes u f.hdr && !expiredFor u f.hdr &&
  check6 u f.hdr && !f.hdr.enc && !f.hdr.auth && tenantOp f.hdr.opcode.toNat && (slotNo u f.hdr.tenant.toNat).isSome &&
  !(tget {} u.traffic.meter ((slotNo u f.hdr.tenant.toNat).getD 0)).en && (answerDup f (checkDie f) u).isNone && (trackOf u f.hdr).isNone &&
  (takeEntries f (checkDie f) u).1

theorem receive_of_admits {f : RxFrame} {s : State} (h : admits f s = true) (hw : checkWindow (counted f s) f.hdr = none) :
    receive f s = (some ⟨f.payload, checkDie f, false⟩, (takeEntries f (checkDie f) (counted f s)).2) := by
  unfold admits at h
  simp only [Bool.and_eq_true, decide_eq_true_eq, Bool.not_eq_true', beq_iff_eq, Option.isNone_iff_eq_none, bne_iff_ne] at h
  obtain ⟨⟨⟨⟨⟨⟨⟨⟨⟨⟨⟨⟨⟨⟨⟨⟨⟨⟨⟨h1, h0⟩, h2⟩, h3⟩, h4⟩, h5⟩, h6⟩, h7⟩, h8⟩, h9⟩, h10⟩, h11⟩, h12⟩, h13⟩, h14⟩, h15⟩, h16⟩, h17⟩, h18⟩, h19⟩ := h
  have hm : meterPkt f (checkDie f) (counted f s) = (.green, counted f s) := by
    unfold meterPkt
    obtain ⟨k, hk⟩ := Option.isSome_iff_exists.1 h15
    rw [hk] at h16 ⊢
    simp only [Option.getD_some] at h16
    simp [h16]
  have ho : openPkt (counted f s) f = some f.payload := by simp [openPkt, h12, h13]
  obtain ⟨b, v, hb⟩ : ∃ b v, takeEntries f (checkDie f) (counted f s) = (b, v) := ⟨_, _, rfl⟩
  rw [hb] at h19 ⊢
  simp only at h19
  subst h19
  have hc : checkMessage f (checkDie f) f.payload false (counted f s) = (some ⟨f.payload, checkDie f, false⟩, v) := by
    unfold checkMessage
    simp [h17, h18, hw, hb]
  have ht : checkTenant f (checkDie f) (counted f s) = (some ⟨f.payload, checkDie f, false⟩, v) := by
    unfold checkTenant
    simp [h7, h8, h9, h10, h11, ho, h14, hm, hc]
  unfold receive
  rw [if_neg (by simp [h1]), if_neg (by simp [h0])]
  show (if (!(counted f s).jx.locked) = true then _ else checkPkt f (counted f s)) = _
  rw [if_neg (by rw [show (counted f s).jx.locked = s.jx.locked from by simp [counted, countN]]; simp [h2])]
  unfold checkPkt
  simp only [h3, h4, ne_eq, not_true_eq_false, if_false]
  rw [if_neg (by omega), if_neg (by omega), ht]

def pktG (op len : Nat) (b : Bytes) (s : State) : RxFrame :=
  { pktW op len b with hdr := { (pktW op len b).hdr with windowGen := BitVec.ofNat 16 (winGen s 3) } }

/-- The window of a packet takes it, its generation apart. -/
def winTakes (s : State) (h : JxHdr) : Bool :=
  let w := winOf s h.windowId.toNat
  w.st == .active && h.tenant.toNat == w.tenant && kindPermits w.kind h.opcode.toNat && decide (h.offset.toNat + h.msgLen.toNat ≤ w.length) &&
  (tlook s.installs w.tenant).isNone && decide (h.offset.toNat % 8 = 0)

theorem window_passes {s : State} {h : JxHdr} (hg : h.windowGen.toNat = winGen s h.windowId.toNat) (hw : winTakes s h = true) : checkWindow s h = none := by
  unfold winTakes at hw
  simp only [Bool.and_eq_true, decide_eq_true_eq, beq_iff_eq, Option.isNone_iff_eq_none] at hw
  obtain ⟨⟨⟨⟨⟨h1, h2⟩, h3⟩, h4⟩, h5⟩, h6⟩ := hw
  unfold checkWindow
  simp only [hg, h1, h2, h3, h5, h6]
  simp
  omega

theorem window_taken {f : RxFrame} {s : State} (hi : f.hdr.windowId.toNat = 3) (hg : f.hdr.windowGen = BitVec.ofNat 16 (winGen s 3))
    (h : admits f s = true) (hw : winTakes (counted f s) f.hdr = true) :
    receive f s = (some ⟨f.payload, checkDie f, false⟩, (takeEntries f (checkDie f) (counted f s)).2) :=
  receive_of_admits h (window_passes (by
    rw [hg, hi, BitVec.toNat_ofNat, Nat.mod_eq_of_lt (by unfold winGen; omega)]
    rfl) hw)

/-- A packet of tenant 5 to window 3 of `net k`. -/
theorem window_packet (k op len : Nat) (b : Bytes) (h : admits (pktG op len b (net k)) (net k) = true)
    (hw : winTakes (counted (pktG op len b (net k)) (net k)) (pktG op len b (net k)).hdr = true) :
    receive (pktG op len b (net k)) (net k) = (some ⟨b, checkDie (pktG op len b (net k)), false⟩,
      (takeEntries (pktG op len b (net k)) (checkDie (pktG op len b (net k))) (counted (pktG op len b (net k)) (net k))).2) :=
  window_taken rfl rfl h hw

/-- The second packet of a WRITE of 8,256 bytes, the first to arrive. -/
def lastPkt : RxFrame := { pktG 1 8256 (leBytes 64 1) (net 2) with hdr := { (pktG 1 8256 (leBytes 64 1) (net 2)).hdr with pktIndex := 1 } }

theorem wit_PacketsAreChecked :
    portServes State.reset 0 = false ∧ portServes up 0 = true ∧ ({ up with jx := { up.jx with locked := false } } : State).jx.locked = false ∧
    ({ (old 0).hdr with dst := 3 } : JxHdr).dst.toNat ≠ myEndpoint up ∧ check2 { old 0 with payload := [] } = some 2 ∧
    ((old 0).hdr.dst.toNat = myEndpoint up ∧ check2 (old 0) = none) ∧
    ((old 18989999).hdr.msgTime.toNat + 1010000 < now up ∧ now up ≤ (old 18990000).hdr.msgTime.toNat + 1010000) ∧
    (now up + 10000 < (old 20010001).hdr.msgTime.toNat ∧ (old 20010000).hdr.msgTime.toNat ≤ now up + 10000) := by
  and_intros <;> decide +kernel

theorem wit_PacketsWriteCompletes : ∃ a u, receive (pktG 1 64 (leBytes 64 1) (net 2)) (net 2) = (some a, u) ∧ backed u 3 = true ∧
    (notePacket (pktG 1 64 (leBytes 64 1) (net 2)) a false (winWrite 3 0 a.payload u)).1.isSome = true ∧ (winOf u 3).kind ≠ 5 :=
  ⟨_, _, window_packet 2 1 64 _ (by decide +kernel) (by decide +kernel), by decide +kernel⟩

theorem wit_PacketsWriteImmCompletes : ∃ a u, receive (pktG 2 64 (leBytes 64 1) (net 2)) (net 2) = (some a, u) ∧ backed u 3 = true ∧
    (notePacket (pktG 2 64 (leBytes 64 1) (net 2)) a false (winWrite 3 0 a.payload u)).1.isSome = true :=
  ⟨_, _, window_packet 2 2 64 _ (by decide +kernel) (by decide +kernel), by decide +kernel⟩

theorem last_admitted : receive lastPkt (net 2) = (some ⟨leBytes 64 1, checkDie lastPkt, false⟩,
    (takeEntries lastPkt (checkDie lastPkt) (counted lastPkt (net 2))).2) :=
  window_taken rfl rfl (by decide +kernel) (by decide +kernel)

theorem wit_PacketsOneOfTwo : ∃ a u, receive lastPkt (net 2) = (some a, u) ∧ backed u 3 = true ∧
    (notePacket lastPkt a false (winWrite 3 8192 a.payload u)).1.isSome = false :=
  ⟨_, _, last_admitted, by decide +kernel⟩

/-- Region 0, which holds window 3's frame, is fenced. -/
def netFenced : State := { net 2 with rgn := [(0, { fenced := true })] }
theorem unbacked_admitted : receive (pktG 1 64 (leBytes 64 1) (net 2)) netFenced =
    (some ⟨leBytes 64 1, checkDie (pktG 1 64 (leBytes 64 1) (net 2)), false⟩, (takeEntries (pktG 1 64 (leBytes 64 1) (net 2))
      (checkDie (pktG 1 64 (leBytes 64 1) (net 2))) (counted (pktG 1 64 (leBytes 64 1) (net 2)) netFenced)).2) :=
  window_taken rfl rfl (by decide +kernel) (by decide +kernel)

theorem wit_PacketsUnbacked :
    ∃ a u, receive (pktG 1 64 (leBytes 64 1) (net 2)) netFenced = (some a, u) ∧ backed u 3 = false :=
  ⟨_, _, unbacked_admitted, by decide +kernel⟩

theorem wit_PacketsRead : ∃ a u, takeControl (pktG 3 64 [] (net 5)) [0x03] (net 5) = (some a, u) ∧ backed u 3 = true ∧
    (readChunks (.message 2 8) (winChunks u 3 0 64) .clean u).1 = .clean := by
  have h := window_packet 5 3 64 [] (by decide +kernel) (by decide +kernel)
  exact ⟨_, _, by unfold takeControl; rw [h]; rfl, by decide +kernel⟩

theorem wit_PacketsCas : ∃ a u, takeControl (pktG 4 16 (leBytes 16 1) (net 5)) [0x04] (net 5) = (some a, u) ∧ backed u 3 = true ∧
    (readChunks (.message 2 8) (winChunks u 3 0 8) .clean u).1 = .clean := by
  have h := window_packet 5 4 16 (leBytes 16 1) (by decide +kernel) (by decide +kernel)
  exact ⟨_, _, by unfold takeControl; rw [h]; rfl, by decide +kernel⟩

/-- Window 3's frame lies in a line-coded range. -/
def netCoded : State := { net 5 with cfg := { up.cfg with img := some imgR } }
theorem wit_PacketsMeetErrors : lineMet netCoded (.corrected 0x5000000) = .corrected 0x5000000 ∧
    (readChunks (.message 2 8) (winChunks netCoded 3 0 64) (.uncorrectable 0x5000000) netCoded).1 = .bad 0x5000000 := by decide +kernel

/-- Its channel is held by an atom; a chunk of it is under redo; the redo it was held for has failed. -/
def netChan (c : Chan) : State := { netCoded with chan := [(chanOf netCoded 0x5000000, c)] }
theorem wit_PacketsWait :
    (readChunks (.message 2 8) (winChunks netCoded 3 0 64) .clean (netChan { atom := some atom3 })).1 = .waits ∧
    abandonedIn (netChan { journal := [(0, { st := .abandoned, chunks := [(0x5000000, [])] })] }) (winChunks netCoded 3 0 64) = some 0x5000000 ∧
    (readChunks (.message 2 8) (winChunks netCoded 3 0 64) .clean
      (netChan { held := [{ who := .message 2 8, addr := 0x5000000, failed := true }] })).1 = .failed := by decide +kernel

/-- Tenant 5 has no key slot: check 5 drops the packet. -/
theorem wit_PacketsTurnedAway : (∃ u, receive (pktW 1 64 (leBytes 64 1)) up = (none, u)) ∧
    (∃ u, takeControl (pktW 3 64 []) [0x03] up = (none, u)) ∧ (∃ u, takeControl (pktW 4 16 (leBytes 16 1)) [0x04] up = (none, u)) := by
  and_intros <;> exact none_of (by decide +kernel)

def flying : OutMsg := { op := 0x20, dst := 2, time := some 19000000, flight := [(0, { att := 0, at_ := 19800000, path := 0 })] }
/-- An ACK of message 9; a NAK of it, ST_RETRY. -/
def ack9 : RxFrame := { pkt 0x10 (leBytes 8 9) with hdr := { hdr 0x10 8 8 with msgId := 0 } }
def nak9 : RxFrame := { pkt 0x11 ([4, 0x20, 0, 0] ++ leBytes 4 9 ++ leBytes 8 0) with hdr := { hdr 0x11 16 16 with msgId := 0 } }

theorem wit_MessagesAreAnsweredOrAbandoned :
    (∃ a u, takeControl ack9 [0x10] (outSt flying) = (some a, u) ∧ ackBad a.payload = false) ∧ ackBad (leBytes 8 (2 ^ 63)) = true ∧
    tlook up.jx.out (bits 9 31 0) = none ∧
    (∃ m, tlook (outSt { flying with op := 1 }).jx.out (bits 9 31 0) = some m ∧ m.dst = 2 ∧ m.dst ≠ 3 ∧ ackable m.op = true ∧ ackable 0x20 = false ∧
      (tlook (packetDone 9 0 (outSt { flying with op := 1 })).jx.out 9).map (fun y => (y.flight, y.unsent)) = some ([], []) ∧ bitAt (2 ^ 54) 54 = true ∧
      bitAt 9 54 = false) ∧
    (∃ a u m, takeControl nak9 [0x11] (outSt flying) = (some a, u) ∧ tlook u.jx.out (rd a.payload 4 4) = some m ∧ m.dst = nak9.hdr.src.toNat ∧
      m.op = rd a.payload 1 1 ∧ (tlook m.flight (bits (rd a.payload 2 2) 10 0)).isSome = true ∧ nakBad a.payload = false) ∧
    (∃ a u, takeControl nak9 [0x11] up = (some a, u) ∧ tlook u.jx.out (rd a.payload 4 4) = none ∧ nakBad a.payload = false) ∧
    (nakBad (leBytes 2 0x2004 ++ leBytes 2 0xF800 ++ leBytes 12 0) = true ∧ (15 ≤ 15 ∧ 15 < 16)) ∧
    (∃ a id m u, takeAnswer (resp 0xA0 (leBytes 8 0)) [0x83, 0x84, 0xA0, 0xA1, 0xA3, 0xA8] (outSt flying) = (some (a, id, m), u) ∧ m.purpose = .quiet) ∧
    (∃ u, takeAnswer (resp 0xA0 (leBytes 8 0)) [0x83, 0x84, 0xA0, 0xA1, 0xA3, 0xA8] up = (none, u)) ∧
    (let o : CtlOp := { op := 1, slot := 0, body := [], src := 2, msgId := 8, port := 0, fwd := .waiting, fwdMsg := 9, started := true }
     let s : State := { up with work := { ctlOps := [(0, o), (1, { o with slot := 1, op := 0 })] } }
     tfind s.work.ctlOps (fun _ o => o.slot == 0 && o.fwd == .waiting && o.fwdMsg == 9) = some (0, o) ∧
       tfind s.work.ctlOps (fun _ o => o.slot == 1 && o.fwd == .waiting && o.fwdMsg == 9) = some (1, { o with slot := 1, op := 0 })) ∧
    twf {} up.datum.probe = true ∧
    (∃ m, tlook (outSt { flying with unsent := [1], data := leBytes 9000 0 }).jx.out 9 = some m ∧ m.time.isSome = true ∧ inFlightOf (outSt flying) 1 < 4096 ∧
      mayStillSend m (outSt { flying with time := some 19100000 }) = false ∧ mayStillSend { m with time := some 19100000 } up = true ∧
      unacked (outSt { flying with unsent := [1], data := leBytes 9000 0 }) 2 + pktBytes 9000 1 ≤ (congOf up 2).w ∧
      (congOf { up with jx := { up.jx with cong := [(2, { w := 64, grown := 0 })] } } 2).w < 9000) ∧
    (∃ a id m u, takeAnswer (resp 0xA0 (leBytes 8 0)) [0x83, 0x84, 0xA0, 0xA1, 0xA3, 0xA8] (outSt { flying with purpose := .probe 2 1 }) = (some (a, id, m), u) ∧
      m.purpose = .probe 2 1) ∧
    (∃ a id m u, takeAnswer { resp 0xA3 (leBytes 16 0) with hdr := { (resp 0xA3 (leBytes 16 0)).hdr with tenant := 5 } }
        [0x83, 0x84, 0xA0, 0xA1, 0xA3, 0xA8] { act 0 [] with jx := { up.jx with out := [(9, { op := 0x23, dst := 2, tenant := 5, purpose := .ctlForward 0 })] } } =
        (some (a, id, m), u) ∧ m.purpose = .ctlForward 0) ∧
    (let b : AckBuf := { addr := 2, path := 0, entries := [(9, 0, 0, false)], ce := false, since := 19998000 }
     let s : State := { up with jx := { up.jx with ack := [(2, b)] } }
     tlook s.jx.ack 2 = some b ∧ awake s = true ∧ b.since + 2000 ≤ now s ∧ ¬ ({ b with since := 19998001 } : AckBuf).since + 2000 ≤ now s) ∧
    (∃ m, tlook (outSt { flying with time := some 19100000 }).jx.out 9 = some m ∧ tlook m.flight 0 = some { att := 0, at_ := 19800000, path := 0 } ∧
      m.resend.contains 0 = false ∧ now up ≤ m.time.getD 0 + 900000 ∧ ¬ now up < 19800000 + 200000) ∧
    (∃ m, tlook (outSt flying).jx.out 9 = some m ∧ m.time = some 19000000 ∧ 19000000 + 900000 ≤ now up) ∧
    (∃ m, tlook (outSt { flying with backoff := some (20000000, 20), resend := [0] }).jx.out 9 = some m ∧ m.backoff = some (20000000, 20) ∧
      ¬ now up < 20000000) ∧
    (let t : Tracker := { op := 1, tenant := 5, window := 3, gen := 0, offset := 0, len := 64, imm := 0, time := 18989999, opened := 0 }
     let s : State := { up with jx := { up.jx with tracker := [(msgKey 2 8, t)], filter := [(msgKey 2 8, { time := 18990000, taken := 0 })] } }
     tlook s.jx.tracker (msgKey 2 8) = some t ∧ t.time + 1010000 < now s ∧ tlook s.jx.filter (msgKey 2 8) = some { time := 18990000, taken := 0 } ∧
       ¬ 18990000 + 1010000 < now s) ∧
    (pathSt { up with jx := { up.jx with path := [(5, { cool := some 20000000 })] } } 5).cool = some 20000000 ∧
    (let s : State := { up with jx := { up.jx with cong := [(2, { w := 4128767, grown := 19900000 })] } }
     awake s = true ∧ (congOf s 2).w < 4194304 ∧ (congOf s 2).grown + 100000 ≤ now s ∧ (congOf s 2).w + 65536 < 4194304) ∧
    4194304 ≤ (congOf up 2).w := by
  and_intros <;> first | decide +kernel | exact ⟨_, _, rfl⟩ | exact ⟨_, _, rfl, by decide +kernel⟩ | exact ⟨_, rfl, by decide +kernel⟩ |
    exact ⟨_, _, _, rfl, rfl, by decide +kernel⟩ | exact none_of (by decide +kernel) | exact ⟨_, _, _, _, rfl, rfl⟩

theorem wit_PortsAndPtp :
    portServes up 0 = true ∧ portServes State.reset 0 = false ∧
    (awake up = true ∧ up.ctl.netLost.getLsbD ((7 : Fin 8).val / 2) = false ∧ up.pwr.netClk.getLsbD ((7 : Fin 8).val / 2) = true) ∧
    up.jx.portUp.getLsbD 7 = true ∧ netDieUp up 0 = true ∧ up.jx.stepped = false ∧ ({ up with jx := { up.jx with locked := false } } : State).jx.locked = false ∧
    1000 < (-1001 : Int).natAbs ∧ (1000 : Int).natAbs ≤ 1000 ∧ (ptpOf up 0).offset.natAbs < 1000 ∧ up.cfg.phase ≠ 5 ∧
    (ptpDomain up = (0 : BitVec 8).toNat ∧ (1 : BitVec 8).toNat ≠ ptpDomain up ∧ (-5000 : Int).natAbs ≤ 5000 ∧ 5000 < (5001 : Int).natAbs ∧
      (-999 : Int).natAbs < 1000 ∧ ({ st := .holdover } : Ptp).st = .holdover) ∧
    ({ up with cfg := { up.cfg with phase := 5 } } : State).cfg.phase = 5 ∧
    (let s : State := { up with bmk := { up.bmk with time := 1000000000 }, jx := { up.jx with ptp := [(0, { st := .locked })] } }
     (ptpOf s 0).st = .locked ∧ (ptpOf s 0).lastSync + 1000000000 ≤ now s ∧ (ptpOf s 0).st ≠ .unlocked ∧ 5000 < 5001 ∧ twf {} s.jx.ptp = true) ∧
    netDieUp State.reset 0 = false ∧ (ptpOf up 0).st = .unlocked ∧
    1000 ≤ (ptpOf { up with jx := { up.jx with ptp := [(0, { offset := -1000 })] } } 0).offset.natAbs := by decide

def qp : QPkt := { pkt := { addr := 2, path := 0, hdr := hdr 0x20 0 0, payload := [], tag := none }, since := 0, again := false }

theorem wit_TrafficIsMeteredAndScheduled :
    (svcClaimGate 7 true (weirOff (63 : Fin 64)) up = (true, up) ∧ offsetDecoded (weirOff (63 : Fin 64)) up = true) ∧
    (svcClaimGate 7 true (meterOff (1023 : Fin 1024)) up = (true, up) ∧ offsetDecoded (meterOff (1023 : Fin 1024)) up = true) ∧
    (svcClaimGate 7 true (eqOff (1023 : Fin 1024)) up = (true, up) ∧ offsetDecoded (eqOff (1023 : Fin 1024)) up = true) ∧
    weirOfWords (32 * 4 + 256 + 4096 * 65536) 8450000 16 ≠ none ∧ weirOfWords (33 * 4 + 256 + 4096 * 65536) 8450000 16 = none ∧
    twf {} up.traffic.weir = true ∧ eqOfWord (31 + 64 * 256) = some (31, 64) ∧ eqOfWord (31 + 7 * 256) = none ∧ twf {} up.jx.eq = true ∧
    (∃ m, meterOfWords 1 400000 400000 (36 + 36 * 2 ^ 14) = some m ∧ m.en = true) ∧ portServes State.reset 0 = false ∧
    (let s : State := { up with jx := { up.jx with control := [(0, [qp, qp])] } }
     portServes s 0 = true ∧ (tget {} s.jx.round 0).visit = none ∧ tget [] s.jx.control 0 = qp :: [qp]) ∧
    (let s : State := { up with jx := { up.jx with eq := [(3, { credit := 64, pkts := [qp] })], round := [(0, { visit := some 3 })] } }
     portServes s 0 = true ∧ (tget {} s.jx.round 0).visit = some 3 ∧ (eqOf s 3).pkts = qp :: [] ∧ pktSize qp.pkt ≤ (eqOf s 3).credit) ∧
    (awake up = true ∧ up.ctl.netLost.getLsbD (0 : Fin 4) = false ∧ tget 0 up.traffic.sampleSeq 0 = 0) ∧ awake State.reset = false ∧
    (let s : State := { up with traffic := { sampleSeq := [(0, 3)], samples := [(3, memWrite [] 0 (leBytes 8 20000000))] } }
     let last := leNat (memRead (tget [] s.traffic.samples (0 * 64 + 3 % 64)) 0 8)
     tget 0 s.traffic.sampleSeq 0 = 3 ∧ now s / 10000 * 10000 = last ∧ (now s + 10000) / 10000 * 10000 ≠ last) := by
  and_intros <;> first | decide | rfl | exact ⟨_, rfl, by decide⟩

/-- A staged entry whose one action releases a sequence, enabled by ENABLE 2. -/
def staged : Bytes := padTo 1024 (padTo 64 [1, 1, 2] ++ [9])
/-- Tenant 5's SLUICE window with that entry staged for entry 0; a command waits for it. -/
def sluSt (code : Nat) (e : Entry) (mem : Bytes) : State :=
  { net 3 with
    key := [(0, { tenant := 5, st := .active, sluiceCount := 4 })], mem := { fast := memWrite [] 0x5000000 mem }, traffic := { mask := [(0, 1)] }
    slu := { (net 3).slu with cmds := [{ entry := 0, code := code, count := 1, msg := msg1 }], entry := [(0, e)] } }

theorem wit_SluiceCommandsAreAnswered :
    nextCmd up 0 1 = none ∧
    (∃ c, nextCmd (sluSt 1 {} staged) 0 1 = some c ∧
      postCheck (dropCmd c (sluSt 1 {} staged)) (rangeTenant (sluSt 1 {} staged) 0) (stagedBytes (sluSt 1 {} staged) 0) = none ∧
      (entryOf (dropCmd c (sluSt 1 {} staged)) 0).st = .free) ∧
    stagedBad 1 (List.replicate 1024 0) = true ∧
    (∃ c, nextCmd (sluSt 1 {} []) 0 1 = some c ∧
      postCheck (dropCmd c (sluSt 1 {} [])) (rangeTenant (sluSt 1 {} []) 0) (stagedBytes (sluSt 1 {} []) 0) = some stMalformed ∧
      stMalformed ≠ stStateConflict ∧ stMalformed ≠ stOk) ∧
    (put staged 32 [0, 0, 0] = put staged 32 [0, 0, 0] ∧ put staged 32 [0, 0, 0] ≠ put (List.replicate 1024 0) 32 [0, 0, 0]) ∧
    (∃ c, nextCmd (sluSt 2 { st := .armed, bytes := staged } []) 0 2 = some c ∧
      (entryOf (dropCmd c (sluSt 2 { st := .armed, bytes := staged } [])) 0).st = .armed) ∧
    (∃ c, nextCmd (sluSt 3 { st := .draining } []) 0 3 = some c ∧ (entryOf (dropCmd c (sluSt 3 { st := .draining } [])) 0).st ≠ .armed) ∧
    (∃ c, nextCmd (sluSt 3 { st := .armed, limited := true, left := 65535 } []) 0 3 = some c ∧
      (entryOf (dropCmd c (sluSt 3 { st := .armed, limited := true, left := 65535 } [])) 0).st = .armed) ∧
    (entryOf up 0).st ≠ .draining ∧
    (let s : State := { up with slu := { entry := [(0, { st := .draining })] } }
     (entryOf s 0).st = .draining ∧ instancesOf s 0 = 0 ∧ (entryOf s 0).steps = [] ∧ twf {} s.slu.entry = true ∧ (entryOf s 0).cancelMsgs = []) := by
  and_intros <;> first | decide +kernel | exact ⟨_, rfl, by decide +kernel⟩

def enable0 : Enable := { entry := 0, arg := 6, msg := some msg1, at_ := 0, lc := true }
/-- COMBINE of 2 contributions of one record of 32 BF16 elements, generation 0, base 0, stride 128, 20 µs. -/
def combineP : Bytes := [1, 0, 0, 0, 2, 0, 0, 0] ++ leBytes 8 0 ++ leBytes 4 128 ++ leBytes 4 20000
def stepSt (st : CombineStep) : State := { up with slu := { entry := [(0, { st := .armed, bytes := padTo 72 [] ++ combineP, steps := [(0, st)] })] } }
/-- The instance of a FORWARD or SIGNAL to endpoint 2, a member of composition 9. -/
def fwdSt (op : Nat) : State :=
  { withComp comp1 (actMsg op ([2, 0, 0, 0] ++ leBytes 12 0)) with slu := { (actMsg op ([2, 0, 0, 0] ++ leBytes 12 0)).slu with win := (net 1).slu.win } }

theorem wit_InstancesCombineAndForward :
    tget [] up.slu.queue 0 = [] ∧
    (let s : State := { up with slu := { queue := [(0, [enable0, enable0])] } }
     tget [] s.slu.queue 0 = enable0 :: [enable0] ∧ tcount s.slu.inst (fun _ i => i.die == 0) < 8192) ∧
    (∃ x k p m, startedAct (actMsg 3 combineP) 0 3 = some (x, k, p) ∧ x.msg = some m) ∧
    ({ msg1 with len := 80 } : EnMsg).len = contribLen combineP ∧ msg1.len ≠ contribLen combineP ∧ contribPlaces combineP (List.replicate 80 0) = false ∧
    (kBase combineP ≤ 128 ∧ (128 - kBase combineP) % kStride combineP = 0 ∧ 6 % 2 * kN combineP ≤ (128 - kBase combineP) / kStride combineP ∧
      (128 - kBase combineP) / kStride combineP - 6 % 2 * kN combineP < kN combineP) ∧
    contribGen combineP (List.replicate 80 0) = false ∧ contribGen (padTo 112 [1, 0, 0, 0, 2, 0, 1, 0]) (List.replicate 80 0) = true ∧
    tlook (entryOf (stepSt ⟨4, [(1, [])], 0, 8, true⟩) 0).steps (6 % 2) = some ⟨4, [(1, [])], 0, 8, true⟩ ∧ 4 ≠ 6 ∧
    (let st : CombineStep := ⟨6, [(1, [])], 19980000, 8, true⟩
     tlook (entryOf (stepSt st) 0).steps 0 = some st ∧ st.step = 6 ∧ (tlook st.slots 1).isSome = true ∧
       ¬ now up < st.opened + kTimeout (aParams (entryOf (stepSt st) 0).bytes 0)) ∧
    (let st : CombineStep := ⟨6, [(1, [])], 19990000, 8, true⟩
     now up < st.opened + kTimeout (aParams (entryOf (stepSt st) 0).bytes 0) ∧ tlook st.slots 0 = none ∧ st.slots.length < kN combineP ∧
       kN combineP ≤ (tput st.slots 0 []).length) ∧
    tlook (entryOf up 0).steps 0 = none ∧
    (∃ x k p m, startedAct (actMsg 4 []) 0 4 = some (x, k, p) ∧ x.msg = some m ∧ relaysPend (actMsg 4 []) x = false ∧ forwardAlone (actMsg 4 []) x = true) ∧
    (∃ x k p, startedAct (fwdSt 5) 0 5 = some (x, k, p) ∧ rd p 0 3 = 2) := by
  and_intros <;> first | decide +kernel | exact ⟨_, _, _, _, rfl, rfl⟩ | exact ⟨_, _, _, _, rfl, rfl, by decide +kernel⟩ | exact ⟨_, _, _, rfl, by decide +kernel⟩

/-- A started action of tenant 5 in a region with frames, window 3 being its program window, which holds `image`. -/
def progAct (op : Nat) (p : Bytes) (prog : Tbl Prog) : State :=
  { withWin 2 (act op p) with
    mem := { fast := memWrite [] 0x5000000 image }, prog := prog
    cfg := { up.cfg with img := some imgR } }
def installing : State := { up with installs := [(5, ⟨0, 2, image⟩)] }
/-- `progAct` for one that holds the FIRMWARE privilege, or not. -/
def winAct (op : Nat) (p : Bytes) (priv : Nat) (w : Window) : State :=
  { withWin 2 (act op p) with
    slu := { (act op p).slu with inst := [(0, { inst1 op p with priv := priv })], win := [(3, w)] }, cfg := { up.cfg with img := some imgR } }
def win3 : Window := { st := .active, kind := 0, tenant := 5, length := 65536, frames := [0x5000000] }

def slots (st : ProgSt) (tenant gen : Nat) : Tbl Prog := [(1, { st := st, tenant := tenant, gen := gen })]
def rmAct (g : Tbl Prog) : State := { act 0x0F [1, 0, 7, 0] with prog := g }

theorem wit_ProgramIsRefused : (startedAct (act 0x0E []) 0 0x0E).map (·.1.tenant) = some 5 ∧ tlook (act 0x0E []).installs 5 = none ∧
    (programBad (stagedImage (act 0x0E []) 5)).isSome = true := by decide +kernel
/-- A window whose first frame holds `bs` reads as `bs`. -/
theorem winRead_written {s : State} {id f n : Nat} {rest : List Nat} {bs : Bytes} (hw : (winOf s id).frames = f :: rest)
    (hk : memKeys s (winOf s id).tenant = none) (hm : s.mem.fast = memWrite [] f bs) (h0 : 0 < n) (hn : n ≤ bs.length) (h6 : n ≤ 65536) :
    winRead s id 0 n = bs.take n := by
  have hs : winSegs (winOf s id) (n / 65536 + 2) 0 n = [(f, n)] := by
    have hz : n ≠ 0 := by omega
    simp [winSegs, hw, hz, Nat.min_eq_left h6]
  unfold winRead
  simp only [hs, List.flatMap_cons, List.flatMap_nil, List.append_nil, readFast, hk, hm, Laws.memRead_memWrite Laws.memWf_nil f n bs hn]
  simp [padTo, slice, hn]

theorem image_length : image.length = 1664 := by decide +kernel

theorem staged_image : stagedImage (progAct 0x0E [] []) 5 = image := by
  have h : ∀ n, 0 < n → n ≤ 1664 → winRead (progAct 0x0E [] []) 3 0 n = image.take n := fun n h0 hn =>
    winRead_written (f := 0x5000000) (rest := []) rfl (by decide +kernel) (by simp only [progAct]) h0 (by rw [image_length]; exact hn) (by omega)
  show winRead (progAct 0x0E [] []) 3 0 (min 196608 (max 64 (rd (winRead (progAct 0x0E [] []) 3 0 64) 4 4))) = image
  rw [h 64 (by omega) (by omega), show min 196608 (max 64 (rd (image.take 64) 4 4)) = 1664 by decide +kernel, h 1664 (by omega) (by omega)]
  exact List.take_of_length_le (by rw [image_length])

/-- With `test_program_valid`. -/
theorem wit_ProgramIsInstalled : (startedAct (progAct 0x0E [] []) 0 0x0E).map (·.1.tenant) = some 5 ∧ tlook (progAct 0x0E [] []).installs 5 = none ∧
    stagedImage (progAct 0x0E [] []) 5 = image ∧ freeProg (progAct 0x0E [] []) = some 0 :=
  ⟨by decide +kernel, by decide +kernel, staged_image, by decide +kernel⟩
def progsFull : State := progAct 0x0E [] ((List.range 256).map fun k => (k, { st := .installed, tenant := 6 }))
theorem findFrom_none {lo n : Nat} {p : Nat → Bool} (h : ∀ i, i < lo + n → p i = false) : findFrom lo n p = none := by
  induction n generalizing lo with
  | zero => rfl
  | succ n ih =>
    rw [findFrom, h lo (by omega)]
    exact ih fun i hi => h i (by omega)

theorem tlook_run {α : Type} (v : α) (n a i : Nat) (h1 : a ≤ i) (h2 : i < a + n) : tlook ((List.range' a n).map fun k => (k, v)) i = some v := by
  induction n generalizing a with
  | zero => omega
  | succ n ih =>
    rw [List.range'_succ, List.map_cons, tlook]
    split
    · rfl
    · rw [if_neg (by omega)]
      exact ih (a + 1) (by omega) (by omega)

theorem progs_full : freeProg progsFull = none := by
  refine findFrom_none fun i hi => ?_
  have : progOf progsFull i = { st := .installed, tenant := 6 } := by
    unfold progOf tget progsFull progAct
    simp only [List.range_eq_range']
    rw [tlook_run _ 256 0 i (by omega) (by omega)]
    rfl
  rw [this]
  rfl

theorem wit_ProgramFindsNoSlot : (startedAct progsFull 0 0x0E).map (·.1.tenant) = some 5 ∧ freeProg progsFull = none :=
  ⟨by decide +kernel, progs_full⟩

theorem wit_ProgramsComeAndGo :
    tlook installing.installs (5 : BitVec 12).toNat = some ⟨0, 2, image⟩ ∧ tlook up.installs (5 : BitVec 12).toNat = none ∧
    (startedAct (rmAct []) 0 0x0F).map (fun e => (e.1.tenant, rd e.2.2 0 1, rd e.2.2 2 2)) = some (5, 1, 7) ∧
    (progOf (rmAct []) 1).st = .free ∧ ((progOf (rmAct (slots .installed 6 7)) 1).st ≠ .free ∧ (progOf (rmAct (slots .installed 6 7)) 1).tenant ≠ 5) ∧
    ((progOf (rmAct (slots .installed 5 8)) 1).tenant = 5 ∧ (progOf (rmAct (slots .installed 5 8)) 1).gen ≠ 7) ∧
    ((progOf (rmAct (slots .draining 5 7)) 1).tenant = 5 ∧ (progOf (rmAct (slots .draining 5 7)) 1).gen = 7) ∧
    (progOf { up with prog := [(255, { st := .draining, tenant := 5, gen := 65535 })] } (255 : Fin 256)).st = .draining ∧
    (progOf { up with prog := [(255, { st := .draining, tenant := 5, gen := 65535 })] } (255 : Fin 256)).uses = 0 ∧
    (progOf up (0 : Fin 256)).st ≠ .draining := by decide +kernel

theorem wit_ProgramsAndWindowsOpen :
    (∃ x k p, startedAct (winAct 0x10 [2] 127 win3) 0 0x10 = some (x, k, p) ∧ mayWindow x (bits (rd p 0 1) 3 0) x.tenant = false) ∧
    (∃ x k p, startedAct (act 0x10 ([0, 0, 0, 0, 0, 0, 0, 0] ++ leBytes 6 65536)) 0 0x10 = some (x, k, p) ∧
      mayWindow x (bits (rd p 0 1) 3 0) x.tenant = true ∧
      (openWindow (bits (rd p 0 1) 3 0) x.tenant (rd p 8 6) (act 0x10 ([0, 0, 0, 0, 0, 0, 0, 0] ++ leBytes 6 65536))).isSome = false) ∧
    (∃ x k p, startedAct (winAct 0x10 ([0, 0, 0, 0, 0, 0, 0, 0] ++ leBytes 6 65536) 0 win3) 0 0x10 = some (x, k, p) ∧
      mayWindow x (bits (rd p 0 1) 3 0) x.tenant = true ∧
      (openWindow (bits (rd p 0 1) 3 0) x.tenant (rd p 8 6) (winAct 0x10 ([0, 0, 0, 0, 0, 0, 0, 0] ++ leBytes 6 65536) 0 win3)).isSome = true) ∧
    (∃ x k p, startedAct (winAct 0x11 [3, 0, 0, 0] 0 { win3 with tenant := 6 }) 0 0x11 = some (x, k, p) ∧
      (winOf (winAct 0x11 [3, 0, 0, 0] 0 { win3 with tenant := 6 }) 3).st ≠ .free ∧ mayWindow x 0 6 = false) ∧
    (winOf up (16383 : Fin 16384)).st = .free ∧
    (let s : State := { up with slu := { win := [(16383, { win3 with st := .draining })] } }
     (winOf s (16383 : Fin 16384)).st = .draining ∧ winInFlight s (16383 : Fin 16384) = 0) ∧
    winInFlight { up with slu := { win := [(16383, { win3 with st := .draining, reads := 1 })] } } (16383 : Fin 16384) ≠ 0 := by
  and_intros <;> first | decide +kernel | exact ⟨_, _, _, rfl, by decide +kernel⟩

def revokeBytes (g : Nat) : Bytes :=
  List.replicate 64 0 ++ [0x11, 0, 0, 0, 0, 0, 0, 0, 3, 0, BitVec.ofNat 8 g, BitVec.ofNat 8 (g / 256)]

/-- WINDOW_REVOKE of descriptor 3 by generation `g`, the descriptor being `w`. -/
def revoke (g : Nat) (w : Window) : State :=
  { act 0 [] with slu := { inst := [(0, { inst1 0 [] with priv := 0, bytes := revokeBytes g })], nextInst := 1, win := [(3, w)] } }

theorem revoke_started (g : Nat) (w : Window) (h : g < 65536) : ∃ x p, startedAct (revoke g w) 0 0x11 = some (x, 0, p) ∧ x.tenant = 5 ∧ rd p 0 2 = 3 ∧
    rd p 2 2 = g := by
  have hb : aOp (revokeBytes g) 0 = 0x11 := rfl
  refine ⟨{ inst1 0 [] with priv := 0, bytes := revokeBytes g }, aParams (revokeBytes g) 0, ?_, rfl, rfl, ?_⟩
  · show (match ([(ActSt.started, 0)].find? fun e => e.1 == .started && aOp (revokeBytes g) e.2 == 0x11) with
      | none => none
      | some (_, k) => some (_, k, aParams (revokeBytes g) k)) = _
    simp [hb]
  show (BitVec.ofNat 8 g).toNat + 256 * ((BitVec.ofNat 8 (g / 256)).toNat + 256 * 0) = g
  simp only [BitVec.toNat_ofNat]
  omega

/-- The generations are free values (log 10), so the action's parameters are formed from them. -/
theorem wit_WindowIsRevoked (w : Window) (hw : w = win3 ∨ w = {}) : ∃ x p, startedAct (revoke (winGen (revoke 0 w) 3) w) 0 0x11 = some (x, 0, p) ∧
    mayWindow x 0 5 = true ∧ bits (rd p 0 2) 13 0 = 3 ∧ rd p 2 2 = winGen (revoke (winGen (revoke 0 w) 3) w) 3 := by
  obtain ⟨x, p, h, ht, h0, h2⟩ := revoke_started (winGen (revoke 0 w) 3) w (by unfold winGen; omega)
  exact ⟨x, p, h, by simp [mayWindow, ht], by rw [h0]; rfl, h2⟩

theorem wit_WindowRevokeIsTold : ∃ x p, startedAct (revoke ((winGen (revoke 0 {}) 3 + 65535) % 65536) {}) 0 0x11 = some (x, 0, p) ∧
    rd p 2 2 ≠ winGen (revoke 0 {}) 3 ∧ (rd p 2 2 + 1) % 65536 = winGen (revoke 0 {}) 3 := by
  obtain ⟨x, p, h, ht, h0, h2⟩ := revoke_started ((winGen (revoke 0 {}) 3 + 65535) % 65536) {} (by omega)
  have : winGen (revoke 0 {}) 3 < 65536 := by unfold winGen; omega
  exact ⟨x, p, h, by omega, by omega⟩

theorem wit_WindowRevokeIsStale : ∃ x p, startedAct (revoke ((winGen (revoke 0 win3) 3 + 1) % 65536) win3) 0 0x11 = some (x, 0, p) ∧
    rd p 2 2 ≠ winGen (revoke 0 win3) 3 ∧ (rd p 2 2 + 1) % 65536 ≠ winGen (revoke 0 win3) 3 := by
  obtain ⟨x, p, h, ht, h0, h2⟩ := revoke_started ((winGen (revoke 0 win3) 3 + 1) % 65536) win3 (by omega)
  have : winGen (revoke 0 win3) 3 < 65536 := by unfold winGen; omega
  exact ⟨x, p, h, by omega, by omega⟩
/-- A descriptor: one line of 64 bytes from region 0's 0x5000000 to 0x5001000. -/
def dmaD (addr : Nat) : Bytes :=
  padTo 64 ([1, 0, 0, 0] ++ leBytes 4 64 ++ leBytes 8 addr ++ leBytes 6 0 ++ [0, 0] ++ leBytes 3 1 ++ [0] ++ leBytes 4 64 ++ leBytes 8 0x5001000 ++
    leBytes 6 0 ++ [0, 0] ++ leBytes 3 1)
def dmaSt (x : DmaCh) : State := { up with dma := [(0, x)], cfg := { up.cfg with img := some imgR } }
def run0 (pace line : Nat) : DmaRun := { desc := dmaD 0x5000000, funnel := false, pace := pace, start := 19999900, line := line }

theorem wit_DmaRunsAndComparatorsFire :
    (∃ x k p, startedAct (act 0x12 [7, 0]) 0 0x12 = some (x, k, p)) ∧
    (let x : DmaCh := { desc := dmaD 0x5000000 }
     dmaOf (dmaSt x) 0 = x ∧ x.run = none ∧ x.pending = false ∧ dmaGated (dmaSt x) 0 = false ∧ dmaCheck (dmaSt x) (padTo 64 x.desc) x.funnelEn x.pace = none) ∧
    (let x : DmaCh := { desc := dmaD 0x5000001, intEn := true }
     dmaOf (dmaSt x) 0 = x ∧ x.run = none ∧ x.pending = false ∧ dmaGated (dmaSt x) 0 = false ∧ dmaCheck (dmaSt x) (padTo 64 x.desc) x.funnelEn x.pace = some 5) ∧
    ((dmaOf (dmaSt { run := some (run0 0 0) }) 0).run.isSome = true ∧ (dmaOf (dmaSt { pending := true }) 0).pending = true) ∧
    dmaGated { dmaSt {} with rgn := [(0, { gated := true })] } 0 = true ∧
    dmaCheck (dmaSt {}) (dmaD 0x5000000) false 99 = some 8 ∧ dmaCheck (dmaSt {}) (dmaD 0x5000000) false 100 = none ∧
    (dmaOf (dmaSt { run := some (run0 100 0) }) 0).run = some (run0 100 0) ∧ dmDstLines (run0 100 0).desc = 1 ∧
    (¬ (run0 100 0).start + (run0 100 0).line * 100 > now up) ∧ dmDstLines (run0 100 1).desc ≤ (run0 100 1).line ∧
    ((dmaMemError (run0 0 0) .fenced { dmaSt {} with rgn := [(0, { fenced := true })] }).isSome = true ∧ (dmaMemError (run0 0 0) (.timeout true) (dmaSt {})).isSome = false ∧
      onPort { runSide (run0 0 0) false with kind := 1 } 0x5000000 = true ∧ onPort (runSide (run0 0 0) false) 0 = false) ∧
    ((runRead 0 (run0 0 0) 0 64 .clean (dmaSt {})).1 = .clean ∧ (runRead 0 (run0 0 0) 0 64 .clean { dmaSt {} with rgn := [(0, { fenced := true })] }).1 = .waits ∧
      (runOut { dmaSt {} with rgn := [(0, { fenced := true })] } (run0 0 0)).isSome = true) ∧
    ((runRead 0 (run0 0 0) 0 64 (.corrected 0x5000000) (dmaSt {})).1 = .clean ∧
      (runRead 0 (run0 0 0) 0 64 (.uncorrectable 0x5000000) (dmaSt {})).1 = .bad 0x5000000 ∧
      (runRead 0 (run0 0 0) 0 64 (.uncorrectable 0x5002000) (dmaSt {})).1 = .clean) ∧
    ((dmaOf (dmaSt { bytes := 5 }) 0).bytes ≤ 5 ∧ (dmaOf (dmaSt { bytes := 5 }) 0).bytes < 6 ∧ (dmaOf (dmaSt { intEn := true }) 0).intEn = true) ∧
    (awake State.reset = false ∧ State.reset.bmk.counting = false ∧ up.bmk.counting = true) ∧
    (dmaOf up (319 : Fin 320)).run = none ∧
    (let s : State := { up with bmk := { up.bmk with tmr := [(31, { compare := 20000000, ctrl := 0x1 })] } }
     (tmrOf s (31 : Fin 32)).ctrl.getLsbD 0 = true ∧ (tmrOf s (31 : Fin 32)).compare ≤ now s ∧ (tmrOf s (31 : Fin 32)).ctrl.getLsbD 1 = false) ∧
    (let s : State := { up with bmk := { up.bmk with tmr := [(0, { compare := 19999990, ctrl := 0x13 })] } }
     (tmrOf s (0 : Fin 32)).ctrl.getLsbD 1 = true ∧ bits (tmrOf s (0 : Fin 32)).ctrl.toNat 31 4 * 10 = 10 ∧ (now s - (tmrOf s (0 : Fin 32)).compare) / 10 + 1 = 2) := by
  and_intros <;> first | decide +kernel | exact ⟨_, _, _, rfl⟩

/-- An admission of tenant 5, range [0, 4), partition 0, unprotected. -/
def admit5 : Bytes := padTo 64 ([5, 0, 0, 0, 0, 0, 4, 0] ++ leBytes 8 1)
def protected5 : Bytes := padTo 1692 ([5, 0, 1, 0, 0, 0, 4, 0] ++ leBytes 8 1)
def ranged : State := { up with cfg := { up.cfg with img := some imgR } }
def slotSt (x : KeySlot) : State := { up with key := [(0, x)] }
def key5 : KeySlot := { tenant := 5, st := .active, sluiceCount := 4 }
def req5 : Bytes := padTo 8 [5]
def link0 : LinkKey := { key := 1, activate := 20000000, lifetime := 600 }
/-- KEY_INSTALL for tenant 5 at 21.000001 ms. -/
def install5 (t : Nat) : Bytes := padTo 1692 ([5, 0, 0, 0, 0, 0, 0, 0] ++ leBytes 8 t ++ [1, 0])

/- The clauses in which a blob opens have no concrete witness: AES key unwrap is opaque (log 5). -/
theorem wit_TenantsComeAndGo :
    fwCmd up 0x10 = none ∧ (∃ c, fwCmd (fw 0x10 admit5) 0x10 = some c ∧ fwGate (fw 0x10 admit5) 0x10 c.req = none) ∧
    admitBad [] = true ∧ (admitBad admit5 = false ∧ slotOfTenant (slotSt key5) (rd admit5 0 2) = some (0, key5)) ∧
    (slotOfTenant (slotSt { key5 with tenant := 6, sluiceBase := 3 }) (rd admit5 0 2) = none ∧
      rangeMeets (slotSt { key5 with tenant := 6, sluiceBase := 3 }) (rd admit5 4 2) (rd admit5 6 2) = some (0, { key5 with tenant := 6, sluiceBase := 3 })) ∧
    (slotOfTenant (slotSt { key5 with tenant := 6, sluiceBase := 4 }) (rd admit5 0 2) = none ∧
      rangeMeets (slotSt { key5 with tenant := 6, sluiceBase := 4 }) (rd admit5 4 2) (rd admit5 6 2) = none ∧
      emptySlot (slotSt { key5 with tenant := 6, sluiceBase := 4 }) = some 1 ∧ bitAt (rd admit5 2 1) 0 = false) ∧
    (admitBad protected5 = false ∧ bitAt (rd protected5 2 1) 0 = true ∧
      (blobKey (slice protected5 0 64) (protected5.drop 64) { up with sec := { certMismatch := true } }).1.isSome = false) ∧
    (openTenantWindows 5 4 (fillSlot 0 admit5 none up)).isSome = false ∧ (openTenantWindows 5 4 (fillSlot 0 admit5 none ranged)).isSome = true ∧
    rd admit5 0 2 ≠ 0 ∧ (∃ c, fwCmd (fw 0x12 (install5 21000001)) 0x12 = some c ∧ fwGate (fw 0x12 (install5 21000001)) 0x12 c.req = none) ∧
    keyTooSoon up {} (rd (install5 21000000) 8 8) = true ∧ keyTooSoon up {} (rd (install5 21000001) 8 8) = false ∧
    (let s := slotSt { key5 with keys := { pending := some link0 } }
     (keysOf s (.slot 0)).pending = some link0 ∧ awake s = true ∧ link0.activate ≤ now s ∧ ¬ ({ link0 with activate := 20000001 } : LinkKey).activate ≤ now s) ∧
    (keysOf up .fabric).pending = none ∧ (keysOf (slotSt { key5 with keys := { previous := some (link0, 7) } }) (.slot 0)).previous = some (link0, 7) ∧
    (7 ≤ now up ∧ now up < 20000001) ∧
    (keyOf (slotSt { key5 with keys := { current := some link0 } }) (0 : Fin 1024)).keys.current = some link0 ∧
    (link0.lifetime ≠ 0 ∧ now up * 6 < link0.activate * 6 + link0.lifetime * 5 ∧
      ({ link0 with activate := 19999500 } : LinkKey).activate * 6 + 600 * 5 ≤ now up * 6) ∧ up.slu = {} ∧ 20000000 ≤ now up ∧
    (∃ c, fwCmd (fw 0x11 req5) 0x11 = some c ∧ fwGate (fw 0x11 req5) 0x11 c.req = none ∧ slotOfTenant (fw 0x11 req5) (rd c.req 0 2) = none) ∧
    (∃ c, fwCmd { fw 0x11 req5 with key := [(0, key5)] } 0x11 = some c ∧ slotOfTenant { fw 0x11 req5 with key := [(0, key5)] } (rd c.req 0 2) = some (0, key5) ∧
      key5.st = .active ∧ key5.retireAt = none ∧ (fw 0x11 req5).cfg.outstanding.length < 16 ∧ 16 ≤ (fwFull 0x11 req5).cfg.outstanding.length) ∧
    ((keyOf (slotSt { key5 with retireAt := some 20000000 }) (0 : Fin 1024)).retireAt = some 20000000 ∧
      (keyOf (slotSt { key5 with retireAt := some 20000000 }) (0 : Fin 1024)).st = .active) ∧
    (let s := slotSt { key5 with st := .retiring }
     (keyOf s (0 : Fin 1024)).st = .retiring ∧ awake s = true ∧ drainCount s (0 : Fin 1024) = 0 ∧ objectsFree s (keyOf s (0 : Fin 1024)).tenant = true) ∧
    (keyOf (slotSt { key5 with st := .zeroising }) (0 : Fin 1024)).st = .zeroising ∧ (keyOf up (1023 : Fin 1024)).st = .empty ∧
    rgnFenced { up with rgn := [(15, { fenced := true })] } (15 : Fin 16) = true ∧
    (let s : State := { up with sto := { fast := [(0x5000000, ⟨65536, .scrub, 5⟩)] } }
     awake s = true ∧ rgnFenced s (0 : Fin 16) = false ∧ scrubFrame s (0 : Fin 16) = some (0x5000000, ⟨65536, .scrub, 5⟩) ∧ twf 0 s.mem.fast = true) ∧
    (let s : State := { up with sto := { deep := [(0, ⟨65536, .scrub, 5⟩)] }, tier := [(0, { inService := true })] }
     rgnFenced s (0 : Fin 16) = false ∧ scrubFrame s (0 : Fin 16) = none ∧ scrubUnit s (0 : Fin 16) = some (0, ⟨65536, .scrub, 5⟩)) := by
  and_intros <;> first | decide +kernel | exact ⟨_, rfl, by decide +kernel⟩

def secFw (op : Nat) (req : Bytes) (sec : Sec) : State := { fw op req with key := [(0, key5)], sec := sec }
def nonce5 : Bytes := padTo 40 [5]
def list5 : BaseList := { sig := 3, entries := [List.replicate 48 0], at_ := 20000000 }

theorem wit_AttestationSignsOnce :
    fwCmd up 1 = none ∧ (∃ l, fwCmd (fw 4 [1]) 4 = some l ∧ fwGate (fw 4 [1]) 4 l.req = some stMalformed) ∧
    (∃ c, fwCmd (fw 0x13 nonce5) 0x13 = some c ∧ fwGate (fw 0x13 nonce5) 0x13 c.req = none ∧ slotOfTenant (fw 0x13 nonce5) (rd c.req 0 2) = none) ∧
    (∃ c, fwCmd (secFw 0x13 nonce5 {}) 0x13 = some c ∧ slotOfTenant (secFw 0x13 nonce5 {}) (rd c.req 0 2) = some (0, key5) ∧ key5.st = .active) ∧
    ({ key5 with st := .retiring } : KeySlot).st ≠ .active ∧ (secFw 0x13 nonce5 { certMismatch := true }).sec.certMismatch = true ∧
    (attestTokens (secFw 0x13 nonce5 { tokens := 999999999, tokensAt := 20000000 }) < 1000000000 ∧
      1000000000 ≤ attestTokens (secFw 0x13 nonce5 { tokens := 1000000000, tokensAt := 20000000 })) ∧
    ((secFw 0x13 nonce5 {}).sec.trees.contains 0 = false ∧ (secFw 0x13 nonce5 { trees := [0] }).sec.trees.contains (0 / 32768) = true) ∧
    ((secFw 0x13 nonce5 { trees := [0] }).sec.sigNext = 0 ∧ (reserveKey false (secFw 0x13 nonce5 { trees := [0] })).1 = some stRetry) ∧
    ((reserveKey true (secFw 0x13 nonce5 { trees := [0] })).1.isSome = false ∧
      (secFw 0x13 nonce5 { sigLimit := 1024 }).sec.sigNext ≠ (secFw 0x13 nonce5 { sigLimit := 1024 }).sec.sigLimit) ∧
    (2 ^ 30 < ({ sigNext := 2 ^ 30, sigLimit := 2 ^ 30 } : Sec).sigLimit + 1024 ∧ ({ sigNext := 2 ^ 30 - 1024, sigLimit := 2 ^ 30 - 1024 } : Sec).sigLimit + 1024 ≤ 2 ^ 30) ∧
    (∃ c, fwCmd (secFw 0x14 (leBytes 4 3 ++ leBytes 4 0) {}) 0x14 = some c ∧ fwGate (secFw 0x14 (leBytes 4 3 ++ leBytes 4 0) {}) 0x14 c.req = none ∧
      (tfind (secFw 0x14 (leBytes 4 3 ++ leBytes 4 0) {}).sec.lists fun _ l => l.sig == rd c.req 0 4 && listKept (secFw 0x14 [] {}) l).isSome = false) ∧
    (tfind (secFw 0x14 (leBytes 4 3 ++ leBytes 4 0) { lists := [(5, list5)] }).sec.lists fun _ l => l.sig == 3 && listKept (secFw 0x14 [] {}) l) = some (5, list5) ∧
    tlook (secFw 0 [] { lists := [(5, list5)] }).sec.lists (5 : BitVec 12).toNat = some list5 ∧
    (now up < list5.at_ + 10000000000 ∧ ({ list5 with at_ := 1 } : BaseList).at_ + 10000000000 ≤ 10020000000) ∧ up.sec.trees.contains (0 : Fin 32768).val = false ∧
    (let s : State := { up with sec := { sigNext := 16384 } }
     (1 : Fin 32768).val = s.sec.sigNext / 32768 + 1 ∧ 16384 ≤ s.sec.sigNext % 32768 ∧ s.sec.trees.contains (1 : Fin 32768).val = false) ∧
    (awake up = true ∧ 4 ≤ up.cfg.phase ∧ up.cfg.phase ≠ 8 ∧ up.cfg.phase ≠ 9 ∧ (0 : Fin 32768).val = up.sec.sigNext / 32768) ∧
    ((32767 : Fin 32768).val ≠ up.sec.sigNext / 32768 ∧ (32767 : Fin 32768).val ≠ up.sec.sigNext / 32768 + 1) ∧
    (∃ c, fwCmd (fw 4 []) 4 = some c ∧ fwGate (fw 4 []) 4 c.req = none) ∧
    (∃ c, fwCmd (fw 1 (leBytes 4 (2 ^ 27 - 16) ++ leBytes 4 16)) 1 = some c ∧ fwGate (fw 1 (leBytes 4 (2 ^ 27 - 16) ++ leBytes 4 16)) 1 c.req = none ∧
      ¬ (rd c.req 4 4 = 0 ∨ 65536 < rd c.req 4 4 ∨ 2 ^ 27 < rd c.req 0 4 + rd c.req 4 4)) ∧
    (∃ c, fwCmd (fw 2 (padTo 320 (leBytes 4 0x2000000 ++ leBytes 4 256))) 2 = some c ∧
      fwGate (fw 2 (padTo 320 (leBytes 4 0x2000000 ++ leBytes 4 256))) 2 c.req = none ∧ rd c.req 0 4 % 256 = 0 ∧ rd c.req 4 4 = 256 ∧
      rd c.req 0 4 + rd c.req 4 4 ≤ 0x4000000 ∧ rd c.req 0 4 / 0x2000000 ≠ up.cfg.slot ∧ 0 / 0x2000000 = up.cfg.slot) ∧
    (¬ 0x4000000 < 0x4000000 - 256 + 256 ∧ 0x440FF00 < 0x4410000 ∧ 0x4000000 < 0x440FF00 + 256) := by
  and_intros <;> first | decide +kernel | exact ⟨_, rfl, by decide +kernel⟩

/-- Node 1 of composition 9, with record `x`, and the message `op` of node 2 that carries `b`. -/
def mem9 (x : Comp) : State := withComp x up
/-- PAIR_STATE: pair 0 degraded to its node A (15 Table 15.3). -/
def degrade : Bytes := recPairState 0 1
def fetching : Comp := { comp1 with fetch := some { src := 2, addr := 2 } }

/-- Every message of agreement reaches its handler, and one that does not parse does not. -/
theorem wit_VotersMessages :
    (∃ a u, takeControl (pkt 0x25 (agree 4 4098 [])) [0x25] (mem9 comp1) = (some a, u)) ∧
    (∃ a u, takeControl (pkt 0x26 (agree 4 4098 degrade)) [0x26] (mem9 comp1) = (some a, u)) ∧
    (∃ a u, takeControl (pkt 0x27 (agree 4 4098 degrade)) [0x27] (mem9 comp1) = (some a, u)) ∧
    (∃ a u, takeControl (pkt 0x28 (agree 4 0 degrade)) [0x28] (mem9 comp1) = (some a, u)) ∧
    (∃ a u, takeControl (pkt 0x21 (leBytes 4 9 ++ leBytes 4 0 ++ leBytes 8 1)) [0x21] (mem9 comp1) = (some a, u)) ∧
    (∃ a u, takeControl (pkt 0x22 (leBytes 4 9 ++ leBytes 12 0)) [0x22] (mem9 comp1) = (some a, u)) ∧
    (∃ a u, takeControl (pkt 0x2C (leBytes 4 9 ++ leBytes 4 5 ++ leBytes 8 0)) [0x2C] (mem9 comp1) = (some a, u)) ∧
    (∃ a u, takeControl (pkt 0x20 (leBytes 16 6)) [0x20] up = (some a, u)) ∧
    (∃ a u, takeControl (pkt 0x2D (leBytes 16 2)) [0x2D] (mem9 comp1) = (some a, u)) ∧
    (∃ a u, takeControl (pkt 0x29 (leBytes 4 9 ++ leBytes 4 1 ++ leBytes 8 7 ++ leBytes 8 5)) [0x29] (mem9 comp1) = (some a, u)) ∧
    (∃ a u, takeControl (pkt 0x2B (leBytes 4 9 ++ leBytes 12 0)) [0x2B] (mem9 comp1) = (some a, u)) ∧
    (∃ a u, takeControl (pkt 0x2A (leBytes 64 0)) [0x2A] (mem9 comp1) = (some a, u)) ∧
    (∃ u, takeControl (pkt 0x25 []) [0x25] (mem9 comp1) = (none, u)) := by
  and_intros <;> first | exact some_of (by decide +kernel) | exact none_of (by decide +kernel)

/-- A node that holds 256 other compositions. -/
def full (x : Comp) : State := { up with datum := { up.datum with comp := (9, x) :: (List.range' 10 256).map fun c => (c, comp1) } }

theorem wit_VotersKeepTheirPromise :
    (∃ st v, agreeMeets (pkt 0x25 []) (agree 3 4098 []) true (mem9 comp1) = (some st, v)) ∧
    (∃ v, agreeMeets (pkt 0x25 []) (agree 4 4098 []) true (mem9 comp1) = (none, v) ∧ gComp (agree 4 4098 []) = 9) ∧
    (gBallot (agree 4 4098 []) = 4098 ∧ comp1.promise ≤ 4098 ∧ 4098 < ({ comp1 with promise := 4099 } : Comp).promise) ∧
    behind fetching = true ∧ (behind comp1 = false ∧ ({} : Comp).map = none) ∧ ({ comp1 with voting := false } : Comp).voting = false ∧
    (3 < map1.epoch ∧ map1.epoch < 5 ∧ 4 = map1.epoch) ∧
    agreeBad [9] = true ∧ (agreeBad (agree 4 4098 degrade) = false ∧ (compOf (mem9 comp1) 9).map = some map1) ∧
    fromNodeMember comp1 3 = false ∧ fromNodeMember comp1 2 = true ∧
    (gBase (agree 3 4098 degrade) + 1 = map1.epoch ∧ ({ comp1 with lastChange := degrade } : Comp).lastChange = gChange (agree 3 4098 degrade) ∧
      gChange (agree 3 4098 degrade) ≠ []) ∧
    (gBase (agree 2 4098 degrade) < map1.epoch ∧ gBase (agree 2 4098 degrade) + 1 ≠ map1.epoch) ∧ map1.epoch < gBase (agree 5 4098 degrade) ∧
    (gBase (agree 4 4098 [1, 1]) = map1.epoch ∧ changeResult (some map1) (gChange (agree 4 4098 [1, 1])) = none) ∧
    (changeResult (some map1) (gChange (agree 4 4098 degrade))).isSome = true ∧
    (map1.clock ≠ 2 ∧ map1.clock = 3 ∧ rd (leBytes 4 9 ++ leBytes 4 1 ++ leBytes 8 1) 4 4 ≠ 0) ∧
    ({ comp1 with prev := some { map1 with epoch := 3 } } : Comp).prev.isSome = true ∧
    (((changeResult (some map1) degrade).bind id).map fun m => ((memberOfNode m (myNode up)).isSome, canStore 9 m (mem9 comp1), canStore 9 m (full comp1),
      memberOfNode m 7)) = some (true, true, false, none) ∧
    (gBallot (agree 4 1 degrade) ≠ 0 ∧ gBallot (agree 4 0 degrade) = 0 ∧ maySubmit comp1 4 = false ∧ maySubmit comp1 3 = true) := by
  and_intros <;> first | decide +kernel | exact some_of (by decide +kernel) | exact ⟨_, rfl, by decide +kernel⟩

def withProps (l : List Proposal) : State := { mem9 comp1 with datum := { (mem9 comp1).datum with prop := [(9, l)] } }
def prop0 : Proposal := { change := degrade, who := .node, round := 1, since := 18000000 }

theorem wit_ProposalsGatherAQuorum :
    propsOf up 9 = [] ∧ (propsOf (withProps [{ prop0 with round := 0 }]) (9 : BitVec 32).toNat = { prop0 with round := 0 } :: [] ∧ awake up = true) ∧
    (behind (compOf (withProps [prop0]) 9) = false ∧ changeResult (compOf (withProps [{ prop0 with change := [1] }]) 9).map [1] = none) ∧
    behind (compOf (withComp fetching up) 9) = true ∧
    (propsOf (withProps [prop0]) (9 : BitVec 32).toNat = prop0 :: [] ∧ prop0.round ≠ 0 ∧ prop0.phase = .prepare ∧ prop0.since + 2000000 ≤ now up ∧
      now up < ({ prop0 with since := 18000001 } : Proposal).since + 2000000) ∧
    (let p := { prop0 with round := 8, phase := .backoff 20000000 }
     propsOf (withProps [p]) (9 : BitVec 32).toNat = p :: [] ∧ p.phase = .backoff 20000000 ∧ p.round ≠ 0 ∧ 20000000 ≤ now up ∧ 8 ≤ p.round) ∧
    now up < 20000001 ∧ prop0.round < 8 ∧ 4097 ≠ ballotOf (withProps [prop0]) 2 ∧ ballotOf (withProps [prop0]) 1 = 4097 ∧ rd [4] 0 1 ≠ stOk ∧ rd [0] 0 1 = stOk ∧
    (let p := { prop0 with phase := .accept, accepts := [2] }
     propsOf (withProps [p]) 9 = p :: [] ∧ (compOf (withProps [p]) 9).map = some map1 ∧ p.phase = .accept) ∧
    (votes map1 [] < quorum map1 ∧ quorum map1 ≤ votes map1 [1]) ∧
    (let s := withProps [{ prop0 with round := 0 }]
     behind (compOf s 9) = false ∧ (compOf s 9).map = some map1 ∧ (changeResult (compOf s 9).map degrade).isSome = true ∧
     (voters map1).contains (myNode s) = true ∧ (agreeGate (compOf s 9) map1.epoch true).1 = none ∧ (voterPrepare 9 4097 s).1.1 = stOk ∧
     (voters map1).contains 7 = false ∧ (agreeGate { comp1 with voting := false } map1.epoch true).1.isSome = true ∧
     (voterPrepare 9 4097 (withComp { comp1 with promise := 4098 } s)).1.1 ≠ stOk) ∧
    ((compOf up 9).map = none ∧ createFull 9 none up = false ∧ createFull 9 (some map1) (full comp1) = true ∧ 2 ≠ myNode up) ∧
    (∃ c, fwCmd (fw 0x20 (agree 4 0 degrade)) 0x20 = some c ∧ fwGate (fw 0x20 (agree 4 0 degrade)) 0x20 c.req = none ∧
      (submitGate (compOf (fw 0x20 (agree 4 0 degrade)) (gComp c.req)) c.req true).1 = some stNoPage) ∧
    (∃ c, let s := withComp comp1 (fw 0x20 (agree 4 0 degrade))
      fwCmd s 0x20 = some c ∧ fwGate s 0x20 c.req = none ∧ (submitGate (compOf s (gComp c.req)) c.req true).1 = none ∧ (acceptDeferred c (gComp c.req) s).isSome = true) ∧
    (∃ c, let s := withComp comp1 (fwFull 0x20 (agree 4 0 degrade))
      fwCmd s 0x20 = some c ∧ fwGate s 0x20 c.req = none ∧ (submitGate (compOf s (gComp c.req)) c.req true).1 = none ∧ 16 ≤ s.cfg.outstanding.length) := by
  and_intros <;> first | decide +kernel | exact ⟨_, rfl, by decide +kernel⟩

/-- A message of number 9 of purpose `p` and opcode `op` to endpoint 2, and its response. -/
def asked (op : Nat) (p : Purpose) : State := outSt { op := op, dst := 2, purpose := p }

theorem wit_ResponsesReachTheirPurpose :
    (∃ a id m u, takeAnswer (resp 0xA5 (leBytes 16 0)) [0xA5, 0xA6, 0xA7] (asked 0x25 (.prepare 9 4097 2)) = (some (a, id, m), u) ∧ m.purpose = .prepare 9 4097 2) ∧
    (∃ a id m u, takeAnswer (resp 0xA6 (leBytes 16 0)) [0xA5, 0xA6, 0xA7] (asked 0x26 (.accept 9 4097 2)) = (some (a, id, m), u) ∧ m.purpose = .accept 9 4097 2) ∧
    (∃ a id m u, takeAnswer (resp 0xA7 (leBytes 16 0)) [0xA5, 0xA6, 0xA7] (asked 0x27 (.commitTo 9 2)) = (some (a, id, m), u) ∧ m.purpose = .commitTo 9 2) ∧
    (∃ a id m u, takeAnswer (resp 0xA2 (leBytes 16 0)) [0xA2] (asked 0x22 (.mapRead 9)) = (some (a, id, m), u) ∧ m.purpose = .mapRead 9) ∧
    (∃ a id m u, takeAnswer (resp 0xA9 (leBytes 16 0)) [0xA9, 0xAB] (asked 0x29 (.loadOpen 1)) = (some (a, id, m), u) ∧ m.purpose = .loadOpen 1) ∧
    (∃ a id m u, takeAnswer (resp 0xAB (leBytes 16 0)) [0xA9, 0xAB] (asked 0x2B (.loadDone 1)) = (some (a, id, m), u) ∧ m.purpose = .loadDone 1) := by
  and_intros <;> exact ⟨_, _, _, _, rfl, rfl⟩

def probing (p : ProbeSt) : State := { up with datum := { up.datum with probe := [(2, p)] } }
/-- Node 1 serves sequence 7, ACTIVE in slot 0; pair 0 is in state `st`. -/
def serves (st : Nat) (q : Seq) : State :=
  { mem9 { comp1 with map := some { map1 with pairs := [(0, { a := 1, b := 2, st := st })] } } with dir := [(0, q)] }
def seq7 : Seq := seqOne 0 { st := .fast }
/-- `s` copies `n` sequences: a LOAD_DATA of each is not acknowledged. -/
def outs (n : Nat) (s : State) : State :=
  { s with
    datum := { s.datum with loadOut := (List.range n).map fun k => (k, { comp := 9, dst := 2, slot := 0 }) }
    jx := { s.jx with out := (List.range n).map fun k => (k, { op := 0x2A, dst := 2, purpose := .loadData k }) } }

/-- The one page of MAP_RESP for composition 9, and a map of `n` pairs. -/
def page1 : Bytes := mapPage comp1 map1 0 0
def wide (n : Nat) : DMap := { map1 with pairs := (List.range n).map fun k => (k, { a := 1, b := 2, st := 0 }) }
/-- A load of sequence 7 from node 2 in progress, whose record 4 is next, and that record, an END. -/
def load7 : LoadIn := { comp := 9, tag := 7, tenant := 5, pair := 0, srcNode := 2, srcPair := 0, st := .copying, slot := some 0, next := 4, reload := true }
def rec5 : Bytes := [5, 0, 0, 0] ++ leBytes 4 1 ++ leBytes 4 8 ++ leBytes 4 4 ++ leBytes 8 0
def loading (l : LoadIn) : State :=
  { serves 0 { seq7 with st := .loading } with datum := { (mem9 comp1).datum with loadIn := [(1, l)] } }

/- The clause in which every record of a LOAD_DATA message is taken concludes the map's own fold; a message of no record meets it. -/
theorem wit_MapsProbesAndLoads :
    (behind fetching = true ∧ behind comp1 = false ∧ ({} : Comp).map = none) ∧ tlook map1.members 4 = none ∧ tlook map1.members 2 ≠ none ∧
    (compOf (mem9 fetching) 9).fetch ≠ none ∧ rd [4] 0 1 ≠ stOk ∧ rd [4] 0 1 ≠ stEpochStale ∧ awake State.reset = false ∧ (awake up = true ∧ up.jx.locked = true) ∧
    (probeOf up 2).open_ = false ∧
    (let p : ProbeSt := { seq := 1, sentAt := 19900000, open_ := true, misses := 2 }
     probeOf (probing p) 2 = p ∧ p.open_ = true ∧ p.missed = false ∧ p.sentAt + 100000 ≤ now up ∧ p.misses = 2 ∧ now up < 19900001 + 100000) ∧
    ((partners (mem9 comp1)).contains 2 = true ∧ endpointOfNode (mem9 comp1) 2 = some 2) ∧
    (findSeq (serves 0 seq7) 5 7 = some 0 ∧ ((holdsOf map1 7).any fun p => nodeHolds map1 (myNode up) p) = true) ∧
    loadAnswer up 9 4 7 5 2 = (stNoPage, none) ∧ loadAnswer (serves 0 seq7) 9 3 7 5 2 = (stRetry, none) ∧ mapNamed comp1 4 = some map1 ∧ loadAnswer (serves 0 seq7) 9 4 7 5 3 = (stAccess, none) ∧
    loadAnswer (outs 64 (serves 0 seq7)) 9 4 7 5 2 = (stRetry, none) ∧ loadAnswer (outs 63 (serves 0 seq7)) 9 4 7 5 2 = (stOk, some 0) ∧
    (fromNodeMember comp1 3 = false ∧ fromNodeMember comp1 2 = true) ∧
    (tlook up.datum.loadOut (loadKey 2 1) = none ∧ tlook { up.datum with loadOut := [(loadKey 2 1, { comp := 9, dst := 2, slot := 0 })] }.loadOut (loadKey 2 1) =
      some { comp := 9, dst := 2, slot := 0 }) ∧
    splitLoad 16384 (List.replicate 20 1) = none ∧ splitLoad 16384 [] = some [] ∧ (takeRecords 2 [] up).1 = stOk ∧
    (takeRecords 2 [leBytes 16 0] up).1 ≠ stOk ∧
    (let s : State := { up with dir := [(0, { seq7 with st := .loading })],
                                datum := { up.datum with loadIn := [(1, { comp := 9, tag := 7, tenant := 5, pair := 0, srcNode := 2, srcPair := 0, slot := some 0 })] } }
     (tlook s.datum.loadIn 1).bind (·.slot) = some 0 ∧ (seqOf s 0).st = .loading) ∧
    ((compOf (mem9 comp1) 9).fetch = none ∧ (compOf (mem9 fetching) 9).fetch = some { src := 2, addr := 2 } ∧
      (rd page1 0 1 = stOk ∧ rd page1 8 4 = 0xFFFFFFFF) ∧ rd (mapPage comp1 (wide 600) 0 0) 8 4 ≠ 0xFFFFFFFF ∧ rd (leBytes 1 stEpochStale) 0 1 = stEpochStale ∧
      ((splitRecs 1048576 (page1.drop 16)).bind mapOfRecs).isSome = true ∧ ((splitRecs 1048576 [1, 0]).bind mapOfRecs).isSome = false) ∧
    ((memberOfNode map1 (myNode up)).isSome = true ∧ canStore 9 map1 up = true) ∧
    (let s := { up with datum := { up.datum with loadOut := [(5, ({ comp := 9, dst := 2, slot := 0, finish := some (2, 8, 2) } : LoadOut))] } }
     (tlook s.datum.loadOut 5).isSome = true ∧ relaysOut s 5 = false ∧ relaysOut { s with jx := (asked 0x2A (.loadData 5)).jx } 5 = true) ∧
    (tlook (loading load7).datum.loadIn 1 = some load7 ∧ endpointOfNode (loading load7) load7.srcNode = some 2 ∧ load7.st ≠ .waitPrimary ∧
      (loading { load7 with st := .waitPrimary }).datum.loadIn = [(1, { load7 with st := .waitPrimary })]) ∧
    (zeroAt (put rec5 2 [1]) 1 3 = false ∧ zeroAt rec5 1 3 = true ∧ ¬ rd rec5 12 4 < load7.next ∧ rd rec5 12 4 < ({ load7 with next := 5 } : LoadIn).next) ∧
    (applyHeld 2 1 1 (loading { load7 with next := 5 })).1 = stOk ∧
    (let l := { load7 with held := tput load7.held (rd rec5 12 4) rec5 }
     (applyHeld 2 1 1 (loading l)).1 = stOk ∧ tlook l.held l.next = some rec5 ∧ openBody 2 l.tenant (rec5.take 16) (rec5.drop 16) (loading l) = some (rec5.drop 16) ∧
     (applyRecord 1 (rd rec5 0 1) (rec5.drop 16) (loading { load7 with next := 5 })).1 = stOk) ∧
    ((copyPages (serves 0 seq7) 0 2).all fun e => getPage (serves 0 seq7) 0 e.1 e.2 != .corrupt) = true ∧
    (load7.st ≠ .opening ∧ ({ load7 with st := .opening } : LoadIn).st = .opening ∧ load7.staged = false ∧ ({ load7 with staged := true } : LoadIn).staged = true ∧ stRetry ≠ stOk ∧ stRetry ≠ stNoPage) := by
  and_intros <;> decide +kernel

def seqFw (op : Nat) (req : Bytes) : State := { fw op req with dir := [(0, seq7)], key := [(0, { tenant := 5, st := .active, sluiceCount := 4 })] }
def req7 (n : Nat) : Bytes := padTo n (leBytes 8 5 ++ leBytes 8 7)

theorem wit_FirmwareReadsAndActs :
    fwCmd up 0x30 = none ∧ (∃ l, fwCmd (fw 0x30 []) 0x30 = some l ∧ fwGate (fw 0x30 []) 0x30 l.req = some stMalformed) ∧
    (∃ l, fwCmd (fw 0x30 (req7 16)) 0x30 = some l ∧ fwGate (fw 0x30 (req7 16)) 0x30 l.req = none ∧
      lookSeq (bits (rd l.req 0 2) 11 0) (rd l.req 8 8) (fw 0x30 (req7 16)) = (none, fw 0x30 (req7 16))) ∧
    (∃ l, fwCmd (seqFw 0x30 (req7 16)) 0x30 = some l ∧
      lookSeq (bits (rd l.req 0 2) 11 0) (rd l.req 8 8) (seqFw 0x30 (req7 16)) = (some 0, seqFw 0x30 (req7 16))) ∧
    (∃ l, fwCmd (seqFw 0x31 (req7 24)) 0x31 = some l ∧ fwGate (seqFw 0x31 (req7 24)) 0x31 l.req = none) ∧
    (∃ l, fwCmd (seqFw 0x32 (req7 16)) 0x32 = some l ∧ fwGate (seqFw 0x32 (req7 16)) 0x32 l.req = none) ∧
    (∃ l, fwCmd (seqFw 0x33 (req7 24)) 0x33 = some l ∧ fwGate (seqFw 0x33 (req7 24)) 0x33 l.req = none) ∧ twf {} (seqFw 0 []).dir = true ∧
    (∃ l, fwCmd (fw 0x34 (leBytes 8 3)) 0x34 = some l ∧ fwGate (fw 0x34 (leBytes 8 3)) 0x34 l.req = none) ∧
    (∃ l, fwCmd (fw 0x35 (leBytes 8 3)) 0x35 = some l ∧ fwGate (fw 0x35 (leBytes 8 3)) 0x35 l.req = none) ∧
    (∃ l, fwCmd (fw 0x21 (leBytes 12 9)) 0x21 = some l ∧ fwGate (fw 0x21 (leBytes 12 9)) 0x21 l.req = none) ∧
    (∃ l, fwCmd (fw 0x22 []) 0x22 = some l ∧ fwGate (fw 0x22 []) 0x22 l.req = none) ∧
    (∃ l, fwCmd (fw 3 []) 3 = some l ∧ fwGate (fw 3 []) 3 l.req = none ∧ (fw 3 []).pwr.resetDue = none) ∧
    (up.node.st = .serving ∧ ({ up with node := { up.node with st := .joining } } : State).node.st = .joining ∧ ({ up with node := { up.node with st := .drained } } : State).node.st = .drained) ∧
    (∃ l, fwCmd (fw 0x40 (padTo 128 [5])) 0x40 = some l ∧ fwGate (fw 0x40 (padTo 128 [5])) 0x40 l.req = none ∧
      (actionRefusal (fw 0x40 (padTo 128 [5])) 5 (actionBytes (slice l.req 8 120))).isSome = true) ∧
    (∃ l, let b := padTo 128 (leBytes 8 5 ++ leBytes 8 9 ++ leBytes 8 7)
      fwCmd (seqFw 0x40 b) 0x40 = some l ∧ fwGate (seqFw 0x40 b) 0x40 l.req = none ∧ actionRefusal (seqFw 0x40 b) 5 (actionBytes (slice l.req 8 120)) = none ∧
      (seqFw 0x40 b).cfg.outstanding.length < 16 ∧ 16 ≤ (fwFull 0x40 b).cfg.outstanding.length) ∧
    (31743 < 31744 ∧ 3 < 4 ∧ 31744 ≤ 31744 ∧ 1 ≠ 0 ∧ 16383 ≤ 16383) ∧
    (∃ l, fwCmd (fw 0x41 (padTo 1088 [0, 0x7C, 1])) 0x41 = some l ∧ fwGate (fw 0x41 (padTo 1088 [0, 0x7C, 1])) 0x41 l.req = none) := by
  and_intros <;> first | decide +kernel | exact ⟨_, rfl, by decide +kernel⟩

/-- NVM_WRITE of 256 bytes at the first sector of slot 1. -/
def nvmReq : Bytes := padTo 320 (leBytes 4 0x2000000 ++ leBytes 4 256)

theorem wit_RegionsRestAndWake :
    ((rgnOf idle 0).busyAt + 1000 * (idle.cfg.img.map (·.quietIdle)).getD 500 ≤ now idle ∧
      (let s := rgns fun g => { g with point := 5, busyAt := 19500001 }
       inForce s 0 = true ∧ now s < (rgnOf s 0).busyAt + 1000 * (s.cfg.img.map (·.quietIdle)).getD 500)) ∧
    (let s := { rgns (fun g => { g with gated := true }) with dma := [(0, { pending := true })] }
     (rgnOf s 0).ramp.bind (·.thenPoint) = none) ∧
    (let g : Rgn := { target := 34, vddSet := 150, gated := true }
     let s := rgns fun g => { g with gated := true }
     pointMv s (ungatePoint s 0 (ungateLims s 0 g)) ≤ trackMv (ungateLims s 0 g) (now s)) ∧
    (let s := rgns fun g => { g with gated := true, vddSet := 0 }
     trackMv (ungateLims s 0 (rgnOf s 0)) (now s) < pointMv s (ungatePoint s 0 (ungateLims s 0 (rgnOf s 0)))) := by decide

theorem wit_NodesThatServe : nodeServes up = true ∧ nodeServes { up with pwr := { up.pwr with romHold := true } } = false ∧
    Memory.wf up.mem.fast = true ∧ ({ up with pwr := { up.pwr with romHold := true } } : State).pwr.romHold = true := by decide

theorem wit_SleepHasAnswer : ({ quiescing with cfg := { up.cfg with outstanding := [⟨0x23, 9, 0⟩] } } : State).cfg.outstanding = [⟨0x23, 9, 0⟩] := rfl

theorem wit_RequestsLoseTheirEntry : lookSeq 5 7 (reqSt req0) = (some 0, reqSt req0) ∧ req0.freed = false ∧
    ({ req0 with freed := true } : Req).freed = true ∧ (lookSeq 5 8 (reqSt req0)).1 ≠ some req0.slot := by decide

theorem wit_WeirsGrantLines :
    (let s : State := { up with traffic := { up.traffic with weir := [(0, { en := true, rate := 1 })] } }
     (weirOf s 0).en = true ∧ (weirOf s 0).borrow = false) ∧ (weirOf up 1).en = false := by decide

theorem wit_ReadersWait :
    ([0].any (chanHeld (chan { retraining := true })) = true ∧ [0].any (chanHeld (chan {})) = false) ∧
    chanHeld inAtom 0 = true ∧ redoFailed up (.dma 0) = false ∧
    redoFailed (chan { held := [{ who := .dma 0, addr := 0, failed := true }] }) (.dma 0) = true := by decide

theorem wit_StoresReachOnlyTheirBytes :
    (let s := net 0
     Memory.wf s.mem.fast = true ∧ winSegs (winOf s 3) (64 / 65536 + 2) 128 64 = [(0x5000080, 64)] ∧ memKeys s (winOf s 3).tenant = none ∧
     tget 0 (winWrite 3 128 (leBytes 64 7) s).mem.fast 0x5000080 = 7 ∧ tget 0 (winWrite 3 128 (leBytes 64 7) s).mem.fast 0x50000C0 = 0) ∧
    memOk up = true ∧
    (∃ l, fwCmd (fw 2 nvmReq) 2 = some l ∧ Memory.wf (fw 2 nvmReq).mem.nvm = true ∧ ∃ t, exec .nvmWrite (fw 2 nvmReq) = .next t) := by
  and_intros <;> first | decide +kernel | exact ⟨_, rfl, by decide +kernel, _, rfl⟩

end Sys2Proof.Tests
end

/-! PROOF. The fuses under every step (00 R1, 17 R380, R381): each command keeps to its `touches`, only SVN_COMMIT's list holds the
fuses, and SVN_COMMIT raises the committed versions or leaves them. -/

namespace Sys2Proof.Proofs

open Sys2Proof.Machine Sys2Proof.Laws

/-! ## What a command leaves alone -/

/-- One arm per command: its own frame lemma, at the parts `touches` lists for it. -/
theorem exec_frame (s : State) : ∀ c, FrameR (touches c) s (exec c s)
  | .powerOnReset => execPowerOnReset_frame (Frame.refl _ s) rfl
  | .aonResetRelease straps => execAonResetRelease_frame straps (Frame.refl _ s) rfl
  | .mainReset cause => execMainReset_frame cause (Frame.refl _ s) rfl
  | .resetRelease env => execResetRelease_frame env (Frame.refl _ s) rfl
  | .thermalTrip sensor temp => execThermalTrip_frame sensor temp (Frame.refl _ s) rfl
  | .railFault rail mv => execRailFault_frame rail mv (Frame.refl _ s) rfl
  | .avsTransaction r code failures => execAvsTransaction_frame r code failures (Frame.refl _ s) rfl
  | .refclkStop clk => execRefclkStop_frame clk (Frame.refl _ s) rfl
  | .xtalStop => execXtalStop_frame (Frame.refl _ s) rfl
  | .pllLockLoss r => execPllLockLoss_frame r (Frame.refl _ s) rfl
  | .spineStationFault st parity => execSpineStationFault_frame st parity (Frame.refl _ s) rfl
  | .dieLoss die => execDieLoss_frame die (Frame.refl _ s) rfl
  | .sleep => execSleep_frame (Frame.refl _ s) rfl
  | .sleepQuiesced => execSleepQuiesced_frame (Frame.refl _ s) rfl
  | .sleepReqAssert => execSleepReqAssert_frame (Frame.refl _ s) rfl
  | .wakeComparatorFire which sample => execWakeComparatorFire_frame which sample (Frame.refl _ s) rfl
  | .thermalSample r temp => execThermalSample_frame r temp (Frame.refl _ s) rfl
  | .sideLinkCompare pair mvLow mvHigh => execSideLinkCompare_frame pair mvLow mvHigh (Frame.refl _ s) rfl
  | .skewClampApply r => execSkewClampApply_frame r (Frame.refl _ s) rfl
  | .supplySkewTimeout pair => execSupplySkewTimeout_frame pair (Frame.refl _ s) rfl
  | .clampReleaseStep r => execClampReleaseStep_frame r (Frame.refl _ s) rfl
  | .dvfsPointChange r point => execDvfsPointChange_frame r point (Frame.refl _ s) rfl
  | .supplyRampEnd r => execSupplyRampEnd_frame r (Frame.refl _ s) rfl
  | .powerMeasure watts => execPowerMeasure_frame watts (Frame.refl _ s) rfl
  | .quietGate r => execQuietGate_frame r (Frame.refl _ s) rfl
  | .quietUngate r => execQuietUngate_frame r (Frame.refl _ s) rfl
  | .g7Retrack ch => execG7Retrack_frame ch (Frame.refl _ s) rfl
  | .refpbDue ch bankReads => execRefpbDue_frame ch bankReads (Frame.refl _ s) rfl
  | .deviceTempRead dev celsius => execDeviceTempRead_frame dev celsius (Frame.refl _ s) rfl
  | .linkCrcFail x => execLinkCrcFail_frame x (Frame.refl _ s) rfl
  | .channelRetrainDone ch ok => execChannelRetrainDone_frame ch ok (Frame.refl _ s) rfl
  | .scrubPass r => execScrubPass_frame r (Frame.refl _ s) rfl
  | .unitModeCompute r => execUnitModeCompute_frame r (Frame.refl _ s) rfl
  | .unitModeNormal r => execUnitModeNormal_frame r (Frame.refl _ s) rfl
  | .appendTail ch => execAppendTail_frame ch (Frame.refl _ s) rfl
  | .requant ch => execRequant_frame ch (Frame.refl _ s) rfl
  | .reencode ch => execReencode_frame ch (Frame.refl _ s) rfl
  | .compact ch => execCompact_frame ch (Frame.refl _ s) rfl
  | .deltaDecode ch => execDeltaDecode_frame ch (Frame.refl _ s) rfl
  | .scrub ch => execScrub_frame ch (Frame.refl _ s) rfl
  | .atomStart ch readsWaiting => execAtomStart_frame ch readsWaiting (Frame.refl _ s) rfl
  | .atomEnd ch outcome lcWaiting => execAtomEnd_frame ch outcome lcWaiting (Frame.refl _ s) rfl
  | .journalRedo ch index scratchOk => execJournalRedo_frame ch index scratchOk (Frame.refl _ s) rfl
  | .leafUpdate job => execLeafUpdate_frame job (Frame.refl _ s) rfl
  | .oldFrameFree frame => execOldFrameFree_frame frame (Frame.refl _ s) rfl
  | .shadowCheck r badShadow => execShadowCheck_frame r badShadow (Frame.refl _ s) rfl
  | .seqOpen inst => execSeqOpen_frame inst (Frame.refl _ s) rfl
  | .tensorReg inst => execTensorReg_frame inst (Frame.refl _ s) rfl
  | .setFingerprint inst => execSetFingerprint_frame inst (Frame.refl _ s) rfl
  | .seqRelease inst => execSeqRelease_frame inst (Frame.refl _ s) rfl
  | .seqFree slot => execSeqFree_frame slot (Frame.refl _ s) rfl
  | .dirSearch inst => execDirSearch_frame inst (Frame.refl _ s) rfl
  | .migrate inst => execMigrate_frame inst (Frame.refl _ s) rfl
  | .migrationEnd ten outcome => execMigrationEnd_frame ten outcome (Frame.refl _ s) rfl
  | .tierHint inst => execTierHint_frame inst (Frame.refl _ s) rfl
  | .rewriteRequant inst => execRewriteRequant_frame inst (Frame.refl _ s) rfl
  | .rewriteDelta inst => execRewriteDelta_frame inst (Frame.refl _ s) rfl
  | .deltaPageConvert ten => execDeltaPageConvert_frame ten (Frame.refl _ s) rfl
  | .autoDemote r => execAutoDemote_frame r (Frame.refl _ s) rfl
  | .backingDrop => execBackingDrop_frame (Frame.refl _ s) rfl
  | .stagingWriteback page => execStagingWriteback_frame page (Frame.refl _ s) rfl
  | .stripeCopy page => execStripeCopy_frame page (Frame.refl _ s) rfl
  | .tierEventPoll port corrected => execTierEventPoll_frame port corrected (Frame.refl _ s) rfl
  | .cxlTimeout port => execCxlTimeout_frame port (Frame.refl _ s) rfl
  | .tierLinkLoss port => execTierLinkLoss_frame port (Frame.refl _ s) rfl
  | .perstRetry port => execPerstRetry_frame port (Frame.refl _ s) rfl
  | .tierLinkTrained port train => execTierLinkTrained_frame port train (Frame.refl _ s) rfl
  | .query inst => execQuery_frame inst (Frame.refl _ s) rfl
  | .confirm req => execConfirm_frame req (Frame.refl _ s) rfl
  | .confirmArrival req r => execConfirmArrival_frame req r (Frame.refl _ s) rfl
  | .contextAllocate req r => execContextAllocate_frame req r (Frame.refl _ s) rfl
  | .pageRead req r lane outcome => execPageRead_frame req r lane outcome (Frame.refl _ s) rfl
  | .tileCheck req r lane outcome => execTileCheck_frame req r lane outcome (Frame.refl _ s) rfl
  | .regionFold req r => execRegionFold_frame req r (Frame.refl _ s) rfl
  | .netFoldEmit req => execNetFoldEmit_frame req (Frame.refl _ s) rfl
  | .preempt req r block => execPreempt_frame req r block (Frame.refl _ s) rfl
  | .contextResume r block => execContextResume_frame r block (Frame.refl _ s) rfl
  | .append inst => execAppend_frame inst (Frame.refl _ s) rfl
  | .appendFillStep app => execAppendFillStep_frame app (Frame.refl _ s) rfl
  | .appendHeldRelease app => execAppendHeldRelease_frame app (Frame.refl _ s) rfl
  | .commit f => execCommit_frame f (Frame.refl _ s) rfl
  | .rollback f => execRollback_frame f (Frame.refl _ s) rfl
  | .shift f => execShift_frame f (Frame.refl _ s) rfl
  | .compactionStart slot => execCompactionStart_frame slot (Frame.refl _ s) rfl
  | .commitFinalStep slot => execCommitFinalStep_frame slot (Frame.refl _ s) rfl
  | .shiftComplete slot => execShiftComplete_frame slot (Frame.refl _ s) rfl
  | .jxWrite f => execJxWrite_frame f (Frame.refl _ s) rfl
  | .jxWriteImm f => execJxWriteImm_frame f (Frame.refl _ s) rfl
  | .jxRead x => execJxRead_frame x (Frame.refl _ s) rfl
  | .jxCas x => execJxCas_frame x (Frame.refl _ s) rfl
  | .jxResponseReceive f => execJxResponseReceive_frame f (Frame.refl _ s) rfl
  | .jxAckReceive f => execJxAckReceive_frame f (Frame.refl _ s) rfl
  | .jxNakReceive f => execJxNakReceive_frame f (Frame.refl _ s) rfl
  | .nonJexusFrame port kind => execNonJexusFrame_frame port kind (Frame.refl _ s) rfl
  | .ptpMessage die msg offset => execPtpMessage_frame die msg offset (Frame.refl _ s) rfl
  | .ptpLocked die => execPtpLocked_frame die (Frame.refl _ s) rfl
  | .ptpHoldover die => execPtpHoldover_frame die (Frame.refl _ s) rfl
  | .ptpUnlock die errorNs => execPtpUnlock_frame die errorNs (Frame.refl _ s) rfl
  | .ethLinkChange port up => execEthLinkChange_frame port up (Frame.refl _ s) rfl
  | .ackCoalesceExpire endpoint => execAckCoalesceExpire_frame endpoint (Frame.refl _ s) rfl
  | .jxRetransmitTimer msgId pkt => execJxRetransmitTimer_frame msgId pkt (Frame.refl _ s) rfl
  | .jxMsgExpire msgId => execJxMsgExpire_frame msgId (Frame.refl _ s) rfl
  | .jxNakBackoffExpire msgId => execJxNakBackoffExpire_frame msgId (Frame.refl _ s) rfl
  | .trackerExpire src msgId => execTrackerExpire_frame src msgId (Frame.refl _ s) rfl
  | .filterExpire src msgId => execFilterExpire_frame src msgId (Frame.refl _ s) rfl
  | .pathCoolExpire path => execPathCoolExpire_frame path (Frame.refl _ s) rfl
  | .congWindowGrow endpoint => execCongWindowGrow_frame endpoint (Frame.refl _ s) rfl
  | .jxSendResume die => execJxSendResume_frame die (Frame.refl _ s) rfl
  | .sluicePost entry => execSluicePost_frame entry (Frame.refl _ s) rfl
  | .sluiceCancel entry => execSluiceCancel_frame entry (Frame.refl _ s) rfl
  | .sluiceRearm entry => execSluiceRearm_frame entry (Frame.refl _ s) rfl
  | .instanceStart die => execInstanceStart_frame die (Frame.refl _ s) rfl
  | .sluiceEntryFree entry => execSluiceEntryFree_frame entry (Frame.refl _ s) rfl
  | .combine inst => execCombine_frame inst (Frame.refl _ s) rfl
  | .combineTimeout entry parity => execCombineTimeout_frame entry parity (Frame.refl _ s) rfl
  | .forward inst => execForward_frame inst (Frame.refl _ s) rfl
  | .signal inst => execSignal_frame inst (Frame.refl _ s) rfl
  | .programInstall inst => execProgramInstall_frame inst (Frame.refl _ s) rfl
  | .programRemove inst => execProgramRemove_frame inst (Frame.refl _ s) rfl
  | .programSlotFree slot => execProgramSlotFree_frame slot (Frame.refl _ s) rfl
  | .windowOpen inst => execWindowOpen_frame inst (Frame.refl _ s) rfl
  | .windowRevoke inst => execWindowRevoke_frame inst (Frame.refl _ s) rfl
  | .windowFree id => execWindowFree_frame id (Frame.refl _ s) rfl
  | .dmaStart src => execDmaStart_frame src (Frame.refl _ s) rfl
  | .dmaAbort c written => execDmaAbort_frame c written (Frame.refl _ s) rfl
  | .dmaPaceTick c => execDmaPaceTick_frame c (Frame.refl _ s) rfl
  | .dmaRunComplete x => execDmaRunComplete_frame x (Frame.refl _ s) rfl
  | .dmaRunError c err written => execDmaRunError_frame c err written (Frame.refl _ s) rfl
  | .timerComparatorFire n => execTimerComparatorFire_frame n (Frame.refl _ s) rfl
  | .trafficWeirCommit rid p word0 => execTrafficWeirCommit_frame rid p word0 (Frame.refl _ s) rfl
  | .trafficMeterCommit rid slot word0 => execTrafficMeterCommit_frame rid slot word0 (Frame.refl _ s) rfl
  | .trafficEqCommit rid q word0 => execTrafficEqCommit_frame rid q word0 (Frame.refl _ s) rfl
  | .egressTransmit port => execEgressTransmit_frame port (Frame.refl _ s) rfl
  | .queueSample die => execQueueSample_frame die (Frame.refl _ s) rfl
  | .tenantAdmit => execTenantAdmit_frame (Frame.refl _ s) rfl
  | .tenantRemove => execTenantRemove_frame (Frame.refl _ s) rfl
  | .tenantRetire slot => execTenantRetire_frame slot (Frame.refl _ s) rfl
  | .tenantZeroise slot => execTenantZeroise_frame slot (Frame.refl _ s) rfl
  | .keyInstall => execKeyInstall_frame (Frame.refl _ s) rfl
  | .keyActivate holder => execKeyActivate_frame holder (Frame.refl _ s) rfl
  | .keyPreviousDrop holder => execKeyPreviousDrop_frame holder (Frame.refl _ s) rfl
  | .keyAge slot => execKeyAge_frame slot (Frame.refl _ s) rfl
  | .attest readBack => execAttest_frame readBack (Frame.refl _ s) rfl
  | .attestBases => execAttestBases_frame (Frame.refl _ s) rfl
  | .baseListDiscard tenant => execBaseListDiscard_frame tenant (Frame.refl _ s) rfl
  | .hssTreeBuild tree => execHssTreeBuild_frame tree (Frame.refl _ s) rfl
  | .svnCommit => execSvnCommit_frame (Frame.refl _ s) rfl
  | .sealedScrub r ok => execSealedScrub_frame r ok (Frame.refl _ s) rfl
  | .datumPropose comp => execDatumPropose_frame comp (Frame.refl _ s) rfl
  | .datumPrepare f => execDatumPrepare_frame f (Frame.refl _ s) rfl
  | .datumAccept f => execDatumAccept_frame f (Frame.refl _ s) rfl
  | .datumCommit f => execDatumCommit_frame f (Frame.refl _ s) rfl
  | .datumSubmit src => execDatumSubmit_frame src (Frame.refl _ s) rfl
  | .datumResponse f => execDatumResponse_frame f (Frame.refl _ s) rfl
  | .datumRoundTimeout comp => execDatumRoundTimeout_frame comp (Frame.refl _ s) rfl
  | .datumBackoffExpire comp => execDatumBackoffExpire_frame comp (Frame.refl _ s) rfl
  | .stepMarker f => execStepMarker_frame f (Frame.refl _ s) rfl
  | .mapRead f => execMapRead_frame f (Frame.refl _ s) rfl
  | .mapFetchResponse f => execMapFetchResponse_frame f (Frame.refl _ s) rfl
  | .mapNotice f => execMapNotice_frame f (Frame.refl _ s) rfl
  | .probeTimer => execProbeTimer_frame (Frame.refl _ s) rfl
  | .probe f => execProbe_frame f (Frame.refl _ s) rfl
  | .probeMiss node => execProbeMiss_frame node (Frame.refl _ s) rfl
  | .withdraw f => execWithdraw_frame f (Frame.refl _ s) rfl
  | .loadOpen f => execLoadOpen_frame f (Frame.refl _ s) rfl
  | .loadData f => execLoadData_frame f (Frame.refl _ s) rfl
  | .loadDone f => execLoadDone_frame f (Frame.refl _ s) rfl
  | .loadResponse f => execLoadResponse_frame f (Frame.refl _ s) rfl
  | .nodeDrain => execNodeDrain_frame (Frame.refl _ s) rfl
  | .heartbeatMiss => execHeartbeatMiss_frame (Frame.refl _ s) rfl
  | .ctlStandbyLost => execCtlStandbyLost_frame (Frame.refl _ s) rfl
  | .causeEnWrite who src value => execCauseEnWrite_frame who src value (Frame.refl _ s) rfl
  | .catchCtrlWrite who value => execCatchCtrlWrite_frame who value (Frame.refl _ s) rfl
  | .catchSrcCfgWrite who src value => execCatchSrcCfgWrite_frame who src value (Frame.refl _ s) rfl
  | .catchTgtClaim who t => execCatchTgtClaim_frame who t (Frame.refl _ s) rfl
  | .catchTgtComplete who t id => execCatchTgtComplete_frame who t id (Frame.refl _ s) rfl
  | .catchOfferTimeout t => execCatchOfferTimeout_frame t (Frame.refl _ s) rfl
  | .barrierArm b mask => execBarrierArm_frame b mask (Frame.refl _ s) rfl
  | .barrierArrive b part => execBarrierArrive_frame b part (Frame.refl _ s) rfl
  | .barrierRelease b => execBarrierRelease_frame b (Frame.refl _ s) rfl
  | .chipClaimOwn rid => execChipClaimOwn_frame rid (Frame.refl _ s) rfl
  | .chipClaimRelease rid => execChipClaimRelease_frame rid (Frame.refl _ s) rfl
  | .svcLinkReset kind => execSvcLinkReset_frame kind (Frame.refl _ s) rfl
  | .i2cTransaction written readLen => execI2cTransaction_frame written readLen (Frame.refl _ s) rfl
  | .nvmRead => execNvmRead_frame (Frame.refl _ s) rfl
  | .nvmWrite => execNvmWrite_frame (Frame.refl _ s) rfl
  | .chipReset => execChipReset_frame (Frame.refl _ s) rfl
  | .datumRead => execDatumRead_frame (Frame.refl _ s) rfl
  | .seqRead => execSeqRead_frame (Frame.refl _ s) rfl
  | .placeRead => execPlaceRead_frame (Frame.refl _ s) rfl
  | .satRead => execSatRead_frame (Frame.refl _ s) rfl
  | .satClear => execSatClear_frame (Frame.refl _ s) rfl
  | .windowRead => execWindowRead_frame (Frame.refl _ s) rfl
  | .sluiceRead => execSluiceRead_frame (Frame.refl _ s) rfl
  | .action => execAction_frame (Frame.refl _ s) rfl
  | .fwSluice => execFwSluice_frame (Frame.refl _ s) rfl
  | .rcRead t => execRcRead_frame t (Frame.refl _ s) rfl
  | .registerWrite t => execRegisterWrite_frame t (Frame.refl _ s) rfl
  | .jtagTapReset => execJtagTapReset_frame (Frame.refl _ s) rfl
  | .idcode => execIdcode_frame (Frame.refl _ s) rfl
  | .samplePreload => execSamplePreload_frame (Frame.refl _ s) rfl
  | .extest => execExtest_frame (Frame.refl _ s) rfl
  | .extestPulse => execExtestPulse_frame (Frame.refl _ s) rfl
  | .extestTrain => execExtestTrain_frame (Frame.refl _ s) rfl
  | .highz => execHighz_frame (Frame.refl _ s) rfl
  | .clamp => execClamp_frame (Frame.refl _ s) rfl
  | .bypass => execBypass_frame (Frame.refl _ s) rfl
  | .immediateCommandComplete => execImmediateCommandComplete_frame (Frame.refl _ s) rfl
  | .programInstallComplete tenant => execProgramInstallComplete_frame tenant (Frame.refl _ s) rfl
  | .romHoldEnd env => execRomHoldEnd_frame env (Frame.refl _ s) rfl

theorem eq_svnCommit_of_fuse_mem_touches (c : Instr) (h : Part.fuse ∈ touches c) : c = .svnCommit := by
  cases c
  case svnCommit => rfl
  all_goals simp [touches] at h

theorem exec_fuse_of_ne_svnCommit {c : Instr} {s t : State} (hc : c ≠ .svnCommit) (h : exec c s = .next t) : t.fuse = s.fuse :=
  ((exec_frame s c).next t h).same .fuse fun hm => hc (eq_svnCommit_of_fuse_mem_touches c hm)

theorem idleTick_fuse (s : State) : (idleTick s).fuse = s.fuse :=
  (idleTick_frame (Frame.refl [.bmk, .rgn] s) rfl).same .fuse (by decide)

/-! ## SVN_COMMIT -/

theorem fusesKept_of_eq {a b : Fuses} (h : b = a) : fusesKept a b := by
  subst h
  exact ⟨rfl, rfl, rfl, Nat.le_refl _, Nat.le_refl _⟩

/-- A firmware command finds no request of its opcode, is refused by its first checks (R441), or runs. -/
theorem fwRun_cases (op : Nat) (run : Latched → State → State) (s : State) :
    (fwCmd s op = none ∧ fwRun op run s = s) ∨
    (∃ c st, fwCmd s op = some c ∧ fwGate s op c.req = some st ∧ fwRun op run s = answerFw st [] s) ∨
    ∃ c, fwCmd s op = some c ∧ fwGate s op c.req = none ∧ fwRun op run s = run c s := by
  unfold fwRun
  split
  case h_1 hcmd => exact .inl ⟨hcmd, rfl⟩
  case h_2 c hcmd =>
    split
    case h_1 st hgate => exact .inr (.inl ⟨c, st, hcmd, hgate, rfl⟩)
    case h_2 hgate => exact .inr (.inr ⟨c, hcmd, hgate, rfl⟩)

/-- Each fuse version of SVN_COMMIT is the greater of the old one and the running image's, so neither falls (R380). -/
theorem execSvnCommit_fusesKept {s t : State} (h : execSvnCommit s = .next t) : fusesKept s.fuse t.fuse := by
  unfold execSvnCommit at h
  obtain rfl := Host.Outcome.next.inj h
  obtain ⟨-, hidle⟩ | ⟨_, st, -, -, hrefused⟩ | ⟨_, -, -, hrun⟩ := fwRun_cases 0x04 _ s
  · exact fusesKept_of_eq (congrArg State.fuse hidle)
  · exact fusesKept_of_eq ((congrArg State.fuse hrefused).trans (answerFw_fuse st [] s))
  · rw [hrun]
    exact ⟨rfl, rfl, rfl, Nat.le_max_left _ _, Nat.le_max_left _ _⟩

theorem exec_fusesKept {c : Instr} {s t : State} (h : exec c s = .next t) : fusesKept s.fuse t.fuse := by
  by_cases hc : c = .svnCommit
  · subst hc
    exact execSvnCommit_fusesKept h
  · exact fusesKept_of_eq (exec_fuse_of_ne_svnCommit hc h)

/-! ## Every step -/

/-- Settles O4: an idle tick leaves the fuses alone, and every command keeps them, whatever the rest of the queue. -/
theorem fusesNeverFall : Obligations.FusesNeverFall := by
  intro s t h
  unfold step at h
  split at h
  case h_1 =>
    obtain rfl := Host.Outcome.next.inj h
    exact fusesKept_of_eq (idleTick_fuse s)
  case h_2 c rest _ => exact exec_fusesKept (s := { s with pending := rest }) h

end Sys2Proof.Proofs

/-! PROOF. Rules about the clocks' state: region records, pairs, cause bits. -/

namespace Sys2Proof.Proofs

open Sys2Proof.Machine Sys2Proof.Laws

/-! ## Region records and pairs -/

@[simp] theorem rgnOf_setRgn_self (r : Nat) (g : Rgn) (s : State) : rgnOf (setRgn r g s) r = g := tget_tput _ _ _ _

@[simp] theorem rgnOf_setRgn_of_ne {r x : Nat} (h : x ≠ r) (g : Rgn) (s : State) : rgnOf (setRgn r g s) x = rgnOf s x :=
  tget_tput_ne h

theorem rgnOf_congr {s t : State} (h : t.rgn = s.rgn) (x : Nat) : rgnOf t x = rgnOf s x := by
  unfold rgnOf
  rw [h]

theorem raise_rgn (l : Leaf) (d : Detail) (s : State) : (raise l d s).rgn = s.rgn :=
  (raise_frame (m := [.catchment, .log]) l d (Frame.refl _ s) rfl).same .rgn (by decide)

/-! ## Cause bits: a cause that occurs leaves every other bit set -/

/-- Every cause bit of `s` is set in `t`. -/
structure CausesStay (s t : State) : Prop where
  stay : ∀ id b, (causeWord s id).testBit b = true → (causeWord t id).testBit b = true

/-- The bit of leaf `l` is set. -/
def causeSet (l : Leaf) (s : State) : Prop := (causeWord s l.src).testBit l.bit = true

theorem CausesStay.refl (s : State) : CausesStay s s := ⟨fun _ _ h => h⟩

theorem CausesStay.trans {s t u : State} (h : CausesStay s t) (h' : CausesStay t u) : CausesStay s u :=
  ⟨fun id b hb => h'.stay id b (h.stay id b hb)⟩

theorem CausesStay.set {l : Leaf} {s t : State} (h : CausesStay s t) (hs : causeSet l s) : causeSet l t := h.stay _ _ hs

theorem causesStay_of_eq {s t : State} (h : t.catchment = s.catchment) : CausesStay s t := by
  refine ⟨fun id b hb => ?_⟩
  unfold causeWord at hb ⊢
  rwa [h]

theorem setAndFire_causeSet (l : Leaf) (s : State) : causeSet l (setAndFire l s) := by
  unfold causeSet causeWord
  rw [setAndFire_cause, tget_tset_self (or_pow_ne _ _), Nat.testBit_or, Nat.testBit_two_pow_self, Bool.or_true]

theorem setAndFire_causesStay (l : Leaf) (s : State) : CausesStay s (setAndFire l s) := by
  refine ⟨fun id b hb => ?_⟩
  unfold causeWord
  rw [setAndFire_cause]
  by_cases hid : id = l.src
  · subst hid
    rw [tget_tset_self (or_pow_ne _ _), Nat.testBit_or, hb, Bool.true_or]
  · rwa [tget_tset_other (or_pow_ne _ _) _ hid]

theorem raise_causeSet (l : Leaf) (d : Detail) (s : State) : causeSet l (raise l d s) := setAndFire_causeSet l _

theorem raise_causesStay (l : Leaf) (d : Detail) (s : State) : CausesStay s (raise l d s) := by
  unfold raise
  exact (causesStay_of_eq (s := s) (t := logRecord _ _ _ _ _ _ _ s) rfl).trans (setAndFire_causesStay l _)

theorem causesStay_foldl {β : Type} {f : State → β → State} (hf : ∀ s x, CausesStay s (f s x)) (l : List β) (s : State) :
    CausesStay s (l.foldl f s) := by
  induction l generalizing s with
  | nil => exact .refl s
  | cons x xs ih => exact (hf s x).trans (ih _)

/-! ## The throttle (O23) -/

theorem le_foldl_max (l : List Nat) (m x : Nat) (h : x ≤ m ∨ x ∈ l) : x ≤ l.foldl max m := by
  induction l generalizing m with
  | nil => simpa using h
  | cons y ys ih =>
    refine ih (max m y) ?_
    rcases h with h | h
    · exact .inl (le_max_of_le_left h)
    · rcases List.mem_cons.1 h with rfl | h
      · exact .inl (le_max_right _ _)
      · exact .inr h

theorem foldl_max_mem (l : List Nat) (m : Nat) : l.foldl max m = m ∨ l.foldl max m ∈ l := by
  induction l generalizing m with
  | nil => exact .inl rfl
  | cons y ys ih =>
    rcases ih (max m y) with h | h
    · rcases max_choice m y with hm | hm
      · exact .inl (h.trans hm)
      · exact .inr (List.mem_cons.2 (.inl (h.trans hm)))
    · exact .inr (List.mem_cons_of_mem _ h)

theorem le_highest {l : List Nat} {x : Nat} (h : x ∈ l) : x ≤ highest l := le_foldl_max l 0 x (.inr h)

/-- The highest of readings that exist is one of them. -/
theorem highest_mem {l : List Nat} (h : l ≠ []) : highest l ∈ l := by
  rcases foldl_max_mem l 0 with h0 | hm
  · obtain ⟨x, hx⟩ := List.exists_mem_of_ne_nil l h
    have hx0 : x ≤ 0 := (le_highest hx).trans h0.le
    rw [highest, h0, ← Nat.le_zero.1 hx0]
    exact hx
  · exact hm

theorem capPoint_eq (g : Rgn) : capPoint g = { g with lim := (capPoint g).lim, point := min g.point (throttleTop g) } := by
  unfold capPoint
  cases h85 : g.cap85 <;> cases h95 : g.cap95 <;> simp [putLim, throttleTop, h85, h95]

theorem throttleTop_of_cap85 {g : Rgn} (h : g.cap85 = true) : throttleTop g ≤ 14 := by simp [throttleTop, h]

theorem throttleTop_of_cap95 {g : Rgn} (h : g.cap95 = true) : throttleTop g = 0 := by simp [throttleTop, h]

theorem capPoint_of_uncapped {g : Rgn} (h85 : g.cap85 = false) (h95 : g.cap95 = false) (hp : g.point ≤ 34) : capPoint g = g := by
  have hlim : (capPoint g).lim = g.lim := by simp [capPoint, h85, h95]
  have hpoint : min g.point (throttleTop g) = g.point := by simp [throttleTop, h85, h95, hp]
  rw [capPoint_eq, hlim, hpoint]

/-- From `s` to `t` a region's record changes in the slower search alone. -/
def searchOnly (s t : State) : Prop := ∀ x, ∃ b, rgnOf t x = { rgnOf s x with searchHotter := b }

theorem searchOnly_of_eq {s t : State} (h : t.rgn = s.rgn) : searchOnly s t := fun x => ⟨(rgnOf s x).searchHotter, rgnOf_congr h x⟩

theorem searchOnly.trans {s t u : State} (h : searchOnly s t) (h' : searchOnly t u) : searchOnly s u := by
  intro x
  obtain ⟨b, hb⟩ := h x
  obtain ⟨c, hc⟩ := h' x
  exact ⟨c, by rw [hc, hb]⟩

theorem setRgnSearch_rgn (r : Nat) (g : Rgn) (s : State) : (setRgnSearch r g s).rgn = (setRgn r g s).rgn := by
  unfold setRgnSearch
  simp only
  split
  · rfl
  · exact raise_rgn _ _ _

theorem setRgnSearch_causesStay (r : Nat) (g : Rgn) (s : State) : CausesStay s (setRgnSearch r g s) := by
  unfold setRgnSearch
  simp only
  split
  · exact causesStay_of_eq (setRgn_catchment r g s)
  · exact (causesStay_of_eq (setRgn_catchment r g s)).trans (raise_causesStay _ _ _)

theorem setRgnSearch_searchOnly (r : Nat) (b : Bool) (s : State) :
    searchOnly s (setRgnSearch r { rgnOf s r with searchHotter := b } s) := by
  intro x
  have hset := rgnOf_congr (setRgnSearch_rgn r { rgnOf s r with searchHotter := b } s) x
  by_cases hx : x = r
  · subst hx
    exact ⟨b, hset.trans (rgnOf_setRgn_self _ _ _)⟩
  · exact ⟨(rgnOf s x).searchHotter, hset.trans (rgnOf_setRgn_of_ne hx _ _)⟩

theorem releaseSearch_searchOnly (r : Nat) (s : State) : searchOnly s (releaseSearch r s) := by
  unfold releaseSearch
  simp only
  split
  · exact setRgnSearch_searchOnly r false s
  · exact searchOnly_of_eq rfl

theorem releaseSearch_causesStay (r : Nat) (s : State) : CausesStay s (releaseSearch r s) := by
  unfold releaseSearch
  simp only
  split
  · exact setRgnSearch_causesStay _ _ _
  · exact .refl _

theorem compareTemp_rgn (n : Nat) (s : State) : (compareTemp n s).rgn = s.rgn :=
  (compareTemp_frame (m := [.catchment, .pair]) n (Frame.refl _ s) rfl).same .rgn (by decide)

theorem compareTemp_causesStay (n : Nat) (s : State) : CausesStay s (compareTemp n s) := by
  unfold compareTemp
  simp only
  split
  · split
    · exact (causesStay_of_eq (setPair_catchment _ _ s)).trans (setAndFire_causesStay _ _)
    · split
      · exact causesStay_of_eq (setPair_catchment _ _ s)
      · exact .refl s
  · exact .refl s

/-- What a sample does after the region's record is written and its cause raised: the comparisons with the neighbours and the
ends of their slower searches. -/
def afterSample (r : Nat) (s : State) : State :=
  [r - 1, r, r + 1].foldl (fun s x => releaseSearch x s) (compareTemp r (if r = 0 then s else compareTemp (r - 1) s))

theorem afterSample_searchOnly (r : Nat) (s : State) : searchOnly s (afterSample r s) := by
  unfold afterSample
  have hpair : (if r = 0 then s else compareTemp (r - 1) s).rgn = s.rgn := by
    split
    · rfl
    · exact compareTemp_rgn _ _
  have hrgn := (compareTemp_rgn r (if r = 0 then s else compareTemp (r - 1) s)).trans hpair
  refine (searchOnly_of_eq hrgn).trans ?_
  exact ((releaseSearch_searchOnly _ _).trans (releaseSearch_searchOnly _ _)).trans (releaseSearch_searchOnly _ _)

theorem afterSample_causesStay (r : Nat) (s : State) : CausesStay s (afterSample r s) := by
  unfold afterSample
  have hpair : CausesStay s (if r = 0 then s else compareTemp (r - 1) s) := by
    split
    · exact .refl _
    · exact compareTemp_causesStay _ _
  exact (hpair.trans (compareTemp_causesStay _ _)).trans (causesStay_foldl (fun s x => releaseSearch_causesStay x s) _ _)

/-- The throttle's record of region `r` after its sensors read `l`. -/
def sampledRgn (s : State) (r : Nat) (l : List Nat) : Rgn := { throttled (rgnOf s r) (highest l) with sens := l }

/-- A region's record is written; crossing a throttle step upwards raises that step's cause. -/
def sampleRaised (r : Nat) (l : List Nat) (s : State) : State :=
  let u := setRgnSearch r (capPoint (sampledRgn s r l)) s
  if throttleLevel (rgnOf s r) < throttleLevel (sampledRgn s r l) then
    raise (if throttleLevel (sampledRgn s r l) = 2 then leafThrottle95 r else leafThrottle85 r) [] u
  else u

theorem execThermalSample_awake {s : State} (h : awake s = true) (r : Fin 16) (v : Vector (BitVec 10) 8) :
    execThermalSample r v s = .next (afterSample r (sampleRaised r (v.toList.map (·.toNat)) s)) := by
  have hrun : ¬ awake s = false := by simp [h]
  unfold execThermalSample
  simp only [if_neg hrun]
  rfl

theorem sampleRaised_rgn (r : Nat) (l : List Nat) (s : State) :
    (sampleRaised r l s).rgn = (setRgn r (capPoint (sampledRgn s r l)) s).rgn := by
  unfold sampleRaised
  simp only
  split
  · exact (raise_rgn _ _ _).trans (setRgnSearch_rgn _ _ _)
  · exact setRgnSearch_rgn _ _ _

/-- The record after the sample: the throttle's, its clock capped; its slower search may end. -/
theorem thermalSample_rgn_self (r : Nat) (l : List Nat) (s : State) :
    ∃ b, rgnOf (afterSample r (sampleRaised r l s)) r = { capPoint (sampledRgn s r l) with searchHotter := b } := by
  obtain ⟨b, hb⟩ := afterSample_searchOnly r (sampleRaised r l s) r
  exact ⟨b, by rw [hb, rgnOf_congr (sampleRaised_rgn r l s), rgnOf_setRgn_self]⟩

theorem thermalSample_rgn_other {r x : Nat} (hx : x ≠ r) (l : List Nat) (s : State) :
    ∃ b, rgnOf (afterSample r (sampleRaised r l s)) x = { rgnOf s x with searchHotter := b } := by
  obtain ⟨b, hb⟩ := afterSample_searchOnly r (sampleRaised r l s) x
  exact ⟨b, by rw [hb, rgnOf_congr (sampleRaised_rgn r l s), rgnOf_setRgn_of_ne hx]⟩

/-- A throttle step crossed upwards sets its cause. -/
theorem sampleRaised_causeSet {r : Nat} {l : List Nat} {s : State}
    (h : throttleLevel (rgnOf s r) < throttleLevel (sampledRgn s r l)) :
    causeSet (if throttleLevel (sampledRgn s r l) = 2 then leafThrottle95 r else leafThrottle85 r) (sampleRaised r l s) := by
  unfold sampleRaised
  simp only [h, if_true]
  exact raise_causeSet _ _ _

theorem throttled_cap85 (g : Rgn) (t : Nat) : (throttled g t).cap85 = true ↔ 340 ≤ t ∨ g.cap85 = true ∧ 328 < t := by
  simp [throttled]

theorem throttled_cap95 (g : Rgn) (t : Nat) : (throttled g t).cap95 = true ↔ 380 ≤ t ∨ g.cap95 = true ∧ 368 < t := by
  simp [throttled]

/-- Settles O23. -/
theorem throttleFollowsTheTemperature : Obligations.ThrottleFollowsTheTemperature := by
  unfold Obligations.ThrottleFollowsTheTemperature
  refine ⟨fun g t => ⟨rfl, throttled_cap85 g t, throttled_cap95 g t⟩, rfl, rfl, ?_, ?_, ?_⟩
  · intro g
    have hcap := capPoint_eq g
    have hpoint : (capPoint g).point = min g.point (throttleTop g) := by rw [hcap]
    refine ⟨fun h => ?_, fun h => ?_, ?_, capPoint_of_uncapped, by rw [hcap], by rw [hcap]⟩
    · rw [hpoint]
      exact (min_le_right _ _).trans (throttleTop_of_cap85 h)
    · rw [hpoint, throttleTop_of_cap95 h, Nat.min_zero]
    · rw [hpoint]
      exact min_le_left _ _
  · intro r v s hs g h
    set l := v.toList.map (·.toNat) with hl
    obtain ⟨b, hself⟩ := thermalSample_rgn_self r l s
    rw [capPoint_eq] at hself
    have hne : l ≠ [] := by simp [hl]
    have htemp : (rgnOf (afterSample r (sampleRaised r l s)) r).temp = highest l := by rw [hself]; rfl
    have hraised (hlt : throttleLevel g < throttleLevel h) :=
      (afterSample_causesStay r _).set (sampleRaised_causeSet (r := r) (l := l) (s := s) hlt)
    have hlevel : throttleLevel (sampledRgn s r l) = throttleLevel h := rfl
    rw [hlevel] at hraised
    refine ⟨_, execThermalSample_awake hs r v, fun x hx => ?_, ?_, ?_, ?_, ?_, ?_, ?_, fun x hx => ?_, fun hlt h1 => ?_, fun hlt h2 => ?_⟩
    · rw [htemp]
      exact le_highest (List.mem_map_of_mem hx)
    · rw [htemp]
      simpa [hl] using highest_mem hne
    · rw [hself]; rfl
    · rw [hself]; rfl
    · rw [hself]; rfl
    · rw [hself]; rfl
    · rw [hself, capPoint_eq h]; rfl
    · obtain ⟨c, hc⟩ := thermalSample_rgn_other hx l s
      rw [hc]
      exact ⟨rfl, rfl⟩
    · have := hraised hlt
      rwa [h1] at this
    · have := hraised hlt
      rwa [h2] at this
  · intro r v s hs
    simp [exec, execThermalSample, hs]

end Sys2Proof.Proofs

/-! PROOF. The side link's comparison and what follows (02 R46, Table 2.7). -/

namespace Sys2Proof.Proofs

open Sys2Proof.Machine Sys2Proof.Laws

/-! ## The side link (O24) -/

/-- Pair `n` after a comparison has been counted, before a fourth sample starts the supply clamp. -/
def sampledPair (s : State) (n a b : Nat) : Pair :=
  let p := pairOf s n
  let q : Pair := { p with ratioOn := !ratioOk (rgnOf s n).point (rgnOf s (n + 1)).point, mvLow := a, mvHigh := b }
  if 150 < supplyDiff q then { q with samples := min 4 (p.samples + 1) }
  else if supplyDiff q ≤ 120 then { q with samples := 0, supplyOn := false, clampAt := none, stepAt := none }
  else { q with samples := 0 }

/-- The fourth successive sample beyond the limit starts the supply clamp. -/
def clampStarts (s : State) (n a b : Nat) : Bool := (sampledPair s n a b).samples == 4 && !(sampledPair s n a b).supplyOn

/-- Pair `n` after the comparison. -/
def comparedPair (s : State) (n a b : Nat) : Pair :=
  if clampStarts s n a b then { sampledPair s n a b with supplyOn := true, clampAt := some (now s) } else sampledPair s n a b

/-- The ratio's cause, at the sample that finds it beyond its limit first. -/
def ratioRaised (n : Nat) (p q : Pair) (s : State) : State :=
  if q.ratioOn && !p.ratioOn then setAndFire (leafSkewRatio n) s else s

/-- The supply's cause, at the sample that starts the clamp. -/
def supplyRaised (n : Nat) (starts : Bool) (s : State) : State := if starts then setAndFire (leafSkewSupply n) s else s

section compared
variable (s : State) (n a b : Nat)

theorem sampledPair_samples :
    (sampledPair s n a b).samples = if 150 < max a b - min a b then min 4 ((pairOf s n).samples + 1) else 0 := by
  unfold sampledPair supplyDiff
  simp only
  split
  · rfl
  · split <;> rfl

/-- A sample writes what it measured, whatever it finds. -/
theorem sampledPair_measured :
    (sampledPair s n a b).ratioOn = !ratioOk (rgnOf s n).point (rgnOf s (n + 1)).point ∧
    (sampledPair s n a b).mvLow = a ∧ (sampledPair s n a b).mvHigh = b := by
  unfold sampledPair
  simp only
  split
  · exact ⟨rfl, rfl, rfl⟩
  · split <;> exact ⟨rfl, rfl, rfl⟩

/-- At 120 mV or less the supply limit and its clamp end. -/
theorem sampledPair_released (h : max a b - min a b ≤ 120) :
    (sampledPair s n a b).supplyOn = false ∧ (sampledPair s n a b).clampAt = none := by
  have hbelow : ¬ 150 < max a b - min a b := by omega
  simp only [sampledPair, supplyDiff, hbelow, h, if_true, if_false, and_self]

theorem sampledPair_supplyOn (h : 120 < max a b - min a b) : (sampledPair s n a b).supplyOn = (pairOf s n).supplyOn := by
  have habove : ¬ max a b - min a b ≤ 120 := by omega
  unfold sampledPair supplyDiff
  simp only [habove, if_false]
  split <;> rfl

theorem comparedPair_samples : (comparedPair s n a b).samples = (sampledPair s n a b).samples := by
  unfold comparedPair
  split <;> rfl

theorem comparedPair_measured :
    (comparedPair s n a b).ratioOn = !ratioOk (rgnOf s n).point (rgnOf s (n + 1)).point ∧
    (comparedPair s n a b).mvLow = a ∧ (comparedPair s n a b).mvHigh = b := by
  unfold comparedPair
  split
  · exact sampledPair_measured s n a b
  · exact sampledPair_measured s n a b

/-- The fourth sample lies beyond 150 mV: below, the count is 0. -/
theorem beyond_of_fourth (h : (sampledPair s n a b).samples = 4) : 150 < max a b - min a b := by
  rw [sampledPair_samples] at h
  by_contra hn
  rw [if_neg hn] at h
  exact absurd h (by decide)

theorem comparedPair_released (h : max a b - min a b ≤ 120) :
    (comparedPair s n a b).supplyOn = false ∧ (comparedPair s n a b).clampAt = none := by
  have hstarts : clampStarts s n a b = false := by
    unfold clampStarts
    rw [Bool.and_eq_false_iff]
    refine .inl (beq_eq_false_iff_ne.2 fun h4 => ?_)
    have := beyond_of_fourth s n a b h4
    omega
  unfold comparedPair
  rw [hstarts]
  exact sampledPair_released s n a b h

theorem comparedPair_supplyOn (h : 120 < max a b - min a b) :
    (comparedPair s n a b).supplyOn = ((pairOf s n).supplyOn || (comparedPair s n a b).samples == 4) := by
  rw [comparedPair_samples, ← sampledPair_supplyOn s n a b h]
  unfold comparedPair clampStarts
  cases h4 : (sampledPair s n a b).samples == 4 <;> cases hon : (sampledPair s n a b).supplyOn <;> simp [hon]

/-- The fourth sample starts the clamp of a pair that has none. -/
theorem clampStarts_of_fourth (h4 : (comparedPair s n a b).samples = 4) (hoff : (pairOf s n).supplyOn = false) :
    clampStarts s n a b = true := by
  rw [comparedPair_samples] at h4
  have hbeyond := beyond_of_fourth s n a b h4
  have hon := sampledPair_supplyOn s n a b (by omega)
  simp [clampStarts, h4, hon, hoff]

theorem execSideLinkCompare_inForce (pair : Fin 15) (h : awake s = true) (hp : pairInForce s pair = true) :
    execSideLinkCompare pair a b s = .next (supplyRaised pair (clampStarts s pair a b)
      (ratioRaised pair (pairOf s pair) (comparedPair s pair a b) (setPair pair (comparedPair s pair a b) s))) := by
  have hrun : ¬ (awake s = false ∨ pairInForce s pair = false) := by simp [h, hp]
  unfold execSideLinkCompare
  simp only [if_neg hrun]
  unfold ratioRaised
  rw [(comparedPair_measured s pair a b).1]
  rfl

end compared

theorem ratioRaised_pair (n : Nat) (p q : Pair) (s : State) : (ratioRaised n p q s).pair = s.pair := by
  unfold ratioRaised
  split
  · rw [setAndFire_eq]
  · rfl

theorem supplyRaised_pair (n : Nat) (starts : Bool) (s : State) : (supplyRaised n starts s).pair = s.pair := by
  unfold supplyRaised
  split
  · rw [setAndFire_eq]
  · rfl

theorem supplyRaised_causesStay (n : Nat) (starts : Bool) (s : State) : CausesStay s (supplyRaised n starts s) := by
  unfold supplyRaised
  split
  · exact setAndFire_causesStay _ _
  · exact .refl s

theorem ratioOk_iff (a b : Nat) : ratioOk a b = true ↔ 26 + a ≤ 2 * (26 + b) ∧ 26 + b ≤ 2 * (26 + a) := by
  unfold ratioOk
  rw [Bool.and_eq_true, decide_eq_true_iff, decide_eq_true_iff]
  rfl

/-- Settles O24. -/
theorem sideLinkFindsSkew : Obligations.SideLinkFindsSkew := by
  unfold Obligations.SideLinkFindsSkew
  refine ⟨?_, ?_, ratioOk_iff, ?_, ?_⟩
  · intro pair a b s hs hp p d
    obtain ⟨hratio, hlow, hhigh⟩ := comparedPair_measured s pair a b
    refine ⟨comparedPair s pair a b, _, execSideLinkCompare_inForce s a b pair hs hp, ?_, hratio, hlow, hhigh, ?_,
      comparedPair_released s pair a b, comparedPair_supplyOn s pair a b, fun hon hoff => ?_, fun h4 hoff => ?_⟩
    · rw [supplyRaised_pair, ratioRaised_pair]
      rfl
    · exact (comparedPair_samples s pair a b).trans (sampledPair_samples s pair a b)
    · refine (supplyRaised_causesStay _ _ _).set (l := leafSkewRatio pair) ?_
      have hraise : ((comparedPair s pair a b).ratioOn && !(pairOf s pair).ratioOn) = true := by
        rw [hon, Bool.true_and, Bool.not_eq_true']
        exact hoff
      rw [ratioRaised, if_pos hraise]
      exact setAndFire_causeSet _ _
    · have hstarts := clampStarts_of_fourth s pair a b h4 hoff
      rw [hstarts, supplyRaised, if_pos rfl, comparedPair, if_pos hstarts]
      exact ⟨rfl, setAndFire_causeSet (leafSkewSupply pair) _⟩
  · intro pair a b s hoff
    exact congrArg Host.Outcome.next (if_pos hoff)
  · intro pair s p hs hp hon hdiff hlate
    have hrun : ¬ (awake s = false ∨ pairInForce s pair = false ∨ p.supplyOn = false ∨ supplyDiff p ≤ 150 ∨
        ((match p.clampAt with
          | some t => decide (t + 1000000 ≤ now s)
          | none => false) = false ∧ (rgnOf s (fasterOf s pair)).point ≠ 0)) := by
      rintro (h | h | h | h | ⟨hl, hslow⟩)
      · simp [hs] at h
      · simp [hp] at h
      · simp [hon] at h
      · omega
      · obtain ⟨t0, hat, hdue⟩ | hzero := hlate
        · simp [hat, hdue] at hl
        · exact hslow hzero
    exact congrArg Host.Outcome.next (if_neg hrun)
  · intro r s hs hf
    have hrun : ¬ ((rgnOf s r).fenced = true ∨ awake s = false) := by simp [hs, hf]
    exact if_neg hrun

end Sys2Proof.Proofs

/-! PROOF. DVFS points: the order of clock and supply (02 R43; 21 R455, R456). -/

namespace Sys2Proof.Proofs

open Sys2Proof.Machine Sys2Proof.Laws

/-! ## Ramps and points (O25) -/

theorem rampTo_point (t mv : Nat) (g : Rgn) : (rampTo t mv none g).point = g.point := by
  unfold rampTo
  simp only
  split <;> rfl

theorem rampTo_vddSet (t mv : Nat) (k : Option Nat) (g : Rgn) : (rampTo t mv k g).vddSet = mv / 5 := by
  unfold rampTo
  simp only
  split <;> rfl

/-- A supply that is not yet at its value ramps there, and the point waits. -/
theorem rampTo_of_ne {t mv : Nat} {g : Rgn} (h : trackMv g t ≠ mv) (k : Option Nat) :
    rampTo t mv k g = { g with
      vddSet := mv / 5
      ramp := some ⟨trackMv g t, mv, t, k⟩
      rampEnd := t + 100 * (max (trackMv g t) mv - min (trackMv g t) mv) } :=
  if_neg h

/-- Downwards, or with a supply that is high enough, the clock changes at once. -/
theorem movePoint_now {r k : Nat} {s : State} (h : k ≤ (rgnOf s r).point ∨ pointMv s k ≤ trackMv (rgnOf s r) (now s)) :
    movePoint r k s = setRgn r (rampTo (now s) (pointMv s k) none { rgnOf s r with point := k }) s :=
  if_pos h

/-- Upwards with a supply that is too low, the supply ramps and the point waits. -/
theorem movePoint_later {r k : Nat} {s : State} (hk : (rgnOf s r).point < k) (h : trackMv (rgnOf s r) (now s) < pointMv s k) :
    movePoint r k s = setRgn r (rampTo (now s) (pointMv s k) (some k) (rgnOf s r)) s :=
  if_neg (by omega)

theorem rgnOf_movePoint_other {r x : Nat} (hx : x ≠ r) (k : Nat) (s : State) : rgnOf (movePoint r k s) x = rgnOf s x := by
  unfold movePoint
  simp only
  split
  · exact rgnOf_setRgn_of_ne hx _ _
  · exact rgnOf_setRgn_of_ne hx _ _

/-- A ramp ends when its supply has moved all the way, 1 mV every 100 ns. -/
def rampDue (u : Ramp) : Nat := u.start + 100 * (max u.fromMv u.toMv - min u.fromMv u.toMv)

/-- A region whose ramp has ended: the point that waited comes into force within the limits. -/
def rampedRgn (g : Rgn) (u : Ramp) : Rgn :=
  { g with ramp := none, point := match u.thenPoint with
    | some k => max g.point (min k (allowed g))
    | none => g.point }

section rampEnd
variable {r : Fin 16} {u : Ramp} {s : State} (hs : awake s = true) (hu : (rgnOf s r).ramp = some u)
include hu

theorem execSupplyRampEnd_early (h : now s < rampDue u) : execSupplyRampEnd r s = .next s := by
  unfold execSupplyRampEnd
  simp only [hu]
  exact congrArg Host.Outcome.next (if_pos (.inr h))

include hs in
theorem execSupplyRampEnd_due (h : rampDue u ≤ now s) : execSupplyRampEnd r s = .next (
    if (rgnOf s r).gated && !(rgnOf s r).fenced && u.thenPoint.isSome then ungateRgn r (setRgn r { rgnOf s r with ramp := none } s)
    else setRgn r (rampedRgn (rgnOf s r) u) s) := by
  have hrun : ¬ (awake s = false ∨ now s < rampDue u) := by simp [hs, h]
  unfold execSupplyRampEnd
  simp only [hu]
  exact congrArg Host.Outcome.next (if_neg hrun)

end rampEnd

/-- AVSBus addresses name their regions (21 R456). -/
theorem avsRegion_avsAddr (r : Nat) : avsRegion (avsAddr r) = r := Nat.div_add_mod r 4

theorem execAvsTransaction_eq {r : Fin 16} {s : State} (hs : awake s = true) (hf : (rgnOf s r).fenced = false) (code : BitVec 10)
    (failures : Nat) : execAvsTransaction r code failures s = .next (
      if 4 ≤ failures then supplyFault r s
      else if code.toNat < 120 ∨ 180 < code.toNat then s
      else setRgn r (rampTo (now s) (code.toNat * 5)
        (((rgnOf s r).ramp.bind (·.thenPoint)).filter fun k => decide (pointMv s k ≤ code.toNat * 5)) (rgnOf s r)) s) := by
  have hrun : ¬ (awake s = false ∨ (rgnOf s r).fenced = true) := by simp [hs, hf]
  unfold execAvsTransaction
  simp only [avsRegion_avsAddr]
  exact congrArg Host.Outcome.next (if_neg hrun)

/-- Settles O25. -/
theorem pointsMoveClockAndSupply : Obligations.PointsMoveClockAndSupply := by
  unfold Obligations.PointsMoveClockAndSupply
  refine ⟨fun r k s hk => ?_, fun r k s hk hmv => ?_, fun r k x s hx => rgnOf_movePoint_other hx k s, fun g u t hu _ => ?_,
    fun r k s hs hf => ?_, fun r k s hoff => congrArg Host.Outcome.next (if_pos hoff), fun r u s hs hu => ⟨?_, ?_, ?_⟩,
    fun r code n s hs hf => ?_⟩
  · rw [movePoint_now (.inl hk), rgnOf_setRgn_self]
    exact ⟨rampTo_point _ _ _, rampTo_vddSet _ _ _ _⟩
  · rw [movePoint_later hk hmv, rgnOf_setRgn_self, rampTo_of_ne (by omega)]
    exact ⟨rfl, rfl, rfl⟩
  · unfold trackMv
    simp only [hu]
  · have hrun : ¬ (awake s = false ∨ (rgnOf s r).fenced = true) := by simp [hs, hf]
    exact congrArg Host.Outcome.next (if_neg hrun)
  · exact execSupplyRampEnd_early hu
  · intro hdue hgated hfenced hthen
    have hrising : ((rgnOf s r).gated && !(rgnOf s r).fenced && u.thenPoint.isSome) = true := by
      simp [hgated, hfenced, Option.isSome_iff_ne_none, hthen]
    rw [exec, execSupplyRampEnd_due hs hu hdue, if_pos hrising]
  · intro hdue hstays
    have hrising : ¬ ((rgnOf s r).gated && !(rgnOf s r).fenced && u.thenPoint.isSome) = true := by
      rcases hstays with h | h | h <;> simp [h]
    refine ⟨_, execSupplyRampEnd_due hs hu hdue, ?_⟩
    rw [if_neg hrising, rgnOf_setRgn_self]
    refine ⟨rfl, fun hnone => ?_, fun k hk => ?_, fun x hx => rgnOf_setRgn_of_ne hx _ _⟩
    · simp [rampedRgn, hnone]
    · simp [rampedRgn, hk]
  · rw [exec, execAvsTransaction_eq hs hf]
    by_cases hcode : 120 ≤ code.toNat ∧ code.toNat ≤ 180
    · rw [if_neg (show ¬ (code.toNat < 120 ∨ 180 < code.toNat) by omega), if_pos hcode]
    · rw [if_pos (show code.toNat < 120 ∨ 180 < code.toNat by omega), if_neg hcode]

end Sys2Proof.Proofs

/-! PROOF. Clamp passes and their release, the package power cap and the quiet state (02 R46-R51; 18 R405). -/

namespace Sys2Proof.Proofs

open Sys2Proof.Machine Sys2Proof.Laws

/-! ## Sorting by a key -/

section sorting
variable {α : Type} (key : α → Nat)

theorem insertBy_perm (x : α) (l : List α) : (insertBy key x l).Perm (x :: l) := by
  induction l with
  | nil => exact .refl _
  | cons y ys ih =>
    unfold insertBy
    split
    · exact .refl _
    · exact (ih.cons y).trans (.swap x y ys)

theorem insertBy_sorted {x : α} {l : List α} (h : l.Pairwise fun a b => key a ≤ key b) :
    (insertBy key x l).Pairwise fun a b => key a ≤ key b := by
  induction l with
  | nil => exact List.pairwise_singleton _ _
  | cons y ys ih =>
    obtain ⟨hy, hys⟩ := List.pairwise_cons.1 h
    unfold insertBy
    split
    case isTrue hlt =>
      refine List.pairwise_cons.2 ⟨fun z hz => ?_, h⟩
      rcases List.mem_cons.1 hz with rfl | hz
      · omega
      · have := hy z hz
        omega
    case isFalse hge =>
      refine List.pairwise_cons.2 ⟨fun z hz => ?_, ih hys⟩
      rcases List.mem_cons.1 ((insertBy_perm key x ys).mem_iff.1 hz) with rfl | hz
      · omega
      · exact hy z hz

theorem foldl_insertBy_perm (l acc : List α) : (l.foldl (fun acc x => insertBy key x acc) acc).Perm (l ++ acc) := by
  induction l generalizing acc with
  | nil => exact .refl _
  | cons x xs ih =>
    refine (ih (insertBy key x acc)).trans ?_
    exact ((insertBy_perm key x acc).append_left xs).trans List.perm_middle

theorem foldl_insertBy_sorted (l : List α) {acc : List α} (h : acc.Pairwise fun a b => key a ≤ key b) :
    (l.foldl (fun acc x => insertBy key x acc) acc).Pairwise fun a b => key a ≤ key b := by
  induction l generalizing acc with
  | nil => exact h
  | cons x xs ih => exact ih (insertBy_sorted key h)

theorem sortBy_perm (l : List α) : (sortBy key l).Perm l := by
  have h := foldl_insertBy_perm key l []
  rwa [List.append_nil] at h

theorem sortBy_sorted (l : List α) : (sortBy key l).Pairwise fun a b => key a ≤ key b := foldl_insertBy_sorted key l .nil

end sorting

/-! ## Clamp passes and releases (O26) -/

theorem farthestFirst_perm (r : Nat) : (farthestFirst r).Perm (List.range 16) := sortBy_perm _ _

/-- The regions come by falling distance from the start of the pass. -/
theorem farthestFirst_falling (r : Fin 16) :
    (farthestFirst r).Pairwise fun x y => max y r.val - min y r.val ≤ max x r.val - min x r.val := by
  refine (sortBy_sorted (fun x => 16 - (max x r.val - min x r.val)) (List.range 16)).imp_of_mem fun {x y} hx hy hle => ?_
  have hx' := List.mem_range.1 ((farthestFirst_perm r).mem_iff.1 hx)
  have hy' := List.mem_range.1 ((farthestFirst_perm r).mem_iff.1 hy)
  omega

/-- Settles O26. -/
theorem clampsApplyFarthestFirst : Obligations.ClampsApplyFarthestFirst := by
  unfold Obligations.ClampsApplyFarthestFirst
  refine ⟨fun r s hs => congrArg Host.Outcome.next (if_pos hs), fun r => ⟨farthestFirst_perm r, farthestFirst_falling r⟩,
    fun r s hs hf hgoal hroom hdue hlift hfit => congrArg Host.Outcome.next (if_neg ?_),
    fun r s h => congrArg Host.Outcome.next (if_pos ?_)⟩
  · rintro (h | h | h | h | h | h | h)
    · simp [hs] at h
    · simp [hf] at h
    · exact h hgoal
    · omega
    · omega
    · exact absurd (hlift.symm.trans h) (by decide)
    · simp [hfit] at h
  · rcases h with h | h | h | h | h
    · exact .inl h
    · exact .inr (.inl h)
    · exact .inr (.inr (.inr (.inl (by omega))))
    · exact .inr (.inr (.inr (.inr (.inl h))))
    · exact .inr (.inr (.inr (.inr (.inr (.inr h)))))

/-! ## The power cap (O27) -/

/-- The state in which the steps of a measurement above the cap are taken. -/
def overCapped (s : State) : State := { s with cap := { s.cap with overCap := true, belowSince := none } }

/-- What a measurement above the cap does to the regions. -/
def capPass (s : State) : State := clampPass 0 ((List.range 16).foldl capStep s)

theorem capPass_cap (s : State) : (capPass s).cap = s.cap := by
  have hsteps : Frame [.catchment, .log, .rgn, .pair] s ((List.range 16).foldl capStep s) :=
    frame_foldl (Frame.refl _ s) fun _ x h => capStep_frame x h rfl
  exact (clampPass_frame 0 hsteps rfl).same .cap (by decide)

theorem execPowerMeasure_above {w : Nat} {s : State} (hs : awake s = true) (hw : (s.cfg.img.map (·.powerCap)).getD 1150 < w) :
    execPowerMeasure w s = .next (raise leafPowerCapped [] (capPass (overCapped s))) := by
  have hrun : ¬ awake s = false := by simp [hs]
  exact congrArg Host.Outcome.next ((if_neg hrun).trans (if_pos hw))

theorem execPowerMeasure_below {w : Nat} {s : State} (hs : awake s = true) (hw : w ≤ (s.cfg.img.map (·.powerCap)).getD 1150) :
    execPowerMeasure w s = .next (
      if s.cap.overCap = true ∧ 100 * w ≤ 95 * (s.cfg.img.map (·.powerCap)).getD 1150 then
        if s.cap.belowSince.getD (now s) + 10000000 ≤ now s then { s with cap := { s.cap with overCap := false, belowSince := none } }
        else { s with cap := { s.cap with belowSince := some (s.cap.belowSince.getD (now s)) } }
      else { s with cap := { s.cap with belowSince := none } }) := by
  have hrun : ¬ awake s = false := by simp [hs]
  exact congrArg Host.Outcome.next ((if_neg hrun).trans (if_neg (Nat.not_lt.2 hw)))

/-- A region in force that can go lower goes one step down, and the cap's limit holds it there. -/
theorem capStep_inForce {r : Nat} {s : State} (hf : inForce s r = true) (hk : 0 < goalPoint s r) :
    capStep s r = movePoint r (goalPoint s r - 1) (setRgn r (putLim 6 (goalPoint s r - 1) (rgnOf s r)) s) :=
  if_pos ⟨hf, hk⟩

/-! ## The quiet state -/

theorem execQuietGate_idle {r : Fin 16} {s : State} (hready : ready s = true) (hf : inForce s r = true)
    (hq : (s.cfg.img.map (·.quietIdle)).getD 500 ≠ 0) (hidle : regionIdle s r = true)
    (hdue : (rgnOf s r).busyAt + 1000 * (s.cfg.img.map (·.quietIdle)).getD 500 ≤ now s) :
    execQuietGate r s = .next (setRgn r { rgnOf (movePoint r 0 s) r with gated := true } (movePoint r 0 s)) := by
  refine congrArg Host.Outcome.next (if_neg ?_)
  rintro (h | h | h | h | h)
  · simp [hready] at h
  · simp [hf] at h
  · exact hq h
  · simp [hidle] at h
  · omega

/-! ## The point of an ungated region (R49) -/

theorem foldl_min_le {β : Type} (f : β → Nat) (l : List β) (m : Nat) : l.foldl (fun m e => min m (f e)) m ≤ m := by
  induction l generalizing m with
  | nil => exact le_rfl
  | cons x xs ih => exact (ih _).trans (min_le_left _ _)

theorem foldl_min_le_mem {β : Type} (f : β → Nat) {l : List β} {e : β} (h : e ∈ l) (m : Nat) :
    l.foldl (fun m e => min m (f e)) m ≤ f e := by
  induction l generalizing m with
  | nil => cases h
  | cons x xs ih =>
    rcases List.mem_cons.1 h with rfl | h
    · exact (foldl_min_le f xs _).trans (min_le_right _ _)
    · exact ih h _

theorem foldl_max_le {β : Type} (f : β → Nat) {l : List β} {m b : Nat} (hm : m ≤ b) (h : ∀ e ∈ l, f e ≤ b) :
    l.foldl (fun m e => max m (f e)) m ≤ b := by
  induction l generalizing m with
  | nil => exact hm
  | cons x xs ih =>
    exact ih (max_le hm (h x List.mem_cons_self)) fun e he => h e (List.mem_cons_of_mem _ he)

theorem le_foldl_max_self {β : Type} (f : β → Nat) (l : List β) (m : Nat) : m ≤ l.foldl (fun m e => max m (f e)) m := by
  induction l generalizing m with
  | nil => exact le_rfl
  | cons x xs ih => exact (le_max_left _ _).trans (ih _)

theorem le_foldl_max_mem {β : Type} (f : β → Nat) {l : List β} {e : β} (h : e ∈ l) (m : Nat) :
    f e ≤ l.foldl (fun m e => max m (f e)) m := by
  induction l generalizing m with
  | nil => cases h
  | cons x xs ih =>
    rcases List.mem_cons.1 h with rfl | h
    · exact (le_max_right _ _).trans (le_foldl_max_self f xs _)
    · exact ih h _

/-- The least point within 2:1 of every neighbour in force. -/
def floorPoint (s : State) (r : Nat) : Nat := (neighbours s r).foldl (fun m e => max m (ratioFloor (rgnOf s e.1).point)) 0

/-- The point lies from the lower of the floor and the top up to the top. -/
theorem ungatePoint_between (s : State) (r : Nat) (g : Rgn) :
    min (ungateTop s r g) (floorPoint s r) ≤ ungatePoint s r g ∧ ungatePoint s r g ≤ ungateTop s r g := by
  unfold ungatePoint
  simp only
  split
  case h_1 k hlast =>
    have hmem := (List.mem_filter.1 (List.mem_filter.1 (List.mem_of_getLast? hlast)).1).2
    simp only [Bool.and_eq_true, decide_eq_true_eq] at hmem
    exact ⟨hmem.1.1, hmem.1.2⟩
  case h_2 k _ hhead =>
    have hmem := (List.mem_filter.1 (List.mem_of_mem_head? hhead)).2
    simp only [Bool.and_eq_true, decide_eq_true_eq] at hmem
    exact ⟨hmem.1.1, hmem.1.2⟩
  case h_3 => exact ⟨le_max_left _ _, max_le (min_le_left _ _) (min_le_left _ _)⟩

theorem ungateTop_le_limitTop (s : State) (r : Nat) (g : Rgn) : ungateTop s r g ≤ limitTop g := foldl_min_le _ _ _

theorem limitTop_le_throttleTop (g : Rgn) : limitTop g ≤ throttleTop g := foldl_min_le _ _ _

theorem throttleTop_putLim (c k : Nat) (g : Rgn) : throttleTop (putLim c k g) = throttleTop g := rfl

theorem throttleTop_ungateLims (s : State) (r : Nat) (g : Rgn) : throttleTop (ungateLims s r g) = throttleTop g := by
  unfold ungateLims
  generalize neighbours s r = l
  induction l generalizing g with
  | nil => rfl
  | cons e es ih =>
    rw [List.foldl_cons, ih]
    simp only
    split <;> split <;> simp only [throttleTop_putLim]

/-- The top lies within 2:1 of a neighbour in force, and not above it under a temperature limit. -/
theorem ungateTop_le_neighbour {s : State} {r : Nat} {e : Nat × Nat} (he : e ∈ neighbours s r) (g : Rgn) :
    ungateTop s r g ≤ ratioTop (rgnOf s e.1).point ∧
    ((pairOf s e.2).tempOn = true → ungateTop s r g ≤ (rgnOf s e.1).point) := by
  have h := foldl_min_le_mem (fun e : Nat × Nat => if (pairOf s e.2).tempOn then
    min (rgnOf s e.1).point (ratioTop (rgnOf s e.1).point) else ratioTop (rgnOf s e.1).point) he (limitTop g)
  refine ⟨h.trans ?_, fun ht => h.trans ?_⟩
  · split
    · exact min_le_right _ _
    · exact le_rfl
  · simp only [ht, if_true]
    exact min_le_left _ _

/-- Settles O27. -/
theorem powerCapAndQuietState : Obligations.PowerCapAndQuietState := by
  unfold Obligations.PowerCapAndQuietState
  refine ⟨fun w s hs hw => ?_, fun w s hs hw => ?_, fun r s hf hk => ?_, fun r s hready hf hq hidle hdue => ?_,
    fun r s h => congrArg Host.Outcome.next (if_pos h), fun r s hs hf hgated hramp hwaits => congrArg Host.Outcome.next (if_neg ?_),
    ?_, fun r s h => congrArg Host.Outcome.next (if_pos ?_)⟩
  · refine ⟨_, execPowerMeasure_above hs hw, ?_, raise_causeSet _ _ _, raise_rgn _ _ _⟩
    exact ((raise_frame (m := [.catchment, .log]) leafPowerCapped [] (Frame.refl _ _) rfl).same .cap (by decide)).trans
      (capPass_cap _)
  · rw [exec, execPowerMeasure_below hs hw]
    by_cases hlow : s.cap.overCap = true ∧ 100 * w ≤ 95 * (s.cfg.img.map (·.powerCap)).getD 1150
    · rw [if_pos hlow, if_pos hlow]
      split <;> rfl
    · rw [if_neg hlow, if_neg hlow]
  · exact ⟨_, capStep_inForce hf hk, tlook_tput _ _ _⟩
  · refine ⟨_, execQuietGate_idle hready hf hq hidle hdue, ?_⟩
    rw [rgnOf_setRgn_self]
    refine ⟨rfl, ?_, fun x hx => ?_⟩
    · rw [movePoint_now (.inl (Nat.zero_le _)), rgnOf_setRgn_self]
      exact rampTo_point _ _ _
    · rw [rgnOf_setRgn_of_ne hx, rgnOf_movePoint_other hx]
  · rintro (h | h | h | h | h)
    · simp [hs] at h
    · simp [hf] at h
    · simp [hgated] at h
    · simp [hramp] at h
    · simp [hwaits] at h
  · intro r s g k
    refine ⟨fun hmv => if_pos hmv, fun hmv => if_neg (Nat.not_lt.2 hmv), ?_, fun e he => ?_, fun hall e he => ?_⟩
    · calc k ≤ ungateTop s r g := (ungatePoint_between s r g).2
        _ ≤ limitTop g := ungateTop_le_limitTop s r g
        _ ≤ throttleTop g := limitTop_le_throttleTop g
        _ = throttleTop (rgnOf s r) := throttleTop_ungateLims s r _
    · obtain ⟨hratio, htemp⟩ := ungateTop_le_neighbour he g
      exact ⟨(ungatePoint_between s r g).2.trans hratio, fun ht => (ungatePoint_between s r g).2.trans (htemp ht)⟩
    · have hfloor : floorPoint s r ≤ ungateTop s r g := foldl_max_le _ (Nat.zero_le _) hall
      have hlow := (ungatePoint_between s r g).1
      rw [min_eq_right hfloor] at hlow
      exact (le_foldl_max_mem _ he 0).trans hlow
  · rcases h with h | h
    · exact .inr (.inr (.inl h))
    · exact .inr (.inr (.inr (.inr h)))

end Sys2Proof.Proofs

/-! PROOF. The rules of channels, journals and DMA channels: what a read returns after a write, and what the ends of atoms and runs
leave (04 R104; 13 R304, R305). -/

namespace Sys2Proof.Proofs

open Sys2Proof.Machine Sys2Proof.Laws

/-! ## Tables -/

theorem tlook_tmap {α : Type} (t : Tbl α) (f : Nat → α → α) (k : Nat) : tlook (tmap t f) k = (tlook t k).map (f k) := by
  induction t with
  | nil => rfl
  | cons e t ih =>
    obtain ⟨k', v⟩ := e
    unfold tmap at ih ⊢
    by_cases heq : k' = k
    · subst heq
      simp [tlook]
    · by_cases hlt : k < k'
      · simp [tlook, heq, hlt]
      · simpa [tlook, heq, hlt] using ih

theorem tget_eq_of_not_listed {α : Type} {d : α} {t : Tbl α} {k : Nat} (h : k ∉ t.map (·.1)) : tget d t k = d := by
  unfold tget
  cases hk : tlook t k with
  | none => rfl
  | some v => exact absurd (List.mem_map_of_mem (f := (·.1)) (mem_tlook hk)) h

theorem padTo_length (n : Nat) (b : Bytes) : (padTo n b).length = n := by
  unfold padTo slice
  simp only [List.length_append, List.length_take, List.length_drop, List.length_replicate]
  omega

/-! ## Channels -/

@[simp] theorem chanSt_setChan_self (ch : Nat) (c : Chan) (s : State) : chanSt (setChan ch c s) ch = c := tget_tput _ _ _ _

@[simp] theorem chanSt_setChan_of_ne {ch x : Nat} (h : x ≠ ch) (c : Chan) (s : State) : chanSt (setChan ch c s) x = chanSt s x :=
  tget_tput_ne h

theorem chanSt_congr {s t : State} (h : t.chan = s.chan) (ch : Nat) : chanSt t ch = chanSt s ch := by
  unfold chanSt
  rw [h]

@[simp] theorem chanSt_writeFast (a : Nat) (bs : Bytes) (s : State) (ch : Nat) : chanSt (writeFast a bs s) ch = chanSt s ch := rfl

@[simp] theorem chanSt_setJournal_self (ch i : Nat) (j : Journal) (s : State) :
    chanSt (setJournal ch i j s) ch = { chanSt s ch with journal := tput (chanSt s ch).journal i j } := by
  unfold setJournal
  rw [chanSt_writeFast, chanSt_setChan_self]

@[simp] theorem chanSt_setJournal_of_ne {ch x : Nat} (h : x ≠ ch) (i : Nat) (j : Journal) (s : State) :
    chanSt (setJournal ch i j s) x = chanSt s x := by
  unfold setJournal
  rw [chanSt_writeFast, chanSt_setChan_of_ne h]

theorem setJournal_mem (ch i : Nat) (j : Journal) (s : State) :
    (setJournal ch i j s).mem = (writeFast (journalAddr ch i) (journalBytes j) s).mem := rfl

theorem journalBytes_length (j : Journal) : (journalBytes j).length = 64 := padTo_length _ _

/-- Two memories differ in the fast tier alone. -/
def fastOnly (s t : State) : Prop := t.mem = { s.mem with fast := t.mem.fast }

theorem fastOnly.refl (s : State) : fastOnly s s := rfl

theorem fastOnly.trans {s t u : State} (h : fastOnly s t) (h' : fastOnly t u) : fastOnly s u := by
  unfold fastOnly at h h' ⊢
  rw [h', h]

theorem fastOnly_of_eq {s t : State} (h : t.mem = s.mem) : fastOnly s t := by
  unfold fastOnly
  rw [h]

theorem setJournal_fastOnly (ch i : Nat) (j : Journal) (s : State) : fastOnly s (setJournal ch i j s) := rfl

/-- A write of a journal entry changes its 64 bytes alone. -/
theorem setJournal_outside {s : State} (hw : Memory.wf s.mem.fast = true) {ch i x : Nat}
    (hx : x < journalAddr ch i ∨ journalAddr ch i + 64 ≤ x) (j : Journal) :
    tget 0 (setJournal ch i j s).mem.fast x = tget 0 s.mem.fast x :=
  memWrite_outside hw _ _ _ (by rwa [journalBytes_length])

/-! ## The end of an atom -/

section endAtom
variable (ch : Nat) (st : JournalSt) (wrote : Bool) (s : State)

theorem endAtom_of_none (h : (chanSt s ch).atom = none) : endAtom ch st wrote s = s := by
  unfold endAtom
  rw [h]

theorem endAtom_of_some {a : Atom} (h : (chanSt s ch).atom = some a) :
    endAtom ch st wrote s = setJournal ch a.entry
      { st := st, chunks := if wrote then a.chunks else a.chunks.map fun c => (c.1, []), slot := a.slot }
      (setChan ch { chanSt s ch with atom := none } s) := by
  unfold endAtom
  rw [h]

@[simp] theorem chanSt_endAtom_self : (chanSt (endAtom ch st wrote s) ch).atom = none := by
  cases h : (chanSt s ch).atom with
  | none => rw [endAtom_of_none ch st wrote s h, h]
  | some a => rw [endAtom_of_some ch st wrote s h, chanSt_setJournal_self, chanSt_setChan_self]

theorem chanSt_endAtom_of_ne {x : Nat} (hx : x ≠ ch) : chanSt (endAtom ch st wrote s) x = chanSt s x := by
  cases h : (chanSt s ch).atom with
  | none => rw [endAtom_of_none ch st wrote s h]
  | some a => rw [endAtom_of_some ch st wrote s h, chanSt_setJournal_of_ne hx, chanSt_setChan_of_ne hx]

theorem endAtom_fastOnly : fastOnly s (endAtom ch st wrote s) := by
  cases h : (chanSt s ch).atom with
  | none =>
    rw [endAtom_of_none ch st wrote s h]
    exact .refl s
  | some a =>
    rw [endAtom_of_some ch st wrote s h]
    exact setJournal_fastOnly ch a.entry _ (setChan ch { chanSt s ch with atom := none } s)

theorem endAtom_wf (hw : Memory.wf s.mem.fast = true) : Memory.wf (endAtom ch st wrote s).mem.fast = true := by
  cases h : (chanSt s ch).atom with
  | none => rwa [endAtom_of_none ch st wrote s h]
  | some a =>
    rw [endAtom_of_some ch st wrote s h]
    exact memWf_memWrite hw _ _

end endAtom

/-- Address `x` lies in no journal entry of a running atom: `offJournals` for the entries that a read can reach. -/
def offRunning (s : State) (x : Nat) : Prop :=
  ∀ ch a, (chanSt s ch).atom = some a → x < journalAddr ch a.entry ∨ journalAddr ch a.entry + 64 ≤ x

theorem offRunning_of_offJournals {s : State} {x : Nat} (h : offJournals s x = true) : offRunning s x := by
  intro ch a ha
  unfold chanSt tget at ha
  cases hk : tlook s.chan ch with
  | none =>
    rw [hk] at ha
    cases ha
  | some c =>
    rw [hk, Option.getD_some] at ha
    have hc := List.all_eq_true.1 h (ch, c) (mem_tlook hk)
    simp only [ha, Bool.or_eq_true, decide_eq_true_eq] at hc
    exact hc

theorem offRunning_congr {s t : State} (h : t.chan = s.chan) {x : Nat} (hx : offRunning s x) : offRunning t x := by
  intro ch a ha
  rw [chanSt_congr h] at ha
  exact hx ch a ha

theorem endAtom_offRunning (ch : Nat) (st : JournalSt) (wrote : Bool) {s : State} {x : Nat} (hx : offRunning s x) :
    offRunning (endAtom ch st wrote s) x := by
  intro y a ha
  by_cases hy : y = ch
  · subst hy
    rw [chanSt_endAtom_self] at ha
    cases ha
  · rw [chanSt_endAtom_of_ne ch st wrote s hy] at ha
    exact hx y a ha

theorem endAtom_outside (ch : Nat) (st : JournalSt) (wrote : Bool) {s : State} {x : Nat} (hw : Memory.wf s.mem.fast = true)
    (hx : offRunning s x) : tget 0 (endAtom ch st wrote s).mem.fast x = tget 0 s.mem.fast x := by
  cases h : (chanSt s ch).atom with
  | none => rw [endAtom_of_none ch st wrote s h]
  | some a =>
    rw [endAtom_of_some ch st wrote s h]
    exact setJournal_outside (s := setChan ch { chanSt s ch with atom := none } s) hw (hx ch a h) _

/-- The atoms of the channels `l` end. -/
def endAtoms {β : Type} (l : List (Nat × β)) (s : State) : State := l.foldl (fun s e => endAtom e.1 .abandoned true s) s

section endAtoms
variable {β : Type} (l : List (Nat × β)) (s : State)

theorem endAtoms_atom (ch : Nat) :
    (chanSt (endAtoms l s) ch).atom = if ch ∈ l.map (·.1) then none else (chanSt s ch).atom := by
  induction l generalizing s with
  | nil => rfl
  | cons e l ih =>
    have hstep := ih (endAtom e.1 .abandoned true s)
    by_cases hch : ch = e.1
    · subst hch
      rw [chanSt_endAtom_self, ite_self] at hstep
      rw [List.map_cons, if_pos List.mem_cons_self]
      exact hstep
    · rw [chanSt_endAtom_of_ne e.1 .abandoned true s hch] at hstep
      have hmem : ch ∈ (e :: l).map (·.1) ↔ ch ∈ l.map (·.1) := by simp [hch]
      simp only [hmem]
      exact hstep

/-- Every atom that a read can reach ends. -/
theorem endAtoms_all (ch : Nat) : (chanSt (endAtoms s.chan s) ch).atom = none := by
  rw [endAtoms_atom]
  split
  · rfl
  case isFalse h =>
    have hdef : chanSt s ch = {} := tget_eq_of_not_listed h
    rw [hdef]

theorem endAtoms_fastOnly : fastOnly s (endAtoms l s) := by
  induction l generalizing s with
  | nil => exact .refl s
  | cons e l ih => exact (endAtom_fastOnly e.1 .abandoned true s).trans (ih _)

theorem endAtoms_outside {x : Nat} (hw : Memory.wf s.mem.fast = true) (hx : offRunning s x) :
    tget 0 (endAtoms l s).mem.fast x = tget 0 s.mem.fast x := by
  induction l generalizing s with
  | nil => rfl
  | cons e l ih =>
    exact (ih _ (endAtom_wf _ _ _ s hw) (endAtom_offRunning _ _ _ hx)).trans (endAtom_outside _ _ _ hw hx)

theorem endAtoms_frame : Frame [.mem, .chan] s (endAtoms l s) :=
  frame_foldl (Frame.refl _ s) fun _ _ h => endAtom_frame _ _ _ h rfl

end endAtoms

/-! ## DMA channels -/

/-- A channel's record that is not that of reset reads back as written. -/
theorem dmaOf_setDma_self {x : DmaCh} (h : x ≠ {}) (c : Nat) (s : State) : dmaOf (setDma c x s) c = x := tget_tset_self h _ _

theorem dmaOf_setDma_of_ne {x : DmaCh} (h : x ≠ {}) {c y : Nat} (hy : y ≠ c) (s : State) : dmaOf (setDma c x s) y = dmaOf s y :=
  tget_tset_other h _ hy

theorem dmaOf_congr {s t : State} (h : t.dma = s.dma) (c : Nat) : dmaOf t c = dmaOf s c := by
  unfold dmaOf
  rw [h]

/-- A channel whose run ended otherwise than with ST_OK (13 R299). -/
def failedDma (status cause : Nat) (x : DmaCh) : DmaCh :=
  { x with run := none, pending := false, error := true, lastStatus := status, cause := cause }

theorem failedDma_ne (status cause : Nat) (x : DmaCh) : failedDma status cause x ≠ {} := by
  intro h
  exact Bool.noConfusion (congrArg DmaCh.error h)

theorem dmaFail_eq (c status cause : Nat) (s : State) : dmaFail c status cause s = setDma c (failedDma status cause (dmaOf s c)) s := rfl

@[simp] theorem dmaOf_dmaFail_self (c status cause : Nat) (s : State) :
    dmaOf (dmaFail c status cause s) c = failedDma status cause (dmaOf s c) := dmaOf_setDma_self (failedDma_ne _ _ _) _ _

theorem dmaOf_dmaFail_of_ne {c y : Nat} (hy : y ≠ c) (status cause : Nat) (s : State) :
    dmaOf (dmaFail c status cause s) y = dmaOf s y := dmaOf_setDma_of_ne (failedDma_ne _ _ _) hy _

theorem raise_dma (l : Leaf) (d : Detail) (s : State) : (raise l d s).dma = s.dma :=
  (raise_frame (m := [.catchment, .log]) l d (Frame.refl _ s) rfl).same .dma (by decide)

theorem logEvent_dma (ring event : Nat) (l : Option Leaf) (d : Detail) (s : State) : (logEvent ring event l d s).dma = s.dma :=
  (logEvent_frame (m := [.catchment, .log]) ring event l d (Frame.refl _ s) rfl).same .dma (by decide)

theorem logRecord_causesStay (ring sev kind src bit event : Nat) (d : Detail) (s : State) :
    CausesStay s (logRecord ring sev kind src bit event d s) := causesStay_of_eq rfl

theorem logEvent_causesStay (ring event : Nat) (l : Option Leaf) (d : Detail) (s : State) : CausesStay s (logEvent ring event l d s) := by
  cases l with
  | none => exact logRecord_causesStay ring 0 2 0 0 event d s
  | some l => exact (logRecord_causesStay ring 0 2 l.src l.bit event d s).trans (setAndFire_causesStay l _)

section abort
variable (c : Nat) (s : State)

theorem dmaAbortFail_of_none (h : (dmaOf s c).run = none) : dmaAbortFail c s = s := by
  unfold dmaAbortFail
  simp only [h]

/-- A run that is aborted leaves its channel with ST_INTERNAL and cause 7 (13 R305). -/
theorem dmaAbortFail_dma {r : DmaRun} (h : (dmaOf s c).run = some r) : (dmaAbortFail c s).dma = (dmaFail c stInternal 7 s).dma := by
  unfold dmaAbortFail
  simp only [h]
  exact logEvent_dma _ _ _ _ _

theorem dmaOf_dmaAbortFail_self : (dmaOf (dmaAbortFail c s) c).run = none := by
  cases h : (dmaOf s c).run with
  | none => rwa [dmaAbortFail_of_none c s h]
  | some r =>
    rw [dmaOf_congr (dmaAbortFail_dma c s h), dmaOf_dmaFail_self]
    rfl

theorem dmaOf_dmaAbortFail_of_ne {y : Nat} (hy : y ≠ c) : dmaOf (dmaAbortFail c s) y = dmaOf s y := by
  cases h : (dmaOf s c).run with
  | none => rw [dmaAbortFail_of_none c s h]
  | some r => rw [dmaOf_congr (dmaAbortFail_dma c s h), dmaOf_dmaFail_of_ne hy]

theorem dmaAbortFail_causesStay : CausesStay s (dmaAbortFail c s) := by
  unfold dmaAbortFail
  simp only
  split
  · exact .refl s
  · exact (causesStay_of_eq (setDma_catchment _ _ s)).trans (logEvent_causesStay _ _ _ _ _)

end abort

/-- Aborting a list of runs leaves none of them. -/
theorem abortList_run {β : Type} (l : List (Nat × β)) (s : State) (c : Nat) :
    (dmaOf (l.foldl (fun s e => dmaAbortFail e.1 s) s) c).run = if c ∈ l.map (·.1) then none else (dmaOf s c).run := by
  induction l generalizing s with
  | nil => rfl
  | cons e l ih =>
    have hstep := ih (dmaAbortFail e.1 s)
    by_cases hc : c = e.1
    · subst hc
      rw [dmaOf_dmaAbortFail_self, ite_self] at hstep
      rw [List.map_cons, if_pos List.mem_cons_self]
      exact hstep
    · rw [dmaOf_dmaAbortFail_of_ne e.1 s hc] at hstep
      have hmem : c ∈ (e :: l).map (·.1) ↔ c ∈ l.map (·.1) := by simp [hc]
      simp only [hmem]
      exact hstep

theorem abortRuns_run (s : State) (c : Nat) : (dmaOf (abortRuns s) c).run = none := by
  refine (abortList_run s.dma s c).trans ?_
  split
  · rfl
  case isFalse h =>
    have hdef : dmaOf s c = {} := tget_eq_of_not_listed h
    rw [hdef]

theorem abortRuns_causesStay (s : State) : CausesStay s (abortRuns s) := by
  unfold abortRuns
  exact causesStay_foldl (fun s (e : Nat × DmaCh) => dmaAbortFail_causesStay e.1 s) _ _

end Sys2Proof.Proofs

/-! PROOF. A fatal error stops the node (02 R38; 19 R421; 20 R438). -/

namespace Sys2Proof.Proofs

open Sys2Proof.Machine Sys2Proof.Laws

/-! ## The work in progress is dropped -/

/-- The atoms and the runs end before the rest of the work is dropped. -/
def endedWork (s : State) : State := abortRuns (endAtoms s.chan s)

theorem endedWork_frame (s : State) : Frame [.catchment, .log, .mem, .chan, .dma] s (endedWork s) :=
  abortRuns_frame (Frame.mono (endAtoms_frame s.chan s) rfl) rfl

theorem abortRuns_chan (s : State) : (abortRuns s).chan = s.chan :=
  (abortRuns_frame (m := [.catchment, .log, .dma]) (Frame.refl _ s) rfl).same .chan (by decide)

theorem abortRuns_mem (s : State) : (abortRuns s).mem = s.mem :=
  (abortRuns_frame (m := [.catchment, .log, .dma]) (Frame.refl _ s) rfl).same .mem (by decide)

theorem dropWork_mem (s : State) : (dropWork s).mem = (endAtoms s.chan s).mem := abortRuns_mem _

theorem dropWork_dma (s : State) : (dropWork s).dma = (endedWork s).dma := rfl

theorem dropWork_catchment (s : State) : (dropWork s).catchment = (endedWork s).catchment := rfl

theorem dropWork_atom (s : State) (ch : Nat) : (chanSt (dropWork s) ch).atom = none := by
  have hended : (chanSt (endedWork s) ch).atom = none := by
    rw [endedWork, chanSt_congr (abortRuns_chan _)]
    exact endAtoms_all s ch
  have hchan : (dropWork s).chan =
      tmap (endedWork s).chan fun _ c => { c with issued := [], queue := [], run := none, scrub := none, held := [] } := rfl
  unfold chanSt tget at hended ⊢
  rw [hchan, tlook_tmap]
  cases htlook : tlook (endedWork s).chan ch with
  | none => rfl
  | some c =>
    rw [htlook] at hended
    exact hended

theorem dropWork_causesStay (s : State) : CausesStay s (dropWork s) := by
  have hatoms : CausesStay s (endAtoms s.chan s) := causesStay_of_eq ((endAtoms_frame s.chan s).same .catchment (by decide))
  exact (hatoms.trans (abortRuns_causesStay _)).trans (causesStay_of_eq (dropWork_catchment s))

/-! ## Sending raises causes and clears none -/

theorem keyRefused_causesStay (op : Nat) (s : State) : CausesStay s (keyRefused op s) := by
  unfold keyRefused
  split
  · exact .refl s
  · exact raise_causesStay _ _ _

theorem causesStay_of_frame {m : List Part} {s t : State} (h : Frame m s t) (hm : Part.catchment ∉ m) : CausesStay s t :=
  causesStay_of_eq (h.same .catchment hm)

theorem sendAllPorts_causesStay (die op dst : Nat) (data : Bytes) (s : State) : CausesStay s (sendAllPorts die op dst data s) := by
  unfold sendAllPorts
  split
  · exact .refl s
  · split
    · exact keyRefused_causesStay op s
    · have htake : Frame [.jx] s (takeMsgId die s).2 := (takeMsgId_frame die (Frame.refl _ s) rfl).snd
      exact causesStay_of_frame (m := [.jx]) (frame_foldl htake fun _ _ h => joinControl_frame _ _ h rfl) (by decide)

theorem withdrawAll_causesStay (reason : Nat) (s : State) : CausesStay s (withdrawAll reason s) := by
  unfold withdrawAll
  refine causesStay_foldl (fun s n => ?_) _ _
  split
  · exact .refl s
  · exact sendAllPorts_causesStay _ _ _ _ _

/-! ## The stop (O28) -/

section stop
variable (tell : Bool) (reason : Nat) (lower : Detail) (s : State)

/-- The CHIP_FATAL record is written and its reason kept. -/
def fatalNoted : State :=
  { raise leafChipFatal ([(40, 1, reason)] ++ lower) s with
    ctl := { (raise leafChipFatal ([(40, 1, reason)] ++ lower) s).ctl with fatal := some reason, withdrawn := true } }

/-- The node withdraws, unless nothing can be sent. -/
def fatalWithdrawn : State :=
  if tell then withdrawAll 0 (dropWork (fatalNoted reason lower s)) else dropWork (fatalNoted reason lower s)

theorem fatalStop_later (h : s.ctl.fatal ≠ none) : fatalStop tell reason lower s = s := if_pos (Option.isSome_iff_ne_none.2 h)

theorem fatalStop_first (h : s.ctl.fatal = none) : fatalStop tell reason lower s =
    settle { fatalWithdrawn tell reason lower s with
      cfg := { (fatalWithdrawn tell reason lower s).cfg with phase := 9 }
      pwr := { (fatalWithdrawn tell reason lower s).pwr with sleep := .none, romHold := false }
      node := { (fatalWithdrawn tell reason lower s).node with st := .drained, blocked := [] } } :=
  if_neg (by simp [h])

theorem fatalNoted_frame : Frame [.catchment, .log, .ctl] s (fatalNoted reason lower s) :=
  frame_ctl (raise_frame leafChipFatal _ (Frame.refl _ s) rfl) rfl

theorem fatalNoted_ctl : (fatalNoted reason lower s).ctl = { s.ctl with fatal := some reason, withdrawn := true } := by
  have hctl := (raise_frame (m := [.catchment, .log]) leafChipFatal ([(40, 1, reason)] ++ lower) (Frame.refl _ s) rfl).same .ctl (by decide)
  unfold fatalNoted
  rw [show (raise leafChipFatal ([(40, 1, reason)] ++ lower) s).ctl = s.ctl from hctl]

theorem fatalNoted_causeSet : causeSet leafChipFatal (fatalNoted reason lower s) :=
  (causesStay_of_eq (s := raise leafChipFatal ([(40, 1, reason)] ++ lower) s) rfl).set (raise_causeSet leafChipFatal _ s)

theorem fatalNoted_causesStay : CausesStay s (fatalNoted reason lower s) :=
  (raise_causesStay leafChipFatal ([(40, 1, reason)] ++ lower) s).trans (causesStay_of_eq rfl)

/-- What the withdrawal leaves of the dropped work. -/
theorem fatalWithdrawn_frame :
    Frame [.catchment, .log, .jx] (dropWork (fatalNoted reason lower s)) (fatalWithdrawn tell reason lower s) := by
  unfold fatalWithdrawn
  split
  · exact withdrawAll_frame 0 (Frame.refl _ _) rfl
  · exact Frame.refl _ _

theorem fatalWithdrawn_causesStay : CausesStay (fatalNoted reason lower s) (fatalWithdrawn tell reason lower s) := by
  refine (dropWork_causesStay _).trans ?_
  unfold fatalWithdrawn
  split
  · exact withdrawAll_causesStay _ _
  · exact .refl _

/-- What the whole stop leaves alone, from the state before it. -/
theorem fatalWithdrawn_frame_before :
    Frame [.catchment, .log, .ctl, .mem, .chan, .work, .installs, .req, .jx, .slu, .datum, .dma] s
      (fatalWithdrawn tell reason lower s) := by
  have hdrop := dropWork_frame (Frame.mono (fatalNoted_frame reason lower s)
    (m := [.catchment, .log, .ctl, .mem, .chan, .work, .installs, .req, .jx, .slu, .datum, .dma]) rfl) rfl
  unfold fatalWithdrawn
  split
  · exact withdrawAll_frame 0 hdrop rfl
  · exact hdrop

theorem fatalStop_causesStay : CausesStay s (fatalStop tell reason lower s) := by
  by_cases h : s.ctl.fatal = none
  · rw [fatalStop_first tell reason lower s h]
    refine ((fatalNoted_causesStay reason lower s).trans (fatalWithdrawn_causesStay tell reason lower s)).trans ?_
    exact ⟨fun id b hb => by simpa [causeWord, settle] using hb⟩
  · rw [fatalStop_later tell reason lower s h]
    exact .refl s

section first
variable (h : s.ctl.fatal = none)
include h

theorem fatalStop_first_ctl : (fatalStop tell reason lower s).ctl = { s.ctl with fatal := some reason, withdrawn := true } := by
  have hdrop : (dropWork (fatalNoted reason lower s)).ctl = (fatalNoted reason lower s).ctl :=
    (dropWork_frame (m := [.catchment, .log, .mem, .chan, .work, .installs, .req, .jx, .slu, .datum, .dma]) (Frame.refl _ _) rfl).same
      .ctl (by decide)
  rw [fatalStop_first tell reason lower s h, ← fatalNoted_ctl reason lower s, ← hdrop]
  exact (fatalWithdrawn_frame tell reason lower s).same .ctl (by decide)

theorem fatalStop_first_causeSet : causeSet leafChipFatal (fatalStop tell reason lower s) := by
  rw [fatalStop_first tell reason lower s h]
  have hset := (fatalWithdrawn_causesStay tell reason lower s).set (fatalNoted_causeSet reason lower s)
  simpa [causeSet, causeWord, settle] using hset

theorem fatalStop_first_mem :
    (fatalStop tell reason lower s).mem = (endAtoms s.chan (fatalNoted reason lower s)).mem := by
  have hchan : (fatalNoted reason lower s).chan = s.chan := (fatalNoted_frame reason lower s).same .chan (by decide)
  rw [fatalStop_first tell reason lower s h, ← hchan, ← dropWork_mem]
  exact (fatalWithdrawn_frame tell reason lower s).same .mem (by decide)

theorem fatalStop_first_fastOnly : fastOnly s (fatalStop tell reason lower s) := by
  have hnoted : fastOnly s (fatalNoted reason lower s) :=
    fastOnly_of_eq ((fatalNoted_frame reason lower s).same .mem (by decide))
  exact (hnoted.trans (endAtoms_fastOnly s.chan _)).trans (fastOnly_of_eq (fatalStop_first_mem tell reason lower s h))

theorem fatalStop_first_outside {x : Nat} (hw : Memory.wf s.mem.fast = true) (hx : offRunning s x) :
    tget 0 (fatalStop tell reason lower s).mem.fast x = tget 0 s.mem.fast x := by
  have hmem : (fatalNoted reason lower s).mem = s.mem := (fatalNoted_frame reason lower s).same .mem (by decide)
  have hchan : (fatalNoted reason lower s).chan = s.chan := (fatalNoted_frame reason lower s).same .chan (by decide)
  rw [fatalStop_first_mem tell reason lower s h, endAtoms_outside s.chan _ (by rwa [hmem]) (offRunning_congr hchan hx), hmem]

end first

theorem fatalStop_fatal : (fatalStop tell reason lower s).ctl.fatal = some (s.ctl.fatal.getD reason) := by
  cases h : s.ctl.fatal with
  | none => rw [fatalStop_first_ctl tell reason lower s h]; rfl
  | some r => rw [fatalStop_later tell reason lower s (by simp [h]), h]; rfl

theorem fatalStop_outside {x : Nat} (hw : Memory.wf s.mem.fast = true) (hx : offRunning s x) :
    tget 0 (fatalStop tell reason lower s).mem.fast x = tget 0 s.mem.fast x := by
  by_cases h : s.ctl.fatal = none
  · exact fatalStop_first_outside tell reason lower s h hw hx
  · rw [fatalStop_later tell reason lower s h]

/-- A stop changes the reason and the withdrawal of the control state alone. -/
theorem fatalStop_spineDead : (fatalStop tell reason lower s).ctl.spineDead = s.ctl.spineDead := by
  by_cases h : s.ctl.fatal = none
  · rw [fatalStop_first_ctl tell reason lower s h]
  · rw [fatalStop_later tell reason lower s h]

end stop

/-- A sensor's reading changes the region's record or the other sensors' readings alone. -/
theorem noteSensor_frame_self (n t : Nat) (s : State) : Frame [.rgn, .cap] s (noteSensor n t s) := noteSensor_frame n t (Frame.refl _ s) rfl

theorem execThermalTrip_hot {sensor temp : Nat} {s : State} (hs : awake s = true) (ht : 460 ≤ temp) :
    execThermalTrip sensor temp s = .next { fatalStop true 5 [] (noteSensor sensor temp s) with
      pwr := { (fatalStop true 5 [] (noteSensor sensor temp s)).pwr with
        resetDue := some (now (fatalStop true 5 [] (noteSensor sensor temp s)) + 50000, .thermal) } } :=
  congrArg Host.Outcome.next ((if_neg (by simp [hs])).trans (if_neg (by omega)))

/-- A spine station that fails: its number is kept and its record written, before the node stops. -/
def spineNoted (st : Fin 6) (parity : Bool) (s : State) : State :=
  raise (if parity then leafSpineParityFault st.val else leafSpineLinkFault st.val) []
    { s with ctl := { s.ctl with spineDead := s.ctl.spineDead ||| (1#6 <<< st.val) } }

theorem spineNoted_ctl (st : Fin 6) (parity : Bool) (s : State) :
    (spineNoted st parity s).ctl = { s.ctl with spineDead := s.ctl.spineDead ||| (1#6 <<< st.val) } :=
  (raise_frame (m := [.catchment, .log]) _ [] (Frame.refl _ _) rfl).same .ctl (by decide)

theorem execSpineStationFault_works {st : Fin 6} {s : State} (hs : awake s = true) (hd : s.ctl.spineDead.getLsbD st = false)
    (parity : Bool) : execSpineStationFault st parity s = .next (chipFatal 2
      (30 + (spineNoted st parity s).cfg.ctlPrimary + 3 * 32) (logSeq (spineNoted st parity s) ringChip) (spineNoted st parity s)) := by
  have hrun : ¬ (awake s = false ∨ s.ctl.spineDead.getLsbD st.val = true) :=
    not_or.2 ⟨by simp [hs], by rw [hd]; exact Bool.false_ne_true⟩
  exact congrArg Host.Outcome.next (if_neg hrun)

/-- Settles O28. -/
theorem fatalErrorStopsTheNode : Obligations.FatalErrorStopsTheNode := by
  unfold Obligations.FatalErrorStopsTheNode
  refine ⟨fun tell reason lower s h => ?_, fatalStop_later, fun sensor temp s hs ht => ?_,
    fun sensor temp s hs ht => congrArg Host.Outcome.next ((if_neg (by simp [hs])).trans (if_pos ht)),
    fun sensor temp s hs => congrArg Host.Outcome.next (if_pos hs), fun st parity s hs hd => ?_,
    fun st parity s h => congrArg Host.Outcome.next (if_pos h)⟩
  · have hctl := fatalStop_first_ctl tell reason lower s h
    have hset := fatalStop_first_causeSet tell reason lower s h
    have hfast := fatalStop_first_fastOnly tell reason lower s h
    have hout := fun hw x hx => fatalStop_first_outside (x := x) tell reason lower s h hw (offRunning_of_offJournals hx)
    have hbefore := fatalWithdrawn_frame_before tell reason lower s
    have hdropped := fatalWithdrawn_frame tell reason lower s
    refine ⟨by rw [hctl], by rw [hctl], ?_⟩
    rw [fatalStop_first tell reason lower s h] at hset hfast hout ⊢
    refine ⟨rfl, rfl, rfl, ?_, ?_, ?_, ?_, ?_, ?_, ?_, hset, hfast, ?_, ?_, hout, fun ch => ?_, fun c => ?_⟩
    · exact congrArg (fun p : Pwr => { p with sleep := .none, romHold := false }) (hbefore.same .pwr (by decide))
    · exact hdropped.same .req (by decide)
    · exact hdropped.same .installs (by decide)
    · exact congrArg Sluice.inst (hdropped.same .slu (by decide))
    · exact congrArg Sluice.queue (hdropped.same .slu (by decide))
    · exact congrArg Datum.prop (hdropped.same .datum (by decide))
    · exact congrArg Datum.loadIn (hdropped.same .datum (by decide))
    · exact hbefore.same .dir (by decide)
    · exact hbefore.same .sto (by decide)
    · refine Eq.trans ?_ (dropWork_atom (fatalNoted reason lower s) ch)
      exact congrArg Chan.atom (chanSt_congr (hdropped.same .chan (by decide)) ch)
    · refine Eq.trans ?_ (abortRuns_run (endAtoms (fatalNoted reason lower s).chan (fatalNoted reason lower s)) c)
      exact congrArg DmaCh.run (dmaOf_congr (hdropped.same .dma (by decide)) c)
  · have hsensor := noteSensor_frame_self sensor temp s
    have hmem : (noteSensor sensor temp s).mem = s.mem := hsensor.same .mem (by decide)
    refine ⟨_, execThermalTrip_hot hs ht, ?_, ?_, fun hw x hx => ?_⟩
    · have hstop : Frame _ s (fatalStop true 5 [] (noteSensor sensor temp s)) :=
        fatalStop_frame (m := .rgn :: .cap :: [.pwr, .cfg, .catchment, .log, .node, .ctl, .mem, .chan, .work, .installs, .req, .jx, .slu, .datum, .dma]) true 5 []
          (Frame.mono hsensor rfl) rfl
      exact congrArg (fun b : Bmk => some (b.time + 50000, DueCause.thermal)) (hstop.same .bmk (by decide))
    · exact (fatalStop_fatal true 5 [] _).trans (by rw [show (noteSensor sensor temp s).ctl = s.ctl from hsensor.same .ctl (by decide)])
    · have hoff := offRunning_congr (t := noteSensor sensor temp s) (hsensor.same .chan (by decide)) (offRunning_of_offJournals hx)
      exact (fatalStop_outside true 5 [] _ (by rwa [hmem]) hoff).trans (by rw [hmem])
  · have hctl := spineNoted_ctl st parity s
    refine ⟨_, execSpineStationFault_works hs hd parity, ?_, ?_, ?_⟩
    · exact (fatalStop_fatal true 2 _ _).trans (by rw [hctl])
    · exact (fatalStop_spineDead true 2 _ _).trans (by rw [hctl])
    · exact (fatalStop_causesStay true 2 _ _).set (raise_causeSet _ _ _)

end Sys2Proof.Proofs

/-! PROOF. What a lost die or a stopped clock stops (02 Table 2.5; 21 Table 21.8). -/

namespace Sys2Proof.Proofs

open Sys2Proof.Machine Sys2Proof.Laws

/-! ## A fatal stop leaves the ports and the clocks -/

/-- What every step of a fold keeps, the fold keeps. -/
theorem foldl_keeps {β γ : Type} {f : State → β → State} {π : State → γ} (hf : ∀ s x, π (f s x) = π s) (l : List β) (s : State) :
    π (l.foldl f s) = π s := by
  induction l generalizing s with
  | nil => rfl
  | cons x xs ih => exact (ih _).trans (hf s x)

theorem sendAllPorts_portUp (die op dst : Nat) (data : Bytes) (s : State) : (sendAllPorts die op dst data s).jx.portUp = s.jx.portUp := by
  unfold sendAllPorts
  split
  · rfl
  · split
    · exact congrArg Jx.portUp ((keyRefused_frame (m := [.catchment, .log]) op (Frame.refl _ s) rfl).same .jx (by decide))
    · refine foldl_keeps (π := fun s => s.jx.portUp) ?_ _ (takeMsgId die s).2
      intro _ _
      rfl

theorem withdrawAll_portUp (reason : Nat) (s : State) : (withdrawAll reason s).jx.portUp = s.jx.portUp := by
  unfold withdrawAll
  refine foldl_keeps (π := fun s => s.jx.portUp) (fun s n => ?_) _ _
  split
  · rfl
  · exact sendAllPorts_portUp _ _ _ _ _

theorem fatalStop_portUp (tell : Bool) (reason : Nat) (lower : Detail) (s : State) :
    (fatalStop tell reason lower s).jx.portUp = s.jx.portUp := by
  by_cases h : s.ctl.fatal = none
  · have hdrop : (dropWork (fatalNoted reason lower s)).jx.portUp = s.jx.portUp := by
      have hended := Frame.mono (m := [.catchment, .log, .ctl, .mem, .chan, .dma]) (fatalNoted_frame reason lower s) rfl
      show (endedWork (fatalNoted reason lower s)).jx.portUp = s.jx.portUp
      exact congrArg Jx.portUp ((abortRuns_frame (frame_foldl (l := (fatalNoted reason lower s).chan) hended fun _ e h =>
        endAtom_frame e.1 .abandoned true h rfl) rfl).same .jx (by decide))
    rw [fatalStop_first tell reason lower s h, ← hdrop]
    show (fatalWithdrawn tell reason lower s).jx.portUp = _
    unfold fatalWithdrawn
    split
    · exact withdrawAll_portUp _ _
    · rfl
  · rw [fatalStop_later tell reason lower s h]

theorem fatalStop_sysClk (tell : Bool) (reason : Nat) (lower : Detail) (s : State) :
    (fatalStop tell reason lower s).pwr.sysClk = s.pwr.sysClk := by
  by_cases h : s.ctl.fatal = none
  · rw [fatalStop_first tell reason lower s h]
    show (fatalWithdrawn tell reason lower s).pwr.sysClk = s.pwr.sysClk
    exact congrArg Pwr.sysClk ((fatalWithdrawn_frame_before tell reason lower s).same .pwr (by decide))
  · rw [fatalStop_later tell reason lower s h]

theorem fatalStop_netLost (tell : Bool) (reason : Nat) (lower : Detail) (s : State) :
    (fatalStop tell reason lower s).ctl.netLost = s.ctl.netLost := by
  by_cases h : s.ctl.fatal = none
  · rw [fatalStop_first_ctl tell reason lower s h]
  · rw [fatalStop_later tell reason lower s h]

/-! ## Network dies -/

theorem barrierFenced_same (p : Nat) (s : State) : Frame [.catchment, .log, .barrier] s (barrierFenced p s) :=
  barrierFenced_frame p (Frame.refl _ s) rfl

section netLoss
variable (n : Nat) (s : State)

theorem netLoss_fatal : (netLoss n s).ctl.fatal = some (s.ctl.fatal.getD 3) := by
  unfold netLoss
  simp only
  rw [fatalStop_fatal, (barrierFenced_same _ _).same .ctl (by decide)]

theorem netLoss_netLost : (netLoss n s).ctl.netLost = s.ctl.netLost ||| (1#4 <<< n) := by
  unfold netLoss
  simp only
  rw [fatalStop_netLost, (barrierFenced_same _ _).same .ctl (by decide)]

theorem netLoss_portUp : (netLoss n s).jx.portUp = s.jx.portUp &&& ~~~(3#8 <<< (2 * n)) := by
  unfold netLoss
  simp only
  rw [fatalStop_portUp, (barrierFenced_same _ _).same .jx (by decide)]

end netLoss

/-! ## Tier dies -/

@[simp] theorem tierOf_setTier_self (p : Nat) (t : Tier) (s : State) : tierOf (setTier p t s) p = t := tget_tput _ _ _ _

@[simp] theorem tierOf_setTier_of_ne {p x : Nat} (h : x ≠ p) (t : Tier) (s : State) : tierOf (setTier p t s) x = tierOf s x :=
  tget_tput_ne h

theorem tierOf_congr {s t : State} (h : t.tier = s.tier) (p : Nat) : tierOf t p = tierOf s p := by
  unfold tierOf
  rw [h]

/-- A port that is not in service is not fenced again. -/
theorem fencePort_of_out {p : Nat} {s : State} (h : (tierOf s p).inService = false) : fencePort p s = s :=
  if_neg (by simp [h])

/-- A port as its fence leaves it: out of service, its PERST_N to go high again in 100 ms. -/
def fencedTier (t : Tier) (at_ : Nat) : Tier :=
  { t with inService := false, fenced := true, rate := 0, width := 0, timeouts := [], fails := 0
           perstHighAt := none, retryAt := some (at_ + 100000000) }

/-- What the fence of a port changes beside its own record. -/
def portFenceParts : List Part := [.pwr, .cfg, .catchment, .log, .cnt, .sto, .dir, .chan, .work, .prog, .req, .jx, .slu, .datum, .dma]

theorem fencePort_tier {p : Nat} {s : State} (h : (tierOf s p).inService = true) :
    (fencePort p s).tier = (setTier p (fencedTier (tierOf s p) (now s)) s).tier := by
  unfold fencePort
  rw [if_pos h]
  refine Frame.same (m := portFenceParts) ?_ .tier (by decide)
  have hraised := raise_frame (m := portFenceParts) (leafTierFenced p) [] (drivePerst_frame p .low (Frame.refl _ (setTier p (fencedTier (tierOf s p) (now s)) s)) rfl) rfl
  refine frame_foldl (frame_foldl (frame_foldl (frame_foldl (endReqs_frame _ _ (endRuns_frame _ _ hraised rfl) rfl) ?_) ?_) ?_) ?_
  · exact fun _ _ h => migFinish_frame _ _ _ _ h rfl
  · exact fun _ _ h => migFinish_frame _ _ _ _ (dropReserved_frame _ h rfl) rfl
  · exact fun _ _ h => dropBacking_frame _ _ _ h rfl
  · exact fun _ _ h => seqLost_frame _ h rfl

/-- A port of a lost die before its record is closed: it is fenced, in service or not. -/
def tierLossFenced (p : Nat) (s : State) : State :=
  if (tierOf s p).inService then fencePort p s
  else if (tierOf s p).fenced then s
  else raise (leafTierFenced p) [] (setTier p { tierOf s p with fenced := true } s)

theorem tierLoss_eq (p : Nat) (s : State) : tierLoss p s = barrierFenced (28 + p) (drivePerst p .hiZ
    (setTier p { tierOf (tierLossFenced p s) p with dieLost := true, retryAt := none, perstHighAt := none } (tierLossFenced p s))) := rfl

theorem raise_tier (l : Leaf) (d : Detail) (s : State) : (raise l d s).tier = s.tier :=
  (raise_frame (m := [.catchment, .log]) l d (Frame.refl _ s) rfl).same .tier (by decide)

theorem tierLossFenced_fenced (p : Nat) (s : State) : (tierOf (tierLossFenced p s) p).fenced = true := by
  unfold tierLossFenced
  split
  case isTrue h => rw [tierOf_congr (fencePort_tier h), tierOf_setTier_self]; rfl
  case isFalse h =>
    split
    case isTrue hf => exact hf
    case isFalse hf => rw [tierOf_congr (raise_tier _ _ _), tierOf_setTier_self]

theorem tierLossFenced_other {p x : Nat} (hx : x ≠ p) (s : State) : tierOf (tierLossFenced p s) x = tierOf (fencePort p s) x := by
  unfold tierLossFenced
  split
  case isTrue h => rfl
  case isFalse h =>
    rw [fencePort_of_out (Bool.not_eq_true _ ▸ h)]
    split
    · rfl
    · rw [tierOf_congr (raise_tier _ _ _), tierOf_setTier_of_ne hx]

theorem tierLoss_self (p : Nat) (s : State) : tierOf (tierLoss p s) p =
    { tierOf (tierLossFenced p s) p with dieLost := true, retryAt := none, perstHighAt := none } := by
  rw [tierLoss_eq, tierOf_congr ((barrierFenced_same _ _).same .tier (by decide))]
  exact tierOf_setTier_self _ _ _

theorem tierLoss_other {p x : Nat} (hx : x ≠ p) (s : State) : tierOf (tierLoss p s) x = tierOf (fencePort p s) x := by
  rw [tierLoss_eq, tierOf_congr ((barrierFenced_same _ _).same .tier (by decide)), ← tierLossFenced_other hx s]
  exact tierOf_setTier_of_ne hx _ _

theorem tierLoss_perst (p : Nat) (s : State) : tget .hiZ (tierLoss p s).pwr.perst p = .hiZ := by
  rw [tierLoss_eq, show (barrierFenced _ _).pwr = _ from (barrierFenced_same _ _).same .pwr (by decide)]
  exact tget_tput _ _ _ _

/-! ## Clocks (O30) -/

theorem nodeServes_awake {s : State} (h : nodeServes s = true) : awake s = true := by
  unfold nodeServes at h
  rw [Bool.and_eq_true, Bool.and_eq_true] at h
  exact h.1.1

/-- A node that serves meets the effect of a stopped clock. -/
theorem execRefclkStop_serves {s : State} (h : nodeServes s = true) (clk : RefClk) : execRefclkStop clk s = .next (
    match clk with
    | .sys => if s.pwr.sysClk then fatalStop false 1 [] { s with pwr := clockOff clk s.pwr } else s
    | .net n => ethLink (2 * n.val + 1) false (ethLink (2 * n.val) false { s with pwr := clockOff clk s.pwr })
    | .tier n => fencePort n.val { s with pwr := clockOff clk s.pwr }
    | .svc => claimEnds { s with pwr := clockOff clk s.pwr, svc := { s.svc with linkUp := false } }) := by
  have hrun : ¬ (nodeServes s = false ∧ clk ≠ .svc) := by simp [h]
  exact congrArg Host.Outcome.next ((if_neg (by simp [nodeServes_awake h])).trans (if_neg hrun))

/-- Settles O30. -/
theorem lostDiesAndClocks : Obligations.LostDiesAndClocks := by
  unfold Obligations.LostDiesAndClocks
  refine ⟨fun n s hs hn => ?_, fun p s hs hp => ?_, fun n s hs => congrArg Host.Outcome.next (if_neg (by simp [hs])),
    fun d s hs => congrArg Host.Outcome.next (if_pos hs), fun s hs hserves hclk => ?_, fun n s hserves => execRefclkStop_serves hserves _,
    fun n s hserves => execRefclkStop_serves hserves _, fun s hs => ?_, fun c s hs hserves hc => ?_, fun s hserves hclk => ?_,
    fun c s hs => congrArg Host.Outcome.next (if_pos hs), fun s => rfl⟩
  · refine ⟨_, congrArg Host.Outcome.next ((if_neg (by simp [hs])).trans (if_neg ?_)), netLoss_fatal n s, netLoss_netLost n s,
      netLoss_portUp n s⟩
    rw [hn]
    exact Bool.false_ne_true
  · refine ⟨_, congrArg Host.Outcome.next ((if_neg (by simp [hs])).trans (if_neg (by simp [hp]))), ?_, ?_, ?_, tierLoss_perst p s,
      fun x hx => tierLoss_other hx s⟩
    · rw [tierLoss_self]
    · rw [tierLoss_self]
      exact tierLossFenced_fenced p s
    · rw [tierLoss_self]
  · refine ⟨_, (execRefclkStop_serves hserves .sys).trans (congrArg Host.Outcome.next (if_pos hclk)), fatalStop_sysClk _ _ _ _,
      fatalStop_fatal _ _ _ _⟩
  · have hrun : ¬ (nodeServes s = false ∧ RefClk.svc ≠ .svc) := by simp
    exact congrArg Host.Outcome.next ((if_neg (by simp [hs])).trans (if_neg hrun))
  · exact congrArg Host.Outcome.next ((if_neg (by simp [hs])).trans (if_pos ⟨hserves, hc⟩))
  · refine (execRefclkStop_serves hserves .sys).trans (congrArg Host.Outcome.next (if_neg ?_))
    simp [hclk]

end Sys2Proof.Proofs

/-! PROOF. The ends of commands leave the atoms of the channels alone (04 R104; 08 R182; 12 R277). -/

namespace Sys2Proof.Proofs

open Sys2Proof.Machine Sys2Proof.Laws

/-- From `s` to `t` no channel's atom starts or ends. -/
structure AtomsKept (s t : State) : Prop where
  atom : ∀ ch, (chanSt t ch).atom = (chanSt s ch).atom

theorem AtomsKept.refl (s : State) : AtomsKept s s := ⟨fun _ => rfl⟩

section atoms
variable {a s : State}

theorem AtomsKept.trans {t : State} (h : AtomsKept a s) (h' : AtomsKept s t) : AtomsKept a t :=
  ⟨fun ch => (h'.atom ch).trans (h.atom ch)⟩

theorem AtomsKept.chan {t : State} (hc : t.chan = s.chan) (h : AtomsKept a s) : AtomsKept a t :=
  ⟨fun ch => (congrArg Chan.atom (chanSt_congr hc ch)).trans (h.atom ch)⟩

/-- What touches no channel keeps the atoms. -/
theorem AtomsKept.frame {m : List Part} {t : State} (hf : Frame m s t) (hm : Part.chan ∉ m) (h : AtomsKept a s) : AtomsKept a t :=
  h.chan (hf.same .chan hm)

theorem atomsKept_foldl {β : Type} {f : State → β → State} (hf : ∀ s x, AtomsKept a s → AtomsKept a (f s x)) (l : List β)
    (h : AtomsKept a s) : AtomsKept a (l.foldl f s) := by
  induction l generalizing s with
  | nil => exact h
  | cons x xs ih => exact ih (hf s x h)

theorem atomsKept_setChan {ch : Nat} {c : Chan} (hc : c.atom = (chanSt s ch).atom) (h : AtomsKept a s) :
    AtomsKept a (setChan ch c s) := by
  refine ⟨fun x => ?_⟩
  by_cases hx : x = ch
  · subst hx
    rw [chanSt_setChan_self, hc, h.atom]
  · rw [chanSt_setChan_of_ne hx, h.atom]

theorem stopUnitJob_atomsKept (j : UnitJob) (h : AtomsKept a s) : AtomsKept a (stopUnitJob j s) := by
  refine ⟨fun ch => Eq.trans ?_ (h.atom ch)⟩
  unfold chanSt tget stopUnitJob
  simp only
  rw [tlook_tmap]
  cases tlook s.chan ch <;> rfl

theorem releaseSeq_atomsKept (slot : Nat) (h : AtomsKept a s) : AtomsKept a (releaseSeq slot s) := by
  unfold releaseSeq
  simp only
  split
  · exact ⟨(stopUnitJob_atomsKept (.shift slot) ⟨h.atom⟩).atom⟩
  · exact ⟨h.atom⟩

theorem sweepMoved_atomsKept (h : AtomsKept a s) : AtomsKept a (sweepMoved s) := by
  unfold sweepMoved
  refine atomsKept_foldl (fun s k h => ?_) _ ⟨h.atom⟩
  split
  · exact h
  · exact releaseSeq_atomsKept k h

theorem leaveSeq_atomsKept (slot : Nat) (h : AtomsKept a s) : AtomsKept a (leaveSeq slot s) := by
  unfold leaveSeq
  exact sweepMoved_atomsKept ⟨h.atom⟩

theorem dropInst_atomsKept (i : Nat) (h : AtomsKept a s) : AtomsKept a (dropInst i s) := by
  unfold dropInst
  split
  · exact h
  · have hread := h.frame (doneReading_frame (m := [.slu]) i (Frame.refl _ s) rfl) (by decide)
    exact ⟨(atomsKept_foldl (fun _ slot h => leaveSeq_atomsKept slot h) _ hread).atom⟩

/-- Completing a chain's record sends and counts; no channel is touched. -/
theorem endInst_atomsKept (i k status : Nat) (h : AtomsKept a s) : AtomsKept a (endInst i k status s) := by
  unfold endInst
  split
  · exact h
  · simp only
    have hdrop := dropInst_atomsKept i h
    split
    · exact hdrop.frame (deferredEnd_frame (m := [.cfg]) _ _ _ _ (Frame.refl _ _) rfl) (by decide)
    · have hacct (c : Prop) [Decidable c] (x : Inst) : Frame [.catchment, .log, .cnt, .jx, .slu] (dropInst i s)
          (if c then acct x.tenant 32 0x18 1 (dropInst i s) else dropInst i s) :=
        frame_ite (fun _ => acct_frame _ _ _ _ (Frame.refl _ _) rfl) fun _ => Frame.refl _ _
      have hposted (c : Prop) [Decidable c] {u : State} (x : Inst) (st op k arg id res : Nat) (rep single : Bool)
          (hu : Frame [.catchment, .log, .cnt, .jx, .slu] (dropInst i s) u) : Frame [.catchment, .log, .cnt, .jx, .slu] (dropInst i s)
            (if c then u else postedRec x.entry st op k false rep single arg id res x.lc u) :=
        frame_ite (fun _ => hu) fun _ => postedRec_frame _ _ _ _ _ _ _ _ _ _ _ hu rfl
      split
      · refine hdrop.frame (m := [.catchment, .log, .cnt, .jx, .slu]) ?_ (by decide)
        refine frame_foldl (hposted _ _ _ _ _ _ _ _ _ _ (hacct _ _)) fun u y hu => ?_
        exact frame_ite (fun _ => eventEnable_frame _ _ hu rfl) fun _ => hu
      · exact hdrop.frame (hposted _ _ _ _ _ _ _ _ _ _ (hacct _ _)) (by decide)

theorem advanceInst_atomsKept (i : Nat) (h : AtomsKept a s) : AtomsKept a (advanceInst i s) := by
  unfold advanceInst
  split
  · exact h
  · split
    · split
      · exact h
      · exact endInst_atomsKept _ _ _ h
    · simp only
      split
      · exact h.chan (setInst_chan _ _ s)
      · exact endInst_atomsKept _ _ _ h

theorem actDone_atomsKept (i k status : Nat) (rep single : Bool) (result : Nat) (h : AtomsKept a s) :
    AtomsKept a (actDone i k status rep single result s) := by
  unfold actDone
  split
  · exact h
  · exact advanceInst_atomsKept i (h.chan (setInst_chan _ _ s))

theorem endBusy_atomsKept (i op status : Nat) (rep single : Bool) (result : Nat) (h : AtomsKept a s) :
    AtomsKept a (endBusy i op status rep single result s) := by
  unfold endBusy
  split
  · exact h
  · exact actDone_atomsKept _ _ _ _ _ _ h

theorem rewriteEnd_atomsKept (key status : Nat) (h : AtomsKept a s) : AtomsKept a (rewriteEnd key status s) := by
  unfold rewriteEnd
  split
  case h_1 => exact h
  case h_2 r _ =>
    refine endBusy_atomsKept _ _ _ _ _ _ (leaveSeq_atomsKept _ (h.frame (m := [.work, .dir, .prog]) ?_ (by decide)))
    refine frame_ite (fun _ => endProgUse_frame _ ?_ rfl) fun _ => ?_
    all_goals exact frame_ite (fun _ => setTen_frame _ _ _ (frame_work (Frame.refl _ s) rfl) rfl) fun _ => frame_work (Frame.refl _ s) rfl

theorem jobFail_atomsKept (c : UnitCmd) (status : Nat) (h : AtomsKept a s) : AtomsKept a (jobFail c status s) := by
  unfold jobFail
  have hdrop := h.frame (dropReserved_frame (m := [.sto]) ((if c.op = 1 ∨ c.op = 6 then [] else [c.newName]) ++ (c.pair.map (·.2)).toList)
    (Frame.refl _ s) rfl) (by decide)
  simp only
  split
  case h_1 => exact ⟨hdrop.atom⟩
  case h_2 => exact rewriteEnd_atomsKept _ _ hdrop
  case h_3 => exact hdrop.frame (modCtl_frame (m := [.work]) _ _ (Frame.refl _ _) rfl) (by decide)
  case h_4 => exact hdrop.frame (modCtl_frame (m := [.work]) _ _ (Frame.refl _ _) rfl) (by decide)
  case h_5 => exact hdrop

theorem seqLost_atomsKept (slot : Nat) (h : AtomsKept a s) : AtomsKept a (seqLost slot s) := by
  unfold seqLost
  simp only
  have hraise (u : State) (l : Leaf) (d : Detail) (hu : AtomsKept a u) : AtomsKept a (raise l d u) :=
    hu.frame (raise_frame (m := [.catchment, .log]) l d (Frame.refl _ u) rfl) (by decide)
  have hload (u : State) (l : LoadIn) (hu : AtomsKept a u) : AtomsKept a (newLoad l u) :=
    hu.frame (newLoad_frame (m := [.catchment, .log, .jx, .datum]) l (Frame.refl _ u) rfl) (by decide)
  split
  · exact h
  · split
    · exact (hraise s _ _ h).chan (setSeq_chan _ _ _)
    · have hreleased (q : Seq) := releaseSeq_atomsKept slot ((hraise s (leafDirEntryLost (dirRegion slot))
        [(20, 4, slot), (32, 2, (seqOf s slot).tenant)] h).chan (setSeq_chan slot q _))
      have hloads {u : State} (hu : AtomsKept a u) {β : Type} (f : β → LoadIn) (l : List β) :
          AtomsKept a (l.foldl (fun u e => newLoad (f e) u) u) :=
        atomsKept_foldl (fun u e hu => hload u (f e) hu) l hu
      split
      · split
        · exact hloads (hloads (hreleased _) _ _) _ _
        · exact (hloads (hloads (hreleased _) _ _) _ _).frame (addProposal_frame (m := [.datum]) _ _ _ (Frame.refl _ _) rfl) (by decide)
      · exact hloads (hloads (hreleased _) _ _) _ _

theorem baseLineLost_atomsKept (x : Nat) (h : AtomsKept a s) : AtomsKept a (baseLineLost x s) := by
  unfold baseLineLost
  split
  · unfold baseLost
    exact atomsKept_foldl (fun _ k h => seqLost_atomsKept k h) _ h
  · exact h

theorem lineLost_atomsKept (x : Nat) (h : AtomsKept a s) : AtomsKept a (lineLost x s) := by
  unfold lineLost
  have hbad : AtomsKept a (lineBad x s) := h.frame (lineBad_frame (m := [.catchment, .log]) x (Frame.refl _ s) rfl) (by decide)
  simp only
  split
  · exact seqLost_atomsKept _ (baseLineLost_atomsKept x hbad)
  · exact baseLineLost_atomsKept x hbad

/-- A command that ends tells its issuer; no atom starts or ends. -/
theorem cmdEnd_failed_atomsKept (ch : Nat) (u : UnitCmd) {status : Nat} (hst : status ≠ stOk) (h : AtomsKept a s) :
    AtomsKept a (cmdEnd ch u status s) := by
  unfold cmdEnd
  simp only [if_neg hst]
  have hset := atomsKept_setChan (ch := ch) (c := { chanSt s ch with lastTag := u.tag, lastStatus := status }) rfl h
  exact (jobFail_atomsKept u status hset).frame (drainMode_frame (m := [.rgn]) _ (Frame.refl _ _) rfl) (by decide)

end atoms

end Sys2Proof.Proofs

/-! PROOF. Atoms are journalled: an entry is written before the first byte and closed or abandoned at the end (04 R99, R104, R105, R107). -/

namespace Sys2Proof.Proofs

open Sys2Proof.Machine Sys2Proof.Laws

/-! ## The start of an atom -/

/-- The touch of a coded line changes the read-back codes of one channel. -/
theorem touchCode_chan (x : Nat) (s : State) (ch : Nat) : ∃ l, chanSt (touchCode x s) ch = { chanSt s ch with codeLines := l } := by
  have hsame : ∃ l, chanSt s ch = { chanSt s ch with codeLines := l } := ⟨_, rfl⟩
  unfold touchCode
  simp only
  split
  · split
    · exact hsame
    · rename_i y _
      by_cases hc : ch = x / 2 ^ 40 * 12 + (interleave (stripedTop s (x / 2 ^ 40)) (x % 2 ^ 40)).1
      · subst hc
        exact ⟨_, chanSt_setChan_self _ _ _⟩
      · exact ⟨_, chanSt_setChan_of_ne hc _ _⟩
  · exact hsame

theorem touchCodes_chan (l : List Nat) (s : State) (ch : Nat) : ∃ c, chanSt (touchCodes l s) ch = { chanSt s ch with codeLines := c } := by
  unfold touchCodes
  induction l generalizing s with
  | nil => exact ⟨_, rfl⟩
  | cons x xs ih =>
    obtain ⟨c, hc⟩ := touchCode_chan x s ch
    obtain ⟨c', hc'⟩ := ih (touchCode x s)
    exact ⟨c', by rw [List.foldl_cons, hc', hc]⟩

theorem payDown_atom (s : State) (c : Chan) : (payDown s c).atom = c.atom := by unfold payDown; simp only; split <;> rfl

theorem payDown_run (s : State) (c : Chan) : (payDown s c).run = c.run := by unfold payDown; simp only; split <;> rfl

theorem payDown_nextEntry (s : State) (c : Chan) : (payDown s c).nextEntry = c.nextEntry := by unfold payDown; simp only; split <;> rfl

theorem chanSt_payChan (ch : Nat) (s : State) : chanSt (payChan ch s) ch = payDown s (chanSt s ch) := chanSt_setChan_self _ _ _

theorem writeFast_mem_congr {s t : State} (h : t.mem = s.mem) (x : Nat) (b : Bytes) : (writeFast x b t).mem = (writeFast x b s).mem := by
  simp only [writeFast, h]

/-- What the start of an atom leaves: its entry OPEN in the journal and in memory, the rest of the command to do. -/
structure AtomOpened (ch : Nat) (job : UnitJob) (chunks : List (Nat × Bytes)) (sl : Option Nat) (s t : State) : Prop where
  mem : t.mem = (writeFast (journalAddr ch (chanSt s ch).nextEntry) (journalBytes { st := .open_, chunks := chunks, slot := sl }) s).mem
  atom : (chanSt t ch).atom = some { entry := (chanSt s ch).nextEntry, chunks := chunks, start := now s, job := job, slot := sl }
  journal : tlook (chanSt t ch).journal (chanSt s ch).nextEntry = some { st := .open_, chunks := chunks, slot := sl }
  run : (chanSt t ch).run = (chanSt s ch).run
  nextEntry : (chanSt t ch).nextEntry = ((chanSt s ch).nextEntry + 1) % 256

theorem openAtom_opened (ch : Nat) (job : UnitJob) (chunks : List (Nat × Bytes)) (s : State) :
    AtomOpened ch job chunks (if job = .scrub then none else (chanSt s ch).run.map (·.cmd.slot)) s (openAtom ch job chunks s) := by
  obtain ⟨c, hc⟩ := touchCodes_chan (chunks.map (·.1)) s ch
  have hf := touchCodes_frame (m := [.chan]) (chunks.map (·.1)) (Frame.refl _ s) rfl
  have hmem : (touchCodes (chunks.map (·.1)) s).mem = s.mem := hf.same .mem (by decide)
  have hbmk : (touchCodes (chunks.map (·.1)) s).bmk = s.bmk := hf.same .bmk (by decide)
  unfold openAtom
  simp only [hc]
  constructor
  case mem => exact writeFast_mem_congr hmem _ _
  case atom =>
    rw [chanSt_setChan_self]
    simp only [now, setJournal, writeFast, setChan, hbmk]
  case journal =>
    rw [chanSt_setChan_self]
    simp only [chanSt_setJournal_self]
    exact tlook_tput _ _ _
  case run =>
    rw [chanSt_setChan_self]
    simp only [chanSt_setJournal_self, hc]
  case nextEntry => rw [chanSt_setChan_self]

theorem atomChunks_bounds (s : State) (c : Chan) (b : Bool) : 1 ≤ atomChunks s c b ∧ atomChunks s c b ≤ 16 := by
  unfold atomChunks
  omega

/-- The command under way opens its next atom with up to 16 of its chunks (R107). -/
theorem startAtom_opened {ch : Nat} {r : UnitRun} {s : State} (hr : (chanSt s ch).run = some r) : ∃ n, 1 ≤ n ∧ n ≤ 16 ∧
    AtomOpened ch r.cmd.job (r.todo.take n) (if r.cmd.job = .scrub then none else some r.cmd.slot)
      (setChan ch { chanSt s ch with run := some { r with todo := r.todo.drop n } } s) (startAtom ch s) := by
  obtain ⟨b, hb⟩ : ∃ b, startAtom ch s = openAtom ch r.cmd.job (r.todo.take (atomChunks s (chanSt s ch) b))
      (setChan ch { chanSt s ch with run := some { r with todo := r.todo.drop (atomChunks s (chanSt s ch) b) } } s) := by
    unfold startAtom
    simp only [hr]
    exact ⟨_, rfl⟩
  obtain ⟨hlow, hhigh⟩ := atomChunks_bounds s (chanSt s ch) b
  have h := openAtom_opened ch r.cmd.job (r.todo.take (atomChunks s (chanSt s ch) b))
    (setChan ch { chanSt s ch with run := some { r with todo := r.todo.drop (atomChunks s (chanSt s ch) b) } } s)
  rw [← hb, chanSt_setChan_self] at h
  exact ⟨_, hlow, hhigh, h⟩

/-! ## The end of an atom -/

/-- The atom `a` of a channel ends, its journal entry left as `j`, and what waited for the end takes effect. -/
def endedAtom (ch : Nat) (a : Atom) (j : Journal) (s : State) : State :=
  afterAtom ch (setJournal ch a.entry j (setChan ch { chanSt s ch with atom := none } s))

theorem setHalved_touches_causes (ch : Nat) (want : Bool) (s : State) :
    Frame [.catchment, .log] (setChan ch { chanSt s ch with half := want, halfDue := none } s) (setHalved ch want s) := by
  unfold setHalved
  simp only
  exact frame_ite (fun _ => raise_frame _ _ (Frame.refl _ _) rfl) fun _ =>
    frame_ite (fun _ => Frame.refl _ _) fun _ => dropCause_frame _ (Frame.refl _ _) rfl

/-- What follows an atom touches neither the command under way nor the journal. -/
theorem afterAtom_chan (ch : Nat) (s : State) : ∃ c : Chan, chanSt (afterAtom ch s) ch = c ∧ c.atom = none ∧
    c.run = (chanSt s ch).run ∧ c.journal = (chanSt s ch).journal ∧ c.nextEntry = (chanSt s ch).nextEntry := by
  unfold afterAtom
  simp only
  split
  · refine ⟨_, chanSt_congr ((setHalved_touches_causes ch _ _).same .chan (by decide)) ch, ?_⟩
    rw [chanSt_setChan_self, chanSt_setChan_self]
    exact ⟨rfl, rfl, rfl, rfl⟩
  · rw [chanSt_setChan_self]
    exact ⟨_, rfl, rfl, rfl, rfl, rfl⟩

section ended
variable (ch : Nat) (a : Atom) (j : Journal) (s : State)

theorem endedAtom_mem : (endedAtom ch a j s).mem = (writeFast (journalAddr ch a.entry) (journalBytes j) s).mem :=
  (afterAtom_frame (m := [.catchment, .log, .chan]) ch (Frame.refl _ _) rfl).same .mem (by decide)

theorem endedAtom_chan : ∃ c : Chan, chanSt (endedAtom ch a j s) ch = c ∧ c.atom = none ∧
    c.run = (chanSt s ch).run ∧ tlook c.journal a.entry = some j ∧ c.nextEntry = (chanSt s ch).nextEntry := by
  obtain ⟨c, hc, hatom, hrun, hjournal, hnext⟩ := afterAtom_chan ch (setJournal ch a.entry j (setChan ch { chanSt s ch with atom := none } s))
  rw [chanSt_setJournal_self, chanSt_setChan_self] at hrun hjournal hnext
  exact ⟨c, hc, hatom, hrun, by rw [hjournal]; exact tlook_tput _ _ _, hnext⟩

end ended

section ends
variable {ch : Nat} {a : Atom} {s : State} (h : (chanSt s ch).atom = some a)
include h

theorem abandonAtom_eq (wrote : Bool) : abandonAtom ch wrote s = endedAtom ch a
    { st := .abandoned, chunks := if wrote then a.chunks else a.chunks.map fun c => (c.1, []), slot := a.slot } s := by
  unfold abandonAtom endedAtom
  rw [if_neg (by simp [h]), endAtom_of_some _ _ _ _ h]

theorem closeAtom_scrub (hj : a.job = .scrub) : closeAtom ch s = endedAtom ch a { st := .closed, chunks := a.chunks, slot := a.slot } s := by
  unfold closeAtom endedAtom
  rw [h]
  simp only [if_pos hj]
  rw [endAtom_of_some _ _ _ _ h]
  rfl

theorem closeAtom_command (hj : a.job ≠ .scrub) :
    closeAtom ch s = endedAtom ch a { st := .closed, chunks := a.chunks, slot := a.slot } (writeChunks a.chunks s) := by
  have hc := (chanSt_congr ((writeChunks_frame (m := [.mem]) a.chunks (Frame.refl _ s) rfl).same .chan (by decide)) ch)
  unfold closeAtom endedAtom
  rw [h]
  simp only [if_neg hj]
  rw [endAtom_of_some _ _ _ _ (by rw [hc, h])]
  rfl

end ends

/-! ## The lines an atom's reads met -/

/-- Where the coded ranges lie is in the image; what raises a cause moves none. -/
theorem lineMet_congr {s t : State} (hc : t.cfg.img = s.cfg.img) (o : LineOutcome) : lineMet t o = lineMet s o := by
  have hrange (r : Nat) : rangesOf t r = rangesOf s r := by
    unfold rangesOf
    rw [hc]
  have h (x : Nat) : codedAt t x = codedAt s x := by simp only [codedAt, isCoded, hrange]
  unfold lineMet
  simp only [h]

theorem writeChunks_mem_congr {l : List (Nat × Bytes)} {s t : State} (h : t.mem = s.mem) : (writeChunks l t).mem = (writeChunks l s).mem := by
  unfold writeChunks
  induction l generalizing s t with
  | nil => exact h
  | cons c cs ih => exact ih (by simp only [writeFast, h])

theorem writeFast_wf {s : State} (hw : Memory.wf s.mem.fast = true) (x : Nat) (b : Bytes) :
    Memory.wf (writeFast x b s).mem.fast = true := memWf_memWrite hw _ _

theorem writeChunks_wf {l : List (Nat × Bytes)} {s : State} (hw : Memory.wf s.mem.fast = true) :
    Memory.wf (writeChunks l s).mem.fast = true := by
  unfold writeChunks
  induction l generalizing s with
  | nil => exact hw
  | cons c cs ih => exact ih (writeFast_wf hw c.1 c.2)

/-- After an atom the command writes its next entry at most (R107). -/
theorem nextAtom_outside {ch : Nat} {s : State} (lc : Bool) (hw : Memory.wf s.mem.fast = true) {x : Nat}
    (hx : x < journalAddr ch (chanSt s ch).nextEntry ∨ journalAddr ch (chanSt s ch).nextEntry + 64 ≤ x) :
    tget 0 (nextAtom ch lc s).mem.fast x = tget 0 s.mem.fast x := by
  have hfin : (finishRun ch s).mem = s.mem :=
    (finishRun_frame (m := [.cfg, .catchment, .log, .cnt, .rgn, .sto, .dir, .chan, .work, .prog, .jx, .slu, .datum]) ch (Frame.refl _ s) rfl).same
      .mem (by decide)
  have hyield (l : Leaf) (off : Nat) (d : Detail) (u : State) : (raiseCount l off d u).mem = u.mem :=
    (raiseCount_frame (m := [.catchment, .log, .cnt]) l off d (Frame.refl _ u) rfl).same .mem (by decide)
  unfold nextAtom
  simp only
  split
  · rfl
  · rename_i r hr
    split
    · rw [hfin]
    · split
      · rfl
      · split
        · obtain ⟨n, _, _, hopen⟩ := startAtom_opened hr
          rw [hopen.mem, chanSt_setChan_self]
          exact memWrite_outside hw _ _ _ (by rwa [journalBytes_length])
        · rw [hyield]
          rfl

theorem nextAtom_idle {ch : Nat} {s : State} (lc : Bool) (hr : (chanSt s ch).run = none) : nextAtom ch lc s = s := by
  unfold nextAtom
  simp only [hr]

theorem scrubEnds_after_closeAtom (ch : Nat) (read : LineOutcome) (s : State) :
    Frame [.catchment, .log, .cnt] (closeAtom ch s) (scrubEnds ch read s) := by
  unfold scrubEnds
  simp only
  split
  · exact Frame.refl _ _
  · exact lineCorrected_frame _ (Frame.refl _ _) rfl
  · exact lineBad_frame _ (Frame.refl _ _) rfl

/-- With an uncorrectable line the command ends and its page is lost; the atom's end alone writes (R93, R104). -/
theorem atomEnds_uncorrectable {ch : Nat} {read : LineOutcome} {l : BitVec 44} {s : State} (lc : Bool) (hl : lineMet s read = .uncorrectable l) :
    (atomEnds ch read lc s).mem = (abandonAtom ch false s).mem ∧ AtomsKept (abandonAtom ch false s) (atomEnds ch read lc s) := by
  unfold atomEnds
  simp only [hl]
  have hlost (u : State) : Frame [.catchment, .log, .dir, .chan, .jx, .datum] u (lineLost l.toNat u) := lineLost_frame _ (Frame.refl _ u) rfl
  split
  · rename_i r hr
    constructor
    · refine ((hlost _).same .mem (by decide)).trans ?_
      exact (cmdEnd_frame (m := [.cfg, .catchment, .log, .cnt, .rgn, .sto, .dir, .chan, .work, .prog, .jx, .slu, .datum]) ch r.cmd stInternal
        (frame_chan (Frame.refl _ _) rfl) rfl).same .mem (by decide)
    · exact lineLost_atomsKept _ (cmdEnd_failed_atomsKept ch r.cmd (by decide) (atomsKept_setChan rfl (.refl _)))
  · exact ⟨(hlost _).same .mem (by decide), lineLost_atomsKept _ (.refl _)⟩

/-- With no uncorrectable line the atom closes, a corrected line counted before, and the command goes on. -/
theorem atomEnds_closes {ch : Nat} {read : LineOutcome} {o s : State} (lc : Bool) (hl : ∀ l, lineMet s read ≠ .uncorrectable l)
    (h : Frame [.catchment, .log, .cnt] o s) : ∃ u, Frame [.catchment, .log, .cnt] o u ∧ atomEnds ch read lc s = nextAtom ch lc (closeAtom ch u) := by
  unfold atomEnds
  split
  · exact ⟨s, h, rfl⟩
  · exact ⟨_, lineCorrected_frame _ h rfl, rfl⟩
  · rename_i l hbad
    exact absurd hbad (hl l)

/-! ## ATOM_START, ATOM_END and JOURNAL_REDO -/

theorem atomMayStart_iff (c : Chan) (s : State) : atomMayStart s c = true ↔ c.atom = none ∧ c.retraining = false ∧ c.lost = false ∧
    c.debt + atomDebt s c ≤ 32 ∧ tany c.journal (fun _ j => j.st == .abandoned) = false := by
  unfold atomMayStart
  simp only [Bool.and_eq_true, Option.isNone_iff_eq_none, Bool.not_eq_true', decide_eq_true_eq]
  tauto

theorem execAtomStart_waits {ch : Fin 192} {reads : Bool} {s : State} (hs : awake s = true)
    (h : reads = true ∨ (rgnOf s (ch / 12)).gated = true ∨ atomMayStart (payChan ch s) (payDown s (chanSt s ch)) = false) :
    exec (.atomStart ch reads) s = .next (payChan ch s) := by
  refine congrArg Host.Outcome.next ((if_neg (by simp [hs])).trans (if_pos ?_))
  have hg : rgnOf (payChan ch s) (ch / 12) = rgnOf s (ch / 12) := rfl
  rw [chanSt_payChan, hg]
  obtain h | h | h := h <;> simp [h]

theorem execAtomStart_starts {ch : Fin 192} {r : UnitRun} {s : State} (hs : awake s = true) (hg : (rgnOf s (ch / 12)).gated = false)
    (hm : atomMayStart (payChan ch s) (payDown s (chanSt s ch)) = true) (hr : (chanSt s ch).run = some r) (ht : r.todo ≠ []) :
    exec (.atomStart ch false) s = .next (startAtom ch (payChan ch s)) := by
  have hrun : (chanSt (payChan ch s) ch).run = some r := by rw [chanSt_payChan, payDown_run, hr]
  have hgate : ¬ (false || (rgnOf (payChan ch s) (ch / 12)).gated || !atomMayStart (payChan ch s) (chanSt (payChan ch s) ch)) = true := by
    have hgate : rgnOf (payChan ch s) (ch / 12) = rgnOf s (ch / 12) := rfl
    simp [hgate, chanSt_payChan, hg, hm]
  refine congrArg Host.Outcome.next ((if_neg (by simp [hs])).trans ((if_neg hgate).trans ?_))
  simp only [hrun, List.isEmpty_iff, if_neg ht]

section atomEnd
variable {ch : Fin 192} {a : Atom} {s : State} (hs : awake s = true) (h : (chanSt s ch).atom = some a)
include hs h

theorem execAtomEnd_aborted (lc : Bool) : exec (.atomEnd ch .aborted lc) s = .next (abandonAtom ch true s) := by
  change execAtomEnd ch .aborted lc s = _
  simp only [execAtomEnd, h, hs]

theorem execAtomEnd_scratchError (lc : Bool) : exec (.atomEnd ch .scratchError lc) s =
    .next (raise (leafStackUncorrectable (ch / 12)) [(16, 1, ch % 12), (17, 1, ch % 12)] (abandonAtom ch true s)) := by
  change execAtomEnd ch .scratchError lc s = _
  simp only [execAtomEnd, h, hs]

/-- An atom that closes is checked with a corrected scratch error counted before. -/
theorem execAtomEnd_closed (read : LineOutcome) (fixed lc : Bool) : ∃ u, Frame [.catchment, .log] s u ∧
    exec (.atomEnd ch (.closed read fixed) lc) s = .next (if a.job = .scrub then scrubEnds ch read u else atomEnds ch read lc u) := by
  refine ⟨if fixed then raise (leafStackCorrected (ch / 12)) [(16, 1, ch % 12), (17, 1, ch % 12)] s else s,
    frame_ite (fun _ => raise_frame _ _ (Frame.refl _ s) rfl) fun _ => Frame.refl _ s, ?_⟩
  change execAtomEnd ch (.closed read fixed) lc s = _
  simp only [execAtomEnd, h, hs]

end atomEnd

section closed
variable {ch : Nat} {a : Atom} {s u : State} (hu : Frame [.catchment, .log] s u) (h : (chanSt s ch).atom = some a)
include hu h

theorem scrubEnds_closed (hj : a.job = .scrub) (read : LineOutcome) :
    (scrubEnds ch read u).mem = (writeFast (journalAddr ch a.entry) (journalBytes { st := .closed, chunks := a.chunks, slot := a.slot }) s).mem ∧
    (chanSt (scrubEnds ch read u) ch).atom = none ∧
    tlook (chanSt (scrubEnds ch read u) ch).journal a.entry = some { st := .closed, chunks := a.chunks, slot := a.slot } := by
  have hc : chanSt u ch = chanSt s ch := chanSt_congr (hu.same .chan (by decide)) ch
  have hf := scrubEnds_after_closeAtom ch read u
  rw [closeAtom_scrub (by rw [hc, h]) hj] at hf
  obtain ⟨c, hchan, hatom, -, hjournal, -⟩ := endedAtom_chan ch a { st := .closed, chunks := a.chunks, slot := a.slot } u
  have hend := (chanSt_congr (hf.same .chan (by decide)) ch).trans hchan
  refine ⟨?_, by rw [hend, hatom], by rw [hend, hjournal]⟩
  rw [hf.same .mem (by decide), endedAtom_mem, writeFast_mem_congr (hu.same .mem (by decide))]

theorem atomEnds_lost {read : LineOutcome} {l : BitVec 44} (lc : Bool) (hl : lineMet u read = .uncorrectable l) :
    (atomEnds ch read lc u).mem = (writeFast (journalAddr ch a.entry)
      (journalBytes { st := .abandoned, chunks := a.chunks.map fun c => (c.1, []), slot := a.slot }) s).mem ∧
    (chanSt (atomEnds ch read lc u) ch).atom = none := by
  have hc : chanSt u ch = chanSt s ch := chanSt_congr (hu.same .chan (by decide)) ch
  obtain ⟨hmem, hkept⟩ := atomEnds_uncorrectable (ch := ch) lc hl
  have hab := abandonAtom_eq (s := u) (by rw [hc, h]) false
  obtain ⟨c, hchan, hatom, -, -, -⟩ := endedAtom_chan ch a { st := .abandoned, chunks := a.chunks.map fun c => (c.1, []), slot := a.slot } u
  constructor
  · rw [hmem, hab, endedAtom_mem, writeFast_mem_congr (hu.same .mem (by decide))]
    rfl
  · rw [hkept.atom, hab]
    exact (congrArg Chan.atom hchan).trans hatom

/-- A command's atom that closes: its chunks and its entry are written, then the command goes on. -/
theorem atomEnds_closed (hj : a.job ≠ .scrub) {read : LineOutcome} (lc : Bool) (hl : ∀ l, lineMet u read ≠ .uncorrectable l) :
    ∃ v, atomEnds ch read lc u = nextAtom ch lc v ∧
      v.mem = (writeFast (journalAddr ch a.entry) (journalBytes { st := .closed, chunks := a.chunks, slot := a.slot }) (writeChunks a.chunks s)).mem ∧
      (chanSt v ch).atom = none ∧ (chanSt v ch).run = (chanSt s ch).run ∧ (chanSt v ch).nextEntry = (chanSt s ch).nextEntry ∧
      tlook (chanSt v ch).journal a.entry = some { st := .closed, chunks := a.chunks, slot := a.slot } := by
  obtain ⟨w, hsw, heq⟩ := atomEnds_closes (ch := ch) lc hl (Frame.mono hu rfl)
  have hc : chanSt w ch = chanSt s ch := chanSt_congr (hsw.same .chan (by decide)) ch
  have hcw : chanSt (writeChunks a.chunks w) ch = chanSt s ch :=
    (chanSt_congr ((writeChunks_frame (m := [.mem]) a.chunks (Frame.refl _ w) rfl).same .chan (by decide)) ch).trans hc
  rw [closeAtom_command (by rw [hc, h]) hj] at heq
  obtain ⟨c, hchan, hatom, hrun, hjournal, hnext⟩ :=
    endedAtom_chan ch a { st := .closed, chunks := a.chunks, slot := a.slot } (writeChunks a.chunks w)
  refine ⟨_, heq, ?_, by rw [hchan, hatom], by rw [hchan, hrun, hcw], by rw [hchan, hnext, hcw], by rw [hchan, hjournal]⟩
  rw [endedAtom_mem, writeFast_mem_congr (writeChunks_mem_congr (hsw.same .mem (by decide)))]

end closed

theorem execJournalRedo_eq {ch : Fin 192} {index : Nat} {j : Journal} {s : State} (hs : awake s = true)
    (hj : tlook (chanSt s ch).journal index = some j) (ha : j.st = .abandoned) (ok : Bool) :
    let mine := fun (h : HeldRead) => j.chunks.any fun x => x.1 == h.addr
    let v := setJournal ch index { j with st := .closed } s
    let u := setChan ch { chanSt v ch with held := (chanSt v ch).held.filter fun h => !mine h } v
    exec (.journalRedo ch index ok) s = .next (if ok then writeChunks (ownedChunks u j) u
      else redoLost ch ((ownedChunks u j).map (·.1)) ((chanSt s ch).held.filter mine) u) := by
  intro mine v u
  change execJournalRedo ch index ok s = _
  simp only [execJournalRedo, hj]
  rw [if_neg (by simp [ha, hs])]

/-- With no abandoned entry there, or the node not awake, JOURNAL_REDO does nothing. -/
theorem execJournalRedo_same {ch : Fin 192} {index : Nat} {s : State}
    (h : awake s = false ∨ ∀ j, tlook (chanSt s ch).journal index = some j → j.st ≠ .abandoned) (ok : Bool) :
    exec (.journalRedo ch index ok) s = .next s := by
  change execJournalRedo ch index ok s = _
  unfold execJournalRedo
  cases hj : tlook (chanSt s ch).journal index with
  | none => rfl
  | some j =>
    refine congrArg Host.Outcome.next (if_pos ?_)
    exact h.elim .inr fun h => .inl (h j hj)

/-- Settles O34: by the entry that the start of an atom writes and the one that its end leaves. -/
theorem atomsAreJournalled : Obligations.AtomsAreJournalled := by
  unfold Obligations.AtomsAreJournalled
  refine ⟨?_, fun ch reads s hs h => execAtomStart_waits hs h, fun ch reads s hs => congrArg Host.Outcome.next (if_pos (by simp [hs])),
    atomMayStart_iff, ?_, ?_, fun ch i ok s hs => execJournalRedo_same (.inl hs) ok, fun ch i ok s h => execJournalRedo_same (.inr h) ok⟩
  · intro ch r s hs hg hm hr ht
    have hrun : (chanSt (payChan ch s) ch).run = some r := by rw [chanSt_payChan, payDown_run, hr]
    have hnext : (chanSt (payChan ch s) ch).nextEntry = (chanSt s ch).nextEntry := by rw [chanSt_payChan, payDown_nextEntry]
    obtain ⟨n, hlow, hhigh, hopen⟩ := startAtom_opened hrun
    obtain ⟨hmem, hatom, hjournal, hrun', hnext'⟩ := hopen
    rw [chanSt_setChan_self] at hmem hatom hjournal hrun' hnext'
    simp only [hnext] at hmem hatom hjournal hnext'
    exact ⟨_, n, execAtomStart_starts hs hg hm hr ht, hlow, hhigh, hmem, hatom, hjournal, hrun', hnext'⟩
  · intro ch a lc s hs h wrote
    refine ⟨?_, ?_, fun read fixed => ?_⟩
    · obtain ⟨c, hchan, hatom, hrun, hjournal, -⟩ := endedAtom_chan ch a { st := .abandoned, chunks := a.chunks, slot := a.slot } s
      refine ⟨_, (execAtomEnd_aborted hs h lc).trans (congrArg Host.Outcome.next (abandonAtom_eq h true)), endedAtom_mem _ _ _ _, ?_, ?_, ?_⟩
      · exact (congrArg Chan.atom hchan).trans hatom
      · exact (congrArg (tlook ·.journal a.entry) hchan).trans hjournal
      · exact (congrArg Chan.run hchan).trans hrun
    · obtain ⟨c, hchan, hatom, -, hjournal, -⟩ := endedAtom_chan ch a { st := .abandoned, chunks := a.chunks, slot := a.slot } s
      have hf := raise_frame (m := [.catchment, .log]) (leafStackUncorrectable (ch / 12)) [(16, 1, ch % 12), (17, 1, ch % 12)]
        (Frame.refl _ (abandonAtom ch true s)) rfl
      have hend := chanSt_congr (hf.same .chan (by decide)) ch
      rw [abandonAtom_eq h true] at hend hf
      refine ⟨_, execAtomEnd_scratchError hs h lc, ?_, ?_, ?_, raise_causeSet _ _ _⟩
      · rw [abandonAtom_eq h true, hf.same .mem (by decide)]
        exact endedAtom_mem _ _ _ _
      · rw [abandonAtom_eq h true]
        exact (congrArg Chan.atom (hend.trans hchan)).trans hatom
      · rw [abandonAtom_eq h true]
        exact (congrArg (tlook ·.journal a.entry) (hend.trans hchan)).trans hjournal
    · obtain ⟨u, hu, hexec⟩ := execAtomEnd_closed hs h read fixed lc
      have hmet : lineMet u read = lineMet s read := lineMet_congr (by rw [hu.same .cfg (by decide)]) read
      rw [← hmet]
      by_cases hj : a.job = .scrub
      · rw [if_pos hj] at hexec
        obtain ⟨hmem, hatom, hjournal⟩ := scrubEnds_closed hu h hj read
        exact ⟨_, hexec, fun _ => hmem, fun hn => absurd hj hn, fun hn => absurd hj hn, fun _ => ⟨hatom, hjournal⟩⟩
      · rw [if_neg hj] at hexec
        refine ⟨_, hexec, fun hn => absurd hn hj, fun _ ⟨l, hl⟩ => atomEnds_lost hu h lc hl, fun _ hl hw x hx => ?_, ?_⟩
        · obtain ⟨v, heq, hmem, -, -, hnext, -⟩ := atomEnds_closed hu h hj lc hl
          rw [heq, nextAtom_outside lc (by rw [hmem]; exact writeFast_wf (writeChunks_wf hw) _ _) (by rwa [hnext]), hmem]
        · rintro (hn | ⟨hrun, hl⟩)
          · exact absurd hn hj
          · obtain ⟨v, heq, -, hatom, hrunv, -, hjournal⟩ := atomEnds_closed hu h hj lc hl
            rw [heq, nextAtom_idle lc (hrunv.trans hrun)]
            exact ⟨hatom, hjournal⟩
  · intro ch index j s hs hj ha mine v u
    refine ⟨execJournalRedo_eq hs hj ha true, execJournalRedo_eq hs hj ha false, ?_, ?_⟩
    · rw [chanSt_setChan_self, chanSt_setJournal_self]
      exact tlook_tput _ _ _
    · rw [chanSt_setChan_self, chanSt_setJournal_self]

end Sys2Proof.Proofs

/-! PROOF. A run whose redo has failed keeps its held read when DMA_RUN_ERROR names a line (13 R304; 04 R105). -/

namespace Sys2Proof.Proofs

open Sys2Proof.Machine Sys2Proof.Laws

/-- A run of an empty descriptor: it reads nothing. -/
def emptyRun : DmaRun := { desc := [], funnel := false, pace := 0, start := 0 }

/-- Channel 0 runs, and the redo of an entry that held one of its reads has failed. -/
def redoFailedRun : State := { State.reset with
  dma := [(0, { run := some emptyRun })]
  chan := [(0, { held := [{ who := .dma 0, addr := 0, failed := true }] })] }

theorem redoFailedRun_run : (dmaOf redoFailedRun (0 : Fin 320)).run = some emptyRun := rfl

theorem redoFailedRun_read : runRead 0 emptyRun (dmaOf redoFailedRun 0).bytes (runLen emptyRun - (dmaOf redoFailedRun 0).bytes) (.uncorrectable 0)
    redoFailedRun = (.failed, dropHeld (.dma 0) redoFailedRun) := rfl

/-- The command answers the state before the read, which still holds the failed read. -/
theorem redoFailedRun_error : exec (.dmaRunError 0 (.lineUncorrectable 0) 0) redoFailedRun = .next redoFailedRun := rfl

theorem redoFailedRun_held : (chanSt redoFailedRun 0).held ≠ (chanSt (dropHeld (.dma 0) redoFailedRun) 0).held := by decide

/-- Refutes O53: a run's read that ends as failed drops its held read, but DMA_RUN_ERROR of a line then answers the state before that read. -/
theorem not_dmaRunsAndComparatorsFire : ¬ Obligations.DmaRunsAndComparatorsFire := by
  unfold Obligations.DmaRunsAndComparatorsFire
  intro h
  obtain ⟨-, -, -, -, -, hrun, -⟩ := h
  obtain ⟨-, -, -, -, -, -, hline, -⟩ := hrun 0 emptyRun redoFailedRun redoFailedRun_run
  obtain ⟨-, hkeeps⟩ := hline 0 0 .failed _ redoFailedRun_read
  have heq := hkeeps (fun _ h => ReadEnd.noConfusion h)
  rw [redoFailedRun_error] at heq
  injection heq with heq
  exact redoFailedRun_held (congrArg (fun s => (chanSt s 0).held) heq)

end Sys2Proof.Proofs

/-! PROOF. Moves of tensors between the tiers: MIGRATE, its end and TIER_HINT (05 R112, R118, R122). -/

namespace Sys2Proof.Proofs

open Sys2Proof.Machine Sys2Proof.Laws

/-! ## Directory entries and tensors -/

theorem seqOf_setSeq_self {q : Seq} (h : q ≠ {}) (slot : Nat) (s : State) : seqOf (setSeq slot q s) slot = q := tget_tset_self h _ _

theorem seqOf_congr {s t : State} (h : t.dir = s.dir) (slot : Nat) : seqOf t slot = seqOf s slot := by
  unfold seqOf
  rw [h]

/-- An entry in use is none of the table's empty ones; its tensor reads as it was written. -/
theorem seqOf_setTen_self {slot ti : Nat} {t : Ten} {s : State} (h : (seqOf s slot).inFlight ≠ 0) :
    seqOf (setTen slot ti t s) slot = { seqOf s slot with ten := tset {} (seqOf s slot).ten ti t } :=
  seqOf_setSeq_self (q := { seqOf s slot with ten := tset {} (seqOf s slot).ten ti t }) (fun heq => h (congrArg Seq.inFlight heq)) slot s

theorem seqOf_enterSeq (slot : Nat) (s : State) :
    seqOf (enterSeq slot s) slot = { seqOf s slot with inFlight := (seqOf s slot).inFlight + 1 } :=
  seqOf_setSeq_self (fun heq => Nat.succ_ne_zero _ (congrArg Seq.inFlight heq)) slot s

/-- A migration that starts (R118): the tensor is MIGRATING, its sequence counts one more in flight, and no byte moves. -/
theorem startMig_started (slot ti : Nat) (deep : Bool) (inst : Option Nat) (got : List (Nat × Nat)) (s : State) :
    let t := startMig slot ti deep inst got s
    (tenOf (seqOf t slot) ti).st = .migrating ∧ (tenOf (seqOf t slot) ti).toDeep = deep ∧ (seqOf t slot).inFlight = (seqOf s slot).inFlight + 1 ∧
    tlook t.work.migs (tenKey slot ti) = some { inst := inst, reserved := got } ∧ t.mem = s.mem := by
  intro t
  have hmem : t.mem = s.mem := (startMig_frame (m := [.dir, .work]) slot ti deep inst got (Frame.refl _ s) rfl).same .mem (by decide)
  have hin : (seqOf (enterSeq slot s) slot).inFlight = (seqOf s slot).inFlight + 1 := by rw [seqOf_enterSeq]
  have hseq : seqOf t slot = { seqOf (enterSeq slot s) slot with
      ten := tset {} (seqOf (enterSeq slot s) slot).ten ti { tenOf (seqOf (enterSeq slot s) slot) ti with st := .migrating, toDeep := deep } } :=
    (seqOf_congr rfl slot).trans (seqOf_setTen_self (by omega))
  have hten : tenOf (seqOf t slot) ti = { tenOf (seqOf (enterSeq slot s) slot) ti with st := .migrating, toDeep := deep } := by
    rw [hseq]
    refine tget_tset_self (v := { tenOf (seqOf (enterSeq slot s) slot) ti with st := .migrating, toDeep := deep }) (fun heq => ?_) _ _
    exact absurd (show TenSt.migrating = .absent from congrArg Ten.st heq) (by decide)
  refine ⟨by rw [hten], by rw [hten], by rw [hseq, hin], tlook_tput _ _ _, hmem⟩

/-! ## MIGRATE and TIER_HINT -/

/-- How a MIGRATE that was looked at completes: with a status, or busy until the migration ends. -/
def migrateAnswer (inst k : Nat) (o : Option Nat × State) : State :=
  match o with
  | (some st, s) => actEnd inst k st s
  | (none, s) => actBusy inst k s

section migrate
variable {inst k : Nat} {x : Inst} {p : Bytes} {s : State}

theorem execMigrate_started (h : startedAct s inst 0xB = some (x, k, p)) : exec (.migrate inst) s = .next (migrateAnswer inst k
    (migrateDo x.tenant (rd p 0 8) (rd p 8 1) (bits (rd p 9 1) 1 0) (bitAt (rd p 9 1) 2) inst s)) := by
  change execMigrate inst s = _
  unfold execMigrate
  rw [h]
  rfl

theorem execMigrate_idle (h : startedAct s inst 0xB = none) : exec (.migrate inst) s = .next s := by
  change execMigrate inst s = _
  unfold execMigrate
  rw [h]

theorem execTierHint_idle (h : startedAct s inst 0xC = none) : exec (.tierHint inst) s = .next s := by
  change execTierHint inst s = _
  unfold execTierHint
  rw [h]

end migrate

section migrateDo
variable {tenant tag l k slot inst : Nat} {deep : Bool} {s v : State}

theorem migrateDo_missing (h : lookSeq tenant tag s = (none, v)) : migrateDo tenant tag l k deep inst s = (some stNoPage, v) := by
  unfold migrateDo
  rw [h]

variable (h : lookSeq tenant tag s = (some slot, v))
include h

theorem migrateDo_inactive (hst : (seqOf v slot).st ≠ .active) :
    migrateDo tenant tag l k deep inst s = (some stStateConflict, refuseSeq slot tenant 0xB v (instWho v inst)) := by
  unfold migrateDo
  rw [h]
  exact if_pos hst

variable (hst : (seqOf v slot).st = .active)
include hst

theorem migrateDo_absent (ht : (tenOf (seqOf v slot) (4 * l + k)).st = .absent) :
    migrateDo tenant tag l k deep inst s = (some stNoPage, v) := by
  unfold migrateDo
  simp only [h, hst, ht, ne_eq, not_true_eq_false, if_false]

theorem migrateDo_moving (ht : (tenOf (seqOf v slot) (4 * l + k)).st = .migrating ∨ (tenOf (seqOf v slot) (4 * l + k)).st = .rewriting) :
    migrateDo tenant tag l k deep inst s = (some stStateConflict, refuseTen slot tenant (4 * l + k) 0xB v (instWho v inst)) := by
  unfold migrateDo
  obtain ht | ht := ht <;> simp only [h, hst, ht, ne_eq, not_true_eq_false, if_false]

theorem migrateDo_there (ht : (tenOf (seqOf v slot) (4 * l + k)).st = if deep then .deep else .fast) :
    migrateDo tenant tag l k deep inst s = (some stOk, v) := by
  unfold migrateDo
  cases deep with
  | true => simp only [h, hst, ht, ne_eq, not_true_eq_false, if_false, if_true]
  | false => simp only [h, hst, ht, ne_eq, not_true_eq_false, if_false, Bool.false_eq_true]

theorem migrateDo_down (ht : (tenOf (seqOf v slot) (4 * l + k)).st = .fast) :
    (backTensor slot (4 * l + k) v = none → migrateDo tenant tag l k true inst s = (some stRetry, frameExhausted (dirRegion slot) v)) ∧
    (∀ u, backTensor slot (4 * l + k) v = some u →
      migrateDo tenant tag l k true inst s = (none, startMig slot (4 * l + k) true (some inst) [] u)) := by
  unfold migrateDo
  simp only [h, hst, ht, ne_eq, not_true_eq_false, if_false, if_true]
  exact ⟨fun hb => by rw [hb], fun u hb => by rw [hb]⟩

theorem migrateDo_up (ht : (tenOf (seqOf v slot) (4 * l + k)).st = .deep) :
    (reservePromotion slot (4 * l + k) (backedPages v slot (4 * l + k)) [] v = none → migrateDo tenant tag l k false inst s =
      (some stRetry, raise (leafPromoteBlocked (dirRegion slot)) [(20, 4, slot), (32, 2, tenant), (34, 1, l)] v)) ∧
    (∀ got u, reservePromotion slot (4 * l + k) (backedPages v slot (4 * l + k)) [] v = some (got, u) →
      migrateDo tenant tag l k false inst s = (none, startMig slot (4 * l + k) false (some inst) got u)) := by
  unfold migrateDo
  simp only [h, hst, ht, ne_eq, not_true_eq_false, if_false, Bool.false_eq_true]
  exact ⟨fun hb => by rw [hb], fun got u hb => by rw [hb]⟩

end migrateDo

theorem execTierHint_active {inst k slot : Nat} {x : Inst} {p : Bytes} {s u : State} (h : startedAct s inst 0xC = some (x, k, p))
    (hl : lookSeq x.tenant (rd p 0 8) s = (some slot, u)) (hst : (seqOf u slot).st = .active)
    (ht : (tenOf (seqOf u slot) (4 * rd p 8 1 + bits (rd p 9 1) 1 0)).st ≠ .absent) :
    exec (.tierHint inst) s = .next (actEnd inst k stOk (relayTensor slot (4 * rd p 8 1 + bits (rd p 9 1) 1 0)
      (setTen slot (4 * rd p 8 1 + bits (rd p 9 1) 1 0)
        { tenOf (seqOf u slot) (4 * rd p 8 1 + bits (rd p 9 1) 1 0) with hint := bits (rd p 9 1) 5 4 } u))) := by
  change execTierHint inst s = _
  unfold execTierHint tierHintDo
  rw [h]
  simp only [hl]
  rw [if_neg (fun hn => hn hst)]

/-! ## MIGRATION_END -/

/-- A read that finds its chunks ready, and no line beyond correction, is clean and moves nothing but the channels' codes and counts (R93). -/
theorem readChunks_clean {who : Reader} {chunks : List Nat} {o : LineOutcome} {s : State} (hfail : redoFailed s who = false)
    (hheld : (chansOf s chunks).any (chanHeld s) = false) (hab : abandonedIn s chunks = none) (hmet : ∀ a, lineMet s o ≠ .uncorrectable a) :
    ∃ u, readChunks who chunks o s = (.clean, u) ∧ u.mem = s.mem ∧ u.dir = s.dir ∧ u.sto = s.sto ∧ u.work = s.work := by
  have hf : Frame [.catchment, .log, .cnt, .chan] s (readChunks who chunks o s).2 := (readChunks_frame who chunks o (Frame.refl _ s) rfl).snd
  have hclean : (readChunks who chunks o s).1 = .clean := by
    have hcode : lineMet (touchCodes chunks s) o = lineMet s o :=
      lineMet_congr (by rw [(touchCodes_frame (m := [.chan]) chunks (Frame.refl _ s) rfl).same .cfg (by decide)]) o
    unfold readChunks
    rw [if_neg (by simp [hfail]), if_neg (by simp [hheld])]
    simp only [hab, hcode]
    split
    · rfl
    · rfl
    · rename_i a ha
      exact absurd ha (hmet a)
  exact ⟨_, Prod.ext hclean rfl, hf.same .mem (by decide), hf.same .dir (by decide), hf.same .sto (by decide), hf.same .work (by decide)⟩

theorem migFail_gone {slot ti : Nat} {m : Mig} {lost : Bool} {s : State} (h : tlook s.work.migs (tenKey slot ti) = none) :
    migFail slot ti m lost s = s := if_pos (by simp [h])

section migFail
variable {slot ti : Nat} (m : Mig) (lost : Bool) {s : State} (h : tlook s.work.migs (tenKey slot ti) ≠ none)
include h

theorem migFail_demotion (hd : (tenOf (seqOf s slot) ti).toDeep = true) :
    migFail slot ti m lost s = if lost then seqLost slot (migFinish slot ti .fast stInternal s) else migFinish slot ti .fast stInternal s :=
  (if_neg (by simp [h])).trans (if_pos hd)

theorem migFail_promotion (hd : (tenOf (seqOf s slot) ti).toDeep = false) :
    migFail slot ti m lost s = seqLost slot (migFinish slot ti .deep stInternal (dropReserved (m.reserved.map (·.2)) s)) :=
  (if_neg (by simp [h])).trans (if_neg (by simp [hd]))

end migFail

/-- How a migration goes on once the read of its chunks has answered. -/
def migrationAfter (slot ti : Nat) (m : Mig) (o : ReadEnd × State) : State :=
  match o with
  | (.waits, s) => s
  | (.failed, s) => migFail slot ti m true s
  | (.bad a, s) => migFail slot ti m true (baseLineLost a (lineBad a s))
  | (.clean, s) => migDone slot ti m s

section migrationEnd
variable {ten : TensorId} {o : MigOutcome} {m : Mig} {s : State}

theorem execMigrationEnd_idle (h : tlook s.work.migs (tenKey ten.slot (tenIdx ten)) = none) : exec (.migrationEnd ten o) s = .next s := by
  change execMigrationEnd ten o s = _
  unfold execMigrationEnd
  simp only [h]

variable (h : tlook s.work.migs (tenKey ten.slot (tenIdx ten)) = some m)
include h

/-- Poison and a time-out end a migration at once (R126). -/
theorem execMigrationEnd_port (p : Fin 4) :
    exec (.migrationEnd ten (.poison p)) s = .next (migFail ten.slot (tenIdx ten) m false (migError (.poison p) s)) ∧
    exec (.migrationEnd ten (.timeout p)) s = .next (migFail ten.slot (tenIdx ten) m false (migError (.timeout p) s)) := by
  constructor
  · change execMigrationEnd ten (.poison p) s = _
    simp only [execMigrationEnd, h]
  · change execMigrationEnd ten (.timeout p) s = _
    simp only [execMigrationEnd, h]

/-- Any other end first reads the chunks, once the channels are its own (02 R37). -/
theorem execMigrationEnd_reads (ho : ∀ p, o ≠ .poison p ∧ o ≠ .timeout p) :
    let chunks := migChunks s ten.slot (tenIdx ten) m
    exec (.migrationEnd ten o) s = .next (
      if rankWaits s (chansOf s chunks) || (chansOf s chunks).any (chanHeld s) then s
      else migrationAfter ten.slot (tenIdx ten) m (readChunks (.mig (tenKey ten.slot (tenIdx ten)))
        (if (tenOf (seqOf s ten.slot) (tenIdx ten)).toDeep then chunks else []) (migLines o) s)) := by
  intro chunks
  change execMigrationEnd ten o s = _
  unfold execMigrationEnd
  simp only [h]
  split
  · rename_i p
    exact absurd rfl (ho p).1
  · rename_i p
    exact absurd rfl (ho p).2
  · rfl

end migrationEnd

section migDone
variable {slot ti : Nat} (m : Mig) {u : State}

theorem migDone_up (hd : (tenOf (seqOf u slot) ti).toDeep = false) :
    migDone slot ti m u = migFinish slot ti .fast stOk (m.reserved.foldl (fun s r => copyUp slot ti r s) u) := if_neg (by simp [hd])

variable (hd : (tenOf (seqOf u slot) ti).toDeep = true)
include hd

theorem migDone_beyond (hb : ((copiedPages u slot ti).any fun p => leafBeyond u p.2) = true) :
    migDone slot ti m u = migFinish slot ti .fast stInternal (tenMalformed slot ti u) := (if_pos hd).trans (if_pos hb)

variable (hb : ((copiedPages u slot ti).any fun p => leafBeyond u p.2) = false)
include hb

theorem migDone_copied {v : State} (hc : copyAllDown slot ti (livePages u slot ti) u = (true, v)) :
    migDone slot ti m u = migFinish slot ti .deep stOk ((backedPages v slot ti).foldl (fun s p => giveUpFast slot ti p.1 p.2 s) v) := by
  refine (if_pos hd).trans ((if_neg (by simp [hb])).trans ?_)
  rw [hc]

theorem migDone_full {v : State} (hc : copyAllDown slot ti (livePages u slot ti) u = (false, v)) :
    migDone slot ti m u = migFinish slot ti .fast stRetry
      (raise (leafDeepFull (dirRegion slot)) [(20, 4, slot), (32, 2, (seqOf v slot).tenant), (34, 1, ti / 4)] v) := by
  refine (if_pos hd).trans ((if_neg (by simp [hb])).trans ?_)
  rw [hc]

end migDone

/-- Settles O37: by the tensor's state at MIGRATE, and by how the read of its chunks ends at MIGRATION_END. -/
theorem tensorsMoveBetweenTiers : Obligations.TensorsMoveBetweenTiers := by
  unfold Obligations.TensorsMoveBetweenTiers
  refine ⟨?_, startMig_started, ?_, fun who chunks o s hf hh ha hm => readChunks_clean hf hh ha hm,
    fun slot ti m lost s => ⟨migFail_gone, migFail_demotion m lost, migFail_promotion m lost⟩, fun p s => ⟨rfl, rfl⟩,
    fun ten o s h => execMigrationEnd_idle h, fun inst k slot x p s u h hl hst ht => execTierHint_active h hl hst ht,
    fun inst s => ⟨execMigrate_idle, execTierHint_idle⟩⟩
  · intro inst k x p s hact l ti deep
    have hexec := execMigrate_started hact
    have hanswer {o : Option Nat × State} (ho : migrateDo x.tenant (rd p 0 8) l (bits (rd p 9 1) 1 0) deep inst s = o) :
        exec (.migrate inst) s = .next (migrateAnswer inst k o) := ho ▸ hexec
    have hway {b : Bool} (hd : deep = b) : migrateDo x.tenant (rd p 0 8) l (bits (rd p 9 1) 1 0) deep inst s =
        migrateDo x.tenant (rd p 0 8) l (bits (rd p 9 1) 1 0) b inst s := congrArg (migrateDo x.tenant (rd p 0 8) l (bits (rd p 9 1) 1 0) · inst s) hd
    refine ⟨fun v hl => hanswer (migrateDo_missing hl), fun slot v hl => ⟨fun hst => hanswer (migrateDo_inactive hl hst), fun hst => ?_⟩⟩
    refine ⟨fun ht => hanswer (migrateDo_absent hl hst ht), fun ht => hanswer (migrateDo_moving hl hst ht),
      fun ht => hanswer (migrateDo_there hl hst ht), fun ht hd => ?_, fun ht hd => ?_⟩
    · obtain ⟨hfull, hstarts⟩ := migrateDo_down (inst := inst) hl hst ht
      exact ⟨fun hb => hanswer ((hway hd).trans (hfull hb)), fun u hb => hanswer ((hway hd).trans (hstarts u hb))⟩
    · obtain ⟨hblocked, hstarts⟩ := migrateDo_up (inst := inst) hl hst ht
      exact ⟨fun hb => hanswer ((hway hd).trans (hblocked hb)), fun got u hb => hanswer ((hway hd).trans (hstarts got u hb))⟩
  · intro ten o m s slot ti chunks down h
    refine ⟨execMigrationEnd_port h, fun ho => ?_⟩
    have hexec := execMigrationEnd_reads h ho
    refine ⟨fun hw => hexec.trans (congrArg Host.Outcome.next (if_pos ?_)), fun hr hh got u hread => ?_⟩
    · obtain hw | hw := hw <;> simp only [hw, Bool.true_or, Bool.or_true, slot, ti, chunks]
    · have hf : Frame [.catchment, .log, .cnt, .chan] s (got, u).2 := hread ▸ (readChunks_frame _ _ _ (Frame.refl _ s) rfl).snd
      have hdown : (tenOf (seqOf u slot) ti).toDeep = down := by rw [seqOf_congr (hf.same .dir (by decide))]
      have hends : exec (.migrationEnd ten o) s = .next (migrationAfter slot ti m (got, u)) := by
        rw [← hread]
        refine hexec.trans (congrArg Host.Outcome.next (if_neg ?_))
        simp only [slot, ti, chunks] at hr hh
        simp [hr, hh]
      refine ⟨fun hg => by rw [hends, hg]; rfl, fun hg => by rw [hends, hg]; rfl, fun a hg => by rw [hends, hg]; rfl, fun hg hd => ?_,
        fun hg hd hb => ?_, fun hg hd hb => ?_⟩
      · rw [hends, hg]
        exact congrArg Host.Outcome.next (migDone_up m (hdown.trans hd))
      · rw [hends, hg]
        exact congrArg Host.Outcome.next (migDone_beyond m (hdown.trans hd) hb)
      · rw [hends, hg]
        exact ⟨fun v hc => congrArg Host.Outcome.next (migDone_copied m (hdown.trans hd) hb hc),
          fun v hc => ⟨_, congrArg Host.Outcome.next (migDone_full m (hdown.trans hd) hb hc), raise_causeSet _ _ _⟩⟩

end Sys2Proof.Proofs

/-! PROOF. Queries to their confirmation: the checks of QUERY, the tuple of CONFIRM and the arrival of a confirmation (08 R181, R182, R184). -/

namespace Sys2Proof.Proofs

open Sys2Proof.Machine Sys2Proof.Laws

/-! ## The checks of QUERY (08 Table 8.3) -/

section queryFields
variable (p b : Bytes) (m : EnMsg) (found : Option Nat) (v : State)

/-- The query heads that a query's message is laid out by: its sequence's, or its program's where no sequence is found. -/
def queryHeads : Nat :=
  match found with
  | some slot => dQHeads (seqOf v slot).desc
  | none => pQHeads (progOf v (qProg p)).image

def queryLayer : Option Nat :=
  layerOf p m (match found with | some slot => dLayers (seqOf v slot).desc | none => 256)

def queryTokens : Option Nat := nqOf p b (queryHeads p found v) (pQueryDim (progOf v (qProg p)).image * 16)

/-- The bytes of the result records of `n` query tokens. -/
def queryResultBytes (n : Nat) : Nat :=
  n * queryHeads p found v * recordSize (emitOf (progOf v (qProg p)).image).1 (pOutDim (progOf v (qProg p)).image * 16)

/-- The state in which check 1 refuses: a row width that fits no sequence's program is reported. -/
def queryMisfit (tenant : Nat) (u : State) : State :=
  match found with
  | some slot => if rowWidthBad p b (progOf v (qProg p)).image (queryTokens p b found v) then
      shapeMismatch slot ((queryLayer p m found v).getD 0xFF) tenant u else u
  | none => u

/-- Check 3 (R181). -/
def queryEpoch (x : Inst) (u : State) : Option Nat × State :=
  epochCheck x.tenant (qTag p) (qLo p) (if qHi p = 0x1FFFFFF then 2 ^ 25 else qHi p)
    (match found with | some slot => dMaxTokens (seqOf v slot).desc | none => placedEnd u x.tenant (qTag p)) (routedOf x m) u

end queryFields

/-- A query of a found sequence after check 3: checks 4 to 8, and the request it makes. -/
def queryFound (x : Inst) (inst k : Nat) (p b : Bytes) (m : EnMsg) (qh : Nat) (img : Bytes) (slot l n : Nat) (s : State) : State :=
  let q := seqOf s slot
  if q.st ≠ .active then actEnd inst k stStateConflict (refuseSeq slot x.tenant 1 s (whoOf x.msg))
  else if !tensorsOk q img l then actEnd inst k stNoPage s
  else
    match programGate x.tenant slot l (qProg p) (qGen p) s (whoOf x.msg) with
    | (some st, s) => actEnd inst k st s
    | (none, s) =>
      let rows := rowsOf p (if qPrefix p then b.drop 64 else b) n qh (pQueryDim img * 16)
      if rows.any rowBad then actEnd inst k stMalformed s
      else
        match treeGate x.tenant slot img (parentsOf p b) (tailOf p b) n s (whoOf x.msg) with
        | (some st, s) => actEnd inst k st s
        | (none, s) =>
          let r := newReq x inst slot l n q.app.rotOffset p b m rows (entryOf s x.entry).last
          let s := startProgUse (qProg p) (actBusy inst k s)
          setReq s.nextReq (startRunAhead s r) { s with nextReq := s.nextReq + 1 }

/-- A query that check 1 lets pass: checks 2 and 3, and the sequence that was looked up. -/
def queryFormed (x : Inst) (inst k : Nat) (p b : Bytes) (m : EnMsg) (found : Option Nat) (v : State) (l n : Nat) : State :=
  let u := doneReading inst v
  if keySlotUp u x.tenant = false then actEnd inst k stTenantRevoked u
  else
    match queryEpoch p m found v x u with
    | (some st, w) => actEnd inst k st w
    | (none, w) =>
      match found with
      | none => actEnd inst k stNoPage w
      | some slot => queryFound x inst k p b m (queryHeads p found v) (progOf v (qProg p)).image slot l n w

section queryDo
variable {x : Inst} {inst k : Nat} {p : Bytes} {m : EnMsg} {s v : State} {found : Option Nat} (hl : lookSeq x.tenant (qTag p) s = (found, v))
include hl

theorem queryDo_malformed (h : queryLayer p m found v = none ∨ ((progOf v (qProg p)).image ≠ [] ∧
      (queryTokens p (enabledBytes s m) found v = none ∨
        ∃ n, queryTokens p (enabledBytes s m) found v = some n ∧ qResStride p < queryResultBytes p found v n))) :
    queryDo x inst k p m s = actEnd inst k stMalformed (queryMisfit p (enabledBytes s m) m found v x.tenant (doneReading inst v)) := by
  unfold queryDo
  simp only [hl]
  unfold queryLayer queryTokens queryResultBytes queryHeads at h
  cases found with
  | none =>
    refine if_pos ?_
    obtain h | ⟨hi, h | ⟨n, h, hn⟩⟩ := h
    · simp [h]
    · simp [h, hi]
    · simp [h, hi, hn]
  | some slot =>
    refine if_pos ?_
    obtain h | ⟨hi, h | ⟨n, h, hn⟩⟩ := h
    · simp [h]
    · simp [h, hi]
    · simp [h, hi, hn]

variable {l n : Nat} (hlayer : queryLayer p m found v = some l) (hn : queryTokens p (enabledBytes s m) found v = some n)
  (hroom : queryResultBytes p found v n ≤ qResStride p)
include hlayer hn hroom

theorem queryDo_formed : queryDo x inst k p m s = queryFormed x inst k p (enabledBytes s m) m found v l n := by
  unfold queryDo queryFormed
  simp only [hl]
  unfold queryLayer at hlayer
  unfold queryTokens queryHeads at hn
  unfold queryResultBytes queryHeads at hroom
  have hpass := Nat.not_lt.2 hroom
  cases found with
  | none =>
    refine (if_neg (by simp [hlayer, hn, hpass])).trans ?_
    cases hk : keySlotUp (doneReading inst v) x.tenant <;> rfl
  | some slot =>
    refine (if_neg (by simp [hlayer, hn, hpass])).trans ?_
    simp only [hlayer, hn]
    cases hk : keySlotUp (doneReading inst v) x.tenant <;> rfl

end queryDo

section queryFormed
variable {x : Inst} {inst k l n : Nat} {p b : Bytes} {m : EnMsg} {found : Option Nat} {v : State}

theorem queryFormed_revoked (hk : keySlotUp (doneReading inst v) x.tenant = false) :
    queryFormed x inst k p b m found v l n = actEnd inst k stTenantRevoked (doneReading inst v) := if_pos hk

variable (hk : keySlotUp (doneReading inst v) x.tenant = true)
include hk

theorem queryFormed_epoch {st : Nat} {w : State} (he : queryEpoch p m found v x (doneReading inst v) = (some st, w)) :
    queryFormed x inst k p b m found v l n = actEnd inst k st w := by
  refine (if_neg (by simp [hk])).trans ?_
  simp only [he]

theorem queryFormed_absent {w : State} (he : queryEpoch p m found v x (doneReading inst v) = (none, w)) (hf : found = none) :
    queryFormed x inst k p b m found v l n = actEnd inst k stNoPage w := by
  refine (if_neg (by simp [hk])).trans ?_
  simp only [he]
  rw [hf]

theorem queryFormed_found {w : State} (he : queryEpoch p m found v x (doneReading inst v) = (none, w)) {slot : Nat} (hf : found = some slot) :
    queryFormed x inst k p b m found v l n =
      queryFound x inst k p b m (queryHeads p found v) (progOf v (qProg p)).image slot l n w := by
  refine (if_neg (by simp [hk])).trans ?_
  simp only [he]
  subst hf
  rfl

end queryFormed

/-- Run-ahead lays a new request's lanes and changes nothing else of it (R184). -/
theorem startRunAhead_newReq (s : State) (x : Inst) (inst slot l n rot : Nat) (p b : Bytes) (m : EnMsg) (rows : List QRow) (last : Option Tuple) :
    let r := startRunAhead s (newReq x inst slot l n rot p b m rows last)
    r.slot = slot ∧ r.tenant = x.tenant ∧ r.tag = qTag p ∧ r.layer = l ∧ r.nq = n ∧ r.program = qProg p ∧ r.st = .checked ∧
      r.tuple = none ∧ r.freed = false ∧ r.hi = if qHi p = 0x1FFFFFF then 2 ^ 25 else qHi p := by
  intro r
  obtain ⟨rgns, hahead⟩ : ∃ rgns, r = { newReq x inst slot l n rot p b m rows last with rgns := rgns } := by
    unfold r startRunAhead
    split
    · exact ⟨_, rfl⟩
    · exact ⟨_, rfl⟩
  rw [hahead]
  exact ⟨rfl, rfl, rfl, rfl, rfl, rfl, rfl, rfl, rfl, rfl⟩

section queryFound
variable {x : Inst} {inst k qh slot l n : Nat} {p b img : Bytes} {m : EnMsg} {s : State}

theorem queryFound_inactive (h : (seqOf s slot).st ≠ .active) :
    queryFound x inst k p b m qh img slot l n s = actEnd inst k stStateConflict (refuseSeq slot x.tenant 1 s (whoOf x.msg)) := if_pos h

variable (h : (seqOf s slot).st = .active)
include h

theorem queryFound_tensors (ht : tensorsOk (seqOf s slot) img l = false) :
    queryFound x inst k p b m qh img slot l n s = actEnd inst k stNoPage s :=
  (if_neg (fun hn => hn h)).trans (if_pos (by simp [ht]))

variable (ht : tensorsOk (seqOf s slot) img l = true)
include ht

theorem queryFound_program {st : Nat} (hg : (programGate x.tenant slot l (qProg p) (qGen p) s (whoOf x.msg)).1 = some st) :
    queryFound x inst k p b m qh img slot l n s =
      actEnd inst k st (programGate x.tenant slot l (qProg p) (qGen p) s (whoOf x.msg)).2 := by
  refine (if_neg (fun hn => hn h)).trans ((if_neg (by simp [ht])).trans ?_)
  generalize programGate x.tenant slot l (qProg p) (qGen p) s (whoOf x.msg) = g at hg ⊢
  obtain ⟨_, w⟩ := g
  subst hg
  rfl

variable {w : State} (hg : programGate x.tenant slot l (qProg p) (qGen p) s (whoOf x.msg) = (none, w))
include hg

theorem queryFound_rows (hb : (rowsOf p (if qPrefix p then b.drop 64 else b) n qh (pQueryDim img * 16)).any rowBad = true) :
    queryFound x inst k p b m qh img slot l n s = actEnd inst k stMalformed w := by
  refine (if_neg (fun hn => hn h)).trans ((if_neg (by simp [ht])).trans ?_)
  simp only [hg]
  exact if_pos hb

variable (hb : (rowsOf p (if qPrefix p then b.drop 64 else b) n qh (pQueryDim img * 16)).any rowBad = false)
include hb

theorem queryFound_tree {st : Nat} {z : State}
    (hr : treeGate x.tenant slot img (parentsOf p b) (tailOf p b) n w (whoOf x.msg) = (some st, z)) :
    queryFound x inst k p b m qh img slot l n s = actEnd inst k st z := by
  refine (if_neg (fun hn => hn h)).trans ((if_neg (by simp [ht])).trans ?_)
  simp only [hg]
  refine (if_neg (by simp [hb])).trans ?_
  simp only [hr]

/-- A query that passes every check is a request with the next number (R181). -/
theorem queryFound_taken {z : State} (hr : treeGate x.tenant slot img (parentsOf p b) (tailOf p b) n w (whoOf x.msg) = (none, z)) :
    ∃ r, queryFound x inst k p b m qh img slot l n s = setReq (startProgUse (qProg p) (actBusy inst k z)).nextReq r
        { startProgUse (qProg p) (actBusy inst k z) with nextReq := (startProgUse (qProg p) (actBusy inst k z)).nextReq + 1 } ∧
      r.slot = slot ∧ r.tenant = x.tenant ∧ r.tag = qTag p ∧ r.layer = l ∧ r.nq = n ∧ r.program = qProg p ∧ r.st = .checked ∧
      r.tuple = none ∧ r.freed = false ∧ r.hi = if qHi p = 0x1FFFFFF then 2 ^ 25 else qHi p := by
  refine ⟨startRunAhead (startProgUse (qProg p) (actBusy inst k z)) (newReq x inst slot l n (seqOf s slot).app.rotOffset p b m
    (rowsOf p (if qPrefix p then b.drop 64 else b) n qh (pQueryDim img * 16)) (entryOf z x.entry).last), ?_,
    startRunAhead_newReq _ _ _ _ _ _ _ _ _ _ _ _⟩
  refine (if_neg (fun hn => hn h)).trans ((if_neg (by simp [ht])).trans ?_)
  simp only [hg]
  refine (if_neg (by simp [hb])).trans ?_
  simp only [hr]

end queryFound

/-! ## CONFIRM (08 R182, R199, R200) -/

/-- The tuple that a confirmation takes: the committed length, and with the tail the length after it. -/
def tupleOf (x : Seq) (incTail : Bool) : Tuple :=
  { e := if incTail then x.committed + x.tail else x.committed, c := x.committed, tail := incTail, pgen := x.pgen }

theorem execConfirm_waiting {n : Nat} {q : Req} {z : State} (h : tlook z.req n = some q) (hst : q.st ≠ .confirmed) :
    exec (.confirm n) z = .next (confirmDo n q z) := by
  change execConfirm n z = _
  simp only [execConfirm, h, if_neg hst]

section confirmDo
variable {n : Nat} {q : Req} {z s : State}

theorem confirmDo_gone (h : q.freed = true ∨ (lookSeq q.tenant q.tag z).1 ≠ some q.slot) :
    confirmDo n q z = reqRefused n stNoPage q (lookSeq q.tenant q.tag z).2 := if_pos h

variable (hf : q.freed = false) (hl : lookSeq q.tenant q.tag z = (some q.slot, s))
include hf hl

theorem confirmDo_inactive (hst : (seqOf s q.slot).st ≠ .active) :
    confirmDo n q z = reqRefused n stStateConflict q (refuseSeq q.slot q.tenant 1 s (instWho s q.inst)) := by
  unfold confirmDo
  simp only [hl]
  exact (if_neg (by simp [hf])).trans (if_pos hst)

variable (hst : (seqOf s q.slot).st = .active)
include hst

/-- A request with the tail is held while a compaction runs (09 R212). -/
theorem confirmDo_held (hc : (seqOf s q.slot).app.commitPending = true) (ht : q.incTail = true) :
    confirmDo n q z = if q.st = .held then s else count (rgnCntOff (dirRegion q.slot) 14) (setReq n { q with st := .held } s) := by
  unfold confirmDo
  simp only [hl]
  exact (if_neg (by simp [hf])).trans ((if_neg (fun hn => hn hst)).trans (if_pos ⟨hc, ht⟩))

variable (hfree : (seqOf s q.slot).app.commitPending = false ∨ q.incTail = false)
include hfree

theorem confirmDo_tree {st : Nat} {u : State} (hg : treeGate q.tenant q.slot (progOf s q.program).image q.parents q.incTail q.nq s
      (instWho s q.inst) = (some st, u)) : confirmDo n q z = reqRefused n st q u := by
  unfold confirmDo
  simp only [hl]
  refine (if_neg (by simp [hf])).trans ((if_neg (fun hn => hn hst)).trans ((if_neg ?_).trans ?_))
  · rintro ⟨hc, ht⟩
    rw [hc, ht] at hfree
    exact hfree.elim Bool.noConfusion Bool.noConfusion
  · simp only [hg]

/-- A request that passes check 8 is measured against its deadline (R199, R200). -/
theorem confirmDo_gated {u : State} (hg : treeGate q.tenant q.slot (progOf s q.program).image q.parents q.incTail q.nq s
      (instWho s q.inst) = (none, u)) :
    let img := (progOf s q.program).image
    let x := seqOf s q.slot
    let e := tupleOf x q.incTail
    let b := reqBytes img x.desc { q with fallback := false } e
    let late := { q with fallback := true }
    confirmDo n q z =
      if meets u q b then confirmQueue n { q with fallback := false } e b q.tenant u
      else if dFallbackEn x.desc then
        if pStates img ≤ dFallbackState x.desc then reqRefused n stMalformed q (shapeMismatch q.slot q.layer q.tenant u)
        else confirmQueue n late e (reqBytes img x.desc late e) q.tenant u
      else reqRefused n stDeadline q (count (netCntOff q.die 19) u) := by
  unfold confirmDo
  simp only [hl]
  refine (if_neg (by simp [hf])).trans ((if_neg (fun hn => hn hst)).trans ((if_neg ?_).trans ?_))
  · rintro ⟨hc, ht⟩
    rw [hc, ht] at hfree
    exact hfree.elim Bool.noConfusion Bool.noConfusion
  · simp only [hg]
    rfl

end confirmDo

/-! ## The confirmation -/

/-- The wait of a request is noted in its own record alone. -/
theorem noteWait_req {n : Nat} {q : Req} {s : State} (h : tlook s.req n = some q) :
    ∃ b, tlook (noteWait n s).req n = some { q with waited := b } := by
  unfold noteWait
  simp only [h]
  split
  · exact ⟨q.waited, h⟩
  · have hf (w w' o o' x x' : Nat) (u : State) : (acct q.tenant w o x (acct q.tenant w' o' x' u)).req = u.req :=
      (acct_frame (m := [.cnt]) _ _ _ _ (acct_frame _ _ _ _ (Frame.refl _ u) rfl) rfl).same .req (by decide)
    rw [hf]
    exact ⟨true, tlook_tput _ _ _⟩

theorem keptBytes_other (s : State) (q : Req) (all : List Nat) (l : List Nat) (a : Nat) :
    (l.map fun r => (r, confirmRgn s q false all r)).foldl (fun a r => if r.2.keep then a + r.2.ahead else a) a = a := by
  induction l generalizing a with
  | nil => rfl
  | cons r rs ih => exact ih a

/-- The confirmation of a request takes its tuple and its bytes, less those that a right prediction has read (R182, R184). -/
theorem confirmReq_confirmed (n b : Nat) (q : Req) (e : Tuple) (s : State) :
    ∃ r, tlook (confirmReq n q e b s).req n = some r ∧ r.st = .confirmed ∧ r.tuple = some e ∧
      r.bytesLeft ≤ b ∧ (q.predicted ≠ some e ∨ q.fallback = true → r.bytesLeft = b) ∧ r.confirmedAt = now s ∧ r.order = s.nextReq := by
  unfold confirmReq
  simp only
  generalize hs1 : (if (q.predicted.isSome && q.predicted != some e) = true then count (netCntOff q.die 18) s else s) = s1
  generalize hs2 : (if q.fallback = true then acct (seqOf s q.slot).tenant 32 0x20 1 (count (fallbackOff q.die q.partn) s1) else s1) = s2
  have h1 : Frame [.cnt] s s1 := hs1 ▸ frame_ite (fun _ => count_frame _ (Frame.refl _ s) rfl) fun _ => Frame.refl _ s
  have h2 : Frame [.cnt] s s2 := hs2 ▸ frame_ite (fun _ => acct_frame _ _ _ _ (count_frame _ h1 rfl) rfl) fun _ => h1
  have hreq (n' : Nat) (Q : Req) (img : Bytes) (x : Nat) (y : Entry) (u : State) :
      tlook (touchTensors Q img (enterSeq Q.slot (setEntryRec x y (setReq n' Q u)))).req n' = some Q := by
    have hf : Frame [.slu, .dir] (setReq n' Q u) (touchTensors Q img (enterSeq Q.slot (setEntryRec x y (setReq n' Q u)))) :=
      touchTensors_frame _ _ (enterSeq_frame _ (setEntryRec_frame _ _ (Frame.refl _ _) rfl) rfl) rfl
    rw [hf.same .req (by decide)]
    exact tlook_tput _ _ _
  obtain ⟨w, hw⟩ := noteWait_req (hreq n _ (progOf s q.program).image q.entry _ _)
  refine ⟨_, hw, rfl, rfl, Nat.sub_le _ _, fun hother => ?_, ?_, h2.same .nextReq (by decide)⟩
  · have hsame : (q.predicted == some e && !q.fallback && q.rot == (seqOf s q.slot).app.rotOffset) = false := by
      obtain h | h := hother <;> simp [h]
    simp only [hsame]
    rw [keptBytes_other]
    rfl
  · exact congrArg Bmk.time (h2.same .bmk (by decide))

section confirmQueue
variable {n b tenant : Nat} {q : Req} {e : Tuple} {s : State}

/-- The requests of `q`'s die that wait for contexts, and those of its partition (R183). -/
def waitingOf (s : State) (q : Req) : Nat := tcount s.req fun _ x => x.die == q.die && reqWaits x
def waitingInPart (s : State) (q : Req) : Nat := tcount s.req fun _ x => (x.die == q.die && reqWaits x) && x.partn == q.partn

/-- The requests that a partition may have waiting (14 R312). -/
def queueRoom (s : State) (q : Req) : Nat := if (weirOf s q.partn).en then (weirOf s q.partn).queueLimit else 4096

theorem confirmQueue_room (hp : waitingInPart s q < queueRoom s q) (hd : waitingOf s q < 4096) :
    confirmQueue n q e b tenant s = confirmReq n q e b s :=
  (if_neg (Nat.not_le.2 hp)).trans (if_neg (Nat.not_le.2 hd))

theorem confirmQueue_over (hp : queueRoom s q ≤ waitingInPart s q) :
    confirmQueue n q e b tenant s = reqRefused n stOverRate q (acct tenant 32 0x24 1 s) := if_pos hp

end confirmQueue

/-! ## CONFIRM_ARRIVAL (08 R184; 02 R33) -/

theorem confirmBlocked_iff (s : State) (q : Req) (r : Nat) : confirmBlocked s q r = true ↔ ∃ e ∈ s.req, e.2.st = .confirmed ∧ e.2.die = q.die ∧
    e.2.lc = q.lc ∧ e.2.order < q.order ∧ ∃ x, tlook e.2.rgns r = some x ∧ x.confirmed = false := by
  have hway (t : Tbl ReqRgn) : (match tlook t r with | some x => !x.confirmed | none => false) = true ↔
      ∃ x, tlook t r = some x ∧ x.confirmed = false := by
    cases tlook t r <;> simp
  unfold confirmBlocked
  simp only [List.any_eq_true, Bool.and_eq_true, beq_iff_eq, decide_eq_true_eq, and_assoc]
  refine exists_congr fun e => and_congr_right fun _ => and_congr_right fun _ => and_congr_right fun _ => and_congr_right fun _ =>
    and_congr_right fun _ => ?_
  exact hway e.2.rgns

section confirmArrival
variable {n : Nat} {r : Fin 16} {q : Req} {x : ReqRgn} {e : Tuple} {s : State}
  (h : tlook s.req n = some q) (ht : q.tuple = some e) (hx : tlook q.rgns r = some x)
include h ht hx

theorem execConfirmArrival_eq : exec (.confirmArrival n r) s = .next (
    if x.confirmed || confirmBlocked s q r then s
    else noteWait n (setReq n { q with rgns := tput q.rgns r { x with
      confirmed := true, lanes := if x.keep then x.lanes else tmap (layLanes x.pairs x.blocks) (restartLane x.lanes) } } s)) := by
  change execConfirmArrival n r s = _
  simp only [execConfirmArrival, h, ht, hx]

end confirmArrival

theorem execQuery_started {inst k : Nat} {x : Inst} {p : Bytes} {m : EnMsg} {s : State} (h : startedAct s inst 1 = some (x, k, p))
    (hm : x.msg = some m) : exec (.query inst) s = .next (queryDo x inst k p m s) := by
  change execQuery inst s = _
  simp only [execQuery, h, hm]

/-- Settles O41: by the checks of QUERY in their order, and by what CONFIRM and CONFIRM_ARRIVAL make of a request's record. -/
theorem queriesAreCheckedAndConfirmed : Obligations.QueriesAreCheckedAndConfirmed := by
  unfold Obligations.QueriesAreCheckedAndConfirmed
  refine ⟨?_, ?_, fun n b tenant q e s => ⟨confirmQueue_room, confirmQueue_over⟩, confirmReq_confirmed, ?_, confirmBlocked_iff⟩
  · intro inst k x p m s hact hm b looked found u img qh layer nq hi epoch misfit
    rw [execQuery_started hact hm]
    have hl : lookSeq x.tenant (qTag p) s = (found, looked.2) := rfl
    refine ⟨fun hlayer => congrArg Host.Outcome.next (queryDo_malformed hl (.inl hlayer)),
      fun l _ hi hn => congrArg Host.Outcome.next (queryDo_malformed hl (.inr ⟨hi, .inl hn⟩)),
      fun l n _ hi hn hroom => congrArg Host.Outcome.next (queryDo_malformed hl (.inr ⟨hi, .inr ⟨n, hn, hroom⟩⟩)),
      fun l n hlayer hn hroom => ?_⟩
    rw [queryDo_formed hl hlayer hn hroom]
    refine ⟨fun hk => congrArg Host.Outcome.next (queryFormed_revoked hk), fun hk =>
      ⟨fun st v he => congrArg Host.Outcome.next (queryFormed_epoch hk he), fun v he =>
        ⟨fun hf => congrArg Host.Outcome.next (queryFormed_absent hk he hf), fun slot hf => ?_⟩⟩⟩
    rw [queryFormed_found hk he hf]
    refine ⟨fun hst => congrArg Host.Outcome.next (queryFound_inactive hst),
      fun hst ht => congrArg Host.Outcome.next (queryFound_tensors hst ht), ?_⟩
    intro hst ht gate
    refine ⟨fun st hg => congrArg Host.Outcome.next (queryFound_program hst ht hg), ?_⟩
    intro hg w bad tree
    have hg' : programGate x.tenant slot l (qProg p) (qGen p) v (whoOf x.msg) = (none, w) := Prod.ext hg rfl
    refine ⟨fun hb => congrArg Host.Outcome.next (queryFound_rows hst ht hg' hb),
      fun st hb hr => congrArg Host.Outcome.next (queryFound_tree hst ht hg' hb (Prod.ext hr rfl)), fun hb hr => ?_⟩
    obtain ⟨r, heq, hfields⟩ := queryFound_taken (k := k) (inst := inst) (m := m) hst ht hg' hb (Prod.ext hr rfl)
    exact ⟨r, _, congrArg Host.Outcome.next heq, rfl, hfields⟩
  · intro n q z s hq hst
    rw [execConfirm_waiting hq hst]
    refine ⟨fun hgone => congrArg Host.Outcome.next (confirmDo_gone hgone), ?_⟩
    intro hf hl x
    refine ⟨fun hx => congrArg Host.Outcome.next (confirmDo_inactive hf hl hx), fun hx hc ht => ?_, ?_, ?_,
      fun st u hx hfree hg => congrArg Host.Outcome.next (confirmDo_tree hf hl hx hfree hg)⟩
    · have hreq : s.req = z.req :=
        (Frame.out hl (lookSeq_frame (m := [.catchment, .log, .cnt, .dir]) q.tenant q.tag (Frame.refl _ z) rfl)).same .req (by decide)
      refine ⟨_, congrArg Host.Outcome.next (confirmDo_held hf hl hx hc ht), ?_⟩
      by_cases hheld : q.st = .held
      · rw [if_pos hheld]
        exact ⟨q, by rw [hreq, hq], hheld, rfl⟩
      · rw [if_neg hheld]
        have hcount := count_frame (m := [.cnt]) (rgnCntOff (dirRegion q.slot) 14) (Frame.refl _ (setReq n { q with st := .held } s)) rfl
        refine ⟨{ q with st := .held }, ?_, rfl, hcount.same .dir (by decide)⟩
        rw [hcount.same .req (by decide)]
        exact tlook_tput _ _ _
    · intro hx hfree hp hd e
      have hg : treeGate q.tenant q.slot (progOf s q.program).image q.parents q.incTail q.nq s (instWho s q.inst) = (none, s) := by
        rw [hp]
        rfl
      have hmeets : meets s q (reqBytes (progOf s q.program).image x.desc { q with fallback := false } (tupleOf x q.incTail)) = true := by
        unfold meets
        simp only [hd]
      exact congrArg Host.Outcome.next ((confirmDo_gated hf hl hx hfree hg).trans (if_pos hmeets))
    · intro u hx hfree hg img e b late
      have heq := confirmDo_gated (n := n) hf hl hx hfree hg
      refine ⟨fun hmeet => congrArg Host.Outcome.next (heq.trans (if_pos hmeet)), fun hmeet hd => ?_, fun hmeet hd => ⟨fun hp => ?_, fun hp => ?_⟩⟩
      all_goals have hlate := heq.trans (if_neg (fun hn => Bool.false_ne_true (hmeet.symm.trans hn)))
      · exact congrArg Host.Outcome.next (hlate.trans (if_neg (fun hn => Bool.false_ne_true (hd.symm.trans hn))))
      · exact congrArg Host.Outcome.next (hlate.trans ((if_pos hd).trans (if_pos hp)))
      · exact congrArg Host.Outcome.next (hlate.trans ((if_pos hd).trans (if_neg (Nat.not_le.2 hp))))
  · intro n r q x e s hq ht hx
    rw [execConfirmArrival_eq hq ht hx]
    refine ⟨fun h => congrArg Host.Outcome.next (if_pos ?_), fun hc hb => congrArg Host.Outcome.next (if_neg ?_)⟩
    · obtain h | h := h <;> simp [h]
    · simp [hc, hb]

end Sys2Proof.Proofs

/-! PROOF. Lanes: contexts, page reads, tiles, cells and pre-emption (06 R132, R152; 14 R308-R316). -/

namespace Sys2Proof.Proofs

open Sys2Proof.Machine Sys2Proof.Laws

/-! ## Contexts (14 R308, R311) -/

theorem tlook_tmod {α : Type} {t : Tbl α} {k : Nat} {v : α} (h : tlook t k = some v) (f : α → α) : tlook (tmod t k f) k = some (f v) := by
  unfold tmod
  rw [h]
  exact tlook_tput _ _ _

theorem modLane_req {n r i : Nat} {q : Req} {s : State} (h : tlook s.req n = some q) (f : Lane → Lane) :
    tlook (modLane n r i f s).req n = some { q with rgns := tmod q.rgns r fun x => { x with lanes := tmod x.lanes i f } } := by
  unfold modLane
  rw [h]
  exact tlook_tput _ _ _

/-- A lane that takes a context runs on its block; the request's wait is measured to now. -/
theorem takeContext_lane {n r i b : Nat} {q : Req} {x : ReqRgn} {l : Lane} {s : State} (hq : tlook s.req n = some q) (hx : tlook q.rgns r = some x)
    (hl : tlook x.lanes i = some l) :
    ∃ q' x' l', tlook (takeContext n r i b s).req n = some q' ∧ tlook q'.rgns r = some x' ∧ tlook x'.lanes i = some l' ∧
      l' = { l with st := .running, block := b } ∧ q'.held = now s := by
  have hmod := modLane_req (r := r) (i := i) hq fun l => { l with st := .running, block := b }
  have hbmk : (modLane n r i (fun l => { l with st := .running, block := b }) s).bmk = s.bmk := by
    unfold modLane
    rw [hq]
    rfl
  unfold takeContext
  simp only [hmod]
  exact ⟨_, _, _, tlook_tput _ _ _, tlook_tmod hx _, tlook_tmod hl _, rfl, congrArg Bmk.time hbmk⟩

section ctxTurn
variable {r b n i : Nat} {s : State}

theorem ctxTurn_lc_idle (h : lcWaiting s r b = []) : ctxTurn r b n i true s = none := by
  unfold ctxTurn
  simp only [h]

theorem ctxTurn_lc {e : LaneAt} {rest : List LaneAt} (h : lcWaiting s r b = e :: rest) :
    ctxTurn r b n i true s = if e.1 = n ∧ e.2.2.1 = i then some s else none := by
  unfold ctxTurn
  simp only [h]

/-- A best-effort lane has no turn while a latency-critical one waits. -/
theorem ctxTurn_be_behind (h : lcWaiting s r b ≠ []) : ctxTurn r b n i false s = none := by
  obtain ⟨e, rest, he⟩ := List.exists_cons_of_ne_nil h
  unfold ctxTurn
  simp only [he]

theorem ctxTurn_be (h : lcWaiting s r b = []) :
    ctxTurn r b n i false s = laneTurn (ctxServer r b) n i (beWaiting s r b) (laneCost s) s := by
  unfold ctxTurn
  simp only [h]

theorem ctxRoom_iff (s : State) (r b p : Nat) : ctxRoom s r b p = true ↔ (blkOf s r b).fenced = false ∧ (ctxOn s r b).length < 32 ∧
    ((ctxOn s r b).countP fun e => e.2.1.partn == p) < ctxLimit s p := by
  unfold ctxRoom
  simp only [Bool.and_eq_true, Bool.not_eq_true', decide_eq_true_eq, and_assoc]

end ctxTurn

section giveContexts
variable {n r i : Nat} {q : Req} {x : ReqRgn} {l : Lane} {s : State} (hx : tlook q.rgns r = some x) (hl : x.lanes = [(i, l)])
include hx hl

theorem giveContexts_none (h : l.st ≠ .waiting ∨ roomFor s r l.block q.partn = none) : giveContexts n r q s = s := by
  unfold giveContexts
  simp only [hx, hl, List.foldl_cons, List.foldl_nil]
  split
  · rename_i hw
    obtain h | h := h
    · exact absurd hw h
    · simp only [h]
  · rfl

theorem giveContexts_room {b : Nat} (hw : l.st = .waiting) (hb : roomFor s r l.block q.partn = some b) :
    let u := modLane n r i (fun l => { l with block := b }) s
    (ctxTurn r b n i q.lc u = none → giveContexts n r q s = s) ∧
    (∀ v, ctxTurn r b n i q.lc u = some v → giveContexts n r q s = takeContext n r i b v) := by
  intro u
  unfold giveContexts
  simp only [hx, hl, List.foldl_cons, List.foldl_nil, if_pos hw, hb]
  exact ⟨fun h => by simp only [u] at h; simp only [h], fun v h => by simp only [u] at h; simp only [h]⟩

end giveContexts

theorem execContextAllocate_eq {n : Nat} {r : Fin 16} {q : Req} {s : State} (h : tlook s.req n = some q) :
    exec (.contextAllocate n r) s = .next (if (rgnOf s r).gated then s else markBusy r (noteWait n (giveContexts n r q s))) := by
  change execContextAllocate n r s = _
  simp only [execContextAllocate, h]

/-! ## Page reads (05 R117; 14 R310) -/

section pageRead
variable {n : Nat} {r : Fin 16} {i : Fin 8} {q : Req} {x : ReqRgn} {l : Lane} {e : Tuple} {s : State}
  (hq : tlook s.req n = some q) (hx : tlook q.rgns r = some x) (hl : tlook x.lanes i = some l) (ht : laneTuple q x = some e)
include hq hx hl ht

theorem execPageRead_next {idx : Nat} {rest : List Nat} (hp : l.pairs = idx :: rest) (o : ReadOutcome) : exec (.pageRead n r i o) s =
    .next (if laneReads l = true ∧ (rgnOf s r).gated = false then pageReadDo n r i (reqAs q x) x l e idx o s else s) := by
  change execPageRead n r i o s = _
  simp only [execPageRead, hq, hx, hl, ht, hp]

theorem execPageRead_done (hp : l.pairs = []) (o : ReadOutcome) : exec (.pageRead n r i o) s = .next s := by
  change execPageRead n r i o s = _
  simp only [execPageRead, hq, hx, hl, ht, hp]

end pageRead

/-- As many bytes as the bucket covers leave a read's channels, in their order. -/
theorem takeLines_sum (own : Nat) (left : Tbl Nat) :
    ((takeLines own (fun _ => false) left).map (·.2)).sum = (left.map (·.2)).sum - own := by
  induction left generalizing own with
  | nil => simp [takeLines]
  | cons e es ih =>
    simp only [takeLines, List.map_cons, List.sum_cons, ih]
    simp only [Bool.false_eq_true, if_false]
    omega

section grantRead
variable {r p : Nat} {lc : Bool} {others : Nat → Bool} {left : Tbl Nat} {s : State}

theorem grantRead_open (h : (weirOf s p).en = false) : ∀ e ∈ (grantRead r p lc others left s).1, e.2 = 0 := by
  unfold grantRead
  rw [if_pos (by simp [h])]
  intro e he
  obtain ⟨_, _, rfl⟩ := List.mem_map.1 he
  rfl

/-- Without lines of others to borrow, a weir grants what its bucket covers. -/
theorem grantRead_own (h : (weirOf s p).en = true) (hb : (weirOf s p).borrow = false ∨ lc = true) :
    ((grantRead r p lc others left s).1.map (·.2)).sum = (left.map (·.2)).sum - min (left.map (·.2)).sum (tokenLines s r p) := by
  have hfree : (fun ch => (weirOf s p).borrow && !lc && !others ch) = fun _ => false := by
    funext ch
    obtain hb | hb := hb <;> simp [hb]
  unfold grantRead
  rw [if_neg (by simp [h])]
  simp only [hfree]
  exact takeLines_sum _ _

end grantRead

/-- A translation that is fetched ahead fills the TLBs alone (03 R60). -/
theorem prefetch_tlb (slot vpn sv region block : Nat) (s : State) : ∃ b, prefetch slot vpn sv region block s = { s with tlb := b } := by
  unfold prefetch
  simp only
  split
  · exact ⟨s.tlb, rfl⟩
  · split
    · exact ⟨s.tlb, rfl⟩
    · exact ⟨_, rfl⟩

theorem prefetchNext_tlb (q : Req) (r : Nat) (l : Lane) (s : State) : ∃ b, prefetchNext q r l s = { s with tlb := b } := by
  unfold prefetchNext
  split
  · exact ⟨s.tlb, rfl⟩
  · rename_i idx _ _
    simp only
    generalize readKinds (progOf s q.program).image (seqOf s q.slot).desc = ks
    generalize (seqOf s q.slot).desc = d
    induction ks generalizing s with
    | nil => exact ⟨s.tlb, rfl⟩
    | cons k ks ih =>
      obtain ⟨b, hb⟩ := prefetch_tlb q.slot (vpnOf d (4 * q.layer + k) idx) (svAddr d q.layer k idx) r (blkKey r l.block) s
      obtain ⟨b', hb'⟩ := ih (prefetch q.slot (vpnOf d (4 * q.layer + k) idx) (svAddr d q.layer k idx) r (blkKey r l.block) s)
      exact ⟨b', by rw [List.foldl_cons, hb', hb]⟩

/-! ## Tiles and cells (06 R132, R151-R153) -/

theorem failedCells_unnamed {c : Nat} {o : List TileFault} (img : Bytes) (h : ∀ f ∈ o, f.cell.val ≠ c) :
    failedCells img c o = [] ∧ tileWrong img c o = false := by
  have hnone (what : TileFault → Bool) : (o.any fun f => f.cell.val == c && what f) = false := by
    simp only [List.any_eq_false, Bool.and_eq_true, beq_iff_eq, not_and]
    exact fun f hf hc => absurd hc (h f hf)
  have hfails : cellFails img o c = false := hnone _
  refine ⟨?_, hnone _⟩
  unfold failedCells
  rw [if_neg (by simp [hfails])]

theorem mem_failedCells (img : Bytes) (c x : Nat) (o : List TileFault) :
    x ∈ failedCells img c o ↔ x < 17 ∧ cellFails img o c = true ∧ cellFails img o x = true := by
  unfold failedCells
  split
  · rename_i h
    simp [h]
  · rename_i h
    simp [h]

theorem giveCell_held {r n i c : Nat} {l : Lane} {s : State} (h : l.cell = some c) : giveCell r n i l s = (c, s) := by
  unfold giveCell
  rw [h]

theorem giveCell_next {r n i : Nat} {l : Lane} {s : State} (h : l.cell = none) :
    (giveCell r n i l s).1 = cellAt (blkOf s r l.block) (blkOf s r l.block).next := by
  unfold giveCell
  rw [h]

section cellsFail
variable {r b c : Nat} {d : Nat → Detail} {s : State} (hc : c < 16)
include hc

/-- One cell of the array fails: the spare takes its place where it is free and sound, else the block goes with it (R152). -/
theorem cellsFail_one : cellsFail r b [c] d s =
    if (!(blkOf s r b).spare && !(blkOf s r b).cells.getLsbD 16) = true then
      setBlk r b { blkOf (cellFence r b c (d c) s) r b with spare := true } (cellFence r b c (d c) s)
    else fenceBlock r b (logSeq (cellFence r b c (d c) s) r) (cellFence r b c (d c) s) := by
  have hplaces : [c].filter (· != 16) = [c] := List.filter_eq_self.2 fun x hx => by
    obtain rfl := List.mem_singleton.1 hx
    simp only [bne_iff_ne]
    omega
  have hspare : [c].contains 16 = false := by
    simp only [List.contains_cons, List.contains_nil, Bool.or_false, beq_eq_false_iff_ne]
    omega
  unfold cellsFail
  simp only [hplaces, hspare, Bool.not_false, Bool.and_true]
  cases (!(blkOf s r b).spare && !(blkOf s r b).cells.getLsbD 16) <;> rfl

theorem cellsFail_spare (hs : (blkOf s r b).spare = false) (h16 : (blkOf s r b).cells.getLsbD 16 = false) :
    cellsFail r b [c] d s = setBlk r b { blkOf (cellFence r b c (d c) s) r b with spare := true } (cellFence r b c (d c) s) := by
  rw [cellsFail_one hc, hs, h16]
  rfl

theorem cellsFail_block (h : (blkOf s r b).spare = true ∨ (blkOf s r b).cells.getLsbD 16 = true) :
    cellsFail r b [c] d s = fenceBlock r b (logSeq (cellFence r b c (d c) s) r) (cellFence r b c (d c) s) := by
  rw [cellsFail_one hc]
  refine if_neg ?_
  obtain h | h := h <;> rw [h]
  · exact Bool.false_ne_true
  · rw [Bool.not_true, Bool.and_false]
    exact Bool.false_ne_true

end cellsFail

theorem afterTile_more {l : Lane} {a t : Nat × Nat} {ts : List (Nat × Nat)} (h : l.tiles = a :: t :: ts) :
    (afterTile l).tiles = t :: ts ∧ (afterTile l).buf = l.buf := by
  unfold afterTile
  rw [h]
  exact ⟨rfl, rfl⟩

theorem afterTile_last {l : Lane} {a : Nat × Nat} (h : l.tiles = [a]) :
    (afterTile l).buf = none ∧ (afterTile l).pairs = l.pairs.drop 1 ∧ (l.pairs.drop 1 = [] → (afterTile l).st = .done) := by
  unfold afterTile
  rw [h]
  exact ⟨rfl, rfl, fun hp => by simp [hp]⟩

section tileCheckDo
variable {n r i : Nat} {q : Req} {l : Lane} {e : Tuple} {b : PageBuf} {tile : Nat × Nat} {o : List TileFault} {s u v : State} {c : Nat}

theorem tileCheckDo_behind (hp : pageTurn r n i q l s = none) : tileCheckDo n r i q l e b tile o s = s := by
  unfold tileCheckDo
  rw [hp]

variable (hp : pageTurn r n i q l s = some u) (hg : giveCell r n i l u = (c, v))
include hp hg

/-- A tile that passes its check reaches the accumulator, wrong where a fault was not found (R152). -/
theorem tileCheckDo_passes (hf : failedCells (progOf v q.program).image c o = []) :
    tileCheckDo n r i q l e b tile o s = tileDone n r i q e b tile (tileWrong (progOf v q.program).image c o) v := by
  unfold tileCheckDo
  rw [hp]
  simp only [hg, hf]
  rfl

/-- A first failure is computed again. -/
theorem tileCheckDo_retries (hf : failedCells (progOf v q.program).image c o ≠ []) (hr : l.retried = false) :
    tileCheckDo n r i q l e b tile o s = modLane n r i (fun l => { l with retried := true })
      ((failedCells (progOf v q.program).image c o).foldl (fun s c => cellRetry r l.block c (tileDetail v q b tile o c) s) v) := by
  unfold tileCheckDo
  rw [hp]
  simp only [hg]
  exact (if_neg (by simp [hf])).trans (if_pos (by simp [hr]))

/-- A second failure fences the cell, and the tile is computed on the spare. -/
theorem tileCheckDo_fences (hf : failedCells (progOf v q.program).image c o ≠ []) (hr : l.retried = true) :
    tileCheckDo n r i q l e b tile o s = modLane n r i (fun l => { l with retried := false, cell := some 16 })
      (cellsFail r l.block (failedCells (progOf v q.program).image c o) (tileDetail v q b tile o) v) := by
  unfold tileCheckDo
  rw [hp]
  simp only [hg]
  exact (if_neg (by simp [hf])).trans (if_neg (by simp [hr]))

end tileCheckDo

section tileCheck
variable {n : Nat} {r : Fin 16} {i : Fin 8} {q : Req} {x : ReqRgn} {l : Lane} {e : Tuple} {s : State}
  (hq : tlook s.req n = some q) (hx : tlook q.rgns r = some x) (hl : tlook x.lanes i = some l) (ht : laneTuple q x = some e)
include hq hx hl ht

theorem execTileCheck_page {b : PageBuf} {tile : Nat × Nat} {rest : List (Nat × Nat)} (hb : l.buf = some b) (hts : l.tiles = tile :: rest)
    (o : List TileFault) : exec (.tileCheck n r i o) s = .next (
      if l.st = .running ∧ (rgnOf s r).gated = false then tileCheckDo n r i (reqAs q x) l e b tile o s else s) := by
  change execTileCheck n r i o s = _
  simp only [execTileCheck, hq, hx, hl, ht, hb, hts]

theorem execTileCheck_empty {b : PageBuf} (hb : l.buf = some b) (hts : l.tiles = []) (o : List TileFault) :
    exec (.tileCheck n r i o) s = .next (modLane n r i afterTile s) := by
  change execTileCheck n r i o s = _
  simp only [execTileCheck, hq, hx, hl, ht, hb, hts]

end tileCheck

/-! ## What a page read does -/

/-- The leaves of the walks that found one. -/
def leavesOf (ws : List (Nat × Walk)) : List (Nat × Nat) :=
  ws.filterMap fun e => match e.2 with
    | .leaf e' => some (e.1, e')
    | .invalid => none

/-- A lane's read once its channels serve it, in the state `v` after the walks. -/
def pageReadOn (n r i : Nat) (q : Req) (l : Lane) (t : Tuple) (idx : Nat) (o : ReadOutcome) (leaves : List (Nat × Nat)) (pages : List (Nat × Bytes))
    (v : State) : State :=
  match abandonedIn v (pairChunks v q.slot q.layer idx leaves) with
  | some a => holdRead (.lane n r i) a (o == .abandonedMismatch) v
  | none =>
    match readMet n r q idx leaves o v with
    | (false, u) => u
    | (true, u) => fillBuffer n r i idx q t l leaves pages (touchCodes (pairChunks v q.slot q.layer idx leaves) u)

section pageReadDo
variable {n r i idx : Nat} {q : Req} {x : ReqRgn} {l : Lane} {t : Tuple} {o : ReadOutcome} {s v : State} {ws : List (Nat × Walk)}
  (hw : walkKinds q.slot q.layer idx r (blkKey r l.block) (readKinds (progOf s q.program).image (seqOf s q.slot).desc) s = (ws, v))
include hw

theorem pageReadDo_ends {st : Nat} {lost : Bool} (hr : readPair v q.slot q.layer idx ws = .end_ st lost) :
    pageReadDo n r i q x l t idx o s = readFailed n r q.slot q.layer st lost x.confirmed v := by
  unfold pageReadDo
  simp only [hw, hr]

theorem pageReadDo_pages {pages : List (Nat × Bytes)} (hr : readPair v q.slot q.layer idx ws = .pages pages) :
    pageReadDo n r i q x l t idx o s =
      if readWaits s n r i q l idx (leavesOf ws) then s else pageReadOn n r i q l t idx o (leavesOf ws) pages v := by
  unfold pageReadDo
  simp only [hw, hr]
  rfl

end pageReadDo

section pageReadOn
variable {n r i idx : Nat} {q : Req} {l : Lane} {t : Tuple} {o : ReadOutcome} {leaves : List (Nat × Nat)} {pages : List (Nat × Bytes)} {v u : State}

theorem pageReadOn_held {a : Nat} (ha : abandonedIn v (pairChunks v q.slot q.layer idx leaves) = some a) :
    pageReadOn n r i q l t idx o leaves pages v = holdRead (.lane n r i) a (o == .abandonedMismatch) v := by
  unfold pageReadOn
  simp only [ha]

variable (ha : abandonedIn v (pairChunks v q.slot q.layer idx leaves) = none)
include ha

theorem pageReadOn_met (hm : readMet n r q idx leaves o v = (false, u)) : pageReadOn n r i q l t idx o leaves pages v = u := by
  unfold pageReadOn
  simp only [ha, hm]

theorem pageReadOn_fills (hm : readMet n r q idx leaves o v = (true, u)) : pageReadOn n r i q l t idx o leaves pages v =
    fillBuffer n r i idx q t l leaves pages (touchCodes (pairChunks v q.slot q.layer idx leaves) u) := by
  unfold pageReadOn
  simp only [ha, hm]

end pageReadOn

/-- A read that the weir grants a part of keeps what is left; with the last lines of the pair its tiles wait in the buffer (14 R310). -/
theorem fillBuffer_eq {n r i idx : Nat} {q : Req} {t : Tuple} {l : Lane} {leaves : List (Nat × Nat)} {pages : List (Nat × Bytes)} {left : Tbl Nat}
    {s u : State} (part : PartRead) (hpart : l.part.getD ⟨pages, pairLines s q t idx leaves⟩ = part)
    (h : grantRead r q.partn q.lc (fun ch => rivalRead s n r i [ch] false) part.left s = (left, u)) :
    let d := (seqOf s q.slot).desc
    let need := (part.left.map (·.2)).sum
    let rest := (left.map (·.2)).sum
    let v := chargeRead n r (need - rest) u
    let reads := pageReads d (patCtx q t) (spansOf (progOf s q.program).image d q t q.fallback) (idx % dPages d)
    fillBuffer n r i idx q t l leaves pages s =
      if rest ≠ 0 then (if rest = need then v else modLane n r i (fun l => { l with part := some { part with left := left } }) v)
      else prefetchNext q r l (modLane n r i (fun l => { l with
        buf := some ⟨idx, (List.range 4).map fun k => ((part.pages.find? fun e => e.1 == k).map (·.2)).getD []⟩, part := none
        tiles := tilesOf d q.nq (idx / dPages d) reads, begun := false, cell := none, retried := false }) v) := by
  subst hpart
  unfold fillBuffer
  simp only [h]

/-! ## Pre-emption (14 R315, R316) -/

section preempt
variable {n vn vi i : Nat} {r : Fin 16} {block : Fin 8} {q vq : Req} {vl l : Lane} {x : ReqRgn} {s : State} (hq : tlook s.req n = some q)
  (hx : tlook q.rgns r = some x) (hv : victimOf s r block = some (vn, vq, vi, vl))
  (hl : x.lanes.find? (fun l => l.2.st == .waiting && l.2.block == block.val) = some (i, l))
include hq hx hv hl

theorem execPreempt_eq : exec (.preempt n r block) s = .next (
    if ((preemptor s r block (vn, vq, vi, vl)).map fun e => (e.1, e.2.2.1)) ≠ some (n, i) ∨ (ctxOn s r block).length < 32 ∨
        vl.buf.isSome = true ∨ vl.part.isSome = true ∨ (rgnOf s r).gated = true then s
    else if 4194304 < savedUse s r + savedBytes s vq then
      raiseCount (leafPreemptNoRoom r) (rgnCntOff r 16) [(16, 1, block.val), (20, 4, vq.slot)] s
    else noteWait n (takeContext n r i block (acct vq.tenant 32 0x1C 1 (modLane vn r vi (fun l => { l with st := .saved, savedAt := now s }) s)))) := by
  change execPreempt n r block s = _
  simp only [execPreempt, hq, hx, hv, hl]

end preempt

section contextResume
variable {r : Fin 16} {block : Fin 8} {s : State}

/-- The saved lane of a block that the round comes to next, with the deficits after it (R316). -/
def resumable (s : State) (r b : Nat) : Option (LaneAt × State) :=
  ((beWaiting s r b).filter fun e => e.2.2.2.st == .saved).findSome? fun e => (ctxTurn r b e.1 e.2.2.1 false s).map fun s' => (e, s')

theorem execContextResume_next {n i : Nat} {q : Req} {l : Lane} {u : State} (hg : (rgnOf s r).gated = false)
    (h : resumable s r block = some ((n, q, i, l), u)) : exec (.contextResume r block) s =
      .next (modLane n r i (fun l => { l with st := .running, block := block.val }) (acct q.tenant 64 8 (now u - l.savedAt) u)) := by
  unfold resumable at h
  refine congrArg Host.Outcome.next ((if_neg (by simp [hg])).trans ?_)
  simp only [h]

theorem execContextResume_waits (h : (rgnOf s r).gated = true ∨ lcWaiting s r block ≠ []) : exec (.contextResume r block) s = .next s := by
  obtain h | h := h
  · exact congrArg Host.Outcome.next (if_pos h)
  · have hnone : resumable s r block = none := by
      unfold resumable
      simp only [ctxTurn_be_behind h, Option.map_none, List.findSome?_eq_none_iff, implies_true]
    cases hg : (rgnOf s r).gated with
    | true => exact congrArg Host.Outcome.next (if_pos hg)
    | false =>
      unfold resumable at hnone
      refine congrArg Host.Outcome.next ((if_neg (by simp [hg])).trans ?_)
      simp only [hnone]

end contextResume

/-- Settles O42: by the branches of CONTEXT_ALLOCATE, PAGE_READ, TILE_CHECK, PREEMPT and CONTEXT_RESUME, each with the rule of the part that it uses. -/
theorem lanesReadAndCompute : Obligations.LanesReadAndCompute := by
  unfold Obligations.LanesReadAndCompute
  refine ⟨fun n r q s hq => ?_, fun n r i q x l s hx hl => ⟨giveContexts_none hx hl, fun b => giveContexts_room hx hl⟩,
    fun n r i b q x l s => takeContext_lane, fun r b n i s => ⟨ctxTurn_lc_idle, fun e rest h => ?_, ctxTurn_be⟩, ctxRoom_iff, ?_, ?_, ?_, ?_,
    fun img c o => failedCells_unnamed img, mem_failedCells, prefetchNext_tlb, fun r n i l s => ⟨fun c => giveCell_held, giveCell_next⟩,
    ?_, fun r b c d s => raise_causeSet _ _ _, fun l => ⟨fun a t ts => afterTile_more, fun a => afterTile_last⟩, ?_,
    fun r block n i q l s u => execContextResume_next, fun r block s => execContextResume_waits⟩
  · rw [execContextAllocate_eq hq]
    exact ⟨fun h => congrArg Host.Outcome.next (if_pos h), fun h => congrArg Host.Outcome.next (if_neg (by simp [h]))⟩
  · rw [ctxTurn_lc h]
    exact ⟨fun hn => if_pos hn, fun hn => if_neg hn, ctxTurn_be_behind (by simp [h])⟩
  · intro n r i q x l e s hq hx hl ht
    refine ⟨fun idx rest o hp hreads hg => ?_, fun o h => ?_, fun b tile rest o hb hts => ⟨fun h => ?_, ?_⟩, fun b o hb hts =>
      execTileCheck_empty hq hx hl ht hb hts o⟩
    · exact (execPageRead_next hq hx hl ht hp o).trans (congrArg Host.Outcome.next (if_pos ⟨hreads, hg⟩))
    · cases hp : l.pairs with
      | nil => exact execPageRead_done hq hx hl ht hp o
      | cons idx rest =>
        refine (execPageRead_next hq hx hl ht hp o).trans (congrArg Host.Outcome.next (if_neg ?_))
        obtain h | h := h <;> simp [h]
    · rw [execTileCheck_page hq hx hl ht hb hts]
      by_cases hruns : l.st = .running ∧ (rgnOf s r).gated = false
      · obtain h | h | h := h
        · exact absurd hruns.1 h
        · exact absurd (hruns.2.symm.trans h) Bool.false_ne_true
        · rw [if_pos hruns, tileCheckDo_behind h]
      · rw [if_neg hruns]
    · intro u c v hst hg hp hc img det
      rw [execTileCheck_page hq hx hl ht hb hts, if_pos ⟨hst, hg⟩]
      refine ⟨fun hf hw => ?_, fun hf hw => ?_, fun hf hr => congrArg Host.Outcome.next (tileCheckDo_retries hp hc hf hr),
        fun hf hr => congrArg Host.Outcome.next (tileCheckDo_fences hp hc hf hr)⟩
      all_goals
        have hpass := tileCheckDo_passes (e := e) (b := b) (tile := tile) hp hc hf
        unfold tileDone at hpass
      · exact congrArg Host.Outcome.next (hpass.trans (if_neg (fun hn => Bool.false_ne_true (hw.symm.trans hn))))
      · exact congrArg Host.Outcome.next (hpass.trans (if_pos hw))
  · intro n r i idx q x l t o s v ws hw leaves chunks
    refine ⟨fun st lost => pageReadDo_ends hw, fun pages hr hwait => ?_, fun pages hr hwait => (pageReadDo_pages hw hr).trans (if_pos hwait)⟩
    have hon : pageReadDo n r i q x l t idx o s = pageReadOn n r i q l t idx o leaves pages v :=
      (pageReadDo_pages hw hr).trans (if_neg (fun hn => Bool.false_ne_true (hwait.symm.trans hn)))
    exact ⟨fun a ha => hon.trans (pageReadOn_held ha), fun u ha hm => hon.trans (pageReadOn_met ha hm), fun u ha hm => hon.trans (pageReadOn_fills ha hm)⟩
  · intro n r i idx q t l leaves pages left s u d part need rest v reads hgrant
    have heq := fillBuffer_eq part rfl hgrant
    exact ⟨fun hrest hsame => heq.trans ((if_pos hrest).trans (if_pos hsame)), fun hrest hdiff => heq.trans ((if_pos hrest).trans (if_neg hdiff)),
      fun hrest => heq.trans (if_neg (fun hn => hn hrest))⟩
  · intro n r b others lc left s
    refine ⟨grantRead_open, fun h hb hsum => ?_⟩
    rw [grantRead_own h hb, hsum]
  · intro r b c d s hc v w
    exact ⟨cellsFail_spare hc, cellsFail_block hc⟩
  · intro n vn vi i r block q vq vl l x s hq hx hv hl first
    rw [execPreempt_eq hq hx hv hl]
    refine ⟨fun hfirst hfull hbuf hpart hg => ?_, fun h => congrArg Host.Outcome.next (if_pos ?_)⟩
    · have hmay : ¬ (first ≠ some (n, i) ∨ (ctxOn s r block).length < 32 ∨ vl.buf.isSome = true ∨ vl.part.isSome = true ∨ (rgnOf s r).gated = true) := by
        simp [hfirst, hbuf, hpart, hg, Nat.not_lt.2 hfull]
      exact ⟨fun hroom => congrArg Host.Outcome.next ((if_neg hmay).trans (if_neg (Nat.not_lt.2 hroom))),
        fun hfull => congrArg Host.Outcome.next ((if_neg hmay).trans (if_pos hfull))⟩
    · simpa only [Option.isSome_iff_ne_none] using h

end Sys2Proof.Proofs

/-! PROOF. The directory's commands: SEQ_OPEN, TENSOR_REG, SET_FINGERPRINT and SEQ_RELEASE (03 R54, R55, R56, R72, R77). -/

namespace Sys2Proof.Proofs

open Sys2Proof.Machine Sys2Proof.Laws

/-! ## The slot that SEQ_OPEN takes -/

theorem findFrom_some {lo n k : Nat} {p : Nat → Bool} (h : findFrom lo n p = some k) : p k = true ∧ lo ≤ k ∧ k < lo + n := by
  induction n generalizing lo with
  | zero => exact absurd h (by simp [findFrom])
  | succ n ih =>
    unfold findFrom at h
    split at h
    · next hp =>
      obtain rfl := Option.some.inj h
      exact ⟨hp, Nat.le_refl _, by omega⟩
    · obtain ⟨hp, hlo, hhi⟩ := ih h
      exact ⟨hp, by omega, by omega⟩

/-- A choice among regions that only ever takes one in service gives one in service. -/
theorem foldl_choice_notFenced {s : State} {f : Option (Nat × Nat) → Nat → Option (Nat × Nat)}
    (hf : ∀ b r e, f b r = some e → b = some e ∨ rgnFenced s e.1 = false) (l : List Nat) {b : Option (Nat × Nat)} {e : Nat × Nat}
    (hb : ∀ e, b = some e → rgnFenced s e.1 = false) (h : l.foldl f b = some e) : rgnFenced s e.1 = false := by
  induction l generalizing b with
  | nil => exact hb e h
  | cons r l ih =>
    refine ih (fun x hx => ?_) h
    obtain hx | hx := hf b r x hx
    · exact hb x hx
    · exact hx

/-- The slot taken is free, in the slice of a region in service (R54). -/
theorem allocSlot_free {s : State} {slot : Nat} (h : allocSlot s = some slot) :
    tlook s.dir slot = none ∧ rgnFenced s (dirRegion slot) = false := by
  unfold allocSlot at h
  simp only at h
  split at h
  · exact absurd h (by simp)
  · next r u hbest =>
    obtain ⟨hfree, hlo, hhi⟩ := findFrom_some h
    have hr : dirRegion slot = r := by
      unfold dirRegion
      omega
    refine ⟨by simpa using hfree, ?_⟩
    rw [hr]
    refine foldl_choice_notFenced (s := s) (e := (r, u)) (fun b x e he => ?_) _ (fun e he => absurd he (by simp)) hbest
    split at he
    · exact .inl he
    · next hx =>
      have hxe : ∀ v, some (x, v) = some e → rgnFenced s e.1 = false := fun v hv => by
        obtain rfl := Option.some.inj hv
        simpa using hx
      split at he
      · exact .inr (hxe _ he)
      · split at he
        · exact .inr (hxe _ he)
        · exact .inl he

/-! ## Directory entries as they are written -/

theorem seqOf_setSeq_of_ne {q : Seq} (h : q ≠ {}) {slot x : Nat} (hx : x ≠ slot) (s : State) :
    seqOf (setSeq slot q s) x = seqOf s x := tget_tset_other h _ hx

/-- The entry that SEQ_OPEN makes. -/
def openedSeq (tenant tag fp t pgen root place : Nat) (d : Bytes) : Seq :=
  let cam : Cam := { valid := true, tenant := tenant, tag := tag, fp := fp }
  { cam := cam, shadow := cam, desc := d, tag := tag, tenant := tenant, st := .active, pgen := pgen, root := root, fp := fp, openTime := t
    place := place }

/-- A sequence made writes its own entry and no other. -/
theorem makeSeq_active {slot tenant tag fp t : Nat} {d : Bytes} {s u : State} (h : makeSeq slot tenant tag fp t .active d s = some u) :
    ∃ pgen root place, seqOf u slot = openedSeq tenant tag fp t pgen root place d ∧ ∀ x, x ≠ slot → seqOf u x = seqOf s x := by
  unfold makeSeq at h
  split at h
  · exact absurd h (by simp)
  · next root v hroot =>
    obtain ⟨⟨place, w⟩, hplace, rfl⟩ := Option.map_eq_some_iff.1 h
    have hv : v.dir = s.dir := ((takeSpan_frame (m := [.cnt, .mem, .sto]) _ _ _ _ (Frame.refl _ s) rfl).out _ _ hroot).same .dir (by decide)
    have hw : w.dir = v.dir := ((takeSpan_frame (m := [.cnt, .mem, .sto]) _ _ _ _ (Frame.refl _ v) rfl).out _ _ hplace).same .dir (by decide)
    have hne : openedSeq tenant tag fp t (mapGen w tenant tag) root place d ≠ {} :=
      fun heq => absurd (show SeqSt.active = .free from congrArg Seq.st heq) (by decide)
    exact ⟨mapGen w tenant tag, root, place, seqOf_setSeq_self hne slot w,
      fun x hx => (seqOf_setSeq_of_ne hne hx w).trans (seqOf_congr (hw.trans hv) x)⟩

/-- Only the released entry changes, to RELEASING (Table 3.7). -/
theorem releaseSeq_releasing (slot : Nat) (s : State) :
    (seqOf (releaseSeq slot s) slot).st = .releasing ∧ ∀ x, x ≠ slot → seqOf (releaseSeq slot s) x = seqOf s x := by
  have hset (q : Seq) (v : State) (hv : v.dir = s.dir) : (seqOf (setSeq slot { q with st := .releasing } v) slot).st = .releasing ∧
      ∀ x, x ≠ slot → seqOf (setSeq slot { q with st := .releasing } v) x = seqOf s x := by
    have hne : { q with st := .releasing } ≠ ({} : Seq) := fun heq => absurd (show SeqSt.releasing = .free from congrArg Seq.st heq) (by decide)
    exact ⟨congrArg Seq.st (seqOf_setSeq_self hne slot v), fun x hx => (seqOf_setSeq_of_ne hne hx v).trans (seqOf_congr hv x)⟩
  unfold releaseSeq
  refine hset _ _ ?_
  split <;> rfl

/-! ## SEQ_OPEN -/

section seqOpen
variable {inst k tenant tag fp slot : Nat} {d p : Bytes} {x : Inst} {who : Who} {s v : State}

theorem execSeqOpen_started (h : startedAct s inst 6 = some (x, k, p)) {o : Nat × Nat × State}
    (ho : seqOpenDo x.tenant (rd p 0 8) (rd p 8 8) (slice p 16 64) s (whoOf x.msg) = o) :
    exec (.seqOpen inst) s = .next (actDone inst k o.1 false false o.2.1 o.2.2) := by
  subst ho
  change execSeqOpen inst s = _
  unfold execSeqOpen
  rw [h]

theorem execSeqOpen_idle (h : startedAct s inst 6 = none) : exec (.seqOpen inst) s = .next s := by
  change execSeqOpen inst s = _
  unfold execSeqOpen
  rw [h]

theorem seqOpenDo_held (h : lookSeq tenant tag s = (some slot, v)) :
    seqOpenDo tenant tag fp d s who = (stStateConflict, 0, refuseSeq slot tenant 6 v who) := by
  unfold seqOpenDo
  rw [h]

variable (h : lookSeq tenant tag s = (none, v))
include h

theorem seqOpenDo_loading (hl : loadingTag v tenant tag = true) :
    seqOpenDo tenant tag fp d s who = (stStateConflict, 0, refuseR 0 tenant 0 1 6 0x3FFFF none v who) := by
  unfold seqOpenDo
  rw [h]
  exact if_pos hl

variable (hl : loadingTag v tenant tag = false)
include hl

theorem seqOpenDo_protection (hp : dProtected d ≠ isProtected v tenant) : seqOpenDo tenant tag fp d s who = (stAccess, 0, v) := by
  unfold seqOpenDo
  rw [h]
  exact (if_neg (by simp [hl])).trans (if_pos (by simpa using hp))

variable (hp : dProtected d = isProtected v tenant)
include hp

theorem seqOpenDo_malformed (hd : descBad d = true) : seqOpenDo tenant tag fp d s who = (stMalformed, 0, v) := by
  unfold seqOpenDo
  rw [h]
  exact (if_neg (by simp [hl])).trans ((if_neg (by simp [hp])).trans (if_pos hd))

/-- A well-formed SEQ_OPEN ends by whether a slot, and then its units, can be had (R54). -/
theorem seqOpenDo_formed (hd : descBad d = false) : seqOpenDo tenant tag fp d s who =
    match allocSlot v with
    | none => (stRetry, 0, dirFull v)
    | some slot =>
      match makeSeq slot tenant tag fp (now v) .active d v with
      | none => (stRetry, 0, frameExhausted (dirRegion slot) v)
      | some u => (stOk, slot, u) := by
  unfold seqOpenDo
  rw [h]
  exact (if_neg (by simp [hl])).trans ((if_neg (by simp [hp])).trans (if_neg (by simp [hd])))

end seqOpen

/-! ## TENSOR_REG -/

section tensorReg
variable {inst k tenant tag l kd slot : Nat} {deep : Bool} {p : Bytes} {x : Inst} {who : Who} {s u : State}

theorem execTensorReg_started (h : startedAct s inst 7 = some (x, k, p)) {o : Nat × State}
    (ho : tensorRegDo x.tenant (rd p 0 8) (rd p 8 1) (bits (rd p 9 1) 1 0) (bitAt (rd p 9 1) 2) s (whoOf x.msg) = o) :
    exec (.tensorReg inst) s = .next (actEnd inst k o.1 o.2) := by
  subst ho
  change execTensorReg inst s = _
  unfold execTensorReg
  rw [h]

theorem execTensorReg_idle (h : startedAct s inst 7 = none) : exec (.tensorReg inst) s = .next s := by
  change execTensorReg inst s = _
  unfold execTensorReg
  rw [h]

theorem tensorRegDo_missing (h : lookSeq tenant tag s = (none, u)) : tensorRegDo tenant tag l kd deep s who = (stNoPage, u) := by
  unfold tensorRegDo
  rw [h]

variable (h : lookSeq tenant tag s = (some slot, u))
include h

theorem tensorRegDo_inactive (hst : (seqOf u slot).st ≠ .active) :
    tensorRegDo tenant tag l kd deep s who = (stStateConflict, refuseSeq slot tenant 7 u who) := by
  unfold tensorRegDo
  rw [h]
  exact if_pos hst

variable (hst : (seqOf u slot).st = .active)
include hst

theorem tensorRegDo_malformed (hb : tensorBad (seqOf u slot).desc l kd = true) :
    tensorRegDo tenant tag l kd deep s who = (stMalformed, u) := by
  unfold tensorRegDo
  rw [h]
  exact (if_neg (fun hn => hn hst)).trans (if_pos hb)

variable (hb : tensorBad (seqOf u slot).desc l kd = false)
include hb

theorem tensorRegDo_registered (ht : (tenOf (seqOf u slot) (4 * l + kd)).st ≠ .absent) :
    tensorRegDo tenant tag l kd deep s who = (stStateConflict, refuseTen slot tenant (4 * l + kd) 7 u who) := by
  unfold tensorRegDo
  rw [h]
  exact (if_neg (fun hn => hn hst)).trans ((if_neg (by simp [hb])).trans (if_pos ht))

variable (ht : (tenOf (seqOf u slot) (4 * l + kd)).st = .absent)
include ht

/-- An absent tensor is registered in the tier named, unless its deep page table finds no units (Table 3.8). -/
theorem tensorRegDo_absent : tensorRegDo tenant tag l kd deep s who =
    match regTensor slot (4 * l + kd) deep u with
    | none => (stRetry, frameExhausted (dirRegion slot) u)
    | some w => (stOk, relayTensor slot (4 * l + kd) w) := by
  unfold tensorRegDo
  rw [h]
  exact (if_neg (fun hn => hn hst)).trans ((if_neg (by simp [hb])).trans (if_neg (fun hn => hn ht)))

theorem tensorRegDo_fast (hd : deep = false) : tensorRegDo tenant tag l kd deep s who =
    (stOk, relayTensor slot (4 * l + kd) (setTen slot (4 * l + kd) { st := .fast } u)) := by
  subst hd
  exact tensorRegDo_absent h hst hb ht

theorem tensorRegDo_deep (hd : deep = true) {w : State} (hw : backTensor slot (4 * l + kd) (setTen slot (4 * l + kd) { st := .deep } u) = some w) :
    tensorRegDo tenant tag l kd deep s who = (stOk, relayTensor slot (4 * l + kd) w) := by
  subst hd
  rw [tensorRegDo_absent h hst hb ht, show regTensor slot (4 * l + kd) true u = some w from hw]

theorem tensorRegDo_noTable (hd : deep = true) (hw : backTensor slot (4 * l + kd) (setTen slot (4 * l + kd) { st := .deep } u) = none) :
    tensorRegDo tenant tag l kd deep s who = (stRetry, frameExhausted (dirRegion slot) u) := by
  subst hd
  rw [tensorRegDo_absent h hst hb ht, show regTensor slot (4 * l + kd) true u = none from hw]

end tensorReg

/-! ## SET_FINGERPRINT and SEQ_RELEASE -/

section fingerprintRelease
variable {inst k slot : Nat} {x : Inst} {p : Bytes} {s u : State}

theorem execSetFingerprint_active (h : startedAct s inst 8 = some (x, k, p)) (hl : lookSeq x.tenant (rd p 0 8) s = (some slot, u))
    (hst : (seqOf u slot).st = .active) : exec (.setFingerprint inst) s = .next (actEnd inst k stOk (setSeq slot { seqOf u slot with
      cam := { (seqOf u slot).cam with fp := rd p 8 8 }, shadow := { (seqOf u slot).cam with fp := rd p 8 8 }, fp := rd p 8 8 } u)) := by
  change execSetFingerprint inst s = _
  unfold execSetFingerprint setFingerprintDo
  rw [h]
  simp only [hl]
  rw [if_neg (fun hn => hn hst)]

theorem execSetFingerprint_idle (h : startedAct s inst 8 = none) : exec (.setFingerprint inst) s = .next s := by
  change execSetFingerprint inst s = _
  unfold execSetFingerprint
  rw [h]

theorem execSeqRelease_found (h : startedAct s inst 9 = some (x, k, p)) (hl : lookSeq x.tenant (rd p 0 8) s = (some slot, u)) :
    exec (.seqRelease inst) s = .next (actEnd inst k stOk (if (seqOf u slot).st = .releasing then u else releaseSeq slot u)) := by
  change execSeqRelease inst s = _
  unfold execSeqRelease seqReleaseDo
  rw [h]
  simp only [hl]
  split <;> rfl

theorem execSeqRelease_idle (h : startedAct s inst 9 = none) : exec (.seqRelease inst) s = .next s := by
  change execSeqRelease inst s = _
  unfold execSeqRelease
  rw [h]

end fingerprintRelease

/-- Settles O35: by the checks of each command in their order, and by what an entry made or released holds. -/
theorem directoryCommandsAnswer : Obligations.DirectoryCommandsAnswer := by
  unfold Obligations.DirectoryCommandsAnswer
  refine ⟨?_, ?_, fun s slot h => allocSlot_free h, ?_, fun inst k slot x p s u h hl hst => execSetFingerprint_active h hl hst,
    fun inst k slot x p s u h hl => execSeqRelease_found h hl, releaseSeq_releasing,
    fun inst s => ⟨execSeqOpen_idle, execTensorReg_idle, execSetFingerprint_idle, execSeqRelease_idle⟩⟩
  · intro inst k x p s h tag d
    refine ⟨fun slot v hl => execSeqOpen_started h (seqOpenDo_held hl), fun v hl => ⟨fun hload => execSeqOpen_started h (seqOpenDo_loading hl hload),
      fun hload => ⟨fun hp => execSeqOpen_started h (seqOpenDo_protection hl hload hp),
        fun hp hd => execSeqOpen_started h (seqOpenDo_malformed hl hload hp hd), fun hp hd => ?_⟩⟩⟩
    have hformed := seqOpenDo_formed (fp := rd p 8 8) (who := whoOf x.msg) hl hload hp hd
    refine ⟨fun ha => ?_, fun slot ha hm => ?_, fun slot u ha hm => ?_⟩
    · exact execSeqOpen_started h (o := (stRetry, 0, dirFull v)) (by rw [hformed, ha])
    · exact execSeqOpen_started h (o := (stRetry, 0, frameExhausted (dirRegion slot) v)) (by rw [hformed, ha]; simp only [hm])
    · exact execSeqOpen_started h (o := (stOk, slot, u)) (by rw [hformed, ha]; simp only [hm])
  · intro slot tenant tag fp t d s u h
    obtain ⟨pgen, root, place, hq, hother⟩ := makeSeq_active h
    rw [hq]
    exact ⟨rfl, rfl, rfl, rfl, rfl, rfl, rfl, rfl, rfl, rfl, rfl, hother⟩
  · intro inst k x p s h l kd
    have hexec {o : Nat × State} := execTensorReg_started (o := o) h
    refine ⟨fun u hl => hexec (tensorRegDo_missing hl), fun slot u hl => ⟨fun hst => hexec (tensorRegDo_inactive hl hst),
      fun hst hb => hexec (tensorRegDo_malformed hl hst hb), fun hst hb ht => hexec (tensorRegDo_registered hl hst hb ht),
      fun hst hb ht => ⟨fun hd => hexec (tensorRegDo_fast hl hst hb ht hd), fun hd => ⟨fun v hw => hexec (tensorRegDo_deep hl hst hb ht hd hw),
        fun hw => hexec (tensorRegDo_noTable hl hst hb ht hd hw)⟩⟩⟩⟩

end Sys2Proof.Proofs

/-! PROOF. Firmware's commands: the gate they share, the reads of a sequence, SAT_CLEAR, NODE_DRAIN, ACTION, FW_SLUICE and CHIP_RESET (20 R441-R445). -/

namespace Sys2Proof.Proofs

open Sys2Proof.Machine Sys2Proof.Laws

/-! ## The gate -/

section gate
variable {op : Nat} {run : Latched → State → State} {c : Latched} {s : State}

theorem fwRun_idle (h : fwCmd s op = none) : fwRun op run s = s := by
  unfold fwRun
  rw [h]

variable (h : fwCmd s op = some c)
include h

theorem fwRun_refused {st : Nat} (hg : fwGate s op c.req = some st) : fwRun op run s = answerFw st [] s := by
  unfold fwRun
  simp only [h, hg]

theorem fwRun_passed (hg : fwGate s op c.req = none) : fwRun op run s = run c s := by
  unfold fwRun
  simp only [h, hg]

end gate

/-- The firmware's commands of Table 20.3 that read tables or act, each with its code. -/
def fwReadOrAct : List (Instr × Nat) :=
  [(.datumRead, 0x21), (.nodeDrain, 0x22), (.seqRead, 0x30), (.placeRead, 0x31), (.satRead, 0x32), (.satClear, 0x33), (.windowRead, 0x34),
    (.sluiceRead, 0x35), (.action, 0x40), (.fwSluice, 0x41), (.chipReset, 3)]

/-- Each of them runs behind the gate of its own code. -/
theorem exec_fwReadOrAct {c : Instr} {op : Nat} (h : (c, op) ∈ fwReadOrAct) (s : State) : ∃ run, exec c s = .next (fwRun op run s) := by
  simp only [fwReadOrAct, List.mem_cons, Prod.mk.injEq, List.not_mem_nil, or_false] at h
  rcases h with ⟨rfl, rfl⟩ | ⟨rfl, rfl⟩ | ⟨rfl, rfl⟩ | ⟨rfl, rfl⟩ | ⟨rfl, rfl⟩ | ⟨rfl, rfl⟩ | ⟨rfl, rfl⟩ | ⟨rfl, rfl⟩ | ⟨rfl, rfl⟩ |
    ⟨rfl, rfl⟩ | ⟨rfl, rfl⟩ <;> exact ⟨_, rfl⟩

/-! ## Commands about a sequence -/

section onSeq
variable {b r : Bytes} {f : Nat → State → Nat × Bytes × State} {slot st : Nat} {s u v : State}

theorem onSeq_absent (h : lookSeq (bits (rd b 0 2) 11 0) (rd b 8 8) s = (none, u)) : onSeq b f s = answerFw stNoPage [] u := by
  unfold onSeq
  rw [h]

theorem onSeq_found (h : lookSeq (bits (rd b 0 2) 11 0) (rd b 8 8) s = (some slot, u)) (hf : f slot u = (st, r, v)) :
    onSeq b f s = answerFw st r v := by
  unfold onSeq
  simp only [h, hf]

end onSeq

/-- The commands that name a sequence by tenant and tag. -/
def fwOfSeq : List (Instr × Nat) := [(.seqRead, 0x30), (.placeRead, 0x31), (.satRead, 0x32), (.satClear, 0x33)]

theorem exec_fwOfSeq {c : Instr} {op : Nat} (h : (c, op) ∈ fwOfSeq) (s : State) :
    ∃ f : Latched → Nat → State → Nat × Bytes × State, exec c s = .next (fwRun op (fun l s => onSeq l.req (f l) s) s) := by
  simp only [fwOfSeq, List.mem_cons, Prod.mk.injEq, List.not_mem_nil, or_false] at h
  rcases h with ⟨rfl, rfl⟩ | ⟨rfl, rfl⟩ | ⟨rfl, rfl⟩ | ⟨rfl, rfl⟩
  · exact ⟨fun _ k s => (stOk, seqRecord (seqOf s k) ++ appRecord (seqOf s k).app, s), rfl⟩
  · exact ⟨fun l k s => (stOk, placeView s k (rd l.req 16 1) (rd l.req 17 1), s), rfl⟩
  · exact ⟨fun _ k s => (stOk, (List.range 256).flatMap fun x => leBytes 4 (tget 0 (seqOf s k).sat x), s), rfl⟩
  · exact ⟨fun l k s => (stOk, [], satClear k (rd l.req 16 1) (bitAt (rd l.req 17 1) 0) s), rfl⟩

/-- Of a sorted directory an entry written is read back, whatever it holds. -/
theorem seqOf_setSeq_sorted {s : State} (h : twf {} s.dir = true) (slot : Nat) (q : Seq) : seqOf (setSeq slot q s) slot = q := by
  simp only [twf, Bool.and_eq_true] at h
  exact (tget_tset h.1 {} slot slot q).trans (if_pos rfl)

/-- SAT_CLEAR zeroes a layer's clip counter, or all, and lets the drift occur again (06 R140). -/
theorem satClear_clears {s : State} (h : twf {} s.dir = true) (k x : Nat) :
    (seqOf (satClear k x true s) k).sat = [] ∧ (seqOf (satClear k x true s) k).drift = [] ∧
    (seqOf (satClear k x false s) k).sat = tdel (seqOf s k).sat x ∧ x ∉ (seqOf (satClear k x false s) k).drift := by
  have hall : seqOf (satClear k x true s) k = { seqOf s k with sat := [], drift := [] } := seqOf_setSeq_sorted h k _
  have hone : seqOf (satClear k x false s) k =
      { seqOf s k with sat := tdel (seqOf s k).sat x, drift := (seqOf s k).drift.filter (· != x) } := seqOf_setSeq_sorted h k _
  rw [hall, hone]
  exact ⟨rfl, rfl, rfl, by simp⟩

/-! ## NODE_DRAIN, CHIP_RESET and ACTION -/

section drainNode
variable {s : State}

theorem drainNode_joining (h : s.node.st = .joining) : (drainNode s).node.st = .drained := by
  unfold drainNode
  rw [h]

theorem drainNode_drained (h : s.node.st = .drained) : drainNode s = s := by
  unfold drainNode
  rw [h]

theorem drainNode_serving (h : s.node.st = .serving) : drainNode s = drainCheck { s with node := { s.node with st := .draining } } := by
  unfold drainNode
  rw [h]

end drainNode

theorem execChipReset_passed {l : Latched} {s : State} (h : fwCmd s 3 = some l) (hg : fwGate s 3 l.req = none) :
    ∃ t, exec .chipReset s = .next t ∧ t.cfg = s.cfg ∧
      (s.pwr.resetDue = none → t.pwr.resetDue = some (now s + 100000, .soft)) ∧ (s.pwr.resetDue ≠ none → t = s) := by
  refine ⟨_, congrArg Host.Outcome.next (fwRun_passed h hg), ?_⟩
  cases hdue : s.pwr.resetDue with
  | none => exact ⟨rfl, fun _ => rfl, fun hn => absurd rfl hn⟩
  | some due => exact ⟨rfl, fun hn => absurd hn (by simp), fun _ => rfl⟩

section action
variable {l : Latched} {s : State} (h : fwCmd s 0x40 = some l) (hg : fwGate s 0x40 l.req = none)
include h hg

theorem execAction_refused {st : Nat}
    (hr : actionRefusal s (bits (rd l.req 0 2) 11 0) (actionBytes (actionSlot (slice l.req 8 120))) = some st) :
    exec .action s = .next (answerFw st [] s) := by
  change execAction s = _
  unfold execAction
  rw [fwRun_passed h hg]
  simp only [hr]

variable (hr : actionRefusal s (bits (rd l.req 0 2) 11 0) (actionBytes (actionSlot (slice l.req 8 120))) = none)
include hr

theorem execAction_full (hfull : 16 ≤ s.cfg.outstanding.length) : exec .action s = .next (answerFw stRetry [] s) := by
  have hdefer : acceptDeferred l s.slu.nextInst s = none := if_pos hfull
  change execAction s = _
  unfold execAction
  rw [fwRun_passed h hg]
  simp only [hr, hdefer]

/-- An ACTION taken is deferred, and its program has begun its one action. -/
theorem execAction_begun (hroom : s.cfg.outstanding.length < 16) : ∃ u x, exec .action s = .next u ∧ instOf u s.slu.nextInst = some x ∧
    x.tenant = bits (rd l.req 0 2) 11 0 ∧ x.bytes = actionBytes (actionSlot (slice l.req 8 120)) ∧ x.acts = [.started] ∧
    x.fwTag = some l.tag ∧ x.lc = false ∧ u.cfg.outstanding = s.cfg.outstanding ++ [⟨l.opcode, l.tag, s.slu.nextInst⟩] := by
  obtain ⟨v, hdefer, hslu, hout⟩ : ∃ v, acceptDeferred l s.slu.nextInst s = some v ∧ v.slu = s.slu ∧
      v.cfg.outstanding = s.cfg.outstanding ++ [⟨l.opcode, l.tag, s.slu.nextInst⟩] := ⟨_, if_neg (Nat.not_le.2 hroom), rfl, rfl⟩
  let x := actionInst v (bits (rd l.req 0 2) 11 0) l.tag (actionBytes (actionSlot (slice l.req 8 120)))
  have hexec : exec .action s = .next (newInst x v).2 := by
    change execAction s = _
    unfold execAction
    rw [fwRun_passed h hg]
    simp only [hr, hdefer, x]
  refine ⟨_, x, hexec, ?_, rfl, rfl, rfl, rfl, rfl, hout⟩
  rw [← hslu]
  exact tlook_tput _ _ _

end action

/-! ## FW_SLUICE -/

section fwSluDo
variable {x code n : Nat} {b : Bytes} {s : State}

theorem fwSluDo_malformed (h : x < 31744 ∨ code = 0 ∨ 3 < code) : fwSluDo x code n b s = ({ status := stMalformed }, s) :=
  if_pos (by tauto)

theorem fwSluDo_post (h : 31744 ≤ x) : fwSluDo x 1 0 b s = postDo x 0 b none s :=
  (if_neg (by omega)).trans (if_pos rfl)

theorem fwSluDo_cancel (h : 31744 ≤ x) : fwSluDo x 2 0 b s = cancelDo x s :=
  (if_neg (by omega)).trans ((if_neg (by omega)).trans (if_pos rfl))

theorem fwSluDo_rearm (h : 31744 ≤ x) (hn : n ≠ 0) (hmax : n ≤ 16383) : fwSluDo x 3 n b s = rearmDo x 0 n none s :=
  (if_neg (by omega)).trans ((if_neg (by omega)).trans (if_neg (by omega)))

end fwSluDo

/-- Settles O59: by the gate that the commands share, and by what each does behind it. -/
theorem firmwareReadsAndActs : Obligations.FirmwareReadsAndActs := by
  unfold Obligations.FirmwareReadsAndActs
  refine ⟨?_, ?_, ?_, fun k x s h => satClear_clears h k x, ?_, fun s => ⟨drainNode_joining, drainNode_drained, drainNode_serving⟩, ?_, ?_, ?_⟩
  · intro c op s hmem
    obtain ⟨run, hrun⟩ := exec_fwReadOrAct hmem s
    exact ⟨fun h => hrun.trans (congrArg Host.Outcome.next (fwRun_idle h)),
      fun l st h hg => hrun.trans (congrArg Host.Outcome.next (fwRun_refused h hg))⟩
  · intro c op l s hmem h hg u hl
    obtain ⟨f, hf⟩ := exec_fwOfSeq hmem s
    exact hf.trans (congrArg Host.Outcome.next ((fwRun_passed h hg).trans (onSeq_absent hl)))
  · intro l k s u hl
    have hanswers {op : Nat} {f : Latched → Nat → State → Nat × Bytes × State} {st : Nat} {r : Bytes} {v : State} (hf : f l k u = (st, r, v))
        (h : fwCmd s op = some l) (hg : fwGate s op l.req = none) :
        (.next (fwRun op (fun l s => onSeq l.req (f l) s) s) : Host.Outcome State Fault Refusal) = .next (answerFw st r v) :=
      congrArg Host.Outcome.next ((fwRun_passed (run := fun l s => onSeq l.req (f l) s) h hg).trans (onSeq_found hl hf))
    exact ⟨hanswers rfl, hanswers rfl, hanswers rfl, hanswers rfl⟩
  · intro l s
    have hpassed {op : Nat} {run : Latched → State → State} (h : fwCmd s op = some l) (hg : fwGate s op l.req = none) :
        (.next (fwRun op run s) : Host.Outcome State Fault Refusal) = .next (run l s) := congrArg Host.Outcome.next (fwRun_passed h hg)
    exact ⟨hpassed, hpassed, hpassed, hpassed, execChipReset_passed⟩
  · intro l s h hg t b
    exact ⟨fun st hr => execAction_refused h hg hr, execAction_full h hg, execAction_begun h hg⟩
  · intro x code n b s
    refine ⟨fun h => ?_, fun h => ⟨fwSluDo_post h, fwSluDo_cancel h, fwSluDo_rearm h⟩⟩
    rw [fwSluDo_malformed h]
    exact ⟨rfl, rfl⟩
  · intro l s h hg x code r
    exact congrArg Host.Outcome.next (fwRun_passed h hg)

end Sys2Proof.Proofs

/-! PROOF. The tier policy: AUTO_DEMOTE, BACKING_DROP, STAGING_WRITEBACK and STRIPE_COPY (05 R112, R123, R124; 03 R67). -/

namespace Sys2Proof.Proofs

open Sys2Proof.Machine Sys2Proof.Laws

/-! ## Tensors as they are written, and the page tables beside them -/

theorem tput_ne_nil {α : Type} (t : Tbl α) (k : Nat) (v : α) : tput t k v ≠ [] := by
  intro h
  have hk := tlook_tput t k v
  rw [h] at hk
  exact absurd hk (by simp [tlook])

section setTen
variable {slot ti : Nat} {t : Ten} (h : t ≠ {}) (s : State)
include h

/-- A tensor in use makes its entry one in use. -/
theorem seqOf_setTen : seqOf (setTen slot ti t s) slot = { seqOf s slot with ten := tput (seqOf s slot).ten ti t } := by
  have hten : tset {} (seqOf s slot).ten ti t = tput (seqOf s slot).ten ti t := tset_ne h _ _
  have hne : { seqOf s slot with ten := tput (seqOf s slot).ten ti t } ≠ ({} : Seq) := fun heq => tput_ne_nil _ _ _ (congrArg Seq.ten heq)
  change seqOf (setSeq slot { seqOf s slot with ten := tset {} (seqOf s slot).ten ti t } s) slot = _
  rw [hten]
  exact seqOf_setSeq_self hne slot s

theorem tenOf_setTen : tenOf (seqOf (setTen slot ti t s) slot) ti = t := by
  rw [seqOf_setTen h]
  exact tget_tput _ _ _ _

end setTen

theorem tenOf_congr {s t : State} (h : t.dir = s.dir) (slot ti : Nat) : tenOf (seqOf t slot) ti = tenOf (seqOf s slot) ti := by
  rw [seqOf_congr h]

theorem ten_ne_default {t : Ten} (h : t.st ≠ .absent) : t ≠ {} := fun heq => h (congrArg Ten.st heq)

/-- A walk reads the tables' bytes, the configuration and the entry's root and shape alone. -/
theorem leafOf_congr {s t : State} {slot : Nat} (hfast : t.mem.fast = s.mem.fast) (hcfg : t.cfg = s.cfg)
    (hroot : (seqOf t slot).root = (seqOf s slot).root) (hdesc : (seqOf t slot).desc = (seqOf s slot).desc) (ti idx : Nat) :
    leafOf t slot ti idx = leafOf s slot ti idx := by
  have hentry : entryAt t = entryAt s := funext fun a => by
    unfold entryAt
    rw [hfast]
  have hbeyond : nodeBeyond t = nodeBeyond s := funext fun a => by
    unfold nodeBeyond localTop rangesOf
    rw [hcfg]
  simp only [leafOf, walk, walkBy, hentry, hbeyond, hroot, hdesc]

/-! ## AUTO_DEMOTE -/

section autoList
variable {r want have_ slot ti : Nat} {l : List (Nat × Nat)} {s u : State}

theorem autoList_enough (h : want ≤ have_) : autoList r want l have_ s = (have_, s) := by
  cases l with
  | nil => rfl
  | cons e l => exact if_pos h

variable (h : have_ < want)
include h

theorem autoList_passes (hn : tensorFrees s slot ti r = 0 ∨ autoOne slot ti s = none) :
    autoList r want ((slot, ti) :: l) have_ s = autoList r want l have_ s := by
  refine (if_neg (Nat.not_le.2 h)).trans ?_
  split
  · rfl
  · next hfrees => rw [hn.resolve_left hfrees]

theorem autoList_demotes (hn : tensorFrees s slot ti r ≠ 0) (ho : autoOne slot ti s = some u) :
    autoList r want ((slot, ti) :: l) have_ s = autoList r want l (have_ + tensorFrees s slot ti r) u := by
  refine (if_neg (Nat.not_le.2 h)).trans ((if_neg hn).trans ?_)
  rw [ho]

end autoList

/-- A tensor demoted by the policy begins to move down, and one event is logged in its directory region's ring (R112). -/
theorem autoOne_moves {slot ti : Nat} {s u : State} (h : autoOne slot ti s = some u) :
    (tenOf (seqOf u slot) ti).st = .migrating ∧ (tenOf (seqOf u slot) ti).toDeep = true ∧
    logSeq u (ringRegion (dirRegion slot)) = nextSeq (logSeq s (ringRegion (dirRegion slot))) ∧ u.catchment = s.catchment := by
  obtain ⟨v, hv, rfl⟩ := Option.map_eq_some_iff.1 h
  have hback : Frame [.cnt, .mem, .sto, .dir] s v := (backTensor_frame slot ti (Frame.refl _ s) rfl).out v hv
  simp only
  generalize hw : count _ _ = w
  have hstart : Frame [.dir, .work] w (startMig slot ti true none [] w) := startMig_frame slot ti true none [] (Frame.refl _ w) rfl
  obtain ⟨hmoves, hdown, -⟩ := startMig_started slot ti true none [] w
  refine ⟨hmoves, hdown, ?_, ?_⟩
  · have hlog : logSeq w (ringRegion (dirRegion slot)) = nextSeq (logSeq v (ringRegion (dirRegion slot))) := by
      subst hw
      exact tget_tset_self (nextSeq_ne _) _ _
    have hsame {a b : State} (hab : b.log = a.log) : logSeq b (ringRegion (dirRegion slot)) = logSeq a (ringRegion (dirRegion slot)) := by
      unfold logSeq
      rw [hab]
    rw [hsame (hstart.same .log (by decide)), hlog, hsame (hback.same .log (by decide))]
  · subst hw
    exact (hstart.same .catchment (by decide)).trans (hback.same .catchment (by decide))

section autoDemote
variable {r : Fin 16} {s : State}

theorem execAutoDemote_idle (h : ready s = false ∨ (rgnOf s r).fenced = true ∨
    localBytes s r * (s.cfg.img.map (·.fastLow)).getD 4 ≤ 100 * localFree s r) : exec (.autoDemote r) s = .next s :=
  congrArg Host.Outcome.next (if_pos h)

variable (hready : ready s = true) (hf : (rgnOf s r).fenced = false)
  (hlow : 100 * localFree s r < localBytes s r * (s.cfg.img.map (·.fastLow)).getD 4)
include hready hf hlow

/-- Below FAST_LOW the list is worked off; FAST_PINNED_FULL is raised where pinned tensors alone would still free room (R112). -/
theorem execAutoDemote_low : let want := localBytes s r * 8 / 100
    let u := autoList r want (fastTensors s 2 ++ fastTensors s 0) (localFree s r + goingDown s r) s
    exec (.autoDemote r) s = .next (if u.1 < want ∧ anyFrees u.2 r [1] = true ∧ anyFrees u.2 r [0, 2] = false then
      raise (leafFastPinnedFull r) [] u.2 else u.2) := by
  refine congrArg Host.Outcome.next (if_neg ?_)
  rw [hready]
  rintro (h | h | h)
  · exact Bool.noConfusion h
  · exact Bool.false_ne_true (hf.symm.trans h)
  · omega

end autoDemote

/-! ## BACKING_DROP -/

section backingDrop
variable {s : State}

theorem execBackingDrop_idle (h : (∀ p, p < 4 → (tierOf s p).inService = false) ∨ ready s = false ∨
    (∃ p, p < 4 ∧ (tierOf s p).inService = true ∧ deepBelow s p 2 = false)) : exec .backingDrop s = .next s := by
  refine congrArg Host.Outcome.next (if_pos ?_)
  rcases h with h | h | ⟨p, hp, hup, hroom⟩
  · refine .inl (List.isEmpty_iff.2 (List.filter_eq_nil_iff.2 fun p hp => ?_))
    exact fun hup => Bool.false_ne_true ((h p (List.mem_range.1 hp)).symm.trans hup)
  · exact .inr (.inl h)
  · refine .inr (.inr (List.all_eq_false.2 ⟨p, List.mem_filter.2 ⟨List.mem_range.2 hp, hup⟩, ?_⟩))
    simp [hroom]

theorem execBackingDrop_drops (hready : ready s = true) (hup : ∃ p, p < 4 ∧ (tierOf s p).inService = true)
    (hlow : ∀ p, p < 4 → (tierOf s p).inService = true → deepBelow s p 2 = true) :
    exec .backingDrop s = .next ((fastBacked s).foldl (fun s t => dropClean t.1 t.2 s) s) := by
  refine congrArg Host.Outcome.next (if_neg ?_)
  rw [hready]
  rintro (h | h | h)
  · obtain ⟨p, hp, hin⟩ := hup
    have hmem : p ∈ (List.range 4).filter fun p => (tget {} s.tier p).inService := List.mem_filter.2 ⟨List.mem_range.2 hp, hin⟩
    rw [List.isEmpty_iff.1 h] at hmem
    exact absurd hmem List.not_mem_nil
  · exact Bool.noConfusion h
  · obtain ⟨p, hp, hroom⟩ := List.all_eq_false.1 h
    obtain ⟨hp, hin⟩ := List.mem_filter.1 hp
    exact hroom (hlow p (List.mem_range.1 hp) hin)

end backingDrop

theorem dropAllClean_frame (l : List (Nat × Nat)) (s : State) :
    Frame [.cnt, .sto, .dir] s (l.foldl (fun s t => dropClean t.1 t.2 s) s) :=
  frame_foldl (Frame.refl _ s) fun _ t h => dropClean_frame t.1 t.2 h rfl

/-- The drops visit each FAST tensor with a deep page table. -/
theorem mem_fastBacked (s : State) (slot ti : Nat) :
    (slot, ti) ∈ fastBacked s ↔ ∃ q t, (slot, q) ∈ s.dir ∧ (ti, t) ∈ q.ten ∧ t.st = .fast ∧ t.backed = true := by
  unfold fastBacked
  rw [List.mem_map]
  constructor
  · rintro ⟨⟨a, n⟩, he, rfl⟩
    obtain ⟨⟨slot', q⟩, hq, he⟩ := List.mem_flatMap.1 ((sortBy_perm _ _).mem_iff.1 he)
    obtain ⟨⟨ti', t⟩, ht, heq⟩ := List.mem_map.1 he
    obtain ⟨ht, hst⟩ := List.mem_filter.1 ht
    simp only [Prod.mk.injEq] at heq
    obtain ⟨⟨rfl, rfl⟩, -⟩ := heq
    exact ⟨q, t, hq, ht, by simpa using hst⟩
  · rintro ⟨q, t, hq, ht, hst⟩
    refine ⟨((slot, ti), t.lastQuery), (sortBy_perm _ _).mem_iff.2 (List.mem_flatMap.2 ⟨(slot, q), hq, List.mem_map.2 ⟨(ti, t), ?_, rfl⟩⟩), rfl⟩
    exact List.mem_filter.2 ⟨ht, by simpa using hst⟩

theorem dropFrame_dir (a : Nat) (s : State) : (dropFrame a s).dir = s.dir :=
  (dropFrame_frame (m := [.sto]) a (Frame.refl _ s) rfl).same .dir (by decide)

theorem dropDeep_dir (a : Nat) (s : State) : (dropDeep a s).dir = s.dir :=
  (dropDeep_frame (m := [.sto]) a (Frame.refl _ s) rfl).same .dir (by decide)

/-- A deep copy dropped leaves its tensor's record without it. -/
theorem tenOf_dropBacking {slot ti idx : Nat} {s : State} (hst : (tenOf (seqOf s slot) ti).st ≠ .absent) :
    tenOf (seqOf (dropBacking slot ti idx s) slot) ti = { tenOf (seqOf s slot) ti with deep := tdel (tenOf (seqOf s slot) ti).deep idx } := by
  have hne : { tenOf (seqOf s slot) ti with deep := tdel (tenOf (seqOf s slot) ti).deep idx } ≠ ({} : Ten) := ten_ne_default hst
  exact (tenOf_congr (dropDeep_dir _ _) slot ti).trans (tenOf_setTen hne s)

/-- A tensor with no deep copy left gives its deep page table back (R124). -/
theorem tenOf_unback {slot ti : Nat} {s : State} (hst : (tenOf (seqOf s slot) ti).st ≠ .absent) (hb : (tenOf (seqOf s slot) ti).backed = true)
    (hd : (tenOf (seqOf s slot) ti).deep = []) :
    tenOf (seqOf (unback slot ti s) slot) ti = { tenOf (seqOf s slot) ti with backed := false, deepTable := 0 } := by
  have hne : { tenOf (seqOf s slot) ti with backed := false, deepTable := 0 } ≠ ({} : Ten) := ten_ne_default hst
  have hunback : unback slot ti s = dropFrame (tenOf (seqOf s slot) ti).deepTable
      (setTen slot ti { tenOf (seqOf s slot) ti with backed := false, deepTable := 0 } s) := if_pos (by rw [hb, hd]; rfl)
  rw [hunback, tenOf_congr (dropFrame_dir _ _), tenOf_setTen hne]

section dropClean
variable {slot ti idx : Nat} {d : DeepEnt} {s : State} (h : (tenOf (seqOf s slot) ti).deep = [(idx, d)])
include h

theorem dropClean_dirty (hd : d.valid = false ∨ d.dirty = true) : dropClean slot ti s = s := by
  refine if_pos ?_
  rw [h]
  obtain hd | hd := hd <;> simp [hd]

/-- The last clean copy dropped takes the tensor's deep page table with it (R124). -/
theorem dropClean_clean (hv : d.valid = true) (hc : d.dirty = false) (hlow : deepBelow s d.port 4 = true)
    (hst : (tenOf (seqOf s slot) ti).st = .fast) (hb : (tenOf (seqOf s slot) ti).backed = true) : let t := dropClean slot ti s
    (tenOf (seqOf t slot) ti).deep = [] ∧ (tenOf (seqOf t slot) ti).backed = false ∧ (tenOf (seqOf t slot) ti).st = .fast := by
  have hdrop : dropClean slot ti s = unback slot ti (dropBacking slot ti idx s) :=
    (if_neg (by simp [h, hv, hc])).trans (by simp [h, hv, hc, hlow])
  have hgone : tenOf (seqOf (dropBacking slot ti idx s) slot) ti = { tenOf (seqOf s slot) ti with deep := [] } := by
    rw [tenOf_dropBacking (by simp [hst]), h]
    simp [tdel]
  have hlast : tenOf (seqOf (dropClean slot ti s) slot) ti =
      { tenOf (seqOf s slot) ti with deep := [], backed := false, deepTable := 0 } := by
    rw [hdrop, tenOf_unback (by simp [hgone, hst]) (by simp [hgone, hb]) (by simp [hgone]), hgone]
  intro t
  rw [hlast]
  exact ⟨rfl, rfl, hst⟩

end dropClean

/-! ## STAGING_WRITEBACK -/

/-- A copy that may be read has its frame in range, and the read moved nothing but the channels' codes and counts (04 R93). -/
theorem copyRead_clean {slot ti idx e : Nat} {s v : State} (h : copyRead slot ti idx e s = (true, v)) :
    leafBeyond s e = false ∧ Frame [.catchment, .log, .cnt, .chan, .free] s v := by
  unfold copyRead at h
  split at h
  · exact absurd (Prod.mk.inj h).1 (by decide)
  · next hb =>
    refine ⟨by simpa using hb, ?_⟩
    split at h
    · next w hread =>
      obtain ⟨-, rfl⟩ := Prod.mk.inj h
      have hframe := readFree_frame (m := [.catchment, .log, .cnt, .chan, .free]) (.page slot ti idx) (ownChunks s slot ti idx e) (Frame.refl _ s) rfl
      rw [hread] at hframe
      exact hframe.snd
    · exact absurd (Prod.mk.inj h).1 (by decide)
    · exact absurd (Prod.mk.inj h).1 (by decide)

/-- A tensor whose page has a clean deep copy at `a`. -/
def withDeepCopy (t : Ten) (idx a : Nat) : Ten :=
  { t with deep := tset {} t.deep idx { valid := true, dirty := false, port := a / 2 ^ 41, dpa := a % 2 ^ 41 } }

theorem deepEnt_withDeepCopy (t : Ten) (idx a : Nat) :
    deepEnt (withDeepCopy t idx a) idx = { valid := true, dirty := false, port := a / 2 ^ 41, dpa := a % 2 ^ 41 } := by
  have hne : { valid := true, dirty := false, port := a / 2 ^ 41, dpa := a % 2 ^ 41 } ≠ ({} : DeepEnt) :=
    fun heq => Bool.false_ne_true (congrArg DeepEnt.valid heq).symm
  exact tget_tset_self hne _ _

section copyDown
variable {slot ti idx e : Nat} {v : State} (hd : (deepEnt (tenOf (seqOf v slot) ti) idx).valid = false)
include hd

theorem copyDown_full (h : findDeep v (leafFrame e / 2 ^ 40) (dPageSize (seqOf v slot).desc) = none) : copyDown slot ti idx e v = none := by
  unfold copyDown
  simp only [hd, h, Bool.false_eq_true, if_false, Option.map_none]

variable {a : Nat} {moved : Bool} (h : findDeep v (leafFrame e / 2 ^ 40) (dPageSize (seqOf v slot).desc) = some (a, moved))
include h

/-- A page without a deep copy takes a free deep page, writes its bytes there and enters the copy (R119). -/
theorem copyDown_eq : ∃ w bytes, copyDown slot ti idx e v = some (setTen slot ti (withDeepCopy (tenOf (seqOf v slot) ti) idx a) (writeDeep a bytes w)) ∧
    Frame [.sto, .cnt] v w ∧ (leafDelta e = false → bytes = memRead v.mem.fast (leafFrame e) (dPageSize (seqOf v slot).desc)) := by
  let took := useDeep a (dPageSize (seqOf v slot).desc) (seqOf v slot).tenant (.page slot ti idx) v
  let w := if moved then count (rgnCntOff (leafFrame e / 2 ^ 40) 4) took else took
  have hw : Frame [.sto, .cnt] v w := frame_ite
    (fun _ => count_frame _ (useDeep_frame _ _ _ _ (Frame.refl _ v) rfl) rfl) fun _ => useDeep_frame _ _ _ _ (Frame.refl _ v) rfl
  let bytes := if leafDelta e then codedBytes w (tenOf (seqOf v slot) ti) idx (leafFrame e)
    else memRead w.mem.fast (leafFrame e) (dPageSize (seqOf v slot).desc)
  refine ⟨w, bytes, ?_, hw, fun hplain => ?_⟩
  · have hseq : seqOf (writeDeep a bytes w) slot = seqOf v slot := seqOf_congr (hw.same .dir (by decide)) slot
    unfold withDeepCopy
    rw [← hseq]
    unfold copyDown
    simp only [hd, h, Bool.false_eq_true, if_false, Option.map_some]
    rw [hseq]
  · have hmem : w.mem = v.mem := hw.same .mem (by decide)
    simp only [bytes, hplain, hmem, Bool.false_eq_true, if_false]

/-- The copy leaves the page's leaf and the fast tier as they were. -/
theorem copyDown_placed (hst : (tenOf (seqOf v slot) ti).st ≠ .absent) : ∃ u, copyDown slot ti idx e v = some u ∧
    deepEnt (tenOf (seqOf u slot) ti) idx = { valid := true, dirty := false, port := a / 2 ^ 41, dpa := a % 2 ^ 41 } ∧
    u.mem.fast = v.mem.fast ∧ leafOf u slot ti idx = leafOf v slot ti idx ∧
    (leafDelta e = false → u.mem = (writeDeep a (memRead v.mem.fast (leafFrame e) (dPageSize (seqOf v slot).desc)) v).mem) := by
  obtain ⟨w, bytes, hcopy, hw, hbytes⟩ := copyDown_eq hd h
  have hne : withDeepCopy (tenOf (seqOf v slot) ti) idx a ≠ {} := ten_ne_default hst
  have hseq : seqOf (writeDeep a bytes w) slot = seqOf v slot := seqOf_congr (hw.same .dir (by decide)) slot
  have hmem : w.mem = v.mem := hw.same .mem (by decide)
  have hfast : (setTen slot ti (withDeepCopy (tenOf (seqOf v slot) ti) idx a) (writeDeep a bytes w)).mem.fast = v.mem.fast :=
    (congrArg Mems.fast hmem :)
  refine ⟨_, hcopy, ?_, hfast, leafOf_congr hfast (hw.same .cfg (by decide)) ?_ ?_ ti idx, fun hplain => ?_⟩
  · rw [tenOf_setTen hne]
    exact deepEnt_withDeepCopy _ idx a
  · rw [seqOf_setTen hne, hseq]
  · rw [seqOf_setTen hne, hseq]
  · rw [← hbytes hplain]
    exact congrArg (fun m : Mems => { m with deep := memWrite m.deep a bytes }) hmem

end copyDown

section stagingWriteback
variable {page : PageId} {slot ti idx e : Nat} {s v : State} (hpage : pageOf s page = some (slot, ti, idx))
include hpage

theorem execStagingWriteback_idle
    (h : (tenOf (seqOf s slot) ti).st ≠ .deep ∨ (deepEnt (tenOf (seqOf s slot) ti) idx).valid = true) : exec (.stagingWriteback page) s = .next s := by
  change execStagingWriteback page s = _
  unfold execStagingWriteback
  simp only [hpage]
  split
  · rfl
  · rw [if_neg]
    rintro ⟨hst, -, hv⟩
    obtain h | h := h
    · exact h hst
    · exact Bool.false_ne_true (hv.symm.trans h)

variable (hleaf : leafOf s slot ti idx = .leaf e) (hst : (tenOf (seqOf s slot) ti).st = .deep)
  (hfull : pageBelow (seqOf s slot).desc idx (seqOf s slot).committed = true) (hd : (deepEnt (tenOf (seqOf s slot) ti) idx).valid = false)
include hleaf hst hfull hd

theorem execStagingWriteback_unread (hread : copyRead slot ti idx e s = (false, v)) : exec (.stagingWriteback page) s = .next v := by
  change execStagingWriteback page s = _
  unfold execStagingWriteback
  simp only [hpage, hleaf, hst, hfull, hd, and_self, if_true, hread]

theorem execStagingWriteback_full (hread : copyRead slot ti idx e s = (true, v)) (hc : copyDown slot ti idx e v = none) :
    exec (.stagingWriteback page) s = .next v := by
  change execStagingWriteback page s = _
  unfold execStagingWriteback
  simp only [hpage, hleaf, hst, hfull, hd, and_self, if_true, hread, hc]

theorem execStagingWriteback_copied (hread : copyRead slot ti idx e s = (true, v)) {u : State} (hc : copyDown slot ti idx e v = some u) :
    exec (.stagingWriteback page) s = .next (giveUpFast slot ti idx e u) := by
  change execStagingWriteback page s = _
  unfold execStagingWriteback
  simp only [hpage, hleaf, hst, hfull, hd, and_self, if_true, hread, hc]

end stagingWriteback

/-! ## STRIPE_COPY -/

section stripeCopy
variable {page : PageId} {slot ti idx e : Nat} {s v : State} (hpage : pageOf s page = some (slot, ti, idx))
include hpage

theorem execStripeCopy_noFrame
    (h : findStriped s (homeOf (seqOf s slot).desc slot ti idx) (dPageSize (seqOf s slot).desc) (dLineCode (seqOf s slot).desc) = none) :
    exec (.stripeCopy page) s = .next s := by
  change execStripeCopy page s = _
  unfold execStripeCopy
  simp only [hpage, h]
  cases leafOf s slot ti idx <;> rfl

theorem execStripeCopy_idle (h : dStripeFull (seqOf s slot).desc = false ∨ (seqOf s slot).st ≠ .active ∨ (tenOf (seqOf s slot) ti).st ≠ .fast) :
    exec (.stripeCopy page) s = .next s := by
  change execStripeCopy page s = _
  unfold execStripeCopy
  simp only [hpage]
  split
  · rw [if_neg]
    rintro ⟨hstripe, hactive, hfast, -⟩
    obtain h | h | h := h
    · exact Bool.false_ne_true (h.symm.trans hstripe)
    · exact h hactive
    · exact h hfast
  · rfl

variable {a r : Nat} {aliased : Bool} (hleaf : leafOf s slot ti idx = .leaf e)
  (hfound : findStriped s (homeOf (seqOf s slot).desc slot ti idx) (dPageSize (seqOf s slot).desc) (dLineCode (seqOf s slot).desc) =
    some (a, r, aliased))
  (hstripe : dStripeFull (seqOf s slot).desc = true) (hactive : (seqOf s slot).st = .active) (hfast : (tenOf (seqOf s slot) ti).st = .fast)
  (hlocal : leafLocal e = true) (hplain : leafDelta e = false) (hfull : pageBelow (seqOf s slot).desc idx (seqOf s slot).committed = true)
include hleaf hfound hstripe hactive hfast hlocal hplain hfull

theorem execStripeCopy_unread (hread : copyRead slot ti idx e s = (false, v)) : exec (.stripeCopy page) s = .next v := by
  change execStripeCopy page s = _
  unfold execStripeCopy
  simp only [hpage, hleaf, hfound, hstripe, hactive, hfast, hlocal, hplain, hfull, and_self, if_true, hread]

theorem execStripeCopy_moves (hread : copyRead slot ti idx e s = (true, v)) : let q := seqOf s slot
    let took := useFast a (dPageSize q.desc) q.tenant (.page slot ti idx) v
    let moved := if r ≠ homeOf q.desc slot ti idx then count (rgnCntOff (homeOf q.desc slot ti idx) 1) took else took
    let u := if aliased then count (rgnCntOff r 3) moved else moved
    exec (.stripeCopy page) s = .next (changeLeaf slot ti idx (mkLeaf a false false)
      (writeFastFor q.tenant a (pageFast v q.tenant (leafFrame e) (dPageSize q.desc)) u)) := by
  change execStripeCopy page s = _
  unfold execStripeCopy
  simp only [hpage, hleaf, hfound, hstripe, hactive, hfast, hlocal, hplain, hfull, and_self, if_true, hread]

end stripeCopy

theorem execTierPage_absent {page : PageId} {s : State} (h : pageOf s page = none) :
    exec (.stagingWriteback page) s = .next s ∧ exec (.stripeCopy page) s = .next s := by
  constructor
  · change execStagingWriteback page s = _
    simp only [execStagingWriteback, h]
  · change execStripeCopy page s = _
    simp only [execStripeCopy, h]

/-- Settles O38: by the lists that the policy works off, and by what a page's read and copy leave. -/
theorem tierPolicyActs : Obligations.TierPolicyActs := by
  unfold Obligations.TierPolicyActs
  refine ⟨?_, fun r want have_ l s h => autoList_enough h, fun r want have_ slot ti l s h => ⟨autoList_passes h, fun u => autoList_demotes h⟩,
    fun slot ti s u h => autoOne_moves h, fun s h => execBackingDrop_idle h, fun s hready hup hlow => ⟨execBackingDrop_drops hready hup hlow,
      (dropAllClean_frame (fastBacked s) s).same .mem (by decide), (dropAllClean_frame (fastBacked s) s).same .work (by decide)⟩,
    mem_fastBacked, fun slot ti idx d s h => ⟨dropClean_dirty h, dropClean_clean h⟩, ?_, ?_,
    fun page slot ti idx s hpage h => execStagingWriteback_idle hpage h, ?_, fun page slot ti idx s hpage h => execStripeCopy_noFrame hpage h,
    fun page slot ti idx s hpage h => execStripeCopy_idle hpage h, fun page s h => execTierPage_absent h⟩
  · intro r s have_ mine low want u
    refine ⟨execAutoDemote_idle, fun hready hf hlow => ?_⟩
    have hexec := execAutoDemote_low hready hf hlow
    refine ⟨fun h => hexec.trans (congrArg Host.Outcome.next (if_neg ?_)), fun hwant hpinned hfree =>
      hexec.trans (congrArg Host.Outcome.next (if_pos ⟨hwant, hpinned, hfree⟩))⟩
    rintro ⟨hwant, hpinned, hfree⟩
    obtain h | h | h := h
    · exact Nat.not_lt.2 h hwant
    · exact Bool.false_ne_true (h.symm.trans hpinned)
    · exact Bool.false_ne_true (hfree.symm.trans h)
  · intro page slot ti idx e s hpage hleaf hst hfull hd name
    refine ⟨fun v hread => execStagingWriteback_unread hpage hleaf hst hfull hd hread, fun v hread => ?_⟩
    obtain ⟨-, hframe⟩ := copyRead_clean hread
    have hseq : seqOf v slot = seqOf s slot := seqOf_congr (hframe.same .dir (by decide)) slot
    have hmem : v.mem = s.mem := hframe.same .mem (by decide)
    have hleaf' : leafOf v slot ti idx = .leaf e :=
      (leafOf_congr (congrArg Mems.fast hmem) (hframe.same .cfg (by decide)) (by rw [hseq]) (by rw [hseq]) ti idx).trans hleaf
    rw [← hseq] at hd hst ⊢
    refine ⟨fun hfind => execStagingWriteback_full hpage hleaf (hseq ▸ hst) hfull (hseq ▸ hd) hread (copyDown_full hd hfind), fun a moved hfind => ?_⟩
    obtain ⟨u, hcopy, hent, hfast, hsame, hbytes⟩ := copyDown_placed hd hfind (by rw [hst]; decide)
    refine ⟨u, execStagingWriteback_copied hpage hleaf (hseq ▸ hst) hfull (hseq ▸ hd) hread hcopy, hent, hfast.trans (congrArg Mems.fast hmem),
      hsame.trans hleaf', fun hplain => ?_⟩
    rw [hbytes hplain, hmem]
    exact congrArg (fun m : Mems => { m with deep := memWrite m.deep a (memRead s.mem.fast name (dPageSize (seqOf v slot).desc)) }) hmem
  · intro slot ti idx e s v h
    obtain ⟨hbeyond, hframe⟩ := copyRead_clean h
    exact ⟨hbeyond, hframe.same .mem (by decide), hframe.same .dir (by decide), hframe.same .sto (by decide), hframe.same .work (by decide)⟩
  · intro page slot ti idx e a r aliased s hpage q hleaf hfound hstripe hactive hfast hlocal hplain hfull
    exact ⟨fun v hread => execStripeCopy_unread hpage hleaf hfound hstripe hactive hfast hlocal hplain hfull hread,
      fun v hread => execStripeCopy_moves hpage hleaf hfound hstripe hactive hfast hlocal hplain hfull hread⟩

end Sys2Proof.Proofs

/-! PROOF. Rewrites of tensors and changes of leaves: REWRITE in its modes, DELTA_PAGE_CONVERT and LEAF_UPDATE (03 R62; 06 R139; 10 R221, R222). -/

namespace Sys2Proof.Proofs

open Sys2Proof.Machine Sys2Proof.Laws

/-! ## REWRITE in REQUANT mode -/

section rewriteState
variable {slot ti tenant : Nat} {who : Who} {s : State}

theorem rewriteState_absent (h : (tenOf (seqOf s slot) ti).st = .absent) : rewriteState slot ti tenant s who = (some stNoPage, s) := by
  unfold rewriteState
  rw [h]

theorem rewriteState_fast (h : (tenOf (seqOf s slot) ti).st = .fast) : rewriteState slot ti tenant s who = (none, s) := by
  unfold rewriteState
  rw [h]

theorem rewriteState_conflict (habsent : (tenOf (seqOf s slot) ti).st ≠ .absent) (hfast : (tenOf (seqOf s slot) ti).st ≠ .fast) :
    rewriteState slot ti tenant s who = (some stStateConflict, refuseTen slot tenant ti 0xD s who) := by
  unfold rewriteState
  split
  · next h => exact absurd h habsent
  · next h => exact absurd h hfast
  · rfl

end rewriteState

theorem execRewrite_idle {inst : Nat} {s : State} (h : startedAct s inst 0xD = none) :
    exec (.rewriteRequant inst) s = .next s ∧ exec (.rewriteDelta inst) s = .next s := by
  constructor
  · change execRewriteRequant inst s = _
    simp only [execRewriteRequant, h]
  · change execRewriteDelta inst s = _
    simp only [execRewriteDelta, h]

theorem execRewriteRequant_started {inst k : Nat} {x : Inst} {p : Bytes} {s t : State} (h : startedAct s inst 0xD = some (x, k, p))
    (hmode : bitAt (rd p 0 1) 0 = false) (ht : requantDo x inst k p s = t) : exec (.rewriteRequant inst) s = .next t := by
  subst ht
  change execRewriteRequant inst s = _
  unfold execRewriteRequant
  simp only [h, hmode, Bool.false_eq_true, if_false]

section requant
variable {x : Inst} {inst k slot : Nat} {p : Bytes} {s v : State}

/-- The tensor that a REQUANT names. -/
def requantTen (p : Bytes) : Nat := rd p 16 1 * 4 + bits (rd p 17 1) 1 0

variable (hl : lookSeq x.tenant (rd p 8 8) s = (some slot, v))
include hl

theorem requantDo_inactive (hst : (seqOf v slot).st ≠ .active) :
    requantDo x inst k p s = actEnd inst k stStateConflict (refuseSeq slot x.tenant 0xD v (whoOf x.msg)) := by
  unfold requantDo
  rw [hl]
  exact if_pos hst

variable (hst : (seqOf v slot).st = .active)
include hst

theorem requantDo_loading (hu : underLoad v slot = true) : requantDo x inst k p s = actEnd inst k stRetry (countTenant x.tenant 0x30 v) := by
  unfold requantDo
  rw [hl]
  exact (if_neg (fun hn => hn hst)).trans (if_pos hu)

variable (hu : underLoad v slot = false)
include hu

theorem requantDo_malformed (hb : 2 ≤ requantTen p % 4 ∨ (scaleOf (seqOf v slot).desc (requantTen p % 4)).isSome = true) :
    requantDo x inst k p s = actEnd inst k stMalformed v := by
  unfold requantDo
  rw [hl]
  exact (if_neg (fun hn => hn hst)).trans ((if_neg (by simp [hu])).trans (if_pos hb))

variable (hkind : requantTen p % 4 < 2) (hscale : (scaleOf (seqOf v slot).desc (requantTen p % 4)).isSome = false)
include hkind hscale

theorem requantDo_refused {st : Nat} {u : State} (hr : rewriteState slot (requantTen p) x.tenant v (whoOf x.msg) = (some st, u)) :
    requantDo x inst k p s = actEnd inst k st u := by
  unfold requantTen at hkind hscale hr
  unfold requantDo
  rw [hl]
  refine (if_neg (fun hn => hn hst)).trans ((if_neg (by simp [hu])).trans ((if_neg (fun hn => hn.elim (Nat.not_le.2 hkind)
    fun hs => Bool.false_ne_true (hscale.symm.trans hs))).trans ?_))
  simp only [hr]

variable (hfast : (tenOf (seqOf v slot) (requantTen p)).st = .fast)
include hfast

theorem requantDo_program {st : Nat} {u : State} (hg : progCheck x.tenant (rd p 2 1) (rd p 4 2) 0xD v (whoOf x.msg) = (some st, u)) :
    requantDo x inst k p s = actEnd inst k st u := by
  have hr := rewriteState_fast (tenant := x.tenant) (who := whoOf x.msg) hfast
  unfold requantTen at hkind hscale hr
  unfold requantDo
  rw [hl]
  refine (if_neg (fun hn => hn hst)).trans ((if_neg (by simp [hu])).trans ((if_neg (fun hn => hn.elim (Nat.not_le.2 hkind)
    fun hs => Bool.false_ne_true (hscale.symm.trans hs))).trans ?_))
  simp only [hr, hg]

theorem requantDo_starts {u : State} (hg : progCheck x.tenant (rd p 2 1) (rd p 4 2) 0xD v (whoOf x.msg) = (none, u)) :
    requantDo x inst k p s =
      if ftFmt (progOf u (rd p 2 1)).image (requantTen p % 4) ≠ dFmt (seqOf v slot).desc (requantTen p % 4) then actEnd inst k stMalformed u
      else rewriteStart slot (requantTen p) inst k { mode := .requant, inst := inst, todo := [], program := rd p 2 1 } u := by
  have hr := rewriteState_fast (tenant := x.tenant) (who := whoOf x.msg) hfast
  unfold requantTen at hkind hscale hr ⊢
  unfold requantDo
  rw [hl]
  refine (if_neg (fun hn => hn hst)).trans ((if_neg (by simp [hu])).trans ((if_neg (fun hn => hn.elim (Nat.not_le.2 hkind)
    fun hs => Bool.false_ne_true (hscale.symm.trans hs))).trans ?_))
  simp only [hr, hg]

end requant

/-! ## REWRITE in DELTA mode -/

theorem execRewriteDelta_started {inst k : Nat} {x : Inst} {p : Bytes} {s t : State} (h : startedAct s inst 0xD = some (x, k, p))
    (hmode : bitAt (rd p 0 1) 0 = true) (ht : rewriteDeltaDo x inst k p s = t) : exec (.rewriteDelta inst) s = .next t := by
  subst ht
  change execRewriteDelta inst s = _
  unfold execRewriteDelta
  simp only [h, hmode, if_true]

section baseCheck
variable {x : Inst} {d : Bytes} {tag b : Nat} {w v : State} (h : lookSeq x.tenant tag w = (some b, v))
include h

theorem baseCheck_access (hd : dDeltaOk d = false ∨ dProtected (seqOf v b).desc = true) : baseCheck x d tag w = (.inl stAccess, v) := by
  unfold baseCheck
  rw [h]
  exact if_pos (by obtain hd | hd := hd <;> simp [hd])

variable (hok : dDeltaOk d = true) (hprot : dProtected (seqOf v b).desc = false)
include hok hprot

theorem baseCheck_malformed (hagree : descAgree d (seqOf v b).desc = false) : baseCheck x d tag w = (.inl stMalformed, v) := by
  unfold baseCheck
  rw [h]
  exact (if_neg (by simp [hok, hprot])).trans (if_pos (by simp [hagree]))

theorem baseCheck_passed (hagree : descAgree d (seqOf v b).desc = true) (hst : (seqOf v b).st = .active) :
    baseCheck x d tag w = (.inr b, v) := by
  unfold baseCheck
  rw [h]
  exact (if_neg (by simp [hok, hprot])).trans ((if_neg (by simp [hagree])).trans (if_neg (fun hn => hn hst)))

end baseCheck

section rewriteDelta
variable {x : Inst} {inst k slot : Nat} {p : Bytes} {s w v : State}

/-- The tensor that a REWRITE in DELTA mode names. -/
def deltaTen (p : Bytes) : Nat := rd p 24 1 * 4 + bits (rd p 25 1) 1 0

variable (hl : lookSeq x.tenant (rd p 8 8) s = (some slot, w))
include hl

theorem rewriteDeltaDo_decodes (hdec : bitAt (rd p 25 1) 2 = true) (hok : dDeltaOk (seqOf w slot).desc = true) (hst : (seqOf w slot).st = .active)
    (hfast : (tenOf (seqOf w slot) (deltaTen p)).st = .fast) : rewriteDeltaDo x inst k p s =
      rewriteStart slot (deltaTen p) inst k { mode := .deltaDec, inst := inst, todo := [], base := 0 } w := by
  have hr := rewriteState_fast (tenant := x.tenant) (who := whoOf x.msg) hfast
  unfold deltaTen at hr ⊢
  unfold rewriteDeltaDo
  rw [hl]
  simp only [hdec, hok, if_true]
  refine (if_neg (fun hn => hn hst)).trans ?_
  simp only [hr]

variable (henc : bitAt (rd p 25 1) 2 = false)
include henc

theorem rewriteDeltaDo_refused {st : Nat} (hb : baseCheck x (seqOf w slot).desc (rd p 16 8) w = (.inl st, v)) :
    rewriteDeltaDo x inst k p s = actEnd inst k st v := by
  unfold rewriteDeltaDo
  rw [hl]
  simp only [henc, Bool.false_eq_true, if_false, hb]

theorem rewriteDeltaDo_encodes {b : Nat} (hb : baseCheck x (seqOf w slot).desc (rd p 16 8) w = (.inr b, v)) (hst : (seqOf w slot).st = .active)
    (hfast : (tenOf (seqOf v slot) (deltaTen p)).st = .fast) : rewriteDeltaDo x inst k p s =
      rewriteStart slot (deltaTen p) inst k { mode := .deltaEnc, inst := inst, todo := [], base := b } v := by
  have hr := rewriteState_fast (tenant := x.tenant) (who := whoOf x.msg) hfast
  unfold deltaTen at hr ⊢
  unfold rewriteDeltaDo
  rw [hl]
  simp only [henc, Bool.false_eq_true, if_false, hb]
  refine (if_neg (fun hn => hn hst)).trans ?_
  simp only [hr]

end rewriteDelta

/-! ## DELTA_PAGE_CONVERT -/

/-- The key under which a tensor's rewrite is listed. -/
def rewriteKey (ten : TensorId) : Nat := tenKey ten.slot (ten.layer.val * 4 + ten.kind.val)

section deltaPageConvert
variable {ten : TensorId} {r : Rewrite} {s : State} (h : tlook s.work.rewrites (rewriteKey ten) = some r)
include h

theorem execDeltaPageConvert_idle (hm : r.mode ≠ .deltaEnc ∨ r.atUnit = true) : exec (.deltaPageConvert ten) s = .next s := by
  unfold rewriteKey at h
  change execDeltaPageConvert ten s = _
  unfold execDeltaPageConvert
  simp only [h]
  rw [if_pos hm]

variable (hmode : r.mode = .deltaEnc) (hunit : r.atUnit = false)
include hmode hunit

theorem execDeltaPageConvert_releasing (hst : (seqOf s ten.slot).st = .releasing) :
    exec (.deltaPageConvert ten) s = .next (rewriteEnd (rewriteKey ten) stOk s) := by
  unfold rewriteKey at h ⊢
  change execDeltaPageConvert ten s = _
  unfold execDeltaPageConvert
  simp only [h]
  rw [if_neg (by simp [hmode, hunit]), if_pos hst]

variable (hst : (seqOf s ten.slot).st ≠ .releasing)
include hst

theorem execDeltaPageConvert_baseless (hbase : (seqOf s r.base).st ≠ .active) : exec (.deltaPageConvert ten) s =
    .next (rewriteEnd (rewriteKey ten) stOk (skipPages (seqOf s ten.slot).tenant r.todo.length s)) := by
  unfold rewriteKey at h ⊢
  change execDeltaPageConvert ten s = _
  unfold execDeltaPageConvert
  simp only [h]
  rw [if_neg (by simp [hmode, hunit]), if_neg hst, if_pos hbase]

theorem execDeltaPageConvert_done (htodo : r.todo = []) : exec (.deltaPageConvert ten) s = .next (rewriteEnd (rewriteKey ten) stOk s) := by
  by_cases hbase : (seqOf s r.base).st = .active
  · unfold rewriteKey at h ⊢
    change execDeltaPageConvert ten s = _
    unfold execDeltaPageConvert
    simp only [h]
    rw [if_neg (by simp [hmode, hunit]), if_neg hst, if_neg (fun hn => hn hbase), htodo]
  · rw [execDeltaPageConvert_baseless h hmode hunit hst hbase, htodo]
    rfl

variable (hbase : (seqOf s r.base).st = .active) {idx e : Nat} {rest : List Nat} (htodo : r.todo = idx :: rest)
  (hleaf : leafOf s ten.slot (ten.layer.val * 4 + ten.kind.val) idx = .leaf e) (hplain : leafDelta e = false)
include hbase htodo hleaf hplain

theorem execDeltaPageConvert_beyond (hb : baseBeyond s ten.slot r.base (ten.layer.val * 4 + ten.kind.val) idx = true) : ∃ u,
    exec (.deltaPageConvert ten) s = .next (rewriteEnd (rewriteKey ten) stInternal u) ∧ causeSet (leafWalkMalformed (dirRegion ten.slot)) u := by
  unfold rewriteKey at h ⊢
  refine ⟨raise (leafWalkMalformed (dirRegion ten.slot)) [(18, 1, stInternal), (20, 4, ten.slot.val), (32, 2, (seqOf s ten.slot).tenant),
    (34, 1, (ten.layer.val * 4 + ten.kind.val) / 4)] s, ?_, raise_causeSet _ _ _⟩
  change execDeltaPageConvert ten s = _
  unfold execDeltaPageConvert
  simp only [h]
  rw [if_neg (by simp [hmode, hunit]), if_neg hst, if_neg (fun hn => hn hbase), htodo]
  simp only [hleaf, hplain, Bool.false_eq_true, if_false, hb, if_true]

/-- What an encode makes of the read of its page and base. -/
def encodeAfter (ten : TensorId) (base idx : Nat) (rest : List Nat) (o : ReadEnd × State) : State :=
  match o with
  | (.waits, s) => s
  | (.bad a, s) => lineLost a (rewriteEnd (rewriteKey ten) stInternal s)
  | (_, s) => rewriteGo (rewriteKey ten) rest (encodeOne ten.slot base (ten.layer.val * 4 + ten.kind.val) idx s)

theorem execDeltaPageConvert_reads (hb : baseBeyond s ten.slot r.base (ten.layer.val * 4 + ten.kind.val) idx = false) :
    exec (.deltaPageConvert ten) s = .next (encodeAfter ten r.base idx rest
      (readFree (.page ten.slot (ten.layer.val * 4 + ten.kind.val) idx) (encodeChunks s ten.slot r.base (ten.layer.val * 4 + ten.kind.val) idx) s)) := by
  unfold rewriteKey at h
  change execDeltaPageConvert ten s = _
  unfold execDeltaPageConvert
  simp only [h]
  rw [if_neg (by simp [hmode, hunit]), if_neg hst, if_neg (fun hn => hn hbase), htodo]
  simp only [hleaf, hplain, Bool.false_eq_true, if_false, hb]
  rfl

end deltaPageConvert

/-! ## LEAF_UPDATE -/

/-- The page of a leaf's job was delta-coded. -/
def leafWasDelta (j : LeafJob) (s : State) : Bool :=
  match leafOf s j.slot j.ten j.idx with
  | .leaf e => leafDelta e
  | .invalid => false

/-- The state without a leaf's job. -/
def withoutLeafJob (job : Nat) (s : State) : State := { s with work := { s.work with leafJobs := tdel s.work.leafJobs job } }

theorem execLeafUpdate_idle {job : Nat} {s : State} (h : tlook s.work.leafJobs job = none) : exec (.leafUpdate job) s = .next s := by
  change execLeafUpdate job s = _
  simp only [execLeafUpdate, h]

section leafUpdate
variable {job : Nat} {j : LeafJob} {s : State} (h : tlook s.work.leafJobs job = some j)
include h

theorem execLeafUpdate_waits (hw : leafWaits j s = true) : exec (.leafUpdate job) s = .next s := by
  change execLeafUpdate job s = _
  unfold execLeafUpdate
  simp only [h, hw, if_true]

variable (hw : leafWaits j s = false)
include hw

theorem execLeafUpdate_dropped (hd : leafDropped j s = true) : exec (.leafUpdate job) s = .next
    (afterLeaf j false (dropReserved ([leafFrame j.leaf] ++ (j.pair.map fun p => leafFrame p.2.1).toList) (withoutLeafJob job s))) := by
  change execLeafUpdate job s = _
  unfold execLeafUpdate
  simp only [h, hw, hd, Bool.false_eq_true, if_false, if_true]
  rfl

variable (hd : leafDropped j s = false)
include hd

theorem execLeafUpdate_one (hp : j.pair = none) : exec (.leafUpdate job) s = .next
    (afterLeaf j (leafWasDelta j s) (changeLeaf j.slot j.ten j.idx j.leaf (withoutLeafJob job s))) := by
  change execLeafUpdate job s = _
  unfold execLeafUpdate
  simp only [h, hw, hd, hp, Bool.false_eq_true, if_false]
  rfl

theorem execLeafUpdate_pair {sc leaf : Nat} {old : Option Nat} (hp : j.pair = some (sc, leaf, old)) : exec (.leafUpdate job) s = .next
    (afterLeaf j (leafWasDelta j s) (changeLeaf j.slot sc j.idx leaf (changeLeaf j.slot j.ten j.idx j.leaf (withoutLeafJob job s)))) := by
  change execLeafUpdate job s = _
  unfold execLeafUpdate
  simp only [h, hw, hd, hp, Bool.false_eq_true, if_false]
  rfl

end leafUpdate

/-- Settles O39: by the checks of REWRITE in their order, the read of an encode's page, and the leaf's job. -/
theorem rewritesAndLeaves : Obligations.RewritesAndLeaves := by
  unfold Obligations.RewritesAndLeaves
  refine ⟨?_, ?_, ?_, ?_, fun job s h => execLeafUpdate_idle h, fun inst s h => execRewrite_idle h⟩
  · intro inst k slot x p s hact hmode v hl ti
    have hexec {t : State} := execRewriteRequant_started (t := t) hact hmode
    refine ⟨fun hst => hexec (requantDo_inactive hl hst), fun hst hu => hexec (requantDo_loading hl hst hu),
      fun hst hu hb => hexec (requantDo_malformed hl hst hu hb), fun hst hu hkind hscale => ?_⟩
    exact ⟨fun ht => hexec (requantDo_refused hl hst hu hkind hscale (rewriteState_absent ht)),
      fun habsent hfast => hexec (requantDo_refused hl hst hu hkind hscale (rewriteState_conflict habsent hfast)),
      fun st u ht hg => hexec (requantDo_program hl hst hu hkind hscale ht hg), fun u ht hg => hexec (requantDo_starts hl hst hu hkind hscale ht hg)⟩
  · intro inst k slot b x p s hact hmode w hl ti d
    have hexec {t : State} := execRewriteDelta_started (t := t) hact hmode
    refine ⟨fun hdec hok hst ht => hexec (rewriteDeltaDo_decodes hl hdec hok hst ht), fun henc v hb => ?_⟩
    exact ⟨fun hd => hexec (rewriteDeltaDo_refused hl henc (baseCheck_access hb hd)),
      fun hok hprot hagree => hexec (rewriteDeltaDo_refused hl henc (baseCheck_malformed hb hok hprot hagree)),
      fun hok hprot hagree hbst hst ht => hexec (rewriteDeltaDo_encodes hl henc (baseCheck_passed hb hok hprot hagree hbst) hst ht)⟩
  · intro ten r s ti h
    refine ⟨execDeltaPageConvert_idle h, fun hmode hunit hend => ?_, fun hmode hunit hbase hst => execDeltaPageConvert_baseless h hmode hunit hst hbase,
      fun idx rest e hmode hunit hbase hst htodo hleaf hplain => ?_⟩
    · by_cases hst : (seqOf s ten.slot).st = .releasing
      · exact execDeltaPageConvert_releasing h hmode hunit hst
      · exact execDeltaPageConvert_done h hmode hunit hst (hend.resolve_left hst)
    · refine ⟨execDeltaPageConvert_beyond h hmode hunit hst hbase htodo hleaf hplain, fun hb got u hread => ?_⟩
      have hexec := execDeltaPageConvert_reads h hmode hunit hst hbase htodo hleaf hplain hb
      rw [hread] at hexec
      exact ⟨fun hg => by rw [hexec, hg]; rfl, fun a hg => by rw [hexec, hg]; rfl, fun hg => by rw [hexec, hg]; rfl⟩
  · intro job j s h u wasDelta
    exact ⟨execLeafUpdate_waits h, execLeafUpdate_dropped h, execLeafUpdate_one h, fun sc leaf old hw hd hp => execLeafUpdate_pair h hw hd hp⟩

end Sys2Proof.Proofs

/-! PROOF. Tensors that a compaction or a shift makes REWRITING, and the fills that a rollback cuts (03 R76; 09 R215). -/

namespace Sys2Proof.Proofs

open Sys2Proof.Machine Sys2Proof.Laws

/-! ## A tensor's state written -/

section setTenOther
variable {slot ti : Nat} {t : Ten} (h : t ≠ {}) (s : State)
include h

theorem seqOf_setTen_of_ne {x : Nat} (hx : x ≠ slot) : seqOf (setTen slot ti t s) x = seqOf s x := by
  have hten : tset {} (seqOf s slot).ten ti t = tput (seqOf s slot).ten ti t := tset_ne h _ _
  have hne : { seqOf s slot with ten := tput (seqOf s slot).ten ti t } ≠ ({} : Seq) := fun heq => tput_ne_nil _ _ _ (congrArg Seq.ten heq)
  change seqOf (setSeq slot { seqOf s slot with ten := tset {} (seqOf s slot).ten ti t } s) x = _
  rw [hten]
  exact seqOf_setSeq_of_ne hne hx s

theorem tenOf_setTen_of_ne {tj : Nat} (hj : tj ≠ ti) : tenOf (seqOf (setTen slot ti t s) slot) tj = tenOf (seqOf s slot) tj := by
  rw [seqOf_setTen h]
  exact tget_tput_ne hj

end setTenOther

/-- A tensor's STATE changed alone. -/
def setTenSt (slot ti : Nat) (st : TenSt) (s : State) : State := setTen slot ti { tenOf (seqOf s slot) ti with st := st } s

section setTenSt
variable {slot ti : Nat} {st : TenSt} (h : st ≠ .absent) (s : State)
include h

theorem tenOf_setTenSt (tj : Nat) : (tenOf (seqOf (setTenSt slot ti st s) slot) tj).st = if tj = ti then st else (tenOf (seqOf s slot) tj).st := by
  have hne : { tenOf (seqOf s slot) ti with st := st } ≠ ({} : Ten) := ten_ne_default h
  unfold setTenSt
  split
  · next hj => rw [hj, tenOf_setTen hne]
  · next hj => rw [tenOf_setTen_of_ne hne _ hj]

theorem seqOf_setTenSt_of_ne {x : Nat} (hx : x ≠ slot) : seqOf (setTenSt slot ti st s) x = seqOf s x :=
  seqOf_setTen_of_ne (t := { tenOf (seqOf s slot) ti with st := st }) (ten_ne_default h) s hx

theorem seqOf_setTenSt : ∃ ten, seqOf (setTenSt slot ti st s) slot = { seqOf s slot with ten := ten } :=
  ⟨_, seqOf_setTen (t := { tenOf (seqOf s slot) ti with st := st }) (ten_ne_default h) s⟩

end setTenSt

/-! ## Tensors made REWRITING -/

/-- One tensor of a list made REWRITING where it is FAST. -/
def beginStep (slot : Nat) (s : State) (ti : Nat) : State :=
  if (tenOf (seqOf s slot) ti).st = .fast then setTenSt slot ti .rewriting s else s

section beginStep
variable {slot ti tj : Nat} {s : State}

theorem beginStep_rewrites (h : (tenOf (seqOf s slot) ti).st = .fast) : (tenOf (seqOf (beginStep slot s ti) slot) ti).st = .rewriting := by
  unfold beginStep
  rw [if_pos h, tenOf_setTenSt (by decide), if_pos rfl]

theorem beginStep_stays (h : ti ≠ tj ∨ (tenOf (seqOf s slot) ti).st ≠ .fast) :
    (tenOf (seqOf (beginStep slot s tj) slot) ti).st = (tenOf (seqOf s slot) ti).st := by
  unfold beginStep
  split
  · next hfast => rw [tenOf_setTenSt (by decide), if_neg fun heq => h.elim (fun hn => hn heq) fun hn => hn (heq ▸ hfast)]
  · rfl

theorem beginStep_other {x : Nat} (hx : x ≠ slot) : seqOf (beginStep slot s tj) x = seqOf s x := by
  unfold beginStep
  split
  · exact seqOf_setTenSt_of_ne (by decide) s hx
  · rfl

theorem beginStep_dir {t : State} (h : t.dir = s.dir) : (beginStep slot t tj).dir = (beginStep slot s tj).dir := by
  unfold beginStep
  rw [seqOf_congr h slot]
  split
  · unfold setTenSt setTen setSeq
    simp only [seqOf_congr h slot, h]
  · exact h

end beginStep

section beginRewriting
variable {slot ti : Nat} {l : List Nat} {s : State}

theorem beginRewriting_eq (slot : Nat) (l : List Nat) (s : State) : beginRewriting slot l s = l.foldl (beginStep slot) s := rfl

theorem beginRewriting_other {x : Nat} (hx : x ≠ slot) : seqOf (beginRewriting slot l s) x = seqOf s x := by
  rw [beginRewriting_eq]
  induction l generalizing s with
  | nil => rfl
  | cons tj l ih => exact ih.trans (beginStep_other hx)

theorem beginRewriting_stays (h : (tenOf (seqOf s slot) ti).st ≠ .fast) :
    (tenOf (seqOf (beginRewriting slot l s) slot) ti).st = (tenOf (seqOf s slot) ti).st := by
  rw [beginRewriting_eq]
  induction l generalizing s with
  | nil => rfl
  | cons tj l ih =>
    have hstep := beginStep_stays (tj := tj) (.inr h)
    exact (ih (hstep ▸ h)).trans hstep

theorem beginRewriting_rewrites (h : (tenOf (seqOf s slot) ti).st = .fast) (hl : ti ∈ l) :
    (tenOf (seqOf (beginRewriting slot l s) slot) ti).st = .rewriting := by
  induction l generalizing s with
  | nil => exact absurd hl List.not_mem_nil
  | cons tj l ih =>
    by_cases hti : ti = tj
    · subst hti
      have hstep := beginStep_rewrites h
      exact (beginRewriting_stays (s := beginStep slot s ti) (by rw [hstep]; decide)).trans hstep
    · exact ih ((beginStep_stays (.inl hti)).trans h) ((List.mem_cons.1 hl).resolve_left hti)

/-- The directory after it is a matter of the directory before it. -/
theorem beginRewriting_dir {t : State} (h : t.dir = s.dir) : (beginRewriting slot l t).dir = (beginRewriting slot l s).dir := by
  rw [beginRewriting_eq, beginRewriting_eq]
  induction l generalizing s t with
  | nil => exact h
  | cons tj l ih => exact ih (beginStep_dir h)

end beginRewriting

/-! ## Tensors FAST again -/

/-- One tensor of a list made FAST again, unless a REWRITE holds it. -/
def endStep (slot : Nat) (s : State) (ti : Nat) : State :=
  if (tenOf (seqOf s slot) ti).st = .rewriting ∧ (tlook s.work.rewrites (tenKey slot ti)).isNone = true then setTenSt slot ti .fast s else s

section endStep
variable {slot ti tj : Nat} {s : State}

theorem endStep_work : (endStep slot s tj).work = s.work := by
  unfold endStep
  split <;> rfl

theorem endStep_fast (h : (tenOf (seqOf s slot) ti).st = .rewriting) (hr : tlook s.work.rewrites (tenKey slot ti) = none) :
    (tenOf (seqOf (endStep slot s ti) slot) ti).st = .fast := by
  unfold endStep
  rw [if_pos ⟨h, by rw [hr]; rfl⟩, tenOf_setTenSt (by decide), if_pos rfl]

theorem endStep_stays (h : ti ≠ tj ∨ (tlook s.work.rewrites (tenKey slot ti)).isSome = true ∨ (tenOf (seqOf s slot) ti).st ≠ .rewriting) :
    (tenOf (seqOf (endStep slot s tj) slot) ti).st = (tenOf (seqOf s slot) ti).st := by
  unfold endStep
  split
  · next hheld =>
    obtain ⟨hst, hnone⟩ := hheld
    rw [tenOf_setTenSt (by decide), if_neg]
    rintro rfl
    obtain h | h | h := h
    · exact h rfl
    · rw [Option.isNone_iff_eq_none.1 hnone] at h
      exact Bool.false_ne_true h
    · exact h hst
  · rfl

/-- Nothing of the entry changes but its tensors. -/
theorem endStep_seq : ∃ ten, seqOf (endStep slot s tj) slot = { seqOf s slot with ten := ten } := by
  unfold endStep
  split
  · exact seqOf_setTenSt (by decide) s
  · exact ⟨_, rfl⟩

end endStep

section endRewriting
variable {slot ti : Nat} {l : List Nat} {s : State}

theorem endRewriting_eq (slot : Nat) (l : List Nat) (s : State) : endRewriting slot l s = l.foldl (endStep slot) s := rfl

theorem endRewriting_stays (h : (tlook s.work.rewrites (tenKey slot ti)).isSome = true ∨ (tenOf (seqOf s slot) ti).st ≠ .rewriting) :
    (tenOf (seqOf (endRewriting slot l s) slot) ti).st = (tenOf (seqOf s slot) ti).st := by
  rw [endRewriting_eq]
  induction l generalizing s with
  | nil => rfl
  | cons tj l ih =>
    have hstep := endStep_stays (tj := tj) (.inr h)
    exact (ih (by rw [endStep_work, hstep]; exact h)).trans hstep

theorem endRewriting_fast (hr : tlook s.work.rewrites (tenKey slot ti) = none) (h : (tenOf (seqOf s slot) ti).st = .rewriting) (hl : ti ∈ l) :
    (tenOf (seqOf (endRewriting slot l s) slot) ti).st = .fast := by
  induction l generalizing s with
  | nil => exact absurd hl List.not_mem_nil
  | cons tj l ih =>
    by_cases hti : ti = tj
    · subst hti
      have hstep := endStep_fast h hr
      exact (endRewriting_stays (s := endStep slot s ti) (.inr (by rw [hstep]; decide))).trans hstep
    · exact ih (s := endStep slot s tj) (by rw [endStep_work, hr]) ((endStep_stays (.inl hti)).trans h) ((List.mem_cons.1 hl).resolve_left hti)

theorem endRewriting_seq : ∃ ten, seqOf (endRewriting slot l s) slot = { seqOf s slot with ten := ten } := by
  rw [endRewriting_eq]
  induction l generalizing s with
  | nil => exact ⟨_, rfl⟩
  | cons tj l ih =>
    obtain ⟨_, hstep⟩ := endStep_seq (slot := slot) (tj := tj) (s := s)
    obtain ⟨ten, hrest⟩ := ih (s := endStep slot s tj)
    exact ⟨ten, by rw [List.foldl_cons, hrest, hstep]⟩

end endRewriting

/-! ## Fills cut to a length -/

/-- Of a sorted table, a filter drops the entry of a key exactly where it drops that entry. -/
theorem tlook_filter {α : Type} {lo : Nat} {t : Tbl α} (h : tsortedFrom lo t = true) (p : Nat × α → Bool) (k : Nat) :
    tlook (t.filter p) k = (tlook t k).filter fun v => p (k, v) := by
  induction t generalizing lo with
  | nil => rfl
  | cons e t ih =>
    obtain ⟨k', v⟩ := e
    simp only [tsortedFrom, Bool.and_eq_true] at h
    by_cases hk : k' = k
    · subst hk
      rw [List.filter_cons]
      split
      · next hp => simp [tlook, Option.filter, hp]
      · next hp => simp [tlook, Option.filter, hp, tlook_below (filter_sorted p h.2) (Nat.lt_succ_self k')]
    · rw [List.filter_cons]
      have hrest := ih h.2
      by_cases hlt : k < k'
      · have hnone : tlook (t.filter p) k = none := tlook_below (filter_sorted p h.2) (by omega)
        split <;> simp [tlook, hk, hlt, hnone]
      · split <;> simp [tlook, hk, hlt, hrest]

theorem tsortedFrom_map {α : Type} {lo : Nat} {t : Tbl α} (f : Nat × α → α) (h : tsortedFrom lo t = true) :
    tsortedFrom lo (t.map fun e => (e.1, f e)) = true := by
  induction t generalizing lo with
  | nil => rfl
  | cons e t ih =>
    simp only [tsortedFrom, Bool.and_eq_true, List.map_cons] at h ⊢
    exact ⟨h.1, ih h.2⟩

/-- The fills of a rollback that keeps `keep` tokens (R215). -/
def cutFill (keep : Nat) (t : Tbl Nat) : Tbl Nat := (t.map fun e => (e.1, min e.2 keep)).filter fun e => e.2 != 0

theorem tget_cutFill {t : Tbl Nat} (h : twf 0 t = true) (keep l : Nat) : tget 0 (cutFill keep t) l = min (tget 0 t l) keep := by
  simp only [twf, Bool.and_eq_true] at h
  have hmap : tlook (t.map fun e => (e.1, min e.2 keep)) l = (tlook t l).map (min · keep) := tlook_tmap t (fun _ v => min v keep) l
  unfold tget cutFill
  rw [tlook_filter (tsortedFrom_map _ h.1), hmap]
  cases tlook t l with
  | none => simp
  | some v =>
    by_cases hz : min v keep = 0 <;> simp [Option.filter, hz]

end Sys2Proof.Proofs

/-! PROOF. The arrival and admission of commits, rollbacks and shifts, and their checks (09 R204, R209, R210, R215, R217, Table 9.3). -/

namespace Sys2Proof.Proofs

open Sys2Proof.Machine Sys2Proof.Laws

/-! ## The message arrives -/

/-- The three commands by the operation they name. -/
theorem exec_commitControl {c : Instr} {op : Nat} {f : RxFrame} (h : (c, op) = (.commit f, 0) ∨ (c, op) = (.rollback f, 1) ∨ (c, op) = (.shift f, 2))
    (s : State) : exec c s = .next (if namesOp s f op then commitControl f s else s) := by
  simp only [Prod.mk.injEq] at h
  obtain ⟨rfl, rfl⟩ | ⟨rfl, rfl⟩ | ⟨rfl, rfl⟩ := h <;> rfl

theorem commitControl_taken {f : RxFrame} {a : Admitted} {s u : State} (h : takeControl f [0x23] s = (some a, u))
    (ht : cTenant a.payload = f.hdr.tenant.toNat) : commitControl f s = ctlArrive a.payload a.die (frameMsg f) u := by
  unfold commitControl
  simp only [h]
  rw [if_pos ht]

theorem commitControl_dropped {f : RxFrame} {s u : State} (h : takeControl f [0x23] s = (none, u)) : commitControl f s = u := by
  unfold commitControl
  rw [h]

/-- The operation of a message with body `b`, its sequence not yet looked up. -/
def arrivedOp (b : Bytes) (die : Nat) (m : EnMsg) : CtlOp :=
  { op := cOp b, slot := 0x40000, body := b, src := m.src, msgId := m.id, port := die, addr := m.addr, epoch := m.epoch }

section ctlArrive
variable {b : Bytes} {die : Nat} {m : EnMsg} {s : State}

theorem ctlArrive_malformed (h : ctlMalformed b = true) : ctlArrive b die m s = ctlAnswer (arrivedOp b die m) stMalformed false false false s :=
  if_pos h

variable (h : ctlMalformed b = false)
include h

theorem ctlArrive_revoked (hk : keySlotUp s (cTenant b) = false) :
    ctlArrive b die m s = ctlAnswer (arrivedOp b die m) stTenantRevoked false false false s :=
  (if_neg (by simp [h])).trans (if_pos (by simp [hk]))

/-- A message for a sequence whose primary this node is, or that has none, joins the sequence's order. -/
theorem ctlArrive_enqueued (hk : keySlotUp s (cTenant b) = true) {slot : Nat} {u v : State} (hl : lookSeq (cTenant b) (cTag b) s = (some slot, u))
    (he : epochCheck (cTenant b) (cTag b) (seqOf u slot).committed ((seqOf u slot).committed + 1) (dMaxTokens (seqOf u slot).desc)
      { entry := 0x7FFF, arg := 0, msg := m } u = (none, v))
    (hp : primaryAt v (cTenant b) (cTag b) (seqOf u slot).committed = none ∨
      primaryAt v (cTenant b) (cTag b) (seqOf u slot).committed = some (myNode v)) :
    ctlArrive b die m s = ctlEnqueue { arrivedOp b die m with slot := slot } v := by
  unfold ctlArrive
  simp only [h, hk, hl, he, Option.getD_some, Option.isSome_some, Bool.false_eq_true, Bool.not_true, if_false, if_true]
  obtain hp | hp := hp
  · simp only [hp, Option.isSome_none, Bool.false_and, Bool.false_eq_true, if_false]
    rfl
  · simp only [hp, bne_self_eq_false, Bool.and_false, Bool.false_eq_true, if_false]
    rfl

end ctlArrive

/-! ## The order at a sequence -/

/-- The operation listed, behind everything that has arrived. -/
def enqueued (o : CtlOp) (s : State) : State :=
  { s with work := { s.work with next := s.work.next + 1, ctlOps := tput s.work.ctlOps s.work.next o } }

theorem admitNext_blocked {slot : Nat} {w : State} (h : slotBlocked w slot = true ∨ appendsOn w slot = true) : admitNext slot w = w := by
  unfold admitNext
  generalize (w.work.ctlOps.filter fun e => e.2.slot == slot && !e.2.started).map (·.1) = l
  induction l with
  | nil => rfl
  | cons k l ih =>
    refine Eq.trans (congrArg (List.foldl _ · l) ?_) ih
    dsimp only
    split
    · exact if_pos (by obtain h | h := h <;> simp [h])
    · rfl

theorem ctlEnqueue_waits {o : CtlOp} {s : State} (h : slotBlocked (enqueued o s) o.slot = true ∨ appendsOn (enqueued o s) o.slot = true) :
    ctlEnqueue o s = enqueued o s := admitNext_blocked h

/-- The only operation that waits for a free sequence is admitted. -/
theorem ctlEnqueue_admitted {o : CtlOp} {s : State} (hb : slotBlocked (enqueued o s) o.slot = false) (ha : appendsOn (enqueued o s) o.slot = false)
    (hw : appendAhead (enqueued o s) o.slot s.work.next = false)
    (hone : ((enqueued o s).work.ctlOps.filter fun e => e.2.slot == o.slot && !e.2.started) = [(s.work.next, o)]) :
    ctlEnqueue o s = ctlAdmit s.work.next o (enqueued o s) := by
  have hlook : tlook (enqueued o s).work.ctlOps s.work.next = some o := tlook_tput _ _ _
  change admitNext o.slot (enqueued o s) = _
  unfold admitNext
  rw [hone]
  simp only [List.map_cons, List.map_nil, List.foldl_cons, List.foldl_nil, hlook, hb, ha, hw, Bool.or_self, Bool.false_eq_true, if_false]

/-! ## Admission -/

/-- The state without an operation that is refused. -/
def withoutOp (k : Nat) (s : State) : State := { s with work := { s.work with ctlOps := tdel s.work.ctlOps k } }

/-- An operation begun: listed as started, in flight at its sequence, and forwarded. -/
def startedOp (k slot : Nat) (s : State) (o : CtlOp) : State :=
  forwardCtl k (enterSeq slot { s with work := { s.work with ctlOps := tput s.work.ctlOps k { o with started := true } } })

/-- The answer to an operation that the checks refuse, or find done already. -/
def refusedOp (k : Nat) (o : CtlOp) (st : Nat) (rep : Bool) (s : State) : State :=
  ctlAnswer o st rep (st == stOk && actsAlone s o) false
    (if st = stStateConflict then refuseSeq o.slot (cTenant o.body) 0x23 (withoutOp k s) (some (o.src, o.msgId)) else withoutOp k s)

/-- A step that an operation takes at once where it needs no partner. -/
def unlessForwarded (k : Nat) (run : CtlOp → State → State) (s : State) : State :=
  match tlook s.work.ctlOps k with
  | some o => if o.fwd = .notNeeded then run o s else s
  | none => s

section unlessForwarded
variable {k : Nat} {run : CtlOp → State → State} {x : CtlOp} {s : State} (h : tlook s.work.ctlOps k = some x)
include h

theorem unlessForwarded_alone (hf : x.fwd = .notNeeded) : unlessForwarded k run s = run x s := by
  unfold unlessForwarded
  rw [h]
  exact if_pos hf

theorem unlessForwarded_forwarded (hf : x.fwd ≠ .notNeeded) : unlessForwarded k run s = s := by
  unfold unlessForwarded
  rw [h]
  exact if_neg hf

end unlessForwarded

section ctlAdmit
variable {k : Nat} {o : CtlOp} {s : State}

section commit
variable (hst : (seqOf s o.slot).st = .active) (hop : o.op = 0)
include hst hop

theorem ctlAdmit_commit_refused {st : Nat} {rep : Bool} (hc : commitCheck (seqOf s o.slot) o.body = some (st, rep)) :
    ctlAdmit k o s = refusedOp k o st rep s := by
  unfold ctlAdmit
  simp only [hop, hst, hc, beq_self_eq_true, Bool.true_or, Bool.not_true, Bool.false_eq_true, if_false]
  rfl

variable (hc : commitCheck (seqOf s o.slot) o.body = none)
include hc

/-- A commit of the first tokens of the tail takes its step at once where no partner is to answer. -/
theorem ctlAdmit_commit_prefix (hm : cMask o.body = 2 ^ cAccepted o.body - 1) :
    ctlAdmit k o s = unlessForwarded k (commitStep k) (startedOp k o.slot s o) := by
  unfold ctlAdmit
  split
  · simp only [hst, hc, beq_self_eq_true, Bool.true_or, Bool.not_true, Bool.false_eq_true, if_false]
    rw [if_pos hm]
    rfl
  · next h => exact absurd (hop.symm.trans h) (by decide)
  · next h _ => exact absurd hop h

theorem ctlAdmit_commit_compacts (hm : cMask o.body ≠ 2 ^ cAccepted o.body - 1) :
    let u := startedOp k o.slot s { o with compacting := true, before := s.nextReq }
    ctlAdmit k o s = setSeq o.slot { seqOf u o.slot with app := { (seqOf u o.slot).app with commitPending := true } } u := by
  unfold ctlAdmit
  simp only [hop, hst, hc, beq_self_eq_true, Bool.true_or, Bool.not_true, Bool.false_eq_true, if_false]
  exact if_neg hm

end commit

section rollback
variable (hst : (seqOf s o.slot).st = .active) (hop : o.op = 1)
include hst hop

theorem ctlAdmit_rollback_refused {st : Nat} {rep : Bool} (hc : rollbackCheck (seqOf s o.slot) o.body = some (st, rep)) :
    ctlAdmit k o s = refusedOp k o st rep s := by
  unfold ctlAdmit
  simp only [hop, hst, hc, beq_self_eq_true, Bool.true_or, Bool.not_true, Bool.false_eq_true, if_false]
  rfl

theorem ctlAdmit_rollback (hc : rollbackCheck (seqOf s o.slot) o.body = none) : ctlAdmit k o s =
    unlessForwarded k (fun x u => ctlAnswer x stOk false (ctlSingle x) false (ctlGone k x u))
      (rollbackStep o (startedOp k o.slot s { o with localDone := true })) := by
  unfold ctlAdmit
  split
  · next h => exact absurd (hop.symm.trans h) (by decide)
  · simp only [hst, hc, beq_self_eq_true, Bool.true_or, Bool.not_true, Bool.false_eq_true, if_false]
    rfl
  · next h => exact absurd hop h

end rollback

section shift
variable (hop : o.op = 2) (hu : underLoad s o.slot = false)
include hop hu

theorem ctlAdmit_shift_refused {st : Nat} {rep : Bool} (hc : shiftCheck (seqOf s o.slot) o.body = some (st, rep)) :
    ctlAdmit k o s = refusedOp k o st rep s := by
  unfold ctlAdmit
  simp only [hop, hu, hc, Bool.false_eq_true, if_false]
  rfl

theorem ctlAdmit_shift (hc : shiftCheck (seqOf s o.slot) o.body = none) : ctlAdmit k o s = shiftAccept k o s := by
  unfold ctlAdmit
  simp only [hop, hu, hc, Bool.false_eq_true, if_false]

end shift

end ctlAdmit

section shiftAccept
variable {k : Nat} {o : CtlOp} {s u : State}

/-- Without frames for all its pages a shift ends ST_RETRY with nothing changed (R217). -/
theorem shiftAccept_noFrame (h : unstripeAll o.slot (shiftPages (seqOf s o.slot) o.body) s = (.noFrame, u) ∨
      (unstripeAll o.slot (shiftPages (seqOf s o.slot) o.body) s = (.done, u) ∧
        reserveShift o.slot (shiftPages (seqOf s o.slot) o.body) [] u = none)) :
    shiftAccept k o s = ctlAnswer o stRetry false false false (frameExhausted (dirRegion o.slot) (withoutOp k s)) := by
  unfold shiftAccept
  obtain h | ⟨h, hr⟩ := h
  · simp only [h]
    rfl
  · simp only [h, hr]
    rfl

theorem shiftAccept_lost {a : Nat} (h : unstripeAll o.slot (shiftPages (seqOf s o.slot) o.body) s = (.bad a, u)) :
    shiftAccept k o s = lineLost a (ctlAnswer o stInternal false false false (withoutOp k u)) := by
  unfold shiftAccept
  simp only [h]
  rfl

/-- A shift accepted: its sequence SHIFTING, its tensors REWRITING, and every page of it begun. -/
theorem shiftAccept_begins {res : List (Nat × Nat × Nat)} {w : State}
    (h : unstripeAll o.slot (shiftPages (seqOf s o.slot) o.body) s = (.done, w))
    (hr : reserveShift o.slot (shiftPages (seqOf s o.slot) o.body) [] w = some (res, u)) : ∃ p, let v := enterSeq o.slot u
    let y : CtlOp := { o with started := true, left := (shiftPages (seqOf s o.slot) o.body).length, reserved := res }
    let z := beginRewriting o.slot (keyTens (seqOf s o.slot)) (setSeq o.slot { seqOf v o.slot with st := .shifting } v)
    shiftAccept k o s = startShift y p (takeFree (forwardCtl k { z with work := { z.work with ctlOps := tput z.work.ctlOps k y } })).2 := by
  unfold shiftAccept
  simp only [h, hr]
  exact ⟨_, rfl⟩

end shiftAccept

/-! ## The checks -/

section commitCheck
variable {q : Seq} {b : Bytes}

theorem commitCheck_malformed (h : popcount (cMask b) ≠ cAccepted b) : commitCheck q b = some (stMalformed, false) := if_pos h

variable (h : popcount (cMask b) = cAccepted b)
include h

theorem commitCheck_repeat (ha : cAccepted b ≠ 0) (hc : q.committed = cBaseC b + cAccepted b) (ht : q.tail = 0) :
    commitCheck q b = some (stOk, true) := (if_neg (fun hn => hn h)).trans (if_pos ⟨ha, hc, ht⟩)

theorem commitCheck_conflict (hc : q.committed ≠ cBaseC b) (ht : q.tail ≠ 0) : commitCheck q b = some (stStateConflict, false) :=
  (if_neg (fun hn => hn h)).trans ((if_neg (fun hn => ht hn.2.2)).trans ((if_neg (fun hn => ht hn.2.2)).trans (if_pos hc)))

theorem commitCheck_accepts (ha : cAccepted b ≠ 0) (hc : q.committed = cBaseC b) (hp : q.app.commitPending = false) (ht : q.app.takeover = false)
    (hi : ∀ i ∈ acceptedList b, i < q.tail ∧ ∀ l, l < dLayers q.desc → i < fillOf q l) : commitCheck q b = none := by
  have hfilled : ((acceptedList b).any fun i => decide (q.tail ≤ i) || (List.range (dLayers q.desc)).any fun l => decide (fillOf q l ≤ i)) = false := by
    refine List.any_eq_false.2 fun i hmem => ?_
    obtain ⟨htail, hfill⟩ := hi i hmem
    simp only [Bool.or_eq_true, decide_eq_true_eq, List.any_eq_true, List.mem_range, not_or, not_exists, not_and, Nat.not_le]
    exact ⟨htail, hfill⟩
  unfold commitCheck
  simp only
  rw [if_neg (fun hn => hn h), if_neg (fun hn => by omega), if_neg (fun hn => ha hn.1), if_neg (fun hn => hn hc), if_neg (by simp [hp]),
    if_neg (by simp [ht]), if_neg (by simp [hfilled])]

end commitCheck

section rollbackCheck
variable {q : Seq} {b : Bytes}

theorem rollbackCheck_conflict (h : q.committed ≠ cBaseC b) : rollbackCheck q b = some (stStateConflict, false) := if_pos h

variable (h : q.committed = cBaseC b) (hp : q.app.commitPending = false)
include h hp

theorem rollbackCheck_repeat (ht : q.tail ≤ cAccepted b) : rollbackCheck q b = some (stOk, true) :=
  (if_neg (fun hn => hn h)).trans ((if_neg (by simp [hp])).trans (if_pos ht))

theorem rollbackCheck_accepts (ht : cAccepted b < q.tail) : rollbackCheck q b = none :=
  (if_neg (fun hn => hn h)).trans ((if_neg (by simp [hp])).trans (if_neg (Nat.not_le.2 ht)))

end rollbackCheck

section shiftCheck
variable {q : Seq} {b : Bytes}

theorem shiftCheck_repeat (h : q.app.rotOffset = (cBaseRot b + cDelta b) % 2 ^ 32) (hst : q.st = .active) :
    shiftCheck q b = some (stOk, true) := if_pos ⟨h, hst⟩

variable (hbase : q.app.rotOffset = cBaseRot b) (hnew : q.app.rotOffset ≠ (cBaseRot b + cDelta b) % 2 ^ 32) (hc : q.committed = cBaseC b)
  (hpage : cFrom b % dTokens q.desc = 0) (hfrom : cFrom b ≤ q.committed)
include hbase hnew hc hpage hfrom

theorem shiftCheck_pending (hp : q.app.commitPending = true) : shiftCheck q b = some (stRetry, false) := by
  unfold shiftCheck
  rw [if_neg (fun hn => hnew hn.1), if_neg (fun hn => hn.elim (fun h => h hbase) fun h => h hc),
    if_neg (fun hn => hn.elim (fun h => h hpage) (Nat.not_lt.2 hfrom)), if_pos hp]

theorem shiftCheck_accepts (hp : q.app.commitPending = false) (hst : q.st = .active) (ht : q.tail = 0)
    (hfast : ∀ ti ∈ keyTens q, (tenOf q ti).st = .fast) : shiftCheck q b = none := by
  have hall : ((keyTens q).any fun ti => (tenOf q ti).st != .fast) = false :=
    List.any_eq_false.2 fun ti hti => by simp [hfast ti hti]
  unfold shiftCheck
  rw [if_neg (fun hn => hnew hn.1), if_neg (fun hn => hn.elim (fun h => h hbase) fun h => h hc),
    if_neg (fun hn => hn.elim (fun h => h hpage) (Nat.not_lt.2 hfrom)), if_neg (by simp [hp]),
    if_neg (fun hn => hn.elim (fun h => h hst) fun h => h ht), if_neg (by simp [hall])]

end shiftCheck

end Sys2Proof.Proofs

/-! PROOF. The steps that finish commits, rollbacks and shifts, and the start of a compaction (09 R211, R212, R213, R215, R217). -/

namespace Sys2Proof.Proofs

open Sys2Proof.Machine Sys2Proof.Laws

theorem seq_ne_default {q : Seq} (h : q.st ≠ .free) : q ≠ {} := fun heq => h (congrArg Seq.st heq)

/-! ## Commit and rollback -/

/-- The entry after a commit of `n` tokens. -/
def committedSeq (q : Seq) (n : Nat) : Seq :=
  { q with committed := q.committed + n, tail := 0, app := { q.app with fill := [], commitPending := false } }

/-- A commit of its first tokens, answered by both copies: the entry alone changes, it is relayed and answered. -/
theorem commitStep_plain {k : Nat} {o : CtlOp} {s : State} (hc : o.compacting = false) (hf : o.fwd ≠ .single) :
    commitStep k o s = ctlAnswer o stOk false (ctlSingle o) false
      (ctlGone k o (relayState o.slot (setSeq o.slot (committedSeq (seqOf s o.slot) (cAccepted o.body)) s))) := by
  unfold commitStep
  simp only [hc, Bool.false_eq_true, if_false]
  rw [if_neg hf]
  rfl

/-- The entry after a rollback to `keep` tokens. -/
def rolledBackSeq (q : Seq) (keep : Nat) : Seq :=
  { q with tail := (cutFill keep q.app.fill).foldl (fun m e => max m e.2) 0, app := { q.app with fill := cutFill keep q.app.fill } }

theorem rollbackStep_eq (o : CtlOp) (s : State) :
    rollbackStep o s = relayState o.slot (setSeq o.slot (rolledBackSeq (seqOf s o.slot) (cAccepted o.body)) s) := rfl

theorem rollbackStep_cuts {o : CtlOp} {s : State} (hst : (seqOf s o.slot).st ≠ .free) (hw : twf 0 (seqOf s o.slot).app.fill = true) :
    ∃ u, rollbackStep o s = relayState o.slot u ∧ u = setSeq o.slot (seqOf u o.slot) s ∧
      (seqOf u o.slot).committed = (seqOf s o.slot).committed ∧
      ∀ l, fillOf (seqOf u o.slot) l = min (fillOf (seqOf s o.slot) l) (cAccepted o.body) := by
  have hseq := seqOf_setSeq_self (q := rolledBackSeq (seqOf s o.slot) (cAccepted o.body)) (seq_ne_default hst) o.slot s
  refine ⟨_, rollbackStep_eq o s, by rw [hseq], by rw [hseq]; rfl, fun l => ?_⟩
  rw [hseq]
  exact tget_cutFill hw _ l

theorem commitStep_commits {k : Nat} {o : CtlOp} {s : State} (hst : (seqOf s o.slot).st ≠ .free) :
    ∃ u, (seqOf u o.slot).committed = (seqOf s o.slot).committed + cAccepted o.body ∧ (seqOf u o.slot).tail = 0 ∧
      (seqOf u o.slot).app.fill = [] ∧ (seqOf u o.slot).app.commitPending = false ∧
      (o.compacting = false → o.fwd ≠ .single → u = setSeq o.slot (seqOf u o.slot) s ∧
        commitStep k o s = ctlAnswer o stOk false (ctlSingle o) false (ctlGone k o (relayState o.slot u))) := by
  have hseq := seqOf_setSeq_self (q := committedSeq (seqOf s o.slot) (cAccepted o.body)) (seq_ne_default hst) o.slot s
  refine ⟨setSeq o.slot (committedSeq (seqOf s o.slot) (cAccepted o.body)) s, ?_⟩
  rw [hseq]
  exact ⟨rfl, rfl, rfl, rfl, fun hc hf => ⟨rfl, commitStep_plain hc hf⟩⟩

/-! ## The start of a compaction -/

/-- The operation of a sequence whose compaction has not begun. -/
def compactionAt (s : State) (slot : Nat) : Option (Nat × CtlOp) :=
  tfind s.work.ctlOps fun _ o => o.slot == slot && o.compacting && o.started && !o.localDone

/-- A request confirmed above C before the operation arrived has not completed. -/
def compactionWaits (s : State) (slot : Nat) (o : CtlOp) : Prop :=
  ∃ n r e, (n, r) ∈ s.req ∧ n < o.before ∧ r.slot = slot ∧ r.tuple = some e ∧ (seqOf s slot).committed < e.e

theorem compactionWaits_iff (s : State) (slot : Nat) (o : CtlOp) : compactionWaits s slot o ↔
    tany s.req (fun n r => decide (n < o.before) && r.slot == slot &&
      (match r.tuple with | some t => decide ((seqOf s slot).committed < t.e) | none => false)) = true := by
  unfold tany
  rw [List.any_eq_true]
  constructor
  · rintro ⟨n, r, e, hmem, hn, hslot, ht, hc⟩
    exact ⟨(n, r), hmem, by simp [hn, hslot, ht, hc]⟩
  · rintro ⟨⟨n, r⟩, hmem, h⟩
    simp only [Bool.and_eq_true, decide_eq_true_eq, beq_iff_eq] at h
    obtain ⟨⟨hn, hslot⟩, h⟩ := h
    split at h
    · next e ht => exact ⟨n, r, e, hmem, hn, hslot, ht, by simpa using h⟩
    · exact absurd h (by decide)

/-- Every command reserved for is a COMPACT of this operation. -/
def compactsOnly (slot : Nat) (o : CtlOp) (acc : Option (List UnitCmd × State)) : Prop :=
  ∀ cmds u, acc = some (cmds, u) → ∀ c ∈ cmds, c.op = 4 ∧ c.job = .compact slot ∧ c.accepted = acceptedList o.body

theorem compactReserve_compactsOnly (slot : Nat) (o : CtlOp) (s : State) : compactsOnly slot o (compactReserve slot o s) := by
  unfold compactReserve
  refine List.foldlRecOn (motive := compactsOnly slot o) _ _ ?_ ?_
  · rintro cmds u h c hc
    obtain ⟨rfl, -⟩ := Prod.mk.inj (Option.some.inj h)
    exact absurd hc List.not_mem_nil
  · rintro acc hacc e - cmds u h c hc
    obtain ⟨⟨l, v⟩, hl, h⟩ := Option.bind_eq_some_iff.1 h
    obtain ⟨⟨new, pair, w⟩, -, h⟩ := Option.map_eq_some_iff.1 h
    obtain ⟨rfl, -⟩ := Prod.mk.inj h
    obtain hc | hc := List.mem_append.1 hc
    · exact hacc l v hl c hc
    · obtain rfl := List.mem_singleton.1 hc
      exact ⟨rfl, rfl, rfl⟩

/-- With no tail position there is no page to compact. -/
theorem compactReserve_empty {slot : Nat} {o : CtlOp} {s : State} (h : (seqOf s slot).tail = 0) : compactReserve slot o s = some ([], s) := by
  unfold compactReserve
  simp only [h, Nat.add_zero, spanPages, Nat.lt_irrefl, if_false, List.filterMap_nil]
  rw [List.flatMap_eq_nil_iff.2 fun _ _ => rfl]
  rfl

/-- The COMPACTs of a compaction issued, one at a time. -/
def issueAll (cmds : List UnitCmd) (s : State) : State := cmds.foldl (fun s c => issueUnit (chanOf s c.name) c s) s

theorem issueAll_frame (cmds : List UnitCmd) (s : State) : Frame [.rgn, .chan, .work] s (issueAll cmds s) :=
  frame_foldl (Frame.refl _ s) fun _ c h => issueUnit_frame _ c h rfl

/-- Each takes one number, and no operation's record. -/
theorem issueAll_work (cmds : List UnitCmd) (s : State) :
    (issueAll cmds s).work = { s.work with next := s.work.next + cmds.length } := by
  unfold issueAll
  induction cmds generalizing s with
  | nil => rfl
  | cons c cmds ih =>
    rw [List.foldl_cons, ih]
    simp only [issueUnit, markBusy, setRgn_work, List.length_cons, Nat.add_assoc, Nat.add_comm 1]

/-- The state once the compaction of operation `o` has its frames. -/
def compactionBegun (slot k : Nat) (o : CtlOp) (tens : List Nat) (cmds : List UnitCmd) (s : State) : State :=
  issueAll cmds (beginRewriting slot tens
    { s with work := { s.work with ctlOps := tput s.work.ctlOps k { o with localDone := true, left := cmds.length } } })

section compactionBegun
variable {slot k : Nat} {o : CtlOp} {tens : List Nat} {cmds : List UnitCmd} {s : State}

theorem compactionBegun_work : (compactionBegun slot k o tens cmds s).work =
    { s.work with ctlOps := tput s.work.ctlOps k { o with localDone := true, left := cmds.length }, next := s.work.next + cmds.length } := by
  unfold compactionBegun
  rw [issueAll_work, (beginRewriting_frame (m := [.dir]) slot tens (Frame.refl _ _) rfl).same .work (by decide)]

theorem compactionBegun_dir : (compactionBegun slot k o tens cmds s).dir = (beginRewriting slot tens s).dir :=
  ((issueAll_frame cmds _).same .dir (by decide)).trans (beginRewriting_dir rfl)

theorem compactionBegun_mem : (compactionBegun slot k o tens cmds s).mem = s.mem :=
  ((issueAll_frame cmds _).same .mem (by decide)).trans ((beginRewriting_frame (m := [.dir]) slot tens (Frame.refl _ _) rfl).same .mem (by decide))

theorem compactionBegun_op : tlook (compactionBegun slot k o tens cmds s).work.ctlOps k =
    some { o with localDone := true, left := cmds.length } := by
  rw [compactionBegun_work]
  exact tlook_tput _ _ _

end compactionBegun

section compactionStart
variable {slot : Fin 262144} {k : Nat} {o : CtlOp} {s : State}

theorem execCompactionStart_idle (h : compactionAt s slot = none) : exec (.compactionStart slot) s = .next s := by
  unfold compactionAt at h
  change execCompactionStart slot s = _
  unfold execCompactionStart
  rw [h]

variable (h : compactionAt s slot = some (k, o))
include h

theorem execCompactionStart_waits (hw : compactionWaits s slot o) : exec (.compactionStart slot) s = .next s := by
  unfold compactionAt at h
  change execCompactionStart slot s = _
  unfold execCompactionStart
  rw [h]
  exact congrArg Host.Outcome.next (if_pos ((compactionWaits_iff s slot o).1 hw))

variable (hw : ¬ compactionWaits s slot o)
include hw

theorem execCompactionStart_noFrame (hr : compactReserve slot o s = none) :
    exec (.compactionStart slot) s = .next (commitAbort k o stRetry (frameExhausted (dirRegion slot) s)) := by
  unfold compactionAt at h
  change execCompactionStart slot s = _
  unfold execCompactionStart
  rw [h]
  refine congrArg Host.Outcome.next ((if_neg fun hn => hw ((compactionWaits_iff s slot o).2 hn)).trans ?_)
  simp only [hr]

variable {cmds : List UnitCmd} {u : State} (hr : compactReserve slot o s = some (cmds, u))
include hr

theorem execCompactionStart_beyond (hb : nearBeyond s slot cmds = true) : exec (.compactionStart slot) s = .next (commitAbort k o stInternal
    (raise (leafWalkMalformed (dirRegion slot)) [(18, 1, stInternal), (20, 4, slot.val), (32, 2, (seqOf s slot).tenant)] s)) := by
  unfold compactionAt at h
  change execCompactionStart slot s = _
  unfold execCompactionStart
  rw [h]
  refine congrArg Host.Outcome.next ((if_neg fun hn => hw ((compactionWaits_iff s slot o).2 hn)).trans ?_)
  simp only [hr]
  rw [if_pos hb]

theorem execCompactionStart_begins (hb : nearBeyond s slot cmds = false) :
    exec (.compactionStart slot) s = .next (compactionBegun slot k o (dataTens (seqOf s slot)) cmds u) := by
  unfold compactionAt at h
  change execCompactionStart slot s = _
  unfold execCompactionStart
  rw [h]
  refine congrArg Host.Outcome.next ((if_neg fun hn => hw ((compactionWaits_iff s slot o).2 hn)).trans ?_)
  simp only [hr]
  rw [if_neg (by simp [hb])]
  rfl

end compactionStart

/-! ## The final step of a commit or rollback -/

/-- The operation of a sequence whose own part is done and whose partner has answered. -/
def finishedAt (s : State) (slot : Nat) : Option (Nat × CtlOp) :=
  tfind s.work.ctlOps fun _ o => o.slot == slot && o.started && o.op != 2 && o.fwd != .waiting &&
    (o.op == 1 || !o.compacting || (o.localDone && o.left == 0))

section commitFinalStep
variable {slot : Fin 262144} {k : Nat} {o : CtlOp} {s : State} (h : finishedAt s slot = some (k, o))
include h

theorem execCommitFinalStep_refused {st : Nat} (hf : o.fwd = .refused st) (hop : o.op = 0) :
    exec (.commitFinalStep slot) s = .next (admitNext slot (commitAbort k o st s)) := by
  unfold finishedAt at h
  change execCommitFinalStep slot s = _
  unfold execCommitFinalStep
  simp only [h, hf]
  rw [if_neg (by rw [hop]; decide)]

variable (hf : o.fwd = .okay ∨ o.fwd = .single ∨ o.fwd = .notNeeded)
include hf

theorem execCommitFinalStep_answered : exec (.commitFinalStep slot) s = .next (admitNext slot (
    if o.op = 1 then ctlAnswer o stOk false (ctlSingle o) false (ctlGone k o s)
    else if o.failed then commitAbort k o stInternal s
    else commitStep k o s)) := by
  unfold finishedAt at h
  change execCommitFinalStep slot s = _
  unfold execCommitFinalStep
  simp only [h]
  obtain hf | hf | hf := hf <;> simp only [hf]

theorem execCommitFinalStep_commit (hop : o.op = 0) (hfail : o.failed = false) :
    exec (.commitFinalStep slot) s = .next (admitNext slot (commitStep k o s)) := by
  rw [execCommitFinalStep_answered h hf, if_neg (by rw [hop]; decide), if_neg (by simp [hfail])]

theorem execCommitFinalStep_failed (hop : o.op = 0) (hfail : o.failed = true) :
    exec (.commitFinalStep slot) s = .next (admitNext slot (commitAbort k o stInternal s)) := by
  rw [execCommitFinalStep_answered h hf, if_neg (by rw [hop]; decide), if_pos hfail]

theorem execCommitFinalStep_rollback (hop : o.op = 1) :
    exec (.commitFinalStep slot) s = .next (admitNext slot (ctlAnswer o stOk false (ctlSingle o) false (ctlGone k o s))) := by
  rw [execCommitFinalStep_answered h hf, if_pos hop]

end commitFinalStep

/-! ## The end of a shift -/

/-- The shift of a sequence that has its own part, or its answer, ahead of it. -/
def shiftAt (s : State) (slot : Nat) : Option (Nat × CtlOp) :=
  tfind s.work.ctlOps fun _ o => o.slot == slot && o.started && o.op == 2 && (!o.localDone || o.fwd != .waiting)

/-- A shift as it ends on this copy. -/
def endedShift (s : State) (slot : Nat) (o : CtlOp) : CtlOp :=
  { o with failed := o.failed || (seqOf s slot).lost, localDone := true, reserved := [] }

/-- The state after a shift's step on this copy. -/
def shiftEnded (slot k : Nat) (o : CtlOp) (s : State) : State :=
  let u := shiftStep slot { o with failed := o.failed || (seqOf s slot).lost } s
  { u with work := { u.work with ctlOps := tput u.work.ctlOps k (endedShift s slot o) } }

section shiftComplete
variable {slot : Fin 262144} {k : Nat} {o : CtlOp} {s : State} (h : shiftAt s slot = some (k, o))
include h

theorem execShiftComplete_answers (hd : o.localDone = true) : exec (.shiftComplete slot) s = .next (shiftAnswer slot k o s) := by
  unfold shiftAt at h
  change execShiftComplete slot s = _
  unfold execShiftComplete
  simp only [h, hd, if_true]

variable (hd : o.localDone = false)
include hd

theorem execShiftComplete_waits (hw : (o.left ≠ 0 ∧ (seqOf s slot).st = .shifting) ∨ jobAtUnit s (.shift slot) = true) :
    exec (.shiftComplete slot) s = .next s := by
  unfold shiftAt at h
  change execShiftComplete slot s = _
  unfold execShiftComplete
  simp only [h, hd, Bool.false_eq_true, if_false]
  rw [if_pos]
  obtain ⟨hl, hst⟩ | hj := hw
  · simp [hl, hst]
  · simp [hj]

theorem execShiftComplete_ends (hl : o.left = 0 ∨ (seqOf s slot).st ≠ .shifting) (hj : jobAtUnit s (.shift slot) = false) :
    exec (.shiftComplete slot) s = .next (if o.fwd = .waiting then shiftEnded slot k o s
      else shiftAnswer slot k (endedShift s slot o) (shiftEnded slot k o s)) := by
  unfold shiftAt at h
  change execShiftComplete slot s = _
  unfold execShiftComplete
  simp only [h, hd, Bool.false_eq_true, if_false]
  rw [if_neg]
  · rfl
  · obtain hl | hst := hl
    · simp [hl, hj]
    · simp [hst, hj]

end shiftComplete

section shiftAnswer
variable {slot k : Nat} {o : CtlOp} {s : State}

theorem shiftAnswer_done (hf : o.failed = false) :
    shiftAnswer slot k o s = admitNext slot (ctlAnswer o stOk false (ctlSingle o) false (ctlGone k o s)) := if_neg (by simp [hf])

variable (hf : o.failed = true)
include hf

theorem shiftAnswer_partner (hp : o.fwd = .okay) : shiftAnswer slot k o s = ctlAnswer o stOk false true false (ctlGone k o s) := by
  unfold shiftAnswer
  rw [if_pos hf, if_pos hp, hp]
  rfl

theorem shiftAnswer_failed (hp : o.fwd ≠ .okay) : shiftAnswer slot k o s = ctlAnswer o stInternal false false false (ctlGone k o s) := by
  unfold shiftAnswer
  rw [if_pos hf, if_neg hp, beq_false_of_ne hp]

end shiftAnswer

section shiftStep
variable {slot : Nat} {o : CtlOp} {s : State}

/-- What a shift's step finds once its frames and tensors are given back: the entry as it was, but for its tensors. -/
theorem shiftStep_entry (slot : Nat) (o : CtlOp) (s : State) : ∃ ten,
    seqOf (endRewriting slot (tensOf (seqOf s slot)) (dropReserved (o.reserved.map (·.2.2)) s)) slot = { seqOf s slot with ten := ten } := by
  have hdir : (dropReserved (o.reserved.map (·.2.2)) s).dir = s.dir :=
    (dropReserved_frame (m := [.sto]) _ (Frame.refl _ s) rfl).same .dir (by decide)
  rw [← seqOf_congr hdir slot]
  exact endRewriting_seq

/-- The entry `r` as a shift of a sequence that was `q` leaves it. -/
def shiftedSeq (r q : Seq) (delta : Nat) : Seq :=
  { r with st := .active, app := { q.app with rotOffset := (q.app.rotOffset + delta) % 2 ^ 32 } }

variable (hf : o.failed = false)
include hf

theorem shiftStep_shifts (hst : (seqOf s slot).st = .shifting) : (seqOf (shiftStep slot o s) slot).st = .active ∧
    (seqOf (shiftStep slot o s) slot).app.rotOffset = ((seqOf s slot).app.rotOffset + cDelta o.body) % 2 ^ 32 ∧
    (seqOf (shiftStep slot o s) slot).committed = (seqOf s slot).committed := by
  obtain ⟨ten, hten⟩ := shiftStep_entry slot o s
  have hseq : seqOf (shiftStep slot o s) slot = shiftedSeq { seqOf s slot with ten := ten } (seqOf s slot) (cDelta o.body) := by
    rw [← hten]
    unfold shiftStep
    simp only [hf, Bool.false_eq_true, if_false]
    rw [if_pos hst]
    exact seqOf_setSeq_self (q := shiftedSeq _ (seqOf s slot) (cDelta o.body))
      (seq_ne_default (show SeqSt.active ≠ .free by decide)) slot _
  rw [hseq]
  exact ⟨rfl, rfl, rfl⟩

theorem shiftStep_stopped (hst : (seqOf s slot).st ≠ .shifting) :
    (seqOf (shiftStep slot o s) slot).st = (seqOf s slot).st ∧ (seqOf (shiftStep slot o s) slot).app = (seqOf s slot).app := by
  obtain ⟨ten, hten⟩ := shiftStep_entry slot o s
  unfold shiftStep
  simp only [hf, Bool.false_eq_true, if_false]
  rw [if_neg hst, hten]
  exact ⟨rfl, rfl⟩

end shiftStep

/-- Settles O45: by the admission of each operation and its checks, the steps that finish it, and the tensors REWRITING meanwhile. -/
theorem commitsMoveTheWatermark : Obligations.CommitsMoveTheWatermark := by
  unfold Obligations.CommitsMoveTheWatermark
  refine ⟨?_, ?_, fun o s => ⟨ctlEnqueue_waits, ctlEnqueue_admitted⟩, ?_, fun o s hst hw => rollbackStep_cuts hst hw, ?_,
    fun k o s hst => commitStep_commits hst, fun slot s h => execCompactionStart_idle h,
    fun slot k n o r e s h hmem hn hslot ht hc => execCompactionStart_waits h ⟨n, r, e, hmem, hn, hslot, ht, hc⟩, ?_, ?_, ?_, ?_, ?_,
    fun slot k o s => ⟨shiftAnswer_done, shiftAnswer_partner, shiftAnswer_failed⟩,
    fun slot o s => ⟨fun hf hst => shiftStep_shifts hf hst, fun hf hst _ => shiftStep_stopped hf hst⟩⟩
  · intro c op f s hop
    have hexec := exec_commitControl hop s
    refine ⟨fun hn => hexec.trans (congrArg Host.Outcome.next (if_neg (by simp [hn]))), fun a u hn ha ht => ?_, fun u hn hu => ?_⟩
    · exact hexec.trans (congrArg Host.Outcome.next ((if_pos hn).trans (commitControl_taken ha ht)))
    · exact hexec.trans (congrArg Host.Outcome.next ((if_pos hn).trans (commitControl_dropped hu)))
  · intro b die m s o routed
    exact ⟨ctlArrive_malformed, ctlArrive_revoked, fun slot u v h hk hl he hp => ctlArrive_enqueued h hk hl he hp⟩
  · intro k o s hst q gone start
    refine ⟨fun st rep h => ?_, fun hop hc hm x hx => ?_, fun hop hc hm => ctlAdmit_commit_compacts hst hop hc hm, fun hop hc x hx => ?_,
      fun hop hu hc => ?_⟩
    · obtain ⟨hop, hc⟩ | ⟨hop, hc⟩ | ⟨hop, hu, hc⟩ := h
      · exact ctlAdmit_commit_refused hst hop hc
      · exact ctlAdmit_rollback_refused hst hop hc
      · exact ctlAdmit_shift_refused hop hu hc
    · have hadmit := ctlAdmit_commit_prefix (k := k) hst hop hc hm
      exact ⟨fun hf => hadmit.trans (unlessForwarded_alone hx hf), fun hf => hadmit.trans (unlessForwarded_forwarded hx hf)⟩
    · have hadmit := ctlAdmit_rollback (k := k) hst hop hc
      exact ⟨fun hf => hadmit.trans (unlessForwarded_alone hx hf), fun hf => hadmit.trans (unlessForwarded_forwarded hx hf)⟩
    · have hadmit := ctlAdmit_shift (k := k) hop hu hc
      refine ⟨fun u h => hadmit.trans (shiftAccept_noFrame h), fun a u h => hadmit.trans (shiftAccept_lost h), fun res u w h hr => ?_⟩
      obtain ⟨p, hbegins⟩ := shiftAccept_begins (k := k) h hr
      exact ⟨p, hadmit.trans hbegins⟩
  · intro q b
    exact ⟨commitCheck_malformed, commitCheck_repeat, commitCheck_conflict, commitCheck_accepts, rollbackCheck_accepts,
      shiftCheck_accepts, rollbackCheck_conflict, rollbackCheck_repeat, shiftCheck_repeat, shiftCheck_pending⟩
  · intro slot k o s h hdone
    have hw : ¬ compactionWaits s slot o := fun ⟨n, r, e, hmem, hn, hslot, ht, hc⟩ => Nat.not_lt.2 (hdone n r e hmem hn hslot ht) hc
    refine ⟨execCompactionStart_noFrame h hw, fun cmds u hr => ⟨compactReserve_compactsOnly slot o s cmds u hr,
      fun hb => ⟨_, execCompactionStart_beyond h hw hr hb, raise_causeSet _ _ _⟩, fun hb => ⟨_, execCompactionStart_begins h hw hr hb,
        compactionBegun_op, by rw [compactionBegun_work], compactionBegun_dir, compactionBegun_mem⟩⟩⟩
  · intro slot l s _
    exact ⟨fun x hx => beginRewriting_other hx, fun ti h hl => beginRewriting_rewrites h hl, fun ti h => beginRewriting_stays h,
      fun ti hr h hl => endRewriting_fast hr h hl, fun ti h => endRewriting_stays h⟩
  · intro slot k o s h hreq ht
    have hw : ¬ compactionWaits s slot o := fun ⟨n, r, e, hmem, _⟩ => absurd (hreq ▸ hmem) List.not_mem_nil
    exact ⟨_, execCompactionStart_begins h hw (compactReserve_empty ht) rfl, compactionBegun_op, compactionBegun_dir, compactionBegun_mem⟩
  · intro slot k o s h
    exact ⟨fun hf hop hfail => execCommitFinalStep_commit h hf hop hfail, fun hf hop hfail => execCommitFinalStep_failed h hf hop hfail,
      fun hf hop => execCommitFinalStep_rollback h hf hop, fun st hf hop => execCommitFinalStep_refused h hf hop⟩
  · intro slot k o s h
    refine ⟨execShiftComplete_answers h, execShiftComplete_waits h, fun hd hl hj => ?_⟩
    have hends := execShiftComplete_ends h hd hl hj
    exact ⟨fun hf => hends.trans (congrArg Host.Outcome.next (if_pos hf)), fun hf => hends.trans (congrArg Host.Outcome.next (if_neg hf))⟩

end Sys2Proof.Proofs

/-! PROOF. The upkeep of the channels: retracking, refresh, device temperature, link CRC and retraining (04 R82-R86). -/

namespace Sys2Proof.Proofs

open Sys2Proof.Machine Sys2Proof.Laws

/-! ## Steps that each touch one channel -/

section perChannel
variable {f : State → Nat → State} {key : Nat → Nat}

/-- A run of steps, each of which touches the channel of its own key alone, leaves any channel of no key as it was. -/
theorem chanSt_foldl_of_not_key (hother : ∀ s i x, x ≠ key i → chanSt (f s i) x = chanSt s x) {x : Nat} (l : List Nat)
    (hx : ∀ i ∈ l, x ≠ key i) (s : State) : chanSt (l.foldl f s) x = chanSt s x := by
  induction l generalizing s with
  | nil => rfl
  | cons i l ih =>
    rw [List.foldl_cons, ih (fun j hj => hx j (List.mem_cons_of_mem _ hj)), hother s i x (hx i List.mem_cons_self)]

/-- What each step does to the channel of its own key is what the run does to it, the keys being distinct. -/
theorem chanSt_foldl_range (hkey : Function.Injective key) (hother : ∀ s i x, x ≠ key i → chanSt (f s i) x = chanSt s x)
    {R : Chan → Chan → Prop} (hself : ∀ s i, R (chanSt s (key i)) (chanSt (f s i) (key i))) {n i : Nat} (hi : i < n) (s : State) :
    R (chanSt s (key i)) (chanSt ((List.range n).foldl f s) (key i)) := by
  induction n with
  | zero => exact absurd hi (Nat.not_lt_zero i)
  | succ n ih =>
    rw [List.range_succ, List.foldl_append, List.foldl_cons, List.foldl_nil]
    by_cases hin : i = n
    · subst hin
      rw [← chanSt_foldl_of_not_key hother (List.range i) (fun j hj h => absurd (hkey h) (List.mem_range.1 hj).ne') s]
      exact hself _ i
    · rw [hother _ n _ fun h => hin (hkey h)]
      exact ih (by omega)

end perChannel

/-! ## Owed refreshes (R84, R85, R107) -/

theorem payDown_journal (s : State) (c : Chan) : (payDown s c).journal = c.journal := by unfold payDown; simp only; split <;> rfl

/-- How many of the owed REFpb issue by now, once the first may. -/
def refsIssued (s : State) (c : Chan) : Nat := min (c.debt - owedFloor s c) ((now s - c.refNext) / trrefd s + 1)

section payDown
variable {s : State} {c : Chan}

theorem payDown_waits (h : c.atom.isSome = true ∨ now s < c.refNext) : payDown s c = c := if_pos h

theorem payDown_issues (ha : c.atom = none) (ht : c.refNext ≤ now s) : payDown s c =
    { c with debt := c.debt - refsIssued s c, bank := (c.bank + refsIssued s c) % 16, refNext := c.refNext + refsIssued s c * trrefd s } :=
  if_neg (by simp [ha, Nat.not_lt.2 ht])

/-- The last of those that issue does so by now. -/
theorem refsIssued_by_now (ht : c.refNext ≤ now s) : c.refNext + (refsIssued s c - 1) * trrefd s ≤ now s := by
  have hle : refsIssued s c - 1 ≤ (now s - c.refNext) / trrefd s := Nat.sub_le_of_le_add (Nat.min_le_right _ _)
  have hmul := (Nat.mul_le_mul_right (trrefd s) hle).trans (Nat.div_mul_le_self (now s - c.refNext) (trrefd s))
  omega

/-- Either all issue but those that stay owed, or the next may not yet. -/
theorem refsIssued_all_or_next (hpos : 0 < trrefd s) :
    refsIssued s c = c.debt - owedFloor s c ∨ now s < c.refNext + refsIssued s c * trrefd s := by
  have hnext : now s - c.refNext < ((now s - c.refNext) / trrefd s + 1) * trrefd s := by
    rw [Nat.mul_comm]
    exact Nat.lt_mul_div_succ _ hpos
  unfold refsIssued
  rcases min_choice (c.debt - owedFloor s c) ((now s - c.refNext) / trrefd s + 1) with h | h
  · exact .inl h
  · rw [h]
    exact .inr (by omega)

/-- A debt of no more than stays owed is kept. -/
theorem payDown_within_floor (h : c.debt ≤ owedFloor s c) : payDown s c = c ∨ payDown s c = { c with bank := c.bank % 16 } := by
  by_cases hw : c.atom.isSome = true ∨ now s < c.refNext
  · exact .inl (payDown_waits hw)
  · obtain ⟨ha, ht⟩ := not_or.1 hw
    have hnone : refsIssued s c = 0 := Nat.eq_zero_of_le_zero ((Nat.min_le_left _ _).trans (Nat.sub_eq_zero_of_le h).le)
    rw [payDown_issues (by simpa using ha) (Nat.not_lt.1 ht), hnone]
    simp

end payDown

/-- A channel whose owed REFpb have been issued, when one more falls due. -/
def refFallsDue (bankReads : Bool) (s : State) (c : Chan) : Chan :=
  { c with debt := min 32 (c.debt + 1), bankReads := bankReads, refNext := if c.bankReads then max c.refNext (now s) else c.refNext }

section refpbDue
variable {ch : Fin 192} {bankReads : Bool} {s : State} (hs : awake s = true) (hl : (chanSt s ch).lost = false)
include hs hl

theorem execRefpbDue_owed (ha : (chanSt s ch).atom.isSome = true) : exec (.refpbDue ch bankReads) s =
    .next (setChan ch { chanSt s ch with debt := min 32 ((chanSt s ch).debt + 1) } s) :=
  congrArg Host.Outcome.next ((if_neg (by simp [hs, hl])).trans (if_pos ha))

theorem execRefpbDue_issues (ha : (chanSt s ch).atom = none) : exec (.refpbDue ch bankReads) s =
    .next (setChan ch (payDown s (refFallsDue bankReads s (payDown s (chanSt s ch)))) s) := by
  refine congrArg Host.Outcome.next ((if_neg (by simp [hs, hl])).trans ((if_neg (by simp [ha])).trans ?_))
  unfold refFallsDue oweOne
  simp only
  split <;> rfl

end refpbDue

/-- While its bank has reads queued a REFpb that falls due is owed, and none issues (R85). -/
theorem refFallsDue_held {s : State} {c : Chan} (ha : c.atom = none) (hy : (payDown s c).yielded = false) (hd : (payDown s c).debt < 7) :
    (payDown s (refFallsDue true s (payDown s c))).debt = (payDown s c).debt + 1 ∧
    (payDown s (refFallsDue true s (payDown s c))).bank = (payDown s c).bank := by
  have hdebt : (refFallsDue true s (payDown s c)).debt = (payDown s c).debt + 1 := by
    simp only [refFallsDue]
    omega
  by_cases ht : now s < c.refNext
  · have hstay := payDown_waits (s := s) (c := c) (.inr ht)
    have hlater : now s < (refFallsDue true s c).refNext := by
      simp only [refFallsDue]
      split <;> omega
    rw [hstay] at hdebt ⊢
    rw [payDown_waits (.inr hlater)]
    exact ⟨hdebt, rfl⟩
  · have hfloor : owedFloor s (refFallsDue true s (payDown s c)) = 7 := by simp [owedFloor, refFallsDue, hy]
    have hbank : (payDown s c).bank % 16 = (payDown s c).bank := by
      rw [payDown_issues ha (Nat.not_lt.1 ht)]
      exact Nat.mod_mod _ _
    rcases payDown_within_floor (hdebt.trans_le (by omega) : _ ≤ owedFloor s (refFallsDue true s (payDown s c))) with h | h <;> rw [h]
    · exact ⟨hdebt, rfl⟩
    · exact ⟨hdebt, hbank⟩

/-! ## Retracking (R82) -/

theorem execG7Retrack_awake {ch : Fin 192} {s : State} (hs : awake s = true) (hl : (chanSt s ch).lost = false) :
    exec (.g7Retrack ch) s = .next (
      if now s < (chanSt s ch).lastRetrack + 10000000 then s
      else if (chanSt s ch).atom.isSome then setChan ch { chanSt s ch with retrackDue := true } s
      else setChan ch { chanSt s ch with lastRetrack := now s } s) := by
  change execG7Retrack ch s = _
  simp only [execG7Retrack, hs, hl, Bool.not_true, Bool.false_or, decide_eq_true_eq]

/-! ## The temperature of a device (R86) -/

/-- Whether a channel is to halve tREFI at a device's temperature. -/
def wantsHalf (celsius : Int) (c : Chan) : Bool := if 85 < celsius then true else if celsius ≤ 82 then false else c.halfDue.getD c.half

/-- What a reading of its device's temperature does to channel `ch`. -/
def readTemp (celsius : Int) (ch : Nat) (s : State) : State :=
  let c := chanSt s ch
  let want := wantsHalf celsius c
  if want = c.halfDue.getD c.half then s
  else if c.atom.isSome then setChan ch { c with halfDue := if want = c.half then none else some want } s
  else setHalved ch want s

theorem execDeviceTempRead_awake {dev : Fin 48} {celsius : Int} {s : State} (hs : awake s = true) :
    exec (.deviceTempRead dev celsius) s = .next ((List.range 4).foldl (fun s i => readTemp celsius (dev.val * 4 + i) s) s) :=
  congrArg Host.Outcome.next (if_neg (by simp [hs]))

theorem chanSt_setHalved (ch : Nat) (want : Bool) (s : State) (x : Nat) : chanSt (setHalved ch want s) x =
    chanSt (setChan ch { chanSt s ch with half := want, halfDue := none } s) x :=
  chanSt_congr ((setHalved_touches_causes ch want s).same .chan (by decide)) x

theorem readTemp_of_ne {ch x : Nat} (hx : x ≠ ch) (celsius : Int) (s : State) : chanSt (readTemp celsius ch s) x = chanSt s x := by
  unfold readTemp
  simp only
  split
  · rfl
  · split
    · exact chanSt_setChan_of_ne hx _ _
    · rw [chanSt_setHalved, chanSt_setChan_of_ne hx]

/-- From `c` to `c'` a channel takes the interval it is to have, at once or, where an atom runs, at its end. -/
def takesInterval (celsius : Int) (c c' : Chan) : Prop :=
  c'.halfDue.getD c'.half = wantsHalf celsius c ∧ (c.atom.isSome → c'.half = c.half)

theorem readTemp_self (celsius : Int) (ch : Nat) (s : State) :
    takesInterval celsius (chanSt s ch) (chanSt (readTemp celsius ch s) ch) := by
  unfold readTemp takesInterval
  simp only
  split
  case isTrue h => exact ⟨h.symm, fun _ => rfl⟩
  case isFalse h =>
    split
    · rw [chanSt_setChan_self]
      refine ⟨?_, fun _ => rfl⟩
      simp only
      split
      case isTrue hw => exact hw.symm
      case isFalse hw => rfl
    case isFalse ha =>
      rw [chanSt_setHalved, chanSt_setChan_self]
      exact ⟨rfl, fun h => absurd h ha⟩

/-! ## Link CRC (R83) -/

theorem raiseCount_chanSt (l : Leaf) (off : Nat) (d : Detail) (s : State) (ch : Nat) : chanSt (raiseCount l off d s) ch = chanSt s ch :=
  chanSt_congr ((raiseCount_frame (m := [.catchment, .log, .cnt]) l off d (Frame.refl _ s) rfl).same .chan (by decide)) ch

theorem raiseCount_causeSet (l : Leaf) (off : Nat) (d : Detail) (s : State) : causeSet l (raiseCount l off d s) := raise_causeSet l d s

/-- What follows an atom leaves the state of the link. -/
theorem afterAtom_link (ch : Nat) (s : State) : (chanSt (afterAtom ch s) ch).crc = (chanSt s ch).crc ∧
    (chanSt (afterAtom ch s) ch).retraining = (chanSt s ch).retraining := by
  unfold afterAtom
  simp only
  split
  · rw [chanSt_setHalved, chanSt_setChan_self, chanSt_setChan_self]
    exact ⟨rfl, rfl⟩
  · rw [chanSt_setChan_self]
    exact ⟨rfl, rfl⟩

theorem endAtom_link (ch : Nat) (st : JournalSt) (wrote : Bool) (s : State) : (chanSt (endAtom ch st wrote s) ch).crc = (chanSt s ch).crc ∧
    (chanSt (endAtom ch st wrote s) ch).retraining = (chanSt s ch).retraining := by
  cases h : (chanSt s ch).atom with
  | none =>
    rw [endAtom_of_none ch st wrote s h]
    exact ⟨rfl, rfl⟩
  | some a =>
    rw [endAtom_of_some ch st wrote s h, chanSt_setJournal_self, chanSt_setChan_self]
    exact ⟨rfl, rfl⟩

/-- A running atom abandoned leaves none, and the link as it was. -/
theorem abandonAtom_chan (ch : Nat) (wrote : Bool) (s : State) : (chanSt (abandonAtom ch wrote s) ch).crc = (chanSt s ch).crc ∧
    (chanSt (abandonAtom ch wrote s) ch).retraining = (chanSt s ch).retraining ∧ (chanSt (abandonAtom ch wrote s) ch).atom = none := by
  unfold abandonAtom
  split
  case isTrue h => exact ⟨rfl, rfl, Option.isNone_iff_eq_none.1 h⟩
  case isFalse h =>
    obtain ⟨hcrc, hre⟩ := afterAtom_link ch (endAtom ch .abandoned wrote s)
    obtain ⟨hcrc', hre'⟩ := endAtom_link ch .abandoned wrote s
    obtain ⟨c, hc, hatom, -⟩ := afterAtom_chan ch (endAtom ch .abandoned wrote s)
    exact ⟨hcrc.trans hcrc', hre.trans hre', (congrArg Chan.atom hc).trans hatom⟩

section linkCrc
variable {ch : Fin 192} {again : Bool} {s : State} (hs : awake s = true) (hl : (chanSt s ch).lost = false)
  (hr : (chanSt s ch).retraining = false)
include hs hl hr

theorem execLinkCrcFail_repeats (hn : (if again then (chanSt s ch).crc + 1 else 1) < 4) : exec (.linkCrcFail ⟨ch, again⟩) s =
    .next (raiseCount (leafLinkCrcRetry (ch / 12)) (rgnCntOff (ch / 12) 8) [(16, 1, ch % 12)]
      (setChan ch { chanSt s ch with crc := if again then (chanSt s ch).crc + 1 else 1 } s)) :=
  congrArg Host.Outcome.next ((if_neg (by simp [hs, hl, hr])).trans (if_pos hn))

theorem execLinkCrcFail_retrains (hn : 4 ≤ if again then (chanSt s ch).crc + 1 else 1) : exec (.linkCrcFail ⟨ch, again⟩) s =
    .next (raiseCount (leafLinkRetrain (ch / 12)) (rgnCntOff (ch / 12) 9) [(16, 1, ch % 12)]
      (abandonAtom ch true (setChan ch { chanSt s ch with crc := 0, retraining := true } s))) :=
  congrArg Host.Outcome.next ((if_neg (by simp [hs, hl, hr])).trans (if_neg (Nat.not_lt.2 hn)))

end linkCrc

/-! ## The end of a retraining (R83) -/

section retrainDone
variable {ch : Fin 192} {s : State} (hs : awake s = true) (hr : (chanSt s ch).retraining = true)
include hs hr

theorem execChannelRetrainDone_passed : exec (.channelRetrainDone ch true) s =
    .next (setChan ch { chanSt s ch with retraining := false, retrainFails := 0 } s) :=
  congrArg Host.Outcome.next ((if_neg (by simp [hs, hr])).trans (if_pos rfl))

theorem execChannelRetrainDone_failed (hf : (chanSt s ch).retrainFails = 0) : exec (.channelRetrainDone ch false) s =
    .next (raiseCount (leafLinkRetrain (ch / 12)) (rgnCntOff (ch / 12) 9) [(16, 1, ch % 12)]
      (setChan ch { chanSt s ch with retrainFails := (chanSt s ch).retrainFails + 1 } s)) :=
  congrArg Host.Outcome.next ((if_neg (by simp [hs, hr])).trans ((if_neg Bool.false_ne_true).trans (if_pos (by omega))))

theorem execChannelRetrainDone_lost (hf : 1 ≤ (chanSt s ch).retrainFails) : exec (.channelRetrainDone ch false) s = .next (
    let u := raise (leafG7ChannelLost (ch / 12)) [(16, 1, ch % 12)]
      (setChan ch { chanSt s ch with retraining := false, retrainFails := 0, lost := true } s)
    fenceRegion (ch / 12) (logSeq u (ringRegion (ch / 12))) u) :=
  congrArg Host.Outcome.next ((if_neg (by simp [hs, hr])).trans ((if_neg Bool.false_ne_true).trans (if_neg (by omega))))

end retrainDone

/-- In a node that is not awake none of the channels' commands does anything. -/
theorem exec_upkeep_asleep {c : Instr} {ch : Fin 192} {s : State} (hs : awake s = false)
    (hc : c = .g7Retrack ch ∨ (∃ b, c = .linkCrcFail ⟨ch, b⟩) ∨ (∃ b, c = .refpbDue ch b) ∨ ∃ b, c = .channelRetrainDone ch b) :
    exec c s = .next s := by
  obtain rfl | ⟨b, rfl⟩ | ⟨b, rfl⟩ | ⟨b, rfl⟩ := hc <;> exact congrArg Host.Outcome.next (if_pos (by simp [hs]))

/-- Settles O32: by what each of the channels' commands does to its channel's record. -/
theorem channelsAreKept : Obligations.ChannelsAreKept := by
  unfold Obligations.ChannelsAreKept
  refine ⟨fun ch s hs hl => execG7Retrack_awake hs hl, ?_, fun c s => ⟨payDown_waits, fun ha ht => ?_⟩, fun c s => rfl, ?_, ?_, ?_,
    fun ch s hs c hc => exec_upkeep_asleep hs hc⟩
  · intro ch bankReads s hs hl
    cases ha : (chanSt s ch).atom with
    | some a =>
      refine ⟨_, execRefpbDue_owed hs hl (by rw [ha]; rfl), fun _ => chanSt_setChan_self _ _ _, fun h => absurd h (by simp), ?_, ?_,
        fun x hx => chanSt_setChan_of_ne hx _ _⟩
      · rw [chanSt_setChan_self]
        exact ha
      · rw [chanSt_setChan_self]
    | none =>
      refine ⟨_, execRefpbDue_issues hs hl ha, fun h => absurd h (by simp), fun _ => ⟨chanSt_setChan_self _ _ _, ?_⟩, ?_, ?_,
        fun x hx => chanSt_setChan_of_ne hx _ _⟩
      · rintro rfl hy hd
        rw [chanSt_setChan_self]
        exact refFallsDue_held ha hy hd
      · rw [chanSt_setChan_self, payDown_atom]
        exact (payDown_atom s _).trans ha
      · rw [chanSt_setChan_self, payDown_journal]
        exact payDown_journal s _
  · exact ⟨refsIssued s c, Nat.min_le_left _ _, fun _ => refsIssued_by_now ht, refsIssued_all_or_next, payDown_issues ha ht⟩
  · intro dev celsius s hs
    exact ⟨_, execDeviceTempRead_awake hs, fun i hi => chanSt_foldl_range (key := fun i => dev.val * 4 + i) (fun i j h => Nat.add_left_cancel h)
      (fun s i x hx => readTemp_of_ne hx celsius s) (R := takesInterval celsius) (fun s i => readTemp_self celsius _ s) hi s⟩
  · intro ch again s hs hl hr n
    by_cases hn : n < 4
    · refine ⟨_, execLinkCrcFail_repeats hs hl hr hn, fun _ => ⟨?_, ?_, raiseCount_causeSet _ _ _ _⟩, fun h => absurd hn (Nat.not_lt.2 h)⟩
      · rw [raiseCount_chanSt, chanSt_setChan_self]
      · rw [raiseCount_chanSt, chanSt_setChan_self]
        exact hr
    · refine ⟨_, execLinkCrcFail_retrains hs hl hr (Nat.not_lt.1 hn), fun h => absurd h hn, fun _ => ?_⟩
      obtain ⟨hcrc, hre, hatom⟩ := abandonAtom_chan ch true (setChan ch { chanSt s ch with crc := 0, retraining := true } s)
      rw [chanSt_setChan_self] at hcrc hre
      rw [raiseCount_chanSt]
      exact ⟨hcrc, hre, hatom, raiseCount_causeSet _ _ _ _⟩
  · intro ch s hs hr
    refine ⟨execChannelRetrainDone_passed hs hr, fun hf => ⟨_, execChannelRetrainDone_failed hs hr hf, ?_⟩, execChannelRetrainDone_lost hs hr⟩
    rw [raiseCount_chanSt, chanSt_setChan_self, hf]

end Sys2Proof.Proofs

/-! PROOF. Commands of the channel units: their arrival at the aperture, scrubbing passes and compute mode (04 R96, R97, R98, R102). -/

namespace Sys2Proof.Proofs

open Sys2Proof.Machine Sys2Proof.Laws

/-! ## Arrival at the aperture (R97, R98) -/

/-- The commands of Table 4.5, each by its OP. -/
theorem exec_unitTake {c : Instr} {op : Nat} {ch : Fin 192}
    (h : (c, op) = (.appendTail ch, 1) ∨ (c, op) = (.requant ch, 2) ∨ (c, op) = (.reencode ch, 3) ∨ (c, op) = (.compact ch, 4) ∨
      (c, op) = (.deltaDecode ch, 5) ∨ (c, op) = (.scrub ch, 6)) (s : State) : exec c s = .next (unitTake ch op s) := by
  simp only [Prod.mk.injEq] at h
  obtain ⟨rfl, rfl⟩ | ⟨rfl, rfl⟩ | ⟨rfl, rfl⟩ | ⟨rfl, rfl⟩ | ⟨rfl, rfl⟩ | ⟨rfl, rfl⟩ := h <;> rfl

theorem unitTake_none {ch op : Nat} {s : State} (h : (chanSt s ch).issued.find? (fun u => u.op == op) = none) : unitTake ch op s = s := by
  unfold unitTake
  simp only [h]

/-- The state in which an issued command has left its issuer. -/
def cmdLeft (ch : Nat) (u : UnitCmd) (s : State) : State := setChan ch { chanSt s ch with issued := (chanSt s ch).issued.erase u } s

/-- What an issued command meets at its unit, in order. -/
theorem unitTake_some {ch op : Nat} {u : UnitCmd} {s : State} (h : (chanSt s ch).issued.find? (fun u => u.op == op) = some u) :
    unitTake ch op s =
      if (chanSt s ch).lost || (rgnOf s (ch / 12)).fenced then jobFail u stInternal (cmdLeft ch u s)
      else if !(rgnOf s (ch / 12)).modeAck || !(rgnOf s (ch / 12)).unitMode then
        jobFail u stStateConflict (raise (leafApertureMode (ch / 12)) ((18, 1, stStateConflict) :: unitDetail ch u) (cmdLeft ch u s))
      else if 16 ≤ (chanSt s ch).queue.length then
        jobFail u stStateConflict (raise (leafUnitQueueOverrun (ch / 12)) ((18, 1, stStateConflict) :: unitDetail ch u) (cmdLeft ch u s))
      else setChan ch { chanSt (cmdLeft ch u s) ch with queue := (chanSt s ch).queue ++ [cmdRead (cmdBytes u) u] } (cmdLeft ch u s) := by
  unfold unitTake
  simp only [h]
  rfl

/-! ## SCRUB_PASS (R102) -/

theorem chanSt_issueUnit_self (ch : Nat) (u : UnitCmd) (s : State) :
    chanSt (issueUnit ch u s) ch = { chanSt s ch with issued := (chanSt s ch).issued ++ [u] } := tget_tput _ _ _ _

theorem chanSt_issueUnit_of_ne {ch x : Nat} (hx : x ≠ ch) (u : UnitCmd) (s : State) : chanSt (issueUnit ch u s) x = chanSt s x :=
  tget_tput_ne hx

/-- SCRUB is issued to unit `i` of region `r`. -/
def issueScrub (r : Nat) (s : State) (i : Nat) : State := issueUnit (r * 12 + i) { op := 6, tag := s.work.next, job := .scrub } s

theorem issueScrub_scrubDue (r : Nat) (l : List Nat) (s : State) : (l.foldl (issueScrub r) s).work.scrubDue = s.work.scrubDue :=
  foldl_keeps (f := issueScrub r) (π := fun s => s.work.scrubDue) (fun _ _ => rfl) l s

theorem execScrubPass_idle {r : Fin 16} {s : State} (h : awake s = false ∨ rgnFenced s r = true ∨ now s < tget 0 s.work.scrubDue r) :
    exec (.scrubPass r) s = .next s :=
  congrArg Host.Outcome.next (if_pos (by simpa [or_assoc] using h))

theorem execScrubPass_due {r : Fin 16} {s : State} (hs : awake s = true) (hf : rgnFenced s r = false) (hd : tget 0 s.work.scrubDue r ≤ now s) :
    exec (.scrubPass r) s = .next ((List.range 12).foldl (issueScrub r)
      { s with work := { s.work with scrubDue := tput s.work.scrubDue r (now s + 28800000000000) } }) :=
  congrArg Host.Outcome.next (if_neg (by simpa [hs, hf] using hd))

/-! ## Compute mode (R96) -/

theorem unitsBusy_congr {s t : State} (h : t.chan = s.chan) (r : Nat) : unitsBusy t r = unitsBusy s r := by
  unfold unitsBusy chanSt
  rw [h]

theorem execUnitModeCompute_awake {r : Fin 16} {s : State} (hs : awake s = true) : exec (.unitModeCompute r) s =
    .next (setRgn r { rgnOf s r with unitMode := true, modeAck := true, scratch := 12 } s) :=
  congrArg Host.Outcome.next (if_neg (by simp [hs]))

/-- The record of a region whose MODE is set to 0: its scratch is returned when no unit is busy. -/
def normalMode (busy : Bool) (g : Rgn) : Rgn :=
  if busy then { g with unitMode := false } else { g with unitMode := false, modeAck := false, scratch := 0 }

/-- MODE set to 0 changes the region's own record alone. -/
theorem setMode_normal (r : Nat) (s : State) : rgnOf (setMode r false s) r = normalMode (unitsBusy s r) (rgnOf s r) ∧
    ∀ x, x ≠ r → rgnOf (setMode r false s) x = rgnOf s x := by
  have hbusy : unitsBusy (setRgn r { rgnOf s r with unitMode := false } s) r = unitsBusy s r := unitsBusy_congr rfl r
  unfold setMode drainMode normalMode
  simp only [Bool.false_eq_true, if_false, rgnOf_setRgn_self, Bool.false_or, hbusy]
  split
  · exact ⟨rgnOf_setRgn_self _ _ _, fun x hx => rgnOf_setRgn_of_ne hx _ _⟩
  · exact ⟨rgnOf_setRgn_self _ _ _, fun x hx => by rw [rgnOf_setRgn_of_ne hx, rgnOf_setRgn_of_ne hx]⟩

theorem execUnitModeNormal_awake {r : Fin 16} {s : State} (hs : awake s = true) : exec (.unitModeNormal r) s = .next (setMode r false s) :=
  congrArg Host.Outcome.next (if_neg (by simp [hs]))

/-- Settles O33: by the branches that a command meets at its unit, the twelve commands of a scrubbing pass and the region's record in each mode. -/
theorem unitsTakeCommandsInCompute : Obligations.UnitsTakeCommandsInCompute := by
  unfold Obligations.UnitsTakeCommandsInCompute
  refine ⟨fun c op ch s hc => ?_, fun r s hs hf hd => ⟨_, execScrubPass_due hs hf hd, ?_, fun i hi => ?_⟩, fun r s h => execScrubPass_idle h,
    fun r s hs => ⟨_, execUnitModeCompute_awake hs, rgnOf_setRgn_self _ _ _, fun x hx => rgnOf_setRgn_of_ne hx _ _⟩,
    fun r s hs => ⟨_, execUnitModeNormal_awake hs, ?_⟩⟩
  · have hexec := exec_unitTake hc s
    refine ⟨fun u hu => ?_, fun hn => hexec.trans (congrArg Host.Outcome.next (unitTake_none hn))⟩
    rw [unitTake_some hu] at hexec
    refine ⟨fun h => ?_, fun hl hf hm => ?_, fun hl hf hm ha => ?_⟩
    · rw [hexec, if_pos (by simpa using h)]
      rfl
    · rw [hexec, if_neg (by simp [hl, hf]), if_pos (by simpa using hm.symm)]
      rfl
    · rw [if_neg (by simp [hl, hf]), if_neg (by simp [hm, ha])] at hexec
      refine ⟨fun hq => hexec.trans (congrArg Host.Outcome.next (if_pos hq)), fun hq => ?_⟩
      refine ⟨_, hexec.trans (congrArg Host.Outcome.next (if_neg (Nat.not_le.2 hq))), ?_, ?_, rfl, rfl, rfl⟩
      · rw [chanSt_setChan_self]
      · rw [chanSt_setChan_self]
        exact congrArg Chan.issued (chanSt_setChan_self _ _ _)
  · rw [issueScrub_scrubDue]
    exact tget_tput _ _ _ _
  · exact chanSt_foldl_range (f := issueScrub r) (key := fun i => r.val * 12 + i) (fun i j h => Nat.add_left_cancel h)
      (fun s i x hx => chanSt_issueUnit_of_ne hx _ s) (R := fun c c' => ∃ u : UnitCmd, u.op = 6 ∧ c'.issued = c.issued ++ [u])
      (fun s i => ⟨_, rfl, congrArg Chan.issued (chanSt_issueUnit_self _ _ s)⟩) hi
      { s with work := { s.work with scrubDue := tput s.work.scrubDue r (now s + 28800000000000) } }
  · obtain ⟨hself, hother⟩ := setMode_normal r s
    rw [hself]
    cases unitsBusy s r <;> exact ⟨rfl, by simp [normalMode], by simp [normalMode], hother⟩

end Sys2Proof.Proofs

/-! PROOF. Maps as they are read and fetched, and the probes of partners (15 R340; 16 R347-R349, R351). -/

namespace Sys2Proof.Proofs

open Sys2Proof.Machine Sys2Proof.Laws

/-! ## Reading a map (15 R340) -/

/-- MAP_READ is refused with a status, the map's epoch and window said. -/
def refuseMapRead (f : RxFrame) (a : Admitted) (st : Nat) (s : State) : State :=
  let x := compOf s (rd a.payload 0 4)
  respond f a.die (epochOf x) (respBody st false x.window (epochOf x) 0 0) s

section mapRead
variable {f : RxFrame} {a : Admitted} {s u : State} (h : takeControl f [0x22] s = (some a, u))
include h

theorem execMapRead_behind (hb : behind (compOf u (rd a.payload 0 4)) = true) : exec (.mapRead f) s = .next (refuseMapRead f a stRetry u) := by
  change execMapRead f s = _
  unfold execMapRead refuseMapRead
  simp only [h, if_pos hb]

variable (hb : behind (compOf u (rd a.payload 0 4)) = false)
include hb

theorem execMapRead_absent (hm : (compOf u (rd a.payload 0 4)).map = none) : exec (.mapRead f) s = .next (refuseMapRead f a stNoPage u) := by
  change execMapRead f s = _
  unfold execMapRead refuseMapRead
  simp only [h, hb, Bool.false_eq_true, if_false, hm]

variable {m : DMap} (hm : (compOf u (rd a.payload 0 4)).map = some m)
include hm

theorem execMapRead_notMember (hn : tlook m.members f.hdr.src.toNat = none) : exec (.mapRead f) s = .next (refuseMapRead f a stAccess u) := by
  change execMapRead f s = _
  unfold execMapRead refuseMapRead
  simp only [h, hb, Bool.false_eq_true, if_false, hm, hn, Option.isNone_none, if_true]

theorem execMapRead_member (hn : tlook m.members f.hdr.src.toNat ≠ none) : exec (.mapRead f) s = .next (
    noteEpoch f (rd a.payload 0 4) (rd a.payload 4 4)
      (respond f a.die m.epoch (mapPage (compOf u (rd a.payload 0 4)) m (rd a.payload 4 4) (rd a.payload 8 4)) u)) := by
  have hin : ¬ (tlook m.members f.hdr.src.toNat).isNone = true := fun h => hn (Option.isNone_iff_eq_none.1 h)
  change execMapRead f s = _
  unfold execMapRead
  simp only [h, hb, Bool.false_eq_true, if_false, hm, if_neg hin]

end mapRead

/-! ## Fetching a map (15 R340; 16 R351) -/

section mapNotice
variable {f : RxFrame} {a : Admitted} {s u : State} (h : takeControl f [0x2C] s = (some a, u))
include h

theorem execMapNotice_fetches (hm : (compOf u (rd a.payload 0 4)).map = none ∨ epochOf (compOf u (rd a.payload 0 4)) < rd a.payload 4 4) :
    exec (.mapNotice f) s = .next (fetchFrom f (rd a.payload 0 4) u) := by
  change execMapNotice f s = _
  unfold execMapNotice
  simp only [h]
  rw [if_pos (by simpa using hm)]

theorem execMapNotice_held (hm : (compOf u (rd a.payload 0 4)).map.isSome = true) (he : rd a.payload 4 4 ≤ epochOf (compOf u (rd a.payload 0 4))) :
    exec (.mapNotice f) s = .next u := by
  change execMapNotice f s = _
  unfold execMapNotice
  simp only [h]
  rw [if_neg (by simpa [Option.isSome_iff_ne_none.1 hm] using he)]

end mapNotice

theorem fetchFrom_underWay {f : RxFrame} {c : Nat} {s : State} (h : (compOf s c).fetch.isSome = true) : fetchFrom f c s = s := if_pos h

theorem fetchFrom_asks {f : RxFrame} {c : Nat} {s : State} (h : (compOf s c).fetch = none) : fetchFrom f c s =
    askMap c { src := f.hdr.src.toNat, addr := f.srcAddr }
      (setComp c { compOf s c with fetch := some { src := f.hdr.src.toNat, addr := f.srcAddr } } s) := if_neg (by simp [h])

/-- MAP_READ as a fetch sends it. -/
def mapAsk (c : Nat) (g : Fetch) : OutMsg :=
  { op := 0x22, dst := g.src, addr := some g.addr, data := leBytes 4 c ++ leBytes 4 g.epoch ++ leBytes 4 g.cursor, purpose := .mapRead c }

section askMap
variable {c : Nat} {g : Fetch} {s u : State}

theorem askMap_sent {id : Nat} (h : sendMsg ctlDie (mapAsk c g) s = (.sent id, u)) : askMap c g s = u := by
  unfold mapAsk at h
  simp only [askMap, h]

theorem askMap_refused {st : Nat} (h : sendMsg ctlDie (mapAsk c g) s = (.refused st, u)) : askMap c g s = fetchFails c u := by
  unfold mapAsk at h
  simp only [askMap, h, fetchFails]

end askMap

theorem execMapFetchResponse_page {f : RxFrame} {a : Admitted} {id c : Nat} {m : OutMsg} {s u : State}
    (h : takeAnswer f [0xA2] s = (some (a, id, m), u)) (hm : m.purpose = .mapRead c) :
    exec (.mapFetchResponse f) s = .next (onMapPage c a.payload u) := by
  change execMapFetchResponse f s = _
  unfold execMapFetchResponse
  simp only [h, hm]

/-- A status other than ST_INTERNAL is read as such exactly where it is sent. -/
theorem statusIn_eq_iff {st x : Nat} (hx : x ≤ 15) (hi : x ≠ stInternal) : statusIn st = x ↔ st = x := by
  unfold statusIn
  split <;> omega

section onMapPage
variable {c : Nat} {b : Bytes} {s : State}

theorem onMapPage_notFetched (h : (compOf s c).fetch = none) : onMapPage c b s = s := by
  unfold onMapPage
  simp only [h]

variable {g : Fetch} (h : (compOf s c).fetch = some g)
include h

theorem onMapPage_refused (hok : rd b 0 1 ≠ stOk) (hst : rd b 0 1 ≠ stEpochStale) : onMapPage c b s = fetchFails c s := by
  unfold onMapPage
  simp only [h]
  rw [if_neg (mt (statusIn_eq_iff (by decide) (by decide)).1 hst), if_pos (mt (statusIn_eq_iff (by decide) (by decide)).1 hok)]

/-- A map that changed meanwhile is read again from its start. -/
theorem onMapPage_stale (hst : rd b 0 1 = stEpochStale) : onMapPage c b s =
    askMap c { g with cursor := 0, epoch := rd b 4 4, recs := [] }
      (setComp c { compOf s c with fetch := some { g with cursor := 0, epoch := rd b 4 4, recs := [] } } s) := by
  unfold onMapPage
  simp only [h]
  rw [if_pos ((statusIn_eq_iff (by decide) (by decide)).2 hst)]

variable (hok : rd b 0 1 = stOk)
include hok

theorem onMapPage_more (hc : rd b 8 4 ≠ 0xFFFFFFFF) : onMapPage c b s =
    askMap c { g with cursor := rd b 8 4, epoch := rd b 4 4, recs := g.recs ++ b.drop 16 }
      (setComp c { compOf s c with fetch := some { g with cursor := rd b 8 4, epoch := rd b 4 4, recs := g.recs ++ b.drop 16 } } s) := by
  have hst : statusIn (rd b 0 1) = stOk := (statusIn_eq_iff (by decide) (by decide)).2 hok
  unfold onMapPage
  simp only [h, hst]
  rw [if_neg (by decide), if_neg (by decide), if_neg hc]

variable (hc : rd b 8 4 = 0xFFFFFFFF)
include hc

theorem onMapPage_malformed (hm : (splitRecs 1048576 (g.recs ++ b.drop 16)).bind mapOfRecs = none) : onMapPage c b s = fetchFails c s := by
  have hst : statusIn (rd b 0 1) = stOk := (statusIn_eq_iff (by decide) (by decide)).2 hok
  unfold onMapPage
  simp only [h, hst]
  rw [if_neg (by decide), if_neg (by decide), if_pos hc]
  simp only [hm]

theorem onMapPage_whole {m : DMap} {last : Nat} (hm : (splitRecs 1048576 (g.recs ++ b.drop 16)).bind mapOfRecs = some (m, last)) :
    onMapPage c b s = restartProps c (installFetched c m last s) := by
  have hst : statusIn (rd b 0 1) = stOk := (statusIn_eq_iff (by decide) (by decide)).2 hok
  unfold onMapPage
  simp only [h, hst]
  rw [if_neg (by decide), if_neg (by decide), if_pos hc]
  simp only [hm]

end onMapPage

/-! ## Probes (16 R347-R349) -/

theorem execProbeTimer_idle {s : State} (h : awake s = false ∨ s.jx.locked = false) : exec .probeTimer s = .next s :=
  congrArg Host.Outcome.next (if_pos (by simpa using h))

theorem execProbeTimer_due {s : State} (hs : awake s = true) (hl : s.jx.locked = true) : exec .probeTimer s = .next (retryLoads
    (((probed s).filter fun n => (probeOf s n).seq == 0 || decide ((probeOf s n).sentAt + 100000 ≤ now s)).foldl
      (fun s n => sendProbe n (probeMissed n s)) s)) :=
  congrArg Host.Outcome.next (if_neg (by simp [hs, hl]))

/-- PROBE number `q` to endpoint `ep` of node `n`. -/
def probeMsg (n ep q : Nat) (s : State) : OutMsg :=
  { op := 0x20, dst := ep, data := leBytes 4 q ++ leBytes 2 (myNode s) ++ [0, 0], purpose := .probe n q }

theorem sendProbe_known {n ep : Nat} {s : State} (h : endpointOfNode s n = some ep) :
    sendProbe n s = (sendMsg ctlDie (probeMsg n ep (((probeOf s n).seq + 1) % 2 ^ 32) s) (setProbe n
      { probeOf s n with seq := ((probeOf s n).seq + 1) % 2 ^ 32, sentAt := now s, open_ := true, missed := false } s)).2 := by
  unfold sendProbe
  simp only [h]
  rfl

theorem addProposal_probe (c : Nat) (ch : Bytes) (who : Proposer) (s : State) : (addProposal c ch who s).datum.probe = s.datum.probe := by
  unfold addProposal
  simp only
  split <;> rfl

/-- The changes that a failure brings leave what is known of the partners. -/
theorem suspectPartner_suspect (n : Nat) (s : State) : (probeOf (suspectPartner n s) n).suspect = true := by
  unfold suspectPartner probeOf
  simp only
  rw [foldl_keeps (π := fun s => s.datum.probe) fun u e => ?_]
  · exact congrArg ProbeSt.suspect (tget_tput _ _ _ _)
  · refine foldl_keeps (π := fun s => s.datum.probe) (fun u q => ?_) _ u
    split
    · split
      · exact addProposal_probe _ _ _ _
      · split
        · rw [addProposal_probe, addProposal_probe]
        · rfl
    · rfl

theorem execProbe_answers {f : RxFrame} {a : Admitted} {s u : State} (h : takeControl f [0x20] s = (some a, u)) :
    exec (.probe f) s = .next (respond f a.die 0
      (leBytes 1 stOk ++ leBytes 1 (nodeState u) ++ [0, 0] ++ leBytes 4 (rd a.payload 0 4) ++ List.replicate 8 0) u) := by
  change execProbe f s = _
  unfold execProbe
  simp only [h]

section probeMissed
variable {n : Nat} {s : State}

theorem probeMissed_not (h : (probeOf s n).open_ = false ∨ (probeOf s n).missed = true ∨ now s < (probeOf s n).sentAt + 100000) :
    probeMissed n s = s := by
  refine if_neg fun ⟨ho, hm, ht⟩ => ?_
  obtain h | h | h := h
  · simp [h] at ho
  · simp [h] at hm
  · omega

/-- A miss is counted once for a probe, and the third in succession makes the partner suspect. -/
theorem probeMissed_counts (ho : (probeOf s n).open_ = true) (hm : (probeOf s n).missed = false) (ht : (probeOf s n).sentAt + 100000 ≤ now s) :
    ∃ u, (probeOf u n).misses = (probeOf s n).misses + 1 ∧ (probeOf u n).missed = true ∧
      probeMissed n s = if (probeOf s n).misses = 2 then suspectPartner n (count (chipCntOff 1) u) else u := by
  have hp : probeOf (setProbe n { probeOf s n with missed := true, misses := (probeOf s n).misses + 1 } s) n =
      { probeOf s n with missed := true, misses := (probeOf s n).misses + 1 } :=
    tget_tset_self (fun h => Bool.noConfusion (congrArg ProbeSt.missed h)) _ _
  refine ⟨_, congrArg ProbeSt.misses hp, congrArg ProbeSt.missed hp, (if_pos ⟨ho, hm, ht⟩).trans ?_⟩
  simp only [Nat.reduceEqDiff]

end probeMissed

section withdraw
variable {f : RxFrame} {a : Admitted} {s u : State} (h : takeControl f [0x2D] s = (some a, u))
include h

theorem execWithdraw_partner (hp : (partners u).contains (bits (rd a.payload 0 2) 11 0) = true)
    (he : endpointOfNode u (bits (rd a.payload 0 2) 11 0) = some f.hdr.src.toNat) :
    exec (.withdraw f) s = .next (suspectPartner (bits (rd a.payload 0 2) 11 0) u) := by
  change execWithdraw f s = _
  unfold execWithdraw
  simp only [h]
  rw [if_pos (by simp only [hp, he, beq_self_eq_true, Bool.and_self])]

theorem execWithdraw_other (hp : (partners u).contains (bits (rd a.payload 0 2) 11 0) = false ∨
    endpointOfNode u (bits (rd a.payload 0 2) 11 0) ≠ some f.hdr.src.toNat) : exec (.withdraw f) s = .next u := by
  change execWithdraw f s = _
  unfold execWithdraw
  simp only [h]
  refine congrArg Host.Outcome.next (if_neg fun hc => ?_)
  obtain ⟨hc, he⟩ := Bool.and_eq_true _ _ ▸ hc
  obtain hp | hp := hp
  · rw [hp] at hc
    cases hc
  · exact hp (eq_of_beq he)

end withdraw

end Sys2Proof.Proofs

/-! PROOF. Loads from a partner: their opening, copy records, ends and what the loading node makes of them (16 R356-R365; 04 R93, R105). -/

namespace Sys2Proof.Proofs

open Sys2Proof.Machine Sys2Proof.Laws

/-! ## Whether a load opens (16 Table 16.6) -/

section loadAnswer
variable {c e tag tenant src : Nat} {s : State}

theorem loadAnswer_noMap (hm : mapNamed (compOf s c) e = none) :
    loadAnswer s c e tag tenant src = (if (compOf s c).map.isNone then stNoPage else stRetry, none) := by
  unfold loadAnswer
  simp only [hm]

variable {slot : Nat} {m : DMap} (hm : mapNamed (compOf s c) e = some m) (ht : m.tenant = tenant) (hf : findSeq s tenant tag = some slot)
  (hh : ((holdsOf m tag).any fun p => nodeHolds m (myNode s) p) = true) (hst : (seqOf s slot).st = .active)
include hm ht hf hh hst

/-- Of a sequence that the node holds ACTIVE, the sender's right decides, then what stands in the way for now. -/
theorem loadAnswer_active : loadAnswer s c e tag tenant src =
    if mayLoad s m tag src = false then (stAccess, none)
    else if 64 ≤ serveCount s ∨ (seqOf s slot).app.commitPending = true then (stRetry, none) else (stOk, some slot) := by
  unfold loadAnswer
  simp only [hm, if_pos ht, hf, hh, hst]
  simp

end loadAnswer

/-! ## LOAD_OPEN (16 R356) -/

/-- The answer to LOAD_OPEN with a status. -/
def answerLoadOpen (f : RxFrame) (a : Admitted) (st : Nat) (s : State) : State :=
  respond f a.die 0 (leBytes 1 st ++ [0, 0, 0] ++ leBytes 4 (rd a.payload 4 4) ++ List.replicate 8 0) s

/-- What LOAD_OPEN finds once the message's epoch is noted and the sequence looked up. -/
def loadOpenFinds (f : RxFrame) (a : Admitted) (s : State) : State :=
  (lookSeq (bits (rd a.payload 16 2) 11 0) (rd a.payload 8 8) (noteEpoch f (rd a.payload 0 4) f.hdr.epoch.toNat s)).2

/-- A load of the sequence in `slot` is opened for the sender. -/
def openLoadOut (f : RxFrame) (a : Admitted) (slot node : Nat) (s : State) : State :=
  serveLoad (loadKey f.hdr.src.toNat (rd a.payload 4 4)) slot node { s with datum := { s.datum with
    loadOut := tput s.datum.loadOut (loadKey f.hdr.src.toNat (rd a.payload 4 4))
      { comp := rd a.payload 0 4, dst := f.hdr.src.toNat, slot := slot } } }

section loadOpen
variable {f : RxFrame} {a : Admitted} {st : Nat} {s u : State} (h : takeControl f [0x29] s = (some a, u))
include h

theorem execLoadOpen_refused (hg : loadAnswer (loadOpenFinds f a u) (rd a.payload 0 4) f.hdr.epoch.toNat (rd a.payload 8 8)
      (bits (rd a.payload 16 2) 11 0) f.hdr.src.toNat = (st, none)) :
    exec (.loadOpen f) s = .next (answerLoadOpen f a st (loadOpenFinds f a u)) := by
  unfold loadOpenFinds at hg
  change execLoadOpen f s = _
  unfold execLoadOpen loadOpenFinds answerLoadOpen
  simp only [h, hg]

variable {slot : Nat} (hg : loadAnswer (loadOpenFinds f a u) (rd a.payload 0 4) f.hdr.epoch.toNat (rd a.payload 8 8)
  (bits (rd a.payload 16 2) 11 0) f.hdr.src.toNat = (st, some slot))
include hg

/-- The pages that the copy takes are read as any other: the load waits for a held read, ends with one that fails, and opens after a clean one. -/
theorem execLoadOpen_reads {got : ReadEnd} {x : State}
    (hr : readFree (.load f.hdr.src.toNat (rd a.payload 4 4)) (copyChunks (loadOpenFinds f a u) slot
      ((nodeOfEndpoint (loadOpenFinds f a u) f.hdr.src.toNat).getD 0)) (loadOpenFinds f a u) = (got, x)) :
    (got = .waits → exec (.loadOpen f) s = .next (readFree (.load f.hdr.src.toNat (rd a.payload 4 4)) (copyChunks (loadOpenFinds f a u) slot
      ((nodeOfEndpoint (loadOpenFinds f a u) f.hdr.src.toNat).getD 0)) s).2) ∧
    (got = .failed → exec (.loadOpen f) s = .next (answerLoadOpen f a stInternal x)) ∧
    (∀ l, got = .bad l → exec (.loadOpen f) s = .next (answerLoadOpen f a stInternal (lineLost l x))) ∧
    (got = .clean → exec (.loadOpen f) s = .next (openLoadOut f a slot
      ((nodeOfEndpoint (loadOpenFinds f a u) f.hdr.src.toNat).getD 0) (answerLoadOpen f a st x))) := by
  unfold loadOpenFinds at hg hr
  unfold loadOpenFinds openLoadOut answerLoadOpen
  refine ⟨?_, ?_, fun l => ?_, ?_⟩ <;> rintro rfl
  all_goals
    change execLoadOpen f s = _
    unfold execLoadOpen
    simp only [h, hg, hr]

end loadOpen

/-! ## The copy (16 R357-R360) -/

theorem serveLoad_copies {key slot node : Nat} {s : State} (h : ∀ e ∈ copyPages s slot node, getPage s slot e.1 e.2 ≠ .corrupt) :
    serveLoad key slot node s = copyAll key node s := by
  unfold serveLoad
  split
  case h_1 heq =>
    have hcorrupt := List.find?_some heq
    beta_reduce at hcorrupt
    split at hcorrupt
    · exact absurd ‹_› (h _ (List.mem_of_find?_eq_some heq))
    · cases hcorrupt
  case h_2 => rfl

theorem copyAll_records {key node : Nat} {l : LoadOut} {s : State} (h : tlook s.datum.loadOut key = some l) :
    let q := seqOf s l.slot
    let a := (tensOf q).foldl (fun s ti => sendLoadRec key 2 (bodyTensor q ti) s) (sendLoadRec key 1 (bodySeq q) s)
    let b := sendLoadRec key 4 (bodyState q) a
    let pages := copyPages b l.slot node
    copyAll key node s = sendLoadRec key 5 (leBytes 8 pages.length)
      (pages.foldl (fun s e => copyPage key l.slot e.1 e.2 (q.committed + q.tail) s) b) := by
  unfold copyAll
  simp only [h]

theorem copyPage_sends (key slot ti idx top : Nat) (s : State) :
    let r := chargeLoad (dirRegion slot) ((bodyPage s slot ti idx 0 top).length - 64) s
    copyPage key slot ti idx top s = sendLoadRec key 3 (bodyPage s slot ti idx 0 top) r.2 r.1 := rfl

theorem chargeLoad_datum (r bytes : Nat) (s : State) : (chargeLoad r bytes s).2.datum = s.datum :=
  (chargeLoad_frame (m := [.traffic]) r bytes (Frame.refl _ s) rfl).snd.same .datum (by decide)

/-- A copy's bytes are paid for now or later. -/
theorem now_le_chargeLoad {s : State} (h : now s ≤ never) (r bytes : Nat) : now s ≤ (chargeLoad r bytes s).1 := by
  unfold chargeLoad
  simp only
  split
  · exact le_rfl
  · split
    · exact le_rfl
    · split
      · exact h
      · exact (Nat.le_max_left _ _).trans (Nat.le_add_right _ _)

/-! ## LOAD_DONE at the serving node (16 R361, R363, R365) -/

section finishLoadOut
variable {key src id : Nat} {addr : BitVec 128} {l : LoadOut} {s : State} (h : tlook s.datum.loadOut key = some l)
  (hf : l.finish = some (src, id, addr))
include h hf

theorem finishLoadOut_waits (hr : relaysOut s key = true) : finishLoadOut key s = s := by
  unfold finishLoadOut
  simp only [h, hf, if_pos hr]

theorem finishLoadOut_answers (hr : relaysOut s key = false) : finishLoadOut key s =
    sendOnce (id % 4) 0xAB src 0 id 0 (some addr) none (leBytes 16 stOk) (saveResp src id 0xAB (leBytes 16 stOk) (endLoadOut key s)) := by
  unfold finishLoadOut
  simp only [h, hf, hr, Bool.false_eq_true, if_false]

end finishLoadOut

section loadDone
variable {f : RxFrame} {a : Admitted} {s u v : State} (h : takeControl f [0x2B] s = (some a, u))
  (hv : noteEpoch f (rd a.payload 0 4) f.hdr.epoch.toNat u = v)
include h hv

theorem execLoadDone_stranger (hn : fromNodeMember (compOf v (rd a.payload 0 4)) f.hdr.src.toNat = false) :
    exec (.loadDone f) s = .next (respond f a.die 0 (leBytes 16 stAccess) v) := by
  change execLoadDone f s = _
  unfold execLoadDone
  simp only [h, hv, hn, Bool.not_false, if_true]

variable (hn : fromNodeMember (compOf v (rd a.payload 0 4)) f.hdr.src.toNat = true)
include hn

theorem execLoadDone_rejoins (hid : rd a.payload 4 4 = 0) : exec (.loadDone f) s =
    .next (respond f a.die 0 (leBytes 16 (rejoined (rd a.payload 0 4) f.hdr.src.toNat v).1)
      (rejoined (rd a.payload 0 4) f.hdr.src.toNat v).2) := by
  change execLoadDone f s = _
  unfold execLoadDone
  simp only [h, hv, hn, Bool.not_true, Bool.false_eq_true, if_false, if_pos hid]

variable (hid : rd a.payload 4 4 ≠ 0)
include hid

theorem execLoadDone_ended (hl : tlook v.datum.loadOut (loadKey f.hdr.src.toNat (rd a.payload 4 4)) = none) :
    exec (.loadDone f) s = .next (respond f a.die 0 (leBytes 16 stStateConflict) v) := by
  change execLoadDone f s = _
  unfold execLoadDone
  simp only [h, hv, hn, Bool.not_true, Bool.false_eq_true, if_false, if_neg hid, hl]

theorem execLoadDone_finishes {l : LoadOut} (hl : tlook v.datum.loadOut (loadKey f.hdr.src.toNat (rd a.payload 4 4)) = some l) :
    exec (.loadDone f) s = .next (finishLoadOut (loadKey f.hdr.src.toNat (rd a.payload 4 4)) { v with datum := { v.datum with
      loadOut := tput v.datum.loadOut (loadKey f.hdr.src.toNat (rd a.payload 4 4))
        { l with finish := some (f.hdr.src.toNat, f.hdr.msgId.toNat, f.srcAddr) } } }) := by
  change execLoadDone f s = _
  unfold execLoadDone
  simp only [h, hv, hn, Bool.not_true, Bool.false_eq_true, if_false, if_neg hid, hl]

end loadDone

/-! ## Records at the loading node (16 R357, R362) -/

/-- A load that holds record `r`, heard now where it had nothing to wait for. -/
def holdRecord (l : LoadIn) (r : Bytes) (s : State) : LoadIn :=
  { l with held := tput l.held (rd r 12 4) r, heard := if l.held.isEmpty = true ∨ rd r 12 4 = l.next then now s else l.heard }

section takeRecords
variable {src : Nat} {r : Bytes} {s : State}

theorem takeRecords_unknown (h : tlook s.datum.loadIn (rd r 4 4) = none) : takeRecords src [r] s = (stInternal, [], s) := by
  simp only [takeRecords, List.foldl_cons, List.foldl_nil, h, if_true]

variable {l : LoadIn} (h : tlook s.datum.loadIn (rd r 4 4) = some l)
include h

theorem takeRecords_stranger (hs : l.st = .waitPrimary ∨ endpointOfNode s l.srcNode ≠ some src) :
    takeRecords src [r] s = (stInternal, [], s) := by
  simp only [takeRecords, List.foldl_cons, List.foldl_nil, h, if_pos hs, if_true]

variable (hs : ¬ (l.st = .waitPrimary ∨ endpointOfNode s l.srcNode ≠ some src))
include hs

theorem takeRecords_malformed (hz : zeroAt r 1 3 = false) : takeRecords src [r] s = (stMalformed, [rd r 4 4], s) := by
  simp only [takeRecords, List.foldl_cons, List.foldl_nil, h, if_neg hs, hz, Bool.not_false, if_true]
  rfl

variable (hz : zeroAt r 1 3 = true) {v : State}
include hz

/-- A record below the next is one the load has had: it is not held again. -/
theorem takeRecords_had (hn : rd r 12 4 < l.next) (hv : applyHeld src (rd r 4 4) (l.held.length + 1) s = (stOk, v)) :
    takeRecords src [r] s = (stOk, [], v) := by
  simp only [takeRecords, List.foldl_cons, List.foldl_nil, h, if_neg hs, hz, Bool.not_true, Bool.false_eq_true, if_false, if_pos hn, hv,
    if_true]

theorem takeRecords_held (hn : l.next ≤ rd r 12 4) (hv : applyHeld src (rd r 4 4) (l.held.length + 1)
      { s with datum := { s.datum with loadIn := tput s.datum.loadIn (rd r 4 4) (holdRecord l r s) } } = (stOk, v)) :
    takeRecords src [r] s = (stOk, [], v) := by
  unfold holdRecord at hv
  simp only [takeRecords, List.foldl_cons, List.foldl_nil, h, if_neg hs, hz, Bool.not_true, Bool.false_eq_true, if_false,
    if_neg (Nat.not_lt.2 hn), hv, if_true]

end takeRecords

section applyHeld
variable {src id n : Nat} {l : LoadIn} {s : State} (h : tlook s.datum.loadIn id = some l)
include h

theorem applyHeld_waits (hr : tlook l.held l.next = none) : applyHeld src id (n + 1) s = (stOk, s) := by
  unfold applyHeld
  simp only [h, hr]

/-- Load `id` without its next record, the next being number `k`. -/
def nextRecord (id : Nat) (l : LoadIn) (k : Nat) (s : State) : State :=
  { s with datum := { s.datum with loadIn := tput s.datum.loadIn id { l with held := tdel l.held l.next, next := k } } }

variable {r : Bytes} (hr : tlook l.held l.next = some r)
include hr

theorem applyHeld_unverified (hb : openBody src l.tenant (r.take 16) (r.drop 16) s = none) :
    applyHeld src id (n + 1) s = (stInternal, count (chipCntOff 3) (nextRecord id l l.next s)) := by
  unfold applyHeld nextRecord
  simp only [h, hr, hb]

theorem applyHeld_applies {b : Bytes} {u : State} (hb : openBody src l.tenant (r.take 16) (r.drop 16) s = some b)
    (hu : applyRecord id (rd r 0 1) b (nextRecord id l (l.next + 1) s) = (stOk, u)) : applyHeld src id (n + 1) s = applyHeld src id n u := by
  unfold nextRecord at hu
  rw [applyHeld]
  simp only [h, hr, hb, hu, if_true]

end applyHeld

/-! ## LOAD_DATA (16 R357, R362) -/

section loadData
variable {f : RxFrame} {a : Admitted} {s u v : State} (h : takeControl f [0x2A] s = (some a, u))
include h

theorem execLoadData_partial (hp : notePacket f a true u = (none, v)) : exec (.loadData f) s = .next (ackPacket f false v) := by
  change execLoadData f s = _
  unfold execLoadData
  simp only [h, hp]

variable {y : Bool} {d : Bytes} (hp : notePacket f a true u = (some (y, d), v))
include hp

theorem execLoadData_malformed (hd : splitLoad 16384 d = none) : exec (.loadData f) s = .next (failMsg f stInternal v) := by
  change execLoadData f s = _
  unfold execLoadData
  simp only [h, hp, hd]

variable {rs : List Bytes} (hd : splitLoad 16384 d = some rs) {bad : List Nat} {w : State}
include hd

theorem execLoadData_taken (hr : takeRecords f.hdr.src.toNat rs v = (stOk, bad, w)) : exec (.loadData f) s = .next (completeMsg f id w) := by
  change execLoadData f s = _
  unfold execLoadData
  simp only [h, hp, hd, hr, if_true]

theorem execLoadData_refused {st : Nat} (hst : st ≠ stOk) (hr : takeRecords f.hdr.src.toNat rs v = (st, bad, w)) :
    exec (.loadData f) s = .next (failMsg f st (bad.foldl (fun s i => restartLoad i s) w)) := by
  change execLoadData f s = _
  unfold execLoadData
  simp only [h, hp, hd, hr, if_neg hst]

end loadData

/-! ## Answers to LOAD_OPEN and LOAD_DONE (16 R356, R361, R363) -/

/-- Load `id` is `l`. -/
def setLoadIn (id : Nat) (l : LoadIn) (s : State) : State := { s with datum := { s.datum with loadIn := tput s.datum.loadIn id l } }

section onLoadOpened
variable {id st : Nat} {l : LoadIn} {s : State} (h : tlook s.datum.loadIn id = some l)
include h

theorem onLoadOpened_ok (hst : st = stOk) : onLoadOpened id st s = if l.st = .opening then setLoadIn id { l with st := .copying } s else s := by
  unfold onLoadOpened
  simp only [h, if_pos hst]
  rfl

theorem onLoadOpened_noPage (hst : st = stNoPage) (hl : l.staged = false) :
    onLoadOpened id st s = rejoinDone l.comp (setLoadIn id { l with st := .copied } s) := by
  have hok : st ≠ stOk := hst.trans_ne (by decide)
  unfold onLoadOpened
  simp only [h, if_neg hok, if_pos (And.intro hst hl)]
  rfl

/-- A load that does not open now is asked for again, a STAGED one of the pair's other serving node. -/
theorem onLoadOpened_again (hst : st ≠ stOk) (hl : ¬ (st = stNoPage ∧ l.staged = false)) : ∃ n, (l.staged = false → n = l.srcNode) ∧
    onLoadOpened id st s = setLoadIn id { l with st := .opening, srcNode := n, retryAt := some (now s) } s := by
  unfold onLoadOpened
  simp only [h, if_neg hst, if_neg hl]
  exact ⟨_, fun hl => if_neg (by simp [hl]), rfl⟩

end onLoadOpened

section loadResponse
variable {f : RxFrame} {a : Admitted} {x id : Nat} {m : OutMsg} {s u : State} (h : takeAnswer f [0xA9, 0xAB] s = (some (a, x, m), u))
include h

theorem execLoadResponse_opened (hm : m.purpose = .loadOpen id) :
    exec (.loadResponse f) s = .next (onLoadOpened id (statusIn (rd a.payload 0 1)) u) := by
  change execLoadResponse f s = _
  unfold execLoadResponse
  simp only [h, hm]

theorem execLoadResponse_done (hm : m.purpose = .loadDone id) : exec (.loadResponse f) s = .next (
    if statusIn (rd a.payload 0 1) = stStateConflict then onLoadEnded m id u
    else if statusIn (rd a.payload 0 1) ≠ stOk then loadDoneAgain m id u else if id = 0 then u else onLoadFinished id u) := by
  change execLoadResponse f s = _
  unfold execLoadResponse
  simp only [h, hm]

end loadResponse

theorem onLoadFinished_active {id slot : Nat} {l : LoadIn} {s : State} (h : tlook s.datum.loadIn id = some l) (hl : l.slot = some slot)
    (hst : (seqOf s slot).st = .loading) : (seqOf (onLoadFinished id s) slot).st = .active := by
  unfold onLoadFinished admitLoad
  simp only [h, hl]
  refine (congrArg (fun u => (seqOf u slot).st) (if_pos hst)).trans ?_
  exact congrArg Seq.st (seqOf_setSeq_self (seq_ne_default (show SeqSt.active ≠ .free by decide)) slot _)

/-- Settles O58: by what each message of maps, probes and loads meets, one after the other. -/
theorem mapsProbesAndLoads : Obligations.MapsProbesAndLoads := by
  unfold Obligations.MapsProbesAndLoads
  refine ⟨?_, fun f a s u h => ⟨execMapNotice_fetches h, execMapNotice_held h⟩, fun f c s => ⟨fetchFrom_underWay, fetchFrom_asks⟩,
    fun c g s => ⟨mapAsk c g, fun _ _ => askMap_sent, fun _ _ => askMap_refused, rfl, rfl, rfl, rfl, rfl⟩,
    fun f a id m s u h c => execMapFetchResponse_page h, ?_,
    fun c last m s hin hs => (if_neg (by simp [Option.isSome_iff_ne_none.1 hin])).trans (if_neg (by simp [hs])),
    fun s => execProbeTimer_idle, fun s => execProbeTimer_due,
    fun n ep s h => ⟨probeMsg n ep _ s, rfl, rfl, rfl, rfl, sendProbe_known h⟩, suspectPartner_suspect, fun f a s u => execProbe_answers,
    fun n s => ⟨fun hs => congrArg Host.Outcome.next (if_pos hs), fun hs => congrArg Host.Outcome.next (if_neg (by simp [hs]))⟩,
    fun n s => ⟨probeMissed_not, probeMissed_counts⟩, fun f a s u h => ⟨execWithdraw_partner h, execWithdraw_other h⟩,
    fun f a st s u h => ⟨execLoadOpen_refused h, fun slot got x hg hr => execLoadOpen_reads h hg hr⟩, fun key slot node s => serveLoad_copies,
    fun key node l s => copyAll_records, fun key slot ti idx top s => ⟨copyPage_sends key slot ti idx top s, chargeLoad_datum _ _ s,
      fun h => now_le_chargeLoad h _ _⟩, fun key src id addr l s h hf => ⟨finishLoadOut_waits h hf, finishLoadOut_answers h hf⟩, ?_,
    fun src id n l r b s h => ⟨applyHeld_waits h, fun hr => applyHeld_unverified h hr, fun u hr => applyHeld_applies h hr⟩, ?_,
    fun c e tag tenant src s => loadAnswer_noMap, ?_, ?_, ?_,
    fun f a x m s u h => ⟨fun id => execLoadResponse_opened h, fun id => execLoadResponse_done h⟩, fun id slot l s => onLoadFinished_active⟩
  · intro f a s u h
    exact ⟨execMapRead_behind h, execMapRead_absent h, fun m hb hm => ⟨execMapRead_notMember h hb hm, execMapRead_member h hb hm⟩⟩
  · intro c b s
    refine ⟨onMapPage_notFetched, fun hf hok hst => ?_, fun g hg => ⟨onMapPage_stale hg, onMapPage_more hg,
      fun hok hc => ⟨onMapPage_malformed hg hok hc, fun m last => onMapPage_whole hg hok hc⟩⟩⟩
    obtain ⟨g, hg⟩ := Option.ne_none_iff_exists'.1 hf
    exact onMapPage_refused hg hok hst
  · intro src r s
    refine ⟨takeRecords_unknown, fun l hl => ⟨takeRecords_stranger hl, fun hst he => ?_⟩⟩
    have hs : ¬ (l.st = .waitPrimary ∨ endpointOfNode s l.srcNode ≠ some src) := fun h => h.elim hst fun h => h he
    exact ⟨takeRecords_malformed hl hs, fun v hz hn hv => takeRecords_had hl hs hz hn hv, fun v hz hn hv => takeRecords_held hl hs hz hn hv⟩
  · intro id st l s h
    refine ⟨fun hst hl => (onLoadOpened_ok h hst).trans (if_pos hl), fun hst hl => (onLoadOpened_ok h hst).trans (if_neg hl),
      onLoadOpened_noPage h, fun hst hl => ?_, fun hst hn hl => ?_⟩
    · obtain ⟨n, -, hn⟩ := onLoadOpened_again h hst (by simp [hl])
      exact ⟨n, hn⟩
    · obtain ⟨n, hsrc, heq⟩ := onLoadOpened_again h hst fun hc => hn hc.1
      rwa [hsrc hl] at heq
  · intro c e tag tenant src slot m s hm ht hf hh
    refine ⟨fun hst hmay => ?_, fun hst hmay hn => ?_, fun hst hmay hn hc => ?_⟩ <;> rw [loadAnswer_active hm ht hf hh hst]
    · exact if_pos hmay
    · exact (if_neg (by simp [hmay])).trans (if_pos (.inl hn))
    · exact (if_neg (by simp [hmay])).trans (if_neg (by simp [hc, hn]))
  · intro f a s u h
    exact ⟨execLoadDone_stranger h rfl, execLoadDone_rejoins h rfl, execLoadDone_ended h rfl, fun l hn hid hl => execLoadDone_finishes h rfl hn hid hl⟩
  · intro f a s u h
    exact ⟨fun v => execLoadData_partial h, fun y d v hp => ⟨execLoadData_malformed h hp, fun rs hd =>
      ⟨fun bad w => execLoadData_taken h hp hd, fun st bad w => execLoadData_refused h hp hd⟩⟩⟩

end Sys2Proof.Proofs

/-! PROOF. Programs installed and removed, windows opened, revoked and freed (07 R174-R176; 11 R266; 12 R290, Table 12.9). -/

namespace Sys2Proof.Proofs

open Sys2Proof.Machine Sys2Proof.Laws

/-! ## Program slots -/

/-- The slot's record is given up, its next generation drawn (R176). -/
def freeSlot (k : Nat) (s : State) : State := { s with prog := tset {} s.prog k { gen := ((progOf s k).gen + 1) % 65536 } }

theorem progOf_freeSlot {s : State} (hw : twf {} s.prog = true) (k j : Nat) :
    progOf (freeSlot k s) j = if j = k then { gen := ((progOf s k).gen + 1) % 65536 } else progOf s j :=
  tget_tset (Bool.and_eq_true_iff.1 hw).1 _ _ _ _

/-! ## PROGRAM_INSTALL (R174) -/

section programInstall
variable {i k : Nat} {x : Inst} {p : Bytes} {s : State} (h : startedAct s i 0x0E = some (x, k, p)) (hn : tlook s.installs x.tenant = none)
include h hn

theorem execProgramInstall_invalid {o j off : Nat} (hb : programBad (stagedImage s x.tenant) = some (o, j, off)) :
    exec (.programInstall i) s = .next (actEnd i k stMalformed (raise leafProgramInvalid [(40, 1, o), (41, 1, j), (44, 4, off)] s)) := by
  change execProgramInstall i s = _
  simp only [execProgramInstall, h, hn, hb, Option.isSome_none, Bool.false_eq_true, if_false]

variable (hb : programBad (stagedImage s x.tenant) = none)
include hb

theorem execProgramInstall_noSlot (hf : freeProg s = none) : exec (.programInstall i) s = .next (actEnd i k stStateConflict s) := by
  change execProgramInstall i s = _
  simp only [execProgramInstall, h, hn, hb, hf, Option.isSome_none, Bool.false_eq_true, if_false]

theorem execProgramInstall_takes {slot : Nat} (hf : freeProg s = some slot) : exec (.programInstall i) s = .next (actBusy i k
    { s with installs := tput s.installs x.tenant ⟨i, slot, stagedImage s x.tenant⟩ }) := by
  change execProgramInstall i s = _
  simp only [execProgramInstall, h, hn, hb, hf, Option.isSome_none, Bool.false_eq_true, if_false]

end programInstall

/-- The slot's record once an install has ended. -/
def installedProg (t : Nat) (n : Install) (s : State) : Prog :=
  { st := if tenantLive s t then .installed else .draining, tenant := t, gen := (progOf s n.slot).gen, uses := 0
    digest := Config.sha256 n.image, image := n.image }

/-- The tenant's install is over and its slot holds the program. -/
def finishInstall (t : Nat) (n : Install) (s : State) : State :=
  { s with prog := tput s.prog n.slot (installedProg t n s), installs := tdel s.installs t }

theorem progOf_finishInstall (t : Nat) (n : Install) (s : State) : progOf (finishInstall t n s) n.slot = installedProg t n s :=
  tget_tput _ _ _ _

theorem execProgramInstallComplete_idle {t : BitVec 12} {s : State} (h : tlook s.installs t.toNat = none) :
    exec (.programInstallComplete t) s = .next s := by
  change execProgramInstallComplete t s = _
  simp only [execProgramInstallComplete, h]

theorem execProgramInstallComplete_ends {t : BitVec 12} {n : Install} {s : State} (h : tlook s.installs t.toNat = some n) :
    exec (.programInstallComplete t) s =
      .next (endBusy n.inst 0x0E stOk false false (n.slot + (progOf s n.slot).gen * 65536) (finishInstall t.toNat n s)) := by
  change execProgramInstallComplete t s = _
  simp only [execProgramInstallComplete, h]
  rfl

/-! ## PROGRAM_REMOVE and PROGRAM_SLOT_FREE (R175, R176) -/

section programRemove
variable {tenant slot gen : Nat} {s : State} {who : Who}

theorem programRemoveDo_free (hf : (progOf s slot).st = .free) :
    programRemoveDo tenant slot gen s who = (stStateConflict, refuseC tenant 5 0 0x0F slot s who) := if_pos hf

variable (hf : (progOf s slot).st ≠ .free)
include hf

theorem programRemoveDo_stranger (ht : (progOf s slot).tenant ≠ tenant) : programRemoveDo tenant slot gen s who = (stAccess, s) :=
  (if_neg hf).trans (if_pos ht)

variable (ht : (progOf s slot).tenant = tenant)
include ht

theorem programRemoveDo_stale (hg : (progOf s slot).gen ≠ gen) :
    programRemoveDo tenant slot gen s who = (stStateConflict, refuseC tenant 5 (progCode (progOf s slot).st) 0x0F slot s who) :=
  (if_neg hf).trans ((if_neg (not_not_intro ht)).trans (if_pos hg))

theorem programRemoveDo_drains (hg : (progOf s slot).gen = gen) : programRemoveDo tenant slot gen s who =
    (stOk, { s with prog := tput s.prog slot { progOf s slot with st := .draining } }) :=
  (if_neg hf).trans ((if_neg (not_not_intro ht)).trans (if_neg (not_not_intro hg)))

end programRemove

theorem execProgramRemove_started {i k st : Nat} {x : Inst} {p : Bytes} {s u : State} (h : startedAct s i 0x0F = some (x, k, p))
    (hr : programRemoveDo x.tenant (rd p 0 1) (rd p 2 2) s (whoOf x.msg) = (st, u)) : exec (.programRemove i) s = .next (actEnd i k st u) := by
  change execProgramRemove i s = _
  simp only [execProgramRemove, h, hr]

theorem execProgramSlotFree_held {k : Fin 256} {s : State} (h : (progOf s k).st ≠ .draining ∨ (progOf s k).uses ≠ 0) :
    exec (.programSlotFree k) s = .next s :=
  congrArg Host.Outcome.next (if_neg (not_and_or.2 h))

theorem execProgramSlotFree_unused {k : Fin 256} {s : State} (hst : (progOf s k).st = .draining) (hu : (progOf s k).uses = 0) :
    exec (.programSlotFree k) s = .next (freeSlot k s) :=
  congrArg Host.Outcome.next (if_pos ⟨hst, hu⟩)

/-! ## The descriptor that a window takes (12 R290) -/

/-- `findFrom` finds the first: none below it meets the test. -/
theorem findFrom_below {lo n k : Nat} {p : Nat → Bool} (h : findFrom lo n p = some k) {j : Nat} (hlo : lo ≤ j) (hj : j < k) : p j = false := by
  induction n generalizing lo with
  | zero => exact absurd h (by simp [findFrom])
  | succ n ih =>
    unfold findFrom at h
    split at h
    · obtain rfl := Option.some.inj h
      omega
    · next hp =>
      obtain rfl | hlt := Nat.eq_or_lt_of_le hlo
      · exact Bool.eq_false_of_not_eq_true hp
      · exact ih h hlt

theorem winOf_congr {s t : State} (h : t.slu = s.slu) (id : Nat) : winOf t id = winOf s id := by
  unfold winOf
  rw [h]

theorem winOf_setWin_self {w : Window} (h : w.st ≠ .free) (id : Nat) (s : State) : winOf (setWin id w s) id = w :=
  tget_tset_self (fun hw => h (congrArg Window.st hw)) _ _

/-- A window's bytes are zeroed in its frames. -/
def zeroFrames (tenant : Nat) (frames : List Nat) (s : State) : State :=
  frames.foldl (fun s f => writeFastFor tenant f (List.replicate 65536 0) s) s

theorem zeroFrames_slu (tenant : Nat) (frames : List Nat) (s : State) : (zeroFrames tenant frames s).slu = s.slu :=
  (frame_foldl (m := [.mem]) (Frame.refl _ s) fun _ _ h => writeFastFor_frame _ _ _ h rfl).same .slu (by decide)

/-- A window opens at the first FREE descriptor, for which a region has backing. -/
theorem openWindow_opens {kind tenant len id : Nat} {s u : State} (h : openWindow kind tenant len s = some (id, u)) :
    findFrom 0 16384 (fun i => (winOf s i).st == .free) = some id ∧ ∃ frames v, u = zeroFrames tenant frames (setWin id
      { winOf v id with st := .active, kind := kind, tenant := tenant, length := len, frames := frames } v) := by
  unfold openWindow at h
  split at h
  · exact absurd h (by simp)
  · next hfind =>
    split at h
    · exact absurd h (by simp)
    · obtain ⟨rfl, rfl⟩ := Prod.mk.inj (Option.some.inj h)
      exact ⟨hfind, _, _, rfl⟩

/-! ## WINDOW_OPEN (12 R290) -/

section windowOpen
variable {i k : Nat} {x : Inst} {p : Bytes} {s : State} (h : startedAct s i 0x10 = some (x, k, p))
include h

theorem execWindowOpen_refused (hm : mayWindow x (bits (rd p 0 1) 3 0) x.tenant = false) :
    exec (.windowOpen i) s = .next (actEnd i k stAccess s) := by
  change execWindowOpen i s = _
  simp only [execWindowOpen, h, hm, Bool.not_false, if_true]

variable (hm : mayWindow x (bits (rd p 0 1) 3 0) x.tenant = true)
include hm

theorem execWindowOpen_full (ho : openWindow (bits (rd p 0 1) 3 0) x.tenant (rd p 8 6) s = none) :
    exec (.windowOpen i) s = .next (actEnd i k stRetry (count (netCntOff x.die 22) s)) := by
  change execWindowOpen i s = _
  simp only [execWindowOpen, h, hm, ho, Bool.not_true, Bool.false_eq_true, if_false]

theorem execWindowOpen_opens {id : Nat} {u : State} (ho : openWindow (bits (rd p 0 1) 3 0) x.tenant (rd p 8 6) s = some (id, u)) :
    exec (.windowOpen i) s = .next (actDone i k stOk false false (id + winGen u id * 65536) u) := by
  change execWindowOpen i s = _
  simp only [execWindowOpen, h, hm, ho, Bool.not_true, Bool.false_eq_true, if_false]

end windowOpen

/-! ## WINDOW_REVOKE (R266, Table 12.9) -/

/-- The window drains, and the revoke waits for its descriptor to become FREE. -/
def awaitDrain (i k id : Nat) (s : State) : State :=
  let u := startDrainWin id s
  setWin id { winOf u id with revokers := (winOf u id).revokers ++ [i] } (actBusy i k u)

/-- What a revoke of descriptor `id` under generation `gen` meets, in order. -/
def revokeMeets (i k id gen : Nat) (x : Inst) (s : State) : State :=
  if (winOf s id).st ≠ .free ∧ mayWindow x (winOf s id).kind (winOf s id).tenant = false then actEnd i k stAccess s
  else if gen = winGen s id then
    if (winOf s id).st = .free then actEnd i k stStateConflict (refuseN x.die x.tenant 3 0 0x11 id x.msg s) else awaitDrain i k id s
  else if (winOf s id).st = .free ∧ (gen + 1) % 65536 = winGen s id then actDone i k stOk true false 0 s
  else actEnd i k stBadGen s

theorem execWindowRevoke_started {i k : Nat} {x : Inst} {p : Bytes} {s : State} (h : startedAct s i 0x11 = some (x, k, p)) :
    exec (.windowRevoke i) s = .next (revokeMeets i k (bits (rd p 0 2) 13 0) (rd p 2 2) x s) := by
  change execWindowRevoke i s = _
  simp only [execWindowRevoke, h]
  rfl

section revokeMeets
variable {i k id gen : Nat} {x : Inst} {s : State}

theorem revokeMeets_stranger (hst : (winOf s id).st ≠ .free) (hm : mayWindow x (winOf s id).kind (winOf s id).tenant = false) :
    revokeMeets i k id gen x s = actEnd i k stAccess s := if_pos ⟨hst, hm⟩

/-- A descriptor that is FREE, or whose window the requester may revoke, passes the first check. -/
theorem revokeMeets_allowed (hm : (winOf s id).st = .free ∨ mayWindow x (winOf s id).kind (winOf s id).tenant = true) :
    revokeMeets i k id gen x s = if gen = winGen s id then
        if (winOf s id).st = .free then actEnd i k stStateConflict (refuseN x.die x.tenant 3 0 0x11 id x.msg s) else awaitDrain i k id s
      else if (winOf s id).st = .free ∧ (gen + 1) % 65536 = winGen s id then actDone i k stOk true false 0 s
      else actEnd i k stBadGen s :=
  if_neg fun ⟨hst, hno⟩ => hm.elim hst fun hyes => Bool.false_ne_true (hno.symm.trans hyes)

theorem revokeMeets_free (hst : (winOf s id).st = .free) (hg : gen = winGen s id) :
    revokeMeets i k id gen x s = actEnd i k stStateConflict (refuseN x.die x.tenant 3 0 0x11 id x.msg s) :=
  (revokeMeets_allowed (.inl hst)).trans ((if_pos hg).trans (if_pos hst))

theorem revokeMeets_present (hst : (winOf s id).st ≠ .free) (hm : mayWindow x (winOf s id).kind (winOf s id).tenant = true)
    (hg : gen = winGen s id) : revokeMeets i k id gen x s = awaitDrain i k id s :=
  (revokeMeets_allowed (.inr hm)).trans ((if_pos hg).trans (if_neg hst))

theorem revokeMeets_before (hst : (winOf s id).st = .free) (hg : gen ≠ winGen s id) (hb : (gen + 1) % 65536 = winGen s id) :
    revokeMeets i k id gen x s = actDone i k stOk true false 0 s :=
  (revokeMeets_allowed (.inl hst)).trans ((if_neg hg).trans (if_pos ⟨hst, hb⟩))

theorem revokeMeets_other (hm : (winOf s id).st = .free ∨ mayWindow x (winOf s id).kind (winOf s id).tenant = true) (hg : gen ≠ winGen s id)
    (hb : (winOf s id).st ≠ .free ∨ (gen + 1) % 65536 ≠ winGen s id) : revokeMeets i k id gen x s = actEnd i k stBadGen s :=
  (revokeMeets_allowed hm).trans ((if_neg hg).trans (if_neg (not_and_or.2 hb)))

end revokeMeets

/-! ## WINDOW_FREE (R266) -/

theorem execWindowFree_unused {id : Fin 16384} {s : State} (hst : (winOf s id).st = .draining) (hu : winInFlight s id = 0) :
    exec (.windowFree id) s = .next (freeWindow id s) := congrArg Host.Outcome.next (if_pos ⟨hst, hu⟩)

theorem execWindowFree_held {id : Fin 16384} {s : State} (h : (winOf s id).st ≠ .draining ∨ winInFlight s id ≠ 0) :
    exec (.windowFree id) s = .next s := congrArg Host.Outcome.next (if_neg (not_and_or.2 h))

/-- Settles O52: by the checks of PROGRAM_INSTALL, PROGRAM_REMOVE, WINDOW_OPEN and WINDOW_REVOKE in their order, and by what the slot or the
descriptor reads when each has ended. -/
theorem programsAndWindowsComeAndGo : Obligations.ProgramsAndWindowsComeAndGo := by
  unfold Obligations.ProgramsAndWindowsComeAndGo
  refine ⟨fun i x k p s h hn => ⟨fun o j off => execProgramInstall_invalid h hn, execProgramInstall_noSlot h hn,
      fun slot hb => execProgramInstall_takes h hn hb⟩, ?_, fun t s => execProgramInstallComplete_idle, ?_, ?_, ?_,
    fun i x k p s h => ⟨execWindowOpen_refused h, execWindowOpen_full h, fun id u hm => execWindowOpen_opens h hm⟩, ?_, ?_,
    fun id s => ⟨execWindowFree_unused, execWindowFree_held⟩, fun id s => rfl⟩
  · intro t n s h
    refine ⟨finishInstall t.toNat n s, _, execProgramInstallComplete_ends h, ?_⟩
    rw [progOf_finishInstall]
    exact ⟨rfl, rfl, rfl, rfl, rfl, rfl⟩
  · intro i x k p s h g
    exact ⟨fun hf => execProgramRemove_started h (programRemoveDo_free hf),
      fun hf ht => execProgramRemove_started h (programRemoveDo_stranger hf ht),
      fun hf ht hg => execProgramRemove_started h (programRemoveDo_stale hf ht hg),
      fun hf ht hg => execProgramRemove_started h (programRemoveDo_drains hf ht hg)⟩
  · intro k s
    by_cases hd : (progOf s k).st = .draining ∧ (progOf s k).uses = 0
    · obtain ⟨hst, hu⟩ := hd
      refine ⟨_, execProgramSlotFree_unused hst hu, fun hn => absurd ⟨hst, hu⟩ (not_and_or.2 hn), fun _ _ hw => ?_⟩
      rw [progOf_freeSlot hw, if_pos rfl]
      exact ⟨rfl, rfl, rfl⟩
    · exact ⟨s, execProgramSlotFree_held (not_and_or.1 hd), fun _ => rfl, fun hst hu => absurd ⟨hst, hu⟩ hd⟩
  · intro k s hst hu hw
    exact ⟨_, execProgramSlotFree_unused hst hu, (progOf_freeSlot hw _ _).trans (if_pos rfl),
      fun j hj => (progOf_freeSlot hw _ _).trans (if_neg hj)⟩
  · intro i x k p s h id w
    have hexec := execWindowRevoke_started h
    exact ⟨fun hst hm => hexec.trans (congrArg Host.Outcome.next (revokeMeets_stranger hst hm)),
      fun hst hg => hexec.trans (congrArg Host.Outcome.next (revokeMeets_free hst hg)),
      fun hst hm hg => hexec.trans (congrArg Host.Outcome.next (revokeMeets_present hst hm hg)),
      fun hst hg hb => hexec.trans (congrArg Host.Outcome.next (revokeMeets_before hst hg hb)),
      fun hm hg hb => hexec.trans (congrArg Host.Outcome.next (revokeMeets_other hm hg hb))⟩
  · intro kind tenant len id s u h
    have hdir : u.dir = s.dir :=
      (Frame.outOP h (openWindow_frame (m := [.cnt, .mem, .sto, .slu]) kind tenant len (Frame.refl _ s) rfl)).same .dir (by decide)
    obtain ⟨hfind, frames, v, rfl⟩ := openWindow_opens h
    obtain ⟨hfree, -, hid⟩ := findFrom_some hfind
    refine ⟨by omega, by simpa using hfree, fun j hj => by simpa using findFrom_below hfind (Nat.zero_le j) hj, ?_⟩
    rw [winOf_congr (zeroFrames_slu _ _ _), winOf_setWin_self (show WinSt.active ≠ .free by decide)]
    exact ⟨rfl, rfl, rfl, rfl, hdir⟩

end Sys2Proof.Proofs

/-! PROOF. Instances, the combiner's contributions and steps, FORWARD and SIGNAL (08 R194-R196; 11 R262; 12 R283, R286, Table 12.5). -/

namespace Sys2Proof.Proofs

open Sys2Proof.Machine Sys2Proof.Laws

/-! ## INSTANCE_START (12 R283) -/

theorem acct_slu (tenant w o n : Nat) (s : State) : (acct tenant w o n s).slu = s.slu :=
  (acct_frame (m := [.cnt]) tenant w o n (Frame.refl _ s) rfl).same .slu (by decide)

theorem instOf_newInst (x : Inst) (s : State) : instOf (newInst x s).2 s.slu.nextInst = some x := tlook_tput _ _ _

/-- An enable whose message was yellow runs as best-effort, counted for its tenant (14 Table 14.2). -/
def countYellow (q : Enable) (b : Bytes) (s : State) : State := if eClass b && !q.lc then acct (eTenant b) 32 0x28 1 s else s

theorem countYellow_slu (q : Enable) (b : Bytes) (s : State) : (countYellow q b s).slu = s.slu := by
  unfold countYellow
  split
  · exact acct_slu _ _ _ _ _
  · rfl

/-- The oldest enable of a die has left its queue. -/
def takeEnable (die : Nat) (q : Enable) (rest : List Enable) (s : State) : State :=
  let u := countYellow q (entryOf s q.entry).bytes s
  { u with slu := { u.slu with queue := tset [] u.slu.queue die rest } }

theorem takeEnable_slu (die : Nat) (q : Enable) (rest : List Enable) (s : State) :
    (takeEnable die q rest s).slu = { s.slu with queue := tset [] s.slu.queue die rest } := by
  simp only [takeEnable, countYellow_slu]

/-- The record of the instance that an enable of entry `e` starts. -/
def enabledInst (die : Nat) (q : Enable) (e : Entry) : Inst :=
  { entry := q.entry, die := die, tenant := eTenant e.bytes, part := ePart e.bytes, lc := q.lc, priv := ePriv e.bytes, arg := q.arg
    msg := q.msg, at_ := q.at_, bytes := e.bytes, acts := startNext e.bytes 0 .okay (List.replicate (eNActions e.bytes) .waiting)
    reads := q.msg.isSome && consumes e.bytes }

section instanceStart
variable {d : Fin 4} {s : State}

theorem execInstanceStart_idle (h : tget [] s.slu.queue d = [] ∨ 8192 ≤ tcount s.slu.inst (fun _ i => i.die == d.val)) :
    exec (.instanceStart d) s = .next s := by
  change execInstanceStart d s = _
  unfold execInstanceStart
  split
  · rfl
  · next hq => exact congrArg Host.Outcome.next (if_pos (h.resolve_left (by simp [hq])))

theorem execInstanceStart_takes {q : Enable} {rest : List Enable} (hq : tget [] s.slu.queue d = q :: rest)
    (hroom : tcount s.slu.inst (fun _ i => i.die == d.val) < 8192) :
    exec (.instanceStart d) s = .next (newInst (enabledInst d q (entryOf s q.entry)) (takeEnable d q rest s)).2 := by
  change execInstanceStart d s = _
  unfold execInstanceStart
  simp only [hq]
  exact congrArg Host.Outcome.next (if_neg (Nat.not_le.2 hroom))

end instanceStart

/-! ## What becomes of a contribution (08 R194, R195) -/

section contribution
variable {x arg slot : Nat} {p b : Bytes} {m : EnMsg} {lc : Bool} {s : State} {st : CombineStep}

theorem contribSlot_below (h : m.offset < kBase p) : contribSlot p m arg = none := if_pos (.inl h)

theorem contribSlot_place (hbase : kBase p ≤ m.offset) (hz : (m.offset - kBase p) % kStride p = 0)
    (hfirst : arg % 2 * kN p ≤ (m.offset - kBase p) / kStride p) (hlast : (m.offset - kBase p) / kStride p - arg % 2 * kN p < kN p) :
    contribSlot p m arg = some ((m.offset - kBase p) / kStride p - arg % 2 * kN p) :=
  if_neg (by omega)

theorem fileContrib_malformed (h : m.offset < kBase p ∨ m.len ≠ contribLen p ∨ contribPlaces p b = true ∨ contribSlot p m arg = none) :
    fileContrib x p b m arg lc s = setEntryRec x { entryOf s x with cMalformed := satInc 32 (entryOf s x).cMalformed } s := by
  unfold fileContrib
  cases hslot : contribSlot p m arg with
  | none => rfl
  | some k =>
    have hbase : ¬ m.offset < kBase p := fun hlt => by simp [contribSlot_below hlt] at hslot
    exact if_pos (by simpa [hbase, hslot] using h)

variable (hslot : contribSlot p m arg = some slot) (hlen : m.len = contribLen p) (hplaces : contribPlaces p b = false)
include hslot hlen hplaces

theorem fileContrib_otherGen (hgen : contribGen p b = true) :
    fileContrib x p b m arg lc s = setEntryRec x { entryOf s x with cGen := satInc 32 (entryOf s x).cGen } s := by
  simp [fileContrib, hslot, hlen, hplaces, hgen]

variable (hgen : contribGen p b = false)
include hgen

theorem fileContrib_opens (hstep : tlook (entryOf s x).steps (arg % 2) = none) :
    fileContrib x p b m arg lc s = finishStep x (arg % 2) p
      (setEntryRec x { entryOf s x with steps := tput (entryOf s x).steps (arg % 2) ⟨arg, [(slot, b)], now s, m.id, lc⟩ } s) := by
  simp [fileContrib, hslot, hlen, hplaces, hgen, hstep]

variable (hstep : tlook (entryOf s x).steps (arg % 2) = some st)
include hstep

theorem fileContrib_stale (harg : st.step ≠ arg) :
    fileContrib x p b m arg lc s = setEntryRec x { entryOf s x with cStale := satInc 32 (entryOf s x).cStale } s := by
  simp [fileContrib, hslot, hlen, hplaces, hgen, hstep, harg]

variable (harg : st.step = arg)
include harg

theorem fileContrib_duplicate (hhad : (tlook st.slots slot).isSome = true) :
    fileContrib x p b m arg lc s = setEntryRec x { entryOf s x with cDup := satInc 32 (entryOf s x).cDup } s := by
  simp [fileContrib, hslot, hlen, hplaces, hgen, hstep, harg, hhad]

theorem fileContrib_joins (hopen : tlook st.slots slot = none) :
    fileContrib x p b m arg lc s = finishStep x (arg % 2) p (setEntryRec x { entryOf s x with
      steps := tput (entryOf s x).steps (arg % 2) { st with slots := tput st.slots slot b, msgId := m.id } } s) := by
  simp [fileContrib, hslot, hlen, hplaces, hgen, hstep, harg, hopen]

end contribution

/-! ## The steps of the combiner (08 R196) -/

/-- The message that carries the result of step `st` of entry `x`. -/
def resultMsg (x : Nat) (p : Bytes) (e : Entry) (st : CombineStep) : OutMsg :=
  { op := 2, dst := bits (rd p 24 4) 23 0, tenant := entryTenant e, window := bits (rd p 28 2) 13 0, gen := rd p 30 2
    offset := rd p 32 6, imm := bits (rd p 38 2) 14 0 * 2 ^ 17 + st.step, data := combined p st.slots
    part := some (ePart e.bytes, st.lc), purpose := .result x }

section openStep
variable {x parity : Nat} {p : Bytes} {st : CombineStep} {s u : State} (h : tlook (entryOf s x).steps parity = some st)
include h

theorem closeStep_open (status : Nat) : closeStep x parity status s = postedRec x status 3 0 false false false st.step st.msgId 0 st.lc
    (setEntryRec x { entryOf s x with steps := tdel (entryOf s x).steps parity } s) := by
  unfold closeStep
  simp only [h]

theorem finishStep_waits (hopen : st.slots.length < kN p) : finishStep x parity p s = s := by
  unfold finishStep
  simp only [h, if_pos hopen]

variable (hfull : kN p ≤ st.slots.length)
include hfull

theorem finishStep_sent {id : Nat} (hsend : sendMsg (x % 4) (resultMsg x p (entryOf s x) st) s = (.sent id, u)) :
    finishStep x parity p s = closeStep x parity stOk u := by
  unfold resultMsg at hsend
  unfold finishStep
  simp only [h, if_neg (Nat.not_lt.2 hfull), hsend]

theorem finishStep_refused {status : Nat} (hsend : sendMsg (x % 4) (resultMsg x p (entryOf s x) st) s = (.refused status, u)) :
    finishStep x parity p s = closeStep x parity status u := by
  unfold resultMsg at hsend
  unfold finishStep
  simp only [h, if_neg (Nat.not_lt.2 hfull), hsend]

end openStep

/-! ## COMBINE and COMBINE_TIMEOUT -/

section combine
variable {i k : Nat} {x : Inst} {p : Bytes} {m : EnMsg} {s : State} (h : startedAct s i 3 = some (x, k, p)) (hm : x.msg = some m)
include h hm

theorem execCombine_files (hroom : fillsStep p (enabledBytes s m) m x.entry x.arg s = false ∨ sendFull s (x.entry % 4) = false) :
    exec (.combine i) s = .next (actEnd i k stOk (fileContrib x.entry p (enabledBytes s m) m x.arg x.lc (doneReading i s))) := by
  change execCombine i s = _
  unfold execCombine
  simp only [h, hm]
  exact congrArg Host.Outcome.next (if_neg (not_and_or.2 (by simpa using hroom)))

theorem execCombine_waits (hfill : fillsStep p (enabledBytes s m) m x.entry x.arg s = true) (hfull : sendFull s (x.entry % 4) = true) :
    exec (.combine i) s = .next s := by
  change execCombine i s = _
  unfold execCombine
  simp only [h, hm]
  exact congrArg Host.Outcome.next (if_pos ⟨hfill, hfull⟩)

end combine

section combineTimeout
variable {x : Fin 32768} {b : Fin 2} {s : State}

theorem execCombineTimeout_closed (h : tlook (entryOf s x).steps b = none) : exec (.combineTimeout x b) s = .next s := by
  change execCombineTimeout x b s = _
  unfold execCombineTimeout
  simp only [h]

variable {st : CombineStep} (h : tlook (entryOf s x).steps b = some st)
include h

theorem execCombineTimeout_early (ht : now s < st.opened + kTimeout (aParams (entryOf s x).bytes 0)) :
    exec (.combineTimeout x b) s = .next s := by
  change execCombineTimeout x b s = _
  unfold execCombineTimeout
  simp only [h, if_pos ht]

theorem execCombineTimeout_due (ht : st.opened + kTimeout (aParams (entryOf s x).bytes 0) ≤ now s) :
    exec (.combineTimeout x b) s = .next
      (closeStep x b stRetry (setEntryRec x { entryOf s x with cTimeout := satInc 32 (entryOf s x).cTimeout } s)) := by
  change execCombineTimeout x b s = _
  unfold execCombineTimeout
  simp only [h, if_neg (Nat.not_lt.2 ht)]

end combineTimeout

/-! ## FORWARD (12 R286) -/

section forward
variable {i k : Nat} {x : Inst} {p : Bytes} {m : EnMsg} {s u : State} (h : startedAct s i 4 = some (x, k, p)) (hm : x.msg = some m)
include h hm

theorem execForward_waits (hw : relaysPend s x = true ∨ (sendFull s x.die = true ∧ forwardAlone s x = false)) :
    exec (.forward i) s = .next s := by
  change execForward i s = _
  unfold execForward
  simp only [h, hm]
  obtain hrelay | hfull := hw
  · rw [if_pos hrelay]
  · rw [if_pos hfull, ite_self]

variable (hrelay : relaysPend s x = false)
include hrelay

theorem execForward_alone (halone : forwardAlone s x = true) : exec (.forward i) s = .next (actDone i k stOk false true 0 s) := by
  change execForward i s = _
  unfold execForward
  simp [h, hm, hrelay, halone]

variable (hroom : sendFull s x.die = false) (halone : forwardAlone s x = false)
include hroom halone

theorem execForward_refused {st : Nat} (hsend : sendMsg x.die (forwardMsg x i k p m s) s = (.refused st, u)) :
    exec (.forward i) s = .next (actEnd i k st u) := by
  change execForward i s = _
  unfold execForward
  simp [h, hm, hrelay, hroom, halone, hsend]

theorem execForward_sent {id : Nat} {y : Inst} (hsend : sendMsg x.die (forwardMsg x i k p m s) s = (.sent id, u)) (hy : instOf u i = some y) :
    exec (.forward i) s = .next (setInst i { y with acts := y.acts.set k .busy, fwdIds := y.fwdIds ++ [id] } u) := by
  change execForward i s = _
  unfold execForward
  simp [h, hm, hrelay, hroom, halone, hsend, hy]

end forward

/-! ## SIGNAL (12 Table 12.5) -/

/-- The empty WRITE_IMM that a SIGNAL sends. -/
def signalMsg (x : Inst) (p : Bytes) : OutMsg :=
  { op := 2, dst := rd p 0 3, tenant := x.tenant, window := bits (rd p 4 2) 13 0, gen := rd p 6 2, offset := rd p 8 6
    imm := bits (rd p 16 2) 14 0 * 2 ^ 17 + x.arg % 2 ^ 17, part := some (x.part, x.lc) }

theorem signalMsg_imm (x : Inst) (p : Bytes) : (signalMsg x p).imm % 2 ^ 17 = x.arg % 2 ^ 17 := by
  rw [signalMsg, Nat.mul_add_mod_self_right, Nat.mod_mod]

section signal
variable {i k : Nat} {x : Inst} {p : Bytes} {s u : State} (h : startedAct s i 5 = some (x, k, p))
include h

theorem execSignal_waits (hfull : sendFull s x.die = true) : exec (.signal i) s = .next s := by
  change execSignal i s = _
  unfold execSignal
  simp only [h, if_pos hfull]

variable (hroom : sendFull s x.die = false)
include hroom

theorem execSignal_sent {id : Nat} (hsend : sendMsg x.die (signalMsg x p) s = (.sent id, u)) :
    exec (.signal i) s = .next (actEnd i k stOk u) := by
  unfold signalMsg at hsend
  change execSignal i s = _
  unfold execSignal
  simp only [h, hroom, Bool.false_eq_true, if_false, hsend]

theorem execSignal_refused {st : Nat} (hsend : sendMsg x.die (signalMsg x p) s = (.refused st, u)) :
    exec (.signal i) s = .next (actEnd i k st u) := by
  unfold signalMsg at hsend
  change execSignal i s = _
  unfold execSignal
  simp only [h, hroom, Bool.false_eq_true, if_false, hsend]

end signal

/-- Settles O51: by what each contribution meets in the order of R195, and by what a full step, a time-out, FORWARD and SIGNAL send or wait for. -/
theorem instancesCombineAndForward : Obligations.InstancesCombineAndForward := by
  unfold Obligations.InstancesCombineAndForward
  refine ⟨fun d s => execInstanceStart_idle, ?_, fun i x k p m s h hm => ⟨execCombine_files h hm, execCombine_waits h hm⟩, ?_, ?_,
    fun x b s => execCombineTimeout_closed, fun x b st s h => ⟨execCombineTimeout_early h, execCombineTimeout_due h⟩, ?_,
    fun i x k p s h => ⟨signalMsg x p, rfl, rfl, rfl, rfl, rfl, signalMsg_imm x p, execSignal_waits h, fun id u hroom => execSignal_sent h hroom,
      fun st u hroom => execSignal_refused h hroom⟩⟩
  · intro d q rest s hq hroom
    have hslu := takeEnable_slu d q rest s
    have hinst := instOf_newInst (enabledInst d q (entryOf s q.entry)) (takeEnable d q rest s)
    rw [hslu] at hinst
    refine ⟨_, _, execInstanceStart_takes hq hroom, hinst, rfl, rfl, rfl, rfl, rfl, ?_, fun hrest => ?_⟩
    · exact congrArg (·.nextInst + 1) hslu
    · exact (congrArg (tget [] ·.queue d) hslu).trans (tget_tset_self hrest _ _)
  · intro x p b m arg lc s
    refine ⟨fileContrib_malformed, ?_⟩
    intro hbase hlen hplaces place slot hz hfirst hlast
    have hslot : contribSlot p m arg = some slot := contribSlot_place hbase hz hfirst hlast
    exact ⟨fileContrib_otherGen hslot hlen hplaces, fun st => fileContrib_stale hslot hlen hplaces,
      fun st => fileContrib_duplicate hslot hlen hplaces, fileContrib_opens hslot hlen hplaces, fun st => fileContrib_joins hslot hlen hplaces⟩
  · intro x parity p st s h
    exact ⟨finishStep_waits h, fun hfull => ⟨resultMsg x p (entryOf s x) st, rfl, rfl, rfl, rfl, fun id u => finishStep_sent h hfull,
      fun status u => finishStep_refused h hfull⟩, closeStep_open h⟩
  · intro i x k p m s h hm
    exact ⟨execForward_waits h hm, execForward_alone h hm, fun st u hrelay hroom halone => execForward_refused h hm hrelay hroom halone,
      fun id u y hrelay hroom halone => execForward_sent h hm hrelay hroom halone, rfl, rfl⟩

end Sys2Proof.Proofs

/-! PROOF. Appends as they are admitted: their place in the order of arrival and the checks of Table 9.3 (09 R204, R206). -/

namespace Sys2Proof.Proofs

open Sys2Proof.Machine Sys2Proof.Laws

/-! ## The order of arrival (R204) -/

section execAppend
variable {inst k : Nat} {x : Inst} {p : Bytes} {m : EnMsg} {s u : State} (h : startedAct s inst 2 = some (x, k, p)) (hm : x.msg = some m)
include h hm

theorem execAppend_absent (hl : lookSeq x.tenant (rd p 0 8) s = (none, u)) :
    exec (.append inst) s = .next (appendDo inst x k p m none (leaveWaits inst k u)) := by
  change execAppend inst s = _
  unfold execAppend
  simp only [h, hm, hl]

variable {slot : Nat} (hl : lookSeq x.tenant (rd p 0 8) s = (some slot, u))
include hl

theorem execAppend_waits (hw : appendMustWait u slot (appendOrder u inst k) = true) :
    exec (.append inst) s = .next (joinWaits inst k slot u) := by
  change execAppend inst s = _
  unfold execAppend
  simp only [h, hm, hl]
  rw [if_pos hw]

theorem execAppend_turn (hw : appendMustWait u slot (appendOrder u inst k) = false) :
    exec (.append inst) s = .next (admitNext slot (appendDo inst x k p m (some slot) (leaveWaits inst k u))) := by
  change execAppend inst s = _
  unfold execAppend
  simp only [h, hm, hl]
  rw [if_neg (by simp [hw])]

end execAppend

section joinWaits
variable {inst k slot : Nat} {s : State} (h : (s.work.waits.any fun w => w.inst == inst && w.act == k) = false)
include h

theorem joinWaits_waits : (joinWaits inst k slot s).work.waits =
    s.work.waits.filter (waitAlive s) ++ [{ inst := inst, act := k, slot := slot, order := s.work.next }] := by
  unfold joinWaits
  rw [if_neg (by simp [h])]

theorem joinWaits_next : (joinWaits inst k slot s).work.next = s.work.next + 1 := by
  unfold joinWaits
  rw [if_neg (by simp [h])]

/-- An append that arrives stands behind everything that has arrived. -/
theorem appendOrder_joinWaits : appendOrder (joinWaits inst k slot s) inst k = s.work.next := by
  have hnone : (s.work.waits.filter (waitAlive s)).find? (fun w => w.inst == inst && w.act == k) = none :=
    List.find?_eq_none.2 fun w hw => by
      simpa using List.any_eq_false.1 h w (List.mem_filter.1 hw).1
  unfold appendOrder
  rw [joinWaits_waits h, List.find?_append, hnone]
  simp

end joinWaits

/-! ## The checks before the sequence (Table 9.3) -/

/-- Row 1 of Table 9.3 for the enabling message. -/
def messageMalformed (p : Bytes) (m : EnMsg) (slot : Option Nat) (s : State) : Bool :=
  appendMalformed p (slot.map fun q => (seqOf s q).desc) m.offset m.len (enabledBytes s m)

/-- The epoch check of an append whose message has bytes `b`; an absent sequence ends where its placement ends. -/
def appendEpoch (x : Inst) (p : Bytes) (m : EnMsg) (d : Option Bytes) (b : Bytes) (u : State) : Option Nat × State :=
  epochCheck x.tenant (rd p 0 8) (hFirst b) (hFirst b + hN b) ((d.map dMaxTokens).getD (placedEnd u x.tenant (rd p 0 8))) (routedOf x m) u

/-- The checks at the sequence, where there is one. -/
def appendAt (x : Inst) (inst k : Nat) (p b : Bytes) (slot : Option Nat) (v : State) : State :=
  match slot with
  | none => actEnd inst k stNoPage v
  | some q => appendAdmit x inst k p b q v

section appendDo
variable {inst k : Nat} {x : Inst} {p : Bytes} {m : EnMsg} {slot : Option Nat} {s : State}

theorem appendDo_malformed (h : messageMalformed p m slot s = true) :
    appendDo inst x k p m slot s = actEnd inst k stMalformed (doneReading inst s) := if_pos h

variable (h : messageMalformed p m slot s = false)
include h

theorem appendDo_revoked (hk : keySlotUp (doneReading inst s) x.tenant = false) :
    appendDo inst x k p m slot s = actEnd inst k stTenantRevoked (doneReading inst s) :=
  (if_neg (by unfold messageMalformed at h; simp [h])).trans (if_pos (by simp [hk]))

variable (hk : keySlotUp (doneReading inst s) x.tenant = true)
include hk

theorem appendDo_epochRefused {st : Nat} {v : State}
    (he : appendEpoch x p m (slot.map fun q => (seqOf s q).desc) (enabledBytes s m) (doneReading inst s) = (some st, v)) :
    appendDo inst x k p m slot s = actEnd inst k st v := by
  unfold messageMalformed at h
  unfold appendEpoch at he
  unfold appendDo
  simp only [h, hk, he, Bool.not_true, Bool.false_eq_true, if_false]

variable {v : State} (he : appendEpoch x p m (slot.map fun q => (seqOf s q).desc) (enabledBytes s m) (doneReading inst s) = (none, v))
include he

/-- An append that is not the partner's goes on at the primary, or where no map places its first token. -/
theorem appendDo_placed (hb : bitAt (rd p 9 1) 0 = false)
    (hp : primaryAt v x.tenant (rd p 0 8) (hFirst (enabledBytes s m)) = none ∨
      primaryAt v x.tenant (rd p 0 8) (hFirst (enabledBytes s m)) = some (myNode v)) :
    appendDo inst x k p m slot s = appendAt x inst k p (enabledBytes s m) slot v := by
  unfold messageMalformed at h
  unfold appendEpoch at he
  unfold appendDo
  simp only [h, hk, he, hb, Bool.not_true, Bool.not_false, Bool.false_eq_true, if_false, Bool.true_and, Bool.false_and]
  rw [if_neg (by obtain hp | hp := hp <;> simp [hp])]
  rfl

/-- A partner's append at a node where no map places its first token (R206). -/
theorem appendDo_partnerUnplaced (hb : bitAt (rd p 9 1) 0 = true) (hp : primaryAt v x.tenant (rd p 0 8) (hFirst (enabledBytes s m)) = none) :
    appendDo inst x k p m slot s = actEnd inst k stAccess v := by
  unfold messageMalformed at h
  unfold appendEpoch at he
  unfold appendDo
  simp only [h, hk, he, hb, hp, Bool.not_true, Bool.false_eq_true, if_false, Bool.false_and, Option.isNone_none, Bool.true_or, Bool.true_and,
    if_true]

end appendDo

/-! ## The checks at the sequence -/

/-- A tensor that the message writes has not been registered. -/
def namesAbsent (q : Seq) (b : Bytes) : Bool := (namedLayers b).any fun l => (appendTens q.desc l).any fun ti => (tenOf q ti).st == .absent

theorem namesAbsent_of {q : Seq} {b : Bytes} {l ti : Nat} (hl : l ∈ namedLayers b) (hti : ti ∈ appendTens q.desc l)
    (h : (tenOf q ti).st = .absent) : namesAbsent q b = true :=
  List.any_eq_true.2 ⟨l, hl, List.any_eq_true.2 ⟨ti, hti, by simp [h]⟩⟩

theorem namesAbsent_none {q : Seq} {b : Bytes} (h : ∀ l ∈ namedLayers b, ∀ ti ∈ appendTens q.desc l, (tenOf q ti).st ≠ .absent) :
    namesAbsent q b = false :=
  List.any_eq_false.2 fun l hl => by
    rw [Bool.not_eq_true]
    exact List.any_eq_false.2 fun ti hti => by simpa using h l hl ti hti

/-- The pages that the message's tokens lie in, in every tensor that it writes. -/
def appendPages (d b : Bytes) : List (Nat × Nat) :=
  (namedLayers b).flatMap fun l => (appendTens d l).flatMap fun ti => (spanPages d (hFirst b) (hFirst b + hN b)).map fun idx => (ti, idx)

/-- The append that a message of bytes `b` makes, with its frames given out in `v`. -/
def acceptedAppend (inst slot : Nat) (d p b : Bytes) (v : State) : Append :=
  { inst := inst, slot := slot, first := hFirst b, n := hN b, layer0 := hLayer0 b, nLayers := hLayers b, program := rd p 8 1
    poss := (List.range (hN b)).map (appendPos b), data := b, held := readersAbove v slot (hFirst b)
    rgns := ((appendPages d b).flatMap fun e => [homeOf d slot e.1 e.2, (frameOf v slot e.1 e.2).getD 0 / 2 ^ 40]).dedup }

/-- The append listed, its action under way, and its sequence and program in use. -/
def enteredAppend (inst k slot : Nat) (d p b : Bytes) (v : State) : State :=
  actBusy inst k (startProgUse (rd p 8 1) (enterSeq slot
    { v with work := { v.work with next := v.work.next + 1, appends := tput v.work.appends v.work.next (acceptedAppend inst slot d p b v) } }))

/-- Frames for the message's pages, and acceptance (R207). -/
def acceptAppend (inst k slot : Nat) (d p b : Bytes) (u : State) : State :=
  match givePages slot (appendPages d b) u with
  | none => actEnd inst k stRetry (frameExhausted (homeRegion slot (hLayer0 b) 0 (hFirst b / dTokens d)) u)
  | some v =>
    if readersAbove v slot (hFirst b) then count (rgnCntOff (dirRegion slot) 13) (enteredAppend inst k slot d p b v)
    else issueAppend v.work.next (enteredAppend inst k slot d p b v)

section acceptAppend
variable {inst k slot : Nat} {d p b : Bytes} {u : State}

theorem acceptAppend_noFrame (h : givePages slot (appendPages d b) u = none) :
    acceptAppend inst k slot d p b u = actEnd inst k stRetry (frameExhausted (homeRegion slot (hLayer0 b) 0 (hFirst b / dTokens d)) u) := by
  unfold acceptAppend
  rw [h]

variable {v : State} (h : givePages slot (appendPages d b) u = some v)
include h

theorem acceptAppend_held (hr : readersAbove v slot (hFirst b) = true) :
    acceptAppend inst k slot d p b u = count (rgnCntOff (dirRegion slot) 13) (enteredAppend inst k slot d p b v) := by
  unfold acceptAppend
  rw [h]
  exact if_pos hr

theorem acceptAppend_issued (hr : readersAbove v slot (hFirst b) = false) :
    acceptAppend inst k slot d p b u = issueAppend v.work.next (enteredAppend inst k slot d p b v) := by
  unfold acceptAppend
  rw [h]
  exact if_neg (by simp [hr])

end acceptAppend

/-- Every token of the message is in the tail of each layer it names. -/
def inTail (q : Seq) (b : Bytes) : Bool := (namedLayers b).all fun l => decide (hFirst b + hN b ≤ q.committed + fillOf q l)

/-- The message does not begin where a layer's tail ends, or ends beyond a tail of 64 (R206). -/
def misplaced (q : Seq) (b : Bytes) : Bool :=
  ((namedLayers b).any fun l => hFirst b != q.committed + fillOf q l) || decide (q.committed + 64 < hFirst b + hN b)

theorem inTail_false {q : Seq} {b : Bytes} {l : Nat} (hl : l ∈ namedLayers b) (h : q.committed + fillOf q l < hFirst b + hN b) :
    inTail q b = false :=
  List.all_eq_false.2 ⟨l, hl, by simpa using h⟩

theorem misplaced_of {q : Seq} {b : Bytes} {l : Nat} (hl : l ∈ namedLayers b)
    (h : hFirst b ≠ q.committed + fillOf q l ∨ q.committed + 64 < hFirst b + hN b) : misplaced q b = true := by
  unfold misplaced
  obtain h | h := h
  · rw [List.any_eq_true.2 ⟨l, hl, by simpa using h⟩, Bool.true_or]
  · rw [decide_eq_true h, Bool.or_true]

theorem misplaced_false {q : Seq} {b : Bytes} (h : ∀ y ∈ namedLayers b, hFirst b = q.committed + fillOf q y)
    (ht : hFirst b + hN b ≤ q.committed + 64) : misplaced q b = false := by
  unfold misplaced
  rw [List.any_eq_false.2 fun y hy => by simpa using h y hy, decide_eq_false (Nat.not_lt.2 ht), Bool.or_self]

/-- Rows 9 to 13 of Table 9.3 for a sequence whose entry was `q`, and acceptance. -/
def appendTailCheck (x : Inst) (inst k slot : Nat) (q : Seq) (p b : Bytes) (u : State) : State :=
  if q.app.commitPending then actEnd inst k stRetry u
  else if inTail q b then actDone inst k stOk true false 0 (countTenant x.tenant 0x34 u)
  else if q.app.takeover && hFirst b != q.committed then actEnd inst k stUnknownRequest u
  else if misplaced q b then actEnd inst k stStateConflict (refuseSeq slot x.tenant 2 u (whoOf x.msg))
  else if bf16Bad (b.drop (64 + posBytes b)) then actEnd inst k stMalformed u
  else acceptAppend inst k slot q.desc p b u

section appendAdmit
variable {inst k slot : Nat} {x : Inst} {p b : Bytes} {s : State}

theorem appendAdmit_notActive (ha : (seqOf s slot).st ≠ .active) (hl : (seqOf s slot).st ≠ .loading) :
    appendAdmit x inst k p b slot s = actEnd inst k stStateConflict (refuseSeq slot x.tenant 2 s (whoOf x.msg)) :=
  if_pos (by simp [ha, hl])

variable (ha : (seqOf s slot).st = .active)
include ha

theorem appendAdmit_absent (h : namesAbsent (seqOf s slot) b = true) : appendAdmit x inst k p b slot s = actEnd inst k stNoPage s :=
  (if_neg (by simp [ha])).trans (if_pos h)

theorem appendAdmit_tailCheck {u : State} (h : namesAbsent (seqOf s slot) b = false)
    (hp : progCheck x.tenant (rd p 8 1) (rd p 10 2) 2 s (whoOf x.msg) = (none, u))
    (hs : shapeBad (progOf u (rd p 8 1)).image (seqOf s slot).desc = false) :
    appendAdmit x inst k p b slot s = appendTailCheck x inst k slot (seqOf s slot) p b u := by
  refine (if_neg (by simp [ha])).trans ((if_neg (by unfold namesAbsent at h; simp [h])).trans ?_)
  simp only [hp, hs, Bool.false_eq_true, if_false]
  rfl

end appendAdmit

section appendTailCheck
variable {x : Inst} {inst k slot : Nat} {q : Seq} {p b : Bytes} {u : State}

theorem appendTailCheck_pending (h : q.app.commitPending = true) : appendTailCheck x inst k slot q p b u = actEnd inst k stRetry u := if_pos h

variable (h : q.app.commitPending = false)
include h

theorem appendTailCheck_repeat (ht : inTail q b = true) :
    appendTailCheck x inst k slot q p b u = actDone inst k stOk true false 0 (countTenant x.tenant 0x34 u) :=
  (if_neg (by simp [h])).trans (if_pos ht)

variable (ht : inTail q b = false)
include ht

theorem appendTailCheck_takeover (hk : q.app.takeover = true) (hf : hFirst b ≠ q.committed) :
    appendTailCheck x inst k slot q p b u = actEnd inst k stUnknownRequest u := by
  unfold appendTailCheck
  rw [if_neg (by simp [h]), if_neg (by simp [ht]), if_pos (by simp [hk, hf])]

variable (hk : q.app.takeover = false ∨ hFirst b = q.committed)
include hk

theorem appendTailCheck_misplaced (hm : misplaced q b = true) :
    appendTailCheck x inst k slot q p b u = actEnd inst k stStateConflict (refuseSeq slot x.tenant 2 u (whoOf x.msg)) := by
  unfold appendTailCheck
  rw [if_neg (by simp [h]), if_neg (by simp [ht]), if_neg (by obtain hk | hk := hk <;> simp [hk]), if_pos hm]

theorem appendTailCheck_accepts (hm : misplaced q b = false) (hb : bf16Bad (b.drop (64 + posBytes b)) = false) :
    appendTailCheck x inst k slot q p b u = acceptAppend inst k slot q.desc p b u := by
  unfold appendTailCheck
  rw [if_neg (by simp [h]), if_neg (by simp [ht]), if_neg (by obtain hk | hk := hk <;> simp [hk]), if_neg (by simp [hm]), if_neg (by simp [hb])]

end appendTailCheck

end Sys2Proof.Proofs

/-! PROOF. Appends as they are issued, held and finished: their commands, the step of FILL and TAIL, and a fence (09 R207; 08 R182; 16 R358). -/

namespace Sys2Proof.Proofs

open Sys2Proof.Machine Sys2Proof.Laws

/-! ## The commands of an append (R207) -/

section issueFold
variable {α : Type} {f : State → α → State} (hf : ∀ s e, ∃ ch c, f s e = issueUnit ch c s)
include hf

/-- Steps that each issue one command take one number each, and nothing else of the work. -/
theorem issueFold_work (l : List α) (s : State) : (l.foldl f s).work = { s.work with next := s.work.next + l.length } := by
  induction l generalizing s with
  | nil => rfl
  | cons e l ih =>
    obtain ⟨ch, c, he⟩ := hf s e
    rw [List.foldl_cons, ih, he]
    simp only [issueUnit, markBusy, setRgn_work, List.length_cons, Nat.add_assoc, Nat.add_comm 1]

end issueFold

/-- The commands of an append, by layer, kind and page. -/
def appendCmds (d : Bytes) (a : Append) : List (Nat × Nat × Nat) :=
  (List.range a.nLayers).flatMap fun dl => (dataKinds d).flatMap fun k =>
    (spanPages d a.first (a.first + a.n)).map fun idx => (a.layer0 + dl, k, idx)

theorem length_appendCmds (d : Bytes) (a : Append) :
    (appendCmds d a).length = a.nLayers * ((dataKinds d).length * (spanPages d a.first (a.first + a.n)).length) := by
  simp [appendCmds, List.length_flatMap]

theorem issueAppend_work {app : Nat} {a : Append} {s : State} (h : tlook s.work.appends app = some a) :
    (issueAppend app s).work = { s.work with
      next := s.work.next + (appendCmds (seqOf s a.slot).desc a).length
      appends := tput s.work.appends app { a with issued := true, held := false, left := (appendCmds (seqOf s a.slot).desc a).length } } := by
  unfold issueAppend
  simp only [h]
  rw [issueFold_work (fun s e => ⟨_, _, rfl⟩)]
  rfl

theorem issueAppend_same (app : Nat) (s : State) : (issueAppend app s).dir = s.dir ∧ (issueAppend app s).mem = s.mem :=
  have hframe := issueAppend_frame (m := [.rgn, .chan, .work]) app (Frame.refl _ s) rfl
  ⟨hframe.same .dir (by decide), hframe.same .mem (by decide)⟩

section execAppendHeldRelease
variable {app : Nat} {s : State}

theorem execAppendHeldRelease_idle (h : tlook s.work.appends app = none) : exec (.appendHeldRelease app) s = .next s := by
  change execAppendHeldRelease app s = _
  unfold execAppendHeldRelease
  rw [h]

variable {a : Append} (h : tlook s.work.appends app = some a)
include h

theorem execAppendHeldRelease_stays (hw : a.held = false ∨ readersAbove s a.slot a.first = true) : exec (.appendHeldRelease app) s = .next s := by
  change execAppendHeldRelease app s = _
  unfold execAppendHeldRelease
  rw [h]
  exact congrArg Host.Outcome.next (if_neg (by obtain hw | hw := hw <;> simp [hw]))

theorem execAppendHeldRelease_issues (hh : a.held = true) (hr : readersAbove s a.slot a.first = false) :
    exec (.appendHeldRelease app) s = .next (issueAppend app s) := by
  change execAppendHeldRelease app s = _
  unfold execAppendHeldRelease
  rw [h]
  exact congrArg Host.Outcome.next (if_pos (by simp [hh, hr]))

end execAppendHeldRelease

/-- A fence fails the appends with a part in its region that have not failed. -/
theorem tlook_failAppends {r app : Nat} {a : Append} {s : State} (h : tlook s.work.appends app = some a) (hf : a.failed = 0) :
    ∃ b, tlook (failAppends r s).work.appends app = some b ∧ b.failed = if a.rgns.contains r then stInternal else 0 := by
  unfold failAppends
  simp only [tlook_tmap, h, Option.map_some, hf, beq_self_eq_true, Bool.and_true]
  refine ⟨_, rfl, ?_⟩
  split
  · rfl
  · exact hf

/-! ## Relayed records leave an entry but for its STATE (16 R358, R362) -/

/-- The entry of `slot` in `t` is the one in `s`, but for its STATE. -/
def KeepsEntry (slot : Nat) (s t : State) : Prop := ∃ st, seqOf t slot = { seqOf s slot with st := st }

namespace KeepsEntry
variable {slot : Nat} {s t u : State}

theorem of_dir (h : t.dir = s.dir) : KeepsEntry slot s t := ⟨_, seqOf_congr h slot⟩

theorem trans (h : KeepsEntry slot s t) (h' : KeepsEntry slot t u) : KeepsEntry slot s u := by
  obtain ⟨_, ht⟩ := h
  obtain ⟨st, hu⟩ := h'
  exact ⟨st, by rw [hu, ht]⟩

theorem foldl {α : Type} {f : State → α → State} (hf : ∀ s e, KeepsEntry slot s (f s e)) (l : List α) (s : State) :
    KeepsEntry slot s (l.foldl f s) := by
  induction l generalizing s with
  | nil => exact of_dir rfl
  | cons e l ih => exact (hf s e).trans (ih _)

end KeepsEntry

theorem releaseSeq_keepsEntry (slot x : Nat) (s : State) : KeepsEntry slot s (releaseSeq x s) := by
  by_cases hx : slot = x
  · subst hx
    have hne (v : State) : { seqOf v slot with st := .releasing } ≠ ({} : Seq) := seq_ne_default (show SeqSt.releasing ≠ .free by decide)
    have hset (v : State) (hv : v.dir = s.dir) : KeepsEntry slot s (setSeq slot { seqOf v slot with st := .releasing } v) :=
      ⟨.releasing, by rw [seqOf_setSeq_self (hne v), seqOf_congr hv]⟩
    unfold releaseSeq
    refine hset _ ?_
    split <;> rfl
  · exact ⟨_, (releaseSeq_releasing x s).2 slot hx⟩

theorem sweepMoved_keepsEntry (slot : Nat) (s : State) : KeepsEntry slot s (sweepMoved s) := by
  unfold sweepMoved
  refine .trans (.of_dir rfl) (KeepsEntry.foldl (fun u x => ?_) _ _)
  split
  · exact .of_dir rfl
  · exact releaseSeq_keepsEntry slot x u

theorem endLoadOut_keepsEntry (slot key : Nat) (s : State) : KeepsEntry slot s (endLoadOut key s) :=
  .trans (.of_dir rfl) (sweepMoved_keepsEntry slot _)

theorem sendMsg_dir {die : Nat} {m : OutMsg} {s w : State} {r : SendRes} (h : sendMsg die m s = (r, w)) : w.dir = s.dir :=
  (Frame.out h (sendMsg_frame (m := [.catchment, .log, .jx]) die m (Frame.refl _ s) rfl)).same .dir (by decide)

theorem sendLoadRec_keepsEntry (slot key kind : Nat) (body : Bytes) (s : State) (ready : Nat) :
    KeepsEntry slot s (sendLoadRec key kind body s ready) := by
  unfold sendLoadRec
  split
  · exact .of_dir rfl
  · dsimp only
    split
    · exact endLoadOut_keepsEntry slot key s
    · next r v hseal =>
      have hv : v.dir = s.dir := ((sealBody_frame (m := [.key]) _ _ _ (Frame.refl _ s) rfl).out _ _ hseal).same .dir (by decide)
      split
      · next w hsend => exact .of_dir ((sendMsg_dir hsend).trans hv)
      · next w hsend => exact .trans (.of_dir ((sendMsg_dir hsend).trans hv)) (endLoadOut_keepsEntry slot key w)

theorem relay_keepsEntry (slot x kind : Nat) (body : Bytes) (s : State) : KeepsEntry slot s (relay x kind body s) :=
  KeepsEntry.foldl (fun u key => sendLoadRec_keepsEntry slot key kind body u 0) _ _

theorem relayState_keepsEntry (slot x : Nat) (s : State) : KeepsEntry slot s (relayState x s) := by
  unfold relayState
  split
  · exact relay_keepsEntry slot x _ _ s
  · exact .of_dir rfl

theorem relayTokens_keepsEntry (slot x ti lo hi : Nat) (s : State) : KeepsEntry slot s (relayTokens x ti lo hi s) := by
  unfold relayTokens
  split
  · exact KeepsEntry.foldl (fun u g => KeepsEntry.foldl (fun v j => relay_keepsEntry slot x _ _ v) _ u) _ s
  · exact .of_dir rfl

/-! ## The step of FILL and TAIL (R207) -/

/-- The fills with `v` in each of a list of layers. -/
def raiseFill (v : Nat) (layers : List Nat) (fill : Tbl Nat) : Tbl Nat := layers.foldl (fun f l => tset 0 f l v) fill

theorem tget_raiseFill {v : Nat} (hv : v ≠ 0) (layers : List Nat) (fill : Tbl Nat) (l : Nat) :
    tget 0 (raiseFill v layers fill) l = if l ∈ layers then v else tget 0 fill l := by
  unfold raiseFill
  induction layers generalizing fill with
  | nil => simp
  | cons x layers ih =>
    rw [List.foldl_cons, ih]
    by_cases hl : l ∈ layers
    · simp [hl]
    · by_cases hx : l = x
      · simp [hx, tget_tset_self hv]
      · simp [hl, hx, tget_tset_other hv _ hx]

/-- The layers of an append. -/
def appendLayers (a : Append) : List Nat := (List.range a.nLayers).map (a.layer0 + ·)

/-- The fills after an append to a sequence whose entry is `q`. -/
def filledTo (a : Append) (q : Seq) : Tbl Nat := raiseFill (a.first + a.n - q.committed) (appendLayers a) q.app.fill

/-- The entry after an append. -/
def appendedSeq (a : Append) (q : Seq) : Seq :=
  { q with tail := (filledTo a q).foldl (fun m e => max m e.2) 0, app := { q.app with fill := filledTo a q, takeover := false } }

theorem fillOf_appendedSeq {a : Append} {q : Seq} (h : q.committed < a.first + a.n) {dl : Nat} (hdl : dl < a.nLayers) :
    fillOf (appendedSeq a q) (a.layer0 + dl) = a.first + a.n - q.committed :=
  (tget_raiseFill (by omega) _ _ _).trans (if_pos (List.mem_map.2 ⟨dl, List.mem_range.2 hdl, rfl⟩))

/-- FILL and TAIL advanced in one step, and what was written relayed to the loads of the sequence. -/
def advancedAppend (a : Append) (s : State) : State :=
  relayState a.slot (((appendLayers a).flatMap (appendTens (seqOf s a.slot).desc)).foldl
    (fun u ti => relayTokens a.slot ti a.first (a.first + a.n) u) (setSeq a.slot (appendedSeq a (seqOf s a.slot)) s))

theorem advancedAppend_work (a : Append) (s : State) : (advancedAppend a s).work = s.work := by
  have hframe : Frame [.catchment, .log, .dir, .chan, .key, .jx, .datum] s (advancedAppend a s) :=
    relayState_frame _ (frame_foldl (setSeq_frame _ _ (Frame.refl _ s) rfl) fun _ _ h => relayTokens_frame _ _ _ _ h rfl) rfl
  exact hframe.same .work (by decide)

theorem seqOf_advancedAppend {a : Append} {s : State} (h : (seqOf s a.slot).st ≠ .free) :
    ∃ st, seqOf (advancedAppend a s) a.slot = { appendedSeq a (seqOf s a.slot) with st := st } := by
  have hset := seqOf_setSeq_self (q := appendedSeq a (seqOf s a.slot)) (seq_ne_default h) a.slot s
  obtain ⟨st, hst⟩ := (KeepsEntry.foldl (fun u ti => relayTokens_keepsEntry a.slot a.slot ti a.first (a.first + a.n) u)
    ((appendLayers a).flatMap (appendTens (seqOf s a.slot).desc)) (setSeq a.slot (appendedSeq a (seqOf s a.slot)) s)).trans
      (relayState_keepsEntry a.slot a.slot _)
  exact ⟨st, by rw [← hset]; exact hst⟩

/-- An append off the list, its tail advanced unless it failed or its sequence has gone. -/
def finishedAppend (app : Nat) (a : Append) (s : State) : State :=
  let t : State := { s with work := { s.work with appends := tdel s.work.appends app } }
  if a.failed ≠ 0 ∨ (seqOf s a.slot).st = .free then t else advancedAppend a t

section finishedAppend
variable {app : Nat} {a : Append} {s : State}

theorem finishedAppend_appends : (finishedAppend app a s).work.appends = tdel s.work.appends app := by
  unfold finishedAppend
  split
  · rfl
  · rw [advancedAppend_work]

theorem finishedAppend_failed (h : a.failed ≠ 0) : (finishedAppend app a s).dir = s.dir := by
  unfold finishedAppend
  rw [if_pos (.inl h)]

theorem seqOf_finishedAppend (h : a.failed = 0) (hst : (seqOf s a.slot).st ≠ .free) :
    ∃ st, seqOf (finishedAppend app a s) a.slot = { appendedSeq a (seqOf s a.slot) with st := st } := by
  unfold finishedAppend
  rw [if_neg (not_or.2 ⟨not_not.2 h, hst⟩)]
  exact seqOf_advancedAppend (s := { s with work := { s.work with appends := tdel s.work.appends app } }) hst

end finishedAppend

section execAppendFillStep
variable {app : Nat} {s : State}

theorem execAppendFillStep_idle (h : tlook s.work.appends app = none) : exec (.appendFillStep app) s = .next s := by
  change execAppendFillStep app s = _
  unfold execAppendFillStep
  rw [h]

variable {a : Append} (h : tlook s.work.appends app = some a)
include h

theorem execAppendFillStep_waits (hw : a.issued = false ∨ a.left ≠ 0) : exec (.appendFillStep app) s = .next s := by
  change execAppendFillStep app s = _
  unfold execAppendFillStep
  rw [h]
  exact congrArg Host.Outcome.next (if_pos (by obtain hw | hw := hw <;> simp [hw]))

theorem execAppendFillStep_finishes (hi : a.issued = true) (hl : a.left = 0) :
    exec (.appendFillStep app) s = .next (admitNext a.slot (endBusy a.inst 2 (if a.failed = 0 then stOk else stInternal) false false 0
      (endProgUse a.program (leaveSeq a.slot (finishedAppend app a s))))) := by
  change execAppendFillStep app s = _
  unfold execAppendFillStep
  rw [h]
  exact congrArg Host.Outcome.next (if_neg (by simp [hi, hl]))

end execAppendFillStep

/-- Settles O44: by the order of arrival and the checks of Table 9.3, the commands of an accepted append, and the one step that ends it. -/
theorem appendsAdvanceTheTail : Obligations.AppendsAdvanceTheTail := by
  unfold Obligations.AppendsAdvanceTheTail
  refine ⟨fun inst k x p m s u h hm => ⟨execAppend_absent h hm, fun slot hl => ⟨execAppend_waits h hm hl, execAppend_turn h hm hl⟩⟩,
    fun inst k slot s h => ⟨?_, appendOrder_joinWaits h, joinWaits_next h⟩, ?_, ?_, ?_, ?_, fun r app a s h hf => tlook_failAppends h hf,
    fun app a s h => ⟨execAppendHeldRelease_stays h, execAppendHeldRelease_issues h⟩, ?_,
    fun app s h => ⟨execAppendFillStep_idle h, execAppendHeldRelease_idle h⟩⟩
  · rw [joinWaits_waits h]
    exact List.mem_append_right _ (List.mem_singleton_self _)
  · intro inst k x p m slot s b d u last
    refine ⟨appendDo_malformed, appendDo_revoked, fun h hk => ⟨fun st v he => appendDo_epochRefused h hk he, fun v he hb hp => ?_,
      fun v he hb hp => appendDo_partnerUnplaced h hk he hb hp⟩⟩
    have hplaced := appendDo_placed (k := k) h hk he hb hp
    exact ⟨fun hq => hplaced.trans (by rw [hq]; rfl), fun q hq => hplaced.trans (by rw [hq]; rfl)⟩
  · intro inst k slot x p b s
    exact ⟨appendAdmit_notActive, fun ha l hl ti hti h => appendAdmit_absent ha (namesAbsent_of hl hti h)⟩
  · intro inst k slot x p b s u ha hten hprog hshape q
    rw [appendAdmit_tailCheck (k := k) (inst := inst) ha (namesAbsent_none hten) hprog hshape]
    refine ⟨appendTailCheck_pending, fun hc => ⟨fun ht => appendTailCheck_repeat hc (List.all_eq_true.2 fun l hl => decide_eq_true (ht l hl)),
      fun l hl hlt => ?_⟩⟩
    have ht := inTail_false hl hlt
    refine ⟨appendTailCheck_takeover hc ht, fun hk hm => appendTailCheck_misplaced hc ht (.inl hk) (misplaced_of hl hm), ?_⟩
    intro hk hfirst hend hbf pages
    rw [appendTailCheck_accepts hc ht hk (misplaced_false hfirst hend) hbf]
    exact ⟨acceptAppend_noFrame, fun v hv => ⟨acceptAppend_held hv, acceptAppend_issued hv⟩⟩
  · intro app a s h
    refine ⟨execAppendFillStep_waits h, fun hi hl => ⟨finishedAppend app a s, execAppendFillStep_finishes h hi hl, finishedAppend_appends,
      finishedAppend_failed, fun hf hst => ?_⟩⟩
    obtain ⟨st, hseq⟩ := seqOf_finishedAppend (app := app) hf hst
    rw [hseq]
    exact ⟨rfl, rfl, rfl, fun hlt dl hdl => fillOf_appendedSeq hlt hdl⟩
  · intro app a s h t d left
    have hwork : t.work = _ := issueAppend_work h
    rw [length_appendCmds] at hwork
    exact ⟨by rw [hwork]; exact tlook_tput _ _ _, by rw [hwork], (issueAppend_same app s).1, (issueAppend_same app s).2⟩

end Sys2Proof.Proofs

/-! PROOF. Packets that arrive: the checks in their order, then WRITE, READ and CAS (04 R83, R93, R99, R105; 11 R240, R246-R249, R254, R255, R272). -/

namespace Sys2Proof.Proofs

open Sys2Proof.Machine Sys2Proof.Laws

/-! ## Arrival (R240, R272) -/

theorem forMe_iff (f : RxFrame) (s : State) :
    forMe f s = true ↔ ∃ i, s.cfg.img = some i ∧ f.dstAddr.toNat ∈ i.ports ∧ f.dstPort.toNat = i.jxPort := by
  unfold forMe
  cases s.cfg.img <;> simp

/-- A Jexus packet for the node has been counted at its port (20 R437). -/
def arrivalCounted (f : RxFrame) (s : State) : State :=
  countN 64 (portCntOff f.port.val 0x08) (frameSize f) (countN 64 (portCntOff f.port.val 0x00) 1 s)

section receive
variable {f : RxFrame} {s : State}

theorem receive_shut (h : portServes s f.port = false) : receive f s = (none, s) := if_pos (by simp [h])

variable (h : portServes s f.port = true)
include h

theorem receive_stranger (hm : forMe f s = false) : receive f s = (none, count (portCntOff f.port.val 0x20) s) :=
  (if_neg (by simp [h])).trans (if_pos (by simp [hm]))

theorem receive_unlocked (hm : forMe f s = true) (hl : s.jx.locked = false) :
    receive f s = (none, count (netCntOff (f.port.val / 2) 13) (arrivalCounted f s)) :=
  (if_neg (by simp [h])).trans ((if_neg (by simp [hm])).trans (if_pos (by simp [hl])))

end receive

/-! ## The checks in their order (R255, Table 11.5) -/

section checkPkt
variable {f : RxFrame} {s : State}

theorem checkPkt_elsewhere (h : f.hdr.dst.toNat ≠ myEndpoint s) : checkPkt f s = (none, count (netCntOff (checkDie f) 0) s) := if_pos h

variable (hme : f.hdr.dst.toNat = myEndpoint s)
include hme

theorem checkPkt_illFormed {info : Nat} (h2 : check2 f = some info) : checkPkt f s = (none, sendNak f stMalformed info
    (violate f (checkDie f) 2 info (count (netCntOff (checkDie f) 1) s) (some stMalformed))) :=
  (if_neg (not_not.2 hme)).trans (by rw [h2])

theorem checkPkt_wellFormed (h2 : check2 f = none) : checkPkt f s =
    if f.hdr.msgTime.toNat + 1010000 < now s then (none, count (netCntOff (checkDie f) 2) s)
    else if now s + 10000 < f.hdr.msgTime.toNat then
      (none, sendNak f stMalformed 3 (violate f (checkDie f) 4 3 (count (netCntOff (checkDie f) 3) s) (some stMalformed)))
    else checkTenant f (checkDie f) s :=
  (if_neg (not_not.2 hme)).trans (by rw [h2])

variable (h2 : check2 f = none)
include h2

theorem checkPkt_old (ht : f.hdr.msgTime.toNat + 1010000 < now s) : checkPkt f s = (none, count (netCntOff (checkDie f) 2) s) :=
  (checkPkt_wellFormed hme h2).trans (if_pos ht)

theorem checkPkt_future (ht : now s + 10000 < f.hdr.msgTime.toNat) : checkPkt f s = (none, sendNak f stMalformed 3
    (violate f (checkDie f) 4 3 (count (netCntOff (checkDie f) 3) s) (some stMalformed))) :=
  (checkPkt_wellFormed hme h2).trans ((if_neg (by omega)).trans (if_pos ht))

theorem checkPkt_timely (hold : now s ≤ f.hdr.msgTime.toNat + 1010000) (hnew : f.hdr.msgTime.toNat ≤ now s + 10000) :
    checkPkt f s = checkTenant f (checkDie f) s :=
  (checkPkt_wellFormed hme h2).trans ((if_neg (by omega)).trans (if_neg (by omega)))

end checkPkt

/-! ## What an admitted packet has passed -/

section admitted
variable {f : RxFrame} {a : Admitted} {u : State}

theorem checkMessage_admits {die : Nat} {payload : Bytes} {yellow : Bool} {s : State} (h : checkMessage f die payload yellow s = (some a, u)) :
    checkWindow s f.hdr = none := by
  cases hw : checkWindow s f.hdr with
  | none => rfl
  | some x =>
    unfold checkMessage at h
    split at h
    · simp at h
    · replace h := congrArg Prod.fst h
      simp [hw, apply_ite Prod.fst] at h

theorem checkTenant_admits {die : Nat} {s : State} (h : checkTenant f die s = (some a, u)) : ∃ v, checkWindow v f.hdr = none := by
  unfold checkTenant at h
  simp only at h
  split at h
  · simp at h
  split at h
  · simp at h
  split at h
  · simp at h
  split at h
  · simp at h
  split at h
  · simp at h
  split at h
  · simp at h
  split at h
  · exact ⟨_, checkMessage_admits h⟩
  split at h
  · exact ⟨_, checkMessage_admits h⟩
  · exact ⟨_, checkMessage_admits h⟩
  · simp at h

theorem checkPkt_admits {s : State} (h : checkPkt f s = (some a, u)) : check2 f = none ∧ ∃ v, checkWindow v f.hdr = none := by
  by_cases hme : f.hdr.dst.toNat = myEndpoint s
  · cases h2 : check2 f with
    | some info => simp [checkPkt_illFormed hme h2] at h
    | none =>
      rw [checkPkt_wellFormed hme h2] at h
      split at h
      · simp at h
      split at h
      · simp at h
      exact ⟨rfl, checkTenant_admits h⟩
  · simp [checkPkt_elsewhere hme] at h

theorem receive_admits {s : State} (h : receive f s = (some a, u)) : check2 f = none ∧ ∃ v, checkWindow v f.hdr = none := by
  unfold receive at h
  simp only at h
  split at h
  · simp at h
  split at h
  · simp at h
  split at h
  · simp at h
  exact checkPkt_admits h

theorem takeControl_admits {ops : List Nat} {s : State} (h : takeControl f ops s = (some a, u)) :
    f.hdr.opcode.toNat ∈ ops ∧ check2 f = none ∧ ∃ v, checkWindow v f.hdr = none := by
  unfold takeControl at h
  split at h
  · simp at h
  case isFalse hop =>
    split at h
    case h_1 b v hr => exact ⟨by simpa using hop, receive_admits hr⟩
    case h_2 => simp at h

end admitted

theorem lengthsBad_of_check2 {f : RxFrame} (h : check2 f = none) : lengthsBad f = false := by
  unfold check2 at h
  split at h
  · simp at h
  split at h
  · simp at h
  · simpa using ‹¬ lengthsBad f = true›

/-- A CAS that passes check 2 holds COMPARE and SWAP (R249). -/
theorem msgLen_of_cas {f : RxFrame} (h : check2 f = none) (hop : f.hdr.opcode.toNat = 4) : f.hdr.msgLen.toNat = 16 := by
  have hl := lengthsBad_of_check2 h
  simp only [lengthsBad, hop, multiOp, Bool.or_eq_false_iff] at hl
  simp at hl
  omega

/-- A CAS that passes check 15 is aligned. -/
theorem offset_of_cas {h : JxHdr} {s : State} (hw : checkWindow s h = none) (hop : h.opcode.toNat = 4) : h.offset.toNat % 8 = 0 := by
  unfold checkWindow at hw
  simp only at hw
  split_ifs at hw with hwin _ _ _ _ _ hoff
  · simp [hop, windowedOp] at hwin
  · exact not_not.1 fun hne => hoff ⟨hop, hne⟩

/-! ## WRITE and WRITE_IMM (R246, R247) -/

/-- What a WRITE packet does once the checks have answered. -/
def writeAfter (f : RxFrame) (o : Option Admitted × State) : State :=
  match o with
  | (some a, s) => placeWrite f a s
  | (none, s) => s

theorem exec_write {c : Instr} {op : Nat} {f : RxFrame} (h : (c, op) = (.jxWrite f, 1) ∨ (c, op) = (.jxWriteImm f, 2))
    (hop : f.hdr.opcode.toNat = op) (s : State) : exec c s = .next (writeAfter f (receive f s)) := by
  rcases h with h | h <;> obtain ⟨rfl, rfl⟩ := Prod.mk.inj h
  · exact congrArg Host.Outcome.next (if_pos hop)
  · exact congrArg Host.Outcome.next (if_pos hop)

/-- What a complete WRITE brings beside its bytes: its immediate, or the record that a FORWARD waits for. -/
def writeDelivers (f : RxFrame) (yellow : Bool) (s : State) : State :=
  if f.hdr.opcode.toNat = 2 then deliverImm f.hdr.tenant.toNat f.hdr.immediate.toNat yellow (frameMsg f) s
  else if f.hdr.msgLen.toNat = 64 ∧ (winOf s f.hdr.windowId.toNat).kind = 5 then forwardRecord f s else s

theorem writeDelivers_imm {f : RxFrame} (hop : f.hdr.opcode.toNat = 2) (yellow : Bool) :
    writeDelivers f yellow = deliverImm f.hdr.tenant.toNat f.hdr.immediate.toNat yellow (frameMsg f) := funext fun _ => if_pos hop

theorem writeDelivers_plain {f : RxFrame} {s : State} (hop : f.hdr.opcode.toNat = 1)
    (h : (winOf s f.hdr.windowId.toNat).kind ≠ 5 ∨ f.hdr.msgLen.toNat ≠ 64) (yellow : Bool) : writeDelivers f yellow s = s :=
  (if_neg (by simp [hop])).trans (if_neg (by tauto))

section placeWrite
variable {f : RxFrame} {a : Admitted} {s : State}

theorem placeWrite_unbacked (h : backed s f.hdr.windowId.toNat = false) : placeWrite f a s = failMsg f stInternal s := if_pos (by simp [h])

variable (h : backed s f.hdr.windowId.toNat = true) {v : State}
include h

theorem placeWrite_partial
    (hn : notePacket f a false (winWrite f.hdr.windowId.toNat (f.hdr.offset.toNat + 8192 * f.hdr.pktIndex.toNat) a.payload s) = (none, v)) :
    placeWrite f a s = ackPacket f false v := by
  unfold placeWrite
  simp [h, hn]

theorem placeWrite_complete {y : Bool} {z : Bytes}
    (hn : notePacket f a false (winWrite f.hdr.windowId.toNat (f.hdr.offset.toNat + 8192 * f.hdr.pktIndex.toNat) a.payload s) = (some (y, z), v)) :
    placeWrite f a s = completeMsg f (writeDelivers f y) v := by
  unfold placeWrite
  simp only [h, hn, Bool.not_true, Bool.false_eq_true, if_false]
  rfl

end placeWrite

/-! ## Reads of the fast tier that a message makes (04 R83, R93, R99, R105) -/

/-- Where the coded ranges lie is no part of what a touched code line changes. -/
theorem lineMet_touchCodes (chunks : List Nat) (o : LineOutcome) (s : State) : lineMet (touchCodes chunks s) o = lineMet s o :=
  lineMet_congr (congrArg Cfg.img ((touchCodes_frame (m := [.chan]) chunks (Frame.refl _ s) rfl).same .cfg (by decide))) o

/-- A read of the fast tier moves no byte, and sends nothing. -/
theorem readChunks_same {who : Reader} {chunks : List Nat} {o : LineOutcome} {s v : State} {got : ReadEnd}
    (h : readChunks who chunks o s = (got, v)) : v.mem = s.mem ∧ v.jx = s.jx :=
  have hframe : Frame [.catchment, .log, .cnt, .chan] s v := Frame.out h (readChunks_frame who chunks o (Frame.refl _ s) rfl)
  ⟨hframe.same .mem (by decide), hframe.same .jx (by decide)⟩

section readChunks
variable {who : Reader} {chunks : List Nat} {o : LineOutcome} {s : State}

theorem readChunks_redoFailed (h : redoFailed s who = true) : readChunks who chunks o s = (.failed, dropHeld who s) := if_pos h

variable (h : redoFailed s who = false)
include h

theorem readChunks_held (hc : (chansOf s chunks).any (chanHeld s) = true) : readChunks who chunks o s = (.waits, s) :=
  (if_neg (by simp [h])).trans (if_pos hc)

variable (hc : (chansOf s chunks).any (chanHeld s) = false)
include hc

theorem readChunks_abandoned {a : Nat} (ha : abandonedIn s chunks = some a) : (readChunks who chunks o s).1 = .waits := by
  unfold readChunks
  rw [if_neg (by simp [h]), if_neg (by simp [hc])]
  simp only [ha]

theorem readChunks_uncorrectable (ha : abandonedIn s chunks = none) {a : BitVec 44} (hl : lineMet s o = .uncorrectable a)
    (hin : chunks.contains (a.toNat / 2048 * 2048) = true) : (readChunks who chunks o s).1 = .bad a.toNat := by
  unfold readChunks
  rw [if_neg (by simp [h]), if_neg (by simp [hc])]
  simp only [ha, lineMet_touchCodes, hl, if_pos hin]

end readChunks

section readWindow
variable {f : RxFrame} {o : LineOutcome} {n : Nat} {before s : State} {g : State → State}

theorem readWindow_unbacked (h : backed s f.hdr.windowId.toNat = false) : readWindow ⟨f, o⟩ n before s g = failMsg f stInternal s :=
  if_pos (by simp [h])

/-- Where a read of the window's backing ends, the message ends. -/
theorem readWindow_ends (h : backed s f.hdr.windowId.toNat = true) {got : ReadEnd} {v : State}
    (hr : readChunks (.message f.hdr.src.toNat f.hdr.msgId.toNat) (winChunks s f.hdr.windowId.toNat f.hdr.offset.toNat n) o s = (got, v)) :
    (got = .clean → readWindow ⟨f, o⟩ n before s g = g v) ∧
    (got = .waits → readWindow ⟨f, o⟩ n before s g = (readChunks (.message f.hdr.src.toNat f.hdr.msgId.toNat)
      (winChunks s f.hdr.windowId.toNat f.hdr.offset.toNat n) o before).2) ∧
    (got = .failed → readWindow ⟨f, o⟩ n before s g = failMsg f stInternal v) ∧
    (∀ b, got = .bad b → readWindow ⟨f, o⟩ n before s g = failMsg f stInternal (lineLost b v)) := by
  unfold readWindow
  simp only [h, hr, Bool.not_true, Bool.false_eq_true, if_false]
  refine ⟨?_, ?_, ?_, fun b => ?_⟩ <;> rintro rfl <;> rfl

end readWindow

/-! ## READ and CAS (R248, R249) -/

/-- A READ is answered with the bytes at its offset. -/
def readServed (f : RxFrame) (a : Admitted) (s : State) : State :=
  respond f a.die 0 (winRead s f.hdr.windowId.toNat f.hdr.offset.toNat f.hdr.msgLen.toNat) s

/-- A CAS is answered with the 8 bytes at its offset, where SWAP goes when they equal COMPARE. -/
def casServed (f : RxFrame) (a : Admitted) (s : State) : State :=
  let old := winRead s f.hdr.windowId.toNat f.hdr.offset.toNat 8
  respond f a.die 0 old
    (if old = slice a.payload 0 8 then winWrite f.hdr.windowId.toNat f.hdr.offset.toNat (slice a.payload 8 8) s else s)

section readAndCas
variable {f : RxFrame} {o : LineOutcome} {a : Admitted} {s u : State}

theorem execJxRead_taken (h : takeControl f [3] s = (some a, u)) :
    exec (.jxRead ⟨f, o⟩) s = .next (readWindow ⟨f, o⟩ f.hdr.msgLen.toNat s u (readServed f a)) := by
  change execJxRead _ s = _
  unfold execJxRead
  rw [h]
  rfl

theorem execJxCas_taken (h : takeControl f [4] s = (some a, u)) :
    exec (.jxCas ⟨f, o⟩) s = .next (readWindow ⟨f, o⟩ 8 s u (casServed f a)) := by
  change execJxCas _ s = _
  unfold execJxCas
  rw [h]
  rfl

theorem exec_readOrCas_dropped {c : Instr} {op : Nat} (hc : (c, op) = (.jxRead ⟨f, o⟩, 3) ∨ (c, op) = (.jxCas ⟨f, o⟩, 4))
    (h : takeControl f [op] s = (none, u)) : exec c s = .next u := by
  rcases hc with hc | hc <;> obtain ⟨rfl, rfl⟩ := Prod.mk.inj hc
  · change execJxRead _ s = _
    unfold execJxRead
    rw [h]
  · change execJxCas _ s = _
    unfold execJxCas
    rw [h]

end readAndCas

/-- Settles O46: by the order of the checks, and what each arm of WRITE, READ and CAS answers to what the placement or the read found. -/
theorem packetsAreCheckedThenServed : Obligations.PacketsAreCheckedThenServed := by
  unfold Obligations.PacketsAreCheckedThenServed
  refine ⟨fun f a s u h => ?_, fun f s h => receive_shut h, fun f s h hm => receive_stranger h hm, forMe_iff,
    fun f s h hm hl => ⟨_, receive_unlocked h hm hl, rfl, rfl⟩,
    fun f s => ⟨checkPkt_elsewhere, fun info hme => checkPkt_illFormed hme, checkPkt_old, checkPkt_future, checkPkt_timely⟩,
    fun c op f s u hc hop => ?_, fun f o a s u h => ?_, fun f o a s u h => ?_,
    fun who chunks o s => ⟨readChunks_redoFailed, readChunks_held, fun h hc ⟨a, ha⟩ => ?_, fun h hc ha => ⟨fun hl => ?_, fun a hl hin => ?_⟩⟩,
    fun c op f o s u => exec_readOrCas_dropped⟩
  · obtain ⟨hop, h2, v, hw⟩ := takeControl_admits h
    have hop : f.hdr.opcode.toNat = 4 := List.mem_singleton.1 hop
    exact ⟨offset_of_cas hw hop, msgLen_of_cas h2 hop⟩
  · have he := exec_write hc hop s
    refine ⟨fun h => ?_, fun a h hb => ?_, fun a h hb => ⟨fun v hn => ?_, fun y z v hn h2 => ?_,
      fun y z v hn h1 hk => ⟨writeDelivers f y, ?_, fun x hx => ?_⟩⟩⟩
    · rw [he, h]
      rfl
    · rw [he, h, ← placeWrite_unbacked hb]
      rfl
    · rw [he, h, ← placeWrite_partial hb hn]
      rfl
    · rw [he, h, ← writeDelivers_imm (hop.trans h2), ← placeWrite_complete hb hn]
      rfl
    · rw [he, h, ← placeWrite_complete hb hn]
      rfl
    · exact writeDelivers_plain (hop.trans h1) hx y
  · rw [execJxRead_taken h]
    refine ⟨fun hb => congrArg _ (readWindow_unbacked hb), fun got v hb hr => ?_⟩
    obtain ⟨hclean, hwaits, hfailed, hbad⟩ := readWindow_ends (before := s) (g := readServed f a) hb hr
    exact ⟨fun hg => congrArg _ (hclean hg), fun hg => congrArg _ (hwaits hg), fun hg => congrArg _ (hfailed hg), fun b hg => congrArg _ (hbad b hg)⟩
  · rw [execJxCas_taken h]
    refine ⟨fun hb => congrArg _ (readWindow_unbacked hb), fun got v hb hr => ?_⟩
    obtain ⟨hclean, hwaits, hfailed, hbad⟩ := readWindow_ends (before := s) (g := casServed f a) hb hr
    exact ⟨fun hg => congrArg _ (hclean hg), fun hg => congrArg _ (hwaits hg), fun hg => congrArg _ (hfailed hg), fun b hg => congrArg _ (hbad b hg)⟩
  · have hr : readChunks who chunks o s = (.waits, _) := Prod.ext (readChunks_abandoned h hc ha) rfl
    exact ⟨_, hr, readChunks_same hr⟩
  · obtain ⟨v, hr, -⟩ := readChunks_clean (who := who) h hc ha hl
    exact ⟨v, hr, readChunks_same hr⟩
  · have hr : readChunks who chunks o s = (.bad a.toNat, _) := Prod.ext (readChunks_uncorrectable h hc ha hl hin) rfl
    exact ⟨_, hr, readChunks_same hr⟩

end Sys2Proof.Proofs

/-! PROOF. How messages are answered or abandoned: acknowledgements, refusals, responses and timers (11 R244, R245, R250, R256, R258, R260-R265; 17 R375). -/

namespace Sys2Proof.Proofs

open Sys2Proof.Machine Sys2Proof.Laws

theorem exec_ackOrNak_dropped {c : Instr} {op : Nat} {f : RxFrame} {s u : State}
    (hc : (c, op) = (.jxAckReceive f, 0x10) ∨ (c, op) = (.jxNakReceive f, 0x11)) (h : takeControl f [op] s = (none, u)) : exec c s = .next u := by
  rcases hc with hc | hc <;> obtain ⟨rfl, rfl⟩ := Prod.mk.inj hc
  · change execJxAckReceive f s = _
    unfold execJxAckReceive
    rw [h]
  · change execJxNakReceive f s = _
    unfold execJxNakReceive
    rw [h]

/-! ## Acknowledgements (R260) -/

section ackReceive
variable {f : RxFrame} {a : Admitted} {s u : State} (h : takeControl f [0x10] s = (some a, u))
include h

theorem execJxAckReceive_taken : exec (.jxAckReceive f) s = .next (if ackBad a.payload then controlBad f a.die u
    else (words 8 (a.payload.length / 8) a.payload).foldl (fun s v => ackOne f.hdr.src.toNat v s)
      (if f.hdr.ceEcho then halveCong f.hdr.src.toNat u else u)) := by
  change execJxAckReceive f s = _
  unfold execJxAckReceive
  rw [h]

theorem execJxAckReceive_malformed (hb : ackBad a.payload = true) : exec (.jxAckReceive f) s = .next (controlBad f a.die u) :=
  (execJxAckReceive_taken h).trans (congrArg Host.Outcome.next (if_pos hb))

theorem execJxAckReceive_entries (hb : ackBad a.payload = false) : exec (.jxAckReceive f) s = .next
    ((words 8 (a.payload.length / 8) a.payload).foldl (fun s v => ackOne f.hdr.src.toNat v s)
      (if f.hdr.ceEcho then halveCong f.hdr.src.toNat u else u)) :=
  (execJxAckReceive_taken h).trans (congrArg Host.Outcome.next (if_neg (by simp [hb])))

end ackReceive

section ackOne
variable {src v : Nat} {s : State}

theorem ackOne_unknown (h : tlook s.jx.out (bits v 31 0) = none) : ackOne src v s = count (netCntOff (bits v 31 0 % 4) 12) s := by
  unfold ackOne
  simp only [h]

variable {m : OutMsg} (h : tlook s.jx.out (bits v 31 0) = some m)
include h

theorem ackOne_stranger (hm : m.dst ≠ src ∨ ackable m.op = false) : ackOne src v s = count (netCntOff (bits v 31 0 % 4) 12) s := by
  unfold ackOne
  simp only [h]
  exact if_pos hm

/-- Once its packets' timers have stopped, a message ends that the receiver says is complete, or of which nothing is left to send or answer. -/
theorem ackOne_named {y : OutMsg} (hd : m.dst = src) (ha : ackable m.op = true) :
    let u := (List.range (bits v 53 43 + 1)).foldl (fun s j => packetDone (bits v 31 0) (bits v 42 32 + j) s) s
    tlook u.jx.out (bits v 31 0) = some y →
    ackOne src v s = if bitAt v 54 || (y.flight.isEmpty && y.unsent.isEmpty) then msgAcked (bits v 31 0) u else u := by
  intro u hy
  unfold ackOne
  simp only [h]
  rw [if_neg (by simp [hd, ha])]
  change (match tlook u.jx.out (bits v 31 0) with | none => u | some m => _) = _
  rw [hy]

end ackOne

section packets
variable {id : Nat} {m : OutMsg} {s : State} (h : tlook s.jx.out id = some m)
include h

theorem packetDone_flying {idx : Nat} {f : Flight} (hf : tlook m.flight idx = some f) : packetDone id idx s =
    pathGood f.path (setOut id { m with flight := tdel m.flight idx, resend := m.resend.filter (· != idx) } s) := by
  unfold packetDone
  simp only [h, hf]

theorem msgAcked_loadData {key : Nat} (hp : m.purpose = .loadData key) : msgAcked id s = finishLoadOut key (dropOut id s) := by
  unfold msgAcked
  simp only [h, hp]

theorem msgAcked_other (hp : ∀ key, m.purpose ≠ .loadData key) : msgAcked id s = dropOut id s := by
  unfold msgAcked
  simp only [h]

end packets

/-! ## Refusals (R264, R265) -/

/-- A NAK that can be read refuses the packet it names, if it names one in flight to its sender. -/
def nakNamed (f : RxFrame) (b : Bytes) (s : State) : State :=
  match tlook s.jx.out (rd b 4 4) with
  | none => count (netCntOff (rd b 4 4 % 4) 12) s
  | some m =>
    if m.dst ≠ f.hdr.src.toNat ∨ m.op ≠ rd b 1 1 ∨ (tlook m.flight (bits (rd b 2 2) 10 0)).isNone then count (netCntOff (rd b 4 4 % 4) 12) s
    else nakOne (rd b 4 4) m (statusIn (rd b 0 1)) (bits (rd b 2 2) 10 0) (rd b 8 4) f s

section nakNamed
variable {f : RxFrame} {b : Bytes} {s : State}

theorem nakNamed_unknown (hm : tlook s.jx.out (rd b 4 4) = none) : nakNamed f b s = count (netCntOff (rd b 4 4 % 4) 12) s := by
  unfold nakNamed
  rw [hm]

theorem nakNamed_flying {m : OutMsg} (hm : tlook s.jx.out (rd b 4 4) = some m) (hd : m.dst = f.hdr.src.toNat) (hop : m.op = rd b 1 1)
    (hf : (tlook m.flight (bits (rd b 2 2) 10 0)).isSome = true) :
    nakNamed f b s = nakOne (rd b 4 4) m (statusIn (rd b 0 1)) (bits (rd b 2 2) 10 0) (rd b 8 4) f s := by
  obtain ⟨x, hx⟩ := Option.isSome_iff_exists.1 hf
  unfold nakNamed
  rw [hm]
  exact if_neg (by simp [hd, hop, hx])

end nakNamed

section nakReceive
variable {f : RxFrame} {a : Admitted} {s u : State} (h : takeControl f [0x11] s = (some a, u))
include h

theorem execJxNakReceive_taken :
    exec (.jxNakReceive f) s = .next (if nakBad a.payload then controlBad f a.die u else nakNamed f a.payload u) := by
  change execJxNakReceive f s = _
  unfold execJxNakReceive
  rw [h]
  rfl

theorem execJxNakReceive_malformed (hb : nakBad a.payload = true) : exec (.jxNakReceive f) s = .next (controlBad f a.die u) :=
  (execJxNakReceive_taken h).trans (congrArg Host.Outcome.next (if_pos hb))

theorem execJxNakReceive_wellFormed (hb : nakBad a.payload = false) : exec (.jxNakReceive f) s = .next (nakNamed f a.payload u) :=
  (execJxNakReceive_taken h).trans (congrArg Host.Outcome.next (if_neg (by simp [hb])))

end nakReceive

theorem statusIn_defined {st : Nat} (h : st ≤ 15) : statusIn st = st := if_neg (Nat.not_lt.2 h)

theorem statusIn_undefined {st : Nat} (h : 15 < st) : statusIn st = stInternal := if_pos h

@[simp] theorem tlook_setOut (id : Nat) (m : OutMsg) (s : State) : tlook (setOut id m s).jx.out id = some m := tlook_tput _ _ _

theorem backOff_known {id : Nat} {idxs : List Nat} {info : Nat} {m : OutMsg} {s : State} (h : tlook s.jx.out id = some m) :
    backOff id idxs info s = setOut id { m with
      backoff := some (now s + backoffUs m.backoff info * 1000, backoffUs m.backoff info), resend := (m.resend ++ idxs).dedup } s := by
  unfold backOff
  simp only [h]

theorem nakOne_retry (id pkt info : Nat) (m : OutMsg) (f : RxFrame) (s : State) : nakOne id m stRetry pkt info f s = backOff id [pkt] info s :=
  (if_pos (.inl rfl)).trans (by rw [if_neg (by decide)])

theorem nakOne_access (id pkt info : Nat) (m : OutMsg) (f : RxFrame) (s : State) : nakOne id m stAccess pkt info f s = msgRefused id stAccess s := by
  unfold nakOne
  rw [if_neg (by decide), if_neg (by decide), if_neg fun h => absurd h.1 (by decide)]
  rfl

/-- A back-off is never shorter than the receiver suggests, and the first is at least 20 µs. -/
theorem le_backoffUs (prev : Option (Nat × Nat)) (info : Nat) : info ≤ backoffUs prev info := by
  unfold backoffUs
  split
  · exact le_max_right _ _
  · exact le_max_left _ _

theorem le_backoffUs_first (info : Nat) : 20 ≤ backoffUs none info := le_max_left _ _

/-! ## Responses (R250, R254; 09 R213; 16 R347) -/

/-- The status a COMMIT_RESP carries: one with a reserved bit set is malformed (09 Table 9.6). -/
def commitStatus (b : Bytes) : Nat := if commitRespBad b then stMalformed else statusIn (rd b 0 1)

/-- What the answer to message `id` brings to whoever sent it. -/
def responseTaken (a : Admitted) (id : Nat) (m : OutMsg) (s : State) : State :=
  match m.purpose with
  | .probe n _ => onProbeResp n a.payload s
  | .ctlForward slot => ctlForwarded slot id (if commitStatus a.payload = stOk then .okay else .refused (commitStatus a.payload)) s
  | _ => s

theorem responseTaken_other {a : Admitted} {id : Nat} {m : OutMsg} {s : State} (hp : ∀ n x, m.purpose ≠ .probe n x)
    (hc : ∀ slot, m.purpose ≠ .ctlForward slot) : responseTaken a id m s = s := by
  unfold responseTaken
  split
  case h_1 n x hn => exact absurd hn (hp n x)
  case h_2 slot hs => exact absurd hs (hc slot)
  case h_3 => rfl

section responses
variable {f : RxFrame} {s u : State}

theorem execJxResponseReceive_dropped (h : takeAnswer f [0x83, 0x84, 0xA0, 0xA1, 0xA3, 0xA8] s = (none, u)) :
    exec (.jxResponseReceive f) s = .next u := by
  change execJxResponseReceive f s = _
  unfold execJxResponseReceive
  rw [h]

variable {a : Admitted} {id : Nat} {m : OutMsg} (h : takeAnswer f [0x83, 0x84, 0xA0, 0xA1, 0xA3, 0xA8] s = (some (a, id, m), u))
include h

theorem execJxResponseReceive_taken : exec (.jxResponseReceive f) s = .next (responseTaken a id m u) := by
  change execJxResponseReceive f s = _
  unfold execJxResponseReceive
  rw [h]
  rfl

theorem execJxResponseReceive_probe {n x : Nat} (hp : m.purpose = .probe n x) : exec (.jxResponseReceive f) s = .next (onProbeResp n a.payload u) := by
  rw [execJxResponseReceive_taken h]
  unfold responseTaken
  rw [hp]

theorem execJxResponseReceive_commit {slot : Nat} (hp : m.purpose = .ctlForward slot) : exec (.jxResponseReceive f) s =
    .next (ctlForwarded slot id (if commitStatus a.payload = stOk then .okay else .refused (commitStatus a.payload)) u) := by
  rw [execJxResponseReceive_taken h]
  unfold responseTaken
  rw [hp]

theorem execJxResponseReceive_other (hp : ∀ n x, m.purpose ≠ .probe n x) (hc : ∀ slot, m.purpose ≠ .ctlForward slot) :
    exec (.jxResponseReceive f) s = .next u :=
  (execJxResponseReceive_taken h).trans (congrArg Host.Outcome.next (responseTaken_other hp hc))

end responses

section forwarded
variable {slot id k : Nat} {fwd : FwdSt} {o : CtlOp} {s : State}
  (h : tfind s.work.ctlOps (fun _ o => o.slot == slot && o.fwd == .waiting && o.fwdMsg == id) = some (k, o))
include h

theorem ctlForwarded_kept (hop : o.op ≠ 1) :
    ctlForwarded slot id fwd s = { s with work := { s.work with ctlOps := tput s.work.ctlOps k { o with fwd := fwd } } } := by
  unfold ctlForwarded
  simp only [h]
  exact if_neg hop

/-- A forwarded rollback that the partner has made is answered at once, as one of both nodes. -/
theorem ctlForwarded_rollback (hop : o.op = 1) : ctlForwarded slot id .okay s =
    admitNext slot (ctlAnswer { o with fwd := .okay } stOk false false false (ctlGone k { o with fwd := .okay } s)) := by
  unfold ctlForwarded
  simp only [h]
  refine (if_pos hop).trans ?_
  simp [ctlSingle]

end forwarded

section probeResp
variable {n : Nat} {b : Bytes} {s : State}

theorem onProbeResp_malformed (h : 2 < rd b 1 1 ∨ zeroAt b 2 2 = false ∨ zeroAt b 8 8 = false) : onProbeResp n b s = s := if_pos h

theorem probeOf_onProbeResp (hw : twf {} s.datum.probe = true) (hst : rd b 1 1 ≤ 2) (hz : zeroAt b 2 2 = true) (hz' : zeroAt b 8 8 = true) :
    probeOf (onProbeResp n b s) n = { probeOf s n with
      misses := 0, suspect := false, open_ := if rd b 4 4 = (probeOf s n).seq then false else (probeOf s n).open_ } := by
  simp only [twf, Bool.and_eq_true] at hw
  unfold onProbeResp
  simp only
  rw [if_neg (by simp [hst, hz, hz'])]
  exact (tget_tset hw.1 _ _ _ _).trans (if_pos rfl)

end probeResp

/-! ## The timer of acknowledgements (R260) -/

section ackCoalesce
variable {ep : BitVec 24} {s : State}

theorem execAckCoalesceExpire_empty (h : tlook s.jx.ack ep.toNat = none) : exec (.ackCoalesceExpire ep) s = .next s := by
  change execAckCoalesceExpire ep s = _
  unfold execAckCoalesceExpire
  rw [h]

variable {b : AckBuf} (h : tlook s.jx.ack ep.toNat = some b)
include h

theorem execAckCoalesceExpire_some :
    exec (.ackCoalesceExpire ep) s = .next (if awake s = true ∧ b.since + 2000 ≤ now s then flushAck ep.toNat s else s) := by
  change execAckCoalesceExpire ep s = _
  unfold execAckCoalesceExpire
  rw [h]

theorem execAckCoalesceExpire_due (hs : awake s = true) (ht : b.since + 2000 ≤ now s) :
    exec (.ackCoalesceExpire ep) s = .next (flushAck ep.toNat s) :=
  (execAckCoalesceExpire_some h).trans (congrArg Host.Outcome.next (if_pos ⟨hs, ht⟩))

theorem execAckCoalesceExpire_early (hw : awake s = false ∨ now s < b.since + 2000) : exec (.ackCoalesceExpire ep) s = .next s :=
  (execAckCoalesceExpire_some h).trans (congrArg Host.Outcome.next (if_neg fun ⟨hs, ht⟩ => by
    obtain hw | hw := hw
    · simp [hw] at hs
    · omega))

end ackCoalesce

theorem flushAck_some {ep : Nat} {b : AckBuf} {s : State} (h : tlook s.jx.ack ep = some b) : flushAck ep s =
    sendBack 0x10 ep b.path b.addr b.ce (b.entries.flatMap ackEntry) { s with jx := { s.jx with ack := tdel s.jx.ack ep } } := by
  unfold flushAck
  rw [h]

/-! ## The timers of messages in flight (R250, R261, R265) -/

section retransmit
variable {id : BitVec 32} {pkt : Nat} {m : OutMsg} {f : Flight} {s : State} (h : tlook s.jx.out id.toNat = some m)
  (hf : tlook m.flight pkt = some f)
include h hf

theorem execJxRetransmitTimer_flying : exec (.jxRetransmitTimer id pkt) s = .next (
    if awake s = false ∨ m.resend.contains pkt = true ∨ now s < f.at_ + 200000 ∨ now s > m.time.getD 0 + 900000 then s
    else sendAgain id.toNat pkt (halveCong m.dst (pathMiss (id.toNat % 4) f.path s))) := by
  change execJxRetransmitTimer id pkt s = _
  unfold execJxRetransmitTimer
  simp only [h, hf]

theorem execJxRetransmitTimer_early (ht : now s < f.at_ + 200000) : exec (.jxRetransmitTimer id pkt) s = .next s :=
  (execJxRetransmitTimer_flying h hf).trans (congrArg Host.Outcome.next (if_pos (.inr (.inr (.inl ht)))))

theorem execJxRetransmitTimer_due (hs : awake s = true) (hr : m.resend.contains pkt = false) (hm : now s ≤ m.time.getD 0 + 900000)
    (ht : f.at_ + 200000 ≤ now s) : exec (.jxRetransmitTimer id pkt) s =
      .next (sendAgain id.toNat pkt (halveCong m.dst (pathMiss (id.toNat % 4) f.path s))) :=
  (execJxRetransmitTimer_flying h hf).trans (congrArg Host.Outcome.next 
    (if_neg (not_or.2 ⟨by simp [hs], not_or.2 ⟨fun hc => absurd (hr.symm.trans hc) (by decide), by omega⟩⟩)))

end retransmit

/-- The packet sent is in flight from now on, on the path it took (R244, R245). -/
theorem tlook_transmit {id idx att : Nat} {m : OutMsg} {s : State} (h : tlook s.jx.out id = some m) : ∃ p,
    tlook (transmit id idx att s).jx.out id =
      some { m with time := some (m.time.getD (now s)), flight := tput m.flight idx { att := att, at_ := now s, path := p } } := by
  have hnow (p : Pkt) (part : Option (Nat × Bool)) (again : Bool) : now (queuePkt p part again s) = now s :=
    congrArg Bmk.time ((queuePkt_frame (m := [.jx]) p part again (Frame.refl _ s) rfl).same .bmk (by decide))
  unfold transmit
  simp only [h, hnow, tlook_tput]
  exact ⟨_, rfl⟩

theorem sendAgain_inTime {id idx t : Nat} {m : OutMsg} {f : Flight} {s : State} (h : tlook s.jx.out id = some m) (hf : tlook m.flight idx = some f)
    (ht : m.time = some t) (hn : now s ≤ t + 900000) : sendAgain id idx s = count (netCntOff (id % 4) 8) (transmit id idx (f.att + 1) s) := by
  unfold sendAgain
  simp only [h, hf, ht]
  exact if_neg (Nat.not_lt.2 hn)

section msgExpire
variable {id : BitVec 32} {m : OutMsg} {t : Nat} {s : State} (h : tlook s.jx.out id.toNat = some m) (ht : m.time = some t)
include h ht

theorem execJxMsgExpire_sent : exec (.jxMsgExpire id) s = .next (
    if awake s = true ∧ t + 900000 ≤ now s then msgAbandoned id.toNat (count (netCntOff (id.toNat % 4) 9) s) else s) := by
  change execJxMsgExpire id s = _
  unfold execJxMsgExpire
  simp only [h, ht]

theorem execJxMsgExpire_due (hs : awake s = true) (hn : t + 900000 ≤ now s) :
    exec (.jxMsgExpire id) s = .next (msgAbandoned id.toNat (count (netCntOff (id.toNat % 4) 9) s)) :=
  (execJxMsgExpire_sent h ht).trans (congrArg Host.Outcome.next (if_pos ⟨hs, hn⟩))

theorem execJxMsgExpire_early (hn : now s < t + 900000) : exec (.jxMsgExpire id) s = .next s :=
  (execJxMsgExpire_sent h ht).trans (congrArg Host.Outcome.next (if_neg fun hd => Nat.not_le.2 hn hd.2))

end msgExpire

/-- What the abandonment of a message brings, by its purpose, beside its going out of flight (R261). -/
def purposeAbandoned (id : Nat) (m : OutMsg) (s : State) : State :=
  match m.purpose with
  | .record x => complLost x s
  | .result x => resultLost x id m s
  | .forward inst slot => forwardAgain inst slot m s
  | .ctlForward slot => ctlRetry slot id s
  | .mapRead c => fetchFails c s
  | .loadOpen key => loadOpenAgain key s
  | .loadData key => endLoadOut key s
  | .loadDone key => loadDoneAgain m key s
  | _ => s

theorem msgAbandoned_known {id : Nat} {m : OutMsg} {s : State} (h : tlook s.jx.out id = some m) :
    msgAbandoned id s = purposeAbandoned id m (dropOut id s) := by
  unfold msgAbandoned purposeAbandoned
  rw [h]
  cases hp : m.purpose <;> simp only [hp]

/-- Messages of these purposes tell nobody when they are abandoned. -/
theorem purposeAbandoned_silent {id : Nat} {m : OutMsg} {s : State} (h : m.purpose = .quiet ∨ (∃ a b c, m.purpose = .prepare a b c) ∨
    (∃ a b c, m.purpose = .accept a b c) ∨ (∃ a b, m.purpose = .commitTo a b) ∨ (∃ a b, m.purpose = .probe a b)) : purposeAbandoned id m s = s := by
  unfold purposeAbandoned
  obtain h | ⟨_, _, _, h⟩ | ⟨_, _, _, h⟩ | ⟨_, _, h⟩ | ⟨_, _, h⟩ := h <;> rw [h]

section nakBackoff
variable {id : BitVec 32} {m : OutMsg} {t w : Nat} {s : State} (h : tlook s.jx.out id.toNat = some m) (hb : m.backoff = some (t, w))
include h hb

theorem execJxNakBackoffExpire_waiting : exec (.jxNakBackoffExpire id) s = .next (if awake s = false ∨ now s < t then s
    else m.resend.foldl (fun s i => sendAgain id.toNat i s) (setOut id.toNat { m with resend := [] } s)) := by
  change execJxNakBackoffExpire id s = _
  unfold execJxNakBackoffExpire
  simp only [h, hb]

theorem execJxNakBackoffExpire_early (ht : now s < t) : exec (.jxNakBackoffExpire id) s = .next s :=
  (execJxNakBackoffExpire_waiting h hb).trans (congrArg Host.Outcome.next (if_pos (.inr ht)))

theorem execJxNakBackoffExpire_due (hs : awake s = true) (ht : t ≤ now s) : exec (.jxNakBackoffExpire id) s =
    .next (m.resend.foldl (fun s i => sendAgain id.toNat i s) (setOut id.toNat { m with resend := [] } s)) :=
  (execJxNakBackoffExpire_waiting h hb).trans (congrArg Host.Outcome.next (if_neg (by simp [hs, ht])))

end nakBackoff

/-! ## Messages that wait go on (R262; 17 R375) -/

section resume
variable {id : Nat} {m : OutMsg} {s : State} (h : tlook s.jx.out id = some m)
include h

theorem resumeMsg_refused (ht : m.time = none) (hk : keyFault s m.op m.tenant = true) :
    resumeMsg id s = msgRefused id stTenantRevoked (keyRefused m.op s) := by
  unfold resumeMsg
  simp only [h]
  exact if_pos (by simp [ht, hk])

theorem resumeMsg_starts (hk : m.time.isSome = true ∨ keyFault s m.op m.tenant = false) : resumeMsg id s = startMsg id s := by
  unfold resumeMsg
  simp only [h]
  refine if_neg ?_
  obtain hk | hk := hk
  · simp [Option.isSome_iff_ne_none.1 hk]
  · simp [hk]

theorem startMsg_waits (ht : m.time = none) (hw : 4096 ≤ inFlightOf s (id % 4) ∨ now s < m.notBefore) : startMsg id s = s := by
  unfold startMsg
  simp only [h]
  exact if_pos (by simpa [ht] using hw)

theorem startMsg_sends (hw : m.time.isSome = true ∨ (inFlightOf s (id % 4) < 4096 ∧ m.notBefore ≤ now s)) :
    startMsg id s = pumpPkts id m.unsent s := by
  unfold startMsg
  simp only [h]
  refine if_neg ?_
  obtain hw | ⟨hroom, hdue⟩ := hw
  · simp [Option.isSome_iff_ne_none.1 hw]
  · simp [hroom, hdue]

theorem pumpPkts_sends {i : Nat} {rest : List Nat} (hs : mayStillSend m s = true)
    (hw : unacked s m.dst + pktBytes m.data.length i ≤ (congOf s m.dst).w) : pumpPkts id (i :: rest) s =
      pumpPkts id rest (transmit id i 0 { s with jx := { s.jx with out := tput s.jx.out id { m with unsent := m.unsent.filter (· != i) } } }) := by
  rw [pumpPkts]
  simp only [h]
  exact if_pos ⟨hs, hw⟩

theorem pumpPkts_stops {i : Nat} {rest : List Nat}
    (hw : mayStillSend m s = false ∨ (congOf s m.dst).w < unacked s m.dst + pktBytes m.data.length i) : pumpPkts id (i :: rest) s = s := by
  rw [pumpPkts]
  simp only [h]
  refine if_neg fun ⟨hs, hle⟩ => ?_
  obtain hw | hw := hw
  · simp [hw] at hs
  · omega

end resume

/-! ## Age limits, paths and the window W (R245, R256, R258, R262) -/

section trackerExpire
variable {src : BitVec 24} {id : BitVec 32} {t : Tracker} {s : State} (h : tlook s.jx.tracker (msgKey src.toNat id.toNat) = some t)
include h

theorem execTrackerExpire_due (hs : awake s = true) (ht : t.time + 1010000 < now s) : exec (.trackerExpire src id) s = .next
    (count (netCntOff (id.toNat % 4) 7) { s with jx := { s.jx with tracker := tdel s.jx.tracker (msgKey src.toNat id.toNat) } }) := by
  change execTrackerExpire src id s = _
  unfold execTrackerExpire
  simp only [h]
  exact congrArg Host.Outcome.next (if_pos ⟨hs, ht⟩)

theorem execTrackerExpire_young (ht : now s ≤ t.time + 1010000) : exec (.trackerExpire src id) s = .next s := by
  change execTrackerExpire src id s = _
  unfold execTrackerExpire
  simp only [h]
  exact congrArg Host.Outcome.next (if_neg fun hd => Nat.not_lt.2 ht hd.2)

end trackerExpire

section filterExpire
variable {src : BitVec 24} {id : BitVec 32} {e : Filt} {s : State} (h : tlook s.jx.filter (msgKey src.toNat id.toNat) = some e)
include h

theorem execFilterExpire_due (hs : awake s = true) (ht : e.time + 1010000 < now s) : exec (.filterExpire src id) s =
    .next { s with jx := { s.jx with filter := tdel s.jx.filter (msgKey src.toNat id.toNat) } } := by
  change execFilterExpire src id s = _
  unfold execFilterExpire
  simp only [h]
  exact congrArg Host.Outcome.next (if_pos ⟨hs, ht⟩)

theorem execFilterExpire_young (ht : now s ≤ e.time + 1010000) : exec (.filterExpire src id) s = .next s := by
  change execFilterExpire src id s = _
  unfold execFilterExpire
  simp only [h]
  exact congrArg Host.Outcome.next (if_neg fun hd => Nat.not_lt.2 ht hd.2)

end filterExpire

section pathCool
variable {p : Fin 64} {t : Nat} {s : State} (h : (pathSt s p).cool = some t)
include h

theorem execPathCoolExpire_due (ht : t ≤ now s) : exec (.pathCoolExpire p) s = .next (setPath p { pathSt s p with cool := none } s) := by
  change execPathCoolExpire p s = _
  unfold execPathCoolExpire
  simp only [h]
  exact congrArg Host.Outcome.next (if_pos ht)

theorem execPathCoolExpire_early (ht : now s < t) : exec (.pathCoolExpire p) s = .next s := by
  change execPathCoolExpire p s = _
  unfold execPathCoolExpire
  simp only [h]
  exact congrArg Host.Outcome.next (if_neg (Nat.not_le.2 ht))

end pathCool

section congGrow
variable {ep : BitVec 24} {s : State}

/-- W towards an endpoint after a step of its growth, up to 4 MiB. -/
def grownCong (s : State) (ep : Nat) : Cong := { congOf s ep with w := min 4194304 ((congOf s ep).w + 65536), grown := now s }

/-- W is kept by its entry; back at 4 MiB it needs none. -/
def growCong (ep : Nat) (s : State) : State :=
  { s with jx := { s.jx with cong := tset {} s.jx.cong ep (if (grownCong s ep).w = 4194304 then {} else grownCong s ep) } }

theorem execCongWindowGrow_due (hs : awake s = true) (hw : (congOf s ep.toNat).w < 4194304)
    (ht : (congOf s ep.toNat).grown + 100000 ≤ now s) : exec (.congWindowGrow ep) s = .next (growCong ep.toNat s) :=
  congrArg Host.Outcome.next (if_pos ⟨hs, hw, ht⟩)

theorem congOf_put {c : Cong} (h : c ≠ {}) (ep : Nat) (s : State) :
    congOf { s with jx := { s.jx with cong := tset {} s.jx.cong ep c } } ep = c := tget_tset_self h _ _

/-- A growth that stays below 4 MiB is a step of 64 KiB, and its time is kept. -/
theorem congOf_growCong {ep : Nat} (hw : (congOf s ep).w + 65536 < 4194304) :
    (congOf (growCong ep s) ep).w = (congOf s ep).w + 65536 ∧ (congOf (growCong ep s) ep).grown = now s := by
  have hgrown : (grownCong s ep).w = (congOf s ep).w + 65536 := Nat.min_eq_right hw.le
  have hbelow : (grownCong s ep).w ≠ 4194304 := (hgrown.trans_lt hw).ne
  have hne : grownCong s ep ≠ {} := fun heq => hbelow (congrArg Cong.w heq)
  have hcong : congOf (growCong ep s) ep = grownCong s ep := by
    unfold growCong
    rw [if_neg hbelow]
    exact congOf_put hne ep s
  rw [hcong]
  exact ⟨hgrown, rfl⟩

theorem execCongWindowGrow_idle (h : awake s = false ∨ 4194304 ≤ (congOf s ep.toNat).w ∨ now s < (congOf s ep.toNat).grown + 100000) :
    exec (.congWindowGrow ep) s = .next s :=
  congrArg Host.Outcome.next (if_neg fun ⟨hs, hw, ht⟩ => by
    obtain h | h | h := h
    · simp [h] at hs
    · omega
    · omega)

end congGrow

/-- Settles O47: by what an acknowledgement, a refusal, a response and each timer does to the message it names, before its time and at it. -/
theorem messagesAreAnsweredOrAbandoned : Obligations.MessagesAreAnsweredOrAbandoned := by
  unfold Obligations.MessagesAreAnsweredOrAbandoned
  refine ⟨fun f a s u h => ⟨execJxAckReceive_malformed h, execJxAckReceive_entries h⟩, fun c op f s u => exec_ackOrNak_dropped,
    fun src v s => ackOne_unknown, fun src v m s h => ⟨ackOne_stranger h, fun y hd ha hy => ?_⟩,
    fun id idx m f s h hf => packetDone_flying h hf, fun id m s h => ⟨fun key => msgAcked_loadData h, msgAcked_other h⟩,
    fun f a s u h => ⟨execJxNakReceive_malformed h,
      fun hb hm => (execJxNakReceive_wellFormed h hb).trans (congrArg Host.Outcome.next (nakNamed_unknown hm)),
      fun m hb hm hd hop hf => (execJxNakReceive_wellFormed h hb).trans (congrArg Host.Outcome.next (nakNamed_flying hm hd hop hf))⟩,
    fun st => ⟨statusIn_defined, statusIn_undefined⟩,
    fun id pkt info m f s h => ⟨⟨_, nakOne_retry id pkt info m f s, ?_⟩, nakOne_access id pkt info m f s⟩,
    fun prev info => ⟨le_backoffUs prev info, ?_⟩,
    fun f a id m s u h => ⟨fun n x => execJxResponseReceive_probe h, fun slot => execJxResponseReceive_commit h, execJxResponseReceive_other h⟩,
    fun f s u => execJxResponseReceive_dropped, fun slot id k fwd o s h => ⟨ctlForwarded_kept h, ?_⟩,
    fun n b s => onProbeResp_malformed, fun n b s hw hst hz hz' => ?_, fun ep s => execAckCoalesceExpire_empty,
    fun ep b s h => ⟨execAckCoalesceExpire_due h, execAckCoalesceExpire_early h⟩, fun ep b s => flushAck_some,
    fun id pkt m f s h hf hs hr hm => ⟨execJxRetransmitTimer_early h hf, execJxRetransmitTimer_due h hf hs hr hm⟩,
    fun id idx t m f s h hf ht hn => ⟨sendAgain_inTime h hf ht hn, ?_⟩,
    fun id m t s h ht hs => ⟨execJxMsgExpire_due h ht hs, execJxMsgExpire_early h ht⟩, fun id m s h => ?_,
    fun id m t w s h hb hs => ⟨execJxNakBackoffExpire_early h hb, execJxNakBackoffExpire_due h hb hs⟩,
    fun d s hs => congrArg Host.Outcome.next (if_pos hs),
    fun id m s h => ⟨resumeMsg_refused h, resumeMsg_starts h, startMsg_waits h, startMsg_sends h, fun i rest => pumpPkts_sends h,
      fun i rest => pumpPkts_stops h⟩,
    fun src id t s h hs => ⟨execTrackerExpire_due h hs, execTrackerExpire_young h⟩,
    fun src id e s h hs => ⟨execFilterExpire_due h hs, execFilterExpire_young h⟩,
    fun p t s h => ⟨execPathCoolExpire_due h, execPathCoolExpire_early h⟩,
    fun ep s hs hw ht => ⟨_, execCongWindowGrow_due hs hw ht, congOf_growCong⟩, fun ep s => execCongWindowGrow_idle⟩
  · have hnamed := ackOne_named h hd ha hy
    refine ⟨fun hdone => hnamed.trans (if_pos ?_), fun hbit hleft => hnamed.trans (if_neg ?_)⟩
    · obtain hdone | ⟨hf, hu⟩ := hdone <;> simp [*]
    · obtain hleft | hleft := hleft <;> simp [hbit, hleft]
  · rw [backOff_known h]
    exact ⟨_, tlook_setOut _ _ _, rfl, List.mem_dedup.2 (List.mem_append_right _ (List.mem_singleton_self pkt))⟩
  · rintro rfl
    exact le_backoffUs_first info
  · rintro hop rfl
    exact ctlForwarded_rollback h hop
  · intro t
    rw [probeOf_onProbeResp hw hst hz hz']
    exact ⟨rfl, rfl, fun hseq => if_pos hseq⟩
  · obtain ⟨p, hp⟩ := tlook_transmit (idx := idx) (att := f.att + 1) h
    rw [ht, Option.getD_some, ← ht] at hp
    exact ⟨p, hp⟩
  · rw [msgAbandoned_known h]
    refine ⟨purposeAbandoned_silent, fun x hp => ?_, fun x hp => ?_, fun i k hp => ?_, fun slot hp => ?_, fun c hp => ?_⟩ <;>
      (unfold purposeAbandoned; rw [hp])

end Sys2Proof.Proofs

/-! PROOF. Ports and clocks: frames that are no Jexus packet, links, and the PTP servo (02 Table 2.5; 11 R240, R245, R271, R272; 18 Table 18.6; 21 R460). -/

namespace Sys2Proof.Proofs

open Sys2Proof.Machine Sys2Proof.Laws

/-! ## Frames that are no Jexus packet (R240) -/

section nonJexusFrame
variable {p : Fin 8} {s : State}

theorem execNonJexusFrame_serving (k : FrameKind) (h : portServes s p = true) : exec (.nonJexusFrame p k) s = .next (
    if k = .fragmentOrOptions ∨ k = .other then count (portCntOff p 0x20) s else if k = .badChecksum then count (portCntOff p 0x24) s else s) := by
  refine congrArg Host.Outcome.next ((if_neg (by simp [h])).trans ?_)
  cases k <;> rfl

theorem execNonJexusFrame_shut (k : FrameKind) (h : portServes s p = false) : exec (.nonJexusFrame p k) s = .next s :=
  congrArg Host.Outcome.next (if_pos (by simp [h]))

end nonJexusFrame

/-! ## Links (R245) -/

/-- A port's bit flips, and no other. -/
theorem getLsbD_flip (b : BitVec 8) (p : Fin 8) (x : Nat) : (b ^^^ (1#8 <<< p.val)).getLsbD x = if x = p then !b.getLsbD x else b.getLsbD x := by
  have hbit : (1#8 <<< p.val).getLsbD x = decide (x = p) := by
    rw [← BitVec.twoPow_eq, BitVec.getLsbD_twoPow]
    have := p.isLt
    grind
  rw [BitVec.getLsbD_xor, hbit]
  split <;> simp [*]

/-- The leaf that a port's link sets as it goes down. -/
def linkDownLeaf (p : Nat) : Leaf := if p % 2 = 0 then leafLinkDownA (p / 2) else leafLinkDownB (p / 2)

/-- The states of the ports once port `p` has changed. -/
def linkFlipped (p : Nat) (s : State) : State := { s with jx := { s.jx with portUp := s.jx.portUp ^^^ (1#8 <<< p) } }

theorem getLsbD_linkFlipped (p : Fin 8) (x : Nat) (s : State) :
    (linkFlipped p s).jx.portUp.getLsbD x = if x = p then !s.jx.portUp.getLsbD x else s.jx.portUp.getLsbD x := getLsbD_flip _ p x

section ethLink
variable {p : Nat} {s : State}

theorem ethLink_stays {up : Bool} (h : s.jx.portUp.getLsbD p = up) : ethLink p up s = s := if_pos h

theorem ethLink_rises (h : s.jx.portUp.getLsbD p = false) : ethLink p true s = linkFlipped p s := if_neg (by simp [h])

theorem ethLink_falls (h : s.jx.portUp.getLsbD p = true) :
    ethLink p false s = countN 16 (portStatusOff p) 1 (raise (linkDownLeaf p) [(17, 1, p)] (linkFlipped p s)) := if_neg (by simp [h])

end ethLink

section ethLinkChange
variable {p : Fin 8} {up : Bool} {s : State} (hs : awake s = true) (hd : s.ctl.netLost.getLsbD (p.val / 2) = false)
include hs hd

theorem execEthLinkChange_works (hclk : up = true → s.pwr.netClk.getLsbD (p.val / 2) = true) :
    exec (.ethLinkChange p up) s = .next (ethLink p up s) :=
  congrArg Host.Outcome.next (if_neg (by
    cases up with
    | false => simp [hs, hd]
    | true => simp [hs, hd, hclk rfl]))

end ethLinkChange

theorem ethLink_up (p : Fin 8) (s : State) : (ethLink p true s).jx.portUp.getLsbD p = true ∧
    ∀ x, x ≠ p.val → (ethLink p true s).jx.portUp.getLsbD x = s.jx.portUp.getLsbD x := by
  by_cases h : s.jx.portUp.getLsbD p = true
  · rw [ethLink_stays h]
    exact ⟨h, fun _ _ => rfl⟩
  · have h : s.jx.portUp.getLsbD p = false := by simpa using h
    rw [ethLink_rises h]
    refine ⟨?_, fun x hx => ?_⟩
    · rw [getLsbD_linkFlipped, if_pos rfl, h]
      rfl
    · rw [getLsbD_linkFlipped, if_neg hx]

theorem raise_jx (l : Leaf) (d : Detail) (s : State) : (raise l d s).jx = s.jx :=
  (raise_frame (m := [.catchment, .log]) l d (Frame.refl _ s) rfl).same .jx (by decide)

theorem ethLink_down (p : Fin 8) (s : State) : (ethLink p false s).jx.portUp.getLsbD p = false ∧
    (s.jx.portUp.getLsbD p = false → ethLink p false s = s) ∧
    (s.jx.portUp.getLsbD p = true → causeSet (linkDownLeaf p) (ethLink p false s)) := by
  by_cases h : s.jx.portUp.getLsbD p = true
  · rw [ethLink_falls h]
    refine ⟨?_, fun hf => absurd (h.symm.trans hf) (by decide), fun _ => raise_causeSet _ _ _⟩
    change (raise _ _ (linkFlipped p s)).jx.portUp.getLsbD p = false
    rw [raise_jx, getLsbD_linkFlipped, if_pos rfl, h]
    rfl
  · have h : s.jx.portUp.getLsbD p = false := by simpa using h
    rw [ethLink_stays h]
    exact ⟨h, fun _ => rfl, fun hf => absurd (h.symm.trans hf) (by decide)⟩

/-! ## The clocks of the network dies (R271, R272) -/

theorem ptpOf_setPtp_self {p : Ptp} (h : p ≠ {}) (d : Nat) (s : State) : ptpOf (setPtp d p s) d = p := tget_tset_self h _ _

theorem ptpOf_setPtp_sorted {s : State} (h : twf {} s.jx.ptp = true) (d : Nat) (p : Ptp) : ptpOf (setPtp d p s) d = p := by
  simp only [twf, Bool.and_eq_true] at h
  exact (tget_tset h.1 _ _ _ _).trans (if_pos rfl)

theorem ptpOf_congr {s t : State} (h : t.jx = s.jx) (d : Nat) : ptpOf t d = ptpOf s d := by
  unfold ptpOf
  rw [h]

theorem ptp_ne_default {p : Ptp} (h : p.st ≠ .unlocked) : p ≠ {} := fun heq => h (congrArg Ptp.st heq)

/-- The state of a clock that takes an offset: of one LOCKED, or in HOLDOVER at a Sync, what the offset says; of any other, as it was. -/
theorem ptpNext_stays {p : Ptp} {sync : Bool} (h : p.st = .unlocked ∨ (p.st = .holdover ∧ sync = false)) (offset : Int) :
    ptpNext p sync offset = p.st := by
  obtain h | ⟨h, rfl⟩ := h <;> simp [ptpNext, h]

theorem ptpNext_follows {p : Ptp} {sync : Bool} (h : p.st = .locked ∨ (p.st = .holdover ∧ sync = true)) (offset : Int) :
    ptpNext p sync offset = ptpAt offset := by
  obtain h | ⟨h, rfl⟩ := h <;> simp [ptpNext, h]

section ptpAt
variable {offset : Int}

theorem ptpAt_locked (h : offset.natAbs < 1000) : ptpAt offset = .locked := if_pos h

theorem ptpAt_holdover (hlo : 1000 ≤ offset.natAbs) (hhi : offset.natAbs ≤ 5000) : ptpAt offset = .holdover :=
  (if_neg (Nat.not_lt.2 hlo)).trans (if_neg (Nat.not_lt.2 hhi))

theorem ptpAt_unlocked (h : 5000 < offset.natAbs) : ptpAt offset = .unlocked :=
  (if_neg (by omega)).trans (if_pos h)

end ptpAt

section stepTime
variable {offset : Int} {s : State}

theorem stepTime_slews (h : s.jx.stepped = true ∨ s.jx.locked = true ∨ offset.natAbs ≤ 1000) :
    stepTime offset s = { s with bmk := { s.bmk with slew := -offset } } := if_pos (by simpa [or_assoc] using h)

theorem stepTime_steps (hstep : s.jx.stepped = false) (hlock : s.jx.locked = false) (h : 1000 < offset.natAbs) :
    stepTime offset s = { s with
      bmk := { s.bmk with time := ((s.bmk.time : Int) - offset).toNat % 2 ^ 64, slew := 0 }
      jx := { s.jx with stepped := true } } := if_neg (by simp [hstep, hlock, h])

end stepTime

section ptpMessage
variable {d : Fin 4} {domain : BitVec 8} {s : State}

theorem execPtpMessage_ignored (sync : Bool) (offset : Int) (h : netDieUp s d = false ∨ domain.toNat ≠ ptpDomain s) :
    exec (.ptpMessage d ⟨domain, sync⟩ offset) s = .next s :=
  congrArg Host.Outcome.next (if_pos (by obtain h | h := h <;> simp [h]))

/-- A clock that a message makes UNLOCKED is reported. -/
def ptpReported (d : Fin 4) (sync : Bool) (offset : Int) (s : State) : State :=
  if ptpNext (ptpOf s d) sync offset = .unlocked ∧ (ptpOf s d).st ≠ .unlocked then raise (leafPtpUnlocked d.val) [] s else s

theorem ptpReported_same (d : Fin 4) (sync : Bool) (offset : Int) (s : State) :
    (ptpReported d sync offset s).jx = s.jx ∧ (ptpReported d sync offset s).bmk = s.bmk := by
  unfold ptpReported
  split
  · exact ⟨raise_jx _ _ _, (raise_frame (m := [.catchment, .log]) _ _ (Frame.refl _ s) rfl).same .bmk (by decide)⟩
  · exact ⟨rfl, rfl⟩

/-- The servo has taken the offset of a message: fabric time follows it, and the die's clock keeps it. -/
def ptpServed (d : Fin 4) (sync : Bool) (offset : Int) (s : State) : State :=
  let u := stepTime offset (ptpReported d sync offset s)
  setPtp d { ptpOf s d with
    offset := offset
    lastSync := if sync then now u else (ptpOf s d).lastSync
    st := ptpNext (ptpOf s d) sync offset } u

theorem execPtpMessage_taken (sync : Bool) (offset : Int) (h : netDieUp s d = true) (hd : domain.toNat = ptpDomain s) :
    exec (.ptpMessage d ⟨domain, sync⟩ offset) s = .next (ptpServed d sync offset s) :=
  congrArg Host.Outcome.next (if_neg (by simp [h, hd]))

end ptpMessage

section ptpServed
variable {d : Fin 4} {sync : Bool} {offset : Int} {s : State}

theorem ptpServed_slews (h : s.jx.stepped = true ∨ s.jx.locked = true ∨ offset.natAbs ≤ 1000) :
    (ptpServed d sync offset s).bmk = { s.bmk with slew := -offset } := by
  obtain ⟨hjx, hbmk⟩ := ptpReported_same d sync offset s
  rw [← hjx] at h
  unfold ptpServed
  rw [stepTime_slews h, ← hbmk]
  rfl

theorem ptpServed_steps (hstep : s.jx.stepped = false) (hlock : s.jx.locked = false) (h : 1000 < offset.natAbs) :
    (ptpServed d sync offset s).bmk = { s.bmk with time := ((s.bmk.time : Int) - offset).toNat % 2 ^ 64, slew := 0 } ∧
    (ptpServed d sync offset s).jx.stepped = true := by
  obtain ⟨hjx, hbmk⟩ := ptpReported_same d sync offset s
  rw [← hjx] at hstep hlock
  unfold ptpServed
  rw [stepTime_steps hstep hlock h, ← hbmk]
  exact ⟨rfl, rfl⟩

theorem ptpOf_ptpServed (h : offset ≠ 0) : (ptpOf (ptpServed d sync offset s) d).offset = offset ∧
    (ptpOf (ptpServed d sync offset s) d).st = ptpNext (ptpOf s d) sync offset := by
  unfold ptpServed
  rw [ptpOf_setPtp_self fun heq => h (congrArg Ptp.offset heq)]
  exact ⟨rfl, rfl⟩

end ptpServed

section ptpLocked
variable {d : Fin 4} {s : State}

theorem execPtpLocked_idle (h : netDieUp s d = false ∨ 1000 ≤ (ptpOf s d).offset.natAbs) : exec (.ptpLocked d) s = .next s :=
  congrArg Host.Outcome.next (if_pos (by obtain h | h := h <;> simp [h]))

/-- A die's clock is LOCKED, and with it fabric time. -/
def ptpLockedOn (d : Fin 4) (s : State) : State :=
  let u := setPtp d { ptpOf s d with st := .locked, lastSync := now s } s
  { u with jx := { u.jx with locked := true } }

theorem ptpOf_ptpLockedOn (d : Fin 4) (s : State) : ptpOf (ptpLockedOn d s) d = { ptpOf s d with st := .locked, lastSync := now s } :=
  ptpOf_setPtp_self (p := { ptpOf s d with st := .locked, lastSync := now s }) (ptp_ne_default nofun) d s

/-- The first lock ends boot in phase 5 (18 Table 18.6). -/
def bootEnded (s : State) : State :=
  if s.cfg.phase = 5 then { s with cfg := { s.cfg with phase := 6 }, node := { s.node with st := .joining } } else s

theorem bootEnded_jx (s : State) : (bootEnded s).jx = s.jx := by
  unfold bootEnded
  split <;> rfl

theorem bootEnded_five (h : s.cfg.phase = 5) : (bootEnded s).cfg.phase = 6 ∧ (bootEnded s).node.st = .joining := by
  unfold bootEnded
  rw [if_pos h]
  exact ⟨rfl, rfl⟩

theorem bootEnded_other (h : s.cfg.phase ≠ 5) : bootEnded s = s := if_neg h

theorem execPtpLocked_locks (h : netDieUp s d = true) (ho : (ptpOf s d).offset.natAbs < 1000) :
    exec (.ptpLocked d) s = .next (bootEnded (ptpLockedOn d s)) := by
  refine congrArg Host.Outcome.next ((if_neg (by simp [h, ho])).trans ?_)
  change bootEnded (if s.jx.locked then _ else _) = _
  congr 1
  split
  case isTrue hl =>
    unfold ptpLockedOn setPtp
    simp only [← hl]
  case isFalse => rfl

end ptpLocked

section ptpHoldover
variable {d : Fin 4} {s : State}

theorem execPtpHoldover_due (h : netDieUp s d = true) (hst : (ptpOf s d).st = .locked) (ht : (ptpOf s d).lastSync + 1000000000 ≤ now s) :
    exec (.ptpHoldover d) s = .next (count (netCntOff d 21) (setPtp d { ptpOf s d with st := .holdover } s)) :=
  congrArg Host.Outcome.next (if_pos ⟨h, hst, ht⟩)

theorem execPtpHoldover_idle (h : netDieUp s d = false ∨ (ptpOf s d).st ≠ .locked ∨ now s < (ptpOf s d).lastSync + 1000000000) :
    exec (.ptpHoldover d) s = .next s :=
  congrArg Host.Outcome.next (if_neg fun ⟨hup, hst, ht⟩ => by
    obtain h | h | h := h
    · exact absurd (hup.symm.trans h) (by decide)
    · exact h hst
    · exact absurd ht (Nat.not_le.2 h))

end ptpHoldover

section ptpUnlock
variable {d : Fin 4} {e : Nat} {s : State}

theorem execPtpUnlock_unlocks (h : netDieUp s d = true) (hst : (ptpOf s d).st ≠ .unlocked) (he : 5000 < e) :
    exec (.ptpUnlock d e) s = .next (raise (leafPtpUnlocked d) [] (setPtp d { ptpOf s d with st := .unlocked } s)) :=
  congrArg Host.Outcome.next (if_pos ⟨h, hst, he⟩)

theorem execPtpUnlock_idle (h : netDieUp s d = false ∨ (ptpOf s d).st = .unlocked ∨ e ≤ 5000) : exec (.ptpUnlock d e) s = .next s :=
  congrArg Host.Outcome.next (if_neg fun ⟨hup, hst, he⟩ => by
    obtain h | h | h := h
    · exact absurd (hup.symm.trans h) (by decide)
    · exact hst h
    · exact absurd he (Nat.not_lt.2 h))

end ptpUnlock

/-- Settles O48: by what each command of a port and of a clock does where it applies, and where it does not. -/
theorem portsAndPtp : Obligations.PortsAndPtp := by
  unfold Obligations.PortsAndPtp
  refine ⟨fun p k s h => execNonJexusFrame_serving k h, fun p k s h => execNonJexusFrame_shut k h,
    fun p s hs hd hclk => ⟨_, execEthLinkChange_works hs hd fun _ => hclk, ethLink_up p s⟩,
    fun p s hs hd => ⟨_, execEthLinkChange_works hs hd nofun, ethLink_down p s⟩,
    fun d domain sync offset s h => execPtpMessage_ignored sync offset h,
    fun d domain sync offset s h hd => ⟨_, execPtpMessage_taken sync offset h hd, ptpServed_slews, ptpServed_steps, ptpOf_ptpServed⟩,
    fun p sync offset => ⟨fun h => ptpNext_stays h offset, fun h => ?_⟩, fun d s h ho => ⟨_, execPtpLocked_locks h ho, ?_⟩,
    fun d s h hst ht => ⟨_, execPtpHoldover_due h hst ht, ?_⟩, fun d s h => execPtpHoldover_idle h,
    fun d e s h hst he => ⟨_, execPtpUnlock_unlocks h hst he, fun hw => ?_, raise_causeSet _ _ _⟩, fun d e s h => execPtpUnlock_idle h,
    fun d s h => execPtpLocked_idle h⟩
  · rw [ptpNext_follows h]
    exact ⟨ptpAt_locked, ptpAt_holdover, ptpAt_unlocked⟩
  · rw [ptpOf_congr (bootEnded_jx _), ptpOf_ptpLockedOn, bootEnded_jx]
    refine ⟨rfl, rfl, rfl, bootEnded_five (s := ptpLockedOn d s), fun hp => ?_⟩
    rw [bootEnded_other (s := ptpLockedOn d s) hp]
    exact ⟨rfl, rfl⟩
  · exact congrArg Ptp.st (ptpOf_setPtp_self (p := { ptpOf s d with st := .holdover }) (ptp_ne_default nofun) d s)
  · rw [ptpOf_congr (raise_jx _ _ _), ptpOf_setPtp_sorted hw]

end Sys2Proof.Proofs

/-! PROOF. What a store leaves: bytes placed in a window, lines of a DMA run, and the NVM (11 R246; 13 R295; 18 R398; 20 R444). -/

namespace Sys2Proof.Proofs

open Sys2Proof.Machine Sys2Proof.Laws

/-! ## A byte that a run of writes leaves -/

/-- Memory `m'` is in canonical form, and its byte at `x` is that of `m`. -/
structure ByteKept (x : Nat) (m m' : Tbl Byte) : Prop where
  wf : Memory.wf m' = true
  same : tget 0 m' x = tget 0 m x

namespace ByteKept
variable {x : Nat} {m m' m'' : Tbl Byte}

theorem refl (h : Memory.wf m = true) : ByteKept x m m := ⟨h, rfl⟩

theorem trans (h : ByteKept x m m') (h' : ByteKept x m' m'') : ByteKept x m m'' := ⟨h'.wf, h'.same.trans h.same⟩

theorem memWrite (h : Memory.wf m = true) {a : Nat} {bs : Bytes} (hx : x < a ∨ a + bs.length ≤ x) : ByteKept x m (Machine.memWrite m a bs) :=
  ⟨memWf_memWrite h a bs, memWrite_outside h a x bs hx⟩

/-- Steps that each keep a byte of a memory keep it together. -/
theorem foldl {α β : Type} {f : α → β → α} (mem : α → Tbl Byte) {l : List β}
    (hf : ∀ s, ∀ e ∈ l, Memory.wf (mem s) = true → ByteKept x (mem s) (mem (f s e))) {s : α} (h : Memory.wf (mem s) = true) :
    ByteKept x (mem s) (mem (l.foldl f s)) := by
  induction l generalizing s with
  | nil => exact .refl h
  | cons e l ih =>
    have hstep := hf s e List.mem_cons_self h
    exact hstep.trans (ih (fun s e he => hf s e (List.mem_cons_of_mem _ he)) hstep.wf)

end ByteKept

/-! ## Bytes written for a tenant (11 R246; 17 R378) -/

theorem divUp_line (n : Nat) : divUp n 64 = (n + 63) / 64 := by
  unfold divUp
  split <;> omega

theorem alignUp_line (n : Nat) : alignUp 64 n = (n + 63) / 64 * 64 := by
  unfold alignUp
  rw [divUp_line]

theorem length_put (b v : Bytes) (off : Nat) : (put b off v).length = b.length := by
  simp only [put, List.length_append, List.length_take, List.length_drop]
  omega

theorem length_memRead (m : Tbl Byte) (a n : Nat) : (memRead m a n).length = n := by simp [memRead]

/-- Lines taken one by one as 64 bytes each fill the lines that hold the string. -/
theorem length_flatMap_lines (bs : Bytes) (f : Bytes × Nat → Bytes) :
    ((linesOf bs).zipIdx.flatMap fun e => padTo 64 (f e)).length = alignUp 64 bs.length := by
  simp [List.length_flatMap, padTo_length, linesOf, alignUp]

theorem length_storedOf_put_plainOf (s : State) (tenant lo : Nat) (stored : Bytes) (off : Nat) (bs : Bytes) (h : stored.length % 64 = 0) :
    (storedOf s tenant lo (put (plainOf s tenant lo stored) off bs)).length = stored.length := by
  unfold storedOf plainOf
  cases memKeys s tenant with
  | none => exact length_put _ _ _
  | some k =>
    simp only [length_flatMap_lines, length_put, alignUp_line]
    omega

/-- The bytes [.1, .2) that a write of `n` bytes at `a` stores: whole lines for a protected tenant. -/
def storeSpan (s : State) (tenant a n : Nat) : Nat × Nat :=
  match memKeys s tenant with
  | none => (a, a + n)
  | some _ => (a / 64 * 64, alignUp 64 (a + n))

theorem storeSpan_unprotected {s : State} {tenant : Nat} (h : memKeys s tenant = none) (a n : Nat) : storeSpan s tenant a n = (a, a + n) := by
  unfold storeSpan
  rw [h]

theorem storeSpan_protected {s : State} {tenant : Nat} {k : KeySlot} (h : memKeys s tenant = some k) (a n : Nat) :
    storeSpan s tenant a n = (a / 64 * 64, alignUp 64 (a + n)) := by
  unfold storeSpan
  rw [h]

theorem storeSpan_in_lines (s : State) (tenant a n : Nat) :
    a / 64 * 64 ≤ (storeSpan s tenant a n).1 ∧ (storeSpan s tenant a n).2 ≤ alignUp 64 (a + n) := by
  cases h : memKeys s tenant with
  | none =>
    rw [storeSpan_unprotected h]
    exact ⟨Nat.div_mul_le_self _ _, by rw [alignUp_line]; omega⟩
  | some k =>
    rw [storeSpan_protected h]
    exact ⟨le_rfl, le_rfl⟩

/-- A shorter write at the same place stores no byte that a longer one does not. -/
theorem storeSpan_mono (s : State) (tenant a : Nat) {k n : Nat} (h : k ≤ n) :
    (storeSpan s tenant a k).1 = (storeSpan s tenant a n).1 ∧ (storeSpan s tenant a k).2 ≤ (storeSpan s tenant a n).2 := by
  cases hk : memKeys s tenant with
  | none =>
    rw [storeSpan_unprotected hk, storeSpan_unprotected hk]
    exact ⟨rfl, by omega⟩
  | some slot =>
    rw [storeSpan_protected hk, storeSpan_protected hk]
    exact ⟨rfl, by simp only [alignUp_line]; omega⟩

/-- Byte `x` lies outside what a write of `n` bytes at `a` stores. -/
def offStore (s : State) (tenant x a n : Nat) : Prop := x < (storeSpan s tenant a n).1 ∨ (storeSpan s tenant a n).2 ≤ x

theorem writeFastFor_unprotected {s : State} {tenant : Nat} (h : memKeys s tenant = none) (a : Nat) (bs : Bytes) :
    writeFastFor tenant a bs s = writeFast a bs s := by
  unfold writeFastFor
  rw [h]

/-- A protected tenant's write stores the whole lines that its bytes fall in. -/
theorem writeFastFor_protected {s : State} {tenant : Nat} {k : KeySlot} (h : memKeys s tenant = some k) (a : Nat) (bs : Bytes) :
    ∃ stored, writeFastFor tenant a bs s = writeFast (a / 64 * 64) stored s ∧
      a / 64 * 64 + stored.length = alignUp 64 (a + bs.length) := by
  unfold writeFastFor
  rw [h]
  refine ⟨_, rfl, ?_⟩
  rw [length_storedOf_put_plainOf _ _ _ _ _ _ (by rw [length_memRead, alignUp_line]; omega), length_memRead, alignUp_line]
  omega

theorem writeFastFor_keepsByte {s : State} {tenant a x : Nat} {bs : Bytes} (h : Memory.wf s.mem.fast = true)
    (hx : offStore s tenant x a bs.length) : ByteKept x s.mem.fast (writeFastFor tenant a bs s).mem.fast := by
  unfold offStore at hx
  cases hk : memKeys s tenant with
  | none =>
    rw [storeSpan_unprotected hk] at hx
    rw [writeFastFor_unprotected hk]
    exact .memWrite h hx
  | some k =>
    obtain ⟨stored, hw, hlen⟩ := writeFastFor_protected hk a bs
    rw [storeSpan_protected hk] at hx
    rw [hw]
    exact .memWrite h (hx.imp_right fun hle => hlen.trans_le hle)

/-- The two states differ in the bytes of the fast tier alone. -/
def fastWritten (s t : State) : Prop := t = { s with mem := { s.mem with fast := t.mem.fast } }

theorem fastWritten.trans {s t u : State} (h : fastWritten s t) (h' : fastWritten t u) : fastWritten s u := by
  unfold fastWritten at h h' ⊢
  rw [h', h]

theorem writeFastFor_fastWritten (tenant a : Nat) (bs : Bytes) (s : State) : fastWritten s (writeFastFor tenant a bs s) := by
  cases hk : memKeys s tenant with
  | none =>
    rw [writeFastFor_unprotected hk]
    rfl
  | some k =>
    obtain ⟨stored, hw, -⟩ := writeFastFor_protected hk a bs
    rw [hw]
    rfl

theorem fastWritten.memKeys_eq {s t : State} (h : fastWritten s t) (tenant : Nat) : memKeys t tenant = memKeys s tenant := by
  rw [h]
  rfl

theorem fastWritten.offStore_iff {s t : State} (h : fastWritten s t) (tenant x a n : Nat) :
    offStore t tenant x a n ↔ offStore s tenant x a n := by
  unfold offStore storeSpan
  rw [h.memKeys_eq]

/-! ## Bytes placed in a window (11 R246; 12 R290) -/

/-- The next bytes of a placement, into one segment of the window's backing. -/
def placeSeg (tenant : Nat) (acc : State × Bytes) (e : Nat × Nat) : State × Bytes :=
  (writeFastFor tenant e.1 (acc.2.take e.2) acc.1, acc.2.drop e.2)

theorem winWrite_eq (id off : Nat) (bs : Bytes) (s : State) : winWrite id off bs s =
    ((winSegs (winOf s id) (bs.length / 65536 + 2) off bs.length).foldl (placeSeg (winOf s id).tenant) (s, bs)).1 := rfl

theorem placeSegs_fastWritten (tenant : Nat) (l : List (Nat × Nat)) (acc : State × Bytes) : fastWritten acc.1 (l.foldl (placeSeg tenant) acc).1 := by
  induction l generalizing acc with
  | nil => rfl
  | cons e l ih => exact (writeFastFor_fastWritten _ _ _ _).trans (ih (placeSeg tenant acc e))

theorem placeSegs_keepsByte {tenant x : Nat} {l : List (Nat × Nat)} {acc : State × Bytes} (h : Memory.wf acc.1.mem.fast = true)
    (hx : ∀ e ∈ l, offStore acc.1 tenant x e.1 e.2) : ByteKept x acc.1.mem.fast (l.foldl (placeSeg tenant) acc).1.mem.fast := by
  induction l generalizing acc with
  | nil => exact .refl h
  | cons e l ih =>
    obtain ⟨hlo, hhi⟩ := storeSpan_mono acc.1 tenant e.1 (List.length_take_le e.2 acc.2)
    have hstep : ByteKept x acc.1.mem.fast (placeSeg tenant acc e).1.mem.fast :=
      writeFastFor_keepsByte h ((hx e List.mem_cons_self).imp (fun hlt => hlt.trans_eq hlo.symm) fun hle => hhi.trans hle)
    exact hstep.trans (ih hstep.wf fun y hy =>
      ((writeFastFor_fastWritten _ _ _ _).offStore_iff _ _ _ _).2 (hx y (List.mem_cons_of_mem _ hy)))

/-- What bytes placed in a window leave. -/
theorem winWrite_keepsByte {id off x : Nat} {bs : Bytes} {s : State} (h : Memory.wf s.mem.fast = true)
    (hx : ∀ e ∈ winSegs (winOf s id) (bs.length / 65536 + 2) off bs.length, offStore s (winOf s id).tenant x e.1 e.2) :
    tget 0 (winWrite id off bs s).mem.fast x = tget 0 s.mem.fast x :=
  (placeSegs_keepsByte (acc := (s, bs)) h hx).same

/-! ## Lines of a DMA run (13 R295) -/

/-- The memory that a side of kind `k` lies in: the fast tier, the deep tier or the stack. -/
def sideMem (k : Nat) (m : Mems) : Tbl Byte :=
  match k with
  | 0 => m.fast
  | 1 => m.deep
  | _ => m.stack

/-- Every kind from 2 on is the stack. -/
theorem sideMem_min (k : Nat) (m : Mems) : sideMem (min k 2) m = sideMem k m := by
  match k with
  | 0 => rfl
  | 1 => rfl
  | n + 2 =>
    rw [Nat.min_eq_right (Nat.le_add_left 2 n)]
    rfl

section sideWrite
variable (kind a : Nat) (bs : Bytes) (s : State)

theorem sideWrite_nvm : (sideWrite kind a bs s).mem.nvm = s.mem.nvm := by
  unfold sideWrite
  split <;> rfl

theorem sideMem_sideWrite_self : sideMem kind (sideWrite kind a bs s).mem = memWrite (sideMem kind s.mem) a bs := by
  match kind with
  | 0 => rfl
  | 1 => rfl
  | _ + 2 => rfl

/-- A side's write leaves the memories of the other kinds. -/
theorem sideMem_sideWrite_of_ne {k : Nat} (h : min k 2 ≠ min kind 2) : sideMem k (sideWrite kind a bs s).mem = sideMem k s.mem := by
  match kind, k, h with
  | 0, 1, _ => rfl
  | 0, _ + 2, _ => rfl
  | 1, 0, _ => rfl
  | 1, _ + 2, _ => rfl
  | _ + 2, 0, _ => rfl
  | _ + 2, 1, _ => rfl
  | _ + 2, _ + 2, h => omega

end sideWrite

/-- One line's share of the stream bytes [o, o + n) written. -/
def streamLine (x : DmaSide) (o : Nat) (bs : Bytes) (s : State) (i : Nat) : State :=
  let k := o / x.len + i
  let lo := max o (k * x.len)
  let hi := min (o + bs.length) ((k + 1) * x.len)
  sideWrite x.kind (lineKey x k + (lo - k * x.len)) ((bs.drop (lo - o)).take (hi - lo)) s

theorem streamWrite_eq (x : DmaSide) (o : Nat) (bs : Bytes) (s : State) : streamWrite x o bs s =
    (List.range ((o + bs.length - 1) / x.len - o / x.len + 1)).foldl (streamLine x o bs) s := rfl

theorem streamWrite_nvm (x : DmaSide) (o : Nat) (bs : Bytes) (s : State) : (streamWrite x o bs s).mem.nvm = s.mem.nvm :=
  foldl_keeps (f := streamLine x o bs) (π := fun s => s.mem.nvm) (fun s _ => sideWrite_nvm _ _ _ s) _ s

theorem streamWrite_other {k : Nat} {x : DmaSide} (h : min k 2 ≠ min x.kind 2) (o : Nat) (bs : Bytes) (s : State) :
    sideMem k (streamWrite x o bs s).mem = sideMem k s.mem :=
  foldl_keeps (f := streamLine x o bs) (π := fun s => sideMem k s.mem) (fun s _ => sideMem_sideWrite_of_ne _ _ _ s h) _ s

/-- Byte `y` lies in no line of a side. -/
def offLines (d : DmaSide) (y : Nat) : Prop := ∀ k, y < lineKey d k ∨ lineKey d k + d.len ≤ y

/-- A line's share of the stream lies in the line. -/
theorem streamLine_keepsByte {x : DmaSide} {y : Nat} (hy : offLines x y) (o : Nat) (bs : Bytes) (i : Nat) {s : State}
    (h : Memory.wf (sideMem x.kind s.mem) = true) : ByteKept y (sideMem x.kind s.mem) (sideMem x.kind (streamLine x o bs s i).mem) := by
  unfold streamLine
  rw [sideMem_sideWrite_self]
  refine .memWrite h ?_
  have hline := hy (o / x.len + i)
  have hlen := List.length_take_le (min (o + bs.length) ((o / x.len + i + 1) * x.len) - max o ((o / x.len + i) * x.len))
    (bs.drop (max o ((o / x.len + i) * x.len) - o))
  rw [Nat.succ_mul] at hlen ⊢
  omega

theorem streamWrite_keepsByte {x : DmaSide} {y : Nat} (hy : offLines x y) (o : Nat) (bs : Bytes) {s : State}
    (h : Memory.wf (sideMem x.kind s.mem) = true) : tget 0 (sideMem x.kind (streamWrite x o bs s).mem) y = tget 0 (sideMem x.kind s.mem) y :=
  (ByteKept.foldl (fun s : State => sideMem x.kind s.mem) (fun _ i _ hw => streamLine_keepsByte hy o bs i hw) h).same

theorem memWf_sideMem {s : State} (h : memOk s = true) (k : Nat) : Memory.wf (sideMem k s.mem) = true := by
  simp only [memOk, Bool.and_eq_true] at h
  obtain ⟨⟨⟨hfast, hdeep⟩, hstack⟩, -⟩ := h
  unfold sideMem
  split <;> assumption

section dmaMove
variable {c n : Nat} {r : DmaRun} {s : State} (h : (dmaOf s c).run = some r)
include h

/-- A run's move leaves the memories, or writes stream bytes into its destination. -/
theorem dmaMove_mem : (dmaMove c n s).mem = s.mem ∨ ∃ o bs, (dmaMove c n s).mem = (streamWrite (dstSide r.desc) o bs s).mem := by
  unfold dmaMove
  simp only [h]
  split
  · exact .inl rfl
  · exact .inr ⟨_, _, rfl⟩

theorem dmaMove_nvm : (dmaMove c n s).mem.nvm = s.mem.nvm := by
  obtain hm | ⟨o, bs, hm⟩ := dmaMove_mem (n := n) h <;> rw [hm]
  exact streamWrite_nvm _ _ _ _

/-- In each memory a run's move leaves every byte but those of its destination lines there. -/
theorem dmaMove_outside (hok : memOk s = true) {k x : Nat} (hx : min k 2 ≠ min (dstSide r.desc).kind 2 ∨ offLines (dstSide r.desc) x) :
    tget 0 (sideMem k (dmaMove c n s).mem) x = tget 0 (sideMem k s.mem) x := by
  obtain hm | ⟨o, bs, hm⟩ := dmaMove_mem (n := n) h <;> rw [hm]
  by_cases hk : min k 2 = min (dstSide r.desc).kind 2
  · have hside (m : Mems) : sideMem k m = sideMem (dstSide r.desc).kind m := by rw [← sideMem_min k, hk, sideMem_min]
    rw [hside, hside]
    exact streamWrite_keepsByte (hx.resolve_left (not_not.2 hk)) o bs (memWf_sideMem hok _)
  · rw [streamWrite_other hk]

end dmaMove

/-! ## NVM_WRITE (18 R398; 20 R444) -/

theorem nvmProgram_keepsByte {o x : Nat} {bs : Bytes} {s : State} (h : Memory.wf s.mem.nvm = true) (hx : x < o ∨ o + bs.length ≤ x) :
    ByteKept x s.mem.nvm (nvmProgram o bs s).mem.nvm := .memWrite h hx

theorem nvmErase_keepsByte {a x : Nat} {s : State} (h : Memory.wf s.mem.nvm = true) (hx : x < a ∨ a + 65536 ≤ x) :
    ByteKept x s.mem.nvm (nvmErase a s).mem.nvm := nvmProgram_keepsByte h (by rwa [List.length_replicate])

theorem nvmErases_keepsByte {l : List Nat} {x : Nat} {s : State} (h : Memory.wf s.mem.nvm = true) (hx : ∀ a ∈ l, x < a ∨ a + 65536 ≤ x) :
    ByteKept x s.mem.nvm (l.foldl (fun s a => nvmErase a s) s).mem.nvm :=
  .foldl (fun s : State => s.mem.nvm) (fun _ a ha hw => nvmErase_keepsByte hw (hx a ha)) h

/-- NVM_WRITE forms an answer and leaves the NVM, or erases the sectors that its bytes start and programs its bytes. -/
theorem execNvmWrite_nvm {c : Latched} {s t : State} (hc : fwCmd s 2 = some c) (ht : exec .nvmWrite s = .next t) :
    t.mem.nvm = s.mem.nvm ∨ t.mem.nvm = (nvmProgram (rd c.req 0 4) (c.req.drop 64)
      ((sectorsFrom (rd c.req 0 4) (rd c.req 4 4)).foldl (fun s a => nvmErase a s) s)).mem.nvm := by
  change execNvmWrite s = _ at ht
  unfold execNvmWrite at ht
  obtain rfl := Host.Outcome.next.inj ht
  cases hg : fwGate s 2 c.req with
  | some st =>
    rw [fwRun_refused hc hg]
    exact .inl rfl
  | none =>
    rw [fwRun_passed hc hg]
    simp only
    split
    · exact .inl rfl
    · exact .inr rfl

/-- Settles O60: a write changes its own bytes alone, so a window's segments, a run's lines and the NVM's sectors bound what their writes reach. -/
theorem storesReachOnlyTheirBytes : Obligations.StoresReachOnlyTheirBytes := by
  unfold Obligations.StoresReachOnlyTheirBytes
  refine ⟨fun id off bs s hw => ⟨placeSegs_fastWritten _ _ (s, bs), fun x hx => winWrite_keepsByte hw fun e he => ?_,
      fun hk x hx => winWrite_keepsByte hw fun e he => ?_⟩,
    fun c n r s hok hr => ⟨dmaMove_nvm hr, fun x hx => dmaMove_outside hr hok (k := 0) (hx.imp_left ?_),
      fun x hx => dmaMove_outside hr hok (k := 1) (hx.imp_left ?_), fun x hx => dmaMove_outside hr hok (k := 2) ?_⟩,
    fun c s t hw hc ht x hx hsec => ?_⟩
  · obtain ⟨hlo, hhi⟩ := storeSpan_in_lines s (winOf s id).tenant e.1 e.2
    exact (hx e he).imp (fun hlt => hlt.trans_le hlo) fun hle => hhi.trans hle
  · unfold offStore
    rw [storeSpan_unprotected hk]
    exact hx e he
  · omega
  · omega
  · obtain hx | hx | hx := hx
    · exact .inl (by omega)
    · exact .inl (by omega)
    · exact .inr hx
  · obtain hm | hm := execNvmWrite_nvm hc ht <;> rw [hm]
    have herased := nvmErases_keepsByte hw hsec
    exact (herased.trans (nvmProgram_keepsByte herased.wf (by rwa [List.length_drop]))).same

end Sys2Proof.Proofs

/-! PROOF. What the sluice's commands answer, and when an entry becomes FREE (12 R282, R287, R288, Table 12.8). -/

namespace Sys2Proof.Proofs

open Sys2Proof.Machine Sys2Proof.Laws

theorem entryOf_setEntryRec_sorted {s : State} (h : twf {} s.slu.entry = true) (x : Nat) (e : Entry) : entryOf (setEntryRec x e s) x = e := by
  simp only [twf, Bool.and_eq_true] at h
  exact (tget_tset h.1 _ _ _ _).trans (if_pos rfl)

/-! ## A command that is not the entry's first delivered one -/

theorem execSluicePost_idle {x : Fin 32768} {s : State} (h : nextCmd s x 1 = none) : exec (.sluicePost x) s = .next s := by
  change execSluicePost x s = _
  simp only [execSluicePost, h]

theorem execSluiceCancel_idle {x : Fin 32768} {s : State} (h : nextCmd s x 2 = none) : exec (.sluiceCancel x) s = .next s := by
  change execSluiceCancel x s = _
  simp only [execSluiceCancel, h]

theorem execSluiceRearm_idle {x : Fin 32768} {s : State} (h : nextCmd s x 3 = none) : exec (.sluiceRearm x) s = .next s := by
  change execSluiceRearm x s = _
  simp only [execSluiceRearm, h]

/-! ## POST (12 R282) -/

/-- Malformed bytes fail the first of the five checks. -/
theorem postCheck_stagedBad {t : Nat} {b : Bytes} {s : State} (h : stagedBad (maskOfTenant s t) b = true) :
    postCheck s t b = some stMalformed := by
  unfold postCheck
  exact if_pos h

section postDo
variable {x t : Nat} {b : Bytes} {msg : Option EnMsg} {s : State}

theorem postDo_fails {st : Nat} (h : postCheck s t b = some st) (hst : st ≠ stStateConflict) :
    postDo x t b msg s = ({ status := st }, s) := by
  unfold postDo
  simp only [h, if_neg hst]

variable (h : postCheck s t b = none)
include h

theorem postDo_arms (hfree : (entryOf s x).st = .free) : postDo x t b msg s = ({ status := stOk }, setEntryRec x
    { entryOf s x with st := .armed, bytes := withOwner s t b, limited := eUses b != 0, left := eUses b, seqno := 0, last := none } s) := by
  unfold postDo
  simp only [h, hfree]

theorem postDo_repeats (harmed : (entryOf s x).st = .armed) (hsame : put b 32 [0, 0, 0] = put (entryOf s x).bytes 32 [0, 0, 0]) :
    postDo x t b msg s = ({ status := stOk, rep := true }, s) := by
  unfold postDo
  simp only [h, harmed, if_pos hsame]

/-- An entry that drains, or is armed with other bytes, refuses a POST by its state. -/
theorem postDo_conflicts
    (hst : (entryOf s x).st = .draining ∨ ((entryOf s x).st = .armed ∧ put b 32 [0, 0, 0] ≠ put (entryOf s x).bytes 32 [0, 0, 0])) :
    postDo x t b msg s = sluConflict x t 1 msg s := by
  unfold postDo
  obtain hdraining | ⟨harmed, hother⟩ := hst
  · simp only [h, hdraining]
  · simp only [h, harmed, if_neg hother]

end postDo

section post
variable {x : Fin 32768} {c : SluCmd} {s u : State} {a : SluAns} (hc : nextCmd s x 1 = some c)
  (ha : postDo x (rangeTenant s x) (stagedBytes s x) (some c.msg) (dropCmd c s) = (a, u))
include hc ha

/-- A POST is answered by a record; the entry's one instance then starts if the POST armed it ON_POST. -/
theorem execSluicePost_answers : exec (.sluicePost x) s =
    .next (onPost x ((entryOf s x).st == .free && a.status == stOk) (sluRecord x (rangeTenant s x) a c.msg.id u)) := by
  change execSluicePost x s = _
  simp only [execSluicePost, hc, ha]

/-- A POST that does not arm its entry does nothing after its record. -/
theorem execSluicePost_unposted (h : (entryOf s x).st ≠ .free ∨ a.status ≠ stOk) :
    exec (.sluicePost x) s = .next (sluRecord x (rangeTenant s x) a c.msg.id u) := by
  have hoff : ((entryOf s x).st == .free && a.status == stOk) = false := by
    obtain h | h := h <;> simp [h]
  rw [execSluicePost_answers hc ha, hoff]
  rfl

theorem execSluicePost_posted (hfree : (entryOf s x).st = .free) (hok : a.status = stOk) :
    exec (.sluicePost x) s = .next (onPost x true (sluRecord x (rangeTenant s x) a c.msg.id u)) := by
  rw [execSluicePost_answers hc ha, hfree, hok]
  rfl

end post

/-! ## CANCEL (Table 12.8) -/

section cancelDo
variable {x : Nat} {s : State}

theorem cancelDo_free (h : (entryOf s x).st = .free) : cancelDo x s = ({ status := stOk }, s) := by
  simp only [cancelDo, h]

theorem cancelDo_draining (h : (entryOf s x).st = .draining) : cancelDo x s = ({ status := stOk, wait := true }, s) := by
  simp only [cancelDo, h]

theorem drainEntry_armed (h : (entryOf s x).st = .armed) : drainEntry x s = setEntryRec x { entryOf s x with st := .draining } s := if_pos h

/-- CANCEL drains an armed entry and closes its open steps; its record waits. -/
theorem cancelDo_armed (h : (entryOf s x).st = .armed) : cancelDo x s = ({ status := stOk, wait := true },
    closeStep x 1 stRetry (closeStep x 0 stRetry (setEntryRec x { entryOf s x with st := .draining } s))) := by
  simp only [cancelDo, h, cancelEntry, drainEntry_armed h]

end cancelDo

theorem execSluiceCancel_answers {x : Fin 32768} {c : SluCmd} {s u : State} {a : SluAns} (hc : nextCmd s x 2 = some c)
    (ha : cancelDo x (dropCmd c s) = (a, u)) : exec (.sluiceCancel x) s = .next (sluRecord x (rangeTenant u x) a c.msg.id u) := by
  change execSluiceCancel x s = _
  simp only [execSluiceCancel, hc, ha]

/-! ## REARM (Table 12.8) -/

section rearmDo
variable {x t n : Nat} {msg : Option EnMsg} {s : State}

/-- REARM adds uses, up to 65,535, to an armed entry that has a limit. -/
theorem rearmDo_armed (h : (entryOf s x).st = .armed) : rearmDo x t n msg s = ({ status := stOk },
    if (entryOf s x).limited then setEntryRec x { entryOf s x with left := min 65535 ((entryOf s x).left + n) } s else s) := by
  simp only [rearmDo, h]

theorem rearmDo_conflicts (h : (entryOf s x).st ≠ .armed) : rearmDo x t n msg s = sluConflict x t 3 msg s := by
  cases hst : (entryOf s x).st with
  | armed => exact absurd hst h
  | free => simp only [rearmDo, hst]
  | draining => simp only [rearmDo, hst]

end rearmDo

theorem execSluiceRearm_answers {x : Fin 32768} {c : SluCmd} {s u : State} {a : SluAns} (hc : nextCmd s x 3 = some c)
    (ha : rearmDo x (rangeTenant s x) c.count (some c.msg) (dropCmd c s) = (a, u)) :
    exec (.sluiceRearm x) s = .next (sluRecord x (rangeTenant u x) a c.msg.id u) := by
  change execSluiceRearm x s = _
  simp only [execSluiceRearm, hc, ha]

/-! ## SLUICE_ENTRY_FREE (12 R288) -/

/-- An entry once FREE: the bytes it was posted with and its counts alone (log 53). -/
def freedEntry (e : Entry) : Entry :=
  { bytes := e.bytes, cMalformed := e.cMalformed, cGen := e.cGen, cDup := e.cDup, cTimeout := e.cTimeout, cStale := e.cStale }

/-- The records of the CANCELs that wait for entry `x`, which is `e`. -/
def cancelRecords (x : Nat) (e : Entry) (s : State) : State :=
  e.cancelMsgs.foldl (fun s m => postedRec x stOk 0 0 true false false 0 m 0 (eClass e.bytes) s) s

theorem cancelRecords_none {x : Nat} {e : Entry} {s : State} (h : e.cancelMsgs = []) : cancelRecords x e s = s := by
  rw [cancelRecords, h, List.foldl_nil]

section entryFree
variable {x : Fin 32768} {s : State}

theorem execSluiceEntryFree_held (h : (entryOf s x).st ≠ .draining ∨ instancesOf s x ≠ 0 ∨ (entryOf s x).steps.isEmpty = false) :
    exec (.sluiceEntryFree x) s = .next s :=
  congrArg Host.Outcome.next (if_pos h)

theorem execSluiceEntryFree_frees (hst : (entryOf s x).st = .draining) (hinst : instancesOf s x = 0) (hsteps : (entryOf s x).steps = []) :
    exec (.sluiceEntryFree x) s = .next (setEntryRec x (freedEntry (entryOf s x)) (cancelRecords x (entryOf s x) s)) :=
  congrArg Host.Outcome.next (if_neg (by simp [hst, hinst, hsteps]))

end entryFree

/-- Settles O50: by what each command answers in each state of its entry, and by what an entry keeps when it becomes FREE. -/
theorem sluiceCommandsAreAnswered : Obligations.SluiceCommandsAreAnswered := by
  unfold Obligations.SluiceCommandsAreAnswered
  refine ⟨?idle, ?post, ?cancel, ?rearm, fun x s => execSluiceEntryFree_held, ?free⟩
  case idle =>
    intro c code x s hmem hnone
    simp only [List.mem_cons, Prod.mk.injEq, List.not_mem_nil, or_false] at hmem
    obtain ⟨rfl, rfl⟩ | ⟨rfl, rfl⟩ | ⟨rfl, rfl⟩ := hmem
    · exact execSluicePost_idle hnone
    · exact execSluiceCancel_idle hnone
    · exact execSluiceRearm_idle hnone
  case post =>
    intro x c s hc
    exact ⟨fun st hcheck hconflict hok => execSluicePost_unposted hc (postDo_fails hcheck hconflict) (.inr hok), postCheck_stagedBad,
      fun hcheck hfree => execSluicePost_posted hc (postDo_arms hcheck hfree) hfree rfl,
      fun hcheck harmed hsame => execSluicePost_unposted hc (postDo_repeats hcheck harmed hsame) (.inl (ne_of_eq_of_ne harmed nofun)),
      fun hcheck hst => execSluicePost_unposted hc (postDo_conflicts hcheck hst) (.inr (by decide))⟩
  case cancel =>
    intro x c s hc
    exact ⟨fun h => execSluiceCancel_answers hc (cancelDo_free h), fun h => execSluiceCancel_answers hc (cancelDo_draining h),
      fun h => execSluiceCancel_answers hc (cancelDo_armed h)⟩
  case rearm =>
    intro x c s hc
    exact ⟨fun h => execSluiceRearm_answers hc (rearmDo_armed h), fun h => execSluiceRearm_answers hc (rearmDo_conflicts h)⟩
  case free =>
    intro x s hst hinst hsteps
    refine ⟨_, execSluiceEntryFree_frees hst hinst hsteps, fun hwf hnone => ?_⟩
    rw [cancelRecords_none hnone, entryOf_setEntryRec_sorted hwf]
    exact ⟨rfl, rfl, rfl, rfl⟩

end Sys2Proof.Proofs

/-! PROOF. What a node answers to the messages of agreement: promises and accepts, commits, step markers and submitted changes (15 R333-R339,
Table 15.5). -/

namespace Sys2Proof.Proofs

open Sys2Proof.Machine Sys2Proof.Laws

/-! ## Before a ballot is looked at (Table 15.5, R337) -/

section agreeGate
variable {x : Comp} {base : Nat} {vote : Bool}

theorem agreeGate_behind (h : behind x = true) : agreeGate x base vote = (some stRetry, false) := if_pos h

variable (hb : behind x = false)
include hb

theorem agreeGate_absent (h : x.map = none) : agreeGate x base vote = (some stNoPage, false) :=
  (if_neg (by simp [hb])).trans (if_pos (by simp [h]))

/-- At a node that holds the map, the epochs and the right to vote decide. -/
theorem agreeGate_held {m : DMap} (h : x.map = some m) : agreeGate x base vote =
    if m.epoch < base then (some stRetry, true)
    else if vote && !x.voting then (some stRetry, false)
    else if base < m.epoch then (some stEpochStale, false) else (none, false) := by
  unfold agreeGate epochOf
  simp [hb, h]

end agreeGate

/-! ## PREPARE and ACCEPT (R335) -/

section voter
variable {c ballot : Nat} {change : Bytes} {s : State}

theorem voterPrepare_below (h : ballot < (compOf s c).promise) :
    voterPrepare c ballot s = ((stStateConflict, (compOf s c).promise, 0, []), s) := if_pos h

theorem voterPrepare_promises (h : (compOf s c).promise ≤ ballot) : voterPrepare c ballot s =
    ((stOk, ballot, (compOf s c).acc.getD (0, [])), setComp c { compOf s c with promise := ballot } s) := if_neg (by omega)

theorem voterAccept_below (h : ballot < (compOf s c).promise) :
    voterAccept c ballot change s = ((stStateConflict, (compOf s c).promise), s) := if_pos h

theorem voterAccept_accepts (h : (compOf s c).promise ≤ ballot) : voterAccept c ballot change s =
    ((stOk, ballot), setComp c { compOf s c with promise := ballot, acc := some (ballot, change) } s) := if_neg (by omega)

end voter

section prepare
variable {f : RxFrame} {a : Admitted} {s u v : State} (h : takeControl f [0x25] s = (some a, u))
include h

theorem execDatumPrepare_refused {st : Nat} (hm : agreeMeets f a.payload true u = (some st, v)) :
    exec (.datumPrepare f) s = .next (answerDatum f a.die (gComp a.payload) st false 0 [] v) := by
  change execDatumPrepare f s = _
  unfold execDatumPrepare
  simp only [h, hm]

variable (hm : agreeMeets f a.payload true u = (none, v))
include hm

theorem execDatumPrepare_answers {st promised acc : Nat} {change : Bytes} {w : State}
    (hv : voterPrepare (gComp a.payload) (gBallot a.payload) v = ((st, promised, acc, change), w)) :
    exec (.datumPrepare f) s = .next (answerDatum f a.die (gComp a.payload) st false acc change w) := by
  change execDatumPrepare f s = _
  unfold execDatumPrepare
  simp only [h, hm, hv]

end prepare

section accept
variable {f : RxFrame} {a : Admitted} {s u v : State} (h : takeControl f [0x26] s = (some a, u))
include h

theorem execDatumAccept_refused {st : Nat} (hm : agreeMeets f a.payload true u = (some st, v)) :
    exec (.datumAccept f) s = .next (answerDatum f a.die (gComp a.payload) st false 0 [] v) := by
  change execDatumAccept f s = _
  unfold execDatumAccept
  simp only [h, hm]

variable (hm : agreeMeets f a.payload true u = (none, v))
include hm

theorem execDatumAccept_invalid (hc : changeResult (compOf v (gComp a.payload)).map (gChange a.payload) = none) :
    exec (.datumAccept f) s = .next (answerDatum f a.die (gComp a.payload) stMalformed false 0 [] v) := by
  change execDatumAccept f s = _
  unfold execDatumAccept
  simp only [h, hm, hc, Option.isNone_none, if_true]

theorem execDatumAccept_answers (hc : changeResult (compOf v (gComp a.payload)).map (gChange a.payload) ≠ none) {st promised : Nat} {w : State}
    (hv : voterAccept (gComp a.payload) (gBallot a.payload) (gChange a.payload) v = ((st, promised), w)) :
    exec (.datumAccept f) s = .next (answerDatum f a.die (gComp a.payload) st false 0 [] w) := by
  change execDatumAccept f s = _
  unfold execDatumAccept
  simp only [h, hm]
  rw [if_neg (by simpa using hc)]
  simp only [hv]

end accept

/-! ## The answer (R339) -/

/-- A refusal that is logged leaves the compositions. -/
theorem refuseDatum_datum (c op : Nat) (m : Option EnMsg) (s : State) : (refuseDatum c op m s).datum = s.datum :=
  (refuseDatum_frame (m := [.catchment, .log, .cnt]) c op m (Frame.refl _ s) rfl).same .datum (by decide)

section answer
variable {f : RxFrame} {die c st acc : Nat} {rep : Bool} {more : Bytes} {s : State}

theorem answerDatum_ok (h : st = stOk) : answerDatum f die c st rep acc more s = respond f die (epochOf (compOf s c))
    (respBody st rep (compOf s c).window (epochOf (compOf s c)) (compOf s c).promise acc ++ more) s := by
  unfold answerDatum
  simp only [if_pos h]

/-- Every answer, a refusal's too, says what the composition held before it. -/
theorem answerDatum_says : ∃ v, v.datum = s.datum ∧ answerDatum f die c st rep acc more s = respond f die (epochOf (compOf s c))
    (respBody st rep (compOf s c).window (epochOf (compOf s c)) (compOf s c).promise acc ++ more) v := by
  by_cases h : st = stOk
  · exact ⟨s, rfl, answerDatum_ok h⟩
  · have hd := refuseDatum_datum c f.hdr.opcode.toNat (some (frameMsg f)) s
    refine ⟨_, hd, ?_⟩
    have hx : compOf (refuseDatum c f.hdr.opcode.toNat (some (frameMsg f)) s) c = compOf s c := by
      unfold compOf
      rw [hd]
    unfold answerDatum
    simp only [if_neg h, hx]

end answer

/-! ## A committed change at a node that holds a map (R336) -/

section commitHeld
variable {f : RxFrame} {c base : Nat} {change : Bytes} {m : DMap} {s : State} (hm : (compOf s c).map = some m)
include hm

theorem commitHeld_repeats (he : base + 1 = m.epoch) (hl : (compOf s c).lastChange = change) (hn : change ≠ []) :
    commitHeld f c base change s = (stOk, true, s) := by
  unfold commitHeld epochOf
  simp only [hm, Option.map_some, Option.getD_some]
  exact if_pos ⟨he, hl, hn⟩

theorem commitHeld_stale (he : base < m.epoch) (hr : base + 1 ≠ m.epoch ∨ (compOf s c).lastChange ≠ change) :
    commitHeld f c base change s = (stEpochStale, false, s) := by
  unfold commitHeld epochOf
  simp only [hm, Option.map_some, Option.getD_some]
  rw [if_neg fun ⟨h, hl, _⟩ => hr.elim (· h) (· hl), if_pos he]

theorem commitHeld_fetches (he : m.epoch < base) : commitHeld f c base change s = (stRetry, false, fetchFrom f c s) := by
  unfold commitHeld epochOf
  simp only [hm, Option.map_some, Option.getD_some]
  rw [if_neg fun ⟨h, _⟩ => by omega, if_neg (by omega), if_pos he]

variable (he : base = m.epoch)
include he

theorem commitHeld_invalid (hc : changeResult (some m) change = none) : commitHeld f c base change s = (stMalformed, false, s) := by
  unfold commitHeld epochOf
  simp only [hm, Option.map_some, Option.getD_some]
  rw [if_neg fun ⟨h, _⟩ => by omega, if_neg (by omega), if_neg (by omega), if_pos (by simp [hc])]

theorem commitHeld_applies (hc : changeResult (some m) change ≠ none) {ok : Bool} {v : State} (ha : applyChange c change s = (ok, v)) :
    commitHeld f c base change s = (if ok then stOk else stStateConflict, false, overtaken c change v) := by
  unfold commitHeld epochOf
  simp only [hm, Option.map_some, Option.getD_some]
  rw [if_neg fun ⟨h, _⟩ => by omega, if_neg (by omega), if_neg (by omega), if_neg (by simpa using hc)]
  simp only [ha]

end commitHeld

/-! ## COMMIT (Table 15.5) -/

/-- An invalid CREATE of epoch 0 that names the node is no change that a composition it does not hold could take (R333). -/
theorem commitAbsent_invalid {f : RxFrame} {c base : Nat} {change : Bytes} {s : State} (hb : base = 0) (hcreate : isCreate change = true)
    (hnames : namesMember s change = true) (hc : changeResult none change = none) : commitAbsent f c base change s = (stMalformed, s) := by
  unfold commitAbsent
  simp only [hc]
  exact if_pos ⟨hb, hcreate, hnames⟩

section commit
variable {f : RxFrame} {a : Admitted} {s u : State} (h : takeControl f [0x27] s = (some a, u))
include h

theorem execDatumCommit_bad (hbad : agreeBad a.payload = true) :
    exec (.datumCommit f) s = .next (answerDatum f a.die (gComp a.payload) stMalformed false 0 [] u) := by
  change execDatumCommit f s = _
  unfold execDatumCommit
  simp only [h, if_pos hbad]

variable (hbad : agreeBad a.payload = false)
include hbad

theorem execDatumCommit_behind (hb : behind (compOf u (gComp a.payload)) = true) :
    exec (.datumCommit f) s = .next (answerDatum f a.die (gComp a.payload) stRetry false 0 [] u) := by
  change execDatumCommit f s = _
  unfold execDatumCommit
  simp only [h, hbad, Bool.false_eq_true, if_false, if_pos hb]

variable (hb : behind (compOf u (gComp a.payload)) = false)
include hb

theorem execDatumCommit_absent (hm : (compOf u (gComp a.payload)).map = none) : exec (.datumCommit f) s = .next (
    answerDatum f a.die (gComp a.payload) (commitAbsent f (gComp a.payload) (gBase a.payload) (gChange a.payload) u).1 false 0 []
      (commitAbsent f (gComp a.payload) (gBase a.payload) (gChange a.payload) u).2) := by
  change execDatumCommit f s = _
  unfold execDatumCommit
  simp only [h, hbad, hb, hm, Bool.false_eq_true, if_false, Option.isNone_none, if_true]

variable {m : DMap} (hm : (compOf u (gComp a.payload)).map = some m)
include hm

theorem execDatumCommit_stranger (hn : fromNodeMember (compOf u (gComp a.payload)) f.hdr.src.toNat = false) :
    exec (.datumCommit f) s = .next (answerDatum f a.die (gComp a.payload) stAccess false 0 [] u) := by
  change execDatumCommit f s = _
  unfold execDatumCommit
  simp only [h, hbad, hb, hm, hn, Bool.false_eq_true, if_false, Option.isNone_some, Bool.not_false, if_true]

theorem execDatumCommit_held (hn : fromNodeMember (compOf u (gComp a.payload)) f.hdr.src.toNat = true) {st : Nat} {rep : Bool} {v : State}
    (hc : commitHeld f (gComp a.payload) (gBase a.payload) (gChange a.payload) u = (st, rep, v)) :
    exec (.datumCommit f) s = .next (answerDatum f a.die (gComp a.payload) st rep 0 [] v) := by
  change execDatumCommit f s = _
  unfold execDatumCommit
  simp only [h, hbad, hb, hm, hn, Bool.false_eq_true, if_false, Option.isNone_some, Bool.not_true, hc]

end commit

/-! ## Applying a change (R331, R336, R337) -/

section applyChange
variable {c : Nat} {change : Bytes} {m : DMap} {s : State} (hc : changeResult (compOf s c).map change = some (some m))
include hc

theorem applyChange_leaves (hn : memberOfNode m (myNode s) = none) : applyChange c change s = (true, leaveComp c s) := by
  unfold applyChange
  simp only [hc, hn, Option.isNone_none, if_true]

variable (hn : (memberOfNode m (myNode s)).isSome = true)
include hn

theorem applyChange_full (hs : canStore c m s = false) :
    applyChange c change s = (false, leaveComp c (raise leafDatumStoreFull [] s)) := by
  unfold applyChange
  simp only [hc]
  rw [if_neg (by simp [Option.isSome_iff_ne_none.1 hn]), if_pos (by simp [hs])]

/-- The composition once a change has made map `m` of it: its window is open, and nothing is promised for the new epoch. -/
def appliedComp (x : Comp) (change : Bytes) (m : DMap) (s : State) : Comp :=
  { x with map := some m, window := true, prev := x.map, fetch := none, promise := 0, acc := none, lastChange := change
           voting := x.voting || changeNamesMe change m s }

theorem applyChange_stores (hs : canStore c m s = true) : applyChange c change s = (true, sweepMoved (installMap c (compOf s c).map (some m)
    (setComp c (appliedComp (compOf s c) change m s) (if (compOf s c).window then closeWindow c s else s)))) := by
  unfold applyChange
  simp only [hc]
  rw [if_neg (by simp [Option.isSome_iff_ne_none.1 hn]), if_neg (by simp [hs])]
  rfl

end applyChange

/-! ## Step markers (R338) -/

/-- What an accepted marker does to the composition itself: its step is kept, and a marker of the map's own epoch closes the window. -/
def markedStep (c step : Nat) (closes : Bool) (s : State) : State :=
  let u := setComp c { compOf s c with lastStep := step } s
  if closes then closeWindow c u else u

theorem markerAccepted_held {c step : Nat} {closes : Bool} {m : DMap} {s : State}
    (hm : (compOf (markedStep c step closes s) c).map = some m) : markerAccepted c step closes s =
      drainMarker c m (admitMarker c m (reloadMarker c (sweepMoved (markedStep c step closes s)))) := by
  unfold markedStep at *
  unfold markerAccepted
  simp only [hm]

section marker
variable {f : RxFrame} {a : Admitted} {m : DMap} {s u : State} (h : takeControl f [0x21] s = (some a, u))
  (hm : (compOf u (rd a.payload 0 4)).map = some m) (hb : behind (compOf u (rd a.payload 0 4)) = false)
include h hm hb

theorem execStepMarker_stranger (hclock : m.clock ≠ f.hdr.src.toNat) :
    exec (.stepMarker f) s = .next (answerDatum f a.die (rd a.payload 0 4) stAccess false 0 [] u) := by
  change execStepMarker f s = _
  unfold execStepMarker
  simp only [h, hm, hb, Bool.false_eq_true, if_false, if_pos hclock]

variable (hclock : m.clock = f.hdr.src.toNat)
include hclock

theorem execStepMarker_malformed (hbad : rd a.payload 4 4 ≠ 0 ∨ a.payload.length ≠ 16) :
    exec (.stepMarker f) s = .next (answerDatum f a.die (rd a.payload 0 4) stMalformed false 0 [] u) := by
  change execStepMarker f s = _
  unfold execStepMarker
  simp only [h, hm, hb, Bool.false_eq_true, if_false, if_neg (not_not_intro hclock), if_pos hbad]

variable (hz : rd a.payload 4 4 = 0) (hlen : a.payload.length = 16)
include hz hlen

/-- A marker of the clock's is answered by the epoch it carries. -/
theorem execStepMarker_clocks : exec (.stepMarker f) s = .next (
    if m.epoch < f.hdr.epoch.toNat then
      answerDatum f a.die (rd a.payload 0 4) stRetry false 0 [] (fetchFrom f (rd a.payload 0 4) u)
    else if f.hdr.epoch.toNat = m.epoch then
      answerDatum f a.die (rd a.payload 0 4) stOk false 0 [] (markerAccepted (rd a.payload 0 4) (rd a.payload 8 8) true u)
    else if f.hdr.epoch.toNat + 1 = m.epoch ∧ (compOf u (rd a.payload 0 4)).window = true then
      answerDatum f a.die (rd a.payload 0 4) stOk false 0 [] (markerAccepted (rd a.payload 0 4) (rd a.payload 8 8) false u)
    else answerDatum f a.die (rd a.payload 0 4) stEpochStale false 0 [] u) := by
  have hgood : ¬ (rd a.payload 4 4 ≠ 0 ∨ a.payload.length ≠ 16) := by simp [hz, hlen]
  change execStepMarker f s = _
  unfold execStepMarker
  simp only [h, hm, hb, Bool.false_eq_true, if_false, if_neg (not_not_intro hclock), if_neg hgood]

theorem execStepMarker_later (he : m.epoch < f.hdr.epoch.toNat) : exec (.stepMarker f) s =
    .next (answerDatum f a.die (rd a.payload 0 4) stRetry false 0 [] (fetchFrom f (rd a.payload 0 4) u)) :=
  (execStepMarker_clocks h hm hb hclock hz hlen).trans (congrArg Host.Outcome.next (if_pos he))

theorem execStepMarker_now (he : f.hdr.epoch.toNat = m.epoch) : exec (.stepMarker f) s = .next (
    answerDatum f a.die (rd a.payload 0 4) stOk false 0 [] (markerAccepted (rd a.payload 0 4) (rd a.payload 8 8) true u)) := by
  rw [execStepMarker_clocks h hm hb hclock hz hlen, if_neg (by omega), if_pos he]

theorem execStepMarker_inWindow (he : f.hdr.epoch.toNat + 1 = m.epoch) (hw : (compOf u (rd a.payload 0 4)).window = true) :
    exec (.stepMarker f) s = .next (
      answerDatum f a.die (rd a.payload 0 4) stOk false 0 [] (markerAccepted (rd a.payload 0 4) (rd a.payload 8 8) false u)) := by
  rw [execStepMarker_clocks h hm hb hclock hz hlen, if_neg (by omega), if_neg (by omega), if_pos ⟨he, hw⟩]

theorem execStepMarker_stale (he : f.hdr.epoch.toNat < m.epoch)
    (hw : f.hdr.epoch.toNat + 1 ≠ m.epoch ∨ (compOf u (rd a.payload 0 4)).window = false) :
    exec (.stepMarker f) s = .next (answerDatum f a.die (rd a.payload 0 4) stEpochStale false 0 [] u) := by
  have hout : ¬ (f.hdr.epoch.toNat + 1 = m.epoch ∧ (compOf u (rd a.payload 0 4)).window = true) := fun ⟨hnext, hopen⟩ =>
    hw.elim (· hnext) fun hshut => Bool.false_ne_true (hshut.symm.trans hopen)
  rw [execStepMarker_clocks h hm hb hclock hz hlen, if_neg (by omega), if_neg (by omega), if_neg hout]

end marker

/-! ## SUBMIT (R333, R339) -/

section submitGate
variable {x : Comp} {b : Bytes} {may : Bool}

theorem submitGate_malformed (h : agreeBad b = true ∨ gBallot b ≠ 0) : submitGate x b may = (some stMalformed, false) :=
  if_pos (by simpa using h)

variable (hbad : agreeBad b = false) (hz : gBallot b = 0)
include hbad hz

theorem submitGate_behind (h : behind x = true) : submitGate x b may = (some stRetry, false) := by
  unfold submitGate
  rw [if_neg (by simp [hbad, hz]), if_pos h]

variable (hb : behind x = false)
include hb

theorem submitGate_absent (h : x.map = none) : submitGate x b may = (some stNoPage, false) := by
  unfold submitGate
  rw [if_neg (by simp [hbad, hz]), if_neg (by simp [hb]), if_pos (by simp [h])]

variable {m : DMap} (hm : x.map = some m)
include hm

theorem submitGate_stranger (h : may = false) : submitGate x b may = (some stAccess, false) := by
  unfold submitGate
  rw [if_neg (by simp [hbad, hz]), if_neg (by simp [hb]), if_neg (by simp [hm]), if_pos (by simp [h])]

variable (hmay : may = true)
include hmay

theorem submitGate_badBase (h : gBase b = 0xFFFFFFFF ∨ gBase b = 0 ∧ isCreate (gChange b) = false) :
    submitGate x b may = (some stMalformed, false) := by
  unfold submitGate
  rw [if_neg (by simp [hbad, hz]), if_neg (by simp [hb]), if_neg (by simp [hm]), if_neg (by simp [hmay]), if_pos h]

/-- A change that may be submitted is looked at as a vote of its epoch would be, by a node that need not vote itself. -/
theorem submitGate_agrees (hmax : gBase b ≠ 0xFFFFFFFF) (hcreate : gBase b ≠ 0 ∨ isCreate (gChange b) = true) :
    submitGate x b may = if m.epoch < gBase b then (some stRetry, true)
      else if gBase b < m.epoch then (some stEpochStale, false) else (none, false) := by
  have hbase : ¬ (gBase b = 0xFFFFFFFF ∨ gBase b = 0 ∧ isCreate (gChange b) = false) := by
    rintro (h | ⟨h0, hc⟩)
    · exact hmax h
    · exact hcreate.elim (· h0) fun h => Bool.false_ne_true (hc.symm.trans h)
  unfold submitGate
  rw [if_neg (by simp [hbad, hz]), if_neg (by simp [hb]), if_neg (by simp [hm]), if_neg (by simp [hmay]), if_neg hbase, agreeGate_held hb hm]
  simp only [Bool.false_and, Bool.false_eq_true, if_false]

end submitGate

theorem execDatumSubmit_message {f : RxFrame} {a : Admitted} {s u : State} (h : takeControl f [0x28] s = (some a, u)) :
    exec (.datumSubmit (.message f)) s = .next (submitMsg f a u) := by
  change execDatumSubmit (.message f) s = _
  unfold execDatumSubmit
  simp only [h]

section submitMsg
variable {f : RxFrame} {a : Admitted} {s : State}

theorem submitMsg_refused {st : Nat}
    (h : submitGate (compOf s (gComp a.payload)) a.payload (maySubmit (compOf s (gComp a.payload)) f.hdr.src.toNat) = (some st, false)) :
    submitMsg f a s = answerDatum f a.die (gComp a.payload) st false 0 [] s := by
  unfold submitMsg
  simp only [h, Bool.false_eq_true, if_false]

/-- A change of a later epoch than the node's has it fetch the map. -/
theorem submitMsg_fetches {st : Nat}
    (h : submitGate (compOf s (gComp a.payload)) a.payload (maySubmit (compOf s (gComp a.payload)) f.hdr.src.toNat) = (some st, true)) :
    submitMsg f a s = answerDatum f a.die (gComp a.payload) st false 0 [] (fetchFrom f (gComp a.payload) s) := by
  unfold submitMsg
  simp only [h, if_true]

theorem submitMsg_proposes
    (h : submitGate (compOf s (gComp a.payload)) a.payload (maySubmit (compOf s (gComp a.payload)) f.hdr.src.toNat) = (none, false)) :
    submitMsg f a s =
      addProposal (gComp a.payload) (gChange a.payload) (.message f.hdr.src.toNat f.hdr.msgId.toNat a.die f.srcAddr) s := by
  unfold submitMsg
  simp only [h]

end submitMsg

/-- Settles O56: by what each message meets, one check after the other, and by what a promise, an accepted change and an applied one leave. -/
theorem votersKeepTheirPromise : Obligations.VotersKeepTheirPromise := by
  unfold Obligations.VotersKeepTheirPromise
  refine ⟨?dropped, ?prepare, ?accept, ?gate, ?commit, ?marker,
    fun c ch m s hc => ⟨applyChange_stores hc, applyChange_full hc, applyChange_leaves hc⟩, fun c step closes m s => markerAccepted_held,
    fun f a s u => execDatumSubmit_message, ?submit, fun f die c st acc rep more s => ⟨answerDatum_ok, answerDatum_says⟩⟩
  case dropped =>
    intro c op f s u hc h
    simp only [List.mem_cons, Prod.mk.injEq, List.not_mem_nil, or_false] at hc
    obtain ⟨rfl, rfl⟩ | ⟨rfl, rfl⟩ | ⟨rfl, rfl⟩ | ⟨rfl, rfl⟩ | ⟨rfl, rfl⟩ | ⟨rfl, rfl⟩ | ⟨rfl, rfl⟩ | ⟨rfl, rfl⟩ | ⟨rfl, rfl⟩ | ⟨rfl, rfl⟩ |
      ⟨rfl, rfl⟩ | ⟨rfl, rfl⟩ := hc
    all_goals simp only [exec, execDatumPrepare, execDatumAccept, execDatumCommit, execDatumSubmit, execStepMarker, execMapRead, execMapNotice,
      execProbe, execWithdraw, execLoadOpen, execLoadDone, execLoadData, h]
  case prepare =>
    intro f a s u h
    exact ⟨fun st v => execDatumPrepare_refused h, fun v hm => ⟨fun hp => execDatumPrepare_answers h hm (voterPrepare_below hp),
      fun hp => execDatumPrepare_answers h hm (voterPrepare_promises hp)⟩⟩
  case accept =>
    intro f a s u h
    exact ⟨fun st v => execDatumAccept_refused h, fun v hm => execDatumAccept_invalid h hm,
      fun v hm hc => ⟨fun hp => execDatumAccept_answers h hm hc (voterAccept_below hp),
        fun hp => execDatumAccept_answers h hm hc (voterAccept_accepts hp)⟩⟩
  case gate =>
    intro x base vote
    refine ⟨agreeGate_behind, agreeGate_absent, fun m hb hm => ⟨fun he => ?_, fun he hv hx => ?_, fun hv => ⟨fun he => ?_, fun he => ?_⟩⟩⟩ <;>
      rw [agreeGate_held hb hm]
    · exact if_pos he
    · rw [if_neg (by omega), if_pos (by simp [hv, hx])]
    · rw [if_neg (by omega), if_neg (by obtain hv | hv := hv <;> simp [hv]), if_pos he]
    · rw [if_neg (by omega), if_neg (by obtain hv | hv := hv <;> simp [hv]), if_neg (by omega)]
  case commit =>
    intro f a m s u h
    exact ⟨execDatumCommit_bad h, execDatumCommit_behind h,
      fun hbad hb hm => ⟨execDatumCommit_absent h hbad hb hm, commitAbsent_invalid⟩,
      fun hbad hb hm => ⟨execDatumCommit_stranger h hbad hb hm, fun hn => ⟨
        fun he hl hc => execDatumCommit_held h hbad hb hm hn (commitHeld_repeats hm he hl hc),
        fun he hr => execDatumCommit_held h hbad hb hm hn (commitHeld_stale hm he hr),
        fun he => execDatumCommit_held h hbad hb hm hn (commitHeld_fetches hm he),
        fun he hc => execDatumCommit_held h hbad hb hm hn (commitHeld_invalid hm he hc),
        fun ok v he hc ha => execDatumCommit_held h hbad hb hm hn (commitHeld_applies hm he hc ha)⟩⟩⟩
  case marker =>
    intro f a m s u h b c e hm hb
    exact ⟨execStepMarker_stranger h hm hb, execStepMarker_malformed h hm hb, fun hclock hz hlen => ⟨execStepMarker_later h hm hb hclock hz hlen,
      execStepMarker_now h hm hb hclock hz hlen, execStepMarker_inWindow h hm hb hclock hz hlen,
      execStepMarker_stale h hm hb hclock hz hlen⟩⟩
  case submit =>
    intro f a s
    refine ⟨fun hbad => submitMsg_refused (submitGate_malformed hbad), fun hbad hz => ⟨
      fun hb => submitMsg_refused (submitGate_behind hbad hz hb), fun hb hm => submitMsg_refused (submitGate_absent hbad hz hb hm),
      fun m hb hm => ⟨fun hmay => submitMsg_refused (submitGate_stranger hbad hz hb hm hmay),
        fun hmay hbase => submitMsg_refused (submitGate_badBase hbad hz hb hm hmay hbase), fun hmay hmax hcreate => ?_⟩⟩⟩
    have hgate := submitGate_agrees hbad hz hb hm hmay hmax hcreate
    refine ⟨fun he => submitMsg_refused (hgate.trans ?_), fun he => submitMsg_fetches (hgate.trans (if_pos he)),
      fun he => submitMsg_proposes (hgate.trans ?_)⟩
    · rw [if_neg (by omega), if_pos he]
    · rw [if_neg (by omega), if_neg (by omega)]

end Sys2Proof.Proofs

/-! PROOF. The rounds of a proposer: how a proposal waits, asks for promises and accepts, backs off, is committed or ends (15 R332, R339; 16 R351, R353,
R354). -/

namespace Sys2Proof.Proofs

open Sys2Proof.Machine Sys2Proof.Laws

/-! ## The proposals of a composition -/

theorem propsOf_setProps {l : List Proposal} (h : l ≠ []) (c : Nat) (s : State) : propsOf (setProps c l s) c = l := tget_tset_self h _ _

theorem setHead_underWay {c : Nat} {p : Proposal} {rest : List Proposal} {s : State} (h : propsOf s c = p :: rest) (q : Proposal) :
    setHead c q s = setProps c (q :: rest) s := by
  unfold setHead
  simp only [h]

theorem propsOf_setHead {c : Nat} {p : Proposal} {rest : List Proposal} {s : State} (h : propsOf s c = p :: rest) (q : Proposal) :
    propsOf (setHead c q s) c = q :: rest := by
  rw [setHead_underWay h, propsOf_setProps (List.cons_ne_nil q rest)]

theorem propsOf_addProposal_window (c : Nat) (ch : Bytes) (tag : Nat) (s : State) :
    propsOf (addProposal c ch (.window tag) s) c = propsOf s c ++ [waitingProposal c ch (.window tag) s] := by
  unfold addProposal
  rw [if_neg (by simp), propsOf_setProps (by simp)]

section addNext
variable {c : Nat} {ch : Bytes} {p : Proposal} {rest : List Proposal} {s : State} (h : propsOf s c = p :: rest)
  (hnew : p.who ≠ .node ∨ p.change ≠ ch)
include h hnew

/-- A change that must be next goes before a first proposal that waits itself, and after one under way. -/
theorem addNext_before (hr : p.round = 0) : ∃ l, addNext c ch s = setProps c (waitingProposal c ch .node s :: l) s := by
  unfold addNext
  simp only [h]
  rw [if_neg (by simpa [imp_iff_not_or] using hnew), if_pos hr]
  exact ⟨_, rfl⟩

theorem addNext_after (hr : p.round ≠ 0) : ∃ l, addNext c ch s = setProps c (p :: waitingProposal c ch .node s :: l) s := by
  unfold addNext
  simp only [h]
  rw [if_neg (by simpa [imp_iff_not_or] using hnew), if_neg hr]
  exact ⟨_, rfl⟩

end addNext

/-! ## Asking the voters (R332) -/

theorem sendAgree_self (op c base b ep : Nat) (addr : Option (BitVec 128)) (ch : Bytes) (p : Purpose) (s : State) :
    sendAgree op c base b (myNode s) (some ep) addr ch p s = s := if_pos rfl

theorem sendAgree_other {n : Nat} {s : State} (h : n ≠ myNode s) (op c base b ep : Nat) (addr : Option (BitVec 128)) (ch : Bytes) (p : Purpose) :
    sendAgree op c base b n (some ep) addr ch p s = (sendMsg ctlDie
      { op := op, dst := ep, addr := addr, epoch := base, data := agreeBody c base b ch.length ++ ch, purpose := p } s).2 := if_neg h

/-- A message of opcode `op` and ballot `b` to every voter of map `m`. -/
def askVoters (op c b : Nat) (m : DMap) (ch : Bytes) (why : Nat → Purpose) (s : State) : State :=
  (voters m).foldl (fun s n => sendAgree op c m.epoch b n (nodeEndpoint m n) none ch (why n) s) s

/-- The node itself votes for map `m`: a voter of it that the gate lets answer. -/
def votesItself (x : Comp) (m : DMap) (s : State) : Bool := (voters m).contains (myNode s) && (agreeGate x m.epoch true).1.isNone

theorem votesItself_false {x : Comp} {m : DMap} {s : State}
    (h : (voters m).contains (myNode s) = false ∨ (agreeGate x m.epoch true).1.isSome = true) : votesItself x m s = false := by
  unfold votesItself
  obtain h | h := h
  · rw [h, Bool.false_and]
  · rw [Option.isNone_eq_false_iff.2 h, Bool.and_false]

theorem votesItself_true {x : Comp} {m : DMap} {s : State} (h : (voters m).contains (myNode s) = true)
    (hg : (agreeGate x m.epoch true).1 = none) : votesItself x m s = true := by
  unfold votesItself
  rw [h, hg]
  rfl

/-! ## The prepare phase -/

/-- Proposal `p` at the start of a round: nothing is promised yet. -/
def roundBegun (round : Nat) (p : Proposal) (s : State) : Proposal :=
  { p with round := round, phase := .prepare, since := now s, promises := [], accepts := [], best := (0, []) }

/-- The voters of map `m` are asked for the ballot of proposal `p`, which is under way from then on. -/
def promisesAsked (c round : Nat) (p : Proposal) (m : DMap) (s : State) : State :=
  askVoters 0x25 c (ballotOf s round) m [] (.prepare c (ballotOf s round)) (setHead c p s)

/-- Proposal `p` that the node itself has promised first, having accepted the change of ballot `acc` before, if any. -/
def promisedHere (c : Nat) (acc : Nat × Bytes) (p : Proposal) (s : State) : Proposal :=
  { p with promises := [myNode (setHead c p s)], best := if p.best.1 < acc.1 then acc else p.best }

section startRound
variable {c round : Nat} {p : Proposal} {rest : List Proposal} {s : State} (h : propsOf s c = p :: rest)
include h

theorem startRound_behind (hb : behind (compOf s c) = true) : startRound c round s = s := by
  unfold startRound
  simp only [h, if_pos hb]

variable (hb : behind (compOf s c) = false)
include hb

theorem startRound_shown (hp : pairShown (compOf s c) p = true) : startRound c round s = finishProposal c stOk s := by
  unfold startRound
  simp only [h, hb, Bool.false_eq_true, if_false, if_pos hp]

variable (hp : pairShown (compOf s c) p = false)
include hp

theorem startRound_invalid (hc : changeResult (compOf s c).map p.change = none) : startRound c round s = finishProposal c stMalformed s := by
  unfold startRound
  simp only [h, hb, hp, hc, Bool.false_eq_true, if_false, Option.isNone_none, if_true]

variable (hc : (changeResult (compOf s c).map p.change).isSome = true)
include hc

theorem startRound_creates (hm : (compOf s c).map = none) : startRound c round s = checkPromises c (setHead c (roundBegun round p s) s) := by
  have hvalid : (changeResult none p.change).isNone = false := Option.isNone_eq_false_iff.2 (hm ▸ hc)
  unfold startRound
  simp only [h, hb, hp, hm, hvalid, Bool.false_eq_true, if_false]
  rfl

variable {m : DMap} (hm : (compOf s c).map = some m)
include hm

theorem startRound_asks : startRound c round s =
    if votesItself (compOf s c) m (setHead c (roundBegun round p s) s) then
      let p := roundBegun round p s
      let r := voterPrepare c (ballotOf s round) (promisesAsked c round p m s)
      checkPromises c (setHead c (if r.1.1 = stOk then promisedHere c r.1.2.2 p s else p) r.2)
    else promisesAsked c round (roundBegun round p s) m s := by
  have hvalid : (changeResult (some m) p.change).isNone = false := Option.isNone_eq_false_iff.2 (hm ▸ hc)
  unfold startRound
  simp only [h, hb, hp, hm, hvalid, Bool.false_eq_true, if_false]
  rfl

theorem startRound_askedOnly (hv : votesItself (compOf s c) m (setHead c (roundBegun round p s) s) = false) :
    startRound c round s = promisesAsked c round (roundBegun round p s) m s :=
  (startRound_asks h hb hp hc hm).trans (if_neg (Bool.eq_false_iff.1 hv))

variable (hv : votesItself (compOf s c) m (setHead c (roundBegun round p s) s) = true) {q : Nat × Nat × Bytes} {v : State}
include hv

theorem startRound_promised
    (hr : voterPrepare c (ballotOf s round) (promisesAsked c round (roundBegun round p s) m s) = ((stOk, q), v)) :
    startRound c round s = checkPromises c (setHead c (promisedHere c q.2 (roundBegun round p s) s) v) := by
  rw [startRound_asks h hb hp hc hm, if_pos hv]
  simp only [hr, if_true]

theorem startRound_notPromised {st : Nat} (hst : st ≠ stOk)
    (hr : voterPrepare c (ballotOf s round) (promisesAsked c round (roundBegun round p s) m s) = ((st, q), v)) :
    startRound c round s = checkPromises c (setHead c (roundBegun round p s) v) := by
  rw [startRound_asks h hb hp hc hm, if_pos hv]
  simp only [hr, if_neg hst]

end startRound

/-! ## The accept phase -/

/-- Proposal `p` at the start of the accept phase: it carries the change of the highest ballot that was accepted, else its own. -/
def acceptBegun (p : Proposal) (s : State) : Proposal :=
  { p with phase := .accept, since := now s, carried := if p.best.1 = 0 then p.change else p.best.2, accepts := [] }

/-- The voters of map `m` are asked to accept what `p` carries into the accept phase. -/
def acceptsAsked (c : Nat) (p : Proposal) (m : DMap) (s : State) : State :=
  askVoters 0x26 c (ballotOf s p.round) m (acceptBegun p s).carried (.accept c (ballotOf s p.round)) (setHead c (acceptBegun p s) s)

/-- Proposal `p` in the accept phase, whose change the node itself has accepted first. -/
def acceptedHere (c : Nat) (p : Proposal) (s : State) : Proposal :=
  { acceptBegun p s with accepts := [myNode (setHead c (acceptBegun p s) s)] }

section checkPromises
variable {c : Nat} {p : Proposal} {rest : List Proposal} {s : State} (h : propsOf s c = p :: rest)
include h

theorem checkPromises_otherPhase (hp : p.phase ≠ .prepare) : checkPromises c s = s := by
  unfold checkPromises
  simp only [h]
  exact if_neg fun hc => hp hc.1

theorem checkPromises_short {m : DMap} (hm : (compOf s c).map = some m) (hq : votes m p.promises < quorum m) : checkPromises c s = s := by
  unfold checkPromises
  simp only [h, hm]
  exact if_neg fun hc => absurd (of_decide_eq_true hc.2) (by omega)

variable (hp : p.phase = .prepare)
include hp

theorem checkPromises_creates (hm : (compOf s c).map = none) : checkPromises c s = checkAccepts c (setHead c (acceptBegun p s) s) := by
  unfold checkPromises
  simp only [h, hm, hp, true_and, if_true]
  rfl

variable {m : DMap} (hm : (compOf s c).map = some m) (hq : quorum m ≤ votes m p.promises)
include hm hq

theorem checkPromises_asks : checkPromises c s =
    if votesItself (compOf (acceptsAsked c p m s) c) m (setHead c (acceptBegun p s) s) then
      let r := voterAccept c (ballotOf s p.round) (acceptBegun p s).carried (acceptsAsked c p m s)
      checkAccepts c (if r.1.1 = stOk then setHead c (acceptedHere c p s) r.2 else r.2)
    else acceptsAsked c p m s := by
  unfold checkPromises
  simp only [h, hm, hp, decide_eq_true hq, true_and, if_true]
  rfl

theorem checkPromises_askedOnly (hv : votesItself (compOf (acceptsAsked c p m s) c) m (setHead c (acceptBegun p s) s) = false) :
    checkPromises c s = acceptsAsked c p m s :=
  (checkPromises_asks h hp hm hq).trans (if_neg (Bool.eq_false_iff.1 hv))

theorem checkPromises_accepts (hv : votesItself (compOf (acceptsAsked c p m s) c) m (setHead c (acceptBegun p s) s) = true)
    {r : Nat × Nat} {v : State} (hr : voterAccept c (ballotOf s p.round) (acceptBegun p s).carried (acceptsAsked c p m s) = (r, v)) :
    checkPromises c s = checkAccepts c (if r.1 = stOk then setHead c (acceptedHere c p s) v else v) := by
  rw [checkPromises_asks h hp hm hq, if_pos hv]
  simp only [hr]

end checkPromises

/-- A quorum is more than half of the pairs. -/
theorem pairs_lt_two_quorum (m : DMap) : m.pairs.length < 2 * quorum m := by
  unfold quorum
  omega

section checkAccepts
variable {c : Nat} {p : Proposal} {m : DMap} {rest : List Proposal} {s : State} (h : propsOf s c = p :: rest) (hm : (compOf s c).map = some m)
include h hm

theorem checkAccepts_short (hq : votes m p.accepts < quorum m) : checkAccepts c s = s := by
  unfold checkAccepts
  simp only [h, hm]
  exact if_neg fun hc => absurd hc.2 (by omega)

theorem checkAccepts_commits (hp : p.phase = .accept) (hq : quorum m ≤ votes m p.accepts) : checkAccepts c s = commitChange c p s := by
  unfold checkAccepts
  simp only [h, hm]
  exact if_pos ⟨hp, hq⟩

end checkAccepts

/-! ## Promises and accepts that arrive -/

/-- The nodes of `l`, and node `n`. -/
def withVote (n : Nat) (l : List Nat) : List Nat := if l.contains n then l else n :: l

theorem mem_withVote_self (n : Nat) (l : List Nat) : n ∈ withVote n l := by
  unfold withVote
  split
  · exact List.contains_iff_mem.1 ‹_›
  · exact List.mem_cons_self

theorem mem_withVote_other {n x : Nat} (h : x ≠ n) (l : List Nat) : x ∈ withVote n l ↔ x ∈ l := by
  unfold withVote
  split
  · exact Iff.rfl
  · exact List.mem_cons.trans (or_iff_right h)

section answers
variable {c b n : Nat} {body : Bytes} {p : Proposal} {rest : List Proposal} {s : State} (h : propsOf s c = p :: rest)
include h

theorem onPromise_ignored (hn : p.phase ≠ .prepare ∨ b ≠ ballotOf s p.round ∨ rd body 0 1 ≠ stOk ∨ p.round = 0) : onPromise c b n body s = s := by
  unfold onPromise
  simp only [h]
  refine if_neg fun ⟨hp, hr, hb, hok⟩ => ?_
  obtain hn | hn | hn | hn := hn
  exacts [hn hp, hn hb, hn hok, hr hn]

theorem onAccept_ignored (hn : p.phase ≠ .accept ∨ b ≠ ballotOf s p.round ∨ rd body 0 1 ≠ stOk ∨ p.round = 0) : onAccept c b n body s = s := by
  unfold onAccept
  simp only [h]
  refine if_neg fun ⟨hp, hr, hb, hok⟩ => ?_
  obtain hn | hn | hn | hn := hn
  exacts [hn hp, hn hb, hn hok, hr hn]

variable (hr : p.round ≠ 0) (hb : b = ballotOf s p.round) (hok : rd body 0 1 = stOk)
include hr hb hok

theorem onPromise_counts (hp : p.phase = .prepare) : onPromise c b n body s = checkPromises c (setHead c { p with
    promises := withVote n p.promises, best := if p.best.1 < rd body 12 4 then (rd body 12 4, body.drop 16) else p.best } s) := by
  unfold onPromise
  simp only [h]
  exact if_pos ⟨hp, hr, hb, hok⟩

theorem onAccept_counts (hp : p.phase = .accept) :
    onAccept c b n body s = checkAccepts c (setHead c { p with accepts := withVote n p.accepts } s) := by
  unfold onAccept
  simp only [h]
  exact if_pos ⟨hp, hr, hb, hok⟩

end answers

section response
variable {f : RxFrame} {a : Admitted} {id c : Nat} {m : OutMsg} {s u : State} (h : takeAnswer f [0xA5, 0xA6, 0xA7] s = (some (a, id, m), u))
include h

theorem execDatumResponse_promise {ballot n : Nat} (hm : m.purpose = .prepare c ballot n) :
    exec (.datumResponse f) s = .next (onPromise c ballot n a.payload (noteEpoch f c (rd a.payload 4 4) u)) := by
  change execDatumResponse f s = _
  unfold execDatumResponse
  simp only [h, hm]

theorem execDatumResponse_accept {ballot n : Nat} (hm : m.purpose = .accept c ballot n) :
    exec (.datumResponse f) s = .next (onAccept c ballot n a.payload (noteEpoch f c (rd a.payload 4 4) u)) := by
  change execDatumResponse f s = _
  unfold execDatumResponse
  simp only [h, hm]

theorem execDatumResponse_commit {n : Nat} (hm : m.purpose = .commitTo c n) : exec (.datumResponse f) s =
    .next (noteEpoch f c (rd a.payload 4 4) (if rd a.payload 0 1 = stStateConflict then storeFull c n u else u)) := by
  change execDatumResponse f s = _
  unfold execDatumResponse
  simp only [h, hm]

end response

/-! ## The commit (R332; 16 R351) -/

/-- The map that the carried change makes, if it leaves one. -/
def carriedMap (c : Nat) (p : Proposal) (s : State) : Option DMap := (changeResult (compOf s c).map p.carried).getD none

/-- The node members of a map, where there is one. -/
def membersOf (m : Option DMap) : List (Nat × Member) := (m.map nodeMembers).getD []

/-- The node members that COMMIT goes to: those of the map before the change and those of the map after it. -/
def commitTargets (c : Nat) (p : Proposal) (s : State) : List (Nat × Member) :=
  let old := membersOf (compOf s c).map
  old ++ (membersOf (carriedMap c p s)).filter fun e => !old.any fun o => o.1 == e.1

/-- COMMIT of the carried change, of ballot `b` and map `base`, to one member. -/
def sendCommit (c base : Nat) (p : Proposal) (b : Nat) (s : State) (e : Nat × Member) : State :=
  sendAgree 0x27 c base b e.2.node (some e.1) e.2.addrs.head? p.carried (.commitTo c e.2.node) s

/-- COMMIT sent to each of them, with the ballot of the state that it leaves from. -/
def commitSent (c : Nat) (p : Proposal) (s : State) : State :=
  (commitTargets c p s).foldl (fun u e => sendCommit c (epochOf (compOf s c)) p (ballotOf u p.round) u e) s

theorem ballotOf_sendCommit (c base : Nat) (p : Proposal) (b : Nat) (s : State) (e : Nat × Member) (round : Nat) :
    ballotOf (sendCommit c base p b s e) round = ballotOf s round := by
  have hcfg : (sendCommit c base p b s e).cfg = s.cfg :=
    (sendAgree_frame (m := [.catchment, .log, .jx]) 0x27 c base b e.2.node _ _ p.carried _ (Frame.refl _ s) rfl).same .cfg (by decide)
  unfold ballotOf myNode
  rw [hcfg]

/-- A fold that reads a part of the running state which its steps keep may read it once. -/
theorem foldl_reads_once {β γ : Type} {π : State → γ} {f : γ → State → β → State} (hf : ∀ g s x, π (f g s x) = π s) (l : List β) (s : State) :
    l.foldl (fun s x => f (π s) s x) s = l.foldl (f (π s)) s := by
  induction l generalizing s with
  | nil => rfl
  | cons x xs ih => rw [List.foldl_cons, List.foldl_cons, ih, hf]

theorem commitSent_oneBallot (c : Nat) (p : Proposal) (s : State) : commitSent c p s =
    (commitTargets c p s).foldl (sendCommit c (epochOf (compOf s c)) p (ballotOf s p.round)) s :=
  foldl_reads_once (fun g s x => ballotOf_sendCommit c _ p g s x p.round) _ s

/-- The change has been sent and applied, and its map, if it leaves one, noticed. -/
def commitDone (c : Nat) (p : Proposal) (s : State) : State :=
  let v := (applyChange c p.carried (commitSent c p s)).2
  match carriedMap c p s with
  | some m => mapNotices c p.carried m v
  | none => v

theorem commitDone_ends {c : Nat} {p : Proposal} {s : State} (h : carriedMap c p s = none) :
    commitDone c p s = (applyChange c p.carried (commitSent c p s)).2 := by
  unfold commitDone
  simp only [h]

theorem commitDone_makes {c : Nat} {p : Proposal} {m : DMap} {s : State} (h : carriedMap c p s = some m) :
    commitDone c p s = mapNotices c p.carried m (applyChange c p.carried (commitSent c p s)).2 := by
  unfold commitDone
  simp only [h]

section commitChange
variable {c : Nat} {p : Proposal} {s : State}

theorem commitChange_full (hm : (compOf s c).map = none) (hf : createFull c (carriedMap c p s) s = true) :
    commitChange c p s = finishProposal c stStateConflict (raise leafDatumStoreFull [] s) := by
  unfold commitChange
  exact if_pos (Bool.and_eq_true_iff.2 ⟨Option.isNone_iff_eq_none.2 hm, hf⟩)

/-- A proposal whose own change was carried ends; one that carried another's starts again. -/
theorem commitChange_commits (h : (compOf s c).map.isSome = true ∨ createFull c (carriedMap c p s) s = false) : commitChange c p s =
    if p.carried = p.change then finishProposal c stOk (commitDone c p s) else setHead c { p with round := 0 } (commitDone c p s) := by
  have hstores : ¬ ((compOf s c).map.isNone && createFull c (carriedMap c p s) s) = true := fun hc => by
    obtain ⟨hnone, hfull⟩ := Bool.and_eq_true_iff.1 hc
    obtain h | h := h
    · exact Option.isSome_iff_ne_none.1 h (Option.isNone_iff_eq_none.1 hnone)
    · exact Bool.false_ne_true (h.symm.trans hfull)
  unfold commitChange
  refine (if_neg hstores).trans ?_
  unfold commitDone
  rw [commitSent_oneBallot]
  unfold commitTargets carriedMap
  cases (changeResult (compOf s c).map p.carried).getD none <;> rfl

end commitChange

/-! ## The commands of a round (R332) -/

section idle
variable {comp : BitVec 32} {s : State} (h : propsOf s comp.toNat = [])
include h

theorem execDatumPropose_none : exec (.datumPropose comp) s = .next s := by
  change execDatumPropose comp s = _
  unfold execDatumPropose
  rw [h]

theorem execDatumRoundTimeout_none : exec (.datumRoundTimeout comp) s = .next s := by
  change execDatumRoundTimeout comp s = _
  unfold execDatumRoundTimeout
  rw [h]

theorem execDatumBackoffExpire_none : exec (.datumBackoffExpire comp) s = .next s := by
  change execDatumBackoffExpire comp s = _
  unfold execDatumBackoffExpire
  rw [h]

end idle

section round
variable {comp : BitVec 32} {p : Proposal} {rest : List Proposal} {s : State} (h : propsOf s comp.toNat = p :: rest)
include h

theorem execDatumPropose_starts (hs : awake s = true) (hr : p.round = 0) :
    exec (.datumPropose comp) s = .next (startRound comp.toNat 1 s) := by
  change execDatumPropose comp s = _
  unfold execDatumPropose
  simp only [h, hs, hr, beq_self_eq_true, Bool.and_self, if_true]

theorem execDatumPropose_not (hs : awake s = false ∨ p.round ≠ 0) : exec (.datumPropose comp) s = .next s := by
  change execDatumPropose comp s = _
  unfold execDatumPropose
  simp only [h]
  exact congrArg Host.Outcome.next (if_neg (by obtain hs | hs := hs <;> simp [hs]))

/-- The back-off is 100 µs and a free part of at most 300 µs. -/
theorem execDatumRoundTimeout_backsOff (hr : p.round ≠ 0) (hp : p.phase = .prepare ∨ p.phase = .accept) (ht : p.since + 2000000 ≤ now s) :
    ∃ k ≤ 300000, exec (.datumRoundTimeout comp) s =
      .next (setHead comp.toNat { p with phase := .backoff (now s + 100000 + k) } (takeFree s).2) := by
  refine ⟨(Config.freeBits 64 (takeFree s).1).toNat % 300001, Nat.le_of_lt_succ (Nat.mod_lt _ (by decide)), ?_⟩
  change execDatumRoundTimeout comp s = _
  unfold execDatumRoundTimeout
  simp only [h]
  exact congrArg Host.Outcome.next (if_pos ⟨hr, hp, ht⟩)

theorem execDatumRoundTimeout_early (ht : p.round = 0 ∨ now s < p.since + 2000000) : exec (.datumRoundTimeout comp) s = .next s := by
  change execDatumRoundTimeout comp s = _
  unfold execDatumRoundTimeout
  simp only [h]
  refine congrArg Host.Outcome.next (if_neg fun ⟨hr, _, hdue⟩ => ?_)
  obtain ht | ht := ht
  · exact hr ht
  · omega

variable {w : Nat} (hp : p.phase = .backoff w)
include hp

theorem execDatumBackoffExpire_early (ht : now s < w) : exec (.datumBackoffExpire comp) s = .next s := by
  change execDatumBackoffExpire comp s = _
  unfold execDatumBackoffExpire
  simp only [h, hp]
  exact congrArg Host.Outcome.next (if_neg fun hc => absurd hc.2 (by omega))

variable (hr : p.round ≠ 0) (ht : w ≤ now s)
include hr ht

theorem execDatumBackoffExpire_again (hlast : p.round < 8) :
    exec (.datumBackoffExpire comp) s = .next (startRound comp.toNat (p.round + 1) s) := by
  change execDatumBackoffExpire comp s = _
  unfold execDatumBackoffExpire
  simp only [h, hp]
  rw [if_pos ⟨hr, ht⟩, if_pos hlast]

theorem execDatumBackoffExpire_ends (hlast : 8 ≤ p.round) :
    exec (.datumBackoffExpire comp) s = .next (finishProposal comp.toNat stRetry (count (chipCntOff 0) s)) := by
  change execDatumBackoffExpire comp s = _
  unfold execDatumBackoffExpire
  simp only [h, hp]
  rw [if_pos ⟨hr, ht⟩, if_neg (by omega)]

end round

/-! ## The firmware command DATUM_SUBMIT (R339; 20 Table 20.3) -/

section window
variable {c : Latched} {s : State} (h : fwCmd s 0x20 = some c) (hg : fwGate s 0x20 c.req = none)
include h hg

theorem execDatumSubmit_refused {st : Nat} (hgate : (submitGate (compOf s (gComp c.req)) c.req true).1 = some st) :
    exec (.datumSubmit .window) s = .next (answerFw st [] (refuseDatum (gComp c.req) 0x20 none s)) := by
  refine congrArg Host.Outcome.next ((fwRun_passed h hg).trans ?_)
  simp only [hgate]

variable (hgate : (submitGate (compOf s (gComp c.req)) c.req true).1 = none)
include hgate

theorem execDatumSubmit_full (hfull : 16 ≤ s.cfg.outstanding.length) :
    exec (.datumSubmit .window) s = .next (answerFw stRetry [] s) := by
  have hdefer : acceptDeferred c (gComp c.req) s = none := if_pos hfull
  refine congrArg Host.Outcome.next ((fwRun_passed h hg).trans ?_)
  simp only [hgate, hdefer]

theorem execDatumSubmit_proposes {u : State} (hdefer : acceptDeferred c (gComp c.req) s = some u) :
    exec (.datumSubmit .window) s = .next (addProposal (gComp c.req) (gChange c.req) (.window c.tag) u) := by
  refine congrArg Host.Outcome.next ((fwRun_passed h hg).trans ?_)
  simp only [hgate, hdefer]

end window

/-- Settles O57: by what starts and ends a round, by what each phase does with its voters' answers, and by the order in which proposals wait. -/
theorem proposalsGatherAQuorum : Obligations.ProposalsGatherAQuorum := by
  unfold Obligations.ProposalsGatherAQuorum
  refine ⟨fun comp s h => ⟨execDatumPropose_none h, execDatumRoundTimeout_none h, execDatumBackoffExpire_none h⟩,
    fun comp p rest s h => ⟨execDatumPropose_starts h, execDatumPropose_not h⟩, ?prepare, ?promised,
    fun op c base b n ep addr ch p s => ⟨?self, rfl, fun hn => ⟨_, rfl, rfl, rfl, rfl, rfl, rfl, sendAgree_other hn op c base b ep addr ch p⟩⟩,
    fun c round p rest s h => ⟨startRound_behind h, startRound_shown h, startRound_invalid h⟩, ?timeout,
    fun comp p rest s h => execDatumRoundTimeout_early h, fun comp p rest w s h hp hr => ⟨execDatumBackoffExpire_early h hp,
      execDatumBackoffExpire_again h hp hr, execDatumBackoffExpire_ends h hp hr⟩, ?answers,
    fun c b n body p rest s h hp hr hb hok => ⟨_, _, onPromise_counts h hr hb hok hp, mem_withVote_self n _,
      fun x hx => mem_withVote_other hx _, rfl⟩, ?commit,
    fun c p m rest s h hm hp => ⟨checkAccepts_short h hm, checkAccepts_commits h hm hp, pairs_lt_two_quorum m⟩,
    fun f a id m s u h => ⟨fun c ballot n => execDatumResponse_promise h, fun c ballot n => execDatumResponse_accept h,
      fun c n => execDatumResponse_commit h⟩, propsOf_addProposal_window, ?next,
    fun c s h hg => ⟨fun st => execDatumSubmit_refused h hg, execDatumSubmit_full h hg, fun u hgate => execDatumSubmit_proposes h hg hgate⟩⟩
  case prepare =>
    intro c round p rest s h hb hp hc
    refine ⟨propsOf_setHead h _, startRound_creates h hb hp hc, fun m hm => ?_⟩
    refine ⟨fun hself => startRound_askedOnly h hb hp hc hm (votesItself_false hself), fun hself hgate => ?_⟩
    have hvotes := votesItself_true hself hgate
    exact ⟨fun q v => startRound_promised h hb hp hc hm hvotes, fun st q v => startRound_notPromised h hb hp hc hm hvotes⟩
  case promised =>
    intro c p rest s h
    refine ⟨checkPromises_otherPhase h, fun m => checkPromises_short h, fun hm hp => checkPromises_creates h hp hm, fun m hm hp hq => ?_⟩
    exact ⟨fun hself => checkPromises_askedOnly h hp hm hq (votesItself_false hself),
      fun hself hgate r v => checkPromises_accepts h hp hm hq (votesItself_true hself hgate)⟩
  case self =>
    rintro rfl
    exact sendAgree_self op c base b ep addr ch p s
  case timeout =>
    intro comp p rest s h hr hp ht
    obtain ⟨k, hk, hexec⟩ := execDatumRoundTimeout_backsOff h hr hp ht
    exact ⟨_, _, hexec, Nat.le_add_right _ _, by omega, propsOf_setHead (s := (takeFree s).2) h _⟩
  case answers =>
    intro c b n body p rest s h
    exact ⟨fun hn => ⟨onPromise_ignored h (.inr hn), onAccept_ignored h (.inr hn)⟩, fun hp => onPromise_ignored h (.inl hp),
      fun hp => onAccept_ignored h (.inl hp), fun hp hr hb hok => ⟨_, onAccept_counts h hr hb hok hp, mem_withVote_self n _,
        fun x hx => mem_withVote_other hx _⟩⟩
  case commit =>
    intro c p s
    refine ⟨commitChange_full, fun hstores => ⟨commitDone c p s, commitDone_ends, fun m => commitDone_makes, fun hown => ?_, fun hother => ?_⟩⟩
    · exact (commitChange_commits hstores).trans (if_pos hown)
    · exact (commitChange_commits hstores).trans (if_neg hother)
  case next =>
    intro c ch p rest s h hnew
    refine ⟨fun hr => ?_, fun hr => ?_⟩
    · obtain ⟨l, hl⟩ := addNext_before h hnew hr
      simp only [hl, propsOf_setProps (List.cons_ne_nil _ l), List.head?_cons]
    · obtain ⟨l, hl⟩ := addNext_after h hnew hr
      simp only [hl, propsOf_setProps (List.cons_ne_nil _ _), List.head?_cons, List.drop_one, List.tail_cons, and_self]

end Sys2Proof.Proofs

/-! PROOF. The frame of every command (00_scope.md, 95_what_each_step_holds.md; 17 R380). -/

namespace Sys2Proof.Proofs

open Sys2Proof.Machine Sys2Proof.Laws

theorem pending_notMem_touches (c : Instr) : Part.pending ∉ touches c := by
  cases c <;> simp [touches]

/-- Settles O5: each command keeps to the parts its own frame lemma names, and its list is read for the queue and the fuses. -/
theorem everyCommandTouchesOnlyItsParts : Obligations.EveryCommandTouchesOnlyItsParts :=
  ⟨fun c s t h => (exec_frame s c).next t h, pending_notMem_touches, eq_svnCommit_of_fuse_mem_touches⟩

end Sys2Proof.Proofs

/-! PROOF. Key slots: admission, link keys, removal, zeroisation and the sealed scrub (17 R370, R373-R376, R385-R387). -/

namespace Sys2Proof.Proofs

open Sys2Proof.Machine Sys2Proof.Laws

/-! ## The security commands behind firmware's gate -/

/-- The firmware's commands on key slots, each with its code. -/
def fwOfTenants : List (Instr × Nat) := [(.tenantAdmit, 0x10), (.tenantRemove, 0x11), (.keyInstall, 0x12)]

/-- The firmware's commands on the NVM, the fuses and attestation, each with its code. -/
def fwOfAttestation : List (Instr × Nat) :=
  [(.nvmRead, 1), (.nvmWrite, 2), (.svnCommit, 4), (.attest true, 0x13), (.attest false, 0x13), (.attestBases, 0x14)]

theorem exec_fwOfSecurity {c : Instr} {op : Nat} (h : (c, op) ∈ fwOfTenants ++ fwOfAttestation) (s : State) :
    ∃ run, exec c s = .next (fwRun op run s) := by
  simp only [fwOfTenants, fwOfAttestation, List.cons_append, List.nil_append, List.mem_cons, Prod.mk.injEq, List.not_mem_nil, or_false] at h
  rcases h with ⟨rfl, rfl⟩ | ⟨rfl, rfl⟩ | ⟨rfl, rfl⟩ | ⟨rfl, rfl⟩ | ⟨rfl, rfl⟩ | ⟨rfl, rfl⟩ | ⟨rfl, rfl⟩ | ⟨rfl, rfl⟩ |
    ⟨rfl, rfl⟩ <;> exact ⟨_, rfl⟩

theorem exec_fwOfSecurity_idle {c : Instr} {op : Nat} {s : State} (hmem : (c, op) ∈ fwOfTenants ++ fwOfAttestation) (h : fwCmd s op = none) :
    exec c s = .next s := by
  obtain ⟨run, hrun⟩ := exec_fwOfSecurity hmem s
  exact hrun.trans (congrArg Host.Outcome.next (fwRun_idle h))

theorem exec_fwOfSecurity_refused {c : Instr} {op st : Nat} {l : Latched} {s : State} (hmem : (c, op) ∈ fwOfTenants ++ fwOfAttestation)
    (h : fwCmd s op = some l) (hg : fwGate s op l.req = some st) : exec c s = .next (answerFw st [] s) := by
  obtain ⟨run, hrun⟩ := exec_fwOfSecurity hmem s
  exact hrun.trans (congrArg Host.Outcome.next (fwRun_refused h hg))

/-! ## Key slots and link keys as they are written -/

theorem keyOf_setKey_self {x : KeySlot} (h : x ≠ {}) (k : Nat) (s : State) : keyOf (setKey k x s) k = x := tget_tset_self h _ _

/-- Link keys written to a holder, one of them at least, are the ones it has. -/
theorem keysOf_setKeys {x : LinkKeys} (hx : x ≠ {}) (h : KeyHolder) (s : State) : keysOf (setKeys h x s) h = x := by
  cases h with
  | fabric => rfl
  | slot k => exact congrArg KeySlot.keys (keyOf_setKey_self (fun e => hx (congrArg KeySlot.keys e)) k.val s)

/-- Clearing a slot's KEY_AGE leaves its link keys. -/
theorem keysOf_clearAge {k : Fin 1024} {s : State} (hx : keysOf s (.slot k) ≠ {}) :
    keysOf (setKey k.val { keyOf s k.val with keyAge := false } s) (.slot k) = keysOf s (.slot k) :=
  (congrArg KeySlot.keys (keyOf_setKey_self (x := { keyOf s k.val with keyAge := false }) (fun e => hx (congrArg KeySlot.keys e)) k.val s) :)

/-! ## TENANT_ADMIT (R370) -/

section admission
variable {b : Bytes} {s : State}

theorem admitDo_malformed (h : admitBad b = true) : admitDo b s = (stMalformed, [], s) := if_pos h

variable (hok : admitBad b = false)
include hok

theorem admitDo_resident {k : Nat} {x : KeySlot} (h : slotOfTenant s (rd b 0 2) = some (k, x)) :
    admitDo b s = (stStateConflict, [], refuseSlot (rd b 0 2) k 0x90 s) := by
  unfold admitDo
  simp only [hok, h, Bool.false_eq_true, if_false]

variable (hnew : slotOfTenant s (rd b 0 2) = none)
include hnew

theorem admitDo_rangeInUse {k : Nat} {x : KeySlot} (h : rangeMeets s (rd b 4 2) (rd b 6 2) = some (k, x)) :
    admitDo b s = (stStateConflict, [], refuseSlot (rd b 0 2) k 0x90 s) := by
  unfold admitDo
  simp only [hok, hnew, h, Bool.false_eq_true, if_false]

variable {k : Nat} (hrange : rangeMeets s (rd b 4 2) (rd b 6 2) = none) (hslot : emptySlot s = some k)
include hrange hslot

theorem admitDo_open (hp : bitAt (rd b 2 1) 0 = false) : admitDo b s = admitInto b none s := by
  unfold admitDo
  simp only [hok, hnew, hrange, hslot, hp, Option.isNone_some, Bool.false_eq_true, if_false]

variable (hp : bitAt (rd b 2 1) 0 = true) {u : State}
include hp

theorem admitDo_blobFails (h : blobKey (slice b 0 64) (b.drop 64) s = (none, u)) : admitDo b s = (stAccess, [], u) := by
  unfold admitDo
  simp only [hok, hnew, hrange, hslot, hp, h, Option.isNone_some, Bool.false_eq_true, if_false, if_true]

theorem admitDo_protected {v : BitVec 256} (h : blobKey (slice b 0 64) (b.drop 64) s = (some v, u)) :
    admitDo b s = admitInto b (some v) u := by
  unfold admitDo
  simp only [hok, hnew, hrange, hslot, hp, h, Option.isNone_some, Bool.false_eq_true, if_false, if_true]

end admission

section admitInto
variable {b : Bytes} {link : Option (BitVec 256)} {k : Nat} {s : State} (hslot : emptySlot s = some k)
include hslot

theorem admitInto_noWindows (h : openTenantWindows (rd b 0 2) (rd b 6 2) (fillSlot k b link s) = none) :
    (admitInto b link s).1 = stRetry := by
  unfold admitInto
  simp only [hslot, h]

theorem admitInto_opened {w p : Nat} {u : State} (h : openTenantWindows (rd b 0 2) (rd b 6 2) (fillSlot k b link s) = some (w, p, u)) :
    (admitInto b link s).1 = stOk ∧
      (admitInto b link s).2.2 = zeroCounters k { u with traffic := { u.traffic with mask := tset 0 u.traffic.mask k (rd b 8 8) } } := by
  unfold admitInto
  simp only [hslot, h, and_self]

end admitInto

/-- The slot an admission fills holds the tenant's fields, ACTIVE, with MEM_GEN one higher and no key pending (Table 17.1). -/
theorem fillSlot_fields {b : Bytes} (hb : rd b 0 2 ≠ 0) (k : Nat) (link : Option (BitVec 256)) (s : State) :
    let x := keyOf (fillSlot k b link s) k
    x.tenant = rd b 0 2 ∧ x.st = .active ∧ x.prot = bitAt (rd b 2 1) 0 ∧ x.sealed_ = bitAt (rd b 2 1) 1 ∧ x.priv = bits (rd b 3 1) 3 0 ∧
    x.sluiceBase = rd b 4 2 ∧ x.sluiceCount = rd b 6 2 ∧ x.memGen = ((keyOf s k).memGen + 1) % 65536 ∧ x.keys.pending = none := by
  have hx : keyOf (fillSlot k b link s) k = _ := keyOf_setKey_self (by exact fun e => hb (congrArg KeySlot.tenant e)) k _
  rw [hx]
  exact ⟨rfl, rfl, rfl, rfl, rfl, rfl, rfl, rfl, rfl⟩

/-! ## KEY_INSTALL and the ages of a key (R374-R376) -/

section install
variable {h : KeyHolder} {tenant k : Nat} {b : Bytes} {s : State}

theorem installInto_tooSoon (hsoon : keyTooSoon s (keysOf s h) (rd b 8 8) = true) :
    installInto h tenant k b s = (stStateConflict, refuseSlot tenant k 0x92 s) := if_pos hsoon

theorem installInto_installs {key : BitVec 256} {u : State} (hsoon : keyTooSoon s (keysOf s h) (rd b 8 8) = false)
    (hblob : blobKey (slice b 0 64) (b.drop 64) s = (some key, u)) : installInto h tenant k b s = (stOk, keyPending h b key u) := by
  unfold installInto
  simp only [hsoon, hblob, Bool.false_eq_true, if_false]

theorem keysOf_keyPending (key : BitVec 256) :
    keysOf (keyPending h b key s) h = { keysOf s h with pending := some ⟨key, rd b 8 8, hoursNs (rd b 16 2)⟩ } :=
  keysOf_setKeys (fun e => by simpa using congrArg LinkKeys.pending e) h s

end install

section keyAges
variable {h : KeyHolder} {s : State}

/-- The link keys of a holder once its pending key `p` is current: the key before stays until 1,020 µs after the activation (R375, R376). -/
def activated (x : LinkKeys) (p : LinkKey) : LinkKeys :=
  { previous := x.current.map fun c => (c, p.activate + 1020000), current := some p, pending := none }

theorem activated_ne_default (x : LinkKeys) (p : LinkKey) : activated x p ≠ {} := fun e => by simpa [activated] using congrArg LinkKeys.current e

theorem execKeyActivate_activates {p : LinkKey} (hp : (keysOf s h).pending = some p) (ha : awake s = true) (ht : p.activate ≤ now s) :
    ∃ t, exec (.keyActivate h) s = .next t ∧ keysOf t h = activated (keysOf s h) p := by
  have hnow : ¬ (awake s = false ∨ now s < p.activate) := by simp [ha, ht]
  have hset := keysOf_setKeys (activated_ne_default (keysOf s h) p) h s
  change ∃ t, execKeyActivate h s = .next t ∧ _
  unfold execKeyActivate
  simp only [hp, if_neg hnow]
  cases h with
  | fabric => exact ⟨_, rfl, hset⟩
  | slot k => exact ⟨_, rfl, (keysOf_clearAge (hset.trans_ne (activated_ne_default _ p))).trans hset⟩

theorem execKeyActivate_waits
    (hw : (keysOf s h).pending = none ∨ awake s = false ∨ ∀ p, (keysOf s h).pending = some p → now s < p.activate) :
    exec (.keyActivate h) s = .next s := by
  change execKeyActivate h s = _
  unfold execKeyActivate
  cases hp : (keysOf s h).pending with
  | none => simp only [hp]
  | some p =>
    have hwait : awake s = false ∨ now s < p.activate := by simpa [hp] using hw
    simp only [hp, if_pos hwait]

section drop
variable {c : LinkKey} {e : Nat} (hprev : (keysOf s h).previous = some (c, e))
include hprev

theorem execKeyPreviousDrop_waits (hw : awake s = false ∨ now s < e) : exec (.keyPreviousDrop h) s = .next s := by
  change execKeyPreviousDrop h s = _
  unfold execKeyPreviousDrop
  simp only [hprev, if_pos hw]

theorem execKeyPreviousDrop_drops (ha : awake s = true) (ht : e ≤ now s) :
    exec (.keyPreviousDrop h) s = .next (setKeys h { keysOf s h with previous := none } s) := by
  have hnow : ¬ (awake s = false ∨ now s < e) := by simp [ha, ht]
  change execKeyPreviousDrop h s = _
  unfold execKeyPreviousDrop
  simp only [hprev, if_neg hnow]

end drop

section age
variable {k : Fin 1024} {c : LinkKey} (hcur : (keyOf s k).keys.current = some c)
include hcur

theorem execKeyAge_marks (ha : awake s = true) (hl : c.lifetime ≠ 0) (ht : c.activate * 6 + c.lifetime * 5 ≤ now s * 6) :
    exec (.keyAge k) s = .next (setKey k { keyOf s k with keyAge := true } s) := by
  have hage : awake s = true ∧ c.lifetime ≠ 0 ∧ c.activate * 6 + c.lifetime * 5 ≤ now s * 6 := ⟨ha, hl, ht⟩
  change execKeyAge k s = _
  unfold execKeyAge
  simp only [hcur, if_pos hage]

theorem execKeyAge_young (hy : awake s = false ∨ c.lifetime = 0 ∨ now s * 6 < c.activate * 6 + c.lifetime * 5) :
    exec (.keyAge k) s = .next s := by
  have hage : ¬ (awake s = true ∧ c.lifetime ≠ 0 ∧ c.activate * 6 + c.lifetime * 5 ≤ now s * 6) := by
    rintro ⟨ha, hl, ht⟩
    simp only [ha, hl, Bool.true_eq_false, false_or] at hy
    omega
  change execKeyAge k s = _
  unfold execKeyAge
  simp only [hcur, if_neg hage]

end age

end keyAges

/-! ## Removal (R385, R386) -/

section remove
variable {c : Latched} {s : State}

/-- A removal of a resident tenant changes its slot alone, where T_R is set once. -/
theorem removeDo_resident {t k : Nat} {x : KeySlot} (h : slotOfTenant s t = some (k, x)) :
    ∃ v, removeDo t s = .inr (k, v) ∧ v.cfg = s.cfg ∧ (x.st = .active → x.retireAt = none → (keyOf v k).retireAt = some (now s + 5000)) := by
  unfold removeDo
  simp only [h]
  by_cases hfirst : x.st = .active ∧ x.retireAt = none
  · rw [if_pos hfirst]
    exact ⟨_, rfl, rfl, fun _ _ => congrArg KeySlot.retireAt (keyOf_setKey_self (fun e => by simpa using congrArg KeySlot.retireAt e) k s)⟩
  · rw [if_neg hfirst]
    exact ⟨s, rfl, rfl, fun ha hr => absurd ⟨ha, hr⟩ hfirst⟩

variable (h : fwCmd s 0x11 = some c) (hg : fwGate s 0x11 c.req = none)
include h hg

theorem execTenantRemove_absent (hs : slotOfTenant s (rd c.req 0 2) = none) :
    exec .tenantRemove s = .next (answerFw stTenantRevoked [] s) := by
  have hrem : removeDo (rd c.req 0 2) s = .inl stTenantRevoked := by
    unfold removeDo
    rw [hs]
  refine congrArg Host.Outcome.next ((fwRun_passed h hg).trans ?_)
  simp only [hrem]

variable {k : Nat} {x : KeySlot} (hs : slotOfTenant s (rd c.req 0 2) = some (k, x))
include hs

theorem execTenantRemove_full (hfull : 16 ≤ s.cfg.outstanding.length) : exec .tenantRemove s = .next (answerFw stRetry [] s) := by
  obtain ⟨v, hrem, hcfg, -⟩ := removeDo_resident hs
  have hdefer : acceptDeferred c k v = none := if_pos (by rwa [hcfg])
  refine congrArg Host.Outcome.next ((fwRun_passed h hg).trans ?_)
  simp only [hrem, hdefer]

theorem execTenantRemove_deferred (hroom : s.cfg.outstanding.length < 16) : ∃ u, exec .tenantRemove s = .next u ∧ u.cfg.latched = none ∧
    u.cfg.busy = false ∧ u.cfg.deferred = true ∧ u.cfg.outstanding = s.cfg.outstanding ++ [⟨c.opcode, c.tag, k⟩] ∧
    (x.st = .active → x.retireAt = none → (keyOf u k).retireAt = some (now s + 5000)) := by
  obtain ⟨v, hrem, hcfg, hretire⟩ := removeDo_resident hs
  obtain ⟨u, hdefer, hu⟩ : ∃ u, acceptDeferred c k v = some u ∧ u.cfg.latched = none ∧ u.cfg.busy = false ∧ u.cfg.deferred = true ∧
      u.cfg.outstanding = v.cfg.outstanding ++ [⟨c.opcode, c.tag, k⟩] ∧ u.key = v.key :=
    ⟨_, if_neg (by rw [hcfg]; omega), rfl, rfl, rfl, rfl, rfl⟩
  obtain ⟨hlatched, hbusy, hdeferred, hout, hkey⟩ := hu
  refine ⟨u, congrArg Host.Outcome.next ((fwRun_passed h hg).trans ?_), hlatched, hbusy, hdeferred, hcfg ▸ hout, fun ha hr => ?_⟩
  · simp only [hrem, hdefer]
  · unfold keyOf at hretire ⊢
    rw [hkey]
    exact hretire ha hr

end remove

section retire
variable {k : Fin 1024} {t : Nat} {s : State} (hret : (keyOf s k).retireAt = some t)
include hret

theorem execTenantRetire_early (ht : now s < t) : exec (.tenantRetire k) s = .next s := by
  change execTenantRetire k s = _
  unfold execTenantRetire
  simp only [hret, ht, or_true, if_true]

theorem execTenantRetire_retires (hst : (keyOf s k).st = .active) (ha : awake s = true) (ht : t ≤ now s) :
    exec (.tenantRetire k) s = .next (retireActs (keyOf s k).tenant (setKey k { keyOf s k with st := .retiring } s)) := by
  have hdue : ¬ ((keyOf s k).st ≠ .active ∨ awake s = false ∨ now s < t) := by simp [hst, ha, ht]
  change execTenantRetire k s = _
  unfold execTenantRetire
  simp only [hret, if_neg hdue]

end retire

theorem retireActs_key (tenant : Nat) (s : State) : (retireActs tenant s).key = s.key :=
  (retireActs_frame tenant (Frame.refl [.catchment, .log, .cnt, .dir, .chan, .prog, .jx, .slu, .datum] s) rfl).same .key (by decide)

theorem keyOf_retireActs_setKey {x : KeySlot} (hx : x ≠ {}) (tenant k : Nat) (s : State) :
    keyOf (retireActs tenant (setKey k x s)) k = x := by
  have hself := keyOf_setKey_self hx k s
  unfold keyOf at hself ⊢
  rwa [retireActs_key]

/-- With an empty sluice the acts at T_R are those on the tenant's programs and sequences. -/
theorem retireActs_noSluice {s : State} (h : s.slu = {}) (tenant : Nat) :
    retireActs tenant s = ((s.dir.filter fun e => e.2.tenant == tenant && e.2.st != .releasing).map (·.1)).foldl (fun s k => releaseSeq k s)
      { s with prog := tmap s.prog fun _ (p : Prog) => if p.st = .installed ∧ p.tenant = tenant then { p with st := .draining } else p } := by
  unfold retireActs
  simp only [h, List.filter_nil, List.map_nil, List.foldl_nil]

section zeroise
variable {k : Fin 1024} {s : State}

theorem execTenantZeroise_zeroises (hst : (keyOf s k).st = .retiring) (ha : awake s = true) (hd : drainCount s k = 0)
    (ho : objectsFree s (keyOf s k).tenant = true) : ∃ t, exec (.tenantZeroise k) s = .next t ∧
      keyOf t k = { keyOf s k with st := .zeroising, memKey1 := 0, memKey2 := 0, keys := {}, sealCtr := 0, keyAge := false } := by
  change ∃ t, execTenantZeroise k s = .next t ∧ _
  unfold execTenantZeroise
  simp only [hst, ha, hd, ho, and_self, if_true]
  exact ⟨_, rfl, keyOf_setKey_self (fun e => by simpa using congrArg KeySlot.st e) k.val s⟩

theorem execTenantZeroise_empties (hst : (keyOf s k).st = .zeroising) :
    exec (.tenantZeroise k) s = .next (endRemoves k s.cfg.outstanding (setKey k { memGen := (keyOf s k).memGen } s)) := by
  change execTenantZeroise k s = _
  unfold execTenantZeroise
  simp only [hst]

theorem execTenantZeroise_waits (hw : (keyOf s k).st = .empty ∨ (keyOf s k).st = .active ∨
    ((keyOf s k).st = .retiring ∧ (awake s = false ∨ drainCount s k ≠ 0 ∨ objectsFree s (keyOf s k).tenant = false))) :
    exec (.tenantZeroise k) s = .next s := by
  change execTenantZeroise k s = _
  unfold execTenantZeroise
  obtain hst | hst | ⟨hst, hbusy⟩ := hw
  · simp only [hst]
  · simp only [hst]
  · have hdrained : ¬ (awake s = true ∧ drainCount s k = 0 ∧ objectsFree s (keyOf s k).tenant = true) := by
      rintro ⟨ha, hd, ho⟩
      simp [ha, hd, ho] at hbusy
    simp only [hst, if_neg hdrained]

end zeroise

/-! ## The sealed scrub (R387) -/

theorem tget_memZero {m : Tbl Byte} (h : twf 0 m = true) (a n x : Nat) :
    tget 0 (memZero m a n) x = if a ≤ x ∧ x < a + n then 0 else tget 0 m x := by
  simp only [twf, Bool.and_eq_true] at h
  unfold memZero tget
  rw [tlook_filter h.1]
  split
  · next hin =>
    have hcut : ¬ (x < a ∨ a + n ≤ x) := by omega
    cases tlook m x <;> simp [Option.filter, ← Bool.decide_or, hcut]
  · next hout =>
    have hkept : x < a ∨ a + n ≤ x := by omega
    cases tlook m x <;> simp [Option.filter, ← Bool.decide_or, hkept]

section scrub
variable {r : Fin 16} {ok : Bool} {a : Nat} {x : Store} {s : State}

theorem execSealedScrub_stops (h : awake s = false ∨ rgnFenced s r = true) : exec (.sealedScrub r ok) s = .next s :=
  congrArg Host.Outcome.next (if_pos h)

variable (ha : awake s = true) (hf : rgnFenced s r = false)
include ha hf

theorem execSealedScrub_frame (h : scrubFrame s r = some (a, x)) : exec (.sealedScrub r ok) s =
    .next { s with mem := { s.mem with fast := memZero s.mem.fast a x.size }, sto := { s.sto with fast := tdel s.sto.fast a } } := by
  change execSealedScrub r ok s = _
  unfold execSealedScrub
  simp only [ha, hf, h, Bool.true_eq_false, Bool.false_eq_true, or_self, if_false]

variable (hnone : scrubFrame s r = none) (hu : scrubUnit s r = some (a, x))
include hnone hu

theorem execSealedScrub_portFails : exec (.sealedScrub r false) s =
    .next (fencePort (a / 2 ^ 41) { s with sto := { s.sto with deep := tput s.sto.deep a { x with use := .fenced } } }) := by
  change execSealedScrub r false s = _
  unfold execSealedScrub
  simp only [ha, hf, hnone, hu, Bool.true_eq_false, Bool.false_eq_true, or_self, if_false]

theorem execSealedScrub_unit : exec (.sealedScrub r true) s =
    .next { s with mem := { s.mem with deep := memZero s.mem.deep a x.size }, sto := { s.sto with deep := tdel s.sto.deep a } } := by
  change execSealedScrub r true s = _
  unfold execSealedScrub
  simp only [ha, hf, hnone, hu, Bool.true_eq_false, Bool.false_eq_true, or_self, if_false, if_true]

end scrub

/-- Settles O54: by the refusals of an admission in their order, by what a holder's link keys become, and by a slot's way from T_R to EMPTY. -/
theorem tenantsComeAndGo : Obligations.TenantsComeAndGo := by
  unfold Obligations.TenantsComeAndGo
  refine ⟨fun c op s hmem => exec_fwOfSecurity_idle (List.mem_append_left _ hmem),
    fun c s h hg => congrArg Host.Outcome.next (fwRun_passed h hg), ?admission, fun b link k s hslot => ?into,
    fun k b link s hb => fillSlot_fields hb k link s, fun c s h hg => congrArg Host.Outcome.next (fwRun_passed h hg), ?install, ?activate,
    fun h s => execKeyActivate_waits, fun h c e s hprev => ⟨execKeyPreviousDrop_waits hprev, execKeyPreviousDrop_drops hprev⟩,
    fun k c s hcur => ⟨execKeyAge_marks hcur, execKeyAge_young hcur⟩,
    fun c s h hg => ⟨execTenantRemove_absent h hg, fun k x => execTenantRemove_full h hg, fun k x => execTenantRemove_deferred h hg⟩, ?retire,
    fun tenant s h => retireActs_noSluice h tenant, ?zeroise, fun k s => execTenantZeroise_empties, fun k s => execTenantZeroise_waits,
    fun r ok s => execSealedScrub_stops, ?scrub, fun r a x s ha hf hnone hu => ⟨execSealedScrub_portFails ha hf hnone hu,
      _, execSealedScrub_unit ha hf hnone hu, rfl, rfl⟩⟩
  case admission =>
    intro b s
    refine ⟨admitDo_malformed, fun k x hok => admitDo_resident hok, fun k x hok hnew => admitDo_rangeInUse hok hnew,
      fun k hok hnew => admitDo_open hok hnew, fun k key u hok hnew hrange hslot hp hblob => ⟨?_, ?_⟩⟩
    · rintro rfl
      exact admitDo_blobFails hok hnew hrange hslot hp hblob
    · rintro v rfl
      exact admitDo_protected hok hnew hrange hslot hp hblob
  case into => exact ⟨admitInto_noWindows hslot, fun w p u => admitInto_opened hslot⟩
  case install =>
    intro h tenant k b s
    refine ⟨installInto_tooSoon, fun key u hsoon hblob => ?_⟩
    rw [installInto_installs hsoon hblob, keysOf_keyPending]
    exact ⟨rfl, rfl, rfl⟩
  case activate =>
    intro h p s hp ha ht
    obtain ⟨t, hexec, hkeys⟩ := execKeyActivate_activates hp ha ht
    exact ⟨t, hexec, congrArg LinkKeys.current hkeys, congrArg LinkKeys.pending hkeys, congrArg LinkKeys.previous hkeys⟩
  case retire =>
    intro k t s hret hst ha
    refine ⟨execTenantRetire_early hret, fun ht => ⟨execTenantRetire_retires hret hst ha ht, ?_⟩⟩
    exact keyOf_retireActs_setKey (fun e => by simpa using congrArg KeySlot.st e) _ _ _
  case zeroise =>
    intro k s hst ha hd ho
    obtain ⟨t, hexec, hkey⟩ := execTenantZeroise_zeroises hst ha hd ho
    exact ⟨t, hexec, congrArg KeySlot.st hkey, congrArg KeySlot.memKey1 hkey, congrArg KeySlot.memKey2 hkey, congrArg KeySlot.keys hkey⟩
  case scrub =>
    intro r ok a x s ha hf h
    exact ⟨_, execSealedScrub_frame ha hf h, rfl, rfl, fun hw b => tget_memZero hw a x.size b⟩

end Sys2Proof.Proofs

/-! PROOF. Attestation, captured base lists, the fuses and the NVM's commands (17 R380-R384; 18 R398, Table 18.1; 20 R444). -/

namespace Sys2Proof.Proofs

open Sys2Proof.Machine Sys2Proof.Laws

/-! ## ATTEST (17 R382, R383) -/

section attest
variable {rb : Bool} {c : Latched} {s : State} (h : fwCmd s 0x13 = some c) (hg : fwGate s 0x13 c.req = none)
include h hg

theorem execAttest_absent (hs : slotOfTenant s (rd c.req 0 2) = none) : exec (.attest rb) s = .next (answerFw stTenantRevoked [] s) := by
  refine congrArg Host.Outcome.next ((fwRun_passed h hg).trans ?_)
  simp only [hs]

variable {k : Nat} {x : KeySlot} (hs : slotOfTenant s (rd c.req 0 2) = some (k, x))
include hs

theorem execAttest_inactive (hst : x.st ≠ .active) : exec (.attest rb) s = .next (answerFw stTenantRevoked [] s) := by
  refine congrArg Host.Outcome.next ((fwRun_passed h hg).trans ?_)
  simp only [hs, if_pos hst]

variable (hst : x.st = .active)
include hst

theorem execAttest_mismatch (hcert : s.sec.certMismatch = true) : exec (.attest rb) s = .next (answerFw stAccess [] s) := by
  refine congrArg Host.Outcome.next ((fwRun_passed h hg).trans ?_)
  simp only [hs, hst, hcert, ne_eq, not_true_eq_false, if_false, if_true]

variable (hcert : s.sec.certMismatch = false)
include hcert

theorem execAttest_overRate (hrate : attestTokens s < 1000000000) : exec (.attest rb) s = .next (answerFw stOverRate [] s) := by
  refine congrArg Host.Outcome.next ((fwRun_passed h hg).trans ?_)
  simp only [hs, hst, hcert, hrate, ne_eq, not_true_eq_false, Bool.false_eq_true, if_false, if_true]

variable (hrate : 1000000000 ≤ attestTokens s)
include hrate

theorem execAttest_noTree (hnext : s.sec.sigNext < 2 ^ 30) (htree : s.sec.trees.contains (s.sec.sigNext / 32768) = false) :
    exec (.attest rb) s = .next (answerFw stRetry [] s) := by
  refine congrArg Host.Outcome.next ((fwRun_passed h hg).trans ?_)
  simp only [hs, hst, hcert, Nat.not_lt.2 hrate, if_pos (And.intro hnext htree), ne_eq, not_true_eq_false, Bool.false_eq_true, if_false]

variable (htree : ¬ (s.sec.sigNext < 2 ^ 30 ∧ s.sec.trees.contains (s.sec.sigNext / 32768) = false)) {u : State}
include htree

theorem execAttest_unreserved {st : Nat} (hr : reserveKey rb s = (some st, u)) : exec (.attest rb) s = .next (answerFw st [] u) := by
  refine congrArg Host.Outcome.next ((fwRun_passed h hg).trans ?_)
  simp only [hs, hst, hcert, Nat.not_lt.2 hrate, if_neg htree, hr, ne_eq, not_true_eq_false, Bool.false_eq_true, if_false]

theorem execAttest_signs {report : Bytes} {v : State} (hr : reserveKey rb s = (none, u))
    (hsign : attestSign k (slice c.req 8 32) u = (report, v)) : exec (.attest rb) s = .next (answerFw stOk report v) := by
  refine congrArg Host.Outcome.next ((fwRun_passed h hg).trans ?_)
  simp only [hs, hst, hcert, Nat.not_lt.2 hrate, if_neg htree, hr, hsign, ne_eq, not_true_eq_false, Bool.false_eq_true, if_false]

end attest

/-- After the last of the keys no tree is missing, nor where the current one is built. -/
theorem not_treeMissing {s : State} (h : 2 ^ 30 ≤ s.sec.sigNext ∨ s.sec.trees.contains (s.sec.sigNext / 32768) = true) :
    ¬ (s.sec.sigNext < 2 ^ 30 ∧ s.sec.trees.contains (s.sec.sigNext / 32768) = false) := by
  rintro ⟨hnext, hmiss⟩
  obtain hlast | hhas := h
  · omega
  · exact Bool.false_ne_true (hmiss.symm.trans hhas)

/-- Each report advances the signing key, which no later report uses. -/
theorem attestSign_sigNext (k : Nat) (nonce : Bytes) (s : State) : (attestSign k nonce s).2.sec.sigNext = s.sec.sigNext + 1 := rfl

/-! ## The reservation of keys (17 R382) -/

section reserve
variable {s : State}

theorem reserveKey_stands (rb : Bool) (h : s.sec.sigNext ≠ s.sec.sigLimit) : reserveKey rb s = (none, s) := if_pos h

variable (h : s.sec.sigNext = s.sec.sigLimit)
include h

theorem reserveKey_exhausted (rb : Bool) (hlast : 2 ^ 30 < s.sec.sigLimit + 1024) :
    reserveKey rb s = (some stInternal, raise leafSigExhausted [] s) :=
  (if_neg (not_not.2 h)).trans (if_pos hlast)

variable (hroom : s.sec.sigLimit + 1024 ≤ 2 ^ 30)
include hroom

/-- A record that reads back reserves the next 1,024 keys. -/
theorem reserveKey_readBack : (reserveKey true s).1 = none ∧
    (reserveKey true s).2.sec = { s.sec with sigSeq := s.sec.sigSeq + 1, sigLimit := s.sec.sigLimit + 1024 } := by
  have hsec : (sigErase (sigNextAt s) (sigAppend s)).sec = s.sec :=
    (sigErase_frame _ (sigAppend_frame (Frame.refl [.mem] s) rfl) rfl).same .sec (by decide)
  unfold reserveKey
  simp only [h, hsec, Nat.not_lt.2 hroom, ne_eq, not_true_eq_false, if_false, if_true, and_self]

/-- A record that does not read back reserves none. -/
theorem reserveKey_fault : (reserveKey false s).1 = some stRetry ∧ (reserveKey false s).2.sec = s.sec := by
  have hsec : (raise leafSigStateFault [] (sigAppend s)).sec = s.sec :=
    (raise_frame _ _ (sigAppend_frame (Frame.refl [.catchment, .log, .mem] s) rfl) rfl).same .sec (by decide)
  unfold reserveKey
  simp only [h, hsec, Nat.not_lt.2 hroom, ne_eq, not_true_eq_false, Bool.false_eq_true, if_false, and_self]

end reserve

/-! ## Captured base lists and trees (17 R381, R384) -/

section bases
variable {c : Latched} {s : State} (h : fwCmd s 0x14 = some c) (hg : fwGate s 0x14 c.req = none)
include h hg

theorem execAttestBases_absent (hf : (tfind s.sec.lists fun _ l => l.sig == rd c.req 0 4 && listKept s l) = none) :
    exec .attestBases s = .next (answerFw stStateConflict [] s) := by
  refine congrArg Host.Outcome.next ((fwRun_passed h hg).trans ?_)
  simp only [hf]

theorem execAttestBases_lists {t k : Nat} {l : BaseList} {x : KeySlot}
    (hf : (tfind s.sec.lists fun _ l => l.sig == rd c.req 0 4 && listKept s l) = some (t, l)) (hs : slotOfTenant s t = some (k, x))
    (hst : x.st = .active) : let cur := rd c.req 4 4
    let part := (l.entries.drop cur).take 170
    exec .attestBases s = .next (answerFw stOk (leBytes 4 (if cur + part.length < l.entries.length then cur + part.length else 2 ^ 32 - 1) ++
      leBytes 4 part.length ++ List.replicate 8 0 ++ part.flatten) s) := by
  refine congrArg Host.Outcome.next ((fwRun_passed h hg).trans ?_)
  simp only [hf, hs, hst, ne_eq, not_true_eq_false, if_false]

end bases

section discard
variable {t : BitVec 12} {l : BaseList} {s : State} (h : tlook s.sec.lists t.toNat = some l)
include h

theorem execBaseListDiscard_keeps (ht : now s < l.at_ + 10000000000) : exec (.baseListDiscard t) s = .next s := by
  change execBaseListDiscard t s = _
  unfold execBaseListDiscard
  simp only [h, listKept, ht, decide_true, if_true]

theorem execBaseListDiscard_discards (ht : l.at_ + 10000000000 ≤ now s) :
    exec (.baseListDiscard t) s = .next { s with sec := { s.sec with lists := tdel s.sec.lists t.toNat } } := by
  change execBaseListDiscard t s = _
  unfold execBaseListDiscard
  simp only [h, listKept, Nat.not_lt.2 ht, decide_false, Bool.false_eq_true, if_false]

end discard

section tree
variable {k : Fin 32768} {s : State}

/-- Trees are built while the node runs, booted far enough to attest. -/
def buildsTrees (s : State) : Prop := awake s = true ∧ 4 ≤ s.cfg.phase ∧ s.cfg.phase ≠ 8 ∧ s.cfg.phase ≠ 9

theorem execHssTreeBuild_builds (hb : buildsTrees s) (hnew : s.sec.trees.contains k.val = false)
    (hk : k.val = s.sec.sigNext / 32768 ∨ (k.val = s.sec.sigNext / 32768 + 1 ∧ 16384 ≤ s.sec.sigNext % 32768)) :
    exec (.hssTreeBuild k) s = .next { s with sec := { s.sec with trees := insertBy id k.val s.sec.trees } } := by
  obtain ⟨ha, hlow, h8, h9⟩ := hb
  change execHssTreeBuild k s = _
  unfold execHssTreeBuild
  simp only [ha, Nat.not_lt.2 hlow, h8, h9, hnew, if_pos hk, Bool.true_eq_false, Bool.false_eq_true, or_self, if_false]

theorem execHssTreeBuild_stands (hold : s.sec.trees.contains k.val = true) : exec (.hssTreeBuild k) s = .next s :=
  congrArg Host.Outcome.next (if_pos (.inr (.inr (.inr (.inr hold)))))

theorem execHssTreeBuild_stays (hn : awake s = false ∨ (k.val ≠ s.sec.sigNext / 32768 ∧ k.val ≠ s.sec.sigNext / 32768 + 1)) :
    exec (.hssTreeBuild k) s = .next s := by
  obtain hsleep | ⟨hcur, hnext⟩ := hn
  · exact congrArg Host.Outcome.next (if_pos (.inl hsleep))
  · change execHssTreeBuild k s = _
    unfold execHssTreeBuild
    simp only [hcur, hnext, false_and, or_self, if_false, ite_self]

/-- Once it has run, the tree of the current index stands. -/
theorem execHssTreeBuild_current (hb : buildsTrees s) (hk : k.val = s.sec.sigNext / 32768) :
    ∃ t, exec (.hssTreeBuild k) s = .next t ∧ k.val ∈ t.sec.trees := by
  cases hold : s.sec.trees.contains k.val with
  | true => exact ⟨s, execHssTreeBuild_stands hold, List.contains_iff_mem.1 hold⟩
  | false => exact ⟨_, execHssTreeBuild_builds hb hold (.inl hk), (insertBy_perm id k.val s.sec.trees).mem_iff.2 List.mem_cons_self⟩

end tree

/-! ## NVM_WRITE (18 R398; 20 R444) -/

theorem writeMeets_iff (o n base size : Nat) : writeMeets o n base size = true ↔ 0 < n ∧ o < base + size ∧ base < o + n := by
  simp [writeMeets, Nat.pos_iff_ne_zero, and_assoc]

/-- The fields of an NVM_WRITE break its bounds, or its bytes lie beyond one slot (R444). -/
def nvmWriteBad (o n : Nat) : Prop :=
  o % 256 ≠ 0 ∨ n % 256 ≠ 0 ∨ n < 256 ∨ 32768 < n ∨ o / 0x2000000 ≠ (o + n - 1) / 0x2000000 ∨ 1 < o / 0x2000000

section nvmWrite
variable {o n : Nat} {s : State}

theorem nvmWriteStatus_signatures (h : writeMeets o n sigArea 0x410000 = true) : nvmWriteStatus s o n = stAccess := if_pos h

variable (hsig : ¬ writeMeets o n sigArea 0x410000 = true)
include hsig

theorem nvmWriteStatus_slotInUse (h : s.cfg.phase ≠ 8 ∧ writeMeets o n (s.cfg.slot * 0x2000000) 0x2000000 = true) :
    nvmWriteStatus s o n = stStateConflict := (if_neg hsig).trans (if_pos h)

variable (hslot : ¬ (s.cfg.phase ≠ 8 ∧ writeMeets o n (s.cfg.slot * 0x2000000) 0x2000000 = true))
include hslot

theorem nvmWriteStatus_malformed (h : nvmWriteBad o n) : nvmWriteStatus s o n = stMalformed :=
  (if_neg hsig).trans ((if_neg hslot).trans (if_pos h))

theorem nvmWriteStatus_ok (h : ¬ nvmWriteBad o n) : nvmWriteStatus s o n = stOk :=
  (if_neg hsig).trans ((if_neg hslot).trans (if_neg h))

end nvmWrite

section execNvmWrite
variable {c : Latched} {s : State} (h : fwCmd s 2 = some c) (hg : fwGate s 2 c.req = none)
include h hg

theorem execNvmWrite_refused {st : Nat} (hst : nvmWriteStatus s (rd c.req 0 4) (rd c.req 4 4) = st) (hne : st ≠ stOk) :
    exec .nvmWrite s = .next (answerFw st [] s) := by
  subst hst
  exact congrArg Host.Outcome.next ((fwRun_passed h hg).trans (if_pos hne))

theorem execNvmWrite_writes (hst : nvmWriteStatus s (rd c.req 0 4) (rd c.req 4 4) = stOk) :
    exec .nvmWrite s = .next (answerFw stOk [] (nvmProgram (rd c.req 0 4) (c.req.drop 64)
      ((sectorsFrom (rd c.req 0 4) (rd c.req 4 4)).foldl (fun s a => nvmErase a s) s))) :=
  congrArg Host.Outcome.next ((fwRun_passed h hg).trans (if_neg (not_not.2 hst)))

end execNvmWrite

/-- Settles O55: by ATTEST's refusals in their order, the reservation of its keys, the trees and lists kept, and what the status of a write says. -/
theorem attestationSignsOnce : Obligations.AttestationSignsOnce := by
  unfold Obligations.AttestationSignsOnce
  refine ⟨fun c op s hmem => ⟨exec_fwOfSecurity_idle (List.mem_append_right _ hmem),
      fun l st => exec_fwOfSecurity_refused (List.mem_append_right _ hmem)⟩,
    ?attest, ?reserve, fun c s h hg => ⟨execAttestBases_absent h hg, fun t l k x => execAttestBases_lists h hg⟩,
    fun t l s h => ⟨execBaseListDiscard_keeps h, execBaseListDiscard_discards h⟩,
    fun k s ha hlow h8 h9 => execHssTreeBuild_builds ⟨ha, hlow, h8, h9⟩, ?tree,
    fun c s h hg => congrArg Host.Outcome.next (fwRun_passed h hg), fun c s h hg => congrArg Host.Outcome.next (fwRun_passed h hg), ?write⟩
  case attest =>
    intro rb c s h hg
    refine ⟨execAttest_absent h hg, fun k x hs => ⟨execAttest_inactive h hg hs, execAttest_mismatch h hg hs, execAttest_overRate h hg hs,
      execAttest_noTree h hg hs, fun hst hcert hrate htree => ?_⟩⟩
    have hstands := not_treeMissing htree
    refine ⟨fun st u => execAttest_unreserved h hg hs hst hcert hrate hstands, fun u hr => ?_⟩
    have hnext := attestSign_sigNext k (slice c.req 8 32) u
    rcases hsign : attestSign k (slice c.req 8 32) u with ⟨report, v⟩
    rw [hsign] at hnext
    exact ⟨v, report, rfl, execAttest_signs h hg hs hst hcert hrate hstands hr hsign, hnext⟩
  case reserve =>
    intro rb s
    refine ⟨reserveKey_stands rb, fun h => reserveKey_exhausted h rb, fun h hroom => ?_⟩
    obtain ⟨hnone, hsec⟩ := reserveKey_readBack h hroom
    exact ⟨hnone, congrArg Sec.sigLimit hsec, congrArg Sec.sigSeq hsec, reserveKey_fault h hroom⟩
  case tree =>
    intro k s
    by_cases hcur : buildsTrees s ∧ k.val = s.sec.sigNext / 32768
    · obtain ⟨hb, hk⟩ := hcur
      obtain ⟨t, hexec, hmem⟩ := execHssTreeBuild_current hb hk
      refine ⟨t, hexec, fun _ _ _ _ _ => hmem, fun hn => ?_⟩
      exact Host.Outcome.next.inj (hexec.symm.trans (execHssTreeBuild_stays hn))
    · refine ⟨_, rfl, fun ha hlow h8 h9 hk => absurd ⟨⟨ha, hlow, h8, h9⟩, hk⟩ hcur, fun hn => ?_⟩
      exact Host.Outcome.next.inj (execHssTreeBuild_stays hn)
  case write =>
    intro c s h hg o n sigs booted malformed
    have hsigs : writeMeets o n sigArea 0x410000 = true ↔ sigs := writeMeets_iff _ _ _ _
    have hbooted : (s.cfg.phase ≠ 8 ∧ writeMeets o n (s.cfg.slot * 0x2000000) 0x2000000 = true) ↔ booted := by
      rw [writeMeets_iff]
      simp only [booted, Nat.succ_mul]
      tauto
    rw [← hsigs, ← hbooted]
    exact ⟨fun hs => execNvmWrite_refused h hg (nvmWriteStatus_signatures hs) (by decide),
      fun hs hb => execNvmWrite_refused h hg (nvmWriteStatus_slotInUse hs hb) (by decide),
      fun hs hb hm => execNvmWrite_refused h hg (nvmWriteStatus_malformed hs hb hm) (by decide),
      fun hs hb hm => ⟨_, execNvmWrite_writes h hg (nvmWriteStatus_ok hs hb hm), rfl⟩⟩

end Sys2Proof.Proofs

/-! PROOF. What every step keeps, what a step is, and the state after reset (00, 18 R400, 21 R461, 95). -/

namespace Sys2Proof.Proofs

open Sys2Proof.Machine Sys2Proof.Laws

/-! ## A step of the block -/

theorem step_of_idle {s : State} (h : s.pending = []) : step s = .next (idleTick s) := by
  unfold step
  rw [h]

theorem step_of_command {c : Instr} {rest : List Instr} {s : State} (h : s.pending = c :: rest) :
    step s = exec c { s with pending := rest } := by
  unfold step
  rw [h]

/-! ## Soundness -/

theorem sound_iff (s : State) : sound s = true ↔
    memOk s = true ∧ catchOk s.catchment = true ∧ ringsOk s.log = true ∧ claimOk s.svc = true ∧ pinsOk s = true := by
  simp only [sound, Bool.and_eq_true, and_assoc]

/-- A sound state is kept by itself. -/
theorem keep_refl {s : State} (h : sound s = true) : Keep s s := by
  obtain ⟨hmem, hcatch, hlog, hsvc, hpins⟩ := (sound_iff s).1 h
  exact ⟨rfl, fusesKept_of_eq rfl, hmem, hcatch, hlog, hsvc, hpins⟩

/-- What a sound state is kept by is sound. -/
theorem sound_of_keep {a s : State} (h : Keep a s) : sound s = true :=
  (sound_iff s).2 ⟨h.mem, h.catchment, h.log, h.svc, h.pins⟩

theorem exec_sound {c : Instr} {s t : State} (hs : sound s = true) (h : exec c s = .next t) : sound t = true :=
  sound_of_keep ((exec_keep c (keep_refl hs)).next t h)

/-- Settles O3: an idle tick and every command keep a sound state sound, and soundness does not read the queue. -/
theorem soundKeptByEveryStep : Obligations.SoundKeptByEveryStep := by
  intro s t hs h
  cases hq : s.pending with
  | nil =>
    obtain rfl := Host.Outcome.next.inj ((step_of_idle hq).symm.trans h)
    exact sound_of_keep (idleTick_keep (keep_refl hs))
  | cons c rest => exact exec_sound (s := { s with pending := rest }) hs ((step_of_command hq).symm.trans h)

/-! ## Reset -/

/-- Settles O1. -/
theorem soundAtReset : Obligations.SoundAtReset := by
  unfold Obligations.SoundAtReset
  rw [sound_iff]
  decide

theorem leafWidth_le (id : Nat) : leafWidth id ≤ 13 := by
  unfold leafWidth
  repeat' split
  all_goals omega

/-- A source none of whose enables has been cleared has them all. -/
theorem causeEnWord_of_unlisted {s : State} {id : Nat} (h : tlook s.catchment.dis id = none) : causeEnWord s id = 2 ^ leafWidth id - 1 := by
  have hlt : 2 ^ leafWidth id - 1 < 2 ^ 32 := by
    have := Nat.pow_lt_pow_right (a := 2) (by decide) (show leafWidth id < 32 by have := leafWidth_le id; omega)
    omega
  have hdis : tget 0 s.catchment.dis id = 0 := congrArg (·.getD 0) h
  rw [causeEnWord, hdis, Nat.xor_zero, Nat.and_two_pow_sub_one_of_lt_two_pow hlt]

/-- Settles O2: the tables of the state after reset are empty, so that every entry reads its default. -/
theorem resetValues : Obligations.ResetValues := by
  unfold Obligations.ResetValues
  exact ⟨rfl, rfl, rfl, fun i => ⟨rfl, causeEnWord_of_unlisted rfl⟩, rfl, rfl, fun _ => rfl, fun _ => ⟨rfl, rfl⟩, fun _ => ⟨rfl, rfl⟩, fun _ => rfl,
    fun _ => rfl, rfl, rfl, rfl, rfl, rfl, rfl, rfl, rfl, rfl, rfl⟩

/-- Settles O7. -/
theorem stepRunsTheFrontCommand : Obligations.StepRunsTheFrontCommand := fun _ _ _ h => step_of_command h

/-! ## What stops the block -/

theorem exec_answers {c : Instr} (h : ∀ rail mv, c ≠ .railFault rail mv) (s : State) : ∃ t, exec c s = .next t := by
  cases c
  case railFault rail mv => exact absurd rfl (h rail mv)
  all_goals exact ⟨_, rfl⟩

theorem execRailFault_ruined {rail : Rail} {mv : Nat} (h : railMax rail < mv) (s : State) :
    execRailFault rail mv s = .fault (.beyondAbsoluteMaximum rail) := if_pos h

theorem execRailFault_within {rail : Rail} {mv : Nat} (h : ¬ railMax rail < mv) (s : State) : ∃ t, execRailFault rail mv s = .next t :=
  ⟨_, if_neg h⟩

/-- Settles O6: RAIL_FAULT alone can answer anything but a next state. -/
theorem onlyRuinStopsTheBlock : Obligations.OnlyRuinStopsTheBlock := by
  intro c s
  by_cases hc : ∃ rail mv, c = .railFault rail mv
  · obtain ⟨rail, mv, rfl⟩ := hc
    by_cases hmax : railMax rail < mv
    · exact .inr ⟨rail, mv, rfl, hmax, execRailFault_ruined hmax s⟩
    · exact .inl (execRailFault_within hmax s)
  · exact .inl (exec_answers (fun rail mv h => hc ⟨rail, mv, h⟩) s)

/-! ## A tick of fabric time -/

theorem tick_eq (s : State) : tick s = { s with bmk := (tick s).bmk } := by
  unfold tick
  repeat' split
  all_goals rfl

theorem tick_stopped {s : State} (h : s.bmk.counting = false) : (tick s).bmk = s.bmk := by
  unfold tick
  rw [if_neg (by simp [h])]

theorem tick_bmkOnly {s : State} (h : s.bmk.counting = true) (hm : s.pwr.mode = .bmkOnly) :
    (tick s).bmk = { s.bmk with time := (s.bmk.time + (s.bmk.frac + 3906250) / 128) % 2 ^ 64, frac := (s.bmk.frac + 3906250) % 128 } := by
  unfold tick
  rw [if_pos h, if_pos hm]

theorem tick_awake {s : State} (h : s.bmk.counting = true) (hm : s.pwr.mode ≠ .bmkOnly) : (tick s).bmk = slewTick s.bmk := by
  unfold tick
  rw [if_pos h, if_neg hm]

theorem slewTick_steady {b : Bmk} (h : b.slew = 0) : slewTick b = { b with time := (b.time + 10) % 2 ^ 64 } := if_pos h

theorem slewStep_le (left : Int) : slewStep left ≤ 10 ∧ slewStep left ≤ left.natAbs := by
  have h := Nat.mod_lt (Config.slewNs left) (show 0 < min 10 left.natAbs + 1 by omega)
  unfold slewStep
  omega

/-- A tick adds its correction to the time and takes it from what the servo owes (log 71). -/
theorem slewTick_corrects (b : Bmk) : ∃ d : Int, -10 ≤ d ∧ d ≤ 10 ∧ (b.slew - d).natAbs ≤ b.slew.natAbs ∧
    slewTick b = { b with time := ((b.time : Int) + 10 + d).toNat % 2 ^ 64, slew := b.slew - d } := by
  obtain ⟨hten, howed⟩ := slewStep_le b.slew
  by_cases hzero : b.slew = 0
  · refine ⟨0, by omega, by omega, by omega, ?_⟩
    rw [slewTick_steady hzero, show ((b.time : Int) + 10 + 0).toNat = b.time + 10 by omega, Int.sub_zero]
  · by_cases hpos : 0 < b.slew
    · refine ⟨slewStep b.slew, by omega, by omega, by omega, ?_⟩
      rw [show ((b.time : Int) + 10 + slewStep b.slew).toNat = b.time + 10 + slewStep b.slew by omega]
      exact (if_neg hzero).trans (if_pos hpos)
    · refine ⟨-slewStep b.slew, by omega, by omega, by omega, ?_⟩
      rw [show ((b.time : Int) + 10 + -slewStep b.slew).toNat = b.time + 10 - slewStep b.slew by omega, Int.sub_neg]
      exact (if_neg hzero).trans (if_neg hpos)

/-! ## The regions at work at a tick (18 R405) -/

/-- One region of the pass over the regions. -/
def busyStep (s : State) (r : Nat) : State := if regionIdle s r then s else markBusy r s

/-- The regions of `l` that are at work have been so up to now. -/
def busyPass (l : List Nat) (s : State) : State := l.foldl busyStep s

theorem busyStep_eq (s : State) (r : Nat) : busyStep s r = { s with rgn := (busyStep s r).rgn } := by
  unfold busyStep
  split <;> rfl

theorem regionIdle_busyStep (s : State) (r x : Nat) : regionIdle (busyStep s r) x = regionIdle s x := by
  rw [busyStep_eq]
  rfl

theorem now_busyStep (s : State) (r : Nat) : now (busyStep s r) = now s := by
  rw [busyStep_eq]
  rfl

theorem rgnOf_busyStep (s : State) (r x : Nat) :
    rgnOf (busyStep s r) x = if x = r ∧ regionIdle s x = false then { rgnOf s x with busyAt := now s } else rgnOf s x := by
  unfold busyStep
  by_cases hx : x = r
  · subst hx
    cases regionIdle s x <;> simp [markBusy]
  · refine Eq.trans ?_ (if_neg fun h => hx h.1).symm
    split
    · rfl
    · exact rgnOf_setRgn_of_ne hx _ s

theorem busyPass_eq (l : List Nat) (s : State) : busyPass l s = { s with rgn := (busyPass l s).rgn } := by
  induction l generalizing s with
  | nil => rfl
  | cons r rs ih =>
    calc busyPass rs (busyStep s r) = { busyStep s r with rgn := (busyPass rs (busyStep s r)).rgn } := ih _
      _ = { s with rgn := (busyPass rs (busyStep s r)).rgn } :=
        congrArg (fun t : State => { t with rgn := (busyPass rs (busyStep s r)).rgn }) (busyStep_eq s r)

theorem rgnOf_busyPass (l : List Nat) (s : State) (x : Nat) :
    rgnOf (busyPass l s) x = if x ∈ l ∧ regionIdle s x = false then { rgnOf s x with busyAt := now s } else rgnOf s x := by
  induction l generalizing s with
  | nil => simp [busyPass]
  | cons r rs ih =>
    refine (ih (busyStep s r)).trans ?_
    rw [regionIdle_busyStep, now_busyStep, rgnOf_busyStep]
    by_cases hx : x = r <;> cases regionIdle s x <;> simp [hx]

/-- What a tick does to the whole state. -/
theorem idleTick_eq (s : State) : idleTick s = { s with bmk := (tick s).bmk, rgn := (busyPass (List.range 16) (tick s)).rgn } := by
  calc idleTick s = { tick s with rgn := (busyPass (List.range 16) (tick s)).rgn } := busyPass_eq (List.range 16) (tick s)
    _ = _ := congrArg (fun t : State => { t with rgn := (busyPass (List.range 16) (tick s)).rgn }) (tick_eq s)

theorem regionIdle_tick (s : State) (r : Nat) : regionIdle (tick s) r = regionIdle s r := by
  rw [tick_eq]
  rfl

theorem rgnOf_tick (s : State) (r : Nat) : rgnOf (tick s) r = rgnOf s r := by
  rw [tick_eq]
  rfl

/-- Settles O8: what the tick does to the clock by its cases, and the pass over the regions to each of them. -/
theorem emptyQueueTicks : Obligations.EmptyQueueTicks := by
  intro s hq
  refine ⟨_, _, (step_of_idle hq).trans (congrArg Host.Outcome.next (idleTick_eq s)), fun r hr => ?_, tick_stopped,
    fun hc hm hs => (tick_awake hc hm).trans (slewTick_steady hs), fun hc hm => ?_, tick_bmkOnly⟩
  · refine (rgnOf_busyPass (List.range 16) (tick s) r).trans ?_
    rw [regionIdle_tick, rgnOf_tick]
    cases regionIdle s r <;> simp [hr, now]
  · obtain ⟨d, hlow, hhigh, howed, htick⟩ := slewTick_corrects s.bmk
    rw [tick_awake hc hm, htick]
    exact ⟨d, hlow, hhigh, rfl, howed, rfl⟩

end Sys2Proof.Proofs

/-! PROOF. The gate of BAR0 and the catchment: claims, completions and the configuration (19 R414-R420; 20 R434). -/

namespace Sys2Proof.Proofs

open Sys2Proof.Machine Sys2Proof.Laws

/-! ## The gate of a register write -/

/-- The control dies hold the blocks below the network dies' themselves (20 Table 20.2). -/
theorem offsetReachable_of_low {off : Nat} (h : off < 0x400000) (s : State) : offsetReachable off s = true := by
  have hdie : dieOfOff off = none := by
    unfold dieOfOff
    rw [if_neg (by omega), if_neg (by omega), if_neg (by omega), if_neg (by omega)]
  unfold offsetReachable
  rw [hdie]

theorem writerGate_firmware {off : Nat} {s : State} (ha : awake s = true) (hr : offsetReachable off s = true) (act : State → State) :
    writerGate .firmware off s act = act s := if_pos (by rw [ha, hr]; rfl)

theorem writerGate_host {rid : BitVec 16} {off : Nat} {s : State} (h : svcClaimGate rid true off s = (true, s))
    (hd : offsetDecoded off s = true) (hr : offsetReachable off s = true) (act : State → State) :
    writerGate (.host rid) off s act = svcAnswer .written (act s) := by
  unfold writerGate
  simp only [h, hd, hr, Bool.and_self, if_true]

/-! ## Bringing the offers up to date changes the offers alone -/

@[simp] theorem srcCfg_settle (s : State) (id : Nat) : srcCfg (settle s).catchment id = srcCfg s.catchment id := by
  simp [srcCfg, settle]

@[simp] theorem tgtStack_settle (s : State) (t : Nat) : tgtStack (settle s).catchment t = tgtStack s.catchment t := by
  simp [tgtStack, settle]

/-! ## Claims (19 R418, R420) -/

/-- The catchment after target `t` has claimed the offer `o`, before the offers are brought up to date. -/
def claimed (t : Nat) (o : Offer) (c : Catchment) : Catchment :=
  { setSrc o.src { srcCfg c o.src with st := .active, last := t } c with
    offer := tdel c.offer t
    stack := tset [] c.stack t ((o.src, (srcCfg c o.src).prio) :: tgtStack c t) }

theorem claimTarget_nothing {t : Nat} {s : State} (h : tlook s.catchment.offer t = none) : claimTarget t s = s := by
  unfold claimTarget
  rw [h]

theorem claimTarget_offered {t : Nat} {s : State} {o : Offer} (h : tlook s.catchment.offer t = some o) :
    claimTarget t s = settle { s with catchment := claimed t o s.catchment } := by
  unfold claimTarget
  rw [h]
  rfl

theorem offeredSource_nothing {t : Nat} {s : State} (h : tlook s.catchment.offer t = none) : offeredSource t s = 0 := by
  unfold offeredSource
  rw [h]

theorem offeredSource_offered {t : Nat} {s : State} {o : Offer} (h : tlook s.catchment.offer t = some o) : offeredSource t s = o.src := by
  unfold offeredSource
  rw [h]

theorem srcCfg_claimed (t : Nat) (o : Offer) (c : Catchment) :
    srcCfg (claimed t o c) o.src = { srcCfg c o.src with st := .active, last := t } :=
  tget_tset_self (d := ({} : SrcCfg)) (fun h => by simpa using congrArg SrcCfg.st h) _ _

theorem tgtStack_claimed (t : Nat) (o : Offer) (c : Catchment) :
    tgtStack (claimed t o c) t = (o.src, (srcCfg c o.src).prio) :: tgtStack c t :=
  tget_tset_self (List.cons_ne_nil _ _) _ _

/-- A core claims at its own register. -/
theorem execCatchTgtClaim_core {t : Fin 9} {s : State} (ha : awake s = true) (ht : t.val ≠ 8) :
    exec (.catchTgtClaim .firmware t) s = .next (claimTarget t s) :=
  congrArg Host.Outcome.next (if_pos (by simp [ha, ht]))

theorem execCatchTgtClaim_host {rid : BitVec 16} {t : Fin 9} {s : State} (h : svcClaimGate rid false (0x10100 + t * 0x10) s = (true, s)) :
    exec (.catchTgtClaim (.host rid) t) s = .next (if t.val = 8 && offsetDecoded 0x10180 s then
      svcAnswer (.data (leBytes 4 (offeredSource 8 s))) (claimTarget 8 s) else svcAnswer (.data (leBytes 4 0)) s) := by
  change execCatchTgtClaim (.host rid) t s = _
  unfold execCatchTgtClaim
  simp only [h]

/-- The tray controller claims at target 8. -/
theorem execCatchTgtClaim_tray {rid : BitVec 16} {s : State} (h : svcClaimGate rid false 0x10180 s = (true, s))
    (hd : offsetDecoded 0x10180 s = true) :
    exec (.catchTgtClaim (.host rid) 8) s = .next (svcAnswer (.data (leBytes 4 (offeredSource 8 s))) (claimTarget 8 s)) :=
  (execCatchTgtClaim_host (t := 8) h).trans (congrArg Host.Outcome.next (if_pos (by rw [hd]; rfl)))

/-- Priorities fall strictly from the top of a nested stack, so that it holds at most one entry more than its top priority. -/
theorem length_le_of_nested {a : Nat × Nat} {rest : List (Nat × Nat)} (h : nested (a :: rest) = true) :
    rest.length ≤ a.2 ∧ a.2 ≤ 15 := by
  induction rest generalizing a with
  | nil => exact ⟨Nat.zero_le _, of_decide_eq_true h⟩
  | cons b rest ih =>
    simp only [nested, Bool.and_eq_true, decide_eq_true_eq] at h
    obtain ⟨⟨htop, hfall⟩, hrest⟩ := h
    have hlen := (ih hrest).1
    exact ⟨by rw [List.length_cons]; omega, htop⟩

theorem tgtStack_nested {c : Catchment} (h : catchOk c = true) (t : Nat) : tgtStack c t = [] ∨ nested (tgtStack c t) = true := by
  unfold tgtStack tget
  cases hl : tlook c.stack t with
  | none => exact .inl rfl
  | some l => exact .inr (((catchOk_iff c).1 h).2.2 _ (mem_tlook hl))

theorem tgtStack_length_le {s : State} (h : sound s = true) (t : Nat) : (tgtStack s.catchment t).length ≤ 16 := by
  obtain ⟨-, hcatch, -⟩ := (sound_iff s).1 h
  rcases tgtStack_nested hcatch t with hnil | hnest
  · simp [hnil]
  · cases hst : tgtStack s.catchment t with
    | nil => simp
    | cons a rest =>
      have hlen := length_le_of_nested (hst ▸ hnest)
      rw [List.length_cons]
      omega

/-- Settles O10. -/
theorem claimPushesTheOfferedSource : Obligations.ClaimPushesTheOfferedSource := by
  unfold Obligations.ClaimPushesTheOfferedSource
  refine ⟨fun t s ha ht ho => ?_, fun t s o ha ht ho => ?_, fun rid s hg hd ho => ?_, fun rid s o hg hd ho => ?_,
    fun rid t s ht hg => ?_, fun s t hs => tgtStack_length_le hs t⟩
  · rw [execCatchTgtClaim_core ha ht, claimTarget_nothing ho]
  · refine ⟨_, (execCatchTgtClaim_core ha ht).trans (congrArg Host.Outcome.next (claimTarget_offered ho)), ?_, ?_, rfl⟩
    · exact (srcCfg_settle _ _).trans (srcCfg_claimed _ _ _)
    · exact (tgtStack_settle _ _).trans (tgtStack_claimed _ _ _)
  · rw [execCatchTgtClaim_tray hg hd, claimTarget_nothing ho, offeredSource_nothing ho]
    rfl
  · rw [execCatchTgtClaim_tray hg hd, claimTarget_offered ho, offeredSource_offered ho]
    exact ⟨_, rfl, rfl, (srcCfg_settle _ _).trans (srcCfg_claimed _ _ _), (tgtStack_settle _ _).trans (tgtStack_claimed _ _ _), rfl⟩
  · rw [execCatchTgtClaim_host hg, if_neg (by simp [ht])]
    rfl

/-! ## Completions (19 R419) -/

theorem completeTarget_top {t id p : Nat} {rest : List (Nat × Nat)} {s : State} (h : tgtStack s.catchment t = (id, p) :: rest) :
    completeTarget t id s = settle { s with catchment :=
      { setSrc id { srcCfg s.catchment id with st := srcCompletes (srcCfg s.catchment id).st } s.catchment with
        stack := tset [] s.catchment.stack t rest } } := by
  unfold completeTarget
  rw [h]
  exact if_pos rfl

theorem completeTarget_other {t id : Nat} {top : Nat × Nat} {s : State} (h : (tgtStack s.catchment t).head? = some top) (hne : top.1 ≠ id) :
    completeTarget t id s = raise leafCatchStackFault [(40, 1, t), (41, 1, id), (42, 1, top.1)] s := by
  obtain ⟨rest, hst⟩ := List.head?_eq_some_iff.1 h
  unfold completeTarget
  rw [hst]
  exact if_neg hne

theorem completeTarget_empty {t id : Nat} {s : State} (h : tgtStack s.catchment t = []) :
    completeTarget t id s = raise leafCatchStackFault [(40, 1, t), (41, 1, id), (42, 1, 0)] s := by
  unfold completeTarget
  rw [h]

/-- Settles O11. -/
theorem completionPopsOnlyTheTop : Obligations.CompletionPopsOnlyTheTop := by
  unfold Obligations.CompletionPopsOnlyTheTop
  refine ⟨fun t id s ha ht => congrArg Host.Outcome.next (if_pos (by simp [ha, ht])), fun rid t id s hg hd => ?_,
    fun t id p rest s h => completeTarget_top h, fun t id top s h hne => ?_, fun t id s h => ?_⟩
  · have hr := offsetReachable_of_low (off := 0x10104 + t * 0x10) (by omega) s
    exact congrArg Host.Outcome.next (writerGate_host hg hd hr _)
  · rw [completeTarget_other h hne]
    exact ⟨rfl, raise_stack _ _ _⟩
  · rw [completeTarget_empty h]
    exact ⟨rfl, raise_stack _ _ _⟩

/-! ## Writes of the configuration (19 R414, R416, R417, R420) -/

/-- CATCH_CTRL after a write of firmware's. -/
theorem execCatchCtrlWrite_firmware {s : State} (ha : awake s = true) (v : BitVec 32) : exec (.catchCtrlWrite .firmware v) s =
    .next (settle { s with catchment := { s.catchment with globalEn := v.getLsbD 0, tgtEn := (v >>> 8).setWidth 9 } }) :=
  congrArg Host.Outcome.next (writerGate_firmware ha (offsetReachable_of_low (by decide) s) _)

theorem execCatchCtrlWrite_host {rid : BitVec 16} {s : State} (hg : svcClaimGate rid true 0x10000 s = (true, s))
    (hd : offsetDecoded 0x10000 s = true) (v : BitVec 32) : exec (.catchCtrlWrite (.host rid) v) s =
    .next (svcAnswer .written (settle { s with catchment := { s.catchment with
      tgtEn := (s.catchment.tgtEn &&& 0xFF) ||| ((v >>> 8).setWidth 9 &&& 0x100) } })) :=
  congrArg Host.Outcome.next (writerGate_host hg hd (offsetReachable_of_low (by decide) s) _)

/-- CAUSE_EN of source `id` holds the defined bits of `v`, before the source fires. -/
def causeEnSet (id v : Nat) (s : State) : State :=
  { s with catchment := { s.catchment with
      dis := tset 0 s.catchment.dis id ((2 ^ leafWidth id - 1) ^^^ (v &&& (2 ^ leafWidth id - 1))) } }

theorem writeCauseEn_quiet {id v : Nat} {s : State} (h : newlyEnabled s id (v &&& (2 ^ leafWidth id - 1)) = 0) :
    writeCauseEn id v s = causeEnSet id v s := if_neg (by rw [h]; decide)

theorem writeCauseEn_fires {id v : Nat} {s : State} (h : newlyEnabled s id (v &&& (2 ^ leafWidth id - 1)) ≠ 0) :
    writeCauseEn id v s = fireSource id (causeEnSet id v s) := if_pos (bne_iff_ne.2 h)

theorem fireSource_dis (id : Nat) (s : State) : (fireSource id s).catchment.dis = s.catchment.dis := settleOffers_dis _ _

theorem fireSource_src (id : Nat) (s : State) : (fireSource id s).catchment.src =
    tset {} s.catchment.src id { srcCfg s.catchment id with st := srcFires (srcCfg s.catchment id).st } := settleOffers_src _ _

/-- A write of CAUSE_EN sets the enables; the source fires exactly when a set cause is newly enabled (R416). -/
theorem writeCauseEn_spec (id v : Nat) (s : State) :
    (writeCauseEn id v s).catchment.dis = (causeEnSet id v s).catchment.dis ∧
    (writeCauseEn id v s).catchment.cause = s.catchment.cause ∧
    (newlyEnabled s id (v &&& (2 ^ leafWidth id - 1)) = 0 → (writeCauseEn id v s).catchment.src = s.catchment.src) ∧
    (newlyEnabled s id (v &&& (2 ^ leafWidth id - 1)) ≠ 0 → (writeCauseEn id v s).catchment.src =
      tset {} s.catchment.src id { srcCfg s.catchment id with st := srcFires (srcCfg s.catchment id).st }) := by
  by_cases h : newlyEnabled s id (v &&& (2 ^ leafWidth id - 1)) = 0
  · rw [writeCauseEn_quiet h]
    exact ⟨rfl, rfl, fun _ => rfl, fun hn => absurd h hn⟩
  · rw [writeCauseEn_fires h]
    exact ⟨fireSource_dis _ _, fireSource_cause _ _, fun hz => absurd hz h, fun _ => fireSource_src _ _⟩

/-- Settles O12. -/
theorem offersFollowTheConfiguration : Obligations.OffersFollowTheConfiguration := by
  unfold Obligations.OffersFollowTheConfiguration
  refine ⟨fun v s ha => ⟨_, execCatchCtrlWrite_firmware ha v, ?_⟩, fun rid v s hg hd => ⟨_, execCatchCtrlWrite_host hg hd v, ?_⟩,
    fun src v s ha hne => ?_, fun rid src v s hne hg hd => ?_, fun src v s ha hr => ?_, fun t s => ?_⟩
  · exact ⟨settleOffers_globalEn _ _, settleOffers_tgtEn _ _, settleOffers_src _ _, settleOffers_stack _ _, settleOffers_cause _ _,
      fun hoff => settleOffers_disabled _ _ hoff⟩
  · exact ⟨rfl, settleOffers_globalEn _ _, settleOffers_tgtEn _ _, settleOffers_src _ _⟩
  · have hr := offsetReachable_of_low (off := 0x11000 + 4 * src) (by omega) s
    exact congrArg Host.Outcome.next ((writerGate_firmware ha hr _).trans (if_neg hne))
  · have hr := offsetReachable_of_low (off := 0x11000 + 4 * src) (by omega) s
    exact congrArg Host.Outcome.next ((writerGate_host hg hd hr _).trans (congrArg (svcAnswer .written) (if_neg hne)))
  · exact ⟨_, congrArg Host.Outcome.next (writerGate_firmware ha hr _), writeCauseEn_spec _ _ _⟩
  · change execCatchOfferTimeout t s = _
    unfold execCatchOfferTimeout
    cases tlook s.catchment.offer t <;> rfl

end Sys2Proof.Proofs

/-! PROOF. The barrier units (19 R422-R426, Table 19.5). -/

namespace Sys2Proof.Proofs

open Sys2Proof.Machine Sys2Proof.Laws

/-! ## Reading a unit after a write -/

theorem barrierOf_raise (l : Leaf) (d : Detail) (s : State) (c : Nat) : barrierOf (raise l d s) c = barrierOf s c := by
  rw [raise_eq]
  rfl

theorem barrierOf_setBarrier {s : State} (h : twf {} s.barrier = true) (b c : Nat) (u : Barrier) :
    barrierOf (setBarrier b u s) c = if c = b then u else barrierOf s c := by
  simp only [twf, Bool.and_eq_true] at h
  exact tget_tset h.1 {} b c u

/-- A unit that has left IDLE is listed, and read back whatever the table. -/
theorem barrierOf_setBarrier_left {u : Barrier} (h : u.st ≠ .idle) (b c : Nat) (s : State) :
    barrierOf (setBarrier b u s) c = if c = b then u else barrierOf s c := by
  have hne : u ≠ {} := fun hu => h (congrArg Barrier.st hu)
  by_cases hc : c = b
  · subst hc
    rw [if_pos rfl]
    exact tget_tset_self hne _ _
  · rw [if_neg hc]
    exact tget_tset_other hne _ hc

/-! ## The operations by the unit's state (Table 19.5) -/

section operations
variable {b : Fin 64} {s : State}

theorem execBarrierArm_masked {mask : BitVec 32} (hm : mask ≠ 0) : exec (.barrierArm b mask) s = .next (
    if (barrierOf s b).st = .idle then setBarrier b { mask := mask, arrived := 0, st := .armed, gen := (barrierOf s b).gen } s
    else raise leafBarrierBusy [] s) := by
  change execBarrierArm b mask s = _
  unfold execBarrierArm
  rw [if_neg hm]
  cases (barrierOf s b).st <;> rfl

/-- An armed unit that a participant of its mask reaches. -/
theorem barrierArrived_eq (u : Barrier) (p : Nat) : barrierArrived u p =
    if u.arrived ||| (1 <<< p) = u.mask then { u with arrived := u.mask, st := .done, gen := u.gen + 1 }
    else { u with arrived := u.arrived ||| (1 <<< p) } := by
  unfold barrierArrived
  simp only
  split
  · next h => rw [h]
  · rfl

theorem execBarrierArrive_stray {p : Fin 32} (h : (barrierOf s b).st = .idle ∨ (barrierOf s b).mask.getLsbD p = false) :
    exec (.barrierArrive b p) s = .next (raise leafBarrierStray [] s) := by
  refine congrArg Host.Outcome.next ?_
  by_cases hidle : (barrierOf s b).st = .idle
  · exact if_pos hidle
  · exact (if_neg hidle).trans (if_pos (h.resolve_left hidle))

theorem execBarrierArrive_named {p : Fin 32} (h : ¬ ((barrierOf s b).st = .idle ∨ (barrierOf s b).mask.getLsbD p = false)) :
    exec (.barrierArrive b p) s =
      .next (if (barrierOf s b).st = .armed then setBarrier b (barrierArrived (barrierOf s b) p) s else s) := by
  obtain ⟨hidle, hmask⟩ := not_or.1 h
  exact congrArg Host.Outcome.next ((if_neg hidle).trans (if_neg hmask))

theorem execBarrierRelease_eq : exec (.barrierRelease b) s = .next (
    if (barrierOf s b).st = .idle then s
    else if (barrierOf s b).st = .armed then raise leafBarrierBroken [] (setBarrier b { barrierOf s b with st := .broken } s)
    else setBarrier b { mask := 0, arrived := 0, st := .idle, gen := (barrierOf s b).gen } s) := by
  change execBarrierRelease b s = _
  unfold execBarrierRelease
  simp only
  cases (barrierOf s b).st <;> rfl

end operations

/-! ## A participant is fenced -/

/-- An armed unit waits for participant `p`. -/
def awaits (p : Nat) (u : Barrier) : Bool := u.st == .armed && u.mask.getLsbD p && !u.arrived.getLsbD p

theorem awaits_iff (p : Nat) (u : Barrier) :
    awaits p u = true ↔ u.st = .armed ∧ u.mask.getLsbD p = true ∧ u.arrived.getLsbD p = false := by
  simp [awaits, and_assoc]

/-- The unit with its wait broken off. -/
def broken (u : Barrier) : Barrier := { u with st := .broken }

/-- One unit breaks. -/
def breakUnit (s : State) (e : Nat × Barrier) : State := raise leafBarrierBroken [] (setBarrier e.1 (broken e.2) s)

theorem barrierFenced_eq (p : Nat) (s : State) : barrierFenced p s = (s.barrier.filter fun e => awaits p e.2).foldl breakUnit s := rfl

theorem barrierOf_breakUnit (s : State) (e : Nat × Barrier) (c : Nat) :
    barrierOf (breakUnit s e) c = if c = e.1 then broken e.2 else barrierOf s c :=
  (barrierOf_raise _ _ _ _).trans (barrierOf_setBarrier_left (by simp [broken]) _ _ _)

/-- Each unit of a sorted list breaks, and the others stay. -/
theorem barrierOf_breakUnits {lo : Nat} {l : Tbl Barrier} (h : tsortedFrom lo l = true) (s : State) (c : Nat) :
    barrierOf (l.foldl breakUnit s) c = ((tlook l c).map broken).getD (barrierOf s c) := by
  induction l generalizing lo s with
  | nil => rfl
  | cons e l ih =>
    obtain ⟨k, u⟩ := e
    simp only [tsortedFrom, Bool.and_eq_true] at h
    rw [List.foldl_cons, ih h.2, barrierOf_breakUnit]
    by_cases hk : c = k
    · subst hk
      simp [tlook, tlook_below h.2 (Nat.lt_succ_self c)]
    · by_cases hlt : c < k
      · simp [tlook, Ne.symm hk, hk, hlt, tlook_below h.2 (Nat.lt_succ_of_lt hlt)]
      · simp [tlook, Ne.symm hk, hk, hlt]

theorem barrierOf_barrierFenced {s : State} (h : twf {} s.barrier = true) (p c : Nat) :
    barrierOf (barrierFenced p s) c = if awaits p (barrierOf s c) = true then broken (barrierOf s c) else barrierOf s c := by
  simp only [twf, Bool.and_eq_true] at h
  rw [barrierFenced_eq, barrierOf_breakUnits (filter_sorted _ h.1), tlook_filter h.1]
  unfold barrierOf tget
  cases tlook s.barrier c with
  | none => rfl
  | some u => cases hu : awaits p u <;> simp [Option.filter, hu]

theorem barrierFenced_unawaited {p : Nat} {s : State} (h : ∀ e ∈ s.barrier, ¬ awaits p e.2 = true) : barrierFenced p s = s := by
  rw [barrierFenced_eq, List.filter_eq_nil_iff.2 h]
  rfl

theorem breakUnit_causesStay (s : State) (e : Nat × Barrier) : CausesStay s (breakUnit s e) :=
  (causesStay_of_eq (s := s) (t := setBarrier e.1 (broken e.2) s) rfl).trans (raise_causesStay _ _ (setBarrier e.1 (broken e.2) s))

theorem barrierFenced_causeSet {p : Nat} {s : State} {e : Nat × Barrier} (he : e ∈ s.barrier) (hw : awaits p e.2 = true) :
    causeSet leafBarrierBroken (barrierFenced p s) := by
  rw [barrierFenced_eq]
  cases hl : s.barrier.filter fun e => awaits p e.2 with
  | nil => exact absurd hw (List.filter_eq_nil_iff.1 hl e he)
  | cons x l => exact (causesStay_foldl breakUnit_causesStay l _).set (raise_causeSet _ _ _)

/-- Settles O13: the operations by the unit's state, and the pass over the units that wait for a fenced participant. -/
theorem barrierAnswersByState : Obligations.BarrierAnswersByState := by
  unfold Obligations.BarrierAnswersByState
  refine ⟨fun b mask s => ?_, fun b p s => ?_, fun b s => execBarrierRelease_eq, fun b c u s h => barrierOf_setBarrier h b c u,
    fun p c s h => ?_, fun p s => ⟨fun hn => ?_, fun ⟨e, he, hw⟩ => barrierFenced_causeSet he ((awaits_iff p e.2).2 hw)⟩⟩
  · by_cases hm : mask = 0
    · rw [if_pos hm]
      exact congrArg Host.Outcome.next (if_pos hm)
    · rw [if_neg hm]
      exact execBarrierArm_masked hm
  · intro u
    by_cases hstray : u.st = .idle ∨ u.mask.getLsbD p = false
    · rw [if_pos hstray]
      exact execBarrierArrive_stray hstray
    · rw [if_neg hstray, execBarrierArrive_named hstray]
      by_cases harmed : u.st = .armed
      · rw [if_pos harmed, if_neg (not_not.2 harmed), barrierArrived_eq]
        split <;> rfl
      · rw [if_neg harmed, if_pos harmed]
  · rw [barrierOf_barrierFenced h]
    simp only [awaits_iff]
    rfl
  · exact barrierFenced_unawaited fun e he hw => hn e he ((awaits_iff p e.2).1 hw)

end Sys2Proof.Proofs

/-! PROOF. The service function: the claim, the command window and its answers, telemetry over I2C (20 R434, R435, R440-R442, R447). -/

namespace Sys2Proof.Proofs

open Sys2Proof.Machine Sys2Proof.Laws

/-! ## The claim check (20 R434) -/

section claimGate
variable {rid : BitVec 16} {off : Nat} {s : State}

theorem svcClaimGate_silent (hd : svcDecodes s = false) (write : Bool) :
    svcClaimGate rid write off s = (false, svcAnswer .noDecode s) := if_pos (by rw [hd]; rfl)

variable (hd : svcDecodes s = true)
include hd

theorem svcClaimGate_foreign (ho : s.svc.owned = true) (hr : s.svc.ownerRid ≠ rid) :
    svcClaimGate rid true off s = (false, svcAnswer .discarded (svcForeign s)) := by
  unfold svcClaimGate
  simp [hd, ho, hr]

theorem svcClaimGate_owner (ho : s.svc.owned = true) (hr : s.svc.ownerRid = rid) (write : Bool) :
    svcClaimGate rid write off s = (true, s) := by
  unfold svcClaimGate
  simp [hd, ho, hr]

/-- While the function is unclaimed, CHIP_CLAIM alone may be written. -/
theorem svcClaimGate_unclaimed (ho : s.svc.owned = false) (write : Bool) : svcClaimGate rid write 0x10 s = (true, s) := by
  unfold svcClaimGate
  simp [hd, ho]

end claimGate

theorem writerGate_refused {rid : BitVec 16} {off : Nat} {s u : State} (h : svcClaimGate rid true off s = (false, u)) (act : State → State) :
    writerGate (.host rid) off s act = u := by
  unfold writerGate
  simp only [h]

/-- The two writes of CHIP_CLAIM, with the word each writes. -/
theorem exec_claimWrite {c : Instr} {rid : BitVec 16} (h : c = .chipClaimOwn rid ∨ c = .chipClaimRelease rid) (s : State) :
    ∃ v, exec c s = .next (hostWrite rid 0x10 (claimWrite rid v) s) := by
  rcases h with rfl | rfl
  · exact ⟨1, rfl⟩
  · exact ⟨2, rfl⟩

theorem hostWrite_claim {rid : BitVec 16} {s : State} (h : svcClaimGate rid true 0x10 s = (true, s)) (v : Nat) :
    hostWrite rid 0x10 (claimWrite rid v) s = svcAnswer .written (claimWrite rid v s) :=
  writerGate_host h rfl (offsetReachable_of_low (by decide) s) _

theorem claimWrite_owned {s : State} (h : s.svc.owned = true) (rid : BitVec 16) (v : Nat) : claimWrite rid v s =
    if bitAt v 1 ∧ s.svc.ownerRid = rid then { s with svc := { s.svc with owned := false, ownerRid := 0 } } else s := if_pos h

theorem claimWrite_unclaimed {s : State} (h : s.svc.owned = false) (rid : BitVec 16) (v : Nat) : claimWrite rid v s =
    if bitAt v 0 then { s with svc := { s.svc with owned := true, ownerRid := rid } } else s := if_neg (by simp [h])

/-- Settles O14. -/
theorem claimIsOwnedReleasedAndEnded : Obligations.ClaimIsOwnedReleasedAndEnded := by
  unfold Obligations.ClaimIsOwnedReleasedAndEnded
  refine ⟨fun rid s hd ho => ?_, fun rid s hd ho hr => ?_, fun rid s hd ho hr => ?_, fun rid s hd ho hr c hc => ?_, fun rid s hd ho => ?_,
    fun rid s hd c hc => ?_, fun k s ha => ⟨claimEnds s, congrArg Host.Outcome.next (if_pos ha), rfl, rfl, rfl, rfl, rfl⟩⟩
  · change Host.Outcome.next (hostWrite rid 0x10 (claimWrite rid 1) s) = _
    rw [hostWrite_claim (svcClaimGate_unclaimed hd ho true), claimWrite_unclaimed ho, if_pos (by decide)]
    rfl
  · change Host.Outcome.next (hostWrite rid 0x10 (claimWrite rid 1) s) = _
    rw [hostWrite_claim (svcClaimGate_owner hd ho hr true), claimWrite_owned ho, if_neg fun h => absurd h.1 (by decide)]
  · change Host.Outcome.next (hostWrite rid 0x10 (claimWrite rid 2) s) = _
    rw [hostWrite_claim (svcClaimGate_owner hd ho hr true), claimWrite_owned ho, if_pos ⟨by decide, hr⟩]
    rfl
  · obtain ⟨v, hexec⟩ := exec_claimWrite hc s
    exact hexec.trans (congrArg Host.Outcome.next (writerGate_refused (svcClaimGate_foreign hd ho hr) _))
  · change Host.Outcome.next (hostWrite rid 0x10 (claimWrite rid 2) s) = _
    rw [hostWrite_claim (svcClaimGate_unclaimed hd ho true), claimWrite_unclaimed ho, if_neg (by decide)]
  · obtain ⟨v, hexec⟩ := exec_claimWrite hc s
    exact hexec.trans (congrArg Host.Outcome.next (writerGate_refused (svcClaimGate_silent hd true) _))

/-! ## The command window (20 R440) -/

/-- A write of an owner to a register of the CFG block. -/
theorem writeWord_cfgBlock {off : Nat} (hlow : 0x40000 ≤ off) (hhigh : off < 0x50000) (who : Writer) (v : Nat) (s : State) :
    writeWord who off v s = cfgBlockWrite (off - 0x40000) v s := by
  have hdma : dmaAt off = none := by
    unfold dmaAt
    rw [if_neg (by omega), if_neg (by omega)]
  have hleaf : leafAt off = none := by
    unfold leafAt
    simp only
    rw [if_neg (by omega), if_neg (by omega), if_neg (by omega), if_neg (by omega), if_neg (by omega)]
  unfold writeWord
  simp only [hdma, hleaf]
  rw [if_neg (by omega), if_neg (by omega), if_neg (by omega), if_pos (by omega)]

section hostWrites
variable {rid : BitVec 16} {t : Tlp} {s : State} (hw : t.who = .host rid) (hc : t.config = false)
include hw hc

theorem execRegisterWrite_host : exec (.registerWrite t) s = .next (barWrite rid t s) := by
  change execRegisterWrite t s = _
  unfold execRegisterWrite
  simp only [hw, hc, Bool.false_eq_true, if_false]

variable (hg : svcClaimGate rid true t.offset s = (true, s))
include hg

/-- A word written past the claim check to the CFG block, outside the buffers. -/
theorem execRegisterWrite_cfgBlock (hword : isWord t = true) (hlow : 0x40000 ≤ t.offset) (hhigh : t.offset < 0x50000) :
    exec (.registerWrite t) s = .next (svcAnswer .written (cfgBlockWrite (t.offset - 0x40000) (rd t.data 0 4) s)) := by
  have hbuf : inBuffer 0x50000 t.offset t.len = false := by
    unfold inBuffer
    rw [decide_eq_false (by omega)]
    rfl
  have hdec : offsetDecoded t.offset s = true := by
    unfold offsetDecoded earlyBlock
    simp only [Bool.or_eq_true, Bool.and_eq_true, decide_eq_true_eq]
    omega
  rw [execRegisterWrite_host hw hc]
  unfold barWrite
  rw [if_neg (by omega), hg]
  simp only [hbuf, hword, hdec, offsetReachable_of_low (by omega : t.offset < 0x400000) s, writeWord_cfgBlock hlow hhigh,
    Bool.false_and, Bool.and_self, Bool.false_eq_true, if_false, if_true]

theorem execRegisterWrite_buffer (hbuf : inBuffer 0x50000 t.offset t.len = true) (hall : t.allEnables = true) :
    exec (.registerWrite t) s = .next (bufferWrite (t.offset - 0x50000) (padTo t.len t.data) s) := by
  have hoff : ¬ 2 ^ 26 ≤ t.offset := by
    unfold inBuffer at hbuf
    simp only [Bool.and_eq_true, decide_eq_true_eq] at hbuf
    omega
  rw [execRegisterWrite_host hw hc]
  unfold barWrite
  rw [if_neg hoff, hg]
  simp only [hbuf, hall, Bool.and_self, if_true]

end hostWrites

theorem cmdWrite_go {v : Nat} {s : State} (h : bitAt v 8 = true) (hb : s.cfg.busy = false) : cmdWrite v s = { s with cfg := { s.cfg with
    opcode := v % 256, busy := true, done := false, deferred := false, status := 0, respLen := 0, respBuf := []
    latched := some { opcode := v % 256, req := memRead s.cfg.reqBuf 0 s.cfg.reqLen, tag := s.cfg.tag, answer := none } } } :=
  (if_pos h).trans (if_neg (by simp [hb]))

theorem cmdWrite_goBusy {v : Nat} {s : State} (h : bitAt v 8 = true) (hb : s.cfg.busy = true) :
    cmdWrite v s = { s with cfg := { s.cfg with goRefused := satInc 8 s.cfg.goRefused } } := (if_pos h).trans (if_pos hb)

theorem cmdWrite_busy {v : Nat} {s : State} (h : bitAt v 8 = false) (hb : s.cfg.busy = true) : cmdWrite v s = svcBad s :=
  (if_neg (by simp [h])).trans (if_pos hb)

/-- While BUSY, OPCODE, LEN and TAG keep what they hold. -/
theorem cfgBlockWrite_busy {off v : Nat} {s : State} (h : off = 0x41000 ∧ bitAt v 8 = false ∨ off = 0x41004 ∨ off = 0x41008)
    (hb : s.cfg.busy = true) : cfgBlockWrite (off - 0x40000) v s = svcBad s := by
  rcases h with ⟨rfl, hgo⟩ | rfl | rfl
  · exact cmdWrite_busy hgo hb
  · exact if_pos hb
  · exact if_pos hb

/-- Settles O16. -/
theorem goLatchesTheCommand : Obligations.GoLatchesTheCommand := by
  unfold Obligations.GoLatchesTheCommand
  refine ⟨fun rid t s hw hc ho hword hg hgo hb => ?_, fun rid t s hw hc ho hword hg hgo hb => ?_, fun rid t s hw hc hword ho hg hb => ?_,
    fun rid t s hw hc hall hbuf hg => ?_⟩
  · rw [execRegisterWrite_cfgBlock hw hc (ho ▸ hg) hword (by omega) (by omega), ho]
    exact congrArg (fun u => Host.Outcome.next (svcAnswer .written u)) (cmdWrite_go hgo hb)
  · rw [execRegisterWrite_cfgBlock hw hc (ho ▸ hg) hword (by omega) (by omega), ho]
    exact congrArg (fun u => Host.Outcome.next (svcAnswer .written u)) (cmdWrite_goBusy hgo hb)
  · rw [execRegisterWrite_cfgBlock hw hc hg hword (by omega) (by omega), cfgBlockWrite_busy ho hb]
    rfl
  · rw [execRegisterWrite_buffer hw hc hg hbuf hall]
    unfold bufferWrite
    split <;> rfl

/-! ## Admission and answers (20 R441, R442) -/

section fwGate
variable {op : Nat} {b : Bytes} {s : State}

/-- Not NVM_READ, NVM_WRITE or CHIP_RESET, which are taken in every phase. -/
theorem fwAlways_eq_false (h1 : op ≠ 1) (h2 : op ≠ 2) (h3 : op ≠ 3) : (op == 1 || op == 2 || op == 3) = false := by
  simp [h1, h2, h3]

theorem fwGate_bootFailed (ha : (op == 1 || op == 2 || op == 3) = false) (hp : s.cfg.phase = 8) : fwGate s op b = some stStateConflict :=
  if_pos ⟨hp, ha⟩

theorem fwGate_early (ha : (op == 1 || op == 2 || op == 3) = false) (hp : s.cfg.phase < 6) : fwGate s op b = some stRetry :=
  (if_neg fun h => by omega).trans (if_pos ⟨hp, ha⟩)

theorem fwGate_malformed (hp : 6 ≤ s.cfg.phase) (h8 : s.cfg.phase ≠ 8) (h : fwDefined op = false ∨ fwLenOk op b = false) :
    fwGate s op b = some stMalformed :=
  (if_neg fun h => h8 h.1).trans ((if_neg fun h => by omega).trans (if_pos (h.imp_right .inl)))

end fwGate

section immediate
variable {c : Latched} {s : State} (ha : awake s = true) (hl : s.cfg.latched = some c)
include ha hl

theorem execImmediateCommandComplete_formed {st : Nat} {resp : Bytes} (h : c.answer = some (st, resp)) :
    exec .immediateCommandComplete s = .next (publishFw c st resp s) := by
  change execImmediateCommandComplete s = _
  unfold execImmediateCommandComplete
  simp only [hl, ha, h, Bool.true_eq_false, if_false]

theorem execImmediateCommandComplete_unformed (h : c.answer = none) : exec .immediateCommandComplete s =
    .next (if fwDefined c.opcode then s else publishFw c ((fwGate s c.opcode c.req).getD stMalformed) [] s) := by
  change execImmediateCommandComplete s = _
  unfold execImmediateCommandComplete
  simp only [hl, ha, h, Bool.true_eq_false, if_false]

end immediate

theorem deferredEnd_found {op obj st : Nat} {result : Bytes} {d : Deferred} {s : State}
    (h : s.cfg.outstanding.find? (fun x => x.opcode == op && x.obj == obj) = some d) : deferredEnd op obj st result s =
    ringWrite st op d.tag result { s with cfg := { s.cfg with outstanding := s.cfg.outstanding.erase d } } := by
  unfold deferredEnd
  rw [h]

/-- The record of a command that ends stands in the ring's next slot. -/
theorem ringWrite_record (st op tag : Nat) (result : Bytes) (s : State) :
    tlook (ringWrite st op tag result s).cfg.ring (nextSeq s.cfg.ringHead % 16) =
      some (leBytes 1 st ++ leBytes 1 op ++ [0, 0] ++ leBytes 4 tag ++ leBytes 4 (nextSeq s.cfg.ringHead) ++ [0, 0, 0, 0] ++ padTo 112 result) :=
  tlook_tput _ _ _

theorem acceptDeferred_full {c : Latched} {obj : Nat} {s : State} (h : 16 ≤ s.cfg.outstanding.length) : acceptDeferred c obj s = none := if_pos h

theorem acceptDeferred_room {c : Latched} {obj : Nat} {s : State} (h : s.cfg.outstanding.length < 16) :
    acceptDeferred c obj s = some { s with cfg := { s.cfg with
      status := stOk, respLen := 0, doneTag := c.tag, done := true, busy := false, deferred := true, latched := none
      outstanding := s.cfg.outstanding ++ [{ opcode := c.opcode, tag := c.tag, obj := obj }] } } := if_neg (by omega)

/-- A ready node is in the phase that takes every command. -/
theorem phase_of_ready {s : State} (h : ready s = true) : s.cfg.phase = 6 := by
  unfold ready at h
  simp only [Bool.and_eq_true, beq_iff_eq] at h
  exact h.2

/-- Settles O17. -/
theorem commandsAreAdmittedAndAnswered : Obligations.CommandsAreAdmittedAndAnswered := by
  unfold Obligations.CommandsAreAdmittedAndAnswered
  refine ⟨fun op b s h1 h2 h3 => ?_, fun op st run c s h hg => fwRun_refused h hg, fun c st resp s ha hl h => ?_, fun c s ha hl h hdef => ?_,
    fun c s ha hl h hdef hready => ?_, fun c obj s => ⟨acceptDeferred_full, acceptDeferred_room⟩, fun op obj st result d s h => ?_⟩
  · have hnot := fwAlways_eq_false h1 h2 h3
    exact ⟨fwGate_bootFailed hnot, fwGate_early hnot, fwGate_malformed⟩
  · exact execImmediateCommandComplete_formed ha hl h
  · rw [execImmediateCommandComplete_unformed ha hl h, if_pos hdef]
  · have hphase := phase_of_ready hready
    have hgate : fwGate s c.opcode c.req = some stMalformed := fwGate_malformed (by omega) (by omega) (.inl hdef)
    rw [execImmediateCommandComplete_unformed ha hl h, if_neg (by simp [hdef]), hgate]
    exact ⟨_, rfl, rfl, rfl, rfl, rfl⟩
  · rw [deferredEnd_found h]
    exact ⟨rfl, rfl, ringWrite_record _ _ _ _ _⟩

/-! ## Telemetry over I2C (20 R447) -/

/-- The offset lies in the first four bytes. -/
theorem rd_take_four (b : Bytes) : rd (b.take 4) 0 4 = rd b 0 4 := by
  unfold rd slice
  simp [List.take_take]

/-- A node in a reset. -/
theorem not_listening {m : PwrMode} (h : m = .aonReset ∨ m = .mainReset) : m ≠ .running ∧ m ≠ .bmkOnly := by
  rcases h with rfl | rfl <;> decide

section i2c
variable {w : I2cWrite} {n : Nat} {s : State} (hm : s.pwr.mode = .running ∨ s.pwr.mode = .bmkOnly)
include hm

theorem execI2cTransaction_elsewhere (h : w.addr ≠ i2cAddress s) : exec (.i2cTransaction w n) s = .next (i2cEnd true [] s) :=
  congrArg Host.Outcome.next ((if_neg fun hn => hm.elim hn.1 hn.2).trans (if_pos h))

variable (h : w.addr = i2cAddress s)
include h

theorem execI2cTransaction_noOffset (hs : w.data.length < 4 ∨ rd w.data 0 4 % 4 ≠ 0) :
    exec (.i2cTransaction w n) s = .next (i2cEnd (decide (4 < w.data.length)) (List.replicate n 0xFF) s) :=
  congrArg Host.Outcome.next ((if_neg fun hn => hm.elim hn.1 hn.2).trans ((if_neg (not_not.2 h)).trans (if_pos hs)))

theorem execI2cTransaction_reads (hl : 4 ≤ w.data.length) (ha : rd w.data 0 4 % 4 = 0) :
    exec (.i2cTransaction w n) s = .next (i2cEnd (decide (4 < w.data.length))
      ((i2cWords ((n + 3) / 4) (rd w.data 0 4) s).1.take n) (i2cWords ((n + 3) / 4) (rd w.data 0 4) s).2) :=
  congrArg Host.Outcome.next ((if_neg fun hn => hm.elim hn.1 hn.2).trans ((if_neg (not_not.2 h)).trans (if_neg (by omega))))

end i2c

/-- A read of one word gives the register's word, or I2C's own latch of its high word, or all ones where I2C may not reach; the latch alone changes. -/
theorem i2cWord_reachable {off : Nat} {s : State} (h : i2cReadable s off = true → offsetReachable off s = true) :
    (i2cWord off s).1 = (if i2cReadable s off then (tlook s.svc.i2cHi off).getD (regWord s off) else 2 ^ 32 - 1) ∧
    (i2cWord off s).2 = { s with svc := { s.svc with i2cHi := (i2cWord off s).2.svc.i2cHi } } := by
  unfold i2cWord
  cases hread : i2cReadable s off with
  | false => exact ⟨rfl, rfl⟩
  | true =>
    simp only [h hread, Bool.not_true, Bool.and_false, Bool.false_eq_true, if_false, if_true]
    refine ⟨trivial, ?_⟩
    split <;> rfl

/-- Settles O18. -/
theorem i2cReadsAndNeverWrites : Obligations.I2cReadsAndNeverWrites := by
  unfold Obligations.I2cReadsAndNeverWrites
  refine ⟨fun w n s hm h hl ha => ?_, fun w s hm h hl ha hreach => ?_, fun w n s hm h => execI2cTransaction_elsewhere hm h,
    fun w n s hm h hs => execI2cTransaction_noOffset hm h hs, fun w n s hm => congrArg Host.Outcome.next (if_pos (not_listening hm))⟩
  · have hrd := rd_take_four w.data
    have hlen : (w.data.take 4).length = 4 := by rw [List.length_take]; omega
    refine ⟨_, _, ?_, execI2cTransaction_reads hm h hl ha⟩
    rw [execI2cTransaction_reads (w := { w with data := w.data.take 4 }) hm h (by rw [hlen]) (by rw [hrd]; exact ha), hrd, hlen]
    rfl
  · obtain ⟨hword, hstate⟩ := i2cWord_reachable hreach
    refine ⟨_, execI2cTransaction_reads hm h hl ha, rfl, ?_, ?_⟩
    · exact congrArg (leBytes 4) hword
    · exact congrArg (i2cEnd _ _) hstate

end Sys2Proof.Proofs

/-! PROOF. The control dies' takeover (18 R401-R403; 19 R422). -/

namespace Sys2Proof.Proofs

open Sys2Proof.Machine Sys2Proof.Laws

/-! ## The commands that the lost primary held -/

/-- Every command is answered: the window is free, nothing is outstanding, and a CHIP_RESET that waits is withdrawn (R402). -/
theorem failCommands_window (s : State) :
    (failCommands s).cfg.outstanding = [] ∧ (failCommands s).cfg.latched = none ∧ (failCommands s).cfg.ctlPrimary = s.cfg.ctlPrimary ∧
    (failCommands s).cfg.standbyOk = s.cfg.standbyOk ∧ (∀ tm, s.pwr.resetDue = some (tm, .soft) → (failCommands s).pwr.resetDue = none) := by
  have hring (l : List Deferred) (u : State) := foldl_keeps (f := fun s (d : Deferred) => ringWrite stInternal d.opcode d.tag [] s)
    (π := fun u : State => (u.cfg.latched, u.cfg.ctlPrimary, u.cfg.standbyOk, u.pwr)) (fun _ _ => rfl) l u
  unfold failCommands
  cases hl : s.cfg.latched with
  | none =>
    have h := hring s.cfg.outstanding s
    simp only [Prod.mk.injEq] at h
    obtain ⟨hlatched, hprimary, hstandby, hpwr⟩ := h
    refine ⟨rfl, hlatched.trans hl, hprimary, hstandby, fun tm hdue => ?_⟩
    simp only [hpwr, hdue]
  | some c =>
    have h := hring s.cfg.outstanding (publishFw c stInternal [] s)
    simp only [Prod.mk.injEq] at h
    obtain ⟨hlatched, hprimary, hstandby, hpwr⟩ := h
    refine ⟨rfl, hlatched, hprimary, hstandby, fun tm hdue => ?_⟩
    have hdue' : (publishFw c stInternal [] s).pwr.resetDue = some (tm, .soft) := hdue
    simp only [show (publishFw c stInternal [] s).cfg.outstanding = s.cfg.outstanding from rfl, hpwr, hdue']

/-! ## The takeover -/

/-- The primary is fenced and its cores leave the barriers. -/
def coresFenced (s : State) : State := coresLost s.cfg.ctlPrimary { s with ctl := { s.ctl with primaryFenced := true, missed := 0 } }

theorem coresFenced_ctl (s : State) : (coresFenced s).ctl = { s.ctl with primaryFenced := true, missed := 0 } :=
  (coresLost_frame (m := [.catchment, .log, .barrier]) _ (Frame.refl _ _) rfl).same .ctl (by decide)

theorem coresFenced_pwr (s : State) : (coresFenced s).pwr = s.pwr :=
  (coresLost_frame (m := [.catchment, .log, .barrier]) _ (Frame.refl _ _) rfl).same .pwr (by decide)

/-- The standby is the primary, before it raises CTL_TAKEOVER. -/
def standbyPrimary (s : State) : State :=
  catchTakeover s.cfg.ctlPrimary { coresFenced s with
    cfg := { (coresFenced s).cfg with ctlPrimary := 1 - s.cfg.ctlPrimary, standbyOk := false }
    sec := { (coresFenced s).sec with sigNext := (coresFenced s).sec.sigLimit, trees := [] }
    work := { (coresFenced s).work with shadowNext := 0 } }

theorem ctlTakeover_standby {s : State} (h : s.cfg.standbyOk = true) :
    ctlTakeover s = failCommands (raise leafCtlTakeover [] (standbyPrimary s)) := if_pos h

theorem ctlTakeover_alone {s : State} (h : s.cfg.standbyOk = false) :
    ctlTakeover s = fatalStop true 4 [] (catchTakeover s.cfg.ctlPrimary (coresFenced s)) := if_neg (by simp [h])

theorem standbyPrimary_ctl (s : State) : (standbyPrimary s).ctl = { s.ctl with primaryFenced := true, missed := 0 } :=
  ((catchTakeover_frame (m := [.catchment]) _ (Frame.refl _ _) rfl).same .ctl (by decide)).trans (coresFenced_ctl s)

theorem standbyPrimary_pwr (s : State) : (standbyPrimary s).pwr = s.pwr :=
  ((catchTakeover_frame (m := [.catchment]) _ (Frame.refl _ _) rfl).same .pwr (by decide)).trans (coresFenced_pwr s)

theorem standbyPrimary_cfg (s : State) : (standbyPrimary s).cfg =
    { (coresFenced s).cfg with ctlPrimary := 1 - s.cfg.ctlPrimary, standbyOk := false } :=
  (catchTakeover_frame (m := [.catchment]) _ (Frame.refl _ _) rfl).same .cfg (by decide)

theorem standbyPrimary_trees (s : State) : (standbyPrimary s).sec.trees = [] :=
  congrArg Sec.trees ((catchTakeover_frame (m := [.catchment]) _ (Frame.refl _ _) rfl).same .sec (by decide))

/-- With no standby the loss of the primary stops the node with REASON 4, as the first fatal error. -/
theorem ctlTakeover_fatal {s : State} (h : s.cfg.standbyOk = false) (hf : s.ctl.fatal = none) : (ctlTakeover s).ctl.fatal = some 4 := by
  have hctl : (catchTakeover s.cfg.ctlPrimary (coresFenced s)).ctl = { s.ctl with primaryFenced := true, missed := 0 } :=
    ((catchTakeover_frame (m := [.catchment]) _ (Frame.refl _ _) rfl).same .ctl (by decide)).trans (coresFenced_ctl s)
  rw [ctlTakeover_alone h, fatalStop_fatal, hctl]
  exact congrArg (fun r : Option Nat => some (r.getD 4)) hf

/-! ## The standby is lost -/

/-- The barriers and the catchment without the lost standby's cores. -/
def standbyGone (s : State) : State :=
  catchTakeover (1 - s.cfg.ctlPrimary) (coresLost (1 - s.cfg.ctlPrimary)
    { s with cfg := { s.cfg with standbyOk := false }, ctl := { s.ctl with standbyLost := true, missed := 0 } })

/-- From the state with the loss noted, the catchment, the log and the barriers alone change. -/
theorem standbyLoss_frame (s : State) : Frame [.catchment, .log, .barrier]
    { s with cfg := { s.cfg with standbyOk := false }, ctl := { s.ctl with standbyLost := true, missed := 0 } } (standbyLoss s) :=
  raise_frame _ _ (catchTakeover_frame _ (coresLost_frame _ (Frame.refl _ _) rfl) rfl) rfl

/-- Settles O31: the takeover, by what it leaves of the commands, and the loss of the standby or of the last control die. -/
theorem theStandbyTakesOver : Obligations.TheStandbyTakesOver := by
  unfold Obligations.TheStandbyTakesOver
  refine ⟨fun s hs => ?takeover, fun s => ctlTakeover_fatal, fun s ha hs hdue => congrArg Host.Outcome.next (if_neg ?_), fun s h => ⟨?_, ?_⟩,
    fun s ha hs => ⟨standbyLoss s, congrArg Host.Outcome.next (if_pos ⟨ha, hs⟩), ?loss⟩⟩
  case takeover =>
    intro t
    have hraise : Frame [.catchment, .log] (standbyPrimary s) (raise leafCtlTakeover [] (standbyPrimary s)) :=
      raise_frame _ _ (Frame.refl _ _) rfl
    have hfail : Frame [.pwr, .cfg] (raise leafCtlTakeover [] (standbyPrimary s)) t := by
      rw [show t = _ from ctlTakeover_standby hs]
      exact failCommands_frame (Frame.refl _ _) rfl
    obtain ⟨houtstanding, hlatched, hprimary, hstandby, hreset⟩ := failCommands_window (raise leafCtlTakeover [] (standbyPrimary s))
    rw [← ctlTakeover_standby hs] at houtstanding hlatched hprimary hstandby hreset
    have hcfg := (hraise.same .cfg (by decide)).trans (standbyPrimary_cfg s)
    have hpwr := (hraise.same .pwr (by decide)).trans (standbyPrimary_pwr s)
    have hctl := ((hfail.same .ctl (by decide)).trans (hraise.same .ctl (by decide))).trans (standbyPrimary_ctl s)
    have hsec := (hfail.same .sec (by decide)).trans (hraise.same .sec (by decide))
    have hset : causeSet leafCtlTakeover t :=
      (causesStay_of_frame hfail (by decide)).set (raise_causeSet leafCtlTakeover [] (standbyPrimary s))
    exact ⟨hprimary.trans (congrArg Cfg.ctlPrimary hcfg), hstandby.trans (congrArg Cfg.standbyOk hcfg), houtstanding, hlatched,
      congrArg Ctl.primaryFenced hctl, (congrArg Sec.trees hsec).trans (standbyPrimary_trees s), hset,
      fun tm hsoft => hreset tm ((congrArg Pwr.resetDue hpwr).trans hsoft)⟩
  case loss =>
    have hframe := standbyLoss_frame s
    have hcfg : (standbyLoss s).cfg = { s.cfg with standbyOk := false } := hframe.same .cfg (by decide)
    have hctl : (standbyLoss s).ctl = { s.ctl with standbyLost := true, missed := 0 } := hframe.same .ctl (by decide)
    exact ⟨congrArg Cfg.standbyOk hcfg, by rw [hcfg], congrArg Ctl.standbyLost hctl, congrArg Ctl.missed hctl,
      raise_causeSet leafCtlStandbyLost [] (standbyGone s), hframe.same .req (by decide)⟩
  · rintro (hn | hn | ⟨hmissed, hearly⟩)
    · simp [ha] at hn
    · simp [hs] at hn
    · omega
  · refine congrArg Host.Outcome.next (if_pos ?_)
    exact h.imp_right .inl
  · refine congrArg Host.Outcome.next (if_neg ?_)
    rintro ⟨ha, hs⟩
    rcases h with h | h
    · simp [ha] at h
    · simp [hs] at h

end Sys2Proof.Proofs

/-! PROOF. The resets and the JTAG port (18 R400, Table 18.7; 21 R456-R459, R464, R465). -/

namespace Sys2Proof.Proofs

open Sys2Proof.Machine Sys2Proof.Laws

/-! ## RESET_N goes low, by the power state -/

theorem resetPin_running {s : State} (h : s.pwr.mode = .running) :
    resetPin s = wakeCause 5 (clearMain { s with pwr := { s.pwr with resetN := false } }) := by
  unfold resetPin
  simp only [h]

theorem resetPin_bmkOnly {s : State} (h : s.pwr.mode = .bmkOnly) : resetPin s =
    if s.pwr.wakeBoot then wake { s with pwr := { s.pwr with resetN := false } } else { s with pwr := { s.pwr with resetN := false } } := by
  unfold resetPin
  simp only [h]

/-! ## A reset that is due -/

/-- The cause bit of a due reset is that of its cause. -/
theorem wakeCause_due (c : DueCause) (s : State) : wakeCause (if c = .soft then 6 else 7) s =
    { s with bmk := { s.bmk with wakeCause := s.bmk.wakeCause ||| (if c = .soft then 0x40#32 else 0x80#32) } } := by
  cases c <;> rfl

theorem resetDue_awake {t : Nat} {c : DueCause} {s : State} (ha : awake s = true) (h : s.pwr.resetDue = some (t, c)) :
    resetDue s = if now s < t then s else wakeCause (if c = .soft then 6 else 7) (clearMain s) := by
  unfold resetDue
  simp only [h, ha, true_and]
  by_cases hdue : now s < t
  · rw [if_pos hdue, if_neg (Nat.not_le.2 hdue)]
  · rw [if_neg hdue, if_pos (Nat.not_lt.1 hdue)]

theorem awake_of_running {s : State} (h : s.pwr.mode = .running) : awake s = true := beq_iff_eq.2 h

theorem execChipReset_due {c : Latched} {s : State} (h : fwCmd s 3 = some c) (hg : fwGate s 3 c.req = none) (hdue : s.pwr.resetDue = none) :
    exec .chipReset s = .next { s with pwr := { s.pwr with resetDue := some (now s + 100000, .soft) } } := by
  refine congrArg Host.Outcome.next ((fwRun_passed h hg).trans ?_)
  simp only [hdue]

/-- Settles O19: each reset by its cause and the power state it meets. -/
theorem resetsClearAndKeep : Obligations.ResetsClearAndKeep := by
  unfold Obligations.ResetsClearAndKeep
  refine ⟨fun s => rfl, fun straps s hm => congrArg Host.Outcome.next (if_pos hm), fun s hm => ?_, fun s hm => ?_, fun due c s hm hdue => ?_,
    fun c s h hg hdue => execChipReset_due h hg hdue⟩
  · exact congrArg Host.Outcome.next (resetPin_running hm)
  · exact congrArg Host.Outcome.next (resetPin_bmkOnly hm)
  · refine congrArg Host.Outcome.next ((resetDue_awake (awake_of_running hm) hdue).trans ?_)
    rw [wakeCause_due]
    rfl

/-! ## JTAG (21 R464, R465) -/

section jtag
variable {ir : JtagIr} {s : State}

/-- An instruction that drives nothing lets a held ROM start. -/
theorem loadIr_passive (h : tapWorks s = true) : loadIr ir false s = if s.pwr.extestHold then
    { s with jtag := { ir := ir, inEffect := false }, pwr := { s.pwr with mode := .running, romHold := true, extestHold := false } }
    else { s with jtag := { ir := ir, inEffect := false } } := by
  unfold loadIr
  rw [if_pos h]
  simp only [Bool.not_false, Bool.and_true]

/-- With the node not held, an instruction is loaded and nothing else changes. -/
theorem loadIr_free (h : tapWorks s = true) (hh : s.pwr.extestHold = false) (effect : Bool) :
    loadIr ir effect s = { s with jtag := { ir := ir, inEffect := effect } } := by
  unfold loadIr
  rw [if_pos h]
  simp only [hh, Bool.false_and, Bool.false_eq_true, if_false]

theorem loadIr_unavailable (h : tapWorks s = false) (effect : Bool) : loadIr ir effect s = s := if_neg (by simp [h])

theorem loadDrive_free (hh : s.pwr.extestHold = false) :
    loadDrive ir s = if s.pwr.resetN then loadIr .bypass false s else loadIr ir true s := if_neg (by simp [hh])

theorem loadDrive_unavailable (h : tapWorks s = false) (hh : s.pwr.extestHold = false) : loadDrive ir s = s := by
  rw [loadDrive_free hh, loadIr_unavailable h, loadIr_unavailable h, ite_self]

end jtag

/-- The commands that load an instruction which drives nothing. -/
def jtagPassive (c : Instr) (ir : JtagIr) : Prop :=
  (c, ir) = (.jtagTapReset, .idcode) ∨ (c, ir) = (.idcode, .idcode) ∨ (c, ir) = (.samplePreload, .samplePreload) ∨ (c, ir) = (.bypass, .bypass)

/-- The commands that load an instruction which drives the balls. -/
def jtagDriving (c : Instr) (ir : JtagIr) : Prop :=
  (c, ir) = (.extest, .extest) ∨ (c, ir) = (.extestPulse, .extestPulse) ∨ (c, ir) = (.extestTrain, .extestTrain) ∨ (c, ir) = (.highz, .highz) ∨
    (c, ir) = (.clamp, .clamp)

theorem exec_jtagPassive {c : Instr} {ir : JtagIr} (h : jtagPassive c ir) (s : State) : exec c s = .next (loadIr ir false s) := by
  simp only [jtagPassive, Prod.mk.injEq] at h
  rcases h with ⟨rfl, rfl⟩ | ⟨rfl, rfl⟩ | ⟨rfl, rfl⟩ | ⟨rfl, rfl⟩ <;> rfl

theorem exec_jtagDriving {c : Instr} {ir : JtagIr} (h : jtagDriving c ir) (s : State) : exec c s = .next (loadDrive ir s) := by
  simp only [jtagDriving, Prod.mk.injEq] at h
  rcases h with ⟨rfl, rfl⟩ | ⟨rfl, rfl⟩ | ⟨rfl, rfl⟩ | ⟨rfl, rfl⟩ | ⟨rfl, rfl⟩ <;> rfl

/-- Each JTAG command loads an instruction of one of the two kinds. -/
theorem jtag_kind {c : Instr} (h : c ∈ [Instr.jtagTapReset, .idcode, .samplePreload, .extest, .extestPulse, .extestTrain, .highz, .clamp, .bypass]) :
    ∃ ir, jtagPassive c ir ∨ jtagDriving c ir := by
  simp only [List.mem_cons, List.not_mem_nil, or_false] at h
  rcases h with rfl | rfl | rfl | rfl | rfl | rfl | rfl | rfl | rfl
  · exact ⟨.idcode, .inl (.inl rfl)⟩
  · exact ⟨.idcode, .inl (.inr (.inl rfl))⟩
  · exact ⟨.samplePreload, .inl (.inr (.inr (.inl rfl)))⟩
  · exact ⟨.extest, .inr (.inl rfl)⟩
  · exact ⟨.extestPulse, .inr (.inr (.inl rfl))⟩
  · exact ⟨.extestTrain, .inr (.inr (.inr (.inl rfl)))⟩
  · exact ⟨.highz, .inr (.inr (.inr (.inr (.inl rfl))))⟩
  · exact ⟨.clamp, .inr (.inr (.inr (.inr (.inr rfl))))⟩
  · exact ⟨.bypass, .inl (.inr (.inr (.inr rfl)))⟩

/-- Settles O22. -/
theorem jtagLoadsAndHolds : Obligations.JtagLoadsAndHolds := by
  unfold Obligations.JtagLoadsAndHolds
  refine ⟨fun c ir s ht hc => ?_, fun c ir s ht hh hc => ?_, fun c s ht hh hc => ?_⟩
  · rw [exec_jtagPassive hc, loadIr_passive ht]
  · rw [exec_jtagDriving hc, loadDrive_free hh, loadIr_free ht hh, loadIr_free ht hh]
  · obtain ⟨ir, hpassive | hdriving⟩ := jtag_kind hc
    · rw [exec_jtagPassive hpassive, loadIr_unavailable ht]
    · rw [exec_jtagDriving hdriving, loadDrive_unavailable ht hh]

end Sys2Proof.Proofs

/-! PROOF. The release of reset, the ROM hold and the choice of image slot (18 R396, R399, R411; 21 R458, R459, R465). -/

namespace Sys2Proof.Proofs

open Sys2Proof.Machine Sys2Proof.Laws

/-! ## The release -/

theorem startRom_eq (e : BootEnv) (s : State) : startRom e s =
    let rom : State := { s with pwr := { s.pwr with
      resetN := true, mode := .running, sleepReq := .hiZ, sysClk := e.sysRefclk, netClk := 0xF, tierClk := 0xF, svcClk := true, romHold := true
      extestHold := false } }
    if holdOver e rom then boot e rom else rom := rfl

theorem execResetRelease_held {e : BootEnv} {s : State} (hm : s.pwr.mode = .mainReset) (hj : s.jtag.inEffect = true) :
    exec (.resetRelease e) s = .next { s with pwr := { s.pwr with resetN := true, extestHold := true } } := by
  change execResetRelease e s = _
  unfold execResetRelease
  simp only [hm, hj, if_true]

theorem execResetRelease_starts {e : BootEnv} {s : State} (hm : s.pwr.mode = .mainReset) (hj : s.jtag.inEffect = false) :
    exec (.resetRelease e) s = .next (startRom e s) := by
  change execResetRelease e s = _
  unfold execResetRelease
  simp only [hm, hj, Bool.false_eq_true, if_false]

theorem execResetRelease_wakes {e : BootEnv} {s : State} (hm : s.pwr.mode = .bmkOnly) :
    exec (.resetRelease e) s = .next (startRom e (if s.pwr.wakeBoot then wake s else wakeCause 5 (clearMain s))) := by
  change execResetRelease e s = _
  unfold execResetRelease
  simp only [hm]
  split <;> rfl

/-! ## A slot's check reads the NVM and the fuses alone -/

section slotCheck
variable {s t : State} (hm : t.mem = s.mem)
include hm

theorem nvmRead_congr (a n : Nat) : nvmRead t a n = nvmRead s a n := by
  unfold nvmRead
  rw [hm]

theorem imgHeader_congr (slot : Nat) : imgHeader t slot = imgHeader s slot := nvmRead_congr hm _ _

theorem secHead_congr (slot : Nat) (h : Bytes) (k : Nat) : secHead t slot h k = secHead s slot h k := nvmRead_congr hm _ _

theorem headerOk_congr (slot : Nat) : headerOk t slot = headerOk s slot := by
  unfold headerOk secHeadOk
  simp only [imgHeader_congr hm, secHead_congr hm]

theorem secSigned_congr (slot k : Nat) : secSigned t slot k = secSigned s slot k := by
  unfold secSigned
  simp only [imgHeader_congr hm, secHead_congr hm, nvmRead_congr hm]

theorem secSig_congr (slot k : Nat) : secSig t slot k = secSig s slot k := by
  unfold secSig
  simp only [imgHeader_congr hm, secHead_congr hm, nvmRead_congr hm]

theorem secKey_congr (slot k : Nat) : secKey t slot k = secKey s slot k := by
  unfold secKey
  simp only [imgHeader_congr hm, secHead_congr hm]

theorem secSvn_congr (slot k : Nat) : secSvn t slot k = secSvn s slot k := by
  unfold secSvn
  simp only [imgHeader_congr hm, secHead_congr hm]

theorem slotRecs_congr (slot : Nat) : slotRecs t slot = slotRecs s slot := by
  unfold slotRecs
  simp only [secSigned_congr hm]

variable (hf : t.fuse = s.fuse)
include hf

theorem secVerifies_congr (slot k : Nat) : secVerifies t slot k = secVerifies s slot k := by
  unfold secVerifies keyTrusted
  simp only [secKey_congr hm, secSig_congr hm, secSigned_congr hm, hf]

theorem slotCheck_congr (slot : Nat) : slotCheck t slot = slotCheck s slot := by
  unfold slotCheck
  simp only [headerOk_congr hm, secVerifies_congr hm hf, secSvn_congr hm, slotRecs_congr hm, hf]

end slotCheck

/-! ## The slots in their order (R396) -/

theorem bootFailed_cfg (s : State) : (bootFailed s).cfg = { s.cfg with phase := 8 } := rfl

theorem bootSlots_noSfdp {e : BootEnv} (h : e.nvm.sfdp = false) (s : State) :
    bootSlots e s = bootFailed (slotCause 0 1 (slotCause 1 1 { s with cfg := { s.cfg with quad := !e.nvm.octal } })) := by
  unfold bootSlots
  simp only [h, Bool.not_false, Bool.true_or, if_true]

/-- The slot that is tried first. -/
def firstSlot (s : State) : Nat := if s.bmk.wakeCtrl.getLsbD 28 then 1 else 0

/-- Before the slots are tried: the NVM's mode is noted and BOOT_NEXT is cleared. -/
def slotsBegun (e : BootEnv) (s : State) : State :=
  { s with cfg := { s.cfg with quad := !e.nvm.octal }, bmk := { s.bmk with wakeCtrl := s.bmk.wakeCtrl &&& 0xEFFFFFFF#32 } }

theorem slotsBegun_bootNext (e : BootEnv) (s : State) : (slotsBegun e s).bmk.wakeCtrl.getLsbD 28 = false := by
  simp only [slotsBegun, BitVec.getLsbD_and]
  exact Bool.and_eq_false_imp.2 fun _ => by decide

theorem slotCause_mem (slot c : Nat) (s : State) : (slotCause slot c s).mem = s.mem := by
  unfold slotCause
  split <;> rfl

theorem slotCause_fuse (slot c : Nat) (s : State) : (slotCause slot c s).fuse = s.fuse := by
  unfold slotCause
  split <;> rfl

theorem slotCause_bmk (slot c : Nat) (s : State) : (slotCause slot c s).bmk = s.bmk := by
  unfold slotCause
  split <;> rfl

theorem slotCause_phase (slot c : Nat) (s : State) : (slotCause slot c s).cfg.phase = s.cfg.phase := by
  unfold slotCause
  split <;> rfl

/-- The first slot has failed with cause `c`. -/
def firstFailed (e : BootEnv) (c : Nat) (s : State) : State := slotCause (firstSlot s) c (slotsBegun e s)

theorem slotCheck_slotsBegun (e : BootEnv) (s : State) (slot : Nat) : slotCheck (slotsBegun e s) slot = slotCheck s slot :=
  slotCheck_congr (s := s) (t := slotsBegun e s) rfl rfl slot

theorem slotCheck_firstFailed (e : BootEnv) (c : Nat) (s : State) (slot : Nat) : slotCheck (firstFailed e c s) slot = slotCheck s slot :=
  slotCheck_congr (s := s) (t := firstFailed e c s) (slotCause_mem (firstSlot s) c (slotsBegun e s)) (slotCause_fuse _ c (slotsBegun e s)) slot

section usable
variable {e : BootEnv} {s : State} {l : List (Nat × Bytes)} (h1 : e.nvm.sfdp = true) (h2 : e.nvm.erase64K = true) (h3 : 0x4410000 ≤ e.nvm.sizeBytes)
include h1 h2 h3

theorem nvm_usable : ¬ (!e.nvm.sfdp || decide (e.nvm.sizeBytes < 0x4410000) || !e.nvm.erase64K) = true := by
  rw [h1, h2, decide_eq_false (by omega)]
  decide

/-- The slots in their order: a slot that fails a check leaves its cause. -/
theorem bootSlots_usable : bootSlots e s =
    if (slotCheck s (firstSlot s)).1 = 8 then
      useSlot (firstSlot s) (slotCheck s (firstSlot s)).2 (slotCause (firstSlot s) 8 (slotsBegun e s))
    else if (slotCheck s (1 - firstSlot s)).1 = 8 then useSlot (1 - firstSlot s) (slotCheck s (1 - firstSlot s)).2
      (slotCause (1 - firstSlot s) 8 (firstFailed e (slotCheck s (firstSlot s)).1 s))
    else bootFailed (slotCause (1 - firstSlot s) (slotCheck s (1 - firstSlot s)).1
      (firstFailed e (slotCheck s (firstSlot s)).1 s)) := by
  unfold bootSlots
  simp only
  rw [if_neg (nvm_usable h1 h2 h3)]
  split
  next l h =>
    rw [show slotCheck s (firstSlot s) = (8, l) from (slotCheck_slotsBegun e s _).symm.trans h]
    rfl
  next c l hne h =>
    rw [show slotCheck s (firstSlot s) = (c, l) from (slotCheck_slotsBegun e s _).symm.trans h, if_neg hne]
    split
    next l' h' =>
      rw [show slotCheck s (1 - firstSlot s) = (8, l') from (slotCheck_firstFailed e c s _).symm.trans h']
      rfl
    next d l' hne' h' =>
      rw [show slotCheck s (1 - firstSlot s) = (d, l') from (slotCheck_firstFailed e c s _).symm.trans h', if_neg hne']
      rfl

theorem bootSlots_first (h : slotCheck s (firstSlot s) = (8, l)) :
    bootSlots e s = useSlot (firstSlot s) l (slotCause (firstSlot s) 8 (slotsBegun e s)) := by
  rw [bootSlots_usable h1 h2 h3, h]
  rfl

theorem bootSlots_second (hn : (slotCheck s (firstSlot s)).1 ≠ 8) (h : slotCheck s (1 - firstSlot s) = (8, l)) :
    bootSlots e s = useSlot (1 - firstSlot s) l (slotCause (1 - firstSlot s) 8 (firstFailed e (slotCheck s (firstSlot s)).1 s)) := by
  rw [bootSlots_usable h1 h2 h3, if_neg hn, h]
  rfl

theorem bootSlots_neither (hn : (slotCheck s (firstSlot s)).1 ≠ 8) (hn' : (slotCheck s (1 - firstSlot s)).1 ≠ 8) : bootSlots e s =
    bootFailed (slotCause (1 - firstSlot s) (slotCheck s (1 - firstSlot s)).1 (firstFailed e (slotCheck s (firstSlot s)).1 s)) := by
  rw [bootSlots_usable h1 h2 h3, if_neg hn, if_neg hn']

end usable

theorem firstSlot_cases (s : State) : firstSlot s = 0 ∨ firstSlot s = 1 := by
  unfold firstSlot
  split
  · exact .inr rfl
  · exact .inl rfl

/-- Each cause is that of its slot, whichever slot is tried first. -/
theorem slotCause_both (f : Nat → Nat) (s u : State) :
    (slotCause (1 - firstSlot s) (f (1 - firstSlot s)) (slotCause (firstSlot s) (f (firstSlot s)) u)).cfg.causeA = f 0 ∧
    (slotCause (1 - firstSlot s) (f (1 - firstSlot s)) (slotCause (firstSlot s) (f (firstSlot s)) u)).cfg.causeB = f 1 := by
  rcases firstSlot_cases s with h | h <;> rw [h] <;> exact ⟨rfl, rfl⟩

/-- Settles O20: the release by the power state, and the slots by the checks they fail. -/
theorem romHoldsThenBoots : Obligations.RomHoldsThenBoots := by
  unfold Obligations.RomHoldsThenBoots
  refine ⟨fun e s => execResetRelease_held, fun e s hm hj => ?_, fun e s => execResetRelease_wakes, fun s => ⟨rfl, rfl, rfl, rfl, rfl, rfl⟩,
    fun e s ha hr hh => congrArg Host.Outcome.next (if_pos ⟨ha, hr, hh⟩), fun e s hh => congrArg Host.Outcome.next (if_neg fun h => ?_),
    fun e s h => ?_, fun e s l h1 h2 h3 => ⟨fun h => ?_, fun hn h => ?_, fun hn hn' => ?_⟩⟩
  · exact (execResetRelease_starts hm hj).trans (congrArg Host.Outcome.next (startRom_eq e s))
  · simp [hh] at h
  · rw [bootSlots_noSfdp h, bootFailed_cfg]
    exact ⟨rfl, rfl, rfl⟩
  · rw [bootSlots_first h1 h2 h3 h]
    refine ⟨rfl, rfl, ?_, slotCause_phase _ _ _⟩
    exact (congrArg (·.wakeCtrl.getLsbD 28) (slotCause_bmk (firstSlot s) 8 (slotsBegun e s))).trans (slotsBegun_bootNext e s)
  · rw [bootSlots_second h1 h2 h3 hn h]
    exact ⟨rfl, rfl, (slotCause_phase _ _ _).trans (slotCause_phase _ _ (slotsBegun e s))⟩
  · rw [bootSlots_neither h1 h2 h3 hn hn', bootFailed_cfg]
    obtain ⟨hA, hB⟩ := slotCause_both (fun slot => (slotCheck s slot).1) s (slotsBegun e s)
    exact ⟨rfl, hA, hB⟩

end Sys2Proof.Proofs

/-! PROOF. Sleep and the wake comparators (18 R406-R408, R410; 21 R459, R461). -/

namespace Sys2Proof.Proofs

open Sys2Proof.Machine Sys2Proof.Laws

/-! ## What SLEEP asks (R406) -/

theorem servesAny_iff (s : State) : servesAny s = true ↔ ∃ e ∈ maps s, ∃ p ∈ e.2.pairs, myNode s ∈ serving p.2 := by
  simp only [servesAny, List.any_eq_true, List.contains_iff_mem]

theorem sleepRefused_iff (s : State) : sleepRefused s = true ↔
    (∃ e ∈ maps s, ∃ p ∈ e.2.pairs, myNode s ∈ serving p.2) ∨
    (∃ e ∈ s.key, e.2.st = .retiring ∨ e.2.st = .zeroising) ∨
    (∃ e ∈ s.dir, e.2.st = .loading ∨ e.2.st = .shifting ∨ e.2.st = .releasing ∨ ∃ t ∈ e.2.ten, t.2.st = .migrating ∨ t.2.st = .rewriting) ∨
    s.bmk.wakeCtrl &&& 0xF = 0 := by
  rw [← servesAny_iff]
  simp only [sleepRefused, Bool.or_eq_true, List.any_eq_true, beq_iff_eq, or_assoc]

section sleep
variable {c : Latched} {s : State} (h : fwCmd s 0x23 = some c) (hg : fwGate s 0x23 c.req = none)
include h hg

theorem execSleep_refused (hr : sleepRefused s = true) : exec .sleep s = .next (answerFw stStateConflict [] s) :=
  congrArg Host.Outcome.next ((fwRun_passed h hg).trans (if_pos hr))

theorem execSleep_accepted (hr : sleepRefused s = false) (hroom : s.cfg.outstanding.length < 16) (hs : s.pwr.sleep = .none) :
    ∃ t, exec .sleep s = .next t ∧ t.pwr.sleep = .quiescing (now s) c.tag ∧ t.cfg.deferred = true ∧ t.cfg.busy = false ∧
      t.cfg.status = stOk ∧ t.cfg.outstanding = s.cfg.outstanding ++ [{ opcode := c.opcode, tag := c.tag, obj := 0 }] := by
  change ∃ t, execSleep s = .next t ∧ _
  unfold execSleep
  rw [fwRun_passed h hg]
  simp only [hr, acceptDeferred_room hroom, hs, Bool.false_eq_true, if_false]
  exact ⟨_, rfl, rfl, rfl, rfl, rfl, rfl⟩

end sleep

/-! ## The end of SLEEP (R407) -/

/-- The end of a deferred command touches the outstanding commands and the ring alone. -/
theorem deferredEnd_eq (op obj st : Nat) (result : Bytes) (s : State) : ∃ o n r,
    deferredEnd op obj st result s = { s with cfg := { s.cfg with outstanding := o, ringHead := n, ring := r } } := by
  cases h : s.cfg.outstanding.find? (fun x => x.opcode == op && x.obj == obj) with
  | none =>
    refine ⟨s.cfg.outstanding, s.cfg.ringHead, s.cfg.ring, ?_⟩
    unfold deferredEnd
    rw [h]
  | some d => exact ⟨_, _, _, deferredEnd_found h⟩

theorem endSleeps_eq (st : Nat) (l : List Deferred) (s : State) : ∃ o n r,
    endSleeps st l s = { s with cfg := { s.cfg with outstanding := o, ringHead := n, ring := r } } := by
  induction l generalizing s with
  | nil => exact ⟨_, _, _, rfl⟩
  | cons d l ih =>
    by_cases hd : d.opcode = 0x23
    · obtain ⟨o, n, r, hstep⟩ := deferredEnd_eq 0x23 0 st [] s
      obtain ⟨o', n', r', hrest⟩ := ih (deferredEnd 0x23 0 st [] s)
      refine ⟨o', n', r', ?_⟩
      rw [endSleeps, if_pos hd, hrest, hstep]
    · obtain ⟨o, n, r, hrest⟩ := ih s
      exact ⟨o, n, r, by rw [endSleeps, if_neg hd, hrest]⟩

/-- The one SLEEP that waits ends, and its record is written. -/
theorem endSleeps_single {tag : Nat} {s : State} (h : s.cfg.outstanding = [⟨0x23, tag, 0⟩]) (st : Nat) :
    (endSleeps st s.cfg.outstanding s).cfg.outstanding = [] ∧
    tlook (endSleeps st s.cfg.outstanding s).cfg.ring (nextSeq s.cfg.ringHead % 16) =
      some (leBytes 1 st ++ leBytes 1 0x23 ++ [0, 0] ++ leBytes 4 tag ++ leBytes 4 (nextSeq s.cfg.ringHead) ++ [0, 0, 0, 0] ++ padTo 112 []) := by
  have hend : endSleeps st s.cfg.outstanding s = deferredEnd 0x23 0 st [] s := by
    rw [h]
    rfl
  have hfind : s.cfg.outstanding.find? (fun x => x.opcode == 0x23 && x.obj == 0) = some ⟨0x23, tag, 0⟩ := by
    rw [h]
    rfl
  rw [hend, deferredEnd_found hfind]
  refine ⟨?_, ringWrite_record _ _ _ _ _⟩
  change s.cfg.outstanding.erase _ = []
  rw [h]
  exact List.erase_cons_head _ _

/-! ## The saved state (R408) -/

theorem writeParts_eq (addr : Nat → Nat) (bytes : Nat → Bytes) (l : List Nat) (s : State) :
    l.foldl (fun s p => writeFast (addr p) (bytes p) s) s =
      { s with mem := { s.mem with fast := l.foldl (fun m p => memWrite m (addr p) (bytes p)) s.mem.fast } } := by
  induction l generalizing s with
  | nil => rfl
  | cons p l ih => exact ih _

/-- The fast tier with every part of the saved state written. -/
def savedFast (s : State) : Tbl Byte :=
  (savedParts (savedOf s)).foldl (fun m p => memWrite m (savedAddr p) (sealedPart (savedOf s) p)) s.mem.fast

theorem saveState_eq (s : State) : saveState s =
    { s with saved := some (savedOf s), free := s.free + 17, mem := { s.mem with fast := savedFast s } } := writeParts_eq _ _ _ _

/-- The node sleeps, before its SLEEP is answered. -/
def fellAsleep (s : State) : State :=
  { s with
    saved := some (savedOf s), free := s.free + 17, mem := { s.mem with fast := savedFast s }
    cfg := { s.cfg with phase := 7 }, pwr := { s.pwr with g7Rst := .high, sleep := .asleep (now s) } }

section quiesced
variable {since tag : Nat} {s : State} (ha : awake s = true) (hs : s.pwr.sleep = .quiescing since tag)
include ha hs

theorem execSleepQuiesced_eq : exec .sleepQuiesced s = .next (
    if (decide (now s ≤ since + 10000000) && quiesced s) = true then endSleeps stOk s.cfg.outstanding (fellAsleep s)
    else if since + 10000000 ≤ now s then endSleeps stRetry s.cfg.outstanding { s with pwr := { s.pwr with sleep := .none } }
    else s) := by
  change execSleepQuiesced s = _
  unfold execSleepQuiesced
  simp only [hs, ha, Bool.true_eq_false, if_false, saveState_eq]
  rfl

/-- With nothing left at work in time, the node sleeps (R407 steps 3 to 5). -/
theorem execSleepQuiesced_sleeps (ht : now s ≤ since + 10000000) (hq : quiesced s = true) :
    exec .sleepQuiesced s = .next (endSleeps stOk s.cfg.outstanding (fellAsleep s)) := by
  rw [execSleepQuiesced_eq ha hs, if_pos (by simp [ht, hq])]

theorem execSleepQuiesced_waits (hq : quiesced s = false) (ht : now s < since + 10000000) : exec .sleepQuiesced s = .next s := by
  rw [execSleepQuiesced_eq ha hs, if_neg (by simp [hq]), if_neg (by omega)]

theorem execSleepQuiesced_late (h : (quiesced s = false ∧ since + 10000000 ≤ now s) ∨ since + 10000000 < now s) :
    exec .sleepQuiesced s = .next (endSleeps stRetry s.cfg.outstanding { s with pwr := { s.pwr with sleep := .none } }) := by
  have hnot : ¬ (decide (now s ≤ since + 10000000) && quiesced s) = true := by
    rcases h with ⟨hq, -⟩ | ht
    · simp [hq]
    · simp [ht]
  rw [execSleepQuiesced_eq ha hs, if_neg hnot, if_pos (by omega)]

end quiesced

/-! ## Benchmark-only (R407, R410) -/

section asleep
variable {since : Nat} {s : State} (hs : s.pwr.sleep = .asleep since)
include hs

theorem execSleepReqAssert_waits (ht : now s < since + 1000000) : exec .sleepReqAssert s = .next s := by
  change execSleepReqAssert s = _
  unfold execSleepReqAssert
  simp only [hs, ht, or_true, if_true]

/-- SLEEP_REQ_N is low and the main domains are off. -/
theorem execSleepReqAssert_falls (ha : awake s = true) (ht : since + 1000000 ≤ now s) :
    let u := settle { s with pwr := { s.pwr with sleepReq := .low, mode := .bmkOnly, perst := [], romHold := false, resetDue := none } }
    exec .sleepReqAssert s = .next (if timeHolds s then wakeFires 0 u else u) := by
  have hdue : ¬ (awake s = false ∨ now s < since + 1000000) := not_or.2 ⟨by simp [ha], by omega⟩
  change execSleepReqAssert s = _
  unfold execSleepReqAssert
  simp only [hs]
  rw [if_neg hdue]
  rfl

end asleep

theorem intN_of_not_running {s : State} (h : s.pwr.mode ≠ .running) : intN s = .hiZ := if_pos h

/-- Settles O21: SLEEP by its conditions, the quiescing by its time, and the comparators by the power state. -/
theorem sleepSavesAndComparatorsWake : Obligations.SleepSavesAndComparatorsWake := by
  unfold Obligations.SleepSavesAndComparatorsWake
  refine ⟨sleepRefused_iff, fun c s h hg hr => execSleep_refused h hg hr, fun c s h hg hr hroom hs => execSleep_accepted h hg hr hroom hs,
    fun since tag s ha hs ht hq => ?_, fun since tag s ha hs => ⟨execSleepQuiesced_waits ha hs, fun h => ?_⟩,
    fun since s ha hs => ⟨execSleepReqAssert_waits hs, fun ht => ⟨execSleepReqAssert_falls hs ha ht, intN_of_not_running (by simp)⟩⟩,
    fun w x s hm hh => congrArg Host.Outcome.next (if_pos ⟨hm, hh⟩), fun bit s => rfl,
    fun w x s h => congrArg Host.Outcome.next (if_neg fun hn => ?_)⟩
  · refine ⟨_, execSleepQuiesced_sleeps ha hs ht hq, ?_⟩
    obtain ⟨o, n, r, hend⟩ := endSleeps_eq stOk s.cfg.outstanding (fellAsleep s)
    have hsingle (h : s.cfg.outstanding = [⟨0x23, tag, 0⟩]) := endSleeps_single (s := fellAsleep s) h stOk
    refine ⟨?_, ?_, ?_, ?_, ?_, hsingle⟩ <;> rw [hend] <;> rfl
  · refine ⟨_, execSleepQuiesced_late ha hs h, ?_⟩
    obtain ⟨o, n, r, hend⟩ := endSleeps_eq stRetry s.cfg.outstanding { s with pwr := { s.pwr with sleep := .none } }
    have hsingle (h : s.cfg.outstanding = [⟨0x23, tag, 0⟩]) :=
      endSleeps_single (s := { s with pwr := { s.pwr with sleep := .none } }) h stRetry
    refine ⟨?_, ?_, ?_, ?_, hsingle⟩ <;> rw [hend]
  · rcases h with h | h
    · exact h hn.1
    · simp [hn.2] at h

end Sys2Proof.Proofs
